-- ==== Sys2Proof/Word.lean ====
section
/-! DEFINITION. The word types of the model and their plainest arithmetic. Bits and bytes follow R7 to R9: bit 0 is the
least significant bit, multi-byte fields are little-endian, signed integers are two's complement. -/

namespace Sys2Proof

/-- A byte. -/
abbrev Byte := BitVec 8

/-- A 64-bit register word (R11). -/
abbrev Word := BitVec 64

/-- A lane of a vector engine (R271). -/
abbrev Lane := BitVec 32

/-- A string of bytes, lowest address first (R8). -/
abbrev Bytes := List (BitVec 8)

end Sys2Proof
end

