-- ==== Sys2Proof/Machine/VecTypes.lean ====
section
/-! DEFINITION. The vector engine's plain data: registers, masks, length and lookup table (R271, R281), and the fields of
a micro-op (R277). -/

namespace Sys2Proof.Machine

/-- The fields of a micro-op other than MU_OP (R277). -/
structure MuFields where
  keep : Bool
  men : Bool
  msk : Nat
  dst : Nat
  src1 : Nat
  src2 : Nat
  src3 : Nat
  imm : Bool
  immv : Lane
  deriving DecidableEq, Repr

/-- One register element: its 32 bits and its poison bit (R271). -/
structure VElem where
  bits : Lane
  poison : Bool
  deriving DecidableEq, Repr

/-- A vector engine: v0 to v31, m0 to m7, VL and the lookup table of the running program (R271, R281). A register lists
its lanes below VL; lanes at or beyond VL read as 0 (R273). -/
structure VecEngine where
  vl : Nat
  v : List (List VElem)
  m : List (List Bool)
  lut : List Lane
  deriving DecidableEq, Repr

end Sys2Proof.Machine
end

