-- ==== Sys2Proof/Machine/Wire.lean ====
section
/-! DEFINITION. What comes in from outside as plain records: flits, hellos, link-state records, RoCEv2 packets, and what
a boot finds. They are operands of commands and entries of the state. -/

namespace Sys2Proof.Machine

/-- A flit without its CRC (R574). -/
structure Flit where
  typ : Nat
  vc : Nat
  dim : Nat
  seq : Nat
  ack : Nat
  nak : Bool
  cr0 : Nat
  cr1 : Nat
  dst : Nat
  src : Nat
  hops : Nat
  plen : Nat
  index : Nat
  last : Bool
  chase : Nat
  msg : Nat
  arg : Nat
  payload : Bytes
  deriving DecidableEq, Repr

/-- What a HELLO carries (R601, R624): serial number, fabric name, node ID and its HLK_ND_STATE, the sending link and its
Holtend die, and the time quality (hop count 255: none; lock state; serial number of the PPS-locked root). -/
structure Hello where
  serial : Nat
  name : Nat
  node : Nat
  ndState : Nat
  link : Nat
  die : Nat
  hops : Nat
  lock : Nat
  root : Nat
  deriving DecidableEq, Repr

/-- A bundle in a link-state record (R603). -/
structure LsrBundle where
  id : Nat
  links : Nat
  peer : Nat
  peerBundle : Nat
  deriving DecidableEq, Repr

/-- A link-state record (R603); `ndState` 1 says that the node ID is an installer's (R605). -/
structure Lsr where
  serial : Nat
  name : Nat
  node : Nat
  ndState : Nat
  gen : Nat
  bundles : List LsrBundle
  deriving DecidableEq, Repr

/-- What the MAC sees of a received frame (R628, R638): port, length in bytes, IEEE 802.1Q tags, an ECN congestion mark, and, for a priority
flow control frame, the priority that it names. -/
structure EthFrame where
  port : Nat
  bytes : Nat
  tags : Nat
  ecn : Bool
  pfc : Option Nat
  deriving DecidableEq, Repr

/-- What a requester asks on a queue pair (R632). -/
inductive RoceOp where
  | send | write | read
  deriving DecidableEq, Repr

/-- A RoCEv2 request packet as it reaches a port (R628, R632): the queue pair, the packet sequence number, its place in its
message (first, last), whether it is marked by ECN, whether it uses a feature outside the subset, the remote key, address
and length of a WRITE or READ, the data, and the length of its frame and the frame's tags. -/
structure RocePkt where
  port : Nat
  qpn : Nat
  psn : Nat
  first : Bool
  last : Bool
  ecn : Bool
  unsupported : Bool
  rkey : Nat
  addr : Nat
  len : Nat
  data : Bytes
  bytes : Nat
  tags : Nat
  deriving DecidableEq, Repr

/-- A request that a resident core makes of a queue pair in the course of a core job (R632, R695): the operation, the chase address of
the local data, its length, and for a WRITE or READ the remote address and key. -/
structure CoreAsk where
  qpn : Nat
  op : RoceOp
  addr : Nat
  len : Nat
  raddr : Nat
  rkey : Nat
  deriving DecidableEq, Repr

/-- A received frame that asks for an address: the address asked for, source addresses, and the frame's length and tags. -/
structure AskFrame where
  port : Nat
  target : Nat
  srcMac : Nat
  srcIp : Nat
  bytes : Nat
  tags : Nat
  deriving DecidableEq, Repr

/-- A credential: its ID, modulus and public exponent (R746). -/
structure Cred where
  id : Nat
  modulus : Nat
  exponent : Nat
  deriving DecidableEq, Repr

/-- What a boot finds of a stored record (R768, R770): its AES-GCM tag verifies under this device's storage key, and the version of the copy
that stands in the eMMC. -/
structure RecordFind where
  tag : Bool
  version : Nat
  deriving DecidableEq, Repr

/-- The copy passes against the version that RPMB holds of the record (R767, R770): an older copy does not. -/
def RecordFind.passes (r : RecordFind) (held : Nat) : Bool := r.tag && decide (held ≤ r.version)

/-- What a boot finds outside the block (R768 to R772, R784, R833, R834). -/
structure BootFinds where
  /-- The pins BOOT_SEL and PCIE_X8. -/
  bootSel : Nat
  x8 : Bool
  /-- Step 1 passes; step 2 with the maker credentials of the list; step 3; step 4. -/
  selfTest : Bool
  makerList : Bool
  makers : List Cred
  config : Bool
  puf : Bool
  /-- Step 5: the tag and version of each stored record; none when the colophon's chain verifies, else the sequence number
  after its last verified entry. -/
  roleTable : RecordFind
  settings : RecordFind
  fence : RecordFind
  colophonBreak : Option Nat
  /-- Step 7: the signature and the security version of the images of each slot. -/
  primary : Bool
  version : Nat
  secondary : Bool
  version2 : Nat
  /-- The digests of the images of each slot (R774): security island, management controller, resident cores, region sequencers. -/
  digests : List Bytes
  digests2 : List Bytes
  /-- Start-up steps 5 and 6: the repair record's check; stacks that fail training; spares that fail their test: level (0
  column, 1 cell, 2 block, 3 region), physical region, block, cell. -/
  repairRecord : Bool
  badStacks : List Nat
  badSpares : List (Nat × Nat × Nat × Nat)
  /-- Links with signal at the start of BRING_UP. -/
  signal : List Nat
  /-- Milliseconds from boot start to a halt. -/
  ms : Nat
  deriving DecidableEq, Repr

/-- A summary slot (R146, R148): the exact sum, the count, the greatest value with its full index, and the flags that are
not computed from them. -/
structure SummarySlot where
  sum : Int
  count : Nat
  max : Int
  maxIdx : Nat
  ovf : Bool
  poison : Bool
  chase : Bool
  deriving DecidableEq, Repr

/-- The empty summary (R875). -/
def SummarySlot.empty : SummarySlot := ⟨0, 0, 0, 0, false, false, false⟩

/-- A stored slug: its tag fields and its body (R305, R306), and whether its row is poisoned (R346). -/
structure Slug where
  exp : Int
  form : Nat
  body : Bytes
  poison : Bool
  deriving DecidableEq, Repr

/-- The all-zero slug in zero form at exponent 0. -/
def Slug.zero : Slug := ⟨0, 3, [], false⟩

/-- A guest copy of a remote slug (R452 to R455): galley position, slug, state number. -/
structure GuestCopy where
  galley : Nat
  slug : Nat
  state : Nat
  row : Slug
  deriving DecidableEq, Repr

/-- The failed attempts of one transfer between a Lornemet die and an Oasil base die (R507): how many, and whether the parity of the
command or address fails, or that of the data. -/
structure XferFail where
  fails : Nat
  command : Bool
  deriving DecidableEq, Repr

/-- A symbol of a codeword in error (R509): its number, 0 to 15 data and 16 to 18 check symbols, and what is XORed to it. In a line of
two sectors the symbols of the second one count from 19. -/
structure SymErr where
  symbol : Nat
  error : Nat
  deriving DecidableEq, Repr

/-- One transfer of a sector that a command makes: the HBM address, whether it writes, its failed attempts, and, for a read, the
symbols in error of the codeword that comes back (R507 to R511). -/
structure HbmXfer where
  addr : Nat
  write : Bool
  fail : XferFail
  errs : List SymErr
  deriving DecidableEq, Repr

/-- What meets a ticket that moves data while it acts: its sequence number, and the transfers of HBM that do not go through at once
(R507 to R511). -/
structure TicketIn where
  seq : Nat
  hbm : List HbmXfer
  deriving DecidableEq, Repr

/-- The length of a BAR2 read, and its transfers of HBM that do not go through at once. -/
structure BarRun where
  len : Nat
  hbm : List HbmXfer
  deriving DecidableEq, Repr

/-- The bytes of a BAR2 write, and its transfers of HBM that do not go through at once. -/
structure BarData where
  data : Bytes
  hbm : List HbmXfer
  deriving DecidableEq, Repr

/-- What the hardware's own checks find while a plate runs (R789 to R793). Places are logical: region, block, cell. -/
inductive HwEvent where
  /-- An SRAM word is corrected: level 0 cell, 1 block, 2 region. -/
  | sramCorrected (level region block cell : Nat)
  /-- A word of SRAM macro `mac` is corrected again or cannot be corrected: it escalates; with `lost` its content is
  poison, at chase address `addr` when it is part of chase data (0: none). -/
  | sramEscalates (level region block cell mac : Nat) (lost : Bool) (addr : Nat)
  /-- A crossbar, chain or die-network transfer is retried. -/
  | transferRetried (level region block : Nat)
  /-- A transfer fails its fourth retry: level 1 block, 2 region. -/
  | transferFails (level region block : Nat)
  /-- A die bridge or I/O bridge cannot retrain. -/
  | bridgeFails
  /-- A vector-engine run on a cell fails its residue check and is executed again (R796). -/
  | runFails (region block cell : Nat)
  /-- An entry of a block's stipple buffer becomes uncorrectable (R792). -/
  | stippleLost (region block : Nat)
  /-- A group partial of a column fails its residue check (R176, R221, R790): the reissue matches, or with `hard` fails too;
  then `tiles` are the output tiles whose open groups on the cell had taken an ADD_WIDE (R794). -/
  | residue (region block cell col : Nat) (hard : Bool) (tiles : List Nat)
  /-- A word of the SRAM of a region sequencer is corrected (R789). -/
  | seqCorrected (region : Nat)
  /-- A word of the SRAM of a region sequencer cannot be corrected, or a residue mismatch of its ALU recurs (R798). -/
  | seqLost (region : Nat)
  | seqResidue (region : Nat)
  /-- A read or write of the plate's makes a transfer of HBM that does not go through at once (R507 to R511). -/
  | hbm (x : HbmXfer)
  deriving DecidableEq, Repr

/-- What meets an EXCHANGE plate while it runs: findings of the hardware's checks, and the slugs of its galley that other members
want as guest copies, each with the member's ordinal (R453). -/
structure ExchangeIn where
  hw : List HwEvent
  asks : List (Nat × Nat)
  deriving DecidableEq, Repr

end Sys2Proof.Machine
end

