-- ==== Sys2Proof/Syntax.lean ====
section
/-! DEFINITION. The commands of the block: one constructor per row of spec/opcode_table.json, with the row's operands, and
the plain records that some operands are. -/

namespace Sys2Proof

open Sys2Proof.Machine (MuFields Flit Hello Lsr RocePkt EthFrame AskFrame BootFinds SummarySlot Slug GuestCopy HwEvent ExchangeIn CoreAsk XferFail SymErr HbmXfer TicketIn
  BarRun BarData)

/-- A logical cell: region 0 to 15, block 0 to 15, cell 0 to 15 (R30). -/
structure CellId where
  region : Nat
  block : Nat
  cell : Nat
  deriving DecidableEq, Repr

/-- What an accumulation group is opened for: the extent of its output tile, and the chase slot and plate it belongs to,
with the chase address at which the closed tile is written. -/
structure GroupShape where
  rows : Nat
  cols : Nat
  slot : Nat
  plate : Nat
  dst : Nat
  lineTile : Nat
  kTile : Nat
  deriving DecidableEq, Repr

/-- A FEED of one row and one group pair (R172): the raw elements and formats of the two operands, their exponent fields,
whether an operand tile is poisoned, and what the hardware's columns add by fault at the issue and at the reissue
(column, error): with no fault both lists are empty. -/
structure FeedOp where
  row : Nat
  fmtA : Nat
  fmtB : Nat
  a : List Nat
  ea : Nat
  w : List (List Nat)
  eb : List Nat
  poison : Bool
  err1 : List (Nat × Int)
  err2 : List (Nat × Int)
  deriving DecidableEq, Repr

/-- What ECC decoding of a sector comes to (R509 to R511): no symbol in error; one, corrected; two or more that are detected; more than
two that decode to another codeword. -/
inductive EccResult where
  | clean
  | corrected
  | uncorrectable
  | miscorrected
  deriving DecidableEq, Repr

/-- The commands of the block: one constructor per row of the opcode table. -/
inductive Instr where
  /-- PWR_GOOD_RISE (R829). PWR_GOOD rises; the device holds itself in reset for 1 ms and the time counter starts from 0. -/
  | pwrGoodRise
  /-- PWR_GOOD_LOSS (R826). PWR_GOOD is low for 1 µs or more; the COLD domain resets and clocks and transmitters stop within 10 µs. -/
  | pwrGoodLoss
  /-- CLOCK_LOSS (R855). SYSCLK_25M or a REFCLK_156M25 input stops for 10 µs while PWR_GOOD is high; the device acts as on a loss of PWR_GOOD. -/
  | clockLoss (sysclk : Bool)
  /-- REFCLK_100M_STOP (R856). REFCLK_100M stops and the PCIe link goes down. -/
  | refclk100mStop
  /-- REFCLK_100M_RETURN (R856). REFCLK_100M returns; the PCIe link retrains and this counts as a hot reset. -/
  | refclk100mReturn
  /-- RESET_N_ASSERT (R830). RESET_N is low for 10 µs or more; the WARM domain resets, authorisations end and a pending fence record is applied. -/
  | resetNAssert
  /-- BOOT_START (R829). At the later of the end of the 1 ms hold and the rising edge of RESET_N, the device samples BOOT_SEL and PCIE_X8 and runs the boot chain and its stages. -/
  | bootStart (f : BootFinds)
  /-- READY (R837). Once HBM, units, fabric and time conditions are met, or 44 s after boot start, the device enters READY and acts on kept doorbells. -/
  | ready (late : Bool)
  /-- CONFIG_REQUEST (R654). A PCIe Configuration Request adds its Requester ID to the host set. -/
  | configRequest (rid : Nat) (cxlMem : Option Bool) (cxlCache : Option Bool)
  /-- FUNCTION_LEVEL_RESET (R831). A PCIe Function Level Reset or hot reset resets the FUNC domain, tearing down every chase and disabling every ring. -/
  | functionLevelReset
  /-- D3HOT_RETURN (R650). A return from D3hot to D0 acts as a FUNC reset. -/
  | d3hotReturn
  /-- BAR2_READ (R657). A host read through BAR2 reaches one stack of HBM directly, bypassing the home slices. -/
  | bar2Read (rid : Nat) (off : Nat) (run : BarRun)
  /-- BAR2_WRITE (R657). A host write through BAR2 passes through the home slice of its line. -/
  | bar2Write (rid : Nat) (off : Nat) (run : BarData)
  /-- CXL_MEM_READ (R646). The line at HBM address addr; found lists the symbols of its two codewords in error, fails the failed transfers (R507, R509). -/
  | cxlMemRead (rid : Nat) (addr : Nat) (found : List SymErr) (fails : XferFail)
  /-- CXL_MEM_WRITE (R646). The bytes data at HBM address addr within one line; fails says how often and where its transfer fails (R507). -/
  | cxlMemWrite (rid : Nat) (addr : Nat) (data : Bytes) (fails : XferFail)
  /-- REGISTER_WRITE (R15). A write to a BAR0 register without behaviour of its own changes its fields according to their access codes. -/
  | registerWrite (rid : Nat) (off : Nat) (width : Nat) (value : Nat)
  /-- DOORBELL (R665). The operand stores lists the host's own stores to its memory since the last command. -/
  | doorbell (rid : Nat) (ring : Nat) (value : Nat) (stores : List (Nat × BitVec 8))
  /-- TICKET_REREAD (R667). The operand stores lists the host's own stores to its memory since the last command. -/
  | ticketReread (ring : Nat) (stores : List (Nat × BitVec 8))
  /-- HIF_RG_EN (R664). Setting HIF_RG_EN enables a ring, resetting head and proof count, or is refused. -/
  | hifRgEn (rid : Nat) (ring : Nat) (value : Nat)
  /-- RING_DISABLE (R673). Clearing HIF_RG_EN stops fetching and the ring drains to state 0. -/
  | ringDisable (rid : Nat) (ring : Nat) (value : Nat)
  /-- HIF_RG_RESUME (R669). A write of HIF_RG_RESUME restarts a ring paused in state 2 or 3. -/
  | hifRgResume (rid : Nat) (ring : Nat) (stores : List (Nat × BitVec 8))
  /-- HIF_HOST_POOL (R659). A write to HIF_HOST_POOL sets the host pool, or is refused while a slot is not EMPTY. -/
  | hifHostPool (rid : Nat) (value : Nat)
  /-- HIF_HOST_RID (R654). A write to HIF_HOST_RID from a host-set requester enters up to three extra Requester IDs. -/
  | hifHostRid (rid : Nat) (value : Nat)
  /-- HIF_APERTURE_SYNC (R658). A read of HIF_APERTURE_SYNC completes after every present merging-buffer entry is written to DRAM. -/
  | hifApertureSync (rid : Nat)
  /-- HIF_DMA_FENCE (R663). A read of HIF_DMA_FENCE completes after every earlier host-memory access has completed. -/
  | hifDmaFence (rid : Nat)
  /-- TIME_NS (R731). A read of TIME_NS latches the matching fraction into TIME_FRAC. -/
  | timeNs (rid : Nat)
  /-- IMP_QUERY (R463). A write to IMP_QUERY starts a lookup in the placement map. -/
  | impQuery (rid : Nat) (value : Nat)
  /-- MRK_XLATE (R530). A 64-bit write to MRK_XLATE translates a slot, context and ME_ID to a mark number. -/
  | mrkXlate (rid : Nat) (value : Nat)
  /-- DBG_MARK_SET (R564). A 64-bit write to DBG_MARK_SET sets a mark's count and optionally its sense, or is refused. -/
  | dbgMarkSet (rid : Nat) (value : Nat)
  /-- RC_WAYS (R480). A write to RC_WAYS requests a new division of region-cache ways, or is refused. -/
  | rcWays (rid : Nat) (p : Nat) (value : Nat)
  /-- RC_WAYS_APPLY (R481). A pending way change takes effect after cleaning, or within 100 µs in a region no running chase holds. -/
  | rcWaysApply (p : Nat)
  /-- CLEAN (R494). Range operation CLEAN writes the merging-buffer entries of the range to DRAM. -/
  | clean (rid : Nat) (p : Nat) (slot : Nat) (kind : Bool)
  /-- INVALIDATE (R494). Range operation INVALIDATE discards the range's merging-buffer entries and cached copies. -/
  | invalidate (rid : Nat) (p : Nat) (slot : Nat) (kind : Bool)
  /-- CLEAN_INVALIDATE (R494). Range operation CLEAN_INVALIDATE cleans and then discards cached copies of the range. -/
  | cleanInvalidate (rid : Nat) (p : Nat) (slot : Nat) (kind : Bool)
  /-- ZERO (R494). Range operation ZERO sets every line of the range to zero wherever it lies. -/
  | zero (rid : Nat) (p : Nat) (slot : Nat) (kind : Bool)
  /-- RANGE_DONE (R499). The range engine processes the last line of an operation and clears RC_RNG_BUSY. -/
  | rangeDone (p : Nat)
  /-- READ_MAP (R520). HBM_MAINT operation READ_MAP returns the spare use and bad marks of a bank under repair access. -/
  | readMap (rid : Nat) (stack : Nat) (pc : Nat) (bank : Nat) (row : Nat)
  /-- FORCE_REPAIR (R520). HBM_MAINT operation FORCE_REPAIR repairs the named row under repair access. -/
  | forceRepair (rid : Nat) (stack : Nat) (pc : Nat) (bank : Nat) (row : Nat)
  /-- TEST_PC (R521). The operand pass is what the base die's self-test finds. -/
  | testPc (rid : Nat) (stack : Nat) (pc : Nat) (bank : Nat) (row : Nat) (pass : Bool)
  /-- RETURN_PC (R520). HBM_MAINT operation RETURN_PC brings a tested offline pseudo-channel back at the next start-up. -/
  | returnPc (rid : Nat) (stack : Nat) (pc : Nat) (bank : Nat) (row : Nat)
  /-- PROOF (R683). When a ticket's work completes, the device writes its proof to the proof ring and signals MSI-X as configured. -/
  | proof (ring : Nat) (seq : Nat)
  /-- COALESCE_TIMEOUT (R698). HIF_RG_COAL_US passes since the first unsignalled proof and the ring's vector is signalled. -/
  | coalesceTimeout (ring : Nat)
  /-- NOP (R678). Ticket NOP does nothing and completes. -/
  | nop (ring : Nat) (seq : Nat)
  /-- FORME_LOAD (R92). Ticket FORME_LOAD copies a forme into the forme store and validates it. -/
  | formeLoad (ring : Nat) (t : TicketIn)
  /-- CHASE_START (R98). Ticket CHASE_START moves the slot to JOINING, clears marks and announces the digest to members. -/
  | chaseStart (ring : Nat) (seq : Nat)
  /-- CHASE_STOP (R101). Ticket CHASE_STOP returns a joining chase to LOADED or announces a stop stroke to all members. -/
  | chaseStop (ring : Nat) (seq : Nat)
  /-- CHASE_TEARDOWN (R105). Ticket CHASE_TEARDOWN releases the chase's resources and empties the slot. -/
  | chaseTeardown (ring : Nat) (seq : Nat)
  /-- LOAD (R323). Load-record operation LOAD writes slugs into the incoming state, creating it if needed. -/
  | load (ring : Nat) (t : TicketIn)
  /-- SET_BLANK (R311). Load-record operation SET_BLANK writes the blank slug of the incoming state. -/
  | setBlank (ring : Nat) (seq : Nat)
  /-- SEAL (R317). Load-record operation SEAL seals the incoming state. -/
  | seal (ring : Nat) (seq : Nat)
  /-- ABORT (R331). Load-record operation ABORT discards the incoming state and cancels an unnamed switch request. -/
  | abort (ring : Nat) (seq : Nat)
  /-- GALLEY_SWITCH (R328). Ticket GALLEY_SWITCH seals the incoming state and requests a switch, or commits at once in an idle chase. -/
  | galleySwitch (ring : Nat) (seq : Nat)
  /-- SWITCH_COMMIT (R329). The incoming state becomes serving and the old serving state becomes draining. -/
  | switchCommit (slot : Nat) (galley : Nat)
  /-- GALLEY_READ (R879). Ticket GALLEY_READ reads slugs of a named galley state to the destination. -/
  | galleyRead (ring : Nat) (t : TicketIn)
  /-- DATA_WRITE (R678). Ticket DATA_WRITE writes bytes or tiles into the chase's data space. -/
  | dataWrite (ring : Nat) (t : TicketIn)
  /-- DATA_READ (R678). Ticket DATA_READ delivers bytes from the chase's data space to host memory or the host pool. -/
  | dataRead (ring : Nat) (t : TicketIn)
  /-- SAMPLE (R691). Ticket SAMPLE feeds one sequence stretch to a chase for binding to a sample slot. -/
  | sample (ring : Nat) (t : TicketIn)
  /-- IMP_HINT (R444). Ticket IMP_HINT applies hint records to the chase's placement. -/
  | impHint (ring : Nat) (seq : Nat)
  /-- MARK_OP (R680). Ticket MARK_OP signals or takes a mark as MRK_SIGNAL does. -/
  | markOp (ring : Nat) (seq : Nat)
  /-- MARK_WAIT (R680). Ticket MARK_WAIT waits without consuming until a mark reaches its target or flips. -/
  | markWait (ring : Nat) (seq : Nat)
  /-- QP_CREATE (R681). Ticket QP_CREATE creates a RoCEv2 queue pair from a record. -/
  | qpCreate (ring : Nat) (seq : Nat)
  /-- QP_DESTROY (R678). Ticket QP_DESTROY destroys a queue pair. -/
  | qpDestroy (ring : Nat) (seq : Nat)
  /-- MR_REGISTER (R633). Ticket MR_REGISTER registers a memory region and returns its key. -/
  | mrRegister (ring : Nat) (seq : Nat)
  /-- MR_DEREGISTER (R678). Ticket MR_DEREGISTER removes a memory region. -/
  | mrDeregister (ring : Nat) (seq : Nat)
  /-- CORE_JOB (R682). Ticket CORE_JOB passes inline data to the resident cores. -/
  | coreJob (ring : Nat) (seq : Nat) (posts : List (Nat × Bytes)) (asks : List CoreAsk)
  /-- LOCK_UP (R115). A stroke begins at the time of its GO verdict and the lock-up commits grants, switches and migrations in order. -/
  | lockUp (slot : Nat) (left : Nat) (peers : List GuestCopy)
  /-- LOCKUP_BUDGET_END (R117). The lock-up budget ends; uncommitted migrations carry to the next lock-up and run begins. -/
  | lockupBudgetEnd (slot : Nat)
  /-- LATE_RUN (R121). The run phase passes (1,000 − ST_DIST_PM) per mille of the interval and one late run is counted. -/
  | lateRun (slot : Nat)
  /-- DONE (R123). The root receives a member's done message and, when it holds all, issues a GO verdict. -/
  | done (slot : Nat) (ordinal : Nat) (stamp : Nat)
  /-- SLIP (R126). B + H − L passes without all done messages and the root slips the boundary. -/
  | slip (slot : Nat)
  /-- VERDICT (R124). A member receives the root's verdict for a boundary. -/
  | verdict (slot : Nat) (m : Nat) (go : Bool) (start : Nat) (named : List (Nat × Nat))
  /-- VERDICT_TIMEOUT (R127). A member without a verdict by B + H + L treats the stroke as slipped. -/
  | verdictTimeout (slot : Nat)
  /-- JOIN (R98). A member receives another member's join with its forme digest. -/
  | join (slot : Nat) (ordinal : Nat) (digest : Bytes) (latency : Nat)
  /-- JOIN_TIMEOUT (R99). The join timeout expires and the waiting start fails with PEER_TIMEOUT. -/
  | joinTimeout (slot : Nat)
  /-- START (R100). A member receives the start stroke announced by ordinal 0. -/
  | start (slot : Nat) (stroke : Nat) (epoch : Nat) (announce : Nat)
  /-- STOP (R101). A member receives a stop stroke and adopts the lowest one. -/
  | stop (slot : Nat) (ordinal : Nat) (stroke : Nat)
  /-- FAULT (R131). A member receives a fault and faults the chase with PEER_FAULT. -/
  | fault (slot : Nat) (ordinal : Nat)
  /-- SWITCH_REQ (R328). The root receives a galley switch request from a member. -/
  | switchReq (slot : Nat) (ordinal : Nat) (galley : Nat) (state : Nat)
  /-- SUMMARY (R599). The root receives a member's summary contribution for an EXCHANGE. -/
  | summary (slot : Nat) (ordinal : Nat) (k : Nat) (v : SummarySlot)
  /-- SUMMARY_RESULT (R151). A member receives the combined summary and writes it to its slot. -/
  | summaryResult (slot : Nat) (k : Nat) (v : SummarySlot)
  /-- GATHER (R335). A GATHER plate in role LOCAL looks up slugs and pools bags. -/
  | gather (slot : Nat) (hw : List HwEvent)
  /-- SPLIT (R352). A GATHER plate in role SPLIT pools owned entries and queues requests for remote ones. -/
  | split (slot : Nat) (hw : List HwEvent)
  /-- SERVE (R352). A GATHER plate in role SERVE pools received requests into partials. -/
  | serve (slot : Nat) (hw : List HwEvent)
  /-- COMBINE (R354). A GATHER plate in role COMBINE adds received partials and closes the output. -/
  | combine (slot : Nat) (hw : List HwEvent)
  /-- SCATTER (R356). A SCATTER plate scatter-adds gradients into a galley master or chase array. -/
  | scatter (slot : Nat) (hw : List HwEvent) (arrival : List Nat)
  /-- DENSE (R235). A DENSE plate evaluates tile products densely. -/
  | dense (slot : Nat) (hw : List HwEvent)
  /-- SPARSE (R237). A SPARSE plate evaluates each segment dense or sparse. -/
  | sparse (slot : Nat) (hw : List HwEvent)
  /-- AGGREGATE (R386). An AGGREGATE plate gathers neighbour features and combines them exactly. -/
  | aggregate (slot : Nat) (hw : List HwEvent) (arrival : List Nat)
  /-- FRONTIER (R410). A FRONTIER plate computes and writes the next frontier. -/
  | frontier (slot : Nat) (hw : List HwEvent)
  /-- TINT (R289). A TINT plate applies a tint program to each line of its tiles. -/
  | tint (slot : Nat) (hw : List HwEvent)
  /-- REDUCE (R209). A REDUCE plate combines sets of full-width partials within a member or across the chase. -/
  | reduce (slot : Nat) (hw : List HwEvent)
  /-- EXCHANGE (R598). An EXCHANGE plate sends its list entries and queued records to other members. -/
  | exchange (slot : Nat) (inp : ExchangeIn)
  /-- PUBLISH (R367). A STATE plate with SO_OP PUBLISH writes dirty master rows into the incoming state. -/
  | publish (slot : Nat) (hw : List HwEvent)
  /-- SWITCH (R328). A STATE plate with SO_OP SWITCH seals the incoming state and requests a switch. -/
  | switch (slot : Nat) (hw : List HwEvent)
  /-- STATE_ABORT (R331). A STATE plate with SO_OP ABORT discards the incoming state or cancels an unnamed request. -/
  | stateAbort (slot : Nat) (hw : List HwEvent)
  /-- HOLD (R140). A HOLD plate ends the member's work for the stroke, optionally parking or setting realign and context switch. -/
  | hold (slot : Nat)
  /-- BRANCH (R152). A BRANCH plate chooses the next plate from a summary slot. -/
  | branch (slot : Nat)
  /-- PLATE_COMPLETE (R144). A plate completes in a region; its mark is signalled, its summary written and the plate barrier may complete. -/
  | plateComplete (slot : Nat) (region : Nat)
  /-- OPEN_ZERO (R180). An accumulation group opens with every accumulator zero. -/
  | openZero (cell : CellId) (g : Nat) (shape : GroupShape)
  /-- OPEN_LOAD (R180). An accumulation group opens loaded from full-width partial records. -/
  | openLoad (cell : CellId) (g : Nat) (shape : GroupShape) (recs : List Bytes)
  /-- FEED (R172). One row's group partials are residue-checked, shifted and added into the accumulators. -/
  | feed (cell : CellId) (g : Nat) (f : FeedOp)
  /-- ADD_WIDE (R180). One full-width value is added into one accumulator. -/
  | addWide (cell : CellId) (g : Nat) (r : Nat) (n : Nat) (rec : Bytes)
  /-- CLOSE (R190). A group converts its tile under a close word and writes it out. -/
  | close (cell : CellId) (g : Nat) (cw : Nat)
  /-- TINT_NOP (R278). Micro-op NOP does nothing. -/
  | tintNop (cell : CellId) (u : MuFields)
  /-- ADD (R278). Micro-op ADD adds modulo 2^32. -/
  | add (cell : CellId) (u : MuFields)
  /-- SUB (R278). Micro-op SUB subtracts modulo 2^32. -/
  | sub (cell : CellId) (u : MuFields)
  /-- MUL (R278). Micro-op MUL writes the low 32 bits of the product. -/
  | mul (cell : CellId) (u : MuFields)
  /-- MULH (R278). Micro-op MULH writes the high 32 bits of the signed product. -/
  | mulh (cell : CellId) (u : MuFields)
  /-- MULHU (R278). Micro-op MULHU writes the high 32 bits of the unsigned product. -/
  | mulhu (cell : CellId) (u : MuFields)
  /-- SHL (R278). Micro-op SHL shifts left. -/
  | shl (cell : CellId) (u : MuFields)
  /-- SHR (R278). Micro-op SHR shifts right logically. -/
  | shr (cell : CellId) (u : MuFields)
  /-- SRA (R278). Micro-op SRA shifts right arithmetically. -/
  | sra (cell : CellId) (u : MuFields)
  /-- MIN (R278). Micro-op MIN takes the signed minimum. -/
  | min (cell : CellId) (u : MuFields)
  /-- MAX (R278). Micro-op MAX takes the signed maximum. -/
  | max (cell : CellId) (u : MuFields)
  /-- ABS (R278). Micro-op ABS takes the absolute value. -/
  | abs (cell : CellId) (u : MuFields)
  /-- CMPEQ (R278). Micro-op CMPEQ writes an equality mask. -/
  | cmpeq (cell : CellId) (u : MuFields)
  /-- CMPLT (R278). Micro-op CMPLT writes a signed less-than mask. -/
  | cmplt (cell : CellId) (u : MuFields)
  /-- CMPLTU (R278). Micro-op CMPLTU writes an unsigned less-than mask. -/
  | cmpltu (cell : CellId) (u : MuFields)
  /-- CMPLE (R278). Micro-op CMPLE writes a signed less-or-equal mask. -/
  | cmple (cell : CellId) (u : MuFields)
  /-- SEL (R278). Micro-op SEL selects per lane by a mask. -/
  | sel (cell : CellId) (u : MuFields)
  /-- CLAMP (R278). Micro-op CLAMP bounds each lane between lo and hi. -/
  | clamp (cell : CellId) (u : MuFields)
  /-- REQ (R279). Micro-op REQ requantises with round-half-even and clamps. -/
  | req (cell : CellId) (u : MuFields)
  /-- LUT (R278). Micro-op LUT reads the program's lookup table. -/
  | lut (cell : CellId) (u : MuFields)
  /-- RCP (R278). Micro-op RCP computes a rounded scaled reciprocal. -/
  | rcp (cell : CellId) (u : MuFields)
  /-- EXP2 (R278). Micro-op EXP2 computes a rounded power of two. -/
  | exp2 (cell : CellId) (u : MuFields)
  /-- PERM (R282). Micro-op PERM permutes lanes and flags indices at or beyond VL. -/
  | perm (cell : CellId) (u : MuFields)
  /-- ADD192 (R278). Micro-op ADD192 adds 192-bit values held in register sextets. -/
  | add192 (cell : CellId) (u : MuFields)
  /-- MOVI (R278). Micro-op MOVI writes the immediate. -/
  | movi (cell : CellId) (u : MuFields)
  /-- SIGNAL (R531). A host write of MRK_SIGNAL with operation 0. -/
  | signal (rid : Nat) (mark : Nat) (amount : Nat)
  /-- TAKE (R533). A host write of MRK_SIGNAL with operation 1. -/
  | take (rid : Nat) (mark : Nat) (amount : Nat)
  /-- WAIT_LEND (R550). A native plate wait reaches 2 µs and the waiting regions' ink is lent. -/
  | waitLend (slot : Nat)
  /-- DEADLOCK_REPORT (R562). All held regions stay blocked for MRK_DL_TIMEOUT_US and a deadlock is reported. -/
  | deadlockReport (slot : Nat)
  /-- ATOMIC_ADD (R500). Atomic ADD adds an s64 modulo 2^64 in the home slice. -/
  | atomicAdd (slot : Nat) (addr : Nat) (v : Int)
  /-- MIN_IDX (R501). Atomic MIN_IDX keeps the lesser value and index in a min-max slot. -/
  | minIdx (slot : Nat) (addr : Nat) (v : Int) (index : Nat)
  /-- MAX_IDX (R501). Atomic MAX_IDX keeps the greater value and index in a min-max slot. -/
  | maxIdx (slot : Nat) (addr : Nat) (v : Int) (index : Nat)
  /-- CAS (R500). Atomic CAS compares and swaps a u64. -/
  | cas (slot : Nat) (addr : Nat) (compare : Nat) (new : Nat)
  /-- XCHG (R500). Atomic XCHG exchanges a u64. -/
  | xchg (slot : Nat) (addr : Nat) (v : Nat)
  /-- MB_DRAIN (R491). A merging-buffer entry reaches RC_MB_AGE and is written to DRAM. -/
  | mbDrain (line : Nat)
  /-- HBM_TEMP (R505). A stack reports its temperature and the device sets its thermal step. -/
  | hbmTemp (stack : Nat) (temp : Nat)
  /-- SCRUB (R512). The operands found and fails are what ECC decoding finds and the failed transfers (R507). -/
  | scrub (stack : Nat) (pc : Nat) (line : Nat) (sector : Nat) (found : List SymErr) (fails : XferFail)
  /-- STACK_OFFLINE (R518). A stack that returns no response for 1 ms goes offline and its bands are rebuilt. -/
  | stackOffline (stack : Nat)
  /-- LOSS_OF_SIGNAL (R573). A link loses signal for 1 µs and goes DOWN. -/
  | lossOfSignal (link : Nat)
  /-- SIGNAL_PRESENT (R836). Signal appears on a link and it enters TRAINING. -/
  | signalPresent (link : Nat)
  /-- TRAINING_COMPLETE (R836). A training attempt ends; the link becomes LINKED or stays DOWN. -/
  | trainingComplete (link : Nat) (ok : Bool) (h : Hello)
  /-- TRAINING_RETRY (R836). A DOWN link with signal retries training every 1 s. -/
  | trainingRetry (link : Nat)
  /-- HELLO (R601). A HELLO arrives from a neighbour, updating bundles, isolation and time parent. -/
  | hello (link : Nat) (h : Hello)
  /-- HELLO_TICK (R601). Each millisecond the device sends a HELLO on every live link. -/
  | helloTick
  /-- HELLO_TIMEOUT (R601). No HELLO for 3 ms and the link is retrained. -/
  | helloTimeout (link : Nat)
  /-- LSR (R603). A link-state record arrives, is stored if newer and is flooded on. -/
  | lsr (link : Nat) (r : Lsr)
  /-- LSR_REFRESH (R603). Every 10 s the device originates its link-state record. -/
  | lsrRefresh
  /-- LSR_EXPIRY (R603). A record not refreshed for 35 s is dropped. -/
  | lsrExpiry (serial : Nat)
  /-- SETTLEMENT (R605). The database is unchanged for HLK_SETTLE_MS and the node ID is assigned. -/
  | settlement
  /-- ROUTE_BUILD (R613). Route tables are built from the settled database and bundles go ACTIVE. -/
  | routeBuild
  /-- FLIT (R580). A flit arrives on a link and is checked, accepted or NAKed, credited and delivered or forwarded. -/
  | flit (link : Nat) (data checks : List Nat) (crc : Nat) (f : Flit)
  /-- ACK_IDLE (R580). A receiver owing an acknowledgement with nothing to send sends an IDLE within 256 ns. -/
  | ackIdle (link : Nat)
  /-- WRITE (R589). A WRITE message flit is written into the destination chase's data space. -/
  | write (f : Flit)
  /-- APPEND (R589). A reassembled APPEND message appends its records to a queue. -/
  | append (f : Flit)
  /-- ACK (R592). An ACK arrives and completes the acknowledged message at its source. -/
  | ack (f : Flit)
  /-- FABRIC_SIGNAL (R543). A SIGNAL message is applied to its mark or discarded as stale. -/
  | fabricSignal (f : Flit)
  /-- E2E_TIMEOUT (R593). An unacknowledged message times out and is resent, or lost with FABRIC_LOSS. -/
  | e2eTimeout (dst : Nat) (msg : Nat)
  /-- TIME (R622). A TIME message step arrives; the next step is sent or the child corrects its counter. -/
  | time (link : Nat) (step : Nat) (stamps : List Nat) (hops : Nat) (lock : Nat) (root : Nat)
  /-- TIME_TICK (R621). A parent starts a TIME exchange 64 times per second. -/
  | timeTick (link : Nat)
  /-- SEND (R635). A RoCEv2 SEND arrives and completes, signalling a bound mark. -/
  | send (p : RocePkt)
  /-- RDMA_WRITE (R634). A RoCEv2 RDMA WRITE arrives and is acknowledged once visible. -/
  | rdmaWrite (p : RocePkt)
  /-- RDMA_READ (R634). A RoCEv2 RDMA READ arrives and is answered. -/
  | rdmaRead (p : RocePkt)
  /-- ARP (R630). An ARP request for the port's address is answered. -/
  | arp (f : AskFrame)
  /-- NEIGHBOUR_DISCOVERY (R630). IPv6 neighbour discovery for the port's address is answered. -/
  | neighbourDiscovery (f : AskFrame)
  /-- OTHER_FRAME (R629). Any other received frame is dropped and counted. -/
  | otherFrame (f : EthFrame)
  /-- CNP (R637). A congestion notification drops the queue pair's congestion level. -/
  | cnp (f : EthFrame) (qpn : Nat)
  /-- CLIMB_TICK (R637). Each ETH_CC_CLIMB_US a quiet queue pair climbs one level. -/
  | climbTick (qpn : Nat)
  /-- ROCE_ACK_TIMEOUT (R632). A RoCEv2 acknowledgement timeout causes a requester retransmission. -/
  | roceAckTimeout (qpn : Nat)
  /-- ETH_RETRAIN (R627). An Ethernet port retrains and takes up its ETH_MODE. -/
  | ethRetrain (port : Nat) (up : Bool)
  /-- INK_BASE_SAMPLE (R705). Every 1 ms the device measures the base charge B and revokes excess if needed. -/
  | inkBaseSample (b : Nat)
  /-- THROTTLE_FALL (R720). THROTTLE_N falls. -/
  | throttleFall
  /-- THROTTLE_QUALIFY (R721). THROTTLE_N stays low 1 µs; E drops to the floor and reductions follow. -/
  | throttleQualify
  /-- THROTTLE_RISE (R720). THROTTLE_N rises; a short pulse is counted as a glitch. -/
  | throttleRise
  /-- THROTTLE_RELEASE (R720). THROTTLE_N stays high 100 µs and the assertion is released. -/
  | throttleRelease
  /-- THROTTLE_STUCK (R721). An assertion lasts over 1 s and INK_THR_STUCK is set. -/
  | throttleStuck
  /-- POWER_CLAMP (R719). The 100 µs average draw exceeds the clamp and hardware lowers duty. -/
  | powerClamp (steps : Nat)
  /-- TEMP_SAMPLE (R726). Every 10 µs die temperatures are read and warning or floor applied. -/
  | tempSample (l0 : Nat) (l1 : Nat) (ha : Nat) (hb : Nat)
  /-- PPS_EDGE (R733). A PPS_IN edge is stamped and accepted, rejected or used to lock the counter. -/
  | ppsEdge (low : Nat)
  /-- STORM_END (R737). 10 s without close edges end the storm and acquisition restarts. -/
  | stormEnd
  /-- PPS_TIMEOUT (R738). 1.5 s without an accepted edge moves the counter to LOCKED_LINK or HOLDOVER. -/
  | ppsTimeout
  /-- SEQ_WATCHDOG (R798). A region sequencer retires nothing for RAS_SEQ_WD_US and the stroke is retried or the chase faults. -/
  | seqWatchdog (slot : Nat) (region : Nat)
  /-- CORE_RESTART (R803). A resident core idle for 1 s is restarted from its image. -/
  | coreRestart (core : Nat)
  /-- SPARE_TEST (R810). Every 24 h each spare not in service is tested and marked bad if it fails. -/
  | spareTest (failing : List (Nat × Nat × Nat × Nat))
  /-- GET_CHALLENGE (R752). Mailbox command GET_CHALLENGE returns a one-use challenge. -/
  | getChallenge (rid : Option Nat) (msg : Bytes) (sound : Bool)
  /-- CHALLENGE_LAPSE (R752). An unused challenge lapses 600 s after issue. -/
  | challengeLapse (challenge : Nat)
  /-- READ_COLOPHON (R755). Mailbox command READ_COLOPHON returns entries and checkpoints. -/
  | readColophon (rid : Option Nat) (msg : Bytes) (storage : Bool)
  /-- GET_IDENTITY (R755). Mailbox command GET_IDENTITY returns the device certificate. -/
  | getIdentity (rid : Option Nat) (msg : Bytes) (storage : Bool)
  /-- SET_ENVELOPE (R704). Mailbox command SET_ENVELOPE sets the installer envelope. -/
  | setEnvelope (rid : Option Nat) (msg : Bytes) (storage : Bool)
  /-- SET_NODE_ID (R755). Mailbox command SET_NODE_ID sets the installer node ID. -/
  | setNodeId (rid : Option Nat) (msg : Bytes) (storage : Bool)
  /-- SET_FABRIC (R755). Mailbox command SET_FABRIC sets fabric name and topology. -/
  | setFabric (rid : Option Nat) (msg : Bytes) (storage : Bool)
  /-- FW_STAGE (R755). Mailbox command FW_STAGE copies a signed image into the inactive slot. -/
  | fwStage (rid : Option Nat) (msg : Bytes) (storage : Bool)
  /-- SET_NET_ID (R630). Mailbox command SET_NET_ID sets a port's MAC and IP addresses. -/
  | setNetId (rid : Option Nat) (msg : Bytes) (storage : Bool)
  /-- DEBUG_SESSION (R781). Mailbox command DEBUG_SESSION opens or closes an operator debug session. -/
  | debugSession (rid : Option Nat) (msg : Bytes) (storage : Bool)
  /-- SESSION_LAPSE (R781). An open debug session reaches its duration and closes. -/
  | sessionLapse
  /-- FENCE_WRITE (R765). Mailbox command FENCE_WRITE stores a fence record for the next reset. -/
  | fenceWrite (rid : Option Nat) (msg : Bytes) (storage : Bool)
  /-- ENROL (R758). Mailbox command ENROL enrols or revokes a credential. -/
  | enrol (rid : Option Nat) (msg : Bytes) (storage : Bool)
  /-- DEBUG_UNLOCK (R782). Mailbox command DEBUG_UNLOCK grants or locks a debug scope. -/
  | debugUnlock (rid : Option Nat) (msg : Bytes) (storage : Bool)
  /-- REPAIR_ACCESS (R763). Mailbox command REPAIR_ACCESS opens HBM_MAINT for named stacks. -/
  | repairAccess (rid : Option Nat) (msg : Bytes) (storage : Bool)
  /-- ZEROISE (R786). Mailbox command ZEROISE destroys the identity and stored secrets. -/
  | zeroise (rid : Option Nat) (msg : Bytes) (storage : Bool)
  /-- AUTH_END (R760). An authorisation reaches its duration and ends. -/
  | authEnd (kind : Nat)
  /-- CHECKPOINT (R777). 3,600 s after the last checkpoint the island writes a signed checkpoint. -/
  | checkpoint
  /-- INTERNAL_SCAN (R783). An internal or extended scan instruction on the test port is accepted or refused. -/
  | internalScan (extended : Bool)
  /-- GET_VERSION (R773). SPDM GET_VERSION is answered. -/
  | getVersion
  /-- GET_CAPABILITIES (R773). SPDM GET_CAPABILITIES is answered. -/
  | getCapabilities
  /-- NEGOTIATE_ALGORITHMS (R773). SPDM NEGOTIATE_ALGORITHMS is answered. -/
  | negotiateAlgorithms
  /-- GET_DIGESTS (R773). SPDM GET_DIGESTS is answered. -/
  | getDigests
  /-- GET_CERTIFICATE (R773). SPDM GET_CERTIFICATE returns the certificate chain. -/
  | getCertificate (slot : Nat) (offset : Nat) (length : Nat)
  /-- CHALLENGE (R773). SPDM CHALLENGE is answered with a signed response. -/
  | challenge (slot : Nat) (nonce : Bytes)
  /-- GET_MEASUREMENTS (R774). SPDM GET_MEASUREMENTS returns the measurement blocks. -/
  | getMeasurements (index : Nat) (sign : Bool)
  /-- REGISTER_READ (R15). A BAR0 read returns a register and clears its RC fields, or completes as Unsupported Request when misaligned or from outside the host set. -/
  | registerRead (rid : Nat) (off : Nat) (width : Nat)
  /-- CLOCK_RETURN (R855). A stopped SYSCLK_25M or REFCLK_156M25 input becomes stable again and boot start follows 1 ms later. -/
  | clockReturn (sysclk : Bool)
  /-- IDLE_REGION_SUBSTITUTION (R807). A spare substitution in a region that no running chase holds commits within 100 µs without a lock-up. -/
  | idleRegionSubstitution (p : Nat)
  /-- SET_POINT_WRITE (R852). The management controller writes a VDD_CORE set point over I3C under its adaptive voltage loop, and a missing acknowledgement holds the last value, is logged and asserts ALERT_N. -/
  | setPointWrite (die : Nat) (mv : Nat) (ack : Bool)
  /-- BACK_INVALIDATE_RESPONSE (R647). The host answers a back-invalidate snoop and the waiting device-side write to that line takes effect. -/
  | backInvalidateResponse (line : Nat)
  /-- CXL_CACHE_SNOOP (R648). The host snoops a line held in the device's host-line cache and the device answers it. -/
  | cxlCacheSnoop (line : Nat)
  /-- ROCE_ACKNOWLEDGEMENT (R632). A RoCEv2 acknowledgement or NAK arrives for a request the device sent as requester and completes or retries it. -/
  | roceAcknowledgement (f : EthFrame) (qpn : Nat) (psn : Nat) (nak : Nat)
  /-- READ_RESPONSE (R632). A RoCEv2 READ response arrives for an RDMA READ the device issued as requester and its data is written. -/
  | readResponse (f : EthFrame) (qpn : Nat) (psn : Nat) (data : Bytes)
  /-- BOUNDARY_SCAN (R782). An IEEE 1149.1 or 1149.6 instruction such as IDCODE, BYPASS or EXTEST on the test port is executed or refused by unlock scope. -/
  | boundaryScan (code : Nat)
  deriving DecidableEq, Repr

end Sys2Proof
end

