-- ==== Sys2Proof/Config.lean ====
section
/-! DEFINITION. What an implementation fixes and what the spec leaves open: opaque constants, so that no proof can see a
value. Each free value is applied to the model's counter State.freeIdx, or to the data that it depends on; every one is
named in a log entry. -/

namespace Sys2Proof

/-- A free natural number. -/
opaque Config.freeNat : Nat → Nat

/-- A free string of bytes of the given length: the list is built, its bytes are free. -/
opaque Config.freeByte : Nat → Nat → BitVec 8

/-- The held region that takes a piece of work, as a number to be taken modulo the number of held regions (R45: the deal
changes no result bit): by slot, plate, stroke and item. -/
opaque Config.deal : Nat → Nat → Nat → Nat → Nat

/-- The cache way that a line takes on a miss while several ways of its set hold nothing, as a number to be taken modulo the number of
cache ways (R478 names no way). -/
opaque Config.fillWay : Nat → Nat

/-- Whether the slot frame of a slug that another member owns is shared by the new serving state of its galley when a switch commits
outside a lock-up: by slot, galley, slug and state number (R443, R455). Only the owner knows. -/
opaque Config.guestShared : Nat → Nat → Nat → Nat → Bool

/-- How a POISON_DELIVERED record packs the ring, the sequence and the offset into ER_DETAIL (R814, R815). -/
opaque Config.poisonDetail : Nat → Nat → Nat → Nat

/-- The master element that a load sets where the rounded value leaves the s64 range (R327 states none). -/
opaque Config.masterOver : Int → Int

/-- The record value of an exact quotient that no 192-bit accumulator holds (R198, R210 state none). -/
opaque Config.wideUnheld : Int → Nat → Int

/-- The bytes that a partial record with the given element values takes in a queue (R353 gives no layout). -/
opaque Config.partialBytes : List Int → Nat

/-- Byte `k` of a DER certificate: 0 the device certificate, 1 the chain of slot 0 from the maker root (R755, R773); and the
length, of which 4,096 is the most. -/
opaque Config.certByte : Nat → Nat → BitVec 8
opaque Config.certLen : Nat → Fin 4097

/-- Byte `k` of the measurement digests whose input the spec gives no bytes for (R774): the index, what the measured thing
depends on, the byte. -/
opaque Config.measured : Nat → List Nat → Nat → BitVec 8

/-- Byte `k` of the identity key's signature of a checkpoint, by its RPMB counter value (R777). -/
opaque Config.ckptSig : Nat → Nat → BitVec 8

/-- The device serial number of the configuration record (R769). -/
opaque Config.serial : BitVec 64

/-- SYS_VARIANT of the configuration record: 0 LC, 1 LX (R1). -/
opaque Config.variant : Bool

end Sys2Proof
end

