-- ==== Sys2Proof/Machine/Bits.lean ====
section
/-! DEFINITION. Bit fields, byte strings, exact integer helpers, sorted key-value lists, CRC-32C and SHA-256: the plain
functions that the meanings are written over. Byte order is R8 (little-endian), signed integers are R9 (two's
complement). Every function is structurally recursive. -/

namespace Sys2Proof.Machine

/-! ### Bit fields of natural numbers (R7) -/

/-- Bits `hi` down to `lo` of `n`. -/
def bitsOf (n hi lo : Nat) : Nat := (n >>> lo) % 2 ^ (hi + 1 - lo)

/-- Bit `i` of `n`. -/
def bitOf (n i : Nat) : Bool := (n >>> i) % 2 == 1

/-- `n` with bits `hi` down to `lo` replaced by `v` (taken modulo the width). -/
def setBits (n hi lo v : Nat) : Nat :=
  n - ((bitsOf n hi lo) <<< lo) + ((v % 2 ^ (hi + 1 - lo)) <<< lo)

/-- One or zero. -/
def natOfBool (b : Bool) : Nat := if b then 1 else 0

/-- `n` or the ceiling `m`. -/
def satNat (n m : Nat) : Nat := if n ≤ m then n else m

/-! ### Signed integers (R9) and exact rounding -/

/-- The signed value of the low `w` bits of `n`. -/
def sextNat (w n : Nat) : Int :=
  let v := n % 2 ^ w
  if 2 * v < 2 ^ w then (v : Int) else (v : Int) - (2 ^ w : Nat)

/-- The unsigned `w`-bit pattern of an integer. -/
def patOf (w : Nat) (i : Int) : Nat := (i % ((2 ^ w : Nat) : Int)).toNat

/-- An integer reduced to `w`-bit two's complement. -/
def wrapS (w : Nat) (i : Int) : Int := sextNat w (patOf w i)

/-- `floor(a / 2^k)`: an arithmetic shift right. -/
def floorShift (a : Int) (k : Nat) : Int := Int.fdiv a ((2 ^ k : Nat) : Int)

/-- `round_half_even(a / b)` for `b > 0`. -/
def roundHalfEvenDiv (a : Int) (b : Nat) : Int :=
  let q := Int.fdiv a (b : Int)
  let r := Int.fmod a (b : Int)
  if 2 * r < (b : Int) then q
  else if (b : Int) < 2 * r then q + 1
  else if q % 2 = 0 then q else q + 1

/-- `a` bounded to `lo … hi`. -/
def clampInt (a lo hi : Int) : Int := if a < lo then lo else if hi < a then hi else a

/-- The least `k` (below the fuel) with `p k`; the fuel where there is none. -/
def leastUpTo (p : Nat → Bool) : Nat → Nat → Nat
  | 0, k => k
  | f + 1, k => if p k then k else leastUpTo p f (k + 1)

/-! ### Byte strings (R8) -/

/-- The number that a little-endian byte string spells. -/
def leNat : Bytes → Nat
  | [] => 0
  | b :: bs => b.toNat + 256 * leNat bs

/-- The `k` little-endian bytes of `n`. -/
def natLe : Nat → Nat → Bytes
  | 0, _ => []
  | k + 1, n => BitVec.ofNat 8 n :: natLe k (n / 256)

/-- `len` bytes from offset `off`; bytes past the end read as zero. -/
def slice (bs : Bytes) (off len : Nat) : Bytes :=
  let t := (bs.drop off).take len
  t ++ List.replicate (len - t.length) 0

/-- The unsigned `k`-byte field at offset `off`. -/
def fieldLe (bs : Bytes) (off k : Nat) : Nat := leNat ((bs.drop off).take k)

def u8At (bs : Bytes) (off : Nat) : Nat := fieldLe bs off 1
def u16At (bs : Bytes) (off : Nat) : Nat := fieldLe bs off 2
def u32At (bs : Bytes) (off : Nat) : Nat := fieldLe bs off 4
def u64At (bs : Bytes) (off : Nat) : Nat := fieldLe bs off 8

/-- Whether every byte is zero. -/
def allZero (bs : Bytes) : Bool := bs.all (· == 0)

/-- `bs` with the bytes from `off` on replaced by `v`. -/
def patch (bs : Bytes) (off : Nat) (v : Bytes) : Bytes :=
  slice bs 0 off ++ v ++ bs.drop (off + v.length)

/-- Bytes as numbers, for records given as lists of numbers. -/
def bytesOf (ns : List Nat) : Bytes := ns.map (BitVec.ofNat 8)

/-- Replace element `i` of a list (no effect past its end). -/
def setNth {α : Type} (l : List α) (i : Nat) (a : α) : List α := l.set i a

/-- Cut a list into pieces of `k` elements; the fuel is the number of pieces allowed. -/
def piecesAux {α : Type} (k : Nat) : Nat → List α → List (List α)
  | 0, _ => []
  | _, [] => []
  | f + 1, l => l.take k :: piecesAux k f (l.drop k)

/-- The pieces of `k` elements of a list, the last one perhaps shorter. -/
def pieces {α : Type} (k : Nat) (l : List α) : List (List α) := piecesAux k l.length l

/-! ### Sorted key-value lists: keys strictly rising -/

/-- The value at key `k`. -/
def kvGet {α : Type} : List (Nat × α) → Nat → Option α
  | [], _ => none
  | (k', v) :: t, k => if k = k' then some v else if k < k' then none else kvGet t k

/-- Put `v` at key `k`. -/
def kvPut {α : Type} : List (Nat × α) → Nat → α → List (Nat × α)
  | [], k, v => [(k, v)]
  | (k', v') :: t, k, v =>
    if k < k' then (k, v) :: (k', v') :: t
    else if k = k' then (k, v) :: t
    else (k', v') :: kvPut t k v

/-- Remove key `k`. -/
def kvDel {α : Type} : List (Nat × α) → Nat → List (Nat × α)
  | [], _ => []
  | (k', v') :: t, k =>
    if k < k' then (k', v') :: t
    else if k = k' then t
    else (k', v') :: kvDel t k

/-- Put or remove: the value `d` stands for an unlisted key. -/
def kvSet {α : Type} [DecidableEq α] (d : α) (l : List (Nat × α)) (k : Nat) (v : α) : List (Nat × α) :=
  if v = d then kvDel l k else kvPut l k v

/-- Keep the entries whose keys satisfy `p`. -/
def kvKeep {α : Type} (p : Nat → Bool) (l : List (Nat × α)) : List (Nat × α) := l.filter fun e => p e.1

/-- Insert into a sorted list of numbers without repeats. -/
def setIns : List Nat → Nat → List Nat
  | [], k => [k]
  | h :: t, k => if k < h then k :: h :: t else if k = h then h :: t else h :: setIns t k

/-- Remove from a list of numbers. -/
def setDel (l : List Nat) (k : Nat) : List Nat := l.filter (· != k)

/-! ### CRC-32C (R666): polynomial 0x1EDC6F41, reflected, initial value and final XOR all ones -/

/-- One bit of the reflected CRC-32C register. -/
def crcBit (c : BitVec 32) : BitVec 32 :=
  if c.getLsbD 0 then (c >>> 1) ^^^ 0x82F63B78#32 else c >>> 1

/-- One byte into the CRC-32C register. -/
def crcByte (c : BitVec 32) (b : Byte) : BitVec 32 :=
  crcBit (crcBit (crcBit (crcBit (crcBit (crcBit (crcBit (crcBit (c ^^^ b.setWidth 32))))))))

/-- CRC-32C of a byte string. -/
def crc32c (bs : Bytes) : Nat := (bs.foldl crcByte 0xFFFFFFFF#32 ^^^ 0xFFFFFFFF#32).toNat

/-- `k` bytes of `n`, most significant first. -/
def natBe (k n : Nat) : Bytes := (natLe k n).reverse

/-- The number of a byte string, most significant byte first. -/
def beNat (bs : Bytes) : Nat := leNat bs.reverse

/-! ### SHA-256 (FIPS 180-4): constants from the roots of primes, two histories of words, a window of sixteen schedule words -/

/-- The greatest number below 2^40 whose `k`-th power is at most `n`, found bit by bit. -/
def rootOf (k n : Nat) : Nat :=
  (List.range 40).foldl (fun r b => if (r + 2 ^ (39 - b)) ^ k ≤ n then r + 2 ^ (39 - b) else r) 0

/-- The first 64 primes: 2 to 311. -/
def shaPrimes : List Nat := ((List.range 312).drop 2).filter fun p => ((List.range p).drop 2).all fun d => p % d != 0

/-- The first 32 fraction bits of the cube roots of the primes, and of the square roots of the first eight. -/
def shaCubes : List (BitVec 32) := shaPrimes.map fun p => BitVec.ofNat 32 (rootOf 3 (p * 2 ^ 96))
def shaSquares : List (BitVec 32) := (shaPrimes.take 8).map fun p => BitVec.ofNat 32 (rootOf 2 (p * 2 ^ 64))

/-- The sum over GF(2) of a word turned right by each of some distances. -/
def turned (x : BitVec 32) (ds : List Nat) : BitVec 32 := ds.foldl (fun y d => y ^^^ x.rotateRight d) 0

/-- What the rounds carry: the words of the two recurrences, newest first, and the next sixteen schedule words. -/
structure ShaRun where
  as : List (BitVec 32)
  es : List (BitVec 32)
  next : List (BitVec 32)

/-- One round with its constant: both recurrences and the schedule move on by a word. -/
def ShaRun.turn (r : ShaRun) (k : BitVec 32) : ShaRun :=
  let a (i : Nat) : BitVec 32 := r.as.getD i 0
  let e (i : Nat) : BitVec 32 := r.es.getD i 0
  let w (i : Nat) : BitVec 32 := r.next.getD i 0
  let pick := e 2 ^^^ (e 0 &&& (e 1 ^^^ e 2))
  let most := (a 0 &&& (a 1 ||| a 2)) ||| (a 1 &&& a 2)
  let new := w 0 + k + pick + turned (e 0) [6, 11, 25] + e 3
  { as := (most + turned (a 0) [2, 13, 22] + new) :: r.as
    es := (a 3 + new) :: r.es
    next := r.next.drop 1 ++ [w 9 + w 0 + (turned (w 1) [7, 18] ^^^ (w 1 >>> 3)) + (turned (w 14) [17, 19] ^^^ (w 14 >>> 10))] }

/-- One block of 64 bytes into a chaining value of eight words. -/
def shaChain (h : List (BitVec 32)) (block : Bytes) : List (BitVec 32) :=
  let r := shaCubes.foldl ShaRun.turn ⟨h.take 4, h.drop 4, (pieces 4 block).map fun b => BitVec.ofNat 32 (beNat b)⟩
  (List.range 8).map fun i => h.getD i 0 + if i < 4 then r.as.getD i 0 else r.es.getD (i - 4) 0

/-- SHA-256 of a byte string: a one bit, zeros and the length in bits fill the last block. -/
def sha256 (m : Bytes) : Bytes :=
  let fill := 0x80#8 :: List.replicate (63 - (m.length + 8) % 64) 0 ++ natBe 8 (8 * m.length)
  ((pieces 64 (m ++ fill)).foldl shaChain shaSquares).flatMap fun w => natBe 4 w.toNat

end Sys2Proof.Machine
end

