-- ==== Sys2Proof/Machine/Operands.lean ====
section
/-! DEFINITION. Operand forms of the arrays: element formats and their decoding (R165 to R170), exact products and group
partials (R171, R172), the mod-3 residue (R176), and the 192-bit wide accumulator with its record form (R173, R199). -/

namespace Sys2Proof.Machine

/-- The s9 value of a raw element under a format code: 0 s8, 1 u8, 2 s4, 3 u4 (R165, R166). -/
def decodeElem (fmt : Nat) (raw : Nat) : Int :=
  match fmt with
  | 0 => sextNat 8 raw
  | 1 => (raw % 256 : Nat)
  | 2 => sextNat 4 raw
  | _ => (raw % 16 : Nat)

/-- The stored width of a format code in bits (R165). -/
def elemWidth (fmt : Nat) : Nat := if fmt < 2 then 8 else 4

/-- The signed value of a 6-bit group exponent field (R168). -/
def groupExp (raw : Nat) : Int := sextNat 6 raw

/-- Element `i` of a packed array of elements: two 4-bit elements a byte, the even one in the low half. -/
def packedElem (fmt : Nat) (bs : Bytes) (i : Nat) : Int :=
  if elemWidth fmt = 8 then decodeElem fmt (u8At bs i)
  else decodeElem fmt (u8At bs (i / 2) >>> (4 * (i % 2)))

/-- The exact sum of products of two groups (R172); missing positions are zero (R169). -/
def groupPartial : List Int → List Int → Int
  | a :: as, b :: bs => a * b + groupPartial as bs
  | _, _ => 0

/-- The residue predicted from the operands: the sum of the products of the residues, modulo 3 (R176). -/
def predictedResidue (as bs : List Int) : Int :=
  (groupPartial (as.map (Int.emod · 3)) (bs.map (Int.emod · 3))) % 3

/-- Whether a group partial passes the mod-3 check against its operands (R176). -/
def residueOk (p : Int) (as bs : List Int) : Bool := p % 3 == predictedResidue as bs

/-- A group partial at its place in the wide accumulator: shifted left by `ea + eb + 64` (R172). -/
def placePartial (p ea eb : Int) : Int := p * ((2 ^ (ea + eb + 64).toNat : Nat) : Int)

/-- Addition in the 192-bit wide accumulator (R173). -/
def accAdd (a b : Int) : Int := wrapS 192 (a + b)

/-- The exact dot product of two operands given as groups with their exponents, on the 2^-64 scale (R168 to R175). -/
def dotGroups : List (List Int × Int) → List (List Int × Int) → Int
  | (as, ea) :: ga, (bs, eb) :: gb => placePartial (groupPartial as bs) ea eb + dotGroups ga gb
  | _, _ => 0

/-- Items combined one after another, or over the hops of a chain (R200): hop `h` of `hops` combines its own (those with number `h`
modulo `hops`) and adds the running result of the hop before; the first starts from zero. -/
def chainFold {α : Type} (join : α → α → α) (zero : α) (hops n : Nat) (f : Nat → α) : α :=
  let own (p : Nat → Bool) : α := ((List.range n).filter p).foldl (fun x k => join x (f k)) zero
  if hops = 0 then own fun _ => true else (List.range hops).foldl (fun run h => join run (own fun k => k % hops == h)) zero

/-- A value with exponent `e` on the 2^-64 scale of the accumulator (`e ≥ -64`). -/
def scaleUp (v e : Int) : Int := v * ((2 ^ (e + 64).toNat : Nat) : Int)

/-- A wide value with its flags: the content of a full-width partial record (R199). -/
structure WideRec where
  value : Int
  poison : Bool
  empty : Bool
  index : Nat
  deriving DecidableEq, Repr

/-- The 32 bytes of a full-width partial record (R199). -/
def wideBytes (r : WideRec) : Bytes :=
  natLe 24 (patOf 192 r.value) ++ [BitVec.ofNat 8 (natOfBool r.poison + 2 * natOfBool r.empty)] ++
    natLe 5 r.index ++ [0, 0]

/-- A full-width partial record read from its bytes (R199). -/
def wideOf (bs : Bytes) : WideRec :=
  { value := sextNat 192 (fieldLe bs 0 24)
    poison := bitOf (u8At bs 24) 0
    empty := bitOf (u8At bs 24) 1
    index := fieldLe bs 25 5 }

/-- The sum of two full-width partials: exact, poison ORed (R202). -/
def wideAdd (a b : WideRec) : WideRec := ⟨accAdd a.value b.value, a.poison || b.poison, false, 0⟩

/-- The empty maximum or minimum pair (R214). -/
def wideEmpty : WideRec := ⟨0, false, true, 0⟩

/-- Two maxima (or minima) with index combine: the greater (lesser) exact value, on a tie the lower index; an empty pair
loses; poison ORs (R212 to R214). -/
def widePick (isMax : Bool) (a b : WideRec) : WideRec :=
  let p := a.poison || b.poison
  if a.empty && b.empty then { wideEmpty with poison := p }
  else if a.empty then { b with poison := p }
  else if b.empty then { a with poison := p }
  else if a.value = b.value then { a with index := min a.index b.index, poison := p }
  else if (decide (b.value < a.value)) == isMax then { a with poison := p }
  else { b with poison := p }

end Sys2Proof.Machine
end

