-- ==== Sys2Proof/Machine/Close.lean ====
section
/-! DEFINITION. Closing a group: the close word (R186, R187), rounding and need() (R188), the table of close outcomes
(R190, R193, R876) and the error-compensating pair (R196, R197). -/

namespace Sys2Proof.Machine

/-- A close word (R186). Formats: 0 s32, 1 s16, 2 s8, 3 s4, 4 PAIR, 5 WIDE. -/
structure CloseWord where
  auto : Bool
  ovf : Nat
  fmt : Nat
  eo : Int
  deriving DecidableEq, Repr

/-- The close word of 32 bits (R186). -/
def closeWordOf (w : Nat) : CloseWord :=
  ⟨bitOf w 15, bitsOf w 14 13, bitsOf w 10 8, sextNat 8 w⟩

/-- The least and greatest exponent of an output format (R187). -/
def loLim (fmt : Nat) : Int := if fmt = 2 ∨ fmt = 3 then -32 else -128
def hiLim (fmt : Nat) : Int := if fmt = 2 ∨ fmt = 3 then 31 else 127

/-- The stored width of an element of an output format in bits; for PAIR, of its `hi` lane (R187). -/
def fmtBits (fmt : Nat) : Nat :=
  match fmt with
  | 1 => 16
  | 2 => 8
  | 3 => 4
  | 5 => 256
  | _ => 32

/-- The element range of an output format (R187). -/
def minOf (fmt : Nat) : Int := -((2 ^ (fmtBits fmt - 1) : Nat) : Int)
def maxOf (fmt : Nat) : Int := ((2 ^ (fmtBits fmt - 1) : Nat) : Int) - 1

/-- Whether a close word keeps the rules of R186 and R187. -/
def closeWordOk (w : Nat) : Bool :=
  let c := closeWordOf w
  w < 2 ^ 16 && bitsOf w 12 11 == 0 && c.ovf != 3 && decide (c.fmt ≤ 5) &&
    (c.auto || c.fmt == 5 || (decide (loLim c.fmt ≤ c.eo) && decide (c.eo ≤ hiLim c.fmt)))

/-- An exact value on the 2^-64 scale as a quotient (MEAN divides, R345, R389), with the index of its winner where it is a
maximum or minimum (R213). -/
structure Val where
  num : Int
  den : Nat
  index : Nat
  deriving DecidableEq, Repr

/-- A value that is an accumulator's. -/
def Val.int (v : Int) : Val := ⟨v, 1, 0⟩

/-- The accumulator that holds a value (R173, R198). A kept element of a REDUCE with RR_MERGE (R210) can have a value that is no
whole number on the 2^-64 scale or leaves s192: the spec states no record for it, and a free value stands there. -/
def Val.acc (v : Val) : Int :=
  if v.num % (v.den : Int) = 0 ∧ wrapS 192 (v.num / (v.den : Int)) = v.num / (v.den : Int) then v.num / (v.den : Int) else Config.wideUnheld v.num v.den

/-- Round to nearest even at exponent `e` the value `n / d` on the 2^-64 scale (R188, R345). -/
def rneQ (n : Int) (d : Nat) (e : Int) : Int :=
  if e + 64 ≤ 0 then roundHalfEvenDiv (n * ((2 ^ (-(e + 64)).toNat : Nat) : Int)) d
  else roundHalfEvenDiv n (d * 2 ^ (e + 64).toNat)

/-- Round an accumulator (R188). -/
def rne (acc e : Int) : Int := rneQ acc 1 e

/-- Round a value. -/
def Val.rne (v : Val) (e : Int) : Int := rneQ v.num v.den e

/-- Whether a rounded value lies in the element range of a format (R188). -/
def fitsFmt (q : Int) (fmt : Nat) : Bool := decide (minOf fmt ≤ q) && decide (q ≤ maxOf fmt)

/-- The search of need(): the least exponent from `e` on at which a value fits. -/
def needFrom (v : Val) (fmt : Nat) : Nat → Int → Int
  | 0, e => e
  | f + 1, e => if fitsFmt (v.rne e) fmt then e else needFrom v fmt f (e + 1)

/-- The least exponent at which a value fits a format; it may exceed `hiLim` (R188). Every s192 value fits some exponent
below 160. -/
def need (v : Val) (fmt : Nat) : Int := needFrom v fmt 320 (loLim fmt)

/-- One element as a close writes it. -/
inductive OutElem where
  /-- An s32, s16, s8 or s4 element. -/
  | num (v : Int)
  /-- An error-compensating pair (R196). -/
  | pair (hi lo : Int)
  /-- A full-width record (R198). -/
  | wide (r : WideRec)
  deriving DecidableEq, Repr

/-- The events of the table of close outcomes (R190), with their RGN_ARI_LAST_CODE. -/
inductive CloseEvent where
  | accRetry | accSaturate | accOverflow | accExpLimit
  deriving DecidableEq, Repr

/-- RGN_ARI_LAST_CODE of an event. -/
def closeEventCode : CloseEvent → Nat
  | .accRetry => 1
  | .accSaturate => 2
  | .accOverflow => 3
  | .accExpLimit => 4

/-- What a close gives: the effective exponent, the elements written, the tile's poison bit, the event, the raise of a
retry and the number of clamped elements. -/
structure CloseResult where
  exp : Int
  elems : List OutElem
  poisoned : Bool
  event : Option CloseEvent
  raise : Nat
  satElems : Nat
  deriving DecidableEq, Repr

/-- The `lo` part of a pair whose `hi` part was rounded at `eo`: the exact residue rounded at `eo - 31` (R196, R345). -/
def pairLo (v : Val) (hi eo : Int) : Int :=
  if eo + 64 ≤ 0 then
    let k : Nat := 2 ^ (-(eo + 64)).toNat
    rneQ (v.num * (k : Int) - hi * (v.den : Int)) (v.den * k) (eo - 31)
  else rneQ (v.num - hi * ((2 ^ (eo + 64).toNat * v.den : Nat) : Int)) v.den (eo - 31)

/-- One element converted at exponent `e`; `clamp` bounds it to the element range (R190, R197). -/
def convertElem (fmt : Nat) (clamp : Bool) (e : Int) (v : Val) : OutElem :=
  let q := v.rne e
  let c := if clamp then clampInt q (minOf fmt) (maxOf fmt) else q
  if fmt = 4 then
    (if c = q then .pair q (pairLo v q e) else .pair c 0)
  else .num c

/-- A zero element of a format (R190, R193). -/
def zeroElem (fmt : Nat) : OutElem := if fmt = 4 then .pair 0 0 else .num 0

/-- The conversion of a tile at exponent `e`; elements without a value are written as `fill`. -/
def convertTile (fmt : Nat) (fill : OutElem) (clamp : Bool) (e : Int) (vs : List (Option Val)) : List OutElem :=
  vs.map fun a => match a with
    | some v => convertElem fmt clamp e v
    | none => fill

/-- N of the table of close outcomes: the largest need() over the elements that hold values; `loLim` where none does
(R190, R876). -/
def tileNeed (fmt : Nat) (vs : List (Option Val)) : Int :=
  vs.foldl (fun n a => match a with | some v => max n (need v fmt) | none => n) (loLim fmt)

/-- The number of elements that a format's range does not hold at exponent `e`. -/
def overflowCount (fmt : Nat) (e : Int) (vs : List (Option Val)) : Nat :=
  (vs.filter fun a => match a with | some v => !fitsFmt (v.rne e) fmt | none => false).length

/-- A tile of zeros. -/
def zeroTile (fmt : Nat) (vs : List (Option Val)) : List OutElem := vs.map fun _ => zeroElem fmt

/-- The table of close outcomes (R190) for the rounding formats; a poisoned group writes zeros with the poison bit and
raises no event (R193). -/
def closeRounded (cw : CloseWord) (fill : OutElem) (poison : Bool) (vs : List (Option Val)) : CloseResult :=
  if poison then ⟨if cw.auto then hiLim cw.fmt else cw.eo, zeroTile cw.fmt vs, true, none, 0, 0⟩
  else
    let n := tileNeed cw.fmt vs
    if cw.auto then
      if n ≤ hiLim cw.fmt then ⟨max n (loLim cw.fmt), convertTile cw.fmt fill false (max n (loLim cw.fmt)) vs, false, none, 0, 0⟩
      else if cw.ovf = 1 then
        ⟨hiLim cw.fmt, convertTile cw.fmt fill true (hiLim cw.fmt) vs, false, some .accSaturate, 0,
          overflowCount cw.fmt (hiLim cw.fmt) vs⟩
      else ⟨hiLim cw.fmt, zeroTile cw.fmt vs, true, some .accExpLimit, 0, 0⟩
    else if overflowCount cw.fmt cw.eo vs = 0 then
      ⟨cw.eo, convertTile cw.fmt fill false cw.eo vs, false, none, 0, 0⟩
    else if cw.ovf = 0 then
      if n ≤ hiLim cw.fmt then
        ⟨n, convertTile cw.fmt fill false n vs, false, some .accRetry, (n - cw.eo).toNat, 0⟩
      else ⟨cw.eo, zeroTile cw.fmt vs, true, some .accExpLimit, 0, 0⟩
    else if cw.ovf = 1 then
      ⟨cw.eo, convertTile cw.fmt fill true cw.eo vs, false, some .accSaturate, 0, overflowCount cw.fmt cw.eo vs⟩
    else ⟨cw.eo, zeroTile cw.fmt vs, true, some .accOverflow, 0, 0⟩

/-- A record of a poisoned group: WP_VALUE 0 and WP_POISON; its other fields stand (R193, R396). -/
def poisonElem : OutElem → OutElem
  | .wide r => .wide { r with value := 0, poison := true }
  | _ => .wide ⟨0, true, false, 0⟩

/-- A tile closed as WIDE: the accumulators as full-width records, no rounding and no event; a poisoned group writes
value 0 with WP_POISON (R193, R198, R199). -/
def closeWide (fill : OutElem) (poison : Bool) (vs : List (Option Val)) : CloseResult :=
  let put (a : Option Val) : OutElem := match a with
    | some v => .wide ⟨v.acc, false, false, v.index⟩
    | none => fill
  ⟨0, vs.map fun a => if poison then poisonElem (put a) else put a, poison, none, 0, 0⟩

/-- The outcome of a close word on a tile's values; `fill` stands where there is no value. -/
def closeTile (cw : CloseWord) (fill : OutElem) (poison : Bool) (vs : List (Option Val)) : CloseResult :=
  if cw.fmt = 5 then closeWide fill poison vs else closeRounded cw fill poison vs

/-- What stands where there is no value: zero, or an empty record (R199, R209). -/
def noValue (fmt : Nat) : OutElem := if fmt = 5 then .wide wideEmpty else zeroElem fmt

/-- The exact value, on the 2^-64 scale, of a stored element at the tile's exponent, as a quotient. -/
def elemVal (e : Int) : OutElem → Val
  | .num v => if e + 64 ≤ 0 then ⟨v, 2 ^ (-(e + 64)).toNat, 0⟩ else ⟨scaleUp v e, 1, 0⟩
  | .pair hi lo =>
    let k : Nat := (33 - e).toNat
    ⟨hi * ((2 ^ (e + 64 + (k : Int)).toNat : Nat) : Int) + lo * ((2 ^ (e + 33 + (k : Int)).toNat : Nat) : Int), 2 ^ k, 0⟩
  | .wide r => ⟨r.value, 1, r.index⟩

end Sys2Proof.Machine
end

