-- ==== Sys2Proof/Machine/Regs.lean ====
section
/-! DEFINITION. The register map of BAR0 (spec R11 to R21, R651 and the register headings of every chapter): the
name, base offset, stride, number, reset domain and field table of each register, and one name per field. A field's
access code is the code of R15; its range is the range of values that a software write may set ("other values leave
the field unchanged"). Reset values that come from a stored record (configuration, fence, installer settings) stand
as 0 here and are loaded from the record by the reset operations. -/

namespace Sys2Proof.Machine

/-- The access codes of R15. -/
inductive Access where
  | ro | rw | w1c | w1s | rc | wo | rw2p
  deriving DecidableEq, Repr

/-- The reset domains of R21. -/
inductive Domain where
  | cold | warm | func | chase
  deriving DecidableEq, Repr

/-- One field of a register's field table: bits `hi` down to `lo`, access code, reset value, and the least and
greatest value a software write may set. -/
structure FieldSpec where
  hi : Nat
  lo : Nat
  acc : Access
  reset : Nat
  vmin : Nat
  vmax : Nat
  deriving DecidableEq, Repr

/-- Where a register lies: base offset in BAR0, stride between instances, number of instances, reset domain. -/
structure RegInfo where
  base : Nat
  stride : Nat
  count : Nat
  dom : Domain
  deriving DecidableEq, Repr

/-- The registers of BAR0, one name per register heading of the spec (indexed registers share one name). -/
inductive RegName where
  | sysPartId
  | sysCapacity
  | sysRegionMap
  | sysChaseStatus
  | sysJoinCfg
  | stkNumber
  | stkEpoch
  | stkPeriod
  | stkStatus
  | stkSlips
  | stkHolds
  | rgnAriRetry
  | rgnAriOvf
  | rgnAriLast
  | rgnArrSegs
  | rgnArrStore
  | rgnArrMeta
  | rgnArrRecord
  | rgnStpSpill
  | rgnStpHellbox
  | rgnTrc
  | rgnVecFlags
  | rgnVecCount
  | galSelect
  | galDesc
  | galRows
  | galState
  | galStateFlags
  | galBlank
  | galDrops
  | galPool
  | galTrain
  | galBytes
  | galFaults
  | grfHub
  | grfUnsplit
  | grfFrontier
  | grfFaults
  | grfLast
  | grfLastVertex
  | impCtrl
  | impGuest
  | impMoves
  | impSpent
  | impEvents
  | impQuery
  | impQueryKey
  | impQueryResult
  | impTier
  | hbmStatus
  | hbmPcOffline
  | hbmErrors
  | hbmRepair
  | hbmLast
  | hbmScrub
  | hbmMaint
  | hbmMaintResult
  | rcWays
  | rcMb
  | rcRangeBase
  | rcRangeLen
  | rcRangeCtrl
  | rcStats
  | rcAtomics
  | rcErrors
  | mrkCount
  | mrkState
  | mrkCtx
  | mrkRealign
  | mrkFault
  | mrkEvents
  | mrkSignal
  | mrkHostStatus
  | mrkDlCfg
  | mrkDlStatus
  | mrkDlSnap
  | mrkXlate
  | dbgMarkSet
  | dbgMarkStatus
  | hlkLinkStatus
  | hlkLinkPeer
  | hlkLinkErr
  | hlkLinkTt
  | hlkNode
  | hlkSerial
  | hlkFabric
  | hlkDisc
  | hlkRoot
  | hlkRtStatus
  | hlkE2e
  | hlkE2eCfg
  | hlkTime
  | hlkRtGroup
  | hlkRtMember
  | hlkBundle
  | ethPortCfg
  | ethPortStatus
  | ethPortDrops
  | ethPortMac
  | ethPortIp4
  | ethPortIp6Hi
  | ethPortIp6Lo
  | ethCc
  | ethCcNp
  | ethRoce
  | ethRoceUse
  | hifCtrl
  | hifStatus
  | hifHostRid
  | hifAperture
  | hifApertureSync
  | hifHostPool
  | hifEvtVec
  | hifEvtStatus
  | hifDmaFence
  | hifDmaBlocked
  | hifUr
  | hifDmaWinBase
  | hifDmaWinLen
  | hifRingBase
  | hifRingPbase
  | hifRingCtrl
  | hifRingDb
  | hifRingPhead
  | hifRingStatus
  | hifRingCount
  | inkEnvelope
  | inkLedger
  | inkThrottle
  | inkEvents
  | inkThermal
  | inkChase
  | timeNs
  | timeFrac
  | timeStatus
  | timeCfg
  | timeNextSec
  | timePpsCount
  | timeStep
  | secStatus
  | secMbCtrl
  | secAuth
  | secColophon
  | secColCkpt
  | secColEvents
  | secColLost
  | rasStatus
  | rasSpares
  | rasCounts
  | rasCfg
  | rasLogCtrl
  | rasLog
  | sysBoot
  deriving DecidableEq, Repr

/-- Base, stride, count and reset domain of each register, from its heading in the spec. -/
def RegName.info : RegName → RegInfo
  | .sysPartId => ⟨0x0000000, 0x8, 1, .cold⟩
  | .sysCapacity => ⟨0x0000010, 0x8, 1, .cold⟩
  | .sysRegionMap => ⟨0x0000020, 0x8, 2, .cold⟩
  | .sysChaseStatus => ⟨0x0000100, 0x8, 16, .chase⟩
  | .sysJoinCfg => ⟨0x0000030, 0x8, 1, .warm⟩
  | .stkNumber => ⟨0x0200000, 0x100, 16, .chase⟩
  | .stkEpoch => ⟨0x0200008, 0x100, 16, .chase⟩
  | .stkPeriod => ⟨0x0200010, 0x100, 16, .chase⟩
  | .stkStatus => ⟨0x0200018, 0x100, 16, .chase⟩
  | .stkSlips => ⟨0x0200020, 0x100, 16, .chase⟩
  | .stkHolds => ⟨0x0200028, 0x100, 16, .chase⟩
  | .rgnAriRetry => ⟨0x2001000, 0x100000, 20, .func⟩
  | .rgnAriOvf => ⟨0x2001008, 0x100000, 20, .func⟩
  | .rgnAriLast => ⟨0x2001010, 0x100000, 20, .func⟩
  | .rgnArrSegs => ⟨0x2002000, 0x100000, 20, .func⟩
  | .rgnArrStore => ⟨0x2002008, 0x100000, 20, .func⟩
  | .rgnArrMeta => ⟨0x2002010, 0x100000, 20, .func⟩
  | .rgnArrRecord => ⟨0x2002018, 0x100000, 20, .func⟩
  | .rgnStpSpill => ⟨0x2002020, 0x100000, 20, .func⟩
  | .rgnStpHellbox => ⟨0x2002028, 0x100000, 20, .func⟩
  | .rgnTrc => ⟨0x2002030, 0x100000, 20, .func⟩
  | .rgnVecFlags => ⟨0x2003000, 0x100000, 20, .func⟩
  | .rgnVecCount => ⟨0x2003008, 0x100000, 20, .func⟩
  | .galSelect => ⟨0x0600000, 0x8, 1, .func⟩
  | .galDesc => ⟨0x0600008, 0x8, 1, .func⟩
  | .galRows => ⟨0x0600010, 0x8, 1, .func⟩
  | .galState => ⟨0x0600018, 0x8, 1, .func⟩
  | .galStateFlags => ⟨0x0600020, 0x8, 1, .func⟩
  | .galBlank => ⟨0x0600028, 0x8, 1, .func⟩
  | .galDrops => ⟨0x0600030, 0x8, 1, .func⟩
  | .galPool => ⟨0x0600038, 0x8, 1, .func⟩
  | .galTrain => ⟨0x0600040, 0x8, 1, .func⟩
  | .galBytes => ⟨0x0600048, 0x8, 1, .func⟩
  | .galFaults => ⟨0x0600050, 0x8, 1, .func⟩
  | .grfHub => ⟨0x0700000, 0x8, 1, .func⟩
  | .grfUnsplit => ⟨0x0700008, 0x8, 1, .func⟩
  | .grfFrontier => ⟨0x0700010, 0x8, 1, .func⟩
  | .grfFaults => ⟨0x0700018, 0x8, 1, .func⟩
  | .grfLast => ⟨0x0700020, 0x8, 1, .func⟩
  | .grfLastVertex => ⟨0x0700028, 0x8, 1, .func⟩
  | .impCtrl => ⟨0x0500000, 0x100, 16, .chase⟩
  | .impGuest => ⟨0x0500008, 0x100, 16, .chase⟩
  | .impMoves => ⟨0x0500010, 0x100, 16, .chase⟩
  | .impSpent => ⟨0x0500018, 0x100, 16, .chase⟩
  | .impEvents => ⟨0x0500020, 0x100, 16, .chase⟩
  | .impQuery => ⟨0x0501000, 0x8, 1, .func⟩
  | .impQueryKey => ⟨0x0501008, 0x8, 1, .func⟩
  | .impQueryResult => ⟨0x0501010, 0x8, 1, .func⟩
  | .impTier => ⟨0x0501020, 0x8, 7, .func⟩
  | .hbmStatus => ⟨0x0800000, 0x10000, 12, .cold⟩
  | .hbmPcOffline => ⟨0x0800008, 0x10000, 12, .cold⟩
  | .hbmErrors => ⟨0x0800010, 0x10000, 12, .warm⟩
  | .hbmRepair => ⟨0x0800018, 0x10000, 12, .warm⟩
  | .hbmLast => ⟨0x0800020, 0x10000, 12, .warm⟩
  | .hbmScrub => ⟨0x0800028, 0x10000, 12, .warm⟩
  | .hbmMaint => ⟨0x0800030, 0x10000, 12, .cold⟩
  | .hbmMaintResult => ⟨0x0800038, 0x10000, 12, .cold⟩
  | .rcWays => ⟨0x0C00000, 0x10000, 20, .func⟩
  | .rcMb => ⟨0x0C00008, 0x10000, 20, .func⟩
  | .rcRangeBase => ⟨0x0C00010, 0x10000, 20, .func⟩
  | .rcRangeLen => ⟨0x0C00018, 0x10000, 20, .func⟩
  | .rcRangeCtrl => ⟨0x0C00020, 0x10000, 20, .func⟩
  | .rcStats => ⟨0x0C00028, 0x10000, 20, .func⟩
  | .rcAtomics => ⟨0x0C00030, 0x10000, 20, .func⟩
  | .rcErrors => ⟨0x0C00038, 0x10000, 20, .warm⟩
  | .mrkCount => ⟨0x0400000, 0x8, 16384, .func⟩
  | .mrkState => ⟨0x0420000, 0x8, 16384, .func⟩
  | .mrkCtx => ⟨0x0440000, 0x100, 16, .chase⟩
  | .mrkRealign => ⟨0x0440008, 0x100, 16, .chase⟩
  | .mrkFault => ⟨0x0440010, 0x100, 16, .chase⟩
  | .mrkEvents => ⟨0x0440018, 0x100, 16, .chase⟩
  | .mrkSignal => ⟨0x0450000, 0x8, 1, .func⟩
  | .mrkHostStatus => ⟨0x0450008, 0x8, 1, .func⟩
  | .mrkDlCfg => ⟨0x0450010, 0x8, 1, .func⟩
  | .mrkDlStatus => ⟨0x0450018, 0x8, 1, .func⟩
  | .mrkDlSnap => ⟨0x0450020, 0x8, 1, .func⟩
  | .mrkXlate => ⟨0x0450028, 0x8, 1, .func⟩
  | .dbgMarkSet => ⟨0x3C00100, 0x8, 1, .func⟩
  | .dbgMarkStatus => ⟨0x3C00108, 0x8, 1, .func⟩
  | .hlkLinkStatus => ⟨0x1000000, 0x1000, 96, .warm⟩
  | .hlkLinkPeer => ⟨0x1000008, 0x1000, 96, .warm⟩
  | .hlkLinkErr => ⟨0x1000010, 0x1000, 96, .warm⟩
  | .hlkLinkTt => ⟨0x1000018, 0x1000, 96, .warm⟩
  | .hlkNode => ⟨0x1080000, 0x8, 1, .warm⟩
  | .hlkSerial => ⟨0x1080008, 0x8, 1, .warm⟩
  | .hlkFabric => ⟨0x1080010, 0x8, 1, .warm⟩
  | .hlkDisc => ⟨0x1080018, 0x8, 1, .warm⟩
  | .hlkRoot => ⟨0x1080020, 0x8, 1, .warm⟩
  | .hlkRtStatus => ⟨0x1080028, 0x8, 1, .warm⟩
  | .hlkE2e => ⟨0x1080030, 0x8, 1, .warm⟩
  | .hlkE2eCfg => ⟨0x1080038, 0x8, 1, .warm⟩
  | .hlkTime => ⟨0x1080040, 0x8, 1, .warm⟩
  | .hlkRtGroup => ⟨0x1090000, 0x8, 128, .warm⟩
  | .hlkRtMember => ⟨0x1090800, 0x8, 256, .warm⟩
  | .hlkBundle => ⟨0x1091000, 0x8, 96, .warm⟩
  | .ethPortCfg => ⟨0x1400000, 0x10000, 4, .warm⟩
  | .ethPortStatus => ⟨0x1400008, 0x10000, 4, .warm⟩
  | .ethPortDrops => ⟨0x1400010, 0x10000, 4, .warm⟩
  | .ethPortMac => ⟨0x1400018, 0x10000, 4, .warm⟩
  | .ethPortIp4 => ⟨0x1400020, 0x10000, 4, .warm⟩
  | .ethPortIp6Hi => ⟨0x1400028, 0x10000, 4, .warm⟩
  | .ethPortIp6Lo => ⟨0x1400030, 0x10000, 4, .warm⟩
  | .ethCc => ⟨0x1450000, 0x8, 1, .warm⟩
  | .ethCcNp => ⟨0x1450008, 0x8, 1, .warm⟩
  | .ethRoce => ⟨0x1450010, 0x8, 1, .warm⟩
  | .ethRoceUse => ⟨0x1450018, 0x8, 1, .warm⟩
  | .hifCtrl => ⟨0x0100000, 0x8, 1, .func⟩
  | .hifStatus => ⟨0x0100008, 0x8, 1, .func⟩
  | .hifHostRid => ⟨0x0100010, 0x8, 1, .func⟩
  | .hifAperture => ⟨0x0100018, 0x8, 1, .func⟩
  | .hifApertureSync => ⟨0x0100020, 0x8, 1, .func⟩
  | .hifHostPool => ⟨0x0100028, 0x8, 1, .func⟩
  | .hifEvtVec => ⟨0x0100030, 0x8, 1, .func⟩
  | .hifEvtStatus => ⟨0x0100038, 0x8, 1, .func⟩
  | .hifDmaFence => ⟨0x0100040, 0x8, 1, .func⟩
  | .hifDmaBlocked => ⟨0x0100048, 0x8, 1, .func⟩
  | .hifUr => ⟨0x0100050, 0x8, 1, .func⟩
  | .hifDmaWinBase => ⟨0x0104000, 0x10, 64, .func⟩
  | .hifDmaWinLen => ⟨0x0104008, 0x10, 64, .func⟩
  | .hifRingBase => ⟨0x0108000, 0x40, 256, .func⟩
  | .hifRingPbase => ⟨0x0108008, 0x40, 256, .func⟩
  | .hifRingCtrl => ⟨0x0108010, 0x40, 256, .func⟩
  | .hifRingDb => ⟨0x0108018, 0x40, 256, .func⟩
  | .hifRingPhead => ⟨0x0108020, 0x40, 256, .func⟩
  | .hifRingStatus => ⟨0x0108028, 0x40, 256, .func⟩
  | .hifRingCount => ⟨0x0108030, 0x40, 256, .func⟩
  | .inkEnvelope => ⟨0x0300000, 0x8, 1, .warm⟩
  | .inkLedger => ⟨0x0300008, 0x8, 1, .func⟩
  | .inkThrottle => ⟨0x0300010, 0x8, 1, .warm⟩
  | .inkEvents => ⟨0x0300018, 0x8, 1, .func⟩
  | .inkThermal => ⟨0x0300020, 0x8, 1, .warm⟩
  | .inkChase => ⟨0x0301000, 0x8, 16, .chase⟩
  | .timeNs => ⟨0x0280000, 0x8, 1, .cold⟩
  | .timeFrac => ⟨0x0280008, 0x8, 1, .cold⟩
  | .timeStatus => ⟨0x0280010, 0x8, 1, .cold⟩
  | .timeCfg => ⟨0x0280018, 0x8, 1, .warm⟩
  | .timeNextSec => ⟨0x0280020, 0x8, 1, .warm⟩
  | .timePpsCount => ⟨0x0280028, 0x8, 1, .warm⟩
  | .timeStep => ⟨0x0280030, 0x8, 1, .cold⟩
  | .secStatus => ⟨0x1800000, 0x8, 1, .warm⟩
  | .secMbCtrl => ⟨0x1800008, 0x8, 1, .warm⟩
  | .secAuth => ⟨0x1800010, 0x8, 1, .warm⟩
  | .secColophon => ⟨0x1800018, 0x8, 1, .cold⟩
  | .secColCkpt => ⟨0x1800020, 0x8, 1, .cold⟩
  | .secColEvents => ⟨0x1800028, 0x8, 1, .cold⟩
  | .secColLost => ⟨0x1800030, 0x8, 1, .cold⟩
  | .rasStatus => ⟨0x1C00000, 0x8, 1, .cold⟩
  | .rasSpares => ⟨0x1C00008, 0x8, 1, .cold⟩
  | .rasCounts => ⟨0x1C00010, 0x8, 1, .warm⟩
  | .rasCfg => ⟨0x1C00018, 0x8, 1, .warm⟩
  | .rasLogCtrl => ⟨0x1C00020, 0x8, 1, .warm⟩
  | .rasLog => ⟨0x1C01000, 0x8, 2048, .warm⟩
  | .sysBoot => ⟨0x0000040, 0x8, 1, .warm⟩

/-- One row of a field table. -/
def fieldRow (hi lo : Nat) (acc : Access) (reset vmin vmax : Nat) : FieldSpec := ⟨hi, lo, acc, reset, vmin, vmax⟩

namespace Tab
/-- The field table of SYS_PART_ID. -/
def sysPartId : List FieldSpec :=
  [fieldRow 19 16 .ro 0 0 15,
   fieldRow 15 0 .ro 38432 0 65535]
/-- The field table of SYS_CAPACITY. -/
def sysCapacity : List FieldSpec :=
  [fieldRow 63 63 .ro 0 0 1,
   fieldRow 51 48 .ro 0 0 15,
   fieldRow 44 32 .ro 0 0 8191,
   fieldRow 24 16 .ro 0 0 511,
   fieldRow 4 0 .ro 0 0 31]
/-- The field table of SYS_REGION_MAP. -/
def sysRegionMap : List FieldSpec :=
  [fieldRow 7 7 .ro 0 0 1,
   fieldRow 4 0 .ro 0 0 31,
   fieldRow 15 15 .ro 0 0 1,
   fieldRow 12 8 .ro 0 0 31,
   fieldRow 23 23 .ro 0 0 1,
   fieldRow 20 16 .ro 0 0 31,
   fieldRow 31 31 .ro 0 0 1,
   fieldRow 28 24 .ro 0 0 31,
   fieldRow 39 39 .ro 0 0 1,
   fieldRow 36 32 .ro 0 0 31,
   fieldRow 47 47 .ro 0 0 1,
   fieldRow 44 40 .ro 0 0 31,
   fieldRow 55 55 .ro 0 0 1,
   fieldRow 52 48 .ro 0 0 31,
   fieldRow 63 63 .ro 0 0 1,
   fieldRow 60 56 .ro 0 0 31]
/-- The field table of SYS_CHASE_STATUS. -/
def sysChaseStatus : List FieldSpec :=
  [fieldRow 63 48 .ro 0 0 65535,
   fieldRow 39 32 .ro 0 0 255,
   fieldRow 31 24 .ro 0 0 255,
   fieldRow 3 0 .ro 0 0 15]
/-- The field table of SYS_JOIN_CFG. -/
def sysJoinCfg : List FieldSpec :=
  [fieldRow 19 0 .rw 10000 100 600000]
/-- The field table of STK_NUMBER. -/
def stkNumber : List FieldSpec :=
  [fieldRow 63 0 .ro 0 0 18446744073709551615]
/-- The field table of STK_EPOCH. -/
def stkEpoch : List FieldSpec :=
  [fieldRow 63 0 .ro 0 0 18446744073709551615]
/-- The field table of STK_PERIOD. -/
def stkPeriod : List FieldSpec :=
  [fieldRow 53 44 .ro 0 0 1023,
   fieldRow 43 34 .ro 0 0 1023,
   fieldRow 33 24 .ro 0 0 1023,
   fieldRow 23 0 .ro 0 0 16777215]
/-- The field table of STK_STATUS. -/
def stkStatus : List FieldSpec :=
  [fieldRow 55 40 .ro 0 0 65535,
   fieldRow 39 32 .ro 0 0 255,
   fieldRow 31 16 .ro 0 0 65535,
   fieldRow 9 8 .ro 0 0 3,
   fieldRow 4 4 .ro 0 0 1,
   fieldRow 3 3 .ro 0 0 1,
   fieldRow 2 2 .ro 0 0 1,
   fieldRow 1 0 .ro 0 0 3]
/-- The field table of STK_SLIPS. -/
def stkSlips : List FieldSpec :=
  [fieldRow 63 32 .ro 0 0 4294967295,
   fieldRow 31 0 .ro 0 0 4294967295]
/-- The field table of STK_HOLDS. -/
def stkHolds : List FieldSpec :=
  [fieldRow 63 32 .ro 0 0 4294967295,
   fieldRow 31 0 .ro 0 0 4294967295]
/-- The field table of RGN_ARI_RETRY. -/
def rgnAriRetry : List FieldSpec :=
  [fieldRow 55 48 .rc 0 0 255,
   fieldRow 47 0 .rc 0 0 281474976710655]
/-- The field table of RGN_ARI_OVF. -/
def rgnAriOvf : List FieldSpec :=
  [fieldRow 63 32 .rc 0 0 4294967295,
   fieldRow 31 0 .rc 0 0 4294967295]
/-- The field table of RGN_ARI_LAST. -/
def rgnAriLast : List FieldSpec :=
  [fieldRow 63 56 .ro 0 0 255,
   fieldRow 55 48 .ro 0 0 255,
   fieldRow 47 40 .ro 0 0 255,
   fieldRow 39 36 .ro 0 0 15,
   fieldRow 34 32 .ro 0 0 7,
   fieldRow 31 16 .ro 0 0 65535]
/-- The field table of RGN_ARR_SEGS. -/
def rgnArrSegs : List FieldSpec :=
  [fieldRow 63 32 .rc 0 0 4294967295,
   fieldRow 31 0 .rc 0 0 4294967295]
/-- The field table of RGN_ARR_STORE. -/
def rgnArrStore : List FieldSpec :=
  [fieldRow 63 32 .rc 0 0 4294967295,
   fieldRow 31 0 .rc 0 0 4294967295]
/-- The field table of RGN_ARR_META. -/
def rgnArrMeta : List FieldSpec :=
  [fieldRow 63 56 .ro 0 0 255,
   fieldRow 55 52 .ro 0 0 15,
   fieldRow 47 32 .ro 0 0 65535,
   fieldRow 31 0 .rc 0 0 4294967295]
/-- The field table of RGN_ARR_RECORD. -/
def rgnArrRecord : List FieldSpec :=
  [fieldRow 51 48 .ro 0 0 15,
   fieldRow 47 32 .ro 0 0 65535,
   fieldRow 31 0 .rc 0 0 4294967295]
/-- The field table of RGN_STP_SPILL. -/
def rgnStpSpill : List FieldSpec :=
  [fieldRow 63 32 .rc 0 0 4294967295,
   fieldRow 31 0 .rc 0 0 4294967295]
/-- The field table of RGN_STP_HELLBOX. -/
def rgnStpHellbox : List FieldSpec :=
  [fieldRow 63 48 .rc 0 0 65535,
   fieldRow 47 32 .rc 0 0 65535,
   fieldRow 31 0 .rc 0 0 4294967295]
/-- The field table of RGN_TRC. -/
def rgnTrc : List FieldSpec :=
  [fieldRow 63 32 .rc 0 0 4294967295,
   fieldRow 31 0 .rc 0 0 4294967295]
/-- The field table of RGN_VEC_FLAGS. -/
def rgnVecFlags : List FieldSpec :=
  [fieldRow 51 48 .ro 0 0 15,
   fieldRow 47 32 .ro 0 0 65535,
   fieldRow 3 3 .w1c 0 0 1,
   fieldRow 2 2 .w1c 0 0 1,
   fieldRow 1 1 .w1c 0 0 1,
   fieldRow 0 0 .w1c 0 0 1]
/-- The field table of RGN_VEC_COUNT. -/
def rgnVecCount : List FieldSpec :=
  [fieldRow 63 48 .rc 0 0 65535,
   fieldRow 47 32 .rc 0 0 65535,
   fieldRow 31 0 .rc 0 0 4294967295]
/-- The field table of GAL_SELECT. -/
def galSelect : List FieldSpec :=
  [fieldRow 13 10 .rw 0 0 15,
   fieldRow 9 0 .rw 0 0 1023]
/-- The field table of GAL_DESC. -/
def galDesc : List FieldSpec :=
  [fieldRow 63 63 .ro 0 0 1,
   fieldRow 62 62 .ro 0 0 1,
   fieldRow 61 61 .ro 0 0 1,
   fieldRow 57 56 .ro 0 0 3,
   fieldRow 55 48 .ro 0 0 255,
   fieldRow 42 32 .ro 0 0 2047,
   fieldRow 31 0 .ro 0 0 4294967295]
/-- The field table of GAL_ROWS. -/
def galRows : List FieldSpec :=
  [fieldRow 39 0 .ro 0 0 1099511627775]
/-- The field table of GAL_STATE. -/
def galState : List FieldSpec :=
  [fieldRow 63 32 .ro 0 0 4294967295,
   fieldRow 31 0 .ro 0 0 4294967295]
/-- The field table of GAL_STATE_FLAGS. -/
def galStateFlags : List FieldSpec :=
  [fieldRow 7 7 .ro 0 0 1,
   fieldRow 6 6 .ro 0 0 1,
   fieldRow 5 4 .ro 0 0 3]
/-- The field table of GAL_BLANK. -/
def galBlank : List FieldSpec :=
  [fieldRow 63 32 .rc 0 0 4294967295,
   fieldRow 31 0 .rc 0 0 4294967295]
/-- The field table of GAL_DROPS. -/
def galDrops : List FieldSpec :=
  [fieldRow 63 48 .rc 0 0 65535,
   fieldRow 47 32 .rc 0 0 65535,
   fieldRow 31 0 .rc 0 0 4294967295]
/-- The field table of GAL_POOL. -/
def galPool : List FieldSpec :=
  [fieldRow 63 32 .rc 0 0 4294967295,
   fieldRow 31 0 .rc 0 0 4294967295]
/-- The field table of GAL_TRAIN. -/
def galTrain : List FieldSpec :=
  [fieldRow 63 32 .rc 0 0 4294967295,
   fieldRow 31 16 .rc 0 0 65535,
   fieldRow 15 0 .rc 0 0 65535]
/-- The field table of GAL_BYTES. -/
def galBytes : List FieldSpec :=
  [fieldRow 47 0 .ro 0 0 281474976710655]
/-- The field table of GAL_FAULTS. -/
def galFaults : List FieldSpec :=
  [fieldRow 63 32 .rc 0 0 4294967295,
   fieldRow 31 0 .rc 0 0 4294967295]
/-- The field table of GRF_HUB. -/
def grfHub : List FieldSpec :=
  [fieldRow 47 32 .rc 0 0 65535,
   fieldRow 31 0 .rc 0 0 4294967295]
/-- The field table of GRF_UNSPLIT. -/
def grfUnsplit : List FieldSpec :=
  [fieldRow 31 0 .rc 0 0 4294967295]
/-- The field table of GRF_FRONTIER. -/
def grfFrontier : List FieldSpec :=
  [fieldRow 63 32 .rc 0 0 4294967295,
   fieldRow 31 0 .rc 0 0 4294967295]
/-- The field table of GRF_FAULTS. -/
def grfFaults : List FieldSpec :=
  [fieldRow 63 32 .rc 0 0 4294967295,
   fieldRow 31 0 .rc 0 0 4294967295]
/-- The field table of GRF_LAST. -/
def grfLast : List FieldSpec :=
  [fieldRow 63 56 .ro 0 0 255,
   fieldRow 55 52 .ro 0 0 15,
   fieldRow 47 32 .ro 0 0 65535]
/-- The field table of GRF_LAST_VERTEX. -/
def grfLastVertex : List FieldSpec :=
  [fieldRow 39 0 .ro 0 0 1099511627775]
/-- The field table of IMP_CTRL. -/
def impCtrl : List FieldSpec :=
  [fieldRow 40 40 .rw 0 0 1,
   fieldRow 39 36 .rw 2 0 8,
   fieldRow 35 32 .rw 4 0 10,
   fieldRow 31 16 .rw 128 1 65535,
   fieldRow 9 0 .rw 50 0 500]
/-- The field table of IMP_GUEST. -/
def impGuest : List FieldSpec :=
  [fieldRow 47 32 .ro 0 0 65535,
   fieldRow 15 0 .rw 0 0 65535]
/-- The field table of IMP_MOVES. -/
def impMoves : List FieldSpec :=
  [fieldRow 63 32 .rc 0 0 4294967295,
   fieldRow 31 0 .rc 0 0 4294967295]
/-- The field table of IMP_SPENT. -/
def impSpent : List FieldSpec :=
  [fieldRow 39 0 .ro 0 0 1099511627775]
/-- The field table of IMP_EVENTS. -/
def impEvents : List FieldSpec :=
  [fieldRow 63 48 .rc 0 0 65535,
   fieldRow 47 32 .rc 0 0 65535,
   fieldRow 31 0 .rc 0 0 4294967295]
/-- The field table of IMP_QUERY. -/
def impQuery : List FieldSpec :=
  [fieldRow 19 16 .rw 0 0 15,
   fieldRow 15 15 .rw 0 0 1,
   fieldRow 9 0 .rw 0 0 1023]
/-- The field table of IMP_QUERY_KEY. -/
def impQueryKey : List FieldSpec :=
  [fieldRow 63 0 .rw 0 0 18446744073709551615]
/-- The field table of IMP_QUERY_RESULT. -/
def impQueryResult : List FieldSpec :=
  [fieldRow 63 63 .ro 0 0 1,
   fieldRow 62 62 .ro 0 0 1,
   fieldRow 61 61 .ro 0 0 1,
   fieldRow 60 60 .ro 0 0 1,
   fieldRow 59 56 .ro 0 0 15,
   fieldRow 55 52 .ro 0 0 15,
   fieldRow 51 48 .ro 0 0 15,
   fieldRow 47 44 .ro 0 0 15,
   fieldRow 43 40 .ro 0 0 15,
   fieldRow 39 36 .ro 0 0 15,
   fieldRow 31 16 .ro 0 0 65535,
   fieldRow 15 0 .ro 0 0 65535]
/-- The field table of IMP_TIER. -/
def impTier : List FieldSpec :=
  [fieldRow 63 32 .ro 0 0 4294967295,
   fieldRow 31 0 .ro 0 0 4294967295]
/-- The field table of HBM_STATUS. -/
def hbmStatus : List FieldSpec :=
  [fieldRow 63 62 .ro 0 0 3,
   fieldRow 61 55 .ro 0 0 127,
   fieldRow 54 52 .ro 0 0 7,
   fieldRow 51 51 .ro 0 0 1,
   fieldRow 43 32 .ro 0 0 4095,
   fieldRow 31 8 .ro 0 0 16777215,
   fieldRow 7 0 .ro 0 0 255]
/-- The field table of HBM_PC_OFFLINE. -/
def hbmPcOffline : List FieldSpec :=
  [fieldRow 63 0 .ro 0 0 18446744073709551615]
/-- The field table of HBM_ERRORS. -/
def hbmErrors : List FieldSpec :=
  [fieldRow 63 40 .rc 0 0 16777215,
   fieldRow 39 32 .rc 0 0 255,
   fieldRow 31 16 .rc 0 0 65535,
   fieldRow 15 0 .rc 0 0 65535]
/-- The field table of HBM_REPAIR. -/
def hbmRepair : List FieldSpec :=
  [fieldRow 31 16 .rc 0 0 65535,
   fieldRow 15 0 .rc 0 0 65535]
/-- The field table of HBM_LAST. -/
def hbmLast : List FieldSpec :=
  [fieldRow 63 60 .ro 0 0 15,
   fieldRow 59 54 .ro 0 0 63,
   fieldRow 53 49 .ro 0 0 31,
   fieldRow 48 34 .ro 0 0 32767,
   fieldRow 33 0 .ro 0 0 17179869183]
/-- The field table of HBM_SCRUB. -/
def hbmScrub : List FieldSpec :=
  [fieldRow 39 16 .ro 0 0 16777215,
   fieldRow 7 0 .rw 24 1 255]
/-- The field table of HBM_MAINT. -/
def hbmMaint : List FieldSpec :=
  [fieldRow 34 32 .rw2p 0 0 7,
   fieldRow 31 26 .rw2p 0 0 63,
   fieldRow 25 21 .rw2p 0 0 31,
   fieldRow 20 6 .rw2p 0 0 32767]
/-- The field table of HBM_MAINT_RESULT. -/
def hbmMaintResult : List FieldSpec :=
  [fieldRow 63 63 .ro 0 0 1,
   fieldRow 62 60 .ro 0 0 7,
   fieldRow 15 8 .ro 0 0 255,
   fieldRow 7 0 .ro 0 0 255]
/-- The field table of RC_WAYS. -/
def rcWays : List FieldSpec :=
  [fieldRow 41 41 .w1c 0 0 1,
   fieldRow 40 40 .ro 0 0 1,
   fieldRow 39 36 .ro 0 0 15,
   fieldRow 35 32 .ro 8 0 15,
   fieldRow 31 28 .ro 0 0 15,
   fieldRow 11 8 .rw 0 0 15,
   fieldRow 7 4 .rw 8 0 15,
   fieldRow 3 0 .rw 0 0 15]
/-- The field table of RC_MB. -/
def rcMb : List FieldSpec :=
  [fieldRow 47 40 .rc 0 0 255,
   fieldRow 39 32 .ro 0 0 255,
   fieldRow 31 16 .rc 0 0 65535,
   fieldRow 15 0 .rw 1000 64 65535]
/-- The field table of RC_RANGE_BASE. -/
def rcRangeBase : List FieldSpec :=
  [fieldRow 63 0 .rw 0 0 18446744073709551615]
/-- The field table of RC_RANGE_LEN. -/
def rcRangeLen : List FieldSpec :=
  [fieldRow 43 0 .rw 0 0 17592186044415]
/-- The field table of RC_RANGE_CTRL. -/
def rcRangeCtrl : List FieldSpec :=
  [fieldRow 63 63 .ro 0 0 1,
   fieldRow 62 60 .ro 0 0 7,
   fieldRow 39 8 .rc 0 0 4294967295,
   fieldRow 7 4 .rw 0 0 15,
   fieldRow 3 3 .rw 0 0 1,
   fieldRow 2 0 .wo 0 0 7]
/-- The field table of RC_STATS. -/
def rcStats : List FieldSpec :=
  [fieldRow 63 32 .rc 0 0 4294967295,
   fieldRow 31 0 .rc 0 0 4294967295]
/-- The field table of RC_ATOMICS. -/
def rcAtomics : List FieldSpec :=
  [fieldRow 63 48 .rc 0 0 65535,
   fieldRow 47 0 .rc 0 0 281474976710655]
/-- The field table of RC_ERRORS. -/
def rcErrors : List FieldSpec :=
  [fieldRow 63 32 .rc 0 0 4294967295,
   fieldRow 31 0 .rc 0 0 4294967295]
/-- The field table of MRK_COUNT. -/
def mrkCount : List FieldSpec :=
  [fieldRow 63 32 .ro 0 0 4294967295,
   fieldRow 31 0 .ro 0 0 4294967295]
/-- The field table of MRK_STATE. -/
def mrkState : List FieldSpec :=
  [fieldRow 63 63 .ro 0 0 1,
   fieldRow 62 62 .ro 0 0 1,
   fieldRow 61 61 .ro 0 0 1,
   fieldRow 60 60 .ro 0 0 1,
   fieldRow 59 59 .w1c 0 0 1,
   fieldRow 58 58 .w1c 0 0 1,
   fieldRow 49 44 .ro 0 0 63,
   fieldRow 43 40 .ro 0 0 15,
   fieldRow 39 26 .ro 0 0 16383,
   fieldRow 15 0 .ro 0 0 65535]
/-- The field table of MRK_CTX. -/
def mrkCtx : List FieldSpec :=
  [fieldRow 63 48 .rc 0 0 65535,
   fieldRow 40 40 .ro 0 0 1,
   fieldRow 38 32 .ro 0 0 127,
   fieldRow 16 16 .ro 0 0 1,
   fieldRow 13 8 .ro 0 0 63,
   fieldRow 5 0 .ro 0 0 63]
/-- The field table of MRK_REALIGN. -/
def mrkRealign : List FieldSpec :=
  [fieldRow 63 48 .rc 0 0 65535,
   fieldRow 47 32 .rc 0 0 65535,
   fieldRow 15 0 .rw 0 0 65535]
/-- The field table of MRK_FAULT. -/
def mrkFault : List FieldSpec :=
  [fieldRow 63 56 .ro 0 0 255,
   fieldRow 45 32 .ro 0 0 16383,
   fieldRow 31 0 .ro 0 0 4294967295]
/-- The field table of MRK_EVENTS. -/
def mrkEvents : List FieldSpec :=
  [fieldRow 63 32 .rc 0 0 4294967295,
   fieldRow 31 16 .rc 0 0 65535,
   fieldRow 15 0 .rc 0 0 65535]
/-- The field table of MRK_SIGNAL. -/
def mrkSignal : List FieldSpec :=
  [fieldRow 49 48 .wo 0 0 3,
   fieldRow 47 32 .wo 0 0 65535,
   fieldRow 13 0 .wo 0 0 16383]
/-- The field table of MRK_HOST_STATUS. -/
def mrkHostStatus : List FieldSpec :=
  [fieldRow 31 0 .rc 0 0 4294967295]
/-- The field table of MRK_DL_CFG. -/
def mrkDlCfg : List FieldSpec :=
  [fieldRow 15 0 .rw 1000 0 65535]
/-- The field table of MRK_DL_STATUS. -/
def mrkDlStatus : List FieldSpec :=
  [fieldRow 63 63 .w1c 0 0 1,
   fieldRow 55 52 .ro 0 0 15,
   fieldRow 51 36 .ro 0 0 65535,
   fieldRow 35 28 .rc 0 0 255,
   fieldRow 14 14 .ro 0 0 1,
   fieldRow 13 0 .ro 0 0 16383]
/-- The field table of MRK_DL_SNAP. -/
def mrkDlSnap : List FieldSpec :=
  [fieldRow 63 32 .ro 0 0 4294967295,
   fieldRow 31 0 .ro 0 0 4294967295]
/-- The field table of MRK_XLATE. -/
def mrkXlate : List FieldSpec :=
  [fieldRow 63 63 .ro 0 0 1,
   fieldRow 55 52 .rw 0 0 15,
   fieldRow 45 40 .rw 0 0 63,
   fieldRow 29 16 .rw 0 0 16383,
   fieldRow 13 0 .ro 0 0 16383]
/-- The field table of DBG_MARK_SET. -/
def dbgMarkSet : List FieldSpec :=
  [fieldRow 63 63 .wo 0 0 1,
   fieldRow 62 62 .wo 0 0 1,
   fieldRow 45 32 .wo 0 0 16383,
   fieldRow 31 0 .wo 0 0 4294967295]
/-- The field table of DBG_MARK_STATUS. -/
def dbgMarkStatus : List FieldSpec :=
  [fieldRow 63 62 .ro 0 0 3]
/-- The field table of HLK_LINK_STATUS. -/
def hlkLinkStatus : List FieldSpec :=
  [fieldRow 63 61 .ro 0 0 7,
   fieldRow 60 54 .ro 127 0 127,
   fieldRow 53 47 .ro 0 0 127,
   fieldRow 46 32 .ro 0 0 32767,
   fieldRow 31 31 .ro 0 0 1,
   fieldRow 30 28 .ro 0 0 7,
   fieldRow 16 8 .ro 0 0 511]
/-- The field table of HLK_LINK_PEER. -/
def hlkLinkPeer : List FieldSpec :=
  [fieldRow 63 0 .ro 0 0 18446744073709551615]
/-- The field table of HLK_LINK_ERR. -/
def hlkLinkErr : List FieldSpec :=
  [fieldRow 63 32 .rc 0 0 4294967295,
   fieldRow 31 20 .rc 0 0 4095,
   fieldRow 19 8 .rc 0 0 4095,
   fieldRow 7 0 .rc 0 0 255]
/-- The field table of HLK_LINK_TT. -/
def hlkLinkTt : List FieldSpec :=
  [fieldRow 31 0 .rw 0 0 4294967295]
/-- The field table of HLK_NODE. -/
def hlkNode : List FieldSpec :=
  [fieldRow 63 61 .ro 0 0 7,
   fieldRow 14 0 .ro 0 0 32767]
/-- The field table of HLK_SERIAL. -/
def hlkSerial : List FieldSpec :=
  [fieldRow 63 0 .ro 0 0 18446744073709551615]
/-- The field table of HLK_FABRIC. -/
def hlkFabric : List FieldSpec :=
  [fieldRow 63 32 .ro 0 0 4294967295,
   fieldRow 31 30 .ro 0 0 3,
   fieldRow 26 18 .ro 0 0 511,
   fieldRow 17 9 .ro 0 0 511,
   fieldRow 8 0 .ro 0 0 511]
/-- The field table of HLK_DISC. -/
def hlkDisc : List FieldSpec :=
  [fieldRow 63 60 .ro 0 0 15,
   fieldRow 59 56 .ro 0 0 15,
   fieldRow 47 32 .rw 500 100 10000,
   fieldRow 31 16 .ro 0 0 65535,
   fieldRow 15 0 .rc 0 0 65535]
/-- The field table of HLK_ROOT. -/
def hlkRoot : List FieldSpec :=
  [fieldRow 63 0 .ro 0 0 18446744073709551615]
/-- The field table of HLK_RT_STATUS. -/
def hlkRtStatus : List FieldSpec :=
  [fieldRow 63 32 .ro 0 0 4294967295,
   fieldRow 31 16 .ro 0 0 65535,
   fieldRow 15 0 .rc 0 0 65535]
/-- The field table of HLK_E2E. -/
def hlkE2e : List FieldSpec :=
  [fieldRow 63 48 .rc 0 0 65535,
   fieldRow 47 32 .rc 0 0 65535,
   fieldRow 31 16 .rc 0 0 65535,
   fieldRow 15 0 .rc 0 0 65535]
/-- The field table of HLK_E2E_CFG. -/
def hlkE2eCfg : List FieldSpec :=
  [fieldRow 15 0 .rw 200 10 65535]
/-- The field table of HLK_TIME. -/
def hlkTime : List FieldSpec :=
  [fieldRow 63 63 .ro 0 0 1,
   fieldRow 62 56 .ro 0 0 127,
   fieldRow 55 48 .ro 255 0 255,
   fieldRow 47 40 .rw 64 1 127,
   fieldRow 39 24 .ro 0 0 65535,
   fieldRow 23 0 .ro 0 0 16777215]
/-- The field table of HLK_RT_GROUP. -/
def hlkRtGroup : List FieldSpec :=
  [fieldRow 63 63 .ro 0 0 1,
   fieldRow 47 40 .ro 0 0 255,
   fieldRow 39 32 .ro 0 0 255,
   fieldRow 31 24 .ro 0 0 255,
   fieldRow 23 16 .ro 0 0 255,
   fieldRow 15 8 .ro 0 0 255,
   fieldRow 7 0 .ro 0 0 255]
/-- The field table of HLK_RT_MEMBER. -/
def hlkRtMember : List FieldSpec :=
  [fieldRow 63 63 .ro 0 0 1,
   fieldRow 47 40 .ro 0 0 255,
   fieldRow 39 32 .ro 0 0 255,
   fieldRow 31 24 .ro 0 0 255,
   fieldRow 23 16 .ro 0 0 255,
   fieldRow 15 8 .ro 0 0 255,
   fieldRow 7 0 .ro 0 0 255]
/-- The field table of HLK_BUNDLE. -/
def hlkBundle : List FieldSpec :=
  [fieldRow 63 63 .ro 0 0 1,
   fieldRow 62 58 .ro 0 0 31,
   fieldRow 57 56 .ro 0 0 3,
   fieldRow 55 55 .ro 0 0 1,
   fieldRow 46 32 .ro 0 0 32767]
/-- The field table of ETH_PORT_CFG. -/
def ethPortCfg : List FieldSpec :=
  [fieldRow 15 15 .rw 0 0 1,
   fieldRow 14 12 .rw 3 0 7,
   fieldRow 1 0 .rw 3 0 3]
/-- The field table of ETH_PORT_STATUS. -/
def ethPortStatus : List FieldSpec :=
  [fieldRow 63 63 .ro 0 0 1,
   fieldRow 62 61 .ro 0 0 3,
   fieldRow 47 32 .ro 0 0 65535,
   fieldRow 31 0 .rc 0 0 4294967295]
/-- The field table of ETH_PORT_DROPS. -/
def ethPortDrops : List FieldSpec :=
  [fieldRow 63 32 .rc 0 0 4294967295,
   fieldRow 31 0 .rc 0 0 4294967295]
/-- The field table of ETH_PORT_MAC. -/
def ethPortMac : List FieldSpec :=
  [fieldRow 47 0 .ro 0 0 281474976710655]
/-- The field table of ETH_PORT_IP4. -/
def ethPortIp4 : List FieldSpec :=
  [fieldRow 31 0 .ro 0 0 4294967295]
/-- The field table of ETH_PORT_IP6_HI. -/
def ethPortIp6Hi : List FieldSpec :=
  [fieldRow 63 0 .ro 0 0 18446744073709551615]
/-- The field table of ETH_PORT_IP6_LO. -/
def ethPortIp6Lo : List FieldSpec :=
  [fieldRow 63 0 .ro 0 0 18446744073709551615]
/-- The field table of ETH_CC. -/
def ethCc : List FieldSpec :=
  [fieldRow 63 48 .rw 40 1 65535,
   fieldRow 47 32 .rw 20 1 65535,
   fieldRow 31 16 .rw 3 1 63,
   fieldRow 15 0 .rw 100 1 65535]
/-- The field table of ETH_CC_NP. -/
def ethCcNp : List FieldSpec :=
  [fieldRow 15 0 .rw 20 1 65535]
/-- The field table of ETH_ROCE. -/
def ethRoce : List FieldSpec :=
  [fieldRow 63 48 .rc 0 0 65535,
   fieldRow 47 32 .rc 0 0 65535,
   fieldRow 31 16 .rc 0 0 65535,
   fieldRow 15 0 .rc 0 0 65535]
/-- The field table of ETH_ROCE_USE. -/
def ethRoceUse : List FieldSpec :=
  [fieldRow 31 16 .ro 0 0 65535,
   fieldRow 15 0 .ro 0 0 65535]
/-- The field table of HIF_CTRL. -/
def hifCtrl : List FieldSpec :=
  [fieldRow 1 1 .rw 0 0 1,
   fieldRow 0 0 .rw 0 0 1]
/-- The field table of HIF_STATUS. -/
def hifStatus : List FieldSpec :=
  [fieldRow 17 17 .ro 0 0 1,
   fieldRow 16 16 .ro 0 0 1,
   fieldRow 12 8 .ro 0 0 31,
   fieldRow 3 0 .ro 0 0 15]
/-- The field table of HIF_HOST_RID. -/
def hifHostRid : List FieldSpec :=
  [fieldRow 50 48 .rw 0 0 7,
   fieldRow 47 0 .rw 0 0 281474976710655]
/-- The field table of HIF_APERTURE. -/
def hifAperture : List FieldSpec :=
  [fieldRow 63 63 .ro 0 0 1,
   fieldRow 3 0 .rw 0 0 11]
/-- The field table of HIF_APERTURE_SYNC. -/
def hifApertureSync : List FieldSpec :=
  [fieldRow 31 0 .ro 0 0 4294967295]
/-- The field table of HIF_HOST_POOL. -/
def hifHostPool : List FieldSpec :=
  [fieldRow 63 63 .w1c 0 0 1,
   fieldRow 41 32 .rw 0 0 1023,
   fieldRow 9 0 .rw 0 0 1023]
/-- The field table of HIF_EVT_VEC. -/
def hifEvtVec : List FieldSpec :=
  [fieldRow 58 48 .rw 3 0 2047,
   fieldRow 42 32 .rw 2 0 2047,
   fieldRow 26 16 .rw 1 0 2047,
   fieldRow 10 0 .rw 0 0 2047]
/-- The field table of HIF_EVT_STATUS. -/
def hifEvtStatus : List FieldSpec :=
  [fieldRow 4 4 .w1c 0 0 1,
   fieldRow 3 3 .w1c 0 0 1,
   fieldRow 2 2 .w1c 0 0 1,
   fieldRow 1 1 .w1c 0 0 1,
   fieldRow 0 0 .w1c 0 0 1]
/-- The field table of HIF_DMA_FENCE. -/
def hifDmaFence : List FieldSpec :=
  [fieldRow 31 0 .ro 0 0 4294967295]
/-- The field table of HIF_DMA_BLOCKED. -/
def hifDmaBlocked : List FieldSpec :=
  [fieldRow 63 12 .ro 0 0 4503599627370495,
   fieldRow 11 0 .rc 0 0 4095]
/-- The field table of HIF_UR. -/
def hifUr : List FieldSpec :=
  [fieldRow 63 32 .rc 0 0 4294967295,
   fieldRow 31 0 .rc 0 0 4294967295]
/-- The field table of HIF_DMA_WIN_BASE. -/
def hifDmaWinBase : List FieldSpec :=
  [fieldRow 63 12 .rw 0 0 4503599627370495,
   fieldRow 1 1 .rw 0 0 1,
   fieldRow 0 0 .rw 0 0 1]
/-- The field table of HIF_DMA_WIN_LEN. -/
def hifDmaWinLen : List FieldSpec :=
  [fieldRow 63 12 .rw 0 0 4503599627370495]
/-- The field table of HIF_RING_BASE. -/
def hifRingBase : List FieldSpec :=
  [fieldRow 63 12 .rw 0 0 4503599627370495]
/-- The field table of HIF_RING_PBASE. -/
def hifRingPbase : List FieldSpec :=
  [fieldRow 63 12 .rw 0 0 4503599627370495]
/-- The field table of HIF_RING_CTRL. -/
def hifRingCtrl : List FieldSpec :=
  [fieldRow 63 63 .wo 0 0 1,
   fieldRow 62 62 .rw 0 0 1,
   fieldRow 61 61 .rw 0 0 1,
   fieldRow 52 48 .rw 4 4 16,
   fieldRow 42 32 .rw 0 0 2047,
   fieldRow 31 24 .rw 0 0 255,
   fieldRow 23 8 .rw 0 0 65535]
/-- The field table of HIF_RING_DB. -/
def hifRingDb : List FieldSpec :=
  [fieldRow 63 32 .wo 0 0 4294967295,
   fieldRow 31 0 .wo 0 0 4294967295]
/-- The field table of HIF_RING_PHEAD. -/
def hifRingPhead : List FieldSpec :=
  [fieldRow 63 32 .ro 0 0 4294967295,
   fieldRow 31 0 .rw 0 0 4294967295]
/-- The field table of HIF_RING_STATUS. -/
def hifRingStatus : List FieldSpec :=
  [fieldRow 63 61 .ro 0 0 7,
   fieldRow 48 32 .ro 0 0 131071,
   fieldRow 31 0 .ro 0 0 4294967295]
/-- The field table of HIF_RING_COUNT. -/
def hifRingCount : List FieldSpec :=
  [fieldRow 63 32 .rc 0 0 4294967295,
   fieldRow 31 16 .rc 0 0 65535,
   fieldRow 15 0 .rc 0 0 65535]
/-- The field table of INK_ENVELOPE. -/
def inkEnvelope : List FieldSpec :=
  [fieldRow 47 36 .ro 0 0 4095,
   fieldRow 35 24 .ro 0 0 4095,
   fieldRow 23 12 .ro 0 0 4095]
/-- The field table of INK_LEDGER. -/
def inkLedger : List FieldSpec :=
  [fieldRow 63 48 .ro 0 0 65535,
   fieldRow 47 32 .ro 0 0 65535,
   fieldRow 31 16 .ro 0 0 65535,
   fieldRow 15 0 .ro 0 0 65535]
/-- The field table of INK_THROTTLE. -/
def inkThrottle : List FieldSpec :=
  [fieldRow 63 63 .w1c 0 0 1,
   fieldRow 62 62 .ro 0 0 1,
   fieldRow 61 61 .ro 0 0 1,
   fieldRow 60 60 .ro 0 0 1,
   fieldRow 31 16 .rc 0 0 65535,
   fieldRow 15 0 .rc 0 0 65535]
/-- The field table of INK_EVENTS. -/
def inkEvents : List FieldSpec :=
  [fieldRow 63 48 .rc 0 0 65535,
   fieldRow 47 32 .rc 0 0 65535,
   fieldRow 31 16 .rc 0 0 65535,
   fieldRow 15 0 .rc 0 0 65535]
/-- The field table of INK_THERMAL. -/
def inkThermal : List FieldSpec :=
  [fieldRow 63 56 .ro 0 0 255,
   fieldRow 55 48 .rw 100 70 255,
   fieldRow 31 24 .ro 0 0 255,
   fieldRow 23 16 .ro 0 0 255,
   fieldRow 15 8 .ro 0 0 255,
   fieldRow 7 0 .ro 0 0 255]
/-- The field table of INK_CHASE. -/
def inkChase : List FieldSpec :=
  [fieldRow 54 48 .ro 0 0 127,
   fieldRow 47 36 .ro 0 0 4095,
   fieldRow 23 12 .ro 0 0 4095,
   fieldRow 11 0 .ro 0 0 4095]
/-- The field table of TIME_NS. -/
def timeNs : List FieldSpec :=
  [fieldRow 63 0 .ro 0 0 18446744073709551615]
/-- The field table of TIME_FRAC. -/
def timeFrac : List FieldSpec :=
  [fieldRow 15 0 .ro 0 0 65535]
/-- The field table of TIME_STATUS. -/
def timeStatus : List FieldSpec :=
  [fieldRow 63 61 .ro 0 0 7,
   fieldRow 60 60 .ro 0 0 1,
   fieldRow 59 59 .ro 0 0 1,
   fieldRow 47 32 .ro 0 0 65535,
   fieldRow 31 0 .ro 0 0 4294967295]
/-- The field table of TIME_CFG. -/
def timeCfg : List FieldSpec :=
  [fieldRow 63 63 .rw 1 0 1,
   fieldRow 59 58 .rw 1 0 2,
   fieldRow 31 0 .rw 0 0 4294967295]
/-- The field table of TIME_NEXT_SEC. -/
def timeNextSec : List FieldSpec :=
  [fieldRow 63 63 .rw 0 0 1,
   fieldRow 47 0 .rw 0 0 281474976710655]
/-- The field table of TIME_PPS_COUNT. -/
def timePpsCount : List FieldSpec :=
  [fieldRow 63 48 .rc 0 0 65535,
   fieldRow 47 32 .rc 0 0 65535,
   fieldRow 31 16 .rc 0 0 65535,
   fieldRow 15 0 .rc 0 0 65535]
/-- The field table of TIME_STEP. -/
def timeStep : List FieldSpec :=
  [fieldRow 63 48 .rc 0 0 65535,
   fieldRow 47 0 .ro 0 0 281474976710655]
/-- The field table of SEC_STATUS. -/
def secStatus : List FieldSpec :=
  [fieldRow 63 60 .ro 0 0 15,
   fieldRow 59 59 .ro 0 0 1,
   fieldRow 58 58 .ro 0 0 1,
   fieldRow 57 57 .ro 0 0 1,
   fieldRow 56 56 .ro 0 0 1,
   fieldRow 55 48 .ro 0 0 255,
   fieldRow 35 32 .ro 0 0 15,
   fieldRow 31 28 .ro 0 0 15,
   fieldRow 27 24 .ro 0 0 15,
   fieldRow 15 0 .ro 0 0 65535]
/-- The field table of SEC_MB_CTRL. -/
def secMbCtrl : List FieldSpec :=
  [fieldRow 63 63 .ro 0 0 1,
   fieldRow 55 48 .ro 0 0 255,
   fieldRow 31 16 .ro 0 0 65535,
   fieldRow 0 0 .wo 0 0 1]
/-- The field table of SEC_AUTH. -/
def secAuth : List FieldSpec :=
  [fieldRow 63 63 .ro 0 0 1,
   fieldRow 62 62 .ro 0 0 1,
   fieldRow 61 61 .ro 0 0 1,
   fieldRow 60 60 .ro 0 0 1,
   fieldRow 59 48 .ro 0 0 4095,
   fieldRow 47 32 .ro 0 0 65535,
   fieldRow 31 0 .ro 0 0 4294967295]
/-- The field table of SEC_COLOPHON. -/
def secColophon : List FieldSpec :=
  [fieldRow 63 0 .ro 0 0 18446744073709551615]
/-- The field table of SEC_COL_CKPT. -/
def secColCkpt : List FieldSpec :=
  [fieldRow 63 0 .ro 0 0 18446744073709551615]
/-- The field table of SEC_COL_EVENTS. -/
def secColEvents : List FieldSpec :=
  [fieldRow 63 32 .ro 0 0 4294967295,
   fieldRow 31 24 .rc 0 0 255,
   fieldRow 23 16 .rc 0 0 255,
   fieldRow 15 0 .rc 0 0 65535]
/-- The field table of SEC_COL_LOST. -/
def secColLost : List FieldSpec :=
  [fieldRow 31 0 .rc 0 0 4294967295]
/-- The field table of RAS_STATUS. -/
def rasStatus : List FieldSpec :=
  [fieldRow 63 63 .w1c 0 0 1,
   fieldRow 62 62 .ro 0 0 1,
   fieldRow 31 16 .rc 0 0 65535,
   fieldRow 15 0 .rc 0 0 65535]
/-- The field table of RAS_SPARES. -/
def rasSpares : List FieldSpec :=
  [fieldRow 52 48 .ro 0 0 31,
   fieldRow 47 45 .ro 0 0 7,
   fieldRow 44 39 .ro 0 0 63,
   fieldRow 31 23 .ro 0 0 511,
   fieldRow 12 0 .ro 0 0 8191]
/-- The field table of RAS_COUNTS. -/
def rasCounts : List FieldSpec :=
  [fieldRow 63 32 .rc 0 0 4294967295,
   fieldRow 31 16 .rc 0 0 65535,
   fieldRow 15 0 .rc 0 0 65535]
/-- The field table of RAS_CFG. -/
def rasCfg : List FieldSpec :=
  [fieldRow 31 16 .rw 100 10 65535,
   fieldRow 7 0 .rw 16 1 255]
/-- The field table of RAS_LOG_CTRL. -/
def rasLogCtrl : List FieldSpec :=
  [fieldRow 63 48 .rc 0 0 65535,
   fieldRow 40 32 .ro 0 0 511,
   fieldRow 31 0 .ro 0 0 4294967295]
/-- The field table of RAS_LOG. -/
def rasLog : List FieldSpec :=
  [fieldRow 63 0 .ro 0 0 18446744073709551615]
/-- The field table of SYS_BOOT. -/
def sysBoot : List FieldSpec :=
  [fieldRow 63 60 .ro 0 0 15,
   fieldRow 59 58 .ro 0 0 3,
   fieldRow 57 57 .ro 0 0 1,
   fieldRow 56 56 .ro 0 0 1,
   fieldRow 43 43 .ro 0 0 1,
   fieldRow 42 42 .ro 0 0 1,
   fieldRow 41 41 .ro 0 0 1,
   fieldRow 40 40 .ro 0 0 1,
   fieldRow 39 39 .ro 0 0 1,
   fieldRow 38 38 .ro 0 0 1,
   fieldRow 31 0 .ro 0 0 4294967295]
end Tab

/-- The field table of each register. Bits that stand in no field are reserved (R19). -/
def RegName.fields : RegName → List FieldSpec
  | .sysPartId => Tab.sysPartId
  | .sysCapacity => Tab.sysCapacity
  | .sysRegionMap => Tab.sysRegionMap
  | .sysChaseStatus => Tab.sysChaseStatus
  | .sysJoinCfg => Tab.sysJoinCfg
  | .stkNumber => Tab.stkNumber
  | .stkEpoch => Tab.stkEpoch
  | .stkPeriod => Tab.stkPeriod
  | .stkStatus => Tab.stkStatus
  | .stkSlips => Tab.stkSlips
  | .stkHolds => Tab.stkHolds
  | .rgnAriRetry => Tab.rgnAriRetry
  | .rgnAriOvf => Tab.rgnAriOvf
  | .rgnAriLast => Tab.rgnAriLast
  | .rgnArrSegs => Tab.rgnArrSegs
  | .rgnArrStore => Tab.rgnArrStore
  | .rgnArrMeta => Tab.rgnArrMeta
  | .rgnArrRecord => Tab.rgnArrRecord
  | .rgnStpSpill => Tab.rgnStpSpill
  | .rgnStpHellbox => Tab.rgnStpHellbox
  | .rgnTrc => Tab.rgnTrc
  | .rgnVecFlags => Tab.rgnVecFlags
  | .rgnVecCount => Tab.rgnVecCount
  | .galSelect => Tab.galSelect
  | .galDesc => Tab.galDesc
  | .galRows => Tab.galRows
  | .galState => Tab.galState
  | .galStateFlags => Tab.galStateFlags
  | .galBlank => Tab.galBlank
  | .galDrops => Tab.galDrops
  | .galPool => Tab.galPool
  | .galTrain => Tab.galTrain
  | .galBytes => Tab.galBytes
  | .galFaults => Tab.galFaults
  | .grfHub => Tab.grfHub
  | .grfUnsplit => Tab.grfUnsplit
  | .grfFrontier => Tab.grfFrontier
  | .grfFaults => Tab.grfFaults
  | .grfLast => Tab.grfLast
  | .grfLastVertex => Tab.grfLastVertex
  | .impCtrl => Tab.impCtrl
  | .impGuest => Tab.impGuest
  | .impMoves => Tab.impMoves
  | .impSpent => Tab.impSpent
  | .impEvents => Tab.impEvents
  | .impQuery => Tab.impQuery
  | .impQueryKey => Tab.impQueryKey
  | .impQueryResult => Tab.impQueryResult
  | .impTier => Tab.impTier
  | .hbmStatus => Tab.hbmStatus
  | .hbmPcOffline => Tab.hbmPcOffline
  | .hbmErrors => Tab.hbmErrors
  | .hbmRepair => Tab.hbmRepair
  | .hbmLast => Tab.hbmLast
  | .hbmScrub => Tab.hbmScrub
  | .hbmMaint => Tab.hbmMaint
  | .hbmMaintResult => Tab.hbmMaintResult
  | .rcWays => Tab.rcWays
  | .rcMb => Tab.rcMb
  | .rcRangeBase => Tab.rcRangeBase
  | .rcRangeLen => Tab.rcRangeLen
  | .rcRangeCtrl => Tab.rcRangeCtrl
  | .rcStats => Tab.rcStats
  | .rcAtomics => Tab.rcAtomics
  | .rcErrors => Tab.rcErrors
  | .mrkCount => Tab.mrkCount
  | .mrkState => Tab.mrkState
  | .mrkCtx => Tab.mrkCtx
  | .mrkRealign => Tab.mrkRealign
  | .mrkFault => Tab.mrkFault
  | .mrkEvents => Tab.mrkEvents
  | .mrkSignal => Tab.mrkSignal
  | .mrkHostStatus => Tab.mrkHostStatus
  | .mrkDlCfg => Tab.mrkDlCfg
  | .mrkDlStatus => Tab.mrkDlStatus
  | .mrkDlSnap => Tab.mrkDlSnap
  | .mrkXlate => Tab.mrkXlate
  | .dbgMarkSet => Tab.dbgMarkSet
  | .dbgMarkStatus => Tab.dbgMarkStatus
  | .hlkLinkStatus => Tab.hlkLinkStatus
  | .hlkLinkPeer => Tab.hlkLinkPeer
  | .hlkLinkErr => Tab.hlkLinkErr
  | .hlkLinkTt => Tab.hlkLinkTt
  | .hlkNode => Tab.hlkNode
  | .hlkSerial => Tab.hlkSerial
  | .hlkFabric => Tab.hlkFabric
  | .hlkDisc => Tab.hlkDisc
  | .hlkRoot => Tab.hlkRoot
  | .hlkRtStatus => Tab.hlkRtStatus
  | .hlkE2e => Tab.hlkE2e
  | .hlkE2eCfg => Tab.hlkE2eCfg
  | .hlkTime => Tab.hlkTime
  | .hlkRtGroup => Tab.hlkRtGroup
  | .hlkRtMember => Tab.hlkRtMember
  | .hlkBundle => Tab.hlkBundle
  | .ethPortCfg => Tab.ethPortCfg
  | .ethPortStatus => Tab.ethPortStatus
  | .ethPortDrops => Tab.ethPortDrops
  | .ethPortMac => Tab.ethPortMac
  | .ethPortIp4 => Tab.ethPortIp4
  | .ethPortIp6Hi => Tab.ethPortIp6Hi
  | .ethPortIp6Lo => Tab.ethPortIp6Lo
  | .ethCc => Tab.ethCc
  | .ethCcNp => Tab.ethCcNp
  | .ethRoce => Tab.ethRoce
  | .ethRoceUse => Tab.ethRoceUse
  | .hifCtrl => Tab.hifCtrl
  | .hifStatus => Tab.hifStatus
  | .hifHostRid => Tab.hifHostRid
  | .hifAperture => Tab.hifAperture
  | .hifApertureSync => Tab.hifApertureSync
  | .hifHostPool => Tab.hifHostPool
  | .hifEvtVec => Tab.hifEvtVec
  | .hifEvtStatus => Tab.hifEvtStatus
  | .hifDmaFence => Tab.hifDmaFence
  | .hifDmaBlocked => Tab.hifDmaBlocked
  | .hifUr => Tab.hifUr
  | .hifDmaWinBase => Tab.hifDmaWinBase
  | .hifDmaWinLen => Tab.hifDmaWinLen
  | .hifRingBase => Tab.hifRingBase
  | .hifRingPbase => Tab.hifRingPbase
  | .hifRingCtrl => Tab.hifRingCtrl
  | .hifRingDb => Tab.hifRingDb
  | .hifRingPhead => Tab.hifRingPhead
  | .hifRingStatus => Tab.hifRingStatus
  | .hifRingCount => Tab.hifRingCount
  | .inkEnvelope => Tab.inkEnvelope
  | .inkLedger => Tab.inkLedger
  | .inkThrottle => Tab.inkThrottle
  | .inkEvents => Tab.inkEvents
  | .inkThermal => Tab.inkThermal
  | .inkChase => Tab.inkChase
  | .timeNs => Tab.timeNs
  | .timeFrac => Tab.timeFrac
  | .timeStatus => Tab.timeStatus
  | .timeCfg => Tab.timeCfg
  | .timeNextSec => Tab.timeNextSec
  | .timePpsCount => Tab.timePpsCount
  | .timeStep => Tab.timeStep
  | .secStatus => Tab.secStatus
  | .secMbCtrl => Tab.secMbCtrl
  | .secAuth => Tab.secAuth
  | .secColophon => Tab.secColophon
  | .secColCkpt => Tab.secColCkpt
  | .secColEvents => Tab.secColEvents
  | .secColLost => Tab.secColLost
  | .rasStatus => Tab.rasStatus
  | .rasSpares => Tab.rasSpares
  | .rasCounts => Tab.rasCounts
  | .rasCfg => Tab.rasCfg
  | .rasLogCtrl => Tab.rasLogCtrl
  | .rasLog => Tab.rasLog
  | .sysBoot => Tab.sysBoot

/-- Every register name, in the order of the chapters. -/
def RegName.all : List RegName :=
  ([.sysPartId, .sysCapacity, .sysRegionMap, .sysChaseStatus, .sysJoinCfg, .stkNumber, .stkEpoch, .stkPeriod] : List RegName) ++
  ([.stkStatus, .stkSlips, .stkHolds, .rgnAriRetry, .rgnAriOvf, .rgnAriLast, .rgnArrSegs, .rgnArrStore] : List RegName) ++
  ([.rgnArrMeta, .rgnArrRecord, .rgnStpSpill, .rgnStpHellbox, .rgnTrc, .rgnVecFlags, .rgnVecCount, .galSelect] : List RegName) ++
  ([.galDesc, .galRows, .galState, .galStateFlags, .galBlank, .galDrops, .galPool, .galTrain] : List RegName) ++
  ([.galBytes, .galFaults, .grfHub, .grfUnsplit, .grfFrontier, .grfFaults, .grfLast, .grfLastVertex] : List RegName) ++
  ([.impCtrl, .impGuest, .impMoves, .impSpent, .impEvents, .impQuery, .impQueryKey, .impQueryResult] : List RegName) ++
  ([.impTier, .hbmStatus, .hbmPcOffline, .hbmErrors, .hbmRepair, .hbmLast, .hbmScrub, .hbmMaint] : List RegName) ++
  ([.hbmMaintResult, .rcWays, .rcMb, .rcRangeBase, .rcRangeLen, .rcRangeCtrl, .rcStats, .rcAtomics] : List RegName) ++
  ([.rcErrors, .mrkCount, .mrkState, .mrkCtx, .mrkRealign, .mrkFault, .mrkEvents, .mrkSignal] : List RegName) ++
  ([.mrkHostStatus, .mrkDlCfg, .mrkDlStatus, .mrkDlSnap, .mrkXlate, .dbgMarkSet, .dbgMarkStatus, .hlkLinkStatus] : List RegName) ++
  ([.hlkLinkPeer, .hlkLinkErr, .hlkLinkTt, .hlkNode, .hlkSerial, .hlkFabric, .hlkDisc, .hlkRoot] : List RegName) ++
  ([.hlkRtStatus, .hlkE2e, .hlkE2eCfg, .hlkTime, .hlkRtGroup, .hlkRtMember, .hlkBundle, .ethPortCfg] : List RegName) ++
  ([.ethPortStatus, .ethPortDrops, .ethPortMac, .ethPortIp4, .ethPortIp6Hi, .ethPortIp6Lo, .ethCc, .ethCcNp] : List RegName) ++
  ([.ethRoce, .ethRoceUse, .hifCtrl, .hifStatus, .hifHostRid, .hifAperture, .hifApertureSync, .hifHostPool] : List RegName) ++
  ([.hifEvtVec, .hifEvtStatus, .hifDmaFence, .hifDmaBlocked, .hifUr, .hifDmaWinBase, .hifDmaWinLen, .hifRingBase] : List RegName) ++
  ([.hifRingPbase, .hifRingCtrl, .hifRingDb, .hifRingPhead, .hifRingStatus, .hifRingCount, .inkEnvelope, .inkLedger] : List RegName) ++
  ([.inkThrottle, .inkEvents, .inkThermal, .inkChase, .timeNs, .timeFrac, .timeStatus, .timeCfg] : List RegName) ++
  ([.timeNextSec, .timePpsCount, .timeStep, .secStatus, .secMbCtrl, .secAuth, .secColophon, .secColCkpt] : List RegName) ++
  ([.secColEvents, .secColLost, .rasStatus, .rasSpares, .rasCounts, .rasCfg, .rasLogCtrl, .rasLog] : List RegName) ++
  ([.sysBoot] : List RegName)

/-- A named field: its register and its bits. -/
structure Field where
  reg : RegName
  hi : Nat
  lo : Nat
  deriving DecidableEq, Repr

namespace Fld
/-- SYS_VARIANT [19:16] of SYS_PART_ID. -/
def sysVariant : Field := ⟨.sysPartId, 19, 16⟩
/-- SYS_PART [15:0] of SYS_PART_ID. -/
def sysPart : Field := ⟨.sysPartId, 15, 0⟩
/-- SYS_DEGRADED [63:63] of SYS_CAPACITY. -/
def sysDegraded : Field := ⟨.sysCapacity, 63, 63⟩
/-- SYS_ACTIVE_STACKS [51:48] of SYS_CAPACITY. -/
def sysActiveStacks : Field := ⟨.sysCapacity, 51, 48⟩
/-- SYS_ACTIVE_CELLS [44:32] of SYS_CAPACITY. -/
def sysActiveCells : Field := ⟨.sysCapacity, 44, 32⟩
/-- SYS_ACTIVE_BLOCKS [24:16] of SYS_CAPACITY. -/
def sysActiveBlocks : Field := ⟨.sysCapacity, 24, 16⟩
/-- SYS_ACTIVE_REGIONS [4:0] of SYS_CAPACITY. -/
def sysActiveRegions : Field := ⟨.sysCapacity, 4, 0⟩
/-- SYS_CHASE_REGIONS [63:48] of SYS_CHASE_STATUS. -/
def sysChaseRegions : Field := ⟨.sysChaseStatus, 63, 48⟩
/-- SYS_CHASE_ERR_SECTION [39:32] of SYS_CHASE_STATUS. -/
def sysChaseErrSection : Field := ⟨.sysChaseStatus, 39, 32⟩
/-- SYS_CHASE_ERR_CODE [31:24] of SYS_CHASE_STATUS. -/
def sysChaseErrCode : Field := ⟨.sysChaseStatus, 31, 24⟩
/-- SYS_CHASE_STATE [3:0] of SYS_CHASE_STATUS. -/
def sysChaseState : Field := ⟨.sysChaseStatus, 3, 0⟩
/-- SYS_JOIN_TIMEOUT_MS [19:0] of SYS_JOIN_CFG. -/
def sysJoinTimeoutMs : Field := ⟨.sysJoinCfg, 19, 0⟩
/-- STK_NUMBER [63:0] of STK_NUMBER. -/
def stkNumber : Field := ⟨.stkNumber, 63, 0⟩
/-- STK_EPOCH [63:0] of STK_EPOCH. -/
def stkEpoch : Field := ⟨.stkEpoch, 63, 0⟩
/-- STK_DIST_PM [53:44] of STK_PERIOD. -/
def stkDistPm : Field := ⟨.stkPeriod, 53, 44⟩
/-- STK_HOLD_PM [43:34] of STK_PERIOD. -/
def stkHoldPm : Field := ⟨.stkPeriod, 43, 34⟩
/-- STK_LOCKUP_PM [33:24] of STK_PERIOD. -/
def stkLockupPm : Field := ⟨.stkPeriod, 33, 24⟩
/-- STK_PERIOD_NS [23:0] of STK_PERIOD. -/
def stkPeriodNs : Field := ⟨.stkPeriod, 23, 0⟩
/-- STK_ANNOUNCE [55:40] of STK_STATUS. -/
def stkAnnounce : Field := ⟨.stkStatus, 55, 40⟩
/-- STK_FAULT [39:32] of STK_STATUS. -/
def stkFault : Field := ⟨.stkStatus, 39, 32⟩
/-- STK_PLATE [31:16] of STK_STATUS. -/
def stkPlate : Field := ⟨.stkStatus, 31, 16⟩
/-- STK_CONSEC_SLIPS [9:8] of STK_STATUS. -/
def stkConsecSlips : Field := ⟨.stkStatus, 9, 8⟩
/-- STK_PARKED [4:4] of STK_STATUS. -/
def stkParked : Field := ⟨.stkStatus, 4, 4⟩
/-- STK_SLIPPING [3:3] of STK_STATUS. -/
def stkSlipping : Field := ⟨.stkStatus, 3, 3⟩
/-- STK_HELD [2:2] of STK_STATUS. -/
def stkHeld : Field := ⟨.stkStatus, 2, 2⟩
/-- STK_PHASE [1:0] of STK_STATUS. -/
def stkPhase : Field := ⟨.stkStatus, 1, 0⟩
/-- STK_SLIP_STEP [63:32] of STK_SLIPS. -/
def stkSlipStep : Field := ⟨.stkSlips, 63, 32⟩
/-- STK_SLIP_TOTAL [31:0] of STK_SLIPS. -/
def stkSlipTotal : Field := ⟨.stkSlips, 31, 0⟩
/-- STK_LATE_RUN [63:32] of STK_HOLDS. -/
def stkLateRun : Field := ⟨.stkHolds, 63, 32⟩
/-- STK_HOLD_TOTAL [31:0] of STK_HOLDS. -/
def stkHoldTotal : Field := ⟨.stkHolds, 31, 0⟩
/-- RGN_ARI_MAX_RAISE [55:48] of RGN_ARI_RETRY. -/
def rgnAriMaxRaise : Field := ⟨.rgnAriRetry, 55, 48⟩
/-- RGN_ARI_RETRIES [47:0] of RGN_ARI_RETRY. -/
def rgnAriRetries : Field := ⟨.rgnAriRetry, 47, 0⟩
/-- RGN_ARI_SAT_ELEMS [63:32] of RGN_ARI_OVF. -/
def rgnAriSatElems : Field := ⟨.rgnAriOvf, 63, 32⟩
/-- RGN_ARI_FAULT_TILES [31:0] of RGN_ARI_OVF. -/
def rgnAriFaultTiles : Field := ⟨.rgnAriOvf, 31, 0⟩
/-- RGN_ARI_LAST_CODE [63:56] of RGN_ARI_LAST. -/
def rgnAriLastCode : Field := ⟨.rgnAriLast, 63, 56⟩
/-- RGN_ARI_LAST_EO [55:48] of RGN_ARI_LAST. -/
def rgnAriLastEo : Field := ⟨.rgnAriLast, 55, 48⟩
/-- RGN_ARI_LAST_EO_REQ [47:40] of RGN_ARI_LAST. -/
def rgnAriLastEoReq : Field := ⟨.rgnAriLast, 47, 40⟩
/-- RGN_ARI_LAST_SLOT [39:36] of RGN_ARI_LAST. -/
def rgnAriLastSlot : Field := ⟨.rgnAriLast, 39, 36⟩
/-- RGN_ARI_LAST_FORMAT [34:32] of RGN_ARI_LAST. -/
def rgnAriLastFormat : Field := ⟨.rgnAriLast, 34, 32⟩
/-- RGN_ARI_LAST_PLATE [31:16] of RGN_ARI_LAST. -/
def rgnAriLastPlate : Field := ⟨.rgnAriLast, 31, 16⟩
/-- RGN_ARR_SPARSE_SEGS [63:32] of RGN_ARR_SEGS. -/
def rgnArrSparseSegs : Field := ⟨.rgnArrSegs, 63, 32⟩
/-- RGN_ARR_DENSE_SEGS [31:0] of RGN_ARR_SEGS. -/
def rgnArrDenseSegs : Field := ⟨.rgnArrSegs, 31, 0⟩
/-- RGN_ARR_NM_OVERFULL [63:32] of RGN_ARR_STORE. -/
def rgnArrNmOverfull : Field := ⟨.rgnArrStore, 63, 32⟩
/-- RGN_ARR_MASK_DROPS [31:0] of RGN_ARR_STORE. -/
def rgnArrMaskDrops : Field := ⟨.rgnArrStore, 31, 0⟩
/-- RGN_ARR_LAST_META_CODE [63:56] of RGN_ARR_META. -/
def rgnArrLastMetaCode : Field := ⟨.rgnArrMeta, 63, 56⟩
/-- RGN_ARR_LAST_META_SLOT [55:52] of RGN_ARR_META. -/
def rgnArrLastMetaSlot : Field := ⟨.rgnArrMeta, 55, 52⟩
/-- RGN_ARR_LAST_META_PLATE [47:32] of RGN_ARR_META. -/
def rgnArrLastMetaPlate : Field := ⟨.rgnArrMeta, 47, 32⟩
/-- RGN_ARR_META_FAULTS [31:0] of RGN_ARR_META. -/
def rgnArrMetaFaults : Field := ⟨.rgnArrMeta, 31, 0⟩
/-- RGN_ARR_LAST_REC_SLOT [51:48] of RGN_ARR_RECORD. -/
def rgnArrLastRecSlot : Field := ⟨.rgnArrRecord, 51, 48⟩
/-- RGN_ARR_LAST_REC_PLATE [47:32] of RGN_ARR_RECORD. -/
def rgnArrLastRecPlate : Field := ⟨.rgnArrRecord, 47, 32⟩
/-- RGN_ARR_RECORD_FAULTS [31:0] of RGN_ARR_RECORD. -/
def rgnArrRecordFaults : Field := ⟨.rgnArrRecord, 31, 0⟩
/-- RGN_STP_SPILL_WIDE [63:32] of RGN_STP_SPILL. -/
def rgnStpSpillWide : Field := ⟨.rgnStpSpill, 63, 32⟩
/-- RGN_STP_SPILL_FULL [31:0] of RGN_STP_SPILL. -/
def rgnStpSpillFull : Field := ⟨.rgnStpSpill, 31, 0⟩
/-- RGN_STP_COMPACTIONS [63:48] of RGN_STP_HELLBOX. -/
def rgnStpCompactions : Field := ⟨.rgnStpHellbox, 63, 48⟩
/-- RGN_STP_HB_FULL [47:32] of RGN_STP_HELLBOX. -/
def rgnStpHbFull : Field := ⟨.rgnStpHellbox, 47, 32⟩
/-- RGN_STP_HB_PEAK [31:0] of RGN_STP_HELLBOX. -/
def rgnStpHbPeak : Field := ⟨.rgnStpHellbox, 31, 0⟩
/-- RGN_TRC_PLATES [63:32] of RGN_TRC. -/
def rgnTrcPlates : Field := ⟨.rgnTrc, 63, 32⟩
/-- RGN_TRC_SKIPPED [31:0] of RGN_TRC. -/
def rgnTrcSkipped : Field := ⟨.rgnTrc, 31, 0⟩
/-- RGN_VEC_LAST_SLOT [51:48] of RGN_VEC_FLAGS. -/
def rgnVecLastSlot : Field := ⟨.rgnVecFlags, 51, 48⟩
/-- RGN_VEC_LAST_PLATE [47:32] of RGN_VEC_FLAGS. -/
def rgnVecLastPlate : Field := ⟨.rgnVecFlags, 47, 32⟩
/-- RGN_VEC_DIV0 [3:3] of RGN_VEC_FLAGS. -/
def rgnVecDiv0 : Field := ⟨.rgnVecFlags, 3, 3⟩
/-- RGN_VEC_SAT [2:2] of RGN_VEC_FLAGS. -/
def rgnVecSat : Field := ⟨.rgnVecFlags, 2, 2⟩
/-- RGN_VEC_OVF [1:1] of RGN_VEC_FLAGS. -/
def rgnVecOvf : Field := ⟨.rgnVecFlags, 1, 1⟩
/-- RGN_VEC_PERM_RANGE [0:0] of RGN_VEC_FLAGS. -/
def rgnVecPermRange : Field := ⟨.rgnVecFlags, 0, 0⟩
/-- RGN_VEC_RECORD_FAULTS [63:48] of RGN_VEC_COUNT. -/
def rgnVecRecordFaults : Field := ⟨.rgnVecCount, 63, 48⟩
/-- RGN_VEC_TRAPS [47:32] of RGN_VEC_COUNT. -/
def rgnVecTraps : Field := ⟨.rgnVecCount, 47, 32⟩
/-- RGN_VEC_SAT_ELEMS [31:0] of RGN_VEC_COUNT. -/
def rgnVecSatElems : Field := ⟨.rgnVecCount, 31, 0⟩
/-- GAL_SEL_SLOT [13:10] of GAL_SELECT. -/
def galSelSlot : Field := ⟨.galSelect, 13, 10⟩
/-- GAL_SEL_GALLEY [9:0] of GAL_SELECT. -/
def galSelGalley : Field := ⟨.galSelect, 9, 0⟩
/-- GAL_VALID [63:63] of GAL_DESC. -/
def galValid : Field := ⟨.galDesc, 63, 63⟩
/-- GAL_SHARDED [62:62] of GAL_DESC. -/
def galSharded : Field := ⟨.galDesc, 62, 62⟩
/-- GAL_TRAINABLE [61:61] of GAL_DESC. -/
def galTrainable : Field := ⟨.galDesc, 61, 61⟩
/-- GAL_TYPE [57:56] of GAL_DESC. -/
def galType : Field := ⟨.galDesc, 57, 56⟩
/-- GAL_EM [55:48] of GAL_DESC. -/
def galEm : Field := ⟨.galDesc, 55, 48⟩
/-- GAL_ELEMENTS [42:32] of GAL_DESC. -/
def galElements : Field := ⟨.galDesc, 42, 32⟩
/-- GAL_GD_ID [31:0] of GAL_DESC. -/
def galGdId : Field := ⟨.galDesc, 31, 0⟩
/-- GAL_LOCAL_ROWS [39:0] of GAL_ROWS. -/
def galLocalRows : Field := ⟨.galRows, 39, 0⟩
/-- GAL_SERVING [63:32] of GAL_STATE. -/
def galServing : Field := ⟨.galState, 63, 32⟩
/-- GAL_INCOMING [31:0] of GAL_STATE. -/
def galIncoming : Field := ⟨.galState, 31, 0⟩
/-- GAL_SWITCH_PENDING [7:7] of GAL_STATE_FLAGS. -/
def galSwitchPending : Field := ⟨.galStateFlags, 7, 7⟩
/-- GAL_INC_SEALED [6:6] of GAL_STATE_FLAGS. -/
def galIncSealed : Field := ⟨.galStateFlags, 6, 6⟩
/-- GAL_DRAINING [5:4] of GAL_STATE_FLAGS. -/
def galDraining : Field := ⟨.galStateFlags, 5, 4⟩
/-- GAL_BLANK_MISSING [63:32] of GAL_BLANK. -/
def galBlankMissing : Field := ⟨.galBlank, 63, 32⟩
/-- GAL_BLANK_INVALID [31:0] of GAL_BLANK. -/
def galBlankInvalid : Field := ⟨.galBlank, 31, 0⟩
/-- GAL_QUEUE_DROPS [63:48] of GAL_DROPS. -/
def galQueueDrops : Field := ⟨.galDrops, 63, 48⟩
/-- GAL_POISON_DROPS [47:32] of GAL_DROPS. -/
def galPoisonDrops : Field := ⟨.galDrops, 47, 32⟩
/-- GAL_BLANK_GRADS [31:0] of GAL_DROPS. -/
def galBlankGrads : Field := ⟨.galDrops, 31, 0⟩
/-- GAL_REFETCH [63:32] of GAL_POOL. -/
def galRefetch : Field := ⟨.galPool, 63, 32⟩
/-- GAL_UNPOOLED [31:0] of GAL_POOL. -/
def galUnpooled : Field := ⟨.galPool, 31, 0⟩
/-- GAL_SCATTER_ROUNDED [63:32] of GAL_TRAIN. -/
def galScatterRounded : Field := ⟨.galTrain, 63, 32⟩
/-- GAL_PUBLISH_SAT [31:16] of GAL_TRAIN. -/
def galPublishSat : Field := ⟨.galTrain, 31, 16⟩
/-- GAL_MASTER_WRAP [15:0] of GAL_TRAIN. -/
def galMasterWrap : Field := ⟨.galTrain, 15, 0⟩
/-- GAL_STORED_BYTES [47:0] of GAL_BYTES. -/
def galStoredBytes : Field := ⟨.galBytes, 47, 0⟩
/-- GAL_BAG_FAULTS [63:32] of GAL_FAULTS. -/
def galBagFaults : Field := ⟨.galFaults, 63, 32⟩
/-- GAL_GRAD_FAULTS [31:0] of GAL_FAULTS. -/
def galGradFaults : Field := ⟨.galFaults, 31, 0⟩
/-- GRF_HUB_PLANS [47:32] of GRF_HUB. -/
def grfHubPlans : Field := ⟨.grfHub, 47, 32⟩
/-- GRF_HUB_ROWS [31:0] of GRF_HUB. -/
def grfHubRows : Field := ⟨.grfHub, 31, 0⟩
/-- GRF_UNSPLIT_ROWS [31:0] of GRF_UNSPLIT. -/
def grfUnsplitRows : Field := ⟨.grfUnsplit, 31, 0⟩
/-- GRF_FR_LISTS [63:32] of GRF_FRONTIER. -/
def grfFrLists : Field := ⟨.grfFrontier, 63, 32⟩
/-- GRF_FR_BITMAPS [31:0] of GRF_FRONTIER. -/
def grfFrBitmaps : Field := ⟨.grfFrontier, 31, 0⟩
/-- GRF_ROW_FAULTS [63:32] of GRF_FAULTS. -/
def grfRowFaults : Field := ⟨.grfFaults, 63, 32⟩
/-- GRF_RECORD_FAULTS [31:0] of GRF_FAULTS. -/
def grfRecordFaults : Field := ⟨.grfFaults, 31, 0⟩
/-- GRF_LAST_CODE [63:56] of GRF_LAST. -/
def grfLastCode : Field := ⟨.grfLast, 63, 56⟩
/-- GRF_LAST_SLOT [55:52] of GRF_LAST. -/
def grfLastSlot : Field := ⟨.grfLast, 55, 52⟩
/-- GRF_LAST_PLATE [47:32] of GRF_LAST. -/
def grfLastPlate : Field := ⟨.grfLast, 47, 32⟩
/-- GRF_LAST_VERTEX [39:0] of GRF_LAST_VERTEX. -/
def grfLastVertex : Field := ⟨.grfLastVertex, 39, 0⟩
/-- IMP_FREEZE [40:40] of IMP_CTRL. -/
def impFreeze : Field := ⟨.impCtrl, 40, 40⟩
/-- IMP_HYST [39:36] of IMP_CTRL. -/
def impHyst : Field := ⟨.impCtrl, 39, 36⟩
/-- IMP_HALF_LOG [35:32] of IMP_CTRL. -/
def impHalfLog : Field := ⟨.impCtrl, 35, 32⟩
/-- IMP_PROMOTE [31:16] of IMP_CTRL. -/
def impPromote : Field := ⟨.impCtrl, 31, 16⟩
/-- IMP_BUDGET_PM [9:0] of IMP_CTRL. -/
def impBudgetPm : Field := ⟨.impCtrl, 9, 0⟩
/-- IMP_GUEST_GRANTED [47:32] of IMP_GUEST. -/
def impGuestGranted : Field := ⟨.impGuest, 47, 32⟩
/-- IMP_GUEST_MIB [15:0] of IMP_GUEST. -/
def impGuestMib : Field := ⟨.impGuest, 15, 0⟩
/-- IMP_ABANDONED [63:32] of IMP_MOVES. -/
def impAbandoned : Field := ⟨.impMoves, 63, 32⟩
/-- IMP_MIGRATIONS [31:0] of IMP_MOVES. -/
def impMigrations : Field := ⟨.impMoves, 31, 0⟩
/-- IMP_SPENT_BYTES [39:0] of IMP_SPENT. -/
def impSpentBytes : Field := ⟨.impSpent, 39, 0⟩
/-- IMP_PIN_SHORT [63:48] of IMP_EVENTS. -/
def impPinShort : Field := ⟨.impEvents, 63, 48⟩
/-- IMP_POISONED_FRAMES [47:32] of IMP_EVENTS. -/
def impPoisonedFrames : Field := ⟨.impEvents, 47, 32⟩
/-- IMP_NO_FRAME [31:0] of IMP_EVENTS. -/
def impNoFrame : Field := ⟨.impEvents, 31, 0⟩
/-- IMP_Q_SLOT [19:16] of IMP_QUERY. -/
def impQSlot : Field := ⟨.impQuery, 19, 16⟩
/-- IMP_Q_KIND [15:15] of IMP_QUERY. -/
def impQKind : Field := ⟨.impQuery, 15, 15⟩
/-- IMP_Q_GALLEY [9:0] of IMP_QUERY. -/
def impQGalley : Field := ⟨.impQuery, 9, 0⟩
/-- IMP_Q_KEY [63:0] of IMP_QUERY_KEY. -/
def impQKey : Field := ⟨.impQueryKey, 63, 0⟩
/-- IMP_R_BUSY [63:63] of IMP_QUERY_RESULT. -/
def impRBusy : Field := ⟨.impQueryResult, 63, 63⟩
/-- IMP_R_VALID [62:62] of IMP_QUERY_RESULT. -/
def impRValid : Field := ⟨.impQueryResult, 62, 62⟩
/-- IMP_R_PINNED [61:61] of IMP_QUERY_RESULT. -/
def impRPinned : Field := ⟨.impQueryResult, 61, 61⟩
/-- IMP_R_POISON [60:60] of IMP_QUERY_RESULT. -/
def impRPoison : Field := ⟨.impQueryResult, 60, 60⟩
/-- IMP_R_TIER [59:56] of IMP_QUERY_RESULT. -/
def impRTier : Field := ⟨.impQueryResult, 59, 56⟩
/-- IMP_R_REGION [55:52] of IMP_QUERY_RESULT. -/
def impRRegion : Field := ⟨.impQueryResult, 55, 52⟩
/-- IMP_R_BLOCK [51:48] of IMP_QUERY_RESULT. -/
def impRBlock : Field := ⟨.impQueryResult, 51, 48⟩
/-- IMP_R_CELL [47:44] of IMP_QUERY_RESULT. -/
def impRCell : Field := ⟨.impQueryResult, 47, 44⟩
/-- IMP_R_STACK [43:40] of IMP_QUERY_RESULT. -/
def impRStack : Field := ⟨.impQueryResult, 43, 40⟩
/-- IMP_R_COPIES [39:36] of IMP_QUERY_RESULT. -/
def impRCopies : Field := ⟨.impQueryResult, 39, 36⟩
/-- IMP_R_HEAT [31:16] of IMP_QUERY_RESULT. -/
def impRHeat : Field := ⟨.impQueryResult, 31, 16⟩
/-- IMP_R_STATE [15:0] of IMP_QUERY_RESULT. -/
def impRState : Field := ⟨.impQueryResult, 15, 0⟩
/-- IMP_TIER_CAP [63:32] of IMP_TIER. -/
def impTierCap : Field := ⟨.impTier, 63, 32⟩
/-- IMP_TIER_USED [31:0] of IMP_TIER. -/
def impTierUsed : Field := ⟨.impTier, 31, 0⟩
/-- HBM_STATE [63:62] of HBM_STATUS. -/
def hbmState : Field := ⟨.hbmStatus, 63, 62⟩
/-- HBM_PC_OFF_COUNT [61:55] of HBM_STATUS. -/
def hbmPcOffCount : Field := ⟨.hbmStatus, 61, 55⟩
/-- HBM_THROTTLE [54:52] of HBM_STATUS. -/
def hbmThrottle : Field := ⟨.hbmStatus, 54, 52⟩
/-- HBM_REFRESH_2X [51:51] of HBM_STATUS. -/
def hbmRefresh2x : Field := ⟨.hbmStatus, 51, 51⟩
/-- HBM_MIN_SPARES [43:32] of HBM_STATUS. -/
def hbmMinSpares : Field := ⟨.hbmStatus, 43, 32⟩
/-- HBM_RETIRED [31:8] of HBM_STATUS. -/
def hbmRetired : Field := ⟨.hbmStatus, 31, 8⟩
/-- HBM_TEMP [7:0] of HBM_STATUS. -/
def hbmTemp : Field := ⟨.hbmStatus, 7, 0⟩
/-- HBM_PC_OFF [63:0] of HBM_PC_OFFLINE. -/
def hbmPcOff : Field := ⟨.hbmPcOffline, 63, 0⟩
/-- HBM_RETRIES [63:40] of HBM_ERRORS. -/
def hbmRetries : Field := ⟨.hbmErrors, 63, 40⟩
/-- HBM_RETRAINS [39:32] of HBM_ERRORS. -/
def hbmRetrains : Field := ⟨.hbmErrors, 39, 32⟩
/-- HBM_UE [31:16] of HBM_ERRORS. -/
def hbmUe : Field := ⟨.hbmErrors, 31, 16⟩
/-- HBM_CE [15:0] of HBM_ERRORS. -/
def hbmCe : Field := ⟨.hbmErrors, 15, 0⟩
/-- HBM_SPARE_BAD [31:16] of HBM_REPAIR. -/
def hbmSpareBad : Field := ⟨.hbmRepair, 31, 16⟩
/-- HBM_REPAIRS [15:0] of HBM_REPAIR. -/
def hbmRepairs : Field := ⟨.hbmRepair, 15, 0⟩
/-- HBM_LAST_KIND [63:60] of HBM_LAST. -/
def hbmLastKind : Field := ⟨.hbmLast, 63, 60⟩
/-- HBM_LAST_PC [59:54] of HBM_LAST. -/
def hbmLastPc : Field := ⟨.hbmLast, 59, 54⟩
/-- HBM_LAST_BANK [53:49] of HBM_LAST. -/
def hbmLastBank : Field := ⟨.hbmLast, 53, 49⟩
/-- HBM_LAST_ROW [48:34] of HBM_LAST. -/
def hbmLastRow : Field := ⟨.hbmLast, 48, 34⟩
/-- HBM_LAST_LINE [33:0] of HBM_LAST. -/
def hbmLastLine : Field := ⟨.hbmLast, 33, 0⟩
/-- HBM_SCRUB_POS [39:16] of HBM_SCRUB. -/
def hbmScrubPos : Field := ⟨.hbmScrub, 39, 16⟩
/-- HBM_SCRUB_HOURS [7:0] of HBM_SCRUB. -/
def hbmScrubHours : Field := ⟨.hbmScrub, 7, 0⟩
/-- HBM_MT_OP [34:32] of HBM_MAINT. -/
def hbmMtOp : Field := ⟨.hbmMaint, 34, 32⟩
/-- HBM_MT_PC [31:26] of HBM_MAINT. -/
def hbmMtPc : Field := ⟨.hbmMaint, 31, 26⟩
/-- HBM_MT_BANK [25:21] of HBM_MAINT. -/
def hbmMtBank : Field := ⟨.hbmMaint, 25, 21⟩
/-- HBM_MT_ROW [20:6] of HBM_MAINT. -/
def hbmMtRow : Field := ⟨.hbmMaint, 20, 6⟩
/-- HBM_MT_BUSY [63:63] of HBM_MAINT_RESULT. -/
def hbmMtBusy : Field := ⟨.hbmMaintResult, 63, 63⟩
/-- HBM_MT_STATUS [62:60] of HBM_MAINT_RESULT. -/
def hbmMtStatus : Field := ⟨.hbmMaintResult, 62, 60⟩
/-- HBM_MT_BAD [15:8] of HBM_MAINT_RESULT. -/
def hbmMtBad : Field := ⟨.hbmMaintResult, 15, 8⟩
/-- HBM_MT_USED [7:0] of HBM_MAINT_RESULT. -/
def hbmMtUsed : Field := ⟨.hbmMaintResult, 7, 0⟩
/-- RC_WAYS_REFUSED [41:41] of RC_WAYS. -/
def rcWaysRefused : Field := ⟨.rcWays, 41, 41⟩
/-- RC_WAYS_PENDING [40:40] of RC_WAYS. -/
def rcWaysPending : Field := ⟨.rcWays, 40, 40⟩
/-- RC_EFF_OFF [39:36] of RC_WAYS. -/
def rcEffOff : Field := ⟨.rcWays, 39, 36⟩
/-- RC_EFF_ENGINE [35:32] of RC_WAYS. -/
def rcEffEngine : Field := ⟨.rcWays, 35, 32⟩
/-- RC_EFF_LOCK [31:28] of RC_WAYS. -/
def rcEffLock : Field := ⟨.rcWays, 31, 28⟩
/-- RC_OFF_WAYS [11:8] of RC_WAYS. -/
def rcOffWays : Field := ⟨.rcWays, 11, 8⟩
/-- RC_ENGINE_WAYS [7:4] of RC_WAYS. -/
def rcEngineWays : Field := ⟨.rcWays, 7, 4⟩
/-- RC_LOCK_WAYS [3:0] of RC_WAYS. -/
def rcLockWays : Field := ⟨.rcWays, 3, 0⟩
/-- RC_MB_PEAK [47:40] of RC_MB. -/
def rcMbPeak : Field := ⟨.rcMb, 47, 40⟩
/-- RC_MB_NOW [39:32] of RC_MB. -/
def rcMbNow : Field := ⟨.rcMb, 39, 32⟩
/-- RC_MB_STALLS [31:16] of RC_MB. -/
def rcMbStalls : Field := ⟨.rcMb, 31, 16⟩
/-- RC_MB_AGE [15:0] of RC_MB. -/
def rcMbAge : Field := ⟨.rcMb, 15, 0⟩
/-- RC_RNG_BASE [63:0] of RC_RANGE_BASE. -/
def rcRngBase : Field := ⟨.rcRangeBase, 63, 0⟩
/-- RC_RNG_LEN [43:0] of RC_RANGE_LEN. -/
def rcRngLen : Field := ⟨.rcRangeLen, 43, 0⟩
/-- RC_RNG_BUSY [63:63] of RC_RANGE_CTRL. -/
def rcRngBusy : Field := ⟨.rcRangeCtrl, 63, 63⟩
/-- RC_RNG_STATUS [62:60] of RC_RANGE_CTRL. -/
def rcRngStatus : Field := ⟨.rcRangeCtrl, 62, 60⟩
/-- RC_RNG_DONE [39:8] of RC_RANGE_CTRL. -/
def rcRngDone : Field := ⟨.rcRangeCtrl, 39, 8⟩
/-- RC_RNG_SLOT [7:4] of RC_RANGE_CTRL. -/
def rcRngSlot : Field := ⟨.rcRangeCtrl, 7, 4⟩
/-- RC_RNG_KIND [3:3] of RC_RANGE_CTRL. -/
def rcRngKind : Field := ⟨.rcRangeCtrl, 3, 3⟩
/-- RC_RNG_OP [2:0] of RC_RANGE_CTRL. -/
def rcRngOp : Field := ⟨.rcRangeCtrl, 2, 0⟩
/-- RC_HITS [63:32] of RC_STATS. -/
def rcHits : Field := ⟨.rcStats, 63, 32⟩
/-- RC_MISSES [31:0] of RC_STATS. -/
def rcMisses : Field := ⟨.rcStats, 31, 0⟩
/-- RC_ATOMIC_FAULTS [63:48] of RC_ATOMICS. -/
def rcAtomicFaults : Field := ⟨.rcAtomics, 63, 48⟩
/-- RC_ATOMIC_COUNT [47:0] of RC_ATOMICS. -/
def rcAtomicCount : Field := ⟨.rcAtomics, 47, 0⟩
/-- RC_SRAM_UE [63:32] of RC_ERRORS. -/
def rcSramUe : Field := ⟨.rcErrors, 63, 32⟩
/-- RC_SRAM_CE [31:0] of RC_ERRORS. -/
def rcSramCe : Field := ⟨.rcErrors, 31, 0⟩
/-- MRK_TARGET [63:32] of MRK_COUNT. -/
def mrkTarget : Field := ⟨.mrkCount, 63, 32⟩
/-- MRK_COUNT [31:0] of MRK_COUNT. -/
def mrkCount : Field := ⟨.mrkCount, 31, 0⟩
/-- MRK_VALID [63:63] of MRK_STATE. -/
def mrkValid : Field := ⟨.mrkState, 63, 63⟩
/-- MRK_BARRIER [62:62] of MRK_STATE. -/
def mrkBarrier : Field := ⟨.mrkState, 62, 62⟩
/-- MRK_FABRIC [61:61] of MRK_STATE. -/
def mrkFabric : Field := ⟨.mrkState, 61, 61⟩
/-- MRK_SENSE [60:60] of MRK_STATE. -/
def mrkSense : Field := ⟨.mrkState, 60, 60⟩
/-- MRK_SAT_HI [59:59] of MRK_STATE. -/
def mrkSatHi : Field := ⟨.mrkState, 59, 59⟩
/-- MRK_SAT_LO [58:58] of MRK_STATE. -/
def mrkSatLo : Field := ⟨.mrkState, 58, 58⟩
/-- MRK_CTX [49:44] of MRK_STATE. -/
def mrkCtx : Field := ⟨.mrkState, 49, 44⟩
/-- MRK_SLOT [43:40] of MRK_STATE. -/
def mrkSlot : Field := ⟨.mrkState, 43, 40⟩
/-- MRK_ID [39:26] of MRK_STATE. -/
def mrkId : Field := ⟨.mrkState, 39, 26⟩
/-- MRK_WAITERS [15:0] of MRK_STATE. -/
def mrkWaiters : Field := ⟨.mrkState, 15, 0⟩
/-- MRK_SWITCHES [63:48] of MRK_CTX. -/
def mrkSwitches : Field := ⟨.mrkCtx, 63, 48⟩
/-- MRK_MODE [40:40] of MRK_CTX. -/
def mrkMode : Field := ⟨.mrkCtx, 40, 40⟩
/-- MRK_CONTEXTS [38:32] of MRK_CTX. -/
def mrkContexts : Field := ⟨.mrkCtx, 38, 32⟩
/-- MRK_SW_PENDING [16:16] of MRK_CTX. -/
def mrkSwPending : Field := ⟨.mrkCtx, 16, 16⟩
/-- MRK_SW_TO [13:8] of MRK_CTX. -/
def mrkSwTo : Field := ⟨.mrkCtx, 13, 8⟩
/-- MRK_ACTIVE_CTX [5:0] of MRK_CTX. -/
def mrkActiveCtx : Field := ⟨.mrkCtx, 5, 0⟩
/-- MRK_RA_POINTS [63:48] of MRK_REALIGN. -/
def mrkRaPoints : Field := ⟨.mrkRealign, 63, 48⟩
/-- MRK_RA_MARKS [47:32] of MRK_REALIGN. -/
def mrkRaMarks : Field := ⟨.mrkRealign, 47, 32⟩
/-- MRK_RA_PERIOD [15:0] of MRK_REALIGN. -/
def mrkRaPeriod : Field := ⟨.mrkRealign, 15, 0⟩
/-- MRK_F_CODE [63:56] of MRK_FAULT. -/
def mrkFCode : Field := ⟨.mrkFault, 63, 56⟩
/-- MRK_F_MARK [45:32] of MRK_FAULT. -/
def mrkFMark : Field := ⟨.mrkFault, 45, 32⟩
/-- MRK_F_COUNT [31:0] of MRK_FAULT. -/
def mrkFCount : Field := ⟨.mrkFault, 31, 0⟩
/-- MRK_LENDS [63:32] of MRK_EVENTS. -/
def mrkLends : Field := ⟨.mrkEvents, 63, 32⟩
/-- MRK_STALE [31:16] of MRK_EVENTS. -/
def mrkStale : Field := ⟨.mrkEvents, 31, 16⟩
/-- MRK_HAND_SETS [15:0] of MRK_EVENTS. -/
def mrkHandSets : Field := ⟨.mrkEvents, 15, 0⟩
/-- MRK_SIG_OP [49:48] of MRK_SIGNAL. -/
def mrkSigOp : Field := ⟨.mrkSignal, 49, 48⟩
/-- MRK_SIG_AMOUNT [47:32] of MRK_SIGNAL. -/
def mrkSigAmount : Field := ⟨.mrkSignal, 47, 32⟩
/-- MRK_SIG_MARK [13:0] of MRK_SIGNAL. -/
def mrkSigMark : Field := ⟨.mrkSignal, 13, 0⟩
/-- MRK_SIG_REFUSED [31:0] of MRK_HOST_STATUS. -/
def mrkSigRefused : Field := ⟨.mrkHostStatus, 31, 0⟩
/-- MRK_DL_TIMEOUT_US [15:0] of MRK_DL_CFG. -/
def mrkDlTimeoutUs : Field := ⟨.mrkDlCfg, 15, 0⟩
/-- MRK_DL_HIT [63:63] of MRK_DL_STATUS. -/
def mrkDlHit : Field := ⟨.mrkDlStatus, 63, 63⟩
/-- MRK_DL_SLOT [55:52] of MRK_DL_STATUS. -/
def mrkDlSlot : Field := ⟨.mrkDlStatus, 55, 52⟩
/-- MRK_DL_REGIONS [51:36] of MRK_DL_STATUS. -/
def mrkDlRegions : Field := ⟨.mrkDlStatus, 51, 36⟩
/-- MRK_DL_REPORTS [35:28] of MRK_DL_STATUS. -/
def mrkDlReports : Field := ⟨.mrkDlStatus, 35, 28⟩
/-- MRK_DL_WAITING [14:14] of MRK_DL_STATUS. -/
def mrkDlWaiting : Field := ⟨.mrkDlStatus, 14, 14⟩
/-- MRK_DL_MARK [13:0] of MRK_DL_STATUS. -/
def mrkDlMark : Field := ⟨.mrkDlStatus, 13, 0⟩
/-- MRK_DL_TARGET [63:32] of MRK_DL_SNAP. -/
def mrkDlTarget : Field := ⟨.mrkDlSnap, 63, 32⟩
/-- MRK_DL_COUNT [31:0] of MRK_DL_SNAP. -/
def mrkDlCount : Field := ⟨.mrkDlSnap, 31, 0⟩
/-- MRK_X_VALID [63:63] of MRK_XLATE. -/
def mrkXValid : Field := ⟨.mrkXlate, 63, 63⟩
/-- MRK_X_SLOT [55:52] of MRK_XLATE. -/
def mrkXSlot : Field := ⟨.mrkXlate, 55, 52⟩
/-- MRK_X_CTX [45:40] of MRK_XLATE. -/
def mrkXCtx : Field := ⟨.mrkXlate, 45, 40⟩
/-- MRK_X_ID [29:16] of MRK_XLATE. -/
def mrkXId : Field := ⟨.mrkXlate, 29, 16⟩
/-- MRK_X_MARK [13:0] of MRK_XLATE. -/
def mrkXMark : Field := ⟨.mrkXlate, 13, 0⟩
/-- DBG_MS_SENSE_EN [63:63] of DBG_MARK_SET. -/
def dbgMsSenseEn : Field := ⟨.dbgMarkSet, 63, 63⟩
/-- DBG_MS_SENSE [62:62] of DBG_MARK_SET. -/
def dbgMsSense : Field := ⟨.dbgMarkSet, 62, 62⟩
/-- DBG_MS_MARK [45:32] of DBG_MARK_SET. -/
def dbgMsMark : Field := ⟨.dbgMarkSet, 45, 32⟩
/-- DBG_MS_COUNT [31:0] of DBG_MARK_SET. -/
def dbgMsCount : Field := ⟨.dbgMarkSet, 31, 0⟩
/-- DBG_MS_STATUS [63:62] of DBG_MARK_STATUS. -/
def dbgMsStatus : Field := ⟨.dbgMarkStatus, 63, 62⟩
/-- HLK_LK_STATE [63:61] of HLK_LINK_STATUS. -/
def hlkLkState : Field := ⟨.hlkLinkStatus, 63, 61⟩
/-- HLK_LK_BUNDLE [60:54] of HLK_LINK_STATUS. -/
def hlkLkBundle : Field := ⟨.hlkLinkStatus, 60, 54⟩
/-- HLK_LK_PEER_LINK [53:47] of HLK_LINK_STATUS. -/
def hlkLkPeerLink : Field := ⟨.hlkLinkStatus, 53, 47⟩
/-- HLK_LK_PEER_NODE [46:32] of HLK_LINK_STATUS. -/
def hlkLkPeerNode : Field := ⟨.hlkLinkStatus, 46, 32⟩
/-- HLK_LK_PEER_VALID [31:31] of HLK_LINK_STATUS. -/
def hlkLkPeerValid : Field := ⟨.hlkLinkStatus, 31, 31⟩
/-- HLK_LK_ISOLATE [30:28] of HLK_LINK_STATUS. -/
def hlkLkIsolate : Field := ⟨.hlkLinkStatus, 30, 28⟩
/-- HLK_LK_CAP [16:8] of HLK_LINK_STATUS. -/
def hlkLkCap : Field := ⟨.hlkLinkStatus, 16, 8⟩
/-- HLK_LK_PEER_SERIAL [63:0] of HLK_LINK_PEER. -/
def hlkLkPeerSerial : Field := ⟨.hlkLinkPeer, 63, 0⟩
/-- HLK_LK_FEC_SYMS [63:32] of HLK_LINK_ERR. -/
def hlkLkFecSyms : Field := ⟨.hlkLinkErr, 63, 32⟩
/-- HLK_LK_FEC_UNCORR [31:20] of HLK_LINK_ERR. -/
def hlkLkFecUncorr : Field := ⟨.hlkLinkErr, 31, 20⟩
/-- HLK_LK_NAKS [19:8] of HLK_LINK_ERR. -/
def hlkLkNaks : Field := ⟨.hlkLinkErr, 19, 8⟩
/-- HLK_LK_RETRAINS [7:0] of HLK_LINK_ERR. -/
def hlkLkRetrains : Field := ⟨.hlkLinkErr, 7, 0⟩
/-- HLK_LK_TT_ASYM [31:0] of HLK_LINK_TT. -/
def hlkLkTtAsym : Field := ⟨.hlkLinkTt, 31, 0⟩
/-- HLK_ND_STATE [63:61] of HLK_NODE. -/
def hlkNdState : Field := ⟨.hlkNode, 63, 61⟩
/-- HLK_ND_ID [14:0] of HLK_NODE. -/
def hlkNdId : Field := ⟨.hlkNode, 14, 0⟩
/-- HLK_SERIAL [63:0] of HLK_SERIAL. -/
def hlkSerial : Field := ⟨.hlkSerial, 63, 0⟩
/-- HLK_FB_NAME [63:32] of HLK_FABRIC. -/
def hlkFbName : Field := ⟨.hlkFabric, 63, 32⟩
/-- HLK_FB_TOPO [31:30] of HLK_FABRIC. -/
def hlkFbTopo : Field := ⟨.hlkFabric, 31, 30⟩
/-- HLK_FB_Z [26:18] of HLK_FABRIC. -/
def hlkFbZ : Field := ⟨.hlkFabric, 26, 18⟩
/-- HLK_FB_Y [17:9] of HLK_FABRIC. -/
def hlkFbY : Field := ⟨.hlkFabric, 17, 9⟩
/-- HLK_FB_X [8:0] of HLK_FABRIC. -/
def hlkFbX : Field := ⟨.hlkFabric, 8, 0⟩
/-- HLK_DS_STATE [63:60] of HLK_DISC. -/
def hlkDsState : Field := ⟨.hlkDisc, 63, 60⟩
/-- HLK_DS_ERR [59:56] of HLK_DISC. -/
def hlkDsErr : Field := ⟨.hlkDisc, 59, 56⟩
/-- HLK_SETTLE_MS [47:32] of HLK_DISC. -/
def hlkSettleMs : Field := ⟨.hlkDisc, 47, 32⟩
/-- HLK_DS_DEVICES [31:16] of HLK_DISC. -/
def hlkDsDevices : Field := ⟨.hlkDisc, 31, 16⟩
/-- HLK_DS_CHANGES [15:0] of HLK_DISC. -/
def hlkDsChanges : Field := ⟨.hlkDisc, 15, 0⟩
/-- HLK_ROOT_SERIAL [63:0] of HLK_ROOT. -/
def hlkRootSerial : Field := ⟨.hlkRoot, 63, 0⟩
/-- HLK_RT_GEN [63:32] of HLK_RT_STATUS. -/
def hlkRtGen : Field := ⟨.hlkRtStatus, 63, 32⟩
/-- HLK_RT_UNREACH [31:16] of HLK_RT_STATUS. -/
def hlkRtUnreach : Field := ⟨.hlkRtStatus, 31, 16⟩
/-- HLK_RT_UNROUTABLE [15:0] of HLK_RT_STATUS. -/
def hlkRtUnroutable : Field := ⟨.hlkRtStatus, 15, 0⟩
/-- HLK_E2E_RESENDS [63:48] of HLK_E2E. -/
def hlkE2eResends : Field := ⟨.hlkE2e, 63, 48⟩
/-- HLK_E2E_LOST [47:32] of HLK_E2E. -/
def hlkE2eLost : Field := ⟨.hlkE2e, 47, 32⟩
/-- HLK_E2E_DUPS [31:16] of HLK_E2E. -/
def hlkE2eDups : Field := ⟨.hlkE2e, 31, 16⟩
/-- HLK_TTL_DROPS [15:0] of HLK_E2E. -/
def hlkTtlDrops : Field := ⟨.hlkE2e, 15, 0⟩
/-- HLK_E2E_TIMEOUT_US [15:0] of HLK_E2E_CFG. -/
def hlkE2eTimeoutUs : Field := ⟨.hlkE2eCfg, 15, 0⟩
/-- HLK_TT_HAS_PARENT [63:63] of HLK_TIME. -/
def hlkTtHasParent : Field := ⟨.hlkTime, 63, 63⟩
/-- HLK_TT_PARENT_LINK [62:56] of HLK_TIME. -/
def hlkTtParentLink : Field := ⟨.hlkTime, 62, 56⟩
/-- HLK_TT_HOPS [55:48] of HLK_TIME. -/
def hlkTtHops : Field := ⟨.hlkTime, 55, 48⟩
/-- HLK_TT_MAX_HOPS [47:40] of HLK_TIME. -/
def hlkTtMaxHops : Field := ⟨.hlkTime, 47, 40⟩
/-- HLK_TT_DELAY [39:24] of HLK_TIME. -/
def hlkTtDelay : Field := ⟨.hlkTime, 39, 24⟩
/-- HLK_TT_OFFSET [23:0] of HLK_TIME. -/
def hlkTtOffset : Field := ⟨.hlkTime, 23, 0⟩
/-- RT_VALID [63:63] of HLK_RT_GROUP. -/
def rtValid : Field := ⟨.hlkRtGroup, 63, 63⟩
/-- RT_HOPS [47:40] of HLK_RT_GROUP. -/
def rtHops : Field := ⟨.hlkRtGroup, 47, 40⟩
/-- RT_ESC [39:32] of HLK_RT_GROUP. -/
def rtEsc : Field := ⟨.hlkRtGroup, 39, 32⟩
/-- RT_CAND_3 [31:24] of HLK_RT_GROUP. -/
def rtCand3 : Field := ⟨.hlkRtGroup, 31, 24⟩
/-- RT_CAND_2 [23:16] of HLK_RT_GROUP. -/
def rtCand2 : Field := ⟨.hlkRtGroup, 23, 16⟩
/-- RT_CAND_1 [15:8] of HLK_RT_GROUP. -/
def rtCand1 : Field := ⟨.hlkRtGroup, 15, 8⟩
/-- RT_CAND_0 [7:0] of HLK_RT_GROUP. -/
def rtCand0 : Field := ⟨.hlkRtGroup, 7, 0⟩
/-- HLK_BD_VALID [63:63] of HLK_BUNDLE. -/
def hlkBdValid : Field := ⟨.hlkBundle, 63, 63⟩
/-- HLK_BD_LINKS [62:58] of HLK_BUNDLE. -/
def hlkBdLinks : Field := ⟨.hlkBundle, 62, 58⟩
/-- HLK_BD_DIM [57:56] of HLK_BUNDLE. -/
def hlkBdDim : Field := ⟨.hlkBundle, 57, 56⟩
/-- HLK_BD_DATELINE [55:55] of HLK_BUNDLE. -/
def hlkBdDateline : Field := ⟨.hlkBundle, 55, 55⟩
/-- HLK_BD_PEER_NODE [46:32] of HLK_BUNDLE. -/
def hlkBdPeerNode : Field := ⟨.hlkBundle, 46, 32⟩
/-- ETH_PFC_EN [15:15] of ETH_PORT_CFG. -/
def ethPfcEn : Field := ⟨.ethPortCfg, 15, 15⟩
/-- ETH_PFC_PRIO [14:12] of ETH_PORT_CFG. -/
def ethPfcPrio : Field := ⟨.ethPortCfg, 14, 12⟩
/-- ETH_MODE [1:0] of ETH_PORT_CFG. -/
def ethMode : Field := ⟨.ethPortCfg, 1, 0⟩
/-- ETH_UP [63:63] of ETH_PORT_STATUS. -/
def ethUp : Field := ⟨.ethPortStatus, 63, 63⟩
/-- ETH_EFF_MODE [62:61] of ETH_PORT_STATUS. -/
def ethEffMode : Field := ⟨.ethPortStatus, 62, 61⟩
/-- ETH_FLT_RATE [47:32] of ETH_PORT_STATUS. -/
def ethFltRate : Field := ⟨.ethPortStatus, 47, 32⟩
/-- ETH_FEC_UNCORR [31:0] of ETH_PORT_STATUS. -/
def ethFecUncorr : Field := ⟨.ethPortStatus, 31, 0⟩
/-- ETH_RX_DROPS [63:32] of ETH_PORT_DROPS. -/
def ethRxDrops : Field := ⟨.ethPortDrops, 63, 32⟩
/-- ETH_FLT_DROPS [31:0] of ETH_PORT_DROPS. -/
def ethFltDrops : Field := ⟨.ethPortDrops, 31, 0⟩
/-- ETH_MAC [47:0] of ETH_PORT_MAC. -/
def ethMac : Field := ⟨.ethPortMac, 47, 0⟩
/-- ETH_IP4 [31:0] of ETH_PORT_IP4. -/
def ethIp4 : Field := ⟨.ethPortIp4, 31, 0⟩
/-- ETH_IP6_HI [63:0] of ETH_PORT_IP6_HI. -/
def ethIp6Hi : Field := ⟨.ethPortIp6Hi, 63, 0⟩
/-- ETH_IP6_LO [63:0] of ETH_PORT_IP6_LO. -/
def ethIp6Lo : Field := ⟨.ethPortIp6Lo, 63, 0⟩
/-- ETH_CC_CLIMB_US [63:48] of ETH_CC. -/
def ethCcClimbUs : Field := ⟨.ethCc, 63, 48⟩
/-- ETH_CC_HOLD_US [47:32] of ETH_CC. -/
def ethCcHoldUs : Field := ⟨.ethCc, 47, 32⟩
/-- ETH_CC_DROP [31:16] of ETH_CC. -/
def ethCcDrop : Field := ⟨.ethCc, 31, 16⟩
/-- ETH_CC_MIN [15:0] of ETH_CC. -/
def ethCcMin : Field := ⟨.ethCc, 15, 0⟩
/-- ETH_CC_CNP_US [15:0] of ETH_CC_NP. -/
def ethCcCnpUs : Field := ⟨.ethCcNp, 15, 0⟩
/-- ETH_RC_CNP_RX [63:48] of ETH_ROCE. -/
def ethRcCnpRx : Field := ⟨.ethRoce, 63, 48⟩
/-- ETH_RC_CNP_TX [47:32] of ETH_ROCE. -/
def ethRcCnpTx : Field := ⟨.ethRoce, 47, 32⟩
/-- ETH_RC_RETX [31:16] of ETH_ROCE. -/
def ethRcRetx : Field := ⟨.ethRoce, 31, 16⟩
/-- ETH_RC_QP_ERR [15:0] of ETH_ROCE. -/
def ethRcQpErr : Field := ⟨.ethRoce, 15, 0⟩
/-- ETH_QP_USED [31:16] of ETH_ROCE_USE. -/
def ethQpUsed : Field := ⟨.ethRoceUse, 31, 16⟩
/-- ETH_MR_USED [15:0] of ETH_ROCE_USE. -/
def ethMrUsed : Field := ⟨.ethRoceUse, 15, 0⟩
/-- HIF_CACHE_FETCH [1:1] of HIF_CTRL. -/
def hifCacheFetch : Field := ⟨.hifCtrl, 1, 1⟩
/-- HIF_RINGS_EN [0:0] of HIF_CTRL. -/
def hifRingsEn : Field := ⟨.hifCtrl, 0, 0⟩
/-- HIF_CXL_MEM [17:17] of HIF_STATUS. -/
def hifCxlMem : Field := ⟨.hifStatus, 17, 17⟩
/-- HIF_CXL_CACHE [16:16] of HIF_STATUS. -/
def hifCxlCache : Field := ⟨.hifStatus, 16, 16⟩
/-- HIF_LANES [12:8] of HIF_STATUS. -/
def hifLanes : Field := ⟨.hifStatus, 12, 8⟩
/-- HIF_SPEED [3:0] of HIF_STATUS. -/
def hifSpeed : Field := ⟨.hifStatus, 3, 0⟩
/-- HIF_RID_VALID [50:48] of HIF_HOST_RID. -/
def hifRidValid : Field := ⟨.hifHostRid, 50, 48⟩
/-- HIF_RID [47:0] of HIF_HOST_RID. -/
def hifRid : Field := ⟨.hifHostRid, 47, 0⟩
/-- HIF_AP_OFFLINE [63:63] of HIF_APERTURE. -/
def hifApOffline : Field := ⟨.hifAperture, 63, 63⟩
/-- HIF_AP_STACK [3:0] of HIF_APERTURE. -/
def hifApStack : Field := ⟨.hifAperture, 3, 0⟩
/-- HIF_AP_DRAINED [31:0] of HIF_APERTURE_SYNC. -/
def hifApDrained : Field := ⟨.hifApertureSync, 31, 0⟩
/-- HIF_POOL_REFUSED [63:63] of HIF_HOST_POOL. -/
def hifPoolRefused : Field := ⟨.hifHostPool, 63, 63⟩
/-- HIF_POOL_LEN_GIB [41:32] of HIF_HOST_POOL. -/
def hifPoolLenGib : Field := ⟨.hifHostPool, 41, 32⟩
/-- HIF_POOL_BASE_GIB [9:0] of HIF_HOST_POOL. -/
def hifPoolBaseGib : Field := ⟨.hifHostPool, 9, 0⟩
/-- HIF_EV_RAS_VEC [58:48] of HIF_EVT_VEC. -/
def hifEvRasVec : Field := ⟨.hifEvtVec, 58, 48⟩
/-- HIF_EV_FAULT_VEC [42:32] of HIF_EVT_VEC. -/
def hifEvFaultVec : Field := ⟨.hifEvtVec, 42, 32⟩
/-- HIF_EV_DL_VEC [26:16] of HIF_EVT_VEC. -/
def hifEvDlVec : Field := ⟨.hifEvtVec, 26, 16⟩
/-- HIF_EV_STALE_VEC [10:0] of HIF_EVT_VEC. -/
def hifEvStaleVec : Field := ⟨.hifEvtVec, 10, 0⟩
/-- HIF_EV_DMA_BLOCKED [4:4] of HIF_EVT_STATUS. -/
def hifEvDmaBlocked : Field := ⟨.hifEvtStatus, 4, 4⟩
/-- HIF_EV_RAS [3:3] of HIF_EVT_STATUS. -/
def hifEvRas : Field := ⟨.hifEvtStatus, 3, 3⟩
/-- HIF_EV_FAULT [2:2] of HIF_EVT_STATUS. -/
def hifEvFault : Field := ⟨.hifEvtStatus, 2, 2⟩
/-- HIF_EV_DEADLOCK [1:1] of HIF_EVT_STATUS. -/
def hifEvDeadlock : Field := ⟨.hifEvtStatus, 1, 1⟩
/-- HIF_EV_STALE [0:0] of HIF_EVT_STATUS. -/
def hifEvStale : Field := ⟨.hifEvtStatus, 0, 0⟩
/-- HIF_DMA_WAITED [31:0] of HIF_DMA_FENCE. -/
def hifDmaWaited : Field := ⟨.hifDmaFence, 31, 0⟩
/-- HIF_BLK_PAGE [63:12] of HIF_DMA_BLOCKED. -/
def hifBlkPage : Field := ⟨.hifDmaBlocked, 63, 12⟩
/-- HIF_BLK_COUNT [11:0] of HIF_DMA_BLOCKED. -/
def hifBlkCount : Field := ⟨.hifDmaBlocked, 11, 0⟩
/-- HIF_UR_PEER [63:32] of HIF_UR. -/
def hifUrPeer : Field := ⟨.hifUr, 63, 32⟩
/-- HIF_UR_OTHER [31:0] of HIF_UR. -/
def hifUrOther : Field := ⟨.hifUr, 31, 0⟩
/-- HIF_WIN_BASE [63:12] of HIF_DMA_WIN_BASE. -/
def hifWinBase : Field := ⟨.hifDmaWinBase, 63, 12⟩
/-- HIF_WIN_W [1:1] of HIF_DMA_WIN_BASE. -/
def hifWinW : Field := ⟨.hifDmaWinBase, 1, 1⟩
/-- HIF_WIN_R [0:0] of HIF_DMA_WIN_BASE. -/
def hifWinR : Field := ⟨.hifDmaWinBase, 0, 0⟩
/-- HIF_WIN_LEN [63:12] of HIF_DMA_WIN_LEN. -/
def hifWinLen : Field := ⟨.hifDmaWinLen, 63, 12⟩
/-- HIF_RG_TBASE [63:12] of HIF_RING_BASE. -/
def hifRgTbase : Field := ⟨.hifRingBase, 63, 12⟩
/-- HIF_RG_PBASE [63:12] of HIF_RING_PBASE. -/
def hifRgPbase : Field := ⟨.hifRingPbase, 63, 12⟩
/-- HIF_RG_RESUME [63:63] of HIF_RING_CTRL. -/
def hifRgResume : Field := ⟨.hifRingCtrl, 63, 63⟩
/-- HIF_RG_EN [62:62] of HIF_RING_CTRL. -/
def hifRgEn : Field := ⟨.hifRingCtrl, 62, 62⟩
/-- HIF_RG_DRIVER [61:61] of HIF_RING_CTRL. -/
def hifRgDriver : Field := ⟨.hifRingCtrl, 61, 61⟩
/-- HIF_RG_LOG2 [52:48] of HIF_RING_CTRL. -/
def hifRgLog2 : Field := ⟨.hifRingCtrl, 52, 48⟩
/-- HIF_RG_VEC [42:32] of HIF_RING_CTRL. -/
def hifRgVec : Field := ⟨.hifRingCtrl, 42, 32⟩
/-- HIF_RG_COAL_N [31:24] of HIF_RING_CTRL. -/
def hifRgCoalN : Field := ⟨.hifRingCtrl, 31, 24⟩
/-- HIF_RG_COAL_US [23:8] of HIF_RING_CTRL. -/
def hifRgCoalUs : Field := ⟨.hifRingCtrl, 23, 8⟩
/-- HIF_DB_CRC [63:32] of HIF_RING_DB. -/
def hifDbCrc : Field := ⟨.hifRingDb, 63, 32⟩
/-- HIF_DB_TAIL [31:0] of HIF_RING_DB. -/
def hifDbTail : Field := ⟨.hifRingDb, 31, 0⟩
/-- HIF_RG_PCOUNT [63:32] of HIF_RING_PHEAD. -/
def hifRgPcount : Field := ⟨.hifRingPhead, 63, 32⟩
/-- HIF_RG_PHEAD [31:0] of HIF_RING_PHEAD. -/
def hifRgPhead : Field := ⟨.hifRingPhead, 31, 0⟩
/-- HIF_RG_STATE [63:61] of HIF_RING_STATUS. -/
def hifRgState : Field := ⟨.hifRingStatus, 63, 61⟩
/-- HIF_RG_INFLIGHT [48:32] of HIF_RING_STATUS. -/
def hifRgInflight : Field := ⟨.hifRingStatus, 48, 32⟩
/-- HIF_RG_HEAD [31:0] of HIF_RING_STATUS. -/
def hifRgHead : Field := ⟨.hifRingStatus, 31, 0⟩
/-- HIF_RG_REREADS [63:32] of HIF_RING_COUNT. -/
def hifRgRereads : Field := ⟨.hifRingCount, 63, 32⟩
/-- HIF_RG_STALE_FAULTS [31:16] of HIF_RING_COUNT. -/
def hifRgStaleFaults : Field := ⟨.hifRingCount, 31, 16⟩
/-- HIF_RG_DB_IGNORED [15:0] of HIF_RING_COUNT. -/
def hifRgDbIgnored : Field := ⟨.hifRingCount, 15, 0⟩
/-- INK_CLAMP_W [47:36] of INK_ENVELOPE. -/
def inkClampW : Field := ⟨.inkEnvelope, 47, 36⟩
/-- INK_INSTALL_W [35:24] of INK_ENVELOPE. -/
def inkInstallW : Field := ⟨.inkEnvelope, 35, 24⟩
/-- INK_EFF [23:12] of INK_ENVELOPE. -/
def inkEff : Field := ⟨.inkEnvelope, 23, 12⟩
/-- INK_BASE [63:48] of INK_LEDGER. -/
def inkBase : Field := ⟨.inkLedger, 63, 48⟩
/-- INK_SETASIDE [47:32] of INK_LEDGER. -/
def inkSetaside : Field := ⟨.inkLedger, 47, 32⟩
/-- INK_GRANTED [31:16] of INK_LEDGER. -/
def inkGranted : Field := ⟨.inkLedger, 31, 16⟩
/-- INK_LENT [15:0] of INK_LEDGER. -/
def inkLent : Field := ⟨.inkLedger, 15, 0⟩
/-- INK_THR_STUCK [63:63] of INK_THROTTLE. -/
def inkThrStuck : Field := ⟨.inkThrottle, 63, 63⟩
/-- INK_THR_ACTIVE [62:62] of INK_THROTTLE. -/
def inkThrActive : Field := ⟨.inkThrottle, 62, 62⟩
/-- INK_THR_PIN [61:61] of INK_THROTTLE. -/
def inkThrPin : Field := ⟨.inkThrottle, 61, 61⟩
/-- INK_THERM_FLOOR [60:60] of INK_THROTTLE. -/
def inkThermFloor : Field := ⟨.inkThrottle, 60, 60⟩
/-- INK_THR_GLITCHES [31:16] of INK_THROTTLE. -/
def inkThrGlitches : Field := ⟨.inkThrottle, 31, 16⟩
/-- INK_THR_EVENTS [15:0] of INK_THROTTLE. -/
def inkThrEvents : Field := ⟨.inkThrottle, 15, 0⟩
/-- INK_REVOKES [63:48] of INK_EVENTS. -/
def inkRevokes : Field := ⟨.inkEvents, 63, 48⟩
/-- INK_LEVEL_WAITS [47:32] of INK_EVENTS. -/
def inkLevelWaits : Field := ⟨.inkEvents, 47, 32⟩
/-- INK_CLAMP_EVENTS [31:16] of INK_EVENTS. -/
def inkClampEvents : Field := ⟨.inkEvents, 31, 16⟩
/-- INK_LOANS [15:0] of INK_EVENTS. -/
def inkLoans : Field := ⟨.inkEvents, 15, 0⟩
/-- INK_TRIP_C [63:56] of INK_THERMAL. -/
def inkTripC : Field := ⟨.inkThermal, 63, 56⟩
/-- INK_WARN_C [55:48] of INK_THERMAL. -/
def inkWarnC : Field := ⟨.inkThermal, 55, 48⟩
/-- INK_T_HB [31:24] of INK_THERMAL. -/
def inkTHb : Field := ⟨.inkThermal, 31, 24⟩
/-- INK_T_HA [23:16] of INK_THERMAL. -/
def inkTHa : Field := ⟨.inkThermal, 23, 16⟩
/-- INK_T_L1 [15:8] of INK_THERMAL. -/
def inkTL1 : Field := ⟨.inkThermal, 15, 8⟩
/-- INK_T_L0 [7:0] of INK_THERMAL. -/
def inkTL0 : Field := ⟨.inkThermal, 7, 0⟩
/-- INK_C_DUTY [54:48] of INK_CHASE. -/
def inkCDuty : Field := ⟨.inkChase, 54, 48⟩
/-- INK_C_LEVEL [47:36] of INK_CHASE. -/
def inkCLevel : Field := ⟨.inkChase, 47, 36⟩
/-- INK_C_GRANTED [23:12] of INK_CHASE. -/
def inkCGranted : Field := ⟨.inkChase, 23, 12⟩
/-- INK_C_FIRM [11:0] of INK_CHASE. -/
def inkCFirm : Field := ⟨.inkChase, 11, 0⟩
/-- TIME_NS [63:0] of TIME_NS. -/
def timeNs : Field := ⟨.timeNs, 63, 0⟩
/-- TIME_FRAC [15:0] of TIME_FRAC. -/
def timeFrac : Field := ⟨.timeFrac, 15, 0⟩
/-- TIME_STATE [63:61] of TIME_STATUS. -/
def timeState : Field := ⟨.timeStatus, 63, 61⟩
/-- TIME_STORM [60:60] of TIME_STATUS. -/
def timeStorm : Field := ⟨.timeStatus, 60, 60⟩
/-- TIME_STEP_HELD [59:59] of TIME_STATUS. -/
def timeStepHeld : Field := ⟨.timeStatus, 59, 59⟩
/-- TIME_RATE [47:32] of TIME_STATUS. -/
def timeRate : Field := ⟨.timeStatus, 47, 32⟩
/-- TIME_ERR [31:0] of TIME_STATUS. -/
def timeErr : Field := ⟨.timeStatus, 31, 0⟩
/-- TIME_PPS_EN [63:63] of TIME_CFG. -/
def timePpsEn : Field := ⟨.timeCfg, 63, 63⟩
/-- TIME_STEP_POLICY [59:58] of TIME_CFG. -/
def timeStepPolicy : Field := ⟨.timeCfg, 59, 58⟩
/-- TIME_PPS_COMP [31:0] of TIME_CFG. -/
def timePpsComp : Field := ⟨.timeCfg, 31, 0⟩
/-- TIME_NEXT_VALID [63:63] of TIME_NEXT_SEC. -/
def timeNextValid : Field := ⟨.timeNextSec, 63, 63⟩
/-- TIME_NEXT [47:0] of TIME_NEXT_SEC. -/
def timeNext : Field := ⟨.timeNextSec, 47, 0⟩
/-- TIME_PPS_EARLY [63:48] of TIME_PPS_COUNT. -/
def timePpsEarly : Field := ⟨.timePpsCount, 63, 48⟩
/-- TIME_PPS_OUTSIDE [47:32] of TIME_PPS_COUNT. -/
def timePpsOutside : Field := ⟨.timePpsCount, 47, 32⟩
/-- TIME_STORMS [31:16] of TIME_PPS_COUNT. -/
def timeStorms : Field := ⟨.timePpsCount, 31, 16⟩
/-- TIME_HOLDOVERS [15:0] of TIME_PPS_COUNT. -/
def timeHoldovers : Field := ⟨.timePpsCount, 15, 0⟩
/-- TIME_STEPS [63:48] of TIME_STEP. -/
def timeSteps : Field := ⟨.timeStep, 63, 48⟩
/-- TIME_LAST_STEP [47:0] of TIME_STEP. -/
def timeLastStep : Field := ⟨.timeStep, 47, 0⟩
/-- SEC_ISLAND_STATE [63:60] of SEC_STATUS. -/
def secIslandState : Field := ⟨.secStatus, 63, 60⟩
/-- SEC_APPROVED [59:59] of SEC_STATUS. -/
def secApproved : Field := ⟨.secStatus, 59, 59⟩
/-- SEC_FENCE_INVALID [58:58] of SEC_STATUS. -/
def secFenceInvalid : Field := ⟨.secStatus, 58, 58⟩
/-- SEC_FENCE_PENDING [57:57] of SEC_STATUS. -/
def secFencePending : Field := ⟨.secStatus, 57, 57⟩
/-- SEC_FW_PENDING [56:56] of SEC_STATUS. -/
def secFwPending : Field := ⟨.secStatus, 56, 56⟩
/-- SEC_BOOT_CODE [55:48] of SEC_STATUS. -/
def secBootCode : Field := ⟨.secStatus, 55, 48⟩
/-- SEC_MAKERS [35:32] of SEC_STATUS. -/
def secMakers : Field := ⟨.secStatus, 35, 32⟩
/-- SEC_INSTALLERS [31:28] of SEC_STATUS. -/
def secInstallers : Field := ⟨.secStatus, 31, 28⟩
/-- SEC_OPERATORS [27:24] of SEC_STATUS. -/
def secOperators : Field := ⟨.secStatus, 27, 24⟩
/-- SEC_MIN_SVN [15:0] of SEC_STATUS. -/
def secMinSvn : Field := ⟨.secStatus, 15, 0⟩
/-- SEC_MB_BUSY [63:63] of SEC_MB_CTRL. -/
def secMbBusy : Field := ⟨.secMbCtrl, 63, 63⟩
/-- SEC_MB_RESULT [55:48] of SEC_MB_CTRL. -/
def secMbResult : Field := ⟨.secMbCtrl, 55, 48⟩
/-- SEC_MB_RLEN [31:16] of SEC_MB_CTRL. -/
def secMbRlen : Field := ⟨.secMbCtrl, 31, 16⟩
/-- SEC_MB_GO [0:0] of SEC_MB_CTRL. -/
def secMbGo : Field := ⟨.secMbCtrl, 0, 0⟩
/-- SEC_UNLOCK_OP [63:63] of SEC_AUTH. -/
def secUnlockOp : Field := ⟨.secAuth, 63, 63⟩
/-- SEC_UNLOCK_MAKER [62:62] of SEC_AUTH. -/
def secUnlockMaker : Field := ⟨.secAuth, 62, 62⟩
/-- SEC_REPAIR [61:61] of SEC_AUTH. -/
def secRepair : Field := ⟨.secAuth, 61, 61⟩
/-- SEC_SESSION [60:60] of SEC_AUTH. -/
def secSession : Field := ⟨.secAuth, 60, 60⟩
/-- SEC_REPAIR_STACKS [59:48] of SEC_AUTH. -/
def secRepairStacks : Field := ⟨.secAuth, 59, 48⟩
/-- SEC_SESSION_SLOTS [47:32] of SEC_AUTH. -/
def secSessionSlots : Field := ⟨.secAuth, 47, 32⟩
/-- SEC_AUTH_REMAIN [31:0] of SEC_AUTH. -/
def secAuthRemain : Field := ⟨.secAuth, 31, 0⟩
/-- SEC_COL_SEQ [63:0] of SEC_COLOPHON. -/
def secColSeq : Field := ⟨.secColophon, 63, 0⟩
/-- SEC_COL_CKPT [63:0] of SEC_COL_CKPT. -/
def secColCkpt : Field := ⟨.secColCkpt, 63, 0⟩
/-- SEC_COL_RPMB [63:32] of SEC_COL_EVENTS. -/
def secColRpmb : Field := ⟨.secColEvents, 63, 32⟩
/-- SEC_COL_BREAKS [31:24] of SEC_COL_EVENTS. -/
def secColBreaks : Field := ⟨.secColEvents, 31, 24⟩
/-- SEC_TEST_REFUSED [23:16] of SEC_COL_EVENTS. -/
def secTestRefused : Field := ⟨.secColEvents, 23, 16⟩
/-- SEC_COL_WRAPS [15:0] of SEC_COL_EVENTS. -/
def secColWraps : Field := ⟨.secColEvents, 15, 0⟩
/-- SEC_COL_LOST [31:0] of SEC_COL_LOST. -/
def secColLost : Field := ⟨.secColLost, 31, 0⟩
/-- RAS_SERVICE [63:63] of RAS_STATUS. -/
def rasService : Field := ⟨.rasStatus, 63, 63⟩
/-- RAS_FATAL [62:62] of RAS_STATUS. -/
def rasFatal : Field := ⟨.rasStatus, 62, 62⟩
/-- RAS_REPAIR_SLIPS [31:16] of RAS_STATUS. -/
def rasRepairSlips : Field := ⟨.rasStatus, 31, 16⟩
/-- RAS_RETRIES [15:0] of RAS_STATUS. -/
def rasRetries : Field := ⟨.rasStatus, 15, 0⟩
/-- RAS_REGIONS_LOST [52:48] of RAS_SPARES. -/
def rasRegionsLost : Field := ⟨.rasSpares, 52, 48⟩
/-- RAS_SP_REGIONS [47:45] of RAS_SPARES. -/
def rasSpRegions : Field := ⟨.rasSpares, 47, 45⟩
/-- RAS_SP_BLOCKS [44:39] of RAS_SPARES. -/
def rasSpBlocks : Field := ⟨.rasSpares, 44, 39⟩
/-- RAS_SP_CELLS [31:23] of RAS_SPARES. -/
def rasSpCells : Field := ⟨.rasSpares, 31, 23⟩
/-- RAS_SP_COLUMNS [12:0] of RAS_SPARES. -/
def rasSpColumns : Field := ⟨.rasSpares, 12, 0⟩
/-- RAS_TRANSIENTS [63:32] of RAS_COUNTS. -/
def rasTransients : Field := ⟨.rasCounts, 63, 32⟩
/-- RAS_CONTAINED [31:16] of RAS_COUNTS. -/
def rasContained : Field := ⟨.rasCounts, 31, 16⟩
/-- RAS_STEPS [15:0] of RAS_COUNTS. -/
def rasSteps : Field := ⟨.rasCounts, 15, 0⟩
/-- RAS_SEQ_WD_US [31:16] of RAS_CFG. -/
def rasSeqWdUs : Field := ⟨.rasCfg, 31, 16⟩
/-- RAS_TRANS_LIMIT [7:0] of RAS_CFG. -/
def rasTransLimit : Field := ⟨.rasCfg, 7, 0⟩
/-- RAS_LOG_LOST [63:48] of RAS_LOG_CTRL. -/
def rasLogLost : Field := ⟨.rasLogCtrl, 63, 48⟩
/-- RAS_LOG_HEAD [40:32] of RAS_LOG_CTRL. -/
def rasLogHead : Field := ⟨.rasLogCtrl, 40, 32⟩
/-- RAS_LOG_TOTAL [31:0] of RAS_LOG_CTRL. -/
def rasLogTotal : Field := ⟨.rasLogCtrl, 31, 0⟩
/-- RAS_LOG_WORD [63:0] of RAS_LOG. -/
def rasLogWord : Field := ⟨.rasLog, 63, 0⟩
/-- SYS_BOOT_STAGE [63:60] of SYS_BOOT. -/
def sysBootStage : Field := ⟨.sysBoot, 63, 60⟩
/-- SYS_BOOT_SEL [59:58] of SYS_BOOT. -/
def sysBootSel : Field := ⟨.sysBoot, 59, 58⟩
/-- SYS_BOOT_SECONDARY [57:57] of SYS_BOOT. -/
def sysBootSecondary : Field := ⟨.sysBoot, 57, 57⟩
/-- SYS_BOOT_SCAN [56:56] of SYS_BOOT. -/
def sysBootScan : Field := ⟨.sysBoot, 56, 56⟩
/-- SYS_RDY_NO_TIME [43:43] of SYS_BOOT. -/
def sysRdyNoTime : Field := ⟨.sysBoot, 43, 43⟩
/-- SYS_RDY_NO_FABRIC [42:42] of SYS_BOOT. -/
def sysRdyNoFabric : Field := ⟨.sysBoot, 42, 42⟩
/-- SYS_DONE_TIME [41:41] of SYS_BOOT. -/
def sysDoneTime : Field := ⟨.sysBoot, 41, 41⟩
/-- SYS_DONE_FABRIC [40:40] of SYS_BOOT. -/
def sysDoneFabric : Field := ⟨.sysBoot, 40, 40⟩
/-- SYS_DONE_UNITS [39:39] of SYS_BOOT. -/
def sysDoneUnits : Field := ⟨.sysBoot, 39, 39⟩
/-- SYS_DONE_HBM [38:38] of SYS_BOOT. -/
def sysDoneHbm : Field := ⟨.sysBoot, 38, 38⟩
/-- SYS_BOOT_MS [31:0] of SYS_BOOT. -/
def sysBootMs : Field := ⟨.sysBoot, 31, 0⟩
/-- SYS_MAP_VALID[k] of SYS_REGION_MAP_0 and _1 (k counted within the register). -/
def sysMapValid (k : Nat) : Field := ⟨.sysRegionMap, 8 * k + 7, 8 * k + 7⟩
/-- SYS_MAP_PHYS[k] of SYS_REGION_MAP_0 and _1 (k counted within the register). -/
def sysMapPhys (k : Nat) : Field := ⟨.sysRegionMap, 8 * k + 4, 8 * k⟩
/-- HIF_RID[k] of HIF_HOST_RID, 16 bits each. -/
def hifRidAt (k : Nat) : Field := ⟨.hifHostRid, 16 * k + 15, 16 * k⟩
end Fld

/-- The width of a field in bits. -/
def Field.width (f : Field) : Nat := f.hi - f.lo + 1

/-- The greatest value a field holds. -/
def Field.max (f : Field) : Nat := 2 ^ f.width - 1

/-- The BAR0 offset of instance `i` of a register. -/
def RegName.addr (r : RegName) (i : Nat) : Nat := r.info.base + r.info.stride * i

/-- The reset word of a register: its fields' reset values at their places. -/
def RegName.resetWord (r : RegName) : Nat :=
  r.fields.foldl (fun acc f => acc ||| (f.reset <<< f.lo)) 0

/-- The register and instance that an 8-byte-aligned BAR0 offset names; `none` for a reserved offset (R652). -/
def findReg (off : Nat) : Option (RegName × Nat) :=
  RegName.all.findSome? fun r =>
    let k := r.info
    if k.base ≤ off ∧ (off - k.base) % k.stride = 0 ∧ (off - k.base) / k.stride < k.count
    then some (r, (off - k.base) / k.stride) else none

end Sys2Proof.Machine
end

