-- ==== Sys2Proof/Machine/State.lean ====
section
/-! DEFINITION. The state of the block: the queue of waiting commands and every piece of state that the spec names, as
plain data, with State.reset. -/

namespace Sys2Proof.Machine

/-- Why the block stops. -/
inductive Fault where
  /-- A CXL.mem or BAR2 access beyond the address space of the window (R646, R656): raised by the four host memory
  commands. Safe: the hardware has no such address. -/
  | noSuchAddress
  deriving DecidableEq, Repr

/-- Why a command has no meaning. -/
inductive Refusal where
  /-- The command is not modelled. Safe. -/
  | notModelled (mnemonic : String)
  deriving DecidableEq, Repr

/-- What the device puts on its ports, one entry per act (newest first in the state). -/
inductive Out where
  /-- The data of a completed host read; the flag is the poison indication of the path (R813). -/
  | readData (data : Bytes) (poison : Bool)
  /-- A completion as Unsupported Request (R652, R655). -/
  | unsupported
  /-- An MSI-X message (R698). -/
  | msix (vector : Nat)
  /-- A back-invalidate snoop of an HBM line (R647). -/
  | backInvalidate (line : Nat)
  /-- The answer to a CXL.cache snoop: the line leaves the host-line cache (R648). -/
  | snoopAnswer (line : Nat) (held : Bool)
  /-- The old content that an atomic returns to its issuer, none where it was not carried out (R500, R502). -/
  | atomicOld (old : Option Bytes)
  /-- A flit sent on a link (R579). -/
  | flit (link : Nat) (f : Flit)
  /-- The 64 check symbols of a block sent on a link (R576). -/
  | fec (link : Nat) (checks : List Nat)
  /-- A HELLO sent on a link (R601). -/
  | hello (link : Nat) (h : Hello)
  /-- A link-state record sent on a link (R603). -/
  | lsr (link : Nat) (r : Lsr)
  /-- A TIME message: link, step, stamps, time quality (R621, R624). -/
  | timeMsg (link step : Nat) (stamps : List Nat) (hops lock root : Nat)
  /-- A RoCEv2 acknowledgement of a packet (NAK code 0: none; 1 invalid request; 2 remote access error; 3 sequence). -/
  | roceAck (port qpn psn nak : Nat)
  /-- A packet of a requester: its number, that of the request's last packet, the operation, for a WRITE or READ the remote address and key and
  the length, the data of a SEND or WRITE, and the rate of the queue pair (R632, R637). -/
  | roceRequest (port qpn psn last : Nat) (op : RoceOp) (raddr rkey len : Nat) (data : Bytes) (mbits : Nat)
  /-- A READ response, at the rate of the queue pair. -/
  | roceData (port qpn psn : Nat) (data : Bytes) (mbits : Nat)
  /-- A requester's packets sent again, each as it was (R632), at the rate of the queue pair. -/
  | roceResend (qpn first last mbits : Nat)
  /-- A congestion notification (R638). -/
  | cnp (port qpn : Nat)
  /-- An ARP or neighbour-discovery reply: the port's MAC address for the address asked. -/
  | addrReply (port target mac dest : Nat)
  /-- The response to a mailbox command that came over MCTP: result and bytes (R749). -/
  | mctp (result : Nat) (data : Bytes)
  /-- An SPDM answer: request code (0: an error) and bytes; signed or not. -/
  | spdm (code : Nat) (data : Bytes) (signed : Bool)
  /-- A VDD_CORE set point sent over I3C: address and millivolts (R851). -/
  | setPoint (addr mv : Nat)
  /-- What the test port answers: executed, or the BYPASS value (R782, R783). -/
  | testPort (executed : Bool)
  /-- A resident core job handed over (R682). -/
  | coreJob (data : Bytes)
  /-- The proof of a ticket of a resident core, returned to it (R695). -/
  | coreProof (core : Nat) (data : Bytes)
  deriving DecidableEq, Repr

/-- Power, reset and clocks, and the input pins (R826 to R833, R855, R856). -/
structure PowerSt where
  pwrGood : Bool
  resetN : Bool
  /-- The device is held in reset: from a COLD or WARM reset to boot start. -/
  held : Bool
  /-- The thermal trip has stopped the device (R727). -/
  tripped : Bool
  sysclk : Bool
  refclk156 : Bool
  refclk100 : Bool
  /-- The PCIe link is up (R856). -/
  pcieUp : Bool
  bootSel : Nat
  pcieX8 : Bool
  /-- Uptime at boot start, in nanoseconds. -/
  bootNs : Nat
  deriving DecidableEq, Repr

/-- A merging-buffer entry: line (HBM address / 64), home slice (logical region), its masked bytes (offset, byte), and the
uptime at which it was made (R489). -/
structure MbEntry where
  line : Nat
  region : Nat
  bytes : List (Nat × Byte)
  born : Nat
  deriving DecidableEq, Repr

/-- A write that waits for the host's answer to a back-invalidate snoop of its line (R647): its bytes, and the sectors
(address / 32) that it leaves poisoned. -/
structure HeldWrite where
  line : Nat
  addr : Nat
  data : Bytes
  bad : List Nat
  deriving DecidableEq, Repr

/-- A ring beyond its registers (R664 to R673): the doorbell kept, the failed check in progress, the proofs that wait for a
window, the proofs not yet signalled. -/
structure RingRt where
  /-- HIF_DB_TAIL of the newest doorbell not yet worked off. -/
  tail : Nat
  /-- HIF_DB_CRC of that doorbell. -/
  crc : Nat
  /-- A doorbell waits to be acted on. -/
  hasDb : Bool
  /-- Re-reads made since the first failure; none when no check has failed. -/
  rereads : Option Nat
  /-- Proofs that wait behind a blocked proof write, oldest first (R670): each with TK_IRQ. -/
  waiting : List (Bytes × Bool)
  /-- Proofs written since the ring's last message (R698). -/
  unsignalled : Nat
  deriving DecidableEq, Repr

/-- The counts that a D_WORK proof reports, kept per chase (R686). -/
structure WorkCnt where
  retried : Nat
  saturated : Nat
  faulted : Nat
  metaFail : Nat
  tracer : Nat
  handSet : Nat
  hellbox : Nat
  deriving DecidableEq, Repr

/-- A ticket that has begun (R671): its ring (256 to 271 are the resident cores' rings), its 512 bytes, the work counts of
its chase when it was accepted, and what its proof will say once it is done. -/
structure Ticket where
  ring : Nat
  seq : Nat
  raw : Bytes
  snap : WorkCnt
  /-- The ticket's own command has acted. -/
  acted : Bool
  /-- The outcome is fixed; the proof may be written. -/
  done : Bool
  status : Nat
  detail : Bytes
  /-- PF_FLAGS other than PF_PHASE, gathered while the ticket ran. -/
  flags : Nat
  /-- The first poisoned byte offset of a delivery that wrote zeros (R814). -/
  poisonAt : Option Nat
  /-- Where a result delivered to HBM lies, and its length. -/
  dst : Nat
  len : Nat
  /-- The input of a SAMPLE that waits for its slot, and its poisoned parts (offset, length). -/
  input : Bytes
  inputBad : List (Nat × Nat)
  /-- The resident core that posted it has been restarted, or its ring has been disabled in state 3: no proof is written
  (R670, R803). -/
  orphan : Bool
  deriving DecidableEq, Repr

/-- The host interface beyond its registers. -/
structure HostSt where
  /-- Requester IDs of Configuration Requests since the last FUNC reset (R654). -/
  hostSet : List Nat
  rings : List (Nat × RingRt)
  tickets : List Ticket
  /-- Tickets that the resident cores have posted and that have not begun, in the order posted: ring, bytes (R671, R695). -/
  posted : List (Nat × Bytes)
  /-- HBM lines in the snoop filter, most recently used first (R647). -/
  snoop : List Nat
  /-- HBM lines whose back-invalidate snoop the host has not answered (R647). -/
  snoopOut : List Nat
  /-- Device-side writes waiting for a back-invalidate response, oldest first. -/
  heldWrites : List HeldWrite
  /-- Host lines in the host-line cache, most recently used first (R648). -/
  hostLines : List Nat
  deriving DecidableEq, Repr

/-- An on-chip store (R425, R34): tier 0 a cell, 1 a block store, 2 the engine ways of a region, by logical region, block and
cell (those that the tier does not use are 0); tier 6 the SRAM of a spare unit, by physical region and block: a spare cell
(cell 16), a spare block (block 16 or 17, cell 0), or a spare region (block 18). -/
structure Store where
  tier : Nat
  region : Nat
  block : Nat
  cell : Nat
  deriving DecidableEq, Repr

/-- Accesses counted by the logical region, block and cell from which they came (R430). -/
abbrev Sources := List ((Nat × Nat × Nat) × Nat)

/-- Where a backed frame lies: its HBM unit (layout 0 near die 0, 1 near die 1, 2 full; band; first unit), and the tier of
its home with the place of an on-chip home (R425, R426, R471, R472). -/
structure FrameEnt where
  layout : Nat
  band : Nat
  unit : Nat
  tier : Nat
  region : Nat
  block : Nat
  cell : Nat
  /-- The stores that hold copies (R425, R428). -/
  copies : List Store
  heat : Nat
  /-- Lines read and written since the last heat update (R430). -/
  counted : Nat
  /-- Where the accesses of the stroke came from (R430), and the accesses of the regions of die 0 and of die 1 in each of the
  last 16 counted strokes, newest first (R438). -/
  srcs : Sources
  dies : List (Nat × Nat)
  /-- The stroke of the last heat update and of the last write. -/
  heatAt : Nat
  writtenAt : Nat
  pinned : Bool
  /-- An on-chip home that has not been written since it was promoted: its HBM frame is current (R806). -/
  clean : Bool
  /-- Sectors of the HBM frame found uncorrectable since the unit was last placed (R511). -/
  failed : List Nat
  /-- The unit was rehomed with zeros and waits for a full write (R457). -/
  lost : Bool
  /-- The unit is to be rehomed at the next lock-up (R456): 0 no; 1 its HBM can be read; 2 it cannot. -/
  rehome : Nat
  /-- A lock-up of the chase has come since the frame was backed: a query shows it (R463). -/
  shown : Bool
  deriving DecidableEq, Repr

/-- A hint range of a chase (R444, R445). -/
structure HintRange where
  base : Nat
  len : Nat
  flags : Nat
  tier : Nat
  affinity : Nat
  deriving DecidableEq, Repr

/-- A band assigned to a layout with its slot list: pseudo-channel numbers stack × 64 + pc (R469, R470). -/
structure BandEnt where
  band : Nat
  layout : Nat
  slots : List Nat
  deriving DecidableEq, Repr

/-- The spare rows of one bank: for each spare taken, the row redirected to it, and the spares marked bad (R514, R515). -/
structure BankRepair where
  /-- Bank key: (stack × 64 + pc) × 32 + bank. -/
  key : Nat
  /-- (spare, row) of the spares in use. -/
  used : List (Nat × Nat)
  bad : List Nat
  deriving DecidableEq, Repr

/-- HBM beyond its registers. -/
structure HbmSt where
  bands : List BandEnt
  /-- Lines of retired frames: HBM address / 256 (R516). -/
  retired : List Nat
  repairs : List BankRepair
  /-- Retired frames: stack × 64 + pseudo-channel of each (R516, R517). -/
  retiredAt : List Nat
  /-- Sectors corrected since their row was last repaired and the uptime of the correction: HBM address / 32; and every sector that
  has been corrected and written back (R510, R513). -/
  corrected : List (Nat × Nat)
  writtenBack : List Nat
  /-- Pseudo-channels that have passed TEST_PC and will return at the next start-up (stack × 64 + pc) (R520). -/
  tested : List Nat
  returning : List Nat
  /-- Uptimes of the parity failures of each pseudo-channel within the last millisecond (R508). -/
  parity : List (Nat × List Nat)
  /-- Sectors (HBM address / 32) whose transfers in the command in hand fail for good: reads that return poison, and writes that
  leave it (R507). -/
  badReads : List Nat
  badWrites : List Nat
  deriving DecidableEq, Repr

/-- An accumulation group that is not FREE (R180): state 1 OPEN or 2 CLOSING, poison flag, accumulators in row order, what
it was opened for, whether it has taken an ADD_WIDE, and its opening accumulators (R794). -/
structure AccGroup where
  st : Nat
  poison : Bool
  acc : List Int
  shape : GroupShape
  addWide : Bool
  opening : List Int
  openPoison : Bool
  deriving DecidableEq, Repr

/-- A tile that waits for a group of a cell (R182): the cell, the group that it asked for, whether any group serves it (all
eight were in use), and the group as it will open. -/
structure OpenWait where
  cell : Nat
  g : Nat
  any : Bool
  grp : AccGroup
  deriving DecidableEq, Repr

/-- A stipple buffer entry (R260): valid by being listed. -/
structure StippleEnt where
  key : Nat
  value : Int
  exp : Int
  poison : Bool
  deriving DecidableEq, Repr

/-- What a hellbox record says (R264). -/
structure HellRec where
  key : Nat
  value : Int
  poison : Bool
  deriving DecidableEq, Repr

/-- The stipple buffer and hellbox segment of one block (R260 to R267). -/
structure StippleSt where
  entries : List StippleEnt
  /-- The records of the hellbox segment, 32 bytes each. -/
  hell : List Bytes
  /-- Compaction has freed no record: further contributions drop and the merge is poisoned (R266). -/
  full : Bool
  /-- An entry has become uncorrectable: the merge is poisoned (R792). -/
  lost : Bool
  deriving DecidableEq, Repr

/-! ### Galleys (R302 to R368) -/

/-- A galley state (R316 to R318): number; stage 0 incoming open, 1 incoming sealed, 2 serving, 3 draining; the number of the
state that began from the zeros that an unlisted frame holds; its frames of slots, tags and blank slug, by their number in
the galley, each with its key in ChaseSt.frames. Two states share a frame by listing the same key. -/
structure GalState where
  num : Nat
  stage : Nat
  root : Nat
  map : List (Nat × Nat)
  deriving DecidableEq, Repr

/-- A request record of a sharded lookup (R353). -/
structure LookupReq where
  slug : Nat
  coef : Int
  bag : Nat
  origin : Nat
  state : Nat
  deriving DecidableEq, Repr

/-- A partial record of a sharded lookup (R353): RS_EMIN, and exact element values on the 2^-64 scale, under MAX with winners; no
values at all stand for the notice that a record of the bag was discarded (R355). -/
structure LookupPartial where
  bag : Nat
  /-- Ordinal of the member to which the partial returns. -/
  origin : Nat
  emin : Int
  vals : List WideRec
  deriving DecidableEq, Repr

/-- A bag that a SPLIT keeps for its COMBINE (R352, R355): the exact partial values (none for a bag fault), c[b], the
indices mapped to the blank slug, the weight exponent, and whether a record of it was lost or poisoned. -/
structure HeldBag where
  vals : List WideRec
  count : Nat
  blanks : Nat
  ew : Int
  poison : Bool
  deriving DecidableEq, Repr

/-- A SPLIT kept for its COMBINE (R352, R354): its stroke ordinal, its GA_POOL, the place of its winner array (0: none), its bags. -/
structure SplitHeld where
  begunAt : Nat
  pool : Nat
  winners : Nat
  bags : List HeldBag
  deriving DecidableEq, Repr

/-- A delta record (R362): Q modulo 2^64, the index, the element. -/
structure DeltaRec where
  q : Nat
  index : Nat
  elem : Nat
  dest : Nat
  deriving DecidableEq, Repr

/-- The counters of a galley, shown through the GAL block (they belong to the galley). -/
structure GalCnt where
  missing : Nat
  invalid : Nat
  queueDrops : Nat
  poisonDrops : Nat
  blankGrads : Nat
  refetch : Nat
  unpooled : Nat
  rounded : Nat
  publishSat : Nat
  masterWrap : Nat
  bagFaults : Nat
  gradFaults : Nat
  deriving DecidableEq, Repr

def GalCnt.zero : GalCnt := ⟨0, 0, 0, 0, 0, 0, 0, 0, 0, 0, 0, 0⟩

/-- A loaded galley on this member. -/
structure GalleySt where
  /-- The 64 bytes of its declaration (R79). -/
  decl : Bytes
  sharded : Bool
  em : Int
  emFixed : Bool
  /-- The next state number (R316). -/
  nextNum : Nat
  states : List GalState
  /-- A switch request of this member waits for the root (R328). -/
  pending : Bool
  /-- The boundary for which the root has named the switch. -/
  named : Option Nat
  /-- The frames of the master (R304, R327): by their number, each with its key in ChaseSt.frames; unlisted ones are zero. -/
  masterMap : List (Nat × Nat)
  /-- The slugs whose dirty bit is set, by local row (R364). -/
  dirty : List Nat
  /-- The frames of the guest copies' slots and tags (R452). -/
  guestMap : List (Nat × Nat)
  reqOut : List LookupReq
  reqIn : List LookupReq
  partOut : List LookupPartial
  splits : List SplitHeld
  deltaOut : List DeltaRec
  /-- Begun-stroke ordinal of the last SCATTER into the galley on this member (R368). -/
  scatterAt : Option Nat
  /-- The load status with which the last PUBLISH ended: OK, or NO_SPACE (R319). -/
  published : Nat
  cnt : GalCnt
  deriving DecidableEq, Repr

/-- A migration decided and not committed (R434, R442): kind 0 the home of frame `key`, 1 a copy of frame `key`, 2 a
move of frame `key` to the other die's stacks, 3 a copy of slug `slug` of galley `key`, 4 the drop of a copy of frame
`key`, 5 the drop of a copy of slug `slug` of galley `key`; the store concerned, the bytes charged, for kind 2 the HBM
unit that it goes to, and whether a lock-up has carried it over (R117). -/
structure MigrationEnt where
  kind : Nat
  key : Nat
  slug : Nat
  store : Store
  charge : Nat
  layout : Nat
  band : Nat
  unit : Nat
  late : Bool
  deriving DecidableEq, Repr

/-- A slug that the census counts (R430 to R432): its heat, the accesses since the last update and where they came from, and
whether it stands in the table of its die or only counts within the stroke. -/
structure SlugEnt where
  galley : Nat
  slug : Nat
  heat : Nat
  counted : Nat
  heatAt : Nat
  srcs : Sources
  tracked : Bool
  deriving DecidableEq, Repr

/-- A decoded copy of a slug on chip (R427): the state number that it was read from, its store, its content, and whether a
PIN of its galley holds it (R446). -/
structure SlugCopy where
  galley : Nat
  slug : Nat
  state : Nat
  store : Store
  row : Slug
  pinned : Bool
  deriving DecidableEq, Repr

/-- A guest copy in this member's HBM (R452 to R455): the galley, the slug, the state number it was read from, its place among
the guest slots of the galley. -/
structure GuestEnt where
  galley : Nat
  slug : Nat
  state : Nat
  pos : Nat
  deriving DecidableEq, Repr

/-- A split plan of a chase, kept between strokes, most recently used first (R403): what it was built for (graph record,
GS_GEN, GS_EDGES, T, chain), the rows that it cuts with their bounds, and its segments: hop (region × 16 + block), chase
address of its edges, bytes. -/
structure SplitPlan where
  key : List Nat
  rows : List (Nat × Nat × Nat)
  segments : List (Nat × Nat × Nat)
  /-- Segments whose residence the imposition engine has decided (R450). -/
  placed : Nat
  deriving DecidableEq, Repr

/-! ### Marks beyond their registers (R525 to R539) -/

/-- A wait on a mark. -/
inductive MarkWait where
  /-- The plate wait of a chase slot; for a barrier mark, the number of flips that must be exceeded (R537, R539). -/
  | plate (slot : Nat) (flips : Nat)
  /-- A MARK_WAIT ticket (R680): ring, sequence, and the flips that must be exceeded for a barrier mark. -/
  | ticket (ring seq : Nat) (flips : Nat)
  deriving DecidableEq, Repr

/-- A mark beyond its registers: ME_INITIAL, the flips made so far, the flips before the member's last plate arrival, and
its waits in the order in which they began. -/
structure MarkRt where
  initial : Nat
  flips : Nat
  arrivedAt : Option Nat
  waits : List MarkWait
  deriving DecidableEq, Repr

/-! ### Chases -/

/-- The ports of a unit inside a plate (R141 to R145): the unit; for each input of its tiles, those of its share that have not arrived
and those that wait (tokens); the tile buffers free at its consumer (credits). -/
structure PortSt where
  unit : Nat
  left : List Nat
  tokens : List Nat
  credits : Nat
  deriving DecidableEq, Repr

/-- The ports of a plate: those of the cells, rising by unit, those of its chain's hops in order, and the unit or block that
each arbiter and router granted last (R143). -/
structure PortFlow where
  cells : List PortSt
  hops : List PortSt
  last : List (Nat × Nat)
  deriving DecidableEq, Repr

/-- No port. -/
def PortFlow.empty : PortFlow := ⟨[], [], []⟩

/-- The plate in hand: its index, whether its wait is over, whether it has started, whether its work is done, the held
regions in which it has completed, and the summary gathered from them. -/
structure PlateRt where
  index : Nat
  waiting : Bool
  waitDone : Bool
  started : Bool
  worked : Bool
  regionsDone : List Nat
  contrib : SummarySlot
  /-- The regions' ink is lent during this wait (R550). -/
  lent : Bool
  /-- Ordinals of the members to which the plate has sent data (R540). -/
  sentTo : List Nat
  /-- The ports of its units (R141 to R145). -/
  flow : PortFlow
  /-- Output tiles of which a group was poisoned by hardware (R794). -/
  hurt : List Nat
  deriving DecidableEq, Repr

/-- The ink of a chase beyond INK_CHASE (R706 to R718): the greatest IC_INK of the classes of plates started in the
stroke, the ink on loan, and the migration set-aside in force. -/
structure ChaseInk where
  request : Nat
  lent : Nat
  setaside : Nat
  /-- Sixty-fourths by which the power clamp has lowered the duty since the grant (R719). -/
  cut : Nat
  deriving DecidableEq, Repr

/-- A chase slot beyond its registers. -/
structure ChaseSt where
  /-- The forme's bytes; empty when the slot holds none. -/
  forme : Bytes
  /-- The idle state before JOINING (R99). -/
  priorIdle : Nat
  /-- Joined members with their digests, and the time of the last join. -/
  joined : List (Nat × Bytes)
  joinedAt : Nat
  /-- When the join timeout that stood at the start request ends (R99). -/
  joinBy : Nat
  /-- The start stroke and epoch announced (R100). -/
  startStroke : Option Nat
  stopAt : Option Nat
  /-- A stroke has begun since the start. -/
  begun : Bool
  /-- Strokes begun since the start: the ordinal that galley lookups count in. -/
  begunCount : Nat
  strokeStart : Nat
  /-- Root: the boundary to judge next, and the done messages held (R123). -/
  judge : Nat
  dones : List (Nat × Nat)
  /-- The GO verdict received and not yet acted on: boundary and start time (R124). -/
  verdict : Option (Nat × Nat)
  /-- Root: switches requested by members: galley, ordinal, state number (R328). -/
  switchReqs : List (Nat × Nat × Nat)
  finished : Bool
  doneSent : Bool
  inDist : Bool
  lateCounted : Bool
  /-- The chase follows an unset counter (R840). -/
  plate : PlateRt
  slots : List SummarySlot
  /-- The retry point (R797), whether the stroke is replay-safe (R799), and the retries made in it (R801). -/
  retryPlate : Nat
  retrySlots : List SummarySlot
  replaySafe : Bool
  retries : Nat
  /-- Regions whose substitution is prepared: the chase does no work (R807). -/
  substituting : Bool
  readLines : List Nat
  /-- Active sets of the tracer per row tile (R259). -/
  tracer : List (Nat × List Nat)
  work : WorkCnt
  /-- A request to realign at the next lock-up (R553). -/
  realign : Bool
  frames : List (Nat × FrameEnt)
  hints : List HintRange
  galleys : List (Nat × GalleySt)
  /-- The serial number of the next galley frame: galley frames have keys from 2^32 on. -/
  nextGal : Nat
  /-- Sectors (chase address / 32) that a plate could not write for want of backing: they read as poison (R422). -/
  holes : List Nat
  slugs : List SlugEnt
  slugCopies : List SlugCopy
  guests : List GuestEnt
  /-- Guest rows that owners have sent and that wait for the next lock-up (R453). -/
  guestIn : List GuestCopy
  migrations : List MigrationEnt
  plans : List SplitPlan
  /-- Root of an EXCHANGE summary: contributions held (R599), by ordinal. -/
  sumParts : List (Nat × SummarySlot)
  /-- Outbound array delta records by SR_ARRAY, inbound delta messages that wait for their EXCHANGE (R598): kind, target,
  source node, message, records. -/
  arrayOut : List (Nat × List DeltaRec)
  /-- SR_ELEMENTS of each chase array that a SCATTER of this member has aimed at, by SR_ARRAY. -/
  arrayElems : List (Nat × Nat)
  deltaIn : List (Nat × Nat × Nat × Nat × List DeltaRec)
  /-- Delta targets (kind, target) of which a received record found no queue room since their last EXCHANGE (R365). -/
  deltaLost : List (Nat × Nat)
  /-- Delta targets (kind, target) whose EXCHANGE has begun in the stroke. -/
  exchBegun : List (Nat × Nat)
  /-- The combined summary has come for the EXCHANGE in hand. -/
  sumDone : Bool
  /-- The chase-scope REDUCE in hand has sent its records, and the records of other members that have come: plate, ordinal,
  piece, bytes (R205, R211). -/
  redSent : Bool
  redIn : List (Nat × Nat × Nat × Bytes)
  ink : ChaseInk
  /-- A time step waits for the boundary `stepAt` of this chase (R112, R742). -/
  pendingStep : Option Int
  stepAt : Nat
  /-- The boundaries that the last step of time has slipped: from the first on, below the second (R113). -/
  skipFrom : Nat
  skipTo : Nat
  /-- By how much a step has moved the start that the GO in hand names (R742). -/
  goShift : Int
  /-- IMP_BUDGET_PM and IMP_FREEZE as the last lock-up took them (R461). -/
  budgetPm : Nat
  frozen : Bool
  deriving DecidableEq, Repr

def PlateRt.none : PlateRt := ⟨0, false, false, false, false, [], SummarySlot.empty, false, [], PortFlow.empty, []⟩

def WorkCnt.zero : WorkCnt := ⟨0, 0, 0, 0, 0, 0, 0⟩

def ChaseInk.none : ChaseInk := ⟨0, 0, 0, 0⟩

/-- An empty chase slot. -/
def ChaseSt.empty : ChaseSt :=
  { forme := [], priorIdle := 0, joined := [], joinedAt := 0, joinBy := 0, startStroke := none, stopAt := none, begun := false
    begunCount := 0, strokeStart := 0, judge := 0, dones := [], verdict := none, switchReqs := [], finished := false
    doneSent := false, inDist := false, lateCounted := false, plate := PlateRt.none
    slots := List.replicate 8 SummarySlot.empty, retryPlate := 0, retrySlots := List.replicate 8 SummarySlot.empty
    replaySafe := true, retries := 0, substituting := false, readLines := [], tracer := [], work := WorkCnt.zero
    realign := false, frames := [], hints := [], galleys := [], nextGal := 0, holes := [], slugs := [], slugCopies := [], guests := [], guestIn := [], migrations := [], plans := []
    sumParts := [], arrayOut := [], arrayElems := [], deltaIn := [], deltaLost := [], exchBegun := [], sumDone := false, redSent := false, redIn := [], ink := ChaseInk.none, pendingStep := none, stepAt := 0, skipFrom := 0, skipTo := 0, goShift := 0, budgetPm := 50, frozen := false }

/-- A sample slot (R157, R691 to R694): state 0 FREE, 1 BOUND, 2 ACTIVE, 3 DONE; the owning chase, its ticket, the stretch
index, tokens, first token, and whether the result copy has begun. -/
structure SampleSt where
  st : Nat
  slot : Nat
  ring : Nat
  seq : Nat
  stretch : Nat
  tokens : Nat
  first : Nat
  copying : Bool
  deriving DecidableEq, Repr

/-! ### Fabric (R570 to R626) -/

/-- A link beyond its registers. -/
structure LinkSt where
  signal : Bool
  /-- 0: no retrain; 1: a retrain runs; 2: a second one after one that failed (R582). -/
  failed : Nat
  /-- READY does not wait for the link: it had no signal at the start of BRING_UP, or its first attempt since has ended
  (R837). -/
  tried : Bool
  /-- Next sequence to send, flits not acknowledged with the number of times each was sent (R579). -/
  txSeq : Nat
  unacked : List (Flit × Nat)
  /-- Next sequence expected, and whether an acknowledgement or a NAK is owed (R580). -/
  rxSeq : Nat
  ackOwed : Bool
  nakOwed : Bool
  /-- Uptimes of the NAKs received within the last millisecond (R582). -/
  naks : List Nat
  /-- Credits held per virtual channel, and credits to return (R585). -/
  credits : List Nat
  toReturn : List Nat
  /-- Link messages that wait for a credit of VC 0, oldest first: type, FL_ARG, and what the message says (R585). -/
  waitOut : List (Nat × Nat × Out)
  /-- The flits of the FEC block that is being sent, 256 bytes each; the flits of the current block that have come, and whether it
  is uncorrectable (R575, R577). -/
  txBlock : List Bytes
  /-- The queue served last on this link per output priority (R586). -/
  turns : List (Nat × Nat)
  rxPos : Nat
  rxBad : Bool
  peer : Option Hello
  /-- Unacknowledged flits of channels other than VC 0 wait for the link to be ACTIVE again (R573, R582). -/
  again : Bool
  deriving DecidableEq, Repr

/-- A link as at reset. -/
def LinkSt.empty : LinkSt := ⟨false, 0, false, 0, [], 0, false, false, [], [0, 0, 0, 0, 0, 0, 0, 0], [0, 0, 0, 0, 0, 0, 0, 0], [], [], [], 0, false, none, false⟩

/-- A message that this device sent and that is not acknowledged, or that waits for a place (R587, R590, R593): `slot` is
the chase slot and `exch` says that an EXCHANGE or REDUCE plate waits for it. -/
structure MsgRec where
  dst : Nat
  msg : Nat
  typ : Nat
  chase : Nat
  arg : Nat
  data : Bytes
  resends : Nat
  slot : Nat
  exch : Bool
  deriving DecidableEq, Repr

/-- The fabric beyond its registers. -/
structure FabSt where
  links : List (Nat × LinkSt)
  /-- The database: the newest record of each serial number with the uptime of its last refresh, by serial number. -/
  lsdb : List (Lsr × Nat)
  ownGen : Nat
  /-- Next message ID for each destination node. -/
  nextMsg : List (Nat × Nat)
  sent : List MsgRec
  queued : List MsgRec
  /-- Per source node: watermark and the completed message IDs of the window (R591). -/
  rx : List (Nat × Nat × List Nat)
  /-- Flits of messages not complete yet: source, message, flits. -/
  parts : List (Nat × Nat × List Flit)
  /-- Flits that wait for a credit (R610), each with the link and channel whose buffer it occupies (link 255: it is this
  device's own). -/
  held : List (Flit × Nat × Nat)
  /-- Flits delivered on this device and not yet acted on. -/
  inbox : List Flit
  /-- Messages complete but for data that waits for the host (R547, R647): a flit of each, and the HBM lines. -/
  unseen : List (Flit × List Nat)
  /-- Uptime of the last change of the database (R604, R613). -/
  changedAt : Nat
  /-- The node IDs of the last settlement, each with the serial number of its device (R604). -/
  nodes : List (Nat × Nat)
  /-- Tables have been built since the last settlement that left the device without a node ID (R617). -/
  built : Bool
  deriving DecidableEq, Repr

def FabSt.empty : FabSt := ⟨[], [], 0, [], [], [], [], [], [], [], [], 0, [], false⟩

/-! ### Ethernet and RoCEv2 (R627 to R638) -/

/-- A request that this device sent as requester: first and last PSN, whether it is a READ, the HBM or chase address that
a READ response fills, and the bytes received so far. -/
structure RoceReq where
  first : Nat
  last : Nat
  read : Bool
  addr : Nat
  slot : Nat
  got : Nat
  /-- Retries made after a timeout or a sequence error, and after a receiver that was not ready. -/
  retries : Nat
  rnr : Nat
  deriving DecidableEq, Repr

/-- A queue pair: its 64-byte record (R681), chase slot, next send and expected receive PSN, the state (true: error), the
congestion level of R637 and the requests outstanding. -/
structure Qp where
  slot : Nat
  raw : Bytes
  txPsn : Nat
  rxPsn : Nat
  err : Bool
  lv : Nat
  heard : Bool
  /-- Uptime of the last drop of the level (none: no drop yet). -/
  dropAt : Option Nat
  /-- Uptime of the last congestion notification sent (R638). -/
  cnpAt : Option Nat
  /-- An RDMA WRITE message in progress as responder: the key, the next address and the bytes still to come. -/
  writeAt : Option (Nat × Nat × Nat)
  reqs : List RoceReq
  /-- Requests of the resident cores that wait behind 16 outstanding READs, oldest first (R632). -/
  asks : List CoreAsk
  deriving DecidableEq, Repr

/-- A memory region (R633): slot (none: HBM addresses), base, length, remote read and write rights, valid. -/
structure Mr where
  slot : Option Nat
  base : Nat
  len : Nat
  rd : Bool
  wr : Bool
  valid : Bool
  deriving DecidableEq, Repr

/-- A request taken as responder that waits for its turn or until data is visible (R634): the queue pair, the packet, whether a
completed SEND signals the receive queue's mark, the HBM lines that wait for the host (R647), and for a READ its key, address and length. -/
structure RoceWait where
  qpn : Nat
  psn : Nat
  send : Bool
  lines : List Nat
  read : Option (Nat × Nat × Nat)
  deriving DecidableEq, Repr

/-- Ethernet beyond its registers: queue pairs by number, memory regions by key, requests whose acknowledgement waits,
oldest first. -/
structure EthSt where
  qps : List (Nat × Qp)
  mrs : List (Nat × Mr)
  waits : List RoceWait
  /-- The last packet of the request completed last as responder, for each queue pair that has completed one (R634). -/
  done : List (Nat × Nat)
  deriving DecidableEq, Repr

/-! ### Ink, pins and time (R703 to R743) -/

/-- Power admission beyond its registers. -/
structure InkSt where
  /-- THROTTLE_N is low. -/
  low : Bool
  /-- An assertion is in force: qualified and not released (R721). -/
  asserted : Bool
  /-- Slots that hold a grant, youngest first (R715). -/
  order : List Nat
  /-- Acknowledged VDD_CORE set points of the four dies in millivolts, and those whose last write failed (R852). -/
  setPoints : List Nat
  nacked : List Nat
  /-- The installer envelope in force, in watts: that of INK_INSTALL_W since the last lock-up (R703, R755). -/
  installed : Nat
  deriving DecidableEq, Repr

/-- Time beyond its registers. -/
structure TimeSt where
  /-- Fraction of the counter in units of 10^-8 ns. -/
  sub : Nat
  /-- Counter stamp of the last accepted edge, on the counter as it stands, and the edges accepted since the reference (R736). -/
  lastEdge : Option Int
  good : Nat
  /-- An edge was accepted since the start of BRING_UP (R837). -/
  accepted : Bool
  /-- Stamps of the edges rejected within the last second (R737). -/
  rejects : List Int
  /-- The counter has locked since the COLD reset (R739). -/
  locked : Bool
  /-- Frequency estimate in 0.01 ppm. -/
  freq : Int
  /-- t1, t2 and t3 of the TIME exchange in progress with the parent (R621), in units of 2^-16 ns. -/
  t1 : Nat
  t2 : Nat
  t3 : Nat
  deriving DecidableEq, Repr

/-! ### Security (R746 to R786) -/

/-- An authorisation in force (R760): kind (1 DEBUG_UNLOCK, 2 REPAIR_ACCESS, 3 DEBUG_SESSION), scope or mask, the uptime
at which it lapses, and the credentials that signed it. -/
structure Auth where
  kind : Nat
  mask : Nat
  untilNs : Nat
  creds : List Nat
  deriving DecidableEq, Repr

/-- The network identity of a port (R630). -/
structure NetId where
  mac : Nat
  ip4 : Nat
  ip6 : Nat
  deriving DecidableEq, Repr

/-- The installer settings record (R756). -/
structure Settings where
  watts : Option Nat
  node : Option Nat
  name : Nat
  topo : Nat
  x : Nat
  y : Nat
  z : Nat
  nets : List NetId
  deriving DecidableEq, Repr

def Settings.empty : Settings := ⟨none, none, 0, 0, 0, 0, 0, [⟨0, 0, 0⟩, ⟨0, 0, 0⟩, ⟨0, 0, 0⟩, ⟨0, 0, 0⟩]⟩

/-- A checkpoint: CE_SEQ and hash of its last entry, the RPMB counter value and TIME_NS, and the identity key's signature (R777). -/
structure Checkpoint where
  seq : Nat
  hash : Bytes
  rpmb : Nat
  time : Nat
  sig : Bytes
  deriving DecidableEq, Repr

/-- The security island, its eMMC records and the colophon beyond their registers. -/
structure SecSt where
  /-- The mailbox buffer by offset; unlisted bytes are zero. -/
  buf : List Host.Cell
  /-- Unused challenges, oldest first, with the uptime of their issue (R752). -/
  challenges : List (Nat × Nat)
  /-- Operator and installer credentials, and the maker credentials in force. -/
  creds : List Cred
  makers : List Cred
  /-- The role table and installer settings that stay in the eMMC while no boot can read them (R772). -/
  hidden : Option (List Cred × Settings)
  auths : List Auth
  /-- The stored fence record (none: never written), and a written one that waits for a reset. -/
  fence : Option Bytes
  fencePending : Option Bytes
  /-- The fences applied since boot: the 576 bytes in force. -/
  applied : Bytes
  settings : Settings
  /-- The images that FW_STAGE has put into the eMMC's firmware slots: 256 × slot (0 primary, 1 secondary) + kind, and bytes (R755, R756). -/
  slots : List (Nat × Bytes)
  /-- The versions that RPMB holds of the role table, the installer settings and the fence record: its counter at their last write (R770). -/
  roleVer : Nat
  settingsVer : Nat
  fenceVer : Nat
  minSvn : Nat
  /-- The identity key is usable; ZEROISE has destroyed it. -/
  identity : Bool
  zeroised : Bool
  /-- Colophon entries by sequence number, oldest first; the checkpoints, newest first; the RPMB counter; the uptime of
  the last checkpoint. -/
  colophon : List (Nat × Bytes)
  nextSeq : Nat
  ckpts : List Checkpoint
  rpmb : Nat
  ckptAt : Nat
  /-- The hash of the newest checkpoint as RPMB holds it (R777). -/
  rpmbHash : Bytes
  /-- The measurements of the firmware that has booted, indices 2 to 5 (R774). -/
  measured : List Bytes
  /-- The highest security version of the images that have booted (R769). -/
  bootSvn : Nat
  /-- SPDM: version, capabilities and algorithms agreed on. -/
  spdm : Nat
  deriving DecidableEq, Repr

/-! ### Reliability (R789 to R811) -/

/-- A compute unit: level (0 column, 1 cell, 2 block, 3 region) and its physical place. -/
structure PhysUnit where
  level : Nat
  region : Nat
  block : Nat
  cell : Nat
  col : Nat
  deriving DecidableEq, Repr

/-- A substitution that is prepared and waits for a lock-up (R806 to R808): level, the logical place, the spare. -/
structure Subst where
  level : Nat
  region : Nat
  block : Nat
  cell : Nat
  spare : Nat
  deriving DecidableEq, Repr

/-- Spares, maps and failures (R804 to R811). -/
structure RasSt where
  failed : List PhysUnit
  bad : List PhysUnit
  /-- Logical column that a cell's spare column carries: key (physical region × 18 + block) × 17 + cell. -/
  colMap : List (Nat × Nat)
  /-- Logical cell that a block's spare cell carries: key physical region × 18 + block. -/
  cellMap : List (Nat × Nat)
  /-- Logical block that a spare block carries: key physical region × 2 + spare. -/
  blockMap : List (Nat × Nat)
  prepared : List Subst
  /-- Transients of the last hour per column: key cell key × 33 + column, uptimes. -/
  transients : List (Nat × List Nat)
  /-- Uptime of the last sequencer fault per physical region. -/
  seqFaults : List (Nat × Nat)
  /-- Corrected events within the second: (code, place), uptime of the record, events since (R816). -/
  recent : List ((Nat × Nat) × Nat × Nat)
  /-- Spare rows used in each SRAM macro: the unit, the macro's number in it, the count (R791). -/
  macros : List (PhysUnit × Nat × Nat)
  /-- Uptime of the last vector-engine run that failed its residue check on a cell. -/
  runFaults : List (PhysUnit × Nat)
  /-- The registers of the repair record as the eMMC keeps them over a COLD reset (R811): BAR0 offset and word. -/
  saved : List (Nat × Word)
  deriving DecidableEq, Repr

/-- The whole state of the block. -/
structure State where
  /-- The commands that wait, first in, first out. -/
  pending : List Instr
  /-- The model's counter that picks fresh free values. -/
  freeIdx : Nat
  /-- The model's count of elapsed nanoseconds. -/
  upNs : Nat
  pw : PowerSt
  /-- Every register of BAR0 with its field values: BAR0 offset and word, offsets strictly rising, none equal to the
  register's reset word. -/
  regs : List (Nat × Word)
  /-- The MSI-X table in 64-bit words (offset / 8 in the table) and the pending bits (R653, R698). -/
  msix : List (Nat × Word)
  msixPend : List Nat
  out : List Out
  host : HostSt
  /-- Host memory as the device reads and writes it: part of the block's environment. -/
  hostMem : List Host.Cell
  /-- HBM by HBM address; on-chip homes and locked scratch of slot c at (c + 1) × 2^44 + chase address. -/
  mem : List Host.Cell
  /-- Poisoned sectors: location / 32. -/
  poison : List Nat
  mb : List MbEntry
  /-- Cached lines of each set with their ways, most recently used first: key home region × 16,384 + set (R476 to R479). -/
  rcTags : List (Nat × List (Nat × Nat))
  hbm : HbmSt
  chases : List ChaseSt
  samples : List (Nat × SampleSt)
  /-- Accumulation groups that are not FREE: key cell × 8 + group (R178 to R184). -/
  groups : List (Nat × AccGroup)
  /-- Tiles that wait for a group, oldest first (R182). -/
  openWaits : List OpenWait
  /-- Vector engines that have run: key of the cell. An unlisted engine is as after its start with lane 0 active (vecStart 1). -/
  engines : List (Nat × VecEngine)
  /-- Stipple buffers in use: key region × 16 + block. -/
  stipple : List (Nat × StippleSt)
  marks : List (Nat × MarkRt)
  fab : FabSt
  eth : EthSt
  ink : InkSt
  time : TimeSt
  sec : SecSt
  ras : RasSt
  deriving DecidableEq, Repr

/-- The security island as delivered: no record stored, no colophon entry, nothing applied yet. -/
def SecSt.empty : SecSt :=
  { buf := [], challenges := [], creds := [], makers := [], hidden := none, auths := [], fence := none, fencePending := none, applied := []
    settings := Settings.empty, slots := [], roleVer := 0, settingsVer := 0, fenceVer := 0, minSvn := 0, identity := true, zeroised := false, colophon := []
    nextSeq := 0, ckpts := [], rpmb := 0, ckptAt := 0, rpmbHash := List.replicate 32 0, measured := [], bootSvn := 0, spdm := 0 }

def RasSt.empty : RasSt := ⟨[], [], [], [], [], [], [], [], [], [], [], []⟩

/-- The machine right after reset: power is good, the clocks run, RESET_N is high, and the device still holds itself in
reset, in stage RESET with every register at its reset value; BOOT_START, then READY bring it up (R829, R834). -/
def State.reset : State :=
  { pending := [], freeIdx := 0, upNs := 0
    pw := { pwrGood := true, resetN := true, held := true, tripped := false, sysclk := true, refclk156 := true
            refclk100 := true, pcieUp := false, bootSel := 0, pcieX8 := false, bootNs := 0 }
    regs := [], msix := [], msixPend := [], out := []
    host := { hostSet := [], rings := [], tickets := [], posted := [], snoop := [], snoopOut := [], heldWrites := [], hostLines := [] }
    hostMem := [], mem := [], poison := [], mb := [], rcTags := []
    hbm := { bands := [], retired := [], retiredAt := [], repairs := [], corrected := [], writtenBack := [], tested := [], returning := []
             parity := [], badReads := [], badWrites := [] }
    chases := List.replicate 16 ChaseSt.empty, samples := [], groups := [], openWaits := [], engines := [], stipple := [], marks := []
    fab := FabSt.empty
    eth := { qps := [], mrs := [], waits := [], done := [] }
    ink := { low := false, asserted := false, order := [], setPoints := [750, 750, 750, 750], nacked := [], installed := 1400 }
    time := { sub := 0, lastEdge := none, good := 0, accepted := false, rejects := [], locked := false, freq := 0
              t1 := 0, t2 := 0, t3 := 0 }
    sec := SecSt.empty
    ras := RasSt.empty }

end Sys2Proof.Machine
end

