-- ==== Sys2Proof/Machine/Tiles.lean ====
section
/-! DEFINITION. Tile arrays (R222), the tile header and blocks (R223 to R229), the metadata checks (R241), reading a tile
back to its dense lines, and the store compressor's tile forms (R244 to R249). Pure functions of bytes. -/

namespace Sys2Proof.Machine

/-- The least multiple of 64 at or above `n`. -/
def pad64 (n : Nat) : Nat := (n + 63) / 64 * 64

/-- Bytes padded with zeros to a multiple of 64. -/
def padBytes64 (bs : Bytes) : Bytes := bs ++ List.replicate (pad64 bs.length - bs.length) 0

/-- The division of two naturals, rounded up. -/
def ceilDiv (a b : Nat) : Nat := (a + b - 1) / b

/-- A tile header (R223). -/
structure TileHdr where
  form : Nat
  fmt : Nat
  nm : Nat
  flags : Nat
  lines : Nat
  groups : Nat
  valid : Nat
  nnz : Nat
  exp : Int
  metaLen : Nat
  valueLen : Nat
  lineTile : Nat
  kTile : Nat
  reservedZero : Bool
  deriving DecidableEq, Repr

/-- The header of a tile's bytes. -/
def tileHdrOf (b : Bytes) : TileHdr :=
  { form := u8At b 0, fmt := u8At b 1, nm := u8At b 2, flags := u8At b 3, lines := u8At b 4, groups := u8At b 5
    valid := u16At b 6, nnz := u16At b 8, exp := sextNat 8 (u8At b 10), metaLen := u32At b 12, valueLen := u32At b 16
    lineTile := u32At b 24, kTile := u32At b 28
    reservedZero := u8At b 11 == 0 && u32At b 20 == 0 && allZero (slice b 32 32) }

def TileHdr.poisoned (h : TileHdr) : Bool := bitOf h.flags 0
def TileHdr.uniformExp (h : TileHdr) : Bool := bitOf h.flags 1
def TileHdr.maskFixed (h : TileHdr) : Bool := bitOf h.flags 2

/-- The 64 bytes of a header (R223). -/
def tileHdrBytes (h : TileHdr) : Bytes :=
  natLe 1 h.form ++ natLe 1 h.fmt ++ natLe 1 h.nm ++ natLe 1 h.flags ++ natLe 1 h.lines ++ natLe 1 h.groups ++
    natLe 2 h.valid ++ natLe 2 h.nnz ++ natLe 1 (patOf 8 h.exp) ++ [0] ++ natLe 4 h.metaLen ++ natLe 4 h.valueLen ++
    natLe 4 0 ++ natLe 4 h.lineTile ++ natLe 4 h.kTile ++ List.replicate 32 0

/-- N and M of a TH_NM pattern: 1:4, 2:4, 2:8, 4:8 (R223). -/
def nmN (nm : Nat) : Nat := match nm with | 0 => 1 | 1 => 2 | 2 => 2 | _ => 4
def nmM (nm : Nat) : Nat := if nm < 2 then 4 else 8

/-- Slots of one group of an N:M line, and the bytes of its metadata entry (R227). -/
def nmSlots (nm : Nat) : Nat := nmN nm * (32 / nmM nm)
def nmEntryBytes (nm : Nat) : Nat := nmSlots nm * 3 / 8

/-- Bits of one stored element of a TH_FMT code (R223, R165, R199, R196). -/
def thFmtBits (fmt : Nat) : Nat :=
  match fmt with
  | 2 => 4
  | 3 => 4
  | 0x10 => 32
  | 0x11 => 16
  | 0x14 => 64
  | 0x15 => 256
  | _ => 8

/-- TH_FMT of a CW_FORMAT (R186, R223). -/
def thFmtOfCw (fmt : Nat) : Nat :=
  match fmt with
  | 0 => 0x10
  | 1 => 0x11
  | 2 => 0
  | 3 => 2
  | 4 => 0x14
  | _ => 0x15

/-- The exponent block's length, and the offsets of the metadata and value blocks (R224, R225). -/
def TileHdr.expLen (h : TileHdr) : Nat := if h.uniformExp then 0 else h.lines * h.groups
def TileHdr.metaOff (h : TileHdr) : Nat := 64 + pad64 h.expLen
def TileHdr.valueOff (h : TileHdr) : Nat := h.metaOff + pad64 h.metaLen
def TileHdr.totalLen (h : TileHdr) : Nat := h.valueOff + pad64 h.valueLen

/-- The TH_NNZ that the form fixes (none for unstructured tiles, whose count is their own). -/
def TileHdr.fixedNnz (h : TileHdr) : Option Nat :=
  match h.form with
  | 0 => some (h.lines * h.groups * 32)
  | 1 => some (h.lines * h.groups * nmSlots h.nm)
  | _ => none

/-- The lengths of the metadata and value blocks that the header implies (R226 to R229). -/
def TileHdr.wantMeta (h : TileHdr) : Nat :=
  match h.form with
  | 0 => 0
  | 1 => h.lines * h.groups * nmEntryBytes h.nm
  | _ => 2 * (h.lines + 1) + h.nnz
def TileHdr.wantValue (h : TileHdr) : Nat := ceilDiv (h.nnz * thFmtBits h.fmt) 8

/-- The stored element number `i` of a value block. -/
def storedElem (fmt : Nat) (vals : Bytes) (i : Nat) : OutElem :=
  match fmt with
  | 0x10 => .num (sextNat 32 (u32At vals (4 * i)))
  | 0x11 => .num (sextNat 16 (u16At vals (2 * i)))
  | 0x14 => .pair (sextNat 32 (u32At vals (8 * i))) (sextNat 32 (u32At vals (8 * i + 4)))
  | 0x15 => .wide (wideOf (slice vals (32 * i) 32))
  | f => .num (packedElem f vals i)

/-- The zero element of a TH_FMT code. -/
def zeroOfTh (fmt : Nat) : OutElem :=
  match fmt with
  | 0x14 => .pair 0 0
  | 0x15 => .wide ⟨0, false, false, 0⟩
  | _ => .num 0

/-- Whether an element is zero in value. -/
def elemIsZero : OutElem → Bool
  | .num v => v == 0
  | .pair hi lo => hi == 0 && lo == 0
  | .wide r => r.value == 0

/-- The positions of one N:M line and group, in slot order: window `v`, slot `k` (R227). -/
def nmGroupPositions (nm g : Nat) (entry : Nat) : List Nat :=
  (List.range (nmSlots nm)).map fun j =>
    32 * g + nmM nm * (j / nmN nm) + bitsOf entry (3 * j + 2) (3 * j)

/-- Whether an N:M entry names a position twice in one window. -/
def nmGroupDup (nm : Nat) (entry : Nat) : Bool :=
  (List.range (32 / nmM nm)).any fun v =>
    let idx := (List.range (nmN nm)).map fun k => bitsOf entry (3 * (v * nmN nm + k) + 2) (3 * (v * nmN nm + k))
    decide (idx.eraseDups.length < idx.length)

/-- Whether an N:M entry holds an index that is not less than M. -/
def nmGroupBad (nm : Nat) (entry : Nat) : Bool :=
  (List.range (nmSlots nm)).any fun j => decide (nmM nm ≤ bitsOf entry (3 * j + 2) (3 * j))

/-- The metadata entry of line `l`, group `g` of an N:M tile. -/
def nmEntry (h : TileHdr) (b : Bytes) (l g : Nat) : Nat :=
  fieldLe b (h.metaOff + (l * h.groups + g) * nmEntryBytes h.nm) (nmEntryBytes h.nm)

/-- The stored positions of line `l` of a tile, in storage order, with the index of the first one in the value block; a
dense line stores every position. -/
def tileLinePositions (h : TileHdr) (b : Bytes) (l : Nat) : List Nat × Nat :=
  match h.form with
  | 0 => (List.range (32 * h.groups), l * 32 * h.groups)
  | 1 => ((List.range h.groups).flatMap fun g => nmGroupPositions h.nm g (nmEntry h b l g), l * h.groups * nmSlots h.nm)
  | _ =>
    let o := u16At b (h.metaOff + 2 * l)
    let o' := u16At b (h.metaOff + 2 * (l + 1))
    ((List.range (o' - o)).map fun k => u8At b (h.metaOff + 2 * (h.lines + 1) + o + k), o)

/-- The dense elements of line `l`: what is stored at each position, zero elsewhere (R226 to R229). Positions at or past
TH_VALID take part as zero. -/
def tileLineDense (h : TileHdr) (b : Bytes) (l : Nat) : List OutElem :=
  let vals := b.drop h.valueOff
  let (ps, first) := tileLinePositions h b l
  let base := List.replicate (32 * h.groups) (zeroOfTh h.fmt)
  let filled := (ps.zipIdx first).foldl (fun acc (p, i) => acc.set p (storedElem h.fmt vals i)) base
  filled.zipIdx.map fun (v, p) => if p < h.valid then v else zeroOfTh h.fmt

/-- The exponent of line `l`, group `g` (R225). -/
def tileGroupExp (h : TileHdr) (b : Bytes) (l g : Nat) : Int :=
  if h.uniformExp then h.exp else sextNat 8 (u8At b (64 + l * h.groups + g))

/-- What the operand unit expects of a tile's place (R241 GRID). -/
structure TileExpect where
  lineTile : Nat
  kTile : Nat
  /-- The record's TH_GROUPS, and whether this K tile is the last one (which may be shorter). -/
  groups : Nat
  lastK : Bool
  lastLine : Bool
  /-- Whether the tile is read transposed (R251). -/
  transposed : Bool
  /-- TA_LEN of the directory entry. -/
  taLen : Nat
  deriving DecidableEq, Repr

/-- The formats that a tile header may carry (R223). -/
def anyThFmt (f : Nat) : Bool := decide (f ≤ 3) || f == 0x10 || f == 0x11 || f == 0x14 || f == 0x15

/-- Check 0x01 HEADER: a reserved TH_FMT is a reserved value. -/
def checkHeader (h : TileHdr) : Bool :=
  h.reservedZero && decide (h.form ≤ 2) && anyThFmt h.fmt && decide (h.flags < 8) && decide (1 ≤ h.lines ∧ h.lines ≤ 32) &&
    decide (1 ≤ h.groups ∧ h.groups ≤ 8) && decide (1 ≤ h.valid ∧ h.valid ≤ 32 * h.groups) &&
    decide (h.nm ≤ 3) && (h.form == 1 || h.nm == 0)

/-- Check 0x04 LENGTH. -/
def checkLength (h : TileHdr) (b : Bytes) (taLen : Nat) : Bool :=
  (match h.fixedNnz with | some n => h.nnz == n | none => true) &&
    h.metaLen == h.wantMeta && h.valueLen == h.wantValue && taLen * 64 == h.totalLen &&
    (h.form != 2 ||
      (u16At b h.metaOff == 0 && u16At b (h.metaOff + 2 * h.lines) == h.nnz &&
        (List.range h.lines).all fun l =>
          decide (u16At b (h.metaOff + 2 * l) ≤ u16At b (h.metaOff + 2 * (l + 1)))))

/-- Check 0x05 EXPONENT (with R251 for a tile read transposed). -/
def checkExponent (h : TileHdr) (b : Bytes) (transposed : Bool) : Bool :=
  let ok (e : Int) : Bool := decide (-32 ≤ e ∧ e ≤ 31)
  if h.uniformExp then ok h.exp
  else
    ((List.range h.lines).all fun l => (List.range h.groups).all fun g => ok (tileGroupExp h b l g)) &&
      (!transposed || (List.range h.groups).all fun g =>
        (List.range h.lines).all fun l => tileGroupExp h b l g == tileGroupExp h b 0 g)

/-- Whether a list of positions has a repeat. -/
def hasRepeat (l : List Nat) : Bool := decide (l.eraseDups.length < l.length)

/-- Whether a list of positions decreases somewhere. -/
def decreases : List Nat → Bool
  | a :: b :: t => decide (b < a) || decreases (b :: t)
  | _ => false

/-- Check 0x09 INDEX_RANGE: an unstructured position at or past TH_VALID, or a slot there that holds a non-zero. -/
def checkIndexRange (h : TileHdr) (b : Bytes) : Bool :=
  let vals := b.drop h.valueOff
  h.form == 0 || (List.range h.lines).all fun l =>
    let (ps, first) := tileLinePositions h b l
    (ps.zipIdx first).all fun (p, i) =>
      decide (p < h.valid) || (h.form == 1 && elemIsZero (storedElem h.fmt vals i))

/-- The table of metadata checks in the order of their codes; 0 when every check passes (R241). `fmtOk` says which
formats the reader accepts and `expCheck` whether operand exponents are required. -/
def tileCheck (fmtOk : Nat → Bool) (h : TileHdr) (b : Bytes) (x : TileExpect) (expCheck : Bool) : Nat :=
  if !checkHeader h then 1
  else if !fmtOk h.fmt then 2
  else if h.lineTile != x.lineTile || h.kTile != x.kTile || (!x.lastK && h.groups != x.groups) ||
      (!x.lastLine && h.lines != 32) then 3
  else if !checkLength h b x.taLen then 4
  else if expCheck && !checkExponent h b x.transposed then 5
  else if (h.form == 1 && (List.range h.lines).any fun l => (List.range h.groups).any fun g =>
        nmGroupDup h.nm (nmEntry h b l g)) ||
      (h.form == 2 && (List.range h.lines).any fun l => hasRepeat (tileLinePositions h b l).1) then 6
  else if h.form == 1 && (List.range h.lines).any (fun l => (List.range h.groups).any fun g =>
        nmGroupBad h.nm (nmEntry h b l g)) then 7
  else if h.form == 2 && (List.range h.lines).any (fun l => decreases (tileLinePositions h b l).1) then 8
  else if !checkIndexRange h b then 9
  else 0

/-- The operand formats (R165). -/
def operandFmt (f : Nat) : Bool := decide (f ≤ 3)

/-! ### The directory (R222) -/

/-- The length of a directory of `n` entries. -/
def dirLen (n : Nat) : Nat := pad64 (8 * n)

/-- A reader of a byte range: the bytes at an address, and whether any of them is poisoned. -/
abbrev Reader := Nat → Nat → Bytes × Bool

/-- Tile `t` of the array at `base`: its bytes with its TA_LEN and whether the memory it lies in is poisoned. -/
def readTile (rd : Reader) (base t : Nat) : Bytes × Nat × Bool :=
  let e := rd (base + 8 * t) 8
  let entry := leNat e.1
  let len := bitsOf entry 63 40
  let body := rd (base + bitsOf entry 39 0) (64 * len)
  (body.1, len, e.2 || body.2)

/-- A directory and its tiles laid out in directory order, each on a multiple of 64 bytes (R222). -/
def tileArrayBytes (tiles : List Bytes) : Bytes :=
  let d := dirLen tiles.length
  let padded := tiles.map padBytes64
  let entries := (padded.foldl (fun (acc : Bytes × Nat) t =>
    (acc.1 ++ natLe 8 (acc.2 + (t.length / 64) * 2 ^ 40), acc.2 + t.length)) ([], d)).1
  padBytes64 entries ++ padded.flatten

/-! ### Writing tiles -/

/-- The stored bytes of a list of elements of a TH_FMT code, packed in order. -/
def packElems (fmt : Nat) (es : List OutElem) : Bytes :=
  let num (e : OutElem) : Int := match e with | .num v => v | .pair hi _ => hi | .wide r => r.value
  match fmt with
  | 0x10 => es.flatMap fun e => natLe 4 (patOf 32 (num e))
  | 0x11 => es.flatMap fun e => natLe 2 (patOf 16 (num e))
  | 0x14 => es.flatMap fun e => match e with
      | .pair hi lo => natLe 4 (patOf 32 hi) ++ natLe 4 (patOf 32 lo)
      | e => natLe 4 (patOf 32 (num e)) ++ natLe 4 0
  | 0x15 => es.flatMap fun e => match e with
      | .wide r => wideBytes r
      | e => wideBytes ⟨num e, false, false, 0⟩
  | f =>
    if thFmtBits f = 4 then
      (pieces 2 es).map fun p =>
        BitVec.ofNat 8 (patOf 4 (num (p.getD 0 (.num 0))) + 16 * patOf 4 (num (p.getD 1 (.num 0))))
    else es.map fun e => BitVec.ofNat 8 (patOf 8 (num e))

/-- A tile as the store writes it, before its form is chosen: dense lines of `32 × groups` elements. -/
structure TileOut where
  fmt : Nat
  lines : List (List OutElem)
  groups : Nat
  valid : Nat
  exp : Int
  poisoned : Bool
  lineTile : Nat
  kTile : Nat
  deriving DecidableEq, Repr

/-- A line filled to `32 × groups` positions, with zero past `valid`. -/
def TileOut.fullLine (t : TileOut) (l : List OutElem) : List OutElem :=
  (List.range (32 * t.groups)).map fun p => if p < t.valid then l.getD p (zeroOfTh t.fmt) else zeroOfTh t.fmt

/-- The header of an output tile with uniform exponent. -/
def TileOut.hdr (t : TileOut) (form nm : Nat) (maskFixed : Bool) (nnz metaLen valueLen : Nat) : TileHdr :=
  { form := form, fmt := t.fmt, nm := nm
    flags := natOfBool t.poisoned + 2 + 4 * natOfBool maskFixed
    lines := t.lines.length, groups := t.groups, valid := t.valid, nnz := nnz
    exp := t.exp, metaLen := metaLen, valueLen := valueLen, lineTile := t.lineTile, kTile := t.kTile, reservedZero := true }

/-- The zero lines of a poisoned tile; WIDE records carry WP_POISON and keep their winners (R193, R248, R396). -/
def TileOut.poisonLines (t : TileOut) : List (List OutElem) :=
  t.lines.map fun l => if t.fmt = 0x15 then (t.fullLine l).map poisonElem else List.replicate (32 * t.groups) (zeroOfTh t.fmt)

/-- The dense form of an output tile (R226); a poisoned tile is dense with all values zero (R248). -/
def denseTileBytes (t : TileOut) (maskFixed : Bool) : Bytes :=
  let ls := if t.poisoned then t.poisonLines else t.lines.map t.fullLine
  let body := packElems t.fmt ls.flatten
  tileHdrBytes (t.hdr 0 0 maskFixed (t.lines.length * t.groups * 32) 0 body.length) ++ padBytes64 body

/-- The non-zero positions of a window of `m` elements. -/
def windowNonzero (w : List OutElem) : List Nat := (w.zipIdx.filter fun (e, _) => !elemIsZero e).map (·.2)

/-- The slots of one window in N:M form: its non-zeros, filled with the lowest zero positions, in increasing order; none
when it holds more than `n` non-zeros (R245, R246). -/
def windowSlots (n : Nat) (w : List OutElem) : Option (List Nat) :=
  let nz := windowNonzero w
  if n < nz.length then none
  else
    let zs := ((w.zipIdx.filter fun (e, _) => elemIsZero e).map (·.2)).take (n - nz.length)
    some ((zs ++ nz).mergeSort (fun a b => decide (a ≤ b)))

/-- Options all present, or none. -/
def allSome {α : Type} : List (Option α) → Option (List α)
  | [] => some []
  | none :: _ => none
  | some a :: t => (allSome t).map (a :: ·)

/-- The metadata entries and values of a tile whose windows have the given slots; `slots` lists, for each line, for each
window, the positions within the window. -/
def nmTileBytes (t : TileOut) (nm : Nat) (maskFixed : Bool) (slots : List (List (List Nat))) : Bytes :=
  let m := nmM nm
  let wpg := 32 / m
  let mdata := slots.flatMap fun line => (pieces wpg line).flatMap fun grp =>
    natLe (nmEntryBytes nm) (grp.flatten.zipIdx.foldl (fun acc (p, j) => acc + p * 2 ^ (3 * j)) 0)
  let vals := (slots.zip (t.lines.map t.fullLine)).flatMap fun (line, es) =>
    line.zipIdx.flatMap fun (ps, v) => ps.map fun p => es.getD (m * v + p) (zeroOfTh t.fmt)
  let body := packElems t.fmt vals
  tileHdrBytes (t.hdr 1 nm maskFixed vals.length mdata.length body.length) ++ padBytes64 mdata ++ padBytes64 body

/-- The unstructured form of a tile that stores the given positions of each line. -/
def unstructTileBytes (t : TileOut) (maskFixed : Bool) (pos : List (List Nat)) : Bytes :=
  let offs := (pos.foldl (fun (acc : List Nat × Nat) l => (acc.1 ++ [acc.2 + l.length], acc.2 + l.length)) ([0], 0)).1
  let mdata := (offs.flatMap fun o => natLe 2 o) ++ pos.flatten.map (BitVec.ofNat 8)
  let vals := (pos.zip (t.lines.map t.fullLine)).flatMap fun (ps, es) => ps.map fun p => es.getD p (zeroOfTh t.fmt)
  let body := packElems t.fmt vals
  tileHdrBytes (t.hdr 2 0 maskFixed vals.length mdata.length body.length) ++ padBytes64 mdata ++ padBytes64 body

/-- What a store gives: the bytes, whether an N:M window was over-full (R245), and the non-zeros a fixed mask dropped
(R249). -/
structure StoreOut where
  bytes : Bytes
  overfull : Bool
  drops : Nat
  deriving DecidableEq, Repr

/-- The slots of a tile in N:M form, none when a window is over-full. -/
def nmSlotsOf (t : TileOut) (nm : Nat) : Option (List (List (List Nat))) :=
  allSome (t.lines.map fun l => allSome ((pieces (nmM nm) (t.fullLine l)).map (windowSlots (nmN nm))))

/-- The store compressor for the forms 0 dense, 1 N:M and 2 unstructured (R244 to R248). -/
def storeTile (form nm : Nat) (t : TileOut) : StoreOut :=
  if t.poisoned then ⟨denseTileBytes t false, false, 0⟩
  else match form with
  | 1 =>
    match nmSlotsOf t nm with
    | some sl => ⟨nmTileBytes t nm false sl, false, 0⟩
    | none => ⟨denseTileBytes t false, true, 0⟩
  | 2 =>
    let pos := t.lines.map fun l => windowNonzero (t.fullLine l)
    let n := pos.flatten.length
    let comp := 2 * (t.lines.length + 1) + n + ceilDiv (n * thFmtBits t.fmt) 8
    if comp < ceilDiv (t.lines.length * t.groups * 32 * thFmtBits t.fmt) 8 then
      ⟨unstructTileBytes t false pos, false, 0⟩
    else ⟨denseTileBytes t false, false, 0⟩
  | _ => ⟨denseTileBytes t false, false, 0⟩

/-- The positions that a mask tile stores on each line (R249); a dense mask tile stores every position. -/
def maskPositions (h : TileHdr) (b : Bytes) : List (List Nat) :=
  (List.range h.lines).map fun l => (tileLinePositions h b l).1

/-- A mask-fixed store: form, pattern and metadata of the mask tile, every slot's value written, non-zeros outside the
mask dropped and counted (R249). -/
def storeMasked (h : TileHdr) (b : Bytes) (t : TileOut) : StoreOut :=
  if t.poisoned then ⟨denseTileBytes t true, false, 0⟩
  else
    let pos := maskPositions h b
    let drops := ((pos.zip (t.lines.map t.fullLine)).map fun (ps, es) =>
      (es.zipIdx.filter fun (e, p) => !elemIsZero e && !ps.contains p).length).sum
    match h.form with
    | 1 =>
      let m := nmM h.nm
      let slots := (List.range t.lines.length).map fun l => (List.range t.groups).flatMap fun g =>
        (pieces (nmN h.nm) (nmGroupPositions h.nm g (nmEntry h b l g))).map fun ps => ps.map (· % m)
      ⟨nmTileBytes t h.nm true slots, false, drops⟩
    | 2 => ⟨unstructTileBytes t true pos, false, drops⟩
    | _ => ⟨denseTileBytes t true, false, 0⟩

end Sys2Proof.Machine
end

