-- ==== Sys2Proof/Machine/Ops.lean ====
section
/-! DEFINITION. The named operations over registers, memory, the host's side and events that every meaning is written
with. -/

namespace Sys2Proof.Machine

/-- The answer of a command that always goes on. -/
abbrev Ans := Host.Outcome State Fault Refusal

/-! ### Registers (R11 to R21) -/

/-- The word of register `r`, instance `i`, as stored. -/
def State.rd (s : State) (r : RegName) (i : Nat) : Nat :=
  match kvGet s.regs (r.addr i) with
  | some w => w.toNat
  | none => r.resetWord

/-- Store a register's word; the register's reset word is not listed. -/
def State.wr (s : State) (r : RegName) (i v : Nat) : State :=
  if i < r.info.count then
    { s with regs := kvSet (BitVec.ofNat 64 r.resetWord) s.regs (r.addr i) (BitVec.ofNat 64 v) }
  else s

/-- A field of a register. -/
def State.getF (s : State) (f : Field) (i : Nat) : Nat := bitsOf (s.rd f.reg i) f.hi f.lo

/-- Set a field; the value is taken modulo the field's width. -/
def State.setF (s : State) (f : Field) (i v : Nat) : State := s.wr f.reg i (setBits (s.rd f.reg i) f.hi f.lo v)

/-- A one-bit field as a Bool. -/
def State.flag (s : State) (f : Field) (i : Nat) : Bool := s.getF f i != 0

/-- Add to a counter that holds at all ones. -/
def State.bump (s : State) (f : Field) (i n : Nat) : State := s.setF f i (satNat (s.getF f i + n) f.max)

/-- Add to a counter that wraps. -/
def State.bumpWrap (s : State) (f : Field) (i n : Nat) : State := s.setF f i ((s.getF f i + n) % 2 ^ f.width)

/-- Raise a field to at least `v`. -/
def State.raiseTo (s : State) (f : Field) (i v : Nat) : State := if s.getF f i < v then s.setF f i v else s

/-- Several field writes in turn. -/
def State.setFs (s : State) (i : Nat) : List (Field × Nat) → State
  | [] => s
  | (f, v) :: t => (s.setF f i v).setFs i t

/-- Whether domain `d` encloses the domain of a register (R21). -/
def domainResets (d : Domain) (r : Domain) : Bool :=
  match d, r with
  | .cold, _ => true
  | .warm, .cold => false
  | .warm, _ => true
  | .func, .func => true
  | .func, .chase => true
  | .func, _ => false
  | .chase, .chase => true
  | .chase, _ => false

/-- Every register of the domain (and of those it encloses) back to its reset value. -/
def State.resetRegs (s : State) (d : Domain) : State :=
  { s with regs := s.regs.filter fun e => match findReg e.1 with
      | some (r, _) => !domainResets d r.info.dom
      | none => false }

/-- The CHASE-domain registers of slot `c` back to their reset values (R105). -/
def State.resetSlotRegs (s : State) (c : Nat) : State :=
  { s with regs := s.regs.filter fun e => match findReg e.1 with
      | some (r, i) => !(r.info.dom == Domain.chase && i == c)
      | none => false }

/-! ### Free values -/

/-- A fresh free number, and the state that has used it. -/
def State.fresh (s : State) : Nat × State := (Config.freeNat s.freeIdx, { s with freeIdx := s.freeIdx + 1 })

/-- Fresh free bytes. -/
def State.freshBytes (s : State) (n : Nat) : Bytes × State :=
  ((List.range n).map (Config.freeByte s.freeIdx), { s with freeIdx := s.freeIdx + 1 })

/-! ### Power and stage -/

/-- SYS_BOOT_STAGE codes (R834). -/
def stageRom : Nat := 1
def stageFirmware : Nat := 2
def stageBringUp : Nat := 3
def stageReady : Nat := 5
def stageRecovery : Nat := 0xE
def stageHalted : Nat := 0xF

/-- The device has power, its clocks and its reset released, and has not tripped: it does something at all. -/
def State.live (s : State) : Bool :=
  s.pw.pwrGood && s.pw.resetN && !s.pw.held && !s.pw.tripped && s.pw.sysclk && s.pw.refclk156

/-- The boot stage. -/
def State.stage (s : State) : Nat := s.getF Fld.sysBootStage 0

/-- The device is in READY. -/
def State.isReady (s : State) : Bool := s.live && s.stage == stageReady

/-- The device is in BRING_UP or READY: links, ports and time run. -/
def State.isUp (s : State) : Bool := s.live && (s.stage == stageBringUp || s.stage == stageReady)

/-- Run an effect where a condition holds; otherwise the command has no effect. -/
def State.ifB (s : State) (b : Bool) (f : State → State) : State := if b then f s else s

/-! ### Ports -/

/-- Put something on a port. -/
def State.emit (s : State) (o : Out) : State := { s with out := o :: s.out }

/-- The two words of an MSI-X table entry; at reset the entry is masked (PCIe layout, R653). -/
def State.msixWord (s : State) (k : Nat) : Nat :=
  match kvGet s.msix k with
  | some w => w.toNat
  | none => if k % 2 = 1 then 2 ^ 32 else 0

/-- Vector Control bit 0 of a vector: masked. -/
def State.msixMasked (s : State) (v : Nat) : Bool := bitOf (s.msixWord (2 * v + 1)) 32

/-- Signal an MSI-X vector: a message, or the pending bit when the vector is masked (R698). -/
def State.msix1 (s : State) (v : Nat) : State :=
  if s.msixMasked v then { s with msixPend := setIns s.msixPend v } else s.emit (.msix v)

/-- Raise a device event in HIF_EVT_STATUS and signal its vector. -/
def State.event (s : State) (f vec : Field) : State := (s.setF f 0 1).msix1 (s.getF vec 0)

def State.eventStale (s : State) : State := s.event Fld.hifEvStale Fld.hifEvStaleVec
def State.eventDeadlock (s : State) : State := s.event Fld.hifEvDeadlock Fld.hifEvDlVec
def State.eventFault (s : State) : State := s.event Fld.hifEvFault Fld.hifEvFaultVec
def State.eventDma (s : State) : State := s.event Fld.hifEvDmaBlocked Fld.hifEvFaultVec
def State.eventRas (s : State) : State := s.event Fld.hifEvRas Fld.hifEvRasVec

/-! ### Regions -/

/-- SYS_MAP_VALID and SYS_MAP_PHYS of a logical region. -/
def State.regionValid (s : State) (k : Nat) : Bool := s.flag (Fld.sysMapValid (k % 8)) (k / 8)
def State.physOf (s : State) (k : Nat) : Nat := s.getF (Fld.sysMapPhys (k % 8)) (k / 8)

/-- The logical region that a physical region carries. -/
def State.logicalOf (s : State) (p : Nat) : Option Nat :=
  (List.range 16).find? fun k => s.regionValid k && s.physOf k == p

/-- The active logical regions of a die, in increasing number (R30). -/
def State.dieRegions (s : State) (d : Nat) : List Nat :=
  ((List.range 8).map (8 * d + ·)).filter s.regionValid

/-- SYS_CHASE_STATE codes (R91). -/
def csEmpty : Nat := 0
def csValidating : Nat := 1
def csLoaded : Nat := 2
def csJoining : Nat := 3
def csRunning : Nat := 4
def csStopping : Nat := 5
def csFaulted : Nat := 6

/-- The state code of a chase slot. -/
def State.cs (s : State) (c : Nat) : Nat := s.getF Fld.sysChaseState c

/-- The chase runs strokes or is about to. -/
def State.csActive (s : State) (c : Nat) : Bool := s.cs c == csJoining || s.cs c == csRunning || s.cs c == csStopping

/-- Strokes run. -/
def State.csStriking (s : State) (c : Nat) : Bool := s.cs c == csRunning || s.cs c == csStopping

/-- A chase slot's state beyond its registers. -/
def State.chase (s : State) (c : Nat) : ChaseSt := s.chases.getD c ChaseSt.empty

/-- Replace a chase slot's state. -/
def State.setChase (s : State) (c : Nat) (x : ChaseSt) : State := { s with chases := s.chases.set c x }

/-- Update a chase slot's state. -/
def State.updChase (s : State) (c : Nat) (f : ChaseSt → ChaseSt) : State := s.setChase c (f (s.chase c))

/-- The logical regions that slot `c` holds on this device. -/
def State.heldRegions (s : State) (c : Nat) : List Nat :=
  (List.range 16).filter fun k => bitOf (s.getF Fld.sysChaseRegions c) k

/-- The slot whose chase holds a logical region. -/
def State.regionHolder (s : State) (k : Nat) : Option Nat :=
  (List.range 16).find? fun c => bitOf (s.getF Fld.sysChaseRegions c) k

/-- Choose one of the held regions for a piece of work; with one region there is no choice (R45). -/
def dealRegion (held : List Nat) (slot plate stroke item : Nat) : Nat :=
  match held with
  | [] => 0
  | [k] => k
  | l => l.getD (Config.deal slot plate stroke item % l.length) 0

/-- The physical region that counts an event of item `item` of the plate in hand of slot `c`. -/
def State.dealPhys (s : State) (c item : Nat) : Nat :=
  s.physOf (dealRegion (s.heldRegions c) c (s.chase c).plate.index (s.getF Fld.stkNumber c) item)

/-! ### The error log (R815 to R819) -/

/-- Severities. -/
def sevCorrected : Nat := 0
def sevContained : Nat := 1
def sevChase : Nat := 2
def sevDegraded : Nat := 3
def sevFatal : Nat := 4

/-- What an error record says beyond its time. -/
structure ErrRec where
  code : Nat
  severity : Nat
  level : Nat
  whereW : Nat
  stroke : Nat
  plate : Nat
  slot : Nat
  action : Nat
  detail : Nat
  deriving DecidableEq, Repr

/-- The bits [27:0] of ER_WHERE with every part unused. -/
def whereNone : Nat := 2 ^ 28 - 1

/-- ER_WHERE for a physical region, block and cell (all ones where unused). -/
def whereAt (p b c col : Nat) : Nat := p + b * 2 ^ 5 + c * 2 ^ 10 + col * 2 ^ 15 + 127 * 2 ^ 21

/-- ER_WHERE for a link or stack. -/
def whereLink (l : Nat) : Nat := 2 ^ 21 - 1 + l * 2 ^ 21

/-- The 32 bytes of a record (R815). -/
def errBytes (t : Nat) (e : ErrRec) : Bytes :=
  natLe 8 t ++ natLe 2 e.code ++ natLe 1 e.severity ++ natLe 1 e.level ++ natLe 4 e.whereW ++ natLe 4 e.stroke ++
    natLe 2 e.plate ++ natLe 1 e.slot ++ natLe 1 e.action ++ natLe 8 e.detail

/-- Write a record at RAS_LOG_HEAD; a full log overwrites its oldest record (R817). -/
def State.logRaw (s : State) (e : ErrRec) : State :=
  let b := errBytes (s.rd .timeNs 0) e
  let h := s.getF Fld.rasLogHead 0
  let s1 := (List.range 4).foldl (fun s k => s.setF Fld.rasLogWord (4 * h + k) (u64At b (8 * k))) s
  let s2 := if 512 ≤ s.getF Fld.rasLogTotal 0 then s1.bump Fld.rasLogLost 0 1 else s1
  (s2.setF Fld.rasLogHead 0 ((h + 1) % 512)).bumpWrap Fld.rasLogTotal 0 1

/-- Log a record of severity above CORRECTED: CONTAINED or higher raises the RAS event, DEGRADED and FATAL set
RAS_SERVICE (R818). -/
def State.logErr (s : State) (e : ErrRec) : State :=
  let s1 := s.logRaw e
  let s2 := if e.severity = sevContained then s1.bump Fld.rasContained 0 1 else s1
  let s3 := if sevDegraded ≤ e.severity then s2.setF Fld.rasService 0 1 else s2
  if sevContained ≤ e.severity then s3.eventRas else s3

/-! ### Fields of a 512-byte ticket (R675) -/

def tkOpcode (b : Bytes) : Nat := u16At b 0
def tkFlags (b : Bytes) : Nat := u16At b 2
def tkSlot (b : Bytes) : Nat := u8At b 16
def tpArg0 (b : Bytes) : Nat := u32At b 60
def tpArgs (b : Bytes) : Bytes := slice b 64 64

/-! ### Memory: HBM, merging buffers and region caches -/

/-- HBM addresses lie below this (R466). -/
def hbmTop : Nat := 0xC000000000

/-- The location of an on-chip byte of slot `c` at a chase address. -/
def chipLoc (c a : Nat) : Nat := (c + 1) * 2 ^ 44 + a

/-- One byte of the memory list; unlisted bytes are zero. -/
def memGet (m : List Host.Cell) (l : Nat) : Byte := (kvGet m l).getD 0

/-- Write one byte of a memory list, keeping its canonical form. -/
def memPut (m : List Host.Cell) (l : Nat) (b : Byte) : List Host.Cell := kvSet 0 m l b

/-- Write a run of bytes. -/
def memPutRun : List Host.Cell → Nat → Bytes → List Host.Cell
  | m, _, [] => m
  | m, l, b :: bs => memPutRun (memPut m l b) (l + 1) bs

/-- Read a run of bytes. -/
def memGetRun (m : List Host.Cell) (l n : Nat) : Bytes := (List.range n).map fun k => memGet m (l + k)

/-- The canonical form of a memory list: addresses strictly rising, no byte equal to what an unlisted one reads as. -/
def Memory.sorted : List Host.Cell → Bool
  | a :: b :: t => decide (a.1 < b.1) && Memory.sorted (b :: t)
  | _ => true

/-- Whether a memory list is in canonical form. -/
def Memory.wf (m : List Host.Cell) : Bool := Memory.sorted m && m.all fun e => e.2 != 0

/-- Stack, pseudo-channel and line of an HBM address (R466). -/
def haStack (h : Nat) : Nat := h / 2 ^ 36
def haPc (h : Nat) : Nat := (h / 2 ^ 30) % 64
def haLine (h : Nat) : Nat := (h / 64) % 2 ^ 24

/-- Bank, row and column of a line of a pseudo-channel (R467). -/
def lineBank (x : Nat) : Nat := bitsOf x 8 4 ^^^ bitsOf x 13 9 ^^^ bitsOf x 18 14 ^^^ bitsOf x 23 19
def lineRow (x : Nat) : Nat := bitsOf x 23 9
def lineColumn (x : Nat) : Nat := bitsOf x 3 0

/-- Whether a stack is in service, and whether a pseudo-channel of it is offline. -/
def State.stackOnline (s : State) (k : Nat) : Bool := s.getF Fld.hbmState k == 1 || s.getF Fld.hbmState k == 2
def State.pcOffline (s : State) (k pc : Nat) : Bool := !s.stackOnline k || bitOf (s.getF Fld.hbmPcOff k) pc

/-- Whether an HBM address lies in an offline stack or pseudo-channel (R649). -/
def State.haOffline (s : State) (h : Nat) : Bool := s.pcOffline (haStack h) (haPc h)

/-- The home slice of an HBM line: a logical region of the stack's die (R476). -/
def State.homeSlice (s : State) (h : Nat) : Nat :=
  let act := s.dieRegions (haStack h / 6)
  let k := bitsOf h 13 6 ^^^ bitsOf h 21 14 ^^^ bitsOf h 29 22 ^^^ (bitsOf h 39 30 % 256)
  act.getD (k % act.length) 0

/-- The set of a line within its slice (R476). -/
def cacheSet (h : Nat) : Nat := bitsOf h 19 6 ^^^ bitsOf h 33 20

/-- The first of `n` numbers from `start` on, cyclically, that `p` accepts. -/
def pickFrom (start n : Nat) (p : Nat → Bool) : Option Nat :=
  let k := leastUpTo (fun k => p ((start + k) % n)) n 0
  if k < n then some ((start + k) % n) else none

/-- The cache ways of a physical region: the first, and the one behind the last (R479). -/
def State.cacheWays (s : State) (p : Nat) : Nat × Nat :=
  (s.getF Fld.rcEffLock p + s.getF Fld.rcEffEngine p, 16 - s.getF Fld.rcEffOff p)

/-- The key of a line's set. -/
def State.setKey (s : State) (line : Nat) : Nat := s.homeSlice (64 * line) * 16384 + cacheSet (64 * line)

/-- The way of a line that misses: one that holds nothing, which of them is free, or the least recently used line's (R478). -/
def missWay (lo hi line : Nat) (set : List (Nat × Nat)) : Nat :=
  if set.length < hi - lo then
    match pickFrom (Config.fillWay line % (hi - lo)) (hi - lo) fun k => !set.any fun e => e.2 == lo + k with
    | some k => lo + k
    | none => lo
  else (set.getLastD (0, lo)).2

/-- A read through the cache: RC_HITS or RC_MISSES of the home slice counts it, and a miss allocates the line, the least
recently used line of the set giving way (R478). -/
def State.cacheRead (s : State) (line : Nat) : State :=
  let p := s.physOf (s.homeSlice (64 * line))
  let w := s.cacheWays p
  let set := (kvGet s.rcTags (s.setKey line)).getD []
  match set.find? fun e => e.1 == line with
  | some e => ({ s with rcTags := kvPut s.rcTags (s.setKey line) (e :: set.erase e) } : State).bump Fld.rcHits p 1
  | none => ({ s with rcTags := kvPut s.rcTags (s.setKey line) ((line, missWay w.1 w.2 line set) :: set.take (w.2 - w.1 - 1)) } : State).bump
      Fld.rcMisses p 1

/-- A write that hits uses its line; one that misses does not allocate (R478). -/
def State.cacheTouch (s : State) (line : Nat) : State :=
  let set := (kvGet s.rcTags (s.setKey line)).getD []
  match set.find? fun e => e.1 == line with
  | some e => { s with rcTags := kvPut s.rcTags (s.setKey line) (e :: set.erase e) }
  | none => s

/-- The merging-buffer entry of an HBM line. -/
def State.mbFind (s : State) (line : Nat) : Option MbEntry := s.mb.find? fun e => e.line == line

/-- The masked byte of a merging-buffer entry. -/
def mbByte (e : MbEntry) (off : Nat) : Option Byte := kvGet e.bytes off

/-- One HBM byte as the slices show it: the merging buffer over DRAM (R490). On-chip locations have no such buffer. -/
def State.sliceByte (s : State) (l : Nat) : Byte :=
  if l < hbmTop then
    match (s.mbFind (l / 64)).bind fun e => mbByte e (l % 64) with
    | some b => b
    | none => memGet s.mem l
  else memGet s.mem l

/-- The byte of the newest write that waits for the host and covers a location (R647). -/
def heldByte (ws : List HeldWrite) (l : Nat) : Option Byte :=
  ws.foldl (fun r w => if w.addr ≤ l ∧ l < w.addr + w.data.length then w.data[l - w.addr]? else r) none

/-- One byte as the device's own reads find it: a read of a line queues behind the writes that wait for the host there, and so sees
them (DEDUCED, log 141: R545 shows a plate's writes to what its signal releases). -/
def State.devByte (s : State) (l : Nat) : Byte := (heldByte s.host.heldWrites l).getD (s.sliceByte l)

/-- Whether every byte of the sector of `l` stands in a merging-buffer entry. -/
def State.sectorMasked (s : State) (l : Nat) : Bool :=
  match s.mbFind (l / 64) with
  | some e => decide (l < hbmTop) && (List.range 32).all fun k => (mbByte e (l % 64 / 32 * 32 + k)).isSome
  | none => false

/-- Whether the byte at a location reads as poison through the slices (R511), or for this command alone because its transfer fails
(R507). -/
def State.poisonAt (s : State) (l : Nat) : Bool := (s.poison.contains (l / 32) && !s.sectorMasked l) || s.hbm.badReads.contains (l / 32)

/-- Whether the byte at a location reads as poison to the device, whose reads queue behind the writes that wait for the host. -/
def State.devBad (s : State) (l : Nat) : Bool :=
  s.host.heldWrites.foldl (fun b w => if w.bad.contains (l / 32) then true
    else if w.addr ≤ l / 32 * 32 ∧ l / 32 * 32 + 32 ≤ w.addr + w.data.length then false else b) (s.poisonAt l)

/-- Write a merging-buffer entry to DRAM: its bytes land; a sector that it covers whole is no longer poisoned. -/
def State.mbToDram (s : State) (e : MbEntry) : State :=
  let base := 64 * e.line
  let whole (k : Nat) : Bool := (List.range 32).all fun j => (mbByte e (32 * k + j)).isSome
  { s with
    mem := e.bytes.foldl (fun m ob => memPut m (base + ob.1) ob.2) s.mem
    poison := s.poison.filter fun q => !(q == 2 * e.line && whole 0) && !(q == 2 * e.line + 1 && whole 1)
    mb := s.mb.filter fun x => x.line != e.line }

/-- The entries of one slice, oldest first (the list is kept in order of birth). -/
def State.mbOf (s : State) (region : Nat) : List MbEntry := s.mb.filter fun e => e.region == region

/-- Drain the oldest entry of a slice. -/
def State.mbDrainOldest (s : State) (region : Nat) : State :=
  match s.mbOf region with
  | e :: _ => s.mbToDram e
  | [] => s

/-- Record the occupancy of a slice's buffer in RC_MB_PEAK. -/
def State.mbPeak (s : State) (region : Nat) : State :=
  s.raiseTo Fld.rcMbPeak (s.physOf region) (satNat (s.mbOf region).length 255)

/-- Write bytes of one HBM line into the merging buffer of its home slice (R489, R491): they merge into the line's entry
or make a new one; a full buffer first drains an entry; a full mask, or 192 entries or more, drains at once. No line above HBM has an entry. -/
def State.mbWrite (s : State) (line : Nat) (bs : List (Nat × Byte)) : State :=
  let region := s.homeSlice (64 * line)
  if hbmTop ≤ 64 * line then { s with mem := bs.foldl (fun m ob => memPut m (64 * line + ob.1) ob.2) s.mem }
  else match s.mbFind line with
  | some e =>
    let e' := { e with bytes := bs.foldl (fun acc ob => kvPut acc ob.1 ob.2) e.bytes }
    let s1 : State := { s with mb := s.mb.map fun x => if x.line == line then e' else x }
    if e'.bytes.length = 64 then s1.mbToDram e' else s1
  | none =>
    let s1 : State := if 256 ≤ (s.mbOf region).length then (s.bump Fld.rcMbStalls (s.physOf region) 1).mbDrainOldest region else s
    let e : MbEntry := ⟨line, region, bs.foldl (fun acc ob => kvPut acc ob.1 ob.2) [], s.upNs⟩
    let s2 : State := State.mbPeak { s1 with mb := s1.mb ++ [e] } region
    if e.bytes.length = 64 then s2.mbToDram e
    else if 192 ≤ (s2.mbOf region).length then s2.mbDrainOldest region
    else s2

/-- The pieces of a run of bytes by line: line number and the bytes with their offsets. -/
def linePieces : Nat → Bytes → List (Nat × List (Nat × Byte))
  | _, [] => []
  | l, b :: bs =>
    match linePieces (l + 1) bs with
    | (k, ps) :: t => if k = l / 64 then (k, (l % 64, b) :: ps) :: t else (l / 64, [(l % 64, b)]) :: (k, ps) :: t
    | [] => [(l / 64, [(l % 64, b)])]

/-- Clear the poison of the sectors of a run of bytes that it covers whole. -/
def clearPoisonRun (poison : List Nat) (l n : Nat) : List Nat :=
  poison.filter fun q => !(decide (l ≤ 32 * q) && decide (32 * q + 32 ≤ l + n))

/-- Write a run of bytes at a location through the home slices; on-chip locations are written in place. -/
def State.sliceWrite (s : State) (l : Nat) (bs : Bytes) : State :=
  if l < hbmTop then (linePieces l bs).foldl (fun s p => (s.cacheTouch p.1).mbWrite p.1 p.2) s
  else { s with mem := memPutRun s.mem l bs, poison := clearPoisonRun s.poison l bs.length }

/-- Write a run of bytes straight to DRAM or on-chip memory, with no merging buffer. -/
def State.rawWrite (s : State) (l : Nat) (bs : Bytes) : State :=
  { s with mem := memPutRun s.mem l bs, poison := clearPoisonRun s.poison l bs.length }

/-- Poison every sector of a run of bytes. -/
def State.poisonRun (s : State) (l n : Nat) : State :=
  { s with poison := (List.range (ceilDiv (l % 32 + n) 32)).foldl (fun q k => setIns q (l / 32 + k)) s.poison }

/-- A sector becomes poison through the slices: what the merging buffer held of it goes (R511). -/
def State.slicePoison (s : State) (q : Nat) : State :=
  { s with
    poison := setIns s.poison q
    mb := (s.mb.map fun e => if e.line == q / 2 then { e with bytes := e.bytes.filter fun b => b.1 / 32 != q % 2 } else e).filter fun e =>
      !e.bytes.isEmpty }

/-- The part of the merging buffer in a write of a whole line: it takes the line's entry along, or makes one that drains at once
(R489, R491). -/
def State.bufferPass (s : State) (line : Nat) : State :=
  match s.mbFind line with
  | some _ => { s with mb := s.mb.filter fun e => e.line != line }
  | none =>
    let k := s.homeSlice (64 * line)
    let s1 : State := if 256 ≤ (s.mbOf k).length then (s.bump Fld.rcMbStalls (s.physOf k) 1).mbDrainOldest k else s
    s1.raiseTo Fld.rcMbPeak (s1.physOf k) (satNat ((s1.mbOf k).length + 1) 255)

/-- The host may hold a line: the snoop filter marks it, or a back-invalidate snoop of it is not answered (R647). -/
def State.snooped (s : State) (line : Nat) : Bool := s.host.snoop.contains line || s.host.snoopOut.contains line

/-- A write waits for the host's answer; one snoop goes out for the line (R647). -/
def State.holdWrite (s : State) (w : HeldWrite) : State :=
  let s1 : State := if s.host.snoopOut.contains w.line then s
    else ({ s with host := { s.host with snoopOut := w.line :: s.host.snoopOut } } : State).emit (.backInvalidate w.line)
  { s1 with host := { s1.host with heldWrites := s1.host.heldWrites ++ [w] } }

/-- Write a run of bytes at an HBM or on-chip location from the device's side: a line that the host may hold first waits
for the answer to a back-invalidate snoop (R647). -/
def State.devWrite (s : State) (l : Nat) (bs : Bytes) : State :=
  if hbmTop ≤ l then s.sliceWrite l bs
  else (linePieces l bs).foldl (fun s p =>
    if s.snooped p.1 then s.holdWrite ⟨p.1, 64 * p.1 + (p.2.headD (0, 0)).1, p.2.map (·.2), []⟩
    else (s.cacheTouch p.1).mbWrite p.1 p.2) s

/-- Write a whole line from the device's side. -/
def State.lineWrite (s : State) (l : Nat) (bs : Bytes) : State :=
  if hbmTop ≤ l then s.rawWrite l bs
  else if s.snooped (l / 64) then s.holdWrite ⟨l / 64, l, bs, []⟩
  else ((s.cacheTouch (l / 64)).bufferPass (l / 64)).rawWrite l bs

/-- Poison the sectors of a run from the device's side: in HBM that is a write of their lines (R511, R647). -/
def State.devPoison (s : State) (l n : Nat) : State :=
  if hbmTop ≤ l then s.poisonRun l n
  else (List.range (ceilDiv (l % 32 + n) 32)).foldl (fun s k =>
    let q := l / 32 + k
    if s.snooped (q / 2) then s.holdWrite ⟨q / 2, 32 * q, [], [q]⟩ else s.slicePoison q) s

/-- A write that waited for the host takes effect. -/
def State.landWrite (s : State) (w : HeldWrite) : State := w.bad.foldl State.slicePoison (s.sliceWrite w.addr w.data)

end Sys2Proof.Machine
end

