-- ==== Sys2Proof/Machine/Codec.lean ====
section
/-! DEFINITION. How a slug is stored (R304 to R310): the tag, the four body forms, the store compressor and the decoder. Pure
functions of bytes. -/

namespace Sys2Proof.Machine

/-! ### The codec (R305 to R310) -/

/-- Zero bytes at the front of a list. -/
def zeroRun : Bytes → Nat
  | b :: t => if b = 0 then zeroRun t + 1 else 0
  | [] => 0

/-- The literal bytes before the next two zero bytes, at most `n`. -/
def litRun : Nat → Bytes → Nat
  | 0, _ => 0
  | n + 1, b :: t => if b = 0 ∧ t.head? = some 0 then 0 else litRun n t + 1
  | _, [] => 0

/-- zero_run_encode (R307); the fuel bounds its steps. -/
def zeroRunEncode : Nat → Bytes → Bytes
  | 0, _ => []
  | _, [] => []
  | f + 1, bs =>
    let z := zeroRun bs
    if 2 ≤ z then
      let n := min z 128
      BitVec.ofNat 8 (0x80 + (n - 1)) :: zeroRunEncode f (bs.drop n)
    else
      let n := litRun 128 bs
      BitVec.ofNat 8 (n - 1) :: (bs.take n ++ zeroRunEncode f (bs.drop n))

/-- Decode tokens (R306); `n` literal bytes are still to come. -/
def zeroRunDecode : Nat → Bytes → Bytes
  | _, [] => []
  | 0, t :: bs =>
    if t.toNat < 128 then zeroRunDecode (t.toNat + 1) bs else List.replicate (t.toNat % 128 + 1) 0 ++ zeroRunDecode 0 bs
  | n + 1, b :: bs => b :: zeroRunDecode n bs

/-- The decoded elements of a row of `n` elements (R165). -/
def rowElems (ty n : Nat) (row : Bytes) : List Int := (List.range n).map (packedElem ty row)

/-- The raw bytes of a row of elements (R306). -/
def rowBytes (ty : Nat) (xs : List Int) : Bytes :=
  if elemWidth ty = 8 then xs.map fun x => BitVec.ofNat 8 (patOf 8 x)
  else (pieces 2 xs).map fun p => BitVec.ofNat 8 (patOf 4 (p.getD 0 0) + 16 * patOf 4 (p.getD 1 0))

/-- Differences of neighbouring elements. -/
def diffs : List Int → List Int
  | a :: b :: t => (b - a) :: diffs (b :: t)
  | _ => []

/-- An integer fits `k` bits of two's complement. -/
def fitsS (k : Nat) (d : Int) : Bool := wrapS k d == d

/-- The delta body of a row, where it has one (R306, R308). -/
def deltaBody (ty : Nat) (xs : List Int) : Option Bytes :=
  let ds := diffs xs
  let top := if elemWidth ty = 8 then 7 else 3
  ((List.range (top - 1)).map (· + 2)).find? (fun k => ds.all (fitsS k)) |>.map fun k =>
    natLe 1 k ++ natLe 1 (patOf (elemWidth ty) (xs.headD 0)) ++
      natLe (ceilDiv (k * ds.length) 8) ((ds.zipIdx.map fun e => patOf k e.1 * 2 ^ (k * e.2)).foldl (· + ·) 0)

/-- The elements of a delta body. -/
def deltaElems (ty n : Nat) (body : Bytes) : List Int :=
  let k := u8At body 0 % 8
  let v := leNat (body.drop 2)
  ((List.range (n - 1)).foldl (fun (acc : List Int × Int) j =>
    let x := acc.2 + sextNat k (v >>> (k * j))
    (acc.1 ++ [x], x)) ([decodeElem ty (u8At body 1)], decodeElem ty (u8At body 1))).1

/-- Store a row: the form with the shortest body; an all-zero row takes zero form (R309). -/
def encodeSlug (ty n : Nat) (row : Bytes) (e : Int) (poison : Bool) : Slug :=
  let xs := rowElems ty n row
  if xs.all (· == 0) then ⟨e, 3, [], poison⟩
  else
    let z := zeroRunEncode row.length row
    let best := if z.length < row.length then (1, z) else (0, row)
    match deltaBody ty xs with
    | some d => if d.length < best.2.length then ⟨e, 2, d, poison⟩ else ⟨e, best.1, best.2, poison⟩
    | none => ⟨e, best.1, best.2, poison⟩

/-- The row bytes of a stored slug of `n` elements and `r` bytes (R306, R310). -/
def Slug.row (ty n r : Nat) (g : Slug) : Bytes :=
  match g.form with
  | 0 => slice g.body 0 r
  | 1 => slice (zeroRunDecode 0 g.body) 0 r
  | 2 => rowBytes ty (deltaElems ty n g.body)
  | _ => List.replicate r 0

/-- The decoded elements of a stored slug. -/
def Slug.elems (ty n r : Nat) (g : Slug) : List Int := rowElems ty n (g.row ty n r)

/-- ST_SECTORS and the tag (R305). -/
def Slug.sectors (g : Slug) : Nat := ceilDiv g.body.length 32
def Slug.tag (g : Slug) : Nat := patOf 6 g.exp + 64 * g.form + 256 * g.sectors

/-- The 32-byte sectors of a slot, and its bytes (R304). -/
def slotBytes (r : Nat) : Nat := 32 * ceilDiv r 32

/-- The bytes of a slot that holds a slug: its body, then zeros (R306). -/
def Slug.slot (r : Nat) (g : Slug) : Bytes := slice g.body 0 (slotBytes r)

/-- Bytes of the tokens that produce `r` row bytes, at most `fuel` of them (R306). -/
def zeroRunLen : Nat → Nat → Bytes → Nat
  | 0, _, _ => 0
  | _, 0, _ => 0
  | _, _, [] => 0
  | f + 1, r + 1, t :: bs =>
    let n := t.toNat % 128 + 1
    if t.toNat < 128 then 1 + n + zeroRunLen f (r + 1 - n) (bs.drop n) else 1 + zeroRunLen f (r + 1 - n) bs

/-- The length of a stored slug's body, for `n` elements in a row of `r` bytes (R306). -/
def Slug.bodyLen (n r : Nat) (g : Slug) : Nat :=
  match g.form with
  | 0 => r
  | 1 => zeroRunLen r r g.body
  | 2 => 2 + ceilDiv (u8At g.body 0 % 8 * (n - 1)) 8
  | _ => 0

/-- The fields of a tag (R305). -/
def tagExp (t : Nat) : Int := sextNat 6 (bitsOf t 5 0)
def tagForm (t : Nat) : Nat := bitsOf t 7 6
def tagSectors (t : Nat) : Nat := bitsOf t 13 8

/-- A slug as a tag and the sectors of its body give it. -/
def slugOf (tag : Nat) (body : Bytes) (poison : Bool) : Slug := ⟨tagExp tag, tagForm tag, body, poison⟩

end Sys2Proof.Machine
end

