-- ==== Sys2Proof/Machine/Forme.lean ====
section
/-! DEFINITION. A forme as bytes: its header, directory and sections read field by field (R50 to R83, R133). Offsets past
the end read as zero. -/

namespace Sys2Proof.Machine

/-! ### Header and directory (R54, R55) -/

def fhTotalLen (f : Bytes) : Nat := u32At f 8
def fhSections (f : Bytes) : Nat := u16At f 0xC
def fhFlags (f : Bytes) : Nat := u16At f 0xE
def fhHeaderDigest (f : Bytes) : Bytes := slice f 0x60 32

/-- FH_COMPAT_7410 and FH_TRACER_ALLOWED. -/
def fhCompat (f : Bytes) : Bool := bitOf (fhFlags f) 0
def fhTracer (f : Bytes) : Bool := bitOf (fhFlags f) 1

/-- A directory entry: where it stands, DE_TYPE, DE_VERSION, DE_OFFSET, DE_LENGTH. -/
structure DirEnt where
  pos : Nat
  ty : Nat
  ver : Nat
  off : Nat
  len : Nat
  deriving DecidableEq, Repr

/-- The directory entries. -/
def dirEntries (f : Bytes) : List DirEnt :=
  (List.range (fhSections f)).map fun i =>
    let p := 128 + 48 * i
    ⟨p, u16At f p, u16At f (p + 2), u32At f (p + 4), u32At f (p + 8)⟩

/-- The first entry of a section type. -/
def dirEntry (f : Bytes) (ty : Nat) : Option DirEnt := (dirEntries f).find? fun e => e.ty == ty

/-- Offset of a section in the forme, 0 when absent, and its content. -/
def secOff (f : Bytes) (ty : Nat) : Nat := match dirEntry f ty with | some e => e.off | none => 0
def secBytes (f : Bytes) (ty : Nat) : Bytes :=
  match dirEntry f ty with | some e => (f.drop e.off).take e.len | none => []

/-! ### Partition (R58) -/

def ptSec (f : Bytes) : Bytes := secBytes f 1
def ptTag (f : Bytes) : Nat := u32At (ptSec f) 0
def ptCount (f : Bytes) : Nat := u16At (ptSec f) 4
def ptInterleave (f : Bytes) : Nat := u8At (ptSec f) 6
def ptNode (f : Bytes) (i : Nat) : Nat := u16At (ptSec f) (8 + 8 * i)
def ptRegions (f : Bytes) (i : Nat) : Nat := u16At (ptSec f) (10 + 8 * i)

/-- The ordinal of the member with a node ID (R59). -/
def ptOrdinal (f : Bytes) (node : Nat) : Option Nat := (List.range (ptCount f)).find? fun i => ptNode f i == node

/-! ### Wiring (R62 to R66) -/

/-- A chain: where its record starts in the section, CH_ID, and its hops (region, block). -/
structure Chain where
  pos : Nat
  id : Nat
  hops : List (Nat × Nat)
  deriving DecidableEq, Repr

/-- The chain records from offset `p` on. -/
def chainsFrom (w : Bytes) : Nat → Nat → List Chain
  | 0, _ => []
  | n + 1, p =>
    let h := u16At w (p + 2)
    ⟨p, u16At w p, (List.range h).map fun j => (u8At w (p + 8 + 4 * j), u8At w (p + 9 + 4 * j))⟩ ::
      chainsFrom w n (p + 8 + 4 * h)

def wrChains (f : Bytes) : List Chain := let w := secBytes f 2; chainsFrom w (u16At w 0) 264

/-- Whether every hop of a chain lies in a region mask (R66). -/
def chainIn (c : Chain) (mask : Nat) : Bool := c.hops.all fun h => bitOf mask h.1

/-- The chain of an ID that a member with regions `mask` instantiates (R66). -/
def memberChain (f : Bytes) (mask id : Nat) : Option Chain := (wrChains f).find? fun c => c.id == id && chainIn c mask

/-! ### Stroke timing (R67) -/

def stSec (f : Bytes) : Bytes := secBytes f 3

/-- The effective period P in nanoseconds, the effective lock-up budget and hold limit, ST_DIST_PM and ST_EPOCH. -/
def stPeriodNs (f : Bytes) : Nat := let v := u32At (stSec f) 0; if v = 0 then 100000 else 64 * v
def stLockupPm (f : Bytes) : Nat := let v := u16At (stSec f) 4; if v = 0 then 50 else v
def stHoldPm (f : Bytes) : Nat := let v := u16At (stSec f) 6; if v = 0 then 100 else v
def stDistPm (f : Bytes) : Nat := u16At (stSec f) 8
def stEpoch (f : Bytes) : Nat := u64At (stSec f) 16

/-! ### Mark plan (R70) -/

/-- A mark entry: its place in the section, ME_ID, ME_CONTEXT, ME_FLAGS, ME_TARGET, ME_INITIAL. -/
structure MarkEnt where
  pos : Nat
  id : Nat
  ctx : Nat
  flags : Nat
  target : Nat
  initial : Nat
  deriving DecidableEq, Repr

def MarkEnt.barrier (m : MarkEnt) : Bool := bitOf m.flags 0
def MarkEnt.fabric (m : MarkEnt) : Bool := bitOf m.flags 1

def mkSec (f : Bytes) : Bytes := secBytes f 4
def mkMode (f : Bytes) : Nat := u8At (mkSec f) 0
def mkContexts (f : Bytes) : Nat := u8At (mkSec f) 1

def markEntries (f : Bytes) : List MarkEnt :=
  let m := mkSec f
  (List.range (u32At m 4)).map fun i =>
    let p := 8 + 16 * i
    ⟨p, u16At m p, u8At m (p + 2), u8At m (p + 3), u32At m (p + 4), u32At m (p + 8)⟩

/-! ### Plate program (R76, R133) -/

/-- A plate descriptor (R133). -/
structure Plate where
  op : Nat
  flags : Nat
  ink : Nat
  cond : Nat
  tint : Nat
  chain : Nat
  galley : Nat
  wait : Nat
  sig : Nat
  next : Nat
  alt : Nat
  src : Nat
  dst : Nat
  count : Nat
  args : Nat
  summary : Nat
  deriving DecidableEq, Repr

/-- PD_TRACER, PD_FENCE, PD_SUM_EN and the summary slot. -/
def Plate.tracer (p : Plate) : Bool := bitOf p.flags 0
def Plate.fence (p : Plate) : Bool := bitOf p.flags 1
def Plate.sumEn (p : Plate) : Bool := bitOf p.summary 7
def Plate.slot (p : Plate) : Nat := bitsOf p.summary 2 0

/-- Opcodes (R134). -/
def opGather : Nat := 1
def opScatter : Nat := 2
def opDense : Nat := 3
def opSparse : Nat := 4
def opAggregate : Nat := 5
def opFrontier : Nat := 6
def opTint : Nat := 7
def opReduce : Nat := 8
def opExchange : Nat := 9
def opState : Nat := 10
def opHold : Nat := 11
def opBranch : Nat := 12

/-- No tint program, chain or mark; no galley. -/
def none16 : Nat := 0xFFFF
def none32 : Nat := 0xFFFFFFFF

/-- A descriptor from its 64 bytes. -/
def plateOf (b : Bytes) : Plate :=
  ⟨u8At b 0, u8At b 1, u8At b 2, u8At b 3, u16At b 4, u16At b 6, u32At b 8, u16At b 12, u16At b 14, u32At b 16,
    u32At b 20, u64At b 24, u64At b 32, u64At b 40, u64At b 48, u8At b 56⟩

def plCount (f : Bytes) : Nat := u32At (secBytes f 5) 0
def plEntry (f : Bytes) : Nat := u32At (secBytes f 5) 4
def plateAt (f : Bytes) (p : Nat) : Plate := plateOf (slice (secBytes f 5) (64 + 64 * p) 64)
def plates (f : Bytes) : List Plate := (List.range (plCount f)).map (plateAt f)

/-- REDUCE of chase scope, which runs in the distribution phase (R207). -/
def Plate.chaseScope (p : Plate) : Bool := p.op == opReduce && bitOf p.args 34

/-- A plate of the distribution phase (R119). -/
def Plate.isDist (p : Plate) : Bool := p.op == opExchange || p.chaseScope

/-- A plate that may run only in the run phase (R134, R138). -/
def Plate.runOnly (p : Plate) : Bool := !(p.isDist || p.op == opHold || p.op == opBranch)

/-- GA_ROLE of a GATHER plate. -/
def Plate.gaRole (p : Plate) : Nat := bitsOf p.args 36 35

/-! ### Tint programs (R77, R78) -/

/-- A tint program: TN_ID, length, whether it has a table, and where its body starts in the section. -/
structure TintProg where
  pos : Nat
  id : Nat
  len : Nat
  flags : Nat
  off : Nat
  deriving DecidableEq, Repr

def TintProg.lut (t : TintProg) : Bool := bitOf t.flags 0
def TintProg.bodyEnd (t : TintProg) : Nat := t.off + 8 * t.len + if t.lut then 1024 else 0

def tintProgs (f : Bytes) : List TintProg :=
  let b := secBytes f 6
  (List.range (u16At b 0)).map fun i =>
    let p := 8 + 8 * i
    ⟨p, u16At b p, u8At b (p + 2), u8At b (p + 3), u32At b (p + 4)⟩

def tintProg (f : Bytes) (id : Nat) : Option TintProg := (tintProgs f).find? fun t => t.id == id

/-- The micro-op words and the lookup table of a program. -/
def tintWords (f : Bytes) (t : TintProg) : List Nat :=
  (List.range t.len).map fun k => u64At (secBytes f 6) (t.off + 8 * k)
def tintLut (f : Bytes) (t : TintProg) : List Lane :=
  if t.lut then (List.range 256).map fun k => BitVec.ofNat 32 (u32At (secBytes f 6) (t.off + 8 * t.len + 4 * k)) else []

/-! ### Galley declarations (R79 to R82) -/

/-- The 64-byte declarations, in order. -/
def galDecls (f : Bytes) : List Bytes :=
  let b := secBytes f 7
  (List.range (u32At b 0)).map fun i => slice b (64 + 64 * i) 64

def gdId (d : Bytes) : Nat := u32At d 0
def gdElements (d : Bytes) : Nat := u16At d 4
def gdType (d : Bytes) : Nat := u8At d 6
def gdPlacement (d : Bytes) : Nat := u8At d 7
def gdSlugs (d : Bytes) : Nat := u64At d 8
def gdHints (d : Bytes) : Nat := u8At d 16
def gdAffinity (d : Bytes) : Nat := u16At d 18
def gdTrainable (d : Bytes) : Bool := bitOf (gdHints d) 2

/-- Bytes of one row, and the declared size (R80). -/
def gdRow (d : Bytes) : Nat := ceilDiv (gdElements d * elemWidth (gdType d)) 8
def gdSize (d : Bytes) : Nat := gdSlugs d * gdRow d

/-- Whether a declared galley is sharded (R81, R82). -/
def gdSharded (d : Bytes) : Bool := gdPlacement d == 2 || (gdPlacement d == 0 && decide (268435456 < gdSize d))

def galDecl (f : Bytes) (id : Nat) : Option Bytes := (galDecls f).find? fun d => gdId d == id

/-- The owner of a slug of a sharded galley (R303). -/
def slugOwner (i d : Nat) : Nat :=
  let h := (i / d * 0x9E3779B97F4A7C15) % 2 ^ 64
  (i % d + bitsOf h 63 40) % d

/-! ### Ink classes (R83) -/

/-- The ink classes: place in the section, IC_ID, IC_INK. -/
def inkClasses (f : Bytes) : List (Nat × Nat × Nat) :=
  let b := secBytes f 8
  (List.range (u8At b 0)).map fun i => (8 + 8 * i, u8At b (8 + 8 * i), u16At b (10 + 8 * i))

/-- IC_INK of a class. -/
def inkOf (f : Bytes) (id : Nat) : Nat := match (inkClasses f).find? fun c => c.2.1 == id with | some c => c.2.2 | none => 0

/-! ### The chase of a slot -/

/-- The forme of a slot, its ordinal on this device, and its plate in hand. -/
def State.forme (s : State) (c : Nat) : Bytes := (s.chase c).forme
def State.nodeId (s : State) : Nat := s.getF Fld.hlkNdId 0
def State.ordinal (s : State) (c : Nat) : Nat := (ptOrdinal (s.forme c) s.nodeId).getD 0
def State.members (s : State) (c : Nat) : Nat := ptCount (s.forme c)
def State.plate (s : State) (c : Nat) : Plate := plateAt (s.forme c) (s.chase c).plate.index

/-- The hops of the chain that the plate in hand names, where this member has it (R66): (logical region, logical block). -/
def State.plateHops (s : State) (c : Nat) : List (Nat × Nat) :=
  match memberChain (s.forme c) (s.getF Fld.sysChaseRegions c) (s.plate c).chain with
  | some x => x.hops
  | none => []

/-- The slot whose chase has a tag (0: none names it). -/
def State.slotOfTag (s : State) (tag : Nat) : Option Nat :=
  (List.range 16).find? fun c => s.cs c != csEmpty && s.cs c != csValidating && ptTag (s.forme c) == tag

/-- Stroke timing of a slot as its registers hold it. -/
def State.periodNs (s : State) (c : Nat) : Nat := s.getF Fld.stkPeriodNs c
def State.boundary (s : State) (c n : Nat) : Nat := s.getF Fld.stkEpoch c + n * s.periodNs c
def State.announceNs (s : State) (c : Nat) : Nat := 64 * s.getF Fld.stkAnnounce c
def State.holdNs (s : State) (c : Nat) : Nat := s.periodNs c * s.getF Fld.stkHoldPm c / 1000

/-- The time counter (R730). -/
def State.now (s : State) : Nat := s.rd .timeNs 0

end Sys2Proof.Machine
end

