-- ==== Sys2Proof/Machine/Mem.lean ====
section
/-! DEFINITION. Chase memory: bands, units and frames (R418 to R424, R469 to R474), locked scratch (R486 to R488), reading
and writing chase data through the home slices, and the ledger of HBM not otherwise reserved (R422, R473). -/

namespace Sys2Proof.Machine

/-! ### Placement of units (R469 to R472) -/

/-- The slot list of a band when it is assigned: `layout` 0 or 1 near-only of a die, 2 full (R470). -/
def State.slotList (s : State) (layout : Nat) : List Nat :=
  let st := (List.range 12).filter fun k => s.stackOnline k && (layout == 2 || k / 6 == layout)
  (List.range 64).flatMap fun pc => st.map fun k => 64 * k + pc

/-- `place()`: the HBM address of line `ln` of unit `n`, with `m` lines a unit (R471). -/
def placeUnit (slots : List Nat) (k n ln m : Nat) : Nat :=
  let c := slots.length
  let q := n / c
  let h := ((q * 0x9E3779B1) % 2 ^ 32) >>> 16
  slots.getD ((n % c + h) % c) 0 * 2 ^ 30 + 64 * (k * 65536 + q * m + ln)

/-- The band that serves a layout under a number. -/
def State.band (s : State) (layout k : Nat) : Option BandEnt :=
  s.hbm.bands.find? fun b => b.band == k && b.layout == layout

/-- The HBM address of a byte of a unit run: near-only frames are one unit of 64 lines, full frames 16 units of 4 lines
(R472). -/
def State.frameHa (s : State) (layout k unit off : Nat) : Nat :=
  let slots := match s.band layout k with | some b => b.slots | none => []
  if layout = 2 then placeUnit slots k (unit + off / 256) (off / 64 % 4) 4 + off % 64
  else placeUnit slots k unit (off / 64) 64 + off % 64

/-- The 256-byte pieces of a frame, as HBM addresses / 256. -/
def State.framePieces (s : State) (layout k unit : Nat) : List Nat :=
  (List.range 16).map fun j => s.frameHa layout k unit (256 * j) / 256

/-- Whether the host pool holds an HBM address (R659). -/
def State.inPool (s : State) (h : Nat) : Bool :=
  let b := s.getF Fld.hifPoolBaseGib 0
  decide (b ≤ h / 2 ^ 30) && decide (h / 2 ^ 30 < b + s.getF Fld.hifPoolLenGib 0)

/-- A piece that no allocation may use: offline, retired or in the host pool (R474, R516, R659). -/
def State.excluded (s : State) (q : Nat) : Bool :=
  s.haOffline (256 * q) || s.hbm.retired.contains q || s.inPool (256 * q)

/-- Units in use under a layout and band, over every chase: those of frames, and those that moves are to fill. -/
def State.usedUnits (s : State) (layout k : Nat) : List Nat :=
  s.chases.flatMap fun x => (x.frames.filterMap fun e =>
      if e.2.layout == layout && e.2.band == k then some e.2.unit else none) ++
    x.migrations.filterMap fun m => if m.kind == 2 && m.layout == layout && m.band == k then some m.unit else none

/-- The number of frames that a band holds. -/
def bandUnits (slots : List Nat) : Nat := slots.length * 1024

/-- The `j`-th first unit of a layout. -/
def firstUnit (layout j : Nat) : Nat := if layout = 2 then 16 * j else j

/-- A free unit of a band, searched from a free starting point. -/
def State.freeUnit (s : State) (r : Nat) (b : BandEnt) : Option Nat :=
  let used := s.usedUnits b.layout b.band
  (pickFrom r (bandUnits b.slots) fun j =>
    let u := firstUnit b.layout j
    !used.contains u && (s.framePieces b.layout b.band u).all (!s.excluded ·)).map (firstUnit b.layout)

/-! ### The HBM ledger -/

/-- HBM that is in service and not in the host pool, in bytes. -/
def State.hbmOnline (s : State) : Nat :=
  2 ^ 30 * ((List.range 768).filter fun g => !s.pcOffline (g / 64) (g % 64) && !s.inPool (g * 2 ^ 30)).length

/-- Rounded-up storage of a galley beyond its declared size (R304): the bytes of one member. -/
def galleyExtra (d : Bytes) (members : Nat) (split : Bool) : Nat :=
  let r := gdRow d
  let slot := 32 * ceilDiv r 32
  let rows := if gdSharded d then ceilDiv (gdSlugs d) members else gdSlugs d
  let train := gdTrainable d
  (slot - r + 2) * rows + 4 * slot + (if train then 8 * gdElements d * rows + ceilDiv rows 8 else 0) +
    (if train && decide (1 < members) then 64 * 2 ^ 20 else 0) +
    (if gdSharded d && decide (1 < members) && split then 144 * 2 ^ 20 + 2 * 65536 * gdElements d * 32 else 0)

/-- A galley's reservation on a member: its declared size or share, and its storage (R90, R304). -/
def galleyBytes (d : Bytes) (members : Nat) (split : Bool) : Nat :=
  (if gdSharded d then 2 ^ 20 * ceilDiv (ceilDiv (gdSize d) members) (2 ^ 20) else gdSize d) + galleyExtra d members split

/-- Whether a forme holds a SPLIT plate on a galley. -/
def hasSplit (f : Bytes) (id : Nat) : Bool :=
  (plates f).any fun p => p.op == opGather && p.gaRole == 1 && p.galley == id

/-- The reservations of a forme in the order of R873: bytes, DE_TYPE, offset in the section. -/
def formeReservations (f : Bytes) (regions : Nat) : List (Nat × Nat × Nat) :=
  let ps := plates f
  let hb := match ps.findIdx? fun p => p.op == opScatter || p.op == opAggregate with
    | some i => [(4 * 2 ^ 20 * 16 * ((List.range 16).filter (bitOf regions)).length, 5, 64 + 64 * i)]
    | none => []
  hb ++ ((galDecls f).zipIdx.map fun e => (galleyBytes e.1 (ptCount f) (hasSplit f (gdId e.1)), 7, 64 + 64 * e.2))

/-- HBM reserved by the formes of the slots other than `skip`, their frames and guest space, in bytes. -/
def State.hbmReserved (s : State) (skip : Nat) : Nat :=
  ((List.range 16).filter (· != skip)).foldl (fun n c =>
    n + (formeReservations (s.forme c) (s.getF Fld.sysChaseRegions c)).foldl (fun m e => m + e.1) 0 +
      2 ^ 20 * s.getF Fld.impGuestGranted c) 0

/-- The keys of galley frames in ChaseSt.frames begin here. -/
def galKey : Nat := 2 ^ 32

/-- Bytes in backed frames of chase data, over every chase. -/
def State.framesBytes (s : State) : Nat :=
  4096 * s.chases.foldl (fun n x => n + (x.frames.filter fun e => decide (e.1 < galKey)).length) 0

/-- The number of a state's blank frame among the frames of its galley; slot frames count from 0, tag frames from 2^40. -/
def blankFrame : Nat := 2 ^ 41

/-- Frames that the states of a galley hold beyond one for each place: what a galley has taken from HBM not otherwise
reserved (R304, R318, R319). An unlisted frame of a state that serves or drains takes its place in the reservation. -/
def GalleySt.extraFrames (g : GalleySt) : Nat :=
  let idx := ((g.states.flatMap fun x => x.map.map (·.1)).filter (· != blankFrame)).eraseDups
  idx.foldl (fun n i =>
    let keys := (g.states.filterMap fun x => kvGet x.map i).eraseDups
    n + keys.length + natOfBool (g.states.any fun x => decide (2 ≤ x.stage) && (kvGet x.map i).isNone) - 1) 0

/-- Bytes in frames that galley states have copied, over every chase (R319). -/
def State.copiedBytes (s : State) : Nat :=
  4096 * s.chases.foldl (fun n x => x.galleys.foldl (fun n g => n + g.2.extraFrames) n) 0

/-- HBM not otherwise reserved, in bytes (R421, R433): the reservations of slot `skip` count as free (R94). Frames that galley
states have copied stay reserved, those of slot `skip` too (DEDUCED: R94 does not list them). -/
def State.hbmFree (s : State) (skip : Nat) : Nat :=
  s.hbmOnline - (384 * 2 ^ 20 + 256 * s.hbm.retired.length + s.hbmReserved skip + s.framesBytes + s.copiedBytes)

/-! ### Backing a frame (R421) -/

/-- Assign a new band to a layout (R469): its number is a free choice among those not taken. -/
def State.newBand (s : State) (r layout : Nat) : Option BandEnt :=
  (pickFrom r 256 fun k => s.hbm.bands.all fun b => !(b.band == k && (b.layout == layout || b.layout == 2 || layout == 2))).map
    fun k => ⟨k, layout, s.slotList layout⟩

/-- A band over stacks that are all in service: one that includes a stack gone offline takes nothing more, so that what it held is
rebuilt in bands over the remaining stacks (R518). Its slot list begins with pseudo-channel 0 of each of its stacks (R470). -/
def State.bandWhole (s : State) (b : BandEnt) : Bool := (b.slots.takeWhile fun k => k % 64 == 0).all fun k => s.stackOnline (k / 64)

/-- Find a unit of a layout: in a band that serves it, else in a new one. -/
def State.findUnit (s : State) (r layout : Nat) : Option (BandEnt × Nat × Bool) :=
  match (s.hbm.bands.filter fun b => b.layout == layout && s.bandWhole b).findSome? fun b => (s.freeUnit r b).map fun u => (b, u, false) with
  | some x => some x
  | none => (s.newBand r layout).bind fun b =>
      let s1 : State := { s with hbm := { s.hbm with bands := s.hbm.bands ++ [b] } }
      (s1.freeUnit r b).map fun u => (b, u, true)

/-- The layouts that a chase's frames may take, the freely chosen die first (R429). -/
def layoutsOf (interleave r : Nat) : List Nat := if interleave = 1 then [2] else [r % 2, (r + 1) % 2]

/-- The tier code of an HBM home: near when the chase holds a region of its die, or in full layout. -/
def State.hbmTier (s : State) (c layout : Nat) : Nat :=
  if layout = 2 ∨ (s.heldRegions c).any (fun k => k / 8 == layout) then 3 else 4

/-- A frame entry for a unit that has just been found. -/
def State.newFrame (s : State) (c layout band unit : Nat) : FrameEnt :=
  { layout := layout, band := band, unit := unit, tier := s.hbmTier c layout, region := 0, block := 0, cell := 0, copies := []
    heat := 0, counted := 0, srcs := [], dies := [], heatAt := (s.chase c).begunCount, writtenAt := 0, pinned := false
    clean := false, failed := [], lost := false, rehome := 0, shown := false }

/-- Find a unit in the first of some layouts that has one, assigning a band where that is needed (R469). -/
def State.takeUnit (s : State) (c r : Nat) (layouts : List Nat) : Option FrameEnt × State :=
  match layouts.findSome? fun l => (s.findUnit r l).map fun x => (l, x) with
  | none => (none, s)
  | some (l, b, u, isNew) =>
    let s1 : State := if isNew then { s with hbm := { s.hbm with bands := s.hbm.bands ++ [b] } } else s
    (some (s1.newFrame c l b.band u), s1)

/-- Choose HBM for a frame of slot `c` in one of some layouts, `need` bytes of HBM not otherwise reserved being wanted: none
when no HBM is left (R422). The starting point of the search is free. -/
def State.allocIn (s : State) (c need : Nat) (layouts : Nat → List Nat) : Option FrameEnt × State :=
  let r := s.fresh
  if r.2.hbmFree 16 < need then (none, r.2) else r.2.takeUnit c r.1 (layouts r.1)

/-- Choose HBM for a frame of chase data (R421, R429). -/
def State.allocFrame (s : State) (c : Nat) : Option FrameEnt × State := s.allocIn c 4096 (layoutsOf (ptInterleave (s.forme c)))

/-- The frame number of a chase address, and whether it names the scratch half (R487). -/
def caFrame (a : Nat) : Nat := a / 4096
def caScratch (a : Nat) : Bool := bitOf a 43

/-- A frame entry of a slot. -/
def State.frame (s : State) (c f : Nat) : Option FrameEnt := kvGet (s.chase c).frames f

/-- Update a frame entry. -/
def State.updFrame (s : State) (c f : Nat) (g : FrameEnt → FrameEnt) : State :=
  match s.frame c f with
  | some e => s.updChase c fun x => { x with frames := kvPut x.frames f (g e) }
  | none => s

/-- Whether an address lies in locked scratch of a region that the slot holds (R486). -/
def State.inScratch (s : State) (c a : Nat) : Bool :=
  let k := (a - 2 ^ 43) / 2 ^ 24
  caScratch a && decide (k < 16) && (s.heldRegions c).contains k &&
    decide (a % 2 ^ 24 < s.getF Fld.rcEffLock (s.physOf k) * 2 ^ 20)

/-- The HBM address of a byte of a frame, whatever its home (R426). -/
def State.entryHa (s : State) (e : FrameEnt) (off : Nat) : Nat := s.frameHa e.layout e.band e.unit off

/-- Where a byte of chase data lies; none where nothing backs it (R420, R421, R487). -/
def State.chaseLoc (s : State) (c a : Nat) : Option Nat :=
  if a < 4096 ∨ 2 ^ 44 ≤ a then none
  else if caScratch a then (if s.inScratch c a then some (chipLoc c a) else none)
  else match s.frame c (caFrame a) with
    | some e => if e.tier ≤ 2 then some (chipLoc c a) else some (s.entryHa e (a % 4096))
    | none => none

/-- Where the sample directory begins: 16 bytes for each of the 2,048 sample slots of the device (R693). -/
def sdBase : Nat := 0x40000000000

/-- Whether a chase address lies in the directory entry of a sample slot that another chase owns (R693). -/
def State.foreignSample (s : State) (c a : Nat) : Bool :=
  decide (sdBase ≤ a) && decide (a < sdBase + 32768) && (match kvGet s.samples ((a - sdBase) / 16) with
    | some x => x.slot != c
    | none => false)

/-- One byte of chase data; an unbacked byte reads as zero, and so does the directory entry of another chase's sample slot. -/
def State.chaseByte (s : State) (c a : Nat) : Byte :=
  match s.chaseLoc c a with
  | some l => if s.foreignSample c a then 0 else s.devByte l
  | none => 0

/-- Whether a frame that was rehomed with zeros still has a poisoned sector (R457). -/
def State.lostFrame (s : State) (c a : Nat) : Bool :=
  match s.frame c (caFrame a) with
  | some e => e.lost && !caScratch a && (List.range 128).any fun k => match s.chaseLoc c (a / 4096 * 4096 + 32 * k) with
      | some l => s.devBad l
      | none => false
  | none => false

/-- Whether a byte of chase data is poisoned: in its sector, with its whole frame, or because a plate found no HBM to write it
(R422, R511, R457). -/
def State.chasePoison (s : State) (c a : Nat) : Bool :=
  match s.chaseLoc c a with
  | some l => !s.foreignSample c a && (s.devBad l || s.lostFrame c a)
  | none => (s.chase c).holes.contains (a / 32)

/-- Read a run of chase data: the bytes, and whether any of them is poisoned. -/
def State.chaseRead (s : State) (c : Nat) : Reader := fun a n =>
  ((List.range n).map fun k => s.chaseByte c (a + k),
    (List.range (ceilDiv (a % 32 + n) 32)).any fun k => s.chasePoison c (max a (a / 32 * 32 + 32 * k)))

/-- The pieces of a run of chase addresses by frame. -/
def framePiecesOf : Nat → Nat → Bytes → List (Nat × Bytes)
  | 0, _, _ => []
  | _, _, [] => []
  | f + 1, a, bs =>
    let n := 4096 - a % 4096
    (a, bs.take n) :: framePiecesOf f (a + n) (bs.drop n)

/-- A fresh frame's HBM is zero, whatever stood there before (R421, R501): its lines are written through the home slices, those that
the host may hold once it has answered (R489, R647). -/
def State.zeroPieces (s : State) (ps : List Nat) : State :=
  let lines := ps.flatMap fun q => (List.range 4).map (4 * q + ·)
  let now := lines.filter (!s.snooped ·)
  let s1 := now.foldl State.bufferPass s
  let s2 : State := { s1 with
    mem := s1.mem.filter fun e => !(decide (e.1 < hbmTop) && ps.contains (e.1 / 256) && !s.snooped (e.1 / 64))
    poison := s1.poison.filter fun q => !(decide (32 * q < hbmTop) && ps.contains (q / 8) && !s.snooped (q / 2)) }
  (lines.filter s.snooped).foldl (fun s l => s.lineWrite (64 * l) (List.replicate 64 0)) s2

/-- The holes of a frame that is now backed become poisoned sectors of it. -/
def State.fillHoles (s : State) (c f : Nat) (e : FrameEnt) : State :=
  let mine := (s.chase c).holes.filter fun q => q / 128 == f
  (mine.foldl (fun s q => s.devPoison (s.entryHa e (32 * (q % 128))) 1) s).updChase c fun x => { x with
    holes := x.holes.filter fun q => q / 128 != f }

/-- Back one frame for writing: no change for a backed frame or scratch; false where it cannot be backed. -/
def State.backFrame (s : State) (c a : Nat) : State × Bool :=
  if a < 4096 ∨ 2 ^ 44 ≤ a then (s, false)
  else if caScratch a then (s, s.inScratch c a)
  else match s.frame c (caFrame a) with
    | some _ => (s, true)
    | none =>
      match s.allocFrame c with
      | (some e, s1) =>
        (((s1.zeroPieces (s1.framePieces e.layout e.band e.unit)).updChase c fun x =>
          { x with frames := kvPut x.frames (caFrame a) e }).fillHoles c (caFrame a) e, true)
      | (none, s1) => (s1, false)

/-- Back every frame of a run, in address order. -/
def State.backRun (s : State) (c : Nat) : List (Nat × Bytes) → State × Bool
  | [] => (s, true)
  | p :: t =>
    match s.backFrame c p.1 with
    | (s1, true) => s1.backRun c t
    | (s1, false) => (s1, false)

/-! ### The census of accesses (R430) -/

/-- The logical region, block and cell that do a piece of work of the plate in hand: a free choice (R45). -/
def State.dealPlace (s : State) (c item : Nat) : Nat × Nat × Nat :=
  let p := (s.chase c).plate.index
  let n := s.getF Fld.stkNumber c
  (dealRegion (s.heldRegions c) c p n item, Config.deal c p n (item + 2 ^ 64) % 16, Config.deal c p n (item + 2 ^ 65) % 16)

/-- Count `n` accesses from a place. -/
def Sources.add (l : Sources) (p : Nat × Nat × Nat) (n : Nat) : Sources :=
  if l.any fun e => e.1 == p then l.map fun e => if e.1 == p then (e.1, e.2 + n) else e else l ++ [(p, n)]

/-- The places from which the `n` lines from a chase address on are accessed: the cells that work on them, or none for the DMA
engines. -/
def State.lineSources (s : State) (plate : Bool) (c a n : Nat) (l : Sources) : Sources :=
  if plate then (List.range n).foldl (fun l k => l.add (s.dealPlace c (a / 64 + k)) 1) l else l

/-- A frame whose every sector has been written since it was lost is whole again (R457). -/
def State.settleLost (s : State) (c f : Nat) : State :=
  match s.frame c f with
  | some e => if e.lost && !s.lostFrame c (4096 * f) then s.updFrame c f fun e => { e with lost := false } else s
  | none => s

/-- Bands that hold nothing any more are released (R469). -/
def State.releaseBands (s : State) : State :=
  { s with hbm := { s.hbm with bands := s.hbm.bands.filter fun b => !(s.usedUnits b.layout b.band).isEmpty } }

/-- Abandon the migrations that `p` picks: each is counted; with `back` the budget that they took is not spent (R442, R43,
R458). -/
def State.abandon (s : State) (c : Nat) (p : MigrationEnt → Bool) (back : Bool) : State :=
  let gone := (s.chase c).migrations.filter p
  let s1 := (s.updChase c fun x => { x with migrations := x.migrations.filter (!p ·) }).bump Fld.impAbandoned c gone.length
  let s2 := if gone.any (·.kind == 2) then s1.releaseBands else s1
  if back then s2.setF Fld.impSpentBytes c (s2.getF Fld.impSpentBytes c - (gone.map (·.charge)).sum) else s2

/-- Whether a migration moves or copies the content of a frame. -/
def MigrationEnt.ofFrame (f : Nat) (m : MigrationEnt) : Bool := decide (m.kind < 3) && m.key == f

/-- The store of an on-chip home (R425). -/
def homeStore (e : FrameEnt) : Store := ⟨e.tier, e.region, if e.tier ≤ 1 then e.block else 0, if e.tier = 0 then e.cell else 0⟩

/-- The copies that a slot has in some stores go (R37, R424), and the migrations on their way there are abandoned. -/
def State.dropStores (s : State) (c : Nat) (p : Store → Bool) : State :=
  (s.abandon c (fun m => (m.kind == 0 || m.kind == 1 || m.kind == 3) && p m.store) true).updChase c fun x => { x with
    frames := x.frames.map fun e => (e.1, { e.2 with copies := e.2.copies.filter (!p ·) })
    slugCopies := x.slugCopies.filter fun e => !p e.store }

/-- What a write to a frame does beside its bytes: the census counts it, the migrations of the frame's content that are not
committed are abandoned, each counted (R430, R442), a line read before makes the stroke not replay-safe (R799). -/
def State.noteWrite (s : State) (plate : Bool) (c a n : Nat) : State :=
  let f := caFrame a
  let lines := ceilDiv (a % 64 + n) 64
  let s1 := s.updFrame c f fun e => { e with
    counted := e.counted + lines, srcs := s.lineSources plate c a lines e.srcs, writtenAt := (s.chase c).begunCount, clean := false
    failed := e.failed.filter fun k => !(decide (a % 4096 ≤ 32 * k) && decide (32 * k + 32 ≤ a % 4096 + n)) }
  let s2 := s1.abandon c (MigrationEnt.ofFrame f) false
  let again := (List.range lines).any fun k => (s2.chase c).readLines.contains (a / 64 + k)
  s2.updChase c fun x => { x with replaySafe := x.replaySafe && !again }

/-- Write a run of bytes into frames that are backed. -/
def State.writeBacked (s : State) (plate : Bool) (c : Nat) (ps : List (Nat × Bytes)) : State :=
  ps.foldl (fun s p => match s.chaseLoc c p.1 with
    | some _ =>
      let s1 := s.noteWrite plate c p.1 p.2.length
      ((linePieces p.1 p.2).foldl (fun s q =>
        match s.chaseLoc c (64 * q.1) with
        | some l => s.devWrite (l / 64 * 64 + (q.2.headD (0, 0)).1) (q.2.map (·.2))
        | none => s) s1).settleLost c (caFrame p.1)
    | none => s) s

/-- Write a run of chase data from a ticket, the fabric or a port; where a frame cannot be backed it writes nothing and answers
false (R882). -/
def State.chaseWrite (s : State) (c a : Nat) (bs : Bytes) : State × Bool :=
  let ps := framePiecesOf (bs.length / 4096 + 2) a bs
  match s.backRun c ps with
  | (s1, true) => (s1.writeBacked false c ps, true)
  | (s1, false) => (s1, false)

/-- The sectors of a run that nothing backs read as poison from now on (R422, R502). -/
def State.addHoles (s : State) (c a n : Nat) : State :=
  s.updChase c fun x => { x with holes := (List.range (ceilDiv (a % 32 + n) 32)).foldl (fun l k => setIns l (a / 32 + k)) x.holes }

/-- A plate's write of a run within one frame: where that cannot be backed nothing is written, the sectors read as poison, and
the event is counted in IMP_NO_FRAME (R422). -/
def State.plateWrite (s : State) (c a : Nat) (bs : Bytes) : State × Bool :=
  match s.backFrame c a with
  | (s1, true) => (s1.writeBacked true c [(a, bs)], true)
  | (s1, false) => ((s1.addHoles c a bs.length).bump Fld.impNoFrame c 1, false)

/-- The lines of a run of chase data that lie in HBM are read through their home slices (R477, R478). -/
def State.cacheRun (s : State) (c a n : Nat) : State :=
  (List.range (ceilDiv (a % 64 + n) 64)).foldl (fun s k => match s.chaseLoc c (64 * (a / 64 + k)) with
    | some l => if l < hbmTop then s.cacheRead (l / 64) else s
    | none => s) s

/-- A run of HBM is read through the home slices. -/
def State.cacheHa (s : State) (a n : Nat) : State :=
  (List.range (ceilDiv (a % 64 + n) 64)).foldl (fun s k => s.cacheRead (a / 64 + k)) s

/-- The census counts a run that is read, its lines pass the home slices, and the stroke remembers them (R430, R477, R799). -/
def State.noteReadFrom (s : State) (plate : Bool) (c a n : Nat) : State :=
  let lines := ceilDiv (a % 64 + n) 64
  let s1 := (framePiecesOf (n / 4096 + 2) a (List.replicate n 0)).foldl (fun s p =>
    let m := ceilDiv (p.1 % 64 + p.2.length) 64
    s.updFrame c (caFrame p.1) fun e => { e with counted := e.counted + m, srcs := s.lineSources plate c p.1 m e.srcs }) (s.cacheRun c a n)
  s1.updChase c fun x => { x with readLines := (List.range lines).foldl (fun l k => setIns l (a / 64 + k)) x.readLines }

/-- A plate reads a run. -/
def State.noteRead (s : State) (c a n : Nat) : State := s.noteReadFrom true c a n

/-- A DMA engine reads a run. -/
def State.noteDma (s : State) (c a n : Nat) : State := s.noteReadFrom false c a n

/-- Poison what stands at a run of chase data (its sectors), where it is backed. -/
def State.chasePoisonRun (s : State) (c a n : Nat) : State :=
  (List.range (ceilDiv (a % 32 + n) 32)).foldl (fun s k =>
    match s.chaseLoc c (a / 32 * 32 + 32 * k) with
    | some l => s.devPoison l 1
    | none => s) s

/-- Free the frames of a slot: their bytes leave the memory, empty bands are released (R423, R469). -/
def State.freeFrames (s : State) (c : Nat) : State :=
  let s1 := s.updChase c fun x => { x with frames := [], hints := [], holes := [], migrations := [] }
  let s2 : State := { s1 with
    mem := s1.mem.filter fun e => e.1 / 2 ^ 44 != c + 1
    poison := s1.poison.filter fun q => (32 * q) / 2 ^ 44 != c + 1 }
  s2.releaseBands

/-! ### Moving the content of a frame (R426) -/

/-- Copy the line at a location to another, with its poison, as the device finds it: into HBM through the home slice of the target
(R489, R647). -/
def State.copyLine (s : State) (src dst : Nat) : State :=
  let bs := (List.range 64).map fun j => s.devByte (src + j)
  let bad := (List.range 2).filter fun j => s.devBad (src + 32 * j)
  bad.foldl (fun s j => s.devPoison (dst + 32 * j) 1) (s.lineWrite dst bs)

/-- Copy a frame's content from its HBM frame to its place on chip, or back. -/
def State.copyFrame (s : State) (c f : Nat) (e : FrameEnt) (toChip : Bool) : State :=
  (List.range 64).foldl (fun s k =>
    let h := s.entryHa e (64 * k)
    let l := chipLoc c (4096 * f + 64 * k)
    if toChip then s.copyLine h l else s.copyLine l h) s

/-- Drop what a frame has on chip from the memory list. -/
def State.dropChip (s : State) (c f : Nat) : State :=
  let lo := chipLoc c (4096 * f)
  { s with mem := s.mem.filter fun e => !(decide (lo ≤ e.1) && decide (e.1 < lo + 4096))
           poison := s.poison.filter fun q => !(decide (lo ≤ 32 * q) && decide (32 * q < lo + 4096)) }

/-- Take the home of a frame off chip, writing it back to its HBM frame (R426). -/
def State.demote (s : State) (c f : Nat) (e : FrameEnt) : State :=
  ((s.copyFrame c f e false).dropChip c f).updFrame c f fun x => { x with tier := s.hbmTier c x.layout, clean := false }

end Sys2Proof.Machine
end

