-- ==== Sys2Proof/Machine/GalStore.lean ====
section
/-! DEFINITION. Where a galley's rows live (R302 to R306, R316 to R321, R427, R473): its states and the frames of slots and
tags that they share, reading a row through the slices or straight from DRAM, writing one, the master, the guest slots. -/

namespace Sys2Proof.Machine

/-! ### Galleys and their states -/

/-- The blank slug's index, also the missing value (R311). -/
def blankIndex : Nat := 2 ^ 40 - 1

/-- A galley as FORME_LOAD makes it: serving state 0, all zero (R316), em −32 (R326). -/
def newGalley (d : Bytes) : GalleySt :=
  { decl := d, sharded := gdSharded d, em := -32, emFixed := false, nextNum := 1, states := [⟨0, 2, 0, []⟩]
    pending := false, named := none, masterMap := [], dirty := [], guestMap := [], reqOut := [], reqIn := [], partOut := []
    splits := [], deltaOut := [], scatterAt := none, published := 0, cnt := GalCnt.zero }

/-- The galley of a slot with a GD_ID. -/
def State.galley (s : State) (c id : Nat) : Option GalleySt := kvGet (s.chase c).galleys id
def State.setGalley (s : State) (c id : Nat) (g : GalleySt) : State :=
  s.updChase c fun x => { x with galleys := kvPut x.galleys id g }
def State.updGalley (s : State) (c id : Nat) (f : GalleySt → GalleySt) : State :=
  match s.galley c id with
  | some g => s.setGalley c id (f g)
  | none => s

def GalleySt.ty (g : GalleySt) : Nat := gdType g.decl
def GalleySt.n (g : GalleySt) : Nat := gdElements g.decl
def GalleySt.r (g : GalleySt) : Nat := gdRow g.decl
def GalleySt.slugs (g : GalleySt) : Nat := gdSlugs g.decl
def GalleySt.trainable (g : GalleySt) : Bool := gdTrainable g.decl

/-- The state of a stage (0 and 1 are the incoming ones, 2 the serving one). -/
def GalleySt.incoming (g : GalleySt) : Option GalState := g.states.find? fun x => decide (x.stage < 2)
def GalleySt.serving (g : GalleySt) : Option GalState := g.states.find? fun x => x.stage == 2
def GalleySt.draining (g : GalleySt) : Nat := (g.states.filter fun x => x.stage == 3).length
def GalleySt.state (g : GalleySt) (num : Nat) : Option GalState := g.states.find? fun x => x.num == num

/-- Replace the state of a number. -/
def GalleySt.updState (g : GalleySt) (num : Nat) (f : GalState → GalState) : GalleySt :=
  { g with states := g.states.map fun x => if x.num = num then f x else x }

/-- The local row of a slug on the member with an ordinal; none where another member holds it (R302, R303). -/
def localRow (sharded : Bool) (members ordinal i : Nat) : Option Nat :=
  if !sharded then some i else if slugOwner i members = ordinal then some (i / members) else none

/-- The local row of a slug of a galley. -/
def State.localRow (s : State) (c : Nat) (g : GalleySt) (i : Nat) : Option Nat :=
  Machine.localRow g.sharded (s.members c) (s.ordinal c) i

/-- Rows that a member holds of a galley of `n` slugs (R303). -/
def localRows (sharded : Bool) (members ordinal n : Nat) : Nat :=
  if !sharded then n
  else n / members + ((List.range (n % members)).filter fun k => slugOwner (n / members * members + k) members == ordinal).length

/-! ### Places of slots and tags (R304, R473) -/

/-- Slots in one near-only unit: a slot lies within one (R473). -/
def slotsPer (r : Nat) : Nat := 4096 / slotBytes r

/-- The frame of a local row's slot, and its offset in it. -/
def slotPlace (r k : Nat) : Nat × Nat := (k / slotsPer r, k % slotsPer r * slotBytes r)

/-- The frame of a local row's tag, and its offset in it: 16 tags to a sector (R305). -/
def tagPlace (k : Nat) : Nat × Nat := (2 ^ 40 + k / 2048, 2 * (k % 2048))

/-- The frames that hold a local row. -/
def rowFrames (r k : Nat) : List Nat := [(slotPlace r k).1, (tagPlace k).1]

/-- Where a row stands: the frames and offsets of its slot and of its tag. -/
structure RowPlace where
  slotF : Nat
  slotO : Nat
  tagF : Nat
  tagO : Nat
  deriving DecidableEq, Repr

def rowPlace (r k : Nat) : RowPlace := ⟨(slotPlace r k).1, (slotPlace r k).2, (tagPlace k).1, (tagPlace k).2⟩

/-- The blank slug's slot, with its tag behind it. -/
def blankPlace (r : Nat) : RowPlace := ⟨blankFrame, 0, blankFrame, slotBytes r⟩

/-- The byte that a frame holds before it is first written: slots are zero, tags name the zero form at exponent 0 (R316). -/
def galDefault (i off : Nat) : Byte := if 2 ^ 40 ≤ i ∧ i < blankFrame ∧ off % 2 = 0 then 0xC0 else 0

/-- The HBM address of a byte of a frame of a map; none for a frame that has no HBM yet. -/
def State.galHa (s : State) (c : Nat) (map : List (Nat × Nat)) (i off : Nat) : Option Nat :=
  ((kvGet map i).bind (s.frame c)).map fun e => s.entryHa e off

/-- Bytes of a frame: as the slices show them, or, with `dram`, as a gather unit reads them (R477, R490). -/
def State.galRead (s : State) (dram : Bool) (c : Nat) (map : List (Nat × Nat)) (i off n : Nat) : Bytes :=
  (List.range n).map fun k => match s.galHa c map i (off + k) with
    | some h => if dram then memGet s.mem h else s.devByte h
    | none => galDefault i (off + k)

/-- Whether a byte of a frame reads as poison. -/
def State.galPoison (s : State) (dram : Bool) (c : Nat) (map : List (Nat × Nat)) (i off : Nat) : Bool :=
  match s.galHa c map i off with
  | some h => if dram then s.poison.contains (h / 32) || s.hbm.badReads.contains (h / 32) else s.devBad h
  | none => false

/-- The slug that stands in a place: its tag, then the ST_SECTORS sectors of its slot; a blank slug without a frame is all
zero (R305, R306, R312, R346). -/
def State.slugIn (s : State) (dram : Bool) (c : Nat) (map : List (Nat × Nat)) (p : RowPlace) : Slug :=
  if p.tagF = blankFrame ∧ (kvGet map p.tagF).isNone then Slug.zero
  else
    let tag := leNat (s.galRead dram c map p.tagF p.tagO 2)
    let n := tagSectors tag
    slugOf tag (s.galRead dram c map p.slotF p.slotO (32 * n))
      (s.galPoison dram c map p.tagF p.tagO || (List.range n).any fun k => s.galPoison dram c map p.slotF (p.slotO + 32 * k))

/-- A local row of a state, and its blank slug. -/
def State.rowIn (s : State) (dram : Bool) (c : Nat) (g : GalleySt) (x : GalState) (k : Nat) : Slug :=
  s.slugIn dram c x.map (rowPlace g.r k)
def State.blankIn (s : State) (dram : Bool) (c : Nat) (g : GalleySt) (x : GalState) : Slug :=
  s.slugIn dram c x.map (blankPlace g.r)

/-- The slug index of a local row on a member: row `q` of a sharded galley lies in block `q` (R303). -/
def rowIndex (sharded : Bool) (members ordinal q : Nat) : Option Nat :=
  if !sharded then some q else ((List.range members).map (q * members + ·)).find? fun i => slugOwner i members == ordinal

/-- The rows whose slots, or tags, a frame of a galley holds. -/
def frameRows (r i : Nat) : List Nat :=
  if i < 2 ^ 40 then (List.range (slotsPer r)).map (i * slotsPer r + ·) else (List.range 2048).map ((i - 2 ^ 40) * 2048 + ·)

/-- The local rows that stand in the slot frames that a state lists, in rising order. -/
def GalState.listedRows (x : GalState) (r : Nat) : List Nat :=
  (x.map.filter fun e => decide (e.1 < 2 ^ 40)).flatMap fun e => (List.range (slotsPer r)).map (e.1 * slotsPer r + ·)

/-! ### Frames of a galley -/

/-- Two near-only layouts, the freely chosen die first (R473). -/
def nearLayouts (r : Nat) : List Nat := layoutsOf 0 r

/-- Give a galley frame its HBM: a near-only unit of either die, holding what an unwritten frame holds. -/
def State.newGalFrame (s : State) (c i need : Nat) : State × Option Nat :=
  match s.allocIn c need nearLayouts with
  | (none, s1) => (s1, none)
  | (some e, s1) =>
    let key := galKey + (s1.chase c).nextGal
    let s2 := (s1.zeroPieces (s1.framePieces e.layout e.band e.unit)).updChase c fun x => { x with
      frames := kvPut x.frames key e, nextGal := x.nextGal + 1 }
    (if 2 ^ 40 ≤ i ∧ i < blankFrame then
      (List.range 64).foldl (fun s k => s.lineWrite (s.entryHa e (64 * k)) ((List.range 64).map fun j => galDefault i (64 * k + j))) s2
    else s2, some key)

/-- Copy a frame's content to another frame of the galley, as the slices show it. -/
def State.copyGalFrame (s : State) (e n : FrameEnt) : State :=
  (List.range 64).foldl (fun s k => s.copyLine (s.entryHa e (64 * k)) (s.entryHa n (64 * k))) s

/-- Give every key of a chase's galleys that nothing names any more back to the free HBM (R334, R423, R469). -/
def State.sweepGal (s : State) (c : Nat) : State :=
  let named := (s.chase c).galleys.flatMap fun g =>
    (g.2.states.flatMap fun x => x.map.map (·.2)) ++ g.2.masterMap.map (·.2) ++ g.2.guestMap.map (·.2)
  let gone := (s.chase c).frames.filter fun e => decide (galKey ≤ e.1) && !named.contains e.1
  if gone.isEmpty then s
  else
    let s1 := s.updChase c fun x => { x with
      frames := x.frames.filter fun e => decide (e.1 < galKey) || named.contains e.1
      migrations := x.migrations.filter fun m => !(m.kind == 2 && gone.any fun e => e.1 == m.key) }
    s1.releaseBands

/-- The lines of a run of a galley frame are read through their home slices (R477). -/
def State.cacheGal (s : State) (c : Nat) (map : List (Nat × Nat)) (i off n : Nat) : State :=
  (List.range (ceilDiv (off % 64 + n) 64)).foldl (fun s k => match s.galHa c map i (64 * (off / 64 + k)) with
    | some h => s.cacheRead (h / 64)
    | none => s) s

/-- The census counts the lines of a galley frame that are read or written, from a place (R430). A gather unit, which is what reads
for a plate, reads DRAM directly; any other reader passes the home slices (R477). -/
def State.noteGal (s : State) (plate write : Bool) (c : Nat) (map : List (Nat × Nat)) (i off n : Nat) : State :=
  match kvGet map i with
  | none => s
  | some key =>
    let m := ceilDiv (off % 64 + n) 64
    let s1 := s.updFrame c key fun e => { e with counted := e.counted + m, srcs := s.lineSources plate c (key * 4096 + off) m e.srcs }
    if write then (s1.updFrame c key fun e => { e with writtenAt := (s.chase c).begunCount }).abandon c (MigrationEnt.ofFrame key) false
    else if plate then s1 else s1.cacheGal c map i off n

/-- The census counts the reading of a local row of a state: its tag's line and the lines of its body. -/
def State.noteRow (s : State) (plate : Bool) (c : Nat) (g : GalleySt) (x : GalState) (k : Nat) : State :=
  let p := rowPlace g.r k
  (s.noteGal plate false c x.map p.tagF p.tagO 2).noteGal plate false c x.map p.slotF p.slotO
    (32 * tagSectors (leNat (s.galRead false c x.map p.tagF p.tagO 2)))

/-- Write bytes of a galley frame through the home slices (R477). -/
def State.galWrite (s : State) (plate : Bool) (c : Nat) (map : List (Nat × Nat)) (i off : Nat) (bs : Bytes) : State :=
  (linePieces off bs).foldl (fun s p => match s.galHa c map i (64 * p.1) with
    | some h => s.devWrite (h + (p.2.headD (0, 0)).1) (p.2.map (·.2))
    | none => s) (s.noteGal plate true c map i off bs.length)

/-- Write the merging-buffer entries of a frame of a map to DRAM (R491, R493). -/
def State.drainGal (s : State) (c : Nat) (map : List (Nat × Nat)) (i : Nat) : State :=
  (List.range 64).foldl (fun s k => match s.galHa c map i (64 * k) with
    | some h => match s.mbFind (h / 64) with
      | some e => s.mbToDram e
      | none => s
    | none => s) s

/-- Store a slug in its place: the slot whole, then the tag (R305, R306); a poisoned one has its slot's sectors poisoned. -/
def State.slugWrite (s : State) (c : Nat) (map : List (Nat × Nat)) (p : RowPlace) (r : Nat) (v : Slug) : State :=
  let s1 := (s.galWrite false c map p.slotF p.slotO (v.slot r)).galWrite false c map p.tagF p.tagO (natLe 2 v.tag)
  if v.poison then
    (List.range (slotBytes r / 32)).foldl (fun s k => match s.galHa c map p.slotF (p.slotO + 32 * k) with
      | some h => s.devPoison h 1
      | none => s) s1
  else s1

/-! ### Writing into the incoming state (R318, R319) -/

/-- Create the incoming state if there is none (R312, R316, R318). -/
def GalleySt.withIncoming (g : GalleySt) (fresh : Bool) : GalleySt :=
  match g.incoming, g.serving with
  | none, some v =>
    let x : GalState := if fresh then ⟨g.nextNum, 0, g.nextNum, []⟩ else ⟨g.nextNum, 0, v.root, v.map⟩
    { g with states := g.states ++ [x], nextNum := g.nextNum + 1 }
  | _, _ => g

/-- The incoming state writes into a frame for the first time: the frame has no HBM yet, or another state shares it. -/
def GalleySt.mustCopy (g : GalleySt) (x : GalState) (i : Nat) : Bool :=
  match kvGet x.map i with
  | none => true
  | some k => g.states.any fun y => y.num != x.num && kvGet y.map i == some k

/-- Give the incoming state a frame of its own at a place, with the content that it shared; false where no HBM is left. -/
def State.ownFrame (s : State) (c id i need : Nat) : State × Bool :=
  match s.galley c id with
  | none => (s, false)
  | some g => match g.incoming with
    | none => (s, false)
    | some x =>
      if !g.mustCopy x i then (s, true)
      else match s.newGalFrame c i need with
        | (s1, none) => (s1, false)
        | (s1, some key) =>
          let s2 := match (kvGet x.map i).bind (s.frame c), s1.frame c key with
            | some e, some n => s1.copyGalFrame e n
            | _, _ => s1
          (s2.updGalley c id fun g => g.updState x.num fun x => { x with map := kvPut x.map i key }, true)

/-- Write one local row into the incoming state; false where no frame is left (R318, R319). -/
def State.putRow (s : State) (c id k : Nat) (v : Slug) : State × Bool :=
  match s.galley c id with
  | none => (s, false)
  | some g =>
    let p := rowPlace g.r k
    let need := match g.incoming with
      | some x => 4096 * ((rowFrames g.r k).filter (g.mustCopy x)).length
      | none => 0
    match s.ownFrame c id p.slotF need with
    | (s1, false) => (s1, false)
    | (s1, true) => match s1.ownFrame c id p.tagF (min need 4096) with
      | (s2, false) => (s2, false)
      | (s2, true) => match (s2.galley c id).bind GalleySt.incoming with
        | some x => (s2.slugWrite c x.map p g.r v, true)
        | none => (s2, false)

/-- Write the blank slug of the incoming state; its four slots are reserved with the galley (R304, R311). -/
def State.putBlank (s : State) (c id : Nat) (v : Slug) : State :=
  match s.galley c id with
  | none => s
  | some g =>
    let s1 := (s.ownFrame c id blankFrame 0).1
    match (s1.galley c id).bind GalleySt.incoming with
    | some x => s1.slugWrite c x.map (blankPlace g.r) g.r v
    | none => s1

/-! ### The master (R326, R327, R364) -/

/-- The frame of a master element and its offset: 8 bytes an element, by local row. -/
def masterPlace (n k j : Nat) : Nat × Nat := (8 * (k * n + j) / 4096, 8 * (k * n + j) % 4096)

/-- A master element. -/
def State.masterAt (s : State) (c : Nat) (g : GalleySt) (k j : Nat) : Int :=
  let p := masterPlace g.n k j
  sextNat 64 (leNat (s.galRead false c g.masterMap p.1 p.2 8))

/-- A master row, and whether a part of it is poisoned. -/
def State.masterRow (s : State) (c : Nat) (g : GalleySt) (k : Nat) : List Int × Bool :=
  ((List.range g.n).map (s.masterAt c g k),
    (List.range g.n).any fun j => s.galPoison false c g.masterMap (masterPlace g.n k j).1 (masterPlace g.n k j).2)

/-- The cells read a master row: the census counts its lines, which pass the home slices (R430, R477). -/
def State.noteMaster (s : State) (c : Nat) (g : GalleySt) (k : Nat) : State :=
  let lo := 8 * k * g.n
  (List.range (ceilDiv (lo % 64 + 8 * g.n) 64)).foldl (fun s j =>
    let a := 64 * (lo / 64 + j)
    (s.noteGal true false c g.masterMap (a / 4096) (a % 4096) 64).cacheGal c g.masterMap (a / 4096) (a % 4096) 64) s

/-- Give a frame of the master its HBM, which FORME_LOAD has reserved (R304). -/
def State.ownMaster (s : State) (c id i : Nat) : State :=
  match s.galley c id with
  | none => s
  | some g =>
    if (kvGet g.masterMap i).isSome then s
    else match s.newGalFrame c i 0 with
      | (s1, none) => s1
      | (s1, some key) => s1.updGalley c id fun g => { g with masterMap := kvPut g.masterMap i key }

/-- Set a master element modulo 2^64. -/
def State.masterSet (s : State) (plate : Bool) (c id k j : Nat) (v : Int) : State :=
  match s.galley c id with
  | none => s
  | some g =>
    let p := masterPlace g.n k j
    let s1 := s.ownMaster c id p.1
    match s1.galley c id with
    | some g1 => s1.galWrite plate c g1.masterMap p.1 p.2 (natLe 8 (patOf 64 v))
    | none => s1

/-! ### Guest slots (R452 to R454) -/

/-- A frame for the guest copies of a galley, where none stands at its place. -/
def State.ownGuest (s : State) (c id i : Nat) : State :=
  match s.galley c id with
  | none => s
  | some g =>
    if (kvGet g.guestMap i).isSome then s
    else match s.newGalFrame c i 0 with
      | (s1, none) => s1
      | (s1, some key) => s1.updGalley c id fun g => { g with guestMap := kvPut g.guestMap i key }

/-- Write a guest row into its slot, straight to DRAM, where gather units read it. -/
def State.putGuest (s : State) (c id pos : Nat) (v : Slug) : State :=
  match s.galley c id with
  | none => s
  | some g =>
    let p := rowPlace g.r pos
    let s1 := (s.ownGuest c id p.slotF).ownGuest c id p.tagF
    match s1.galley c id with
    | some g1 => ((s1.slugWrite c g1.guestMap p g.r v).drainGal c g1.guestMap p.slotF).drainGal c g1.guestMap p.tagF
    | none => s1

/-- A guest copy of a slug of the state that is read (R454). -/
def State.guestRow (s : State) (c id i : Nat) (g : GalleySt) (x : GalState) : Option Slug :=
  ((s.chase c).guests.find? fun u => u.galley == id && u.slug == i && u.state == x.num).map fun u =>
    s.slugIn true c g.guestMap (rowPlace g.r u.pos)

/-! ### Switching (R328 to R334) -/

/-- Commit a switch: the incoming state serves, the old one drains (R329). -/
def GalleySt.commit (g : GalleySt) : GalleySt :=
  if g.incoming.isNone then { g with pending := false, named := none }
  else { g with
    pending := false, named := none
    states := g.states.map fun x => if x.stage = 2 then { x with stage := 3 } else if x.stage < 2 then { x with stage := 2 } else x }

/-- Whether two states share the slot frame of a local row (R318). -/
def sharesSlot (r : Nat) (x y : GalState) (k : Nat) : Bool :=
  let i := (slotPlace r k).1
  kvGet x.map i == kvGet y.map i && ((kvGet x.map i).isSome || x.root == y.root)

/-- At the commit of a switch from state `v` to state `x`: decoded copies of slugs whose slot frame they share are retagged, the
others of `v` dropped (R443); a guest copy is retagged where its owner says that the frame is shared, by its row of the new
state among `peers`, else dropped (R455); migrations of the galley's slugs are abandoned, their budget not spent (R43). -/
def State.switchCopies (s : State) (c id : Nat) (g : GalleySt) (v x : GalState) (peers : List GuestCopy) : State :=
  let keep (i : Nat) : Bool := match s.localRow c g i with
    | some k => sharesSlot g.r v x k
    | none => false
  let copy (e : SlugCopy) : Option SlugCopy :=
    if e.galley = id ∧ e.state = v.num then (if keep e.slug then some { e with state := x.num } else none) else some e
  let told (e : GuestEnt) : Bool := peers.any fun p => p.galley == id && p.slug == e.slug && p.state == x.num
  let guest (e : GuestEnt) : Option GuestEnt :=
    if e.galley = id ∧ e.state = v.num then (if told e then some { e with state := x.num } else none) else some e
  (s.abandon c (fun m => (m.kind == 3 || m.kind == 5) && m.key == id) true).updChase c fun y => { y with
    slugCopies := y.slugCopies.filterMap copy, guests := y.guests.filterMap guest }

/-- Commit the switch of a galley: merging-buffer entries of the incoming state first go to DRAM (R493). -/
def State.commitSwitch (s : State) (c id : Nat) (peers : List GuestCopy) : State :=
  match s.galley c id with
  | none => s
  | some g => match g.incoming, g.serving with
    | some x, some v =>
      let s1 := x.map.foldl (fun s e => s.drainGal c x.map e.1) s
      (s1.switchCopies c id g v x peers).setGalley c id g.commit
    | _, _ => s.setGalley c id g.commit

/-- Whether something references a draining state (R320): a request record that is not served, in this member's inbound queue or
waiting in its outbound one, or an unfinished GALLEY_READ. -/
def State.refState (s : State) (c id : Nat) (g : GalleySt) (num : Nat) : Bool :=
  ((g.reqIn ++ g.reqOut).any fun r => r.state == num % 256) || s.host.tickets.any fun t =>
    tkOpcode t.raw == 0x12 && tkSlot t.raw == c && tpArg0 t.raw == id && u32At (tpArgs t.raw) 0 == num && !t.done

/-- Free the draining states that nothing references (R334): frames that no other state shares go back. -/
def State.freeDraining (s : State) (c id : Nat) : State :=
  (s.updGalley c id fun g => { g with states := g.states.filter fun x => !(x.stage == 3 && !s.refState c id g x.num) }).sweepGal c

/-- A chase that has left JOINING, RUNNING and STOPPING frees its draining states at once (R334). -/
def State.freeAllDraining (s : State) (c : Nat) : State :=
  (s.chase c).galleys.foldl (fun s g => s.freeDraining c g.1) s

/-- Discard the incoming state (R331). -/
def State.dropIncoming (s : State) (c id : Nat) : State :=
  (s.updGalley c id fun g => { g with states := g.states.filter fun x => !decide (x.stage < 2) }).sweepGal c

end Sys2Proof.Machine
end

