-- ==== Sys2Proof/Machine/Ports.lean ====
section
/-! DEFINITION. Tokens and credits inside a plate (R141 to R145): the shares of PD_COUNT, the ports of the cells that take
them and of the chain hops, the arbiters of the blocks and the routers of the regions. -/

namespace Sys2Proof.Machine

/-! ### One port -/

/-- The ports of a unit as a plate starts: no token, four credits (R145). -/
def PortSt.fresh (unit : Nat) (left : List Nat) : PortSt := ⟨unit, left, left.map fun _ => 0, 4⟩

/-- Input tiles arrive at each input while one of its four tile buffers is free. -/
def PortSt.arrive (p : PortSt) : PortSt :=
  { p with left := p.left.zipWith (fun n k => n - min n (4 - k)) p.tokens
           tokens := p.left.zipWith (fun n k => k + min n (4 - k)) p.tokens }

/-- A unit starts a tile only with a token on each input and a credit on its output (R141). -/
def PortSt.ready (p : PortSt) : Bool := p.tokens.all (fun k => decide (0 < k)) && decide (0 < p.credits)

/-- A start consumes the tokens and the credit (R141). -/
def PortSt.start (p : PortSt) : PortSt := { p with tokens := p.tokens.map (· - 1), credits := p.credits - 1 }

/-- The consumer frees a tile buffer: the credit comes back (R142). -/
def PortSt.freed (p : PortSt) : PortSt := { p with credits := min 4 (p.credits + 1) }

/-- The unit has consumed its share and holds all its credits (R144). -/
def PortSt.idle (p : PortSt) : Bool := p.left.all (· == 0) && p.tokens.all (· == 0) && p.credits == 4

/-- Number of a cell among the units of a device, and its block and region. -/
def portUnit (region block cell : Nat) : Nat := (region * 16 + block) * 16 + cell
def PortSt.block (p : PortSt) : Nat := p.unit / 16
def PortSt.region (p : PortSt) : Nat := p.unit / 256

/-! ### Round-robin grants (R143) -/

/-- The member of a rising list after the last one granted; the least where none is higher or none was granted. -/
def nextAfter (last : Option Nat) (l : List Nat) : Option Nat :=
  match last with
  | none => l.head?
  | some k => (l.find? fun x => decide (k < x)).or l.head?

/-- The router of region `k` grants a block, the arbiter of that block a cell, which starts a tile. The pointer of the
router has key 256 + k in `last`, that of an arbiter the number of its block. -/
def PortFlow.grant (f : PortFlow) (k : Nat) : PortFlow :=
  let able := f.cells.filter fun p => p.region == k && p.ready
  match nextAfter (kvGet f.last (256 + k)) (able.map (·.block)).eraseDups with
  | none => f
  | some b =>
    match nextAfter (kvGet f.last b) ((able.filter fun p => p.block == b).map (·.unit)) with
    | none => f
    | some u => { f with cells := f.cells.map (fun p => if p.unit == u then p.start else p)
                         last := kvPut (kvPut f.last (256 + k) b) b u }

/-- A running sum goes from hop to hop (R200): each start takes a token of its hop's own cells, one of the sum that the hop before
passes on, and a credit of the next, and frees the buffer that the hop before had filled. The sum comes on a hop's second input. The
answer says whether the first hop of the list took one. -/
def hopRound (came : Bool) : List PortSt → List PortSt × Bool
  | [] => ([], came)
  | p :: t =>
    let p0 := p.arrive
    let p1 := if came then { p0 with tokens := p0.tokens.modify 1 (· + 1) } else p0
    let r := hopRound p1.ready t
    let p2 := if p1.ready then p1.start else p1
    ((if r.2 then p2.freed else p2) :: r.1, p1.ready)

/-- One round: tiles arrive, every region grants one start, the chain moves on, consumers free the buffers of their tiles. -/
def PortFlow.round (f : PortFlow) (regions : List Nat) : PortFlow :=
  let f1 := { f with cells := f.cells.map PortSt.arrive }
  let f2 := regions.foldl PortFlow.grant f1
  { f2 with cells := f2.cells.map PortSt.freed, hops := (hopRound false f2.hops).1 }

/-- The ports of region `k` are at rest (R144). -/
def PortFlow.restsIn (f : PortFlow) (k : Nat) : Bool := (f.cells ++ f.hops).all fun p => p.region != k || p.idle

/-- Rounds until nothing is left to do, at most `n`. -/
def PortFlow.run (regions : List Nat) : Nat → PortFlow → PortFlow
  | 0, f => f
  | n + 1, f => if (f.cells ++ f.hops).all PortSt.idle then f else PortFlow.run regions n (f.round regions)

/-! ### The plate in hand -/

/-- Input tiles of the plate in hand: PD_COUNT in the unit of its opcode, cut into tiles. K elements go in groups of 32, the
lines of the other opcodes in tiles of 32, TINT counts tiles; the others have no share of their own. -/
def Plate.shareTiles (p : Plate) : Nat :=
  if p.op = opTint then p.count
  else if p.op = opExchange ∨ p.op = opState ∨ p.op = opHold ∨ p.op = opBranch then 0
  else (p.count + 31) / 32

/-- The inputs of a tile of a plate: the two operands of a product, the inputs that a tint record names (R287), one for the others. -/
def State.tileInputs (s : State) (c : Nat) : Nat :=
  let p := s.plate c
  if p.op = opDense ∨ p.op = opSparse then 2
  else if p.op = opTint then
    let r := (s.chaseRead c p.src 32).1
    max 1 ((List.range 4).filter fun k => u64At r (8 * k) != 0).length
  else 1

/-- The cell that takes input tile `i`: freely dealt (R45), and with a chain in the block of hop `i` mod H (R200). -/
def State.shareUnit (s : State) (c : Nat) (hops : List (Nat × Nat)) (i : Nat) : Nat :=
  let d := s.dealPlace c i
  match hops[i % hops.length]? with
  | some h => portUnit h.1 h.2 d.2.2
  | none => portUnit d.1 d.2.1 d.2.2

/-- One more tile in the share of a unit, on each of its `n` inputs; the list rises by unit. -/
def addShare (n u : Nat) : List PortSt → List PortSt
  | [] => [PortSt.fresh u (List.replicate n 1)]
  | p :: t => if u < p.unit then PortSt.fresh u (List.replicate n 1) :: p :: t
    else if u = p.unit then { p with left := p.left.map (· + 1) } :: t else p :: addShare n u t

/-- The ports at the start of the plate in hand (R145): every share is dealt, no token is there, all credits are. Each hop of a chain
takes the partial of its own cells, and from the second on the running sum too (R200). -/
def State.freshPorts (s : State) (c : Nat) : PortFlow :=
  let n := (s.plate c).shareTiles
  let k := s.tileInputs c
  let hops := s.plateHops c
  { cells := (List.range n).foldl (fun l i => addShare k (s.shareUnit c hops i) l) []
    hops := hops.zipIdx.map fun e => PortSt.fresh (portUnit e.1.1 e.1.2 0) (if e.2 = 0 then [n] else [n, 0])
    last := [] }

/-- The ports once the work of the plate in hand has run. -/
def State.ranPorts (s : State) (c : Nat) : PortFlow :=
  let f := (s.chase c).plate.flow
  f.run (s.heldRegions c) ((s.plate c).shareTiles + f.hops.length + 2)

end Sys2Proof.Machine
end

