-- ==== Sys2Proof/Machine/Fec.lean ====
section
/-! DEFINITION. Flits as bytes (R574), and forward error correction: blocks of five flits in 10-bit symbols (R575), the
Reed-Solomon code over GF(2^10) with its place on the wire (R576), and what the receiver corrects (R577). -/

namespace Sys2Proof.Machine

/-! ### Flits as bytes (R574) -/

/-- The 252 bytes that FL_CRC covers. -/
def Flit.bytes (f : Flit) : Bytes :=
  natLe 1 f.typ ++ natLe 1 (f.vc + 8 * f.dim) ++ natLe 2 f.seq ++ natLe 2 (f.ack + 4096 * natOfBool f.nak) ++ natLe 1 f.cr0 ++
    natLe 1 f.cr1 ++ natLe 2 f.dst ++ natLe 2 f.src ++ natLe 1 f.hops ++ natLe 1 f.plen ++
    natLe 2 (f.index + 2 ^ 15 * natOfBool f.last) ++ natLe 4 f.chase ++ natLe 4 f.msg ++ natLe 8 f.arg ++
    (f.payload ++ List.replicate 220 0).take 220

/-- FL_CRC of a flit. -/
def Flit.crc (f : Flit) : Nat := crc32c f.bytes

/-- The 256 bytes of a flit on the wire. -/
def Flit.wire (f : Flit) : Bytes := f.bytes ++ natLe 4 f.crc

/-! ### Blocks (R575) -/

/-- The data symbols of a block: its bytes as a little-endian bit string, cut into 10 bits. -/
def fecSymbols (block : Bytes) : List Nat := (List.range 1024).map fun s => leNat (slice block (10 * s / 8) 3) / 2 ^ (10 * s % 8) % 1024

/-- The message of codeword `c`: symbol `s` belongs to codeword `s` mod 4. -/
def fecMessage (syms : List Nat) (c : Nat) : List Nat := (List.range 256).map fun p => syms.getD (4 * p + c) 0

/-! ### The field and the code (R576) -/

/-- Times α: the field is built on x^10 + x^3 + 1. -/
def gfTimesA (a : Nat) : Nat := if 512 ≤ a then (2 * a) ^^^ 0x409 else 2 * a

/-- The product of two field elements, bit by bit from the highest. -/
def gfMul (a b : Nat) : Nat := (List.range 10).foldl (fun r i => gfTimesA r ^^^ if bitOf b (9 - i) then a else 0) 0

/-- α to the power `i`. -/
def gfPow : Nat → Nat
  | 0 => 1
  | i + 1 => gfTimesA (gfPow i)

/-- A polynomial, highest power first, times (x − r). -/
def polyTimes (p : List Nat) (r : Nat) : List Nat := (p ++ [0]).zipWith (fun a b => a ^^^ gfMul r b) (0 :: p)

/-- The generator: the product of (x − α^i) for i from 0 to 15, highest power first. -/
def fecGenerator : List Nat := (List.range 16).foldl (fun p i => polyTimes p (gfPow i)) [1]

/-- One message symbol into the remainder of the message by the generator. -/
def fecStep (r : List Nat) (m : Nat) : List Nat :=
  let q := m ^^^ r.getD 0 0
  (r.drop 1 ++ [0]).zipWith (fun a g => a ^^^ gfMul q g) (fecGenerator.drop 1)

/-- The sixteen check symbols of a message: message position 0 and check symbol 0 stand at the highest powers (DESIGN CHOICE: R576
does not say at which end a codeword begins). -/
def fecChecks (msg : List Nat) : List Nat := msg.foldl fecStep (List.replicate 16 0)

/-- The 64 check symbols of a block in wire order: check symbol `j` of codeword `c` at place 4 j + c. -/
def blockChecks (block : Bytes) : List Nat :=
  let syms := fecSymbols block
  let cs := (List.range 4).map fun c => fecChecks (fecMessage syms c)
  (List.range 64).map fun k => (cs.getD (k % 4) []).getD (k / 4) 0

/-- The syndromes of a codeword, highest power first: all zero for a word of the code. -/
def fecSyndromes (w : List Nat) : List Nat := (List.range 16).map fun i => w.foldl (fun a x => gfMul a (gfPow i) ^^^ x) 0

/-! ### Receiving (R577) -/

/-- The wrong symbols of a block by their wire position: data symbols, then check symbols (R576). -/
def blockErrs (data checks : List Nat) : List Nat := data ++ checks.map (· + 1024)

/-- Wrong symbols of a block by their wire position (data 0 to 1,023, check symbols behind them) in codeword `c`. -/
def wrongIn (errs : List Nat) (c : Nat) : Nat := (errs.eraseDups.filter fun p => p % 4 == c).length

/-- A block is uncorrectable when a codeword holds more than 8 wrong symbols. -/
def fecFails (errs : List Nat) : Bool := (List.range 4).any fun c => decide (8 < wrongIn errs c)

/-- Symbols corrected in a block. -/
def fecCorrected (errs : List Nat) : Nat := if fecFails errs then 0 else errs.eraseDups.length

end Sys2Proof.Machine
end

