-- ==== Sys2Proof/Machine/Route.lean ====
section
/-! DEFINITION. Sending on the fabric: messages cut into flits (R587, R590), routing by the tables and the escape rules
(R608 to R612), credits and the retry buffer (R579, R585). -/

namespace Sys2Proof.Machine

/-- Link states (R573). -/
def lkDown : Nat := 0
def lkTraining : Nat := 1
def lkLinked : Nat := 2
def lkActive : Nat := 3
def lkIsolated : Nat := 4

/-- A link beyond its registers. -/
def State.link (s : State) (l : Nat) : LinkSt := (kvGet s.fab.links l).getD LinkSt.empty
def State.updLink (s : State) (l : Nat) (f : LinkSt → LinkSt) : State :=
  { s with fab := { s.fab with links := kvPut s.fab.links l (f (s.link l)) } }
def State.updFab (s : State) (f : FabSt → FabSt) : State := { s with fab := f s.fab }

/-- The device holds a node ID (R605). -/
def State.hasNode (s : State) : Bool := s.getF Fld.hlkNdState 0 == 1 || s.getF Fld.hlkNdState 0 == 2

/-- The ACTIVE links of a bundle. -/
def State.bundleLinks (s : State) (b : Nat) : List Nat :=
  (List.range 96).filter fun l => s.getF Fld.hlkLkState l == lkActive && s.getF Fld.hlkLkBundle l == b

/-- Credits held for a channel on a link; none while the retry buffer is full (R579). -/
def State.credit (s : State) (l vc : Nat) : Nat :=
  if 512 ≤ (s.link l).unacked.length then 0 else (s.link l).credits.getD vc 0

def State.bundleCredit (s : State) (b vc : Nat) : Nat := (s.bundleLinks b).foldl (fun n l => n + s.credit l vc) 0

/-- The link of a bundle with the most credits of a channel, the lower number on a tie (R610). -/
def State.bestLink (s : State) (b vc : Nat) : Option Nat :=
  (s.bundleLinks b).foldl (fun m l => match m with
    | none => if s.credit l vc = 0 then none else some l
    | some x => if s.credit x vc < s.credit l vc then some l else some x) none

/-- The route table entry for a destination (R608). -/
def State.routeWord (s : State) (dst : Nat) : Nat :=
  if dst / 256 = s.nodeId / 256 then s.rd .hlkRtMember (dst % 256) else s.rd .hlkRtGroup (dst / 256)

/-- The valid candidate bundles of an entry, in order (R609). -/
def routeCands (w : Nat) : List Nat :=
  (List.range 4).filterMap fun k => let b := bitsOf w (8 * k + 7) (8 * k); if bitOf b 7 then some (b % 128) else none

/-- The escape bundle of an entry. -/
def routeEsc (w : Nat) : Option Nat := let b := bitsOf w 39 32; if bitOf b 7 then some (b % 128) else none

/-- The escape channel of a flit's class with a phase (R584). -/
def escapeVc (vc ph : Nat) : Nat :=
  if vc = 1 ∨ vc = 2 then 1 + ph else if vc = 6 ∨ vc = 7 then 6 + ph else 4 + ph

/-- escape_hop (R611): `new` says that the message was just sent. -/
def State.escapeHop (s : State) (f : Flit) (new : Bool) (b : Nat) : Flit :=
  let bdim := s.getF Fld.hlkBdDim b
  let dim0 := if f.vc = 3 ∨ new then 0 else f.dim
  let ph0 := if f.vc = 3 ∨ new then 0 else if f.vc = 2 ∨ f.vc = 5 ∨ f.vc = 7 then 1 else 0
  let up := decide (dim0 < bdim)
  let ph1 := if up then 0 else ph0
  { f with dim := if up then bdim else dim0, vc := escapeVc f.vc (if s.flag Fld.hlkBdDateline b then 1 else ph1) }

/-- Two credit returns of a link, and what is left to return (R585). -/
def creditReturn (owed : List Nat) : Nat × List Nat :=
  match owed.zipIdx.find? fun e => e.1 != 0 with
  | some (n, v) => let k := min n 31; (32 * v + k, owed.set v (n - k))
  | none => (0, owed)

/-- A flit goes out on a link. With the fifth flit of its block the block's check symbols follow (R575, R576). -/
def State.putFlit (s : State) (l : Nat) (f : Flit) : State :=
  let b := (s.link l).txBlock ++ [f.wire]
  let s1 := s.emit (.flit l f)
  if b.length < 5 then s1.updLink l fun k => { k with txBlock := b }
  else (s1.emit (.fec l (blockChecks b.flatten))).updLink l fun k => { k with txBlock := [] }

/-- Send a flit on a link: it takes the next sequence, a credit and a place in the retry buffer (R579, R580, R585). -/
def State.sendOn (s : State) (l : Nat) (f : Flit) : State :=
  let k := s.link l
  let r0 := creditReturn k.toReturn
  let r1 := creditReturn r0.2
  let f1 := { f with seq := k.txSeq, ack := (k.rxSeq + 4095) % 4096, nak := k.nakOwed, cr0 := r0.1, cr1 := r1.1 }
  (s.updLink l fun k => { k with
    txSeq := (k.txSeq + 1) % 4096, unacked := k.unacked ++ [(f1, 1)], ackOwed := false, nakOwed := false
    toReturn := r1.2, credits := k.credits.set f.vc (k.credits.getD f.vc 0 - 1) }).putFlit l f1

/-- Send stored flits of a link's retry buffer once more, in order: each keeps its sequence and its credit returns, and carries the
acknowledgement and the NAK owed now (R580, R581). `paid` says that each takes a credit, as after a training that gave the credits back
(R585). -/
def State.resendFrom (s : State) (l : Nat) (paid : Bool) (fs : List Flit) : State :=
  fs.foldl (fun s f =>
    let k := s.link l
    (s.updLink l fun k => { k with
      ackOwed := false, nakOwed := false, unacked := k.unacked.map fun e => if e.1.seq == f.seq then (e.1, e.2 + 1) else e
      credits := if paid then k.credits.set f.vc (k.credits.getD f.vc 0 - 1) else k.credits }).putFlit l
      { f with ack := (k.rxSeq + 4095) % 4096, nak := k.nakOwed }) s

/-- The unacknowledged flits that a link may send now: all of them, but before it is ACTIVE again only those of VC 0 that come before
any other, since the receiver takes them in order (R573, R580). -/
def LinkSt.sendable (k : LinkSt) : List Flit :=
  if k.again then (k.unacked.map (·.1)).takeWhile fun f => f.vc == 0 else k.unacked.map (·.1)

/-- Whether a flit was sent by this device and has not been forwarded. -/
def State.isNew (s : State) (f : Flit) : Bool := f.src == s.nodeId && f.hops == 0

/-- A flit leaves the buffer that it occupied: its credit goes back to the neighbour (R585). -/
def State.freeBuf (s : State) (l vc : Nat) : State :=
  if l < 96 then s.updLink l fun k => { k with toReturn := k.toReturn.set vc (k.toReturn.getD vc 0 + 1) } else s

/-- What routing does with a flit now: it goes out on a link as the given flit, waits for a credit, or is discarded. -/
inductive Way where
  | send (o : Nat) (f : Flit)
  | wait
  | drop
  deriving DecidableEq, Repr

/-- Route a flit that is not for this device (R608 to R612). A flit whose escape bundle is down is discarded, also one on REQ-A
(DEDUCED: R612 makes no exception). -/
def State.way (s : State) (f : Flit) : Way :=
  let w := s.routeWord f.dst
  match (if bitOf w 63 then routeEsc w else none) with
  | none => .drop
  | some b =>
    if (s.bundleLinks b).isEmpty then .drop
    else
      let best := (routeCands w).foldl (fun m b => match m with
        | none => if s.bundleCredit b 3 = 0 then none else some b
        | some x => if s.bundleCredit x 3 < s.bundleCredit b 3 then some b else some x) none
      match (if f.vc = 3 then best.bind fun b => s.bestLink b 3 else none) with
      | some o => .send o f
      | none =>
        let g := s.escapeHop f (s.isNew f) b
        match s.bestLink b g.vc with
        | some o => .send o g
        | none => .wait

/-- The output priority of a channel; the lower wins (R584). -/
def vcPriority (vc : Nat) : Nat := if vc = 0 then 1 else if vc ≤ 2 then 2 else if 6 ≤ vc then 3 else 4

/-- The queue of a flit at an output link: its input port and the channel that it goes out on. -/
def turnKey (port vc : Nat) : Nat := 8 * port + vc

/-- An output link remembers which queue it served last (R586). -/
def State.noteTurn (s : State) (o port vc : Nat) : State :=
  s.updLink o fun k => { k with turns := kvPut k.turns (vcPriority vc) (turnKey port vc) }

/-- Route a flit that occupies a buffer of link `l` (255: none), on channel `vc`. -/
def State.routeFrom (s : State) (f : Flit) (l vc : Nat) : State :=
  match s.way f with
  | .send o g => ((s.freeBuf l vc).noteTurn o l g.vc).sendOn o g
  | .wait => s.updFab fun x => { x with held := x.held ++ [(f, l, vc)] }
  | .drop => (s.bump Fld.hlkRtUnroutable 0 1).freeBuf l vc

/-- Route a flit of this device's own. -/
def State.routeFlit (s : State) (f : Flit) : State := s.routeFrom f 255 0

/-- How long a queue waits for its turn at a link: the queues of one priority are served in turn after the one served last. -/
def State.turnOf (s : State) (o port vc : Nat) : Nat :=
  (turnKey port vc + 2047 - (kvGet (s.link o).turns (vcPriority vc)).getD 2047) % 2048

/-- Of the held flits that can go now, the one that its output link serves first: strict priority, then round robin, then the
oldest (R586). The links are taken in increasing number. -/
def State.nextHeld (s : State) : Option (Nat × (Flit × Nat × Nat)) :=
  let rank (e : Flit × Nat × Nat) : Option Nat := match s.way e.1 with
    | .send o g => some ((o * 8 + vcPriority g.vc) * 2048 + s.turnOf o e.2.1 g.vc + 1)
    | .drop => some 0
    | .wait => none
  s.fab.held.foldl (fun m e => match rank e, m with
    | some r, some (q, x) => if r < q then some (r, e) else some (q, x)
    | some r, none => some (r, e)
    | none, _ => m) none

/-- A held flit goes. -/
def State.releaseHeld (s : State) (e : Flit × Nat × Nat) : State :=
  (s.updFab fun x => { x with held := x.held.erase e }).routeFrom e.1 e.2.1 e.2.2

/-- Let up to `n` held flits go. -/
def State.releaseAll (s : State) : Nat → State
  | 0 => s
  | n + 1 => match s.nextHeld with
    | some (_, e) => State.releaseAll (s.releaseHeld e) n
    | none => s

/-- Let the flits that wait for a credit go where they now can (R586, R610). -/
def State.retryHeld (s : State) : State := s.releaseAll s.fab.held.length

/-- The channel on which a message of a type starts (R584). -/
def typeVc (typ : Nat) : Nat := if typ = 0x10 ∨ typ = 0x11 then 3 else if typ = 0x20 then 6 else 1

/-- The flits of a message (R587). -/
def msgFlits (src : Nat) (m : MsgRec) : List Flit :=
  let ps := if m.data.isEmpty then [[]] else pieces 220 m.data
  ps.zipIdx.map fun p =>
    { typ := m.typ, vc := typeVc m.typ, dim := 0, seq := 0, ack := 0, nak := false, cr0 := 0, cr1 := 0, dst := m.dst
      src := src, hops := 0, plen := p.1.length, index := p.2, last := p.2 + 1 == ps.length, chase := m.chase, msg := m.msg
      arg := m.arg, payload := p.1 }

/-- Messages without acknowledgement to a destination. -/
def State.openTo (s : State) (dst : Nat) : Nat := (s.fab.sent.filter fun m => m.dst == dst).length

/-- Give a message its number and send its flits (R590). -/
def State.startMsg (s : State) (m : MsgRec) : State :=
  let n := (kvGet s.fab.nextMsg m.dst).getD 0
  let m1 := { m with msg := n }
  (msgFlits s.nodeId m1).foldl State.routeFlit
    (s.updFab fun x => { x with nextMsg := kvPut x.nextMsg m.dst ((n + 1) % 2 ^ 32), sent := x.sent ++ [m1] })

/-- Send a message to a node: with 64 unacknowledged messages to it the message waits (R590). -/
def State.sendMsg (s : State) (m : MsgRec) : State :=
  if s.openTo m.dst < 64 && !s.fab.queued.any (fun q => q.dst == m.dst) then s.startMsg m
  else s.updFab fun x => { x with queued := x.queued ++ [m] }

/-- Start messages that wait for a place to a destination, oldest first. -/
def State.drainQueued (s : State) (dst : Nat) : State :=
  match s.fab.queued.find? fun q => q.dst == dst with
  | some m => if s.openTo dst < 64 then (s.updFab fun x => { x with queued := x.queued.erase m }).startMsg m else s
  | none => s

/-- An acknowledgement of a message (R588, R592): a message of its own, with the next number of its pair (R590); none acknowledges it,
so it is not kept and takes none of the 64 places. -/
def State.sendAck (s : State) (dst chase msg status : Nat) : State :=
  let n := (kvGet s.fab.nextMsg dst).getD 0
  (msgFlits s.nodeId ⟨dst, n, 0x20, chase, msg + status * 2 ^ 32, [], 0, 16, false⟩).foldl State.routeFlit
    (s.updFab fun x => { x with nextMsg := kvPut x.nextMsg dst ((n + 1) % 2 ^ 32) })

/-! ### Chase control messages (R98 to R101, R122, R123, R131, R151, R328) -/

def ctlJoin : Nat := 1
def ctlStart : Nat := 2
def ctlStop : Nat := 3
def ctlDone : Nat := 4
def ctlVerdict : Nat := 5
def ctlFault : Nat := 6
def ctlSwitchReq : Nat := 7
def ctlSummary : Nat := 8
def ctlSummaryResult : Nat := 9

/-- Send a CHASE_CTL message to a member; its fields go as 64-bit words, which is the model's layout. -/
def State.sendCtl (s : State) (c ordinal sub : Nat) (payload : Bytes) : State :=
  s.sendMsg ⟨ptNode (s.forme c) ordinal, 0, 0x31, ptTag (s.forme c), sub, payload, 0, c, false⟩

/-- The ordinals of the other members. -/
def State.others (s : State) (c : Nat) : List Nat := (List.range (s.members c)).filter (· != s.ordinal c)

/-- Send a CHASE_CTL message to every other member. -/
def State.sendAll (s : State) (c sub : Nat) (payload : Bytes) : State :=
  (s.others c).foldl (fun s i => s.sendCtl c i sub payload) s

/-- Some words as a payload. -/
def words (l : List Nat) : Bytes := l.flatMap (natLe 8)

end Sys2Proof.Machine
end

