-- ==== Sys2Proof/Machine/Base.lean ====
section
/-! DEFINITION. What strokes, plates, marks and tickets share: finishing tickets, faulting a chase (R131, R159), done
messages and verdicts (R120 to R132), and starting a plate (R119, R139, R712). -/

namespace Sys2Proof.Machine

/-! ### Tickets (R683 to R686) -/

/-- Proof statuses (R684). -/
def stOk : Nat := 0
def stChase : Nat := 1
def stGalley : Nat := 2
def stBadTicket : Nat := 3
def stWindow : Nat := 4
def stRefused : Nat := 5
def stChaseEnded : Nat := 6
def stRange : Nat := 7
def stNoResource : Nat := 8
def stPath : Nat := 9
def stCleared : Nat := 10
def stPrivilege : Nat := 11

/-- Details (R685). -/
def dForme (code ty off : Nat) : Bytes := natLe 2 code ++ natLe 2 ty ++ natLe 4 off
def dLoad (status count ranges : Nat) : Bytes := natLe 4 status ++ natLe 4 count ++ natLe 4 (satNat ranges (2 ^ 32 - 1))
def dValue (a b : Nat) : Bytes := natLe 8 a ++ natLe 4 b
def State.dEnd (s : State) (c : Nat) : Bytes := natLe 1 (s.cs c) ++ natLe 1 (s.getF Fld.stkFault c)

/-- D_WORK of a chase since a snapshot. -/
def State.dWork (s : State) (c : Nat) (w : WorkCnt) : Bytes :=
  let n := (s.chase c).work
  natLe 4 (s.getF Fld.stkNumber c) ++ natLe 2 (satNat (n.retried - w.retried) 65535) ++
    natLe 2 (satNat (n.saturated - w.saturated) 65535) ++ natLe 2 (satNat (n.faulted - w.faulted) 65535) ++
    natLe 2 (satNat (n.metaFail - w.metaFail) 65535)

/-- Apply a function to the first element of a list that a predicate picks. -/
def mapFirst {α : Type} (p : α → Bool) (f : α → α) : List α → List α
  | [] => []
  | a :: l => if p a then f a :: l else a :: mapFirst p f l

/-- Apply a function to a ticket: the oldest that bears the number. -/
def State.updTicket (s : State) (ring seq : Nat) (f : Ticket → Ticket) : State :=
  { s with host := { s.host with tickets := mapFirst (fun t => t.ring == ring && t.seq == seq) f s.host.tickets } }

/-- Whether a ticket belongs to a chase slot: NOP, QP_DESTROY, MR_DEREGISTER and CORE_JOB have none, neither has MR_REGISTER with its
source in space 3 (R880). -/
def tkHasSlot (b : Bytes) : Bool :=
  !([0x00, 0x61, 0x63, 0x70] : List Nat).contains (tkOpcode b) && !(tkOpcode b == 0x62 && u8At b 56 == 3)

/-- PF_TRACER, PF_HAND_SET and PF_HELLBOX_FULL of a ticket that completes now: the work of its chase since it was accepted (R47, R266,
R565, R686). -/
def State.workFlags (s : State) (t : Ticket) : Nat :=
  let w := (s.chase (tkSlot t.raw)).work
  if tkHasSlot t.raw then 2 * natOfBool (decide (t.snap.tracer < w.tracer)) + 8 * natOfBool (decide (t.snap.handSet < w.handSet)) +
    16 * natOfBool (decide (t.snap.hellbox < w.hellbox)) else 0

/-- A ticket completes with its outcome, unless it has completed. -/
def State.outcome (s : State) (status : Nat) (detail : Bytes) (t : Ticket) : Ticket :=
  if t.done then t
  else { t with done := true, acted := true, status := status, detail := detail, flags := t.flags ||| s.workFlags t }

/-- Fix a ticket's outcome. -/
def State.finishTicket (s : State) (ring seq status : Nat) (detail : Bytes) : State :=
  s.updTicket ring seq (s.outcome status detail)

/-- Fix the outcome of every unfinished ticket that a predicate picks. -/
def State.finishWhere (s : State) (p : Ticket → Bool) (status : Nat) (detail : Bytes) : State :=
  { s with host := { s.host with tickets := s.host.tickets.map fun t => if p t then s.outcome status detail t else t } }

/-- Ticket opcodes of the chase tickets, SAMPLE and GALLEY_SWITCH (R678). -/
def tkChaseStart : Nat := 0x0002
def tkChaseStop : Nat := 0x0003
def tkGalleySwitch : Nat := 0x0011
def tkSample : Nat := 0x0030
def tkMarkWait : Nat := 0x0051

/-! ### Faults of a chase -/

/-- The open groups of a slot's plates are given up, and so are the tiles that wait for one. -/
def State.dropGroups (s : State) (c : Nat) : State :=
  { s with groups := s.groups.filter fun g => g.2.shape.slot != c, openWaits := s.openWaits.filter fun w => w.grp.shape.slot != c }

/-- The waits of a slot's plate leave their marks. -/
def State.dropPlateWaits (s : State) (c : Nat) : State :=
  let keep (w : MarkWait) : Bool := match w with
    | .plate k _ => k != c
    | _ => true
  { s with marks := s.marks.map fun m => (m.1, { m.2 with waits := m.2.waits.filter keep }) }

/-- A chase that stops striking holds no grant, no loan and no set-aside (R159, R707). -/
def State.dropInk (s : State) (c : Nat) : State :=
  let x := (s.chase c).ink
  let s1 := (s.setF Fld.inkGranted 0 (s.getF Fld.inkGranted 0 - s.getF Fld.inkCGranted c)).wr .inkChase c 0
  let s2 := s1.setFs 0 [(Fld.inkLent, s1.getF Fld.inkLent 0 - x.lent), (Fld.inkSetaside, s1.getF Fld.inkSetaside 0 - x.setaside)]
  let s3 := s2.updChase c fun x => { x with ink := ChaseInk.none }
  { s3 with ink := { s3.ink with order := s3.ink.order.filter (· != c) } }

/-- Address of the directory entry of a sample slot (R693). -/
def sdAddr (k : Nat) : Nat := sdBase + 16 * k

/-- The sample slots of a chase go to FREE; their tickets report the chase state (R159). -/
def State.freeSamples (s : State) (c : Nat) : State :=
  let s1 := s.finishWhere (fun t => tkOpcode t.raw == tkSample && tkSlot t.raw == c) stChaseEnded (s.dEnd c)
  { s1 with samples := s1.samples.filter fun e => e.2.slot != c }

/-- The directory entries of the sample slots of a chase read FREE (R693). -/
def State.clearSampleDir (s : State) (c : Nat) : State :=
  (s.samples.filter fun e => e.2.slot == c).foldl (fun s e => (s.chaseWrite c (sdAddr e.1) (List.replicate 16 0)).1) s

/-- The strokes of a chase end: no plate, no phase, no grant; draining states that nothing references go (R334). -/
def State.haltChase (s : State) (c : Nat) : State :=
  (((((s.setFs c [(Fld.stkPhase, 0), (Fld.stkSlipping, 0)]).dropPlateWaits c).dropGroups c).dropInk c).freeAllDraining c).updChase c fun x => { x with tracer := [] }

/-- Put a chase into FAULTED with a code (R131, R159, R163, R874), without telling the other members. -/
def State.faultLocal (s : State) (c code : Nat) : State :=
  if s.csActive c then
    let s1 := s.setFs c [(Fld.sysChaseState, csFaulted), (Fld.stkFault, code)]
    let s2 := (s1.haltChase c).updChase c fun x => { x with
      verdict := none, dones := [], finished := false, doneSent := false, joined := [] }
    let s3 := s2.finishWhere (fun t => (tkOpcode t.raw == tkChaseStart || tkOpcode t.raw == tkChaseStop ||
      tkOpcode t.raw == tkGalleySwitch) && tkSlot t.raw == c && t.acted) stChaseEnded (s2.dEnd c)
    ((s3.clearSampleDir c).freeSamples c).eventFault
  else s

/-- PEER_FAULT and the other STK_FAULT codes. -/
def fSlipLimit : Nat := 0x01
def fSeqOrder : Nat := 0x02
def fBranchScope : Nat := 0x03
def fPeerFault : Nat := 0x04
def fMarkOverflow : Nat := 0x05
def fMarkUnderflow : Nat := 0x06
def fFabricLoss : Nat := 0x07
def fNodeChanged : Nat := 0x08
def fSeqFault : Nat := 0x09
def fUnitLost : Nat := 0x0A
def fDeviceFail : Nat := 0x0B
def fMarkAbsent : Nat := 0x0C

/-- Fault a chase and send the fault to all members (R131). -/
def State.faultChase (s : State) (c code : Nat) : State :=
  if s.csActive c then (s.faultLocal c code).sendAll c ctlFault (words [code]) else s

/-! ### Starts that fail (R88, R96, R874) -/

/-- Validator codes that start and lifecycle checks report (R89). -/
def veChaseBusy : Nat := 0xA1
def veRegionInvalid : Nat := 0xA2
def vePeerMismatch : Nat := 0xB0
def vePeerTimeout : Nat := 0xB1

/-- SYS_CHASE_ERR_CODE and SYS_CHASE_ERR_SECTION (R88, R106). -/
def State.noteErr (s : State) (c code ty : Nat) : State :=
  s.setFs c [(Fld.sysChaseErrCode, code), (Fld.sysChaseErrSection, ty % 256)]

/-- Finish the CHASE_START tickets of a slot. -/
def State.endStart (s : State) (c status : Nat) (detail : Bytes) : State :=
  s.finishWhere (fun t => tkOpcode t.raw == tkChaseStart && tkSlot t.raw == c && t.acted) status detail

/-- A start fails a check: the slot goes to `state` (R96, R99, R874). In FAULTED its sample slots are FREE (R159); draining states that
nothing references go (R334). -/
def State.failStart (s : State) (c code ty off state : Nat) : State :=
  let s1 := ((s.noteErr c code ty).setF Fld.sysChaseState c state).updChase c fun x => { x with joined := [], startStroke := none }
  let s2 := (s1.endStart c stChase (dForme code ty off)).freeAllDraining c
  if state = csFaulted then (s2.clearSampleDir c).freeSamples c else s2

/-- Offset of this device's PT_REGIONS entry in the forme (R873). -/
def State.regionsOff (s : State) (c : Nat) : Nat := secOff (s.forme c) 1 + 10 + 8 * s.ordinal c

/-- A region of a chase is lost (R96, R809): a start that waits for its start stroke fails with REGION_INVALID, and the chase faults. -/
def State.loseHolder (s : State) (c : Nat) : State :=
  (if s.cs c == csJoining then
    (s.noteErr c veRegionInvalid 1).endStart c stChase (dForme veRegionInvalid 1 (s.regionsOff c)) else s).faultChase c fUnitLost

/-! ### Done messages and verdicts (R120 to R132) -/

/-- The chase leaves STOPPING (or JOINING) for LOADED; its stop completes (R93, R132). -/
def State.stopped (s : State) (c : Nat) : State :=
  let s1 := (s.setFs c [(Fld.sysChaseState, csLoaded), (Fld.stkParked, 0)]).haltChase c
  let s2 := s1.updChase c fun x => { x with verdict := none, dones := [], stopAt := none }
  s2.finishWhere (fun t => tkOpcode t.raw == tkChaseStop && tkSlot t.raw == c && t.acted) stOk
    (dValue ((s.chase c).stopAt.getD 0) 0)

/-- The switches that a GO verdict names are due: at its boundary, or at the next stroke that begins once that is slipped (R328, R329). -/
def State.noteNamed (s : State) (c m : Nat) (named : List (Nat × Nat)) : State :=
  s.updChase c fun x => { x with
    galleys := x.galleys.map fun g => if named.any (fun e => e.1 == g.1) then (g.1, { g.2 with named := some m }) else g }

/-- A GO verdict reaches this member (R124): it is kept until its stroke begins; a chase that stops at or before the
boundary goes to LOADED (R132). The switches that it names are due at the boundary (R328). -/
def State.takeGo (s : State) (c m start : Nat) (named : List (Nat × Nat)) : State :=
  if (match (s.chase c).stopAt with | some n => decide (n ≤ m) | none => false) && s.cs c == csStopping then s.stopped c
  else (s.noteNamed c m named).updChase c fun x => { x with verdict := some (m, start) }

/-- The switches that the root may name: every member has reported the same sealed incoming state number (R328). A
member sends its request only once it holds fewer than two draining states. -/
def State.agreed (s : State) (c : Nat) : List (Nat × Nat × Nat) :=
  let reqs := (s.chase c).switchReqs
  reqs.filter fun r => r.2.1 == 0 && (List.range (s.members c)).all fun i => reqs.contains (r.1, i, r.2.2)

/-- The root issues GO for boundary `m` (R123): it names every switch on which the members agree (R328). -/
def State.issueGo (s : State) (c m start : Nat) : State :=
  let named := (s.agreed c).map fun r => (r.1, r.2.2)
  let s1 := s.updChase c fun x => { x with switchReqs := x.switchReqs.filter fun r => !named.any fun e => e.1 == r.1 }
  (s1.sendAll c ctlVerdict (words ([m, 1, start] ++ named.flatMap fun e => [e.1, e.2]))).takeGo c m start named

/-- Whether the root holds a done message of every member. -/
def State.allDone (s : State) (c : Nat) : Bool :=
  (List.range (s.members c)).all fun i => (s.chase c).dones.any fun d => d.1 == i

/-- The time by which a running chase counts its boundaries: unstepped until it adopts a step (R742). -/
def State.chaseNow (s : State) (c : Nat) : Nat :=
  match (s.chase c).pendingStep with
  | some d => (((s.now : Nat) : Int) - d).toNat
  | none => s.now

/-- The root judges its boundary once it holds every done message (R123): GO at the boundary, or held within the limit. -/
def State.rootJudge (s : State) (c : Nat) : State :=
  let m := (s.chase c).judge
  let b := s.boundary c m
  let l := s.announceNs c
  if s.ordinal c == 0 && s.csStriking c && s.allDone c && (s.chase c).verdict.isNone then
    let t := s.chaseNow c
    if t + l ≤ b then s.issueGo c m b
    else if t + l ≤ b + s.holdNs c then s.issueGo c m (t + l)
    else s
  else s

/-- The root receives a done message of its last begun stroke (R123). -/
def State.rootDone (s : State) (c ordinal stamp : Nat) : State :=
  if s.ordinal c == 0 && s.csStriking c && decide (ordinal < s.members c) && !(s.chase c).dones.any (fun d => d.1 == ordinal) then
    (s.updChase c fun x => { x with dones := x.dones ++ [(ordinal, stamp)] }).rootJudge c
  else s

/-- Whether every message of the stroke that must be acknowledged has been (R120, R542). -/
def State.allAcked (s : State) (c : Nat) : Bool :=
  !(s.fab.sent ++ s.fab.queued).any fun m => m.slot == c && (m.exch || m.typ == 0x30)

/-- The member is finished with its stroke when it has reached its end and its data is acknowledged: it sends done to the
root (R120, R122, R542). -/
def State.checkFinish (s : State) (c : Nat) : State :=
  let x := s.chase c
  if s.csStriking c && x.finished && !x.doneSent && s.allAcked c then
    let s1 := s.updChase c fun x => { x with doneSent := true }
    if s.ordinal c = 0 then s1.rootDone c 0 (s1.chaseNow c)
    else s1.sendCtl c 0 ctlDone (words [s1.ordinal c, s1.getF Fld.stkNumber c, s1.chaseNow c])
  else s

/-- The member reaches the end of its work in the stroke: a HOLD plate, or a plate that it may not start (R120, R712). -/
def State.endWork (s : State) (c : Nat) : State :=
  (s.updChase c fun x => { x with finished := true }).checkFinish c

/-- The boundary that the root judges next, from one on: those that a step of time has slipped are not judged (R113). -/
def ChaseSt.judgeFrom (x : ChaseSt) (n : Nat) : Nat := if x.skipFrom ≤ n ∧ n < x.skipTo then x.skipTo else n

/-- A slip of boundary `m` (R126 to R130): counted; the third in a row faults; slips of a substitution count apart (R807). -/
def State.slip (s : State) (c m : Nat) : State :=
  if s.csStriking c then
    let sub := (s.chase c).substituting
    let s1 := (s.bumpWrap Fld.stkSlipTotal c 1).setF Fld.stkSlipping c 1
    let s2 := if sub then s1.bump Fld.rasRepairSlips 0 1 else s1.setF Fld.stkConsecSlips c (s1.getF Fld.stkConsecSlips c + 1)
    let s3 := s2.updChase c fun x => { x with judge := x.judgeFrom (m + 1) }
    if 3 ≤ s3.getF Fld.stkConsecSlips c then s3.faultChase c fSlipLimit else s3
  else s

/-! ### Starting a plate (R119, R139, R712, R799) -/

/-- The work of a plate starts in every held region, its ports fresh (R145); some plates end the stroke's replay-safety (R799). -/
def State.plateStarts (s : State) (c : Nat) : State :=
  let p := s.plate c
  let unsafePlate := p.op == opScatter || p.op == opState || p.op == opExchange || p.op == opReduce ||
    (p.op == opGather && p.gaRole != 0)
  let s1 := s.updChase c fun x => { x with
    plate := { x.plate with started := true, waiting := false, flow := s.freshPorts c }, replaySafe := x.replaySafe && !unsafePlate
    exchBegun := if p.op == opExchange then x.exchBegun ++ [(2, p.galley), (3, p.dst)] else x.exchBegun
    sumDone := if p.isDist then false else x.sumDone, redSent := false }
  if p.ink ≠ 0xFF then s1.updChase c fun x => { x with ink := { x.ink with request := max x.ink.request (inkOf x.forme p.ink) } }
  else s1

/-- A plate whose class exceeds the level of the grant: the member's work in the stroke ends before it (R712). -/
def State.aboveLevel (s : State) (c : Nat) (p : Plate) : Bool :=
  p.ink != 0xFF && decide (s.getF Fld.inkCLevel c < inkOf (s.forme c) p.ink)

/-- Start the plate in hand; at duty 0 a plate with an ink class waits (R712). -/
def State.startPlate (s : State) (c : Nat) : State :=
  if (s.plate c).ink ≠ 0xFF ∧ s.getF Fld.inkCDuty c = 0 then s else s.plateStarts c

end Sys2Proof.Machine
end

