-- ==== Sys2Proof/Machine/Ink.lean ====
section
/-! DEFINITION. The ink ledger (R703 to R718): the effective envelope, the grant of a lock-up, revocation, loans and their
return. -/

namespace Sys2Proof.Machine

/-- The effective envelope in ink (R703): the floor of 300 W holds under THROTTLE_N or a thermal floor. -/
def State.envelope (s : State) : Nat :=
  let w := min s.ink.installed (s.getF Fld.inkClampW 0)
  2 * if s.flag Fld.inkThrActive 0 || s.flag Fld.inkThermFloor 0 then min w 300 else w

/-- The grants of the sixteen slots. -/
def State.grants (s : State) : Nat := ((List.range 16).map fun c => s.getF Fld.inkCGranted c).foldl (· + ·) 0

/-- The loans of the sixteen slots. -/
def State.loans (s : State) : Nat := (s.chases.map fun x => x.ink.lent).foldl (· + ·) 0

/-- What the ledger holds, as a number that a loan can make smaller: B + M + granted − lent (R707, R715). -/
def State.ledger (s : State) : Int :=
  ((s.getF Fld.inkBase 0 + s.getF Fld.inkSetaside 0 + s.grants : Nat) : Int) - ((s.loans : Nat) : Int)

/-- The ledger's sums in INK_LEDGER. -/
def State.postLedger (s : State) : State := s.setFs 0 [(Fld.inkGranted, s.grants), (Fld.inkLent, s.loans)]

/-- The request Q = L × R behind a slot's grant (R708). -/
def State.inkRequest (s : State) (c : Nat) : Nat := s.getF Fld.inkCLevel c * (s.heldRegions c).length

/-- The duty of a grant (R711). -/
def dutyOf (g q : Nat) : Nat := if g < q then 64 * g / q else 64

/-- Lower a slot's grant, its duty with it, and its loan to the grant at most (R715); what the power clamp took from the duty stays
taken (R719). -/
def State.lowerGrant (s : State) (c g : Nat) : State :=
  (s.setFs c [(Fld.inkCGranted, g), (Fld.inkCDuty, dutyOf g (s.inkRequest c) - (s.chase c).ink.cut)]).updChase c fun x =>
    { x with ink := { x.ink with lent := min x.ink.lent g } }

/-- By how much the ledger exceeds the envelope. With a firm part `f` that is to fit, the loans do not make room: loaned ink is
granted again as excess only (R710, R717). -/
def State.overEnvelope (s : State) (f : Option Nat) : Nat :=
  (s.ledger + ((f.elim 0 fun n => n + s.loans : Nat) : Int) - ((s.envelope : Nat) : Int)).toNat

/-- Lower the excess of one slot while the ledger exceeds the envelope; one revocation is counted. -/
def State.revokeExcess (s : State) (f : Option Nat) (c : Nat) : State :=
  let g := s.getF Fld.inkCGranted c
  let x := g - s.getF Fld.inkCFirm c
  let d := if f.isSome ∨ (s.chase c).ink.lent = 0 then min x (s.overEnvelope f) else x
  if s.overEnvelope f = 0 ∨ d = 0 then s else (s.lowerGrant c (g - d)).bump Fld.inkRevokes 0 1

/-- The first step of R715: excess goes, the youngest grant first. -/
def State.revokeAll (s : State) (f : Option Nat) (slots : List Nat) : State := slots.foldl (fun s c => s.revokeExcess f c) s

/-- One proportional step of R715: every grant in proportion, in whole ink rounded down. -/
def State.proportion (s : State) : State :=
  let t := s.grants
  let room := (((t : Nat) : Int) + ((s.envelope : Nat) : Int) - s.ledger).toNat
  s.ink.order.foldl (fun s c =>
    let g := s.getF Fld.inkCGranted c
    let g' := g * room / t
    if g' < g then (s.lowerGrant c g').bump Fld.inkRevokes 0 1 else s) s

/-- The proportional step again until the ledger fits; each one lowers a grant, so the sum of the grants bounds them. -/
def State.proportionUntil : Nat → State → State
  | 0, s => s
  | n + 1, s => if s.ledger ≤ ((s.envelope : Nat) : Int) then s else s.proportion.proportionUntil n

/-- Make the ledger fit within the envelope (R715). -/
def State.fitLedger (s : State) : State :=
  if s.ledger ≤ ((s.envelope : Nat) : Int) then s.postLedger
  else
    let s1 := s.revokeAll none s.ink.order
    (s1.proportionUntil (s1.grants + 1)).postLedger

/-- The envelope after a change of its terms; the ledger is made to fit. -/
def State.setEnvelope (s : State) : State := (s.setF Fld.inkEff 0 s.envelope).fitLedger

/-- The migration set-aside of a slot (R706). -/
def State.setaside (s : State) (c : Nat) : Nat := ceilDiv (s.getF Fld.impBudgetPm c * 720 * (s.heldRegions c).length) 16000

/-- The level that a slot requests at a lock-up (R708). -/
def State.inkLevel (s : State) (c : Nat) : Nat :=
  let p := plateAt (s.forme c) (s.getF Fld.stkPlate c)
  max (s.chase c).ink.request (if p.ink = 0xFF then 0 else inkOf (s.forme c) p.ink)

/-- The grant of a lock-up (R706 to R711, R717), under the installer envelope as it is now set (R755). For the new firm part and the new
set-aside the other chases lose excess alone; the firm part is granted as far as it then fits (R710). -/
def State.grantInk (s : State) (c : Nat) : State :=
  let r := (s.heldRegions c).length
  let l := s.inkLevel c
  let q := l * r
  let m := s.setaside c
  let s0 := (s.dropInk c).updChase c fun x => { x with ink := ⟨0, 0, m, 0⟩ }
  let s1 : State := { s0 with ink := { s0.ink with installed := s.getF Fld.inkInstallW 0 } }
  let s2 := s1.setFs 0 [(Fld.inkSetaside, s1.getF Fld.inkSetaside 0 + m), (Fld.inkEff, s1.envelope)]
  let a : Int := ((s2.envelope : Nat) : Int) - ((s2.getF Fld.inkBase 0 + s2.getF Fld.inkSetaside 0 : Nat) : Int)
  let share := a.toNat / s2.getF Fld.sysActiveRegions 0
  let f := min q (share * r)
  if q = 0 then ((s2.setFs c [(Fld.inkCLevel, 0), (Fld.inkCDuty, 64)]).revokeAll none s2.ink.order).postLedger
  else
    let s3 := s2.revokeAll (some f) s2.ink.order
    let room (n : Nat) : Nat := (((s3.envelope : Nat) : Int) - s3.ledger - ((n : Nat) : Int)).toNat
    let firm := min f (room s3.loans)
    let x := min (q - firm) (room firm)
    let s4 := s3.setFs c [(Fld.inkCFirm, firm), (Fld.inkCGranted, firm + x), (Fld.inkCLevel, l), (Fld.inkCDuty, dutyOf (firm + x) q)]
    let s5 : State := { s4 with ink := { s4.ink with order := c :: s4.ink.order } }
    (if room (s3.loans + firm) < x then s5.bump Fld.inkLoans 0 1 else s5).postLedger

/-- A lender wakes: its share leaves INK_LENT at once, and the ledger is restored (R551, R718). -/
def State.returnLoan (s : State) (c : Nat) : State :=
  if (s.chase c).plate.lent then
    (s.updChase c fun x => { x with ink := { x.ink with lent := 0 }, plate := { x.plate with lent := false } }).fitLedger
  else s

/-- A plate wait has lasted 2 µs in native mode: the ink of the waiting regions is lent (R550, R552, R717). -/
def State.lend (s : State) (c : Nat) : State :=
  let x := s.chase c
  if s.csStriking c && x.plate.waiting && !x.plate.lent && !fhCompat x.forme then
    ((s.updChase c fun x => { x with ink := { x.ink with lent := s.getF Fld.inkCGranted c }
                                     plate := { x.plate with lent := true } }).bump Fld.mrkLends c 1).postLedger
  else s

end Sys2Proof.Machine
end

