-- ==== Sys2Proof/Machine/Gate.lean ====
section
/-! DEFINITION. Who may reach the device: the host set of R654, the refusal of R655, and debug access (R781, R782). -/

namespace Sys2Proof.Machine

/-- The PCIe link answers. -/
def State.busUp (s : State) : Bool := s.live && s.pw.pcieUp

/-- Requester ID `k` of HIF_HOST_RID. -/
def State.extraRid (s : State) (k : Nat) : Nat := bitsOf (s.getF Fld.hifRid 0) (16 * k + 15) (16 * k)

/-- The requester is in the host set (R654). -/
def State.inHostSet (s : State) (rid : Nat) : Bool :=
  s.host.hostSet.contains rid ||
    (List.range 3).any fun k => bitOf (s.getF Fld.hifRidValid 0) k && s.extraRid k == rid

/-- A host write reaches the device: one from outside the host set is counted and has no other effect (R655). -/
def State.hostWrite (s : State) (rid : Nat) (f : State → State) : State :=
  if !s.busUp then s else if s.inHostSet rid then f s else s.bump Fld.hifUrPeer 0 1

/-- Every register of BAR0 answers: from stage BRING_UP on, and in RECOVERY; before, and in HALTED, only SYS_PART_ID, SYS_BOOT
and the SEC block do (R834, R839). -/
def State.windowUp (s : State) : Bool := s.stage == stageBringUp || s.stage == stageReady || s.stage == stageRecovery

/-- A host write of a register outside the SEC block reaches the device: one that the window does not serve has no effect. -/
def State.regWrite (s : State) (rid : Nat) (f : State → State) : State := s.hostWrite rid fun s => s.ifB s.windowUp f

/-- A host read reaches the device: one from outside the host set completes as Unsupported Request (R655). -/
def State.hostRead (s : State) (rid : Nat) (f : State → State) : State :=
  if !s.busUp then s else if s.inHostSet rid then f s else (s.bump Fld.hifUrPeer 0 1).emit .unsupported

/-- A 64-bit host read of a register outside the SEC block reaches the device: what one that the window does not serve returns
is free. -/
def State.regRead (s : State) (rid : Nat) (f : State → State) : State :=
  s.hostRead rid fun s => if s.windowUp then f s else (let r := s.freshBytes 8; r.2.emit (.readData r.1 false))

/-- The debug window reaches the state of a chase slot (R781, R782). -/
def State.debugReach (s : State) (c : Nat) : Bool :=
  s.flag Fld.secUnlockOp 0 || s.flag Fld.secUnlockMaker 0 ||
    (s.flag Fld.secSession 0 && bitOf (s.getF Fld.secSessionSlots 0) c)

end Sys2Proof.Machine
end

