-- ==== Sys2Proof/Machine/Colophon.lean ====
section
/-! DEFINITION. The colophon (R775 to R780): entries chained by their hashes, coalescing, checkpoints, and the refused and
accepted RW-2P writes (R16, R763). -/

namespace Sys2Proof.Machine

/-- Entry kinds (R775). -/
def ceBoot : Nat := 0x01
def ceLockdown : Nat := 0x02
def ceSetting : Nat := 0x10
def ceSession : Nat := 0x11
def ceTwoParty : Nat := 0x20
def ceAuthEnd : Nat := 0x21
def ceRefused : Nat := 0x22
def ceMaint : Nat := 0x23
def ceBreak : Nat := 0x30
def ceSelftest : Nat := 0x31

/-- What a colophon entry says. -/
structure ColEntry where
  kind : Nat
  result : Nat
  opcode : Nat
  cred0 : Nat
  cred1 : Nat
  detail : Bytes
  deriving DecidableEq, Repr

/-- The 128 bytes of an entry (R775). -/
def entryBytes (seq time : Nat) (e : ColEntry) (prev : Bytes) : Bytes :=
  natLe 8 seq ++ natLe 8 time ++ natLe 2 e.kind ++ natLe 1 e.result ++ natLe 1 0 ++ natLe 2 e.opcode ++ natLe 2 e.cred0 ++
    natLe 2 e.cred1 ++ List.replicate 6 0 ++ slice e.detail 0 32 ++ slice prev 0 32 ++ List.replicate 32 0

/-- The hash of the newest entry; zeros before the first. -/
def State.colHead (s : State) : Bytes :=
  match s.sec.colophon.getLast? with
  | some e => sha256 e.2
  | none => List.replicate 32 0

/-- SEC_ISLAND_STATE codes (R771, R785, R786). -/
def islBooting : Nat := 0
def islOperational : Nat := 1
def islError : Nat := 2
def islIdentityFail : Nat := 3

/-- The island can sign: it is operational with a valid identity. -/
def State.canSign (s : State) : Bool := s.getF Fld.secIslandState 0 == islOperational

/-- The last checkpointed sequence. -/
def State.ckptSeq (s : State) : Option Nat := s.sec.ckpts.head?.map (·.seq)

/-- A checkpoint as bytes: CE_SEQ and hash of its last entry, RPMB value, TIME_NS, signature; the layout is the model's. -/
def Checkpoint.bytes (c : Checkpoint) : Bytes := natLe 8 c.seq ++ c.hash ++ natLe 8 c.rpmb ++ natLe 8 c.time ++ c.sig

/-- Write a checkpoint (R777): it covers the newest entry; the RPMB counter rises, RPMB takes the checkpoint's hash, and the minimum
security version rises to that of the booted images (R769). Without an identity none is written (R771). -/
def State.checkpoint (s : State) : State :=
  match s.sec.colophon.getLast? with
  | some e =>
    if s.canSign then
      let sec := s.sec
      let ck : Checkpoint := ⟨e.1, sha256 e.2, sec.rpmb + 1, s.rd .timeNs 0, (List.range 384).map (Config.ckptSig (sec.rpmb + 1))⟩
      let s1 : State := { s with sec := { sec with
        ckpts := ck :: sec.ckpts, rpmb := sec.rpmb + 1, rpmbHash := sha256 ck.bytes, ckptAt := s.upNs, minSvn := max sec.minSvn sec.bootSvn } }
      s1.setFs 0 [(Fld.secColCkpt, e.1), (Fld.secColRpmb, (sec.rpmb + 1) % 2 ^ 32), (Fld.secMinSvn, max sec.minSvn sec.bootSvn)]
    else s
  | none => s

/-- The entry that takes an event as a repeat (R776), the newest such: same kind, opcode and refusal, within 1 s of the event. -/
def State.takesRepeat (s : State) (e : ColEntry) : Option Nat :=
  let now := s.rd .timeNs 0
  if e.result = 0 ∧ e.kind ≠ ceRefused then none
  else (s.sec.colophon.reverse.find? fun (_, b) =>
    u16At b 16 == e.kind && u8At b 18 == e.result && u16At b 20 == e.opcode && decide (u8At b 19 < 255) &&
      decide (now ≤ u64At b 8 + 1000000000) && decide (u64At b 8 ≤ now + 1000000000)).map (·.1)

/-- Entries that follow one with a given hash: CE_PREV holds the hash of the entry before (R775). -/
def rechain : Bytes → List (Nat × Bytes) → List (Nat × Bytes)
  | _, [] => []
  | h, (q, b) :: t => let b1 := patch b 64 h; (q, b1) :: rechain (sha256 b1) t

/-- One more event in CE_REPEAT of an entry; the chain after it follows (DEDUCED, log 34). -/
def countRepeat (q : Nat) : List (Nat × Bytes) → List (Nat × Bytes)
  | [] => []
  | e :: t =>
    if e.1 = q then
      let b := patch e.2 19 (natLe 1 (u8At e.2 19 + 1))
      (q, b) :: (if t.isEmpty then [] else rechain (sha256 b) t)
    else e :: countRepeat q t

/-- Room for one more entry (R779, R780): a full colophon gives up its oldest block of 256 once a checkpoint covers it. -/
def State.colRoom (s : State) : Option State :=
  if s.sec.colophon.length < 1048576 then some s
  else
    match s.sec.colophon[255]?, s.ckptSeq with
    | some e, some q =>
      if e.1 ≤ q then
        some (({ s with sec := { s.sec with colophon := s.sec.colophon.drop 256 } } : State).bump Fld.secColWraps 0 1)
      else none
    | _, _ => none

/-- Record an event in the colophon; the flag says that it was recorded (R775 to R780). -/
def State.record (s : State) (e : ColEntry) : State × Bool :=
  match s.takesRepeat e with
  | some q => ({ s with sec := { s.sec with colophon := countRepeat q s.sec.colophon } }, true)
  | none =>
    match s.colRoom with
    | none => (s.bump Fld.secColLost 0 1, false)
    | some s1 =>
      let q := s1.sec.nextSeq
      let b := entryBytes q (s1.rd .timeNs 0) e s1.colHead
      let s2 : State := { s1 with sec := { s1.sec with colophon := s1.sec.colophon ++ [(q, b)], nextSeq := q + 1 } }
      let s3 := s2.wr .secColophon 0 q
      (if 256 ≤ q + 1 - (match s3.ckptSeq with | some k => k + 1 | none => 0) then s3.checkpoint else s3, true)

/-- Record an event that no rule makes depend on the record. -/
def State.note (s : State) (e : ColEntry) : State := (s.record e).1

/-- CE_DETAIL of an RW-2P write: the BAR0 offset and the value (R775). -/
def rw2pDetail (off value : Nat) : Bytes := natLe 8 off ++ natLe 8 value

/-- A write to an RW-2P field is discarded (R16). -/
def State.refuseRw2p (s : State) (opcode off value : Nat) : State := s.note ⟨ceRefused, 0, opcode, 0, 0, rw2pDetail off value⟩

/-- An HBM_MAINT operation is accepted (R520). -/
def State.noteMaint (s : State) (opcode off value : Nat) : State := s.note ⟨ceMaint, 0, opcode, 0, 0, rw2pDetail off value⟩

/-- Repair access is in force for a stack (R763). -/
def State.repairOpen (s : State) (stack : Nat) : Bool :=
  s.flag Fld.secRepair 0 && bitOf (s.getF Fld.secRepairStacks 0) stack

/-! ### Authorisations (R760, R781) -/

/-- SEC_AUTH as the authorisations in force have it. -/
def State.showAuths (s : State) : State :=
  let mask (k : Nat) : Nat := ((s.sec.auths.find? fun a => a.kind == k).map Auth.mask).getD 0
  s.setFs 0 [(Fld.secUnlockOp, natOfBool (mask 1 == 1)), (Fld.secUnlockMaker, natOfBool (mask 1 == 2)),
    (Fld.secRepair, natOfBool (s.sec.auths.any fun a => a.kind == 2)), (Fld.secRepairStacks, mask 2),
    (Fld.secSession, natOfBool (s.sec.auths.any fun a => a.kind == 3)), (Fld.secSessionSlots, mask 3)]

/-- No authorisation of a kind is in force any more. -/
def State.dropAuth (s : State) (kind : Nat) : State :=
  ({ s with sec := { s.sec with auths := s.sec.auths.filter fun x => x.kind != kind } } : State).showAuths

/-- An authorisation of a kind ends, and the colophon says so (R760, R775, R781). -/
def State.endAuth (s : State) (kind : Nat) : State :=
  match s.sec.auths.find? fun a => a.kind == kind with
  | none => s
  | some a =>
    (s.dropAuth kind).note ⟨if kind = 3 then ceSession else ceAuthEnd, 0, 0, a.creds.getD 0 0, a.creds.getD 1 0, []⟩

/-- A chase slot has gone to EMPTY: a debug session over it closes (R781). -/
def State.slotEmptied (s : State) (c : Nat) : State :=
  if s.flag Fld.secSession 0 && bitOf (s.getF Fld.secSessionSlots 0) c then s.endAuth 3 else s

end Sys2Proof.Machine
end

