-- ==== Sys2Proof/Machine/Hbm.lean ====
section
/-! DEFINITION. HBM: the thermal steps (R505, R506), interface retries (R507, R508), ECC and scrubbing (R510 to R513), the
repair ladder (R514 to R519), and maker access to it (R520, R521). -/

namespace Sys2Proof.Machine

/-! ### Rows and banks -/

/-- The HBM address of the first line of a row (R467). -/
def rowBase (stack pc bank row : Nat) : Nat :=
  stack * 2 ^ 36 + pc * 2 ^ 30 + 64 * (row * 512 + (bank ^^^ (row % 32) ^^^ (row / 32 % 32) ^^^ (row / 1024 % 32)) * 16)

/-- The four 256-byte pieces of a row. -/
def rowPieces (stack pc bank row : Nat) : List Nat := (List.range 4).map fun j => rowBase stack pc bank row / 256 + j

def bankKey (stack pc bank : Nat) : Nat := (stack * 64 + pc) * 32 + bank

/-- The spares of a bank. -/
def State.bank (s : State) (key : Nat) : BankRepair := (s.hbm.repairs.find? fun b => b.key == key).getD ⟨key, [], []⟩
def State.setBank (s : State) (b : BankRepair) : State :=
  { s with hbm := { s.hbm with repairs := b :: s.hbm.repairs.filter fun x => x.key != b.key } }

/-- The first spare of a bank that is neither in use nor bad (R514). -/
def BankRepair.next (b : BankRepair) : Option Nat :=
  (List.range 8).find? fun k => !b.used.any (fun u => u.1 == k) && !b.bad.contains k

/-- HBM_MIN_SPARES of a stack. -/
def State.postSpares (s : State) (stack : Nat) : State :=
  let n := s.hbm.repairs.foldl (fun m b => if b.key / 2048 = stack then min m (8 - b.used.length - b.bad.length) else m) 8
  s.setF Fld.hbmMinSpares stack n

/-- A record of the memory ladder in the log (R519, R810): HBM_STEP at a stack, with the HBM address concerned. -/
def State.hbmStep (s : State) (stack h sev action : Nat) : State :=
  let s1 := if sev = sevContained then s else s.bump Fld.rasSteps 0 1
  s1.logErr ⟨0x0D, sev, 4, whereLink stack, 0, 0, 0xFF, action, h⟩

/-- HBM_LAST of a stack. -/
def State.hbmLast (s : State) (stack kind pc bank row h : Nat) : State :=
  s.wr .hbmLast stack (kind * 2 ^ 60 + pc * 2 ^ 54 + bank * 2 ^ 49 + row * 2 ^ 34 + h / 64)

/-! ### Frames that must be rehomed (R456) -/

/-- The HBM pieces of the unit that a move is to fill. -/
def State.movePieces (s : State) (m : MigrationEnt) : List Nat := if m.kind = 2 then s.framePieces m.layout m.band m.unit else []

/-- Abandon the migrations of slot `c` whose source or target lies in HBM pieces that `p` picks; their budget is not spent (R458). -/
def State.dropMoves (s : State) (c : Nat) (p : Nat → Bool) : State :=
  let lost (f : Nat) : Bool := match s.frame c f with
    | some e => (s.framePieces e.layout e.band e.unit).any p
    | none => false
  let slot (id slug : Nat) : Bool := match s.galley c id with
    | some g => match g.serving, s.localRow c g slug with
      | some x, some k => (rowFrames g.r k).any fun i => match kvGet x.map i with
        | some key => lost key
        | none => false
      | _, _ => false
    | none => false
  s.abandon c (fun m => (s.movePieces m).any p || (if m.kind < 3 then lost m.key else m.kind == 3 && slot m.key m.slug)) true

/-- Mark every frame that a predicate on its pieces picks for rehoming; `how` 1: its HBM can be read, 2: it cannot. -/
def State.markRehome (s : State) (p : Nat → Bool) (how : Nat) : State :=
  (List.range 16).foldl (fun s c =>
    ((s.chase c).frames.foldl (fun s e =>
      if (s.framePieces e.2.layout e.2.band e.2.unit).any p then s.updFrame c e.1 fun x => { x with rehome := max x.rehome how }
      else s) s).dropMoves c p) s

/-- Note a sector found uncorrectable in the frame that it belongs to (R511). -/
def State.noteFailed (s : State) (h : Nat) : State :=
  (List.range 16).foldl (fun s c => (s.chase c).frames.foldl (fun s e =>
    match (List.range 128).find? fun k => s.entryHa e.2 (32 * k) / 32 == h / 32 with
    | some k => s.updFrame c e.1 fun x => { x with failed := setIns x.failed k }
    | none => s) s) s

/-- The pieces of every frame that has one of some pieces, with the number of such frames. -/
def State.piecesOver (s : State) (ps : List Nat) : List Nat × Nat :=
  s.chases.foldl (fun a x => x.frames.foldl (fun a e =>
    let q := s.framePieces e.2.layout e.2.band e.2.unit
    if q.any ps.contains then (q.foldl setIns a.1, a.2 + 1) else a) a) (ps.foldl setIns [], 0)

/-- Frames of a stack that count toward the 1 % of R517. -/
def State.retiredIn (s : State) (stack : Nat) : Nat :=
  (s.hbm.retiredAt.filter fun k => k / 64 == stack && !bitOf (s.getF Fld.hbmPcOff stack) (k % 64)).length

/-- The sectors of a frame that lie in a stack which can no longer be read, and that were whole: the HBM has lost them, an on-chip copy
has not (R456, R518). -/
def State.loseSectors (s : State) (inStack : Nat → Bool) (e : FrameEnt) : FrameEnt :=
  { e with failed := ((List.range 128).filter fun k =>
      inStack (s.entryHa e (32 * k) / 256) && !s.devBad (s.entryHa e (32 * k))).foldl setIns e.failed }

/-- A stack goes offline (R518): every frame of a band that includes it is to be rehomed; where the stack can no longer be
read, what lies in it is lost. -/
def State.offlineStack (s : State) (stack : Nat) (readable : Bool) : State :=
  let inStack (q : Nat) : Bool := haStack (256 * q) == stack
  let bandOf (e : FrameEnt) : Bool := match s.band e.layout e.band with
    | some b => b.slots.any fun k => k / 64 == stack
    | none => false
  let s1 := s.setFs stack [(Fld.hbmState, 3)]
  let s2 := s1.setF Fld.sysActiveStacks 0 (s1.getF Fld.sysActiveStacks 0 - 1)
  let s3 := s2.markRehome inStack (if readable then 1 else 2)
  let s4 := (List.range 16).foldl (fun s c => (s.chase c).frames.foldl (fun s e =>
    if bandOf e.2 then (s.updFrame c e.1 fun x => { x with rehome := max x.rehome 1 }).dropMoves c
      (s.framePieces e.2.layout e.2.band e.2.unit).contains else s) s) s3
  let lost := if readable then [] else
    s4.chases.flatMap fun x => x.frames.flatMap fun e => (s4.framePieces e.2.layout e.2.band e.2.unit).filter inStack
  let s5 := if readable then s4 else (List.range 16).foldl (fun s c => s.updChase c fun x => { x with
    frames := x.frames.map fun e => (e.1, s4.loseSectors inStack e.2) }) s4
  (lost.foldl (fun s q => s.poisonRun (256 * q) 256) s5).hbmStep stack (stack * 2 ^ 36) sevDegraded 5

/-- A pseudo-channel goes offline (R517), unless it is; with eight of them the stack does (R518). -/
def State.offlinePc (s : State) (stack pc : Nat) : State :=
  if s.pcOffline stack pc then s else
  let s1 := s.setFs stack [(Fld.hbmPcOff, s.getF Fld.hbmPcOff stack ||| 2 ^ pc), (Fld.hbmPcOffCount, s.getF Fld.hbmPcOffCount stack + 1),
    (Fld.hbmState, 2)]
  let h := stack * 2 ^ 36 + pc * 2 ^ 30
  let s2 := ((s1.hbmLast stack 5 pc 0 0 h).markRehome (fun q => haStack (256 * q) == stack && haPc (256 * q) == pc) 1).hbmStep
    stack h sevDegraded 5
  if 8 ≤ s2.getF Fld.hbmPcOffCount stack then s2.offlineStack stack true else s2

/-- Retire the frames that have a line in a row (R516), or take the pseudo-channel offline (R517). A row that is retired stays so. -/
def State.retireRow (s : State) (stack pc bank row : Nat) : State :=
  let ps := rowPieces stack pc bank row
  if ps.all s.hbm.retired.contains then s else
  let all := s.piecesOver ps
  let n := max 1 all.2
  if 167772 < s.retiredIn stack + n then s.offlinePc stack pc
  else
    let h := rowBase stack pc bank row
    let s1 : State := { s with hbm := { s.hbm with
      retired := all.1.foldl setIns s.hbm.retired, retiredAt := s.hbm.retiredAt ++ List.replicate n (stack * 64 + pc) } }
    ((((s1.setF Fld.hbmRetired stack (s.getF Fld.hbmRetired stack + n)).hbmLast stack 4 pc bank row h).markRehome ps.contains 1).hbmStep
      stack h sevDegraded 5)

/-- A row needs repair (R514 to R516): its bad spare is given up, the next unused spare takes it, or its frames retire. -/
def State.repairRow (s : State) (stack pc bank row : Nat) : State :=
  let h := rowBase stack pc bank row
  let b := s.bank (bankKey stack pc bank)
  let s0 : State := { s with hbm := { s.hbm with corrected := s.hbm.corrected.filter fun e => !(rowPieces stack pc bank row).contains (e.1 / 8) } }
  let (s1, b1) := match b.used.find? fun u => u.2 == row with
    | some u =>
      ((s0.bump Fld.hbmSpareBad stack 1).hbmLast stack 3 pc bank row h,
        ({ b with used := b.used.filter (· != u), bad := b.bad ++ [u.1] } : BankRepair))
    | none => (s0, b)
  match b1.next with
  | some k =>
    let s2 := ((s1.setBank { b1 with used := b1.used ++ [(k, row)] }).postSpares stack).bump Fld.hbmRepairs stack 1
    (s2.hbmLast stack 2 pc bank row h).hbmStep stack h sevDegraded 4
  | none => ((s1.setBank b1).postSpares stack).retireRow stack pc bank row

/-! ### ECC (R510, R511, R513) -/

/-- Nanoseconds of a stack's scrub interval. -/
def State.scrubNs (s : State) (stack : Nat) : Nat := s.getF Fld.hbmScrubHours stack * 3600000000000

/-- The repair that a corrected sector calls for: a third distinct sector of its row within the interval, counted from the row's last
repair, or the sector itself again after it has been written back, a repair in between or not (R513; DEDUCED, log 142). -/
def State.correctedNeeds (s : State) (q : Nat) : Bool :=
  let h := 32 * q
  let ps := rowPieces (haStack h) (haPc h) (lineBank (haLine h)) (lineRow (haLine h))
  s.hbm.writtenBack.contains q ||
    decide (2 ≤ (s.hbm.corrected.filter fun e => ps.contains (e.1 / 8) && decide (s.upNs ≤ e.2 + s.scrubNs (haStack h))).length)

/-- What the code makes of a codeword with `n` symbols in error (R509): minimum distance 4 corrects one and detects two. What three or
more come to the rule does not say: detected, or taken for another codeword (`r`, a free number, says which). -/
def eccDecode (n r : Nat) : EccResult :=
  if n = 0 then .clean else if n = 1 then .corrected else if n = 2 ∨ r % 2 = 0 then .uncorrectable else .miscorrected

/-- The symbols in error of codeword `k` of a transfer. -/
def symbolsWrong (k : Nat) (l : List SymErr) : Nat := ((l.filter fun e => e.symbol / 19 == k && e.error != 0).map (·.symbol)).eraseDups.length

/-- A sector has been corrected, or has been taken for another codeword: counted and written back; its row may need repair (R510,
R513). -/
def State.eccCorrected (s : State) (h : Nat) : State :=
  let q := h / 32
  let s1 := s.bump Fld.hbmCe (haStack h) 1
  let s2 := if s.correctedNeeds q then s1.repairRow (haStack h) (haPc h) (lineBank (haLine h)) (lineRow (haLine h))
    else { s1 with hbm := { s1.hbm with corrected := (q, s.upNs) :: s1.hbm.corrected } }
  { s2 with hbm := { s2.hbm with writtenBack := setIns s2.hbm.writtenBack q } }

/-- ECC decoding of the sector at an HBM address comes to a result (R510, R511). -/
def State.eccFinds (s : State) (h : Nat) (found : EccResult) : State :=
  let stack := haStack h
  let pc := haPc h
  let bank := lineBank (haLine h)
  let row := lineRow (haLine h)
  let q := h / 32
  if s.poison.contains q then s
  else match found with
    | .clean => s
    | .corrected => s.eccCorrected h
    | .miscorrected => (let b := s.freshBytes 32; (b.2.rawWrite (32 * q) b.1).eccCorrected h)
    | .uncorrectable =>
      let s1 := (((s.bump Fld.hbmUe stack 1).noteFailed h).poisonRun (32 * q) 1).hbmLast stack 1 pc bank row h
      (((s1.hbmStep stack h sevContained 3).markRehome (· == q / 8) 2).repairRow stack pc bank row)

/-- The codeword `k` of a transfer that reads the sector at an HBM address (R509). -/
def State.eccSector (s : State) (h k : Nat) (errs : List SymErr) : State :=
  let n := symbolsWrong k errs
  if n ≤ 2 then s.eccFinds h (eccDecode n 0) else (let r := s.fresh; r.2.eccFinds h (eccDecode n r.1))

/-- Interface failures of one transfer (R507, R508): `fails` failed attempts, of which up to four are retried; sixteen in a
millisecond retrain the pseudo-channel. -/
def State.parityFails (s : State) (h fails : Nat) : State :=
  if fails = 0 then s
  else
    let key := haStack h * 64 + haPc h
    let recent := ((kvGet s.hbm.parity key).getD []).filter fun t => decide (s.upNs < t + 1000000)
    let l := recent ++ List.replicate fails s.upNs
    let s1 := s.bump Fld.hbmRetries (haStack h) (min fails 4)
    let l1 := if 16 ≤ l.length then [] else l
    let s2 : State := { s1 with hbm := { s1.hbm with parity := kvPut s1.hbm.parity key l1 } }
    if 16 ≤ l.length then s2.bump Fld.hbmRetrains (haStack h) 1 else s2

/-- One transfer of a sector that does not go through at once (R507): a write whose retries all fail leaves poison, a read whose command
fails for good returns poison; any other read goes to ECC decoding. -/
def State.hbmXfer (s : State) (x : HbmXfer) : State :=
  if !s.isUp || s.haOffline x.addr then s
  else
    let s1 := s.parityFails x.addr x.fail.fails
    let q := x.addr / 32
    if x.write then
      if 4 < x.fail.fails then { s1 with hbm := { s1.hbm with badWrites := setIns s1.hbm.badWrites q } } else s1
    else if x.fail.command && decide (4 < x.fail.fails) then { s1 with hbm := { s1.hbm with badReads := setIns s1.hbm.badReads q } }
    else s1.eccSector x.addr 0 x.errs

/-- The second codeword of a line that a command reads: its symbols come with those of the first, after the same failed attempts. -/
def State.eccSecond (s : State) (h : Nat) (fail : XferFail) (errs : List SymErr) : State :=
  if !s.isUp || s.haOffline h then s
  else if fail.command && decide (4 < fail.fails) then { s with hbm := { s.hbm with badReads := setIns s.hbm.badReads (h / 32 + 1) } }
  else s.eccSector (h + 32) 1 errs

/-- A command's transfers end: the sectors whose writes failed are poison, and what failed to be read reads as it stands again. -/
def State.xfersEnd (s : State) : State :=
  if s.hbm.badReads.isEmpty && s.hbm.badWrites.isEmpty then s
  else
    let s1 := s.hbm.badWrites.foldl (fun s q => (match s.mbFind (q / 2) with | some e => s.mbToDram e | none => s).poisonRun (32 * q) 1) s
    { s1 with hbm := { s1.hbm with badReads := [], badWrites := [] } }

/-- A command's transfers begin: none has failed yet. -/
def State.xfersBegin (s : State) : State := { s with hbm := { s.hbm with badReads := [], badWrites := [] } }

/-- The transfers of HBM of a command have taken place, if it has any that did not go through at once (R507 to R511). -/
def State.xfersStart (s : State) (l : List HbmXfer) : State := if l.isEmpty then s else l.foldl State.hbmXfer s.xfersBegin

/-- They are over. -/
def State.xfersStop (s : State) (l : List HbmXfer) : State := if l.isEmpty then s else s.xfersEnd

/-- Do something whose transfers of HBM are these (R507 to R511). -/
def State.withXfers (s : State) (l : List HbmXfer) (f : State → State) : State := (f (s.xfersStart l)).xfersStop l

/-- SCRUB: the scrubber reads a sector (R512). -/
def execScrub (stack pc line sector : Nat) (found : List SymErr) (fails : XferFail) (s : State) : Ans :=
  let h := stack * 2 ^ 36 + pc * 2 ^ 30 + 64 * line + 32 * sector
  .next (s.ifB (s.isUp && decide (stack < 12) && !s.pcOffline stack pc) fun s =>
    (s.withXfers [⟨h, false, fails, found⟩] fun s => s).setF Fld.hbmScrubPos stack line)

/-- STACK_OFFLINE: a stack has returned no response for 1 ms (R518). -/
def execStackOffline (stack : Nat) (s : State) : Ans :=
  .next (s.ifB (s.isUp && decide (stack < 12) && s.stackOnline stack) fun s => s.offlineStack stack false)

/-! ### Temperature (R505, R506) -/

/-- The threshold of a thermal step. -/
def stepAt : Nat → Nat
  | 0 => 0
  | 1 => 95
  | 2 => 97
  | 3 => 99
  | 4 => 100
  | _ => 105

/-- The step that a temperature calls for on its way up. -/
def stepUp (t : Nat) : Nat := if t < 95 then 0 else if t < 97 then 1 else if t < 99 then 2 else if t < 100 then 3 else if t < 105 then 4 else 5

/-- Falling: a step is left only 3 °C below its threshold. -/
def stepDown : Nat → Nat → Nat
  | 0, _ => 0
  | k + 1, t => if t + 3 ≤ stepAt (k + 1) then stepDown k t else k + 1

/-- HBM_TEMP: a stack reports its temperature. -/
def execHbmTemp (stack temp : Nat) (s : State) : Ans :=
  .next (s.ifB (s.isUp && decide (stack < 12) && s.stackOnline stack) fun s =>
    let old := s.getF Fld.hbmThrottle stack
    let k := max (stepUp temp) (stepDown old temp)
    let s1 := s.setFs stack [(Fld.hbmTemp, temp), (Fld.hbmThrottle, k), (Fld.hbmRefresh2x, natOfBool (decide (4 ≤ k)))]
    if k = old then s1 else s1.eventRas)

/-! ### Maker access (R520, R521) -/

/-- The word of an HBM_MAINT operation. -/
def maintWord (op pc bank row : Nat) : Nat := op * 2 ^ 32 + pc * 2 ^ 26 + bank * 2 ^ 21 + row * 2 ^ 6

/-- A 64-bit write of `value` to HBM_MAINT: discarded and recorded without repair access for the stack (R16, R520, R763); otherwise it is
recorded and takes effect. The record holds the value as written, reserved bits too (R775). -/
def State.maint (s : State) (stack op pc bank row value : Nat) (f : State → State) : State :=
  let off := RegName.hbmMaint.addr stack
  if s.repairOpen stack then
    f (((s.wr .hbmMaint stack (maintWord op pc bank row)).noteMaint op off value).wr .hbmMaintResult stack 0)
  else s.refuseRw2p op off value

/-- READ_MAP: the spares in use and the bad ones of a bank. -/
def State.readMap (s : State) (stack pc bank : Nat) : State :=
  let b := s.bank (bankKey stack pc bank)
  s.setFs stack [(Fld.hbmMtUsed, b.used.foldl (fun m u => m ||| 2 ^ u.1) 0), (Fld.hbmMtBad, b.bad.foldl (fun m k => m ||| 2 ^ k) 0)]

/-- TEST_PC: the self-test of an offline pseudo-channel; an online one is refused. -/
def State.testPc (s : State) (stack pc : Nat) (pass : Bool) : State :=
  if s.pcOffline stack pc then
    if pass then { s with hbm := { s.hbm with tested := setIns s.hbm.tested (stack * 64 + pc) } } else s.setF Fld.hbmMtStatus stack 2
  else s.setF Fld.hbmMtStatus stack 1

/-- RETURN_PC: an offline pseudo-channel that has passed its test comes back at the next start-up; another is refused. -/
def State.returnPc (s : State) (stack pc : Nat) : State :=
  if s.pcOffline stack pc && s.hbm.tested.contains (stack * 64 + pc) then
    { s with hbm := { s.hbm with returning := setIns s.hbm.returning (stack * 64 + pc) } }
  else s.setF Fld.hbmMtStatus stack 1

def execReadMap (rid stack pc bank row : Nat) (s : State) : Ans :=
  .next (s.regWrite rid fun s => s.maint stack 1 pc bank row (maintWord 1 pc bank row) fun s => s.readMap stack pc bank)

def execForceRepair (rid stack pc bank row : Nat) (s : State) : Ans :=
  .next (s.regWrite rid fun s => s.maint stack 2 pc bank row (maintWord 2 pc bank row) fun s => s.repairRow stack pc bank row)

def execTestPc (rid stack pc bank row : Nat) (pass : Bool) (s : State) : Ans :=
  .next (s.regWrite rid fun s => s.maint stack 3 pc bank row (maintWord 3 pc bank row) fun s => s.testPc stack pc pass)

def execReturnPc (rid stack pc bank row : Nat) (s : State) : Ans :=
  .next (s.regWrite rid fun s => s.maint stack 4 pc bank row (maintWord 4 pc bank row) fun s => s.returnPc stack pc)

end Sys2Proof.Machine
end

