-- ==== Sys2Proof/Machine/Marks.lean ====
section
/-! DEFINITION. Marks and barriers (R525 to R567): the operations on a mark, serving its waits, reaching a plate, and the
commands SIGNAL, TAKE, FABRIC_SIGNAL's effect, MRK_XLATE, DBG_MARK_SET, WAIT_LEND and DEADLOCK_REPORT. -/

namespace Sys2Proof.Machine

/-- A mark beyond its registers. -/
def State.mark (s : State) (n : Nat) : MarkRt := (kvGet s.marks n).getD ⟨0, 0, none, []⟩
def State.updMark (s : State) (n : Nat) (f : MarkRt → MarkRt) : State := { s with marks := kvPut s.marks n (f (s.mark n)) }

def State.markValid (s : State) (n : Nat) : Bool := s.flag Fld.mrkValid n
def State.markBarrier (s : State) (n : Nat) : Bool := s.flag Fld.mrkBarrier n
def State.markCount (s : State) (n : Nat) : Nat := s.getF Fld.mrkCount n
def State.markTarget (s : State) (n : Nat) : Nat := s.getF Fld.mrkTarget n

/-- The limit of a counting mark (R532). -/
def markLimit (t : Nat) : Nat := min (2 * t - 1) (2 ^ 32 - 1)

/-- The marks assigned to a slot. -/
def State.slotMarks (s : State) (c : Nat) : List Nat :=
  (s.marks.filter fun m => s.markValid m.1 && s.getF Fld.mrkSlot m.1 == c).map (·.1)

/-- The mark that (context, ME_ID) names in a slot (R526, R530). -/
def State.markOf (s : State) (c ctx id : Nat) : Option Nat :=
  (s.slotMarks c).find? fun n => s.getF Fld.mrkCtx n == ctx && s.getF Fld.mrkId n == id

/-- The active context of a slot. -/
def State.activeCtx (s : State) (c : Nat) : Nat := s.getF Fld.mrkActiveCtx c

/-- MRK_WAITERS of a mark. -/
def State.postWaiters (s : State) (n : Nat) : State := s.setF Fld.mrkWaiters n (satNat (s.mark n).waits.length 65535)

/-! ### Waits (R536 to R539) -/

/-- A plate's wait is over: its regions wake, lent ink leaves the loans, and the plate starts (R549 to R551, R718). -/
def State.wakePlate (s : State) (c : Nat) : State :=
  ((s.returnLoan c).updChase c fun x => { x with plate := { x.plate with waiting := false, waitDone := true } }).startPlate c

/-- Whether the first pass serves a wait: it consumes nothing (R536). -/
def waitServed (barrier : Bool) (count target flips : Nat) : MarkWait → Bool
  | .plate _ f => barrier && decide (f < flips)
  | .ticket _ _ f => if barrier then decide (f < flips) else decide (target ≤ count)

/-- Serve one wait of the first pass. -/
def State.serveWait (s : State) (n : Nat) : MarkWait → State
  | .plate c _ => s.wakePlate c
  | .ticket ring seq _ => s.finishTicket ring seq stOk (dValue (s.markCount n) 0)

/-- The second pass: consuming plate waits in the order in which they began, each taking the target (R537, R538). -/
def State.consume (s : State) (n : Nat) : List MarkWait → State
  | [] => s
  | .plate c f :: t =>
    if s.markTarget n ≤ s.markCount n then
      (((s.setF Fld.mrkCount n (s.markCount n - s.markTarget n)).updMark n fun m =>
        { m with waits := m.waits.erase (.plate c f) }).wakePlate c).consume n t
    else s
  | .ticket .. :: t => s.consume n t

/-- Re-evaluate every wait on a mark in two passes (R536). -/
def State.serveMark (s : State) (n : Nat) : State :=
  let b := s.markBarrier n
  let p := waitServed b (s.markCount n) (s.markTarget n) (s.mark n).flips
  let now := (s.mark n).waits.filter p
  let s1 := s.updMark n fun m => { m with waits := m.waits.filter fun w => !p w }
  let s2 := now.foldl (fun s w => s.serveWait n w) s1
  (if b then s2 else s2.consume n (s2.mark n).waits).postWaiters n

/-! ### Operations (R531 to R535) -/

/-- Record a mark fault in MRK_FAULT; a chase that is JOINING, RUNNING or STOPPING faults at once (R530, R535). -/
def State.markFault (s : State) (c code mark count : Nat) : State :=
  (s.setFs c [(Fld.mrkFCode, code), (Fld.mrkFMark, mark), (Fld.mrkFCount, count)]).faultChase c code

/-- SIGNAL with amount `a` (R531, R532, R534). -/
def State.signalMark (s : State) (n a : Nat) : State :=
  let t := s.markTarget n
  let v := s.markCount n
  let c := s.getF Fld.mrkSlot n
  let beyond (s : State) : State := (s.setF Fld.mrkSatHi n 1).markFault c fMarkOverflow n v
  if s.markBarrier n then
    if v + a < t then (s.setF Fld.mrkCount n (v + a)).serveMark n
    else
      let s1 := (s.setF Fld.mrkSense n (1 - s.getF Fld.mrkSense n)).updMark n fun m => { m with flips := m.flips + 1 }
      if v + a - t < t then (s1.setF Fld.mrkCount n (v + a - t)).serveMark n
      else (beyond (s1.setF Fld.mrkCount n (t - 1))).serveMark n
  else if v + a ≤ markLimit t then (s.setF Fld.mrkCount n (v + a)).serveMark n
  else (beyond (s.setF Fld.mrkCount n (markLimit t))).serveMark n

/-- A plate's arrival on a mark: on a barrier mark it fixes the flip for which the member's plates wait (R539). -/
def State.plateSignal (s : State) (n : Nat) : State :=
  (s.updMark n fun m => { m with arrivedAt := some m.flips }).signalMark n 1

/-- TAKE with amount `a` on a counting mark (R531, R533). -/
def State.takeMark (s : State) (n a : Nat) : State :=
  let v := s.markCount n
  if a ≤ v then (s.setF Fld.mrkCount n (v - a)).serveMark n
  else
    (((s.setF Fld.mrkCount n 0).setF Fld.mrkSatLo n 1).markFault (s.getF Fld.mrkSlot n) fMarkUnderflow n v).serveMark n

/-- CLEAR: the start condition of R525; waits of tickets end with CLEARED (R559). -/
def State.clearMark (s : State) (n : Nat) : State :=
  let s1 := s.setFs n [(Fld.mrkCount, (s.mark n).initial), (Fld.mrkSense, 0), (Fld.mrkSatHi, 0), (Fld.mrkSatLo, 0)]
  let s2 := (s.mark n).waits.foldl (fun s w => match w with
    | .ticket ring seq _ => s.finishTicket ring seq stCleared (dValue (s.mark n).initial 0)
    | .plate .. => s) s1
  (s2.updMark n fun m => { m with flips := 0, arrivedAt := none, waits := [] }).postWaiters n

/-- CLEAR of every mark of a slot; context 0 becomes active (R560). -/
def State.clearMarks (s : State) (c : Nat) : State :=
  ((s.slotMarks c).foldl State.clearMark s).setFs c [(Fld.mrkActiveCtx, 0), (Fld.mrkSwPending, 0), (Fld.mrkSwTo, 0)]

/-- Assign the numbers of a plan to a slot (R526 to R528). -/
def State.assignMarks (s : State) (c : Nat) (plan : List (MarkEnt × Option Nat)) : State :=
  plan.foldl (fun s e => match e with
    | (m, some n) =>
      (s.setFs n [(Fld.mrkTarget, m.target), (Fld.mrkValid, 1), (Fld.mrkBarrier, natOfBool m.barrier),
        (Fld.mrkFabric, natOfBool m.fabric), (Fld.mrkCtx, m.ctx), (Fld.mrkSlot, c), (Fld.mrkId, m.id)]).updMark n
        fun _ => ⟨m.initial, 0, none, []⟩
    | (_, none) => s) s

/-- Clear the marks of a slot and release their numbers (R105, R560). -/
def State.releaseMarks (s : State) (c : Nat) : State :=
  let ns := s.slotMarks c
  let s1 := ns.foldl (fun s n => (s.wr .mrkCount n 0).wr .mrkState n 0) (s.clearMarks c)
  { s1 with marks := s1.marks.filter fun m => !ns.contains m.1 }

/-- A realignment point: every mark of the slot that does not stand at its realign value is cleared to it, its sense kept (R531, R554). -/
def State.realign (s : State) (c : Nat) : State :=
  (s.slotMarks c).foldl (fun s n =>
    let v := if s.markBarrier n then 0 else (s.mark n).initial
    if s.markCount n = v then s
    else ((s.bump Fld.mrkRaMarks c 1).setFs n [(Fld.mrkCount, v), (Fld.mrkSatHi, 0), (Fld.mrkSatLo, 0)]).serveMark n)
    (s.bump Fld.mrkRaPoints c 1)

/-- A context switch: the outgoing context's marks are cleared, the new one becomes active (R558). -/
def State.switchCtx (s : State) (c ctx : Nat) : State :=
  let old := s.activeCtx c
  ((((s.slotMarks c).filter fun n => s.getF Fld.mrkCtx n == old).foldl State.clearMark s).bump Fld.mrkSwitches c 1).setFs c
    [(Fld.mrkActiveCtx, ctx), (Fld.mrkSwPending, 0), (Fld.mrkSwTo, 0)]

/-! ### Plates and their waits -/

/-- Begin the plate wait on a mark (R537, R539). -/
def State.beginWait (s : State) (c n : Nat) : State :=
  let m := s.mark n
  let flips := m.arrivedAt.getD m.flips
  ((s.updChase c fun x => { x with plate := { x.plate with waiting := true } }).updMark n fun m =>
    { m with waits := m.waits ++ [.plate c flips] }).serveMark n

/-- The region sequencers reach a plate (R119, R138, R139, R530, R712): the work in the stroke ends before a plate above the grant's
level, as if a HOLD stood there; else distribution begins at its first plate, a run plate in distribution faults, a mark is waited
for, and the plate starts. -/
def State.reachPlate (s : State) (c index : Nat) : State :=
  let p := plateAt (s.forme c) index
  let s1 := (s.setF Fld.stkPlate c index).updChase c fun x => { x with plate := { PlateRt.none with index := index } }
  if s1.aboveLevel c p then (s1.bump Fld.inkLevelWaits 0 1).endWork c
  else
    let dist := (s1.chase c).inDist || p.isDist
    let s2 := if dist then (s1.updChase c fun x => { x with inDist := true }).setF Fld.stkPhase c 3 else s1
    if dist && p.runOnly then s2.faultChase c fSeqOrder
    else if p.wait = none16 then s2.startPlate c
    else match s2.markOf c (s2.activeCtx c) p.wait with
      | some n => s2.beginWait c n
      | none => s2.markFault c fMarkAbsent p.wait 0

/-! ### The host's operations on marks (R548, R559, R567) -/

/-- One operation through MRK_SIGNAL, a MARK_OP or a core: refused where R567 says, discarded where the mark's context is
not active (R559). Operation 0 is SIGNAL, 1 is TAKE. -/
def State.markOp (s : State) (op n a : Nat) : State :=
  if !s.markValid n || a == 0 || decide (2 ≤ op) || (op == 1 && s.markBarrier n) then s.bump Fld.mrkSigRefused 0 1
  else if s.getF Fld.mrkCtx n != s.activeCtx (s.getF Fld.mrkSlot n) then s.bump Fld.mrkStale (s.getF Fld.mrkSlot n) 1
  else if op = 0 then s.signalMark n a else s.takeMark n a

/-- MRK_XLATE: translate a slot, context and ME_ID (R530). -/
def State.xlate (s : State) (value : Nat) : State :=
  let c := bitsOf value 55 52
  let ctx := bitsOf value 45 40
  let id := bitsOf value 29 16
  let s1 := s.setFs 0 [(Fld.mrkXSlot, c), (Fld.mrkXCtx, ctx), (Fld.mrkXId, id)]
  match s.markOf c ctx id with
  | some n => s1.setFs 0 [(Fld.mrkXValid, 1), (Fld.mrkXMark, n)]
  | none => s1.setFs 0 [(Fld.mrkXValid, 0), (Fld.mrkXMark, 0)]

/-- DBG_MARK_SET: one SET by hand, or a refusal (R564, R565). -/
def State.handSet (s : State) (value : Nat) : State :=
  let n := bitsOf value 45 32
  let v := bitsOf value 31 0
  let c := s.getF Fld.mrkSlot n
  let fits := if s.markBarrier n then decide (v < s.markTarget n) else decide (v ≤ markLimit (s.markTarget n))
  if s.markValid n && s.debugReach c && fits then
    let s1 := s.setF Fld.mrkCount n v
    let s2 := if bitOf value 63 then s1.setF Fld.mrkSense n (bitsOf value 62 62) else s1
    let s3 := (s2.bump Fld.mrkHandSets c 1).updChase c fun x => { x with work := { x.work with handSet := x.work.handSet + 1 } }
    (s3.setF Fld.dbgMsStatus 0 0).serveMark n
  else s.setF Fld.dbgMsStatus 0 1

/-! ### Meanings -/

/-- SIGNAL: a host write of MRK_SIGNAL with operation 0. -/
def execSignal (rid mark amount : Nat) (s : State) : Ans := .next (s.regWrite rid fun s => s.markOp 0 mark amount)

/-- TAKE: a host write of MRK_SIGNAL with operation 1. -/
def execTake (rid mark amount : Nat) (s : State) : Ans := .next (s.regWrite rid fun s => s.markOp 1 mark amount)

/-- MRK_XLATE: a 64-bit host write. -/
def execMrkXlate (rid value : Nat) (s : State) : Ans := .next (s.regWrite rid fun s => s.xlate value)

/-- DBG_MARK_SET: a 64-bit host write. -/
def execDbgMarkSet (rid value : Nat) (s : State) : Ans := .next (s.regWrite rid fun s => s.handSet value)

/-- WAIT_LEND: a native plate wait has lasted 2 µs (R550, R552, R717). -/
def execWaitLend (slot : Nat) (s : State) : Ans := .next (s.ifB s.live fun s => s.lend slot)

/-- DEADLOCK_REPORT: every held region of the chase has been blocked for the timeout (R561 to R563). The status fields
describe the first report since MRK_DL_HIT was cleared. -/
def State.deadlock (s : State) (c : Nat) : State :=
  let p := s.plate c
  let m := if (s.chase c).plate.waiting then s.markOf c (s.activeCtx c) p.wait else none
  let s1 := s.bump Fld.mrkDlReports 0 1
  let s2 := if s.flag Fld.mrkDlHit 0 then s1
    else s1.setFs 0 [(Fld.mrkDlHit, 1), (Fld.mrkDlSlot, c), (Fld.mrkDlRegions, s.getF Fld.sysChaseRegions c),
      (Fld.mrkDlWaiting, natOfBool m.isSome), (Fld.mrkDlMark, m.getD 0),
      (Fld.mrkDlTarget, match m with | some n => s.markTarget n | none => 0),
      (Fld.mrkDlCount, match m with | some n => s.markCount n | none => 0)]
  s2.eventDeadlock.eventRas

/-- A held region is blocked (R561): its sequencer waits on a mark, or the plate in hand is in progress and no unit of the region holds
a token on each input and a credit. A chase in lock-up, parked, or at the end of its work runs no plate. -/
def State.regionBlocked (s : State) (c k : Nat) : Bool :=
  let x := s.chase c
  decide (2 ≤ s.getF Fld.stkPhase c) && !s.flag Fld.stkParked c && !x.finished &&
    (x.plate.waiting || (x.plate.started && !(x.plate.flow.cells ++ x.plate.flow.hops).any fun p => p.region == k && p.ready))

/-- DEADLOCK_REPORT: the timeout of the enabled detector has run out while every held region is blocked (R562). -/
def execDeadlockReport (slot : Nat) (s : State) : Ans :=
  .next (s.ifB (s.live && s.csStriking slot && s.getF Fld.mrkDlTimeoutUs 0 != 0 && (s.heldRegions slot).all (s.regionBlocked slot))
    fun s => s.deadlock slot)

end Sys2Proof.Machine
end

