-- ==== Sys2Proof/Machine/Recv.lean ====
section
/-! DEFINITION. Receiving messages of the fabric (R587 to R592): the watermark and window of completed messages, putting
messages together, acknowledging them. -/

namespace Sys2Proof.Machine

/-- The watermark of a source and the completed messages above it (R591). -/
def State.rxOf (s : State) (src : Nat) : Nat × List Nat :=
  match s.fab.rx.find? fun e => e.1 == src with
  | some e => e.2
  | none => (0, [])

/-- A message of a source is complete already. -/
def State.msgDone (s : State) (src msg : Nat) : Bool :=
  decide (msg < (s.rxOf src).1) || (s.rxOf src).2.contains msg

/-- Raise the watermark over the completed messages that follow it. -/
def raiseMark : Nat → Nat → List Nat → Nat × List Nat
  | 0, w, l => (w, l)
  | n + 1, w, l => if l.contains w then raiseMark n (w + 1) (l.filter (· != w)) else (w, l)

/-- Record a message as complete. The window is the 64 message IDs from the watermark on (R591): one beyond it moves the window up just so
far that it is the last of it (DESIGN CHOICE, log 154: the spec does not say what becomes of the window then). -/
def State.markDone (s : State) (src msg : Nat) : State :=
  if s.msgDone src msg then s
  else
  let (w, l) := s.rxOf src
  let w0 := if w + 64 ≤ msg then msg - 63 else w
  let (w1, l1) := raiseMark 65 w0 ((msg :: l).filter fun m => decide (w0 ≤ m))
  s.updFab fun x => { x with rx := (src, w1, l1) :: x.rx.filter fun e => e.1 != src }

/-- The chase states in which a message for the chase is taken (R592). -/
def State.takesMsgs (s : State) (c : Nat) : Bool := s.cs c == csLoaded || s.csActive c

/-- Acknowledgement statuses (R592). -/
def ackOk : Nat := 0
def ackDuplicate : Nat := 1
def ackRefused : Nat := 2
def ackFull : Nat := 3
def ackMalformed : Nat := 4

/-- A message is finished at its destination: it is recorded, its flits go, and its acknowledgement is sent. -/
def State.finishMsg (s : State) (f : Flit) (status : Nat) : State :=
  let s1 := (s.markDone f.src f.msg).updFab fun x => { x with
    parts := x.parts.filter fun p => !(p.1 == f.src && p.2.1 == f.msg)
    inbox := x.inbox.filter fun g => !(g.src == f.src && g.msg == f.msg) }
  s1.sendAck f.src f.chase f.msg status

/-- Add a flit to what has come of its message; a flit with an index already there changes nothing. -/
def addPart (l : List Flit) (f : Flit) : List Flit := if l.any fun g => g.index == f.index then l else l ++ [f]

/-- The flits that have come of a message. -/
def State.partsOf (s : State) (src msg : Nat) : List Flit :=
  match s.fab.parts.find? fun p => p.1 == src && p.2.1 == msg with
  | some p => p.2.2
  | none => []

/-- Keep a flit of a message that is not complete; it leaves the inbox. -/
def State.keepPart (s : State) (f : Flit) : State :=
  let l := addPart (s.partsOf f.src f.msg) f
  s.updFab fun x => { x with
    parts := (f.src, f.msg, l) :: x.parts.filter fun p => !(p.1 == f.src && p.2.1 == f.msg)
    inbox := x.inbox.erase f }

/-- Every flit of a message is there. -/
def allParts (l : List Flit) : Bool :=
  match l.find? fun f => f.last with
  | some f => (List.range (f.index + 1)).all fun i => l.any fun g => g.index == i
  | none => false

/-- The payload of a complete message, flits in order. -/
def joinParts (l : List Flit) : Bytes :=
  (List.range l.length).flatMap fun i => match l.find? fun f => f.index == i with
    | some f => f.payload.take f.plen
    | none => []

/-! ### Delivery (R588, R591, R592) -/

/-- Keep a flit of a message, and finish the message with a status once all of it is there. -/
def State.closeMsg (s : State) (f : Flit) (status : Nat) : State :=
  let s1 := s.keepPart f
  if allParts (s1.partsOf f.src f.msg) then s1.finishMsg f status else s1

/-- A flit for this device (R588, R591, R592): an unknown type is counted and discarded, and so is a flit of a message already complete;
a complete duplicate is acknowledged as one, but for an ACK, which is never acknowledged. A control message for a chase that takes none is
refused, one of an unknown subtype is malformed; any other flit waits for its command. -/
def State.deliverFlit (s : State) (f : Flit) : State :=
  if !(([0x10, 0x11, 0x20, 0x30, 0x31] : List Nat).contains f.typ) then s.bump Fld.hlkRtUnroutable 0 1
  else if s.msgDone f.src f.msg then
    let s1 := s.bump Fld.hlkE2eDups 0 1
    if f.typ = 0x20 then s1 else s1.closeMsg { f with payload := [] } ackDuplicate
  else if f.typ = 0x31 && !((s.slotOfTag f.chase).map s.takesMsgs).getD false then s.closeMsg f ackRefused
  else if f.typ = 0x31 && (f.arg % 256 == 0 || decide (9 < f.arg % 256)) then s.closeMsg f ackMalformed
  else s.updFab fun x => { x with inbox := x.inbox ++ [f] }

/-- A CHASE_CTL message from a member is processed: its flits leave the inbox and it is acknowledged (R588, R592). -/
def State.ackCtl (s : State) (c sub ordinal : Nat) : State :=
  match s.fab.inbox.find? fun f => f.typ == 0x31 && f.chase == ptTag (s.forme c) && f.arg % 256 == sub &&
      f.src == ptNode (s.forme c) ordinal with
  | some f => s.finishMsg f (if s.takesMsgs c then ackOk else ackRefused)
  | none => s

end Sys2Proof.Machine
end

