-- ==== Sys2Proof/Machine/Sequencer.lean ====
section
/-! DEFINITION. The sequencer between plates (R136 to R156): when a plate's command may act, completing a plate in a region,
summary slots and their combination, HOLD, BRANCH, PLATE_COMPLETE, SUMMARY and SUMMARY_RESULT. -/

namespace Sys2Proof.Machine

/-- The plate in hand of slot `c` has started with opcode `op` and its work is to be done. -/
def State.plateRuns (s : State) (c op : Nat) : Bool :=
  let x := s.chase c
  s.isReady && s.csStriking c && decide (2 ≤ s.getF Fld.stkPhase c) && x.plate.started && !x.plate.worked && !x.finished &&
    !x.substituting && (s.plate c).op == op

/-- The work of the plate in hand is done: its units have consumed their shares (R141 to R144), and its contribution to the
summary stands beside it (R147). -/
def State.plateWorked (s : State) (c : Nat) (contrib : SummarySlot) : State :=
  s.updChase c fun x => { x with plate := { x.plate with worked := true, contrib := contrib, flow := s.ranPorts c } }

/-! ### Summary slots (R146 to R150) -/

/-- The lower of two indices by their low 40 bits, then whole (R148, R297). -/
def lowerIdx (i j : Nat) : Nat :=
  if j % 2 ^ 40 < i % 2 ^ 40 ∨ (j % 2 ^ 40 = i % 2 ^ 40 ∧ j < i) then j else i

/-- Two contributions combine (R148): an empty one has no maximum (R150). -/
def SummarySlot.add (a b : SummarySlot) : SummarySlot :=
  let m := if a.count = 0 then (b.max, b.maxIdx)
    else if b.count = 0 then (a.max, a.maxIdx)
    else if a.max < b.max then (b.max, b.maxIdx)
    else if b.max < a.max then (a.max, a.maxIdx)
    else (a.max, lowerIdx a.maxIdx b.maxIdx)
  ⟨a.sum + b.sum, a.count + b.count, m.1, m.2, a.ovf || b.ovf, a.poison || b.poison, false⟩

/-- Add one element to a contribution. -/
def SummarySlot.elem (a : SummarySlot) (v : Int) (index : Nat) : SummarySlot := a.add ⟨v, 1, v, index, false, false, false⟩

/-- The bounds of s64. -/
def s64Min : Int := -(2 ^ 63 : Nat)
def s64Max : Int := (2 ^ 63 : Nat) - 1

/-- SS_SUM: the exact sum saturated once (R149). -/
def SummarySlot.ssSum (a : SummarySlot) : Int := clampInt a.sum s64Min s64Max

/-- SS_FLAGS (R146, R148, R149). -/
def SummarySlot.flags (a : SummarySlot) : Nat :=
  natOfBool (a.sum == 0) + 2 * natOfBool (decide (a.sum < 0)) + 4 * natOfBool (a.ovf || a.ssSum != a.sum) +
    8 * natOfBool (a.count == 0) + 16 * natOfBool a.poison + 32 * natOfBool a.chase

/-- SS_MAX and SS_MAX_INDEX, the low 40 bits of the index: zero when the slot is empty (R150, R297). -/
def SummarySlot.ssMax (a : SummarySlot) : Int := if a.count = 0 then 0 else a.max
def SummarySlot.ssMaxIdx (a : SummarySlot) : Nat := if a.count = 0 then 0 else a.maxIdx % 2 ^ 40

/-- A summary as it travels between members: exact sum as s192, count, maximum, index, flags (R151). -/
def SummarySlot.bytes (a : SummarySlot) : Bytes :=
  natLe 24 (patOf 192 a.sum) ++ natLe 8 a.count ++ natLe 8 (patOf 64 a.max) ++ natLe 8 a.maxIdx ++ natLe 8 a.flags

/-- A summary slot of a chase. -/
def State.slotAt (s : State) (c k : Nat) : SummarySlot := (s.chase c).slots.getD k SummarySlot.empty

/-- Write a summary slot. -/
def State.setSlot (s : State) (c k : Nat) (v : SummarySlot) : State :=
  s.updChase c fun x => { x with slots := x.slots.set k v }

/-! ### Completing a plate (R136, R144, R147, R540) -/

/-- Everything that the plate in hand waits for from outside has come (R547, R599): its messages are acknowledged, the
combined result is in, and with PD_FENCE no write waits for the host. -/
def State.plateSettled (s : State) (c : Nat) : Bool :=
  let p := s.plate c
  let acked := !(s.fab.sent ++ s.fab.queued).any fun m => m.slot == c && m.exch
  (!p.fence || (acked && s.host.heldWrites.isEmpty)) &&
    (p.op != opExchange || (acked && (!p.sumEn || (s.chase c).sumDone))) && (!p.chaseScope || acked)

/-- Send the fabric signal of a plate to a member (R540). -/
def State.sendSignal (s : State) (c ordinal id : Nat) : State :=
  s.sendMsg ⟨ptNode (s.forme c) ordinal, 0, 0x30, ptTag (s.forme c), id + s.activeCtx c * 2 ^ 16, [], 0, c, false⟩

/-- PD_SIGNAL_MARK when the plate completes in one region (R530, R539, R540, R799); `last` says that every region is done. -/
def State.signalDone (s : State) (c : Nat) (last : Bool) : State :=
  let p := s.plate c
  if p.sig = none16 then s
  else match s.markOf c (s.activeCtx c) p.sig with
    | none => s.markFault c fMarkAbsent p.sig 0
    | some n =>
      let s1 := s.updChase c fun x => { x with replaySafe := false }
      if s.flag Fld.mrkFabric n then
        if last then (s1.chase c).plate.sentTo.foldl (fun s i => s.sendSignal c i p.sig) s1 else s1
      else s1.plateSignal n

/-- The plate barrier completes (R136): the summary slot stands, and the sequencers go on. -/
def State.plateBarrier (s : State) (c next : Nat) : State :=
  let p := s.plate c
  let s1 := if p.sumEn && p.op != opBranch && p.op != opExchange then s.setSlot c p.slot (s.chase c).plate.contrib else s
  s1.reachPlate c next

/-- The plate completes in held region `k`; in the last of them the barrier completes and `next` follows. -/
def State.completeIn (s : State) (c k next : Nat) : State :=
  let s1 := s.updChase c fun x => { x with plate := { x.plate with regionsDone := setIns x.plate.regionsDone k } }
  let last := (s1.heldRegions c).all fun r => (s1.chase c).plate.regionsDone.contains r
  let s2 := s1.signalDone c last
  if last && s2.csStriking c then s2.plateBarrier c next else s2

/-- A plate without work of its own signals from every held region (HOLD and BRANCH take no time of their own). -/
def State.signalAll (s : State) (c : Nat) : State :=
  let held := s.heldRegions c
  held.foldl (fun s k => if s.csStriking c then s.signalDone c (held.getLast? == some k) else s) s

/-! ### HOLD (R140, R553, R557) -/

/-- HD_PARK, HD_REALIGN, HD_SWITCH and HD_CONTEXT of PD_ARGS. -/
def hdPark (p : Plate) : Bool := bitOf p.args 0
def hdRealign (p : Plate) : Bool := bitOf p.args 1
def hdSwitch (p : Plate) : Bool := bitOf p.args 2
def hdContext (p : Plate) : Nat := bitsOf p.args 8 3

/-- A HOLD plate ends the member's work in the stroke; PD_NEXT runs in the next one. STK_PHASE keeps its code, 2 or 3, until the
next lock-up (DEDUCED: R119 gives no code for a stroke whose work has ended). -/
def State.holdPlate (s : State) (c : Nat) : State :=
  let p := s.plate c
  let s1 := s.signalAll c
  if !s1.csStriking c then s1
  else
    let s2 := if hdPark p then s1.setF Fld.stkParked c 1 else s1
    let s3 := if hdSwitch p then s2.setFs c [(Fld.mrkSwPending, 1), (Fld.mrkSwTo, hdContext p)] else s2
    let s4 := s3.updChase c fun x => { x with
      realign := x.realign || hdRealign p, plate := { PlateRt.none with index := p.next } }
    (s4.setF Fld.stkPlate c p.next).endWork c

/-- HOLD: the HOLD plate in hand takes effect; with PD_FENCE not before what it waits for has come (R547). -/
def execHold (slot : Nat) (s : State) : Ans := .next (s.ifB (s.plateRuns slot opHold && s.plateSettled slot) fun s => s.holdPlate slot)

/-! ### BRANCH (R152 to R156) -/

/-- A test of two numbers: 0 EQ, 1 NE, 2 LT, 3 LE, 4 GT, 5 GE, 6 ALWAYS (R154). -/
def testInt (t : Nat) (a b : Int) : Bool :=
  if t = 0 then a == b else if t = 1 then a != b else if t = 2 then decide (a < b) else if t = 3 then decide (a ≤ b)
  else if t = 4 then decide (b < a) else if t = 5 then decide (b ≤ a) else true

/-- Whether a BRANCH condition holds for a slot and an immediate (R154, R155). -/
def branchHolds (cond imm : Nat) (v : SummarySlot) : Bool :=
  let t := bitsOf cond 4 2
  let o := bitsOf cond 7 5
  if o = 0 then testInt t v.ssSum (sextNat 64 imm)
  else if o = 1 then testInt t ((v.count : Nat) : Int) ((imm : Nat) : Int)
  else if o = 2 then testInt t v.ssMax (sextNat 64 imm)
  else if o = 3 then testInt t ((v.ssMaxIdx : Nat) : Int) ((imm : Nat) : Int)
  else if t = 6 then true else if t = 0 then v.flags &&& imm == 0 else v.flags &&& imm != 0

/-- A BRANCH plate chooses the next plate from its slot; in a chase of several members the slot must be combined across
them (R153). -/
def State.branchPlate (s : State) (c : Nat) : State :=
  let p := s.plate c
  let v := s.slotAt c p.slot
  if 1 < s.members c && !v.chase then s.faultChase c fBranchScope
  else
    let s1 := s.signalAll c
    if s1.csStriking c then s1.plateBarrier c (if branchHolds p.cond p.count v then p.next else p.alt) else s1

/-- BRANCH: the BRANCH plate in hand takes effect; with PD_FENCE not before what it waits for has come (R547). -/
def execBranch (slot : Nat) (s : State) : Ans :=
  .next (s.ifB (s.plateRuns slot opBranch && s.plateSettled slot) fun s => s.branchPlate slot)

/-! ### PLATE_COMPLETE -/

/-- PLATE_COMPLETE: the plate in hand, whose work is done, completes in one held region (R136, R144). -/
def execPlateComplete (slot region : Nat) (s : State) : Ans :=
  let x := s.chase slot
  .next (s.ifB (s.isReady && s.csStriking slot && x.plate.worked && !x.plate.regionsDone.contains region &&
      (s.heldRegions slot).contains region && x.plate.flow.restsIn region && !x.substituting && !x.finished && s.plateSettled slot) fun s =>
    s.completeIn slot region (s.plate slot).next)

/-! ### Summaries across members (R151, R599) -/

/-- A member takes the combined summary of the EXCHANGE in hand. -/
def State.takeSummary (s : State) (c k : Nat) (v : SummarySlot) : State :=
  (s.setSlot c k { v with chase := true }).updChase c fun x => { x with sumDone := true }

/-- The root takes one contribution; with all of them it combines and answers every member. -/
def State.rootSummary (s : State) (c ordinal k : Nat) (v : SummarySlot) : State :=
  let s1 := s.updChase c fun x => { x with sumParts := kvPut x.sumParts ordinal v }
  let parts := (s1.chase c).sumParts
  if (List.range (s.members c)).all fun i => (kvGet parts i).isSome then
    let total := parts.foldl (fun a e => a.add e.2) SummarySlot.empty
    ((s1.updChase c fun x => { x with sumParts := [] }).sendAll c ctlSummaryResult (words [k] ++ total.bytes)).takeSummary c k total
  else s1

/-- A member hands in its contribution to an EXCHANGE summary. -/
def State.giveSummary (s : State) (c k : Nat) (v : SummarySlot) : State :=
  if s.ordinal c = 0 then s.rootSummary c 0 k v else s.sendCtl c 0 ctlSummary (words [s.ordinal c, k] ++ v.bytes)

/-- SUMMARY: the root receives a member's contribution to summary slot `k` (R599). -/
def execSummary (slot ordinal k : Nat) (v : SummarySlot) (s : State) : Ans :=
  .next (s.ifB (s.isUp && s.csStriking slot && s.ordinal slot == 0 && decide (0 < ordinal) && decide (ordinal < s.members slot))
    fun s => (s.ackCtl slot ctlSummary ordinal).rootSummary slot ordinal k v)

/-- SUMMARY_RESULT: a member receives the combined summary (R151). -/
def execSummaryResult (slot k : Nat) (v : SummarySlot) (s : State) : Ans :=
  .next (s.ifB (s.isUp && s.csStriking slot && s.ordinal slot != 0) fun s =>
    (s.ackCtl slot ctlSummaryResult 0).takeSummary slot k v)

end Sys2Proof.Machine
end

