-- ==== Sys2Proof/Machine/Ras.lean ====
section
/-! DEFINITION. Reliability (R789 to R811): the log of corrected events, stroke-level retry, spares, the compute ladder and its
substitutions, and the commands SEQ_WATCHDOG, CORE_RESTART, SPARE_TEST and IDLE_REGION_SUBSTITUTION. -/

namespace Sys2Proof.Machine

/-! ### Logging -/

/-- Log a CORRECTED event: at most one record a second for a code at a place; the record says how many events it stands for
(R816). -/
def State.logCorrected (s : State) (code level whereW action : Nat) (slot : Option Nat) : State :=
  let key := (code, whereW)
  let old := s.ras.recent.find? fun e => e.1 == key
  let rest := s.ras.recent.filter fun e => e.1 != key
  let put (v : Nat × Nat) : State := { s with ras := { s.ras with recent := (key, v) :: rest } }
  let write (n : Nat) : State := (put (s.upNs, 0)).logErr ⟨code, sevCorrected, level, whereW,
    (match slot with | some c => s.getF Fld.stkNumber c % 2 ^ 32 | none => 0), 0, slot.getD 0xFF, action, n⟩
  match old with
  | some (_, at0, n) => if s.upNs < at0 + 1000000000 then put (at0, n + 1) else write (n + 1)
  | none => write 1

/-- Log a record of another severity about a compute unit and a slot. -/
def State.logUnit (s : State) (code sev level whereW action : Nat) (slot : Option Nat) (detail : Nat) : State :=
  match slot with
  | some c => s.logErr ⟨code, sev, level, whereW + 2 ^ 31, s.getF Fld.stkNumber c % 2 ^ 32, (s.chase c).plate.index % 65536, c, action, detail⟩
  | none => s.logErr ⟨code, sev, level, whereW, 0, 0, 0xFF, action, detail⟩

/-- ER_WHERE of a unit. -/
def PhysUnit.whereW (u : PhysUnit) : Nat :=
  if u.level = 0 then whereAt u.region u.block u.cell u.col
  else if u.level = 1 then whereAt u.region u.block u.cell 63
  else if u.level = 2 then whereAt u.region u.block 31 63
  else whereAt u.region 31 31 63

/-- ER_LEVEL of a unit: columns and cells 0, blocks 1, regions 2. -/
def PhysUnit.erLevel (u : PhysUnit) : Nat := u.level - 1

/-! ### Logical and physical places -/

/-- The physical block of a logical block of physical region `p`, and the physical cell of a logical cell. -/
def State.physBlock (s : State) (p b : Nat) : Nat :=
  match (List.range 2).find? fun k => kvGet s.ras.blockMap (p * 2 + k) == some b with
  | some k => 16 + k
  | none => b
def State.physCell (s : State) (p pb c : Nat) : Nat := if kvGet s.ras.cellMap (p * 18 + pb) = some c then 16 else c

/-- Key of a physical cell. -/
def cellKeyP (p pb pc : Nat) : Nat := (p * 18 + pb) * 17 + pc

/-- A logical unit as a physical one. -/
def State.unitOf (s : State) (level k b c col : Nat) : PhysUnit :=
  let p := s.physOf k
  let pb := if level ≤ 2 then s.physBlock p b else 0
  let pc := if level ≤ 1 then s.physCell p pb c else 0
  ⟨level, p, pb, pc, if level = 0 then col else 0⟩

/-- Spares that are bad. -/
def State.isBad (s : State) (u : PhysUnit) : Bool := s.ras.bad.contains u
/-- Units that have failed. -/
def State.isFailed (s : State) (u : PhysUnit) : Bool := s.ras.failed.contains u

/-- A spare of each level that can be taken (R805). -/
def State.spareCol (s : State) (p b c : Nat) : Bool :=
  (kvGet s.ras.colMap (cellKeyP p b c)).isNone && !s.isBad ⟨0, p, b, c, 32⟩
def State.spareCell (s : State) (p b : Nat) : Bool :=
  (kvGet s.ras.cellMap (p * 18 + b)).isNone && !s.isBad ⟨1, p, b, 16, 0⟩ &&
    !s.ras.prepared.any fun q => q.level == 1 && q.region == p && q.block == b
def State.blockFree (s : State) (p k : Nat) : Bool :=
  (kvGet s.ras.blockMap (p * 2 + k)).isNone && !s.isBad ⟨2, p, 16 + k, 0, 0⟩ && !s.isFailed ⟨2, p, 16 + k, 0, 0⟩ &&
    !s.ras.prepared.any fun q => q.level == 2 && q.region == p && q.spare == 16 + k
def State.spareBlock (s : State) (p : Nat) : Option Nat := (List.range 2).find? (s.blockFree p)
/-- A physical region is a spare: no logical region maps to it, it has neither failed nor been marked bad, and no prepared
substitution takes it. -/
def State.regionFree (s : State) (q : Nat) : Bool :=
  (s.logicalOf q).isNone && !s.isBad ⟨3, q, 0, 0, 0⟩ && !s.isFailed ⟨3, q, 0, 0, 0⟩ &&
    !s.ras.prepared.any fun x => x.level == 3 && x.spare == q
def State.spareRegion (s : State) (p : Nat) : Option Nat := ((List.range 10).map (p / 10 * 10 + ·)).find? s.regionFree

/-! ### The SRAM of spare units (R35 to R38) -/

/-- A physical block of an active region serves: a block that no spare replaces, or a spare block in service. -/
def State.blockUsed (s : State) (p b : Nat) : Bool :=
  if b < 16 then (List.range 2).all fun k => kvGet s.ras.blockMap (p * 2 + k) != some b
  else (kvGet s.ras.blockMap (p * 2 + (b - 16))).isSome

/-- The copies in spare SRAM that leaves the pool go from every chase (R37). -/
def State.dropSpare (s : State) (p : Store → Bool) : State :=
  (List.range 16).foldl (fun s c => s.dropStores c fun t => t.tier == 6 && p t) s

/-- The SRAM of a spare unit, and that of the spare units inside it. -/
def PhysUnit.holds (u : PhysUnit) (t : Store) : Bool :=
  t.region == u.region && (if u.level = 3 then true else if u.level = 2 then t.block == u.block
    else u.level == 1 && t.block == u.block && t.cell == 16)

/-! ### Stroke-level retry (R797 to R802) -/

/-- Save the retry point at the start of a lock-up (R797); the stroke starts replay-safe (R799). -/
def State.savePoint (s : State) (c : Nat) : State :=
  s.updChase c fun x => { x with retryPlate := s.getF Fld.stkPlate c, retrySlots := x.slots, replaySafe := true, retries := 0
                                 readLines := [] }

/-- The stipple buffers of a chase's held regions are cleared. -/
def State.dropStipple (s : State) (c : Nat) : State :=
  { s with stipple := kvKeep (fun k => !(s.heldRegions c).contains (k / 16)) s.stipple }

/-- Put the sequencers back to the retry point: no open group, no stipple entry, no wait, the slots as saved. -/
def State.restorePoint (s : State) (c : Nat) : State :=
  (((s.returnLoan c).dropPlateWaits c |>.dropGroups c).dropStipple c).updChase c fun x => { x with
    slots := x.retrySlots, inDist := false, finished := false, doneSent := false, tracer := []
    plate := { PlateRt.none with index := x.retryPlate } }

/-- The member retries the stroke (R800): counted, logged, and run again from its first plate. -/
def State.retryStroke (s : State) (c : Nat) : State :=
  let s1 := ((s.restorePoint c).updChase c fun x => { x with retries := x.retries + 1 }).bump Fld.rasRetries 0 1
  let s2 := s1.logCorrected 0x08 2 whereNone 6 (some c)
  (s2.setF Fld.stkPhase c 2).reachPlate c (s2.chase c).retryPlate

/-- A fault that calls for a retry (R800, R801): retried while the stroke is replay-safe, at most twice; else the chase faults
with SEQ_FAULT. -/
def State.retryOrFault (s : State) (c : Nat) : State :=
  let x := s.chase c
  if x.replaySafe && decide (x.retries < 2) then s.retryStroke c
  else (s.logUnit 0x07 sevChase 2 whereNone 7 (some c) 0).faultChase c fSeqFault

/-- Hardware poison is placed (R800, R801): the stroke is retried while it is replay-safe; else the poison stands. -/
def State.hardPoison (s : State) (c : Nat) : State :=
  let x := s.chase c
  if s.csStriking c && x.replaySafe then s.retryOrFault c
  else s.updChase c fun x => { x with work := { x.work with faulted := x.work.faulted + 1 } }

/-! ### The compute ladder (R804 to R809) -/

/-- A member does no work for a chase while a substitution is prepared: its stroke is abandoned (R807). -/
def State.abandonStroke (s : State) (c : Nat) : State :=
  if s.csStriking c && !(s.chase c).substituting then
    (((s.returnLoan c).dropPlateWaits c |>.dropGroups c).updChase c fun x => { x with substituting := true }).endWork c
  else s

/-- A logical region is lost (R809). -/
def State.loseRegion (s : State) (k : Nat) : State :=
  let w := Fld.sysMapValid (k % 8)
  let s1 := (s.setF w (k / 8) 0).setFs 0 [(Fld.sysDegraded, 1), (Fld.sysActiveRegions, s.getF Fld.sysActiveRegions 0 - 1),
    (Fld.sysActiveBlocks, s.getF Fld.sysActiveBlocks 0 - 16), (Fld.sysActiveCells, s.getF Fld.sysActiveCells 0 - 256),
    (Fld.rasRegionsLost, s.getF Fld.rasRegionsLost 0 + 1)]
  let s2 := s1.logUnit 0x0C sevDegraded 2 (whereAt (s.physOf k) 31 31 63) 5 (s.regionHolder k) k
  match s.regionHolder k with
  | some c => s2.loseHolder c
  | none => s2

/-- Log that a unit has failed (R804); a column's failure stands in its RESIDUE_HARD record. -/
def State.noteFail (s : State) (u : PhysUnit) (slot : Option Nat) : State :=
  let s1 : State := { s with ras := { s.ras with failed := s.ras.failed ++ [u] } }
  if u.level = 0 then s1.bump Fld.rasSteps 0 1
  else (s1.bump Fld.rasSteps 0 1).logUnit 0x09 sevDegraded u.erLevel u.whereW 5 slot 0

/-- A spare comes into service. -/
def State.spareIn (s : State) (level p b c : Nat) (slot : Option Nat) : State :=
  let f := if level = 0 then Fld.rasSpColumns else if level = 1 then Fld.rasSpCells else if level = 2 then Fld.rasSpBlocks
    else Fld.rasSpRegions
  (s.bump f 0 1).logUnit 0x0A sevDegraded (level - 1) (PhysUnit.whereW ⟨level, p, b, c, 32⟩) 4 slot 0

/-- The spare that a substitution calls into service, and the unit that it replaces. -/
def Subst.spareUnit (q : Subst) : PhysUnit :=
  if q.level = 1 then ⟨1, q.region, q.block, 16, 0⟩ else if q.level = 2 then ⟨2, q.region, q.spare, 0, 0⟩ else ⟨3, q.spare, 0, 0, 0⟩
def Subst.lostUnit (q : Subst) : PhysUnit :=
  if q.level = 1 then ⟨1, q.region, q.block, q.cell, 0⟩ else ⟨q.level, q.region, if q.level = 2 then q.block else 0, 0, 0⟩

/-- Prepare a substitution (R37, R806, R807): the spare's SRAM leaves the pool at once; chases that hold the region do no work when
a block or region is replaced. -/
def State.prepare (s : State) (q : Subst) : State :=
  let s1 : State := ({ s with ras := { s.ras with prepared := s.ras.prepared ++ [q] } } : State).dropSpare fun t =>
    q.spareUnit.holds t || q.lostUnit.holds t
  if q.level ≤ 1 then s1
  else match (s1.logicalOf q.region).bind s1.regionHolder with
    | some c => s1.abandonStroke c
    | none => s1

/-- A region fails (R805). -/
def State.failRegion (s : State) (p : Nat) (slot : Option Nat) : State :=
  let s1 := s.noteFail ⟨3, p, 0, 0, 0⟩ slot
  match s1.spareRegion p with
  | some q => s1.prepare ⟨3, p, 0, 0, q⟩
  | none => match s1.logicalOf p with
    | some k => s1.loseRegion k
    | none => s1

/-- A block fails. -/
def State.failBlock (s : State) (p b : Nat) (slot : Option Nat) : State :=
  let s1 := s.noteFail ⟨2, p, b, 0, 0⟩ slot
  match s1.spareBlock p with
  | some k => s1.prepare ⟨2, p, b, 0, 16 + k⟩
  | none => s1.failRegion p slot

/-- A cell fails. -/
def State.failCell (s : State) (p b c : Nat) (slot : Option Nat) : State :=
  let s1 := s.noteFail ⟨1, p, b, c, 0⟩ slot
  if s1.spareCell p b then s1.prepare ⟨1, p, b, c, 16⟩ else s1.failBlock p b slot

/-- A column fails: the spare column takes it between tiles (R794), or the cell fails; the flag says that the cell goes on. -/
def State.failCol (s : State) (p b c col : Nat) (slot : Option Nat) : State × Bool :=
  let s1 := s.noteFail ⟨0, p, b, c, col⟩ slot
  if s1.spareCol p b c then
    ((({ s1 with ras := { s1.ras with colMap := kvPut s1.ras.colMap (cellKeyP p b c) col } } : State).spareIn 0 p b c slot), true)
  else (s1.failCell p b c slot, false)

/-- A unit fails at its level. -/
def State.failUnit (s : State) (u : PhysUnit) (slot : Option Nat) : State :=
  if u.level = 0 then (s.failCol u.region u.block u.cell u.col slot).1
  else if u.level = 1 then s.failCell u.region u.block u.cell slot
  else if u.level = 2 then s.failBlock u.region u.block slot
  else s.failRegion u.region slot

/-- Whether an on-chip store of logical places lies in a replaced unit. -/
def State.inUnit (s : State) (q : Subst) (t : Store) : Bool :=
  decide (t.tier ≤ 2) && s.physOf t.region == q.region &&
    (q.level == 3 || (decide (t.tier ≤ 1) && s.physBlock q.region t.block == q.block && (q.level == 2 ||
      (t.tier == 0 && s.physCell q.region q.block t.cell == q.cell))))

/-- Take a home out of a failed unit to its HBM frame: from the frame itself where it has not been written since the promotion, else
by ECC-corrected reads, what these lost coming from a copy (R456, R806). -/
def State.evacuateFrame (s : State) (c f : Nat) (e : FrameEnt) : State :=
  if e.clean then (s.dropChip c f).updFrame c f fun x => { x with tier := s.hbmTier c x.layout, clean := false, failed := [] }
  else
    let s1 := s.demote c f e
    if e.copies.isEmpty then s1
    else ({ s1 with poison := s1.poison.filter fun q => !e.failed.any fun k => s1.entryHa e (32 * k) / 32 == q } : State).updFrame c f
      fun x => { x with failed := [] }

/-- Homes in a replaced unit go back to their HBM frames with their content, copies there go (R456, R806). -/
def State.evacuate (s : State) (q : Subst) : State :=
  (List.range 16).foldl (fun s c => (s.chase c).frames.foldl (fun s e =>
    if s.inUnit q (homeStore e.2) then
      s.evacuateFrame c e.1 { e.2 with copies := e.2.copies.filter (!s.inUnit q ·) } else s) (s.dropStores c (s.inUnit q))) s

/-- The cache of a spare region begins empty, and its ways stand as the role's did: the locked scratch, which the model keeps by
logical place, is the content that the role requires (R38, R478). -/
def State.carryWays (s : State) (k p q : Nat) : State :=
  let s1 := (s.wr .rcWays q (s.rd .rcWays p)).wr .rcWays p RegName.rcWays.resetWord
  { s1 with rcTags := s1.rcTags.filter fun e => e.1 / 16384 != k }

/-- Commit one substitution (R38, R808): the failed unit is evacuated and the map changes. The spare's SRAM begins as zeros and
takes what the role requires. -/
def State.commitSubst (s : State) (q : Subst) : State :=
  let s1 := s.evacuate q
  let r := s1.ras
  let r1 : RasSt := { r with prepared := r.prepared.erase q }
  if q.level = 1 then
    ({ s1 with ras := { r1 with cellMap := kvPut r.cellMap (q.region * 18 + q.block) q.cell } } : State).spareIn 1 q.region q.block 16 none
  else if q.level = 2 then
    ({ s1 with ras := { r1 with blockMap := kvPut r.blockMap (q.region * 2 + (q.spare - 16)) q.block } } : State).spareIn 2 q.region q.spare 0 none
  else
    let s2 : State := { s1 with ras := r1 }
    (match s1.logicalOf q.region with
      | some k => (s2.setF (Fld.sysMapPhys (k % 8)) (k / 8) q.spare).carryWays k q.region q.spare
      | none => s2).spareIn 3 q.spare 0 0 none

/-- Commit every prepared substitution of some physical regions, in increasing level (R808). -/
def State.commitSubsts (s : State) (ps : List Nat) : State :=
  [0, 1, 2, 3].foldl (fun s l =>
    (s.ras.prepared.filter fun q => q.level == l && ps.contains q.region).foldl State.commitSubst s) s

/-- A FATAL event: every chase faults with DEVICE_FAIL (R819). -/
def State.fatal (s : State) (code whereW : Nat) : State :=
  let s1 := (s.setF Fld.rasFatal 0 1).logErr ⟨code, sevFatal, 3, whereW, 0, 0, 0xFF, 7, 0⟩
  (List.range 16).foldl (fun s c => s.faultChase c fDeviceFail) s1

/-! ### Faults inside a tile (R790, R794, R795) -/

/-- The key of a logical cell, and of one of its eight groups. -/
def cellKey (cell : CellId) : Nat := (cell.region * 16 + cell.block) * 16 + cell.cell
def groupKey (cell : CellId) (g : Nat) : Nat := cellKey cell * 8 + g

/-- The physical column that serves a logical column of a cell (R218). -/
def State.physColumn (s : State) (u : PhysUnit) (col : Nat) : Nat :=
  if kvGet s.ras.colMap (cellKeyP u.region u.block u.cell) = some col then 32 else col

/-- A column of a cell as a physical unit. -/
def State.columnOf (s : State) (cell : CellId) (col : Nat) : PhysUnit :=
  let u := s.unitOf 1 cell.region cell.block cell.cell 0
  ⟨0, u.region, u.block, u.cell, s.physColumn u col⟩

/-- The OPEN groups of a cell after one of its columns, or the cell, has failed (R794, R795): restarted where they have taken no
ADD_WIDE, else poisoned by hardware. -/
def restartGroup (x : AccGroup) : AccGroup :=
  if x.st ≠ 1 then x else if x.addWide then { x with poison := true } else { x with acc := x.opening, poison := x.openPoison }

/-- Restart the groups of a cell; a poisoned one is a cue for stroke-level retry. The groups keep their names when other cells of
the block take them up (R795). -/
def State.restartGroups (s : State) (cell : CellId) : State :=
  let mine (e : Nat × AccGroup) : Bool := e.1 / 8 == cellKey cell
  let hit := s.groups.filter fun e => mine e && e.2.st == 1 && e.2.addWide
  let s1 : State := { s with groups := s.groups.map fun e => if mine e then (e.1, restartGroup e.2) else e }
  (hit.map (·.2.shape.slot)).eraseDups.foldl State.hardPoison s1

/-- A column escalates (R789, R794). -/
def State.columnFails (s : State) (cell : CellId) (col slot : Nat) : State :=
  let u := s.columnOf cell col
  let s1 := s.logUnit 0x02 sevDegraded 0 u.whereW 2 (some slot) 0
  (s1.failCol u.region u.block u.cell u.col (some slot)).1.restartGroups cell

/-- The transients of a column within the last hour. -/
def State.transientsOf (s : State) (u : PhysUnit) : List Nat :=
  ((kvGet s.ras.transients (cellKeyP u.region u.block u.cell * 33 + u.col)).getD []).filter fun t =>
    decide (s.upNs < t + 3600000000000)

/-- A transient of a column (R790); the limit within one hour escalates it. -/
def State.transient (s : State) (cell : CellId) (col slot : Nat) : State :=
  let u := s.columnOf cell col
  let l := s.transientsOf u ++ [s.upNs]
  let s1 : State := { s with ras := { s.ras with
    transients := kvPut s.ras.transients (cellKeyP u.region u.block u.cell * 33 + u.col) l } }
  let s2 := (s1.bump Fld.rasTransients 0 1).logCorrected 0x01 0 u.whereW 1 (some slot)
  if s2.getF Fld.rasTransLimit 0 ≤ l.length then s2.columnFails cell col slot else s2

/-! ### What the checks find while a plate runs (R789 to R793) -/

/-- A region sequencer fault (R798 to R801): a second one of the same sequencer within 1 s fails the region. -/
def State.seqFault (s : State) (c k : Nat) : State :=
  let p := s.physOf k
  let again := match kvGet s.ras.seqFaults p with
    | some t => decide (s.upNs < t + 1000000000)
    | none => false
  let s1 : State := { s with ras := { s.ras with seqFaults := kvPut s.ras.seqFaults p s.upNs } }
  if again then (s1.logCorrected 0x07 2 (whereAt p 31 31 63) 5 (some c)).failRegion p (some c)
  else if (s.chase c).replaySafe && decide ((s.chase c).retries < 2) then
    (s1.logCorrected 0x07 2 (whereAt p 31 31 63) 6 (some c)).retryStroke c
  else (s1.logUnit 0x07 sevChase 2 (whereAt p 31 31 63) 7 (some c) 0).faultChase c fSeqFault

/-- Spare rows used in an SRAM macro. -/
def State.rowsUsed (s : State) (u : PhysUnit) (m : Nat) : Nat :=
  match s.ras.macros.find? fun e => e.1 == u && e.2.1 == m with
  | some e => e.2.2
  | none => 0

/-- One finding of the hardware's checks. Levels of the event: 0 cell, 1 block, 2 region. -/
def State.hwEvent (s : State) (slot : Nat) : HwEvent → State
  | .sramCorrected level k b c =>
    let u := s.unitOf (level + 1) k b c 0
    let s1 := if level = 2 then s.bump Fld.rcSramCe u.region 1 else s
    s1.logCorrected 0x03 level u.whereW 0 (some slot)
  | .sramEscalates level k b c m lost addr =>
    let u := s.unitOf (level + 1) k b c 0
    let s0 := if level = 2 then s.bump (if lost then Fld.rcSramUe else Fld.rcSramCe) u.region 1 else s
    let s1 := if lost then s0.logUnit 0x04 sevContained level u.whereW 3 (some slot) addr else s0
    let s2 := if lost && addr != 0 then (s1.chasePoisonRun slot addr 1).updFrame slot (caFrame addr) fun e =>
      if e.tier ≤ 2 then { e with failed := setIns e.failed (addr % 4096 / 32) } else e else s1
    let n := s2.rowsUsed u m
    let s3 := if n < 4 then
        let r := s2.ras
        let s4 : State := { s2 with ras := { r with macros := (u, m, n + 1) :: r.macros.filter fun e => !(e.1 == u && e.2.1 == m) } }
        s4.logCorrected 0x05 level u.whereW 4 (some slot)
      else if level = 0 then (s2.failUnit u (some slot)).restartGroups ⟨k, b, c⟩ else s2.failUnit u (some slot)
    if lost then s3.hardPoison slot else s3
  | .transferRetried level k b => s.logCorrected 0x06 level (s.unitOf (level + 1) k b 0 0).whereW 1 (some slot)
  | .transferFails level k b => s.failUnit (s.unitOf (level + 1) k b 0 0) (some slot)
  | .bridgeFails => s.fatal 0x12 whereNone
  | .runFails k b c =>
    let u := s.unitOf 1 k b c 0
    let again := s.ras.runFaults.any fun e => e.1 == u && decide (s.upNs < e.2 + 1000000000)
    let s1 : State := { s with ras := { s.ras with runFaults := (u, s.upNs) :: s.ras.runFaults.filter fun e => e.1 != u } }
    if again then (s1.failUnit u (some slot)).restartGroups ⟨k, b, c⟩ else s1
  | .stippleLost k b =>
    let key := k * 16 + b
    let st := (kvGet s.stipple key).getD ⟨[], [], false, false⟩
    let s1 : State := { s with stipple := kvPut s.stipple key { st with lost := true } }
    ((s1.bump Fld.rgnStpHbFull (s.physOf k) 1).updChase slot fun x =>
      { x with work := { x.work with hellbox := x.work.hellbox + 1 } }).hardPoison slot
  | .residue k b c n hard tiles =>
    if hard then
      let s1 := s.columnFails ⟨k, b, c⟩ n slot
      if tiles.isEmpty then s1
      else (s1.updChase slot fun x => { x with plate := { x.plate with hurt := x.plate.hurt ++ tiles } }).hardPoison slot
    else s.transient ⟨k, b, c⟩ n slot
  | .seqCorrected k => s.logCorrected 0x03 2 (whereAt (s.physOf k) 31 31 63) 0 (some slot)
  | .seqLost k => s.seqFault slot k
  | .seqResidue k => s.seqFault slot k
  | .hbm x => s.hbmXfer x

/-- The findings during a plate, in order. -/
def State.hwEvents (s : State) (slot : Nat) (l : List HwEvent) : State := l.foldl (fun s e => s.hwEvent slot e) s

/-! ### Meanings -/

/-- SEQ_WATCHDOG: the sequencer of held region `region` has retired nothing for RAS_SEQ_WD_US while it waited on no mark,
barrier or grant. -/
def execSeqWatchdog (slot region : Nat) (s : State) : Ans :=
  let x := s.chase slot
  .next (s.ifB (s.isReady && s.csStriking slot && (s.heldRegions slot).contains region && !x.plate.waiting && !x.finished &&
      !x.substituting && x.plate.started && !x.plate.regionsDone.contains region) fun s =>
    s.seqFault slot region)

/-- CORE_RESTART: a resident core is restarted; its running tickets lose their proofs and its ring is emptied (R803). -/
def execCoreRestart (core : Nat) (s : State) : Ans :=
  .next (s.ifB s.isUp fun s =>
    let g (t : Ticket) : Ticket := if t.ring = 256 + core then { t with orphan := true } else t
    let s1 : State := { s with host := { s.host with
      tickets := s.host.tickets.map g, posted := s.host.posted.filter fun p => p.1 != 256 + core
      rings := s.host.rings.filter fun r => r.1 != 256 + core } }
    s1.logCorrected 0x10 7 whereNone 2 none)

/-- A spare has failed its test: it is marked bad (R810). -/
def State.spareBad (s : State) (e : Nat × Nat × Nat × Nat) : State :=
  let u : PhysUnit := match e with
    | (0, p, b, c) => ⟨0, p, b, c, 32⟩
    | (1, p, b, _) => ⟨1, p, b, 16, 0⟩
    | (2, p, b, _) => ⟨2, p, b, 0, 0⟩
    | (_, p, _, _) => ⟨3, p, 0, 0, 0⟩
  let used := if u.level = 0 then (kvGet s.ras.colMap (cellKeyP u.region u.block u.cell)).isSome
    else if u.level = 1 then (kvGet s.ras.cellMap (u.region * 18 + u.block)).isSome
    else if u.level = 2 then (kvGet s.ras.blockMap (u.region * 2 + (u.block - 16))).isSome || decide (u.block < 16)
    else (s.logicalOf u.region).isSome
  if used || s.isBad u || s.isFailed u then s
  else
    let f := if u.level = 0 then Fld.rasSpColumns else if u.level = 1 then Fld.rasSpCells else if u.level = 2 then Fld.rasSpBlocks
      else Fld.rasSpRegions
    (((({ s with ras := { s.ras with bad := s.ras.bad ++ [u] } } : State).dropSpare u.holds).bump f 0 1).logUnit 0x0B sevDegraded u.erLevel
      u.whereW 0 none 0)

/-- SPARE_TEST: the daily test of every spare not in service; the operand lists those that fail it: level (0 column, 1 cell,
2 block, 3 region), physical region, block, cell. -/
def execSpareTest (failing : List (Nat × Nat × Nat × Nat)) (s : State) : Ans :=
  .next (s.ifB s.isUp fun s => failing.foldl State.spareBad s)

/-- IDLE_REGION_SUBSTITUTION: the prepared substitutions of a physical region that no running chase holds commit (R807). -/
def execIdleRegionSubstitution (p : Nat) (s : State) : Ans :=
  let idle := match (s.logicalOf p).bind s.regionHolder with
    | some c => !s.csActive c
    | none => true
  .next (s.ifB (s.isUp && idle) fun s => s.commitSubsts [p])

end Sys2Proof.Machine
end

