-- ==== Sys2Proof/Machine/Imposition.lean ====
section
/-! DEFINITION. The imposition engine (R424 to R464): heat, migrations decided and committed in lock-ups, pins and hints,
re-placement after failures, guest space, and queries. Which cell does which piece of work is a free choice (Config.deal), since
no rule fixes how work is dealt; no choice changes a result (R460). -/

namespace Sys2Proof.Machine

/-! ### Heat (R430 to R432) -/

/-- heat_update of R431. -/
def heatUpdate (h c age halfLog : Nat) : Nat := min 65535 (h / 2 ^ min 16 (age / 2 ^ halfLog) + c)

/-- Accesses of a list that came from the regions of a die. -/
def Sources.ofDie (l : Sources) (d : Nat) : Nat := ((l.filter fun e => e.1.1 / 8 == d).map (·.2)).sum

/-- A unit with accesses, or one that the background sweep visits, has its heat updated. -/
def heatDue (counted heatAt now : Nat) : Bool := counted != 0 || decide (4096 ≤ now - heatAt)

/-- The heat of a frame at a lock-up (R431); a stroke with accesses is one of the last 16 counted strokes (R438). -/
def FrameEnt.heated (e : FrameEnt) (now halfLog : Nat) : FrameEnt :=
  if !heatDue e.counted e.heatAt now then e
  else { e with
    heat := heatUpdate e.heat e.counted (now - e.heatAt) halfLog, counted := 0, heatAt := now
    dies := if e.counted = 0 then e.dies else ((e.srcs.ofDie 0, e.srcs.ofDie 1) :: e.dies).take 16 }

/-- The heat of a slug at a lock-up. -/
def SlugEnt.heated (e : SlugEnt) (now halfLog : Nat) : SlugEnt :=
  if !heatDue e.counted e.heatAt now then e
  else { e with heat := heatUpdate e.heat e.counted (now - e.heatAt) halfLog, counted := 0, heatAt := now }

/-- Entries of a die's slug table. -/
def slugTableMax : Nat := 65536

/-- The die whose table takes a slug: the model's choice, by its index. -/
def slugDie (slug : Nat) : Nat := slug % 2

/-- The entries of a die's table, over every chase, with their slots. -/
def State.slugTable (s : State) (d : Nat) : List (Nat × SlugEnt) :=
  (List.range 16).flatMap fun c => ((s.chase c).slugs.filter fun e => e.tracked && slugDie e.slug == d).map fun e => (c, e)

/-- A slug that is not in its die's table enters it where there is room, or in place of the entry of least heat when its count in
the stroke exceeds that heat (R432); else it is forgotten. -/
def State.enterSlug (s : State) (c : Nat) (e : SlugEnt) : State :=
  let l := s.slugTable (slugDie e.slug)
  let take (s : State) : State := s.updChase c fun x => { x with slugs := x.slugs.map fun y => if y == e then { e with tracked := true } else y }
  if l.length < slugTableMax then take s
  else match l.foldl (fun (m : Option (Nat × SlugEnt)) v => match m with
      | none => some v
      | some w => if v.2.heat < w.2.heat then some v else some w) none with
    | some v => if v.2.heat < e.counted then take (s.updChase v.1 fun x => { x with slugs := x.slugs.erase v.2 })
        else s.updChase c fun x => { x with slugs := x.slugs.erase e }
    | none => s

/-- The slugs that were first named in the stroke seek a place in the tables, in the order in which they came. -/
def State.enterSlugs (s : State) (c : Nat) : State :=
  ((s.chase c).slugs.filter fun e => !e.tracked).foldl (fun s e => s.enterSlug c e) s

/-- Update the heat of the units that were accessed, and of those that the background sweep visits (R431). -/
def State.updateHeat (s : State) (c : Nat) : State :=
  let hl := s.getF Fld.impHalfLog c
  let now := (s.chase c).begunCount
  (s.enterSlugs c).updChase c fun x => { x with
    frames := x.frames.map fun e => (e.1, e.2.heated now hl), slugs := x.slugs.map fun e => e.heated now hl }

/-- The places of the last stroke's accesses are forgotten once the lock-up has decided. -/
def State.clearSources (s : State) (c : Nat) : State :=
  s.updChase c fun x => { x with
    frames := x.frames.map fun e => (e.1, { e.2 with srcs := [] }), slugs := x.slugs.map fun e => { e with srcs := [] } }

/-- The census counts `n` bag entries that name a slug of a galley, from a place (R430). -/
def State.countSlug (s : State) (c galley slug n : Nat) (place : Nat × Nat × Nat) : State :=
  let hit (e : SlugEnt) : Bool := e.galley == galley && e.slug == slug
  s.updChase c fun x => { x with
    slugs := if x.slugs.any hit then
        x.slugs.map fun e => if hit e then { e with counted := e.counted + n, srcs := e.srcs.add place n } else e
      else x.slugs ++ [⟨galley, slug, 0, n, x.begunCount, [(place, n)], false⟩] }

/-! ### Stores and their room (R34 to R37, R425, R437, R447) -/

/-- Bytes of a store that the engine may use; a spare unit's SRAM is its own while it is not in service (R35, R37). -/
def State.storeBytes (s : State) (t : Store) : Nat :=
  if t.tier = 0 then 262144
  else if t.tier = 1 then 2097152
  else if t.tier = 2 then s.getF Fld.rcEffEngine (s.physOf t.region) * 1048576
  else if t.block = 18 then (if s.regionFree t.region then 134742016 else 0)
  else if (s.logicalOf t.region).isNone then 0
  else if t.cell = 0 then (if s.blockFree t.region (t.block - 16) then 6553600 else 0)
  else if s.blockUsed t.region t.block && s.spareCell t.region t.block then 262144 else 0

/-- Bytes of a slug's copy: its row, in whole sectors. -/
def State.copyBytes (s : State) (c galley : Nat) : Nat :=
  match s.galley c galley with
  | some g => slotBytes g.r
  | none => 0

/-- Whether a frame has its home in an on-chip store. -/
def homeIn (t : Store) (e : FrameEnt) : Bool := homeStore e == t && decide (e.tier ≤ 2)

/-- The store that a migration fills, and the one that it leaves. -/
def MigrationEnt.fills (m : MigrationEnt) (t : Store) : Bool := (m.kind == 0 || m.kind == 1 || m.kind == 3) && m.store == t
def State.leaves (s : State) (c : Nat) (m : MigrationEnt) (t : Store) : Bool :=
  if m.kind = 0 then (match s.frame c m.key with | some e => homeIn t e | none => false)
  else (m.kind == 4 || m.kind == 5) && m.store == t

/-- Bytes that a migration moves. -/
def State.moveBytes (s : State) (c : Nat) (m : MigrationEnt) : Nat := if m.kind = 3 ∨ m.kind = 5 then s.copyBytes c m.key else 4096

/-- Bytes of homes and copies of a slot that stand in a store. -/
def State.heldBytes (s : State) (c : Nat) (t : Store) : Nat :=
  let x := s.chase c
  4096 * ((x.frames.filter fun e => homeIn t e.2).length + (x.frames.filter fun e => e.2.copies.contains t).length) +
    ((x.slugCopies.filter fun e => e.store == t).map fun e => s.copyBytes c e.galley).sum

/-- Bytes in use in a store: homes and copies there, with the migrations on their way to it and without those that leave it. -/
def State.storeUsed (s : State) (t : Store) : Nat :=
  ((List.range 16).map fun c =>
    let x := s.chase c
    s.heldBytes c t + ((x.migrations.filter fun m => m.fills t).map (s.moveBytes c)).sum -
      ((x.migrations.filter fun m => s.leaves c m t).map (s.moveBytes c)).sum).sum

/-- A store has room for `n` more bytes. -/
def State.storeRoom (s : State) (t : Store) (n : Nat) : Bool := decide (s.storeUsed t + n ≤ s.storeBytes t)

/-- What a migration brings on chip fits beside what stands in its store now: a victim that was to make room may have stayed (R437,
R442). -/
def State.fitsNow (s : State) (c : Nat) (m : MigrationEnt) : Bool :=
  !m.fills m.store || decide (3 ≤ m.store.tier ∧ m.store.tier ≠ 6) ||
    decide (((List.range 16).map fun k => s.heldBytes k m.store).sum + s.moveBytes c m ≤ s.storeBytes m.store)

/-- The spare-unit stores that add space for copies beside a store (R36): a spare cell to its block, a spare block to its region, a
spare region to its die. -/
def State.spareStores (s : State) (t : Store) : List Store :=
  let p := s.physOf t.region
  let die := (List.range 10).map fun k => (⟨6, p / 10 * 10 + k, 18, 0⟩ : Store)
  if t.tier = 0 then [⟨6, p, s.physBlock p t.block, 16⟩]
  else if t.tier = 1 then [⟨6, p, 16, 0⟩, ⟨6, p, 17, 0⟩] ++ die
  else if t.tier = 2 then die
  else []

/-! ### Hints (R444 to R449) -/

/-- PIN, NEVER_REPLICATE and CLEAR of HR_FLAGS. -/
def HintRange.pin (h : HintRange) : Bool := bitOf h.flags 0
def HintRange.never (h : HintRange) : Bool := bitOf h.flags 1

/-- The hint range over a frame. -/
def State.hintOf (s : State) (c f : Nat) : Option HintRange :=
  (s.chase c).hints.find? fun h => h.base ≤ 4096 * f && 4096 * f < h.base + h.len

/-- One record of 32 bytes and whether it obeys its table (R444). -/
def hintRec (b : Bytes) : HintRange := ⟨u64At b 0, u64At b 8, u8At b 16, u8At b 17, u16At b 18⟩
def hintOk (b : Bytes) : Bool :=
  let h := hintRec b
  h.base % 4096 == 0 && h.base != 0 && h.len != 0 && h.len % 4096 == 0 && decide (h.base + h.len ≤ 2 ^ 44) && decide (h.flags < 8) &&
    (if h.pin then decide (h.tier ≤ 2) else h.tier == 0) && allZero (slice b 20 12)

/-- What remains of a range once [b, b + n) is taken out. -/
def cutRange (b n : Nat) (h : HintRange) : List HintRange :=
  if h.base + h.len ≤ b ∨ b + n ≤ h.base then [h]
  else
    (if h.base < b then [{ h with len := b - h.base }] else []) ++
      (if b + n < h.base + h.len then [{ h with base := b + n, len := h.base + h.len - (b + n) }] else [])

/-- Apply hint records in turn; none when one of them breaks its table or leaves more than 64 ranges (R444, R445). -/
def applyHints : List HintRange → List Bytes → Option (List HintRange)
  | l, [] => some l
  | l, r :: t =>
    let h := hintRec r
    let cut := l.flatMap (cutRange h.base h.len)
    let new := if bitOf h.flags 2 then cut else cut ++ [h]
    if hintOk r && decide (new.length ≤ 64) then applyHints new t else none

/-- Whether a galley may have no copies (R448), and its affinity regions. -/
def State.galleyNever (s : State) (c galley : Nat) : Bool :=
  match s.galley c galley with
  | some g => bitOf (gdHints g.decl) 1
  | none => true
def State.galleyPin (s : State) (c galley : Nat) : Bool :=
  match s.galley c galley with
  | some g => bitOf (gdHints g.decl) 0
  | none => false
def State.galleyAffinity (s : State) (c galley : Nat) : Nat :=
  match s.galley c galley with
  | some g => gdAffinity g.decl
  | none => 0

/-- Whether hints forbid copies of a frame. -/
def State.frameNever (s : State) (c f : Nat) : Bool :=
  match s.hintOf c f with
  | some h => h.never
  | none => false

/-- Units covered by NEVER_REPLICATE have no copies: those that stand go, and those on their way are abandoned (R448). -/
def State.dropNever (s : State) (c : Nat) : State :=
  let s1 := s.abandon c (fun m => (m.kind == 1 && s.frameNever c m.key) || (m.kind == 3 && s.galleyNever c m.key)) false
  s1.updChase c fun x => { x with
    frames := x.frames.map fun e => (e.1, if s.frameNever c e.1 then { e.2 with copies := [] } else e.2)
    slugCopies := x.slugCopies.filter fun e => !s.galleyNever c e.galley }

/-! ### Deciding migrations (R434 to R441, R446 to R451) -/

/-- IMP_BUDGET_PM and IMP_FREEZE take effect at a lock-up (R461). -/
def State.takeCtrl (s : State) (c : Nat) : State :=
  s.updChase c fun x => { x with budgetPm := s.getF Fld.impBudgetPm c, frozen := s.flag Fld.impFreeze c }

/-- The migration budget in bytes (R439). -/
def State.migrationBudget (s : State) (c : Nat) : Nat :=
  (s.chase c).budgetPm * s.periodNs c * 32768 * s.getF Fld.sysActiveStacks 0 * (s.heldRegions c).length / 160000

/-- Charge bytes to the stroke's budget if it covers them; the flag says whether it did. -/
def State.charge (s : State) (c cost : Nat) : State × Bool :=
  let spent := s.getF Fld.impSpentBytes c
  if s.migrationBudget c < spent + cost then (s, false) else (s.setF Fld.impSpentBytes c (spent + cost), true)

/-- Add migrations if the budget covers their charges; the flag says whether it did. -/
def State.spend (s : State) (c : Nat) (ms : List MigrationEnt) : State × Bool :=
  match s.charge c (ms.map (·.charge)).sum with
  | (s1, true) => (s1.updChase c fun x => { x with migrations := x.migrations ++ ms }, true)
  | (_, false) => (s, false)

/-- Decide about each of a list in turn; once the budget is spent, nothing more is decided (R441). -/
def State.decideEach {α : Type} (f : State → α → State × Bool) : State × Bool → List α → State × Bool
  | a, [] => a
  | (s, false), _ => (s, false)
  | (s, true), x :: t => State.decideEach f (f s x) t

/-- A migration is under way for a frame, or for a copy of a slug. -/
def State.moving (s : State) (c f : Nat) : Bool := (s.chase c).migrations.any fun m => (decide (m.kind < 3) || m.kind == 4) && m.key == f
def State.slugMoving (s : State) (c g i : Nat) : Bool :=
  (s.chase c).migrations.any fun m => (m.kind == 3 || m.kind == 5) && m.key == g && m.slug == i

/-- The heat of a slug: zero where no table has it. -/
def State.slugHeat (s : State) (c g i : Nat) : Nat :=
  match (s.chase c).slugs.find? fun e => e.galley == g && e.slug == i && e.tracked with
  | some e => e.heat
  | none => 0

/-- A unit that may give way in a store: its heat, the move that takes it out, and the bytes that this frees (R437). -/
structure Victim where
  slot : Nat
  heat : Nat
  move : MigrationEnt
  bytes : Nat
  deriving DecidableEq, Repr

/-- A migration to a store. -/
def moveTo (kind key slug : Nat) (t : Store) (charge : Nat) : MigrationEnt := ⟨kind, key, slug, t, charge, 0, 0, 0, false⟩

/-- Insert by rising heat. -/
def insVictim (v : Victim) : List Victim → List Victim
  | [] => [v]
  | h :: t => if v.heat < h.heat then v :: h :: t else h :: insVictim v t

/-- The units of a slot in a store that may give way, in rising heat: neither pinned, nor on the move, nor to be rehomed. -/
def State.victims (s : State) (c : Nat) (t : Store) : List Victim :=
  let x := s.chase c
  let able (e : Nat × FrameEnt) : Bool := !e.2.pinned && e.2.rehome == 0 && !s.moving c e.1
  let homes := (x.frames.filter fun e => homeIn t e.2 && able e).map fun e =>
    (⟨c, e.2.heat, moveTo 0 e.1 0 ⟨3, 0, 0, 0⟩ 4096, 4096⟩ : Victim)
  let copies := (x.frames.filter fun e => e.2.copies.contains t && able e).map fun e => (⟨c, e.2.heat, moveTo 4 e.1 0 t 0, 4096⟩ : Victim)
  let slugs := (x.slugCopies.filter fun e => e.store == t && !e.pinned && !s.slugMoving c e.galley e.slug).map fun e =>
    (⟨c, s.slugHeat c e.galley e.slug, moveTo 5 e.galley e.slug t 0, s.copyBytes c e.galley⟩ : Victim)
  (homes ++ copies ++ slugs).foldl (fun l v => insVictim v l) []

/-- The victims that must go for `n` bytes more: the least hot ones; each must be beaten by the hysteresis (R437) unless a pin
calls. None where this does not make room. -/
def victimsFor (hyst : Nat) (heat : Option Nat) : Nat → List Victim → Option (List Victim)
  | 0, _ => some []
  | _, [] => none
  | n, v :: t =>
    if (match heat with | some h => decide (h < v.heat + v.heat / 2 ^ hyst) | none => false) then none
    else if n ≤ v.bytes then some [v] else (victimsFor hyst heat (n - v.bytes) t).map (v :: ·)

/-- Bring a unit of `n` bytes into a store by a migration that `mk` makes; a copy may also stand in spare-unit SRAM beside it. The
flag is false once the budget does not cover it. -/
def State.bring (s : State) (c : Nat) (t : Store) (n : Nat) (heat : Option Nat) (copy : Bool) (mk : Store → MigrationEnt) : State × Bool :=
  match (if copy then t :: s.spareStores t else [t]).find? fun t => s.storeRoom t n with
  | some u => s.spend c [mk u]
  | none =>
    if s.storeBytes t < n then (s, true)
    else match victimsFor (s.getF Fld.impHyst c) heat (s.storeUsed t + n - s.storeBytes t) (s.victims c t) with
      | some vs => s.spend c (vs.map (·.move) ++ [mk t])
      | none => (s, true)

/-- Take the home of a frame to an on-chip store; between two of them nothing is read from HBM (R440). -/
def State.promote (s : State) (c f : Nat) (e : FrameEnt) (heat : Option Nat) (t : Store) : State × Bool :=
  if homeIn t e then (s, true)
  else s.bring c t 4096 heat false fun t => moveTo 0 f 0 t (if e.tier ≤ 2 then 0 else 4096)

/-- Move a frame to the stacks of the other die (R438): its unit is chosen now. -/
def State.moveDie (s : State) (c f : Nat) (layout : Nat) : State × Bool :=
  let r := s.fresh
  match r.2.takeUnit c r.1 [layout] with
  | (none, s1) => (s1, true)
  | (some n, s1) => match s1.spend c [⟨2, f, 0, ⟨3, 0, 0, 0⟩, 8192, n.layout, n.band, n.unit, false⟩] with
    | (s2, true) => (s2, true)
    | (_, false) => (s1.releaseBands, false)

/-! #### Pins (R446, R447) -/

/-- A store is one of a tier in some regions (R446). -/
def pinStores (tier : Nat) (regions : List Nat) : List Store :=
  regions.flatMap fun k =>
    if tier = 0 then (List.range 256).map fun j => ⟨0, k, j / 16, j % 16⟩
    else if tier = 1 then (List.range 16).map fun b => ⟨1, k, b, 0⟩
    else [⟨2, k, 0, 0⟩]

/-- The held regions that an affinity mask names; every held region under mask 0. -/
def State.affine (s : State) (c mask : Nat) : List Nat := (s.heldRegions c).filter fun k => mask == 0 || bitOf mask k

/-- The store to which a migration takes a frame's home. -/
def State.homeGoing (s : State) (c f : Nat) : Option Store :=
  ((s.chase c).migrations.find? fun m => m.kind == 0 && m.key == f).map (·.store)

/-- Bytes that pins and hub segments take in a store, those on their way included. -/
def State.pinUsed (s : State) (c : Nat) (t : Store) : Nat :=
  let x := s.chase c
  let going (m : MigrationEnt) : Bool := m.fills t &&
    (if m.kind = 0 then (match s.frame c m.key with | some e => e.pinned | none => false) else m.kind == 3 && s.galleyPin c m.key)
  4096 * (x.frames.filter fun e => e.2.pinned && homeIn t e.2 && (s.homeGoing c e.1).isNone).length +
    ((x.slugCopies.filter fun e => e.pinned && e.store == t).map fun e => s.copyBytes c e.galley).sum +
    ((x.migrations.filter going).map (s.moveBytes c)).sum

/-- A pin of `n` bytes more keeps within three quarters of a store (R447). -/
def State.pinRoom (s : State) (c : Nat) (t : Store) (n : Nat) : Bool := decide (4 * (s.pinUsed c t + n) ≤ 3 * s.storeBytes t)

/-- The first store with room for a pin, from a free one on. -/
def State.pinStore (s : State) (c n key : Nat) (ts : List Store) : Option Store :=
  (pickFrom (Config.deal c key (s.getF Fld.stkNumber c) 8) ts.length fun k => match ts[k]? with
    | some t => s.pinRoom c t n
    | none => false).bind fun k => ts[k]?

/-- Set the pin of a frame. -/
def State.pinFlag (s : State) (c f : Nat) (b : Bool) : State := s.updFrame c f fun e => { e with pinned := b }

/-- A pin that no store can take within its share is counted (R447). -/
def State.pinShort (s : State) (c : Nat) : State := s.bump Fld.impPinShort c 1

/-- Meet the pin of a frame: it is held where its home stands in the tier and regions of its hint, or with `on` brought there. The
flag is false once the budget is spent. -/
def State.pinFrame (s : State) (on : Bool) (c f : Nat) (h : HintRange) : State × Bool :=
  match s.frame c f with
  | none => (s, true)
  | some e =>
    let ts := pinStores h.tier (s.affine c h.affinity)
    let now := match s.homeGoing c f with
      | some t => t
      | none => homeStore e
    if e.rehome ≠ 0 ∨ e.pinned then (s, true)
    else if ts.contains now then (if s.pinRoom c now 4096 then s.pinFlag c f true else s.pinShort c, true)
    else match s.pinStore c 4096 f ts with
      | none => (s.pinShort c, true)
      | some t =>
        if !on || s.moving c f then (s, true)
        else
          let r := s.promote c f e none t
          (if r.1.moving c f then r.1.pinFlag c f true else r.1, r.2)

/-- A part of a row's slot or tag lies in a frame that is to be rehomed: no copy of it is decided (R458). -/
def State.rowStuck (s : State) (c galley i : Nat) : Bool :=
  match s.galley c galley with
  | some g => match g.serving, s.localRow c g i with
    | some x, some k => (rowFrames g.r k).any fun j => match (kvGet x.map j).bind (s.frame c) with
      | some e => e.rehome != 0
      | none => false
    | _, _ => false
  | none => false

/-- The stores in which a galley's PIN holds copies (R446). -/
def State.galleyStores (s : State) (c galley : Nat) : List Store :=
  let regions := s.affine c (s.galleyAffinity c galley)
  pinStores 2 regions ++ pinStores 1 regions

/-- Bring a pinned copy of a row to a store; of four copies that stand elsewhere one goes, since a unit has at most four (R465). -/
def State.bringPinned (s : State) (c galley i n : Nat) (t : Store) : State × Bool :=
  let have_ := (s.chase c).slugCopies.filter fun e => e.galley == galley && e.slug == i
  let r := s.bring c t n none false fun t => moveTo 3 galley i t n
  match (if 4 ≤ have_.length ∧ r.1.slugMoving c galley i then have_.head? else none) with
  | some e =>
    let ms := (s.chase c).migrations
    (r.1.updChase c fun x => { x with migrations := ms ++ moveTo 5 galley i e.store 0 :: x.migrations.drop ms.length }, r.2)
  | none => r

/-- Meet the pin of a row of a galley: a copy in tier 2 or 1 of its affinity regions (R446). -/
def State.pinRow (s : State) (on : Bool) (c galley num i : Nat) : State × Bool :=
  let n := s.copyBytes c galley
  let ts := s.galleyStores c galley
  match (s.chase c).slugCopies.find? fun e => e.galley == galley && e.slug == i && e.state == num && ts.contains e.store with
  | some e =>
    if e.pinned then (s, true)
    else if s.pinRoom c e.store n then
      (s.updChase c fun x => { x with slugCopies := x.slugCopies.map fun y => if y = e then { e with pinned := true } else y }, true)
    else (s.pinShort c, true)
  | none =>
    if s.slugMoving c galley i || s.galleyNever c galley || s.rowStuck c galley i then (s, true)
    else match s.pinStore c n i ts with
      | none => (s.pinShort c, true)
      | some t => if on then s.bringPinned c galley i n t else (s, true)

/-- Meet each of a list of pins; once the budget is spent, those that stand are still held. -/
def pinEach {α : Type} (f : Bool → State → α → State × Bool) (a : State × Bool) (l : List α) : State × Bool :=
  l.foldl (fun a x => let r := f a.2 a.1 x; (r.1, a.2 && r.2)) a

/-- The slugs that a member holds of a galley, in rising order. -/
def State.localSlugs (s : State) (c : Nat) (g : GalleySt) : List Nat := (List.range g.slugs).filter fun i => (s.localRow c g i).isSome

/-- The frames over which a segment's edges lie. -/
def segmentFrames (g : Nat × Nat × Nat) : List Nat :=
  if g.2.2 = 0 then [] else (List.range ((g.2.1 + g.2.2 - 1) / 4096 + 1 - g.2.1 / 4096)).map (g.2.1 / 4096 + ·)

/-- The hop of the hub segment of a kept plan that holds a frame. -/
def State.hubHop (s : State) (c f : Nat) : Option Nat :=
  ((s.chase c).plans.flatMap (·.segments)).findSome? fun g => if (segmentFrames g).contains f then some g.1 else none

/-- The block store of a hop. -/
def hopStore (hop : Nat) : Store := ⟨1, hop / 16, hop % 16, 0⟩

/-- A pinned frame keeps its pin while its hint or its hub segment still holds it where its home stands or goes: it leaves its place
only under R37, R38 or a failure (R446, R451). -/
def State.keepsPin (s : State) (c : Nat) (e : Nat × FrameEnt) : Bool :=
  let at_ := (s.homeGoing c e.1).getD (homeStore e.2)
  let hub := match s.hubHop c e.1 with
    | some h => at_ == hopStore h
    | none => false
  let hint := match s.hintOf c e.1 with
    | some h => h.pin && decide (e.1 < galKey) && (pinStores h.tier (s.affine c h.affinity)).contains at_
    | none => false
  e.2.pinned && (hub || hint)

/-- A pinned copy of a row keeps its pin while its galley still asks for it there. -/
def State.keepsCopy (s : State) (c : Nat) (e : SlugCopy) : Bool :=
  e.pinned && s.galleyPin c e.galley && (s.galleyStores c e.galley).contains e.store &&
    (match (s.galley c e.galley).bind GalleySt.serving with
      | some x => x.num == e.state
      | none => false)

/-- Pins whose reason has gone are lifted (R446, R451). -/
def State.liftPins (s : State) (c : Nat) : State :=
  s.updChase c fun x => { x with
    frames := x.frames.map fun e => (e.1, { e.2 with pinned := s.keepsPin c e })
    slugCopies := x.slugCopies.map fun e => { e with pinned := s.keepsCopy c e } }

/-- Every pin: ranges in increasing chase address, then galleys in increasing slug index (R446, R447). With `on` false nothing new is
decided. -/
def State.pinAll (s : State) (on : Bool) (c : Nat) : State × Bool :=
  let s0 := s.liftPins c
  let a := pinEach (fun on s (e : Nat × FrameEnt) => match s.hintOf c e.1 with
    | some h => if h.pin && decide (e.1 < galKey) then s.pinFrame on c e.1 h else (s, true)
    | none => (s, true)) (s0, on) (s0.chase c).frames
  pinEach (fun on s (e : Nat × GalleySt) => match bitOf (gdHints e.2.decl) 0, e.2.serving with
    | true, some x => pinEach (fun on s i => s.pinRow on c e.1 x.num i) (s, on) (s.localSlugs c e.2)
    | _, _ => (s, on)) a (a.1.chase c).galleys

/-! #### Hub segments (R450) -/

/-- A frame of a hub segment goes to the block store of its hop as far as the share allows, else to near HBM of the hop's die. -/
def State.placeHub (s : State) (c hop f : Nat) : State × Bool :=
  match s.frame c f with
  | none => (s, true)
  | some e =>
    let t := hopStore hop
    if e.rehome != 0 || e.pinned || s.moving c f then (s, true)
    else if s.pinRoom c t 4096 then
      if homeIn t e then (s.pinFlag c f true, true)
      else
        let r := s.promote c f e none t
        (if r.1.moving c f then r.1.pinFlag c f true else r.1, r.2)
    else if e.tier ≤ 2 then s.spend c [moveTo 0 f 0 ⟨3, 0, 0, 0⟩ 4096]
    else if e.layout < 2 && e.layout != hop / 16 / 8 then s.moveDie c f (hop / 16 / 8)
    else (s, true)

/-- Note how many segments of a plan have their residence. -/
def State.planPlaced (s : State) (c : Nat) (key : List Nat) (n : Nat) : State :=
  s.updChase c fun x => { x with plans := x.plans.map fun p => if p.key = key then { p with placed := n } else p }

/-- A frame of a hub segment has its residence: in its hop's block store, decided or committed; pinned by a hint, which comes first
(R435); or, once that store is full up to the share, in near HBM of the hop's die, or in the full layout. What nothing backs needs
none. -/
def State.hubSettled (s : State) (c hop f : Nat) : Bool :=
  match s.frame c f with
  | none => true
  | some e => e.pinned || ((s.chase c).migrations.any fun m => m.kind == 2 && m.key == f) ||
      (e.rehome == 0 && !s.moving c f && decide (3 ≤ e.tier) && (e.layout == 2 || e.layout == hop / 16 / 8) && !s.pinRoom c (hopStore hop) 4096)

/-- The segments of a plan that have no residence yet, in increasing index; behind one that has to wait, those of its hop wait too
(R450). -/
def State.placeSegs (s : State) (c : Nat) (key : List Nat) : List Nat → List ((Nat × Nat × Nat) × Nat) → State × Bool
  | _, [] => (s, true)
  | blocked, g :: t =>
    if blocked.contains g.1.1 then s.placeSegs c key blocked t
    else
      let r := State.decideEach (fun s f => s.placeHub c g.1.1 f) (s, true) (segmentFrames g.1)
      if !r.2 then r
      else if (segmentFrames g.1).all (r.1.hubSettled c g.1.1) then
        (if blocked.isEmpty then r.1.planPlaced c key (g.2 + 1) else r.1).placeSegs c key blocked t
      else r.1.placeSegs c key (g.1.1 :: blocked) t

/-- The segments of a plan that have no residence yet. -/
def State.placePlan (s : State) (c : Nat) (p : SplitPlan) : State × Bool := s.placeSegs c p.key [] (p.segments.zipIdx.drop p.placed)

/-! #### Promotions (R436 to R438) -/

/-- A candidate: a frame, or with `galley` a slug; its heat and where the last stroke's accesses came from. -/
structure Candidate where
  galley : Option Nat
  key : Nat
  heat : Nat
  srcs : Sources
  deriving DecidableEq, Repr

/-- Insert by decreasing heat, equal ones in the order in which they come. -/
def insCandidate (e : Candidate) : List Candidate → List Candidate
  | [] => [e]
  | h :: t => if h.heat < e.heat then e :: h :: t else h :: insCandidate e t

/-- The home of a frame is far from three quarters of its accesses over the last 16 counted strokes (R438): the die they came from. -/
def farFrom (e : FrameEnt) : Option Nat :=
  let n := fun d => (e.dies.map fun p => if d = 0 then p.1 else p.2).sum
  let d := 1 - e.layout
  if 3 ≤ e.tier ∧ e.layout < 2 ∧ n 0 + n 1 ≠ 0 ∧ 3 * (n 0 + n 1) ≤ 4 * n d then some d else none

/-- Whether a galley frame belongs to a master, which may move (R427). -/
def State.masterKey (s : State) (c key : Nat) : Bool := (s.chase c).galleys.any fun g => g.2.masterMap.any fun e => e.2 == key

/-- The candidates in decreasing heat (R435, R436, R438). -/
def State.candidates (s : State) (c : Nat) : List Candidate :=
  let p := s.getF Fld.impPromote c
  let frames := ((s.chase c).frames.filter fun e => e.2.rehome == 0 && !e.2.pinned && !s.moving c e.1 && (s.hubHop c e.1).isNone &&
    ((decide (e.1 < galKey) && decide (p ≤ e.2.heat)) ||
      ((decide (e.1 < galKey) || s.masterKey c e.1) && (farFrom e.2).isSome))).map fun e => (⟨none, e.1, e.2.heat, e.2.srcs⟩ : Candidate)
  let slugs := ((s.chase c).slugs.filter fun e => e.tracked && decide (p ≤ e.heat) && !s.galleyNever c e.galley &&
    !s.slugMoving c e.galley e.slug && (match s.galley c e.galley with | some g => (s.localRow c g e.slug).isSome | none => false)).map
      fun e => (⟨some e.galley, e.slug, e.heat, e.srcs⟩ : Candidate)
  (frames ++ slugs).foldl (fun l e => insCandidate e l) []

/-- Accesses by a part of their place. -/
def Sources.by (l : Sources) (f : Nat × Nat × Nat → Nat) : List (Nat × Nat) :=
  (l.map fun e => f e.1).eraseDups.map fun k => (k, ((l.filter fun e => f e.1 == k).map (·.2)).sum)

/-- Insert a region by decreasing accesses, an affine one first among equals (R449). -/
def insRegion (mask : Nat) (e : Nat × Nat) : List (Nat × Nat) → List (Nat × Nat)
  | [] => [e]
  | h :: t => if h.2 < e.2 ∨ (h.2 = e.2 ∧ bitOf mask e.1 = true ∧ bitOf mask h.1 = false) then e :: h :: t else h :: insRegion mask e t

/-- The busiest block of a region. -/
def busiestBlock (l : Sources) (k : Nat) : Nat :=
  ((Sources.by (l.filter fun e => e.1.1 == k) fun p => p.2.1).foldl (fun (m e : Nat × Nat) => if m.2 < e.2 then e else m) (0, 0)).1

/-- The one store of R436 that all accesses point to: a cell, a block store, or the engine ways of a region. -/
def oneStore (l : Sources) : Option Store :=
  match l with
  | [] => none
  | ((k, b, x), _) :: t =>
    if t.all fun e => e.1 == (k, b, x) then some ⟨0, k, b, x⟩
    else if t.all fun e => e.1.1 == k && e.1.2.1 == b then some ⟨1, k, b, 0⟩
    else if t.all fun e => e.1.1 == k then some ⟨2, k, 0, 0⟩
    else none

/-- The regions that get a copy each (R436): an eighth of the accesses or more, at most `n`. -/
def copyRegions (l : Sources) (mask n : Nat) : List Nat :=
  let total := (l.map (·.2)).sum
  ((((l.by (·.1)).filter fun e => decide (total ≤ 8 * e.2)).foldl (fun a e => insRegion mask e a) []).map (·.1)).take n

/-- The stores that stand for a copy in a region: tier 2 with what spares add, and the block store that is taken when it is full. -/
def State.copyStore (s : State) (l : Sources) (n k : Nat) : Store :=
  if ((⟨2, k, 0, 0⟩ : Store) :: s.spareStores ⟨2, k, 0, 0⟩).any fun t => s.storeRoom t n then ⟨2, k, 0, 0⟩ else ⟨1, k, busiestBlock l k, 0⟩

/-- Whether a copy stands for a region already. -/
def copyFor (l : List Store) (k : Nat) : Bool := l.any fun t => t.tier != 6 && t.region == k

/-- Move a frame between near HBM and the far side where its accesses came from (R438). -/
def State.nearMove (s : State) (c key : Nat) (f : FrameEnt) : State × Bool :=
  if s.moving c key then (s, true) else match farFrom f with
    | some d => s.moveDie c key d
    | none => (s, true)

/-- Give a frame the one store that all its accesses point to (R436). -/
def State.homeMove (s : State) (c : Nat) (e : Candidate) (f : FrameEnt) (t : Store) : State × Bool :=
  let r := s.promote c e.key f (some e.heat) t
  if r.2 && !homeIn t f then r.1.nearMove c e.key f else r

/-- The regions that get a copy of a frame (R436, R449): those that have none, at most four copies in all. -/
def State.copyTargets (s : State) (c : Nat) (e : Candidate) (f : FrameEnt) : List Nat :=
  let mask := match s.hintOf c e.key with | some h => h.affinity | none => 0
  ((copyRegions e.srcs mask 4).filter fun k => !copyFor f.copies k).take (4 - f.copies.length)

/-- Bring a copy of a frame to a region; a frame whose home is on chip costs no budget (R440). -/
def State.copyTo (c : Nat) (e : Candidate) (f : FrameEnt) (s : State) (k : Nat) : State × Bool :=
  s.bring c (s.copyStore e.srcs 4096 k) 4096 (some e.heat) true fun t => moveTo 1 e.key 0 t (if f.tier ≤ 2 then 0 else 4096)

/-- Give a frame its copies (R436, R448). -/
def State.copyAll (s : State) (c : Nat) (e : Candidate) (f : FrameEnt) : State × Bool :=
  State.decideEach (State.copyTo c e f) (s, true) (s.copyTargets c e f)

/-- Decide about the copies of a frame, then about its die. -/
def State.copyMoves (s : State) (c : Nat) (e : Candidate) (f : FrameEnt) : State × Bool :=
  let r := s.copyAll c e f
  if r.2 then r.1.nearMove c e.key f else r

/-- Whether a frame may get a home or copies on chip now. -/
def State.mayRise (s : State) (c : Nat) (e : Candidate) : Bool :=
  decide (e.key < galKey) && decide (s.getF Fld.impPromote c ≤ e.heat) && !e.srcs.isEmpty

/-- Whether a frame may be replicated: no write in the last 4 strokes, the one that begins not counted, and no NEVER_REPLICATE (R436, R448). -/
def State.mayCopy (s : State) (c : Nat) (e : Candidate) (f : FrameEnt) : Bool :=
  (f.writtenAt == 0 || decide (f.writtenAt + 4 < (s.chase c).begunCount)) && !s.frameNever c e.key

/-- Decide about a frame (R436, R438, R448). -/
def State.decideFrame (s : State) (c : Nat) (e : Candidate) : State × Bool :=
  match s.frame c e.key with
  | none => (s, true)
  | some f =>
    if s.mayRise c e then
      match oneStore e.srcs with
      | some t => s.homeMove c e f t
      | none => if s.mayCopy c e f then s.copyMoves c e f else s.nearMove c e.key f
    else s.nearMove c e.key f

/-- Decide about a slug: copies where a frame would have its home or copies (R427, R436). -/
def State.decideSlug (s : State) (c g : Nat) (e : Candidate) : State × Bool :=
  let n := s.copyBytes c g
  let have_ := ((s.chase c).slugCopies.filter fun y => y.galley == g && y.slug == e.key).map (·.store)
  let put (s : State) (t : Store) : State × Bool := s.bring c t n (some e.heat) true fun t => moveTo 3 g e.key t n
  if e.srcs.isEmpty ∨ 4 ≤ have_.length ∨ s.rowStuck c g e.key then (s, true)
  else match oneStore e.srcs with
    | some t => if have_.contains t ∨ (s.spareStores t).any have_.contains then (s, true) else put s t
    | none =>
      let ks := ((copyRegions e.srcs (s.galleyAffinity c g) 4).filter fun k => !copyFor have_ k).take (4 - have_.length)
      State.decideEach (fun s k => put s (s.copyStore e.srcs n k)) (s, true) ks

/-- Decide about one candidate. -/
def State.decideOne (s : State) (c : Nat) (e : Candidate) : State × Bool :=
  match e.galley with
  | some g => s.decideSlug c g e
  | none => if s.moving c e.key then (s, true) else s.decideFrame c e

/-- The decisions of a lock-up in the order of R435; under IMP_FREEZE or without a budget nothing new is decided. -/
def State.decideMoves (s : State) (c : Nat) : State :=
  let on := !(s.chase c).frozen && (s.chase c).budgetPm != 0
  let a := s.pinAll on c
  let b := State.decideEach (fun s p => s.placePlan c p) a (a.1.chase c).plans
  (State.decideEach (fun s e => s.decideOne c e) b (b.1.candidates c)).1

/-! ### Committing migrations (R426, R434, R442) -/

/-- Move a frame to new HBM: `how` 1 with the content of its present place, 2 as poison and zeros (R457), 3 as zeros that other sources
are to fill. An on-chip home is the source where there is one; with `whole`, a copy on chip is, and sectors that the HBM has lost since
the unit was last placed take their content from it (R456). -/
def State.moveFrame (s : State) (c f : Nat) (e n : FrameEnt) (how : Nat) (whole : Bool) : State :=
  let s1 := s.zeroPieces (s.framePieces n.layout n.band n.unit)
  let chip := decide (e.tier ≤ 2)
  let put (x : FrameEnt) : FrameEnt := { x with
    layout := n.layout, band := n.band, unit := n.unit, rehome := 0, lost := how == 2, failed := [], clean := chip
    tier := if chip then x.tier else n.tier }
  let s2 := s1.updFrame c f put
  let s3 : State :=
    if how = 2 then (List.range 128).foldl (fun s k => s.devPoison (s.entryHa (put e) (32 * k)) 1) s2
    else if how = 3 then s2
    else if chip then s2.copyFrame c f (put e) false
    else
      let s3 := (List.range 64).foldl (fun s k => s.copyLine (s.entryHa e (64 * k)) (s.entryHa (put e) (64 * k))) s2
      if whole then { s3 with poison := s3.poison.filter fun q => !e.failed.any fun k => s3.entryHa (put e) (32 * k) / 32 == q } else s3
  s3.releaseBands

/-- Commit the copy of a slug: the row of the serving state. -/
def State.commitCopy (s : State) (c : Nat) (m : MigrationEnt) : State :=
  match s.galley c m.key with
  | none => s
  | some g => match g.serving, s.localRow c g m.slug with
    | some x, some k =>
      let e : SlugCopy := ⟨m.key, m.slug, x.num, m.store, s.rowIn false c g x k, false⟩
      s.updChase c fun y => { y with
        slugCopies := y.slugCopies.filter (fun z => !(z.galley == m.key && z.slug == m.slug && z.store == m.store)) ++ [e] }
    | _, _ => s

/-- Commit a migration of a frame. -/
def State.commitFrame (s : State) (c : Nat) (m : MigrationEnt) (e : FrameEnt) : State :=
  if m.kind = 1 then s.updFrame c m.key fun e => { e with copies := if e.copies.contains m.store then e.copies else e.copies ++ [m.store] }
  else if m.kind = 2 then
    s.moveFrame c m.key e { e with layout := m.layout, band := m.band, unit := m.unit, tier := s.hbmTier c m.layout } 1 false
  else if m.kind = 4 then s.updFrame c m.key fun e => { e with copies := e.copies.filter (· != m.store) }
  else if m.store.tier ≤ 2 then
    let s1 := if e.tier ≤ 2 then s else s.copyFrame c m.key e true
    s1.updFrame c m.key fun x => { x with
      tier := m.store.tier, region := m.store.region, block := m.store.block, cell := m.store.cell
      clean := if e.tier ≤ 2 then e.clean else true, failed := if e.tier ≤ 2 then e.failed else [] }
  else if e.tier ≤ 2 then s.demote c m.key e
  else s

/-- Commit one migration; one that finds no room since its victim has stayed is abandoned (R437, R442). -/
def State.commitMove (s : State) (c : Nat) (m : MigrationEnt) : State :=
  let s0 := s.bump Fld.impMigrations c 1
  if !s.fitsNow c m then s.bump Fld.impAbandoned c 1
  else if m.kind = 3 then s0.commitCopy c m
  else if m.kind = 5 then s0.updChase c fun x => { x with
    slugCopies := x.slugCopies.filter fun z => !(z.galley == m.key && z.slug == m.slug && z.store == m.store) }
  else match s.frame c m.key with
    | none => s
    | some e => s0.commitFrame c m e

/-- Commit migrations in turn; those to come, and `rest`, stay in flight meanwhile. -/
def State.commitEach (s : State) (c : Nat) (rest : List MigrationEnt) : List MigrationEnt → State
  | [] => s
  | m :: t => ((s.updChase c fun x => { x with migrations := t ++ rest }).commitMove c m).commitEach c rest t

/-- Commit the migrations of a lock-up but for the last `left`, which its budget leaves for the next lock-up (R434). Those that an
earlier lock-up carried over are charged to the stroke that now begins (R117). -/
def State.commitMoves (s : State) (c left : Nat) : State :=
  let ms := (s.chase c).migrations
  let carried := ((ms.filter (·.late)).map (·.charge)).sum
  let rest := (ms.drop (ms.length - left)).map fun m => { m with late := true }
  ((s.commitEach c rest (ms.take (ms.length - left))).updChase c fun x => { x with migrations := rest }).setF Fld.impSpentBytes c carried

/-! ### Re-placement after failures (R456 to R459) -/

/-- Whether a whole copy of a frame stands on chip. -/
def FrameEnt.copied (e : FrameEnt) : Bool := decide (e.tier ≤ 2) || !e.copies.isEmpty

/-- How a frame is rehomed: 1 from its on-chip home or a copy, else as its mark says (2: with zeros). -/
def rehomeHow (e : FrameEnt) : Nat := if e.copied then 1 else e.rehome

/-- A frame rehomed with zeros is counted (R457). -/
def State.notePoisoned (s : State) (c how : Nat) : State := if how = 2 then s.bump Fld.impPoisonedFrames c 1 else s

/-- The rows of a galley that a frame of its states holds: galley, state, map, frame number. -/
def State.usersOf (s : State) (c key : Nat) : List (Nat × GalState × Nat) :=
  (s.chase c).galleys.flatMap fun g => g.2.states.flatMap fun x => (x.map.filter fun e => e.2 == key).map fun e => (g.1, x, e.1)

/-- A row of a galley state from a decoded copy of this member, or from a peer's replica (R456). -/
def State.otherSource (s : State) (c id num i : Nat) (peers : List GuestCopy) : Option Slug :=
  match (s.chase c).slugCopies.find? fun e => e.galley == id && e.slug == i && e.state == num with
  | some e => if e.row.poison then none else some e.row
  | none => (peers.find? fun p => p.galley == id && p.slug == i && p.state == num && !p.row.poison).map (·.row)

/-- Write a row's part that a lost frame held: its slot, or its tag. -/
def State.restorePart (s : State) (c : Nat) (map : List (Nat × Nat)) (r i k : Nat) (v : Slug) : State :=
  let p := rowPlace r k
  if i < 2 ^ 40 then s.galWrite false c map p.slotF p.slotO (v.slot r) else s.galWrite false c map p.tagF p.tagO (natLe 2 v.tag)

/-- What a galley frame holds of rows: the map and row size to write by, the frame's number in that map, the row's place, its index, the
states under which a source may hold it. -/
structure RowPart where
  map : List (Nat × Nat)
  r : Nat
  frame : Nat
  place : Nat
  galley : Nat
  slug : Nat
  states : List Nat

/-- The rows of which a galley frame holds a part: of every state that shares it, or of guest copies. -/
def State.rowParts (s : State) (c key : Nat) : List RowPart :=
  match s.usersOf c key with
  | [] => (s.chase c).guests.flatMap fun u => match s.galley c u.galley with
      | some g => ((rowFrames g.r u.pos).filter fun i => kvGet g.guestMap i == some key).map fun i =>
          ⟨g.guestMap, g.r, i, u.pos, u.galley, u.slug, [u.state]⟩
      | none => []
  | (id, x, i) :: t => match s.galley c id with
    | none => []
    | some g =>
      if i = blankFrame then []
      else (frameRows g.r i).filterMap fun k =>
        if k < localRows g.sharded (s.members c) (s.ordinal c) g.slugs then
          (rowIndex g.sharded (s.members c) (s.ordinal c) k).map fun slug =>
            ⟨x.map, g.r, i, k, id, slug, x.num :: (t.filter fun u => u.1 == id).map fun u => u.2.1.num⟩
        else none

/-- The first source that holds a row. -/
def State.partSource (s : State) (c : Nat) (p : RowPart) (peers : List GuestCopy) : Option Slug :=
  p.states.findSome? fun num => s.otherSource c p.galley num p.slug peers

/-- Restore what other sources hold of a galley frame that was lost. -/
def State.restoreRows (s : State) (c : Nat) (parts : List (RowPart × Option Slug)) : State :=
  parts.foldl (fun s e => match e.2 with
    | some v => s.restorePart c e.1.map e.1.r e.1.frame e.1.place v
    | none => s) s

/-- Rehome one frame into the unit found for it; without HBM it stays. The flag says that it found room. -/
def State.rehomeTo (s : State) (c f : Nat) (e : FrameEnt) (peers : List GuestCopy) : Option FrameEnt → State × Bool
  | none => (s, false)
  | some n =>
    let how := rehomeHow e
    let parts := if how = 2 ∧ galKey ≤ f then (s.rowParts c f).map fun p => (p, s.partSource c p peers) else []
    let whole := !parts.isEmpty && parts.all fun p => p.2.isSome
    let to_ := if whole then 3 else how
    (((s.moveFrame c f e n to_ e.copied).restoreRows c parts).notePoisoned c to_, true)

/-- Rehome one frame: from its on-chip home or a copy, from its own HBM where that can be read, from other sources, else with zeros,
poisoned (R456, R457). -/
def State.rehomeFrame (s : State) (c f : Nat) (e : FrameEnt) (peers : List GuestCopy) : State × Bool :=
  let r := s.allocIn c 4096 (if f < galKey then layoutsOf (ptInterleave (s.forme c)) else nearLayouts)
  r.2.rehomeTo c f e peers r.1

/-- Rehome every frame that a failure has marked (R456); a stroke in which one finds no HBM is counted (R459). -/
def State.rehomeAll (s : State) (c : Nat) (peers : List GuestCopy) : State :=
  let r := ((s.chase c).frames.filter fun e => e.2.rehome != 0).foldl (fun a e =>
    let z := a.1.rehomeFrame c e.1 e.2 peers
    (z.1, a.2 && z.2)) (s, true)
  if r.2 then r.1 else r.1.bump Fld.impNoFrame c 1

/-- The imposition work of a lock-up (R434, R435): commits, heat, re-placement, then decisions. -/
def State.impose (s : State) (c left : Nat) (peers : List GuestCopy) : State :=
  ((((((((s.takeCtrl c).commitMoves c left).updateHeat c).dropNever c).rehomeAll c peers).decideMoves c).clearSources c).updChase c) fun x =>
    { x with frames := x.frames.map fun e => (e.1, { e.2 with shown := true }) }

/-! ### Guest space and guest copies (R452 to R455) -/

/-- The guest copies of a list that fit `n` bytes, in order. -/
def State.fitGuests (s : State) (c : Nat) : Nat → List GuestEnt → List GuestEnt
  | _, [] => []
  | n, g :: t => if s.copyBytes c g.galley ≤ n then g :: s.fitGuests c (n - s.copyBytes c g.galley) t else []

/-- Frames of guest slots in which no guest copy stands go back. -/
def State.trimGuests (s : State) (c : Nat) : State :=
  let used (id : Nat) (g : GalleySt) (i : Nat) : Bool :=
    (s.chase c).guests.any fun u => u.galley == id && (rowFrames g.r u.pos).contains i
  (s.updChase c fun x => { x with
    galleys := x.galleys.map fun g => (g.1, { g.2 with guestMap := g.2.guestMap.filter fun e => used g.1 g.2 e.1 }) }).sweepGal c

/-- Reserve the guest space at CHASE_START; guest copies beyond it are dropped (R452). -/
def State.reserveGuests (s : State) (c : Nat) : State :=
  let s1 := s.setF Fld.impGuestGranted c 0
  let n := min (s.getF Fld.impGuestMib c) (s1.hbmFree 16 / 2 ^ 20)
  ((s1.setF Fld.impGuestGranted c n).updChase c fun x => { x with guests := s1.fitGuests c (n * 2 ^ 20) x.guests }).trimGuests c

/-- Whether a galley may have guest copies (R453). -/
def guestsAllowed (d : Bytes) : Bool := gdSharded d && !bitOf (gdHints d) 1 && !gdTrainable d

/-- A slug may have a guest copy on this member: another member owns it. That its heat was high enough counted when the row was asked
for (R453). -/
def State.guestWanted (s : State) (c galley slug : Nat) : Bool :=
  match s.galley c galley with
  | some g => guestsAllowed g.decl && (s.localRow c g slug).isNone
  | none => false

/-- The least place among the guest slots of a galley that none holds. -/
def State.guestPos (s : State) (c galley : Nat) : Nat :=
  let used := ((s.chase c).guests.filter fun u => u.galley == galley).map (·.pos)
  leastUpTo (fun k => !used.contains k) used.length 0

/-- Take in one guest row (R453): the copy commits if it was read from the serving state and space remains; it counts against the budget
of the stroke (R440). -/
def State.takeGuest (s : State) (c : Nat) (e : GuestCopy) : State :=
  let n := s.copyBytes c e.galley
  let rest := (s.chase c).guests.filter fun y => !(y.galley == e.galley && y.slug == e.slug)
  let used := (rest.map fun y => s.copyBytes c y.galley).sum
  let serving := match (s.galley c e.galley).bind GalleySt.serving with
    | some x => x.num == e.state
    | none => false
  if s.guestWanted c e.galley e.slug && serving && decide (used + n ≤ s.getF Fld.impGuestGranted c * 2 ^ 20) then
    let s1 := (s.setF Fld.impSpentBytes c (s.getF Fld.impSpentBytes c + n)).updChase c fun x => { x with guests := rest }
    let pos := s1.guestPos c e.galley
    ((s1.putGuest c e.galley pos e.row).updChase c fun x => { x with guests := x.guests ++ [⟨e.galley, e.slug, e.state, pos⟩] }).bump
      Fld.impMigrations c 1
  else s

/-- The guest rows that owners have sent commit at a lock-up; a freeze decides no new ones, and these are in flight (R453, R461). -/
def State.takeGuests (s : State) (c : Nat) : State :=
  let s1 := (s.chase c).guestIn.foldl (fun s e => s.takeGuest c e) s
  (s1.updChase c fun x => { x with
    guestIn := [], guests := x.guests.filter fun u => match s.galley c u.galley with | some g => guestsAllowed g.decl | none => false }).trimGuests c

/-! ### IMP_QUERY (R463) -/

/-- Whether a frame belongs to a hub segment whose residence a lock-up has decided. -/
def State.hubPlaced (s : State) (c f : Nat) : Bool :=
  (s.chase c).plans.any fun p => (p.segments.take p.placed).any fun g => (segmentFrames g).contains f

/-- The answer to a query: the word of IMP_QUERY_RESULT. -/
def State.query (s : State) (c kind galley key : Nat) : State :=
  let zero := s.wr .impQueryResult 0 0
  if kind = 0 then
    match s.frame c (caFrame key) with
    | some e =>
      let chip := e.tier ≤ 2
      if key < 4096 ∨ 2 ^ 43 ≤ key ∨ !e.shown then zero
      else zero.setFs 0 [(Fld.impRValid, 1), (Fld.impRPinned, natOfBool ((e.pinned || s.hubPlaced c (caFrame key)) && !s.moving c (caFrame key))),
        (Fld.impRPoison, natOfBool (s.lostFrame c key)),
        (Fld.impRTier, e.tier), (Fld.impRRegion, if chip then e.region else haStack (s.entryHa e 0) / 6 * 8),
        (Fld.impRBlock, if chip then (homeStore e).block else 0), (Fld.impRCell, if chip then (homeStore e).cell else 0),
        (Fld.impRStack, haStack (s.entryHa e (key % 4096))), (Fld.impRCopies, min 4 e.copies.length), (Fld.impRHeat, e.heat)]
    | none => zero
  else
    match ((galDecls (s.forme c))[galley]?).bind fun d => (s.galley c (gdId d)).map fun g => (gdId d, g) with
    | some (id, g) =>
      let i := key % 2 ^ 40
      let place (h : Option Nat) : Nat := match h with | some h => haStack h | none => Config.deal c id i 0 % 12
      if g.slugs ≤ i ∨ s.cs c = csEmpty then zero
      else match s.localRow c g i, g.serving with
        | some k, some x =>
          let p := rowPlace g.r k
          let stack := place (s.galHa c x.map p.slotF p.slotO)
          let copies := (s.chase c).slugCopies.filter fun e => e.galley == id && e.slug == i
          zero.setFs 0 [(Fld.impRValid, 1), (Fld.impRPinned, natOfBool (bitOf (gdHints g.decl) 0)),
            (Fld.impRPoison, natOfBool (s.rowIn false c g x k).poison), (Fld.impRTier, s.hbmTier c (stack / 6)),
            (Fld.impRStack, stack), (Fld.impRRegion, stack / 6 * 8), (Fld.impRCopies, min 4 copies.length),
            (Fld.impRHeat, s.slugHeat c id i), (Fld.impRState, match copies.head? with | some e => e.state % 65536 | none => 0)]
        | none, _ => match (s.chase c).guests.find? fun u => u.galley == id && u.slug == i with
          | some u =>
            let p := rowPlace g.r u.pos
            let stack := place (s.galHa c g.guestMap p.slotF p.slotO)
            zero.setFs 0 [(Fld.impRValid, 1), (Fld.impRTier, 5), (Fld.impRStack, stack), (Fld.impRRegion, stack / 6 * 8),
              (Fld.impRHeat, s.slugHeat c id i), (Fld.impRState, u.state % 65536)]
          | none => zero
        | some _, none => zero
    | none => zero

/-- IMP_QUERY: a host write starts a lookup, which is answered at once. -/
def execImpQuery (rid value : Nat) (s : State) : Ans :=
  .next (s.regWrite rid fun s =>
    let s1 := s.setFs 0 [(Fld.impQSlot, bitsOf value 19 16), (Fld.impQKind, bitsOf value 15 15), (Fld.impQGalley, bitsOf value 9 0)]
    s1.query (bitsOf value 19 16) (bitsOf value 15 15) (bitsOf value 9 0) (s.getF Fld.impQKey 0))

end Sys2Proof.Machine
end

