-- ==== Sys2Proof/Machine/Cache.lean ====
section
/-! DEFINITION. The region caches and the paths to HBM: dividing the ways (R479 to R488), range operations (R494 to R499), the
merging buffer's drain (R491), atomics (R500 to R503), the BAR2 and CXL paths (R645 to R658), and the two register reads
that wait for memory. -/

namespace Sys2Proof.Machine

/-! ### Cached lines -/

/-- A line leaves the caches. -/
def State.dropTag (s : State) (line : Nat) : State :=
  { s with rcTags := (s.rcTags.map fun e => (e.1, e.2.filter fun t => t.1 != line)).filter fun e => !e.2.isEmpty }

/-- The lines of a logical region that stand outside its cache ways, `lo` and up to `hi`, are invalid (R483, R484). -/
def State.keepWays (s : State) (k lo hi : Nat) : State :=
  { s with rcTags := (s.rcTags.map fun e =>
      if e.1 / 16384 = k then (e.1, e.2.filter fun t => decide (lo ≤ t.2) && decide (t.2 < hi)) else e).filter fun e => !e.2.isEmpty }

/-! ### Dividing the ways (R479 to R488) -/

/-- Discard the locked scratch of logical region `k` of slot `c` from byte `b` on (R488). -/
def State.dropScratch (s : State) (c k b : Nat) : State :=
  let lo := chipLoc c (2 ^ 43 + 2 ^ 24 * k + b)
  let hi := chipLoc c (2 ^ 43 + 2 ^ 24 * (k + 1))
  { s with mem := s.mem.filter fun e => !(decide (lo ≤ e.1) && decide (e.1 < hi))
           poison := s.poison.filter fun q => !(decide (lo ≤ 32 * q) && decide (32 * q < hi)) }

/-- Make the tier-2 homes and copies of a region fit its engine ways, charging nothing (R482): migrations on their way there are
abandoned, then copies go until the store holds the rest, then homes do (DESIGN CHOICE, log 143: which of them stand in the ways
released is open). -/
def State.fitEngine (s : State) (c k : Nat) : State :=
  let t : Store := ⟨2, k, 0, 0⟩
  let full (s : State) : Bool := decide (s.storeBytes t < s.storeUsed t)
  let s1 := if full s then s.abandon c (fun m => (m.kind == 0 || m.kind == 1 || m.kind == 3) && m.store == t) true else s
  let s2 := (s1.chase c).frames.foldl (fun s e =>
    if full s && e.2.copies.contains t then s.updFrame c e.1 fun x => { x with copies := x.copies.filter (· != t) } else s) s1
  let s3 := (s2.chase c).slugCopies.foldl (fun s e =>
    if full s && e.store == t then s.updChase c fun x => { x with slugCopies := x.slugCopies.erase e } else s) s2
  (s3.chase c).frames.foldl (fun s e => if full s && homeIn t e.2 then s.demote c e.1 e.2 else s) s3

/-- Releasing the engine ways of region `k` needs demotions (R482). -/
def State.releaseDemotes (s : State) (c k : Nat) : Bool :=
  decide (s.getF Fld.rcEngineWays (s.physOf k) * 1048576 <
    4096 * ((s.chase c).frames.filter fun e => homeIn ⟨2, k, 0, 0⟩ e.2).length)

/-- A pending change of the ways of physical region `p` takes effect; `all` says that locked and engine ways change too
(R481, R484). -/
def State.applyWays (s : State) (p : Nat) (all : Bool) : State :=
  let lock := if all then s.getF Fld.rcLockWays p else s.getF Fld.rcEffLock p
  let engine := if all then s.getF Fld.rcEngineWays p else s.getF Fld.rcEffEngine p
  let off := s.getF Fld.rcOffWays p
  let s1 := s.setFs p [(Fld.rcEffLock, lock), (Fld.rcEffEngine, engine), (Fld.rcEffOff, off),
    (Fld.rcWaysPending, natOfBool (s.getF Fld.rcLockWays p != lock || s.getF Fld.rcEngineWays p != engine))]
  match s.logicalOf p with
  | none => s1
  | some k =>
    let s2 := s1.keepWays k (lock + engine) (16 - off)
    match s2.regionHolder k with
    | none => s2
    | some c =>
      let s3 := if lock < s.getF Fld.rcEffLock p then s2.dropScratch c k (lock * 2 ^ 20) else s2
      if engine < s.getF Fld.rcEffEngine p then s3.fitEngine c k else s3

/-- Physical region `p` is held by a chase that runs strokes. -/
def State.heldRunning (s : State) (p : Nat) : Bool :=
  match (s.logicalOf p).bind s.regionHolder with
  | some c => s.csStriking c
  | none => false

/-- A write of RC_WAYS (R480). -/
def State.waysWrite (s : State) (p value : Nat) : State :=
  let lock := bitsOf value 3 0
  let engine := bitsOf value 7 4
  let off := bitsOf value 11 8
  let held := match (s.logicalOf p).bind s.regionHolder with | some _ => true | none => false
  let s0 := if bitOf value 41 then s.setF Fld.rcWaysRefused p 0 else s
  if 12 < lock + engine ∨ 14 < lock + engine + off ∨ (0 < lock ∧ held = false) then s0.setF Fld.rcWaysRefused p 1
  else
    let s1 := s0.setFs p [(Fld.rcLockWays, lock), (Fld.rcEngineWays, engine), (Fld.rcOffWays, off)]
    s1.setF Fld.rcWaysPending p (natOfBool (s1.getF Fld.rcEffLock p != lock || s1.getF Fld.rcEffEngine p != engine ||
      s1.getF Fld.rcEffOff p != off))

/-- RC_WAYS: a 64-bit host write. -/
def execRcWays (rid p value : Nat) (s : State) : Ans := .next (s.regWrite rid fun s => s.ifB (decide (p < 20)) fun s => s.waysWrite p value)

/-- RC_WAYS_APPLY: a pending change takes effect outside a lock-up: of every class in a region that no running chase holds,
of the powered-down ways alone in any other (R481, R484). -/
def execRcWaysApply (p : Nat) (s : State) : Ans :=
  .next (s.ifB (s.isUp && s.flag Fld.rcWaysPending p) fun s =>
    let same := s.getF Fld.rcLockWays p == s.getF Fld.rcEffLock p && s.getF Fld.rcEngineWays p == s.getF Fld.rcEffEngine p
    if same || !s.heldRunning p then s.applyWays p true else s)

/-! ### Range operations (R494 to R499) -/

/-- Write one line's merging-buffer entry to DRAM. -/
def State.cleanLine (s : State) (line : Nat) : State :=
  match s.mbFind line with
  | some e => s.mbToDram e
  | none => s

/-- Discard one line's merging-buffer entry. -/
def State.dropEntry (s : State) (line : Nat) : State := { s with mb := s.mb.filter fun e => e.line != line }

/-- One line of chase data under a range operation. -/
def State.rangeLine (s : State) (c op a : Nat) : State :=
  match s.frame c (caFrame a), s.chaseLoc c a with
  | some e, some l =>
    if op = 4 then (s.noteWrite false c a 64).devWrite l (List.replicate 64 0)
    else if e.tier ≤ 2 then s
    else if op = 1 then s.cleanLine (l / 64)
    else if op = 2 then (s.dropEntry (l / 64)).dropTag (l / 64)
    else (s.cleanLine (l / 64)).dropTag (l / 64)
  | _, _ => s

/-- The lines of the backed frames of slot `c` in a range, in increasing chase address (R495, R497). -/
def State.rangeLines (s : State) (c base len : Nat) : List Nat :=
  (s.chase c).frames.flatMap fun e => ((List.range 64).map fun k => 4096 * e.1 + 64 * k).filter fun a =>
    decide (base ≤ a) && decide (a < base + len)

/-- A write of RC_RANGE_CTRL (R494, R495, R499): one while an operation runs, or with a value that the table does not hold, starts
nothing. -/
def State.rangeStart (s : State) (p op slot : Nat) (kind : Bool) : State :=
  let s1 := s.setFs p [(Fld.rcRngSlot, slot), (Fld.rcRngKind, natOfBool kind)]
  if s.flag Fld.rcRngBusy p || op == 0 || decide (4 < op) || (kind && op != 1) then s1.setF Fld.rcRngStatus p 1
  else if !kind && (s.forme slot).isEmpty then s1.setF Fld.rcRngStatus p 2
  else
    let s2 := if kind then s1.mb.foldl (fun s e => s.cleanLine e.line) s1
      else (s1.rangeLines slot (s.getF Fld.rcRngBase p / 64 * 64) (s.getF Fld.rcRngLen p / 64 * 64)).foldl (fun s a => s.rangeLine slot op a) s1
    s2.setFs p [(Fld.rcRngBusy, 1), (Fld.rcRngStatus, 0)]

/-- A host write of RC_RANGE_CTRL. -/
def State.rangeWrite (s : State) (rid p op slot : Nat) (kind : Bool) : State :=
  s.regWrite rid fun s => s.ifB (decide (p < 20)) fun s => s.rangeStart p op (slot % 16) kind

/-- CLEAN: a host write of RC_RANGE_CTRL with operation 1. -/
def execClean (rid p slot : Nat) (kind : Bool) (s : State) : Ans := .next (s.rangeWrite rid p 1 slot kind)

/-- INVALIDATE. -/
def execInvalidate (rid p slot : Nat) (kind : Bool) (s : State) : Ans := .next (s.rangeWrite rid p 2 slot kind)

/-- CLEAN_INVALIDATE. -/
def execCleanInvalidate (rid p slot : Nat) (kind : Bool) (s : State) : Ans := .next (s.rangeWrite rid p 3 slot kind)

/-- ZERO. -/
def execZero (rid p slot : Nat) (kind : Bool) (s : State) : Ans := .next (s.rangeWrite rid p 4 slot kind)

/-- RANGE_DONE: the last line of the operation in region `p` has been processed. -/
def execRangeDone (p : Nat) (s : State) : Ans :=
  .next (s.ifB (s.isUp && s.flag Fld.rcRngBusy p) fun s => (s.setF Fld.rcRngBusy p 0).bump Fld.rcRngDone p 1)

/-- MB_DRAIN: an entry has been held for RC_MB_AGE (R491). -/
def execMbDrain (line : Nat) (s : State) : Ans := .next (s.ifB s.isUp fun s => s.cleanLine line)

/-! ### Atomics (R500 to R503) -/

/-- The logical region whose cache carries out an atomic at a chase address. -/
def State.atomicRegion (s : State) (c a : Nat) : Nat :=
  if caScratch a then (a - 2 ^ 43) / 2 ^ 24
  else match s.frame c (caFrame a), s.chaseLoc c a with
    | some e, some l => if e.tier ≤ 2 then e.region else s.homeSlice l
    | _, _ => dealRegion (s.heldRegions c) c (s.chase c).plate.index (s.getF Fld.stkNumber c) a

/-- Carry out an atomic of `n` bytes, aligned to `n`; answer the old content, none where it is not carried out or is
poisoned. -/
def State.atomic (s : State) (c a n : Nat) (f : Bytes → Bytes) : State × Option Bytes :=
  let p := s.physOf (s.atomicRegion c a)
  let s0 := s.updChase c fun x => { x with replaySafe := false }
  match (if a % n = 0 then s.chaseLoc c a else none) with
  | none => (s0.bump Fld.rcAtomicFaults p 1, none)
  | some l =>
    let old := (s.chaseRead c a n).1
    (((s0.noteWrite true c a n).devWrite l (f old)).bump Fld.rcAtomicCount p 1, if s.chasePoison c a then none else some old)

/-- An atomic that a command issues: its old content goes to the issuer. -/
def State.atomicOut (s : State) (c a n : Nat) (f : Bytes → Bytes) : State :=
  s.ifB (s.isReady && s.cs c != csEmpty && decide (c < 16)) fun s =>
    let r := s.atomic c a n f
    r.1.emit (.atomicOld r.2)

/-- The content of a min-max slot after an operand (R501). -/
def minMaxSlot (isMax : Bool) (v : Int) (index : Nat) (old : Bytes) : Bytes :=
  let ov := sextNat 64 (u64At old 0)
  let full := bitOf (u8At old 15) 0
  let wins := !full || (if isMax then decide (ov < v) else decide (v < ov)) || (v == ov && decide (index < fieldLe old 8 5))
  if wins then natLe 8 (patOf 64 v) ++ natLe 5 index ++ [0, 0, 1] else old

/-- ATOMIC_ADD. -/
def execAtomicAdd (slot addr : Nat) (v : Int) (s : State) : Ans :=
  .next (s.atomicOut slot addr 8 fun b => natLe 8 ((u64At b 0 + patOf 64 v) % 2 ^ 64))

/-- MIN_IDX. -/
def execMinIdx (slot addr : Nat) (v : Int) (index : Nat) (s : State) : Ans :=
  .next (s.atomicOut slot addr 16 (minMaxSlot false (wrapS 64 v) (index % 2 ^ 40)))

/-- MAX_IDX. -/
def execMaxIdx (slot addr : Nat) (v : Int) (index : Nat) (s : State) : Ans :=
  .next (s.atomicOut slot addr 16 (minMaxSlot true (wrapS 64 v) (index % 2 ^ 40)))

/-- CAS, issued by a region sequencer or a resident core. -/
def execCas (slot addr compare new : Nat) (s : State) : Ans :=
  .next (s.atomicOut slot addr 8 fun b => if u64At b 0 = compare % 2 ^ 64 then natLe 8 new else b)

/-- XCHG. -/
def execXchg (slot addr v : Nat) (s : State) : Ans := .next (s.atomicOut slot addr 8 fun _ => natLe 8 v)

/-! ### BAR2, CXL.mem and CXL.cache (R645 to R658) -/

/-- Poisoned read data: its bytes are free. -/
def State.poisonedData (s : State) (n : Nat) : State :=
  let r := s.freshBytes n
  r.2.emit (.readData r.1 true)

/-- The end of HBM as the host reaches it. -/
def stackBytes : Nat := 2 ^ 36

/-- Whether a run of HBM touches an offline stack or pseudo-channel (R649): it lies in stacks and pseudo-channels of 1 GiB each. -/
def State.runOffline (s : State) (h n : Nat) : Bool := (List.range (ceilDiv (h % 2 ^ 30 + n) (2 ^ 30))).any fun k => s.haOffline (h + k * 2 ^ 30)

/-- BAR2_READ: reads DRAM, not the slices (R657); lines in an offline place return poison, their bytes are free, and the access is
counted (R649). -/
def execBar2Read (rid off : Nat) (run : BarRun) (s : State) : Ans :=
  if stackBytes < off + run.len then .fault .noSuchAddress
  else .next (s.hostRead rid fun s => s.withXfers run.hbm fun s =>
    let h := s.getF Fld.hifApStack 0 * stackBytes + off
    if s.runOffline h run.len then
      let r := (s.bump Fld.hifUrOther 0 1).freshBytes run.len
      r.2.emit (.readData (r.1.zipIdx.map fun b => if s.haOffline (h + b.2) then b.1 else memGet s.mem (h + b.2)) true)
    else s.emit (.readData (memGetRun s.mem h run.len)
      ((List.range (ceilDiv (h % 32 + run.len) 32)).any fun k => s.poison.contains (h / 32 + k) || s.hbm.badReads.contains (h / 32 + k))))

/-- The parts of a run of bytes that lie in pseudo-channels in service, each at its address (R649). -/
def State.onlineParts (s : State) (h : Nat) (bs : Bytes) : List (Nat × Bytes) :=
  (List.range (ceilDiv (h % 2 ^ 30 + bs.length) (2 ^ 30))).filterMap fun k =>
    let lo := max h (h / 2 ^ 30 * 2 ^ 30 + k * 2 ^ 30)
    if s.haOffline lo then none else some (lo, slice bs (lo - h) (2 ^ 30 - lo % 2 ^ 30))

/-- BAR2_WRITE: passes through the home slices (R657); what lies in an offline place is discarded, and the access is counted (R649). -/
def execBar2Write (rid off : Nat) (run : BarData) (s : State) : Ans :=
  if stackBytes < off + run.data.length then .fault .noSuchAddress
  else .next (s.hostWrite rid fun s => s.withXfers run.hbm fun s =>
    let h := s.getF Fld.hifApStack 0 * stackBytes + off
    if s.runOffline h run.data.length then
      (s.onlineParts h run.data).foldl (fun s p => s.sliceWrite p.1 p.2) (s.bump Fld.hifUrOther 0 1)
    else s.sliceWrite h run.data)

/-- A line enters the snoop filter; when it is full the device back-invalidates the least recently used entry to make room: until the
host has answered, that line is still one that the host may hold (R647). -/
def State.snoopIn (s : State) (line : Nat) : State :=
  let l := line :: s.host.snoop.filter (· != line)
  let s1 : State := { s with host := { s.host with snoop := l.take 1048576 } }
  match l.drop 1048576 with
  | v :: _ => if s.host.snoopOut.contains v then s1
      else ({ s1 with host := { s1.host with snoopOut := v :: s1.host.snoopOut } } : State).emit (.backInvalidate v)
  | [] => s1

/-- CXL_MEM_READ: one line through the slices (R477, R649, R813). -/
def execCxlMemRead (rid addr : Nat) (found : List SymErr) (fails : XferFail) (s : State) : Ans :=
  if hbmTop ≤ addr then .fault .noSuchAddress
  else .next (s.hostRead rid fun s =>
    let h := addr / 64 * 64
    if !s.flag Fld.hifCxlMem 0 then (s.bump Fld.hifUrOther 0 1).emit .unsupported
    else if s.haOffline h then (s.bump Fld.hifUrOther 0 1).poisonedData 64
    else
      let s1 := (s.xfersBegin.hbmXfer ⟨h, false, fails, found⟩).eccSecond h fails found
      let s2 := (s1.cacheRead (h / 64)).snoopIn (h / 64)
      (s2.emit (.readData (haRead64 s2 h) (s2.poisonAt h || s2.poisonAt (h + 32)))).xfersEnd)
where
  /-- A line through the slices. -/
  haRead64 (s : State) (h : Nat) : Bytes := (List.range 64).map fun k => s.sliceByte (h + k)

/-- CXL_MEM_WRITE: bytes of one line through the slices; a transfer whose retries all fail writes poison (R507). -/
def execCxlMemWrite (rid addr : Nat) (data : Bytes) (fails : XferFail) (s : State) : Ans :=
  if hbmTop ≤ addr ∨ 64 < addr % 64 + data.length then .fault .noSuchAddress
  else .next (s.hostWrite rid fun s =>
    if !s.flag Fld.hifCxlMem 0 || s.haOffline addr then s.bump Fld.hifUrOther 0 1
    else
      let s1 := (s.parityFails addr fails.fails).sliceWrite addr data
      if 4 < fails.fails then (s1.cleanLine (addr / 64)).poisonRun addr data.length else s1)

/-- The host has answered a snoop of a line: it holds the line no more, and the writes that waited for it take effect (R647). -/
def State.snoopAnswered (s : State) (line : Nat) : State :=
  let mine := s.host.heldWrites.filter fun w => w.line == line
  let s1 : State := { s with host := { s.host with
    snoop := setDel s.host.snoop line, snoopOut := setDel s.host.snoopOut line
    heldWrites := s.host.heldWrites.filter fun w => w.line != line } }
  mine.foldl State.landWrite s1

/-- CXL_CACHE_SNOOP: the host snoops a host line (R648). -/
def execCxlCacheSnoop (line : Nat) (s : State) : Ans :=
  .next (s.ifB s.busUp fun s =>
    ({ s with host := { s.host with hostLines := setDel s.host.hostLines line } } : State).emit
      (.snoopAnswer line (s.host.hostLines.contains line)))

/-! ### Register reads that wait for memory -/

/-- Every merging-buffer entry goes to DRAM; the count of entries is answered (R658). -/
def State.drainAll (s : State) : State × Nat := (s.mb.foldl State.mbToDram s, s.mb.length)

/-- HIF_APERTURE_SYNC: a 64-bit host read (R658). -/
def execHifApertureSync (rid : Nat) (s : State) : Ans :=
  .next (s.regRead rid fun s =>
    let r := s.drainAll
    let s1 := r.1.setF Fld.hifApDrained 0 (satNat r.2 (2 ^ 32 - 1))
    s1.emit (.readData (natLe 8 (s1.rd .hifApertureSync 0)) false))

/-- HIF_DMA_FENCE: a 64-bit host read; every access of an earlier command has completed, so it waits for none (R663). -/
def execHifDmaFence (rid : Nat) (s : State) : Ans :=
  .next (s.regRead rid fun s => (s.setF Fld.hifDmaWaited 0 0).emit (.readData (natLe 8 0) false))

end Sys2Proof.Machine
end

