-- ==== Sys2Proof/Machine/Clock.lean ====
section
/-! DEFINITION. The time counter (R730 to R743): its advance, locking, slewing and stepping, PPS_IN, and the choice of a time
parent (R619, R620). -/

namespace Sys2Proof.Machine

/-! ### The counter -/

/-- The counter in units of 10^-8 ns. -/
def State.ctr (s : State) : Nat := s.now * 10 ^ 8 + s.time.sub

def State.setCtr (s : State) (v : Nat) : State :=
  let s1 := s.wr .timeNs 0 (v / 10 ^ 8)
  { s1 with time := { s1.time with sub := v % 10 ^ 8 } }

/-- The fraction of the counter in units of 2^-16 ns. -/
def State.fracFine (s : State) : Nat := s.time.sub * 2 ^ 16 / 10 ^ 8

/-- The counter in units of 2^-16 ns: a stamp (R621). -/
def State.nowFine (s : State) : Nat := s.now * 2 ^ 16 + s.fracFine

def State.updTime (s : State) (f : TimeSt → TimeSt) : State := { s with time := f s.time }

/-- The rate adjustment in units of 0.01 ppm. -/
def State.timeRateAdj (s : State) : Int := sextNat 16 (s.getF Fld.timeRate 0)

/-- A chase whose counter stands at the boundary of a pending step adopts the step (R742): boundaries that a forward step passes are
slipped, and the interval that the counter then stands in is such a one (R113); the times that the chase has fixed move with the
counter. -/
def State.adoptStep (s : State) (c : Nat) : State :=
  match (s.chase c).pendingStep with
  | none => s
  | some d =>
    let x := s.chase c
    if s.chaseNow c < s.boundary c x.stepAt then s
    else
      let b := s.boundary c (x.stepAt + 1)
      let past := if s.now < b then 0 else (s.now - b) / s.periodNs c + 1
      let moved (t : Nat) : Nat := (((t : Nat) : Int) + d).toNat
      let s1 := s.updChase c fun x => { x with
        pendingStep := none, skipFrom := x.stepAt + 1, skipTo := x.stepAt + 1 + past, strokeStart := moved x.strokeStart
        judge := if x.stepAt < x.judge then max x.judge (x.stepAt + 1 + past) else x.judge
        verdict := x.verdict.map fun v => (v.1, moved v.2), goShift := if x.verdict.isSome then x.goShift + d else 0 }
      if past = 0 then s1 else (s1.bumpWrap Fld.stkSlipStep c past).setF Fld.stkSlipping c 1

/-- Every chase adopts the step that its boundary has come for. -/
def State.adoptSteps (s : State) : State :=
  if s.chases.any fun x => x.pendingStep.isSome then (List.range 16).foldl State.adoptStep s else s

/-- What the counter gains in a nanosecond of true time, in units of 10^-8 ns: the rate adjustment less the frequency estimate, which is
what SYSCLK_25M is off by (DESIGN CHOICE, log 80): the correction alone, at most 50 ppm (R740, R743). -/
def State.gain (s : State) : Nat := (10 ^ 8 + s.timeRateAdj - s.time.freq).toNat

/-- Time passes: a mailbox command that ran completes (R749; DESIGN CHOICE, log 11). -/
def State.mbEnds (s : State) : State := if s.flag Fld.secMbBusy 0 then s.setF Fld.secMbBusy 0 0 else s

/-- One nanosecond passes: the uptime counts, a mailbox command ends, and the counter advances while it has power and SYSCLK_25M (R730). -/
def State.tick (s : State) : State :=
  let s1 : State := { s.mbEnds with upNs := s.upNs + 1 }
  if s.pw.pwrGood && s.pw.sysclk then (s1.setCtr (s.ctr + s.gain)).adoptSteps else s1

/-- Time passes until the counter stands at `t` at least, as it does before an event that comes at a time (R108). -/
def State.passTo (s : State) (t : Nat) : State :=
  (if s.now < t ∧ s.pw.pwrGood = true ∧ s.pw.sysclk = true then
    ({ s.mbEnds with upNs := s.upNs + (t - s.now) } : State).setCtr (t * 10 ^ 8) else s).adoptSteps

/-- Time passes until a chase counts `t` (R112). -/
def State.chaseTo (s : State) (c t : Nat) : State := s.passTo (((t : Nat) : Int) + (s.chase c).pendingStep.getD 0).toNat

/-- Time passes until a chase counts what is `due`; a boundary before that, at which it adopts a step, comes first (R742). -/
def State.chaseDue (s : State) (c : Nat) (due : State → Nat) : State :=
  let b := s.boundary c (s.chase c).stepAt
  let s1 := if (s.chase c).pendingStep.isSome && decide (b ≤ due s) then s.chaseTo c b else s
  s1.chaseTo c (due s1)

/-! ### Locking -/

def tsFree : Nat := 0
def tsAcquiring : Nat := 1
def tsPps : Nat := 2
def tsLink : Nat := 3
def tsHoldover : Nat := 4

def State.timeSt (s : State) : Nat := s.getF Fld.timeState 0

/-- The first boundary of a chase after a time. -/
def State.boundaryAfter (s : State) (c t : Nat) : Nat := if t < s.boundary c 0 then 0 else (t - s.boundary c 0) / s.periodNs c + 1

/-- The counter has changed at once by `d` ns: running chases adopt that at their next boundary (R742, R840). -/
def State.shiftChases (s : State) (d : Int) : State :=
  let before := (((s.now : Nat) : Int) - d).toNat
  (List.range 16).foldl (fun s c =>
    if s.csStriking c then s.updChase c fun x => { x with
      pendingStep := some (x.pendingStep.getD 0 + d)
      stepAt := if x.pendingStep.isSome then x.stepAt else s.boundaryAfter c before }
    else s) s

/-- Remove an error of `e` units of 2^-16 ns from the counter at once; the whole nanoseconds that it moved by come with it. The stamps of
past edges move with the counter, so that their distance in time stays (R734, R737). -/
def State.removeErr (s : State) (e : Int) : State × Int :=
  let v := (((s.ctr : Nat) : Int) - e * 10 ^ 8 / 2 ^ 16).toNat
  let s1 := (s.setCtr v).updTime fun t => { t with lastEdge := t.lastEdge.map (· - e), rejects := t.rejects.map (· - e) }
  (s1, ((s1.now : Nat) : Int) - ((s.now : Nat) : Int))

/-- The rate is the frequency estimate, within the ±20 ppm of SYSCLK_25M (R854), plus a correction of at most 50 ppm against the error, or, below 16 ns, the tracking
loop's; how the estimate and the loop are computed is open (R740): free values. -/
def State.slew (s : State) (e : Int) : State :=
  let a := s.fresh
  let b := a.2.fresh
  let freq : Int := (((a.1 % 4001 : Nat) : Int) - 2000)
  let corr : Int := if 16 * 2 ^ 16 ≤ e then -((1 + b.1 % 5000 : Nat) : Int)
    else if e ≤ -(16 * 2 ^ 16) then ((1 + b.1 % 5000 : Nat) : Int) else ((b.1 % 10001 : Nat) : Int) - 5000
  (b.2.updTime fun t => { t with freq := freq }).setF Fld.timeRate 0 (patOf 16 (freq + corr))

/-- Whether a step is allowed (R741). -/
def State.stepAllowed (s : State) : Bool :=
  let p := s.getF Fld.timeStepPolicy 0
  p == 2 || (p == 1 && !(List.range 16).any fun c => s.csActive c)

/-- The device measures a phase error of `e` units of 2^-16 ns (R740 to R742). -/
def State.measure (s : State) (e : Int) : State :=
  let ns := e / 2 ^ 16
  let s0 := s.setF Fld.timeErr 0 (patOf 32 (clampInt ns (-(2 ^ 31)) (2 ^ 31 - 1)))
  let big := decide (10 ^ 6 * 2 ^ 16 < e) || decide (e < -(10 ^ 6 * 2 ^ 16))
  if big && s.stepAllowed then
    let r := s0.removeErr e
    ((r.1.shiftChases r.2).bump Fld.timeSteps 0 1).setFs 0 [(Fld.timeLastStep, patOf 48 r.2), (Fld.timeStepHeld, 0)]
  else (s0.slew e).setF Fld.timeStepHeld 0 (natOfBool big)

/-- The first lock since the COLD reset sets the counter by `e` units of 2^-16 ns; it is not a step (R739, R840). -/
def State.firstLock (s : State) (e : Int) : State :=
  let r := s.removeErr e
  (((r.1.shiftChases r.2).updTime fun t => { t with locked := true }).setF Fld.timeNextValid 0 0).setF Fld.timeErr 0
    (patOf 32 (clampInt (e / 2 ^ 16) (-(2 ^ 31)) (2 ^ 31 - 1)))

/-- The time condition of READY is met: SYS_RDY_NO_TIME clears (R837, R838). -/
def State.noteTime (s : State) : State :=
  if s.timeSt = tsPps ∨ s.timeSt = tsLink then s.setFs 0 [(Fld.sysDoneTime, 1), (Fld.sysRdyNoTime, 0)] else s

/-- HOLDOVER begins (R738). -/
def State.holdover (s : State) : State := (s.setF Fld.timeState 0 tsHoldover).bump Fld.timeHoldovers 0 1

/-! ### The time parent (R619, R620) -/

/-- The link is LINKED or ACTIVE. -/
def State.linkRuns (s : State) (l : Nat) : Bool := s.getF Fld.hlkLkState l == lkLinked || s.getF Fld.hlkLkState l == lkActive

/-- The eligible neighbours: hop count, serial number, link. -/
def State.parentCands (s : State) : List (Nat × Nat × Nat) :=
  s.fab.links.filterMap fun e => match e.2.peer with
    | some p => if s.linkRuns e.1 && decide (p.hops < s.getF Fld.hlkTtMaxHops 0) then some (p.hops, p.serial, e.1) else none
    | none => none

def lexLt (a b : Nat × Nat × Nat) : Bool :=
  decide (a.1 < b.1) || (a.1 == b.1 && (decide (a.2.1 < b.2.1) || (a.2.1 == b.2.1 && decide (a.2.2 < b.2.2))))

/-- Choose the parent again: the fewest hops, then the lower serial number, then the lower link. A device that followed a
parent and has none enters holdover (R620). -/
def State.chooseParent (s : State) : State :=
  if s.timeSt = tsPps then s.setFs 0 [(Fld.hlkTtHasParent, 0), (Fld.hlkTtParentLink, 0), (Fld.hlkTtHops, 0)]
  else
    match s.parentCands.foldl (fun m x => match m with
        | none => some x
        | some y => if lexLt x y then some x else some y) none with
    | some p => s.setFs 0 [(Fld.hlkTtHasParent, 1), (Fld.hlkTtParentLink, p.2.2), (Fld.hlkTtHops, p.1 + 1)]
    | none =>
      let s1 := s.setFs 0 [(Fld.hlkTtHasParent, 0), (Fld.hlkTtParentLink, 0), (Fld.hlkTtHops, 255)]
      if s.timeSt = tsLink then s1.holdover else s1

/-- The serial number at the root of this device's time: its own when PPS-locked (R624). -/
def State.timeRoot (s : State) : Nat :=
  if s.timeSt = tsPps then Config.serial.toNat
  else if s.flag Fld.hlkTtHasParent 0 then ((s.link (s.getF Fld.hlkTtParentLink 0)).peer.map Hello.root).getD 0 else 0

/-- A TIME exchange with the parent has measured an offset: the first lock sets the counter, every other one slews or steps
(R622, R739). -/
def State.linkOffset (s : State) (e : Int) : State :=
  let s1 := if s.time.locked then s.measure e else s.firstLock e
  (s1.setF Fld.timeState 0 tsLink).noteTime

/-! ### PPS_IN (R733 to R739) -/

def second : Nat := 10 ^ 9 * 2 ^ 16

/-- The distance of a stamp from the nearest whole second of the counter. -/
def secondErr (stamp : Int) : Int :=
  let r := stamp % second
  if 2 * r < second then r else r - second

/-- Within ±100 µs. -/
def near (e : Int) : Bool := decide (-(10 ^ 5 * 2 ^ 16) ≤ e) && decide (e ≤ 10 ^ 5 * 2 ^ 16)

/-- An edge is rejected; more than 8 within one second of the counter are a storm (R737). -/
def State.rejectEdge (s : State) (f : Field) (stamp : Nat) : State :=
  let l := (s.time.rejects.filter fun t => decide (((stamp : Nat) : Int) < t + ((second : Nat) : Int))) ++ [((stamp : Nat) : Int)]
  let s1 := (s.bump f 0 1).updTime fun t => { t with rejects := l }
  if 8 < l.length then ((s1.setF Fld.timeStorm 0 1).bump Fld.timeStorms 0 1).updTime fun t => { t with good := 0 } else s1

/-- An edge is accepted as a reference. -/
def State.refEdge (s : State) (stamp good : Nat) : State :=
  s.updTime fun t => { t with lastEdge := some ((stamp : Nat) : Int), good := good, accepted := true }

/-- LOCKED_PPS is entered at an edge: the first lock sets the counter, a later one removes the error (R739). -/
def State.lockPps (s : State) (stamp : Nat) : State :=
  let s0 := s.refEdge stamp 0
  let s1 := if s.time.locked then s0.measure (secondErr stamp)
    else
      let target := if s.flag Fld.timeNextValid 0 then s.getF Fld.timeNext 0 * second else (stamp + second - 1) / second * second
      s0.firstLock (((stamp : Nat) : Int) - ((target : Nat) : Int))
  (s1.setF Fld.timeState 0 tsPps).chooseParent.noteTime

/-- A rising edge of PPS_IN stamped on the counter. -/
def State.ppsEdge (s : State) (stamp : Nat) : State :=
  let st := s.timeSt
  let since := s.time.lastEdge.map fun t => ((stamp : Nat) : Int) - t
  if (since.map fun d => decide (2 * d < ((second : Nat) : Int))).getD false then s.rejectEdge Fld.timePpsEarly stamp
  else if st = tsPps ∨ (st = tsHoldover ∧ (since.map fun d => decide (d ≤ 60 * ((second : Nat) : Int))).getD false) then
    if near (secondErr stamp) then
      if st = tsPps then (s.refEdge stamp 0).measure (secondErr stamp) else s.lockPps stamp
    else s.rejectEdge Fld.timePpsOutside stamp
  else
    let s1 := if st = tsFree ∨ st = tsHoldover then s.setF Fld.timeState 0 tsAcquiring else s
    match since with
    | some d =>
      if near (d - ((second : Nat) : Int)) then
        if 1 ≤ s.time.good then s1.lockPps stamp else s1.refEdge stamp 1
      else s1.refEdge stamp 0
    | none => s1.refEdge stamp 0

/-- PPS_EDGE: PPS_IN rises after `low` ns of low level (R733 to R739). -/
def execPpsEdge (low : Nat) (s : State) : Ans :=
  .next (s.ifB (s.isUp && decide (1000 ≤ low) && s.flag Fld.timePpsEn 0 && !s.flag Fld.timeStorm 0) fun s =>
    s.ppsEdge (((s.nowFine : Nat) : Int) - sextNat 32 (s.getF Fld.timePpsComp 0) * 2 ^ 16 / 1000).toNat)

/-- STORM_END: 10 s have passed with no two edges less than 500 ms apart (R737). -/
def execStormEnd (s : State) : Ans :=
  .next (s.ifB (s.live && s.flag Fld.timeStorm 0) fun s =>
    (s.setF Fld.timeStorm 0 0).updTime fun t => { t with lastEdge := none, good := 0, rejects := [] })

/-- PPS_TIMEOUT: 1.5 s without an accepted edge in LOCKED_PPS (R738). -/
def execPpsTimeout (s : State) : Ans :=
  .next (s.ifB (s.live && s.timeSt == tsPps) fun s =>
    let s1 := (s.setF Fld.timeState 0 tsLink).updTime fun t => { t with good := 0 }
    s1.chooseParent)

/-- TIME_NS: a read of the counter latches the fraction (R731). -/
def State.readTimeNs (s : State) : State := s.setF Fld.timeFrac 0 s.fracFine

end Sys2Proof.Machine
end

