-- ==== Sys2Proof/Machine/Ticket.lean ====
section
/-! DEFINITION. Tickets: the DMA windows (R660 to R663), the layout of a ticket and its checks (R675 to R678, R880 to R882),
reading sources and delivering results (R812 to R814), and acting on a begun ticket. -/

namespace Sys2Proof.Machine

/-! ### DMA windows -/

/-- A window grants an access to a host page (R660). -/
def State.pageGranted (s : State) (write : Bool) (page : Nat) : Bool :=
  decide (page < 2 ^ 52) && (List.range 64).any fun w =>
    let b := s.getF Fld.hifWinBase w
    decide (b ≤ page) && decide (page < b + s.getF Fld.hifWinLen w) && s.flag (if write then Fld.hifWinW else Fld.hifWinR) w

/-- The host pages of a run. -/
def pagesOf (a n : Nat) : List Nat := (List.range (ceilDiv (a % 4096 + n) 4096)).map (a / 4096 + ·)

/-- An access that is not issued (R662). -/
def State.blockedAccess (s : State) (page : Nat) : State :=
  ((s.bump Fld.hifBlkCount 0 1).setF Fld.hifBlkPage 0 page).eventDma

/-- Host lines enter the host-line cache, the least recently used giving way (R648). -/
def State.noteHostLines (s : State) (a n : Nat) : State :=
  let l := (List.range (ceilDiv (a % 64 + n) 64)).foldl (fun l k => (a / 64 + k) :: l.filter (· != a / 64 + k)) s.host.hostLines
  { s with host := { s.host with hostLines := l.take 16384 } }

/-- Read host memory inside the windows; an unlisted host byte is zero in the model. -/
def State.hostGet (s : State) (a n : Nat) : State × Option Bytes :=
  if n = 0 then (s, some [])
  else match (pagesOf a n).find? fun p => !s.pageGranted false p with
    | some p => (s.blockedAccess p, none)
    | none => (if s.flag Fld.hifCacheFetch 0 then s.noteHostLines a n else s, some (memGetRun s.hostMem a n))

/-- Write pieces of host memory, each within a page, as far as the windows allow. -/
def State.hostPutPieces : State → List (Nat × Bytes) → State × Bool
  | s, [] => (s, true)
  | s, p :: t =>
    if s.pageGranted true (p.1 / 4096) then State.hostPutPieces { s with hostMem := memPutRun s.hostMem p.1 p.2 } t
    else (s.blockedAccess (p.1 / 4096), false)

/-- Write host memory: false where a window did not allow it; what was written before stays (R662). -/
def State.hostPut (s : State) (a : Nat) (bs : Bytes) : State × Bool :=
  s.hostPutPieces (framePiecesOf (bs.length / 4096 + 2) a bs)

/-- The host's own stores to its memory. -/
def State.hostStores (s : State) (l : List (Nat × Byte)) : State :=
  { s with hostMem := l.foldl (fun m e => memPut m e.1 e.2) s.hostMem }

/-! ### The layout of a ticket (R675) -/

def tkSeq (b : Bytes) : Nat := u32At b 4
def tkTag (b : Bytes) : Nat := u64At b 8
def tkInlineLen (b : Bytes) : Nat := u16At b 18
def tkCrc (b : Bytes) : Nat := u32At b 20
def tpSrc (b : Bytes) : Nat := u64At b 32
def tpDst (b : Bytes) : Nat := u64At b 40
def tpLen (b : Bytes) : Nat := u64At b 48
def tpSrcSpace (b : Bytes) : Nat := u8At b 56
def tpDstSpace (b : Bytes) : Nat := u8At b 57
def tpSub (b : Bytes) : Nat := u16At b 58
def tkInline (b : Bytes) : Bytes := slice b 128 384
def tkFence (b : Bytes) : Bool := bitOf (tkFlags b) 0
def tkIrq (b : Bytes) : Bool := bitOf (tkFlags b) 1
def tkAllPaths (b : Bytes) : Bool := bitOf (tkFlags b) 2
def tkDelivery (b : Bytes) : Nat := bitsOf (tkFlags b) 4 3

/-- The CRC that a ticket must carry (R666). -/
def ticketCrc (b : Bytes) : Nat := crc32c (patch b 20 [0, 0, 0, 0])

/-- What a row of the table of ticket opcodes names (R678): whether it has a slot (none: MR_REGISTER, R880), the spaces
that its source may take, its destination (0 none, 1 by TK_DELIVERY, 2 space 2), the bits of TP_SUB, whether it names
TP_ARG0, and the bytes of TP_ARGS. -/
structure TicketForm where
  slot : Option Bool
  src : List Nat
  dst : Nat
  sub : Nat
  arg0 : Bool
  args : List Nat
  deriving DecidableEq, Repr

/-- The opcode's row; none for any other code. -/
def ticketForm (op : Nat) : Option TicketForm :=
  match op with
  | 0x00 => some ⟨some false, [], 0, 0, false, []⟩
  | 0x01 => some ⟨some true, [0, 1, 2, 3], 0, 0, false, []⟩
  | 0x02 | 0x03 | 0x04 => some ⟨some true, [], 0, 0, false, []⟩
  | 0x10 => some ⟨some true, [0, 1, 2, 3], 0, 3, false, []⟩
  | 0x11 => some ⟨some true, [], 0, 0, true, []⟩
  | 0x12 => some ⟨some true, [], 1, 0, true, [0, 1, 2, 3, 8, 9, 10, 11, 12, 13, 14, 15]⟩
  | 0x20 => some ⟨some true, [0, 1, 2, 3], 2, 0xF, false, []⟩
  | 0x21 => some ⟨some true, [2], 1, 0, false, []⟩
  | 0x30 => some ⟨some true, [0, 1, 3], 1, 0, true, [0, 1, 2, 3, 4, 5, 8, 9, 10, 11]⟩
  | 0x40 => some ⟨some true, [0, 1], 0, 0, false, []⟩
  | 0x50 => some ⟨some true, [], 0, 0x403F, true, [0, 1]⟩
  | 0x51 => some ⟨some true, [], 0, 0x3F, true, []⟩
  | 0x60 => some ⟨some true, [0, 1], 0, 0, false, []⟩
  | 0x61 => some ⟨some false, [], 0, 0, true, []⟩
  | 0x62 => some ⟨none, [2, 3], 0, 3, false, []⟩
  | 0x63 => some ⟨some false, [], 0, 0, true, []⟩
  | 0x70 => some ⟨some false, [], 0, 0, false, []⟩
  | _ => none

/-- The length of the source range: the records of GALLEY_LOAD and QP_CREATE are 64 bytes. -/
def srcLen (b : Bytes) : Nat := if tkOpcode b = 0x10 ∨ tkOpcode b = 0x60 then 64 else tpLen b

/-- Whether a ticket breaks its layout (R675, R676, R677, R678, R880, R881, R882). -/
def layoutBad (f : TicketForm) (b : Bytes) : Bool :=
  bitsOf (tkFlags b) 15 5 != 0 || decide (2 ≤ tkDelivery b) || u8At b 17 != 0 || decide (384 < tkInlineLen b) ||
    u64At b 24 != 0 || decide (4 < tpSrcSpace b) || decide (4 < tpDstSpace b) ||
    (!f.src.isEmpty && !f.src.contains (tpSrcSpace b)) || (f.dst == 2 && tpDstSpace b != 2) ||
    (f.dst == 1 && tpDstSpace b != 1 + 2 * tkDelivery b) ||
    (match f.slot with
      | some true => decide (16 ≤ tkSlot b)
      | some false => tkSlot b != 0
      | none => if tpSrcSpace b = 3 then tkSlot b != 0 else decide (16 ≤ tkSlot b)) ||
    tpSub b &&& f.sub != tpSub b || (!f.arg0 && tpArg0 b != 0) ||
    ((tpArgs b).zipIdx.any fun e => e.1 != 0 && !f.args.contains e.2) || (tkOpcode b == 0x10 && tpSub b == 0) ||
    (tkOpcode b == 0x20 && bitsOf (tpSub b) 1 0 != 1 && bitsOf (tpSub b) 3 2 != 0) ||
    (!f.src.isEmpty && tpSrcSpace b == 0 && decide (tkInlineLen b < tpSrc b + srcLen b))

/-- Whether a ticket uses space 3 (R676). -/
def usesPool (f : TicketForm) (b : Bytes) : Bool :=
  (!f.src.isEmpty && tpSrcSpace b == 3) || (f.dst != 0 && tpDstSpace b == 3) || (tkOpcode b == 0x10 && tpSub b == 3)

/-- A run of chase addresses of a slot passes R882. -/
def State.chaseRunOk (s : State) (c a n : Nat) : Bool :=
  s.cs c != csEmpty && !(s.forme c).isEmpty && (n == 0 || (decide (4096 ≤ a) && decide (a + n ≤ 2 ^ 44)))

/-- A run of HBM addresses lies in the host pool (R659, R882). -/
def State.poolRunOk (s : State) (a n : Nat) : Bool :=
  let b := s.getF Fld.hifPoolBaseGib 0
  decide (b * 2 ^ 30 ≤ a) && decide (a + n ≤ (b + s.getF Fld.hifPoolLenGib 0) * 2 ^ 30)

/-- A run in a space passes R882. -/
def State.runOk (s : State) (c space a n : Nat) : Bool :=
  if space = 2 then s.chaseRunOk c a n else if space = 3 then s.poolRunOk a n else true

/-- Where a delivered result goes and its length: SAMPLE delivers TP_ARGS bytes 8 to 11 for this member's stretch. -/
def State.resultRun (s : State) (b : Bytes) : Nat × Nat :=
  let c := tkSlot b
  if tkOpcode b = 0x30 then
    let o := u32At (tpArgs b) 8
    (tpDst b + (s.ordinal c - u16At (tpArgs b) 0) * o, o)
  else if tkOpcode b = 0x12 then
    match galDecl (s.forme c) (tpArg0 b) with
    | some d => (tpDst b, tpLen b * (gdRow d + 1))
    | none => (tpDst b, 0)
  else (tpDst b, tpLen b)

/-- The first check that a ticket fails before its work (R675 to R677, R699, R882), or none: the space that a ring may not use
comes before the rest of the layout. -/
def State.ticketCheck (s : State) (ring : Nat) (b : Bytes) : Option Nat :=
  match ticketForm (tkOpcode b) with
  | none => some stBadTicket
  | some f =>
    let d := s.resultRun b
    if usesPool f b && !(decide (ring < 256) && s.flag Fld.hifRgDriver ring) then some stPrivilege
    else if layoutBad f b then some stBadTicket
    else if f.dst == 1 && tkDelivery b == 1 && !s.flag Fld.hifCxlMem 0 then some stPath
    else if (!f.src.isEmpty && !s.runOk (tkSlot b) (tpSrcSpace b) (tpSrc b) (srcLen b)) ||
        (f.dst != 0 && !s.runOk (tkSlot b) (tpDstSpace b) d.1 d.2) then some stRange
    else none

/-! ### Begun tickets -/

/-- A begun ticket. -/
def State.ticket? (s : State) (ring seq : Nat) : Option Ticket :=
  s.host.tickets.find? fun t => t.ring == ring && t.seq == seq

/-- A chase ticket opcode. -/
def isChaseTicket (op : Nat) : Bool := decide (1 ≤ op) && decide (op ≤ 4)

/-- Every earlier chase ticket of the ring for the slot has completed its effect (R93). -/
def State.chaseOrderOk (s : State) (t : Ticket) : Bool :=
  let earlier := s.host.tickets.takeWhile fun x => !(x.ring == t.ring && x.seq == t.seq)
  earlier.all fun x => !(x.ring == t.ring && isChaseTicket (tkOpcode x.raw) && tkSlot x.raw == tkSlot t.raw) || x.done ||
    (tkOpcode x.raw == tkChaseStart && x.acted)

/-- A galley ticket waits while its slot is VALIDATING (R332). -/
def State.galleyWaits (s : State) (t : Ticket) : Bool :=
  decide (0x10 ≤ tkOpcode t.raw) && decide (tkOpcode t.raw ≤ 0x12) && s.cs (tkSlot t.raw) == csValidating

/-- Act on a begun ticket of an opcode: it must not have acted; a failed check completes it (R675). -/
def State.ticketAct (s : State) (ring seq op : Nat) (f : Ticket → State → State) : State :=
  match s.ticket? ring seq with
  | none => s
  | some t =>
    if !s.isReady || t.acted || t.done || tkOpcode t.raw != op || (isChaseTicket op && !s.chaseOrderOk t) || s.galleyWaits t then s
    else match s.ticketCheck ring t.raw with
      | some st => s.finishTicket ring seq st []
      | none => f t (s.updTicket ring seq fun t => { t with acted := true })

/-- Fix a ticket's outcome. -/
def State.done (s : State) (t : Ticket) (status : Nat) (detail : Bytes) : State := s.finishTicket t.ring t.seq status detail

/-! ### Sources and results -/

/-- The poisoned parts of a run of sectors: offset and length of each. -/
def badParts (p : Nat → Bool) (a n : Nat) : List (Nat × Nat) :=
  (List.range (ceilDiv (a % 32 + n) 32)).filterMap fun k =>
    let lo := max a (a / 32 * 32 + 32 * k)
    if p lo then some (lo - a, min (a + n) (a / 32 * 32 + 32 * k + 32) - lo) else none

/-- A run of HBM through the slices. -/
def State.haRead (s : State) (a n : Nat) : Bytes := (List.range n).map fun k => s.devByte (a + k)

/-- Read a run in a space: its bytes and its poisoned parts; none where a window blocks it. -/
def State.srcRead (s : State) (t : Ticket) (space a n : Nat) : State × Option (Bytes × List (Nat × Nat)) :=
  let c := tkSlot t.raw
  if space = 0 then (s, some (slice (tkInline t.raw) a n, []))
  else if space = 1 then
    let r := s.hostGet a n
    (r.1, r.2.map fun b => (b, []))
  else if space = 2 then ((s.noteDma c a n), some ((s.chaseRead c a n).1, badParts (s.chasePoison c) a n))
  else (s.cacheHa a n, some (s.haRead a n, badParts s.devBad a n))

/-- Read the ticket's own source and go on with it; a blocked read completes the ticket with WINDOW. -/
def State.withSource (s : State) (t : Ticket) (n : Nat) (f : State → Bytes → List (Nat × Nat) → State) : State :=
  match s.srcRead t (tpSrcSpace t.raw) (tpSrc t.raw) n with
  | (s1, some (b, bad)) => f s1 b bad
  | (s1, none) => s1.done t stWindow []

/-- A ticket's write to chase data, frame by frame: it stops at a frame that cannot be backed (R882). -/
def State.ticketWrite (s : State) (c : Nat) : List (Nat × Bytes) → State × Bool
  | [] => (s, true)
  | p :: ps => match s.chaseWrite c p.1 p.2 with
    | (s1, true) => s1.ticketWrite c ps
    | (s1, false) => (s1.bump Fld.impNoFrame c 1, false)

/-- The 64-byte lines of a result that hold a poisoned byte are zeros (R813). -/
def zeroBadLines (dst : Nat) (bs : Bytes) (bad : List (Nat × Nat)) : Bytes :=
  let lines := (bad.flatMap fun b => (List.range (ceilDiv ((dst + b.1) % 64 + b.2) 64)).map ((dst + b.1) / 64 + ·)).eraseDups
  if lines.isEmpty then bs else bs.zipIdx.map fun e => if lines.contains ((dst + e.2) / 64) then 0 else e.1

/-- Deliver a result by TK_DELIVERY: false where a window blocks it (R662, R687, R688, R812, R813). -/
def State.deliver (s : State) (t : Ticket) (dst : Nat) (bs : Bytes) (bad : List (Nat × Nat)) : State × Bool :=
  let s1 := if bad.isEmpty then s
    else s.updTicket t.ring t.seq fun t => { t with
      flags := t.flags ||| 4, poisonAt := if tkDelivery t.raw = 0 then t.poisonAt <|> bad.head?.map (·.1) else t.poisonAt }
  if tkDelivery t.raw = 0 then s1.hostPut dst (zeroBadLines dst bs bad)
  else
    let s2 := bad.foldl (fun s b => s.devPoison (dst + b.1) b.2) (s1.devWrite dst bs)
    (s2.updTicket t.ring t.seq fun t => { t with dst := dst, len := bs.length }, true)

/-- Every result line of a ticket delivered to HBM has entered its slice: no write of it waits for the host (R688). -/
def State.resultIn (s : State) (t : Ticket) : Bool :=
  s.host.heldWrites.all fun w => decide (w.addr + w.data.length ≤ t.dst) || decide (t.dst + t.len ≤ w.addr)

/-- A ticket whose result lines must be in DRAM before its proof (R677, R689). -/
def tkDrains (b : Bytes) : Bool :=
  tkAllPaths b && tkDelivery b == 1 && (match ticketForm (tkOpcode b) with | some f => f.dst == 1 | none => false)

/-- The result lines are written to DRAM (R689). -/
def State.drainResult (s : State) (t : Ticket) : State :=
  (s.mb.filter fun e => decide (t.dst / 64 ≤ e.line) && decide (64 * e.line < t.dst + t.len)).foldl State.mbToDram s

/-! ### NOP -/

/-- NOP: nothing happens, and the ticket completes. -/
def execNop (ring seq : Nat) (s : State) : Ans := .next (s.ticketAct ring seq 0x00 fun t s => s.done t stOk [])

end Sys2Proof.Machine
end

