-- ==== Sys2Proof/Machine/Galley.lean ====
section
/-! DEFINITION. Galleys: loading (R322 to R327, R878), switch requests (R328 to R334) and GALLEY_READ (R879). -/

namespace Sys2Proof.Machine

/-! ### The incoming state -/

/-- Seal the incoming state. -/
def GalleySt.seal (g : GalleySt) : GalleySt :=
  { g with states := g.states.map fun x => if x.stage = 0 then { x with stage := 1 } else x }

/-! ### Switching (R328 to R334) -/

/-- The root records a switch request of a member; state 0 cancels it (R328, R331). -/
def State.noteSwitch (s : State) (c ordinal id num : Nat) : State :=
  s.updChase c fun x =>
    let rest := x.switchReqs.filter fun r => !(r.1 == id && r.2.1 == ordinal)
    { x with switchReqs := if num = 0 then rest else rest ++ [(id, ordinal, num)] }

/-- A member tells the root of its request or its cancelling. -/
def State.tellRoot (s : State) (c id num : Nat) : State :=
  if s.ordinal c = 0 then s.noteSwitch c 0 id num else s.sendCtl c 0 ctlSwitchReq (words [s.ordinal c, id, num])

/-- A pending request goes to the root once the member holds fewer than two draining states (R328). -/
def State.offerSwitch (s : State) (c id : Nat) : State :=
  match s.galley c id with
  | some g => if g.pending && g.named.isNone && decide (g.draining < 2) && s.csActive c then
      match g.incoming with
      | some x => s.tellRoot c id x.num
      | none => s
    else s
  | none => s

/-- The guest copies of a galley whose slot frame the owner's new state shares, for a switch that commits outside a lock-up: the other
member knows it, and its answer is free (R443, R455; log 149). -/
def State.idlePeers (s : State) (c id : Nat) : List GuestCopy :=
  match (s.galley c id).bind GalleySt.incoming with
  | some x => ((s.chase c).guests.filter fun u => u.galley == id && Config.guestShared c id u.slug x.num).map fun u =>
      ⟨id, u.slug, x.num, Slug.zero⟩
  | none => []

/-- Commit the switch of a galley at once in an idle chase, when it holds fewer than two draining states (R332, R334). -/
def State.commitIdle (s : State) (c id : Nat) : State :=
  match s.galley c id with
  | some g => if g.pending && decide (g.draining < 2) then (s.commitSwitch c id (s.idlePeers c id)).freeDraining c id else s
  | none => s

/-- Request a switch of a galley that has an incoming state: it is sealed (R328, R332). -/
def State.requestSwitch (s : State) (c id : Nat) : State :=
  match s.galley c id with
  | none => s
  | some g =>
    let s1 := s.setGalley c id { g.seal with pending := true }
    if s1.csActive c then s1.offerSwitch c id else s1.commitIdle c id

/-- Discard the incoming state and a request that is not named (R331). -/
def State.abortGalley (s : State) (c id : Nat) : State :=
  match s.galley c id with
  | none => s
  | some g =>
    let s1 := (s.dropIncoming c id).updGalley c id fun g => { g with pending := false }
    if g.pending && s.csActive c then s1.tellRoot c id 0 else s1

/-- A ticket that may have read a draining state of an idle chase has completed: what nothing references goes (R334). -/
def State.readsEnded (s : State) (t : Ticket) : State :=
  let c := tkSlot t.raw
  if tkOpcode t.raw == 0x12 && !s.csActive c then s.freeDraining c (tpArg0 t.raw) else s

/-! ### Loading rows (R322 to R327, R878) -/

/-- Load statuses (R325). -/
def lsOk : Nat := 0
def lsNoGalley : Nat := 1
def lsSealed : Nat := 2
def lsRange : Nat := 3
def lsExpRange : Nat := 4
def lsNoSpace : Nat := 5
def lsNotTrainable : Nat := 6
def lsEmMismatch : Nat := 7
def lsSwitchNamed : Nat := 8
def lsNoIncoming : Nat := 9

/-- The load record (R322). -/
def glrGalley (b : Bytes) : Nat := u32At b 0
def glrOp (b : Bytes) : Nat := u8At b 4
def glrFresh (b : Bytes) : Bool := bitOf (u8At b 5) 0
def glrMaster (b : Bytes) : Bool := bitOf (u8At b 5) 1
def glrSeal (b : Bytes) : Bool := bitOf (u8At b 5) 2
def glrEm (b : Bytes) : Int := sextNat 8 (u8At b 6)
def glrFirst (b : Bytes) : Nat := u64At b 8
def glrCount (b : Bytes) : Nat := u32At b 16
def glrRows (b : Bytes) : Nat := u64At b 24
def glrExps (b : Bytes) : Nat := u64At b 32

/-- Whether the record's form fails (R878, step 2; R311; GLR_EM and GLR_COUNT of R322). -/
def loadFormBad (b : Bytes) (slugs : Nat) : Bool :=
  bitsOf (u8At b 5) 7 3 != 0 || u8At b 7 != 0 || u32At b 20 != 0 || !allZero (slice b 40 24) || decide (3 < glrOp b) ||
    (if glrOp b = 0 then
      (!glrMaster b && u8At b 6 != 0) || (glrMaster b && !(decide (-64 ≤ glrEm b) && decide (glrEm b ≤ 31))) ||
        glrCount b == 0 || decide (slugs < glrFirst b + glrCount b)
    else if glrOp b = 1 then glrMaster b || u8At b 6 != 0 || glrFirst b != 0 || glrCount b != 1
    else !allZero (slice b 5 59))

/-- The first check of R878 that fails for a load record. -/
def State.loadCheck (s : State) (c : Nat) (b : Bytes) : Option Nat :=
  match s.galley c (glrGalley b) with
  | none => some lsNoGalley
  | some g =>
    let sealed := match g.incoming with | some x => x.stage == 1 | none => false
    if loadFormBad b g.slugs then some lsRange
    else if glrMaster b && !g.trainable then some lsNotTrainable
    else if glrMaster b && g.emFixed && glrEm b != g.em then some lsEmMismatch
    else if glrOp b == 3 && g.named.isSome then some lsSwitchNamed
    else if glrOp b != 3 && sealed then some lsSealed
    else if glrOp b == 2 && g.incoming.isNone then some lsNoIncoming
    else if decide (glrOp b < 2) && glrFresh b && g.incoming.isSome then some lsRange
    else none

/-- The outcome of a load. -/
def State.loadDone (s : State) (t : Ticket) (status count ranges : Nat) : State :=
  s.done t (if status = lsOk then stOk else stGalley) (dLoad status count ranges)

/-- A master element from a loaded one: rne at em (R327). -/
def masterOf (x e em : Int) : Int :=
  let v := rne (scaleUp x e) em
  if fitsS 64 v then v else wrapS 64 (Config.masterOver v)

/-- Set the master of a loaded row (R327). -/
def State.loadMaster (s : State) (c id k : Nat) (v : Slug) : State :=
  match s.galley c id with
  | none => s
  | some g =>
    (((v.elems g.ty g.n g.r).zipIdx.foldl (fun s e => s.masterSet false c id k e.2 (masterOf e.1 v.exp g.em)) s)).updGalley c id fun g =>
      { g with dirty := setDel g.dirty k }

/-- A slug from a source row: an exponent out of range stores zeros (R324). A poisoned row is stored in raw form, so that its slot
holds sectors to poison. -/
def loadSlug (g : GalleySt) (row : Bytes) (e : Int) (poison : Bool) : Slug × Bool :=
  let ok := decide (-32 ≤ e) && decide (e ≤ 31)
  if poison then (⟨if ok then e else 0, 0, if ok then row else List.replicate g.r 0, true⟩, !ok)
  else if ok then (encodeSlug g.ty g.n row e false, false) else (Slug.zero, true)

/-- Whether a part of a run is poisoned. -/
def badIn (bad : List (Nat × Nat)) (off n : Nat) : Bool := bad.any fun b => decide (b.1 < off + n) && decide (off < b.1 + b.2)

/-- Slugs written, indices whose exponent was out of range, and the index that found no frame. -/
structure LoadRun where
  written : Nat
  ranges : Nat
  stopped : Option Nat
  deriving DecidableEq, Repr

/-- Write the rows of a LOAD in order (R323 to R327). -/
def State.loadRows (s : State) (c id first : Nat) (master : Bool) (rows exps : Bytes) (badR badE : List (Nat × Nat)) :
    List Nat → LoadRun → State × LoadRun
  | [], a => (s, a)
  | k :: ks, a =>
    match s.galley c id with
    | none => (s, a)
    | some g =>
      match s.localRow c g (first + k) with
      | none => s.loadRows c id first master rows exps badR badE ks a
      | some q =>
        let v := loadSlug g (slice rows (k * g.r) g.r) (sextNat 8 (u8At exps k)) (badIn badR (k * g.r) g.r || badIn badE k 1)
        match s.putRow c id q v.1 with
        | (s1, false) => (s1, { a with stopped := some k })
        | (s1, true) =>
          let s2 := if master then s1.loadMaster c id q v.1 else s1
          s2.loadRows c id first master rows exps badR badE ks ⟨a.written + 1, a.ranges + natOfBool v.2, none⟩

/-- Finish a LOAD or SET_BLANK: seal where GLR_SEAL asks, after OK or EXP_RANGE. -/
def State.endLoad (s : State) (t : Ticket) (b : Bytes) (a : LoadRun) : State :=
  match a.stopped with
  | some k => s.loadDone t lsNoSpace k a.ranges
  | none =>
    let s1 := if glrSeal b then s.updGalley (tkSlot t.raw) (glrGalley b) GalleySt.seal else s
    s1.loadDone t (if a.ranges = 0 then lsOk else lsExpRange) a.written a.ranges

/-- The sources of rows and exponents: R882 on their ranges, then the reads; a blocked read changes nothing else. -/
def State.withRows (s : State) (t : Ticket) (b : Bytes) (r : Nat)
    (f : State → Bytes → Bytes → List (Nat × Nat) → List (Nat × Nat) → State) : State :=
  let c := tkSlot t.raw
  let space := tpSub t.raw
  let n := glrCount b
  if !s.runOk c space (glrRows b) (n * r) || !s.runOk c space (glrExps b) n then s.done t stRange []
  else match s.srcRead t space (glrRows b) (n * r) with
    | (s1, none) => s1.done t stWindow []
    | (s1, some rows) => match s1.srcRead t space (glrExps b) n with
      | (s2, none) => s2.done t stWindow []
      | (s2, some exps) => f s2 rows.1 exps.1 rows.2 exps.2

/-- LOAD (R323). -/
def State.loadGalley (s : State) (t : Ticket) (b : Bytes) : State :=
  let c := tkSlot t.raw
  match s.loadCheck c b, s.galley c (glrGalley b) with
  | some st, _ => s.loadDone t st 0 0
  | none, none => s
  | none, some g =>
    s.withRows t b g.r fun s1 rows exps badR badE =>
      let s2 := s1.updGalley c (glrGalley b) fun g =>
        let g1 := g.withIncoming (glrFresh b)
        if glrMaster b then { g1 with em := glrEm b, emFixed := true } else g1
      let r := s2.loadRows c (glrGalley b) (glrFirst b) (glrMaster b) rows exps badR badE (List.range (glrCount b)) ⟨0, 0, none⟩
      r.1.endLoad t b r.2

/-- SET_BLANK (R311). -/
def State.setBlank (s : State) (t : Ticket) (b : Bytes) : State :=
  let c := tkSlot t.raw
  match s.loadCheck c b, s.galley c (glrGalley b) with
  | some st, _ => s.loadDone t st 0 0
  | none, none => s
  | none, some g =>
    s.withRows t b g.r fun s1 rows exps badR badE =>
      let v := loadSlug g rows (sextNat 8 (u8At exps 0)) (!badR.isEmpty || !badE.isEmpty)
      ((s1.updGalley c (glrGalley b) fun g => g.withIncoming (glrFresh b)).putBlank c (glrGalley b) v.1).endLoad t b
        ⟨1, natOfBool v.2, none⟩

/-- SEAL. -/
def State.sealGalley (s : State) (t : Ticket) (b : Bytes) : State :=
  match s.loadCheck (tkSlot t.raw) b with
  | some st => s.loadDone t st 0 0
  | none => (s.updGalley (tkSlot t.raw) (glrGalley b) GalleySt.seal).loadDone t lsOk 0 0

/-- ABORT (R331). -/
def State.abortTicket (s : State) (t : Ticket) (b : Bytes) : State :=
  match s.loadCheck (tkSlot t.raw) b with
  | some st => s.loadDone t st 0 0
  | none => (s.abortGalley (tkSlot t.raw) (glrGalley b)).loadDone t lsOk 0 0

/-- A GALLEY_LOAD ticket whose record has an operation that `p` picks acts; for another operation nothing happens. A ticket
that fails before its record is read completes under any of the operations. -/
def State.galleyAct (s : State) (ring seq : Nat) (p : Nat → Bool) (f : State → Ticket → Bytes → State) : State :=
  s.ticketAct ring seq 0x10 fun t s1 => s1.withSource t 64 fun s2 b _ => if p (glrOp b) then f s2 t b else s

/-- LOAD: a GALLEY_LOAD ticket with GLR_OP 0; an undefined operation completes with RANGE. -/
def execLoad (ring : Nat) (x : TicketIn) (s : State) : Ans :=
  .next (s.withXfers x.hbm fun s => s.galleyAct ring x.seq (fun o => o == 0 || decide (3 < o)) State.loadGalley)

/-- SET_BLANK: a GALLEY_LOAD ticket with GLR_OP 1. -/
def execSetBlank (ring seq : Nat) (s : State) : Ans := .next (s.galleyAct ring seq (· == 1) State.setBlank)

/-- SEAL: a GALLEY_LOAD ticket with GLR_OP 2. -/
def execSeal (ring seq : Nat) (s : State) : Ans := .next (s.galleyAct ring seq (· == 2) State.sealGalley)

/-- ABORT: a GALLEY_LOAD ticket with GLR_OP 3. -/
def execAbort (ring seq : Nat) (s : State) : Ans := .next (s.galleyAct ring seq (· == 3) State.abortTicket)

/-! ### GALLEY_SWITCH, SWITCH_COMMIT and GALLEY_READ -/

/-- GALLEY_SWITCH: the request is made, or commits at once in an idle chase (R328, R332, R878). -/
def execGalleySwitch (ring seq : Nat) (s : State) : Ans :=
  .next (s.ticketAct ring seq 0x11 fun t s =>
    let c := tkSlot t.raw
    match s.galley c (tpArg0 t.raw) with
    | none => s.loadDone t lsNoGalley 0 0
    | some g => if g.incoming.isNone then s.loadDone t lsNoIncoming 0 0
        else (s.requestSwitch c (tpArg0 t.raw)).loadDone t lsOk 0 0)

/-- SWITCH_COMMIT: a switch that waits in an idle chase commits once the galley holds fewer than two draining states
(R332); in the lock-up phase of a running chase, a switch that the root has named commits (R329). -/
def execSwitchCommit (slot galley : Nat) (s : State) : Ans :=
  .next (s.ifB s.isReady fun s =>
    match s.galley slot galley with
    | none => s
    | some g =>
      if s.csActive slot then
        if s.getF Fld.stkPhase slot = 1 ∧ g.named.isSome then s.commitSwitch slot galley (s.idlePeers slot galley) else s
      else (s.freeDraining slot galley).commitIdle slot galley)

/-- GALLEY_READ: rows of a state in raw layout, then one s8 exponent per slug; slugs not held are zeros (R879). -/
def State.readGalley (s : State) (t : Ticket) : State :=
  let c := tkSlot t.raw
  let first := u64At (tpArgs t.raw) 8
  let n := tpLen t.raw
  match s.galley c (tpArg0 t.raw) with
  | none => s.done t stRange []
  | some g => match g.state (u32At (tpArgs t.raw) 0) with
    | none => s.done t stRange []
    | some x =>
      let blank := first == blankIndex && n == 1
      if n = 0 ∨ (!blank && decide (g.slugs < first + n)) = true then s.done t stRange []
      else
        let rows : List (Option Slug) := if blank then [some (s.blankIn false c g x)]
          else (List.range n).map fun k => (s.localRow c g (first + k)).map (s.rowIn false c g x)
        let s := if blank then s else (List.range n).foldl (fun s k => match s.localRow c g (first + k) with
          | some q => s.noteRow false c g x q
          | none => s) s
        let bytes := (rows.flatMap fun v => match v with
            | some v => v.row g.ty g.n g.r
            | none => List.replicate g.r 0) ++
          rows.map fun v => BitVec.ofNat 8 (patOf 8 (match v with | some v => v.exp | none => 0))
        let bad := rows.zipIdx.filterMap fun e => match e.1 with
          | some v => if v.poison then some (e.2 * g.r, g.r) else none
          | none => none
        match s.deliver t (tpDst t.raw) bytes bad with
        | (s1, true) => s1.done t stOk (dValue (rows.filter Option.isNone).length 0)
        | (s1, false) => s1.done t stWindow []

/-- GALLEY_READ. -/
def execGalleyRead (ring : Nat) (x : TicketIn) (s : State) : Ans :=
  .next (s.withXfers x.hbm fun s => match s.ticket? ring x.seq with
    | some t => (s.ticketAct ring x.seq 0x12 fun t s => s.readGalley t).ifB
        (s.isReady && !t.acted && !t.done && tkOpcode t.raw == 0x12) fun s => s.readsEnded t
    | none => s)

end Sys2Proof.Machine
end

