-- ==== Sys2Proof/Machine/Flags.lean ====
section
/-! DEFINITION. The vector engine's flags (R276 to R284): their bits, the overflow rules of the two-operand micro-ops, and how
they stick in the region's registers. -/

namespace Sys2Proof.Machine

/-- The flag bits, as they stand in RGN_VEC_FLAGS (R284). -/
def flagPermRange : Nat := 1
def flagOvf : Nat := 2
def flagSat : Nat := 4
def flagDiv0 : Nat := 8

/-- Whether an exact value lies outside s32. -/
def outS32 (x : Int) : Bool := decide (x < -2147483648) || decide (2147483647 < x)

/-- The overflow rules of ADD, SUB and MUL (R278): the exact result lies outside s32. -/
def addOvf (a b : Lane) : Bool := outS32 (a.toInt + b.toInt)
def subOvf (a b : Lane) : Bool := outS32 (a.toInt - b.toInt)
def mulOvf (a b : Lane) : Bool := outS32 (a.toInt * b.toInt)

/-- No overflow flag. -/
def noOvf (_ _ : Lane) : Bool := false

/-- Set the sticky flags of a region; with a flag, the registers name the slot and plate (R284). -/
def State.raiseFlags (s : State) (p flags slot plate : Nat) : State :=
  if flags = 0 then s
  else
    let g (b : Nat) (f : Field) (s : State) : State := if bitOf flags b then s.setF f p 1 else s
    (g 3 Fld.rgnVecDiv0 (g 2 Fld.rgnVecSat (g 1 Fld.rgnVecOvf (g 0 Fld.rgnVecPermRange s)))).setFs p
      [(Fld.rgnVecLastSlot, slot), (Fld.rgnVecLastPlate, plate)]

end Sys2Proof.Machine
end

