-- ==== Sys2Proof/Machine/VecOps.lean ====
section
/-! DEFINITION. The vector engine's micro-operations as functions of the engine (R271 to R284): what each lane gets, which
flags it raises, and how masked and out-of-range lanes behave. -/

namespace Sys2Proof.Machine

/-- A zero element without poison. -/
def vZero : VElem := ⟨0, false⟩

/-- An engine at the start of a run of length `vl` (R272). -/
def vecStart (vl : Nat) (lut : List Lane) : VecEngine :=
  ⟨vl, List.replicate 32 (List.replicate vl vZero), List.replicate 8 (List.replicate vl true), lut⟩

/-- Element `i` of register `r`; lanes at or beyond VL read as 0 (R273). -/
def VecEngine.lane (e : VecEngine) (r i : Nat) : VElem := (e.v.getD r []).getD i vZero

/-- Bit `i` of mask register `r`. -/
def VecEngine.mask (e : VecEngine) (r i : Nat) : Bool := (e.m.getD r []).getD i false

/-- Whether lane `i` is active (R275). -/
def VecEngine.active (e : VecEngine) (u : MuFields) (i : Nat) : Bool := !u.men || e.mask u.msk i

/-- What one active lane gives: an element, the flags it raises, and whether the lane is out of range (R282: it is then
treated as MU_KEEP says). -/
structure LaneOut where
  elem : VElem
  flags : Nat
  outOfRange : Bool
  deriving DecidableEq, Repr

/-- The element that lane `i` of the destination holds after the micro-op (R275, R282). -/
def laneAfter (e : VecEngine) (u : MuFields) (dst i : Nat) (f : Nat → LaneOut) : VElem :=
  if e.active u i && !(f i).outOfRange then (f i).elem
  else if u.keep then e.lane dst i else vZero

/-- The flags that the active lanes raise. -/
def laneFlags (e : VecEngine) (u : MuFields) (f : Nat → LaneOut) : Nat :=
  (List.range e.vl).foldl (fun acc i => if e.active u i then acc ||| (f i).flags else acc) 0

/-- A micro-op that writes one vector register: every source lane is read before a destination lane is written (R274). -/
def vecWrite (e : VecEngine) (u : MuFields) (f : Nat → LaneOut) : VecEngine × Nat :=
  ({ e with v := e.v.set u.dst ((List.range e.vl).map fun i => laneAfter e u u.dst i f) }, laneFlags e u f)

/-- A compare: it writes a mask register (R277, R278); inactive lanes below VL keep or clear their bit (R275). -/
def vecCompare (e : VecEngine) (u : MuFields) (p : Nat → Bool) : VecEngine × Nat :=
  ({ e with m := e.m.set (u.dst % 8) ((List.range e.vl).map fun i =>
      if e.active u i then p i else u.keep && e.mask (u.dst % 8) i) }, 0)

/-- The second operand `b`: MU_SRC2, or the immediate, which carries no poison (R276, R278). -/
def VecEngine.opB (e : VecEngine) (u : MuFields) (i : Nat) : VElem :=
  if u.imm then ⟨u.immv, false⟩ else e.lane u.src2 i

/-- A two-operand lane function; poison ORs (R276). -/
def vecBin (e : VecEngine) (u : MuFields) (f : Lane → Lane → Lane) (ovf : Lane → Lane → Bool) : VecEngine × Nat :=
  vecWrite e u fun i =>
    let a := e.lane u.src1 i
    let b := e.opB u i
    ⟨⟨f a.bits b.bits, a.poison || b.poison⟩, if ovf a.bits b.bits then flagOvf else 0, false⟩

/-- A two-operand compare. -/
def vecCmp (e : VecEngine) (u : MuFields) (p : Lane → Lane → Bool) : VecEngine × Nat :=
  vecCompare e u fun i => p (e.lane u.src1 i).bits (e.opB u i).bits

def muNop (_ : MuFields) (e : VecEngine) : VecEngine × Nat := (e, 0)

def muAdd (u : MuFields) (e : VecEngine) : VecEngine × Nat :=
  vecBin e u (· + ·) addOvf

def muSub (u : MuFields) (e : VecEngine) : VecEngine × Nat :=
  vecBin e u (· - ·) subOvf

def muMul (u : MuFields) (e : VecEngine) : VecEngine × Nat :=
  vecBin e u (· * ·) mulOvf

def muMulh (u : MuFields) (e : VecEngine) : VecEngine × Nat :=
  vecBin e u (fun a b => BitVec.ofInt 32 (floorShift (a.toInt * b.toInt) 32)) noOvf

def muMulhu (u : MuFields) (e : VecEngine) : VecEngine × Nat :=
  vecBin e u (fun a b => BitVec.ofNat 32 ((a.toNat * b.toNat) >>> 32)) noOvf

def muShl (u : MuFields) (e : VecEngine) : VecEngine × Nat :=
  vecBin e u (fun a b => if b.toNat < 32 then a <<< b.toNat else 0) noOvf

def muShr (u : MuFields) (e : VecEngine) : VecEngine × Nat :=
  vecBin e u (fun a b => if b.toNat < 32 then a >>> b.toNat else 0) noOvf

def muSra (u : MuFields) (e : VecEngine) : VecEngine × Nat :=
  vecBin e u (fun a b => if b.toNat < 32 then a.sshiftRight b.toNat else a.sshiftRight 31) noOvf

def muMin (u : MuFields) (e : VecEngine) : VecEngine × Nat :=
  vecBin e u (fun a b => if b.toInt < a.toInt then b else a) noOvf

def muMax (u : MuFields) (e : VecEngine) : VecEngine × Nat :=
  vecBin e u (fun a b => if a.toInt < b.toInt then b else a) noOvf

/-- ABS has one source; the absolute value of the least s32 is 2,147,483,647 and overflows. -/
def muAbs (u : MuFields) (e : VecEngine) : VecEngine × Nat :=
  vecWrite e u fun i =>
    let a := e.lane u.src1 i
    if a.bits = 0x80000000#32 then ⟨⟨0x7FFFFFFF#32, a.poison⟩, flagOvf, false⟩
    else ⟨⟨if a.bits.toInt < 0 then -a.bits else a.bits, a.poison⟩, 0, false⟩

def muCmpeq (u : MuFields) (e : VecEngine) : VecEngine × Nat := vecCmp e u fun a b => a == b

def muCmplt (u : MuFields) (e : VecEngine) : VecEngine × Nat := vecCmp e u fun a b => decide (a.toInt < b.toInt)

def muCmpltu (u : MuFields) (e : VecEngine) : VecEngine × Nat := vecCmp e u fun a b => decide (a.toNat < b.toNat)

def muCmple (u : MuFields) (e : VecEngine) : VecEngine × Nat := vecCmp e u fun a b => decide (a.toInt ≤ b.toInt)

/-- SEL takes the selected source together with its poison bit: that source produced the element (DEDUCED from R276). -/
def muSel (u : MuFields) (e : VecEngine) : VecEngine × Nat :=
  vecWrite e u fun i => ⟨if e.mask (u.src3 % 8) i then e.lane u.src1 i else e.opB u i, 0, false⟩

def muClamp (u : MuFields) (e : VecEngine) : VecEngine × Nat :=
  vecWrite e u fun i =>
    let a := e.lane u.src1 i
    let lo := if u.imm then sextNat 16 u.immv.toNat else (e.lane u.src2 i).bits.toInt
    let hi := if u.imm then sextNat 16 (u.immv.toNat >>> 16) else (e.lane u.src3 i).bits.toInt
    let p := a.poison || (!u.imm && ((e.lane u.src2 i).poison || (e.lane u.src3 i).poison))
    ⟨⟨BitVec.ofInt 32 (min (max a.bits.toInt lo) hi), p⟩, 0, false⟩

/-- The range of a REQ target format: 0 s32, 1 s16, 2 s8, 3 s4, 4 u8, 5 u4 (R279). -/
def reqMin (fmt : Nat) : Int := if fmt < 4 then minOf fmt else 0
def reqMax (fmt : Nat) : Int := if fmt < 4 then maxOf fmt else if fmt = 4 then 255 else 15

/-- `round_half_even(x × 2^k)` for any integer `k`. -/
def roundScale (x k : Int) : Int :=
  if 0 ≤ k then x * ((2 ^ k.toNat : Nat) : Int) else roundHalfEvenDiv x (2 ^ (-k).toNat)

def muReq (u : MuFields) (e : VecEngine) : VecEngine × Nat :=
  vecWrite e u fun i =>
    let a := e.lane u.src1 i
    let ein := if u.imm then sextNat 8 u.immv.toNat else sextNat 8 (e.lane u.src2 i).bits.toNat
    let eout := sextNat 8 (u.immv.toNat >>> 8)
    let fmt := bitsOf u.immv.toNat 18 16
    let q := roundScale a.bits.toInt (ein - eout)
    let r := clampInt q (reqMin fmt) (reqMax fmt)
    ⟨⟨BitVec.ofInt 32 r, a.poison || (!u.imm && (e.lane u.src2 i).poison)⟩, if r = q then 0 else flagSat, false⟩

def muLut (u : MuFields) (e : VecEngine) : VecEngine × Nat :=
  vecWrite e u fun i =>
    let a := e.lane u.src1 i
    let j := if u.immv.getLsbD 0 then (clampInt a.bits.toInt 0 255).toNat else a.bits.toNat % 256
    ⟨⟨e.lut.getD j 0, a.poison⟩, 0, false⟩

/-- `round_half_even(2^k ÷ x)` for `x ≠ 0`. -/
def rcpRound (k : Nat) (x : Int) : Int :=
  if x < 0 then roundHalfEvenDiv (-((2 ^ k : Nat) : Int)) x.natAbs else roundHalfEvenDiv ((2 ^ k : Nat) : Int) x.natAbs

def muRcp (u : MuFields) (e : VecEngine) : VecEngine × Nat :=
  vecWrite e u fun i =>
    let a := e.lane u.src1 i
    if a.bits = 0 then ⟨⟨0x7FFFFFFF#32, a.poison⟩, flagDiv0, false⟩
    else
      let q := rcpRound (bitsOf u.immv.toNat 5 0) a.bits.toInt
      let r := clampInt q (minOf 0) (maxOf 0)
      ⟨⟨BitVec.ofInt 32 r, a.poison⟩, if r = q then 0 else flagSat, false⟩

/-- A positive number known to lie from `lo × 2^e` to `hi × 2^e`. -/
structure Bracket where
  lo : Nat
  hi : Nat
  e : Nat
  deriving DecidableEq, Repr

/-- The square of a bracketed number, cut to 256 bits with the bounds kept on the safe side. -/
def squareBracket (b : Bracket) : Bracket :=
  let k := Nat.log2 (b.hi * b.hi) - 255
  ⟨(b.lo * b.lo) >>> k, if (b.hi * b.hi) % 2 ^ k = 0 then (b.hi * b.hi) >>> k else ((b.hi * b.hi) >>> k) + 1, 2 * b.e + k⟩

/-- `f` squarings. -/
def squareTimes : Nat → Bracket → Bracket
  | 0, b => b
  | f + 1, b => squareTimes f (squareBracket b)

/-- Whether a bracketed number is at most `2^n`, where the bracket decides it. -/
def bracketLe (b : Bracket) (n : Nat) : Option Bool :=
  if n < b.e then (if 0 < b.lo then some false else none)
  else if 300 < n - b.e then some true
  else if b.hi ≤ 2 ^ (n - b.e) then some true
  else if 2 ^ (n - b.e) < b.lo then some false
  else none

/-- Whether `m ≤ 2^(n / 2^f)`, that is `m^(2^f) ≤ 2^n`: decided on the bracket of the power, and exactly where the bracket
leaves it open. -/
def leExp2 (m n f : Nat) : Bool :=
  match bracketLe (squareTimes f ⟨m, m, 0⟩) n with
  | some b => b
  | none => decide (m ^ (2 ^ f) ≤ 2 ^ n)

/-- The integer part of `2^(n / 2^f)`, found bit by bit from the top (`k` bits left). -/
def exp2Floor (n f : Nat) : Nat → Nat → Nat
  | 0, acc => acc
  | k + 1, acc => if leExp2 (acc + 2 ^ k) n f then exp2Floor n f k (acc + 2 ^ k) else exp2Floor n f k acc

/-- `round_half_even(2^(n / 2^f))`; a value of `2^31` or more is given as `2^31` (the clamp of EXP2 takes it down). The
only tie is 2^-1, which rounds to 0. -/
def exp2Round (n : Int) (f : Nat) : Int :=
  let i := floorShift n f
  if 31 ≤ i then 2147483648
  else if i < -1 then 0
  else if i = -1 then (if n = -((2 ^ f : Nat) : Int) then 0 else 1)
  else
    let q := exp2Floor n.toNat f 31 0
    if leExp2 (2 * q + 1) (n.toNat + 2 ^ f) f then (q + 1 : Nat) else (q : Nat)

def muExp2 (u : MuFields) (e : VecEngine) : VecEngine × Nat :=
  vecWrite e u fun i =>
    let a := e.lane u.src1 i
    let f := bitsOf u.immv.toNat 4 0
    let g := bitsOf u.immv.toNat 12 8
    let q := exp2Round ((g * 2 ^ f : Nat) + a.bits.toInt) f
    let r := clampInt q (minOf 0) (maxOf 0)
    ⟨⟨BitVec.ofInt 32 r, a.poison⟩, if r = q then 0 else flagSat, false⟩

/-- PERM: an index at or beyond VL sets PERM_RANGE and leaves the lane to MU_KEEP (R282); an inactive lane never sets it
(R283). The lane takes the element together with its poison bit, as R282 says; the index adds no poison. -/
def muPerm (u : MuFields) (e : VecEngine) : VecEngine × Nat :=
  vecWrite e u fun i =>
    let x := if u.imm then i ^^^ (u.immv.toNat % 256) else (e.lane u.src2 i).bits.toNat
    if x < e.vl then ⟨e.lane u.src1 x, 0, false⟩ else ⟨vZero, flagPermRange, true⟩

/-- The s192 value of a register sextet in lane `i`, word 0 in the lowest register (R278). -/
def VecEngine.sextet (e : VecEngine) (r i : Nat) : Int :=
  sextNat 192 ((List.range 6).foldl (fun acc k => acc + (e.lane (r + k) i).bits.toNat * 2 ^ (32 * k)) 0)

/-- The OR of the poison bits of a sextet. -/
def VecEngine.sextetPoison (e : VecEngine) (r i : Nat) : Bool := (List.range 6).any fun k => (e.lane (r + k) i).poison

/-- Whether an exact value lies outside s192. -/
def outS192 (x : Int) : Bool := decide (x < -((2 ^ 191 : Nat) : Int)) || decide (((2 ^ 191 : Nat) : Int) ≤ x)

/-- Word `k` of the sum of two sextets in lane `i`. -/
def addSextet (e : VecEngine) (u : MuFields) (k i : Nat) : LaneOut :=
  let x := e.sextet u.src1 i + e.sextet u.src2 i
  ⟨⟨BitVec.ofNat 32 (patOf 192 x >>> (32 * k)), e.sextetPoison u.src1 i || e.sextetPoison u.src2 i⟩,
    if outS192 x then flagOvf else 0, false⟩

/-- ADD192: the six destination registers are written from the engine as it stood (R274). -/
def muAdd192 (u : MuFields) (e : VecEngine) : VecEngine × Nat :=
  ({ e with v := (List.range 6).foldl (fun v k =>
      v.set (u.dst + k) ((List.range e.vl).map fun i => laneAfter e u (u.dst + k) i (addSextet e u k))) e.v },
    laneFlags e u (addSextet e u 0))

def muMovi (u : MuFields) (e : VecEngine) : VecEngine × Nat :=
  vecWrite e u fun _ => ⟨⟨u.immv, false⟩, 0, false⟩

/-- The fields of a 64-bit micro-op word (R277). -/
def muFieldsOf (w : Nat) : MuFields :=
  ⟨bitOf w 57, bitOf w 56, bitsOf w 55 53, bitsOf w 52 48, bitsOf w 47 43, bitsOf w 42 38, bitsOf w 37 33, bitOf w 32,
    BitVec.ofNat 32 (bitsOf w 31 0)⟩

/-- MU_OP of a micro-op word. -/
def muOpOf (w : Nat) : Nat := bitsOf w 63 58

/-- The operation of a MU_OP code (R278); the codes 0x19 to 0x3F are reserved and fail validation (R280). -/
def muStep (op : Nat) (u : MuFields) (e : VecEngine) : VecEngine × Nat :=
  match op with
  | 0x01 => muAdd u e
  | 0x02 => muSub u e
  | 0x03 => muMul u e
  | 0x04 => muMulh u e
  | 0x05 => muMulhu u e
  | 0x06 => muShl u e
  | 0x07 => muShr u e
  | 0x08 => muSra u e
  | 0x09 => muMin u e
  | 0x0A => muMax u e
  | 0x0B => muAbs u e
  | 0x0C => muCmpeq u e
  | 0x0D => muCmplt u e
  | 0x0E => muCmpltu u e
  | 0x0F => muCmple u e
  | 0x10 => muSel u e
  | 0x11 => muClamp u e
  | 0x12 => muReq u e
  | 0x13 => muLut u e
  | 0x14 => muRcp u e
  | 0x15 => muExp2 u e
  | 0x16 => muPerm u e
  | 0x17 => muAdd192 u e
  | 0x18 => muMovi u e
  | _ => muNop u e

/-- A program's micro-op words run in order; the flags of all of them OR (R272, R284). -/
def muRun : List Nat → VecEngine → VecEngine × Nat
  | [], e => (e, 0)
  | w :: ws, e =>
    let r := muStep (muOpOf w) (muFieldsOf w) e
    let t := muRun ws r.1
    (t.1, r.2 ||| t.2)

/-- The issue cost of an operation for each 32 lanes of VL (R278, R294). -/
def muCycles (op : Nat) : Nat :=
  match op with
  | 0x14 => 4
  | 0x15 => 4
  | 0x16 => 2
  | 0x17 => 6
  | _ => 1

end Sys2Proof.Machine
end

