-- ==== Sys2Proof/Machine/Validate.lean ====
section
/-! DEFINITION. The forme validator (R50 to R90, R133, R872, R873): its checks in order, each with the code, the section
and the offset that it reports. -/

namespace Sys2Proof.Machine

/-- A failed check: code, DE_TYPE of the section, byte offset within the forme (R88). -/
structure FormeErr where
  code : Nat
  ty : Nat
  off : Nat
  deriving DecidableEq, Repr

/-- A check that fails with a code at a place when its condition does not hold. -/
def chk (ok : Bool) (code ty off : Nat) : Option FormeErr := if ok then none else some ⟨code, ty, off⟩

/-- The first failure of a list of checks. -/
def firstErr (l : List (Option FormeErr)) : Option FormeErr := l.findSome? id

/-- The first non-zero byte of a range of the forme. -/
def firstNonZero (f : Bytes) (off len : Nat) : Option Nat :=
  (((f.drop off).take len).findIdx? (· != 0)).map (off + ·)

/-- The first bit of a byte outside its defined bits. -/
def badBits (f : Bytes) (off allowed : Nat) : Option Nat :=
  if (u8At f off) &&& (255 - allowed) = 0 then none else some off

/-! ### Header and directory (R872 steps 1 to 9) -/

def headerChecks (f : Bytes) (ticketLen : Nat) : List (Option FormeErr) :=
  [ chk (u32At f 0 == 0x454D524F) 0x01 0 0,
    chk (u8At f 5 == 1) 0x02 0 5,
    chk (u16At f 6 == 128) 0x02 0 6,
    chk (decide (1024 ≤ fhTotalLen f) && decide (fhTotalLen f ≤ 67108864) && fhTotalLen f % 64 == 0 &&
      fhTotalLen f == ticketLen) 0x03 0 8,
    chk (decide (6 ≤ fhSections f) && decide (fhSections f ≤ 8)) 0x08 0 0xC,
    chk (sha256 (slice f 0 0x60) == slice f 0x60 32) 0x04 0 0x60,
    chk (sha256 (slice f 128 (48 * fhSections f)) == slice f 0x40 32) 0x05 0 0x40 ]

/-- The checks of one directory entry against the one before it (R51, R52); `prevTy` and `prevEnd` are those of the entry
before. Entries of one type twice fall to R56. They are failures of the directory: R88 gives them type 0. DESIGN CHOICE (log 137): a
section that runs past FH_TOTAL_LEN reports DE_OFFSET, not DE_LENGTH. -/
def entryChecks (f : Bytes) (prevTy prevEnd : Nat) (e : DirEnt) : List (Option FormeErr) :=
  [ chk (e.ver == 1) 0x02 0 (e.pos + 2),
    chk (decide (1 ≤ e.ty) && decide (e.ty ≤ 8)) 0x08 0 e.pos,
    chk (e.len != 0) 0x07 0 (e.pos + 8),
    chk (e.off % 64 == 0) 0x07 0 (e.pos + 4),
    chk (decide (prevTy ≤ e.ty)) 0x07 0 e.pos,
    chk (decide (prevEnd ≤ e.off)) 0x07 0 (e.pos + 4),
    chk (decide (e.off + e.len ≤ fhTotalLen f)) 0x07 0 (e.pos + 4) ]

def directoryChecks (f : Bytes) : Nat → Nat → List DirEnt → List (Option FormeErr)
  | _, _, [] => []
  | pt, pe, e :: t => entryChecks f pt pe e ++ directoryChecks f e.ty (e.off + e.len) t

/-- R56: no section twice, and every required one; failures of the directory (R88). DESIGN CHOICE (log 137): of two entries of one
type the first reports. -/
def sectionSetChecks (f : Bytes) : List (Option FormeErr) :=
  let es := dirEntries f
  es.map (fun e => chk ((es.filter fun x => x.ty == e.ty).length == 1) 0x08 0 e.pos) ++
    [1, 2, 3, 4, 5, 8].map fun t => chk (es.any fun e => e.ty == t) 0x08 0 0xC

/-- Every DE_DIGEST (R872). DESIGN CHOICE (log 137): like SECTION_LENGTH it reports the section's DE_TYPE, since the section's content
fails, with the offset of the directory field that disagrees (DE_DIGEST, DE_LENGTH). -/
def digestChecks (f : Bytes) : List (Option FormeErr) :=
  (dirEntries f).map fun e => chk (sha256 ((f.drop e.off).take e.len) == slice f (e.pos + 16) 32) 0x06 e.ty (e.pos + 16)

/-! ### Section lengths and reserved bytes (R872 steps 10 and 11) -/

/-- The length that the counts inside a section give it (R58, R62, R67, R70, R76, R78, R79, R83). DESIGN CHOICE (log
137): with TN_COUNT 0 the greatest end of no body is 0, so that a tint section of that kind fails here and never with TINT_FORM. -/
def sectionLen (f : Bytes) (ty : Nat) : Nat :=
  match ty with
  | 1 => 8 + 8 * ptCount f
  | 2 => (wrChains f).foldl (fun n c => n + 8 + 4 * c.hops.length) 264
  | 3 => 32
  | 4 => 8 + 16 * u32At (mkSec f) 4
  | 5 => 64 + 64 * plCount f
  | 6 => (tintProgs f).foldl (fun n t => max n t.bodyEnd) 0
  | 7 => 64 + 64 * u32At (secBytes f 7) 0
  | _ => 8 + 8 * u8At (secBytes f 8) 0

def lengthChecks (f : Bytes) : List (Option FormeErr) :=
  (dirEntries f).map fun e => chk (e.len == sectionLen f e.ty) 0x0A e.ty (e.pos + 8)

/-- Bytes of the tint section that lie in its header, directory or a body (R78). -/
def tintCovered (f : Bytes) (k : Nat) : Bool :=
  decide (k < 8 + 8 * u16At (secBytes f 6) 0) || (tintProgs f).any fun t => decide (t.off ≤ k) && decide (k < t.bodyEnd)

/-- The reserved bytes that are not zero inside a section, outside plate descriptors and micro-operations. -/
def sectionReserved (f : Bytes) (e : DirEnt) : List Nat :=
  let o := e.off
  let z (off len : Nat) := (firstNonZero f (o + off) len).toList
  let b (off allowed : Nat) := (badBits f (o + off) allowed).toList
  match e.ty with
  | 1 => z 7 1 ++ (List.range (ptCount f)).flatMap fun i => b (9 + 8 * i) 0x7F ++ z (12 + 8 * i) 4
  | 2 => z 2 6 ++ ((List.range 256).flatMap fun i => b (8 + i) 7) ++
      ((wrChains f).flatMap fun c => z (c.pos + 4) 4 ++ (List.range c.hops.length).flatMap fun j => z (c.pos + 10 + 4 * j) 2)
  | 3 => z 10 6 ++ z 24 8
  | 4 => z 2 2 ++ (markEntries f).flatMap fun m => b (m.pos + 3) 3 ++ z (m.pos + 12) 4
  | 5 => z 8 56
  | 6 => z 2 6 ++ ((tintProgs f).flatMap fun t => b (t.pos + 3) 1) ++
      (((List.range e.len).find? fun k => !tintCovered f k && u8At f (o + k) != 0).map (o + ·)).toList
  | 7 => z 4 60 ++ (List.range (u32At (secBytes f 7) 0)).flatMap fun i =>
      b (64 + 64 * i + 16) 7 ++ z (64 + 64 * i + 17) 1 ++ z (64 + 64 * i + 20) 44
  | _ => z 1 7 ++ (inkClasses f).flatMap fun c => z (c.1 + 1) 1 ++ z (c.1 + 4) 4

/-- The padding between and after the sections (R53), from the end of the directory on. -/
def paddingReserved (f : Bytes) : Nat → List DirEnt → List Nat
  | p, [] => (firstNonZero f p (fhTotalLen f - p)).toList
  | p, e :: t => (firstNonZero f p (e.off - p)).toList ++ paddingReserved f (e.off + e.len) t

/-- The reserved-byte failures with their sections; header, directory and padding report section 0. -/
def reservedFound (f : Bytes) : List (Nat × Nat) :=
  let es := dirEntries f
  ((badBits f 0xE 3).toList ++ (firstNonZero f 0xF 1).toList ++ (firstNonZero f 0x1C 36).toList ++
      (es.flatMap fun e => (firstNonZero f (e.pos + 12) 4).toList) ++
      paddingReserved f (128 + 48 * fhSections f) es).map (·, 0) ++
    es.flatMap fun e => (sectionReserved f e).map (·, e.ty)

/-- The reserved-byte check: the failure of lowest offset. -/
def reservedCheck (f : Bytes) : Option FormeErr :=
  match reservedFound f with
  | [] => none
  | x :: t =>
    let m := t.foldl (fun m y => if y.1 < m.1 then y else m) x
    some ⟨0x09, m.2, m.1⟩

/-! ### Sections (R87) -/

/-- Checks in increasing offset, then code: the sections build them unsorted. -/
def leastErr (l : List (Option FormeErr)) : Option FormeErr :=
  (l.filterMap id).foldl (fun m e => match m with
    | none => some e
    | some x => if e.off < x.off ∨ (e.off = x.off ∧ e.code < x.code) then some e else some x) none

def partitionChecks (f : Bytes) (node : Nat) : Option FormeErr :=
  let o := secOff f 1
  let c (ok : Bool) (off : Nat) := chk ok 0x10 1 (o + off)
  let n := ptCount f
  leastErr ([c (ptTag f != 0) 0, c (decide (1 ≤ n) && decide (n ≤ 32768)) 4, c (decide (ptInterleave f ≤ 1)) 6] ++
    ((List.range n).flatMap fun i =>
      [c (i == 0 || decide (ptNode f (i - 1) < ptNode f i)) (8 + 8 * i), c (ptRegions f i != 0) (10 + 8 * i)]) ++
    [chk (ptOrdinal f node).isSome 0x11 1 (o + 8)])

/-- Regions that some member holds. -/
def unionRegions (f : Bytes) : Nat := (List.range (ptCount f)).foldl (fun m i => m ||| ptRegions f i) 0

/-- The checks of the wiring section. DESIGN CHOICE: a chain that no member can instantiate (R66) is judged once every CH_REGION of
it is in range, and reports its CH_ID; a block named twice (R65) reports the CH_REGION of the repeated hop: no rule names a field for
either (logs 134, 137). -/
def wiringChecks (f : Bytes) : Option FormeErr :=
  let o := secOff f 2
  let w := secBytes f 2
  let u := unionRegions f
  let cs := wrChains f
  leastErr (
    [chk (decide (u16At w 0 ≤ 1024)) 0x20 2 o] ++
    ((List.range 256).map fun i => chk (decide (u8At w (8 + i) < 4) && (bitOf u (i / 16) || u8At w (8 + i) == 0)) 0x20 2 (o + 8 + i)) ++
    cs.flatMap fun c =>
      [chk (decide (c.id ≤ 1023)) 0x20 2 (o + c.pos),
       chk (cs.all fun x => !(decide (x.pos < c.pos) && x.id == c.id)) 0x21 2 (o + c.pos),
       chk ((c.hops.any fun h => decide (15 < h.1)) || (List.range (ptCount f)).any fun i => chainIn c (ptRegions f i)) 0x21 2 (o + c.pos),
       chk (decide (2 ≤ c.hops.length) && decide (c.hops.length ≤ 256)) 0x20 2 (o + c.pos + 2)] ++
      c.hops.zipIdx.flatMap fun h =>
        [chk (decide (h.1.1 ≤ 15)) 0x20 2 (o + c.pos + 8 + 4 * h.2),
         chk (decide (h.1.2 ≤ 15)) 0x20 2 (o + c.pos + 9 + 4 * h.2),
         chk (!(c.hops.take h.2).contains h.1) 0x21 2 (o + c.pos + 8 + 4 * h.2)])

/-- The checks of the stroke timing section. DESIGN CHOICE (log 137): PHASE_BUDGET (R68) reports ST_DIST_PM, the later of its fields. -/
def timingChecks (f : Bytes) : Option FormeErr :=
  let o := secOff f 3
  let p := u32At (stSec f) 0
  leastErr [
    chk (p == 0 || (decide (125 ≤ p) && decide (p ≤ 256000))) 0x30 3 o,
    chk (decide (u16At (stSec f) 4 ≤ 50)) 0x30 3 (o + 4),
    chk (decide (u16At (stSec f) 6 ≤ 250)) 0x30 3 (o + 6),
    chk (decide (stDistPm f ≤ 500)) 0x30 3 (o + 8),
    chk (decide (stLockupPm f + stDistPm f ≤ 950)) 0x31 3 (o + 8)]

/-- The first of the block-owned marks of a region are 768 × region on (R71). -/
def chipMark : Nat := 12288

/-- The checks of the mark plan. DESIGN CHOICE (log 137): a repeated virtualised pair (R75) reports ME_ID of the later entry. -/
def markChecks (f : Bytes) (regions : Nat) : Option FormeErr :=
  let o := secOff f 4
  let ms := markEntries f
  let virt := mkMode f == 1
  leastErr (
    [chk (decide (mkMode f ≤ 1)) 0x40 4 o,
     chk (if virt then decide (1 ≤ mkContexts f) && decide (mkContexts f ≤ 64) else mkContexts f == 0) 0x40 4 (o + 1),
     chk (decide (ms.length ≤ 16384)) 0x40 4 (o + 4)] ++
    ms.flatMap fun m =>
      [chk (decide (m.id ≤ 16383) && (virt || decide (chipMark ≤ m.id) || bitOf regions (m.id / 768)) &&
          ms.all fun x => !(decide (x.pos < m.pos) && x.id == m.id && (!virt || x.ctx == m.ctx))) 0x40 4 (o + m.pos),
       chk (if virt then decide (m.ctx < mkContexts f) else m.ctx == 0) 0x40 4 (o + m.pos + 2),
       chk (m.target != 0) 0x40 4 (o + m.pos + 4),
       chk (decide (m.initial < m.target)) 0x40 4 (o + m.pos + 8)])

/-- A field of PD_ARGS from a bit on: the byte at which its checks report. -/
def argAt (bit : Nat) : Nat := 48 + bit / 8

/-- The close word in the low half of PD_ARGS: the lowest byte that breaks R186 or R187. -/
def closeArg (a : Nat) : List (Bool × Nat) :=
  let c := closeWordOf a
  [(c.auto || c.fmt == 5 || decide (5 < c.fmt) || (decide (loLim c.fmt ≤ c.eo) && decide (c.eo ≤ hiLim c.fmt)), 48),
    (decide (c.fmt ≤ 5) && bitsOf a 12 11 == 0 && c.ovf != 3, 49), (bitsOf a 31 16 == 0, 50)]

/-- The opcode's own rules on its descriptor (R152, R206, R207, R230, R231, R286, R335, R336, R356, R366, R386, R387, R407,
R408, R557, R596), each with the offset of its field. The rules that need the galley section stand in `crossOf`. -/
def opcodeForm (p : Plate) (virt : Bool) (contexts : Nat) : List (Bool × Nat) :=
  let a := p.args
  let bits (hi lo : Nat) := bitsOf a hi lo
  let cf := (closeWordOf a).fmt
  if p.op = opDense ∨ p.op = opSparse then
    let sp := p.op == opSparse
    [(decide (1 ≤ p.count) && decide (p.count ≤ 2 ^ 40), 40)] ++ closeArg a ++
    [(decide (bits 38 32 ≤ 100) && (sp || bits 38 32 == 0) && !bitOf a 39, 52),
     ((bits 41 40 == 0 || cf == 2 || cf == 3) && (bits 43 42 == 0 || bits 41 40 == 1) &&
        (sp || (!bitOf a 44 && !bitOf a 45)) && (!bitOf a 46 || (sp && p.tracer)) && !bitOf a 47, 53),
     (bits 63 48 == 0, 54)]
  else if p.op = opGather then
    let role := p.gaRole
    [(p.galley != none32, 8), (role == 0 || role == 1 || p.src == 0, 24), (role == 0 || role == 3 || p.dst == 0, 32),
     (if role == 2 then p.count == 0 else decide (1 ≤ p.count) &&
        decide (p.count ≤ if role == 0 then 4294967295 else 65536), 40)] ++ closeArg a ++
    [(decide (bits 34 32 ≤ 3) && (!bitOf a 37 || bits 34 32 == 3) && !(bits 34 32 == 1 && cf == 5) && bits 39 38 == 0, 52),
     (bits 63 40 == 0, 53)]
  else if p.op = opScatter then
    [(p.dst == 0, 32), (bits 1 0 != 3 && bits 7 2 == 0, 48), (bits 63 8 == 0, 49)]
  else if p.op = opAggregate then
    [(p.tint == none16, 4), (p.galley == none32, 8)] ++ closeArg a ++
    [(decide (bits 34 32 ≤ 3) && bits 36 35 != 3 && (bits 36 35 == 0 || decide (2 ≤ bits 34 32)) &&
        !(bits 34 32 == 1 && cf == 5) && (bits 52 37 == 0 || decide (32 ≤ bits 52 37)), 52), (bits 63 53 == 0, 54)]
  else if p.op = opFrontier then
    [(p.tint == none16, 4), (p.chain == none16, 6), (p.galley == none32, 8),
     (decide (bits 1 0 ≤ 1) && decide (bits 12 3 ≤ 1000), 48), (bits 63 13 == 0, 49)]
  else if p.op = opTint then
    [(p.tint != none16, 4), (decide (1 ≤ p.count) && decide (p.count ≤ 4294967295), 40), (a == 0, 48)]
  else if p.op = opReduce then
    [(p.tint == none16, 4), (p.chain == none16 || !bitOf a 34, 6), (p.galley == none32, 8)] ++ closeArg a ++
    [(bits 33 32 != 3 && bits 39 35 == 0, 52), (bits 63 40 == 0, 53)]
  else if p.op = opExchange then
    [(p.src != 0 || p.galley != none32 || p.dst != 0, 8), (decide (p.count ≤ 65536), 40), (a == 0, 48)]
  else if p.op = opState then
    [(p.galley != none32, 8), (p.src == 0, 24), (p.dst == 0, 32), (p.count == 0, 40),
     (decide (1 ≤ bits 2 0) && decide (bits 2 0 ≤ 3) && bits 7 3 == 0, 48), (bits 63 8 == 0, 49), (!p.sumEn, 56)]
  else if p.op = opHold then
    [(if bitOf a 2 then virt && decide (bits 8 3 < contexts) else bits 8 3 == 0, 48), (bits 63 9 == 0, 49), (!p.sumEn, 56)]
  else [(a == 0, 48)]

/-- Whether PD_COND is one of the combinations of R154 and R155. -/
def condOk (c : Nat) : Bool :=
  let operand := bitsOf c 7 5
  let test := bitsOf c 4 2
  bitsOf c 1 0 == 0 && decide (operand ≤ 4) && test != 7 && !(operand == 4 && decide (2 ≤ test) && decide (test ≤ 5))

/-- The descriptor rules of R133, R135, R419, R540 and R541, with the byte offset and code. -/
def plateForm (f : Bytes) (b : Bytes) : List (Bool × Nat × Nat) :=
  let p := plateOf b
  let n := plCount f
  let fabric (id : Nat) := id != none16 && (markEntries f).any fun m => m.id == id && m.fabric
  let pf (x : Bool × Nat) : Bool × Nat × Nat := (x.1, x.2, 0x50)
  [pf (decide (1 ≤ p.op) && decide (p.op ≤ 12), 0), pf (decide (p.flags < 4) && (!p.tracer || p.op == opSparse), 1),
   pf (decide (p.ink ≤ 15) || p.ink == 0xFF, 2), pf (if p.op = opBranch then condOk p.cond else p.cond == 0, 3),
   pf (p.chain == none16 || decide (p.chain ≤ 1023), 6), pf (p.wait == none16 || decide (p.wait ≤ 16383), 12),
   pf (p.sig == none16 || decide (p.sig ≤ 16383), 14), pf (!fabric p.wait || p.isDist || p.op == opReduce || p.op == opHold, 12),
   pf (!fabric p.sig || ((p.op == opExchange || p.op == opReduce) && p.fence), 14),
   (decide (p.next < n), 16, 0x51), if p.op = opBranch then (decide (p.alt < n), 20, 0x51) else (p.alt == 0, 20, 0x50),
   pf (decide (p.src < 2 ^ 44), 24), pf (decide (p.dst < 2 ^ 44), 32), pf (bitsOf p.summary 6 3 == 0, 56),
   pf (allZero (b.drop 57), 57)] ++ (opcodeForm p (mkMode f == 1) (mkContexts f)).map pf

def plateChecks (f : Bytes) : Option FormeErr :=
  let o := secOff f 5
  let n := plCount f
  leastErr ([chk (decide (1 ≤ n) && decide (n ≤ 65536)) 0x50 5 o, chk (decide (plEntry f < n)) 0x50 5 (o + 4)] ++
    (List.range n).flatMap fun i =>
      (plateForm f (slice (secBytes f 5) (64 + 64 * i) 64)).map fun c => chk c.1 c.2.2 5 (o + 64 + 64 * i + c.2.1))

/-- Which fields an operation uses: MU_SRC1, MU_SRC2, MU_SRC3 (0 none, 1 register, 2 mask), the MU_IMMV bits with MU_IMM 0
and with MU_IMM 1, and whether MU_IMM may be 1 (R277, R877). -/
def muUses (op : Nat) : Option (Bool × Bool × Nat × Nat × Nat × Bool) :=
  let all := 2 ^ 32 - 1
  if op = 0 then some (false, false, 0, 0, 0, false)
  else if op = 0x0B then some (true, false, 0, 0, 0, false)
  else if op ≤ 0x0F then some (true, true, 0, 0, all, true)
  else if op = 0x10 then some (true, true, 2, 0, all, true)
  else if op = 0x11 then some (true, true, 1, 0, all, true)
  else if op = 0x12 then some (true, true, 0, 0x7FF00, 0x7FFFF, true)
  else if op = 0x13 then some (true, false, 0, 1, 0, false)
  else if op = 0x14 then some (true, false, 0, 0x3F, 0, false)
  else if op = 0x15 then some (true, false, 0, 0x1F1F, 0, false)
  else if op = 0x16 then some (true, true, 0, 0, 0xFF, true)
  else if op = 0x17 then some (true, true, 0, 0, 0, false)
  else if op = 0x18 then some (false, false, 0, all, 0, false)
  else none

/-- Whether a micro-op word keeps R280 in a program with or without a table. -/
def muOk (w : Nat) (lut : Bool) : Bool :=
  let u := muFieldsOf w
  let op := muOpOf w
  let imm := u.immv.toNat
  match muUses op with
  | none => false
  | some (s1, s2, s3, m0, m1, immOk) =>
    (immOk || !u.imm) && (s1 || u.src1 == 0) && ((s2 && !u.imm) || u.src2 == 0) &&
    (if s3 = 2 then decide (u.src3 < 8) else if s3 = 1 then !u.imm || u.src3 == 0 else u.src3 == 0) &&
    (imm &&& (2 ^ 32 - 1 - if u.imm then m1 else m0)) == 0 &&
    (op != 0 || w == 0) && (!(decide (0x0C ≤ op) && decide (op ≤ 0x0F)) || decide (u.dst < 8)) &&
    (op != 0x12 || decide (bitsOf imm 18 16 ≤ 5)) && (op != 0x13 || lut) && (op != 0x14 || decide (bitsOf imm 5 0 ≤ 62)) &&
    (op != 0x15 || decide (bitsOf imm 12 8 ≤ 30)) &&
    (op != 0x17 || (decide (u.dst ≤ 26) && decide (u.src1 ≤ 26) && decide (u.src2 ≤ 26)))

/-- The checks of the tint section. DESIGN CHOICE: an overlap of bodies reports the first program in directory order that overlaps
another, at its TN_OFFSET; R78 names no place for it. -/
def tintChecks (f : Bytes) : Option FormeErr :=
  if (dirEntry f 6).isNone then none
  else
    let o := secOff f 6
    let ts := tintProgs f
    leastErr ([chk (decide (1 ≤ ts.length) && decide (ts.length ≤ 256)) 0x60 6 o] ++
      ts.flatMap fun t =>
        [chk (ts.all fun x => !(decide (x.pos < t.pos) && x.id == t.id)) 0x60 6 (o + t.pos),
         chk (decide (1 ≤ t.len) && decide (t.len ≤ 64)) 0x60 6 (o + t.pos + 2),
         chk (t.off % 8 == 0 && decide (8 + 8 * ts.length ≤ t.off) &&
            ts.all fun x => x.pos == t.pos || decide (x.bodyEnd ≤ t.off) || decide (t.bodyEnd ≤ x.off)) 0x60 6 (o + t.pos + 4)] ++
        (tintWords f t).zipIdx.map fun w => chk (muOk w.1 t.lut) 0x60 6 (o + t.off + 8 * w.2))

/-- The checks of the galley section. DESIGN CHOICE (log 137): the combination that R82 forbids reports GD_HINTS, the later of its
fields. -/
def galleyChecks (f : Bytes) : Option FormeErr :=
  if (dirEntry f 7).isNone then none
  else
    let o := secOff f 7
    let gs := galDecls f
    leastErr ([chk (decide (1 ≤ gs.length) && decide (gs.length ≤ 1024)) 0x70 7 o] ++
      gs.zipIdx.flatMap fun g =>
        let b := o + 64 + 64 * g.2
        let d := g.1
        [chk ((gs.take g.2).all fun x => gdId x != gdId d) 0x70 7 b,
         chk (decide (1 ≤ gdElements d) && decide (gdElements d ≤ 1024)) 0x70 7 (b + 4),
         chk (decide (gdType d ≤ 3)) 0x70 7 (b + 6), chk (decide (gdPlacement d ≤ 2)) 0x70 7 (b + 7),
         chk (decide (1 ≤ gdSlugs d) && decide (gdSlugs d ≤ 2 ^ 40 - 1)) 0x70 7 (b + 8),
         chk (!(gdPlacement d == 1 && bitOf (gdHints d) 1)) 0x70 7 (b + 16)])

def inkChecks (f : Bytes) : Option FormeErr :=
  let o := secOff f 8
  let cs := inkClasses f
  leastErr ([chk (decide (1 ≤ cs.length) && decide (cs.length ≤ 16)) 0x80 8 o] ++
    cs.flatMap fun c =>
      [chk (decide (c.2.1 ≤ 15) && cs.all fun x => !(decide (x.1 < c.1) && x.2.1 == c.2.1)) 0x80 8 (o + c.1),
       chk (decide (1 ≤ c.2.2) && decide (c.2.2 ≤ 3600)) 0x80 8 (o + c.1 + 2)])

/-! ### Cross-references (R89 REFERENCE, and the opcode rules that need the galley section) -/

def crossOf (f : Bytes) (p : Plate) : List (Bool × Nat × Nat) :=
  let marks := markEntries f
  let g := galDecl f p.galley
  let named (id : Nat) := id == none16 || marks.any fun m => m.id == id
  [(!p.tracer || fhTracer f, 1, 0x90), (p.ink == 0xFF || (inkClasses f).any fun c => c.2.1 == p.ink, 2, 0x90),
   (p.tint == none16 || (tintProg f p.tint).isSome, 4, 0x90), (p.chain == none16 || (wrChains f).any fun c => c.id == p.chain, 6, 0x90),
   (p.galley == none32 || g.isSome, 8, 0x90), (named p.wait, 12, 0x90), (named p.sig, 14, 0x90)] ++
  match g with
  | none => []
  | some d =>
    if p.op = opGather then
      [((p.gaRole == 0) != (gdSharded d && decide (1 < ptCount f)), 52, 0x50)]
    else if p.op = opScatter then [(gdTrainable d, 8, 0x50)]
    else if p.op = opState ∧ bitsOf p.args 2 0 = 1 then [(gdTrainable d, 48, 0x50)]
    else []

def crossChecks (f : Bytes) : List (Option FormeErr) :=
  (plates f).zipIdx.map fun e =>
    leastErr ((crossOf f e.1).map fun c => chk c.1 c.2.2 5 (secOff f 5 + 64 + 64 * e.2 + c.2.1))

/-! ### Resources (R40, R33, R73, R74, R84, R89, R265, R527 to R529, R873) -/

/-- Whether a slot holds a forme whose resources are reserved. -/
def State.loaded (s : State) (c : Nat) : Bool := !(s.chase c).forme.isEmpty

/-- The mark numbers that a slot owns: in direct mode every block-owned number of its regions and the chip-wide numbers it
names; in virtualised mode the numbers assigned to it (R527, R528). -/
def State.ownsMark (s : State) (c n : Nat) : Bool :=
  let f := s.forme c
  s.loaded c && (if mkMode f = 0 then
      if n < chipMark then bitOf (s.getF Fld.sysChaseRegions c) (n / 768) else (markEntries f).any fun m => m.id == n
    else s.flag Fld.mrkValid n && s.getF Fld.mrkSlot n == c)

/-- Whether another slot than `c` owns a mark number. -/
def State.markTaken (s : State) (c n : Nat) : Bool := (List.range 16).any fun k => k != c && s.ownsMark k n

/-- The numbers that a virtualised forme may take, in the order of R528. -/
def State.markPool (s : State) (c regions : Nat) : List Nat :=
  let own := (List.range chipMark).filter fun n => bitOf regions (n / 768)
  let chip := ((List.range 4096).map fun k => 16383 - k)
  let others := (List.range chipMark).filter fun n => !bitOf regions (n / 768) &&
    !(List.range 16).any fun k => k != c && s.loaded k && bitOf (s.getF Fld.sysChaseRegions k) (n / 768)
  (own ++ chip ++ others).filter fun n => !s.markTaken c n

/-- The mark entries of a forme with the numbers that they get. -/
def State.markPlan (s : State) (c : Nat) (f : Bytes) (regions : Nat) : List (MarkEnt × Option Nat) :=
  let ms := markEntries f
  if mkMode f = 0 then ms.map fun m => (m, if s.markTaken c m.id then none else some m.id)
  else
    let pool := s.markPool c regions
    ms.zipIdx.map fun e => (e.1, pool[e.2]?)

/-- In direct mode, whether another slot holds a block-owned number of the forme's regions (R527, R529). -/
def State.blockMarksTaken (s : State) (c : Nat) (f : Bytes) (regions : Nat) : Bool :=
  mkMode f == 0 && (List.range chipMark).any fun n => bitOf regions (n / 768) && s.flag Fld.mrkValid n &&
    s.getF Fld.mrkSlot n != c && s.markTaken c n

/-- The first reservation whose addition exceeds the free HBM. -/
def overReserved (free : Nat) : Nat → List (Nat × Nat × Nat) → Option (Nat × Nat)
  | _, [] => none
  | used, e :: t => if free < used + e.1 then some e.2 else overReserved free (used + e.1) t

/-- The installer envelope in ink, at most the clamp (R704). -/
def State.envelopeInk (s : State) : Nat := 2 * min (s.getF Fld.inkInstallW 0) (s.getF Fld.inkClampW 0)

def popcount16 (m : Nat) : Nat := ((List.range 16).filter (bitOf m)).length

/-- The resource checks for loading `f` into slot `c`. DESIGN CHOICE, where the spec names nothing: MARK_CONFLICT over a number that no
mark entry names (R527, R529) reports the first byte of the mark plan; the bytes of the forme being replaced do not count in the
256 MiB of the forme store. -/
def State.resourceChecks (s : State) (c : Nat) (f : Bytes) : List (Option FormeErr) :=
  let ord := (ptOrdinal f s.nodeId).getD 0
  let regions := ptRegions f ord
  let o1 := secOff f 1
  let others := (List.range 16).filter fun k => k != c && s.loaded k
  let plan := s.markPlan c f regions
  [ chk (decide (others.length < 16)) 0xA0 0 0,
    chk ((List.range 16).all fun k => !bitOf regions k || s.regionValid k) 0xA2 1 (o1 + 10 + 8 * ord),
    chk (others.all fun k => s.getF Fld.sysChaseRegions k &&& regions == 0) 0xA3 1 (o1 + 10 + 8 * ord),
    (match plan.find? fun e => e.2.isNone with
      | some e => some ⟨0xA4, 4, secOff f 4 + e.1.pos⟩
      | none => chk (!s.blockMarksTaken c f regions) 0xA4 4 (secOff f 4)),
    chk (others.all fun k => ptTag (s.forme k) != ptTag f) 0xA5 1 o1,
    (overReserved (s.hbmFree c) 0 (formeReservations f regions)).map fun e => ⟨0xA6, e.1, secOff f e.1 + e.2⟩,
    (((inkClasses f).find? fun k => decide (s.envelopeInk < k.2.2 * popcount16 regions)).map fun k =>
      ⟨0xA7, 8, secOff f 8 + k.1 + 2⟩),
    chk (decide ((others.foldl (fun n k => n + (s.forme k).length) 0) + f.length ≤ 268435456)) 0xA8 0 8 ]

/-- The validator (R87, R872): the first check that fails. -/
def State.validate (s : State) (c : Nat) (f : Bytes) (ticketLen : Nat) : Option FormeErr :=
  match firstErr (headerChecks f ticketLen) with
  | some e => some e
  | none =>
    match firstErr (directoryChecks f 0 (128 + 48 * fhSections f) (dirEntries f) ++ sectionSetChecks f ++ digestChecks f ++
        lengthChecks f) with
    | some e => some e
    | none =>
      let regions := ptRegions f ((ptOrdinal f s.nodeId).getD 0)
      firstErr ([reservedCheck f, partitionChecks f s.nodeId, wiringChecks f, timingChecks f, markChecks f regions,
        plateChecks f, tintChecks f, galleyChecks f, inkChecks f] ++ crossChecks f ++ s.resourceChecks c f)

end Sys2Proof.Machine
end

