-- ==== Sys2Proof/Machine/Chase.lean ====
section
/-! DEFINITION. The chase tickets (R91 to R106, R874): loading a forme, starting and joining (R98 to R100), stopping, teardown;
and the messages JOIN, START and STOP between members. -/

namespace Sys2Proof.Machine

/-- A ticket that its slot's state does not accept (R92, R874). -/
def State.busy (s : State) (t : Ticket) : State := s.done t stChase (dForme veChaseBusy 0 0)

/-! ### FORME_LOAD (R92, R94, R95) -/

/-- A local row of a new layout under the old layout (R303, R321). -/
def oldRow (old : GalleySt) (d : Bytes) (m o m' o' k : Nat) : Option Nat :=
  (rowIndex (gdSharded d) m' o' k).bind fun i => if i < gdSlugs d then Machine.localRow old.sharded m o i else none

/-- The place of a row's part in the kind of frame that `i` is: its slot, or its tag. -/
def partPlace (r i k : Nat) : Nat × Nat := if i < 2 ^ 40 then slotPlace r k else tagPlace k

/-- Copy bytes of a galley frame into a new one, with their poison. -/
def State.copyPart (s : State) (c : Nat) (map : List (Nat × Nat)) (src : Nat × Nat) (n : Nat) (dst : FrameEnt) (off : Nat) : State :=
  let s1 := s.devWrite (s.entryHa dst off) (s.galRead false c map src.1 src.2 n)
  (List.range (ceilDiv n 32)).foldl (fun s k =>
    if s.galPoison false c map src.1 (src.2 + 32 * k) then s.devPoison (s.entryHa dst (off + 32 * k)) 1 else s) s1

/-- Lay one frame of a state anew: shared with a state laid before whose rows come from the same frames, else with a copy of its
rows; `back` gives the old row of a new one. -/
def State.relayFrame (s : State) (c r : Nat) (back : Nat → Option Nat) (x : GalState) (done : List (GalState × GalState)) (i : Nat) :
    State × Option Nat :=
  let feed := (frameRows r i).filterMap fun k => (back k).map fun q => (k, q)
  let sig (y : GalState) : List (Option Nat × Nat) := feed.map fun e =>
    let key := kvGet y.map (partPlace r i e.2).1
    (key, if key.isSome then 0 else y.root)
  match (done.find? fun y => sig y.1 == sig x).bind fun y => kvGet y.2.map i with
  | some key => (s, some key)
  | none => match s.newGalFrame c i 0 with
    | (s1, none) => (s1, none)
    | (s1, some key) => match s1.frame c key with
      | none => (s1, some key)
      | some e => (feed.foldl (fun s q => s.copyPart c x.map (partPlace r i q.2) (if i < 2 ^ 40 then slotBytes r else 2) e
          (partPlace r i q.1).2) s1, some key)

/-- Lay a state anew: every frame of the new layout that holds a row whose old frame is listed; the blank slug stays. -/
def State.relayState (s : State) (c r rows : Nat) (back : Nat → Option Nat) (x : GalState) (done : List (GalState × GalState)) :
    State × GalState :=
  let ks := (List.range rows).filter fun k => match back k with
    | some q => (rowFrames r q).any fun i => (kvGet x.map i).isSome
    | none => false
  let idx := (ks.flatMap (rowFrames r)).eraseDups
  let z := idx.foldl (fun a i =>
    let q := a.1.relayFrame c r back x done i
    (q.1, match q.2 with | some key => kvPut a.2 i key | none => a.2)) (s, x.map.filter fun e => e.1 == blankFrame)
  (z.1, { x with map := z.2 })

/-- Lay the master anew. -/
def State.relayMaster (s : State) (c id n rows : Nat) (back : Nat → Option Nat) (old : List (Nat × Nat)) : State :=
  let elem (s : State) (k q j : Nat) : State :=
    let src := masterPlace n q j
    let dst := masterPlace n k j
    if (kvGet old src.1).isNone then s
    else
      let s1 := s.ownMaster c id dst.1
      match (s1.galley c id).bind fun g => (kvGet g.masterMap dst.1).bind (s1.frame c) with
      | some e => s1.copyPart c old src 8 e dst.2
      | none => s1
  (List.range rows).foldl (fun s k => match back k with
    | some q => (List.range n).foldl (fun s j => elem s k q j) s
    | none => s) s

/-- A galley that a replacement keeps takes its new declaration; its rows keep their slugs (R95, R321). A guest copy stays only
where the members hold the rows as before. -/
def State.keepGalley (s : State) (c : Nat) (old : GalleySt) (d : Bytes) (m o m' o' : Nat) : State :=
  let id := gdId d
  let same := old.sharded == gdSharded d && m == m' && o == o'
  let both := gdTrainable d && gdTrainable old.decl
  let new : GalleySt := { old with
    decl := d, sharded := gdSharded d, masterMap := if both then old.masterMap else [], dirty := if both then old.dirty else [] }
  if same then s.setGalley c id new
  else
    let rows := localRows (gdSharded d) m' o' (gdSlugs d)
    let back := oldRow old d m o m' o'
    let z := old.states.foldl (fun (a : State × List (GalState × GalState)) x =>
      let q := a.1.relayState c old.r rows back x a.2
      (q.1, a.2 ++ [(x, q.2)])) (s, [])
    let s1 := z.1.setGalley c id { new with
      states := z.2.map (·.2), masterMap := [], guestMap := []
      dirty := (List.range rows).filter fun k => both && (back k).any old.dirty.contains }
    let s2 := if both then s1.relayMaster c id old.n rows back old.masterMap else s1
    s2.updChase c fun x => { x with guests := x.guests.filter (·.galley != id) }

/-- A declaration keeps the galley of another (R95). -/
def sameShape (a b : Bytes) : Bool := gdSlugs a == gdSlugs b && gdElements a == gdElements b && gdType a == gdType b

/-- The galleys of a slot under a new forme: kept ones and new ones (R95, R316). -/
def State.mergeGalleys (s : State) (c : Nat) (old : List (Nat × GalleySt)) (f : Bytes) (m o m' o' : Nat) : State :=
  let s1 := (galDecls f).foldl (fun s d => match kvGet old (gdId d) with
    | some g => if sameShape g.decl d then s.keepGalley c g d m o m' o' else s.setGalley c (gdId d) (newGalley d)
    | none => s.setGalley c (gdId d) (newGalley d)) (s.updChase c fun x => { x with galleys := [] })
  s1.sweepGal c

/-- On-chip homes in regions that a slot no longer holds go back to their HBM frames; copies there go, and migrations to there are
abandoned. -/
def State.leaveRegions (s : State) (c mask : Nat) : State :=
  let out (t : Store) : Bool := decide (t.tier ≤ 2) && !bitOf mask t.region
  let s1 := (s.chase c).frames.foldl (fun s e => if e.2.tier ≤ 2 ∧ bitOf mask e.2.region = false then s.demote c e.1 e.2 else s) s
  s1.dropStores c out

/-- Put a valid forme into a slot: regions, marks and galleys are reserved, the slot is LOADED. -/
def State.installForme (s : State) (c : Nat) (f : Bytes) : State :=
  let o' := (ptOrdinal f s.nodeId).getD 0
  let mask := ptRegions f o'
  let s1 := (s.releaseMarks c).leaveRegions c mask
  let old := s1.chase c
  let kept (id : Nat) : Bool := match galDecl f id, kvGet old.galleys id with
    | some d, some h => sameShape h.decl d
    | _, _ => false
  let s2 := (s1.mergeGalleys c old.galleys f (s1.members c) (s1.ordinal c) (ptCount f) o').updChase c fun x => { x with
    forme := f, joined := [], plans := [], arrayOut := [], deltaIn := [], guestIn := []
    slugs := x.slugs.filter fun e => kept e.galley, slugCopies := x.slugCopies.filter fun e => kept e.galley
    guests := x.guests.filter fun e => kept e.galley
    migrations := x.migrations.filter fun m => m.kind < 3 || kept m.key }
  let s3 := s2.setFs c [(Fld.sysChaseRegions, mask), (Fld.sysChaseState, csLoaded), (Fld.stkPeriodNs, stPeriodNs f),
    (Fld.stkLockupPm, stLockupPm f), (Fld.stkHoldPm, stHoldPm f), (Fld.stkDistPm, stDistPm f), (Fld.stkEpoch, stEpoch f),
    (Fld.mrkMode, mkMode f), (Fld.mrkContexts, mkContexts f)]
  s3.assignMarks c (s3.markPlan c f mask)

/-- A ticket whose slot is idle puts it into VALIDATING, its prior forme intact (R91, R92). -/
def State.beginForme (s : State) (c : Nat) : State :=
  (s.updChase c fun x => { x with priorIdle := s.cs c }).setF Fld.sysChaseState c csValidating

/-- The slot leaves VALIDATING for its prior state; a valid forme then makes it LOADED (R92). -/
def State.endForme (s : State) (c : Nat) : State := s.setF Fld.sysChaseState c (s.chase c).priorIdle

/-- The copy and the checks of a slot in VALIDATING, and its new state (R86 to R97). -/
def State.loadForme (s : State) (t : Ticket) : State :=
  let c := tkSlot t.raw
  match s.srcRead t (tpSrcSpace t.raw) (tpSrc t.raw) (min (tpLen t.raw) (2 ^ 26)) with
  | (s1, none) => (s1.endForme c).done t stWindow []
  | (s1, some (f, _)) =>
    match s1.validate c f (tpLen t.raw) with
    | some e => ((s1.endForme c).noteErr c e.code e.ty).done t stChase (dForme e.code e.ty e.off)
    | none => ((s1.endForme c).installForme c f).done t stOk (dForme 0 0 0)

/-- FORME_LOAD: one whole step, from an idle state through VALIDATING. -/
def execFormeLoad (ring : Nat) (x : TicketIn) (s : State) : Ans :=
  .next (s.withXfers x.hbm fun s => s.ticketAct ring x.seq 0x01 fun t s =>
    let c := tkSlot t.raw
    if s.cs c = csEmpty ∨ s.cs c = csLoaded ∨ s.cs c = csFaulted then (s.beginForme c).loadForme t else s.busy t)

/-! ### Starting (R96, R98 to R100) -/

/-- The regions of a slot that are not valid any more. -/
def State.regionsGone (s : State) (c : Nat) : Bool := (s.heldRegions c).any fun k => !s.regionValid k

/-- Every member has joined with the digest of this forme. -/
def State.allJoined (s : State) (c : Nat) : Bool :=
  (List.range (s.members c)).all fun i => (s.chase c).joined.any fun j => j.1 == i

/-- The epoch and start stroke that the root fixes (R100). -/
def startEpoch (stEpoch lastJoin : Nat) : Nat :=
  if stEpoch = 0 then ceilDiv (lastJoin + 1000000000) 1000000000 * 1000000000 else stEpoch
def startStrokeAt (e p lastJoin : Nat) : Nat := if lastJoin + 1000000 ≤ e then 0 else ceilDiv (lastJoin + 1000000 - e) p

/-- The root fixes the start stroke once every member has joined, and announces it with the announce latency L. A chase restarted
from FAULTED goes on counting from the epoch it had (R104). -/
def State.fixStart (s : State) (c : Nat) : State :=
  if s.cs c == csJoining && s.ordinal c == 0 && s.allJoined c && (s.chase c).startStroke.isNone then
    let at0 := (s.chase c).joinedAt
    let e := if (s.chase c).priorIdle = csFaulted ∧ stEpoch (s.forme c) = 0 ∧ s.getF Fld.stkEpoch c ≠ 0 then s.getF Fld.stkEpoch c
      else startEpoch (stEpoch (s.forme c)) at0
    let n := startStrokeAt e (s.periodNs c) at0
    let s1 := (s.setF Fld.stkEpoch c e).updChase c fun x => { x with startStroke := some n, judge := n }
    s1.sendAll c ctlStart (words [n, e, s1.getF Fld.stkAnnounce c])
  else s

/-- A digest of another member stands against this member's own (R99). -/
def State.mismatch (s : State) (c : Nat) : Bool := (s.chase c).joined.any fun j => j.2 != fhHeaderDigest (s.forme c)

/-- A member has joined: a digest that differs fails a start; the last join lets the root fix the start. -/
def State.checkJoin (s : State) (c : Nat) : State :=
  if s.cs c == csJoining then
    if s.mismatch c then s.failStart c vePeerMismatch 0 0 (s.chase c).priorIdle else s.fixStart c
  else s

/-- Record a member's join. -/
def State.addJoin (s : State) (c ordinal : Nat) (digest : Bytes) : State :=
  s.updChase c fun x => { x with joined := kvPut x.joined ordinal digest, joinedAt := s.now }

/-- CHASE_START's work (R92, R96, R98, R104, R452, R560). -/
def State.startChase (s : State) (t : Ticket) : State :=
  let c := tkSlot t.raw
  if (s.cs c != csLoaded && s.cs c != csFaulted) || s.flag Fld.rasFatal 0 then s.busy t
  else if s.regionsGone c then s.failStart c veRegionInvalid 1 (s.regionsOff c) csFaulted
  else
    let s1 := s.setFs c [(Fld.sysChaseState, csJoining), (Fld.stkFault, 0), (Fld.stkConsecSlips, 0), (Fld.stkParked, 0),
      (Fld.stkPlate, plEntry (s.forme c)),
      (Fld.stkAnnounce, if (s.chase c).joined.isEmpty then 1 else max 1 (s.getF Fld.stkAnnounce c))]
    let s2 := s1.updChase c fun x => { x with
      priorIdle := s.cs c, joinBy := s.now + 1000000 * s.getF Fld.sysJoinTimeoutMs 0, startStroke := none, stopAt := none, begun := false, verdict := none, dones := [], switchReqs := []
      finished := false, doneSent := false, inDist := false, substituting := false, realign := false, sumParts := [], redIn := [], exchBegun := []
      plate := { PlateRt.none with index := plEntry (s.forme c) }, slots := List.replicate 8 SummarySlot.empty }
    let s3 := (s2.clearMarks c).reserveGuests c
    let digest := fhHeaderDigest (s3.forme c)
    let s4 := (s3.addJoin c (s3.ordinal c) digest).sendAll c ctlJoin (words [s3.ordinal c] ++ digest)
    s4.checkJoin c

/-- CHASE_START. -/
def execChaseStart (ring seq : Nat) (s : State) : Ans := .next (s.ticketAct ring seq 0x02 fun t s => s.startChase t)

/-- JOIN: another member announces its digest (R98); `latency` is the one-way latency to it that the root measures at the
join, of which the largest, rounded up to 64 ns, is L. -/
def execJoin (slot ordinal : Nat) (digest : Bytes) (latency : Nat) (s : State) : Ans :=
  .next (s.ifB (s.isReady && s.takesMsgs slot && decide (ordinal < s.members slot) && ordinal != s.ordinal slot) fun s =>
    let s1 := (s.ackCtl slot ctlJoin ordinal).addJoin slot ordinal (slice digest 0 32)
    (s1.raiseTo Fld.stkAnnounce slot (satNat (ceilDiv latency 64) 65535)).checkJoin slot)

/-- JOIN_TIMEOUT: not every member has joined within the join timeout (R99). -/
def execJoinTimeout (slot : Nat) (s : State) : Ans :=
  .next (s.ifB (s.isReady && s.cs slot == csJoining && (s.chase slot).startStroke.isNone && !s.allJoined slot) fun s =>
    (s.passTo (s.chase slot).joinBy).failStart slot vePeerTimeout 0 0 (s.chase slot).priorIdle)

/-- START: the root announces the start stroke, the epoch and L (R100). -/
def execStart (slot stroke epoch announce : Nat) (s : State) : Ans :=
  .next (s.ifB (s.isReady && s.cs slot == csJoining && s.ordinal slot != 0) fun s =>
    ((s.ackCtl slot ctlStart 0).setFs slot [(Fld.stkEpoch, epoch), (Fld.stkAnnounce, announce)]).updChase slot fun x =>
      { x with startStroke := some stroke })

/-! ### Stopping (R101, R102, R132) -/

/-- The lowest stop stroke applies (R102). A GO already held for a stroke that may not begin any more was the verdict at which every
member had finished: the chase goes to LOADED (R132). -/
def State.setStop (s : State) (c n : Nat) : State :=
  let s1 := (s.setF Fld.sysChaseState c csStopping).updChase c fun x => { x with
    stopAt := some (match x.stopAt with | some m => min m n | none => n) }
  match (s1.chase c).verdict with
  | some (m, _) => if (s1.chase c).stopAt.all fun k => decide (k ≤ m) then s1.stopped c else s1
  | none => s1

/-- CHASE_STOP's work. DESIGN CHOICE (log 138): one that takes a JOINING chase back to LOADED reports 0 in D_VALUE, since no stop stroke
S exists then. -/
def State.stopChase (s : State) (t : Ticket) : State :=
  let c := tkSlot t.raw
  if s.cs c = csJoining then
    let s1 := (s.setF Fld.sysChaseState c csLoaded).updChase c fun x => { x with joined := [], startStroke := none }
    ((s1.endStart c stChaseEnded (s1.dEnd c)).freeAllDraining c).done t stOk (dValue 0 0)
  else if s.cs c = csRunning then
    let n := s.getF Fld.stkNumber c + 2
    (s.sendAll c ctlStop (words [s.ordinal c, n])).setStop c n
  else s.busy t

/-- CHASE_STOP. -/
def execChaseStop (ring seq : Nat) (s : State) : Ans := .next (s.ticketAct ring seq 0x03 fun t s => s.stopChase t)

/-- STOP: another member announces a stop stroke. -/
def execStop (slot ordinal stroke : Nat) (s : State) : Ans :=
  .next (s.ifB (s.isReady && decide (ordinal < s.members slot) && s.csStriking slot) fun s =>
    (s.ackCtl slot ctlStop ordinal).setStop slot stroke)

/-! ### Teardown (R92, R103, R105) -/

/-- Everything that a slot holds is released: the slot is EMPTY (R105, R159, R423, R485, R488, R636). A SAMPLE ticket that this
ends reports the chase as it then stands, EMPTY with STK_FAULT 0 (DEDUCED: R159 names no moment). -/
def State.tearDown (s : State) (c : Nat) : State :=
  let held := s.heldRegions c
  let work := (s.chase c).work
  let s1 := ((s.releaseMarks c).freeFrames c).dropInk c
  let s2 := held.foldl (fun s k =>
    let p := s.physOf k
    (s.setF Fld.rcLockWays p 0).setF Fld.rcWaysPending p (natOfBool (s.flag Fld.rcWaysPending p || s.getF Fld.rcEffLock p != 0))) s1
  let s3 := (s2.resetSlotRegs c).setChase c { ChaseSt.empty with work := work }
  let s4 := (s3.freeSamples c).dropGroups c
  let s5 : State := { s4 with eth := { s4.eth with mrs := s4.eth.mrs.map fun m => if m.2.slot = some c then (m.1, { m.2 with valid := false }) else m } }
  (s5.updFab fun x => { x with sent := x.sent.filter (·.slot != c), queued := x.queued.filter (·.slot != c) }).slotEmptied c

/-- CHASE_TEARDOWN. -/
def execChaseTeardown (ring seq : Nat) (s : State) : Ans :=
  .next (s.ticketAct ring seq 0x04 fun t s =>
    let c := tkSlot t.raw
    if s.cs c = csLoaded ∨ s.cs c = csFaulted then (s.tearDown c).done t stOk [] else s.busy t)

end Sys2Proof.Machine
end

