-- ==== Sys2Proof/Machine/Rsa.lean ====
section
/-! DEFINITION. RSASSA-PSS verification with SHA-256 and a 3,072-bit modulus (the approved algorithms of the security
island). -/

namespace Sys2Proof.Machine

/-- `b` to the power `e` modulo `n`, over `fuel` bits of the exponent. -/
def powMod (n : Nat) : Nat → Nat → Nat → Nat
  | 0, _, _ => 1 % n
  | k + 1, b, e =>
    let h := powMod n k (b * b % n) (e / 2)
    if e % 2 = 1 then h * b % n else h

/-- MGF1 with SHA-256: `len` bytes of mask. -/
def mgf1 (seed : Bytes) (len : Nat) : Bytes :=
  (((List.range ((len + 31) / 32)).map fun k => sha256 (seed ++ natBe 4 k)).flatten).take len

def xorBytes (a b : Bytes) : Bytes := List.zipWith (· ^^^ ·) a b

/-- EMSA-PSS verification of an encoded message of 384 bytes for a hash; the salt is of 32 bytes. -/
def emsaPssOk (hash em : Bytes) : Bool :=
  let masked := em.take 351
  let h := slice em 351 32
  let db0 := xorBytes masked (mgf1 h 351)
  let db := patch db0 0 (natLe 1 (u8At db0 0 % 128))
  let rest := db.dropWhile fun b => b == 0
  let salt := rest.drop 1
  u8At em 383 == 0xBC && decide (u8At em 0 < 128) && u8At rest 0 == 1 && salt.length == 32 &&
    sha256 (List.replicate 8 0 ++ hash ++ salt) == h

/-- A signature of 384 bytes over a message verifies against a modulus and public exponent. -/
def pssVerify (modulus exponent : Nat) (msg sig : Bytes) : Bool :=
  let s := beNat sig
  decide (2 ^ 3071 ≤ modulus) && decide (s < modulus) && emsaPssOk (sha256 msg) (natBe 384 (powMod modulus 32 s exponent))

end Sys2Proof.Machine
end

