-- ==== Sys2Proof/Machine/Security.lean ====
section
/-! DEFINITION. The security island: the mailbox (R746 to R757), two-party operations (R758 to R763), fences as records (R764,
R765), attestation (R773, R774), debug access and the test port (R781 to R783), zeroisation (R786). -/

namespace Sys2Proof.Machine

/-! ### The mailbox command (R750) -/

def mcOpcode (b : Bytes) : Nat := u16At b 0
def mcLen (b : Bytes) : Nat := u16At b 2
def mcSigs (b : Bytes) : Nat := u8At b 4
def mcSerial (b : Bytes) : Nat := u64At b 8
def mcChallenge (b : Bytes) : Nat := u64At b 16
def mcBody (b : Bytes) : Bytes := slice b 64 (mcLen b)

/-- Where the signature blocks start; the signed bytes end there (R751). -/
def mcSigOff (b : Bytes) : Nat := 64 + 64 * ((mcLen b + 63) / 64)
def mcBlock (b : Bytes) (i : Nat) : Bytes := slice b (mcSigOff b + 392 * i) 392
def mcCreds (b : Bytes) : List Nat := (List.range (min (mcSigs b) 2)).map fun i => u16At (mcBlock b i) 0

/-- A command's row: 0 unsigned, 1 single signature, 2 two-party; body length (R755). -/
def mbForm (op : Nat) : Option (Nat × Nat) :=
  match op with
  | 0x01 => some (0, 0)
  | 0x02 => some (0, 12)
  | 0x03 => some (0, 0)
  | 0x10 => some (1, 2)
  | 0x11 => some (1, 2)
  | 0x12 => some (1, 11)
  | 0x13 => some (1, 13)
  | 0x14 => some (1, 27)
  | 0x20 => some (1, 7)
  | 0x30 => some (2, 576)
  | 0x31 => some (2, 391)
  | 0x32 => some (2, 5)
  | 0x33 => some (2, 6)
  | 0x34 => some (2, 4)
  | _ => none

/-- Result codes (R757). -/
def mrOk : Nat := 0
def mrBusy : Nat := 1
def mrBadFormat : Nat := 2
def mrSerial : Nat := 3
def mrChallenge : Nat := 4
def mrSignature : Nat := 5
def mrCredential : Nat := 6
def mrRange : Nat := 7
def mrState : Nat := 8
def mrSelftest : Nat := 9
def mrStorage : Nat := 10

/-- The layout of a command (R750): known opcode, body of its length, reserved bytes zero. -/
def mbLayoutOk (b : Bytes) : Bool :=
  match mbForm (mcOpcode b) with
  | none => false
  | some f =>
    mcLen b == f.2 && decide (mcSigs b ≤ 2) && allZero (slice b 5 3) && allZero (slice b 24 40) &&
      (mcSigs b != 0 || mcChallenge b == 0) && (List.range (mcSigs b)).all fun i => allZero (slice (mcBlock b i) 2 6)

/-! ### Credentials (R746 to R748, R754, R758) -/

def credRole (id : Nat) : Nat := id / 4096

/-- A credential by ID. -/
def State.cred? (s : State) (id : Nat) : Option Cred := (s.sec.creds ++ s.sec.makers).find? fun c => c.id == id

/-- The credentials enrolled with a role. -/
def State.enrolled (s : State) (role : Nat) : Nat := (s.sec.creds.filter fun c => credRole c.id == role).length

/-- ENROL body: 0 enrol or 1 revoke; the credential (modulus and exponent little-endian, R8). -/
def enOp (d : Bytes) : Nat := u8At d 0
def enCred (d : Bytes) : Cred := ⟨u16At d 1, leNat (slice d 3 384), u32At d 387⟩

/-- A bootstrap ENROL: an installer credential with fewer than two installers enrolled (R758). -/
def State.bootstrap (s : State) (op : Nat) (d : Bytes) : Bool :=
  op == 0x31 && enOp d == 0 && credRole (enCred d).id == 2 && decide (s.enrolled 2 < 2)

/-- Two roles, one of each, in either order. -/
def rolesAre (ids : List Nat) (a b : Nat) : Bool := ids.map credRole == [a, b] || ids.map credRole == [b, a]

/-- The signatures of a command are those that it takes (R754, R755, R758). -/
def State.credsOk (s : State) (b : Bytes) : Bool :=
  let op := mcOpcode b
  let d := mcBody b
  let ids := mcCreds b
  let known := ids.all fun i => (s.cred? i).isSome
  let distinct := ids.eraseDups.length == ids.length
  let form : Nat := ((mbForm op).map (·.1)).getD 0
  if form = 0 then mcSigs b == 0
  else if form = 1 then known && ids.map credRole == [if op = 0x20 then 1 else 2]
  else if s.bootstrap op d then
    distinct && ids.length == 2 && ids.contains (enCred d).id && (s.cred? (enCred d).id).isNone &&
      ids.all fun i => i == (enCred d).id || (credRole i == 3 && (s.cred? i).isSome)
  else
    known && distinct &&
      (if op = 0x30 then rolesAre ids 2 2
      else if op = 0x31 then rolesAre ids 2 2 && (credRole (enCred d).id != 2 || decide (2 ≤ s.enrolled 2))
      else if op = 0x32 ∧ u8At d 0 = 0 then ids.any fun i => credRole i == 2
      else if op = 0x32 ∧ u8At d 0 = 1 then rolesAre ids 1 2
      else rolesAre ids 3 2)

/-- Every signature verifies over the header and body (R751); the candidate of a bootstrap signs with the key in the body. -/
def State.sigsOk (s : State) (b : Bytes) : Bool :=
  (List.range (mcSigs b)).all fun i =>
    let k := u16At (mcBlock b i) 0
    let c := if s.bootstrap (mcOpcode b) (mcBody b) && k == (enCred (mcBody b)).id then some (enCred (mcBody b)) else s.cred? k
    match c with
    | some c => pssVerify c.modulus c.exponent (b.take (mcSigOff b)) (slice (mcBlock b i) 8 384)
    | none => false

/-! ### The fence record (R764, R765) -/

def fcMagic : Nat := 0x45434E46

/-- Entries beyond a count are zero. -/
def beyondZero (b : Bytes) (off w n total : Nat) : Bool := allZero (slice b (off + w * n) (w * (total - n)))

/-- A fence record keeps the table. -/
def fenceOk (b : Bytes) : Bool :=
  u32At b 0 == fcMagic && decide (300 ≤ u16At b 8) && decide (u16At b 8 ≤ 1800) && decide (90 ≤ u8At b 10) &&
    decide (u8At b 10 ≤ 115) && allZero (slice b 11 53) && ((List.range 96).all fun l => decide (u16At b (64 + 2 * l) ≤ 256)) &&
    (List.range 4).all fun q =>
      let p := slice b (256 + 80 * q) 80
      decide (u8At p 0 ≤ 4) && decide (u8At p 1 ≤ 16) && decide (u8At p 2 ≤ 8) && u8At p 3 == 0 && decide (u16At p 4 ≤ 800) &&
        u16At p 6 == 0 && beyondZero p 8 6 (u8At p 0) 4 && beyondZero p 32 2 (u8At p 1) 16 && beyondZero p 64 2 (u8At p 2) 8

/-! ### Ranges and state (R753 steps 6 and 7) -/

/-- An authorisation's duration (R755). -/
def durationOk (n : Nat) : Bool := decide (1 ≤ n) && decide (n ≤ 86400)

/-- The body of a SET_FABRIC fits a topology of R614 and R615. -/
def fabricBodyOk (d : Bytes) : Bool :=
  let t := u8At d 4
  let dim (n : Nat) : Bool := n == 1 || decide (3 ≤ n)
  let x := u16At d 5
  let y := u16At d 7
  let z := u16At d 9
  decide (x < 512) && decide (y < 512) && decide (z < 512) &&
    (t == 0 || (t == 1 && dim x && dim y && dim z && decide (x * y ≤ 256) && decide (z ≤ 128)) ||
      (t == 2 && decide (2 ≤ x) && decide (x ≤ 64)))

/-- The body's values are in range. -/
def State.mbRangeOk (s : State) (op : Nat) (d : Bytes) : Bool :=
  match op with
  | 0x02 => decide (1 ≤ u32At d 8) && decide (u32At d 8 ≤ 64)
  | 0x10 => decide (300 ≤ u16At d 0)
  | 0x12 => fabricBodyOk d
  | 0x13 => (pagesOf (u64At d 0) (u32At d 8)).all fun p => s.pageGranted false p
  | 0x14 => decide (u8At d 0 < 4)
  | 0x20 => decide (u8At d 6 ≤ 1) && (u8At d 6 == 1 || durationOk (u32At d 2))
  | 0x30 => fenceOk d
  | 0x31 =>
    let id := (enCred d).id
    decide (enOp d ≤ 1) && (credRole id == 1 || credRole id == 2) && decide (id % 4096 < 8)
  | 0x32 => decide (u8At d 0 ≤ 2) && (u8At d 0 == 0 || durationOk (u32At d 1))
  | 0x33 => decide (u16At d 0 < 4096) && durationOk (u32At d 2)
  | 0x34 => u32At d 0 == 0x5A45524F
  | _ => true

/-- The current state allows the command: no credential is enrolled twice, none revoked that is not enrolled, at least two
installers stay (R759); only an open session is closed. -/
def State.mbStateOk (s : State) (op : Nat) (d : Bytes) : Bool :=
  if op = 0x20 ∧ u8At d 6 = 1 then s.flag Fld.secSession 0
  else if op = 0x31 then
    let id := (enCred d).id
    if enOp d = 0 then (s.cred? id).isNone
    else (s.cred? id).isSome && (credRole id != 2 || decide (3 ≤ s.enrolled 2))
  else true

/-- The challenge is unused and has not lapsed (R752). -/
def State.challengeOk (s : State) (c : Nat) : Bool :=
  s.sec.challenges.any fun e => e.1 == c && decide (s.upNs < e.2 + 600 * 10 ^ 9)

/-- The first check that a command fails (R753), or OK; the flag says that the challenge check was reached. -/
def State.mbCheck (s : State) (b : Bytes) : Nat × Bool :=
  let form : Nat := ((mbForm (mcOpcode b)).map (·.1)).getD 0
  let d := mcBody b
  if s.getF Fld.secIslandState 0 = islError then (mrSelftest, false)
  else if form != 0 && s.getF Fld.secIslandState 0 == islIdentityFail then (mrState, false)
  else if !mbLayoutOk b then (mrBadFormat, false)
  else if mcSerial b != Config.serial.toNat then (mrSerial, false)
  else if form != 0 && !s.challengeOk (mcChallenge b) then (mrChallenge, true)
  else if !s.credsOk b then (mrCredential, true)
  else if !s.sigsOk b then (mrSignature, true)
  else if !s.mbRangeOk (mcOpcode b) d then (mrRange, true)
  else if !s.mbStateOk (mcOpcode b) d then (mrState, true)
  else (mrOk, true)

/-! ### Effects (R755) -/

def State.updSec (s : State) (f : SecSt → SecSt) : State := { s with sec := f s.sec }

/-- GET_CHALLENGE: a fresh u64; a seventeenth discards the oldest (R752). -/
def State.newChallenge (s : State) : State × Bytes :=
  let r := s.fresh
  let c := r.1 % 2 ^ 64
  let l := r.2.sec.challenges ++ [(c, s.upNs)]
  (r.2.updSec fun x => { x with challenges := l.drop (l.length - 16) }, natLe 8 c)

/-- A certificate (R755, R773). -/
def certBytes (k : Nat) : Bytes := (List.range (Config.certLen k).val).map (Config.certByte k)

/-- The entries of READ_COLOPHON and the checkpoints that cover them (R755, R777). -/
def State.readColophon (s : State) (first count : Nat) : State × Bytes :=
  let es := s.sec.colophon.filter fun e => decide (first ≤ e.1) && decide (e.1 < first + count)
  let cks := s.sec.ckpts.reverse.filter fun c => es.any fun e => decide (e.1 ≤ c.seq) && decide (c.seq < e.1 + 256)
  (s, (es.flatMap (·.2) ++ cks.flatMap Checkpoint.bytes).take 16384)

/-- The installer settings record is written: RPMB takes its version (R756, R770). -/
def State.storeSettings (s : State) (f : Settings → Settings) : State :=
  s.updSec fun x => { x with settings := f x.settings, settingsVer := x.rpmb }

/-- The firmware slot from which the device has not booted (R755): the secondary one, but after a boot from that the primary. -/
def State.idleSlot (s : State) : Nat := if s.flag Fld.sysBootSecondary 0 then 0 else 1

/-- SET_NET_ID: addresses in network byte order (R630, R755). -/
def State.setNet (s : State) (d : Bytes) : State :=
  let q := u8At d 0
  let n : NetId := ⟨beNat (slice d 1 6), beNat (slice d 7 4), beNat (slice d 11 16)⟩
  (s.storeSettings fun x => { x with nets := x.nets.set q n }).setFs q
    [(Fld.ethMac, n.mac), (Fld.ethIp4, n.ip4), (Fld.ethIp6Hi, n.ip6 / 2 ^ 64), (Fld.ethIp6Lo, n.ip6 % 2 ^ 64)]

def State.setFabric (s : State) (d : Bytes) : State :=
  let x := u16At d 5
  let y := u16At d 7
  let z := u16At d 9
  (s.storeSettings fun k => { k with name := u32At d 0, topo := u8At d 4, x := x, y := y, z := z }).setFs 0
    [(Fld.hlkFbName, u32At d 0), (Fld.hlkFbTopo, u8At d 4), (Fld.hlkFbX, x), (Fld.hlkFbY, y), (Fld.hlkFbZ, z)]

/-- An authorisation of a kind comes into force and replaces one of the same kind (R762, R781). -/
def State.grantAuth (s : State) (kind mask seconds : Nat) (creds : List Nat) : State :=
  (s.updSec fun x => { x with
    auths := (x.auths.filter fun a => a.kind != kind) ++ [⟨kind, mask, s.upNs + seconds * 10 ^ 9, creds⟩] }).showAuths

/-- The counts of enrolled credentials. -/
def State.showCreds (s : State) : State :=
  s.setFs 0 [(Fld.secInstallers, s.enrolled 2), (Fld.secOperators, s.enrolled 1), (Fld.secMakers, s.sec.makers.length)]

/-- Revoking ends every authorisation that the credential signed (R760). -/
def State.revoke (s : State) (id : Nat) : State :=
  let s1 := s.updSec fun x => { x with creds := x.creds.filter fun c => c.id != id }
  (s1.sec.auths.filter fun a => a.creds.contains id).foldl (fun s a => s.endAuth a.kind) s1.showCreds

/-- ZEROISE (R786). -/
def State.zeroise (s : State) : State :=
  let s1 := s.checkpoint
  ((s1.updSec fun x => { x with creds := [], settings := Settings.empty, identity := false, zeroised := true }).showCreds).setFs 0
    [(Fld.secIslandState, islIdentityFail), (Fld.secApproved, 0)]

/-- The effect of an accepted command and its response. -/
def State.mbApply (s : State) (op : Nat) (d : Bytes) (creds : List Nat) : State × Bytes :=
  match op with
  | 0x01 => s.newChallenge
  | 0x02 => s.readColophon (u64At d 0) (u32At d 8)
  | 0x03 => (s, certBytes 0)
  | 0x10 =>
    let w := min (u16At d 0) (s.getF Fld.inkClampW 0)
    ((s.storeSettings fun x => { x with watts := some w }).setF Fld.inkInstallW 0 w, [])
  | 0x11 =>
    let v := u16At d 0
    let n := if bitOf v 15 then some (v % 2 ^ 15) else none
    (s.storeSettings fun x => { x with node := n }, [])
  | 0x12 => (s.setFabric d, [])
  | 0x13 =>
    let img := memGetRun s.hostMem (u64At d 0) (u32At d 8)
    ((s.updSec fun x => { x with slots := kvPut x.slots (256 * s.idleSlot + u8At d 12) img }).setF Fld.secFwPending 0 1, [])
  | 0x14 => (s.setNet d, [])
  | 0x20 =>
    ((if u8At d 6 = 1 then s.dropAuth 3 else s.grantAuth 3 (u16At d 0) (u32At d 2) creds).note
      ⟨ceSession, mrOk, op, creds.getD 0 0, creds.getD 1 0, sha256 d⟩, [])
  | 0x30 =>
    ((s.updSec fun x => { x with fencePending := some (patch d 4 (natLe 4 s.sec.rpmb)), fenceVer := x.rpmb }).setF Fld.secFencePending 0 1, [])
  | 0x31 =>
    let c := enCred d
    let s1 := if enOp d = 0 then (s.updSec fun x => { x with creds := x.creds ++ [c] }).showCreds else s.revoke c.id
    (s1.updSec fun x => { x with roleVer := x.rpmb }, [])
  | 0x32 => (if u8At d 0 = 0 then s.endAuth 1 else s.grantAuth 1 (u8At d 0) (u32At d 1) creds, [])
  | 0x33 => (s.grantAuth 2 (u16At d 0) (u32At d 2) creds, [])
  | 0x34 => (s.zeroise, [])
  | _ => (s, [])

/-- A checkpoint that covers the newest entry (R761, R777). -/
def State.coverNewest (s : State) : State :=
  if s.ckptSeq == s.sec.colophon.getLast?.map (·.1) then s else s.checkpoint

/-- Run a mailbox command: its result and response (R749 to R761). `storage` says that the eMMC and RPMB take writes. -/
def State.mbRun (s : State) (b : Bytes) (storage : Bool) : State × Nat × Bytes :=
  let op := mcOpcode b
  let d := mcBody b
  let ids := mcCreds b
  let form : Nat := ((mbForm op).map (·.1)).getD 0
  let ck := s.mbCheck b
  let kind := if form = 2 then ceTwoParty else ceSetting
  let entry (r : Nat) : ColEntry := ⟨kind, r, op, ids.getD 0 0, ids.getD 1 0, sha256 d⟩
  let s1 := if ck.2 && form != 0 then s.updSec fun x => { x with challenges := x.challenges.filter fun e => e.1 != mcChallenge b } else s
  if ck.1 != mrOk then (if form = 0 ∨ ck.1 = mrSelftest then s1 else s1.note (entry ck.1), ck.1, [])
  else if form = 0 then
    let r := s1.mbApply op d ids
    (r.1, mrOk, r.2)
  else if !storage then (s1, mrStorage, [])
  else if form = 1 then ((s1.mbApply op d ids).1.note (entry mrOk), mrOk, [])
  else
    let w := s1.record (entry mrOk)
    if !w.2 then (w.1, mrStorage, [])
    else ((w.1.coverNewest.mbApply op d ids).1, mrOk, [])

/-- The mailbox is served: the island is past its self-tests (R834). -/
def State.mbServed (s : State) : Bool := s.live && s.getF Fld.secIslandState 0 != islBooting

/-- Run the command in the mailbox buffer; the response replaces the buffer from offset 0 (R750). The mailbox is busy until time
passes (R749; DESIGN CHOICE, log 11: the command's effect comes at its start). -/
def State.mbGo (s : State) (storage : Bool) : State × Nat × Bytes :=
  let r := s.mbRun (memGetRun s.sec.buf 0 16384) storage
  ((r.1.updSec fun x => { x with buf := memPutRun x.buf 0 r.2.2 }).setFs 0
    [(Fld.secMbResult, r.2.1), (Fld.secMbRlen, r.2.2.length), (Fld.secMbBusy, 1)], r.2)

/-- A command runs already (R749). -/
def State.mbBusy (s : State) : Bool := s.flag Fld.secMbBusy 0

/-- A mailbox command of an opcode: started by a host write of SEC_MB_GO with the command in the buffer (`rid`), or passed on
from MCTP over I3C with the same bytes, which then stand in the buffer. One that is started while another runs completes with BUSY and
has no other effect (R749). -/
def State.mailbox (s : State) (op : Nat) (rid : Option Nat) (msg : Bytes) (storage : Bool) : State :=
  match rid with
  | some r => s.hostWrite r fun s =>
    s.ifB (s.mbServed && mcOpcode (memGetRun s.sec.buf 0 2) == op) fun s =>
      if s.mbBusy then s.setF Fld.secMbResult 0 mrBusy else (s.mbGo storage).1
  | none => s.ifB (s.mbServed && decide (s.stage ≠ stageRom) && mcOpcode msg == op) fun s =>
    if s.mbBusy then s.emit (.mctp mrBusy [])
    else
      let s1 := s.updSec fun x => { x with buf := memPutRun [] 0 (msg.take 16384) }
      let r := s1.mbGo storage
      r.1.emit (.mctp r.2.1 r.2.2)

/-! ### Meanings of the mailbox rows -/

/-- A conditional self-test of the serving island fails: a SELFTEST_FAIL entry, then the error state (R785). -/
def State.islandFails (s : State) : State :=
  s.ifB (s.mbServed && s.getF Fld.secIslandState 0 != islError) fun s =>
    (s.note ⟨ceSelftest, 0, 0, 0, 0, []⟩).setFs 0 [(Fld.secIslandState, islError), (Fld.secApproved, 0)]

/-- A mailbox command of an opcode reaches the island: from the host set through the buffer, or from MCTP, while no other runs (R749, R750). -/
def State.mailIn (s : State) (op : Nat) (rid : Option Nat) (msg : Bytes) : Bool :=
  !s.mbBusy && match rid with
  | some r => s.busUp && s.inHostSet r && mcOpcode (memGetRun s.sec.buf 0 2) == op
  | none => decide (s.stage ≠ stageRom) && mcOpcode msg == op

/-- GET_CHALLENGE; `sound` says that the entropy source passes its continuous tests on the samples drawn (R784, R785). Like every
unsigned command it writes no record, so that it does without the eMMC. -/
def execGetChallenge (rid : Option Nat) (msg : Bytes) (sound : Bool) (s : State) : Ans :=
  .next ((s.ifB (!sound && s.mailIn 0x01 rid msg) State.islandFails).mailbox 0x01 rid msg true)
/-- READ_COLOPHON. -/
def execReadColophon (rid : Option Nat) (msg : Bytes) (storage : Bool) (s : State) : Ans := .next (s.mailbox 0x02 rid msg storage)
/-- GET_IDENTITY. -/
def execGetIdentity (rid : Option Nat) (msg : Bytes) (storage : Bool) (s : State) : Ans := .next (s.mailbox 0x03 rid msg storage)
/-- SET_ENVELOPE. -/
def execSetEnvelope (rid : Option Nat) (msg : Bytes) (storage : Bool) (s : State) : Ans := .next (s.mailbox 0x10 rid msg storage)
/-- SET_NODE_ID. -/
def execSetNodeId (rid : Option Nat) (msg : Bytes) (storage : Bool) (s : State) : Ans := .next (s.mailbox 0x11 rid msg storage)
/-- SET_FABRIC. -/
def execSetFabric (rid : Option Nat) (msg : Bytes) (storage : Bool) (s : State) : Ans := .next (s.mailbox 0x12 rid msg storage)
/-- FW_STAGE. -/
def execFwStage (rid : Option Nat) (msg : Bytes) (storage : Bool) (s : State) : Ans := .next (s.mailbox 0x13 rid msg storage)
/-- SET_NET_ID. -/
def execSetNetId (rid : Option Nat) (msg : Bytes) (storage : Bool) (s : State) : Ans := .next (s.mailbox 0x14 rid msg storage)
/-- DEBUG_SESSION. -/
def execDebugSession (rid : Option Nat) (msg : Bytes) (storage : Bool) (s : State) : Ans := .next (s.mailbox 0x20 rid msg storage)
/-- FENCE_WRITE. -/
def execFenceWrite (rid : Option Nat) (msg : Bytes) (storage : Bool) (s : State) : Ans := .next (s.mailbox 0x30 rid msg storage)
/-- ENROL. -/
def execEnrol (rid : Option Nat) (msg : Bytes) (storage : Bool) (s : State) : Ans := .next (s.mailbox 0x31 rid msg storage)
/-- DEBUG_UNLOCK. -/
def execDebugUnlock (rid : Option Nat) (msg : Bytes) (storage : Bool) (s : State) : Ans := .next (s.mailbox 0x32 rid msg storage)
/-- REPAIR_ACCESS. -/
def execRepairAccess (rid : Option Nat) (msg : Bytes) (storage : Bool) (s : State) : Ans := .next (s.mailbox 0x33 rid msg storage)
/-- ZEROISE. -/
def execZeroise (rid : Option Nat) (msg : Bytes) (storage : Bool) (s : State) : Ans := .next (s.mailbox 0x34 rid msg storage)

/-! ### Time and the island -/

/-- CHALLENGE_LAPSE: an unused challenge is 600 s old (R752). -/
def execChallengeLapse (challenge : Nat) (s : State) : Ans :=
  .next (s.ifB s.live fun s => s.updSec fun x => { x with challenges := x.challenges.filter fun e => e.1 != challenge })

/-- SESSION_LAPSE: the debug session reaches its duration (R781). -/
def execSessionLapse (s : State) : Ans := .next (s.ifB s.live fun s => s.endAuth 3)

/-- AUTH_END: a DEBUG_UNLOCK (1) or REPAIR_ACCESS (2) reaches its duration (R760). -/
def execAuthEnd (kind : Nat) (s : State) : Ans := .next (s.ifB (s.live && (kind == 1 || kind == 2)) fun s => s.endAuth kind)

/-- CHECKPOINT: 3,600 s after the last checkpoint, if any entry has been written since (R777). -/
def execCheckpoint (s : State) : Ans := .next (s.ifB s.live fun s => s.coverNewest)

/-! ### The test port (R782, R783) -/

/-- BOUNDARY_SCAN: instruction 0 IDCODE, 1 BYPASS, 2 a boundary-scan instruction, 3 AC EXTEST: executed by unlock scope. -/
def execBoundaryScan (code : Nat) (s : State) : Ans :=
  .next (s.ifB s.pw.pwrGood fun s =>
    s.emit (.testPort (decide (code ≤ 1) || s.flag Fld.secUnlockOp 0 || s.flag Fld.secUnlockMaker 0)))

/-- INTERNAL_SCAN: under a maker unlock and with every chase slot EMPTY; an extended instruction exists on the LX only. -/
def execInternalScan (extended : Bool) (s : State) : Ans :=
  .next (s.ifB s.pw.pwrGood fun s =>
    let idle := (List.range 16).all fun c => s.cs c == csEmpty
    if !s.flag Fld.secUnlockMaker 0 || (extended && !Config.variant) then s.emit (.testPort false)
    else if idle then s.emit (.testPort true)
    else (s.bump Fld.secTestRefused 0 1).emit (.testPort false))

/-! ### Attestation (R773, R774, R842) -/

/-- SPDM requests are answered from BRING_UP on, by an island with an identity (R771, R842). -/
def State.spdmUp (s : State) : Bool := s.isUp && s.canSign

/-- Answer an SPDM request, or answer with an error. -/
def State.spdmIf (s : State) (ok : Bool) (f : State → State) : State :=
  if !s.live then s else if s.spdmUp && ok then f s else s.emit (.spdm 0 [] false)

/-- Bytes signed with the identity key: the signature's bytes are free. -/
def State.spdmSigned (s : State) (code : Nat) (data : Bytes) : State :=
  let r := s.freshBytes 384
  r.2.emit (.spdm code (data ++ r.1) true)

/-- A measurement block: 32 bytes, none for an index that has none (R774). -/
def State.measurement (s : State) (i : Nat) : Option Bytes :=
  let free (l : List Nat) : Bytes := (List.range 32).map (Config.measured i l)
  let of (l : List Cred) : List Nat := l.flatMap fun c => [c.id, c.modulus, c.exponent]
  if i = 1 ∨ i = 7 then some (free [])
  else if 2 ≤ i ∧ i ≤ 5 then some (slice (s.sec.measured.getD (i - 2) []) 0 32)
  else if i = 6 then some (free (of s.sec.makers))
  else if i = 8 then some (sha256 s.sec.applied)
  else if i = 9 then some (free (of s.sec.creds))
  else if i = 10 then
    if s.sec.auths.isEmpty then some (List.replicate 32 0) else some (free (s.sec.auths.flatMap fun a => [a.kind, a.mask]))
  else if i = 11 then some s.colHead
  else if 16 ≤ i ∧ i < 32 then
    some (if s.cs (i - 16) = csEmpty ∨ s.cs (i - 16) = csValidating then List.replicate 32 0 else fhHeaderDigest (s.forme (i - 16)))
  else none

/-- The indices that have a block. -/
def measurementIndices : List Nat := (List.range 32).filter fun i => decide (1 ≤ i) && decide (i ≤ 11) || decide (16 ≤ i)

/-- GET_VERSION: SPDM 1.2. -/
def execGetVersion (s : State) : Ans :=
  .next (s.spdmIf true fun s => (s.updSec fun x => { x with spdm := 1 }).emit (.spdm 0x84 [0x12] false))

/-- The capability flags of the responder (R773; PRESUMED: the bits of SPDM 1.2): certificates, challenge, signed measurements; no key
exchange. -/
def spdmFlags : Bytes := natLe 4 0x16

/-- The algorithms that the responder chooses (R773; PRESUMED: the bits of SPDM 1.2): RSASSA-PSS 3072, SHA-256. -/
def spdmAlgorithms : Bytes := natLe 4 0x08 ++ natLe 4 0x01

/-- GET_CAPABILITIES: the capability flags. -/
def execGetCapabilities (s : State) : Ans :=
  .next (s.spdmIf (decide (1 ≤ s.sec.spdm)) fun s => (s.updSec fun x => { x with spdm := max 2 x.spdm }).emit (.spdm 0xE1 spdmFlags false))

/-- NEGOTIATE_ALGORITHMS: the algorithms chosen. -/
def execNegotiateAlgorithms (s : State) : Ans :=
  .next (s.spdmIf (decide (2 ≤ s.sec.spdm)) fun s => (s.updSec fun x => { x with spdm := 3 }).emit (.spdm 0xE3 spdmAlgorithms false))

/-- GET_DIGESTS: the digest of the chain of slot 0. -/
def execGetDigests (s : State) : Ans :=
  .next (s.spdmIf (s.sec.spdm == 3) fun s => s.emit (.spdm 0x81 (sha256 (certBytes 1)) false))

/-- GET_CERTIFICATE: a part of the chain of slot 0. -/
def execGetCertificate (slot offset length : Nat) (s : State) : Ans :=
  .next (s.spdmIf (s.sec.spdm == 3 && slot == 0) fun s => s.emit (.spdm 0x82 (slice ((certBytes 1).take (offset + length)) offset
    (min length ((certBytes 1).length - offset))) false))

/-- CHALLENGE: the digest of the chain, the nonces, signed with the identity key. -/
def execChallenge (slot : Nat) (nonce : Bytes) (s : State) : Ans :=
  .next (s.spdmIf (s.sec.spdm == 3 && slot == 0) fun s =>
    let r := s.freshBytes 32
    r.2.spdmSigned 0x83 (sha256 (certBytes 1) ++ slice nonce 0 32 ++ r.1))

/-- GET_MEASUREMENTS: the block of an index, all blocks (0xFF), or their number (0); signed when the requester asks. -/
def execGetMeasurements (index : Nat) (sign : Bool) (s : State) : Ans :=
  let one := s.measurement index
  .next (s.spdmIf (s.sec.spdm == 3 && (index == 0 || index == 0xFF || one.isSome)) fun s =>
    let data := if index = 0 then natLe 1 measurementIndices.length
      else if index = 0xFF then measurementIndices.flatMap fun i => natLe 1 i ++ (s.measurement i).getD []
      else natLe 1 index ++ one.getD []
    if sign then s.spdmSigned 0xE0 data else s.emit (.spdm 0xE0 data false))

end Sys2Proof.Machine
end

