-- ==== Sys2Proof/Machine/Board.lean ====
section
/-! DEFINITION. What the board does to the running device: the base charge (R705), THROTTLE_N (R720 to R722), the power clamp
(R719), die temperatures (R725 to R727), VDD_CORE set points (R851, R852), ALERT_N (R729). -/

namespace Sys2Proof.Machine

/-- INK_BASE_SAMPLE: each millisecond B is measured as `b` ink, and the ledger is made to fit (R705, R715). -/
def execInkBaseSample (b : Nat) (s : State) : Ans :=
  .next (s.ifB s.live fun s => (s.setF Fld.inkBase 0 (min b 65535)).fitLedger)

/-! ### THROTTLE_N -/

def State.updInk (s : State) (f : InkSt → InkSt) : State := { s with ink := f s.ink }

/-- THROTTLE_FALL: the input goes low. -/
def execThrottleFall (s : State) : Ans := .next (s.ifB s.pw.pwrGood fun s => s.updInk fun x => { x with low := true })

/-- THROTTLE_QUALIFY: the input has been low for 1 µs: an assertion qualifies, unless one is in force (R720, R721). -/
def execThrottleQualify (s : State) : Ans :=
  .next (s.ifB (s.live && s.ink.low && !s.ink.asserted) fun s =>
    let s1 := (s.updInk fun x => { x with asserted := true }).setF Fld.inkThrActive 0 1
    (s1.bump Fld.inkThrEvents 0 1).setEnvelope)

/-- THROTTLE_RISE: the input goes high; a low level that has not qualified, with no assertion in force, was a glitch. -/
def execThrottleRise (s : State) : Ans :=
  .next (s.ifB (s.pw.pwrGood && s.ink.low) fun s =>
    let s1 := s.updInk fun x => { x with low := false }
    if s.live && !s.ink.asserted then s1.bump Fld.inkThrGlitches 0 1 else s1)

/-- The floor by THROTTLE_N ends when no assertion is in force and INK_THR_STUCK is clear. -/
def State.liftFloor (s : State) : State :=
  if s.ink.asserted || s.flag Fld.inkThrStuck 0 then s else (s.setF Fld.inkThrActive 0 0).setEnvelope

/-- THROTTLE_RELEASE: the input has been high for 100 µs without interruption (R720). -/
def execThrottleRelease (s : State) : Ans :=
  .next (s.ifB (s.live && !s.ink.low && s.ink.asserted) fun s => (s.updInk fun x => { x with asserted := false }).liftFloor)

/-- THROTTLE_STUCK: an assertion has lasted 1 s from its qualification (R720, R721). -/
def execThrottleStuck (s : State) : Ans :=
  .next (s.ifB (s.live && s.ink.asserted) fun s => s.setF Fld.inkThrStuck 0 1)

/-- A write of 1 to INK_THR_STUCK: it has no effect while THROTTLE_N is low (R722). -/
def State.clearStuck (s : State) : State := if s.ink.low then s else (s.setF Fld.inkThrStuck 0 0).liftFloor

/-! ### The power clamp -/

/-- POWER_CLAMP: the draw averaged over 100 µs exceeds the clamp: every running unit's duty falls by `steps` sixty-fourths,
after which the average is below it (R719); a chase has its full duty again at its next lock-up (DESIGN CHOICE, log 163). -/
def execPowerClamp (steps : Nat) (s : State) : Ans :=
  .next (s.ifB s.live fun s =>
    ((List.range 16).filter s.csStriking).foldl (fun s c =>
      (s.setF Fld.inkCDuty c (s.getF Fld.inkCDuty c - steps)).updChase c fun x => { x with ink := { x.ink with cut := x.ink.cut + steps } })
      (s.bump Fld.inkClampEvents 0 1))

/-! ### Temperatures -/

/-- The trip temperature: 110 °C until the fence record is applied (R861). -/
def State.tripAt (s : State) : Nat := if s.sec.applied.isEmpty then 110 else s.getF Fld.inkTripC 0

/-- The warning temperature. -/
def State.warnAt (s : State) : Nat := s.getF Fld.inkWarnC 0

/-- The hottest die as INK_THERMAL shows it. -/
def State.hottest (s : State) : Nat :=
  max (max (s.getF Fld.inkTL0 0) (s.getF Fld.inkTL1 0)) (max (s.getF Fld.inkTHa 0) (s.getF Fld.inkTHb 0))

/-- The thermal trip: THERMTRIP_N goes low, the dies' clocks, the links and the ports stop, until PWR_GOOD goes (R727). -/
def State.trip (s : State) : State := { s with pw := { s.pw with tripped := true } }

/-- The temperatures of a sample as the running device takes them: shown, reported to the RAS block where one reaches the warning, and
acted on by the thermal floor (R726). -/
def State.noteTemps (s : State) (l0 l1 ha hb : Nat) : State :=
  let t := max (max l0 l1) (max ha hb)
  let reached (f : Field) (v : Nat) : Bool := decide (s.warnAt ≤ v) && decide (s.getF f 0 < s.warnAt)
  let warns := reached Fld.inkTL0 l0 || reached Fld.inkTL1 l1 || reached Fld.inkTHa ha || reached Fld.inkTHb hb
  let s1 := s.setFs 0 [(Fld.inkTL0, l0), (Fld.inkTL1, l1), (Fld.inkTHa, ha), (Fld.inkTHb, hb)]
  let s2 := if warns then s1.eventRas else s1
  if s.warnAt + 5 ≤ t then (s2.setF Fld.inkThermFloor 0 1).setEnvelope
  else if t ≤ s.warnAt + 2 then (s2.setF Fld.inkThermFloor 0 0).setEnvelope
  else s2

/-- TEMP_SAMPLE: the junction temperatures of Lornemet dies 0 and 1 and Holtend dies A and B (R725 to R727). -/
def execTempSample (l0 l1 ha hb : Nat) (s : State) : Ans :=
  .next (s.ifB (s.pw.pwrGood && !s.pw.tripped) fun s =>
    (s.ifB s.live fun s => s.noteTemps l0 l1 ha hb).ifB (decide (s.tripAt ≤ max (max l0 l1) (max ha hb))) State.trip)

/-! ### VDD_CORE set points -/

/-- SET_POINT_WRITE: the management controller sets the VDD_CORE of a die (0, 1 Lornemet; 2, 3 Holtend A, B); `ack` says
that the regulator acknowledged. Outside 600 to 750 mV nothing is sent; without an acknowledgement the last acknowledged value
holds and the event is logged: under which code is open (R823, R851, R852). -/
def execSetPointWrite (die mv : Nat) (ack : Bool) (s : State) : Ans :=
  .next (s.ifB (s.isUp && decide (die < 4) && decide (600 ≤ mv) && decide (mv ≤ 750) && mv % 5 == 0) fun s =>
    let s1 := s.emit (.setPoint (0x60 + die) mv)
    if ack then s1.updInk fun x => { x with setPoints := x.setPoints.set die mv, nacked := setDel x.nacked die }
    else
      let r := s1.fresh
      let e : ErrRec := ⟨r.1 % 65536, r.1 / 65536 % 4, 3, whereNone, 0, 0, 0xFF, 0, 0⟩
      (r.2.updInk fun x => { x with nacked := setIns x.nacked die }).logErr e)

/-! ### ALERT_N -/

/-- ALERT_N is low (R729); it is driven from boot start on (R861), by a device that has tripped too. -/
def State.alert (s : State) : Bool :=
  s.pw.pwrGood && s.pw.resetN && !s.pw.held && s.pw.sysclk && s.pw.refclk156 && (s.flag Fld.inkThrStuck 0 || decide (s.warnAt ≤ s.hottest) || s.getF Fld.inkClampEvents 0 != 0 ||
    s.getF Fld.timeState 0 == 4 || !s.ink.nacked.isEmpty)

/-- THERMTRIP_N is low (R727, R862). -/
def State.thermtrip (s : State) : Bool := s.pw.tripped

end Sys2Proof.Machine
end

