-- ==== Sys2Proof/Machine/Product.lean ====
section
/-! DEFINITION. Product plates as functions of bytes: the product and tracer records (R232, R254), operand tiles with
their checks (R241, R242), the choice of dense or sparse evaluation (R236, R237), the exact sums (R168 to R177), the
tracer (R255 to R257) and sampled evaluation (R252). -/

namespace Sys2Proof.Machine

/-- A product record (R232). -/
structure ProductRec where
  a : Nat
  b : Nat
  mask : Nat
  tracer : Nat
  rows : Nat
  cols : Nat
  aGroups : Nat
  bGroups : Nat
  reservedZero : Bool
  deriving DecidableEq, Repr

def productRecOf (r : Bytes) : ProductRec :=
  ⟨u64At r 0, u64At r 8, u64At r 16, u64At r 24, u32At r 32, u32At r 36, u8At r 40, u8At r 41, allZero (slice r 42 22)⟩

/-- PD_ARGS of DENSE and SPARSE (R231). -/
structure ProductArgs where
  close : CloseWord
  xover : Nat
  storeForm : Nat
  storeNm : Nat
  transposeB : Bool
  sampled : Bool
  trRole : Bool
  deriving DecidableEq, Repr

def productArgsOf (w : Nat) : ProductArgs :=
  ⟨closeWordOf (bitsOf w 31 0), bitsOf w 38 32, bitsOf w 41 40, bitsOf w 43 42, bitOf w 44, bitOf w 45, bitOf w 46⟩

/-- The effective crossover density (R231, R237). -/
def ProductArgs.effXover (p : ProductArgs) : Nat := if p.xover = 0 then 55 else p.xover

/-- Whether a product record keeps R232 and R233 for a plate. -/
def productRecOk (r : ProductRec) (p : ProductArgs) (tracerPlate : Bool) : Bool :=
  r.reservedZero && decide (1 ≤ r.rows) && decide (1 ≤ r.cols) && [1, 2, 4, 8].contains r.aGroups &&
    [1, 2, 4, 8].contains r.bGroups && r.bGroups % r.aGroups == 0 &&
    ((r.tracer != 0) == tracerPlate) && !(r.mask == 0 && (p.sampled || p.storeForm == 3)) &&
    !(p.transposeB && r.aGroups != 1)

/-- A tracer record (R254). -/
structure TracerRec where
  w1 : Nat
  w2 : Nat
  d : Nat
  q : Nat
  topk : Nat
  f : Nat
  mode : Nat
  hEo : Int
  sEo : Int
  threshold : Int
  reservedZero : Bool
  deriving DecidableEq, Repr

def tracerRecOf (r : Bytes) : TracerRec :=
  ⟨u64At r 0, u64At r 8, u32At r 16, u16At r 20, u16At r 22, u32At r 24, u8At r 28, sextNat 8 (u8At r 29),
    sextNat 8 (u8At r 30), sextNat 32 (u32At r 32), u8At r 31 == 0 && allZero (slice r 36 28)⟩

/-- Whether a tracer record keeps R254 for a plate of reduction length `k` and `cols` output columns. -/
def tracerRecOk (t : TracerRec) (k cols : Nat) : Bool :=
  t.reservedZero && t.d == k && decide (1 ≤ t.q ∧ t.q ≤ 4096) && decide (1 ≤ t.f ∧ t.f ≤ 16384) && t.f == cols &&
    decide (t.mode ≤ 1) && decide (-32 ≤ t.hEo ∧ t.hEo ≤ 31) && (t.mode == 0 || decide (1 ≤ t.topk ∧ t.topk ≤ t.f)) &&
    decide (t.d * t.q + t.q * t.f ≤ 4194304)

/-- An operand tile as the operand unit sees it: its header and bytes, the code of the first failed metadata check (0:
none), and whether it is poisoned. -/
structure OpTile where
  hdr : TileHdr
  bytes : Bytes
  code : Nat
  poison : Bool
  deriving DecidableEq, Repr

/-- Whether a tile poisons what it feeds (R184, R242). -/
def OpTile.bad (t : OpTile) : Bool := t.code != 0 || t.poison

/-- The position of every stored slot of a tile, in slot order. -/
def slotPositions (h : TileHdr) (b : Bytes) : List Nat := (List.range h.lines).flatMap fun l => (tileLinePositions h b l).1

/-- A tile without the values of the groups that are not read: they take part as zero (R256, R257). -/
def keepGroups (h : TileHdr) (b : Bytes) (live : Nat → Bool) : Bytes :=
  b.take h.valueOff ++ padBytes64 (packElems h.fmt ((slotPositions h b).zipIdx.map fun e =>
    if live (e.1 / 32) then storedElem h.fmt (b.drop h.valueOff) e.2 else zeroOfTh h.fmt))

/-- Whether a tile is read whole: every group of it is wanted, or its header or lengths fail and name no groups. -/
def readsWhole (h : TileHdr) (b : Bytes) (taLen : Nat) (live : Nat → Bool) : Bool :=
  (List.range h.groups).all live || !checkHeader h || !checkLength h b taLen

/-- The sectors of a tile that a read of some groups takes: the header, the exponents, the metadata, and what holds a slot of such a
group (R256, R257). -/
def groupSectors (h : TileHdr) (b : Bytes) (live : Nat → Bool) : List Nat :=
  (List.range (h.valueOff / 32) ++ ((slotPositions h b).zipIdx.filter fun e => live (e.1 / 32)).map fun e =>
    (h.valueOff + e.2 * thFmtBits h.fmt / 8) / 32).eraseDups

/-- Read and check operand tile `(lt, kt)` of an array with `kts` K tiles and `lts` line tiles; `live` picks the groups of which the
values are read. -/
def readOperand (rd : Reader) (base groups kts lts : Nat) (transposed : Bool) (live : Nat → Bool) (lt kt : Nat) : OpTile :=
  let r := readTile rd base (lt * kts + kt)
  let h := tileHdrOf r.1
  let x : TileExpect := ⟨lt, kt, groups, kt + 1 == kts, lt + 1 == lts, transposed, r.2.1⟩
  if readsWhole h r.1 r.2.1 live then ⟨h, r.1, tileCheck operandFmt h r.1 x true, r.2.2 || h.poisoned⟩
  else
    let b := keepGroups h r.1 live
    let e := rd (base + 8 * (lt * kts + kt)) 8
    ⟨h, b, tileCheck operandFmt h b x true, e.2 || h.poisoned ||
      (groupSectors h r.1 live).any fun k => (rd (base + bitsOf (leNat e.1) 39 0 + 32 * k) 32).2⟩

/-- The number of a one-lane element. -/
def elemNum : OutElem → Int
  | .num v => v
  | .pair hi _ => hi
  | .wide r => r.value

/-- The groups of line `l` of a tile: 32 values with their exponent. A line past TH_LINES, or a tile that is not
computed, gives nothing. -/
def tileLineGroups (t : OpTile) (l : Nat) : List (List Int × Int) :=
  if t.bad || decide (t.hdr.lines ≤ l) then (List.range t.hdr.groups).map fun _ => ([], 0)
  else ((pieces 32 (tileLineDense t.hdr t.bytes l)).zipIdx).map fun (g, k) => (g.map elemNum, tileGroupExp t.hdr t.bytes l k)

/-- Group `g` of a transposed tile, column `n`: the values of its lines at position `32 g + n`, with the group's exponent
(R250, R251). -/
def tileColumnGroup (t : OpTile) (g n : Nat) : List Int × Int :=
  if t.bad then ([], 0)
  else ((List.range t.hdr.lines).map fun l => elemNum ((tileLineDense t.hdr t.bytes l).getD (32 * g + n) (.num 0)),
    tileGroupExp t.hdr t.bytes 0 g)

/-- Zero every value at a reduction position at or past `k` (R169). -/
def cutAt (k : Nat) (gs : List (List Int × Int)) : List (List Int × Int) :=
  gs.zipIdx.map fun (g, i) => (g.1.take (k - 32 * i), g.2)

/-- Keep only the groups for which `keep` holds; the others take part as zero (R257). -/
def maskGroups (keep : Nat → Bool) (gs : List (List Int × Int)) : List (List Int × Int) :=
  gs.zipIdx.map fun (g, i) => if keep i then g else ([], 0)

/-- The shape of a product: everything that the sums need. -/
structure ProductShape where
  rows : Nat
  cols : Nat
  k : Nat
  aGroups : Nat
  bGroups : Nat
  transposeB : Bool
  deriving DecidableEq, Repr

def ProductShape.groups (s : ProductShape) : Nat := ceilDiv s.k 32
def ProductShape.rowTiles (s : ProductShape) : Nat := ceilDiv s.rows 32
def ProductShape.colTiles (s : ProductShape) : Nat := ceilDiv s.cols 32
def ProductShape.aKts (s : ProductShape) : Nat := ceilDiv s.groups s.aGroups
/-- K tiles of the stored B array: along the reduction, or along the columns when B is read transposed (R250). -/
def ProductShape.bKts (s : ProductShape) : Nat :=
  if s.transposeB then ceilDiv s.colTiles s.bGroups else ceilDiv s.groups s.bGroups
def ProductShape.bLts (s : ProductShape) : Nat := if s.transposeB then s.groups else s.colTiles

/-- The A tiles of row tile `i`; `keep` picks the groups of reduction positions that take part. -/
def aTiles (rd : Reader) (base : Nat) (s : ProductShape) (keep : Nat → Bool) (i : Nat) : List OpTile :=
  (List.range s.aKts).map fun kt => readOperand rd base s.aGroups s.aKts s.rowTiles false (fun g => keep (kt * s.aGroups + g)) i kt

/-- The groups of a stored B tile that a row tile reads: those of reduction positions that take part; read transposed, those of
column tiles that it computes (R250, R256, R257). -/
def ProductShape.bLive (s : ProductShape) (keep cols : Nat → Bool) (kt g : Nat) : Bool :=
  if s.transposeB then cols (kt * s.bGroups + g) else keep (kt * s.bGroups + g)

/-- The B tiles of column tile `j`, in reduction order; `cols` picks the column tiles that the row tile computes. -/
def bTiles (rd : Reader) (base : Nat) (s : ProductShape) (keep cols : Nat → Bool) (j : Nat) : List OpTile :=
  if s.transposeB then
    (List.range s.groups).map fun lt =>
      readOperand rd base s.bGroups s.bKts s.bLts true (s.bLive keep cols (j / s.bGroups)) lt (j / s.bGroups)
  else (List.range s.bKts).map fun kt => readOperand rd base s.bGroups s.bKts s.bLts false (s.bLive keep cols kt) j kt

/-- The groups that a K tile has in the grid: `n` of them, whatever its header says. -/
def spanGroups (n : Nat) (gs : List (List Int × Int)) : List (List Int × Int) :=
  gs.take n ++ List.replicate (n - gs.length) ([], 0)

/-- The groups of row `r` of A. -/
def aLine (s : ProductShape) (ts : List OpTile) (r : Nat) : List (List Int × Int) :=
  cutAt s.k (ts.flatMap fun t => spanGroups s.aGroups (tileLineGroups t r))

/-- The groups of output column `n` of column tile `j` of B. -/
def bLine (s : ProductShape) (ts : List OpTile) (j n : Nat) : List (List Int × Int) :=
  cutAt s.k (if s.transposeB then ts.map fun t => tileColumnGroup t (j % s.bGroups) n
    else ts.flatMap fun t => spanGroups s.bGroups (tileLineGroups t n))

/-- Groups of a K tile of B in reduction order: a tile read transposed is one group (R250). -/
def ProductShape.bSpan (s : ProductShape) : Nat := if s.transposeB then 1 else s.bGroups

/-- Whether tile `k` of a list with `span` groups a tile holds a group that takes part (R257). -/
def ProductShape.spanLive (s : ProductShape) (span : Nat) (keep : Nat → Bool) (k : Nat) : Bool :=
  (List.range span).any fun g => decide (k * span + g < s.groups) && keep (k * span + g)

/-- The tiles of an operand as the plate uses them: one of which every group is skipped is not read, so it can fail no check and
carries no poison (R257). -/
def ProductShape.usedTiles (s : ProductShape) (span : Nat) (keep : Nat → Bool) (ts : List OpTile) : List OpTile :=
  ts.zipIdx.map fun e => if s.spanLive span keep e.2 then e.1 else { e.1 with code := 0, poison := false }

/-- The exact sums of output tile `(i, j)`: rows by columns, on the 2^-64 scale, in the 192-bit accumulator. With a chain of
`hops` hops K tile `k` goes to hop `k` modulo `hops`, and each hop adds its sum to the one that it receives (R200, R235). -/
def tileSums (s : ProductShape) (hops : Nat) (as bs : List OpTile) (keep : Nat → Bool) (i j : Nat) : List (List Int) :=
  let nr := min 32 (s.rows - 32 * i)
  let nc := min 32 (s.cols - 32 * j)
  let bl := (List.range nc).map fun n => bLine s bs j n
  (List.range nr).map fun r =>
    let al := maskGroups keep (aLine s as r)
    bl.map fun b =>
      if hops = 0 then wrapS 192 (dotGroups al b)
      else chainFold accAdd 0 hops (ceilDiv s.groups s.bSpan) fun k => dotGroups (maskGroups (fun g => g / s.bSpan == k) al) b

/-- The stored slots of group `g` of a compressed tile over all its lines. -/
def groupSlots (t : OpTile) (g : Nat) : Nat :=
  ((List.range t.hdr.lines).map fun l =>
    ((tileLinePositions t.hdr t.bytes l).1.filter fun p => p / 32 == g).length).sum

/-- Stored slots `n` and positions `p` of a compressed operand in one segment (R237); none when it is stored dense. -/
def segDensity (ts : List OpTile) : Option (Nat × Nat) :=
  if ts.any fun t => t.hdr.form != 0 then
    some ((ts.map fun t => t.hdr.nnz).sum, (ts.map fun t => t.hdr.lines * t.hdr.valid).sum)
  else none

/-- Whether a segment with the given densities of A and B runs sparse (R236, R237). -/
def segSparse (x : Nat) (da db : Option (Nat × Nat)) : Bool :=
  let ok (d : Nat × Nat) : Bool := decide (100 * d.1 ≤ x * d.2)
  match da, db with
  | none, none => false
  | some d, none => ok d
  | none, some d => ok d
  | some d, some d' => ok d && ok d'

/-- For one output tile, the number of its segments run sparse and run dense; segments of tiles that are not computed are
not counted. -/
def tileSegments (s : ProductShape) (dense : Bool) (x : Nat) (as bs : List OpTile) (keep : Nat → Bool) (j : Nat) :
    Nat × Nat :=
  let per := if s.transposeB then 1 else s.bGroups / s.aGroups
  (bs.zipIdx.foldl (fun (acc : Nat × Nat) (bt : OpTile × Nat) =>
    let seg := (as.drop (bt.2 * per)).take per
    let gLo := bt.2 * (if s.transposeB then 1 else s.bGroups)
    let gN := if s.transposeB then 1 else bt.1.hdr.groups
    if bt.1.bad || seg.any OpTile.bad || !(List.range gN).any fun g => keep (gLo + g) then acc
    else
      let db := if s.transposeB then
          (if bt.1.hdr.form = 0 then none
            else some (groupSlots bt.1 (j % s.bGroups), bt.1.hdr.lines * min 32 (bt.1.hdr.valid - 32 * (j % s.bGroups))))
        else segDensity [bt.1]
      if !dense && segSparse x (segDensity seg) db then (acc.1 + 1, acc.2) else (acc.1, acc.2 + 1)) (0, 0))

/-! ### The tracer (R255 to R257) -/

/-- Elements closed to a format at an exponent under SATURATE. -/
def satClose (fmt : Nat) (e : Int) (acc : Int) : Int := clampInt (rne acc e) (minOf fmt) (maxOf fmt)

/-- Cut a list of values into groups of 32 with one exponent. -/
def groupsAt (e : Int) (vs : List Int) : List (List Int × Int) := (pieces 32 vs).map fun g => (g, e)

/-- The scores of a row: hidden = A × W1 closed to s8 at TR_H_EO, rectified; scores = hidden × W2 closed to s32 at
TR_S_EO (R255). A poisoned group closes to zeros (R193): with `bad1` every hidden group and so every score is, with `bad2` those
of one column tile. -/
def tracerScores (t : TracerRec) (row : List (List Int × Int)) (w1 w2 : List (List (List Int × Int))) (bad1 : Bool)
    (bad2 : Nat → Bool) : List Int :=
  let hidden := w1.map fun c => max 0 (satClose 2 t.hEo (dotGroups row c))
  w2.zipIdx.map fun c => if bad1 || bad2 (c.2 / 32) then 0 else satClose 0 t.sEo (dotGroups (groupsAt t.hEo hidden) c.1)

/-- The active neurons of a row: threshold mode, or the top TR_TOPK scores with ties to the lowest index (R255). -/
def tracerActive (t : TracerRec) (scores : List Int) : List Nat :=
  if t.mode = 0 then ((scores.zipIdx).filter fun (v, _) => decide (t.threshold ≤ v)).map (·.2)
  else
    let sorted := (scores.zipIdx).mergeSort fun a b => decide (b.1 < a.1) || (a.1 == b.1 && decide (a.2 ≤ b.2))
    (sorted.take t.topk).map (·.2)

/-- The lines of a tracer weight array with `n` output neurons over a reduction of `k`: the tile array's line tiles are
output column tiles, as for B (R254). The tracer's tiles hold one group per K tile where the header says so; the tiles
are read as they are stored, group count by header. -/
def weightTiles (rd : Reader) (base k n groups : Nat) : List (List OpTile) :=
  let kts := ceilDiv (ceilDiv k 32) groups
  (List.range (ceilDiv n 32)).map fun lt => (List.range kts).map fun kt =>
    readOperand rd base groups kts (ceilDiv n 32) false (fun _ => true) lt kt

/-- The groups per K tile of a weight array, taken from its first tile's header (R254 names none: DEDUCED). -/
def weightGroups (rd : Reader) (base : Nat) : Nat := max 1 (tileHdrOf (readTile rd base 0).1).groups

/-- The weight lines of a tracer layer, and its tiles by column tile. -/
def weightLines (rd : Reader) (base k n : Nat) : List (List (List Int × Int)) × List (List OpTile) :=
  let g := weightGroups rd base
  let ts := weightTiles rd base k n g
  ((List.range n).map fun c => cutAt k ((ts.getD (c / 32) []).flatMap fun t => spanGroups g (tileLineGroups t (c % 32))), ts)

end Sys2Proof.Machine
end

