-- ==== Sys2Proof/Machine/Output.lean ====
section
/-! DEFINITION. What the plates that write tile arrays share: the contributions of an output to its summary (R297, R298),
closing and storing tiles with their counts (R190 to R195, R244 to R249), record faults and metadata faults (R233, R243),
and the start of a plate's work. -/

namespace Sys2Proof.Machine

/-! ### Contributions (R297, R298) -/

/-- An element whose exact value is given: rne at exponent 0; outside s64 it saturates and sets SF_SUM_OVF. -/
def SummarySlot.exact (a : SummarySlot) (x : Val) (index : Nat) : SummarySlot :=
  let q := x.rne 0
  let v := clampInt q s64Min s64Max
  a.add ⟨v, 1, v, index, v != q, false, false⟩

/-- An element of a poisoned tile: the value 0 with poison. -/
def SummarySlot.poisonElem (a : SummarySlot) (index : Nat) : SummarySlot := a.add ⟨0, 1, 0, index, false, true, false⟩

/-- A contribution that holds nothing but poison (R233). -/
def SummarySlot.fault : SummarySlot := ⟨0, 0, 0, 0, false, true, false⟩

/-- The logical element index (R297). -/
def elemIndex (t l j : Nat) : Nat := t * 8192 + l * 256 + j

/-! ### Output tiles -/

/-- One tile of an output before its close: its place, its extent, the exact values in row-major order (none: no value
there; `fill` is then written, and `counts` says that the element still takes part in a summary), its poison, and the tile
whose mask it takes; `hop` is the region of the last chain hop, where a chain closes the tile (R200). -/
structure TileIn where
  lineTile : Nat
  kTile : Nat
  lines : Nat
  valid : Nat
  vals : List (Option Val)
  fill : OutElem
  counts : Bool
  poison : Bool
  mask : Option (TileHdr × Bytes)
  hop : Option Nat
  deriving DecidableEq, Repr

/-- A closed tile: its bytes, exponent and poison. -/
structure ClosedTile where
  bytes : Bytes
  exp : Int
  poisoned : Bool
  deriving DecidableEq, Repr

/-- How a plate stores its tiles: close word, form and N:M pattern, K tiles a row of tiles. -/
structure OutSpec where
  cw : CloseWord
  form : Nat
  nm : Nat
  kts : Nat
  deriving DecidableEq, Repr

/-- The tile that the store compressor gets. R187 gives WIDE no exponent: its TH_EXP is written as 0 (DESIGN CHOICE). -/
def TileIn.out (t : TileIn) (cw : CloseWord) (r : CloseResult) : TileOut :=
  ⟨thFmtOfCw cw.fmt, pieces t.valid r.elems, 1, t.valid, if cw.fmt = 5 then 0 else r.exp, r.poisoned, t.lineTile, t.kTile⟩

/-- The bytes of a closed tile (R244 to R249). -/
def TileIn.store (t : TileIn) (o : OutSpec) (r : CloseResult) : StoreOut :=
  match t.mask with
  | some (h, b) => storeMasked h b (t.out o.cw r)
  | none => storeTile o.form o.nm (t.out o.cw r)

/-- The contribution of a tile: one element per value. -/
def TileIn.contrib (t : TileIn) (index : Nat) (exp : Int) (poisoned : Bool) (a : SummarySlot) : SummarySlot :=
  t.vals.zipIdx.foldl (fun a e =>
    let x := elemIndex index (e.2 / t.valid) (e.2 % t.valid)
    match e.1 with
    | some v => if poisoned then a.poisonElem x else a.exact v x
    | none => if !t.counts then a else if poisoned then a.poisonElem x else a.exact (elemVal exp t.fill) x) a

/-- Update the work counts of a chase. -/
def State.updWork (s : State) (c : Nat) (f : WorkCnt → WorkCnt) : State := s.updChase c fun x => { x with work := f x.work }

/-- Count a close's event in the registers of physical region `p` (R190, R195, R215). -/
def State.countClose (s : State) (c p plate : Nat) (cw : CloseWord) (r : CloseResult) : State :=
  match r.event with
  | none => s
  | some e =>
    let s1 := s.setFs p [(Fld.rgnAriLastCode, closeEventCode e), (Fld.rgnAriLastEo, patOf 8 r.exp),
      (Fld.rgnAriLastEoReq, patOf 8 cw.eo), (Fld.rgnAriLastSlot, c), (Fld.rgnAriLastFormat, cw.fmt),
      (Fld.rgnAriLastPlate, plate)]
    match e with
    | .accRetry => ((s1.bump Fld.rgnAriRetries p 1).raiseTo Fld.rgnAriMaxRaise p (satNat r.raise 255)).updWork c fun w =>
        { w with retried := w.retried + 1 }
    | .accSaturate => (s1.bump Fld.rgnAriSatElems p r.satElems).updWork c fun w => { w with saturated := w.saturated + 1 }
    | _ => (s1.bump Fld.rgnAriFaultTiles p 1).updWork c fun w => { w with faulted := w.faulted + 1 }

/-- Close and store one tile: its counts, in the region of the last hop where a chain closes it (R200), and its bytes. -/
def State.closeOut (s : State) (c : Nat) (o : OutSpec) (t : TileIn) : State × ClosedTile :=
  let i := t.lineTile * o.kts + t.kTile
  let r := closeTile o.cw t.fill (t.poison || (s.chase c).plate.hurt.contains i) t.vals
  let p := match t.hop with
    | some k => s.physOf k
    | none => s.dealPhys c i
  let w := t.store o r
  let s1 := s.countClose c p (s.chase c).plate.index o.cw r
  let s2 := if w.overfull then s1.bump Fld.rgnArrNmOverfull p 1 else s1
  (if w.drops = 0 then s2 else s2.bump Fld.rgnArrMaskDrops p w.drops, ⟨w.bytes, r.exp, r.poisoned⟩)

/-- Close tiles in order. -/
def State.closeAll (s : State) (c : Nat) (o : OutSpec) (ts : List TileIn) : State × List ClosedTile :=
  ts.foldl (fun a t => let r := a.1.closeOut c o t; (r.1, a.2 ++ [r.2])) (s, [])

/-! ### Writing a tile array -/

/-- A plate's write of a run of bytes, each frame's part a write of its own (R422). -/
def State.plateStore (s : State) (c a : Nat) (bs : Bytes) : State :=
  (framePiecesOf (bs.length / 4096 + 2) a bs).foldl (fun s p => (s.plateWrite c p.1 p.2).1) s

/-- Every byte of a run stands somewhere. -/
def State.backedRun (s : State) (c a n : Nat) : Bool :=
  n == 0 || (List.range (ceilDiv (a % 4096 + n) 4096)).all fun k => (s.chaseLoc c (max a (a / 4096 * 4096 + 4096 * k))).isSome

/-- Write one tile; where a part of it found no frame the sectors that stand are poisoned (R422). -/
def State.writeTile (s : State) (c a : Nat) (bs : Bytes) : State :=
  let s1 := s.plateStore c a bs
  if s1.backedRun c a bs.length then s1 else s1.chasePoisonRun c a bs.length

/-- The offsets of the tiles of an array that is laid out in directory order (R222). -/
def tileOffsets : Nat → List Bytes → List (Nat × Bytes)
  | _, [] => []
  | o, b :: t => (o, b) :: tileOffsets (o + pad64 b.length) t

/-- The region of the last hop of the plate's chain, where it names one that this member has: it closes the tiles (R200). -/
def State.lastHop (s : State) (c : Nat) : Option Nat := (s.plateHops c).getLast?.map (·.1)

/-- Write a tile array; the answer says for each tile whether it stands. A tile of which a part found no frame does not: the
sectors of it that stand are poisoned, as those that do not are (R422). -/
def State.storeArray (s : State) (c base : Nat) (tiles : List Bytes) : State × List Bool :=
  let s1 := s.plateStore c base (tileArrayBytes tiles)
  let at1 := tileOffsets (dirLen tiles.length) tiles
  let ok := at1.zipIdx.map fun e => s1.backedRun c (base + 8 * e.2) 8 && s1.backedRun c (base + e.1.1) e.1.2.length
  ((at1.zip ok).foldl (fun s e => if e.2 then s else s.chasePoisonRun c (base + e.1.1) e.1.2.length) s1, ok)

/-- The summary of an array's tiles. -/
def arrayContrib (kts : Nat) (ts : List TileIn) (done : List (Int × Bool)) : SummarySlot :=
  (ts.zip done).foldl (fun a e => e.1.contrib (e.1.lineTile * kts + e.1.kTile) e.2.1 e.2.2 a) SummarySlot.empty

/-- Close, store and write the tiles of an output array, and hand in its contribution. -/
def State.writeOutput (s : State) (c base : Nat) (o : OutSpec) (ts : List TileIn) : State :=
  let r := s.closeAll c o ts
  let w := r.1.storeArray c base (r.2.map (·.bytes))
  let done := (r.2.zip w.2).map fun e => (e.1.exp, e.1.poisoned || !e.2)
  w.1.plateWorked c (arrayContrib o.kts ts done)

/-! ### Faults of records and tiles -/

/-- A chase address of a record lies in the data space (R419). -/
def recAddr (a : Nat) : Bool := decide (a < 2 ^ 44)

/-- A record fault (R233): counted in the region that takes it; the plate is worked with nothing but poison. -/
def State.recordFault (s : State) (c : Nat) : State :=
  let p := s.dealPhys c 0
  ((s.bump Fld.rgnArrRecordFaults p 1).setFs p [(Fld.rgnArrLastRecSlot, c),
    (Fld.rgnArrLastRecPlate, (s.chase c).plate.index)]).plateWorked c SummarySlot.fault

/-- Count an operand tile that failed a metadata check (R243). -/
def State.metaFault (s : State) (c item code : Nat) : State :=
  let p := s.dealPhys c item
  ((s.bump Fld.rgnArrMetaFaults p 1).setFs p [(Fld.rgnArrLastMetaCode, code), (Fld.rgnArrLastMetaSlot, c),
    (Fld.rgnArrLastMetaPlate, (s.chase c).plate.index)]).updWork c fun w => { w with metaFail := w.metaFail + 1 }

/-- Count the tiles of a list that failed a check. -/
def State.metaFaults (s : State) (c : Nat) (ts : List OpTile) : State :=
  ts.zipIdx.foldl (fun s e => if e.1.code = 0 then s else s.metaFault c e.2 e.1.code) s

/-! ### A plate's work -/

/-- Do the work of the plate in hand of slot `c` if it has opcode `op` and runs; first what the hardware's checks find,
which can end the stroke. -/
def State.plateDo (s : State) (c op : Nat) (hw : List HwEvent) (f : State → State) : State :=
  if s.plateRuns c op then
    if hw.isEmpty then f s else
    let s1 := s.xfersBegin.hwEvents c hw
    if s1.plateRuns c op && (s1.chase c).retries == (s.chase c).retries then (f s1).xfersEnd else s1.xfersEnd
  else s

/-- Note that tile `t` of the array at `base` was read: its directory entry and its bytes. -/
def State.noteTile (s : State) (c base t : Nat) : State :=
  let e := leNat (s.chaseRead c (base + 8 * t) 8).1
  (s.noteRead c (base + 8 * t) 8).noteRead c (base + bitsOf e 39 0) (64 * bitsOf e 63 40)

/-- Note that a tile array was read: its directory and its tiles. -/
def State.noteArray (s : State) (c base n : Nat) : State :=
  let rd := s.chaseRead c
  (List.range n).foldl (fun s t =>
    let e := leNat (rd (base + 8 * t) 8).1
    s.noteRead c (base + bitsOf e 39 0) (64 * bitsOf e 63 40)) (s.noteRead c base (8 * n))

end Sys2Proof.Machine
end

