-- ==== Sys2Proof/Machine/Stipple.lean ====
section
/-! DEFINITION. The stipple buffers and their hellbox segments (R260 to R267): inserting contributions, spilling, compaction,
and the merge at plate end. -/

namespace Sys2Proof.Machine

/-- A contribution: its key, its exact value on the 2^-64 scale, its poison. -/
structure Contribution where
  key : Nat
  value : Int
  poison : Bool
  deriving DecidableEq, Repr

/-- An empty buffer. -/
def StippleSt.empty : StippleSt := ⟨[], [], false, false⟩

/-- The set of a key (R261). -/
def stippleSet (k : Nat) : Nat :=
  bitsOf k 9 0 ^^^ bitsOf k 19 10 ^^^ bitsOf k 29 20 ^^^ bitsOf k 39 30 ^^^ bitsOf k 47 40

/-- The ordinal of a key's owner block among `b` held blocks (R262). -/
def stippleOwner (k b : Nat) : Nat := (bitsOf k 47 24 ^^^ bitsOf k 23 0) % b

/-- Trailing zero bits of a non-zero number below 2^f. -/
def trailingZeros : Nat → Nat → Nat
  | 0, _ => 0
  | f + 1, n => if n % 2 = 1 then 0 else trailingZeros f (n / 2) + 1

/-- The exponent of a contribution's lowest set bit (R263). -/
def lowExp (c : Int) : Int := if c = 0 then -64 else (trailingZeros 192 c.natAbs : Int) - 64

/-- Entries, hellbox records and segments. -/
def setWays : Nat := 8
def hellMax : Nat := 131072

/-- The 32 bytes of a hellbox record: HB_VALUE at 0, HB_KEY at 24, HB_FLAGS with HB_VALID at 30 (R264). -/
def HellRec.bytes (r : HellRec) : Bytes :=
  natLe 24 (patOf 192 r.value) ++ natLe 6 r.key ++ [BitVec.ofNat 8 (natOfBool r.poison + 2), 0]

/-- A hellbox record read back. -/
def hellOf (b : Bytes) : HellRec := ⟨fieldLe b 24 6, sextNat 192 (fieldLe b 0 24), bitOf (u8At b 30) 0⟩

/-- Records with equal keys added exactly, in rising order of key (R266, R267). -/
def addHell : List HellRec → HellRec → List HellRec
  | [], r => [r]
  | x :: t, r =>
    if r.key < x.key then r :: x :: t
    else if r.key = x.key then ⟨x.key, x.value + r.value, x.poison || r.poison⟩ :: t
    else x :: addHell t r

def mergeHell (l : List HellRec) : List HellRec := l.foldl addHell []

/-- What a block's spills add to its region's counters. -/
structure SpillCnt where
  wide : Nat
  full : Nat
  compactions : Nat
  stuck : Nat
  peak : Nat
  deriving DecidableEq, Repr

def SpillCnt.zero : SpillCnt := ⟨0, 0, 0, 0, 0⟩

/-- Append a record to a segment; a full one is compacted first, and one that compaction does not shrink takes nothing
further (R266). -/
def hellAppend (b : StippleSt) (n : SpillCnt) (r : HellRec) : StippleSt × SpillCnt :=
  if b.hell.length < hellMax then
    ({ b with hell := b.hell ++ [r.bytes] }, { n with peak := max n.peak (b.hell.length + 1) })
  else
    let l := (mergeHell (b.hell.map hellOf)).map HellRec.bytes
    if l.length < hellMax then ({ b with hell := l ++ [r.bytes] }, { n with compactions := n.compactions + 1 })
    else ({ b with full := true, hell := l }, { n with compactions := n.compactions + 1, stuck := n.stuck + 1 })

/-- A block takes a contribution (R263). -/
def stippleInsert (b : StippleSt) (n : SpillCnt) (x : Contribution) : StippleSt × SpillCnt :=
  if b.full then (b, n)
  else
    let xc := lowExp x.value
    let cv := floorShift x.value (xc + 64).toNat
    match b.entries.find? fun e => e.key == x.key with
    | none =>
      let ways := (b.entries.filter fun e => stippleSet e.key == stippleSet x.key).length
      if fitsS 96 cv && decide (ways < setWays) then ({ b with entries := b.entries ++ [⟨x.key, cv, xc, x.poison⟩] }, n)
      else hellAppend b (if fitsS 96 cv then { n with full := n.full + 1 } else { n with wide := n.wide + 1 })
        ⟨x.key, x.value, x.poison⟩
    | some e =>
      let y := min e.exp xc
      let v := e.value * ((2 ^ (e.exp - y).toNat : Nat) : Int) + cv * ((2 ^ (xc - y).toNat : Nat) : Int)
      if fitsS 96 v then
        let put (z : StippleEnt) : StippleEnt := if z.key = x.key then ⟨z.key, v, y, z.poison || x.poison⟩ else z
        ({ b with entries := b.entries.map put }, n)
      else hellAppend { b with entries := b.entries.filter fun z => z.key != x.key } { n with wide := n.wide + 1 }
        ⟨x.key, wrapS 192 (scaleUp v y), e.poison || x.poison⟩

/-- The merge of a block: one record per distinct key, in increasing key order (R267). -/
def StippleSt.merge (b : StippleSt) : List HellRec :=
  (mergeHell ((b.entries.map fun e => ⟨e.key, scaleUp e.value e.exp, e.poison⟩) ++ b.hell.map hellOf)).map fun r =>
    { r with value := wrapS 192 r.value, poison := r.poison || b.full || b.lost }

/-- The held blocks of a chase in increasing logical block index: region × 16 + block. -/
def State.heldBlocks (s : State) (c : Nat) : List Nat := (s.heldRegions c).flatMap fun k => (List.range 16).map fun b => 16 * k + b

/-- The contributions in the order in which they arrive: `arrival` names places of the list, what it leaves out follows. -/
def inOrder {α : Type} (arrival : List Nat) (l : List α) : List α :=
  let first := (arrival.filter fun i => decide (i < l.length)).eraseDups
  (first ++ (List.range l.length).filter fun i => !first.contains i).filterMap fun i => l[i]?

/-- Count a block's spills in its region. -/
def State.countSpills (s : State) (c k : Nat) (n : SpillCnt) : State :=
  let p := s.physOf k
  let s1 := ((s.bump Fld.rgnStpSpillWide p n.wide).bump Fld.rgnStpSpillFull p n.full).bump Fld.rgnStpCompactions p n.compactions
  let s2 := (s1.bump Fld.rgnStpHbFull p n.stuck).raiseTo Fld.rgnStpHbPeak p n.peak
  s2.updWork c fun w => { w with hellbox := w.hellbox + n.stuck }

/-- Take contributions in their order of arrival: block and counts. -/
def State.stippleTake (s : State) (c : Nat) (xs : List Contribution) : State :=
  let blocks := s.heldBlocks c
  xs.foldl (fun s x =>
    let key := blocks.getD (stippleOwner x.key blocks.length) 0
    let r := stippleInsert ((kvGet s.stipple key).getD StippleSt.empty) SpillCnt.zero x
    ({ s with stipple := kvPut s.stipple key r.1 } : State).countSpills c (key / 16) r.2) s

/-- The merge at plate end: the records of every held block in block order; buffers and segments are then empty (R267). -/
def State.stippleMerge (s : State) (c : Nat) : State × List HellRec :=
  let blocks := s.heldBlocks c
  ({ s with stipple := kvKeep (fun k => !blocks.contains k) s.stipple },
    blocks.flatMap fun k => match kvGet s.stipple k with
      | some b => b.merge
      | none => [])

end Sys2Proof.Machine
end

