-- ==== Sys2Proof/Machine/Graph.lean ====
section
/-! DEFINITION. Graph execution (R372 to R415): graph records, vertex arrays and their limbs, frontier sets, AGGREGATE in pull
and push form, the split plans of hub rows, and FRONTIER. -/

namespace Sys2Proof.Machine

/-! ### Faults (R393) -/

def gfRecord : Nat := 1
def gfOffsets : Nat := 2
def gfOrder : Nat := 3
def gfVertex : Nat := 4
def gfDegree : Nat := 5
def gfFrontier : Nat := 6
def gfForm : Nat := 7

/-- "No vertex". -/
def noVertex : Nat := 2 ^ 40 - 1

/-- Count a graph fault: `vertex` is the row's, none for a record fault. -/
def State.graphFault (s : State) (c code : Nat) (vertex : Option Nat) : State :=
  (s.bump (if vertex.isSome then Fld.grfRowFaults else Fld.grfRecordFaults) 0 1).setFs 0 [(Fld.grfLastCode, code),
    (Fld.grfLastSlot, c), (Fld.grfLastPlate, (s.chase c).plate.index), (Fld.grfLastVertex, vertex.getD noVertex % 2 ^ 40)]

/-- A record fault ends the plate's work with nothing but poison (R233, R393). -/
def State.graphRecordFault (s : State) (c code : Nat) : State := (s.graphFault c code none).plateWorked c SummarySlot.fault

/-! ### Records (R373, R388, R409) -/

structure GraphRec where
  form : Nat
  wfmt : Nat
  wexp : Int
  gen : Nat
  vertices : Nat
  first : Nat
  range : Nat
  rows : Nat
  edges : Nat
  offsets : Nat
  indices : Nat
  weights : Nat
  rowIds : Nat
  shared : Nat
  reservedZero : Bool
  deriving DecidableEq, Repr

def graphRecOf (r : Bytes) : GraphRec :=
  ⟨u8At r 0, u8At r 1, sextNat 8 (u8At r 2), u32At r 4, u64At r 8, u64At r 16, u64At r 24, u64At r 32, u64At r 40, u64At r 48,
    u64At r 56, u64At r 64, u64At r 72, u32At r 80, u8At r 3 == 0 && allZero (slice r 84 44)⟩

/-- An address that is there, or is none. -/
def addrIf (want : Bool) (a : Nat) : Bool := recAddr a && (if want then a != 0 else a == 0)

/-- Whether a graph record keeps R373 and the row counts of R375 and R376. -/
def graphRecOk (g : GraphRec) : Bool :=
  g.reservedZero && decide (g.form ≤ 1) && decide (g.wfmt ≤ 4) && decide (-32 ≤ g.wexp ∧ g.wexp ≤ 31) &&
    (g.wfmt != 0 || g.wexp == 0) && decide (1 ≤ g.vertices ∧ g.vertices < 2 ^ 40) && decide (g.first + g.range ≤ g.vertices) &&
    decide (g.edges ≤ 2 ^ 40) && addrIf true g.offsets && recAddr g.indices && (g.edges == 0 || g.indices != 0) &&
    addrIf (g.wfmt != 0) g.weights &&
    (if g.form = 0 then g.rows == g.range + g.shared && decide (g.shared ≤ 65536) && addrIf (g.shared != 0) g.rowIds
     else g.shared == 0 && addrIf (g.rows != 0) g.rowIds)

structure AggRec where
  graph : Nat
  x : Nat
  frontier : Nat
  winners : Nat
  sharedOut : Nat
  elements : Nat
  reservedZero : Bool
  deriving DecidableEq, Repr

def aggRecOf (r : Bytes) : AggRec :=
  ⟨u64At r 0, u64At r 8, u64At r 16, u64At r 24, u64At r 32, u16At r 40, allZero (slice r 42 22)⟩

/-- AG_COMBINE: 0 SUM, 1 MEAN, 2 MAX, 3 MIN. -/
def aggMean : Nat := 1
def aggMax : Nat := 2

/-- Whether an aggregate record keeps R388 under a combine mode. -/
def aggRecOk (a : AggRec) (combine : Nat) : Bool :=
  a.reservedZero && addrIf true a.graph && addrIf true a.x && recAddr a.frontier && recAddr a.winners && recAddr a.sharedOut &&
    (decide (aggMax ≤ combine) || a.winners == 0) && decide (1 ≤ a.elements ∧ a.elements ≤ 256)

/-- A u40 of a list of them. -/
def u40At (rd : Reader) (base k : Nat) : Nat × Bool := let r := rd (base + 5 * k) 5; (leNat r.1, r.2)

/-- The stored row offsets and whether they are poisoned. -/
def rowOffsets (rd : Reader) (g : GraphRec) : List Nat × Bool :=
  let r := rd g.offsets (8 * (g.rows + 1))
  ((List.range (g.rows + 1)).map fun k => u64At r.1 (8 * k), r.2)

/-- Whether a list never decreases. -/
def ascending : List Nat → Bool
  | a :: b :: t => decide (a ≤ b) && ascending (b :: t)
  | _ => true

/-- Whether a list strictly increases. -/
def rising : List Nat → Bool
  | a :: b :: t => decide (a < b) && rising (b :: t)
  | _ => true

/-- Whether the offsets keep R374. -/
def offsetsOk (g : GraphRec) (os : List Nat) : Bool := os.headD 1 == 0 && ascending os && os.getLastD 0 == g.edges

/-- The weight of edge `k` and whether its memory is poisoned. -/
def edgeWeight (rd : Reader) (g : GraphRec) (k : Nat) : Int × Bool :=
  if g.wfmt = 0 then (1, false)
  else
    let w := elemWidth (g.wfmt - 1)
    let r := rd (g.weights + k * w / 8) 1
    (packedElem (g.wfmt - 1) r.1 (if w = 8 then 0 else k % 2), r.2)

/-! ### Frontier sets (R382 to R385) -/

/-- A frontier object: where it stands, its header, and whether it is poisoned. -/
structure FrontPiece where
  base : Nat
  form : Nat
  first : Nat
  range : Nat
  count : Nat
  ok : Bool
  poison : Bool
  deriving DecidableEq, Repr

/-- The bytes of header and body. -/
def FrontPiece.len (p : FrontPiece) : Nat := 64 + if p.form = 1 then 5 * p.count else ceilDiv p.range 8

/-- The vertices of a list body. -/
def listBody (rd : Reader) (p : FrontPiece) : List Nat := (List.range p.count).map fun k => (u40At rd (p.base + 64) k).1

/-- A vertex of the range has its bit in a bitmap body. -/
def bitmapHas (rd : Reader) (p : FrontPiece) (v : Nat) : Bool := bitOf (leNat (rd (p.base + 64 + (v - p.first) / 8) 1).1) ((v - p.first) % 8)

/-- The header of a frontier object. -/
def frontHdr (rd : Reader) (base : Nat) : FrontPiece :=
  let r := rd base 64
  let h := r.1
  let first := u64At h 8
  let range := u64At h 16
  ⟨base, u8At h 0, first, range, u64At h 24,
    decide (u8At h 0 ≤ 1) && decide (u8At h 1 ≤ 1) && allZero (slice h 2 6) && decide (1 ≤ range ∧ range < 2 ^ 40) &&
      decide (first + range ≤ 2 ^ 40) && decide (u64At h 24 ≤ range) && allZero (slice h 40 24), r.2 || bitOf (u8At h 1) 0⟩

/-- Whether the body of a frontier object keeps R383 and R385. -/
def frontBodyOk (rd : Reader) (p : FrontPiece) : Bool :=
  if p.form = 1 then
    let l := listBody rd p
    rising l && l.all fun v => decide (p.first ≤ v) && decide (v < p.first + p.range)
  else
    ((List.range p.range).filter fun k => bitmapHas rd p (p.first + k)).length == p.count &&
      (List.range (8 * ceilDiv p.range 8 - p.range)).all fun k => !bitmapHas rd p (p.first + p.range + k)

/-- Whether the memory of a body is poisoned. -/
def frontBodyBad (rd : Reader) (p : FrontPiece) : Bool :=
  (rd (p.base + 64) (if p.form = 1 then 5 * p.count else ceilDiv p.range 8)).2

/-- Pieces whose ranges increase and do not overlap. -/
def piecesApart : List FrontPiece → Bool
  | a :: b :: t => decide (a.first + a.range ≤ b.first) && piecesApart (b :: t)
  | _ => true

/-- A frontier set: its pieces; none where it breaks its layout (R384, R385). -/
def readFrontier (rd : Reader) (base : Nat) : Option (List FrontPiece) :=
  let h := rd base 64
  let n := u16At h.1 0
  if n = 0 ∨ 32768 < n ∨ !allZero (slice h.1 2 62) then none
  else
    let ps := (List.range n).map fun k =>
      let o := rd (base + 64 + 8 * k) 8
      let p := frontHdr rd (base + leNat o.1)
      { p with poison := p.poison || o.2 || h.2 }
    if (ps.all fun p => p.ok && recAddr p.base) && piecesApart ps && ps.all (frontBodyOk rd) then
      some (ps.map fun p => { p with poison := p.poison || frontBodyBad rd p })
    else none

/-- A vertex is in a frontier set. -/
def inFrontier (rd : Reader) (ps : List FrontPiece) (v : Nat) : Bool :=
  match ps.find? fun p => decide (p.first ≤ v) && decide (v < p.first + p.range) with
  | some p => if p.form = 1 then (listBody rd p).contains v else bitmapHas rd p v
  | none => false

/-! ### Vertex arrays (R379 to R381) -/

/-- The feature formats. -/
def featFmt (f : Nat) : Bool := decide (f ≤ 3) || f == 0x10 || f == 0x11

/-- The limbs of a feature (R380). -/
def featLimbs (fmt : Nat) : Nat := if fmt = 0x10 then 4 else if fmt = 0x11 then 2 else 1

/-- Whether every limb exponent of a tile lies in -32 to +31 (R381). -/
def featExpOk (h : TileHdr) (b : Bytes) : Bool :=
  let ok (e : Int) : Bool := decide (-32 ≤ e) && decide (e + 8 * ((featLimbs h.fmt : Int) - 1) ≤ 31)
  if h.uniformExp then ok h.exp
  else (List.range h.lines).all fun l => (List.range h.groups).all fun g => ok (tileGroupExp h b l g)

/-- A vertex array: where it stands, groups of a tile, K tiles of a line tile, and the lines that it has at most. -/
structure VertexArr where
  base : Nat
  groups : Nat
  kts : Nat
  lines : Nat
  deriving DecidableEq, Repr

/-- A vertex array of a number of elements: its tiles have as many groups as its first one. -/
def vertexArr (rd : Reader) (base elements lines : Nat) : VertexArr :=
  let g := weightGroups rd base
  ⟨base, g, ceilDiv (ceilDiv elements 32) g, lines⟩

/-- Line tile `lt` is the last one of a vertex array: no vertex lies behind it, or the directory, which ends where tile 0 begins,
has no tile behind it (an array need not cover vertices that no plate reads: DEDUCED). -/
def VertexArr.lastLine (rd : Reader) (a : VertexArr) (lt : Nat) : Bool :=
  let i := (lt + 1) * a.kts
  decide (a.lines ≤ 32 * (lt + 1)) || decide (bitsOf (leNat (rd a.base 8).1) 39 0 ≤ 8 * i) ||
    bitsOf (leNat (rd (a.base + 8 * i) 8).1) 63 40 == 0

/-- Read and check a tile of a vertex array. -/
def vertexTile (rd : Reader) (a : VertexArr) (lt kt : Nat) : OpTile :=
  let r := readTile rd a.base (lt * a.kts + kt)
  let h := tileHdrOf r.1
  let code := tileCheck featFmt h r.1 ⟨lt, kt, a.groups, kt + 1 == a.kts, a.lastLine rd lt, false, r.2.1⟩ false
  ⟨h, r.1, if (code == 0 || decide (5 < code)) && !featExpOk h r.1 then 5 else code, r.2.2 || h.poisoned⟩

/-- The tiles of a line tile. -/
def vertexTiles (rd : Reader) (a : VertexArr) (lt : Nat) : List OpTile := (List.range a.kts).map fun kt => vertexTile rd a lt kt

/-- Element `j` of line `l` of a line tile: its number, its exponent; none where its tile is not to be used. -/
def vertexElem (a : VertexArr) (ts : List OpTile) (l j : Nat) : Option (OutElem × Int) :=
  match ts[j / (32 * a.groups)]? with
  | none => none
  | some t =>
    if t.bad then none
    else if t.hdr.lines ≤ l then some (.num 0, 0)
    else
      let x := j % (32 * a.groups)
      some ((tileLineDense t.hdr t.bytes l).getD x (.num 0), tileGroupExp t.hdr t.bytes l (x / 32))

/-! ### Rows and edges -/

/-- A live edge: source (its vertex), destination, weight, and whether its memory is poisoned. -/
structure Edge where
  other : Nat
  weight : Int
  poison : Bool
  deriving DecidableEq, Repr

/-- A row as read: its vertex, its bounds, its fault code (0: none), its edges. -/
structure GraphRow where
  vertex : Nat
  lo : Nat
  hi : Nat
  code : Nat
  edges : List Edge
  deriving DecidableEq, Repr

/-- Read row `r` and check it (R393). -/
def readRow (rd : Reader) (g : GraphRec) (limbs : Nat) (os : List Nat) (r vertex : Nat) : GraphRow :=
  let lo := os.getD r 0
  let hi := os.getD (r + 1) 0
  let es := (List.range (hi - lo)).map fun k =>
    let i := u40At rd g.indices (lo + k)
    let w := edgeWeight rd g (lo + k)
    (⟨i.1, w.1, i.2 || w.2⟩ : Edge)
  let ids := es.map (·.other)
  let out (v : Nat) : Bool := decide (g.vertices ≤ v) || (g.form == 1 && (decide (v < g.first) || decide (g.first + g.range ≤ v)))
  let code := if !rising ids then gfOrder else if ids.any out then gfVertex
    else if decide (2 ^ 40 < (hi - lo) * limbs) then gfDegree else 0
  ⟨vertex, lo, hi, code, es⟩

/-- The vertex of row `r`. -/
def rowVertex (rd : Reader) (g : GraphRec) (r : Nat) : Nat :=
  if g.form = 0 ∧ r < g.range then g.first + r else (u40At rd g.rowIds (if g.form = 0 then r - g.range else r)).1

/-- What AGGREGATE works on. -/
structure AggJob where
  rd : Reader
  g : GraphRec
  a : AggRec
  combine : Nat
  xs : VertexArr
  front : Option (List FrontPiece)

/-- A source is active. -/
def AggJob.active (j : AggJob) (v : Nat) : Bool := match j.front with
  | some ps => inFrontier j.rd ps v
  | none => true

/-- The exact contributions of an edge from source `u` with weight `w` to the elements; a value of 0 with poison where the
source's tile is not to be used (R380, R392). -/
def AggJob.edgeValues (j : AggJob) (u : Nat) (w : Int) (poison : Bool) : List WideRec :=
  let ts := vertexTiles j.rd j.xs (u / 32)
  (List.range j.a.elements).map fun e => match vertexElem j.xs ts (u % 32) e with
    | some x => ⟨scaleUp (w * elemNum x.1) (j.g.wexp + x.2), poison, false, u⟩
    | none => ⟨0, true, false, u⟩

/-- The combined elements of a row in pull form: none where no edge is live (R389, R390). A faulty row gives nothing but
poison (R393). A row cut into segments of `t` edges combines segment `i` on hop `i` modulo `hops` and its parts along the chain
(R400); with `hops` 0 it runs whole. -/
def AggJob.rowValues (j : AggJob) (hops t : Nat) (r : GraphRow) : List (Option WideRec) × Nat :=
  if r.code != 0 then (List.replicate j.a.elements (some ⟨0, true, true, noVertex⟩), 0)
  else
    let live := r.edges.zipIdx.filter fun e => j.active e.1.other
    let join (a b : WideRec) : WideRec := if j.combine < aggMax then wideAdd a b else widePick (j.combine == aggMax) a b
    let start : List WideRec := List.replicate j.a.elements (if j.combine < aggMax then ⟨0, false, false, 0⟩ else wideEmpty)
    let joins (a b : List WideRec) : List WideRec := (a.zip b).map fun e => join e.1 e.2
    let add (l : List (Edge × Nat)) : List WideRec :=
      l.foldl (fun a e => joins a (j.edgeValues e.1.other e.1.weight e.1.poison)) start
    let all := if hops = 0 then add live
      else chainFold joins start hops (ceilDiv r.edges.length t) fun i => add (live.filter fun e => e.2 / t == i)
    (all.map fun v => if live.isEmpty ∧ aggMax ≤ j.combine then none else some v, live.length)

/-! ### Output (R390, R391, R396) -/

/-- What AG_EMPTY names for a format; a record without a winner names no vertex (R372, R390). -/
def aggEmpty (fmt code : Nat) : OutElem :=
  let w := if fmt = 5 then 2 ^ 191 else 2 ^ (fmtBits fmt - 1)
  let v : Int := if code = 1 then (w : Nat) - 1 else if code = 2 then -((w : Nat) : Int) else 0
  if fmt = 5 then .wide ⟨v, false, true, noVertex⟩ else if fmt = 4 then .pair v 0 else .num v

/-- The tiles of lines of values: each line's elements and the number that divides them (MEAN); `hop` is the region in which a
line tile closes where it holds a hub row (R400). -/
def aggTiles (n : Nat) (hop : Nat → Option Nat) (fill : OutElem) (counts allBad : Bool) (lines : List (List (Option WideRec) × Nat)) : List TileIn :=
  ((pieces 32 lines).zipIdx).flatMap fun r => (List.range (ceilDiv n 32)).map fun k =>
    let w := min 32 (n - 32 * k)
    let cells := r.1.flatMap fun l => (List.range w).map fun j => ((l.1[32 * k + j]?).join, l.2)
    let vals := cells.map fun e => e.1.map fun v => (⟨v.value, max 1 e.2, v.index⟩ : Val)
    let bad := cells.any fun e => match e.1 with | some v => v.poison | none => false
    ⟨r.2, k, r.1.length, w, vals, fill, counts, bad || allBad, none, hop r.2⟩

/-- The bytes of an array of dense output tiles: n lines of elements, of a format (R222, R226). -/
def denseArrayBytes (lines elements fmt : Nat) : Nat :=
  let lts := ceilDiv lines 32
  let kts := ceilDiv elements 32
  dirLen (lts * kts) + ((List.range lts).map fun t => kts * (64 + pad64 (ceilDiv (min 32 (lines - 32 * t) * 32 * thFmtBits (thFmtOfCw fmt)) 8))).sum

/-- The winner array (R391): one u64 per element, the source of the winner. -/
def aggWinners (lines : List (List (Option WideRec) × Nat)) : Bytes :=
  lines.flatMap fun l => l.1.flatMap fun e => natLe 8 (match e with
    | some v => if v.empty then noVertex else v.index
    | none => noVertex)

/-- Two byte ranges share a byte. -/
def overlaps (a n b m : Nat) : Bool := decide (a < b + m) && decide (b < a + n)

/-- Whether a range shares a byte with a tile array of `n` tiles. -/
def overlapsArray (rd : Reader) (a n base tiles : Nat) : Bool :=
  overlaps a n base (8 * tiles) || (List.range tiles).any fun t =>
    let e := leNat (rd (base + 8 * t) 8).1
    overlaps a n (base + bitsOf e 39 0) (64 * bitsOf e 63 40)

/-! ### Split plans (R398 to R404) -/

/-- T (R398), doubled until the segments fit (R399). -/
def splitThreshold (agSplit edges : Nat) : Nat := min (if agSplit = 0 then 4096 else agSplit) (max 32 (edges / 64))
def segmentsMax : Nat := 4194304
def fitThreshold (lens : List Nat) : Nat → Nat → Nat
  | 0, t => t
  | f + 1, t => if ((lens.filter fun n => decide (t < n)).map fun n => ceilDiv n t).sum ≤ segmentsMax then t else fitThreshold lens f (2 * t)

/-- The hops of the chain of a plate (region × 16 + block); in push form, the held blocks. -/
def State.splitHops (s : State) (c : Nat) (form : Nat) : List Nat :=
  if form = 1 then s.heldBlocks c
  else (s.plateHops c).map fun h => 16 * h.1 + h.2

/-- The segments of the split rows. -/
def splitSegments (indices t : Nat) (hops : List Nat) (rows : List (Nat × Nat × Nat)) : List (Nat × Nat × Nat) :=
  rows.flatMap fun r => (List.range (ceilDiv (r.2.2 - r.2.1) t)).map fun i =>
    let lo := r.2.1 + i * t
    (hops.getD (i % hops.length) 0, indices + 5 * lo, 5 * (min r.2.2 (lo + t) - lo))

/-- Use the split plan of a graph record: keep it, build or rebuild it, or run every hub row whole. The answer gives T and the rows
that are cut (R398 to R404). -/
def State.useSplit (s : State) (c graph agSplit : Nat) (g : GraphRec) (os : List Nat) : State × Nat × List Nat :=
  let rows := (List.range g.rows).map fun r => (r, os.getD r 0, os.getD (r + 1) 0)
  let t := fitThreshold (rows.map fun r => r.2.2 - r.2.1) 64 (splitThreshold agSplit g.edges)
  let hubs := rows.filter fun r => decide (t < r.2.2 - r.2.1)
  let hops := s.splitHops c g.form
  if g.form = 0 ∧ hops = [] then (s.bump Fld.grfUnsplitRows 0 hubs.length, t, [])
  else
    let key := [graph, g.gen, g.edges, t, (s.plate c).chain]
    let plans := (s.chase c).plans
    let put (p : SplitPlan) (s : State) : State := s.updChase c fun x => { x with plans := (p :: plans.filter fun q => q.key.headD 0 != graph).take 16 }
    match plans.find? fun p => p.key == key && p.rows.all fun r => rows.contains r with
    | some p => (put p (s.bump Fld.grfUnsplitRows 0 (hubs.filter fun h => !p.rows.contains h).length), t, p.rows.map (·.1))
    | none => (put ⟨key, hubs, splitSegments g.indices t hops hubs, 0⟩
        ((s.bump Fld.grfHubPlans 0 1).bump Fld.grfHubRows 0 hubs.length), t, hubs.map (·.1))

/-! ### The AGGREGATE plate -/

/-- The first record fault of an AGGREGATE plate (R393); 0 where there is none. -/
def AggJob.check (j : AggJob) (rd : Reader) (p : Plate) (bad : Bool) (os : List Nat) (frontOk : Bool) (lts : Nat) : Nat :=
  let len := denseArrayBytes j.g.range j.a.elements (closeWordOf (bitsOf p.args 31 0)).fmt
  let clash := overlapsArray rd p.dst len j.a.x (lts * j.xs.kts) || overlaps p.dst len j.g.offsets (8 * (j.g.rows + 1)) ||
    overlaps p.dst len j.g.indices (5 * j.g.edges) ||
    (j.g.wfmt != 0 && overlaps p.dst len j.g.weights (ceilDiv (j.g.edges * elemWidth (j.g.wfmt - 1)) 8)) ||
    (j.g.rowIds != 0 && overlaps p.dst len j.g.rowIds (5 * (if j.g.form = 0 then j.g.shared else j.g.rows))) ||
    (j.front.getD []).any fun q => overlaps p.dst len q.base q.len
  let rowsBad := j.g.form == 1 && !(rising ((List.range j.g.rows).map (rowVertex rd j.g)) &&
    (List.range j.g.rows).all fun r => decide (rowVertex rd j.g r < j.g.vertices))
  if bad || p.count != j.g.range || clash || rowsBad then gfRecord
  else if !offsetsOk j.g os then gfOffsets
  else if !frontOk then gfFrontier
  else if (j.g.form == 1 && j.combine != 0) || (j.combine == aggMean && j.g.shared != 0) ||
      (j.a.sharedOut != 0) != (j.g.shared != 0) then gfForm
  else 0

/-- The line tiles of the source array that the rows name. -/
def sourceTiles (rd : Reader) (g : GraphRec) : Nat :=
  let ids := if g.form = 0 then (List.range g.edges).map fun k => (u40At rd g.indices k).1 else (List.range g.rows).map (rowVertex rd g)
  let top := (ids.filter fun v => decide (v < g.vertices)).foldl max 0
  if ids.isEmpty then 0 else top / 32 + 1

/-- Count the faults of the rows, in row order. -/
def State.rowFaults (s : State) (c : Nat) (rs : List GraphRow) : State :=
  rs.foldl (fun s r => if r.code = 0 then s else s.graphFault c r.code (some r.vertex)) s

/-- The line tiles of the sources that rows use, each once. -/
def usedLines (us : List Nat) : List Nat := us.foldl (fun l u => setIns l (u / 32)) []

/-- Read the tiles of the sources that rows use: noted, and counted where they fail a check (R243). -/
def State.readSources (s : State) (c : Nat) (j : AggJob) (us : List Nat) : State :=
  (usedLines us).foldl (fun s lt =>
    ((List.range j.xs.kts).foldl (fun s k => s.noteTile c j.xs.base (lt * j.xs.kts + k)) s).metaFaults c (vertexTiles j.rd j.xs lt)) s

/-- Note that the edges from `lo` to `hi` were read. -/
def State.readEdges (s : State) (c : Nat) (g : GraphRec) (lo hi : Nat) : State :=
  let s1 := s.noteRead c (g.indices + 5 * lo) (5 * (hi - lo))
  if hi ≤ lo then s
  else if g.wfmt = 0 then s1
  else
    let w := elemWidth (g.wfmt - 1)
    s1.noteRead c (g.weights + lo * w / 8) (ceilDiv (hi * w) 8 - lo * w / 8)

/-- Write the output of an AGGREGATE: the array, its winners, the summary. -/
def State.aggWrite (s : State) (c : Nat) (j : AggJob) (p : Plate) (ts : List TileIn) (winners : Bytes) : State :=
  let o : OutSpec := ⟨closeWordOf (bitsOf p.args 31 0), 0, 0, ceilDiv j.a.elements 32⟩
  let s1 := if j.a.winners = 0 ∨ j.combine < aggMax then s else s.plateStore c j.a.winners winners
  s1.writeOutput c p.dst o ts

/-- Write the shared rows (R396). -/
def State.sharedWrite (s : State) (c : Nat) (j : AggJob) (ts : List TileIn) : State :=
  if j.g.shared = 0 then s
  else
    let r := s.closeAll c ⟨⟨false, 0, 5, 0⟩, 0, 0, ceilDiv j.a.elements 32⟩ ts
    (r.1.storeArray c j.a.sharedOut (r.2.map (·.bytes))).1

/-- AGGREGATE in pull form; `t` and `cut` are the split threshold and the rows that are cut. -/
def State.aggPull (s : State) (c : Nat) (j : AggJob) (p : Plate) (os : List Nat) (allBad : Bool) (t : Nat) (cut : List Nat) : State :=
  let limbs := featLimbs (tileHdrOf (readTile j.rd j.xs.base 0).1).fmt
  let rows := (List.range j.g.rows).map fun r => readRow j.rd j.g limbs os r (rowVertex j.rd j.g r)
  let us := rows.flatMap fun r => if r.code = 0 then (r.edges.filter fun e => j.active e.other).map (·.other) else []
  let hops := (s.plateHops c).length
  let vals := rows.zipIdx.map fun r => j.rowValues (if cut.contains r.2 then hops else 0) t r.1
  let last := s.lastHop c
  let hop (first k : Nat) : Option Nat := if cut.any fun r => decide (first ≤ r) && (r - first) / 32 == k then last else none
  let lines := vals.map fun v => (v.1, if j.combine = aggMean then v.2 else 1)
  let main := lines.take j.g.range
  let fill := aggEmpty (closeWordOf (bitsOf p.args 31 0)).fmt (bitsOf p.args 36 35)
  let s1 := ((s.readEdges c j.g 0 j.g.edges).rowFaults c rows).readSources c j us
  let inMain := cut.filter fun r => decide (r < j.g.range)
  let mainHop (k : Nat) : Option Nat := if inMain.any fun r => r / 32 == k then last else none
  (s1.sharedWrite c j (aggTiles j.a.elements (hop j.g.range) (aggEmpty 5 0) false allBad (lines.drop j.g.range))).aggWrite c j p
    (aggTiles j.a.elements mainHop fill true allBad main) (aggWinners main)

/-- AGGREGATE in push form (R394, R395). -/
def State.aggPush (s : State) (c : Nat) (j : AggJob) (p : Plate) (os : List Nat) (allBad : Bool) (arrival : List Nat) : State :=
  let limbs := featLimbs (tileHdrOf (readTile j.rd j.xs.base 0).1).fmt
  let live := (List.range j.g.rows).filter fun r => j.active (rowVertex j.rd j.g r)
  let rows := live.map fun r => readRow j.rd j.g limbs os r (rowVertex j.rd j.g r)
  let bad := rows.any fun r => r.code != 0
  let xs := (rows.filter fun r => r.code == 0).flatMap fun r => r.edges.flatMap fun e =>
    (j.edgeValues r.vertex e.weight e.poison).zipIdx.map fun v =>
      (⟨(e.other - j.g.first) * 256 + v.2, v.1.value, v.1.poison⟩ : Contribution)
  let s0 := rows.foldl (fun s r => s.readEdges c j.g r.lo r.hi) s
  let s1 := (s0.rowFaults c rows).readSources c j ((rows.filter fun r => r.code == 0 && !r.edges.isEmpty).map (·.vertex))
  let m := (s1.stippleTake c (inOrder arrival xs)).stippleMerge c
  let cell (k : Nat) : WideRec := match m.2.find? fun r => r.key == k with
    | some r => ⟨r.value, r.poison, false, 0⟩
    | none => ⟨0, false, false, 0⟩
  let lines := (List.range j.g.range).map fun i => ((List.range j.a.elements).map fun e => some (cell (i * 256 + e)), 1)
  m.1.aggWrite c j p (aggTiles j.a.elements (fun _ => none) (zeroElem 0) true (allBad || bad) lines) []

/-- The work of an AGGREGATE plate. -/
def State.aggregatePlate (s : State) (c : Nat) (arrival : List Nat) : State :=
  let p := s.plate c
  let combine := bitsOf p.args 34 32
  let rd := s.chaseRead c
  let raw := rd p.src 64
  let a := aggRecOf raw.1
  let graw := rd a.graph 128
  let g := graphRecOf graw.1
  let s0 := s.noteRead c p.src 64
  if raw.2 || !aggRecOk a combine then s0.graphRecordFault c gfRecord
  else if graw.2 || !graphRecOk g then (s0.noteRead c a.graph 128).graphRecordFault c gfRecord
  else
    let os := rowOffsets rd g
    let front := if a.frontier = 0 then none else readFrontier rd a.frontier
    let j : AggJob := ⟨rd, g, a, combine, vertexArr rd a.x a.elements g.vertices, front⟩
    let lts := sourceTiles rd g
    let s2 := (s0.noteRead c a.graph 128).noteRead c g.offsets (8 * (g.rows + 1))
    let s3 := if g.rowIds = 0 then s2 else s2.noteRead c g.rowIds (5 * (if g.form = 0 then g.shared else g.rows))
    let s4 := match front with
      | some ps => ps.foldl (fun (s : State) (q : FrontPiece) => s.noteRead c q.base q.len) (s3.noteRead c a.frontier 64)
      | none => s3
    match j.check rd p os.2 os.1 (a.frontier == 0 || front.isSome) lts with
    | 0 =>
      let allBad := match front with | some ps => ps.any (·.poison) | none => false
      let s5 := s4.useSplit c a.graph (bitsOf p.args 52 37) g os.1
      if g.form = 0 then s5.1.aggPull c j p os.1 allBad s5.2.1 s5.2.2 else s5.1.aggPush c j p os.1 allBad arrival
    | code => s4.graphRecordFault c code

/-- AGGREGATE: the AGGREGATE plate in hand does its work; `arrival` is the order in which the contributions of a push plate
reach the stipple buffers. -/
def execAggregate (slot : Nat) (hw : List HwEvent) (arrival : List Nat) (s : State) : Ans :=
  .next (s.plateDo slot opAggregate hw fun s => s.aggregatePlate slot arrival)

/-! ### The FRONTIER plate (R407 to R414) -/

structure FrontRec where
  new : Nat
  old : Nat
  exclude : Nat
  first : Nat
  range : Nat
  reservedZero : Bool
  deriving DecidableEq, Repr

def frontRecOf (r : Bytes) : FrontRec := ⟨u64At r 0, u64At r 8, u64At r 16, u64At r 24, u64At r 32, allZero (slice r 40 24)⟩

/-- FA_MODE NONZERO. -/
def faNonzero : Nat := 1

def frontRecOk (r : FrontRec) (mode : Nat) : Bool :=
  r.reservedZero && addrIf true r.new && addrIf (mode != faNonzero) r.old && recAddr r.exclude &&
    decide (1 ≤ r.range ∧ r.range < 2 ^ 40) && decide (r.first + r.range < 2 ^ 40)

/-- The tiles of an array in chase data: directory entries with a length, before the first tile. -/
def arrayCount (rd : Reader) (base : Nat) : Nat :=
  let d := bitsOf (leNat (rd base 8).1) 39 0
  ((List.range (min (d / 8) (2 ^ 40))).takeWhile fun t => bitsOf (leNat (rd (base + 8 * t) 8).1) 63 40 != 0).length

/-- A vertex array over `range` lines: its K tiles are counted from its directory. -/
def lineArr (rd : Reader) (base range : Nat) : VertexArr :=
  ⟨base, weightGroups rd base, max 1 (arrayCount rd base / ceilDiv range 32), range⟩

/-- Two exact values agree. -/
def valEq (a b : Val) : Bool := a.num * (b.den : Int) == b.num * (a.den : Int)

/-- The exact value of an element, zero where the array has none. -/
def vertexVal (a : VertexArr) (ts : List OpTile) (l j : Nat) : Val :=
  match vertexElem a ts l j with
  | some x => elemVal x.2 x.1
  | none => ⟨0, 1, 0⟩

/-- The elements of a line tile below TH_VALID. -/
def lineElems (a : VertexArr) (ts : List OpTile) : List Nat :=
  (ts.zipIdx).flatMap fun t => (List.range t.1.hdr.valid).map fun j => 32 * a.groups * t.2 + j

/-- Whether a line enters the frontier by its values, and whether it enters whatever they and the exclusion say, with poison: its
tile is poisoned or fails a check (R410). -/
def frontLine (mode : Nat) (na oa : VertexArr) (nt ot : List OpTile) (l : Nat) : Bool × Bool :=
  let bad := nt.any (fun t => t.bad) || (mode != faNonzero && ot.any fun t => t.bad)
  if bad then (true, true)
  else if mode = faNonzero then ((lineElems na nt).any fun j => !valEq (vertexVal na nt l j) ⟨0, 1, 0⟩, false)
  else ((lineElems na nt).any fun j => !valEq (vertexVal na nt l j) (vertexVal oa ot l j), false)

/-- Bytes of a bitmap over a range with the given vertices set. -/
def bitmapBytes (first range : Nat) (vs : List Nat) : Bytes :=
  (List.range (ceilDiv range 8)).map fun k => BitVec.ofNat 8
    (((List.range 8).filter fun b => decide (8 * k + b < range) && vs.contains (first + 8 * k + b)).map fun b => 2 ^ b).sum

/-- A frontier object (R382, R383). -/
def frontObject (list poison : Bool) (first range stroke : Nat) (vs : List Nat) : Bytes :=
  [BitVec.ofNat 8 (natOfBool list), BitVec.ofNat 8 (natOfBool poison)] ++ List.replicate 6 0 ++ natLe 8 first ++ natLe 8 range ++
    natLe 8 vs.length ++ natLe 8 stroke ++ List.replicate 24 0 ++
    padBytes64 (if list then vs.flatMap (natLe 5) else bitmapBytes first range vs)

/-- X (R408). -/
def faXover (args : Nat) : Nat := let x := bitsOf args 12 3; if x = 0 then 25 else x

/-- Bytes to be reserved for the next frontier (R413). -/
def frontReserve (x range : Nat) : Nat := pad64 (64 + max (ceilDiv range 8) (5 * (x * range / 1000)))

/-- The bitmap object of excluded vertices, none where it is not a bitmap over exactly the range (R409). -/
def excludeOf (rd : Reader) (r : FrontRec) : Option FrontPiece :=
  let p := frontHdr rd r.exclude
  if p.ok && p.form == 0 && p.first == r.first && p.range == r.range then some { p with poison := p.poison || frontBodyBad rd p } else none

/-- Add the next frontier to the exclusion bitmap (R411). -/
def State.accumulate (s : State) (c : Nat) (p : FrontPiece) (vs : List Nat) : State :=
  let rd := s.chaseRead c
  let bits := (rd (p.base + 64) (ceilDiv p.range 8)).1
  let new := (bits.zip (bitmapBytes p.first p.range vs)).map fun e => e.1 ||| e.2
  (s.plateStore c (p.base + 64) new).plateStore c (p.base + 24) (natLe 8 (p.count + vs.length))

/-- The work of a FRONTIER plate. -/
def State.frontierPlate (s : State) (c : Nat) : State :=
  let p := s.plate c
  let mode := bitsOf p.args 1 0
  let x := faXover p.args
  let rd := s.chaseRead c
  let raw := rd p.src 64
  let r := frontRecOf raw.1
  let s0 := s.noteRead c p.src 64
  let ex := excludeOf rd r
  let na := lineArr rd r.new r.range
  let oa := lineArr rd r.old r.range
  let lts := ceilDiv r.range 32
  let len := frontReserve x r.range
  if raw.2 || !frontRecOk r mode || p.count != r.range || (r.exclude != 0 && ex.isNone) then s0.graphRecordFault c gfRecord
  else if overlapsArray rd p.dst len r.new (lts * na.kts) || (mode != faNonzero && overlapsArray rd p.dst len r.old (lts * oa.kts)) ||
      (r.exclude != 0 && overlaps p.dst len r.exclude (64 + ceilDiv r.range 8)) then s0.graphRecordFault c gfRecord
  else
    let s1 := s0.noteArray c r.new (lts * na.kts)
    let s2 := if mode = faNonzero then s1 else s1.noteArray c r.old (lts * oa.kts)
    let s3 := if r.exclude = 0 then s2 else s2.noteRead c r.exclude (64 + ceilDiv r.range 8)
    let nts := (List.range lts).map (vertexTiles rd na)
    let ots := if mode = faNonzero then [] else (List.range lts).map (vertexTiles rd oa)
    let out (v : Nat) : Bool := match ex with | some q => r.exclude != 0 && bitmapHas rd q v | none => false
    let exBad := match ex with | some q => r.exclude != 0 && q.poison | none => false
    let next := (List.range r.range).filterMap fun i =>
      let f := frontLine mode na oa (nts.getD (i / 32) []) (ots.getD (i / 32) []) (i % 32)
      if f.2 || (f.1 && !out (r.first + i)) then some (r.first + i, f.2 || exBad) else none
    let vs := next.map (·.1)
    let list := decide (1000 * vs.length ≤ x * r.range)
    let s4 := ((s3.metaFaults c nts.flatten).metaFaults c ots.flatten).plateStore c p.dst
      (frontObject list (next.any fun e => e.2) r.first r.range (s.getF Fld.stkNumber c) vs)
    let s5 := s4.bump (if list then Fld.grfFrLists else Fld.grfFrBitmaps) 0 1
    let s6 := match ex with
      | some q => if r.exclude != 0 && bitOf p.args 2 then s5.accumulate c q vs else s5
      | none => s5
    s6.plateWorked c (next.foldl (fun a e => if e.2 then a.poisonElem e.1 else a.elem 1 e.1) SummarySlot.empty)

/-- FRONTIER: the FRONTIER plate in hand does its work. -/
def execFrontier (slot : Nat) (hw : List HwEvent) (s : State) : Ans :=
  .next (s.plateDo slot opFrontier hw fun s => s.frontierPlate slot)

end Sys2Proof.Machine
end

