-- ==== Sys2Proof/Machine/Reduce.lean ====
section
/-! DEFINITION. The REDUCE plate (R205 to R211): sets of full-width partials combined on a member or across the members of a
chase, closed into lines of the output array or merged into it. -/

namespace Sys2Proof.Machine

/-- The most bytes of a message (R587, R598). -/
def msgMax : Nat := 225280

/-- A reduce record (R208). -/
structure ReduceRec where
  input : Nat
  lineMap : Nat
  winners : Nat
  outFirst : Nat
  outLines : Nat
  lines : Nat
  elements : Nat
  sets : Nat
  flags : Nat
  reservedZero : Bool
  deriving DecidableEq, Repr

def reduceRecOf (r : Bytes) : ReduceRec :=
  ⟨u64At r 0, u64At r 8, u64At r 16, u64At r 24, u64At r 32, u32At r 40, u16At r 44, u16At r 46, u8At r 48, allZero (slice r 49 15)⟩

def ReduceRec.merge (r : ReduceRec) : Bool := bitOf r.flags 0

/-- RD_OP: 0 SUM, 1 MAX, 2 MIN. -/
def rdSum : Nat := 0
def rdMax : Nat := 1

/-- The output index of input line `l`. -/
def ReduceRec.outIndex (r : ReduceRec) (rd : Reader) (l : Nat) : Nat := if r.lineMap = 0 then l else (u40At rd r.lineMap l).1

/-- Whether a reduce record keeps R208. Two points are the model's (DESIGN CHOICE, log 140): RR_WINNERS 0 under MAX or MIN keeps the
table, and no winner array is written; a PD_COUNT that differs from RR_LINES (R206) breaks the record. -/
def reduceRecOk (r : ReduceRec) (rd : Reader) (op count : Nat) : Bool :=
  r.reservedZero && addrIf true r.input && recAddr r.lineMap && recAddr r.winners && (op != rdSum || r.winners == 0) &&
    decide (1 ≤ r.outLines ∧ r.outLines < 2 ^ 40) && r.lines != 0 &&
    decide (1 ≤ r.elements ∧ r.elements ≤ 1024) && r.sets != 0 && decide (r.flags < 2) && count == r.lines &&
    (r.lineMap == 0 || !hasRepeat ((List.range r.lines).map (r.outIndex rd)))

/-- The tiles of the input array in directory order. -/
def ReduceRec.tiles (r : ReduceRec) (rd : Reader) : VertexArr × List OpTile :=
  let a := vertexArr rd r.input r.elements (r.lines * r.sets)
  let lts := ceilDiv (r.lines * r.sets) 32
  (a, (List.range (lts * a.kts)).map fun t =>
    let b := readTile rd r.input t
    let h := tileHdrOf b.1
    let code := tileCheck (· == 0x15) h b.1 ⟨t / a.kts, t % a.kts, a.groups, t % a.kts + 1 == a.kts, t / a.kts + 1 == lts, false, b.2.1⟩ false
    ⟨h, b.1, code, b.2.2 || h.poisoned⟩)

/-- The record of element `j` of input line `l`; a tile not to be used gives poison. -/
def inputRec (a : VertexArr) (ts : List OpTile) (l j : Nat) : WideRec :=
  match ts[(l / 32) * a.kts + j / (32 * a.groups)]? with
  | none => ⟨0, true, false, 0⟩
  | some t =>
    if t.bad then ⟨0, true, false, 0⟩
    else match (tileLineDense t.hdr t.bytes (l % 32)).getD (j % (32 * a.groups)) (.num 0) with
      | .wide w => w
      | e => ⟨elemNum e, false, false, 0⟩

/-- Two partials combined under RD_OP (R209). -/
def reduceJoin (op : Nat) (a b : WideRec) : WideRec := if op = rdSum then wideAdd a b else widePick (op == rdMax) a b

/-- What a combination starts from. -/
def reduceZero (op : Nat) : WideRec := if op = rdSum then ⟨0, false, false, 0⟩ else wideEmpty

/-- The member's own sets combined: input lines row-major (R209); with a chain set `k` goes to hop `k` modulo `hops` (R211). -/
def reduceOwn (op hops : Nat) (r : ReduceRec) (a : VertexArr) (ts : List OpTile) : List WideRec :=
  (List.range r.lines).flatMap fun l => (List.range r.elements).map fun j =>
    chainFold (reduceJoin op) (reduceZero op) hops r.sets fun k => inputRec a ts (k * r.lines + l) j

/-- Whether additions one after another leave s192 at some step. -/
def sumLeaves : Int → List Int → Bool
  | _, [] => false
  | a, b :: t => outS192 (a + b) || sumLeaves (accAdd a b) t

/-- Whether the vector engines' additions of a member's sets leave s192 (R202, R211, R285); the sets are added in their order
(DESIGN CHOICE). -/
def reduceLeaves (op hops : Nat) (r : ReduceRec) (a : VertexArr) (ts : List OpTile) : Bool :=
  op == rdSum && hops == 0 && (List.range r.lines).any fun l => (List.range r.elements).any fun j =>
    sumLeaves 0 ((List.range r.sets).map fun k => (inputRec a ts (k * r.lines + l) j).value)

/-- Records from the bytes of a member's messages. -/
def wideRecs (bs : Bytes) : List WideRec := (pieces 32 bs).map wideOf

/-- FL_ARG of a REDUCE record message: which plate it belongs to and which piece it is. -/
def reduceArg (plate piece : Nat) : Nat := 4 * 2 ^ 44 + piece * 2 ^ 16 + plate

/-- Send the member's combined records to every other member. -/
def State.reduceSend (s : State) (c : Nat) (recs : List WideRec) : State :=
  let bs := recs.flatMap wideBytes
  let others := s.others c
  let s1 := others.foldl (fun s i => (pieces msgMax bs).zipIdx.foldl (fun s p =>
    s.sendMsg ⟨ptNode (s.forme c) i, 0, 0x11, ptTag (s.forme c), reduceArg (s.chase c).plate.index p.2, p.1, 0, c, true⟩) s) s
  s1.updChase c fun x => { x with redSent := true, plate := { x.plate with sentTo := others } }

/-- The records that have come from a member for the plate in hand, in order of their pieces. -/
def State.reduceFrom (s : State) (c i : Nat) : List WideRec :=
  let x := s.chase c
  let l := x.redIn.filter fun e => e.1 == x.plate.index && e.2.1 == i
  wideRecs ((List.range l.length).flatMap fun k => match l.find? fun e => e.2.2.1 == k with
    | some e => e.2.2.2
    | none => [])

/-- The output line of `m`, where one of this member's. -/
def ReduceRec.outLine (r : ReduceRec) (m : Nat) : Option Nat :=
  if r.outFirst ≤ m ∧ m < r.outFirst + r.outLines then some (m - r.outFirst) else none

/-- A combined record as a value to close: none where a pair is empty (R209). -/
def reduceVal (op : Nat) (w : WideRec) : Option Val := if op != rdSum && w.empty then none else some ⟨w.value, 1, w.index⟩

/-- A kept element of a closed tile at its exact value (R210). -/
def keptVal (h : TileHdr) (b : Bytes) (l j : Nat) : Option Val × Bool :=
  match (tileLineDense h b l).getD j (.num 0) with
  | .wide w => (if w.empty then none else some ⟨w.value, 1, w.index⟩, w.poison)
  | e => (some (elemVal (tileGroupExp h b l (j / 32)) e), false)

/-- The lines to be written: output line and its records. -/
abbrev ReduceLines := List (Nat × List WideRec)

/-- What stands where a pair is empty: 0, and in a record no winner (R209, R372). -/
def emptyElem (op fmt : Nat) : OutElem := if op = rdSum then noValue fmt else aggEmpty fmt 0

/-- One output tile: received lines, and with RR_MERGE the kept ones (R210). A tile whose TH_MASK_FIXED is set keeps its mask
(R253). -/
def reduceTile (op : Nat) (hop : Option Nat) (r : ReduceRec) (cw : CloseWord) (got : ReduceLines) (old : Option OpTile) (t k : Nat) :
    TileIn :=
  let nl := min 32 (r.outLines - 32 * t)
  let w := min 32 (r.elements - 32 * k)
  let cells := (List.range nl).flatMap fun l => (List.range w).map fun j => match got.find? fun g => g.1 == 32 * t + l with
    | some g => match g.2[32 * k + j]? with
      | some v => (reduceVal op v, v.poison)
      | none => (none, false)
    | none => match old with
      | some o => if o.bad then (none, true) else keptVal o.hdr o.bytes l j
      | none => (if op = rdSum then some ⟨0, 1, 0⟩ else none, false)
  let mask := match old with
    | some o => if o.hdr.maskFixed && o.code == 0 then some (o.hdr, o.bytes) else none
    | none => none
  ⟨t, k, nl, w, cells.map (·.1), emptyElem op cw.fmt, true, cells.any fun e => e.2, mask, hop⟩

/-- The winners of a line (R209, R391). -/
def reduceWinners (r : ReduceRec) (recs : List WideRec) : Bytes :=
  (List.range r.elements).flatMap fun j => natLe 8 (match recs[j]? with
    | some w => if w.empty then noVertex else w.index
    | none => noVertex)

/-- Write a new output array (RR_MERGE 0). -/
def State.reduceNew (s : State) (c op : Nat) (r : ReduceRec) (p : Plate) (got : ReduceLines) : State :=
  let cw := closeWordOf (bitsOf p.args 31 0)
  let kts := ceilDiv r.elements 32
  let ts := (List.range (ceilDiv r.outLines 32)).flatMap fun t => (List.range kts).map fun k => reduceTile op (s.lastHop c) r cw got none t k
  let wins := (List.range r.outLines).flatMap fun m => reduceWinners r (match got.find? fun g => g.1 == m with | some g => g.2 | none => [])
  let s1 := if r.winners = 0 then s else s.plateStore c r.winners wins
  s1.writeOutput c p.dst ⟨cw, 0, 0, kts⟩ ts

/-- The end of an array of `n` tiles: past its directory and every tile. -/
def arrayEnd (rd : Reader) (base n : Nat) : Nat :=
  (List.range n).foldl (fun m t =>
    let e := leNat (rd (base + 8 * t) 8).1
    max m (bitsOf e 39 0 + 64 * bitsOf e 63 40)) (dirLen n)

/-- Put one closed tile back into an array of `n` tiles: at its place while it is no longer than before, else behind the last
tile, so that no other tile changes (R210 gives no place for it: DESIGN CHOICE); its directory entry takes place and length. -/
def State.putTile (s : State) (c base n t : Nat) (b : Bytes) : State × Bool :=
  let e := leNat ((s.chaseRead c) (base + 8 * t) 8).1
  let off := if b.length ≤ 64 * bitsOf e 63 40 then bitsOf e 39 0 else pad64 (arrayEnd (s.chaseRead c) base n)
  let s1 := (s.plateStore c (base + 8 * t) (natLe 8 (off + b.length / 64 * 2 ^ 40))).writeTile c (base + off) b
  (s1, s1.backedRun c (base + off) b.length)

/-- Rewrite the tiles that receive a line (RR_MERGE 1). -/
def State.reduceMerge (s : State) (c op : Nat) (r : ReduceRec) (p : Plate) (got : ReduceLines) : State :=
  let cw := closeWordOf (bitsOf p.args 31 0)
  let kts := ceilDiv r.elements 32
  let lts := ceilDiv r.outLines 32
  let rd := s.chaseRead c
  let hit := (List.range lts).filter fun t => got.any fun g => g.1 / 32 == t
  let olds := hit.flatMap fun t => (List.range kts).map fun k =>
    let b := readTile rd p.dst (t * kts + k)
    let h := tileHdrOf b.1
    (t, k, (⟨h, b.1, tileCheck anyThFmt h b.1 ⟨t, k, 1, k + 1 == kts, t + 1 == lts, false, b.2.1⟩ false, b.2.2 || h.poisoned⟩ : OpTile))
  let ts := olds.map fun o => reduceTile op (s.lastHop c) r cw got (some o.2.2) o.1 o.2.1
  let s1 := (olds.foldl (fun s o => s.noteTile c p.dst (o.1 * kts + o.2.1)) s).metaFaults c (olds.map fun o => o.2.2)
  let s2 := got.foldl (fun s g => if r.winners = 0 then s
    else s.plateStore c (r.winners + 8 * (g.1 * r.elements)) (reduceWinners r g.2)) s1
  let cl := s2.closeAll c ⟨cw, 0, 0, kts⟩ ts
  let w := (ts.zip cl.2).foldl (fun (a : State × List (Int × Bool)) e =>
    let q := a.1.putTile c p.dst (lts * kts) (e.1.lineTile * kts + e.1.kTile) (padBytes64 e.2.bytes)
    (q.1, a.2 ++ [(e.2.exp, e.2.poisoned || !q.2)])) (cl.1, [])
  w.1.plateWorked c (arrayContrib kts ts w.2)

/-- The combined records close into this member's lines. -/
def State.reduceWrite (s : State) (c op : Nat) (r : ReduceRec) (p : Plate) (recs : List WideRec) : State :=
  let rd := s.chaseRead c
  let rows := pieces r.elements recs
  let got : ReduceLines := ((List.range r.lines).zip rows).filterMap fun e => (r.outLine (r.outIndex rd e.1)).map fun m => (m, e.2)
  if r.merge then s.reduceMerge c op r p got else s.reduceNew c op r p got

/-- The work of a REDUCE plate. In chase scope the member first sends its records; once those of every other member have
come it writes its lines. -/
def State.reducePlate (s : State) (c : Nat) : State :=
  let p := s.plate c
  let op := bitsOf p.args 33 32
  let rd := s.chaseRead c
  let raw := rd p.src 64
  let r := reduceRecOf raw.1
  let s0 := s.noteRead c p.src 64
  if raw.2 || !reduceRecOk r rd op p.count then s0.recordFault c
  else
    let ts := r.tiles rd
    let hops := (s.plateHops c).length
    let own := reduceOwn op hops r ts.1 ts.2
    let flags (s : State) (on : Bool) : State := if on then s.raiseFlags (s.dealPhys c 0) flagOvf c (s.chase c).plate.index else s
    let s1 := if r.lineMap = 0 then s0 else s0.noteRead c r.lineMap (5 * r.lines)
    let read (s : State) : State := flags ((s.noteArray c r.input ts.2.length).metaFaults c ts.2) (reduceLeaves op hops r ts.1 ts.2)
    if p.chaseScope then
      let s2 := if (s.chase c).redSent then s1 else (read s1).reduceSend c own
      let others := s2.others c
      if others.all fun i => (s2.reduceFrom c i).length == own.length then
        let all := others.foldl (fun a i => (a.zip (s2.reduceFrom c i)).map fun e => reduceJoin op e.1 e.2) own
        let leaves := op == rdSum && own.zipIdx.any fun e =>
          sumLeaves e.1.value (others.map fun i => (((s2.reduceFrom c i).map (·.value))[e.2]?).getD 0)
        let done (x : ChaseSt) : ChaseSt := { x with redIn := x.redIn.filter fun e => e.1 != x.plate.index }
        (flags (s2.updChase c done) leaves).reduceWrite c op r p all
      else s2
    else (read s1).reduceWrite c op r p own

/-- REDUCE: the REDUCE plate in hand does its work. -/
def execReduce (slot : Nat) (hw : List HwEvent) (s : State) : Ans :=
  .next (s.plateDo slot opReduce hw fun s => s.reducePlate slot)

end Sys2Proof.Machine
end

