-- ==== Sys2Proof/Machine/Lookup.lean ====
section
/-! DEFINITION. GATHER and the three plates of a sharded lookup, SPLIT, SERVE and COMBINE (R335 to R355): the gather record,
bags and the census, exact pooling, the output and the winner array, the queues. -/

namespace Sys2Proof.Machine

/-! ### The record and the bags (R336 to R338, R341) -/

/-- A gather record (R337). -/
structure GatherRec where
  offsets : Nat
  indices : Nat
  weights : Nat
  wexp : Nat
  winners : Nat
  total : Nat
  reservedZero : Bool
  deriving DecidableEq, Repr

def gatherRecOf (r : Bytes) : GatherRec :=
  ⟨u64At r 0, u64At r 8, u64At r 16, u64At r 24, u64At r 32, u32At r 40, allZero (slice r 44 20)⟩

/-- Whether a gather record keeps its table, for a plate that weighs or not and that uses the winner array or not. -/
def gatherRecOk (g : GatherRec) (wsum winners : Bool) : Bool :=
  let at1 (a : Nat) : Bool := a != 0 && recAddr a
  g.reservedZero && at1 g.offsets && (at1 g.indices || (g.total == 0 && recAddr g.indices)) &&
    (!wsum || (at1 g.weights && at1 g.wexp)) && (!winners || at1 g.winners)

/-- A bag after the census (R341): whether it is a bag fault, whether its lists lie in poisoned memory, the number of its
indices, those mapped to the blank slug (missing ones and others), its weight exponent, and its merged entries. -/
structure Bag where
  fault : Bool
  poison : Bool
  count : Nat
  missing : Nat
  invalid : Nat
  ew : Int
  ents : List (Nat × Int)
  deriving DecidableEq, Repr

/-- Add a coefficient to the entry of a slug; entries stand in rising order of their index. -/
def addCoef : List (Nat × Int) → Nat → Int → List (Nat × Int)
  | [], i, w => [(i, w)]
  | (j, v) :: t, i, w => if i < j then (i, w) :: (j, v) :: t else if i = j then (j, v + w) :: t else (j, v) :: addCoef t i w

/-- Bag `b` of a record: indices not below `limit` map to the blank slug (R313, R338). -/
def readBag (rd : Reader) (g : GatherRec) (wsum : Bool) (limit b : Nat) : Bag :=
  let o := rd (g.offsets + 4 * b) 8
  let lo := u32At o.1 0
  let hi := u32At o.1 4
  let we := if wsum then rd (g.wexp + b) 1 else ([], false)
  let ew : Int := if wsum then sextNat 8 (u8At we.1 0) else 0
  if hi < lo || decide (65536 < hi - lo) || decide (ew < -32) || decide (15 < ew) then ⟨true, true, 0, 0, 0, 0, []⟩
  else
    let n := hi - lo
    let ix := rd (g.indices + 5 * lo) (5 * n)
    let ws := if wsum then rd (g.weights + 2 * lo) (2 * n) else ([], false)
    let is := (List.range n).map fun k => fieldLe ix.1 (5 * k) 5
    let ents := is.zipIdx.foldl (fun l e =>
      addCoef l (if e.1 < limit then e.1 else blankIndex) (if wsum then sextNat 16 (u16At ws.1 (2 * e.2)) else 1)) []
    ⟨false, o.2 || we.2 || ix.2 || ws.2, n, (is.filter fun i => i == blankIndex).length,
      (is.filter fun i => decide (limit ≤ i) && i != blankIndex).length, ew, ents⟩

/-- The bags of a plate; none where the record breaks its table (R337). -/
def readBags (rd : Reader) (raw : Bytes × Bool) (wsum winners : Bool) (limit count : Nat) : Option (List Bag) :=
  let g := gatherRecOf raw.1
  if raw.2 || !gatherRecOk g wsum winners then none
  else if u32At (rd (g.offsets + 4 * count) 4).1 0 ≠ g.total then none
  else some ((List.range count).map (readBag rd g wsum limit))

/-- Note what a record's reading has read. -/
def State.noteBags (s : State) (c count : Nat) (g : GatherRec) (wsum : Bool) : State :=
  let s1 := (s.noteRead c g.offsets (4 * count + 4)).noteRead c g.indices (5 * g.total)
  if wsum then (s1.noteRead c g.weights (2 * g.total)).noteRead c g.wexp count else s1

/-! ### Pooling (R343 to R351) -/

/-- A bag entry with its decoded row: coefficient, index, exponent, elements, poison. -/
structure PoolEnt where
  coef : Int
  index : Nat
  slug : Slug
  elems : List Int
  ha : Option Nat
  deriving DecidableEq, Repr

/-- A row as a lookup finds it: the slug, and the HBM address of its slot; none for a copy on chip, and for a row that has no HBM
yet, which is zero. -/
structure RowAt where
  slug : Slug
  ha : Option Nat
  deriving DecidableEq, Repr

/-- The row that an index names in a state: the blank slug, a decoded copy of that state, a local row; none where another member
holds it (R302, R313, R427). -/
def State.rowAt (s : State) (c id : Nat) (g : GalleySt) (x : GalState) (i : Nat) : Option RowAt :=
  if i = blankIndex then some ⟨s.blankIn true c g x, s.galHa c x.map blankFrame 0⟩
  else match (s.chase c).slugCopies.find? fun e => e.galley == id && e.slug == i && e.state == x.num with
    | some e => some ⟨e.row, none⟩
    | none => (s.localRow c g i).map fun k => ⟨s.rowIn true c g x k, s.galHa c x.map (slotPlace g.r k).1 (slotPlace g.r k).2⟩

/-- A guest copy's row (R454). -/
def State.guestAt (s : State) (c id : Nat) (g : GalleySt) (x : GalState) (i : Nat) : Option RowAt :=
  ((s.chase c).guests.find? fun u => u.galley == id && u.slug == i && u.state == x.num).map fun u =>
    ⟨s.slugIn true c g.guestMap (rowPlace g.r u.pos), s.galHa c g.guestMap (slotPlace g.r u.pos).1 (slotPlace g.r u.pos).2⟩

/-- The lines of a row that a lookup reads from HBM count in the census. -/
def State.noteLookup (s : State) (c : Nat) (g : GalleySt) (x : GalState) (i : Nat) : State :=
  match s.localRow c g i with
  | some k => if i = blankIndex then s else s.noteRow true c g x k
  | none => s

/-- A bag entry's row decoded. -/
def poolEnt (g : GalleySt) (e : Nat × Int) (v : RowAt) : PoolEnt := ⟨e.2, e.1, v.slug, v.slug.elems g.ty g.n g.r, v.ha⟩

/-- The exact partial of element `j` over entries at hand: a sum without the weight exponent, or a maximum with its index. -/
def poolElem (mx : Bool) (es : List PoolEnt) (j : Nat) : WideRec :=
  es.foldl (fun a e =>
    let v := scaleUp (e.elems.getD j 0) e.slug.exp
    if mx then widePick true a ⟨v, e.slug.poison, false, e.index⟩ else wideAdd a ⟨e.coef * v, e.slug.poison, false, 0⟩)
    (if mx then wideEmpty else ⟨0, false, false, 0⟩)

/-! #### Gather units (R348 to R351) -/

/-- Entries of a segment. -/
def segmentMax : Nat := 4096

/-- An entry of a gather command: GC_SLOT, GC_COEF, GC_INDEX. -/
structure GatherEnt where
  slot : Nat
  coef : Int
  index : Nat
  deriving DecidableEq, Repr

/-- A gather command (R348): GC_OP (1 max), GC_TYPE, GC_ELEMENTS, GC_STATE, its entries, as many as GC_ENTRIES says. -/
structure GatherCmd where
  op : Nat
  ty : Nat
  elements : Nat
  state : Nat
  ents : List GatherEnt
  deriving DecidableEq, Repr

/-- RS_STATUS, and what a gather unit returns with it: POOLED with RS_EMIN, RS_WIDTH and for each element its sum, or its winner's
value with the entry number, ties to the lowest GC_INDEX (R213); UNPOOLED with the rows decoded; POISON (R349, R350). -/
inductive GatherRes where
  | pooled (emin : Int) (width : Nat) (vals : List (Int × Nat))
  | unpooled (rows : List (Int × List Int))
  | poison
  deriving DecidableEq, Repr

/-- The command of a segment: the sector address of each slot within its stack. -/
def gatherCmd (mx : Bool) (ty n state : Nat) (es : List PoolEnt) : GatherCmd :=
  ⟨natOfBool mx, ty, n, state % 256, es.map fun e => ⟨e.ha.getD 0 % 2 ^ 36 / 32, if mx then 1 else e.coef, e.index⟩⟩

/-- The exponents of the rows of a segment that are not in zero form. -/
def spanExps (rows : List Slug) : List Int := (rows.filter fun v => v.form != 3).map (·.exp)

/-- RS_EMIN: the smallest of them. A segment of rows in zero form has none; every value of it is 0 then. -/
def leastExp (xs : List Int) : Int := match xs with | [] => 0 | x :: t => t.foldl min x

/-- RS_WIDTH: the narrowest of 16, 32, 64 and 80 bits that holds every value. -/
def resultWidth (vs : List Int) : Nat := ([16, 32, 64].find? fun w => vs.all (fitsS w)).getD 80

/-- What a gather unit answers, given the rows at its slots (R349, R350). -/
def gatherUnit (cmd : GatherCmd) (rows : List (Slug × List Int)) : GatherRes :=
  let xs := spanExps (rows.map (·.1))
  let lo := leastExp xs
  if rows.any fun v => v.1.poison then .poison
  else if xs.any fun x => decide (24 < x - lo) then .unpooled (rows.map fun v => (v.1.exp, v.2))
  else
    let at_ (v : Slug × List Int) (j : Nat) : Int := if v.1.form = 3 then 0 else v.2.getD j 0 * ((2 ^ (v.1.exp - lo).toNat : Nat) : Int)
    let es := cmd.ents.zip rows
    let vals := (List.range cmd.elements).map fun j =>
      if cmd.op = 0 then ((es.map fun e => e.1.coef * at_ e.2 j).sum, 0)
      else (es.zipIdx.foldl (fun (m : Option (Int × Nat)) e => match m with
        | none => some (at_ e.1.2 j, e.2)
        | some w =>
          let v := at_ e.1.2 j
          let first := (cmd.ents.getD w.2 ⟨0, 0, 0⟩).index
          if w.1 < v ∨ (w.1 = v ∧ e.1.1.index < first) then some (v, e.2) else some w) none).getD (0, 0)
    .pooled lo (resultWidth (vals.map (·.1))) vals

/-- The segments of a bag (R348): for each stack the entries whose slots lie in it, in order, at most 4,096 a segment. -/
def bagSegments (es : List PoolEnt) : List (List PoolEnt) :=
  (List.range 12).flatMap fun k => pieces segmentMax (es.filter fun e => (e.ha.map haStack) == some k)

/-- The exact partial of element `j` of a segment as the cell takes it from what the unit returned (R351). -/
def segmentElem (mx : Bool) (cmd : GatherCmd) (r : GatherRes) (j : Nat) : WideRec :=
  match r with
  | .poison => ⟨0, true, false, 0⟩
  | .pooled lo _ vals =>
    let v := vals.getD j (0, 0)
    ⟨scaleUp v.1 lo, false, false, if mx then (cmd.ents.getD v.2 ⟨0, 0, 0⟩).index else 0⟩
  | .unpooled rows => (cmd.ents.zip rows).foldl (fun a e =>
      let v := scaleUp (e.2.2.getD j 0) e.2.1
      if mx then widePick true a ⟨v, false, false, e.1.index⟩ else wideAdd a ⟨e.1.coef * v, false, false, 0⟩)
      (if mx then wideEmpty else ⟨0, false, false, 0⟩)

/-- A bag pooled: its partials, and how many segments came back unpooled. -/
structure PoolRun where
  vals : List WideRec
  unpooled : Nat
  deriving DecidableEq, Repr

/-- Pool a bag: segments in the base dies, what is on chip in the cell (R343, R351). -/
def poolBag (mx : Bool) (ty n state : Nat) (es : List PoolEnt) : PoolRun :=
  let chip := es.filter fun e => e.ha.isNone
  let segs := (bagSegments es).map fun l =>
    let cmd := gatherCmd mx ty n state l
    (cmd, gatherUnit cmd (l.map fun e => (e.slug, e.elems)))
  let join (a b : WideRec) : WideRec := if mx then widePick true a b else wideAdd a b
  ⟨(List.range n).map fun j => segs.foldl (fun a g => join a (segmentElem mx g.1 g.2 j)) (poolElem mx chip j),
    (segs.filter fun g => match g.2 with | .unpooled _ => true | _ => false).length⟩

/-- Two partials of one bag added (R354). -/
def poolJoin (mx : Bool) (a b : List WideRec) : List WideRec :=
  a.zipIdx.map fun e => match b[e.2]? with
    | some v => if mx then widePick true e.1 v else wideAdd e.1 v
    | none => e.1

/-- GA_POOL. -/
def poolMean : Nat := 1
def poolWsum : Nat := 2
def poolMax : Nat := 3

/-- The value of an element of a bag (R343 to R345): `count` is c[b], `ew` the weight exponent. -/
def poolVal (pool count : Nat) (ew : Int) (r : WideRec) : Val :=
  if pool = poolMax then (if r.empty then ⟨0, 1, blankIndex⟩ else ⟨r.value, 1, r.index⟩)
  else if pool = poolMean then ⟨r.value, max 1 count, 0⟩
  else if ew < 0 then ⟨floorShift r.value (-ew).toNat, 1, 0⟩ else ⟨r.value * ((2 ^ ew.toNat : Nat) : Int), 1, 0⟩

/-- A bag as it closes: its values (none for a bag fault), whether it is poisoned, its blank count. -/
structure PooledBag where
  vals : Option (List Val)
  poison : Bool
  blanks : Nat
  deriving DecidableEq, Repr

/-- A bag whose partials are complete. -/
def pooledBag (pool : Nat) (b : HeldBag) : PooledBag :=
  if b.vals.isEmpty then ⟨none, true, b.blanks⟩
  else ⟨some (b.vals.map (poolVal pool b.count b.ew)), b.poison || b.vals.any (·.poison), b.blanks⟩

/-- The output tiles (R339): lines of bags, columns of 32 elements. -/
def gatherTiles (cw : CloseWord) (n : Nat) (bags : List PooledBag) : List TileIn :=
  ((pieces 32 bags).zipIdx).flatMap fun r => (List.range (ceilDiv n 32)).map fun k =>
    let w := min 32 (n - 32 * k)
    let vals := r.1.flatMap fun b => (List.range w).map fun j => match b.vals with
      | some vs => vs[32 * k + j]?
      | none => none
    ⟨r.2, k, r.1.length, w, vals, zeroElem cw.fmt, false, r.1.any (·.poison), none, none⟩

/-- The winner array (R340, R344, R338). -/
def winnerBytes (n : Nat) (bags : List PooledBag) : Bytes :=
  bags.flatMap fun b => (List.range n).flatMap fun j => natLe 8 (match b.vals with
    | some vs => match vs[j]? with
      | some v => v.index
      | none => blankIndex
    | none => blankIndex)

/-- The contribution of a lookup: per bag its blank count; a bag in a poisoned tile contributes poison (R347, R298). -/
def gatherContrib (bags : List PooledBag) (bad : Nat → Bool) : SummarySlot :=
  bags.zipIdx.foldl (fun a e => if bad (e.2 / 32) || e.1.vals.isNone then a.poisonElem e.2 else a.elem e.1.blanks e.2) SummarySlot.empty

/-- Close and write the pooled bags, the winners where they are wanted, and the contribution. -/
def State.writeBags (s : State) (c n : Nat) (p : Plate) (winners : Nat) (bags : List PooledBag) : State :=
  let cw := closeWordOf (bitsOf p.args 31 0)
  let kts := ceilDiv n 32
  let ts := gatherTiles cw n bags
  let r := s.closeAll c ⟨cw, 0, 0, kts⟩ ts
  let w := r.1.storeArray c p.dst (r.2.map (·.bytes))
  let bad := ((ts.zip (r.2.zip w.2)).filter fun e => e.2.1.poisoned || !e.2.2).map fun e => e.1.lineTile
  let s1 := if winners = 0 then w.1 else w.1.plateStore c winners (winnerBytes n bags)
  s1.plateWorked c (gatherContrib bags bad.contains)

/-! ### What a lookup counts -/

/-- Update the counters of a galley, which hold at all ones. -/
def State.countGal (s : State) (c id : Nat) (f : GalCnt → GalCnt) : State := s.updGalley c id fun g => { g with cnt := f g.cnt }

/-- A counter of `w` bits that holds at all ones. -/
def holdAdd (w a n : Nat) : Nat := satNat (a + n) (2 ^ w - 1)

/-- Count what the bags of a lookup held (R314, R338). -/
def State.countBags (s : State) (c id : Nat) (bags : List Bag) : State :=
  s.countGal c id fun k => { k with
    missing := holdAdd 32 k.missing (bags.map (·.missing)).sum
    invalid := holdAdd 32 k.invalid (bags.map (·.invalid)).sum
    bagFaults := holdAdd 32 k.bagFaults (bags.filter (·.fault)).length }

/-- Slugs of one stack whose rows the device holds for reuse (R342). -/
def reuseMax : Nat := 8192

/-- The further reads of R342 that may happen at most on one stack: each list holds the slots that a bag names there; the rows of the
most-named slugs stay. -/
def refetchBound (bags : List (List Nat)) : Nat :=
  let all := bags.flatten
  let extra := ((all.eraseDups.map fun i => (all.filter (· == i)).length - 1).filter (· != 0)).mergeSort fun a b => decide (b ≤ a)
  if extra.length ≤ reuseMax then 0 else (extra.drop reuseMax).sum

/-- How often slugs are read again: free within R342, for each stack. -/
def State.refetch (s : State) (c id : Nat) (bags : List (List PoolEnt)) : State :=
  (List.range 12).foldl (fun s k =>
    let n := refetchBound (bags.map fun l => (l.filterMap (·.ha)).filter fun a => haStack a == k)
    if n = 0 then s
    else
      let r := s.fresh
      r.2.countGal c id fun q => { q with refetch := holdAdd 32 q.refetch (r.1 % (n + 1)) }) s

/-- Count the segments that came back unpooled (R350). -/
def State.countUnpooled (s : State) (c id n : Nat) : State :=
  s.countGal c id fun k => { k with unpooled := holdAdd 32 k.unpooled n }

/-- The census counts of a lookup's entries (R430), each from the cell that pools its bag; their rows are read. -/
def State.countEntries (s : State) (c id : Nat) (bags : List Bag) : State :=
  bags.zipIdx.foldl (fun s b => b.1.ents.foldl (fun s e =>
    if e.1 = blankIndex then s else s.countSlug c id e.1 1 (s.dealPlace c b.2)) s) s

/-- Each distinct slug that bags name is read once. -/
def State.noteRows (s : State) (c : Nat) (g : GalleySt) (x : GalState) (bags : List (List PoolEnt)) : State :=
  ((bags.flatten.filter fun e => e.ha.isSome).map (·.index)).eraseDups.foldl (fun s i => s.noteLookup c g x i) s

/-! ### GATHER (role LOCAL) -/

/-- A bag with its pooled partials. -/
def heldBag (b : Bag) (r : PoolRun) : HeldBag :=
  ⟨if b.fault then [] else r.vals, b.count, b.missing + b.invalid, b.ew, b.poison⟩

/-- The work of a GATHER plate of role LOCAL. -/
def State.gatherPlate (s : State) (c : Nat) : State :=
  let p := s.plate c
  let pool := bitsOf p.args 34 32
  let win := bitOf p.args 37
  let rd := s.chaseRead c
  let raw := rd p.src 64
  let s0 := s.noteRead c p.src 64
  match s.galley c p.galley with
  | none => s0.recordFault c
  | some g => match g.serving, readBags rd raw (pool == poolWsum) win g.slugs p.count with
    | some x, some bags =>
      let rec1 := gatherRecOf raw.1
      let ents := bags.map fun b => b.ents.filterMap fun e => (s.rowAt c p.galley g x e.1).map (poolEnt g e)
      let runs := ents.map (poolBag (pool == poolMax) g.ty g.n x.num)
      let s1 := ((s0.noteBags c p.count rec1 (pool == poolWsum)).countBags c p.galley bags).countEntries c p.galley bags
      let s2 := ((s1.noteRows c g x ents).refetch c p.galley ents).countUnpooled c p.galley (runs.map (·.unpooled)).sum
      s2.writeBags c g.n p (if win then rec1.winners else 0) ((bags.zip runs).map fun e => pooledBag pool (heldBag e.1 e.2))
    | _, _ => s0.recordFault c

/-- GATHER: the GATHER plate in hand, of role LOCAL, does its work. -/
def execGather (slot : Nat) (hw : List HwEvent) (s : State) : Ans :=
  .next (if (s.plate slot).gaRole = 0 then s.plateDo slot opGather hw fun s => s.gatherPlate slot else s)

/-! ### SPLIT, SERVE and COMBINE (R352 to R355, R454) -/

/-- Request records that a member's outbound queue holds (R304, R371), and bytes of its outbound partial queue. -/
def reqOutMax : Nat := 1048576
def reqInMax : Nat := 4194304
def partOutMax : Nat := 67108864

/-- Queue request records: those that find no room are discarded, with the bags they served (R355). -/
def queueReqs (q : List LookupReq) (rs : List LookupReq) : List LookupReq × List LookupReq :=
  let room := reqOutMax - q.length
  (q ++ rs.take room, rs.drop room)

/-- The work of a SPLIT. -/
def State.splitPlate (s : State) (c : Nat) : State :=
  let p := s.plate c
  let pool := bitsOf p.args 34 32
  let win := bitOf p.args 37
  let rd := s.chaseRead c
  let raw := rd p.src 64
  let s0 := s.noteRead c p.src 64
  match s.galley c p.galley with
  | none => s0.recordFault c
  | some g => match g.serving, readBags rd raw (pool == poolWsum) win g.slugs p.count with
    | some x, some bags =>
      let rec1 := gatherRecOf raw.1
      let row (i : Nat) : Option RowAt := match s.rowAt c p.galley g x i with
        | some v => some v
        | none => s.guestAt c p.galley g x i
      let ents := bags.map fun b => b.ents.filterMap fun e => (row e.1).map (poolEnt g e)
      let reqs := bags.zipIdx.flatMap fun b => (b.1.ents.filter fun e => (row e.1).isNone).map fun e =>
        (⟨e.1, if pool = poolMax then 1 else e.2, b.2, s.ordinal c, x.num % 256⟩ : LookupReq)
      let q := queueReqs g.reqOut reqs
      let runs := ents.map (poolBag (pool == poolMax) g.ty g.n x.num)
      let held := ((bags.zip runs).zipIdx).map fun e =>
        let h := heldBag e.1.1 e.1.2
        { h with poison := h.poison || q.2.any fun r => r.bag == e.2 }
      let s1 := ((s0.noteBags c p.count rec1 (pool == poolWsum)).countBags c p.galley bags).countEntries c p.galley bags
      let s2 := ((s1.noteRows c g x ents).refetch c p.galley ents).countUnpooled c p.galley (runs.map (·.unpooled)).sum
      let now := (s.chase c).begunCount
      let s3 := s2.updGalley c p.galley fun g => { g with
        reqOut := q.1
        cnt := { g.cnt with queueDrops := holdAdd 16 g.cnt.queueDrops q.2.length }
        splits := (g.splits.filter fun h => decide (now ≤ h.begunAt + 2) && h.begunAt != now) ++
          [⟨now, pool, if win then rec1.winners else 0, held⟩] }
      s3.plateWorked c (gatherContrib (held.map (pooledBag pool)) fun _ => false)
    | _, _ => s0.recordFault c

/-- SPLIT: the GATHER plate in hand, of role SPLIT, does its work. -/
def execSplit (slot : Nat) (hw : List HwEvent) (s : State) : Ans :=
  .next (if (s.plate slot).gaRole = 1 then s.plateDo slot opGather hw fun s => s.splitPlate slot else s)

/-- The state that a request's tag names: serving or draining. -/
def GalleySt.tagged (g : GalleySt) (tag : Nat) : Option GalState :=
  g.states.find? fun x => decide (2 ≤ x.stage) && x.num % 256 == tag

/-- The entries of requests of one origin, bag and state. -/
def State.serveEnts (s : State) (c id : Nat) (g : GalleySt) (rs : List LookupReq) (tag : Nat) : List PoolEnt :=
  match g.tagged tag with
  | some x => rs.filterMap fun r => (s.rowAt c id g x r.slug).map (poolEnt g (r.slug, r.coef))
  | none => []

/-- The partial record of entries (R353); without any, the notice that the bag is lost. -/
def serveBag (mx : Bool) (g : GalleySt) (es : List PoolEnt) (origin bag tag : Nat) : LookupPartial × Nat :=
  if es.isEmpty then (⟨bag, origin, 0, []⟩, 0)
  else
    let r := poolBag mx g.ty g.n tag es
    (⟨bag, origin, leastExp (spanExps (es.map (·.slug))), r.vals⟩, r.unpooled)

/-- Queue partial records; a record that finds no room leaves the notice that its bag is lost (R355). -/
def queueParts (q : List LookupPartial) (rs : List LookupPartial) : List LookupPartial × Nat :=
  let bytes (r : LookupPartial) : Nat := if r.vals.isEmpty then 0 else Config.partialBytes (r.vals.map (·.value))
  let put (acc : List LookupPartial × Nat × Nat) (r : LookupPartial) : List LookupPartial × Nat × Nat :=
    if acc.2.1 + bytes r ≤ partOutMax then (acc.1 ++ [r], acc.2.1 + bytes r, acc.2.2)
    else (acc.1 ++ [⟨r.bag, r.origin, 0, []⟩], acc.2.1, acc.2.2 + 1)
  let z := rs.foldl put (q, (q.map bytes).sum, 0)
  (z.1, z.2.2)

/-- The work of a SERVE. -/
def State.servePlate (s : State) (c : Nat) : State :=
  let p := s.plate c
  let mx := bitsOf p.args 34 32 == poolMax
  match s.galley c p.galley with
  | none => s.plateWorked c SummarySlot.empty
  | some g =>
    let keys := (g.reqIn.map fun r => (r.origin, r.bag, r.state)).eraseDups
    let bagReqs (k : Nat × Nat × Nat) : List LookupReq := g.reqIn.filter fun r => (r.origin, r.bag, r.state) == k
    let ents := keys.map fun k => s.serveEnts c p.galley g (bagReqs k) k.2.2
    let parts := (keys.zip ents).map fun e => serveBag mx g e.2 e.1.1 e.1.2.1 e.1.2.2
    let q := queueParts g.partOut (parts.map (·.1))
    let s1 := g.reqIn.zipIdx.foldl (fun s r => s.countSlug c p.galley r.1.slug 1 (s.dealPlace c r.2)) s
    let of (tag : Nat) : List (List PoolEnt) := ((keys.zip ents).filter fun e => e.1.2.2 == tag).map (·.2)
    let s1 := (keys.map fun k => k.2.2).eraseDups.foldl (fun s tag => match g.tagged tag with
      | some x => s.noteRows c g x (of tag)
      | none => s) s1
    let s2 := (s1.refetch c p.galley ents).countUnpooled c p.galley (parts.map (·.2)).sum
    let s3 := s2.updGalley c p.galley fun g => { g with
      reqIn := [], partOut := q.1, cnt := { g.cnt with queueDrops := holdAdd 16 g.cnt.queueDrops q.2 } }
    s3.plateWorked c SummarySlot.empty

/-- SERVE: the GATHER plate in hand, of role SERVE, does its work. -/
def execServe (slot : Nat) (hw : List HwEvent) (s : State) : Ans :=
  .next (if (s.plate slot).gaRole = 2 then s.plateDo slot opGather hw fun s => s.servePlate slot else s)

/-- The SPLIT that a COMBINE completes: two begun strokes earlier (R354). -/
def splitOf (g : GalleySt) (now : Nat) : Option SplitHeld := g.splits.find? fun h => h.begunAt + 2 == now

/-- The work of a COMBINE. -/
def State.combinePlate (s : State) (c : Nat) : State :=
  let p := s.plate c
  let pool := bitsOf p.args 34 32
  let win := bitOf p.args 37
  match s.galley c p.galley with
  | none => s.recordFault c
  | some g => match splitOf g (s.chase c).begunCount with
    | none => s.recordFault c
    | some h =>
      if h.bags.length != p.count || (win && h.winners == 0) then s.recordFault c
      else
        let s1 := s.updGalley c p.galley fun g => { g with splits := g.splits.erase h }
        s1.writeBags c g.n p (if win then h.winners else 0) (h.bags.map (pooledBag pool))

/-- COMBINE: the GATHER plate in hand, of role COMBINE, does its work. -/
def execCombine (slot : Nat) (hw : List HwEvent) (s : State) : Ans :=
  .next (if (s.plate slot).gaRole = 3 then s.plateDo slot opGather hw fun s => s.combinePlate slot else s)

end Sys2Proof.Machine
end

