-- ==== Sys2Proof/Machine/Scatter.lean ====
section
/-! DEFINITION. SCATTER (R356 to R365) and the STATE plates PUBLISH, SWITCH and ABORT (R366 to R368). -/

namespace Sys2Proof.Machine

/-! ### The record and the gradient tiles (R357, R358) -/

/-- A scatter record (R357). -/
structure ScatterRec where
  bags : Nat
  grad : Nat
  array : Nat
  rows : Nat
  elements : Nat
  em : Int
  reservedZero : Bool
  deriving DecidableEq, Repr

def scatterRecOf (r : Bytes) : ScatterRec :=
  ⟨u64At r 0, u64At r 8, u64At r 16, u64At r 24, u16At r 32, sextNat 8 (u8At r 34), allZero (slice r 35 29)⟩

/-- Whether a scatter record keeps its table; `gal`: the target is a galley. -/
def scatterRecOk (r : ScatterRec) (gal : Bool) : Bool :=
  r.reservedZero && r.bags != 0 && recAddr r.bags && r.grad != 0 && recAddr r.grad &&
    (if gal then r.array == 0 && r.rows == 0 && r.elements == 0 && r.em == 0
     else r.array != 0 && recAddr r.array && r.rows != 0 && decide (1 ≤ r.elements ∧ r.elements ≤ 1024) &&
       decide (-64 ≤ r.em ∧ r.em ≤ 31))

/-- Whether an exponent of a tile lies outside -32 to +15. -/
def gradExpBad (h : TileHdr) (b : Bytes) : Bool :=
  let out (e : Int) : Bool := decide (e < -32) || decide (15 < e)
  if h.uniformExp then out h.exp
  else (List.range h.lines).any fun l => (List.range h.groups).any fun g => out (tileGroupExp h b l g)

/-- The gradient tile formats: s8, s16, s32. -/
def gradFmt (f : Nat) : Bool := f == 0 || f == 0x10 || f == 0x11

/-- The gradient tile array: its tiles in directory order and whether each is a gradient fault (R358). -/
def gradTiles (rd : Reader) (base count n : Nat) : List (OpTile × Bool) :=
  let groups := weightGroups rd base
  let lts := ceilDiv count 32
  let kts := ceilDiv (ceilDiv n 32) groups
  (List.range (lts * kts)).map fun t =>
    let r := readTile rd base t
    let h := tileHdrOf r.1
    let code := tileCheck anyThFmt h r.1 ⟨t / kts, t % kts, groups, t % kts + 1 == kts, t / kts + 1 == lts, false, r.2.1⟩ false
    let fault := code == 0 && (!gradFmt h.fmt || gradExpBad h r.1)
    (⟨h, r.1, code, r.2.2 || h.poisoned || fault⟩, fault)

/-- Element `j` of line `l` of an array: its value, its exponent and its poison. -/
def gradAt (ts : List (OpTile × Bool)) (groups kts b j : Nat) : Int × Int × Bool :=
  match ts[(b / 32) * kts + j / (32 * groups)]? with
  | none => (0, 0, true)
  | some t =>
    if t.1.bad || decide (t.1.hdr.lines ≤ b % 32) then (0, 0, true)
    else
      let x := j % (32 * groups)
      (elemNum ((tileLineDense t.1.hdr t.1.bytes (b % 32)).getD x (.num 0)), tileGroupExp t.1.hdr t.1.bytes (b % 32) (x / 32), false)

/-! ### Contributions (R359, R360) -/

/-- SA_MODE. -/
def saWsum : Nat := 1
def saArgmax : Nat := 2

/-- One gradient aimed at a row: the row's index, the element, its exact value on the 2^-64 scale, its poison. -/
structure Gradient where
  index : Nat
  elem : Nat
  value : Int
  poison : Bool
  deriving DecidableEq, Repr

/-- The gradients of a bag, and those aimed at nothing (R359): `grad j` is element `j` of the bag's gradient line and
`win j` its winner. -/
def bagGradients (mode n limit : Nat) (b : Bag) (grad : Nat → Int × Int × Bool) (win : Nat → Nat × Bool) : List Gradient × Nat :=
  if b.fault then ([], 0)
  else if mode = saArgmax then
    let all := (List.range n).map fun j =>
      let g := grad j
      let w := win j
      (⟨w.1, j, scaleUp g.1 g.2.1, g.2.2 || w.2 || b.poison⟩ : Gradient)
    (all.filter fun g => decide (g.index < limit), (all.filter fun g => decide (limit ≤ g.index)).length)
  else
    let ew := if mode = saWsum then b.ew else 0
    ((b.ents.filter fun e => decide (e.1 < limit)).flatMap fun e => (List.range n).map fun j =>
      let g := grad j
      ⟨e.1, j, scaleUp (g.1 * e.2) (g.2.1 + ew), g.2.2 || b.poison⟩, b.missing + b.invalid)

/-- A gradient rounded at em (R360): the exact value carried, and whether it was rounded. -/
def roundGradient (em : Int) (g : Gradient) : Int × Bool :=
  let v := scaleUp (rne g.value em) em
  (v, v != g.value)

/-! ### Applying totals (R361 to R365) -/

/-- A merged total: the row's index, the element, Q, its poison. -/
structure Total where
  index : Nat
  elem : Nat
  q : Int
  poison : Bool
  deriving DecidableEq, Repr

/-- The 64-bit atomic add of Q into the master of a local row: the slug becomes dirty, an add that wraps is counted (R362, R364). -/
def State.addTotal (s : State) (c id k j : Nat) (q : Int) : State :=
  match s.galley c id with
  | none => s
  | some g =>
    let v := s.masterAt c g k j + q
    (s.masterSet true c id k j v).updGalley c id fun g => { g with
      dirty := setIns g.dirty k, cnt := { g.cnt with masterWrap := holdAdd 16 g.cnt.masterWrap (natOfBool (!fitsS 64 v)) } }

/-- A delta record of a total. -/
def Total.delta (t : Total) (dest : Nat) : DeltaRec := ⟨patOf 64 t.q, t.index, t.elem, dest⟩

/-- Delta records that a member's outbound queue holds (R304, R371). -/
def deltaMax : Nat := 2097152

/-- Every other member. -/
def allOthers : Nat := 0xFFFF

/-- Delta records of a chase array that find no room in a queue are counted in the faulted tiles of D_WORK, and so stand in the proof:
the spec names no counter of their own (R46, R365; DESIGN CHOICE, log 148). -/
def State.noteArrayDrops (s : State) (c n : Nat) : State := s.updWork c fun w => { w with faulted := w.faulted + n }

/-- Apply a total to its galley on this member, or queue its delta record for the other holders; a record that finds no
room is discarded (R362, R365). The flag says that one was. -/
def State.applyTotal (s : State) (c id : Nat) (t : Total) : State × Bool :=
  match s.galley c id with
  | none => (s, false)
  | some g =>
    let own := s.localRow c g t.index
    let s1 := match own with
      | some k => (s.addTotal c id k t.elem t.q).bump Fld.rcAtomicCount (s.dealPhys c t.index) 1
      | none => s
    if s.members c = 1 ∨ (g.sharded ∧ own.isSome) then (s1, false)
    else if g.deltaOut.length < deltaMax then
      let dest := if g.sharded then slugOwner t.index (s.members c) else allOthers
      (s1.updGalley c id fun g => { g with deltaOut := g.deltaOut ++ [t.delta dest] }, false)
    else (s1.updGalley c id fun g => { g with cnt := { g.cnt with queueDrops := holdAdd 16 g.cnt.queueDrops 1 } }, true)

/-- The address of an element of a chase array. -/
def arrayAddr (base elements i j : Nat) : Nat := base + 8 * (i * elements + j)

/-- The atomic add of Q into a chase array; false where nothing backs the element: the add is not carried out, and the element reads
as poison (R46, R502). -/
def State.arrayAdd (s : State) (c base elements : Nat) (i j q : Nat) : State × Bool :=
  let a := arrayAddr base elements i j
  let s1 := (s.atomic c a 8 fun b => natLe 8 ((u64At b 0 + q) % 2 ^ 64)).1
  if (s.chaseLoc c a).isSome then (s1, true) else (s1.addHoles c a 8, false)

/-- Apply a total to a chase array, and queue its delta record for every other member. -/
def State.applyArray (s : State) (c base elements : Nat) (t : Total) : State × Bool :=
  let (s1, ok) := s.arrayAdd c base elements t.index t.elem (patOf 64 t.q)
  if s.members c = 1 then (s1, !ok)
  else
    let q := (kvGet (s1.chase c).arrayOut base).getD []
    if q.length < deltaMax then
      (s1.updChase c fun x => { x with arrayOut := kvPut x.arrayOut base (q ++ [t.delta allOthers]) }, !ok)
    else (s1.noteArrayDrops c 1, true)

/-- Apply the totals in their order; answer whether a record was dropped. -/
def State.applyTotals (s : State) (f : State → Total → State × Bool) (ts : List Total) : State × Bool :=
  ts.foldl (fun a t => let r := f a.1 t; (r.1, a.2 || r.2)) (s, false)

/-- The contribution of a SCATTER: one per merged key (R298); what it discarded shows as poison (R365). -/
def scatterContrib (rs : List HellRec) (dropped : Bool) : SummarySlot :=
  let a := rs.foldl (fun a r => if r.poison then a.poisonElem r.key else a.exact (Val.int r.value) r.key) SummarySlot.empty
  if dropped then a.add SummarySlot.fault else a

/-! ### The SCATTER plate -/

/-- Everything that a SCATTER reads: bags, gradient tiles and gradients. -/
structure ScatterJob where
  grads : List Gradient
  aimless : Nat
  tiles : List (OpTile × Bool)
  bags : List Bag
  deriving DecidableEq, Repr

/-- Read the bags, tiles and winners of a SCATTER. -/
def scatterJob (rd : Reader) (r : ScatterRec) (mode count n limit : Nat) (bags : List Bag) (winners : Nat) : ScatterJob :=
  let groups := weightGroups rd r.grad
  let ts := gradTiles rd r.grad count n
  let kts := ceilDiv (ceilDiv n 32) groups
  let win (b j : Nat) : Nat × Bool := let w := rd (winners + 8 * (b * n + j)) 8; (bitsOf (leNat w.1) 39 0, w.2)
  let gs := bags.zipIdx.map fun b => bagGradients mode n limit b.1 (gradAt ts groups kts b.2) (win b.2)
  ⟨gs.flatMap (·.1), (gs.map (·.2)).sum, ts, bags⟩

/-- A chase array or a galley takes the gradients: `n` elements a row at exponent `em`; `f` applies a total, `cnt` counts. -/
def State.scatterRun (s : State) (c : Nat) (job : ScatterJob) (em : Int) (arrival : List Nat)
    (f : State → Total → State × Bool) (cnt : (GalCnt → GalCnt) → State → State) : State :=
  let idx := job.grads.foldl (fun l g => setIns l g.index) []
  let rounded := job.grads.map fun g => (g, roundGradient em g)
  let xs := rounded.map fun e => (⟨idx.idxOf e.1.index * 1024 + e.1.elem, e.2.1, e.1.poison⟩ : Contribution)
  let s1 := cnt (fun k => { k with
    blankGrads := holdAdd 32 k.blankGrads job.aimless
    rounded := holdAdd 32 k.rounded (rounded.filter fun e => e.2.2).length
    bagFaults := holdAdd 32 k.bagFaults (job.bags.filter (·.fault)).length
    gradFaults := holdAdd 32 k.gradFaults (job.tiles.filter (·.2)).length }) s
  let s2 := s1.metaFaults c (job.tiles.map (·.1))
  let m := (s2.stippleTake c (inOrder arrival xs)).stippleMerge c
  let totals := m.2.map fun r => (⟨idx.getD (r.key / 1024) 0, r.key % 1024, rne r.value em, r.poison⟩ : Total)
  let s3 := cnt (fun k => { k with poisonDrops := holdAdd 16 k.poisonDrops (totals.filter (·.poison)).length }) m.1
  let a := s3.applyTotals f (totals.filter fun t => !t.poison)
  a.1.plateWorked c (scatterContrib m.2 a.2)

/-- The work of a SCATTER plate. -/
def State.scatterPlate (s : State) (c : Nat) (arrival : List Nat) : State :=
  let p := s.plate c
  let mode := bitsOf p.args 1 0
  let gal := p.galley != none32
  let rd := s.chaseRead c
  let raw := rd p.src 64
  let r := scatterRecOf raw.1
  let s0 := s.noteRead c p.src 64
  let g := s.galley c p.galley
  if raw.2 || !scatterRecOk r gal || (gal && g.isNone) then s0.recordFault c
  else
    let n := match g with | some g => if gal then g.n else r.elements | none => r.elements
    let limit := match g with | some g => if gal then g.slugs else r.rows | none => r.rows
    let em := match g with | some g => if gal then g.em else r.em | none => r.em
    let braw := rd r.bags 64
    let s0 := if gal then s0 else s0.updChase c fun x => { x with arrayElems := kvPut x.arrayElems r.array r.elements }
    match readBags rd braw (mode == saWsum) (mode == saArgmax) limit p.count with
    | none => s0.recordFault c
    | some bags =>
      let grec := gatherRecOf braw.1
      let job := scatterJob rd r mode p.count n limit bags grec.winners
      let s1 := ((s0.noteRead c r.bags 64).noteBags c p.count grec (mode == saWsum)).noteArray c r.grad job.tiles.length
      if gal then
        let s2 := s1.updGalley c p.galley fun g => { g with scatterAt := some (s1.chase c).begunCount }
        s2.scatterRun c job em arrival
          (fun s t => s.applyTotal c p.galley t) fun f s => s.countGal c p.galley f
      else s1.scatterRun c job em arrival (fun s t => s.applyArray c r.array r.elements t) fun _ s => s

/-- SCATTER: the SCATTER plate in hand does its work; `arrival` is the order in which its contributions reach the stipple
buffers. -/
def execScatter (slot : Nat) (hw : List HwEvent) (arrival : List Nat) (s : State) : Ans :=
  .next (s.plateDo slot opScatter hw fun s => s.scatterPlate slot arrival)

/-! ### STATE plates (R366 to R368) -/

/-- The element range of a galley type. -/
def typeMin (ty : Nat) : Int := match ty with | 0 => -128 | 2 => -8 | _ => 0
def typeMax (ty : Nat) : Int := match ty with | 0 => 127 | 1 => 255 | 2 => 7 | _ => 15

/-- need() over a galley's element type, from exponent `e` on. -/
def needType (ty : Nat) (v : Int) : Nat → Int → Int
  | 0, e => e
  | f + 1, e => if typeMin ty ≤ rne v e ∧ rne v e ≤ typeMax ty then e else needType ty v f (e + 1)

/-- A published row (R367): the slug, and whether it was clamped; a poisoned master row is stored raw, so that its slot holds sectors
to poison. -/
def publishSlug (g : GalleySt) (row : List Int) (poison : Bool) : Slug × Bool :=
  let ty := g.ty
  let vs := row.map fun m => scaleUp m g.em
  let neg := decide (ty % 2 = 1) && vs.any fun v => decide (v < 0)
  let ws := vs.map fun v => if ty % 2 = 1 ∧ v < 0 then 0 else v
  let e := ws.foldl (fun a v => max a (needType ty v 256 (-32))) (-32)
  let x := min e 31
  let bs := rowBytes ty (ws.map fun v => clampInt (rne v x) (typeMin ty) (typeMax ty))
  (if poison then ⟨x, 0, bs, true⟩ else encodeSlug ty g.n bs x false, neg || decide (31 < e))

/-- Publish the rows of a list until no frame is left (R319, R367); the flag says that every row was written. -/
def State.publishRows (s : State) (c id : Nat) : List Nat → State × Bool
  | [] => (s, true)
  | k :: ks =>
    match s.galley c id with
    | none => (s, true)
    | some g =>
      let m := s.masterRow c g k
      let v := publishSlug g m.1 m.2
      match (s.noteMaster c g k).putRow c id k v.1 with
      | (s1, false) => (s1, false)
      | (s1, true) =>
        (s1.updGalley c id fun g => { g with
          dirty := setDel g.dirty k
          cnt := { g.cnt with publishSat := holdAdd 16 g.cnt.publishSat (natOfBool v.2) } }).publishRows c id ks

/-- The work of a PUBLISH (R367, R368). -/
def State.publishPlate (s : State) (c : Nat) : State :=
  let id := (s.plate c).galley
  match s.galley c id with
  | none => s.recordFault c
  | some g =>
    let sealed := match g.incoming with | some x => x.stage == 1 | none => false
    if sealed || g.scatterAt == some (s.chase c).begunCount then s.recordFault c
    else
      let r := (s.setGalley c id (g.withIncoming false)).publishRows c id g.dirty
      (r.1.updGalley c id fun g => { g with published := if r.2 then lsOk else lsNoSpace }).plateWorked c
        (if r.2 then SummarySlot.empty else SummarySlot.fault)

/-- SO_OP of a STATE plate. -/
def Plate.stateOp (p : Plate) : Nat := bitsOf p.args 2 0

/-- PUBLISH: the STATE plate in hand with SO_OP 1. -/
def execPublish (slot : Nat) (hw : List HwEvent) (s : State) : Ans :=
  .next (if (s.plate slot).stateOp = 1 then s.plateDo slot opState hw fun s => s.publishPlate slot else s)

/-- SWITCH: the STATE plate in hand with SO_OP 2; without an incoming state it has no effect (R328). -/
def execSwitch (slot : Nat) (hw : List HwEvent) (s : State) : Ans :=
  .next (if (s.plate slot).stateOp = 2 then s.plateDo slot opState hw fun s =>
    let id := (s.plate slot).galley
    let on := match s.galley slot id with | some g => g.incoming.isSome | none => false
    (if on then s.requestSwitch slot id else s).plateWorked slot SummarySlot.empty
  else s)

/-- STATE_ABORT: the STATE plate in hand with SO_OP 3; a switch that the root has named stands (R331). -/
def execStateAbort (slot : Nat) (hw : List HwEvent) (s : State) : Ans :=
  .next (if (s.plate slot).stateOp = 3 then s.plateDo slot opState hw fun s =>
    let id := (s.plate slot).galley
    let on := match s.galley slot id with | some g => g.named.isNone | none => false
    (if on then s.abortGalley slot id else s).plateWorked slot SummarySlot.empty
  else s)

end Sys2Proof.Machine
end

