-- ==== Sys2Proof/Machine/Exchange.lean ====
section
/-! DEFINITION. The EXCHANGE plate (R596 to R599) and what the APPEND messages of other members do on receipt: request and
partial records (R352 to R355), delta records (R362, R363), REDUCE records (R205). -/

namespace Sys2Proof.Machine

/-! ### Queue records as bytes -/

/-- Queue kinds (R588); 4 and 5 are the model's own, for the records of a REDUCE and for guest rows (R453). -/
def qkRequest : Nat := 0
def qkPartial : Nat := 1
def qkGalDelta : Nat := 2
def qkArrDelta : Nat := 3
def qkReduce : Nat := 4
def qkGuest : Nat := 5

/-- A request record (R353). -/
def LookupReq.bytes (r : LookupReq) : Bytes :=
  natLe 5 r.slug ++ natLe 4 (patOf 32 r.coef) ++ natLe 4 r.bag ++ natLe 2 r.origin ++ natLe 1 r.state

def lookupReqOf (b : Bytes) : LookupReq :=
  ⟨fieldLe b 0 5, sextNat 32 (fieldLe b 5 4), fieldLe b 9 4, fieldLe b 13 2 % 32768, fieldLe b 15 1⟩

/-- RS_WIDTH of a partial record: the narrowest width of R349 that holds every value at RS_EMIN, else the accumulator's 192 bits. -/
def LookupPartial.width (r : LookupPartial) : Nat :=
  ([16, 32, 64, 80].find? fun w => r.vals.all fun v => fitsS w (floorShift v.value (r.emin + 64).toNat)).getD 192

/-- A partial record (R353) in the model's layout: bag, element count, RS_EMIN, RS_WIDTH in bytes, poison and MAX flags, 7 zero
bytes; then the values at RS_EMIN, and the winners where one is not slug 0 (none is under SUM). -/
def LookupPartial.bytes (r : LookupPartial) : Bytes :=
  let w := r.width / 8
  let mx := r.vals.any fun v => v.index != 0
  natLe 4 r.bag ++ natLe 2 r.vals.length ++ natLe 1 (patOf 8 r.emin) ++ natLe 1 w ++
    natLe 1 (natOfBool (r.vals.any (·.poison)) + 2 * natOfBool mx) ++ List.replicate 7 0 ++
    (r.vals.flatMap fun v => natLe w (patOf (8 * w) (floorShift v.value (r.emin + 64).toNat))) ++
    (if mx then r.vals.flatMap fun v => natLe 5 v.index else [])

/-- Whether the reserved bit of every request record of a message is clear (R353). -/
def lookupReqsOk (data : Bytes) : Bool := (pieces 16 data).all fun b => decide (fieldLe b 13 2 < 32768)

/-- Partial records of a message to the member with an ordinal. -/
def partialsOf (origin : Nat) : Nat → Bytes → List LookupPartial
  | 0, _ => []
  | f + 1, b =>
    if b.isEmpty then []
    else
      let n := u16At b 4
      let emin := sextNat 8 (u8At b 6)
      let w := u8At b 7
      let bad := bitOf (u8At b 8) 0
      let mx := bitOf (u8At b 8) 1
      let vals := (List.range n).map fun j =>
        (⟨scaleUp (sextNat (8 * w) (fieldLe b (16 + w * j) w)) emin, bad, false, if mx then fieldLe b (16 + w * n + 5 * j) 5 else 0⟩ : WideRec)
      ⟨u32At b 0, origin, emin, vals⟩ :: partialsOf origin f (b.drop (16 + w * n + (if mx then 5 * n else 0)))

/-- A guest row as it travels (R453), in the model's layout: slug, state, tag, 5 zero bytes, the slot. -/
def guestBytes (r slug state : Nat) (v : Slug) : Bytes :=
  natLe 5 slug ++ natLe 4 state ++ natLe 2 v.tag ++ List.replicate 5 0 ++ v.slot r

/-- A guest row of a galley read from its bytes. -/
def guestOf (galley : Nat) (b : Bytes) : GuestCopy :=
  let tag := u16At b 9
  ⟨galley, fieldLe b 0 5, fieldLe b 5 4, slugOf tag (slice b 16 (32 * tagSectors tag)) false⟩

/-- A delta record (R362). -/
def DeltaRec.bytes (d : DeltaRec) : Bytes := natLe 8 d.q ++ natLe 5 d.index ++ natLe 2 d.elem ++ [0]

def deltaRecOf (b : Bytes) : DeltaRec := ⟨u64At b 0, fieldLe b 8 5, fieldLe b 13 2 % 1024, 0⟩

/-- Whether the reserved bits of every delta record of a message are clear (R362). -/
def deltaRecsOk (data : Bytes) : Bool := (pieces 16 data).all fun b => decide (fieldLe b 13 2 < 1024) && u8At b 15 == 0

/-! ### Sending -/

/-- Send records in APPEND messages of whole records to a member (R598). -/
def State.sendRecords (s : State) (c i kind target : Nat) (recs : List Bytes) : State :=
  let size := recs.foldl (fun n b => max n b.length) 16
  (pieces (msgMax / size) recs).foldl (fun s p =>
    s.sendMsg ⟨ptNode (s.forme c) i, 0, 0x11, ptTag (s.forme c), kind * 2 ^ 44 + target, p.flatten, 0, c, true⟩) s

/-- An exchange list entry (R597). -/
structure XlEnt where
  member : Nat
  src : Nat
  dst : Nat
  len : Nat
  ok : Bool
  deriving DecidableEq, Repr

def xlEntOf (b : Bytes) : XlEnt :=
  let a := u16At b 0
  let src := u64At b 8
  let dst := u64At b 16
  ⟨a, src, dst, u32At b 24, allZero (slice b 2 6) && u32At b 28 == 0 && u32At b 24 != 0 && recAddr src && recAddr dst⟩

/-- The members that an entry names. -/
def State.xlMembers (s : State) (c : Nat) (e : XlEnt) : List Nat := if e.member = allOthers then s.others c else [e.member]

/-- Send one entry as WRITE messages (R598). -/
def State.sendEntry (s : State) (c : Nat) (e : XlEnt) : State :=
  let bs := (s.chaseRead c e.src e.len).1
  let s1 := s.noteRead c e.src e.len
  (s.xlMembers c e).foldl (fun s i => (pieces msgMax bs).zipIdx.foldl (fun s p =>
    s.sendMsg ⟨ptNode (s.forme c) i, 0, 0x10, ptTag (s.forme c), e.dst + msgMax * p.2, p.1, 0, c, true⟩) s) s1

/-- Send the rows that other members want as guest copies (R453): rows of the serving state that this member owns, each charged to
its budget (R440); `asks` lists who wants which slug. Answer also the members to which a row went. -/
def State.sendGuests (s : State) (c id : Nat) (asks : List (Nat × Nat)) : State × List Nat :=
  match s.galley c id with
  | none => (s, [])
  | some g => match g.serving with
    | none => (s, [])
    | some x =>
      if !guestsAllowed g.decl || (s.chase c).frozen then (s, [])
      else asks.foldl (fun a e => match a.1.localRow c g e.2 with
        | none => a
        | some k =>
          let v := a.1.rowIn false c g x k
          if !(a.1.others c).contains e.1 || v.poison then a
          else match a.1.charge c (slotBytes g.r) with
            | (s1, true) => ((s1.noteRow false c g x k).sendRecords c e.1 qkGuest id [guestBytes g.r e.2 x.num v], setIns a.2 e.1)
            | (_, false) => a) (s, [])

/-- Send the queues of a galley and empty them. -/
def State.drainGalley (s : State) (c id : Nat) : State :=
  match s.galley c id with
  | none => s
  | some g =>
    let d := s.members c
    let reqs (i : Nat) : List Bytes := (g.reqOut.filter fun r => slugOwner r.slug d == i).map LookupReq.bytes
    let parts (i : Nat) : List Bytes := (g.partOut.filter fun r => r.origin == i).map LookupPartial.bytes
    let deltas (i : Nat) : List Bytes := (g.deltaOut.filter fun r => r.dest == i || r.dest == allOthers).map DeltaRec.bytes
    let s1 := (s.others c).foldl (fun s i =>
      ((s.sendRecords c i qkRequest id (reqs i)).sendRecords c i qkPartial id (parts i)).sendRecords c i qkGalDelta id (deltas i)) s
    s1.setGalley c id { g with reqOut := [], partOut := [], deltaOut := [] }

/-- Send the delta queue of a chase array and empty it. -/
def State.drainArray (s : State) (c base : Nat) : State :=
  let q := (kvGet (s.chase c).arrayOut base).getD []
  let s1 := (s.others c).foldl (fun s i => s.sendRecords c i qkArrDelta base (q.map DeltaRec.bytes)) s
  s1.updChase c fun x => { x with arrayOut := kvDel x.arrayOut base }

/-! ### Taking records in -/

/-- The atomic add of a received delta into a galley's master (R363, R364). -/
def State.takeGalDelta (s : State) (c id : Nat) (d : DeltaRec) : State :=
  match s.galley c id with
  | none => s
  | some g => match s.localRow c g d.index with
    | some k => (s.addTotal c id k d.elem (sextNat 64 d.q)).bump Fld.rcAtomicCount (s.dealPhys c d.index) 1
    | none => s

/-- SR_ELEMENTS of a chase array: as a SCATTER of this member gave it, else as the scatter record of a SCATTER plate of the forme that
names the array gives it. -/
def State.elementsOf (s : State) (c base : Nat) : Option Nat :=
  match kvGet (s.chase c).arrayElems base with
  | some n => some n
  | none => (plates (s.forme c)).findSome? fun p =>
      let r := scatterRecOf ((s.chaseRead c) p.src 64).1
      if p.op == opScatter && p.galley == none32 && r.array == base && scatterRecOk r false then some r.elements else none

/-- Apply a delta message (R363). -/
def State.applyDeltas (s : State) (c kind target : Nat) (ds : List DeltaRec) : State :=
  if kind = qkGalDelta then ds.foldl (fun s d => s.takeGalDelta c target d) s
  else match s.elementsOf c target with
    | some n => ds.foldl (fun s d => (s.arrayAdd c target n d.index d.elem d.q).1) s
    | none => s

/-- Apply and acknowledge the delta messages that waited for a plate naming their target (R598). -/
def State.applyWaiting (s : State) (c kind target : Nat) : State :=
  let mine := (s.chase c).deltaIn.filter fun e => e.1 == kind && e.2.1 == target
  let s1 := s.updChase c fun x => { x with deltaIn := x.deltaIn.filter fun e => !(e.1 == kind && e.2.1 == target) }
  mine.foldl (fun s e => ((s.applyDeltas c kind target e.2.2.2.2).markDone e.2.2.1 e.2.2.2.1).sendAck e.2.2.1 (ptTag (s.forme c))
    e.2.2.2.1 ackOk) s1

/-- The bags of a held SPLIT changed; `f` takes its GA_POOL and the bag's number. -/
def State.updSplit (s : State) (c id at_ : Nat) (f : Nat → Nat → HeldBag → HeldBag) : State :=
  s.updGalley c id fun g => { g with splits := g.splits.map fun h =>
    if h.begunAt = at_ then { h with bags := h.bags.zipIdx.map fun e => f h.pool e.2 e.1 } else h }

/-- A partial record that has come back joins the partials of its bag; a notice of loss poisons the bag (R354, R355). -/
def State.takePartial (s : State) (c id : Nat) (r : LookupPartial) : State :=
  s.updSplit c id ((s.chase c).begunCount - 1) fun pool b h =>
    if b != r.bag then h else if r.vals.isEmpty then { h with poison := true }
    else { h with vals := poolJoin (pool == poolMax) h.vals r.vals }

/-- Bags whose request records were discarded at the owner are poisoned (R355, R592). -/
def State.requestsLost (s : State) (c id : Nat) (data : Bytes) : State :=
  let bags := (pieces 16 data).map fun b => (lookupReqOf b).bag
  s.updSplit c id (s.chase c).begunCount fun _ b h => if bags.contains b then { h with poison := true } else h

/-- What becomes of a complete APPEND message: the status to acknowledge with, none while a delta waits (R589, R592, R598). -/
def State.takeAppend (s : State) (c kind target src msg : Nat) (data : Bytes) : State × Option Nat :=
  let x := s.chase c
  let g := s.galley c target
  let count (n : Nat) (s : State) : State :=
    if kind = qkArrDelta then s.noteArrayDrops c n else s.countGal c target fun k => { k with queueDrops := holdAdd 16 k.queueDrops n }
  if kind = qkReduce then
    let from_ := (ptOrdinal (s.forme c) src).getD 0
    (s.updChase c fun x => { x with redIn := x.redIn ++ [(target % 2 ^ 16, from_, target / 2 ^ 16, data)] }, some ackOk)
  else if kind = qkGuest then
    match g with
    | some g => (s.updChase c fun x => { x with guestIn := x.guestIn ++ (pieces (16 + slotBytes g.r) data).map (guestOf target) }, some ackOk)
    | none => (s, some ackMalformed)
  else if (g.isNone && kind != qkArrDelta) || decide (4 < kind) || (kind != qkPartial && data.length % 16 != 0) ||
      (kind == qkRequest && !lookupReqsOk data) || ((kind == qkGalDelta || kind == qkArrDelta) && !deltaRecsOk data) then
    (s, some ackMalformed)
  else if kind = qkRequest then
    let rs := (pieces 16 data).map lookupReqOf
    let held := match g with | some g => g.reqIn.length | none => 0
    if held + rs.length ≤ reqInMax then (s.updGalley c target fun g => { g with reqIn := g.reqIn ++ rs }, some ackOk)
    else (count rs.length s, some ackFull)
  else if kind = qkPartial then
    ((partialsOf (s.ordinal c) data.length data).foldl (fun s r => s.takePartial c target r) s, some ackOk)
  else
    let ds := (pieces 16 data).map deltaRecOf
    let begun := x.exchBegun.contains (kind, target)
    let waiting := ((x.deltaIn.filter fun e => e.1 == kind && e.2.1 == target).map fun e => e.2.2.2.2.length).sum
    if begun then (s.applyDeltas c kind target ds, some ackOk)
    else if waiting + ds.length ≤ deltaMax then
      (s.updChase c fun x => { x with deltaIn := x.deltaIn ++ [(kind, target, src, msg, ds)] }, none)
    else ((count ds.length s).updChase c fun x => { x with deltaLost := x.deltaLost ++ [(kind, target)] }, some ackFull)

/-! ### The EXCHANGE plate -/

/-- The contribution of this member to the combined summary: the named slot (R151). -/
def State.exchangeSummary (s : State) (c : Nat) (fault : Bool) : State :=
  let p := s.plate c
  if !p.sumEn then s
  else
    let v := s.slotAt c p.slot
    s.giveSummary c p.slot (if fault then v.add SummarySlot.fault else v)

/-- Whether the queues that an EXCHANGE plate names hold data for a member (R540, R598). -/
def State.queuesHold (s : State) (c : Nat) (p : Plate) (i : Nat) : Bool :=
  (match (if p.galley = none32 then none else s.galley c p.galley) with
    | none => false
    | some g => g.reqOut.any (fun r => slugOwner r.slug (s.members c) == i) || g.partOut.any (fun r => r.origin == i) ||
        g.deltaOut.any (fun r => r.dest == i || r.dest == allOthers)) ||
  (p.dst != 0 && ((kvGet (s.chase c).arrayOut p.dst).getD []).length != 0)

/-- The delta messages that waited for the plate in hand are applied as it begins (R598); those lost before it show in the combined
summary, and so does a record fault of its list (R233, R365, R597). -/
def State.exchangeTake (s : State) (c : Nat) (fault : Bool) : State :=
  let p := s.plate c
  let s1 := (s.applyWaiting c qkGalDelta p.galley).applyWaiting c qkArrDelta p.dst
  let mine (e : Nat × Nat) : Bool := e == (qkGalDelta, p.galley) || e == (qkArrDelta, p.dst)
  let lost := (s1.chase c).deltaLost.any mine
  let s2 := s1.updChase c fun x => { x with deltaLost := x.deltaLost.filter (!mine ·) }
  s2.exchangeSummary c (lost || fault)

/-- The work of an EXCHANGE plate. -/
def State.exchangePlate (s : State) (c : Nat) (asks : List (Nat × Nat)) : State :=
  let p := s.plate c
  let raw := (s.chaseRead c) p.src (32 * p.count)
  let es := (pieces 32 raw.1).map xlEntOf
  let bad (e : XlEnt) : Bool := !e.ok || (e.member != allOthers && (e.member == s.ordinal c || decide (s.members c ≤ e.member)))
  if p.src != 0 && (raw.2 || es.any bad) then (s.exchangeTake c true).recordFault c
  else
    let list := if p.src = 0 then [] else es
    let s1 := list.foldl (fun s e => s.sendEntry c e) (if p.src = 0 then s else s.noteRead c p.src (32 * p.count))
    let s2 := if p.galley = none32 then s1 else s1.drainGalley c p.galley
    let g := if p.galley = none32 then (s2, []) else s2.sendGuests c p.galley asks
    let s4 := if p.dst = 0 then g.1 else g.1.drainArray c p.dst
    let to_ := (s.others c).filter fun i => s.queuesHold c p i || g.2.contains i || list.any fun e => (s.xlMembers c e).contains i
    let s5 := s4.updChase c fun x => { x with plate := { x.plate with sentTo := to_ } }
    (s5.exchangeTake c false).plateWorked c SummarySlot.empty

/-- EXCHANGE: the EXCHANGE plate in hand sends what it has to send and takes in what waited for it. -/
def execExchange (slot : Nat) (inp : ExchangeIn) (s : State) : Ans :=
  .next (s.plateDo slot opExchange inp.hw fun s => s.exchangePlate slot inp.asks)

end Sys2Proof.Machine
end

