-- ==== Sys2Proof/Machine/Data.lean ====
section
/-! DEFINITION. The tickets that move chase data and act on marks: DATA_WRITE with the store compressor (R244 to R248, R679,
R881), DATA_READ, IMP_HINT (R444, R445), MARK_OP and MARK_WAIT (R680). -/

namespace Sys2Proof.Machine

/-! ### Storing tiles from outside (R679) -/

/-- The number of tiles of an array given as bytes: entries with a length, before the first tile. -/
def arrayTiles (b : Bytes) : Nat :=
  let d := bitsOf (u64At b 0) 39 0
  ((List.range (min d b.length / 8)).takeWhile fun t => bitsOf (u64At b (8 * t)) 63 40 != 0).length

/-- A tile of a source array, its extent bounded, and whether it is a well-formed dense tile. -/
def sourceTile (b : Bytes) : TileHdr × Bool :=
  let h := tileHdrOf b
  let h1 := { h with lines := min 32 (max 1 h.lines), groups := min 8 (max 1 h.groups), valid := min h.valid (32 * min 8 (max 1 h.groups)) }
  (h1, h.form == 0 && checkHeader h && anyThFmt h.fmt && checkLength h b (h.totalLen / 64))

/-- The exponent block put back into a stored tile (R224, R225). -/
def withExponents (h : TileHdr) (src stored : Bytes) : Bytes :=
  if h.uniformExp then stored
  else patch (slice stored 0 64) 3 (natLe 1 (u8At stored 3 - 2)) ++ padBytes64 (slice src 64 (h.lines * h.groups)) ++ stored.drop 64

/-- Store one source tile through the compressor: its bytes, and whether R245 made it dense. -/
def storeSource (form nm : Nat) (b : Bytes) (poison : Bool) : Bytes × Bool :=
  let r := sourceTile b
  let h := r.1
  let t : TileOut := ⟨h.fmt, (List.range h.lines).map fun l => (tileLineDense h b l), h.groups, h.valid, h.exp,
    poison || h.poisoned || !r.2, h.lineTile, h.kTile⟩
  let o := storeTile form nm t
  (withExponents h b o.bytes, o.overfull)

/-- The tiles of a DATA_WRITE in a tile form: bytes of the stored array and the number of tiles made dense. -/
def storeTiles (form nm : Nat) (b : Bytes) (bad : List (Nat × Nat)) : Bytes × Nat :=
  let ts := (List.range (arrayTiles b)).map fun t =>
    let e := u64At b (8 * t)
    let off := bitsOf e 39 0
    let len := 64 * bitsOf e 63 40
    storeSource form nm (slice b off len) (bad.any fun x => decide (x.1 < off + len) && decide (off < x.1 + x.2))
  (tileArrayBytes (ts.map (·.1)), (ts.filter (·.2)).length)

/-- Write bytes of a ticket to chase data and complete it: NO_RESOURCE where a frame cannot be backed (R882). -/
def State.putData (s : State) (t : Ticket) (bs : Bytes) (bad : List (Nat × Nat)) (value : Nat) : State :=
  let c := tkSlot t.raw
  let a := tpDst t.raw
  match s.ticketWrite c (framePiecesOf (bs.length / 4096 + 2) a bs) with
  | (s1, true) => (bad.foldl (fun s b => s.chasePoisonRun c (a + b.1) b.2) s1).done t stOk (dValue value 0)
  | (s1, false) => s1.done t stNoResource []

/-- DATA_WRITE: store form 0 raw; 1 N:M, 2 unstructured, 3 dense go through the store compressor. -/
def execDataWrite (ring : Nat) (x : TicketIn) (s : State) : Ans :=
  .next (s.withXfers x.hbm fun s => s.ticketAct ring x.seq 0x20 fun t s => s.withSource t (tpLen t.raw) fun s b bad =>
    let form := bitsOf (tpSub t.raw) 1 0
    if form = 0 then s.putData t b bad 0
    else
      let r := storeTiles (if form = 3 then 0 else form) (bitsOf (tpSub t.raw) 3 2) b bad
      (s.bump Fld.rgnArrNmOverfull (s.dealPhys (tkSlot t.raw) 0) r.2).putData t r.1 [] r.2)

/-- DATA_READ: bytes of chase data, delivered by TK_DELIVERY. -/
def execDataRead (ring : Nat) (x : TicketIn) (s : State) : Ans :=
  .next (s.withXfers x.hbm fun s => s.ticketAct ring x.seq 0x21 fun t s => s.withSource t (tpLen t.raw) fun s b bad =>
    match s.deliver t (tpDst t.raw) b bad with
    | (s1, true) => s1.done t stOk []
    | (s1, false) => s1.done t stWindow [])

/-- IMP_HINT: hint records; one that breaks its rules changes nothing (R444, R445). -/
def execImpHint (ring seq : Nat) (s : State) : Ans :=
  .next (s.ticketAct ring seq 0x40 fun t s =>
    let c := tkSlot t.raw
    if tpLen t.raw % 32 ≠ 0 then s.done t stBadTicket []
    else s.withSource t (tpLen t.raw) fun s b _ =>
      match (if (s.forme c).isEmpty then none else applyHints (s.chase c).hints (pieces 32 b)) with
      | some l => (s.updChase c fun x => { x with hints := l }).done t stOk []
      | none => s.done t stRange [])

/-! ### Marks by ticket (R680) -/

/-- The mark that a ticket names, and whether its context is active. -/
def State.ticketMark (s : State) (t : Ticket) : Option (Nat × Bool) :=
  let c := tkSlot t.raw
  let ctx := bitsOf (tpSub t.raw) 5 0
  (s.markOf c ctx (tpArg0 t.raw)).map fun n => (n, ctx == s.activeCtx c)

/-- MARK_OP: acts as MRK_SIGNAL does. -/
def execMarkOp (ring seq : Nat) (s : State) : Ans :=
  .next (s.ticketAct ring seq 0x50 fun t s =>
    match s.ticketMark t with
    | none => s.done t stRange []
    | some (_, false) => (s.bump Fld.mrkStale (tkSlot t.raw) 1).done t stCleared []
    | some (n, true) => (s.markOp (bitsOf (tpSub t.raw) 15 14) n (u16At (tpArgs t.raw) 0)).done t stOk [])

/-- MARK_WAIT: completes without consuming when the count is at or above the target, or when the barrier flips. -/
def execMarkWait (ring seq : Nat) (s : State) : Ans :=
  .next (s.ticketAct ring seq 0x51 fun t s =>
    match s.ticketMark t with
    | none => s.done t stRange []
    | some (n, false) => (s.bump Fld.mrkStale (tkSlot t.raw) 1).done t stCleared (dValue (s.markCount n) 0)
    | some (n, true) => (s.updMark n fun m => { m with waits := m.waits ++ [.ticket t.ring t.seq m.flips] }).serveMark n)

end Sys2Proof.Machine
end

