-- ==== Sys2Proof/Machine/Ring.lean ====
section
/-! DEFINITION. Rings (R664 to R674): enabling, doorbells, fetching and re-reading tickets, proofs (R683 to R690) and the
messages of a ring (R698). Rings 256 to 271 are the internal rings of the resident cores (R695). -/

namespace Sys2Proof.Machine

/-- Ring states (HIF_RG_STATE). -/
def rgDisabled : Nat := 0
def rgRunning : Nat := 1
def rgStale : Nat := 2
def rgWindow : Nat := 3
def rgDraining : Nat := 4

/-- A ring beyond its registers. -/
def State.ringRt (s : State) (r : Nat) : RingRt := (kvGet s.host.rings r).getD ⟨0, 0, false, none, [], 0⟩
def State.updRing (s : State) (r : Nat) (f : RingRt → RingRt) : State :=
  { s with host := { s.host with rings := kvPut s.host.rings r (f (s.ringRt r)) } }

def State.rgState (s : State) (r : Nat) : Nat := s.getF Fld.hifRgState r

/-- 2^k of a ring. -/
def State.ringSize (s : State) (r : Nat) : Nat := 2 ^ s.getF Fld.hifRgLog2 r

/-! ### Beginning a ticket (R671, R672) -/

/-- A ticket begins; one whose opcode the table does not hold completes at once with BAD_TICKET (R678). -/
def State.beginTicket (s : State) (r : Nat) (raw : Bytes) : State :=
  let bad := (ticketForm (tkOpcode raw)).isNone
  let t : Ticket := { ring := r, seq := tkSeq raw, raw := raw, snap := (s.chase (tkSlot raw)).work, acted := bad, done := bad
                      status := if bad then stBadTicket else stOk, detail := [], flags := 0, poisonAt := none, dst := 0, len := 0
                      input := [], inputBad := [], orphan := false }
  { s with host := { s.host with tickets := s.host.tickets ++ [t] } }

/-- The first posted ticket of an internal ring, where it may begin: one with TK_FENCE waits for the earlier ones (R671). -/
def State.postedReady (s : State) (r : Nat) : Option Bytes :=
  ((s.host.posted.find? fun p => p.1 == r).map (·.2)).filter fun b => !(tkFence b && s.host.tickets.any fun t => t.ring == r)

/-- Remove the first element that a predicate picks. -/
def dropFirst {α : Type} (p : α → Bool) : List α → List α
  | [] => []
  | a :: l => if p a then l else a :: dropFirst p l

/-- Begin the posted tickets of an internal ring in order as far as they may begin (R671, R695). -/
def State.pumpPosted : Nat → State → Nat → State
  | 0, s, _ => s
  | n + 1, s, r =>
    match s.postedReady r with
    | none => s
    | some b =>
      State.pumpPosted n (State.beginTicket { s with host := { s.host with posted := dropFirst (fun p => p.1 == r) s.host.posted } } r b) r

/-- A resident core posts tickets on its ring (R695). -/
def State.postTickets (s : State) (r : Nat) (l : List Bytes) : State :=
  let s1 : State := { s with host := { s.host with posted := s.host.posted ++ l.map fun b => (r, b) } }
  s1.pumpPosted s1.host.posted.length r

/-- The proof ring has a free slot (R672). -/
def State.proofSlotFree (s : State) (r : Nat) : Bool :=
  decide ((s.getF Fld.hifRgPcount r + 2 ^ 32 - s.getF Fld.hifRgPhead r) % 2 ^ 32 + s.getF Fld.hifRgInflight r < s.ringSize r)

/-- The checks of R666 on the bytes fetched for the head. -/
def State.ticketOk (s : State) (r : Nat) (b : Bytes) : Bool :=
  let h := s.getF Fld.hifRgHead r
  let x := s.ringRt r
  tkSeq b == h && tkCrc b == ticketCrc b && ((h + 1) % 2 ^ 32 != x.tail || tkCrc b == x.crc)

/-- What a fetch comes to. -/
inductive Fetch where
  | begun | failed | blocked | waits
  deriving DecidableEq, Repr

/-- Fetch the ticket at the head and begin it when it may begin. -/
def State.fetchOne (s : State) (r : Nat) : State × Fetch :=
  let x := s.ringRt r
  let h := s.getF Fld.hifRgHead r
  if !s.isReady || !s.flag Fld.hifRingsEn 0 || s.rgState r != rgRunning || !x.hasDb then (s, .waits)
  else if x.tail = h then (s.updRing r fun x => { x with hasDb := false }, .waits)
  else
    match s.hostGet (4096 * s.getF Fld.hifRgTbase r + 512 * (h % s.ringSize r)) 512 with
    | (s1, none) => ((s1.setF Fld.hifRgState r rgWindow).updRing r fun x => { x with rereads := none }, .blocked)
    | (s1, some b) =>
      if !s1.ticketOk r b then (s1, .failed)
      else
        let s2 := s1.updRing r fun x => { x with rereads := none }
        if !s2.proofSlotFree r || (tkFence b && s2.getF Fld.hifRgInflight r != 0) then (s2, .waits)
        else (((s2.setF Fld.hifRgHead r ((h + 1) % 2 ^ 32)).setF Fld.hifRgInflight r (s2.getF Fld.hifRgInflight r + 1)).beginTicket r b,
          .begun)

/-- Fetch and begin tickets until one may not begin; a failed check starts the series of re-reads (R667). -/
def State.fetchLoop : Nat → State → Nat → State
  | 0, s, _ => s
  | n + 1, s, r =>
    match s.fetchOne r with
    | (s1, .begun) => State.fetchLoop n s1 r
    | (s1, .failed) => s1.updRing r fun x => { x with rereads := some 0 }
    | (s1, _) => s1

/-- Fetch on a ring where no failed check is being waited out. -/
def State.pump (s : State) (r : Nat) : State :=
  if (s.ringRt r).rereads.isSome then s else State.fetchLoop (s.ringSize r + 1) s r

/-- One re-read (R667, R668): counted; the seventh failure pauses the ring with a stale-ticket fault. -/
def State.reread (s : State) (r n : Nat) : State :=
  match (s.bump Fld.hifRgRereads r 1).fetchOne r with
  | (s1, .begun) => s1.pump r
  | (s1, .failed) =>
    if n + 1 < 7 then s1.updRing r fun x => { x with rereads := some (n + 1) }
    else (((s1.updRing r fun x => { x with rereads := none }).setF Fld.hifRgState r rgStale).bump Fld.hifRgStaleFaults r 1).eventStale
  | (s1, _) => s1

/-- TICKET_REREAD: the time of the next re-read of a failed ticket has come. -/
def execTicketReread (ring : Nat) (stores : List (Nat × BitVec 8)) (s : State) : Ans :=
  let s0 := s.hostStores stores
  .next (match (s0.ringRt ring).rereads with
    | some n => if s0.isReady && s0.flag Fld.hifRingsEn 0 && s0.rgState ring == rgRunning then s0.reread ring n else s0
    | none => s0)

/-! ### Doorbells (R665, R667, R669) -/

/-- A doorbell: ignored when its tail names no ticket or too many; without effect on a ring that is off or draining; kept while the
ring is paused; an immediate re-read
where a check has failed. -/
def State.doorbell (s : State) (r value : Nat) : State :=
  let tail := value % 2 ^ 32
  let ahead := (tail + 2 ^ 32 - s.getF Fld.hifRgHead r) % 2 ^ 32
  if ahead = 0 ∨ s.ringSize r < ahead then s.bump Fld.hifRgDbIgnored r 1
  else if s.rgState r = rgDisabled ∨ s.rgState r = rgDraining then s
  else
    let s1 := s.updRing r fun x => { x with tail := tail, crc := bitsOf value 63 32, hasDb := true }
    if (s1.ringRt r).rereads.isSome && s1.rgState r == rgRunning && s1.flag Fld.hifRingsEn 0 then
      match (s1.bump Fld.hifRgRereads r 1).fetchOne r with
      | (s2, .begun) => s2.pump r
      | (s2, .failed) => s2.updRing r fun x => { x with rereads := some 0 }
      | (s2, _) => s2
    else s1.pump r

/-- DOORBELL: one 64-bit host write of HIF_RING_DB. -/
def execDoorbell (rid ring value : Nat) (stores : List (Nat × BitVec 8)) (s : State) : Ans :=
  .next ((s.hostStores stores).regWrite rid fun s => s.ifB (decide (ring < 256)) fun s => s.doorbell ring value)

/-! ### Proofs (R670, R683 to R690, R698) -/

/-- A ring signals its vector (R698). -/
def State.signalRing (s : State) (r : Nat) : State :=
  (s.updRing r fun x => { x with unsignalled := 0 }).msix1 (s.getF Fld.hifRgVec r)

/-- Write a proof into the proof ring, with its phase; false where no window allows it (R670, R683). -/
def State.putProof (s : State) (r : Nat) (p : Bytes × Bool) : State × Bool :=
  let n := s.getF Fld.hifRgPcount r
  let a := 4096 * s.getF Fld.hifRgPbase r + 32 * (n % s.ringSize r)
  let phase := 1 - (n / s.ringSize r) % 2
  match s.hostPut a (patch p.1 16 (natLe 1 (u8At p.1 16 + phase))) with
  | (s1, false) => (s1, false)
  | (s1, true) =>
    let s2 := (s1.setF Fld.hifRgPcount r ((n + 1) % 2 ^ 32)).setF Fld.hifRgInflight r (s1.getF Fld.hifRgInflight r - 1)
    let s3 := s2.updRing r fun x => { x with unsignalled := x.unsignalled + 1 }
    let c := s3.getF Fld.hifRgCoalN r
    (if p.2 || (c != 0 && decide (c ≤ (s3.ringRt r).unsignalled)) then s3.signalRing r else s3, true)

/-- A draining ring whose begun tickets have all completed shows 0 (R673). -/
def State.drained (s : State) (r : Nat) : State :=
  if s.rgState r = rgDraining ∧ s.getF Fld.hifRgInflight r = 0 then s.setF Fld.hifRgState r rgDisabled else s

/-- The ring is paused in state 3 with a proof that waits. -/
def State.blockProof (s : State) (r : Nat) (p : Bytes × Bool) : State :=
  (s.setF Fld.hifRgState r rgWindow).updRing r fun x => { x with waiting := x.waiting ++ [p], rereads := none }

/-- The 32 bytes of a ticket's proof, its phase bit zero (R683, R686): its flags were fixed when it completed. -/
def proofBytes (t : Ticket) : Bytes :=
  natLe 8 (tkTag t.raw) ++ natLe 4 t.seq ++ natLe 2 (tkOpcode t.raw) ++ natLe 1 t.status ++ natLe 1 t.ring ++
    natLe 2 (t.flags / 2 * 2) ++ slice t.detail 0 14

/-- A begun ticket is gone; one whose ring has been disabled since no longer counts in flight there (R670). -/
def State.dropTicket (s : State) (t : Ticket) : State :=
  let s1 : State := { s with host := { s.host with tickets := s.host.tickets.erase t } }
  if t.orphan ∧ t.ring < 256 then s1.setF Fld.hifRgInflight t.ring (s1.getF Fld.hifRgInflight t.ring - 1) else s1

/-- Write the proof of a ticket that is done: behind blocked proofs it waits; a core's proof goes to the core; an orphan has none
(R670, R695, R803). A delivery that wrote zeros for poison is logged (R814). -/
def State.writeProof (s : State) (t : Ticket) : State :=
  let s1 := if tkDrains t.raw then s.drainResult t else s
  let all := tkAllPaths t.raw && (match ticketForm (tkOpcode t.raw) with | some f => f.dst == 1 | none => false)
  let p := (proofBytes { t with flags := t.flags + if all then 32 else 0 }, tkIrq t.raw)
  let s2 := s1.dropTicket t
  let s3 := match t.poisonAt with
    | some o => s2.logErr ⟨0x0F, sevContained, 6, whereNone, 0, 0, 0xFF, 0, Config.poisonDetail t.ring t.seq o % 2 ^ 64⟩
    | none => s2
  if 256 ≤ t.ring then (if t.orphan then s3 else s3.emit (.coreProof (t.ring - 256) p.1)).pumpPosted s3.host.posted.length t.ring
  else if t.orphan then s3.pump t.ring
  else if s3.rgState t.ring = rgDisabled then s3
  else if !(s3.ringRt t.ring).waiting.isEmpty then s3.updRing t.ring fun x => { x with waiting := x.waiting ++ [p] }
  else match s3.putProof t.ring p with
    | (s4, true) => (s4.drained t.ring).pump t.ring
    | (s4, false) => s4.blockProof t.ring p

/-- PROOF: a ticket that is done completes with its proof. -/
def execProof (ring seq : Nat) (s : State) : Ans :=
  .next (match s.ticket? ring seq with
    | some t => if s.isReady && t.done && s.resultIn t then s.writeProof t else s
    | none => s)

/-- COALESCE_TIMEOUT: HIF_RG_COAL_US has passed since the first proof not yet signalled (R698). -/
def execCoalesceTimeout (ring : Nat) (s : State) : Ans :=
  .next (s.ifB (s.isReady && s.getF Fld.hifRgCoalUs ring != 0 && (s.ringRt ring).unsignalled != 0) fun s => s.signalRing ring)

/-! ### Ring control (R664, R669, R670, R673) -/

/-- A ring's range lies in windows that grant it. -/
def State.rangeGranted (s : State) (write : Bool) (a n : Nat) : Bool := (pagesOf a n).all fun p => s.pageGranted write p

/-- Enable a ring (R664): a refused enable leaves it disabled. -/
def State.enableRing (s : State) (r : Nat) : State :=
  if s.rgState r != rgDisabled then s
  else if s.rangeGranted false (4096 * s.getF Fld.hifRgTbase r) (512 * s.ringSize r) &&
      s.rangeGranted true (4096 * s.getF Fld.hifRgPbase r) (32 * s.ringSize r) then
    (s.setFs r [(Fld.hifRgEn, 1), (Fld.hifRgState, rgRunning), (Fld.hifRgHead, 0), (Fld.hifRgPcount, 0)]).updRing r
      fun _ => ⟨0, 0, false, none, [], 0⟩
  else s

/-- The begun tickets of a ring run on without a proof (R670). -/
def State.orphanTickets (s : State) (r : Nat) : State :=
  { s with host := { s.host with tickets := s.host.tickets.map fun t => if t.ring = r then { t with orphan := true } else t } }

/-- Clear HIF_RG_EN (R670, R673): in state 3 the waiting proofs are discarded, and the tickets that have begun run on. -/
def State.disableRing (s : State) (r : Nat) : State :=
  let s1 := s.setF Fld.hifRgEn r 0
  if s.rgState r = rgWindow then
    ((s1.orphanTickets r).setFs r [(Fld.hifRgState, rgDisabled),
      (Fld.hifRgInflight, s1.getF Fld.hifRgInflight r - (s1.ringRt r).waiting.length)]).updRing r fun x => { x with waiting := [], rereads := none }
  else if s.rgState r = rgDisabled then s1
  else ((s1.setF Fld.hifRgState r rgDraining).updRing r fun x => { x with rereads := none, hasDb := false }).drained r

/-- Write the waiting proofs in order as far as the windows allow (R670). -/
def State.writeWaiting : Nat → State → Nat → State
  | 0, s, _ => s
  | n + 1, s, r =>
    match (s.ringRt r).waiting with
    | [] => s
    | p :: ps => match s.putProof r p with
      | (s1, true) => State.writeWaiting n (s1.updRing r fun x => { x with waiting := ps }) r
      | (s1, false) => s1

/-- Whether the windows now grant what a ring paused in state 3 waits for. -/
def State.resumeGranted (s : State) (r : Nat) : Bool :=
  let x := s.ringRt r
  if x.waiting.isEmpty then
    !x.hasDb || s.rangeGranted false (4096 * s.getF Fld.hifRgTbase r + 512 * (s.getF Fld.hifRgHead r % s.ringSize r)) 512
  else s.rangeGranted true (4096 * s.getF Fld.hifRgPbase r + 32 * (s.getF Fld.hifRgPcount r % s.ringSize r)) 32

/-- HIF_RG_RESUME (R669, R670). -/
def State.resumeRing (s : State) (r : Nat) : State :=
  if s.rgState r = rgStale then (s.setF Fld.hifRgState r rgRunning).pump r
  else if s.rgState r = rgWindow ∧ s.resumeGranted r = true then
    let s1 := State.writeWaiting ((s.ringRt r).waiting.length) s r
    if (s1.ringRt r).waiting.isEmpty then
      if s1.flag Fld.hifRgEn r then (s1.setF Fld.hifRgState r rgRunning).pump r else (s1.setF Fld.hifRgState r rgDraining).drained r
    else s1
  else s

/-- A write of HIF_RING_CTRL: the other fields change only in state 0 (R664); then HIF_RG_EN and HIF_RG_RESUME act. -/
def State.ringCtrl (s : State) (r value : Nat) : State :=
  let k := bitsOf value 52 48
  let s1 := if s.rgState r = rgDisabled then
      s.setFs r ([(Fld.hifRgDriver, bitsOf value 61 61), (Fld.hifRgVec, bitsOf value 42 32), (Fld.hifRgCoalN, bitsOf value 31 24),
        (Fld.hifRgCoalUs, bitsOf value 23 8)] ++ if 4 ≤ k ∧ k ≤ 16 then [(Fld.hifRgLog2, k)] else [])
    else s
  let s2 := if bitOf value 62 then s1.enableRing r else if s1.flag Fld.hifRgEn r then s1.disableRing r else s1
  if bitOf value 63 then s2.resumeRing r else s2

/-- HIF_RG_EN: a host write of HIF_RING_CTRL with HIF_RG_EN 1. -/
def execHifRgEn (rid ring value : Nat) (s : State) : Ans :=
  .next (s.regWrite rid fun s => s.ifB (decide (ring < 256) && bitOf value 62) fun s => s.ringCtrl ring value)

/-- RING_DISABLE: a host write of HIF_RING_CTRL with HIF_RG_EN 0. -/
def execRingDisable (rid ring value : Nat) (s : State) : Ans :=
  .next (s.regWrite rid fun s => s.ifB (decide (ring < 256) && !bitOf value 62) fun s => s.ringCtrl ring value)

/-- HIF_RG_RESUME: a host write of 1 to HIF_RG_RESUME that leaves HIF_RG_EN as it is. -/
def execHifRgResume (rid ring : Nat) (stores : List (Nat × BitVec 8)) (s : State) : Ans :=
  .next ((s.hostStores stores).regWrite rid fun s => s.ifB (decide (ring < 256)) fun s => s.resumeRing ring)

end Sys2Proof.Machine
end

