-- ==== Sys2Proof/Machine/Sample.lean ====
section
/-! DEFINITION. Sample slots (R157 to R161, R691 to R694): accepting a SAMPLE ticket, binding, activating, delivering and
freeing slots at a lock-up. -/

namespace Sys2Proof.Machine

/-- Sample slot states (R157). -/
def ssFree : Nat := 0
def ssBound : Nat := 1
def ssActive : Nat := 2
def ssDone : Nat := 3

/-- The fields of a SAMPLE ticket (R691). -/
def smTokens (b : Bytes) : Nat := tpArg0 b
def smFirst (b : Bytes) : Nat := u16At (tpArgs b) 0
def smMembers (b : Bytes) : Nat := u16At (tpArgs b) 2
def smIn (b : Bytes) : Nat := u16At (tpArgs b) 4
def smOut (b : Bytes) : Nat := u32At (tpArgs b) 8

/-- The stretch length (R160). -/
def smStretch (b : Bytes) : Nat := ceilDiv (smTokens b) (smMembers b)

/-- The first token of stretch `i` and its number of tokens. A stretch that holds no token starts at token N (DEDUCED: R160 gives
its length 0 and no other start). -/
def smRange (b : Bytes) (i : Nat) : Nat × Nat :=
  let lo := min (i * smStretch b) (smTokens b)
  (lo, min ((i + 1) * smStretch b) (smTokens b) - lo)

/-- Addresses of the input area and the output area of a slot (R692). -/
def sampleIn (k : Nat) : Nat := 0x50000000000 + 2 ^ 28 * k
def sampleOut (k : Nat) : Nat := sampleIn k + 2 ^ 27

/-- A SAMPLE ticket that this member refuses (R161, R691). -/
def State.sampleRefused (s : State) (c : Nat) (b : Bytes) : Bool :=
  smMembers b == 0 || decide (s.members c < smFirst b + smMembers b) || decide (16384 < smStretch b) ||
    decide (s.ordinal c < smFirst b) || decide (smFirst b + smMembers b ≤ s.ordinal c)

/-- Accept a SAMPLE: this member's part of the input is read, and the ticket waits for a slot. -/
def State.acceptSample (s : State) (t : Ticket) : State :=
  let c := tkSlot t.raw
  let b := t.raw
  if smIn b = 0 ∨ 4096 < smIn b ∨ 2 ^ 27 < smOut b ∨ tpLen b ≠ smTokens b * smIn b then s.done t stBadTicket []
  else if s.sampleRefused c b then s.done t stRefused []
  else
    let r := smRange b (s.ordinal c - smFirst b)
    match s.srcRead t (tpSrcSpace b) (tpSrc b + r.1 * smIn b) (r.2 * smIn b) with
    | (s1, none) => s1.done t stWindow (s1.dWork c t.snap)
    | (s1, some x) => s1.updTicket t.ring t.seq fun t => { t with input := x.1, inputBad := x.2 }

/-- SAMPLE. -/
def execSample (ring : Nat) (x : TicketIn) (s : State) : Ans :=
  .next (s.withXfers x.hbm fun s => s.ticketAct ring x.seq 0x30 fun t s => s.acceptSample t)

/-! ### The directory and the slots -/

/-- Write part of a directory entry. -/
def State.sdWrite (s : State) (c k off : Nat) (bs : Bytes) : State := (s.ticketWrite c [(sdAddr k + off, bs)]).1

/-- Update a sample slot. -/
def State.updSample (s : State) (k : Nat) (f : SampleSt → SampleSt) : State :=
  match kvGet s.samples k with
  | some x => { s with samples := kvPut s.samples k (f x) }
  | none => s

/-- A slot that is DONE goes to FREE. -/
def State.freeSample (s : State) (k c : Nat) : State :=
  (({ s with samples := kvDel s.samples k } : State)).sdWrite c k 0 (List.replicate 16 0)

/-- The slot's result has been delivered and the conditions of its proof are met: DONE (R694). -/
def State.sampleDone (s : State) (c k : Nat) (x : SampleSt) (t : Ticket) : State :=
  ((s.updSample k fun x => { x with st := ssDone, copying := false }).sdWrite c k 0 [3]).finishTicket x.ring x.seq stOk (s.dWork c t.snap)

/-- Copies that are complete end (R687 to R689, R694): every line has entered its slice, and with TK_ALL_PATHS has been written to
DRAM. -/
def State.endCopies (s : State) : State :=
  s.samples.foldl (fun s e =>
    if e.2.copying then
      match s.ticket? e.2.ring e.2.seq with
      | some t => if s.resultIn t then ((if tkDrains t.raw then s.drainResult t else s).sampleDone e.2.slot e.1 e.2 t) else s
      | none => s
    else s) s

/-- Copy the result of a slot whose SD_READY is set (R694). -/
def State.copyResult (s : State) (c k : Nat) (x : SampleSt) : State :=
  match s.ticket? x.ring x.seq with
  | none => (s.updSample k fun x => { x with st := ssDone }).sdWrite c k 0 [3]
  | some t =>
    let o := smOut t.raw
    let bs := (s.chaseRead c (sampleOut k) o).1
    let bad := badParts (s.chasePoison c) (sampleOut k) o
    match (s.noteDma c (sampleOut k) o).deliver t (s.resultRun t.raw).1 bs bad with
    | (s1, true) => s1.updSample k fun x => { x with copying := true }
    | (s1, false) => ((s1.updSample k fun x => { x with st := ssDone }).sdWrite c k 0 [3]).finishTicket x.ring x.seq stWindow
        (s1.dWork c t.snap)

/-- Bind a waiting ticket to a free slot: its input is written, its entry is made (R157, R692, R693). Which free slot it
takes is free. -/
def State.bindSample (s : State) (c : Nat) (t : Ticket) : State :=
  let (r, s1) := s.fresh
  match pickFrom (r % 2048) 2048 fun k => (kvGet s1.samples k).isNone with
  | none => s1
  | some k =>
    let i := s1.ordinal c - smFirst t.raw
    let g := smRange t.raw i
    match s1.ticketWrite c (framePiecesOf (t.input.length / 4096 + 2) (sampleIn k) t.input) with
    | (s2, false) => s2.finishTicket t.ring t.seq stNoResource (s2.dWork c t.snap)
    | (s2, true) =>
      let s3 := t.inputBad.foldl (fun s b => s.chasePoisonRun c (sampleIn k + b.1) b.2) s2
      let s4 : State := { s3 with samples := kvPut s3.samples k ⟨ssBound, c, t.ring, t.seq, i, g.2, g.1, false⟩ }
      s4.sdWrite c k 0 ([1, 0] ++ natLe 2 i ++ natLe 4 g.2 ++ natLe 4 g.1 ++ natLe 4 0)

/-- SAMPLE tickets of a chase that wait for a slot, in the order in which they began, over all rings (DESIGN CHOICE: R158 gives
no order among rings). Such a ticket has left the ring's head and counts in flight while it waits (DEDUCED: R158 leaves it in its
ring, R671 begins it). -/
def State.waitingSamples (s : State) (c : Nat) : List Ticket :=
  s.host.tickets.filter fun t => tkOpcode t.raw == tkSample && tkSlot t.raw == c && t.acted && !t.done &&
    !s.samples.any fun e => e.2.ring == t.ring && e.2.seq == t.seq

/-- The transitions of a lock-up of a chase (R157, R694). -/
def State.sampleLockup (s : State) (c : Nat) : State :=
  let mine := s.samples.filter fun e => e.2.slot == c
  let s1 := mine.foldl (fun s e =>
    if e.2.st = ssDone then s.freeSample e.1 c
    else if e.2.st = ssBound then (s.updSample e.1 fun x => { x with st := ssActive }).sdWrite c e.1 0 [2]
    else if !e.2.copying && bitOf (s.chaseByte c (sdAddr e.1 + 1)).toNat 0 then s.copyResult c e.1 e.2
    else s) s
  (s1.waitingSamples c).foldl (fun s t => s.bindSample c t) s1.endCopies

end Sys2Proof.Machine
end

