-- ==== Sys2Proof/Machine/Stroke.lean ====
section
/-! DEFINITION. Strokes (R108 to R132): the lock-up and its commits in order (R42, R115 to R118, R556, R808), late runs, done
messages and verdicts between members, slips, faults and switch requests. -/

namespace Sys2Proof.Machine

/-! ### The commits of a lock-up -/

/-- A substitution that ended the stroke in progress commits: the stroke is run again if it was replay-safe; else the chase
faults (R807). -/
def State.resumeStroke (s : State) (c : Nat) : State :=
  let x := s.chase c
  if !x.substituting then s
  else if x.replaySafe then
    let s1 := (s.restorePoint c).updChase c fun x => { x with substituting := false }
    ((s1.setF Fld.stkPlate c x.retryPlate).bump Fld.rasRetries 0 1).logCorrected 0x08 2 whereNone 6 (some c)
  else (s.updChase c fun x => { x with substituting := false }).faultChase c fUnitLost

/-- Realignment and context switch (R553, R556, R558). -/
def State.markCommits (s : State) (c : Nat) : State :=
  let s1 := if (s.chase c).realign then (s.realign c).updChase c fun x => { x with realign := false } else s
  if s1.flag Fld.mrkSwPending c then s1.switchCtx c (s1.getF Fld.mrkSwTo c) else s1

/-- Commit the switches that the root has named (R329), free what drains, and offer what waits (R328, R334). -/
def State.switchCommits (s : State) (c : Nat) (peers : List GuestCopy) : State :=
  let ids := (s.chase c).galleys.map (·.1)
  let s1 := ids.foldl (fun s id => match s.galley c id with
    | some g => if g.named.isSome then s.commitSwitch c id peers else s
    | none => s) s
  ids.foldl (fun s id => (s.freeDraining c id).offerSwitch c id) s1

/-- Changes of the ways of the chase's regions take effect (R481); in a lock-up that leaves migrations over, a release whose demotions
are not done waits for a later one (R482). -/
def State.wayCommits (s : State) (c left : Nat) : State :=
  (s.heldRegions c).foldl (fun s k =>
    let p := s.physOf k
    if s.flag Fld.rcWaysPending p && !(left != 0 && s.releaseDemotes c k) then s.applyWays p true else s) s

/-- The run phase begins (R118): a parked chase runs no plate (R140). -/
def State.beginRun (s : State) (c : Nat) : State :=
  let s1 := s.setF Fld.stkPhase c 2
  if s1.flag Fld.stkParked c then s1.endWork c else s1.reachPlate c (s1.getF Fld.stkPlate c)

/-- Stroke `n`, or one that was slipped before it, is a multiple of MRK_RA_PERIOD: its lock-up is a realignment point (R553,
R556). -/
def State.realignDue (s : State) (c n : Nat) : Bool :=
  let p := s.getF Fld.mrkRaPeriod c
  p != 0 && if (s.chase c).begun then decide (s.getF Fld.stkNumber c / p < n / p) else n % p == 0

/-- Begin stroke `n` at time `start` (R109, R115, R124, R129). -/
def State.beginStroke (s : State) (c n start : Nat) : State :=
  let held := decide ((((s.boundary c n : Nat) : Int) + (s.chase c).goShift) < start)
  let s1 := s.setFs c [(Fld.stkNumber, n), (Fld.stkSlipping, natOfBool ((s.chase c).judgeFrom (n + 1) != n + 1)), (Fld.stkConsecSlips, 0), (Fld.stkHeld, natOfBool held), (Fld.stkPhase, 1)]
  let s2 := if held then s1.bumpWrap Fld.stkHoldTotal c 1 else s1
  s2.updChase c fun x => { x with
    realign := x.realign || s.realignDue c n, begun := true, begunCount := x.begunCount + 1, strokeStart := start, judge := x.judgeFrom (n + 1), goShift := 0, dones := [], verdict := none
    doneSent := false, inDist := false, lateCounted := false, exchBegun := [], sumParts := [], sumDone := false, redIn := [], joined := [], tracer := [] }

/-- The commits of a lock-up in order; `left` migrations do not commit within the budget; `peers` are the rows that other members
hold or still share (R455, R456). -/
def State.lockupCommits (s : State) (c left : Nat) (peers : List GuestCopy) : State :=
  let s1 := (s.commitSubsts ((s.heldRegions c).map s.physOf)).resumeStroke c
  if !s1.csStriking c then s1
  else
    let s2 := s1.updChase c fun x => { x with finished := false }
    let s3 := ((s2.markCommits c).savePoint c).grantInk c
    let s4 := ((s3.switchCommits c peers).wayCommits c left).impose c left peers
    (s4.takeGuests c).sampleLockup c

/-- A lock-up that begins stroke `n`. -/
def State.lockUp (s : State) (c n start left : Nat) (peers : List GuestCopy) : State :=
  let s1 := (s.beginStroke c n start).lockupCommits c left peers
  if s1.csStriking c && s1.getF Fld.stkPhase c == 1 && left == 0 then s1.beginRun c else s1

/-- A joined chase begins its start stroke (R93, R96, R100). -/
def State.firstStroke (s0 : State) (c n left : Nat) (peers : List GuestCopy) : State :=
  let s := s0.passTo (s0.boundary c n)
  if s.regionsGone c then s.failStart c veRegionInvalid 1 (s.regionsOff c) csFaulted
  else
    let s1 := (s.setF Fld.sysChaseState c csRunning).endStart c stOk []
    s1.lockUp c n (s1.boundary c n) left peers

/-- LOCK_UP: the time at which a stroke begins has come, the start stroke of a joined chase or the stroke of the GO verdict
that the member holds. -/
def execLockUp (slot left : Nat) (peers : List GuestCopy) (s : State) : Ans :=
  .next (s.ifB s.isReady fun s =>
    if s.cs slot = csJoining then
      match (s.chase slot).startStroke with
      | some n => s.firstStroke slot n left peers
      | none => s
    else if s.csStriking slot then
      let s1 := s.chaseDue slot fun s => ((s.chase slot).verdict.map (·.2)).getD 0
      match (s1.chase slot).verdict with
      | some (n, start) => s1.lockUp slot n start left peers
      | none => s
    else s)

/-- The lock-up budget in nanoseconds (R116). -/
def State.lockupNs (s : State) (c : Nat) : Nat := max 256 (s.periodNs c * s.getF Fld.stkLockupPm c / 1000)

/-- LOCKUP_BUDGET_END: the lock-up budget ends; what has not committed is carried over, and the run phase begins (R117, R118). -/
def execLockupBudgetEnd (slot : Nat) (s : State) : Ans :=
  .next (s.ifB (s.isReady && s.csStriking slot && s.getF Fld.stkPhase slot == 1) fun s =>
    (s.chaseDue slot fun s => (s.chase slot).strokeStart + s.lockupNs slot).beginRun slot)

/-- When the share of the interval that ST_DIST_PM sets aside begins (R121). -/
def State.distAt (s : State) (c : Nat) : Nat :=
  (s.chase c).strokeStart + s.periodNs c * (1000 - s.getF Fld.stkDistPm c) / 1000

/-- LATE_RUN: the run phase extends into the time that ST_DIST_PM sets aside (R121); counted once per stroke. -/
def execLateRun (slot : Nat) (s : State) : Ans :=
  let x := s.chase slot
  .next (s.ifB (s.isReady && s.csStriking slot && s.getF Fld.stkPhase slot == 2 && !x.inDist && !x.finished && !x.lateCounted) fun s =>
    ((s.chaseDue slot fun s => s.distAt slot + 1).bumpWrap Fld.stkLateRun slot 1).updChase slot fun x => { x with lateCounted := true })

/-! ### Between members -/

/-- DONE: the root receives a member's done message (R122, R123). -/
def execDone (slot ordinal stamp : Nat) (s : State) : Ans :=
  .next (s.ifB (s.isUp && s.csStriking slot && ordinal != 0) fun s => (s.ackCtl slot ctlDone ordinal).rootDone slot ordinal stamp)

/-- SLIP: the root has no done message from every member by B + H − L (R123, R126). -/
def execSlip (slot : Nat) (s : State) : Ans :=
  .next (s.ifB (s.isUp && s.csStriking slot && s.ordinal slot == 0 && (s.chase slot).verdict.isNone) fun s =>
    let m := (s.chase slot).judge
    let s1 := s.chaseDue slot fun s => s.boundary slot m + s.holdNs slot - s.announceNs slot
    s1.ifB ((s1.chase slot).judge == m) fun s1 => ((s1.sendAll slot ctlVerdict (words [m, 0, 0])).slip slot m).rootJudge slot)

/-- VERDICT: a member receives the root's verdict on boundary `m` (R123 to R126); `named` lists the switches that it names. -/
def execVerdict (slot m : Nat) (go : Bool) (start : Nat) (named : List (Nat × Nat)) (s : State) : Ans :=
  .next (s.ifB (s.isUp && s.csStriking slot && s.ordinal slot != 0) fun s =>
    let s1 := s.ackCtl slot ctlVerdict 0
    if m < (s1.chase slot).judge then (if go then s1.noteNamed slot m named else s1)
    else if (s1.chase slot).verdict.isSome then s1
    else if go then s1.takeGo slot m start named else s1.slip slot m)

/-- VERDICT_TIMEOUT: a member has received no verdict by B + H + L (R127). -/
def execVerdictTimeout (slot : Nat) (s : State) : Ans :=
  .next (s.ifB (s.isUp && s.csStriking slot && s.ordinal slot != 0 && (s.chase slot).verdict.isNone) fun s =>
    let m := (s.chase slot).judge
    let s1 := s.chaseDue slot fun s => s.boundary slot m + s.holdNs slot + s.announceNs slot
    s1.ifB ((s1.chase slot).judge == m) fun s1 => s1.slip slot m)

/-- FAULT: another member has faulted the chase (R131); it has to join a later start anew (R98). -/
def execFault (slot ordinal : Nat) (s : State) : Ans :=
  .next (s.ifB (s.isUp && s.cs slot != csEmpty && decide (ordinal < s.members slot)) fun s =>
    ((s.ackCtl slot ctlFault ordinal).updChase slot fun x => { x with joined := x.joined.filter fun j => j.1 != ordinal }).faultLocal slot
      fPeerFault)

/-- SWITCH_REQ: the root receives a member's switch request, or its cancelling with state 0 (R328, R331). -/
def execSwitchReq (slot ordinal galley state : Nat) (s : State) : Ans :=
  .next (s.ifB (s.isUp && s.csActive slot && s.ordinal slot == 0 && decide (ordinal < s.members slot)) fun s =>
    (s.ackCtl slot ctlSwitchReq ordinal).noteSwitch slot ordinal galley state)

end Sys2Proof.Machine
end

