-- ==== Sys2Proof/Machine/Roce.lean ====
section
/-! DEFINITION. The four Ethernet ports and RoCEv2 (R627 to R638): queue pairs, memory regions, the egress filter, and what a
received frame does. -/

namespace Sys2Proof.Machine

/-! ### Ports and the egress filter (R627 to R631) -/

/-- The port is up. -/
def State.portUp (s : State) (q : Nat) : Bool := s.isUp && decide (q < 4) && s.flag Fld.ethUp q

def State.portMac (s : State) (q : Nat) : Nat := s.getF Fld.ethMac q
def State.portIp6 (s : State) (q : Nat) : Nat := s.getF Fld.ethIp6Hi q * 2 ^ 64 + s.getF Fld.ethIp6Lo q

/-- The 80 bytes of a port in the fence record in force (R764). -/
def State.portFence (s : State) (q : Nat) : Bytes := slice s.sec.applied (256 + 80 * q) 80

/-- The first `n` entries of `w` bytes each of a table at `off`, read by `f`. -/
def fenceList (b : Bytes) (off w n : Nat) (f : Bytes → Nat) : List Nat :=
  (List.range n).map fun k => f (slice b (off + w * k) w)

/-- A frame of a port passes the checks of the egress filter other than the rate cap (R631). -/
def State.egressOk (s : State) (q vlan etype : Nat) : Bool :=
  let b := s.portFence q
  (fenceList b 8 6 (u8At b 0) leNat).contains (s.portMac q) && (fenceList b 32 2 (u8At b 1) leNat).contains vlan &&
    (fenceList b 64 2 (u8At b 2) leNat).contains etype

/-- A frame of a port would go out now: the port is up, has a MAC address, the filter passes the frame, and its rate cap is not 0. -/
def State.mayTransmit (s : State) (q vlan etype : Nat) : Bool :=
  s.portUp q && s.portMac q != 0 && s.egressOk q vlan etype && u16At (s.portFence q) 4 != 0

/-- A port transmits a frame: a port whose MAC address is unset transmits nothing (R630); the filter drops or, with a rate
cap of 0, holds it for good (R631). -/
def State.transmit (s : State) (q vlan etype : Nat) (o : Out) : State :=
  if !s.portUp q || s.portMac q = 0 then s
  else if !s.egressOk q vlan etype then s.bump Fld.ethFltDrops q 1
  else if u16At (s.portFence q) 4 = 0 then s
  else s.emit o

def etypeOfIp (v : Nat) : Nat := if v = 6 then 0x86DD else 0x0800

/-- The MAC accepts a frame of a length with a number of tags (R628). -/
def frameOk (bytes tags : Nat) : Bool := decide (64 ≤ bytes) && decide (bytes ≤ 9216) && decide (tags ≤ 1)

/-- A received frame is dropped (R629). -/
def State.rxDrop (s : State) (q : Nat) : State := s.bump Fld.ethRxDrops q 1

/-! ### Queue pairs and memory regions (R632, R633, R681) -/

def qrPort (b : Bytes) : Nat := u8At b 0
def qrMtu (b : Bytes) : Nat := 1024 * 2 ^ u8At b 1
def qrIpv (b : Bytes) : Nat := u8At b 2
def qrRetry (b : Bytes) : Nat := bitsOf (u8At b 3) 2 0
def qrRnr (b : Bytes) : Nat := bitsOf (u8At b 3) 5 3
def qrMarkEn (b : Bytes) : Bool := bitOf (u8At b 3) 6
def qrVlan (b : Bytes) : Nat := u16At b 6
def qrMark (b : Bytes) : Nat := u16At b 14
def qrSip (b : Bytes) : Nat := leNat (slice b 32 16)
def qrIp4 (b : Bytes) : Nat := leNat (slice b 44 4)

/-- The record is within the subset (R632, R681), its source address aside. -/
def qpRecordOk (b : Bytes) : Bool :=
  decide (qrPort b < 4) && decide (u8At b 1 < 3) && (qrIpv b == 4 || qrIpv b == 6) && !bitOf (u8At b 3) 7 &&
    decide (1 ≤ u8At b 4) && decide (u8At b 4 ≤ 20) && u8At b 5 == 0 && (decide (qrVlan b < 4096) || qrVlan b == 0xFFFF) &&
    decide (u32At b 48 < 2 ^ 24) && decide (u32At b 52 < 2 ^ 24) && decide (u32At b 56 < 2 ^ 24) && u32At b 60 == 0

/-- QR_SIP is a set address of QR_PORT (R630): its IP address, or its link-local address. -/
def linkLocal (mac : Nat) : Nat :=
  0xFE80 * 2 ^ 112 + ((mac / 2 ^ 24) ^^^ 2 ^ 17) * 2 ^ 40 + 0xFFFE * 2 ^ 24 + mac % 2 ^ 24

def State.sipOk (s : State) (b : Bytes) : Bool :=
  let q := qrPort b
  if qrIpv b = 4 then qrIp4 b != 0 && s.getF Fld.ethIp4 q == qrIp4 b
  else qrSip b != 0 && (s.portIp6 q == qrSip b || (s.portMac q != 0 && linkLocal (s.portMac q) == qrSip b))

/-- An identifier below `n` that is not in use: the first free one from a free start. -/
def freeId (start n : Nat) (used : List Nat) : Nat :=
  ((List.range (used.length + 1)).map fun k => (start + k) % n).find? (fun x => !used.contains x) |>.getD (start % n)

def State.updEth (s : State) (f : EthSt → EthSt) : State := { s with eth := f s.eth }
def State.qp? (s : State) (n : Nat) : Option Qp := kvGet s.eth.qps n
def State.setQp (s : State) (n : Nat) (q : Qp) : State := s.updEth fun e => { e with qps := kvPut e.qps n q }

/-- A queue pair on a port that is not in the error state: the only ones for which a RoCEv2 frame is processed (R629). -/
def State.validQp (s : State) (port n : Nat) : Option Qp :=
  match s.qp? n with
  | some q => if qrPort q.raw = port ∧ q.err = false then some q else none
  | none => none

/-- A queue pair moves to the error state: its requests end. -/
def State.qpError (s : State) (n : Nat) (q : Qp) : State :=
  (s.setQp n { q with err := true, reqs := [], asks := [], writeAt := none }).bump Fld.ethRcQpErr 0 1

/-- QP_CREATE: a record outside the subset, or whose source address is no set address of its port, is refused; else a
queue pair with a number of its own (R630, R632, R681). -/
def execQpCreate (ring seq : Nat) (s : State) : Ans :=
  .next (s.ticketAct ring seq 0x60 fun t s => s.withSource t 64 fun s b bad =>
    if !qpRecordOk b || !s.sipOk b || !bad.isEmpty then s.done t stRange []
    else if 16384 ≤ s.eth.qps.length then s.done t stNoResource []
    else
      let r := s.fresh
      let n := freeId r.1 (2 ^ 24) (r.2.eth.qps.map (·.1))
      let q : Qp := ⟨tkSlot t.raw, b, u32At b 52, u32At b 56, false, 0, false, none, none, none, [], []⟩
      let s1 := r.2.setQp n q
      (s1.setF Fld.ethQpUsed 0 s1.eth.qps.length).done t stOk (dValue n 0))

/-- QP_DESTROY: the queue pair is gone (R678). -/
def execQpDestroy (ring seq : Nat) (s : State) : Ans :=
  .next (s.ticketAct ring seq 0x61 fun t s =>
    match s.qp? (tpArg0 t.raw) with
    | none => s.done t stRange []
    | some _ =>
      let s1 := s.updEth fun e => { e with
        qps := kvDel e.qps (tpArg0 t.raw), waits := e.waits.filter (·.qpn != tpArg0 t.raw), done := kvDel e.done (tpArg0 t.raw) }
      (s1.setF Fld.ethQpUsed 0 s1.eth.qps.length).done t stOk [])

/-- MR_REGISTER: a region of chase data of the slot, or of the host pool for a driver ring (R633, R699). -/
def execMrRegister (ring seq : Nat) (s : State) : Ans :=
  .next (s.ticketAct ring seq 0x62 fun t s =>
    if 4096 ≤ s.eth.mrs.length then s.done t stNoResource []
    else
      let r := s.fresh
      let k := freeId r.1 (2 ^ 32) (r.2.eth.mrs.map (·.1))
      let m : Mr := ⟨if tpSrcSpace t.raw = 2 then some (tkSlot t.raw) else none, tpSrc t.raw, tpLen t.raw, bitOf (tpSub t.raw) 0,
        bitOf (tpSub t.raw) 1, true⟩
      let s1 := r.2.updEth fun e => { e with mrs := kvPut e.mrs k m }
      (s1.setF Fld.ethMrUsed 0 s1.eth.mrs.length).done t stOk (dValue k 0))

/-- MR_DEREGISTER: the region is gone (R678). -/
def execMrDeregister (ring seq : Nat) (s : State) : Ans :=
  .next (s.ticketAct ring seq 0x63 fun t s =>
    match kvGet s.eth.mrs (tpArg0 t.raw) with
    | none => s.done t stRange []
    | some _ =>
      let s1 := s.updEth fun e => { e with mrs := kvDel e.mrs (tpArg0 t.raw) }
      (s1.setF Fld.ethMrUsed 0 s1.eth.mrs.length).done t stOk [])

/-! ### Responder (R629, R632 to R636, R638) -/

/-- Distance of packet `b` after packet `a`; below 2^23 it is not before it. -/
def psnDist (a b : Nat) : Nat := (b + 2 ^ 24 - a % 2 ^ 24) % 2 ^ 24

def State.sendFrame (s : State) (q : Qp) (o : Out) : State := s.transmit (qrPort q.raw) (qrVlan q.raw) (etypeOfIp (qrIpv q.raw)) o

/-- Mbit/s of the mode of a port (R627). -/
def lineRate (mode : Nat) : Nat := if mode = 1 then 200000 else if mode = 2 then 400000 else if mode = 3 then 800000 else 0

/-- rate(): Mbit/s at a level (R637). -/
def State.roceRate (s : State) (line lv : Nat) : Nat := max (s.getF Fld.ethCcMin 0) (line * 15 ^ lv / 16 ^ lv)

/-- The rate at which a queue pair sends (R637). -/
def State.qpRate (s : State) (q : Qp) : Nat := s.roceRate (lineRate (s.getF Fld.ethEffMode (qrPort q.raw))) q.lv

/-- Answer a packet with an acknowledgement or a NAK. -/
def State.answer (s : State) (n : Nat) (q : Qp) (psn nak : Nat) : State := s.sendFrame q (.roceAck (qrPort q.raw) n psn nak)

/-- At most one congestion notification per interval for a queue pair that receives marked packets (R638); one that the egress filter
holds back is not counted as sent. -/
def State.notifyEcn (s : State) (port n : Nat) (ecn : Bool) (q : Qp) : State :=
  let due := match q.cnpAt with
    | some t => decide (t + 1000 * s.getF Fld.ethCcCnpUs 0 ≤ s.upNs)
    | none => true
  if ecn && due then
    ((s.setQp n { q with cnpAt := some s.upNs }).sendFrame q (.cnp port n)).bump Fld.ethRcCnpTx 0
      (natOfBool (s.mayTransmit (qrPort q.raw) (qrVlan q.raw) (etypeOfIp (qrIpv q.raw))))
  else s

/-- A RoCEv2 request in a frame that the MAC accepts, for a valid queue pair: congestion, features outside the subset, the order of packets. `f` handles the
packet expected next, `again` one that has come before. -/
def State.roceIn (s : State) (p : RocePkt) (f : Qp → State → State) (again : Qp → State → State) : State :=
  if !s.portUp p.port then s
  else match (if frameOk p.bytes p.tags then s.validQp p.port p.qpn else none) with
    | none => s.rxDrop p.port
    | some q0 =>
      let s1 := s.notifyEcn p.port p.qpn p.ecn q0
      let q := (s1.qp? p.qpn).getD q0
      let d := psnDist q.rxPsn p.psn
      if d = 0 then (if p.unsupported then s1.answer p.qpn q p.psn 1 else f q s1)
      else if d < 2 ^ 23 then s1.answer p.qpn q q.rxPsn 3
      else again q s1

/-- The HBM lines of a run that wait for the host (R647). -/
def State.waitingLines (s : State) : List Nat := (s.host.heldWrites.map (·.line)).eraseDups

/-- A completed SEND signals the mark of the receive queue with a = 1 (R635). -/
def State.recvMark (s : State) (q : Qp) : State :=
  if !qrMarkEn q.raw then s
  else match s.markOf q.slot (s.activeCtx q.slot) (qrMark q.raw) with
    | some m => s.signalMark m 1
    | none => s

/-- The region of a key that allows a remote access to a run (R633, R636). -/
def State.mrFor (s : State) (write : Bool) (key a n : Nat) : Option Mr :=
  match kvGet s.eth.mrs key with
  | some m =>
    if m.valid && (if write then m.wr else m.rd) && decide (m.base ≤ a) && decide (a + n ≤ m.base + m.len) then some m else none
  | none => none

/-- Read a run of a memory region through the home slices: the bytes, and the poisoned offsets. -/
def State.mrRead (s : State) (m : Mr) (a n : Nat) : Bytes × Bool :=
  match m.slot with
  | some c => s.chaseRead c a n
  | none => (s.haRead a n, !(badParts s.devBad a n).isEmpty)

/-- The packets of a READ's response, up to the first that holds poison (R813). -/
def State.readPackets (s : State) (n : Nat) (q : Qp) (m : Mr) (psn : Nat) : List (Nat × Nat × Nat) → State × Bool
  | [] => (s, true)
  | (k, a, len) :: t =>
    let r := s.mrRead m a len
    if r.2 then (s, false)
    else State.readPackets (s.sendFrame q (.roceData (qrPort q.raw) n ((psn + k) % 2 ^ 24) r.1 (s.qpRate q))) n q m psn t

/-- The packets of a READ's response. -/
def readCount (q : Qp) (len : Nat) : Nat := max 1 (ceilDiv len (qrMtu q.raw))

/-- Answer a READ of a run by its key: the region must allow it, and nothing poisoned leaves (R634, R636, R813). -/
def State.serveRead (s : State) (n : Nat) (q : Qp) (psn key a len : Nat) : State :=
  match s.mrFor false key a len with
  | none => s.answer n q psn 2
  | some m =>
    let mtu := qrMtu q.raw
    let s1 := match m.slot with
      | some c => s.noteDma c a len
      | none => s.cacheHa a len
    match s1.readPackets n q m psn ((List.range (readCount q len)).map fun i => (i, a + mtu * i, min mtu (len - mtu * i))) with
    | (s2, true) => s2
    | (s2, false) =>
      let s3 := s2.answer n q psn 2
      s3.qpError n ((s3.qp? n).getD q)

/-- The request completed last on a queue pair ends with a packet; one completed once more is not the last. -/
def State.noteDone (s : State) (n psn : Nat) : State :=
  if ((kvGet s.eth.done n).map fun d => decide (2 ^ 23 ≤ psnDist d psn)).getD false then s
  else s.updEth fun e => { e with done := kvPut e.done n (psn % 2 ^ 24) }

/-- Complete a request: a READ is answered; the acknowledgement of any other goes, and a SEND signals its mark. -/
def State.roceComplete (s : State) (w : RoceWait) : State :=
  match s.qp? w.qpn with
  | none => s
  | some q =>
    if q.err then s
    else match w.read with
      | some (k, a, len) =>
        (s.ifB (s.mrFor false k a len).isSome fun s => s.noteDone w.qpn (w.psn + readCount q len - 1)).serveRead w.qpn q w.psn k a len
      | none => ((s.noteDone w.qpn w.psn).answer w.qpn q w.psn 0).ifB w.send fun s => s.recvMark q

/-- Complete the waiting requests whose data is visible, in the order in which each queue pair received them (R634). -/
def State.roceVisible (s : State) : State :=
  let held := s.waitingLines
  let ok (w : RoceWait) : Bool := w.lines.all fun l => !held.contains l
  let step (a : List RoceWait × List RoceWait) (w : RoceWait) : List RoceWait × List RoceWait :=
    if ok w && !a.2.any (fun x => x.qpn == w.qpn) then (a.1 ++ [w], a.2) else (a.1, a.2 ++ [w])
  let r := s.eth.waits.foldl step ([], [])
  r.1.foldl State.roceComplete (s.updEth fun e => { e with waits := r.2 })

/-- A request has come whole: it completes once those before it on the queue pair have and its data is visible (R634). -/
def State.roceDone (s : State) (w : RoceWait) : State :=
  (s.updEth fun e => { e with waits := e.waits ++ [w] }).roceVisible

/-- A packet of a SEND or WRITE that has come before: the acknowledgement of the request completed last goes again where it covers the
packet; one that is not visible yet is acknowledged when it is (R634). -/
def State.answerAgain (s : State) (p : RocePkt) (q : Qp) : State :=
  match kvGet s.eth.done p.qpn with
  | some d => if psnDist p.psn d < 2 ^ 23 then s.answer p.qpn q d 0 else s
  | none => s

/-- A packet of queue pair `n` has been taken. -/
def State.rxNext (s : State) (n : Nat) (q : Qp) (k : Nat) (w : Option (Nat × Nat × Nat)) : State :=
  s.setQp n { q with rxPsn := (q.rxPsn + k) % 2 ^ 24, writeAt := w }

/-- SEND: each packet is taken in order; the last completes the message and signals the bound mark (R635). -/
def execSend (p : RocePkt) (s : State) : Ans :=
  .next (s.roceIn p
    (fun q s =>
      let s1 := s.rxNext p.qpn q 1 none
      if p.last then s1.roceDone ⟨p.qpn, p.psn, true, [], none⟩ else s1)
    fun q s => s.answerAgain p q)

/-- Write a run of a memory region through the home slices (R634, R477). -/
def State.mrWrite (s : State) (m : Mr) (a : Nat) (bs : Bytes) : State :=
  match m.slot with
  | some c => s.plateStore c a bs
  | none => s.devWrite a bs

/-- RDMA_WRITE: the run lies in a region that allows it, or a NAK for a remote access error answers; the data passes through
the home slices, and the acknowledgement of the message goes once it is visible (R634, R636). -/
def execRdmaWrite (p : RocePkt) (s : State) : Ans :=
  .next (s.roceIn p
    (fun q s =>
      match (if p.first then some (p.rkey, p.addr, p.len) else q.writeAt) with
      | none => s.answer p.qpn q p.psn 1
      | some (k, a, left) =>
        match s.mrFor true k a left with
        | none => s.answer p.qpn q p.psn 2
        | some m =>
          let n := min p.data.length left
          let s1 := s.mrWrite m a (p.data.take n)
          let s2 := s1.rxNext p.qpn q 1 (if p.last then none else some (k, a + n, left - n))
          if p.last then s2.roceDone ⟨p.qpn, p.psn, false, s2.waitingLines, none⟩ else s2)
    fun q s => s.answerAgain p q)

/-- Take a READ: it is answered in its turn. A 17th that waits on one queue pair is outside the subset (R632). -/
def State.answerRead (s : State) (p : RocePkt) (q : Qp) (fresh : Bool) : State :=
  if 16 ≤ (s.eth.waits.filter fun w => w.qpn == p.qpn && w.read.isSome).length then s.answer p.qpn q p.psn 1
  else
    let ok := fresh && (s.mrFor false p.rkey p.addr p.len).isSome
    (if ok then s.rxNext p.qpn q (readCount q p.len) none else s).roceDone ⟨p.qpn, p.psn, false, [], some (p.rkey, p.addr, p.len)⟩

/-- RDMA_READ: answered from a region that allows it, after the requests before it (R634, R636); a packet that holds poison is not sent,
and the queue pair ends with a remote access error (R813). -/
def execRdmaRead (p : RocePkt) (s : State) : Ans :=
  .next (s.roceIn p (fun q s => s.answerRead p q true) fun q s => s.answerRead p q false)

/-! ### Resolution and other frames (R629, R630) -/

/-- ARP: the port answers for its IPv4 address; any other request is dropped and counted. -/
def execArp (f : AskFrame) (s : State) : Ans :=
  .next (s.ifB (s.portUp f.port) fun s =>
    if frameOk f.bytes f.tags && f.target != 0 && s.getF Fld.ethIp4 f.port == f.target then
      s.transmit f.port 0xFFFF 0x0806 (.addrReply f.port f.target (s.portMac f.port) f.srcMac)
    else s.rxDrop f.port)

/-- NEIGHBOUR_DISCOVERY: the port answers for its IPv6 address and for its link-local address. -/
def execNeighbourDiscovery (f : AskFrame) (s : State) : Ans :=
  .next (s.ifB (s.portUp f.port) fun s =>
    if frameOk f.bytes f.tags && f.target != 0 && (s.portIp6 f.port == f.target || (s.portMac f.port != 0 && linkLocal (s.portMac f.port) == f.target)) then
      s.transmit f.port 0xFFFF 0x86DD (.addrReply f.port f.target (s.portMac f.port) f.srcMac)
    else s.rxDrop f.port)

/-- A priority flow control frame that the MAC acts on (R628): flow control is on, for the priority that the frame names. How long it
holds frames back is timing. -/
def State.pfcTakes (s : State) (f : EthFrame) : Bool :=
  frameOk f.bytes f.tags && s.flag Fld.ethPfcEn f.port && f.pfc == some (s.getF Fld.ethPfcPrio f.port)

/-- OTHER_FRAME: dropped and counted (R629), but for a flow control frame that is the MAC's (R628). -/
def execOtherFrame (f : EthFrame) (s : State) : Ans :=
  .next (s.ifB (s.portUp f.port && !s.pfcTakes f) fun s => s.rxDrop f.port)

/-- ETH_RETRAIN: the port takes up ETH_MODE; `up` says whether the link comes up, which it cannot in mode 0 (R627). -/
def execEthRetrain (port : Nat) (up : Bool) (s : State) : Ans :=
  .next (s.ifB (s.isUp && decide (port < 4)) fun s =>
    let m := s.getF Fld.ethMode port
    (s.setF Fld.ethEffMode port m).setF Fld.ethUp port (natOfBool (up && m != 0)))

/-! ### Requester and congestion (R632, R637) -/

/-- A frame of a requester's exchange for a queue pair: one that the MAC accepts, for a valid queue pair; a congestion mark is
answered (R638). -/
def State.roceBack (s : State) (e : EthFrame) (n : Nat) (f : Qp → State → State) : State :=
  if !s.portUp e.port then s
  else match (if frameOk e.bytes e.tags then s.validQp e.port n else none) with
    | none => s.rxDrop e.port
    | some q =>
      let s1 := s.notifyEcn e.port n e.ecn q
      f ((s1.qp? n).getD q) s1

/-- CNP: on_cnp (R637). -/
def execCnp (f : EthFrame) (qpn : Nat) (s : State) : Ans :=
  .next (s.roceBack f qpn fun q s =>
    let now := s.upNs / 1000
    let drop := match q.dropAt with
      | some t => decide (s.getF Fld.ethCcHoldUs 0 ≤ now - t)
      | none => true
    let q1 : Qp := if drop then { q with lv := min 63 (q.lv + s.getF Fld.ethCcDrop 0), dropAt := some now } else q
    (s.setQp qpn { q1 with heard := true }).bump Fld.ethRcCnpRx 0 1)

/-- CLIMB_TICK: on_climb_tick (R637). -/
def execClimbTick (qpn : Nat) (s : State) : Ans :=
  .next (s.ifB s.isUp fun s =>
    match s.qp? qpn with
    | some q => s.setQp qpn { q with lv := if q.heard then q.lv else q.lv - 1, heard := false }
    | none => s)

/-- Send the requests that are outstanding again, or give up where the retries are used up: `limit` retries, of which `used`
have been made (R632). -/
def State.roceRetry (s : State) (n : Nat) (q : Qp) (rnr : Bool) : State :=
  match q.reqs with
  | [] => s
  | r :: t =>
    let used := if rnr then r.rnr else r.retries
    let limit := if rnr then qrRnr q.raw else qrRetry q.raw
    if limit ≤ used then s.qpError n q
    else
      let r1 : RoceReq := if rnr then { r with rnr := r.rnr + 1 } else { r with retries := r.retries + 1 }
      let reqs := (r1 :: t).map fun x => { x with got := 0 }
      ((s.setQp n { q with reqs := reqs }).bump Fld.ethRcRetx 0 1).sendFrame q (.roceResend n r.first (reqs.getLastD r1).last (s.qpRate q))

/-- ROCE_ACK_TIMEOUT: no acknowledgement of the oldest request has come within 4.096 µs × 2^t (R632). -/
def execRoceAckTimeout (qpn : Nat) (s : State) : Ans :=
  .next (s.ifB s.isUp fun s =>
    match s.qp? qpn with
    | some q => if q.err then s else s.roceRetry qpn q false
    | none => s)

/-! ### Requests of the resident cores (R632, R695) -/

/-- The packets of a SEND or WRITE, each with its data; data that holds poison is not sent and the queue pair moves to the error state
(DESIGN CHOICE, log 160: R813 says so of a READ response alone). -/
def State.sendPackets (s : State) (a : CoreAsk) (q : Qp) (last : Nat) : List (Nat × Nat × Nat) → State
  | [] => s
  | (k, at_, len) :: t =>
    let r := s.chaseRead q.slot at_ len
    if r.2 then s.qpError a.qpn ((s.qp? a.qpn).getD q)
    else State.sendPackets (s.sendFrame q (.roceRequest (qrPort q.raw) a.qpn ((q.txPsn + k) % 2 ^ 24) last a.op a.raddr a.rkey a.len r.1
      (s.qpRate q))) a q last t

/-- Start a request: it takes the next packets; a READ is one packet, a SEND or WRITE carries its data, read through the home slices. -/
def State.startAsk (s : State) (a : CoreAsk) (q : Qp) : State :=
  let mtu := qrMtu q.raw
  let k := readCount q a.len
  let last := (q.txPsn + k - 1) % 2 ^ 24
  let s1 := s.setQp a.qpn { q with txPsn := (last + 1) % 2 ^ 24, reqs := q.reqs ++ [⟨q.txPsn, last, a.op == .read, a.addr, q.slot, 0, 0, 0⟩] }
  if a.op = .read then
    s1.sendFrame q (.roceRequest (qrPort q.raw) a.qpn q.txPsn last a.op a.raddr a.rkey a.len [] (s.qpRate q))
  else (s1.noteDma q.slot a.addr a.len).sendPackets a q last ((List.range k).map fun i => (i, a.addr + mtu * i, min mtu (a.len - mtu * i)))

/-- 16 READs of a queue pair are outstanding (R632). -/
def Qp.readsFull (q : Qp) : Bool := decide (16 ≤ (q.reqs.filter (·.read)).length)

/-- A request of a resident core on a queue pair: a READ behind 16 outstanding ones waits, and so does what comes after it. -/
def State.coreAsk (s : State) (a : CoreAsk) : State :=
  match s.qp? a.qpn with
  | none => s
  | some q =>
    if q.err then s
    else if !q.asks.isEmpty || (a.op == .read && q.readsFull) then s.setQp a.qpn { q with asks := q.asks ++ [a] }
    else s.startAsk a q

/-- Start up to `n` of the requests that wait on a queue pair. -/
def State.nextAsks (s : State) (qpn : Nat) : Nat → State
  | 0 => s
  | n + 1 => match s.qp? qpn with
    | some q => match q.asks with
      | a :: t =>
        if q.err || (a.op == .read && q.readsFull) then s
        else State.nextAsks ((s.setQp qpn { q with asks := t }).startAsk a { q with asks := t }) qpn n
      | [] => s
    | none => s

/-- ROCE_ACKNOWLEDGEMENT: an acknowledgement completes every SEND and WRITE up to its packet; a sequence NAK (3) or one of a
receiver that is not ready (4) sends again; any other NAK moves the queue pair to the error state (R632). -/
def execRoceAcknowledgement (f : EthFrame) (qpn psn nak : Nat) (s : State) : Ans :=
  .next (s.roceBack f qpn fun q s =>
    if nak = 0 then s.setQp qpn { q with reqs := q.reqs.filter fun r => r.read || decide (2 ^ 23 ≤ psnDist r.last psn) }
    else if nak = 3 ∨ nak = 4 then s.roceRetry qpn q (nak == 4)
    else s.qpError qpn q)

/-- READ_RESPONSE: the packet that a READ expects next is written to the requester's memory; the last one completes it, and a request that waits
for that goes. -/
def execReadResponse (f : EthFrame) (qpn psn : Nat) (data : Bytes) (s : State) : Ans :=
  .next (s.roceBack f qpn fun q s =>
    match q.reqs.find? fun r => r.read && (r.first + r.got / qrMtu q.raw) % 2 ^ 24 == psn % 2 ^ 24 with
    | none => s
    | some r =>
      let s1 := s.plateStore r.slot (r.addr + r.got) data
      let fin := psn % 2 ^ 24 == r.last
      (s1.setQp qpn { q with reqs :=
        if fin then q.reqs.erase r else q.reqs.map fun x => if x == r then { r with got := r.got + data.length } else x }).nextAsks
        qpn q.asks.length)

/-! ### The resident cores (R682, R695) -/

/-- CORE_JOB: the inline data goes to the resident cores unchecked; the tickets that they post in consequence and their
requests on queue pairs, as their firmware decides, follow (R682, R695). D_VALUE is as the firmware defines. -/
def execCoreJob (ring seq : Nat) (posts : List (Nat × Bytes)) (asks : List CoreAsk) (s : State) : Ans :=
  .next (s.ticketAct ring seq 0x70 fun t s =>
    let s1 := s.emit (.coreJob (slice (tkInline t.raw) 0 (tkInlineLen t.raw)))
    let s2 := posts.foldl (fun s p => if p.1 < 16 then s.postTickets (256 + p.1) [slice p.2 0 512] else s) s1
    let s3 := asks.foldl State.coreAsk s2
    let r := s3.freshBytes 12
    r.2.done t stOk r.1)

end Sys2Proof.Machine
end

