-- ==== Sys2Proof/Machine/Links.lean ====
section
/-! DEFINITION. Holtend links (R570 to R594): training, retry, credits, bundles; discovery (R600 to R607): hellos, link-state
records, settlement. -/

namespace Sys2Proof.Machine

/-! ### Sending link messages -/

/-- Initial credits of the eight channels (R584). -/
def initialCredits : List Nat := [8, 16, 16, 96, 32, 32, 28, 28]

/-- A link flit (R587): to the neighbour only. -/
def linkFlit (typ arg : Nat) : Flit :=
  { typ := typ, vc := 0, dim := 0, seq := 0, ack := 0, nak := false, cr0 := 0, cr1 := 0, dst := 0, src := 0, hops := 0
    plen := 0, index := 0, last := true, chase := 0, msg := 0, arg := arg, payload := [] }

/-- The stamp of a TIME message that the sender takes at the serialiser (R621): t1 of step 1, t3 of step 2. -/
def Out.stamped (o : Out) (now : Nat) : Out :=
  match o with
  | .timeMsg l step stamps h k r => .timeMsg l step (if step = 1 then [now] else if step = 2 then stamps.set 2 now else stamps) h k r
  | o => o

/-- The child keeps t3, taken as step 2 goes out (R621, R622). -/
def State.noteStamp (s : State) (o : Out) : State :=
  match o with
  | .timeMsg _ 2 _ _ _ _ => s.updTime fun t => { t with t3 := s.nowFine }
  | _ => s

/-- Send the first `n` link messages that wait for a credit of VC 0. -/
def State.flushLink (s : State) (l : Nat) : Nat → State
  | 0 => s
  | n + 1 => match (s.link l).waitOut with
    | m :: t =>
      if s.credit l 0 = 0 then s
      else State.flushLink ((((s.updLink l fun k => { k with waitOut := t }).sendOn l (linkFlit m.1 m.2.1)).emit
        (m.2.2.stamped s.nowFine)).noteStamp m.2.2) l n
    | [] => s

/-- Send a link message on a link that carries VC 0. -/
def State.sendLink (s : State) (l typ arg : Nat) (o : Out) : State :=
  let s1 := s.updLink l fun k => { k with waitOut := k.waitOut ++ [(typ, arg, o)] }
  s1.flushLink l (s1.link l).waitOut.length

/-- The link carries VC 0 (R573). -/
def State.linkCarries (s : State) (l : Nat) : Bool := s.linkRuns l || s.getF Fld.hlkLkState l == lkIsolated

/-! ### Bundles (R571, R572) -/

def ownSerial : Nat := Config.serial.toNat

/-- The links that may be in a bundle: link, die and neighbour. -/
def State.bundleable (s : State) : List (Nat × Nat × Hello) :=
  s.fab.links.filterMap fun e => match e.2.peer with
    | some p => if s.linkRuns e.1 then some (e.1, e.1 / 48, p) else none
    | none => none

/-- The bundles: each a list of links in increasing number. -/
def bundlesOf (ls : List (Nat × Nat × Hello)) : List (List (Nat × Nat × Hello)) :=
  let keys := (ls.map fun e => (e.2.1, e.2.2.serial)).eraseDups
  keys.flatMap fun k => pieces 16 (ls.filter fun e => e.2.1 == k.1 && e.2.2.serial == k.2)

/-- The ID of a bundle. -/
def bundleId (b : List (Nat × Nat × Hello)) : Nat := (b.map (·.1)).foldl min 127

/-- The bundles of this device as its link-state record lists them (R603): the neighbour's bundle ID is the lowest link
number of its end. -/
def State.lsrBundles (s : State) : List LsrBundle :=
  (bundlesOf s.bundleable).map fun b =>
    ⟨bundleId b, b.length, (b.head?.map fun e => e.2.2.serial).getD 0, (b.map fun e => e.2.2.link).foldl min 127⟩

/-- Whether a bundle appears in the route tables in force. Tables from before a settlement that left the device without a node ID are not
(R617). -/
def State.inTables (s : State) (b : Nat) : Bool :=
  s.fab.built && s.regs.any fun e =>
    decide (0x1090000 ≤ e.1) && decide (e.1 < 0x1091000) && bitOf e.2.toNat 63 &&
      ((routeCands e.2.toNat).contains b || routeEsc e.2.toNat == some b)

/-! ### The database (R603, R604) -/

def State.ownLsr (s : State) : Option Lsr := (s.fab.lsdb.find? fun e => e.1.serial == ownSerial).map (·.1)

/-- What makes two records of a device different for the database: all but the generation, and the node ID only where an
installer assigned it. -/
def Lsr.same (a b : Lsr) : Bool :=
  a.name == b.name && a.bundles == b.bundles && (a.ndState == 1) == (b.ndState == 1) && (a.ndState != 1 || a.node == b.node)

/-- The database has changed: it is collected anew (R604). -/
def State.dbChanged (s : State) : State :=
  let l := s.fab.lsdb.map fun e => e.1.serial
  ((s.updFab fun x => { x with changedAt := s.upNs }).bump Fld.hlkDsChanges 0 1).setFs 0 [(Fld.hlkDsState, 1), (Fld.hlkDsDevices, l.length), (Fld.hlkRootSerial, l.foldl min ownSerial)]

/-- Insert into a database sorted by serial number. -/
def lsdbPut : List (Lsr × Nat) → Lsr → Nat → List (Lsr × Nat)
  | [], r, t => [(r, t)]
  | e :: l, r, t => if r.serial < e.1.serial then (r, t) :: e :: l else if r.serial = e.1.serial then (r, t) :: l
    else e :: lsdbPut l r t

/-- Keep a record; a different content is a change of the database. -/
def State.keepLsr (s : State) (r : Lsr) : State :=
  let old := (s.fab.lsdb.find? fun e => e.1.serial == r.serial).map (·.1)
  let s1 := s.updFab fun x => { x with lsdb := lsdbPut x.lsdb r s.upNs }
  if (old.map fun o => o.same r).getD false then s1 else s1.dbChanged

/-- Flood a record on every LINKED and ACTIVE link but one (R603). -/
def State.flood (s : State) (r : Lsr) (but : Nat) : State :=
  ((List.range 96).filter fun l => l != but && s.linkRuns l).foldl (fun s l => s.sendLink l 0x02 r.gen (.lsr l r)) s

/-- This device's record (R603): its node ID is the installer's, else the one it holds; the generation is a u32. -/
def State.lsrOf (s : State) : Lsr :=
  ⟨ownSerial, s.getF Fld.hlkFbName 0, s.sec.settings.node.getD (if s.hasNode then s.nodeId else 0),
    if s.sec.settings.node.isSome then 1 else if s.hasNode then s.getF Fld.hlkNdState 0 else 0, (s.fab.ownGen + 1) % 2 ^ 32, s.lsrBundles⟩

/-- Originate this device's record (R603). -/
def State.originate (s : State) : State :=
  ((s.updFab fun x => { x with ownGen := (x.ownGen + 1) % 2 ^ 32 }).keepLsr s.lsrOf).flood s.lsrOf 255

/-- The bundles that keep their links but have a new lowest one: old and new ID, with the dimension tag and dateline bit of the old. The
bundles of a die to one neighbour keep their order. -/
def State.renamed (s : State) (bs : List (List (Nat × Nat × Hello))) : List (Nat × Nat × Nat × Nat) :=
  let key (b : List (Nat × Nat × Hello)) : Option (Nat × Nat) := b.head?.map fun e => (e.2.1, e.2.2.serial)
  let ids (k : Option (Nat × Nat)) : List Nat :=
    let l := (bs.filter fun b => key b == k).flatten.map fun e => s.getF Fld.hlkLkBundle e.1
    (List.range 96).filter l.contains
  ((bs.map key).eraseDups.flatMap fun k => (ids k).zip ((bs.filter fun b => key b == k).map bundleId)).filterMap fun e =>
    if e.1 = e.2 then none else some (e.1, e.2, s.getF Fld.hlkBdDim e.1, s.getF Fld.hlkBdDateline e.1)

/-- A route table entry with its valid bundle IDs renamed. -/
def renameEntry (m : List (Nat × Nat × Nat × Nat)) (w : Nat) : Nat :=
  (List.range 5).foldl (fun w k =>
    let b := bitsOf w (8 * k + 7) (8 * k)
    match (if bitOf b 7 then m.find? fun e => e.1 == b % 128 else none) with
    | some e => w - b * 2 ^ (8 * k) + (128 + e.2.1) * 2 ^ (8 * k)
    | none => w) w

/-- A link that joins or leaves a bundle changes nothing in routing (R572): entries that name the bundle by the lowest link that it had
name it by the one that it has. -/
def State.renameTables (s : State) (m : List (Nat × Nat × Nat × Nat)) : State :=
  if m.isEmpty then s
  else
    let s1 := (List.range 256).foldl (fun s i =>
      let w := s.rd .hlkRtMember i
      if renameEntry m w = w then s else s.wr .hlkRtMember i (renameEntry m w)) s
    (List.range 128).foldl (fun s i =>
      let w := s.rd .hlkRtGroup i
      if renameEntry m w = w then s else s.wr .hlkRtGroup i (renameEntry m w)) s1

/-- A link becomes ACTIVE (R573): the credits of the channels other than VC 0 are full again (R585), and flits that waited for that are
sent again (R582). -/
def State.activate (s : State) (l : Nat) : State :=
  let k := s.link l
  let s1 := (s.setF Fld.hlkLkState l lkActive).updLink l fun k => { k with
    credits := initialCredits.set 0 (k.credits.getD 0 0), again := false }
  if k.again then s1.resendFrom l true ((k.unacked.map (·.1)).drop k.sendable.length) else s1

/-- A link enters LINKED: the credits of VC 0 are full again (R573, R585). -/
def State.enterLinked (s : State) (l : Nat) : State :=
  (s.setF Fld.hlkLkState l lkLinked).updLink l fun k => { k with credits := k.credits.set 0 8 }

/-- Work the bundles out again; where they have changed the device originates its record (R571, R603). A link whose bundle
appears in the route tables in force is ACTIVE (R573). -/
def State.rebundle (s : State) : State :=
  let bs := bundlesOf s.bundleable
  let old := (s.ownLsr.map fun r => r.bundles).getD []
  let m := s.renamed bs
  let s1 := (List.range 96).foldl (fun s l =>
    let b := ((bs.find? fun b => b.any fun e => e.1 == l).map bundleId).getD 127
    if s.getF Fld.hlkLkBundle l = b then s else s.setF Fld.hlkLkBundle l b) (s.renameTables m)
  let up := bs.foldl (fun s b => if s.inTables (bundleId b) then b.foldl (fun s e =>
      if s.getF Fld.hlkLkState e.1 = lkLinked then s.activate e.1 else s) s else s) s1
  let s2 := (List.range 96).foldl (fun s i =>
    match bs.find? fun b => bundleId b == i with
    | some b => s.setFs i [(Fld.hlkBdValid, 1), (Fld.hlkBdLinks, (b.filter fun e => s.getF Fld.hlkLkState e.1 == lkActive).length),
        (Fld.hlkBdPeerNode, (b.head?.map fun e => e.2.2.node).getD 0)]
    | none => s.wr .hlkBundle i 0) up
  let s3 := m.foldl (fun s e => s.setFs e.2.1 [(Fld.hlkBdDim, e.2.2.1), (Fld.hlkBdDateline, e.2.2.2)]) s2
  let s4 := if s3.lsrBundles = old then s3 else s3.originate
  s4.chooseParent.retryHeld

/-! ### Isolation (R573, R602, R606) -/

/-- Why a link with a known neighbour is isolated: 1 fabric name, 2 no node ID, 3 conflict, 4 shape; 0: it is not. A device
that has not yet settled is discovering, not without an ID. -/
def State.isolation (s : State) (l : Nat) (h : Hello) : Nat :=
  let st := s.getF Fld.hlkNdState 0
  if h.name != s.getF Fld.hlkFbName 0 then 1
  else if st = 3 ∨ h.ndState = 3 then 3
  else if 4 ≤ st ∨ 4 ≤ h.ndState then 2
  else if s.getF Fld.hlkLkIsolate l = 4 then 4
  else 0

/-- A link in LINKED, ACTIVE or ISOLATED takes the state that its neighbour's HELLO and this device's node state call for. -/
def State.placeLink (s : State) (l : Nat) : State :=
  match (s.link l).peer with
  | none => s
  | some h =>
    if !s.linkCarries l then s
    else
      let i := s.isolation l h
      let s1 := if s.getF Fld.hlkLkIsolate l = i then s else s.setF Fld.hlkLkIsolate l i
      if i != 0 then s1.setF Fld.hlkLkState l lkIsolated
      else if s.getF Fld.hlkLkState l = lkIsolated then s1.enterLinked l else s1

/-- The fabric condition of READY (R837). -/
def State.fabricOk (s : State) : Bool :=
  s.getF Fld.hlkDsState 0 == 4 && s.fab.links.all fun e => e.2.tried || s.getF Fld.hlkLkState e.1 != lkTraining

/-- The fabric condition is met: SYS_RDY_NO_FABRIC clears (R838). -/
def State.noteFabric (s : State) : State :=
  if s.fabricOk then s.setFs 0 [(Fld.sysDoneFabric, 1), (Fld.sysRdyNoFabric, 0)] else s

/-! ### Going down, retraining (R573, R582, R583) -/

/-- The flits that a link has not got acknowledged go back into routing, as if each had just arrived; link flits, which are for
the neighbour of that link alone, are lost (R583). A device without a node ID forwards nothing (R606). -/
def State.reroute (s : State) (fs : List Flit) : State :=
  if !s.hasNode then s
  else (fs.filter fun f => f.vc != 0).foldl (fun s f => if f.dst = s.nodeId then s.deliverFlit f else s.routeFrom f 255 0) s

/-- Send the unacknowledged flits of a link on other links of its bundle: each on the one with the most credits of its channel;
a flit that finds no credit waits in routing (R582). -/
def State.resendOn (s : State) (links : List Nat) (fs : List Flit) : State :=
  fs.foldl (fun s f =>
    let best := links.foldl (fun m l => if (m.map fun x => s.credit x f.vc).getD 0 < s.credit l f.vc then some l else m) none
    match best with
    | some l => s.sendOn l f
    | none => if f.vc = 0 then s else s.updFab fun x => { x with held := x.held ++ [(f, 255, 0)] }) s

/-- A link leaves the states that carry traffic: what it showed of its neighbour goes. -/
def State.unlink (s : State) (l st : Nat) : State :=
  ((s.setFs l [(Fld.hlkLkState, st), (Fld.hlkLkBundle, 127), (Fld.hlkLkPeerLink, 0), (Fld.hlkLkPeerNode, 0),
    (Fld.hlkLkPeerValid, 0), (Fld.hlkLkIsolate, 0)]).setF Fld.hlkLkPeerSerial l 0).updLink l fun k => { k with peer := none, waitOut := [] }

/-- A link goes DOWN (R573, R583); one that was up is logged (R815). -/
def State.linkDown (s : State) (l : Nat) : State :=
  let fs := (s.link l).unacked.map (·.1)
  let was := s.linkCarries l || (s.link l).failed != 0
  let s0 := if was then s.logErr ⟨0x0E, sevDegraded, 5, whereLink l, 0, 0, 0xFF, 0, 0⟩ else s
  let s1 := (s0.unlink l lkDown).updLink l fun k => { LinkSt.empty with signal := k.signal, tried := k.tried }
  s1.rebundle.reroute fs

/-- A link retrains: its unacknowledged flits are sent on the other links of its bundle, if there are any (R582). -/
def State.retrain (s : State) (l n : Nat) : State :=
  let b := s.getF Fld.hlkLkBundle l
  let others := if b = 127 then [] else (s.bundleLinks b).filter (· != l)
  let fs := if others.isEmpty then [] else (s.link l).unacked.map (·.1)
  let s1 := ((s.unlink l lkTraining).bump Fld.hlkLkRetrains l 1).updLink l fun k => { k with
    failed := n, naks := [], unacked := if others.isEmpty then k.unacked else [] }
  s1.rebundle.resendOn others fs

/-- A link may train: it has signal and its cap is not 0 (R626, R836). -/
def State.mayTrain (s : State) (l : Nat) : Bool := s.isUp && decide (l < 96) && s.getF Fld.hlkLkCap l != 0 && (s.link l).signal

/-- SIGNAL_PRESENT: a link sees signal; in BRING_UP and READY a link that is DOWN enters TRAINING (R836). -/
def execSignalPresent (link : Nat) (s : State) : Ans :=
  .next (s.ifB (s.live && decide (link < 96)) fun s =>
    let s1 := s.updLink link fun k => { k with signal := true, tried := k.tried || s.isUp }
    if s1.mayTrain link && s1.getF Fld.hlkLkState link == lkDown then s1.setF Fld.hlkLkState link lkTraining else s1)

/-- LOSS_OF_SIGNAL: for 1 µs (R573). -/
def execLossOfSignal (link : Nat) (s : State) : Ans :=
  .next (s.ifB (s.live && decide (link < 96)) fun s =>
    let s1 := s.updLink link fun k => { k with signal := false }
    if s1.getF Fld.hlkLkState link = lkDown then s1 else (s1.linkDown link).noteFabric)

/-- TRAINING_RETRY: a link that is DOWN with signal trains again (R836). -/
def execTrainingRetry (link : Nat) (s : State) : Ans :=
  .next (s.ifB (s.mayTrain link && s.getF Fld.hlkLkState link == lkDown) fun s =>
    (s.updLink link fun k => { k with failed := 0 }).setF Fld.hlkLkState link lkTraining)

/-! ### Hellos (R601, R602, R624) -/

/-- The HELLO that the device sends on a link. -/
def State.helloOf (s : State) (l : Nat) : Hello :=
  ⟨ownSerial, s.getF Fld.hlkFbName 0, s.nodeId, s.getF Fld.hlkNdState 0, l, l / 48, s.getF Fld.hlkTtHops 0, s.timeSt, s.timeRoot⟩

/-- A neighbour's HELLO: what the registers show of it, isolation, bundles, the time parent. -/
def State.takeHello (s : State) (l : Nat) (h : Hello) : State :=
  let valid := h.ndState = 1 ∨ h.ndState = 2
  let s1 := s.setFs l [(Fld.hlkLkPeerLink, h.link), (Fld.hlkLkPeerNode, if valid then h.node else 0),
    (Fld.hlkLkPeerValid, if valid then 1 else 0)]
  (((s1.setF Fld.hlkLkPeerSerial l h.serial).updLink l fun k => { k with peer := some h }).placeLink l).rebundle

/-- HELLO: from the neighbour of a link. -/
def execHello (link : Nat) (h : Hello) (s : State) : Ans :=
  .next (s.ifB (s.isUp && decide (link < 96) && s.linkCarries link) fun s => s.takeHello link h)

/-- HELLO_TICK: each millisecond a HELLO goes out on every link in LINKED, ACTIVE or ISOLATED (R601). -/
def execHelloTick (s : State) : Ans :=
  .next (s.ifB s.isUp fun s =>
    ((List.range 96).filter s.linkCarries).foldl (fun s l => s.sendLink l 0x01 0 (.hello l (s.helloOf l))) s)

/-- HELLO_TIMEOUT: no HELLO for 3 ms: the link is retrained as if signal had been lost (R601). -/
def execHelloTimeout (link : Nat) (s : State) : Ans :=
  .next (s.ifB (s.isUp && decide (link < 96) && s.linkCarries link) fun s =>
    let s1 := s.linkDown link
    if s1.mayTrain link then
      ((s1.bump Fld.hlkLkRetrains link 1).updLink link fun k => { k with failed := 1 }).setF Fld.hlkLkState link lkTraining
    else s1)

/-- TRAINING_COMPLETE: a training attempt ends; `ok` says that it succeeded, `h` is the neighbour's first HELLO. A success
puts the link in LINKED, where its stored flits of VC 0 are sent again; a failure leaves it DOWN, but a first failed retrain is followed by a second (R582, R836). -/
def execTrainingComplete (link : Nat) (ok : Bool) (h : Hello) (s : State) : Ans :=
  .next (s.ifB (s.isUp && decide (link < 96) && s.getF Fld.hlkLkState link == lkTraining) fun s =>
    let k := s.link link
    if ok then
      let s1 := (s.enterLinked link).updLink link fun k => { k with
        tried := true, failed := 0, txBlock := [], rxPos := 0, rxBad := false, again := k.unacked.any fun e => e.1.vc != 0 }
      let s2 := (s1.resendFrom link true (s1.link link).sendable).takeHello link h
      (s2.sendLink link 0x01 0 (.hello link (s2.helloOf link))).noteFabric
    else if k.failed = 1 then s.retrain link 2
    else ((s.updLink link fun k => { k with tried := true }).linkDown link).noteFabric)

/-! ### Link-state records -/

/-- LSR: a neighbour passes a record on; a newer one is kept and flooded (R603). -/
def execLsr (link : Nat) (r : Lsr) (s : State) : Ans :=
  .next (s.ifB (s.isUp && decide (link < 96) && s.linkRuns link && r.serial != ownSerial &&
      s.fab.lsdb.all fun e => e.1.serial != r.serial || decide (e.1.gen < r.gen)) fun s => (s.keepLsr r).flood r link)

/-- LSR_REFRESH: every 10 s the device originates its record (R603). -/
def execLsrRefresh (s : State) : Ans := .next (s.ifB s.isUp fun s => s.originate)

/-- LSR_EXPIRY: a record has not been refreshed for 35 s: it is dropped (R603). -/
def execLsrExpiry (serial : Nat) (s : State) : Ans :=
  .next (s.ifB (s.isUp && serial != ownSerial && s.fab.lsdb.any fun e => e.1.serial == serial) fun s =>
    (s.updFab fun x => { x with lsdb := x.lsdb.filter fun e => e.1.serial != serial }).dbChanged)

/-! ### Settlement (R605 to R607) -/

/-- What a device takes from the database at settlement: state and node ID. -/
def State.nodeAt (s : State) : Nat × Nat :=
  let db := s.fab.lsdb.map (·.1)
  match s.sec.settings.node with
  | some id => if db.any fun r => decide (r.serial < ownSerial) && r.ndState == 1 && r.node == id then (3, 0) else (1, id)
  | none =>
    if db.any fun r => r.ndState == 1 then (4, 0)
    else if 256 < db.length then (5, 0)
    else (2, (db.filter fun r => decide (r.serial < ownSerial)).length)

/-- The node ID of a device whose record is in a database (R605): an installer's, unless a lower serial number carries it
too; with no installer's ID in the database, the rank of the serial number. -/
def nodeIn (db : List Lsr) (r : Lsr) : Option Nat :=
  if r.ndState = 1 then
    if db.any fun x => decide (x.serial < r.serial) && x.ndState == 1 && x.node == r.node then none else some r.node
  else if db.any fun x => x.ndState == 1 then none
  else if 256 < db.length then none
  else some (db.filter fun x => decide (x.serial < r.serial)).length

/-- The node IDs that a database gives at settlement (R605): serial number and node of each device with one. -/
def settledNodes (db : List Lsr) : List (Nat × Nat) := db.filterMap fun r => (nodeIn db r).map fun n => (r.serial, n)

/-- A link that does not fit the declared topology stays ISOLATED for it. -/
def State.misfits (s : State) : Bool := (List.range 96).any fun l => s.getF Fld.hlkLkIsolate l == 4

/-- The database has not changed for a time (ms). -/
def State.quietFor (s : State) (ms : Nat) : Bool := decide (s.fab.changedAt + ms * 10 ^ 6 ≤ s.upNs)

/-- SETTLEMENT: the database has not changed for HLK_SETTLE_MS; the node ID is assigned, and a changed one faults every
active chase (R604 to R607). -/
def execSettlement (s : State) : Ans :=
  .next (s.ifB (s.isUp && s.getF Fld.hlkDsState 0 == 1 && s.quietFor (s.getF Fld.hlkSettleMs 0)) fun s =>
    let old := (s.getF Fld.hlkNdState 0, s.nodeId)
    let new := s.nodeAt
    let had := old.1 = 1 ∨ old.1 = 2
    let has := new.1 = 1 ∨ new.1 = 2
    let s1 := (s.setFs 0 [(Fld.hlkNdState, new.1), (Fld.hlkNdId, new.2),
      (Fld.hlkDsErr, if new.1 = 5 then 1 else if s.misfits then 2 else 0), (Fld.hlkDsState, if has then 3 else 2)]).updFab
      fun x => { x with nodes := settledNodes (x.lsdb.map (·.1)), built := x.built && decide has }
    let s2 := if had ∧ ¬(has ∧ old.2 = new.2) then
        (List.range 16).foldl (fun s c => if s.csActive c then s.faultChase c fNodeChanged else s) s1
      else s1
    ((s2.fab.links.map (·.1)).foldl State.placeLink s2).rebundle)

end Sys2Proof.Machine
end

