-- ==== Sys2Proof/Machine/Topology.lean ====
section
/-! DEFINITION. Building the route tables from the database (R608 to R616): the general topology with its up/down escape, the
torus, and two-level groups. -/

namespace Sys2Proof.Machine

/-- A device of the database with a node ID: node, and its bundles with the nodes that they lead to, where the neighbour's
record lists the bundle too. -/
structure TopoNode where
  node : Nat
  links : List (Nat × Nat)
  deriving DecidableEq, Repr

/-- The devices of a database that hold a node ID, assigned at settlement alone (R604), and how they are joined. -/
def topoOf (db : List Lsr) (nodes : List (Nat × Nat)) : List TopoNode :=
  db.filterMap fun r => (kvGet nodes r.serial).map fun n =>
    ⟨n, r.bundles.filterMap fun b => match db.find? fun x => x.serial == b.peer with
      | some p => if p.bundles.any fun x => x.peer == r.serial && x.id == b.peerBundle then (kvGet nodes p.serial).map fun m => (b.id, m) else none
      | none => none⟩

/-- What a topology gives a destination: candidates, escape bundle, hops on the escape path. -/
structure RouteEnt where
  cands : List Nat
  esc : Nat
  hops : Nat
  deriving DecidableEq, Repr

/-- The table word of an entry (R609). -/
def RouteEnt.word (e : RouteEnt) : Nat :=
  let c := (e.cands.take 4).zipIdx.foldl (fun w p => w + (128 + p.1) * 2 ^ (8 * p.2)) 0
  2 ^ 63 + min e.hops 255 * 2 ^ 40 + (128 + e.esc) * 2 ^ 32 + c

/-- What a topology makes of this device's bundles: dimension tag and dateline bit of each that fits, and those that do not
fit (R614, R616). -/
structure BundleFit where
  id : Nat
  peer : Nat
  fits : Bool
  dim : Nat
  dateline : Bool
  deriving DecidableEq, Repr

/-! ### General (code 0) -/

/-- Distances from a set of nodes over edges: `n` rounds of relaxation; an unlisted node is out of reach. -/
def relax (g : List TopoNode) (ok : Nat → Nat → Bool) : Nat → List (Nat × Nat) → List (Nat × Nat)
  | 0, d => d
  | n + 1, d =>
    let new := g.filterMap fun x =>
      if (kvGet d x.node).isSome then none
      else
        let ds := x.links.filterMap fun l => if ok x.node l.2 then (kvGet d l.2).map (· + 1) else none
        match ds with
        | [] => none
        | a :: t => some (x.node, t.foldl min a)
    if new.isEmpty then d else relax g ok n (new.foldl (fun d e => kvPut d e.1 e.2) d)

/-- Distance of every node to `t`. -/
def distTo (g : List TopoNode) (t : Nat) : List (Nat × Nat) := relax g (fun _ _ => true) g.length [(t, 0)]

/-- The node from which up and down are counted: node 0, the lowest where there is none. -/
def rootNode (g : List TopoNode) : Nat := (g.map (·.node)).foldl min 32767

/-- A step from `a` to `b` goes up: towards a lower (distance from node 0, node ID). -/
def goesUp (d0 : List (Nat × Nat)) (a b : Nat) : Bool :=
  match kvGet d0 a, kvGet d0 b with
  | some x, some y => decide (y < x) || (x == y && decide (b < a))
  | _, _ => false

/-- Hops of the escape path of each node to `t`: down only where that reaches it, else up first; `n` rounds. -/
def escapeHops (g : List TopoNode) (d0 : List (Nat × Nat)) (t : Nat) : List (Nat × Nat) :=
  let down := relax g (fun a b => (kvGet d0 a).isSome && !goesUp d0 a b) g.length [(t, 0)]
  relax g (fun a b => goesUp d0 a b) g.length down

/-- The entry of a destination in the general topology. -/
def generalEntry (g : List TopoNode) (d0 : List (Nat × Nat)) (me : Nat) (mine : List (Nat × Nat)) (t : Nat) : Option RouteEnt :=
  let d := distTo g t
  let down := relax g (fun a b => (kvGet d0 a).isSome && !goesUp d0 a b) g.length [(t, 0)]
  let esc := escapeHops g d0 t
  let cands := mine.filter fun b => (kvGet d b.2).map (· + 1) == kvGet d me
  let hops := (kvGet esc me).getD 0
  let way := mine.find? fun b =>
    if (kvGet down me).isSome then !goesUp d0 me b.2 && (kvGet down b.2).map (· + 1) == kvGet down me
    else goesUp d0 me b.2 && (kvGet esc b.2).map (· + 1) == kvGet esc me
  match kvGet d me, kvGet esc me, way with
  | some _, some _, some b => some ⟨cands.map (·.1), b.1, hops⟩
  | _, _, _ => none

/-! ### Torus (code 1) -/

structure TorusDims where
  x : Nat
  y : Nat
  z : Nat
  deriving DecidableEq, Repr

/-- The three coordinates of a node, where it lies in the torus. -/
def TorusDims.coords (t : TorusDims) (n : Nat) : Option (Nat × Nat × Nat) :=
  let m := n % 256
  if t.x = 0 ∨ t.y = 0 ∨ t.x * t.y ≤ m ∨ t.z ≤ n / 256 then none else some (m % t.x, m / t.x, n / 256)

/-- One step up or down in a ring of a size (R615: 1, or at least 3). -/
def ringStep (size a b : Nat) : Option Bool :=
  if size < 3 then none else if b = (a + 1) % size then some true else if a = (b + 1) % size then some false else none

/-- Whether two neighbours in a ring are joined across its end: coordinate 0 and the last one. -/
def ringEnd (size a b : Nat) : Bool := (a == 0 && b + 1 == size) || (b == 0 && a + 1 == size)

/-- How a bundle between two nodes lies in the torus: dimension (0 Z, 1 X, 2 Y), direction, dateline. -/
def TorusDims.step (t : TorusDims) (a b : Nat) : Option (Nat × Bool × Bool) :=
  match t.coords a, t.coords b with
  | some (x, y, z), some (x', y', z') =>
    if x = x' ∧ y = y' then (ringStep t.z z z').map fun u => (0, u, ringEnd t.z z z')
    else if y = y' ∧ z = z' then (ringStep t.x x x').map fun u => (1, u, ringEnd t.x x x')
    else if x = x' ∧ z = z' then (ringStep t.y y y').map fun u => (2, u, ringEnd t.y y y')
    else none
  | _, _ => none

/-- The minimal directions in a ring and the distance: up, down. -/
def ringWays (size a b : Nat) : List Bool × Nat :=
  let up := (b + size - a) % size
  let dn := (a + size - b) % size
  if up = 0 then ([], 0) else if up < dn then ([true], up) else if dn < up then ([false], dn) else ([true, false], up)

/-- This device's bundles along a dimension in one of some directions. -/
def TorusDims.along (t : TorusDims) (me : Nat) (mine : List (Nat × Nat)) (dim : Nat) (ways : List Bool) : List Nat :=
  (mine.filter fun b => match t.step me b.2 with
    | some (d, u, _) => d == dim && ways.contains u
    | none => false).map (·.1)

/-- The entry of a group of the torus: the minimal Z directions. -/
def TorusDims.groupEntry (t : TorusDims) (me : Nat) (mine : List (Nat × Nat)) (g : Nat) : Option RouteEnt :=
  match (if g < t.z then t.coords me else none) with
  | some (_, _, z) =>
    let w := ringWays t.z z g
    match t.along me mine 0 w.1 with
    | b :: l => some ⟨b :: l, b, w.2⟩
    | [] => none
  | none => none

/-- The entry of a member of this device's group: the minimal X and Y directions; the escape goes X, then Y. -/
def TorusDims.memberEntry (t : TorusDims) (me : Nat) (mine : List (Nat × Nat)) (m : Nat) : Option RouteEnt :=
  match t.coords me, t.coords (me / 256 * 256 + m) with
  | some (x, y, _), some (x', y', _) =>
    let wx := ringWays t.x x x'
    let wy := ringWays t.y y y'
    let bx := t.along me mine 1 wx.1
    let ys := t.along me mine 2 wy.1
    match (if x = x' then ys else bx) with
    | b :: _ => some ⟨bx ++ ys, b, wx.2 + wy.2⟩
    | [] => none
  | _, _ => none

/-! ### Two-level groups (code 2) -/

/-- The entry of another group: direct global bundles first, then local bundles to members that hold one. -/
def groupsGroupEntry (g : List TopoNode) (me : Nat) (mine : List (Nat × Nat)) (t : Nat) : Option RouteEnt :=
  let direct := mine.filter fun b => b.2 / 256 == t
  let via := mine.filter fun b => b.2 / 256 == me / 256 &&
    (match g.find? fun x => x.node == b.2 with
      | some x => x.links.any fun l => l.2 / 256 == t
      | none => false)
  match direct ++ via with
  | b :: l => some ⟨(b :: l).map (·.1), b.1, if direct.isEmpty then 2 else 1⟩
  | [] => none

/-- The entry of a member of this device's group: the direct local bundle. -/
def groupsMemberEntry (me : Nat) (mine : List (Nat × Nat)) (m : Nat) : Option RouteEnt :=
  match mine.filter fun b => b.2 == me / 256 * 256 + m with
  | b :: l => some ⟨(b :: l).map (·.1), b.1, 1⟩
  | [] => none

/-! ### The build (R613, R616) -/

/-- How a bundle to a node fits a topology (R614). -/
def fitOf (topo : Nat) (t : TorusDims) (d0 : List (Nat × Nat)) (me : Nat) (b : Nat × Nat) : BundleFit :=
  if topo = 1 then match t.step me b.2 with
    | some (d, _, dl) => ⟨b.1, b.2, true, d, dl⟩
    | none => ⟨b.1, b.2, false, 0, false⟩
  else if topo = 2 then
    let ok := decide (2 ≤ t.x) && decide (t.x ≤ 64) && decide (me % 256 < t.x) && decide (b.2 % 256 < t.x) && me != b.2
    let far := me / 256 != b.2 / 256
    ⟨b.1, b.2, ok, natOfBool far, far⟩
  else
    let up := goesUp d0 me b.2
    ⟨b.1, b.2, decide (me < 256) && decide (b.2 < 256), natOfBool (!up), !up⟩

/-- The bundles of a node that fit the topology, with the nodes that they lead to. -/
def fitting (topo : Nat) (t : TorusDims) (d0 : List (Nat × Nat)) (g : List TopoNode) (a : Nat) : List (Nat × Nat) :=
  (((((g.find? fun x => x.node == a).map (·.links)).getD []).map fun b => fitOf topo t d0 a b).filter (·.fits)).map fun b => (b.id, b.peer)

/-- Whether the escape bundles of a chain of nodes lead to a goal: `next` gives the entry of a node, `mine` its bundles. -/
def escapeReaches (next : Nat → Option RouteEnt) (mine : Nat → List (Nat × Nat)) (goal : Nat → Bool) : Nat → Nat → Bool
  | 0, a => goal a
  | n + 1, a => goal a || match next a with
    | some e => match kvGet (mine a) e.esc with
      | some b => escapeReaches next mine goal n b
      | none => false
    | none => false

/-- What a build gives: the words of the member and the group table, the nodes without a valid entry, and how this device's bundles fit. -/
structure RouteTables where
  members : List (Nat × Nat)
  groups : List (Nat × Nat)
  lost : Nat
  fits : List BundleFit
  deriving DecidableEq, Repr

/-- The tables from the database, the node IDs of the last settlement and the declared topology (R613 to R616). An entry of a torus or of
groups is valid where its escape path leads to the destination. -/
def State.tables (s : State) : RouteTables :=
  let g := topoOf (s.fab.lsdb.map (·.1)) s.fab.nodes
  let me := s.nodeId
  let topo := s.getF Fld.hlkFbTopo 0
  let t : TorusDims := ⟨s.getF Fld.hlkFbX 0, s.getF Fld.hlkFbY 0, s.getF Fld.hlkFbZ 0⟩
  let d0 := distTo g (rootNode g)
  let mine (a : Nat) : List (Nat × Nat) := fitting topo t d0 g a
  let others := (g.map (·.node)).filter (· != me)
  let memberAt (m a : Nat) : Option RouteEnt :=
    if topo = 1 then t.memberEntry a (mine a) m else if topo = 2 then groupsMemberEntry a (mine a) m else generalEntry g d0 a (mine a) m
  let groupAt (k a : Nat) : Option RouteEnt :=
    if topo = 1 then t.groupEntry a (mine a) k else if topo = 2 then groupsGroupEntry g a (mine a) k else none
  let walked := topo == 1 || topo == 2
  let member (m : Nat) : Option RouteEnt :=
    if !walked || escapeReaches (memberAt m) mine (· == me / 256 * 256 + m) g.length me then memberAt m me else none
  let group (k : Nat) : Option RouteEnt :=
    if !walked || escapeReaches (groupAt k) mine (· / 256 == k) g.length me then groupAt k me else none
  let word (e : Option RouteEnt) : Nat := (e.map RouteEnt.word).getD 0
  { members := ((others.filter fun n => n / 256 == me / 256).map (· % 256)).map fun m => (m, word (member m))
    groups := ((others.filter fun n => n / 256 != me / 256).map (· / 256)).eraseDups.map fun k => (k, word (group k))
    lost := (others.filter fun n => if n / 256 = me / 256 then (member (n % 256)).isNone else (group (n / 256)).isNone).length
    fits := (((g.find? fun x => x.node == me).map (·.links)).getD []).map fun b => fitOf topo t d0 me b }

/-- Both tables are replaced at once (R613). -/
def State.putTables (s : State) (r : RouteTables) : State :=
  let s1 : State := { s with regs := s.regs.filter fun e => decide (e.1 < 0x1090000) || decide (0x1091000 ≤ e.1) }
  let s2 := r.members.foldl (fun (s : State) e => s.wr .hlkRtMember e.1 e.2) s1
  r.groups.foldl (fun (s : State) e => s.wr .hlkRtGroup e.1 e.2) s2

/-- The links of a bundle that does not fit are ISOLATED; an ACTIVE one whose bundle is in no table is LINKED (R573, R616). -/
def State.fitLinks (s : State) (fits : List BundleFit) : State :=
  let bad := (fits.filter fun b => !b.fits).map (·.id)
  (List.range 96).foldl (fun (s : State) l =>
    let b := s.getF Fld.hlkLkBundle l
    if b = 127 then s
    else if bad.contains b then s.setFs l [(Fld.hlkLkState, lkIsolated), (Fld.hlkLkIsolate, 4)]
    else if s.getF Fld.hlkLkState l = lkActive && !s.inTables b then s.enterLinked l else s) s

/-- ROUTE_BUILD: both tables are replaced at once, bundles in them go ACTIVE, those that do not fit the declared topology are
isolated (R573, R613, R616). -/
def State.routeBuild (s : State) : State :=
  let r := s.tables
  let s1 := r.fits.foldl (fun (s : State) b =>
    if b.fits then s.setFs b.id [(Fld.hlkBdDim, b.dim), (Fld.hlkBdDateline, natOfBool b.dateline)] else s) (s.putTables r)
  let s2 := (s1.updFab fun x => { x with built := true }).fitLinks r.fits
  let s3 := (s2.bump Fld.hlkRtGen 0 1).setFs 0 [(Fld.hlkRtUnreach, r.lost), (Fld.hlkDsErr, if s2.misfits then 2 else 0),
    (Fld.hlkDsState, if s.getF Fld.hlkDsState 0 = 1 then 1 else 4)]
  s3.rebundle.noteFabric

/-- ROUTE_BUILD: after a settlement that gave a node ID, and 50 ms after each later change of the database (R613). -/
def execRouteBuild (s : State) : Ans :=
  .next (s.ifB (s.isUp && s.hasNode && (s.getF Fld.hlkDsState 0 != 1 || s.quietFor 50)) fun s => s.routeBuild)

end Sys2Proof.Machine
end

