-- ==== Sys2Proof/Machine/Fabric.lean ====
section
/-! DEFINITION. Flits and messages that arrive (R578 to R594): the link's retry and credits, delivery and forwarding, what the
messages of each type do, acknowledgements and timeouts, and link time transfer (R619 to R624). -/

namespace Sys2Proof.Machine

/-! ### The link's side (R578 to R582, R585) -/

/-- Drop the flits up to an acknowledged sequence from the retry buffer (R579). -/
def ackedTo (l : List (Flit × Nat)) (ack : Nat) : List (Flit × Nat) :=
  if l.any fun e => e.1.seq == ack then (l.dropWhile fun e => e.1.seq != ack).drop 1 else l

/-- Take the credits of a flit (R585). -/
def State.takeCredits (s : State) (l : Nat) (f : Flit) : State :=
  let add (c : List Nat) (r : Nat) : List Nat := c.set (r / 32 % 8) (c.getD (r / 32 % 8) 0 + r % 32)
  s.updLink l fun k => { k with credits := add (add k.credits f.cr0) f.cr1 }

/-- A NAK: the flits after FL_ACK are sent again in order; too many NAKs or sendings retrain the link (R581, R582). -/
def State.takeNak (s : State) (l : Nat) : State :=
  let k := s.link l
  let recent := (k.naks.filter fun t => decide (s.upNs < t + 10 ^ 6)) ++ [s.upNs]
  let s1 := (s.bump Fld.hlkLkNaks l 1).updLink l fun k => { k with naks := recent }
  if 64 ≤ recent.length || k.unacked.any fun e => decide (8 ≤ e.2) then s1.retrain l 1 else s1.resendFrom l false k.sendable

/-- A flit in sequence is accepted: a link flit stays here, and VC 0 carries no other type (R584, R588); any other is delivered, or forwarded by a device with a node ID
(R594, R606, R608, R617). -/
def State.takeFlit (s : State) (l : Nat) (f : Flit) : State :=
  let s1 := s.updLink l fun k => { k with rxSeq := (k.rxSeq + 1) % 4096, ackOwed := true }
  if f.vc = 0 then (if f.typ ≤ 3 then s1 else s1.bump Fld.hlkRtUnroutable 0 1).freeBuf l 0
  else if f.hops = 255 then (s1.bump Fld.hlkTtlDrops 0 1).freeBuf l f.vc
  else if !s.hasNode || !s.linkRuns l then s1.freeBuf l f.vc
  else if f.dst = s.nodeId then (s1.freeBuf l f.vc).deliverFlit f
  else s1.routeFrom { f with hops := f.hops + 1 } l f.vc

/-- The receiver decodes a block with its first flit (R577): corrected symbols and uncorrectable blocks are counted. -/
def State.fecDecode (s : State) (l : Nat) (errs : List Nat) : State :=
  let k := s.link l
  let s1 := if k.rxPos != 0 then s
    else
      let s2 := if fecCorrected errs = 0 then s else s.bump Fld.hlkLkFecSyms l (fecCorrected errs)
      (if fecFails errs then s2.bump Fld.hlkLkFecUncorr l 1 else s2).updLink l fun k => { k with rxBad := fecFails errs }
  s1.updLink l fun k => { k with rxPos := (k.rxPos + 1) % 5 }

/-- FLIT: a flit arrives on a link; `data` and `checks` are the wrong data and check symbols of its block, which count with the
block's first flit, `crc` is its FL_CRC (R577 to R581). -/
def execFlit (link : Nat) (data checks : List Nat) (crc : Nat) (f : Flit) (s : State) : Ans :=
  .next (s.ifB (s.isUp && decide (link < 96) && s.linkCarries link) fun s =>
    let s1 := s.fecDecode link (blockErrs data checks)
    let owe (s : State) : State := s.updLink link fun k => { k with nakOwed := true }
    if (s1.link link).rxBad then owe s1
    else if f.crc != crc then owe s1
    else
      let s2 := s1.updLink link fun k => { k with unacked := ackedTo k.unacked f.ack }
      let s3 := if f.nak then s2.takeNak link else s2
      if f.typ = 0 then
        let s4 := s3.takeCredits link f
        (s4.flushLink link (s4.link link).waitOut.length).retryHeld
      else if f.seq != (s3.link link).rxSeq then owe s3
      else
        let s4 := (s3.takeCredits link f).takeFlit link f
        (s4.flushLink link (s4.link link).waitOut.length).retryHeld)

/-- ACK_IDLE: an acknowledgement owed goes out in an IDLE, which is not sequenced (R579, R580). -/
def execAckIdle (link : Nat) (s : State) : Ans :=
  .next (s.ifB (s.isUp && decide (link < 96) && s.linkCarries link && ((s.link link).ackOwed || (s.link link).nakOwed)) fun s =>
    let k := s.link link
    let r0 := creditReturn k.toReturn
    let r1 := creditReturn r0.2
    (s.updLink link fun k => { k with ackOwed := false, nakOwed := false, toReturn := r1.2 }).putFlit link
      { linkFlit 0 0 with ack := (k.rxSeq + 4095) % 4096, nak := k.nakOwed, cr0 := r0.1, cr1 := r1.1 })

/-! ### Messages (R588, R589, R592) -/

/-- Acknowledge the messages whose data has become visible (R547, R588). -/
def State.unseenVisible (s : State) : State :=
  let held := s.waitingLines
  let ok (e : Flit × List Nat) : Bool := e.2.all fun l => !held.contains l
  (s.fab.unseen.filter ok).foldl (fun s e => s.finishMsg e.1 ackOk)
    (s.updFab fun x => { x with unseen := x.unseen.filter fun e => !ok e })

/-- A flit waits in the inbox with a type. -/
def State.hasIn (s : State) (f : Flit) (typ : Nat) : Bool := s.isUp && f.typ == typ && s.fab.inbox.contains f

/-- WRITE: one flit of a message is written at FL_ARG + 220 × index on arrival; the message is acknowledged once all of it
is visible (R588, R589, R592). -/
def execWrite (f : Flit) (s : State) : Ans :=
  .next (s.ifB (s.hasIn f 0x10) fun s =>
    let whole (s : State) : Bool := allParts (s.partsOf f.src f.msg)
    match s.slotOfTag f.chase with
    | some c =>
      let a := f.arg + 220 * f.index
      if !s.takesMsgs c then (let s1 := s.keepPart f; if whole s1 then s1.finishMsg f ackRefused else s1)
      else if a < 4096 ∨ 2 ^ 44 < a + f.plen then s.finishMsg f ackMalformed
      else
        let s1 := (s.plateStore c a (f.payload.take f.plen)).keepPart f
        if whole s1 then (s1.updFab fun x => { x with unseen := x.unseen ++ [(f, s1.waitingLines)] }).unseenVisible else s1
    | none => let s1 := s.keepPart f; if whole s1 then s1.finishMsg f ackRefused else s1)

/-- APPEND: a message is put together whole, and its records are appended as one unit (R589, R598). -/
def execAppend (f : Flit) (s : State) : Ans :=
  .next (s.ifB (s.hasIn f 0x11) fun s =>
    let s1 := s.keepPart f
    let l := s1.partsOf f.src f.msg
    if !allParts l then s1
    else
      let clear (s : State) : State := s.updFab fun x => { x with
        parts := x.parts.filter fun p => !(p.1 == f.src && p.2.1 == f.msg)
        inbox := x.inbox.filter fun g => !(g.src == f.src && g.msg == f.msg) }
      match s1.slotOfTag f.chase with
      | none => s1.finishMsg f ackRefused
      | some c =>
        if !s1.takesMsgs c then s1.finishMsg f ackRefused
        else if bitsOf f.arg 63 48 != 0 then s1.finishMsg f ackMalformed
        else if (s1.chase c).deltaIn.any fun e => e.2.2.1 == f.src && e.2.2.2.1 == f.msg then clear s1
        else match s1.takeAppend c (bitsOf f.arg 47 44) (bitsOf f.arg 43 0) f.src f.msg (joinParts l) with
          | (s2, some st) => s2.finishMsg f st
          | (s2, none) => clear s2)

/-- ACK: the acknowledged message is done at its source, and the ACK, a message too, is complete here (R590 to R592); requests that found no room poison their bags (R355). -/
def execAck (f : Flit) (s : State) : Ans :=
  .next (s.ifB (s.hasIn f 0x20) fun s =>
    let s0 := s.updFab fun x => { x with inbox := x.inbox.erase f }
    if s.msgDone f.src f.msg then s0.bump Fld.hlkE2eDups 0 1
    else
    let s1 := s0.markDone f.src f.msg
    match s1.fab.sent.find? fun m => m.dst == f.src && m.msg == f.arg % 2 ^ 32 with
    | none => s1
    | some m =>
      let s2 := s1.updFab fun x => { x with sent := x.sent.erase m }
      let lost := m.typ == 0x11 && bitsOf f.arg 39 32 == ackFull && bitsOf m.arg 47 44 == qkRequest
      let s3 := if lost then s2.requestsLost m.slot (bitsOf m.arg 43 0) m.data else s2
      (s3.drainQueued m.dst).checkFinish m.slot)

/-- A fabric signal that R543 discards. -/
def State.staleSignal (s : State) (c : Nat) (f : Flit) : State := (s.bump Fld.mrkStale c 1).finishMsg f ackRefused

/-- FABRIC_SIGNAL: applied to its mark, or discarded as stale (R543). -/
def execFabricSignal (f : Flit) (s : State) : Ans :=
  .next (s.ifB (s.hasIn f 0x30) fun s =>
    match s.slotOfTag f.chase with
    | none => s.finishMsg f ackRefused
    | some c =>
      let ctx := bitsOf f.arg 21 16
      if f.arg / 2 ^ 22 != 0 then s.finishMsg f ackMalformed
      else if !s.csStriking c || (ptOrdinal (s.forme c) f.src).isNone || ctx != s.activeCtx c then s.staleSignal c f
      else match s.markOf c ctx (f.arg % 2 ^ 16) with
        | none => s.staleSignal c f
        | some n => if s.flag Fld.mrkFabric n then (s.signalMark n 1).finishMsg f ackOk else s.staleSignal c f)

/-- E2E_TIMEOUT: a message has no acknowledgement: it is sent again whole, at most twice; then it is lost, and its chase
faults (R593). -/
def execE2eTimeout (dst msg : Nat) (s : State) : Ans :=
  .next (s.ifB s.isUp fun s =>
    match s.fab.sent.find? fun m => m.dst == dst && m.msg == msg with
    | none => s
    | some m =>
      if m.resends < 2 then
        let again (x : MsgRec) : MsgRec := if x == m then { m with resends := m.resends + 1 } else x
        (msgFlits s.nodeId m).foldl State.routeFlit
          ((s.bump Fld.hlkE2eResends 0 1).updFab fun x => { x with sent := x.sent.map again })
      else
        let s1 := ((s.bump Fld.hlkE2eLost 0 1).updFab fun x => { x with sent := x.sent.erase m }).drainQueued dst
        match s1.slotOfTag m.chase with
        | some c => s1.faultChase c fFabricLoss
        | none => s1)

/-- BACK_INVALIDATE_RESPONSE: the host has answered a snoop (R647); a result copy, a RoCEv2 acknowledgement or the
acknowledgement of a message that waited for it may go. -/
def execBackInvalidateResponse (line : Nat) (s : State) : Ans :=
  .next (s.ifB s.busUp fun s => (s.snoopAnswered line).endCopies.roceVisible.unseenVisible)

/-! ### Link time transfer (R619 to R624) -/

/-- Send a TIME message; the stamps that its sender takes are those of its way out (`Out.stamped`). -/
def State.sendTime (s : State) (l step : Nat) (stamps : List Nat) : State :=
  s.sendLink l 0x03 step (.timeMsg l step stamps (s.getF Fld.hlkTtHops 0) s.timeSt s.timeRoot)

/-- TIME_TICK: 64 times per second a device that others may follow starts an exchange on a link with step 1 (R621). -/
def execTimeTick (link : Nat) (s : State) : Ans :=
  .next (s.ifB (s.isUp && decide (link < 96) && s.linkRuns link && s.getF Fld.hlkTtHops 0 != 255) fun s =>
    s.sendTime link 1 [s.nowFine])

/-- The child computes offset and path delay, in units of 2^-16 ns (R622). -/
def State.timeResult (s : State) (l t4 : Nat) : State :=
  let i (n : Nat) : Int := ((n : Nat) : Int)
  let fwd := i s.time.t2 - i s.time.t1
  let back := i t4 - i s.time.t3
  let a := sextNat 32 (s.getF Fld.hlkLkTtAsym l) * 2 ^ 16 / 1000
  let offset := (fwd - back - a) / 2
  let delay := (fwd + back) / 2 / 2 ^ 16
  (s.setFs 0 [(Fld.hlkTtDelay, (clampInt delay 0 65535).toNat),
    (Fld.hlkTtOffset, patOf 24 (clampInt (offset * 1000 / 2 ^ 16) (-(2 ^ 23)) (2 ^ 23 - 1)))]).linkOffset offset

/-- TIME: a step arrives with its stamps and the sender's time quality; the next step is sent, or the child corrects its
counter (R621, R622). -/
def execTime (link step : Nat) (stamps : List Nat) (hops lock root : Nat) (s : State) : Ans :=
  .next (s.ifB (s.isUp && decide (link < 96) && s.linkRuns link) fun s =>
    let s1 := (s.updLink link fun k => { k with peer := k.peer.map fun p => { p with hops := hops, lock := lock, root := root } }).chooseParent
    let child := s1.flag Fld.hlkTtHasParent 0 && s1.getF Fld.hlkTtParentLink 0 == link
    if step = 1 then
      if child then
        let t1 := stamps.getD 0 0
        (s1.updTime fun t => { t with t1 := t1, t2 := s1.nowFine, t3 := s1.nowFine }).sendTime link 2 [t1, s1.nowFine, s1.nowFine]
      else s1
    else if step = 2 then s1.sendTime link 3 [s1.nowFine]
    else if step = 3 ∧ child then s1.timeResult link (stamps.getD 0 0)
    else s1)

end Sys2Proof.Machine
end

