-- ==== Sys2Proof/Machine/Boot.lean ====
section
/-! DEFINITION. Power, clocks, reset and start-up (R822 to R842, R855, R856): what each reset domain takes with it (R21), the boot
chain (R766 to R772, R778), the boot stages (R834 to R838). -/

namespace Sys2Proof.Machine

def State.updPw (s : State) (f : PowerSt → PowerSt) : State := { s with pw := f s.pw }

/-! ### Reset (R21, R831, R832) -/

/-- A FUNC reset: every chase is torn down, every ring disabled with no proofs, the host set emptied; what belongs to the WARM
and COLD domains stays. -/
def State.funcReset (s : State) : State :=
  let s1 := s.host.heldWrites.foldl State.landWrite s
  let s2 := (List.range 16).foldl (fun s c => s.tearDown c) s1
  let s3 := s2.resetRegs .func
  { s3 with
    host := { hostSet := [], rings := [], tickets := [], posted := [], snoop := [], snoopOut := [], heldWrites := [], hostLines := [] }
    rcTags := (s3.rcTags.map fun e => (e.1, e.2.filter fun t => decide (8 ≤ t.2))).filter fun e => !e.2.isEmpty
    msix := [], msixPend := [], samples := [], groups := [], openWaits := [], stipple := [], marks := []
    chases := List.replicate 16 ChaseSt.empty, ink := { s3.ink with order := [] } }

/-- The registers that the repair record holds (R811). -/
def recordRegs : List (RegName × Nat) :=
  [(.sysCapacity, 0), (.sysRegionMap, 0), (.sysRegionMap, 1), (.rasSpares, 0)] ++
    (List.range 12).flatMap fun k => [(.hbmStatus, k), (.hbmPcOffline, k)]

/-- The repair record in the eMMC follows the ladder (R811): its registers as they stand; while they stand at reset the record
keeps what it holds. -/
def State.saveRecord (s : State) : State :=
  if s.getF Fld.sysActiveRegions 0 = 0 ∧ s.getF Fld.sysActiveStacks 0 = 0 then s
  else { s with ras := { s.ras with
    saved := recordRegs.map fun r => (r.1.addr r.2, (BitVec.ofNat 64 (s.rd r.1 r.2) : Word)) } }

/-- A COLD or WARM reset: the device is held in reset until boot start; what the eMMC, RPMB and mask ROM keep stays, and the
time counter over a WARM reset, which a device that followed a parent goes on with in holdover (R620, R21). -/
def State.hardReset (s : State) (d : Domain) : State :=
  let s1 := s.saveRecord.resetRegs d
  let h := s.hbm
  let x := s1.sec
  let r := s1.ras
  let s2 : State := { s1 with
    pw := { s.pw with held := true, pcieUp := false }
    msix := [], msixPend := []
    host := { hostSet := [], rings := [], tickets := [], posted := [], snoop := [], snoopOut := [], heldWrites := [], hostLines := [] }
    mem := [], poison := [], mb := [], rcTags := []
    hbm := { bands := [], retired := h.retired, retiredAt := h.retiredAt, repairs := h.repairs, corrected := [], writtenBack := [], tested := h.tested
             returning := h.returning, parity := [], badReads := [], badWrites := [] }
    chases := List.replicate 16 ChaseSt.empty, samples := [], groups := [], openWaits := [], engines := [], stipple := [], marks := []
    fab := FabSt.empty
    eth := { qps := [], mrs := [], waits := [], done := [] }
    ink := { low := s.ink.low, asserted := false, order := [], setPoints := [750, 750, 750, 750], nacked := [], installed := 1400 }
    sec := { x with buf := [], challenges := [], makers := [], auths := [], applied := [], bootSvn := 0, measured := [], spdm := 0 }
    ras := { r with prepared := [], transients := [], seqFaults := [], recent := [], runFaults := [] } }
  if d = .cold then { s2 with time := State.reset.time }
  else if s2.timeSt = tsLink then s2.setF Fld.timeState 0 tsHoldover else s2

/-! ### Power and clocks -/

/-- PWR_GOOD_RISE: the device holds itself in reset for 1 ms; the time counter starts from 0 (R730, R829). -/
def execPwrGoodRise (s : State) : Ans :=
  .next (s.ifB (!s.pw.pwrGood) fun s => s.updPw fun p => { p with pwrGood := true, held := true })

/-- Every authorisation in force ends (R760). -/
def State.endAuths (s : State) : State := [1, 2, 3].foldl State.endAuth s

/-- PWR_GOOD_LOSS: low for 1 µs or more: a COLD reset; everything stops, and a thermal trip is released (R727, R826, R827). -/
def execPwrGoodLoss (s : State) : Ans :=
  .next (s.ifB s.pw.pwrGood fun s => (s.endAuths.hardReset .cold).updPw fun p => { p with pwrGood := false, tripped := false })

/-- CLOCK_LOSS: SYSCLK_25M (true) or a REFCLK_156M25 input stops for 10 µs while PWR_GOOD is high: as a loss of PWR_GOOD (R855). -/
def execClockLoss (sysclk : Bool) (s : State) : Ans :=
  .next (s.ifB s.pw.pwrGood fun s => (s.endAuths.hardReset .cold).updPw fun p =>
    if sysclk then { p with sysclk := false } else { p with refclk156 := false })

/-- CLOCK_RETURN: the clock is stable again; boot start follows 1 ms later (R855). -/
def execClockReturn (sysclk : Bool) (s : State) : Ans :=
  .next (s.updPw fun p => if sysclk then { p with sysclk := true } else { p with refclk156 := true })

/-- REFCLK_100M_STOP: the PCIe link goes down (R856). -/
def execRefclk100mStop (s : State) : Ans := .next (s.updPw fun p => { p with refclk100 := false, pcieUp := false })

/-- REFCLK_100M_RETURN: the PCIe link of a device that is out of reset retrains: a hot reset (R831, R856). -/
def execRefclk100mReturn (s : State) : Ans :=
  .next (s.ifB (!s.pw.refclk100) fun s =>
    let s1 := s.updPw fun p => { p with refclk100 := true }
    s1.ifB s1.live fun s => s.funcReset.updPw fun p => { p with pcieUp := true })

/-- RESET_N_ASSERT: RESET_N is low for 10 µs or more: a WARM reset (R830, R832). -/
def execResetNAssert (s : State) : Ans :=
  .next (if s.pw.pwrGood then (s.endAuths.hardReset .warm).updPw fun p => { p with resetN := false }
    else s.updPw fun p => { p with resetN := false })

/-- FUNCTION_LEVEL_RESET: a Function Level Reset or hot reset (R831). -/
def execFunctionLevelReset (s : State) : Ans := .next (s.ifB s.busUp State.funcReset)

/-- D3HOT_RETURN: from D3hot to D0, with No_Soft_Reset 0 (R650). -/
def execD3hotReturn (s : State) : Ans := .next (s.ifB s.busUp State.funcReset)

/-- CONFIG_REQUEST: the requester enters the host set (R654); `cxlMem` and `cxlCache` are what the request sets of the CXL
enables, which HIF_STATUS shows. -/
def execConfigRequest (rid : Nat) (cxlMem cxlCache : Option Bool) (s : State) : Ans :=
  .next (s.ifB s.busUp fun s =>
    let s1 : State := { s with host := { s.host with hostSet := setIns s.host.hostSet (rid % 65536) } }
    s1.setFs 0 [(Fld.hifCxlMem, natOfBool (cxlMem.getD (s.flag Fld.hifCxlMem 0))),
      (Fld.hifCxlCache, natOfBool (cxlCache.getD (s.flag Fld.hifCxlCache 0)))])

/-! ### The boot chain (R768) -/

/-- A step has failed: SEC_BOOT_CODE shows it. -/
def State.bootFail (s : State) (step : Nat) : State := s.setF Fld.secBootCode 0 step

/-- The chain halts (R839). -/
def State.bootHalt (s : State) (step ms : Nat) : State :=
  (s.bootFail step).setFs 0 [(Fld.sysBootStage, stageHalted), (Fld.sysBootMs, ms)]

/-- The colophon's registers as the stored colophon has them; where its chain does not verify, the verified part stays and a BREAK
entry follows it (R778). -/
def State.bootColophon (s : State) (broken : Option Nat) : State :=
  let x := s.sec
  let kept := match broken with
    | none => x
    | some n => { x with
        colophon := x.colophon.filter fun e => decide (e.1 < n), nextSeq := min n x.nextSeq
        ckpts := x.ckpts.filter fun c => decide (c.seq < n) }
  let s1 : State := { s with sec := kept }
  let s2 := s1.wr .secColophon 0 (kept.nextSeq - 1)
  let s3 := s2.setFs 0 [(Fld.secColCkpt, s2.ckptSeq.getD 0), (Fld.secColRpmb, x.rpmb % 2 ^ 32), (Fld.secMinSvn, x.minSvn)]
  if broken.isSome then (s3.note ⟨ceBreak, 0, 0, 0, 0, s3.colHead⟩).bump Fld.secColBreaks 0 1 else s3

/-- A fence record that allows nothing but the clamp, trip and link caps given (R767). -/
def plainFence (clamp trip cap : Nat) : Bytes :=
  natLe 4 fcMagic ++ natLe 4 0 ++ natLe 2 clamp ++ natLe 1 trip ++ List.replicate 53 0 ++
    (List.range 96).flatMap (fun _ => natLe 2 cap) ++ List.replicate 320 0

/-- Apply the fences (R767): the 576 bytes in force and the registers that show them. -/
def State.applyFences (s : State) (f : Bytes) : State :=
  let trip := u8At f 10
  let w := s.sec.settings.watts.getD 1400
  let s0 : State := { s with ink := { s.ink with installed := w } }
  let s1 := (s0.updSec fun x => { x with applied := f }).setFs 0
    [(Fld.inkClampW, u16At f 8), (Fld.inkTripC, trip), (Fld.inkWarnC, min 100 (trip - 6)),
     (Fld.inkInstallW, w)]
  let s2 := (List.range 96).foldl (fun s l => s.setF Fld.hlkLkCap l (u16At f (64 + 2 * l))) s1
  (List.range 4).foldl (fun s q => s.setF Fld.ethFltRate q (u16At f (256 + 80 * q + 4))) s2

/-- The installer settings in their registers (R627, R630, R704). -/
def State.showSettings (s : State) : State :=
  let k := s.sec.settings
  let s1 := s.setFs 0 [(Fld.hlkFbName, k.name), (Fld.hlkFbTopo, k.topo), (Fld.hlkFbX, k.x), (Fld.hlkFbY, k.y), (Fld.hlkFbZ, k.z)]
  k.nets.zipIdx.foldl (fun s n => s.setFs n.2
    [(Fld.ethMac, n.1.mac), (Fld.ethIp4, n.1.ip4), (Fld.ethIp6Hi, n.1.ip6 / 2 ^ 64), (Fld.ethIp6Lo, n.1.ip6 % 2 ^ 64)]) s1

/-- Steps 4 to 6: identity, stored records, fences. A record that cannot be read for want of the PUF key stays in the eMMC and
counts as empty (R771, R772); a role table or settings record that fails its tag or its version starts empty (R768, R770), a fence record
puts the device in lockdown (R767). -/
def State.bootRecords (s : State) (f : BootFinds) : State :=
  let puf := f.puf && !s.sec.zeroised
  let stored : List Cred × Settings := s.sec.hidden.getD (s.sec.creds, s.sec.settings)
  let s1 := (s.updSec fun x => { x with fence := x.fencePending.orElse fun _ => x.fence, fencePending := none
                                        identity := puf }).setFs 0
    [(Fld.secIslandState, if puf then islOperational else islIdentityFail), (Fld.secApproved, natOfBool puf)]
  let s2 := s1.bootColophon f.colophonBreak
  let s3 := if puf then
      let roleOk := f.roleTable.passes s.sec.roleVer
      let setsOk := f.settings.passes s.sec.settingsVer
      let roles := if roleOk then stored.1 else []
      let sets := if setsOk then stored.2 else Settings.empty
      let a := s2.updSec fun x => { x with creds := roles, settings := sets, hidden := none }
      let b := if roleOk then a else (a.bootFail 5).note ⟨ceBreak, 0, 0, 0, 0, a.colHead⟩
      if setsOk then b else (b.bootFail 5).note ⟨ceBreak, 0, 0, 0, 0, b.colHead⟩
    else (s2.bootFail 4).updSec fun x => { x with creds := [], settings := Settings.empty
                                                  hidden := if s.sec.zeroised then none else some stored }
  let s4 := s3.showCreds.showSettings
  let lockdown := !puf || (s4.sec.fence.isSome && !f.fence.passes s4.sec.fenceVer)
  if lockdown then
    let a := if puf then s4.bootFail 5 else s4
    ((a.applyFences (plainFence 300 110 0)).setF Fld.secFenceInvalid 0 1).note ⟨ceLockdown, 0, 0, 0, 0, []⟩
  else match s4.sec.fence with
    | some r => s4.applyFences r
    | none => s4.applyFences (plainFence 1800 110 256)

/-! ### Bring-up (R834 steps 5 to 7) -/

/-- The registers of the repair record (R811); on a device that has none yet, those of a complete device with its spares
unused: logical region k on the k-th active physical region of its die. -/
def State.applyRecord (s : State) : State :=
  if s.ras.saved.isEmpty then
    let s1 := s.setFs 0 [(Fld.sysActiveRegions, 16), (Fld.sysActiveBlocks, 256), (Fld.sysActiveCells, 4096), (Fld.sysActiveStacks, 12)]
    let s2 := (List.range 16).foldl (fun s k =>
      s.setFs (k / 8) [(Fld.sysMapValid (k % 8), 1), (Fld.sysMapPhys (k % 8), k / 8 * 10 + k % 8)]) s1
    (List.range 12).foldl (fun s k => s.setFs k [(Fld.hbmState, 1), (Fld.hbmMinSpares, 8)]) s2
  else recordRegs.foldl (fun s r => match kvGet s.ras.saved (r.1.addr r.2) with
    | some w => s.wr r.1 r.2 w.toNat
    | none => s) s

/-- The pseudo-channels that RETURN_PC brings back (R520). -/
def State.returnPcs (s : State) : State :=
  let back (s : State) (k : Nat) : State :=
    let st := k / 64
    if bitOf (s.getF Fld.hbmPcOff st) (k % 64) then
      let s1 := s.setFs st [(Fld.hbmPcOff, s.getF Fld.hbmPcOff st ^^^ 2 ^ (k % 64)), (Fld.hbmPcOffCount, s.getF Fld.hbmPcOffCount st - 1)]
      if s1.getF Fld.hbmState st = 2 ∧ s1.getF Fld.hbmPcOffCount st = 0 then s1.setF Fld.hbmState st 1 else s1
    else s
  let s1 := s.hbm.returning.foldl back s
  { s1 with hbm := { s1.hbm with returning := [], tested := s1.hbm.tested.filter fun k => !s.hbm.returning.contains k } }

/-- Steps 5 to 7 of start-up: the record, or a full scan that finds the same; HBM trained and zeroed; spares tested; links with
signal into TRAINING; the device's own link-state record. -/
def State.bringUp (s : State) (f : BootFinds) : State :=
  let s1 := s.applyRecord.returnPcs.setF Fld.sysBootStage 0 stageBringUp
  let s2 := if f.repairRecord then s1
    else (s1.setF Fld.sysBootScan 0 1).logErr ⟨0x11, sevDegraded, 7, whereNone, 0, 0, 0xFF, 0, 0⟩
  let s3 := f.badStacks.foldl (fun s k => if decide (k < 12) && s.stackOnline k then s.offlineStack k false else s) s2
  let s4 := (f.badSpares.foldl State.spareBad s3).setFs 0 [(Fld.sysDoneHbm, 1), (Fld.sysDoneUnits, 1)]
  let s5 := (f.signal.filter (· < 96)).foldl (fun s l =>
    let s1 := s.updLink l fun k => { k with signal := true }
    if s.getF Fld.hlkLkCap l = 0 then s1 else s1.setF Fld.hlkLkState l lkTraining) s4
  ((s5.updTime fun t => { t with accepted := false }).originate.setEnvelope).noteTime

/-- Step 7: the images that pass, and whether they came from the secondary slot (R768, R769, R833). -/
def State.bootImage (s : State) (f : BootFinds) : Option (Nat × Bool) :=
  let ok (b : Bool) (v : Nat) : Bool := b && decide (s.sec.minSvn ≤ v)
  if f.bootSel % 4 != 1 && ok f.primary f.version then some (f.version, false)
  else if ok f.secondary f.version2 then some (f.version2, true)
  else none

/-- BOOT_START: the pins are sampled, the boot chain runs, and the stages up to BRING_UP pass (R829, R833 to R839). -/
def State.bootStart (s : State) (f : BootFinds) : State :=
  let s0 := s.updPw fun p => { p with held := false, resetN := true, bootSel := f.bootSel % 4, pcieX8 := f.x8, pcieUp := p.refclk100
                                      bootNs := s.upNs }
  let s1 := s0.setFs 0 [(Fld.sysBootStage, stageRom), (Fld.sysBootSel, f.bootSel % 4)]
  if !f.selfTest then (s1.setF Fld.secIslandState 0 islError).bootHalt 1 f.ms
  else if !f.makerList then s1.bootHalt 2 f.ms
  else
    let s2 := s1.updSec fun x => { x with makers := f.makers.take 8 }
    if !f.config then s2.bootHalt 3 f.ms
    else
      let s3 := s2.bootRecords f
      if f.bootSel % 4 = 2 then s3.setF Fld.sysBootStage 0 stageRecovery
      else
        match s3.bootImage f with
        | none => s3.bootHalt 7 f.ms
        | some v =>
          let r := s3.freshBytes 32
          let s4 := (r.2.updSec fun x => { x with bootSvn := v.1, measured := if v.2 then f.digests2 else f.digests }).setF Fld.sysBootSecondary 0 (natOfBool v.2)
          let s5 := (s4.note ⟨ceBoot, 0, 0, 0, 0, r.1⟩).checkpoint
          s5.bringUp f

/-- BOOT_START. -/
def execBootStart (f : BootFinds) (s : State) : Ans :=
  .next (s.ifB (s.pw.pwrGood && s.pw.sysclk && s.pw.refclk156 && s.pw.held && !s.pw.tripped) fun s => s.bootStart f)

/-! ### READY (R837, R838, R841) -/

/-- The time condition: the counter is locked, or there is nothing to lock to (R837). -/
def State.timeOk (s : State) : Bool :=
  s.timeSt == tsPps || s.timeSt == tsLink || (!s.time.accepted && !s.flag Fld.hlkTtHasParent 0)

/-- The device enters READY and acts on the doorbells kept. -/
def State.enterReady (s : State) : State :=
  let s1 := s.noteFabric.noteTime
  let locked := s.timeSt == tsPps || s.timeSt == tsLink
  let s2 := s1.setFs 0 [(Fld.sysBootStage, stageReady), (Fld.sysBootMs, satNat ((s.upNs - s.pw.bootNs) / 1000000) (2 ^ 32 - 1)),
    (Fld.sysRdyNoFabric, natOfBool (!s.fabricOk)), (Fld.sysRdyNoTime, natOfBool (!locked)), (Fld.sysDoneTime, natOfBool s.timeOk)]
  ((List.range 256).filter fun r => s2.rgState r != rgDisabled).foldl (fun s r => s.pump r) s2

/-- READY: the conditions of R837 are met, or 44 s have passed since boot start (`late`). -/
def execReady (late : Bool) (s : State) : Ans :=
  .next (s.ifB (s.live && s.stage == stageBringUp && (late || (s.fabricOk && s.timeOk))) State.enterReady)

end Sys2Proof.Machine
end

