-- ==== Sys2Proof/Machine/Dense.lean ====
section
/-! DEFINITION. DENSE and SPARSE plates (R230 to R259): the record checks, the tracer, masks, and the output. -/

namespace Sys2Proof.Machine

/-- What a product plate reads: its arguments, its record, its shape, its reader. -/
structure ProductJob where
  args : ProductArgs
  prec : ProductRec
  shape : ProductShape
  sparse : Bool
  rd : Reader
  /-- The number of hops of its chain (0: none), and the region of the last one. -/
  hops : Nat
  last : Option Nat

/-- The mask tile of an output tile: header, bytes, the code of its first failed check, and whether it is poisoned. -/
def ProductJob.maskTile (j : ProductJob) (i k : Nat) : OpTile :=
  let w := j.shape
  let r := readTile j.rd j.prec.mask (i * w.colTiles + k)
  let h := tileHdrOf r.1
  let code := tileCheck anyThFmt h r.1 ⟨i, k, 1, k + 1 == w.colTiles, i + 1 == w.rowTiles, false, r.2.1⟩ false
  ⟨h, r.1, code, r.2.2 || h.poisoned⟩

/-- The plate takes mask tiles. -/
def ProductJob.masked (j : ProductJob) : Bool := j.args.sampled || j.args.storeForm == 3

/-- What the tracer finds for a row tile: the active neurons in increasing order, the weight tiles of the two layers that it
read, and whether a tile that it used failed or is poisoned. -/
structure TraceOut where
  active : List Nat
  w1 : List OpTile
  w2 : List OpTile
  bad : Bool

/-- The tracer on a row tile (R255). A failed tile poisons the groups that it feeds, which close to zeros (R193, R242); the
choice of neurons rests on every one of them, so each output tile of the row tile is poisoned (R258; for a tile of A DEDUCED). -/
def ProductJob.traceRow (j : ProductJob) (t : TracerRec) (as : List OpTile) (i : Nat) : TraceOut :=
  let w1 := weightLines j.rd t.w1 t.d t.q
  let w2 := weightLines j.rd t.w2 t.q t.f
  let nr := min 32 (j.shape.rows - 32 * i)
  let bad1 := as.any OpTile.bad || w1.2.flatten.any OpTile.bad
  let bad2 (k : Nat) : Bool := (w2.2.getD k []).any OpTile.bad
  let acts := (List.range nr).map fun r => tracerActive t (tracerScores t (aLine j.shape as r) w1.1 w2.1 bad1 bad2)
  ⟨acts.foldl (fun a l => l.foldl setIns a) [], w1.2.flatten, w2.2.flatten, bad1 || w2.2.flatten.any OpTile.bad⟩

/-- Row-major values of an output tile: none where a mask omits the element, zero where the tracer holds it inactive. -/
def tileValues (sums : List (List Int)) (gone : Nat → Nat → Bool) (zero : Nat → Bool) : List (Option Val) :=
  sums.zipIdx.flatMap fun r => r.1.zipIdx.map fun e => if gone r.2 e.2 then none else some (.int (if zero e.2 then 0 else e.1))

/-- A tile that a plate read: its array (0 A, 1 B, 2 mask, 3 and 4 the tracer's) and its place there, 8 × place + array; the tile;
the groups of it that were read. -/
structure TileRead where
  key : Nat
  tile : OpTile
  groups : List Nat

/-- The groups of a tile that a predicate picks. -/
def pickGroups (live : Nat → Bool) : List Nat := (List.range 8).filter live

/-- A tile of which every group is read. -/
def TileRead.all (key : Nat) (t : OpTile) : TileRead := ⟨key, t, List.range 8⟩

/-- One row tile: its output tiles, its segments run sparse and dense, what was skipped, the tiles that it read. -/
structure RowOut where
  tiles : List TileIn
  sparseSegs : Nat
  denseSegs : Nat
  skipped : Nat
  read : List TileRead
  active : Option (List Nat)

/-- One row tile of a product plate. `live` is the active set that a role-1 plate applies; `tr` the record that a role-0
plate computes with. -/
def ProductJob.rowTile (j : ProductJob) (tr : Option TracerRec) (live : Option (List Nat)) (i : Nat) : RowOut :=
  let w := j.shape
  let keep (g : Nat) : Bool := match live with
    | some l => l.any fun p => p / 32 == g
    | none => true
  let all0 := aTiles j.rd j.prec.a w keep i
  let trace := tr.map fun t => j.traceRow t all0 i
  let as := w.usedTiles w.aGroups keep all0
  let off (n : Nat) : Bool := match trace with
    | some x => !x.active.contains n
    | none => false
  let traceBad := match trace with
    | some x => x.bad
    | none => false
  let nr := min 32 (w.rows - 32 * i)
  let mask (k : Nat) : Option OpTile := if j.masked then some (j.maskTile i k) else none
  let pos (k r : Nat) : List Nat := match mask k with
    | some t => (tileLinePositions t.hdr t.bytes r).1
    | none => []
  let idle (k : Nat) : Bool := trace.isSome && (List.range (min 32 (w.cols - 32 * k))).all fun n => off (32 * k + n)
  let skipped (k : Nat) : Bool := idle k || (j.args.sampled &&
    (match mask k with | some t => !t.bad && (List.range nr).all fun r => (pos k r).isEmpty | none => false))
  let cols (k : Nat) : Bool := decide (k < w.colTiles) && !skipped k
  let per (k : Nat) : TileIn × (Nat × Nat) × Nat × List TileRead :=
    let nc := min 32 (w.cols - 32 * k)
    let m := mask k
    let skip := skipped k
    let bs := if skip then [] else w.usedTiles w.bSpan keep (bTiles j.rd j.prec.b w keep cols k)
    let seg := if skip then (0, 0) else tileSegments w (!j.sparse) j.args.effXover as bs keep k
    let sums := if skip then List.replicate nr (List.replicate nc 0) else tileSums w j.hops as bs keep i k
    let poison := traceBad || (!skip && (as ++ bs).any OpTile.bad) ||
      (match m with | some t => t.bad | none => false)
    let gone (r n : Nat) : Bool := j.args.sampled && !(pos k r).contains n
    (⟨i, k, nr, nc, tileValues sums gone (fun n => off (32 * k + n)), zeroElem j.args.close.fmt, false, poison,
        match m with | some t => if t.bad then none else some (t.hdr, t.bytes) | none => none, j.last⟩,
      seg, natOfBool (idle k),
      ((bs.zipIdx.filter fun e => w.spanLive w.bSpan keep e.2).map fun e =>
        ⟨8 * (if w.transposeB then e.2 * w.bKts + k / w.bGroups else k * w.bKts + e.2) + 1, e.1,
          pickGroups (w.bLive keep cols (if w.transposeB then k / w.bGroups else e.2))⟩) ++
        (match m with | some t => [TileRead.all (8 * (i * w.colTiles + k) + 2) t] | none => []))
  let all := (List.range w.colTiles).map per
  { tiles := all.map (·.1)
    sparseSegs := (all.map (·.2.1.1)).sum
    denseSegs := (all.map (·.2.1.2)).sum
    skipped := (all.map (·.2.2.1)).sum + (if live.isSome then ((List.range w.groups).filter (!keep ·)).length else 0)
    read := ((as.zipIdx.filter fun e => trace.isSome || w.spanLive w.aGroups keep e.2).map fun e =>
        ⟨8 * (i * w.aKts + e.2), e.1, pickGroups fun g => keep (e.2 * w.aGroups + g)⟩) ++
      (match trace with
        | some x => (x.w1.zipIdx.map fun e => TileRead.all (8 * e.2 + 3) e.1) ++ x.w2.zipIdx.map fun e => TileRead.all (8 * e.2 + 4) e.1
        | none => []) ++ all.flatMap (·.2.2.2)
    active := trace.map (·.active) }

/-- Join a read of a tile to the reads so far: its groups, and the first failure found. -/
def joinRead (a : TileRead) : List TileRead → List TileRead
  | [] => [a]
  | b :: l =>
    if b.key = a.key then ⟨b.key, if b.tile.code = 0 then a.tile else b.tile, a.groups.foldl setIns b.groups⟩ :: l
    else b :: joinRead a l

/-- The tiles that a plate reads, each once. -/
def readOnce (ts : List TileRead) : List TileRead := ts.foldl (fun l a => joinRead a l) []

/-- Note that a tile of the array at `base` was read (R430): its directory entry, and the lines that hold what was read of it. -/
def State.noteTileRead (s : State) (c base : Nat) (t : TileRead) : State :=
  let e := leNat (s.chaseRead c (base + 8 * (t.key / 8)) 8).1
  let b := (s.chaseRead c (base + bitsOf e 39 0) (64 * bitsOf e 63 40)).1
  let live (g : Nat) : Bool := t.groups.contains g
  if readsWhole t.tile.hdr b (bitsOf e 63 40) live then s.noteTile c base (t.key / 8)
  else ((groupSectors t.tile.hdr b live).map (· / 2)).eraseDups.foldl (fun s k => s.noteRead c (base + bitsOf e 39 0 + 64 * k) 64)
    (s.noteRead c (base + 8 * (t.key / 8)) 8)

/-- The work of a DENSE or SPARSE plate. -/
def State.productPlate (s : State) (c : Nat) : State :=
  let p := s.plate c
  let args := productArgsOf p.args
  let rd := s.chaseRead c
  let raw := rd p.src 64
  let r := productRecOf raw.1
  let t := rd r.tracer 64
  let tr := tracerRecOf t.1
  let ok := !raw.2 && productRecOk r args p.tracer && recAddr r.a && recAddr r.b && recAddr r.mask && recAddr r.tracer &&
    (!p.tracer || (!t.2 && tracerRecOk tr p.count r.cols && recAddr tr.w1 && recAddr tr.w2))
  let s0 := s.noteRead c p.src 64
  if !ok then s0.recordFault c
  else
    let shape : ProductShape := ⟨r.rows, r.cols, p.count, r.aGroups, r.bGroups, args.transposeB⟩
    let job : ProductJob := ⟨args, r, shape, p.op == opSparse, rd, (s.plateHops c).length, s.lastHop c⟩
    let rows := (List.range shape.rowTiles).map fun i =>
      job.rowTile (if p.tracer && !args.trRole then some tr else none)
        (if p.tracer && args.trRole then kvGet (s.chase c).tracer i else none) i
    let read := readOnce (rows.flatMap (·.read))
    let base (k : Nat) : Nat := [r.a, r.b, r.mask, tr.w1, tr.w2].getD (k % 8) 0
    let s2 := read.foldl (fun s e => s.noteTileRead c (base e.key) e) s0
    let s3 := s2.metaFaults c (read.map (·.tile))
    let q := s3.dealPhys c 0
    let s4 := (s3.bump Fld.rgnArrSparseSegs q (rows.map (·.sparseSegs)).sum).bump Fld.rgnArrDenseSegs q (rows.map (·.denseSegs)).sum
    let s5 := if p.tracer then
        ((s4.bump Fld.rgnTrcPlates q 1).bump Fld.rgnTrcSkipped q (rows.map (·.skipped)).sum).updWork c fun w => { w with tracer := w.tracer + 1 }
      else s4
    let s6 := rows.zipIdx.foldl (fun s e => match e.1.active with
      | some l => s.updChase c fun x => { x with tracer := kvPut x.tracer e.2 l }
      | none => s) s5
    s6.writeOutput c p.dst ⟨args.close, if job.masked then 0 else args.storeForm, args.storeNm, shape.colTiles⟩
      (rows.flatMap (·.tiles))

/-- DENSE: the DENSE plate in hand does its work. -/
def execDense (slot : Nat) (hw : List HwEvent) (s : State) : Ans := .next (s.plateDo slot opDense hw fun s => s.productPlate slot)

/-- SPARSE: the SPARSE plate in hand does its work. -/
def execSparse (slot : Nat) (hw : List HwEvent) (s : State) : Ans := .next (s.plateDo slot opSparse hw fun s => s.productPlate slot)

end Sys2Proof.Machine
end

