-- ==== Sys2Proof/Machine/Groups.lean ====
section
/-! DEFINITION. Accumulation groups (R178 to R198): OPEN_ZERO, OPEN_LOAD, FEED with its residue check (R176, R790, R794,
R795), ADD_WIDE and CLOSE. -/

namespace Sys2Proof.Machine

/-- The cell is there and works. -/
def State.cellWorks (s : State) (cell : CellId) : Bool :=
  s.isReady && s.regionValid cell.region && decide (cell.region < 16) && decide (cell.block < 16) && decide (cell.cell < 16)

/-- A group that is OPEN. -/
def State.openGroup (s : State) (cell : CellId) (g : Nat) : Option AccGroup :=
  if s.cellWorks cell && decide (g < 8) then (kvGet s.groups (groupKey cell g)).filter fun x => x.st == 1 else none

/-- A group that is FREE can be opened (R180, R182). -/
def State.canOpen (s : State) (cell : CellId) (g : Nat) : Bool :=
  s.cellWorks cell && decide (g < 8) && (kvGet s.groups (groupKey cell g)).isNone

def State.setGroup (s : State) (cell : CellId) (g : Nat) (x : AccGroup) : State :=
  { s with groups := kvPut s.groups (groupKey cell g) x }

/-- All eight groups of a cell are in use (R182). -/
def State.cellFull (s : State) (cell : CellId) : Bool :=
  (List.range 8).all fun g => (kvGet s.groups (groupKey cell g)).isSome

/-- The limits of an output tile (R178, R217). -/
def tileFits (x : GroupShape) : Bool := decide (x.rows ≤ 32) && decide (x.cols ≤ 32)

/-- Open a group with accumulators and a poison flag. A tile whose group is not FREE waits (R182): for that group, or for any
one where all eight were in use; it displaces none. -/
def State.openWith (s : State) (cell : CellId) (g : Nat) (shape : GroupShape) (acc : List Int) (poison : Bool) : State :=
  let x : AccGroup := ⟨1, poison, acc, shape, false, acc, poison⟩
  if !s.cellWorks cell || decide (8 ≤ g) || !tileFits shape then s
  else if s.canOpen cell g then s.setGroup cell g x
  else { s with openWaits := s.openWaits ++ [⟨cellKey cell, g, s.cellFull cell, x⟩] }

/-- Group `g` of a cell is FREE: the oldest tile that waits for it opens there (R182). -/
def State.openWaiting (s : State) (cell : CellId) (g : Nat) : State :=
  match s.openWaits.find? fun w => w.cell == cellKey cell && (w.any || w.g == g) with
  | some w => ({ s with openWaits := s.openWaits.erase w } : State).setGroup cell g w.grp
  | none => s

/-- OPEN_ZERO (R180). -/
def execOpenZero (cell : CellId) (g : Nat) (shape : GroupShape) (s : State) : Ans :=
  .next (s.openWith cell g shape (List.replicate (shape.rows * shape.cols) 0) false)

/-- OPEN_LOAD: full-width partial records in row order; poison is the OR of theirs (R180, R184). -/
def execOpenLoad (cell : CellId) (g : Nat) (shape : GroupShape) (recs : List Bytes) (s : State) : Ans :=
  let l := (List.range (shape.rows * shape.cols)).map fun i => wideOf (recs.getD i [])
  .next (s.openWith cell g shape (l.map (·.value)) (l.any (·.poison)))

/-! ### FEED -/

/-- What a column does in a FEED: its accumulator after, and 0 no fault, 1 a transient, 2 a hard mismatch. -/
def feedColumn (f : FeedOp) (n : Nat) (acc : Int) : Int × Nat :=
  let as := (f.a.take 32).map (decodeElem f.fmtA)
  let bs := ((f.w.getD n []).take 32).map (decodeElem f.fmtB)
  let p := groupPartial as bs
  let p1 := p + ((f.err1.find? fun e => e.1 == n).map (·.2)).getD 0
  let p2 := p + ((f.err2.find? fun e => e.1 == n).map (·.2)).getD 0
  let into (q : Int) : Int := accAdd acc (placePartial q (groupExp f.ea) (groupExp (f.eb.getD n 0)))
  if residueOk p1 as bs then (into p1, 0) else if residueOk p2 as bs then (into p2, 1) else (acc, 2)

/-- The columns of the row of a FEED. -/
def feedRow (x : AccGroup) (f : FeedOp) : List (Int × Nat) :=
  (List.range x.shape.cols).map fun n => feedColumn f n (x.acc.getD (f.row * x.shape.cols + n) 0)

/-- The accumulators after a FEED of one row. -/
def feedAcc (x : AccGroup) (f : FeedOp) : List Int :=
  (feedRow x f).zipIdx.foldl (fun acc e => acc.set (f.row * x.shape.cols + e.2) e.1.1) x.acc

/-- FEED of an OPEN group (R172, R173, R176, R183, R184). -/
def State.feed (s : State) (cell : CellId) (g : Nat) (x : AccGroup) (f : FeedOp) : State :=
  let r := (feedRow x f).zipIdx
  let hard := (r.filter fun e => e.1.2 == 2).map (·.2)
  let once := (r.filter fun e => e.1.2 == 1).map (·.2)
  let s1 := if hard.isEmpty then s.setGroup cell g { x with acc := feedAcc x f, poison := x.poison || f.poison } else s
  let s2 := once.foldl (fun s n => s.transient cell n x.shape.slot) s1
  hard.foldl (fun s n => s.columnFails cell n x.shape.slot) s2

/-- FEED: one row and one group pair. R180 gives the operation from OPEN only: on another group nothing happens (DESIGN CHOICE), and
so with ADD_WIDE and CLOSE. -/
def execFeed (cell : CellId) (g : Nat) (f : FeedOp) (s : State) : Ans :=
  .next (match s.openGroup cell g with
    | some x => s.feed cell g x f
    | none => s)

/-! ### ADD_WIDE and CLOSE -/

/-- A group after an ADD_WIDE into accumulator (`r`, `n`) (R180, R184). One that lies past the tile's extent in either direction is no
part of the tile: no accumulator that CLOSE converts changes, and a poisoned value still poisons the group (DESIGN CHOICE, log 139:
the spec states no effect there). -/
def AccGroup.addRec (x : AccGroup) (r n : Nat) (w : WideRec) : AccGroup :=
  let i := r * x.shape.cols + n
  { x with acc := if n < x.shape.cols then x.acc.set i (accAdd (x.acc.getD i 0) w.value) else x.acc
           poison := x.poison || w.poison, addWide := true }

/-- ADD_WIDE: one full-width value into one accumulator. -/
def execAddWide (cell : CellId) (g r n : Nat) (rec : Bytes) (s : State) : Ans :=
  .next (match s.openGroup cell g with
    | some x => s.setGroup cell g (x.addRec r n (wideOf rec))
    | none => s)

/-- CLOSE of an OPEN group: the tile is converted and written out, its event counted; the group is CLOSING while that lasts and
then FREE (R180, R190), and a tile that waits takes it (R182). -/
def State.closeGroup (s : State) (cell : CellId) (g : Nat) (x : AccGroup) (cw : CloseWord) : State :=
  let t : TileIn := ⟨x.shape.lineTile, x.shape.kTile, x.shape.rows, x.shape.cols, x.acc.map fun a => some (.int a), zeroElem cw.fmt,
    false, x.poison, none, none⟩
  let r := closeTile cw t.fill t.poison t.vals
  let s1 := s.countClose x.shape.slot (s.physOf cell.region) x.shape.plate cw r
  let s2 := s1.writeTile x.shape.slot x.shape.dst (storeTile 0 0 (t.out cw r)).bytes
  ({ s2 with groups := kvDel s2.groups (groupKey cell g) } : State).openWaiting cell g

/-- CLOSE: the close word is one that validation accepts (R187). -/
def execClose (cell : CellId) (g cw : Nat) (s : State) : Ans :=
  .next (match s.openGroup cell g with
    | some x => if closeWordOk cw then s.closeGroup cell g x (closeWordOf cw) else s
    | none => s)

end Sys2Proof.Machine
end

