-- ==== Sys2Proof/Machine/HostRegs.lean ====
section
/-! DEFINITION. Register accesses of BAR0 (R11 to R21, R651 to R659, R871): which registers answer in which stage, what a read shows
that is not stored as it is shown, and the writes that act. -/

namespace Sys2Proof.Machine

/-! ### What a register shows -/

/-- The galley that GAL_SELECT names: its slot and declaration (R369). -/
def State.selected (s : State) : Option (Nat × GalleySt) :=
  let c := s.getF Fld.galSelSlot 0
  ((galDecls (s.forme c))[s.getF Fld.galSelGalley 0]?).bind fun d => (s.galley c (gdId d)).map fun g => (c, g)

/-- A field's value in a register's word. -/
def inField (f : Field) (v : Nat) : Nat := satNat v f.max * 2 ^ f.lo

/-- A GAL register of the selected galley. -/
def State.galWord (s : State) (r : RegName) (c : Nat) (g : GalleySt) : Nat :=
  match r with
  | .galDesc => inField Fld.galValid 1 + inField Fld.galSharded (natOfBool g.sharded) + inField Fld.galTrainable (natOfBool g.trainable) +
      inField Fld.galType g.ty + inField Fld.galEm (patOf 8 g.em) + inField Fld.galElements g.n + inField Fld.galGdId (gdId g.decl)
  | .galRows => localRows g.sharded (s.members c) (s.ordinal c) g.slugs
  | .galState => inField Fld.galServing ((g.serving.map GalState.num).getD 0) + inField Fld.galIncoming ((g.incoming.map GalState.num).getD 0)
  | .galStateFlags => inField Fld.galSwitchPending (natOfBool (g.pending || g.named.isSome)) +
      inField Fld.galIncSealed (natOfBool (g.states.any fun x => x.stage == 1)) + inField Fld.galDraining g.draining
  | .galBlank => inField Fld.galBlankMissing g.cnt.missing + inField Fld.galBlankInvalid g.cnt.invalid
  | .galDrops => inField Fld.galQueueDrops g.cnt.queueDrops + inField Fld.galPoisonDrops g.cnt.poisonDrops +
      inField Fld.galBlankGrads g.cnt.blankGrads
  | .galPool => inField Fld.galRefetch g.cnt.refetch + inField Fld.galUnpooled g.cnt.unpooled
  | .galTrain => inField Fld.galScatterRounded g.cnt.rounded + inField Fld.galPublishSat g.cnt.publishSat +
      inField Fld.galMasterWrap g.cnt.masterWrap
  | .galBytes => inField Fld.galStoredBytes (match g.serving with
      | some x => ((x.listedRows g.r).map fun k => (s.rowIn false c g x k).bodyLen g.n g.r).sum
      | none => 0)
  | .galFaults => inField Fld.galBagFaults g.cnt.bagFaults + inField Fld.galGradFaults g.cnt.gradFaults
  | _ => 0

/-- A read takes the counters of a GAL register with it (R15, R871): `lo` and `hi` say which halves it covers. -/
def clearGal (r : RegName) (lo hi : Bool) (n : GalCnt) : GalCnt :=
  let l (v : Nat) : Nat := if lo then 0 else v
  let h (v : Nat) : Nat := if hi then 0 else v
  match r with
  | .galBlank => { n with missing := h n.missing, invalid := l n.invalid }
  | .galDrops => { n with queueDrops := h n.queueDrops, poisonDrops := h n.poisonDrops, blankGrads := l n.blankGrads }
  | .galPool => { n with refetch := h n.refetch, unpooled := l n.unpooled }
  | .galTrain => { n with rounded := h n.rounded, publishSat := l n.publishSat, masterWrap := l n.masterWrap }
  | .galFaults => { n with bagFaults := h n.bagFaults, gradFaults := l n.gradFaults }
  | _ => n

/-- Whether a register is a GAL register other than GAL_SELECT. -/
def isGal (r : RegName) : Bool :=
  match r with
  | .galDesc | .galRows | .galState | .galStateFlags | .galBlank | .galDrops | .galPool | .galTrain | .galBytes | .galFaults => true
  | _ => false

/-- Bytes that lie in a tier: homes, copies on chip and in spare units, guest copies (R425). -/
def State.tierBytes (s : State) (t : Nat) : Nat :=
  ((List.range 16).map fun c =>
    let x := s.chase c
    if t = 5 then (x.guests.map fun u => s.copyBytes c u.galley).sum
    else 4096 * (x.frames.map fun e => natOfBool (e.2.tier == t) + (e.2.copies.filter fun k => k.tier == t).length).sum +
      ((x.slugCopies.filter fun e => e.store.tier == t).map fun e => s.copyBytes c e.galley).sum).sum

/-- Every store of spare-unit SRAM (R34, R35). -/
def spareAll : List Store :=
  (List.range 20).flatMap fun p => ((List.range 18).flatMap fun b =>
    (⟨6, p, b, 16⟩ : Store) :: if 16 ≤ b then [⟨6, p, b, 0⟩] else []) ++ [⟨6, p, 18, 0⟩]

/-- IMP_TIER: capacity and use of a tier in MiB (R425). -/
def State.tierWord (s : State) (t : Nat) : Nat :=
  let regions := (List.range 16).filter s.regionValid
  let cap := match t with
    | 0 => s.getF Fld.sysActiveCells 0 / 4
    | 1 => s.getF Fld.sysActiveBlocks 0 * 2
    | 2 => regions.foldl (fun n k => n + s.getF Fld.rcEffEngine (s.physOf k)) 0
    | 3 | 4 => s.getF Fld.sysActiveStacks 0 * 32768
    | 5 => (List.range 16).foldl (fun n c => n + s.getF Fld.impGuestGranted c) 0
    | _ => (spareAll.map s.storeBytes).sum / 2 ^ 20
  inField Fld.impTierCap cap + satNat (s.tierBytes t / 2 ^ 20) (2 ^ 32 - 1)

/-- Seconds until the earliest authorisation in force lapses. -/
def State.authRemain (s : State) : Nat :=
  match s.sec.auths.map Auth.untilNs with
  | [] => 0
  | t :: ts => ceilDiv (ts.foldl min t - s.upNs) 1000000000

/-- The word that a read of a register returns. -/
def State.viewWord (s : State) (r : RegName) (i : Nat) : Nat :=
  let w := s.rd r i
  if isGal r then (match s.selected with | some g => s.galWord r g.1 g.2 | none => 0)
  else match r with
  | .sysPartId => setBits w 19 16 (natOfBool Config.variant)
  | .hlkSerial => Config.serial.toNat
  | .hifStatus => if s.pw.pcieUp then setBits (setBits w 3 0 6) 12 8 (if s.pw.pcieX8 then 8 else 16) else w
  | .hifAperture => setBits w 63 63 (natOfBool (!s.stackOnline (s.getF Fld.hifApStack 0)))
  | .rcMb => setBits w 39 32 (match s.logicalOf i with | some k => satNat (s.mbOf k).length 255 | none => 0)
  | .impTier => s.tierWord i
  | .inkThrottle => setBits w 61 61 (natOfBool (!s.ink.low))
  | .secAuth => setBits w 31 0 s.authRemain
  | _ => w

/-! ### Which part of BAR0 answers -/

/-- Before stage BRING_UP, and in HALTED, only SYS_PART_ID, SYS_BOOT and the SEC block answer (R834, R839). -/
def State.served (s : State) (off : Nat) : Bool :=
  s.windowUp || decide (off < 8) || decide (0x40 ≤ off) && decide (off < 0x48) || decide (0x1800000 ≤ off) && decide (off < 0x1C00000)

/-- A naturally aligned access of 4 or 8 bytes inside BAR0 (R11, R652). -/
def accessOk (off width : Nat) : Bool := (width == 4 || width == 8) && off % width == 0 && decide (off < 0x4000000)

/-- The mailbox buffer (R750), the MSI-X table and its pending bits (R653). -/
def inBuffer (off : Nat) : Bool := decide (0x1810000 ≤ off) && decide (off < 0x1814000)
def inMsix (off : Nat) : Bool := decide (0x1F0000 ≤ off) && decide (off < 0x1F8000)
def inPba (off : Nat) : Bool := decide (0x1F8000 ≤ off) && decide (off < 0x1F8100)

/-- The bytes of a word that an access covers. -/
def halfOf (w off width : Nat) : Bytes := slice (natLe 8 w) (off % 8) width

/-! ### Reads -/

/-- A read clears the RC fields that it covers whole (R15, R871). -/
def State.clearRc (s : State) (r : RegName) (i off width : Nat) : State :=
  let a := 8 * (off % 8)
  let whole (f : FieldSpec) : Bool := f.acc == Access.rc && decide (a ≤ f.lo) && decide (f.hi < a + 8 * width)
  let w := r.fields.foldl (fun w f => if whole f then setBits w f.hi f.lo 0 else w) (s.rd r i)
  if r.fields.any whole then s.wr r i w else s

/-- A read of register `r`, instance `i`. -/
def State.readReg (s : State) (r : RegName) (i off width : Nat) : State :=
  let s0 : State := match r with
    | .timeNs => s.readTimeNs
    | .hifApertureSync => (let d := s.drainAll; d.1.setF Fld.hifApDrained 0 (satNat d.2 (2 ^ 32 - 1)))
    | .hifDmaFence => s.setF Fld.hifDmaWaited 0 0
    | _ => s
  let s1 := s0.emit (.readData (halfOf (s0.viewWord r i) off width) false)
  if isGal r then
    match s1.selected with
    | some g => s1.updGalley g.1 (gdId g.2.decl) fun x => { x with
        cnt := clearGal r (decide (off % 8 = 0)) (decide (4 < off % 8 + width)) x.cnt }
    | none => s1
  else s1.clearRc r i off width

/-- A BAR0 read that reaches the device. -/
def State.bar0Read (s : State) (off width : Nat) : State :=
  if !accessOk off width then (s.bump Fld.hifUrOther 0 1).emit .unsupported
  else if !s.served off then
    let r := s.freshBytes width
    r.2.emit (.readData r.1 false)
  else if inBuffer off then
    s.emit (.readData (if s.mbServed then memGetRun s.sec.buf (off - 0x1810000) width else List.replicate width 0) false)
  else if inMsix off then s.emit (.readData (halfOf (s.msixWord ((off - 0x1F0000) / 8)) off width) false)
  else if inPba off then
    let k := 64 * ((off - 0x1F8000) / 8)
    s.emit (.readData (halfOf (s.msixPend.foldl (fun w v => if k ≤ v ∧ v < k + 64 then w + 2 ^ (v - k) else w) 0) off width) false)
  else
    match findReg (off / 8 * 8) with
    | some (r, i) => s.readReg r i off width
    | none => s.emit (.readData (List.replicate width 0) false)

/-- REGISTER_READ: a host read of BAR0. -/
def execRegisterRead (rid off width : Nat) (s : State) : Ans := .next (s.hostRead rid fun s => s.bar0Read off width)

/-- TIME_NS: a 64-bit host read of TIME_NS (R731). -/
def execTimeNs (rid : Nat) (s : State) : Ans :=
  .next (s.regRead rid fun s => s.readTimeNs.emit (.readData (natLe 8 (s.rd .timeNs 0)) false))

/-! ### Writes -/

/-- One field under a write of the bits [a + n − 1 : a] of its register; `v` is the register's word with them replaced. -/
def writeField (w v a n : Nat) (f : FieldSpec) : Nat :=
  if f.hi < a ∨ a + n ≤ f.lo then w
  else
    let x := bitsOf v f.hi f.lo
    match f.acc with
    | .rw => if f.vmin ≤ x ∧ x ≤ f.vmax then setBits w f.hi f.lo x else w
    | .w1c => if bitOf v f.hi then setBits w f.hi f.lo 0 else w
    | .w1s => if bitOf v f.hi then setBits w f.hi f.lo 1 else w
    | _ => w

/-- A write of `value` to a register that acts in no other way (R12, R13, R15). -/
def State.plainWrite (s : State) (r : RegName) (i off width value : Nat) : State :=
  let a := 8 * (off % 8)
  let old := s.rd r i
  let v := setBits old (a + 8 * width - 1) a value
  let w := r.fields.foldl (fun w f =>
    if f.acc == Access.w1c && !(decide (a ≤ f.lo) && decide (f.hi < a + 8 * width)) then w else writeField w v a (8 * width) f) old
  if w = old then s else s.wr r i w

/-- A 64-bit write of HBM_MAINT (R520); what the self-test of TEST_PC finds is open here. -/
def State.maintWrite (s : State) (k value : Nat) : State :=
  let op := bitsOf value 34 32
  let pc := bitsOf value 31 26
  let bank := bitsOf value 25 21
  let row := bitsOf value 20 6
  s.maint k op pc bank row value fun s =>
    match op with
    | 1 => s.readMap k pc bank
    | 2 => s.repairRow k pc bank row
    | 3 => (let r := s.fresh; r.2.testPc k pc (r.1 % 2 == 1))
    | 4 => s.returnPc k pc
    | _ => s.setF Fld.hbmMtStatus k 1

/-- A write of HIF_HOST_POOL: `v` is the register's new word (R659). -/
def State.poolWrite (s : State) (v : Nat) (clear : Bool) : State :=
  let s0 := if clear then s.setF Fld.hifPoolRefused 0 0 else s
  let len := bitsOf v 41 32
  let base := bitsOf v 9 0
  if ((List.range 16).any fun c => s.cs c != csEmpty) || decide (768 < base + len) then s0.setF Fld.hifPoolRefused 0 1
  else s0.setFs 0 [(Fld.hifPoolLenGib, len), (Fld.hifPoolBaseGib, base)]

/-- Every enabled ring fetches where it may. -/
def State.pumpAll (s : State) : State := ((List.range 256).filter fun r => s.rgState r == rgRunning).foldl (fun s r => s.pump r) s

/-- Whether a register acts only on a 64-bit write, and what a 32-bit one records (R11). -/
def State.wideWrite (s : State) (r : RegName) (i off width value : Nat) : Option State :=
  let whole : Bool := width == 8
  match r with
  | .hifRingDb => some (if whole then s.doorbell i value else s.bump Fld.hifRgDbIgnored i 1)
  | .mrkSignal => some (if whole then s.markOp (bitsOf value 49 48) (bitsOf value 13 0) (bitsOf value 47 32) else s.bump Fld.mrkSigRefused 0 1)
  | .mrkXlate => some (if whole then s.xlate value else s)
  | .dbgMarkSet => some (if whole then s.handSet value else s)
  | .hbmMaint => some (if whole then s.maintWrite i value else s.refuseRw2p (if off % 8 = 4 then value % 8 else 0) off value)
  | _ => none

/-- The write of register `r`, instance `i`: special registers act, the others only take their fields. -/
def State.writeReg (s : State) (r : RegName) (i off width value : Nat) : State :=
  let low : Bool := off % 8 == 0
  let high : Bool := decide (4 < off % 8 + width)
  let v := setBits (s.rd r i) (8 * (off % 8) + 8 * width - 1) (8 * (off % 8)) value
  match s.wideWrite r i off width value with
  | some s1 => s1
  | none =>
    match r with
    | .rcWays => if low then s.waysWrite i (if high then v else setBits v 41 41 0)
        else if bitOf v 41 then s.setF Fld.rcWaysRefused i 0 else s
    | .rcRangeCtrl =>
      if low then s.rangeStart i (bitsOf v 2 0) (bitsOf v 7 4) (bitOf v 3)
      else if s.flag Fld.rcRngBusy i then s.setF Fld.rcRngStatus i 1 else s
    | .impQuery => (let s1 := s.plainWrite r i off width value
        s1.query (s1.getF Fld.impQSlot 0) (s1.getF Fld.impQKind 0) (s1.getF Fld.impQGalley 0) (s1.getF Fld.impQKey 0))
    | .hifRingCtrl => s.ringCtrl i (if high then v else setBits v 63 63 0)
    | .hifRingPhead => if low then (s.plainWrite r i off width value).pump i else s
    | .hifCtrl => (s.plainWrite r i off width value).pumpAll
    | .hifHostPool => s.poolWrite v (high && bitOf v 63)
    | .secMbCtrl =>
      if low && bitOf v 0 && s.mbServed then
        let e := s.fresh
        (e.2.mbGo (e.1 % 2 == 0)).1
      else s
    | .inkThrottle => if high && bitOf v 63 then s.clearStuck else s
    | .inkThermal => if bitsOf v 55 48 + 6 ≤ s.getF Fld.inkTripC 0 then s.plainWrite r i off width value else s
    | .mrkDlCfg => if bitsOf v 15 0 = 0 ∨ 10 ≤ bitsOf v 15 0 then s.plainWrite r i off width value else s
    | .hlkTime => (s.plainWrite r i off width value).chooseParent
    | _ => s.plainWrite r i off width value

/-- A write to the MSI-X table; a vector that it unmasks sends its pending message (R653, R698). -/
def State.msixWrite (s : State) (off width value : Nat) : State :=
  let k := (off - 0x1F0000) / 8
  let a := 8 * (off % 8)
  let w := setBits (s.msixWord k) (a + 8 * width - 1) a value
  let s1 : State := { s with msix := kvPut s.msix k (BitVec.ofNat 64 w) }
  if s1.msixPend.contains (k / 2) && !s1.msixMasked (k / 2) then
    ({ s1 with msixPend := setDel s1.msixPend (k / 2) } : State).emit (.msix (k / 2))
  else s1

/-- A BAR0 write that reaches the device. -/
def State.bar0Write (s : State) (off width value : Nat) : State :=
  if !accessOk off width then s.bump Fld.hifUrOther 0 1
  else if !s.served off then s
  else if inBuffer off then
    if s.mbServed then s.updSec fun x => { x with buf := memPutRun x.buf (off - 0x1810000) (natLe width value) } else s
  else if inMsix off then s.msixWrite off width value
  else if inPba off then s
  else
    match findReg (off / 8 * 8) with
    | some (r, i) => s.writeReg r i off width value
    | none => s

/-- REGISTER_WRITE: a host write of BAR0. -/
def execRegisterWrite (rid off width value : Nat) (s : State) : Ans := .next (s.hostWrite rid fun s => s.bar0Write off width value)

/-- HIF_HOST_POOL: a 64-bit host write (R659). -/
def execHifHostPool (rid value : Nat) (s : State) : Ans := .next (s.regWrite rid fun s => s.poolWrite value (bitOf value 63))

/-- HIF_HOST_RID: a 64-bit host write (R654). -/
def execHifHostRid (rid value : Nat) (s : State) : Ans :=
  .next (s.regWrite rid fun s =>
    s.setFs 0 [(Fld.hifRidValid, bitsOf value 50 48), (Fld.hifRid, bitsOf value 47 0)])

end Sys2Proof.Machine
end

