-- ==== Sys2Proof/Machine/Micro.lean ====
section
/-! DEFINITION. The micro-operations as commands (R271 to R285): each acts on the vector engine of one cell; the flags that it
raises stick in RGN_VEC_FLAGS of the cell's region. -/

namespace Sys2Proof.Machine

/-- The engine of a cell. One that has run nothing holds zeros with VL 1 and every mask bit set (DESIGN CHOICE). -/
def State.engine (s : State) (cell : CellId) : VecEngine := (kvGet s.engines (cellKey cell)).getD (vecStart 1 [])

/-- A micro-op on a cell's engine. -/
def State.micro (s : State) (cell : CellId) (r : VecEngine × Nat) : State :=
  let slot := (s.regionHolder cell.region).getD 0
  ({ s with engines := kvPut s.engines (cellKey cell) r.1 } : State).raiseFlags (s.physOf cell.region) r.2 slot
    (s.chase slot).plate.index

/-- Run a micro-op where the cell works. -/
def State.microOp (s : State) (cell : CellId) (f : VecEngine → VecEngine × Nat) : State :=
  s.ifB (s.cellWorks cell) fun s => s.micro cell (f (s.engine cell))

/-- Micro-op NOP. -/
def execTintNop (cell : CellId) (u : MuFields) (s : State) : Ans := .next (s.microOp cell (muNop u))

/-- Micro-op ADD. -/
def execAdd (cell : CellId) (u : MuFields) (s : State) : Ans := .next (s.microOp cell (muAdd u))

/-- Micro-op SUB. -/
def execSub (cell : CellId) (u : MuFields) (s : State) : Ans := .next (s.microOp cell (muSub u))

/-- Micro-op MUL. -/
def execMul (cell : CellId) (u : MuFields) (s : State) : Ans := .next (s.microOp cell (muMul u))

/-- Micro-op MULH. -/
def execMulh (cell : CellId) (u : MuFields) (s : State) : Ans := .next (s.microOp cell (muMulh u))

/-- Micro-op MULHU. -/
def execMulhu (cell : CellId) (u : MuFields) (s : State) : Ans := .next (s.microOp cell (muMulhu u))

/-- Micro-op SHL. -/
def execShl (cell : CellId) (u : MuFields) (s : State) : Ans := .next (s.microOp cell (muShl u))

/-- Micro-op SHR. -/
def execShr (cell : CellId) (u : MuFields) (s : State) : Ans := .next (s.microOp cell (muShr u))

/-- Micro-op SRA. -/
def execSra (cell : CellId) (u : MuFields) (s : State) : Ans := .next (s.microOp cell (muSra u))

/-- Micro-op MIN. -/
def execMin (cell : CellId) (u : MuFields) (s : State) : Ans := .next (s.microOp cell (muMin u))

/-- Micro-op MAX. -/
def execMax (cell : CellId) (u : MuFields) (s : State) : Ans := .next (s.microOp cell (muMax u))

/-- Micro-op ABS. -/
def execAbs (cell : CellId) (u : MuFields) (s : State) : Ans := .next (s.microOp cell (muAbs u))

/-- Micro-op CMPEQ. -/
def execCmpeq (cell : CellId) (u : MuFields) (s : State) : Ans := .next (s.microOp cell (muCmpeq u))

/-- Micro-op CMPLT. -/
def execCmplt (cell : CellId) (u : MuFields) (s : State) : Ans := .next (s.microOp cell (muCmplt u))

/-- Micro-op CMPLTU. -/
def execCmpltu (cell : CellId) (u : MuFields) (s : State) : Ans := .next (s.microOp cell (muCmpltu u))

/-- Micro-op CMPLE. -/
def execCmple (cell : CellId) (u : MuFields) (s : State) : Ans := .next (s.microOp cell (muCmple u))

/-- Micro-op SEL. -/
def execSel (cell : CellId) (u : MuFields) (s : State) : Ans := .next (s.microOp cell (muSel u))

/-- Micro-op CLAMP. -/
def execClamp (cell : CellId) (u : MuFields) (s : State) : Ans := .next (s.microOp cell (muClamp u))

/-- Micro-op REQ. -/
def execReq (cell : CellId) (u : MuFields) (s : State) : Ans := .next (s.microOp cell (muReq u))

/-- Micro-op LUT. -/
def execLut (cell : CellId) (u : MuFields) (s : State) : Ans := .next (s.microOp cell (muLut u))

/-- Micro-op RCP. -/
def execRcp (cell : CellId) (u : MuFields) (s : State) : Ans := .next (s.microOp cell (muRcp u))

/-- Micro-op EXP2. -/
def execExp2 (cell : CellId) (u : MuFields) (s : State) : Ans := .next (s.microOp cell (muExp2 u))

/-- Micro-op PERM. -/
def execPerm (cell : CellId) (u : MuFields) (s : State) : Ans := .next (s.microOp cell (muPerm u))

/-- Micro-op ADD192. -/
def execAdd192 (cell : CellId) (u : MuFields) (s : State) : Ans := .next (s.microOp cell (muAdd192 u))

/-- Micro-op MOVI. -/
def execMovi (cell : CellId) (u : MuFields) (s : State) : Ans := .next (s.microOp cell (muMovi u))

end Sys2Proof.Machine
end

