-- ==== Sys2Proof/Machine/Tint.lean ====
section
/-! DEFINITION. The TINT plate (R286 to R298): its record, loading the inputs of a run, the runs of a tile, the output and the
summary. -/

namespace Sys2Proof.Machine

/-- A tint record (R287). -/
structure TintRec where
  ins : List Nat
  outReg : Nat
  outFmt : Nat
  outExp : Int
  ovf : Nat
  sumReg : Nat
  sumFlags : Nat
  trap : Nat
  reservedZero : Bool
  deriving DecidableEq, Repr

def tintRecOf (r : Bytes) : TintRec :=
  ⟨(List.range 4).map fun k => u64At r (8 * k), u8At r 32, u8At r 33, sextNat 8 (u8At r 34), u8At r 35, u8At r 36, u8At r 37,
    u8At r 38, allZero (slice r 39 25)⟩

/-- The inputs that a record names. -/
def TintRec.inputs (t : TintRec) : List Nat := t.ins.filter (· != 0)

/-- The last register that an output may start at (R287). -/
def outRegMax (fmt : Nat) : Nat := if fmt = 4 then 30 else if fmt = 5 then 26 else 31

/-- Whether a tint record keeps R287 and R288: no gap stands among the inputs. -/
def tintRecOk (t : TintRec) : Bool :=
  t.reservedZero && t.ins.getD 0 0 != 0 && t.ins == t.inputs ++ List.replicate (4 - t.inputs.length) 0 && t.ins.all recAddr &&
    decide (t.outFmt ≤ 5) && decide (t.outReg ≤ outRegMax t.outFmt) && decide (t.ovf ≤ 1) && decide (t.sumReg ≤ 31) &&
    decide (t.sumFlags < 32) && decide (t.trap < 16)

/-- Read and check tile `t` of an input; `h0` is the header of input 0's tile (R290). The checks are those of R241 with every format
that R291 loads; the EXPONENT check holds for each of them, as the table has it. -/
def tintInput (rd : Reader) (base t : Nat) (h0 : Option TileHdr) : OpTile :=
  let r := readTile rd base t
  let h := tileHdrOf r.1
  let g := h0.getD h
  let code := tileCheck anyThFmt h r.1 ⟨g.lineTile, g.kTile, h.groups, true, true, false, r.2.1⟩ true
  let grid := h.lines != g.lines || h.valid != g.valid
  ⟨h, r.1, if grid && (code == 0 || decide (3 < code)) then 3 else code, r.2.2 || h.poisoned⟩

/-- Load input `k` of a run: line `l` of its tile (R291). -/
def loadInput (e : VecEngine) (k l : Nat) (t : OpTile) : VecEngine :=
  let es := (List.range e.vl).map fun j => (tileLineDense t.hdr t.bytes l).getD j (zeroOfTh t.hdr.fmt)
  let put (e : VecEngine) (r : Nat) (f : OutElem → Int) (p : OutElem → Bool) : VecEngine :=
    { e with v := e.v.set (8 * k + r) (es.map fun x => ⟨BitVec.ofInt 32 (f x), t.poison || p x⟩) }
  let no (_ : OutElem) : Bool := false
  let expo (j : Nat) : Int := if t.hdr.fmt = 0x15 then -64 else tileGroupExp t.hdr t.bytes l (j / 32)
  let e1 : VecEngine := { e with v := e.v.set (8 * k + 7) ((List.range e.vl).map fun j => ⟨BitVec.ofInt 32 (expo j), t.poison⟩) }
  if t.hdr.fmt = 0x15 then
    (List.range 6).foldl (fun e w => put e w
      (fun x => match x with | .wide r => floorShift r.value (32 * w) | _ => 0)
      (fun x => match x with | .wide r => r.poison | _ => false)) e1
  else if t.hdr.fmt = 0x14 then
    put (put e1 0 elemNum no) 1 (fun x => match x with | .pair _ lo => lo | _ => 0) no
  else put e1 0 elemNum no

/-- One run of a program: the engine afterwards and the flags raised (R272, R289). -/
def tintRun (words : List Nat) (lut : List Lane) (vl l : Nat) (ts : List OpTile) : VecEngine × Nat :=
  muRun words (ts.zipIdx.foldl (fun e t => loadInput e t.2 l t.1) (vecStart vl lut))

/-- The output lanes of a run: each element, whether it was clamped, and its poison (R292). -/
def tintOut (t : TintRec) (e : VecEngine) : List (OutElem × Bool × Bool) :=
  (List.range e.vl).map fun i =>
    let v := e.lane t.outReg i
    if t.outFmt = 5 then (.wide ⟨e.sextet t.outReg i, false, false, 0⟩, false, e.sextetPoison t.outReg i)
    else if t.outFmt = 4 then
      let w := e.lane (t.outReg + 1) i
      (.pair v.bits.toInt w.bits.toInt, false, v.poison || w.poison)
    else
      let x := v.bits.toInt
      let y := clampInt x (minOf t.outFmt) (maxOf t.outFmt)
      (.num y, x != y, v.poison)

/-- The summary lanes of a run: index in the line, value, poison (R295, R298). -/
def tintLanes (t : TintRec) (e : VecEngine) : List (Nat × Int × Bool) :=
  let clampOut := t.sumReg == t.outReg && t.ovf == 0 && decide (t.outFmt ≤ 3)
  ((List.range e.vl).filter fun i => !bitOf t.sumFlags 4 || e.mask (bitsOf t.sumFlags 3 1) i).map fun i =>
    let v := e.lane t.sumReg i
    let x := v.bits.toInt
    (i, if clampOut then clampInt x (minOf t.outFmt) (maxOf t.outFmt) else x, v.poison)

/-- A lane's contribution: its value with its poison, or 0 with poison in a poisoned tile (R298); TT_SUM_MIN takes the maximum of
the negated values (R295). -/
def tintElem (t : TintRec) (a : SummarySlot) (v : Int) (poison tileBad : Bool) (index : Nat) : SummarySlot :=
  if tileBad then a.poisonElem index else a.add ⟨v, 1, if bitOf t.sumFlags 0 then -v else v, index, false, poison, false⟩

/-- What the runs of a tile give: the bytes, the flags, the runs that trapped, the elements clamped, the contribution, and
whether the tile is poisoned. -/
structure TintTile where
  bytes : Bytes
  flags : Nat
  traps : Nat
  clamped : Nat
  poisoned : Bool
  lanes : List (Nat × Nat × Int × Bool)
  /-- The engine after the last run; none where the tile is not computed. -/
  engine : Option VecEngine
  deriving DecidableEq, Repr

/-- The output tile of TINT (R293). -/
def tintTileOut (t : TintRec) (h : TileHdr) (lines : List (List OutElem)) (poison : Bool) : TileOut :=
  ⟨thFmtOfCw t.outFmt, lines, ceilDiv h.valid 32, h.valid, if t.outFmt = 5 then 0 else t.outExp, poison, h.lineTile, h.kTile⟩

/-- The runs of one tile whose inputs pass their checks. -/
def tintTile (t : TintRec) (words : List Nat) (lut : List Lane) (ts : List OpTile) (h : TileHdr) : TintTile :=
  let runs := (List.range h.lines).map fun l => tintRun words lut h.valid l ts
  let outs := runs.map fun r => tintOut t r.1
  let flags := runs.foldl (fun a r => a ||| r.2) 0
  let traps := (runs.filter fun r => r.2 &&& t.trap != 0).length
  let clamped := (outs.flatten.filter fun o => o.2.1).length
  let poison := outs.flatten.any (fun o => o.2.2) || traps != 0 || (t.ovf == 1 && clamped != 0)
  ⟨(storeTile 0 0 (tintTileOut t h (outs.map fun l => l.map (·.1)) poison)).bytes, flags, traps,
    if t.ovf = 0 then clamped else 0, poison, runs.zipIdx.flatMap fun r => (tintLanes t r.1.1).map fun x => (r.2, x),
    runs.getLast?.map (·.1)⟩

/-- A tile with an input that fails a check: it is not computed (R242, R290); an extent that no tile can have is taken at its
bound. -/
def tintBad (t : TintRec) (h : TileHdr) : TintTile :=
  let h1 : TileHdr := { h with lines := max 1 (min 32 h.lines), valid := max 1 (min 256 h.valid) }
  ⟨(storeTile 0 0 (tintTileOut t h1 (List.replicate h1.lines []) true)).bytes, 0, 0, 0, true,
    (List.range h1.lines).flatMap fun l => (List.range h1.valid).map fun j => (l, j, 0, true), none⟩

/-- The cell that takes item `i` of the plate in hand (R45, R289). -/
def State.dealCell (s : State) (c i : Nat) : CellId := let d := s.dealPlace c i; ⟨d.1, d.2.1, d.2.2⟩

/-- What a plate's runs leave in the vector engines of their cells: VL, registers, masks and the program's LUT (R271, R272, R281). -/
def State.leaveEngines (s : State) (c : Nat) (ts : List TintTile) : State :=
  ts.zipIdx.foldl (fun s e => match e.1.engine with
    | some v => { s with engines := kvPut s.engines (cellKey (s.dealCell c e.2)) v }
    | none => s) s

/-- The work of a TINT plate. -/
def State.tintPlate (s : State) (c : Nat) : State :=
  let p := s.plate c
  let rd := s.chaseRead c
  let raw := rd p.src 64
  let t := tintRecOf raw.1
  let s0 := s.noteRead c p.src 64
  if raw.2 || !tintRecOk t then
    (s0.bump Fld.rgnVecRecordFaults (s.dealPhys c 0) 1).plateWorked c SummarySlot.fault
  else
    let prog := tintProg (s.forme c) p.tint
    let words := match prog with | some g => tintWords (s.forme c) g | none => []
    let lut := match prog with | some g => tintLut (s.forme c) g | none => []
    let tiles := (List.range p.count).map fun k =>
      let t0 := tintInput rd (t.ins.getD 0 0) k none
      let ts := t0 :: (t.inputs.drop 1).map fun b => tintInput rd b k (some t0.hdr)
      (ts, if ts.any (fun x => x.code != 0) then tintBad t t0.hdr else tintTile t words lut ts t0.hdr)
    let s1 := t.inputs.foldl (fun s b => s.noteArray c b p.count) s0
    let s2 := s1.metaFaults c (tiles.flatMap (·.1))
    let s3 := tiles.zipIdx.foldl (fun s e =>
      let q := s.dealPhys c e.2
      let r := e.1.2
      ((s.raiseFlags q r.flags c (s.chase c).plate.index).bump Fld.rgnVecTraps q r.traps).bump Fld.rgnVecSatElems q r.clamped) (s2.leaveEngines c (tiles.map (·.2)))
    let w := s3.storeArray c p.dst (tiles.map fun e => e.2.bytes)
    let sum := (tiles.zip w.2).zipIdx.foldl (fun a e =>
      e.1.1.2.lanes.foldl (fun a x => tintElem t a x.2.2.1 x.2.2.2 (e.1.1.2.poisoned || !e.1.2) (elemIndex e.2 x.1 x.2.1)) a)
      SummarySlot.empty
    w.1.plateWorked c sum

/-- TINT: the TINT plate in hand does its work. -/
def execTint (slot : Nat) (hw : List HwEvent) (s : State) : Ans := .next (s.plateDo slot opTint hw fun s => s.tintPlate slot)

end Sys2Proof.Machine
end

