-- ==== Sys2Proof/Machine/Dispatch.lean ====
section
/-! DEFINITION. The dispatch of the commands: one arm per constructor of Instr, each one call of its meaning. -/

namespace Sys2Proof.Machine

/-- The effect of a command on everything but the queue. -/
def exec (i : Instr) (s : State) : Host.Outcome State Fault Refusal :=
  match i with
  | .pwrGoodRise => Sys2Proof.Machine.execPwrGoodRise s
  | .pwrGoodLoss => Sys2Proof.Machine.execPwrGoodLoss s
  | .clockLoss sysclk => Sys2Proof.Machine.execClockLoss sysclk s
  | .refclk100mStop => Sys2Proof.Machine.execRefclk100mStop s
  | .refclk100mReturn => Sys2Proof.Machine.execRefclk100mReturn s
  | .resetNAssert => Sys2Proof.Machine.execResetNAssert s
  | .bootStart f => Sys2Proof.Machine.execBootStart f s
  | .ready late => Sys2Proof.Machine.execReady late s
  | .configRequest rid cxlMem cxlCache => Sys2Proof.Machine.execConfigRequest rid cxlMem cxlCache s
  | .functionLevelReset => Sys2Proof.Machine.execFunctionLevelReset s
  | .d3hotReturn => Sys2Proof.Machine.execD3hotReturn s
  | .bar2Read rid off len => Sys2Proof.Machine.execBar2Read rid off len s
  | .bar2Write rid off data => Sys2Proof.Machine.execBar2Write rid off data s
  | .cxlMemRead rid addr found fails => Sys2Proof.Machine.execCxlMemRead rid addr found fails s
  | .cxlMemWrite rid addr data fails => Sys2Proof.Machine.execCxlMemWrite rid addr data fails s
  | .registerWrite rid off width value => Sys2Proof.Machine.execRegisterWrite rid off width value s
  | .doorbell rid ring value stores => Sys2Proof.Machine.execDoorbell rid ring value stores s
  | .ticketReread ring stores => Sys2Proof.Machine.execTicketReread ring stores s
  | .hifRgEn rid ring value => Sys2Proof.Machine.execHifRgEn rid ring value s
  | .ringDisable rid ring value => Sys2Proof.Machine.execRingDisable rid ring value s
  | .hifRgResume rid ring stores => Sys2Proof.Machine.execHifRgResume rid ring stores s
  | .hifHostPool rid value => Sys2Proof.Machine.execHifHostPool rid value s
  | .hifHostRid rid value => Sys2Proof.Machine.execHifHostRid rid value s
  | .hifApertureSync rid => Sys2Proof.Machine.execHifApertureSync rid s
  | .hifDmaFence rid => Sys2Proof.Machine.execHifDmaFence rid s
  | .timeNs rid => Sys2Proof.Machine.execTimeNs rid s
  | .impQuery rid value => Sys2Proof.Machine.execImpQuery rid value s
  | .mrkXlate rid value => Sys2Proof.Machine.execMrkXlate rid value s
  | .dbgMarkSet rid value => Sys2Proof.Machine.execDbgMarkSet rid value s
  | .rcWays rid p value => Sys2Proof.Machine.execRcWays rid p value s
  | .rcWaysApply p => Sys2Proof.Machine.execRcWaysApply p s
  | .clean rid p slot kind => Sys2Proof.Machine.execClean rid p slot kind s
  | .invalidate rid p slot kind => Sys2Proof.Machine.execInvalidate rid p slot kind s
  | .cleanInvalidate rid p slot kind => Sys2Proof.Machine.execCleanInvalidate rid p slot kind s
  | .zero rid p slot kind => Sys2Proof.Machine.execZero rid p slot kind s
  | .rangeDone p => Sys2Proof.Machine.execRangeDone p s
  | .readMap rid stack pc bank row => Sys2Proof.Machine.execReadMap rid stack pc bank row s
  | .forceRepair rid stack pc bank row => Sys2Proof.Machine.execForceRepair rid stack pc bank row s
  | .testPc rid stack pc bank row pass => Sys2Proof.Machine.execTestPc rid stack pc bank row pass s
  | .returnPc rid stack pc bank row => Sys2Proof.Machine.execReturnPc rid stack pc bank row s
  | .proof ring seq => Sys2Proof.Machine.execProof ring seq s
  | .coalesceTimeout ring => Sys2Proof.Machine.execCoalesceTimeout ring s
  | .nop ring seq => Sys2Proof.Machine.execNop ring seq s
  | .formeLoad ring seq => Sys2Proof.Machine.execFormeLoad ring seq s
  | .chaseStart ring seq => Sys2Proof.Machine.execChaseStart ring seq s
  | .chaseStop ring seq => Sys2Proof.Machine.execChaseStop ring seq s
  | .chaseTeardown ring seq => Sys2Proof.Machine.execChaseTeardown ring seq s
  | .load ring seq => Sys2Proof.Machine.execLoad ring seq s
  | .setBlank ring seq => Sys2Proof.Machine.execSetBlank ring seq s
  | .seal ring seq => Sys2Proof.Machine.execSeal ring seq s
  | .abort ring seq => Sys2Proof.Machine.execAbort ring seq s
  | .galleySwitch ring seq => Sys2Proof.Machine.execGalleySwitch ring seq s
  | .switchCommit slot galley => Sys2Proof.Machine.execSwitchCommit slot galley s
  | .galleyRead ring seq => Sys2Proof.Machine.execGalleyRead ring seq s
  | .dataWrite ring seq => Sys2Proof.Machine.execDataWrite ring seq s
  | .dataRead ring seq => Sys2Proof.Machine.execDataRead ring seq s
  | .sample ring seq => Sys2Proof.Machine.execSample ring seq s
  | .impHint ring seq => Sys2Proof.Machine.execImpHint ring seq s
  | .markOp ring seq => Sys2Proof.Machine.execMarkOp ring seq s
  | .markWait ring seq => Sys2Proof.Machine.execMarkWait ring seq s
  | .qpCreate ring seq => Sys2Proof.Machine.execQpCreate ring seq s
  | .qpDestroy ring seq => Sys2Proof.Machine.execQpDestroy ring seq s
  | .mrRegister ring seq => Sys2Proof.Machine.execMrRegister ring seq s
  | .mrDeregister ring seq => Sys2Proof.Machine.execMrDeregister ring seq s
  | .coreJob ring seq posts asks => Sys2Proof.Machine.execCoreJob ring seq posts asks s
  | .lockUp slot left peers => Sys2Proof.Machine.execLockUp slot left peers s
  | .lockupBudgetEnd slot => Sys2Proof.Machine.execLockupBudgetEnd slot s
  | .lateRun slot => Sys2Proof.Machine.execLateRun slot s
  | .done slot ordinal stamp => Sys2Proof.Machine.execDone slot ordinal stamp s
  | .slip slot => Sys2Proof.Machine.execSlip slot s
  | .verdict slot m go start named => Sys2Proof.Machine.execVerdict slot m go start named s
  | .verdictTimeout slot => Sys2Proof.Machine.execVerdictTimeout slot s
  | .join slot ordinal digest latency => Sys2Proof.Machine.execJoin slot ordinal digest latency s
  | .joinTimeout slot => Sys2Proof.Machine.execJoinTimeout slot s
  | .start slot stroke epoch announce => Sys2Proof.Machine.execStart slot stroke epoch announce s
  | .stop slot ordinal stroke => Sys2Proof.Machine.execStop slot ordinal stroke s
  | .fault slot ordinal => Sys2Proof.Machine.execFault slot ordinal s
  | .switchReq slot ordinal galley state => Sys2Proof.Machine.execSwitchReq slot ordinal galley state s
  | .summary slot ordinal k v => Sys2Proof.Machine.execSummary slot ordinal k v s
  | .summaryResult slot k v => Sys2Proof.Machine.execSummaryResult slot k v s
  | .gather slot hw => Sys2Proof.Machine.execGather slot hw s
  | .split slot hw => Sys2Proof.Machine.execSplit slot hw s
  | .serve slot hw => Sys2Proof.Machine.execServe slot hw s
  | .combine slot hw => Sys2Proof.Machine.execCombine slot hw s
  | .scatter slot hw arrival => Sys2Proof.Machine.execScatter slot hw arrival s
  | .dense slot hw => Sys2Proof.Machine.execDense slot hw s
  | .sparse slot hw => Sys2Proof.Machine.execSparse slot hw s
  | .aggregate slot hw arrival => Sys2Proof.Machine.execAggregate slot hw arrival s
  | .frontier slot hw => Sys2Proof.Machine.execFrontier slot hw s
  | .tint slot hw => Sys2Proof.Machine.execTint slot hw s
  | .reduce slot hw => Sys2Proof.Machine.execReduce slot hw s
  | .exchange slot inp => Sys2Proof.Machine.execExchange slot inp s
  | .publish slot hw => Sys2Proof.Machine.execPublish slot hw s
  | .switch slot hw => Sys2Proof.Machine.execSwitch slot hw s
  | .stateAbort slot hw => Sys2Proof.Machine.execStateAbort slot hw s
  | .hold slot => Sys2Proof.Machine.execHold slot s
  | .branch slot => Sys2Proof.Machine.execBranch slot s
  | .plateComplete slot region => Sys2Proof.Machine.execPlateComplete slot region s
  | .openZero cell g shape => Sys2Proof.Machine.execOpenZero cell g shape s
  | .openLoad cell g shape recs => Sys2Proof.Machine.execOpenLoad cell g shape recs s
  | .feed cell g f => Sys2Proof.Machine.execFeed cell g f s
  | .addWide cell g r n rec => Sys2Proof.Machine.execAddWide cell g r n rec s
  | .close cell g cw => Sys2Proof.Machine.execClose cell g cw s
  | .tintNop cell u => Sys2Proof.Machine.execTintNop cell u s
  | .add cell u => Sys2Proof.Machine.execAdd cell u s
  | .sub cell u => Sys2Proof.Machine.execSub cell u s
  | .mul cell u => Sys2Proof.Machine.execMul cell u s
  | .mulh cell u => Sys2Proof.Machine.execMulh cell u s
  | .mulhu cell u => Sys2Proof.Machine.execMulhu cell u s
  | .shl cell u => Sys2Proof.Machine.execShl cell u s
  | .shr cell u => Sys2Proof.Machine.execShr cell u s
  | .sra cell u => Sys2Proof.Machine.execSra cell u s
  | .min cell u => Sys2Proof.Machine.execMin cell u s
  | .max cell u => Sys2Proof.Machine.execMax cell u s
  | .abs cell u => Sys2Proof.Machine.execAbs cell u s
  | .cmpeq cell u => Sys2Proof.Machine.execCmpeq cell u s
  | .cmplt cell u => Sys2Proof.Machine.execCmplt cell u s
  | .cmpltu cell u => Sys2Proof.Machine.execCmpltu cell u s
  | .cmple cell u => Sys2Proof.Machine.execCmple cell u s
  | .sel cell u => Sys2Proof.Machine.execSel cell u s
  | .clamp cell u => Sys2Proof.Machine.execClamp cell u s
  | .req cell u => Sys2Proof.Machine.execReq cell u s
  | .lut cell u => Sys2Proof.Machine.execLut cell u s
  | .rcp cell u => Sys2Proof.Machine.execRcp cell u s
  | .exp2 cell u => Sys2Proof.Machine.execExp2 cell u s
  | .perm cell u => Sys2Proof.Machine.execPerm cell u s
  | .add192 cell u => Sys2Proof.Machine.execAdd192 cell u s
  | .movi cell u => Sys2Proof.Machine.execMovi cell u s
  | .signal rid mark amount => Sys2Proof.Machine.execSignal rid mark amount s
  | .take rid mark amount => Sys2Proof.Machine.execTake rid mark amount s
  | .waitLend slot => Sys2Proof.Machine.execWaitLend slot s
  | .deadlockReport slot => Sys2Proof.Machine.execDeadlockReport slot s
  | .atomicAdd slot addr v => Sys2Proof.Machine.execAtomicAdd slot addr v s
  | .minIdx slot addr v index => Sys2Proof.Machine.execMinIdx slot addr v index s
  | .maxIdx slot addr v index => Sys2Proof.Machine.execMaxIdx slot addr v index s
  | .cas slot addr compare new => Sys2Proof.Machine.execCas slot addr compare new s
  | .xchg slot addr v => Sys2Proof.Machine.execXchg slot addr v s
  | .mbDrain line => Sys2Proof.Machine.execMbDrain line s
  | .hbmTemp stack temp => Sys2Proof.Machine.execHbmTemp stack temp s
  | .scrub stack pc line sector found fails => Sys2Proof.Machine.execScrub stack pc line sector found fails s
  | .stackOffline stack => Sys2Proof.Machine.execStackOffline stack s
  | .lossOfSignal link => Sys2Proof.Machine.execLossOfSignal link s
  | .signalPresent link => Sys2Proof.Machine.execSignalPresent link s
  | .trainingComplete link ok h => Sys2Proof.Machine.execTrainingComplete link ok h s
  | .trainingRetry link => Sys2Proof.Machine.execTrainingRetry link s
  | .hello link h => Sys2Proof.Machine.execHello link h s
  | .helloTick => Sys2Proof.Machine.execHelloTick s
  | .helloTimeout link => Sys2Proof.Machine.execHelloTimeout link s
  | .lsr link r => Sys2Proof.Machine.execLsr link r s
  | .lsrRefresh => Sys2Proof.Machine.execLsrRefresh s
  | .lsrExpiry serial => Sys2Proof.Machine.execLsrExpiry serial s
  | .settlement => Sys2Proof.Machine.execSettlement s
  | .routeBuild => Sys2Proof.Machine.execRouteBuild s
  | .flit link data checks crc f => Sys2Proof.Machine.execFlit link data checks crc f s
  | .ackIdle link => Sys2Proof.Machine.execAckIdle link s
  | .write f => Sys2Proof.Machine.execWrite f s
  | .append f => Sys2Proof.Machine.execAppend f s
  | .ack f => Sys2Proof.Machine.execAck f s
  | .fabricSignal f => Sys2Proof.Machine.execFabricSignal f s
  | .e2eTimeout dst msg => Sys2Proof.Machine.execE2eTimeout dst msg s
  | .time link step stamps hops lock root => Sys2Proof.Machine.execTime link step stamps hops lock root s
  | .timeTick link => Sys2Proof.Machine.execTimeTick link s
  | .send p => Sys2Proof.Machine.execSend p s
  | .rdmaWrite p => Sys2Proof.Machine.execRdmaWrite p s
  | .rdmaRead p => Sys2Proof.Machine.execRdmaRead p s
  | .arp f => Sys2Proof.Machine.execArp f s
  | .neighbourDiscovery f => Sys2Proof.Machine.execNeighbourDiscovery f s
  | .otherFrame f => Sys2Proof.Machine.execOtherFrame f s
  | .cnp f qpn => Sys2Proof.Machine.execCnp f qpn s
  | .climbTick qpn => Sys2Proof.Machine.execClimbTick qpn s
  | .roceAckTimeout qpn => Sys2Proof.Machine.execRoceAckTimeout qpn s
  | .ethRetrain port up => Sys2Proof.Machine.execEthRetrain port up s
  | .inkBaseSample b => Sys2Proof.Machine.execInkBaseSample b s
  | .throttleFall => Sys2Proof.Machine.execThrottleFall s
  | .throttleQualify => Sys2Proof.Machine.execThrottleQualify s
  | .throttleRise => Sys2Proof.Machine.execThrottleRise s
  | .throttleRelease => Sys2Proof.Machine.execThrottleRelease s
  | .throttleStuck => Sys2Proof.Machine.execThrottleStuck s
  | .powerClamp steps => Sys2Proof.Machine.execPowerClamp steps s
  | .tempSample l0 l1 ha hb => Sys2Proof.Machine.execTempSample l0 l1 ha hb s
  | .ppsEdge low => Sys2Proof.Machine.execPpsEdge low s
  | .stormEnd => Sys2Proof.Machine.execStormEnd s
  | .ppsTimeout => Sys2Proof.Machine.execPpsTimeout s
  | .seqWatchdog slot region => Sys2Proof.Machine.execSeqWatchdog slot region s
  | .coreRestart core => Sys2Proof.Machine.execCoreRestart core s
  | .spareTest failing => Sys2Proof.Machine.execSpareTest failing s
  | .getChallenge rid msg sound => Sys2Proof.Machine.execGetChallenge rid msg sound s
  | .challengeLapse challenge => Sys2Proof.Machine.execChallengeLapse challenge s
  | .readColophon rid msg storage => Sys2Proof.Machine.execReadColophon rid msg storage s
  | .getIdentity rid msg storage => Sys2Proof.Machine.execGetIdentity rid msg storage s
  | .setEnvelope rid msg storage => Sys2Proof.Machine.execSetEnvelope rid msg storage s
  | .setNodeId rid msg storage => Sys2Proof.Machine.execSetNodeId rid msg storage s
  | .setFabric rid msg storage => Sys2Proof.Machine.execSetFabric rid msg storage s
  | .fwStage rid msg storage => Sys2Proof.Machine.execFwStage rid msg storage s
  | .setNetId rid msg storage => Sys2Proof.Machine.execSetNetId rid msg storage s
  | .debugSession rid msg storage => Sys2Proof.Machine.execDebugSession rid msg storage s
  | .sessionLapse => Sys2Proof.Machine.execSessionLapse s
  | .fenceWrite rid msg storage => Sys2Proof.Machine.execFenceWrite rid msg storage s
  | .enrol rid msg storage => Sys2Proof.Machine.execEnrol rid msg storage s
  | .debugUnlock rid msg storage => Sys2Proof.Machine.execDebugUnlock rid msg storage s
  | .repairAccess rid msg storage => Sys2Proof.Machine.execRepairAccess rid msg storage s
  | .zeroise rid msg storage => Sys2Proof.Machine.execZeroise rid msg storage s
  | .authEnd kind => Sys2Proof.Machine.execAuthEnd kind s
  | .checkpoint => Sys2Proof.Machine.execCheckpoint s
  | .internalScan extended => Sys2Proof.Machine.execInternalScan extended s
  | .getVersion => Sys2Proof.Machine.execGetVersion s
  | .getCapabilities => Sys2Proof.Machine.execGetCapabilities s
  | .negotiateAlgorithms => Sys2Proof.Machine.execNegotiateAlgorithms s
  | .getDigests => Sys2Proof.Machine.execGetDigests s
  | .getCertificate slot offset length => Sys2Proof.Machine.execGetCertificate slot offset length s
  | .challenge slot nonce => Sys2Proof.Machine.execChallenge slot nonce s
  | .getMeasurements index sign => Sys2Proof.Machine.execGetMeasurements index sign s
  | .registerRead rid off width => Sys2Proof.Machine.execRegisterRead rid off width s
  | .clockReturn sysclk => Sys2Proof.Machine.execClockReturn sysclk s
  | .idleRegionSubstitution p => Sys2Proof.Machine.execIdleRegionSubstitution p s
  | .setPointWrite die mv ack => Sys2Proof.Machine.execSetPointWrite die mv ack s
  | .backInvalidateResponse line => Sys2Proof.Machine.execBackInvalidateResponse line s
  | .cxlCacheSnoop line => Sys2Proof.Machine.execCxlCacheSnoop line s
  | .roceAcknowledgement f qpn psn nak => Sys2Proof.Machine.execRoceAcknowledgement f qpn psn nak s
  | .readResponse f qpn psn data => Sys2Proof.Machine.execReadResponse f qpn psn data s
  | .boundaryScan code => Sys2Proof.Machine.execBoundaryScan code s

end Sys2Proof.Machine
end

