-- ==== Sys2Proof/WellFormed.lean ====
section
/-! DEFINITION. Well-formed commands: every operand fits the field, index or lane that the spec gives it. A command from outside
that is not well-formed names nothing that the block has. -/

namespace Sys2Proof

open Sys2Proof.Machine (MuFields Flit Hello Lsr RocePkt EthFrame AskFrame BootFinds SummarySlot GuestCopy HwEvent CoreAsk)

/-- A logical cell (R30). -/
def CellId.wf (c : CellId) : Bool := decide (c.region < 16) && decide (c.block < 16) && decide (c.cell < 16)

/-- A micro-op's fields (R277). -/
def Machine.MuFields.wf (u : MuFields) : Bool :=
  decide (u.msk < 8) && decide (u.dst < 32) && decide (u.src1 < 32) && decide (u.src2 < 32) && decide (u.src3 < 32)

/-- An accumulation group's extent: 32 rows and 32 columns (R178, R217). -/
def GroupShape.wf (g : GroupShape) : Bool :=
  decide (g.rows ≤ 32) && decide (g.cols ≤ 32) && decide (g.slot < 16) && decide (g.plate < 65536) && decide (g.dst < 2 ^ 44)

/-- A FEED's formats and exponents, and its 32 positions and 32 columns (R172, R217). -/
def FeedOp.wf (f : FeedOp) : Bool :=
  decide (f.row < 32) && decide (f.fmtA < 4) && decide (f.fmtB < 4) && decide (f.ea < 256) && decide (f.a.length ≤ 32) &&
    decide (f.w.length ≤ 32) && f.w.all (fun l => decide (l.length ≤ 32)) && decide (f.eb.length ≤ 32)

/-- A flit's fields (R574). -/
def Machine.Flit.wf (f : Flit) : Bool :=
  decide (f.typ < 256) && decide (f.vc < 8) && decide (f.dim < 4) && decide (f.seq < 4096) && decide (f.ack < 4096) &&
    decide (f.cr0 < 256) && decide (f.cr1 < 256) && decide (f.dst < 2 ^ 15) && decide (f.src < 2 ^ 15) && decide (f.hops < 256) &&
    decide (f.plen ≤ 220) && decide (f.index < 1024) && decide (f.chase < 2 ^ 32) && decide (f.msg < 2 ^ 32) &&
    decide (f.arg < 2 ^ 64) && f.payload.length == f.plen

/-- A HELLO (R601). -/
def Machine.Hello.wf (h : Hello) : Bool :=
  decide (h.serial < 2 ^ 64) && decide (h.name < 2 ^ 32) && decide (h.node < 2 ^ 15) && decide (h.ndState < 8) && decide (h.link < 96) &&
    decide (h.die < 2) && decide (h.hops < 256) && decide (h.lock < 8) && decide (h.root < 2 ^ 64)

/-- A link-state record (R603). -/
def Machine.Lsr.wf (r : Lsr) : Bool :=
  decide (r.serial < 2 ^ 64) && decide (r.name < 2 ^ 32) && decide (r.node < 2 ^ 15) && decide (r.ndState < 8) && decide (r.gen < 2 ^ 32) &&
    decide (r.bundles.length ≤ 96)

/-- A RoCEv2 packet (R632). -/
def Machine.RocePkt.wf (p : RocePkt) : Bool :=
  decide (p.port < 4) && decide (p.qpn < 2 ^ 24) && decide (p.psn < 2 ^ 24) && decide (p.rkey < 2 ^ 32) && decide (p.addr < 2 ^ 64) &&
    decide (p.len < 2 ^ 32) && decide (p.data.length ≤ 4096) && decide (p.bytes < 2 ^ 16) && decide (p.tags < 2 ^ 8)

/-- A question for an address. -/
def Machine.AskFrame.wf (f : AskFrame) : Bool :=
  decide (f.port < 4) && decide (f.target < 2 ^ 128) && decide (f.srcMac < 2 ^ 48) && decide (f.srcIp < 2 ^ 128) &&
    decide (f.bytes < 2 ^ 16) && decide (f.tags < 2 ^ 8)

/-- A received frame: a priority is one of eight. -/
def Machine.EthFrame.wf (f : EthFrame) : Bool :=
  decide (f.port < 4) && decide (f.bytes < 2 ^ 16) && decide (f.tags < 2 ^ 8) && (f.pfc.map fun p => decide (p < 8)).getD true

/-- What a boot finds. -/
def Machine.BootFinds.wf (f : BootFinds) : Bool :=
  decide (f.bootSel < 4) && decide (f.makers.length ≤ 8) && ([f.digests, f.digests2].all fun l => l.length == 4 && l.all fun d => d.length == 32) && decide (f.version < 2 ^ 16) && decide (f.version2 < 2 ^ 16) &&
    (f.badStacks.all fun k => decide (k < 12)) && (f.badSpares.all fun e => decide (e.1 < 4) && decide (e.2.1 < 20)) &&
    (f.signal.all fun l => decide (l < 96)) && decide (f.ms < 2 ^ 32)

/-- A summary slot (R146): its sum and greatest value are s64, its count u64, its index u40. -/
def Machine.SummarySlot.wf (v : SummarySlot) : Bool :=
  decide (-(2 ^ 191) ≤ v.sum) && decide (v.sum < 2 ^ 191) && decide (-(2 ^ 63) ≤ v.max) && decide (v.max < 2 ^ 63) &&
    decide (v.count < 2 ^ 64) && decide (v.maxIdx < 2 ^ 64)

/-- A guest copy (R452). -/
def Machine.GuestCopy.wf (g : GuestCopy) : Bool := decide (g.galley < 2 ^ 32) && decide (g.slug < 2 ^ 40) && decide (g.state < 2 ^ 32)

/-- A core's request of a queue pair. -/
def Machine.CoreAsk.wf (a : CoreAsk) : Bool := decide (a.qpn < 2 ^ 24) && decide (a.addr < 2 ^ 44) && decide (a.len < 2 ^ 32) &&
  decide (a.raddr < 2 ^ 64) && decide (a.rkey < 2 ^ 32)

/-- A transfer fails at most so often as it is tried; at most 255 attempts are told. -/
def Machine.XferFail.wf (f : XferFail) : Bool := decide (f.fails < 256)

/-- Symbols in error of `n` codewords: each is named once, and its error is no zero (R509). -/
def Machine.symErrsWf (n : Nat) (l : List SymErr) : Bool :=
  (l.all fun e => decide (e.symbol < 19 * n) && decide (1 ≤ e.error) && decide (e.error < 2 ^ 16)) && decide (l.map (·.symbol)).Nodup

/-- A transfer of a sector of HBM. -/
def Machine.HbmXfer.wf (x : HbmXfer) : Bool := decide (x.addr < 12 * 2 ^ 36) && x.fail.wf && symErrsWf 1 x.errs

/-- A ticket's sequence number and transfers. -/
def Machine.TicketIn.wf (t : TicketIn) : Bool := decide (t.seq < 2 ^ 32) && t.hbm.all HbmXfer.wf

/-- A finding of the hardware's checks names a logical place. -/
def Machine.HwEvent.wf : HwEvent → Bool
  | .sramCorrected l r b c => decide (l < 3) && decide (r < 16) && decide (b < 16) && decide (c < 16)
  | .sramEscalates l r b c _ _ a => decide (l < 3) && decide (r < 16) && decide (b < 16) && decide (c < 16) && decide (a < 2 ^ 44)
  | .transferRetried l r b => decide (l < 3) && decide (r < 16) && decide (b < 16)
  | .transferFails l r b => decide (l < 3) && decide (r < 16) && decide (b < 16)
  | .bridgeFails => true
  | .runFails r b c => decide (r < 16) && decide (b < 16) && decide (c < 16)
  | .stippleLost r b => decide (r < 16) && decide (b < 16)
  | .residue r b c n _ ts => decide (r < 16) && decide (b < 16) && decide (c < 16) && decide (n < 32) && ts.all fun t => decide (t < 2 ^ 64)
  | .seqCorrected r => decide (r < 16)
  | .seqLost r => decide (r < 16)
  | .seqResidue r => decide (r < 16)
  | .hbm x => x.wf

/-- A command's operands fit their fields. -/
def Instr.wf : Instr → Bool
  | .pwrGoodRise => true
  | .pwrGoodLoss => true
  | .clockLoss _ => true
  | .refclk100mStop => true
  | .refclk100mReturn => true
  | .resetNAssert => true
  | .bootStart f => f.wf
  | .ready _ => true
  | .configRequest rid _ _ => decide (rid < 2 ^ 16)
  | .functionLevelReset => true
  | .d3hotReturn => true
  | .bar2Read rid off run => decide (rid < 2 ^ 16) && decide (off + run.len ≤ 2 ^ 36) && run.hbm.all Machine.HbmXfer.wf
  | .bar2Write rid off run => decide (rid < 2 ^ 16) && decide (off + run.data.length ≤ 2 ^ 36) && run.hbm.all Machine.HbmXfer.wf
  | .cxlMemRead rid addr found fails => decide (rid < 2 ^ 16) && decide (addr < 0xC000000000) && Machine.symErrsWf 2 found && fails.wf
  | .cxlMemWrite rid addr data fails => decide (rid < 2 ^ 16) && decide (addr < 0xC000000000) && decide (addr % 64 + data.length ≤ 64) && fails.wf
  | .registerWrite rid off width value => decide (rid < 2 ^ 16) && decide (off < 2 ^ 26) && decide (1 ≤ width) && decide (width ≤ 8) && decide (value < 2 ^ 64)
  | .doorbell rid ring value stores => decide (rid < 2 ^ 16) && decide (ring < 256) && decide (value < 2 ^ 64) && (stores.all fun e => decide (e.1 < 2 ^ 64))
  | .ticketReread ring stores => decide (ring < 256) && (stores.all fun e => decide (e.1 < 2 ^ 64))
  | .hifRgEn rid ring value => decide (rid < 2 ^ 16) && decide (ring < 256) && decide (value < 2 ^ 64)
  | .ringDisable rid ring value => decide (rid < 2 ^ 16) && decide (ring < 256) && decide (value < 2 ^ 64)
  | .hifRgResume rid ring stores => decide (rid < 2 ^ 16) && decide (ring < 256) && (stores.all fun e => decide (e.1 < 2 ^ 64))
  | .hifHostPool rid value => decide (rid < 2 ^ 16) && decide (value < 2 ^ 64)
  | .hifHostRid rid value => decide (rid < 2 ^ 16) && decide (value < 2 ^ 64)
  | .hifApertureSync rid => decide (rid < 2 ^ 16)
  | .hifDmaFence rid => decide (rid < 2 ^ 16)
  | .timeNs rid => decide (rid < 2 ^ 16)
  | .impQuery rid value => decide (rid < 2 ^ 16) && decide (value < 2 ^ 64)
  | .mrkXlate rid value => decide (rid < 2 ^ 16) && decide (value < 2 ^ 64)
  | .dbgMarkSet rid value => decide (rid < 2 ^ 16) && decide (value < 2 ^ 64)
  | .rcWays rid p value => decide (rid < 2 ^ 16) && decide (p < 20) && decide (value < 2 ^ 64)
  | .rcWaysApply p => decide (p < 20)
  | .clean rid p slot _ => decide (rid < 2 ^ 16) && decide (p < 20) && decide (slot < 16)
  | .invalidate rid p slot _ => decide (rid < 2 ^ 16) && decide (p < 20) && decide (slot < 16)
  | .cleanInvalidate rid p slot _ => decide (rid < 2 ^ 16) && decide (p < 20) && decide (slot < 16)
  | .zero rid p slot _ => decide (rid < 2 ^ 16) && decide (p < 20) && decide (slot < 16)
  | .rangeDone p => decide (p < 20)
  | .readMap rid stack pc bank row => decide (rid < 2 ^ 16) && decide (stack < 12) && decide (pc < 64) && decide (bank < 32) && decide (row < 2 ^ 15)
  | .forceRepair rid stack pc bank row => decide (rid < 2 ^ 16) && decide (stack < 12) && decide (pc < 64) && decide (bank < 32) && decide (row < 2 ^ 15)
  | .testPc rid stack pc bank row _ => decide (rid < 2 ^ 16) && decide (stack < 12) && decide (pc < 64) && decide (bank < 32) && decide (row < 2 ^ 15)
  | .returnPc rid stack pc bank row => decide (rid < 2 ^ 16) && decide (stack < 12) && decide (pc < 64) && decide (bank < 32) && decide (row < 2 ^ 15)
  | .proof ring seq => decide (ring < 272) && decide (seq < 2 ^ 32)
  | .coalesceTimeout ring => decide (ring < 256)
  | .nop ring seq => decide (ring < 272) && decide (seq < 2 ^ 32)
  | .formeLoad ring t => decide (ring < 272) && t.wf
  | .chaseStart ring seq => decide (ring < 272) && decide (seq < 2 ^ 32)
  | .chaseStop ring seq => decide (ring < 272) && decide (seq < 2 ^ 32)
  | .chaseTeardown ring seq => decide (ring < 272) && decide (seq < 2 ^ 32)
  | .load ring t => decide (ring < 272) && t.wf
  | .setBlank ring seq => decide (ring < 272) && decide (seq < 2 ^ 32)
  | .seal ring seq => decide (ring < 272) && decide (seq < 2 ^ 32)
  | .abort ring seq => decide (ring < 272) && decide (seq < 2 ^ 32)
  | .galleySwitch ring seq => decide (ring < 272) && decide (seq < 2 ^ 32)
  | .switchCommit slot galley => decide (slot < 16) && decide (galley < 2 ^ 32)
  | .galleyRead ring t => decide (ring < 272) && t.wf
  | .dataWrite ring t => decide (ring < 272) && t.wf
  | .dataRead ring t => decide (ring < 272) && t.wf
  | .sample ring t => decide (ring < 272) && t.wf
  | .impHint ring seq => decide (ring < 272) && decide (seq < 2 ^ 32)
  | .markOp ring seq => decide (ring < 272) && decide (seq < 2 ^ 32)
  | .markWait ring seq => decide (ring < 272) && decide (seq < 2 ^ 32)
  | .qpCreate ring seq => decide (ring < 272) && decide (seq < 2 ^ 32)
  | .qpDestroy ring seq => decide (ring < 272) && decide (seq < 2 ^ 32)
  | .mrRegister ring seq => decide (ring < 272) && decide (seq < 2 ^ 32)
  | .mrDeregister ring seq => decide (ring < 272) && decide (seq < 2 ^ 32)
  | .coreJob ring seq posts asks => decide (ring < 272) && decide (seq < 2 ^ 32) && (posts.all fun e => decide (e.1 < 2 ^ 32) && e.2.length == 512) && asks.all Machine.CoreAsk.wf
  | .lockUp slot left peers => decide (slot < 16) && decide (left < 2 ^ 40) && peers.all Machine.GuestCopy.wf
  | .lockupBudgetEnd slot => decide (slot < 16)
  | .lateRun slot => decide (slot < 16)
  | .done slot ordinal stamp => decide (slot < 16) && decide (ordinal < 32768) && decide (stamp < 2 ^ 64)
  | .slip slot => decide (slot < 16)
  | .verdict slot m _ start0 named => decide (slot < 16) && decide (m < 2 ^ 64) && decide (start0 < 2 ^ 64) && (named.all fun e => decide (e.1 < 2 ^ 32) && decide (e.2 < 2 ^ 32))
  | .verdictTimeout slot => decide (slot < 16)
  | .join slot ordinal digest latency => decide (slot < 16) && decide (ordinal < 32768) && digest.length == 32 && decide (latency < 2 ^ 32)
  | .joinTimeout slot => decide (slot < 16)
  | .start slot stroke epoch announce => decide (slot < 16) && decide (stroke < 2 ^ 64) && decide (epoch < 2 ^ 64) && decide (announce < 2 ^ 16)
  | .stop slot ordinal stroke => decide (slot < 16) && decide (ordinal < 32768) && decide (stroke < 2 ^ 64)
  | .fault slot ordinal => decide (slot < 16) && decide (ordinal < 32768)
  | .switchReq slot ordinal galley state => decide (slot < 16) && decide (ordinal < 32768) && decide (galley < 2 ^ 32) && decide (state < 2 ^ 32)
  | .summary slot ordinal k v => decide (slot < 16) && decide (ordinal < 32768) && decide (k < 256) && v.wf
  | .summaryResult slot k v => decide (slot < 16) && decide (k < 256) && v.wf
  | .gather slot hw => decide (slot < 16) && hw.all Machine.HwEvent.wf
  | .split slot hw => decide (slot < 16) && hw.all Machine.HwEvent.wf
  | .serve slot hw => decide (slot < 16) && hw.all Machine.HwEvent.wf
  | .combine slot hw => decide (slot < 16) && hw.all Machine.HwEvent.wf
  | .scatter slot hw _ => decide (slot < 16) && hw.all Machine.HwEvent.wf
  | .dense slot hw => decide (slot < 16) && hw.all Machine.HwEvent.wf
  | .sparse slot hw => decide (slot < 16) && hw.all Machine.HwEvent.wf
  | .aggregate slot hw _ => decide (slot < 16) && hw.all Machine.HwEvent.wf
  | .frontier slot hw => decide (slot < 16) && hw.all Machine.HwEvent.wf
  | .tint slot hw => decide (slot < 16) && hw.all Machine.HwEvent.wf
  | .reduce slot hw => decide (slot < 16) && hw.all Machine.HwEvent.wf
  | .exchange slot x => decide (slot < 16) && x.hw.all Machine.HwEvent.wf &&
      x.asks.all fun a => decide (a.1 < 32768) && decide (a.2 < 2 ^ 40)
  | .publish slot hw => decide (slot < 16) && hw.all Machine.HwEvent.wf
  | .switch slot hw => decide (slot < 16) && hw.all Machine.HwEvent.wf
  | .stateAbort slot hw => decide (slot < 16) && hw.all Machine.HwEvent.wf
  | .hold slot => decide (slot < 16)
  | .branch slot => decide (slot < 16)
  | .plateComplete slot region => decide (slot < 16) && decide (region < 16)
  | .openZero cell g shape => cell.wf && decide (g < 8) && shape.wf
  | .openLoad cell g shape recs => cell.wf && decide (g < 8) && shape.wf && (recs.all fun r => r.length == 32)
  | .feed cell g f => cell.wf && decide (g < 8) && f.wf
  | .addWide cell g r n rec => cell.wf && decide (g < 8) && decide (r < 32) && decide (n < 32) && rec.length == 32
  | .close cell g cw => cell.wf && decide (g < 8) && decide (cw < 2 ^ 32)
  | .tintNop cell u => cell.wf && u.wf
  | .add cell u => cell.wf && u.wf
  | .sub cell u => cell.wf && u.wf
  | .mul cell u => cell.wf && u.wf
  | .mulh cell u => cell.wf && u.wf
  | .mulhu cell u => cell.wf && u.wf
  | .shl cell u => cell.wf && u.wf
  | .shr cell u => cell.wf && u.wf
  | .sra cell u => cell.wf && u.wf
  | .min cell u => cell.wf && u.wf
  | .max cell u => cell.wf && u.wf
  | .abs cell u => cell.wf && u.wf
  | .cmpeq cell u => cell.wf && u.wf
  | .cmplt cell u => cell.wf && u.wf
  | .cmpltu cell u => cell.wf && u.wf
  | .cmple cell u => cell.wf && u.wf
  | .sel cell u => cell.wf && u.wf
  | .clamp cell u => cell.wf && u.wf
  | .req cell u => cell.wf && u.wf
  | .lut cell u => cell.wf && u.wf
  | .rcp cell u => cell.wf && u.wf
  | .exp2 cell u => cell.wf && u.wf
  | .perm cell u => cell.wf && u.wf
  | .add192 cell u => cell.wf && u.wf
  | .movi cell u => cell.wf && u.wf
  | .signal rid mark amount => decide (rid < 2 ^ 16) && decide (mark < 16384) && decide (amount < 2 ^ 16)
  | .take rid mark amount => decide (rid < 2 ^ 16) && decide (mark < 16384) && decide (amount < 2 ^ 16)
  | .waitLend slot => decide (slot < 16)
  | .deadlockReport slot => decide (slot < 16)
  | .atomicAdd slot addr v => decide (slot < 16) && decide (addr < 2 ^ 44) && decide (-(2 ^ 63) ≤ v) && decide (v < 2 ^ 63)
  | .minIdx slot addr v index => decide (slot < 16) && decide (addr < 2 ^ 44) && decide (-(2 ^ 63) ≤ v) && decide (v < 2 ^ 63) && decide (index < 2 ^ 40)
  | .maxIdx slot addr v index => decide (slot < 16) && decide (addr < 2 ^ 44) && decide (-(2 ^ 63) ≤ v) && decide (v < 2 ^ 63) && decide (index < 2 ^ 40)
  | .cas slot addr compare new => decide (slot < 16) && decide (addr < 2 ^ 44) && decide (compare < 2 ^ 64) && decide (new < 2 ^ 64)
  | .xchg slot addr v => decide (slot < 16) && decide (addr < 2 ^ 44) && decide (v < 2 ^ 64)
  | .mbDrain line => decide (line < 0x300000000)
  | .hbmTemp stack temp => decide (stack < 12) && decide (temp < 256)
  | .scrub stack pc line sector found fails => decide (stack < 12) && decide (pc < 64) && decide (line < 2 ^ 24) && decide (sector < 2) && Machine.symErrsWf 1 found && fails.wf
  | .stackOffline stack => decide (stack < 12)
  | .lossOfSignal link => decide (link < 96)
  | .signalPresent link => decide (link < 96)
  | .trainingComplete link _ h => decide (link < 96) && h.wf
  | .trainingRetry link => decide (link < 96)
  | .hello link h => decide (link < 96) && h.wf
  | .helloTick => true
  | .helloTimeout link => decide (link < 96)
  | .lsr link r => decide (link < 96) && r.wf
  | .lsrRefresh => true
  | .lsrExpiry serial => decide (serial < 2 ^ 64)
  | .settlement => true
  | .routeBuild => true
  | .flit link data checks crc f => decide (link < 96) && data.all (fun p => decide (p < 1024)) && checks.all (fun p => decide (p < 64)) && decide (crc < 2 ^ 32) && f.wf
  | .ackIdle link => decide (link < 96)
  | .write f => f.wf
  | .append f => f.wf
  | .ack f => f.wf
  | .fabricSignal f => f.wf
  | .e2eTimeout dst msg => decide (dst < 2 ^ 15) && decide (msg < 2 ^ 32)
  | .time link step stamps hops lock root => decide (link < 96) && decide (step < 4) && (stamps.all fun t => decide (t < 2 ^ 80)) && decide (hops < 256) && decide (lock < 8) && decide (root < 2 ^ 64)
  | .timeTick link => decide (link < 96)
  | .send p => p.wf
  | .rdmaWrite p => p.wf
  | .rdmaRead p => p.wf
  | .arp f => f.wf
  | .neighbourDiscovery f => f.wf
  | .otherFrame f => f.wf
  | .cnp f qpn => f.wf && decide (qpn < 2 ^ 24)
  | .climbTick qpn => decide (qpn < 2 ^ 24)
  | .roceAckTimeout qpn => decide (qpn < 2 ^ 24)
  | .ethRetrain port _ => decide (port < 4)
  | .inkBaseSample b => decide (b < 2 ^ 16)
  | .throttleFall => true
  | .throttleQualify => true
  | .throttleRise => true
  | .throttleRelease => true
  | .throttleStuck => true
  | .powerClamp steps => decide (steps < 65)
  | .tempSample l0 l1 ha hb => decide (l0 < 256) && decide (l1 < 256) && decide (ha < 256) && decide (hb < 256)
  | .ppsEdge low => decide (low < 2 ^ 40)
  | .stormEnd => true
  | .ppsTimeout => true
  | .seqWatchdog slot region => decide (slot < 16) && decide (region < 16)
  | .coreRestart core => decide (core < 16)
  | .spareTest failing => (failing.all fun e => decide (e.1 < 4) && decide (e.2.1 < 20))
  | .getChallenge rid msg _ => (rid.all fun r => decide (r < 2 ^ 16)) && decide (msg.length ≤ 16384)
  | .challengeLapse challenge0 => decide (challenge0 < 2 ^ 64)
  | .readColophon rid msg _ => (rid.all fun r => decide (r < 2 ^ 16)) && decide (msg.length ≤ 16384)
  | .getIdentity rid msg _ => (rid.all fun r => decide (r < 2 ^ 16)) && decide (msg.length ≤ 16384)
  | .setEnvelope rid msg _ => (rid.all fun r => decide (r < 2 ^ 16)) && decide (msg.length ≤ 16384)
  | .setNodeId rid msg _ => (rid.all fun r => decide (r < 2 ^ 16)) && decide (msg.length ≤ 16384)
  | .setFabric rid msg _ => (rid.all fun r => decide (r < 2 ^ 16)) && decide (msg.length ≤ 16384)
  | .fwStage rid msg _ => (rid.all fun r => decide (r < 2 ^ 16)) && decide (msg.length ≤ 16384)
  | .setNetId rid msg _ => (rid.all fun r => decide (r < 2 ^ 16)) && decide (msg.length ≤ 16384)
  | .debugSession rid msg _ => (rid.all fun r => decide (r < 2 ^ 16)) && decide (msg.length ≤ 16384)
  | .sessionLapse => true
  | .fenceWrite rid msg _ => (rid.all fun r => decide (r < 2 ^ 16)) && decide (msg.length ≤ 16384)
  | .enrol rid msg _ => (rid.all fun r => decide (r < 2 ^ 16)) && decide (msg.length ≤ 16384)
  | .debugUnlock rid msg _ => (rid.all fun r => decide (r < 2 ^ 16)) && decide (msg.length ≤ 16384)
  | .repairAccess rid msg _ => (rid.all fun r => decide (r < 2 ^ 16)) && decide (msg.length ≤ 16384)
  | .zeroise rid msg _ => (rid.all fun r => decide (r < 2 ^ 16)) && decide (msg.length ≤ 16384)
  | .authEnd kind => decide (kind < 3)
  | .checkpoint => true
  | .internalScan _ => true
  | .getVersion => true
  | .getCapabilities => true
  | .negotiateAlgorithms => true
  | .getDigests => true
  | .getCertificate slot offset length => decide (slot < 8) && decide (offset < 2 ^ 16) && decide (length < 2 ^ 16)
  | .challenge slot nonce => decide (slot < 8) && nonce.length == 32
  | .getMeasurements index _ => decide (index < 256)
  | .registerRead rid off width => decide (rid < 2 ^ 16) && decide (off < 2 ^ 26) && decide (1 ≤ width) && decide (width ≤ 8)
  | .clockReturn _ => true
  | .idleRegionSubstitution p => decide (p < 20)
  | .setPointWrite die mv _ => decide (die < 4) && decide (mv < 2 ^ 16)
  | .backInvalidateResponse line => decide (line < 0x300000000)
  | .cxlCacheSnoop line => decide (line < 2 ^ 58)
  | .roceAcknowledgement f qpn psn nak => f.wf && decide (qpn < 2 ^ 24) && decide (psn < 2 ^ 24) && decide (nak < 5)
  | .readResponse f qpn psn data => f.wf && decide (qpn < 2 ^ 24) && decide (psn < 2 ^ 24) && decide (data.length ≤ 4096)
  | .boundaryScan code => decide (code < 4)

end Sys2Proof
end

