-- ==== Sys2Proof/Safety.lean ====
section
/-! DEFINITION. What every reachable state of the block keeps, in the terms that the statements use: each sparse list has
one canonical form, so that equal contents are equal data, the 16 chase slots stand, and the queue holds commands that a
sender can spell. -/

namespace Sys2Proof.Machine

/-- The keys of a list rise strictly. -/
def keysRising {α : Type} : List (Nat × α) → Bool
  | a :: b :: t => decide (a.1 < b.1) && keysRising (b :: t)
  | _ => true

/-- A listed word of the register file belongs to a register and is not the register's reset word. -/
def regListed (e : Nat × Word) : Bool :=
  match findReg e.1 with
  | some (r, _) => e.2 != BitVec.ofNat 64 r.resetWord
  | none => false

/-- A merging-buffer entry lists bytes of one HBM line at rising offsets (R489). -/
def mbEntryOk (e : MbEntry) : Bool := decide (64 * e.line < hbmTop) && keysRising e.bytes && e.bytes.all fun b => decide (b.1 < 64)

/-- No two entries hold one line. -/
def linesDistinct : List MbEntry → Bool
  | [] => true
  | e :: t => (t.all fun x => x.line != e.line) && linesDistinct t

/-- The merging buffers hold well-formed entries of distinct lines. -/
def mbFine (l : List MbEntry) : Bool := l.all mbEntryOk && linesDistinct l

/-- The canonical form of a state: memory, host memory and the mailbox buffer list nonzero bytes at rising addresses; the
register file lists, at rising offsets, the words that differ from their reset words; there are 16 chase slots (R40); the
merging buffers are well-formed. -/
def State.canonical (s : State) : Bool :=
  Memory.wf s.mem && Memory.wf s.hostMem && Memory.wf s.sec.buf && keysRising s.regs && s.regs.all regListed &&
    s.chases.length == 16 && mbFine s.mb

/-- Every waiting command is one that a sender can spell. -/
def State.queueWf (s : State) : Bool := s.pending.all Instr.wf

/-- The invariant of the block. -/
abbrev State.Inv (s : State) : Prop := s.canonical = true ∧ s.queueWf = true

/-! ### Frames -/

/-- The parts of the state beside the queue and the register file. -/
inductive Part where
  | freeIdx
  | upNs
  | pw
  | msix
  | msixPend
  | out
  | host
  | hostMem
  | mem
  | poison
  | mb
  | rcTags
  | hbm
  | chases
  | samples
  | groups
  | openWaits
  | engines
  | stipple
  | marks
  | fab
  | eth
  | ink
  | time
  | sec
  | ras
  deriving DecidableEq, Repr

/-- Two states agree on a part. -/
abbrev samePart (p : Part) (s t : State) : Prop :=
  match p with
  | .freeIdx => t.freeIdx = s.freeIdx
  | .upNs => t.upNs = s.upNs
  | .pw => t.pw = s.pw
  | .msix => t.msix = s.msix
  | .msixPend => t.msixPend = s.msixPend
  | .out => t.out = s.out
  | .host => t.host = s.host
  | .hostMem => t.hostMem = s.hostMem
  | .mem => t.mem = s.mem
  | .poison => t.poison = s.poison
  | .mb => t.mb = s.mb
  | .rcTags => t.rcTags = s.rcTags
  | .hbm => t.hbm = s.hbm
  | .chases => t.chases = s.chases
  | .samples => t.samples = s.samples
  | .groups => t.groups = s.groups
  | .openWaits => t.openWaits = s.openWaits
  | .engines => t.engines = s.engines
  | .stipple => t.stipple = s.stipple
  | .marks => t.marks = s.marks
  | .fab => t.fab = s.fab
  | .eth => t.eth = s.eth
  | .ink => t.ink = s.ink
  | .time => t.time = s.time
  | .sec => t.sec = s.sec
  | .ras => t.ras = s.ras

/-- `t` is as `s` in the queue, in every register but those of `rs` (each in every instance), and in every part but `ps`. -/
def State.SameBut (rs : List RegName) (ps : List Part) (s t : State) : Prop :=
  t.pending = s.pending ∧ (∀ r, r ∉ rs → ∀ i, i < r.info.count → t.rd r i = s.rd r i) ∧ ∀ p, p ∉ ps → samePart p s t

/-! ### What each command may change (the frame of every command) -/

/-- The registers that a command may change; every other register reads as before. -/
def touchedRegs : Instr → List RegName
  | .pwrGoodRise | .refclk100mStop | .coalesceTimeout .. | .nop .. | .openZero .. | .openLoad .. | .addWide ..
  | .mbDrain .. | .helloTick | .ackIdle .. | .timeTick .. | .climbTick .. | .throttleFall | .challengeLapse ..
  | .getVersion | .getCapabilities | .negotiateAlgorithms | .getDigests | .getCertificate .. | .challenge ..
  | .getMeasurements .. | .clockReturn .. | .cxlCacheSnoop .. | .boundaryScan .. =>
    []
  | .pwrGoodLoss | .clockLoss .. | .refclk100mReturn | .resetNAssert | .functionLevelReset | .d3hotReturn
  | .registerWrite .. | .registerRead .. =>
    RegName.all
  | .bootStart .. =>
    [.sysCapacity, .sysRegionMap, .impMoves, .impSpent, .hbmStatus, .hbmPcOffline, .hlkLinkStatus, .hlkFabric,
     .hlkDisc, .hlkRoot, .ethPortStatus, .ethPortMac, .ethPortIp4, .ethPortIp6Hi, .ethPortIp6Lo, .hifEvtVec,
     .hifEvtStatus, .inkEnvelope, .inkLedger, .inkEvents, .inkThermal, .inkChase, .secStatus, .secColophon,
     .secColCkpt, .secColEvents, .secColLost, .rasStatus, .rasSpares, .rasCounts, .rasLogCtrl, .rasLog, .sysBoot]
  | .ready .. =>
    [.hifEvtVec, .hifEvtStatus, .hifDmaBlocked, .hifRingStatus, .sysBoot]
  | .configRequest .. =>
    [.hifStatus]
  | .bar2Read .. =>
    [.sysCapacity, .impMoves, .impSpent, .hbmStatus, .hbmPcOffline, .hbmErrors, .hbmRepair, .hbmLast, .hifEvtVec,
     .hifEvtStatus, .hifUr, .rasStatus, .rasCounts, .rasLogCtrl, .rasLog]
  | .bar2Write .. =>
    [.sysCapacity, .impMoves, .impSpent, .hbmStatus, .hbmPcOffline, .hbmErrors, .hbmRepair, .hbmLast, .rcMb,
     .hifEvtVec, .hifEvtStatus, .hifUr, .rasStatus, .rasCounts, .rasLogCtrl, .rasLog]
  | .cxlMemRead .. =>
    [.sysCapacity, .impMoves, .impSpent, .hbmStatus, .hbmPcOffline, .hbmErrors, .hbmRepair, .hbmLast, .rcStats,
     .hifEvtVec, .hifEvtStatus, .hifUr, .rasStatus, .rasCounts, .rasLogCtrl, .rasLog]
  | .cxlMemWrite .. =>
    [.hbmErrors, .rcMb, .hifUr]
  | .doorbell .. =>
    [.hifEvtVec, .hifEvtStatus, .hifDmaBlocked, .hifUr, .hifRingStatus, .hifRingCount]
  | .ticketReread .. =>
    [.hifEvtVec, .hifEvtStatus, .hifDmaBlocked, .hifRingStatus, .hifRingCount]
  | .hifRgEn .. | .ringDisable .. =>
    [.hifEvtVec, .hifEvtStatus, .hifDmaBlocked, .hifUr, .hifRingCtrl, .hifRingPhead, .hifRingStatus]
  | .hifRgResume .. =>
    [.hifEvtVec, .hifEvtStatus, .hifDmaBlocked, .hifUr, .hifRingPhead, .hifRingStatus]
  | .hifHostPool .. =>
    [.hifHostPool, .hifUr]
  | .hifHostRid .. =>
    [.hifHostRid, .hifUr]
  | .hifApertureSync .. =>
    [.hifApertureSync, .hifUr]
  | .hifDmaFence .. =>
    [.hifDmaFence, .hifUr]
  | .timeNs .. =>
    [.hifUr, .timeFrac]
  | .impQuery .. =>
    [.impQuery, .impQueryResult, .hifUr]
  | .mrkXlate .. =>
    [.mrkXlate, .hifUr]
  | .dbgMarkSet .. =>
    [.mrkCount, .mrkState, .mrkEvents, .dbgMarkStatus, .hifUr, .inkLedger, .inkEvents, .inkChase]
  | .rcWays .. =>
    [.rcWays, .hifUr]
  | .rcWaysApply .. =>
    [.impMoves, .impSpent, .rcWays, .rcMb]
  | .clean .. | .invalidate .. | .cleanInvalidate .. | .zero .. =>
    [.impMoves, .impSpent, .rcMb, .rcRangeCtrl, .hifUr]
  | .rangeDone .. =>
    [.rcRangeCtrl]
  | .readMap .. | .testPc .. | .returnPc .. =>
    [.hbmMaint, .hbmMaintResult, .hifUr, .secStatus, .secColophon, .secColCkpt, .secColEvents, .secColLost]
  | .forceRepair .. =>
    [.sysCapacity, .impMoves, .impSpent, .hbmStatus, .hbmPcOffline, .hbmRepair, .hbmLast, .hbmMaint,
     .hbmMaintResult, .hifEvtVec, .hifEvtStatus, .hifUr, .secStatus, .secColophon, .secColCkpt, .secColEvents,
     .secColLost, .rasStatus, .rasCounts, .rasLogCtrl, .rasLog]
  | .proof .. =>
    [.hifEvtVec, .hifEvtStatus, .hifDmaBlocked, .hifRingPhead, .hifRingStatus, .rasStatus, .rasCounts, .rasLogCtrl,
     .rasLog]
  | .formeLoad .. =>
    [.sysCapacity, .sysChaseStatus, .stkEpoch, .stkPeriod, .impMoves, .impSpent, .hbmStatus, .hbmPcOffline,
     .hbmErrors, .hbmRepair, .hbmLast, .rcMb, .rcStats, .mrkCount, .mrkState, .mrkCtx, .hifEvtVec, .hifEvtStatus,
     .hifDmaBlocked, .rasStatus, .rasCounts, .rasLogCtrl, .rasLog]
  | .chaseStart .. =>
    [.sysChaseStatus, .stkEpoch, .stkStatus, .impGuest, .impMoves, .impSpent, .rcMb, .mrkCount, .mrkState, .mrkCtx,
     .hlkRtStatus]
  | .chaseStop .. | .done .. | .stop .. =>
    [.sysChaseStatus, .stkStatus, .hlkRtStatus, .inkLedger, .inkChase]
  | .chaseTeardown .. =>
    [.sysChaseStatus, .stkNumber, .stkEpoch, .stkPeriod, .stkStatus, .stkSlips, .stkHolds, .impCtrl, .impGuest,
     .impMoves, .impSpent, .impEvents, .rcWays, .mrkCount, .mrkState, .mrkCtx, .mrkRealign, .mrkFault, .mrkEvents,
     .inkLedger, .inkChase, .secStatus, .secAuth, .secColophon, .secColCkpt, .secColEvents, .secColLost]
  | .load .. | .galleyRead .. | .dataRead .. =>
    [.sysCapacity, .impMoves, .impSpent, .hbmStatus, .hbmPcOffline, .hbmErrors, .hbmRepair, .hbmLast, .rcMb,
     .rcStats, .hifEvtVec, .hifEvtStatus, .hifDmaBlocked, .rasStatus, .rasCounts, .rasLogCtrl, .rasLog]
  | .setBlank .. =>
    [.impMoves, .impSpent, .rcMb, .rcStats, .hifEvtVec, .hifEvtStatus, .hifDmaBlocked]
  | .seal .. | .impHint .. =>
    [.rcStats, .hifEvtVec, .hifEvtStatus, .hifDmaBlocked]
  | .abort .. =>
    [.rcStats, .hlkRtStatus, .hifEvtVec, .hifEvtStatus, .hifDmaBlocked]
  | .galleySwitch .. =>
    [.impMoves, .impSpent, .hlkRtStatus]
  | .switchCommit .. =>
    [.impMoves, .impSpent]
  | .dataWrite .. =>
    [.sysCapacity, .rgnArrStore, .impMoves, .impSpent, .impEvents, .hbmStatus, .hbmPcOffline, .hbmErrors,
     .hbmRepair, .hbmLast, .rcMb, .rcStats, .hifEvtVec, .hifEvtStatus, .hifDmaBlocked, .rasStatus, .rasCounts,
     .rasLogCtrl, .rasLog]
  | .sample .. =>
    [.sysCapacity, .impMoves, .impSpent, .hbmStatus, .hbmPcOffline, .hbmErrors, .hbmRepair, .hbmLast, .rcStats,
     .hifEvtVec, .hifEvtStatus, .hifDmaBlocked, .rasStatus, .rasCounts, .rasLogCtrl, .rasLog]
  | .markOp .. =>
    [.sysChaseStatus, .stkStatus, .impMoves, .impSpent, .rcMb, .mrkCount, .mrkState, .mrkFault, .mrkEvents,
     .mrkHostStatus, .hlkRtStatus, .hifEvtVec, .hifEvtStatus, .inkLedger, .inkEvents, .inkChase]
  | .markWait .. =>
    [.mrkCount, .mrkState, .mrkEvents, .inkLedger, .inkEvents, .inkChase]
  | .qpCreate .. =>
    [.rcStats, .ethRoceUse, .hifEvtVec, .hifEvtStatus, .hifDmaBlocked]
  | .qpDestroy .. | .mrRegister .. | .mrDeregister .. =>
    [.ethRoceUse]
  | .coreJob .. =>
    [.rcStats, .ethPortDrops, .ethRoce]
  | .lockUp .. =>
    [.sysRegionMap, .sysChaseStatus, .stkNumber, .stkStatus, .stkSlips, .stkHolds, .impMoves, .impSpent, .impEvents,
     .rcWays, .rcMb, .rcStats, .mrkCount, .mrkState, .mrkCtx, .mrkRealign, .mrkFault, .hlkRtStatus, .hifEvtVec,
     .hifEvtStatus, .hifDmaBlocked, .inkEnvelope, .inkLedger, .inkEvents, .inkChase, .timeNs, .secMbCtrl,
     .rasStatus, .rasSpares, .rasCounts, .rasLogCtrl, .rasLog]
  | .lockupBudgetEnd .. =>
    [.sysChaseStatus, .stkStatus, .stkSlips, .impMoves, .impSpent, .rcMb, .mrkCount, .mrkState, .mrkFault,
     .hlkRtStatus, .hifEvtVec, .hifEvtStatus, .inkLedger, .inkEvents, .inkChase, .timeNs, .secMbCtrl]
  | .lateRun .. =>
    [.stkStatus, .stkSlips, .stkHolds, .timeNs, .secMbCtrl]
  | .slip .. | .verdictTimeout .. =>
    [.sysChaseStatus, .stkStatus, .stkSlips, .impMoves, .impSpent, .rcMb, .hlkRtStatus, .hifEvtVec, .hifEvtStatus,
     .inkLedger, .inkChase, .timeNs, .secMbCtrl, .rasStatus]
  | .verdict .. =>
    [.sysChaseStatus, .stkStatus, .stkSlips, .impMoves, .impSpent, .rcMb, .hlkRtStatus, .hifEvtVec, .hifEvtStatus,
     .inkLedger, .inkChase, .rasStatus]
  | .join .. =>
    [.sysChaseStatus, .stkEpoch, .stkStatus, .impMoves, .impSpent, .rcMb, .hlkRtStatus]
  | .joinTimeout .. =>
    [.sysChaseStatus, .stkStatus, .stkSlips, .impMoves, .impSpent, .rcMb, .timeNs, .secMbCtrl]
  | .start .. =>
    [.stkEpoch, .stkStatus, .hlkRtStatus]
  | .fault .. =>
    [.sysChaseStatus, .stkStatus, .impMoves, .impSpent, .rcMb, .hlkRtStatus, .hifEvtVec, .hifEvtStatus, .inkLedger,
     .inkChase]
  | .switchReq .. | .summary .. | .summaryResult .. =>
    [.hlkRtStatus]
  | .gather .. =>
    [.sysCapacity, .sysRegionMap, .sysChaseStatus, .stkStatus, .rgnAriRetry, .rgnAriOvf, .rgnAriLast, .rgnArrStore,
     .rgnArrRecord, .rgnStpHellbox, .impMoves, .impSpent, .impEvents, .hbmStatus, .hbmPcOffline, .hbmErrors,
     .hbmRepair, .hbmLast, .rcMb, .rcStats, .rcErrors, .mrkCount, .mrkState, .mrkFault, .hlkRtStatus, .hifEvtVec,
     .hifEvtStatus, .inkLedger, .inkEvents, .inkChase, .rasStatus, .rasSpares, .rasCounts, .rasLogCtrl, .rasLog]
  | .split .. | .publish .. =>
    [.sysCapacity, .sysRegionMap, .sysChaseStatus, .stkStatus, .rgnArrRecord, .rgnStpHellbox, .impMoves, .impSpent,
     .hbmStatus, .hbmPcOffline, .hbmErrors, .hbmRepair, .hbmLast, .rcMb, .rcStats, .rcErrors, .mrkCount, .mrkState,
     .mrkFault, .hlkRtStatus, .hifEvtVec, .hifEvtStatus, .inkLedger, .inkEvents, .inkChase, .rasStatus, .rasSpares,
     .rasCounts, .rasLogCtrl, .rasLog]
  | .serve .. =>
    [.sysCapacity, .sysRegionMap, .sysChaseStatus, .stkStatus, .rgnStpHellbox, .impMoves, .impSpent, .hbmStatus,
     .hbmPcOffline, .hbmErrors, .hbmRepair, .hbmLast, .rcMb, .rcStats, .rcErrors, .mrkCount, .mrkState, .mrkFault,
     .hlkRtStatus, .hifEvtVec, .hifEvtStatus, .inkLedger, .inkEvents, .inkChase, .rasStatus, .rasSpares, .rasCounts,
     .rasLogCtrl, .rasLog]
  | .combine .. =>
    [.sysCapacity, .sysRegionMap, .sysChaseStatus, .stkStatus, .rgnAriRetry, .rgnAriOvf, .rgnAriLast, .rgnArrStore,
     .rgnArrRecord, .rgnStpHellbox, .impMoves, .impSpent, .impEvents, .hbmStatus, .hbmPcOffline, .hbmErrors,
     .hbmRepair, .hbmLast, .rcMb, .rcErrors, .mrkCount, .mrkState, .mrkFault, .hlkRtStatus, .hifEvtVec,
     .hifEvtStatus, .inkLedger, .inkEvents, .inkChase, .rasStatus, .rasSpares, .rasCounts, .rasLogCtrl, .rasLog]
  | .scatter .. =>
    [.sysCapacity, .sysRegionMap, .sysChaseStatus, .stkStatus, .rgnArrMeta, .rgnArrRecord, .rgnStpSpill,
     .rgnStpHellbox, .impMoves, .impSpent, .hbmStatus, .hbmPcOffline, .hbmErrors, .hbmRepair, .hbmLast, .rcMb,
     .rcStats, .rcAtomics, .rcErrors, .mrkCount, .mrkState, .mrkFault, .hlkRtStatus, .hifEvtVec, .hifEvtStatus,
     .inkLedger, .inkEvents, .inkChase, .rasStatus, .rasSpares, .rasCounts, .rasLogCtrl, .rasLog]
  | .dense .. | .sparse .. =>
    [.sysCapacity, .sysRegionMap, .sysChaseStatus, .stkStatus, .rgnAriRetry, .rgnAriOvf, .rgnAriLast, .rgnArrSegs,
     .rgnArrStore, .rgnArrMeta, .rgnArrRecord, .rgnStpHellbox, .rgnTrc, .impMoves, .impSpent, .impEvents,
     .hbmStatus, .hbmPcOffline, .hbmErrors, .hbmRepair, .hbmLast, .rcMb, .rcStats, .rcErrors, .mrkCount, .mrkState,
     .mrkFault, .hlkRtStatus, .hifEvtVec, .hifEvtStatus, .inkLedger, .inkEvents, .inkChase, .rasStatus, .rasSpares,
     .rasCounts, .rasLogCtrl, .rasLog]
  | .aggregate .. =>
    [.sysCapacity, .sysRegionMap, .sysChaseStatus, .stkStatus, .rgnAriRetry, .rgnAriOvf, .rgnAriLast, .rgnArrStore,
     .rgnArrMeta, .rgnStpSpill, .rgnStpHellbox, .grfHub, .grfUnsplit, .grfFaults, .grfLast, .grfLastVertex,
     .impMoves, .impSpent, .impEvents, .hbmStatus, .hbmPcOffline, .hbmErrors, .hbmRepair, .hbmLast, .rcMb, .rcStats,
     .rcErrors, .mrkCount, .mrkState, .mrkFault, .hlkRtStatus, .hifEvtVec, .hifEvtStatus, .inkLedger, .inkEvents,
     .inkChase, .rasStatus, .rasSpares, .rasCounts, .rasLogCtrl, .rasLog]
  | .frontier .. =>
    [.sysCapacity, .sysRegionMap, .sysChaseStatus, .stkStatus, .rgnArrMeta, .rgnStpHellbox, .grfFrontier,
     .grfFaults, .grfLast, .grfLastVertex, .impMoves, .impSpent, .impEvents, .hbmStatus, .hbmPcOffline, .hbmErrors,
     .hbmRepair, .hbmLast, .rcMb, .rcStats, .rcErrors, .mrkCount, .mrkState, .mrkFault, .hlkRtStatus, .hifEvtVec,
     .hifEvtStatus, .inkLedger, .inkEvents, .inkChase, .rasStatus, .rasSpares, .rasCounts, .rasLogCtrl, .rasLog]
  | .tint .. =>
    [.sysCapacity, .sysRegionMap, .sysChaseStatus, .stkStatus, .rgnArrMeta, .rgnStpHellbox, .rgnVecFlags,
     .rgnVecCount, .impMoves, .impSpent, .impEvents, .hbmStatus, .hbmPcOffline, .hbmErrors, .hbmRepair, .hbmLast,
     .rcMb, .rcStats, .rcErrors, .mrkCount, .mrkState, .mrkFault, .hlkRtStatus, .hifEvtVec, .hifEvtStatus,
     .inkLedger, .inkEvents, .inkChase, .rasStatus, .rasSpares, .rasCounts, .rasLogCtrl, .rasLog]
  | .reduce .. =>
    [.sysCapacity, .sysRegionMap, .sysChaseStatus, .stkStatus, .rgnAriRetry, .rgnAriOvf, .rgnAriLast, .rgnArrStore,
     .rgnArrMeta, .rgnArrRecord, .rgnStpHellbox, .rgnVecFlags, .impMoves, .impSpent, .impEvents, .hbmStatus,
     .hbmPcOffline, .hbmErrors, .hbmRepair, .hbmLast, .rcMb, .rcStats, .rcErrors, .mrkCount, .mrkState, .mrkFault,
     .hlkRtStatus, .hifEvtVec, .hifEvtStatus, .inkLedger, .inkEvents, .inkChase, .rasStatus, .rasSpares, .rasCounts,
     .rasLogCtrl, .rasLog]
  | .exchange .. =>
    [.sysCapacity, .sysRegionMap, .sysChaseStatus, .stkStatus, .rgnArrRecord, .rgnStpHellbox, .impMoves, .impSpent,
     .hbmStatus, .hbmPcOffline, .hbmErrors, .hbmRepair, .hbmLast, .rcMb, .rcStats, .rcAtomics, .rcErrors, .mrkCount,
     .mrkState, .mrkFault, .hlkRtStatus, .hifEvtVec, .hifEvtStatus, .inkLedger, .inkEvents, .inkChase, .rasStatus,
     .rasSpares, .rasCounts, .rasLogCtrl, .rasLog]
  | .switch .. | .stateAbort .. =>
    [.sysCapacity, .sysRegionMap, .sysChaseStatus, .stkStatus, .rgnStpHellbox, .impMoves, .impSpent, .hbmStatus,
     .hbmPcOffline, .hbmErrors, .hbmRepair, .hbmLast, .rcMb, .rcErrors, .mrkCount, .mrkState, .mrkFault,
     .hlkRtStatus, .hifEvtVec, .hifEvtStatus, .inkLedger, .inkEvents, .inkChase, .rasStatus, .rasSpares, .rasCounts,
     .rasLogCtrl, .rasLog]
  | .hold .. =>
    [.sysChaseStatus, .stkStatus, .impMoves, .impSpent, .rcMb, .mrkCount, .mrkState, .mrkCtx, .mrkFault,
     .hlkRtStatus, .hifEvtVec, .hifEvtStatus, .inkLedger, .inkEvents, .inkChase]
  | .branch .. | .plateComplete .. =>
    [.sysChaseStatus, .stkStatus, .impMoves, .impSpent, .rcMb, .mrkCount, .mrkState, .mrkFault, .hlkRtStatus,
     .hifEvtVec, .hifEvtStatus, .inkLedger, .inkEvents, .inkChase]
  | .feed .. | .seqWatchdog .. =>
    [.sysCapacity, .sysRegionMap, .sysChaseStatus, .stkStatus, .impMoves, .impSpent, .rcMb, .mrkCount, .mrkState,
     .mrkFault, .hlkRtStatus, .hifEvtVec, .hifEvtStatus, .inkLedger, .inkEvents, .inkChase, .rasStatus, .rasSpares,
     .rasCounts, .rasLogCtrl, .rasLog]
  | .close .. =>
    [.rgnAriRetry, .rgnAriOvf, .rgnAriLast, .impMoves, .impSpent, .impEvents, .rcMb]
  | .tintNop .. | .add .. | .sub .. | .mul .. | .mulh .. | .mulhu .. | .shl .. | .shr .. | .sra .. | .min ..
  | .max .. | .abs .. | .cmpeq .. | .cmplt .. | .cmpltu .. | .cmple .. | .sel .. | .clamp .. | .req .. | .lut ..
  | .rcp .. | .exp2 .. | .perm .. | .add192 .. | .movi .. =>
    [.rgnVecFlags]
  | .signal .. | .take .. =>
    [.sysChaseStatus, .stkStatus, .impMoves, .impSpent, .rcMb, .mrkCount, .mrkState, .mrkFault, .mrkEvents,
     .mrkHostStatus, .hlkRtStatus, .hifEvtVec, .hifEvtStatus, .hifUr, .inkLedger, .inkEvents, .inkChase]
  | .waitLend .. =>
    [.mrkEvents, .inkLedger]
  | .deadlockReport .. =>
    [.sysChaseStatus, .mrkDlStatus, .mrkDlSnap, .hifEvtVec, .hifEvtStatus]
  | .atomicAdd .. | .minIdx .. | .maxIdx .. | .cas .. | .xchg .. =>
    [.impMoves, .impSpent, .rcMb, .rcAtomics]
  | .hbmTemp .. =>
    [.hbmStatus, .hifEvtVec, .hifEvtStatus]
  | .scrub .. =>
    [.sysCapacity, .impMoves, .impSpent, .hbmStatus, .hbmPcOffline, .hbmErrors, .hbmRepair, .hbmLast, .hbmScrub,
     .hifEvtVec, .hifEvtStatus, .rasStatus, .rasCounts, .rasLogCtrl, .rasLog]
  | .stackOffline .. =>
    [.sysCapacity, .impMoves, .impSpent, .hbmStatus, .hifEvtVec, .hifEvtStatus, .rasStatus, .rasCounts, .rasLogCtrl,
     .rasLog]
  | .lossOfSignal .. =>
    [.hlkLinkStatus, .hlkLinkPeer, .hlkDisc, .hlkRoot, .hlkRtStatus, .hlkE2e, .hlkTime, .hlkRtGroup, .hlkRtMember,
     .hlkBundle, .hifEvtVec, .hifEvtStatus, .timeStatus, .timePpsCount, .rasStatus, .rasCounts, .rasLogCtrl,
     .rasLog, .sysBoot]
  | .signalPresent .. | .trainingRetry .. =>
    [.hlkLinkStatus]
  | .trainingComplete .. =>
    [.hlkLinkStatus, .hlkLinkPeer, .hlkLinkErr, .hlkDisc, .hlkRoot, .hlkRtStatus, .hlkE2e, .hlkTime, .hlkRtGroup,
     .hlkRtMember, .hlkBundle, .hifEvtVec, .hifEvtStatus, .timeStatus, .timePpsCount, .rasStatus, .rasCounts,
     .rasLogCtrl, .rasLog, .sysBoot]
  | .hello .. =>
    [.hlkLinkStatus, .hlkLinkPeer, .hlkDisc, .hlkRoot, .hlkRtStatus, .hlkTime, .hlkRtGroup, .hlkRtMember,
     .hlkBundle, .timeStatus, .timePpsCount]
  | .helloTimeout .. =>
    [.hlkLinkStatus, .hlkLinkPeer, .hlkLinkErr, .hlkDisc, .hlkRoot, .hlkRtStatus, .hlkE2e, .hlkTime, .hlkRtGroup,
     .hlkRtMember, .hlkBundle, .hifEvtVec, .hifEvtStatus, .timeStatus, .timePpsCount, .rasStatus, .rasCounts,
     .rasLogCtrl, .rasLog]
  | .lsr .. | .lsrRefresh | .lsrExpiry .. =>
    [.hlkDisc, .hlkRoot]
  | .settlement =>
    [.sysChaseStatus, .stkStatus, .impMoves, .impSpent, .rcMb, .hlkLinkStatus, .hlkNode, .hlkDisc, .hlkRoot,
     .hlkRtStatus, .hlkTime, .hlkRtGroup, .hlkRtMember, .hlkBundle, .hifEvtVec, .hifEvtStatus, .inkLedger,
     .inkChase, .timeStatus, .timePpsCount]
  | .routeBuild =>
    [.hlkLinkStatus, .hlkDisc, .hlkRoot, .hlkRtStatus, .hlkTime, .hlkRtGroup, .hlkRtMember, .hlkBundle, .timeStatus,
     .timePpsCount, .sysBoot]
  | .flit .. =>
    [.hlkLinkStatus, .hlkLinkPeer, .hlkLinkErr, .hlkDisc, .hlkRoot, .hlkRtStatus, .hlkE2e, .hlkTime, .hlkRtGroup,
     .hlkRtMember, .hlkBundle, .timeStatus, .timePpsCount]
  | .write .. =>
    [.impMoves, .impSpent, .impEvents, .rcMb, .hlkRtStatus]
  | .append .. =>
    [.impMoves, .impSpent, .rcMb, .rcStats, .rcAtomics, .hlkRtStatus]
  | .ack .. =>
    [.sysChaseStatus, .stkStatus, .hlkRtStatus, .hlkE2e, .inkLedger, .inkChase]
  | .fabricSignal .. =>
    [.sysChaseStatus, .stkStatus, .impMoves, .impSpent, .rcMb, .mrkCount, .mrkState, .mrkFault, .mrkEvents,
     .hlkRtStatus, .hifEvtVec, .hifEvtStatus, .inkLedger, .inkEvents, .inkChase]
  | .e2eTimeout .. =>
    [.sysChaseStatus, .stkStatus, .impMoves, .impSpent, .rcMb, .hlkRtStatus, .hlkE2e, .hifEvtVec, .hifEvtStatus,
     .inkLedger, .inkChase]
  | .time .. | .ppsEdge .. =>
    [.hlkTime, .timeNs, .timeStatus, .timeNextSec, .timePpsCount, .timeStep, .sysBoot]
  | .send .. | .rdmaRead .. =>
    [.sysChaseStatus, .stkStatus, .impMoves, .impSpent, .rcMb, .rcStats, .mrkCount, .mrkState, .mrkFault,
     .hlkRtStatus, .ethPortDrops, .ethRoce, .hifEvtVec, .hifEvtStatus, .inkLedger, .inkEvents, .inkChase]
  | .rdmaWrite .. | .backInvalidateResponse .. =>
    [.sysChaseStatus, .stkStatus, .impMoves, .impSpent, .impEvents, .rcMb, .rcStats, .mrkCount, .mrkState,
     .mrkFault, .hlkRtStatus, .ethPortDrops, .ethRoce, .hifEvtVec, .hifEvtStatus, .inkLedger, .inkEvents, .inkChase]
  | .arp .. | .neighbourDiscovery .. | .otherFrame .. =>
    [.ethPortDrops]
  | .cnp .. | .roceAckTimeout .. | .roceAcknowledgement .. =>
    [.ethPortDrops, .ethRoce]
  | .ethRetrain .. =>
    [.ethPortStatus]
  | .inkBaseSample .. =>
    [.inkLedger, .inkEvents, .inkChase]
  | .throttleQualify | .throttleRelease =>
    [.inkEnvelope, .inkLedger, .inkThrottle, .inkEvents, .inkChase]
  | .throttleRise | .throttleStuck =>
    [.inkThrottle]
  | .powerClamp .. =>
    [.inkEvents, .inkChase]
  | .tempSample .. =>
    [.hifEvtVec, .hifEvtStatus, .inkEnvelope, .inkLedger, .inkThrottle, .inkEvents, .inkThermal, .inkChase]
  | .stormEnd =>
    [.timeStatus]
  | .ppsTimeout =>
    [.hlkTime, .timeStatus, .timePpsCount]
  | .coreRestart .. | .setPointWrite .. =>
    [.hifEvtVec, .hifEvtStatus, .rasStatus, .rasCounts, .rasLogCtrl, .rasLog]
  | .spareTest .. =>
    [.impMoves, .impSpent, .hifEvtVec, .hifEvtStatus, .rasStatus, .rasSpares, .rasCounts, .rasLogCtrl, .rasLog]
  | .getChallenge .. | .readColophon .. | .getIdentity .. | .setEnvelope .. | .setNodeId .. | .setFabric ..
  | .fwStage .. | .setNetId .. | .debugSession .. | .fenceWrite .. | .enrol .. | .debugUnlock ..
  | .repairAccess .. | .zeroise .. =>
    [.hlkFabric, .ethPortMac, .ethPortIp4, .ethPortIp6Hi, .ethPortIp6Lo, .hifUr, .inkEnvelope, .secStatus,
     .secMbCtrl, .secAuth, .secColophon, .secColCkpt, .secColEvents, .secColLost]
  | .sessionLapse | .authEnd .. =>
    [.secStatus, .secAuth, .secColophon, .secColCkpt, .secColEvents, .secColLost]
  | .checkpoint =>
    [.secStatus, .secColCkpt, .secColEvents]
  | .internalScan .. =>
    [.secColEvents]
  | .idleRegionSubstitution .. =>
    [.sysRegionMap, .impMoves, .impSpent, .rcWays, .rcMb, .hifEvtVec, .hifEvtStatus, .rasStatus, .rasSpares,
     .rasCounts, .rasLogCtrl, .rasLog]
  | .readResponse .. =>
    [.impMoves, .impSpent, .impEvents, .rcMb, .rcStats, .ethPortDrops, .ethRoce]

/-- The parts of the state beside the queue and the register file that a command may change. -/
def touchedParts : Instr → List Part
  | .pwrGoodRise | .refclk100mStop | .clockReturn .. =>
    [.pw]
  | .pwrGoodLoss | .clockLoss .. | .resetNAssert =>
    [.pw, .msix, .msixPend, .host, .mem, .poison, .mb, .rcTags, .hbm, .chases, .samples, .groups, .openWaits,
     .engines, .stipple, .marks, .fab, .eth, .ink, .time, .sec, .ras]
  | .refclk100mReturn =>
    [.pw, .msix, .msixPend, .host, .mem, .poison, .mb, .rcTags, .hbm, .chases, .samples, .groups, .openWaits,
     .stipple, .marks, .fab, .eth, .ink, .sec]
  | .bootStart .. =>
    [.freeIdx, .pw, .msixPend, .out, .poison, .hbm, .chases, .fab, .ink, .time, .sec, .ras]
  | .ready .. | .coalesceTimeout .. =>
    [.msixPend, .out, .host]
  | .configRequest .. | .nop .. =>
    [.host]
  | .functionLevelReset | .d3hotReturn =>
    [.msix, .msixPend, .host, .mem, .poison, .mb, .rcTags, .hbm, .chases, .samples, .groups, .openWaits, .stipple,
     .marks, .fab, .eth, .ink, .sec]
  | .bar2Read .. | .scrub .. =>
    [.freeIdx, .msixPend, .out, .mem, .poison, .mb, .hbm, .chases]
  | .bar2Write .. =>
    [.freeIdx, .msixPend, .out, .mem, .poison, .mb, .rcTags, .hbm, .chases]
  | .cxlMemRead .. | .load .. | .setBlank .. | .dataWrite .. | .sample .. =>
    [.freeIdx, .msixPend, .out, .host, .mem, .poison, .mb, .rcTags, .hbm, .chases]
  | .cxlMemWrite .. =>
    [.mem, .poison, .mb, .rcTags, .hbm]
  | .registerWrite .. =>
    [.freeIdx, .msix, .msixPend, .out, .host, .hostMem, .mem, .poison, .mb, .rcTags, .hbm, .chases, .samples,
     .groups, .openWaits, .marks, .fab, .ink, .sec]
  | .doorbell .. | .ticketReread .. | .hifRgEn .. | .ringDisable .. | .hifRgResume .. =>
    [.msixPend, .out, .host, .hostMem]
  | .hifHostPool .. | .hifHostRid .. | .impQuery .. | .mrkXlate .. | .rcWays .. | .rangeDone .. | .otherFrame ..
  | .ethRetrain .. | .throttleStuck =>
    []
  | .hifApertureSync .. =>
    [.freeIdx, .out, .mem, .poison, .mb]
  | .hifDmaFence .. | .timeNs .. | .challenge .. | .getMeasurements .. =>
    [.freeIdx, .out]
  | .dbgMarkSet .. | .markWait .. =>
    [.host, .chases, .marks]
  | .rcWaysApply .. | .clean .. | .invalidate .. | .cleanInvalidate .. | .zero .. | .atomicAdd .. | .minIdx ..
  | .maxIdx .. | .cas .. | .xchg .. =>
    [.out, .host, .mem, .poison, .mb, .rcTags, .hbm, .chases]
  | .readMap .. | .challengeLapse .. | .sessionLapse | .authEnd .. | .checkpoint =>
    [.sec]
  | .forceRepair .. =>
    [.msixPend, .out, .poison, .hbm, .chases, .sec]
  | .testPc .. | .returnPc .. =>
    [.hbm, .sec]
  | .proof .. =>
    [.msixPend, .out, .host, .hostMem, .mem, .poison, .mb]
  | .formeLoad .. =>
    [.freeIdx, .msixPend, .out, .host, .mem, .poison, .mb, .rcTags, .hbm, .chases, .marks]
  | .chaseStart .. =>
    [.freeIdx, .out, .host, .mem, .poison, .mb, .rcTags, .hbm, .chases, .samples, .marks, .fab]
  | .chaseStop .. | .done .. | .stop .. | .ack .. =>
    [.out, .host, .hbm, .chases, .groups, .openWaits, .marks, .fab, .ink]
  | .chaseTeardown .. =>
    [.host, .mem, .poison, .hbm, .chases, .samples, .groups, .openWaits, .marks, .fab, .eth, .ink, .sec]
  | .seal .. | .impHint .. =>
    [.msixPend, .out, .host, .rcTags, .chases]
  | .abort .. =>
    [.msixPend, .out, .host, .rcTags, .hbm, .chases, .fab]
  | .galleySwitch .. =>
    [.out, .host, .mem, .poison, .mb, .hbm, .chases, .fab]
  | .switchCommit .. =>
    [.mem, .poison, .mb, .hbm, .chases]
  | .galleyRead .. | .dataRead .. =>
    [.freeIdx, .msixPend, .out, .host, .hostMem, .mem, .poison, .mb, .rcTags, .hbm, .chases]
  | .markOp .. | .verdict .. | .fault .. | .hold .. | .branch .. | .plateComplete .. | .signal .. | .take ..
  | .fabricSignal .. | .e2eTimeout .. =>
    [.freeIdx, .msixPend, .out, .host, .mem, .poison, .mb, .rcTags, .hbm, .chases, .samples, .groups, .openWaits,
     .marks, .fab, .ink]
  | .qpCreate .. =>
    [.freeIdx, .msixPend, .out, .host, .rcTags, .chases, .eth]
  | .qpDestroy .. | .mrDeregister .. =>
    [.host, .eth]
  | .mrRegister .. =>
    [.freeIdx, .host, .eth]
  | .coreJob .. =>
    [.freeIdx, .out, .host, .rcTags, .chases, .eth]
  | .lockUp .. =>
    [.freeIdx, .upNs, .msixPend, .out, .host, .hostMem, .mem, .poison, .mb, .rcTags, .hbm, .chases, .samples,
     .groups, .openWaits, .stipple, .marks, .fab, .ink, .time, .ras]
  | .lockupBudgetEnd .. | .slip .. | .verdictTimeout .. =>
    [.freeIdx, .upNs, .msixPend, .out, .host, .mem, .poison, .mb, .rcTags, .hbm, .chases, .samples, .groups,
     .openWaits, .marks, .fab, .ink, .time]
  | .lateRun .. =>
    [.upNs, .chases, .time]
  | .join .. =>
    [.freeIdx, .out, .host, .mem, .poison, .mb, .rcTags, .hbm, .chases, .samples, .fab]
  | .joinTimeout .. =>
    [.freeIdx, .upNs, .out, .host, .mem, .poison, .mb, .rcTags, .hbm, .chases, .samples, .time]
  | .start .. | .switchReq .. | .summary .. | .summaryResult .. =>
    [.out, .chases, .fab]
  | .gather .. | .split .. | .serve .. | .combine .. | .scatter .. | .dense .. | .sparse .. | .aggregate ..
  | .frontier .. | .reduce .. | .exchange .. | .publish .. | .switch .. | .stateAbort .. | .feed ..
  | .seqWatchdog .. =>
    [.freeIdx, .msixPend, .out, .host, .mem, .poison, .mb, .rcTags, .hbm, .chases, .samples, .groups, .openWaits,
     .stipple, .marks, .fab, .ink, .ras]
  | .tint .. =>
    [.freeIdx, .msixPend, .out, .host, .mem, .poison, .mb, .rcTags, .hbm, .chases, .samples, .groups, .openWaits,
     .engines, .stipple, .marks, .fab, .ink, .ras]
  | .openZero .. | .openLoad .. =>
    [.groups, .openWaits]
  | .addWide .. =>
    [.groups]
  | .close .. =>
    [.freeIdx, .out, .host, .mem, .poison, .mb, .rcTags, .hbm, .chases, .groups, .openWaits]
  | .tintNop .. | .add .. | .sub .. | .mul .. | .mulh .. | .mulhu .. | .shl .. | .shr .. | .sra .. | .min ..
  | .max .. | .abs .. | .cmpeq .. | .cmplt .. | .cmpltu .. | .cmple .. | .sel .. | .clamp .. | .req .. | .lut ..
  | .rcp .. | .exp2 .. | .perm .. | .add192 .. | .movi .. =>
    [.engines]
  | .waitLend .. | .inkBaseSample .. | .powerClamp .. =>
    [.chases]
  | .deadlockReport .. | .hbmTemp .. =>
    [.msixPend, .out]
  | .mbDrain .. =>
    [.mem, .poison, .mb]
  | .stackOffline .. =>
    [.msixPend, .out, .poison, .hbm, .chases]
  | .lossOfSignal .. | .trainingComplete .. | .helloTimeout .. =>
    [.msixPend, .out, .fab, .time]
  | .signalPresent .. | .trainingRetry .. | .lsrExpiry .. =>
    [.fab]
  | .hello .. | .helloTick | .lsr .. | .lsrRefresh | .routeBuild | .flit .. | .timeTick .. =>
    [.out, .fab, .time]
  | .settlement =>
    [.freeIdx, .msixPend, .out, .host, .mem, .poison, .mb, .rcTags, .hbm, .chases, .samples, .groups, .openWaits,
     .marks, .fab, .ink, .time]
  | .ackIdle .. =>
    [.out, .fab]
  | .write .. | .append .. =>
    [.freeIdx, .out, .host, .mem, .poison, .mb, .rcTags, .hbm, .chases, .fab]
  | .time .. =>
    [.freeIdx, .out, .chases, .fab, .time]
  | .send .. | .rdmaWrite .. | .rdmaRead .. | .backInvalidateResponse .. =>
    [.freeIdx, .msixPend, .out, .host, .mem, .poison, .mb, .rcTags, .hbm, .chases, .samples, .groups, .openWaits,
     .marks, .fab, .eth, .ink]
  | .arp .. | .neighbourDiscovery .. | .internalScan .. | .getDigests | .getCertificate .. | .boundaryScan .. =>
    [.out]
  | .cnp .. | .roceAckTimeout .. | .roceAcknowledgement .. =>
    [.out, .eth]
  | .climbTick .. =>
    [.eth]
  | .throttleFall | .throttleRise =>
    [.ink]
  | .throttleQualify | .throttleRelease =>
    [.chases, .ink]
  | .tempSample .. =>
    [.pw, .msixPend, .out, .chases]
  | .ppsEdge .. =>
    [.freeIdx, .chases, .time]
  | .stormEnd | .ppsTimeout =>
    [.time]
  | .coreRestart .. =>
    [.msixPend, .out, .host, .ras]
  | .spareTest .. =>
    [.msixPend, .out, .hbm, .chases, .ras]
  | .getChallenge .. | .readColophon .. | .getIdentity .. | .setEnvelope .. | .setNodeId .. | .setFabric ..
  | .fwStage .. | .setNetId .. | .debugSession .. | .fenceWrite .. | .enrol .. | .debugUnlock ..
  | .repairAccess .. | .zeroise .. =>
    [.freeIdx, .out, .sec]
  | .getVersion | .getCapabilities | .negotiateAlgorithms =>
    [.out, .sec]
  | .registerRead .. =>
    [.freeIdx, .out, .mem, .poison, .mb, .chases]
  | .idleRegionSubstitution .. =>
    [.msixPend, .out, .host, .mem, .poison, .mb, .rcTags, .hbm, .chases, .ras]
  | .setPointWrite .. =>
    [.freeIdx, .msixPend, .out, .ink]
  | .cxlCacheSnoop .. =>
    [.out, .host]
  | .readResponse .. =>
    [.freeIdx, .out, .host, .mem, .poison, .mb, .rcTags, .hbm, .chases, .eth]

end Sys2Proof.Machine
end

