-- ==== Sys2Proof/Certificates/Slice0/Obligations.lean ====
section
/-! DEFINITION. The statements for the provers. Each says what a command does to the state, in terms of the registers and
records that the spec names; the hypotheses speak of the state and the operands alone. -/

namespace Sys2Proof.Machine

/-- A host request reaches the device: the PCIe link answers and the requester is in the host set (R654, R655). -/
def State.hears (s : State) (rid : Nat) : Prop := s.busUp = true ∧ s.inHostSet rid = true

/-- The requester is heard and every register of BAR0 answers (R654, R834, R839). -/
def State.serves (s : State) (rid : Nat) : Prop := s.hears rid ∧ s.windowUp = true

/-- The device answers with the bytes of a completed read. -/
def State.answers (t s : State) (b : Bytes) : Prop := t.out = .readData b false :: s.out

/-- A begun ticket of an opcode is at its turn and passes every check that stands before its work (R671, R675 to
R678); not having acted, it waits on no mark, and a galley ticket not for a slot in VALIDATING (R332). -/
structure State.atTurn (s : State) (ring seq op : Nat) (x : Ticket) : Prop where
  up : s.isReady = true
  begun : s.ticket? ring seq = some x
  fresh : x.acted = false ∧ x.done = false
  opcode : tkOpcode x.raw = op
  order : isChaseTicket op = true → s.chaseOrderOk x = true
  passes : s.ticketCheck ring x.raw = none
  unmarked : ∀ n f, MarkWait.ticket ring seq f ∉ (s.mark n).waits
  served : s.galleyWaits x = false

/-- The outcome of a ticket is fixed: its proof will carry this status and detail (R684, R685). -/
def State.ticketEnds (s : State) (ring seq status : Nat) (detail : Bytes) : Prop :=
  ∃ x, s.ticket? ring seq = some x ∧ x.done = true ∧ x.status = status ∧ x.detail = detail

end Sys2Proof.Machine

open Sys2Proof Sys2Proof.Machine

/-! ### The block: its queue, its invariant, its frames -/

/-- A step at a state whose queue has the command c at its front is exec of c at the state with the queue's rest. -/
def Obligations.StepRunsFrontCommand : Prop :=
  ∀ (c : Instr) (s : State) (rest : List Instr), s.pending = c :: rest → step s = exec c { s with pending := rest }

/-- On an empty queue a step answers a next state in which the uptime has counted one nanosecond, the time counter has
advanced by 1 ns at its corrected rate while PWR_GOOD is high and SYSCLK_25M runs and stands otherwise, a mailbox command
that ran has ended, and a chase with a step of the counter to adopt at its next boundary may have adopted it; nothing else
has changed. That an empty queue lets a nanosecond pass, what the rate is off by, and when a mailbox command ends are the
model's choices (assumption log 10, 80, 11). (R730) -/
def Obligations.EmptyQueueLetsNanosecondPass : Prop :=
  ∀ s : State, s.canonical = true → s.pending = [] →
    ∃ t, step s = .next t ∧ t.upNs = s.upNs + 1 ∧ t.flag Fld.secMbBusy 0 = false ∧
      (s.pw.pwrGood = true ∧ s.pw.sysclk = true →
        t.rd .timeNs 0 =
          (s.rd .timeNs 0 * 10 ^ 8 + s.time.sub + (10 ^ 8 + sextNat 16 (s.getF Fld.timeRate 0) - s.time.freq).toNat) / 10 ^ 8 % 2 ^ 64) ∧
      (¬(s.pw.pwrGood = true ∧ s.pw.sysclk = true) → t.rd .timeNs 0 = s.rd .timeNs 0 ∧ t.time = s.time) ∧
      ((∀ x ∈ s.chases, x.pendingStep = none) → State.SameBut [.timeNs, .secMbCtrl] [.upNs, .time] s t) ∧
      State.SameBut [.timeNs, .secMbCtrl, .stkSlips, .stkStatus] [.upNs, .time, .chases] s t

/-- In the state after reset every register reads its reset value in every instance, every chase slot is EMPTY and holds
no forme, every byte of memory and of the mailbox buffer reads zero and none is poisoned, no ticket has begun, the
host set holds nobody, no requester is heard and the queue is empty. (R834, R21) -/
def Obligations.ResetLeavesResetValues : Prop :=
  (∀ (r : RegName) (i : Nat), State.reset.rd r i = r.resetWord) ∧
  (∀ c, c < 16 → State.reset.cs c = csEmpty ∧ State.reset.forme c = []) ∧
  (∀ a, State.reset.sliceByte a = 0 ∧ State.reset.poisonAt a = false ∧ memGet State.reset.sec.buf a = 0) ∧
  (∀ ring seq, State.reset.ticket? ring seq = none) ∧ (∀ rid, ¬State.reset.hears rid) ∧ State.reset.pending = []

/-- The state after reset is in canonical form, and every waiting command of it is one that a sender can spell. -/
def Obligations.InvariantHoldsAtReset : Prop :=
  State.reset.Inv

/-- From every state that meets the invariant, whatever command stands in front or if none does, a step that answers a
next state answers one that meets it: memory, host memory and the mailbox buffer list nonzero bytes at rising
addresses, the register file lists at rising offsets words of registers that differ from their reset words, the 16
chase slots stand, the merging buffers hold bytes of distinct lines at rising offsets, and the queue holds only
commands that a sender can spell. -/
def Obligations.EveryStepKeepsInvariant : Prop :=
  ∀ s t : State, s.Inv → step s = .next t → t.Inv

/-- For every command c and every state in canonical form, a next state that exec answers has the same queue; every
register outside touchedRegs c reads as before in every instance; every part of the state outside touchedParts c
(memory, host memory, merging buffers, poison, chases, marks, groups, engines, fabric, Ethernet, power, time,
security, reliability and the others) is as before. -/
def Obligations.CommandsTouchOnlyTheirState : Prop :=
  ∀ (c : Instr) (s t : State), s.canonical = true → exec c s = .next t → State.SameBut (touchedRegs c) (touchedParts c) s t

/-! ### Power, clocks, reset and start-up (chapter 17) -/

/-- What a COLD or WARM reset of `s` leaves: the device held in reset, its memories and tables empty, what the eMMC and the
host's memory hold as it was but for an entry in the colophon for each kind of authorisation in force. -/
def Sys2Proof.Machine.State.emptiedFrom (t s : State) : Prop :=
  t.pw.held = true ∧ t.pw.pcieUp = false ∧ t.mem = [] ∧ t.poison = [] ∧ t.mb = [] ∧
    t.chases = List.replicate 16 ChaseSt.empty ∧ t.host.tickets = [] ∧ t.host.rings = [] ∧ t.host.hostSet = [] ∧
    t.samples = [] ∧ t.groups = [] ∧ t.marks = [] ∧ t.eth.qps = [] ∧ t.sec.auths = [] ∧
    t.sec.bootSvn = 0 ∧ t.sec.fencePending = s.sec.fencePending ∧ t.hostMem = s.hostMem ∧
    (s.sec.auths = [] → t.sec.colophon = s.sec.colophon) ∧
    (s.sec.colophon.length + 3 ≤ 2 ^ 20 → t.sec.colophon.length = s.sec.colophon.length +
      ((List.range 4).filter fun k => k != 0 && s.sec.auths.any fun a => a.kind == k).length)

/-- A loss of PWR_GOOD or of a clock (COLD) returns every register to its reset value. A low RESET_N (WARM) returns every
register of the WARM, FUNC and CHASE domains to it. A Function Level Reset, a return from D3hot and the return of
REFCLK_100M (FUNC) return every register of the FUNC and CHASE domains to it. A teardown of slot c (CHASE) returns the
CHASE-domain registers of slot c to it. (R21) -/
def Obligations.ResetDomainsReturnToResetValues : Prop :=
  (∀ s : State, s.canonical = true → s.pw.pwrGood = true →
    (∃ t, exec .pwrGoodLoss s = .next t ∧ ∀ r i, i < RegInfo.count r.info → t.rd r i = r.resetWord) ∧
    (∀ b, ∃ t, exec (.clockLoss b) s = .next t ∧ ∀ r i, i < RegInfo.count r.info → t.rd r i = r.resetWord) ∧
    (∃ t, exec .resetNAssert s = .next t ∧ ∀ r i, i < RegInfo.count r.info → r.info.dom ≠ .cold → t.rd r i = r.resetWord)) ∧
  (∀ s : State, s.canonical = true → s.busUp = true →
    (∃ t, exec .functionLevelReset s = .next t ∧
      ∀ r i, i < RegInfo.count r.info → r.info.dom = .func ∨ r.info.dom = .chase → t.rd r i = r.resetWord) ∧
    (∃ t, exec .d3hotReturn s = .next t ∧
      ∀ r i, i < RegInfo.count r.info → r.info.dom = .func ∨ r.info.dom = .chase → t.rd r i = r.resetWord)) ∧
  (∀ s : State, s.canonical = true → s.live = true → s.pw.refclk100 = false →
    ∃ t, exec .refclk100mReturn s = .next t ∧
      ∀ r i, i < RegInfo.count r.info → r.info.dom = .func ∨ r.info.dom = .chase → t.rd r i = r.resetWord) ∧
  (∀ (s : State) (ring seq : Nat) (x : Ticket), s.canonical = true → s.atTurn ring seq 0x04 x →
    s.cs (tkSlot x.raw) = csLoaded ∨ s.cs (tkSlot x.raw) = csFaulted →
    ∃ t, exec (.chaseTeardown ring seq) s = .next t ∧
      ∀ r, r.info.dom = .chase → tkSlot x.raw < RegInfo.count r.info → t.rd r (tkSlot x.raw) = r.resetWord)

/-- A loss of PWR_GOOD, a loss of SYSCLK_25M or REFCLK_156M25, and a low RESET_N each leave the device held in reset with
the PCIe link down, PWR_GOOD, the clock or RESET_N low as the pin says; memory and the merging buffers empty; every
chase slot empty; no ticket, ring, host-set entry, sample, group, mark, queue pair or authorisation, and no image
booted. A pending fence record and the colophon stay where they are stored; the reset ends each authorisation in force with
an entry in a colophon that has room, and a WARM reset leaves the time counter as it was. (R826, R829, R830, R832,
R855, R760) -/
def Obligations.HardResetEmptiesBlock : Prop :=
  ∀ s : State, s.canonical = true → s.pw.pwrGood = true →
    (∃ t, exec .pwrGoodLoss s = .next t ∧ t.emptiedFrom s ∧ t.pw.pwrGood = false ∧ t.pw.tripped = false) ∧
    (∃ t, exec (.clockLoss true) s = .next t ∧ t.emptiedFrom s ∧ t.pw.sysclk = false) ∧
    (∃ t, exec (.clockLoss false) s = .next t ∧ t.emptiedFrom s ∧ t.pw.refclk156 = false) ∧
    (∃ t, exec .resetNAssert s = .next t ∧ t.emptiedFrom s ∧ t.pw.resetN = false ∧ t.rd .timeNs 0 = s.rd .timeNs 0)

/-- PWR_GOOD rising holds the device in reset; a clock that returns is there again; REFCLK_100M stopping takes the PCIe
link down; REFCLK_100M returning to a device that is out of reset brings the link up, and to one that is not only
restores the clock. But for the last of a device out of reset, no register and no part of the state beside the power
state changes. (R829, R855, R856) -/
def Obligations.PinsChangePowerStateAlone : Prop :=
  (∀ s : State, s.canonical = true → s.pw.pwrGood = false →
    ∃ t, exec .pwrGoodRise s = .next t ∧ t.pw = { s.pw with pwrGood := true, held := true } ∧ State.SameBut [] [.pw] s t) ∧
  (∀ s : State, s.canonical = true →
    (∃ t, exec (.clockReturn true) s = .next t ∧ t.pw = { s.pw with sysclk := true } ∧ State.SameBut [] [.pw] s t) ∧
    (∃ t, exec (.clockReturn false) s = .next t ∧ t.pw = { s.pw with refclk156 := true } ∧ State.SameBut [] [.pw] s t) ∧
    (∃ t, exec .refclk100mStop s = .next t ∧ t.pw = { s.pw with refclk100 := false, pcieUp := false } ∧
      State.SameBut [] [.pw] s t)) ∧
  (∀ s : State, s.canonical = true → s.pw.refclk100 = false →
    ∃ t, exec .refclk100mReturn s = .next t ∧ t.pw.refclk100 = true ∧ (s.live = true → t.pw.pcieUp = true) ∧
      (s.live = false → t.pw.pcieUp = s.pw.pcieUp ∧ State.SameBut [] [.pw] s t))

/-- A Function Level Reset or hot reset and a return from D3hot leave no requester in the host set, no ring, no ticket, an
MSI-X table as after reset with no bit pending, and every chase slot empty; the boot stage, the power state, the
record of spares and failures and the time counter stay, so the boot chain does not run again. (R831, R650, R654,
R698) -/
def Obligations.FunctionResetClosesHostSide : Prop :=
  ∀ s : State, s.canonical = true → s.busUp = true → ∀ c, c = Instr.functionLevelReset ∨ c = Instr.d3hotReturn →
    ∃ t, exec c s = .next t ∧ (∀ rid, t.inHostSet rid = false) ∧ t.host.rings = [] ∧ t.host.tickets = [] ∧ t.msix = [] ∧
      t.msixPend = [] ∧ t.chases = List.replicate 16 ChaseSt.empty ∧ (∀ k, k < 16 → t.cs k = csEmpty) ∧ t.stage = s.stage ∧
      t.pw = s.pw ∧ t.ras = s.ras ∧ t.time = s.time

/-- Boot start of a held device with power and clocks, in which no image has booted since the reset, releases the reset,
samples BOOT_SEL and PCIE_X8, and brings the PCIe link up where REFCLK_100M runs. A failed self-test, maker list or
configuration record, or two firmware slots that both fail, leave stage HALTED with the failing step in SEC_BOOT_CODE
(1, 2, 3, 7). With BOOT_SEL 0b10 and the first three steps passed the stage is RECOVERY. Otherwise a primary image
that verifies, with a security version no lower than the minimum, leads to stage BRING_UP when BOOT_SEL does not name
the secondary slot alone, and a secondary image does when it names it. (R829, R833, R834, R835, R839, R768, R769) -/
def Obligations.BootChainReachesStage : Prop :=
  ∀ (f : BootFinds) (s : State), s.canonical = true →
    s.pw.pwrGood = true → s.pw.sysclk = true → s.pw.refclk156 = true → s.pw.held = true → s.pw.tripped = false → s.sec.bootSvn = 0 →
    ∃ t, exec (.bootStart f) s = .next t ∧ t.pw.held = false ∧ t.pw.resetN = true ∧ t.pw.bootSel = f.bootSel % 4 ∧
      t.pw.pcieX8 = f.x8 ∧ t.pw.pcieUp = s.pw.refclk100 ∧
      (f.selfTest = false → t.stage = stageHalted ∧ t.getF Fld.secBootCode 0 = 1) ∧
      (f.selfTest = true → f.makerList = false → t.stage = stageHalted ∧ t.getF Fld.secBootCode 0 = 2) ∧
      (f.selfTest = true → f.makerList = true → f.config = false → t.stage = stageHalted ∧ t.getF Fld.secBootCode 0 = 3) ∧
      (f.selfTest = true → f.makerList = true → f.config = true → f.bootSel % 4 = 2 → t.stage = stageRecovery) ∧
      (f.selfTest = true → f.makerList = true → f.config = true → f.bootSel % 4 ≠ 2 → f.primary = false → f.secondary = false →
        t.stage = stageHalted ∧ t.getF Fld.secBootCode 0 = 7) ∧
      (f.selfTest = true → f.makerList = true → f.config = true → f.bootSel % 4 = 0 ∨ f.bootSel % 4 = 3 → f.primary = true →
        s.sec.minSvn ≤ f.version → t.stage = stageBringUp ∧ t.sec.bootSvn = f.version) ∧
      (f.selfTest = true → f.makerList = true → f.config = true → f.bootSel % 4 = 1 → f.secondary = true →
        s.sec.minSvn ≤ f.version2 → t.stage = stageBringUp ∧ t.sec.bootSvn = f.version2)

/-- From BRING_UP, when the fabric and time conditions are met or 44 s have passed, the device enters stage READY;
SYS_RDY_NO_FABRIC is set exactly where the fabric condition is not met, SYS_RDY_NO_TIME exactly where TIME_STATE is
neither LOCKED_PPS nor LOCKED_LINK, and SYS_BOOT_MS shows the milliseconds since boot start, holding at all ones. In
BRING_UP with a condition not met and time left nothing changes. (R834, R837, R838) -/
def Obligations.ReadyIsEnteredWithItsFlags : Prop :=
  ∀ (late : Bool) (s : State), s.canonical = true → s.live = true → s.stage = stageBringUp →
    ((late || (s.fabricOk && s.timeOk)) = true →
      ∃ t, exec (.ready late) s = .next t ∧ t.stage = stageReady ∧ t.isReady = true ∧
        (t.flag Fld.sysRdyNoFabric 0 = !s.fabricOk) ∧
        (t.flag Fld.sysRdyNoTime 0 = !(s.getF Fld.timeState 0 == 2 || s.getF Fld.timeState 0 == 3)) ∧
        t.getF Fld.sysBootMs 0 = min ((s.upNs - s.pw.bootNs) / 1000000) (2 ^ 32 - 1)) ∧
    ((late || (s.fabricOk && s.timeOk)) = false → exec (.ready late) s = .next s)

/-! ### The host interface (chapter 13) -/

/-- The host commands: the requester, and whether the request is a read, which a completion answers. -/
def Sys2Proof.Instr.hostAccess : Instr → Option (Nat × Bool)
  | .bar2Read rid _ _ | .cxlMemRead rid _ _ _ | .registerRead rid _ _ | .hifApertureSync rid | .hifDmaFence rid | .timeNs rid =>
    some (rid, true)
  | .bar2Write rid _ _ | .cxlMemWrite rid _ _ _ | .registerWrite rid _ _ _ | .doorbell rid _ _ _ | .hifRgEn rid _ _
  | .ringDisable rid _ _ | .hifRgResume rid _ _ | .hifHostPool rid _ | .hifHostRid rid _ | .impQuery rid _ | .mrkXlate rid _
  | .dbgMarkSet rid _ | .rcWays rid _ _ | .clean rid _ _ _ | .invalidate rid _ _ _ | .cleanInvalidate rid _ _ _ | .zero rid _ _ _
  | .readMap rid _ _ _ _ | .forceRepair rid _ _ _ _ | .testPc rid _ _ _ _ _ | .returnPc rid _ _ _ _ | .signal rid _ _
  | .take rid _ _ | .getChallenge (some rid) _ _ | .readColophon (some rid) _ _ | .getIdentity (some rid) _ _
  | .setEnvelope (some rid) _ _ | .setNodeId (some rid) _ _ | .setFabric (some rid) _ _ | .fwStage (some rid) _ _
  | .setNetId (some rid) _ _ | .debugSession (some rid) _ _ | .fenceWrite (some rid) _ _ | .enrol (some rid) _ _
  | .debugUnlock (some rid) _ _ | .repairAccess (some rid) _ _ | .zeroise (some rid) _ _ => some (rid, false)
  | _ => none

/-- What the host stores in its own memory along with a command. -/
def Sys2Proof.Instr.ownStores : Instr → List (Nat × Byte)
  | .doorbell _ _ _ l | .hifRgResume _ _ l => l
  | _ => []

/-- The registers whose writes act in other ways than by taking their fields. -/
def Sys2Proof.Machine.RegName.acts : RegName → Bool
  | .hifRingDb | .mrkSignal | .mrkXlate | .dbgMarkSet | .hbmMaint | .rcWays | .rcRangeCtrl | .impQuery | .hifRingCtrl
  | .hifRingPhead | .hifCtrl | .hifHostPool | .secMbCtrl | .inkThrottle | .inkThermal | .mrkDlCfg | .hlkTime => true
  | _ => false

/-- What a write of the bits [a + n − 1 : a] of a register that held `old` leaves in a field: `x` are the field's bits of the
merged word. -/
def Sys2Proof.Machine.FieldSpec.after (f : FieldSpec) (old x a n : Nat) : Nat :=
  if f.hi < a ∨ a + n ≤ f.lo then bitsOf old f.hi f.lo
  else match f.acc with
    | .rw => if f.vmin ≤ x ∧ x ≤ f.vmax then x else bitsOf old f.hi f.lo
    | .w1c => if x = 1 then 0 else bitsOf old f.hi f.lo
    | .w1s => if x = 1 then 1 else bitsOf old f.hi f.lo
    | _ => bitsOf old f.hi f.lo

/-- For every host command, while the PCIe link is up, from a requester outside the host set: the command answers a next
state in which HIF_UR_PEER has counted one, holding at all ones; a read has completed as Unsupported Request and a
write has no completion; and nothing else of the device has changed. What the host stores in its own memory along with
the command stands there. (R655) -/
def Obligations.OutsideHostRequestsOnlyCount : Prop :=
  ∀ (c : Instr) (s : State) (rid : Nat) (read : Bool), s.canonical = true → c.wf = true → c.hostAccess = some (rid, read) →
    s.busUp = true → s.inHostSet rid = false →
    ∃ t, exec c s = .next t ∧ t.getF Fld.hifUrPeer 0 = min (s.getF Fld.hifUrPeer 0 + 1) (2 ^ 32 - 1) ∧
      t.getF Fld.hifUrOther 0 = s.getF Fld.hifUrOther 0 ∧ t.out = (if read then .unsupported :: s.out else s.out) ∧
      t.hostMem = (s.hostStores c.ownStores).hostMem ∧ State.SameBut [.hifUr] [.out, .hostMem] s t

/-- A Configuration Request puts its requester, and nobody else, into the host set, and sets the CXL enables that it names
in HIF_STATUS. A write of HIF_HOST_RID by a requester in the set stores the three requester IDs and their valid bits;
the host set is then the requesters of Configuration Requests and the IDs whose valid bit is 1. (R654) -/
def Obligations.HostSetGrowsByConfigurationAndRegister : Prop :=
  (∀ (rid : Nat) (a b : Option Bool) (s : State), s.canonical = true → s.busUp = true → rid < 2 ^ 16 →
    ∃ t, exec (.configRequest rid a b) s = .next t ∧ (∀ r, t.inHostSet r = (r == rid || s.inHostSet r)) ∧
      t.flag Fld.hifCxlMem 0 = a.getD (s.flag Fld.hifCxlMem 0) ∧ t.flag Fld.hifCxlCache 0 = b.getD (s.flag Fld.hifCxlCache 0) ∧
      State.SameBut [.hifStatus] [.host] s t) ∧
  (∀ (rid value : Nat) (s : State), s.canonical = true → s.serves rid →
    ∃ t, exec (.hifHostRid rid value) s = .next t ∧ State.SameBut [.hifHostRid] [] s t ∧
      ∀ r, t.inHostSet r = (s.host.hostSet.contains r ||
        (List.range 3).any fun k => value.testBit (48 + k) && value / 2 ^ (16 * k) % 2 ^ 16 == r))

/-- A write of HIF_HOST_POOL while every chase slot is EMPTY that names no more than 768 GiB stores the base and the
length, and clears HIF_POOL_REFUSED where it writes 1 to it. A write while a slot is not EMPTY, or one that names more
than 768 GiB, changes neither and sets HIF_POOL_REFUSED. (R659) -/
def Obligations.HostPoolTakesOnlyLegalRange : Prop :=
  ∀ (rid value : Nat) (s : State), s.canonical = true → s.serves rid →
    ∃ t, exec (.hifHostPool rid value) s = .next t ∧ State.SameBut [.hifHostPool] [] s t ∧
      ((∀ c, c < 16 → s.cs c = csEmpty) → value % 2 ^ 10 + value / 2 ^ 32 % 2 ^ 10 ≤ 768 →
        t.getF Fld.hifPoolBaseGib 0 = value % 2 ^ 10 ∧ t.getF Fld.hifPoolLenGib 0 = value / 2 ^ 32 % 2 ^ 10 ∧
          t.getF Fld.hifPoolRefused 0 = if value.testBit 63 then 0 else s.getF Fld.hifPoolRefused 0) ∧
      ((∃ c, c < 16 ∧ s.cs c ≠ csEmpty) ∨ 768 < value % 2 ^ 10 + value / 2 ^ 32 % 2 ^ 10 →
        t.getF Fld.hifPoolBaseGib 0 = s.getF Fld.hifPoolBaseGib 0 ∧ t.getF Fld.hifPoolLenGib 0 = s.getF Fld.hifPoolLenGib 0 ∧
          t.getF Fld.hifPoolRefused 0 = 1)

/-- A naturally aligned 32-bit or 64-bit host write of a register that acts in no other way answers a next state in which
every field of the register that the write reaches is as its access code says: an RW field takes the bits written
where they lie in its legal range and stays otherwise, a W1C field that the write covers clears where 1 is written, a
W1S field sets where 1 is written, and read-only fields stay; fields outside the written half stay; no other register
and no other part of the state changes. A write that is not naturally aligned or not 4 or 8 bytes wide is discarded
and counted in HIF_UR_OTHER. (R11, R12, R13, R15, R652, R654) -/
def Obligations.RegisterWriteTakesFields : Prop :=
  (∀ (rid off width value : Nat) (s : State) (r : RegName) (i : Nat), s.canonical = true → s.serves rid → value < 2 ^ (8 * width) →
    width = 4 ∨ width = 8 → off % width = 0 → off / 8 * 8 = r.addr i → i < RegInfo.count r.info → r.acts = false →
    ∃ t, exec (.registerWrite rid off width value) s = .next t ∧ State.SameBut [r] [] s t ∧
      (∀ j, j < RegInfo.count r.info → j ≠ i → t.rd r j = s.rd r j) ∧
      ∀ f ∈ r.fields, bitsOf (t.rd r i) f.hi f.lo =
        f.after (s.rd r i) (bitsOf (setBits (s.rd r i) (8 * (off % 8) + 8 * width - 1) (8 * (off % 8)) value) f.hi f.lo)
          (8 * (off % 8)) (8 * width)) ∧
  (∀ (rid off width value : Nat) (s : State), s.canonical = true → s.hears rid → (width ≠ 4 ∧ width ≠ 8) ∨ off % width ≠ 0 →
    ∃ t, exec (.registerWrite rid off width value) s = .next t ∧ State.SameBut [.hifUr] [] s t ∧
      t.getF Fld.hifUrOther 0 = min (s.getF Fld.hifUrOther 0 + 1) (2 ^ 32 - 1) ∧ t.getF Fld.hifUrPeer 0 = s.getF Fld.hifUrPeer 0)

/-- A naturally aligned 32-bit or 64-bit host read of a register, HIF_APERTURE_SYNC, HIF_DMA_FENCE, TIME_NS and the
registers of the selected galley aside, answers the bytes of the word that the register shows; it clears the RC fields
that lie whole in what it reads, leaves every other field and register, and changes no other part of the state. A
64-bit read of TIME_NS answers the counter, a 32-bit read half of it, and either latches its fraction into TIME_FRAC. A read of a reserved offset
answers zeros. A read that is not naturally aligned or not 4 or 8 bytes wide completes as Unsupported Request and is
counted in HIF_UR_OTHER. (R11, R12, R15, R871, R652, R731) -/
def Obligations.RegisterReadAnswersAndClears : Prop :=
  (∀ (rid off width : Nat) (s : State) (r : RegName) (i : Nat), s.canonical = true → s.serves rid →
    width = 4 ∨ width = 8 → off % width = 0 → off / 8 * 8 = r.addr i → i < RegInfo.count r.info →
    r ≠ .hifApertureSync → r ≠ .hifDmaFence → r ≠ .timeNs → isGal r = false →
    ∃ t, exec (.registerRead rid off width) s = .next t ∧ t.answers s (slice (natLe 8 (s.viewWord r i)) (off % 8) width) ∧
      State.SameBut [r] [.out] s t ∧ (∀ j, j < RegInfo.count r.info → j ≠ i → t.rd r j = s.rd r j) ∧
      ∀ f ∈ r.fields, bitsOf (t.rd r i) f.hi f.lo =
        if f.acc = Access.rc ∧ 8 * (off % 8) ≤ f.lo ∧ f.hi < 8 * (off % 8) + 8 * width then 0 else bitsOf (s.rd r i) f.hi f.lo) ∧
  (∀ (rid : Nat) (s : State), s.canonical = true → s.serves rid →
    (∃ t, exec (.timeNs rid) s = .next t ∧ t.answers s (natLe 8 (s.rd .timeNs 0)) ∧ t.getF Fld.timeFrac 0 = s.fracFine % 2 ^ 16 ∧
      State.SameBut [.timeFrac] [.out] s t ∧ exec (.registerRead rid 0x0280000 8) s = .next t) ∧
    ∀ off, off = 0x0280000 ∨ off = 0x0280004 →
      ∃ t, exec (.registerRead rid off 4) s = .next t ∧ t.answers s (slice (natLe 8 (s.rd .timeNs 0)) (off % 8) 4) ∧
        t.getF Fld.timeFrac 0 = s.fracFine % 2 ^ 16 ∧ State.SameBut [.timeFrac] [.out] s t) ∧
  (∀ (rid off width : Nat) (s : State), s.canonical = true → s.serves rid → off < 0x4000000 →
    width = 4 ∨ width = 8 → off % width = 0 → findReg (off / 8 * 8) = none →
    inBuffer off = false → inMsix off = false → inPba off = false →
    ∃ t, exec (.registerRead rid off width) s = .next t ∧ t.answers s (List.replicate width 0) ∧ State.SameBut [] [.out] s t) ∧
  (∀ (rid off width : Nat) (s : State), s.canonical = true → s.hears rid → (width ≠ 4 ∧ width ≠ 8) ∨ off % width ≠ 0 →
    ∃ t, exec (.registerRead rid off width) s = .next t ∧ t.out = .unsupported :: s.out ∧ State.SameBut [.hifUr] [.out] s t ∧
      t.getF Fld.hifUrOther 0 = min (s.getF Fld.hifUrOther 0 + 1) (2 ^ 32 - 1))

/-- A read of HIF_APERTURE_SYNC answers the register, in which HIF_AP_DRAINED is the number of entries that stood in the
merging buffers, holding at all ones; at its completion no entry is left and DRAM holds, at every HBM location, the
byte that the slices showed before. A BAR2 read of a stack, of places that are online, then answers those bytes. (R658) -/
def Obligations.ApertureSyncDrainsAllBuffers : Prop :=
  ∀ (rid : Nat) (s : State), s.canonical = true → s.serves rid →
    ∃ t, exec (.hifApertureSync rid) s = .next t ∧ t.answers s (natLe 8 (t.rd .hifApertureSync 0)) ∧
      t.getF Fld.hifApDrained 0 = min s.mb.length (2 ^ 32 - 1) ∧ t.mb = [] ∧
      (∀ h, h < hbmTop → memGet t.mem h = s.sliceByte h ∧ t.sliceByte h = s.sliceByte h) ∧
      ∀ off len, off + len ≤ stackBytes → s.getF Fld.hifApStack 0 < 12 →
        (∀ k, k = 0 ∨ k < len → s.haOffline (s.getF Fld.hifApStack 0 * stackBytes + off + k) = false) →
        ∃ u p, exec (.bar2Read rid off ⟨len, []⟩) t = .next u ∧ u.out = .readData ((List.range len).map fun k =>
          s.sliceByte (s.getF Fld.hifApStack 0 * stackBytes + off + k)) p :: t.out

/-- A read of HIF_DMA_FENCE answers zero waited accesses: every host-memory access of an earlier command has completed
when its command has. Nothing else changes. That no access stays in flight between commands is the model's. (R663) -/
def Obligations.DmaFenceAnswersAtOnce : Prop :=
  ∀ (rid : Nat) (s : State), s.canonical = true → s.serves rid →
    ∃ t, exec (.hifDmaFence rid) s = .next t ∧ t.answers s (natLe 8 0) ∧ t.getF Fld.hifDmaWaited 0 = 0 ∧
      State.SameBut [.hifDmaFence] [.out] s t

/-- What a BAR2 run of `n` bytes at an offset reaches: the HBM address of its byte `k` (R657). -/
def Sys2Proof.Machine.State.apertureAt (s : State) (off k : Nat) : Nat := s.getF Fld.hifApStack 0 * stackBytes + off + k

/-- A BAR2 read of a run within a stack answers as many bytes as it asked for. Where every byte of it is online they are what
DRAM holds, marked poisoned where a sector of it is or its transfer has failed for good, and no byte changes. A run that
touches an offline place counts in HIF_UR_OTHER and is marked poisoned. A BAR2 write leaves the bytes written visible through
the slices where their places are online and every other HBM byte as it was; one that touches an offline place counts in
HIF_UR_OTHER. A CXL.mem write of an online line while CXL.mem is enabled leaves its bytes visible in the same way; one whose
four retries fail leaves its sectors poisoned. A CXL.mem read of an online line answers the 64 bytes that the slices show
where no symbol is in error, or one; where one is it counts in HBM_CE; where two are it counts in HBM_UE and the line reads
poisoned; where the command has failed past its four retries the line reads poisoned. A CXL.mem read of an offline line counts in HIF_UR_OTHER and
returns poisoned data; one while CXL.mem is not enabled completes as Unsupported Request. A CXL.mem write in either case
counts in HIF_UR_OTHER and writes nothing. A BAR2 access beyond 64 GiB and a CXL.mem access beyond 768 GiB or over the end
of a line have no place to go and stop. (R649, R656, R657, R477, R507, R509, R510, R511) -/
def Obligations.ApertureAndCxlReachMemory : Prop :=
  (∀ (rid off : Nat) (run : BarRun) (s : State), s.canonical = true → s.hears rid → off + run.len ≤ stackBytes →
    ∃ t d p, exec (.bar2Read rid off run) s = .next t ∧ t.out = .readData d p :: (s.xfersStart run.hbm).out ∧ d.length = run.len ∧
      ((∀ k, k = 0 ∨ k < run.len → (s.xfersStart run.hbm).haOffline (s.apertureAt off k) = false) →
        d = memGetRun (s.xfersStart run.hbm).mem (s.apertureAt off 0) run.len ∧
        (p = true ↔ ∃ k, k < run.len + s.apertureAt off 0 % 32 ∧
          (s.apertureAt off 0 / 32 + k / 32 ∈ (s.xfersStart run.hbm).poison ∨
            s.apertureAt off 0 / 32 + k / 32 ∈ (s.xfersStart run.hbm).hbm.badReads)) ∧
        (run.hbm = [] → State.SameBut [] [.out] s t)) ∧
      ((∃ k, k < run.len ∧ (s.xfersStart run.hbm).haOffline (s.apertureAt off k) = true) →
        p = true ∧ t.getF Fld.hifUrOther 0 = min (s.getF Fld.hifUrOther 0 + 1) (2 ^ 32 - 1))) ∧
  (∀ (rid off : Nat) (run : BarData) (s : State), s.canonical = true → s.hears rid → off + run.data.length ≤ stackBytes →
    s.getF Fld.hifApStack 0 < 12 →
    ∃ t, exec (.bar2Write rid off run) s = .next t ∧
      (∀ h, h < hbmTop → t.sliceByte h =
        if s.apertureAt off 0 ≤ h ∧ h < s.apertureAt off run.data.length ∧ (s.xfersStart run.hbm).haOffline h = false then
          run.data.getD (h - s.apertureAt off 0) 0 else (s.xfersStart run.hbm).sliceByte h) ∧
      ((∃ k, k < run.data.length ∧ (s.xfersStart run.hbm).haOffline (s.apertureAt off k) = true) →
        t.getF Fld.hifUrOther 0 = min (s.getF Fld.hifUrOther 0 + 1) (2 ^ 32 - 1)) ∧
      (run.hbm = [] → run.data ≠ [] → (∀ k, k < run.data.length → s.haOffline (s.apertureAt off k) = true) →
        State.SameBut [.hifUr] [] s t)) ∧
  (∀ (rid addr : Nat) (found : List SymErr) (fails : XferFail) (s : State), s.canonical = true → s.hears rid → addr < hbmTop →
    (∃ t, exec (.cxlMemRead rid addr found fails) s = .next t) ∧
    (s.flag Fld.hifCxlMem 0 = true → s.haOffline (addr / 64 * 64) = false → ¬(fails.command = true ∧ 4 < fails.fails) →
      (found = [] → ∃ t o, exec (.cxlMemRead rid addr found fails) s = .next t ∧
        t.out = .readData ((List.range 64).map fun k => s.sliceByte (addr / 64 * 64 + k))
          (s.xfersBegin.poisonAt (addr / 64 * 64) || s.xfersBegin.poisonAt (addr / 64 * 64 + 32)) :: o ∧
        ∀ h, t.sliceByte h = s.sliceByte h) ∧
      (s.isUp = true → addr / 64 * 2 ∉ s.poison → symbolsWrong 1 found = 0 →
        (symbolsWrong 0 found = 1 → ∃ t p o, exec (.cxlMemRead rid addr found fails) s = .next t ∧
          t.out = .readData ((List.range 64).map fun k => s.sliceByte (addr / 64 * 64 + k)) p :: o ∧
          t.getF Fld.hbmCe (haStack addr) = min (s.getF Fld.hbmCe (haStack addr) + 1) (2 ^ 16 - 1)) ∧
        (symbolsWrong 0 found = 2 → ∃ t d p o, exec (.cxlMemRead rid addr found fails) s = .next t ∧ t.out = .readData d p :: o ∧
          (s.mbFind (addr / 64) = none → p = true) ∧
          t.getF Fld.hbmUe (haStack addr) = min (s.getF Fld.hbmUe (haStack addr) + 1) (2 ^ 16 - 1)))) ∧
    (s.flag Fld.hifCxlMem 0 = true → s.haOffline (addr / 64 * 64) = false → s.isUp = true → fails.command = true → 4 < fails.fails →
      ∃ t d o, exec (.cxlMemRead rid addr found fails) s = .next t ∧ t.out = .readData d true :: o) ∧
    (s.flag Fld.hifCxlMem 0 = true → s.haOffline (addr / 64 * 64) = true →
      ∃ t d, exec (.cxlMemRead rid addr found fails) s = .next t ∧ t.out = .readData d true :: s.out ∧ d.length = 64 ∧
        t.getF Fld.hifUrOther 0 = min (s.getF Fld.hifUrOther 0 + 1) (2 ^ 32 - 1)) ∧
    (s.flag Fld.hifCxlMem 0 = false → ∃ t, exec (.cxlMemRead rid addr found fails) s = .next t ∧ t.out = .unsupported :: s.out ∧
      t.getF Fld.hifUrOther 0 = min (s.getF Fld.hifUrOther 0 + 1) (2 ^ 32 - 1))) ∧
  (∀ (rid addr : Nat) (data : Bytes) (fails : XferFail) (s : State), s.canonical = true → s.hears rid → addr < hbmTop →
    addr % 64 + data.length ≤ 64 →
    (∃ t, exec (.cxlMemWrite rid addr data fails) s = .next t) ∧
    (s.flag Fld.hifCxlMem 0 = true → s.haOffline addr = false → fails.fails ≤ 4 →
      ∃ t, exec (.cxlMemWrite rid addr data fails) s = .next t ∧ ∀ h, h < hbmTop → t.sliceByte h =
        if addr ≤ h ∧ h < addr + data.length then data.getD (h - addr) 0 else s.sliceByte h) ∧
    (s.flag Fld.hifCxlMem 0 = true → s.haOffline addr = false → 4 < fails.fails →
      ∃ t, exec (.cxlMemWrite rid addr data fails) s = .next t ∧ ∀ k, k < data.length → t.poisonAt (addr + k) = true) ∧
    (s.flag Fld.hifCxlMem 0 = false ∨ s.haOffline addr = true →
      ∃ t, exec (.cxlMemWrite rid addr data fails) s = .next t ∧ State.SameBut [.hifUr] [] s t ∧
        t.getF Fld.hifUrOther 0 = min (s.getF Fld.hifUrOther 0 + 1) (2 ^ 32 - 1))) ∧
  (∀ (rid off addr : Nat) (run : BarRun) (put : BarData) (data : Bytes) (found : List SymErr) (fails : XferFail) (s : State),
    (stackBytes < off + run.len → exec (.bar2Read rid off run) s = .fault .noSuchAddress) ∧
    (stackBytes < off + put.data.length → exec (.bar2Write rid off put) s = .fault .noSuchAddress) ∧
    (hbmTop ≤ addr → exec (.cxlMemRead rid addr found fails) s = .fault .noSuchAddress) ∧
    (hbmTop ≤ addr ∨ 64 < addr % 64 + data.length → exec (.cxlMemWrite rid addr data fails) s = .fault .noSuchAddress))

/-! ### Rings, doorbells and proofs (chapter 13) -/

/-- The bytes that the host posts at the head of a running ring are a ticket that begins when the device fetches it: a
doorbell covers it, a window grants the fetch, its sequence and check are right, the proof ring has a free slot, it waits for
no fence, and no begun ticket of the ring has its sequence. -/
structure Sys2Proof.Machine.State.headReady (s : State) (ring tail crc : Nat) (b : Bytes) : Prop where
  ready : s.isReady = true
  enabled : s.flag Fld.hifRingsEn 0 = true
  running : s.getF Fld.hifRgState ring = 1
  ahead : (tail + 2 ^ 32 - s.getF Fld.hifRgHead ring) % 2 ^ 32 ≠ 0 ∧
    (tail + 2 ^ 32 - s.getF Fld.hifRgHead ring) % 2 ^ 32 ≤ 2 ^ s.getF Fld.hifRgLog2 ring
  granted : ∀ p ∈ pagesOf (4096 * s.getF Fld.hifRgTbase ring +
    512 * (s.getF Fld.hifRgHead ring % 2 ^ s.getF Fld.hifRgLog2 ring)) 512, s.pageGranted false p = true
  bytes : memGetRun s.hostMem (4096 * s.getF Fld.hifRgTbase ring +
    512 * (s.getF Fld.hifRgHead ring % 2 ^ s.getF Fld.hifRgLog2 ring)) 512 = b
  sequence : tkSeq b = s.getF Fld.hifRgHead ring
  check : tkCrc b = ticketCrc b ∧ ((s.getF Fld.hifRgHead ring + 1) % 2 ^ 32 = tail → tkCrc b = crc)
  slot : (s.getF Fld.hifRgPcount ring + 2 ^ 32 - s.getF Fld.hifRgPhead ring) % 2 ^ 32 + s.getF Fld.hifRgInflight ring <
    2 ^ s.getF Fld.hifRgLog2 ring
  fence : tkFence b = true → s.getF Fld.hifRgInflight ring = 0
  fresh : s.ticket? ring (s.getF Fld.hifRgHead ring) = none

/-- The ticket with bytes `b` has begun on the ring; one whose opcode names no ticket is already done, with BAD_TICKET. -/
def Sys2Proof.Machine.State.beganTicket (t s : State) (ring : Nat) (b : Bytes) : Prop :=
  ∃ x, t.ticket? ring (s.getF Fld.hifRgHead ring) = some x ∧ x.raw = b ∧
    x.done = (ticketForm (tkOpcode b)).isNone ∧ (x.done = true → x.status = 3)

/-- Where the next proof of a ring stands in host memory (R683). -/
def Sys2Proof.Machine.State.proofSlot (s : State) (ring : Nat) : Nat :=
  4096 * s.getF Fld.hifRgPbase ring + 32 * (s.getF Fld.hifRgPcount ring % 2 ^ s.getF Fld.hifRgLog2 ring)

/-- A write of HIF_RING_CTRL with HIF_RG_EN 1 to a disabled ring stores the driver, vector and coalescing fields and,
where it lies from 4 to 16, the size; the ring then runs from head 0 and proof count 0 where windows grant reading its
ticket ring and writing its proof ring, and stays disabled otherwise. To a ring that is not
disabled the write, with HIF_RG_RESUME 0, does nothing. A write with HIF_RG_EN 0 and HIF_RG_RESUME 0 to an enabled
ring ends fetching: a ring paused in state 3 is disabled at once, its waiting proofs are gone and its begun tickets run on
without a proof; any other shows 4 while a begun ticket has no proof and 0 otherwise. HIF_RG_RESUME lets a ring paused with a stale ticket and with no doorbell waiting
run again, and does nothing to a ring that is not paused. (R664, R669, R670, R673) -/
def Obligations.RingEnabledAndDisabled : Prop :=
  (∀ (rid ring value : Nat) (s : State), s.canonical = true → s.serves rid → ring < 256 → value.testBit 62 = true →
    (s.getF Fld.hifRgState ring = 0 →
      ∃ t, exec (.hifRgEn rid ring value) s = .next t ∧ t.getF Fld.hifRgVec ring = value / 2 ^ 32 % 2 ^ 11 ∧
        t.getF Fld.hifRgDriver ring = value / 2 ^ 61 % 2 ∧ t.getF Fld.hifRgCoalN ring = value / 2 ^ 24 % 2 ^ 8 ∧
        t.getF Fld.hifRgCoalUs ring = value / 2 ^ 8 % 2 ^ 16 ∧
        t.getF Fld.hifRgLog2 ring = (if 4 ≤ value / 2 ^ 48 % 32 ∧ value / 2 ^ 48 % 32 ≤ 16 then value / 2 ^ 48 % 32
          else s.getF Fld.hifRgLog2 ring) ∧
        ((s.rangeGranted false (4096 * s.getF Fld.hifRgTbase ring) (512 * 2 ^ t.getF Fld.hifRgLog2 ring) = true ∧
            s.rangeGranted true (4096 * s.getF Fld.hifRgPbase ring) (32 * 2 ^ t.getF Fld.hifRgLog2 ring) = true →
          t.getF Fld.hifRgEn ring = 1 ∧ t.getF Fld.hifRgState ring = 1 ∧ t.getF Fld.hifRgHead ring = 0 ∧
            t.getF Fld.hifRgPcount ring = 0 ∧ t.getF Fld.hifRgInflight ring = s.getF Fld.hifRgInflight ring) ∧
        (s.rangeGranted false (4096 * s.getF Fld.hifRgTbase ring) (512 * 2 ^ t.getF Fld.hifRgLog2 ring) = false ∨
            s.rangeGranted true (4096 * s.getF Fld.hifRgPbase ring) (32 * 2 ^ t.getF Fld.hifRgLog2 ring) = false →
          t.getF Fld.hifRgState ring = 0 ∧ t.getF Fld.hifRgEn ring = s.getF Fld.hifRgEn ring))) ∧
    (s.getF Fld.hifRgState ring ≠ 0 → value.testBit 63 = false → exec (.hifRgEn rid ring value) s = .next s)) ∧
  (∀ (rid ring value : Nat) (s : State), s.canonical = true → s.serves rid → ring < 256 → value.testBit 62 = false →
    value.testBit 63 = false → s.flag Fld.hifRgEn ring = true → s.getF Fld.hifRgState ring ≠ 0 →
    ∃ t, exec (.ringDisable rid ring value) s = .next t ∧ t.flag Fld.hifRgEn ring = false ∧
      (s.getF Fld.hifRgState ring = 3 → t.getF Fld.hifRgState ring = 0 ∧ (t.ringRt ring).waiting = [] ∧
        t.getF Fld.hifRgInflight ring = s.getF Fld.hifRgInflight ring - (s.ringRt ring).waiting.length ∧
        ∀ seq, t.ticket? ring seq = (s.ticket? ring seq).map fun x => { x with orphan := true }) ∧
      (s.getF Fld.hifRgState ring ≠ 3 → t.getF Fld.hifRgState ring = if s.getF Fld.hifRgInflight ring = 0 then 0 else 4) ∧
      ∀ k, k < 256 → k ≠ ring → t.getF Fld.hifRgState k = s.getF Fld.hifRgState k) ∧
  (∀ (rid ring : Nat) (stores : List (Nat × Byte)) (s : State), s.canonical = true → s.serves rid → ring < 256 →
    (s.getF Fld.hifRgState ring = 2 → (s.ringRt ring).hasDb = false →
      ∃ t, exec (.hifRgResume rid ring stores) s = .next t ∧ t.getF Fld.hifRgState ring = 1 ∧
        t.hostMem = (s.hostStores stores).hostMem ∧ State.SameBut [.hifRingStatus] [.hostMem, .host] s t) ∧
    (s.getF Fld.hifRgState ring ≠ 2 → s.getF Fld.hifRgState ring ≠ 3 →
      exec (.hifRgResume rid ring stores) s = .next (s.hostStores stores)))

/-- A doorbell completes in every state of its ring. One whose tail lies 0 or more than 2^k past the head is ignored and
counted in HIF_RG_DB_IGNORED. On a paused ring any other is kept for the resume; on a disabled or draining ring it does
nothing (the model's choice, log 42). On a running ring with no failed check, whose head ticket is in order, it begins
that ticket. A re-read on a running ring counts in HIF_RG_REREADS; it begins a head ticket that is in order; one that
fails again stays at the head until the seventh re-read has failed, which pauses the ring in state 2 with its head kept
and counts a stale-ticket fault. Where no check has failed there is nothing to read again. (R665, R666, R667, R668, R669,
R671, R672) -/
def Obligations.DoorbellBeginsTickets : Prop :=
  (∀ (rid ring value : Nat) (stores : List (Nat × Byte)) (s : State), s.canonical = true → s.serves rid → ring < 256 →
    (∃ t, exec (.doorbell rid ring value stores) s = .next t ∧ t.hostMem = (s.hostStores stores).hostMem) ∧
    ((value % 2 ^ 32 + 2 ^ 32 - s.getF Fld.hifRgHead ring) % 2 ^ 32 = 0 ∨
        2 ^ s.getF Fld.hifRgLog2 ring < (value % 2 ^ 32 + 2 ^ 32 - s.getF Fld.hifRgHead ring) % 2 ^ 32 →
      ∃ t, exec (.doorbell rid ring value stores) s = .next t ∧
        t.getF Fld.hifRgDbIgnored ring = min (s.getF Fld.hifRgDbIgnored ring + 1) (2 ^ 16 - 1) ∧
        t.getF Fld.hifRgHead ring = s.getF Fld.hifRgHead ring ∧ State.SameBut [.hifRingCount] [.hostMem] s t) ∧
    ((value % 2 ^ 32 + 2 ^ 32 - s.getF Fld.hifRgHead ring) % 2 ^ 32 ≠ 0 →
        (value % 2 ^ 32 + 2 ^ 32 - s.getF Fld.hifRgHead ring) % 2 ^ 32 ≤ 2 ^ s.getF Fld.hifRgLog2 ring →
      (s.getF Fld.hifRgState ring = 0 ∨ s.getF Fld.hifRgState ring = 4 →
        exec (.doorbell rid ring value stores) s = .next (s.hostStores stores)) ∧
      (s.getF Fld.hifRgState ring = 2 ∨ s.getF Fld.hifRgState ring = 3 →
        ∃ t, exec (.doorbell rid ring value stores) s = .next t ∧ (t.ringRt ring).tail = value % 2 ^ 32 ∧
          (t.ringRt ring).crc = value / 2 ^ 32 % 2 ^ 32 ∧ (t.ringRt ring).hasDb = true ∧
          State.SameBut [] [.hostMem, .host] s t)) ∧
    (∀ b, (s.hostStores stores).headReady ring (value % 2 ^ 32) (value / 2 ^ 32 % 2 ^ 32) b → (s.ringRt ring).rereads = none →
      ∃ t, exec (.doorbell rid ring value stores) s = .next t ∧ t.beganTicket s ring b)) ∧
  (∀ (ring n : Nat) (stores : List (Nat × Byte)) (s : State), s.canonical = true → ring < 256 → s.isReady = true →
    s.flag Fld.hifRingsEn 0 = true → s.getF Fld.hifRgState ring = 1 → (s.ringRt ring).rereads = some n →
    ∃ t, exec (.ticketReread ring stores) s = .next t ∧
      t.getF Fld.hifRgRereads ring = min (s.getF Fld.hifRgRereads ring + 1) (2 ^ 32 - 1) ∧
      (∀ b, (s.hostStores stores).headReady ring (s.ringRt ring).tail (s.ringRt ring).crc b → (s.ringRt ring).hasDb = true →
        t.beganTicket s ring b) ∧
      (∀ b, (s.ringRt ring).hasDb = true → (s.ringRt ring).tail ≠ s.getF Fld.hifRgHead ring →
        (∀ p ∈ pagesOf (4096 * s.getF Fld.hifRgTbase ring +
          512 * (s.getF Fld.hifRgHead ring % 2 ^ s.getF Fld.hifRgLog2 ring)) 512, s.pageGranted false p = true) →
        b = memGetRun (s.hostStores stores).hostMem (4096 * s.getF Fld.hifRgTbase ring +
          512 * (s.getF Fld.hifRgHead ring % 2 ^ s.getF Fld.hifRgLog2 ring)) 512 →
        tkSeq b ≠ s.getF Fld.hifRgHead ring ∨ tkCrc b ≠ ticketCrc b →
        t.getF Fld.hifRgHead ring = s.getF Fld.hifRgHead ring ∧
          t.getF Fld.hifRgState ring = (if n + 1 < 7 then 1 else 2) ∧
          t.getF Fld.hifRgStaleFaults ring =
            (if n + 1 < 7 then s.getF Fld.hifRgStaleFaults ring else min (s.getF Fld.hifRgStaleFaults ring + 1) (2 ^ 16 - 1)) ∧
          (n + 1 < 7 → (t.ringRt ring).rereads = some (n + 1)))) ∧
  (∀ (ring : Nat) (stores : List (Nat × Byte)) (s : State), s.canonical = true → (s.ringRt ring).rereads = none →
    exec (.ticketReread ring stores) s = .next (s.hostStores stores))

/-- The proof of a done ticket on a ring that runs or drains, with no earlier proof waiting and a window that grants the
write, stands in proof-ring slot (proof count mod 2^k): tag, sequence, opcode, status, ring number, the phase 1 −
(floor(proof count / 2^k) mod 2) and the detail; the proof count has advanced, and no other byte of host memory has
changed. A ticket whose ring was disabled after it began has none: host memory and the proof count stay. A coalescing timeout of a ring with proofs not yet signalled sends its vector's message where the vector is
unmasked, sets its pending bit where it is masked, and leaves no proof unsignalled. (R683, R684, R685, R687, R690,
R698) -/
def Obligations.ProofWrittenIntoItsSlot : Prop :=
  (∀ (ring seq : Nat) (x : Ticket) (s : State), s.canonical = true → s.isReady = true → ring < 256 →
    s.ticket? ring seq = some x → x.done = true → s.resultIn x = true → x.orphan = false →
    s.getF Fld.hifRgState ring = 1 ∨ s.getF Fld.hifRgState ring = 4 → (s.ringRt ring).waiting = [] →
    s.pageGranted true (s.getF Fld.hifRgPbase ring + s.getF Fld.hifRgPcount ring % 2 ^ s.getF Fld.hifRgLog2 ring / 128) = true →
    ∃ t p, exec (.proof ring seq) s = .next t ∧ p.length = 32 ∧
      (∀ h, memGet t.hostMem h = if s.proofSlot ring ≤ h ∧ h < s.proofSlot ring + 32 then p.getD (h - s.proofSlot ring) 0
        else memGet s.hostMem h) ∧
      leNat (slice p 0 8) = tkTag x.raw ∧ leNat (slice p 8 4) = x.seq % 2 ^ 32 ∧ leNat (slice p 12 2) = tkOpcode x.raw ∧
      u8At p 14 = x.status % 256 ∧ u8At p 15 = ring ∧
      u8At p 16 % 2 = 1 - s.getF Fld.hifRgPcount ring / 2 ^ s.getF Fld.hifRgLog2 ring % 2 ∧
      slice p 18 14 = slice x.detail 0 14 ∧
      t.getF Fld.hifRgPcount ring = (s.getF Fld.hifRgPcount ring + 1) % 2 ^ 32) ∧
  (∀ (ring seq : Nat) (x : Ticket) (s : State), s.canonical = true → s.isReady = true → ring < 256 →
    s.ticket? ring seq = some x → x.done = true → s.resultIn x = true → x.orphan = true →
    ∃ t, exec (.proof ring seq) s = .next t ∧ t.hostMem = s.hostMem ∧ t.getF Fld.hifRgPcount ring = s.getF Fld.hifRgPcount ring) ∧
  (∀ (ring : Nat) (s : State), s.canonical = true → s.isReady = true → ring < 256 → s.getF Fld.hifRgCoalUs ring ≠ 0 →
    (s.ringRt ring).unsignalled ≠ 0 →
    ∃ t, exec (.coalesceTimeout ring) s = .next t ∧ (t.ringRt ring).unsignalled = 0 ∧
      (s.msixMasked (s.getF Fld.hifRgVec ring) = false → t.out = .msix (s.getF Fld.hifRgVec ring) :: s.out) ∧
      (s.msixMasked (s.getF Fld.hifRgVec ring) = true → t.out = s.out ∧ s.getF Fld.hifRgVec ring ∈ t.msixPend) ∧
      State.SameBut [] [.out, .msixPend, .host] s t)

/-! ### Memory: caches, ranges, atomics, HBM (chapters 9 and 10) -/

/-- The galley that a query names in a slot's forme. -/
def Sys2Proof.Machine.State.askedDecl (s : State) (value : Nat) : Option Bytes :=
  (galDecls (s.forme (value / 2 ^ 16 % 16)))[value % 2 ^ 10]?

/-- The range operations with RC_RNG_KIND 0, by their codes. -/
def Sys2Proof.Machine.rangeCommand (op rid p slot : Nat) : Instr :=
  if op = 1 then .clean rid p slot false else if op = 2 then .invalidate rid p slot false
  else if op = 3 then .cleanInvalidate rid p slot false else .zero rid p slot false

/-- A line of chase data of a slot in the range of a region's range registers, and where it lies. -/
def Sys2Proof.Machine.State.inRange (s : State) (p slot a l : Nat) : Prop :=
  a ∈ s.rangeLines slot (s.getF Fld.rcRngBase p / 64 * 64) (s.getF Fld.rcRngLen p / 64 * 64) ∧ s.chaseLoc slot a = some l

/-- The atomics by their operands: alignment, and the new content for an old one. -/
inductive Sys2Proof.Machine.AtomicSays : Instr → Nat → Nat → Nat → (Bytes → Bytes) → Prop
  | add (slot addr : Nat) (v : Int) : AtomicSays (.atomicAdd slot addr v) slot addr 8 fun b =>
      natLe 8 (((leNat b : Int) + v) % 2 ^ 64).toNat
  | cas (slot addr compare new : Nat) (hc : compare < 2 ^ 64) : AtomicSays (.cas slot addr compare new) slot addr 8 fun b =>
      if leNat b = compare then natLe 8 new else b
  | xchg (slot addr v : Nat) : AtomicSays (.xchg slot addr v) slot addr 8 fun _ => natLe 8 v
  | maxIdx (slot addr : Nat) (v : Int) (index : Nat) (hv : -2 ^ 63 ≤ v ∧ v < 2 ^ 63) (hi : index < 2 ^ 40) :
      AtomicSays (.maxIdx slot addr v index) slot addr 16 fun b =>
        if (u8At b 15).testBit 0 = false ∨ sextNat 64 (u64At b 0) < v ∨ (sextNat 64 (u64At b 0) = v ∧ index < leNat (slice b 8 5)) then
          natLe 8 (v % 2 ^ 64).toNat ++ natLe 5 index ++ [0, 0, 1] else b
  | minIdx (slot addr : Nat) (v : Int) (index : Nat) (hv : -2 ^ 63 ≤ v ∧ v < 2 ^ 63) (hi : index < 2 ^ 40) :
      AtomicSays (.minIdx slot addr v index) slot addr 16 fun b =>
        if (u8At b 15).testBit 0 = false ∨ v < sextNat 64 (u64At b 0) ∨ (sextNat 64 (u64At b 0) = v ∧ index < leNat (slice b 8 5)) then
          natLe 8 (v % 2 ^ 64).toNat ++ natLe 5 index ++ [0, 0, 1] else b

/-- The thermal step of R505 on the way up, and the temperature at which a step begins. -/
def Sys2Proof.Machine.thermalFrom (step : Nat) : Nat :=
  match step with | 0 => 0 | 1 => 95 | 2 => 97 | 3 => 99 | 4 => 100 | _ => 105

/-- IMP_QUERY stores slot, kind and galley. For a chase address with a frame that a lock-up has shown it answers valid with the
frame's tier, stack, copies and heat; for an address with none, or with one backed since the last lock-up (the model's reading,
log 152), or outside chase data, the result reads zero. For a slug of the
chase's galley that lies on this member it answers valid with an HBM tier, once the galley has a serving state; for one
held as a guest, tier 5 and the guest's state; a slug of no declared galley, of a galley that the chase does not hold,
beyond the galley, of an EMPTY slot, or neither local nor a guest, answers zero. MRK_XLATE answers the mark that the slot's context gives the ME_ID, or not valid. No other register
changes. (R463, R530) -/
def Obligations.QueriesAnswerPlacementAndMarks : Prop :=
  (∀ (rid value : Nat) (s : State), s.canonical = true → s.serves rid →
    ∃ t, exec (.impQuery rid value) s = .next t ∧ t.getF Fld.impQSlot 0 = value / 2 ^ 16 % 16 ∧
      t.getF Fld.impQKind 0 = value / 2 ^ 15 % 2 ∧ t.getF Fld.impQGalley 0 = value % 2 ^ 10 ∧
      State.SameBut [.impQuery, .impQueryResult] [] s t ∧
      (value.testBit 15 = false → ∀ e, s.frame (value / 2 ^ 16 % 16) (caFrame (s.getF Fld.impQKey 0)) = some e →
        4096 ≤ s.getF Fld.impQKey 0 → s.getF Fld.impQKey 0 < 2 ^ 43 → e.shown = true →
        t.getF Fld.impRValid 0 = 1 ∧ t.getF Fld.impRTier 0 = e.tier % 16 ∧ t.getF Fld.impRStack 0 = haStack (s.entryHa e (s.getF Fld.impQKey 0 % 4096)) % 16 ∧
          t.getF Fld.impRCopies 0 = min 4 e.copies.length ∧ t.getF Fld.impRHeat 0 = e.heat % 2 ^ 16) ∧
      (value.testBit 15 = false → s.frame (value / 2 ^ 16 % 16) (caFrame (s.getF Fld.impQKey 0)) = none ∨
        s.getF Fld.impQKey 0 < 4096 ∨ 2 ^ 43 ≤ s.getF Fld.impQKey 0 → t.rd .impQueryResult 0 = 0) ∧
      (value.testBit 15 = false → ∀ e, s.frame (value / 2 ^ 16 % 16) (caFrame (s.getF Fld.impQKey 0)) = some e → e.shown = false →
        t.rd .impQueryResult 0 = 0) ∧
      (value.testBit 15 = true → s.askedDecl value = none ∨ s.cs (value / 2 ^ 16 % 16) = csEmpty → t.rd .impQueryResult 0 = 0) ∧
      (value.testBit 15 = true → ∀ d, s.askedDecl value = some d → s.galley (value / 2 ^ 16 % 16) (gdId d) = none →
        t.rd .impQueryResult 0 = 0) ∧
      (value.testBit 15 = true → s.cs (value / 2 ^ 16 % 16) ≠ csEmpty → ∀ d g, s.askedDecl value = some d →
        s.galley (value / 2 ^ 16 % 16) (gdId d) = some g →
        (gdSlugs g.decl ≤ s.getF Fld.impQKey 0 % 2 ^ 40 → t.rd .impQueryResult 0 = 0) ∧
        (s.getF Fld.impQKey 0 % 2 ^ 40 < gdSlugs g.decl →
          (gdSharded g.decl = false ∨ slugOwner (s.getF Fld.impQKey 0 % 2 ^ 40) (s.members (value / 2 ^ 16 % 16)) =
              s.ordinal (value / 2 ^ 16 % 16) →
            (g.serving ≠ none → t.getF Fld.impRValid 0 = 1 ∧ (t.getF Fld.impRTier 0 = 3 ∨ t.getF Fld.impRTier 0 = 4)) ∧
            (g.serving = none → t.rd .impQueryResult 0 = 0)) ∧
          (gdSharded g.decl = true → slugOwner (s.getF Fld.impQKey 0 % 2 ^ 40) (s.members (value / 2 ^ 16 % 16)) ≠
              s.ordinal (value / 2 ^ 16 % 16) →
            (∀ u, (s.chase (value / 2 ^ 16 % 16)).guests.find? (fun u => u.galley == gdId d && u.slug == s.getF Fld.impQKey 0 % 2 ^ 40)
                = some u → t.getF Fld.impRValid 0 = 1 ∧ t.getF Fld.impRTier 0 = 5 ∧ t.getF Fld.impRState 0 = u.state % 2 ^ 16) ∧
            ((s.chase (value / 2 ^ 16 % 16)).guests.find? (fun u => u.galley == gdId d && u.slug == s.getF Fld.impQKey 0 % 2 ^ 40)
                = none → t.rd .impQueryResult 0 = 0))))) ∧
  (∀ (rid value : Nat) (s : State), s.canonical = true → s.serves rid →
    ∃ t, exec (.mrkXlate rid value) s = .next t ∧ State.SameBut [.mrkXlate] [] s t ∧
      t.getF Fld.mrkXSlot 0 = value / 2 ^ 52 % 16 ∧ t.getF Fld.mrkXCtx 0 = value / 2 ^ 40 % 64 ∧
      t.getF Fld.mrkXId 0 = value / 2 ^ 16 % 2 ^ 14 ∧
      (∀ n, s.markOf (value / 2 ^ 52 % 16) (value / 2 ^ 40 % 64) (value / 2 ^ 16 % 2 ^ 14) = some n →
        t.getF Fld.mrkXValid 0 = 1 ∧ t.getF Fld.mrkXMark 0 = n % 2 ^ 14) ∧
      (s.markOf (value / 2 ^ 52 % 16) (value / 2 ^ 40 % 64) (value / 2 ^ 16 % 2 ^ 14) = none →
        t.getF Fld.mrkXValid 0 = 0 ∧ t.getF Fld.mrkXMark 0 = 0))

/-- A write of RC_WAYS that gives locked and engine ways together no more than 12, with the ways powered down no more than
14, and locked ways only in a region that a loaded chase holds, stores the three numbers and shows RC_WAYS_PENDING
exactly where they differ from those in effect. Any other write changes none of them and sets RC_WAYS_REFUSED. When
the change's time comes it takes effect, in full, in a region that no running chase holds and where only powered-down
ways change; otherwise it waits. (R480, R481, R483, R484) -/
def Obligations.CacheWaysChange : Prop :=
  (∀ (rid p value : Nat) (s : State), s.canonical = true → s.serves rid → p < 20 →
    ∃ t, exec (.rcWays rid p value) s = .next t ∧
      (value % 16 + value / 2 ^ 4 % 16 ≤ 12 → value % 16 + value / 2 ^ 4 % 16 + value / 2 ^ 8 % 16 ≤ 14 →
        (value % 16 = 0 ∨ ((s.logicalOf p).bind s.regionHolder).isSome = true) →
        t.getF Fld.rcLockWays p = value % 16 ∧ t.getF Fld.rcEngineWays p = value / 2 ^ 4 % 16 ∧
          t.getF Fld.rcOffWays p = value / 2 ^ 8 % 16 ∧
          (t.flag Fld.rcWaysPending p = true ↔ s.getF Fld.rcEffLock p ≠ value % 16 ∨ s.getF Fld.rcEffEngine p ≠ value / 2 ^ 4 % 16 ∨
            s.getF Fld.rcEffOff p ≠ value / 2 ^ 8 % 16)) ∧
      (12 < value % 16 + value / 2 ^ 4 % 16 ∨ 14 < value % 16 + value / 2 ^ 4 % 16 + value / 2 ^ 8 % 16 ∨
          (0 < value % 16 ∧ ((s.logicalOf p).bind s.regionHolder).isSome = false) →
        t.getF Fld.rcLockWays p = s.getF Fld.rcLockWays p ∧ t.getF Fld.rcEngineWays p = s.getF Fld.rcEngineWays p ∧
          t.getF Fld.rcOffWays p = s.getF Fld.rcOffWays p ∧ t.flag Fld.rcWaysRefused p = true)) ∧
  (∀ (p : Nat) (s : State), s.canonical = true → s.isUp = true → p < 20 → s.flag Fld.rcWaysPending p = true →
    (s.heldRunning p = false ∨ (s.getF Fld.rcLockWays p = s.getF Fld.rcEffLock p ∧
        s.getF Fld.rcEngineWays p = s.getF Fld.rcEffEngine p) →
      ∃ t, exec (.rcWaysApply p) s = .next t ∧ t.getF Fld.rcEffLock p = s.getF Fld.rcLockWays p ∧
        t.getF Fld.rcEffEngine p = s.getF Fld.rcEngineWays p ∧ t.getF Fld.rcEffOff p = s.getF Fld.rcOffWays p ∧
        t.flag Fld.rcWaysPending p = false) ∧
    (s.heldRunning p = true → s.getF Fld.rcLockWays p ≠ s.getF Fld.rcEffLock p ∨ s.getF Fld.rcEngineWays p ≠ s.getF Fld.rcEffEngine p →
      exec (.rcWaysApply p) s = .next s))

/-- A range operation on a loaded slot, while none runs in the region, shows RC_RNG_BUSY. CLEAN and CLEAN_INVALIDATE leave
every HBM byte as the slices showed it, with no merging-buffer entry left for a line of the range whose frame is homed
in HBM; INVALIDATE leaves DRAM as it was, with no such entry left, so that those lines show DRAM; ZERO leaves every
byte of every backed line of the range zero, where the host holds no copy of it that must first be called back. CLEAN
with RC_RNG_KIND 1 empties the merging buffers. An operation while one runs, or another than CLEAN with RC_RNG_KIND 1,
starts nothing and shows REFUSED, and one on a slot that holds no forme starts nothing. When the last line is done RC_RNG_BUSY
falls and RC_RNG_DONE counts. (R494, R495, R496, R497, R499) -/
def Obligations.RangeOperationsActOnTheirLines : Prop :=
  (∀ (op rid p slot : Nat) (s : State), s.canonical = true → s.serves rid → p < 20 → slot < 16 → 1 ≤ op ∧ op ≤ 4 →
    s.flag Fld.rcRngBusy p = false → s.forme slot ≠ [] →
    ∃ t, exec (rangeCommand op rid p slot) s = .next t ∧ t.flag Fld.rcRngBusy p = true ∧ t.getF Fld.rcRngStatus p = 0 ∧
      t.getF Fld.rcRngSlot p = slot ∧ t.getF Fld.rcRngKind p = 0 ∧
      (op = 1 ∨ op = 3 → ∀ h, h < hbmTop → t.sliceByte h = s.sliceByte h) ∧
      (op = 2 → t.mem = s.mem) ∧
      (op ≤ 3 → ∀ a l e, s.inRange p slot a l → s.frame slot (caFrame a) = some e → 3 ≤ e.tier → t.mbFind (l / 64) = none) ∧
      (op = 4 → ∀ a l, s.inRange p slot a l → l + 64 ≤ hbmTop ∨ hbmTop ≤ l →
        s.snooped (l / 64) = false → s.snooped ((l + 63) / 64) = false → ∀ k, k < 64 → t.sliceByte (l + k) = 0)) ∧
  (∀ (rid p slot : Nat) (kind : Bool) (c : Instr) (s : State), s.canonical = true → s.serves rid → p < 20 → slot < 16 →
    c = .clean rid p slot kind ∨ c = .invalidate rid p slot kind ∨ c = .cleanInvalidate rid p slot kind ∨ c = .zero rid p slot kind →
    (s.flag Fld.rcRngBusy p = true ∨ (kind = true ∧ c ≠ .clean rid p slot kind) →
      ∃ t, exec c s = .next t ∧ t.getF Fld.rcRngStatus p = 1 ∧ t.flag Fld.rcRngBusy p = s.flag Fld.rcRngBusy p ∧
        State.SameBut [.rcRangeCtrl] [] s t) ∧
    (s.flag Fld.rcRngBusy p = false → kind = false → s.forme slot = [] →
      ∃ t, exec c s = .next t ∧ t.getF Fld.rcRngStatus p = 2 ∧ t.flag Fld.rcRngBusy p = false ∧
        State.SameBut [.rcRangeCtrl] [] s t) ∧
    (s.flag Fld.rcRngBusy p = false → kind = true → c = .clean rid p slot kind →
      ∃ t, exec c s = .next t ∧ t.mb = [] ∧ t.flag Fld.rcRngBusy p = true ∧ ∀ h, h < hbmTop → t.sliceByte h = s.sliceByte h)) ∧
  (∀ (p : Nat) (s : State), s.canonical = true → s.isUp = true → p < 20 → s.flag Fld.rcRngBusy p = true →
    ∃ t, exec (.rangeDone p) s = .next t ∧ t.flag Fld.rcRngBusy p = false ∧
      t.getF Fld.rcRngDone p = min (s.getF Fld.rcRngDone p + 1) (2 ^ 32 - 1))

/-- An atomic on an aligned, backed address of a loaded slot leaves at its place the new content that its operand gives
for the old one, the chase's bytes there, no other HBM byte changed, where the host holds no copy of the line; it answers the old content, or
nothing where the old content was poisoned, and is counted. An atomic on an address that is not aligned, or that
nothing backs, is not carried out, answers nothing, and is counted in RC_ATOMIC_FAULTS. (R500, R501, R502, R503) -/
def Obligations.AtomicsCarriedOutInPlace : Prop :=
  ∀ (c : Instr) (slot addr n : Nat) (f : Bytes → Bytes) (s : State), AtomicSays c slot addr n f → s.canonical = true →
    s.isReady = true → s.cs slot ≠ csEmpty → slot < 16 → s.physOf (s.atomicRegion slot addr) < 20 →
    (addr % n = 0 → ∀ l, s.chaseLoc slot addr = some l → l + n ≤ hbmTop ∨ hbmTop ≤ l → s.snooped (l / 64) = false → l % n = 0 →
      (∀ k, k < n → s.chaseLoc slot (addr + k) = some (l + k)) →
      ∃ t, exec c s = .next t ∧
        (∀ k, k < n → t.sliceByte (l + k) = (f ((List.range n).map fun j => s.chaseByte slot (addr + j))).getD k 0) ∧
        (∀ h, h < hbmTop → h < l ∨ l + n ≤ h → t.sliceByte h = s.sliceByte h) ∧
        t.out = .atomicOld (if s.chasePoison slot addr then none else some ((List.range n).map fun j => s.chaseByte slot (addr + j))) :: s.out ∧
        t.getF Fld.rcAtomicCount (s.physOf (s.atomicRegion slot addr)) =
          min (s.getF Fld.rcAtomicCount (s.physOf (s.atomicRegion slot addr)) + 1) (2 ^ 48 - 1)) ∧
    (addr % n ≠ 0 ∨ s.chaseLoc slot addr = none →
      ∃ t, exec c s = .next t ∧ t.out = .atomicOld none :: s.out ∧ t.mem = s.mem ∧ t.mb = s.mb ∧
        t.getF Fld.rcAtomicFaults (s.physOf (s.atomicRegion slot addr)) =
          min (s.getF Fld.rcAtomicFaults (s.physOf (s.atomicRegion slot addr)) + 1) (2 ^ 16 - 1))

/-- A stack's temperature report is recorded, and the throttle step is the highest step that the temperature has reached
on its way up, or, falling, the old step left only 3 °C below its threshold; the refresh rate doubles from step 4. A
scrub read records its place; a sector with no symbol in error changes no error count and no poison, one with a symbol in
error counts in HBM_CE, one with two counts in HBM_UE and is poisoned, and one whose command has failed past its four retries
is not decoded. A stack that no longer answers shows state 3, and one stack less
is active. An aged merging-buffer entry goes to DRAM and changes no byte that the slices show. (R491, R505, R506,
R507, R509, R510, R511, R512, R518) -/
def Obligations.StacksReportScrubAndGoOffline : Prop :=
  (∀ (stack temp : Nat) (s : State), s.canonical = true → s.isUp = true → stack < 12 → s.stackOnline stack = true → temp < 256 →
    ∃ t, exec (.hbmTemp stack temp) s = .next t ∧ t.getF Fld.hbmTemp stack = temp ∧
      (∀ k, k ≤ 5 → (k ≤ t.getF Fld.hbmThrottle stack ↔ k = 0 ∨ thermalFrom k ≤ temp ∨
        ∃ j, k ≤ j ∧ j ≤ s.getF Fld.hbmThrottle stack ∧ thermalFrom j < temp + 3)) ∧
      (t.flag Fld.hbmRefresh2x stack = true ↔ 4 ≤ t.getF Fld.hbmThrottle stack)) ∧
  (∀ (stack pc line sector : Nat) (found : List SymErr) (fails : XferFail) (s : State), s.canonical = true → s.isUp = true → stack < 12 → pc < 64 →
    line < 2 ^ 24 → sector < 2 → s.pcOffline stack pc = false →
    (stack * 2 ^ 36 + pc * 2 ^ 30 + 64 * line + 32 * sector) / 32 ∉ s.poison →
    ∃ t, exec (.scrub stack pc line sector found fails) s = .next t ∧ t.getF Fld.hbmScrubPos stack = line ∧
      (found = [] ∨ (fails.command = true ∧ 4 < fails.fails) →
        t.getF Fld.hbmCe stack = s.getF Fld.hbmCe stack ∧ t.getF Fld.hbmUe stack = s.getF Fld.hbmUe stack ∧ t.poison = s.poison) ∧
      (¬(fails.command = true ∧ 4 < fails.fails) →
        (symbolsWrong 0 found = 1 → t.getF Fld.hbmCe stack = min (s.getF Fld.hbmCe stack + 1) (2 ^ 16 - 1)) ∧
        (symbolsWrong 0 found = 2 → t.getF Fld.hbmUe stack = min (s.getF Fld.hbmUe stack + 1) (2 ^ 16 - 1) ∧
          (stack * 2 ^ 36 + pc * 2 ^ 30 + 64 * line + 32 * sector) / 32 ∈ t.poison))) ∧
  (∀ (stack : Nat) (s : State), s.canonical = true → s.isUp = true → stack < 12 → s.stackOnline stack = true →
    ∃ t, exec (.stackOffline stack) s = .next t ∧ t.getF Fld.hbmState stack = 3 ∧ t.stackOnline stack = false ∧
      t.getF Fld.sysActiveStacks 0 = s.getF Fld.sysActiveStacks 0 - 1) ∧
  (∀ (line : Nat) (s : State), s.canonical = true → s.isUp = true →
    ∃ t, exec (.mbDrain line) s = .next t ∧ t.mbFind line = none ∧ (∀ h, h < hbmTop → t.sliceByte h = s.sliceByte h) ∧
      ∀ k, k ≠ line → t.mbFind k = s.mbFind k)

/-- Without repair access to the stack a maintenance operation leaves HBM_MAINT, its result and everything of the stack as
it was. With it, HBM_MAINT records the operation. READ_MAP shows in HBM_MAINT_RESULT which spares of the bank are in
use and which are bad. FORCE_REPAIR of a row that no spare holds, in a bank with a spare left, puts the row on that
spare. TEST_PC and RETURN_PC on an online pseudo-channel show REFUSED and change nothing; TEST_PC of an offline one
records that it passed, or shows that it failed; RETURN_PC of one that has passed lets it return at the next start-up.
(R514, R520, R521, R763) -/
def Obligations.MaintenanceNeedsRepairAccess : Prop :=
  (∀ (rid stack pc bank row : Nat) (pass : Bool) (c : Instr) (s : State), s.canonical = true → s.serves rid → stack < 12 →
    s.repairOpen stack = false →
    c = .readMap rid stack pc bank row ∨ c = .forceRepair rid stack pc bank row ∨ c = .testPc rid stack pc bank row pass ∨
      c = .returnPc rid stack pc bank row →
    ∃ t, exec c s = .next t ∧
      State.SameBut [.secStatus, .secColophon, .secColCkpt, .secColEvents, .secColLost] [.sec] s t) ∧
  (∀ (rid stack pc bank row : Nat) (pass : Bool) (s : State), s.canonical = true → s.serves rid → stack < 12 → pc < 64 → bank < 32 →
    row < 2 ^ 15 → s.repairOpen stack = true →
    (∃ t, exec (.readMap rid stack pc bank row) s = .next t ∧ t.getF Fld.hbmMtPc stack = pc ∧ t.getF Fld.hbmMtBank stack = bank ∧
      t.getF Fld.hbmMtStatus stack = 0 ∧
      (∀ k, k < 8 → ((t.getF Fld.hbmMtUsed stack).testBit k = true ↔ ∃ r, (k, r) ∈ (s.bank (bankKey stack pc bank)).used)) ∧
      (∀ k, k < 8 → ((t.getF Fld.hbmMtBad stack).testBit k = true ↔ k ∈ (s.bank (bankKey stack pc bank)).bad))) ∧
    (∀ k, (s.bank (bankKey stack pc bank)).next = some k → (∀ u ∈ (s.bank (bankKey stack pc bank)).used, u.2 ≠ row) →
      ∃ t, exec (.forceRepair rid stack pc bank row) s = .next t ∧
        (t.bank (bankKey stack pc bank)).used = (s.bank (bankKey stack pc bank)).used ++ [(k, row)] ∧
        t.getF Fld.hbmRepairs stack = min (s.getF Fld.hbmRepairs stack + 1) (2 ^ 16 - 1)) ∧
    (∃ t, exec (.testPc rid stack pc bank row pass) s = .next t ∧
      (s.pcOffline stack pc = false → t.getF Fld.hbmMtStatus stack = 1 ∧ t.hbm = s.hbm) ∧
      (s.pcOffline stack pc = true → pass = true → t.getF Fld.hbmMtStatus stack = 0 ∧ stack * 64 + pc ∈ t.hbm.tested) ∧
      (s.pcOffline stack pc = true → pass = false → t.getF Fld.hbmMtStatus stack = 2 ∧ t.hbm = s.hbm)) ∧
    (∃ t, exec (.returnPc rid stack pc bank row) s = .next t ∧
      (s.pcOffline stack pc = false ∨ stack * 64 + pc ∉ s.hbm.tested → t.getF Fld.hbmMtStatus stack = 1 ∧ t.hbm = s.hbm) ∧
      (s.pcOffline stack pc = true → stack * 64 + pc ∈ s.hbm.tested →
        t.getF Fld.hbmMtStatus stack = 0 ∧ stack * 64 + pc ∈ t.hbm.returning)))

/-! ### Marks and barriers (chapter 11) -/

/-- What an arrival or a signal of amount `a` leaves on mark `n`: its count, its sense and its flips (R531, R532, R534). -/
def Sys2Proof.Machine.State.signalled (t s : State) (n a : Nat) : Prop :=
  (s.flag Fld.mrkBarrier n = false →
    t.getF Fld.mrkCount n = min (s.getF Fld.mrkCount n + a) (min (2 * s.getF Fld.mrkTarget n - 1) (2 ^ 32 - 1)) ∧
    t.getF Fld.mrkSense n = s.getF Fld.mrkSense n) ∧
  (s.flag Fld.mrkBarrier n = true → s.getF Fld.mrkCount n + a < s.getF Fld.mrkTarget n →
    t.getF Fld.mrkCount n = s.getF Fld.mrkCount n + a ∧ t.getF Fld.mrkSense n = s.getF Fld.mrkSense n ∧
    (t.mark n).flips = (s.mark n).flips) ∧
  (s.flag Fld.mrkBarrier n = true → s.getF Fld.mrkTarget n ≤ s.getF Fld.mrkCount n + a →
    t.getF Fld.mrkCount n = min (s.getF Fld.mrkCount n + a - s.getF Fld.mrkTarget n) (s.getF Fld.mrkTarget n - 1) ∧
    t.getF Fld.mrkSense n = 1 - s.getF Fld.mrkSense n ∧ (t.mark n).flips = (s.mark n).flips + 1)

/-- MRK_FAULT of the slot that holds mark `n` records a fault: its code, the mark and the count before the operation (R535). -/
def Sys2Proof.Machine.State.markFaulted (t s : State) (n code : Nat) : Prop :=
  t.getF Fld.mrkFCode (s.getF Fld.mrkSlot n) = code ∧ t.getF Fld.mrkFMark (s.getF Fld.mrkSlot n) = n ∧
    t.getF Fld.mrkFCount (s.getF Fld.mrkSlot n) = s.getF Fld.mrkCount n

/-- On a valid mark of its slot's active context, with an amount that is not 0 and no wait on the mark: SIGNAL adds to a
counting mark up to the limit min(2t − 1, 2^32 − 1); on a barrier mark an arrival adds, and when it reaches t the
sense flips and t is subtracted, no more than t − 1 staying. Beyond that MRK_SAT_HI is set and MRK_FAULT records
MARK_OVERFLOW. TAKE subtracts from a counting mark down to 0, where a larger amount sets MRK_SAT_LO and MRK_FAULT
records MARK_UNDERFLOW. No other mark's count changes. An operation on a mark that is not valid, of amount 0, or a
TAKE of a barrier mark, is counted in MRK_SIG_REFUSED and does nothing else; one on a mark of an inactive context is
counted in MRK_STALE and does nothing else. (R531, R532, R533, R534, R535, R559, R567) -/
def Obligations.SignalAndTakeMoveCounts : Prop :=
  (∀ (rid n a : Nat) (s : State), s.canonical = true → s.serves rid → n < 2 ^ 14 → a ≠ 0 → s.flag Fld.mrkValid n = true →
    s.getF Fld.mrkCtx n = s.getF Fld.mrkActiveCtx (s.getF Fld.mrkSlot n) → (s.mark n).waits = [] →
    (∃ t, exec (.signal rid n a) s = .next t ∧ t.signalled s n a ∧
      (∀ k, k < 2 ^ 14 → k ≠ n → t.getF Fld.mrkCount k = s.getF Fld.mrkCount k) ∧
      (s.flag Fld.mrkBarrier n = false → min (2 * s.getF Fld.mrkTarget n - 1) (2 ^ 32 - 1) < s.getF Fld.mrkCount n + a →
        t.flag Fld.mrkSatHi n = true ∧ t.markFaulted s n fMarkOverflow) ∧
      (s.flag Fld.mrkBarrier n = true → s.getF Fld.mrkTarget n ≤ s.getF Fld.mrkCount n + a - s.getF Fld.mrkTarget n →
        s.getF Fld.mrkTarget n ≤ s.getF Fld.mrkCount n + a → t.flag Fld.mrkSatHi n = true ∧ t.markFaulted s n fMarkOverflow)) ∧
    (s.flag Fld.mrkBarrier n = false →
      ∃ t, exec (.take rid n a) s = .next t ∧ t.getF Fld.mrkCount n = s.getF Fld.mrkCount n - a ∧
        (∀ k, k < 2 ^ 14 → k ≠ n → t.getF Fld.mrkCount k = s.getF Fld.mrkCount k) ∧
        (s.getF Fld.mrkCount n < a → t.flag Fld.mrkSatLo n = true ∧ t.markFaulted s n fMarkUnderflow))) ∧
  (∀ (rid n a : Nat) (c : Instr) (s : State), s.canonical = true → s.serves rid → n < 2 ^ 14 →
    c = .signal rid n a ∨ c = .take rid n a →
    (s.flag Fld.mrkValid n = false ∨ a = 0 ∨ (c = .take rid n a ∧ s.flag Fld.mrkBarrier n = true) →
      ∃ t, exec c s = .next t ∧ State.SameBut [.mrkHostStatus] [] s t ∧
        t.getF Fld.mrkSigRefused 0 = min (s.getF Fld.mrkSigRefused 0 + 1) (2 ^ 32 - 1)) ∧
    (s.flag Fld.mrkValid n = true → a ≠ 0 → ¬(c = .take rid n a ∧ s.flag Fld.mrkBarrier n = true) →
      s.getF Fld.mrkCtx n ≠ s.getF Fld.mrkActiveCtx (s.getF Fld.mrkSlot n) →
      ∃ t, exec c s = .next t ∧ State.SameBut [.mrkEvents] [] s t ∧
        t.getF Fld.mrkStale (s.getF Fld.mrkSlot n) = min (s.getF Fld.mrkStale (s.getF Fld.mrkSlot n) + 1) (2 ^ 16 - 1)))

/-- DBG_MARK_SET of a valid mark that the debug window reaches, with no wait on it and a count below t for a barrier mark
or up to the limit for a counting mark, sets the count, and the sense where DBG_MS_SENSE_EN is 1; it flips nothing,
counts in MRK_HAND_SETS and shows status 0. Any other shows REFUSED and changes nothing else. A native plate wait of 2
µs lends the chase's granted ink and counts in MRK_LENDS; in a chase with FH_COMPAT_7410 it lends nothing. A deadlock
of a running chase, all of whose held regions are blocked, sets MRK_DL_HIT, the deadlock event and that of the RAS block and
counts in MRK_DL_REPORTS; the first since MRK_DL_HIT was cleared names the slot; it does not fault the chase. While one of its
regions is not blocked nothing is reported. (R550, R552, R561, R562, R563, R564, R565) -/
def Obligations.HandSetsLoansAndDeadlocks : Prop :=
  (∀ (rid value : Nat) (s : State), s.canonical = true → s.serves rid →
    (s.flag Fld.mrkValid (value / 2 ^ 32 % 2 ^ 14) = true → s.debugReach (s.getF Fld.mrkSlot (value / 2 ^ 32 % 2 ^ 14)) = true →
      (s.flag Fld.mrkBarrier (value / 2 ^ 32 % 2 ^ 14) = true → value % 2 ^ 32 < s.getF Fld.mrkTarget (value / 2 ^ 32 % 2 ^ 14)) →
      (s.flag Fld.mrkBarrier (value / 2 ^ 32 % 2 ^ 14) = false →
        value % 2 ^ 32 ≤ min (2 * s.getF Fld.mrkTarget (value / 2 ^ 32 % 2 ^ 14) - 1) (2 ^ 32 - 1)) →
      (s.mark (value / 2 ^ 32 % 2 ^ 14)).waits = [] →
      ∃ t, exec (.dbgMarkSet rid value) s = .next t ∧ t.getF Fld.mrkCount (value / 2 ^ 32 % 2 ^ 14) = value % 2 ^ 32 ∧
        t.getF Fld.mrkSense (value / 2 ^ 32 % 2 ^ 14) =
          (if value.testBit 63 then value / 2 ^ 62 % 2 else s.getF Fld.mrkSense (value / 2 ^ 32 % 2 ^ 14)) ∧
        (t.mark (value / 2 ^ 32 % 2 ^ 14)).flips = (s.mark (value / 2 ^ 32 % 2 ^ 14)).flips ∧ t.getF Fld.dbgMsStatus 0 = 0 ∧
        t.getF Fld.mrkHandSets (s.getF Fld.mrkSlot (value / 2 ^ 32 % 2 ^ 14)) =
          min (s.getF Fld.mrkHandSets (s.getF Fld.mrkSlot (value / 2 ^ 32 % 2 ^ 14)) + 1) (2 ^ 16 - 1)) ∧
    (s.flag Fld.mrkValid (value / 2 ^ 32 % 2 ^ 14) = false ∨
        s.debugReach (s.getF Fld.mrkSlot (value / 2 ^ 32 % 2 ^ 14)) = false ∨
        (s.flag Fld.mrkBarrier (value / 2 ^ 32 % 2 ^ 14) = true ∧
          s.getF Fld.mrkTarget (value / 2 ^ 32 % 2 ^ 14) ≤ value % 2 ^ 32) ∨
        (s.flag Fld.mrkBarrier (value / 2 ^ 32 % 2 ^ 14) = false ∧
          min (2 * s.getF Fld.mrkTarget (value / 2 ^ 32 % 2 ^ 14) - 1) (2 ^ 32 - 1) < value % 2 ^ 32) →
      ∃ t, exec (.dbgMarkSet rid value) s = .next t ∧ t.getF Fld.dbgMsStatus 0 = 1 ∧ State.SameBut [.dbgMarkSet] [] s t)) ∧
  (∀ (c : Nat) (s : State), s.canonical = true → s.live = true → c < 16 → s.csStriking c = true →
    (s.chase c).plate.waiting = true → (s.chase c).plate.lent = false →
    (fhCompat (s.forme c) = false →
      ∃ t, exec (.waitLend c) s = .next t ∧ (t.chase c).ink.lent = s.getF Fld.inkCGranted c ∧ (t.chase c).plate.lent = true ∧
        t.getF Fld.mrkLends c = min (s.getF Fld.mrkLends c + 1) (2 ^ 32 - 1)) ∧
    (fhCompat (s.forme c) = true → exec (.waitLend c) s = .next s)) ∧
  (∀ (c : Nat) (s : State), s.canonical = true → s.live = true → c < 16 → s.csStriking c = true →
    s.getF Fld.mrkDlTimeoutUs 0 ≠ 0 →
    ((∃ k ∈ s.heldRegions c, s.regionBlocked c k = false) → exec (.deadlockReport c) s = .next s) ∧
    ((∀ k ∈ s.heldRegions c, s.regionBlocked c k = true) →
    ∃ t, exec (.deadlockReport c) s = .next t ∧ t.flag Fld.mrkDlHit 0 = true ∧ t.flag Fld.hifEvDeadlock 0 = true ∧
      t.flag Fld.hifEvRas 0 = true ∧
      t.getF Fld.mrkDlReports 0 = min (s.getF Fld.mrkDlReports 0 + 1) (2 ^ 8 - 1) ∧
      (s.flag Fld.mrkDlHit 0 = false → t.getF Fld.mrkDlSlot 0 = c) ∧
      (s.flag Fld.mrkDlHit 0 = true → t.rd .mrkDlSnap 0 = s.rd .mrkDlSnap 0) ∧ ∀ k, t.cs k = s.cs k))

/-! ### Tickets (chapter 13 and the chapters of their work) -/

/-- The commands that act on a begun ticket, the transfers of HBM that did not go through at once, and the opcode that each acts on
(R507, R678). -/
inductive Sys2Proof.Machine.TicketSays (ring seq : Nat) : Instr → List HbmXfer → Nat → Prop
  | nop : TicketSays ring seq (.nop ring seq) [] 0x00
  | formeLoad (hbm : List HbmXfer) : TicketSays ring seq (.formeLoad ring ⟨seq, hbm⟩) hbm 0x01
  | chaseStart : TicketSays ring seq (.chaseStart ring seq) [] 0x02
  | chaseStop : TicketSays ring seq (.chaseStop ring seq) [] 0x03
  | chaseTeardown : TicketSays ring seq (.chaseTeardown ring seq) [] 0x04
  | load (hbm : List HbmXfer) : TicketSays ring seq (.load ring ⟨seq, hbm⟩) hbm 0x10
  | setBlank : TicketSays ring seq (.setBlank ring seq) [] 0x10
  | sealState : TicketSays ring seq (.seal ring seq) [] 0x10
  | abort : TicketSays ring seq (.abort ring seq) [] 0x10
  | galleySwitch : TicketSays ring seq (.galleySwitch ring seq) [] 0x11
  | galleyRead (hbm : List HbmXfer) : TicketSays ring seq (.galleyRead ring ⟨seq, hbm⟩) hbm 0x12
  | dataWrite (hbm : List HbmXfer) : TicketSays ring seq (.dataWrite ring ⟨seq, hbm⟩) hbm 0x20
  | dataRead (hbm : List HbmXfer) : TicketSays ring seq (.dataRead ring ⟨seq, hbm⟩) hbm 0x21
  | sample (hbm : List HbmXfer) : TicketSays ring seq (.sample ring ⟨seq, hbm⟩) hbm 0x30
  | impHint : TicketSays ring seq (.impHint ring seq) [] 0x40
  | markOp : TicketSays ring seq (.markOp ring seq) [] 0x50
  | markWait : TicketSays ring seq (.markWait ring seq) [] 0x51
  | qpCreate : TicketSays ring seq (.qpCreate ring seq) [] 0x60
  | qpDestroy : TicketSays ring seq (.qpDestroy ring seq) [] 0x61
  | mrRegister : TicketSays ring seq (.mrRegister ring seq) [] 0x62
  | mrDeregister : TicketSays ring seq (.mrDeregister ring seq) [] 0x63
  | coreJob (posts : List (Nat × Bytes)) (asks : List CoreAsk) : TicketSays ring seq (.coreJob ring seq posts asks) [] 0x70

/-- The state in which a ticket does its work: its own command has acted. -/
def Sys2Proof.Machine.State.turnTaken (s : State) (ring seq : Nat) : State :=
  s.updTicket ring seq fun y => { y with acted := true }

/-- The work of a ticket goes on, its outcome still open. -/
def Sys2Proof.Machine.State.underWay (s : State) (ring seq : Nat) : Prop :=
  ∃ x, s.ticket? ring seq = some x ∧ x.acted = true ∧ x.done = false

/-- Reading the source of a ticket answers these bytes, these of them poisoned, and leaves `s1` (R676, R812). -/
def Sys2Proof.Machine.State.sourceReads (s : State) (ring seq : Nat) (x : Ticket) (n : Nat) (b : Bytes) (bad : List (Nat × Nat))
    (s1 : State) : Prop :=
  (s.turnTaken ring seq).srcRead x (tpSrcSpace x.raw) (tpSrc x.raw) n = (s1, some (b, bad))

/-- The rows and exponents that a load record names are read: their bytes, and the state after both reads (R323, R324). -/
structure Sys2Proof.Machine.State.rowsRead (s1 : State) (x : Ticket) (b : Bytes) (r : Nat) (rows exps : Bytes)
    (badR badE : List (Nat × Nat)) (s3 : State) : Prop where
  inRange : s1.runOk (tkSlot x.raw) (tpSub x.raw) (glrRows b) (glrCount b * r) = true ∧
    s1.runOk (tkSlot x.raw) (tpSub x.raw) (glrExps b) (glrCount b) = true
  read : ∃ s2, s1.srcRead x (tpSub x.raw) (glrRows b) (glrCount b * r) = (s2, some (rows, badR)) ∧
    s2.srcRead x (tpSub x.raw) (glrExps b) (glrCount b) = (s3, some (exps, badE))

/-- The slug that a loaded row of a galley leaves, and whether its exponent was out of range (R324). -/
def Sys2Proof.Machine.loadedSlug (g : GalleySt) (rows exps : Bytes) (badR badE : List (Nat × Nat)) : Slug × Bool :=
  loadSlug g (slice rows 0 g.r) (sextNat 8 (u8At exps 0)) (badIn badR 0 g.r || badIn badE 0 1)

/-- For every ticket command, in the state that its transfers of HBM leave: a begun ticket in its turn that breaks a check on
its layout, privilege, path or ranges completes with the status of the first check that fails, no detail, and none of its work
done: no register, memory, mark or other part changes (GALLEY_READ may let a draining state go that nothing reads any more).
Where no such ticket has begun, or it has acted or is done, or it has another opcode, or an earlier chase ticket of its ring for
the slot is unfinished, or a galley ticket meets its slot in VALIDATING, the command does no more than its transfers. (R671,
R675, R676, R677, R678, R682, R332) -/
def Obligations.TicketsFailBeforeTheirWork : Prop :=
  ∀ (ring seq op : Nat) (c : Instr) (hbm : List HbmXfer) (s u : State), s.canonical = true → TicketSays ring seq c hbm op →
    u = s.xfersStart hbm →
    (∀ x st, u.isReady = true → u.ticket? ring seq = some x → x.acted = false → x.done = false → tkOpcode x.raw = op →
      (isChaseTicket op = true → u.chaseOrderOk x = true) → u.galleyWaits x = false → u.ticketCheck ring x.raw = some st →
      ∃ t, exec c s = .next t ∧ t.ticketEnds ring seq st [] ∧
        State.SameBut [] (if op = 0x12 then [.host, .chases] else [.host]) (u.xfersStop hbm) t ∧ t.host.rings = u.host.rings ∧
        t.host.heldWrites = u.host.heldWrites) ∧
    (u.isReady = false ∨ u.ticket? ring seq = none → exec c s = .next (u.xfersStop hbm)) ∧
    (∀ x, u.ticket? ring seq = some x →
      x.acted = true ∨ x.done = true ∨ tkOpcode x.raw ≠ op ∨ (isChaseTicket op = true ∧ u.chaseOrderOk x = false) ∨
        u.galleyWaits x = true →
      exec c s = .next (u.xfersStop hbm))

/-- The stop stroke that a CHASE_STOP of a running chase leaves in force: the lowest named (R101, R102). -/
def Sys2Proof.Machine.State.stopStroke (s : State) (c : Nat) : Nat :=
  match (s.chase c).stopAt with
  | some m => min m (s.getF Fld.stkNumber c + 2)
  | none => s.getF Fld.stkNumber c + 2

/-- NOP completes with OK and nothing else. FORME_LOAD into an EMPTY, LOADED or FAULTED slot loads a forme that the
validator accepts: the slot is LOADED with it; a rejected forme leaves slot and forme, and gives CHASE with the code
and its place. CHASE_START of a LOADED or FAULTED slot, with no fatal error and its regions valid, goes to JOINING
with fault, slips and parking cleared, and stays under way; a member that has joined with another digest ends it with
PEER_MISMATCH in its former state; a region no longer valid leaves it FAULTED. CHASE_STOP of a JOINING slot returns it
to LOADED; of a RUNNING slot it leaves it STOPPING, its stop stroke the lower of the one named and two strokes on, or, where
the GO held is for that stroke or a later one, stops it at once in LOADED. In any other state of the slot each completes with CHASE and CHASE_BUSY and does nothing else. (R92, R94, R95, R96, R98,
R99, R101, R102, R104, R132, R874, R678) -/
def Obligations.ChaseTicketsAct : Prop :=
  (∀ (ring seq : Nat) (x : Ticket) (s : State), s.canonical = true → s.atTurn ring seq 0x00 x →
    ∃ t, exec (.nop ring seq) s = .next t ∧ t.ticketEnds ring seq stOk [] ∧ State.SameBut [] [.host] s t) ∧
  (∀ (ring seq : Nat) (x : Ticket) (hbm : List HbmXfer) (s u : State), s.canonical = true → u = s.xfersStart hbm → u.atTurn ring seq 0x01 x →
    (u.cs (tkSlot x.raw) = csEmpty ∨ u.cs (tkSlot x.raw) = csLoaded ∨ u.cs (tkSlot x.raw) = csFaulted →
      ∀ f bad s1, ((u.turnTaken ring seq).beginForme (tkSlot x.raw)).srcRead x (tpSrcSpace x.raw) (tpSrc x.raw)
        (min (tpLen x.raw) (2 ^ 26)) = (s1, some (f, bad)) →
      (s1.validate (tkSlot x.raw) f (tpLen x.raw) = none →
        ∃ t, exec (.formeLoad ring ⟨seq, hbm⟩) s = .next t ∧ t.ticketEnds ring seq stOk (dForme 0 0 0) ∧
          t.cs (tkSlot x.raw) = csLoaded ∧ t.forme (tkSlot x.raw) = f) ∧
      (∀ e, s1.validate (tkSlot x.raw) f (tpLen x.raw) = some e →
        ∃ t, exec (.formeLoad ring ⟨seq, hbm⟩) s = .next t ∧ t.ticketEnds ring seq stChase (dForme e.code e.ty e.off) ∧
          t.cs (tkSlot x.raw) = u.cs (tkSlot x.raw) ∧ t.forme (tkSlot x.raw) = u.forme (tkSlot x.raw)))) ∧
  (∀ (ring seq : Nat) (x : Ticket) (s : State), s.canonical = true → s.atTurn ring seq 0x02 x →
    s.cs (tkSlot x.raw) = csLoaded ∨ s.cs (tkSlot x.raw) = csFaulted → s.flag Fld.rasFatal 0 = false →
    (s.regionsGone (tkSlot x.raw) = false → (∀ j ∈ (s.chase (tkSlot x.raw)).joined, j.2 = fhHeaderDigest (s.forme (tkSlot x.raw))) →
      ∃ t, exec (.chaseStart ring seq) s = .next t ∧ t.underWay ring seq ∧ t.cs (tkSlot x.raw) = csJoining ∧
        t.getF Fld.stkFault (tkSlot x.raw) = 0 ∧ t.getF Fld.stkConsecSlips (tkSlot x.raw) = 0 ∧
        t.flag Fld.stkParked (tkSlot x.raw) = false ∧ t.activeCtx (tkSlot x.raw) = 0) ∧
    (s.regionsGone (tkSlot x.raw) = false → (∃ j ∈ (s.chase (tkSlot x.raw)).joined, j.1 ≠ s.ordinal (tkSlot x.raw) ∧
        j.2 ≠ fhHeaderDigest (s.forme (tkSlot x.raw))) →
      ∃ t, exec (.chaseStart ring seq) s = .next t ∧ t.ticketEnds ring seq stChase (dForme vePeerMismatch 0 0) ∧
        t.cs (tkSlot x.raw) = s.cs (tkSlot x.raw)) ∧
    (s.regionsGone (tkSlot x.raw) = true →
      ∃ t, exec (.chaseStart ring seq) s = .next t ∧ t.cs (tkSlot x.raw) = csFaulted ∧
        t.ticketEnds ring seq stChase (dForme veRegionInvalid 1 (s.regionsOff (tkSlot x.raw))))) ∧
  (∀ (ring seq : Nat) (x : Ticket) (s : State), s.canonical = true → s.atTurn ring seq 0x03 x →
    (s.cs (tkSlot x.raw) = csJoining →
      ∃ t, exec (.chaseStop ring seq) s = .next t ∧ t.ticketEnds ring seq stOk (dValue 0 0) ∧ t.cs (tkSlot x.raw) = csLoaded ∧
        (t.chase (tkSlot x.raw)).joined = [] ∧ (t.chase (tkSlot x.raw)).startStroke = none) ∧
    (s.cs (tkSlot x.raw) = csRunning →
      (∀ m b, (s.chase (tkSlot x.raw)).verdict = some (m, b) → m < s.stopStroke (tkSlot x.raw)) →
      ∃ t, exec (.chaseStop ring seq) s = .next t ∧ t.underWay ring seq ∧ t.cs (tkSlot x.raw) = csStopping ∧
        (t.chase (tkSlot x.raw)).stopAt = some (s.stopStroke (tkSlot x.raw))) ∧
    (∀ m b, s.cs (tkSlot x.raw) = csRunning → (s.chase (tkSlot x.raw)).verdict = some (m, b) → s.stopStroke (tkSlot x.raw) ≤ m →
      ∃ t, exec (.chaseStop ring seq) s = .next t ∧ t.ticketEnds ring seq stOk (dValue (s.stopStroke (tkSlot x.raw)) 0) ∧
        t.cs (tkSlot x.raw) = csLoaded ∧ (t.chase (tkSlot x.raw)).stopAt = none ∧ (t.chase (tkSlot x.raw)).verdict = none)) ∧
  (∀ (ring seq op : Nat) (c : Instr) (x : Ticket) (hbm : List HbmXfer) (s u : State), s.canonical = true → u = s.xfersStart hbm → TicketSays ring seq c hbm op → u.atTurn ring seq op x →
    (op = 0x01 ∧ u.cs (tkSlot x.raw) ≠ csEmpty ∧ u.cs (tkSlot x.raw) ≠ csLoaded ∧ u.cs (tkSlot x.raw) ≠ csFaulted) ∨
      (op = 0x02 ∧ ((u.cs (tkSlot x.raw) ≠ csLoaded ∧ u.cs (tkSlot x.raw) ≠ csFaulted) ∨ u.flag Fld.rasFatal 0 = true)) ∨
      (op = 0x03 ∧ u.cs (tkSlot x.raw) ≠ csJoining ∧ u.cs (tkSlot x.raw) ≠ csRunning) ∨
      (op = 0x04 ∧ u.cs (tkSlot x.raw) ≠ csLoaded ∧ u.cs (tkSlot x.raw) ≠ csFaulted) →
    ∃ t, exec c s = .next t ∧ t.ticketEnds ring seq stChase (dForme veChaseBusy 0 0) ∧ State.SameBut [] [.host] (u.xfersStop hbm) t)

/-- The host holds no copy of a line, and no write of it waits for the host's answer (R647). -/
def Sys2Proof.Machine.State.hostFree (s : State) (line : Nat) : Prop :=
  s.snooped line = false ∧ ∀ h, h / 64 = line → heldByte s.host.heldWrites h = none

/-- The frames of a row's slot and tag are the incoming state's own (R318), each of their bytes stands at an HBM byte of its own,
and the host holds no copy of their lines. -/
structure Sys2Proof.Machine.State.ownPlace (s : State) (c : Nat) (g : GalleySt) (x : GalState) (p : RowPlace) : Prop where
  own : g.mustCopy x p.slotF = false ∧ g.mustCopy x p.tagF = false
  within : p.slotO + slotBytes g.r ≤ 4096 ∧ p.tagO + 2 ≤ 4096
  placed : ∀ i off, i = p.slotF ∨ i = p.tagF → off < 4096 →
    ∃ h, s.galHa c x.map i off = some h ∧ h < hbmTop ∧ s.hostFree (h / 64)
  apart : ∀ i j a b h, i = p.slotF ∨ i = p.tagF → j = p.slotF ∨ j = p.tagF → a < 4096 → b < 4096 →
    s.galHa c x.map i a = some h → s.galHa c x.map j b = some h → i = j ∧ a = b
  sole : p.slotF ≠ p.tagF ∨ p.slotO + slotBytes g.r ≤ p.tagO

/-- A place of a state's map holds a slug: the slot's bytes and the tag's (R305, R306). -/
def Sys2Proof.Machine.State.holdsSlug (s : State) (c : Nat) (g : GalleySt) (x : GalState) (p : RowPlace) (v : Slug) : Prop :=
  s.galRead false c x.map p.slotF p.slotO (slotBytes g.r) = v.slot g.r ∧ s.galRead false c x.map p.tagF p.tagO 2 = natLe 2 v.tag

/-- Each in the state that its ticket's transfers of HBM leave. A load record that fails a check of R878 completes with GALLEY and the status of the first check that fails, and
changes no galley. A LOAD or SET_BLANK that passes them, with its rows and exponents readable, leaves the galley an
incoming state, and completes with OK, EXP_RANGE or, as a LOAD may, NO_SPACE. LOAD of one held row without a master,
and SET_BLANK, into frames that are the incoming state's own leave the loaded slug's bytes in its slot and tag, and
report one slug written, EXP_RANGE where its exponent is out of range. SET_BLANK with GLR_SEAL and SEAL seal the
incoming state. ABORT discards it, with a switch request that is not named. (R305, R306, R311, R312, R322, R323, R324,
R325, R326, R327, R331, R878) -/
def Obligations.GalleyLoadsReachIncomingState : Prop :=
  (∀ (ring seq : Nat) (c : Instr) (x : Ticket) (b : Bytes) (bad : List (Nat × Nat)) (hbm : List HbmXfer) (s u s1 : State), s.canonical = true → u = s.xfersStart hbm →
    u.atTurn ring seq 0x10 x → u.sourceReads ring seq x 64 b bad s1 →
    TicketSays ring seq c hbm 0x10 →
    (c = .load ring ⟨seq, hbm⟩ ∧ (glrOp b = 0 ∨ 3 < glrOp b)) ∨ (c = .setBlank ring seq ∧ glrOp b = 1) ∨ (c = .seal ring seq ∧ glrOp b = 2) ∨
      (c = .abort ring seq ∧ glrOp b = 3) →
    ∀ st, s1.loadCheck (tkSlot x.raw) b = some st →
      ∃ t, exec c s = .next t ∧ t.ticketEnds ring seq stGalley (dLoad st 0 0) ∧
        ∀ k id, t.galley k id = u.galley k id) ∧
  (∀ (ring seq : Nat) (x : Ticket) (b : Bytes) (bad badR badE : List (Nat × Nat)) (rows exps : Bytes) (g : GalleySt) (hbm : List HbmXfer) (s u s1 s3 : State),
    s.canonical = true → u = s.xfersStart hbm → u.atTurn ring seq 0x10 x → u.sourceReads ring seq x 64 b bad s1 → s1.loadCheck (tkSlot x.raw) b = none →
    s1.galley (tkSlot x.raw) (glrGalley b) = some g → s1.rowsRead x b g.r rows exps badR badE s3 →
    g.incoming.isSome = true ∨ g.serving.isSome = true →
    (glrOp b = 0 →
      (∃ t g1, exec (.load ring ⟨seq, hbm⟩) s = .next t ∧ t.galley (tkSlot x.raw) (glrGalley b) = some g1 ∧ g1.incoming.isSome = true ∧
        ∃ w n, t.ticketEnds ring seq stOk (dLoad lsOk w 0) ∨ t.ticketEnds ring seq stGalley (dLoad lsExpRange w n) ∨
          t.ticketEnds ring seq stGalley (dLoad lsNoSpace w n)) ∧
      (∀ q x0, glrCount b = 1 → glrMaster b = false → s3.localRow (tkSlot x.raw) g (glrFirst b) = some q → g.incoming = some x0 →
        s3.ownPlace (tkSlot x.raw) g x0 (rowPlace g.r q) →
        ∃ t g1 v, exec (.load ring ⟨seq, hbm⟩) s = .next t ∧ t.galley (tkSlot x.raw) (glrGalley b) = some g1 ∧ g1.incoming = some v ∧
          v.map = x0.map ∧ t.holdsSlug (tkSlot x.raw) g v (rowPlace g.r q) (loadedSlug g rows exps badR badE).1 ∧
          ((loadedSlug g rows exps badR badE).2 = false → t.ticketEnds ring seq stOk (dLoad lsOk 1 0)) ∧
          ((loadedSlug g rows exps badR badE).2 = true → t.ticketEnds ring seq stGalley (dLoad lsExpRange 1 1)))) ∧
    (glrOp b = 1 → ∀ v, v = loadSlug g rows (sextNat 8 (u8At exps 0)) (!badR.isEmpty || !badE.isEmpty) →
      (∃ t g1 w, exec (.setBlank ring seq) u = .next t ∧ t.galley (tkSlot x.raw) (glrGalley b) = some g1 ∧ g1.incoming = some w ∧
        (glrSeal b = true → w.stage = 1) ∧ (v.2 = false → t.ticketEnds ring seq stOk (dLoad lsOk 1 0)) ∧
        (v.2 = true → t.ticketEnds ring seq stGalley (dLoad lsExpRange 1 1))) ∧
      (∀ x0, g.incoming = some x0 → s3.ownPlace (tkSlot x.raw) g x0 (blankPlace g.r) →
        ∃ t g1 w, exec (.setBlank ring seq) u = .next t ∧ t.galley (tkSlot x.raw) (glrGalley b) = some g1 ∧ g1.incoming = some w ∧
          w.map = x0.map ∧ t.holdsSlug (tkSlot x.raw) g w (blankPlace g.r) v.1))) ∧
  (∀ (ring seq : Nat) (x : Ticket) (b : Bytes) (bad : List (Nat × Nat)) (g : GalleySt) (s s1 : State), s.canonical = true →
    s.atTurn ring seq 0x10 x → s.sourceReads ring seq x 64 b bad s1 → s1.loadCheck (tkSlot x.raw) b = none →
    s1.galley (tkSlot x.raw) (glrGalley b) = some g →
    (glrOp b = 2 → ∃ t g1, exec (.seal ring seq) s = .next t ∧ t.ticketEnds ring seq stOk (dLoad lsOk 0 0) ∧
      t.galley (tkSlot x.raw) (glrGalley b) = some g1 ∧ ∀ v, g1.incoming = some v → v.stage = 1) ∧
    (glrOp b = 3 → ∃ t g1, exec (.abort ring seq) s = .next t ∧ t.ticketEnds ring seq stOk (dLoad lsOk 0 0) ∧
      t.galley (tkSlot x.raw) (glrGalley b) = some g1 ∧ g1.incoming = none ∧ g1.pending = false))

/-- GALLEY_SWITCH completes with NO_GALLEY for a galley that is not declared and NO_INCOMING for one without an incoming
state. In an idle chase, with fewer than two draining states, it commits at once: the incoming state serves and
nothing is pending; its rows stay in the frames that hold them. In an active chase it seals the incoming state and leaves the request pending. SWITCH_COMMIT
commits a pending switch of an idle chase with fewer than two draining states, and, in the lock-up phase of an active
one, a switch that the root has named; the old serving state then drains. (R328, R329, R332, R334, R878) -/
def Obligations.GalleySwitchesCommit : Prop :=
  (∀ (ring seq : Nat) (x : Ticket) (s : State), s.canonical = true → s.atTurn ring seq 0x11 x →
    (s.galley (tkSlot x.raw) (tpArg0 x.raw) = none →
      ∃ t, exec (.galleySwitch ring seq) s = .next t ∧ t.ticketEnds ring seq stGalley (dLoad lsNoGalley 0 0) ∧
        State.SameBut [] [.host] s t) ∧
    (∀ g, s.galley (tkSlot x.raw) (tpArg0 x.raw) = some g → g.incoming = none →
      ∃ t, exec (.galleySwitch ring seq) s = .next t ∧ t.ticketEnds ring seq stGalley (dLoad lsNoIncoming 0 0) ∧
        State.SameBut [] [.host] s t) ∧
    (∀ g v, s.galley (tkSlot x.raw) (tpArg0 x.raw) = some g → g.incoming = some v →
      (s.csActive (tkSlot x.raw) = false → g.draining < 2 →
        ∃ t g1 w, exec (.galleySwitch ring seq) s = .next t ∧ t.ticketEnds ring seq stOk (dLoad lsOk 0 0) ∧
          t.galley (tkSlot x.raw) (tpArg0 x.raw) = some g1 ∧ g1.incoming = none ∧ g1.serving = some w ∧ w.num = v.num ∧
          w.map = v.map ∧ w.root = v.root ∧ g1.pending = false) ∧
      (s.csActive (tkSlot x.raw) = true →
        ∃ t g1 w, exec (.galleySwitch ring seq) s = .next t ∧ t.galley (tkSlot x.raw) (tpArg0 x.raw) = some g1 ∧
          g1.pending = true ∧ g1.incoming = some w ∧ w.num = v.num ∧ w.stage = 1 ∧ w.map = v.map ∧ w.root = v.root))) ∧
  (∀ (c id : Nat) (g : GalleySt) (v : GalState) (s : State), s.canonical = true → s.isReady = true → c < 16 → s.galley c id = some g →
    g.incoming = some v →
    (s.csActive c = false → g.pending = true → g.draining < 2 →
      ∃ t g1 w, exec (.switchCommit c id) s = .next t ∧ t.galley c id = some g1 ∧ g1.pending = false ∧ g1.incoming = none ∧
        g1.serving = some w ∧ w.num = v.num ∧ w.map = v.map ∧ w.root = v.root) ∧
    (s.csActive c = true → s.getF Fld.stkPhase c = 1 → g.named.isSome = true →
      ∃ t g1 w, exec (.switchCommit c id) s = .next t ∧ t.galley c id = some g1 ∧ g1.pending = false ∧ g1.named = none ∧
        g1.incoming = none ∧ g1.serving = some w ∧ w.num = v.num ∧ w.map = v.map ∧ w.root = v.root ∧
        (∀ u, g.serving = some u → ∃ d ∈ g1.states, d.num = u.num ∧ d.stage = 3)) ∧
    (s.csActive c = true → s.getF Fld.stkPhase c ≠ 1 ∨ g.named = none → exec (.switchCommit c id) s = .next s))

/-- Each in the state that its ticket's transfers of HBM leave. DATA_WRITE of raw bytes in one backed line of which the host holds no copy leaves them in that line; with another
store form it writes what the store compressor makes of its tiles, counted in the proof. DATA_READ delivers its source
to granted host pages, and no other host byte changes; poisoned parts set a flag of the proof. GALLEY_READ delivers
each row of the named state that the member holds, zeros for the others, then the exponents, and counts the rows not
held; it fails with RANGE where there is no such galley, state or rows. SAMPLE keeps its input and waits for a slot;
it is BAD_TICKET or REFUSED as R161 and R691 say. IMP_HINT applies its records, or none of them. (R679, R687, R688,
R691, R813, R879, R161, R444) -/
def Obligations.DataTicketsMoveChaseData : Prop :=
  (∀ (ring seq : Nat) (x : Ticket) (b : Bytes) (bad : List (Nat × Nat)) (hbm : List HbmXfer) (s u s1 : State), s.canonical = true → u = s.xfersStart hbm → u.atTurn ring seq 0x20 x →
    u.sourceReads ring seq x (tpLen x.raw) b bad s1 →
    (tpSub x.raw % 4 = 0 → bad = [] → b ≠ [] → tpDst x.raw % 64 + b.length ≤ 64 →
      ∀ l, s1.chaseLoc (tkSlot x.raw) (tpDst x.raw / 64 * 64) = some (64 * l) → (64 * l + 64 ≤ hbmTop ∨ hbmTop ≤ 64 * l) →
        s1.chaseLoc (tkSlot x.raw) (tpDst x.raw) = some (64 * l + tpDst x.raw % 64) → u.snooped l = false →
        ∃ t, exec (.dataWrite ring ⟨seq, hbm⟩) s = .next t ∧ t.ticketEnds ring seq stOk (dValue 0 0) ∧
          (∀ k, k < b.length → t.sliceByte (64 * l + tpDst x.raw % 64 + k) = b.getD k 0) ∧
          ∀ h, h < hbmTop → h < 64 * l + tpDst x.raw % 64 ∨ 64 * l + tpDst x.raw % 64 + b.length ≤ h →
            t.sliceByte h = u.sliceByte h) ∧
    (tpSub x.raw % 4 ≠ 0 → ∀ p s2, storeTiles (if tpSub x.raw % 4 = 3 then 0 else tpSub x.raw % 4) (tpSub x.raw / 4 % 4) b bad = p →
      s2 = s1.bump Fld.rgnArrNmOverfull (s1.dealPhys (tkSlot x.raw) 0) p.2 →
      (s2.ticketWrite (tkSlot x.raw) (framePiecesOf (p.1.length / 4096 + 2) (tpDst x.raw) p.1)).2 = true →
      ∃ t, exec (.dataWrite ring ⟨seq, hbm⟩) s = .next t ∧ t.ticketEnds ring seq stOk (dValue p.2 0) ∧
        (∀ h, t.sliceByte h = (s2.ticketWrite (tkSlot x.raw) (framePiecesOf (p.1.length / 4096 + 2) (tpDst x.raw) p.1)).1.sliceByte h) ∧
        (hbm = [] → t.mem = (s2.ticketWrite (tkSlot x.raw) (framePiecesOf (p.1.length / 4096 + 2) (tpDst x.raw) p.1)).1.mem))) ∧
  (∀ (ring seq : Nat) (x : Ticket) (b : Bytes) (bad : List (Nat × Nat)) (hbm : List HbmXfer) (s u s1 : State), s.canonical = true → u = s.xfersStart hbm → u.atTurn ring seq 0x21 x →
    u.sourceReads ring seq x (tpLen x.raw) b bad s1 → tkDelivery x.raw = 0 →
    (∀ p ∈ pagesOf (tpDst x.raw) b.length, u.pageGranted true p = true) →
    ∃ t, exec (.dataRead ring ⟨seq, hbm⟩) s = .next t ∧ t.ticketEnds ring seq stOk [] ∧
      (bad = [] → ∀ h, memGet t.hostMem h =
        if tpDst x.raw ≤ h ∧ h < tpDst x.raw + b.length then b.getD (h - tpDst x.raw) 0 else memGet u.hostMem h) ∧
      (bad ≠ [] → ∃ y, t.ticket? ring seq = some y ∧ y.flags.testBit 2 = true)) ∧
  (∀ (ring seq : Nat) (x : Ticket) (hbm : List HbmXfer) (s u : State), s.canonical = true → u = s.xfersStart hbm → u.atTurn ring seq 0x12 x →
    (u.galley (tkSlot x.raw) (tpArg0 x.raw) = none → ∃ t, exec (.galleyRead ring ⟨seq, hbm⟩) s = .next t ∧ t.ticketEnds ring seq stRange []) ∧
    (∀ g, u.galley (tkSlot x.raw) (tpArg0 x.raw) = some g →
      (g.state (u32At (tpArgs x.raw) 0) = none ∨ tpLen x.raw = 0 →
        ∃ t, exec (.galleyRead ring ⟨seq, hbm⟩) s = .next t ∧ t.ticketEnds ring seq stRange []) ∧
      (∀ v, g.state (u32At (tpArgs x.raw) 0) = some v → tpLen x.raw ≠ 0 → u64At (tpArgs x.raw) 8 + tpLen x.raw ≤ g.slugs →
        u64At (tpArgs x.raw) 8 ≠ blankIndex → tkDelivery x.raw = 0 →
        (∀ k q, u.localRow (tkSlot x.raw) g k = some q → (u.rowIn false (tkSlot x.raw) g v q).poison = false ∧
          ((u.rowIn false (tkSlot x.raw) g v q).row g.ty g.n g.r).length = g.r) →
        (∀ p ∈ pagesOf (tpDst x.raw) (tpLen x.raw * (g.r + 1)), u.pageGranted true p = true) →
        ∃ t m, exec (.galleyRead ring ⟨seq, hbm⟩) s = .next t ∧ t.ticketEnds ring seq stOk (dValue m 0) ∧
          (m = 0 ↔ ∀ k, k < tpLen x.raw → (u.localRow (tkSlot x.raw) g (u64At (tpArgs x.raw) 8 + k)).isSome = true) ∧
          ∀ k, k < tpLen x.raw →
            (∀ q, u.localRow (tkSlot x.raw) g (u64At (tpArgs x.raw) 8 + k) = some q →
              memGetRun t.hostMem (tpDst x.raw + k * g.r) g.r = (u.rowIn false (tkSlot x.raw) g v q).row g.ty g.n g.r ∧
              memGet t.hostMem (tpDst x.raw + tpLen x.raw * g.r + k) = BitVec.ofInt 8 (u.rowIn false (tkSlot x.raw) g v q).exp) ∧
            (u.localRow (tkSlot x.raw) g (u64At (tpArgs x.raw) 8 + k) = none →
              memGetRun t.hostMem (tpDst x.raw + k * g.r) g.r = List.replicate g.r 0)))) ∧
  (∀ (ring seq : Nat) (x : Ticket) (hbm : List HbmXfer) (s u : State), s.canonical = true → u = s.xfersStart hbm → u.atTurn ring seq 0x30 x →
    (smIn x.raw = 0 ∨ 4096 < smIn x.raw ∨ 2 ^ 27 < smOut x.raw ∨ tpLen x.raw ≠ smTokens x.raw * smIn x.raw →
      ∃ t, exec (.sample ring ⟨seq, hbm⟩) s = .next t ∧ t.ticketEnds ring seq stBadTicket [] ∧ State.SameBut [] [.host] (u.xfersStop hbm) t) ∧
    (¬(smIn x.raw = 0 ∨ 4096 < smIn x.raw ∨ 2 ^ 27 < smOut x.raw ∨ tpLen x.raw ≠ smTokens x.raw * smIn x.raw) →
      (u.sampleRefused (tkSlot x.raw) x.raw = true →
        ∃ t, exec (.sample ring ⟨seq, hbm⟩) s = .next t ∧ t.ticketEnds ring seq stRefused [] ∧ State.SameBut [] [.host] (u.xfersStop hbm) t) ∧
      (u.sampleRefused (tkSlot x.raw) x.raw = false → ∀ r b bad s1, r = smRange x.raw (u.ordinal (tkSlot x.raw) - smFirst x.raw) →
        (u.turnTaken ring seq).srcRead x (tpSrcSpace x.raw) (tpSrc x.raw + r.1 * smIn x.raw) (r.2 * smIn x.raw) = (s1, some (b, bad)) →
        ∃ t y, exec (.sample ring ⟨seq, hbm⟩) s = .next t ∧ t.underWay ring seq ∧ t.ticket? ring seq = some y ∧ y.input = b ∧
          y.inputBad = bad))) ∧
  (∀ (ring seq : Nat) (x : Ticket) (b : Bytes) (bad : List (Nat × Nat)) (s s1 : State), s.canonical = true → s.atTurn ring seq 0x40 x →
    tpLen x.raw % 32 = 0 → s.sourceReads ring seq x (tpLen x.raw) b bad s1 →
    (∀ l, s.forme (tkSlot x.raw) ≠ [] → applyHints (s.chase (tkSlot x.raw)).hints (pieces 32 b) = some l →
      ∃ t, exec (.impHint ring seq) s = .next t ∧ t.ticketEnds ring seq stOk [] ∧ (t.chase (tkSlot x.raw)).hints = l) ∧
    (s.forme (tkSlot x.raw) = [] ∨ applyHints (s.chase (tkSlot x.raw)).hints (pieces 32 b) = none →
      ∃ t, exec (.impHint ring seq) s = .next t ∧ t.ticketEnds ring seq stRange [] ∧
        (t.chase (tkSlot x.raw)).hints = (s.chase (tkSlot x.raw)).hints))

/-- MARK_OP with SIGNAL signals the mark that its context and ME_ID name, where that context is active. MARK_WAIT
completes at once with the count where a counting mark has reached its target, and waits where it has not or the mark
is a barrier. Either ends with CLEARED on an inactive context, counted in MRK_STALE, and with RANGE where there is no
such mark. QP_CREATE makes a queue pair of a new number below 2^24 from an accepted record, whose number the proof
carries; QP_DESTROY removes one. MR_REGISTER makes a memory region of a new key below 2^32, which the proof carries;
MR_DEREGISTER removes one. A destroy of what does not exist ends with RANGE. CORE_JOB hands its inline data to the
resident cores. (R680, R681, R682, R695, R699, R632, R633, R559) -/
def Obligations.MarkAndQueueTicketsAct : Prop :=
  (∀ (ring seq n : Nat) (x : Ticket) (s : State), s.canonical = true →
    s.markOf (tkSlot x.raw) (tpSub x.raw % 2 ^ 6) (tpArg0 x.raw) = some n → n < 2 ^ 14 →
    (tpSub x.raw % 2 ^ 6 = s.activeCtx (tkSlot x.raw) → (s.mark n).waits = [] →
      (s.atTurn ring seq 0x50 x → tpSub x.raw / 2 ^ 14 % 4 = 0 → u16At (tpArgs x.raw) 0 ≠ 0 →
        ∃ t, exec (.markOp ring seq) s = .next t ∧ t.ticketEnds ring seq stOk [] ∧ t.signalled s n (u16At (tpArgs x.raw) 0)) ∧
      (s.atTurn ring seq 0x51 x → s.flag Fld.mrkBarrier n = false → s.getF Fld.mrkTarget n ≤ s.getF Fld.mrkCount n →
        ∃ t, exec (.markWait ring seq) s = .next t ∧ t.ticketEnds ring seq stOk (dValue (s.getF Fld.mrkCount n) 0) ∧
          t.getF Fld.mrkCount n = s.getF Fld.mrkCount n) ∧
      (s.atTurn ring seq 0x51 x → s.flag Fld.mrkBarrier n = true ∨ s.getF Fld.mrkCount n < s.getF Fld.mrkTarget n →
        ∃ t, exec (.markWait ring seq) s = .next t ∧ t.underWay ring seq ∧
          (t.mark n).waits = [.ticket ring seq (s.mark n).flips] ∧ t.getF Fld.mrkWaiters n = 1)) ∧
    (∀ op c hbm, TicketSays ring seq c hbm op → op = 0x50 ∨ op = 0x51 → s.atTurn ring seq op x →
      tpSub x.raw % 2 ^ 6 ≠ s.activeCtx (tkSlot x.raw) →
      ∃ t d, exec c s = .next t ∧ t.ticketEnds ring seq stCleared d ∧ State.SameBut [.mrkEvents] [.host] s t ∧
        t.getF Fld.mrkStale (tkSlot x.raw) = min (s.getF Fld.mrkStale (tkSlot x.raw) + 1) (2 ^ 16 - 1))) ∧
  (∀ (ring seq op : Nat) (c : Instr) (hbm : List HbmXfer) (x : Ticket) (s : State), s.canonical = true → TicketSays ring seq c hbm op →
    s.atTurn ring seq op x →
    ((op = 0x50 ∨ op = 0x51) ∧ s.markOf (tkSlot x.raw) (tpSub x.raw % 2 ^ 6) (tpArg0 x.raw) = none) ∨
      (op = 0x61 ∧ s.qp? (tpArg0 x.raw) = none) ∨ (op = 0x63 ∧ kvGet s.eth.mrs (tpArg0 x.raw) = none) →
    ∃ t, exec c s = .next t ∧ t.ticketEnds ring seq stRange [] ∧ State.SameBut [] [.host] s t) ∧
  (∀ (ring seq : Nat) (x : Ticket) (b : Bytes) (bad : List (Nat × Nat)) (s s1 : State), s.canonical = true → s.atTurn ring seq 0x60 x →
    s.sourceReads ring seq x 64 b bad s1 →
    (qpRecordOk b = true → s.sipOk b = true → bad = [] → s.eth.qps.length < 16384 →
      ∃ t n q, exec (.qpCreate ring seq) s = .next t ∧ t.ticketEnds ring seq stOk (dValue n 0) ∧ n < 2 ^ 24 ∧ s.qp? n = none ∧
        t.qp? n = some q ∧ q.slot = tkSlot x.raw ∧ q.raw = b ∧ q.txPsn = u32At b 52 ∧ q.rxPsn = u32At b 56 ∧ q.err = false ∧
        t.getF Fld.ethQpUsed 0 = s.eth.qps.length + 1) ∧
    (qpRecordOk b = false ∨ s.sipOk b = false ∨ bad ≠ [] →
      ∃ t, exec (.qpCreate ring seq) s = .next t ∧ t.ticketEnds ring seq stRange [] ∧ t.eth = s.eth)) ∧
  (∀ (ring seq : Nat) (x : Ticket) (q : Qp) (s : State), s.canonical = true → s.atTurn ring seq 0x61 x →
    s.qp? (tpArg0 x.raw) = some q → (s.eth.qps.map (·.1)).Pairwise (· < ·) → s.eth.qps.length < 2 ^ 16 →
    ∃ t, exec (.qpDestroy ring seq) s = .next t ∧ t.ticketEnds ring seq stOk [] ∧ t.qp? (tpArg0 x.raw) = none ∧
      (∀ n, n ≠ tpArg0 x.raw → t.qp? n = s.qp? n) ∧ t.getF Fld.ethQpUsed 0 = s.eth.qps.length - 1) ∧
  (∀ (ring seq : Nat) (x : Ticket) (s : State), s.canonical = true → s.atTurn ring seq 0x62 x → s.eth.mrs.length < 4096 →
    ∃ t k m, exec (.mrRegister ring seq) s = .next t ∧ t.ticketEnds ring seq stOk (dValue k 0) ∧ k < 2 ^ 32 ∧
      kvGet s.eth.mrs k = none ∧ kvGet t.eth.mrs k = some m ∧ m.base = tpSrc x.raw ∧ m.len = tpLen x.raw ∧
      m.slot = (if tpSrcSpace x.raw = 2 then some (tkSlot x.raw) else none) ∧ m.rd = (tpSub x.raw).testBit 0 ∧
      m.wr = (tpSub x.raw).testBit 1 ∧ m.valid = true ∧ t.getF Fld.ethMrUsed 0 = s.eth.mrs.length + 1) ∧
  (∀ (ring seq : Nat) (x : Ticket) (m : Mr) (s : State), s.canonical = true → s.atTurn ring seq 0x63 x →
    kvGet s.eth.mrs (tpArg0 x.raw) = some m → (s.eth.mrs.map (·.1)).Pairwise (· < ·) → s.eth.mrs.length < 2 ^ 16 →
    ∃ t, exec (.mrDeregister ring seq) s = .next t ∧ t.ticketEnds ring seq stOk [] ∧ kvGet t.eth.mrs (tpArg0 x.raw) = none ∧
      (∀ n, n ≠ tpArg0 x.raw → kvGet t.eth.mrs n = kvGet s.eth.mrs n) ∧ t.getF Fld.ethMrUsed 0 = s.eth.mrs.length - 1) ∧
  (∀ (ring seq : Nat) (posts : List (Nat × Bytes)) (asks : List CoreAsk) (x : Ticket) (s : State), s.canonical = true →
    s.atTurn ring seq 0x70 x →
    ∃ t d, exec (.coreJob ring seq posts asks) s = .next t ∧ t.ticketEnds ring seq stOk d ∧
      .coreJob (slice (tkInline x.raw) 0 (tkInlineLen x.raw)) ∈ t.out)

/-! ### Strokes (chapter 3) -/

/-- The begun tickets of an opcode that act for a slot and are not done end with this outcome (R684). -/
def Sys2Proof.Machine.State.endsTickets (t s : State) (slot op status : Nat) (detail : Bytes) : Prop :=
  ∀ ring seq x, s.ticket? ring seq = some x → x.acted = true → x.done = false → tkOpcode x.raw = op → tkSlot x.raw = slot →
    t.ticketEnds ring seq status detail

/-- The three ways in which a boundary of a striking chase is slipped: the root judges so, its verdict says so, or no verdict
comes (R123, R126, R127). -/
inductive Sys2Proof.Machine.State.SlipSays (s : State) (slot : Nat) : Instr → Prop
  | root (h : s.ordinal slot = 0) : State.SlipSays s slot (.slip slot)
  | told (m start : Nat) (named : List (Nat × Nat)) (h : s.ordinal slot ≠ 0) (hm : (s.chase slot).judge ≤ m) :
      State.SlipSays s slot (.verdict slot m false start named)
  | silent (h : s.ordinal slot ≠ 0) : State.SlipSays s slot (.verdictTimeout slot)

/-- The lock-up of a GO verdict begins the stroke that it names: STK_NUMBER is its number, one more stroke has begun, and
a start after the boundary, as the counter now shows it, counts as a hold where no step of the counter waits to be adopted. While migrations are left, with no substitution, realignment or context
switch due, the lock-up stays in its phase 1. The lock-up of a joined chase whose regions are valid leaves it RUNNING,
with its CHASE_START tickets done; one whose regions are gone faults. At the end of the budget a parked chase finishes
its stroke at once; another reaches the plate of STK_PLATE, which starts where it waits for no mark and no ink. A run
phase that runs late is counted once in a stroke. (R93, R96, R100, R109, R115, R117, R118, R119, R121, R124, R140) -/
def Obligations.StrokesBeginAndReachPlates : Prop :=
  (∀ (c n start left : Nat) (peers : List GuestCopy) (s : State), s.canonical = true → s.isReady = true → c < 16 →
    s.csStriking c = true → (s.chase c).verdict = some (n, start) → n < 2 ^ 64 →
    ∃ t, exec (.lockUp c left peers) s = .next t ∧ t.getF Fld.stkNumber c = n ∧
      (t.chase c).begunCount = (s.chase c).begunCount + 1 ∧
      ((s.chase c).pendingStep = none → t.getF Fld.stkHoldTotal c =
        (s.getF Fld.stkHoldTotal c + if ((s.boundary c n : Nat) : Int) + (s.chase c).goShift < start then 1 else 0) % 2 ^ 32) ∧
      (left ≠ 0 → (s.chase c).substituting = false → (s.chase c).realign = false → s.flag Fld.mrkSwPending c = false →
        t.getF Fld.stkPhase c = 1 ∧ t.cs c = s.cs c)) ∧
  (∀ (c n left : Nat) (peers : List GuestCopy) (s : State), s.canonical = true → s.isReady = true → c < 16 → s.cs c = csJoining →
    (s.chase c).startStroke = some n → n < 2 ^ 64 →
    (s.regionsGone c = false → left ≠ 0 → (s.chase c).substituting = false → (s.chase c).realign = false →
      s.flag Fld.mrkSwPending c = false →
      ∃ t, exec (.lockUp c left peers) s = .next t ∧ t.cs c = csRunning ∧ t.getF Fld.stkNumber c = n ∧
        t.getF Fld.stkPhase c = 1 ∧ t.endsTickets s c 0x02 stOk []) ∧
    (s.regionsGone c = true →
      ∃ t, exec (.lockUp c left peers) s = .next t ∧ t.cs c = csFaulted ∧
        t.endsTickets s c 0x02 stChase (dForme veRegionInvalid 1 (s.regionsOff c)))) ∧
  (∀ (c : Nat) (s : State), s.canonical = true → s.isReady = true → c < 16 → s.csStriking c = true → s.getF Fld.stkPhase c = 1 →
    (s.flag Fld.stkParked c = true → ∃ t, exec (.lockupBudgetEnd c) s = .next t ∧ (t.chase c).finished = true) ∧
    (s.flag Fld.stkParked c = false → (plateAt (s.forme c) (s.getF Fld.stkPlate c)).wait = none16 →
      (plateAt (s.forme c) (s.getF Fld.stkPlate c)).ink = 0xFF →
      ((s.chase c).inDist = true ∨ (plateAt (s.forme c) (s.getF Fld.stkPlate c)).isDist = true →
        (plateAt (s.forme c) (s.getF Fld.stkPlate c)).runOnly = false) →
      ∃ t, exec (.lockupBudgetEnd c) s = .next t ∧ (t.chase c).plate.index = s.getF Fld.stkPlate c ∧
        (t.chase c).plate.started = true ∧ (t.chase c).plate.worked = false ∧ t.getF Fld.stkPhase c =
          (if (s.chase c).inDist || (plateAt (s.forme c) (s.getF Fld.stkPlate c)).isDist then 3 else 2))) ∧
  (∀ (c : Nat) (s : State), s.canonical = true → s.isReady = true → c < 16 → s.csStriking c = true → s.getF Fld.stkPhase c = 2 →
    (s.chase c).inDist = false → (s.chase c).finished = false →
    ((s.chase c).lateCounted = false → ∃ t, exec (.lateRun c) s = .next t ∧
      t.getF Fld.stkLateRun c = (s.getF Fld.stkLateRun c + 1) % 2 ^ 32 ∧ (t.chase c).lateCounted = true) ∧
    ((s.chase c).lateCounted = true → exec (.lateRun c) s = .next s))

/-- The root keeps each member's done message of the stroke. With the last of them, at a time that with the announce
latency L lies no later than the boundary B, it gives GO at B; no later than B + H, GO at that time; later it gives
none. A member holds a GO verdict until its stroke begins; a stopping chase whose stop stroke has come goes to LOADED
instead; a verdict on a boundary already judged begins nothing, and of the chase only the switches that a GO names become
due. A boundary slipped
while no step of the counter waits to be adopted counts in STK_SLIP_TOTAL and STK_CONSEC_SLIPS; the third in a row, no substitution running, faults the chase with SLIP_LIMIT.
(R122, R123, R124, R126, R127, R129, R130, R131, R132, R329) -/
def Obligations.BoundariesAreJudged : Prop :=
  (∀ (c i stamp : Nat) (s : State), s.canonical = true → s.isUp = true → c < 16 → s.csStriking c = true → s.ordinal c = 0 → 0 < i →
    i < s.members c → (∀ d ∈ (s.chase c).dones, d.1 ≠ i) →
    ((∃ k, k < s.members c ∧ k ≠ i ∧ ∀ d ∈ (s.chase c).dones, d.1 ≠ k) →
      ∃ t, exec (.done c i stamp) s = .next t ∧ (t.chase c).dones = (s.chase c).dones ++ [(i, stamp)] ∧
        (t.chase c).verdict = (s.chase c).verdict) ∧
    ((∀ k, k < s.members c → k ≠ i → ∃ d ∈ (s.chase c).dones, d.1 = k) → (s.chase c).verdict = none → (s.chase c).stopAt = none →
      ∃ t, exec (.done c i stamp) s = .next t ∧ (t.chase c).verdict =
        if s.chaseNow c + s.announceNs c ≤ s.boundary c (s.chase c).judge then some ((s.chase c).judge, s.boundary c (s.chase c).judge)
        else if s.chaseNow c + s.announceNs c ≤ s.boundary c (s.chase c).judge + s.holdNs c then
          some ((s.chase c).judge, s.chaseNow c + s.announceNs c) else none)) ∧
  (∀ (c m start : Nat) (named : List (Nat × Nat)) (s : State), s.canonical = true → s.isUp = true → c < 16 → s.csStriking c = true →
    s.ordinal c ≠ 0 →
    (∀ go, m < (s.chase c).judge ∨ (s.chase c).verdict.isSome = true →
      ∃ t, exec (.verdict c m go start named) s = .next t ∧ t.cs c = s.cs c ∧ (t.chase c).verdict = (s.chase c).verdict ∧
        (t.chase c).judge = (s.chase c).judge ∧ (go = false ∨ (s.chase c).judge ≤ m → t.chase c = s.chase c) ∧
        (go = true → m < (s.chase c).judge → ∀ id num g, (id, num) ∈ named → s.galley c id = some g →
          t.galley c id = some { g with named := some m })) ∧
    ((s.chase c).judge ≤ m → (s.chase c).verdict = none →
      (s.cs c = csRunning ∨ (∀ n, (s.chase c).stopAt = some n → m < n) →
        ∃ t, exec (.verdict c m true start named) s = .next t ∧ (t.chase c).verdict = some (m, start) ∧ t.cs c = s.cs c) ∧
      (∀ n, s.cs c = csStopping → (s.chase c).stopAt = some n → n ≤ m →
        ∃ t, exec (.verdict c m true start named) s = .next t ∧ t.cs c = csLoaded ∧ (t.chase c).stopAt = none ∧
          t.getF Fld.stkPhase c = 0 ∧ t.endsTickets s c 0x03 stOk (dValue n 0)))) ∧
  (∀ (c : Nat) (i : Instr) (s : State), s.canonical = true → s.isUp = true → c < 16 → s.csStriking c = true → s.SlipSays c i →
    (s.chase c).verdict = none → (s.chase c).pendingStep = none →
    ∃ t, exec i s = .next t ∧ t.getF Fld.stkSlipTotal c = (s.getF Fld.stkSlipTotal c + 1) % 2 ^ 32 ∧
      ((s.chase c).substituting = false → s.getF Fld.stkConsecSlips c < 2 →
        t.getF Fld.stkConsecSlips c = s.getF Fld.stkConsecSlips c + 1 ∧ ((s.chase c).stopAt = none → t.cs c = s.cs c)) ∧
      ((s.chase c).substituting = false → s.getF Fld.stkConsecSlips c = 2 →
        t.cs c = csFaulted ∧ t.getF Fld.stkFault c = fSlipLimit) ∧
      ((s.chase c).substituting = true → s.getF Fld.stkConsecSlips c < 3 →
        t.getF Fld.stkConsecSlips c = s.getF Fld.stkConsecSlips c ∧
        t.getF Fld.rasRepairSlips 0 = min (s.getF Fld.rasRepairSlips 0 + 1) (2 ^ 16 - 1)))

/-- JOIN records the member's digest and the time; in a JOINING chase another digest than the forme's ends the start with
PEER_MISMATCH in the former state, and the last matching one lets the root fix the start stroke. JOIN_TIMEOUT ends the
start with PEER_TIMEOUT. START gives a member its start stroke, epoch and L. STOP leaves a striking chase STOPPING,
the lowest stop stroke in force, or, with a GO held for that stroke or a later one, in LOADED. FAULT faults an active chase with PEER_FAULT; an idle one
only forgets that the member had joined. SWITCH_REQ
records a member's request at the root, or with state 0 cancels it. SUMMARY keeps a contribution until every member's
is in; then the slot holds the combined summary of all, marked as the chase's. SUMMARY_RESULT puts the combined
summary into the slot. (R98, R99, R100, R102, R131, R132, R151, R328, R331, R599) -/
def Obligations.MembersTellEachOther : Prop :=
  (∀ (c i latency : Nat) (d : Bytes) (s : State), s.canonical = true → s.isReady = true → c < 16 → i < s.members c → i ≠ s.ordinal c →
    (s.cs c = csLoaded ∨ s.csStriking c = true →
      ∃ t, exec (.join c i d latency) s = .next t ∧ (t.chase c).joined = kvPut (s.chase c).joined i (slice d 0 32) ∧
        (t.chase c).joinedAt = s.now ∧ t.cs c = s.cs c) ∧
    (s.cs c = csJoining → slice d 0 32 ≠ fhHeaderDigest (s.forme c) → (s.chase c).priorIdle = csLoaded ∨ (s.chase c).priorIdle = csFaulted →
      ∃ t, exec (.join c i d latency) s = .next t ∧ t.cs c = (s.chase c).priorIdle ∧
        t.endsTickets s c 0x02 stChase (dForme vePeerMismatch 0 0)) ∧
    (s.cs c = csJoining → slice d 0 32 = fhHeaderDigest (s.forme c) → (∀ j ∈ (s.chase c).joined, j.2 = fhHeaderDigest (s.forme c)) →
      (s.chase c).startStroke = none →
      ∃ t, exec (.join c i d latency) s = .next t ∧ t.cs c = csJoining ∧ ((t.chase c).startStroke.isSome = true ↔
        s.ordinal c = 0 ∧ ∀ k, k < s.members c → k = i ∨ ∃ j ∈ (s.chase c).joined, j.1 = k))) ∧
  (∀ (c : Nat) (s : State), s.canonical = true → s.isReady = true → c < 16 → s.cs c = csJoining → (s.chase c).startStroke = none →
    s.allJoined c = false → (s.chase c).priorIdle = csLoaded ∨ (s.chase c).priorIdle = csFaulted →
    ∃ t, exec (.joinTimeout c) s = .next t ∧ t.cs c = (s.chase c).priorIdle ∧
      t.endsTickets s c 0x02 stChase (dForme vePeerTimeout 0 0)) ∧
  (∀ (c n e l : Nat) (s : State), s.canonical = true → s.isReady = true → c < 16 → s.cs c = csJoining → s.ordinal c ≠ 0 →
    e < 2 ^ 64 → l < 2 ^ 16 →
    ∃ t, exec (.start c n e l) s = .next t ∧ (t.chase c).startStroke = some n ∧ t.getF Fld.stkEpoch c = e ∧
      t.getF Fld.stkAnnounce c = l ∧ t.cs c = csJoining) ∧
  (∀ (c i n : Nat) (s : State), s.canonical = true → s.isReady = true → c < 16 → i < s.members c → s.csStriking c = true →
    ((∀ m b, (s.chase c).verdict = some (m, b) → m < min n ((s.chase c).stopAt.getD n)) →
      ∃ t, exec (.stop c i n) s = .next t ∧ t.cs c = csStopping ∧
        (t.chase c).stopAt = some (min n ((s.chase c).stopAt.getD n))) ∧
    (∀ m b, (s.chase c).verdict = some (m, b) → min n ((s.chase c).stopAt.getD n) ≤ m →
      ∃ t, exec (.stop c i n) s = .next t ∧ t.cs c = csLoaded ∧ (t.chase c).stopAt = none ∧ (t.chase c).verdict = none ∧
        t.endsTickets s c 0x03 stOk (dValue (min n ((s.chase c).stopAt.getD n)) 0))) ∧
  (∀ (c i : Nat) (s : State), s.canonical = true → s.isUp = true → c < 16 → i < s.members c → s.cs c ≠ csEmpty →
    (s.csActive c = true → ∃ t, exec (.fault c i) s = .next t ∧ t.cs c = csFaulted ∧ t.getF Fld.stkFault c = fPeerFault ∧
      t.flag Fld.hifEvFault 0 = true) ∧
    (s.csActive c = false → ∃ t, exec (.fault c i) s = .next t ∧ t.cs c = s.cs c ∧
      t.chase c = { s.chase c with joined := (s.chase c).joined.filter fun j => j.1 != i })) ∧
  (∀ (c i id num : Nat) (s : State), s.canonical = true → s.isUp = true → c < 16 → i < s.members c → s.csActive c = true →
    s.ordinal c = 0 →
    ∃ t, exec (.switchReq c i id num) s = .next t ∧
      ∀ g j n, (g, j, n) ∈ (t.chase c).switchReqs ↔
        (num ≠ 0 ∧ (g, j, n) = (id, i, num)) ∨ ((g, j) ≠ (id, i) ∧ (g, j, n) ∈ (s.chase c).switchReqs)) ∧
  (∀ (c i k : Nat) (v : SummarySlot) (s : State), s.canonical = true → s.isUp = true → c < 16 → s.csStriking c = true →
    k < (s.chase c).slots.length →
    (s.ordinal c = 0 → 0 < i → i < s.members c →
      ((∃ j, j < s.members c ∧ kvGet (kvPut (s.chase c).sumParts i v) j = none) →
        ∃ t, exec (.summary c i k v) s = .next t ∧ (t.chase c).sumParts = kvPut (s.chase c).sumParts i v ∧
          t.slotAt c k = s.slotAt c k) ∧
      ((∀ j, j < s.members c → (kvGet (kvPut (s.chase c).sumParts i v) j).isSome = true) →
        ∃ t, exec (.summary c i k v) s = .next t ∧ (t.chase c).sumParts = [] ∧ (t.chase c).sumDone = true ∧
          (t.slotAt c k).chase = true ∧ (t.slotAt c k).sum = ((kvPut (s.chase c).sumParts i v).map (·.2.sum)).sum ∧
          (t.slotAt c k).count = ((kvPut (s.chase c).sumParts i v).map (·.2.count)).sum)) ∧
    (s.ordinal c ≠ 0 →
      ∃ t, exec (.summaryResult c k v) s = .next t ∧ t.slotAt c k = { v with chase := true } ∧ (t.chase c).sumDone = true))

/-! ### Plates (chapters 3, 5 to 8) -/

/-- The commands that do the work of a plate, the opcode of the plate, and what its arguments must name: the role of a GATHER,
the operation of a STATE plate (R134, R335, R366). -/
inductive Sys2Proof.Machine.PlateSays (c : Nat) (hw : List HwEvent) : Instr → Nat → (Plate → Bool) → Prop
  | gather : PlateSays c hw (.gather c hw) 1 (fun p => p.gaRole == 0)
  | split : PlateSays c hw (.split c hw) 1 (fun p => p.gaRole == 1)
  | serve : PlateSays c hw (.serve c hw) 1 (fun p => p.gaRole == 2)
  | combine : PlateSays c hw (.combine c hw) 1 (fun p => p.gaRole == 3)
  | scatter (arrival : List Nat) : PlateSays c hw (.scatter c hw arrival) 2 (fun _ => true)
  | dense : PlateSays c hw (.dense c hw) 3 (fun _ => true)
  | sparse : PlateSays c hw (.sparse c hw) 4 (fun _ => true)
  | aggregate (arrival : List Nat) : PlateSays c hw (.aggregate c hw arrival) 5 (fun _ => true)
  | frontier : PlateSays c hw (.frontier c hw) 6 (fun _ => true)
  | tint : PlateSays c hw (.tint c hw) 7 (fun _ => true)
  | reduce : PlateSays c hw (.reduce c hw) 8 (fun _ => true)
  | exchange (asks : List (Nat × Nat)) : PlateSays c hw (.exchange c ⟨hw, asks⟩) 9 (fun _ => true)
  | publish : PlateSays c hw (.publish c hw) 10 (fun p => p.stateOp == 1)
  | switch : PlateSays c hw (.switch c hw) 10 (fun p => p.stateOp == 2)
  | stateAbort : PlateSays c hw (.stateAbort c hw) 10 (fun p => p.stateOp == 3)

/-- The bags of the lookup plate in hand, as its gather record names them over a galley (R337, R338); none where the record is
not good. -/
def Sys2Proof.Machine.State.bagsInHand (s : State) (c : Nat) (g : GalleySt) : Option (List Bag) :=
  readBags (s.chaseRead c) (s.chaseRead c (s.plate c).src 64) (bitsOf (s.plate c).args 34 32 == poolWsum)
    (bitOf (s.plate c).args 37) g.slugs (s.plate c).count

/-- The record of the product plate in hand is good, with no tracer (R232, R233). -/
structure Sys2Proof.Machine.State.productInHand (s : State) (c : Nat) (r : ProductRec) (a : ProductArgs) : Prop where
  args : a = productArgsOf (s.plate c).args
  record : r = productRecOf (s.chaseRead c (s.plate c).src 64).1
  clean : (s.chaseRead c (s.plate c).src 64).2 = false
  good : productRecOk r a false = true
  placed : r.a < 2 ^ 44 ∧ r.b < 2 ^ 44 ∧ r.mask < 2 ^ 44 ∧ r.tracer < 2 ^ 44
  untraced : (s.plate c).tracer = false

/-- The command of a plate acts exactly while a plate of its opcode, role and operation is in hand, started, its work not
yet done, in the run or distribution phase of a striking chase that is not finished and no substitution is prepared;
else it has no effect. Where it acts and no check of the hardware finds anything, the plate stays in hand and its work
is done; but a REDUCE of chase scope may wait for the records of other members. A plate whose 64-byte record is
poisoned contributes nothing but poison, and no byte of memory changes. (R136, R144, R233, R393) -/
def Obligations.RunningPlatesDoTheirWork : Prop :=
  ∀ (c op : Nat) (hw : List HwEvent) (i : Instr) (f : Plate → Bool) (s : State), s.canonical = true → PlateSays c hw i op f →
    (s.plateRuns c op = false ∨ f (s.plate c) = false → exec i s = .next s) ∧
    (s.plateRuns c op = true → f (s.plate c) = true → c < 16 → hw = [] →
      ∃ t, exec i s = .next t ∧ (t.chase c).plate.index = (s.chase c).plate.index ∧ t.forme c = s.forme c ∧
        ((t.chase c).plate.worked = true ∨ (op = 8 ∧ (s.plate c).chaseScope = true ∧ (t.chase c).redSent = true)) ∧
        ((s.chaseRead c (s.plate c).src 64).2 = true → op = 2 ∨ op = 3 ∨ op = 4 ∨ op = 5 ∨ op = 6 ∨ op = 7 ∨ op = 8 ∨
            (op = 1 ∧ (s.plate c).gaRole < 2) →
          (t.chase c).plate.worked = true ∧ (t.chase c).plate.contrib = SummarySlot.fault ∧ t.mem = s.mem ∧ t.mb = s.mb))

/-- With a good record and a serving state: GATHER contributes one element for each bag and counts the galley's missing
and invalid indices and bag faults. SPLIT counts the same, holds its bags for the COMBINE two strokes on, and, while
the outbound queue has room, queues a request record for every index of a bag that neither this member nor a guest
copy holds. SERVE empties the inbound request queue and queues one partial for each origin, bag and state that it
holds requests of. COMBINE contributes one element for each bag of the SPLIT begun two strokes earlier, whose bags it
takes; with no such SPLIT it is a record fault. GATHER, SPLIT and COMBINE on a galley that the slot does not hold only
contribute poison. (R336, R338, R341, R347, R352, R353, R354, R355) -/
def Obligations.LookupPlatesServeBags : Prop :=
  (∀ (c : Nat) (g : GalleySt) (x : GalState) (bags : List Bag) (s : State), s.canonical = true → c < 16 → s.plateRuns c 1 = true →
    s.galley c (s.plate c).galley = some g → g.serving = some x → s.bagsInHand c g = some bags →
    ((s.plate c).gaRole = 0 →
      ∃ t g1, exec (.gather c []) s = .next t ∧ t.galley c (s.plate c).galley = some g1 ∧
        (t.chase c).plate.contrib.count = (s.plate c).count ∧
        g1.cnt.missing = min (g.cnt.missing + (bags.map (·.missing)).sum) (2 ^ 32 - 1) ∧
        g1.cnt.invalid = min (g.cnt.invalid + (bags.map (·.invalid)).sum) (2 ^ 32 - 1) ∧
        g1.cnt.bagFaults = min (g.cnt.bagFaults + (bags.filter (·.fault)).length) (2 ^ 32 - 1)) ∧
    ((s.plate c).gaRole = 1 →
      ∃ t g1 h, exec (.split c []) s = .next t ∧ t.galley c (s.plate c).galley = some g1 ∧
        (t.chase c).plate.contrib.count = (s.plate c).count ∧
        g1.cnt.missing = min (g.cnt.missing + (bags.map (·.missing)).sum) (2 ^ 32 - 1) ∧
        h ∈ g1.splits ∧ h.begunAt = (s.chase c).begunCount ∧ h.bags.length = (s.plate c).count ∧
        (g.reqOut.length + (bags.map fun b => b.ents.length).sum ≤ reqOutMax →
          ∀ b bag e, bags[b]? = some bag → e ∈ bag.ents → s.rowAt c (s.plate c).galley g x e.1 = none →
            s.guestAt c (s.plate c).galley g x e.1 = none →
            (⟨e.1, if bitsOf (s.plate c).args 34 32 = poolMax then 1 else e.2, b, s.ordinal c, x.num % 256⟩ : LookupReq) ∈ g1.reqOut))) ∧
  (∀ (c : Nat) (g : GalleySt) (s : State), s.canonical = true → c < 16 → s.plateRuns c 1 = true →
    s.galley c (s.plate c).galley = some g →
    ((s.plate c).gaRole = 2 →
      ∃ t g1, exec (.serve c []) s = .next t ∧ t.galley c (s.plate c).galley = some g1 ∧ g1.reqIn = [] ∧
        g1.partOut.length = g.partOut.length + ((g.reqIn.map fun r => (r.origin, r.bag, r.state)).eraseDups).length) ∧
    ((s.plate c).gaRole = 3 →
      (∀ h, g.splits.find? (fun h => h.begunAt + 2 == (s.chase c).begunCount) = some h → h.bags.length = (s.plate c).count →
        (bitOf (s.plate c).args 37 = true → h.winners ≠ 0) →
        ∃ t g1, exec (.combine c []) s = .next t ∧ t.galley c (s.plate c).galley = some g1 ∧ g1.splits = g.splits.erase h ∧
          (t.chase c).plate.contrib.count = (s.plate c).count) ∧
      (g.splits.find? (fun h => h.begunAt + 2 == (s.chase c).begunCount) = none →
        ∃ t, exec (.combine c []) s = .next t ∧ (t.chase c).plate.contrib = SummarySlot.fault ∧ t.mem = s.mem))) ∧
  (∀ (c : Nat) (i : Instr) (f : Plate → Bool) (s : State), s.canonical = true → c < 16 → s.plateRuns c 1 = true →
    PlateSays c [] i 1 f → f (s.plate c) = true → (s.plate c).gaRole ≠ 2 → s.galley c (s.plate c).galley = none →
    ∃ t, exec i s = .next t ∧ (t.chase c).plate.contrib = SummarySlot.fault ∧ t.mem = s.mem)

/-- A DENSE or SPARSE plate with a good record, not sampled and not traced, contributes one element for each of its rows
times columns; a DENSE plate runs no segment sparse. EXCHANGE with no list empties the outbound queues of its galley
and has sent to the other members for which its queues held data, and, where it was asked for guest rows, to those they went to.
PUBLISH of a galley that is neither sealed nor scattered into in this stroke leaves it an incoming state: with HBM for
its rows no row stays dirty; where it finds none, that row and those after it stay dirty, NO_SPACE is noted, and its
contribution is poison. A single dirty row whose frames are the incoming state's own stands in its slot and tag as
published. Otherwise it is a record fault. SWITCH seals the incoming state and leaves the request pending; with none
it changes no galley. STATE_ABORT discards the incoming state and its request, unless the root has named the switch.
(R232, R297, R305, R306, R311, R319, R328, R331, R367, R368, R596, R598) -/
def Obligations.WritingPlatesLeaveTheirMarks : Prop :=
  (∀ (c : Nat) (r : ProductRec) (a : ProductArgs) (s : State), s.canonical = true → c < 16 → s.productInHand c r a →
    a.sampled = false →
    (s.plateRuns c 3 = true →
      ∃ t, exec (.dense c []) s = .next t ∧ (t.chase c).plate.contrib.count = r.rows * r.cols ∧
        ∀ p, p < 20 → t.getF Fld.rgnArrSparseSegs p = s.getF Fld.rgnArrSparseSegs p) ∧
    (s.plateRuns c 4 = true →
      ∃ t, exec (.sparse c []) s = .next t ∧ (t.chase c).plate.contrib.count = r.rows * r.cols)) ∧
  (∀ (c : Nat) (asks : List (Nat × Nat)) (g : GalleySt) (s : State), s.canonical = true → c < 16 → s.plateRuns c 9 = true →
    (s.plate c).src = 0 → (s.plate c).galley ≠ none32 → s.galley c (s.plate c).galley = some g →
    ∃ t g1, exec (.exchange c ⟨[], asks⟩) s = .next t ∧ (t.chase c).plate.worked = true ∧ t.galley c (s.plate c).galley = some g1 ∧
      g1.reqOut = [] ∧ g1.partOut = [] ∧ g1.deltaOut = [] ∧ (∀ i ∈ (t.chase c).plate.sentTo, i ∈ s.others c) ∧
      (∀ i ∈ s.others c, s.queuesHold c (s.plate c) i = true → i ∈ (t.chase c).plate.sentTo) ∧
      (asks = [] → ∀ i ∈ (t.chase c).plate.sentTo, s.queuesHold c (s.plate c) i = true)) ∧
  (∀ (c : Nat) (g : GalleySt) (s : State), s.canonical = true → c < 16 → s.plateRuns c 10 = true →
    s.galley c (s.plate c).galley = some g →
    ((s.plate c).stateOp = 1 →
      ((∀ v, g.incoming = some v → v.stage = 0) → g.incoming.isSome = true ∨ g.serving.isSome = true →
        g.scatterAt ≠ some (s.chase c).begunCount → g.dirty.Pairwise (· < ·) →
        (∃ t g1, exec (.publish c []) s = .next t ∧ t.galley c (s.plate c).galley = some g1 ∧ g1.incoming.isSome = true ∧
          ((g1.published = lsOk ∧ g1.dirty = [] ∧ (t.chase c).plate.contrib = SummarySlot.empty) ∨
            (g1.published = lsNoSpace ∧ g1.dirty ≠ [] ∧ (t.chase c).plate.contrib = SummarySlot.fault))) ∧
        (∀ k x0, g.dirty = [k] → g.incoming = some x0 → s.ownPlace c g x0 (rowPlace g.r k) →
          ∃ t g1 v, exec (.publish c []) s = .next t ∧ t.galley c (s.plate c).galley = some g1 ∧ g1.dirty = [] ∧
            g1.published = lsOk ∧ g1.incoming = some v ∧ v.map = x0.map ∧
            t.holdsSlug c g v (rowPlace g.r k) (publishSlug g (s.masterRow c g k).1 (s.masterRow c g k).2).1)) ∧
      ((∃ v, g.incoming = some v ∧ v.stage = 1) ∨ g.scatterAt = some (s.chase c).begunCount →
        ∃ t, exec (.publish c []) s = .next t ∧ (t.chase c).plate.contrib = SummarySlot.fault ∧
          t.galley c (s.plate c).galley = some g)) ∧
    ((s.plate c).stateOp = 2 →
      (∀ v, g.incoming = some v →
        ∃ t g1 w, exec (.switch c []) s = .next t ∧ t.galley c (s.plate c).galley = some g1 ∧ g1.pending = true ∧
          g1.incoming = some w ∧ w.num = v.num ∧ w.stage = 1) ∧
      (g.incoming = none → ∃ t, exec (.switch c []) s = .next t ∧ t.galley c (s.plate c).galley = some g)) ∧
    ((s.plate c).stateOp = 3 →
      (g.named = none →
        ∃ t g1, exec (.stateAbort c []) s = .next t ∧ t.galley c (s.plate c).galley = some g1 ∧ g1.incoming = none ∧
          g1.pending = false) ∧
      (g.named.isSome = true → ∃ t, exec (.stateAbort c []) s = .next t ∧ t.galley c (s.plate c).galley = some g)))

/-- HOLD and BRANCH act once what PD_FENCE has them wait for has come, and do nothing before (log 146). HOLD ends the member's work in the stroke: PD_NEXT is the plate of the next one, and its arguments park the chase, ask
for a realignment, or make a context switch pending. BRANCH goes to PD_NEXT where its test of the slot holds and to
PD_ALT where it does not; in a chase of several members on a slot that is not combined it faults the chase.
PLATE_COMPLETE of a region whose units have consumed their shares records one more region as done; with the last region the plate's contribution stands in its summary
slot and PD_NEXT is in hand. A signal mark that the active context does not hold faults the chase; a signal before the
last region arrives on the mark. (R136, R140, R144, R147, R152, R153, R154, R155, R156, R530, R553, R557) -/
def Obligations.PlatesFollowEachOther : Prop :=
  (∀ (c : Nat) (s : State), s.canonical = true → s.plateSettled c = false →
    exec (.hold c) s = .next s ∧ exec (.branch c) s = .next s) ∧
  (∀ (c : Nat) (s : State), s.canonical = true → c < 16 → s.plateRuns c opHold = true → (s.plate c).sig = none16 →
    s.plateSettled c = true → (s.chase c).stopAt = none →
    ∃ t, exec (.hold c) s = .next t ∧ (t.chase c).finished = true ∧ t.getF Fld.stkPlate c = (s.plate c).next % 2 ^ 16 ∧
      t.flag Fld.stkParked c = (s.flag Fld.stkParked c || (s.plate c).args.testBit 0) ∧
      (t.chase c).realign = ((s.chase c).realign || (s.plate c).args.testBit 1) ∧
      ((s.plate c).args.testBit 2 = true → t.flag Fld.mrkSwPending c = true ∧
        t.getF Fld.mrkSwTo c = (s.plate c).args / 2 ^ 3 % 2 ^ 6)) ∧
  (∀ (c : Nat) (s : State), s.canonical = true → c < 16 → s.plateRuns c opBranch = true →
    s.plateSettled c = true →
    (s.members c ≤ 1 ∨ (s.slotAt c (s.plate c).slot).chase = true → (s.plate c).sig = none16 →
      ∃ t, exec (.branch c) s = .next t ∧ (t.chase c).plate.index =
        if branchHolds (s.plate c).cond (s.plate c).count (s.slotAt c (s.plate c).slot) then (s.plate c).next else (s.plate c).alt) ∧
    (1 < s.members c → (s.slotAt c (s.plate c).slot).chase = false →
      ∃ t, exec (.branch c) s = .next t ∧ t.cs c = csFaulted ∧ t.getF Fld.stkFault c = fBranchScope)) ∧
  (∀ (c k : Nat) (s : State), s.canonical = true → s.isReady = true → c < 16 → s.csStriking c = true →
    (s.chase c).plate.worked = true → (s.chase c).plate.flow.restsIn k = true → k ∈ s.heldRegions c → k ∉ (s.chase c).plate.regionsDone → (s.chase c).substituting = false →
    (s.chase c).finished = false → s.plateSettled c = true →
    ((s.plate c).sig = none16 →
      ((∃ j ∈ s.heldRegions c, j ≠ k ∧ j ∉ (s.chase c).plate.regionsDone) →
        ∃ t, exec (.plateComplete c k) s = .next t ∧ (t.chase c).plate.index = (s.chase c).plate.index ∧
          ∀ j, j ∈ (t.chase c).plate.regionsDone ↔ j = k ∨ j ∈ (s.chase c).plate.regionsDone) ∧
      ((∀ j ∈ s.heldRegions c, j = k ∨ j ∈ (s.chase c).plate.regionsDone) →
        ∃ t, exec (.plateComplete c k) s = .next t ∧ (t.chase c).plate.index = (s.plate c).next ∧
          ((s.plate c).sumEn = true → (s.plate c).op ≠ opBranch → (s.plate c).op ≠ opExchange →
            (s.plate c).slot < (s.chase c).slots.length → t.slotAt c (s.plate c).slot = (s.chase c).plate.contrib))) ∧
    ((s.plate c).sig ≠ none16 →
      (s.markOf c (s.activeCtx c) (s.plate c).sig = none →
        ∃ t, exec (.plateComplete c k) s = .next t ∧ t.cs c = csFaulted ∧ t.getF Fld.stkFault c = fMarkAbsent) ∧
      (∀ n, s.markOf c (s.activeCtx c) (s.plate c).sig = some n → n < 2 ^ 14 → s.flag Fld.mrkFabric n = false →
        (s.mark n).waits = [] → (∃ j ∈ s.heldRegions c, j ≠ k ∧ j ∉ (s.chase c).plate.regionsDone) →
        ∃ t, exec (.plateComplete c k) s = .next t ∧ t.signalled s n 1)))

/-! ### Accumulation groups and micro-operations (chapters 4 and 6) -/

/-- `q` is the integer nearest to `num / den`, the even one of two that are equally near (R188). -/
def Sys2Proof.Machine.roundsTo (num : Int) (den : Nat) (q : Int) : Prop :=
  2 * (num - q * (den : Int)) ≤ (den : Int) ∧ -(den : Int) ≤ 2 * (num - q * (den : Int)) ∧
    (2 * (num - q * (den : Int)) = (den : Int) ∨ 2 * (num - q * (den : Int)) = -(den : Int) → q % 2 = 0)

/-- What an active lane of a micro-operation gives (R278): the element (none: the lane is out of range and left to MU_KEEP)
and the flags, PERM_RANGE 1, OVF 2, SAT 4, DIV0 8. `a` is MU_SRC1 and `b` the second operand. -/
inductive Sys2Proof.Machine.LaneSays (cell : CellId) (u : MuFields) (e : VecEngine) (i : Nat) (a b : VElem) :
    Instr → Option VElem → Nat → Prop
  | add : LaneSays cell u e i a b (.add cell u) (some ⟨BitVec.ofInt 32 (a.bits.toInt + b.bits.toInt), a.poison || b.poison⟩)
      (if outS32 (a.bits.toInt + b.bits.toInt) then 2 else 0)
  | sub : LaneSays cell u e i a b (.sub cell u) (some ⟨BitVec.ofInt 32 (a.bits.toInt - b.bits.toInt), a.poison || b.poison⟩)
      (if outS32 (a.bits.toInt - b.bits.toInt) then 2 else 0)
  | mul : LaneSays cell u e i a b (.mul cell u) (some ⟨BitVec.ofInt 32 (a.bits.toInt * b.bits.toInt), a.poison || b.poison⟩)
      (if outS32 (a.bits.toInt * b.bits.toInt) then 2 else 0)
  | mulh : LaneSays cell u e i a b (.mulh cell u)
      (some ⟨BitVec.ofInt 32 (a.bits.toInt * b.bits.toInt / 2 ^ 32), a.poison || b.poison⟩) 0
  | mulhu : LaneSays cell u e i a b (.mulhu cell u)
      (some ⟨BitVec.ofNat 32 (a.bits.toNat * b.bits.toNat / 2 ^ 32), a.poison || b.poison⟩) 0
  | shl : LaneSays cell u e i a b (.shl cell u) (some ⟨BitVec.ofNat 32 (a.bits.toNat * 2 ^ b.bits.toNat), a.poison || b.poison⟩) 0
  | shr : LaneSays cell u e i a b (.shr cell u) (some ⟨BitVec.ofNat 32 (a.bits.toNat / 2 ^ b.bits.toNat), a.poison || b.poison⟩) 0
  | sra : LaneSays cell u e i a b (.sra cell u) (some ⟨BitVec.ofInt 32 (a.bits.toInt / 2 ^ b.bits.toNat), a.poison || b.poison⟩) 0
  | min : LaneSays cell u e i a b (.min cell u) (some ⟨BitVec.ofInt 32 (min a.bits.toInt b.bits.toInt), a.poison || b.poison⟩) 0
  | max : LaneSays cell u e i a b (.max cell u) (some ⟨BitVec.ofInt 32 (max a.bits.toInt b.bits.toInt), a.poison || b.poison⟩) 0
  | abs : LaneSays cell u e i a b (.abs cell u) (some ⟨BitVec.ofInt 32 (Min.min a.bits.toInt.natAbs 2147483647 : Nat), a.poison⟩)
      (if a.bits.toInt = -2147483648 then 2 else 0)
  | sel (p : Bool) : LaneSays cell u e i a b (.sel cell u) (some ⟨if e.mask (u.src3 % 8) i then a.bits else b.bits, p⟩) 0
  | clamp (h : u.imm = false) : LaneSays cell u e i a b (.clamp cell u)
      (some ⟨BitVec.ofInt 32 (Min.min (Max.max a.bits.toInt b.bits.toInt) (e.lane u.src3 i).bits.toInt),
        a.poison || (b.poison || (e.lane u.src3 i).poison)⟩) 0
  | clampImm (h : u.imm = true) : LaneSays cell u e i a b (.clamp cell u)
      (some ⟨BitVec.ofInt 32 (Min.min (Max.max a.bits.toInt (sextNat 16 u.immv.toNat)) (sextNat 16 (u.immv.toNat / 2 ^ 16))),
        a.poison⟩) 0
  | req (q d lo hi : Int) (hd : d = sextNat 8 b.bits.toNat - sextNat 8 (u.immv.toNat / 2 ^ 8))
      (hq : roundsTo (a.bits.toInt * 2 ^ d.toNat) (2 ^ (-d).toNat) q)
      (hf : (u.immv.toNat / 2 ^ 16 % 8, lo, hi) ∈ [(0, -2147483648, 2147483647), (1, -32768, 32767), (2, -128, 127), (3, -8, 7),
        (4, 0, 255), (5, 0, 15)]) :
      LaneSays cell u e i a b (.req cell u) (some ⟨BitVec.ofInt 32 (Max.max lo (Min.min q hi)), a.poison || b.poison⟩)
        (if lo ≤ q ∧ q ≤ hi then 0 else 4)
  | lut : LaneSays cell u e i a b (.lut cell u)
      (some ⟨e.lut.getD (if u.immv.getLsbD 0 then (Max.max 0 (Min.min a.bits.toInt 255)).toNat else a.bits.toNat % 256) 0, a.poison⟩) 0
  | rcpZero (h : a.bits = 0) : LaneSays cell u e i a b (.rcp cell u) (some ⟨BitVec.ofNat 32 2147483647, a.poison⟩) 8
  | rcp (q : Int) (h : a.bits ≠ 0) (hq : roundsTo (2 ^ (u.immv.toNat % 64) * a.bits.toInt.sign) a.bits.toInt.natAbs q) :
      LaneSays cell u e i a b (.rcp cell u) (some ⟨BitVec.ofInt 32 (Max.max (-2147483648) (Min.min q 2147483647)), a.poison⟩)
        (if -2147483648 ≤ q ∧ q ≤ 2147483647 then 0 else 4)
  | exp2 (q : Int) (hq : q = exp2Round ((u.immv.toNat / 2 ^ 8 % 32 * 2 ^ (u.immv.toNat % 32) : Nat) + a.bits.toInt) (u.immv.toNat % 32)) :
      LaneSays cell u e i a b (.exp2 cell u) (some ⟨BitVec.ofInt 32 (Min.min q 2147483647), a.poison⟩) (if q ≤ 2147483647 then 0 else 4)
  | perm (x : Nat) (hx : x = if u.imm then i ^^^ (u.immv.toNat % 256) else b.bits.toNat) (h : x < e.vl) :
      LaneSays cell u e i a b (.perm cell u) (some (e.lane u.src1 x)) 0
  | permOut (x : Nat) (hx : x = if u.imm then i ^^^ (u.immv.toNat % 256) else b.bits.toNat) (h : e.vl ≤ x) :
      LaneSays cell u e i a b (.perm cell u) none 1
  | movi : LaneSays cell u e i a b (.movi cell u) (some ⟨u.immv, false⟩) 0

/-- The four compares (R278). -/
inductive Sys2Proof.Machine.CompareSays (cell : CellId) (u : MuFields) : Instr → (Lane → Lane → Prop) → Prop
  | cmpeq : CompareSays cell u (.cmpeq cell u) (fun a b => a = b)
  | cmplt : CompareSays cell u (.cmplt cell u) (fun a b => a.toInt < b.toInt)
  | cmpltu : CompareSays cell u (.cmpltu cell u) (fun a b => a.toNat < b.toNat)
  | cmple : CompareSays cell u (.cmple cell u) (fun a b => a.toInt ≤ b.toInt)

/-- The second operand of a lane: MU_SRC2, or the immediate, which carries no poison (R276, R278). -/
def Sys2Proof.Machine.secondOperand (u : MuFields) (e : VecEngine) (i : Nat) : VElem :=
  if u.imm then ⟨u.immv, false⟩ else e.lane u.src2 i

/-- Whether a lane is active (R275). -/
def Sys2Proof.Machine.laneActive (u : MuFields) (e : VecEngine) (i : Nat) : Prop := u.men = false ∨ e.mask u.msk i = true

/-- A sextet of registers as one number modulo 2^192, word 0 lowest (R278). -/
def Sys2Proof.Machine.sextetNat (e : VecEngine) (r i : Nat) : Nat :=
  ((List.range 6).map fun k => (e.lane (r + k) i).bits.toNat * 2 ^ (32 * k)).sum

/-- OPEN_ZERO of a tile of at most 32 rows and 32 columns opens a FREE group with zero accumulators and no poison,
OPEN_LOAD with the values of full-width records, poisoned where one of them is; on a group in use the tile waits, and
displaces nothing. FEED adds to each accumulator of its row the exact partial of the operands at its place, modulo
2^192, and ORs poison; a column whose partial fails the residue check at the first issue and passes at the reissue
gives the same and counts one transient. ADD_WIDE adds one record's value to one accumulator and ORs its poison; one that lies past the
tile's extent changes no accumulator (the model's choice, log 139). CLOSE
frees the group, which the oldest tile that waits for it takes; a rounding close without AUTO of a group not poisoned
counts nothing where every element fits, and else a retried tile, saturated elements or a faulted tile as CW_OVF and
the range of exponents say. FEED, ADD_WIDE and CLOSE of a group that is not OPEN do nothing, which is the model's
choice (assumption log 120). (R172, R173, R176, R180, R182, R184, R190, R191, R199, R217, R790, R794) -/
def Obligations.GroupsOpenAccumulateAndClose : Prop :=
  (∀ (cell : CellId) (g : Nat) (shape : GroupShape) (recs : List Bytes) (s : State), s.canonical = true → s.canOpen cell g = true →
    shape.rows ≤ 32 → shape.cols ≤ 32 →
    (∃ t x, exec (.openZero cell g shape) s = .next t ∧ t.openGroup cell g = some x ∧ x.poison = false ∧ x.shape = shape ∧
      x.acc = List.replicate (shape.rows * shape.cols) 0) ∧
    (∃ t x, exec (.openLoad cell g shape recs) s = .next t ∧ t.openGroup cell g = some x ∧ x.shape = shape ∧
      x.acc = ((List.range (shape.rows * shape.cols)).map fun i => (wideOf (recs.getD i [])).value) ∧
      (x.poison = true ↔ ∃ i, i < shape.rows * shape.cols ∧ (wideOf (recs.getD i [])).poison = true))) ∧
  (∀ (cell : CellId) (g : Nat) (x : AccGroup) (f : FeedOp) (s : State), s.canonical = true → f.wf = true → s.openGroup cell g = some x →
    (f.err1 = [] ∨ ∃ n d, f.err1 = [(n, d)] ∧ n < x.shape.cols ∧ d % 3 ≠ 0 ∧ f.err2 = [] ∧
      (s.transientsOf (s.columnOf cell n)).length + 1 < s.getF Fld.rasTransLimit 0) →
    ∃ t y, exec (.feed cell g f) s = .next t ∧ t.openGroup cell g = some y ∧ y.poison = (x.poison || f.poison) ∧
      y.acc.length = x.acc.length ∧
      (∀ n, n < x.shape.cols → f.row * x.shape.cols + n < x.acc.length → y.acc.getD (f.row * x.shape.cols + n) 0 =
        accAdd (x.acc.getD (f.row * x.shape.cols + n) 0) (placePartial (groupPartial (f.a.map (decodeElem f.fmtA))
          ((f.w.getD n []).map (decodeElem f.fmtB))) (groupExp f.ea) (groupExp (f.eb.getD n 0)))) ∧
      (∀ k, k < f.row * x.shape.cols ∨ (f.row + 1) * x.shape.cols ≤ k → y.acc.getD k 0 = x.acc.getD k 0) ∧
      t.getF Fld.rasTransients 0 = (if f.err1 = [] then s.getF Fld.rasTransients 0 else min (s.getF Fld.rasTransients 0 + 1) (2 ^ 32 - 1))) ∧
  (∀ (cell : CellId) (g r n : Nat) (b : Bytes) (x : AccGroup) (s : State), s.canonical = true → s.openGroup cell g = some x →
    ∃ t y, exec (.addWide cell g r n b) s = .next t ∧ t.openGroup cell g = some y ∧ y.poison = (x.poison || (wideOf b).poison) ∧
      (n < x.shape.cols → r * x.shape.cols + n < x.acc.length →
        y.acc.getD (r * x.shape.cols + n) 0 = accAdd (x.acc.getD (r * x.shape.cols + n) 0) (wideOf b).value ∧
        ∀ k, k ≠ r * x.shape.cols + n → y.acc.getD k 0 = x.acc.getD k 0) ∧
      (x.shape.cols ≤ n ∨ x.acc.length ≤ r * x.shape.cols + n → y.acc = x.acc)) ∧
  (∀ (cell : CellId) (g w p : Nat) (x : AccGroup) (c : CloseWord) (s : State), s.canonical = true → s.openGroup cell g = some x →
    closeWordOk w = true → c = closeWordOf w → (s.groups.map (·.1)).Pairwise (· < ·) → p = s.physOf cell.region → p < 20 →
    ∃ t, exec (.close cell g w) s = .next t ∧
      (s.openWaits.find? (fun q => q.cell == cellKey cell && (q.any || q.g == g)) = none →
        t.canOpen cell g = true ∧ t.openWaits = s.openWaits) ∧
      (∀ q, s.openWaits.find? (fun q => q.cell == cellKey cell && (q.any || q.g == g)) = some q → q.grp.st = 1 →
        t.openGroup cell g = some q.grp ∧ t.openWaits = s.openWaits.erase q) ∧
      (c.auto = false → c.fmt ≤ 4 →
        (x.poison = true ∨ (∀ v ∈ x.acc, fitsFmt (rne v c.eo) c.fmt = true) → t.getF Fld.rgnAriRetries p = s.getF Fld.rgnAriRetries p ∧
          t.getF Fld.rgnAriSatElems p = s.getF Fld.rgnAriSatElems p ∧ t.getF Fld.rgnAriFaultTiles p = s.getF Fld.rgnAriFaultTiles p) ∧
        (x.poison = false → (∃ v ∈ x.acc, fitsFmt (rne v c.eo) c.fmt = false) →
          (c.ovf = 0 → (∀ v ∈ x.acc, ∃ e, loLim c.fmt ≤ e ∧ e ≤ hiLim c.fmt ∧ fitsFmt (rne v e) c.fmt = true) →
            t.getF Fld.rgnAriRetries p = min (s.getF Fld.rgnAriRetries p + 1) (2 ^ 48 - 1) ∧ t.getF Fld.rgnAriLastCode p = 1) ∧
          (c.ovf = 0 → (∃ v ∈ x.acc, ∀ e, loLim c.fmt ≤ e → e ≤ hiLim c.fmt → fitsFmt (rne v e) c.fmt = false) →
            t.getF Fld.rgnAriFaultTiles p = min (s.getF Fld.rgnAriFaultTiles p + 1) (2 ^ 32 - 1) ∧ t.getF Fld.rgnAriLastCode p = 4) ∧
          (c.ovf = 1 → t.getF Fld.rgnAriSatElems p = min (s.getF Fld.rgnAriSatElems p +
            (x.acc.filter fun v => !fitsFmt (rne v c.eo) c.fmt).length) (2 ^ 32 - 1) ∧ t.getF Fld.rgnAriLastCode p = 2) ∧
          (c.ovf = 2 → t.getF Fld.rgnAriFaultTiles p = min (s.getF Fld.rgnAriFaultTiles p + 1) (2 ^ 32 - 1) ∧
            t.getF Fld.rgnAriLastCode p = 3)))) ∧
  (∀ (cell : CellId) (g r n w : Nat) (shape : GroupShape) (recs : List Bytes) (f : FeedOp) (b : Bytes) (s : State),
    (s.cellWorks cell = false ∨ 8 ≤ g ∨ 32 < shape.rows ∨ 32 < shape.cols →
      exec (.openZero cell g shape) s = .next s ∧ exec (.openLoad cell g shape recs) s = .next s) ∧
    (s.cellWorks cell = true → g < 8 → shape.rows ≤ 32 → shape.cols ≤ 32 → s.canOpen cell g = false →
      (∃ t q, exec (.openZero cell g shape) s = .next t ∧ t = { s with openWaits := s.openWaits ++ [q] } ∧
        q.cell = cellKey cell ∧ q.g = g ∧ q.any = s.cellFull cell ∧ q.grp.st = 1 ∧ q.grp.shape = shape) ∧
      (∃ t q, exec (.openLoad cell g shape recs) s = .next t ∧ t = { s with openWaits := s.openWaits ++ [q] } ∧
        q.cell = cellKey cell ∧ q.g = g ∧ q.any = s.cellFull cell ∧ q.grp.st = 1 ∧ q.grp.shape = shape)) ∧
    (s.openGroup cell g = none → exec (.feed cell g f) s = .next s ∧ exec (.addWide cell g r n b) s = .next s ∧
      exec (.close cell g w) s = .next s))

/-- A micro-operation that writes a vector register (ADD to MAX, ABS, SEL, CLAMP, REQ, LUT, RCP, EXP2, PERM, MOVI) on a
working cell gives each active lane below VL what R278 says of its source lanes as they stood, an inactive or out-of-
range lane its old element where MU_KEEP is 1 and zero where it is 0; every lane at or beyond VL reads zero, and no
other register and no mask changes. Each sticky flag of the region is set where it was set before or an active lane
raises it. NOP changes no register, no mask and no flag. (R273, R274, R275, R276, R278, R279, R282, R283, R284) -/
def Obligations.MicroOpsWriteActiveLanes : Prop :=
  (∀ (cell : CellId) (u : MuFields) (e : VecEngine) (c : Instr) (s : State), s.canonical = true → s.cellWorks cell = true →
    s.engine cell = e → u.dst < e.v.length → s.physOf cell.region < 20 →
    (∀ i, i < e.vl → ∃ x fl, LaneSays cell u e i (e.lane u.src1 i) (secondOperand u e i) c x fl) → 0 < e.vl →
    ∃ t e1, exec c s = .next t ∧ t.engine cell = e1 ∧ e1.vl = e.vl ∧ e1.m = e.m ∧ e1.lut = e.lut ∧
      (∀ r i, r ≠ u.dst → e1.lane r i = e.lane r i) ∧ (∀ i, e.vl ≤ i → e1.lane u.dst i = ⟨0, false⟩) ∧
      (∀ i x fl, i < e.vl → laneActive u e i → LaneSays cell u e i (e.lane u.src1 i) (secondOperand u e i) c (some x) fl →
        (e1.lane u.dst i).bits = x.bits ∧ (c ≠ .sel cell u → e1.lane u.dst i = x)) ∧
      (∀ i fl, i < e.vl → ¬laneActive u e i ∨ LaneSays cell u e i (e.lane u.src1 i) (secondOperand u e i) c none fl →
        e1.lane u.dst i = if u.keep then e.lane u.dst i else ⟨0, false⟩) ∧
      (∀ k f, (k, f) ∈ [(0, Fld.rgnVecPermRange), (1, Fld.rgnVecOvf), (2, Fld.rgnVecSat), (3, Fld.rgnVecDiv0)] →
        (t.flag f (s.physOf cell.region) = true ↔ s.flag f (s.physOf cell.region) = true ∨ ∃ i x fl, i < e.vl ∧ laneActive u e i ∧
          LaneSays cell u e i (e.lane u.src1 i) (secondOperand u e i) c x fl ∧ fl.testBit k = true))) ∧
  (∀ (cell : CellId) (u : MuFields) (s : State), s.canonical = true → s.cellWorks cell = true →
    ∃ t, exec (.tintNop cell u) s = .next t ∧ t.engine cell = s.engine cell ∧ State.SameBut [] [.engines] s t) ∧
  (∀ (cell : CellId) (u : MuFields) (e : VecEngine) (i fl : Nat) (a b : VElem) (x : Option VElem) (c : Instr) (s : State),
    LaneSays cell u e i a b c x fl ∨ c = .tintNop cell u → s.cellWorks cell = false → exec c s = .next s)

/-- A compare on a working cell sets bit i of its destination mask in an active lane below VL exactly where its relation
holds of MU_SRC1 and the second operand; an inactive lane keeps its bit where MU_KEEP is 1 and clears it where it is
0; no vector register and no flag changes. ADD192 leaves in the destination sextet of an active lane the sum of the
two source sextets modulo 2^192, each word with the OR of the sources' poison, every source read before a word is
written, and sets OVF where the exact signed sum leaves s192. (R274, R275, R276, R278, R284) -/
def Obligations.ComparesAndWideAdds : Prop :=
  (∀ (cell : CellId) (u : MuFields) (e : VecEngine) (c : Instr) (p : Lane → Lane → Prop) (s : State), s.canonical = true →
    CompareSays cell u c p → s.cellWorks cell = true → s.engine cell = e → u.dst < 8 → e.m.length = 8 →
    ∃ t e1, exec c s = .next t ∧ t.engine cell = e1 ∧ e1.vl = e.vl ∧ e1.v = e.v ∧ State.SameBut [] [.engines] s t ∧
      (∀ r i, r ≠ u.dst → e1.mask r i = e.mask r i) ∧
      (∀ i, i < e.vl → laneActive u e i →
        (e1.mask u.dst i = true ↔ p (e.lane u.src1 i).bits (secondOperand u e i).bits)) ∧
      (∀ i, i < e.vl → ¬laneActive u e i → e1.mask u.dst i = (u.keep && e.mask u.dst i))) ∧
  (∀ (cell : CellId) (u : MuFields) (e : VecEngine) (s : State), s.canonical = true → s.cellWorks cell = true → s.engine cell = e →
    u.dst + 6 ≤ e.v.length → s.physOf cell.region < 20 →
    ∃ t e1, exec (.add192 cell u) s = .next t ∧ t.engine cell = e1 ∧ e1.vl = e.vl ∧ e1.m = e.m ∧
      (∀ r i, r < u.dst ∨ u.dst + 6 ≤ r → e1.lane r i = e.lane r i) ∧
      (∀ i, i < e.vl → laneActive u e i →
        sextetNat e1 u.dst i = (sextetNat e u.src1 i + sextetNat e u.src2 i) % 2 ^ 192 ∧
        ∀ k, k < 6 → ((e1.lane (u.dst + k) i).poison = true ↔
          ∃ j, j < 6 ∧ ((e.lane (u.src1 + j) i).poison = true ∨ (e.lane (u.src2 + j) i).poison = true))) ∧
      (∀ i k, i < e.vl → ¬laneActive u e i → k < 6 →
        e1.lane (u.dst + k) i = if u.keep then e.lane (u.dst + k) i else ⟨0, false⟩) ∧
      (t.flag Fld.rgnVecOvf (s.physOf cell.region) = true ↔ s.flag Fld.rgnVecOvf (s.physOf cell.region) = true ∨
        ∃ i, i < e.vl ∧ laneActive u e i ∧ (sextNat 192 (sextetNat e u.src1 i) + sextNat 192 (sextetNat e u.src2 i) < -2 ^ 191 ∨
          2 ^ 191 ≤ sextNat 192 (sextetNat e u.src1 i) + sextNat 192 (sextetNat e u.src2 i))))

/-! ### Links, messages and time (chapters 12 and 14) -/

/-- A link sends a link message at once: nothing waits on it and it holds a credit of VC 0 (R585). -/
def Sys2Proof.Machine.State.linkSends (s : State) (l : Nat) : Prop := (s.link l).waitOut = [] ∧ s.credit l 0 ≠ 0

/-- What a HELLO of a neighbour leaves on its link (R573, R601, R602): the neighbour's registers, and ISOLATED where the two
do not fit. That a device still discovering (state 0) does not isolate its links is the model's choice (log 83). -/
def Sys2Proof.Machine.State.hasHeard (t s : State) (link : Nat) (h : Hello) : Prop :=
  (t.link link).peer = some h ∧ t.getF Fld.hlkLkPeerLink link = h.link % 2 ^ 7 ∧
    t.getF Fld.hlkLkPeerSerial link = h.serial % 2 ^ 64 ∧
    (h.ndState = 1 ∨ h.ndState = 2 → t.getF Fld.hlkLkPeerValid link = 1 ∧ t.getF Fld.hlkLkPeerNode link = h.node % 2 ^ 15) ∧
    (h.ndState ≠ 1 → h.ndState ≠ 2 → t.getF Fld.hlkLkPeerValid link = 0 ∧ t.getF Fld.hlkLkPeerNode link = 0) ∧
    (h.name ≠ s.getF Fld.hlkFbName 0 → t.getF Fld.hlkLkState link = lkIsolated ∧ t.getF Fld.hlkLkIsolate link = 1) ∧
    (h.name = s.getF Fld.hlkFbName 0 → s.getF Fld.hlkNdState 0 = 3 ∨ h.ndState = 3 →
      t.getF Fld.hlkLkState link = lkIsolated ∧ t.getF Fld.hlkLkIsolate link = 3) ∧
    (h.name = s.getF Fld.hlkFbName 0 → s.getF Fld.hlkNdState 0 ≠ 3 → h.ndState ≠ 3 → 4 ≤ s.getF Fld.hlkNdState 0 ∨ 4 ≤ h.ndState →
      t.getF Fld.hlkLkState link = lkIsolated ∧ t.getF Fld.hlkLkIsolate link = 2) ∧
    (h.name = s.getF Fld.hlkFbName 0 → s.getF Fld.hlkNdState 0 < 3 → h.ndState < 3 → s.getF Fld.hlkLkIsolate link = 4 →
      t.getF Fld.hlkLkState link = lkIsolated ∧ t.getF Fld.hlkLkIsolate link = 4) ∧
    (h.name = s.getF Fld.hlkFbName 0 → s.getF Fld.hlkNdState 0 < 3 → h.ndState < 3 → s.getF Fld.hlkLkIsolate link ≠ 4 →
      (t.getF Fld.hlkLkState link = lkLinked ∨ t.getF Fld.hlkLkState link = lkActive) ∧ t.getF Fld.hlkLkIsolate link = 0)

/-- A data flit arrives whole, in sequence and without a NAK (R578 to R581). -/
def Sys2Proof.Machine.State.inSequence (s : State) (link : Nat) (f : Flit) : Prop :=
  f.typ ≠ 0 ∧ f.nak = false ∧ f.seq = (s.link link).rxSeq

/-- `p` is the one neighbour that this device can follow, and it is on `link` (R619, R620). -/
def Sys2Proof.Machine.State.onlyParent (s : State) (link : Nat) (p : Hello) (hops : Nat) : Prop :=
  (s.link link).peer = some p ∧ (s.fab.links.map Prod.fst).Pairwise (· < ·) ∧
    (∀ e ∈ s.fab.links, e.1 ≠ link → e.2.peer = none) ∧ hops < s.getF Fld.hlkTtMaxHops 0 ∧ s.timeSt ≠ tsPps

/-- SIGNAL_PRESENT puts a DOWN link whose cap is not 0 into TRAINING in BRING_UP and READY. TRAINING_RETRY trains a DOWN
link with signal again. A training that succeeds takes the neighbour's HELLO, and the link leaves TRAINING; a first
failed attempt leaves it DOWN; a failed retrain retrains once more and counts. LOSS_OF_SIGNAL puts any other link DOWN
and clears what it showed of its neighbour. HELLO_TIMEOUT retrains a link that has signal, and counts. (R573, R582,
R583, R601, R626, R836) -/
def Obligations.LinksTrainAndGoDown : Prop :=
  (∀ (link : Nat) (s : State), s.canonical = true → s.live = true → link < 96 →
    ∃ t, exec (.signalPresent link) s = .next t ∧ (t.link link).signal = true ∧
      (s.isUp = true → s.getF Fld.hlkLkCap link ≠ 0 → s.getF Fld.hlkLkState link = lkDown →
        t.getF Fld.hlkLkState link = lkTraining ∧ (t.link link).tried = true) ∧
      (s.isUp = false ∨ s.getF Fld.hlkLkCap link = 0 ∨ s.getF Fld.hlkLkState link ≠ lkDown → State.SameBut [] [.fab] s t)) ∧
  (∀ (link : Nat) (s : State), s.canonical = true → s.isUp = true → link < 96 → s.getF Fld.hlkLkCap link ≠ 0 →
    (s.link link).signal = true → s.getF Fld.hlkLkState link = lkDown →
    ∃ t, exec (.trainingRetry link) s = .next t ∧ t.getF Fld.hlkLkState link = lkTraining ∧ (t.link link).failed = 0) ∧
  (∀ (link : Nat) (h : Hello) (s : State), s.canonical = true → s.isUp = true → link < 96 →
    s.getF Fld.hlkLkState link = lkTraining →
    (∃ t, exec (.trainingComplete link true h) s = .next t ∧ t.hasHeard s link h ∧ (t.link link).tried = true ∧
      (t.link link).failed = 0) ∧
    ((s.link link).failed ≠ 1 → ∃ t, exec (.trainingComplete link false h) s = .next t ∧
      t.getF Fld.hlkLkState link = lkDown ∧ (t.link link).tried = true) ∧
    ((s.link link).failed = 1 → ∃ t, exec (.trainingComplete link false h) s = .next t ∧
      t.getF Fld.hlkLkState link = lkTraining ∧ (t.link link).failed = 2 ∧
      t.getF Fld.hlkLkRetrains link = min (s.getF Fld.hlkLkRetrains link + 1) (2 ^ 8 - 1))) ∧
  (∀ (link : Nat) (s : State), s.canonical = true → s.live = true → link < 96 → s.getF Fld.hlkLkState link ≠ lkDown →
    ∃ t, exec (.lossOfSignal link) s = .next t ∧ t.getF Fld.hlkLkState link = lkDown ∧ (t.link link).signal = false ∧
      (t.link link).peer = none ∧ t.getF Fld.hlkLkBundle link = 127 ∧ t.getF Fld.hlkLkPeerValid link = 0 ∧
      t.getF Fld.hlkLkPeerSerial link = 0) ∧
  (∀ (link : Nat) (s : State), s.canonical = true → s.isUp = true → link < 96 → s.linkCarries link = true →
    ∃ t, exec (.helloTimeout link) s = .next t ∧ (t.link link).peer = none ∧
      ((s.link link).signal = true → s.getF Fld.hlkLkCap link ≠ 0 → t.getF Fld.hlkLkState link = lkTraining ∧
        (t.link link).failed = 1 ∧ t.getF Fld.hlkLkRetrains link = min (s.getF Fld.hlkLkRetrains link + 1) (2 ^ 8 - 1)) ∧
      ((s.link link).signal = false ∨ s.getF Fld.hlkLkCap link = 0 → t.getF Fld.hlkLkState link = lkDown))

/-- A HELLO leaves the neighbour's link, serial number and valid node ID in the link's registers, and isolates the link
for another fabric name or a conflict. HELLO_TICK sends one on every link that carries traffic. A newer record of
another device is kept, changes no other record, is passed on on the other links, and one of a device not seen before
starts collection anew; a record no newer does nothing. LSR_REFRESH originates this device's record with the next
generation and sends it on every link that runs. LSR_EXPIRY drops the record. SETTLEMENT takes the installer's node ID, or state 3 where a lower serial
number carries it; with no installer's ID in the database, the rank of the serial number; a node ID lost or changed
faults every active chase; before the database has been quiet for HLK_SETTLE_MS it does nothing. ROUTE_BUILD counts in
HLK_RT_GEN, which holds at all ones, and leaves no entry for a node that the database does not hold; less than 50 ms
after a change it does nothing. That a build before the next settlement takes the node IDs of the last one is the
model's choice (log 157). (R601, R602, R603, R604, R605, R606, R607, R608, R613) -/
def Obligations.FabricIsDiscovered : Prop :=
  (∀ (link : Nat) (h : Hello) (s : State), s.canonical = true → s.isUp = true → link < 96 → s.linkCarries link = true →
    ∃ t, exec (.hello link h) s = .next t ∧ t.hasHeard s link h) ∧
  (∀ (s : State), s.canonical = true → s.isUp = true →
    ∃ t, exec .helloTick s = .next t ∧ State.SameBut [] [.fab, .out] s t ∧
      ∀ link, link < 96 → s.linkCarries link = true → s.linkSends link → .hello link (s.helloOf link) ∈ t.out) ∧
  (∀ (link : Nat) (r : Lsr) (s : State), s.canonical = true → s.isUp = true → link < 96 → s.linkRuns link = true →
    r.serial ≠ ownSerial →
    ((∀ e ∈ s.fab.lsdb, e.1.serial = r.serial → e.1.gen < r.gen) →
      ∃ t, exec (.lsr link r) s = .next t ∧ (r, s.upNs) ∈ t.fab.lsdb ∧
        (∀ e, e.1.serial ≠ r.serial → (e ∈ t.fab.lsdb ↔ e ∈ s.fab.lsdb)) ∧
        (∀ k, k < 96 → k ≠ link → s.linkRuns k = true → s.linkSends k → .lsr k r ∈ t.out) ∧
        ((∀ e ∈ s.fab.lsdb, e.1.serial ≠ r.serial) → t.getF Fld.hlkDsState 0 = 1 ∧
          t.getF Fld.hlkDsChanges 0 = min (s.getF Fld.hlkDsChanges 0 + 1) (2 ^ 16 - 1))) ∧
    ((∃ e ∈ s.fab.lsdb, e.1.serial = r.serial ∧ r.gen ≤ e.1.gen) → exec (.lsr link r) s = .next s)) ∧
  (∀ (s : State), s.canonical = true → s.isUp = true →
    ∃ t r, exec .lsrRefresh s = .next t ∧ t.fab.ownGen = (s.fab.ownGen + 1) % 2 ^ 32 ∧ (r, s.upNs) ∈ t.fab.lsdb ∧
      r.serial = ownSerial ∧ r.name = s.getF Fld.hlkFbName 0 ∧ r.gen = (s.fab.ownGen + 1) % 2 ^ 32 ∧ r.bundles = s.lsrBundles ∧
      (∀ id, s.sec.settings.node = some id → r.node = id ∧ r.ndState = 1) ∧
      (s.sec.settings.node = none → s.getF Fld.hlkNdState 0 = 2 → r.node = s.getF Fld.hlkNdId 0) ∧
      ∀ k, k < 96 → s.linkRuns k = true → s.linkSends k → .lsr k r ∈ t.out) ∧
  (∀ (serial : Nat) (s : State), s.canonical = true → s.isUp = true → serial ≠ ownSerial →
    (∃ e ∈ s.fab.lsdb, e.1.serial = serial) →
    ∃ t, exec (.lsrExpiry serial) s = .next t ∧ (∀ e, e ∈ t.fab.lsdb ↔ e ∈ s.fab.lsdb ∧ e.1.serial ≠ serial) ∧
      t.getF Fld.hlkDsState 0 = 1 ∧ t.getF Fld.hlkDsChanges 0 = min (s.getF Fld.hlkDsChanges 0 + 1) (2 ^ 16 - 1)) ∧
  (∀ (s : State), s.canonical = true → s.isUp = true → s.getF Fld.hlkDsState 0 = 1 →
    s.upNs < s.fab.changedAt + s.getF Fld.hlkSettleMs 0 * 10 ^ 6 → exec .settlement s = .next s) ∧
  (∀ (s : State), s.canonical = true → s.isUp = true → s.getF Fld.hlkDsState 0 = 1 →
    s.fab.changedAt + s.getF Fld.hlkSettleMs 0 * 10 ^ 6 ≤ s.upNs →
    ∃ t, exec .settlement s = .next t ∧
      (∀ id, s.sec.settings.node = some id →
        ((∀ e ∈ s.fab.lsdb, e.1.serial < ownSerial → e.1.ndState = 1 → e.1.node ≠ id) →
          t.getF Fld.hlkNdState 0 = 1 ∧ t.getF Fld.hlkNdId 0 = id % 2 ^ 15) ∧
        ((∃ e ∈ s.fab.lsdb, e.1.serial < ownSerial ∧ e.1.ndState = 1 ∧ e.1.node = id) → t.getF Fld.hlkNdState 0 = 3)) ∧
      (s.sec.settings.node = none →
        ((∀ e ∈ s.fab.lsdb, e.1.ndState ≠ 1) → s.fab.lsdb.length ≤ 256 →
          t.getF Fld.hlkNdState 0 = 2 ∧ t.getF Fld.hlkNdId 0 = (s.fab.lsdb.filter fun e => decide (e.1.serial < ownSerial)).length) ∧
        ((∃ e ∈ s.fab.lsdb, e.1.ndState = 1) → t.getF Fld.hlkNdState 0 = 4)) ∧
      ((s.getF Fld.hlkNdState 0 = 1 ∨ s.getF Fld.hlkNdState 0 = 2) →
        (t.getF Fld.hlkNdState 0 ≠ 1 ∧ t.getF Fld.hlkNdState 0 ≠ 2) ∨ t.getF Fld.hlkNdId 0 ≠ s.getF Fld.hlkNdId 0 →
        ∀ c, c < 16 → s.csActive c = true → t.cs c = csFaulted ∧ t.getF Fld.stkFault c = fNodeChanged)) ∧
  (∀ (s : State), s.canonical = true → s.isUp = true → s.getF Fld.hlkNdState 0 = 1 ∨ s.getF Fld.hlkNdState 0 = 2 →
    (s.getF Fld.hlkDsState 0 ≠ 1 ∨ s.fab.changedAt + 50 * 10 ^ 6 ≤ s.upNs →
      ∃ t, exec .routeBuild s = .next t ∧ t.getF Fld.hlkRtGen 0 = min (s.getF Fld.hlkRtGen 0 + 1) (2 ^ 32 - 1) ∧
        ∀ m, m < 256 → (∀ e ∈ s.fab.lsdb, ∀ n, kvGet s.fab.nodes e.1.serial = some n →
            n = s.getF Fld.hlkNdId 0 ∨ n ≠ s.getF Fld.hlkNdId 0 / 256 * 256 + m) → t.rd .hlkRtMember m = 0) ∧
    (s.getF Fld.hlkDsState 0 = 1 → s.upNs < s.fab.changedAt + 50 * 10 ^ 6 → exec .routeBuild s = .next s))

/-- The FEC block of the flit that arrives next on a link is uncorrectable: known with the block's first flit, and held for
its other four (R577). -/
def Sys2Proof.Machine.State.blockBad (s : State) (link : Nat) (errs : List Nat) : Bool :=
  if (s.link link).rxPos = 0 then fecFails errs else (s.link link).rxBad

/-- The first flit of a block counts the block's corrected symbols in HLK_LK_FEC_SYMS, or the block in
HLK_LK_FEC_UNCORR where a codeword holds more than 8 wrong symbols; each flit moves to the next place of its block.
A flit in an uncorrectable block owes a NAK, and its content is not looked at; so does one whose FL_CRC does not match,
and one out of sequence: none of them is taken. A flit in sequence on a link that carries traffic advances the sequence
expected; one for this device, of a message not yet complete, waits for its command, a control message where it is of a
defined subtype for a chase that takes messages; of a complete message it is counted in HLK_E2E_DUPS; one on VC 0 that is
of no link type is counted in HLK_RT_UNROUTABLE (the model's choice, log 159); one that has FL_HOPS 255 is discarded and counted in
HLK_TTL_DROPS; one for another device, with no route and no flit held, is discarded and counted in HLK_RT_UNROUTABLE.
ACK_IDLE sends what is owed in an IDLE, with the sequence last accepted. (R575, R577, R578, R579, R580, R581, R588, R591,
R594, R608, R612) -/
def Obligations.FlitsArriveInSequence : Prop :=
  (∀ (link : Nat) (data checks : List Nat) (crc : Nat) (f : Flit) (s : State), s.canonical = true → s.isUp = true → link < 96 →
    s.linkCarries link = true →
    (s.blockBad link (blockErrs data checks) = true ∨ f.crc ≠ crc ∨ (f.typ ≠ 0 ∧ f.nak = false ∧ f.seq ≠ (s.link link).rxSeq) →
      ∃ t, exec (.flit link data checks crc f) s = .next t ∧ (t.link link).nakOwed = true ∧
        (t.link link).rxSeq = (s.link link).rxSeq ∧ t.fab.inbox = s.fab.inbox ∧ t.fab.held = s.fab.held ∧ t.out = s.out ∧
        (t.link link).rxPos = ((s.link link).rxPos + 1) % 5 ∧
        t.getF Fld.hlkLkFecUncorr link = (if (s.link link).rxPos = 0 ∧ fecFails (blockErrs data checks) = true then
          min (s.getF Fld.hlkLkFecUncorr link + 1) (2 ^ 12 - 1) else s.getF Fld.hlkLkFecUncorr link) ∧
        t.getF Fld.hlkLkFecSyms link = (if (s.link link).rxPos = 0 ∧ fecFails (blockErrs data checks) = false then
          min (s.getF Fld.hlkLkFecSyms link + (blockErrs data checks).eraseDups.length) (2 ^ 32 - 1) else s.getF Fld.hlkLkFecSyms link)) ∧
    (s.blockBad link (blockErrs data checks) = false → f.crc = crc → s.inSequence link f →
      ∃ t, exec (.flit link data checks crc f) s = .next t ∧ (t.link link).rxSeq = ((s.link link).rxSeq + 1) % 2 ^ 12 ∧
        (f.vc = 0 → t.fab.inbox = s.fab.inbox ∧ (4 ≤ f.typ → s.fab.held = [] →
          t.getF Fld.hlkRtUnroutable 0 = min (s.getF Fld.hlkRtUnroutable 0 + 1) (2 ^ 16 - 1))) ∧
        (f.vc ≠ 0 → f.hops = 255 → t.fab.inbox = s.fab.inbox ∧
          t.getF Fld.hlkTtlDrops 0 = min (s.getF Fld.hlkTtlDrops 0 + 1) (2 ^ 16 - 1)) ∧
        (f.vc ≠ 0 → f.hops < 255 → s.getF Fld.hlkNdState 0 = 1 ∨ s.getF Fld.hlkNdState 0 = 2 → s.linkRuns link = true →
          (f.dst ≠ s.getF Fld.hlkNdId 0 → t.fab.inbox = s.fab.inbox ∧
            (s.fab.held = [] → bitOf (s.routeWord f.dst) 63 = false → t.fab.held = [] ∧
              t.getF Fld.hlkRtUnroutable 0 = min (s.getF Fld.hlkRtUnroutable 0 + 1) (2 ^ 16 - 1))) ∧
          (f.dst = s.getF Fld.hlkNdId 0 → s.msgDone f.src f.msg = false → f.typ = 0x10 ∨ f.typ = 0x11 ∨ f.typ = 0x20 ∨ f.typ = 0x30 ∨
              (f.typ = 0x31 ∧ 1 ≤ f.arg % 256 ∧ f.arg % 256 ≤ 9 ∧ ∃ c, s.slotOfTag f.chase = some c ∧ s.takesMsgs c = true) →
            t.fab.inbox = s.fab.inbox ++ [f]) ∧
          (f.dst = s.getF Fld.hlkNdId 0 → s.msgDone f.src f.msg = true →
              f.typ = 0x10 ∨ f.typ = 0x11 ∨ f.typ = 0x20 ∨ f.typ = 0x30 ∨ f.typ = 0x31 →
            ((∀ g ∈ s.fab.inbox, g.src = f.src → g.msg ≠ f.msg) → t.fab.inbox = s.fab.inbox) ∧ t.getF Fld.hlkE2eDups 0 = min (s.getF Fld.hlkE2eDups 0 + 1) (2 ^ 16 - 1))))) ∧
  (∀ (link : Nat) (s : State), s.canonical = true → s.isUp = true → link < 96 → s.linkCarries link = true →
    ((s.link link).ackOwed = true ∨ (s.link link).nakOwed = true →
      ∃ t f, exec (.ackIdle link) s = .next t ∧ .flit link f ∈ t.out ∧ f.typ = 0 ∧
        ((s.link link).txBlock.length < 4 → t.out = .flit link f :: s.out) ∧
        f.ack = ((s.link link).rxSeq + 4095) % 4096 ∧ f.nak = (s.link link).nakOwed ∧ (t.link link).ackOwed = false ∧
        (t.link link).nakOwed = false ∧ (t.link link).txSeq = (s.link link).txSeq ∧ State.SameBut [] [.fab, .out] s t) ∧
    ((s.link link).ackOwed = false → (s.link link).nakOwed = false → exec (.ackIdle link) s = .next s))

/-- A WRITE flit in a chase's range stores its payload at FL_ARG + 220 × index on arrival; the message is complete with
its last missing flit, once nothing of it waits for the host. One for a chase that takes no message stores nothing. An
APPEND message not yet whole only keeps its flit; a whole one joins its records to the queue that it names, and is
complete. An ACK ends the message that it names, and is complete; one that has come before does nothing but count. A
FABRIC_SIGNAL of a member of a striking chase on a fabric mark of
the active context adds 1 to it; a stale one changes no mark and is counted in MRK_STALE; both are then complete. A
message with no acknowledgement is sent again and counted, twice at most; then it is counted as lost and its active
chase faults with FABRIC_LOSS. (R588, R589, R590, R591, R592, R593, R598, R543, R355) -/
def Obligations.MessagesDoTheirWork : Prop :=
  (∀ (f : Flit) (s : State), s.canonical = true → s.hasIn f 0x10 = true →
    (∀ c, s.slotOfTag f.chase = some c → s.takesMsgs c = true → 4096 ≤ f.arg + 220 * f.index →
      f.arg + 220 * f.index + f.plen ≤ 2 ^ 44 →
      ∃ t, exec (.write f) s = .next t ∧ (∀ p, p ∉ [Part.fab, Part.out] →
          samePart p (s.plateStore c (f.arg + 220 * f.index) (f.payload.take f.plen)) t) ∧
        (allParts (addPart (s.partsOf f.src f.msg) f) = false → t.fab.rx = s.fab.rx ∧ t.fab.inbox = s.fab.inbox.erase f ∧
          ∃ g ∈ t.partsOf f.src f.msg, g.index = f.index) ∧
        (allParts (addPart (s.partsOf f.src f.msg) f) = true →
          (s.plateStore c (f.arg + 220 * f.index) (f.payload.take f.plen)).host.heldWrites = [] →
          t.msgDone f.src f.msg = true ∧ ∀ g ∈ t.fab.inbox, g.src = f.src → g.msg ≠ f.msg)) ∧
    ((∀ c, s.slotOfTag f.chase = some c → s.takesMsgs c = false) →
      ∃ t, exec (.write f) s = .next t ∧ (∀ p, p ∉ [Part.fab, Part.out] → samePart p s t) ∧
        (allParts (addPart (s.partsOf f.src f.msg) f) = true → t.msgDone f.src f.msg = true))) ∧
  (∀ (f : Flit) (s : State), s.canonical = true → s.hasIn f 0x11 = true →
    (allParts (addPart (s.partsOf f.src f.msg) f) = false →
      ∃ t, exec (.append f) s = .next t ∧ State.SameBut [] [.fab] s t ∧ t.fab.inbox = s.fab.inbox.erase f ∧
        t.fab.rx = s.fab.rx ∧ ∃ g ∈ t.partsOf f.src f.msg, g.index = f.index) ∧
    (∀ c, allParts (addPart (s.partsOf f.src f.msg) f) = true → s.slotOfTag f.chase = some c → s.takesMsgs c = true → f.arg < 2 ^ 48 →
      (∀ e ∈ (s.chase c).deltaIn, e.2.2.1 ≠ f.src ∨ e.2.2.2.1 ≠ f.msg) →
      (f.arg / 2 ^ 44 = qkReduce →
        ∃ t, exec (.append f) s = .next t ∧ t.msgDone f.src f.msg = true ∧ (t.chase c).redIn = (s.chase c).redIn ++
          [(f.arg % 2 ^ 16, (ptOrdinal (s.forme c) f.src).getD 0, f.arg % 2 ^ 44 / 2 ^ 16,
            joinParts (addPart (s.partsOf f.src f.msg) f))]) ∧
      (f.arg / 2 ^ 44 = qkRequest → ∀ g, s.galley c (f.arg % 2 ^ 44) = some g →
        lookupReqsOk (joinParts (addPart (s.partsOf f.src f.msg) f)) = true →
        (joinParts (addPart (s.partsOf f.src f.msg) f)).length % 16 = 0 →
        g.reqIn.length + ((pieces 16 (joinParts (addPart (s.partsOf f.src f.msg) f))).map lookupReqOf).length ≤ reqInMax →
        ∃ t g1, exec (.append f) s = .next t ∧ t.msgDone f.src f.msg = true ∧ t.galley c (f.arg % 2 ^ 44) = some g1 ∧
          g1.reqIn = g.reqIn ++ (pieces 16 (joinParts (addPart (s.partsOf f.src f.msg) f))).map lookupReqOf))) ∧
  (∀ (f : Flit) (s : State), s.canonical = true → s.hasIn f 0x20 = true →
    (s.msgDone f.src f.msg = true → ∃ t, exec (.ack f) s = .next t ∧ t.fab.sent = s.fab.sent ∧ t.fab.inbox = s.fab.inbox.erase f ∧
      t.getF Fld.hlkE2eDups 0 = min (s.getF Fld.hlkE2eDups 0 + 1) (2 ^ 16 - 1)) ∧
    (∀ m, s.msgDone f.src f.msg = false →
      s.fab.sent.find? (fun m => m.dst == f.src && m.msg == f.arg % 2 ^ 32) = some m → (∀ q ∈ s.fab.queued, q.dst ≠ m.dst) →
      (s.chase m.slot).finished = false →
      ∃ t, exec (.ack f) s = .next t ∧ t.fab.sent = s.fab.sent.erase m ∧ t.fab.inbox = s.fab.inbox.erase f ∧
        t.msgDone f.src f.msg = true) ∧
    (s.msgDone f.src f.msg = false → s.fab.sent.find? (fun m => m.dst == f.src && m.msg == f.arg % 2 ^ 32) = none →
      ∃ t, exec (.ack f) s = .next t ∧ t.fab.sent = s.fab.sent ∧ t.fab.inbox = s.fab.inbox.erase f ∧
        t.msgDone f.src f.msg = true ∧ State.SameBut [] [.fab] s t)) ∧
  (∀ (f : Flit) (c : Nat) (s : State), s.canonical = true → s.hasIn f 0x30 = true → s.slotOfTag f.chase = some c →
    f.arg < 2 ^ 22 →
    (∀ n, s.csStriking c = true → (ptOrdinal (s.forme c) f.src).isSome = true → f.arg / 2 ^ 16 = s.activeCtx c →
      s.markOf c (s.activeCtx c) (f.arg % 2 ^ 16) = some n → n < 2 ^ 14 → s.flag Fld.mrkFabric n = true → (s.mark n).waits = [] →
      ∃ t, exec (.fabricSignal f) s = .next t ∧ t.signalled s n 1 ∧ t.msgDone f.src f.msg = true) ∧
    (s.csStriking c = false ∨ (ptOrdinal (s.forme c) f.src).isSome = false ∨ f.arg / 2 ^ 16 ≠ s.activeCtx c ∨
        s.markOf c (s.activeCtx c) (f.arg % 2 ^ 16) = none ∨
        (∃ n, s.markOf c (s.activeCtx c) (f.arg % 2 ^ 16) = some n ∧ s.flag Fld.mrkFabric n = false) →
      ∃ t, exec (.fabricSignal f) s = .next t ∧ t.msgDone f.src f.msg = true ∧
        State.SameBut [.mrkEvents, .hlkRtStatus] [.fab, .out] s t ∧
        t.getF Fld.mrkStale c = min (s.getF Fld.mrkStale c + 1) (2 ^ 16 - 1))) ∧
  (∀ (dst msg : Nat) (m : MsgRec) (s : State), s.canonical = true → s.isUp = true →
    s.fab.sent.find? (fun m => m.dst == dst && m.msg == msg) = some m →
    (m.resends < 2 → ∃ t, exec (.e2eTimeout dst msg) s = .next t ∧
      t.getF Fld.hlkE2eResends 0 = min (s.getF Fld.hlkE2eResends 0 + 1) (2 ^ 16 - 1) ∧
      { m with resends := m.resends + 1 } ∈ t.fab.sent) ∧
    (2 ≤ m.resends → ∃ t, exec (.e2eTimeout dst msg) s = .next t ∧
      t.getF Fld.hlkE2eLost 0 = min (s.getF Fld.hlkE2eLost 0 + 1) (2 ^ 16 - 1) ∧
      ∀ c, s.slotOfTag m.chase = some c → s.csActive c = true → t.cs c = csFaulted ∧ t.getF Fld.stkFault c = fFabricLoss))

/-- TIME_TICK sends step 1 with the counter's stamp on a link that runs. Step 1 from the only neighbour that can be
followed makes it the parent, notes t1, t2 and t3, and is answered with step 2; step 2 is answered with step 3; step 3
from the parent ends in LOCKED_LINK, and the first lock moves the counter by the offset of R622. A PPS edge with less
than 1 µs of low level is ignored. The first edge makes a free-running device ACQUIRING. One less than 500 ms after
the last accepted is counted in TIME_PPS_EARLY. One 1 s ± 100 µs after an edge that itself came so locks to PPS.
STORM_END clears TIME_STORM and starts acquisition anew. PPS_TIMEOUT leaves LOCKED_PPS for LOCKED_LINK where a parent
can be followed, else for HOLDOVER, which counts. (R733, R734, R735, R736, R737, R738, R739, R619, R620, R621, R622) -/
def Obligations.TimeIsKept : Prop :=
  (∀ (link : Nat) (s : State), s.canonical = true → s.isUp = true → link < 96 → s.linkRuns link = true →
    s.getF Fld.hlkTtHops 0 ≠ 255 → s.linkSends link →
    ∃ t, exec (.timeTick link) s = .next t ∧ State.SameBut [] [.fab, .out] s t ∧
      .timeMsg link 1 [s.nowFine] (s.getF Fld.hlkTtHops 0) s.timeSt s.timeRoot ∈ t.out) ∧
  (∀ (link hops lock root : Nat) (stamps : List Nat) (s : State), s.canonical = true → s.isUp = true → link < 96 →
    s.linkRuns link = true →
    (s.linkSends link → ∃ t h l r, exec (.time link 2 stamps hops lock root) s = .next t ∧
      .timeMsg link 3 [s.nowFine] h l r ∈ t.out) ∧
    (∀ p, s.onlyParent link p hops →
      (∃ t, exec (.time link 1 stamps hops lock root) s = .next t ∧ t.getF Fld.hlkTtHasParent 0 = 1 ∧
        t.getF Fld.hlkTtParentLink 0 = link ∧ t.getF Fld.hlkTtHops 0 = (hops + 1) % 2 ^ 8 ∧ t.time.t1 = stamps.getD 0 0 ∧
        t.time.t2 = s.nowFine ∧ t.time.t3 = s.nowFine ∧
        (s.linkSends link → ∃ h l r, .timeMsg link 2 [stamps.getD 0 0, s.nowFine, s.nowFine] h l r ∈ t.out)) ∧
      (∃ t, exec (.time link 3 stamps hops lock root) s = .next t ∧ t.getF Fld.timeState 0 = tsLink ∧
        t.getF Fld.sysRdyNoTime 0 = 0 ∧ t.time.locked = true ∧
        ∀ e : Int, e = (((s.time.t2 : Int) - (s.time.t1 : Int)) - (((stamps.getD 0 0 : Nat) : Int) - (s.time.t3 : Int)) -
            sextNat 32 (s.getF Fld.hlkLkTtAsym link) * 2 ^ 16 / 1000) / 2 → s.time.locked = false →
          t.now = (((s.ctr : Nat) : Int) - e * 10 ^ 8 / 2 ^ 16).toNat / 10 ^ 8 % 2 ^ 64))) ∧
  (∀ (low stamp : Nat) (s : State), s.canonical = true → s.isUp = true → s.flag Fld.timePpsEn 0 = true →
    s.flag Fld.timeStorm 0 = false →
    stamp = (((s.nowFine : Nat) : Int) - sextNat 32 (s.getF Fld.timePpsComp 0) * 2 ^ 16 / 1000).toNat →
    (low < 1000 → exec (.ppsEdge low) s = .next s) ∧
    (1000 ≤ low → s.timeSt = tsFree → s.time.lastEdge = none →
      ∃ t, exec (.ppsEdge low) s = .next t ∧ t.timeSt = tsAcquiring ∧ t.time.lastEdge = some ((stamp : Nat) : Int) ∧ t.time.good = 0) ∧
    (∀ t0 : Int, 1000 ≤ low → s.time.lastEdge = some t0 →
      (2 * (((stamp : Nat) : Int) - t0) < 10 ^ 9 * 2 ^ 16 →
        ∃ t, exec (.ppsEdge low) s = .next t ∧ t.timeSt = s.timeSt ∧ t.time.lastEdge = some t0 ∧
          t.getF Fld.timePpsEarly 0 = min (s.getF Fld.timePpsEarly 0 + 1) (2 ^ 16 - 1)) ∧
      (s.timeSt = tsAcquiring → 1 ≤ s.time.good → t0 + (10 ^ 9 - 10 ^ 5) * 2 ^ 16 ≤ ((stamp : Nat) : Int) →
        ((stamp : Nat) : Int) ≤ t0 + (10 ^ 9 + 10 ^ 5) * 2 ^ 16 →
        ∃ t, exec (.ppsEdge low) s = .next t ∧ t.timeSt = tsPps ∧ t.time.locked = true ∧ t.getF Fld.hlkTtHops 0 = 0 ∧
          t.getF Fld.hlkTtHasParent 0 = 0 ∧ t.getF Fld.sysRdyNoTime 0 = 0))) ∧
  (∀ (s : State), s.canonical = true → s.live = true →
    (s.flag Fld.timeStorm 0 = true → ∃ t, exec .stormEnd s = .next t ∧ t.flag Fld.timeStorm 0 = false ∧
      t.time.lastEdge = none ∧ t.time.good = 0 ∧ t.timeSt = s.timeSt) ∧
    (s.timeSt = tsPps → s.parentCands = [] → ∃ t, exec .ppsTimeout s = .next t ∧ t.timeSt = tsHoldover ∧
      t.getF Fld.timeHoldovers 0 = min (s.getF Fld.timeHoldovers 0 + 1) (2 ^ 16 - 1)) ∧
    (s.timeSt = tsPps → s.parentCands ≠ [] → ∃ t, exec .ppsTimeout s = .next t ∧ t.timeSt = tsLink ∧
      t.getF Fld.hlkTtHasParent 0 = 1))

/-! ### Ethernet, RoCEv2 and the host's snoops (chapters 12 and 13) -/

/-- A frame of a port with a VLAN and a type goes out: the port is up, has an address, passes the egress filter and its rate
cap is not 0 (R630, R631). -/
def Sys2Proof.Machine.State.portSends (s : State) (q vlan etype : Nat) : Prop :=
  s.portUp q = true ∧ s.portMac q ≠ 0 ∧ s.egressOk q vlan etype = true ∧ u16At (s.portFence q) 4 ≠ 0

/-- The frames of a queue pair go out. -/
def Sys2Proof.Machine.State.qpSends (s : State) (q : Qp) : Prop :=
  s.portSends (qrPort q.raw) (qrVlan q.raw) (etypeOfIp (qrIpv q.raw))

/-- A frame of a port reaches a queue pair that is on this port and not in the error state (R629). -/
structure Sys2Proof.Machine.State.qpHears (s : State) (port qpn : Nat) (q : Qp) : Prop where
  up : s.portUp port = true
  found : s.qp? qpn = some q
  here : qrPort q.raw = port
  working : q.err = false

/-- The region that a key names allows a write, or a read, of a run (R633, R636). -/
structure Sys2Proof.Machine.State.regionAllows (s : State) (write : Bool) (key a n : Nat) (m : Mr) : Prop where
  found : kvGet s.eth.mrs key = some m
  valid : m.valid = true
  right : (if write then m.wr else m.rd) = true
  inside : m.base ≤ a ∧ a + n ≤ m.base + m.len

/-- The three requests that a responder serves. -/
inductive Sys2Proof.Machine.RoceSays (p : RocePkt) : Instr → Prop
  | send : RoceSays p (.send p)
  | write : RoceSays p (.rdmaWrite p)
  | read : RoceSays p (.rdmaRead p)

/-- A request packet for no working queue pair of its port, or in a frame outside 64 to 9,216 bytes or with two tags, is
dropped and counted in ETH_RX_DROPS. The packet expected
next is taken: SEND advances the queue pair, and its last packet is acknowledged and adds 1 to the bound mark;
RDMA_WRITE whose run lies in a region that allows it stores the data, and its last packet is acknowledged once nothing
waits for the host; RDMA_READ of one packet answers with the bytes of the region. A run that no region allows stores
nothing and is answered by a NAK for a remote access error. A poisoned run is not sent, and the queue pair is in the
error state. A packet beyond the one expected is answered by a sequence NAK, a packet outside the subset by one for an
invalid request; neither advances the queue pair. A packet of a SEND or WRITE that has come before is acknowledged again
with the last packet that has completed. A packet with ECN is answered by a CNP where none has been sent; one that goes
out counts. (R628, R629, R632, R633, R634, R635, R636, R638, R813) -/
def Obligations.RoceRequestsAreServed : Prop :=
  (∀ (p : RocePkt) (c : Instr) (s : State), s.canonical = true → RoceSays p c → s.portUp p.port = true →
    frameOk p.bytes p.tags = false ∨ (∀ q, s.qp? p.qpn = some q → qrPort q.raw ≠ p.port ∨ q.err = true) →
    ∃ t, exec c s = .next t ∧ State.SameBut [.ethPortDrops] [] s t ∧
      t.getF Fld.ethRxDrops p.port = min (s.getF Fld.ethRxDrops p.port + 1) (2 ^ 32 - 1)) ∧
  (∀ (p : RocePkt) (q : Qp) (s : State), s.canonical = true → s.qpHears p.port p.qpn q → frameOk p.bytes p.tags = true → p.ecn = false →
    p.psn = q.rxPsn → p.unsupported = false → s.eth.waits = [] →
    (∃ t, exec (.send p) s = .next t ∧ t.qp? p.qpn = some { q with rxPsn := (q.rxPsn + 1) % 2 ^ 24, writeAt := none } ∧
      (p.last = true → s.qpSends q → .roceAck p.port p.qpn p.psn 0 ∈ t.out) ∧
      (∀ m, p.last = true → qrMarkEn q.raw = true → s.markOf q.slot (s.activeCtx q.slot) (qrMark q.raw) = some m → m < 2 ^ 14 →
        (s.mark m).waits = [] → t.signalled s m 1)) ∧
    (∀ key a left, (if p.first then some (p.rkey, p.addr, p.len) else q.writeAt) = some (key, a, left) →
      (∀ m, s.regionAllows true key a left m →
        ∃ t, exec (.rdmaWrite p) s = .next t ∧
          (∀ x, x ∉ [Part.eth, Part.out] → samePart x (s.mrWrite m a (p.data.take (min p.data.length left))) t) ∧
          t.qp? p.qpn = some { q with rxPsn := (q.rxPsn + 1) % 2 ^ 24, writeAt := (if p.last then none
            else some (key, a + min p.data.length left, left - min p.data.length left)) } ∧
          (p.last = true → s.qpSends q → (s.mrWrite m a (p.data.take (min p.data.length left))).host.heldWrites = [] →
            .roceAck p.port p.qpn p.psn 0 ∈ t.out)) ∧
      ((∀ m, ¬s.regionAllows true key a left m) →
        ∃ t, exec (.rdmaWrite p) s = .next t ∧ State.SameBut [.ethPortDrops] [.out] s t ∧
          (s.qpSends q → .roceAck p.port p.qpn p.psn 2 ∈ t.out))) ∧
    (∀ m, s.regionAllows false p.rkey p.addr p.len m → p.len ≤ qrMtu q.raw →
      ((s.mrRead m p.addr p.len).2 = false →
        ∃ t, exec (.rdmaRead p) s = .next t ∧ t.qp? p.qpn = some { q with rxPsn := (q.rxPsn + 1) % 2 ^ 24, writeAt := none } ∧
          (s.qpSends q → .roceData p.port p.qpn (p.psn % 2 ^ 24) (s.mrRead m p.addr p.len).1 (s.qpRate q) ∈ t.out)) ∧
      ((s.mrRead m p.addr p.len).2 = true →
        ∃ t q1, exec (.rdmaRead p) s = .next t ∧ t.qp? p.qpn = some q1 ∧ q1.err = true ∧
          t.getF Fld.ethRcQpErr 0 = min (s.getF Fld.ethRcQpErr 0 + 1) (2 ^ 16 - 1) ∧
          (s.qpSends q → .roceAck p.port p.qpn p.psn 2 ∈ t.out))) ∧
    ((∀ m, ¬s.regionAllows false p.rkey p.addr p.len m) →
      ∃ t, exec (.rdmaRead p) s = .next t ∧ State.SameBut [.ethPortDrops] [.out] s t ∧
        (s.qpSends q → .roceAck p.port p.qpn p.psn 2 ∈ t.out))) ∧
  (∀ (p : RocePkt) (q : Qp) (c : Instr) (s : State), s.canonical = true → RoceSays p c → s.qpHears p.port p.qpn q →
    frameOk p.bytes p.tags = true → p.ecn = false →
    (∀ d, c = .send p ∨ c = .rdmaWrite p → 2 ^ 23 ≤ psnDist q.rxPsn p.psn → kvGet s.eth.done p.qpn = some d → psnDist p.psn d < 2 ^ 23 →
      ∃ t, exec c s = .next t ∧ State.SameBut [.ethPortDrops] [.out] s t ∧ (s.qpSends q → .roceAck p.port p.qpn d 0 ∈ t.out)) ∧
    (psnDist q.rxPsn p.psn ≠ 0 → psnDist q.rxPsn p.psn < 2 ^ 23 →
      ∃ t, exec c s = .next t ∧ State.SameBut [.ethPortDrops] [.out] s t ∧
        (s.qpSends q → .roceAck p.port p.qpn q.rxPsn 3 ∈ t.out)) ∧
    (p.psn = q.rxPsn → p.unsupported = true →
      ∃ t, exec c s = .next t ∧ State.SameBut [.ethPortDrops] [.out] s t ∧
        (s.qpSends q → .roceAck p.port p.qpn p.psn 1 ∈ t.out))) ∧
  (∀ (p : RocePkt) (q : Qp) (c : Instr) (s : State), s.canonical = true → RoceSays p c → s.qpHears p.port p.qpn q →
    frameOk p.bytes p.tags = true → p.ecn = true → psnDist q.rxPsn p.psn ≠ 0 → psnDist q.rxPsn p.psn < 2 ^ 23 → q.cnpAt = none →
    ∃ t, exec c s = .next t ∧ t.qp? p.qpn = some { q with cnpAt := some s.upNs } ∧
      (s.qpSends q → .cnp p.port p.qpn ∈ t.out ∧ t.getF Fld.ethRcCnpTx 0 = min (s.getF Fld.ethRcCnpTx 0 + 1) (2 ^ 16 - 1)) ∧
      (¬s.qpSends q → t.getF Fld.ethRcCnpTx 0 = s.getF Fld.ethRcCnpTx 0))

/-- An acknowledgement ends the SENDs and WRITEs up to its packet and leaves the rest. A sequence NAK or an
acknowledgement timeout sends the outstanding requests again, counted in ETH_RC_RETX, while the retries last; then,
and on a NAK of another code, the queue pair is in the error state, which counts in ETH_RC_QP_ERR. The packet that a
READ expects next is stored in the requester's chase, and its last packet ends the READ; a READ that waited behind 16
goes then. A frame that the MAC refuses is dropped. An acknowledgement with ECN is answered by a CNP. CNP raises the level by
ETH_CC_DROP up to 63 where the hold time is over, and counts. CLIMB_TICK lowers the level by 1 unless a CNP has come
since the last tick. (R628, R629, R632, R637, R638) -/
def Obligations.RoceRequesterFollowsAnswers : Prop :=
  (∀ (f : EthFrame) (qpn psn nak : Nat) (data : Bytes) (c : Instr) (s : State), s.canonical = true → s.portUp f.port = true →
    frameOk f.bytes f.tags = false → c = .roceAcknowledgement f qpn psn nak ∨ c = .readResponse f qpn psn data ∨ c = .cnp f qpn →
    ∃ t, exec c s = .next t ∧ State.SameBut [.ethPortDrops] [] s t ∧
      t.getF Fld.ethRxDrops f.port = min (s.getF Fld.ethRxDrops f.port + 1) (2 ^ 32 - 1)) ∧
  (∀ (f : EthFrame) (qpn psn : Nat) (q : Qp) (s : State), s.canonical = true → s.qpHears f.port qpn q →
    frameOk f.bytes f.tags = true → f.ecn = true → q.cnpAt = none → s.qpSends q →
    ∃ t, exec (.roceAcknowledgement f qpn psn 0) s = .next t ∧ .cnp f.port qpn ∈ t.out ∧
      t.getF Fld.ethRcCnpTx 0 = min (s.getF Fld.ethRcCnpTx 0 + 1) (2 ^ 16 - 1)) ∧
  (∀ (f : EthFrame) (qpn psn : Nat) (q : Qp) (s : State), s.canonical = true → s.qpHears f.port qpn q →
    frameOk f.bytes f.tags = true → f.ecn = false →
    (∃ t q1, exec (.roceAcknowledgement f qpn psn 0) s = .next t ∧ t.qp? qpn = some q1 ∧ q1.err = false ∧
      (∀ r, r ∈ q1.reqs ↔ r ∈ q.reqs ∧ (r.read = true ∨ 2 ^ 23 ≤ psnDist r.last psn)) ∧ State.SameBut [] [.eth] s t) ∧
    (∀ nak, nak ≠ 0 → nak ≠ 3 → nak ≠ 4 →
      ∃ t q1, exec (.roceAcknowledgement f qpn psn nak) s = .next t ∧ t.qp? qpn = some q1 ∧ q1.err = true ∧ q1.reqs = [] ∧ q1.asks = [] ∧
        t.getF Fld.ethRcQpErr 0 = min (s.getF Fld.ethRcQpErr 0 + 1) (2 ^ 16 - 1)) ∧
    (∀ r l c, q.reqs = r :: l → c = .roceAckTimeout qpn ∨ c = .roceAcknowledgement f qpn psn 3 →
      (r.retries < qrRetry q.raw →
        ∃ t q1, exec c s = .next t ∧ t.qp? qpn = some q1 ∧ q1.err = false ∧
          q1.reqs = { r with retries := r.retries + 1, got := 0 } :: l.map (fun x => { x with got := 0 }) ∧
          t.getF Fld.ethRcRetx 0 = min (s.getF Fld.ethRcRetx 0 + 1) (2 ^ 16 - 1) ∧
          (s.qpSends q → ∃ last, .roceResend qpn r.first last (s.qpRate q) ∈ t.out)) ∧
      (qrRetry q.raw ≤ r.retries →
        ∃ t q1, exec c s = .next t ∧ t.qp? qpn = some q1 ∧ q1.err = true ∧ q1.reqs = [] ∧ q1.asks = [] ∧
          t.getF Fld.ethRcQpErr 0 = min (s.getF Fld.ethRcQpErr 0 + 1) (2 ^ 16 - 1))) ∧
    (∀ r l, q.reqs = r :: l → r.rnr < qrRnr q.raw →
      ∃ t q1, exec (.roceAcknowledgement f qpn psn 4) s = .next t ∧ t.qp? qpn = some q1 ∧ q1.err = false ∧
        q1.reqs = { r with rnr := r.rnr + 1, got := 0 } :: l.map (fun x => { x with got := 0 })) ∧
    (∀ r data, q.reqs.find? (fun r => r.read && (r.first + r.got / qrMtu q.raw) % 2 ^ 24 == psn % 2 ^ 24) = some r →
      q.asks = [] → ∃ t q1, exec (.readResponse f qpn psn data) s = .next t ∧ t.qp? qpn = some q1 ∧
        (∀ x, x ≠ Part.eth → samePart x (s.plateStore r.slot (r.addr + r.got) data) t) ∧
        (psn % 2 ^ 24 = r.last → q1.reqs = q.reqs.erase r) ∧
        (psn % 2 ^ 24 ≠ r.last → { r with got := r.got + data.length } ∈ q1.reqs)) ∧
    (∀ r data a, q.reqs.find? (fun r => r.read && (r.first + r.got / qrMtu q.raw) % 2 ^ 24 == psn % 2 ^ 24) = some r →
      psn % 2 ^ 24 = r.last → q.asks = [a] → a.qpn = qpn → a.op = .read → (q.reqs.filter (·.read)).length ≤ 16 →
      ∃ t last, exec (.readResponse f qpn psn data) s = .next t ∧ (s.qpSends q →
        .roceRequest (qrPort q.raw) qpn q.txPsn last .read a.raddr a.rkey a.len [] (s.qpRate q) ∈ t.out)) ∧
    (∃ t q1, exec (.cnp f qpn) s = .next t ∧ t.qp? qpn = some q1 ∧ q1.heard = true ∧
      t.getF Fld.ethRcCnpRx 0 = min (s.getF Fld.ethRcCnpRx 0 + 1) (2 ^ 16 - 1) ∧
      ((∀ t0, q.dropAt = some t0 → s.getF Fld.ethCcHoldUs 0 ≤ s.upNs / 1000 - t0) →
        q1.lv = min 63 (q.lv + s.getF Fld.ethCcDrop 0) ∧ q1.dropAt = some (s.upNs / 1000)) ∧
      ((∃ t0, q.dropAt = some t0 ∧ s.upNs / 1000 - t0 < s.getF Fld.ethCcHoldUs 0) → q1.lv = q.lv ∧ q1.dropAt = q.dropAt))) ∧
  (∀ (qpn : Nat) (q : Qp) (s : State), s.canonical = true → s.isUp = true → s.qp? qpn = some q →
    ∃ t q1, exec (.climbTick qpn) s = .next t ∧ t.qp? qpn = some q1 ∧ q1.heard = false ∧
      q1.lv = (if q.heard then q.lv else q.lv - 1) ∧ State.SameBut [] [.eth] s t)

/-- A port that is up answers an ARP request for its IPv4 address, and a neighbour solicitation for its IPv6 address, with
its MAC address, where the egress filter passes the frame; a frame that the filter stops is counted in ETH_FLT_DROPS
and not sent. A request for any other address, a frame outside 64 to 9,216 bytes or with two tags, and any other frame is
dropped and counted in ETH_RX_DROPS, but for a flow control frame of the port's priority where flow control is on, which
is not dropped.
ETH_RETRAIN takes up ETH_MODE: the port is up if the link comes up, but never in mode 0. (R627, R628, R629, R630,
R631) -/
def Obligations.PortsAnswerAndRetrain : Prop :=
  (∀ (e : EthFrame) (s : State), s.canonical = true → s.portUp e.port = true → s.pfcTakes e = true →
    exec (.otherFrame e) s = .next s) ∧
  (∀ (f : AskFrame) (s : State), s.canonical = true → s.portUp f.port = true →
    (frameOk f.bytes f.tags = true → f.target ≠ 0 → f.target = s.getF Fld.ethIp4 f.port →
      ∃ t, exec (.arp f) s = .next t ∧ State.SameBut [.ethPortDrops] [.out] s t ∧
        (s.portSends f.port 0xFFFF 0x0806 → t.out = .addrReply f.port f.target (s.getF Fld.ethMac f.port) f.srcMac :: s.out) ∧
        (s.getF Fld.ethMac f.port ≠ 0 → s.egressOk f.port 0xFFFF 0x0806 = false → t.out = s.out ∧
          t.getF Fld.ethFltDrops f.port = min (s.getF Fld.ethFltDrops f.port + 1) (2 ^ 32 - 1))) ∧
    (frameOk f.bytes f.tags = true → f.target ≠ 0 → f.target = s.getF Fld.ethIp6Hi f.port * 2 ^ 64 + s.getF Fld.ethIp6Lo f.port →
      ∃ t, exec (.neighbourDiscovery f) s = .next t ∧ State.SameBut [.ethPortDrops] [.out] s t ∧
        (s.portSends f.port 0xFFFF 0x86DD → t.out = .addrReply f.port f.target (s.getF Fld.ethMac f.port) f.srcMac :: s.out)) ∧
    (∀ c, (c = .arp f ∧ (frameOk f.bytes f.tags = false ∨ f.target = 0 ∨ f.target ≠ s.getF Fld.ethIp4 f.port)) ∨
        (c = .neighbourDiscovery f ∧ (frameOk f.bytes f.tags = false ∨ f.target = 0 ∨
          (f.target ≠ s.getF Fld.ethIp6Hi f.port * 2 ^ 64 + s.getF Fld.ethIp6Lo f.port ∧
            (s.getF Fld.ethMac f.port = 0 ∨ f.target ≠ linkLocal (s.getF Fld.ethMac f.port))))) ∨ (∃ e, c = .otherFrame e ∧ e.port = f.port ∧ s.pfcTakes e = false) →
      ∃ t, exec c s = .next t ∧ State.SameBut [.ethPortDrops] [] s t ∧
        t.getF Fld.ethRxDrops f.port = min (s.getF Fld.ethRxDrops f.port + 1) (2 ^ 32 - 1) ∧
        t.getF Fld.ethFltDrops f.port = s.getF Fld.ethFltDrops f.port)) ∧
  (∀ (port : Nat) (up : Bool) (s : State), s.canonical = true → s.isUp = true → port < 4 →
    ∃ t, exec (.ethRetrain port up) s = .next t ∧ t.getF Fld.ethEffMode port = s.getF Fld.ethMode port ∧
      t.flag Fld.ethUp port = (up && decide (s.getF Fld.ethMode port ≠ 0)) ∧
      t.getF Fld.ethFltRate port = s.getF Fld.ethFltRate port ∧ State.SameBut [.ethPortStatus] [] s t)

/-- The host's answer to a back-invalidate snoop takes the line out of the snoop filter and lets every write that waited
for that line take effect through the home slices, in order; no write waits for the line any longer, and no other line
leaves the filter. Where nothing waited for the line and nothing else waits for data to become visible, the filter
alone changes. A snoop from the host is answered with whether the device held the line, which it then holds no longer;
no other host line leaves. (R647, R648, R477) -/
def Obligations.HostSnoopsAndAnswers : Prop :=
  (∀ (line : Nat) (s : State), s.canonical = true → s.busUp = true →
    (∃ t, exec (.backInvalidateResponse line) s = .next t ∧ t.host.snoop = setDel s.host.snoop line ∧
      line ∉ t.host.snoopOut ∧ (∀ w ∈ t.host.heldWrites, w.line ≠ line)) ∧
    (∀ w, s.host.heldWrites = [w] → w.line = line → s.samples = [] → s.eth.waits = [] → s.fab.unseen = [] →
      ∃ t, exec (.backInvalidateResponse line) s = .next t ∧ t.host.heldWrites = [] ∧
        ∀ x, x ≠ Part.host → samePart x (s.landWrite w) t) ∧
    ((∀ w ∈ s.host.heldWrites, w.line ≠ line) → s.samples = [] → s.eth.waits = [] → s.fab.unseen = [] →
      ∃ t, exec (.backInvalidateResponse line) s = .next t ∧ t.host.heldWrites = s.host.heldWrites ∧
        State.SameBut [] [.host] s t)) ∧
  (∀ (line : Nat) (s : State), s.canonical = true → s.busUp = true →
    ∃ t, exec (.cxlCacheSnoop line) s = .next t ∧ t.out = .snoopAnswer line (s.host.hostLines.contains line) :: s.out ∧
      t.host.hostLines = setDel s.host.hostLines line ∧ State.SameBut [] [.host, .out] s t)

/-! ### Ink, board, reliability (chapters 14 and 16) -/

/-- Every slot that holds a grant stands in the order of grants. -/
def Sys2Proof.Machine.State.grantsOrdered (s : State) : Prop := ∀ c, c < 16 → s.getF Fld.inkCGranted c ≠ 0 → c ∈ s.ink.order

/-- The ledger fits within the envelope, or no grant is left (R715). -/
def Sys2Proof.Machine.State.ledgerFits (s : State) : Prop := s.ledger ≤ ((s.envelope : Nat) : Int) ∨ s.grants = 0

/-- A spare that is not in service, as SPARE_TEST names it: the unit and its count in RAS_SPARES (R810). -/
inductive Sys2Proof.Machine.State.SpareSays (s : State) : Nat × Nat × Nat × Nat → PhysUnit → Field → Prop
  | column (p b c : Nat) (h : kvGet s.ras.colMap (cellKeyP p b c) = none) : State.SpareSays s (0, p, b, c) ⟨0, p, b, c, 32⟩ Fld.rasSpColumns
  | cell (p b c : Nat) (h : kvGet s.ras.cellMap (p * 18 + b) = none) : State.SpareSays s (1, p, b, c) ⟨1, p, b, 16, 0⟩ Fld.rasSpCells
  | block (p k c : Nat) (hk : k < 2) (h : kvGet s.ras.blockMap (p * 2 + k) = none) :
      State.SpareSays s (2, p, 16 + k, c) ⟨2, p, 16 + k, 0, 0⟩ Fld.rasSpBlocks
  | region (p b c : Nat) (h : s.logicalOf p = none) : State.SpareSays s (3, p, b, c) ⟨3, p, 0, 0, 0⟩ Fld.rasSpRegions

/-- A region's sequencer is stuck in the run of a plate (R798). -/
structure Sys2Proof.Machine.State.seqStuck (s : State) (slot region : Nat) : Prop where
  ready : s.isReady = true
  slot16 : slot < 16
  striking : s.csStriking slot = true
  held : region ∈ s.heldRegions slot
  runs : (s.chase slot).plate.started = true ∧ (s.chase slot).plate.waiting = false ∧ (s.chase slot).finished = false ∧
    (s.chase slot).substituting = false
  busy : region ∉ (s.chase slot).plate.regionsDone

/-- INK_BASE_SAMPLE stores the base charge; a ledger that fits keeps every grant, another is lowered until it fits or no
grant is left. THROTTLE_N low, when it qualifies, counts an event and holds the envelope to 300 W; a rise with no
assertion in force counts a glitch; a release, unless stuck, lifts the floor; an assertion of 1 s sets INK_THR_STUCK.
POWER_CLAMP counts and lowers the duty of each running slot, with an ink request or without; how long that lasts is the
model's choice (log 163). A die at the trip temperature trips the device; in a device that runs, as below it, the temperatures are shown, 5 °C over the warning sets the thermal floor, 2 °C over it
or less clears it, and reaching the warning raises the RAS event. A set point of 600 to 750 mV in steps of 5 is sent,
and holds if it is acknowledged; any other is not sent. (R703, R705, R715, R719, R720, R721, R722, R725, R726, R727,
R851, R852) -/
def Obligations.BoardEventsBoundInk : Prop :=
  (∀ (b : Nat) (s : State), s.canonical = true → s.live = true →
    ∃ t, exec (.inkBaseSample b) s = .next t ∧ t.getF Fld.inkBase 0 = min b 65535 ∧ t.envelope = s.envelope ∧
      (s.grantsOrdered → t.ledgerFits) ∧ t.getF Fld.inkGranted 0 = t.grants % 2 ^ 16 ∧
      (s.ledger - ((s.getF Fld.inkBase 0 : Nat) : Int) + ((min b 65535 : Nat) : Int) ≤ ((s.envelope : Nat) : Int) →
        ∀ c, c < 16 → t.getF Fld.inkCGranted c = s.getF Fld.inkCGranted c)) ∧
  (∀ (s : State), s.canonical = true → s.live = true →
    (∃ t, exec .throttleFall s = .next t ∧ t.ink.low = true ∧ State.SameBut [] [.ink] s t) ∧
    (s.ink.low = true → s.ink.asserted = false →
      ∃ t, exec .throttleQualify s = .next t ∧ t.ink.asserted = true ∧ t.flag Fld.inkThrActive 0 = true ∧ t.envelope ≤ 600 ∧
        t.getF Fld.inkEff 0 = t.envelope ∧ t.getF Fld.inkThrEvents 0 = min (s.getF Fld.inkThrEvents 0 + 1) (2 ^ 16 - 1) ∧
        (s.grantsOrdered → t.ledgerFits)) ∧
    (s.ink.low = true →
      ∃ t, exec .throttleRise s = .next t ∧ t.ink.low = false ∧ t.ink.asserted = s.ink.asserted ∧
        t.getF Fld.inkThrGlitches 0 = (if s.ink.asserted then s.getF Fld.inkThrGlitches 0
          else min (s.getF Fld.inkThrGlitches 0 + 1) (2 ^ 16 - 1))) ∧
    (s.ink.low = false → s.ink.asserted = true →
      ∃ t, exec .throttleRelease s = .next t ∧ t.ink.asserted = false ∧
        (s.flag Fld.inkThrStuck 0 = true → t.flag Fld.inkThrActive 0 = s.flag Fld.inkThrActive 0) ∧
        (s.flag Fld.inkThrStuck 0 = false → t.flag Fld.inkThrActive 0 = false ∧ (s.flag Fld.inkThermFloor 0 = false →
          t.envelope = 2 * min s.ink.installed (s.getF Fld.inkClampW 0)))) ∧
    (s.ink.asserted = true →
      ∃ t, exec .throttleStuck s = .next t ∧ t.flag Fld.inkThrStuck 0 = true ∧ State.SameBut [.inkThrottle] [] s t)) ∧
  (∀ (steps : Nat) (s : State), s.canonical = true → s.live = true →
    ∃ t, exec (.powerClamp steps) s = .next t ∧ State.SameBut [.inkEvents, .inkChase] [.chases] s t ∧
      t.getF Fld.inkClampEvents 0 = min (s.getF Fld.inkClampEvents 0 + 1) (2 ^ 16 - 1) ∧
      ∀ c, c < 16 → t.getF Fld.inkCGranted c = s.getF Fld.inkCGranted c ∧
        t.getF Fld.inkCDuty c = (if s.csStriking c then s.getF Fld.inkCDuty c - steps else s.getF Fld.inkCDuty c) ∧
        t.chase c = (if s.csStriking c then { s.chase c with ink := { (s.chase c).ink with cut := (s.chase c).ink.cut + steps } }
          else s.chase c)) ∧
  (∀ (l0 l1 ha hb : Nat) (s : State), s.canonical = true → s.pw.pwrGood = true → s.pw.tripped = false →
    (s.tripAt ≤ max (max l0 l1) (max ha hb) →
      ∃ t, exec (.tempSample l0 l1 ha hb) s = .next t ∧ t.pw.tripped = true ∧ t.live = false ∧
        (s.live = false → State.SameBut [] [.pw] s t) ∧
        (s.live = true → t.getF Fld.inkTL0 0 = l0 % 2 ^ 8 ∧ t.getF Fld.inkTL1 0 = l1 % 2 ^ 8 ∧ t.getF Fld.inkTHa 0 = ha % 2 ^ 8 ∧
          t.getF Fld.inkTHb 0 = hb % 2 ^ 8)) ∧
    (max (max l0 l1) (max ha hb) < s.tripAt → s.live = true →
      ∃ t, exec (.tempSample l0 l1 ha hb) s = .next t ∧ t.pw = s.pw ∧ t.getF Fld.inkTL0 0 = l0 ∧ t.getF Fld.inkTL1 0 = l1 ∧
        t.getF Fld.inkTHa 0 = ha ∧ t.getF Fld.inkTHb 0 = hb ∧
        t.flag Fld.inkThermFloor 0 = (if s.getF Fld.inkWarnC 0 + 5 ≤ max (max l0 l1) (max ha hb) then true
          else if max (max l0 l1) (max ha hb) ≤ s.getF Fld.inkWarnC 0 + 2 then false else s.flag Fld.inkThermFloor 0) ∧
        (s.getF Fld.inkWarnC 0 ≤ l0 → s.getF Fld.inkTL0 0 < s.getF Fld.inkWarnC 0 → t.flag Fld.hifEvRas 0 = true))) ∧
  (∀ (die mv : Nat) (ack : Bool) (s : State), s.canonical = true → s.isUp = true → die < 4 → s.ink.setPoints.length = 4 →
    (600 ≤ mv → mv ≤ 750 → mv % 5 = 0 →
      ∃ t, exec (.setPointWrite die mv ack) s = .next t ∧ .setPoint (0x60 + die) mv ∈ t.out ∧
        (ack = true → t.ink.setPoints.getD die 0 = mv ∧ die ∉ t.ink.nacked) ∧
        (ack = false → t.ink.setPoints = s.ink.setPoints ∧ die ∈ t.ink.nacked)) ∧
    (mv < 600 ∨ 750 < mv ∨ mv % 5 ≠ 0 → exec (.setPointWrite die mv ack) s = .next s))

/-- A stuck sequencer whose region had no such fault within 1 s retries a replay-safe stroke, at most twice, and counts in
RAS_RETRIES; a stroke that is not replay-safe, or retried twice, faults its chase with SEQ_FAULT. A second one within
1 s fails the region, and a spare region is prepared for it where there is one. A restarted core loses its ring, and
its tickets lose their proofs. A spare not in service that fails its test is bad and counted; one already bad or
failed is not counted again. An idle region's prepared substitutions all commit: a spare cell takes the failed cell's
place, a spare region the failed region's. The test port answers IDCODE and BYPASS always, boundary scan under an
unlock, internal scan under a maker unlock with every slot EMPTY, else it counts a refusal. (R798, R800, R801, R803,
R805, R806, R807, R808, R810, R782, R783) -/
def Obligations.FailuresAreContained : Prop :=
  (∀ (slot region : Nat) (s : State), s.canonical = true → s.seqStuck slot region →
    (kvGet s.ras.seqFaults (s.physOf region) = none ∨
        (∃ at0, kvGet s.ras.seqFaults (s.physOf region) = some at0 ∧ at0 + 10 ^ 9 ≤ s.upNs) →
      ((s.chase slot).replaySafe = true → (s.chase slot).retries < 2 →
        ∃ t, exec (.seqWatchdog slot region) s = .next t ∧ (t.chase slot).retries = (s.chase slot).retries + 1 ∧
          t.getF Fld.rasRetries 0 = min (s.getF Fld.rasRetries 0 + 1) (2 ^ 16 - 1) ∧
          kvGet t.ras.seqFaults (s.physOf region) = some s.upNs) ∧
      ((s.chase slot).replaySafe = false ∨ 2 ≤ (s.chase slot).retries →
        ∃ t, exec (.seqWatchdog slot region) s = .next t ∧ t.cs slot = csFaulted ∧ t.getF Fld.stkFault slot = fSeqFault)) ∧
    (∀ at0, kvGet s.ras.seqFaults (s.physOf region) = some at0 → s.upNs < at0 + 10 ^ 9 →
      ∃ t, exec (.seqWatchdog slot region) s = .next t ∧ ⟨3, s.physOf region, 0, 0, 0⟩ ∈ t.ras.failed ∧
        ∀ q, s.spareRegion (s.physOf region) = some q → q ≠ s.physOf region →
          ⟨3, s.physOf region, 0, 0, q⟩ ∈ t.ras.prepared)) ∧
  (∀ (core : Nat) (s : State), s.canonical = true → s.isUp = true →
    ∃ t, exec (.coreRestart core) s = .next t ∧ t.host.rings = s.host.rings.filter (fun r => r.1 != 256 + core) ∧
      t.host.posted = s.host.posted.filter (fun p => p.1 != 256 + core) ∧
      (∀ seq x, s.ticket? (256 + core) seq = some x → ∃ y, t.ticket? (256 + core) seq = some y ∧ y.orphan = true) ∧
      (∀ ring seq, ring ≠ 256 + core → t.ticket? ring seq = s.ticket? ring seq)) ∧
  (∀ (e : Nat × Nat × Nat × Nat) (u : PhysUnit) (f : Field) (s : State), s.canonical = true → s.isUp = true → s.SpareSays e u f →
    (s.isBad u = false → s.isFailed u = false →
      ∃ t, exec (.spareTest [e]) s = .next t ∧ t.ras.bad = s.ras.bad ++ [u] ∧ t.getF f 0 = min (s.getF f 0 + 1) f.max ∧
        t.flag Fld.rasService 0 = true) ∧
    (s.isBad u = true ∨ s.isFailed u = true → exec (.spareTest [e]) s = .next s)) ∧
  (∀ (p : Nat) (s : State), s.canonical = true → s.isUp = true →
    (∀ c, (s.logicalOf p).bind s.regionHolder = some c → s.csActive c = false) →
    (∃ t, exec (.idleRegionSubstitution p) s = .next t ∧ ∀ q, q ∈ t.ras.prepared ↔ q ∈ s.ras.prepared ∧ (q.region = p → 3 < q.level)) ∧
    (∀ q, s.ras.prepared = [q] → q.region = p →
      (q.level = 1 → ∃ t, exec (.idleRegionSubstitution p) s = .next t ∧
        kvGet t.ras.cellMap (q.region * 18 + q.block) = some q.cell ∧
        t.getF Fld.rasSpCells 0 = min (s.getF Fld.rasSpCells 0 + 1) (2 ^ 9 - 1)) ∧
      (q.level = 3 → ∀ k, s.logicalOf p = some k → q.spare < 2 ^ 5 →
        ∃ t, exec (.idleRegionSubstitution p) s = .next t ∧ t.physOf k = q.spare ∧ t.regionValid k = s.regionValid k))) ∧
  (∀ (code : Nat) (extended : Bool) (s : State), s.canonical = true → s.pw.pwrGood = true →
    (∃ t, exec (.boundaryScan code) s = .next t ∧ State.SameBut [] [.out] s t ∧ t.out = .testPort (decide (code ≤ 1) ||
      s.flag Fld.secUnlockOp 0 || s.flag Fld.secUnlockMaker 0) :: s.out) ∧
    (s.flag Fld.secUnlockMaker 0 = false ∨ (extended = true ∧ Config.variant = false) →
      ∃ t, exec (.internalScan extended) s = .next t ∧ State.SameBut [] [.out] s t ∧ t.out = .testPort false :: s.out) ∧
    (s.flag Fld.secUnlockMaker 0 = true → extended = false →
      ((∀ c, c < 16 → s.cs c = csEmpty) → ∃ t, exec (.internalScan extended) s = .next t ∧ State.SameBut [] [.out] s t ∧
        t.out = .testPort true :: s.out) ∧
      ((∃ c, c < 16 ∧ s.cs c ≠ csEmpty) → ∃ t, exec (.internalScan extended) s = .next t ∧ t.out = .testPort false :: s.out ∧
        t.getF Fld.secTestRefused 0 = min (s.getF Fld.secTestRefused 0 + 1) (2 ^ 8 - 1) ∧
        State.SameBut [.secColEvents] [.out] s t)))

/-! ### The security island (chapter 15) -/

/-- The mailbox commands by their opcodes (R755). -/
inductive Sys2Proof.Machine.MailSays (rid : Option Nat) (msg : Bytes) (storage : Bool) : Nat → Instr → Prop
  | getChallenge : MailSays rid msg storage 0x01 (.getChallenge rid msg true)
  | readColophon : MailSays rid msg storage 0x02 (.readColophon rid msg storage)
  | getIdentity : MailSays rid msg storage 0x03 (.getIdentity rid msg storage)
  | setEnvelope : MailSays rid msg storage 0x10 (.setEnvelope rid msg storage)
  | setNodeId : MailSays rid msg storage 0x11 (.setNodeId rid msg storage)
  | setFabric : MailSays rid msg storage 0x12 (.setFabric rid msg storage)
  | fwStage : MailSays rid msg storage 0x13 (.fwStage rid msg storage)
  | setNetId : MailSays rid msg storage 0x14 (.setNetId rid msg storage)
  | debugSession : MailSays rid msg storage 0x20 (.debugSession rid msg storage)
  | fenceWrite : MailSays rid msg storage 0x30 (.fenceWrite rid msg storage)
  | enrol : MailSays rid msg storage 0x31 (.enrol rid msg storage)
  | debugUnlock : MailSays rid msg storage 0x32 (.debugUnlock rid msg storage)
  | repairAccess : MailSays rid msg storage 0x33 (.repairAccess rid msg storage)
  | zeroise : MailSays rid msg storage 0x34 (.zeroise rid msg storage)

/-- A mailbox command of opcode `op` reaches the island while no other runs: `b` is the 16 KiB on which it runs, from a host of the host set
through the buffer, or from MCTP (R749, R750). -/
structure Sys2Proof.Machine.State.mailed (s : State) (op : Nat) (rid : Option Nat) (msg b : Bytes) : Prop where
  served : s.mbServed = true
  idle : s.mbBusy = false
  opcode : mcOpcode b = op
  host : ∀ r, rid = some r → s.hears r ∧ b = memGetRun s.sec.buf 0 16384
  mctp : rid = none → s.stage ≠ stageRom ∧ mcOpcode msg = op ∧ b = memGetRun (memPutRun [] 0 (msg.take 16384)) 0 16384

/-- The mailbox's answer: result, length and bytes, and the MCTP response (R750, R757). -/
def Sys2Proof.Machine.State.responds (t : State) (rid : Option Nat) (result : Nat) (data : Bytes) : Prop :=
  t.getF Fld.secMbResult 0 = result ∧ t.getF Fld.secMbRlen 0 = data.length % 2 ^ 16 ∧ memGetRun t.sec.buf 0 data.length = data ∧
    (rid = none → .mctp result data ∈ t.out)

/-- The role of signatures in an opcode: signed commands need a challenge (R752, R755). -/
def Sys2Proof.Machine.isSigned (op : Nat) : Prop := 0x10 ≤ op

/-- The island keeps what only an accepted command changes. -/
def Sys2Proof.Machine.State.keepsSettings (t s : State) : Prop :=
  t.sec.settings = s.sec.settings ∧ t.sec.creds = s.sec.creds ∧ t.sec.auths = s.sec.auths ∧ t.sec.fencePending = s.sec.fencePending ∧
    t.sec.slots = s.sec.slots

/-- A command that fails a check answers the result of the first check that fails, with no bytes, and changes no setting,
credential, authorisation, pending fence record or firmware slot: SELFTEST, BAD_FORMAT, SERIAL and CHALLENGE in this
order. A command while another runs answers BUSY and does nothing else. A command that passes answers OK. GET_CHALLENGE answers a challenge that is then good, and where
its random source fails puts the island in its error state and answers SELFTEST; READ_COLOPHON the
entries asked for; GET_IDENTITY the identity certificate. SET_ENVELOPE, SET_NODE_ID, SET_FABRIC, SET_NET_ID and
FW_STAGE store their settings, the first without a change of the envelope in force, the last in the slot that the device
has not booted from; DEBUG_SESSION opens a session over its slots, or closes it; with room in the colophon
FENCE_WRITE leaves a fence record pending, ENROL enrols or revokes, DEBUG_UNLOCK locks or unlocks, REPAIR_ACCESS opens
its stacks, and ZEROISE ends credentials, settings and identity. (R749, R752, R753, R755, R757, R759, R760,
R761, R762, R764, R781, R785) -/
def Obligations.MailboxCommandsAreCheckedAndApplied : Prop :=
  (∀ (op : Nat) (rid : Option Nat) (msg b : Bytes) (storage : Bool) (c : Instr) (s : State), s.canonical = true →
    MailSays rid msg storage op c → s.mailed op rid msg b →
    (∀ r k, s.mbCheck b = (r, k) → r ≠ mrOk → ∃ t, exec c s = .next t ∧ t.responds rid r [] ∧ t.keepsSettings s ∧
      ∀ p, p ∉ [Part.sec, Part.out] → samePart p s t) ∧
    (s.getF Fld.secIslandState 0 = islError → ∃ t, exec c s = .next t ∧ t.responds rid mrSelftest []) ∧
    (s.getF Fld.secIslandState 0 = islOperational →
      (mbLayoutOk b = false → ∃ t, exec c s = .next t ∧ t.responds rid mrBadFormat []) ∧
      (mbLayoutOk b = true → mcSerial b ≠ Config.serial.toNat → ∃ t, exec c s = .next t ∧ t.responds rid mrSerial []) ∧
      (mbLayoutOk b = true → mcSerial b = Config.serial.toNat → isSigned op → s.challengeOk (mcChallenge b) = false →
        ∃ t, exec c s = .next t ∧ t.responds rid mrChallenge []))) ∧
  (∀ (op : Nat) (rid : Option Nat) (msg : Bytes) (storage : Bool) (c : Instr) (s : State), s.canonical = true →
    MailSays rid msg storage op c → s.mbServed = true → s.mbBusy = true →
    (∀ r, rid = some r → s.hears r → mcOpcode (memGetRun s.sec.buf 0 2) = op →
      ∃ t, exec c s = .next t ∧ t.getF Fld.secMbResult 0 = mrBusy ∧ State.SameBut [.secMbCtrl] [] s t) ∧
    (rid = none → s.stage ≠ stageRom → mcOpcode msg = op →
      ∃ t, exec c s = .next t ∧ .mctp mrBusy [] ∈ t.out ∧ State.SameBut [] [.out] s t)) ∧
  (∀ (rid : Option Nat) (msg b : Bytes) (storage k : Bool) (s : State), s.canonical = true → s.mbCheck b = (mrOk, k) →
    (s.mailed 0x01 rid msg b → ∃ t v, exec (.getChallenge rid msg true) s = .next t ∧ v < 2 ^ 64 ∧ t.challengeOk v = true ∧
      t.responds rid mrOk (natLe 8 v) ∧ t.keepsSettings s) ∧
    (s.mailed 0x01 rid msg b → ∃ t, exec (.getChallenge rid msg false) s = .next t ∧ t.getF Fld.secIslandState 0 = islError ∧
      t.responds rid mrSelftest []) ∧
    (s.mailed 0x02 rid msg b → ∃ t rest, exec (.readColophon rid msg storage) s = .next t ∧ t.keepsSettings s ∧ t.responds rid mrOk
      (((s.sec.colophon.filter fun e => decide (u64At (mcBody b) 0 ≤ e.1) && decide (e.1 < u64At (mcBody b) 0 + u32At (mcBody b) 8)).flatMap
        (·.2) ++ rest).take 16384)) ∧
    (s.mailed 0x03 rid msg b → ∃ t, exec (.getIdentity rid msg storage) s = .next t ∧ t.responds rid mrOk (certBytes 0) ∧
      t.keepsSettings s)) ∧
  (∀ (rid : Option Nat) (msg b : Bytes) (k : Bool) (s : State), s.canonical = true → s.mbCheck b = (mrOk, k) →
    (s.mailed 0x10 rid msg b → ∃ t, exec (.setEnvelope rid msg true) s = .next t ∧ t.responds rid mrOk [] ∧
      t.getF Fld.inkInstallW 0 = min (u16At (mcBody b) 0) (s.getF Fld.inkClampW 0) ∧ t.envelope = s.envelope ∧
      t.sec.settings = { s.sec.settings with watts := some (min (u16At (mcBody b) 0) (s.getF Fld.inkClampW 0)) }) ∧
    (s.mailed 0x11 rid msg b → ∃ t, exec (.setNodeId rid msg true) s = .next t ∧ t.responds rid mrOk [] ∧
      t.sec.settings = { s.sec.settings with
        node := if (u16At (mcBody b) 0).testBit 15 then some (u16At (mcBody b) 0 % 2 ^ 15) else none }) ∧
    (s.mailed 0x12 rid msg b → ∃ t, exec (.setFabric rid msg true) s = .next t ∧ t.responds rid mrOk [] ∧
      t.getF Fld.hlkFbName 0 = u32At (mcBody b) 0 ∧ t.getF Fld.hlkFbX 0 = u16At (mcBody b) 5 ∧
      t.getF Fld.hlkFbY 0 = u16At (mcBody b) 7 ∧ t.getF Fld.hlkFbZ 0 = u16At (mcBody b) 9) ∧
    (s.mailed 0x13 rid msg b → ∃ t, exec (.fwStage rid msg true) s = .next t ∧ t.responds rid mrOk [] ∧
      t.getF Fld.secFwPending 0 = 1 ∧
      kvGet t.sec.slots (256 * s.idleSlot + u8At (mcBody b) 12) =
        some (memGetRun s.hostMem (u64At (mcBody b) 0) (u32At (mcBody b) 8))) ∧
    (s.mailed 0x14 rid msg b → ∃ t, exec (.setNetId rid msg true) s = .next t ∧ t.responds rid mrOk [] ∧
      t.getF Fld.ethMac (u8At (mcBody b) 0) = beNat (slice (mcBody b) 1 6) ∧
      t.getF Fld.ethIp4 (u8At (mcBody b) 0) = beNat (slice (mcBody b) 7 4) ∧
      t.getF Fld.ethIp6Hi (u8At (mcBody b) 0) = beNat (slice (mcBody b) 11 16) / 2 ^ 64 ∧
      t.getF Fld.ethIp6Lo (u8At (mcBody b) 0) = beNat (slice (mcBody b) 11 16) % 2 ^ 64) ∧
    (s.mailed 0x20 rid msg b → ∃ t, exec (.debugSession rid msg true) s = .next t ∧ t.responds rid mrOk [] ∧
      (u8At (mcBody b) 6 = 1 → ∀ a ∈ t.sec.auths, a.kind ≠ 3) ∧
      (u8At (mcBody b) 6 = 0 → t.flag Fld.secSession 0 = true ∧ t.getF Fld.secSessionSlots 0 = u16At (mcBody b) 0 ∧
        ⟨3, u16At (mcBody b) 0, s.upNs + u32At (mcBody b) 2 * 10 ^ 9, mcCreds b⟩ ∈ t.sec.auths))) ∧
  (∀ (rid : Option Nat) (msg b : Bytes) (k : Bool) (s : State), s.canonical = true → s.mbCheck b = (mrOk, k) →
    s.sec.colophon.length < 2 ^ 20 →
    (s.mailed 0x30 rid msg b → ∃ t, exec (.fenceWrite rid msg true) s = .next t ∧ t.responds rid mrOk [] ∧
      t.getF Fld.secFencePending 0 = 1 ∧ t.sec.fencePending = some (patch (mcBody b) 4 (natLe 4 t.sec.rpmb))) ∧
    (s.mailed 0x31 rid msg b → ∃ t, exec (.enrol rid msg true) s = .next t ∧ t.responds rid mrOk [] ∧
      t.sec.creds = (if enOp (mcBody b) = 0 then s.sec.creds ++ [enCred (mcBody b)]
        else s.sec.creds.filter fun c => c.id != (enCred (mcBody b)).id)) ∧
    (s.mailed 0x32 rid msg b → ∃ t, exec (.debugUnlock rid msg true) s = .next t ∧ t.responds rid mrOk [] ∧
      (u8At (mcBody b) 0 = 0 → ∀ a ∈ t.sec.auths, a.kind ≠ 1) ∧
      (u8At (mcBody b) 0 = 1 → t.flag Fld.secUnlockOp 0 = true ∧ t.flag Fld.secUnlockMaker 0 = false) ∧
      (u8At (mcBody b) 0 = 2 → t.flag Fld.secUnlockOp 0 = false ∧ t.flag Fld.secUnlockMaker 0 = true)) ∧
    (s.mailed 0x33 rid msg b → ∃ t, exec (.repairAccess rid msg true) s = .next t ∧ t.responds rid mrOk [] ∧
      t.flag Fld.secRepair 0 = true ∧ t.getF Fld.secRepairStacks 0 = u16At (mcBody b) 0) ∧
    (s.mailed 0x34 rid msg b → ∃ t, exec (.zeroise rid msg true) s = .next t ∧ t.responds rid mrOk [] ∧ t.sec.creds = [] ∧
      t.sec.settings = Settings.empty ∧ t.sec.identity = false ∧ t.getF Fld.secIslandState 0 = islIdentityFail))

/-- An operational device in BRING_UP or READY answers GET_VERSION with SPDM 1.2, then GET_CAPABILITIES, then
NEGOTIATE_ALGORITHMS; after these GET_DIGESTS, GET_CERTIFICATE and CHALLENGE of slot 0, and GET_MEASUREMENTS: the
number of blocks, or a block, signed where asked; blocks 2 to 5 are the digests that the boot measured, block 8 is the hash
of the fences applied, 11 the colophon's head, 16 + c the header digest of slot c's forme. A request out of this order, or of another slot, is answered by an error
and changes nothing else. A challenge that lapses is no longer good. A session or authorisation that lapses is no
longer in force and is recorded. CHECKPOINT covers the newest entry that no checkpoint covers yet, with its hash, the time
and a signature, raises the RPMB counter and leaves its own hash in RPMB. The bits of capabilities and algorithms and the
bytes of a checkpoint are the model's (log 167, 168). (R752, R760, R771, R773, R774, R775, R777, R781, R842) -/
def Obligations.AttestationAnswersInOrder : Prop :=
  (∀ (s : State), s.canonical = true → s.isUp = true → s.getF Fld.secIslandState 0 = islOperational →
    (∃ t, exec .getVersion s = .next t ∧ t.sec.spdm = 1 ∧ t.out = .spdm 0x84 [0x12] false :: s.out ∧
      State.SameBut [] [.sec, .out] s t) ∧
    (1 ≤ s.sec.spdm → ∃ t, exec .getCapabilities s = .next t ∧ t.sec.spdm = max 2 s.sec.spdm ∧ t.out = .spdm 0xE1 spdmFlags false :: s.out ∧
      State.SameBut [] [.sec, .out] s t) ∧
    (2 ≤ s.sec.spdm → ∃ t, exec .negotiateAlgorithms s = .next t ∧ t.sec.spdm = 3 ∧ t.out = .spdm 0xE3 spdmAlgorithms false :: s.out ∧
      State.SameBut [] [.sec, .out] s t) ∧
    (s.sec.spdm = 3 →
      (∃ t, exec .getDigests s = .next t ∧ t.out = .spdm 0x81 (sha256 (certBytes 1)) false :: s.out ∧ State.SameBut [] [.out] s t) ∧
      (∀ offset length, ∃ t, exec (.getCertificate 0 offset length) s = .next t ∧ State.SameBut [] [.out] s t ∧
        (offset + length ≤ (certBytes 1).length → t.out = .spdm 0x82 (slice (certBytes 1) offset length) false :: s.out)) ∧
      (∀ nonce, ∃ t own sig, exec (.challenge 0 nonce) s = .next t ∧ own.length = 32 ∧ sig.length = 384 ∧
        t.out = .spdm 0x83 (sha256 (certBytes 1) ++ slice nonce 0 32 ++ own ++ sig) true :: s.out ∧
        State.SameBut [] [.freeIdx, .out] s t) ∧
      (∀ index blk, s.measurement index = some blk →
        (∃ t, exec (.getMeasurements index false) s = .next t ∧ t.out = .spdm 0xE0 (natLe 1 index ++ blk) false :: s.out ∧
          State.SameBut [] [.out] s t) ∧
        (∃ t sig, exec (.getMeasurements index true) s = .next t ∧ sig.length = 384 ∧
          t.out = .spdm 0xE0 (natLe 1 index ++ blk ++ sig) true :: s.out ∧ State.SameBut [] [.freeIdx, .out] s t) ∧
        (2 ≤ index → index ≤ 5 → blk = slice (s.sec.measured.getD (index - 2) []) 0 32) ∧ (index = 8 → blk = sha256 s.sec.applied) ∧ (index = 11 → blk = s.colHead) ∧
        (∀ c, c < 16 → index = 16 + c → s.cs c ≠ csEmpty → s.cs c ≠ csValidating → blk = fhHeaderDigest (s.forme c))) ∧
      (∃ t, exec (.getMeasurements 0 false) s = .next t ∧ t.out = .spdm 0xE0 [27] false :: s.out)) ∧
    (∀ c, (c = .getCapabilities ∧ s.sec.spdm = 0) ∨ (c = .negotiateAlgorithms ∧ s.sec.spdm < 2) ∨
        (c = .getDigests ∧ s.sec.spdm ≠ 3) ∨ (∃ slot o l, c = .getCertificate slot o l ∧ (slot ≠ 0 ∨ s.sec.spdm ≠ 3)) ∨
        (∃ slot n, c = .challenge slot n ∧ (slot ≠ 0 ∨ s.sec.spdm ≠ 3)) ∨ (∃ i g, c = .getMeasurements i g ∧ s.sec.spdm ≠ 3) →
      ∃ t, exec c s = .next t ∧ t.out = .spdm 0 [] false :: s.out ∧ State.SameBut [] [.out] s t)) ∧
  (∀ (challenge : Nat) (s : State), s.canonical = true → s.live = true →
    (∃ t, exec (.challengeLapse challenge) s = .next t ∧ t.challengeOk challenge = false ∧
      (∀ v, v ≠ challenge → t.challengeOk v = s.challengeOk v) ∧ State.SameBut [] [.sec] s t) ∧
    (∀ kind c, (kind = 3 ∧ c = .sessionLapse) ∨ (kind = 1 ∧ c = .authEnd 1) ∨ (kind = 2 ∧ c = .authEnd 2) →
      ((∀ a ∈ s.sec.auths, a.kind ≠ kind) → exec c s = .next s) ∧
      ((∃ a ∈ s.sec.auths, a.kind = kind) →
        ∃ t, exec c s = .next t ∧ (∀ a, a ∈ t.sec.auths ↔ a ∈ s.sec.auths ∧ a.kind ≠ kind) ∧
          (kind = 3 → t.flag Fld.secSession 0 = false) ∧ (kind = 2 → t.flag Fld.secRepair 0 = false) ∧
          (kind = 1 → t.flag Fld.secUnlockOp 0 = false ∧ t.flag Fld.secUnlockMaker 0 = false) ∧
          (s.sec.colophon.length < 2 ^ 20 → t.sec.colophon.length = s.sec.colophon.length + 1))) ∧
    (∀ e, s.sec.colophon.getLast? = some e →
      (s.ckptSeq = some e.1 → exec .checkpoint s = .next s) ∧
      (s.ckptSeq ≠ some e.1 → s.getF Fld.secIslandState 0 = islOperational →
        ∃ t, exec .checkpoint s = .next t ∧ t.ckptSeq = some e.1 ∧ t.sec.rpmb = s.sec.rpmb + 1 ∧
          t.getF Fld.secColCkpt 0 = e.1 % 2 ^ 64 ∧ t.sec.minSvn = max s.sec.minSvn s.sec.bootSvn ∧
          ∃ ck, t.sec.ckpts = ck :: s.sec.ckpts ∧ ck.seq = e.1 ∧ ck.hash = sha256 e.2 ∧ ck.rpmb = s.sec.rpmb + 1 ∧
            ck.time = s.rd .timeNs 0 ∧ ck.sig.length = 384 ∧ t.sec.rpmbHash = sha256 ck.bytes)))
end

