-- ==== Sys2Proof/Laws/Memory.lean ====
section
/-! SUPPORT. The canonical form of sparse lists: every operation on a memory list and on the register file keeps it. -/

set_option Elab.async false

namespace Sys2Proof.Machine

/-- The keys of a list rise strictly. -/
def keysRise {α : Type} : List (Nat × α) → Prop
  | a :: b :: t => a.1 < b.1 ∧ keysRise (b :: t)
  | _ => True

/-- Every key of a list lies above a bound. -/
def keysAbove {α : Type} (k : Nat) (l : List (Nat × α)) : Prop := ∀ e ∈ l, k < e.1

theorem keysRise_cons {α : Type} {a : Nat × α} {l : List (Nat × α)} :
    keysRise (a :: l) ↔ keysAbove a.1 l ∧ keysRise l := by
  induction l generalizing a with
  | nil => simp [keysRise, keysAbove]
  | cons b t ih =>
    simp only [keysRise, ih, keysAbove, List.mem_cons, forall_eq_or_imp]
    constructor
    · rintro ⟨h1, h2, h3⟩
      exact ⟨⟨h1, fun e he => Nat.lt_trans h1 (h2 e he)⟩, h2, h3⟩
    · rintro ⟨⟨h1, h2⟩, h3, h4⟩
      exact ⟨h1, h3, h4⟩

theorem keysRise_filter {α : Type} {l : List (Nat × α)} (p : Nat × α → Bool) (h : keysRise l) : keysRise (l.filter p) := by
  induction l with
  | nil => exact h
  | cons a t ih =>
    rw [keysRise_cons] at h
    rw [List.filter_cons]
    split
    · rw [keysRise_cons]
      exact ⟨fun e he => h.1 e (List.mem_of_mem_filter he), ih h.2⟩
    · exact ih h.2

theorem mem_kvPut {α : Type} {l : List (Nat × α)} {k : Nat} {v : α} {e : Nat × α} (h : e ∈ kvPut l k v) : e = (k, v) ∨ e ∈ l := by
  induction l with
  | nil => simpa [kvPut] using h
  | cons a t ih =>
    obtain ⟨k', v'⟩ := a
    simp only [kvPut] at h
    split at h
    · simp only [List.mem_cons] at h ⊢; tauto
    · split at h
      · simp only [List.mem_cons] at h ⊢; tauto
      · rcases List.mem_cons.1 h with h | h
        · exact .inr (by simp [h])
        · rcases ih h with h | h
          · exact .inl h
          · exact .inr (by simp [h])

theorem keysRise_kvPut {α : Type} {l : List (Nat × α)} {k : Nat} {v : α} (h : keysRise l) : keysRise (kvPut l k v) := by
  induction l with
  | nil => simp [kvPut, keysRise]
  | cons a t ih =>
    obtain ⟨k', v'⟩ := a
    rw [keysRise_cons] at h
    simp only [kvPut]
    split
    · rw [keysRise_cons, keysRise_cons]
      refine ⟨fun e he => ?_, h⟩
      rcases List.mem_cons.1 he with he | he
      · subst he; assumption
      · have := h.1 e he; simp only at this; omega
    · split
      · rw [keysRise_cons]; subst_vars; exact h
      · rw [keysRise_cons]
        refine ⟨fun e he => ?_, ih h.2⟩
        rcases mem_kvPut he with he | he
        · subst he; simp only; omega
        · exact h.1 e he

theorem mem_kvDel {α : Type} {l : List (Nat × α)} {k : Nat} {e : Nat × α} (h : e ∈ kvDel l k) : e ∈ l := by
  induction l with
  | nil => simp [kvDel] at h
  | cons a t ih =>
    obtain ⟨k', v'⟩ := a
    simp only [kvDel] at h
    split at h
    · exact h
    · split at h
      · exact List.mem_cons_of_mem _ h
      · rcases List.mem_cons.1 h with h | h
        · exact h ▸ List.mem_cons_self ..
        · exact List.mem_cons_of_mem _ (ih h)

theorem keysRise_kvDel {α : Type} {l : List (Nat × α)} {k : Nat} (h : keysRise l) : keysRise (kvDel l k) := by
  induction l with
  | nil => simp [kvDel, keysRise]
  | cons a t ih =>
    obtain ⟨k', v'⟩ := a
    have hc := keysRise_cons.1 h
    simp only [kvDel]
    split
    · exact h
    · split
      · exact hc.2
      · exact keysRise_cons.2 ⟨fun e he => hc.1 e (mem_kvDel he), ih hc.2⟩

theorem keysRise_kvSet {α : Type} [DecidableEq α] {d : α} {l : List (Nat × α)} {k : Nat} {v : α} (h : keysRise l) :
    keysRise (kvSet d l k v) := by
  unfold kvSet
  split
  · exact keysRise_kvDel h
  · exact keysRise_kvPut h

/-- No key at or below the bound of a list is in it. -/
theorem kvGet_above {α : Type} {l : List (Nat × α)} {j i : Nat} (h : keysAbove j l) (hi : i ≤ j) : kvGet l i = none := by
  cases l with
  | nil => rfl
  | cons a t =>
    obtain ⟨k', v'⟩ := a
    have := h (k', v') (List.mem_cons_self ..)
    simp only [kvGet] at this ⊢
    rw [if_neg (by omega), if_pos (by omega)]

theorem kvGet_kvPut {α : Type} (l : List (Nat × α)) (k : Nat) (v : α) (j : Nat) :
    kvGet (kvPut l k v) j = if j = k then some v else kvGet l j := by
  induction l with
  | nil => simp only [kvPut, kvGet]; split_ifs <;> rfl
  | cons a t ih =>
    obtain ⟨k', v'⟩ := a
    simp only [kvPut]
    split_ifs <;> simp only [kvGet, ih] <;> split_ifs <;> first | rfl | omega

theorem kvGet_kvDel {α : Type} (l : List (Nat × α)) (k j : Nat) (h : keysRise l) :
    kvGet (kvDel l k) j = if j = k then none else kvGet l j := by
  induction l with
  | nil => simp [kvDel, kvGet]
  | cons a t ih =>
    obtain ⟨k', v'⟩ := a
    have hc := keysRise_cons.1 h
    have ha : ∀ i, i ≤ k' → kvGet t i = none := fun i hi => kvGet_above hc.1 hi
    simp only [kvDel]
    split
    · simp only [kvGet]
      split_ifs <;> first | rfl | omega
    · split
      · simp only [kvGet]
        split_ifs <;> first | rfl | omega | exact ha _ (by omega)
      · simp only [kvGet, ih hc.2]
        split_ifs <;> first | rfl | omega

/-- A list reads as set at the key set, and as before at every other key; the value `d` stands for an unlisted key. -/
theorem kvGet_kvSet {α : Type} [DecidableEq α] (d : α) (l : List (Nat × α)) (k : Nat) (v : α) (j : Nat) (h : keysRise l) :
    kvGet (kvSet d l k v) j = if j = k then (if v = d then none else some v) else kvGet l j := by
  unfold kvSet
  split
  · rw [kvGet_kvDel _ _ _ h]
  · rw [kvGet_kvPut]

/-- Dropping other entries leaves the value at a key. -/
theorem kvGet_filter {α : Type} {l : List (Nat × α)} {k : Nat} (p : Nat × α → Bool) (h : keysRise l)
    (hp : ∀ v, p (k, v) = true) : kvGet (l.filter p) k = kvGet l k := by
  induction l with
  | nil => rfl
  | cons a t ih =>
    obtain ⟨k', v'⟩ := a
    have hc := keysRise_cons.1 h
    rw [List.filter_cons]
    by_cases hk : k = k'
    · subst hk
      rw [if_pos (hp v')]
      simp [kvGet]
    · by_cases hlt : k < k'
      · have h1 : kvGet ((k', v') :: t) k = none := by simp [kvGet, hk, hlt]
        rw [h1]
        split
        · simp [kvGet, hk, hlt]
        · exact kvGet_above (fun e he => Nat.lt_trans hlt (hc.1 e (List.mem_of_mem_filter he))) (Nat.le_refl _)
      · split
        · simp only [kvGet, if_neg hk, if_neg hlt, ih hc.2]
        · simp only [kvGet, if_neg hk, if_neg hlt, ih hc.2]

/-! ### Memory lists -/

theorem sorted_iff {m : List Host.Cell} : Memory.sorted m = true ↔ keysRise m := by
  induction m with
  | nil => simp [Memory.sorted, keysRise]
  | cons a t ih =>
    cases t with
    | nil => simp [Memory.sorted, keysRise]
    | cons b t => simp [Memory.sorted, keysRise, ih]

/-- The canonical form of a memory list: keys strictly rising, no byte equal to zero. -/
theorem wf_iff {m : List Host.Cell} : Memory.wf m = true ↔ keysRise m ∧ ∀ e ∈ m, e.2 ≠ 0 := by
  simp [Memory.wf, sorted_iff]

theorem wf_nil : Memory.wf [] = true := rfl

theorem wf_filter {m : List Host.Cell} (p : Host.Cell → Bool) (h : Memory.wf m = true) : Memory.wf (m.filter p) = true := by
  rw [wf_iff] at h ⊢
  exact ⟨keysRise_filter p h.1, fun e he => h.2 e (List.mem_of_mem_filter he)⟩

/-- Writing a byte keeps the canonical form. -/
theorem wf_memPut {m : List Host.Cell} (l : Nat) (b : Byte) (h : Memory.wf m = true) : Memory.wf (memPut m l b) = true := by
  rw [wf_iff] at h ⊢
  refine ⟨keysRise_kvSet h.1, fun e he => ?_⟩
  unfold memPut kvSet at he
  split at he
  · exact h.2 e (mem_kvDel he)
  · rcases mem_kvPut he with he | he
    · subst he; assumption
    · exact h.2 e he

/-- Writing a run of bytes keeps the canonical form. -/
theorem wf_memPutRun {m : List Host.Cell} (l : Nat) (bs : Bytes) (h : Memory.wf m = true) :
    Memory.wf (memPutRun m l bs) = true := by
  induction bs generalizing m l with
  | nil => exact h
  | cons b bs ih => exact ih _ (wf_memPut l b h)

/-- Writing bytes one after the other keeps the canonical form. -/
theorem wf_foldl {α : Type} {m : List Host.Cell} (xs : List α) (f : List Host.Cell → α → List Host.Cell)
    (hf : ∀ m a, Memory.wf m = true → Memory.wf (f m a) = true) (h : Memory.wf m = true) :
    Memory.wf (xs.foldl f m) = true := by
  induction xs generalizing m with
  | nil => exact h
  | cons a xs ih => exact ih (hf m a h)

/-- A byte just written reads as written, and every other byte as before. -/
theorem memGet_memPut {m : List Host.Cell} (l k : Nat) (b : Byte) (h : Memory.wf m = true) :
    memGet (memPut m l b) k = if k = l then b else memGet m k := by
  unfold memGet memPut
  rw [kvGet_kvSet _ _ _ _ _ (wf_iff.1 h).1]
  split_ifs <;> simp_all

end Sys2Proof.Machine
end

