-- ==== Sys2Proof/Laws/Registers.lean ====
section
/-! SUPPORT. The register file: no two registers share an offset, so that a write sets one register and leaves every other
one alone. -/

set_option Elab.async false

namespace Sys2Proof.Machine

/-- Every register is in the table. -/
theorem RegName.mem_all (r : RegName) : r ∈ RegName.all := by
  cases r <;> decide

/-- The offsets of two registers lie apart: one register's last offset is below the other's first, or they differ modulo a
common divisor of the strides. -/
def RegInfo.apart (a b : RegInfo) : Bool :=
  decide (a.base + a.stride * (a.count - 1) < b.base) || decide (b.base + b.stride * (b.count - 1) < a.base) ||
    decide (a.base % Nat.gcd a.stride b.stride ≠ b.base % Nat.gcd a.stride b.stride)

theorem RegInfo.apart_symm {a b : RegInfo} (h : a.apart b = true) : b.apart a = true := by
  simp only [RegInfo.apart, Bool.or_eq_true, decide_eq_true_eq, Nat.gcd_comm b.stride] at h ⊢
  tauto

theorem RegInfo.apart_ne {a b : RegInfo} {i j : Nat} (h : a.apart b = true) (hi : i < a.count) (hj : j < b.count) :
    a.base + a.stride * i ≠ b.base + b.stride * j := by
  intro he
  have h1 : a.stride * i ≤ a.stride * (a.count - 1) := Nat.mul_le_mul_left _ (by omega)
  have h2 : b.stride * j ≤ b.stride * (b.count - 1) := Nat.mul_le_mul_left _ (by omega)
  simp only [RegInfo.apart, Bool.or_eq_true, decide_eq_true_eq] at h
  rcases h with (h | h) | h
  · omega
  · omega
  · have h3 := congrArg (· % Nat.gcd a.stride b.stride) he
    obtain ⟨x, hx⟩ := Nat.gcd_dvd_left a.stride b.stride
    obtain ⟨y, hy⟩ := Nat.gcd_dvd_right a.stride b.stride
    apply h
    generalize Nat.gcd a.stride b.stride = g at *
    rw [hx, hy, Nat.mul_assoc, Nat.mul_assoc] at h3
    simpa using h3

theorem RegName.pairwise_apart : RegName.all.Pairwise fun r r' => r.info.apart r'.info = true := by
  decide +kernel

theorem RegName.stride_pos (r : RegName) : 0 < r.info.stride := by
  cases r <;> decide

theorem RegName.resetWord_lt (r : RegName) : r.resetWord < 2 ^ 64 := by
  cases r <;> decide

/-- No two registers, and no two instances of one register, share an offset. -/
theorem RegName.addr_inj {r r' : RegName} {i i' : Nat} (hi : i < r.info.count) (hi' : i' < r'.info.count)
    (h : r.addr i = r'.addr i') : r = r' ∧ i = i' := by
  by_cases hr : r = r'
  · subst hr
    refine ⟨rfl, ?_⟩
    unfold RegName.addr at h
    exact Nat.eq_of_mul_eq_mul_left r.stride_pos (by omega)
  · have : Std.Symm fun r r' : RegName => r.info.apart r'.info = true := ⟨fun _ _ h => RegInfo.apart_symm h⟩
    have := RegName.pairwise_apart.forall r.mem_all r'.mem_all hr
    exact absurd h (RegInfo.apart_ne this hi hi')

/-- An offset of a register names that register and instance. -/
theorem findReg_addr {r : RegName} {i : Nat} (hi : i < r.info.count) : findReg (r.addr i) = some (r, i) := by
  have key : ∀ l : List RegName, r ∈ l → (l.findSome? fun r' =>
      let k := r'.info
      if k.base ≤ r.addr i ∧ (r.addr i - k.base) % k.stride = 0 ∧ (r.addr i - k.base) / k.stride < k.count
      then some (r', (r.addr i - k.base) / k.stride) else none) = some (r, i) := by
    intro l hl
    induction l with
    | nil => simp at hl
    | cons a t ih =>
      rw [List.findSome?_cons]
      by_cases ha : a = r
      · subst ha
        have h1 : a.addr i - a.info.base = a.info.stride * i := by unfold RegName.addr; omega
        have h2 : a.info.base ≤ a.addr i := by unfold RegName.addr; omega
        simp only [h1, h2, Nat.mul_mod_right, Nat.mul_div_cancel_left _ a.stride_pos, hi, and_self, if_true]
      · have hn : ¬ (a.info.base ≤ r.addr i ∧ (r.addr i - a.info.base) % a.info.stride = 0 ∧
            (r.addr i - a.info.base) / a.info.stride < a.info.count) := by
          rintro ⟨h1, h2, h3⟩
          have h4 := Nat.div_add_mod (r.addr i - a.info.base) a.info.stride
          have h5 : r.addr i = a.addr ((r.addr i - a.info.base) / a.info.stride) := by
            unfold RegName.addr at h1 h2 h4 ⊢; omega
          exact ha (RegName.addr_inj hi h3 h5).1.symm
        simp only [if_neg hn]
        exact ih ((List.mem_cons.1 hl).resolve_left fun h => ha h.symm)
  exact key _ r.mem_all

/-- A register reads as written. -/
theorem State.rd_wr_same {s : State} (r : RegName) (i v : Nat) (hs : keysRise s.regs) (hi : i < r.info.count) :
    (s.wr r i v).rd r i = v % 2 ^ 64 := by
  unfold State.wr State.rd
  rw [if_pos hi]
  simp only [kvGet_kvSet _ _ _ _ _ hs, if_true]
  split_ifs with h
  · have := congrArg BitVec.toNat h
    simp only [BitVec.toNat_ofNat] at this
    rw [this, Nat.mod_eq_of_lt r.resetWord_lt]
  · simp

/-- Every other register, and every other instance, reads as before. -/
theorem State.rd_wr_ne {s : State} {r r' : RegName} {i i' : Nat} (v : Nat) (hs : keysRise s.regs)
    (hi' : i' < r'.info.count) (h : r' ≠ r ∨ i' ≠ i) : (s.wr r i v).rd r' i' = s.rd r' i' := by
  unfold State.wr
  split
  · rename_i hi
    have : r'.addr i' ≠ r.addr i := fun he => by
      have := RegName.addr_inj hi' hi he
      tauto
    simp only [State.rd, kvGet_kvSet _ _ _ _ _ hs, if_neg this]
  · rfl

end Sys2Proof.Machine
end

