-- ==== Sys2Proof/Laws/Fields.lean ====
section
/-! SUPPORT. Bit fields: a field reads as written, and every other bit of the word as before; fields of registers. -/

set_option Elab.async false

namespace Sys2Proof.Machine

theorem setBits_eq (n hi lo v : Nat) :
    setBits n hi lo v =
      2 ^ lo * (2 ^ (hi + 1 - lo) * (n / 2 ^ lo / 2 ^ (hi + 1 - lo)) + v % 2 ^ (hi + 1 - lo)) + n % 2 ^ lo := by
  have h1 := Nat.div_add_mod n (2 ^ lo)
  have h2 := Nat.div_add_mod (n / 2 ^ lo) (2 ^ (hi + 1 - lo))
  simp only [setBits, bitsOf, Nat.shiftRight_eq_div_pow, Nat.shiftLeft_eq]
  generalize n / 2 ^ lo = q at *
  generalize 2 ^ (hi + 1 - lo) = w at *
  generalize v % w = b
  generalize hm : q % w = m at *
  generalize hd : q / w = d at *
  generalize 2 ^ lo = p at *
  have h3 : p * q = p * (w * d) + m * p := by rw [← h2, Nat.mul_add, Nat.mul_comm p m]
  rw [Nat.mul_add, Nat.mul_comm p b]
  omega

theorem testBit_setBits (n hi lo v i : Nat) (h : lo ≤ hi + 1) :
    (setBits n hi lo v).testBit i = if lo ≤ i ∧ i ≤ hi then v.testBit (i - lo) else n.testBit i := by
  rw [setBits_eq, Nat.testBit_two_pow_mul_add _ (Nat.mod_lt _ (by positivity)),
    Nat.testBit_two_pow_mul_add _ (Nat.mod_lt _ (by positivity))]
  simp only [Nat.testBit_mod_two_pow, Nat.testBit_div_two_pow]
  split_ifs <;> first | omega | skip
  · simp; omega
  · simp; intro hx; omega
  · congr 1; omega

theorem testBit_bitsOf (n hi lo i : Nat) : (bitsOf n hi lo).testBit i = (decide (i < hi + 1 - lo) && n.testBit (lo + i)) := by
  simp [bitsOf, Nat.testBit_mod_two_pow, Nat.testBit_shiftRight]

/-- A field reads as written, modulo its width. -/
theorem bitsOf_setBits (n hi lo v : Nat) (h : lo ≤ hi + 1) : bitsOf (setBits n hi lo v) hi lo = v % 2 ^ (hi + 1 - lo) := by
  apply Nat.eq_of_testBit_eq
  intro i
  rw [testBit_bitsOf, testBit_setBits _ _ _ _ _ h, Nat.testBit_mod_two_pow]
  by_cases hi' : i < hi + 1 - lo
  · rw [if_pos (by omega)]; simp
  · simp [hi']

/-- A field that shares no bit with the field written reads as before. -/
theorem bitsOf_setBits_ne (n hi lo v hi' lo' : Nat) (h : lo ≤ hi + 1) (hd : hi' < lo ∨ hi < lo') :
    bitsOf (setBits n hi lo v) hi' lo' = bitsOf n hi' lo' := by
  apply Nat.eq_of_testBit_eq
  intro i
  rw [testBit_bitsOf, testBit_setBits _ _ _ _ _ h, testBit_bitsOf]
  by_cases hi2 : i < hi' + 1 - lo'
  · rw [if_neg (by omega)]
  · simp [hi2]

theorem setBits_lt (n hi lo v : Nat) (h : lo ≤ hi + 1) (hh : hi < 64) (hn : n < 2 ^ 64) : setBits n hi lo v < 2 ^ 64 := by
  apply Nat.lt_pow_two_of_testBit
  intro i hi'
  rw [testBit_setBits _ _ _ _ _ h, if_neg (by omega)]
  exact Nat.testBit_lt_two_pow (Nat.lt_of_lt_of_le hn (Nat.pow_le_pow_right (by omega) hi'))

theorem State.rd_lt (s : State) (r : RegName) (i : Nat) : s.rd r i < 2 ^ 64 := by
  unfold State.rd
  split
  · exact BitVec.isLt _
  · exact r.resetWord_lt

/-- A field of a register reads as it was set, modulo its width. -/
theorem State.getF_setF_same {s : State} (f : Field) (i v : Nat) (hs : keysRise s.regs) (hi : i < f.reg.info.count)
    (hf : f.lo ≤ f.hi + 1) (hh : f.hi < 64) : (s.setF f i v).getF f i = v % 2 ^ (f.hi + 1 - f.lo) := by
  unfold State.getF State.setF
  rw [State.rd_wr_same _ _ _ hs hi, Nat.mod_eq_of_lt (setBits_lt _ _ _ _ hf hh (s.rd_lt _ _)), bitsOf_setBits _ _ _ _ hf]

/-- A field of another register, of another instance, or of other bits reads as before. -/
theorem State.getF_setF_ne {s : State} {f g : Field} {i j : Nat} (v : Nat) (hs : keysRise s.regs)
    (hj : j < g.reg.info.count) (hf : f.lo ≤ f.hi + 1) (hh : f.hi < 64)
    (h : g.reg ≠ f.reg ∨ j ≠ i ∨ g.hi < f.lo ∨ f.hi < g.lo) : (s.setF f i v).getF g j = s.getF g j := by
  by_cases hr : g.reg ≠ f.reg ∨ j ≠ i
  · unfold State.getF State.setF
    rw [State.rd_wr_ne _ hs hj hr]
  · simp only [not_or, not_not] at hr
    obtain ⟨h1, h2⟩ := hr
    subst h2
    unfold State.getF State.setF
    rw [h1, State.rd_wr_same _ _ _ hs (h1 ▸ hj), Nat.mod_eq_of_lt (setBits_lt _ _ _ _ hf hh (s.rd_lt _ _)),
      bitsOf_setBits_ne _ _ _ _ _ _ hf (by tauto)]

end Sys2Proof.Machine
end

