-- ==== Sys2Proof/Laws/Frame.lean ====
section
/-! SUPPORT. Frames: a state agrees with an earlier one outside a mask. Bit k of a mask stands for the register with
constructor index k; bit 153 + k stands for the part with constructor index k. Every operation has a mask of its own. -/

set_option Elab.async false

namespace Sys2Proof.Machine

/-- `a` lies in `b`: each bit of `a` is a bit of `b`. -/
theorem Mask.trans {a b c : Nat} (h1 : a ||| b = b) (h2 : b ||| c = c) : a ||| c = c := by
  rw [← h2, ← Nat.or_assoc, h1]

theorem Mask.bit {a b k : Nat} (h : a ||| b = b) (hk : a.testBit k = true) : b.testBit k = true := by
  rw [← h, Nat.testBit_or, hk, Bool.true_or]

theorem Mask.clash {P : Prop} {a b k : Nat} (h : a ||| b = b) (hp : b.testBit k = false) (hk : a.testBit k = true) : P := by
  rw [Mask.bit h hk] at hp; cases hp

/-- The mask of a register, and of the registers of a list of fields. -/
def RegName.mask (n : RegName) : Nat := 2 ^ n.ctorIdx

def fieldsMask : List (Field × Nat) → Nat
  | [] => 0
  | p :: l => p.1.reg.mask ||| fieldsMask l

theorem RegName.mask_all (n : RegName) : n.mask ||| 0x1ffffffffffffffffffffffffffffffffffffff = 0x1ffffffffffffffffffffffffffffffffffffff := by
  cases n <;> rfl

theorem fieldsMask_nil {c : Nat} : fieldsMask [] ||| c = c := Nat.zero_or c

theorem fieldsMask_cons {f : Field} {v : Nat} {l : List (Field × Nat)} {c : Nat} (h1 : f.reg.mask ||| c = c)
    (h2 : fieldsMask l ||| c = c) : fieldsMask ((f, v) :: l) ||| c = c := by
  rw [fieldsMask, Nat.or_assoc, h2, h1]

/-- Outside the mask `M`, `s` is as `r`: the queue, the registers, the parts. -/
structure State.Frame (M : Nat) (r s : State) : Prop where
  queue : s.pending = r.pending
  rise : keysRise s.regs
  regs : ∀ n : RegName, M.testBit n.ctorIdx = false → ∀ i, i < n.info.count → s.rd n i = r.rd n i
  parts : ∀ p : Part, M.testBit (153 + p.ctorIdx) = false → samePart p r s

variable {M : Nat} {r : State}

theorem State.Frame.refl {s : State} (h : keysRise s.regs) : State.Frame M s s :=
  ⟨rfl, h, fun _ _ _ _ => rfl, fun p _ => by cases p <;> rfl⟩

theorem samePart_trans {p : Part} {a b c : State} (h1 : samePart p a b) (h2 : samePart p b c) : samePart p a c := by
  cases p <;> exact Eq.trans h2 h1

/-- A state built from one in the frame, with parts changed that the mask allows. -/
theorem State.Frame.rest {s : State} {freeIdx : Nat} {upNs : Nat} {pw : PowerSt} {msix : List (Nat × Word)} {msixPend : List Nat} {out : List Out}
    {host : HostSt} {hostMem : List Host.Cell} {mem : List Host.Cell} {poison : List Nat} {mb : List MbEntry}
    {rcTags : List (Nat × List (Nat × Nat))} {hbm : HbmSt} {chases : List ChaseSt} {samples : List (Nat × SampleSt)}
    {groups : List (Nat × AccGroup)} {openWaits : List OpenWait} {engines : List (Nat × VecEngine)} {stipple : List (Nat × StippleSt)}
    {marks : List (Nat × MarkRt)} {fab : FabSt} {eth : EthSt} {ink : InkSt} {time : TimeSt} {sec : SecSt}
    {ras : RasSt}
    (h : State.Frame M r s)
    (hp : ∀ p : Part, M.testBit (153 + p.ctorIdx) = false → samePart p s (State.mk s.pending freeIdx upNs pw s.regs msix msixPend out host hostMem mem poison mb rcTags hbm chases
      samples groups openWaits engines stipple marks fab eth ink time sec ras)) :
    State.Frame M r (State.mk s.pending freeIdx upNs pw s.regs msix msixPend out host hostMem mem poison mb rcTags hbm chases
      samples groups openWaits engines stipple marks fab eth ink time sec ras) :=
  ⟨h.queue, h.rise, h.regs, fun p hM => samePart_trans (h.parts p hM) (hp p hM)⟩

theorem State.wr_frame {s : State} {n : RegName} {i v : Nat} (h : State.Frame M r s) (hM : n.mask ||| M = M) :
    State.Frame M r (s.wr n i v) := by
  refine ⟨?_, ?_, fun m hm j hj => ?_, fun p hp => ?_⟩
  · unfold State.wr; split <;> exact h.queue
  · unfold State.wr; split
    · exact keysRise_kvSet h.rise
    · exact h.rise
  · rw [State.rd_wr_ne v h.rise hj (.inl ?_)]
    · exact h.regs m hm j hj
    · rintro rfl
      rw [Mask.bit hM (by simp [RegName.mask])] at hm
      cases hm
  · have : samePart p s (s.wr n i v) := by
      unfold State.wr; split <;> cases p <;> rfl
    exact samePart_trans (h.parts p hp) this

/-- Dropping words of the register file changes only the registers whose words may be dropped. -/
theorem State.Frame.filterRegs {s : State} (h : State.Frame M r s) (p : Nat × Word → Bool)
    (hp : ∀ (n : RegName) (i : Nat) (w : Word), i < n.info.count → p (n.addr i, w) = false → M.testBit n.ctorIdx = true) :
    State.Frame M r { s with regs := s.regs.filter p } := by
  refine ⟨h.queue, keysRise_filter p h.rise, fun n hn i hi => ?_, fun q hq => samePart_trans (h.parts q hq) (by cases q <;> rfl)⟩
  rw [← h.regs n hn i hi]
  unfold State.rd
  simp only
  rw [kvGet_filter p h.rise fun w => ?_]
  by_contra hc
  rw [Bool.not_eq_true] at hc
  rw [hp n i w hi hc] at hn
  cases hn

theorem State.Frame.foldl {α : Type} {f : State → α → State} {l : List α} {s : State}
    (hf : ∀ s a, State.Frame M r s → State.Frame M r (f s a)) (h : State.Frame M r s) : State.Frame M r (l.foldl f s) := by
  induction l generalizing s with
  | nil => exact h
  | cons a l ih => exact ih (hf s a h)

theorem State.Frame.foldl_fst {α β : Type} {f : State × β → α → State × β} {l : List α} {p : State × β}
    (hf : ∀ p a, State.Frame M r p.1 → State.Frame M r (f p a).1) (h : State.Frame M r p.1) :
    State.Frame M r (l.foldl f p).1 := by
  induction l generalizing p with
  | nil => exact h
  | cons a l ih => exact ih (hf p a h)

theorem State.decideEach_frame {α : Type} {f : State → α → State × Bool} {p : State × Bool} {l : List α}
    (hf : ∀ s a, State.Frame M r s → State.Frame M r (f s a).1) (h : State.Frame M r p.1) :
    State.Frame M r (State.decideEach f p l).1 := by
  induction l generalizing p with
  | nil => exact h
  | cons a l ih =>
    obtain ⟨s, _ | _⟩ := p
    · exact h
    · exact ih (hf s a h)

theorem pinEach_frame {α : Type} {f : Bool → State → α → State × Bool} {p : State × Bool} {l : List α}
    (hf : ∀ b s a, State.Frame M r s → State.Frame M r (f b s a).1) (h : State.Frame M r p.1) :
    State.Frame M r (pinEach f p l).1 :=
  State.Frame.foldl_fst (fun p a hp => hf p.2 p.1 a hp) h

/-- A meaning answers states in the frame only. -/
def AnsFrame (M : Nat) (r : State) (a : Ans) : Prop := ∀ t, a = .next t → State.Frame M r t

theorem ansFrame_next {s : State} (h : State.Frame M r s) : AnsFrame M r (.next s) := by
  intro t ht; cases ht; exact h

theorem ansFrame_fault {e : Fault} : AnsFrame M r (.fault e) := by
  intro t ht; cases ht

theorem RegName.ctorIdx_lt (n : RegName) : n.ctorIdx < 153 := by cases n <;> decide

theorem RegName.eq_of_ctorIdx {m n : RegName} (h : m.ctorIdx = n.ctorIdx) : m = n := by
  have : RegName.ofNat m.ctorIdx = RegName.ofNat n.ctorIdx := by rw [h]
  rwa [show ∀ k : RegName, RegName.ofNat k.ctorIdx = k from fun k => by cases k <;> rfl,
    show ∀ k : RegName, RegName.ofNat k.ctorIdx = k from fun k => by cases k <;> rfl] at this

theorem Part.eq_of_ctorIdx {m n : Part} (h : m.ctorIdx = n.ctorIdx) : m = n := by
  cases m <;> cases n <;> first | rfl | cases h

/-- The mask of a list of registers and of a list of parts. -/
def regsMask : List RegName → Nat
  | [] => 0
  | n :: l => 2 ^ n.ctorIdx ||| regsMask l

def partsMask : List Part → Nat
  | [] => 0
  | p :: l => 2 ^ (153 + p.ctorIdx) ||| partsMask l

theorem regsMask_testBit {n : RegName} {l : List RegName} (hn : n ∉ l) : (regsMask l).testBit n.ctorIdx = false := by
  induction l with
  | nil => exact Nat.zero_testBit _
  | cons m l ih =>
    rw [List.mem_cons, not_or] at hn
    have : m.ctorIdx ≠ n.ctorIdx := fun h => hn.1 (RegName.eq_of_ctorIdx h.symm)
    rw [regsMask, Nat.testBit_or, ih hn.2, Nat.testBit_two_pow_of_ne this, Bool.or_false]

theorem regsMask_high {k : Nat} (hk : 153 ≤ k) (l : List RegName) : (regsMask l).testBit k = false := by
  induction l with
  | nil => exact Nat.zero_testBit _
  | cons m l ih =>
    have : m.ctorIdx ≠ k := by have := m.ctorIdx_lt; omega
    rw [regsMask, Nat.testBit_or, ih, Nat.testBit_two_pow_of_ne this, Bool.or_false]

theorem partsMask_testBit {p : Part} {l : List Part} (hp : p ∉ l) : (partsMask l).testBit (153 + p.ctorIdx) = false := by
  induction l with
  | nil => exact Nat.zero_testBit _
  | cons q l ih =>
    rw [List.mem_cons, not_or] at hp
    have : 153 + q.ctorIdx ≠ 153 + p.ctorIdx := fun h => hp.1 (Part.eq_of_ctorIdx (by omega))
    rw [partsMask, Nat.testBit_or, ih hp.2, Nat.testBit_two_pow_of_ne this, Bool.or_false]

theorem partsMask_low {k : Nat} (hk : k < 153) (l : List Part) : (partsMask l).testBit k = false := by
  induction l with
  | nil => exact Nat.zero_testBit _
  | cons q l ih =>
    rw [partsMask, Nat.testBit_or, ih, Nat.testBit_two_pow_of_ne (by omega), Bool.or_false]

/-- A frame by mask is a frame by lists: what the mask lists is in the lists. -/
theorem State.Frame.sameBut {s : State} {rs : List RegName} {ps : List Part} (h : State.Frame M r s)
    (hM : M ||| (regsMask rs ||| partsMask ps) = regsMask rs ||| partsMask ps) : State.SameBut rs ps r s := by
  have out : ∀ k, (regsMask rs ||| partsMask ps).testBit k = false → M.testBit k = false := fun k hk => by
    rw [← hM, Nat.testBit_or, Bool.or_eq_false_iff] at hk; exact hk.1
  refine ⟨h.queue, fun n hn i hi => h.regs n (out _ ?_) i hi, fun p hp => h.parts p (out _ ?_)⟩
  · rw [Nat.testBit_or, regsMask_testBit hn, partsMask_low n.ctorIdx_lt, Bool.or_false]
  · rw [Nat.testBit_or, partsMask_testBit hp, regsMask_high (by omega), Bool.false_or]

end Sys2Proof.Machine
end

