-- ==== Sys2Proof/Laws/FrameCore.lean ====
section
/-! SUPPORT. The frame of each operation of the register, memory, mark and event operations: its mask, and that it changes nothing outside it. -/

set_option Elab.async false

namespace Sys2Proof.Machine

set_option linter.unusedTactic false
set_option linter.unreachableTactic false

variable {M : Nat} {r : State}

/-! ### Machine/Ops.lean -/

theorem State.setF_frame {s : State} {f : Field} {i : Nat} {v : Nat} (hS : State.Frame M r s) (hMf : f.reg.mask ||| M = M) :
    State.Frame M r (State.setF s f i v) := by
  unfold State.setF
  try dsimp only
  repeat' first
    | (with_reducible first
        | assumption | apply State.wr_frame)
    | split
    | with_reducible intro _

theorem State.bump_frame {s : State} {f : Field} {i : Nat} {n : Nat} (hS : State.Frame M r s) (hMf : f.reg.mask ||| M = M) :
    State.Frame M r (State.bump s f i n) := by
  unfold State.bump
  try dsimp only
  repeat' first
    | (with_reducible first
        | assumption | apply State.setF_frame)
    | split
    | with_reducible intro _

theorem State.bumpWrap_frame {s : State} {f : Field} {i : Nat} {n : Nat} (hS : State.Frame M r s) (hMf : f.reg.mask ||| M = M) :
    State.Frame M r (State.bumpWrap s f i n) := by
  unfold State.bumpWrap
  try dsimp only
  repeat' first
    | (with_reducible first
        | assumption | apply State.setF_frame)
    | split
    | with_reducible intro _

theorem State.raiseTo_frame {s : State} {f : Field} {i : Nat} {v : Nat} (hS : State.Frame M r s) (hMf : f.reg.mask ||| M = M) :
    State.Frame M r (State.raiseTo s f i v) := by
  unfold State.raiseTo
  try dsimp only
  repeat' first
    | (with_reducible first
        | assumption | apply State.setF_frame)
    | split
    | with_reducible intro _

theorem State.setFs_frame {s : State} {i : Nat} {x0 : List (Field × Nat)} (hS : State.Frame M r s) (hMx0 : fieldsMask x0 ||| M = M) :
    State.Frame M r (State.setFs s i x0) := by
  induction x0 generalizing s with
  | nil => exact hS
  | cons a l ih => exact ih (State.setF_frame hS (by rw [← hMx0, fieldsMask, ← Nat.or_assoc, ← Nat.or_assoc, Nat.or_self])) (by
      rw [← hMx0, fieldsMask, ← Nat.or_assoc, Nat.or_comm (fieldsMask l), Nat.or_assoc (a.1.reg.mask), Nat.or_self])

theorem State.resetRegs_frame {s : State} {d : Domain} (hS : State.Frame M r s) (hM : 0x1ffffffffffffffffffffffffffffffffffffff ||| M = M) :
    State.Frame M r (State.resetRegs s d) := by
  exact hS.filterRegs _ fun n _ _ _ _ => Mask.bit hM (by cases n <;> rfl)

theorem State.resetSlotRegs_frame {s : State} {c : Nat} (hS : State.Frame M r s) (hM : 0x8000000000000007800001f00000007e8 ||| M = M) :
    State.Frame M r (State.resetSlotRegs s c) := by
  refine hS.filterRegs _ fun n i w hi hp => Mask.bit hM ?_
  simp only [findReg_addr hi, Bool.not_eq_false', Bool.and_eq_true, beq_iff_eq] at hp
  have := hp.1
  revert this
  cases n <;> decide

theorem State.fresh_frame {s : State} (hS : State.Frame M r s) (hM : 0x200000000000000000000000000000000000000 ||| M = M) :
    State.Frame M r (State.fresh s).2 := by
  unfold State.fresh
  try dsimp only
  repeat' first
    | (with_reducible first
        | assumption)
    | exact Mask.trans (by rfl) hM
    | split
    | (fail_if_no_progress
        with_reducible refine State.Frame.rest ?_ ?hp
        case hp => intro p hp; cases p <;> first | exact Mask.clash hM hp rfl | with_reducible exact rfl)
    | with_reducible intro _

theorem State.fresh_frame_eq {s : State} (hS : State.Frame M r s) (hM : 0x200000000000000000000000000000000000000 ||| M = M) {u : State} {z : Nat} (he : State.fresh s = (z, u)) :
    State.Frame M r u := by
  have := State.fresh_frame hS hM (s := s)
  rwa [he] at this

theorem State.freshBytes_frame {s : State} {n : Nat} (hS : State.Frame M r s) (hM : 0x200000000000000000000000000000000000000 ||| M = M) :
    State.Frame M r (State.freshBytes s n).2 := by
  unfold State.freshBytes
  try dsimp only
  repeat' first
    | (with_reducible first
        | assumption)
    | exact Mask.trans (by rfl) hM
    | split
    | (fail_if_no_progress
        with_reducible refine State.Frame.rest ?_ ?hp
        case hp => intro p hp; cases p <;> first | exact Mask.clash hM hp rfl | with_reducible exact rfl)
    | with_reducible intro _

theorem State.freshBytes_frame_eq {s : State} {n : Nat} (hS : State.Frame M r s) (hM : 0x200000000000000000000000000000000000000 ||| M = M) {u : State} {z : Bytes} (he : State.freshBytes s n = (z, u)) :
    State.Frame M r u := by
  have := State.freshBytes_frame hS hM (s := s) (n := n)
  rwa [he] at this

theorem State.ifB_frame {s : State} {b : Bool} {f : State → State} (hS : State.Frame M r s) (hSf : ∀ (y0 : State), State.Frame M r y0 → State.Frame M r (f y0)) :
    State.Frame M r (State.ifB s b f) := by
  unfold State.ifB
  try dsimp only
  repeat' first
    | (with_reducible first
        | assumption | apply hSf)
    | split
    | with_reducible intro _

theorem State.emit_frame {s : State} {o : Out} (hS : State.Frame M r s) (hM : 0x4000000000000000000000000000000000000000 ||| M = M) :
    State.Frame M r (State.emit s o) := by
  unfold State.emit
  try dsimp only
  repeat' first
    | (with_reducible first
        | assumption)
    | exact Mask.trans (by rfl) hM
    | split
    | (fail_if_no_progress
        with_reducible refine State.Frame.rest ?_ ?hp
        case hp => intro p hp; cases p <;> first | exact Mask.clash hM hp rfl | with_reducible exact rfl)
    | with_reducible intro _

theorem State.msix1_frame {s : State} {v : Nat} (hS : State.Frame M r s) (hM : 0x6000000000000000000000000000000000000000 ||| M = M) :
    State.Frame M r (State.msix1 s v) := by
  unfold State.msix1
  try dsimp only
  repeat' first
    | (with_reducible first
        | assumption | apply State.emit_frame)
    | exact Mask.trans (by rfl) hM
    | split
    | (fail_if_no_progress
        with_reducible refine State.Frame.rest ?_ ?hp
        case hp => intro p hp; cases p <;> first | exact Mask.clash hM hp rfl | with_reducible exact rfl)
    | with_reducible intro _

theorem State.event_frame {s : State} {f : Field} {vec : Field} (hS : State.Frame M r s) (hM : 0x6000000000000000000000000000000000000000 ||| M = M) (hMf : f.reg.mask ||| M = M) (hMvec : vec.reg.mask ||| M = M) :
    State.Frame M r (State.event s f vec) := by
  unfold State.event
  try dsimp only
  repeat' first
    | (with_reducible first
        | assumption | apply State.msix1_frame | apply State.setF_frame)
    | exact Mask.trans (by rfl) hM
    | split
    | with_reducible intro _

theorem State.eventStale_frame {s : State} (hS : State.Frame M r s) (hM : 0x6000000000030000000000000000000000000000 ||| M = M) :
    State.Frame M r (State.eventStale s) := by
  unfold State.eventStale
  try dsimp only
  repeat' first
    | (with_reducible first
        | assumption | apply State.event_frame)
    | exact Mask.trans (by rfl) hM
    | split
    | with_reducible intro _

theorem State.eventDeadlock_frame {s : State} (hS : State.Frame M r s) (hM : 0x6000000000030000000000000000000000000000 ||| M = M) :
    State.Frame M r (State.eventDeadlock s) := by
  unfold State.eventDeadlock
  try dsimp only
  repeat' first
    | (with_reducible first
        | assumption | apply State.event_frame)
    | exact Mask.trans (by rfl) hM
    | split
    | with_reducible intro _

theorem State.eventFault_frame {s : State} (hS : State.Frame M r s) (hM : 0x6000000000030000000000000000000000000000 ||| M = M) :
    State.Frame M r (State.eventFault s) := by
  unfold State.eventFault
  try dsimp only
  repeat' first
    | (with_reducible first
        | assumption | apply State.event_frame)
    | exact Mask.trans (by rfl) hM
    | split
    | with_reducible intro _

theorem State.eventDma_frame {s : State} (hS : State.Frame M r s) (hM : 0x6000000000030000000000000000000000000000 ||| M = M) :
    State.Frame M r (State.eventDma s) := by
  unfold State.eventDma
  try dsimp only
  repeat' first
    | (with_reducible first
        | assumption | apply State.event_frame)
    | exact Mask.trans (by rfl) hM
    | split
    | with_reducible intro _

theorem State.eventRas_frame {s : State} (hS : State.Frame M r s) (hM : 0x6000000000030000000000000000000000000000 ||| M = M) :
    State.Frame M r (State.eventRas s) := by
  unfold State.eventRas
  try dsimp only
  repeat' first
    | (with_reducible first
        | assumption | apply State.event_frame)
    | exact Mask.trans (by rfl) hM
    | split
    | with_reducible intro _

theorem State.setChase_frame {s : State} {c : Nat} {x : ChaseSt} (hS : State.Frame M r s) (hM : 0x400000000000000000000000000000000000000000 ||| M = M) :
    State.Frame M r (State.setChase s c x) := by
  unfold State.setChase
  try dsimp only
  repeat' first
    | (with_reducible first
        | assumption)
    | exact Mask.trans (by rfl) hM
    | split
    | (fail_if_no_progress
        with_reducible refine State.Frame.rest ?_ ?hp
        case hp => intro p hp; cases p <;> first | exact Mask.clash hM hp rfl | with_reducible exact rfl)
    | with_reducible intro _

theorem State.updChase_frame {s : State} {c : Nat} {f : ChaseSt → ChaseSt} (hS : State.Frame M r s) (hM : 0x400000000000000000000000000000000000000000 ||| M = M) :
    State.Frame M r (State.updChase s c f) := by
  unfold State.updChase
  try dsimp only
  repeat' first
    | (with_reducible first
        | assumption | apply State.setChase_frame)
    | exact Mask.trans (by rfl) hM
    | split
    | with_reducible intro _

theorem State.logRaw_frame {s : State} {e : ErrRec} (hS : State.Frame M r s) (hM : 0xc0000000000000000000000000000000000000 ||| M = M) :
    State.Frame M r (State.logRaw s e) := by
  unfold State.logRaw
  try dsimp only
  repeat' first
    | (with_reducible first
        | assumption | apply State.setF_frame | apply State.bump_frame | apply State.bumpWrap_frame)
    | exact Mask.trans (by rfl) hM
    | split
    | with_reducible apply State.Frame.foldl
    | with_reducible apply State.Frame.foldl_fst
    | with_reducible intro _

theorem State.logErr_frame {s : State} {e : ErrRec} (hS : State.Frame M r s) (hM : 0x60d4000000030000000000000000000000000000 ||| M = M) :
    State.Frame M r (State.logErr s e) := by
  unfold State.logErr
  try dsimp only
  repeat' first
    | (with_reducible first
        | assumption | apply State.logRaw_frame | apply State.bump_frame | apply State.setF_frame | apply State.eventRas_frame)
    | exact Mask.trans (by rfl) hM
    | split
    | with_reducible intro _

theorem State.cacheRead_frame {s : State} {line : Nat} (hS : State.Frame M r s) (hM : 0x100000000000000000000000004000000000000000 ||| M = M) :
    State.Frame M r (State.cacheRead s line) := by
  unfold State.cacheRead
  try dsimp only
  repeat' first
    | (with_reducible first
        | assumption | apply State.bump_frame)
    | exact Mask.trans (by rfl) hM
    | split
    | (fail_if_no_progress
        with_reducible refine State.Frame.rest ?_ ?hp
        case hp => intro p hp; cases p <;> first | exact Mask.clash hM hp rfl | with_reducible exact rfl)
    | with_reducible intro _

theorem State.cacheTouch_frame {s : State} {line : Nat} (hS : State.Frame M r s) (hM : 0x100000000000000000000000000000000000000000 ||| M = M) :
    State.Frame M r (State.cacheTouch s line) := by
  unfold State.cacheTouch
  try dsimp only
  repeat' first
    | (with_reducible first
        | assumption)
    | exact Mask.trans (by rfl) hM
    | split
    | (fail_if_no_progress
        with_reducible refine State.Frame.rest ?_ ?hp
        case hp => intro p hp; cases p <;> first | exact Mask.clash hM hp rfl | with_reducible exact rfl)
    | with_reducible intro _

theorem State.mbToDram_frame {s : State} {e : MbEntry} (hS : State.Frame M r s) (hM : 0xe0000000000000000000000000000000000000000 ||| M = M) :
    State.Frame M r (State.mbToDram s e) := by
  unfold State.mbToDram
  try dsimp only
  repeat' first
    | (with_reducible first
        | assumption)
    | exact Mask.trans (by rfl) hM
    | split
    | with_reducible apply State.Frame.foldl
    | with_reducible apply State.Frame.foldl_fst
    | (fail_if_no_progress
        with_reducible refine State.Frame.rest ?_ ?hp
        case hp => intro p hp; cases p <;> first | exact Mask.clash hM hp rfl | with_reducible exact rfl)
    | with_reducible intro _

theorem State.mbDrainOldest_frame {s : State} {region : Nat} (hS : State.Frame M r s) (hM : 0xe0000000000000000000000000000000000000000 ||| M = M) :
    State.Frame M r (State.mbDrainOldest s region) := by
  unfold State.mbDrainOldest
  try dsimp only
  repeat' first
    | (with_reducible first
        | assumption | apply State.mbToDram_frame)
    | exact Mask.trans (by rfl) hM
    | split
    | with_reducible intro _

theorem State.mbPeak_frame {s : State} {region : Nat} (hS : State.Frame M r s) (hM : 0x400000000000000 ||| M = M) :
    State.Frame M r (State.mbPeak s region) := by
  unfold State.mbPeak
  try dsimp only
  repeat' first
    | (with_reducible first
        | assumption | apply State.raiseTo_frame)
    | exact Mask.trans (by rfl) hM
    | split
    | with_reducible intro _

theorem State.mbWrite_frame {s : State} {line : Nat} {bs : List (Nat × Byte)} (hS : State.Frame M r s) (hM : 0xe0000000000000000000000000400000000000000 ||| M = M) :
    State.Frame M r (State.mbWrite s line bs) := by
  unfold State.mbWrite
  try dsimp only
  repeat' first
    | (with_reducible first
        | assumption | apply State.mbToDram_frame | apply State.mbDrainOldest_frame | apply State.bump_frame | apply State.mbPeak_frame)
    | exact Mask.trans (by rfl) hM
    | split
    | with_reducible apply State.Frame.foldl
    | with_reducible apply State.Frame.foldl_fst
    | (fail_if_no_progress
        with_reducible refine State.Frame.rest ?_ ?hp
        case hp => intro p hp; cases p <;> first | exact Mask.clash hM hp rfl | with_reducible exact rfl)
    | with_reducible intro _

theorem State.sliceWrite_frame {s : State} {l : Nat} {bs : Bytes} (hS : State.Frame M r s) (hM : 0x1e0000000000000000000000000400000000000000 ||| M = M) :
    State.Frame M r (State.sliceWrite s l bs) := by
  unfold State.sliceWrite
  try dsimp only
  repeat' first
    | (with_reducible first
        | assumption | apply State.mbWrite_frame | apply State.cacheTouch_frame)
    | exact Mask.trans (by rfl) hM
    | split
    | with_reducible apply State.Frame.foldl
    | with_reducible apply State.Frame.foldl_fst
    | (fail_if_no_progress
        with_reducible refine State.Frame.rest ?_ ?hp
        case hp => intro p hp; cases p <;> first | exact Mask.clash hM hp rfl | with_reducible exact rfl)
    | with_reducible intro _

theorem State.rawWrite_frame {s : State} {l : Nat} {bs : Bytes} (hS : State.Frame M r s) (hM : 0x60000000000000000000000000000000000000000 ||| M = M) :
    State.Frame M r (State.rawWrite s l bs) := by
  unfold State.rawWrite
  try dsimp only
  repeat' first
    | (with_reducible first
        | assumption)
    | exact Mask.trans (by rfl) hM
    | split
    | (fail_if_no_progress
        with_reducible refine State.Frame.rest ?_ ?hp
        case hp => intro p hp; cases p <;> first | exact Mask.clash hM hp rfl | with_reducible exact rfl)
    | with_reducible intro _

theorem State.poisonRun_frame {s : State} {l : Nat} {n : Nat} (hS : State.Frame M r s) (hM : 0x40000000000000000000000000000000000000000 ||| M = M) :
    State.Frame M r (State.poisonRun s l n) := by
  unfold State.poisonRun
  try dsimp only
  repeat' first
    | (with_reducible first
        | assumption)
    | exact Mask.trans (by rfl) hM
    | split
    | with_reducible apply State.Frame.foldl
    | with_reducible apply State.Frame.foldl_fst
    | (fail_if_no_progress
        with_reducible refine State.Frame.rest ?_ ?hp
        case hp => intro p hp; cases p <;> first | exact Mask.clash hM hp rfl | with_reducible exact rfl)
    | with_reducible intro _

theorem State.slicePoison_frame {s : State} {q : Nat} (hS : State.Frame M r s) (hM : 0xc0000000000000000000000000000000000000000 ||| M = M) :
    State.Frame M r (State.slicePoison s q) := by
  unfold State.slicePoison
  try dsimp only
  repeat' first
    | (with_reducible first
        | assumption)
    | exact Mask.trans (by rfl) hM
    | split
    | (fail_if_no_progress
        with_reducible refine State.Frame.rest ?_ ?hp
        case hp => intro p hp; cases p <;> first | exact Mask.clash hM hp rfl | with_reducible exact rfl)
    | with_reducible intro _

theorem State.bufferPass_frame {s : State} {line : Nat} (hS : State.Frame M r s) (hM : 0xe0000000000000000000000000400000000000000 ||| M = M) :
    State.Frame M r (State.bufferPass s line) := by
  unfold State.bufferPass
  try dsimp only
  repeat' first
    | (with_reducible first
        | assumption | apply State.mbDrainOldest_frame | apply State.bump_frame | apply State.raiseTo_frame)
    | exact Mask.trans (by rfl) hM
    | split
    | (fail_if_no_progress
        with_reducible refine State.Frame.rest ?_ ?hp
        case hp => intro p hp; cases p <;> first | exact Mask.clash hM hp rfl | with_reducible exact rfl)
    | with_reducible intro _

theorem State.holdWrite_frame {s : State} {w : HeldWrite} (hS : State.Frame M r s) (hM : 0xc000000000000000000000000000000000000000 ||| M = M) :
    State.Frame M r (State.holdWrite s w) := by
  unfold State.holdWrite
  try dsimp only
  repeat' first
    | (with_reducible first
        | assumption | apply State.emit_frame)
    | exact Mask.trans (by rfl) hM
    | split
    | (fail_if_no_progress
        with_reducible refine State.Frame.rest ?_ ?hp
        case hp => intro p hp; cases p <;> first | exact Mask.clash hM hp rfl | with_reducible exact rfl)
    | with_reducible intro _

theorem State.devWrite_frame {s : State} {l : Nat} {bs : Bytes} (hS : State.Frame M r s) (hM : 0x1ec000000000000000000000000400000000000000 ||| M = M) :
    State.Frame M r (State.devWrite s l bs) := by
  unfold State.devWrite
  try dsimp only
  repeat' first
    | (with_reducible first
        | assumption | apply State.sliceWrite_frame | apply State.holdWrite_frame | apply State.mbWrite_frame
        | apply State.cacheTouch_frame)
    | exact Mask.trans (by rfl) hM
    | split
    | with_reducible apply State.Frame.foldl
    | with_reducible apply State.Frame.foldl_fst
    | with_reducible intro _

theorem State.lineWrite_frame {s : State} {l : Nat} {bs : Bytes} (hS : State.Frame M r s) (hM : 0x1ec000000000000000000000000400000000000000 ||| M = M) :
    State.Frame M r (State.lineWrite s l bs) := by
  unfold State.lineWrite
  try dsimp only
  repeat' first
    | (with_reducible first
        | assumption | apply State.rawWrite_frame | apply State.holdWrite_frame | apply State.bufferPass_frame
        | apply State.cacheTouch_frame)
    | exact Mask.trans (by rfl) hM
    | split
    | with_reducible intro _

theorem State.devPoison_frame {s : State} {l : Nat} {n : Nat} (hS : State.Frame M r s) (hM : 0xcc000000000000000000000000000000000000000 ||| M = M) :
    State.Frame M r (State.devPoison s l n) := by
  unfold State.devPoison
  try dsimp only
  repeat' first
    | (with_reducible first
        | assumption | apply State.poisonRun_frame | apply State.holdWrite_frame | apply State.slicePoison_frame)
    | exact Mask.trans (by rfl) hM
    | split
    | with_reducible apply State.Frame.foldl
    | with_reducible apply State.Frame.foldl_fst
    | with_reducible intro _

theorem State.landWrite_frame {s : State} {w : HeldWrite} (hS : State.Frame M r s) (hM : 0x1e0000000000000000000000000400000000000000 ||| M = M) :
    State.Frame M r (State.landWrite s w) := by
  unfold State.landWrite
  try dsimp only
  repeat' first
    | (with_reducible first
        | assumption | apply State.slicePoison_frame | apply State.sliceWrite_frame)
    | exact Mask.trans (by rfl) hM
    | split
    | with_reducible apply State.Frame.foldl
    | with_reducible apply State.Frame.foldl_fst
    | with_reducible intro _

/-! ### Machine/Mem.lean -/

theorem State.takeUnit_frame {s : State} {c : Nat} {r_ : Nat} {layouts : List Nat} (hS : State.Frame M r s) (hM : 0x200000000000000000000000000000000000000000 ||| M = M) :
    State.Frame M r (State.takeUnit s c r_ layouts).2 := by
  unfold State.takeUnit
  try dsimp only
  repeat' first
    | (with_reducible first
        | assumption)
    | exact Mask.trans (by rfl) hM
    | split
    | (fail_if_no_progress
        with_reducible refine State.Frame.rest ?_ ?hp
        case hp => intro p hp; cases p <;> first | exact Mask.clash hM hp rfl | with_reducible exact rfl)
    | with_reducible intro _

theorem State.takeUnit_frame_eq {s : State} {c : Nat} {r_ : Nat} {layouts : List Nat} (hS : State.Frame M r s) (hM : 0x200000000000000000000000000000000000000000 ||| M = M) {u : State} {z : Option FrameEnt} (he : State.takeUnit s c r_ layouts = (z, u)) :
    State.Frame M r u := by
  have := State.takeUnit_frame hS hM (s := s) (c := c) (r_ := r_) (layouts := layouts)
  rwa [he] at this

theorem State.allocIn_frame {s : State} {c : Nat} {need : Nat} {layouts : Nat → List Nat} (hS : State.Frame M r s) (hM : 0x200200000000000000000000000000000000000000 ||| M = M) :
    State.Frame M r (State.allocIn s c need layouts).2 := by
  unfold State.allocIn
  try dsimp only
  repeat' first
    | (with_reducible first
        | assumption | apply State.fresh_frame | (refine State.fresh_frame_eq (he := by assumption) ?_ ?_) | apply State.takeUnit_frame
        | (refine State.takeUnit_frame_eq (he := by assumption) ?_ ?_))
    | exact Mask.trans (by rfl) hM
    | split
    | with_reducible intro _

theorem State.allocIn_frame_eq {s : State} {c : Nat} {need : Nat} {layouts : Nat → List Nat} (hS : State.Frame M r s) (hM : 0x200200000000000000000000000000000000000000 ||| M = M) {u : State} {z : Option FrameEnt} (he : State.allocIn s c need layouts = (z, u)) :
    State.Frame M r u := by
  have := State.allocIn_frame hS hM (s := s) (c := c) (need := need) (layouts := layouts)
  rwa [he] at this

theorem State.allocFrame_frame {s : State} {c : Nat} (hS : State.Frame M r s) (hM : 0x200200000000000000000000000000000000000000 ||| M = M) :
    State.Frame M r (State.allocFrame s c).2 := by
  unfold State.allocFrame
  try dsimp only
  repeat' first
    | (with_reducible first
        | assumption | apply State.allocIn_frame | (refine State.allocIn_frame_eq (he := by assumption) ?_ ?_))
    | exact Mask.trans (by rfl) hM
    | split
    | with_reducible intro _

theorem State.allocFrame_frame_eq {s : State} {c : Nat} (hS : State.Frame M r s) (hM : 0x200200000000000000000000000000000000000000 ||| M = M) {u : State} {z : Option FrameEnt} (he : State.allocFrame s c = (z, u)) :
    State.Frame M r u := by
  have := State.allocFrame_frame hS hM (s := s) (c := c)
  rwa [he] at this

theorem State.updFrame_frame {s : State} {c : Nat} {f : Nat} {g : FrameEnt → FrameEnt} (hS : State.Frame M r s) (hM : 0x400000000000000000000000000000000000000000 ||| M = M) :
    State.Frame M r (State.updFrame s c f g) := by
  unfold State.updFrame
  try dsimp only
  repeat' first
    | (with_reducible first
        | assumption | apply State.updChase_frame)
    | exact Mask.trans (by rfl) hM
    | split
    | with_reducible intro _

theorem State.zeroPieces_frame {s : State} {ps : List Nat} (hS : State.Frame M r s) (hM : 0x1ec000000000000000000000000400000000000000 ||| M = M) :
    State.Frame M r (State.zeroPieces s ps) := by
  unfold State.zeroPieces
  try dsimp only
  repeat' first
    | (with_reducible first
        | assumption | apply State.bufferPass_frame | apply State.lineWrite_frame)
    | exact Mask.trans (by rfl) hM
    | split
    | with_reducible apply State.Frame.foldl
    | with_reducible apply State.Frame.foldl_fst
    | (fail_if_no_progress
        with_reducible refine State.Frame.rest ?_ ?hp
        case hp => intro p hp; cases p <;> first | exact Mask.clash hM hp rfl | with_reducible exact rfl)
    | with_reducible intro _

theorem State.fillHoles_frame {s : State} {c : Nat} {f : Nat} {e : FrameEnt} (hS : State.Frame M r s) (hM : 0x4cc000000000000000000000000000000000000000 ||| M = M) :
    State.Frame M r (State.fillHoles s c f e) := by
  unfold State.fillHoles
  try dsimp only
  repeat' first
    | (with_reducible first
        | assumption | apply State.updChase_frame | apply State.devPoison_frame)
    | exact Mask.trans (by rfl) hM
    | split
    | with_reducible apply State.Frame.foldl
    | with_reducible apply State.Frame.foldl_fst
    | with_reducible intro _

theorem State.backFrame_frame {s : State} {c : Nat} {a : Nat} (hS : State.Frame M r s) (hM : 0x7ec200000000000000000000000400000000000000 ||| M = M) :
    State.Frame M r (State.backFrame s c a).1 := by
  unfold State.backFrame
  have ha := State.allocFrame_frame (s := s) (c := c) hS (Mask.trans (by rfl) hM)
  revert ha
  generalize s.allocFrame c = p
  obtain ⟨_ | e, s1⟩ := p
  all_goals
    intro ha
    split
    · exact hS
    split
    · exact hS
    split
    · exact hS
    dsimp only at ha ⊢
    first
    | exact State.fillHoles_frame (State.updChase_frame (State.zeroPieces_frame ha (Mask.trans (by rfl) hM)) (Mask.trans (by rfl) hM)) (Mask.trans (by rfl) hM)
    | exact ha

theorem State.backFrame_frame_eq {s : State} {c : Nat} {a : Nat} (hS : State.Frame M r s) (hM : 0x7ec200000000000000000000000400000000000000 ||| M = M) {u : State} {z : Bool} (he : State.backFrame s c a = (u, z)) :
    State.Frame M r u := by
  have := State.backFrame_frame hS hM (s := s) (c := c) (a := a)
  rwa [he] at this

theorem State.backRun_frame {s : State} {c : Nat} {x0 : List (Nat × Bytes)} (hS : State.Frame M r s) (hM : 0x7ec200000000000000000000000400000000000000 ||| M = M) :
    State.Frame M r (State.backRun s c x0).1 := by
  induction x0 generalizing s with
  | nil => exact hS
  | cons a l ih =>
  simp only [State.backRun]
  repeat' first
    | (with_reducible first
        | assumption | apply ih | apply State.backFrame_frame | (refine State.backFrame_frame_eq (he := by assumption) ?_ ?_))
    | exact Mask.trans (by rfl) hM
    | split
    | with_reducible intro _

theorem State.backRun_frame_eq {s : State} {c : Nat} {x0 : List (Nat × Bytes)} (hS : State.Frame M r s) (hM : 0x7ec200000000000000000000000400000000000000 ||| M = M) {u : State} {z : Bool} (he : State.backRun s c x0 = (u, z)) :
    State.Frame M r u := by
  have := State.backRun_frame hS hM (s := s) (c := c) (x0 := x0)
  rwa [he] at this

theorem State.settleLost_frame {s : State} {c : Nat} {f : Nat} (hS : State.Frame M r s) (hM : 0x400000000000000000000000000000000000000000 ||| M = M) :
    State.Frame M r (State.settleLost s c f) := by
  unfold State.settleLost
  try dsimp only
  repeat' first
    | (with_reducible first
        | assumption | apply State.updFrame_frame)
    | exact Mask.trans (by rfl) hM
    | split
    | with_reducible intro _

theorem State.releaseBands_frame {s : State} (hS : State.Frame M r s) (hM : 0x200000000000000000000000000000000000000000 ||| M = M) :
    State.Frame M r (State.releaseBands s) := by
  unfold State.releaseBands
  try dsimp only
  repeat' first
    | (with_reducible first
        | assumption)
    | exact Mask.trans (by rfl) hM
    | split
    | (fail_if_no_progress
        with_reducible refine State.Frame.rest ?_ ?hp
        case hp => intro p hp; cases p <;> first | exact Mask.clash hM hp rfl | with_reducible exact rfl)
    | with_reducible intro _

theorem State.abandon_frame {s : State} {c : Nat} {p : MigrationEnt → Bool} {back : Bool} (hS : State.Frame M r s) (hM : 0x6000000000000000000000000000000c0000000000 ||| M = M) :
    State.Frame M r (State.abandon s c p back) := by
  unfold State.abandon
  try dsimp only
  repeat' first
    | (with_reducible first
        | assumption | apply State.bump_frame | apply State.updChase_frame | apply State.releaseBands_frame | apply State.setF_frame)
    | exact Mask.trans (by rfl) hM
    | split
    | with_reducible intro _

theorem State.dropStores_frame {s : State} {c : Nat} {p : Store → Bool} (hS : State.Frame M r s) (hM : 0x6000000000000000000000000000000c0000000000 ||| M = M) :
    State.Frame M r (State.dropStores s c p) := by
  unfold State.dropStores
  try dsimp only
  repeat' first
    | (with_reducible first
        | assumption | apply State.updChase_frame | apply State.abandon_frame)
    | exact Mask.trans (by rfl) hM
    | split
    | with_reducible intro _

theorem State.noteWrite_frame {s : State} {plate : Bool} {c : Nat} {a : Nat} {n : Nat} (hS : State.Frame M r s) (hM : 0x6000000000000000000000000000000c0000000000 ||| M = M) :
    State.Frame M r (State.noteWrite s plate c a n) := by
  unfold State.noteWrite
  try dsimp only
  repeat' first
    | (with_reducible first
        | assumption | apply State.updFrame_frame | apply State.abandon_frame | apply State.updChase_frame)
    | exact Mask.trans (by rfl) hM
    | split
    | with_reducible intro _

theorem State.writeBacked_frame {s : State} {plate : Bool} {c : Nat} {ps : List (Nat × Bytes)} (hS : State.Frame M r s) (hM : 0x7ec0000000000000000000000004000c0000000000 ||| M = M) :
    State.Frame M r (State.writeBacked s plate c ps) := by
  unfold State.writeBacked
  try dsimp only
  repeat' first
    | (with_reducible first
        | assumption | apply State.noteWrite_frame | apply State.settleLost_frame | apply State.devWrite_frame)
    | exact Mask.trans (by rfl) hM
    | split
    | with_reducible apply State.Frame.foldl
    | with_reducible apply State.Frame.foldl_fst
    | with_reducible intro _

theorem State.chaseWrite_frame {s : State} {c : Nat} {a : Nat} {bs : Bytes} (hS : State.Frame M r s) (hM : 0x7ec2000000000000000000000004000c0000000000 ||| M = M) :
    State.Frame M r (State.chaseWrite s c a bs).1 := by
  unfold State.chaseWrite
  try dsimp only
  repeat' first
    | (with_reducible first
        | assumption | apply State.backRun_frame | (refine State.backRun_frame_eq (he := by assumption) ?_ ?_)
        | apply State.writeBacked_frame)
    | exact Mask.trans (by rfl) hM
    | split
    | with_reducible intro _

theorem State.chaseWrite_frame_eq {s : State} {c : Nat} {a : Nat} {bs : Bytes} (hS : State.Frame M r s) (hM : 0x7ec2000000000000000000000004000c0000000000 ||| M = M) {u : State} {z : Bool} (he : State.chaseWrite s c a bs = (u, z)) :
    State.Frame M r u := by
  have := State.chaseWrite_frame hS hM (s := s) (c := c) (a := a) (bs := bs)
  rwa [he] at this

theorem State.addHoles_frame {s : State} {c : Nat} {a : Nat} {n : Nat} (hS : State.Frame M r s) (hM : 0x400000000000000000000000000000000000000000 ||| M = M) :
    State.Frame M r (State.addHoles s c a n) := by
  unfold State.addHoles
  try dsimp only
  repeat' first
    | (with_reducible first
        | assumption | apply State.updChase_frame)
    | exact Mask.trans (by rfl) hM
    | split
    | with_reducible apply State.Frame.foldl
    | with_reducible apply State.Frame.foldl_fst
    | with_reducible intro _

theorem State.plateWrite_frame {s : State} {c : Nat} {a : Nat} {bs : Bytes} (hS : State.Frame M r s) (hM : 0x7ec2000000000000000000000004001c0000000000 ||| M = M) :
    State.Frame M r (State.plateWrite s c a bs).1 := by
  unfold State.plateWrite
  try dsimp only
  repeat' first
    | (with_reducible first
        | assumption | apply State.backFrame_frame | (refine State.backFrame_frame_eq (he := by assumption) ?_ ?_)
        | apply State.writeBacked_frame | apply State.bump_frame | apply State.addHoles_frame)
    | exact Mask.trans (by rfl) hM
    | split
    | with_reducible intro _

theorem State.plateWrite_frame_eq {s : State} {c : Nat} {a : Nat} {bs : Bytes} (hS : State.Frame M r s) (hM : 0x7ec2000000000000000000000004001c0000000000 ||| M = M) {u : State} {z : Bool} (he : State.plateWrite s c a bs = (u, z)) :
    State.Frame M r u := by
  have := State.plateWrite_frame hS hM (s := s) (c := c) (a := a) (bs := bs)
  rwa [he] at this

theorem State.cacheRun_frame {s : State} {c : Nat} {a : Nat} {n : Nat} (hS : State.Frame M r s) (hM : 0x100000000000000000000000004000000000000000 ||| M = M) :
    State.Frame M r (State.cacheRun s c a n) := by
  unfold State.cacheRun
  try dsimp only
  repeat' first
    | (with_reducible first
        | assumption | apply State.cacheRead_frame)
    | exact Mask.trans (by rfl) hM
    | split
    | with_reducible apply State.Frame.foldl
    | with_reducible apply State.Frame.foldl_fst
    | with_reducible intro _

theorem State.cacheHa_frame {s : State} {a : Nat} {n : Nat} (hS : State.Frame M r s) (hM : 0x100000000000000000000000004000000000000000 ||| M = M) :
    State.Frame M r (State.cacheHa s a n) := by
  unfold State.cacheHa
  try dsimp only
  repeat' first
    | (with_reducible first
        | assumption | apply State.cacheRead_frame)
    | exact Mask.trans (by rfl) hM
    | split
    | with_reducible apply State.Frame.foldl
    | with_reducible apply State.Frame.foldl_fst
    | with_reducible intro _

theorem State.noteReadFrom_frame {s : State} {plate : Bool} {c : Nat} {a : Nat} {n : Nat} (hS : State.Frame M r s) (hM : 0x500000000000000000000000004000000000000000 ||| M = M) :
    State.Frame M r (State.noteReadFrom s plate c a n) := by
  unfold State.noteReadFrom
  try dsimp only
  repeat' first
    | (with_reducible first
        | assumption | apply State.updFrame_frame | apply State.cacheRun_frame | apply State.updChase_frame)
    | exact Mask.trans (by rfl) hM
    | split
    | with_reducible apply State.Frame.foldl
    | with_reducible apply State.Frame.foldl_fst
    | with_reducible intro _

theorem State.noteRead_frame {s : State} {c : Nat} {a : Nat} {n : Nat} (hS : State.Frame M r s) (hM : 0x500000000000000000000000004000000000000000 ||| M = M) :
    State.Frame M r (State.noteRead s c a n) := by
  unfold State.noteRead
  try dsimp only
  repeat' first
    | (with_reducible first
        | assumption | apply State.noteReadFrom_frame)
    | exact Mask.trans (by rfl) hM
    | split
    | with_reducible intro _

theorem State.noteDma_frame {s : State} {c : Nat} {a : Nat} {n : Nat} (hS : State.Frame M r s) (hM : 0x500000000000000000000000004000000000000000 ||| M = M) :
    State.Frame M r (State.noteDma s c a n) := by
  unfold State.noteDma
  try dsimp only
  repeat' first
    | (with_reducible first
        | assumption | apply State.noteReadFrom_frame)
    | exact Mask.trans (by rfl) hM
    | split
    | with_reducible intro _

theorem State.chasePoisonRun_frame {s : State} {c : Nat} {a : Nat} {n : Nat} (hS : State.Frame M r s) (hM : 0xcc000000000000000000000000000000000000000 ||| M = M) :
    State.Frame M r (State.chasePoisonRun s c a n) := by
  unfold State.chasePoisonRun
  try dsimp only
  repeat' first
    | (with_reducible first
        | assumption | apply State.devPoison_frame)
    | exact Mask.trans (by rfl) hM
    | split
    | with_reducible apply State.Frame.foldl
    | with_reducible apply State.Frame.foldl_fst
    | with_reducible intro _

theorem State.freeFrames_frame {s : State} {c : Nat} (hS : State.Frame M r s) (hM : 0x660000000000000000000000000000000000000000 ||| M = M) :
    State.Frame M r (State.freeFrames s c) := by
  unfold State.freeFrames
  try dsimp only
  repeat' first
    | (with_reducible first
        | assumption | apply State.updChase_frame | apply State.releaseBands_frame)
    | exact Mask.trans (by rfl) hM
    | split
    | (fail_if_no_progress
        with_reducible refine State.Frame.rest ?_ ?hp
        case hp => intro p hp; cases p <;> first | exact Mask.clash hM hp rfl | with_reducible exact rfl)
    | with_reducible intro _

theorem State.copyLine_frame {s : State} {src : Nat} {dst : Nat} (hS : State.Frame M r s) (hM : 0x1ec000000000000000000000000400000000000000 ||| M = M) :
    State.Frame M r (State.copyLine s src dst) := by
  unfold State.copyLine
  try dsimp only
  repeat' first
    | (with_reducible first
        | assumption | apply State.devPoison_frame | apply State.lineWrite_frame)
    | exact Mask.trans (by rfl) hM
    | split
    | with_reducible apply State.Frame.foldl
    | with_reducible apply State.Frame.foldl_fst
    | with_reducible intro _

theorem State.copyFrame_frame {s : State} {c : Nat} {f : Nat} {e : FrameEnt} {toChip : Bool} (hS : State.Frame M r s) (hM : 0x1ec000000000000000000000000400000000000000 ||| M = M) :
    State.Frame M r (State.copyFrame s c f e toChip) := by
  unfold State.copyFrame
  try dsimp only
  repeat' first
    | (with_reducible first
        | assumption | apply State.copyLine_frame)
    | exact Mask.trans (by rfl) hM
    | split
    | with_reducible apply State.Frame.foldl
    | with_reducible apply State.Frame.foldl_fst
    | with_reducible intro _

theorem State.dropChip_frame {s : State} {c : Nat} {f : Nat} (hS : State.Frame M r s) (hM : 0x60000000000000000000000000000000000000000 ||| M = M) :
    State.Frame M r (State.dropChip s c f) := by
  unfold State.dropChip
  try dsimp only
  repeat' first
    | (with_reducible first
        | assumption)
    | exact Mask.trans (by rfl) hM
    | split
    | (fail_if_no_progress
        with_reducible refine State.Frame.rest ?_ ?hp
        case hp => intro p hp; cases p <;> first | exact Mask.clash hM hp rfl | with_reducible exact rfl)
    | with_reducible intro _

theorem State.demote_frame {s : State} {c : Nat} {f : Nat} {e : FrameEnt} (hS : State.Frame M r s) (hM : 0x5ec000000000000000000000000400000000000000 ||| M = M) :
    State.Frame M r (State.demote s c f e) := by
  unfold State.demote
  try dsimp only
  repeat' first
    | (with_reducible first
        | assumption | apply State.updFrame_frame | apply State.dropChip_frame | apply State.copyFrame_frame)
    | exact Mask.trans (by rfl) hM
    | split
    | with_reducible intro _

/-! ### Machine/GalStore.lean -/

theorem State.setGalley_frame {s : State} {c : Nat} {id : Nat} {g : GalleySt} (hS : State.Frame M r s) (hM : 0x400000000000000000000000000000000000000000 ||| M = M) :
    State.Frame M r (State.setGalley s c id g) := by
  unfold State.setGalley
  try dsimp only
  repeat' first
    | (with_reducible first
        | assumption | apply State.updChase_frame)
    | exact Mask.trans (by rfl) hM
    | split
    | with_reducible intro _

theorem State.updGalley_frame {s : State} {c : Nat} {id : Nat} {f : GalleySt → GalleySt} (hS : State.Frame M r s) (hM : 0x400000000000000000000000000000000000000000 ||| M = M) :
    State.Frame M r (State.updGalley s c id f) := by
  unfold State.updGalley
  try dsimp only
  repeat' first
    | (with_reducible first
        | assumption | apply State.setGalley_frame)
    | exact Mask.trans (by rfl) hM
    | split
    | with_reducible intro _

theorem State.newGalFrame_frame {s : State} {c : Nat} {i : Nat} {need : Nat} (hS : State.Frame M r s) (hM : 0x7ec200000000000000000000000400000000000000 ||| M = M) :
    State.Frame M r (State.newGalFrame s c i need).1 := by
  unfold State.newGalFrame
  try dsimp only
  repeat' first
    | (with_reducible first
        | assumption | apply State.allocIn_frame | (refine State.allocIn_frame_eq (he := by assumption) ?_ ?_)
        | apply State.updChase_frame | apply State.zeroPieces_frame | apply State.lineWrite_frame)
    | exact Mask.trans (by rfl) hM
    | split
    | with_reducible apply State.Frame.foldl
    | with_reducible apply State.Frame.foldl_fst
    | with_reducible intro _

theorem State.newGalFrame_frame_eq {s : State} {c : Nat} {i : Nat} {need : Nat} (hS : State.Frame M r s) (hM : 0x7ec200000000000000000000000400000000000000 ||| M = M) {u : State} {z : Option Nat} (he : State.newGalFrame s c i need = (u, z)) :
    State.Frame M r u := by
  have := State.newGalFrame_frame hS hM (s := s) (c := c) (i := i) (need := need)
  rwa [he] at this

theorem State.copyGalFrame_frame {s : State} {e : FrameEnt} {n : FrameEnt} (hS : State.Frame M r s) (hM : 0x1ec000000000000000000000000400000000000000 ||| M = M) :
    State.Frame M r (State.copyGalFrame s e n) := by
  unfold State.copyGalFrame
  try dsimp only
  repeat' first
    | (with_reducible first
        | assumption | apply State.copyLine_frame)
    | exact Mask.trans (by rfl) hM
    | split
    | with_reducible apply State.Frame.foldl
    | with_reducible apply State.Frame.foldl_fst
    | with_reducible intro _

theorem State.sweepGal_frame {s : State} {c : Nat} (hS : State.Frame M r s) (hM : 0x600000000000000000000000000000000000000000 ||| M = M) :
    State.Frame M r (State.sweepGal s c) := by
  unfold State.sweepGal
  try dsimp only
  repeat' first
    | (with_reducible first
        | assumption | apply State.updChase_frame | apply State.releaseBands_frame)
    | exact Mask.trans (by rfl) hM
    | split
    | with_reducible intro _

theorem State.cacheGal_frame {s : State} {c : Nat} {map : List (Nat × Nat)} {i : Nat} {off : Nat} {n : Nat} (hS : State.Frame M r s) (hM : 0x100000000000000000000000004000000000000000 ||| M = M) :
    State.Frame M r (State.cacheGal s c map i off n) := by
  unfold State.cacheGal
  try dsimp only
  repeat' first
    | (with_reducible first
        | assumption | apply State.cacheRead_frame)
    | exact Mask.trans (by rfl) hM
    | split
    | with_reducible apply State.Frame.foldl
    | with_reducible apply State.Frame.foldl_fst
    | with_reducible intro _

theorem State.noteGal_frame {s : State} {plate : Bool} {write : Bool} {c : Nat} {map : List (Nat × Nat)} {i : Nat} {off : Nat} {n : Nat} (hS : State.Frame M r s) (hM : 0x7000000000000000000000000040000c0000000000 ||| M = M) :
    State.Frame M r (State.noteGal s plate write c map i off n) := by
  unfold State.noteGal
  try dsimp only
  repeat' first
    | (with_reducible first
        | assumption | apply State.updFrame_frame | apply State.abandon_frame | apply State.cacheGal_frame)
    | exact Mask.trans (by rfl) hM
    | split
    | with_reducible intro _

theorem State.noteRow_frame {s : State} {plate : Bool} {c : Nat} {g : GalleySt} {x : GalState} {k : Nat} (hS : State.Frame M r s) (hM : 0x7000000000000000000000000040000c0000000000 ||| M = M) :
    State.Frame M r (State.noteRow s plate c g x k) := by
  unfold State.noteRow
  try dsimp only
  repeat' first
    | (with_reducible first
        | assumption | apply State.noteGal_frame)
    | exact Mask.trans (by rfl) hM
    | split
    | with_reducible intro _

theorem State.galWrite_frame {s : State} {plate : Bool} {c : Nat} {map : List (Nat × Nat)} {i : Nat} {off : Nat} {bs : Bytes} (hS : State.Frame M r s) (hM : 0x7ec0000000000000000000000044000c0000000000 ||| M = M) :
    State.Frame M r (State.galWrite s plate c map i off bs) := by
  unfold State.galWrite
  try dsimp only
  repeat' first
    | (with_reducible first
        | assumption | apply State.devWrite_frame | apply State.noteGal_frame)
    | exact Mask.trans (by rfl) hM
    | split
    | with_reducible apply State.Frame.foldl
    | with_reducible apply State.Frame.foldl_fst
    | with_reducible intro _

theorem State.drainGal_frame {s : State} {c : Nat} {map : List (Nat × Nat)} {i : Nat} (hS : State.Frame M r s) (hM : 0xe0000000000000000000000000000000000000000 ||| M = M) :
    State.Frame M r (State.drainGal s c map i) := by
  unfold State.drainGal
  try dsimp only
  repeat' first
    | (with_reducible first
        | assumption | apply State.mbToDram_frame)
    | exact Mask.trans (by rfl) hM
    | split
    | with_reducible apply State.Frame.foldl
    | with_reducible apply State.Frame.foldl_fst
    | with_reducible intro _

theorem State.slugWrite_frame {s : State} {c : Nat} {map : List (Nat × Nat)} {p : RowPlace} {r_ : Nat} {v : Slug} (hS : State.Frame M r s) (hM : 0x7ec0000000000000000000000044000c0000000000 ||| M = M) :
    State.Frame M r (State.slugWrite s c map p r_ v) := by
  unfold State.slugWrite
  try dsimp only
  repeat' first
    | (with_reducible first
        | assumption | apply State.galWrite_frame | apply State.devPoison_frame)
    | exact Mask.trans (by rfl) hM
    | split
    | with_reducible apply State.Frame.foldl
    | with_reducible apply State.Frame.foldl_fst
    | with_reducible intro _

theorem State.ownFrame_frame {s : State} {c : Nat} {id : Nat} {i : Nat} {need : Nat} (hS : State.Frame M r s) (hM : 0x7ec200000000000000000000000400000000000000 ||| M = M) :
    State.Frame M r (State.ownFrame s c id i need).1 := by
  unfold State.ownFrame
  have h := State.newGalFrame_frame (s := s) (c := c) (i := i) (need := need) hS (Mask.trans (by rfl) hM)
  revert h
  generalize s.newGalFrame c i need = p
  obtain ⟨s1, _ | key⟩ := p
  all_goals
    intro h
    dsimp only at h ⊢
    split
    · exact hS
    split
    · exact hS
    split
    · exact hS
  · exact h
  · refine State.updGalley_frame ?_ (Mask.trans (by rfl) hM)
    split
    · exact State.copyGalFrame_frame h (Mask.trans (by rfl) hM)
    · exact h

theorem State.ownFrame_frame_eq {s : State} {c : Nat} {id : Nat} {i : Nat} {need : Nat} (hS : State.Frame M r s) (hM : 0x7ec200000000000000000000000400000000000000 ||| M = M) {u : State} {z : Bool} (he : State.ownFrame s c id i need = (u, z)) :
    State.Frame M r u := by
  have := State.ownFrame_frame hS hM (s := s) (c := c) (id := id) (i := i) (need := need)
  rwa [he] at this

theorem State.putRow_frame {s : State} {c : Nat} {id : Nat} {k : Nat} {v : Slug} (hS : State.Frame M r s) (hM : 0x7ec2000000000000000000000044000c0000000000 ||| M = M) :
    State.Frame M r (State.putRow s c id k v).1 := by
  unfold State.putRow
  try dsimp only
  repeat' first
    | (with_reducible first
        | assumption | apply State.ownFrame_frame | (refine State.ownFrame_frame_eq (he := by assumption) ?_ ?_)
        | apply State.slugWrite_frame)
    | exact Mask.trans (by rfl) hM
    | split
    | with_reducible intro _

theorem State.putRow_frame_eq {s : State} {c : Nat} {id : Nat} {k : Nat} {v : Slug} (hS : State.Frame M r s) (hM : 0x7ec2000000000000000000000044000c0000000000 ||| M = M) {u : State} {z : Bool} (he : State.putRow s c id k v = (u, z)) :
    State.Frame M r u := by
  have := State.putRow_frame hS hM (s := s) (c := c) (id := id) (k := k) (v := v)
  rwa [he] at this

theorem State.putBlank_frame {s : State} {c : Nat} {id : Nat} {v : Slug} (hS : State.Frame M r s) (hM : 0x7ec2000000000000000000000044000c0000000000 ||| M = M) :
    State.Frame M r (State.putBlank s c id v) := by
  unfold State.putBlank
  try dsimp only
  repeat' first
    | (with_reducible first
        | assumption | apply State.ownFrame_frame | (refine State.ownFrame_frame_eq (he := by assumption) ?_ ?_)
        | apply State.slugWrite_frame)
    | exact Mask.trans (by rfl) hM
    | split
    | with_reducible intro _

theorem State.noteMaster_frame {s : State} {c : Nat} {g : GalleySt} {k : Nat} (hS : State.Frame M r s) (hM : 0x7000000000000000000000000040000c0000000000 ||| M = M) :
    State.Frame M r (State.noteMaster s c g k) := by
  unfold State.noteMaster
  try dsimp only
  repeat' first
    | (with_reducible first
        | assumption | apply State.cacheGal_frame | apply State.noteGal_frame)
    | exact Mask.trans (by rfl) hM
    | split
    | with_reducible apply State.Frame.foldl
    | with_reducible apply State.Frame.foldl_fst
    | with_reducible intro _

theorem State.ownMaster_frame {s : State} {c : Nat} {id : Nat} {i : Nat} (hS : State.Frame M r s) (hM : 0x7ec200000000000000000000000400000000000000 ||| M = M) :
    State.Frame M r (State.ownMaster s c id i) := by
  unfold State.ownMaster
  try dsimp only
  repeat' first
    | (with_reducible first
        | assumption | apply State.newGalFrame_frame | (refine State.newGalFrame_frame_eq (he := by assumption) ?_ ?_)
        | apply State.updGalley_frame)
    | exact Mask.trans (by rfl) hM
    | split
    | with_reducible intro _

theorem State.masterSet_frame {s : State} {plate : Bool} {c : Nat} {id : Nat} {k : Nat} {j : Nat} {v : Int} (hS : State.Frame M r s) (hM : 0x7ec2000000000000000000000044000c0000000000 ||| M = M) :
    State.Frame M r (State.masterSet s plate c id k j v) := by
  unfold State.masterSet
  try dsimp only
  repeat' first
    | (with_reducible first
        | assumption | apply State.ownMaster_frame | apply State.galWrite_frame)
    | exact Mask.trans (by rfl) hM
    | split
    | with_reducible intro _

theorem State.ownGuest_frame {s : State} {c : Nat} {id : Nat} {i : Nat} (hS : State.Frame M r s) (hM : 0x7ec200000000000000000000000400000000000000 ||| M = M) :
    State.Frame M r (State.ownGuest s c id i) := by
  unfold State.ownGuest
  try dsimp only
  repeat' first
    | (with_reducible first
        | assumption | apply State.newGalFrame_frame | (refine State.newGalFrame_frame_eq (he := by assumption) ?_ ?_)
        | apply State.updGalley_frame)
    | exact Mask.trans (by rfl) hM
    | split
    | with_reducible intro _

theorem State.putGuest_frame {s : State} {c : Nat} {id : Nat} {pos : Nat} {v : Slug} (hS : State.Frame M r s) (hM : 0x7ec2000000000000000000000044000c0000000000 ||| M = M) :
    State.Frame M r (State.putGuest s c id pos v) := by
  unfold State.putGuest
  try dsimp only
  repeat' first
    | (with_reducible first
        | assumption | apply State.ownGuest_frame | apply State.drainGal_frame | apply State.slugWrite_frame)
    | exact Mask.trans (by rfl) hM
    | split
    | with_reducible intro _

theorem State.switchCopies_frame {s : State} {c : Nat} {id : Nat} {g : GalleySt} {v : GalState} {x : GalState} {peers : List GuestCopy} (hS : State.Frame M r s) (hM : 0x6000000000000000000000000000000c0000000000 ||| M = M) :
    State.Frame M r (State.switchCopies s c id g v x peers) := by
  unfold State.switchCopies
  try dsimp only
  repeat' first
    | (with_reducible first
        | assumption | apply State.updChase_frame | apply State.abandon_frame)
    | exact Mask.trans (by rfl) hM
    | split
    | with_reducible intro _

theorem State.commitSwitch_frame {s : State} {c : Nat} {id : Nat} {peers : List GuestCopy} (hS : State.Frame M r s) (hM : 0x6e00000000000000000000000000000c0000000000 ||| M = M) :
    State.Frame M r (State.commitSwitch s c id peers) := by
  unfold State.commitSwitch
  try dsimp only
  repeat' first
    | (with_reducible first
        | assumption | apply State.drainGal_frame | apply State.setGalley_frame | apply State.switchCopies_frame)
    | exact Mask.trans (by rfl) hM
    | split
    | with_reducible apply State.Frame.foldl
    | with_reducible apply State.Frame.foldl_fst
    | with_reducible intro _

theorem State.freeDraining_frame {s : State} {c : Nat} {id : Nat} (hS : State.Frame M r s) (hM : 0x600000000000000000000000000000000000000000 ||| M = M) :
    State.Frame M r (State.freeDraining s c id) := by
  unfold State.freeDraining
  try dsimp only
  repeat' first
    | (with_reducible first
        | assumption | apply State.sweepGal_frame | apply State.updGalley_frame)
    | exact Mask.trans (by rfl) hM
    | split
    | with_reducible intro _

theorem State.freeAllDraining_frame {s : State} {c : Nat} (hS : State.Frame M r s) (hM : 0x600000000000000000000000000000000000000000 ||| M = M) :
    State.Frame M r (State.freeAllDraining s c) := by
  unfold State.freeAllDraining
  try dsimp only
  repeat' first
    | (with_reducible first
        | assumption | apply State.freeDraining_frame)
    | exact Mask.trans (by rfl) hM
    | split
    | with_reducible apply State.Frame.foldl
    | with_reducible apply State.Frame.foldl_fst
    | with_reducible intro _

theorem State.dropIncoming_frame {s : State} {c : Nat} {id : Nat} (hS : State.Frame M r s) (hM : 0x600000000000000000000000000000000000000000 ||| M = M) :
    State.Frame M r (State.dropIncoming s c id) := by
  unfold State.dropIncoming
  try dsimp only
  repeat' first
    | (with_reducible first
        | assumption | apply State.sweepGal_frame | apply State.updGalley_frame)
    | exact Mask.trans (by rfl) hM
    | split
    | with_reducible intro _

/-! ### Machine/Route.lean -/

theorem State.updLink_frame {s : State} {l : Nat} {f : LinkSt → LinkSt} (hS : State.Frame M r s) (hM : 0x20000000000000000000000000000000000000000000 ||| M = M) :
    State.Frame M r (State.updLink s l f) := by
  unfold State.updLink
  try dsimp only
  repeat' first
    | (with_reducible first
        | assumption)
    | exact Mask.trans (by rfl) hM
    | split
    | (fail_if_no_progress
        with_reducible refine State.Frame.rest ?_ ?hp
        case hp => intro p hp; cases p <;> first | exact Mask.clash hM hp rfl | with_reducible exact rfl)
    | with_reducible intro _

theorem State.updFab_frame {s : State} {f : FabSt → FabSt} (hS : State.Frame M r s) (hM : 0x20000000000000000000000000000000000000000000 ||| M = M) :
    State.Frame M r (State.updFab s f) := by
  unfold State.updFab
  try dsimp only
  repeat' first
    | (with_reducible first
        | assumption)
    | exact Mask.trans (by rfl) hM
    | split
    | (fail_if_no_progress
        with_reducible refine State.Frame.rest ?_ ?hp
        case hp => intro p hp; cases p <;> first | exact Mask.clash hM hp rfl | with_reducible exact rfl)
    | with_reducible intro _

theorem State.putFlit_frame {s : State} {l : Nat} {f : Flit} (hS : State.Frame M r s) (hM : 0x20004000000000000000000000000000000000000000 ||| M = M) :
    State.Frame M r (State.putFlit s l f) := by
  unfold State.putFlit
  try dsimp only
  repeat' first
    | (with_reducible first
        | assumption | apply State.emit_frame | apply State.updLink_frame)
    | exact Mask.trans (by rfl) hM
    | split
    | with_reducible intro _

theorem State.sendOn_frame {s : State} {l : Nat} {f : Flit} (hS : State.Frame M r s) (hM : 0x20004000000000000000000000000000000000000000 ||| M = M) :
    State.Frame M r (State.sendOn s l f) := by
  unfold State.sendOn
  try dsimp only
  repeat' first
    | (with_reducible first
        | assumption | apply State.putFlit_frame | apply State.updLink_frame)
    | exact Mask.trans (by rfl) hM
    | split
    | with_reducible intro _

theorem State.resendFrom_frame {s : State} {l : Nat} {paid : Bool} {fs : List Flit} (hS : State.Frame M r s) (hM : 0x20004000000000000000000000000000000000000000 ||| M = M) :
    State.Frame M r (State.resendFrom s l paid fs) := by
  unfold State.resendFrom
  try dsimp only
  repeat' first
    | (with_reducible first
        | assumption | apply State.putFlit_frame | apply State.updLink_frame)
    | exact Mask.trans (by rfl) hM
    | split
    | with_reducible apply State.Frame.foldl
    | with_reducible apply State.Frame.foldl_fst
    | with_reducible intro _

theorem State.freeBuf_frame {s : State} {l : Nat} {vc : Nat} (hS : State.Frame M r s) (hM : 0x20000000000000000000000000000000000000000000 ||| M = M) :
    State.Frame M r (State.freeBuf s l vc) := by
  unfold State.freeBuf
  try dsimp only
  repeat' first
    | (with_reducible first
        | assumption | apply State.updLink_frame)
    | exact Mask.trans (by rfl) hM
    | split
    | with_reducible intro _

theorem State.noteTurn_frame {s : State} {o : Nat} {port : Nat} {vc : Nat} (hS : State.Frame M r s) (hM : 0x20000000000000000000000000000000000000000000 ||| M = M) :
    State.Frame M r (State.noteTurn s o port vc) := by
  unfold State.noteTurn
  try dsimp only
  repeat' first
    | (with_reducible first
        | assumption | apply State.updLink_frame)
    | exact Mask.trans (by rfl) hM
    | split
    | with_reducible intro _

theorem State.routeFrom_frame {s : State} {f : Flit} {l : Nat} {vc : Nat} (hS : State.Frame M r s) (hM : 0x20004000000000000000010000000000000000000000 ||| M = M) :
    State.Frame M r (State.routeFrom s f l vc) := by
  unfold State.routeFrom
  try dsimp only
  repeat' first
    | (with_reducible first
        | assumption | apply State.sendOn_frame | apply State.noteTurn_frame | apply State.freeBuf_frame | apply State.updFab_frame
        | apply State.bump_frame)
    | exact Mask.trans (by rfl) hM
    | split
    | with_reducible intro _

theorem State.routeFlit_frame {s : State} {f : Flit} (hS : State.Frame M r s) (hM : 0x20004000000000000000010000000000000000000000 ||| M = M) :
    State.Frame M r (State.routeFlit s f) := by
  unfold State.routeFlit
  try dsimp only
  repeat' first
    | (with_reducible first
        | assumption | apply State.routeFrom_frame)
    | exact Mask.trans (by rfl) hM
    | split
    | with_reducible intro _

theorem State.releaseHeld_frame {s : State} {e : Flit × Nat × Nat} (hS : State.Frame M r s) (hM : 0x20004000000000000000010000000000000000000000 ||| M = M) :
    State.Frame M r (State.releaseHeld s e) := by
  unfold State.releaseHeld
  try dsimp only
  repeat' first
    | (with_reducible first
        | assumption | apply State.routeFrom_frame | apply State.updFab_frame)
    | exact Mask.trans (by rfl) hM
    | split
    | with_reducible intro _

theorem State.releaseAll_frame {s : State} {x0 : Nat} (hS : State.Frame M r s) (hM : 0x20004000000000000000010000000000000000000000 ||| M = M) :
    State.Frame M r (State.releaseAll s x0) := by
  induction x0 generalizing s with
  | zero => exact hS
  | succ n ih =>
  simp only [State.releaseAll]
  repeat' first
    | (with_reducible first
        | assumption | apply ih | apply State.releaseHeld_frame)
    | exact Mask.trans (by rfl) hM
    | split
    | with_reducible intro _

theorem State.retryHeld_frame {s : State} (hS : State.Frame M r s) (hM : 0x20004000000000000000010000000000000000000000 ||| M = M) :
    State.Frame M r (State.retryHeld s) := by
  unfold State.retryHeld
  try dsimp only
  repeat' first
    | (with_reducible first
        | assumption | apply State.releaseAll_frame)
    | exact Mask.trans (by rfl) hM
    | split
    | with_reducible intro _

theorem State.startMsg_frame {s : State} {m : MsgRec} (hS : State.Frame M r s) (hM : 0x20004000000000000000010000000000000000000000 ||| M = M) :
    State.Frame M r (State.startMsg s m) := by
  unfold State.startMsg
  try dsimp only
  repeat' first
    | (with_reducible first
        | assumption | apply State.routeFlit_frame | apply State.updFab_frame)
    | exact Mask.trans (by rfl) hM
    | split
    | with_reducible apply State.Frame.foldl
    | with_reducible apply State.Frame.foldl_fst
    | with_reducible intro _

theorem State.sendMsg_frame {s : State} {m : MsgRec} (hS : State.Frame M r s) (hM : 0x20004000000000000000010000000000000000000000 ||| M = M) :
    State.Frame M r (State.sendMsg s m) := by
  unfold State.sendMsg
  try dsimp only
  repeat' first
    | (with_reducible first
        | assumption | apply State.startMsg_frame | apply State.updFab_frame)
    | exact Mask.trans (by rfl) hM
    | split
    | with_reducible intro _

theorem State.drainQueued_frame {s : State} {dst : Nat} (hS : State.Frame M r s) (hM : 0x20004000000000000000010000000000000000000000 ||| M = M) :
    State.Frame M r (State.drainQueued s dst) := by
  unfold State.drainQueued
  try dsimp only
  repeat' first
    | (with_reducible first
        | assumption | apply State.startMsg_frame | apply State.updFab_frame)
    | exact Mask.trans (by rfl) hM
    | split
    | with_reducible intro _

theorem State.sendAck_frame {s : State} {dst : Nat} {chase : Nat} {msg : Nat} {status : Nat} (hS : State.Frame M r s) (hM : 0x20004000000000000000010000000000000000000000 ||| M = M) :
    State.Frame M r (State.sendAck s dst chase msg status) := by
  unfold State.sendAck
  try dsimp only
  repeat' first
    | (with_reducible first
        | assumption | apply State.routeFlit_frame | apply State.updFab_frame)
    | exact Mask.trans (by rfl) hM
    | split
    | with_reducible apply State.Frame.foldl
    | with_reducible apply State.Frame.foldl_fst
    | with_reducible intro _

theorem State.sendCtl_frame {s : State} {c : Nat} {ordinal : Nat} {sub : Nat} {payload : Bytes} (hS : State.Frame M r s) (hM : 0x20004000000000000000010000000000000000000000 ||| M = M) :
    State.Frame M r (State.sendCtl s c ordinal sub payload) := by
  unfold State.sendCtl
  try dsimp only
  repeat' first
    | (with_reducible first
        | assumption | apply State.sendMsg_frame)
    | exact Mask.trans (by rfl) hM
    | split
    | with_reducible intro _

theorem State.sendAll_frame {s : State} {c : Nat} {sub : Nat} {payload : Bytes} (hS : State.Frame M r s) (hM : 0x20004000000000000000010000000000000000000000 ||| M = M) :
    State.Frame M r (State.sendAll s c sub payload) := by
  unfold State.sendAll
  try dsimp only
  repeat' first
    | (with_reducible first
        | assumption | apply State.sendCtl_frame)
    | exact Mask.trans (by rfl) hM
    | split
    | with_reducible apply State.Frame.foldl
    | with_reducible apply State.Frame.foldl_fst
    | with_reducible intro _

/-! ### Machine/Base.lean -/

theorem State.updTicket_frame {s : State} {ring : Nat} {seq : Nat} {f : Ticket → Ticket} (hS : State.Frame M r s) (hM : 0x8000000000000000000000000000000000000000 ||| M = M) :
    State.Frame M r (State.updTicket s ring seq f) := by
  unfold State.updTicket
  try dsimp only
  repeat' first
    | (with_reducible first
        | assumption)
    | exact Mask.trans (by rfl) hM
    | split
    | (fail_if_no_progress
        with_reducible refine State.Frame.rest ?_ ?hp
        case hp => intro p hp; cases p <;> first | exact Mask.clash hM hp rfl | with_reducible exact rfl)
    | with_reducible intro _

theorem State.finishTicket_frame {s : State} {ring : Nat} {seq : Nat} {status : Nat} {detail : Bytes} (hS : State.Frame M r s) (hM : 0x8000000000000000000000000000000000000000 ||| M = M) :
    State.Frame M r (State.finishTicket s ring seq status detail) := by
  unfold State.finishTicket
  try dsimp only
  repeat' first
    | (with_reducible first
        | assumption | apply State.updTicket_frame)
    | exact Mask.trans (by rfl) hM
    | split
    | with_reducible intro _

theorem State.finishWhere_frame {s : State} {p : Ticket → Bool} {status : Nat} {detail : Bytes} (hS : State.Frame M r s) (hM : 0x8000000000000000000000000000000000000000 ||| M = M) :
    State.Frame M r (State.finishWhere s p status detail) := by
  unfold State.finishWhere
  try dsimp only
  repeat' first
    | (with_reducible first
        | assumption)
    | exact Mask.trans (by rfl) hM
    | split
    | (fail_if_no_progress
        with_reducible refine State.Frame.rest ?_ ?hp
        case hp => intro p hp; cases p <;> first | exact Mask.clash hM hp rfl | with_reducible exact rfl)
    | with_reducible intro _

theorem State.dropGroups_frame {s : State} {c : Nat} (hS : State.Frame M r s) (hM : 0x3000000000000000000000000000000000000000000 ||| M = M) :
    State.Frame M r (State.dropGroups s c) := by
  unfold State.dropGroups
  try dsimp only
  repeat' first
    | (with_reducible first
        | assumption)
    | exact Mask.trans (by rfl) hM
    | split
    | (fail_if_no_progress
        with_reducible refine State.Frame.rest ?_ ?hp
        case hp => intro p hp; cases p <;> first | exact Mask.clash hM hp rfl | with_reducible exact rfl)
    | with_reducible intro _

theorem State.dropPlateWaits_frame {s : State} {c : Nat} (hS : State.Frame M r s) (hM : 0x10000000000000000000000000000000000000000000 ||| M = M) :
    State.Frame M r (State.dropPlateWaits s c) := by
  unfold State.dropPlateWaits
  try dsimp only
  repeat' first
    | (with_reducible first
        | assumption)
    | exact Mask.trans (by rfl) hM
    | split
    | (fail_if_no_progress
        with_reducible refine State.Frame.rest ?_ ?hp
        case hp => intro p hp; cases p <;> first | exact Mask.clash hM hp rfl | with_reducible exact rfl)
    | with_reducible intro _

theorem State.dropInk_frame {s : State} {c : Nat} (hS : State.Frame M r s) (hM : 0x80400000000880000000000000000000000000000000 ||| M = M) :
    State.Frame M r (State.dropInk s c) := by
  unfold State.dropInk
  try dsimp only
  repeat' first
    | (with_reducible first
        | assumption | exact fieldsMask_nil | apply fieldsMask_cons | apply State.wr_frame | apply State.setF_frame
        | apply State.setFs_frame | apply State.updChase_frame)
    | exact Mask.trans (by rfl) hM
    | split
    | (fail_if_no_progress
        with_reducible refine State.Frame.rest ?_ ?hp
        case hp => intro p hp; cases p <;> first | exact Mask.clash hM hp rfl | with_reducible exact rfl)
    | with_reducible intro _

theorem State.freeSamples_frame {s : State} {c : Nat} (hS : State.Frame M r s) (hM : 0x808000000000000000000000000000000000000000 ||| M = M) :
    State.Frame M r (State.freeSamples s c) := by
  unfold State.freeSamples
  try dsimp only
  repeat' first
    | (with_reducible first
        | assumption | apply State.finishWhere_frame)
    | exact Mask.trans (by rfl) hM
    | split
    | (fail_if_no_progress
        with_reducible refine State.Frame.rest ?_ ?hp
        case hp => intro p hp; cases p <;> first | exact Mask.clash hM hp rfl | with_reducible exact rfl)
    | with_reducible intro _

theorem State.clearSampleDir_frame {s : State} {c : Nat} (hS : State.Frame M r s) (hM : 0x7ec2000000000000000000000004000c0000000000 ||| M = M) :
    State.Frame M r (State.clearSampleDir s c) := by
  unfold State.clearSampleDir
  try dsimp only
  repeat' first
    | (with_reducible first
        | assumption | apply State.chaseWrite_frame | (refine State.chaseWrite_frame_eq (he := by assumption) ?_ ?_))
    | exact Mask.trans (by rfl) hM
    | split
    | with_reducible apply State.Frame.foldl
    | with_reducible apply State.Frame.foldl_fst
    | with_reducible intro _

theorem State.haltChase_frame {s : State} {c : Nat} (hS : State.Frame M r s) (hM : 0x93600000000880000000000000000000000000000100 ||| M = M) :
    State.Frame M r (State.haltChase s c) := by
  unfold State.haltChase
  try dsimp only
  repeat' first
    | (with_reducible first
        | assumption | exact fieldsMask_nil | apply fieldsMask_cons | apply State.updChase_frame | apply State.freeAllDraining_frame
        | apply State.dropInk_frame | apply State.dropGroups_frame | apply State.dropPlateWaits_frame | apply State.setFs_frame)
    | exact Mask.trans (by rfl) hM
    | split
    | with_reducible intro _

theorem State.faultLocal_frame {s : State} {c : Nat} {code : Nat} (hS : State.Frame M r s) (hM : 0x93fee2000008800300000000000004000c0000000108 ||| M = M) :
    State.Frame M r (State.faultLocal s c code) := by
  unfold State.faultLocal
  try dsimp only
  repeat' first
    | (with_reducible first
        | assumption | exact fieldsMask_nil | apply fieldsMask_cons | apply State.setFs_frame | apply State.updChase_frame
        | apply State.haltChase_frame | apply State.finishWhere_frame | apply State.eventFault_frame | apply State.freeSamples_frame
        | apply State.clearSampleDir_frame)
    | exact Mask.trans (by rfl) hM
    | split
    | with_reducible intro _

theorem State.faultChase_frame {s : State} {c : Nat} {code : Nat} (hS : State.Frame M r s) (hM : 0xb3fee2000008800300000100000004000c0000000108 ||| M = M) :
    State.Frame M r (State.faultChase s c code) := by
  unfold State.faultChase
  try dsimp only
  repeat' first
    | (with_reducible first
        | assumption | apply State.sendAll_frame | apply State.faultLocal_frame)
    | exact Mask.trans (by rfl) hM
    | split
    | with_reducible intro _

theorem State.noteErr_frame {s : State} {c : Nat} {code : Nat} {ty : Nat} (hS : State.Frame M r s) (hM : 0x8 ||| M = M) :
    State.Frame M r (State.noteErr s c code ty) := by
  unfold State.noteErr
  try dsimp only
  repeat' first
    | (with_reducible first
        | assumption | exact fieldsMask_nil | apply fieldsMask_cons | apply State.setFs_frame)
    | exact Mask.trans (by rfl) hM
    | split
    | with_reducible intro _

theorem State.endStart_frame {s : State} {c : Nat} {status : Nat} {detail : Bytes} (hS : State.Frame M r s) (hM : 0x8000000000000000000000000000000000000000 ||| M = M) :
    State.Frame M r (State.endStart s c status detail) := by
  unfold State.endStart
  try dsimp only
  repeat' first
    | (with_reducible first
        | assumption | apply State.finishWhere_frame)
    | exact Mask.trans (by rfl) hM
    | split
    | with_reducible intro _

theorem State.failStart_frame {s : State} {c : Nat} {code : Nat} {ty : Nat} {off : Nat} {state : Nat} (hS : State.Frame M r s) (hM : 0xfec2000000000000000000000004000c0000000008 ||| M = M) :
    State.Frame M r (State.failStart s c code ty off state) := by
  unfold State.failStart
  try dsimp only
  repeat' first
    | (with_reducible first
        | assumption | apply State.updChase_frame | apply State.setF_frame | apply State.noteErr_frame | apply State.freeAllDraining_frame
        | apply State.endStart_frame | apply State.freeSamples_frame | apply State.clearSampleDir_frame)
    | exact Mask.trans (by rfl) hM
    | split
    | with_reducible intro _

theorem State.loseHolder_frame {s : State} {c : Nat} (hS : State.Frame M r s) (hM : 0xb3fee2000008800300000100000004000c0000000108 ||| M = M) :
    State.Frame M r (State.loseHolder s c) := by
  unfold State.loseHolder
  try dsimp only
  repeat' first
    | (with_reducible first
        | assumption | apply State.faultChase_frame | apply State.endStart_frame | apply State.noteErr_frame)
    | exact Mask.trans (by rfl) hM
    | split
    | with_reducible intro _

theorem State.stopped_frame {s : State} {c : Nat} (hS : State.Frame M r s) (hM : 0x93608000000880000000000000000000000000000108 ||| M = M) :
    State.Frame M r (State.stopped s c) := by
  unfold State.stopped
  try dsimp only
  repeat' first
    | (with_reducible first
        | assumption | exact fieldsMask_nil | apply fieldsMask_cons | apply State.haltChase_frame | apply State.setFs_frame
        | apply State.updChase_frame | apply State.finishWhere_frame)
    | exact Mask.trans (by rfl) hM
    | split
    | with_reducible intro _

theorem State.noteNamed_frame {s : State} {c : Nat} {m : Nat} {named : List (Nat × Nat)} (hS : State.Frame M r s) (hM : 0x400000000000000000000000000000000000000000 ||| M = M) :
    State.Frame M r (State.noteNamed s c m named) := by
  unfold State.noteNamed
  try dsimp only
  repeat' first
    | (with_reducible first
        | assumption | apply State.updChase_frame)
    | exact Mask.trans (by rfl) hM
    | split
    | with_reducible intro _

theorem State.takeGo_frame {s : State} {c : Nat} {m : Nat} {start : Nat} {named : List (Nat × Nat)} (hS : State.Frame M r s) (hM : 0x93608000000880000000000000000000000000000108 ||| M = M) :
    State.Frame M r (State.takeGo s c m start named) := by
  unfold State.takeGo
  try dsimp only
  repeat' first
    | (with_reducible first
        | assumption | apply State.stopped_frame | apply State.updChase_frame | apply State.noteNamed_frame)
    | exact Mask.trans (by rfl) hM
    | split
    | with_reducible intro _

theorem State.issueGo_frame {s : State} {c : Nat} {m : Nat} {start : Nat} (hS : State.Frame M r s) (hM : 0xb360c000000880000000010000000000000000000108 ||| M = M) :
    State.Frame M r (State.issueGo s c m start) := by
  unfold State.issueGo
  try dsimp only
  repeat' first
    | (with_reducible first
        | assumption | apply State.updChase_frame | apply State.takeGo_frame | apply State.sendAll_frame)
    | exact Mask.trans (by rfl) hM
    | split
    | with_reducible intro _

theorem State.rootJudge_frame {s : State} {c : Nat} (hS : State.Frame M r s) (hM : 0xb360c000000880000000010000000000000000000108 ||| M = M) :
    State.Frame M r (State.rootJudge s c) := by
  unfold State.rootJudge
  try dsimp only
  repeat' first
    | (with_reducible first
        | assumption | apply State.issueGo_frame)
    | exact Mask.trans (by rfl) hM
    | split
    | with_reducible intro _

theorem State.rootDone_frame {s : State} {c : Nat} {ordinal : Nat} {stamp : Nat} (hS : State.Frame M r s) (hM : 0xb360c000000880000000010000000000000000000108 ||| M = M) :
    State.Frame M r (State.rootDone s c ordinal stamp) := by
  unfold State.rootDone
  try dsimp only
  repeat' first
    | (with_reducible first
        | assumption | apply State.rootJudge_frame | apply State.updChase_frame)
    | exact Mask.trans (by rfl) hM
    | split
    | with_reducible intro _

theorem State.checkFinish_frame {s : State} {c : Nat} (hS : State.Frame M r s) (hM : 0xb360c000000880000000010000000000000000000108 ||| M = M) :
    State.Frame M r (State.checkFinish s c) := by
  unfold State.checkFinish
  try dsimp only
  repeat' first
    | (with_reducible first
        | assumption | apply State.updChase_frame | apply State.rootDone_frame | apply State.sendCtl_frame)
    | exact Mask.trans (by rfl) hM
    | split
    | with_reducible intro _

theorem State.endWork_frame {s : State} {c : Nat} (hS : State.Frame M r s) (hM : 0xb360c000000880000000010000000000000000000108 ||| M = M) :
    State.Frame M r (State.endWork s c) := by
  unfold State.endWork
  try dsimp only
  repeat' first
    | (with_reducible first
        | assumption | apply State.checkFinish_frame | apply State.updChase_frame)
    | exact Mask.trans (by rfl) hM
    | split
    | with_reducible intro _

theorem State.slip_frame {s : State} {c : Nat} {m : Nat} (hS : State.Frame M r s) (hM : 0xb3fee2040008800300000100000004000c0000000308 ||| M = M) :
    State.Frame M r (State.slip s c m) := by
  unfold State.slip
  try dsimp only
  repeat' first
    | (with_reducible first
        | assumption | apply State.setF_frame | apply State.bumpWrap_frame | apply State.bump_frame | apply State.updChase_frame
        | apply State.faultChase_frame)
    | exact Mask.trans (by rfl) hM
    | split
    | with_reducible intro _

theorem State.plateStarts_frame {s : State} {c : Nat} (hS : State.Frame M r s) (hM : 0x400000000000000000000000000000000000000000 ||| M = M) :
    State.Frame M r (State.plateStarts s c) := by
  unfold State.plateStarts
  try dsimp only
  repeat' first
    | (with_reducible first
        | assumption | apply State.updChase_frame)
    | exact Mask.trans (by rfl) hM
    | split
    | with_reducible intro _

theorem State.startPlate_frame {s : State} {c : Nat} (hS : State.Frame M r s) (hM : 0x400000000000000000000000000000000000000000 ||| M = M) :
    State.Frame M r (State.startPlate s c) := by
  unfold State.startPlate
  try dsimp only
  repeat' first
    | (with_reducible first
        | assumption | apply State.plateStarts_frame)
    | exact Mask.trans (by rfl) hM
    | split
    | with_reducible intro _

/-! ### Machine/Ink.lean -/

theorem State.postLedger_frame {s : State} (hS : State.Frame M r s) (hM : 0x80000000000000000000000000000000 ||| M = M) :
    State.Frame M r (State.postLedger s) := by
  unfold State.postLedger
  try dsimp only
  repeat' first
    | (with_reducible first
        | assumption | exact fieldsMask_nil | apply fieldsMask_cons | apply State.setFs_frame)
    | exact Mask.trans (by rfl) hM
    | split
    | with_reducible intro _

theorem State.lowerGrant_frame {s : State} {c : Nat} {g : Nat} (hS : State.Frame M r s) (hM : 0x400000000800000000000000000000000000000000 ||| M = M) :
    State.Frame M r (State.lowerGrant s c g) := by
  unfold State.lowerGrant
  try dsimp only
  repeat' first
    | (with_reducible first
        | assumption | exact fieldsMask_nil | apply fieldsMask_cons | apply State.updChase_frame | apply State.setFs_frame)
    | exact Mask.trans (by rfl) hM
    | split
    | with_reducible intro _

theorem State.revokeExcess_frame {s : State} {f : Option Nat} {c : Nat} (hS : State.Frame M r s) (hM : 0x400000000a00000000000000000000000000000000 ||| M = M) :
    State.Frame M r (State.revokeExcess s f c) := by
  unfold State.revokeExcess
  try dsimp only
  repeat' first
    | (with_reducible first
        | assumption | apply State.bump_frame | apply State.lowerGrant_frame)
    | exact Mask.trans (by rfl) hM
    | split
    | with_reducible intro _

theorem State.revokeAll_frame {s : State} {f : Option Nat} {slots : List Nat} (hS : State.Frame M r s) (hM : 0x400000000a00000000000000000000000000000000 ||| M = M) :
    State.Frame M r (State.revokeAll s f slots) := by
  unfold State.revokeAll
  try dsimp only
  repeat' first
    | (with_reducible first
        | assumption | apply State.revokeExcess_frame)
    | exact Mask.trans (by rfl) hM
    | split
    | with_reducible apply State.Frame.foldl
    | with_reducible apply State.Frame.foldl_fst
    | with_reducible intro _

theorem State.proportion_frame {s : State} (hS : State.Frame M r s) (hM : 0x400000000a00000000000000000000000000000000 ||| M = M) :
    State.Frame M r (State.proportion s) := by
  unfold State.proportion
  try dsimp only
  repeat' first
    | (with_reducible first
        | assumption | apply State.bump_frame | apply State.lowerGrant_frame)
    | exact Mask.trans (by rfl) hM
    | split
    | with_reducible apply State.Frame.foldl
    | with_reducible apply State.Frame.foldl_fst
    | with_reducible intro _

theorem State.proportionUntil_frame {x0 : Nat} {x1 : State} (hSx1 : State.Frame M r x1) (hM : 0x400000000a00000000000000000000000000000000 ||| M = M) :
    State.Frame M r (State.proportionUntil x0 x1) := by
  induction x0 generalizing x1 with
  | zero => exact hSx1
  | succ n ih =>
  simp only [State.proportionUntil]
  repeat' first
    | (with_reducible first
        | assumption | apply ih | apply State.proportion_frame)
    | exact Mask.trans (by rfl) hM
    | split
    | with_reducible intro _

theorem State.fitLedger_frame {s : State} (hS : State.Frame M r s) (hM : 0x400000000a80000000000000000000000000000000 ||| M = M) :
    State.Frame M r (State.fitLedger s) := by
  unfold State.fitLedger
  try dsimp only
  repeat' first
    | (with_reducible first
        | assumption | apply State.postLedger_frame | apply State.revokeAll_frame | apply State.proportionUntil_frame)
    | exact Mask.trans (by rfl) hM
    | split
    | with_reducible intro _

theorem State.setEnvelope_frame {s : State} (hS : State.Frame M r s) (hM : 0x400000000ac0000000000000000000000000000000 ||| M = M) :
    State.Frame M r (State.setEnvelope s) := by
  unfold State.setEnvelope
  try dsimp only
  repeat' first
    | (with_reducible first
        | assumption | apply State.fitLedger_frame | apply State.setF_frame)
    | exact Mask.trans (by rfl) hM
    | split
    | with_reducible intro _

theorem State.grantInk_frame {s : State} {c : Nat} (hS : State.Frame M r s) (hM : 0x80400000000ac0000000000000000000000000000000 ||| M = M) :
    State.Frame M r (State.grantInk s c) := by
  unfold State.grantInk
  try dsimp only
  repeat' first
    | (with_reducible first
        | assumption | exact fieldsMask_nil | apply fieldsMask_cons | apply State.updChase_frame | apply State.dropInk_frame
        | apply State.setFs_frame | apply State.postLedger_frame | apply State.revokeAll_frame | apply State.bump_frame)
    | exact Mask.trans (by rfl) hM
    | split
    | (fail_if_no_progress
        with_reducible refine State.Frame.rest ?_ ?hp
        case hp => intro p hp; cases p <;> first | exact Mask.clash hM hp rfl | with_reducible exact rfl)
    | with_reducible intro _

theorem State.returnLoan_frame {s : State} {c : Nat} (hS : State.Frame M r s) (hM : 0x400000000a80000000000000000000000000000000 ||| M = M) :
    State.Frame M r (State.returnLoan s c) := by
  unfold State.returnLoan
  try dsimp only
  repeat' first
    | (with_reducible first
        | assumption | apply State.fitLedger_frame | apply State.updChase_frame)
    | exact Mask.trans (by rfl) hM
    | split
    | with_reducible intro _

theorem State.lend_frame {s : State} {c : Nat} (hS : State.Frame M r s) (hM : 0x400000000080000000000000400000000000000000 ||| M = M) :
    State.Frame M r (State.lend s c) := by
  unfold State.lend
  try dsimp only
  repeat' first
    | (with_reducible first
        | assumption | apply State.postLedger_frame | apply State.bump_frame | apply State.updChase_frame)
    | exact Mask.trans (by rfl) hM
    | split
    | with_reducible intro _

/-! ### Machine/Gate.lean -/

theorem State.hostWrite_frame {s : State} {rid : Nat} {f : State → State} (hS : State.Frame M r s) (hSf : ∀ (y0 : State), State.Frame M r y0 → State.Frame M r (f y0)) (hM : 0x100000000000000000000000000000 ||| M = M) :
    State.Frame M r (State.hostWrite s rid f) := by
  unfold State.hostWrite
  try dsimp only
  repeat' first
    | (with_reducible first
        | assumption | apply hSf | apply State.bump_frame)
    | exact Mask.trans (by rfl) hM
    | split
    | with_reducible intro _

theorem State.regWrite_frame {s : State} {rid : Nat} {f : State → State} (hS : State.Frame M r s) (hSf : ∀ (y0 : State), State.Frame M r y0 → State.Frame M r (f y0)) (hM : 0x100000000000000000000000000000 ||| M = M) :
    State.Frame M r (State.regWrite s rid f) := by
  unfold State.regWrite
  try dsimp only
  repeat' first
    | (with_reducible first
        | assumption | apply hSf | apply State.hostWrite_frame | apply State.ifB_frame)
    | exact Mask.trans (by rfl) hM
    | split
    | with_reducible intro _

theorem State.hostRead_frame {s : State} {rid : Nat} {f : State → State} (hS : State.Frame M r s) (hSf : ∀ (y0 : State), State.Frame M r y0 → State.Frame M r (f y0)) (hM : 0x4000000000100000000000000000000000000000 ||| M = M) :
    State.Frame M r (State.hostRead s rid f) := by
  unfold State.hostRead
  try dsimp only
  repeat' first
    | (with_reducible first
        | assumption | apply hSf | apply State.emit_frame | apply State.bump_frame)
    | exact Mask.trans (by rfl) hM
    | split
    | with_reducible intro _

theorem State.regRead_frame {s : State} {rid : Nat} {f : State → State} (hS : State.Frame M r s) (hSf : ∀ (y0 : State), State.Frame M r y0 → State.Frame M r (f y0)) (hM : 0x4200000000100000000000000000000000000000 ||| M = M) :
    State.Frame M r (State.regRead s rid f) := by
  unfold State.regRead
  try dsimp only
  repeat' first
    | (with_reducible first
        | assumption | apply hSf | apply State.hostRead_frame | apply State.freshBytes_frame
        | (refine State.freshBytes_frame_eq (he := by assumption) ?_ ?_) | apply State.emit_frame)
    | exact Mask.trans (by rfl) hM
    | split
    | with_reducible intro _

/-! ### Machine/Marks.lean -/

theorem State.updMark_frame {s : State} {n : Nat} {f : MarkRt → MarkRt} (hS : State.Frame M r s) (hM : 0x10000000000000000000000000000000000000000000 ||| M = M) :
    State.Frame M r (State.updMark s n f) := by
  unfold State.updMark
  try dsimp only
  repeat' first
    | (with_reducible first
        | assumption)
    | exact Mask.trans (by rfl) hM
    | split
    | (fail_if_no_progress
        with_reducible refine State.Frame.rest ?_ ?hp
        case hp => intro p hp; cases p <;> first | exact Mask.clash hM hp rfl | with_reducible exact rfl)
    | with_reducible intro _

theorem State.postWaiters_frame {s : State} {n : Nat} (hS : State.Frame M r s) (hM : 0x40000000000000000 ||| M = M) :
    State.Frame M r (State.postWaiters s n) := by
  unfold State.postWaiters
  try dsimp only
  repeat' first
    | (with_reducible first
        | assumption | apply State.setF_frame)
    | exact Mask.trans (by rfl) hM
    | split
    | with_reducible intro _

theorem State.wakePlate_frame {s : State} {c : Nat} (hS : State.Frame M r s) (hM : 0x400000000a80000000000000000000000000000000 ||| M = M) :
    State.Frame M r (State.wakePlate s c) := by
  unfold State.wakePlate
  try dsimp only
  repeat' first
    | (with_reducible first
        | assumption | apply State.startPlate_frame | apply State.updChase_frame | apply State.returnLoan_frame)
    | exact Mask.trans (by rfl) hM
    | split
    | with_reducible intro _

theorem State.serveWait_frame {s : State} {n : Nat} {x0 : MarkWait} (hS : State.Frame M r s) (hM : 0x408000000a80000000000000000000000000000000 ||| M = M) :
    State.Frame M r (State.serveWait s n x0) := by
  unfold State.serveWait
  try dsimp only
  repeat' first
    | (with_reducible first
        | assumption | apply State.wakePlate_frame | apply State.finishTicket_frame)
    | exact Mask.trans (by rfl) hM
    | split
    | with_reducible intro _

theorem State.consume_frame {s : State} {n : Nat} {x0 : List MarkWait} (hS : State.Frame M r s) (hM : 0x10400000000a80000000000000020000000000000000 ||| M = M) :
    State.Frame M r (State.consume s n x0) := by
  induction x0 generalizing s with
  | nil => exact hS
  | cons w l ih =>
    cases w with
    | plate c f =>
      simp only [State.consume]
      split
      · exact ih (State.wakePlate_frame (State.updMark_frame (State.setF_frame hS (Mask.trans (by rfl) hM)) (Mask.trans (by rfl) hM))
          (Mask.trans (by rfl) hM))
      · exact hS
    | ticket => exact ih hS

theorem State.serveMark_frame {s : State} {n : Nat} (hS : State.Frame M r s) (hM : 0x10408000000a80000000000000060000000000000000 ||| M = M) :
    State.Frame M r (State.serveMark s n) := by
  unfold State.serveMark
  try dsimp only
  repeat' first
    | (with_reducible first
        | assumption | apply State.updMark_frame | apply State.serveWait_frame | apply State.postWaiters_frame | apply State.consume_frame)
    | exact Mask.trans (by rfl) hM
    | split
    | with_reducible apply State.Frame.foldl
    | with_reducible apply State.Frame.foldl_fst
    | with_reducible intro _

theorem State.markFault_frame {s : State} {c : Nat} {code : Nat} {mark : Nat} {count : Nat} (hS : State.Frame M r s) (hM : 0xb3fee2000008800300000100002004000c0000000108 ||| M = M) :
    State.Frame M r (State.markFault s c code mark count) := by
  unfold State.markFault
  try dsimp only
  repeat' first
    | (with_reducible first
        | assumption | exact fieldsMask_nil | apply fieldsMask_cons | apply State.faultChase_frame | apply State.setFs_frame)
    | exact Mask.trans (by rfl) hM
    | split
    | with_reducible intro _

theorem State.signalMark_frame {s : State} {n : Nat} {a : Nat} (hS : State.Frame M r s) (hM : 0xb3fee200000a800300000100002604000c0000000108 ||| M = M) :
    State.Frame M r (State.signalMark s n a) := by
  unfold State.signalMark
  try dsimp only
  repeat' first
    | (with_reducible first
        | assumption | apply State.markFault_frame | apply State.setF_frame | apply State.serveMark_frame | apply State.updMark_frame)
    | exact Mask.trans (by rfl) hM
    | split
    | with_reducible intro _

theorem State.plateSignal_frame {s : State} {n : Nat} (hS : State.Frame M r s) (hM : 0xb3fee200000a800300000100002604000c0000000108 ||| M = M) :
    State.Frame M r (State.plateSignal s n) := by
  unfold State.plateSignal
  try dsimp only
  repeat' first
    | (with_reducible first
        | assumption | apply State.signalMark_frame | apply State.updMark_frame)
    | exact Mask.trans (by rfl) hM
    | split
    | with_reducible intro _

theorem State.takeMark_frame {s : State} {n : Nat} {a : Nat} (hS : State.Frame M r s) (hM : 0xb3fee200000a800300000100002604000c0000000108 ||| M = M) :
    State.Frame M r (State.takeMark s n a) := by
  unfold State.takeMark
  try dsimp only
  repeat' first
    | (with_reducible first
        | assumption | apply State.serveMark_frame | apply State.setF_frame | apply State.markFault_frame)
    | exact Mask.trans (by rfl) hM
    | split
    | with_reducible intro _

theorem State.clearMark_frame {s : State} {n : Nat} (hS : State.Frame M r s) (hM : 0x10008000000000000000000000060000000000000000 ||| M = M) :
    State.Frame M r (State.clearMark s n) := by
  unfold State.clearMark
  try dsimp only
  repeat' first
    | (with_reducible first
        | assumption | exact fieldsMask_nil | apply fieldsMask_cons | apply State.setFs_frame | apply State.finishTicket_frame
        | apply State.postWaiters_frame | apply State.updMark_frame)
    | exact Mask.trans (by rfl) hM
    | split
    | with_reducible apply State.Frame.foldl
    | with_reducible apply State.Frame.foldl_fst
    | with_reducible intro _

theorem State.clearMarks_frame {s : State} {c : Nat} (hS : State.Frame M r s) (hM : 0x100080000000000000000000000e0000000000000000 ||| M = M) :
    State.Frame M r (State.clearMarks s c) := by
  unfold State.clearMarks
  try dsimp only
  repeat' first
    | (with_reducible first
        | assumption | exact fieldsMask_nil | apply fieldsMask_cons | apply State.setFs_frame | apply State.clearMark_frame)
    | exact Mask.trans (by rfl) hM
    | split
    | with_reducible apply State.Frame.foldl
    | with_reducible apply State.Frame.foldl_fst
    | with_reducible intro _

theorem State.assignMarks_frame {s : State} {c : Nat} {plan : List (MarkEnt × Option Nat)} (hS : State.Frame M r s) (hM : 0x10000000000000000000000000060000000000000000 ||| M = M) :
    State.Frame M r (State.assignMarks s c plan) := by
  unfold State.assignMarks
  try dsimp only
  repeat' first
    | (with_reducible first
        | assumption | exact fieldsMask_nil | apply fieldsMask_cons | apply State.updMark_frame | apply State.setFs_frame)
    | exact Mask.trans (by rfl) hM
    | split
    | with_reducible apply State.Frame.foldl
    | with_reducible apply State.Frame.foldl_fst
    | with_reducible intro _

theorem State.releaseMarks_frame {s : State} {c : Nat} (hS : State.Frame M r s) (hM : 0x100080000000000000000000000e0000000000000000 ||| M = M) :
    State.Frame M r (State.releaseMarks s c) := by
  unfold State.releaseMarks
  try dsimp only
  repeat' first
    | (with_reducible first
        | assumption | apply State.wr_frame | apply State.clearMarks_frame)
    | exact Mask.trans (by rfl) hM
    | split
    | with_reducible apply State.Frame.foldl
    | with_reducible apply State.Frame.foldl_fst
    | (fail_if_no_progress
        with_reducible refine State.Frame.rest ?_ ?hp
        case hp => intro p hp; cases p <;> first | exact Mask.clash hM hp rfl | with_reducible exact rfl)
    | with_reducible intro _

theorem State.realign_frame {s : State} {c : Nat} (hS : State.Frame M r s) (hM : 0x10408000000a80000000000000160000000000000000 ||| M = M) :
    State.Frame M r (State.realign s c) := by
  unfold State.realign
  try dsimp only
  repeat' first
    | (with_reducible first
        | assumption | exact fieldsMask_nil | apply fieldsMask_cons | apply State.serveMark_frame | apply State.setFs_frame
        | apply State.bump_frame)
    | exact Mask.trans (by rfl) hM
    | split
    | with_reducible apply State.Frame.foldl
    | with_reducible apply State.Frame.foldl_fst
    | with_reducible intro _

theorem State.switchCtx_frame {s : State} {c : Nat} {ctx : Nat} (hS : State.Frame M r s) (hM : 0x100080000000000000000000000e0000000000000000 ||| M = M) :
    State.Frame M r (State.switchCtx s c ctx) := by
  unfold State.switchCtx
  try dsimp only
  repeat' first
    | (with_reducible first
        | assumption | exact fieldsMask_nil | apply fieldsMask_cons | apply State.setFs_frame | apply State.bump_frame
        | apply State.clearMark_frame)
    | exact Mask.trans (by rfl) hM
    | split
    | with_reducible apply State.Frame.foldl
    | with_reducible apply State.Frame.foldl_fst
    | with_reducible intro _

theorem State.beginWait_frame {s : State} {c : Nat} {n : Nat} (hS : State.Frame M r s) (hM : 0x10408000000a80000000000000060000000000000000 ||| M = M) :
    State.Frame M r (State.beginWait s c n) := by
  unfold State.beginWait
  try dsimp only
  repeat' first
    | (with_reducible first
        | assumption | apply State.serveMark_frame | apply State.updMark_frame | apply State.updChase_frame)
    | exact Mask.trans (by rfl) hM
    | split
    | with_reducible intro _

theorem State.reachPlate_frame {s : State} {c : Nat} {index : Nat} (hS : State.Frame M r s) (hM : 0xb3fee200000a800300000100002604000c0000000108 ||| M = M) :
    State.Frame M r (State.reachPlate s c index) := by
  unfold State.reachPlate
  try dsimp only
  repeat' first
    | (with_reducible first
        | assumption | apply State.updChase_frame | apply State.setF_frame | apply State.endWork_frame | apply State.bump_frame
        | apply State.faultChase_frame | apply State.startPlate_frame | apply State.beginWait_frame | apply State.markFault_frame)
    | exact Mask.trans (by rfl) hM
    | split
    | with_reducible intro _

theorem State.markOp_frame {s : State} {op : Nat} {n : Nat} {a : Nat} (hS : State.Frame M r s) (hM : 0xb3fee200000a800300000100016604000c0000000108 ||| M = M) :
    State.Frame M r (State.markOp s op n a) := by
  unfold State.markOp
  try dsimp only
  repeat' first
    | (with_reducible first
        | assumption | apply State.bump_frame | apply State.signalMark_frame | apply State.takeMark_frame)
    | exact Mask.trans (by rfl) hM
    | split
    | with_reducible intro _

theorem State.xlate_frame {s : State} {value : Nat} (hS : State.Frame M r s) (hM : 0x10000000000000000000 ||| M = M) :
    State.Frame M r (State.xlate s value) := by
  unfold State.xlate
  try dsimp only
  repeat' first
    | (with_reducible first
        | assumption | exact fieldsMask_nil | apply fieldsMask_cons | apply State.setFs_frame)
    | exact Mask.trans (by rfl) hM
    | split
    | with_reducible intro _

theorem State.handSet_frame {s : State} {value : Nat} (hS : State.Frame M r s) (hM : 0x10408000000a80000000000040460000000000000000 ||| M = M) :
    State.Frame M r (State.handSet s value) := by
  unfold State.handSet
  try dsimp only
  repeat' first
    | (with_reducible first
        | assumption | apply State.setF_frame | apply State.updChase_frame | apply State.bump_frame | apply State.serveMark_frame)
    | exact Mask.trans (by rfl) hM
    | split
    | with_reducible intro _

theorem execSignal_frame {rid : Nat} {mark : Nat} {amount : Nat} {s : State} (hS : State.Frame M r s) (hM : 0xb3fee200000a801300000100016604000c0000000108 ||| M = M) :
    AnsFrame M r (execSignal rid mark amount s) := by
  unfold execSignal
  try dsimp only
  repeat' first
    | (with_reducible first
        | assumption | exact ansFrame_fault | apply ansFrame_next | apply State.regWrite_frame | apply State.markOp_frame)
    | exact Mask.trans (by rfl) hM
    | split
    | with_reducible intro _

theorem execTake_frame {rid : Nat} {mark : Nat} {amount : Nat} {s : State} (hS : State.Frame M r s) (hM : 0xb3fee200000a801300000100016604000c0000000108 ||| M = M) :
    AnsFrame M r (execTake rid mark amount s) := by
  unfold execTake
  try dsimp only
  repeat' first
    | (with_reducible first
        | assumption | exact ansFrame_fault | apply ansFrame_next | apply State.regWrite_frame | apply State.markOp_frame)
    | exact Mask.trans (by rfl) hM
    | split
    | with_reducible intro _

theorem execMrkXlate_frame {rid : Nat} {value : Nat} {s : State} (hS : State.Frame M r s) (hM : 0x100000000010000000000000000000 ||| M = M) :
    AnsFrame M r (execMrkXlate rid value s) := by
  unfold execMrkXlate
  try dsimp only
  repeat' first
    | (with_reducible first
        | assumption | exact ansFrame_fault | apply ansFrame_next | apply State.regWrite_frame | apply State.xlate_frame)
    | exact Mask.trans (by rfl) hM
    | split
    | with_reducible intro _

theorem execDbgMarkSet_frame {rid : Nat} {value : Nat} {s : State} (hS : State.Frame M r s) (hM : 0x10408000000a80100000000040460000000000000000 ||| M = M) :
    AnsFrame M r (execDbgMarkSet rid value s) := by
  unfold execDbgMarkSet
  try dsimp only
  repeat' first
    | (with_reducible first
        | assumption | exact ansFrame_fault | apply ansFrame_next | apply State.regWrite_frame | apply State.handSet_frame)
    | exact Mask.trans (by rfl) hM
    | split
    | with_reducible intro _

theorem execWaitLend_frame {slot : Nat} {s : State} (hS : State.Frame M r s) (hM : 0x400000000080000000000000400000000000000000 ||| M = M) :
    AnsFrame M r (execWaitLend slot s) := by
  unfold execWaitLend
  try dsimp only
  repeat' first
    | (with_reducible first
        | assumption | exact ansFrame_fault | apply ansFrame_next | apply State.ifB_frame | apply State.lend_frame)
    | exact Mask.trans (by rfl) hM
    | split
    | with_reducible intro _

theorem State.deadlock_frame {s : State} {c : Nat} (hS : State.Frame M r s) (hM : 0x600000000003000000000c000000000000000008 ||| M = M) :
    State.Frame M r (State.deadlock s c) := by
  unfold State.deadlock
  try dsimp only
  repeat' first
    | (with_reducible first
        | assumption | exact fieldsMask_nil | apply fieldsMask_cons | apply State.bump_frame | apply State.setFs_frame
        | apply State.eventRas_frame | apply State.eventDeadlock_frame)
    | exact Mask.trans (by rfl) hM
    | split
    | with_reducible intro _

theorem execDeadlockReport_frame {slot : Nat} {s : State} (hS : State.Frame M r s) (hM : 0x600000000003000000000c000000000000000008 ||| M = M) :
    AnsFrame M r (execDeadlockReport slot s) := by
  unfold execDeadlockReport
  try dsimp only
  repeat' first
    | (with_reducible first
        | assumption | exact ansFrame_fault | apply ansFrame_next | apply State.ifB_frame | apply State.deadlock_frame)
    | exact Mask.trans (by rfl) hM
    | split
    | with_reducible intro _

/-! ### Machine/Recv.lean -/

theorem State.markDone_frame {s : State} {src : Nat} {msg : Nat} (hS : State.Frame M r s) (hM : 0x20000000000000000000000000000000000000000000 ||| M = M) :
    State.Frame M r (State.markDone s src msg) := by
  unfold State.markDone
  try dsimp only
  repeat' first
    | (with_reducible first
        | assumption | apply State.updFab_frame)
    | exact Mask.trans (by rfl) hM
    | split
    | with_reducible intro _

theorem State.finishMsg_frame {s : State} {f : Flit} {status : Nat} (hS : State.Frame M r s) (hM : 0x20004000000000000000010000000000000000000000 ||| M = M) :
    State.Frame M r (State.finishMsg s f status) := by
  unfold State.finishMsg
  try dsimp only
  repeat' first
    | (with_reducible first
        | assumption | apply State.updFab_frame | apply State.markDone_frame | apply State.sendAck_frame)
    | exact Mask.trans (by rfl) hM
    | split
    | with_reducible intro _

theorem State.keepPart_frame {s : State} {f : Flit} (hS : State.Frame M r s) (hM : 0x20000000000000000000000000000000000000000000 ||| M = M) :
    State.Frame M r (State.keepPart s f) := by
  unfold State.keepPart
  try dsimp only
  repeat' first
    | (with_reducible first
        | assumption | apply State.updFab_frame)
    | exact Mask.trans (by rfl) hM
    | split
    | with_reducible intro _

theorem State.closeMsg_frame {s : State} {f : Flit} {status : Nat} (hS : State.Frame M r s) (hM : 0x20004000000000000000010000000000000000000000 ||| M = M) :
    State.Frame M r (State.closeMsg s f status) := by
  unfold State.closeMsg
  try dsimp only
  repeat' first
    | (with_reducible first
        | assumption | apply State.keepPart_frame | apply State.finishMsg_frame)
    | exact Mask.trans (by rfl) hM
    | split
    | with_reducible intro _

theorem State.deliverFlit_frame {s : State} {f : Flit} (hS : State.Frame M r s) (hM : 0x20004000000000000000030000000000000000000000 ||| M = M) :
    State.Frame M r (State.deliverFlit s f) := by
  unfold State.deliverFlit
  try dsimp only
  repeat' first
    | (with_reducible first
        | assumption | apply State.bump_frame | apply State.closeMsg_frame | apply State.updFab_frame)
    | exact Mask.trans (by rfl) hM
    | split
    | with_reducible intro _

theorem State.ackCtl_frame {s : State} {c : Nat} {sub : Nat} {ordinal : Nat} (hS : State.Frame M r s) (hM : 0x20004000000000000000010000000000000000000000 ||| M = M) :
    State.Frame M r (State.ackCtl s c sub ordinal) := by
  unfold State.ackCtl
  try dsimp only
  repeat' first
    | (with_reducible first
        | assumption | apply State.finishMsg_frame)
    | exact Mask.trans (by rfl) hM
    | split
    | with_reducible intro _

/-! ### Machine/Sequencer.lean -/

theorem State.plateWorked_frame {s : State} {c : Nat} {contrib : SummarySlot} (hS : State.Frame M r s) (hM : 0x400000000000000000000000000000000000000000 ||| M = M) :
    State.Frame M r (State.plateWorked s c contrib) := by
  unfold State.plateWorked
  try dsimp only
  repeat' first
    | (with_reducible first
        | assumption | apply State.updChase_frame)
    | exact Mask.trans (by rfl) hM
    | split
    | with_reducible intro _

theorem State.setSlot_frame {s : State} {c : Nat} {k : Nat} {v : SummarySlot} (hS : State.Frame M r s) (hM : 0x400000000000000000000000000000000000000000 ||| M = M) :
    State.Frame M r (State.setSlot s c k v) := by
  unfold State.setSlot
  try dsimp only
  repeat' first
    | (with_reducible first
        | assumption | apply State.updChase_frame)
    | exact Mask.trans (by rfl) hM
    | split
    | with_reducible intro _

theorem State.sendSignal_frame {s : State} {c : Nat} {ordinal : Nat} {id : Nat} (hS : State.Frame M r s) (hM : 0x20004000000000000000010000000000000000000000 ||| M = M) :
    State.Frame M r (State.sendSignal s c ordinal id) := by
  unfold State.sendSignal
  try dsimp only
  repeat' first
    | (with_reducible first
        | assumption | apply State.sendMsg_frame)
    | exact Mask.trans (by rfl) hM
    | split
    | with_reducible intro _

theorem State.signalDone_frame {s : State} {c : Nat} {last : Bool} (hS : State.Frame M r s) (hM : 0xb3fee200000a800300000100002604000c0000000108 ||| M = M) :
    State.Frame M r (State.signalDone s c last) := by
  unfold State.signalDone
  try dsimp only
  repeat' first
    | (with_reducible first
        | assumption | apply State.markFault_frame | apply State.updChase_frame | apply State.sendSignal_frame
        | apply State.plateSignal_frame)
    | exact Mask.trans (by rfl) hM
    | split
    | with_reducible apply State.Frame.foldl
    | with_reducible apply State.Frame.foldl_fst
    | with_reducible intro _

theorem State.plateBarrier_frame {s : State} {c : Nat} {next : Nat} (hS : State.Frame M r s) (hM : 0xb3fee200000a800300000100002604000c0000000108 ||| M = M) :
    State.Frame M r (State.plateBarrier s c next) := by
  unfold State.plateBarrier
  try dsimp only
  repeat' first
    | (with_reducible first
        | assumption | apply State.setSlot_frame | apply State.reachPlate_frame)
    | exact Mask.trans (by rfl) hM
    | split
    | with_reducible intro _

theorem State.completeIn_frame {s : State} {c : Nat} {k : Nat} {next : Nat} (hS : State.Frame M r s) (hM : 0xb3fee200000a800300000100002604000c0000000108 ||| M = M) :
    State.Frame M r (State.completeIn s c k next) := by
  unfold State.completeIn
  try dsimp only
  repeat' first
    | (with_reducible first
        | assumption | apply State.updChase_frame | apply State.signalDone_frame | apply State.plateBarrier_frame)
    | exact Mask.trans (by rfl) hM
    | split
    | with_reducible intro _

theorem State.signalAll_frame {s : State} {c : Nat} (hS : State.Frame M r s) (hM : 0xb3fee200000a800300000100002604000c0000000108 ||| M = M) :
    State.Frame M r (State.signalAll s c) := by
  unfold State.signalAll
  try dsimp only
  repeat' first
    | (with_reducible first
        | assumption | apply State.signalDone_frame)
    | exact Mask.trans (by rfl) hM
    | split
    | with_reducible apply State.Frame.foldl
    | with_reducible apply State.Frame.foldl_fst
    | with_reducible intro _

theorem State.holdPlate_frame {s : State} {c : Nat} (hS : State.Frame M r s) (hM : 0xb3fee200000a800300000100002e04000c0000000108 ||| M = M) :
    State.Frame M r (State.holdPlate s c) := by
  unfold State.holdPlate
  try dsimp only
  repeat' first
    | (with_reducible first
        | assumption | exact fieldsMask_nil | apply fieldsMask_cons | apply State.signalAll_frame | apply State.setF_frame
        | apply State.setFs_frame | apply State.updChase_frame | apply State.endWork_frame)
    | exact Mask.trans (by rfl) hM
    | split
    | with_reducible intro _

theorem execHold_frame {slot : Nat} {s : State} (hS : State.Frame M r s) (hM : 0xb3fee200000a800300000100002e04000c0000000108 ||| M = M) :
    AnsFrame M r (execHold slot s) := by
  unfold execHold
  try dsimp only
  repeat' first
    | (with_reducible first
        | assumption | exact ansFrame_fault | apply ansFrame_next | apply State.ifB_frame | apply State.holdPlate_frame)
    | exact Mask.trans (by rfl) hM
    | split
    | with_reducible intro _

theorem State.branchPlate_frame {s : State} {c : Nat} (hS : State.Frame M r s) (hM : 0xb3fee200000a800300000100002604000c0000000108 ||| M = M) :
    State.Frame M r (State.branchPlate s c) := by
  unfold State.branchPlate
  try dsimp only
  repeat' first
    | (with_reducible first
        | assumption | apply State.faultChase_frame | apply State.signalAll_frame | apply State.plateBarrier_frame)
    | exact Mask.trans (by rfl) hM
    | split
    | with_reducible intro _

theorem execBranch_frame {slot : Nat} {s : State} (hS : State.Frame M r s) (hM : 0xb3fee200000a800300000100002604000c0000000108 ||| M = M) :
    AnsFrame M r (execBranch slot s) := by
  unfold execBranch
  try dsimp only
  repeat' first
    | (with_reducible first
        | assumption | exact ansFrame_fault | apply ansFrame_next | apply State.ifB_frame | apply State.branchPlate_frame)
    | exact Mask.trans (by rfl) hM
    | split
    | with_reducible intro _

theorem execPlateComplete_frame {slot : Nat} {region : Nat} {s : State} (hS : State.Frame M r s) (hM : 0xb3fee200000a800300000100002604000c0000000108 ||| M = M) :
    AnsFrame M r (execPlateComplete slot region s) := by
  unfold execPlateComplete
  try dsimp only
  repeat' first
    | (with_reducible first
        | assumption | exact ansFrame_fault | apply ansFrame_next | apply State.ifB_frame | apply State.completeIn_frame)
    | exact Mask.trans (by rfl) hM
    | split
    | with_reducible intro _

theorem State.takeSummary_frame {s : State} {c : Nat} {k : Nat} {v : SummarySlot} (hS : State.Frame M r s) (hM : 0x400000000000000000000000000000000000000000 ||| M = M) :
    State.Frame M r (State.takeSummary s c k v) := by
  unfold State.takeSummary
  try dsimp only
  repeat' first
    | (with_reducible first
        | assumption | apply State.updChase_frame | apply State.setSlot_frame)
    | exact Mask.trans (by rfl) hM
    | split
    | with_reducible intro _

theorem State.rootSummary_frame {s : State} {c : Nat} {ordinal : Nat} {k : Nat} {v : SummarySlot} (hS : State.Frame M r s) (hM : 0x20404000000000000000010000000000000000000000 ||| M = M) :
    State.Frame M r (State.rootSummary s c ordinal k v) := by
  unfold State.rootSummary
  try dsimp only
  repeat' first
    | (with_reducible first
        | assumption | apply State.updChase_frame | apply State.takeSummary_frame | apply State.sendAll_frame)
    | exact Mask.trans (by rfl) hM
    | split
    | with_reducible apply State.Frame.foldl
    | with_reducible apply State.Frame.foldl_fst
    | with_reducible intro _

theorem State.giveSummary_frame {s : State} {c : Nat} {k : Nat} {v : SummarySlot} (hS : State.Frame M r s) (hM : 0x20404000000000000000010000000000000000000000 ||| M = M) :
    State.Frame M r (State.giveSummary s c k v) := by
  unfold State.giveSummary
  try dsimp only
  repeat' first
    | (with_reducible first
        | assumption | apply State.rootSummary_frame | apply State.sendCtl_frame)
    | exact Mask.trans (by rfl) hM
    | split
    | with_reducible intro _

theorem execSummary_frame {slot : Nat} {ordinal : Nat} {k : Nat} {v : SummarySlot} {s : State} (hS : State.Frame M r s) (hM : 0x20404000000000000000010000000000000000000000 ||| M = M) :
    AnsFrame M r (execSummary slot ordinal k v s) := by
  unfold execSummary
  try dsimp only
  repeat' first
    | (with_reducible first
        | assumption | exact ansFrame_fault | apply ansFrame_next | apply State.ifB_frame | apply State.rootSummary_frame
        | apply State.ackCtl_frame)
    | exact Mask.trans (by rfl) hM
    | split
    | with_reducible intro _

theorem execSummaryResult_frame {slot : Nat} {k : Nat} {v : SummarySlot} {s : State} (hS : State.Frame M r s) (hM : 0x20404000000000000000010000000000000000000000 ||| M = M) :
    AnsFrame M r (execSummaryResult slot k v s) := by
  unfold execSummaryResult
  try dsimp only
  repeat' first
    | (with_reducible first
        | assumption | exact ansFrame_fault | apply ansFrame_next | apply State.ifB_frame | apply State.takeSummary_frame
        | apply State.ackCtl_frame)
    | exact Mask.trans (by rfl) hM
    | split
    | with_reducible intro _

/-! ### Machine/Colophon.lean -/

theorem State.checkpoint_frame {s : State} (hS : State.Frame M r s) (hM : 0x200000001880000000000000000000000000000000000 ||| M = M) :
    State.Frame M r (State.checkpoint s) := by
  unfold State.checkpoint
  try dsimp only
  repeat' first
    | (with_reducible first
        | assumption | exact fieldsMask_nil | apply fieldsMask_cons | apply State.setFs_frame)
    | exact Mask.trans (by rfl) hM
    | split
    | (fail_if_no_progress
        with_reducible refine State.Frame.rest ?_ ?hp
        case hp => intro p hp; cases p <;> first | exact Mask.clash hM hp rfl | with_reducible exact rfl)
    | with_reducible intro _

theorem State.colRoom_frame {s : State} (hS : State.Frame M r s) (hM : 0x200000001000000000000000000000000000000000000 ||| M = M) {u : State} (he : State.colRoom s = some u) :
    State.Frame M r u := by
  unfold State.colRoom at he
  split at he
  · cases he; exact hS
  · split at he
    · split at he
      · cases he
        refine State.bump_frame (State.Frame.rest hS ?_) (Mask.trans (by rfl) hM)
        intro p hp
        cases p <;> first | exact Mask.clash hM hp rfl | with_reducible exact rfl
      · cases he
    · cases he

theorem State.record_frame {s : State} {e : ColEntry} (hS : State.Frame M r s) (hM : 0x200000003c80000000000000000000000000000000000 ||| M = M) :
    State.Frame M r (State.record s e).1 := by
  unfold State.record
  try dsimp only
  repeat' first
    | (with_reducible first
        | assumption | apply State.wr_frame | (refine State.colRoom_frame (he := by assumption) ?_ ?_) | apply State.bump_frame
        | apply State.checkpoint_frame)
    | exact Mask.trans (by rfl) hM
    | split
    | (fail_if_no_progress
        with_reducible refine State.Frame.rest ?_ ?hp
        case hp => intro p hp; cases p <;> first | exact Mask.clash hM hp rfl | with_reducible exact rfl)
    | with_reducible intro _

theorem State.record_frame_eq {s : State} {e : ColEntry} (hS : State.Frame M r s) (hM : 0x200000003c80000000000000000000000000000000000 ||| M = M) {u : State} {z : Bool} (he : State.record s e = (u, z)) :
    State.Frame M r u := by
  have := State.record_frame hS hM (s := s) (e := e)
  rwa [he] at this

theorem State.note_frame {s : State} {e : ColEntry} (hS : State.Frame M r s) (hM : 0x200000003c80000000000000000000000000000000000 ||| M = M) :
    State.Frame M r (State.note s e) := by
  unfold State.note
  try dsimp only
  repeat' first
    | (with_reducible first
        | assumption | apply State.record_frame | (refine State.record_frame_eq (he := by assumption) ?_ ?_))
    | exact Mask.trans (by rfl) hM
    | split
    | with_reducible intro _

theorem State.refuseRw2p_frame {s : State} {opcode : Nat} {off : Nat} {value : Nat} (hS : State.Frame M r s) (hM : 0x200000003c80000000000000000000000000000000000 ||| M = M) :
    State.Frame M r (State.refuseRw2p s opcode off value) := by
  unfold State.refuseRw2p
  try dsimp only
  repeat' first
    | (with_reducible first
        | assumption | apply State.note_frame)
    | exact Mask.trans (by rfl) hM
    | split
    | with_reducible intro _

theorem State.noteMaint_frame {s : State} {opcode : Nat} {off : Nat} {value : Nat} (hS : State.Frame M r s) (hM : 0x200000003c80000000000000000000000000000000000 ||| M = M) :
    State.Frame M r (State.noteMaint s opcode off value) := by
  unfold State.noteMaint
  try dsimp only
  repeat' first
    | (with_reducible first
        | assumption | apply State.note_frame)
    | exact Mask.trans (by rfl) hM
    | split
    | with_reducible intro _

theorem State.showAuths_frame {s : State} (hS : State.Frame M r s) (hM : 0x200000000000000000000000000000000000 ||| M = M) :
    State.Frame M r (State.showAuths s) := by
  unfold State.showAuths
  try dsimp only
  repeat' first
    | (with_reducible first
        | assumption | exact fieldsMask_nil | apply fieldsMask_cons | apply State.setFs_frame)
    | exact Mask.trans (by rfl) hM
    | split
    | with_reducible intro _

theorem State.dropAuth_frame {s : State} {kind : Nat} (hS : State.Frame M r s) (hM : 0x200000000200000000000000000000000000000000000 ||| M = M) :
    State.Frame M r (State.dropAuth s kind) := by
  unfold State.dropAuth
  try dsimp only
  repeat' first
    | (with_reducible first
        | assumption | apply State.showAuths_frame)
    | exact Mask.trans (by rfl) hM
    | split
    | (fail_if_no_progress
        with_reducible refine State.Frame.rest ?_ ?hp
        case hp => intro p hp; cases p <;> first | exact Mask.clash hM hp rfl | with_reducible exact rfl)
    | with_reducible intro _

theorem State.endAuth_frame {s : State} {kind : Nat} (hS : State.Frame M r s) (hM : 0x200000003e80000000000000000000000000000000000 ||| M = M) :
    State.Frame M r (State.endAuth s kind) := by
  unfold State.endAuth
  try dsimp only
  repeat' first
    | (with_reducible first
        | assumption | apply State.note_frame | apply State.dropAuth_frame)
    | exact Mask.trans (by rfl) hM
    | split
    | with_reducible intro _

theorem State.slotEmptied_frame {s : State} {c : Nat} (hS : State.Frame M r s) (hM : 0x200000003e80000000000000000000000000000000000 ||| M = M) :
    State.Frame M r (State.slotEmptied s c) := by
  unfold State.slotEmptied
  try dsimp only
  repeat' first
    | (with_reducible first
        | assumption | apply State.endAuth_frame)
    | exact Mask.trans (by rfl) hM
    | split
    | with_reducible intro _

/-! ### Machine/Hbm.lean -/

theorem State.setBank_frame {s : State} {b : BankRepair} (hS : State.Frame M r s) (hM : 0x200000000000000000000000000000000000000000 ||| M = M) :
    State.Frame M r (State.setBank s b) := by
  unfold State.setBank
  try dsimp only
  repeat' first
    | (with_reducible first
        | assumption)
    | exact Mask.trans (by rfl) hM
    | split
    | (fail_if_no_progress
        with_reducible refine State.Frame.rest ?_ ?hp
        case hp => intro p hp; cases p <;> first | exact Mask.clash hM hp rfl | with_reducible exact rfl)
    | with_reducible intro _

theorem State.postSpares_frame {s : State} {stack : Nat} (hS : State.Frame M r s) (hM : 0x2000000000000 ||| M = M) :
    State.Frame M r (State.postSpares s stack) := by
  unfold State.postSpares
  try dsimp only
  repeat' first
    | (with_reducible first
        | assumption | apply State.setF_frame)
    | exact Mask.trans (by rfl) hM
    | split
    | with_reducible apply State.Frame.foldl
    | with_reducible apply State.Frame.foldl_fst
    | with_reducible intro _

theorem State.hbmStep_frame {s : State} {stack : Nat} {h : Nat} {sev : Nat} {action : Nat} (hS : State.Frame M r s) (hM : 0x60d4000000030000000000000000000000000000 ||| M = M) :
    State.Frame M r (State.hbmStep s stack h sev action) := by
  unfold State.hbmStep
  try dsimp only
  repeat' first
    | (with_reducible first
        | assumption | apply State.bump_frame | apply State.logErr_frame)
    | exact Mask.trans (by rfl) hM
    | split
    | with_reducible intro _

theorem State.hbmLast_frame {s : State} {stack : Nat} {kind : Nat} {pc : Nat} {bank : Nat} {row : Nat} {h : Nat} (hS : State.Frame M r s) (hM : 0x20000000000000 ||| M = M) :
    State.Frame M r (State.hbmLast s stack kind pc bank row h) := by
  unfold State.hbmLast
  try dsimp only
  repeat' first
    | (with_reducible first
        | assumption | apply State.wr_frame)
    | exact Mask.trans (by rfl) hM
    | split
    | with_reducible intro _

theorem State.dropMoves_frame {s : State} {c : Nat} {p : Nat → Bool} (hS : State.Frame M r s) (hM : 0x6000000000000000000000000000000c0000000000 ||| M = M) :
    State.Frame M r (State.dropMoves s c p) := by
  unfold State.dropMoves
  try dsimp only
  repeat' first
    | (with_reducible first
        | assumption | apply State.abandon_frame)
    | exact Mask.trans (by rfl) hM
    | split
    | with_reducible intro _

theorem State.markRehome_frame {s : State} {p : Nat → Bool} {how : Nat} (hS : State.Frame M r s) (hM : 0x6000000000000000000000000000000c0000000000 ||| M = M) :
    State.Frame M r (State.markRehome s p how) := by
  unfold State.markRehome
  try dsimp only
  repeat' first
    | (with_reducible first
        | assumption | apply State.dropMoves_frame | apply State.updFrame_frame)
    | exact Mask.trans (by rfl) hM
    | split
    | with_reducible apply State.Frame.foldl
    | with_reducible apply State.Frame.foldl_fst
    | with_reducible intro _

theorem State.noteFailed_frame {s : State} {h : Nat} (hS : State.Frame M r s) (hM : 0x400000000000000000000000000000000000000000 ||| M = M) :
    State.Frame M r (State.noteFailed s h) := by
  unfold State.noteFailed
  try dsimp only
  repeat' first
    | (with_reducible first
        | assumption | apply State.updFrame_frame)
    | exact Mask.trans (by rfl) hM
    | split
    | with_reducible apply State.Frame.foldl
    | with_reducible apply State.Frame.foldl_fst
    | with_reducible intro _

theorem State.offlineStack_frame {s : State} {stack : Nat} {readable : Bool} (hS : State.Frame M r s) (hM : 0x6460d40000000300000000000000020c0000000002 ||| M = M) :
    State.Frame M r (State.offlineStack s stack readable) := by
  unfold State.offlineStack
  try dsimp only
  repeat' first
    | (with_reducible first
        | assumption | exact fieldsMask_nil | apply fieldsMask_cons | apply State.setFs_frame | apply State.setF_frame
        | apply State.markRehome_frame | apply State.dropMoves_frame | apply State.updFrame_frame | apply State.updChase_frame
        | apply State.hbmStep_frame | apply State.poisonRun_frame)
    | exact Mask.trans (by rfl) hM
    | split
    | with_reducible apply State.Frame.foldl
    | with_reducible apply State.Frame.foldl_fst
    | with_reducible intro _

theorem State.offlinePc_frame {s : State} {stack : Nat} {pc : Nat} (hS : State.Frame M r s) (hM : 0x6460d40000000300000000000000260c0000000002 ||| M = M) :
    State.Frame M r (State.offlinePc s stack pc) := by
  unfold State.offlinePc
  try dsimp only
  repeat' first
    | (with_reducible first
        | assumption | exact fieldsMask_nil | apply fieldsMask_cons | apply State.setFs_frame | apply State.hbmStep_frame
        | apply State.markRehome_frame | apply State.hbmLast_frame | apply State.offlineStack_frame)
    | exact Mask.trans (by rfl) hM
    | split
    | with_reducible intro _

theorem State.retireRow_frame {s : State} {stack : Nat} {pc : Nat} {bank : Nat} {row : Nat} (hS : State.Frame M r s) (hM : 0x6460d40000000300000000000000260c0000000002 ||| M = M) :
    State.Frame M r (State.retireRow s stack pc bank row) := by
  unfold State.retireRow
  try dsimp only
  repeat' first
    | (with_reducible first
        | assumption | apply State.offlinePc_frame | apply State.hbmStep_frame | apply State.markRehome_frame | apply State.hbmLast_frame
        | apply State.setF_frame)
    | exact Mask.trans (by rfl) hM
    | split
    | with_reducible apply State.Frame.foldl
    | with_reducible apply State.Frame.foldl_fst
    | (fail_if_no_progress
        with_reducible refine State.Frame.rest ?_ ?hp
        case hp => intro p hp; cases p <;> first | exact Mask.clash hM hp rfl | with_reducible exact rfl)
    | with_reducible intro _

theorem State.repairRow_frame {s : State} {stack : Nat} {pc : Nat} {bank : Nat} {row : Nat} (hS : State.Frame M r s) (hM : 0x6460d40000000300000000000000360c0000000002 ||| M = M) :
    State.Frame M r (State.repairRow s stack pc bank row) := by
  unfold State.repairRow
  try dsimp only
  repeat' first
    | (with_reducible first
        | assumption | apply State.hbmLast_frame | apply State.bump_frame | apply State.postSpares_frame | apply State.setBank_frame
        | apply State.hbmStep_frame | apply State.retireRow_frame)
    | exact Mask.trans (by rfl) hM
    | split
    | (fail_if_no_progress
        with_reducible refine State.Frame.rest ?_ ?hp
        case hp => intro p hp; cases p <;> first | exact Mask.clash hM hp rfl | with_reducible exact rfl)
    | with_reducible intro _

theorem State.eccCorrected_frame {s : State} {h : Nat} (hS : State.Frame M r s) (hM : 0x6460d400000003000000000000003e0c0000000002 ||| M = M) :
    State.Frame M r (State.eccCorrected s h) := by
  unfold State.eccCorrected
  try dsimp only
  repeat' first
    | (with_reducible first
        | assumption | apply State.bump_frame | apply State.repairRow_frame)
    | exact Mask.trans (by rfl) hM
    | split
    | (fail_if_no_progress
        with_reducible refine State.Frame.rest ?_ ?hp
        case hp => intro p hp; cases p <;> first | exact Mask.clash hM hp rfl | with_reducible exact rfl)
    | with_reducible intro _

theorem State.eccFinds_frame {s : State} {h : Nat} {found : EccResult} (hS : State.Frame M r s) (hM : 0x6662d400000003000000000000003e0c0000000002 ||| M = M) :
    State.Frame M r (State.eccFinds s h found) := by
  unfold State.eccFinds
  try dsimp only
  repeat' first
    | (with_reducible first
        | assumption | apply State.eccCorrected_frame | apply State.freshBytes_frame
        | (refine State.freshBytes_frame_eq (he := by assumption) ?_ ?_) | apply State.rawWrite_frame | apply State.hbmLast_frame
        | apply State.poisonRun_frame | apply State.noteFailed_frame | apply State.bump_frame | apply State.repairRow_frame
        | apply State.markRehome_frame | apply State.hbmStep_frame)
    | exact Mask.trans (by rfl) hM
    | split
    | with_reducible intro _

theorem State.eccSector_frame {s : State} {h : Nat} {k : Nat} {errs : List SymErr} (hS : State.Frame M r s) (hM : 0x6662d400000003000000000000003e0c0000000002 ||| M = M) :
    State.Frame M r (State.eccSector s h k errs) := by
  unfold State.eccSector
  try dsimp only
  repeat' first
    | (with_reducible first
        | assumption | apply State.eccFinds_frame | apply State.fresh_frame | (refine State.fresh_frame_eq (he := by assumption) ?_ ?_))
    | exact Mask.trans (by rfl) hM
    | split
    | with_reducible intro _

theorem State.parityFails_frame {s : State} {h : Nat} {fails : Nat} (hS : State.Frame M r s) (hM : 0x200000000000000000000000000008000000000000 ||| M = M) :
    State.Frame M r (State.parityFails s h fails) := by
  unfold State.parityFails
  try dsimp only
  repeat' first
    | (with_reducible first
        | assumption | apply State.bump_frame)
    | exact Mask.trans (by rfl) hM
    | split
    | (fail_if_no_progress
        with_reducible refine State.Frame.rest ?_ ?hp
        case hp => intro p hp; cases p <;> first | exact Mask.clash hM hp rfl | with_reducible exact rfl)
    | with_reducible intro _

theorem State.hbmXfer_frame {s : State} {x : HbmXfer} (hS : State.Frame M r s) (hM : 0x6662d400000003000000000000003e0c0000000002 ||| M = M) :
    State.Frame M r (State.hbmXfer s x) := by
  unfold State.hbmXfer
  try dsimp only
  repeat' first
    | (with_reducible first
        | assumption | apply State.parityFails_frame | apply State.eccSector_frame)
    | exact Mask.trans (by rfl) hM
    | split
    | (fail_if_no_progress
        with_reducible refine State.Frame.rest ?_ ?hp
        case hp => intro p hp; cases p <;> first | exact Mask.clash hM hp rfl | with_reducible exact rfl)
    | with_reducible intro _

theorem State.eccSecond_frame {s : State} {h : Nat} {fail : XferFail} {errs : List SymErr} (hS : State.Frame M r s) (hM : 0x6662d400000003000000000000003e0c0000000002 ||| M = M) :
    State.Frame M r (State.eccSecond s h fail errs) := by
  unfold State.eccSecond
  try dsimp only
  repeat' first
    | (with_reducible first
        | assumption | apply State.eccSector_frame)
    | exact Mask.trans (by rfl) hM
    | split
    | (fail_if_no_progress
        with_reducible refine State.Frame.rest ?_ ?hp
        case hp => intro p hp; cases p <;> first | exact Mask.clash hM hp rfl | with_reducible exact rfl)
    | with_reducible intro _

theorem State.xfersEnd_frame {s : State} (hS : State.Frame M r s) (hM : 0x2e0000000000000000000000000000000000000000 ||| M = M) :
    State.Frame M r (State.xfersEnd s) := by
  unfold State.xfersEnd
  try dsimp only
  repeat' first
    | (with_reducible first
        | assumption | apply State.poisonRun_frame | apply State.mbToDram_frame)
    | exact Mask.trans (by rfl) hM
    | split
    | with_reducible apply State.Frame.foldl
    | with_reducible apply State.Frame.foldl_fst
    | (fail_if_no_progress
        with_reducible refine State.Frame.rest ?_ ?hp
        case hp => intro p hp; cases p <;> first | exact Mask.clash hM hp rfl | with_reducible exact rfl)
    | with_reducible intro _

theorem State.xfersBegin_frame {s : State} (hS : State.Frame M r s) (hM : 0x200000000000000000000000000000000000000000 ||| M = M) :
    State.Frame M r (State.xfersBegin s) := by
  unfold State.xfersBegin
  try dsimp only
  repeat' first
    | (with_reducible first
        | assumption)
    | exact Mask.trans (by rfl) hM
    | split
    | (fail_if_no_progress
        with_reducible refine State.Frame.rest ?_ ?hp
        case hp => intro p hp; cases p <;> first | exact Mask.clash hM hp rfl | with_reducible exact rfl)
    | with_reducible intro _

theorem State.xfersStart_frame {s : State} {l : List HbmXfer} (hS : State.Frame M r s) (hM : 0x6662d400000003000000000000003e0c0000000002 ||| M = M) :
    State.Frame M r (State.xfersStart s l) := by
  unfold State.xfersStart
  try dsimp only
  repeat' first
    | (with_reducible first
        | assumption | apply State.hbmXfer_frame | apply State.xfersBegin_frame)
    | exact Mask.trans (by rfl) hM
    | split
    | with_reducible apply State.Frame.foldl
    | with_reducible apply State.Frame.foldl_fst
    | with_reducible intro _

theorem State.xfersStop_frame {s : State} {l : List HbmXfer} (hS : State.Frame M r s) (hM : 0x2e0000000000000000000000000000000000000000 ||| M = M) :
    State.Frame M r (State.xfersStop s l) := by
  unfold State.xfersStop
  try dsimp only
  repeat' first
    | (with_reducible first
        | assumption | apply State.xfersEnd_frame)
    | exact Mask.trans (by rfl) hM
    | split
    | with_reducible intro _

theorem State.withXfers_frame {s : State} {l : List HbmXfer} {f : State → State} (hS : State.Frame M r s) (hSf : ∀ (y0 : State), State.Frame M r y0 → State.Frame M r (f y0)) (hM : 0x6e62d400000003000000000000003e0c0000000002 ||| M = M) :
    State.Frame M r (State.withXfers s l f) := by
  unfold State.withXfers
  try dsimp only
  repeat' first
    | (with_reducible first
        | assumption | apply hSf | apply State.xfersStop_frame | apply State.xfersStart_frame)
    | exact Mask.trans (by rfl) hM
    | split
    | with_reducible intro _

theorem execScrub_frame {stack : Nat} {pc : Nat} {line : Nat} {sector : Nat} {found : List SymErr} {fails : XferFail} {s : State} (hS : State.Frame M r s) (hM : 0x6e62d400000003000000000000007e0c0000000002 ||| M = M) :
    AnsFrame M r (execScrub stack pc line sector found fails s) := by
  unfold execScrub
  try dsimp only
  repeat' first
    | (with_reducible first
        | assumption | exact ansFrame_fault | apply ansFrame_next | apply State.ifB_frame | apply State.setF_frame
        | apply State.withXfers_frame)
    | exact Mask.trans (by rfl) hM
    | split
    | with_reducible intro _

theorem execStackOffline_frame {stack : Nat} {s : State} (hS : State.Frame M r s) (hM : 0x6460d40000000300000000000000020c0000000002 ||| M = M) :
    AnsFrame M r (execStackOffline stack s) := by
  unfold execStackOffline
  try dsimp only
  repeat' first
    | (with_reducible first
        | assumption | exact ansFrame_fault | apply ansFrame_next | apply State.ifB_frame | apply State.offlineStack_frame)
    | exact Mask.trans (by rfl) hM
    | split
    | with_reducible intro _

theorem execHbmTemp_frame {stack : Nat} {temp : Nat} {s : State} (hS : State.Frame M r s) (hM : 0x6000000000030000000000000002000000000000 ||| M = M) :
    AnsFrame M r (execHbmTemp stack temp s) := by
  unfold execHbmTemp
  try dsimp only
  repeat' first
    | (with_reducible first
        | assumption | exact ansFrame_fault | apply ansFrame_next | exact fieldsMask_nil | apply fieldsMask_cons | apply State.ifB_frame
        | apply State.setFs_frame | apply State.eventRas_frame)
    | exact Mask.trans (by rfl) hM
    | split
    | with_reducible intro _

theorem State.maint_frame {s : State} {stack : Nat} {op : Nat} {pc : Nat} {bank : Nat} {row : Nat} {value : Nat} {f : State → State} (hS : State.Frame M r s) (hSf : ∀ (y0 : State), State.Frame M r y0 → State.Frame M r (f y0)) (hM : 0x200000003c80000000000000000000180000000000000 ||| M = M) :
    State.Frame M r (State.maint s stack op pc bank row value f) := by
  unfold State.maint
  try dsimp only
  repeat' first
    | (with_reducible first
        | assumption | apply hSf | apply State.wr_frame | apply State.noteMaint_frame | apply State.refuseRw2p_frame)
    | exact Mask.trans (by rfl) hM
    | split
    | with_reducible intro _

theorem State.readMap_frame {s : State} {stack : Nat} {pc : Nat} {bank : Nat} (hS : State.Frame M r s) (hM : 0x100000000000000 ||| M = M) :
    State.Frame M r (State.readMap s stack pc bank) := by
  unfold State.readMap
  try dsimp only
  repeat' first
    | (with_reducible first
        | assumption | exact fieldsMask_nil | apply fieldsMask_cons | apply State.setFs_frame)
    | exact Mask.trans (by rfl) hM
    | split
    | with_reducible apply State.Frame.foldl
    | with_reducible apply State.Frame.foldl_fst
    | with_reducible intro _

theorem State.testPc_frame {s : State} {stack : Nat} {pc : Nat} {pass : Bool} (hS : State.Frame M r s) (hM : 0x200000000000000000000000000100000000000000 ||| M = M) :
    State.Frame M r (State.testPc s stack pc pass) := by
  unfold State.testPc
  try dsimp only
  repeat' first
    | (with_reducible first
        | assumption | apply State.setF_frame)
    | exact Mask.trans (by rfl) hM
    | split
    | (fail_if_no_progress
        with_reducible refine State.Frame.rest ?_ ?hp
        case hp => intro p hp; cases p <;> first | exact Mask.clash hM hp rfl | with_reducible exact rfl)
    | with_reducible intro _

theorem State.returnPc_frame {s : State} {stack : Nat} {pc : Nat} (hS : State.Frame M r s) (hM : 0x200000000000000000000000000100000000000000 ||| M = M) :
    State.Frame M r (State.returnPc s stack pc) := by
  unfold State.returnPc
  try dsimp only
  repeat' first
    | (with_reducible first
        | assumption | apply State.setF_frame)
    | exact Mask.trans (by rfl) hM
    | split
    | (fail_if_no_progress
        with_reducible refine State.Frame.rest ?_ ?hp
        case hp => intro p hp; cases p <;> first | exact Mask.clash hM hp rfl | with_reducible exact rfl)
    | with_reducible intro _

theorem execReadMap_frame {rid : Nat} {stack : Nat} {pc : Nat} {bank : Nat} {row : Nat} {s : State} (hS : State.Frame M r s) (hM : 0x200000003c80000100000000000000180000000000000 ||| M = M) :
    AnsFrame M r (execReadMap rid stack pc bank row s) := by
  unfold execReadMap
  try dsimp only
  repeat' first
    | (with_reducible first
        | assumption | exact ansFrame_fault | apply ansFrame_next | apply State.regWrite_frame | apply State.maint_frame
        | apply State.readMap_frame)
    | exact Mask.trans (by rfl) hM
    | split
    | with_reducible intro _

theorem execForceRepair_frame {rid : Nat} {stack : Nat} {pc : Nat} {bank : Nat} {row : Nat} {s : State} (hS : State.Frame M r s) (hM : 0x2006460d7c800001300000000000001b60c0000000002 ||| M = M) :
    AnsFrame M r (execForceRepair rid stack pc bank row s) := by
  unfold execForceRepair
  try dsimp only
  repeat' first
    | (with_reducible first
        | assumption | exact ansFrame_fault | apply ansFrame_next | apply State.regWrite_frame | apply State.maint_frame
        | apply State.repairRow_frame)
    | exact Mask.trans (by rfl) hM
    | split
    | with_reducible intro _

theorem execTestPc_frame {rid : Nat} {stack : Nat} {pc : Nat} {bank : Nat} {row : Nat} {pass : Bool} {s : State} (hS : State.Frame M r s) (hM : 0x200200003c80000100000000000000180000000000000 ||| M = M) :
    AnsFrame M r (execTestPc rid stack pc bank row pass s) := by
  unfold execTestPc
  try dsimp only
  repeat' first
    | (with_reducible first
        | assumption | exact ansFrame_fault | apply ansFrame_next | apply State.regWrite_frame | apply State.maint_frame
        | apply State.testPc_frame)
    | exact Mask.trans (by rfl) hM
    | split
    | with_reducible intro _

theorem execReturnPc_frame {rid : Nat} {stack : Nat} {pc : Nat} {bank : Nat} {row : Nat} {s : State} (hS : State.Frame M r s) (hM : 0x200200003c80000100000000000000180000000000000 ||| M = M) :
    AnsFrame M r (execReturnPc rid stack pc bank row s) := by
  unfold execReturnPc
  try dsimp only
  repeat' first
    | (with_reducible first
        | assumption | exact ansFrame_fault | apply ansFrame_next | apply State.regWrite_frame | apply State.maint_frame
        | apply State.returnPc_frame)
    | exact Mask.trans (by rfl) hM
    | split
    | with_reducible intro _

/-! ### Machine/Ras.lean -/

theorem State.logCorrected_frame {s : State} {code : Nat} {level : Nat} {whereW : Nat} {action : Nat} {slot : Option Nat} (hS : State.Frame M r s) (hM : 0x4000060d4000000030000000000000000000000000000 ||| M = M) :
    State.Frame M r (State.logCorrected s code level whereW action slot) := by
  unfold State.logCorrected
  try dsimp only
  repeat' first
    | (with_reducible first
        | assumption | apply State.logErr_frame)
    | exact Mask.trans (by rfl) hM
    | split
    | (fail_if_no_progress
        with_reducible refine State.Frame.rest ?_ ?hp
        case hp => intro p hp; cases p <;> first | exact Mask.clash hM hp rfl | with_reducible exact rfl)
    | with_reducible intro _

theorem State.logUnit_frame {s : State} {code : Nat} {sev : Nat} {level : Nat} {whereW : Nat} {action : Nat} {slot : Option Nat} {detail : Nat} (hS : State.Frame M r s) (hM : 0x60d4000000030000000000000000000000000000 ||| M = M) :
    State.Frame M r (State.logUnit s code sev level whereW action slot detail) := by
  unfold State.logUnit
  try dsimp only
  repeat' first
    | (with_reducible first
        | assumption | apply State.logErr_frame)
    | exact Mask.trans (by rfl) hM
    | split
    | with_reducible intro _

theorem State.dropSpare_frame {s : State} {p : Store → Bool} (hS : State.Frame M r s) (hM : 0x6000000000000000000000000000000c0000000000 ||| M = M) :
    State.Frame M r (State.dropSpare s p) := by
  unfold State.dropSpare
  try dsimp only
  repeat' first
    | (with_reducible first
        | assumption | apply State.dropStores_frame)
    | exact Mask.trans (by rfl) hM
    | split
    | with_reducible apply State.Frame.foldl
    | with_reducible apply State.Frame.foldl_fst
    | with_reducible intro _

theorem State.savePoint_frame {s : State} {c : Nat} (hS : State.Frame M r s) (hM : 0x400000000000000000000000000000000000000000 ||| M = M) :
    State.Frame M r (State.savePoint s c) := by
  unfold State.savePoint
  try dsimp only
  repeat' first
    | (with_reducible first
        | assumption | apply State.updChase_frame)
    | exact Mask.trans (by rfl) hM
    | split
    | with_reducible intro _

theorem State.dropStipple_frame {s : State} {c : Nat} (hS : State.Frame M r s) (hM : 0x8000000000000000000000000000000000000000000 ||| M = M) :
    State.Frame M r (State.dropStipple s c) := by
  unfold State.dropStipple
  try dsimp only
  repeat' first
    | (with_reducible first
        | assumption)
    | exact Mask.trans (by rfl) hM
    | split
    | (fail_if_no_progress
        with_reducible refine State.Frame.rest ?_ ?hp
        case hp => intro p hp; cases p <;> first | exact Mask.clash hM hp rfl | with_reducible exact rfl)
    | with_reducible intro _

theorem State.restorePoint_frame {s : State} {c : Nat} (hS : State.Frame M r s) (hM : 0x1b400000000a80000000000000000000000000000000 ||| M = M) :
    State.Frame M r (State.restorePoint s c) := by
  unfold State.restorePoint
  try dsimp only
  repeat' first
    | (with_reducible first
        | assumption | apply State.updChase_frame | apply State.dropStipple_frame | apply State.dropGroups_frame
        | apply State.dropPlateWaits_frame | apply State.returnLoan_frame)
    | exact Mask.trans (by rfl) hM
    | split
    | with_reducible intro _

theorem State.retryStroke_frame {s : State} {c : Nat} (hS : State.Frame M r s) (hM : 0x4bbfee2d4000a800300000100002604000c0000000108 ||| M = M) :
    State.Frame M r (State.retryStroke s c) := by
  unfold State.retryStroke
  try dsimp only
  repeat' first
    | (with_reducible first
        | assumption | apply State.bump_frame | apply State.updChase_frame | apply State.restorePoint_frame
        | apply State.logCorrected_frame | apply State.reachPlate_frame | apply State.setF_frame)
    | exact Mask.trans (by rfl) hM
    | split
    | with_reducible intro _

theorem State.retryOrFault_frame {s : State} {c : Nat} (hS : State.Frame M r s) (hM : 0x4bbfee2d4000a800300000100002604000c0000000108 ||| M = M) :
    State.Frame M r (State.retryOrFault s c) := by
  unfold State.retryOrFault
  try dsimp only
  repeat' first
    | (with_reducible first
        | assumption | apply State.retryStroke_frame | apply State.faultChase_frame | apply State.logUnit_frame)
    | exact Mask.trans (by rfl) hM
    | split
    | with_reducible intro _

theorem State.hardPoison_frame {s : State} {c : Nat} (hS : State.Frame M r s) (hM : 0x4bbfee2d4000a800300000100002604000c0000000108 ||| M = M) :
    State.Frame M r (State.hardPoison s c) := by
  unfold State.hardPoison
  try dsimp only
  repeat' first
    | (with_reducible first
        | assumption | apply State.retryOrFault_frame | apply State.updChase_frame)
    | exact Mask.trans (by rfl) hM
    | split
    | with_reducible intro _

theorem State.abandonStroke_frame {s : State} {c : Nat} (hS : State.Frame M r s) (hM : 0xb360c000000a80000000010000000000000000000108 ||| M = M) :
    State.Frame M r (State.abandonStroke s c) := by
  unfold State.abandonStroke
  try dsimp only
  repeat' first
    | (with_reducible first
        | assumption | apply State.endWork_frame | apply State.updChase_frame | apply State.dropGroups_frame
        | apply State.dropPlateWaits_frame | apply State.returnLoan_frame)
    | exact Mask.trans (by rfl) hM
    | split
    | with_reducible intro _

theorem State.loseRegion_frame {s : State} {k : Nat} (hS : State.Frame M r s) (hM : 0xb3fee2dc0008800300000100000004000c000000010e ||| M = M) :
    State.Frame M r (State.loseRegion s k) := by
  unfold State.loseRegion
  try dsimp only
  repeat' first
    | (with_reducible first
        | assumption | exact fieldsMask_nil | apply fieldsMask_cons | apply State.setFs_frame | apply State.setF_frame
        | apply State.logUnit_frame | apply State.loseHolder_frame)
    | exact Mask.trans (by rfl) hM
    | exact Mask.trans (a := RegName.mask .sysRegionMap) (by rfl) hM
    | split
    | with_reducible intro _

theorem State.noteFail_frame {s : State} {u : PhysUnit} {slot : Option Nat} (hS : State.Frame M r s) (hM : 0x4000060d4000000030000000000000000000000000000 ||| M = M) :
    State.Frame M r (State.noteFail s u slot) := by
  unfold State.noteFail
  try dsimp only
  repeat' first
    | (with_reducible first
        | assumption | apply State.bump_frame | apply State.logUnit_frame)
    | exact Mask.trans (by rfl) hM
    | split
    | (fail_if_no_progress
        with_reducible refine State.Frame.rest ?_ ?hp
        case hp => intro p hp; cases p <;> first | exact Mask.clash hM hp rfl | with_reducible exact rfl)
    | with_reducible intro _

theorem State.spareIn_frame {s : State} {level : Nat} {p : Nat} {b : Nat} {c : Nat} {slot : Option Nat} (hS : State.Frame M r s) (hM : 0x60dc000000030000000000000000000000000000 ||| M = M) :
    State.Frame M r (State.spareIn s level p b c slot) := by
  unfold State.spareIn
  try dsimp only
  repeat' first
    | (with_reducible first
        | assumption | apply State.logUnit_frame | apply State.bump_frame)
    | exact Mask.trans (by rfl) hM
    | split
    | with_reducible intro _

theorem State.prepare_frame {s : State} {q : Subst} (hS : State.Frame M r s) (hM : 0x4b360c000000a800000000100000000000c0000000108 ||| M = M) :
    State.Frame M r (State.prepare s q) := by
  unfold State.prepare
  try dsimp only
  repeat' first
    | (with_reducible first
        | assumption | apply State.dropSpare_frame | apply State.abandonStroke_frame)
    | exact Mask.trans (by rfl) hM
    | split
    | (fail_if_no_progress
        with_reducible refine State.Frame.rest ?_ ?hp
        case hp => intro p hp; cases p <;> first | exact Mask.clash hM hp rfl | with_reducible exact rfl)
    | with_reducible intro _

theorem State.failRegion_frame {s : State} {p : Nat} {slot : Option Nat} (hS : State.Frame M r s) (hM : 0x4b3fee2dc000a800300000100000004000c000000010e ||| M = M) :
    State.Frame M r (State.failRegion s p slot) := by
  unfold State.failRegion
  try dsimp only
  repeat' first
    | (with_reducible first
        | assumption | apply State.noteFail_frame | apply State.prepare_frame | apply State.loseRegion_frame)
    | exact Mask.trans (by rfl) hM
    | split
    | with_reducible intro _

theorem State.failBlock_frame {s : State} {p : Nat} {b : Nat} {slot : Option Nat} (hS : State.Frame M r s) (hM : 0x4b3fee2dc000a800300000100000004000c000000010e ||| M = M) :
    State.Frame M r (State.failBlock s p b slot) := by
  unfold State.failBlock
  try dsimp only
  repeat' first
    | (with_reducible first
        | assumption | apply State.noteFail_frame | apply State.prepare_frame | apply State.failRegion_frame)
    | exact Mask.trans (by rfl) hM
    | split
    | with_reducible intro _

theorem State.failCell_frame {s : State} {p : Nat} {b : Nat} {c : Nat} {slot : Option Nat} (hS : State.Frame M r s) (hM : 0x4b3fee2dc000a800300000100000004000c000000010e ||| M = M) :
    State.Frame M r (State.failCell s p b c slot) := by
  unfold State.failCell
  try dsimp only
  repeat' first
    | (with_reducible first
        | assumption | apply State.noteFail_frame | apply State.prepare_frame | apply State.failBlock_frame)
    | exact Mask.trans (by rfl) hM
    | split
    | with_reducible intro _

theorem State.failCol_frame {s : State} {p : Nat} {b : Nat} {c : Nat} {col : Nat} {slot : Option Nat} (hS : State.Frame M r s) (hM : 0x4b3fee2dc000a800300000100000004000c000000010e ||| M = M) :
    State.Frame M r (State.failCol s p b c col slot).1 := by
  unfold State.failCol
  try dsimp only
  repeat' first
    | (with_reducible first
        | assumption | apply State.noteFail_frame | apply State.spareIn_frame | apply State.failCell_frame)
    | exact Mask.trans (by rfl) hM
    | split
    | (fail_if_no_progress
        with_reducible refine State.Frame.rest ?_ ?hp
        case hp => intro p hp; cases p <;> first | exact Mask.clash hM hp rfl | with_reducible exact rfl)
    | with_reducible intro _

theorem State.failCol_frame_eq {s : State} {p : Nat} {b : Nat} {c : Nat} {col : Nat} {slot : Option Nat} (hS : State.Frame M r s) (hM : 0x4b3fee2dc000a800300000100000004000c000000010e ||| M = M) {u : State} {z : Bool} (he : State.failCol s p b c col slot = (u, z)) :
    State.Frame M r u := by
  have := State.failCol_frame hS hM (s := s) (p := p) (b := b) (c := c) (col := col) (slot := slot)
  rwa [he] at this

theorem State.failUnit_frame {s : State} {u : PhysUnit} {slot : Option Nat} (hS : State.Frame M r s) (hM : 0x4b3fee2dc000a800300000100000004000c000000010e ||| M = M) :
    State.Frame M r (State.failUnit s u slot) := by
  unfold State.failUnit
  try dsimp only
  repeat' first
    | (with_reducible first
        | assumption | apply State.failCol_frame | (refine State.failCol_frame_eq (he := by assumption) ?_ ?_)
        | apply State.failCell_frame | apply State.failBlock_frame | apply State.failRegion_frame)
    | exact Mask.trans (by rfl) hM
    | split
    | with_reducible intro _

theorem State.evacuateFrame_frame {s : State} {c : Nat} {f : Nat} {e : FrameEnt} (hS : State.Frame M r s) (hM : 0x5ec000000000000000000000000400000000000000 ||| M = M) :
    State.Frame M r (State.evacuateFrame s c f e) := by
  unfold State.evacuateFrame
  try dsimp only
  repeat' first
    | (with_reducible first
        | assumption | apply State.updFrame_frame | apply State.dropChip_frame | apply State.demote_frame)
    | exact Mask.trans (by rfl) hM
    | split
    | (fail_if_no_progress
        with_reducible refine State.Frame.rest ?_ ?hp
        case hp => intro p hp; cases p <;> first | exact Mask.clash hM hp rfl | with_reducible exact rfl)
    | with_reducible intro _

theorem State.evacuate_frame {s : State} {q : Subst} (hS : State.Frame M r s) (hM : 0x7ec0000000000000000000000004000c0000000000 ||| M = M) :
    State.Frame M r (State.evacuate s q) := by
  unfold State.evacuate
  try dsimp only
  repeat' first
    | (with_reducible first
        | assumption | apply State.evacuateFrame_frame | apply State.dropStores_frame)
    | exact Mask.trans (by rfl) hM
    | split
    | with_reducible apply State.Frame.foldl
    | with_reducible apply State.Frame.foldl_fst
    | with_reducible intro _

theorem State.carryWays_frame {s : State} {k : Nat} {p : Nat} {q : Nat} (hS : State.Frame M r s) (hM : 0x100000000000000000000000000200000000000000 ||| M = M) :
    State.Frame M r (State.carryWays s k p q) := by
  unfold State.carryWays
  try dsimp only
  repeat' first
    | (with_reducible first
        | assumption | apply State.wr_frame)
    | exact Mask.trans (by rfl) hM
    | split
    | (fail_if_no_progress
        with_reducible refine State.Frame.rest ?_ ?hp
        case hp => intro p hp; cases p <;> first | exact Mask.clash hM hp rfl | with_reducible exact rfl)
    | with_reducible intro _

theorem State.commitSubst_frame {s : State} {q : Subst} (hS : State.Frame M r s) (hM : 0x4007ee0dc0000000300000000000006000c0000000004 ||| M = M) :
    State.Frame M r (State.commitSubst s q) := by
  unfold State.commitSubst
  try dsimp only
  repeat' first
    | (with_reducible first
        | assumption | apply State.evacuate_frame | apply State.spareIn_frame | apply State.carryWays_frame | apply State.setF_frame)
    | exact Mask.trans (by rfl) hM
    | exact Mask.trans (a := RegName.mask .sysRegionMap) (by rfl) hM
    | split
    | (fail_if_no_progress
        with_reducible refine State.Frame.rest ?_ ?hp
        case hp => intro p hp; cases p <;> first | exact Mask.clash hM hp rfl | with_reducible exact rfl)
    | with_reducible intro _

theorem State.commitSubsts_frame {s : State} {ps : List Nat} (hS : State.Frame M r s) (hM : 0x4007ee0dc0000000300000000000006000c0000000004 ||| M = M) :
    State.Frame M r (State.commitSubsts s ps) := by
  unfold State.commitSubsts
  try dsimp only
  repeat' first
    | (with_reducible first
        | assumption | apply State.commitSubst_frame)
    | exact Mask.trans (by rfl) hM
    | split
    | with_reducible apply State.Frame.foldl
    | with_reducible apply State.Frame.foldl_fst
    | with_reducible intro _

theorem State.fatal_frame {s : State} {code : Nat} {whereW : Nat} (hS : State.Frame M r s) (hM : 0xb3fee2d40008800300000100000004000c0000000108 ||| M = M) :
    State.Frame M r (State.fatal s code whereW) := by
  unfold State.fatal
  try dsimp only
  repeat' first
    | (with_reducible first
        | assumption | apply State.logErr_frame | apply State.setF_frame | apply State.faultChase_frame)
    | exact Mask.trans (by rfl) hM
    | split
    | with_reducible apply State.Frame.foldl
    | with_reducible apply State.Frame.foldl_fst
    | with_reducible intro _

theorem State.restartGroups_frame {s : State} {cell : CellId} (hS : State.Frame M r s) (hM : 0x4bbfee2d4000a800300000100002604000c0000000108 ||| M = M) :
    State.Frame M r (State.restartGroups s cell) := by
  unfold State.restartGroups
  try dsimp only
  repeat' first
    | (with_reducible first
        | assumption | apply State.hardPoison_frame)
    | exact Mask.trans (by rfl) hM
    | split
    | with_reducible apply State.Frame.foldl
    | with_reducible apply State.Frame.foldl_fst
    | (fail_if_no_progress
        with_reducible refine State.Frame.rest ?_ ?hp
        case hp => intro p hp; cases p <;> first | exact Mask.clash hM hp rfl | with_reducible exact rfl)
    | with_reducible intro _

theorem State.columnFails_frame {s : State} {cell : CellId} {col : Nat} {slot : Nat} (hS : State.Frame M r s) (hM : 0x4bbfee2dc000a800300000100002604000c000000010e ||| M = M) :
    State.Frame M r (State.columnFails s cell col slot) := by
  unfold State.columnFails
  try dsimp only
  repeat' first
    | (with_reducible first
        | assumption | apply State.logUnit_frame | apply State.restartGroups_frame | apply State.failCol_frame
        | (refine State.failCol_frame_eq (he := by assumption) ?_ ?_))
    | exact Mask.trans (by rfl) hM
    | split
    | with_reducible intro _

theorem State.transient_frame {s : State} {cell : CellId} {col : Nat} {slot : Nat} (hS : State.Frame M r s) (hM : 0x4bbfee2dc000a800300000100002604000c000000010e ||| M = M) :
    State.Frame M r (State.transient s cell col slot) := by
  unfold State.transient
  try dsimp only
  repeat' first
    | (with_reducible first
        | assumption | apply State.logCorrected_frame | apply State.bump_frame | apply State.columnFails_frame)
    | exact Mask.trans (by rfl) hM
    | split
    | (fail_if_no_progress
        with_reducible refine State.Frame.rest ?_ ?hp
        case hp => intro p hp; cases p <;> first | exact Mask.clash hM hp rfl | with_reducible exact rfl)
    | with_reducible intro _

theorem State.seqFault_frame {s : State} {c : Nat} {k : Nat} (hS : State.Frame M r s) (hM : 0x4bbfee2dc000a800300000100002604000c000000010e ||| M = M) :
    State.Frame M r (State.seqFault s c k) := by
  unfold State.seqFault
  try dsimp only
  repeat' first
    | (with_reducible first
        | assumption | apply State.failRegion_frame | apply State.logCorrected_frame | apply State.retryStroke_frame
        | apply State.faultChase_frame | apply State.logUnit_frame)
    | exact Mask.trans (by rfl) hM
    | split
    | (fail_if_no_progress
        with_reducible refine State.Frame.rest ?_ ?hp
        case hp => intro p hp; cases p <;> first | exact Mask.clash hM hp rfl | with_reducible exact rfl)
    | with_reducible intro _

theorem State.hwEvent_frame {s : State} {slot : Nat} {x0 : HwEvent} (hS : State.Frame M r s) (hM : 0x4bbfee2dc000a8003000001000027043e0c000008010e ||| M = M) :
    State.Frame M r (State.hwEvent s slot x0) := by
  unfold State.hwEvent
  try dsimp only
  repeat' first
    | (with_reducible first
        | assumption | apply State.bump_frame | apply State.logCorrected_frame | apply State.logUnit_frame | apply State.updFrame_frame
        | apply State.chasePoisonRun_frame | apply State.restartGroups_frame | apply State.failUnit_frame | apply State.hardPoison_frame
        | apply State.fatal_frame | apply State.updChase_frame | apply State.columnFails_frame | apply State.transient_frame
        | apply State.seqFault_frame | apply State.hbmXfer_frame)
    | exact Mask.trans (by rfl) hM
    | split
    | (fail_if_no_progress
        with_reducible refine State.Frame.rest ?_ ?hp
        case hp => intro p hp; cases p <;> first | exact Mask.clash hM hp rfl | with_reducible exact rfl)
    | with_reducible intro _

theorem State.hwEvents_frame {s : State} {slot : Nat} {l : List HwEvent} (hS : State.Frame M r s) (hM : 0x4bbfee2dc000a8003000001000027043e0c000008010e ||| M = M) :
    State.Frame M r (State.hwEvents s slot l) := by
  unfold State.hwEvents
  try dsimp only
  repeat' first
    | (with_reducible first
        | assumption | apply State.hwEvent_frame)
    | exact Mask.trans (by rfl) hM
    | split
    | with_reducible apply State.Frame.foldl
    | with_reducible apply State.Frame.foldl_fst
    | with_reducible intro _

theorem execSeqWatchdog_frame {slot : Nat} {region : Nat} {s : State} (hS : State.Frame M r s) (hM : 0x4bbfee2dc000a800300000100002604000c000000010e ||| M = M) :
    AnsFrame M r (execSeqWatchdog slot region s) := by
  unfold execSeqWatchdog
  try dsimp only
  repeat' first
    | (with_reducible first
        | assumption | exact ansFrame_fault | apply ansFrame_next | apply State.ifB_frame | apply State.seqFault_frame)
    | exact Mask.trans (by rfl) hM
    | split
    | with_reducible intro _

theorem execCoreRestart_frame {core : Nat} {s : State} (hS : State.Frame M r s) (hM : 0x40000e0d4000000030000000000000000000000000000 ||| M = M) :
    AnsFrame M r (execCoreRestart core s) := by
  unfold execCoreRestart
  try dsimp only
  repeat' first
    | (with_reducible first
        | assumption | exact ansFrame_fault | apply ansFrame_next | apply State.ifB_frame | apply State.logCorrected_frame)
    | exact Mask.trans (by rfl) hM
    | split
    | (fail_if_no_progress
        with_reducible refine State.Frame.rest ?_ ?hp
        case hp => intro p hp; cases p <;> first | exact Mask.clash hM hp rfl | with_reducible exact rfl)
    | with_reducible intro _

theorem State.spareBad_frame {s : State} {e : Nat × Nat × Nat × Nat} (hS : State.Frame M r s) (hM : 0x4006060dc0000000300000000000000000c0000000000 ||| M = M) :
    State.Frame M r (State.spareBad s e) := by
  unfold State.spareBad
  try dsimp only
  repeat' first
    | (with_reducible first
        | assumption | apply State.logUnit_frame | apply State.bump_frame | apply State.dropSpare_frame)
    | exact Mask.trans (by rfl) hM
    | split
    | (fail_if_no_progress
        with_reducible refine State.Frame.rest ?_ ?hp
        case hp => intro p hp; cases p <;> first | exact Mask.clash hM hp rfl | with_reducible exact rfl)
    | with_reducible intro _

theorem execSpareTest_frame {failing : List (Nat × Nat × Nat × Nat)} {s : State} (hS : State.Frame M r s) (hM : 0x4006060dc0000000300000000000000000c0000000000 ||| M = M) :
    AnsFrame M r (execSpareTest failing s) := by
  unfold execSpareTest
  try dsimp only
  repeat' first
    | (with_reducible first
        | assumption | exact ansFrame_fault | apply ansFrame_next | apply State.ifB_frame | apply State.spareBad_frame)
    | exact Mask.trans (by rfl) hM
    | split
    | with_reducible apply State.Frame.foldl
    | with_reducible apply State.Frame.foldl_fst
    | with_reducible intro _

theorem execIdleRegionSubstitution_frame {p : Nat} {s : State} (hS : State.Frame M r s) (hM : 0x4007ee0dc0000000300000000000006000c0000000004 ||| M = M) :
    AnsFrame M r (execIdleRegionSubstitution p s) := by
  unfold execIdleRegionSubstitution
  try dsimp only
  repeat' first
    | (with_reducible first
        | assumption | exact ansFrame_fault | apply ansFrame_next | apply State.ifB_frame | apply State.commitSubsts_frame)
    | exact Mask.trans (by rfl) hM
    | split
    | with_reducible intro _

end Sys2Proof.Machine
end

