-- ==== Sys2Proof/Laws/FrameMemory.lean ====
section
/-! SUPPORT. The frame of each operation of tickets, galleys, the colophon, HBM, the imposition and the caches: its mask, and that it changes nothing outside it. -/

set_option Elab.async false

namespace Sys2Proof.Machine

set_option linter.unusedTactic false
set_option linter.unreachableTactic false

variable {M : Nat} {r : State}

/-! ### Machine/Ticket.lean -/

theorem State.blockedAccess_frame {s : State} {page : Nat} (hS : State.Frame M r s) (hM : 0x60000000000b0000000000000000000000000000 ||| M = M) :
    State.Frame M r (State.blockedAccess s page) := by
  unfold State.blockedAccess
  try dsimp only
  repeat' first
    | (with_reducible first
        | assumption | apply State.eventDma_frame | apply State.setF_frame | apply State.bump_frame)
    | exact Mask.trans (by rfl) hM
    | split
    | with_reducible intro _

theorem State.noteHostLines_frame {s : State} {a : Nat} {n : Nat} (hS : State.Frame M r s) (hM : 0x8000000000000000000000000000000000000000 ||| M = M) :
    State.Frame M r (State.noteHostLines s a n) := by
  unfold State.noteHostLines
  try dsimp only
  repeat' first
    | (with_reducible first
        | assumption)
    | exact Mask.trans (by rfl) hM
    | split
    | with_reducible apply State.Frame.foldl
    | with_reducible apply State.Frame.foldl_fst
    | (fail_if_no_progress
        with_reducible refine State.Frame.rest ?_ ?hp
        case hp => intro p hp; cases p <;> first | exact Mask.clash hM hp rfl | with_reducible exact rfl)
    | with_reducible intro _

theorem State.hostGet_frame {s : State} {a : Nat} {n : Nat} (hS : State.Frame M r s) (hM : 0xe0000000000b0000000000000000000000000000 ||| M = M) :
    State.Frame M r (State.hostGet s a n).1 := by
  unfold State.hostGet
  try dsimp only
  repeat' first
    | (with_reducible first
        | assumption | apply State.blockedAccess_frame | apply State.noteHostLines_frame)
    | exact Mask.trans (by rfl) hM
    | split
    | with_reducible intro _

theorem State.hostGet_frame_eq {s : State} {a : Nat} {n : Nat} (hS : State.Frame M r s) (hM : 0xe0000000000b0000000000000000000000000000 ||| M = M) {u : State} {z : Option Bytes} (he : State.hostGet s a n = (u, z)) :
    State.Frame M r u := by
  have := State.hostGet_frame hS hM (s := s) (a := a) (n := n)
  rwa [he] at this

theorem State.hostPutPieces_frame {x0 : State} {x1 : List (Nat × Bytes)} (hSx0 : State.Frame M r x0) (hM : 0x160000000000b0000000000000000000000000000 ||| M = M) :
    State.Frame M r (State.hostPutPieces x0 x1).1 := by
  induction x1 generalizing x0 with
  | nil => exact hSx0
  | cons a l ih =>
  simp only [State.hostPutPieces]
  repeat' first
    | (with_reducible first
        | assumption | apply ih | apply State.blockedAccess_frame)
    | exact Mask.trans (by rfl) hM
    | split
    | (fail_if_no_progress
        with_reducible refine State.Frame.rest ?_ ?hp
        case hp => intro p hp; cases p <;> first | exact Mask.clash hM hp rfl | with_reducible exact rfl)
    | with_reducible intro _

theorem State.hostPutPieces_frame_eq {x0 : State} {x1 : List (Nat × Bytes)} (hSx0 : State.Frame M r x0) (hM : 0x160000000000b0000000000000000000000000000 ||| M = M) {u : State} {z : Bool} (he : State.hostPutPieces x0 x1 = (u, z)) :
    State.Frame M r u := by
  have := State.hostPutPieces_frame hSx0 hM (x0 := x0) (x1 := x1)
  rwa [he] at this

theorem State.hostPut_frame {s : State} {a : Nat} {bs : Bytes} (hS : State.Frame M r s) (hM : 0x160000000000b0000000000000000000000000000 ||| M = M) :
    State.Frame M r (State.hostPut s a bs).1 := by
  unfold State.hostPut
  try dsimp only
  repeat' first
    | (with_reducible first
        | assumption | apply State.hostPutPieces_frame | (refine State.hostPutPieces_frame_eq (he := by assumption) ?_ ?_))
    | exact Mask.trans (by rfl) hM
    | split
    | with_reducible intro _

theorem State.hostPut_frame_eq {s : State} {a : Nat} {bs : Bytes} (hS : State.Frame M r s) (hM : 0x160000000000b0000000000000000000000000000 ||| M = M) {u : State} {z : Bool} (he : State.hostPut s a bs = (u, z)) :
    State.Frame M r u := by
  have := State.hostPut_frame hS hM (s := s) (a := a) (bs := bs)
  rwa [he] at this

theorem State.hostStores_frame {s : State} {l : List (Nat × Byte)} (hS : State.Frame M r s) (hM : 0x10000000000000000000000000000000000000000 ||| M = M) :
    State.Frame M r (State.hostStores s l) := by
  unfold State.hostStores
  try dsimp only
  repeat' first
    | (with_reducible first
        | assumption)
    | exact Mask.trans (by rfl) hM
    | split
    | with_reducible apply State.Frame.foldl
    | with_reducible apply State.Frame.foldl_fst
    | (fail_if_no_progress
        with_reducible refine State.Frame.rest ?_ ?hp
        case hp => intro p hp; cases p <;> first | exact Mask.clash hM hp rfl | with_reducible exact rfl)
    | with_reducible intro _

theorem State.ticketAct_frame {s : State} {ring : Nat} {seq : Nat} {op : Nat} {f : Ticket → State → State} (hS : State.Frame M r s) (hSf : ∀ (y0 : Ticket) (y1 : State), State.Frame M r y1 → State.Frame M r (f y0 y1)) (hM : 0x8000000000000000000000000000000000000000 ||| M = M) :
    State.Frame M r (State.ticketAct s ring seq op f) := by
  unfold State.ticketAct
  try dsimp only
  repeat' first
    | (with_reducible first
        | assumption | apply hSf | apply State.finishTicket_frame | apply State.updTicket_frame)
    | exact Mask.trans (by rfl) hM
    | split
    | with_reducible intro _

theorem State.done_frame {s : State} {t : Ticket} {status : Nat} {detail : Bytes} (hS : State.Frame M r s) (hM : 0x8000000000000000000000000000000000000000 ||| M = M) :
    State.Frame M r (State.done s t status detail) := by
  unfold State.done
  try dsimp only
  repeat' first
    | (with_reducible first
        | assumption | apply State.finishTicket_frame)
    | exact Mask.trans (by rfl) hM
    | split
    | with_reducible intro _

theorem State.srcRead_frame {s : State} {t : Ticket} {space : Nat} {a : Nat} {n : Nat} (hS : State.Frame M r s) (hM : 0x50e0000000000b0000000000004000000000000000 ||| M = M) :
    State.Frame M r (State.srcRead s t space a n).1 := by
  unfold State.srcRead
  try dsimp only
  repeat' first
    | (with_reducible first
        | assumption | apply State.hostGet_frame | (refine State.hostGet_frame_eq (he := by assumption) ?_ ?_) | apply State.noteDma_frame
        | apply State.cacheHa_frame)
    | exact Mask.trans (by rfl) hM
    | split
    | with_reducible intro _

theorem State.srcRead_frame_eq {s : State} {t : Ticket} {space : Nat} {a : Nat} {n : Nat} (hS : State.Frame M r s) (hM : 0x50e0000000000b0000000000004000000000000000 ||| M = M) {u : State} {z : Option (Bytes × List (Nat × Nat))} (he : State.srcRead s t space a n = (u, z)) :
    State.Frame M r u := by
  have := State.srcRead_frame hS hM (s := s) (t := t) (space := space) (a := a) (n := n)
  rwa [he] at this

theorem State.withSource_frame {s : State} {t : Ticket} {n : Nat} {f : State → Bytes → List (Nat × Nat) → State} (hS : State.Frame M r s) (hSf : ∀ (y0 : State) (y1 : Bytes) (y2 : List (Nat × Nat)), State.Frame M r y0 → State.Frame M r (f y0 y1 y2)) (hM : 0x50e0000000000b0000000000004000000000000000 ||| M = M) :
    State.Frame M r (State.withSource s t n f) := by
  unfold State.withSource
  try dsimp only
  repeat' first
    | (with_reducible first
        | assumption | apply hSf | apply State.srcRead_frame | (refine State.srcRead_frame_eq (he := by assumption) ?_ ?_)
        | apply State.done_frame)
    | exact Mask.trans (by rfl) hM
    | split
    | with_reducible intro _

theorem State.ticketWrite_frame {s : State} {c : Nat} {x0 : List (Nat × Bytes)} (hS : State.Frame M r s) (hM : 0x7ec2000000000000000000000004001c0000000000 ||| M = M) :
    State.Frame M r (State.ticketWrite s c x0).1 := by
  induction x0 generalizing s with
  | nil => exact hS
  | cons a l ih =>
  simp only [State.ticketWrite]
  repeat' first
    | (with_reducible first
        | assumption | apply ih | apply State.chaseWrite_frame | (refine State.chaseWrite_frame_eq (he := by assumption) ?_ ?_)
        | apply State.bump_frame)
    | exact Mask.trans (by rfl) hM
    | split
    | with_reducible intro _

theorem State.ticketWrite_frame_eq {s : State} {c : Nat} {x0 : List (Nat × Bytes)} (hS : State.Frame M r s) (hM : 0x7ec2000000000000000000000004001c0000000000 ||| M = M) {u : State} {z : Bool} (he : State.ticketWrite s c x0 = (u, z)) :
    State.Frame M r u := by
  have := State.ticketWrite_frame hS hM (s := s) (c := c) (x0 := x0)
  rwa [he] at this

theorem State.deliver_frame {s : State} {t : Ticket} {dst : Nat} {bs : Bytes} {bad : List (Nat × Nat)} (hS : State.Frame M r s) (hM : 0x1fe0000000000b0000000000000400000000000000 ||| M = M) :
    State.Frame M r (State.deliver s t dst bs bad).1 := by
  unfold State.deliver
  try dsimp only
  repeat' first
    | (with_reducible first
        | assumption | apply State.updTicket_frame | apply State.hostPut_frame
        | (refine State.hostPut_frame_eq (he := by assumption) ?_ ?_) | apply State.devPoison_frame | apply State.devWrite_frame)
    | exact Mask.trans (by rfl) hM
    | split
    | with_reducible apply State.Frame.foldl
    | with_reducible apply State.Frame.foldl_fst
    | with_reducible intro _

theorem State.deliver_frame_eq {s : State} {t : Ticket} {dst : Nat} {bs : Bytes} {bad : List (Nat × Nat)} (hS : State.Frame M r s) (hM : 0x1fe0000000000b0000000000000400000000000000 ||| M = M) {u : State} {z : Bool} (he : State.deliver s t dst bs bad = (u, z)) :
    State.Frame M r u := by
  have := State.deliver_frame hS hM (s := s) (t := t) (dst := dst) (bs := bs) (bad := bad)
  rwa [he] at this

theorem State.drainResult_frame {s : State} {t : Ticket} (hS : State.Frame M r s) (hM : 0xe0000000000000000000000000000000000000000 ||| M = M) :
    State.Frame M r (State.drainResult s t) := by
  unfold State.drainResult
  try dsimp only
  repeat' first
    | (with_reducible first
        | assumption | apply State.mbToDram_frame)
    | exact Mask.trans (by rfl) hM
    | split
    | with_reducible apply State.Frame.foldl
    | with_reducible apply State.Frame.foldl_fst
    | with_reducible intro _

theorem execNop_frame {ring : Nat} {seq : Nat} {s : State} (hS : State.Frame M r s) (hM : 0x8000000000000000000000000000000000000000 ||| M = M) :
    AnsFrame M r (execNop ring seq s) := by
  unfold execNop
  try dsimp only
  repeat' first
    | (with_reducible first
        | assumption | exact ansFrame_fault | apply ansFrame_next | apply State.ticketAct_frame | apply State.done_frame)
    | exact Mask.trans (by rfl) hM
    | split
    | with_reducible intro _

/-! ### Machine/Galley.lean -/

theorem State.noteSwitch_frame {s : State} {c : Nat} {ordinal : Nat} {id : Nat} {num : Nat} (hS : State.Frame M r s) (hM : 0x400000000000000000000000000000000000000000 ||| M = M) :
    State.Frame M r (State.noteSwitch s c ordinal id num) := by
  unfold State.noteSwitch
  try dsimp only
  repeat' first
    | (with_reducible first
        | assumption | apply State.updChase_frame)
    | exact Mask.trans (by rfl) hM
    | split
    | with_reducible intro _

theorem State.tellRoot_frame {s : State} {c : Nat} {id : Nat} {num : Nat} (hS : State.Frame M r s) (hM : 0x20404000000000000000010000000000000000000000 ||| M = M) :
    State.Frame M r (State.tellRoot s c id num) := by
  unfold State.tellRoot
  try dsimp only
  repeat' first
    | (with_reducible first
        | assumption | apply State.noteSwitch_frame | apply State.sendCtl_frame)
    | exact Mask.trans (by rfl) hM
    | split
    | with_reducible intro _

theorem State.offerSwitch_frame {s : State} {c : Nat} {id : Nat} (hS : State.Frame M r s) (hM : 0x20404000000000000000010000000000000000000000 ||| M = M) :
    State.Frame M r (State.offerSwitch s c id) := by
  unfold State.offerSwitch
  try dsimp only
  repeat' first
    | (with_reducible first
        | assumption | apply State.tellRoot_frame)
    | exact Mask.trans (by rfl) hM
    | split
    | with_reducible intro _

theorem State.commitIdle_frame {s : State} {c : Nat} {id : Nat} (hS : State.Frame M r s) (hM : 0x6e00000000000000000000000000000c0000000000 ||| M = M) :
    State.Frame M r (State.commitIdle s c id) := by
  unfold State.commitIdle
  try dsimp only
  repeat' first
    | (with_reducible first
        | assumption | apply State.freeDraining_frame | apply State.commitSwitch_frame)
    | exact Mask.trans (by rfl) hM
    | split
    | with_reducible intro _

theorem State.requestSwitch_frame {s : State} {c : Nat} {id : Nat} (hS : State.Frame M r s) (hM : 0x206e40000000000000000100000000000c0000000000 ||| M = M) :
    State.Frame M r (State.requestSwitch s c id) := by
  unfold State.requestSwitch
  try dsimp only
  repeat' first
    | (with_reducible first
        | assumption | apply State.setGalley_frame | apply State.offerSwitch_frame | apply State.commitIdle_frame)
    | exact Mask.trans (by rfl) hM
    | split
    | with_reducible intro _

theorem State.abortGalley_frame {s : State} {c : Nat} {id : Nat} (hS : State.Frame M r s) (hM : 0x20604000000000000000010000000000000000000000 ||| M = M) :
    State.Frame M r (State.abortGalley s c id) := by
  unfold State.abortGalley
  try dsimp only
  repeat' first
    | (with_reducible first
        | assumption | apply State.updGalley_frame | apply State.dropIncoming_frame | apply State.tellRoot_frame)
    | exact Mask.trans (by rfl) hM
    | split
    | with_reducible intro _

theorem State.readsEnded_frame {s : State} {t : Ticket} (hS : State.Frame M r s) (hM : 0x600000000000000000000000000000000000000000 ||| M = M) :
    State.Frame M r (State.readsEnded s t) := by
  unfold State.readsEnded
  try dsimp only
  repeat' first
    | (with_reducible first
        | assumption | apply State.freeDraining_frame)
    | exact Mask.trans (by rfl) hM
    | split
    | with_reducible intro _

theorem State.loadDone_frame {s : State} {t : Ticket} {status : Nat} {count : Nat} {ranges : Nat} (hS : State.Frame M r s) (hM : 0x8000000000000000000000000000000000000000 ||| M = M) :
    State.Frame M r (State.loadDone s t status count ranges) := by
  unfold State.loadDone
  try dsimp only
  repeat' first
    | (with_reducible first
        | assumption | apply State.done_frame)
    | exact Mask.trans (by rfl) hM
    | split
    | with_reducible intro _

theorem State.loadMaster_frame {s : State} {c : Nat} {id : Nat} {k : Nat} {v : Slug} (hS : State.Frame M r s) (hM : 0x7ec2000000000000000000000044000c0000000000 ||| M = M) :
    State.Frame M r (State.loadMaster s c id k v) := by
  unfold State.loadMaster
  try dsimp only
  repeat' first
    | (with_reducible first
        | assumption | apply State.updGalley_frame | apply State.masterSet_frame)
    | exact Mask.trans (by rfl) hM
    | split
    | with_reducible apply State.Frame.foldl
    | with_reducible apply State.Frame.foldl_fst
    | with_reducible intro _

theorem State.loadRows_frame {s : State} {c : Nat} {id : Nat} {first : Nat} {master : Bool} {rows : Bytes} {exps : Bytes} {badR : List (Nat × Nat)} {badE : List (Nat × Nat)} {x0 : List Nat} {x1 : LoadRun} (hS : State.Frame M r s) (hM : 0x7ec2000000000000000000000044000c0000000000 ||| M = M) :
    State.Frame M r (State.loadRows s c id first master rows exps badR badE x0 x1).1 := by
  induction x0 generalizing s x1 with
  | nil => exact hS
  | cons a l ih =>
  simp only [State.loadRows]
  repeat' first
    | (with_reducible first
        | assumption | apply ih | apply State.putRow_frame | (refine State.putRow_frame_eq (he := by assumption) ?_ ?_)
        | apply State.loadMaster_frame)
    | exact Mask.trans (by rfl) hM
    | split
    | with_reducible intro _

theorem State.loadRows_frame_eq {s : State} {c : Nat} {id : Nat} {first : Nat} {master : Bool} {rows : Bytes} {exps : Bytes} {badR : List (Nat × Nat)} {badE : List (Nat × Nat)} {x0 : List Nat} {x1 : LoadRun} (hS : State.Frame M r s) (hM : 0x7ec2000000000000000000000044000c0000000000 ||| M = M) {u : State} {z : LoadRun} (he : State.loadRows s c id first master rows exps badR badE x0 x1 = (u, z)) :
    State.Frame M r u := by
  have := State.loadRows_frame hS hM (s := s) (c := c) (id := id) (first := first) (master := master) (rows := rows) (exps := exps) (badR := badR) (badE := badE) (x0 := x0) (x1 := x1)
  rwa [he] at this

theorem State.endLoad_frame {s : State} {t : Ticket} {b : Bytes} {a : LoadRun} (hS : State.Frame M r s) (hM : 0x408000000000000000000000000000000000000000 ||| M = M) :
    State.Frame M r (State.endLoad s t b a) := by
  unfold State.endLoad
  try dsimp only
  repeat' first
    | (with_reducible first
        | assumption | apply State.loadDone_frame | apply State.updGalley_frame)
    | exact Mask.trans (by rfl) hM
    | split
    | with_reducible intro _

theorem State.withRows_frame {s : State} {t : Ticket} {b : Bytes} {r_ : Nat} {f : State → Bytes → Bytes → List (Nat × Nat) → List (Nat × Nat) → State} (hS : State.Frame M r s) (hSf : ∀ (y0 : State) (y1 : Bytes) (y2 : Bytes) (y3 : List (Nat × Nat)) (y4 : List (Nat × Nat)), State.Frame M r y0 → State.Frame M r (f y0 y1 y2 y3 y4)) (hM : 0x50e0000000000b0000000000004000000000000000 ||| M = M) :
    State.Frame M r (State.withRows s t b r_ f) := by
  unfold State.withRows
  try dsimp only
  repeat' first
    | (with_reducible first
        | assumption | apply hSf | apply State.done_frame | apply State.srcRead_frame
        | (refine State.srcRead_frame_eq (he := by assumption) ?_ ?_))
    | exact Mask.trans (by rfl) hM
    | split
    | with_reducible intro _

theorem State.loadGalley_frame {s : State} {t : Ticket} {b : Bytes} (hS : State.Frame M r s) (hM : 0x7ee2000000000b00000000000044000c0000000000 ||| M = M) :
    State.Frame M r (State.loadGalley s t b) := by
  unfold State.loadGalley
  try dsimp only
  repeat' first
    | (with_reducible first
        | assumption | apply State.loadDone_frame | apply State.withRows_frame | apply State.updGalley_frame | apply State.loadRows_frame
        | (refine State.loadRows_frame_eq (he := by assumption) ?_ ?_) | apply State.endLoad_frame)
    | exact Mask.trans (by rfl) hM
    | split
    | with_reducible intro _

theorem State.setBlank_frame {s : State} {t : Ticket} {b : Bytes} (hS : State.Frame M r s) (hM : 0x7ee2000000000b00000000000044000c0000000000 ||| M = M) :
    State.Frame M r (State.setBlank s t b) := by
  unfold State.setBlank
  try dsimp only
  repeat' first
    | (with_reducible first
        | assumption | apply State.loadDone_frame | apply State.withRows_frame | apply State.endLoad_frame | apply State.putBlank_frame
        | apply State.updGalley_frame)
    | exact Mask.trans (by rfl) hM
    | split
    | with_reducible intro _

theorem State.sealGalley_frame {s : State} {t : Ticket} {b : Bytes} (hS : State.Frame M r s) (hM : 0x408000000000000000000000000000000000000000 ||| M = M) :
    State.Frame M r (State.sealGalley s t b) := by
  unfold State.sealGalley
  try dsimp only
  repeat' first
    | (with_reducible first
        | assumption | apply State.loadDone_frame | apply State.updGalley_frame)
    | exact Mask.trans (by rfl) hM
    | split
    | with_reducible intro _

theorem State.abortTicket_frame {s : State} {t : Ticket} {b : Bytes} (hS : State.Frame M r s) (hM : 0x2060c000000000000000010000000000000000000000 ||| M = M) :
    State.Frame M r (State.abortTicket s t b) := by
  unfold State.abortTicket
  try dsimp only
  repeat' first
    | (with_reducible first
        | assumption | apply State.loadDone_frame | apply State.abortGalley_frame)
    | exact Mask.trans (by rfl) hM
    | split
    | with_reducible intro _

theorem State.galleyAct_frame {s : State} {ring : Nat} {seq : Nat} {p : Nat → Bool} {f : State → Ticket → Bytes → State} (hS : State.Frame M r s) (hSf : ∀ (y0 : State) (y1 : Ticket) (y2 : Bytes), State.Frame M r y0 → State.Frame M r (f y0 y1 y2)) (hM : 0x50e0000000000b0000000000004000000000000000 ||| M = M) :
    State.Frame M r (State.galleyAct s ring seq p f) := by
  unfold State.galleyAct
  try dsimp only
  repeat' first
    | (with_reducible first
        | assumption | apply hSf | apply State.ticketAct_frame | apply State.withSource_frame)
    | exact Mask.trans (by rfl) hM
    | split
    | with_reducible intro _

theorem execLoad_frame {ring : Nat} {x : TicketIn} {s : State} (hS : State.Frame M r s) (hM : 0x7ee2d40000000b000000000000443e0c0000000002 ||| M = M) :
    AnsFrame M r (execLoad ring x s) := by
  unfold execLoad
  try dsimp only
  repeat' first
    | (with_reducible first
        | assumption | exact ansFrame_fault | apply ansFrame_next | apply State.withXfers_frame | apply State.galleyAct_frame
        | apply State.loadGalley_frame)
    | exact Mask.trans (by rfl) hM
    | split
    | with_reducible intro _

theorem execSetBlank_frame {ring : Nat} {seq : Nat} {s : State} (hS : State.Frame M r s) (hM : 0x7ee2000000000b00000000000044000c0000000000 ||| M = M) :
    AnsFrame M r (execSetBlank ring seq s) := by
  unfold execSetBlank
  try dsimp only
  repeat' first
    | (with_reducible first
        | assumption | exact ansFrame_fault | apply ansFrame_next | apply State.galleyAct_frame | apply State.setBlank_frame)
    | exact Mask.trans (by rfl) hM
    | split
    | with_reducible intro _

theorem execSeal_frame {ring : Nat} {seq : Nat} {s : State} (hS : State.Frame M r s) (hM : 0x50e0000000000b0000000000004000000000000000 ||| M = M) :
    AnsFrame M r (execSeal ring seq s) := by
  unfold execSeal
  try dsimp only
  repeat' first
    | (with_reducible first
        | assumption | exact ansFrame_fault | apply ansFrame_next | apply State.galleyAct_frame | apply State.sealGalley_frame)
    | exact Mask.trans (by rfl) hM
    | split
    | with_reducible intro _

theorem execAbort_frame {ring : Nat} {seq : Nat} {s : State} (hS : State.Frame M r s) (hM : 0x2070e0000000000b0000010000004000000000000000 ||| M = M) :
    AnsFrame M r (execAbort ring seq s) := by
  unfold execAbort
  try dsimp only
  repeat' first
    | (with_reducible first
        | assumption | exact ansFrame_fault | apply ansFrame_next | apply State.galleyAct_frame | apply State.abortTicket_frame)
    | exact Mask.trans (by rfl) hM
    | split
    | with_reducible intro _

theorem execGalleySwitch_frame {ring : Nat} {seq : Nat} {s : State} (hS : State.Frame M r s) (hM : 0x206ec0000000000000000100000000000c0000000000 ||| M = M) :
    AnsFrame M r (execGalleySwitch ring seq s) := by
  unfold execGalleySwitch
  try dsimp only
  repeat' first
    | (with_reducible first
        | assumption | exact ansFrame_fault | apply ansFrame_next | apply State.ticketAct_frame | apply State.loadDone_frame
        | apply State.requestSwitch_frame)
    | exact Mask.trans (by rfl) hM
    | split
    | with_reducible intro _

theorem execSwitchCommit_frame {slot : Nat} {galley : Nat} {s : State} (hS : State.Frame M r s) (hM : 0x6e00000000000000000000000000000c0000000000 ||| M = M) :
    AnsFrame M r (execSwitchCommit slot galley s) := by
  unfold execSwitchCommit
  try dsimp only
  repeat' first
    | (with_reducible first
        | assumption | exact ansFrame_fault | apply ansFrame_next | apply State.ifB_frame | apply State.commitSwitch_frame
        | apply State.commitIdle_frame | apply State.freeDraining_frame)
    | exact Mask.trans (by rfl) hM
    | split
    | with_reducible intro _

theorem State.readGalley_frame {s : State} {t : Ticket} (hS : State.Frame M r s) (hM : 0x7fe0000000000b00000000000044000c0000000000 ||| M = M) :
    State.Frame M r (State.readGalley s t) := by
  unfold State.readGalley
  try dsimp only
  repeat' first
    | (with_reducible first
        | assumption | apply State.done_frame | apply State.noteRow_frame | apply State.deliver_frame
        | (refine State.deliver_frame_eq (he := by assumption) ?_ ?_))
    | exact Mask.trans (by rfl) hM
    | split
    | with_reducible apply State.Frame.foldl
    | with_reducible apply State.Frame.foldl_fst
    | with_reducible intro _

theorem execGalleyRead_frame {ring : Nat} {x : TicketIn} {s : State} (hS : State.Frame M r s) (hM : 0x7fe2d40000000b000000000000443e0c0000000002 ||| M = M) :
    AnsFrame M r (execGalleyRead ring x s) := by
  unfold execGalleyRead
  try dsimp only
  repeat' first
    | (with_reducible first
        | assumption | exact ansFrame_fault | apply ansFrame_next | apply State.withXfers_frame | apply State.ifB_frame
        | apply State.ticketAct_frame | apply State.readGalley_frame | apply State.readsEnded_frame)
    | exact Mask.trans (by rfl) hM
    | split
    | with_reducible intro _

/-! ### Machine/Flags.lean -/

theorem State.raiseFlags_frame {s : State} {p : Nat} {flags : Nat} {slot : Nat} {plate : Nat} (hS : State.Frame M r s) (hM : 0x200000 ||| M = M) :
    State.Frame M r (State.raiseFlags s p flags slot plate) := by
  unfold State.raiseFlags
  try dsimp only
  repeat' first
    | (with_reducible first
        | assumption | exact fieldsMask_nil | apply fieldsMask_cons | apply State.setF_frame | apply State.setFs_frame)
    | exact Mask.trans (by rfl) hM
    | split
    | with_reducible intro _

/-! ### Machine/Imposition.lean -/

theorem State.enterSlug_frame {s : State} {c : Nat} {e : SlugEnt} (hS : State.Frame M r s) (hM : 0x400000000000000000000000000000000000000000 ||| M = M) :
    State.Frame M r (State.enterSlug s c e) := by
  unfold State.enterSlug
  try dsimp only
  repeat' first
    | (with_reducible first
        | assumption | apply State.updChase_frame)
    | exact Mask.trans (by rfl) hM
    | split
    | with_reducible apply State.Frame.foldl
    | with_reducible apply State.Frame.foldl_fst
    | with_reducible intro _

theorem State.enterSlugs_frame {s : State} {c : Nat} (hS : State.Frame M r s) (hM : 0x400000000000000000000000000000000000000000 ||| M = M) :
    State.Frame M r (State.enterSlugs s c) := by
  unfold State.enterSlugs
  try dsimp only
  repeat' first
    | (with_reducible first
        | assumption | apply State.enterSlug_frame)
    | exact Mask.trans (by rfl) hM
    | split
    | with_reducible apply State.Frame.foldl
    | with_reducible apply State.Frame.foldl_fst
    | with_reducible intro _

theorem State.updateHeat_frame {s : State} {c : Nat} (hS : State.Frame M r s) (hM : 0x400000000000000000000000000000000000000000 ||| M = M) :
    State.Frame M r (State.updateHeat s c) := by
  unfold State.updateHeat
  try dsimp only
  repeat' first
    | (with_reducible first
        | assumption | apply State.updChase_frame | apply State.enterSlugs_frame)
    | exact Mask.trans (by rfl) hM
    | split
    | with_reducible intro _

theorem State.clearSources_frame {s : State} {c : Nat} (hS : State.Frame M r s) (hM : 0x400000000000000000000000000000000000000000 ||| M = M) :
    State.Frame M r (State.clearSources s c) := by
  unfold State.clearSources
  try dsimp only
  repeat' first
    | (with_reducible first
        | assumption | apply State.updChase_frame)
    | exact Mask.trans (by rfl) hM
    | split
    | with_reducible intro _

theorem State.countSlug_frame {s : State} {c : Nat} {galley : Nat} {slug : Nat} {n : Nat} {place : Nat × Nat × Nat} (hS : State.Frame M r s) (hM : 0x400000000000000000000000000000000000000000 ||| M = M) :
    State.Frame M r (State.countSlug s c galley slug n place) := by
  unfold State.countSlug
  try dsimp only
  repeat' first
    | (with_reducible first
        | assumption | apply State.updChase_frame)
    | exact Mask.trans (by rfl) hM
    | split
    | with_reducible intro _

theorem State.dropNever_frame {s : State} {c : Nat} (hS : State.Frame M r s) (hM : 0x6000000000000000000000000000000c0000000000 ||| M = M) :
    State.Frame M r (State.dropNever s c) := by
  unfold State.dropNever
  try dsimp only
  repeat' first
    | (with_reducible first
        | assumption | apply State.abandon_frame | apply State.updChase_frame)
    | exact Mask.trans (by rfl) hM
    | split
    | with_reducible intro _

theorem State.takeCtrl_frame {s : State} {c : Nat} (hS : State.Frame M r s) (hM : 0x400000000000000000000000000000000000000000 ||| M = M) :
    State.Frame M r (State.takeCtrl s c) := by
  unfold State.takeCtrl
  try dsimp only
  repeat' first
    | (with_reducible first
        | assumption | apply State.updChase_frame)
    | exact Mask.trans (by rfl) hM
    | split
    | with_reducible intro _

theorem State.charge_frame {s : State} {c : Nat} {cost : Nat} (hS : State.Frame M r s) (hM : 0x80000000000 ||| M = M) :
    State.Frame M r (State.charge s c cost).1 := by
  unfold State.charge
  try dsimp only
  repeat' first
    | (with_reducible first
        | assumption | apply State.setF_frame)
    | exact Mask.trans (by rfl) hM
    | split
    | with_reducible intro _

theorem State.charge_frame_eq {s : State} {c : Nat} {cost : Nat} (hS : State.Frame M r s) (hM : 0x80000000000 ||| M = M) {u : State} {z : Bool} (he : State.charge s c cost = (u, z)) :
    State.Frame M r u := by
  have := State.charge_frame hS hM (s := s) (c := c) (cost := cost)
  rwa [he] at this

theorem State.spend_frame {s : State} {c : Nat} {ms : List MigrationEnt} (hS : State.Frame M r s) (hM : 0x400000000000000000000000000000080000000000 ||| M = M) :
    State.Frame M r (State.spend s c ms).1 := by
  unfold State.spend
  try dsimp only
  repeat' first
    | (with_reducible first
        | assumption | apply State.charge_frame | (refine State.charge_frame_eq (he := by assumption) ?_ ?_) | apply State.updChase_frame)
    | exact Mask.trans (by rfl) hM
    | split
    | with_reducible intro _

theorem State.spend_frame_eq {s : State} {c : Nat} {ms : List MigrationEnt} (hS : State.Frame M r s) (hM : 0x400000000000000000000000000000080000000000 ||| M = M) {u : State} {z : Bool} (he : State.spend s c ms = (u, z)) :
    State.Frame M r u := by
  have := State.spend_frame hS hM (s := s) (c := c) (ms := ms)
  rwa [he] at this

theorem State.bring_frame {s : State} {c : Nat} {t : Store} {n : Nat} {heat : Option Nat} {copy : Bool} {mk : Store → MigrationEnt} (hS : State.Frame M r s) (hM : 0x400000000000000000000000000000080000000000 ||| M = M) :
    State.Frame M r (State.bring s c t n heat copy mk).1 := by
  unfold State.bring
  try dsimp only
  repeat' first
    | (with_reducible first
        | assumption | apply State.spend_frame | (refine State.spend_frame_eq (he := by assumption) ?_ ?_))
    | exact Mask.trans (by rfl) hM
    | split
    | with_reducible intro _

theorem State.bring_frame_eq {s : State} {c : Nat} {t : Store} {n : Nat} {heat : Option Nat} {copy : Bool} {mk : Store → MigrationEnt} (hS : State.Frame M r s) (hM : 0x400000000000000000000000000000080000000000 ||| M = M) {u : State} {z : Bool} (he : State.bring s c t n heat copy mk = (u, z)) :
    State.Frame M r u := by
  have := State.bring_frame hS hM (s := s) (c := c) (t := t) (n := n) (heat := heat) (copy := copy) (mk := mk)
  rwa [he] at this

theorem State.promote_frame {s : State} {c : Nat} {f : Nat} {e : FrameEnt} {heat : Option Nat} {t : Store} (hS : State.Frame M r s) (hM : 0x400000000000000000000000000000080000000000 ||| M = M) :
    State.Frame M r (State.promote s c f e heat t).1 := by
  unfold State.promote
  try dsimp only
  repeat' first
    | (with_reducible first
        | assumption | apply State.bring_frame | (refine State.bring_frame_eq (he := by assumption) ?_ ?_))
    | exact Mask.trans (by rfl) hM
    | split
    | with_reducible intro _

theorem State.promote_frame_eq {s : State} {c : Nat} {f : Nat} {e : FrameEnt} {heat : Option Nat} {t : Store} (hS : State.Frame M r s) (hM : 0x400000000000000000000000000000080000000000 ||| M = M) {u : State} {z : Bool} (he : State.promote s c f e heat t = (u, z)) :
    State.Frame M r u := by
  have := State.promote_frame hS hM (s := s) (c := c) (f := f) (e := e) (heat := heat) (t := t)
  rwa [he] at this

theorem State.moveDie_frame {s : State} {c : Nat} {f : Nat} {layout : Nat} (hS : State.Frame M r s) (hM : 0x600200000000000000000000000000080000000000 ||| M = M) :
    State.Frame M r (State.moveDie s c f layout).1 := by
  unfold State.moveDie
  try dsimp only
  repeat' first
    | (with_reducible first
        | assumption | apply State.fresh_frame | (refine State.fresh_frame_eq (he := by assumption) ?_ ?_) | apply State.takeUnit_frame
        | (refine State.takeUnit_frame_eq (he := by assumption) ?_ ?_) | apply State.spend_frame
        | (refine State.spend_frame_eq (he := by assumption) ?_ ?_) | apply State.releaseBands_frame)
    | exact Mask.trans (by rfl) hM
    | split
    | with_reducible intro _

theorem State.moveDie_frame_eq {s : State} {c : Nat} {f : Nat} {layout : Nat} (hS : State.Frame M r s) (hM : 0x600200000000000000000000000000080000000000 ||| M = M) {u : State} {z : Bool} (he : State.moveDie s c f layout = (u, z)) :
    State.Frame M r u := by
  have := State.moveDie_frame hS hM (s := s) (c := c) (f := f) (layout := layout)
  rwa [he] at this

theorem State.pinFlag_frame {s : State} {c : Nat} {f : Nat} {b : Bool} (hS : State.Frame M r s) (hM : 0x400000000000000000000000000000000000000000 ||| M = M) :
    State.Frame M r (State.pinFlag s c f b) := by
  unfold State.pinFlag
  try dsimp only
  repeat' first
    | (with_reducible first
        | assumption | apply State.updFrame_frame)
    | exact Mask.trans (by rfl) hM
    | split
    | with_reducible intro _

theorem State.pinShort_frame {s : State} {c : Nat} (hS : State.Frame M r s) (hM : 0x100000000000 ||| M = M) :
    State.Frame M r (State.pinShort s c) := by
  unfold State.pinShort
  try dsimp only
  repeat' first
    | (with_reducible first
        | assumption | apply State.bump_frame)
    | exact Mask.trans (by rfl) hM
    | split
    | with_reducible intro _

theorem State.pinFrame_frame {s : State} {on : Bool} {c : Nat} {f : Nat} {h : HintRange} (hS : State.Frame M r s) (hM : 0x400000000000000000000000000000180000000000 ||| M = M) :
    State.Frame M r (State.pinFrame s on c f h).1 := by
  unfold State.pinFrame
  try dsimp only
  repeat' first
    | (with_reducible first
        | assumption | apply State.pinFlag_frame | apply State.pinShort_frame | apply State.promote_frame
        | (refine State.promote_frame_eq (he := by assumption) ?_ ?_))
    | exact Mask.trans (by rfl) hM
    | split
    | with_reducible intro _

theorem State.pinFrame_frame_eq {s : State} {on : Bool} {c : Nat} {f : Nat} {h : HintRange} (hS : State.Frame M r s) (hM : 0x400000000000000000000000000000180000000000 ||| M = M) {u : State} {z : Bool} (he : State.pinFrame s on c f h = (u, z)) :
    State.Frame M r u := by
  have := State.pinFrame_frame hS hM (s := s) (on := on) (c := c) (f := f) (h := h)
  rwa [he] at this

theorem State.bringPinned_frame {s : State} {c : Nat} {galley : Nat} {i : Nat} {n : Nat} {t : Store} (hS : State.Frame M r s) (hM : 0x400000000000000000000000000000080000000000 ||| M = M) :
    State.Frame M r (State.bringPinned s c galley i n t).1 := by
  unfold State.bringPinned
  try dsimp only
  repeat' first
    | (with_reducible first
        | assumption | apply State.bring_frame | (refine State.bring_frame_eq (he := by assumption) ?_ ?_) | apply State.updChase_frame)
    | exact Mask.trans (by rfl) hM
    | split
    | with_reducible intro _

theorem State.bringPinned_frame_eq {s : State} {c : Nat} {galley : Nat} {i : Nat} {n : Nat} {t : Store} (hS : State.Frame M r s) (hM : 0x400000000000000000000000000000080000000000 ||| M = M) {u : State} {z : Bool} (he : State.bringPinned s c galley i n t = (u, z)) :
    State.Frame M r u := by
  have := State.bringPinned_frame hS hM (s := s) (c := c) (galley := galley) (i := i) (n := n) (t := t)
  rwa [he] at this

theorem State.pinRow_frame {s : State} {on : Bool} {c : Nat} {galley : Nat} {num : Nat} {i : Nat} (hS : State.Frame M r s) (hM : 0x400000000000000000000000000000180000000000 ||| M = M) :
    State.Frame M r (State.pinRow s on c galley num i).1 := by
  unfold State.pinRow
  try dsimp only
  repeat' first
    | (with_reducible first
        | assumption | apply State.updChase_frame | apply State.pinShort_frame | apply State.bringPinned_frame
        | (refine State.bringPinned_frame_eq (he := by assumption) ?_ ?_))
    | exact Mask.trans (by rfl) hM
    | split
    | with_reducible intro _

theorem State.pinRow_frame_eq {s : State} {on : Bool} {c : Nat} {galley : Nat} {num : Nat} {i : Nat} (hS : State.Frame M r s) (hM : 0x400000000000000000000000000000180000000000 ||| M = M) {u : State} {z : Bool} (he : State.pinRow s on c galley num i = (u, z)) :
    State.Frame M r u := by
  have := State.pinRow_frame hS hM (s := s) (on := on) (c := c) (galley := galley) (num := num) (i := i)
  rwa [he] at this

theorem State.liftPins_frame {s : State} {c : Nat} (hS : State.Frame M r s) (hM : 0x400000000000000000000000000000000000000000 ||| M = M) :
    State.Frame M r (State.liftPins s c) := by
  unfold State.liftPins
  try dsimp only
  repeat' first
    | (with_reducible first
        | assumption | apply State.updChase_frame)
    | exact Mask.trans (by rfl) hM
    | split
    | with_reducible intro _

theorem State.pinAll_frame {s : State} {on : Bool} {c : Nat} (hS : State.Frame M r s) (hM : 0x400000000000000000000000000000180000000000 ||| M = M) :
    State.Frame M r (State.pinAll s on c).1 := by
  unfold State.pinAll
  try dsimp only
  repeat' first
    | (with_reducible first
        | assumption | apply pinEach_frame | apply State.liftPins_frame | apply State.pinFrame_frame
        | (refine State.pinFrame_frame_eq (he := by assumption) ?_ ?_) | apply State.pinRow_frame
        | (refine State.pinRow_frame_eq (he := by assumption) ?_ ?_))
    | exact Mask.trans (by rfl) hM
    | split
    | with_reducible intro _

theorem State.pinAll_frame_eq {s : State} {on : Bool} {c : Nat} (hS : State.Frame M r s) (hM : 0x400000000000000000000000000000180000000000 ||| M = M) {u : State} {z : Bool} (he : State.pinAll s on c = (u, z)) :
    State.Frame M r u := by
  have := State.pinAll_frame hS hM (s := s) (on := on) (c := c)
  rwa [he] at this

theorem State.placeHub_frame {s : State} {c : Nat} {hop : Nat} {f : Nat} (hS : State.Frame M r s) (hM : 0x600200000000000000000000000000080000000000 ||| M = M) :
    State.Frame M r (State.placeHub s c hop f).1 := by
  unfold State.placeHub
  try dsimp only
  repeat' first
    | (with_reducible first
        | assumption | apply State.pinFlag_frame | apply State.promote_frame | (refine State.promote_frame_eq (he := by assumption) ?_ ?_)
        | apply State.spend_frame | (refine State.spend_frame_eq (he := by assumption) ?_ ?_) | apply State.moveDie_frame
        | (refine State.moveDie_frame_eq (he := by assumption) ?_ ?_))
    | exact Mask.trans (by rfl) hM
    | split
    | with_reducible intro _

theorem State.placeHub_frame_eq {s : State} {c : Nat} {hop : Nat} {f : Nat} (hS : State.Frame M r s) (hM : 0x600200000000000000000000000000080000000000 ||| M = M) {u : State} {z : Bool} (he : State.placeHub s c hop f = (u, z)) :
    State.Frame M r u := by
  have := State.placeHub_frame hS hM (s := s) (c := c) (hop := hop) (f := f)
  rwa [he] at this

theorem State.planPlaced_frame {s : State} {c : Nat} {key : List Nat} {n : Nat} (hS : State.Frame M r s) (hM : 0x400000000000000000000000000000000000000000 ||| M = M) :
    State.Frame M r (State.planPlaced s c key n) := by
  unfold State.planPlaced
  try dsimp only
  repeat' first
    | (with_reducible first
        | assumption | apply State.updChase_frame)
    | exact Mask.trans (by rfl) hM
    | split
    | with_reducible intro _

theorem State.placeSegs_frame {s : State} {c : Nat} {key : List Nat} {x0 : List Nat} {x1 : List ((Nat × Nat × Nat) × Nat)} (hS : State.Frame M r s) (hM : 0x600200000000000000000000000000080000000000 ||| M = M) :
    State.Frame M r (State.placeSegs s c key x0 x1).1 := by
  induction x1 generalizing s x0 with
  | nil => exact hS
  | cons a l ih =>
  simp only [State.placeSegs]
  repeat' first
    | (with_reducible first
        | assumption | apply ih | apply State.decideEach_frame | apply State.placeHub_frame
        | (refine State.placeHub_frame_eq (he := by assumption) ?_ ?_) | apply State.planPlaced_frame)
    | exact Mask.trans (by rfl) hM
    | split
    | with_reducible intro _

theorem State.placeSegs_frame_eq {s : State} {c : Nat} {key : List Nat} {x0 : List Nat} {x1 : List ((Nat × Nat × Nat) × Nat)} (hS : State.Frame M r s) (hM : 0x600200000000000000000000000000080000000000 ||| M = M) {u : State} {z : Bool} (he : State.placeSegs s c key x0 x1 = (u, z)) :
    State.Frame M r u := by
  have := State.placeSegs_frame hS hM (s := s) (c := c) (key := key) (x0 := x0) (x1 := x1)
  rwa [he] at this

theorem State.placePlan_frame {s : State} {c : Nat} {p : SplitPlan} (hS : State.Frame M r s) (hM : 0x600200000000000000000000000000080000000000 ||| M = M) :
    State.Frame M r (State.placePlan s c p).1 := by
  unfold State.placePlan
  try dsimp only
  repeat' first
    | (with_reducible first
        | assumption | apply State.placeSegs_frame | (refine State.placeSegs_frame_eq (he := by assumption) ?_ ?_))
    | exact Mask.trans (by rfl) hM
    | split
    | with_reducible intro _

theorem State.placePlan_frame_eq {s : State} {c : Nat} {p : SplitPlan} (hS : State.Frame M r s) (hM : 0x600200000000000000000000000000080000000000 ||| M = M) {u : State} {z : Bool} (he : State.placePlan s c p = (u, z)) :
    State.Frame M r u := by
  have := State.placePlan_frame hS hM (s := s) (c := c) (p := p)
  rwa [he] at this

theorem State.nearMove_frame {s : State} {c : Nat} {key : Nat} {f : FrameEnt} (hS : State.Frame M r s) (hM : 0x600200000000000000000000000000080000000000 ||| M = M) :
    State.Frame M r (State.nearMove s c key f).1 := by
  unfold State.nearMove
  try dsimp only
  repeat' first
    | (with_reducible first
        | assumption | apply State.moveDie_frame | (refine State.moveDie_frame_eq (he := by assumption) ?_ ?_))
    | exact Mask.trans (by rfl) hM
    | split
    | with_reducible intro _

theorem State.nearMove_frame_eq {s : State} {c : Nat} {key : Nat} {f : FrameEnt} (hS : State.Frame M r s) (hM : 0x600200000000000000000000000000080000000000 ||| M = M) {u : State} {z : Bool} (he : State.nearMove s c key f = (u, z)) :
    State.Frame M r u := by
  have := State.nearMove_frame hS hM (s := s) (c := c) (key := key) (f := f)
  rwa [he] at this

theorem State.homeMove_frame {s : State} {c : Nat} {e : Candidate} {f : FrameEnt} {t : Store} (hS : State.Frame M r s) (hM : 0x600200000000000000000000000000080000000000 ||| M = M) :
    State.Frame M r (State.homeMove s c e f t).1 := by
  unfold State.homeMove
  try dsimp only
  repeat' first
    | (with_reducible first
        | assumption | apply State.promote_frame | (refine State.promote_frame_eq (he := by assumption) ?_ ?_)
        | apply State.nearMove_frame | (refine State.nearMove_frame_eq (he := by assumption) ?_ ?_))
    | exact Mask.trans (by rfl) hM
    | split
    | with_reducible intro _

theorem State.homeMove_frame_eq {s : State} {c : Nat} {e : Candidate} {f : FrameEnt} {t : Store} (hS : State.Frame M r s) (hM : 0x600200000000000000000000000000080000000000 ||| M = M) {u : State} {z : Bool} (he : State.homeMove s c e f t = (u, z)) :
    State.Frame M r u := by
  have := State.homeMove_frame hS hM (s := s) (c := c) (e := e) (f := f) (t := t)
  rwa [he] at this

theorem State.copyTo_frame {c : Nat} {e : Candidate} {f : FrameEnt} {s : State} {k : Nat} (hS : State.Frame M r s) (hM : 0x400000000000000000000000000000080000000000 ||| M = M) :
    State.Frame M r (State.copyTo c e f s k).1 := by
  unfold State.copyTo
  try dsimp only
  repeat' first
    | (with_reducible first
        | assumption | apply State.bring_frame | (refine State.bring_frame_eq (he := by assumption) ?_ ?_))
    | exact Mask.trans (by rfl) hM
    | split
    | with_reducible intro _

theorem State.copyTo_frame_eq {c : Nat} {e : Candidate} {f : FrameEnt} {s : State} {k : Nat} (hS : State.Frame M r s) (hM : 0x400000000000000000000000000000080000000000 ||| M = M) {u : State} {z : Bool} (he : State.copyTo c e f s k = (u, z)) :
    State.Frame M r u := by
  have := State.copyTo_frame hS hM (c := c) (e := e) (f := f) (s := s) (k := k)
  rwa [he] at this

theorem State.copyAll_frame {s : State} {c : Nat} {e : Candidate} {f : FrameEnt} (hS : State.Frame M r s) (hM : 0x400000000000000000000000000000080000000000 ||| M = M) :
    State.Frame M r (State.copyAll s c e f).1 := by
  unfold State.copyAll
  try dsimp only
  repeat' first
    | (with_reducible first
        | assumption | apply State.decideEach_frame | apply State.copyTo_frame
        | (refine State.copyTo_frame_eq (he := by assumption) ?_ ?_))
    | exact Mask.trans (by rfl) hM
    | split
    | with_reducible intro _

theorem State.copyAll_frame_eq {s : State} {c : Nat} {e : Candidate} {f : FrameEnt} (hS : State.Frame M r s) (hM : 0x400000000000000000000000000000080000000000 ||| M = M) {u : State} {z : Bool} (he : State.copyAll s c e f = (u, z)) :
    State.Frame M r u := by
  have := State.copyAll_frame hS hM (s := s) (c := c) (e := e) (f := f)
  rwa [he] at this

theorem State.copyMoves_frame {s : State} {c : Nat} {e : Candidate} {f : FrameEnt} (hS : State.Frame M r s) (hM : 0x600200000000000000000000000000080000000000 ||| M = M) :
    State.Frame M r (State.copyMoves s c e f).1 := by
  unfold State.copyMoves
  try dsimp only
  repeat' first
    | (with_reducible first
        | assumption | apply State.copyAll_frame | (refine State.copyAll_frame_eq (he := by assumption) ?_ ?_)
        | apply State.nearMove_frame | (refine State.nearMove_frame_eq (he := by assumption) ?_ ?_))
    | exact Mask.trans (by rfl) hM
    | split
    | with_reducible intro _

theorem State.copyMoves_frame_eq {s : State} {c : Nat} {e : Candidate} {f : FrameEnt} (hS : State.Frame M r s) (hM : 0x600200000000000000000000000000080000000000 ||| M = M) {u : State} {z : Bool} (he : State.copyMoves s c e f = (u, z)) :
    State.Frame M r u := by
  have := State.copyMoves_frame hS hM (s := s) (c := c) (e := e) (f := f)
  rwa [he] at this

theorem State.decideFrame_frame {s : State} {c : Nat} {e : Candidate} (hS : State.Frame M r s) (hM : 0x600200000000000000000000000000080000000000 ||| M = M) :
    State.Frame M r (State.decideFrame s c e).1 := by
  unfold State.decideFrame
  try dsimp only
  repeat' first
    | (with_reducible first
        | assumption | apply State.homeMove_frame | (refine State.homeMove_frame_eq (he := by assumption) ?_ ?_)
        | apply State.copyMoves_frame | (refine State.copyMoves_frame_eq (he := by assumption) ?_ ?_) | apply State.nearMove_frame
        | (refine State.nearMove_frame_eq (he := by assumption) ?_ ?_))
    | exact Mask.trans (by rfl) hM
    | split
    | with_reducible intro _

theorem State.decideFrame_frame_eq {s : State} {c : Nat} {e : Candidate} (hS : State.Frame M r s) (hM : 0x600200000000000000000000000000080000000000 ||| M = M) {u : State} {z : Bool} (he : State.decideFrame s c e = (u, z)) :
    State.Frame M r u := by
  have := State.decideFrame_frame hS hM (s := s) (c := c) (e := e)
  rwa [he] at this

theorem State.decideSlug_frame {s : State} {c : Nat} {g : Nat} {e : Candidate} (hS : State.Frame M r s) (hM : 0x400000000000000000000000000000080000000000 ||| M = M) :
    State.Frame M r (State.decideSlug s c g e).1 := by
  unfold State.decideSlug
  try dsimp only
  repeat' first
    | (with_reducible first
        | assumption | apply State.decideEach_frame | apply State.bring_frame | (refine State.bring_frame_eq (he := by assumption) ?_ ?_))
    | exact Mask.trans (by rfl) hM
    | split
    | with_reducible intro _

theorem State.decideSlug_frame_eq {s : State} {c : Nat} {g : Nat} {e : Candidate} (hS : State.Frame M r s) (hM : 0x400000000000000000000000000000080000000000 ||| M = M) {u : State} {z : Bool} (he : State.decideSlug s c g e = (u, z)) :
    State.Frame M r u := by
  have := State.decideSlug_frame hS hM (s := s) (c := c) (g := g) (e := e)
  rwa [he] at this

theorem State.decideOne_frame {s : State} {c : Nat} {e : Candidate} (hS : State.Frame M r s) (hM : 0x600200000000000000000000000000080000000000 ||| M = M) :
    State.Frame M r (State.decideOne s c e).1 := by
  unfold State.decideOne
  try dsimp only
  repeat' first
    | (with_reducible first
        | assumption | apply State.decideSlug_frame | (refine State.decideSlug_frame_eq (he := by assumption) ?_ ?_)
        | apply State.decideFrame_frame | (refine State.decideFrame_frame_eq (he := by assumption) ?_ ?_))
    | exact Mask.trans (by rfl) hM
    | split
    | with_reducible intro _

theorem State.decideOne_frame_eq {s : State} {c : Nat} {e : Candidate} (hS : State.Frame M r s) (hM : 0x600200000000000000000000000000080000000000 ||| M = M) {u : State} {z : Bool} (he : State.decideOne s c e = (u, z)) :
    State.Frame M r u := by
  have := State.decideOne_frame hS hM (s := s) (c := c) (e := e)
  rwa [he] at this

theorem State.decideMoves_frame {s : State} {c : Nat} (hS : State.Frame M r s) (hM : 0x600200000000000000000000000000180000000000 ||| M = M) :
    State.Frame M r (State.decideMoves s c) := by
  unfold State.decideMoves
  try dsimp only
  repeat' first
    | (with_reducible first
        | assumption | apply State.decideEach_frame | apply State.pinAll_frame
        | (refine State.pinAll_frame_eq (he := by assumption) ?_ ?_) | apply State.placePlan_frame
        | (refine State.placePlan_frame_eq (he := by assumption) ?_ ?_) | apply State.decideOne_frame
        | (refine State.decideOne_frame_eq (he := by assumption) ?_ ?_))
    | exact Mask.trans (by rfl) hM
    | split
    | with_reducible intro _

theorem State.moveFrame_frame {s : State} {c : Nat} {f : Nat} {e : FrameEnt} {n : FrameEnt} {how : Nat} {whole : Bool} (hS : State.Frame M r s) (hM : 0x7ec000000000000000000000000400000000000000 ||| M = M) :
    State.Frame M r (State.moveFrame s c f e n how whole) := by
  unfold State.moveFrame
  try dsimp only
  repeat' first
    | (with_reducible first
        | assumption | apply State.zeroPieces_frame | apply State.updFrame_frame | apply State.devPoison_frame
        | apply State.copyFrame_frame | apply State.copyLine_frame | apply State.releaseBands_frame)
    | exact Mask.trans (by rfl) hM
    | split
    | with_reducible apply State.Frame.foldl
    | with_reducible apply State.Frame.foldl_fst
    | (fail_if_no_progress
        with_reducible refine State.Frame.rest ?_ ?hp
        case hp => intro p hp; cases p <;> first | exact Mask.clash hM hp rfl | with_reducible exact rfl)
    | with_reducible intro _

theorem State.commitCopy_frame {s : State} {c : Nat} {m : MigrationEnt} (hS : State.Frame M r s) (hM : 0x400000000000000000000000000000000000000000 ||| M = M) :
    State.Frame M r (State.commitCopy s c m) := by
  unfold State.commitCopy
  try dsimp only
  repeat' first
    | (with_reducible first
        | assumption | apply State.updChase_frame)
    | exact Mask.trans (by rfl) hM
    | split
    | with_reducible intro _

theorem State.commitFrame_frame {s : State} {c : Nat} {m : MigrationEnt} {e : FrameEnt} (hS : State.Frame M r s) (hM : 0x7ec000000000000000000000000400000000000000 ||| M = M) :
    State.Frame M r (State.commitFrame s c m e) := by
  unfold State.commitFrame
  try dsimp only
  repeat' first
    | (with_reducible first
        | assumption | apply State.updFrame_frame | apply State.moveFrame_frame | apply State.copyFrame_frame | apply State.demote_frame)
    | exact Mask.trans (by rfl) hM
    | split
    | with_reducible intro _

theorem State.commitMove_frame {s : State} {c : Nat} {m : MigrationEnt} (hS : State.Frame M r s) (hM : 0x7ec000000000000000000000000400040000000000 ||| M = M) :
    State.Frame M r (State.commitMove s c m) := by
  unfold State.commitMove
  try dsimp only
  repeat' first
    | (with_reducible first
        | assumption | apply State.bump_frame | apply State.commitCopy_frame | apply State.updChase_frame | apply State.commitFrame_frame)
    | exact Mask.trans (by rfl) hM
    | split
    | with_reducible intro _

theorem State.commitEach_frame {s : State} {c : Nat} {rest : List MigrationEnt} {x0 : List MigrationEnt} (hS : State.Frame M r s) (hM : 0x7ec000000000000000000000000400040000000000 ||| M = M) :
    State.Frame M r (State.commitEach s c rest x0) := by
  induction x0 generalizing s with
  | nil => exact hS
  | cons a l ih =>
  simp only [State.commitEach]
  repeat' first
    | (with_reducible first
        | assumption | apply ih | apply State.commitMove_frame | apply State.updChase_frame)
    | exact Mask.trans (by rfl) hM
    | split
    | with_reducible intro _

theorem State.commitMoves_frame {s : State} {c : Nat} {left : Nat} (hS : State.Frame M r s) (hM : 0x7ec0000000000000000000000004000c0000000000 ||| M = M) :
    State.Frame M r (State.commitMoves s c left) := by
  unfold State.commitMoves
  try dsimp only
  repeat' first
    | (with_reducible first
        | assumption | apply State.setF_frame | apply State.updChase_frame | apply State.commitEach_frame)
    | exact Mask.trans (by rfl) hM
    | split
    | with_reducible intro _

theorem State.notePoisoned_frame {s : State} {c : Nat} {how : Nat} (hS : State.Frame M r s) (hM : 0x100000000000 ||| M = M) :
    State.Frame M r (State.notePoisoned s c how) := by
  unfold State.notePoisoned
  try dsimp only
  repeat' first
    | (with_reducible first
        | assumption | apply State.bump_frame)
    | exact Mask.trans (by rfl) hM
    | split
    | with_reducible intro _

theorem State.restorePart_frame {s : State} {c : Nat} {map : List (Nat × Nat)} {r_ : Nat} {i : Nat} {k : Nat} {v : Slug} (hS : State.Frame M r s) (hM : 0x7ec0000000000000000000000044000c0000000000 ||| M = M) :
    State.Frame M r (State.restorePart s c map r_ i k v) := by
  unfold State.restorePart
  try dsimp only
  repeat' first
    | (with_reducible first
        | assumption | apply State.galWrite_frame)
    | exact Mask.trans (by rfl) hM
    | split
    | with_reducible intro _

theorem State.restoreRows_frame {s : State} {c : Nat} {parts : List (RowPart × Option Slug)} (hS : State.Frame M r s) (hM : 0x7ec0000000000000000000000044000c0000000000 ||| M = M) :
    State.Frame M r (State.restoreRows s c parts) := by
  unfold State.restoreRows
  try dsimp only
  repeat' first
    | (with_reducible first
        | assumption | apply State.restorePart_frame)
    | exact Mask.trans (by rfl) hM
    | split
    | with_reducible apply State.Frame.foldl
    | with_reducible apply State.Frame.foldl_fst
    | with_reducible intro _

theorem State.rehomeTo_frame {s : State} {c : Nat} {f : Nat} {e : FrameEnt} {peers : List GuestCopy} {x0 : Option FrameEnt} (hS : State.Frame M r s) (hM : 0x7ec0000000000000000000000044001c0000000000 ||| M = M) :
    State.Frame M r (State.rehomeTo s c f e peers x0).1 := by
  unfold State.rehomeTo
  try dsimp only
  repeat' first
    | (with_reducible first
        | assumption | apply State.notePoisoned_frame | apply State.restoreRows_frame | apply State.moveFrame_frame)
    | exact Mask.trans (by rfl) hM
    | split
    | with_reducible intro _

theorem State.rehomeTo_frame_eq {s : State} {c : Nat} {f : Nat} {e : FrameEnt} {peers : List GuestCopy} {x0 : Option FrameEnt} (hS : State.Frame M r s) (hM : 0x7ec0000000000000000000000044001c0000000000 ||| M = M) {u : State} {z : Bool} (he : State.rehomeTo s c f e peers x0 = (u, z)) :
    State.Frame M r u := by
  have := State.rehomeTo_frame hS hM (s := s) (c := c) (f := f) (e := e) (peers := peers) (x0 := x0)
  rwa [he] at this

theorem State.rehomeFrame_frame {s : State} {c : Nat} {f : Nat} {e : FrameEnt} {peers : List GuestCopy} (hS : State.Frame M r s) (hM : 0x7ec2000000000000000000000044001c0000000000 ||| M = M) :
    State.Frame M r (State.rehomeFrame s c f e peers).1 := by
  unfold State.rehomeFrame
  try dsimp only
  repeat' first
    | (with_reducible first
        | assumption | apply State.allocIn_frame | (refine State.allocIn_frame_eq (he := by assumption) ?_ ?_)
        | apply State.rehomeTo_frame | (refine State.rehomeTo_frame_eq (he := by assumption) ?_ ?_))
    | exact Mask.trans (by rfl) hM
    | split
    | with_reducible intro _

theorem State.rehomeFrame_frame_eq {s : State} {c : Nat} {f : Nat} {e : FrameEnt} {peers : List GuestCopy} (hS : State.Frame M r s) (hM : 0x7ec2000000000000000000000044001c0000000000 ||| M = M) {u : State} {z : Bool} (he : State.rehomeFrame s c f e peers = (u, z)) :
    State.Frame M r u := by
  have := State.rehomeFrame_frame hS hM (s := s) (c := c) (f := f) (e := e) (peers := peers)
  rwa [he] at this

theorem State.rehomeAll_frame {s : State} {c : Nat} {peers : List GuestCopy} (hS : State.Frame M r s) (hM : 0x7ec2000000000000000000000044001c0000000000 ||| M = M) :
    State.Frame M r (State.rehomeAll s c peers) := by
  unfold State.rehomeAll
  try dsimp only
  repeat' first
    | (with_reducible first
        | assumption | apply State.rehomeFrame_frame | (refine State.rehomeFrame_frame_eq (he := by assumption) ?_ ?_)
        | apply State.bump_frame)
    | exact Mask.trans (by rfl) hM
    | split
    | with_reducible apply State.Frame.foldl
    | with_reducible apply State.Frame.foldl_fst
    | with_reducible intro _

theorem State.impose_frame {s : State} {c : Nat} {left : Nat} {peers : List GuestCopy} (hS : State.Frame M r s) (hM : 0x7ec2000000000000000000000044001c0000000000 ||| M = M) :
    State.Frame M r (State.impose s c left peers) := by
  unfold State.impose
  try dsimp only
  repeat' first
    | (with_reducible first
        | assumption | apply State.updChase_frame | apply State.clearSources_frame | apply State.decideMoves_frame
        | apply State.rehomeAll_frame | apply State.dropNever_frame | apply State.updateHeat_frame | apply State.commitMoves_frame
        | apply State.takeCtrl_frame)
    | exact Mask.trans (by rfl) hM
    | split
    | with_reducible intro _

theorem State.trimGuests_frame {s : State} {c : Nat} (hS : State.Frame M r s) (hM : 0x600000000000000000000000000000000000000000 ||| M = M) :
    State.Frame M r (State.trimGuests s c) := by
  unfold State.trimGuests
  try dsimp only
  repeat' first
    | (with_reducible first
        | assumption | apply State.sweepGal_frame | apply State.updChase_frame)
    | exact Mask.trans (by rfl) hM
    | split
    | with_reducible intro _

theorem State.reserveGuests_frame {s : State} {c : Nat} (hS : State.Frame M r s) (hM : 0x600000000000000000000000000000020000000000 ||| M = M) :
    State.Frame M r (State.reserveGuests s c) := by
  unfold State.reserveGuests
  try dsimp only
  repeat' first
    | (with_reducible first
        | assumption | apply State.setF_frame | apply State.trimGuests_frame | apply State.updChase_frame)
    | exact Mask.trans (by rfl) hM
    | split
    | with_reducible intro _

theorem State.takeGuest_frame {s : State} {c : Nat} {e : GuestCopy} (hS : State.Frame M r s) (hM : 0x7ec2000000000000000000000044000c0000000000 ||| M = M) :
    State.Frame M r (State.takeGuest s c e) := by
  unfold State.takeGuest
  try dsimp only
  repeat' first
    | (with_reducible first
        | assumption | apply State.updChase_frame | apply State.setF_frame | apply State.bump_frame | apply State.putGuest_frame)
    | exact Mask.trans (by rfl) hM
    | split
    | with_reducible intro _

theorem State.takeGuests_frame {s : State} {c : Nat} (hS : State.Frame M r s) (hM : 0x7ec2000000000000000000000044000c0000000000 ||| M = M) :
    State.Frame M r (State.takeGuests s c) := by
  unfold State.takeGuests
  try dsimp only
  repeat' first
    | (with_reducible first
        | assumption | apply State.takeGuest_frame | apply State.trimGuests_frame | apply State.updChase_frame)
    | exact Mask.trans (by rfl) hM
    | split
    | with_reducible apply State.Frame.foldl
    | with_reducible apply State.Frame.foldl_fst
    | with_reducible intro _

theorem State.query_frame {s : State} {c : Nat} {kind : Nat} {galley : Nat} {key : Nat} (hS : State.Frame M r s) (hM : 0x800000000000 ||| M = M) :
    State.Frame M r (State.query s c kind galley key) := by
  unfold State.query
  try dsimp only
  repeat' first
    | (with_reducible first
        | assumption | exact fieldsMask_nil | apply fieldsMask_cons | apply State.wr_frame | apply State.setFs_frame)
    | exact Mask.trans (by rfl) hM
    | split
    | with_reducible intro _

theorem execImpQuery_frame {rid : Nat} {value : Nat} {s : State} (hS : State.Frame M r s) (hM : 0x100000000000000000a00000000000 ||| M = M) :
    AnsFrame M r (execImpQuery rid value s) := by
  unfold execImpQuery
  try dsimp only
  repeat' first
    | (with_reducible first
        | assumption | exact ansFrame_fault | apply ansFrame_next | exact fieldsMask_nil | apply fieldsMask_cons
        | apply State.regWrite_frame | apply State.setFs_frame | apply State.query_frame)
    | exact Mask.trans (by rfl) hM
    | split
    | with_reducible intro _

/-! ### Machine/Cache.lean -/

theorem State.dropTag_frame {s : State} {line : Nat} (hS : State.Frame M r s) (hM : 0x100000000000000000000000000000000000000000 ||| M = M) :
    State.Frame M r (State.dropTag s line) := by
  unfold State.dropTag
  try dsimp only
  repeat' first
    | (with_reducible first
        | assumption)
    | exact Mask.trans (by rfl) hM
    | split
    | (fail_if_no_progress
        with_reducible refine State.Frame.rest ?_ ?hp
        case hp => intro p hp; cases p <;> first | exact Mask.clash hM hp rfl | with_reducible exact rfl)
    | with_reducible intro _

theorem State.keepWays_frame {s : State} {k : Nat} {lo : Nat} {hi : Nat} (hS : State.Frame M r s) (hM : 0x100000000000000000000000000000000000000000 ||| M = M) :
    State.Frame M r (State.keepWays s k lo hi) := by
  unfold State.keepWays
  try dsimp only
  repeat' first
    | (with_reducible first
        | assumption)
    | exact Mask.trans (by rfl) hM
    | split
    | (fail_if_no_progress
        with_reducible refine State.Frame.rest ?_ ?hp
        case hp => intro p hp; cases p <;> first | exact Mask.clash hM hp rfl | with_reducible exact rfl)
    | with_reducible intro _

theorem State.dropScratch_frame {s : State} {c : Nat} {k : Nat} {b : Nat} (hS : State.Frame M r s) (hM : 0x60000000000000000000000000000000000000000 ||| M = M) :
    State.Frame M r (State.dropScratch s c k b) := by
  unfold State.dropScratch
  try dsimp only
  repeat' first
    | (with_reducible first
        | assumption)
    | exact Mask.trans (by rfl) hM
    | split
    | (fail_if_no_progress
        with_reducible refine State.Frame.rest ?_ ?hp
        case hp => intro p hp; cases p <;> first | exact Mask.clash hM hp rfl | with_reducible exact rfl)
    | with_reducible intro _

theorem State.fitEngine_frame {s : State} {c : Nat} {k : Nat} (hS : State.Frame M r s) (hM : 0x7ec0000000000000000000000004000c0000000000 ||| M = M) :
    State.Frame M r (State.fitEngine s c k) := by
  unfold State.fitEngine
  try dsimp only
  repeat' first
    | (with_reducible first
        | assumption | apply State.abandon_frame | apply State.updFrame_frame | apply State.updChase_frame | apply State.demote_frame)
    | exact Mask.trans (by rfl) hM
    | split
    | with_reducible apply State.Frame.foldl
    | with_reducible apply State.Frame.foldl_fst
    | with_reducible intro _

theorem State.applyWays_frame {s : State} {p : Nat} {all : Bool} (hS : State.Frame M r s) (hM : 0x7ec0000000000000000000000006000c0000000000 ||| M = M) :
    State.Frame M r (State.applyWays s p all) := by
  unfold State.applyWays
  try dsimp only
  repeat' first
    | (with_reducible first
        | assumption | exact fieldsMask_nil | apply fieldsMask_cons | apply State.setFs_frame | apply State.keepWays_frame
        | apply State.dropScratch_frame | apply State.fitEngine_frame)
    | exact Mask.trans (by rfl) hM
    | split
    | with_reducible intro _

theorem State.waysWrite_frame {s : State} {p : Nat} {value : Nat} (hS : State.Frame M r s) (hM : 0x200000000000000 ||| M = M) :
    State.Frame M r (State.waysWrite s p value) := by
  unfold State.waysWrite
  try dsimp only
  repeat' first
    | (with_reducible first
        | assumption | exact fieldsMask_nil | apply fieldsMask_cons | apply State.setF_frame | apply State.setFs_frame)
    | exact Mask.trans (by rfl) hM
    | split
    | with_reducible intro _

theorem execRcWays_frame {rid : Nat} {p : Nat} {value : Nat} {s : State} (hS : State.Frame M r s) (hM : 0x100000000000000200000000000000 ||| M = M) :
    AnsFrame M r (execRcWays rid p value s) := by
  unfold execRcWays
  try dsimp only
  repeat' first
    | (with_reducible first
        | assumption | exact ansFrame_fault | apply ansFrame_next | apply State.regWrite_frame | apply State.ifB_frame
        | apply State.waysWrite_frame)
    | exact Mask.trans (by rfl) hM
    | split
    | with_reducible intro _

theorem execRcWaysApply_frame {p : Nat} {s : State} (hS : State.Frame M r s) (hM : 0x7ec0000000000000000000000006000c0000000000 ||| M = M) :
    AnsFrame M r (execRcWaysApply p s) := by
  unfold execRcWaysApply
  try dsimp only
  repeat' first
    | (with_reducible first
        | assumption | exact ansFrame_fault | apply ansFrame_next | apply State.ifB_frame | apply State.applyWays_frame)
    | exact Mask.trans (by rfl) hM
    | split
    | with_reducible intro _

theorem State.cleanLine_frame {s : State} {line : Nat} (hS : State.Frame M r s) (hM : 0xe0000000000000000000000000000000000000000 ||| M = M) :
    State.Frame M r (State.cleanLine s line) := by
  unfold State.cleanLine
  try dsimp only
  repeat' first
    | (with_reducible first
        | assumption | apply State.mbToDram_frame)
    | exact Mask.trans (by rfl) hM
    | split
    | with_reducible intro _

theorem State.dropEntry_frame {s : State} {line : Nat} (hS : State.Frame M r s) (hM : 0x80000000000000000000000000000000000000000 ||| M = M) :
    State.Frame M r (State.dropEntry s line) := by
  unfold State.dropEntry
  try dsimp only
  repeat' first
    | (with_reducible first
        | assumption)
    | exact Mask.trans (by rfl) hM
    | split
    | (fail_if_no_progress
        with_reducible refine State.Frame.rest ?_ ?hp
        case hp => intro p hp; cases p <;> first | exact Mask.clash hM hp rfl | with_reducible exact rfl)
    | with_reducible intro _

theorem State.rangeLine_frame {s : State} {c : Nat} {op : Nat} {a : Nat} (hS : State.Frame M r s) (hM : 0x7ec0000000000000000000000004000c0000000000 ||| M = M) :
    State.Frame M r (State.rangeLine s c op a) := by
  unfold State.rangeLine
  try dsimp only
  repeat' first
    | (with_reducible first
        | assumption | apply State.devWrite_frame | apply State.noteWrite_frame | apply State.cleanLine_frame | apply State.dropTag_frame
        | apply State.dropEntry_frame)
    | exact Mask.trans (by rfl) hM
    | split
    | with_reducible intro _

theorem State.rangeStart_frame {s : State} {p : Nat} {op : Nat} {slot : Nat} {kind : Bool} (hS : State.Frame M r s) (hM : 0x7ec0000000000000000000000024000c0000000000 ||| M = M) :
    State.Frame M r (State.rangeStart s p op slot kind) := by
  unfold State.rangeStart
  try dsimp only
  repeat' first
    | (with_reducible first
        | assumption | exact fieldsMask_nil | apply fieldsMask_cons | apply State.setFs_frame | apply State.setF_frame
        | apply State.cleanLine_frame | apply State.rangeLine_frame)
    | exact Mask.trans (by rfl) hM
    | split
    | with_reducible apply State.Frame.foldl
    | with_reducible apply State.Frame.foldl_fst
    | with_reducible intro _

theorem State.rangeWrite_frame {s : State} {rid : Nat} {p : Nat} {op : Nat} {slot : Nat} {kind : Bool} (hS : State.Frame M r s) (hM : 0x7ec0000000001000000000000024000c0000000000 ||| M = M) :
    State.Frame M r (State.rangeWrite s rid p op slot kind) := by
  unfold State.rangeWrite
  try dsimp only
  repeat' first
    | (with_reducible first
        | assumption | apply State.regWrite_frame | apply State.ifB_frame | apply State.rangeStart_frame)
    | exact Mask.trans (by rfl) hM
    | split
    | with_reducible intro _

theorem execClean_frame {rid : Nat} {p : Nat} {slot : Nat} {kind : Bool} {s : State} (hS : State.Frame M r s) (hM : 0x7ec0000000001000000000000024000c0000000000 ||| M = M) :
    AnsFrame M r (execClean rid p slot kind s) := by
  unfold execClean
  try dsimp only
  repeat' first
    | (with_reducible first
        | assumption | exact ansFrame_fault | apply ansFrame_next | apply State.rangeWrite_frame)
    | exact Mask.trans (by rfl) hM
    | split
    | with_reducible intro _

theorem execInvalidate_frame {rid : Nat} {p : Nat} {slot : Nat} {kind : Bool} {s : State} (hS : State.Frame M r s) (hM : 0x7ec0000000001000000000000024000c0000000000 ||| M = M) :
    AnsFrame M r (execInvalidate rid p slot kind s) := by
  unfold execInvalidate
  try dsimp only
  repeat' first
    | (with_reducible first
        | assumption | exact ansFrame_fault | apply ansFrame_next | apply State.rangeWrite_frame)
    | exact Mask.trans (by rfl) hM
    | split
    | with_reducible intro _

theorem execCleanInvalidate_frame {rid : Nat} {p : Nat} {slot : Nat} {kind : Bool} {s : State} (hS : State.Frame M r s) (hM : 0x7ec0000000001000000000000024000c0000000000 ||| M = M) :
    AnsFrame M r (execCleanInvalidate rid p slot kind s) := by
  unfold execCleanInvalidate
  try dsimp only
  repeat' first
    | (with_reducible first
        | assumption | exact ansFrame_fault | apply ansFrame_next | apply State.rangeWrite_frame)
    | exact Mask.trans (by rfl) hM
    | split
    | with_reducible intro _

theorem execZero_frame {rid : Nat} {p : Nat} {slot : Nat} {kind : Bool} {s : State} (hS : State.Frame M r s) (hM : 0x7ec0000000001000000000000024000c0000000000 ||| M = M) :
    AnsFrame M r (execZero rid p slot kind s) := by
  unfold execZero
  try dsimp only
  repeat' first
    | (with_reducible first
        | assumption | exact ansFrame_fault | apply ansFrame_next | apply State.rangeWrite_frame)
    | exact Mask.trans (by rfl) hM
    | split
    | with_reducible intro _

theorem execRangeDone_frame {p : Nat} {s : State} (hS : State.Frame M r s) (hM : 0x2000000000000000 ||| M = M) :
    AnsFrame M r (execRangeDone p s) := by
  unfold execRangeDone
  try dsimp only
  repeat' first
    | (with_reducible first
        | assumption | exact ansFrame_fault | apply ansFrame_next | apply State.ifB_frame | apply State.bump_frame
        | apply State.setF_frame)
    | exact Mask.trans (by rfl) hM
    | split
    | with_reducible intro _

theorem execMbDrain_frame {line : Nat} {s : State} (hS : State.Frame M r s) (hM : 0xe0000000000000000000000000000000000000000 ||| M = M) :
    AnsFrame M r (execMbDrain line s) := by
  unfold execMbDrain
  try dsimp only
  repeat' first
    | (with_reducible first
        | assumption | exact ansFrame_fault | apply ansFrame_next | apply State.ifB_frame | apply State.cleanLine_frame)
    | exact Mask.trans (by rfl) hM
    | split
    | with_reducible intro _

theorem State.atomic_frame {s : State} {c : Nat} {a : Nat} {n : Nat} {f : Bytes → Bytes} (hS : State.Frame M r s) (hM : 0x7ec0000000000000000000000084000c0000000000 ||| M = M) :
    State.Frame M r (State.atomic s c a n f).1 := by
  unfold State.atomic
  try dsimp only
  repeat' first
    | (with_reducible first
        | assumption | apply State.updChase_frame | apply State.bump_frame | apply State.devWrite_frame | apply State.noteWrite_frame)
    | exact Mask.trans (by rfl) hM
    | split
    | with_reducible intro _

theorem State.atomic_frame_eq {s : State} {c : Nat} {a : Nat} {n : Nat} {f : Bytes → Bytes} (hS : State.Frame M r s) (hM : 0x7ec0000000000000000000000084000c0000000000 ||| M = M) {u : State} {z : Option Bytes} (he : State.atomic s c a n f = (u, z)) :
    State.Frame M r u := by
  have := State.atomic_frame hS hM (s := s) (c := c) (a := a) (n := n) (f := f)
  rwa [he] at this

theorem State.atomicOut_frame {s : State} {c : Nat} {a : Nat} {n : Nat} {f : Bytes → Bytes} (hS : State.Frame M r s) (hM : 0x7ec0000000000000000000000084000c0000000000 ||| M = M) :
    State.Frame M r (State.atomicOut s c a n f) := by
  unfold State.atomicOut
  try dsimp only
  repeat' first
    | (with_reducible first
        | assumption | apply State.ifB_frame | apply State.atomic_frame | (refine State.atomic_frame_eq (he := by assumption) ?_ ?_)
        | apply State.emit_frame)
    | exact Mask.trans (by rfl) hM
    | split
    | with_reducible intro _

theorem execAtomicAdd_frame {slot : Nat} {addr : Nat} {v : Int} {s : State} (hS : State.Frame M r s) (hM : 0x7ec0000000000000000000000084000c0000000000 ||| M = M) :
    AnsFrame M r (execAtomicAdd slot addr v s) := by
  unfold execAtomicAdd
  try dsimp only
  repeat' first
    | (with_reducible first
        | assumption | exact ansFrame_fault | apply ansFrame_next | apply State.atomicOut_frame)
    | exact Mask.trans (by rfl) hM
    | split
    | with_reducible intro _

theorem execMinIdx_frame {slot : Nat} {addr : Nat} {v : Int} {index : Nat} {s : State} (hS : State.Frame M r s) (hM : 0x7ec0000000000000000000000084000c0000000000 ||| M = M) :
    AnsFrame M r (execMinIdx slot addr v index s) := by
  unfold execMinIdx
  try dsimp only
  repeat' first
    | (with_reducible first
        | assumption | exact ansFrame_fault | apply ansFrame_next | apply State.atomicOut_frame)
    | exact Mask.trans (by rfl) hM
    | split
    | with_reducible intro _

theorem execMaxIdx_frame {slot : Nat} {addr : Nat} {v : Int} {index : Nat} {s : State} (hS : State.Frame M r s) (hM : 0x7ec0000000000000000000000084000c0000000000 ||| M = M) :
    AnsFrame M r (execMaxIdx slot addr v index s) := by
  unfold execMaxIdx
  try dsimp only
  repeat' first
    | (with_reducible first
        | assumption | exact ansFrame_fault | apply ansFrame_next | apply State.atomicOut_frame)
    | exact Mask.trans (by rfl) hM
    | split
    | with_reducible intro _

theorem execCas_frame {slot : Nat} {addr : Nat} {compare : Nat} {new : Nat} {s : State} (hS : State.Frame M r s) (hM : 0x7ec0000000000000000000000084000c0000000000 ||| M = M) :
    AnsFrame M r (execCas slot addr compare new s) := by
  unfold execCas
  try dsimp only
  repeat' first
    | (with_reducible first
        | assumption | exact ansFrame_fault | apply ansFrame_next | apply State.atomicOut_frame)
    | exact Mask.trans (by rfl) hM
    | split
    | with_reducible intro _

theorem execXchg_frame {slot : Nat} {addr : Nat} {v : Nat} {s : State} (hS : State.Frame M r s) (hM : 0x7ec0000000000000000000000084000c0000000000 ||| M = M) :
    AnsFrame M r (execXchg slot addr v s) := by
  unfold execXchg
  try dsimp only
  repeat' first
    | (with_reducible first
        | assumption | exact ansFrame_fault | apply ansFrame_next | apply State.atomicOut_frame)
    | exact Mask.trans (by rfl) hM
    | split
    | with_reducible intro _

theorem State.poisonedData_frame {s : State} {n : Nat} (hS : State.Frame M r s) (hM : 0x4200000000000000000000000000000000000000 ||| M = M) :
    State.Frame M r (State.poisonedData s n) := by
  unfold State.poisonedData
  try dsimp only
  repeat' first
    | (with_reducible first
        | assumption | apply State.freshBytes_frame | (refine State.freshBytes_frame_eq (he := by assumption) ?_ ?_)
        | apply State.emit_frame)
    | exact Mask.trans (by rfl) hM
    | split
    | with_reducible intro _

theorem execBar2Read_frame {rid : Nat} {off : Nat} {run : BarRun} {s : State} (hS : State.Frame M r s) (hM : 0x6e62d400000013000000000000003e0c0000000002 ||| M = M) :
    AnsFrame M r (execBar2Read rid off run s) := by
  unfold execBar2Read
  try dsimp only
  repeat' first
    | (with_reducible first
        | assumption | exact ansFrame_fault | apply ansFrame_next | apply State.hostRead_frame | apply State.withXfers_frame
        | apply State.freshBytes_frame | (refine State.freshBytes_frame_eq (he := by assumption) ?_ ?_) | apply State.bump_frame
        | apply State.emit_frame)
    | exact Mask.trans (by rfl) hM
    | split
    | with_reducible intro _

theorem execBar2Write_frame {rid : Nat} {off : Nat} {run : BarData} {s : State} (hS : State.Frame M r s) (hM : 0x7e62d400000013000000000000043e0c0000000002 ||| M = M) :
    AnsFrame M r (execBar2Write rid off run s) := by
  unfold execBar2Write
  try dsimp only
  repeat' first
    | (with_reducible first
        | assumption | exact ansFrame_fault | apply ansFrame_next | apply State.hostWrite_frame | apply State.withXfers_frame
        | apply State.sliceWrite_frame | apply State.bump_frame)
    | exact Mask.trans (by rfl) hM
    | split
    | with_reducible apply State.Frame.foldl
    | with_reducible apply State.Frame.foldl_fst
    | with_reducible intro _

theorem State.snoopIn_frame {s : State} {line : Nat} (hS : State.Frame M r s) (hM : 0xc000000000000000000000000000000000000000 ||| M = M) :
    State.Frame M r (State.snoopIn s line) := by
  unfold State.snoopIn
  try dsimp only
  repeat' first
    | (with_reducible first
        | assumption | apply State.emit_frame)
    | exact Mask.trans (by rfl) hM
    | split
    | (fail_if_no_progress
        with_reducible refine State.Frame.rest ?_ ?hp
        case hp => intro p hp; cases p <;> first | exact Mask.clash hM hp rfl | with_reducible exact rfl)
    | with_reducible intro _

theorem execCxlMemRead_frame {rid : Nat} {addr : Nat} {found : List SymErr} {fails : XferFail} {s : State} (hS : State.Frame M r s) (hM : 0x7ee2d400000013000000000000403e0c0000000002 ||| M = M) :
    AnsFrame M r (execCxlMemRead rid addr found fails s) := by
  unfold execCxlMemRead
  try dsimp only
  repeat' first
    | (with_reducible first
        | assumption | exact ansFrame_fault | apply ansFrame_next | apply State.hostRead_frame | apply State.emit_frame
        | apply State.bump_frame | apply State.poisonedData_frame | apply State.eccSecond_frame | apply State.hbmXfer_frame
        | apply State.xfersBegin_frame | apply State.snoopIn_frame | apply State.cacheRead_frame | apply State.xfersEnd_frame)
    | exact Mask.trans (by rfl) hM
    | split
    | with_reducible intro _

theorem execCxlMemWrite_frame {rid : Nat} {addr : Nat} {data : Bytes} {fails : XferFail} {s : State} (hS : State.Frame M r s) (hM : 0x3e0000000000100000000000000408000000000000 ||| M = M) :
    AnsFrame M r (execCxlMemWrite rid addr data fails s) := by
  unfold execCxlMemWrite
  try dsimp only
  repeat' first
    | (with_reducible first
        | assumption | exact ansFrame_fault | apply ansFrame_next | apply State.hostWrite_frame | apply State.bump_frame
        | apply State.sliceWrite_frame | apply State.parityFails_frame | apply State.poisonRun_frame | apply State.cleanLine_frame)
    | exact Mask.trans (by rfl) hM
    | split
    | with_reducible intro _

theorem State.snoopAnswered_frame {s : State} {line : Nat} (hS : State.Frame M r s) (hM : 0x1e8000000000000000000000000400000000000000 ||| M = M) :
    State.Frame M r (State.snoopAnswered s line) := by
  unfold State.snoopAnswered
  try dsimp only
  repeat' first
    | (with_reducible first
        | assumption | apply State.landWrite_frame)
    | exact Mask.trans (by rfl) hM
    | split
    | with_reducible apply State.Frame.foldl
    | with_reducible apply State.Frame.foldl_fst
    | (fail_if_no_progress
        with_reducible refine State.Frame.rest ?_ ?hp
        case hp => intro p hp; cases p <;> first | exact Mask.clash hM hp rfl | with_reducible exact rfl)
    | with_reducible intro _

theorem execCxlCacheSnoop_frame {line : Nat} {s : State} (hS : State.Frame M r s) (hM : 0xc000000000000000000000000000000000000000 ||| M = M) :
    AnsFrame M r (execCxlCacheSnoop line s) := by
  unfold execCxlCacheSnoop
  try dsimp only
  repeat' first
    | (with_reducible first
        | assumption | exact ansFrame_fault | apply ansFrame_next | apply State.ifB_frame | apply State.emit_frame)
    | exact Mask.trans (by rfl) hM
    | split
    | (fail_if_no_progress
        with_reducible refine State.Frame.rest ?_ ?hp
        case hp => intro p hp; cases p <;> first | exact Mask.clash hM hp rfl | with_reducible exact rfl)
    | with_reducible intro _

theorem State.drainAll_frame {s : State} (hS : State.Frame M r s) (hM : 0xe0000000000000000000000000000000000000000 ||| M = M) :
    State.Frame M r (State.drainAll s).1 := by
  unfold State.drainAll
  try dsimp only
  repeat' first
    | (with_reducible first
        | assumption | apply State.mbToDram_frame)
    | exact Mask.trans (by rfl) hM
    | split
    | with_reducible apply State.Frame.foldl
    | with_reducible apply State.Frame.foldl_fst
    | with_reducible intro _

theorem State.drainAll_frame_eq {s : State} (hS : State.Frame M r s) (hM : 0xe0000000000000000000000000000000000000000 ||| M = M) {u : State} {z : Nat} (he : State.drainAll s = (u, z)) :
    State.Frame M r u := by
  have := State.drainAll_frame hS hM (s := s)
  rwa [he] at this

theorem execHifApertureSync_frame {rid : Nat} {s : State} (hS : State.Frame M r s) (hM : 0xe4200000000104000000000000000000000000000 ||| M = M) :
    AnsFrame M r (execHifApertureSync rid s) := by
  unfold execHifApertureSync
  try dsimp only
  repeat' first
    | (with_reducible first
        | assumption | exact ansFrame_fault | apply ansFrame_next | apply State.regRead_frame | apply State.drainAll_frame
        | (refine State.drainAll_frame_eq (he := by assumption) ?_ ?_) | apply State.setF_frame | apply State.emit_frame)
    | exact Mask.trans (by rfl) hM
    | split
    | with_reducible intro _

theorem execHifDmaFence_frame {rid : Nat} {s : State} (hS : State.Frame M r s) (hM : 0x4200000000140000000000000000000000000000 ||| M = M) :
    AnsFrame M r (execHifDmaFence rid s) := by
  unfold execHifDmaFence
  try dsimp only
  repeat' first
    | (with_reducible first
        | assumption | exact ansFrame_fault | apply ansFrame_next | apply State.regRead_frame | apply State.emit_frame
        | apply State.setF_frame)
    | exact Mask.trans (by rfl) hM
    | split
    | with_reducible intro _

/-! ### Machine/Clock.lean -/

theorem State.setCtr_frame {s : State} {v : Nat} (hS : State.Frame M r s) (hM : 0x100000000001000000000000000000000000000000000 ||| M = M) :
    State.Frame M r (State.setCtr s v) := by
  unfold State.setCtr
  try dsimp only
  repeat' first
    | (with_reducible first
        | assumption | apply State.wr_frame)
    | exact Mask.trans (by rfl) hM
    | split
    | (fail_if_no_progress
        with_reducible refine State.Frame.rest ?_ ?hp
        case hp => intro p hp; cases p <;> first | exact Mask.clash hM hp rfl | with_reducible exact rfl)
    | with_reducible intro _

theorem State.updTime_frame {s : State} {f : TimeSt → TimeSt} (hS : State.Frame M r s) (hM : 0x100000000000000000000000000000000000000000000 ||| M = M) :
    State.Frame M r (State.updTime s f) := by
  unfold State.updTime
  try dsimp only
  repeat' first
    | (with_reducible first
        | assumption)
    | exact Mask.trans (by rfl) hM
    | split
    | (fail_if_no_progress
        with_reducible refine State.Frame.rest ?_ ?hp
        case hp => intro p hp; cases p <;> first | exact Mask.clash hM hp rfl | with_reducible exact rfl)
    | with_reducible intro _

theorem State.adoptStep_frame {s : State} {c : Nat} (hS : State.Frame M r s) (hM : 0x400000000000000000000000000000000000000300 ||| M = M) :
    State.Frame M r (State.adoptStep s c) := by
  unfold State.adoptStep
  try dsimp only
  repeat' first
    | (with_reducible first
        | assumption | apply State.updChase_frame | apply State.setF_frame | apply State.bumpWrap_frame)
    | exact Mask.trans (by rfl) hM
    | split
    | with_reducible intro _

theorem State.adoptSteps_frame {s : State} (hS : State.Frame M r s) (hM : 0x400000000000000000000000000000000000000300 ||| M = M) :
    State.Frame M r (State.adoptSteps s) := by
  unfold State.adoptSteps
  try dsimp only
  repeat' first
    | (with_reducible first
        | assumption | apply State.adoptStep_frame)
    | exact Mask.trans (by rfl) hM
    | split
    | with_reducible apply State.Frame.foldl
    | with_reducible apply State.Frame.foldl_fst
    | with_reducible intro _

theorem State.mbEnds_frame {s : State} (hS : State.Frame M r s) (hM : 0x100000000000000000000000000000000000 ||| M = M) :
    State.Frame M r (State.mbEnds s) := by
  unfold State.mbEnds
  try dsimp only
  repeat' first
    | (with_reducible first
        | assumption | apply State.setF_frame)
    | exact Mask.trans (by rfl) hM
    | split
    | with_reducible intro _

theorem State.tick_frame {s : State} (hS : State.Frame M r s) (hM : 0x100400400101000000000000000000000000000000300 ||| M = M) :
    State.Frame M r (State.tick s) := by
  unfold State.tick
  try dsimp only
  repeat' first
    | (with_reducible first
        | assumption | apply State.mbEnds_frame | apply State.adoptSteps_frame | apply State.setCtr_frame)
    | exact Mask.trans (by rfl) hM
    | split
    | (fail_if_no_progress
        with_reducible refine State.Frame.rest ?_ ?hp
        case hp => intro p hp; cases p <;> first | exact Mask.clash hM hp rfl | with_reducible exact rfl)
    | with_reducible intro _

theorem State.passTo_frame {s : State} {t : Nat} (hS : State.Frame M r s) (hM : 0x100400400101000000000000000000000000000000300 ||| M = M) :
    State.Frame M r (State.passTo s t) := by
  unfold State.passTo
  try dsimp only
  repeat' first
    | (with_reducible first
        | assumption | apply State.adoptSteps_frame | apply State.setCtr_frame | apply State.mbEnds_frame)
    | exact Mask.trans (by rfl) hM
    | split
    | (fail_if_no_progress
        with_reducible refine State.Frame.rest ?_ ?hp
        case hp => intro p hp; cases p <;> first | exact Mask.clash hM hp rfl | with_reducible exact rfl)
    | with_reducible intro _

theorem State.chaseTo_frame {s : State} {c : Nat} {t : Nat} (hS : State.Frame M r s) (hM : 0x100400400101000000000000000000000000000000300 ||| M = M) :
    State.Frame M r (State.chaseTo s c t) := by
  unfold State.chaseTo
  try dsimp only
  repeat' first
    | (with_reducible first
        | assumption | apply State.passTo_frame)
    | exact Mask.trans (by rfl) hM
    | split
    | with_reducible intro _

theorem State.chaseDue_frame {s : State} {c : Nat} {due : State → Nat} (hS : State.Frame M r s) (hM : 0x100400400101000000000000000000000000000000300 ||| M = M) :
    State.Frame M r (State.chaseDue s c due) := by
  unfold State.chaseDue
  try dsimp only
  repeat' first
    | (with_reducible first
        | assumption | apply State.chaseTo_frame)
    | exact Mask.trans (by rfl) hM
    | split
    | with_reducible intro _

theorem State.shiftChases_frame {s : State} {d : Int} (hS : State.Frame M r s) (hM : 0x400000000000000000000000000000000000000000 ||| M = M) :
    State.Frame M r (State.shiftChases s d) := by
  unfold State.shiftChases
  try dsimp only
  repeat' first
    | (with_reducible first
        | assumption | apply State.updChase_frame)
    | exact Mask.trans (by rfl) hM
    | split
    | with_reducible apply State.Frame.foldl
    | with_reducible apply State.Frame.foldl_fst
    | with_reducible intro _

theorem State.removeErr_frame {s : State} {e : Int} (hS : State.Frame M r s) (hM : 0x100000000001000000000000000000000000000000000 ||| M = M) :
    State.Frame M r (State.removeErr s e).1 := by
  unfold State.removeErr
  try dsimp only
  repeat' first
    | (with_reducible first
        | assumption | apply State.updTime_frame | apply State.setCtr_frame)
    | exact Mask.trans (by rfl) hM
    | split
    | with_reducible intro _

theorem State.removeErr_frame_eq {s : State} {e : Int} (hS : State.Frame M r s) (hM : 0x100000000001000000000000000000000000000000000 ||| M = M) {u : State} {z : Int} (he : State.removeErr s e = (u, z)) :
    State.Frame M r u := by
  have := State.removeErr_frame hS hM (s := s) (e := e)
  rwa [he] at this

theorem State.slew_frame {s : State} {e : Int} (hS : State.Frame M r s) (hM : 0x100000200004000000000000000000000000000000000 ||| M = M) :
    State.Frame M r (State.slew s e) := by
  unfold State.slew
  try dsimp only
  repeat' first
    | (with_reducible first
        | assumption | apply State.fresh_frame | (refine State.fresh_frame_eq (he := by assumption) ?_ ?_) | apply State.setF_frame
        | apply State.updTime_frame)
    | exact Mask.trans (by rfl) hM
    | split
    | with_reducible intro _

theorem State.measure_frame {s : State} {e : Int} (hS : State.Frame M r s) (hM : 0x100400200045000000000000000000000000000000000 ||| M = M) :
    State.Frame M r (State.measure s e) := by
  unfold State.measure
  try dsimp only
  repeat' first
    | (with_reducible first
        | assumption | exact fieldsMask_nil | apply fieldsMask_cons | apply State.setF_frame | apply State.removeErr_frame
        | (refine State.removeErr_frame_eq (he := by assumption) ?_ ?_) | apply State.setFs_frame | apply State.bump_frame
        | apply State.shiftChases_frame | apply State.slew_frame)
    | exact Mask.trans (by rfl) hM
    | split
    | with_reducible intro _

theorem State.firstLock_frame {s : State} {e : Int} (hS : State.Frame M r s) (hM : 0x100400000015000000000000000000000000000000000 ||| M = M) :
    State.Frame M r (State.firstLock s e) := by
  unfold State.firstLock
  try dsimp only
  repeat' first
    | (with_reducible first
        | assumption | apply State.removeErr_frame | (refine State.removeErr_frame_eq (he := by assumption) ?_ ?_)
        | apply State.setF_frame | apply State.updTime_frame | apply State.shiftChases_frame)
    | exact Mask.trans (by rfl) hM
    | split
    | with_reducible intro _

theorem State.noteTime_frame {s : State} (hS : State.Frame M r s) (hM : 0x100000000000000000000000000000000000000 ||| M = M) :
    State.Frame M r (State.noteTime s) := by
  unfold State.noteTime
  try dsimp only
  repeat' first
    | (with_reducible first
        | assumption | exact fieldsMask_nil | apply fieldsMask_cons | apply State.setFs_frame)
    | exact Mask.trans (by rfl) hM
    | split
    | with_reducible intro _

theorem State.holdover_frame {s : State} (hS : State.Frame M r s) (hM : 0x24000000000000000000000000000000000 ||| M = M) :
    State.Frame M r (State.holdover s) := by
  unfold State.holdover
  try dsimp only
  repeat' first
    | (with_reducible first
        | assumption | apply State.bump_frame | apply State.setF_frame)
    | exact Mask.trans (by rfl) hM
    | split
    | with_reducible intro _

theorem State.chooseParent_frame {s : State} (hS : State.Frame M r s) (hM : 0x24000000000080000000000000000000000 ||| M = M) :
    State.Frame M r (State.chooseParent s) := by
  unfold State.chooseParent
  try dsimp only
  repeat' first
    | (with_reducible first
        | assumption | exact fieldsMask_nil | apply fieldsMask_cons | apply State.setFs_frame | apply State.holdover_frame)
    | exact Mask.trans (by rfl) hM
    | split
    | with_reducible apply State.Frame.foldl
    | with_reducible apply State.Frame.foldl_fst
    | with_reducible intro _

theorem State.linkOffset_frame {s : State} {e : Int} (hS : State.Frame M r s) (hM : 0x100400300055000000000000000000000000000000000 ||| M = M) :
    State.Frame M r (State.linkOffset s e) := by
  unfold State.linkOffset
  try dsimp only
  repeat' first
    | (with_reducible first
        | assumption | apply State.measure_frame | apply State.firstLock_frame | apply State.noteTime_frame | apply State.setF_frame)
    | exact Mask.trans (by rfl) hM
    | split
    | with_reducible intro _

theorem State.rejectEdge_frame {s : State} {f : Field} {stamp : Nat} (hS : State.Frame M r s) (hM : 0x100000000024000000000000000000000000000000000 ||| M = M) (hMf : f.reg.mask ||| M = M) :
    State.Frame M r (State.rejectEdge s f stamp) := by
  unfold State.rejectEdge
  try dsimp only
  repeat' first
    | (with_reducible first
        | assumption | apply State.updTime_frame | apply State.bump_frame | apply State.setF_frame)
    | exact Mask.trans (by rfl) hM
    | split
    | with_reducible intro _

theorem State.refEdge_frame {s : State} {stamp : Nat} {good : Nat} (hS : State.Frame M r s) (hM : 0x100000000000000000000000000000000000000000000 ||| M = M) :
    State.Frame M r (State.refEdge s stamp good) := by
  unfold State.refEdge
  try dsimp only
  repeat' first
    | (with_reducible first
        | assumption | apply State.updTime_frame)
    | exact Mask.trans (by rfl) hM
    | split
    | with_reducible intro _

theorem State.lockPps_frame {s : State} {stamp : Nat} (hS : State.Frame M r s) (hM : 0x100400300075000000000080000000000000000000000 ||| M = M) :
    State.Frame M r (State.lockPps s stamp) := by
  unfold State.lockPps
  try dsimp only
  repeat' first
    | (with_reducible first
        | assumption | apply State.refEdge_frame | apply State.measure_frame | apply State.firstLock_frame | apply State.noteTime_frame
        | apply State.chooseParent_frame | apply State.setF_frame)
    | exact Mask.trans (by rfl) hM
    | split
    | with_reducible intro _

theorem State.ppsEdge_frame {s : State} {stamp : Nat} (hS : State.Frame M r s) (hM : 0x100400300075000000000080000000000000000000000 ||| M = M) :
    State.Frame M r (State.ppsEdge s stamp) := by
  unfold State.ppsEdge
  try dsimp only
  repeat' first
    | (with_reducible first
        | assumption | apply State.rejectEdge_frame | apply State.measure_frame | apply State.refEdge_frame | apply State.lockPps_frame
        | apply State.setF_frame)
    | exact Mask.trans (by rfl) hM
    | split
    | with_reducible intro _

theorem execPpsEdge_frame {low : Nat} {s : State} (hS : State.Frame M r s) (hM : 0x100400300075000000000080000000000000000000000 ||| M = M) :
    AnsFrame M r (execPpsEdge low s) := by
  unfold execPpsEdge
  try dsimp only
  repeat' first
    | (with_reducible first
        | assumption | exact ansFrame_fault | apply ansFrame_next | apply State.ifB_frame | apply State.ppsEdge_frame)
    | exact Mask.trans (by rfl) hM
    | split
    | with_reducible intro _

theorem execStormEnd_frame {s : State} (hS : State.Frame M r s) (hM : 0x100000000004000000000000000000000000000000000 ||| M = M) :
    AnsFrame M r (execStormEnd s) := by
  unfold execStormEnd
  try dsimp only
  repeat' first
    | (with_reducible first
        | assumption | exact ansFrame_fault | apply ansFrame_next | apply State.ifB_frame | apply State.updTime_frame
        | apply State.setF_frame)
    | exact Mask.trans (by rfl) hM
    | split
    | with_reducible intro _

theorem execPpsTimeout_frame {s : State} (hS : State.Frame M r s) (hM : 0x100000000024000000000080000000000000000000000 ||| M = M) :
    AnsFrame M r (execPpsTimeout s) := by
  unfold execPpsTimeout
  try dsimp only
  repeat' first
    | (with_reducible first
        | assumption | exact ansFrame_fault | apply ansFrame_next | apply State.ifB_frame | apply State.updTime_frame
        | apply State.setF_frame | apply State.chooseParent_frame)
    | exact Mask.trans (by rfl) hM
    | split
    | with_reducible intro _

theorem State.readTimeNs_frame {s : State} (hS : State.Frame M r s) (hM : 0x2000000000000000000000000000000000 ||| M = M) :
    State.Frame M r (State.readTimeNs s) := by
  unfold State.readTimeNs
  try dsimp only
  repeat' first
    | (with_reducible first
        | assumption | apply State.setF_frame)
    | exact Mask.trans (by rfl) hM
    | split
    | with_reducible intro _

end Sys2Proof.Machine
end

