-- ==== Sys2Proof/Laws/FramePlates.lean ====
section
/-! SUPPORT. The frame of each operation of chases, the mailbox, the board pins and the plates: its mask, and that it changes nothing outside it. -/

set_option Elab.async false

namespace Sys2Proof.Machine

set_option linter.unusedTactic false
set_option linter.unreachableTactic false

variable {M : Nat} {r : State}

/-! ### Machine/Chase.lean -/

theorem State.busy_frame {s : State} {t : Ticket} (hS : State.Frame M r s) (hM : 0x8000000000000000000000000000000000000000 ||| M = M) :
    State.Frame M r (State.busy s t) := by
  unfold State.busy
  try dsimp only
  repeat' first
    | (with_reducible first
        | assumption | apply State.done_frame)
    | exact Mask.trans (by rfl) hM
    | split
    | with_reducible intro _

theorem State.copyPart_frame {s : State} {c : Nat} {map : List (Nat × Nat)} {src : Nat × Nat} {n : Nat} {dst : FrameEnt} {off : Nat} (hS : State.Frame M r s) (hM : 0x1ec000000000000000000000000400000000000000 ||| M = M) :
    State.Frame M r (State.copyPart s c map src n dst off) := by
  unfold State.copyPart
  try dsimp only
  repeat' first
    | (with_reducible first
        | assumption | apply State.devWrite_frame | apply State.devPoison_frame)
    | exact Mask.trans (by rfl) hM
    | split
    | with_reducible apply State.Frame.foldl
    | with_reducible apply State.Frame.foldl_fst
    | with_reducible intro _

theorem State.relayFrame_frame {s : State} {c : Nat} {r_ : Nat} {back : Nat → Option Nat} {x : GalState} {done : List (GalState × GalState)} {i : Nat} (hS : State.Frame M r s) (hM : 0x7ec200000000000000000000000400000000000000 ||| M = M) :
    State.Frame M r (State.relayFrame s c r_ back x done i).1 := by
  unfold State.relayFrame
  try dsimp only
  repeat' first
    | (with_reducible first
        | assumption | apply State.newGalFrame_frame | (refine State.newGalFrame_frame_eq (he := by assumption) ?_ ?_)
        | apply State.copyPart_frame)
    | exact Mask.trans (by rfl) hM
    | split
    | with_reducible apply State.Frame.foldl
    | with_reducible apply State.Frame.foldl_fst
    | with_reducible intro _

theorem State.relayFrame_frame_eq {s : State} {c : Nat} {r_ : Nat} {back : Nat → Option Nat} {x : GalState} {done : List (GalState × GalState)} {i : Nat} (hS : State.Frame M r s) (hM : 0x7ec200000000000000000000000400000000000000 ||| M = M) {u : State} {z : Option Nat} (he : State.relayFrame s c r_ back x done i = (u, z)) :
    State.Frame M r u := by
  have := State.relayFrame_frame hS hM (s := s) (c := c) (r_ := r_) (back := back) (x := x) (done := done) (i := i)
  rwa [he] at this

theorem State.relayState_frame {s : State} {c : Nat} {r_ : Nat} {rows : Nat} {back : Nat → Option Nat} {x : GalState} {done : List (GalState × GalState)} (hS : State.Frame M r s) (hM : 0x7ec200000000000000000000000400000000000000 ||| M = M) :
    State.Frame M r (State.relayState s c r_ rows back x done).1 := by
  unfold State.relayState
  try dsimp only
  repeat' first
    | (with_reducible first
        | assumption | apply State.relayFrame_frame | (refine State.relayFrame_frame_eq (he := by assumption) ?_ ?_))
    | exact Mask.trans (by rfl) hM
    | split
    | with_reducible apply State.Frame.foldl
    | with_reducible apply State.Frame.foldl_fst
    | with_reducible intro _

theorem State.relayState_frame_eq {s : State} {c : Nat} {r_ : Nat} {rows : Nat} {back : Nat → Option Nat} {x : GalState} {done : List (GalState × GalState)} (hS : State.Frame M r s) (hM : 0x7ec200000000000000000000000400000000000000 ||| M = M) {u : State} {z : GalState} (he : State.relayState s c r_ rows back x done = (u, z)) :
    State.Frame M r u := by
  have := State.relayState_frame hS hM (s := s) (c := c) (r_ := r_) (rows := rows) (back := back) (x := x) (done := done)
  rwa [he] at this

theorem State.relayMaster_frame {s : State} {c : Nat} {id : Nat} {n : Nat} {rows : Nat} {back : Nat → Option Nat} {old : List (Nat × Nat)} (hS : State.Frame M r s) (hM : 0x7ec200000000000000000000000400000000000000 ||| M = M) :
    State.Frame M r (State.relayMaster s c id n rows back old) := by
  unfold State.relayMaster
  try dsimp only
  repeat' first
    | (with_reducible first
        | assumption | apply State.ownMaster_frame | apply State.copyPart_frame)
    | exact Mask.trans (by rfl) hM
    | split
    | with_reducible apply State.Frame.foldl
    | with_reducible apply State.Frame.foldl_fst
    | with_reducible intro _

theorem State.keepGalley_frame {s : State} {c : Nat} {old : GalleySt} {d : Bytes} {m : Nat} {o : Nat} {m' : Nat} {o' : Nat} (hS : State.Frame M r s) (hM : 0x7ec200000000000000000000000400000000000000 ||| M = M) :
    State.Frame M r (State.keepGalley s c old d m o m' o') := by
  unfold State.keepGalley
  try dsimp only
  repeat' first
    | (with_reducible first
        | assumption | apply State.setGalley_frame | apply State.relayState_frame
        | (refine State.relayState_frame_eq (he := by assumption) ?_ ?_) | apply State.relayMaster_frame | apply State.updChase_frame)
    | exact Mask.trans (by rfl) hM
    | split
    | with_reducible apply State.Frame.foldl
    | with_reducible apply State.Frame.foldl_fst
    | with_reducible intro _

theorem State.mergeGalleys_frame {s : State} {c : Nat} {old : List (Nat × GalleySt)} {f : Bytes} {m : Nat} {o : Nat} {m' : Nat} {o' : Nat} (hS : State.Frame M r s) (hM : 0x7ec200000000000000000000000400000000000000 ||| M = M) :
    State.Frame M r (State.mergeGalleys s c old f m o m' o') := by
  unfold State.mergeGalleys
  try dsimp only
  repeat' first
    | (with_reducible first
        | assumption | apply State.keepGalley_frame | apply State.setGalley_frame | apply State.updChase_frame
        | apply State.sweepGal_frame)
    | exact Mask.trans (by rfl) hM
    | split
    | with_reducible apply State.Frame.foldl
    | with_reducible apply State.Frame.foldl_fst
    | with_reducible intro _

theorem State.leaveRegions_frame {s : State} {c : Nat} {mask : Nat} (hS : State.Frame M r s) (hM : 0x7ec0000000000000000000000004000c0000000000 ||| M = M) :
    State.Frame M r (State.leaveRegions s c mask) := by
  unfold State.leaveRegions
  try dsimp only
  repeat' first
    | (with_reducible first
        | assumption | apply State.demote_frame | apply State.dropStores_frame)
    | exact Mask.trans (by rfl) hM
    | split
    | with_reducible apply State.Frame.foldl
    | with_reducible apply State.Frame.foldl_fst
    | with_reducible intro _

theorem State.installForme_frame {s : State} {c : Nat} {f : Bytes} (hS : State.Frame M r s) (hM : 0x107ec2000000000000000000000e04000c00000000c8 ||| M = M) :
    State.Frame M r (State.installForme s c f) := by
  unfold State.installForme
  try dsimp only
  repeat' first
    | (with_reducible first
        | assumption | exact fieldsMask_nil | apply fieldsMask_cons | apply State.leaveRegions_frame | apply State.releaseMarks_frame
        | apply State.updChase_frame | apply State.mergeGalleys_frame | apply State.setFs_frame | apply State.assignMarks_frame)
    | exact Mask.trans (by rfl) hM
    | split
    | with_reducible intro _

theorem State.beginForme_frame {s : State} {c : Nat} (hS : State.Frame M r s) (hM : 0x400000000000000000000000000000000000000008 ||| M = M) :
    State.Frame M r (State.beginForme s c) := by
  unfold State.beginForme
  try dsimp only
  repeat' first
    | (with_reducible first
        | assumption | apply State.setF_frame | apply State.updChase_frame)
    | exact Mask.trans (by rfl) hM
    | split
    | with_reducible intro _

theorem State.endForme_frame {s : State} {c : Nat} (hS : State.Frame M r s) (hM : 0x8 ||| M = M) :
    State.Frame M r (State.endForme s c) := by
  unfold State.endForme
  try dsimp only
  repeat' first
    | (with_reducible first
        | assumption | apply State.setF_frame)
    | exact Mask.trans (by rfl) hM
    | split
    | with_reducible intro _

theorem State.loadForme_frame {s : State} {t : Ticket} (hS : State.Frame M r s) (hM : 0x107ee2000000000b00000000000e44000c00000000c8 ||| M = M) :
    State.Frame M r (State.loadForme s t) := by
  unfold State.loadForme
  try dsimp only
  repeat' first
    | (with_reducible first
        | assumption | apply State.srcRead_frame | (refine State.srcRead_frame_eq (he := by assumption) ?_ ?_) | apply State.done_frame
        | apply State.endForme_frame | apply State.noteErr_frame | apply State.installForme_frame)
    | exact Mask.trans (by rfl) hM
    | split
    | with_reducible intro _

theorem execFormeLoad_frame {ring : Nat} {x : TicketIn} {s : State} (hS : State.Frame M r s) (hM : 0x107ee2d40000000b00000000000e443e0c00000000ca ||| M = M) :
    AnsFrame M r (execFormeLoad ring x s) := by
  unfold execFormeLoad
  try dsimp only
  repeat' first
    | (with_reducible first
        | assumption | exact ansFrame_fault | apply ansFrame_next | apply State.withXfers_frame | apply State.ticketAct_frame
        | apply State.loadForme_frame | apply State.beginForme_frame | apply State.busy_frame)
    | exact Mask.trans (by rfl) hM
    | split
    | with_reducible intro _

theorem State.fixStart_frame {s : State} {c : Nat} (hS : State.Frame M r s) (hM : 0x20404000000000000000010000000000000000000040 ||| M = M) :
    State.Frame M r (State.fixStart s c) := by
  unfold State.fixStart
  try dsimp only
  repeat' first
    | (with_reducible first
        | assumption | apply State.updChase_frame | apply State.setF_frame | apply State.sendAll_frame)
    | exact Mask.trans (by rfl) hM
    | split
    | with_reducible intro _

theorem State.checkJoin_frame {s : State} {c : Nat} (hS : State.Frame M r s) (hM : 0x20fec2000000000000000100000004000c0000000048 ||| M = M) :
    State.Frame M r (State.checkJoin s c) := by
  unfold State.checkJoin
  try dsimp only
  repeat' first
    | (with_reducible first
        | assumption | apply State.failStart_frame | apply State.fixStart_frame)
    | exact Mask.trans (by rfl) hM
    | split
    | with_reducible intro _

theorem State.addJoin_frame {s : State} {c : Nat} {ordinal : Nat} {digest : Bytes} (hS : State.Frame M r s) (hM : 0x400000000000000000000000000000000000000000 ||| M = M) :
    State.Frame M r (State.addJoin s c ordinal digest) := by
  unfold State.addJoin
  try dsimp only
  repeat' first
    | (with_reducible first
        | assumption | apply State.updChase_frame)
    | exact Mask.trans (by rfl) hM
    | split
    | with_reducible intro _

theorem State.startChase_frame {s : State} {t : Ticket} (hS : State.Frame M r s) (hM : 0x30fec2000000000000000100000e04000e0000000148 ||| M = M) :
    State.Frame M r (State.startChase s t) := by
  unfold State.startChase
  try dsimp only
  repeat' first
    | (with_reducible first
        | assumption | exact fieldsMask_nil | apply fieldsMask_cons | apply State.busy_frame | apply State.failStart_frame
        | apply State.setFs_frame | apply State.updChase_frame | apply State.reserveGuests_frame | apply State.clearMarks_frame
        | apply State.sendAll_frame | apply State.addJoin_frame | apply State.checkJoin_frame)
    | exact Mask.trans (by rfl) hM
    | split
    | with_reducible intro _

theorem execChaseStart_frame {ring : Nat} {seq : Nat} {s : State} (hS : State.Frame M r s) (hM : 0x30fec2000000000000000100000e04000e0000000148 ||| M = M) :
    AnsFrame M r (execChaseStart ring seq s) := by
  unfold execChaseStart
  try dsimp only
  repeat' first
    | (with_reducible first
        | assumption | exact ansFrame_fault | apply ansFrame_next | apply State.ticketAct_frame | apply State.startChase_frame)
    | exact Mask.trans (by rfl) hM
    | split
    | with_reducible intro _

theorem execJoin_frame {slot : Nat} {ordinal : Nat} {digest : Bytes} {latency : Nat} {s : State} (hS : State.Frame M r s) (hM : 0x20fec2000000000000000100000004000c0000000148 ||| M = M) :
    AnsFrame M r (execJoin slot ordinal digest latency s) := by
  unfold execJoin
  try dsimp only
  repeat' first
    | (with_reducible first
        | assumption | exact ansFrame_fault | apply ansFrame_next | apply State.ifB_frame | apply State.addJoin_frame
        | apply State.ackCtl_frame | apply State.checkJoin_frame | apply State.raiseTo_frame)
    | exact Mask.trans (by rfl) hM
    | split
    | with_reducible intro _

theorem execJoinTimeout_frame {slot : Nat} {s : State} (hS : State.Frame M r s) (hM : 0x100fec6001010000000000000000004000c0000000308 ||| M = M) :
    AnsFrame M r (execJoinTimeout slot s) := by
  unfold execJoinTimeout
  try dsimp only
  repeat' first
    | (with_reducible first
        | assumption | exact ansFrame_fault | apply ansFrame_next | apply State.ifB_frame | apply State.failStart_frame
        | apply State.passTo_frame)
    | exact Mask.trans (by rfl) hM
    | split
    | with_reducible intro _

theorem execStart_frame {slot : Nat} {stroke : Nat} {epoch : Nat} {announce : Nat} {s : State} (hS : State.Frame M r s) (hM : 0x20404000000000000000010000000000000000000140 ||| M = M) :
    AnsFrame M r (execStart slot stroke epoch announce s) := by
  unfold execStart
  try dsimp only
  repeat' first
    | (with_reducible first
        | assumption | exact ansFrame_fault | apply ansFrame_next | exact fieldsMask_nil | apply fieldsMask_cons | apply State.ifB_frame
        | apply State.updChase_frame | apply State.setFs_frame | apply State.ackCtl_frame)
    | exact Mask.trans (by rfl) hM
    | split
    | with_reducible intro _

theorem State.setStop_frame {s : State} {c : Nat} {n : Nat} (hS : State.Frame M r s) (hM : 0x93608000000880000000000000000000000000000108 ||| M = M) :
    State.Frame M r (State.setStop s c n) := by
  unfold State.setStop
  try dsimp only
  repeat' first
    | (with_reducible first
        | assumption | apply State.updChase_frame | apply State.setF_frame | apply State.stopped_frame)
    | exact Mask.trans (by rfl) hM
    | split
    | with_reducible intro _

theorem State.stopChase_frame {s : State} {t : Ticket} (hS : State.Frame M r s) (hM : 0xb360c000000880000000010000000000000000000108 ||| M = M) :
    State.Frame M r (State.stopChase s t) := by
  unfold State.stopChase
  try dsimp only
  repeat' first
    | (with_reducible first
        | assumption | apply State.updChase_frame | apply State.setF_frame | apply State.done_frame | apply State.freeAllDraining_frame
        | apply State.endStart_frame | apply State.setStop_frame | apply State.sendAll_frame | apply State.busy_frame)
    | exact Mask.trans (by rfl) hM
    | split
    | with_reducible intro _

theorem execChaseStop_frame {ring : Nat} {seq : Nat} {s : State} (hS : State.Frame M r s) (hM : 0xb360c000000880000000010000000000000000000108 ||| M = M) :
    AnsFrame M r (execChaseStop ring seq s) := by
  unfold execChaseStop
  try dsimp only
  repeat' first
    | (with_reducible first
        | assumption | exact ansFrame_fault | apply ansFrame_next | apply State.ticketAct_frame | apply State.stopChase_frame)
    | exact Mask.trans (by rfl) hM
    | split
    | with_reducible intro _

theorem execStop_frame {slot : Nat} {ordinal : Nat} {stroke : Nat} {s : State} (hS : State.Frame M r s) (hM : 0xb360c000000880000000010000000000000000000108 ||| M = M) :
    AnsFrame M r (execStop slot ordinal stroke s) := by
  unfold execStop
  try dsimp only
  repeat' first
    | (with_reducible first
        | assumption | exact ansFrame_fault | apply ansFrame_next | apply State.ifB_frame | apply State.setStop_frame
        | apply State.ackCtl_frame)
    | exact Mask.trans (by rfl) hM
    | split
    | with_reducible intro _

theorem State.tearDown_frame {s : State} {c : Nat} (hS : State.Frame M r s) (hM : 0x2f3e68003e808800000000000007e02001f00000007e8 ||| M = M) :
    State.Frame M r (State.tearDown s c) := by
  unfold State.tearDown
  try dsimp only
  repeat' first
    | (with_reducible first
        | assumption | apply State.dropInk_frame | apply State.freeFrames_frame | apply State.releaseMarks_frame | apply State.setF_frame
        | apply State.setChase_frame | apply State.resetSlotRegs_frame | apply State.dropGroups_frame | apply State.freeSamples_frame
        | apply State.slotEmptied_frame | apply State.updFab_frame)
    | exact Mask.trans (by rfl) hM
    | split
    | with_reducible apply State.Frame.foldl
    | with_reducible apply State.Frame.foldl_fst
    | (fail_if_no_progress
        with_reducible refine State.Frame.rest ?_ ?hp
        case hp => intro p hp; cases p <;> first | exact Mask.clash hM hp rfl | with_reducible exact rfl)
    | with_reducible intro _

theorem execChaseTeardown_frame {ring : Nat} {seq : Nat} {s : State} (hS : State.Frame M r s) (hM : 0x2f3e68003e808800000000000007e02001f00000007e8 ||| M = M) :
    AnsFrame M r (execChaseTeardown ring seq s) := by
  unfold execChaseTeardown
  try dsimp only
  repeat' first
    | (with_reducible first
        | assumption | exact ansFrame_fault | apply ansFrame_next | apply State.ticketAct_frame | apply State.done_frame
        | apply State.tearDown_frame | apply State.busy_frame)
    | exact Mask.trans (by rfl) hM
    | split
    | with_reducible intro _

/-! ### Machine/Security.lean -/

theorem State.updSec_frame {s : State} {f : SecSt → SecSt} (hS : State.Frame M r s) (hM : 0x200000000000000000000000000000000000000000000 ||| M = M) :
    State.Frame M r (State.updSec s f) := by
  unfold State.updSec
  try dsimp only
  repeat' first
    | (with_reducible first
        | assumption)
    | exact Mask.trans (by rfl) hM
    | split
    | (fail_if_no_progress
        with_reducible refine State.Frame.rest ?_ ?hp
        case hp => intro p hp; cases p <;> first | exact Mask.clash hM hp rfl | with_reducible exact rfl)
    | with_reducible intro _

theorem State.newChallenge_frame {s : State} (hS : State.Frame M r s) (hM : 0x200000200000000000000000000000000000000000000 ||| M = M) :
    State.Frame M r (State.newChallenge s).1 := by
  unfold State.newChallenge
  try dsimp only
  repeat' first
    | (with_reducible first
        | assumption | apply State.fresh_frame | (refine State.fresh_frame_eq (he := by assumption) ?_ ?_) | apply State.updSec_frame)
    | exact Mask.trans (by rfl) hM
    | split
    | with_reducible intro _

theorem State.newChallenge_frame_eq {s : State} (hS : State.Frame M r s) (hM : 0x200000200000000000000000000000000000000000000 ||| M = M) {u : State} {z : Bytes} (he : State.newChallenge s = (u, z)) :
    State.Frame M r u := by
  have := State.newChallenge_frame hS hM (s := s)
  rwa [he] at this

theorem State.readColophon_frame {s : State} {first : Nat} {count : Nat} (hS : State.Frame M r s) :
    State.Frame M r (State.readColophon s first count).1 := by
  unfold State.readColophon
  try dsimp only
  repeat' first
    | (with_reducible first
        | assumption)
    | split
    | with_reducible intro _

theorem State.readColophon_frame_eq {s : State} {first : Nat} {count : Nat} (hS : State.Frame M r s) {u : State} {z : Bytes} (he : State.readColophon s first count = (u, z)) :
    State.Frame M r u := by
  have := State.readColophon_frame hS (s := s) (first := first) (count := count)
  rwa [he] at this

theorem State.storeSettings_frame {s : State} {f : Settings → Settings} (hS : State.Frame M r s) (hM : 0x200000000000000000000000000000000000000000000 ||| M = M) :
    State.Frame M r (State.storeSettings s f) := by
  unfold State.storeSettings
  try dsimp only
  repeat' first
    | (with_reducible first
        | assumption | apply State.updSec_frame)
    | exact Mask.trans (by rfl) hM
    | split
    | with_reducible intro _

theorem State.setNet_frame {s : State} {d : Bytes} (hS : State.Frame M r s) (hM : 0x20000000000000000003c000000000000000000000000 ||| M = M) :
    State.Frame M r (State.setNet s d) := by
  unfold State.setNet
  try dsimp only
  repeat' first
    | (with_reducible first
        | assumption | exact fieldsMask_nil | apply fieldsMask_cons | apply State.setFs_frame | apply State.storeSettings_frame)
    | exact Mask.trans (by rfl) hM
    | split
    | with_reducible intro _

theorem State.setFabric_frame {s : State} {d : Bytes} (hS : State.Frame M r s) (hM : 0x200000000000000000000002000000000000000000000 ||| M = M) :
    State.Frame M r (State.setFabric s d) := by
  unfold State.setFabric
  try dsimp only
  repeat' first
    | (with_reducible first
        | assumption | exact fieldsMask_nil | apply fieldsMask_cons | apply State.setFs_frame | apply State.storeSettings_frame)
    | exact Mask.trans (by rfl) hM
    | split
    | with_reducible intro _

theorem State.grantAuth_frame {s : State} {kind : Nat} {mask : Nat} {seconds : Nat} {creds : List Nat} (hS : State.Frame M r s) (hM : 0x200000000200000000000000000000000000000000000 ||| M = M) :
    State.Frame M r (State.grantAuth s kind mask seconds creds) := by
  unfold State.grantAuth
  try dsimp only
  repeat' first
    | (with_reducible first
        | assumption | apply State.showAuths_frame | apply State.updSec_frame)
    | exact Mask.trans (by rfl) hM
    | split
    | with_reducible intro _

theorem State.showCreds_frame {s : State} (hS : State.Frame M r s) (hM : 0x80000000000000000000000000000000000 ||| M = M) :
    State.Frame M r (State.showCreds s) := by
  unfold State.showCreds
  try dsimp only
  repeat' first
    | (with_reducible first
        | assumption | exact fieldsMask_nil | apply fieldsMask_cons | apply State.setFs_frame)
    | exact Mask.trans (by rfl) hM
    | split
    | with_reducible intro _

theorem State.revoke_frame {s : State} {id : Nat} (hS : State.Frame M r s) (hM : 0x200000003e80000000000000000000000000000000000 ||| M = M) :
    State.Frame M r (State.revoke s id) := by
  unfold State.revoke
  try dsimp only
  repeat' first
    | (with_reducible first
        | assumption | apply State.updSec_frame | apply State.endAuth_frame | apply State.showCreds_frame)
    | exact Mask.trans (by rfl) hM
    | split
    | with_reducible apply State.Frame.foldl
    | with_reducible apply State.Frame.foldl_fst
    | with_reducible intro _

theorem State.zeroise_frame {s : State} (hS : State.Frame M r s) (hM : 0x200000001880000000000000000000000000000000000 ||| M = M) :
    State.Frame M r (State.zeroise s) := by
  unfold State.zeroise
  try dsimp only
  repeat' first
    | (with_reducible first
        | assumption | exact fieldsMask_nil | apply fieldsMask_cons | apply State.checkpoint_frame | apply State.setFs_frame
        | apply State.showCreds_frame | apply State.updSec_frame)
    | exact Mask.trans (by rfl) hM
    | split
    | with_reducible intro _

theorem State.mbApply_frame {s : State} {op : Nat} {d : Bytes} {creds : List Nat} (hS : State.Frame M r s) (hM : 0x200000203e8004000003c002000000000000000000000 ||| M = M) :
    State.Frame M r (State.mbApply s op d creds).1 := by
  unfold State.mbApply
  try dsimp only
  repeat' first
    | (with_reducible first
        | assumption | apply State.newChallenge_frame | (refine State.newChallenge_frame_eq (he := by assumption) ?_ ?_)
        | apply State.readColophon_frame | (refine State.readColophon_frame_eq (he := by assumption) ?_) | apply State.setF_frame
        | apply State.storeSettings_frame | apply State.setFabric_frame | apply State.updSec_frame | apply State.setNet_frame
        | apply State.note_frame | apply State.dropAuth_frame | apply State.grantAuth_frame | apply State.showCreds_frame
        | apply State.revoke_frame | apply State.endAuth_frame | apply State.zeroise_frame)
    | exact Mask.trans (by rfl) hM
    | split
    | with_reducible intro _

theorem State.mbApply_frame_eq {s : State} {op : Nat} {d : Bytes} {creds : List Nat} (hS : State.Frame M r s) (hM : 0x200000203e8004000003c002000000000000000000000 ||| M = M) {u : State} {z : Bytes} (he : State.mbApply s op d creds = (u, z)) :
    State.Frame M r u := by
  have := State.mbApply_frame hS hM (s := s) (op := op) (d := d) (creds := creds)
  rwa [he] at this

theorem State.coverNewest_frame {s : State} (hS : State.Frame M r s) (hM : 0x200000001880000000000000000000000000000000000 ||| M = M) :
    State.Frame M r (State.coverNewest s) := by
  unfold State.coverNewest
  try dsimp only
  repeat' first
    | (with_reducible first
        | assumption | apply State.checkpoint_frame)
    | exact Mask.trans (by rfl) hM
    | split
    | with_reducible intro _

theorem State.mbRun_frame {s : State} {b : Bytes} {storage : Bool} (hS : State.Frame M r s) (hM : 0x200000203e8004000003c002000000000000000000000 ||| M = M) :
    State.Frame M r (State.mbRun s b storage).1 := by
  unfold State.mbRun
  try dsimp only
  repeat' first
    | (with_reducible first
        | assumption | apply State.updSec_frame | apply State.note_frame | apply State.mbApply_frame
        | (refine State.mbApply_frame_eq (he := by assumption) ?_ ?_) | apply State.record_frame
        | (refine State.record_frame_eq (he := by assumption) ?_ ?_) | apply State.coverNewest_frame)
    | exact Mask.trans (by rfl) hM
    | split
    | with_reducible intro _

theorem State.mbRun_frame_eq {s : State} {b : Bytes} {storage : Bool} (hS : State.Frame M r s) (hM : 0x200000203e8004000003c002000000000000000000000 ||| M = M) {u : State} {z : Nat × Bytes} (he : State.mbRun s b storage = (u, z)) :
    State.Frame M r u := by
  have := State.mbRun_frame hS hM (s := s) (b := b) (storage := storage)
  rwa [he] at this

theorem State.mbGo_frame {s : State} {storage : Bool} (hS : State.Frame M r s) (hM : 0x200000203f8004000003c002000000000000000000000 ||| M = M) :
    State.Frame M r (State.mbGo s storage).1 := by
  unfold State.mbGo
  try dsimp only
  repeat' first
    | (with_reducible first
        | assumption | exact fieldsMask_nil | apply fieldsMask_cons | apply State.mbRun_frame
        | (refine State.mbRun_frame_eq (he := by assumption) ?_ ?_) | apply State.setFs_frame | apply State.updSec_frame)
    | exact Mask.trans (by rfl) hM
    | split
    | with_reducible intro _

theorem State.mbGo_frame_eq {s : State} {storage : Bool} (hS : State.Frame M r s) (hM : 0x200000203f8004000003c002000000000000000000000 ||| M = M) {u : State} {z : Nat × Bytes} (he : State.mbGo s storage = (u, z)) :
    State.Frame M r u := by
  have := State.mbGo_frame hS hM (s := s) (storage := storage)
  rwa [he] at this

theorem State.mailbox_frame {s : State} {op : Nat} {rid : Option Nat} {msg : Bytes} {storage : Bool} (hS : State.Frame M r s) (hM : 0x200004203f8004010003c002000000000000000000000 ||| M = M) :
    State.Frame M r (State.mailbox s op rid msg storage) := by
  unfold State.mailbox
  try dsimp only
  repeat' first
    | (with_reducible first
        | assumption | apply State.hostWrite_frame | apply State.ifB_frame | apply State.setF_frame | apply State.mbGo_frame
        | (refine State.mbGo_frame_eq (he := by assumption) ?_ ?_) | apply State.emit_frame | apply State.updSec_frame)
    | exact Mask.trans (by rfl) hM
    | split
    | with_reducible intro _

theorem State.islandFails_frame {s : State} (hS : State.Frame M r s) (hM : 0x200000003c80000000000000000000000000000000000 ||| M = M) :
    State.Frame M r (State.islandFails s) := by
  unfold State.islandFails
  try dsimp only
  repeat' first
    | (with_reducible first
        | assumption | exact fieldsMask_nil | apply fieldsMask_cons | apply State.ifB_frame | apply State.setFs_frame
        | apply State.note_frame)
    | exact Mask.trans (by rfl) hM
    | split
    | with_reducible intro _

theorem execGetChallenge_frame {rid : Option Nat} {msg : Bytes} {sound : Bool} {s : State} (hS : State.Frame M r s) (hM : 0x200004203f8004010003c002000000000000000000000 ||| M = M) :
    AnsFrame M r (execGetChallenge rid msg sound s) := by
  unfold execGetChallenge
  try dsimp only
  repeat' first
    | (with_reducible first
        | assumption | exact ansFrame_fault | apply ansFrame_next | apply State.mailbox_frame | apply State.ifB_frame
        | apply State.islandFails_frame)
    | exact Mask.trans (by rfl) hM
    | split
    | with_reducible intro _

theorem execReadColophon_frame {rid : Option Nat} {msg : Bytes} {storage : Bool} {s : State} (hS : State.Frame M r s) (hM : 0x200004203f8004010003c002000000000000000000000 ||| M = M) :
    AnsFrame M r (execReadColophon rid msg storage s) := by
  unfold execReadColophon
  try dsimp only
  repeat' first
    | (with_reducible first
        | assumption | exact ansFrame_fault | apply ansFrame_next | apply State.mailbox_frame)
    | exact Mask.trans (by rfl) hM
    | split
    | with_reducible intro _

theorem execGetIdentity_frame {rid : Option Nat} {msg : Bytes} {storage : Bool} {s : State} (hS : State.Frame M r s) (hM : 0x200004203f8004010003c002000000000000000000000 ||| M = M) :
    AnsFrame M r (execGetIdentity rid msg storage s) := by
  unfold execGetIdentity
  try dsimp only
  repeat' first
    | (with_reducible first
        | assumption | exact ansFrame_fault | apply ansFrame_next | apply State.mailbox_frame)
    | exact Mask.trans (by rfl) hM
    | split
    | with_reducible intro _

theorem execSetEnvelope_frame {rid : Option Nat} {msg : Bytes} {storage : Bool} {s : State} (hS : State.Frame M r s) (hM : 0x200004203f8004010003c002000000000000000000000 ||| M = M) :
    AnsFrame M r (execSetEnvelope rid msg storage s) := by
  unfold execSetEnvelope
  try dsimp only
  repeat' first
    | (with_reducible first
        | assumption | exact ansFrame_fault | apply ansFrame_next | apply State.mailbox_frame)
    | exact Mask.trans (by rfl) hM
    | split
    | with_reducible intro _

theorem execSetNodeId_frame {rid : Option Nat} {msg : Bytes} {storage : Bool} {s : State} (hS : State.Frame M r s) (hM : 0x200004203f8004010003c002000000000000000000000 ||| M = M) :
    AnsFrame M r (execSetNodeId rid msg storage s) := by
  unfold execSetNodeId
  try dsimp only
  repeat' first
    | (with_reducible first
        | assumption | exact ansFrame_fault | apply ansFrame_next | apply State.mailbox_frame)
    | exact Mask.trans (by rfl) hM
    | split
    | with_reducible intro _

theorem execSetFabric_frame {rid : Option Nat} {msg : Bytes} {storage : Bool} {s : State} (hS : State.Frame M r s) (hM : 0x200004203f8004010003c002000000000000000000000 ||| M = M) :
    AnsFrame M r (execSetFabric rid msg storage s) := by
  unfold execSetFabric
  try dsimp only
  repeat' first
    | (with_reducible first
        | assumption | exact ansFrame_fault | apply ansFrame_next | apply State.mailbox_frame)
    | exact Mask.trans (by rfl) hM
    | split
    | with_reducible intro _

theorem execFwStage_frame {rid : Option Nat} {msg : Bytes} {storage : Bool} {s : State} (hS : State.Frame M r s) (hM : 0x200004203f8004010003c002000000000000000000000 ||| M = M) :
    AnsFrame M r (execFwStage rid msg storage s) := by
  unfold execFwStage
  try dsimp only
  repeat' first
    | (with_reducible first
        | assumption | exact ansFrame_fault | apply ansFrame_next | apply State.mailbox_frame)
    | exact Mask.trans (by rfl) hM
    | split
    | with_reducible intro _

theorem execSetNetId_frame {rid : Option Nat} {msg : Bytes} {storage : Bool} {s : State} (hS : State.Frame M r s) (hM : 0x200004203f8004010003c002000000000000000000000 ||| M = M) :
    AnsFrame M r (execSetNetId rid msg storage s) := by
  unfold execSetNetId
  try dsimp only
  repeat' first
    | (with_reducible first
        | assumption | exact ansFrame_fault | apply ansFrame_next | apply State.mailbox_frame)
    | exact Mask.trans (by rfl) hM
    | split
    | with_reducible intro _

theorem execDebugSession_frame {rid : Option Nat} {msg : Bytes} {storage : Bool} {s : State} (hS : State.Frame M r s) (hM : 0x200004203f8004010003c002000000000000000000000 ||| M = M) :
    AnsFrame M r (execDebugSession rid msg storage s) := by
  unfold execDebugSession
  try dsimp only
  repeat' first
    | (with_reducible first
        | assumption | exact ansFrame_fault | apply ansFrame_next | apply State.mailbox_frame)
    | exact Mask.trans (by rfl) hM
    | split
    | with_reducible intro _

theorem execFenceWrite_frame {rid : Option Nat} {msg : Bytes} {storage : Bool} {s : State} (hS : State.Frame M r s) (hM : 0x200004203f8004010003c002000000000000000000000 ||| M = M) :
    AnsFrame M r (execFenceWrite rid msg storage s) := by
  unfold execFenceWrite
  try dsimp only
  repeat' first
    | (with_reducible first
        | assumption | exact ansFrame_fault | apply ansFrame_next | apply State.mailbox_frame)
    | exact Mask.trans (by rfl) hM
    | split
    | with_reducible intro _

theorem execEnrol_frame {rid : Option Nat} {msg : Bytes} {storage : Bool} {s : State} (hS : State.Frame M r s) (hM : 0x200004203f8004010003c002000000000000000000000 ||| M = M) :
    AnsFrame M r (execEnrol rid msg storage s) := by
  unfold execEnrol
  try dsimp only
  repeat' first
    | (with_reducible first
        | assumption | exact ansFrame_fault | apply ansFrame_next | apply State.mailbox_frame)
    | exact Mask.trans (by rfl) hM
    | split
    | with_reducible intro _

theorem execDebugUnlock_frame {rid : Option Nat} {msg : Bytes} {storage : Bool} {s : State} (hS : State.Frame M r s) (hM : 0x200004203f8004010003c002000000000000000000000 ||| M = M) :
    AnsFrame M r (execDebugUnlock rid msg storage s) := by
  unfold execDebugUnlock
  try dsimp only
  repeat' first
    | (with_reducible first
        | assumption | exact ansFrame_fault | apply ansFrame_next | apply State.mailbox_frame)
    | exact Mask.trans (by rfl) hM
    | split
    | with_reducible intro _

theorem execRepairAccess_frame {rid : Option Nat} {msg : Bytes} {storage : Bool} {s : State} (hS : State.Frame M r s) (hM : 0x200004203f8004010003c002000000000000000000000 ||| M = M) :
    AnsFrame M r (execRepairAccess rid msg storage s) := by
  unfold execRepairAccess
  try dsimp only
  repeat' first
    | (with_reducible first
        | assumption | exact ansFrame_fault | apply ansFrame_next | apply State.mailbox_frame)
    | exact Mask.trans (by rfl) hM
    | split
    | with_reducible intro _

theorem execZeroise_frame {rid : Option Nat} {msg : Bytes} {storage : Bool} {s : State} (hS : State.Frame M r s) (hM : 0x200004203f8004010003c002000000000000000000000 ||| M = M) :
    AnsFrame M r (execZeroise rid msg storage s) := by
  unfold execZeroise
  try dsimp only
  repeat' first
    | (with_reducible first
        | assumption | exact ansFrame_fault | apply ansFrame_next | apply State.mailbox_frame)
    | exact Mask.trans (by rfl) hM
    | split
    | with_reducible intro _

theorem execChallengeLapse_frame {challenge : Nat} {s : State} (hS : State.Frame M r s) (hM : 0x200000000000000000000000000000000000000000000 ||| M = M) :
    AnsFrame M r (execChallengeLapse challenge s) := by
  unfold execChallengeLapse
  try dsimp only
  repeat' first
    | (with_reducible first
        | assumption | exact ansFrame_fault | apply ansFrame_next | apply State.ifB_frame | apply State.updSec_frame)
    | exact Mask.trans (by rfl) hM
    | split
    | with_reducible intro _

theorem execSessionLapse_frame {s : State} (hS : State.Frame M r s) (hM : 0x200000003e80000000000000000000000000000000000 ||| M = M) :
    AnsFrame M r (execSessionLapse s) := by
  unfold execSessionLapse
  try dsimp only
  repeat' first
    | (with_reducible first
        | assumption | exact ansFrame_fault | apply ansFrame_next | apply State.ifB_frame | apply State.endAuth_frame)
    | exact Mask.trans (by rfl) hM
    | split
    | with_reducible intro _

theorem execAuthEnd_frame {kind : Nat} {s : State} (hS : State.Frame M r s) (hM : 0x200000003e80000000000000000000000000000000000 ||| M = M) :
    AnsFrame M r (execAuthEnd kind s) := by
  unfold execAuthEnd
  try dsimp only
  repeat' first
    | (with_reducible first
        | assumption | exact ansFrame_fault | apply ansFrame_next | apply State.ifB_frame | apply State.endAuth_frame)
    | exact Mask.trans (by rfl) hM
    | split
    | with_reducible intro _

theorem execCheckpoint_frame {s : State} (hS : State.Frame M r s) (hM : 0x200000001880000000000000000000000000000000000 ||| M = M) :
    AnsFrame M r (execCheckpoint s) := by
  unfold execCheckpoint
  try dsimp only
  repeat' first
    | (with_reducible first
        | assumption | exact ansFrame_fault | apply ansFrame_next | apply State.ifB_frame | apply State.coverNewest_frame)
    | exact Mask.trans (by rfl) hM
    | split
    | with_reducible intro _

theorem execBoundaryScan_frame {code : Nat} {s : State} (hS : State.Frame M r s) (hM : 0x4000000000000000000000000000000000000000 ||| M = M) :
    AnsFrame M r (execBoundaryScan code s) := by
  unfold execBoundaryScan
  try dsimp only
  repeat' first
    | (with_reducible first
        | assumption | exact ansFrame_fault | apply ansFrame_next | apply State.ifB_frame | apply State.emit_frame)
    | exact Mask.trans (by rfl) hM
    | split
    | with_reducible intro _

theorem execInternalScan_frame {extended : Bool} {s : State} (hS : State.Frame M r s) (hM : 0x4001000000000000000000000000000000000000 ||| M = M) :
    AnsFrame M r (execInternalScan extended s) := by
  unfold execInternalScan
  try dsimp only
  repeat' first
    | (with_reducible first
        | assumption | exact ansFrame_fault | apply ansFrame_next | apply State.ifB_frame | apply State.emit_frame
        | apply State.bump_frame)
    | exact Mask.trans (by rfl) hM
    | split
    | with_reducible intro _

theorem State.spdmIf_frame {s : State} {ok : Bool} {f : State → State} (hS : State.Frame M r s) (hSf : ∀ (y0 : State), State.Frame M r y0 → State.Frame M r (f y0)) (hM : 0x4000000000000000000000000000000000000000 ||| M = M) :
    State.Frame M r (State.spdmIf s ok f) := by
  unfold State.spdmIf
  try dsimp only
  repeat' first
    | (with_reducible first
        | assumption | apply hSf | apply State.emit_frame)
    | exact Mask.trans (by rfl) hM
    | split
    | with_reducible intro _

theorem State.spdmSigned_frame {s : State} {code : Nat} {data : Bytes} (hS : State.Frame M r s) (hM : 0x4200000000000000000000000000000000000000 ||| M = M) :
    State.Frame M r (State.spdmSigned s code data) := by
  unfold State.spdmSigned
  try dsimp only
  repeat' first
    | (with_reducible first
        | assumption | apply State.freshBytes_frame | (refine State.freshBytes_frame_eq (he := by assumption) ?_ ?_)
        | apply State.emit_frame)
    | exact Mask.trans (by rfl) hM
    | split
    | with_reducible intro _

theorem execGetVersion_frame {s : State} (hS : State.Frame M r s) (hM : 0x200004000000000000000000000000000000000000000 ||| M = M) :
    AnsFrame M r (execGetVersion s) := by
  unfold execGetVersion
  try dsimp only
  repeat' first
    | (with_reducible first
        | assumption | exact ansFrame_fault | apply ansFrame_next | apply State.spdmIf_frame | apply State.emit_frame
        | apply State.updSec_frame)
    | exact Mask.trans (by rfl) hM
    | split
    | with_reducible intro _

theorem execGetCapabilities_frame {s : State} (hS : State.Frame M r s) (hM : 0x200004000000000000000000000000000000000000000 ||| M = M) :
    AnsFrame M r (execGetCapabilities s) := by
  unfold execGetCapabilities
  try dsimp only
  repeat' first
    | (with_reducible first
        | assumption | exact ansFrame_fault | apply ansFrame_next | apply State.spdmIf_frame | apply State.emit_frame
        | apply State.updSec_frame)
    | exact Mask.trans (by rfl) hM
    | split
    | with_reducible intro _

theorem execNegotiateAlgorithms_frame {s : State} (hS : State.Frame M r s) (hM : 0x200004000000000000000000000000000000000000000 ||| M = M) :
    AnsFrame M r (execNegotiateAlgorithms s) := by
  unfold execNegotiateAlgorithms
  try dsimp only
  repeat' first
    | (with_reducible first
        | assumption | exact ansFrame_fault | apply ansFrame_next | apply State.spdmIf_frame | apply State.emit_frame
        | apply State.updSec_frame)
    | exact Mask.trans (by rfl) hM
    | split
    | with_reducible intro _

theorem execGetDigests_frame {s : State} (hS : State.Frame M r s) (hM : 0x4000000000000000000000000000000000000000 ||| M = M) :
    AnsFrame M r (execGetDigests s) := by
  unfold execGetDigests
  try dsimp only
  repeat' first
    | (with_reducible first
        | assumption | exact ansFrame_fault | apply ansFrame_next | apply State.spdmIf_frame | apply State.emit_frame)
    | exact Mask.trans (by rfl) hM
    | split
    | with_reducible intro _

theorem execGetCertificate_frame {slot : Nat} {offset : Nat} {length : Nat} {s : State} (hS : State.Frame M r s) (hM : 0x4000000000000000000000000000000000000000 ||| M = M) :
    AnsFrame M r (execGetCertificate slot offset length s) := by
  unfold execGetCertificate
  try dsimp only
  repeat' first
    | (with_reducible first
        | assumption | exact ansFrame_fault | apply ansFrame_next | apply State.spdmIf_frame | apply State.emit_frame)
    | exact Mask.trans (by rfl) hM
    | split
    | with_reducible intro _

theorem execChallenge_frame {slot : Nat} {nonce : Bytes} {s : State} (hS : State.Frame M r s) (hM : 0x4200000000000000000000000000000000000000 ||| M = M) :
    AnsFrame M r (execChallenge slot nonce s) := by
  unfold execChallenge
  try dsimp only
  repeat' first
    | (with_reducible first
        | assumption | exact ansFrame_fault | apply ansFrame_next | apply State.spdmIf_frame | apply State.freshBytes_frame
        | (refine State.freshBytes_frame_eq (he := by assumption) ?_ ?_) | apply State.spdmSigned_frame)
    | exact Mask.trans (by rfl) hM
    | split
    | with_reducible intro _

theorem execGetMeasurements_frame {index : Nat} {sign : Bool} {s : State} (hS : State.Frame M r s) (hM : 0x4200000000000000000000000000000000000000 ||| M = M) :
    AnsFrame M r (execGetMeasurements index sign s) := by
  unfold execGetMeasurements
  try dsimp only
  repeat' first
    | (with_reducible first
        | assumption | exact ansFrame_fault | apply ansFrame_next | apply State.spdmIf_frame | apply State.spdmSigned_frame
        | apply State.emit_frame)
    | exact Mask.trans (by rfl) hM
    | split
    | with_reducible intro _

/-! ### Machine/Board.lean -/

theorem execInkBaseSample_frame {b : Nat} {s : State} (hS : State.Frame M r s) (hM : 0x400000000a80000000000000000000000000000000 ||| M = M) :
    AnsFrame M r (execInkBaseSample b s) := by
  unfold execInkBaseSample
  try dsimp only
  repeat' first
    | (with_reducible first
        | assumption | exact ansFrame_fault | apply ansFrame_next | apply State.ifB_frame | apply State.fitLedger_frame
        | apply State.setF_frame)
    | exact Mask.trans (by rfl) hM
    | split
    | with_reducible intro _

theorem State.updInk_frame {s : State} {f : InkSt → InkSt} (hS : State.Frame M r s) (hM : 0x80000000000000000000000000000000000000000000 ||| M = M) :
    State.Frame M r (State.updInk s f) := by
  unfold State.updInk
  try dsimp only
  repeat' first
    | (with_reducible first
        | assumption)
    | exact Mask.trans (by rfl) hM
    | split
    | (fail_if_no_progress
        with_reducible refine State.Frame.rest ?_ ?hp
        case hp => intro p hp; cases p <;> first | exact Mask.clash hM hp rfl | with_reducible exact rfl)
    | with_reducible intro _

theorem execThrottleFall_frame {s : State} (hS : State.Frame M r s) (hM : 0x80000000000000000000000000000000000000000000 ||| M = M) :
    AnsFrame M r (execThrottleFall s) := by
  unfold execThrottleFall
  try dsimp only
  repeat' first
    | (with_reducible first
        | assumption | exact ansFrame_fault | apply ansFrame_next | apply State.ifB_frame | apply State.updInk_frame)
    | exact Mask.trans (by rfl) hM
    | split
    | with_reducible intro _

theorem execThrottleQualify_frame {s : State} (hS : State.Frame M r s) (hM : 0x80400000000bc0000000000000000000000000000000 ||| M = M) :
    AnsFrame M r (execThrottleQualify s) := by
  unfold execThrottleQualify
  try dsimp only
  repeat' first
    | (with_reducible first
        | assumption | exact ansFrame_fault | apply ansFrame_next | apply State.ifB_frame | apply State.setF_frame
        | apply State.updInk_frame | apply State.setEnvelope_frame | apply State.bump_frame)
    | exact Mask.trans (by rfl) hM
    | split
    | with_reducible intro _

theorem execThrottleRise_frame {s : State} (hS : State.Frame M r s) (hM : 0x80000000000100000000000000000000000000000000 ||| M = M) :
    AnsFrame M r (execThrottleRise s) := by
  unfold execThrottleRise
  try dsimp only
  repeat' first
    | (with_reducible first
        | assumption | exact ansFrame_fault | apply ansFrame_next | apply State.ifB_frame | apply State.updInk_frame
        | apply State.bump_frame)
    | exact Mask.trans (by rfl) hM
    | split
    | with_reducible intro _

theorem State.liftFloor_frame {s : State} (hS : State.Frame M r s) (hM : 0x400000000bc0000000000000000000000000000000 ||| M = M) :
    State.Frame M r (State.liftFloor s) := by
  unfold State.liftFloor
  try dsimp only
  repeat' first
    | (with_reducible first
        | assumption | apply State.setEnvelope_frame | apply State.setF_frame)
    | exact Mask.trans (by rfl) hM
    | split
    | with_reducible intro _

theorem execThrottleRelease_frame {s : State} (hS : State.Frame M r s) (hM : 0x80400000000bc0000000000000000000000000000000 ||| M = M) :
    AnsFrame M r (execThrottleRelease s) := by
  unfold execThrottleRelease
  try dsimp only
  repeat' first
    | (with_reducible first
        | assumption | exact ansFrame_fault | apply ansFrame_next | apply State.ifB_frame | apply State.liftFloor_frame
        | apply State.updInk_frame)
    | exact Mask.trans (by rfl) hM
    | split
    | with_reducible intro _

theorem execThrottleStuck_frame {s : State} (hS : State.Frame M r s) (hM : 0x100000000000000000000000000000000 ||| M = M) :
    AnsFrame M r (execThrottleStuck s) := by
  unfold execThrottleStuck
  try dsimp only
  repeat' first
    | (with_reducible first
        | assumption | exact ansFrame_fault | apply ansFrame_next | apply State.ifB_frame | apply State.setF_frame)
    | exact Mask.trans (by rfl) hM
    | split
    | with_reducible intro _

theorem State.clearStuck_frame {s : State} (hS : State.Frame M r s) (hM : 0x400000000bc0000000000000000000000000000000 ||| M = M) :
    State.Frame M r (State.clearStuck s) := by
  unfold State.clearStuck
  try dsimp only
  repeat' first
    | (with_reducible first
        | assumption | apply State.liftFloor_frame | apply State.setF_frame)
    | exact Mask.trans (by rfl) hM
    | split
    | with_reducible intro _

theorem execPowerClamp_frame {steps : Nat} {s : State} (hS : State.Frame M r s) (hM : 0x400000000a00000000000000000000000000000000 ||| M = M) :
    AnsFrame M r (execPowerClamp steps s) := by
  unfold execPowerClamp
  try dsimp only
  repeat' first
    | (with_reducible first
        | assumption | exact ansFrame_fault | apply ansFrame_next | apply State.ifB_frame | apply State.updChase_frame
        | apply State.setF_frame | apply State.bump_frame)
    | exact Mask.trans (by rfl) hM
    | split
    | with_reducible apply State.Frame.foldl
    | with_reducible apply State.Frame.foldl_fst
    | with_reducible intro _

theorem State.trip_frame {s : State} (hS : State.Frame M r s) (hM : 0x800000000000000000000000000000000000000 ||| M = M) :
    State.Frame M r (State.trip s) := by
  unfold State.trip
  try dsimp only
  repeat' first
    | (with_reducible first
        | assumption)
    | exact Mask.trans (by rfl) hM
    | split
    | (fail_if_no_progress
        with_reducible refine State.Frame.rest ?_ ?hp
        case hp => intro p hp; cases p <;> first | exact Mask.clash hM hp rfl | with_reducible exact rfl)
    | with_reducible intro _

theorem State.noteTemps_frame {s : State} {l0 : Nat} {l1 : Nat} {ha : Nat} {hb : Nat} (hS : State.Frame M r s) (hM : 0x406000000fc0030000000000000000000000000000 ||| M = M) :
    State.Frame M r (State.noteTemps s l0 l1 ha hb) := by
  unfold State.noteTemps
  try dsimp only
  repeat' first
    | (with_reducible first
        | assumption | exact fieldsMask_nil | apply fieldsMask_cons | apply State.setFs_frame | apply State.eventRas_frame
        | apply State.setEnvelope_frame | apply State.setF_frame)
    | exact Mask.trans (by rfl) hM
    | split
    | with_reducible intro _

theorem execTempSample_frame {l0 : Nat} {l1 : Nat} {ha : Nat} {hb : Nat} {s : State} (hS : State.Frame M r s) (hM : 0x406800000fc0030000000000000000000000000000 ||| M = M) :
    AnsFrame M r (execTempSample l0 l1 ha hb s) := by
  unfold execTempSample
  try dsimp only
  repeat' first
    | (with_reducible first
        | assumption | exact ansFrame_fault | apply ansFrame_next | apply State.ifB_frame | apply State.noteTemps_frame
        | apply State.trip_frame)
    | exact Mask.trans (by rfl) hM
    | split
    | with_reducible intro _

theorem execSetPointWrite_frame {die : Nat} {mv : Nat} {ack : Bool} {s : State} (hS : State.Frame M r s) (hM : 0x800062d4000000030000000000000000000000000000 ||| M = M) :
    AnsFrame M r (execSetPointWrite die mv ack s) := by
  unfold execSetPointWrite
  try dsimp only
  repeat' first
    | (with_reducible first
        | assumption | exact ansFrame_fault | apply ansFrame_next | apply State.ifB_frame | apply State.emit_frame
        | apply State.updInk_frame | apply State.fresh_frame | (refine State.fresh_frame_eq (he := by assumption) ?_ ?_)
        | apply State.logErr_frame)
    | exact Mask.trans (by rfl) hM
    | split
    | with_reducible intro _

/-! ### Machine/Output.lean -/

theorem State.updWork_frame {s : State} {c : Nat} {f : WorkCnt → WorkCnt} (hS : State.Frame M r s) (hM : 0x400000000000000000000000000000000000000000 ||| M = M) :
    State.Frame M r (State.updWork s c f) := by
  unfold State.updWork
  try dsimp only
  repeat' first
    | (with_reducible first
        | assumption | apply State.updChase_frame)
    | exact Mask.trans (by rfl) hM
    | split
    | with_reducible intro _

theorem State.countClose_frame {s : State} {c : Nat} {p : Nat} {plate : Nat} {cw : CloseWord} {r_ : CloseResult} (hS : State.Frame M r s) (hM : 0x400000000000000000000000000000000000003800 ||| M = M) :
    State.Frame M r (State.countClose s c p plate cw r_) := by
  unfold State.countClose
  try dsimp only
  repeat' first
    | (with_reducible first
        | assumption | exact fieldsMask_nil | apply fieldsMask_cons | apply State.setFs_frame | apply State.updWork_frame
        | apply State.raiseTo_frame | apply State.bump_frame)
    | exact Mask.trans (by rfl) hM
    | split
    | with_reducible intro _

theorem State.closeOut_frame {s : State} {c : Nat} {o : OutSpec} {t : TileIn} (hS : State.Frame M r s) (hM : 0x40000000000000000000000000000000000000b800 ||| M = M) :
    State.Frame M r (State.closeOut s c o t).1 := by
  unfold State.closeOut
  try dsimp only
  repeat' first
    | (with_reducible first
        | assumption | apply State.countClose_frame | apply State.bump_frame)
    | exact Mask.trans (by rfl) hM
    | split
    | with_reducible intro _

theorem State.closeOut_frame_eq {s : State} {c : Nat} {o : OutSpec} {t : TileIn} (hS : State.Frame M r s) (hM : 0x40000000000000000000000000000000000000b800 ||| M = M) {u : State} {z : ClosedTile} (he : State.closeOut s c o t = (u, z)) :
    State.Frame M r u := by
  have := State.closeOut_frame hS hM (s := s) (c := c) (o := o) (t := t)
  rwa [he] at this

theorem State.closeAll_frame {s : State} {c : Nat} {o : OutSpec} {ts : List TileIn} (hS : State.Frame M r s) (hM : 0x40000000000000000000000000000000000000b800 ||| M = M) :
    State.Frame M r (State.closeAll s c o ts).1 := by
  unfold State.closeAll
  try dsimp only
  repeat' first
    | (with_reducible first
        | assumption | apply State.closeOut_frame | (refine State.closeOut_frame_eq (he := by assumption) ?_ ?_))
    | exact Mask.trans (by rfl) hM
    | split
    | with_reducible apply State.Frame.foldl
    | with_reducible apply State.Frame.foldl_fst
    | with_reducible intro _

theorem State.closeAll_frame_eq {s : State} {c : Nat} {o : OutSpec} {ts : List TileIn} (hS : State.Frame M r s) (hM : 0x40000000000000000000000000000000000000b800 ||| M = M) {u : State} {z : List ClosedTile} (he : State.closeAll s c o ts = (u, z)) :
    State.Frame M r u := by
  have := State.closeAll_frame hS hM (s := s) (c := c) (o := o) (ts := ts)
  rwa [he] at this

theorem State.plateStore_frame {s : State} {c : Nat} {a : Nat} {bs : Bytes} (hS : State.Frame M r s) (hM : 0x7ec2000000000000000000000004001c0000000000 ||| M = M) :
    State.Frame M r (State.plateStore s c a bs) := by
  unfold State.plateStore
  try dsimp only
  repeat' first
    | (with_reducible first
        | assumption | apply State.plateWrite_frame | (refine State.plateWrite_frame_eq (he := by assumption) ?_ ?_))
    | exact Mask.trans (by rfl) hM
    | split
    | with_reducible apply State.Frame.foldl
    | with_reducible apply State.Frame.foldl_fst
    | with_reducible intro _

theorem State.writeTile_frame {s : State} {c : Nat} {a : Nat} {bs : Bytes} (hS : State.Frame M r s) (hM : 0x7ec2000000000000000000000004001c0000000000 ||| M = M) :
    State.Frame M r (State.writeTile s c a bs) := by
  unfold State.writeTile
  try dsimp only
  repeat' first
    | (with_reducible first
        | assumption | apply State.plateStore_frame | apply State.chasePoisonRun_frame)
    | exact Mask.trans (by rfl) hM
    | split
    | with_reducible intro _

theorem State.storeArray_frame {s : State} {c : Nat} {base : Nat} {tiles : List Bytes} (hS : State.Frame M r s) (hM : 0x7ec2000000000000000000000004001c0000000000 ||| M = M) :
    State.Frame M r (State.storeArray s c base tiles).1 := by
  unfold State.storeArray
  try dsimp only
  repeat' first
    | (with_reducible first
        | assumption | apply State.plateStore_frame | apply State.chasePoisonRun_frame)
    | exact Mask.trans (by rfl) hM
    | split
    | with_reducible apply State.Frame.foldl
    | with_reducible apply State.Frame.foldl_fst
    | with_reducible intro _

theorem State.storeArray_frame_eq {s : State} {c : Nat} {base : Nat} {tiles : List Bytes} (hS : State.Frame M r s) (hM : 0x7ec2000000000000000000000004001c0000000000 ||| M = M) {u : State} {z : List Bool} (he : State.storeArray s c base tiles = (u, z)) :
    State.Frame M r u := by
  have := State.storeArray_frame hS hM (s := s) (c := c) (base := base) (tiles := tiles)
  rwa [he] at this

theorem State.writeOutput_frame {s : State} {c : Nat} {base : Nat} {o : OutSpec} {ts : List TileIn} (hS : State.Frame M r s) (hM : 0x7ec2000000000000000000000004001c000000b800 ||| M = M) :
    State.Frame M r (State.writeOutput s c base o ts) := by
  unfold State.writeOutput
  try dsimp only
  repeat' first
    | (with_reducible first
        | assumption | apply State.closeAll_frame | (refine State.closeAll_frame_eq (he := by assumption) ?_ ?_)
        | apply State.storeArray_frame | (refine State.storeArray_frame_eq (he := by assumption) ?_ ?_) | apply State.plateWorked_frame)
    | exact Mask.trans (by rfl) hM
    | split
    | with_reducible intro _

theorem State.recordFault_frame {s : State} {c : Nat} (hS : State.Frame M r s) (hM : 0x400000000000000000000000000000000000020000 ||| M = M) :
    State.Frame M r (State.recordFault s c) := by
  unfold State.recordFault
  try dsimp only
  repeat' first
    | (with_reducible first
        | assumption | exact fieldsMask_nil | apply fieldsMask_cons | apply State.plateWorked_frame | apply State.setFs_frame
        | apply State.bump_frame)
    | exact Mask.trans (by rfl) hM
    | split
    | with_reducible intro _

theorem State.metaFault_frame {s : State} {c : Nat} {item : Nat} {code : Nat} (hS : State.Frame M r s) (hM : 0x400000000000000000000000000000000000010000 ||| M = M) :
    State.Frame M r (State.metaFault s c item code) := by
  unfold State.metaFault
  try dsimp only
  repeat' first
    | (with_reducible first
        | assumption | exact fieldsMask_nil | apply fieldsMask_cons | apply State.updWork_frame | apply State.setFs_frame
        | apply State.bump_frame)
    | exact Mask.trans (by rfl) hM
    | split
    | with_reducible intro _

theorem State.metaFaults_frame {s : State} {c : Nat} {ts : List OpTile} (hS : State.Frame M r s) (hM : 0x400000000000000000000000000000000000010000 ||| M = M) :
    State.Frame M r (State.metaFaults s c ts) := by
  unfold State.metaFaults
  try dsimp only
  repeat' first
    | (with_reducible first
        | assumption | apply State.metaFault_frame)
    | exact Mask.trans (by rfl) hM
    | split
    | with_reducible apply State.Frame.foldl
    | with_reducible apply State.Frame.foldl_fst
    | with_reducible intro _

theorem State.plateDo_frame {s : State} {c : Nat} {op : Nat} {hw : List HwEvent} {f : State → State} (hS : State.Frame M r s) (hSf : ∀ (y0 : State), State.Frame M r y0 → State.Frame M r (f y0)) (hM : 0x4bbfee2dc000a8003000001000027043e0c000008010e ||| M = M) :
    State.Frame M r (State.plateDo s c op hw f) := by
  unfold State.plateDo
  try dsimp only
  repeat' first
    | (with_reducible first
        | assumption | apply hSf | apply State.hwEvents_frame | apply State.xfersBegin_frame | apply State.xfersEnd_frame)
    | exact Mask.trans (by rfl) hM
    | split
    | with_reducible intro _

theorem State.noteTile_frame {s : State} {c : Nat} {base : Nat} {t : Nat} (hS : State.Frame M r s) (hM : 0x500000000000000000000000004000000000000000 ||| M = M) :
    State.Frame M r (State.noteTile s c base t) := by
  unfold State.noteTile
  try dsimp only
  repeat' first
    | (with_reducible first
        | assumption | apply State.noteRead_frame)
    | exact Mask.trans (by rfl) hM
    | split
    | with_reducible intro _

theorem State.noteArray_frame {s : State} {c : Nat} {base : Nat} {n : Nat} (hS : State.Frame M r s) (hM : 0x500000000000000000000000004000000000000000 ||| M = M) :
    State.Frame M r (State.noteArray s c base n) := by
  unfold State.noteArray
  try dsimp only
  repeat' first
    | (with_reducible first
        | assumption | apply State.noteRead_frame)
    | exact Mask.trans (by rfl) hM
    | split
    | with_reducible apply State.Frame.foldl
    | with_reducible apply State.Frame.foldl_fst
    | with_reducible intro _

/-! ### Machine/Stipple.lean -/

theorem State.countSpills_frame {s : State} {c : Nat} {k : Nat} {n : SpillCnt} (hS : State.Frame M r s) (hM : 0x4000000000000000000000000000000000000c0000 ||| M = M) :
    State.Frame M r (State.countSpills s c k n) := by
  unfold State.countSpills
  try dsimp only
  repeat' first
    | (with_reducible first
        | assumption | apply State.bump_frame | apply State.raiseTo_frame | apply State.updWork_frame)
    | exact Mask.trans (by rfl) hM
    | split
    | with_reducible intro _

theorem State.stippleTake_frame {s : State} {c : Nat} {xs : List Contribution} (hS : State.Frame M r s) (hM : 0x84000000000000000000000000000000000000c0000 ||| M = M) :
    State.Frame M r (State.stippleTake s c xs) := by
  unfold State.stippleTake
  try dsimp only
  repeat' first
    | (with_reducible first
        | assumption | apply State.countSpills_frame)
    | exact Mask.trans (by rfl) hM
    | split
    | with_reducible apply State.Frame.foldl
    | with_reducible apply State.Frame.foldl_fst
    | (fail_if_no_progress
        with_reducible refine State.Frame.rest ?_ ?hp
        case hp => intro p hp; cases p <;> first | exact Mask.clash hM hp rfl | with_reducible exact rfl)
    | with_reducible intro _

theorem State.stippleMerge_frame {s : State} {c : Nat} (hS : State.Frame M r s) (hM : 0x8000000000000000000000000000000000000000000 ||| M = M) :
    State.Frame M r (State.stippleMerge s c).1 := by
  unfold State.stippleMerge
  try dsimp only
  repeat' first
    | (with_reducible first
        | assumption)
    | exact Mask.trans (by rfl) hM
    | split
    | (fail_if_no_progress
        with_reducible refine State.Frame.rest ?_ ?hp
        case hp => intro p hp; cases p <;> first | exact Mask.clash hM hp rfl | with_reducible exact rfl)
    | with_reducible intro _

theorem State.stippleMerge_frame_eq {s : State} {c : Nat} (hS : State.Frame M r s) (hM : 0x8000000000000000000000000000000000000000000 ||| M = M) {u : State} {z : List HellRec} (he : State.stippleMerge s c = (u, z)) :
    State.Frame M r u := by
  have := State.stippleMerge_frame hS hM (s := s) (c := c)
  rwa [he] at this

/-! ### Machine/Graph.lean -/

theorem State.graphFault_frame {s : State} {c : Nat} {code : Nat} {vertex : Option Nat} (hS : State.Frame M r s) (hM : 0xe000000000 ||| M = M) :
    State.Frame M r (State.graphFault s c code vertex) := by
  unfold State.graphFault
  try dsimp only
  repeat' first
    | (with_reducible first
        | assumption | exact fieldsMask_nil | apply fieldsMask_cons | apply State.setFs_frame | apply State.bump_frame)
    | exact Mask.trans (by rfl) hM
    | split
    | with_reducible intro _

theorem State.graphRecordFault_frame {s : State} {c : Nat} {code : Nat} (hS : State.Frame M r s) (hM : 0x40000000000000000000000000000000e000000000 ||| M = M) :
    State.Frame M r (State.graphRecordFault s c code) := by
  unfold State.graphRecordFault
  try dsimp only
  repeat' first
    | (with_reducible first
        | assumption | apply State.plateWorked_frame | apply State.graphFault_frame)
    | exact Mask.trans (by rfl) hM
    | split
    | with_reducible intro _

theorem State.useSplit_frame {s : State} {c : Nat} {graph : Nat} {agSplit : Nat} {g : GraphRec} {os : List Nat} (hS : State.Frame M r s) (hM : 0x400000000000000000000000000000000c00000000 ||| M = M) :
    State.Frame M r (State.useSplit s c graph agSplit g os).1 := by
  unfold State.useSplit
  try dsimp only
  repeat' first
    | (with_reducible first
        | assumption | apply State.bump_frame | apply State.updChase_frame)
    | exact Mask.trans (by rfl) hM
    | split
    | with_reducible intro _

theorem State.useSplit_frame_eq {s : State} {c : Nat} {graph : Nat} {agSplit : Nat} {g : GraphRec} {os : List Nat} (hS : State.Frame M r s) (hM : 0x400000000000000000000000000000000c00000000 ||| M = M) {u : State} {z : Nat × List Nat} (he : State.useSplit s c graph agSplit g os = (u, z)) :
    State.Frame M r u := by
  have := State.useSplit_frame hS hM (s := s) (c := c) (graph := graph) (agSplit := agSplit) (g := g) (os := os)
  rwa [he] at this

theorem State.rowFaults_frame {s : State} {c : Nat} {rs : List GraphRow} (hS : State.Frame M r s) (hM : 0xe000000000 ||| M = M) :
    State.Frame M r (State.rowFaults s c rs) := by
  unfold State.rowFaults
  try dsimp only
  repeat' first
    | (with_reducible first
        | assumption | apply State.graphFault_frame)
    | exact Mask.trans (by rfl) hM
    | split
    | with_reducible apply State.Frame.foldl
    | with_reducible apply State.Frame.foldl_fst
    | with_reducible intro _

theorem State.readSources_frame {s : State} {c : Nat} {j : AggJob} {us : List Nat} (hS : State.Frame M r s) (hM : 0x500000000000000000000000004000000000010000 ||| M = M) :
    State.Frame M r (State.readSources s c j us) := by
  unfold State.readSources
  try dsimp only
  repeat' first
    | (with_reducible first
        | assumption | apply State.metaFaults_frame | apply State.noteTile_frame)
    | exact Mask.trans (by rfl) hM
    | split
    | with_reducible apply State.Frame.foldl
    | with_reducible apply State.Frame.foldl_fst
    | with_reducible intro _

theorem State.readEdges_frame {s : State} {c : Nat} {g : GraphRec} {lo : Nat} {hi : Nat} (hS : State.Frame M r s) (hM : 0x500000000000000000000000004000000000000000 ||| M = M) :
    State.Frame M r (State.readEdges s c g lo hi) := by
  unfold State.readEdges
  try dsimp only
  repeat' first
    | (with_reducible first
        | assumption | apply State.noteRead_frame)
    | exact Mask.trans (by rfl) hM
    | split
    | with_reducible intro _

theorem State.aggWrite_frame {s : State} {c : Nat} {j : AggJob} {p : Plate} {ts : List TileIn} {winners : Bytes} (hS : State.Frame M r s) (hM : 0x7ec2000000000000000000000004001c000000b800 ||| M = M) :
    State.Frame M r (State.aggWrite s c j p ts winners) := by
  unfold State.aggWrite
  try dsimp only
  repeat' first
    | (with_reducible first
        | assumption | apply State.plateStore_frame | apply State.writeOutput_frame)
    | exact Mask.trans (by rfl) hM
    | split
    | with_reducible intro _

theorem State.sharedWrite_frame {s : State} {c : Nat} {j : AggJob} {ts : List TileIn} (hS : State.Frame M r s) (hM : 0x7ec2000000000000000000000004001c000000b800 ||| M = M) :
    State.Frame M r (State.sharedWrite s c j ts) := by
  unfold State.sharedWrite
  try dsimp only
  repeat' first
    | (with_reducible first
        | assumption | apply State.closeAll_frame | (refine State.closeAll_frame_eq (he := by assumption) ?_ ?_)
        | apply State.storeArray_frame | (refine State.storeArray_frame_eq (he := by assumption) ?_ ?_))
    | exact Mask.trans (by rfl) hM
    | split
    | with_reducible intro _

theorem State.aggPull_frame {s : State} {c : Nat} {j : AggJob} {p : Plate} {os : List Nat} {allBad : Bool} {t : Nat} {cut : List Nat} (hS : State.Frame M r s) (hM : 0x7ec2000000000000000000000044001ce00001b800 ||| M = M) :
    State.Frame M r (State.aggPull s c j p os allBad t cut) := by
  unfold State.aggPull
  try dsimp only
  repeat' first
    | (with_reducible first
        | assumption | apply State.readSources_frame | apply State.rowFaults_frame | apply State.readEdges_frame
        | apply State.aggWrite_frame | apply State.sharedWrite_frame)
    | exact Mask.trans (by rfl) hM
    | split
    | with_reducible intro _

theorem State.aggPush_frame {s : State} {c : Nat} {j : AggJob} {p : Plate} {os : List Nat} {allBad : Bool} {arrival : List Nat} (hS : State.Frame M r s) (hM : 0x87ec2000000000000000000000044001ce0000db800 ||| M = M) :
    State.Frame M r (State.aggPush s c j p os allBad arrival) := by
  unfold State.aggPush
  try dsimp only
  repeat' first
    | (with_reducible first
        | assumption | apply State.readEdges_frame | apply State.readSources_frame | apply State.rowFaults_frame
        | apply State.stippleMerge_frame | (refine State.stippleMerge_frame_eq (he := by assumption) ?_ ?_)
        | apply State.stippleTake_frame | apply State.aggWrite_frame)
    | exact Mask.trans (by rfl) hM
    | split
    | with_reducible apply State.Frame.foldl
    | with_reducible apply State.Frame.foldl_fst
    | with_reducible intro _

theorem State.aggregatePlate_frame {s : State} {c : Nat} {arrival : List Nat} (hS : State.Frame M r s) (hM : 0x87ec2000000000000000000000044001cec000db800 ||| M = M) :
    State.Frame M r (State.aggregatePlate s c arrival) := by
  unfold State.aggregatePlate
  try dsimp only
  repeat' first
    | (with_reducible first
        | assumption | apply State.noteRead_frame | apply State.graphRecordFault_frame | apply State.useSplit_frame
        | (refine State.useSplit_frame_eq (he := by assumption) ?_ ?_) | apply State.aggPull_frame | apply State.aggPush_frame)
    | exact Mask.trans (by rfl) hM
    | split
    | with_reducible apply State.Frame.foldl
    | with_reducible apply State.Frame.foldl_fst
    | with_reducible intro _

theorem execAggregate_frame {slot : Nat} {hw : List HwEvent} {arrival : List Nat} {s : State} (hS : State.Frame M r s) (hM : 0x4bbfee2dc000a8003000001000027443e1cec000db90e ||| M = M) :
    AnsFrame M r (execAggregate slot hw arrival s) := by
  unfold execAggregate
  try dsimp only
  repeat' first
    | (with_reducible first
        | assumption | exact ansFrame_fault | apply ansFrame_next | apply State.plateDo_frame | apply State.aggregatePlate_frame)
    | exact Mask.trans (by rfl) hM
    | split
    | with_reducible intro _

theorem State.accumulate_frame {s : State} {c : Nat} {p : FrontPiece} {vs : List Nat} (hS : State.Frame M r s) (hM : 0x7ec2000000000000000000000004001c0000000000 ||| M = M) :
    State.Frame M r (State.accumulate s c p vs) := by
  unfold State.accumulate
  try dsimp only
  repeat' first
    | (with_reducible first
        | assumption | apply State.plateStore_frame)
    | exact Mask.trans (by rfl) hM
    | split
    | with_reducible intro _

theorem State.frontierPlate_frame {s : State} {c : Nat} (hS : State.Frame M r s) (hM : 0x7ec2000000000000000000000044001cf000010000 ||| M = M) :
    State.Frame M r (State.frontierPlate s c) := by
  unfold State.frontierPlate
  try dsimp only
  repeat' first
    | (with_reducible first
        | assumption | apply State.noteRead_frame | apply State.graphRecordFault_frame | apply State.noteArray_frame
        | apply State.plateStore_frame | apply State.metaFaults_frame | apply State.bump_frame | apply State.accumulate_frame
        | apply State.plateWorked_frame)
    | exact Mask.trans (by rfl) hM
    | split
    | with_reducible apply State.Frame.foldl
    | with_reducible apply State.Frame.foldl_fst
    | with_reducible intro _

theorem execFrontier_frame {slot : Nat} {hw : List HwEvent} {s : State} (hS : State.Frame M r s) (hM : 0x4bbfee2dc000a8003000001000027443e1cf00009010e ||| M = M) :
    AnsFrame M r (execFrontier slot hw s) := by
  unfold execFrontier
  try dsimp only
  repeat' first
    | (with_reducible first
        | assumption | exact ansFrame_fault | apply ansFrame_next | apply State.plateDo_frame | apply State.frontierPlate_frame)
    | exact Mask.trans (by rfl) hM
    | split
    | with_reducible intro _

/-! ### Machine/Reduce.lean -/

theorem State.reduceSend_frame {s : State} {c : Nat} {recs : List WideRec} (hS : State.Frame M r s) (hM : 0x20404000000000000000010000000000000000000000 ||| M = M) :
    State.Frame M r (State.reduceSend s c recs) := by
  unfold State.reduceSend
  try dsimp only
  repeat' first
    | (with_reducible first
        | assumption | apply State.sendMsg_frame | apply State.updChase_frame)
    | exact Mask.trans (by rfl) hM
    | split
    | with_reducible apply State.Frame.foldl
    | with_reducible apply State.Frame.foldl_fst
    | with_reducible intro _

theorem State.reduceNew_frame {s : State} {c : Nat} {op : Nat} {r_ : ReduceRec} {p : Plate} {got : ReduceLines} (hS : State.Frame M r s) (hM : 0x7ec2000000000000000000000004001c000000b800 ||| M = M) :
    State.Frame M r (State.reduceNew s c op r_ p got) := by
  unfold State.reduceNew
  try dsimp only
  repeat' first
    | (with_reducible first
        | assumption | apply State.plateStore_frame | apply State.writeOutput_frame)
    | exact Mask.trans (by rfl) hM
    | split
    | with_reducible intro _

theorem State.putTile_frame {s : State} {c : Nat} {base : Nat} {n : Nat} {t : Nat} {b : Bytes} (hS : State.Frame M r s) (hM : 0x7ec2000000000000000000000004001c0000000000 ||| M = M) :
    State.Frame M r (State.putTile s c base n t b).1 := by
  unfold State.putTile
  try dsimp only
  repeat' first
    | (with_reducible first
        | assumption | apply State.writeTile_frame | apply State.plateStore_frame)
    | exact Mask.trans (by rfl) hM
    | split
    | with_reducible intro _

theorem State.putTile_frame_eq {s : State} {c : Nat} {base : Nat} {n : Nat} {t : Nat} {b : Bytes} (hS : State.Frame M r s) (hM : 0x7ec2000000000000000000000004001c0000000000 ||| M = M) {u : State} {z : Bool} (he : State.putTile s c base n t b = (u, z)) :
    State.Frame M r u := by
  have := State.putTile_frame hS hM (s := s) (c := c) (base := base) (n := n) (t := t) (b := b)
  rwa [he] at this

theorem State.reduceMerge_frame {s : State} {c : Nat} {op : Nat} {r_ : ReduceRec} {p : Plate} {got : ReduceLines} (hS : State.Frame M r s) (hM : 0x7ec2000000000000000000000044001c000001b800 ||| M = M) :
    State.Frame M r (State.reduceMerge s c op r_ p got) := by
  unfold State.reduceMerge
  try dsimp only
  repeat' first
    | (with_reducible first
        | assumption | apply State.metaFaults_frame | apply State.noteTile_frame | apply State.plateStore_frame
        | apply State.closeAll_frame | (refine State.closeAll_frame_eq (he := by assumption) ?_ ?_) | apply State.putTile_frame
        | (refine State.putTile_frame_eq (he := by assumption) ?_ ?_) | apply State.plateWorked_frame)
    | exact Mask.trans (by rfl) hM
    | split
    | with_reducible apply State.Frame.foldl
    | with_reducible apply State.Frame.foldl_fst
    | with_reducible intro _

theorem State.reduceWrite_frame {s : State} {c : Nat} {op : Nat} {r_ : ReduceRec} {p : Plate} {recs : List WideRec} (hS : State.Frame M r s) (hM : 0x7ec2000000000000000000000044001c000001b800 ||| M = M) :
    State.Frame M r (State.reduceWrite s c op r_ p recs) := by
  unfold State.reduceWrite
  try dsimp only
  repeat' first
    | (with_reducible first
        | assumption | apply State.reduceMerge_frame | apply State.reduceNew_frame)
    | exact Mask.trans (by rfl) hM
    | split
    | with_reducible intro _

theorem State.reducePlate_frame {s : State} {c : Nat} (hS : State.Frame M r s) (hM : 0x207ec2000000000000000100000044001c000023b800 ||| M = M) :
    State.Frame M r (State.reducePlate s c) := by
  unfold State.reducePlate
  try dsimp only
  repeat' first
    | (with_reducible first
        | assumption | apply State.noteRead_frame | apply State.recordFault_frame | apply State.raiseFlags_frame
        | apply State.metaFaults_frame | apply State.noteArray_frame | apply State.reduceSend_frame | apply State.reduceWrite_frame
        | apply State.updChase_frame)
    | exact Mask.trans (by rfl) hM
    | split
    | with_reducible apply State.Frame.foldl
    | with_reducible apply State.Frame.foldl_fst
    | with_reducible intro _

theorem execReduce_frame {slot : Nat} {hw : List HwEvent} {s : State} (hS : State.Frame M r s) (hM : 0x4bbfee2dc000a8003000001000027443e1c00002bb90e ||| M = M) :
    AnsFrame M r (execReduce slot hw s) := by
  unfold execReduce
  try dsimp only
  repeat' first
    | (with_reducible first
        | assumption | exact ansFrame_fault | apply ansFrame_next | apply State.plateDo_frame | apply State.reducePlate_frame)
    | exact Mask.trans (by rfl) hM
    | split
    | with_reducible intro _

/-! ### Machine/Lookup.lean -/

theorem State.noteBags_frame {s : State} {c : Nat} {count : Nat} {g : GatherRec} {wsum : Bool} (hS : State.Frame M r s) (hM : 0x500000000000000000000000004000000000000000 ||| M = M) :
    State.Frame M r (State.noteBags s c count g wsum) := by
  unfold State.noteBags
  try dsimp only
  repeat' first
    | (with_reducible first
        | assumption | apply State.noteRead_frame)
    | exact Mask.trans (by rfl) hM
    | split
    | with_reducible intro _

theorem State.noteLookup_frame {s : State} {c : Nat} {g : GalleySt} {x : GalState} {i : Nat} (hS : State.Frame M r s) (hM : 0x7000000000000000000000000040000c0000000000 ||| M = M) :
    State.Frame M r (State.noteLookup s c g x i) := by
  unfold State.noteLookup
  try dsimp only
  repeat' first
    | (with_reducible first
        | assumption | apply State.noteRow_frame)
    | exact Mask.trans (by rfl) hM
    | split
    | with_reducible intro _

theorem State.writeBags_frame {s : State} {c : Nat} {n : Nat} {p : Plate} {winners : Nat} {bags : List PooledBag} (hS : State.Frame M r s) (hM : 0x7ec2000000000000000000000004001c000000b800 ||| M = M) :
    State.Frame M r (State.writeBags s c n p winners bags) := by
  unfold State.writeBags
  try dsimp only
  repeat' first
    | (with_reducible first
        | assumption | apply State.closeAll_frame | (refine State.closeAll_frame_eq (he := by assumption) ?_ ?_)
        | apply State.storeArray_frame | (refine State.storeArray_frame_eq (he := by assumption) ?_ ?_) | apply State.plateStore_frame
        | apply State.plateWorked_frame)
    | exact Mask.trans (by rfl) hM
    | split
    | with_reducible intro _

theorem State.countGal_frame {s : State} {c : Nat} {id : Nat} {f : GalCnt → GalCnt} (hS : State.Frame M r s) (hM : 0x400000000000000000000000000000000000000000 ||| M = M) :
    State.Frame M r (State.countGal s c id f) := by
  unfold State.countGal
  try dsimp only
  repeat' first
    | (with_reducible first
        | assumption | apply State.updGalley_frame)
    | exact Mask.trans (by rfl) hM
    | split
    | with_reducible intro _

theorem State.countBags_frame {s : State} {c : Nat} {id : Nat} {bags : List Bag} (hS : State.Frame M r s) (hM : 0x400000000000000000000000000000000000000000 ||| M = M) :
    State.Frame M r (State.countBags s c id bags) := by
  unfold State.countBags
  try dsimp only
  repeat' first
    | (with_reducible first
        | assumption | apply State.countGal_frame)
    | exact Mask.trans (by rfl) hM
    | split
    | with_reducible intro _

theorem State.refetch_frame {s : State} {c : Nat} {id : Nat} {bags : List (List PoolEnt)} (hS : State.Frame M r s) (hM : 0x400200000000000000000000000000000000000000 ||| M = M) :
    State.Frame M r (State.refetch s c id bags) := by
  unfold State.refetch
  try dsimp only
  repeat' first
    | (with_reducible first
        | assumption | apply State.fresh_frame | (refine State.fresh_frame_eq (he := by assumption) ?_ ?_) | apply State.countGal_frame)
    | exact Mask.trans (by rfl) hM
    | split
    | with_reducible apply State.Frame.foldl
    | with_reducible apply State.Frame.foldl_fst
    | with_reducible intro _

theorem State.countUnpooled_frame {s : State} {c : Nat} {id : Nat} {n : Nat} (hS : State.Frame M r s) (hM : 0x400000000000000000000000000000000000000000 ||| M = M) :
    State.Frame M r (State.countUnpooled s c id n) := by
  unfold State.countUnpooled
  try dsimp only
  repeat' first
    | (with_reducible first
        | assumption | apply State.countGal_frame)
    | exact Mask.trans (by rfl) hM
    | split
    | with_reducible intro _

theorem State.countEntries_frame {s : State} {c : Nat} {id : Nat} {bags : List Bag} (hS : State.Frame M r s) (hM : 0x400000000000000000000000000000000000000000 ||| M = M) :
    State.Frame M r (State.countEntries s c id bags) := by
  unfold State.countEntries
  try dsimp only
  repeat' first
    | (with_reducible first
        | assumption | apply State.countSlug_frame)
    | exact Mask.trans (by rfl) hM
    | split
    | with_reducible apply State.Frame.foldl
    | with_reducible apply State.Frame.foldl_fst
    | with_reducible intro _

theorem State.noteRows_frame {s : State} {c : Nat} {g : GalleySt} {x : GalState} {bags : List (List PoolEnt)} (hS : State.Frame M r s) (hM : 0x7000000000000000000000000040000c0000000000 ||| M = M) :
    State.Frame M r (State.noteRows s c g x bags) := by
  unfold State.noteRows
  try dsimp only
  repeat' first
    | (with_reducible first
        | assumption | apply State.noteLookup_frame)
    | exact Mask.trans (by rfl) hM
    | split
    | with_reducible apply State.Frame.foldl
    | with_reducible apply State.Frame.foldl_fst
    | with_reducible intro _

theorem State.gatherPlate_frame {s : State} {c : Nat} (hS : State.Frame M r s) (hM : 0x7ec2000000000000000000000044001c000002b800 ||| M = M) :
    State.Frame M r (State.gatherPlate s c) := by
  unfold State.gatherPlate
  try dsimp only
  repeat' first
    | (with_reducible first
        | assumption | apply State.noteRead_frame | apply State.recordFault_frame | apply State.countEntries_frame
        | apply State.countBags_frame | apply State.noteBags_frame | apply State.countUnpooled_frame | apply State.refetch_frame
        | apply State.noteRows_frame | apply State.writeBags_frame)
    | exact Mask.trans (by rfl) hM
    | split
    | with_reducible intro _

theorem execGather_frame {slot : Nat} {hw : List HwEvent} {s : State} (hS : State.Frame M r s) (hM : 0x4bbfee2dc000a8003000001000027443e1c00000ab90e ||| M = M) :
    AnsFrame M r (execGather slot hw s) := by
  unfold execGather
  try dsimp only
  repeat' first
    | (with_reducible first
        | assumption | exact ansFrame_fault | apply ansFrame_next | apply State.plateDo_frame | apply State.gatherPlate_frame)
    | exact Mask.trans (by rfl) hM
    | split
    | with_reducible intro _

theorem State.splitPlate_frame {s : State} {c : Nat} (hS : State.Frame M r s) (hM : 0x7002000000000000000000000040000c0000020000 ||| M = M) :
    State.Frame M r (State.splitPlate s c) := by
  unfold State.splitPlate
  try dsimp only
  repeat' first
    | (with_reducible first
        | assumption | apply State.noteRead_frame | apply State.recordFault_frame | apply State.countEntries_frame
        | apply State.countBags_frame | apply State.noteBags_frame | apply State.countUnpooled_frame | apply State.refetch_frame
        | apply State.noteRows_frame | apply State.updGalley_frame | apply State.plateWorked_frame)
    | exact Mask.trans (by rfl) hM
    | split
    | with_reducible intro _

theorem execSplit_frame {slot : Nat} {hw : List HwEvent} {s : State} (hS : State.Frame M r s) (hM : 0x4bbfee2dc000a8003000001000027443e0c00000a010e ||| M = M) :
    AnsFrame M r (execSplit slot hw s) := by
  unfold execSplit
  try dsimp only
  repeat' first
    | (with_reducible first
        | assumption | exact ansFrame_fault | apply ansFrame_next | apply State.plateDo_frame | apply State.splitPlate_frame)
    | exact Mask.trans (by rfl) hM
    | split
    | with_reducible intro _

theorem State.servePlate_frame {s : State} {c : Nat} (hS : State.Frame M r s) (hM : 0x7002000000000000000000000040000c0000000000 ||| M = M) :
    State.Frame M r (State.servePlate s c) := by
  unfold State.servePlate
  try dsimp only
  repeat' first
    | (with_reducible first
        | assumption | apply State.plateWorked_frame | apply State.countSlug_frame | apply State.noteRows_frame
        | apply State.countUnpooled_frame | apply State.refetch_frame | apply State.updGalley_frame)
    | exact Mask.trans (by rfl) hM
    | split
    | with_reducible apply State.Frame.foldl
    | with_reducible apply State.Frame.foldl_fst
    | with_reducible intro _

theorem execServe_frame {slot : Nat} {hw : List HwEvent} {s : State} (hS : State.Frame M r s) (hM : 0x4bbfee2dc000a8003000001000027443e0c000008010e ||| M = M) :
    AnsFrame M r (execServe slot hw s) := by
  unfold execServe
  try dsimp only
  repeat' first
    | (with_reducible first
        | assumption | exact ansFrame_fault | apply ansFrame_next | apply State.plateDo_frame | apply State.servePlate_frame)
    | exact Mask.trans (by rfl) hM
    | split
    | with_reducible intro _

theorem State.combinePlate_frame {s : State} {c : Nat} (hS : State.Frame M r s) (hM : 0x7ec2000000000000000000000004001c000002b800 ||| M = M) :
    State.Frame M r (State.combinePlate s c) := by
  unfold State.combinePlate
  try dsimp only
  repeat' first
    | (with_reducible first
        | assumption | apply State.recordFault_frame | apply State.updGalley_frame | apply State.writeBags_frame)
    | exact Mask.trans (by rfl) hM
    | split
    | with_reducible intro _

theorem execCombine_frame {slot : Nat} {hw : List HwEvent} {s : State} (hS : State.Frame M r s) (hM : 0x4bbfee2dc000a8003000001000027043e1c00000ab90e ||| M = M) :
    AnsFrame M r (execCombine slot hw s) := by
  unfold execCombine
  try dsimp only
  repeat' first
    | (with_reducible first
        | assumption | exact ansFrame_fault | apply ansFrame_next | apply State.plateDo_frame | apply State.combinePlate_frame)
    | exact Mask.trans (by rfl) hM
    | split
    | with_reducible intro _

/-! ### Machine/Scatter.lean -/

theorem State.addTotal_frame {s : State} {c : Nat} {id : Nat} {k : Nat} {j : Nat} {q : Int} (hS : State.Frame M r s) (hM : 0x7ec2000000000000000000000044000c0000000000 ||| M = M) :
    State.Frame M r (State.addTotal s c id k j q) := by
  unfold State.addTotal
  try dsimp only
  repeat' first
    | (with_reducible first
        | assumption | apply State.updGalley_frame | apply State.masterSet_frame)
    | exact Mask.trans (by rfl) hM
    | split
    | with_reducible intro _

theorem State.noteArrayDrops_frame {s : State} {c : Nat} {n : Nat} (hS : State.Frame M r s) (hM : 0x400000000000000000000000000000000000000000 ||| M = M) :
    State.Frame M r (State.noteArrayDrops s c n) := by
  unfold State.noteArrayDrops
  try dsimp only
  repeat' first
    | (with_reducible first
        | assumption | apply State.updWork_frame)
    | exact Mask.trans (by rfl) hM
    | split
    | with_reducible intro _

theorem State.applyTotal_frame {s : State} {c : Nat} {id : Nat} {t : Total} (hS : State.Frame M r s) (hM : 0x7ec20000000000000000000000c4000c0000000000 ||| M = M) :
    State.Frame M r (State.applyTotal s c id t).1 := by
  unfold State.applyTotal
  try dsimp only
  repeat' first
    | (with_reducible first
        | assumption | apply State.bump_frame | apply State.addTotal_frame | apply State.updGalley_frame)
    | exact Mask.trans (by rfl) hM
    | split
    | with_reducible intro _

theorem State.applyTotal_frame_eq {s : State} {c : Nat} {id : Nat} {t : Total} (hS : State.Frame M r s) (hM : 0x7ec20000000000000000000000c4000c0000000000 ||| M = M) {u : State} {z : Bool} (he : State.applyTotal s c id t = (u, z)) :
    State.Frame M r u := by
  have := State.applyTotal_frame hS hM (s := s) (c := c) (id := id) (t := t)
  rwa [he] at this

theorem State.arrayAdd_frame {s : State} {c : Nat} {base : Nat} {elements : Nat} {i : Nat} {j : Nat} {q : Nat} (hS : State.Frame M r s) (hM : 0x7ec0000000000000000000000084000c0000000000 ||| M = M) :
    State.Frame M r (State.arrayAdd s c base elements i j q).1 := by
  unfold State.arrayAdd
  try dsimp only
  repeat' first
    | (with_reducible first
        | assumption | apply State.atomic_frame | (refine State.atomic_frame_eq (he := by assumption) ?_ ?_) | apply State.addHoles_frame)
    | exact Mask.trans (by rfl) hM
    | split
    | with_reducible intro _

theorem State.arrayAdd_frame_eq {s : State} {c : Nat} {base : Nat} {elements : Nat} {i : Nat} {j : Nat} {q : Nat} (hS : State.Frame M r s) (hM : 0x7ec0000000000000000000000084000c0000000000 ||| M = M) {u : State} {z : Bool} (he : State.arrayAdd s c base elements i j q = (u, z)) :
    State.Frame M r u := by
  have := State.arrayAdd_frame hS hM (s := s) (c := c) (base := base) (elements := elements) (i := i) (j := j) (q := q)
  rwa [he] at this

theorem State.applyArray_frame {s : State} {c : Nat} {base : Nat} {elements : Nat} {t : Total} (hS : State.Frame M r s) (hM : 0x7ec0000000000000000000000084000c0000000000 ||| M = M) :
    State.Frame M r (State.applyArray s c base elements t).1 := by
  unfold State.applyArray
  try dsimp only
  repeat' first
    | (with_reducible first
        | assumption | apply State.arrayAdd_frame | (refine State.arrayAdd_frame_eq (he := by assumption) ?_ ?_)
        | apply State.updChase_frame | apply State.noteArrayDrops_frame)
    | exact Mask.trans (by rfl) hM
    | split
    | with_reducible intro _

theorem State.applyArray_frame_eq {s : State} {c : Nat} {base : Nat} {elements : Nat} {t : Total} (hS : State.Frame M r s) (hM : 0x7ec0000000000000000000000084000c0000000000 ||| M = M) {u : State} {z : Bool} (he : State.applyArray s c base elements t = (u, z)) :
    State.Frame M r u := by
  have := State.applyArray_frame hS hM (s := s) (c := c) (base := base) (elements := elements) (t := t)
  rwa [he] at this

theorem State.applyTotals_frame {s : State} {f : State → Total → State × Bool} {ts : List Total} (hS : State.Frame M r s) (hSf : ∀ (y0 : State) (y1 : Total), State.Frame M r y0 → State.Frame M r (f y0 y1).1) :
    State.Frame M r (State.applyTotals s f ts).1 := by
  unfold State.applyTotals
  try dsimp only
  repeat' first
    | (with_reducible first
        | assumption | apply hSf)
    | split
    | with_reducible apply State.Frame.foldl
    | with_reducible apply State.Frame.foldl_fst
    | with_reducible intro _

theorem State.applyTotals_frame_eq {s : State} {f : State → Total → State × Bool} {ts : List Total} (hS : State.Frame M r s) (hSf : ∀ (y0 : State) (y1 : Total), State.Frame M r y0 → State.Frame M r (f y0 y1).1) {u : State} {z : Bool} (he : State.applyTotals s f ts = (u, z)) :
    State.Frame M r u := by
  have := State.applyTotals_frame hS hSf (s := s) (f := f) (ts := ts)
  rwa [he] at this

theorem State.scatterRun_frame {s : State} {c : Nat} {job : ScatterJob} {em : Int} {arrival : List Nat} {f : State → Total → State × Bool} {cnt : (GalCnt → GalCnt) → State → State} (hS : State.Frame M r s) (hSf : ∀ (y0 : State) (y1 : Total), State.Frame M r y0 → State.Frame M r (f y0 y1).1) (hScnt : ∀ (y0 : (GalCnt → GalCnt)) (y1 : State), State.Frame M r y1 → State.Frame M r (cnt y0 y1)) (hM : 0x84000000000000000000000000000000000000d0000 ||| M = M) :
    State.Frame M r (State.scatterRun s c job em arrival f cnt) := by
  unfold State.scatterRun
  try dsimp only
  repeat' first
    | (with_reducible first
        | assumption | apply hSf | apply hScnt | apply State.metaFaults_frame | apply State.stippleMerge_frame
        | (refine State.stippleMerge_frame_eq (he := by assumption) ?_ ?_) | apply State.stippleTake_frame | apply State.applyTotals_frame
        | (refine State.applyTotals_frame_eq (he := by assumption) ?_ ?_) | apply State.plateWorked_frame)
    | exact Mask.trans (by rfl) hM
    | split
    | with_reducible apply State.Frame.foldl
    | with_reducible apply State.Frame.foldl_fst
    | with_reducible intro _

theorem State.scatterPlate_frame {s : State} {c : Nat} {arrival : List Nat} (hS : State.Frame M r s) (hM : 0x87ec20000000000000000000000c4000c00000f0000 ||| M = M) :
    State.Frame M r (State.scatterPlate s c arrival) := by
  unfold State.scatterPlate
  try dsimp only
  repeat' first
    | (with_reducible first
        | assumption | apply State.noteRead_frame | apply State.recordFault_frame | apply State.updChase_frame
        | apply State.noteArray_frame | apply State.noteBags_frame | apply State.updGalley_frame | apply State.scatterRun_frame
        | apply State.applyTotal_frame | (refine State.applyTotal_frame_eq (he := by assumption) ?_ ?_) | apply State.countGal_frame
        | apply State.applyArray_frame | (refine State.applyArray_frame_eq (he := by assumption) ?_ ?_))
    | exact Mask.trans (by rfl) hM
    | split
    | with_reducible intro _

theorem execScatter_frame {slot : Nat} {hw : List HwEvent} {arrival : List Nat} {s : State} (hS : State.Frame M r s) (hM : 0x4bbfee2dc000a8003000001000027c43e0c00000f010e ||| M = M) :
    AnsFrame M r (execScatter slot hw arrival s) := by
  unfold execScatter
  try dsimp only
  repeat' first
    | (with_reducible first
        | assumption | exact ansFrame_fault | apply ansFrame_next | apply State.plateDo_frame | apply State.scatterPlate_frame)
    | exact Mask.trans (by rfl) hM
    | split
    | with_reducible intro _

theorem State.publishRows_frame {s : State} {c : Nat} {id : Nat} {x0 : List Nat} (hS : State.Frame M r s) (hM : 0x7ec2000000000000000000000044000c0000000000 ||| M = M) :
    State.Frame M r (State.publishRows s c id x0).1 := by
  induction x0 generalizing s with
  | nil => exact hS
  | cons a l ih =>
  simp only [State.publishRows]
  repeat' first
    | (with_reducible first
        | assumption | apply ih | apply State.putRow_frame | (refine State.putRow_frame_eq (he := by assumption) ?_ ?_)
        | apply State.noteMaster_frame | apply State.updGalley_frame)
    | exact Mask.trans (by rfl) hM
    | split
    | with_reducible intro _

theorem State.publishRows_frame_eq {s : State} {c : Nat} {id : Nat} {x0 : List Nat} (hS : State.Frame M r s) (hM : 0x7ec2000000000000000000000044000c0000000000 ||| M = M) {u : State} {z : Bool} (he : State.publishRows s c id x0 = (u, z)) :
    State.Frame M r u := by
  have := State.publishRows_frame hS hM (s := s) (c := c) (id := id) (x0 := x0)
  rwa [he] at this

theorem State.publishPlate_frame {s : State} {c : Nat} (hS : State.Frame M r s) (hM : 0x7ec2000000000000000000000044000c0000020000 ||| M = M) :
    State.Frame M r (State.publishPlate s c) := by
  unfold State.publishPlate
  try dsimp only
  repeat' first
    | (with_reducible first
        | assumption | apply State.recordFault_frame | apply State.publishRows_frame
        | (refine State.publishRows_frame_eq (he := by assumption) ?_ ?_) | apply State.setGalley_frame | apply State.plateWorked_frame
        | apply State.updGalley_frame)
    | exact Mask.trans (by rfl) hM
    | split
    | with_reducible intro _

theorem execPublish_frame {slot : Nat} {hw : List HwEvent} {s : State} (hS : State.Frame M r s) (hM : 0x4bbfee2dc000a8003000001000027443e0c00000a010e ||| M = M) :
    AnsFrame M r (execPublish slot hw s) := by
  unfold execPublish
  try dsimp only
  repeat' first
    | (with_reducible first
        | assumption | exact ansFrame_fault | apply ansFrame_next | apply State.plateDo_frame | apply State.publishPlate_frame)
    | exact Mask.trans (by rfl) hM
    | split
    | with_reducible intro _

theorem execSwitch_frame {slot : Nat} {hw : List HwEvent} {s : State} (hS : State.Frame M r s) (hM : 0x4bbfee2dc000a8003000001000027043e0c000008010e ||| M = M) :
    AnsFrame M r (execSwitch slot hw s) := by
  unfold execSwitch
  try dsimp only
  repeat' first
    | (with_reducible first
        | assumption | exact ansFrame_fault | apply ansFrame_next | apply State.plateDo_frame | apply State.plateWorked_frame
        | apply State.requestSwitch_frame)
    | exact Mask.trans (by rfl) hM
    | split
    | with_reducible intro _

theorem execStateAbort_frame {slot : Nat} {hw : List HwEvent} {s : State} (hS : State.Frame M r s) (hM : 0x4bbfee2dc000a8003000001000027043e0c000008010e ||| M = M) :
    AnsFrame M r (execStateAbort slot hw s) := by
  unfold execStateAbort
  try dsimp only
  repeat' first
    | (with_reducible first
        | assumption | exact ansFrame_fault | apply ansFrame_next | apply State.plateDo_frame | apply State.plateWorked_frame
        | apply State.abortGalley_frame)
    | exact Mask.trans (by rfl) hM
    | split
    | with_reducible intro _

/-! ### Machine/Exchange.lean -/

theorem State.sendRecords_frame {s : State} {c : Nat} {i : Nat} {kind : Nat} {target : Nat} {recs : List Bytes} (hS : State.Frame M r s) (hM : 0x20004000000000000000010000000000000000000000 ||| M = M) :
    State.Frame M r (State.sendRecords s c i kind target recs) := by
  unfold State.sendRecords
  try dsimp only
  repeat' first
    | (with_reducible first
        | assumption | apply State.sendMsg_frame)
    | exact Mask.trans (by rfl) hM
    | split
    | with_reducible apply State.Frame.foldl
    | with_reducible apply State.Frame.foldl_fst
    | with_reducible intro _

theorem State.sendEntry_frame {s : State} {c : Nat} {e : XlEnt} (hS : State.Frame M r s) (hM : 0x20504000000000000000010000004000000000000000 ||| M = M) :
    State.Frame M r (State.sendEntry s c e) := by
  unfold State.sendEntry
  try dsimp only
  repeat' first
    | (with_reducible first
        | assumption | apply State.noteRead_frame | apply State.sendMsg_frame)
    | exact Mask.trans (by rfl) hM
    | split
    | with_reducible apply State.Frame.foldl
    | with_reducible apply State.Frame.foldl_fst
    | with_reducible intro _

theorem State.sendGuests_frame {s : State} {c : Nat} {id : Nat} {asks : List (Nat × Nat)} (hS : State.Frame M r s) (hM : 0x207040000000000000000100000040000c0000000000 ||| M = M) :
    State.Frame M r (State.sendGuests s c id asks).1 := by
  unfold State.sendGuests
  try dsimp only
  repeat' first
    | (with_reducible first
        | assumption | apply State.charge_frame | (refine State.charge_frame_eq (he := by assumption) ?_ ?_)
        | apply State.sendRecords_frame | apply State.noteRow_frame)
    | exact Mask.trans (by rfl) hM
    | split
    | with_reducible apply State.Frame.foldl
    | with_reducible apply State.Frame.foldl_fst
    | with_reducible intro _

theorem State.sendGuests_frame_eq {s : State} {c : Nat} {id : Nat} {asks : List (Nat × Nat)} (hS : State.Frame M r s) (hM : 0x207040000000000000000100000040000c0000000000 ||| M = M) {u : State} {z : List Nat} (he : State.sendGuests s c id asks = (u, z)) :
    State.Frame M r u := by
  have := State.sendGuests_frame hS hM (s := s) (c := c) (id := id) (asks := asks)
  rwa [he] at this

theorem State.drainGalley_frame {s : State} {c : Nat} {id : Nat} (hS : State.Frame M r s) (hM : 0x20404000000000000000010000000000000000000000 ||| M = M) :
    State.Frame M r (State.drainGalley s c id) := by
  unfold State.drainGalley
  try dsimp only
  repeat' first
    | (with_reducible first
        | assumption | apply State.sendRecords_frame | apply State.setGalley_frame)
    | exact Mask.trans (by rfl) hM
    | split
    | with_reducible apply State.Frame.foldl
    | with_reducible apply State.Frame.foldl_fst
    | with_reducible intro _

theorem State.drainArray_frame {s : State} {c : Nat} {base : Nat} (hS : State.Frame M r s) (hM : 0x20404000000000000000010000000000000000000000 ||| M = M) :
    State.Frame M r (State.drainArray s c base) := by
  unfold State.drainArray
  try dsimp only
  repeat' first
    | (with_reducible first
        | assumption | apply State.sendRecords_frame | apply State.updChase_frame)
    | exact Mask.trans (by rfl) hM
    | split
    | with_reducible apply State.Frame.foldl
    | with_reducible apply State.Frame.foldl_fst
    | with_reducible intro _

theorem State.takeGalDelta_frame {s : State} {c : Nat} {id : Nat} {d : DeltaRec} (hS : State.Frame M r s) (hM : 0x7ec20000000000000000000000c4000c0000000000 ||| M = M) :
    State.Frame M r (State.takeGalDelta s c id d) := by
  unfold State.takeGalDelta
  try dsimp only
  repeat' first
    | (with_reducible first
        | assumption | apply State.bump_frame | apply State.addTotal_frame)
    | exact Mask.trans (by rfl) hM
    | split
    | with_reducible intro _

theorem State.applyDeltas_frame {s : State} {c : Nat} {kind : Nat} {target : Nat} {ds : List DeltaRec} (hS : State.Frame M r s) (hM : 0x7ec20000000000000000000000c4000c0000000000 ||| M = M) :
    State.Frame M r (State.applyDeltas s c kind target ds) := by
  unfold State.applyDeltas
  try dsimp only
  repeat' first
    | (with_reducible first
        | assumption | apply State.takeGalDelta_frame | apply State.arrayAdd_frame
        | (refine State.arrayAdd_frame_eq (he := by assumption) ?_ ?_))
    | exact Mask.trans (by rfl) hM
    | split
    | with_reducible apply State.Frame.foldl
    | with_reducible apply State.Frame.foldl_fst
    | with_reducible intro _

theorem State.applyWaiting_frame {s : State} {c : Nat} {kind : Nat} {target : Nat} (hS : State.Frame M r s) (hM : 0x207ec20000000000000001000000c4000c0000000000 ||| M = M) :
    State.Frame M r (State.applyWaiting s c kind target) := by
  unfold State.applyWaiting
  try dsimp only
  repeat' first
    | (with_reducible first
        | assumption | apply State.updChase_frame | apply State.sendAck_frame | apply State.markDone_frame | apply State.applyDeltas_frame)
    | exact Mask.trans (by rfl) hM
    | split
    | with_reducible apply State.Frame.foldl
    | with_reducible apply State.Frame.foldl_fst
    | with_reducible intro _

theorem State.updSplit_frame {s : State} {c : Nat} {id : Nat} {at_ : Nat} {f : Nat → Nat → HeldBag → HeldBag} (hS : State.Frame M r s) (hM : 0x400000000000000000000000000000000000000000 ||| M = M) :
    State.Frame M r (State.updSplit s c id at_ f) := by
  unfold State.updSplit
  try dsimp only
  repeat' first
    | (with_reducible first
        | assumption | apply State.updGalley_frame)
    | exact Mask.trans (by rfl) hM
    | split
    | with_reducible intro _

theorem State.takePartial_frame {s : State} {c : Nat} {id : Nat} {r_ : LookupPartial} (hS : State.Frame M r s) (hM : 0x400000000000000000000000000000000000000000 ||| M = M) :
    State.Frame M r (State.takePartial s c id r_) := by
  unfold State.takePartial
  try dsimp only
  repeat' first
    | (with_reducible first
        | assumption | apply State.updSplit_frame)
    | exact Mask.trans (by rfl) hM
    | split
    | with_reducible intro _

theorem State.requestsLost_frame {s : State} {c : Nat} {id : Nat} {data : Bytes} (hS : State.Frame M r s) (hM : 0x400000000000000000000000000000000000000000 ||| M = M) :
    State.Frame M r (State.requestsLost s c id data) := by
  unfold State.requestsLost
  try dsimp only
  repeat' first
    | (with_reducible first
        | assumption | apply State.updSplit_frame)
    | exact Mask.trans (by rfl) hM
    | split
    | with_reducible intro _

theorem State.takeAppend_frame {s : State} {c : Nat} {kind : Nat} {target : Nat} {src : Nat} {msg : Nat} {data : Bytes} (hS : State.Frame M r s) (hM : 0x7ec20000000000000000000000c4000c0000000000 ||| M = M) :
    State.Frame M r (State.takeAppend s c kind target src msg data).1 := by
  unfold State.takeAppend
  try dsimp only
  repeat' first
    | (with_reducible first
        | assumption | apply State.noteArrayDrops_frame | apply State.countGal_frame | apply State.updChase_frame
        | apply State.updGalley_frame | apply State.takePartial_frame | apply State.applyDeltas_frame)
    | exact Mask.trans (by rfl) hM
    | split
    | with_reducible apply State.Frame.foldl
    | with_reducible apply State.Frame.foldl_fst
    | with_reducible intro _

theorem State.takeAppend_frame_eq {s : State} {c : Nat} {kind : Nat} {target : Nat} {src : Nat} {msg : Nat} {data : Bytes} (hS : State.Frame M r s) (hM : 0x7ec20000000000000000000000c4000c0000000000 ||| M = M) {u : State} {z : Option Nat} (he : State.takeAppend s c kind target src msg data = (u, z)) :
    State.Frame M r u := by
  have := State.takeAppend_frame hS hM (s := s) (c := c) (kind := kind) (target := target) (src := src) (msg := msg) (data := data)
  rwa [he] at this

theorem State.exchangeSummary_frame {s : State} {c : Nat} {fault : Bool} (hS : State.Frame M r s) (hM : 0x20404000000000000000010000000000000000000000 ||| M = M) :
    State.Frame M r (State.exchangeSummary s c fault) := by
  unfold State.exchangeSummary
  try dsimp only
  repeat' first
    | (with_reducible first
        | assumption | apply State.giveSummary_frame)
    | exact Mask.trans (by rfl) hM
    | split
    | with_reducible intro _

theorem State.exchangeTake_frame {s : State} {c : Nat} {fault : Bool} (hS : State.Frame M r s) (hM : 0x207ec20000000000000001000000c4000c0000000000 ||| M = M) :
    State.Frame M r (State.exchangeTake s c fault) := by
  unfold State.exchangeTake
  try dsimp only
  repeat' first
    | (with_reducible first
        | assumption | apply State.applyWaiting_frame | apply State.updChase_frame | apply State.exchangeSummary_frame)
    | exact Mask.trans (by rfl) hM
    | split
    | with_reducible intro _

theorem State.exchangePlate_frame {s : State} {c : Nat} {asks : List (Nat × Nat)} (hS : State.Frame M r s) (hM : 0x207ec20000000000000001000000c4000c0000020000 ||| M = M) :
    State.Frame M r (State.exchangePlate s c asks) := by
  unfold State.exchangePlate
  try dsimp only
  repeat' first
    | (with_reducible first
        | assumption | apply State.recordFault_frame | apply State.exchangeTake_frame | apply State.sendEntry_frame
        | apply State.noteRead_frame | apply State.drainGalley_frame | apply State.sendGuests_frame
        | (refine State.sendGuests_frame_eq (he := by assumption) ?_ ?_) | apply State.drainArray_frame | apply State.updChase_frame
        | apply State.plateWorked_frame)
    | exact Mask.trans (by rfl) hM
    | split
    | with_reducible apply State.Frame.foldl
    | with_reducible apply State.Frame.foldl_fst
    | with_reducible intro _

theorem execExchange_frame {slot : Nat} {inp : ExchangeIn} {s : State} (hS : State.Frame M r s) (hM : 0x4bbfee2dc000a8003000001000027c43e0c00000a010e ||| M = M) :
    AnsFrame M r (execExchange slot inp s) := by
  unfold execExchange
  try dsimp only
  repeat' first
    | (with_reducible first
        | assumption | exact ansFrame_fault | apply ansFrame_next | apply State.plateDo_frame | apply State.exchangePlate_frame)
    | exact Mask.trans (by rfl) hM
    | split
    | with_reducible intro _

end Sys2Proof.Machine
end

