-- ==== Sys2Proof/Laws/FrameLinks.lean ====
section
/-! SUPPORT. The frame of each operation of time, links, rings, strokes and the networks: its mask, and that it changes nothing outside it. -/

set_option Elab.async false

namespace Sys2Proof.Machine

set_option linter.unusedTactic false
set_option linter.unreachableTactic false

variable {M : Nat} {r : State}

/-! ### Machine/Links.lean -/

theorem State.noteStamp_frame {s : State} {o : Out} (hS : State.Frame M r s) (hM : 0x100000000000000000000000000000000000000000000 ||| M = M) :
    State.Frame M r (State.noteStamp s o) := by
  unfold State.noteStamp
  try dsimp only
  repeat' first
    | (with_reducible first
        | assumption | apply State.updTime_frame)
    | exact Mask.trans (by rfl) hM
    | split
    | with_reducible intro _

theorem State.flushLink_frame {s : State} {l : Nat} {x0 : Nat} (hS : State.Frame M r s) (hM : 0x120004000000000000000000000000000000000000000 ||| M = M) :
    State.Frame M r (State.flushLink s l x0) := by
  induction x0 generalizing s with
  | zero => exact hS
  | succ n ih =>
  simp only [State.flushLink]
  repeat' first
    | (with_reducible first
        | assumption | apply ih | apply State.noteStamp_frame | apply State.emit_frame | apply State.sendOn_frame | apply State.updLink_frame)
    | exact Mask.trans (by rfl) hM
    | split
    | with_reducible intro _

theorem State.sendLink_frame {s : State} {l : Nat} {typ : Nat} {arg : Nat} {o : Out} (hS : State.Frame M r s) (hM : 0x120004000000000000000000000000000000000000000 ||| M = M) :
    State.Frame M r (State.sendLink s l typ arg o) := by
  unfold State.sendLink
  try dsimp only
  repeat' first
    | (with_reducible first
        | assumption | apply State.updLink_frame | apply State.flushLink_frame)
    | exact Mask.trans (by rfl) hM
    | split
    | with_reducible intro _

theorem State.dbChanged_frame {s : State} (hS : State.Frame M r s) (hM : 0x2000000000000000000000c000000000000000000000 ||| M = M) :
    State.Frame M r (State.dbChanged s) := by
  unfold State.dbChanged
  try dsimp only
  repeat' first
    | (with_reducible first
        | assumption | exact fieldsMask_nil | apply fieldsMask_cons | apply State.setFs_frame | apply State.bump_frame
        | apply State.updFab_frame)
    | exact Mask.trans (by rfl) hM
    | split
    | with_reducible apply State.Frame.foldl
    | with_reducible apply State.Frame.foldl_fst
    | with_reducible intro _

theorem State.keepLsr_frame {s : State} {r_ : Lsr} (hS : State.Frame M r s) (hM : 0x2000000000000000000000c000000000000000000000 ||| M = M) :
    State.Frame M r (State.keepLsr s r_) := by
  unfold State.keepLsr
  try dsimp only
  repeat' first
    | (with_reducible first
        | assumption | apply State.updFab_frame | apply State.dbChanged_frame)
    | exact Mask.trans (by rfl) hM
    | split
    | with_reducible intro _

theorem State.flood_frame {s : State} {r_ : Lsr} {but : Nat} (hS : State.Frame M r s) (hM : 0x120004000000000000000000000000000000000000000 ||| M = M) :
    State.Frame M r (State.flood s r_ but) := by
  unfold State.flood
  try dsimp only
  repeat' first
    | (with_reducible first
        | assumption | apply State.sendLink_frame)
    | exact Mask.trans (by rfl) hM
    | split
    | with_reducible apply State.Frame.foldl
    | with_reducible apply State.Frame.foldl_fst
    | with_reducible intro _

theorem State.originate_frame {s : State} (hS : State.Frame M r s) (hM : 0x12000400000000000000000c000000000000000000000 ||| M = M) :
    State.Frame M r (State.originate s) := by
  unfold State.originate
  try dsimp only
  repeat' first
    | (with_reducible first
        | assumption | apply State.flood_frame | apply State.keepLsr_frame | apply State.updFab_frame)
    | exact Mask.trans (by rfl) hM
    | split
    | with_reducible intro _

theorem State.renameTables_frame {s : State} {m : List (Nat × Nat × Nat × Nat)} (hS : State.Frame M r s) (hM : 0x300000000000000000000000 ||| M = M) :
    State.Frame M r (State.renameTables s m) := by
  unfold State.renameTables
  try dsimp only
  repeat' first
    | (with_reducible first
        | assumption | apply State.wr_frame)
    | exact Mask.trans (by rfl) hM
    | split
    | with_reducible apply State.Frame.foldl
    | with_reducible apply State.Frame.foldl_fst
    | with_reducible intro _

theorem State.activate_frame {s : State} {l : Nat} (hS : State.Frame M r s) (hM : 0x20004000000000000000000080000000000000000000 ||| M = M) :
    State.Frame M r (State.activate s l) := by
  unfold State.activate
  try dsimp only
  repeat' first
    | (with_reducible first
        | assumption | apply State.updLink_frame | apply State.setF_frame | apply State.resendFrom_frame)
    | exact Mask.trans (by rfl) hM
    | split
    | with_reducible intro _

theorem State.enterLinked_frame {s : State} {l : Nat} (hS : State.Frame M r s) (hM : 0x20000000000000000000000080000000000000000000 ||| M = M) :
    State.Frame M r (State.enterLinked s l) := by
  unfold State.enterLinked
  try dsimp only
  repeat' first
    | (with_reducible first
        | assumption | apply State.updLink_frame | apply State.setF_frame)
    | exact Mask.trans (by rfl) hM
    | split
    | with_reducible intro _

theorem State.rebundle_frame {s : State} (hS : State.Frame M r s) (hM : 0x12000400002400000000079c080000000000000000000 ||| M = M) :
    State.Frame M r (State.rebundle s) := by
  unfold State.rebundle
  try dsimp only
  repeat' first
    | (with_reducible first
        | assumption | exact fieldsMask_nil | apply fieldsMask_cons | apply State.wr_frame | apply State.setF_frame
        | apply State.renameTables_frame | apply State.activate_frame | apply State.setFs_frame | apply State.originate_frame
        | apply State.retryHeld_frame | apply State.chooseParent_frame)
    | exact Mask.trans (by rfl) hM
    | split
    | with_reducible apply State.Frame.foldl
    | with_reducible apply State.Frame.foldl_fst
    | with_reducible intro _

theorem State.placeLink_frame {s : State} {l : Nat} (hS : State.Frame M r s) (hM : 0x20000000000000000000000080000000000000000000 ||| M = M) :
    State.Frame M r (State.placeLink s l) := by
  unfold State.placeLink
  try dsimp only
  repeat' first
    | (with_reducible first
        | assumption | apply State.setF_frame | apply State.enterLinked_frame)
    | exact Mask.trans (by rfl) hM
    | split
    | with_reducible intro _

theorem State.noteFabric_frame {s : State} (hS : State.Frame M r s) (hM : 0x100000000000000000000000000000000000000 ||| M = M) :
    State.Frame M r (State.noteFabric s) := by
  unfold State.noteFabric
  try dsimp only
  repeat' first
    | (with_reducible first
        | assumption | exact fieldsMask_nil | apply fieldsMask_cons | apply State.setFs_frame)
    | exact Mask.trans (by rfl) hM
    | split
    | with_reducible intro _

theorem State.reroute_frame {s : State} {fs : List Flit} (hS : State.Frame M r s) (hM : 0x20004000000000000000030000000000000000000000 ||| M = M) :
    State.Frame M r (State.reroute s fs) := by
  unfold State.reroute
  try dsimp only
  repeat' first
    | (with_reducible first
        | assumption | apply State.deliverFlit_frame | apply State.routeFrom_frame)
    | exact Mask.trans (by rfl) hM
    | split
    | with_reducible apply State.Frame.foldl
    | with_reducible apply State.Frame.foldl_fst
    | with_reducible intro _

theorem State.resendOn_frame {s : State} {links : List Nat} {fs : List Flit} (hS : State.Frame M r s) (hM : 0x20004000000000000000000000000000000000000000 ||| M = M) :
    State.Frame M r (State.resendOn s links fs) := by
  unfold State.resendOn
  try dsimp only
  repeat' first
    | (with_reducible first
        | assumption | apply State.sendOn_frame | apply State.updFab_frame)
    | exact Mask.trans (by rfl) hM
    | split
    | with_reducible apply State.Frame.foldl
    | with_reducible apply State.Frame.foldl_fst
    | with_reducible intro _

theorem State.unlink_frame {s : State} {l : Nat} {st : Nat} (hS : State.Frame M r s) (hM : 0x20000000000000000000000180000000000000000000 ||| M = M) :
    State.Frame M r (State.unlink s l st) := by
  unfold State.unlink
  try dsimp only
  repeat' first
    | (with_reducible first
        | assumption | exact fieldsMask_nil | apply fieldsMask_cons | apply State.updLink_frame | apply State.setF_frame
        | apply State.setFs_frame)
    | exact Mask.trans (by rfl) hM
    | split
    | with_reducible intro _

theorem State.linkDown_frame {s : State} {l : Nat} (hS : State.Frame M r s) (hM : 0x1200060d40240000300007bc180000000000000000000 ||| M = M) :
    State.Frame M r (State.linkDown s l) := by
  unfold State.linkDown
  try dsimp only
  repeat' first
    | (with_reducible first
        | assumption | apply State.logErr_frame | apply State.updLink_frame | apply State.unlink_frame | apply State.reroute_frame
        | apply State.rebundle_frame)
    | exact Mask.trans (by rfl) hM
    | split
    | with_reducible intro _

theorem State.retrain_frame {s : State} {l : Nat} {n : Nat} (hS : State.Frame M r s) (hM : 0x12000400002400000000079c380000000000000000000 ||| M = M) :
    State.Frame M r (State.retrain s l n) := by
  unfold State.retrain
  try dsimp only
  repeat' first
    | (with_reducible first
        | assumption | apply State.updLink_frame | apply State.bump_frame | apply State.unlink_frame | apply State.resendOn_frame
        | apply State.rebundle_frame)
    | exact Mask.trans (by rfl) hM
    | split
    | with_reducible intro _

theorem execSignalPresent_frame {link : Nat} {s : State} (hS : State.Frame M r s) (hM : 0x20000000000000000000000080000000000000000000 ||| M = M) :
    AnsFrame M r (execSignalPresent link s) := by
  unfold execSignalPresent
  try dsimp only
  repeat' first
    | (with_reducible first
        | assumption | exact ansFrame_fault | apply ansFrame_next | apply State.ifB_frame | apply State.updLink_frame
        | apply State.setF_frame)
    | exact Mask.trans (by rfl) hM
    | split
    | with_reducible intro _

theorem execLossOfSignal_frame {link : Nat} {s : State} (hS : State.Frame M r s) (hM : 0x1200061d40240000300007bc180000000000000000000 ||| M = M) :
    AnsFrame M r (execLossOfSignal link s) := by
  unfold execLossOfSignal
  try dsimp only
  repeat' first
    | (with_reducible first
        | assumption | exact ansFrame_fault | apply ansFrame_next | apply State.ifB_frame | apply State.updLink_frame
        | apply State.noteFabric_frame | apply State.linkDown_frame)
    | exact Mask.trans (by rfl) hM
    | split
    | with_reducible intro _

theorem execTrainingRetry_frame {link : Nat} {s : State} (hS : State.Frame M r s) (hM : 0x20000000000000000000000080000000000000000000 ||| M = M) :
    AnsFrame M r (execTrainingRetry link s) := by
  unfold execTrainingRetry
  try dsimp only
  repeat' first
    | (with_reducible first
        | assumption | exact ansFrame_fault | apply ansFrame_next | apply State.ifB_frame | apply State.setF_frame
        | apply State.updLink_frame)
    | exact Mask.trans (by rfl) hM
    | split
    | with_reducible intro _

theorem State.takeHello_frame {s : State} {l : Nat} {h : Hello} (hS : State.Frame M r s) (hM : 0x12000400002400000000079c180000000000000000000 ||| M = M) :
    State.Frame M r (State.takeHello s l h) := by
  unfold State.takeHello
  try dsimp only
  repeat' first
    | (with_reducible first
        | assumption | exact fieldsMask_nil | apply fieldsMask_cons | apply State.setFs_frame | apply State.rebundle_frame
        | apply State.placeLink_frame | apply State.updLink_frame | apply State.setF_frame)
    | exact Mask.trans (by rfl) hM
    | split
    | with_reducible intro _

theorem execHello_frame {link : Nat} {h : Hello} {s : State} (hS : State.Frame M r s) (hM : 0x12000400002400000000079c180000000000000000000 ||| M = M) :
    AnsFrame M r (execHello link h s) := by
  unfold execHello
  try dsimp only
  repeat' first
    | (with_reducible first
        | assumption | exact ansFrame_fault | apply ansFrame_next | apply State.ifB_frame | apply State.takeHello_frame)
    | exact Mask.trans (by rfl) hM
    | split
    | with_reducible intro _

theorem execHelloTick_frame {s : State} (hS : State.Frame M r s) (hM : 0x120004000000000000000000000000000000000000000 ||| M = M) :
    AnsFrame M r (execHelloTick s) := by
  unfold execHelloTick
  try dsimp only
  repeat' first
    | (with_reducible first
        | assumption | exact ansFrame_fault | apply ansFrame_next | apply State.ifB_frame | apply State.sendLink_frame)
    | exact Mask.trans (by rfl) hM
    | split
    | with_reducible apply State.Frame.foldl
    | with_reducible apply State.Frame.foldl_fst
    | with_reducible intro _

theorem execHelloTimeout_frame {link : Nat} {s : State} (hS : State.Frame M r s) (hM : 0x1200060d40240000300007bc380000000000000000000 ||| M = M) :
    AnsFrame M r (execHelloTimeout link s) := by
  unfold execHelloTimeout
  try dsimp only
  repeat' first
    | (with_reducible first
        | assumption | exact ansFrame_fault | apply ansFrame_next | apply State.ifB_frame | apply State.linkDown_frame
        | apply State.setF_frame | apply State.updLink_frame | apply State.bump_frame)
    | exact Mask.trans (by rfl) hM
    | split
    | with_reducible intro _

theorem execTrainingComplete_frame {link : Nat} {ok : Bool} {h : Hello} {s : State} (hS : State.Frame M r s) (hM : 0x1200061d40240000300007bc380000000000000000000 ||| M = M) :
    AnsFrame M r (execTrainingComplete link ok h s) := by
  unfold execTrainingComplete
  try dsimp only
  repeat' first
    | (with_reducible first
        | assumption | exact ansFrame_fault | apply ansFrame_next | apply State.ifB_frame | apply State.updLink_frame
        | apply State.enterLinked_frame | apply State.takeHello_frame | apply State.resendFrom_frame | apply State.noteFabric_frame
        | apply State.sendLink_frame | apply State.retrain_frame | apply State.linkDown_frame)
    | exact Mask.trans (by rfl) hM
    | split
    | with_reducible intro _

theorem execLsr_frame {link : Nat} {r_ : Lsr} {s : State} (hS : State.Frame M r s) (hM : 0x12000400000000000000000c000000000000000000000 ||| M = M) :
    AnsFrame M r (execLsr link r_ s) := by
  unfold execLsr
  try dsimp only
  repeat' first
    | (with_reducible first
        | assumption | exact ansFrame_fault | apply ansFrame_next | apply State.ifB_frame | apply State.flood_frame
        | apply State.keepLsr_frame)
    | exact Mask.trans (by rfl) hM
    | split
    | with_reducible intro _

theorem execLsrRefresh_frame {s : State} (hS : State.Frame M r s) (hM : 0x12000400000000000000000c000000000000000000000 ||| M = M) :
    AnsFrame M r (execLsrRefresh s) := by
  unfold execLsrRefresh
  try dsimp only
  repeat' first
    | (with_reducible first
        | assumption | exact ansFrame_fault | apply ansFrame_next | apply State.ifB_frame | apply State.originate_frame)
    | exact Mask.trans (by rfl) hM
    | split
    | with_reducible intro _

theorem execLsrExpiry_frame {serial : Nat} {s : State} (hS : State.Frame M r s) (hM : 0x2000000000000000000000c000000000000000000000 ||| M = M) :
    AnsFrame M r (execLsrExpiry serial s) := by
  unfold execLsrExpiry
  try dsimp only
  repeat' first
    | (with_reducible first
        | assumption | exact ansFrame_fault | apply ansFrame_next | apply State.ifB_frame | apply State.dbChanged_frame
        | apply State.updFab_frame)
    | exact Mask.trans (by rfl) hM
    | split
    | with_reducible intro _

theorem execSettlement_frame {s : State} (hS : State.Frame M r s) (hM : 0x1b3fee20002488003000079c8800004000c0000000108 ||| M = M) :
    AnsFrame M r (execSettlement s) := by
  unfold execSettlement
  try dsimp only
  repeat' first
    | (with_reducible first
        | assumption | exact ansFrame_fault | apply ansFrame_next | exact fieldsMask_nil | apply fieldsMask_cons | apply State.ifB_frame
        | apply State.updFab_frame | apply State.setFs_frame | apply State.faultChase_frame | apply State.rebundle_frame
        | apply State.placeLink_frame)
    | exact Mask.trans (by rfl) hM
    | split
    | with_reducible apply State.Frame.foldl
    | with_reducible apply State.Frame.foldl_fst
    | with_reducible intro _

/-! ### Machine/Topology.lean -/

theorem State.putTables_frame {s : State} {r_ : RouteTables} (hS : State.Frame M r s) (hM : 0x300000000000000000000000 ||| M = M) :
    State.Frame M r (State.putTables s r_) := by
  unfold State.putTables
  dsimp only
  refine State.Frame.foldl (fun _ _ h => State.wr_frame h ?_)
    (State.Frame.foldl (fun _ _ h => State.wr_frame h ?_) (hS.filterRegs _ fun n i w hi hp => Mask.bit hM ?_))
  · exact Mask.trans (by rfl) hM
  · exact Mask.trans (by rfl) hM
  · have key : ∀ n ∈ RegName.all, n.info.base + n.info.stride * (n.info.count - 1) < 0x1090000 ∨ 0x1091000 ≤ n.info.base ∨
        Nat.testBit 0x300000000000000000000000 n.ctorIdx = true := by decide +kernel
    have h1 : n.info.stride * i ≤ n.info.stride * (n.info.count - 1) := Nat.mul_le_mul_left _ (by omega)
    simp only [RegName.addr, Bool.or_eq_false_iff] at hp
    have hp1 := of_decide_eq_false hp.1
    have hp2 := of_decide_eq_false hp.2
    rcases key n n.mem_all with h | h | h
    · omega
    · omega
    · exact h

theorem State.fitLinks_frame {s : State} {fits : List BundleFit} (hS : State.Frame M r s) (hM : 0x20000000000000000000000080000000000000000000 ||| M = M) :
    State.Frame M r (State.fitLinks s fits) := by
  unfold State.fitLinks
  try dsimp only
  repeat' first
    | (with_reducible first
        | assumption | exact fieldsMask_nil | apply fieldsMask_cons | apply State.setFs_frame | apply State.enterLinked_frame)
    | exact Mask.trans (by rfl) hM
    | split
    | with_reducible apply State.Frame.foldl
    | with_reducible apply State.Frame.foldl_fst
    | with_reducible intro _

theorem State.routeBuild_frame {s : State} (hS : State.Frame M r s) (hM : 0x12000410002400000000079c080000000000000000000 ||| M = M) :
    State.Frame M r (State.routeBuild s) := by
  unfold State.routeBuild
  try dsimp only
  repeat' first
    | (with_reducible first
        | assumption | exact fieldsMask_nil | apply fieldsMask_cons | apply State.setFs_frame | apply State.putTables_frame
        | apply State.fitLinks_frame | apply State.updFab_frame | apply State.bump_frame | apply State.noteFabric_frame
        | apply State.rebundle_frame)
    | exact Mask.trans (by rfl) hM
    | split
    | with_reducible apply State.Frame.foldl
    | with_reducible apply State.Frame.foldl_fst
    | with_reducible intro _

theorem execRouteBuild_frame {s : State} (hS : State.Frame M r s) (hM : 0x12000410002400000000079c080000000000000000000 ||| M = M) :
    AnsFrame M r (execRouteBuild s) := by
  unfold execRouteBuild
  try dsimp only
  repeat' first
    | (with_reducible first
        | assumption | exact ansFrame_fault | apply ansFrame_next | apply State.ifB_frame | apply State.routeBuild_frame)
    | exact Mask.trans (by rfl) hM
    | split
    | with_reducible intro _

/-! ### Machine/Ring.lean -/

theorem State.updRing_frame {s : State} {r_ : Nat} {f : RingRt → RingRt} (hS : State.Frame M r s) (hM : 0x8000000000000000000000000000000000000000 ||| M = M) :
    State.Frame M r (State.updRing s r_ f) := by
  unfold State.updRing
  try dsimp only
  repeat' first
    | (with_reducible first
        | assumption)
    | exact Mask.trans (by rfl) hM
    | split
    | (fail_if_no_progress
        with_reducible refine State.Frame.rest ?_ ?hp
        case hp => intro p hp; cases p <;> first | exact Mask.clash hM hp rfl | with_reducible exact rfl)
    | with_reducible intro _

theorem State.beginTicket_frame {s : State} {r_ : Nat} {raw : Bytes} (hS : State.Frame M r s) (hM : 0x8000000000000000000000000000000000000000 ||| M = M) :
    State.Frame M r (State.beginTicket s r_ raw) := by
  unfold State.beginTicket
  try dsimp only
  repeat' first
    | (with_reducible first
        | assumption)
    | exact Mask.trans (by rfl) hM
    | split
    | (fail_if_no_progress
        with_reducible refine State.Frame.rest ?_ ?hp
        case hp => intro p hp; cases p <;> first | exact Mask.clash hM hp rfl | with_reducible exact rfl)
    | with_reducible intro _

theorem State.pumpPosted_frame {x0 : Nat} {x1 : State} {x2 : Nat} (hSx1 : State.Frame M r x1) (hM : 0x8000000000000000000000000000000000000000 ||| M = M) :
    State.Frame M r (State.pumpPosted x0 x1 x2) := by
  induction x0 generalizing x1 with
  | zero => exact hSx1
  | succ n ih =>
  simp only [State.pumpPosted]
  repeat' first
    | (with_reducible first
        | assumption | apply ih | apply State.beginTicket_frame)
    | exact Mask.trans (by rfl) hM
    | split
    | (fail_if_no_progress
        with_reducible refine State.Frame.rest ?_ ?hp
        case hp => intro p hp; cases p <;> first | exact Mask.clash hM hp rfl | with_reducible exact rfl)
    | with_reducible intro _

theorem State.postTickets_frame {s : State} {r_ : Nat} {l : List Bytes} (hS : State.Frame M r s) (hM : 0x8000000000000000000000000000000000000000 ||| M = M) :
    State.Frame M r (State.postTickets s r_ l) := by
  unfold State.postTickets
  try dsimp only
  repeat' first
    | (with_reducible first
        | assumption | apply State.pumpPosted_frame)
    | exact Mask.trans (by rfl) hM
    | split
    | (fail_if_no_progress
        with_reducible refine State.Frame.rest ?_ ?hp
        case hp => intro p hp; cases p <;> first | exact Mask.clash hM hp rfl | with_reducible exact rfl)
    | with_reducible intro _

theorem State.fetchOne_frame {s : State} {r_ : Nat} (hS : State.Frame M r s) (hM : 0xe0000000100b0000000000000000000000000000 ||| M = M) :
    State.Frame M r (State.fetchOne s r_).1 := by
  unfold State.fetchOne
  extract_lets x h
  have ha := State.hostGet_frame (s := s) (a := 4096 * s.getF Fld.hifRgTbase r_ + 512 * (h % s.ringSize r_)) (n := 512) hS
    (Mask.trans (by rfl) hM)
  revert ha
  generalize s.hostGet (4096 * s.getF Fld.hifRgTbase r_ + 512 * (h % s.ringSize r_)) 512 = p
  obtain ⟨s1, _ | b⟩ := p
  all_goals
    intro ha
    dsimp only at ha ⊢
    split
    · exact hS
    split
    · dsimp only; exact State.updRing_frame hS (Mask.trans (by rfl) hM)
    repeat' first
      | (with_reducible first
        | assumption | apply State.updRing_frame | apply State.setF_frame | apply State.beginTicket_frame)
      | exact Mask.trans (by rfl) hM
      | split

theorem State.fetchOne_frame_eq {s : State} {r_ : Nat} (hS : State.Frame M r s) (hM : 0xe0000000100b0000000000000000000000000000 ||| M = M) {u : State} {z : Fetch} (he : State.fetchOne s r_ = (u, z)) :
    State.Frame M r u := by
  have := State.fetchOne_frame hS hM (s := s) (r_ := r_)
  rwa [he] at this

theorem State.fetchLoop_frame {x0 : Nat} {x1 : State} {x2 : Nat} (hSx1 : State.Frame M r x1) (hM : 0xe0000000100b0000000000000000000000000000 ||| M = M) :
    State.Frame M r (State.fetchLoop x0 x1 x2) := by
  induction x0 generalizing x1 with
  | zero => exact hSx1
  | succ n ih =>
  simp only [State.fetchLoop]
  repeat' first
    | (with_reducible first
        | assumption | apply ih | apply State.fetchOne_frame | (refine State.fetchOne_frame_eq (he := by assumption) ?_ ?_)
        | apply State.updRing_frame)
    | exact Mask.trans (by rfl) hM
    | split
    | with_reducible intro _

theorem State.pump_frame {s : State} {r_ : Nat} (hS : State.Frame M r s) (hM : 0xe0000000100b0000000000000000000000000000 ||| M = M) :
    State.Frame M r (State.pump s r_) := by
  unfold State.pump
  try dsimp only
  repeat' first
    | (with_reducible first
        | assumption | apply State.fetchLoop_frame)
    | exact Mask.trans (by rfl) hM
    | split
    | with_reducible intro _

theorem State.reread_frame {s : State} {r_ : Nat} {n : Nat} (hS : State.Frame M r s) (hM : 0xe0000000300b0000000000000000000000000000 ||| M = M) :
    State.Frame M r (State.reread s r_ n) := by
  unfold State.reread
  try dsimp only
  repeat' first
    | (with_reducible first
        | assumption | apply State.fetchOne_frame | (refine State.fetchOne_frame_eq (he := by assumption) ?_ ?_) | apply State.bump_frame
        | apply State.pump_frame | apply State.updRing_frame | apply State.eventStale_frame | apply State.setF_frame)
    | exact Mask.trans (by rfl) hM
    | split
    | with_reducible intro _

theorem execTicketReread_frame {ring : Nat} {stores : List (Nat × BitVec 8)} {s : State} (hS : State.Frame M r s) (hM : 0x1e0000000300b0000000000000000000000000000 ||| M = M) :
    AnsFrame M r (execTicketReread ring stores s) := by
  unfold execTicketReread
  try dsimp only
  repeat' first
    | (with_reducible first
        | assumption | exact ansFrame_fault | apply ansFrame_next | apply State.hostStores_frame | apply State.reread_frame)
    | exact Mask.trans (by rfl) hM
    | split
    | with_reducible intro _

theorem State.doorbell_frame {s : State} {r_ : Nat} {value : Nat} (hS : State.Frame M r s) (hM : 0xe0000000300b0000000000000000000000000000 ||| M = M) :
    State.Frame M r (State.doorbell s r_ value) := by
  unfold State.doorbell
  try dsimp only
  repeat' first
    | (with_reducible first
        | assumption | apply State.bump_frame | apply State.updRing_frame | apply State.fetchOne_frame
        | (refine State.fetchOne_frame_eq (he := by assumption) ?_ ?_) | apply State.pump_frame)
    | exact Mask.trans (by rfl) hM
    | split
    | with_reducible intro _

theorem execDoorbell_frame {rid : Nat} {ring : Nat} {value : Nat} {stores : List (Nat × BitVec 8)} {s : State} (hS : State.Frame M r s) (hM : 0x1e0000000301b0000000000000000000000000000 ||| M = M) :
    AnsFrame M r (execDoorbell rid ring value stores s) := by
  unfold execDoorbell
  try dsimp only
  repeat' first
    | (with_reducible first
        | assumption | exact ansFrame_fault | apply ansFrame_next | apply State.regWrite_frame | apply State.hostStores_frame
        | apply State.ifB_frame | apply State.doorbell_frame)
    | exact Mask.trans (by rfl) hM
    | split
    | with_reducible intro _

theorem State.signalRing_frame {s : State} {r_ : Nat} (hS : State.Frame M r s) (hM : 0xe000000000000000000000000000000000000000 ||| M = M) :
    State.Frame M r (State.signalRing s r_) := by
  unfold State.signalRing
  try dsimp only
  repeat' first
    | (with_reducible first
        | assumption | apply State.msix1_frame | apply State.updRing_frame)
    | exact Mask.trans (by rfl) hM
    | split
    | with_reducible intro _

theorem State.putProof_frame {s : State} {r_ : Nat} {p : Bytes × Bool} (hS : State.Frame M r s) (hM : 0x1e0000000180b0000000000000000000000000000 ||| M = M) :
    State.Frame M r (State.putProof s r_ p).1 := by
  unfold State.putProof
  try dsimp only
  repeat' first
    | (with_reducible first
        | assumption | apply State.hostPut_frame | (refine State.hostPut_frame_eq (he := by assumption) ?_ ?_) | apply State.setF_frame
        | apply State.updRing_frame | apply State.signalRing_frame)
    | exact Mask.trans (by rfl) hM
    | split
    | with_reducible intro _

theorem State.putProof_frame_eq {s : State} {r_ : Nat} {p : Bytes × Bool} (hS : State.Frame M r s) (hM : 0x1e0000000180b0000000000000000000000000000 ||| M = M) {u : State} {z : Bool} (he : State.putProof s r_ p = (u, z)) :
    State.Frame M r u := by
  have := State.putProof_frame hS hM (s := s) (r_ := r_) (p := p)
  rwa [he] at this

theorem State.drained_frame {s : State} {r_ : Nat} (hS : State.Frame M r s) (hM : 0x10000000000000000000000000000000 ||| M = M) :
    State.Frame M r (State.drained s r_) := by
  unfold State.drained
  try dsimp only
  repeat' first
    | (with_reducible first
        | assumption | apply State.setF_frame)
    | exact Mask.trans (by rfl) hM
    | split
    | with_reducible intro _

theorem State.blockProof_frame {s : State} {r_ : Nat} {p : Bytes × Bool} (hS : State.Frame M r s) (hM : 0x8000000010000000000000000000000000000000 ||| M = M) :
    State.Frame M r (State.blockProof s r_ p) := by
  unfold State.blockProof
  try dsimp only
  repeat' first
    | (with_reducible first
        | assumption | apply State.updRing_frame | apply State.setF_frame)
    | exact Mask.trans (by rfl) hM
    | split
    | with_reducible intro _

theorem State.dropTicket_frame {s : State} {t : Ticket} (hS : State.Frame M r s) (hM : 0x8000000010000000000000000000000000000000 ||| M = M) :
    State.Frame M r (State.dropTicket s t) := by
  unfold State.dropTicket
  try dsimp only
  repeat' first
    | (with_reducible first
        | assumption | apply State.setF_frame)
    | exact Mask.trans (by rfl) hM
    | split
    | (fail_if_no_progress
        with_reducible refine State.Frame.rest ?_ ?hp
        case hp => intro p hp; cases p <;> first | exact Mask.clash hM hp rfl | with_reducible exact rfl)
    | with_reducible intro _

theorem State.writeProof_frame {s : State} {t : Ticket} (hS : State.Frame M r s) (hM : 0xfe0d40000180b0000000000000000000000000000 ||| M = M) :
    State.Frame M r (State.writeProof s t) := by
  unfold State.writeProof
  try dsimp only
  repeat' first
    | (with_reducible first
        | assumption | apply State.drainResult_frame | apply State.dropTicket_frame | apply State.logErr_frame
        | apply State.pumpPosted_frame | apply State.emit_frame | apply State.pump_frame | apply State.updRing_frame
        | apply State.putProof_frame | (refine State.putProof_frame_eq (he := by assumption) ?_ ?_) | apply State.drained_frame
        | apply State.blockProof_frame)
    | exact Mask.trans (by rfl) hM
    | split
    | with_reducible intro _

theorem execProof_frame {ring : Nat} {seq : Nat} {s : State} (hS : State.Frame M r s) (hM : 0xfe0d40000180b0000000000000000000000000000 ||| M = M) :
    AnsFrame M r (execProof ring seq s) := by
  unfold execProof
  try dsimp only
  repeat' first
    | (with_reducible first
        | assumption | exact ansFrame_fault | apply ansFrame_next | apply State.writeProof_frame)
    | exact Mask.trans (by rfl) hM
    | split
    | with_reducible intro _

theorem execCoalesceTimeout_frame {ring : Nat} {s : State} (hS : State.Frame M r s) (hM : 0xe000000000000000000000000000000000000000 ||| M = M) :
    AnsFrame M r (execCoalesceTimeout ring s) := by
  unfold execCoalesceTimeout
  try dsimp only
  repeat' first
    | (with_reducible first
        | assumption | exact ansFrame_fault | apply ansFrame_next | apply State.ifB_frame | apply State.signalRing_frame)
    | exact Mask.trans (by rfl) hM
    | split
    | with_reducible intro _

theorem State.enableRing_frame {s : State} {r_ : Nat} (hS : State.Frame M r s) (hM : 0x800000001a000000000000000000000000000000 ||| M = M) :
    State.Frame M r (State.enableRing s r_) := by
  unfold State.enableRing
  try dsimp only
  repeat' first
    | (with_reducible first
        | assumption | exact fieldsMask_nil | apply fieldsMask_cons | apply State.updRing_frame | apply State.setFs_frame)
    | exact Mask.trans (by rfl) hM
    | split
    | with_reducible intro _

theorem State.orphanTickets_frame {s : State} {r_ : Nat} (hS : State.Frame M r s) (hM : 0x8000000000000000000000000000000000000000 ||| M = M) :
    State.Frame M r (State.orphanTickets s r_) := by
  unfold State.orphanTickets
  try dsimp only
  repeat' first
    | (with_reducible first
        | assumption)
    | exact Mask.trans (by rfl) hM
    | split
    | (fail_if_no_progress
        with_reducible refine State.Frame.rest ?_ ?hp
        case hp => intro p hp; cases p <;> first | exact Mask.clash hM hp rfl | with_reducible exact rfl)
    | with_reducible intro _

theorem State.disableRing_frame {s : State} {r_ : Nat} (hS : State.Frame M r s) (hM : 0x8000000012000000000000000000000000000000 ||| M = M) :
    State.Frame M r (State.disableRing s r_) := by
  unfold State.disableRing
  try dsimp only
  repeat' first
    | (with_reducible first
        | assumption | exact fieldsMask_nil | apply fieldsMask_cons | apply State.setF_frame | apply State.updRing_frame
        | apply State.setFs_frame | apply State.orphanTickets_frame | apply State.drained_frame)
    | exact Mask.trans (by rfl) hM
    | split
    | with_reducible intro _

theorem State.writeWaiting_frame {x0 : Nat} {x1 : State} {x2 : Nat} (hSx1 : State.Frame M r x1) (hM : 0x1e0000000180b0000000000000000000000000000 ||| M = M) :
    State.Frame M r (State.writeWaiting x0 x1 x2) := by
  induction x0 generalizing x1 with
  | zero => exact hSx1
  | succ n ih =>
  simp only [State.writeWaiting]
  repeat' first
    | (with_reducible first
        | assumption | apply ih | apply State.putProof_frame | (refine State.putProof_frame_eq (he := by assumption) ?_ ?_)
        | apply State.updRing_frame)
    | exact Mask.trans (by rfl) hM
    | split
    | with_reducible intro _

theorem State.resumeRing_frame {s : State} {r_ : Nat} (hS : State.Frame M r s) (hM : 0x1e0000000180b0000000000000000000000000000 ||| M = M) :
    State.Frame M r (State.resumeRing s r_) := by
  unfold State.resumeRing
  try dsimp only
  repeat' first
    | (with_reducible first
        | assumption | apply State.pump_frame | apply State.setF_frame | apply State.writeWaiting_frame | apply State.drained_frame)
    | exact Mask.trans (by rfl) hM
    | split
    | with_reducible intro _

theorem State.ringCtrl_frame {s : State} {r_ : Nat} {value : Nat} (hS : State.Frame M r s) (hM : 0x1e00000001a0b0000000000000000000000000000 ||| M = M) :
    State.Frame M r (State.ringCtrl s r_ value) := by
  have hf : ∀ s : State, State.Frame M r s → State.Frame M r (s.setFs r_
      ([(Fld.hifRgDriver, bitsOf value 61 61), (Fld.hifRgVec, bitsOf value 42 32), (Fld.hifRgCoalN, bitsOf value 31 24),
        (Fld.hifRgCoalUs, bitsOf value 23 8)] ++
        if 4 ≤ bitsOf value 52 48 ∧ bitsOf value 52 48 ≤ 16 then [(Fld.hifRgLog2, bitsOf value 52 48)] else [])) := by
    intro s hs
    refine State.setFs_frame hs ?_
    split
    all_goals
      simp only [List.cons_append, List.nil_append]
      repeat' first | exact fieldsMask_nil | apply fieldsMask_cons | exact Mask.trans (by rfl) hM
  unfold State.ringCtrl
  dsimp only
  repeat' first
    | (with_reducible first
      | assumption | apply hf | apply State.enableRing_frame | apply State.disableRing_frame | apply State.resumeRing_frame)
    | exact Mask.trans (by rfl) hM
    | split
    | with_reducible apply State.setFs_frame
    | with_reducible exact fieldsMask_nil
    | with_reducible apply fieldsMask_cons
    | simp only [List.cons_append, List.nil_append]

theorem execHifRgEn_frame {rid : Nat} {ring : Nat} {value : Nat} {s : State} (hS : State.Frame M r s) (hM : 0x1e00000001a1b0000000000000000000000000000 ||| M = M) :
    AnsFrame M r (execHifRgEn rid ring value s) := by
  unfold execHifRgEn
  try dsimp only
  repeat' first
    | (with_reducible first
        | assumption | exact ansFrame_fault | apply ansFrame_next | apply State.regWrite_frame | apply State.ifB_frame
        | apply State.ringCtrl_frame)
    | exact Mask.trans (by rfl) hM
    | split
    | with_reducible intro _

theorem execRingDisable_frame {rid : Nat} {ring : Nat} {value : Nat} {s : State} (hS : State.Frame M r s) (hM : 0x1e00000001a1b0000000000000000000000000000 ||| M = M) :
    AnsFrame M r (execRingDisable rid ring value s) := by
  unfold execRingDisable
  try dsimp only
  repeat' first
    | (with_reducible first
        | assumption | exact ansFrame_fault | apply ansFrame_next | apply State.regWrite_frame | apply State.ifB_frame
        | apply State.ringCtrl_frame)
    | exact Mask.trans (by rfl) hM
    | split
    | with_reducible intro _

theorem execHifRgResume_frame {rid : Nat} {ring : Nat} {stores : List (Nat × BitVec 8)} {s : State} (hS : State.Frame M r s) (hM : 0x1e0000000181b0000000000000000000000000000 ||| M = M) :
    AnsFrame M r (execHifRgResume rid ring stores s) := by
  unfold execHifRgResume
  try dsimp only
  repeat' first
    | (with_reducible first
        | assumption | exact ansFrame_fault | apply ansFrame_next | apply State.regWrite_frame | apply State.hostStores_frame
        | apply State.ifB_frame | apply State.resumeRing_frame)
    | exact Mask.trans (by rfl) hM
    | split
    | with_reducible intro _

/-! ### Machine/Data.lean -/

theorem State.putData_frame {s : State} {t : Ticket} {bs : Bytes} {bad : List (Nat × Nat)} {value : Nat} (hS : State.Frame M r s) (hM : 0x7ec2000000000000000000000004001c0000000000 ||| M = M) :
    State.Frame M r (State.putData s t bs bad value) := by
  unfold State.putData
  try dsimp only
  repeat' first
    | (with_reducible first
        | assumption | apply State.ticketWrite_frame | (refine State.ticketWrite_frame_eq (he := by assumption) ?_ ?_)
        | apply State.done_frame | apply State.chasePoisonRun_frame)
    | exact Mask.trans (by rfl) hM
    | split
    | with_reducible apply State.Frame.foldl
    | with_reducible apply State.Frame.foldl_fst
    | with_reducible intro _

theorem execDataWrite_frame {ring : Nat} {x : TicketIn} {s : State} (hS : State.Frame M r s) (hM : 0x7ee2d40000000b000000000000443e1c0000008002 ||| M = M) :
    AnsFrame M r (execDataWrite ring x s) := by
  unfold execDataWrite
  try dsimp only
  repeat' first
    | (with_reducible first
        | assumption | exact ansFrame_fault | apply ansFrame_next | apply State.withXfers_frame | apply State.ticketAct_frame
        | apply State.withSource_frame | apply State.putData_frame | apply State.bump_frame)
    | exact Mask.trans (by rfl) hM
    | split
    | with_reducible intro _

theorem execDataRead_frame {ring : Nat} {x : TicketIn} {s : State} (hS : State.Frame M r s) (hM : 0x7fe2d40000000b000000000000443e0c0000000002 ||| M = M) :
    AnsFrame M r (execDataRead ring x s) := by
  unfold execDataRead
  try dsimp only
  repeat' first
    | (with_reducible first
        | assumption | exact ansFrame_fault | apply ansFrame_next | apply State.withXfers_frame | apply State.ticketAct_frame
        | apply State.withSource_frame | apply State.deliver_frame | (refine State.deliver_frame_eq (he := by assumption) ?_ ?_)
        | apply State.done_frame)
    | exact Mask.trans (by rfl) hM
    | split
    | with_reducible intro _

theorem execImpHint_frame {ring : Nat} {seq : Nat} {s : State} (hS : State.Frame M r s) (hM : 0x50e0000000000b0000000000004000000000000000 ||| M = M) :
    AnsFrame M r (execImpHint ring seq s) := by
  unfold execImpHint
  try dsimp only
  repeat' first
    | (with_reducible first
        | assumption | exact ansFrame_fault | apply ansFrame_next | apply State.ticketAct_frame | apply State.done_frame
        | apply State.withSource_frame | apply State.updChase_frame)
    | exact Mask.trans (by rfl) hM
    | split
    | with_reducible intro _

theorem execMarkOp_frame {ring : Nat} {seq : Nat} {s : State} (hS : State.Frame M r s) (hM : 0xb3fee200000a800300000100016604000c0000000108 ||| M = M) :
    AnsFrame M r (execMarkOp ring seq s) := by
  unfold execMarkOp
  try dsimp only
  repeat' first
    | (with_reducible first
        | assumption | exact ansFrame_fault | apply ansFrame_next | apply State.ticketAct_frame | apply State.done_frame
        | apply State.bump_frame | apply State.markOp_frame)
    | exact Mask.trans (by rfl) hM
    | split
    | with_reducible intro _

theorem execMarkWait_frame {ring : Nat} {seq : Nat} {s : State} (hS : State.Frame M r s) (hM : 0x10408000000a80000000000000460000000000000000 ||| M = M) :
    AnsFrame M r (execMarkWait ring seq s) := by
  unfold execMarkWait
  try dsimp only
  repeat' first
    | (with_reducible first
        | assumption | exact ansFrame_fault | apply ansFrame_next | apply State.ticketAct_frame | apply State.done_frame
        | apply State.bump_frame | apply State.serveMark_frame | apply State.updMark_frame)
    | exact Mask.trans (by rfl) hM
    | split
    | with_reducible intro _

/-! ### Machine/Sample.lean -/

theorem State.acceptSample_frame {s : State} {t : Ticket} (hS : State.Frame M r s) (hM : 0x50e0000000000b0000000000004000000000000000 ||| M = M) :
    State.Frame M r (State.acceptSample s t) := by
  unfold State.acceptSample
  try dsimp only
  repeat' first
    | (with_reducible first
        | assumption | apply State.done_frame | apply State.srcRead_frame | (refine State.srcRead_frame_eq (he := by assumption) ?_ ?_)
        | apply State.updTicket_frame)
    | exact Mask.trans (by rfl) hM
    | split
    | with_reducible intro _

theorem execSample_frame {ring : Nat} {x : TicketIn} {s : State} (hS : State.Frame M r s) (hM : 0x7ee2d40000000b000000000000403e0c0000000002 ||| M = M) :
    AnsFrame M r (execSample ring x s) := by
  unfold execSample
  try dsimp only
  repeat' first
    | (with_reducible first
        | assumption | exact ansFrame_fault | apply ansFrame_next | apply State.withXfers_frame | apply State.ticketAct_frame
        | apply State.acceptSample_frame)
    | exact Mask.trans (by rfl) hM
    | split
    | with_reducible intro _

theorem State.sdWrite_frame {s : State} {c : Nat} {k : Nat} {off : Nat} {bs : Bytes} (hS : State.Frame M r s) (hM : 0x7ec2000000000000000000000004001c0000000000 ||| M = M) :
    State.Frame M r (State.sdWrite s c k off bs) := by
  unfold State.sdWrite
  try dsimp only
  repeat' first
    | (with_reducible first
        | assumption | apply State.ticketWrite_frame | (refine State.ticketWrite_frame_eq (he := by assumption) ?_ ?_))
    | exact Mask.trans (by rfl) hM
    | split
    | with_reducible intro _

theorem State.updSample_frame {s : State} {k : Nat} {f : SampleSt → SampleSt} (hS : State.Frame M r s) (hM : 0x800000000000000000000000000000000000000000 ||| M = M) :
    State.Frame M r (State.updSample s k f) := by
  unfold State.updSample
  try dsimp only
  repeat' first
    | (with_reducible first
        | assumption)
    | exact Mask.trans (by rfl) hM
    | split
    | (fail_if_no_progress
        with_reducible refine State.Frame.rest ?_ ?hp
        case hp => intro p hp; cases p <;> first | exact Mask.clash hM hp rfl | with_reducible exact rfl)
    | with_reducible intro _

theorem State.freeSample_frame {s : State} {k : Nat} {c : Nat} (hS : State.Frame M r s) (hM : 0xfec2000000000000000000000004001c0000000000 ||| M = M) :
    State.Frame M r (State.freeSample s k c) := by
  unfold State.freeSample
  try dsimp only
  repeat' first
    | (with_reducible first
        | assumption | apply State.sdWrite_frame)
    | exact Mask.trans (by rfl) hM
    | split
    | (fail_if_no_progress
        with_reducible refine State.Frame.rest ?_ ?hp
        case hp => intro p hp; cases p <;> first | exact Mask.clash hM hp rfl | with_reducible exact rfl)
    | with_reducible intro _

theorem State.sampleDone_frame {s : State} {c : Nat} {k : Nat} {x : SampleSt} {t : Ticket} (hS : State.Frame M r s) (hM : 0xfec2000000000000000000000004001c0000000000 ||| M = M) :
    State.Frame M r (State.sampleDone s c k x t) := by
  unfold State.sampleDone
  try dsimp only
  repeat' first
    | (with_reducible first
        | assumption | apply State.finishTicket_frame | apply State.sdWrite_frame | apply State.updSample_frame)
    | exact Mask.trans (by rfl) hM
    | split
    | with_reducible intro _

theorem State.endCopies_frame {s : State} (hS : State.Frame M r s) (hM : 0xfec2000000000000000000000004001c0000000000 ||| M = M) :
    State.Frame M r (State.endCopies s) := by
  unfold State.endCopies
  try dsimp only
  repeat' first
    | (with_reducible first
        | assumption | apply State.sampleDone_frame | apply State.drainResult_frame)
    | exact Mask.trans (by rfl) hM
    | split
    | with_reducible apply State.Frame.foldl
    | with_reducible apply State.Frame.foldl_fst
    | with_reducible intro _

theorem State.copyResult_frame {s : State} {c : Nat} {k : Nat} {x : SampleSt} (hS : State.Frame M r s) (hM : 0xffe2000000000b00000000000044001c0000000000 ||| M = M) :
    State.Frame M r (State.copyResult s c k x) := by
  unfold State.copyResult
  try dsimp only
  repeat' first
    | (with_reducible first
        | assumption | apply State.sdWrite_frame | apply State.updSample_frame | apply State.deliver_frame
        | (refine State.deliver_frame_eq (he := by assumption) ?_ ?_) | apply State.noteDma_frame | apply State.finishTicket_frame)
    | exact Mask.trans (by rfl) hM
    | split
    | with_reducible intro _

theorem State.bindSample_frame {s : State} {c : Nat} {t : Ticket} (hS : State.Frame M r s) (hM : 0xfec2000000000000000000000004001c0000000000 ||| M = M) :
    State.Frame M r (State.bindSample s c t) := by
  unfold State.bindSample
  try dsimp only
  repeat' first
    | (with_reducible first
        | assumption | apply State.fresh_frame | (refine State.fresh_frame_eq (he := by assumption) ?_ ?_) | apply State.ticketWrite_frame
        | (refine State.ticketWrite_frame_eq (he := by assumption) ?_ ?_) | apply State.finishTicket_frame
        | apply State.chasePoisonRun_frame | apply State.sdWrite_frame)
    | exact Mask.trans (by rfl) hM
    | split
    | with_reducible apply State.Frame.foldl
    | with_reducible apply State.Frame.foldl_fst
    | (fail_if_no_progress
        with_reducible refine State.Frame.rest ?_ ?hp
        case hp => intro p hp; cases p <;> first | exact Mask.clash hM hp rfl | with_reducible exact rfl)
    | with_reducible intro _

theorem State.sampleLockup_frame {s : State} {c : Nat} (hS : State.Frame M r s) (hM : 0xffe2000000000b00000000000044001c0000000000 ||| M = M) :
    State.Frame M r (State.sampleLockup s c) := by
  unfold State.sampleLockup
  try dsimp only
  repeat' first
    | (with_reducible first
        | assumption | apply State.freeSample_frame | apply State.sdWrite_frame | apply State.updSample_frame
        | apply State.copyResult_frame | apply State.bindSample_frame | apply State.endCopies_frame)
    | exact Mask.trans (by rfl) hM
    | split
    | with_reducible apply State.Frame.foldl
    | with_reducible apply State.Frame.foldl_fst
    | with_reducible intro _

/-! ### Machine/Stroke.lean -/

theorem State.resumeStroke_frame {s : State} {c : Nat} (hS : State.Frame M r s) (hM : 0x4bbfee2d4000a800300000100000004000c0000000108 ||| M = M) :
    State.Frame M r (State.resumeStroke s c) := by
  unfold State.resumeStroke
  try dsimp only
  repeat' first
    | (with_reducible first
        | assumption | apply State.updChase_frame | apply State.restorePoint_frame | apply State.logCorrected_frame
        | apply State.bump_frame | apply State.setF_frame | apply State.faultChase_frame)
    | exact Mask.trans (by rfl) hM
    | split
    | with_reducible intro _

theorem State.markCommits_frame {s : State} {c : Nat} (hS : State.Frame M r s) (hM : 0x10408000000a800000000000001e0000000000000000 ||| M = M) :
    State.Frame M r (State.markCommits s c) := by
  unfold State.markCommits
  try dsimp only
  repeat' first
    | (with_reducible first
        | assumption | apply State.updChase_frame | apply State.realign_frame | apply State.switchCtx_frame)
    | exact Mask.trans (by rfl) hM
    | split
    | with_reducible intro _

theorem State.switchCommits_frame {s : State} {c : Nat} {peers : List GuestCopy} (hS : State.Frame M r s) (hM : 0x206e40000000000000000100000000000c0000000000 ||| M = M) :
    State.Frame M r (State.switchCommits s c peers) := by
  unfold State.switchCommits
  try dsimp only
  repeat' first
    | (with_reducible first
        | assumption | apply State.commitSwitch_frame | apply State.offerSwitch_frame | apply State.freeDraining_frame)
    | exact Mask.trans (by rfl) hM
    | split
    | with_reducible apply State.Frame.foldl
    | with_reducible apply State.Frame.foldl_fst
    | with_reducible intro _

theorem State.wayCommits_frame {s : State} {c : Nat} {left : Nat} (hS : State.Frame M r s) (hM : 0x7ec0000000000000000000000006000c0000000000 ||| M = M) :
    State.Frame M r (State.wayCommits s c left) := by
  unfold State.wayCommits
  try dsimp only
  repeat' first
    | (with_reducible first
        | assumption | apply State.applyWays_frame)
    | exact Mask.trans (by rfl) hM
    | split
    | with_reducible apply State.Frame.foldl
    | with_reducible apply State.Frame.foldl_fst
    | with_reducible intro _

theorem State.beginRun_frame {s : State} {c : Nat} (hS : State.Frame M r s) (hM : 0xb3fee200000a800300000100002604000c0000000108 ||| M = M) :
    State.Frame M r (State.beginRun s c) := by
  unfold State.beginRun
  try dsimp only
  repeat' first
    | (with_reducible first
        | assumption | apply State.setF_frame | apply State.endWork_frame | apply State.reachPlate_frame)
    | exact Mask.trans (by rfl) hM
    | split
    | with_reducible intro _

theorem State.beginStroke_frame {s : State} {c : Nat} {n : Nat} {start : Nat} (hS : State.Frame M r s) (hM : 0x400000000000000000000000000000000000000520 ||| M = M) :
    State.Frame M r (State.beginStroke s c n start) := by
  unfold State.beginStroke
  try dsimp only
  repeat' first
    | (with_reducible first
        | assumption | exact fieldsMask_nil | apply fieldsMask_cons | apply State.setFs_frame | apply State.bumpWrap_frame
        | apply State.updChase_frame)
    | exact Mask.trans (by rfl) hM
    | split
    | with_reducible intro _

theorem State.lockupCommits_frame {s : State} {c : Nat} {left : Nat} {peers : List GuestCopy} (hS : State.Frame M r s) (hM : 0x4bbffe2dc000ac00b00000100001e46001c000000010c ||| M = M) :
    State.Frame M r (State.lockupCommits s c left peers) := by
  unfold State.lockupCommits
  try dsimp only
  repeat' first
    | (with_reducible first
        | assumption | apply State.resumeStroke_frame | apply State.commitSubsts_frame | apply State.updChase_frame
        | apply State.grantInk_frame | apply State.savePoint_frame | apply State.markCommits_frame | apply State.impose_frame
        | apply State.wayCommits_frame | apply State.switchCommits_frame | apply State.sampleLockup_frame | apply State.takeGuests_frame)
    | exact Mask.trans (by rfl) hM
    | split
    | with_reducible intro _

theorem State.lockUp_frame {s : State} {c : Nat} {n : Nat} {start : Nat} {left : Nat} {peers : List GuestCopy} (hS : State.Frame M r s) (hM : 0x4bbffe2dc000ac00b00000100003e46001c000000052c ||| M = M) :
    State.Frame M r (State.lockUp s c n start left peers) := by
  unfold State.lockUp
  try dsimp only
  repeat' first
    | (with_reducible first
        | assumption | apply State.lockupCommits_frame | apply State.beginStroke_frame | apply State.beginRun_frame)
    | exact Mask.trans (by rfl) hM
    | split
    | with_reducible intro _

theorem State.firstStroke_frame {s0 : State} {c : Nat} {n : Nat} {left : Nat} {peers : List GuestCopy} (hSs0 : State.Frame M r s0) (hM : 0x5bbffe6dc101ac00b00000100003e46001c000000072c ||| M = M) :
    State.Frame M r (State.firstStroke s0 c n left peers) := by
  unfold State.firstStroke
  try dsimp only
  repeat' first
    | (with_reducible first
        | assumption | apply State.passTo_frame | apply State.failStart_frame | apply State.endStart_frame | apply State.setF_frame
        | apply State.lockUp_frame)
    | exact Mask.trans (by rfl) hM
    | split
    | with_reducible intro _

theorem execLockUp_frame {slot : Nat} {left : Nat} {peers : List GuestCopy} {s : State} (hS : State.Frame M r s) (hM : 0x5bbffe6dc101ac00b00000100003e46001c000000072c ||| M = M) :
    AnsFrame M r (execLockUp slot left peers s) := by
  unfold execLockUp
  try dsimp only
  repeat' first
    | (with_reducible first
        | assumption | exact ansFrame_fault | apply ansFrame_next | apply State.ifB_frame | apply State.firstStroke_frame
        | apply State.chaseDue_frame | apply State.lockUp_frame)
    | exact Mask.trans (by rfl) hM
    | split
    | with_reducible intro _

theorem execLockupBudgetEnd_frame {slot : Nat} {s : State} (hS : State.Frame M r s) (hM : 0x1b3fee600101a800300000100002604000c0000000308 ||| M = M) :
    AnsFrame M r (execLockupBudgetEnd slot s) := by
  unfold execLockupBudgetEnd
  try dsimp only
  repeat' first
    | (with_reducible first
        | assumption | exact ansFrame_fault | apply ansFrame_next | apply State.ifB_frame | apply State.beginRun_frame
        | apply State.chaseDue_frame)
    | exact Mask.trans (by rfl) hM
    | split
    | with_reducible intro _

theorem execLateRun_frame {slot : Nat} {s : State} (hS : State.Frame M r s) (hM : 0x100400400101000000000000000000000000000000700 ||| M = M) :
    AnsFrame M r (execLateRun slot s) := by
  unfold execLateRun
  try dsimp only
  repeat' first
    | (with_reducible first
        | assumption | exact ansFrame_fault | apply ansFrame_next | apply State.ifB_frame | apply State.updChase_frame
        | apply State.bumpWrap_frame | apply State.chaseDue_frame)
    | exact Mask.trans (by rfl) hM
    | split
    | with_reducible intro _

theorem execDone_frame {slot : Nat} {ordinal : Nat} {stamp : Nat} {s : State} (hS : State.Frame M r s) (hM : 0xb360c000000880000000010000000000000000000108 ||| M = M) :
    AnsFrame M r (execDone slot ordinal stamp s) := by
  unfold execDone
  try dsimp only
  repeat' first
    | (with_reducible first
        | assumption | exact ansFrame_fault | apply ansFrame_next | apply State.ifB_frame | apply State.rootDone_frame
        | apply State.ackCtl_frame)
    | exact Mask.trans (by rfl) hM
    | split
    | with_reducible intro _

theorem execSlip_frame {slot : Nat} {s : State} (hS : State.Frame M r s) (hM : 0x1b3fee6041018800300000100000004000c0000000308 ||| M = M) :
    AnsFrame M r (execSlip slot s) := by
  unfold execSlip
  try dsimp only
  repeat' first
    | (with_reducible first
        | assumption | exact ansFrame_fault | apply ansFrame_next | apply State.ifB_frame | apply State.chaseDue_frame
        | apply State.rootJudge_frame | apply State.slip_frame | apply State.sendAll_frame)
    | exact Mask.trans (by rfl) hM
    | split
    | with_reducible intro _

theorem execVerdict_frame {slot : Nat} {m : Nat} {go : Bool} {start : Nat} {named : List (Nat × Nat)} {s : State} (hS : State.Frame M r s) (hM : 0xb3fee2040008800300000100000004000c0000000308 ||| M = M) :
    AnsFrame M r (execVerdict slot m go start named s) := by
  unfold execVerdict
  try dsimp only
  repeat' first
    | (with_reducible first
        | assumption | exact ansFrame_fault | apply ansFrame_next | apply State.ifB_frame | apply State.ackCtl_frame
        | apply State.noteNamed_frame | apply State.takeGo_frame | apply State.slip_frame)
    | exact Mask.trans (by rfl) hM
    | split
    | with_reducible intro _

theorem execVerdictTimeout_frame {slot : Nat} {s : State} (hS : State.Frame M r s) (hM : 0x1b3fee6041018800300000100000004000c0000000308 ||| M = M) :
    AnsFrame M r (execVerdictTimeout slot s) := by
  unfold execVerdictTimeout
  try dsimp only
  repeat' first
    | (with_reducible first
        | assumption | exact ansFrame_fault | apply ansFrame_next | apply State.ifB_frame | apply State.chaseDue_frame
        | apply State.slip_frame)
    | exact Mask.trans (by rfl) hM
    | split
    | with_reducible intro _

theorem execFault_frame {slot : Nat} {ordinal : Nat} {s : State} (hS : State.Frame M r s) (hM : 0xb3fee2000008800300000100000004000c0000000108 ||| M = M) :
    AnsFrame M r (execFault slot ordinal s) := by
  unfold execFault
  try dsimp only
  repeat' first
    | (with_reducible first
        | assumption | exact ansFrame_fault | apply ansFrame_next | apply State.ifB_frame | apply State.faultLocal_frame
        | apply State.updChase_frame | apply State.ackCtl_frame)
    | exact Mask.trans (by rfl) hM
    | split
    | with_reducible intro _

theorem execSwitchReq_frame {slot : Nat} {ordinal : Nat} {galley : Nat} {state : Nat} {s : State} (hS : State.Frame M r s) (hM : 0x20404000000000000000010000000000000000000000 ||| M = M) :
    AnsFrame M r (execSwitchReq slot ordinal galley state s) := by
  unfold execSwitchReq
  try dsimp only
  repeat' first
    | (with_reducible first
        | assumption | exact ansFrame_fault | apply ansFrame_next | apply State.ifB_frame | apply State.noteSwitch_frame
        | apply State.ackCtl_frame)
    | exact Mask.trans (by rfl) hM
    | split
    | with_reducible intro _

/-! ### Machine/Roce.lean -/

theorem State.transmit_frame {s : State} {q : Nat} {vlan : Nat} {etype : Nat} {o : Out} (hS : State.Frame M r s) (hM : 0x4000000000000002000000000000000000000000 ||| M = M) :
    State.Frame M r (State.transmit s q vlan etype o) := by
  unfold State.transmit
  try dsimp only
  repeat' first
    | (with_reducible first
        | assumption | apply State.bump_frame | apply State.emit_frame)
    | exact Mask.trans (by rfl) hM
    | split
    | with_reducible intro _

theorem State.rxDrop_frame {s : State} {q : Nat} (hS : State.Frame M r s) (hM : 0x2000000000000000000000000 ||| M = M) :
    State.Frame M r (State.rxDrop s q) := by
  unfold State.rxDrop
  try dsimp only
  repeat' first
    | (with_reducible first
        | assumption | apply State.bump_frame)
    | exact Mask.trans (by rfl) hM
    | split
    | with_reducible intro _

theorem State.updEth_frame {s : State} {f : EthSt → EthSt} (hS : State.Frame M r s) (hM : 0x40000000000000000000000000000000000000000000 ||| M = M) :
    State.Frame M r (State.updEth s f) := by
  unfold State.updEth
  try dsimp only
  repeat' first
    | (with_reducible first
        | assumption)
    | exact Mask.trans (by rfl) hM
    | split
    | (fail_if_no_progress
        with_reducible refine State.Frame.rest ?_ ?hp
        case hp => intro p hp; cases p <;> first | exact Mask.clash hM hp rfl | with_reducible exact rfl)
    | with_reducible intro _

theorem State.setQp_frame {s : State} {n : Nat} {q : Qp} (hS : State.Frame M r s) (hM : 0x40000000000000000000000000000000000000000000 ||| M = M) :
    State.Frame M r (State.setQp s n q) := by
  unfold State.setQp
  try dsimp only
  repeat' first
    | (with_reducible first
        | assumption | apply State.updEth_frame)
    | exact Mask.trans (by rfl) hM
    | split
    | with_reducible intro _

theorem State.qpError_frame {s : State} {n : Nat} {q : Qp} (hS : State.Frame M r s) (hM : 0x40000000000000000100000000000000000000000000 ||| M = M) :
    State.Frame M r (State.qpError s n q) := by
  unfold State.qpError
  try dsimp only
  repeat' first
    | (with_reducible first
        | assumption | apply State.bump_frame | apply State.setQp_frame)
    | exact Mask.trans (by rfl) hM
    | split
    | with_reducible intro _

theorem execQpCreate_frame {ring : Nat} {seq : Nat} {s : State} (hS : State.Frame M r s) (hM : 0x4050e2000000000b0200000000004000000000000000 ||| M = M) :
    AnsFrame M r (execQpCreate ring seq s) := by
  unfold execQpCreate
  try dsimp only
  repeat' first
    | (with_reducible first
        | assumption | exact ansFrame_fault | apply ansFrame_next | apply State.ticketAct_frame | apply State.withSource_frame
        | apply State.done_frame | apply State.fresh_frame | (refine State.fresh_frame_eq (he := by assumption) ?_ ?_)
        | apply State.setQp_frame | apply State.setF_frame)
    | exact Mask.trans (by rfl) hM
    | split
    | with_reducible intro _

theorem execQpDestroy_frame {ring : Nat} {seq : Nat} {s : State} (hS : State.Frame M r s) (hM : 0x40008000000000000200000000000000000000000000 ||| M = M) :
    AnsFrame M r (execQpDestroy ring seq s) := by
  unfold execQpDestroy
  try dsimp only
  repeat' first
    | (with_reducible first
        | assumption | exact ansFrame_fault | apply ansFrame_next | apply State.ticketAct_frame | apply State.done_frame
        | apply State.updEth_frame | apply State.setF_frame)
    | exact Mask.trans (by rfl) hM
    | split
    | with_reducible intro _

theorem execMrRegister_frame {ring : Nat} {seq : Nat} {s : State} (hS : State.Frame M r s) (hM : 0x40008200000000000200000000000000000000000000 ||| M = M) :
    AnsFrame M r (execMrRegister ring seq s) := by
  unfold execMrRegister
  try dsimp only
  repeat' first
    | (with_reducible first
        | assumption | exact ansFrame_fault | apply ansFrame_next | apply State.ticketAct_frame | apply State.done_frame
        | apply State.fresh_frame | (refine State.fresh_frame_eq (he := by assumption) ?_ ?_) | apply State.updEth_frame
        | apply State.setF_frame)
    | exact Mask.trans (by rfl) hM
    | split
    | with_reducible intro _

theorem execMrDeregister_frame {ring : Nat} {seq : Nat} {s : State} (hS : State.Frame M r s) (hM : 0x40008000000000000200000000000000000000000000 ||| M = M) :
    AnsFrame M r (execMrDeregister ring seq s) := by
  unfold execMrDeregister
  try dsimp only
  repeat' first
    | (with_reducible first
        | assumption | exact ansFrame_fault | apply ansFrame_next | apply State.ticketAct_frame | apply State.done_frame
        | apply State.updEth_frame | apply State.setF_frame)
    | exact Mask.trans (by rfl) hM
    | split
    | with_reducible intro _

theorem State.sendFrame_frame {s : State} {q : Qp} {o : Out} (hS : State.Frame M r s) (hM : 0x4000000000000002000000000000000000000000 ||| M = M) :
    State.Frame M r (State.sendFrame s q o) := by
  unfold State.sendFrame
  try dsimp only
  repeat' first
    | (with_reducible first
        | assumption | apply State.transmit_frame)
    | exact Mask.trans (by rfl) hM
    | split
    | with_reducible intro _

theorem State.answer_frame {s : State} {n : Nat} {q : Qp} {psn : Nat} {nak : Nat} (hS : State.Frame M r s) (hM : 0x4000000000000002000000000000000000000000 ||| M = M) :
    State.Frame M r (State.answer s n q psn nak) := by
  unfold State.answer
  try dsimp only
  repeat' first
    | (with_reducible first
        | assumption | apply State.sendFrame_frame)
    | exact Mask.trans (by rfl) hM
    | split
    | with_reducible intro _

theorem State.notifyEcn_frame {s : State} {port : Nat} {n : Nat} {ecn : Bool} {q : Qp} (hS : State.Frame M r s) (hM : 0x40004000000000000102000000000000000000000000 ||| M = M) :
    State.Frame M r (State.notifyEcn s port n ecn q) := by
  unfold State.notifyEcn
  try dsimp only
  repeat' first
    | (with_reducible first
        | assumption | apply State.bump_frame | apply State.sendFrame_frame | apply State.setQp_frame)
    | exact Mask.trans (by rfl) hM
    | split
    | with_reducible intro _

theorem State.roceIn_frame {s : State} {p : RocePkt} {f : Qp → State → State} {again : Qp → State → State} (hS : State.Frame M r s) (hSf : ∀ (y0 : Qp) (y1 : State), State.Frame M r y1 → State.Frame M r (f y0 y1)) (hSagain : ∀ (y0 : Qp) (y1 : State), State.Frame M r y1 → State.Frame M r (again y0 y1)) (hM : 0x40004000000000000102000000000000000000000000 ||| M = M) :
    State.Frame M r (State.roceIn s p f again) := by
  unfold State.roceIn
  try dsimp only
  repeat' first
    | (with_reducible first
        | assumption | apply hSf | apply hSagain | apply State.rxDrop_frame | apply State.notifyEcn_frame | apply State.answer_frame)
    | exact Mask.trans (by rfl) hM
    | split
    | with_reducible intro _

theorem State.recvMark_frame {s : State} {q : Qp} (hS : State.Frame M r s) (hM : 0xb3fee200000a800300000100002604000c0000000108 ||| M = M) :
    State.Frame M r (State.recvMark s q) := by
  unfold State.recvMark
  try dsimp only
  repeat' first
    | (with_reducible first
        | assumption | apply State.signalMark_frame)
    | exact Mask.trans (by rfl) hM
    | split
    | with_reducible intro _

theorem State.readPackets_frame {s : State} {n : Nat} {q : Qp} {m : Mr} {psn : Nat} {x0 : List (Nat × Nat × Nat)} (hS : State.Frame M r s) (hM : 0x4000000000000002000000000000000000000000 ||| M = M) :
    State.Frame M r (State.readPackets s n q m psn x0).1 := by
  induction x0 generalizing s with
  | nil => exact hS
  | cons a l ih =>
  simp only [State.readPackets]
  repeat' first
    | (with_reducible first
        | assumption | apply ih | apply State.sendFrame_frame)
    | exact Mask.trans (by rfl) hM
    | split
    | with_reducible intro _

theorem State.readPackets_frame_eq {s : State} {n : Nat} {q : Qp} {m : Mr} {psn : Nat} {x0 : List (Nat × Nat × Nat)} (hS : State.Frame M r s) (hM : 0x4000000000000002000000000000000000000000 ||| M = M) {u : State} {z : Bool} (he : State.readPackets s n q m psn x0 = (u, z)) :
    State.Frame M r u := by
  have := State.readPackets_frame hS hM (s := s) (n := n) (q := q) (m := m) (psn := psn) (x0 := x0)
  rwa [he] at this

theorem State.serveRead_frame {s : State} {n : Nat} {q : Qp} {psn : Nat} {key : Nat} {a : Nat} {len : Nat} (hS : State.Frame M r s) (hM : 0x40504000000000000102000000004000000000000000 ||| M = M) :
    State.Frame M r (State.serveRead s n q psn key a len) := by
  unfold State.serveRead
  try dsimp only
  repeat' first
    | (with_reducible first
        | assumption | apply State.answer_frame | apply State.noteDma_frame | apply State.cacheHa_frame | apply State.readPackets_frame
        | (refine State.readPackets_frame_eq (he := by assumption) ?_ ?_) | apply State.qpError_frame)
    | exact Mask.trans (by rfl) hM
    | split
    | with_reducible intro _

theorem State.noteDone_frame {s : State} {n : Nat} {psn : Nat} (hS : State.Frame M r s) (hM : 0x40000000000000000000000000000000000000000000 ||| M = M) :
    State.Frame M r (State.noteDone s n psn) := by
  unfold State.noteDone
  try dsimp only
  repeat' first
    | (with_reducible first
        | assumption | apply State.updEth_frame)
    | exact Mask.trans (by rfl) hM
    | split
    | with_reducible intro _

theorem State.roceComplete_frame {s : State} {w : RoceWait} (hS : State.Frame M r s) (hM : 0xf3fee200000a800301020100002644000c0000000108 ||| M = M) :
    State.Frame M r (State.roceComplete s w) := by
  unfold State.roceComplete
  try dsimp only
  repeat' first
    | (with_reducible first
        | assumption | apply State.serveRead_frame | apply State.noteDone_frame | apply State.ifB_frame | apply State.answer_frame
        | apply State.recvMark_frame)
    | exact Mask.trans (by rfl) hM
    | split
    | with_reducible intro _

theorem State.roceVisible_frame {s : State} (hS : State.Frame M r s) (hM : 0xf3fee200000a800301020100002644000c0000000108 ||| M = M) :
    State.Frame M r (State.roceVisible s) := by
  unfold State.roceVisible
  try dsimp only
  repeat' first
    | (with_reducible first
        | assumption | apply State.roceComplete_frame | apply State.updEth_frame)
    | exact Mask.trans (by rfl) hM
    | split
    | with_reducible apply State.Frame.foldl
    | with_reducible apply State.Frame.foldl_fst
    | with_reducible intro _

theorem State.roceDone_frame {s : State} {w : RoceWait} (hS : State.Frame M r s) (hM : 0xf3fee200000a800301020100002644000c0000000108 ||| M = M) :
    State.Frame M r (State.roceDone s w) := by
  unfold State.roceDone
  try dsimp only
  repeat' first
    | (with_reducible first
        | assumption | apply State.roceVisible_frame | apply State.updEth_frame)
    | exact Mask.trans (by rfl) hM
    | split
    | with_reducible intro _

theorem State.answerAgain_frame {s : State} {p : RocePkt} {q : Qp} (hS : State.Frame M r s) (hM : 0x4000000000000002000000000000000000000000 ||| M = M) :
    State.Frame M r (State.answerAgain s p q) := by
  unfold State.answerAgain
  try dsimp only
  repeat' first
    | (with_reducible first
        | assumption | apply State.answer_frame)
    | exact Mask.trans (by rfl) hM
    | split
    | with_reducible intro _

theorem State.rxNext_frame {s : State} {n : Nat} {q : Qp} {k : Nat} {w : Option (Nat × Nat × Nat)} (hS : State.Frame M r s) (hM : 0x40000000000000000000000000000000000000000000 ||| M = M) :
    State.Frame M r (State.rxNext s n q k w) := by
  unfold State.rxNext
  try dsimp only
  repeat' first
    | (with_reducible first
        | assumption | apply State.setQp_frame)
    | exact Mask.trans (by rfl) hM
    | split
    | with_reducible intro _

theorem execSend_frame {p : RocePkt} {s : State} (hS : State.Frame M r s) (hM : 0xf3fee200000a800301020100002644000c0000000108 ||| M = M) :
    AnsFrame M r (execSend p s) := by
  unfold execSend
  try dsimp only
  repeat' first
    | (with_reducible first
        | assumption | exact ansFrame_fault | apply ansFrame_next | apply State.roceIn_frame | apply State.rxNext_frame
        | apply State.roceDone_frame | apply State.answerAgain_frame)
    | exact Mask.trans (by rfl) hM
    | split
    | with_reducible intro _

theorem State.mrWrite_frame {s : State} {m : Mr} {a : Nat} {bs : Bytes} (hS : State.Frame M r s) (hM : 0x7ec2000000000000000000000004001c0000000000 ||| M = M) :
    State.Frame M r (State.mrWrite s m a bs) := by
  unfold State.mrWrite
  try dsimp only
  repeat' first
    | (with_reducible first
        | assumption | apply State.plateStore_frame | apply State.devWrite_frame)
    | exact Mask.trans (by rfl) hM
    | split
    | with_reducible intro _

theorem execRdmaWrite_frame {p : RocePkt} {s : State} (hS : State.Frame M r s) (hM : 0xf3fee200000a800301020100002644001c0000000108 ||| M = M) :
    AnsFrame M r (execRdmaWrite p s) := by
  unfold execRdmaWrite
  try dsimp only
  repeat' first
    | (with_reducible first
        | assumption | exact ansFrame_fault | apply ansFrame_next | apply State.roceIn_frame | apply State.answer_frame
        | apply State.mrWrite_frame | apply State.rxNext_frame | apply State.roceDone_frame | apply State.answerAgain_frame)
    | exact Mask.trans (by rfl) hM
    | split
    | with_reducible intro _

theorem State.answerRead_frame {s : State} {p : RocePkt} {q : Qp} {fresh : Bool} (hS : State.Frame M r s) (hM : 0xf3fee200000a800301020100002644000c0000000108 ||| M = M) :
    State.Frame M r (State.answerRead s p q fresh) := by
  unfold State.answerRead
  try dsimp only
  repeat' first
    | (with_reducible first
        | assumption | apply State.answer_frame | apply State.roceDone_frame | apply State.rxNext_frame)
    | exact Mask.trans (by rfl) hM
    | split
    | with_reducible intro _

theorem execRdmaRead_frame {p : RocePkt} {s : State} (hS : State.Frame M r s) (hM : 0xf3fee200000a800301020100002644000c0000000108 ||| M = M) :
    AnsFrame M r (execRdmaRead p s) := by
  unfold execRdmaRead
  try dsimp only
  repeat' first
    | (with_reducible first
        | assumption | exact ansFrame_fault | apply ansFrame_next | apply State.roceIn_frame | apply State.answerRead_frame)
    | exact Mask.trans (by rfl) hM
    | split
    | with_reducible intro _

theorem execArp_frame {f : AskFrame} {s : State} (hS : State.Frame M r s) (hM : 0x4000000000000002000000000000000000000000 ||| M = M) :
    AnsFrame M r (execArp f s) := by
  unfold execArp
  try dsimp only
  repeat' first
    | (with_reducible first
        | assumption | exact ansFrame_fault | apply ansFrame_next | apply State.ifB_frame | apply State.transmit_frame
        | apply State.rxDrop_frame)
    | exact Mask.trans (by rfl) hM
    | split
    | with_reducible intro _

theorem execNeighbourDiscovery_frame {f : AskFrame} {s : State} (hS : State.Frame M r s) (hM : 0x4000000000000002000000000000000000000000 ||| M = M) :
    AnsFrame M r (execNeighbourDiscovery f s) := by
  unfold execNeighbourDiscovery
  try dsimp only
  repeat' first
    | (with_reducible first
        | assumption | exact ansFrame_fault | apply ansFrame_next | apply State.ifB_frame | apply State.transmit_frame
        | apply State.rxDrop_frame)
    | exact Mask.trans (by rfl) hM
    | split
    | with_reducible intro _

theorem execOtherFrame_frame {f : EthFrame} {s : State} (hS : State.Frame M r s) (hM : 0x2000000000000000000000000 ||| M = M) :
    AnsFrame M r (execOtherFrame f s) := by
  unfold execOtherFrame
  try dsimp only
  repeat' first
    | (with_reducible first
        | assumption | exact ansFrame_fault | apply ansFrame_next | apply State.ifB_frame | apply State.rxDrop_frame)
    | exact Mask.trans (by rfl) hM
    | split
    | with_reducible intro _

theorem execEthRetrain_frame {port : Nat} {up : Bool} {s : State} (hS : State.Frame M r s) (hM : 0x1000000000000000000000000 ||| M = M) :
    AnsFrame M r (execEthRetrain port up s) := by
  unfold execEthRetrain
  try dsimp only
  repeat' first
    | (with_reducible first
        | assumption | exact ansFrame_fault | apply ansFrame_next | apply State.ifB_frame | apply State.setF_frame)
    | exact Mask.trans (by rfl) hM
    | split
    | with_reducible intro _

theorem State.roceBack_frame {s : State} {e : EthFrame} {n : Nat} {f : Qp → State → State} (hS : State.Frame M r s) (hSf : ∀ (y0 : Qp) (y1 : State), State.Frame M r y1 → State.Frame M r (f y0 y1)) (hM : 0x40004000000000000102000000000000000000000000 ||| M = M) :
    State.Frame M r (State.roceBack s e n f) := by
  unfold State.roceBack
  try dsimp only
  repeat' first
    | (with_reducible first
        | assumption | apply hSf | apply State.rxDrop_frame | apply State.notifyEcn_frame)
    | exact Mask.trans (by rfl) hM
    | split
    | with_reducible intro _

theorem execCnp_frame {f : EthFrame} {qpn : Nat} {s : State} (hS : State.Frame M r s) (hM : 0x40004000000000000102000000000000000000000000 ||| M = M) :
    AnsFrame M r (execCnp f qpn s) := by
  refine ansFrame_next (State.roceBack_frame hS (fun _ _ hy => State.bump_frame (State.setQp_frame hy ?_) ?_) ?_)
  all_goals exact Mask.trans (by rfl) hM

theorem execClimbTick_frame {qpn : Nat} {s : State} (hS : State.Frame M r s) (hM : 0x40000000000000000000000000000000000000000000 ||| M = M) :
    AnsFrame M r (execClimbTick qpn s) := by
  unfold execClimbTick
  try dsimp only
  repeat' first
    | (with_reducible first
        | assumption | exact ansFrame_fault | apply ansFrame_next | apply State.ifB_frame | apply State.setQp_frame)
    | exact Mask.trans (by rfl) hM
    | split
    | with_reducible intro _

theorem State.roceRetry_frame {s : State} {n : Nat} {q : Qp} {rnr : Bool} (hS : State.Frame M r s) (hM : 0x40004000000000000102000000000000000000000000 ||| M = M) :
    State.Frame M r (State.roceRetry s n q rnr) := by
  unfold State.roceRetry
  try dsimp only
  repeat' first
    | (with_reducible first
        | assumption | apply State.qpError_frame | apply State.sendFrame_frame | apply State.bump_frame | apply State.setQp_frame)
    | exact Mask.trans (by rfl) hM
    | split
    | with_reducible intro _

theorem execRoceAckTimeout_frame {qpn : Nat} {s : State} (hS : State.Frame M r s) (hM : 0x40004000000000000102000000000000000000000000 ||| M = M) :
    AnsFrame M r (execRoceAckTimeout qpn s) := by
  unfold execRoceAckTimeout
  try dsimp only
  repeat' first
    | (with_reducible first
        | assumption | exact ansFrame_fault | apply ansFrame_next | apply State.ifB_frame | apply State.roceRetry_frame)
    | exact Mask.trans (by rfl) hM
    | split
    | with_reducible intro _

theorem State.sendPackets_frame {s : State} {a : CoreAsk} {q : Qp} {last : Nat} {x0 : List (Nat × Nat × Nat)} (hS : State.Frame M r s) (hM : 0x40004000000000000102000000000000000000000000 ||| M = M) :
    State.Frame M r (State.sendPackets s a q last x0) := by
  induction x0 generalizing s with
  | nil => exact hS
  | cons a l ih =>
  simp only [State.sendPackets]
  repeat' first
    | (with_reducible first
        | assumption | apply ih | apply State.qpError_frame | apply State.sendFrame_frame)
    | exact Mask.trans (by rfl) hM
    | split
    | with_reducible intro _

theorem State.startAsk_frame {s : State} {a : CoreAsk} {q : Qp} (hS : State.Frame M r s) (hM : 0x40504000000000000102000000004000000000000000 ||| M = M) :
    State.Frame M r (State.startAsk s a q) := by
  unfold State.startAsk
  try dsimp only
  repeat' first
    | (with_reducible first
        | assumption | apply State.setQp_frame | apply State.sendFrame_frame | apply State.sendPackets_frame | apply State.noteDma_frame)
    | exact Mask.trans (by rfl) hM
    | split
    | with_reducible intro _

theorem State.coreAsk_frame {s : State} {a : CoreAsk} (hS : State.Frame M r s) (hM : 0x40504000000000000102000000004000000000000000 ||| M = M) :
    State.Frame M r (State.coreAsk s a) := by
  unfold State.coreAsk
  try dsimp only
  repeat' first
    | (with_reducible first
        | assumption | apply State.setQp_frame | apply State.startAsk_frame)
    | exact Mask.trans (by rfl) hM
    | split
    | with_reducible intro _

theorem State.nextAsks_frame {s : State} {qpn : Nat} {x0 : Nat} (hS : State.Frame M r s) (hM : 0x40504000000000000102000000004000000000000000 ||| M = M) :
    State.Frame M r (State.nextAsks s qpn x0) := by
  induction x0 generalizing s with
  | zero => exact hS
  | succ n ih =>
  simp only [State.nextAsks]
  repeat' first
    | (with_reducible first
        | assumption | apply ih | apply State.startAsk_frame | apply State.setQp_frame)
    | exact Mask.trans (by rfl) hM
    | split
    | with_reducible intro _

theorem execRoceAcknowledgement_frame {f : EthFrame} {qpn : Nat} {psn : Nat} {nak : Nat} {s : State} (hS : State.Frame M r s) (hM : 0x40004000000000000102000000000000000000000000 ||| M = M) :
    AnsFrame M r (execRoceAcknowledgement f qpn psn nak s) := by
  unfold execRoceAcknowledgement
  try dsimp only
  repeat' first
    | (with_reducible first
        | assumption | exact ansFrame_fault | apply ansFrame_next | apply State.roceBack_frame | apply State.setQp_frame
        | apply State.roceRetry_frame | apply State.qpError_frame)
    | exact Mask.trans (by rfl) hM
    | split
    | with_reducible intro _

theorem execReadResponse_frame {f : EthFrame} {qpn : Nat} {psn : Nat} {data : Bytes} {s : State} (hS : State.Frame M r s) (hM : 0x407ec2000000000001020000000044001c0000000000 ||| M = M) :
    AnsFrame M r (execReadResponse f qpn psn data s) := by
  unfold execReadResponse
  try dsimp only
  repeat' first
    | (with_reducible first
        | assumption | exact ansFrame_fault | apply ansFrame_next | apply State.roceBack_frame | apply State.plateStore_frame
        | apply State.nextAsks_frame | apply State.setQp_frame)
    | exact Mask.trans (by rfl) hM
    | split
    | with_reducible intro _

theorem execCoreJob_frame {ring : Nat} {seq : Nat} {posts : List (Nat × Bytes)} {asks : List CoreAsk} {s : State} (hS : State.Frame M r s) (hM : 0x4050c200000000000102000000004000000000000000 ||| M = M) :
    AnsFrame M r (execCoreJob ring seq posts asks s) := by
  unfold execCoreJob
  try dsimp only
  repeat' first
    | (with_reducible first
        | assumption | exact ansFrame_fault | apply ansFrame_next | apply State.ticketAct_frame | apply State.emit_frame
        | apply State.postTickets_frame | apply State.coreAsk_frame | apply State.freshBytes_frame
        | (refine State.freshBytes_frame_eq (he := by assumption) ?_ ?_) | apply State.done_frame)
    | exact Mask.trans (by rfl) hM
    | split
    | with_reducible apply State.Frame.foldl
    | with_reducible apply State.Frame.foldl_fst
    | with_reducible intro _

/-! ### Machine/Fabric.lean -/

theorem State.takeCredits_frame {s : State} {l : Nat} {f : Flit} (hS : State.Frame M r s) (hM : 0x20000000000000000000000000000000000000000000 ||| M = M) :
    State.Frame M r (State.takeCredits s l f) := by
  unfold State.takeCredits
  try dsimp only
  repeat' first
    | (with_reducible first
        | assumption | apply State.updLink_frame)
    | exact Mask.trans (by rfl) hM
    | split
    | with_reducible intro _

theorem State.takeNak_frame {s : State} {l : Nat} (hS : State.Frame M r s) (hM : 0x12000400002400000000079c380000000000000000000 ||| M = M) :
    State.Frame M r (State.takeNak s l) := by
  unfold State.takeNak
  try dsimp only
  repeat' first
    | (with_reducible first
        | assumption | apply State.updLink_frame | apply State.bump_frame | apply State.retrain_frame | apply State.resendFrom_frame)
    | exact Mask.trans (by rfl) hM
    | split
    | with_reducible intro _

theorem State.takeFlit_frame {s : State} {l : Nat} {f : Flit} (hS : State.Frame M r s) (hM : 0x20004000000000000000030000000000000000000000 ||| M = M) :
    State.Frame M r (State.takeFlit s l f) := by
  unfold State.takeFlit
  try dsimp only
  repeat' first
    | (with_reducible first
        | assumption | apply State.updLink_frame | apply State.freeBuf_frame | apply State.bump_frame | apply State.deliverFlit_frame
        | apply State.routeFrom_frame)
    | exact Mask.trans (by rfl) hM
    | split
    | with_reducible intro _

theorem State.fecDecode_frame {s : State} {l : Nat} {errs : List Nat} (hS : State.Frame M r s) (hM : 0x20000000000000000000000200000000000000000000 ||| M = M) :
    State.Frame M r (State.fecDecode s l errs) := by
  unfold State.fecDecode
  try dsimp only
  repeat' first
    | (with_reducible first
        | assumption | apply State.bump_frame | apply State.updLink_frame)
    | exact Mask.trans (by rfl) hM
    | split
    | with_reducible intro _

theorem execFlit_frame {link : Nat} {data : List Nat} {checks : List Nat} {crc : Nat} {f : Flit} {s : State} (hS : State.Frame M r s) (hM : 0x1200040000240000000007bc380000000000000000000 ||| M = M) :
    AnsFrame M r (execFlit link data checks crc f s) := by
  unfold execFlit
  try dsimp only
  repeat' first
    | (with_reducible first
        | assumption | exact ansFrame_fault | apply ansFrame_next | apply State.ifB_frame | apply State.fecDecode_frame
        | apply State.updLink_frame | apply State.takeNak_frame | apply State.takeCredits_frame | apply State.retryHeld_frame
        | apply State.flushLink_frame | apply State.takeFlit_frame)
    | exact Mask.trans (by rfl) hM
    | split
    | with_reducible intro _

theorem execAckIdle_frame {link : Nat} {s : State} (hS : State.Frame M r s) (hM : 0x20004000000000000000000000000000000000000000 ||| M = M) :
    AnsFrame M r (execAckIdle link s) := by
  unfold execAckIdle
  try dsimp only
  repeat' first
    | (with_reducible first
        | assumption | exact ansFrame_fault | apply ansFrame_next | apply State.ifB_frame | apply State.putFlit_frame
        | apply State.updLink_frame)
    | exact Mask.trans (by rfl) hM
    | split
    | with_reducible intro _

theorem State.unseenVisible_frame {s : State} (hS : State.Frame M r s) (hM : 0x20004000000000000000010000000000000000000000 ||| M = M) :
    State.Frame M r (State.unseenVisible s) := by
  unfold State.unseenVisible
  try dsimp only
  repeat' first
    | (with_reducible first
        | assumption | apply State.finishMsg_frame | apply State.updFab_frame)
    | exact Mask.trans (by rfl) hM
    | split
    | with_reducible apply State.Frame.foldl
    | with_reducible apply State.Frame.foldl_fst
    | with_reducible intro _

theorem execWrite_frame {f : Flit} {s : State} (hS : State.Frame M r s) (hM : 0x207ec2000000000000000100000004001c0000000000 ||| M = M) :
    AnsFrame M r (execWrite f s) := by
  unfold execWrite
  try dsimp only
  repeat' first
    | (with_reducible first
        | assumption | exact ansFrame_fault | apply ansFrame_next | apply State.ifB_frame | apply State.keepPart_frame
        | apply State.finishMsg_frame | apply State.plateStore_frame | apply State.unseenVisible_frame | apply State.updFab_frame)
    | exact Mask.trans (by rfl) hM
    | split
    | with_reducible intro _

theorem execAppend_frame {f : Flit} {s : State} (hS : State.Frame M r s) (hM : 0x207ec20000000000000001000000c4000c0000000000 ||| M = M) :
    AnsFrame M r (execAppend f s) := by
  unfold execAppend
  try dsimp only
  repeat' first
    | (with_reducible first
        | assumption | exact ansFrame_fault | apply ansFrame_next | apply State.ifB_frame | apply State.keepPart_frame
        | apply State.updFab_frame | apply State.finishMsg_frame | apply State.takeAppend_frame
        | (refine State.takeAppend_frame_eq (he := by assumption) ?_ ?_))
    | exact Mask.trans (by rfl) hM
    | split
    | with_reducible intro _

theorem execAck_frame {f : Flit} {s : State} (hS : State.Frame M r s) (hM : 0xb360c000000880000000030000000000000000000108 ||| M = M) :
    AnsFrame M r (execAck f s) := by
  unfold execAck
  try dsimp only
  repeat' first
    | (with_reducible first
        | assumption | exact ansFrame_fault | apply ansFrame_next | apply State.ifB_frame | apply State.updFab_frame
        | apply State.bump_frame | apply State.markDone_frame | apply State.requestsLost_frame | apply State.checkFinish_frame
        | apply State.drainQueued_frame)
    | exact Mask.trans (by rfl) hM
    | split
    | with_reducible intro _

theorem State.staleSignal_frame {s : State} {c : Nat} {f : Flit} (hS : State.Frame M r s) (hM : 0x20004000000000000000010000400000000000000000 ||| M = M) :
    State.Frame M r (State.staleSignal s c f) := by
  unfold State.staleSignal
  try dsimp only
  repeat' first
    | (with_reducible first
        | assumption | apply State.finishMsg_frame | apply State.bump_frame)
    | exact Mask.trans (by rfl) hM
    | split
    | with_reducible intro _

theorem execFabricSignal_frame {f : Flit} {s : State} (hS : State.Frame M r s) (hM : 0xb3fee200000a800300000100006604000c0000000108 ||| M = M) :
    AnsFrame M r (execFabricSignal f s) := by
  unfold execFabricSignal
  try dsimp only
  repeat' first
    | (with_reducible first
        | assumption | exact ansFrame_fault | apply ansFrame_next | apply State.ifB_frame | apply State.finishMsg_frame
        | apply State.staleSignal_frame | apply State.signalMark_frame)
    | exact Mask.trans (by rfl) hM
    | split
    | with_reducible intro _

theorem execE2eTimeout_frame {dst : Nat} {msg : Nat} {s : State} (hS : State.Frame M r s) (hM : 0xb3fee2000008800300000300000004000c0000000108 ||| M = M) :
    AnsFrame M r (execE2eTimeout dst msg s) := by
  unfold execE2eTimeout
  try dsimp only
  repeat' first
    | (with_reducible first
        | assumption | exact ansFrame_fault | apply ansFrame_next | apply State.ifB_frame | apply State.routeFlit_frame
        | apply State.updFab_frame | apply State.bump_frame | apply State.drainQueued_frame | apply State.faultChase_frame)
    | exact Mask.trans (by rfl) hM
    | split
    | with_reducible apply State.Frame.foldl
    | with_reducible apply State.Frame.foldl_fst
    | with_reducible intro _

theorem execBackInvalidateResponse_frame {line : Nat} {s : State} (hS : State.Frame M r s) (hM : 0xf3fee200000a800301020100002644001c0000000108 ||| M = M) :
    AnsFrame M r (execBackInvalidateResponse line s) := by
  unfold execBackInvalidateResponse
  try dsimp only
  repeat' first
    | (with_reducible first
        | assumption | exact ansFrame_fault | apply ansFrame_next | apply State.ifB_frame | apply State.unseenVisible_frame
        | apply State.roceVisible_frame | apply State.endCopies_frame | apply State.snoopAnswered_frame)
    | exact Mask.trans (by rfl) hM
    | split
    | with_reducible intro _

theorem State.sendTime_frame {s : State} {l : Nat} {step : Nat} {stamps : List Nat} (hS : State.Frame M r s) (hM : 0x120004000000000000000000000000000000000000000 ||| M = M) :
    State.Frame M r (State.sendTime s l step stamps) := by
  unfold State.sendTime
  try dsimp only
  repeat' first
    | (with_reducible first
        | assumption | apply State.sendLink_frame)
    | exact Mask.trans (by rfl) hM
    | split
    | with_reducible intro _

theorem execTimeTick_frame {link : Nat} {s : State} (hS : State.Frame M r s) (hM : 0x120004000000000000000000000000000000000000000 ||| M = M) :
    AnsFrame M r (execTimeTick link s) := by
  unfold execTimeTick
  try dsimp only
  repeat' first
    | (with_reducible first
        | assumption | exact ansFrame_fault | apply ansFrame_next | apply State.ifB_frame | apply State.sendTime_frame)
    | exact Mask.trans (by rfl) hM
    | split
    | with_reducible intro _

theorem State.timeResult_frame {s : State} {l : Nat} {t4 : Nat} (hS : State.Frame M r s) (hM : 0x100400300055000000000080000000000000000000000 ||| M = M) :
    State.Frame M r (State.timeResult s l t4) := by
  unfold State.timeResult
  try dsimp only
  repeat' first
    | (with_reducible first
        | assumption | exact fieldsMask_nil | apply fieldsMask_cons | apply State.linkOffset_frame | apply State.setFs_frame)
    | exact Mask.trans (by rfl) hM
    | split
    | with_reducible intro _

theorem execTime_frame {link : Nat} {step : Nat} {stamps : List Nat} {hops : Nat} {lock : Nat} {root : Nat} {s : State} (hS : State.Frame M r s) (hM : 0x120404300075000000000080000000000000000000000 ||| M = M) :
    AnsFrame M r (execTime link step stamps hops lock root s) := by
  unfold execTime
  try dsimp only
  repeat' first
    | (with_reducible first
        | assumption | exact ansFrame_fault | apply ansFrame_next | apply State.ifB_frame | apply State.chooseParent_frame
        | apply State.updLink_frame | apply State.sendTime_frame | apply State.updTime_frame | apply State.timeResult_frame)
    | exact Mask.trans (by rfl) hM
    | split
    | with_reducible intro _

end Sys2Proof.Machine
end

