-- ==== Sys2Proof/Laws/FrameHost.lean ====
section
/-! SUPPORT. The frame of each operation of boot, the register window and the cells: its mask, and that it changes nothing outside it. -/

set_option Elab.async false

namespace Sys2Proof.Machine

set_option linter.unusedTactic false
set_option linter.unreachableTactic false

variable {M : Nat} {r : State}

/-! ### Machine/Boot.lean -/

theorem State.updPw_frame {s : State} {f : PowerSt → PowerSt} (hS : State.Frame M r s) (hM : 0x800000000000000000000000000000000000000 ||| M = M) :
    State.Frame M r (State.updPw s f) := by
  unfold State.updPw
  try dsimp only
  repeat' first
    | (with_reducible first
        | assumption)
    | exact Mask.trans (by rfl) hM
    | split
    | (fail_if_no_progress
        with_reducible refine State.Frame.rest ?_ ?hp
        case hp => intro p hp; cases p <;> first | exact Mask.clash hM hp rfl | with_reducible exact rfl)
    | with_reducible intro _

theorem State.funcReset_frame {s : State} (hS : State.Frame M r s) (hM : 0x2fbfeb1ffffffffffffffffffffffffffffffffffffff ||| M = M) :
    State.Frame M r (State.funcReset s) := by
  unfold State.funcReset
  try dsimp only
  repeat' first
    | (with_reducible first
        | assumption | apply State.landWrite_frame | apply State.tearDown_frame | apply State.resetRegs_frame)
    | exact Mask.trans (by rfl) hM
    | split
    | with_reducible apply State.Frame.foldl
    | with_reducible apply State.Frame.foldl_fst
    | (fail_if_no_progress
        with_reducible refine State.Frame.rest ?_ ?hp
        case hp => intro p hp; cases p <;> first | exact Mask.clash hM hp rfl | with_reducible exact rfl)
    | with_reducible intro _

theorem State.saveRecord_frame {s : State} (hS : State.Frame M r s) (hM : 0x400000000000000000000000000000000000000000000 ||| M = M) :
    State.Frame M r (State.saveRecord s) := by
  unfold State.saveRecord
  try dsimp only
  repeat' first
    | (with_reducible first
        | assumption)
    | exact Mask.trans (by rfl) hM
    | split
    | (fail_if_no_progress
        with_reducible refine State.Frame.rest ?_ ?hp
        case hp => intro p hp; cases p <;> first | exact Mask.clash hM hp rfl | with_reducible exact rfl)
    | with_reducible intro _

theorem State.hardReset_frame {s : State} {d : Domain} (hS : State.Frame M r s) (hM : 0x7fffeb9ffffffffffffffffffffffffffffffffffffff ||| M = M) :
    State.Frame M r (State.hardReset s d) := by
  unfold State.hardReset
  try dsimp only
  repeat' first
    | (with_reducible first
        | assumption | apply State.resetRegs_frame | apply State.saveRecord_frame | apply State.setF_frame)
    | exact Mask.trans (by rfl) hM
    | split
    | (fail_if_no_progress
        with_reducible refine State.Frame.rest ?_ ?hp
        case hp => intro p hp; cases p <;> first | exact Mask.clash hM hp rfl | with_reducible exact rfl)
    | with_reducible intro _

theorem execPwrGoodRise_frame {s : State} (hS : State.Frame M r s) (hM : 0x800000000000000000000000000000000000000 ||| M = M) :
    AnsFrame M r (execPwrGoodRise s) := by
  unfold execPwrGoodRise
  try dsimp only
  repeat' first
    | (with_reducible first
        | assumption | exact ansFrame_fault | apply ansFrame_next | apply State.ifB_frame | apply State.updPw_frame)
    | exact Mask.trans (by rfl) hM
    | split
    | with_reducible intro _

theorem State.endAuths_frame {s : State} (hS : State.Frame M r s) (hM : 0x200000003e80000000000000000000000000000000000 ||| M = M) :
    State.Frame M r (State.endAuths s) := by
  unfold State.endAuths
  try dsimp only
  repeat' first
    | (with_reducible first
        | assumption | apply State.endAuth_frame)
    | exact Mask.trans (by rfl) hM
    | split
    | with_reducible apply State.Frame.foldl
    | with_reducible apply State.Frame.foldl_fst
    | with_reducible intro _

theorem execPwrGoodLoss_frame {s : State} (hS : State.Frame M r s) (hM : 0x7fffeb9ffffffffffffffffffffffffffffffffffffff ||| M = M) :
    AnsFrame M r (execPwrGoodLoss s) := by
  unfold execPwrGoodLoss
  try dsimp only
  repeat' first
    | (with_reducible first
        | assumption | exact ansFrame_fault | apply ansFrame_next | apply State.ifB_frame | apply State.updPw_frame
        | apply State.hardReset_frame | apply State.endAuths_frame)
    | exact Mask.trans (by rfl) hM
    | split
    | with_reducible intro _

theorem execClockLoss_frame {sysclk : Bool} {s : State} (hS : State.Frame M r s) (hM : 0x7fffeb9ffffffffffffffffffffffffffffffffffffff ||| M = M) :
    AnsFrame M r (execClockLoss sysclk s) := by
  unfold execClockLoss
  try dsimp only
  repeat' first
    | (with_reducible first
        | assumption | exact ansFrame_fault | apply ansFrame_next | apply State.ifB_frame | apply State.updPw_frame
        | apply State.hardReset_frame | apply State.endAuths_frame)
    | exact Mask.trans (by rfl) hM
    | split
    | with_reducible intro _

theorem execClockReturn_frame {sysclk : Bool} {s : State} (hS : State.Frame M r s) (hM : 0x800000000000000000000000000000000000000 ||| M = M) :
    AnsFrame M r (execClockReturn sysclk s) := by
  unfold execClockReturn
  try dsimp only
  repeat' first
    | (with_reducible first
        | assumption | exact ansFrame_fault | apply ansFrame_next | apply State.updPw_frame)
    | exact Mask.trans (by rfl) hM
    | split
    | with_reducible intro _

theorem execRefclk100mStop_frame {s : State} (hS : State.Frame M r s) (hM : 0x800000000000000000000000000000000000000 ||| M = M) :
    AnsFrame M r (execRefclk100mStop s) := by
  unfold execRefclk100mStop
  try dsimp only
  repeat' first
    | (with_reducible first
        | assumption | exact ansFrame_fault | apply ansFrame_next | apply State.updPw_frame)
    | exact Mask.trans (by rfl) hM
    | split
    | with_reducible intro _

theorem execRefclk100mReturn_frame {s : State} (hS : State.Frame M r s) (hM : 0x2fbfeb9ffffffffffffffffffffffffffffffffffffff ||| M = M) :
    AnsFrame M r (execRefclk100mReturn s) := by
  unfold execRefclk100mReturn
  try dsimp only
  repeat' first
    | (with_reducible first
        | assumption | exact ansFrame_fault | apply ansFrame_next | apply State.ifB_frame | apply State.updPw_frame
        | apply State.funcReset_frame)
    | exact Mask.trans (by rfl) hM
    | split
    | with_reducible intro _

theorem execResetNAssert_frame {s : State} (hS : State.Frame M r s) (hM : 0x7fffeb9ffffffffffffffffffffffffffffffffffffff ||| M = M) :
    AnsFrame M r (execResetNAssert s) := by
  unfold execResetNAssert
  try dsimp only
  repeat' first
    | (with_reducible first
        | assumption | exact ansFrame_fault | apply ansFrame_next | apply State.updPw_frame | apply State.hardReset_frame
        | apply State.endAuths_frame)
    | exact Mask.trans (by rfl) hM
    | split
    | with_reducible intro _

theorem execFunctionLevelReset_frame {s : State} (hS : State.Frame M r s) (hM : 0x2fbfeb1ffffffffffffffffffffffffffffffffffffff ||| M = M) :
    AnsFrame M r (execFunctionLevelReset s) := by
  unfold execFunctionLevelReset
  try dsimp only
  repeat' first
    | (with_reducible first
        | assumption | exact ansFrame_fault | apply ansFrame_next | apply State.ifB_frame | apply State.funcReset_frame)
    | exact Mask.trans (by rfl) hM
    | split
    | with_reducible intro _

theorem execD3hotReturn_frame {s : State} (hS : State.Frame M r s) (hM : 0x2fbfeb1ffffffffffffffffffffffffffffffffffffff ||| M = M) :
    AnsFrame M r (execD3hotReturn s) := by
  unfold execD3hotReturn
  try dsimp only
  repeat' first
    | (with_reducible first
        | assumption | exact ansFrame_fault | apply ansFrame_next | apply State.ifB_frame | apply State.funcReset_frame)
    | exact Mask.trans (by rfl) hM
    | split
    | with_reducible intro _

theorem execConfigRequest_frame {rid : Nat} {cxlMem : Option Bool} {cxlCache : Option Bool} {s : State} (hS : State.Frame M r s) (hM : 0x8000000000000800000000000000000000000000 ||| M = M) :
    AnsFrame M r (execConfigRequest rid cxlMem cxlCache s) := by
  unfold execConfigRequest
  try dsimp only
  repeat' first
    | (with_reducible first
        | assumption | exact ansFrame_fault | apply ansFrame_next | exact fieldsMask_nil | apply fieldsMask_cons | apply State.ifB_frame
        | apply State.setFs_frame)
    | exact Mask.trans (by rfl) hM
    | split
    | (fail_if_no_progress
        with_reducible refine State.Frame.rest ?_ ?hp
        case hp => intro p hp; cases p <;> first | exact Mask.clash hM hp rfl | with_reducible exact rfl)
    | with_reducible intro _

theorem State.bootFail_frame {s : State} {step : Nat} (hS : State.Frame M r s) (hM : 0x80000000000000000000000000000000000 ||| M = M) :
    State.Frame M r (State.bootFail s step) := by
  unfold State.bootFail
  try dsimp only
  repeat' first
    | (with_reducible first
        | assumption | apply State.setF_frame)
    | exact Mask.trans (by rfl) hM
    | split
    | with_reducible intro _

theorem State.bootHalt_frame {s : State} {step : Nat} {ms : Nat} (hS : State.Frame M r s) (hM : 0x100080000000000000000000000000000000000 ||| M = M) :
    State.Frame M r (State.bootHalt s step ms) := by
  unfold State.bootHalt
  try dsimp only
  repeat' first
    | (with_reducible first
        | assumption | exact fieldsMask_nil | apply fieldsMask_cons | apply State.setFs_frame | apply State.bootFail_frame)
    | exact Mask.trans (by rfl) hM
    | split
    | with_reducible intro _

theorem State.bootColophon_frame {s : State} {broken : Option Nat} (hS : State.Frame M r s) (hM : 0x200000003c80000000000000000000000000000000000 ||| M = M) :
    State.Frame M r (State.bootColophon s broken) := by
  unfold State.bootColophon
  try dsimp only
  repeat' first
    | (with_reducible first
        | assumption | exact fieldsMask_nil | apply fieldsMask_cons | apply State.wr_frame | apply State.setFs_frame
        | apply State.bump_frame | apply State.note_frame)
    | exact Mask.trans (by rfl) hM
    | split
    | (fail_if_no_progress
        with_reducible refine State.Frame.rest ?_ ?hp
        case hp => intro p hp; cases p <;> first | exact Mask.clash hM hp rfl | with_reducible exact rfl)
    | with_reducible intro _

theorem State.applyFences_frame {s : State} {f : Bytes} (hS : State.Frame M r s) (hM : 0x280000000000440000001000080000000000000000000 ||| M = M) :
    State.Frame M r (State.applyFences s f) := by
  unfold State.applyFences
  try dsimp only
  repeat' first
    | (with_reducible first
        | assumption | exact fieldsMask_nil | apply fieldsMask_cons | apply State.setFs_frame | apply State.updSec_frame
        | apply State.setF_frame)
    | exact Mask.trans (by rfl) hM
    | split
    | with_reducible apply State.Frame.foldl
    | with_reducible apply State.Frame.foldl_fst
    | (fail_if_no_progress
        with_reducible refine State.Frame.rest ?_ ?hp
        case hp => intro p hp; cases p <;> first | exact Mask.clash hM hp rfl | with_reducible exact rfl)
    | with_reducible intro _

theorem State.showSettings_frame {s : State} (hS : State.Frame M r s) (hM : 0x3c002000000000000000000000 ||| M = M) :
    State.Frame M r (State.showSettings s) := by
  unfold State.showSettings
  try dsimp only
  repeat' first
    | (with_reducible first
        | assumption | exact fieldsMask_nil | apply fieldsMask_cons | apply State.setFs_frame)
    | exact Mask.trans (by rfl) hM
    | split
    | with_reducible apply State.Frame.foldl
    | with_reducible apply State.Frame.foldl_fst
    | with_reducible intro _

theorem State.bootRecords_frame {s : State} {f : BootFinds} (hS : State.Frame M r s) (hM : 0x280000003c8044000003d002080000000000000000000 ||| M = M) :
    State.Frame M r (State.bootRecords s f) := by
  unfold State.bootRecords
  try dsimp only
  repeat' first
    | (with_reducible first
        | assumption | exact fieldsMask_nil | apply fieldsMask_cons | apply State.setFs_frame | apply State.updSec_frame
        | apply State.bootColophon_frame | apply State.note_frame | apply State.bootFail_frame | apply State.showSettings_frame
        | apply State.showCreds_frame | apply State.setF_frame | apply State.applyFences_frame)
    | exact Mask.trans (by rfl) hM
    | split
    | with_reducible intro _

theorem State.applyRecord_frame {s : State} (hS : State.Frame M r s) (hM : 0x8000000000000000000000006000000000006 ||| M = M) :
    State.Frame M r (State.applyRecord s) := by
  unfold State.applyRecord
  have hr : ∀ p ∈ recordRegs, p.1.mask ||| M = M := fun p hp => Mask.trans (by revert p; decide) hM
  split
  · dsimp only
    repeat' first
      | (with_reducible first
        | assumption | exact fieldsMask_nil | apply fieldsMask_cons | apply State.setFs_frame)
      | exact Mask.trans (by rfl) hM
      | exact Mask.trans (a := RegName.mask .sysRegionMap) (by rfl) hM
      | with_reducible apply State.Frame.foldl
      | with_reducible intro _
  · rename_i h0
    clear h0
    revert hr
    generalize s.ras.saved = sv
    generalize recordRegs = l
    induction l generalizing s with
    | nil => exact fun _ => hS
    | cons a l ih =>
      intro hr
      refine ih ?_ fun p hp => hr p (List.mem_cons_of_mem _ hp)
      dsimp only
      split
      · exact State.wr_frame hS (hr a (List.mem_cons_self ..))
      · exact hS

theorem State.returnPcs_frame {s : State} (hS : State.Frame M r s) (hM : 0x200000000000000000000000000006000000000000 ||| M = M) :
    State.Frame M r (State.returnPcs s) := by
  unfold State.returnPcs
  try dsimp only
  repeat' first
    | (with_reducible first
        | assumption | exact fieldsMask_nil | apply fieldsMask_cons | apply State.setFs_frame | apply State.setF_frame)
    | exact Mask.trans (by rfl) hM
    | split
    | with_reducible apply State.Frame.foldl
    | with_reducible apply State.Frame.foldl_fst
    | (fail_if_no_progress
        with_reducible refine State.Frame.rest ?_ ?hp
        case hp => intro p hp; cases p <;> first | exact Mask.clash hM hp rfl | with_reducible exact rfl)
    | with_reducible intro _

theorem State.bringUp_frame {s : State} {f : BootFinds} (hS : State.Frame M r s) (hM : 0x5206461dc000ac003000000c0800000060c0000000006 ||| M = M) :
    State.Frame M r (State.bringUp s f) := by
  unfold State.bringUp
  try dsimp only
  repeat' first
    | (with_reducible first
        | assumption | exact fieldsMask_nil | apply fieldsMask_cons | apply State.setF_frame | apply State.returnPcs_frame
        | apply State.applyRecord_frame | apply State.logErr_frame | apply State.offlineStack_frame | apply State.setFs_frame
        | apply State.spareBad_frame | apply State.updLink_frame | apply State.noteTime_frame | apply State.setEnvelope_frame
        | apply State.originate_frame | apply State.updTime_frame)
    | exact Mask.trans (by rfl) hM
    | split
    | with_reducible apply State.Frame.foldl
    | with_reducible apply State.Frame.foldl_fst
    | with_reducible intro _

theorem State.bootStart_frame {s : State} {f : BootFinds} (hS : State.Frame M r s) (hM : 0x7a0646bdfc80ec003003d00e0800000060c0000000006 ||| M = M) :
    State.Frame M r (State.bootStart s f) := by
  unfold State.bootStart
  try dsimp only
  repeat' first
    | (with_reducible first
        | assumption | exact fieldsMask_nil | apply fieldsMask_cons | apply State.updPw_frame | apply State.setFs_frame
        | apply State.bootHalt_frame | apply State.setF_frame | apply State.updSec_frame | apply State.bootRecords_frame
        | apply State.freshBytes_frame | (refine State.freshBytes_frame_eq (he := by assumption) ?_ ?_) | apply State.checkpoint_frame
        | apply State.note_frame | apply State.bringUp_frame)
    | exact Mask.trans (by rfl) hM
    | split
    | with_reducible intro _

theorem execBootStart_frame {f : BootFinds} {s : State} (hS : State.Frame M r s) (hM : 0x7a0646bdfc80ec003003d00e0800000060c0000000006 ||| M = M) :
    AnsFrame M r (execBootStart f s) := by
  unfold execBootStart
  try dsimp only
  repeat' first
    | (with_reducible first
        | assumption | exact ansFrame_fault | apply ansFrame_next | apply State.ifB_frame | apply State.bootStart_frame)
    | exact Mask.trans (by rfl) hM
    | split
    | with_reducible intro _

theorem State.enterReady_frame {s : State} (hS : State.Frame M r s) (hM : 0xe1000000100b0000000000000000000000000000 ||| M = M) :
    State.Frame M r (State.enterReady s) := by
  unfold State.enterReady
  try dsimp only
  repeat' first
    | (with_reducible first
        | assumption | exact fieldsMask_nil | apply fieldsMask_cons | apply State.noteTime_frame | apply State.noteFabric_frame
        | apply State.setFs_frame | apply State.pump_frame)
    | exact Mask.trans (by rfl) hM
    | split
    | with_reducible apply State.Frame.foldl
    | with_reducible apply State.Frame.foldl_fst
    | with_reducible intro _

theorem execReady_frame {late : Bool} {s : State} (hS : State.Frame M r s) (hM : 0xe1000000100b0000000000000000000000000000 ||| M = M) :
    AnsFrame M r (execReady late s) := by
  unfold execReady
  try dsimp only
  repeat' first
    | (with_reducible first
        | assumption | exact ansFrame_fault | apply ansFrame_next | apply State.ifB_frame | apply State.enterReady_frame)
    | exact Mask.trans (by rfl) hM
    | split
    | with_reducible intro _

/-! ### Machine/Dense.lean -/

theorem State.noteTileRead_frame {s : State} {c : Nat} {base : Nat} {t : TileRead} (hS : State.Frame M r s) (hM : 0x500000000000000000000000004000000000000000 ||| M = M) :
    State.Frame M r (State.noteTileRead s c base t) := by
  unfold State.noteTileRead
  try dsimp only
  repeat' first
    | (with_reducible first
        | assumption | apply State.noteTile_frame | apply State.noteRead_frame)
    | exact Mask.trans (by rfl) hM
    | split
    | with_reducible apply State.Frame.foldl
    | with_reducible apply State.Frame.foldl_fst
    | with_reducible intro _

theorem State.productPlate_frame {s : State} {c : Nat} (hS : State.Frame M r s) (hM : 0x7ec2000000000000000000000044001c000013f800 ||| M = M) :
    State.Frame M r (State.productPlate s c) := by
  unfold State.productPlate
  try dsimp only
  repeat' first
    | (with_reducible first
        | assumption | apply State.noteRead_frame | apply State.recordFault_frame | apply State.noteTileRead_frame
        | apply State.metaFaults_frame | apply State.bump_frame | apply State.updWork_frame | apply State.updChase_frame
        | apply State.writeOutput_frame)
    | exact Mask.trans (by rfl) hM
    | split
    | with_reducible apply State.Frame.foldl
    | with_reducible apply State.Frame.foldl_fst
    | with_reducible intro _

theorem execDense_frame {slot : Nat} {hw : List HwEvent} {s : State} (hS : State.Frame M r s) (hM : 0x4bbfee2dc000a8003000001000027443e1c00001bf90e ||| M = M) :
    AnsFrame M r (execDense slot hw s) := by
  unfold execDense
  try dsimp only
  repeat' first
    | (with_reducible first
        | assumption | exact ansFrame_fault | apply ansFrame_next | apply State.plateDo_frame | apply State.productPlate_frame)
    | exact Mask.trans (by rfl) hM
    | split
    | with_reducible intro _

theorem execSparse_frame {slot : Nat} {hw : List HwEvent} {s : State} (hS : State.Frame M r s) (hM : 0x4bbfee2dc000a8003000001000027443e1c00001bf90e ||| M = M) :
    AnsFrame M r (execSparse slot hw s) := by
  unfold execSparse
  try dsimp only
  repeat' first
    | (with_reducible first
        | assumption | exact ansFrame_fault | apply ansFrame_next | apply State.plateDo_frame | apply State.productPlate_frame)
    | exact Mask.trans (by rfl) hM
    | split
    | with_reducible intro _

/-! ### Machine/Groups.lean -/

theorem State.setGroup_frame {s : State} {cell : CellId} {g : Nat} {x : AccGroup} (hS : State.Frame M r s) (hM : 0x1000000000000000000000000000000000000000000 ||| M = M) :
    State.Frame M r (State.setGroup s cell g x) := by
  unfold State.setGroup
  try dsimp only
  repeat' first
    | (with_reducible first
        | assumption)
    | exact Mask.trans (by rfl) hM
    | split
    | (fail_if_no_progress
        with_reducible refine State.Frame.rest ?_ ?hp
        case hp => intro p hp; cases p <;> first | exact Mask.clash hM hp rfl | with_reducible exact rfl)
    | with_reducible intro _

theorem State.openWith_frame {s : State} {cell : CellId} {g : Nat} {shape : GroupShape} {acc : List Int} {poison : Bool} (hS : State.Frame M r s) (hM : 0x3000000000000000000000000000000000000000000 ||| M = M) :
    State.Frame M r (State.openWith s cell g shape acc poison) := by
  unfold State.openWith
  try dsimp only
  repeat' first
    | (with_reducible first
        | assumption | apply State.setGroup_frame)
    | exact Mask.trans (by rfl) hM
    | split
    | (fail_if_no_progress
        with_reducible refine State.Frame.rest ?_ ?hp
        case hp => intro p hp; cases p <;> first | exact Mask.clash hM hp rfl | with_reducible exact rfl)
    | with_reducible intro _

theorem State.openWaiting_frame {s : State} {cell : CellId} {g : Nat} (hS : State.Frame M r s) (hM : 0x3000000000000000000000000000000000000000000 ||| M = M) :
    State.Frame M r (State.openWaiting s cell g) := by
  unfold State.openWaiting
  try dsimp only
  repeat' first
    | (with_reducible first
        | assumption | apply State.setGroup_frame)
    | exact Mask.trans (by rfl) hM
    | split
    | (fail_if_no_progress
        with_reducible refine State.Frame.rest ?_ ?hp
        case hp => intro p hp; cases p <;> first | exact Mask.clash hM hp rfl | with_reducible exact rfl)
    | with_reducible intro _

theorem execOpenZero_frame {cell : CellId} {g : Nat} {shape : GroupShape} {s : State} (hS : State.Frame M r s) (hM : 0x3000000000000000000000000000000000000000000 ||| M = M) :
    AnsFrame M r (execOpenZero cell g shape s) := by
  unfold execOpenZero
  try dsimp only
  repeat' first
    | (with_reducible first
        | assumption | exact ansFrame_fault | apply ansFrame_next | apply State.openWith_frame)
    | exact Mask.trans (by rfl) hM
    | split
    | with_reducible intro _

theorem execOpenLoad_frame {cell : CellId} {g : Nat} {shape : GroupShape} {recs : List Bytes} {s : State} (hS : State.Frame M r s) (hM : 0x3000000000000000000000000000000000000000000 ||| M = M) :
    AnsFrame M r (execOpenLoad cell g shape recs s) := by
  unfold execOpenLoad
  try dsimp only
  repeat' first
    | (with_reducible first
        | assumption | exact ansFrame_fault | apply ansFrame_next | apply State.openWith_frame)
    | exact Mask.trans (by rfl) hM
    | split
    | with_reducible intro _

theorem State.feed_frame {s : State} {cell : CellId} {g : Nat} {x : AccGroup} {f : FeedOp} (hS : State.Frame M r s) (hM : 0x4bbfee2dc000a800300000100002604000c000000010e ||| M = M) :
    State.Frame M r (State.feed s cell g x f) := by
  unfold State.feed
  try dsimp only
  repeat' first
    | (with_reducible first
        | assumption | apply State.setGroup_frame | apply State.transient_frame | apply State.columnFails_frame)
    | exact Mask.trans (by rfl) hM
    | split
    | with_reducible apply State.Frame.foldl
    | with_reducible apply State.Frame.foldl_fst
    | with_reducible intro _

theorem execFeed_frame {cell : CellId} {g : Nat} {f : FeedOp} {s : State} (hS : State.Frame M r s) (hM : 0x4bbfee2dc000a800300000100002604000c000000010e ||| M = M) :
    AnsFrame M r (execFeed cell g f s) := by
  unfold execFeed
  try dsimp only
  repeat' first
    | (with_reducible first
        | assumption | exact ansFrame_fault | apply ansFrame_next | apply State.feed_frame)
    | exact Mask.trans (by rfl) hM
    | split
    | with_reducible intro _

theorem execAddWide_frame {cell : CellId} {g : Nat} {r_ : Nat} {n : Nat} {rec : Bytes} {s : State} (hS : State.Frame M r s) (hM : 0x1000000000000000000000000000000000000000000 ||| M = M) :
    AnsFrame M r (execAddWide cell g r_ n rec s) := by
  unfold execAddWide
  try dsimp only
  repeat' first
    | (with_reducible first
        | assumption | exact ansFrame_fault | apply ansFrame_next | apply State.setGroup_frame)
    | exact Mask.trans (by rfl) hM
    | split
    | with_reducible intro _

theorem State.closeGroup_frame {s : State} {cell : CellId} {g : Nat} {x : AccGroup} {cw : CloseWord} (hS : State.Frame M r s) (hM : 0x37ec2000000000000000000000004001c0000003800 ||| M = M) :
    State.Frame M r (State.closeGroup s cell g x cw) := by
  unfold State.closeGroup
  try dsimp only
  repeat' first
    | (with_reducible first
        | assumption | apply State.countClose_frame | apply State.writeTile_frame | apply State.openWaiting_frame)
    | exact Mask.trans (by rfl) hM
    | split
    | (fail_if_no_progress
        with_reducible refine State.Frame.rest ?_ ?hp
        case hp => intro p hp; cases p <;> first | exact Mask.clash hM hp rfl | with_reducible exact rfl)
    | with_reducible intro _

theorem execClose_frame {cell : CellId} {g : Nat} {cw : Nat} {s : State} (hS : State.Frame M r s) (hM : 0x37ec2000000000000000000000004001c0000003800 ||| M = M) :
    AnsFrame M r (execClose cell g cw s) := by
  unfold execClose
  try dsimp only
  repeat' first
    | (with_reducible first
        | assumption | exact ansFrame_fault | apply ansFrame_next | apply State.closeGroup_frame)
    | exact Mask.trans (by rfl) hM
    | split
    | with_reducible intro _

/-! ### Machine/HostRegs.lean -/

theorem State.clearRc_frame {s : State} {r_ : RegName} {i : Nat} {off : Nat} {width : Nat} (hS : State.Frame M r s) (hMr_ : r_.mask ||| M = M) :
    State.Frame M r (State.clearRc s r_ i off width) := by
  unfold State.clearRc
  try dsimp only
  repeat' first
    | (with_reducible first
        | assumption | apply State.wr_frame)
    | split
    | with_reducible apply State.Frame.foldl
    | with_reducible apply State.Frame.foldl_fst
    | with_reducible intro _

theorem State.readReg_frame {s : State} {r_ : RegName} {i : Nat} {off : Nat} {width : Nat} (hS : State.Frame M r s) (hM : 0x4e4000002000044000000000000000000000000000 ||| M = M) (hMr_ : r_.mask ||| M = M) :
    State.Frame M r (State.readReg s r_ i off width) := by
  unfold State.readReg
  try dsimp only
  repeat' first
    | (with_reducible first
        | assumption | apply State.readTimeNs_frame | apply State.drainAll_frame
        | (refine State.drainAll_frame_eq (he := by assumption) ?_ ?_) | apply State.setF_frame | apply State.emit_frame
        | apply State.updGalley_frame | apply State.clearRc_frame)
    | exact Mask.trans (by rfl) hM
    | split
    | with_reducible intro _

theorem State.bar0Read_frame {s : State} {off : Nat} {width : Nat} (hS : State.Frame M r s) (hM : 0x4e43ffffffffffffffffffffffffffffffffffffff ||| M = M) :
    State.Frame M r (State.bar0Read s off width) := by
  unfold State.bar0Read
  try dsimp only
  repeat' first
    | (with_reducible first
        | assumption | apply State.emit_frame | apply State.bump_frame | apply State.freshBytes_frame
        | (refine State.freshBytes_frame_eq (he := by assumption) ?_ ?_) | apply State.readReg_frame)
    | exact Mask.trans (by rfl) hM
    | exact Mask.trans (RegName.mask_all _) (Mask.trans (by rfl) hM)
    | split
    | with_reducible apply State.Frame.foldl
    | with_reducible apply State.Frame.foldl_fst
    | with_reducible intro _

theorem execRegisterRead_frame {rid : Nat} {off : Nat} {width : Nat} {s : State} (hS : State.Frame M r s) (hM : 0x4e43ffffffffffffffffffffffffffffffffffffff ||| M = M) :
    AnsFrame M r (execRegisterRead rid off width s) := by
  unfold execRegisterRead
  try dsimp only
  repeat' first
    | (with_reducible first
        | assumption | exact ansFrame_fault | apply ansFrame_next | apply State.hostRead_frame | apply State.bar0Read_frame)
    | exact Mask.trans (by rfl) hM
    | split
    | with_reducible intro _

theorem execTimeNs_frame {rid : Nat} {s : State} (hS : State.Frame M r s) (hM : 0x4200002000100000000000000000000000000000 ||| M = M) :
    AnsFrame M r (execTimeNs rid s) := by
  unfold execTimeNs
  try dsimp only
  repeat' first
    | (with_reducible first
        | assumption | exact ansFrame_fault | apply ansFrame_next | apply State.regRead_frame | apply State.emit_frame
        | apply State.readTimeNs_frame)
    | exact Mask.trans (by rfl) hM
    | split
    | with_reducible intro _

theorem State.plainWrite_frame {s : State} {r_ : RegName} {i : Nat} {off : Nat} {width : Nat} {value : Nat} (hS : State.Frame M r s) (hMr_ : r_.mask ||| M = M) :
    State.Frame M r (State.plainWrite s r_ i off width value) := by
  unfold State.plainWrite
  try dsimp only
  repeat' first
    | (with_reducible first
        | assumption | apply State.wr_frame)
    | split
    | with_reducible apply State.Frame.foldl
    | with_reducible apply State.Frame.foldl_fst
    | with_reducible intro _

theorem State.maintWrite_frame {s : State} {k : Nat} {value : Nat} (hS : State.Frame M r s) (hM : 0x2006462d7c800000300000000000001b60c0000000002 ||| M = M) :
    State.Frame M r (State.maintWrite s k value) := by
  unfold State.maintWrite
  try dsimp only
  repeat' first
    | (with_reducible first
        | assumption | apply State.maint_frame | apply State.readMap_frame | apply State.repairRow_frame | apply State.fresh_frame
        | (refine State.fresh_frame_eq (he := by assumption) ?_ ?_) | apply State.testPc_frame | apply State.returnPc_frame
        | apply State.setF_frame)
    | exact Mask.trans (by rfl) hM
    | split
    | with_reducible intro _

theorem State.poolWrite_frame {s : State} {v : Nat} {clear : Bool} (hS : State.Frame M r s) (hM : 0x8000000000000000000000000000 ||| M = M) :
    State.Frame M r (State.poolWrite s v clear) := by
  unfold State.poolWrite
  try dsimp only
  repeat' first
    | (with_reducible first
        | assumption | exact fieldsMask_nil | apply fieldsMask_cons | apply State.setF_frame | apply State.setFs_frame)
    | exact Mask.trans (by rfl) hM
    | split
    | with_reducible intro _

theorem State.pumpAll_frame {s : State} (hS : State.Frame M r s) (hM : 0xe0000000100b0000000000000000000000000000 ||| M = M) :
    State.Frame M r (State.pumpAll s) := by
  unfold State.pumpAll
  try dsimp only
  repeat' first
    | (with_reducible first
        | assumption | apply State.pump_frame)
    | exact Mask.trans (by rfl) hM
    | split
    | with_reducible apply State.Frame.foldl
    | with_reducible apply State.Frame.foldl_fst
    | with_reducible intro _

theorem State.wideWrite_frame {s : State} {r_ : RegName} {i : Nat} {off : Nat} {width : Nat} {value : Nat} (hS : State.Frame M r s) (hM : 0x2b3fee2d7c80ab00b00000100516605b60c000000010a ||| M = M) (hMr_ : r_.mask ||| M = M) {u : State} (he : State.wideWrite s r_ i off width value = some u) :
    State.Frame M r u := by
  unfold State.wideWrite at he
  dsimp only at he
  split at he
  all_goals first | cases he | skip
  all_goals
    repeat' first
      | (with_reducible first
        | assumption | apply State.doorbell_frame | apply State.bump_frame | apply State.markOp_frame | apply State.xlate_frame
        | apply State.handSet_frame | apply State.maintWrite_frame | apply State.refuseRw2p_frame)
      | exact Mask.trans (by rfl) hM
      | split

theorem State.writeReg_frame {s : State} {r_ : RegName} {i : Nat} {off : Nat} {width : Nat} {value : Nat} (hS : State.Frame M r s) (hM : 0x2b3ffe2d7fa4bfa0b803c0920516627b68c000000010a ||| M = M) (hMr_ : r_.mask ||| M = M) :
    State.Frame M r (State.writeReg s r_ i off width value) := by
  unfold State.writeReg
  dsimp only
  split
  · exact State.wideWrite_frame hS (he := by assumption) (Mask.trans (by rfl) hM) hMr_
  · repeat' first
      | (with_reducible first
        | assumption | apply State.waysWrite_frame | apply State.setF_frame | apply State.plainWrite_frame | apply State.rangeStart_frame
        | apply State.query_frame | apply State.ringCtrl_frame | apply State.pump_frame | apply State.pumpAll_frame
        | apply State.poolWrite_frame | apply State.mbGo_frame | apply State.fresh_frame | apply State.clearStuck_frame
        | apply State.chooseParent_frame)
      | exact Mask.trans (by rfl) hM
      | split

theorem State.msixWrite_frame {s : State} {off : Nat} {width : Nat} {value : Nat} (hS : State.Frame M r s) (hM : 0x7000000000000000000000000000000000000000 ||| M = M) :
    State.Frame M r (State.msixWrite s off width value) := by
  unfold State.msixWrite
  try dsimp only
  repeat' first
    | (with_reducible first
        | assumption | apply State.emit_frame)
    | exact Mask.trans (by rfl) hM
    | split
    | (fail_if_no_progress
        with_reducible refine State.Frame.rest ?_ ?hp
        case hp => intro p hp; cases p <;> first | exact Mask.clash hM hp rfl | with_reducible exact rfl)
    | with_reducible intro _

theorem State.bar0Write_frame {s : State} {off : Nat} {width : Nat} {value : Nat} (hS : State.Frame M r s) (hM : 0x2b3fff3ffffffffffffffffffffffffffffffffffffff ||| M = M) :
    State.Frame M r (State.bar0Write s off width value) := by
  unfold State.bar0Write
  try dsimp only
  repeat' first
    | (with_reducible first
        | assumption | apply State.bump_frame | apply State.updSec_frame | apply State.msixWrite_frame | apply State.writeReg_frame)
    | exact Mask.trans (by rfl) hM
    | exact Mask.trans (RegName.mask_all _) (Mask.trans (by rfl) hM)
    | split
    | with_reducible intro _

theorem execRegisterWrite_frame {rid : Nat} {off : Nat} {width : Nat} {value : Nat} {s : State} (hS : State.Frame M r s) (hM : 0x2b3fff3ffffffffffffffffffffffffffffffffffffff ||| M = M) :
    AnsFrame M r (execRegisterWrite rid off width value s) := by
  unfold execRegisterWrite
  try dsimp only
  repeat' first
    | (with_reducible first
        | assumption | exact ansFrame_fault | apply ansFrame_next | apply State.hostWrite_frame | apply State.bar0Write_frame)
    | exact Mask.trans (by rfl) hM
    | split
    | with_reducible intro _

theorem execHifHostPool_frame {rid : Nat} {value : Nat} {s : State} (hS : State.Frame M r s) (hM : 0x108000000000000000000000000000 ||| M = M) :
    AnsFrame M r (execHifHostPool rid value s) := by
  unfold execHifHostPool
  try dsimp only
  repeat' first
    | (with_reducible first
        | assumption | exact ansFrame_fault | apply ansFrame_next | apply State.regWrite_frame | apply State.poolWrite_frame)
    | exact Mask.trans (by rfl) hM
    | split
    | with_reducible intro _

theorem execHifHostRid_frame {rid : Nat} {value : Nat} {s : State} (hS : State.Frame M r s) (hM : 0x101000000000000000000000000000 ||| M = M) :
    AnsFrame M r (execHifHostRid rid value s) := by
  unfold execHifHostRid
  try dsimp only
  repeat' first
    | (with_reducible first
        | assumption | exact ansFrame_fault | apply ansFrame_next | exact fieldsMask_nil | apply fieldsMask_cons
        | apply State.regWrite_frame | apply State.setFs_frame)
    | exact Mask.trans (by rfl) hM
    | split
    | with_reducible intro _

/-! ### Machine/Micro.lean -/

theorem State.micro_frame {s : State} {cell : CellId} {r_ : VecEngine × Nat} (hS : State.Frame M r s) (hM : 0x4000000000000000000000000000000000000200000 ||| M = M) :
    State.Frame M r (State.micro s cell r_) := by
  unfold State.micro
  try dsimp only
  repeat' first
    | (with_reducible first
        | assumption | apply State.raiseFlags_frame)
    | exact Mask.trans (by rfl) hM
    | split
    | (fail_if_no_progress
        with_reducible refine State.Frame.rest ?_ ?hp
        case hp => intro p hp; cases p <;> first | exact Mask.clash hM hp rfl | with_reducible exact rfl)
    | with_reducible intro _

theorem State.microOp_frame {s : State} {cell : CellId} {f : VecEngine → VecEngine × Nat} (hS : State.Frame M r s) (hM : 0x4000000000000000000000000000000000000200000 ||| M = M) :
    State.Frame M r (State.microOp s cell f) := by
  unfold State.microOp
  try dsimp only
  repeat' first
    | (with_reducible first
        | assumption | apply State.ifB_frame | apply State.micro_frame)
    | exact Mask.trans (by rfl) hM
    | split
    | with_reducible intro _

theorem execTintNop_frame {cell : CellId} {u : MuFields} {s : State} (hS : State.Frame M r s) (hM : 0x4000000000000000000000000000000000000200000 ||| M = M) :
    AnsFrame M r (execTintNop cell u s) := by
  unfold execTintNop
  try dsimp only
  repeat' first
    | (with_reducible first
        | assumption | exact ansFrame_fault | apply ansFrame_next | apply State.microOp_frame)
    | exact Mask.trans (by rfl) hM
    | split
    | with_reducible intro _

theorem execAdd_frame {cell : CellId} {u : MuFields} {s : State} (hS : State.Frame M r s) (hM : 0x4000000000000000000000000000000000000200000 ||| M = M) :
    AnsFrame M r (execAdd cell u s) := by
  unfold execAdd
  try dsimp only
  repeat' first
    | (with_reducible first
        | assumption | exact ansFrame_fault | apply ansFrame_next | apply State.microOp_frame)
    | exact Mask.trans (by rfl) hM
    | split
    | with_reducible intro _

theorem execSub_frame {cell : CellId} {u : MuFields} {s : State} (hS : State.Frame M r s) (hM : 0x4000000000000000000000000000000000000200000 ||| M = M) :
    AnsFrame M r (execSub cell u s) := by
  unfold execSub
  try dsimp only
  repeat' first
    | (with_reducible first
        | assumption | exact ansFrame_fault | apply ansFrame_next | apply State.microOp_frame)
    | exact Mask.trans (by rfl) hM
    | split
    | with_reducible intro _

theorem execMul_frame {cell : CellId} {u : MuFields} {s : State} (hS : State.Frame M r s) (hM : 0x4000000000000000000000000000000000000200000 ||| M = M) :
    AnsFrame M r (execMul cell u s) := by
  unfold execMul
  try dsimp only
  repeat' first
    | (with_reducible first
        | assumption | exact ansFrame_fault | apply ansFrame_next | apply State.microOp_frame)
    | exact Mask.trans (by rfl) hM
    | split
    | with_reducible intro _

theorem execMulh_frame {cell : CellId} {u : MuFields} {s : State} (hS : State.Frame M r s) (hM : 0x4000000000000000000000000000000000000200000 ||| M = M) :
    AnsFrame M r (execMulh cell u s) := by
  unfold execMulh
  try dsimp only
  repeat' first
    | (with_reducible first
        | assumption | exact ansFrame_fault | apply ansFrame_next | apply State.microOp_frame)
    | exact Mask.trans (by rfl) hM
    | split
    | with_reducible intro _

theorem execMulhu_frame {cell : CellId} {u : MuFields} {s : State} (hS : State.Frame M r s) (hM : 0x4000000000000000000000000000000000000200000 ||| M = M) :
    AnsFrame M r (execMulhu cell u s) := by
  unfold execMulhu
  try dsimp only
  repeat' first
    | (with_reducible first
        | assumption | exact ansFrame_fault | apply ansFrame_next | apply State.microOp_frame)
    | exact Mask.trans (by rfl) hM
    | split
    | with_reducible intro _

theorem execShl_frame {cell : CellId} {u : MuFields} {s : State} (hS : State.Frame M r s) (hM : 0x4000000000000000000000000000000000000200000 ||| M = M) :
    AnsFrame M r (execShl cell u s) := by
  unfold execShl
  try dsimp only
  repeat' first
    | (with_reducible first
        | assumption | exact ansFrame_fault | apply ansFrame_next | apply State.microOp_frame)
    | exact Mask.trans (by rfl) hM
    | split
    | with_reducible intro _

theorem execShr_frame {cell : CellId} {u : MuFields} {s : State} (hS : State.Frame M r s) (hM : 0x4000000000000000000000000000000000000200000 ||| M = M) :
    AnsFrame M r (execShr cell u s) := by
  unfold execShr
  try dsimp only
  repeat' first
    | (with_reducible first
        | assumption | exact ansFrame_fault | apply ansFrame_next | apply State.microOp_frame)
    | exact Mask.trans (by rfl) hM
    | split
    | with_reducible intro _

theorem execSra_frame {cell : CellId} {u : MuFields} {s : State} (hS : State.Frame M r s) (hM : 0x4000000000000000000000000000000000000200000 ||| M = M) :
    AnsFrame M r (execSra cell u s) := by
  unfold execSra
  try dsimp only
  repeat' first
    | (with_reducible first
        | assumption | exact ansFrame_fault | apply ansFrame_next | apply State.microOp_frame)
    | exact Mask.trans (by rfl) hM
    | split
    | with_reducible intro _

theorem execMin_frame {cell : CellId} {u : MuFields} {s : State} (hS : State.Frame M r s) (hM : 0x4000000000000000000000000000000000000200000 ||| M = M) :
    AnsFrame M r (execMin cell u s) := by
  unfold execMin
  try dsimp only
  repeat' first
    | (with_reducible first
        | assumption | exact ansFrame_fault | apply ansFrame_next | apply State.microOp_frame)
    | exact Mask.trans (by rfl) hM
    | split
    | with_reducible intro _

theorem execMax_frame {cell : CellId} {u : MuFields} {s : State} (hS : State.Frame M r s) (hM : 0x4000000000000000000000000000000000000200000 ||| M = M) :
    AnsFrame M r (execMax cell u s) := by
  unfold execMax
  try dsimp only
  repeat' first
    | (with_reducible first
        | assumption | exact ansFrame_fault | apply ansFrame_next | apply State.microOp_frame)
    | exact Mask.trans (by rfl) hM
    | split
    | with_reducible intro _

theorem execAbs_frame {cell : CellId} {u : MuFields} {s : State} (hS : State.Frame M r s) (hM : 0x4000000000000000000000000000000000000200000 ||| M = M) :
    AnsFrame M r (execAbs cell u s) := by
  unfold execAbs
  try dsimp only
  repeat' first
    | (with_reducible first
        | assumption | exact ansFrame_fault | apply ansFrame_next | apply State.microOp_frame)
    | exact Mask.trans (by rfl) hM
    | split
    | with_reducible intro _

theorem execCmpeq_frame {cell : CellId} {u : MuFields} {s : State} (hS : State.Frame M r s) (hM : 0x4000000000000000000000000000000000000200000 ||| M = M) :
    AnsFrame M r (execCmpeq cell u s) := by
  unfold execCmpeq
  try dsimp only
  repeat' first
    | (with_reducible first
        | assumption | exact ansFrame_fault | apply ansFrame_next | apply State.microOp_frame)
    | exact Mask.trans (by rfl) hM
    | split
    | with_reducible intro _

theorem execCmplt_frame {cell : CellId} {u : MuFields} {s : State} (hS : State.Frame M r s) (hM : 0x4000000000000000000000000000000000000200000 ||| M = M) :
    AnsFrame M r (execCmplt cell u s) := by
  unfold execCmplt
  try dsimp only
  repeat' first
    | (with_reducible first
        | assumption | exact ansFrame_fault | apply ansFrame_next | apply State.microOp_frame)
    | exact Mask.trans (by rfl) hM
    | split
    | with_reducible intro _

theorem execCmpltu_frame {cell : CellId} {u : MuFields} {s : State} (hS : State.Frame M r s) (hM : 0x4000000000000000000000000000000000000200000 ||| M = M) :
    AnsFrame M r (execCmpltu cell u s) := by
  unfold execCmpltu
  try dsimp only
  repeat' first
    | (with_reducible first
        | assumption | exact ansFrame_fault | apply ansFrame_next | apply State.microOp_frame)
    | exact Mask.trans (by rfl) hM
    | split
    | with_reducible intro _

theorem execCmple_frame {cell : CellId} {u : MuFields} {s : State} (hS : State.Frame M r s) (hM : 0x4000000000000000000000000000000000000200000 ||| M = M) :
    AnsFrame M r (execCmple cell u s) := by
  unfold execCmple
  try dsimp only
  repeat' first
    | (with_reducible first
        | assumption | exact ansFrame_fault | apply ansFrame_next | apply State.microOp_frame)
    | exact Mask.trans (by rfl) hM
    | split
    | with_reducible intro _

theorem execSel_frame {cell : CellId} {u : MuFields} {s : State} (hS : State.Frame M r s) (hM : 0x4000000000000000000000000000000000000200000 ||| M = M) :
    AnsFrame M r (execSel cell u s) := by
  unfold execSel
  try dsimp only
  repeat' first
    | (with_reducible first
        | assumption | exact ansFrame_fault | apply ansFrame_next | apply State.microOp_frame)
    | exact Mask.trans (by rfl) hM
    | split
    | with_reducible intro _

theorem execClamp_frame {cell : CellId} {u : MuFields} {s : State} (hS : State.Frame M r s) (hM : 0x4000000000000000000000000000000000000200000 ||| M = M) :
    AnsFrame M r (execClamp cell u s) := by
  unfold execClamp
  try dsimp only
  repeat' first
    | (with_reducible first
        | assumption | exact ansFrame_fault | apply ansFrame_next | apply State.microOp_frame)
    | exact Mask.trans (by rfl) hM
    | split
    | with_reducible intro _

theorem execReq_frame {cell : CellId} {u : MuFields} {s : State} (hS : State.Frame M r s) (hM : 0x4000000000000000000000000000000000000200000 ||| M = M) :
    AnsFrame M r (execReq cell u s) := by
  unfold execReq
  try dsimp only
  repeat' first
    | (with_reducible first
        | assumption | exact ansFrame_fault | apply ansFrame_next | apply State.microOp_frame)
    | exact Mask.trans (by rfl) hM
    | split
    | with_reducible intro _

theorem execLut_frame {cell : CellId} {u : MuFields} {s : State} (hS : State.Frame M r s) (hM : 0x4000000000000000000000000000000000000200000 ||| M = M) :
    AnsFrame M r (execLut cell u s) := by
  unfold execLut
  try dsimp only
  repeat' first
    | (with_reducible first
        | assumption | exact ansFrame_fault | apply ansFrame_next | apply State.microOp_frame)
    | exact Mask.trans (by rfl) hM
    | split
    | with_reducible intro _

theorem execRcp_frame {cell : CellId} {u : MuFields} {s : State} (hS : State.Frame M r s) (hM : 0x4000000000000000000000000000000000000200000 ||| M = M) :
    AnsFrame M r (execRcp cell u s) := by
  unfold execRcp
  try dsimp only
  repeat' first
    | (with_reducible first
        | assumption | exact ansFrame_fault | apply ansFrame_next | apply State.microOp_frame)
    | exact Mask.trans (by rfl) hM
    | split
    | with_reducible intro _

theorem execExp2_frame {cell : CellId} {u : MuFields} {s : State} (hS : State.Frame M r s) (hM : 0x4000000000000000000000000000000000000200000 ||| M = M) :
    AnsFrame M r (execExp2 cell u s) := by
  unfold execExp2
  try dsimp only
  repeat' first
    | (with_reducible first
        | assumption | exact ansFrame_fault | apply ansFrame_next | apply State.microOp_frame)
    | exact Mask.trans (by rfl) hM
    | split
    | with_reducible intro _

theorem execPerm_frame {cell : CellId} {u : MuFields} {s : State} (hS : State.Frame M r s) (hM : 0x4000000000000000000000000000000000000200000 ||| M = M) :
    AnsFrame M r (execPerm cell u s) := by
  unfold execPerm
  try dsimp only
  repeat' first
    | (with_reducible first
        | assumption | exact ansFrame_fault | apply ansFrame_next | apply State.microOp_frame)
    | exact Mask.trans (by rfl) hM
    | split
    | with_reducible intro _

theorem execAdd192_frame {cell : CellId} {u : MuFields} {s : State} (hS : State.Frame M r s) (hM : 0x4000000000000000000000000000000000000200000 ||| M = M) :
    AnsFrame M r (execAdd192 cell u s) := by
  unfold execAdd192
  try dsimp only
  repeat' first
    | (with_reducible first
        | assumption | exact ansFrame_fault | apply ansFrame_next | apply State.microOp_frame)
    | exact Mask.trans (by rfl) hM
    | split
    | with_reducible intro _

theorem execMovi_frame {cell : CellId} {u : MuFields} {s : State} (hS : State.Frame M r s) (hM : 0x4000000000000000000000000000000000000200000 ||| M = M) :
    AnsFrame M r (execMovi cell u s) := by
  unfold execMovi
  try dsimp only
  repeat' first
    | (with_reducible first
        | assumption | exact ansFrame_fault | apply ansFrame_next | apply State.microOp_frame)
    | exact Mask.trans (by rfl) hM
    | split
    | with_reducible intro _

/-! ### Machine/Tint.lean -/

theorem State.leaveEngines_frame {s : State} {c : Nat} {ts : List TintTile} (hS : State.Frame M r s) (hM : 0x4000000000000000000000000000000000000000000 ||| M = M) :
    State.Frame M r (State.leaveEngines s c ts) := by
  unfold State.leaveEngines
  try dsimp only
  repeat' first
    | (with_reducible first
        | assumption)
    | exact Mask.trans (by rfl) hM
    | split
    | with_reducible apply State.Frame.foldl
    | with_reducible apply State.Frame.foldl_fst
    | (fail_if_no_progress
        with_reducible refine State.Frame.rest ?_ ?hp
        case hp => intro p hp; cases p <;> first | exact Mask.clash hM hp rfl | with_reducible exact rfl)
    | with_reducible intro _

theorem State.tintPlate_frame {s : State} {c : Nat} (hS : State.Frame M r s) (hM : 0x47ec2000000000000000000000044001c0000610000 ||| M = M) :
    State.Frame M r (State.tintPlate s c) := by
  unfold State.tintPlate
  try dsimp only
  repeat' first
    | (with_reducible first
        | assumption | apply State.noteRead_frame | apply State.plateWorked_frame | apply State.bump_frame | apply State.noteArray_frame
        | apply State.metaFaults_frame | apply State.raiseFlags_frame | apply State.leaveEngines_frame | apply State.storeArray_frame
        | (refine State.storeArray_frame_eq (he := by assumption) ?_ ?_))
    | exact Mask.trans (by rfl) hM
    | split
    | with_reducible apply State.Frame.foldl
    | with_reducible apply State.Frame.foldl_fst
    | with_reducible intro _

theorem execTint_frame {slot : Nat} {hw : List HwEvent} {s : State} (hS : State.Frame M r s) (hM : 0x4bffee2dc000a8003000001000027443e1c000069010e ||| M = M) :
    AnsFrame M r (execTint slot hw s) := by
  unfold execTint
  try dsimp only
  repeat' first
    | (with_reducible first
        | assumption | exact ansFrame_fault | apply ansFrame_next | apply State.plateDo_frame | apply State.tintPlate_frame)
    | exact Mask.trans (by rfl) hM
    | split
    | with_reducible intro _

end Sys2Proof.Machine
end

