-- ==== Sys2Proof/Laws/Sound.lean ====
section
/-! SUPPORT. The predicate that every operation keeps: the queue stands as it was and the state is in canonical form; the
ways in which a state is built, each with the lemma that it keeps the predicate. -/

set_option Elab.async false

namespace Sys2Proof.Machine

theorem keysRising_iff {α : Type} {l : List (Nat × α)} : keysRising l = true ↔ keysRise l := by
  induction l with
  | nil => simp [keysRising, keysRise]
  | cons a t ih =>
    cases t with
    | nil => simp [keysRising, keysRise]
    | cons b t => simp [keysRising, keysRise, ih]

theorem linesDistinct_iff {l : List MbEntry} : linesDistinct l = true ↔ (l.map MbEntry.line).Nodup := by
  induction l with
  | nil => simp [linesDistinct]
  | cons e t ih =>
    simp only [linesDistinct, Bool.and_eq_true, List.all_eq_true, bne_iff_ne, ih, List.map_cons, List.nodup_cons, List.mem_map,
      not_exists, not_and]

theorem mbFine_iff {l : List MbEntry} : mbFine l = true ↔ (∀ e ∈ l, mbEntryOk e = true) ∧ (l.map MbEntry.line).Nodup := by
  simp only [mbFine, Bool.and_eq_true, List.all_eq_true, linesDistinct_iff]

theorem mbFine_nil : mbFine [] = true := rfl

theorem mbFine_filter {l : List MbEntry} (p : MbEntry → Bool) (h : mbFine l = true) : mbFine (l.filter p) = true := by
  rw [mbFine_iff] at h ⊢
  exact ⟨fun e he => h.1 e (List.mem_of_mem_filter he), h.2.sublist ((List.filter_sublist (l := l)).map _)⟩

/-- The pieces of a write put into an entry keep it well-formed. -/
theorem mbEntryOk_puts {bs : List (Nat × Byte)} (hb : ∀ b ∈ bs, b.1 < 64) {e : MbEntry} (h : mbEntryOk e = true) :
    mbEntryOk { e with bytes := bs.foldl (fun acc ob => kvPut acc ob.1 ob.2) e.bytes } = true := by
  simp only [mbEntryOk, Bool.and_eq_true, keysRising_iff, List.all_eq_true, decide_eq_true_eq, and_assoc] at h ⊢
  refine ⟨h.1, ?_⟩
  replace h := h.2
  generalize e.bytes = l at h
  induction bs generalizing l with
  | nil => exact h
  | cons b t ih =>
    refine ih (fun x hx => hb x (List.mem_cons_of_mem _ hx)) _ ⟨keysRise_kvPut h.1, fun x hx => ?_⟩
    rcases mem_kvPut hx with hx | hx
    · subst hx; exact hb b (List.mem_cons_self ..)
    · exact h.2 x hx

/-- An entry keeps its form when some of its bytes go. -/
theorem mbEntryOk_drop (p : Nat × Byte → Bool) {e : MbEntry} (h : mbEntryOk e = true) : mbEntryOk { e with bytes := e.bytes.filter p } = true := by
  simp only [mbEntryOk, Bool.and_eq_true, keysRising_iff, List.all_eq_true, decide_eq_true_eq, and_assoc] at h ⊢
  exact ⟨h.1, keysRise_filter _ h.2.1, fun x hx => h.2.2 x (List.mem_of_mem_filter hx)⟩

/-- The buffers keep their form when each entry keeps its line and its own form. -/
theorem mbFine_mapLine {l : List MbEntry} {f : MbEntry → MbEntry} (h : mbFine l = true) (hf : ∀ e, (f e).line = e.line)
    (hok : ∀ e, mbEntryOk e = true → mbEntryOk (f e) = true) : mbFine (l.map f) = true := by
  rw [mbFine_iff] at h ⊢
  refine ⟨fun x hx => ?_, ?_⟩
  · obtain ⟨y, hy, rfl⟩ := List.mem_map.1 hx
    exact hok y (h.1 y hy)
  · rw [List.map_map, show MbEntry.line ∘ f = MbEntry.line from funext hf]
    exact h.2

theorem mbFine_map {l : List MbEntry} {line : Nat} {e : MbEntry} (h : mbFine l = true) (he : mbEntryOk e = true)
    (hl : e.line = line) : mbFine (l.map fun x => if x.line == line then e else x) = true := by
  rw [mbFine_iff] at h ⊢
  refine ⟨fun x hx => ?_, ?_⟩
  · obtain ⟨y, hy, rfl⟩ := List.mem_map.1 hx
    split
    · exact he
    · exact h.1 y hy
  · rw [List.map_map]
    convert h.2 using 2
    funext x
    simp only [Function.comp]
    split
    · rename_i hx; rw [hl]; exact (beq_iff_eq.1 hx).symm
    · rfl

theorem mbFine_append {l : List MbEntry} {e : MbEntry} (h : mbFine l = true) (he : mbEntryOk e = true)
    (hn : ∀ x ∈ l, x.line ≠ e.line) : mbFine (l ++ [e]) = true := by
  rw [mbFine_iff] at h ⊢
  refine ⟨fun x hx => ?_, ?_⟩
  · rcases List.mem_append.1 hx with hx | hx
    · exact h.1 x hx
    · simp at hx; subst hx; exact he
  · rw [List.map_append, List.nodup_append]
    refine ⟨h.2, by simp, fun a ha b hb => ?_⟩
    obtain ⟨x, hx, rfl⟩ := List.mem_map.1 ha
    simp at hb; subst hb; exact hn x hx

/-- The bytes of a piece lie in its line. -/
theorem linePieces_lt {l : Nat} {bs : Bytes} : ∀ p ∈ linePieces l bs, ∀ b ∈ p.2, b.1 < 64 := by
  induction bs generalizing l with
  | nil => intro p hp; simp [linePieces] at hp
  | cons b t ih =>
    have hl : l % 64 < 64 := Nat.mod_lt _ (by decide)
    have := @ih (l + 1)
    intro p hp x hx
    unfold linePieces at hp
    split at hp
    · rename_i k ps r he
      rw [he] at this
      split at hp
      · rcases List.mem_cons.1 hp with rfl | hp
        · rcases List.mem_cons.1 hx with rfl | hx
          · exact hl
          · exact this (k, ps) (List.mem_cons_self ..) x hx
        · exact this p (List.mem_cons_of_mem _ hp) x hx
      · rcases List.mem_cons.1 hp with rfl | hp
        · simp at hx; subst hx; exact hl
        · exact this p hp x hx
    · simp at hp; subst hp; simp at hx; subst hx; exact hl

/-- The queue holds `q`, and the state is in canonical form. -/
structure State.Sound (q : List Instr) (s : State) : Prop where
  queue : s.pending = q
  mem : Memory.wf s.mem = true
  hostMem : Memory.wf s.hostMem = true
  buf : Memory.wf s.sec.buf = true
  rise : keysRise s.regs
  listed : ∀ e ∈ s.regs, regListed e = true
  slots : s.chases.length = 16
  mb : mbFine s.mb = true

theorem State.sound_iff {q : List Instr} {s : State} : s.Sound q ↔ s.pending = q ∧ s.canonical = true := by
  constructor
  · intro h
    refine ⟨h.queue, ?_⟩
    simp only [State.canonical, Bool.and_eq_true, List.all_eq_true, beq_iff_eq]
    exact ⟨⟨⟨⟨⟨⟨h.mem, h.hostMem⟩, h.buf⟩, keysRising_iff.2 h.rise⟩, h.listed⟩, h.slots⟩, h.mb⟩
  · rintro ⟨hq, h⟩
    simp only [State.canonical, Bool.and_eq_true, List.all_eq_true, beq_iff_eq] at h
    obtain ⟨⟨⟨⟨⟨⟨h1, h2⟩, h3⟩, h4⟩, h5⟩, h6⟩, h7⟩ := h
    exact ⟨hq, h1, h2, h3, keysRising_iff.1 h4, h5, h6, h7⟩

variable {q : List Instr}

/-- A state that differs from a sound one only in what the predicate does not speak of is sound. -/
theorem State.Sound.same {s t : State} (h : s.Sound q) (h1 : t.pending = s.pending) (h2 : t.mem = s.mem)
    (h3 : t.hostMem = s.hostMem) (h4 : t.sec.buf = s.sec.buf) (h5 : t.regs = s.regs) (h6 : t.chases = s.chases)
    (h7 : t.mb = s.mb) : t.Sound q :=
  ⟨h1 ▸ h.queue, h2 ▸ h.mem, h3 ▸ h.hostMem, h4 ▸ h.buf, h5 ▸ h.rise, h5 ▸ h.listed, h6 ▸ h.slots, h7 ▸ h.mb⟩

/-- A state built from a sound one that changes only what the predicate does not speak of is sound. -/
theorem State.Sound.rest {s : State} {freeIdx : Nat} {upNs : Nat} {pw : PowerSt} {msix : List (Nat × Word)}
    {msixPend : List Nat} {out : List Out} {host : HostSt} {poison : List Nat} {rcTags : List (Nat × List (Nat × Nat))}
    {hbm : HbmSt} {samples : List (Nat × SampleSt)} {groups : List (Nat × AccGroup)} {openWaits : List OpenWait} {engines : List (Nat × VecEngine)}
    {stipple : List (Nat × StippleSt)} {marks : List (Nat × MarkRt)} {fab : FabSt} {eth : EthSt} {ink : InkSt}
    {time : TimeSt} {sec : SecSt} {ras : RasSt}
    (h : s.Sound q) (hb : sec.buf = s.sec.buf) : State.Sound q (State.mk s.pending freeIdx upNs pw s.regs msix msixPend out host s.hostMem s.mem poison s.mb rcTags hbm s.chases samples groups openWaits engines stipple marks fab eth ink time sec ras) :=
  ⟨h.queue, h.mem, h.hostMem, hb ▸ h.buf, h.rise, h.listed, h.slots, h.mb⟩

/-- A state built from a sound one with a canonical memory is sound. -/
theorem State.Sound.restMem {s : State} {freeIdx : Nat} {upNs : Nat} {pw : PowerSt} {msix : List (Nat × Word)}
    {msixPend : List Nat} {out : List Out} {host : HostSt} {poison : List Nat} {rcTags : List (Nat × List (Nat × Nat))}
    {hbm : HbmSt} {samples : List (Nat × SampleSt)} {groups : List (Nat × AccGroup)} {openWaits : List OpenWait} {engines : List (Nat × VecEngine)}
    {stipple : List (Nat × StippleSt)} {marks : List (Nat × MarkRt)} {fab : FabSt} {eth : EthSt} {ink : InkSt}
    {time : TimeSt} {sec : SecSt} {ras : RasSt}
    (h : s.Sound q) {m : List Host.Cell} (hm : Memory.wf m = true) (hb : sec.buf = s.sec.buf) : State.Sound q (State.mk s.pending freeIdx upNs pw s.regs msix msixPend out host s.hostMem m poison s.mb rcTags hbm s.chases samples groups openWaits engines stipple marks fab eth ink time sec ras) :=
  ⟨h.queue, hm, h.hostMem, hb ▸ h.buf, h.rise, h.listed, h.slots, h.mb⟩

/-- A state built from a sound one with a canonical memory and well-formed merging buffers is sound. -/
theorem State.Sound.restMemMb {s : State} {freeIdx : Nat} {upNs : Nat} {pw : PowerSt} {msix : List (Nat × Word)}
    {msixPend : List Nat} {out : List Out} {host : HostSt} {poison : List Nat} {mb : List MbEntry} {rcTags : List (Nat × List (Nat × Nat))}
    {hbm : HbmSt} {samples : List (Nat × SampleSt)} {groups : List (Nat × AccGroup)} {openWaits : List OpenWait} {engines : List (Nat × VecEngine)}
    {stipple : List (Nat × StippleSt)} {marks : List (Nat × MarkRt)} {fab : FabSt} {eth : EthSt} {ink : InkSt}
    {time : TimeSt} {sec : SecSt} {ras : RasSt}
    (h : s.Sound q) {m : List Host.Cell} (hm : Memory.wf m = true) (hf : mbFine mb = true) (hb : sec.buf = s.sec.buf) : State.Sound q (State.mk s.pending freeIdx upNs pw s.regs msix msixPend out host s.hostMem m poison mb rcTags hbm s.chases samples groups openWaits engines stipple marks fab eth ink time sec ras) :=
  ⟨h.queue, hm, h.hostMem, hb ▸ h.buf, h.rise, h.listed, h.slots, hf⟩

theorem State.Sound.withMb {s : State} (h : s.Sound q) {l : List MbEntry} (hl : mbFine l = true) : State.Sound q { s with mb := l } :=
  ⟨h.queue, h.mem, h.hostMem, h.buf, h.rise, h.listed, h.slots, hl⟩

theorem State.Sound.foldl_mem {α : Type} {f : State → α → State} {l : List α} {s : State}
    (hf : ∀ s, ∀ a ∈ l, s.Sound q → (f s a).Sound q) (h : s.Sound q) : (l.foldl f s).Sound q := by
  induction l generalizing s with
  | nil => exact h
  | cons a l ih =>
    exact ih (fun s b hb => hf s b (List.mem_cons_of_mem _ hb)) (hf s a (List.mem_cons_self ..) h)

theorem State.Sound.withMem {s : State} (h : s.Sound q) {m : List Host.Cell} (hm : Memory.wf m = true) :
    State.Sound q { s with mem := m } :=
  ⟨h.queue, hm, h.hostMem, h.buf, h.rise, h.listed, h.slots, h.mb⟩

theorem State.Sound.withHostMem {s : State} (h : s.Sound q) {m : List Host.Cell} (hm : Memory.wf m = true) :
    State.Sound q { s with hostMem := m } :=
  ⟨h.queue, h.mem, hm, h.buf, h.rise, h.listed, h.slots, h.mb⟩

theorem State.Sound.filterRegs {s : State} (h : s.Sound q) (p : Nat × Word → Bool) :
    State.Sound q { s with regs := s.regs.filter p } :=
  ⟨h.queue, h.mem, h.hostMem, h.buf, keysRise_filter p h.rise, fun e he => h.listed e (List.mem_of_mem_filter he), h.slots, h.mb⟩

theorem State.Sound.withChases {s : State} (h : s.Sound q) {l : List ChaseSt} (hl : l.length = 16) :
    State.Sound q { s with chases := l } :=
  ⟨h.queue, h.mem, h.hostMem, h.buf, h.rise, h.listed, hl, h.mb⟩

theorem State.Sound.foldl {α : Type} {f : State → α → State} {l : List α} {s : State}
    (hf : ∀ s a, s.Sound q → (f s a).Sound q) (h : s.Sound q) : (l.foldl f s).Sound q := by
  induction l generalizing s with
  | nil => exact h
  | cons a l ih => exact ih (hf s a h)

theorem State.Sound.foldl_fst {α β : Type} {f : State × β → α → State × β} {l : List α} {p : State × β}
    (hf : ∀ p a, State.Sound q p.1 → (f p a).1.Sound q) (h : p.1.Sound q) : (l.foldl f p).1.Sound q := by
  induction l generalizing p with
  | nil => exact h
  | cons a l ih => exact ih (hf p a h)

theorem State.decideEach_sound {α : Type} {f : State → α → State × Bool} {p : State × Bool} {l : List α}
    (hf : ∀ s a, s.Sound q → (f s a).1.Sound q) (h : p.1.Sound q) : (State.decideEach f p l).1.Sound q := by
  induction l generalizing p with
  | nil => exact h
  | cons a l ih =>
    obtain ⟨s, _ | _⟩ := p
    · exact h
    · exact ih (hf s a h)

theorem pinEach_sound {α : Type} {f : Bool → State → α → State × Bool} {p : State × Bool} {l : List α}
    (hf : ∀ b s a, s.Sound q → (f b s a).1.Sound q) (h : p.1.Sound q) : (pinEach f p l).1.Sound q :=
  State.Sound.foldl_fst (fun p a hp => hf p.2 p.1 a hp) h

/-- Storing a register word keeps the predicate. -/
theorem State.wr_sound {s : State} (h : s.Sound q) (r : RegName) (i v : Nat) : (s.wr r i v).Sound q := by
  unfold State.wr
  split
  · rename_i hi
    refine ⟨h.queue, h.mem, h.hostMem, h.buf, keysRise_kvSet h.rise, fun e he => ?_, h.slots, h.mb⟩
    simp only [kvSet] at he
    split at he
    · exact h.listed e (mem_kvDel he)
    · rcases mem_kvPut he with he | he
      · subst he
        simpa [regListed, findReg_addr hi] using ‹_›
      · exact h.listed e he
  · exact h

theorem State.wr_keepsMb (s : State) (r : RegName) (i v : Nat) : (s.wr r i v).mb = s.mb := by unfold State.wr; split <;> rfl

/-- A meaning answers sound states only. -/
def AnsSound (q : List Instr) (a : Ans) : Prop := ∀ t, a = .next t → t.Sound q

theorem ansSound_next {s : State} (h : s.Sound q) : AnsSound q (.next s) := by
  intro t ht; cases ht; exact h

theorem ansSound_fault {r : Fault} : AnsSound q (.fault r) := by
  intro t ht; cases ht

theorem ansSound_refused {r : Refusal} : AnsSound q (.refused r) := by
  intro t ht; cases ht

end Sys2Proof.Machine
end

