-- ==== Sys2Proof/Laws/SoundCore.lean ====
section
/-! SUPPORT. The operations of the register, memory, mark and event operations keep the queue and the canonical form: one lemma per operation. -/

set_option Elab.async false

namespace Sys2Proof.Machine

set_option linter.unusedTactic false
set_option linter.unreachableTactic false

variable {Q : List Instr}

/-! ### Machine/Ops.lean -/

theorem State.setF_sound {s : State} {f : Field} {i : Nat} {v : Nat} (hS : s.Sound Q) :
    (State.setF s f i v).Sound Q := by
  unfold State.setF
  try dsimp only
  repeat' first
    | (with_reducible first
        | assumption | apply State.wr_sound)
    | split
    | with_reducible intro _

theorem State.bump_sound {s : State} {f : Field} {i : Nat} {n : Nat} (hS : s.Sound Q) :
    (State.bump s f i n).Sound Q := by
  unfold State.bump
  try dsimp only
  repeat' first
    | (with_reducible first
        | assumption | apply State.setF_sound)
    | split
    | with_reducible intro _

theorem State.bumpWrap_sound {s : State} {f : Field} {i : Nat} {n : Nat} (hS : s.Sound Q) :
    (State.bumpWrap s f i n).Sound Q := by
  unfold State.bumpWrap
  try dsimp only
  repeat' first
    | (with_reducible first
        | assumption | apply State.setF_sound)
    | split
    | with_reducible intro _

theorem State.raiseTo_sound {s : State} {f : Field} {i : Nat} {v : Nat} (hS : s.Sound Q) :
    (State.raiseTo s f i v).Sound Q := by
  unfold State.raiseTo
  try dsimp only
  repeat' first
    | (with_reducible first
        | assumption | apply State.setF_sound)
    | split
    | with_reducible intro _

theorem State.setFs_sound {s : State} {i : Nat} {x0 : List (Field × Nat)} (hS : s.Sound Q) :
    (State.setFs s i x0).Sound Q := by
  induction x0 generalizing s with
  | nil => exact hS
  | cons a l ih => exact ih (State.setF_sound hS)

theorem State.resetRegs_sound {s : State} {d : Domain} (hS : s.Sound Q) :
    (State.resetRegs s d).Sound Q := by
  exact hS.filterRegs _

theorem State.resetSlotRegs_sound {s : State} {c : Nat} (hS : s.Sound Q) :
    (State.resetSlotRegs s c).Sound Q := by
  exact hS.filterRegs _

theorem State.fresh_sound {s : State} (hS : s.Sound Q) :
    (State.fresh s).2.Sound Q := by
  unfold State.fresh
  try dsimp only
  repeat' first
    | (with_reducible first
        | assumption)
    | split | fail_if_no_progress with_reducible refine State.Sound.rest ?_ rfl
    | with_reducible intro _

theorem State.fresh_sound_eq {s : State} (hS : s.Sound Q) {u : State} {z : Nat} (he : State.fresh s = (z, u)) :
    u.Sound Q := by
  have := State.fresh_sound hS (s := s)
  rwa [he] at this

theorem State.freshBytes_sound {s : State} {n : Nat} (hS : s.Sound Q) :
    (State.freshBytes s n).2.Sound Q := by
  unfold State.freshBytes
  try dsimp only
  repeat' first
    | (with_reducible first
        | assumption)
    | split | fail_if_no_progress with_reducible refine State.Sound.rest ?_ rfl
    | with_reducible intro _

theorem State.freshBytes_sound_eq {s : State} {n : Nat} (hS : s.Sound Q) {u : State} {z : Bytes} (he : State.freshBytes s n = (z, u)) :
    u.Sound Q := by
  have := State.freshBytes_sound hS (s := s) (n := n)
  rwa [he] at this

theorem State.ifB_sound {s : State} {b : Bool} {f : State → State} (hS : s.Sound Q) (hSf : ∀ (y0 : State), y0.Sound Q → (f y0).Sound Q) :
    (State.ifB s b f).Sound Q := by
  unfold State.ifB
  try dsimp only
  repeat' first
    | (with_reducible first
        | assumption | apply hSf)
    | split
    | with_reducible intro _

theorem State.emit_sound {s : State} {o : Out} (hS : s.Sound Q) :
    (State.emit s o).Sound Q := by
  unfold State.emit
  try dsimp only
  repeat' first
    | (with_reducible first
        | assumption)
    | split | fail_if_no_progress with_reducible refine State.Sound.rest ?_ rfl
    | with_reducible intro _

theorem State.msix1_sound {s : State} {v : Nat} (hS : s.Sound Q) :
    (State.msix1 s v).Sound Q := by
  unfold State.msix1
  try dsimp only
  repeat' first
    | (with_reducible first
        | assumption | apply State.emit_sound)
    | split | fail_if_no_progress with_reducible refine State.Sound.rest ?_ rfl
    | with_reducible intro _

theorem State.event_sound {s : State} {f : Field} {vec : Field} (hS : s.Sound Q) :
    (State.event s f vec).Sound Q := by
  unfold State.event
  try dsimp only
  repeat' first
    | (with_reducible first
        | assumption | apply State.msix1_sound | apply State.setF_sound)
    | split
    | with_reducible intro _

theorem State.eventStale_sound {s : State} (hS : s.Sound Q) :
    (State.eventStale s).Sound Q := by
  unfold State.eventStale
  try dsimp only
  repeat' first
    | (with_reducible first
        | assumption | apply State.event_sound)
    | split
    | with_reducible intro _

theorem State.eventDeadlock_sound {s : State} (hS : s.Sound Q) :
    (State.eventDeadlock s).Sound Q := by
  unfold State.eventDeadlock
  try dsimp only
  repeat' first
    | (with_reducible first
        | assumption | apply State.event_sound)
    | split
    | with_reducible intro _

theorem State.eventFault_sound {s : State} (hS : s.Sound Q) :
    (State.eventFault s).Sound Q := by
  unfold State.eventFault
  try dsimp only
  repeat' first
    | (with_reducible first
        | assumption | apply State.event_sound)
    | split
    | with_reducible intro _

theorem State.eventDma_sound {s : State} (hS : s.Sound Q) :
    (State.eventDma s).Sound Q := by
  unfold State.eventDma
  try dsimp only
  repeat' first
    | (with_reducible first
        | assumption | apply State.event_sound)
    | split
    | with_reducible intro _

theorem State.eventRas_sound {s : State} (hS : s.Sound Q) :
    (State.eventRas s).Sound Q := by
  unfold State.eventRas
  try dsimp only
  repeat' first
    | (with_reducible first
        | assumption | apply State.event_sound)
    | split
    | with_reducible intro _

theorem State.setChase_sound {s : State} {c : Nat} {x : ChaseSt} (hS : s.Sound Q) :
    (State.setChase s c x).Sound Q := by
  exact hS.withChases (by rw [List.length_set]; exact hS.slots)

theorem State.updChase_sound {s : State} {c : Nat} {f : ChaseSt → ChaseSt} (hS : s.Sound Q) :
    (State.updChase s c f).Sound Q := by
  unfold State.updChase
  try dsimp only
  repeat' first
    | (with_reducible first
        | assumption | apply State.setChase_sound)
    | split
    | with_reducible intro _

theorem State.logRaw_sound {s : State} {e : ErrRec} (hS : s.Sound Q) :
    (State.logRaw s e).Sound Q := by
  unfold State.logRaw
  try dsimp only
  repeat' first
    | (with_reducible first
        | assumption | apply State.setF_sound | apply State.bump_sound | apply State.bumpWrap_sound)
    | split | with_reducible apply State.Sound.foldl | with_reducible apply State.Sound.foldl_fst
    | with_reducible intro _

theorem State.logErr_sound {s : State} {e : ErrRec} (hS : s.Sound Q) :
    (State.logErr s e).Sound Q := by
  unfold State.logErr
  try dsimp only
  repeat' first
    | (with_reducible first
        | assumption | apply State.logRaw_sound | apply State.bump_sound | apply State.setF_sound | apply State.eventRas_sound)
    | split
    | with_reducible intro _

theorem State.cacheRead_sound {s : State} {line : Nat} (hS : s.Sound Q) :
    (State.cacheRead s line).Sound Q := by
  unfold State.cacheRead
  try dsimp only
  repeat' first
    | (with_reducible first
        | assumption | apply State.bump_sound)
    | split | fail_if_no_progress with_reducible refine State.Sound.rest ?_ rfl
    | with_reducible intro _

theorem State.cacheTouch_sound {s : State} {line : Nat} (hS : s.Sound Q) :
    (State.cacheTouch s line).Sound Q := by
  unfold State.cacheTouch
  try dsimp only
  repeat' first
    | (with_reducible first
        | assumption)
    | split | fail_if_no_progress with_reducible refine State.Sound.rest ?_ rfl
    | with_reducible intro _

theorem State.mbToDram_sound {s : State} {e : MbEntry} (hS : s.Sound Q) :
    (State.mbToDram s e).Sound Q := by
  unfold State.mbToDram
  try dsimp only
  repeat' first
    | (with_reducible first
        | assumption)
    | split | with_reducible apply State.Sound.foldl | with_reducible apply State.Sound.foldl_fst | fail_if_no_progress with_reducible refine State.Sound.restMemMb ?_ ?_ ?_ rfl | apply wf_filter
    | with_reducible apply State.Sound.mem | apply mbFine_filter | exact mbFine_nil | with_reducible apply State.Sound.mb
    | with_reducible apply wf_foldl | apply wf_memPut | fail_if_no_progress with_reducible refine State.Sound.rest ?_ rfl
    | with_reducible intro _

theorem State.mbDrainOldest_sound {s : State} {region : Nat} (hS : s.Sound Q) :
    (State.mbDrainOldest s region).Sound Q := by
  unfold State.mbDrainOldest
  try dsimp only
  repeat' first
    | (with_reducible first
        | assumption | apply State.mbToDram_sound)
    | split
    | with_reducible intro _

theorem State.mbPeak_sound {s : State} {region : Nat} (hS : s.Sound Q) :
    (State.mbPeak s region).Sound Q := by
  unfold State.mbPeak
  try dsimp only
  repeat' first
    | (with_reducible first
        | assumption | apply State.raiseTo_sound)
    | split
    | with_reducible intro _

theorem State.mbWrite_sound {s : State} {line : Nat} {bs : List (Nat × Byte)} (hS : s.Sound Q) (hbs : ∀ b ∈ bs, b.1 < 64) :
    (State.mbWrite s line bs).Sound Q := by
  unfold State.mbWrite
  try dsimp only
  by_cases hline : hbmTop ≤ 64 * line
  · rw [if_pos hline]
    exact hS.restMem (wf_foldl _ _ (fun _ _ hm => wf_memPut _ _ hm) hS.mem) rfl
  have hlt : 64 * line < hbmTop := Nat.not_le.1 hline
  rw [if_neg hline]
  split
  · rename_i e he
    have hl : e.line = line := by simpa using List.find?_some he
    have h1 := mbFine_map hS.mb (mbEntryOk_puts hbs ((mbFine_iff.1 hS.mb).1 e (List.mem_of_find?_eq_some he))) hl
    split
    · exact State.mbToDram_sound (hS.withMb h1)
    · exact hS.withMb h1
  · rename_i he
    have hn : ∀ x ∈ s.mb, x.line ≠ line := by simpa [State.mbFind] using he
    have h1 : ∀ u : State, u.Sound Q → (∀ x ∈ u.mb, x ∈ s.mb) → ∀ n, (State.mbPeak { u with mb := u.mb ++ [⟨line, s.homeSlice (64 * line),
        bs.foldl (fun acc ob => kvPut acc ob.1 ob.2) [], n⟩] } (s.homeSlice (64 * line))).Sound Q := fun u hu hm n =>
      State.mbPeak_sound (hu.withMb (mbFine_append hu.mb (mbEntryOk_puts (e := ⟨line, s.homeSlice (64 * line), [], n⟩) hbs (by simpa [mbEntryOk, keysRising] using hlt))
        fun x hx => hn x (hm x hx)))
    by_cases hp : 256 ≤ (s.mbOf (s.homeSlice (64 * line))).length
    · rw [if_pos hp]
      have h2 := h1 _ (State.mbDrainOldest_sound (region := s.homeSlice (64 * line))
        (State.bump_sound (f := Fld.rcMbStalls) (i := s.physOf (s.homeSlice (64 * line))) (n := 1) hS)) (by
          intro x hx
          simp only [State.mbDrainOldest] at hx
          split at hx
          · simp [State.mbToDram, State.bump, State.setF, State.wr_keepsMb] at hx
            exact hx.1
          · simpa [State.bump, State.setF, State.wr_keepsMb] using hx) s.upNs
      split
      · exact State.mbToDram_sound h2
      · split
        · exact State.mbDrainOldest_sound h2
        · exact h2
    · rw [if_neg hp]
      have h2 := h1 s hS (fun _ hx => hx) s.upNs
      split
      · exact State.mbToDram_sound h2
      · split
        · exact State.mbDrainOldest_sound h2
        · exact h2

theorem State.sliceWrite_sound {s : State} {l : Nat} {bs : Bytes} (hS : s.Sound Q) :
    (State.sliceWrite s l bs).Sound Q := by
  unfold State.sliceWrite
  split
  · exact State.Sound.foldl_mem (fun u p hp hu => State.mbWrite_sound (State.cacheTouch_sound hu) (linePieces_lt p hp)) hS
  · exact hS.restMem (wf_memPutRun _ _ hS.mem) rfl

theorem State.rawWrite_sound {s : State} {l : Nat} {bs : Bytes} (hS : s.Sound Q) :
    (State.rawWrite s l bs).Sound Q := by
  unfold State.rawWrite
  try dsimp only
  repeat' first
    | (with_reducible first
        | assumption)
    | split | fail_if_no_progress with_reducible refine State.Sound.restMem ?_ ?_ rfl | apply wf_memPutRun
    | with_reducible apply wf_foldl | apply wf_memPut | apply wf_filter | with_reducible apply State.Sound.mem
    | fail_if_no_progress with_reducible refine State.Sound.rest ?_ rfl
    | with_reducible intro _

theorem State.poisonRun_sound {s : State} {l : Nat} {n : Nat} (hS : s.Sound Q) :
    (State.poisonRun s l n).Sound Q := by
  unfold State.poisonRun
  try dsimp only
  repeat' first
    | (with_reducible first
        | assumption)
    | split | with_reducible apply State.Sound.foldl | with_reducible apply State.Sound.foldl_fst | fail_if_no_progress with_reducible refine State.Sound.rest ?_ rfl
    | with_reducible intro _

theorem State.slicePoison_sound {s : State} {q : Nat} (hS : s.Sound Q) :
    (State.slicePoison s q).Sound Q := by
  unfold State.slicePoison
  refine hS.restMemMb hS.mem (mbFine_filter _ (mbFine_mapLine hS.mb (fun e => ?_) fun e he => ?_)) rfl
  · split <;> rfl
  · split
    · exact mbEntryOk_drop _ he
    · exact he

theorem State.bufferPass_sound {s : State} {line : Nat} (hS : s.Sound Q) :
    (State.bufferPass s line).Sound Q := by
  unfold State.bufferPass
  try dsimp only
  repeat' first
    | (with_reducible first
        | assumption | apply State.mbDrainOldest_sound | apply State.bump_sound | apply State.raiseTo_sound)
    | split | fail_if_no_progress with_reducible refine State.Sound.restMemMb ?_ ?_ ?_ rfl | apply wf_filter
    | with_reducible apply State.Sound.mem | apply mbFine_filter | exact mbFine_nil | with_reducible apply State.Sound.mb
    | with_reducible apply wf_foldl | apply wf_memPut | fail_if_no_progress with_reducible refine State.Sound.rest ?_ rfl
    | with_reducible intro _

theorem State.holdWrite_sound {s : State} {w : HeldWrite} (hS : s.Sound Q) :
    (State.holdWrite s w).Sound Q := by
  unfold State.holdWrite
  try dsimp only
  repeat' first
    | (with_reducible first
        | assumption | apply State.emit_sound)
    | split | fail_if_no_progress with_reducible refine State.Sound.rest ?_ rfl
    | with_reducible intro _

theorem State.devWrite_sound {s : State} {l : Nat} {bs : Bytes} (hS : s.Sound Q) :
    (State.devWrite s l bs).Sound Q := by
  unfold State.devWrite
  split
  · exact State.sliceWrite_sound hS
  · refine State.Sound.foldl_mem (fun u p hp hu => ?_) hS
    split
    · exact State.holdWrite_sound hu
    · exact State.mbWrite_sound (State.cacheTouch_sound hu) (linePieces_lt p hp)

theorem State.lineWrite_sound {s : State} {l : Nat} {bs : Bytes} (hS : s.Sound Q) :
    (State.lineWrite s l bs).Sound Q := by
  unfold State.lineWrite
  try dsimp only
  repeat' first
    | (with_reducible first
        | assumption | apply State.rawWrite_sound | apply State.holdWrite_sound | apply State.bufferPass_sound
        | apply State.cacheTouch_sound)
    | split
    | with_reducible intro _

theorem State.devPoison_sound {s : State} {l : Nat} {n : Nat} (hS : s.Sound Q) :
    (State.devPoison s l n).Sound Q := by
  unfold State.devPoison
  try dsimp only
  repeat' first
    | (with_reducible first
        | assumption | apply State.poisonRun_sound | apply State.holdWrite_sound | apply State.slicePoison_sound)
    | split | with_reducible apply State.Sound.foldl | with_reducible apply State.Sound.foldl_fst
    | with_reducible intro _

theorem State.landWrite_sound {s : State} {w : HeldWrite} (hS : s.Sound Q) :
    (State.landWrite s w).Sound Q := by
  unfold State.landWrite
  try dsimp only
  repeat' first
    | (with_reducible first
        | assumption | apply State.slicePoison_sound | apply State.sliceWrite_sound)
    | split | with_reducible apply State.Sound.foldl | with_reducible apply State.Sound.foldl_fst
    | with_reducible intro _

/-! ### Machine/Mem.lean -/

theorem State.takeUnit_sound {s : State} {c : Nat} {r_ : Nat} {layouts : List Nat} (hS : s.Sound Q) :
    (State.takeUnit s c r_ layouts).2.Sound Q := by
  unfold State.takeUnit
  try dsimp only
  repeat' first
    | (with_reducible first
        | assumption)
    | split | fail_if_no_progress with_reducible refine State.Sound.rest ?_ rfl
    | with_reducible intro _

theorem State.takeUnit_sound_eq {s : State} {c : Nat} {r_ : Nat} {layouts : List Nat} (hS : s.Sound Q) {u : State} {z : Option FrameEnt} (he : State.takeUnit s c r_ layouts = (z, u)) :
    u.Sound Q := by
  have := State.takeUnit_sound hS (s := s) (c := c) (r_ := r_) (layouts := layouts)
  rwa [he] at this

theorem State.allocIn_sound {s : State} {c : Nat} {need : Nat} {layouts : Nat → List Nat} (hS : s.Sound Q) :
    (State.allocIn s c need layouts).2.Sound Q := by
  unfold State.allocIn
  try dsimp only
  repeat' first
    | (with_reducible first
        | assumption | apply State.fresh_sound | (refine State.fresh_sound_eq (he := by assumption) ?_) | apply State.takeUnit_sound
        | (refine State.takeUnit_sound_eq (he := by assumption) ?_))
    | split
    | with_reducible intro _

theorem State.allocIn_sound_eq {s : State} {c : Nat} {need : Nat} {layouts : Nat → List Nat} (hS : s.Sound Q) {u : State} {z : Option FrameEnt} (he : State.allocIn s c need layouts = (z, u)) :
    u.Sound Q := by
  have := State.allocIn_sound hS (s := s) (c := c) (need := need) (layouts := layouts)
  rwa [he] at this

theorem State.allocFrame_sound {s : State} {c : Nat} (hS : s.Sound Q) :
    (State.allocFrame s c).2.Sound Q := by
  unfold State.allocFrame
  try dsimp only
  repeat' first
    | (with_reducible first
        | assumption | apply State.allocIn_sound | (refine State.allocIn_sound_eq (he := by assumption) ?_))
    | split
    | with_reducible intro _

theorem State.allocFrame_sound_eq {s : State} {c : Nat} (hS : s.Sound Q) {u : State} {z : Option FrameEnt} (he : State.allocFrame s c = (z, u)) :
    u.Sound Q := by
  have := State.allocFrame_sound hS (s := s) (c := c)
  rwa [he] at this

theorem State.updFrame_sound {s : State} {c : Nat} {f : Nat} {g : FrameEnt → FrameEnt} (hS : s.Sound Q) :
    (State.updFrame s c f g).Sound Q := by
  unfold State.updFrame
  try dsimp only
  repeat' first
    | (with_reducible first
        | assumption | apply State.updChase_sound)
    | split
    | with_reducible intro _

theorem State.zeroPieces_sound {s : State} {ps : List Nat} (hS : s.Sound Q) :
    (State.zeroPieces s ps).Sound Q := by
  unfold State.zeroPieces
  try dsimp only
  repeat' first
    | (with_reducible first
        | assumption | apply State.bufferPass_sound | apply State.lineWrite_sound)
    | split | with_reducible apply State.Sound.foldl | with_reducible apply State.Sound.foldl_fst | fail_if_no_progress with_reducible refine State.Sound.restMem ?_ ?_ rfl | apply wf_memPutRun
    | with_reducible apply wf_foldl | apply wf_memPut | apply wf_filter | with_reducible apply State.Sound.mem
    | fail_if_no_progress with_reducible refine State.Sound.rest ?_ rfl
    | with_reducible intro _

theorem State.fillHoles_sound {s : State} {c : Nat} {f : Nat} {e : FrameEnt} (hS : s.Sound Q) :
    (State.fillHoles s c f e).Sound Q := by
  unfold State.fillHoles
  try dsimp only
  repeat' first
    | (with_reducible first
        | assumption | apply State.updChase_sound | apply State.devPoison_sound)
    | split | with_reducible apply State.Sound.foldl | with_reducible apply State.Sound.foldl_fst
    | with_reducible intro _

theorem State.backFrame_sound {s : State} {c : Nat} {a : Nat} (hS : s.Sound Q) :
    (State.backFrame s c a).1.Sound Q := by
  unfold State.backFrame
  have ha := State.allocFrame_sound (s := s) (c := c) hS
  revert ha
  generalize s.allocFrame c = p
  obtain ⟨_ | e, s1⟩ := p
  all_goals
    intro ha
    split
    · exact hS
    split
    · exact hS
    split
    · exact hS
    dsimp only at ha ⊢
    first
    | exact State.fillHoles_sound (State.updChase_sound (State.zeroPieces_sound ha))
    | exact ha

theorem State.backFrame_sound_eq {s : State} {c : Nat} {a : Nat} (hS : s.Sound Q) {u : State} {z : Bool} (he : State.backFrame s c a = (u, z)) :
    u.Sound Q := by
  have := State.backFrame_sound hS (s := s) (c := c) (a := a)
  rwa [he] at this

theorem State.backRun_sound {s : State} {c : Nat} {x0 : List (Nat × Bytes)} (hS : s.Sound Q) :
    (State.backRun s c x0).1.Sound Q := by
  induction x0 generalizing s with
  | nil => exact hS
  | cons a l ih =>
  simp only [State.backRun]
  repeat' first
    | (with_reducible first
        | assumption | apply ih | apply State.backFrame_sound | (refine State.backFrame_sound_eq (he := by assumption) ?_))
    | split
    | with_reducible intro _

theorem State.backRun_sound_eq {s : State} {c : Nat} {x0 : List (Nat × Bytes)} (hS : s.Sound Q) {u : State} {z : Bool} (he : State.backRun s c x0 = (u, z)) :
    u.Sound Q := by
  have := State.backRun_sound hS (s := s) (c := c) (x0 := x0)
  rwa [he] at this

theorem State.settleLost_sound {s : State} {c : Nat} {f : Nat} (hS : s.Sound Q) :
    (State.settleLost s c f).Sound Q := by
  unfold State.settleLost
  try dsimp only
  repeat' first
    | (with_reducible first
        | assumption | apply State.updFrame_sound)
    | split
    | with_reducible intro _

theorem State.releaseBands_sound {s : State} (hS : s.Sound Q) :
    (State.releaseBands s).Sound Q := by
  unfold State.releaseBands
  try dsimp only
  repeat' first
    | (with_reducible first
        | assumption)
    | split | fail_if_no_progress with_reducible refine State.Sound.rest ?_ rfl
    | with_reducible intro _

theorem State.abandon_sound {s : State} {c : Nat} {p : MigrationEnt → Bool} {back : Bool} (hS : s.Sound Q) :
    (State.abandon s c p back).Sound Q := by
  unfold State.abandon
  try dsimp only
  repeat' first
    | (with_reducible first
        | assumption | apply State.bump_sound | apply State.updChase_sound | apply State.releaseBands_sound | apply State.setF_sound)
    | split
    | with_reducible intro _

theorem State.dropStores_sound {s : State} {c : Nat} {p : Store → Bool} (hS : s.Sound Q) :
    (State.dropStores s c p).Sound Q := by
  unfold State.dropStores
  try dsimp only
  repeat' first
    | (with_reducible first
        | assumption | apply State.updChase_sound | apply State.abandon_sound)
    | split
    | with_reducible intro _

theorem State.noteWrite_sound {s : State} {plate : Bool} {c : Nat} {a : Nat} {n : Nat} (hS : s.Sound Q) :
    (State.noteWrite s plate c a n).Sound Q := by
  unfold State.noteWrite
  try dsimp only
  repeat' first
    | (with_reducible first
        | assumption | apply State.updFrame_sound | apply State.abandon_sound | apply State.updChase_sound)
    | split
    | with_reducible intro _

theorem State.writeBacked_sound {s : State} {plate : Bool} {c : Nat} {ps : List (Nat × Bytes)} (hS : s.Sound Q) :
    (State.writeBacked s plate c ps).Sound Q := by
  unfold State.writeBacked
  try dsimp only
  repeat' first
    | (with_reducible first
        | assumption | apply State.noteWrite_sound | apply State.settleLost_sound | apply State.devWrite_sound)
    | split | with_reducible apply State.Sound.foldl | with_reducible apply State.Sound.foldl_fst
    | with_reducible intro _

theorem State.chaseWrite_sound {s : State} {c : Nat} {a : Nat} {bs : Bytes} (hS : s.Sound Q) :
    (State.chaseWrite s c a bs).1.Sound Q := by
  unfold State.chaseWrite
  try dsimp only
  repeat' first
    | (with_reducible first
        | assumption | apply State.backRun_sound | (refine State.backRun_sound_eq (he := by assumption) ?_)
        | apply State.writeBacked_sound)
    | split
    | with_reducible intro _

theorem State.chaseWrite_sound_eq {s : State} {c : Nat} {a : Nat} {bs : Bytes} (hS : s.Sound Q) {u : State} {z : Bool} (he : State.chaseWrite s c a bs = (u, z)) :
    u.Sound Q := by
  have := State.chaseWrite_sound hS (s := s) (c := c) (a := a) (bs := bs)
  rwa [he] at this

theorem State.addHoles_sound {s : State} {c : Nat} {a : Nat} {n : Nat} (hS : s.Sound Q) :
    (State.addHoles s c a n).Sound Q := by
  unfold State.addHoles
  try dsimp only
  repeat' first
    | (with_reducible first
        | assumption | apply State.updChase_sound)
    | split | with_reducible apply State.Sound.foldl | with_reducible apply State.Sound.foldl_fst
    | with_reducible intro _

theorem State.plateWrite_sound {s : State} {c : Nat} {a : Nat} {bs : Bytes} (hS : s.Sound Q) :
    (State.plateWrite s c a bs).1.Sound Q := by
  unfold State.plateWrite
  try dsimp only
  repeat' first
    | (with_reducible first
        | assumption | apply State.backFrame_sound | (refine State.backFrame_sound_eq (he := by assumption) ?_)
        | apply State.writeBacked_sound | apply State.bump_sound | apply State.addHoles_sound)
    | split
    | with_reducible intro _

theorem State.plateWrite_sound_eq {s : State} {c : Nat} {a : Nat} {bs : Bytes} (hS : s.Sound Q) {u : State} {z : Bool} (he : State.plateWrite s c a bs = (u, z)) :
    u.Sound Q := by
  have := State.plateWrite_sound hS (s := s) (c := c) (a := a) (bs := bs)
  rwa [he] at this

theorem State.cacheRun_sound {s : State} {c : Nat} {a : Nat} {n : Nat} (hS : s.Sound Q) :
    (State.cacheRun s c a n).Sound Q := by
  unfold State.cacheRun
  try dsimp only
  repeat' first
    | (with_reducible first
        | assumption | apply State.cacheRead_sound)
    | split | with_reducible apply State.Sound.foldl | with_reducible apply State.Sound.foldl_fst
    | with_reducible intro _

theorem State.cacheHa_sound {s : State} {a : Nat} {n : Nat} (hS : s.Sound Q) :
    (State.cacheHa s a n).Sound Q := by
  unfold State.cacheHa
  try dsimp only
  repeat' first
    | (with_reducible first
        | assumption | apply State.cacheRead_sound)
    | split | with_reducible apply State.Sound.foldl | with_reducible apply State.Sound.foldl_fst
    | with_reducible intro _

theorem State.noteReadFrom_sound {s : State} {plate : Bool} {c : Nat} {a : Nat} {n : Nat} (hS : s.Sound Q) :
    (State.noteReadFrom s plate c a n).Sound Q := by
  unfold State.noteReadFrom
  try dsimp only
  repeat' first
    | (with_reducible first
        | assumption | apply State.updFrame_sound | apply State.cacheRun_sound | apply State.updChase_sound)
    | split | with_reducible apply State.Sound.foldl | with_reducible apply State.Sound.foldl_fst
    | with_reducible intro _

theorem State.noteRead_sound {s : State} {c : Nat} {a : Nat} {n : Nat} (hS : s.Sound Q) :
    (State.noteRead s c a n).Sound Q := by
  unfold State.noteRead
  try dsimp only
  repeat' first
    | (with_reducible first
        | assumption | apply State.noteReadFrom_sound)
    | split
    | with_reducible intro _

theorem State.noteDma_sound {s : State} {c : Nat} {a : Nat} {n : Nat} (hS : s.Sound Q) :
    (State.noteDma s c a n).Sound Q := by
  unfold State.noteDma
  try dsimp only
  repeat' first
    | (with_reducible first
        | assumption | apply State.noteReadFrom_sound)
    | split
    | with_reducible intro _

theorem State.chasePoisonRun_sound {s : State} {c : Nat} {a : Nat} {n : Nat} (hS : s.Sound Q) :
    (State.chasePoisonRun s c a n).Sound Q := by
  unfold State.chasePoisonRun
  try dsimp only
  repeat' first
    | (with_reducible first
        | assumption | apply State.devPoison_sound)
    | split | with_reducible apply State.Sound.foldl | with_reducible apply State.Sound.foldl_fst
    | with_reducible intro _

theorem State.freeFrames_sound {s : State} {c : Nat} (hS : s.Sound Q) :
    (State.freeFrames s c).Sound Q := by
  unfold State.freeFrames
  try dsimp only
  repeat' first
    | (with_reducible first
        | assumption | apply State.updChase_sound | apply State.releaseBands_sound)
    | split | fail_if_no_progress with_reducible refine State.Sound.restMem ?_ ?_ rfl | apply wf_memPutRun
    | with_reducible apply wf_foldl | apply wf_memPut | apply wf_filter | with_reducible apply State.Sound.mem
    | fail_if_no_progress with_reducible refine State.Sound.rest ?_ rfl
    | with_reducible intro _

theorem State.copyLine_sound {s : State} {src : Nat} {dst : Nat} (hS : s.Sound Q) :
    (State.copyLine s src dst).Sound Q := by
  unfold State.copyLine
  try dsimp only
  repeat' first
    | (with_reducible first
        | assumption | apply State.devPoison_sound | apply State.lineWrite_sound)
    | split | with_reducible apply State.Sound.foldl | with_reducible apply State.Sound.foldl_fst
    | with_reducible intro _

theorem State.copyFrame_sound {s : State} {c : Nat} {f : Nat} {e : FrameEnt} {toChip : Bool} (hS : s.Sound Q) :
    (State.copyFrame s c f e toChip).Sound Q := by
  unfold State.copyFrame
  try dsimp only
  repeat' first
    | (with_reducible first
        | assumption | apply State.copyLine_sound)
    | split | with_reducible apply State.Sound.foldl | with_reducible apply State.Sound.foldl_fst
    | with_reducible intro _

theorem State.dropChip_sound {s : State} {c : Nat} {f : Nat} (hS : s.Sound Q) :
    (State.dropChip s c f).Sound Q := by
  unfold State.dropChip
  try dsimp only
  repeat' first
    | (with_reducible first
        | assumption)
    | split | fail_if_no_progress with_reducible refine State.Sound.restMem ?_ ?_ rfl | apply wf_memPutRun
    | with_reducible apply wf_foldl | apply wf_memPut | apply wf_filter | with_reducible apply State.Sound.mem
    | fail_if_no_progress with_reducible refine State.Sound.rest ?_ rfl
    | with_reducible intro _

theorem State.demote_sound {s : State} {c : Nat} {f : Nat} {e : FrameEnt} (hS : s.Sound Q) :
    (State.demote s c f e).Sound Q := by
  unfold State.demote
  try dsimp only
  repeat' first
    | (with_reducible first
        | assumption | apply State.updFrame_sound | apply State.dropChip_sound | apply State.copyFrame_sound)
    | split
    | with_reducible intro _

/-! ### Machine/GalStore.lean -/

theorem State.setGalley_sound {s : State} {c : Nat} {id : Nat} {g : GalleySt} (hS : s.Sound Q) :
    (State.setGalley s c id g).Sound Q := by
  unfold State.setGalley
  try dsimp only
  repeat' first
    | (with_reducible first
        | assumption | apply State.updChase_sound)
    | split
    | with_reducible intro _

theorem State.updGalley_sound {s : State} {c : Nat} {id : Nat} {f : GalleySt → GalleySt} (hS : s.Sound Q) :
    (State.updGalley s c id f).Sound Q := by
  unfold State.updGalley
  try dsimp only
  repeat' first
    | (with_reducible first
        | assumption | apply State.setGalley_sound)
    | split
    | with_reducible intro _

theorem State.newGalFrame_sound {s : State} {c : Nat} {i : Nat} {need : Nat} (hS : s.Sound Q) :
    (State.newGalFrame s c i need).1.Sound Q := by
  unfold State.newGalFrame
  try dsimp only
  repeat' first
    | (with_reducible first
        | assumption | apply State.allocIn_sound | (refine State.allocIn_sound_eq (he := by assumption) ?_) | apply State.updChase_sound
        | apply State.zeroPieces_sound | apply State.lineWrite_sound)
    | split | with_reducible apply State.Sound.foldl | with_reducible apply State.Sound.foldl_fst
    | with_reducible intro _

theorem State.newGalFrame_sound_eq {s : State} {c : Nat} {i : Nat} {need : Nat} (hS : s.Sound Q) {u : State} {z : Option Nat} (he : State.newGalFrame s c i need = (u, z)) :
    u.Sound Q := by
  have := State.newGalFrame_sound hS (s := s) (c := c) (i := i) (need := need)
  rwa [he] at this

theorem State.copyGalFrame_sound {s : State} {e : FrameEnt} {n : FrameEnt} (hS : s.Sound Q) :
    (State.copyGalFrame s e n).Sound Q := by
  unfold State.copyGalFrame
  try dsimp only
  repeat' first
    | (with_reducible first
        | assumption | apply State.copyLine_sound)
    | split | with_reducible apply State.Sound.foldl | with_reducible apply State.Sound.foldl_fst
    | with_reducible intro _

theorem State.sweepGal_sound {s : State} {c : Nat} (hS : s.Sound Q) :
    (State.sweepGal s c).Sound Q := by
  unfold State.sweepGal
  try dsimp only
  repeat' first
    | (with_reducible first
        | assumption | apply State.updChase_sound | apply State.releaseBands_sound)
    | split
    | with_reducible intro _

theorem State.cacheGal_sound {s : State} {c : Nat} {map : List (Nat × Nat)} {i : Nat} {off : Nat} {n : Nat} (hS : s.Sound Q) :
    (State.cacheGal s c map i off n).Sound Q := by
  unfold State.cacheGal
  try dsimp only
  repeat' first
    | (with_reducible first
        | assumption | apply State.cacheRead_sound)
    | split | with_reducible apply State.Sound.foldl | with_reducible apply State.Sound.foldl_fst
    | with_reducible intro _

theorem State.noteGal_sound {s : State} {plate : Bool} {write : Bool} {c : Nat} {map : List (Nat × Nat)} {i : Nat} {off : Nat} {n : Nat} (hS : s.Sound Q) :
    (State.noteGal s plate write c map i off n).Sound Q := by
  unfold State.noteGal
  try dsimp only
  repeat' first
    | (with_reducible first
        | assumption | apply State.updFrame_sound | apply State.abandon_sound | apply State.cacheGal_sound)
    | split
    | with_reducible intro _

theorem State.noteRow_sound {s : State} {plate : Bool} {c : Nat} {g : GalleySt} {x : GalState} {k : Nat} (hS : s.Sound Q) :
    (State.noteRow s plate c g x k).Sound Q := by
  unfold State.noteRow
  try dsimp only
  repeat' first
    | (with_reducible first
        | assumption | apply State.noteGal_sound)
    | split
    | with_reducible intro _

theorem State.galWrite_sound {s : State} {plate : Bool} {c : Nat} {map : List (Nat × Nat)} {i : Nat} {off : Nat} {bs : Bytes} (hS : s.Sound Q) :
    (State.galWrite s plate c map i off bs).Sound Q := by
  unfold State.galWrite
  try dsimp only
  repeat' first
    | (with_reducible first
        | assumption | apply State.devWrite_sound | apply State.noteGal_sound)
    | split | with_reducible apply State.Sound.foldl | with_reducible apply State.Sound.foldl_fst
    | with_reducible intro _

theorem State.drainGal_sound {s : State} {c : Nat} {map : List (Nat × Nat)} {i : Nat} (hS : s.Sound Q) :
    (State.drainGal s c map i).Sound Q := by
  unfold State.drainGal
  try dsimp only
  repeat' first
    | (with_reducible first
        | assumption | apply State.mbToDram_sound)
    | split | with_reducible apply State.Sound.foldl | with_reducible apply State.Sound.foldl_fst
    | with_reducible intro _

theorem State.slugWrite_sound {s : State} {c : Nat} {map : List (Nat × Nat)} {p : RowPlace} {r_ : Nat} {v : Slug} (hS : s.Sound Q) :
    (State.slugWrite s c map p r_ v).Sound Q := by
  unfold State.slugWrite
  try dsimp only
  repeat' first
    | (with_reducible first
        | assumption | apply State.galWrite_sound | apply State.devPoison_sound)
    | split | with_reducible apply State.Sound.foldl | with_reducible apply State.Sound.foldl_fst
    | with_reducible intro _

theorem State.ownFrame_sound {s : State} {c : Nat} {id : Nat} {i : Nat} {need : Nat} (hS : s.Sound Q) :
    (State.ownFrame s c id i need).1.Sound Q := by
  unfold State.ownFrame
  have h := State.newGalFrame_sound (s := s) (c := c) (i := i) (need := need) hS
  revert h
  generalize s.newGalFrame c i need = p
  obtain ⟨s1, _ | key⟩ := p
  all_goals
    intro h
    dsimp only at h ⊢
    split
    · exact hS
    split
    · exact hS
    split
    · exact hS
  · exact h
  · refine State.updGalley_sound ?_
    split
    · exact State.copyGalFrame_sound h
    · exact h

theorem State.ownFrame_sound_eq {s : State} {c : Nat} {id : Nat} {i : Nat} {need : Nat} (hS : s.Sound Q) {u : State} {z : Bool} (he : State.ownFrame s c id i need = (u, z)) :
    u.Sound Q := by
  have := State.ownFrame_sound hS (s := s) (c := c) (id := id) (i := i) (need := need)
  rwa [he] at this

theorem State.putRow_sound {s : State} {c : Nat} {id : Nat} {k : Nat} {v : Slug} (hS : s.Sound Q) :
    (State.putRow s c id k v).1.Sound Q := by
  unfold State.putRow
  try dsimp only
  repeat' first
    | (with_reducible first
        | assumption | apply State.ownFrame_sound | (refine State.ownFrame_sound_eq (he := by assumption) ?_)
        | apply State.slugWrite_sound)
    | split
    | with_reducible intro _

theorem State.putRow_sound_eq {s : State} {c : Nat} {id : Nat} {k : Nat} {v : Slug} (hS : s.Sound Q) {u : State} {z : Bool} (he : State.putRow s c id k v = (u, z)) :
    u.Sound Q := by
  have := State.putRow_sound hS (s := s) (c := c) (id := id) (k := k) (v := v)
  rwa [he] at this

theorem State.putBlank_sound {s : State} {c : Nat} {id : Nat} {v : Slug} (hS : s.Sound Q) :
    (State.putBlank s c id v).Sound Q := by
  unfold State.putBlank
  try dsimp only
  repeat' first
    | (with_reducible first
        | assumption | apply State.ownFrame_sound | (refine State.ownFrame_sound_eq (he := by assumption) ?_)
        | apply State.slugWrite_sound)
    | split
    | with_reducible intro _

theorem State.noteMaster_sound {s : State} {c : Nat} {g : GalleySt} {k : Nat} (hS : s.Sound Q) :
    (State.noteMaster s c g k).Sound Q := by
  unfold State.noteMaster
  try dsimp only
  repeat' first
    | (with_reducible first
        | assumption | apply State.cacheGal_sound | apply State.noteGal_sound)
    | split | with_reducible apply State.Sound.foldl | with_reducible apply State.Sound.foldl_fst
    | with_reducible intro _

theorem State.ownMaster_sound {s : State} {c : Nat} {id : Nat} {i : Nat} (hS : s.Sound Q) :
    (State.ownMaster s c id i).Sound Q := by
  unfold State.ownMaster
  try dsimp only
  repeat' first
    | (with_reducible first
        | assumption | apply State.newGalFrame_sound | (refine State.newGalFrame_sound_eq (he := by assumption) ?_)
        | apply State.updGalley_sound)
    | split
    | with_reducible intro _

theorem State.masterSet_sound {s : State} {plate : Bool} {c : Nat} {id : Nat} {k : Nat} {j : Nat} {v : Int} (hS : s.Sound Q) :
    (State.masterSet s plate c id k j v).Sound Q := by
  unfold State.masterSet
  try dsimp only
  repeat' first
    | (with_reducible first
        | assumption | apply State.ownMaster_sound | apply State.galWrite_sound)
    | split
    | with_reducible intro _

theorem State.ownGuest_sound {s : State} {c : Nat} {id : Nat} {i : Nat} (hS : s.Sound Q) :
    (State.ownGuest s c id i).Sound Q := by
  unfold State.ownGuest
  try dsimp only
  repeat' first
    | (with_reducible first
        | assumption | apply State.newGalFrame_sound | (refine State.newGalFrame_sound_eq (he := by assumption) ?_)
        | apply State.updGalley_sound)
    | split
    | with_reducible intro _

theorem State.putGuest_sound {s : State} {c : Nat} {id : Nat} {pos : Nat} {v : Slug} (hS : s.Sound Q) :
    (State.putGuest s c id pos v).Sound Q := by
  unfold State.putGuest
  try dsimp only
  repeat' first
    | (with_reducible first
        | assumption | apply State.ownGuest_sound | apply State.drainGal_sound | apply State.slugWrite_sound)
    | split
    | with_reducible intro _

theorem State.switchCopies_sound {s : State} {c : Nat} {id : Nat} {g : GalleySt} {v : GalState} {x : GalState} {peers : List GuestCopy} (hS : s.Sound Q) :
    (State.switchCopies s c id g v x peers).Sound Q := by
  unfold State.switchCopies
  try dsimp only
  repeat' first
    | (with_reducible first
        | assumption | apply State.updChase_sound | apply State.abandon_sound)
    | split
    | with_reducible intro _

theorem State.commitSwitch_sound {s : State} {c : Nat} {id : Nat} {peers : List GuestCopy} (hS : s.Sound Q) :
    (State.commitSwitch s c id peers).Sound Q := by
  unfold State.commitSwitch
  try dsimp only
  repeat' first
    | (with_reducible first
        | assumption | apply State.drainGal_sound | apply State.setGalley_sound | apply State.switchCopies_sound)
    | split | with_reducible apply State.Sound.foldl | with_reducible apply State.Sound.foldl_fst
    | with_reducible intro _

theorem State.freeDraining_sound {s : State} {c : Nat} {id : Nat} (hS : s.Sound Q) :
    (State.freeDraining s c id).Sound Q := by
  unfold State.freeDraining
  try dsimp only
  repeat' first
    | (with_reducible first
        | assumption | apply State.sweepGal_sound | apply State.updGalley_sound)
    | split
    | with_reducible intro _

theorem State.freeAllDraining_sound {s : State} {c : Nat} (hS : s.Sound Q) :
    (State.freeAllDraining s c).Sound Q := by
  unfold State.freeAllDraining
  try dsimp only
  repeat' first
    | (with_reducible first
        | assumption | apply State.freeDraining_sound)
    | split | with_reducible apply State.Sound.foldl | with_reducible apply State.Sound.foldl_fst
    | with_reducible intro _

theorem State.dropIncoming_sound {s : State} {c : Nat} {id : Nat} (hS : s.Sound Q) :
    (State.dropIncoming s c id).Sound Q := by
  unfold State.dropIncoming
  try dsimp only
  repeat' first
    | (with_reducible first
        | assumption | apply State.sweepGal_sound | apply State.updGalley_sound)
    | split
    | with_reducible intro _

/-! ### Machine/Route.lean -/

theorem State.updLink_sound {s : State} {l : Nat} {f : LinkSt → LinkSt} (hS : s.Sound Q) :
    (State.updLink s l f).Sound Q := by
  unfold State.updLink
  try dsimp only
  repeat' first
    | (with_reducible first
        | assumption)
    | split | fail_if_no_progress with_reducible refine State.Sound.rest ?_ rfl
    | with_reducible intro _

theorem State.updFab_sound {s : State} {f : FabSt → FabSt} (hS : s.Sound Q) :
    (State.updFab s f).Sound Q := by
  unfold State.updFab
  try dsimp only
  repeat' first
    | (with_reducible first
        | assumption)
    | split | fail_if_no_progress with_reducible refine State.Sound.rest ?_ rfl
    | with_reducible intro _

theorem State.putFlit_sound {s : State} {l : Nat} {f : Flit} (hS : s.Sound Q) :
    (State.putFlit s l f).Sound Q := by
  unfold State.putFlit
  try dsimp only
  repeat' first
    | (with_reducible first
        | assumption | apply State.emit_sound | apply State.updLink_sound)
    | split
    | with_reducible intro _

theorem State.sendOn_sound {s : State} {l : Nat} {f : Flit} (hS : s.Sound Q) :
    (State.sendOn s l f).Sound Q := by
  unfold State.sendOn
  try dsimp only
  repeat' first
    | (with_reducible first
        | assumption | apply State.putFlit_sound | apply State.updLink_sound)
    | split
    | with_reducible intro _

theorem State.resendFrom_sound {s : State} {l : Nat} {paid : Bool} {fs : List Flit} (hS : s.Sound Q) :
    (State.resendFrom s l paid fs).Sound Q := by
  unfold State.resendFrom
  try dsimp only
  repeat' first
    | (with_reducible first
        | assumption | apply State.putFlit_sound | apply State.updLink_sound)
    | split | with_reducible apply State.Sound.foldl | with_reducible apply State.Sound.foldl_fst
    | with_reducible intro _

theorem State.freeBuf_sound {s : State} {l : Nat} {vc : Nat} (hS : s.Sound Q) :
    (State.freeBuf s l vc).Sound Q := by
  unfold State.freeBuf
  try dsimp only
  repeat' first
    | (with_reducible first
        | assumption | apply State.updLink_sound)
    | split
    | with_reducible intro _

theorem State.noteTurn_sound {s : State} {o : Nat} {port : Nat} {vc : Nat} (hS : s.Sound Q) :
    (State.noteTurn s o port vc).Sound Q := by
  unfold State.noteTurn
  try dsimp only
  repeat' first
    | (with_reducible first
        | assumption | apply State.updLink_sound)
    | split
    | with_reducible intro _

theorem State.routeFrom_sound {s : State} {f : Flit} {l : Nat} {vc : Nat} (hS : s.Sound Q) :
    (State.routeFrom s f l vc).Sound Q := by
  unfold State.routeFrom
  try dsimp only
  repeat' first
    | (with_reducible first
        | assumption | apply State.sendOn_sound | apply State.noteTurn_sound | apply State.freeBuf_sound | apply State.updFab_sound
        | apply State.bump_sound)
    | split
    | with_reducible intro _

theorem State.routeFlit_sound {s : State} {f : Flit} (hS : s.Sound Q) :
    (State.routeFlit s f).Sound Q := by
  unfold State.routeFlit
  try dsimp only
  repeat' first
    | (with_reducible first
        | assumption | apply State.routeFrom_sound)
    | split
    | with_reducible intro _

theorem State.releaseHeld_sound {s : State} {e : Flit × Nat × Nat} (hS : s.Sound Q) :
    (State.releaseHeld s e).Sound Q := by
  unfold State.releaseHeld
  try dsimp only
  repeat' first
    | (with_reducible first
        | assumption | apply State.routeFrom_sound | apply State.updFab_sound)
    | split
    | with_reducible intro _

theorem State.releaseAll_sound {s : State} {x0 : Nat} (hS : s.Sound Q) :
    (State.releaseAll s x0).Sound Q := by
  induction x0 generalizing s with
  | zero => exact hS
  | succ n ih =>
  simp only [State.releaseAll]
  repeat' first
    | (with_reducible first
        | assumption | apply ih | apply State.releaseHeld_sound)
    | split
    | with_reducible intro _

theorem State.retryHeld_sound {s : State} (hS : s.Sound Q) :
    (State.retryHeld s).Sound Q := by
  unfold State.retryHeld
  try dsimp only
  repeat' first
    | (with_reducible first
        | assumption | apply State.releaseAll_sound)
    | split
    | with_reducible intro _

theorem State.startMsg_sound {s : State} {m : MsgRec} (hS : s.Sound Q) :
    (State.startMsg s m).Sound Q := by
  unfold State.startMsg
  try dsimp only
  repeat' first
    | (with_reducible first
        | assumption | apply State.routeFlit_sound | apply State.updFab_sound)
    | split | with_reducible apply State.Sound.foldl | with_reducible apply State.Sound.foldl_fst
    | with_reducible intro _

theorem State.sendMsg_sound {s : State} {m : MsgRec} (hS : s.Sound Q) :
    (State.sendMsg s m).Sound Q := by
  unfold State.sendMsg
  try dsimp only
  repeat' first
    | (with_reducible first
        | assumption | apply State.startMsg_sound | apply State.updFab_sound)
    | split
    | with_reducible intro _

theorem State.drainQueued_sound {s : State} {dst : Nat} (hS : s.Sound Q) :
    (State.drainQueued s dst).Sound Q := by
  unfold State.drainQueued
  try dsimp only
  repeat' first
    | (with_reducible first
        | assumption | apply State.startMsg_sound | apply State.updFab_sound)
    | split
    | with_reducible intro _

theorem State.sendAck_sound {s : State} {dst : Nat} {chase : Nat} {msg : Nat} {status : Nat} (hS : s.Sound Q) :
    (State.sendAck s dst chase msg status).Sound Q := by
  unfold State.sendAck
  try dsimp only
  repeat' first
    | (with_reducible first
        | assumption | apply State.routeFlit_sound | apply State.updFab_sound)
    | split | with_reducible apply State.Sound.foldl | with_reducible apply State.Sound.foldl_fst
    | with_reducible intro _

theorem State.sendCtl_sound {s : State} {c : Nat} {ordinal : Nat} {sub : Nat} {payload : Bytes} (hS : s.Sound Q) :
    (State.sendCtl s c ordinal sub payload).Sound Q := by
  unfold State.sendCtl
  try dsimp only
  repeat' first
    | (with_reducible first
        | assumption | apply State.sendMsg_sound)
    | split
    | with_reducible intro _

theorem State.sendAll_sound {s : State} {c : Nat} {sub : Nat} {payload : Bytes} (hS : s.Sound Q) :
    (State.sendAll s c sub payload).Sound Q := by
  unfold State.sendAll
  try dsimp only
  repeat' first
    | (with_reducible first
        | assumption | apply State.sendCtl_sound)
    | split | with_reducible apply State.Sound.foldl | with_reducible apply State.Sound.foldl_fst
    | with_reducible intro _

/-! ### Machine/Base.lean -/

theorem State.updTicket_sound {s : State} {ring : Nat} {seq : Nat} {f : Ticket → Ticket} (hS : s.Sound Q) :
    (State.updTicket s ring seq f).Sound Q := by
  unfold State.updTicket
  try dsimp only
  repeat' first
    | (with_reducible first
        | assumption)
    | split | fail_if_no_progress with_reducible refine State.Sound.rest ?_ rfl
    | with_reducible intro _

theorem State.finishTicket_sound {s : State} {ring : Nat} {seq : Nat} {status : Nat} {detail : Bytes} (hS : s.Sound Q) :
    (State.finishTicket s ring seq status detail).Sound Q := by
  unfold State.finishTicket
  try dsimp only
  repeat' first
    | (with_reducible first
        | assumption | apply State.updTicket_sound)
    | split
    | with_reducible intro _

theorem State.finishWhere_sound {s : State} {p : Ticket → Bool} {status : Nat} {detail : Bytes} (hS : s.Sound Q) :
    (State.finishWhere s p status detail).Sound Q := by
  unfold State.finishWhere
  try dsimp only
  repeat' first
    | (with_reducible first
        | assumption)
    | split | fail_if_no_progress with_reducible refine State.Sound.rest ?_ rfl
    | with_reducible intro _

theorem State.dropGroups_sound {s : State} {c : Nat} (hS : s.Sound Q) :
    (State.dropGroups s c).Sound Q := by
  unfold State.dropGroups
  try dsimp only
  repeat' first
    | (with_reducible first
        | assumption)
    | split | fail_if_no_progress with_reducible refine State.Sound.rest ?_ rfl
    | with_reducible intro _

theorem State.dropPlateWaits_sound {s : State} {c : Nat} (hS : s.Sound Q) :
    (State.dropPlateWaits s c).Sound Q := by
  unfold State.dropPlateWaits
  try dsimp only
  repeat' first
    | (with_reducible first
        | assumption)
    | split | fail_if_no_progress with_reducible refine State.Sound.rest ?_ rfl
    | with_reducible intro _

theorem State.dropInk_sound {s : State} {c : Nat} (hS : s.Sound Q) :
    (State.dropInk s c).Sound Q := by
  unfold State.dropInk
  try dsimp only
  repeat' first
    | (with_reducible first
        | assumption | apply State.wr_sound | apply State.setF_sound | apply State.setFs_sound | apply State.updChase_sound)
    | split | fail_if_no_progress with_reducible refine State.Sound.rest ?_ rfl
    | with_reducible intro _

theorem State.freeSamples_sound {s : State} {c : Nat} (hS : s.Sound Q) :
    (State.freeSamples s c).Sound Q := by
  unfold State.freeSamples
  try dsimp only
  repeat' first
    | (with_reducible first
        | assumption | apply State.finishWhere_sound)
    | split | fail_if_no_progress with_reducible refine State.Sound.rest ?_ rfl
    | with_reducible intro _

theorem State.clearSampleDir_sound {s : State} {c : Nat} (hS : s.Sound Q) :
    (State.clearSampleDir s c).Sound Q := by
  unfold State.clearSampleDir
  try dsimp only
  repeat' first
    | (with_reducible first
        | assumption | apply State.chaseWrite_sound | (refine State.chaseWrite_sound_eq (he := by assumption) ?_))
    | split | with_reducible apply State.Sound.foldl | with_reducible apply State.Sound.foldl_fst
    | with_reducible intro _

theorem State.haltChase_sound {s : State} {c : Nat} (hS : s.Sound Q) :
    (State.haltChase s c).Sound Q := by
  unfold State.haltChase
  try dsimp only
  repeat' first
    | (with_reducible first
        | assumption | apply State.updChase_sound | apply State.freeAllDraining_sound | apply State.dropInk_sound
        | apply State.dropGroups_sound | apply State.dropPlateWaits_sound | apply State.setFs_sound)
    | split
    | with_reducible intro _

theorem State.faultLocal_sound {s : State} {c : Nat} {code : Nat} (hS : s.Sound Q) :
    (State.faultLocal s c code).Sound Q := by
  unfold State.faultLocal
  try dsimp only
  repeat' first
    | (with_reducible first
        | assumption | apply State.setFs_sound | apply State.updChase_sound | apply State.haltChase_sound | apply State.finishWhere_sound
        | apply State.eventFault_sound | apply State.freeSamples_sound | apply State.clearSampleDir_sound)
    | split
    | with_reducible intro _

theorem State.faultChase_sound {s : State} {c : Nat} {code : Nat} (hS : s.Sound Q) :
    (State.faultChase s c code).Sound Q := by
  unfold State.faultChase
  try dsimp only
  repeat' first
    | (with_reducible first
        | assumption | apply State.sendAll_sound | apply State.faultLocal_sound)
    | split
    | with_reducible intro _

theorem State.noteErr_sound {s : State} {c : Nat} {code : Nat} {ty : Nat} (hS : s.Sound Q) :
    (State.noteErr s c code ty).Sound Q := by
  unfold State.noteErr
  try dsimp only
  repeat' first
    | (with_reducible first
        | assumption | apply State.setFs_sound)
    | split
    | with_reducible intro _

theorem State.endStart_sound {s : State} {c : Nat} {status : Nat} {detail : Bytes} (hS : s.Sound Q) :
    (State.endStart s c status detail).Sound Q := by
  unfold State.endStart
  try dsimp only
  repeat' first
    | (with_reducible first
        | assumption | apply State.finishWhere_sound)
    | split
    | with_reducible intro _

theorem State.failStart_sound {s : State} {c : Nat} {code : Nat} {ty : Nat} {off : Nat} {state : Nat} (hS : s.Sound Q) :
    (State.failStart s c code ty off state).Sound Q := by
  unfold State.failStart
  try dsimp only
  repeat' first
    | (with_reducible first
        | assumption | apply State.updChase_sound | apply State.setF_sound | apply State.noteErr_sound | apply State.freeAllDraining_sound
        | apply State.endStart_sound | apply State.freeSamples_sound | apply State.clearSampleDir_sound)
    | split
    | with_reducible intro _

theorem State.loseHolder_sound {s : State} {c : Nat} (hS : s.Sound Q) :
    (State.loseHolder s c).Sound Q := by
  unfold State.loseHolder
  try dsimp only
  repeat' first
    | (with_reducible first
        | assumption | apply State.faultChase_sound | apply State.endStart_sound | apply State.noteErr_sound)
    | split
    | with_reducible intro _

theorem State.stopped_sound {s : State} {c : Nat} (hS : s.Sound Q) :
    (State.stopped s c).Sound Q := by
  unfold State.stopped
  try dsimp only
  repeat' first
    | (with_reducible first
        | assumption | apply State.haltChase_sound | apply State.setFs_sound | apply State.updChase_sound | apply State.finishWhere_sound)
    | split
    | with_reducible intro _

theorem State.noteNamed_sound {s : State} {c : Nat} {m : Nat} {named : List (Nat × Nat)} (hS : s.Sound Q) :
    (State.noteNamed s c m named).Sound Q := by
  unfold State.noteNamed
  try dsimp only
  repeat' first
    | (with_reducible first
        | assumption | apply State.updChase_sound)
    | split
    | with_reducible intro _

theorem State.takeGo_sound {s : State} {c : Nat} {m : Nat} {start : Nat} {named : List (Nat × Nat)} (hS : s.Sound Q) :
    (State.takeGo s c m start named).Sound Q := by
  unfold State.takeGo
  try dsimp only
  repeat' first
    | (with_reducible first
        | assumption | apply State.stopped_sound | apply State.updChase_sound | apply State.noteNamed_sound)
    | split
    | with_reducible intro _

theorem State.issueGo_sound {s : State} {c : Nat} {m : Nat} {start : Nat} (hS : s.Sound Q) :
    (State.issueGo s c m start).Sound Q := by
  unfold State.issueGo
  try dsimp only
  repeat' first
    | (with_reducible first
        | assumption | apply State.updChase_sound | apply State.takeGo_sound | apply State.sendAll_sound)
    | split
    | with_reducible intro _

theorem State.rootJudge_sound {s : State} {c : Nat} (hS : s.Sound Q) :
    (State.rootJudge s c).Sound Q := by
  unfold State.rootJudge
  try dsimp only
  repeat' first
    | (with_reducible first
        | assumption | apply State.issueGo_sound)
    | split
    | with_reducible intro _

theorem State.rootDone_sound {s : State} {c : Nat} {ordinal : Nat} {stamp : Nat} (hS : s.Sound Q) :
    (State.rootDone s c ordinal stamp).Sound Q := by
  unfold State.rootDone
  try dsimp only
  repeat' first
    | (with_reducible first
        | assumption | apply State.rootJudge_sound | apply State.updChase_sound)
    | split
    | with_reducible intro _

theorem State.checkFinish_sound {s : State} {c : Nat} (hS : s.Sound Q) :
    (State.checkFinish s c).Sound Q := by
  unfold State.checkFinish
  try dsimp only
  repeat' first
    | (with_reducible first
        | assumption | apply State.updChase_sound | apply State.rootDone_sound | apply State.sendCtl_sound)
    | split
    | with_reducible intro _

theorem State.endWork_sound {s : State} {c : Nat} (hS : s.Sound Q) :
    (State.endWork s c).Sound Q := by
  unfold State.endWork
  try dsimp only
  repeat' first
    | (with_reducible first
        | assumption | apply State.checkFinish_sound | apply State.updChase_sound)
    | split
    | with_reducible intro _

theorem State.slip_sound {s : State} {c : Nat} {m : Nat} (hS : s.Sound Q) :
    (State.slip s c m).Sound Q := by
  unfold State.slip
  try dsimp only
  repeat' first
    | (with_reducible first
        | assumption | apply State.setF_sound | apply State.bumpWrap_sound | apply State.bump_sound | apply State.updChase_sound
        | apply State.faultChase_sound)
    | split
    | with_reducible intro _

theorem State.plateStarts_sound {s : State} {c : Nat} (hS : s.Sound Q) :
    (State.plateStarts s c).Sound Q := by
  unfold State.plateStarts
  try dsimp only
  repeat' first
    | (with_reducible first
        | assumption | apply State.updChase_sound)
    | split
    | with_reducible intro _

theorem State.startPlate_sound {s : State} {c : Nat} (hS : s.Sound Q) :
    (State.startPlate s c).Sound Q := by
  unfold State.startPlate
  try dsimp only
  repeat' first
    | (with_reducible first
        | assumption | apply State.plateStarts_sound)
    | split
    | with_reducible intro _

/-! ### Machine/Ink.lean -/

theorem State.postLedger_sound {s : State} (hS : s.Sound Q) :
    (State.postLedger s).Sound Q := by
  unfold State.postLedger
  try dsimp only
  repeat' first
    | (with_reducible first
        | assumption | apply State.setFs_sound)
    | split
    | with_reducible intro _

theorem State.lowerGrant_sound {s : State} {c : Nat} {g : Nat} (hS : s.Sound Q) :
    (State.lowerGrant s c g).Sound Q := by
  unfold State.lowerGrant
  try dsimp only
  repeat' first
    | (with_reducible first
        | assumption | apply State.updChase_sound | apply State.setFs_sound)
    | split
    | with_reducible intro _

theorem State.revokeExcess_sound {s : State} {f : Option Nat} {c : Nat} (hS : s.Sound Q) :
    (State.revokeExcess s f c).Sound Q := by
  unfold State.revokeExcess
  try dsimp only
  repeat' first
    | (with_reducible first
        | assumption | apply State.bump_sound | apply State.lowerGrant_sound)
    | split
    | with_reducible intro _

theorem State.revokeAll_sound {s : State} {f : Option Nat} {slots : List Nat} (hS : s.Sound Q) :
    (State.revokeAll s f slots).Sound Q := by
  unfold State.revokeAll
  try dsimp only
  repeat' first
    | (with_reducible first
        | assumption | apply State.revokeExcess_sound)
    | split | with_reducible apply State.Sound.foldl | with_reducible apply State.Sound.foldl_fst
    | with_reducible intro _

theorem State.proportion_sound {s : State} (hS : s.Sound Q) :
    (State.proportion s).Sound Q := by
  unfold State.proportion
  try dsimp only
  repeat' first
    | (with_reducible first
        | assumption | apply State.bump_sound | apply State.lowerGrant_sound)
    | split | with_reducible apply State.Sound.foldl | with_reducible apply State.Sound.foldl_fst
    | with_reducible intro _

theorem State.proportionUntil_sound {x0 : Nat} {x1 : State} (hSx1 : x1.Sound Q) :
    (State.proportionUntil x0 x1).Sound Q := by
  induction x0 generalizing x1 with
  | zero => exact hSx1
  | succ n ih =>
  simp only [State.proportionUntil]
  repeat' first
    | (with_reducible first
        | assumption | apply ih | apply State.proportion_sound)
    | split
    | with_reducible intro _

theorem State.fitLedger_sound {s : State} (hS : s.Sound Q) :
    (State.fitLedger s).Sound Q := by
  unfold State.fitLedger
  try dsimp only
  repeat' first
    | (with_reducible first
        | assumption | apply State.postLedger_sound | apply State.revokeAll_sound | apply State.proportionUntil_sound)
    | split
    | with_reducible intro _

theorem State.setEnvelope_sound {s : State} (hS : s.Sound Q) :
    (State.setEnvelope s).Sound Q := by
  unfold State.setEnvelope
  try dsimp only
  repeat' first
    | (with_reducible first
        | assumption | apply State.fitLedger_sound | apply State.setF_sound)
    | split
    | with_reducible intro _

theorem State.grantInk_sound {s : State} {c : Nat} (hS : s.Sound Q) :
    (State.grantInk s c).Sound Q := by
  unfold State.grantInk
  try dsimp only
  repeat' first
    | (with_reducible first
        | assumption | apply State.updChase_sound | apply State.dropInk_sound | apply State.setFs_sound | apply State.postLedger_sound
        | apply State.revokeAll_sound | apply State.bump_sound)
    | split | fail_if_no_progress with_reducible refine State.Sound.rest ?_ rfl
    | with_reducible intro _

theorem State.returnLoan_sound {s : State} {c : Nat} (hS : s.Sound Q) :
    (State.returnLoan s c).Sound Q := by
  unfold State.returnLoan
  try dsimp only
  repeat' first
    | (with_reducible first
        | assumption | apply State.fitLedger_sound | apply State.updChase_sound)
    | split
    | with_reducible intro _

theorem State.lend_sound {s : State} {c : Nat} (hS : s.Sound Q) :
    (State.lend s c).Sound Q := by
  unfold State.lend
  try dsimp only
  repeat' first
    | (with_reducible first
        | assumption | apply State.postLedger_sound | apply State.bump_sound | apply State.updChase_sound)
    | split
    | with_reducible intro _

/-! ### Machine/Gate.lean -/

theorem State.hostWrite_sound {s : State} {rid : Nat} {f : State → State} (hS : s.Sound Q) (hSf : ∀ (y0 : State), y0.Sound Q → (f y0).Sound Q) :
    (State.hostWrite s rid f).Sound Q := by
  unfold State.hostWrite
  try dsimp only
  repeat' first
    | (with_reducible first
        | assumption | apply hSf | apply State.bump_sound)
    | split
    | with_reducible intro _

theorem State.regWrite_sound {s : State} {rid : Nat} {f : State → State} (hS : s.Sound Q) (hSf : ∀ (y0 : State), y0.Sound Q → (f y0).Sound Q) :
    (State.regWrite s rid f).Sound Q := by
  unfold State.regWrite
  try dsimp only
  repeat' first
    | (with_reducible first
        | assumption | apply hSf | apply State.hostWrite_sound | apply State.ifB_sound)
    | split
    | with_reducible intro _

theorem State.hostRead_sound {s : State} {rid : Nat} {f : State → State} (hS : s.Sound Q) (hSf : ∀ (y0 : State), y0.Sound Q → (f y0).Sound Q) :
    (State.hostRead s rid f).Sound Q := by
  unfold State.hostRead
  try dsimp only
  repeat' first
    | (with_reducible first
        | assumption | apply hSf | apply State.emit_sound | apply State.bump_sound)
    | split
    | with_reducible intro _

theorem State.regRead_sound {s : State} {rid : Nat} {f : State → State} (hS : s.Sound Q) (hSf : ∀ (y0 : State), y0.Sound Q → (f y0).Sound Q) :
    (State.regRead s rid f).Sound Q := by
  unfold State.regRead
  try dsimp only
  repeat' first
    | (with_reducible first
        | assumption | apply hSf | apply State.hostRead_sound | apply State.freshBytes_sound
        | (refine State.freshBytes_sound_eq (he := by assumption) ?_) | apply State.emit_sound)
    | split
    | with_reducible intro _

/-! ### Machine/Marks.lean -/

theorem State.updMark_sound {s : State} {n : Nat} {f : MarkRt → MarkRt} (hS : s.Sound Q) :
    (State.updMark s n f).Sound Q := by
  unfold State.updMark
  try dsimp only
  repeat' first
    | (with_reducible first
        | assumption)
    | split | fail_if_no_progress with_reducible refine State.Sound.rest ?_ rfl
    | with_reducible intro _

theorem State.postWaiters_sound {s : State} {n : Nat} (hS : s.Sound Q) :
    (State.postWaiters s n).Sound Q := by
  unfold State.postWaiters
  try dsimp only
  repeat' first
    | (with_reducible first
        | assumption | apply State.setF_sound)
    | split
    | with_reducible intro _

theorem State.wakePlate_sound {s : State} {c : Nat} (hS : s.Sound Q) :
    (State.wakePlate s c).Sound Q := by
  unfold State.wakePlate
  try dsimp only
  repeat' first
    | (with_reducible first
        | assumption | apply State.startPlate_sound | apply State.updChase_sound | apply State.returnLoan_sound)
    | split
    | with_reducible intro _

theorem State.serveWait_sound {s : State} {n : Nat} {x0 : MarkWait} (hS : s.Sound Q) :
    (State.serveWait s n x0).Sound Q := by
  unfold State.serveWait
  try dsimp only
  repeat' first
    | (with_reducible first
        | assumption | apply State.wakePlate_sound | apply State.finishTicket_sound)
    | split
    | with_reducible intro _

theorem State.consume_sound {s : State} {n : Nat} {x0 : List MarkWait} (hS : s.Sound Q) :
    (State.consume s n x0).Sound Q := by
  induction x0 generalizing s with
  | nil => exact hS
  | cons w l ih =>
    cases w with
    | plate c f =>
      simp only [State.consume]
      split
      · exact ih (State.wakePlate_sound (State.updMark_sound (State.setF_sound hS)))
      · exact hS
    | ticket => exact ih hS

theorem State.serveMark_sound {s : State} {n : Nat} (hS : s.Sound Q) :
    (State.serveMark s n).Sound Q := by
  unfold State.serveMark
  try dsimp only
  repeat' first
    | (with_reducible first
        | assumption | apply State.updMark_sound | apply State.serveWait_sound | apply State.postWaiters_sound | apply State.consume_sound)
    | split | with_reducible apply State.Sound.foldl | with_reducible apply State.Sound.foldl_fst
    | with_reducible intro _

theorem State.markFault_sound {s : State} {c : Nat} {code : Nat} {mark : Nat} {count : Nat} (hS : s.Sound Q) :
    (State.markFault s c code mark count).Sound Q := by
  unfold State.markFault
  try dsimp only
  repeat' first
    | (with_reducible first
        | assumption | apply State.faultChase_sound | apply State.setFs_sound)
    | split
    | with_reducible intro _

theorem State.signalMark_sound {s : State} {n : Nat} {a : Nat} (hS : s.Sound Q) :
    (State.signalMark s n a).Sound Q := by
  unfold State.signalMark
  try dsimp only
  repeat' first
    | (with_reducible first
        | assumption | apply State.markFault_sound | apply State.setF_sound | apply State.serveMark_sound | apply State.updMark_sound)
    | split
    | with_reducible intro _

theorem State.plateSignal_sound {s : State} {n : Nat} (hS : s.Sound Q) :
    (State.plateSignal s n).Sound Q := by
  unfold State.plateSignal
  try dsimp only
  repeat' first
    | (with_reducible first
        | assumption | apply State.signalMark_sound | apply State.updMark_sound)
    | split
    | with_reducible intro _

theorem State.takeMark_sound {s : State} {n : Nat} {a : Nat} (hS : s.Sound Q) :
    (State.takeMark s n a).Sound Q := by
  unfold State.takeMark
  try dsimp only
  repeat' first
    | (with_reducible first
        | assumption | apply State.serveMark_sound | apply State.setF_sound | apply State.markFault_sound)
    | split
    | with_reducible intro _

theorem State.clearMark_sound {s : State} {n : Nat} (hS : s.Sound Q) :
    (State.clearMark s n).Sound Q := by
  unfold State.clearMark
  try dsimp only
  repeat' first
    | (with_reducible first
        | assumption | apply State.setFs_sound | apply State.finishTicket_sound | apply State.postWaiters_sound
        | apply State.updMark_sound)
    | split | with_reducible apply State.Sound.foldl | with_reducible apply State.Sound.foldl_fst
    | with_reducible intro _

theorem State.clearMarks_sound {s : State} {c : Nat} (hS : s.Sound Q) :
    (State.clearMarks s c).Sound Q := by
  unfold State.clearMarks
  try dsimp only
  repeat' first
    | (with_reducible first
        | assumption | apply State.setFs_sound | apply State.clearMark_sound)
    | split | with_reducible apply State.Sound.foldl | with_reducible apply State.Sound.foldl_fst
    | with_reducible intro _

theorem State.assignMarks_sound {s : State} {c : Nat} {plan : List (MarkEnt × Option Nat)} (hS : s.Sound Q) :
    (State.assignMarks s c plan).Sound Q := by
  unfold State.assignMarks
  try dsimp only
  repeat' first
    | (with_reducible first
        | assumption | apply State.updMark_sound | apply State.setFs_sound)
    | split | with_reducible apply State.Sound.foldl | with_reducible apply State.Sound.foldl_fst
    | with_reducible intro _

theorem State.releaseMarks_sound {s : State} {c : Nat} (hS : s.Sound Q) :
    (State.releaseMarks s c).Sound Q := by
  unfold State.releaseMarks
  try dsimp only
  repeat' first
    | (with_reducible first
        | assumption | apply State.wr_sound | apply State.clearMarks_sound)
    | split | with_reducible apply State.Sound.foldl | with_reducible apply State.Sound.foldl_fst | fail_if_no_progress with_reducible refine State.Sound.rest ?_ rfl
    | with_reducible intro _

theorem State.realign_sound {s : State} {c : Nat} (hS : s.Sound Q) :
    (State.realign s c).Sound Q := by
  unfold State.realign
  try dsimp only
  repeat' first
    | (with_reducible first
        | assumption | apply State.serveMark_sound | apply State.setFs_sound | apply State.bump_sound)
    | split | with_reducible apply State.Sound.foldl | with_reducible apply State.Sound.foldl_fst
    | with_reducible intro _

theorem State.switchCtx_sound {s : State} {c : Nat} {ctx : Nat} (hS : s.Sound Q) :
    (State.switchCtx s c ctx).Sound Q := by
  unfold State.switchCtx
  try dsimp only
  repeat' first
    | (with_reducible first
        | assumption | apply State.setFs_sound | apply State.bump_sound | apply State.clearMark_sound)
    | split | with_reducible apply State.Sound.foldl | with_reducible apply State.Sound.foldl_fst
    | with_reducible intro _

theorem State.beginWait_sound {s : State} {c : Nat} {n : Nat} (hS : s.Sound Q) :
    (State.beginWait s c n).Sound Q := by
  unfold State.beginWait
  try dsimp only
  repeat' first
    | (with_reducible first
        | assumption | apply State.serveMark_sound | apply State.updMark_sound | apply State.updChase_sound)
    | split
    | with_reducible intro _

theorem State.reachPlate_sound {s : State} {c : Nat} {index : Nat} (hS : s.Sound Q) :
    (State.reachPlate s c index).Sound Q := by
  unfold State.reachPlate
  try dsimp only
  repeat' first
    | (with_reducible first
        | assumption | apply State.updChase_sound | apply State.setF_sound | apply State.endWork_sound | apply State.bump_sound
        | apply State.faultChase_sound | apply State.startPlate_sound | apply State.beginWait_sound | apply State.markFault_sound)
    | split
    | with_reducible intro _

theorem State.markOp_sound {s : State} {op : Nat} {n : Nat} {a : Nat} (hS : s.Sound Q) :
    (State.markOp s op n a).Sound Q := by
  unfold State.markOp
  try dsimp only
  repeat' first
    | (with_reducible first
        | assumption | apply State.bump_sound | apply State.signalMark_sound | apply State.takeMark_sound)
    | split
    | with_reducible intro _

theorem State.xlate_sound {s : State} {value : Nat} (hS : s.Sound Q) :
    (State.xlate s value).Sound Q := by
  unfold State.xlate
  try dsimp only
  repeat' first
    | (with_reducible first
        | assumption | apply State.setFs_sound)
    | split
    | with_reducible intro _

theorem State.handSet_sound {s : State} {value : Nat} (hS : s.Sound Q) :
    (State.handSet s value).Sound Q := by
  unfold State.handSet
  try dsimp only
  repeat' first
    | (with_reducible first
        | assumption | apply State.setF_sound | apply State.updChase_sound | apply State.bump_sound | apply State.serveMark_sound)
    | split
    | with_reducible intro _

theorem execSignal_sound {rid : Nat} {mark : Nat} {amount : Nat} {s : State} (hS : s.Sound Q) :
    AnsSound Q (execSignal rid mark amount s) := by
  unfold execSignal
  try dsimp only
  repeat' first
    | (with_reducible first
        | assumption | exact ansSound_fault | apply ansSound_next | apply State.regWrite_sound | apply State.markOp_sound)
    | split
    | with_reducible intro _

theorem execTake_sound {rid : Nat} {mark : Nat} {amount : Nat} {s : State} (hS : s.Sound Q) :
    AnsSound Q (execTake rid mark amount s) := by
  unfold execTake
  try dsimp only
  repeat' first
    | (with_reducible first
        | assumption | exact ansSound_fault | apply ansSound_next | apply State.regWrite_sound | apply State.markOp_sound)
    | split
    | with_reducible intro _

theorem execMrkXlate_sound {rid : Nat} {value : Nat} {s : State} (hS : s.Sound Q) :
    AnsSound Q (execMrkXlate rid value s) := by
  unfold execMrkXlate
  try dsimp only
  repeat' first
    | (with_reducible first
        | assumption | exact ansSound_fault | apply ansSound_next | apply State.regWrite_sound | apply State.xlate_sound)
    | split
    | with_reducible intro _

theorem execDbgMarkSet_sound {rid : Nat} {value : Nat} {s : State} (hS : s.Sound Q) :
    AnsSound Q (execDbgMarkSet rid value s) := by
  unfold execDbgMarkSet
  try dsimp only
  repeat' first
    | (with_reducible first
        | assumption | exact ansSound_fault | apply ansSound_next | apply State.regWrite_sound | apply State.handSet_sound)
    | split
    | with_reducible intro _

theorem execWaitLend_sound {slot : Nat} {s : State} (hS : s.Sound Q) :
    AnsSound Q (execWaitLend slot s) := by
  unfold execWaitLend
  try dsimp only
  repeat' first
    | (with_reducible first
        | assumption | exact ansSound_fault | apply ansSound_next | apply State.ifB_sound | apply State.lend_sound)
    | split
    | with_reducible intro _

theorem State.deadlock_sound {s : State} {c : Nat} (hS : s.Sound Q) :
    (State.deadlock s c).Sound Q := by
  unfold State.deadlock
  try dsimp only
  repeat' first
    | (with_reducible first
        | assumption | apply State.bump_sound | apply State.setFs_sound | apply State.eventRas_sound | apply State.eventDeadlock_sound)
    | split
    | with_reducible intro _

theorem execDeadlockReport_sound {slot : Nat} {s : State} (hS : s.Sound Q) :
    AnsSound Q (execDeadlockReport slot s) := by
  unfold execDeadlockReport
  try dsimp only
  repeat' first
    | (with_reducible first
        | assumption | exact ansSound_fault | apply ansSound_next | apply State.ifB_sound | apply State.deadlock_sound)
    | split
    | with_reducible intro _

/-! ### Machine/Recv.lean -/

theorem State.markDone_sound {s : State} {src : Nat} {msg : Nat} (hS : s.Sound Q) :
    (State.markDone s src msg).Sound Q := by
  unfold State.markDone
  try dsimp only
  repeat' first
    | (with_reducible first
        | assumption | apply State.updFab_sound)
    | split
    | with_reducible intro _

theorem State.finishMsg_sound {s : State} {f : Flit} {status : Nat} (hS : s.Sound Q) :
    (State.finishMsg s f status).Sound Q := by
  unfold State.finishMsg
  try dsimp only
  repeat' first
    | (with_reducible first
        | assumption | apply State.updFab_sound | apply State.markDone_sound | apply State.sendAck_sound)
    | split
    | with_reducible intro _

theorem State.keepPart_sound {s : State} {f : Flit} (hS : s.Sound Q) :
    (State.keepPart s f).Sound Q := by
  unfold State.keepPart
  try dsimp only
  repeat' first
    | (with_reducible first
        | assumption | apply State.updFab_sound)
    | split
    | with_reducible intro _

theorem State.closeMsg_sound {s : State} {f : Flit} {status : Nat} (hS : s.Sound Q) :
    (State.closeMsg s f status).Sound Q := by
  unfold State.closeMsg
  try dsimp only
  repeat' first
    | (with_reducible first
        | assumption | apply State.keepPart_sound | apply State.finishMsg_sound)
    | split
    | with_reducible intro _

theorem State.deliverFlit_sound {s : State} {f : Flit} (hS : s.Sound Q) :
    (State.deliverFlit s f).Sound Q := by
  unfold State.deliverFlit
  try dsimp only
  repeat' first
    | (with_reducible first
        | assumption | apply State.bump_sound | apply State.closeMsg_sound | apply State.updFab_sound)
    | split
    | with_reducible intro _

theorem State.ackCtl_sound {s : State} {c : Nat} {sub : Nat} {ordinal : Nat} (hS : s.Sound Q) :
    (State.ackCtl s c sub ordinal).Sound Q := by
  unfold State.ackCtl
  try dsimp only
  repeat' first
    | (with_reducible first
        | assumption | apply State.finishMsg_sound)
    | split
    | with_reducible intro _

/-! ### Machine/Sequencer.lean -/

theorem State.plateWorked_sound {s : State} {c : Nat} {contrib : SummarySlot} (hS : s.Sound Q) :
    (State.plateWorked s c contrib).Sound Q := by
  unfold State.plateWorked
  try dsimp only
  repeat' first
    | (with_reducible first
        | assumption | apply State.updChase_sound)
    | split
    | with_reducible intro _

theorem State.setSlot_sound {s : State} {c : Nat} {k : Nat} {v : SummarySlot} (hS : s.Sound Q) :
    (State.setSlot s c k v).Sound Q := by
  unfold State.setSlot
  try dsimp only
  repeat' first
    | (with_reducible first
        | assumption | apply State.updChase_sound)
    | split
    | with_reducible intro _

theorem State.sendSignal_sound {s : State} {c : Nat} {ordinal : Nat} {id : Nat} (hS : s.Sound Q) :
    (State.sendSignal s c ordinal id).Sound Q := by
  unfold State.sendSignal
  try dsimp only
  repeat' first
    | (with_reducible first
        | assumption | apply State.sendMsg_sound)
    | split
    | with_reducible intro _

theorem State.signalDone_sound {s : State} {c : Nat} {last : Bool} (hS : s.Sound Q) :
    (State.signalDone s c last).Sound Q := by
  unfold State.signalDone
  try dsimp only
  repeat' first
    | (with_reducible first
        | assumption | apply State.markFault_sound | apply State.updChase_sound | apply State.sendSignal_sound
        | apply State.plateSignal_sound)
    | split | with_reducible apply State.Sound.foldl | with_reducible apply State.Sound.foldl_fst
    | with_reducible intro _

theorem State.plateBarrier_sound {s : State} {c : Nat} {next : Nat} (hS : s.Sound Q) :
    (State.plateBarrier s c next).Sound Q := by
  unfold State.plateBarrier
  try dsimp only
  repeat' first
    | (with_reducible first
        | assumption | apply State.setSlot_sound | apply State.reachPlate_sound)
    | split
    | with_reducible intro _

theorem State.completeIn_sound {s : State} {c : Nat} {k : Nat} {next : Nat} (hS : s.Sound Q) :
    (State.completeIn s c k next).Sound Q := by
  unfold State.completeIn
  try dsimp only
  repeat' first
    | (with_reducible first
        | assumption | apply State.updChase_sound | apply State.signalDone_sound | apply State.plateBarrier_sound)
    | split
    | with_reducible intro _

theorem State.signalAll_sound {s : State} {c : Nat} (hS : s.Sound Q) :
    (State.signalAll s c).Sound Q := by
  unfold State.signalAll
  try dsimp only
  repeat' first
    | (with_reducible first
        | assumption | apply State.signalDone_sound)
    | split | with_reducible apply State.Sound.foldl | with_reducible apply State.Sound.foldl_fst
    | with_reducible intro _

theorem State.holdPlate_sound {s : State} {c : Nat} (hS : s.Sound Q) :
    (State.holdPlate s c).Sound Q := by
  unfold State.holdPlate
  try dsimp only
  repeat' first
    | (with_reducible first
        | assumption | apply State.signalAll_sound | apply State.setF_sound | apply State.setFs_sound | apply State.updChase_sound
        | apply State.endWork_sound)
    | split
    | with_reducible intro _

theorem execHold_sound {slot : Nat} {s : State} (hS : s.Sound Q) :
    AnsSound Q (execHold slot s) := by
  unfold execHold
  try dsimp only
  repeat' first
    | (with_reducible first
        | assumption | exact ansSound_fault | apply ansSound_next | apply State.ifB_sound | apply State.holdPlate_sound)
    | split
    | with_reducible intro _

theorem State.branchPlate_sound {s : State} {c : Nat} (hS : s.Sound Q) :
    (State.branchPlate s c).Sound Q := by
  unfold State.branchPlate
  try dsimp only
  repeat' first
    | (with_reducible first
        | assumption | apply State.faultChase_sound | apply State.signalAll_sound | apply State.plateBarrier_sound)
    | split
    | with_reducible intro _

theorem execBranch_sound {slot : Nat} {s : State} (hS : s.Sound Q) :
    AnsSound Q (execBranch slot s) := by
  unfold execBranch
  try dsimp only
  repeat' first
    | (with_reducible first
        | assumption | exact ansSound_fault | apply ansSound_next | apply State.ifB_sound | apply State.branchPlate_sound)
    | split
    | with_reducible intro _

theorem execPlateComplete_sound {slot : Nat} {region : Nat} {s : State} (hS : s.Sound Q) :
    AnsSound Q (execPlateComplete slot region s) := by
  unfold execPlateComplete
  try dsimp only
  repeat' first
    | (with_reducible first
        | assumption | exact ansSound_fault | apply ansSound_next | apply State.ifB_sound | apply State.completeIn_sound)
    | split
    | with_reducible intro _

theorem State.takeSummary_sound {s : State} {c : Nat} {k : Nat} {v : SummarySlot} (hS : s.Sound Q) :
    (State.takeSummary s c k v).Sound Q := by
  unfold State.takeSummary
  try dsimp only
  repeat' first
    | (with_reducible first
        | assumption | apply State.updChase_sound | apply State.setSlot_sound)
    | split
    | with_reducible intro _

theorem State.rootSummary_sound {s : State} {c : Nat} {ordinal : Nat} {k : Nat} {v : SummarySlot} (hS : s.Sound Q) :
    (State.rootSummary s c ordinal k v).Sound Q := by
  unfold State.rootSummary
  try dsimp only
  repeat' first
    | (with_reducible first
        | assumption | apply State.updChase_sound | apply State.takeSummary_sound | apply State.sendAll_sound)
    | split | with_reducible apply State.Sound.foldl | with_reducible apply State.Sound.foldl_fst
    | with_reducible intro _

theorem State.giveSummary_sound {s : State} {c : Nat} {k : Nat} {v : SummarySlot} (hS : s.Sound Q) :
    (State.giveSummary s c k v).Sound Q := by
  unfold State.giveSummary
  try dsimp only
  repeat' first
    | (with_reducible first
        | assumption | apply State.rootSummary_sound | apply State.sendCtl_sound)
    | split
    | with_reducible intro _

theorem execSummary_sound {slot : Nat} {ordinal : Nat} {k : Nat} {v : SummarySlot} {s : State} (hS : s.Sound Q) :
    AnsSound Q (execSummary slot ordinal k v s) := by
  unfold execSummary
  try dsimp only
  repeat' first
    | (with_reducible first
        | assumption | exact ansSound_fault | apply ansSound_next | apply State.ifB_sound | apply State.rootSummary_sound
        | apply State.ackCtl_sound)
    | split
    | with_reducible intro _

theorem execSummaryResult_sound {slot : Nat} {k : Nat} {v : SummarySlot} {s : State} (hS : s.Sound Q) :
    AnsSound Q (execSummaryResult slot k v s) := by
  unfold execSummaryResult
  try dsimp only
  repeat' first
    | (with_reducible first
        | assumption | exact ansSound_fault | apply ansSound_next | apply State.ifB_sound | apply State.takeSummary_sound
        | apply State.ackCtl_sound)
    | split
    | with_reducible intro _

/-! ### Machine/Colophon.lean -/

theorem State.checkpoint_sound {s : State} (hS : s.Sound Q) :
    (State.checkpoint s).Sound Q := by
  unfold State.checkpoint
  try dsimp only
  repeat' first
    | (with_reducible first
        | assumption | apply State.setFs_sound)
    | split | fail_if_no_progress with_reducible refine State.Sound.rest ?_ rfl
    | with_reducible intro _

theorem State.colRoom_sound {s : State} (hS : s.Sound Q) {u : State} (he : State.colRoom s = some u) :
    u.Sound Q := by
  unfold State.colRoom at he
  split at he
  · cases he; exact hS
  · split at he
    · split at he
      · cases he; exact State.bump_sound (hS.same rfl rfl rfl rfl rfl rfl rfl)
      · cases he
    · cases he

theorem State.record_sound {s : State} {e : ColEntry} (hS : s.Sound Q) :
    (State.record s e).1.Sound Q := by
  unfold State.record
  try dsimp only
  repeat' first
    | (with_reducible first
        | assumption | apply State.wr_sound | (refine State.colRoom_sound (he := by assumption) ?_) | apply State.bump_sound
        | apply State.checkpoint_sound)
    | split | fail_if_no_progress with_reducible refine State.Sound.rest ?_ rfl
    | with_reducible intro _

theorem State.record_sound_eq {s : State} {e : ColEntry} (hS : s.Sound Q) {u : State} {z : Bool} (he : State.record s e = (u, z)) :
    u.Sound Q := by
  have := State.record_sound hS (s := s) (e := e)
  rwa [he] at this

theorem State.note_sound {s : State} {e : ColEntry} (hS : s.Sound Q) :
    (State.note s e).Sound Q := by
  unfold State.note
  try dsimp only
  repeat' first
    | (with_reducible first
        | assumption | apply State.record_sound | (refine State.record_sound_eq (he := by assumption) ?_))
    | split
    | with_reducible intro _

theorem State.refuseRw2p_sound {s : State} {opcode : Nat} {off : Nat} {value : Nat} (hS : s.Sound Q) :
    (State.refuseRw2p s opcode off value).Sound Q := by
  unfold State.refuseRw2p
  try dsimp only
  repeat' first
    | (with_reducible first
        | assumption | apply State.note_sound)
    | split
    | with_reducible intro _

theorem State.noteMaint_sound {s : State} {opcode : Nat} {off : Nat} {value : Nat} (hS : s.Sound Q) :
    (State.noteMaint s opcode off value).Sound Q := by
  unfold State.noteMaint
  try dsimp only
  repeat' first
    | (with_reducible first
        | assumption | apply State.note_sound)
    | split
    | with_reducible intro _

theorem State.showAuths_sound {s : State} (hS : s.Sound Q) :
    (State.showAuths s).Sound Q := by
  unfold State.showAuths
  try dsimp only
  repeat' first
    | (with_reducible first
        | assumption | apply State.setFs_sound)
    | split
    | with_reducible intro _

theorem State.dropAuth_sound {s : State} {kind : Nat} (hS : s.Sound Q) :
    (State.dropAuth s kind).Sound Q := by
  unfold State.dropAuth
  try dsimp only
  repeat' first
    | (with_reducible first
        | assumption | apply State.showAuths_sound)
    | split | fail_if_no_progress with_reducible refine State.Sound.rest ?_ rfl
    | with_reducible intro _

theorem State.endAuth_sound {s : State} {kind : Nat} (hS : s.Sound Q) :
    (State.endAuth s kind).Sound Q := by
  unfold State.endAuth
  try dsimp only
  repeat' first
    | (with_reducible first
        | assumption | apply State.note_sound | apply State.dropAuth_sound)
    | split
    | with_reducible intro _

theorem State.slotEmptied_sound {s : State} {c : Nat} (hS : s.Sound Q) :
    (State.slotEmptied s c).Sound Q := by
  unfold State.slotEmptied
  try dsimp only
  repeat' first
    | (with_reducible first
        | assumption | apply State.endAuth_sound)
    | split
    | with_reducible intro _

/-! ### Machine/Hbm.lean -/

theorem State.setBank_sound {s : State} {b : BankRepair} (hS : s.Sound Q) :
    (State.setBank s b).Sound Q := by
  unfold State.setBank
  try dsimp only
  repeat' first
    | (with_reducible first
        | assumption)
    | split | fail_if_no_progress with_reducible refine State.Sound.rest ?_ rfl
    | with_reducible intro _

theorem State.postSpares_sound {s : State} {stack : Nat} (hS : s.Sound Q) :
    (State.postSpares s stack).Sound Q := by
  unfold State.postSpares
  try dsimp only
  repeat' first
    | (with_reducible first
        | assumption | apply State.setF_sound)
    | split | with_reducible apply State.Sound.foldl | with_reducible apply State.Sound.foldl_fst
    | with_reducible intro _

theorem State.hbmStep_sound {s : State} {stack : Nat} {h : Nat} {sev : Nat} {action : Nat} (hS : s.Sound Q) :
    (State.hbmStep s stack h sev action).Sound Q := by
  unfold State.hbmStep
  try dsimp only
  repeat' first
    | (with_reducible first
        | assumption | apply State.bump_sound | apply State.logErr_sound)
    | split
    | with_reducible intro _

theorem State.hbmLast_sound {s : State} {stack : Nat} {kind : Nat} {pc : Nat} {bank : Nat} {row : Nat} {h : Nat} (hS : s.Sound Q) :
    (State.hbmLast s stack kind pc bank row h).Sound Q := by
  unfold State.hbmLast
  try dsimp only
  repeat' first
    | (with_reducible first
        | assumption | apply State.wr_sound)
    | split
    | with_reducible intro _

theorem State.dropMoves_sound {s : State} {c : Nat} {p : Nat → Bool} (hS : s.Sound Q) :
    (State.dropMoves s c p).Sound Q := by
  unfold State.dropMoves
  try dsimp only
  repeat' first
    | (with_reducible first
        | assumption | apply State.abandon_sound)
    | split
    | with_reducible intro _

theorem State.markRehome_sound {s : State} {p : Nat → Bool} {how : Nat} (hS : s.Sound Q) :
    (State.markRehome s p how).Sound Q := by
  unfold State.markRehome
  try dsimp only
  repeat' first
    | (with_reducible first
        | assumption | apply State.dropMoves_sound | apply State.updFrame_sound)
    | split | with_reducible apply State.Sound.foldl | with_reducible apply State.Sound.foldl_fst
    | with_reducible intro _

theorem State.noteFailed_sound {s : State} {h : Nat} (hS : s.Sound Q) :
    (State.noteFailed s h).Sound Q := by
  unfold State.noteFailed
  try dsimp only
  repeat' first
    | (with_reducible first
        | assumption | apply State.updFrame_sound)
    | split | with_reducible apply State.Sound.foldl | with_reducible apply State.Sound.foldl_fst
    | with_reducible intro _

theorem State.offlineStack_sound {s : State} {stack : Nat} {readable : Bool} (hS : s.Sound Q) :
    (State.offlineStack s stack readable).Sound Q := by
  unfold State.offlineStack
  try dsimp only
  repeat' first
    | (with_reducible first
        | assumption | apply State.setFs_sound | apply State.setF_sound | apply State.markRehome_sound | apply State.dropMoves_sound
        | apply State.updFrame_sound | apply State.updChase_sound | apply State.hbmStep_sound | apply State.poisonRun_sound)
    | split | with_reducible apply State.Sound.foldl | with_reducible apply State.Sound.foldl_fst
    | with_reducible intro _

theorem State.offlinePc_sound {s : State} {stack : Nat} {pc : Nat} (hS : s.Sound Q) :
    (State.offlinePc s stack pc).Sound Q := by
  unfold State.offlinePc
  try dsimp only
  repeat' first
    | (with_reducible first
        | assumption | apply State.setFs_sound | apply State.hbmStep_sound | apply State.markRehome_sound | apply State.hbmLast_sound
        | apply State.offlineStack_sound)
    | split
    | with_reducible intro _

theorem State.retireRow_sound {s : State} {stack : Nat} {pc : Nat} {bank : Nat} {row : Nat} (hS : s.Sound Q) :
    (State.retireRow s stack pc bank row).Sound Q := by
  unfold State.retireRow
  try dsimp only
  repeat' first
    | (with_reducible first
        | assumption | apply State.offlinePc_sound | apply State.hbmStep_sound | apply State.markRehome_sound | apply State.hbmLast_sound
        | apply State.setF_sound)
    | split | with_reducible apply State.Sound.foldl | with_reducible apply State.Sound.foldl_fst | fail_if_no_progress with_reducible refine State.Sound.rest ?_ rfl
    | with_reducible intro _

theorem State.repairRow_sound {s : State} {stack : Nat} {pc : Nat} {bank : Nat} {row : Nat} (hS : s.Sound Q) :
    (State.repairRow s stack pc bank row).Sound Q := by
  unfold State.repairRow
  try dsimp only
  repeat' first
    | (with_reducible first
        | assumption | apply State.hbmLast_sound | apply State.bump_sound | apply State.postSpares_sound | apply State.setBank_sound
        | apply State.hbmStep_sound | apply State.retireRow_sound)
    | split | fail_if_no_progress with_reducible refine State.Sound.rest ?_ rfl
    | with_reducible intro _

theorem State.eccCorrected_sound {s : State} {h : Nat} (hS : s.Sound Q) :
    (State.eccCorrected s h).Sound Q := by
  unfold State.eccCorrected
  try dsimp only
  repeat' first
    | (with_reducible first
        | assumption | apply State.bump_sound | apply State.repairRow_sound)
    | split | fail_if_no_progress with_reducible refine State.Sound.rest ?_ rfl
    | with_reducible intro _

theorem State.eccFinds_sound {s : State} {h : Nat} {found : EccResult} (hS : s.Sound Q) :
    (State.eccFinds s h found).Sound Q := by
  unfold State.eccFinds
  try dsimp only
  repeat' first
    | (with_reducible first
        | assumption | apply State.eccCorrected_sound | apply State.freshBytes_sound
        | (refine State.freshBytes_sound_eq (he := by assumption) ?_) | apply State.rawWrite_sound | apply State.hbmLast_sound
        | apply State.poisonRun_sound | apply State.noteFailed_sound | apply State.bump_sound | apply State.repairRow_sound
        | apply State.markRehome_sound | apply State.hbmStep_sound)
    | split
    | with_reducible intro _

theorem State.eccSector_sound {s : State} {h : Nat} {k : Nat} {errs : List SymErr} (hS : s.Sound Q) :
    (State.eccSector s h k errs).Sound Q := by
  unfold State.eccSector
  try dsimp only
  repeat' first
    | (with_reducible first
        | assumption | apply State.eccFinds_sound | apply State.fresh_sound | (refine State.fresh_sound_eq (he := by assumption) ?_))
    | split
    | with_reducible intro _

theorem State.parityFails_sound {s : State} {h : Nat} {fails : Nat} (hS : s.Sound Q) :
    (State.parityFails s h fails).Sound Q := by
  unfold State.parityFails
  try dsimp only
  repeat' first
    | (with_reducible first
        | assumption | apply State.bump_sound)
    | split | fail_if_no_progress with_reducible refine State.Sound.rest ?_ rfl
    | with_reducible intro _

theorem State.hbmXfer_sound {s : State} {x : HbmXfer} (hS : s.Sound Q) :
    (State.hbmXfer s x).Sound Q := by
  unfold State.hbmXfer
  try dsimp only
  repeat' first
    | (with_reducible first
        | assumption | apply State.parityFails_sound | apply State.eccSector_sound)
    | split | fail_if_no_progress with_reducible refine State.Sound.rest ?_ rfl
    | with_reducible intro _

theorem State.eccSecond_sound {s : State} {h : Nat} {fail : XferFail} {errs : List SymErr} (hS : s.Sound Q) :
    (State.eccSecond s h fail errs).Sound Q := by
  unfold State.eccSecond
  try dsimp only
  repeat' first
    | (with_reducible first
        | assumption | apply State.eccSector_sound)
    | split | fail_if_no_progress with_reducible refine State.Sound.rest ?_ rfl
    | with_reducible intro _

theorem State.xfersEnd_sound {s : State} (hS : s.Sound Q) :
    (State.xfersEnd s).Sound Q := by
  unfold State.xfersEnd
  try dsimp only
  repeat' first
    | (with_reducible first
        | assumption | apply State.poisonRun_sound | apply State.mbToDram_sound)
    | split | with_reducible apply State.Sound.foldl | with_reducible apply State.Sound.foldl_fst | fail_if_no_progress with_reducible refine State.Sound.rest ?_ rfl
    | with_reducible intro _

theorem State.xfersBegin_sound {s : State} (hS : s.Sound Q) :
    (State.xfersBegin s).Sound Q := by
  unfold State.xfersBegin
  try dsimp only
  repeat' first
    | (with_reducible first
        | assumption)
    | split | fail_if_no_progress with_reducible refine State.Sound.rest ?_ rfl
    | with_reducible intro _

theorem State.xfersStart_sound {s : State} {l : List HbmXfer} (hS : s.Sound Q) :
    (State.xfersStart s l).Sound Q := by
  unfold State.xfersStart
  try dsimp only
  repeat' first
    | (with_reducible first
        | assumption | apply State.hbmXfer_sound | apply State.xfersBegin_sound)
    | split | with_reducible apply State.Sound.foldl | with_reducible apply State.Sound.foldl_fst
    | with_reducible intro _

theorem State.xfersStop_sound {s : State} {l : List HbmXfer} (hS : s.Sound Q) :
    (State.xfersStop s l).Sound Q := by
  unfold State.xfersStop
  try dsimp only
  repeat' first
    | (with_reducible first
        | assumption | apply State.xfersEnd_sound)
    | split
    | with_reducible intro _

theorem State.withXfers_sound {s : State} {l : List HbmXfer} {f : State → State} (hS : s.Sound Q) (hSf : ∀ (y0 : State), y0.Sound Q → (f y0).Sound Q) :
    (State.withXfers s l f).Sound Q := by
  unfold State.withXfers
  try dsimp only
  repeat' first
    | (with_reducible first
        | assumption | apply hSf | apply State.xfersStop_sound | apply State.xfersStart_sound)
    | split
    | with_reducible intro _

theorem execScrub_sound {stack : Nat} {pc : Nat} {line : Nat} {sector : Nat} {found : List SymErr} {fails : XferFail} {s : State} (hS : s.Sound Q) :
    AnsSound Q (execScrub stack pc line sector found fails s) := by
  unfold execScrub
  try dsimp only
  repeat' first
    | (with_reducible first
        | assumption | exact ansSound_fault | apply ansSound_next | apply State.ifB_sound | apply State.setF_sound
        | apply State.withXfers_sound)
    | split
    | with_reducible intro _

theorem execStackOffline_sound {stack : Nat} {s : State} (hS : s.Sound Q) :
    AnsSound Q (execStackOffline stack s) := by
  unfold execStackOffline
  try dsimp only
  repeat' first
    | (with_reducible first
        | assumption | exact ansSound_fault | apply ansSound_next | apply State.ifB_sound | apply State.offlineStack_sound)
    | split
    | with_reducible intro _

theorem execHbmTemp_sound {stack : Nat} {temp : Nat} {s : State} (hS : s.Sound Q) :
    AnsSound Q (execHbmTemp stack temp s) := by
  unfold execHbmTemp
  try dsimp only
  repeat' first
    | (with_reducible first
        | assumption | exact ansSound_fault | apply ansSound_next | apply State.ifB_sound | apply State.setFs_sound
        | apply State.eventRas_sound)
    | split
    | with_reducible intro _

theorem State.maint_sound {s : State} {stack : Nat} {op : Nat} {pc : Nat} {bank : Nat} {row : Nat} {value : Nat} {f : State → State} (hS : s.Sound Q) (hSf : ∀ (y0 : State), y0.Sound Q → (f y0).Sound Q) :
    (State.maint s stack op pc bank row value f).Sound Q := by
  unfold State.maint
  try dsimp only
  repeat' first
    | (with_reducible first
        | assumption | apply hSf | apply State.wr_sound | apply State.noteMaint_sound | apply State.refuseRw2p_sound)
    | split
    | with_reducible intro _

theorem State.readMap_sound {s : State} {stack : Nat} {pc : Nat} {bank : Nat} (hS : s.Sound Q) :
    (State.readMap s stack pc bank).Sound Q := by
  unfold State.readMap
  try dsimp only
  repeat' first
    | (with_reducible first
        | assumption | apply State.setFs_sound)
    | split | with_reducible apply State.Sound.foldl | with_reducible apply State.Sound.foldl_fst
    | with_reducible intro _

theorem State.testPc_sound {s : State} {stack : Nat} {pc : Nat} {pass : Bool} (hS : s.Sound Q) :
    (State.testPc s stack pc pass).Sound Q := by
  unfold State.testPc
  try dsimp only
  repeat' first
    | (with_reducible first
        | assumption | apply State.setF_sound)
    | split | fail_if_no_progress with_reducible refine State.Sound.rest ?_ rfl
    | with_reducible intro _

theorem State.returnPc_sound {s : State} {stack : Nat} {pc : Nat} (hS : s.Sound Q) :
    (State.returnPc s stack pc).Sound Q := by
  unfold State.returnPc
  try dsimp only
  repeat' first
    | (with_reducible first
        | assumption | apply State.setF_sound)
    | split | fail_if_no_progress with_reducible refine State.Sound.rest ?_ rfl
    | with_reducible intro _

theorem execReadMap_sound {rid : Nat} {stack : Nat} {pc : Nat} {bank : Nat} {row : Nat} {s : State} (hS : s.Sound Q) :
    AnsSound Q (execReadMap rid stack pc bank row s) := by
  unfold execReadMap
  try dsimp only
  repeat' first
    | (with_reducible first
        | assumption | exact ansSound_fault | apply ansSound_next | apply State.regWrite_sound | apply State.maint_sound
        | apply State.readMap_sound)
    | split
    | with_reducible intro _

theorem execForceRepair_sound {rid : Nat} {stack : Nat} {pc : Nat} {bank : Nat} {row : Nat} {s : State} (hS : s.Sound Q) :
    AnsSound Q (execForceRepair rid stack pc bank row s) := by
  unfold execForceRepair
  try dsimp only
  repeat' first
    | (with_reducible first
        | assumption | exact ansSound_fault | apply ansSound_next | apply State.regWrite_sound | apply State.maint_sound
        | apply State.repairRow_sound)
    | split
    | with_reducible intro _

theorem execTestPc_sound {rid : Nat} {stack : Nat} {pc : Nat} {bank : Nat} {row : Nat} {pass : Bool} {s : State} (hS : s.Sound Q) :
    AnsSound Q (execTestPc rid stack pc bank row pass s) := by
  unfold execTestPc
  try dsimp only
  repeat' first
    | (with_reducible first
        | assumption | exact ansSound_fault | apply ansSound_next | apply State.regWrite_sound | apply State.maint_sound
        | apply State.testPc_sound)
    | split
    | with_reducible intro _

theorem execReturnPc_sound {rid : Nat} {stack : Nat} {pc : Nat} {bank : Nat} {row : Nat} {s : State} (hS : s.Sound Q) :
    AnsSound Q (execReturnPc rid stack pc bank row s) := by
  unfold execReturnPc
  try dsimp only
  repeat' first
    | (with_reducible first
        | assumption | exact ansSound_fault | apply ansSound_next | apply State.regWrite_sound | apply State.maint_sound
        | apply State.returnPc_sound)
    | split
    | with_reducible intro _

/-! ### Machine/Ras.lean -/

theorem State.logCorrected_sound {s : State} {code : Nat} {level : Nat} {whereW : Nat} {action : Nat} {slot : Option Nat} (hS : s.Sound Q) :
    (State.logCorrected s code level whereW action slot).Sound Q := by
  unfold State.logCorrected
  try dsimp only
  repeat' first
    | (with_reducible first
        | assumption | apply State.logErr_sound)
    | split | fail_if_no_progress with_reducible refine State.Sound.rest ?_ rfl
    | with_reducible intro _

theorem State.logUnit_sound {s : State} {code : Nat} {sev : Nat} {level : Nat} {whereW : Nat} {action : Nat} {slot : Option Nat} {detail : Nat} (hS : s.Sound Q) :
    (State.logUnit s code sev level whereW action slot detail).Sound Q := by
  unfold State.logUnit
  try dsimp only
  repeat' first
    | (with_reducible first
        | assumption | apply State.logErr_sound)
    | split
    | with_reducible intro _

theorem State.dropSpare_sound {s : State} {p : Store → Bool} (hS : s.Sound Q) :
    (State.dropSpare s p).Sound Q := by
  unfold State.dropSpare
  try dsimp only
  repeat' first
    | (with_reducible first
        | assumption | apply State.dropStores_sound)
    | split | with_reducible apply State.Sound.foldl | with_reducible apply State.Sound.foldl_fst
    | with_reducible intro _

theorem State.savePoint_sound {s : State} {c : Nat} (hS : s.Sound Q) :
    (State.savePoint s c).Sound Q := by
  unfold State.savePoint
  try dsimp only
  repeat' first
    | (with_reducible first
        | assumption | apply State.updChase_sound)
    | split
    | with_reducible intro _

theorem State.dropStipple_sound {s : State} {c : Nat} (hS : s.Sound Q) :
    (State.dropStipple s c).Sound Q := by
  unfold State.dropStipple
  try dsimp only
  repeat' first
    | (with_reducible first
        | assumption)
    | split | fail_if_no_progress with_reducible refine State.Sound.rest ?_ rfl
    | with_reducible intro _

theorem State.restorePoint_sound {s : State} {c : Nat} (hS : s.Sound Q) :
    (State.restorePoint s c).Sound Q := by
  unfold State.restorePoint
  try dsimp only
  repeat' first
    | (with_reducible first
        | assumption | apply State.updChase_sound | apply State.dropStipple_sound | apply State.dropGroups_sound
        | apply State.dropPlateWaits_sound | apply State.returnLoan_sound)
    | split
    | with_reducible intro _

theorem State.retryStroke_sound {s : State} {c : Nat} (hS : s.Sound Q) :
    (State.retryStroke s c).Sound Q := by
  unfold State.retryStroke
  try dsimp only
  repeat' first
    | (with_reducible first
        | assumption | apply State.bump_sound | apply State.updChase_sound | apply State.restorePoint_sound
        | apply State.logCorrected_sound | apply State.reachPlate_sound | apply State.setF_sound)
    | split
    | with_reducible intro _

theorem State.retryOrFault_sound {s : State} {c : Nat} (hS : s.Sound Q) :
    (State.retryOrFault s c).Sound Q := by
  unfold State.retryOrFault
  try dsimp only
  repeat' first
    | (with_reducible first
        | assumption | apply State.retryStroke_sound | apply State.faultChase_sound | apply State.logUnit_sound)
    | split
    | with_reducible intro _

theorem State.hardPoison_sound {s : State} {c : Nat} (hS : s.Sound Q) :
    (State.hardPoison s c).Sound Q := by
  unfold State.hardPoison
  try dsimp only
  repeat' first
    | (with_reducible first
        | assumption | apply State.retryOrFault_sound | apply State.updChase_sound)
    | split
    | with_reducible intro _

theorem State.abandonStroke_sound {s : State} {c : Nat} (hS : s.Sound Q) :
    (State.abandonStroke s c).Sound Q := by
  unfold State.abandonStroke
  try dsimp only
  repeat' first
    | (with_reducible first
        | assumption | apply State.endWork_sound | apply State.updChase_sound | apply State.dropGroups_sound
        | apply State.dropPlateWaits_sound | apply State.returnLoan_sound)
    | split
    | with_reducible intro _

theorem State.loseRegion_sound {s : State} {k : Nat} (hS : s.Sound Q) :
    (State.loseRegion s k).Sound Q := by
  unfold State.loseRegion
  try dsimp only
  repeat' first
    | (with_reducible first
        | assumption | apply State.setFs_sound | apply State.setF_sound | apply State.logUnit_sound | apply State.loseHolder_sound)
    | split
    | with_reducible intro _

theorem State.noteFail_sound {s : State} {u : PhysUnit} {slot : Option Nat} (hS : s.Sound Q) :
    (State.noteFail s u slot).Sound Q := by
  unfold State.noteFail
  try dsimp only
  repeat' first
    | (with_reducible first
        | assumption | apply State.bump_sound | apply State.logUnit_sound)
    | split | fail_if_no_progress with_reducible refine State.Sound.rest ?_ rfl
    | with_reducible intro _

theorem State.spareIn_sound {s : State} {level : Nat} {p : Nat} {b : Nat} {c : Nat} {slot : Option Nat} (hS : s.Sound Q) :
    (State.spareIn s level p b c slot).Sound Q := by
  unfold State.spareIn
  try dsimp only
  repeat' first
    | (with_reducible first
        | assumption | apply State.logUnit_sound | apply State.bump_sound)
    | split
    | with_reducible intro _

theorem State.prepare_sound {s : State} {q : Subst} (hS : s.Sound Q) :
    (State.prepare s q).Sound Q := by
  unfold State.prepare
  try dsimp only
  repeat' first
    | (with_reducible first
        | assumption | apply State.dropSpare_sound | apply State.abandonStroke_sound)
    | split | fail_if_no_progress with_reducible refine State.Sound.rest ?_ rfl
    | with_reducible intro _

theorem State.failRegion_sound {s : State} {p : Nat} {slot : Option Nat} (hS : s.Sound Q) :
    (State.failRegion s p slot).Sound Q := by
  unfold State.failRegion
  try dsimp only
  repeat' first
    | (with_reducible first
        | assumption | apply State.noteFail_sound | apply State.prepare_sound | apply State.loseRegion_sound)
    | split
    | with_reducible intro _

theorem State.failBlock_sound {s : State} {p : Nat} {b : Nat} {slot : Option Nat} (hS : s.Sound Q) :
    (State.failBlock s p b slot).Sound Q := by
  unfold State.failBlock
  try dsimp only
  repeat' first
    | (with_reducible first
        | assumption | apply State.noteFail_sound | apply State.prepare_sound | apply State.failRegion_sound)
    | split
    | with_reducible intro _

theorem State.failCell_sound {s : State} {p : Nat} {b : Nat} {c : Nat} {slot : Option Nat} (hS : s.Sound Q) :
    (State.failCell s p b c slot).Sound Q := by
  unfold State.failCell
  try dsimp only
  repeat' first
    | (with_reducible first
        | assumption | apply State.noteFail_sound | apply State.prepare_sound | apply State.failBlock_sound)
    | split
    | with_reducible intro _

theorem State.failCol_sound {s : State} {p : Nat} {b : Nat} {c : Nat} {col : Nat} {slot : Option Nat} (hS : s.Sound Q) :
    (State.failCol s p b c col slot).1.Sound Q := by
  unfold State.failCol
  try dsimp only
  repeat' first
    | (with_reducible first
        | assumption | apply State.noteFail_sound | apply State.spareIn_sound | apply State.failCell_sound)
    | split | fail_if_no_progress with_reducible refine State.Sound.rest ?_ rfl
    | with_reducible intro _

theorem State.failCol_sound_eq {s : State} {p : Nat} {b : Nat} {c : Nat} {col : Nat} {slot : Option Nat} (hS : s.Sound Q) {u : State} {z : Bool} (he : State.failCol s p b c col slot = (u, z)) :
    u.Sound Q := by
  have := State.failCol_sound hS (s := s) (p := p) (b := b) (c := c) (col := col) (slot := slot)
  rwa [he] at this

theorem State.failUnit_sound {s : State} {u : PhysUnit} {slot : Option Nat} (hS : s.Sound Q) :
    (State.failUnit s u slot).Sound Q := by
  unfold State.failUnit
  try dsimp only
  repeat' first
    | (with_reducible first
        | assumption | apply State.failCol_sound | (refine State.failCol_sound_eq (he := by assumption) ?_) | apply State.failCell_sound
        | apply State.failBlock_sound | apply State.failRegion_sound)
    | split
    | with_reducible intro _

theorem State.evacuateFrame_sound {s : State} {c : Nat} {f : Nat} {e : FrameEnt} (hS : s.Sound Q) :
    (State.evacuateFrame s c f e).Sound Q := by
  unfold State.evacuateFrame
  try dsimp only
  repeat' first
    | (with_reducible first
        | assumption | apply State.updFrame_sound | apply State.dropChip_sound | apply State.demote_sound)
    | split | fail_if_no_progress with_reducible refine State.Sound.rest ?_ rfl
    | with_reducible intro _

theorem State.evacuate_sound {s : State} {q : Subst} (hS : s.Sound Q) :
    (State.evacuate s q).Sound Q := by
  unfold State.evacuate
  try dsimp only
  repeat' first
    | (with_reducible first
        | assumption | apply State.evacuateFrame_sound | apply State.dropStores_sound)
    | split | with_reducible apply State.Sound.foldl | with_reducible apply State.Sound.foldl_fst
    | with_reducible intro _

theorem State.carryWays_sound {s : State} {k : Nat} {p : Nat} {q : Nat} (hS : s.Sound Q) :
    (State.carryWays s k p q).Sound Q := by
  unfold State.carryWays
  try dsimp only
  repeat' first
    | (with_reducible first
        | assumption | apply State.wr_sound)
    | split | fail_if_no_progress with_reducible refine State.Sound.rest ?_ rfl
    | with_reducible intro _

theorem State.commitSubst_sound {s : State} {q : Subst} (hS : s.Sound Q) :
    (State.commitSubst s q).Sound Q := by
  unfold State.commitSubst
  try dsimp only
  repeat' first
    | (with_reducible first
        | assumption | apply State.evacuate_sound | apply State.spareIn_sound | apply State.carryWays_sound | apply State.setF_sound)
    | split | fail_if_no_progress with_reducible refine State.Sound.rest ?_ rfl
    | with_reducible intro _

theorem State.commitSubsts_sound {s : State} {ps : List Nat} (hS : s.Sound Q) :
    (State.commitSubsts s ps).Sound Q := by
  unfold State.commitSubsts
  try dsimp only
  repeat' first
    | (with_reducible first
        | assumption | apply State.commitSubst_sound)
    | split | with_reducible apply State.Sound.foldl | with_reducible apply State.Sound.foldl_fst
    | with_reducible intro _

theorem State.fatal_sound {s : State} {code : Nat} {whereW : Nat} (hS : s.Sound Q) :
    (State.fatal s code whereW).Sound Q := by
  unfold State.fatal
  try dsimp only
  repeat' first
    | (with_reducible first
        | assumption | apply State.logErr_sound | apply State.setF_sound | apply State.faultChase_sound)
    | split | with_reducible apply State.Sound.foldl | with_reducible apply State.Sound.foldl_fst
    | with_reducible intro _

theorem State.restartGroups_sound {s : State} {cell : CellId} (hS : s.Sound Q) :
    (State.restartGroups s cell).Sound Q := by
  unfold State.restartGroups
  try dsimp only
  repeat' first
    | (with_reducible first
        | assumption | apply State.hardPoison_sound)
    | split | with_reducible apply State.Sound.foldl | with_reducible apply State.Sound.foldl_fst | fail_if_no_progress with_reducible refine State.Sound.rest ?_ rfl
    | with_reducible intro _

theorem State.columnFails_sound {s : State} {cell : CellId} {col : Nat} {slot : Nat} (hS : s.Sound Q) :
    (State.columnFails s cell col slot).Sound Q := by
  unfold State.columnFails
  try dsimp only
  repeat' first
    | (with_reducible first
        | assumption | apply State.logUnit_sound | apply State.restartGroups_sound | apply State.failCol_sound
        | (refine State.failCol_sound_eq (he := by assumption) ?_))
    | split
    | with_reducible intro _

theorem State.transient_sound {s : State} {cell : CellId} {col : Nat} {slot : Nat} (hS : s.Sound Q) :
    (State.transient s cell col slot).Sound Q := by
  unfold State.transient
  try dsimp only
  repeat' first
    | (with_reducible first
        | assumption | apply State.logCorrected_sound | apply State.bump_sound | apply State.columnFails_sound)
    | split | fail_if_no_progress with_reducible refine State.Sound.rest ?_ rfl
    | with_reducible intro _

theorem State.seqFault_sound {s : State} {c : Nat} {k : Nat} (hS : s.Sound Q) :
    (State.seqFault s c k).Sound Q := by
  unfold State.seqFault
  try dsimp only
  repeat' first
    | (with_reducible first
        | assumption | apply State.failRegion_sound | apply State.logCorrected_sound | apply State.retryStroke_sound
        | apply State.faultChase_sound | apply State.logUnit_sound)
    | split | fail_if_no_progress with_reducible refine State.Sound.rest ?_ rfl
    | with_reducible intro _

theorem State.hwEvent_sound {s : State} {slot : Nat} {x0 : HwEvent} (hS : s.Sound Q) :
    (State.hwEvent s slot x0).Sound Q := by
  unfold State.hwEvent
  try dsimp only
  repeat' first
    | (with_reducible first
        | assumption | apply State.bump_sound | apply State.logCorrected_sound | apply State.logUnit_sound | apply State.updFrame_sound
        | apply State.chasePoisonRun_sound | apply State.restartGroups_sound | apply State.failUnit_sound | apply State.hardPoison_sound
        | apply State.fatal_sound | apply State.updChase_sound | apply State.columnFails_sound | apply State.transient_sound
        | apply State.seqFault_sound | apply State.hbmXfer_sound)
    | split | fail_if_no_progress with_reducible refine State.Sound.rest ?_ rfl
    | with_reducible intro _

theorem State.hwEvents_sound {s : State} {slot : Nat} {l : List HwEvent} (hS : s.Sound Q) :
    (State.hwEvents s slot l).Sound Q := by
  unfold State.hwEvents
  try dsimp only
  repeat' first
    | (with_reducible first
        | assumption | apply State.hwEvent_sound)
    | split | with_reducible apply State.Sound.foldl | with_reducible apply State.Sound.foldl_fst
    | with_reducible intro _

theorem execSeqWatchdog_sound {slot : Nat} {region : Nat} {s : State} (hS : s.Sound Q) :
    AnsSound Q (execSeqWatchdog slot region s) := by
  unfold execSeqWatchdog
  try dsimp only
  repeat' first
    | (with_reducible first
        | assumption | exact ansSound_fault | apply ansSound_next | apply State.ifB_sound | apply State.seqFault_sound)
    | split
    | with_reducible intro _

theorem execCoreRestart_sound {core : Nat} {s : State} (hS : s.Sound Q) :
    AnsSound Q (execCoreRestart core s) := by
  unfold execCoreRestart
  try dsimp only
  repeat' first
    | (with_reducible first
        | assumption | exact ansSound_fault | apply ansSound_next | apply State.ifB_sound | apply State.logCorrected_sound)
    | split | fail_if_no_progress with_reducible refine State.Sound.rest ?_ rfl
    | with_reducible intro _

theorem State.spareBad_sound {s : State} {e : Nat × Nat × Nat × Nat} (hS : s.Sound Q) :
    (State.spareBad s e).Sound Q := by
  unfold State.spareBad
  try dsimp only
  repeat' first
    | (with_reducible first
        | assumption | apply State.logUnit_sound | apply State.bump_sound | apply State.dropSpare_sound)
    | split | fail_if_no_progress with_reducible refine State.Sound.rest ?_ rfl
    | with_reducible intro _

theorem execSpareTest_sound {failing : List (Nat × Nat × Nat × Nat)} {s : State} (hS : s.Sound Q) :
    AnsSound Q (execSpareTest failing s) := by
  unfold execSpareTest
  try dsimp only
  repeat' first
    | (with_reducible first
        | assumption | exact ansSound_fault | apply ansSound_next | apply State.ifB_sound | apply State.spareBad_sound)
    | split | with_reducible apply State.Sound.foldl | with_reducible apply State.Sound.foldl_fst
    | with_reducible intro _

theorem execIdleRegionSubstitution_sound {p : Nat} {s : State} (hS : s.Sound Q) :
    AnsSound Q (execIdleRegionSubstitution p s) := by
  unfold execIdleRegionSubstitution
  try dsimp only
  repeat' first
    | (with_reducible first
        | assumption | exact ansSound_fault | apply ansSound_next | apply State.ifB_sound | apply State.commitSubsts_sound)
    | split
    | with_reducible intro _

end Sys2Proof.Machine
end

