-- ==== Sys2Proof/Laws/SoundMemory.lean ====
section
/-! SUPPORT. The operations of tickets, galleys, the colophon, HBM, the imposition and the caches keep the queue and the canonical form: one lemma per operation. -/

set_option Elab.async false

namespace Sys2Proof.Machine

set_option linter.unusedTactic false
set_option linter.unreachableTactic false

variable {Q : List Instr}

/-! ### Machine/Ticket.lean -/

theorem State.blockedAccess_sound {s : State} {page : Nat} (hS : s.Sound Q) :
    (State.blockedAccess s page).Sound Q := by
  unfold State.blockedAccess
  try dsimp only
  repeat' first
    | (with_reducible first
        | assumption | apply State.eventDma_sound | apply State.setF_sound | apply State.bump_sound)
    | split
    | with_reducible intro _

theorem State.noteHostLines_sound {s : State} {a : Nat} {n : Nat} (hS : s.Sound Q) :
    (State.noteHostLines s a n).Sound Q := by
  unfold State.noteHostLines
  try dsimp only
  repeat' first
    | (with_reducible first
        | assumption)
    | split | with_reducible apply State.Sound.foldl | with_reducible apply State.Sound.foldl_fst | fail_if_no_progress with_reducible refine State.Sound.rest ?_ rfl
    | with_reducible intro _

theorem State.hostGet_sound {s : State} {a : Nat} {n : Nat} (hS : s.Sound Q) :
    (State.hostGet s a n).1.Sound Q := by
  unfold State.hostGet
  try dsimp only
  repeat' first
    | (with_reducible first
        | assumption | apply State.blockedAccess_sound | apply State.noteHostLines_sound)
    | split
    | with_reducible intro _

theorem State.hostGet_sound_eq {s : State} {a : Nat} {n : Nat} (hS : s.Sound Q) {u : State} {z : Option Bytes} (he : State.hostGet s a n = (u, z)) :
    u.Sound Q := by
  have := State.hostGet_sound hS (s := s) (a := a) (n := n)
  rwa [he] at this

theorem State.hostPutPieces_sound {x0 : State} {x1 : List (Nat × Bytes)} (hSx0 : x0.Sound Q) :
    (State.hostPutPieces x0 x1).1.Sound Q := by
  induction x1 generalizing x0 with
  | nil => exact hSx0
  | cons p l ih =>
    simp only [State.hostPutPieces]
    split
    · exact ih (hSx0.withHostMem (wf_memPutRun _ _ hSx0.hostMem))
    · exact State.blockedAccess_sound hSx0

theorem State.hostPutPieces_sound_eq {x0 : State} {x1 : List (Nat × Bytes)} (hSx0 : x0.Sound Q) {u : State} {z : Bool} (he : State.hostPutPieces x0 x1 = (u, z)) :
    u.Sound Q := by
  have := State.hostPutPieces_sound hSx0 (x0 := x0) (x1 := x1)
  rwa [he] at this

theorem State.hostPut_sound {s : State} {a : Nat} {bs : Bytes} (hS : s.Sound Q) :
    (State.hostPut s a bs).1.Sound Q := by
  unfold State.hostPut
  try dsimp only
  repeat' first
    | (with_reducible first
        | assumption | apply State.hostPutPieces_sound | (refine State.hostPutPieces_sound_eq (he := by assumption) ?_))
    | split
    | with_reducible intro _

theorem State.hostPut_sound_eq {s : State} {a : Nat} {bs : Bytes} (hS : s.Sound Q) {u : State} {z : Bool} (he : State.hostPut s a bs = (u, z)) :
    u.Sound Q := by
  have := State.hostPut_sound hS (s := s) (a := a) (bs := bs)
  rwa [he] at this

theorem State.hostStores_sound {s : State} {l : List (Nat × Byte)} (hS : s.Sound Q) :
    (State.hostStores s l).Sound Q := by
  exact hS.withHostMem (wf_foldl _ _ (fun _ _ hm => wf_memPut _ _ hm) hS.hostMem)

theorem State.ticketAct_sound {s : State} {ring : Nat} {seq : Nat} {op : Nat} {f : Ticket → State → State} (hS : s.Sound Q) (hSf : ∀ (y0 : Ticket) (y1 : State), y1.Sound Q → (f y0 y1).Sound Q) :
    (State.ticketAct s ring seq op f).Sound Q := by
  unfold State.ticketAct
  try dsimp only
  repeat' first
    | (with_reducible first
        | assumption | apply hSf | apply State.finishTicket_sound | apply State.updTicket_sound)
    | split
    | with_reducible intro _

theorem State.done_sound {s : State} {t : Ticket} {status : Nat} {detail : Bytes} (hS : s.Sound Q) :
    (State.done s t status detail).Sound Q := by
  unfold State.done
  try dsimp only
  repeat' first
    | (with_reducible first
        | assumption | apply State.finishTicket_sound)
    | split
    | with_reducible intro _

theorem State.srcRead_sound {s : State} {t : Ticket} {space : Nat} {a : Nat} {n : Nat} (hS : s.Sound Q) :
    (State.srcRead s t space a n).1.Sound Q := by
  unfold State.srcRead
  try dsimp only
  repeat' first
    | (with_reducible first
        | assumption | apply State.hostGet_sound | (refine State.hostGet_sound_eq (he := by assumption) ?_) | apply State.noteDma_sound
        | apply State.cacheHa_sound)
    | split
    | with_reducible intro _

theorem State.srcRead_sound_eq {s : State} {t : Ticket} {space : Nat} {a : Nat} {n : Nat} (hS : s.Sound Q) {u : State} {z : Option (Bytes × List (Nat × Nat))} (he : State.srcRead s t space a n = (u, z)) :
    u.Sound Q := by
  have := State.srcRead_sound hS (s := s) (t := t) (space := space) (a := a) (n := n)
  rwa [he] at this

theorem State.withSource_sound {s : State} {t : Ticket} {n : Nat} {f : State → Bytes → List (Nat × Nat) → State} (hS : s.Sound Q) (hSf : ∀ (y0 : State) (y1 : Bytes) (y2 : List (Nat × Nat)), y0.Sound Q → (f y0 y1 y2).Sound Q) :
    (State.withSource s t n f).Sound Q := by
  unfold State.withSource
  try dsimp only
  repeat' first
    | (with_reducible first
        | assumption | apply hSf | apply State.srcRead_sound | (refine State.srcRead_sound_eq (he := by assumption) ?_)
        | apply State.done_sound)
    | split
    | with_reducible intro _

theorem State.ticketWrite_sound {s : State} {c : Nat} {x0 : List (Nat × Bytes)} (hS : s.Sound Q) :
    (State.ticketWrite s c x0).1.Sound Q := by
  induction x0 generalizing s with
  | nil => exact hS
  | cons a l ih =>
  simp only [State.ticketWrite]
  repeat' first
    | (with_reducible first
        | assumption | apply ih | apply State.chaseWrite_sound | (refine State.chaseWrite_sound_eq (he := by assumption) ?_) | apply State.bump_sound)
    | split
    | with_reducible intro _

theorem State.ticketWrite_sound_eq {s : State} {c : Nat} {x0 : List (Nat × Bytes)} (hS : s.Sound Q) {u : State} {z : Bool} (he : State.ticketWrite s c x0 = (u, z)) :
    u.Sound Q := by
  have := State.ticketWrite_sound hS (s := s) (c := c) (x0 := x0)
  rwa [he] at this

theorem State.deliver_sound {s : State} {t : Ticket} {dst : Nat} {bs : Bytes} {bad : List (Nat × Nat)} (hS : s.Sound Q) :
    (State.deliver s t dst bs bad).1.Sound Q := by
  unfold State.deliver
  try dsimp only
  repeat' first
    | (with_reducible first
        | assumption | apply State.updTicket_sound | apply State.hostPut_sound | (refine State.hostPut_sound_eq (he := by assumption) ?_)
        | apply State.devPoison_sound | apply State.devWrite_sound)
    | split | with_reducible apply State.Sound.foldl | with_reducible apply State.Sound.foldl_fst
    | with_reducible intro _

theorem State.deliver_sound_eq {s : State} {t : Ticket} {dst : Nat} {bs : Bytes} {bad : List (Nat × Nat)} (hS : s.Sound Q) {u : State} {z : Bool} (he : State.deliver s t dst bs bad = (u, z)) :
    u.Sound Q := by
  have := State.deliver_sound hS (s := s) (t := t) (dst := dst) (bs := bs) (bad := bad)
  rwa [he] at this

theorem State.drainResult_sound {s : State} {t : Ticket} (hS : s.Sound Q) :
    (State.drainResult s t).Sound Q := by
  unfold State.drainResult
  try dsimp only
  repeat' first
    | (with_reducible first
        | assumption | apply State.mbToDram_sound)
    | split | with_reducible apply State.Sound.foldl | with_reducible apply State.Sound.foldl_fst
    | with_reducible intro _

theorem execNop_sound {ring : Nat} {seq : Nat} {s : State} (hS : s.Sound Q) :
    AnsSound Q (execNop ring seq s) := by
  unfold execNop
  try dsimp only
  repeat' first
    | (with_reducible first
        | assumption | exact ansSound_fault | apply ansSound_next | apply State.ticketAct_sound | apply State.done_sound)
    | split
    | with_reducible intro _

/-! ### Machine/Galley.lean -/

theorem State.noteSwitch_sound {s : State} {c : Nat} {ordinal : Nat} {id : Nat} {num : Nat} (hS : s.Sound Q) :
    (State.noteSwitch s c ordinal id num).Sound Q := by
  unfold State.noteSwitch
  try dsimp only
  repeat' first
    | (with_reducible first
        | assumption | apply State.updChase_sound)
    | split
    | with_reducible intro _

theorem State.tellRoot_sound {s : State} {c : Nat} {id : Nat} {num : Nat} (hS : s.Sound Q) :
    (State.tellRoot s c id num).Sound Q := by
  unfold State.tellRoot
  try dsimp only
  repeat' first
    | (with_reducible first
        | assumption | apply State.noteSwitch_sound | apply State.sendCtl_sound)
    | split
    | with_reducible intro _

theorem State.offerSwitch_sound {s : State} {c : Nat} {id : Nat} (hS : s.Sound Q) :
    (State.offerSwitch s c id).Sound Q := by
  unfold State.offerSwitch
  try dsimp only
  repeat' first
    | (with_reducible first
        | assumption | apply State.tellRoot_sound)
    | split
    | with_reducible intro _

theorem State.commitIdle_sound {s : State} {c : Nat} {id : Nat} (hS : s.Sound Q) :
    (State.commitIdle s c id).Sound Q := by
  unfold State.commitIdle
  try dsimp only
  repeat' first
    | (with_reducible first
        | assumption | apply State.freeDraining_sound | apply State.commitSwitch_sound)
    | split
    | with_reducible intro _

theorem State.requestSwitch_sound {s : State} {c : Nat} {id : Nat} (hS : s.Sound Q) :
    (State.requestSwitch s c id).Sound Q := by
  unfold State.requestSwitch
  try dsimp only
  repeat' first
    | (with_reducible first
        | assumption | apply State.setGalley_sound | apply State.offerSwitch_sound | apply State.commitIdle_sound)
    | split
    | with_reducible intro _

theorem State.abortGalley_sound {s : State} {c : Nat} {id : Nat} (hS : s.Sound Q) :
    (State.abortGalley s c id).Sound Q := by
  unfold State.abortGalley
  try dsimp only
  repeat' first
    | (with_reducible first
        | assumption | apply State.updGalley_sound | apply State.dropIncoming_sound | apply State.tellRoot_sound)
    | split
    | with_reducible intro _

theorem State.readsEnded_sound {s : State} {t : Ticket} (hS : s.Sound Q) :
    (State.readsEnded s t).Sound Q := by
  unfold State.readsEnded
  try dsimp only
  repeat' first
    | (with_reducible first
        | assumption | apply State.freeDraining_sound)
    | split
    | with_reducible intro _

theorem State.loadDone_sound {s : State} {t : Ticket} {status : Nat} {count : Nat} {ranges : Nat} (hS : s.Sound Q) :
    (State.loadDone s t status count ranges).Sound Q := by
  unfold State.loadDone
  try dsimp only
  repeat' first
    | (with_reducible first
        | assumption | apply State.done_sound)
    | split
    | with_reducible intro _

theorem State.loadMaster_sound {s : State} {c : Nat} {id : Nat} {k : Nat} {v : Slug} (hS : s.Sound Q) :
    (State.loadMaster s c id k v).Sound Q := by
  unfold State.loadMaster
  try dsimp only
  repeat' first
    | (with_reducible first
        | assumption | apply State.updGalley_sound | apply State.masterSet_sound)
    | split | with_reducible apply State.Sound.foldl | with_reducible apply State.Sound.foldl_fst
    | with_reducible intro _

theorem State.loadRows_sound {s : State} {c : Nat} {id : Nat} {first : Nat} {master : Bool} {rows : Bytes} {exps : Bytes} {badR : List (Nat × Nat)} {badE : List (Nat × Nat)} {x0 : List Nat} {x1 : LoadRun} (hS : s.Sound Q) :
    (State.loadRows s c id first master rows exps badR badE x0 x1).1.Sound Q := by
  induction x0 generalizing s x1 with
  | nil => exact hS
  | cons a l ih =>
  simp only [State.loadRows]
  repeat' first
    | (with_reducible first
        | assumption | apply ih | apply State.putRow_sound | (refine State.putRow_sound_eq (he := by assumption) ?_) | apply State.loadMaster_sound)
    | split
    | with_reducible intro _

theorem State.loadRows_sound_eq {s : State} {c : Nat} {id : Nat} {first : Nat} {master : Bool} {rows : Bytes} {exps : Bytes} {badR : List (Nat × Nat)} {badE : List (Nat × Nat)} {x0 : List Nat} {x1 : LoadRun} (hS : s.Sound Q) {u : State} {z : LoadRun} (he : State.loadRows s c id first master rows exps badR badE x0 x1 = (u, z)) :
    u.Sound Q := by
  have := State.loadRows_sound hS (s := s) (c := c) (id := id) (first := first) (master := master) (rows := rows) (exps := exps) (badR := badR) (badE := badE) (x0 := x0) (x1 := x1)
  rwa [he] at this

theorem State.endLoad_sound {s : State} {t : Ticket} {b : Bytes} {a : LoadRun} (hS : s.Sound Q) :
    (State.endLoad s t b a).Sound Q := by
  unfold State.endLoad
  try dsimp only
  repeat' first
    | (with_reducible first
        | assumption | apply State.loadDone_sound | apply State.updGalley_sound)
    | split
    | with_reducible intro _

theorem State.withRows_sound {s : State} {t : Ticket} {b : Bytes} {r_ : Nat} {f : State → Bytes → Bytes → List (Nat × Nat) → List (Nat × Nat) → State} (hS : s.Sound Q) (hSf : ∀ (y0 : State) (y1 : Bytes) (y2 : Bytes) (y3 : List (Nat × Nat)) (y4 : List (Nat × Nat)), y0.Sound Q → (f y0 y1 y2 y3 y4).Sound Q) :
    (State.withRows s t b r_ f).Sound Q := by
  unfold State.withRows
  try dsimp only
  repeat' first
    | (with_reducible first
        | assumption | apply hSf | apply State.done_sound | apply State.srcRead_sound
        | (refine State.srcRead_sound_eq (he := by assumption) ?_))
    | split
    | with_reducible intro _

theorem State.loadGalley_sound {s : State} {t : Ticket} {b : Bytes} (hS : s.Sound Q) :
    (State.loadGalley s t b).Sound Q := by
  unfold State.loadGalley
  try dsimp only
  repeat' first
    | (with_reducible first
        | assumption | apply State.loadDone_sound | apply State.withRows_sound | apply State.updGalley_sound | apply State.loadRows_sound
        | (refine State.loadRows_sound_eq (he := by assumption) ?_) | apply State.endLoad_sound)
    | split
    | with_reducible intro _

theorem State.setBlank_sound {s : State} {t : Ticket} {b : Bytes} (hS : s.Sound Q) :
    (State.setBlank s t b).Sound Q := by
  unfold State.setBlank
  try dsimp only
  repeat' first
    | (with_reducible first
        | assumption | apply State.loadDone_sound | apply State.withRows_sound | apply State.endLoad_sound | apply State.putBlank_sound
        | apply State.updGalley_sound)
    | split
    | with_reducible intro _

theorem State.sealGalley_sound {s : State} {t : Ticket} {b : Bytes} (hS : s.Sound Q) :
    (State.sealGalley s t b).Sound Q := by
  unfold State.sealGalley
  try dsimp only
  repeat' first
    | (with_reducible first
        | assumption | apply State.loadDone_sound | apply State.updGalley_sound)
    | split
    | with_reducible intro _

theorem State.abortTicket_sound {s : State} {t : Ticket} {b : Bytes} (hS : s.Sound Q) :
    (State.abortTicket s t b).Sound Q := by
  unfold State.abortTicket
  try dsimp only
  repeat' first
    | (with_reducible first
        | assumption | apply State.loadDone_sound | apply State.abortGalley_sound)
    | split
    | with_reducible intro _

theorem State.galleyAct_sound {s : State} {ring : Nat} {seq : Nat} {p : Nat → Bool} {f : State → Ticket → Bytes → State} (hS : s.Sound Q) (hSf : ∀ (y0 : State) (y1 : Ticket) (y2 : Bytes), y0.Sound Q → (f y0 y1 y2).Sound Q) :
    (State.galleyAct s ring seq p f).Sound Q := by
  unfold State.galleyAct
  try dsimp only
  repeat' first
    | (with_reducible first
        | assumption | apply hSf | apply State.ticketAct_sound | apply State.withSource_sound)
    | split
    | with_reducible intro _

theorem execLoad_sound {ring : Nat} {x : TicketIn} {s : State} (hS : s.Sound Q) :
    AnsSound Q (execLoad ring x s) := by
  unfold execLoad
  try dsimp only
  repeat' first
    | (with_reducible first
        | assumption | exact ansSound_fault | apply ansSound_next | apply State.withXfers_sound | apply State.galleyAct_sound
        | apply State.loadGalley_sound)
    | split
    | with_reducible intro _

theorem execSetBlank_sound {ring : Nat} {seq : Nat} {s : State} (hS : s.Sound Q) :
    AnsSound Q (execSetBlank ring seq s) := by
  unfold execSetBlank
  try dsimp only
  repeat' first
    | (with_reducible first
        | assumption | exact ansSound_fault | apply ansSound_next | apply State.galleyAct_sound | apply State.setBlank_sound)
    | split
    | with_reducible intro _

theorem execSeal_sound {ring : Nat} {seq : Nat} {s : State} (hS : s.Sound Q) :
    AnsSound Q (execSeal ring seq s) := by
  unfold execSeal
  try dsimp only
  repeat' first
    | (with_reducible first
        | assumption | exact ansSound_fault | apply ansSound_next | apply State.galleyAct_sound | apply State.sealGalley_sound)
    | split
    | with_reducible intro _

theorem execAbort_sound {ring : Nat} {seq : Nat} {s : State} (hS : s.Sound Q) :
    AnsSound Q (execAbort ring seq s) := by
  unfold execAbort
  try dsimp only
  repeat' first
    | (with_reducible first
        | assumption | exact ansSound_fault | apply ansSound_next | apply State.galleyAct_sound | apply State.abortTicket_sound)
    | split
    | with_reducible intro _

theorem execGalleySwitch_sound {ring : Nat} {seq : Nat} {s : State} (hS : s.Sound Q) :
    AnsSound Q (execGalleySwitch ring seq s) := by
  unfold execGalleySwitch
  try dsimp only
  repeat' first
    | (with_reducible first
        | assumption | exact ansSound_fault | apply ansSound_next | apply State.ticketAct_sound | apply State.loadDone_sound
        | apply State.requestSwitch_sound)
    | split
    | with_reducible intro _

theorem execSwitchCommit_sound {slot : Nat} {galley : Nat} {s : State} (hS : s.Sound Q) :
    AnsSound Q (execSwitchCommit slot galley s) := by
  unfold execSwitchCommit
  try dsimp only
  repeat' first
    | (with_reducible first
        | assumption | exact ansSound_fault | apply ansSound_next | apply State.ifB_sound | apply State.commitSwitch_sound
        | apply State.commitIdle_sound | apply State.freeDraining_sound)
    | split
    | with_reducible intro _

theorem State.readGalley_sound {s : State} {t : Ticket} (hS : s.Sound Q) :
    (State.readGalley s t).Sound Q := by
  unfold State.readGalley
  try dsimp only
  repeat' first
    | (with_reducible first
        | assumption | apply State.done_sound | apply State.noteRow_sound | apply State.deliver_sound
        | (refine State.deliver_sound_eq (he := by assumption) ?_))
    | split | with_reducible apply State.Sound.foldl | with_reducible apply State.Sound.foldl_fst
    | with_reducible intro _

theorem execGalleyRead_sound {ring : Nat} {x : TicketIn} {s : State} (hS : s.Sound Q) :
    AnsSound Q (execGalleyRead ring x s) := by
  unfold execGalleyRead
  try dsimp only
  repeat' first
    | (with_reducible first
        | assumption | exact ansSound_fault | apply ansSound_next | apply State.withXfers_sound | apply State.ifB_sound
        | apply State.ticketAct_sound | apply State.readGalley_sound | apply State.readsEnded_sound)
    | split
    | with_reducible intro _

/-! ### Machine/Flags.lean -/

theorem State.raiseFlags_sound {s : State} {p : Nat} {flags : Nat} {slot : Nat} {plate : Nat} (hS : s.Sound Q) :
    (State.raiseFlags s p flags slot plate).Sound Q := by
  unfold State.raiseFlags
  try dsimp only
  repeat' first
    | (with_reducible first
        | assumption | apply State.setF_sound | apply State.setFs_sound)
    | split
    | with_reducible intro _

/-! ### Machine/Imposition.lean -/

theorem State.enterSlug_sound {s : State} {c : Nat} {e : SlugEnt} (hS : s.Sound Q) :
    (State.enterSlug s c e).Sound Q := by
  unfold State.enterSlug
  try dsimp only
  repeat' first
    | (with_reducible first
        | assumption | apply State.updChase_sound)
    | split | with_reducible apply State.Sound.foldl | with_reducible apply State.Sound.foldl_fst
    | with_reducible intro _

theorem State.enterSlugs_sound {s : State} {c : Nat} (hS : s.Sound Q) :
    (State.enterSlugs s c).Sound Q := by
  unfold State.enterSlugs
  try dsimp only
  repeat' first
    | (with_reducible first
        | assumption | apply State.enterSlug_sound)
    | split | with_reducible apply State.Sound.foldl | with_reducible apply State.Sound.foldl_fst
    | with_reducible intro _

theorem State.updateHeat_sound {s : State} {c : Nat} (hS : s.Sound Q) :
    (State.updateHeat s c).Sound Q := by
  unfold State.updateHeat
  try dsimp only
  repeat' first
    | (with_reducible first
        | assumption | apply State.updChase_sound | apply State.enterSlugs_sound)
    | split
    | with_reducible intro _

theorem State.clearSources_sound {s : State} {c : Nat} (hS : s.Sound Q) :
    (State.clearSources s c).Sound Q := by
  unfold State.clearSources
  try dsimp only
  repeat' first
    | (with_reducible first
        | assumption | apply State.updChase_sound)
    | split
    | with_reducible intro _

theorem State.countSlug_sound {s : State} {c : Nat} {galley : Nat} {slug : Nat} {n : Nat} {place : Nat × Nat × Nat} (hS : s.Sound Q) :
    (State.countSlug s c galley slug n place).Sound Q := by
  unfold State.countSlug
  try dsimp only
  repeat' first
    | (with_reducible first
        | assumption | apply State.updChase_sound)
    | split
    | with_reducible intro _

theorem State.dropNever_sound {s : State} {c : Nat} (hS : s.Sound Q) :
    (State.dropNever s c).Sound Q := by
  unfold State.dropNever
  try dsimp only
  repeat' first
    | (with_reducible first
        | assumption | apply State.abandon_sound | apply State.updChase_sound)
    | split
    | with_reducible intro _

theorem State.takeCtrl_sound {s : State} {c : Nat} (hS : s.Sound Q) :
    (State.takeCtrl s c).Sound Q := by
  unfold State.takeCtrl
  try dsimp only
  repeat' first
    | (with_reducible first
        | assumption | apply State.updChase_sound)
    | split
    | with_reducible intro _

theorem State.charge_sound {s : State} {c : Nat} {cost : Nat} (hS : s.Sound Q) :
    (State.charge s c cost).1.Sound Q := by
  unfold State.charge
  try dsimp only
  repeat' first
    | (with_reducible first
        | assumption | apply State.setF_sound)
    | split
    | with_reducible intro _

theorem State.charge_sound_eq {s : State} {c : Nat} {cost : Nat} (hS : s.Sound Q) {u : State} {z : Bool} (he : State.charge s c cost = (u, z)) :
    u.Sound Q := by
  have := State.charge_sound hS (s := s) (c := c) (cost := cost)
  rwa [he] at this

theorem State.spend_sound {s : State} {c : Nat} {ms : List MigrationEnt} (hS : s.Sound Q) :
    (State.spend s c ms).1.Sound Q := by
  unfold State.spend
  try dsimp only
  repeat' first
    | (with_reducible first
        | assumption | apply State.charge_sound | (refine State.charge_sound_eq (he := by assumption) ?_) | apply State.updChase_sound)
    | split
    | with_reducible intro _

theorem State.spend_sound_eq {s : State} {c : Nat} {ms : List MigrationEnt} (hS : s.Sound Q) {u : State} {z : Bool} (he : State.spend s c ms = (u, z)) :
    u.Sound Q := by
  have := State.spend_sound hS (s := s) (c := c) (ms := ms)
  rwa [he] at this

theorem State.bring_sound {s : State} {c : Nat} {t : Store} {n : Nat} {heat : Option Nat} {copy : Bool} {mk : Store → MigrationEnt} (hS : s.Sound Q) :
    (State.bring s c t n heat copy mk).1.Sound Q := by
  unfold State.bring
  try dsimp only
  repeat' first
    | (with_reducible first
        | assumption | apply State.spend_sound | (refine State.spend_sound_eq (he := by assumption) ?_))
    | split
    | with_reducible intro _

theorem State.bring_sound_eq {s : State} {c : Nat} {t : Store} {n : Nat} {heat : Option Nat} {copy : Bool} {mk : Store → MigrationEnt} (hS : s.Sound Q) {u : State} {z : Bool} (he : State.bring s c t n heat copy mk = (u, z)) :
    u.Sound Q := by
  have := State.bring_sound hS (s := s) (c := c) (t := t) (n := n) (heat := heat) (copy := copy) (mk := mk)
  rwa [he] at this

theorem State.promote_sound {s : State} {c : Nat} {f : Nat} {e : FrameEnt} {heat : Option Nat} {t : Store} (hS : s.Sound Q) :
    (State.promote s c f e heat t).1.Sound Q := by
  unfold State.promote
  try dsimp only
  repeat' first
    | (with_reducible first
        | assumption | apply State.bring_sound | (refine State.bring_sound_eq (he := by assumption) ?_))
    | split
    | with_reducible intro _

theorem State.promote_sound_eq {s : State} {c : Nat} {f : Nat} {e : FrameEnt} {heat : Option Nat} {t : Store} (hS : s.Sound Q) {u : State} {z : Bool} (he : State.promote s c f e heat t = (u, z)) :
    u.Sound Q := by
  have := State.promote_sound hS (s := s) (c := c) (f := f) (e := e) (heat := heat) (t := t)
  rwa [he] at this

theorem State.moveDie_sound {s : State} {c : Nat} {f : Nat} {layout : Nat} (hS : s.Sound Q) :
    (State.moveDie s c f layout).1.Sound Q := by
  unfold State.moveDie
  try dsimp only
  repeat' first
    | (with_reducible first
        | assumption | apply State.fresh_sound | (refine State.fresh_sound_eq (he := by assumption) ?_) | apply State.takeUnit_sound
        | (refine State.takeUnit_sound_eq (he := by assumption) ?_) | apply State.spend_sound
        | (refine State.spend_sound_eq (he := by assumption) ?_) | apply State.releaseBands_sound)
    | split
    | with_reducible intro _

theorem State.moveDie_sound_eq {s : State} {c : Nat} {f : Nat} {layout : Nat} (hS : s.Sound Q) {u : State} {z : Bool} (he : State.moveDie s c f layout = (u, z)) :
    u.Sound Q := by
  have := State.moveDie_sound hS (s := s) (c := c) (f := f) (layout := layout)
  rwa [he] at this

theorem State.pinFlag_sound {s : State} {c : Nat} {f : Nat} {b : Bool} (hS : s.Sound Q) :
    (State.pinFlag s c f b).Sound Q := by
  unfold State.pinFlag
  try dsimp only
  repeat' first
    | (with_reducible first
        | assumption | apply State.updFrame_sound)
    | split
    | with_reducible intro _

theorem State.pinShort_sound {s : State} {c : Nat} (hS : s.Sound Q) :
    (State.pinShort s c).Sound Q := by
  unfold State.pinShort
  try dsimp only
  repeat' first
    | (with_reducible first
        | assumption | apply State.bump_sound)
    | split
    | with_reducible intro _

theorem State.pinFrame_sound {s : State} {on : Bool} {c : Nat} {f : Nat} {h : HintRange} (hS : s.Sound Q) :
    (State.pinFrame s on c f h).1.Sound Q := by
  unfold State.pinFrame
  try dsimp only
  repeat' first
    | (with_reducible first
        | assumption | apply State.pinFlag_sound | apply State.pinShort_sound | apply State.promote_sound
        | (refine State.promote_sound_eq (he := by assumption) ?_))
    | split
    | with_reducible intro _

theorem State.pinFrame_sound_eq {s : State} {on : Bool} {c : Nat} {f : Nat} {h : HintRange} (hS : s.Sound Q) {u : State} {z : Bool} (he : State.pinFrame s on c f h = (u, z)) :
    u.Sound Q := by
  have := State.pinFrame_sound hS (s := s) (on := on) (c := c) (f := f) (h := h)
  rwa [he] at this

theorem State.bringPinned_sound {s : State} {c : Nat} {galley : Nat} {i : Nat} {n : Nat} {t : Store} (hS : s.Sound Q) :
    (State.bringPinned s c galley i n t).1.Sound Q := by
  unfold State.bringPinned
  try dsimp only
  repeat' first
    | (with_reducible first
        | assumption | apply State.bring_sound | (refine State.bring_sound_eq (he := by assumption) ?_) | apply State.updChase_sound)
    | split
    | with_reducible intro _

theorem State.bringPinned_sound_eq {s : State} {c : Nat} {galley : Nat} {i : Nat} {n : Nat} {t : Store} (hS : s.Sound Q) {u : State} {z : Bool} (he : State.bringPinned s c galley i n t = (u, z)) :
    u.Sound Q := by
  have := State.bringPinned_sound hS (s := s) (c := c) (galley := galley) (i := i) (n := n) (t := t)
  rwa [he] at this

theorem State.pinRow_sound {s : State} {on : Bool} {c : Nat} {galley : Nat} {num : Nat} {i : Nat} (hS : s.Sound Q) :
    (State.pinRow s on c galley num i).1.Sound Q := by
  unfold State.pinRow
  try dsimp only
  repeat' first
    | (with_reducible first
        | assumption | apply State.updChase_sound | apply State.pinShort_sound | apply State.bringPinned_sound
        | (refine State.bringPinned_sound_eq (he := by assumption) ?_))
    | split
    | with_reducible intro _

theorem State.pinRow_sound_eq {s : State} {on : Bool} {c : Nat} {galley : Nat} {num : Nat} {i : Nat} (hS : s.Sound Q) {u : State} {z : Bool} (he : State.pinRow s on c galley num i = (u, z)) :
    u.Sound Q := by
  have := State.pinRow_sound hS (s := s) (on := on) (c := c) (galley := galley) (num := num) (i := i)
  rwa [he] at this

theorem State.liftPins_sound {s : State} {c : Nat} (hS : s.Sound Q) :
    (State.liftPins s c).Sound Q := by
  unfold State.liftPins
  try dsimp only
  repeat' first
    | (with_reducible first
        | assumption | apply State.updChase_sound)
    | split
    | with_reducible intro _

theorem State.pinAll_sound {s : State} {on : Bool} {c : Nat} (hS : s.Sound Q) :
    (State.pinAll s on c).1.Sound Q := by
  unfold State.pinAll
  try dsimp only
  repeat' first
    | (with_reducible first
        | assumption | apply pinEach_sound | apply State.liftPins_sound | apply State.pinFrame_sound
        | (refine State.pinFrame_sound_eq (he := by assumption) ?_) | apply State.pinRow_sound
        | (refine State.pinRow_sound_eq (he := by assumption) ?_))
    | split
    | with_reducible intro _

theorem State.pinAll_sound_eq {s : State} {on : Bool} {c : Nat} (hS : s.Sound Q) {u : State} {z : Bool} (he : State.pinAll s on c = (u, z)) :
    u.Sound Q := by
  have := State.pinAll_sound hS (s := s) (on := on) (c := c)
  rwa [he] at this

theorem State.placeHub_sound {s : State} {c : Nat} {hop : Nat} {f : Nat} (hS : s.Sound Q) :
    (State.placeHub s c hop f).1.Sound Q := by
  unfold State.placeHub
  try dsimp only
  repeat' first
    | (with_reducible first
        | assumption | apply State.pinFlag_sound | apply State.promote_sound | (refine State.promote_sound_eq (he := by assumption) ?_)
        | apply State.spend_sound | (refine State.spend_sound_eq (he := by assumption) ?_) | apply State.moveDie_sound
        | (refine State.moveDie_sound_eq (he := by assumption) ?_))
    | split
    | with_reducible intro _

theorem State.placeHub_sound_eq {s : State} {c : Nat} {hop : Nat} {f : Nat} (hS : s.Sound Q) {u : State} {z : Bool} (he : State.placeHub s c hop f = (u, z)) :
    u.Sound Q := by
  have := State.placeHub_sound hS (s := s) (c := c) (hop := hop) (f := f)
  rwa [he] at this

theorem State.planPlaced_sound {s : State} {c : Nat} {key : List Nat} {n : Nat} (hS : s.Sound Q) :
    (State.planPlaced s c key n).Sound Q := by
  unfold State.planPlaced
  try dsimp only
  repeat' first
    | (with_reducible first
        | assumption | apply State.updChase_sound)
    | split
    | with_reducible intro _

theorem State.placeSegs_sound {s : State} {c : Nat} {key : List Nat} {x0 : List Nat} {x1 : List ((Nat × Nat × Nat) × Nat)} (hS : s.Sound Q) :
    (State.placeSegs s c key x0 x1).1.Sound Q := by
  induction x1 generalizing s x0 with
  | nil => exact hS
  | cons a l ih =>
  simp only [State.placeSegs]
  repeat' first
    | (with_reducible first
        | assumption | apply ih | apply State.decideEach_sound | apply State.placeHub_sound
        | (refine State.placeHub_sound_eq (he := by assumption) ?_) | apply State.planPlaced_sound)
    | split
    | with_reducible intro _

theorem State.placeSegs_sound_eq {s : State} {c : Nat} {key : List Nat} {x0 : List Nat} {x1 : List ((Nat × Nat × Nat) × Nat)} (hS : s.Sound Q) {u : State} {z : Bool} (he : State.placeSegs s c key x0 x1 = (u, z)) :
    u.Sound Q := by
  have := State.placeSegs_sound hS (s := s) (c := c) (key := key) (x0 := x0) (x1 := x1)
  rwa [he] at this

theorem State.placePlan_sound {s : State} {c : Nat} {p : SplitPlan} (hS : s.Sound Q) :
    (State.placePlan s c p).1.Sound Q := by
  unfold State.placePlan
  try dsimp only
  repeat' first
    | (with_reducible first
        | assumption | apply State.placeSegs_sound | (refine State.placeSegs_sound_eq (he := by assumption) ?_))
    | split
    | with_reducible intro _

theorem State.placePlan_sound_eq {s : State} {c : Nat} {p : SplitPlan} (hS : s.Sound Q) {u : State} {z : Bool} (he : State.placePlan s c p = (u, z)) :
    u.Sound Q := by
  have := State.placePlan_sound hS (s := s) (c := c) (p := p)
  rwa [he] at this

theorem State.nearMove_sound {s : State} {c : Nat} {key : Nat} {f : FrameEnt} (hS : s.Sound Q) :
    (State.nearMove s c key f).1.Sound Q := by
  unfold State.nearMove
  try dsimp only
  repeat' first
    | (with_reducible first
        | assumption | apply State.moveDie_sound | (refine State.moveDie_sound_eq (he := by assumption) ?_))
    | split
    | with_reducible intro _

theorem State.nearMove_sound_eq {s : State} {c : Nat} {key : Nat} {f : FrameEnt} (hS : s.Sound Q) {u : State} {z : Bool} (he : State.nearMove s c key f = (u, z)) :
    u.Sound Q := by
  have := State.nearMove_sound hS (s := s) (c := c) (key := key) (f := f)
  rwa [he] at this

theorem State.homeMove_sound {s : State} {c : Nat} {e : Candidate} {f : FrameEnt} {t : Store} (hS : s.Sound Q) :
    (State.homeMove s c e f t).1.Sound Q := by
  unfold State.homeMove
  try dsimp only
  repeat' first
    | (with_reducible first
        | assumption | apply State.promote_sound | (refine State.promote_sound_eq (he := by assumption) ?_) | apply State.nearMove_sound
        | (refine State.nearMove_sound_eq (he := by assumption) ?_))
    | split
    | with_reducible intro _

theorem State.homeMove_sound_eq {s : State} {c : Nat} {e : Candidate} {f : FrameEnt} {t : Store} (hS : s.Sound Q) {u : State} {z : Bool} (he : State.homeMove s c e f t = (u, z)) :
    u.Sound Q := by
  have := State.homeMove_sound hS (s := s) (c := c) (e := e) (f := f) (t := t)
  rwa [he] at this

theorem State.copyTo_sound {c : Nat} {e : Candidate} {f : FrameEnt} {s : State} {k : Nat} (hS : s.Sound Q) :
    (State.copyTo c e f s k).1.Sound Q := by
  unfold State.copyTo
  try dsimp only
  repeat' first
    | (with_reducible first
        | assumption | apply State.bring_sound | (refine State.bring_sound_eq (he := by assumption) ?_))
    | split
    | with_reducible intro _

theorem State.copyTo_sound_eq {c : Nat} {e : Candidate} {f : FrameEnt} {s : State} {k : Nat} (hS : s.Sound Q) {u : State} {z : Bool} (he : State.copyTo c e f s k = (u, z)) :
    u.Sound Q := by
  have := State.copyTo_sound hS (c := c) (e := e) (f := f) (s := s) (k := k)
  rwa [he] at this

theorem State.copyAll_sound {s : State} {c : Nat} {e : Candidate} {f : FrameEnt} (hS : s.Sound Q) :
    (State.copyAll s c e f).1.Sound Q := by
  unfold State.copyAll
  try dsimp only
  repeat' first
    | (with_reducible first
        | assumption | apply State.decideEach_sound | apply State.copyTo_sound | (refine State.copyTo_sound_eq (he := by assumption) ?_))
    | split
    | with_reducible intro _

theorem State.copyAll_sound_eq {s : State} {c : Nat} {e : Candidate} {f : FrameEnt} (hS : s.Sound Q) {u : State} {z : Bool} (he : State.copyAll s c e f = (u, z)) :
    u.Sound Q := by
  have := State.copyAll_sound hS (s := s) (c := c) (e := e) (f := f)
  rwa [he] at this

theorem State.copyMoves_sound {s : State} {c : Nat} {e : Candidate} {f : FrameEnt} (hS : s.Sound Q) :
    (State.copyMoves s c e f).1.Sound Q := by
  unfold State.copyMoves
  try dsimp only
  repeat' first
    | (with_reducible first
        | assumption | apply State.copyAll_sound | (refine State.copyAll_sound_eq (he := by assumption) ?_) | apply State.nearMove_sound
        | (refine State.nearMove_sound_eq (he := by assumption) ?_))
    | split
    | with_reducible intro _

theorem State.copyMoves_sound_eq {s : State} {c : Nat} {e : Candidate} {f : FrameEnt} (hS : s.Sound Q) {u : State} {z : Bool} (he : State.copyMoves s c e f = (u, z)) :
    u.Sound Q := by
  have := State.copyMoves_sound hS (s := s) (c := c) (e := e) (f := f)
  rwa [he] at this

theorem State.decideFrame_sound {s : State} {c : Nat} {e : Candidate} (hS : s.Sound Q) :
    (State.decideFrame s c e).1.Sound Q := by
  unfold State.decideFrame
  try dsimp only
  repeat' first
    | (with_reducible first
        | assumption | apply State.homeMove_sound | (refine State.homeMove_sound_eq (he := by assumption) ?_)
        | apply State.copyMoves_sound | (refine State.copyMoves_sound_eq (he := by assumption) ?_) | apply State.nearMove_sound
        | (refine State.nearMove_sound_eq (he := by assumption) ?_))
    | split
    | with_reducible intro _

theorem State.decideFrame_sound_eq {s : State} {c : Nat} {e : Candidate} (hS : s.Sound Q) {u : State} {z : Bool} (he : State.decideFrame s c e = (u, z)) :
    u.Sound Q := by
  have := State.decideFrame_sound hS (s := s) (c := c) (e := e)
  rwa [he] at this

theorem State.decideSlug_sound {s : State} {c : Nat} {g : Nat} {e : Candidate} (hS : s.Sound Q) :
    (State.decideSlug s c g e).1.Sound Q := by
  unfold State.decideSlug
  try dsimp only
  repeat' first
    | (with_reducible first
        | assumption | apply State.decideEach_sound | apply State.bring_sound | (refine State.bring_sound_eq (he := by assumption) ?_))
    | split
    | with_reducible intro _

theorem State.decideSlug_sound_eq {s : State} {c : Nat} {g : Nat} {e : Candidate} (hS : s.Sound Q) {u : State} {z : Bool} (he : State.decideSlug s c g e = (u, z)) :
    u.Sound Q := by
  have := State.decideSlug_sound hS (s := s) (c := c) (g := g) (e := e)
  rwa [he] at this

theorem State.decideOne_sound {s : State} {c : Nat} {e : Candidate} (hS : s.Sound Q) :
    (State.decideOne s c e).1.Sound Q := by
  unfold State.decideOne
  try dsimp only
  repeat' first
    | (with_reducible first
        | assumption | apply State.decideSlug_sound | (refine State.decideSlug_sound_eq (he := by assumption) ?_)
        | apply State.decideFrame_sound | (refine State.decideFrame_sound_eq (he := by assumption) ?_))
    | split
    | with_reducible intro _

theorem State.decideOne_sound_eq {s : State} {c : Nat} {e : Candidate} (hS : s.Sound Q) {u : State} {z : Bool} (he : State.decideOne s c e = (u, z)) :
    u.Sound Q := by
  have := State.decideOne_sound hS (s := s) (c := c) (e := e)
  rwa [he] at this

theorem State.decideMoves_sound {s : State} {c : Nat} (hS : s.Sound Q) :
    (State.decideMoves s c).Sound Q := by
  unfold State.decideMoves
  try dsimp only
  repeat' first
    | (with_reducible first
        | assumption | apply State.decideEach_sound | apply State.pinAll_sound | (refine State.pinAll_sound_eq (he := by assumption) ?_)
        | apply State.placePlan_sound | (refine State.placePlan_sound_eq (he := by assumption) ?_) | apply State.decideOne_sound
        | (refine State.decideOne_sound_eq (he := by assumption) ?_))
    | split
    | with_reducible intro _

theorem State.moveFrame_sound {s : State} {c : Nat} {f : Nat} {e : FrameEnt} {n : FrameEnt} {how : Nat} {whole : Bool} (hS : s.Sound Q) :
    (State.moveFrame s c f e n how whole).Sound Q := by
  unfold State.moveFrame
  try dsimp only
  repeat' first
    | (with_reducible first
        | assumption | apply State.zeroPieces_sound | apply State.updFrame_sound | apply State.devPoison_sound
        | apply State.copyFrame_sound | apply State.copyLine_sound | apply State.releaseBands_sound)
    | split | with_reducible apply State.Sound.foldl | with_reducible apply State.Sound.foldl_fst | fail_if_no_progress with_reducible refine State.Sound.rest ?_ rfl
    | with_reducible intro _

theorem State.commitCopy_sound {s : State} {c : Nat} {m : MigrationEnt} (hS : s.Sound Q) :
    (State.commitCopy s c m).Sound Q := by
  unfold State.commitCopy
  try dsimp only
  repeat' first
    | (with_reducible first
        | assumption | apply State.updChase_sound)
    | split
    | with_reducible intro _

theorem State.commitFrame_sound {s : State} {c : Nat} {m : MigrationEnt} {e : FrameEnt} (hS : s.Sound Q) :
    (State.commitFrame s c m e).Sound Q := by
  unfold State.commitFrame
  try dsimp only
  repeat' first
    | (with_reducible first
        | assumption | apply State.updFrame_sound | apply State.moveFrame_sound | apply State.copyFrame_sound | apply State.demote_sound)
    | split
    | with_reducible intro _

theorem State.commitMove_sound {s : State} {c : Nat} {m : MigrationEnt} (hS : s.Sound Q) :
    (State.commitMove s c m).Sound Q := by
  unfold State.commitMove
  try dsimp only
  repeat' first
    | (with_reducible first
        | assumption | apply State.bump_sound | apply State.commitCopy_sound | apply State.updChase_sound | apply State.commitFrame_sound)
    | split
    | with_reducible intro _

theorem State.commitEach_sound {s : State} {c : Nat} {rest : List MigrationEnt} {x0 : List MigrationEnt} (hS : s.Sound Q) :
    (State.commitEach s c rest x0).Sound Q := by
  induction x0 generalizing s with
  | nil => exact hS
  | cons a l ih =>
  simp only [State.commitEach]
  repeat' first
    | (with_reducible first
        | assumption | apply ih | apply State.commitMove_sound | apply State.updChase_sound)
    | split
    | with_reducible intro _

theorem State.commitMoves_sound {s : State} {c : Nat} {left : Nat} (hS : s.Sound Q) :
    (State.commitMoves s c left).Sound Q := by
  unfold State.commitMoves
  try dsimp only
  repeat' first
    | (with_reducible first
        | assumption | apply State.setF_sound | apply State.updChase_sound | apply State.commitEach_sound)
    | split
    | with_reducible intro _

theorem State.notePoisoned_sound {s : State} {c : Nat} {how : Nat} (hS : s.Sound Q) :
    (State.notePoisoned s c how).Sound Q := by
  unfold State.notePoisoned
  try dsimp only
  repeat' first
    | (with_reducible first
        | assumption | apply State.bump_sound)
    | split
    | with_reducible intro _

theorem State.restorePart_sound {s : State} {c : Nat} {map : List (Nat × Nat)} {r_ : Nat} {i : Nat} {k : Nat} {v : Slug} (hS : s.Sound Q) :
    (State.restorePart s c map r_ i k v).Sound Q := by
  unfold State.restorePart
  try dsimp only
  repeat' first
    | (with_reducible first
        | assumption | apply State.galWrite_sound)
    | split
    | with_reducible intro _

theorem State.restoreRows_sound {s : State} {c : Nat} {parts : List (RowPart × Option Slug)} (hS : s.Sound Q) :
    (State.restoreRows s c parts).Sound Q := by
  unfold State.restoreRows
  try dsimp only
  repeat' first
    | (with_reducible first
        | assumption | apply State.restorePart_sound)
    | split | with_reducible apply State.Sound.foldl | with_reducible apply State.Sound.foldl_fst
    | with_reducible intro _

theorem State.rehomeTo_sound {s : State} {c : Nat} {f : Nat} {e : FrameEnt} {peers : List GuestCopy} {x0 : Option FrameEnt} (hS : s.Sound Q) :
    (State.rehomeTo s c f e peers x0).1.Sound Q := by
  unfold State.rehomeTo
  try dsimp only
  repeat' first
    | (with_reducible first
        | assumption | apply State.notePoisoned_sound | apply State.restoreRows_sound | apply State.moveFrame_sound)
    | split
    | with_reducible intro _

theorem State.rehomeTo_sound_eq {s : State} {c : Nat} {f : Nat} {e : FrameEnt} {peers : List GuestCopy} {x0 : Option FrameEnt} (hS : s.Sound Q) {u : State} {z : Bool} (he : State.rehomeTo s c f e peers x0 = (u, z)) :
    u.Sound Q := by
  have := State.rehomeTo_sound hS (s := s) (c := c) (f := f) (e := e) (peers := peers) (x0 := x0)
  rwa [he] at this

theorem State.rehomeFrame_sound {s : State} {c : Nat} {f : Nat} {e : FrameEnt} {peers : List GuestCopy} (hS : s.Sound Q) :
    (State.rehomeFrame s c f e peers).1.Sound Q := by
  unfold State.rehomeFrame
  try dsimp only
  repeat' first
    | (with_reducible first
        | assumption | apply State.allocIn_sound | (refine State.allocIn_sound_eq (he := by assumption) ?_) | apply State.rehomeTo_sound
        | (refine State.rehomeTo_sound_eq (he := by assumption) ?_))
    | split
    | with_reducible intro _

theorem State.rehomeFrame_sound_eq {s : State} {c : Nat} {f : Nat} {e : FrameEnt} {peers : List GuestCopy} (hS : s.Sound Q) {u : State} {z : Bool} (he : State.rehomeFrame s c f e peers = (u, z)) :
    u.Sound Q := by
  have := State.rehomeFrame_sound hS (s := s) (c := c) (f := f) (e := e) (peers := peers)
  rwa [he] at this

theorem State.rehomeAll_sound {s : State} {c : Nat} {peers : List GuestCopy} (hS : s.Sound Q) :
    (State.rehomeAll s c peers).Sound Q := by
  unfold State.rehomeAll
  try dsimp only
  repeat' first
    | (with_reducible first
        | assumption | apply State.rehomeFrame_sound | (refine State.rehomeFrame_sound_eq (he := by assumption) ?_)
        | apply State.bump_sound)
    | split | with_reducible apply State.Sound.foldl | with_reducible apply State.Sound.foldl_fst
    | with_reducible intro _

theorem State.impose_sound {s : State} {c : Nat} {left : Nat} {peers : List GuestCopy} (hS : s.Sound Q) :
    (State.impose s c left peers).Sound Q := by
  unfold State.impose
  try dsimp only
  repeat' first
    | (with_reducible first
        | assumption | apply State.updChase_sound | apply State.clearSources_sound | apply State.decideMoves_sound
        | apply State.rehomeAll_sound | apply State.dropNever_sound | apply State.updateHeat_sound | apply State.commitMoves_sound
        | apply State.takeCtrl_sound)
    | split
    | with_reducible intro _

theorem State.trimGuests_sound {s : State} {c : Nat} (hS : s.Sound Q) :
    (State.trimGuests s c).Sound Q := by
  unfold State.trimGuests
  try dsimp only
  repeat' first
    | (with_reducible first
        | assumption | apply State.sweepGal_sound | apply State.updChase_sound)
    | split
    | with_reducible intro _

theorem State.reserveGuests_sound {s : State} {c : Nat} (hS : s.Sound Q) :
    (State.reserveGuests s c).Sound Q := by
  unfold State.reserveGuests
  try dsimp only
  repeat' first
    | (with_reducible first
        | assumption | apply State.setF_sound | apply State.trimGuests_sound | apply State.updChase_sound)
    | split
    | with_reducible intro _

theorem State.takeGuest_sound {s : State} {c : Nat} {e : GuestCopy} (hS : s.Sound Q) :
    (State.takeGuest s c e).Sound Q := by
  unfold State.takeGuest
  try dsimp only
  repeat' first
    | (with_reducible first
        | assumption | apply State.updChase_sound | apply State.setF_sound | apply State.bump_sound | apply State.putGuest_sound)
    | split
    | with_reducible intro _

theorem State.takeGuests_sound {s : State} {c : Nat} (hS : s.Sound Q) :
    (State.takeGuests s c).Sound Q := by
  unfold State.takeGuests
  try dsimp only
  repeat' first
    | (with_reducible first
        | assumption | apply State.takeGuest_sound | apply State.trimGuests_sound | apply State.updChase_sound)
    | split | with_reducible apply State.Sound.foldl | with_reducible apply State.Sound.foldl_fst
    | with_reducible intro _

theorem State.query_sound {s : State} {c : Nat} {kind : Nat} {galley : Nat} {key : Nat} (hS : s.Sound Q) :
    (State.query s c kind galley key).Sound Q := by
  unfold State.query
  try dsimp only
  repeat' first
    | (with_reducible first
        | assumption | apply State.wr_sound | apply State.setFs_sound)
    | split
    | with_reducible intro _

theorem execImpQuery_sound {rid : Nat} {value : Nat} {s : State} (hS : s.Sound Q) :
    AnsSound Q (execImpQuery rid value s) := by
  unfold execImpQuery
  try dsimp only
  repeat' first
    | (with_reducible first
        | assumption | exact ansSound_fault | apply ansSound_next | apply State.regWrite_sound | apply State.setFs_sound
        | apply State.query_sound)
    | split
    | with_reducible intro _

/-! ### Machine/Cache.lean -/

theorem State.dropTag_sound {s : State} {line : Nat} (hS : s.Sound Q) :
    (State.dropTag s line).Sound Q := by
  unfold State.dropTag
  try dsimp only
  repeat' first
    | (with_reducible first
        | assumption)
    | split | fail_if_no_progress with_reducible refine State.Sound.rest ?_ rfl
    | with_reducible intro _

theorem State.keepWays_sound {s : State} {k : Nat} {lo : Nat} {hi : Nat} (hS : s.Sound Q) :
    (State.keepWays s k lo hi).Sound Q := by
  unfold State.keepWays
  try dsimp only
  repeat' first
    | (with_reducible first
        | assumption)
    | split | fail_if_no_progress with_reducible refine State.Sound.rest ?_ rfl
    | with_reducible intro _

theorem State.dropScratch_sound {s : State} {c : Nat} {k : Nat} {b : Nat} (hS : s.Sound Q) :
    (State.dropScratch s c k b).Sound Q := by
  unfold State.dropScratch
  try dsimp only
  repeat' first
    | (with_reducible first
        | assumption)
    | split | fail_if_no_progress with_reducible refine State.Sound.restMem ?_ ?_ rfl | apply wf_memPutRun
    | with_reducible apply wf_foldl | apply wf_memPut | apply wf_filter | with_reducible apply State.Sound.mem
    | fail_if_no_progress with_reducible refine State.Sound.rest ?_ rfl
    | with_reducible intro _

theorem State.fitEngine_sound {s : State} {c : Nat} {k : Nat} (hS : s.Sound Q) :
    (State.fitEngine s c k).Sound Q := by
  unfold State.fitEngine
  try dsimp only
  repeat' first
    | (with_reducible first
        | assumption | apply State.abandon_sound | apply State.updFrame_sound | apply State.updChase_sound | apply State.demote_sound)
    | split | with_reducible apply State.Sound.foldl | with_reducible apply State.Sound.foldl_fst
    | with_reducible intro _

theorem State.applyWays_sound {s : State} {p : Nat} {all : Bool} (hS : s.Sound Q) :
    (State.applyWays s p all).Sound Q := by
  unfold State.applyWays
  try dsimp only
  repeat' first
    | (with_reducible first
        | assumption | apply State.setFs_sound | apply State.keepWays_sound | apply State.dropScratch_sound | apply State.fitEngine_sound)
    | split
    | with_reducible intro _

theorem State.waysWrite_sound {s : State} {p : Nat} {value : Nat} (hS : s.Sound Q) :
    (State.waysWrite s p value).Sound Q := by
  unfold State.waysWrite
  try dsimp only
  repeat' first
    | (with_reducible first
        | assumption | apply State.setF_sound | apply State.setFs_sound)
    | split
    | with_reducible intro _

theorem execRcWays_sound {rid : Nat} {p : Nat} {value : Nat} {s : State} (hS : s.Sound Q) :
    AnsSound Q (execRcWays rid p value s) := by
  unfold execRcWays
  try dsimp only
  repeat' first
    | (with_reducible first
        | assumption | exact ansSound_fault | apply ansSound_next | apply State.regWrite_sound | apply State.ifB_sound
        | apply State.waysWrite_sound)
    | split
    | with_reducible intro _

theorem execRcWaysApply_sound {p : Nat} {s : State} (hS : s.Sound Q) :
    AnsSound Q (execRcWaysApply p s) := by
  unfold execRcWaysApply
  try dsimp only
  repeat' first
    | (with_reducible first
        | assumption | exact ansSound_fault | apply ansSound_next | apply State.ifB_sound | apply State.applyWays_sound)
    | split
    | with_reducible intro _

theorem State.cleanLine_sound {s : State} {line : Nat} (hS : s.Sound Q) :
    (State.cleanLine s line).Sound Q := by
  unfold State.cleanLine
  try dsimp only
  repeat' first
    | (with_reducible first
        | assumption | apply State.mbToDram_sound)
    | split
    | with_reducible intro _

theorem State.dropEntry_sound {s : State} {line : Nat} (hS : s.Sound Q) :
    (State.dropEntry s line).Sound Q := by
  unfold State.dropEntry
  try dsimp only
  repeat' first
    | (with_reducible first
        | assumption)
    | split | fail_if_no_progress with_reducible refine State.Sound.restMemMb ?_ ?_ ?_ rfl | apply wf_filter
    | with_reducible apply State.Sound.mem | apply mbFine_filter | exact mbFine_nil | with_reducible apply State.Sound.mb
    | with_reducible apply wf_foldl | apply wf_memPut | fail_if_no_progress with_reducible refine State.Sound.rest ?_ rfl
    | with_reducible intro _

theorem State.rangeLine_sound {s : State} {c : Nat} {op : Nat} {a : Nat} (hS : s.Sound Q) :
    (State.rangeLine s c op a).Sound Q := by
  unfold State.rangeLine
  try dsimp only
  repeat' first
    | (with_reducible first
        | assumption | apply State.devWrite_sound | apply State.noteWrite_sound | apply State.cleanLine_sound | apply State.dropTag_sound
        | apply State.dropEntry_sound)
    | split
    | with_reducible intro _

theorem State.rangeStart_sound {s : State} {p : Nat} {op : Nat} {slot : Nat} {kind : Bool} (hS : s.Sound Q) :
    (State.rangeStart s p op slot kind).Sound Q := by
  unfold State.rangeStart
  try dsimp only
  repeat' first
    | (with_reducible first
        | assumption | apply State.setFs_sound | apply State.setF_sound | apply State.cleanLine_sound | apply State.rangeLine_sound)
    | split | with_reducible apply State.Sound.foldl | with_reducible apply State.Sound.foldl_fst
    | with_reducible intro _

theorem State.rangeWrite_sound {s : State} {rid : Nat} {p : Nat} {op : Nat} {slot : Nat} {kind : Bool} (hS : s.Sound Q) :
    (State.rangeWrite s rid p op slot kind).Sound Q := by
  unfold State.rangeWrite
  try dsimp only
  repeat' first
    | (with_reducible first
        | assumption | apply State.regWrite_sound | apply State.ifB_sound | apply State.rangeStart_sound)
    | split
    | with_reducible intro _

theorem execClean_sound {rid : Nat} {p : Nat} {slot : Nat} {kind : Bool} {s : State} (hS : s.Sound Q) :
    AnsSound Q (execClean rid p slot kind s) := by
  unfold execClean
  try dsimp only
  repeat' first
    | (with_reducible first
        | assumption | exact ansSound_fault | apply ansSound_next | apply State.rangeWrite_sound)
    | split
    | with_reducible intro _

theorem execInvalidate_sound {rid : Nat} {p : Nat} {slot : Nat} {kind : Bool} {s : State} (hS : s.Sound Q) :
    AnsSound Q (execInvalidate rid p slot kind s) := by
  unfold execInvalidate
  try dsimp only
  repeat' first
    | (with_reducible first
        | assumption | exact ansSound_fault | apply ansSound_next | apply State.rangeWrite_sound)
    | split
    | with_reducible intro _

theorem execCleanInvalidate_sound {rid : Nat} {p : Nat} {slot : Nat} {kind : Bool} {s : State} (hS : s.Sound Q) :
    AnsSound Q (execCleanInvalidate rid p slot kind s) := by
  unfold execCleanInvalidate
  try dsimp only
  repeat' first
    | (with_reducible first
        | assumption | exact ansSound_fault | apply ansSound_next | apply State.rangeWrite_sound)
    | split
    | with_reducible intro _

theorem execZero_sound {rid : Nat} {p : Nat} {slot : Nat} {kind : Bool} {s : State} (hS : s.Sound Q) :
    AnsSound Q (execZero rid p slot kind s) := by
  unfold execZero
  try dsimp only
  repeat' first
    | (with_reducible first
        | assumption | exact ansSound_fault | apply ansSound_next | apply State.rangeWrite_sound)
    | split
    | with_reducible intro _

theorem execRangeDone_sound {p : Nat} {s : State} (hS : s.Sound Q) :
    AnsSound Q (execRangeDone p s) := by
  unfold execRangeDone
  try dsimp only
  repeat' first
    | (with_reducible first
        | assumption | exact ansSound_fault | apply ansSound_next | apply State.ifB_sound | apply State.bump_sound
        | apply State.setF_sound)
    | split
    | with_reducible intro _

theorem execMbDrain_sound {line : Nat} {s : State} (hS : s.Sound Q) :
    AnsSound Q (execMbDrain line s) := by
  unfold execMbDrain
  try dsimp only
  repeat' first
    | (with_reducible first
        | assumption | exact ansSound_fault | apply ansSound_next | apply State.ifB_sound | apply State.cleanLine_sound)
    | split
    | with_reducible intro _

theorem State.atomic_sound {s : State} {c : Nat} {a : Nat} {n : Nat} {f : Bytes → Bytes} (hS : s.Sound Q) :
    (State.atomic s c a n f).1.Sound Q := by
  unfold State.atomic
  try dsimp only
  repeat' first
    | (with_reducible first
        | assumption | apply State.updChase_sound | apply State.bump_sound | apply State.devWrite_sound | apply State.noteWrite_sound)
    | split
    | with_reducible intro _

theorem State.atomic_sound_eq {s : State} {c : Nat} {a : Nat} {n : Nat} {f : Bytes → Bytes} (hS : s.Sound Q) {u : State} {z : Option Bytes} (he : State.atomic s c a n f = (u, z)) :
    u.Sound Q := by
  have := State.atomic_sound hS (s := s) (c := c) (a := a) (n := n) (f := f)
  rwa [he] at this

theorem State.atomicOut_sound {s : State} {c : Nat} {a : Nat} {n : Nat} {f : Bytes → Bytes} (hS : s.Sound Q) :
    (State.atomicOut s c a n f).Sound Q := by
  unfold State.atomicOut
  try dsimp only
  repeat' first
    | (with_reducible first
        | assumption | apply State.ifB_sound | apply State.atomic_sound | (refine State.atomic_sound_eq (he := by assumption) ?_)
        | apply State.emit_sound)
    | split
    | with_reducible intro _

theorem execAtomicAdd_sound {slot : Nat} {addr : Nat} {v : Int} {s : State} (hS : s.Sound Q) :
    AnsSound Q (execAtomicAdd slot addr v s) := by
  unfold execAtomicAdd
  try dsimp only
  repeat' first
    | (with_reducible first
        | assumption | exact ansSound_fault | apply ansSound_next | apply State.atomicOut_sound)
    | split
    | with_reducible intro _

theorem execMinIdx_sound {slot : Nat} {addr : Nat} {v : Int} {index : Nat} {s : State} (hS : s.Sound Q) :
    AnsSound Q (execMinIdx slot addr v index s) := by
  unfold execMinIdx
  try dsimp only
  repeat' first
    | (with_reducible first
        | assumption | exact ansSound_fault | apply ansSound_next | apply State.atomicOut_sound)
    | split
    | with_reducible intro _

theorem execMaxIdx_sound {slot : Nat} {addr : Nat} {v : Int} {index : Nat} {s : State} (hS : s.Sound Q) :
    AnsSound Q (execMaxIdx slot addr v index s) := by
  unfold execMaxIdx
  try dsimp only
  repeat' first
    | (with_reducible first
        | assumption | exact ansSound_fault | apply ansSound_next | apply State.atomicOut_sound)
    | split
    | with_reducible intro _

theorem execCas_sound {slot : Nat} {addr : Nat} {compare : Nat} {new : Nat} {s : State} (hS : s.Sound Q) :
    AnsSound Q (execCas slot addr compare new s) := by
  unfold execCas
  try dsimp only
  repeat' first
    | (with_reducible first
        | assumption | exact ansSound_fault | apply ansSound_next | apply State.atomicOut_sound)
    | split
    | with_reducible intro _

theorem execXchg_sound {slot : Nat} {addr : Nat} {v : Nat} {s : State} (hS : s.Sound Q) :
    AnsSound Q (execXchg slot addr v s) := by
  unfold execXchg
  try dsimp only
  repeat' first
    | (with_reducible first
        | assumption | exact ansSound_fault | apply ansSound_next | apply State.atomicOut_sound)
    | split
    | with_reducible intro _

theorem State.poisonedData_sound {s : State} {n : Nat} (hS : s.Sound Q) :
    (State.poisonedData s n).Sound Q := by
  unfold State.poisonedData
  try dsimp only
  repeat' first
    | (with_reducible first
        | assumption | apply State.freshBytes_sound | (refine State.freshBytes_sound_eq (he := by assumption) ?_) | apply State.emit_sound)
    | split
    | with_reducible intro _

theorem execBar2Read_sound {rid : Nat} {off : Nat} {run : BarRun} {s : State} (hS : s.Sound Q) :
    AnsSound Q (execBar2Read rid off run s) := by
  unfold execBar2Read
  try dsimp only
  repeat' first
    | (with_reducible first
        | assumption | exact ansSound_fault | apply ansSound_next | apply State.hostRead_sound | apply State.withXfers_sound
        | apply State.freshBytes_sound | (refine State.freshBytes_sound_eq (he := by assumption) ?_) | apply State.bump_sound
        | apply State.emit_sound)
    | split
    | with_reducible intro _

theorem execBar2Write_sound {rid : Nat} {off : Nat} {run : BarData} {s : State} (hS : s.Sound Q) :
    AnsSound Q (execBar2Write rid off run s) := by
  unfold execBar2Write
  try dsimp only
  repeat' first
    | (with_reducible first
        | assumption | exact ansSound_fault | apply ansSound_next | apply State.hostWrite_sound | apply State.withXfers_sound
        | apply State.sliceWrite_sound | apply State.bump_sound)
    | split | with_reducible apply State.Sound.foldl | with_reducible apply State.Sound.foldl_fst
    | with_reducible intro _

theorem State.snoopIn_sound {s : State} {line : Nat} (hS : s.Sound Q) :
    (State.snoopIn s line).Sound Q := by
  unfold State.snoopIn
  try dsimp only
  repeat' first
    | (with_reducible first
        | assumption | apply State.emit_sound)
    | split | fail_if_no_progress with_reducible refine State.Sound.rest ?_ rfl
    | with_reducible intro _

theorem execCxlMemRead_sound {rid : Nat} {addr : Nat} {found : List SymErr} {fails : XferFail} {s : State} (hS : s.Sound Q) :
    AnsSound Q (execCxlMemRead rid addr found fails s) := by
  unfold execCxlMemRead
  try dsimp only
  repeat' first
    | (with_reducible first
        | assumption | exact ansSound_fault | apply ansSound_next | apply State.hostRead_sound | apply State.emit_sound
        | apply State.bump_sound | apply State.poisonedData_sound | apply State.eccSecond_sound | apply State.hbmXfer_sound
        | apply State.xfersBegin_sound | apply State.snoopIn_sound | apply State.cacheRead_sound | apply State.xfersEnd_sound)
    | split
    | with_reducible intro _

theorem execCxlMemWrite_sound {rid : Nat} {addr : Nat} {data : Bytes} {fails : XferFail} {s : State} (hS : s.Sound Q) :
    AnsSound Q (execCxlMemWrite rid addr data fails s) := by
  unfold execCxlMemWrite
  try dsimp only
  repeat' first
    | (with_reducible first
        | assumption | exact ansSound_fault | apply ansSound_next | apply State.hostWrite_sound | apply State.bump_sound
        | apply State.sliceWrite_sound | apply State.parityFails_sound | apply State.poisonRun_sound | apply State.cleanLine_sound)
    | split
    | with_reducible intro _

theorem State.snoopAnswered_sound {s : State} {line : Nat} (hS : s.Sound Q) :
    (State.snoopAnswered s line).Sound Q := by
  unfold State.snoopAnswered
  try dsimp only
  repeat' first
    | (with_reducible first
        | assumption | apply State.landWrite_sound)
    | split | with_reducible apply State.Sound.foldl | with_reducible apply State.Sound.foldl_fst | fail_if_no_progress with_reducible refine State.Sound.rest ?_ rfl
    | with_reducible intro _

theorem execCxlCacheSnoop_sound {line : Nat} {s : State} (hS : s.Sound Q) :
    AnsSound Q (execCxlCacheSnoop line s) := by
  unfold execCxlCacheSnoop
  try dsimp only
  repeat' first
    | (with_reducible first
        | assumption | exact ansSound_fault | apply ansSound_next | apply State.ifB_sound | apply State.emit_sound)
    | split | fail_if_no_progress with_reducible refine State.Sound.rest ?_ rfl
    | with_reducible intro _

theorem State.drainAll_sound {s : State} (hS : s.Sound Q) :
    (State.drainAll s).1.Sound Q := by
  unfold State.drainAll
  try dsimp only
  repeat' first
    | (with_reducible first
        | assumption | apply State.mbToDram_sound)
    | split | with_reducible apply State.Sound.foldl | with_reducible apply State.Sound.foldl_fst
    | with_reducible intro _

theorem State.drainAll_sound_eq {s : State} (hS : s.Sound Q) {u : State} {z : Nat} (he : State.drainAll s = (u, z)) :
    u.Sound Q := by
  have := State.drainAll_sound hS (s := s)
  rwa [he] at this

theorem execHifApertureSync_sound {rid : Nat} {s : State} (hS : s.Sound Q) :
    AnsSound Q (execHifApertureSync rid s) := by
  unfold execHifApertureSync
  try dsimp only
  repeat' first
    | (with_reducible first
        | assumption | exact ansSound_fault | apply ansSound_next | apply State.regRead_sound | apply State.drainAll_sound
        | (refine State.drainAll_sound_eq (he := by assumption) ?_) | apply State.setF_sound | apply State.emit_sound)
    | split
    | with_reducible intro _

theorem execHifDmaFence_sound {rid : Nat} {s : State} (hS : s.Sound Q) :
    AnsSound Q (execHifDmaFence rid s) := by
  unfold execHifDmaFence
  try dsimp only
  repeat' first
    | (with_reducible first
        | assumption | exact ansSound_fault | apply ansSound_next | apply State.regRead_sound | apply State.emit_sound
        | apply State.setF_sound)
    | split
    | with_reducible intro _

/-! ### Machine/Clock.lean -/

theorem State.setCtr_sound {s : State} {v : Nat} (hS : s.Sound Q) :
    (State.setCtr s v).Sound Q := by
  unfold State.setCtr
  try dsimp only
  repeat' first
    | (with_reducible first
        | assumption | apply State.wr_sound)
    | split | fail_if_no_progress with_reducible refine State.Sound.rest ?_ rfl
    | with_reducible intro _

theorem State.updTime_sound {s : State} {f : TimeSt → TimeSt} (hS : s.Sound Q) :
    (State.updTime s f).Sound Q := by
  unfold State.updTime
  try dsimp only
  repeat' first
    | (with_reducible first
        | assumption)
    | split | fail_if_no_progress with_reducible refine State.Sound.rest ?_ rfl
    | with_reducible intro _

theorem State.adoptStep_sound {s : State} {c : Nat} (hS : s.Sound Q) :
    (State.adoptStep s c).Sound Q := by
  unfold State.adoptStep
  try dsimp only
  repeat' first
    | (with_reducible first
        | assumption | apply State.updChase_sound | apply State.setF_sound | apply State.bumpWrap_sound)
    | split
    | with_reducible intro _

theorem State.adoptSteps_sound {s : State} (hS : s.Sound Q) :
    (State.adoptSteps s).Sound Q := by
  unfold State.adoptSteps
  try dsimp only
  repeat' first
    | (with_reducible first
        | assumption | apply State.adoptStep_sound)
    | split | with_reducible apply State.Sound.foldl | with_reducible apply State.Sound.foldl_fst
    | with_reducible intro _

theorem State.mbEnds_sound {s : State} (hS : s.Sound Q) :
    (State.mbEnds s).Sound Q := by
  unfold State.mbEnds
  try dsimp only
  repeat' first
    | (with_reducible first
        | assumption | apply State.setF_sound)
    | split
    | with_reducible intro _

theorem State.tick_sound {s : State} (hS : s.Sound Q) :
    (State.tick s).Sound Q := by
  unfold State.tick
  try dsimp only
  repeat' first
    | (with_reducible first
        | assumption | apply State.mbEnds_sound | apply State.adoptSteps_sound | apply State.setCtr_sound)
    | split | fail_if_no_progress with_reducible refine State.Sound.rest ?_ rfl
    | with_reducible intro _

theorem State.passTo_sound {s : State} {t : Nat} (hS : s.Sound Q) :
    (State.passTo s t).Sound Q := by
  unfold State.passTo
  try dsimp only
  repeat' first
    | (with_reducible first
        | assumption | apply State.adoptSteps_sound | apply State.setCtr_sound | apply State.mbEnds_sound)
    | split | fail_if_no_progress with_reducible refine State.Sound.rest ?_ rfl
    | with_reducible intro _

theorem State.chaseTo_sound {s : State} {c : Nat} {t : Nat} (hS : s.Sound Q) :
    (State.chaseTo s c t).Sound Q := by
  unfold State.chaseTo
  try dsimp only
  repeat' first
    | (with_reducible first
        | assumption | apply State.passTo_sound)
    | split
    | with_reducible intro _

theorem State.chaseDue_sound {s : State} {c : Nat} {due : State → Nat} (hS : s.Sound Q) :
    (State.chaseDue s c due).Sound Q := by
  unfold State.chaseDue
  try dsimp only
  repeat' first
    | (with_reducible first
        | assumption | apply State.chaseTo_sound)
    | split
    | with_reducible intro _

theorem State.shiftChases_sound {s : State} {d : Int} (hS : s.Sound Q) :
    (State.shiftChases s d).Sound Q := by
  unfold State.shiftChases
  try dsimp only
  repeat' first
    | (with_reducible first
        | assumption | apply State.updChase_sound)
    | split | with_reducible apply State.Sound.foldl | with_reducible apply State.Sound.foldl_fst
    | with_reducible intro _

theorem State.removeErr_sound {s : State} {e : Int} (hS : s.Sound Q) :
    (State.removeErr s e).1.Sound Q := by
  unfold State.removeErr
  try dsimp only
  repeat' first
    | (with_reducible first
        | assumption | apply State.updTime_sound | apply State.setCtr_sound)
    | split
    | with_reducible intro _

theorem State.removeErr_sound_eq {s : State} {e : Int} (hS : s.Sound Q) {u : State} {z : Int} (he : State.removeErr s e = (u, z)) :
    u.Sound Q := by
  have := State.removeErr_sound hS (s := s) (e := e)
  rwa [he] at this

theorem State.slew_sound {s : State} {e : Int} (hS : s.Sound Q) :
    (State.slew s e).Sound Q := by
  unfold State.slew
  try dsimp only
  repeat' first
    | (with_reducible first
        | assumption | apply State.fresh_sound | (refine State.fresh_sound_eq (he := by assumption) ?_) | apply State.setF_sound
        | apply State.updTime_sound)
    | split
    | with_reducible intro _

theorem State.measure_sound {s : State} {e : Int} (hS : s.Sound Q) :
    (State.measure s e).Sound Q := by
  unfold State.measure
  try dsimp only
  repeat' first
    | (with_reducible first
        | assumption | apply State.setF_sound | apply State.removeErr_sound | (refine State.removeErr_sound_eq (he := by assumption) ?_)
        | apply State.setFs_sound | apply State.bump_sound | apply State.shiftChases_sound | apply State.slew_sound)
    | split
    | with_reducible intro _

theorem State.firstLock_sound {s : State} {e : Int} (hS : s.Sound Q) :
    (State.firstLock s e).Sound Q := by
  unfold State.firstLock
  try dsimp only
  repeat' first
    | (with_reducible first
        | assumption | apply State.removeErr_sound | (refine State.removeErr_sound_eq (he := by assumption) ?_) | apply State.setF_sound
        | apply State.updTime_sound | apply State.shiftChases_sound)
    | split
    | with_reducible intro _

theorem State.noteTime_sound {s : State} (hS : s.Sound Q) :
    (State.noteTime s).Sound Q := by
  unfold State.noteTime
  try dsimp only
  repeat' first
    | (with_reducible first
        | assumption | apply State.setFs_sound)
    | split
    | with_reducible intro _

theorem State.holdover_sound {s : State} (hS : s.Sound Q) :
    (State.holdover s).Sound Q := by
  unfold State.holdover
  try dsimp only
  repeat' first
    | (with_reducible first
        | assumption | apply State.bump_sound | apply State.setF_sound)
    | split
    | with_reducible intro _

theorem State.chooseParent_sound {s : State} (hS : s.Sound Q) :
    (State.chooseParent s).Sound Q := by
  unfold State.chooseParent
  try dsimp only
  repeat' first
    | (with_reducible first
        | assumption | apply State.setFs_sound | apply State.holdover_sound)
    | split | with_reducible apply State.Sound.foldl | with_reducible apply State.Sound.foldl_fst
    | with_reducible intro _

theorem State.linkOffset_sound {s : State} {e : Int} (hS : s.Sound Q) :
    (State.linkOffset s e).Sound Q := by
  unfold State.linkOffset
  try dsimp only
  repeat' first
    | (with_reducible first
        | assumption | apply State.measure_sound | apply State.firstLock_sound | apply State.noteTime_sound | apply State.setF_sound)
    | split
    | with_reducible intro _

theorem State.rejectEdge_sound {s : State} {f : Field} {stamp : Nat} (hS : s.Sound Q) :
    (State.rejectEdge s f stamp).Sound Q := by
  unfold State.rejectEdge
  try dsimp only
  repeat' first
    | (with_reducible first
        | assumption | apply State.updTime_sound | apply State.bump_sound | apply State.setF_sound)
    | split
    | with_reducible intro _

theorem State.refEdge_sound {s : State} {stamp : Nat} {good : Nat} (hS : s.Sound Q) :
    (State.refEdge s stamp good).Sound Q := by
  unfold State.refEdge
  try dsimp only
  repeat' first
    | (with_reducible first
        | assumption | apply State.updTime_sound)
    | split
    | with_reducible intro _

theorem State.lockPps_sound {s : State} {stamp : Nat} (hS : s.Sound Q) :
    (State.lockPps s stamp).Sound Q := by
  unfold State.lockPps
  try dsimp only
  repeat' first
    | (with_reducible first
        | assumption | apply State.refEdge_sound | apply State.measure_sound | apply State.firstLock_sound | apply State.noteTime_sound
        | apply State.chooseParent_sound | apply State.setF_sound)
    | split
    | with_reducible intro _

theorem State.ppsEdge_sound {s : State} {stamp : Nat} (hS : s.Sound Q) :
    (State.ppsEdge s stamp).Sound Q := by
  unfold State.ppsEdge
  try dsimp only
  repeat' first
    | (with_reducible first
        | assumption | apply State.rejectEdge_sound | apply State.measure_sound | apply State.refEdge_sound | apply State.lockPps_sound
        | apply State.setF_sound)
    | split
    | with_reducible intro _

theorem execPpsEdge_sound {low : Nat} {s : State} (hS : s.Sound Q) :
    AnsSound Q (execPpsEdge low s) := by
  unfold execPpsEdge
  try dsimp only
  repeat' first
    | (with_reducible first
        | assumption | exact ansSound_fault | apply ansSound_next | apply State.ifB_sound | apply State.ppsEdge_sound)
    | split
    | with_reducible intro _

theorem execStormEnd_sound {s : State} (hS : s.Sound Q) :
    AnsSound Q (execStormEnd s) := by
  unfold execStormEnd
  try dsimp only
  repeat' first
    | (with_reducible first
        | assumption | exact ansSound_fault | apply ansSound_next | apply State.ifB_sound | apply State.updTime_sound
        | apply State.setF_sound)
    | split
    | with_reducible intro _

theorem execPpsTimeout_sound {s : State} (hS : s.Sound Q) :
    AnsSound Q (execPpsTimeout s) := by
  unfold execPpsTimeout
  try dsimp only
  repeat' first
    | (with_reducible first
        | assumption | exact ansSound_fault | apply ansSound_next | apply State.ifB_sound | apply State.updTime_sound
        | apply State.setF_sound | apply State.chooseParent_sound)
    | split
    | with_reducible intro _

theorem State.readTimeNs_sound {s : State} (hS : s.Sound Q) :
    (State.readTimeNs s).Sound Q := by
  unfold State.readTimeNs
  try dsimp only
  repeat' first
    | (with_reducible first
        | assumption | apply State.setF_sound)
    | split
    | with_reducible intro _

end Sys2Proof.Machine
end

