-- ==== Sys2Proof/Laws/SoundPlates.lean ====
section
/-! SUPPORT. The operations of chases, the mailbox, the board pins and the plates keep the queue and the canonical form: one lemma per operation. -/

set_option Elab.async false

namespace Sys2Proof.Machine

set_option linter.unusedTactic false
set_option linter.unreachableTactic false

variable {Q : List Instr}

/-! ### Machine/Chase.lean -/

theorem State.busy_sound {s : State} {t : Ticket} (hS : s.Sound Q) :
    (State.busy s t).Sound Q := by
  unfold State.busy
  try dsimp only
  repeat' first
    | (with_reducible first
        | assumption | apply State.done_sound)
    | split
    | with_reducible intro _

theorem State.copyPart_sound {s : State} {c : Nat} {map : List (Nat × Nat)} {src : Nat × Nat} {n : Nat} {dst : FrameEnt} {off : Nat} (hS : s.Sound Q) :
    (State.copyPart s c map src n dst off).Sound Q := by
  unfold State.copyPart
  try dsimp only
  repeat' first
    | (with_reducible first
        | assumption | apply State.devWrite_sound | apply State.devPoison_sound)
    | split | with_reducible apply State.Sound.foldl | with_reducible apply State.Sound.foldl_fst
    | with_reducible intro _

theorem State.relayFrame_sound {s : State} {c : Nat} {r_ : Nat} {back : Nat → Option Nat} {x : GalState} {done : List (GalState × GalState)} {i : Nat} (hS : s.Sound Q) :
    (State.relayFrame s c r_ back x done i).1.Sound Q := by
  unfold State.relayFrame
  try dsimp only
  repeat' first
    | (with_reducible first
        | assumption | apply State.newGalFrame_sound | (refine State.newGalFrame_sound_eq (he := by assumption) ?_)
        | apply State.copyPart_sound)
    | split | with_reducible apply State.Sound.foldl | with_reducible apply State.Sound.foldl_fst
    | with_reducible intro _

theorem State.relayFrame_sound_eq {s : State} {c : Nat} {r_ : Nat} {back : Nat → Option Nat} {x : GalState} {done : List (GalState × GalState)} {i : Nat} (hS : s.Sound Q) {u : State} {z : Option Nat} (he : State.relayFrame s c r_ back x done i = (u, z)) :
    u.Sound Q := by
  have := State.relayFrame_sound hS (s := s) (c := c) (r_ := r_) (back := back) (x := x) (done := done) (i := i)
  rwa [he] at this

theorem State.relayState_sound {s : State} {c : Nat} {r_ : Nat} {rows : Nat} {back : Nat → Option Nat} {x : GalState} {done : List (GalState × GalState)} (hS : s.Sound Q) :
    (State.relayState s c r_ rows back x done).1.Sound Q := by
  unfold State.relayState
  try dsimp only
  repeat' first
    | (with_reducible first
        | assumption | apply State.relayFrame_sound | (refine State.relayFrame_sound_eq (he := by assumption) ?_))
    | split | with_reducible apply State.Sound.foldl | with_reducible apply State.Sound.foldl_fst
    | with_reducible intro _

theorem State.relayState_sound_eq {s : State} {c : Nat} {r_ : Nat} {rows : Nat} {back : Nat → Option Nat} {x : GalState} {done : List (GalState × GalState)} (hS : s.Sound Q) {u : State} {z : GalState} (he : State.relayState s c r_ rows back x done = (u, z)) :
    u.Sound Q := by
  have := State.relayState_sound hS (s := s) (c := c) (r_ := r_) (rows := rows) (back := back) (x := x) (done := done)
  rwa [he] at this

theorem State.relayMaster_sound {s : State} {c : Nat} {id : Nat} {n : Nat} {rows : Nat} {back : Nat → Option Nat} {old : List (Nat × Nat)} (hS : s.Sound Q) :
    (State.relayMaster s c id n rows back old).Sound Q := by
  unfold State.relayMaster
  try dsimp only
  repeat' first
    | (with_reducible first
        | assumption | apply State.ownMaster_sound | apply State.copyPart_sound)
    | split | with_reducible apply State.Sound.foldl | with_reducible apply State.Sound.foldl_fst
    | with_reducible intro _

theorem State.keepGalley_sound {s : State} {c : Nat} {old : GalleySt} {d : Bytes} {m : Nat} {o : Nat} {m' : Nat} {o' : Nat} (hS : s.Sound Q) :
    (State.keepGalley s c old d m o m' o').Sound Q := by
  unfold State.keepGalley
  try dsimp only
  repeat' first
    | (with_reducible first
        | assumption | apply State.setGalley_sound | apply State.relayState_sound
        | (refine State.relayState_sound_eq (he := by assumption) ?_) | apply State.relayMaster_sound | apply State.updChase_sound)
    | split | with_reducible apply State.Sound.foldl | with_reducible apply State.Sound.foldl_fst
    | with_reducible intro _

theorem State.mergeGalleys_sound {s : State} {c : Nat} {old : List (Nat × GalleySt)} {f : Bytes} {m : Nat} {o : Nat} {m' : Nat} {o' : Nat} (hS : s.Sound Q) :
    (State.mergeGalleys s c old f m o m' o').Sound Q := by
  unfold State.mergeGalleys
  try dsimp only
  repeat' first
    | (with_reducible first
        | assumption | apply State.keepGalley_sound | apply State.setGalley_sound | apply State.updChase_sound
        | apply State.sweepGal_sound)
    | split | with_reducible apply State.Sound.foldl | with_reducible apply State.Sound.foldl_fst
    | with_reducible intro _

theorem State.leaveRegions_sound {s : State} {c : Nat} {mask : Nat} (hS : s.Sound Q) :
    (State.leaveRegions s c mask).Sound Q := by
  unfold State.leaveRegions
  try dsimp only
  repeat' first
    | (with_reducible first
        | assumption | apply State.demote_sound | apply State.dropStores_sound)
    | split | with_reducible apply State.Sound.foldl | with_reducible apply State.Sound.foldl_fst
    | with_reducible intro _

theorem State.installForme_sound {s : State} {c : Nat} {f : Bytes} (hS : s.Sound Q) :
    (State.installForme s c f).Sound Q := by
  unfold State.installForme
  try dsimp only
  repeat' first
    | (with_reducible first
        | assumption | apply State.leaveRegions_sound | apply State.releaseMarks_sound | apply State.updChase_sound
        | apply State.mergeGalleys_sound | apply State.setFs_sound | apply State.assignMarks_sound)
    | split
    | with_reducible intro _

theorem State.beginForme_sound {s : State} {c : Nat} (hS : s.Sound Q) :
    (State.beginForme s c).Sound Q := by
  unfold State.beginForme
  try dsimp only
  repeat' first
    | (with_reducible first
        | assumption | apply State.setF_sound | apply State.updChase_sound)
    | split
    | with_reducible intro _

theorem State.endForme_sound {s : State} {c : Nat} (hS : s.Sound Q) :
    (State.endForme s c).Sound Q := by
  unfold State.endForme
  try dsimp only
  repeat' first
    | (with_reducible first
        | assumption | apply State.setF_sound)
    | split
    | with_reducible intro _

theorem State.loadForme_sound {s : State} {t : Ticket} (hS : s.Sound Q) :
    (State.loadForme s t).Sound Q := by
  unfold State.loadForme
  try dsimp only
  repeat' first
    | (with_reducible first
        | assumption | apply State.srcRead_sound | (refine State.srcRead_sound_eq (he := by assumption) ?_) | apply State.done_sound
        | apply State.endForme_sound | apply State.noteErr_sound | apply State.installForme_sound)
    | split
    | with_reducible intro _

theorem execFormeLoad_sound {ring : Nat} {x : TicketIn} {s : State} (hS : s.Sound Q) :
    AnsSound Q (execFormeLoad ring x s) := by
  unfold execFormeLoad
  try dsimp only
  repeat' first
    | (with_reducible first
        | assumption | exact ansSound_fault | apply ansSound_next | apply State.withXfers_sound | apply State.ticketAct_sound
        | apply State.loadForme_sound | apply State.beginForme_sound | apply State.busy_sound)
    | split
    | with_reducible intro _

theorem State.fixStart_sound {s : State} {c : Nat} (hS : s.Sound Q) :
    (State.fixStart s c).Sound Q := by
  unfold State.fixStart
  try dsimp only
  repeat' first
    | (with_reducible first
        | assumption | apply State.updChase_sound | apply State.setF_sound | apply State.sendAll_sound)
    | split
    | with_reducible intro _

theorem State.checkJoin_sound {s : State} {c : Nat} (hS : s.Sound Q) :
    (State.checkJoin s c).Sound Q := by
  unfold State.checkJoin
  try dsimp only
  repeat' first
    | (with_reducible first
        | assumption | apply State.failStart_sound | apply State.fixStart_sound)
    | split
    | with_reducible intro _

theorem State.addJoin_sound {s : State} {c : Nat} {ordinal : Nat} {digest : Bytes} (hS : s.Sound Q) :
    (State.addJoin s c ordinal digest).Sound Q := by
  unfold State.addJoin
  try dsimp only
  repeat' first
    | (with_reducible first
        | assumption | apply State.updChase_sound)
    | split
    | with_reducible intro _

theorem State.startChase_sound {s : State} {t : Ticket} (hS : s.Sound Q) :
    (State.startChase s t).Sound Q := by
  unfold State.startChase
  try dsimp only
  repeat' first
    | (with_reducible first
        | assumption | apply State.busy_sound | apply State.failStart_sound | apply State.setFs_sound | apply State.updChase_sound
        | apply State.reserveGuests_sound | apply State.clearMarks_sound | apply State.sendAll_sound | apply State.addJoin_sound
        | apply State.checkJoin_sound)
    | split
    | with_reducible intro _

theorem execChaseStart_sound {ring : Nat} {seq : Nat} {s : State} (hS : s.Sound Q) :
    AnsSound Q (execChaseStart ring seq s) := by
  unfold execChaseStart
  try dsimp only
  repeat' first
    | (with_reducible first
        | assumption | exact ansSound_fault | apply ansSound_next | apply State.ticketAct_sound | apply State.startChase_sound)
    | split
    | with_reducible intro _

theorem execJoin_sound {slot : Nat} {ordinal : Nat} {digest : Bytes} {latency : Nat} {s : State} (hS : s.Sound Q) :
    AnsSound Q (execJoin slot ordinal digest latency s) := by
  unfold execJoin
  try dsimp only
  repeat' first
    | (with_reducible first
        | assumption | exact ansSound_fault | apply ansSound_next | apply State.ifB_sound | apply State.addJoin_sound
        | apply State.ackCtl_sound | apply State.checkJoin_sound | apply State.raiseTo_sound)
    | split
    | with_reducible intro _

theorem execJoinTimeout_sound {slot : Nat} {s : State} (hS : s.Sound Q) :
    AnsSound Q (execJoinTimeout slot s) := by
  unfold execJoinTimeout
  try dsimp only
  repeat' first
    | (with_reducible first
        | assumption | exact ansSound_fault | apply ansSound_next | apply State.ifB_sound | apply State.failStart_sound
        | apply State.passTo_sound)
    | split
    | with_reducible intro _

theorem execStart_sound {slot : Nat} {stroke : Nat} {epoch : Nat} {announce : Nat} {s : State} (hS : s.Sound Q) :
    AnsSound Q (execStart slot stroke epoch announce s) := by
  unfold execStart
  try dsimp only
  repeat' first
    | (with_reducible first
        | assumption | exact ansSound_fault | apply ansSound_next | apply State.ifB_sound | apply State.updChase_sound
        | apply State.setFs_sound | apply State.ackCtl_sound)
    | split
    | with_reducible intro _

theorem State.setStop_sound {s : State} {c : Nat} {n : Nat} (hS : s.Sound Q) :
    (State.setStop s c n).Sound Q := by
  unfold State.setStop
  try dsimp only
  repeat' first
    | (with_reducible first
        | assumption | apply State.updChase_sound | apply State.setF_sound | apply State.stopped_sound)
    | split
    | with_reducible intro _

theorem State.stopChase_sound {s : State} {t : Ticket} (hS : s.Sound Q) :
    (State.stopChase s t).Sound Q := by
  unfold State.stopChase
  try dsimp only
  repeat' first
    | (with_reducible first
        | assumption | apply State.updChase_sound | apply State.setF_sound | apply State.done_sound | apply State.freeAllDraining_sound
        | apply State.endStart_sound | apply State.setStop_sound | apply State.sendAll_sound | apply State.busy_sound)
    | split
    | with_reducible intro _

theorem execChaseStop_sound {ring : Nat} {seq : Nat} {s : State} (hS : s.Sound Q) :
    AnsSound Q (execChaseStop ring seq s) := by
  unfold execChaseStop
  try dsimp only
  repeat' first
    | (with_reducible first
        | assumption | exact ansSound_fault | apply ansSound_next | apply State.ticketAct_sound | apply State.stopChase_sound)
    | split
    | with_reducible intro _

theorem execStop_sound {slot : Nat} {ordinal : Nat} {stroke : Nat} {s : State} (hS : s.Sound Q) :
    AnsSound Q (execStop slot ordinal stroke s) := by
  unfold execStop
  try dsimp only
  repeat' first
    | (with_reducible first
        | assumption | exact ansSound_fault | apply ansSound_next | apply State.ifB_sound | apply State.setStop_sound
        | apply State.ackCtl_sound)
    | split
    | with_reducible intro _

theorem State.tearDown_sound {s : State} {c : Nat} (hS : s.Sound Q) :
    (State.tearDown s c).Sound Q := by
  unfold State.tearDown
  try dsimp only
  repeat' first
    | (with_reducible first
        | assumption | apply State.dropInk_sound | apply State.freeFrames_sound | apply State.releaseMarks_sound | apply State.setF_sound
        | apply State.setChase_sound | apply State.resetSlotRegs_sound | apply State.dropGroups_sound | apply State.freeSamples_sound
        | apply State.slotEmptied_sound | apply State.updFab_sound)
    | split | with_reducible apply State.Sound.foldl | with_reducible apply State.Sound.foldl_fst | fail_if_no_progress with_reducible refine State.Sound.rest ?_ rfl
    | with_reducible intro _

theorem execChaseTeardown_sound {ring : Nat} {seq : Nat} {s : State} (hS : s.Sound Q) :
    AnsSound Q (execChaseTeardown ring seq s) := by
  unfold execChaseTeardown
  try dsimp only
  repeat' first
    | (with_reducible first
        | assumption | exact ansSound_fault | apply ansSound_next | apply State.ticketAct_sound | apply State.done_sound
        | apply State.tearDown_sound | apply State.busy_sound)
    | split
    | with_reducible intro _

/-! ### Machine/Security.lean -/

theorem State.updSec_sound {s : State} {f : SecSt → SecSt} (hS : s.Sound Q) (hb : ∀ x, (f x).buf = x.buf) :
    (State.updSec s f).Sound Q := by
  exact ⟨hS.queue, hS.mem, hS.hostMem, (hb s.sec).symm ▸ hS.buf, hS.rise, hS.listed, hS.slots, hS.mb⟩

theorem State.updSec_wf {s : State} {f : SecSt → SecSt} (hS : s.Sound Q) (hb : Memory.wf (f s.sec).buf = true) :
    (s.updSec f).Sound Q :=
  ⟨hS.queue, hS.mem, hS.hostMem, hb, hS.rise, hS.listed, hS.slots, hS.mb⟩

theorem State.newChallenge_sound {s : State} (hS : s.Sound Q) :
    (State.newChallenge s).1.Sound Q := by
  unfold State.newChallenge
  try dsimp only
  repeat' first
    | (with_reducible first
        | assumption | apply State.fresh_sound | (refine State.fresh_sound_eq (he := by assumption) ?_) | apply State.updSec_sound)
    | split | with_reducible exact rfl
    | with_reducible intro _

theorem State.newChallenge_sound_eq {s : State} (hS : s.Sound Q) {u : State} {z : Bytes} (he : State.newChallenge s = (u, z)) :
    u.Sound Q := by
  have := State.newChallenge_sound hS (s := s)
  rwa [he] at this

theorem State.readColophon_sound {s : State} {first : Nat} {count : Nat} (hS : s.Sound Q) :
    (State.readColophon s first count).1.Sound Q := by
  unfold State.readColophon
  try dsimp only
  repeat' first
    | (with_reducible first
        | assumption)
    | split
    | with_reducible intro _

theorem State.readColophon_sound_eq {s : State} {first : Nat} {count : Nat} (hS : s.Sound Q) {u : State} {z : Bytes} (he : State.readColophon s first count = (u, z)) :
    u.Sound Q := by
  have := State.readColophon_sound hS (s := s) (first := first) (count := count)
  rwa [he] at this

theorem State.storeSettings_sound {s : State} {f : Settings → Settings} (hS : s.Sound Q) :
    (State.storeSettings s f).Sound Q := by
  unfold State.storeSettings
  try dsimp only
  repeat' first
    | (with_reducible first
        | assumption | apply State.updSec_sound)
    | split | with_reducible exact rfl
    | with_reducible intro _

theorem State.setNet_sound {s : State} {d : Bytes} (hS : s.Sound Q) :
    (State.setNet s d).Sound Q := by
  unfold State.setNet
  try dsimp only
  repeat' first
    | (with_reducible first
        | assumption | apply State.setFs_sound | apply State.storeSettings_sound)
    | split
    | with_reducible intro _

theorem State.setFabric_sound {s : State} {d : Bytes} (hS : s.Sound Q) :
    (State.setFabric s d).Sound Q := by
  unfold State.setFabric
  try dsimp only
  repeat' first
    | (with_reducible first
        | assumption | apply State.setFs_sound | apply State.storeSettings_sound)
    | split
    | with_reducible intro _

theorem State.grantAuth_sound {s : State} {kind : Nat} {mask : Nat} {seconds : Nat} {creds : List Nat} (hS : s.Sound Q) :
    (State.grantAuth s kind mask seconds creds).Sound Q := by
  unfold State.grantAuth
  try dsimp only
  repeat' first
    | (with_reducible first
        | assumption | apply State.showAuths_sound | apply State.updSec_sound)
    | split | with_reducible exact rfl
    | with_reducible intro _

theorem State.showCreds_sound {s : State} (hS : s.Sound Q) :
    (State.showCreds s).Sound Q := by
  unfold State.showCreds
  try dsimp only
  repeat' first
    | (with_reducible first
        | assumption | apply State.setFs_sound)
    | split
    | with_reducible intro _

theorem State.revoke_sound {s : State} {id : Nat} (hS : s.Sound Q) :
    (State.revoke s id).Sound Q := by
  unfold State.revoke
  try dsimp only
  repeat' first
    | (with_reducible first
        | assumption | apply State.updSec_sound | apply State.endAuth_sound | apply State.showCreds_sound)
    | split | with_reducible apply State.Sound.foldl | with_reducible apply State.Sound.foldl_fst | with_reducible exact rfl
    | with_reducible intro _

theorem State.zeroise_sound {s : State} (hS : s.Sound Q) :
    (State.zeroise s).Sound Q := by
  unfold State.zeroise
  try dsimp only
  repeat' first
    | (with_reducible first
        | assumption | apply State.checkpoint_sound | apply State.setFs_sound | apply State.showCreds_sound | apply State.updSec_sound)
    | split | with_reducible exact rfl
    | with_reducible intro _

theorem State.mbApply_sound {s : State} {op : Nat} {d : Bytes} {creds : List Nat} (hS : s.Sound Q) :
    (State.mbApply s op d creds).1.Sound Q := by
  unfold State.mbApply
  try dsimp only
  repeat' first
    | (with_reducible first
        | assumption | apply State.newChallenge_sound | (refine State.newChallenge_sound_eq (he := by assumption) ?_)
        | apply State.readColophon_sound | (refine State.readColophon_sound_eq (he := by assumption) ?_) | apply State.setF_sound
        | apply State.storeSettings_sound | apply State.setFabric_sound | apply State.updSec_sound | apply State.setNet_sound
        | apply State.note_sound | apply State.dropAuth_sound | apply State.grantAuth_sound | apply State.showCreds_sound
        | apply State.revoke_sound | apply State.endAuth_sound | apply State.zeroise_sound)
    | split | with_reducible exact rfl
    | with_reducible intro _

theorem State.mbApply_sound_eq {s : State} {op : Nat} {d : Bytes} {creds : List Nat} (hS : s.Sound Q) {u : State} {z : Bytes} (he : State.mbApply s op d creds = (u, z)) :
    u.Sound Q := by
  have := State.mbApply_sound hS (s := s) (op := op) (d := d) (creds := creds)
  rwa [he] at this

theorem State.coverNewest_sound {s : State} (hS : s.Sound Q) :
    (State.coverNewest s).Sound Q := by
  unfold State.coverNewest
  try dsimp only
  repeat' first
    | (with_reducible first
        | assumption | apply State.checkpoint_sound)
    | split
    | with_reducible intro _

theorem State.mbRun_sound {s : State} {b : Bytes} {storage : Bool} (hS : s.Sound Q) :
    (State.mbRun s b storage).1.Sound Q := by
  unfold State.mbRun
  try dsimp only
  repeat' first
    | (with_reducible first
        | assumption | apply State.updSec_sound | apply State.note_sound | apply State.mbApply_sound
        | (refine State.mbApply_sound_eq (he := by assumption) ?_) | apply State.record_sound
        | (refine State.record_sound_eq (he := by assumption) ?_) | apply State.coverNewest_sound)
    | split | with_reducible exact rfl
    | with_reducible intro _

theorem State.mbRun_sound_eq {s : State} {b : Bytes} {storage : Bool} (hS : s.Sound Q) {u : State} {z : Nat × Bytes} (he : State.mbRun s b storage = (u, z)) :
    u.Sound Q := by
  have := State.mbRun_sound hS (s := s) (b := b) (storage := storage)
  rwa [he] at this

theorem State.mbGo_sound {s : State} {storage : Bool} (hS : s.Sound Q) :
    (State.mbGo s storage).1.Sound Q := by
  exact State.setFs_sound (State.updSec_wf (State.mbRun_sound hS) (wf_memPutRun _ _ (State.mbRun_sound hS).buf))

theorem State.mbGo_sound_eq {s : State} {storage : Bool} (hS : s.Sound Q) {u : State} {z : Nat × Bytes} (he : State.mbGo s storage = (u, z)) :
    u.Sound Q := by
  have := State.mbGo_sound hS (s := s) (storage := storage)
  rwa [he] at this

theorem State.mailbox_sound {s : State} {op : Nat} {rid : Option Nat} {msg : Bytes} {storage : Bool} (hS : s.Sound Q) :
    (State.mailbox s op rid msg storage).Sound Q := by
  unfold State.mailbox
  split
  · refine State.hostWrite_sound hS fun y hy => State.ifB_sound hy fun z hz => ?_
    split
    · exact State.setF_sound hz
    · exact State.mbGo_sound hz
  · refine State.ifB_sound hS fun y hy => ?_
    split
    · exact State.emit_sound hy
    · exact State.emit_sound (State.mbGo_sound (State.updSec_wf hy (wf_memPutRun _ _ wf_nil)))

theorem State.islandFails_sound {s : State} (hS : s.Sound Q) :
    (State.islandFails s).Sound Q := by
  unfold State.islandFails
  try dsimp only
  repeat' first
    | (with_reducible first
        | assumption | apply State.ifB_sound | apply State.setFs_sound | apply State.note_sound)
    | split
    | with_reducible intro _

theorem execGetChallenge_sound {rid : Option Nat} {msg : Bytes} {sound : Bool} {s : State} (hS : s.Sound Q) :
    AnsSound Q (execGetChallenge rid msg sound s) := by
  unfold execGetChallenge
  try dsimp only
  repeat' first
    | (with_reducible first
        | assumption | exact ansSound_fault | apply ansSound_next | apply State.mailbox_sound | apply State.ifB_sound
        | apply State.islandFails_sound)
    | split
    | with_reducible intro _

theorem execReadColophon_sound {rid : Option Nat} {msg : Bytes} {storage : Bool} {s : State} (hS : s.Sound Q) :
    AnsSound Q (execReadColophon rid msg storage s) := by
  unfold execReadColophon
  try dsimp only
  repeat' first
    | (with_reducible first
        | assumption | exact ansSound_fault | apply ansSound_next | apply State.mailbox_sound)
    | split
    | with_reducible intro _

theorem execGetIdentity_sound {rid : Option Nat} {msg : Bytes} {storage : Bool} {s : State} (hS : s.Sound Q) :
    AnsSound Q (execGetIdentity rid msg storage s) := by
  unfold execGetIdentity
  try dsimp only
  repeat' first
    | (with_reducible first
        | assumption | exact ansSound_fault | apply ansSound_next | apply State.mailbox_sound)
    | split
    | with_reducible intro _

theorem execSetEnvelope_sound {rid : Option Nat} {msg : Bytes} {storage : Bool} {s : State} (hS : s.Sound Q) :
    AnsSound Q (execSetEnvelope rid msg storage s) := by
  unfold execSetEnvelope
  try dsimp only
  repeat' first
    | (with_reducible first
        | assumption | exact ansSound_fault | apply ansSound_next | apply State.mailbox_sound)
    | split
    | with_reducible intro _

theorem execSetNodeId_sound {rid : Option Nat} {msg : Bytes} {storage : Bool} {s : State} (hS : s.Sound Q) :
    AnsSound Q (execSetNodeId rid msg storage s) := by
  unfold execSetNodeId
  try dsimp only
  repeat' first
    | (with_reducible first
        | assumption | exact ansSound_fault | apply ansSound_next | apply State.mailbox_sound)
    | split
    | with_reducible intro _

theorem execSetFabric_sound {rid : Option Nat} {msg : Bytes} {storage : Bool} {s : State} (hS : s.Sound Q) :
    AnsSound Q (execSetFabric rid msg storage s) := by
  unfold execSetFabric
  try dsimp only
  repeat' first
    | (with_reducible first
        | assumption | exact ansSound_fault | apply ansSound_next | apply State.mailbox_sound)
    | split
    | with_reducible intro _

theorem execFwStage_sound {rid : Option Nat} {msg : Bytes} {storage : Bool} {s : State} (hS : s.Sound Q) :
    AnsSound Q (execFwStage rid msg storage s) := by
  unfold execFwStage
  try dsimp only
  repeat' first
    | (with_reducible first
        | assumption | exact ansSound_fault | apply ansSound_next | apply State.mailbox_sound)
    | split
    | with_reducible intro _

theorem execSetNetId_sound {rid : Option Nat} {msg : Bytes} {storage : Bool} {s : State} (hS : s.Sound Q) :
    AnsSound Q (execSetNetId rid msg storage s) := by
  unfold execSetNetId
  try dsimp only
  repeat' first
    | (with_reducible first
        | assumption | exact ansSound_fault | apply ansSound_next | apply State.mailbox_sound)
    | split
    | with_reducible intro _

theorem execDebugSession_sound {rid : Option Nat} {msg : Bytes} {storage : Bool} {s : State} (hS : s.Sound Q) :
    AnsSound Q (execDebugSession rid msg storage s) := by
  unfold execDebugSession
  try dsimp only
  repeat' first
    | (with_reducible first
        | assumption | exact ansSound_fault | apply ansSound_next | apply State.mailbox_sound)
    | split
    | with_reducible intro _

theorem execFenceWrite_sound {rid : Option Nat} {msg : Bytes} {storage : Bool} {s : State} (hS : s.Sound Q) :
    AnsSound Q (execFenceWrite rid msg storage s) := by
  unfold execFenceWrite
  try dsimp only
  repeat' first
    | (with_reducible first
        | assumption | exact ansSound_fault | apply ansSound_next | apply State.mailbox_sound)
    | split
    | with_reducible intro _

theorem execEnrol_sound {rid : Option Nat} {msg : Bytes} {storage : Bool} {s : State} (hS : s.Sound Q) :
    AnsSound Q (execEnrol rid msg storage s) := by
  unfold execEnrol
  try dsimp only
  repeat' first
    | (with_reducible first
        | assumption | exact ansSound_fault | apply ansSound_next | apply State.mailbox_sound)
    | split
    | with_reducible intro _

theorem execDebugUnlock_sound {rid : Option Nat} {msg : Bytes} {storage : Bool} {s : State} (hS : s.Sound Q) :
    AnsSound Q (execDebugUnlock rid msg storage s) := by
  unfold execDebugUnlock
  try dsimp only
  repeat' first
    | (with_reducible first
        | assumption | exact ansSound_fault | apply ansSound_next | apply State.mailbox_sound)
    | split
    | with_reducible intro _

theorem execRepairAccess_sound {rid : Option Nat} {msg : Bytes} {storage : Bool} {s : State} (hS : s.Sound Q) :
    AnsSound Q (execRepairAccess rid msg storage s) := by
  unfold execRepairAccess
  try dsimp only
  repeat' first
    | (with_reducible first
        | assumption | exact ansSound_fault | apply ansSound_next | apply State.mailbox_sound)
    | split
    | with_reducible intro _

theorem execZeroise_sound {rid : Option Nat} {msg : Bytes} {storage : Bool} {s : State} (hS : s.Sound Q) :
    AnsSound Q (execZeroise rid msg storage s) := by
  unfold execZeroise
  try dsimp only
  repeat' first
    | (with_reducible first
        | assumption | exact ansSound_fault | apply ansSound_next | apply State.mailbox_sound)
    | split
    | with_reducible intro _

theorem execChallengeLapse_sound {challenge : Nat} {s : State} (hS : s.Sound Q) :
    AnsSound Q (execChallengeLapse challenge s) := by
  unfold execChallengeLapse
  try dsimp only
  repeat' first
    | (with_reducible first
        | assumption | exact ansSound_fault | apply ansSound_next | apply State.ifB_sound | apply State.updSec_sound)
    | split | with_reducible exact rfl
    | with_reducible intro _

theorem execSessionLapse_sound {s : State} (hS : s.Sound Q) :
    AnsSound Q (execSessionLapse s) := by
  unfold execSessionLapse
  try dsimp only
  repeat' first
    | (with_reducible first
        | assumption | exact ansSound_fault | apply ansSound_next | apply State.ifB_sound | apply State.endAuth_sound)
    | split
    | with_reducible intro _

theorem execAuthEnd_sound {kind : Nat} {s : State} (hS : s.Sound Q) :
    AnsSound Q (execAuthEnd kind s) := by
  unfold execAuthEnd
  try dsimp only
  repeat' first
    | (with_reducible first
        | assumption | exact ansSound_fault | apply ansSound_next | apply State.ifB_sound | apply State.endAuth_sound)
    | split
    | with_reducible intro _

theorem execCheckpoint_sound {s : State} (hS : s.Sound Q) :
    AnsSound Q (execCheckpoint s) := by
  unfold execCheckpoint
  try dsimp only
  repeat' first
    | (with_reducible first
        | assumption | exact ansSound_fault | apply ansSound_next | apply State.ifB_sound | apply State.coverNewest_sound)
    | split
    | with_reducible intro _

theorem execBoundaryScan_sound {code : Nat} {s : State} (hS : s.Sound Q) :
    AnsSound Q (execBoundaryScan code s) := by
  unfold execBoundaryScan
  try dsimp only
  repeat' first
    | (with_reducible first
        | assumption | exact ansSound_fault | apply ansSound_next | apply State.ifB_sound | apply State.emit_sound)
    | split
    | with_reducible intro _

theorem execInternalScan_sound {extended : Bool} {s : State} (hS : s.Sound Q) :
    AnsSound Q (execInternalScan extended s) := by
  unfold execInternalScan
  try dsimp only
  repeat' first
    | (with_reducible first
        | assumption | exact ansSound_fault | apply ansSound_next | apply State.ifB_sound | apply State.emit_sound
        | apply State.bump_sound)
    | split
    | with_reducible intro _

theorem State.spdmIf_sound {s : State} {ok : Bool} {f : State → State} (hS : s.Sound Q) (hSf : ∀ (y0 : State), y0.Sound Q → (f y0).Sound Q) :
    (State.spdmIf s ok f).Sound Q := by
  unfold State.spdmIf
  try dsimp only
  repeat' first
    | (with_reducible first
        | assumption | apply hSf | apply State.emit_sound)
    | split
    | with_reducible intro _

theorem State.spdmSigned_sound {s : State} {code : Nat} {data : Bytes} (hS : s.Sound Q) :
    (State.spdmSigned s code data).Sound Q := by
  unfold State.spdmSigned
  try dsimp only
  repeat' first
    | (with_reducible first
        | assumption | apply State.freshBytes_sound | (refine State.freshBytes_sound_eq (he := by assumption) ?_) | apply State.emit_sound)
    | split
    | with_reducible intro _

theorem execGetVersion_sound {s : State} (hS : s.Sound Q) :
    AnsSound Q (execGetVersion s) := by
  unfold execGetVersion
  try dsimp only
  repeat' first
    | (with_reducible first
        | assumption | exact ansSound_fault | apply ansSound_next | apply State.spdmIf_sound | apply State.emit_sound
        | apply State.updSec_sound)
    | split | with_reducible exact rfl
    | with_reducible intro _

theorem execGetCapabilities_sound {s : State} (hS : s.Sound Q) :
    AnsSound Q (execGetCapabilities s) := by
  unfold execGetCapabilities
  try dsimp only
  repeat' first
    | (with_reducible first
        | assumption | exact ansSound_fault | apply ansSound_next | apply State.spdmIf_sound | apply State.emit_sound
        | apply State.updSec_sound)
    | split | with_reducible exact rfl
    | with_reducible intro _

theorem execNegotiateAlgorithms_sound {s : State} (hS : s.Sound Q) :
    AnsSound Q (execNegotiateAlgorithms s) := by
  unfold execNegotiateAlgorithms
  try dsimp only
  repeat' first
    | (with_reducible first
        | assumption | exact ansSound_fault | apply ansSound_next | apply State.spdmIf_sound | apply State.emit_sound
        | apply State.updSec_sound)
    | split | with_reducible exact rfl
    | with_reducible intro _

theorem execGetDigests_sound {s : State} (hS : s.Sound Q) :
    AnsSound Q (execGetDigests s) := by
  unfold execGetDigests
  try dsimp only
  repeat' first
    | (with_reducible first
        | assumption | exact ansSound_fault | apply ansSound_next | apply State.spdmIf_sound | apply State.emit_sound)
    | split
    | with_reducible intro _

theorem execGetCertificate_sound {slot : Nat} {offset : Nat} {length : Nat} {s : State} (hS : s.Sound Q) :
    AnsSound Q (execGetCertificate slot offset length s) := by
  unfold execGetCertificate
  try dsimp only
  repeat' first
    | (with_reducible first
        | assumption | exact ansSound_fault | apply ansSound_next | apply State.spdmIf_sound | apply State.emit_sound)
    | split
    | with_reducible intro _

theorem execChallenge_sound {slot : Nat} {nonce : Bytes} {s : State} (hS : s.Sound Q) :
    AnsSound Q (execChallenge slot nonce s) := by
  unfold execChallenge
  try dsimp only
  repeat' first
    | (with_reducible first
        | assumption | exact ansSound_fault | apply ansSound_next | apply State.spdmIf_sound | apply State.freshBytes_sound
        | (refine State.freshBytes_sound_eq (he := by assumption) ?_) | apply State.spdmSigned_sound)
    | split
    | with_reducible intro _

theorem execGetMeasurements_sound {index : Nat} {sign : Bool} {s : State} (hS : s.Sound Q) :
    AnsSound Q (execGetMeasurements index sign s) := by
  unfold execGetMeasurements
  try dsimp only
  repeat' first
    | (with_reducible first
        | assumption | exact ansSound_fault | apply ansSound_next | apply State.spdmIf_sound | apply State.spdmSigned_sound
        | apply State.emit_sound)
    | split
    | with_reducible intro _

/-! ### Machine/Board.lean -/

theorem execInkBaseSample_sound {b : Nat} {s : State} (hS : s.Sound Q) :
    AnsSound Q (execInkBaseSample b s) := by
  unfold execInkBaseSample
  try dsimp only
  repeat' first
    | (with_reducible first
        | assumption | exact ansSound_fault | apply ansSound_next | apply State.ifB_sound | apply State.fitLedger_sound
        | apply State.setF_sound)
    | split
    | with_reducible intro _

theorem State.updInk_sound {s : State} {f : InkSt → InkSt} (hS : s.Sound Q) :
    (State.updInk s f).Sound Q := by
  unfold State.updInk
  try dsimp only
  repeat' first
    | (with_reducible first
        | assumption)
    | split | fail_if_no_progress with_reducible refine State.Sound.rest ?_ rfl
    | with_reducible intro _

theorem execThrottleFall_sound {s : State} (hS : s.Sound Q) :
    AnsSound Q (execThrottleFall s) := by
  unfold execThrottleFall
  try dsimp only
  repeat' first
    | (with_reducible first
        | assumption | exact ansSound_fault | apply ansSound_next | apply State.ifB_sound | apply State.updInk_sound)
    | split
    | with_reducible intro _

theorem execThrottleQualify_sound {s : State} (hS : s.Sound Q) :
    AnsSound Q (execThrottleQualify s) := by
  unfold execThrottleQualify
  try dsimp only
  repeat' first
    | (with_reducible first
        | assumption | exact ansSound_fault | apply ansSound_next | apply State.ifB_sound | apply State.setF_sound
        | apply State.updInk_sound | apply State.setEnvelope_sound | apply State.bump_sound)
    | split
    | with_reducible intro _

theorem execThrottleRise_sound {s : State} (hS : s.Sound Q) :
    AnsSound Q (execThrottleRise s) := by
  unfold execThrottleRise
  try dsimp only
  repeat' first
    | (with_reducible first
        | assumption | exact ansSound_fault | apply ansSound_next | apply State.ifB_sound | apply State.updInk_sound
        | apply State.bump_sound)
    | split
    | with_reducible intro _

theorem State.liftFloor_sound {s : State} (hS : s.Sound Q) :
    (State.liftFloor s).Sound Q := by
  unfold State.liftFloor
  try dsimp only
  repeat' first
    | (with_reducible first
        | assumption | apply State.setEnvelope_sound | apply State.setF_sound)
    | split
    | with_reducible intro _

theorem execThrottleRelease_sound {s : State} (hS : s.Sound Q) :
    AnsSound Q (execThrottleRelease s) := by
  unfold execThrottleRelease
  try dsimp only
  repeat' first
    | (with_reducible first
        | assumption | exact ansSound_fault | apply ansSound_next | apply State.ifB_sound | apply State.liftFloor_sound
        | apply State.updInk_sound)
    | split
    | with_reducible intro _

theorem execThrottleStuck_sound {s : State} (hS : s.Sound Q) :
    AnsSound Q (execThrottleStuck s) := by
  unfold execThrottleStuck
  try dsimp only
  repeat' first
    | (with_reducible first
        | assumption | exact ansSound_fault | apply ansSound_next | apply State.ifB_sound | apply State.setF_sound)
    | split
    | with_reducible intro _

theorem State.clearStuck_sound {s : State} (hS : s.Sound Q) :
    (State.clearStuck s).Sound Q := by
  unfold State.clearStuck
  try dsimp only
  repeat' first
    | (with_reducible first
        | assumption | apply State.liftFloor_sound | apply State.setF_sound)
    | split
    | with_reducible intro _

theorem execPowerClamp_sound {steps : Nat} {s : State} (hS : s.Sound Q) :
    AnsSound Q (execPowerClamp steps s) := by
  unfold execPowerClamp
  try dsimp only
  repeat' first
    | (with_reducible first
        | assumption | exact ansSound_fault | apply ansSound_next | apply State.ifB_sound | apply State.updChase_sound
        | apply State.setF_sound | apply State.bump_sound)
    | split | with_reducible apply State.Sound.foldl | with_reducible apply State.Sound.foldl_fst
    | with_reducible intro _

theorem State.trip_sound {s : State} (hS : s.Sound Q) :
    (State.trip s).Sound Q := by
  unfold State.trip
  try dsimp only
  repeat' first
    | (with_reducible first
        | assumption)
    | split | fail_if_no_progress with_reducible refine State.Sound.rest ?_ rfl
    | with_reducible intro _

theorem State.noteTemps_sound {s : State} {l0 : Nat} {l1 : Nat} {ha : Nat} {hb : Nat} (hS : s.Sound Q) :
    (State.noteTemps s l0 l1 ha hb).Sound Q := by
  unfold State.noteTemps
  try dsimp only
  repeat' first
    | (with_reducible first
        | assumption | apply State.setFs_sound | apply State.eventRas_sound | apply State.setEnvelope_sound | apply State.setF_sound)
    | split
    | with_reducible intro _

theorem execTempSample_sound {l0 : Nat} {l1 : Nat} {ha : Nat} {hb : Nat} {s : State} (hS : s.Sound Q) :
    AnsSound Q (execTempSample l0 l1 ha hb s) := by
  unfold execTempSample
  try dsimp only
  repeat' first
    | (with_reducible first
        | assumption | exact ansSound_fault | apply ansSound_next | apply State.ifB_sound | apply State.noteTemps_sound
        | apply State.trip_sound)
    | split
    | with_reducible intro _

theorem execSetPointWrite_sound {die : Nat} {mv : Nat} {ack : Bool} {s : State} (hS : s.Sound Q) :
    AnsSound Q (execSetPointWrite die mv ack s) := by
  unfold execSetPointWrite
  try dsimp only
  repeat' first
    | (with_reducible first
        | assumption | exact ansSound_fault | apply ansSound_next | apply State.ifB_sound | apply State.emit_sound
        | apply State.updInk_sound | apply State.fresh_sound | (refine State.fresh_sound_eq (he := by assumption) ?_)
        | apply State.logErr_sound)
    | split
    | with_reducible intro _

/-! ### Machine/Output.lean -/

theorem State.updWork_sound {s : State} {c : Nat} {f : WorkCnt → WorkCnt} (hS : s.Sound Q) :
    (State.updWork s c f).Sound Q := by
  unfold State.updWork
  try dsimp only
  repeat' first
    | (with_reducible first
        | assumption | apply State.updChase_sound)
    | split
    | with_reducible intro _

theorem State.countClose_sound {s : State} {c : Nat} {p : Nat} {plate : Nat} {cw : CloseWord} {r_ : CloseResult} (hS : s.Sound Q) :
    (State.countClose s c p plate cw r_).Sound Q := by
  unfold State.countClose
  try dsimp only
  repeat' first
    | (with_reducible first
        | assumption | apply State.setFs_sound | apply State.updWork_sound | apply State.raiseTo_sound | apply State.bump_sound)
    | split
    | with_reducible intro _

theorem State.closeOut_sound {s : State} {c : Nat} {o : OutSpec} {t : TileIn} (hS : s.Sound Q) :
    (State.closeOut s c o t).1.Sound Q := by
  unfold State.closeOut
  try dsimp only
  repeat' first
    | (with_reducible first
        | assumption | apply State.countClose_sound | apply State.bump_sound)
    | split
    | with_reducible intro _

theorem State.closeOut_sound_eq {s : State} {c : Nat} {o : OutSpec} {t : TileIn} (hS : s.Sound Q) {u : State} {z : ClosedTile} (he : State.closeOut s c o t = (u, z)) :
    u.Sound Q := by
  have := State.closeOut_sound hS (s := s) (c := c) (o := o) (t := t)
  rwa [he] at this

theorem State.closeAll_sound {s : State} {c : Nat} {o : OutSpec} {ts : List TileIn} (hS : s.Sound Q) :
    (State.closeAll s c o ts).1.Sound Q := by
  unfold State.closeAll
  try dsimp only
  repeat' first
    | (with_reducible first
        | assumption | apply State.closeOut_sound | (refine State.closeOut_sound_eq (he := by assumption) ?_))
    | split | with_reducible apply State.Sound.foldl | with_reducible apply State.Sound.foldl_fst
    | with_reducible intro _

theorem State.closeAll_sound_eq {s : State} {c : Nat} {o : OutSpec} {ts : List TileIn} (hS : s.Sound Q) {u : State} {z : List ClosedTile} (he : State.closeAll s c o ts = (u, z)) :
    u.Sound Q := by
  have := State.closeAll_sound hS (s := s) (c := c) (o := o) (ts := ts)
  rwa [he] at this

theorem State.plateStore_sound {s : State} {c : Nat} {a : Nat} {bs : Bytes} (hS : s.Sound Q) :
    (State.plateStore s c a bs).Sound Q := by
  unfold State.plateStore
  try dsimp only
  repeat' first
    | (with_reducible first
        | assumption | apply State.plateWrite_sound | (refine State.plateWrite_sound_eq (he := by assumption) ?_))
    | split | with_reducible apply State.Sound.foldl | with_reducible apply State.Sound.foldl_fst
    | with_reducible intro _

theorem State.writeTile_sound {s : State} {c : Nat} {a : Nat} {bs : Bytes} (hS : s.Sound Q) :
    (State.writeTile s c a bs).Sound Q := by
  unfold State.writeTile
  try dsimp only
  repeat' first
    | (with_reducible first
        | assumption | apply State.plateStore_sound | apply State.chasePoisonRun_sound)
    | split
    | with_reducible intro _

theorem State.storeArray_sound {s : State} {c : Nat} {base : Nat} {tiles : List Bytes} (hS : s.Sound Q) :
    (State.storeArray s c base tiles).1.Sound Q := by
  unfold State.storeArray
  try dsimp only
  repeat' first
    | (with_reducible first
        | assumption | apply State.plateStore_sound | apply State.chasePoisonRun_sound)
    | split | with_reducible apply State.Sound.foldl | with_reducible apply State.Sound.foldl_fst
    | with_reducible intro _

theorem State.storeArray_sound_eq {s : State} {c : Nat} {base : Nat} {tiles : List Bytes} (hS : s.Sound Q) {u : State} {z : List Bool} (he : State.storeArray s c base tiles = (u, z)) :
    u.Sound Q := by
  have := State.storeArray_sound hS (s := s) (c := c) (base := base) (tiles := tiles)
  rwa [he] at this

theorem State.writeOutput_sound {s : State} {c : Nat} {base : Nat} {o : OutSpec} {ts : List TileIn} (hS : s.Sound Q) :
    (State.writeOutput s c base o ts).Sound Q := by
  unfold State.writeOutput
  try dsimp only
  repeat' first
    | (with_reducible first
        | assumption | apply State.closeAll_sound | (refine State.closeAll_sound_eq (he := by assumption) ?_)
        | apply State.storeArray_sound | (refine State.storeArray_sound_eq (he := by assumption) ?_) | apply State.plateWorked_sound)
    | split
    | with_reducible intro _

theorem State.recordFault_sound {s : State} {c : Nat} (hS : s.Sound Q) :
    (State.recordFault s c).Sound Q := by
  unfold State.recordFault
  try dsimp only
  repeat' first
    | (with_reducible first
        | assumption | apply State.plateWorked_sound | apply State.setFs_sound | apply State.bump_sound)
    | split
    | with_reducible intro _

theorem State.metaFault_sound {s : State} {c : Nat} {item : Nat} {code : Nat} (hS : s.Sound Q) :
    (State.metaFault s c item code).Sound Q := by
  unfold State.metaFault
  try dsimp only
  repeat' first
    | (with_reducible first
        | assumption | apply State.updWork_sound | apply State.setFs_sound | apply State.bump_sound)
    | split
    | with_reducible intro _

theorem State.metaFaults_sound {s : State} {c : Nat} {ts : List OpTile} (hS : s.Sound Q) :
    (State.metaFaults s c ts).Sound Q := by
  unfold State.metaFaults
  try dsimp only
  repeat' first
    | (with_reducible first
        | assumption | apply State.metaFault_sound)
    | split | with_reducible apply State.Sound.foldl | with_reducible apply State.Sound.foldl_fst
    | with_reducible intro _

theorem State.plateDo_sound {s : State} {c : Nat} {op : Nat} {hw : List HwEvent} {f : State → State} (hS : s.Sound Q) (hSf : ∀ (y0 : State), y0.Sound Q → (f y0).Sound Q) :
    (State.plateDo s c op hw f).Sound Q := by
  unfold State.plateDo
  try dsimp only
  repeat' first
    | (with_reducible first
        | assumption | apply hSf | apply State.hwEvents_sound | apply State.xfersBegin_sound | apply State.xfersEnd_sound)
    | split
    | with_reducible intro _

theorem State.noteTile_sound {s : State} {c : Nat} {base : Nat} {t : Nat} (hS : s.Sound Q) :
    (State.noteTile s c base t).Sound Q := by
  unfold State.noteTile
  try dsimp only
  repeat' first
    | (with_reducible first
        | assumption | apply State.noteRead_sound)
    | split
    | with_reducible intro _

theorem State.noteArray_sound {s : State} {c : Nat} {base : Nat} {n : Nat} (hS : s.Sound Q) :
    (State.noteArray s c base n).Sound Q := by
  unfold State.noteArray
  try dsimp only
  repeat' first
    | (with_reducible first
        | assumption | apply State.noteRead_sound)
    | split | with_reducible apply State.Sound.foldl | with_reducible apply State.Sound.foldl_fst
    | with_reducible intro _

/-! ### Machine/Stipple.lean -/

theorem State.countSpills_sound {s : State} {c : Nat} {k : Nat} {n : SpillCnt} (hS : s.Sound Q) :
    (State.countSpills s c k n).Sound Q := by
  unfold State.countSpills
  try dsimp only
  repeat' first
    | (with_reducible first
        | assumption | apply State.bump_sound | apply State.raiseTo_sound | apply State.updWork_sound)
    | split
    | with_reducible intro _

theorem State.stippleTake_sound {s : State} {c : Nat} {xs : List Contribution} (hS : s.Sound Q) :
    (State.stippleTake s c xs).Sound Q := by
  unfold State.stippleTake
  try dsimp only
  repeat' first
    | (with_reducible first
        | assumption | apply State.countSpills_sound)
    | split | with_reducible apply State.Sound.foldl | with_reducible apply State.Sound.foldl_fst | fail_if_no_progress with_reducible refine State.Sound.rest ?_ rfl
    | with_reducible intro _

theorem State.stippleMerge_sound {s : State} {c : Nat} (hS : s.Sound Q) :
    (State.stippleMerge s c).1.Sound Q := by
  unfold State.stippleMerge
  try dsimp only
  repeat' first
    | (with_reducible first
        | assumption)
    | split | fail_if_no_progress with_reducible refine State.Sound.rest ?_ rfl
    | with_reducible intro _

theorem State.stippleMerge_sound_eq {s : State} {c : Nat} (hS : s.Sound Q) {u : State} {z : List HellRec} (he : State.stippleMerge s c = (u, z)) :
    u.Sound Q := by
  have := State.stippleMerge_sound hS (s := s) (c := c)
  rwa [he] at this

/-! ### Machine/Graph.lean -/

theorem State.graphFault_sound {s : State} {c : Nat} {code : Nat} {vertex : Option Nat} (hS : s.Sound Q) :
    (State.graphFault s c code vertex).Sound Q := by
  unfold State.graphFault
  try dsimp only
  repeat' first
    | (with_reducible first
        | assumption | apply State.setFs_sound | apply State.bump_sound)
    | split
    | with_reducible intro _

theorem State.graphRecordFault_sound {s : State} {c : Nat} {code : Nat} (hS : s.Sound Q) :
    (State.graphRecordFault s c code).Sound Q := by
  unfold State.graphRecordFault
  try dsimp only
  repeat' first
    | (with_reducible first
        | assumption | apply State.plateWorked_sound | apply State.graphFault_sound)
    | split
    | with_reducible intro _

theorem State.useSplit_sound {s : State} {c : Nat} {graph : Nat} {agSplit : Nat} {g : GraphRec} {os : List Nat} (hS : s.Sound Q) :
    (State.useSplit s c graph agSplit g os).1.Sound Q := by
  unfold State.useSplit
  try dsimp only
  repeat' first
    | (with_reducible first
        | assumption | apply State.bump_sound | apply State.updChase_sound)
    | split
    | with_reducible intro _

theorem State.useSplit_sound_eq {s : State} {c : Nat} {graph : Nat} {agSplit : Nat} {g : GraphRec} {os : List Nat} (hS : s.Sound Q) {u : State} {z : Nat × List Nat} (he : State.useSplit s c graph agSplit g os = (u, z)) :
    u.Sound Q := by
  have := State.useSplit_sound hS (s := s) (c := c) (graph := graph) (agSplit := agSplit) (g := g) (os := os)
  rwa [he] at this

theorem State.rowFaults_sound {s : State} {c : Nat} {rs : List GraphRow} (hS : s.Sound Q) :
    (State.rowFaults s c rs).Sound Q := by
  unfold State.rowFaults
  try dsimp only
  repeat' first
    | (with_reducible first
        | assumption | apply State.graphFault_sound)
    | split | with_reducible apply State.Sound.foldl | with_reducible apply State.Sound.foldl_fst
    | with_reducible intro _

theorem State.readSources_sound {s : State} {c : Nat} {j : AggJob} {us : List Nat} (hS : s.Sound Q) :
    (State.readSources s c j us).Sound Q := by
  unfold State.readSources
  try dsimp only
  repeat' first
    | (with_reducible first
        | assumption | apply State.metaFaults_sound | apply State.noteTile_sound)
    | split | with_reducible apply State.Sound.foldl | with_reducible apply State.Sound.foldl_fst
    | with_reducible intro _

theorem State.readEdges_sound {s : State} {c : Nat} {g : GraphRec} {lo : Nat} {hi : Nat} (hS : s.Sound Q) :
    (State.readEdges s c g lo hi).Sound Q := by
  unfold State.readEdges
  try dsimp only
  repeat' first
    | (with_reducible first
        | assumption | apply State.noteRead_sound)
    | split
    | with_reducible intro _

theorem State.aggWrite_sound {s : State} {c : Nat} {j : AggJob} {p : Plate} {ts : List TileIn} {winners : Bytes} (hS : s.Sound Q) :
    (State.aggWrite s c j p ts winners).Sound Q := by
  unfold State.aggWrite
  try dsimp only
  repeat' first
    | (with_reducible first
        | assumption | apply State.plateStore_sound | apply State.writeOutput_sound)
    | split
    | with_reducible intro _

theorem State.sharedWrite_sound {s : State} {c : Nat} {j : AggJob} {ts : List TileIn} (hS : s.Sound Q) :
    (State.sharedWrite s c j ts).Sound Q := by
  unfold State.sharedWrite
  try dsimp only
  repeat' first
    | (with_reducible first
        | assumption | apply State.closeAll_sound | (refine State.closeAll_sound_eq (he := by assumption) ?_)
        | apply State.storeArray_sound | (refine State.storeArray_sound_eq (he := by assumption) ?_))
    | split
    | with_reducible intro _

theorem State.aggPull_sound {s : State} {c : Nat} {j : AggJob} {p : Plate} {os : List Nat} {allBad : Bool} {t : Nat} {cut : List Nat} (hS : s.Sound Q) :
    (State.aggPull s c j p os allBad t cut).Sound Q := by
  unfold State.aggPull
  try dsimp only
  repeat' first
    | (with_reducible first
        | assumption | apply State.readSources_sound | apply State.rowFaults_sound | apply State.readEdges_sound
        | apply State.aggWrite_sound | apply State.sharedWrite_sound)
    | split
    | with_reducible intro _

theorem State.aggPush_sound {s : State} {c : Nat} {j : AggJob} {p : Plate} {os : List Nat} {allBad : Bool} {arrival : List Nat} (hS : s.Sound Q) :
    (State.aggPush s c j p os allBad arrival).Sound Q := by
  unfold State.aggPush
  try dsimp only
  repeat' first
    | (with_reducible first
        | assumption | apply State.readEdges_sound | apply State.readSources_sound | apply State.rowFaults_sound
        | apply State.stippleMerge_sound | (refine State.stippleMerge_sound_eq (he := by assumption) ?_) | apply State.stippleTake_sound
        | apply State.aggWrite_sound)
    | split | with_reducible apply State.Sound.foldl | with_reducible apply State.Sound.foldl_fst
    | with_reducible intro _

theorem State.aggregatePlate_sound {s : State} {c : Nat} {arrival : List Nat} (hS : s.Sound Q) :
    (State.aggregatePlate s c arrival).Sound Q := by
  unfold State.aggregatePlate
  try dsimp only
  repeat' first
    | (with_reducible first
        | assumption | apply State.noteRead_sound | apply State.graphRecordFault_sound | apply State.useSplit_sound
        | (refine State.useSplit_sound_eq (he := by assumption) ?_) | apply State.aggPull_sound | apply State.aggPush_sound)
    | split | with_reducible apply State.Sound.foldl | with_reducible apply State.Sound.foldl_fst
    | with_reducible intro _

theorem execAggregate_sound {slot : Nat} {hw : List HwEvent} {arrival : List Nat} {s : State} (hS : s.Sound Q) :
    AnsSound Q (execAggregate slot hw arrival s) := by
  unfold execAggregate
  try dsimp only
  repeat' first
    | (with_reducible first
        | assumption | exact ansSound_fault | apply ansSound_next | apply State.plateDo_sound | apply State.aggregatePlate_sound)
    | split
    | with_reducible intro _

theorem State.accumulate_sound {s : State} {c : Nat} {p : FrontPiece} {vs : List Nat} (hS : s.Sound Q) :
    (State.accumulate s c p vs).Sound Q := by
  unfold State.accumulate
  try dsimp only
  repeat' first
    | (with_reducible first
        | assumption | apply State.plateStore_sound)
    | split
    | with_reducible intro _

theorem State.frontierPlate_sound {s : State} {c : Nat} (hS : s.Sound Q) :
    (State.frontierPlate s c).Sound Q := by
  unfold State.frontierPlate
  try dsimp only
  repeat' first
    | (with_reducible first
        | assumption | apply State.noteRead_sound | apply State.graphRecordFault_sound | apply State.noteArray_sound
        | apply State.plateStore_sound | apply State.metaFaults_sound | apply State.bump_sound | apply State.accumulate_sound
        | apply State.plateWorked_sound)
    | split | with_reducible apply State.Sound.foldl | with_reducible apply State.Sound.foldl_fst
    | with_reducible intro _

theorem execFrontier_sound {slot : Nat} {hw : List HwEvent} {s : State} (hS : s.Sound Q) :
    AnsSound Q (execFrontier slot hw s) := by
  unfold execFrontier
  try dsimp only
  repeat' first
    | (with_reducible first
        | assumption | exact ansSound_fault | apply ansSound_next | apply State.plateDo_sound | apply State.frontierPlate_sound)
    | split
    | with_reducible intro _

/-! ### Machine/Reduce.lean -/

theorem State.reduceSend_sound {s : State} {c : Nat} {recs : List WideRec} (hS : s.Sound Q) :
    (State.reduceSend s c recs).Sound Q := by
  unfold State.reduceSend
  try dsimp only
  repeat' first
    | (with_reducible first
        | assumption | apply State.sendMsg_sound | apply State.updChase_sound)
    | split | with_reducible apply State.Sound.foldl | with_reducible apply State.Sound.foldl_fst
    | with_reducible intro _

theorem State.reduceNew_sound {s : State} {c : Nat} {op : Nat} {r_ : ReduceRec} {p : Plate} {got : ReduceLines} (hS : s.Sound Q) :
    (State.reduceNew s c op r_ p got).Sound Q := by
  unfold State.reduceNew
  try dsimp only
  repeat' first
    | (with_reducible first
        | assumption | apply State.plateStore_sound | apply State.writeOutput_sound)
    | split
    | with_reducible intro _

theorem State.putTile_sound {s : State} {c : Nat} {base : Nat} {n : Nat} {t : Nat} {b : Bytes} (hS : s.Sound Q) :
    (State.putTile s c base n t b).1.Sound Q := by
  unfold State.putTile
  try dsimp only
  repeat' first
    | (with_reducible first
        | assumption | apply State.writeTile_sound | apply State.plateStore_sound)
    | split
    | with_reducible intro _

theorem State.putTile_sound_eq {s : State} {c : Nat} {base : Nat} {n : Nat} {t : Nat} {b : Bytes} (hS : s.Sound Q) {u : State} {z : Bool} (he : State.putTile s c base n t b = (u, z)) :
    u.Sound Q := by
  have := State.putTile_sound hS (s := s) (c := c) (base := base) (n := n) (t := t) (b := b)
  rwa [he] at this

theorem State.reduceMerge_sound {s : State} {c : Nat} {op : Nat} {r_ : ReduceRec} {p : Plate} {got : ReduceLines} (hS : s.Sound Q) :
    (State.reduceMerge s c op r_ p got).Sound Q := by
  unfold State.reduceMerge
  try dsimp only
  repeat' first
    | (with_reducible first
        | assumption | apply State.metaFaults_sound | apply State.noteTile_sound | apply State.plateStore_sound
        | apply State.closeAll_sound | (refine State.closeAll_sound_eq (he := by assumption) ?_) | apply State.putTile_sound
        | (refine State.putTile_sound_eq (he := by assumption) ?_) | apply State.plateWorked_sound)
    | split | with_reducible apply State.Sound.foldl | with_reducible apply State.Sound.foldl_fst
    | with_reducible intro _

theorem State.reduceWrite_sound {s : State} {c : Nat} {op : Nat} {r_ : ReduceRec} {p : Plate} {recs : List WideRec} (hS : s.Sound Q) :
    (State.reduceWrite s c op r_ p recs).Sound Q := by
  unfold State.reduceWrite
  try dsimp only
  repeat' first
    | (with_reducible first
        | assumption | apply State.reduceMerge_sound | apply State.reduceNew_sound)
    | split
    | with_reducible intro _

theorem State.reducePlate_sound {s : State} {c : Nat} (hS : s.Sound Q) :
    (State.reducePlate s c).Sound Q := by
  unfold State.reducePlate
  try dsimp only
  repeat' first
    | (with_reducible first
        | assumption | apply State.noteRead_sound | apply State.recordFault_sound | apply State.raiseFlags_sound
        | apply State.metaFaults_sound | apply State.noteArray_sound | apply State.reduceSend_sound | apply State.reduceWrite_sound
        | apply State.updChase_sound)
    | split | with_reducible apply State.Sound.foldl | with_reducible apply State.Sound.foldl_fst
    | with_reducible intro _

theorem execReduce_sound {slot : Nat} {hw : List HwEvent} {s : State} (hS : s.Sound Q) :
    AnsSound Q (execReduce slot hw s) := by
  unfold execReduce
  try dsimp only
  repeat' first
    | (with_reducible first
        | assumption | exact ansSound_fault | apply ansSound_next | apply State.plateDo_sound | apply State.reducePlate_sound)
    | split
    | with_reducible intro _

/-! ### Machine/Lookup.lean -/

theorem State.noteBags_sound {s : State} {c : Nat} {count : Nat} {g : GatherRec} {wsum : Bool} (hS : s.Sound Q) :
    (State.noteBags s c count g wsum).Sound Q := by
  unfold State.noteBags
  try dsimp only
  repeat' first
    | (with_reducible first
        | assumption | apply State.noteRead_sound)
    | split
    | with_reducible intro _

theorem State.noteLookup_sound {s : State} {c : Nat} {g : GalleySt} {x : GalState} {i : Nat} (hS : s.Sound Q) :
    (State.noteLookup s c g x i).Sound Q := by
  unfold State.noteLookup
  try dsimp only
  repeat' first
    | (with_reducible first
        | assumption | apply State.noteRow_sound)
    | split
    | with_reducible intro _

theorem State.writeBags_sound {s : State} {c : Nat} {n : Nat} {p : Plate} {winners : Nat} {bags : List PooledBag} (hS : s.Sound Q) :
    (State.writeBags s c n p winners bags).Sound Q := by
  unfold State.writeBags
  try dsimp only
  repeat' first
    | (with_reducible first
        | assumption | apply State.closeAll_sound | (refine State.closeAll_sound_eq (he := by assumption) ?_)
        | apply State.storeArray_sound | (refine State.storeArray_sound_eq (he := by assumption) ?_) | apply State.plateStore_sound
        | apply State.plateWorked_sound)
    | split
    | with_reducible intro _

theorem State.countGal_sound {s : State} {c : Nat} {id : Nat} {f : GalCnt → GalCnt} (hS : s.Sound Q) :
    (State.countGal s c id f).Sound Q := by
  unfold State.countGal
  try dsimp only
  repeat' first
    | (with_reducible first
        | assumption | apply State.updGalley_sound)
    | split
    | with_reducible intro _

theorem State.countBags_sound {s : State} {c : Nat} {id : Nat} {bags : List Bag} (hS : s.Sound Q) :
    (State.countBags s c id bags).Sound Q := by
  unfold State.countBags
  try dsimp only
  repeat' first
    | (with_reducible first
        | assumption | apply State.countGal_sound)
    | split
    | with_reducible intro _

theorem State.refetch_sound {s : State} {c : Nat} {id : Nat} {bags : List (List PoolEnt)} (hS : s.Sound Q) :
    (State.refetch s c id bags).Sound Q := by
  unfold State.refetch
  try dsimp only
  repeat' first
    | (with_reducible first
        | assumption | apply State.fresh_sound | (refine State.fresh_sound_eq (he := by assumption) ?_) | apply State.countGal_sound)
    | split | with_reducible apply State.Sound.foldl | with_reducible apply State.Sound.foldl_fst
    | with_reducible intro _

theorem State.countUnpooled_sound {s : State} {c : Nat} {id : Nat} {n : Nat} (hS : s.Sound Q) :
    (State.countUnpooled s c id n).Sound Q := by
  unfold State.countUnpooled
  try dsimp only
  repeat' first
    | (with_reducible first
        | assumption | apply State.countGal_sound)
    | split
    | with_reducible intro _

theorem State.countEntries_sound {s : State} {c : Nat} {id : Nat} {bags : List Bag} (hS : s.Sound Q) :
    (State.countEntries s c id bags).Sound Q := by
  unfold State.countEntries
  try dsimp only
  repeat' first
    | (with_reducible first
        | assumption | apply State.countSlug_sound)
    | split | with_reducible apply State.Sound.foldl | with_reducible apply State.Sound.foldl_fst
    | with_reducible intro _

theorem State.noteRows_sound {s : State} {c : Nat} {g : GalleySt} {x : GalState} {bags : List (List PoolEnt)} (hS : s.Sound Q) :
    (State.noteRows s c g x bags).Sound Q := by
  unfold State.noteRows
  try dsimp only
  repeat' first
    | (with_reducible first
        | assumption | apply State.noteLookup_sound)
    | split | with_reducible apply State.Sound.foldl | with_reducible apply State.Sound.foldl_fst
    | with_reducible intro _

theorem State.gatherPlate_sound {s : State} {c : Nat} (hS : s.Sound Q) :
    (State.gatherPlate s c).Sound Q := by
  unfold State.gatherPlate
  try dsimp only
  repeat' first
    | (with_reducible first
        | assumption | apply State.noteRead_sound | apply State.recordFault_sound | apply State.countEntries_sound
        | apply State.countBags_sound | apply State.noteBags_sound | apply State.countUnpooled_sound | apply State.refetch_sound
        | apply State.noteRows_sound | apply State.writeBags_sound)
    | split
    | with_reducible intro _

theorem execGather_sound {slot : Nat} {hw : List HwEvent} {s : State} (hS : s.Sound Q) :
    AnsSound Q (execGather slot hw s) := by
  unfold execGather
  try dsimp only
  repeat' first
    | (with_reducible first
        | assumption | exact ansSound_fault | apply ansSound_next | apply State.plateDo_sound | apply State.gatherPlate_sound)
    | split
    | with_reducible intro _

theorem State.splitPlate_sound {s : State} {c : Nat} (hS : s.Sound Q) :
    (State.splitPlate s c).Sound Q := by
  unfold State.splitPlate
  try dsimp only
  repeat' first
    | (with_reducible first
        | assumption | apply State.noteRead_sound | apply State.recordFault_sound | apply State.countEntries_sound
        | apply State.countBags_sound | apply State.noteBags_sound | apply State.countUnpooled_sound | apply State.refetch_sound
        | apply State.noteRows_sound | apply State.updGalley_sound | apply State.plateWorked_sound)
    | split
    | with_reducible intro _

theorem execSplit_sound {slot : Nat} {hw : List HwEvent} {s : State} (hS : s.Sound Q) :
    AnsSound Q (execSplit slot hw s) := by
  unfold execSplit
  try dsimp only
  repeat' first
    | (with_reducible first
        | assumption | exact ansSound_fault | apply ansSound_next | apply State.plateDo_sound | apply State.splitPlate_sound)
    | split
    | with_reducible intro _

theorem State.servePlate_sound {s : State} {c : Nat} (hS : s.Sound Q) :
    (State.servePlate s c).Sound Q := by
  unfold State.servePlate
  try dsimp only
  repeat' first
    | (with_reducible first
        | assumption | apply State.plateWorked_sound | apply State.countSlug_sound | apply State.noteRows_sound
        | apply State.countUnpooled_sound | apply State.refetch_sound | apply State.updGalley_sound)
    | split | with_reducible apply State.Sound.foldl | with_reducible apply State.Sound.foldl_fst
    | with_reducible intro _

theorem execServe_sound {slot : Nat} {hw : List HwEvent} {s : State} (hS : s.Sound Q) :
    AnsSound Q (execServe slot hw s) := by
  unfold execServe
  try dsimp only
  repeat' first
    | (with_reducible first
        | assumption | exact ansSound_fault | apply ansSound_next | apply State.plateDo_sound | apply State.servePlate_sound)
    | split
    | with_reducible intro _

theorem State.combinePlate_sound {s : State} {c : Nat} (hS : s.Sound Q) :
    (State.combinePlate s c).Sound Q := by
  unfold State.combinePlate
  try dsimp only
  repeat' first
    | (with_reducible first
        | assumption | apply State.recordFault_sound | apply State.updGalley_sound | apply State.writeBags_sound)
    | split
    | with_reducible intro _

theorem execCombine_sound {slot : Nat} {hw : List HwEvent} {s : State} (hS : s.Sound Q) :
    AnsSound Q (execCombine slot hw s) := by
  unfold execCombine
  try dsimp only
  repeat' first
    | (with_reducible first
        | assumption | exact ansSound_fault | apply ansSound_next | apply State.plateDo_sound | apply State.combinePlate_sound)
    | split
    | with_reducible intro _

/-! ### Machine/Scatter.lean -/

theorem State.addTotal_sound {s : State} {c : Nat} {id : Nat} {k : Nat} {j : Nat} {q : Int} (hS : s.Sound Q) :
    (State.addTotal s c id k j q).Sound Q := by
  unfold State.addTotal
  try dsimp only
  repeat' first
    | (with_reducible first
        | assumption | apply State.updGalley_sound | apply State.masterSet_sound)
    | split
    | with_reducible intro _

theorem State.noteArrayDrops_sound {s : State} {c : Nat} {n : Nat} (hS : s.Sound Q) :
    (State.noteArrayDrops s c n).Sound Q := by
  unfold State.noteArrayDrops
  try dsimp only
  repeat' first
    | (with_reducible first
        | assumption | apply State.updWork_sound)
    | split
    | with_reducible intro _

theorem State.applyTotal_sound {s : State} {c : Nat} {id : Nat} {t : Total} (hS : s.Sound Q) :
    (State.applyTotal s c id t).1.Sound Q := by
  unfold State.applyTotal
  try dsimp only
  repeat' first
    | (with_reducible first
        | assumption | apply State.bump_sound | apply State.addTotal_sound | apply State.updGalley_sound)
    | split
    | with_reducible intro _

theorem State.applyTotal_sound_eq {s : State} {c : Nat} {id : Nat} {t : Total} (hS : s.Sound Q) {u : State} {z : Bool} (he : State.applyTotal s c id t = (u, z)) :
    u.Sound Q := by
  have := State.applyTotal_sound hS (s := s) (c := c) (id := id) (t := t)
  rwa [he] at this

theorem State.arrayAdd_sound {s : State} {c : Nat} {base : Nat} {elements : Nat} {i : Nat} {j : Nat} {q : Nat} (hS : s.Sound Q) :
    (State.arrayAdd s c base elements i j q).1.Sound Q := by
  unfold State.arrayAdd
  try dsimp only
  repeat' first
    | (with_reducible first
        | assumption | apply State.atomic_sound | (refine State.atomic_sound_eq (he := by assumption) ?_) | apply State.addHoles_sound)
    | split
    | with_reducible intro _

theorem State.arrayAdd_sound_eq {s : State} {c : Nat} {base : Nat} {elements : Nat} {i : Nat} {j : Nat} {q : Nat} (hS : s.Sound Q) {u : State} {z : Bool} (he : State.arrayAdd s c base elements i j q = (u, z)) :
    u.Sound Q := by
  have := State.arrayAdd_sound hS (s := s) (c := c) (base := base) (elements := elements) (i := i) (j := j) (q := q)
  rwa [he] at this

theorem State.applyArray_sound {s : State} {c : Nat} {base : Nat} {elements : Nat} {t : Total} (hS : s.Sound Q) :
    (State.applyArray s c base elements t).1.Sound Q := by
  unfold State.applyArray
  try dsimp only
  repeat' first
    | (with_reducible first
        | assumption | apply State.arrayAdd_sound | (refine State.arrayAdd_sound_eq (he := by assumption) ?_) | apply State.updChase_sound
        | apply State.noteArrayDrops_sound)
    | split
    | with_reducible intro _

theorem State.applyArray_sound_eq {s : State} {c : Nat} {base : Nat} {elements : Nat} {t : Total} (hS : s.Sound Q) {u : State} {z : Bool} (he : State.applyArray s c base elements t = (u, z)) :
    u.Sound Q := by
  have := State.applyArray_sound hS (s := s) (c := c) (base := base) (elements := elements) (t := t)
  rwa [he] at this

theorem State.applyTotals_sound {s : State} {f : State → Total → State × Bool} {ts : List Total} (hS : s.Sound Q) (hSf : ∀ (y0 : State) (y1 : Total), y0.Sound Q → (f y0 y1).1.Sound Q) :
    (State.applyTotals s f ts).1.Sound Q := by
  unfold State.applyTotals
  try dsimp only
  repeat' first
    | (with_reducible first
        | assumption | apply hSf)
    | split | with_reducible apply State.Sound.foldl | with_reducible apply State.Sound.foldl_fst
    | with_reducible intro _

theorem State.applyTotals_sound_eq {s : State} {f : State → Total → State × Bool} {ts : List Total} (hS : s.Sound Q) (hSf : ∀ (y0 : State) (y1 : Total), y0.Sound Q → (f y0 y1).1.Sound Q) {u : State} {z : Bool} (he : State.applyTotals s f ts = (u, z)) :
    u.Sound Q := by
  have := State.applyTotals_sound hS hSf (s := s) (f := f) (ts := ts)
  rwa [he] at this

theorem State.scatterRun_sound {s : State} {c : Nat} {job : ScatterJob} {em : Int} {arrival : List Nat} {f : State → Total → State × Bool} {cnt : (GalCnt → GalCnt) → State → State} (hS : s.Sound Q) (hSf : ∀ (y0 : State) (y1 : Total), y0.Sound Q → (f y0 y1).1.Sound Q) (hScnt : ∀ (y0 : (GalCnt → GalCnt)) (y1 : State), y1.Sound Q → (cnt y0 y1).Sound Q) :
    (State.scatterRun s c job em arrival f cnt).Sound Q := by
  unfold State.scatterRun
  try dsimp only
  repeat' first
    | (with_reducible first
        | assumption | apply hSf | apply hScnt | apply State.metaFaults_sound | apply State.stippleMerge_sound
        | (refine State.stippleMerge_sound_eq (he := by assumption) ?_) | apply State.stippleTake_sound | apply State.applyTotals_sound
        | (refine State.applyTotals_sound_eq (he := by assumption) ?_ ?_) | apply State.plateWorked_sound)
    | split | with_reducible apply State.Sound.foldl | with_reducible apply State.Sound.foldl_fst
    | with_reducible intro _

theorem State.scatterPlate_sound {s : State} {c : Nat} {arrival : List Nat} (hS : s.Sound Q) :
    (State.scatterPlate s c arrival).Sound Q := by
  unfold State.scatterPlate
  try dsimp only
  repeat' first
    | (with_reducible first
        | assumption | apply State.noteRead_sound | apply State.recordFault_sound | apply State.updChase_sound
        | apply State.noteArray_sound | apply State.noteBags_sound | apply State.updGalley_sound | apply State.scatterRun_sound
        | apply State.applyTotal_sound | (refine State.applyTotal_sound_eq (he := by assumption) ?_) | apply State.countGal_sound
        | apply State.applyArray_sound | (refine State.applyArray_sound_eq (he := by assumption) ?_))
    | split
    | with_reducible intro _

theorem execScatter_sound {slot : Nat} {hw : List HwEvent} {arrival : List Nat} {s : State} (hS : s.Sound Q) :
    AnsSound Q (execScatter slot hw arrival s) := by
  unfold execScatter
  try dsimp only
  repeat' first
    | (with_reducible first
        | assumption | exact ansSound_fault | apply ansSound_next | apply State.plateDo_sound | apply State.scatterPlate_sound)
    | split
    | with_reducible intro _

theorem State.publishRows_sound {s : State} {c : Nat} {id : Nat} {x0 : List Nat} (hS : s.Sound Q) :
    (State.publishRows s c id x0).1.Sound Q := by
  induction x0 generalizing s with
  | nil => exact hS
  | cons a l ih =>
  simp only [State.publishRows]
  repeat' first
    | (with_reducible first
        | assumption | apply ih | apply State.putRow_sound | (refine State.putRow_sound_eq (he := by assumption) ?_) | apply State.noteMaster_sound
        | apply State.updGalley_sound)
    | split
    | with_reducible intro _

theorem State.publishRows_sound_eq {s : State} {c : Nat} {id : Nat} {x0 : List Nat} (hS : s.Sound Q) {u : State} {z : Bool} (he : State.publishRows s c id x0 = (u, z)) :
    u.Sound Q := by
  have := State.publishRows_sound hS (s := s) (c := c) (id := id) (x0 := x0)
  rwa [he] at this

theorem State.publishPlate_sound {s : State} {c : Nat} (hS : s.Sound Q) :
    (State.publishPlate s c).Sound Q := by
  unfold State.publishPlate
  try dsimp only
  repeat' first
    | (with_reducible first
        | assumption | apply State.recordFault_sound | apply State.publishRows_sound
        | (refine State.publishRows_sound_eq (he := by assumption) ?_) | apply State.setGalley_sound | apply State.plateWorked_sound
        | apply State.updGalley_sound)
    | split
    | with_reducible intro _

theorem execPublish_sound {slot : Nat} {hw : List HwEvent} {s : State} (hS : s.Sound Q) :
    AnsSound Q (execPublish slot hw s) := by
  unfold execPublish
  try dsimp only
  repeat' first
    | (with_reducible first
        | assumption | exact ansSound_fault | apply ansSound_next | apply State.plateDo_sound | apply State.publishPlate_sound)
    | split
    | with_reducible intro _

theorem execSwitch_sound {slot : Nat} {hw : List HwEvent} {s : State} (hS : s.Sound Q) :
    AnsSound Q (execSwitch slot hw s) := by
  unfold execSwitch
  try dsimp only
  repeat' first
    | (with_reducible first
        | assumption | exact ansSound_fault | apply ansSound_next | apply State.plateDo_sound | apply State.plateWorked_sound
        | apply State.requestSwitch_sound)
    | split
    | with_reducible intro _

theorem execStateAbort_sound {slot : Nat} {hw : List HwEvent} {s : State} (hS : s.Sound Q) :
    AnsSound Q (execStateAbort slot hw s) := by
  unfold execStateAbort
  try dsimp only
  repeat' first
    | (with_reducible first
        | assumption | exact ansSound_fault | apply ansSound_next | apply State.plateDo_sound | apply State.plateWorked_sound
        | apply State.abortGalley_sound)
    | split
    | with_reducible intro _

/-! ### Machine/Exchange.lean -/

theorem State.sendRecords_sound {s : State} {c : Nat} {i : Nat} {kind : Nat} {target : Nat} {recs : List Bytes} (hS : s.Sound Q) :
    (State.sendRecords s c i kind target recs).Sound Q := by
  unfold State.sendRecords
  try dsimp only
  repeat' first
    | (with_reducible first
        | assumption | apply State.sendMsg_sound)
    | split | with_reducible apply State.Sound.foldl | with_reducible apply State.Sound.foldl_fst
    | with_reducible intro _

theorem State.sendEntry_sound {s : State} {c : Nat} {e : XlEnt} (hS : s.Sound Q) :
    (State.sendEntry s c e).Sound Q := by
  unfold State.sendEntry
  try dsimp only
  repeat' first
    | (with_reducible first
        | assumption | apply State.noteRead_sound | apply State.sendMsg_sound)
    | split | with_reducible apply State.Sound.foldl | with_reducible apply State.Sound.foldl_fst
    | with_reducible intro _

theorem State.sendGuests_sound {s : State} {c : Nat} {id : Nat} {asks : List (Nat × Nat)} (hS : s.Sound Q) :
    (State.sendGuests s c id asks).1.Sound Q := by
  unfold State.sendGuests
  try dsimp only
  repeat' first
    | (with_reducible first
        | assumption | apply State.charge_sound | (refine State.charge_sound_eq (he := by assumption) ?_) | apply State.sendRecords_sound
        | apply State.noteRow_sound)
    | split | with_reducible apply State.Sound.foldl | with_reducible apply State.Sound.foldl_fst
    | with_reducible intro _

theorem State.sendGuests_sound_eq {s : State} {c : Nat} {id : Nat} {asks : List (Nat × Nat)} (hS : s.Sound Q) {u : State} {z : List Nat} (he : State.sendGuests s c id asks = (u, z)) :
    u.Sound Q := by
  have := State.sendGuests_sound hS (s := s) (c := c) (id := id) (asks := asks)
  rwa [he] at this

theorem State.drainGalley_sound {s : State} {c : Nat} {id : Nat} (hS : s.Sound Q) :
    (State.drainGalley s c id).Sound Q := by
  unfold State.drainGalley
  try dsimp only
  repeat' first
    | (with_reducible first
        | assumption | apply State.sendRecords_sound | apply State.setGalley_sound)
    | split | with_reducible apply State.Sound.foldl | with_reducible apply State.Sound.foldl_fst
    | with_reducible intro _

theorem State.drainArray_sound {s : State} {c : Nat} {base : Nat} (hS : s.Sound Q) :
    (State.drainArray s c base).Sound Q := by
  unfold State.drainArray
  try dsimp only
  repeat' first
    | (with_reducible first
        | assumption | apply State.sendRecords_sound | apply State.updChase_sound)
    | split | with_reducible apply State.Sound.foldl | with_reducible apply State.Sound.foldl_fst
    | with_reducible intro _

theorem State.takeGalDelta_sound {s : State} {c : Nat} {id : Nat} {d : DeltaRec} (hS : s.Sound Q) :
    (State.takeGalDelta s c id d).Sound Q := by
  unfold State.takeGalDelta
  try dsimp only
  repeat' first
    | (with_reducible first
        | assumption | apply State.bump_sound | apply State.addTotal_sound)
    | split
    | with_reducible intro _

theorem State.applyDeltas_sound {s : State} {c : Nat} {kind : Nat} {target : Nat} {ds : List DeltaRec} (hS : s.Sound Q) :
    (State.applyDeltas s c kind target ds).Sound Q := by
  unfold State.applyDeltas
  try dsimp only
  repeat' first
    | (with_reducible first
        | assumption | apply State.takeGalDelta_sound | apply State.arrayAdd_sound
        | (refine State.arrayAdd_sound_eq (he := by assumption) ?_))
    | split | with_reducible apply State.Sound.foldl | with_reducible apply State.Sound.foldl_fst
    | with_reducible intro _

theorem State.applyWaiting_sound {s : State} {c : Nat} {kind : Nat} {target : Nat} (hS : s.Sound Q) :
    (State.applyWaiting s c kind target).Sound Q := by
  unfold State.applyWaiting
  try dsimp only
  repeat' first
    | (with_reducible first
        | assumption | apply State.updChase_sound | apply State.sendAck_sound | apply State.markDone_sound | apply State.applyDeltas_sound)
    | split | with_reducible apply State.Sound.foldl | with_reducible apply State.Sound.foldl_fst
    | with_reducible intro _

theorem State.updSplit_sound {s : State} {c : Nat} {id : Nat} {at_ : Nat} {f : Nat → Nat → HeldBag → HeldBag} (hS : s.Sound Q) :
    (State.updSplit s c id at_ f).Sound Q := by
  unfold State.updSplit
  try dsimp only
  repeat' first
    | (with_reducible first
        | assumption | apply State.updGalley_sound)
    | split
    | with_reducible intro _

theorem State.takePartial_sound {s : State} {c : Nat} {id : Nat} {r_ : LookupPartial} (hS : s.Sound Q) :
    (State.takePartial s c id r_).Sound Q := by
  unfold State.takePartial
  try dsimp only
  repeat' first
    | (with_reducible first
        | assumption | apply State.updSplit_sound)
    | split
    | with_reducible intro _

theorem State.requestsLost_sound {s : State} {c : Nat} {id : Nat} {data : Bytes} (hS : s.Sound Q) :
    (State.requestsLost s c id data).Sound Q := by
  unfold State.requestsLost
  try dsimp only
  repeat' first
    | (with_reducible first
        | assumption | apply State.updSplit_sound)
    | split
    | with_reducible intro _

theorem State.takeAppend_sound {s : State} {c : Nat} {kind : Nat} {target : Nat} {src : Nat} {msg : Nat} {data : Bytes} (hS : s.Sound Q) :
    (State.takeAppend s c kind target src msg data).1.Sound Q := by
  unfold State.takeAppend
  try dsimp only
  repeat' first
    | (with_reducible first
        | assumption | apply State.noteArrayDrops_sound | apply State.countGal_sound | apply State.updChase_sound
        | apply State.updGalley_sound | apply State.takePartial_sound | apply State.applyDeltas_sound)
    | split | with_reducible apply State.Sound.foldl | with_reducible apply State.Sound.foldl_fst
    | with_reducible intro _

theorem State.takeAppend_sound_eq {s : State} {c : Nat} {kind : Nat} {target : Nat} {src : Nat} {msg : Nat} {data : Bytes} (hS : s.Sound Q) {u : State} {z : Option Nat} (he : State.takeAppend s c kind target src msg data = (u, z)) :
    u.Sound Q := by
  have := State.takeAppend_sound hS (s := s) (c := c) (kind := kind) (target := target) (src := src) (msg := msg) (data := data)
  rwa [he] at this

theorem State.exchangeSummary_sound {s : State} {c : Nat} {fault : Bool} (hS : s.Sound Q) :
    (State.exchangeSummary s c fault).Sound Q := by
  unfold State.exchangeSummary
  try dsimp only
  repeat' first
    | (with_reducible first
        | assumption | apply State.giveSummary_sound)
    | split
    | with_reducible intro _

theorem State.exchangeTake_sound {s : State} {c : Nat} {fault : Bool} (hS : s.Sound Q) :
    (State.exchangeTake s c fault).Sound Q := by
  unfold State.exchangeTake
  try dsimp only
  repeat' first
    | (with_reducible first
        | assumption | apply State.applyWaiting_sound | apply State.updChase_sound | apply State.exchangeSummary_sound)
    | split
    | with_reducible intro _

theorem State.exchangePlate_sound {s : State} {c : Nat} {asks : List (Nat × Nat)} (hS : s.Sound Q) :
    (State.exchangePlate s c asks).Sound Q := by
  unfold State.exchangePlate
  try dsimp only
  repeat' first
    | (with_reducible first
        | assumption | apply State.recordFault_sound | apply State.exchangeTake_sound | apply State.sendEntry_sound
        | apply State.noteRead_sound | apply State.drainGalley_sound | apply State.sendGuests_sound
        | (refine State.sendGuests_sound_eq (he := by assumption) ?_) | apply State.drainArray_sound | apply State.updChase_sound
        | apply State.plateWorked_sound)
    | split | with_reducible apply State.Sound.foldl | with_reducible apply State.Sound.foldl_fst
    | with_reducible intro _

theorem execExchange_sound {slot : Nat} {inp : ExchangeIn} {s : State} (hS : s.Sound Q) :
    AnsSound Q (execExchange slot inp s) := by
  unfold execExchange
  try dsimp only
  repeat' first
    | (with_reducible first
        | assumption | exact ansSound_fault | apply ansSound_next | apply State.plateDo_sound | apply State.exchangePlate_sound)
    | split
    | with_reducible intro _

end Sys2Proof.Machine
end

