-- ==== Sys2Proof/Laws/SoundLinks.lean ====
section
/-! SUPPORT. The operations of time, links, rings, strokes and the networks keep the queue and the canonical form: one lemma per operation. -/

set_option Elab.async false

namespace Sys2Proof.Machine

set_option linter.unusedTactic false
set_option linter.unreachableTactic false

variable {Q : List Instr}

/-! ### Machine/Links.lean -/

theorem State.noteStamp_sound {s : State} {o : Out} (hS : s.Sound Q) :
    (State.noteStamp s o).Sound Q := by
  unfold State.noteStamp
  try dsimp only
  repeat' first
    | (with_reducible first
        | assumption | apply State.updTime_sound)
    | split
    | with_reducible intro _

theorem State.flushLink_sound {s : State} {l : Nat} {x0 : Nat} (hS : s.Sound Q) :
    (State.flushLink s l x0).Sound Q := by
  induction x0 generalizing s with
  | zero => exact hS
  | succ n ih =>
  simp only [State.flushLink]
  repeat' first
    | (with_reducible first
        | assumption | apply ih | apply State.noteStamp_sound | apply State.emit_sound | apply State.sendOn_sound | apply State.updLink_sound)
    | split
    | with_reducible intro _

theorem State.sendLink_sound {s : State} {l : Nat} {typ : Nat} {arg : Nat} {o : Out} (hS : s.Sound Q) :
    (State.sendLink s l typ arg o).Sound Q := by
  unfold State.sendLink
  try dsimp only
  repeat' first
    | (with_reducible first
        | assumption | apply State.updLink_sound | apply State.flushLink_sound)
    | split
    | with_reducible intro _

theorem State.dbChanged_sound {s : State} (hS : s.Sound Q) :
    (State.dbChanged s).Sound Q := by
  unfold State.dbChanged
  try dsimp only
  repeat' first
    | (with_reducible first
        | assumption | apply State.setFs_sound | apply State.bump_sound | apply State.updFab_sound)
    | split | with_reducible apply State.Sound.foldl | with_reducible apply State.Sound.foldl_fst
    | with_reducible intro _

theorem State.keepLsr_sound {s : State} {r_ : Lsr} (hS : s.Sound Q) :
    (State.keepLsr s r_).Sound Q := by
  unfold State.keepLsr
  try dsimp only
  repeat' first
    | (with_reducible first
        | assumption | apply State.updFab_sound | apply State.dbChanged_sound)
    | split
    | with_reducible intro _

theorem State.flood_sound {s : State} {r_ : Lsr} {but : Nat} (hS : s.Sound Q) :
    (State.flood s r_ but).Sound Q := by
  unfold State.flood
  try dsimp only
  repeat' first
    | (with_reducible first
        | assumption | apply State.sendLink_sound)
    | split | with_reducible apply State.Sound.foldl | with_reducible apply State.Sound.foldl_fst
    | with_reducible intro _

theorem State.originate_sound {s : State} (hS : s.Sound Q) :
    (State.originate s).Sound Q := by
  unfold State.originate
  try dsimp only
  repeat' first
    | (with_reducible first
        | assumption | apply State.flood_sound | apply State.keepLsr_sound | apply State.updFab_sound)
    | split
    | with_reducible intro _

theorem State.renameTables_sound {s : State} {m : List (Nat × Nat × Nat × Nat)} (hS : s.Sound Q) :
    (State.renameTables s m).Sound Q := by
  unfold State.renameTables
  try dsimp only
  repeat' first
    | (with_reducible first
        | assumption | apply State.wr_sound)
    | split | with_reducible apply State.Sound.foldl | with_reducible apply State.Sound.foldl_fst
    | with_reducible intro _

theorem State.activate_sound {s : State} {l : Nat} (hS : s.Sound Q) :
    (State.activate s l).Sound Q := by
  unfold State.activate
  try dsimp only
  repeat' first
    | (with_reducible first
        | assumption | apply State.updLink_sound | apply State.setF_sound | apply State.resendFrom_sound)
    | split
    | with_reducible intro _

theorem State.enterLinked_sound {s : State} {l : Nat} (hS : s.Sound Q) :
    (State.enterLinked s l).Sound Q := by
  unfold State.enterLinked
  try dsimp only
  repeat' first
    | (with_reducible first
        | assumption | apply State.updLink_sound | apply State.setF_sound)
    | split
    | with_reducible intro _

theorem State.rebundle_sound {s : State} (hS : s.Sound Q) :
    (State.rebundle s).Sound Q := by
  unfold State.rebundle
  try dsimp only
  repeat' first
    | (with_reducible first
        | assumption | apply State.wr_sound | apply State.setF_sound | apply State.renameTables_sound | apply State.activate_sound
        | apply State.setFs_sound | apply State.originate_sound | apply State.retryHeld_sound | apply State.chooseParent_sound)
    | split | with_reducible apply State.Sound.foldl | with_reducible apply State.Sound.foldl_fst
    | with_reducible intro _

theorem State.placeLink_sound {s : State} {l : Nat} (hS : s.Sound Q) :
    (State.placeLink s l).Sound Q := by
  unfold State.placeLink
  try dsimp only
  repeat' first
    | (with_reducible first
        | assumption | apply State.setF_sound | apply State.enterLinked_sound)
    | split
    | with_reducible intro _

theorem State.noteFabric_sound {s : State} (hS : s.Sound Q) :
    (State.noteFabric s).Sound Q := by
  unfold State.noteFabric
  try dsimp only
  repeat' first
    | (with_reducible first
        | assumption | apply State.setFs_sound)
    | split
    | with_reducible intro _

theorem State.reroute_sound {s : State} {fs : List Flit} (hS : s.Sound Q) :
    (State.reroute s fs).Sound Q := by
  unfold State.reroute
  try dsimp only
  repeat' first
    | (with_reducible first
        | assumption | apply State.deliverFlit_sound | apply State.routeFrom_sound)
    | split | with_reducible apply State.Sound.foldl | with_reducible apply State.Sound.foldl_fst
    | with_reducible intro _

theorem State.resendOn_sound {s : State} {links : List Nat} {fs : List Flit} (hS : s.Sound Q) :
    (State.resendOn s links fs).Sound Q := by
  unfold State.resendOn
  try dsimp only
  repeat' first
    | (with_reducible first
        | assumption | apply State.sendOn_sound | apply State.updFab_sound)
    | split | with_reducible apply State.Sound.foldl | with_reducible apply State.Sound.foldl_fst
    | with_reducible intro _

theorem State.unlink_sound {s : State} {l : Nat} {st : Nat} (hS : s.Sound Q) :
    (State.unlink s l st).Sound Q := by
  unfold State.unlink
  try dsimp only
  repeat' first
    | (with_reducible first
        | assumption | apply State.updLink_sound | apply State.setF_sound | apply State.setFs_sound)
    | split
    | with_reducible intro _

theorem State.linkDown_sound {s : State} {l : Nat} (hS : s.Sound Q) :
    (State.linkDown s l).Sound Q := by
  unfold State.linkDown
  try dsimp only
  repeat' first
    | (with_reducible first
        | assumption | apply State.logErr_sound | apply State.updLink_sound | apply State.unlink_sound | apply State.reroute_sound
        | apply State.rebundle_sound)
    | split
    | with_reducible intro _

theorem State.retrain_sound {s : State} {l : Nat} {n : Nat} (hS : s.Sound Q) :
    (State.retrain s l n).Sound Q := by
  unfold State.retrain
  try dsimp only
  repeat' first
    | (with_reducible first
        | assumption | apply State.updLink_sound | apply State.bump_sound | apply State.unlink_sound | apply State.resendOn_sound
        | apply State.rebundle_sound)
    | split
    | with_reducible intro _

theorem execSignalPresent_sound {link : Nat} {s : State} (hS : s.Sound Q) :
    AnsSound Q (execSignalPresent link s) := by
  unfold execSignalPresent
  try dsimp only
  repeat' first
    | (with_reducible first
        | assumption | exact ansSound_fault | apply ansSound_next | apply State.ifB_sound | apply State.updLink_sound
        | apply State.setF_sound)
    | split
    | with_reducible intro _

theorem execLossOfSignal_sound {link : Nat} {s : State} (hS : s.Sound Q) :
    AnsSound Q (execLossOfSignal link s) := by
  unfold execLossOfSignal
  try dsimp only
  repeat' first
    | (with_reducible first
        | assumption | exact ansSound_fault | apply ansSound_next | apply State.ifB_sound | apply State.updLink_sound
        | apply State.noteFabric_sound | apply State.linkDown_sound)
    | split
    | with_reducible intro _

theorem execTrainingRetry_sound {link : Nat} {s : State} (hS : s.Sound Q) :
    AnsSound Q (execTrainingRetry link s) := by
  unfold execTrainingRetry
  try dsimp only
  repeat' first
    | (with_reducible first
        | assumption | exact ansSound_fault | apply ansSound_next | apply State.ifB_sound | apply State.setF_sound
        | apply State.updLink_sound)
    | split
    | with_reducible intro _

theorem State.takeHello_sound {s : State} {l : Nat} {h : Hello} (hS : s.Sound Q) :
    (State.takeHello s l h).Sound Q := by
  unfold State.takeHello
  try dsimp only
  repeat' first
    | (with_reducible first
        | assumption | apply State.setFs_sound | apply State.rebundle_sound | apply State.placeLink_sound | apply State.updLink_sound
        | apply State.setF_sound)
    | split
    | with_reducible intro _

theorem execHello_sound {link : Nat} {h : Hello} {s : State} (hS : s.Sound Q) :
    AnsSound Q (execHello link h s) := by
  unfold execHello
  try dsimp only
  repeat' first
    | (with_reducible first
        | assumption | exact ansSound_fault | apply ansSound_next | apply State.ifB_sound | apply State.takeHello_sound)
    | split
    | with_reducible intro _

theorem execHelloTick_sound {s : State} (hS : s.Sound Q) :
    AnsSound Q (execHelloTick s) := by
  unfold execHelloTick
  try dsimp only
  repeat' first
    | (with_reducible first
        | assumption | exact ansSound_fault | apply ansSound_next | apply State.ifB_sound | apply State.sendLink_sound)
    | split | with_reducible apply State.Sound.foldl | with_reducible apply State.Sound.foldl_fst
    | with_reducible intro _

theorem execHelloTimeout_sound {link : Nat} {s : State} (hS : s.Sound Q) :
    AnsSound Q (execHelloTimeout link s) := by
  unfold execHelloTimeout
  try dsimp only
  repeat' first
    | (with_reducible first
        | assumption | exact ansSound_fault | apply ansSound_next | apply State.ifB_sound | apply State.linkDown_sound
        | apply State.setF_sound | apply State.updLink_sound | apply State.bump_sound)
    | split
    | with_reducible intro _

theorem execTrainingComplete_sound {link : Nat} {ok : Bool} {h : Hello} {s : State} (hS : s.Sound Q) :
    AnsSound Q (execTrainingComplete link ok h s) := by
  unfold execTrainingComplete
  try dsimp only
  repeat' first
    | (with_reducible first
        | assumption | exact ansSound_fault | apply ansSound_next | apply State.ifB_sound | apply State.updLink_sound
        | apply State.enterLinked_sound | apply State.takeHello_sound | apply State.resendFrom_sound | apply State.noteFabric_sound
        | apply State.sendLink_sound | apply State.retrain_sound | apply State.linkDown_sound)
    | split
    | with_reducible intro _

theorem execLsr_sound {link : Nat} {r_ : Lsr} {s : State} (hS : s.Sound Q) :
    AnsSound Q (execLsr link r_ s) := by
  unfold execLsr
  try dsimp only
  repeat' first
    | (with_reducible first
        | assumption | exact ansSound_fault | apply ansSound_next | apply State.ifB_sound | apply State.flood_sound
        | apply State.keepLsr_sound)
    | split
    | with_reducible intro _

theorem execLsrRefresh_sound {s : State} (hS : s.Sound Q) :
    AnsSound Q (execLsrRefresh s) := by
  unfold execLsrRefresh
  try dsimp only
  repeat' first
    | (with_reducible first
        | assumption | exact ansSound_fault | apply ansSound_next | apply State.ifB_sound | apply State.originate_sound)
    | split
    | with_reducible intro _

theorem execLsrExpiry_sound {serial : Nat} {s : State} (hS : s.Sound Q) :
    AnsSound Q (execLsrExpiry serial s) := by
  unfold execLsrExpiry
  try dsimp only
  repeat' first
    | (with_reducible first
        | assumption | exact ansSound_fault | apply ansSound_next | apply State.ifB_sound | apply State.dbChanged_sound
        | apply State.updFab_sound)
    | split
    | with_reducible intro _

theorem execSettlement_sound {s : State} (hS : s.Sound Q) :
    AnsSound Q (execSettlement s) := by
  unfold execSettlement
  try dsimp only
  repeat' first
    | (with_reducible first
        | assumption | exact ansSound_fault | apply ansSound_next | apply State.ifB_sound | apply State.updFab_sound
        | apply State.setFs_sound | apply State.faultChase_sound | apply State.rebundle_sound | apply State.placeLink_sound)
    | split | with_reducible apply State.Sound.foldl | with_reducible apply State.Sound.foldl_fst
    | with_reducible intro _

/-! ### Machine/Topology.lean -/

theorem State.putTables_sound {s : State} {r_ : RouteTables} (hS : s.Sound Q) :
    (State.putTables s r_).Sound Q := by
  unfold State.putTables
  exact State.Sound.foldl (fun _ _ h => State.wr_sound h _ _ _) (State.Sound.foldl (fun _ _ h => State.wr_sound h _ _ _) (hS.filterRegs _))

theorem State.fitLinks_sound {s : State} {fits : List BundleFit} (hS : s.Sound Q) :
    (State.fitLinks s fits).Sound Q := by
  unfold State.fitLinks
  try dsimp only
  repeat' first
    | (with_reducible first
        | assumption | apply State.setFs_sound | apply State.enterLinked_sound)
    | split | with_reducible apply State.Sound.foldl | with_reducible apply State.Sound.foldl_fst
    | with_reducible intro _

theorem State.routeBuild_sound {s : State} (hS : s.Sound Q) :
    (State.routeBuild s).Sound Q := by
  unfold State.routeBuild
  try dsimp only
  repeat' first
    | (with_reducible first
        | assumption | apply State.setFs_sound | apply State.putTables_sound | apply State.fitLinks_sound | apply State.updFab_sound
        | apply State.bump_sound | apply State.noteFabric_sound | apply State.rebundle_sound)
    | split | with_reducible apply State.Sound.foldl | with_reducible apply State.Sound.foldl_fst
    | with_reducible intro _

theorem execRouteBuild_sound {s : State} (hS : s.Sound Q) :
    AnsSound Q (execRouteBuild s) := by
  unfold execRouteBuild
  try dsimp only
  repeat' first
    | (with_reducible first
        | assumption | exact ansSound_fault | apply ansSound_next | apply State.ifB_sound | apply State.routeBuild_sound)
    | split
    | with_reducible intro _

/-! ### Machine/Ring.lean -/

theorem State.updRing_sound {s : State} {r_ : Nat} {f : RingRt → RingRt} (hS : s.Sound Q) :
    (State.updRing s r_ f).Sound Q := by
  unfold State.updRing
  try dsimp only
  repeat' first
    | (with_reducible first
        | assumption)
    | split | fail_if_no_progress with_reducible refine State.Sound.rest ?_ rfl
    | with_reducible intro _

theorem State.beginTicket_sound {s : State} {r_ : Nat} {raw : Bytes} (hS : s.Sound Q) :
    (State.beginTicket s r_ raw).Sound Q := by
  unfold State.beginTicket
  try dsimp only
  repeat' first
    | (with_reducible first
        | assumption)
    | split | fail_if_no_progress with_reducible refine State.Sound.rest ?_ rfl
    | with_reducible intro _

theorem State.pumpPosted_sound {x0 : Nat} {x1 : State} {x2 : Nat} (hSx1 : x1.Sound Q) :
    (State.pumpPosted x0 x1 x2).Sound Q := by
  induction x0 generalizing x1 with
  | zero => exact hSx1
  | succ n ih =>
  simp only [State.pumpPosted]
  repeat' first
    | (with_reducible first
        | assumption | apply ih | apply State.beginTicket_sound)
    | split | fail_if_no_progress with_reducible refine State.Sound.rest ?_ rfl
    | with_reducible intro _

theorem State.postTickets_sound {s : State} {r_ : Nat} {l : List Bytes} (hS : s.Sound Q) :
    (State.postTickets s r_ l).Sound Q := by
  unfold State.postTickets
  try dsimp only
  repeat' first
    | (with_reducible first
        | assumption | apply State.pumpPosted_sound)
    | split | fail_if_no_progress with_reducible refine State.Sound.rest ?_ rfl
    | with_reducible intro _

theorem State.fetchOne_sound {s : State} {r_ : Nat} (hS : s.Sound Q) :
    (State.fetchOne s r_).1.Sound Q := by
  unfold State.fetchOne
  extract_lets x h
  have ha := State.hostGet_sound (s := s) (a := 4096 * s.getF Fld.hifRgTbase r_ + 512 * (h % s.ringSize r_)) (n := 512) hS
  revert ha
  generalize s.hostGet (4096 * s.getF Fld.hifRgTbase r_ + 512 * (h % s.ringSize r_)) 512 = p
  obtain ⟨s1, _ | b⟩ := p
  all_goals
    intro ha
    dsimp only at ha ⊢
    split
    · exact hS
    split
    · dsimp only; exact State.updRing_sound hS
    repeat' first | with_reducible assumption | with_reducible apply State.updRing_sound | with_reducible apply State.setF_sound | with_reducible apply State.beginTicket_sound | split

theorem State.fetchOne_sound_eq {s : State} {r_ : Nat} (hS : s.Sound Q) {u : State} {z : Fetch} (he : State.fetchOne s r_ = (u, z)) :
    u.Sound Q := by
  have := State.fetchOne_sound hS (s := s) (r_ := r_)
  rwa [he] at this

theorem State.fetchLoop_sound {x0 : Nat} {x1 : State} {x2 : Nat} (hSx1 : x1.Sound Q) :
    (State.fetchLoop x0 x1 x2).Sound Q := by
  induction x0 generalizing x1 with
  | zero => exact hSx1
  | succ n ih =>
  simp only [State.fetchLoop]
  repeat' first
    | (with_reducible first
        | assumption | apply ih | apply State.fetchOne_sound | (refine State.fetchOne_sound_eq (he := by assumption) ?_) | apply State.updRing_sound)
    | split
    | with_reducible intro _

theorem State.pump_sound {s : State} {r_ : Nat} (hS : s.Sound Q) :
    (State.pump s r_).Sound Q := by
  unfold State.pump
  try dsimp only
  repeat' first
    | (with_reducible first
        | assumption | apply State.fetchLoop_sound)
    | split
    | with_reducible intro _

theorem State.reread_sound {s : State} {r_ : Nat} {n : Nat} (hS : s.Sound Q) :
    (State.reread s r_ n).Sound Q := by
  unfold State.reread
  try dsimp only
  repeat' first
    | (with_reducible first
        | assumption | apply State.fetchOne_sound | (refine State.fetchOne_sound_eq (he := by assumption) ?_) | apply State.bump_sound
        | apply State.pump_sound | apply State.updRing_sound | apply State.eventStale_sound | apply State.setF_sound)
    | split
    | with_reducible intro _

theorem execTicketReread_sound {ring : Nat} {stores : List (Nat × BitVec 8)} {s : State} (hS : s.Sound Q) :
    AnsSound Q (execTicketReread ring stores s) := by
  unfold execTicketReread
  try dsimp only
  repeat' first
    | (with_reducible first
        | assumption | exact ansSound_fault | apply ansSound_next | apply State.hostStores_sound | apply State.reread_sound)
    | split
    | with_reducible intro _

theorem State.doorbell_sound {s : State} {r_ : Nat} {value : Nat} (hS : s.Sound Q) :
    (State.doorbell s r_ value).Sound Q := by
  unfold State.doorbell
  try dsimp only
  repeat' first
    | (with_reducible first
        | assumption | apply State.bump_sound | apply State.updRing_sound | apply State.fetchOne_sound
        | (refine State.fetchOne_sound_eq (he := by assumption) ?_) | apply State.pump_sound)
    | split
    | with_reducible intro _

theorem execDoorbell_sound {rid : Nat} {ring : Nat} {value : Nat} {stores : List (Nat × BitVec 8)} {s : State} (hS : s.Sound Q) :
    AnsSound Q (execDoorbell rid ring value stores s) := by
  unfold execDoorbell
  try dsimp only
  repeat' first
    | (with_reducible first
        | assumption | exact ansSound_fault | apply ansSound_next | apply State.regWrite_sound | apply State.hostStores_sound
        | apply State.ifB_sound | apply State.doorbell_sound)
    | split
    | with_reducible intro _

theorem State.signalRing_sound {s : State} {r_ : Nat} (hS : s.Sound Q) :
    (State.signalRing s r_).Sound Q := by
  unfold State.signalRing
  try dsimp only
  repeat' first
    | (with_reducible first
        | assumption | apply State.msix1_sound | apply State.updRing_sound)
    | split
    | with_reducible intro _

theorem State.putProof_sound {s : State} {r_ : Nat} {p : Bytes × Bool} (hS : s.Sound Q) :
    (State.putProof s r_ p).1.Sound Q := by
  unfold State.putProof
  try dsimp only
  repeat' first
    | (with_reducible first
        | assumption | apply State.hostPut_sound | (refine State.hostPut_sound_eq (he := by assumption) ?_) | apply State.setF_sound
        | apply State.updRing_sound | apply State.signalRing_sound)
    | split
    | with_reducible intro _

theorem State.putProof_sound_eq {s : State} {r_ : Nat} {p : Bytes × Bool} (hS : s.Sound Q) {u : State} {z : Bool} (he : State.putProof s r_ p = (u, z)) :
    u.Sound Q := by
  have := State.putProof_sound hS (s := s) (r_ := r_) (p := p)
  rwa [he] at this

theorem State.drained_sound {s : State} {r_ : Nat} (hS : s.Sound Q) :
    (State.drained s r_).Sound Q := by
  unfold State.drained
  try dsimp only
  repeat' first
    | (with_reducible first
        | assumption | apply State.setF_sound)
    | split
    | with_reducible intro _

theorem State.blockProof_sound {s : State} {r_ : Nat} {p : Bytes × Bool} (hS : s.Sound Q) :
    (State.blockProof s r_ p).Sound Q := by
  unfold State.blockProof
  try dsimp only
  repeat' first
    | (with_reducible first
        | assumption | apply State.updRing_sound | apply State.setF_sound)
    | split
    | with_reducible intro _

theorem State.dropTicket_sound {s : State} {t : Ticket} (hS : s.Sound Q) :
    (State.dropTicket s t).Sound Q := by
  unfold State.dropTicket
  try dsimp only
  repeat' first
    | (with_reducible first
        | assumption | apply State.setF_sound)
    | split | fail_if_no_progress with_reducible refine State.Sound.rest ?_ rfl
    | with_reducible intro _

theorem State.writeProof_sound {s : State} {t : Ticket} (hS : s.Sound Q) :
    (State.writeProof s t).Sound Q := by
  unfold State.writeProof
  try dsimp only
  repeat' first
    | (with_reducible first
        | assumption | apply State.drainResult_sound | apply State.dropTicket_sound | apply State.logErr_sound
        | apply State.pumpPosted_sound | apply State.emit_sound | apply State.pump_sound | apply State.updRing_sound
        | apply State.putProof_sound | (refine State.putProof_sound_eq (he := by assumption) ?_) | apply State.drained_sound
        | apply State.blockProof_sound)
    | split
    | with_reducible intro _

theorem execProof_sound {ring : Nat} {seq : Nat} {s : State} (hS : s.Sound Q) :
    AnsSound Q (execProof ring seq s) := by
  unfold execProof
  try dsimp only
  repeat' first
    | (with_reducible first
        | assumption | exact ansSound_fault | apply ansSound_next | apply State.writeProof_sound)
    | split
    | with_reducible intro _

theorem execCoalesceTimeout_sound {ring : Nat} {s : State} (hS : s.Sound Q) :
    AnsSound Q (execCoalesceTimeout ring s) := by
  unfold execCoalesceTimeout
  try dsimp only
  repeat' first
    | (with_reducible first
        | assumption | exact ansSound_fault | apply ansSound_next | apply State.ifB_sound | apply State.signalRing_sound)
    | split
    | with_reducible intro _

theorem State.enableRing_sound {s : State} {r_ : Nat} (hS : s.Sound Q) :
    (State.enableRing s r_).Sound Q := by
  unfold State.enableRing
  try dsimp only
  repeat' first
    | (with_reducible first
        | assumption | apply State.updRing_sound | apply State.setFs_sound)
    | split
    | with_reducible intro _

theorem State.orphanTickets_sound {s : State} {r_ : Nat} (hS : s.Sound Q) :
    (State.orphanTickets s r_).Sound Q := by
  unfold State.orphanTickets
  try dsimp only
  repeat' first
    | (with_reducible first
        | assumption)
    | split | fail_if_no_progress with_reducible refine State.Sound.rest ?_ rfl
    | with_reducible intro _

theorem State.disableRing_sound {s : State} {r_ : Nat} (hS : s.Sound Q) :
    (State.disableRing s r_).Sound Q := by
  unfold State.disableRing
  try dsimp only
  repeat' first
    | (with_reducible first
        | assumption | apply State.setF_sound | apply State.updRing_sound | apply State.setFs_sound | apply State.orphanTickets_sound
        | apply State.drained_sound)
    | split
    | with_reducible intro _

theorem State.writeWaiting_sound {x0 : Nat} {x1 : State} {x2 : Nat} (hSx1 : x1.Sound Q) :
    (State.writeWaiting x0 x1 x2).Sound Q := by
  induction x0 generalizing x1 with
  | zero => exact hSx1
  | succ n ih =>
  simp only [State.writeWaiting]
  repeat' first
    | (with_reducible first
        | assumption | apply ih | apply State.putProof_sound | (refine State.putProof_sound_eq (he := by assumption) ?_) | apply State.updRing_sound)
    | split
    | with_reducible intro _

theorem State.resumeRing_sound {s : State} {r_ : Nat} (hS : s.Sound Q) :
    (State.resumeRing s r_).Sound Q := by
  unfold State.resumeRing
  try dsimp only
  repeat' first
    | (with_reducible first
        | assumption | apply State.pump_sound | apply State.setF_sound | apply State.writeWaiting_sound | apply State.drained_sound)
    | split
    | with_reducible intro _

theorem State.ringCtrl_sound {s : State} {r_ : Nat} {value : Nat} (hS : s.Sound Q) :
    (State.ringCtrl s r_ value).Sound Q := by
  unfold State.ringCtrl
  try dsimp only
  repeat' first
    | (with_reducible first
        | assumption | apply State.setFs_sound | apply State.enableRing_sound | apply State.disableRing_sound
        | apply State.resumeRing_sound)
    | split
    | with_reducible intro _

theorem execHifRgEn_sound {rid : Nat} {ring : Nat} {value : Nat} {s : State} (hS : s.Sound Q) :
    AnsSound Q (execHifRgEn rid ring value s) := by
  unfold execHifRgEn
  try dsimp only
  repeat' first
    | (with_reducible first
        | assumption | exact ansSound_fault | apply ansSound_next | apply State.regWrite_sound | apply State.ifB_sound
        | apply State.ringCtrl_sound)
    | split
    | with_reducible intro _

theorem execRingDisable_sound {rid : Nat} {ring : Nat} {value : Nat} {s : State} (hS : s.Sound Q) :
    AnsSound Q (execRingDisable rid ring value s) := by
  unfold execRingDisable
  try dsimp only
  repeat' first
    | (with_reducible first
        | assumption | exact ansSound_fault | apply ansSound_next | apply State.regWrite_sound | apply State.ifB_sound
        | apply State.ringCtrl_sound)
    | split
    | with_reducible intro _

theorem execHifRgResume_sound {rid : Nat} {ring : Nat} {stores : List (Nat × BitVec 8)} {s : State} (hS : s.Sound Q) :
    AnsSound Q (execHifRgResume rid ring stores s) := by
  unfold execHifRgResume
  try dsimp only
  repeat' first
    | (with_reducible first
        | assumption | exact ansSound_fault | apply ansSound_next | apply State.regWrite_sound | apply State.hostStores_sound
        | apply State.ifB_sound | apply State.resumeRing_sound)
    | split
    | with_reducible intro _

/-! ### Machine/Data.lean -/

theorem State.putData_sound {s : State} {t : Ticket} {bs : Bytes} {bad : List (Nat × Nat)} {value : Nat} (hS : s.Sound Q) :
    (State.putData s t bs bad value).Sound Q := by
  unfold State.putData
  try dsimp only
  repeat' first
    | (with_reducible first
        | assumption | apply State.ticketWrite_sound | (refine State.ticketWrite_sound_eq (he := by assumption) ?_)
        | apply State.done_sound | apply State.chasePoisonRun_sound)
    | split | with_reducible apply State.Sound.foldl | with_reducible apply State.Sound.foldl_fst
    | with_reducible intro _

theorem execDataWrite_sound {ring : Nat} {x : TicketIn} {s : State} (hS : s.Sound Q) :
    AnsSound Q (execDataWrite ring x s) := by
  unfold execDataWrite
  try dsimp only
  repeat' first
    | (with_reducible first
        | assumption | exact ansSound_fault | apply ansSound_next | apply State.withXfers_sound | apply State.ticketAct_sound
        | apply State.withSource_sound | apply State.putData_sound | apply State.bump_sound)
    | split
    | with_reducible intro _

theorem execDataRead_sound {ring : Nat} {x : TicketIn} {s : State} (hS : s.Sound Q) :
    AnsSound Q (execDataRead ring x s) := by
  unfold execDataRead
  try dsimp only
  repeat' first
    | (with_reducible first
        | assumption | exact ansSound_fault | apply ansSound_next | apply State.withXfers_sound | apply State.ticketAct_sound
        | apply State.withSource_sound | apply State.deliver_sound | (refine State.deliver_sound_eq (he := by assumption) ?_)
        | apply State.done_sound)
    | split
    | with_reducible intro _

theorem execImpHint_sound {ring : Nat} {seq : Nat} {s : State} (hS : s.Sound Q) :
    AnsSound Q (execImpHint ring seq s) := by
  unfold execImpHint
  try dsimp only
  repeat' first
    | (with_reducible first
        | assumption | exact ansSound_fault | apply ansSound_next | apply State.ticketAct_sound | apply State.done_sound
        | apply State.withSource_sound | apply State.updChase_sound)
    | split
    | with_reducible intro _

theorem execMarkOp_sound {ring : Nat} {seq : Nat} {s : State} (hS : s.Sound Q) :
    AnsSound Q (execMarkOp ring seq s) := by
  unfold execMarkOp
  try dsimp only
  repeat' first
    | (with_reducible first
        | assumption | exact ansSound_fault | apply ansSound_next | apply State.ticketAct_sound | apply State.done_sound
        | apply State.bump_sound | apply State.markOp_sound)
    | split
    | with_reducible intro _

theorem execMarkWait_sound {ring : Nat} {seq : Nat} {s : State} (hS : s.Sound Q) :
    AnsSound Q (execMarkWait ring seq s) := by
  unfold execMarkWait
  try dsimp only
  repeat' first
    | (with_reducible first
        | assumption | exact ansSound_fault | apply ansSound_next | apply State.ticketAct_sound | apply State.done_sound
        | apply State.bump_sound | apply State.serveMark_sound | apply State.updMark_sound)
    | split
    | with_reducible intro _

/-! ### Machine/Sample.lean -/

theorem State.acceptSample_sound {s : State} {t : Ticket} (hS : s.Sound Q) :
    (State.acceptSample s t).Sound Q := by
  unfold State.acceptSample
  try dsimp only
  repeat' first
    | (with_reducible first
        | assumption | apply State.done_sound | apply State.srcRead_sound | (refine State.srcRead_sound_eq (he := by assumption) ?_)
        | apply State.updTicket_sound)
    | split
    | with_reducible intro _

theorem execSample_sound {ring : Nat} {x : TicketIn} {s : State} (hS : s.Sound Q) :
    AnsSound Q (execSample ring x s) := by
  unfold execSample
  try dsimp only
  repeat' first
    | (with_reducible first
        | assumption | exact ansSound_fault | apply ansSound_next | apply State.withXfers_sound | apply State.ticketAct_sound
        | apply State.acceptSample_sound)
    | split
    | with_reducible intro _

theorem State.sdWrite_sound {s : State} {c : Nat} {k : Nat} {off : Nat} {bs : Bytes} (hS : s.Sound Q) :
    (State.sdWrite s c k off bs).Sound Q := by
  unfold State.sdWrite
  try dsimp only
  repeat' first
    | (with_reducible first
        | assumption | apply State.ticketWrite_sound | (refine State.ticketWrite_sound_eq (he := by assumption) ?_))
    | split
    | with_reducible intro _

theorem State.updSample_sound {s : State} {k : Nat} {f : SampleSt → SampleSt} (hS : s.Sound Q) :
    (State.updSample s k f).Sound Q := by
  unfold State.updSample
  try dsimp only
  repeat' first
    | (with_reducible first
        | assumption)
    | split | fail_if_no_progress with_reducible refine State.Sound.rest ?_ rfl
    | with_reducible intro _

theorem State.freeSample_sound {s : State} {k : Nat} {c : Nat} (hS : s.Sound Q) :
    (State.freeSample s k c).Sound Q := by
  unfold State.freeSample
  try dsimp only
  repeat' first
    | (with_reducible first
        | assumption | apply State.sdWrite_sound)
    | split | fail_if_no_progress with_reducible refine State.Sound.rest ?_ rfl
    | with_reducible intro _

theorem State.sampleDone_sound {s : State} {c : Nat} {k : Nat} {x : SampleSt} {t : Ticket} (hS : s.Sound Q) :
    (State.sampleDone s c k x t).Sound Q := by
  unfold State.sampleDone
  try dsimp only
  repeat' first
    | (with_reducible first
        | assumption | apply State.finishTicket_sound | apply State.sdWrite_sound | apply State.updSample_sound)
    | split
    | with_reducible intro _

theorem State.endCopies_sound {s : State} (hS : s.Sound Q) :
    (State.endCopies s).Sound Q := by
  unfold State.endCopies
  try dsimp only
  repeat' first
    | (with_reducible first
        | assumption | apply State.sampleDone_sound | apply State.drainResult_sound)
    | split | with_reducible apply State.Sound.foldl | with_reducible apply State.Sound.foldl_fst
    | with_reducible intro _

theorem State.copyResult_sound {s : State} {c : Nat} {k : Nat} {x : SampleSt} (hS : s.Sound Q) :
    (State.copyResult s c k x).Sound Q := by
  unfold State.copyResult
  try dsimp only
  repeat' first
    | (with_reducible first
        | assumption | apply State.sdWrite_sound | apply State.updSample_sound | apply State.deliver_sound
        | (refine State.deliver_sound_eq (he := by assumption) ?_) | apply State.noteDma_sound | apply State.finishTicket_sound)
    | split
    | with_reducible intro _

theorem State.bindSample_sound {s : State} {c : Nat} {t : Ticket} (hS : s.Sound Q) :
    (State.bindSample s c t).Sound Q := by
  unfold State.bindSample
  try dsimp only
  repeat' first
    | (with_reducible first
        | assumption | apply State.fresh_sound | (refine State.fresh_sound_eq (he := by assumption) ?_) | apply State.ticketWrite_sound
        | (refine State.ticketWrite_sound_eq (he := by assumption) ?_) | apply State.finishTicket_sound | apply State.chasePoisonRun_sound
        | apply State.sdWrite_sound)
    | split | with_reducible apply State.Sound.foldl | with_reducible apply State.Sound.foldl_fst | fail_if_no_progress with_reducible refine State.Sound.rest ?_ rfl
    | with_reducible intro _

theorem State.sampleLockup_sound {s : State} {c : Nat} (hS : s.Sound Q) :
    (State.sampleLockup s c).Sound Q := by
  unfold State.sampleLockup
  try dsimp only
  repeat' first
    | (with_reducible first
        | assumption | apply State.freeSample_sound | apply State.sdWrite_sound | apply State.updSample_sound
        | apply State.copyResult_sound | apply State.bindSample_sound | apply State.endCopies_sound)
    | split | with_reducible apply State.Sound.foldl | with_reducible apply State.Sound.foldl_fst
    | with_reducible intro _

/-! ### Machine/Stroke.lean -/

theorem State.resumeStroke_sound {s : State} {c : Nat} (hS : s.Sound Q) :
    (State.resumeStroke s c).Sound Q := by
  unfold State.resumeStroke
  try dsimp only
  repeat' first
    | (with_reducible first
        | assumption | apply State.updChase_sound | apply State.restorePoint_sound | apply State.logCorrected_sound
        | apply State.bump_sound | apply State.setF_sound | apply State.faultChase_sound)
    | split
    | with_reducible intro _

theorem State.markCommits_sound {s : State} {c : Nat} (hS : s.Sound Q) :
    (State.markCommits s c).Sound Q := by
  unfold State.markCommits
  try dsimp only
  repeat' first
    | (with_reducible first
        | assumption | apply State.updChase_sound | apply State.realign_sound | apply State.switchCtx_sound)
    | split
    | with_reducible intro _

theorem State.switchCommits_sound {s : State} {c : Nat} {peers : List GuestCopy} (hS : s.Sound Q) :
    (State.switchCommits s c peers).Sound Q := by
  unfold State.switchCommits
  try dsimp only
  repeat' first
    | (with_reducible first
        | assumption | apply State.commitSwitch_sound | apply State.offerSwitch_sound | apply State.freeDraining_sound)
    | split | with_reducible apply State.Sound.foldl | with_reducible apply State.Sound.foldl_fst
    | with_reducible intro _

theorem State.wayCommits_sound {s : State} {c : Nat} {left : Nat} (hS : s.Sound Q) :
    (State.wayCommits s c left).Sound Q := by
  unfold State.wayCommits
  try dsimp only
  repeat' first
    | (with_reducible first
        | assumption | apply State.applyWays_sound)
    | split | with_reducible apply State.Sound.foldl | with_reducible apply State.Sound.foldl_fst
    | with_reducible intro _

theorem State.beginRun_sound {s : State} {c : Nat} (hS : s.Sound Q) :
    (State.beginRun s c).Sound Q := by
  unfold State.beginRun
  try dsimp only
  repeat' first
    | (with_reducible first
        | assumption | apply State.setF_sound | apply State.endWork_sound | apply State.reachPlate_sound)
    | split
    | with_reducible intro _

theorem State.beginStroke_sound {s : State} {c : Nat} {n : Nat} {start : Nat} (hS : s.Sound Q) :
    (State.beginStroke s c n start).Sound Q := by
  unfold State.beginStroke
  try dsimp only
  repeat' first
    | (with_reducible first
        | assumption | apply State.setFs_sound | apply State.bumpWrap_sound | apply State.updChase_sound)
    | split
    | with_reducible intro _

theorem State.lockupCommits_sound {s : State} {c : Nat} {left : Nat} {peers : List GuestCopy} (hS : s.Sound Q) :
    (State.lockupCommits s c left peers).Sound Q := by
  unfold State.lockupCommits
  try dsimp only
  repeat' first
    | (with_reducible first
        | assumption | apply State.resumeStroke_sound | apply State.commitSubsts_sound | apply State.updChase_sound
        | apply State.grantInk_sound | apply State.savePoint_sound | apply State.markCommits_sound | apply State.impose_sound
        | apply State.wayCommits_sound | apply State.switchCommits_sound | apply State.sampleLockup_sound | apply State.takeGuests_sound)
    | split
    | with_reducible intro _

theorem State.lockUp_sound {s : State} {c : Nat} {n : Nat} {start : Nat} {left : Nat} {peers : List GuestCopy} (hS : s.Sound Q) :
    (State.lockUp s c n start left peers).Sound Q := by
  unfold State.lockUp
  try dsimp only
  repeat' first
    | (with_reducible first
        | assumption | apply State.lockupCommits_sound | apply State.beginStroke_sound | apply State.beginRun_sound)
    | split
    | with_reducible intro _

theorem State.firstStroke_sound {s0 : State} {c : Nat} {n : Nat} {left : Nat} {peers : List GuestCopy} (hSs0 : s0.Sound Q) :
    (State.firstStroke s0 c n left peers).Sound Q := by
  unfold State.firstStroke
  try dsimp only
  repeat' first
    | (with_reducible first
        | assumption | apply State.passTo_sound | apply State.failStart_sound | apply State.endStart_sound | apply State.setF_sound
        | apply State.lockUp_sound)
    | split
    | with_reducible intro _

theorem execLockUp_sound {slot : Nat} {left : Nat} {peers : List GuestCopy} {s : State} (hS : s.Sound Q) :
    AnsSound Q (execLockUp slot left peers s) := by
  unfold execLockUp
  try dsimp only
  repeat' first
    | (with_reducible first
        | assumption | exact ansSound_fault | apply ansSound_next | apply State.ifB_sound | apply State.firstStroke_sound
        | apply State.chaseDue_sound | apply State.lockUp_sound)
    | split
    | with_reducible intro _

theorem execLockupBudgetEnd_sound {slot : Nat} {s : State} (hS : s.Sound Q) :
    AnsSound Q (execLockupBudgetEnd slot s) := by
  unfold execLockupBudgetEnd
  try dsimp only
  repeat' first
    | (with_reducible first
        | assumption | exact ansSound_fault | apply ansSound_next | apply State.ifB_sound | apply State.beginRun_sound
        | apply State.chaseDue_sound)
    | split
    | with_reducible intro _

theorem execLateRun_sound {slot : Nat} {s : State} (hS : s.Sound Q) :
    AnsSound Q (execLateRun slot s) := by
  unfold execLateRun
  try dsimp only
  repeat' first
    | (with_reducible first
        | assumption | exact ansSound_fault | apply ansSound_next | apply State.ifB_sound | apply State.updChase_sound
        | apply State.bumpWrap_sound | apply State.chaseDue_sound)
    | split
    | with_reducible intro _

theorem execDone_sound {slot : Nat} {ordinal : Nat} {stamp : Nat} {s : State} (hS : s.Sound Q) :
    AnsSound Q (execDone slot ordinal stamp s) := by
  unfold execDone
  try dsimp only
  repeat' first
    | (with_reducible first
        | assumption | exact ansSound_fault | apply ansSound_next | apply State.ifB_sound | apply State.rootDone_sound
        | apply State.ackCtl_sound)
    | split
    | with_reducible intro _

theorem execSlip_sound {slot : Nat} {s : State} (hS : s.Sound Q) :
    AnsSound Q (execSlip slot s) := by
  unfold execSlip
  try dsimp only
  repeat' first
    | (with_reducible first
        | assumption | exact ansSound_fault | apply ansSound_next | apply State.ifB_sound | apply State.chaseDue_sound
        | apply State.rootJudge_sound | apply State.slip_sound | apply State.sendAll_sound)
    | split
    | with_reducible intro _

theorem execVerdict_sound {slot : Nat} {m : Nat} {go : Bool} {start : Nat} {named : List (Nat × Nat)} {s : State} (hS : s.Sound Q) :
    AnsSound Q (execVerdict slot m go start named s) := by
  unfold execVerdict
  try dsimp only
  repeat' first
    | (with_reducible first
        | assumption | exact ansSound_fault | apply ansSound_next | apply State.ifB_sound | apply State.ackCtl_sound
        | apply State.noteNamed_sound | apply State.takeGo_sound | apply State.slip_sound)
    | split
    | with_reducible intro _

theorem execVerdictTimeout_sound {slot : Nat} {s : State} (hS : s.Sound Q) :
    AnsSound Q (execVerdictTimeout slot s) := by
  unfold execVerdictTimeout
  try dsimp only
  repeat' first
    | (with_reducible first
        | assumption | exact ansSound_fault | apply ansSound_next | apply State.ifB_sound | apply State.chaseDue_sound
        | apply State.slip_sound)
    | split
    | with_reducible intro _

theorem execFault_sound {slot : Nat} {ordinal : Nat} {s : State} (hS : s.Sound Q) :
    AnsSound Q (execFault slot ordinal s) := by
  unfold execFault
  try dsimp only
  repeat' first
    | (with_reducible first
        | assumption | exact ansSound_fault | apply ansSound_next | apply State.ifB_sound | apply State.faultLocal_sound
        | apply State.updChase_sound | apply State.ackCtl_sound)
    | split
    | with_reducible intro _

theorem execSwitchReq_sound {slot : Nat} {ordinal : Nat} {galley : Nat} {state : Nat} {s : State} (hS : s.Sound Q) :
    AnsSound Q (execSwitchReq slot ordinal galley state s) := by
  unfold execSwitchReq
  try dsimp only
  repeat' first
    | (with_reducible first
        | assumption | exact ansSound_fault | apply ansSound_next | apply State.ifB_sound | apply State.noteSwitch_sound
        | apply State.ackCtl_sound)
    | split
    | with_reducible intro _

/-! ### Machine/Roce.lean -/

theorem State.transmit_sound {s : State} {q : Nat} {vlan : Nat} {etype : Nat} {o : Out} (hS : s.Sound Q) :
    (State.transmit s q vlan etype o).Sound Q := by
  unfold State.transmit
  try dsimp only
  repeat' first
    | (with_reducible first
        | assumption | apply State.bump_sound | apply State.emit_sound)
    | split
    | with_reducible intro _

theorem State.rxDrop_sound {s : State} {q : Nat} (hS : s.Sound Q) :
    (State.rxDrop s q).Sound Q := by
  unfold State.rxDrop
  try dsimp only
  repeat' first
    | (with_reducible first
        | assumption | apply State.bump_sound)
    | split
    | with_reducible intro _

theorem State.updEth_sound {s : State} {f : EthSt → EthSt} (hS : s.Sound Q) :
    (State.updEth s f).Sound Q := by
  unfold State.updEth
  try dsimp only
  repeat' first
    | (with_reducible first
        | assumption)
    | split | fail_if_no_progress with_reducible refine State.Sound.rest ?_ rfl
    | with_reducible intro _

theorem State.setQp_sound {s : State} {n : Nat} {q : Qp} (hS : s.Sound Q) :
    (State.setQp s n q).Sound Q := by
  unfold State.setQp
  try dsimp only
  repeat' first
    | (with_reducible first
        | assumption | apply State.updEth_sound)
    | split
    | with_reducible intro _

theorem State.qpError_sound {s : State} {n : Nat} {q : Qp} (hS : s.Sound Q) :
    (State.qpError s n q).Sound Q := by
  unfold State.qpError
  try dsimp only
  repeat' first
    | (with_reducible first
        | assumption | apply State.bump_sound | apply State.setQp_sound)
    | split
    | with_reducible intro _

theorem execQpCreate_sound {ring : Nat} {seq : Nat} {s : State} (hS : s.Sound Q) :
    AnsSound Q (execQpCreate ring seq s) := by
  unfold execQpCreate
  try dsimp only
  repeat' first
    | (with_reducible first
        | assumption | exact ansSound_fault | apply ansSound_next | apply State.ticketAct_sound | apply State.withSource_sound
        | apply State.done_sound | apply State.fresh_sound | (refine State.fresh_sound_eq (he := by assumption) ?_)
        | apply State.setQp_sound | apply State.setF_sound)
    | split
    | with_reducible intro _

theorem execQpDestroy_sound {ring : Nat} {seq : Nat} {s : State} (hS : s.Sound Q) :
    AnsSound Q (execQpDestroy ring seq s) := by
  unfold execQpDestroy
  try dsimp only
  repeat' first
    | (with_reducible first
        | assumption | exact ansSound_fault | apply ansSound_next | apply State.ticketAct_sound | apply State.done_sound
        | apply State.updEth_sound | apply State.setF_sound)
    | split
    | with_reducible intro _

theorem execMrRegister_sound {ring : Nat} {seq : Nat} {s : State} (hS : s.Sound Q) :
    AnsSound Q (execMrRegister ring seq s) := by
  unfold execMrRegister
  try dsimp only
  repeat' first
    | (with_reducible first
        | assumption | exact ansSound_fault | apply ansSound_next | apply State.ticketAct_sound | apply State.done_sound
        | apply State.fresh_sound | (refine State.fresh_sound_eq (he := by assumption) ?_) | apply State.updEth_sound
        | apply State.setF_sound)
    | split
    | with_reducible intro _

theorem execMrDeregister_sound {ring : Nat} {seq : Nat} {s : State} (hS : s.Sound Q) :
    AnsSound Q (execMrDeregister ring seq s) := by
  unfold execMrDeregister
  try dsimp only
  repeat' first
    | (with_reducible first
        | assumption | exact ansSound_fault | apply ansSound_next | apply State.ticketAct_sound | apply State.done_sound
        | apply State.updEth_sound | apply State.setF_sound)
    | split
    | with_reducible intro _

theorem State.sendFrame_sound {s : State} {q : Qp} {o : Out} (hS : s.Sound Q) :
    (State.sendFrame s q o).Sound Q := by
  unfold State.sendFrame
  try dsimp only
  repeat' first
    | (with_reducible first
        | assumption | apply State.transmit_sound)
    | split
    | with_reducible intro _

theorem State.answer_sound {s : State} {n : Nat} {q : Qp} {psn : Nat} {nak : Nat} (hS : s.Sound Q) :
    (State.answer s n q psn nak).Sound Q := by
  unfold State.answer
  try dsimp only
  repeat' first
    | (with_reducible first
        | assumption | apply State.sendFrame_sound)
    | split
    | with_reducible intro _

theorem State.notifyEcn_sound {s : State} {port : Nat} {n : Nat} {ecn : Bool} {q : Qp} (hS : s.Sound Q) :
    (State.notifyEcn s port n ecn q).Sound Q := by
  unfold State.notifyEcn
  try dsimp only
  repeat' first
    | (with_reducible first
        | assumption | apply State.bump_sound | apply State.sendFrame_sound | apply State.setQp_sound)
    | split
    | with_reducible intro _

theorem State.roceIn_sound {s : State} {p : RocePkt} {f : Qp → State → State} {again : Qp → State → State} (hS : s.Sound Q) (hSf : ∀ (y0 : Qp) (y1 : State), y1.Sound Q → (f y0 y1).Sound Q) (hSagain : ∀ (y0 : Qp) (y1 : State), y1.Sound Q → (again y0 y1).Sound Q) :
    (State.roceIn s p f again).Sound Q := by
  unfold State.roceIn
  try dsimp only
  repeat' first
    | (with_reducible first
        | assumption | apply hSf | apply hSagain | apply State.rxDrop_sound | apply State.notifyEcn_sound | apply State.answer_sound)
    | split
    | with_reducible intro _

theorem State.recvMark_sound {s : State} {q : Qp} (hS : s.Sound Q) :
    (State.recvMark s q).Sound Q := by
  unfold State.recvMark
  try dsimp only
  repeat' first
    | (with_reducible first
        | assumption | apply State.signalMark_sound)
    | split
    | with_reducible intro _

theorem State.readPackets_sound {s : State} {n : Nat} {q : Qp} {m : Mr} {psn : Nat} {x0 : List (Nat × Nat × Nat)} (hS : s.Sound Q) :
    (State.readPackets s n q m psn x0).1.Sound Q := by
  induction x0 generalizing s with
  | nil => exact hS
  | cons a l ih =>
  simp only [State.readPackets]
  repeat' first
    | (with_reducible first
        | assumption | apply ih | apply State.sendFrame_sound)
    | split
    | with_reducible intro _

theorem State.readPackets_sound_eq {s : State} {n : Nat} {q : Qp} {m : Mr} {psn : Nat} {x0 : List (Nat × Nat × Nat)} (hS : s.Sound Q) {u : State} {z : Bool} (he : State.readPackets s n q m psn x0 = (u, z)) :
    u.Sound Q := by
  have := State.readPackets_sound hS (s := s) (n := n) (q := q) (m := m) (psn := psn) (x0 := x0)
  rwa [he] at this

theorem State.serveRead_sound {s : State} {n : Nat} {q : Qp} {psn : Nat} {key : Nat} {a : Nat} {len : Nat} (hS : s.Sound Q) :
    (State.serveRead s n q psn key a len).Sound Q := by
  unfold State.serveRead
  try dsimp only
  repeat' first
    | (with_reducible first
        | assumption | apply State.answer_sound | apply State.noteDma_sound | apply State.cacheHa_sound | apply State.readPackets_sound
        | (refine State.readPackets_sound_eq (he := by assumption) ?_) | apply State.qpError_sound)
    | split
    | with_reducible intro _

theorem State.noteDone_sound {s : State} {n : Nat} {psn : Nat} (hS : s.Sound Q) :
    (State.noteDone s n psn).Sound Q := by
  unfold State.noteDone
  try dsimp only
  repeat' first
    | (with_reducible first
        | assumption | apply State.updEth_sound)
    | split
    | with_reducible intro _

theorem State.roceComplete_sound {s : State} {w : RoceWait} (hS : s.Sound Q) :
    (State.roceComplete s w).Sound Q := by
  unfold State.roceComplete
  try dsimp only
  repeat' first
    | (with_reducible first
        | assumption | apply State.serveRead_sound | apply State.noteDone_sound | apply State.ifB_sound | apply State.answer_sound
        | apply State.recvMark_sound)
    | split
    | with_reducible intro _

theorem State.roceVisible_sound {s : State} (hS : s.Sound Q) :
    (State.roceVisible s).Sound Q := by
  unfold State.roceVisible
  try dsimp only
  repeat' first
    | (with_reducible first
        | assumption | apply State.roceComplete_sound | apply State.updEth_sound)
    | split | with_reducible apply State.Sound.foldl | with_reducible apply State.Sound.foldl_fst
    | with_reducible intro _

theorem State.roceDone_sound {s : State} {w : RoceWait} (hS : s.Sound Q) :
    (State.roceDone s w).Sound Q := by
  unfold State.roceDone
  try dsimp only
  repeat' first
    | (with_reducible first
        | assumption | apply State.roceVisible_sound | apply State.updEth_sound)
    | split
    | with_reducible intro _

theorem State.answerAgain_sound {s : State} {p : RocePkt} {q : Qp} (hS : s.Sound Q) :
    (State.answerAgain s p q).Sound Q := by
  unfold State.answerAgain
  try dsimp only
  repeat' first
    | (with_reducible first
        | assumption | apply State.answer_sound)
    | split
    | with_reducible intro _

theorem State.rxNext_sound {s : State} {n : Nat} {q : Qp} {k : Nat} {w : Option (Nat × Nat × Nat)} (hS : s.Sound Q) :
    (State.rxNext s n q k w).Sound Q := by
  unfold State.rxNext
  try dsimp only
  repeat' first
    | (with_reducible first
        | assumption | apply State.setQp_sound)
    | split
    | with_reducible intro _

theorem execSend_sound {p : RocePkt} {s : State} (hS : s.Sound Q) :
    AnsSound Q (execSend p s) := by
  unfold execSend
  try dsimp only
  repeat' first
    | (with_reducible first
        | assumption | exact ansSound_fault | apply ansSound_next | apply State.roceIn_sound | apply State.rxNext_sound
        | apply State.roceDone_sound | apply State.answerAgain_sound)
    | split
    | with_reducible intro _

theorem State.mrWrite_sound {s : State} {m : Mr} {a : Nat} {bs : Bytes} (hS : s.Sound Q) :
    (State.mrWrite s m a bs).Sound Q := by
  unfold State.mrWrite
  try dsimp only
  repeat' first
    | (with_reducible first
        | assumption | apply State.plateStore_sound | apply State.devWrite_sound)
    | split
    | with_reducible intro _

theorem execRdmaWrite_sound {p : RocePkt} {s : State} (hS : s.Sound Q) :
    AnsSound Q (execRdmaWrite p s) := by
  unfold execRdmaWrite
  try dsimp only
  repeat' first
    | (with_reducible first
        | assumption | exact ansSound_fault | apply ansSound_next | apply State.roceIn_sound | apply State.answer_sound
        | apply State.mrWrite_sound | apply State.rxNext_sound | apply State.roceDone_sound | apply State.answerAgain_sound)
    | split
    | with_reducible intro _

theorem State.answerRead_sound {s : State} {p : RocePkt} {q : Qp} {fresh : Bool} (hS : s.Sound Q) :
    (State.answerRead s p q fresh).Sound Q := by
  unfold State.answerRead
  try dsimp only
  repeat' first
    | (with_reducible first
        | assumption | apply State.answer_sound | apply State.roceDone_sound | apply State.rxNext_sound)
    | split
    | with_reducible intro _

theorem execRdmaRead_sound {p : RocePkt} {s : State} (hS : s.Sound Q) :
    AnsSound Q (execRdmaRead p s) := by
  unfold execRdmaRead
  try dsimp only
  repeat' first
    | (with_reducible first
        | assumption | exact ansSound_fault | apply ansSound_next | apply State.roceIn_sound | apply State.answerRead_sound)
    | split
    | with_reducible intro _

theorem execArp_sound {f : AskFrame} {s : State} (hS : s.Sound Q) :
    AnsSound Q (execArp f s) := by
  unfold execArp
  try dsimp only
  repeat' first
    | (with_reducible first
        | assumption | exact ansSound_fault | apply ansSound_next | apply State.ifB_sound | apply State.transmit_sound
        | apply State.rxDrop_sound)
    | split
    | with_reducible intro _

theorem execNeighbourDiscovery_sound {f : AskFrame} {s : State} (hS : s.Sound Q) :
    AnsSound Q (execNeighbourDiscovery f s) := by
  unfold execNeighbourDiscovery
  try dsimp only
  repeat' first
    | (with_reducible first
        | assumption | exact ansSound_fault | apply ansSound_next | apply State.ifB_sound | apply State.transmit_sound
        | apply State.rxDrop_sound)
    | split
    | with_reducible intro _

theorem execOtherFrame_sound {f : EthFrame} {s : State} (hS : s.Sound Q) :
    AnsSound Q (execOtherFrame f s) := by
  unfold execOtherFrame
  try dsimp only
  repeat' first
    | (with_reducible first
        | assumption | exact ansSound_fault | apply ansSound_next | apply State.ifB_sound | apply State.rxDrop_sound)
    | split
    | with_reducible intro _

theorem execEthRetrain_sound {port : Nat} {up : Bool} {s : State} (hS : s.Sound Q) :
    AnsSound Q (execEthRetrain port up s) := by
  unfold execEthRetrain
  try dsimp only
  repeat' first
    | (with_reducible first
        | assumption | exact ansSound_fault | apply ansSound_next | apply State.ifB_sound | apply State.setF_sound)
    | split
    | with_reducible intro _

theorem State.roceBack_sound {s : State} {e : EthFrame} {n : Nat} {f : Qp → State → State} (hS : s.Sound Q) (hSf : ∀ (y0 : Qp) (y1 : State), y1.Sound Q → (f y0 y1).Sound Q) :
    (State.roceBack s e n f).Sound Q := by
  unfold State.roceBack
  try dsimp only
  repeat' first
    | (with_reducible first
        | assumption | apply hSf | apply State.rxDrop_sound | apply State.notifyEcn_sound)
    | split
    | with_reducible intro _

theorem execCnp_sound {f : EthFrame} {qpn : Nat} {s : State} (hS : s.Sound Q) :
    AnsSound Q (execCnp f qpn s) := by
  exact ansSound_next (State.roceBack_sound hS fun _ _ hy => State.bump_sound (State.setQp_sound hy))

theorem execClimbTick_sound {qpn : Nat} {s : State} (hS : s.Sound Q) :
    AnsSound Q (execClimbTick qpn s) := by
  unfold execClimbTick
  try dsimp only
  repeat' first
    | (with_reducible first
        | assumption | exact ansSound_fault | apply ansSound_next | apply State.ifB_sound | apply State.setQp_sound)
    | split
    | with_reducible intro _

theorem State.roceRetry_sound {s : State} {n : Nat} {q : Qp} {rnr : Bool} (hS : s.Sound Q) :
    (State.roceRetry s n q rnr).Sound Q := by
  unfold State.roceRetry
  try dsimp only
  repeat' first
    | (with_reducible first
        | assumption | apply State.qpError_sound | apply State.sendFrame_sound | apply State.bump_sound | apply State.setQp_sound)
    | split
    | with_reducible intro _

theorem execRoceAckTimeout_sound {qpn : Nat} {s : State} (hS : s.Sound Q) :
    AnsSound Q (execRoceAckTimeout qpn s) := by
  unfold execRoceAckTimeout
  try dsimp only
  repeat' first
    | (with_reducible first
        | assumption | exact ansSound_fault | apply ansSound_next | apply State.ifB_sound | apply State.roceRetry_sound)
    | split
    | with_reducible intro _

theorem State.sendPackets_sound {s : State} {a : CoreAsk} {q : Qp} {last : Nat} {x0 : List (Nat × Nat × Nat)} (hS : s.Sound Q) :
    (State.sendPackets s a q last x0).Sound Q := by
  induction x0 generalizing s with
  | nil => exact hS
  | cons a l ih =>
  simp only [State.sendPackets]
  repeat' first
    | (with_reducible first
        | assumption | apply ih | apply State.qpError_sound | apply State.sendFrame_sound)
    | split
    | with_reducible intro _

theorem State.startAsk_sound {s : State} {a : CoreAsk} {q : Qp} (hS : s.Sound Q) :
    (State.startAsk s a q).Sound Q := by
  unfold State.startAsk
  try dsimp only
  repeat' first
    | (with_reducible first
        | assumption | apply State.setQp_sound | apply State.sendFrame_sound | apply State.sendPackets_sound | apply State.noteDma_sound)
    | split
    | with_reducible intro _

theorem State.coreAsk_sound {s : State} {a : CoreAsk} (hS : s.Sound Q) :
    (State.coreAsk s a).Sound Q := by
  unfold State.coreAsk
  try dsimp only
  repeat' first
    | (with_reducible first
        | assumption | apply State.setQp_sound | apply State.startAsk_sound)
    | split
    | with_reducible intro _

theorem State.nextAsks_sound {s : State} {qpn : Nat} {x0 : Nat} (hS : s.Sound Q) :
    (State.nextAsks s qpn x0).Sound Q := by
  induction x0 generalizing s with
  | zero => exact hS
  | succ n ih =>
  simp only [State.nextAsks]
  repeat' first
    | (with_reducible first
        | assumption | apply ih | apply State.startAsk_sound | apply State.setQp_sound)
    | split
    | with_reducible intro _

theorem execRoceAcknowledgement_sound {f : EthFrame} {qpn : Nat} {psn : Nat} {nak : Nat} {s : State} (hS : s.Sound Q) :
    AnsSound Q (execRoceAcknowledgement f qpn psn nak s) := by
  unfold execRoceAcknowledgement
  try dsimp only
  repeat' first
    | (with_reducible first
        | assumption | exact ansSound_fault | apply ansSound_next | apply State.roceBack_sound | apply State.setQp_sound
        | apply State.roceRetry_sound | apply State.qpError_sound)
    | split
    | with_reducible intro _

theorem execReadResponse_sound {f : EthFrame} {qpn : Nat} {psn : Nat} {data : Bytes} {s : State} (hS : s.Sound Q) :
    AnsSound Q (execReadResponse f qpn psn data s) := by
  unfold execReadResponse
  try dsimp only
  repeat' first
    | (with_reducible first
        | assumption | exact ansSound_fault | apply ansSound_next | apply State.roceBack_sound | apply State.plateStore_sound
        | apply State.nextAsks_sound | apply State.setQp_sound)
    | split
    | with_reducible intro _

theorem execCoreJob_sound {ring : Nat} {seq : Nat} {posts : List (Nat × Bytes)} {asks : List CoreAsk} {s : State} (hS : s.Sound Q) :
    AnsSound Q (execCoreJob ring seq posts asks s) := by
  unfold execCoreJob
  try dsimp only
  repeat' first
    | (with_reducible first
        | assumption | exact ansSound_fault | apply ansSound_next | apply State.ticketAct_sound | apply State.emit_sound
        | apply State.postTickets_sound | apply State.coreAsk_sound | apply State.freshBytes_sound
        | (refine State.freshBytes_sound_eq (he := by assumption) ?_) | apply State.done_sound)
    | split | with_reducible apply State.Sound.foldl | with_reducible apply State.Sound.foldl_fst
    | with_reducible intro _

/-! ### Machine/Fabric.lean -/

theorem State.takeCredits_sound {s : State} {l : Nat} {f : Flit} (hS : s.Sound Q) :
    (State.takeCredits s l f).Sound Q := by
  unfold State.takeCredits
  try dsimp only
  repeat' first
    | (with_reducible first
        | assumption | apply State.updLink_sound)
    | split
    | with_reducible intro _

theorem State.takeNak_sound {s : State} {l : Nat} (hS : s.Sound Q) :
    (State.takeNak s l).Sound Q := by
  unfold State.takeNak
  try dsimp only
  repeat' first
    | (with_reducible first
        | assumption | apply State.updLink_sound | apply State.bump_sound | apply State.retrain_sound | apply State.resendFrom_sound)
    | split
    | with_reducible intro _

theorem State.takeFlit_sound {s : State} {l : Nat} {f : Flit} (hS : s.Sound Q) :
    (State.takeFlit s l f).Sound Q := by
  unfold State.takeFlit
  try dsimp only
  repeat' first
    | (with_reducible first
        | assumption | apply State.updLink_sound | apply State.freeBuf_sound | apply State.bump_sound | apply State.deliverFlit_sound
        | apply State.routeFrom_sound)
    | split
    | with_reducible intro _

theorem State.fecDecode_sound {s : State} {l : Nat} {errs : List Nat} (hS : s.Sound Q) :
    (State.fecDecode s l errs).Sound Q := by
  unfold State.fecDecode
  try dsimp only
  repeat' first
    | (with_reducible first
        | assumption | apply State.bump_sound | apply State.updLink_sound)
    | split
    | with_reducible intro _

theorem execFlit_sound {link : Nat} {data : List Nat} {checks : List Nat} {crc : Nat} {f : Flit} {s : State} (hS : s.Sound Q) :
    AnsSound Q (execFlit link data checks crc f s) := by
  unfold execFlit
  try dsimp only
  repeat' first
    | (with_reducible first
        | assumption | exact ansSound_fault | apply ansSound_next | apply State.ifB_sound | apply State.fecDecode_sound
        | apply State.updLink_sound | apply State.takeNak_sound | apply State.takeCredits_sound | apply State.retryHeld_sound
        | apply State.flushLink_sound | apply State.takeFlit_sound)
    | split
    | with_reducible intro _

theorem execAckIdle_sound {link : Nat} {s : State} (hS : s.Sound Q) :
    AnsSound Q (execAckIdle link s) := by
  unfold execAckIdle
  try dsimp only
  repeat' first
    | (with_reducible first
        | assumption | exact ansSound_fault | apply ansSound_next | apply State.ifB_sound | apply State.putFlit_sound
        | apply State.updLink_sound)
    | split
    | with_reducible intro _

theorem State.unseenVisible_sound {s : State} (hS : s.Sound Q) :
    (State.unseenVisible s).Sound Q := by
  unfold State.unseenVisible
  try dsimp only
  repeat' first
    | (with_reducible first
        | assumption | apply State.finishMsg_sound | apply State.updFab_sound)
    | split | with_reducible apply State.Sound.foldl | with_reducible apply State.Sound.foldl_fst
    | with_reducible intro _

theorem execWrite_sound {f : Flit} {s : State} (hS : s.Sound Q) :
    AnsSound Q (execWrite f s) := by
  unfold execWrite
  try dsimp only
  repeat' first
    | (with_reducible first
        | assumption | exact ansSound_fault | apply ansSound_next | apply State.ifB_sound | apply State.keepPart_sound
        | apply State.finishMsg_sound | apply State.plateStore_sound | apply State.unseenVisible_sound | apply State.updFab_sound)
    | split
    | with_reducible intro _

theorem execAppend_sound {f : Flit} {s : State} (hS : s.Sound Q) :
    AnsSound Q (execAppend f s) := by
  unfold execAppend
  try dsimp only
  repeat' first
    | (with_reducible first
        | assumption | exact ansSound_fault | apply ansSound_next | apply State.ifB_sound | apply State.keepPart_sound
        | apply State.updFab_sound | apply State.finishMsg_sound | apply State.takeAppend_sound
        | (refine State.takeAppend_sound_eq (he := by assumption) ?_))
    | split
    | with_reducible intro _

theorem execAck_sound {f : Flit} {s : State} (hS : s.Sound Q) :
    AnsSound Q (execAck f s) := by
  unfold execAck
  try dsimp only
  repeat' first
    | (with_reducible first
        | assumption | exact ansSound_fault | apply ansSound_next | apply State.ifB_sound | apply State.updFab_sound
        | apply State.bump_sound | apply State.markDone_sound | apply State.requestsLost_sound | apply State.checkFinish_sound
        | apply State.drainQueued_sound)
    | split
    | with_reducible intro _

theorem State.staleSignal_sound {s : State} {c : Nat} {f : Flit} (hS : s.Sound Q) :
    (State.staleSignal s c f).Sound Q := by
  unfold State.staleSignal
  try dsimp only
  repeat' first
    | (with_reducible first
        | assumption | apply State.finishMsg_sound | apply State.bump_sound)
    | split
    | with_reducible intro _

theorem execFabricSignal_sound {f : Flit} {s : State} (hS : s.Sound Q) :
    AnsSound Q (execFabricSignal f s) := by
  unfold execFabricSignal
  try dsimp only
  repeat' first
    | (with_reducible first
        | assumption | exact ansSound_fault | apply ansSound_next | apply State.ifB_sound | apply State.finishMsg_sound
        | apply State.staleSignal_sound | apply State.signalMark_sound)
    | split
    | with_reducible intro _

theorem execE2eTimeout_sound {dst : Nat} {msg : Nat} {s : State} (hS : s.Sound Q) :
    AnsSound Q (execE2eTimeout dst msg s) := by
  unfold execE2eTimeout
  try dsimp only
  repeat' first
    | (with_reducible first
        | assumption | exact ansSound_fault | apply ansSound_next | apply State.ifB_sound | apply State.routeFlit_sound
        | apply State.updFab_sound | apply State.bump_sound | apply State.drainQueued_sound | apply State.faultChase_sound)
    | split | with_reducible apply State.Sound.foldl | with_reducible apply State.Sound.foldl_fst
    | with_reducible intro _

theorem execBackInvalidateResponse_sound {line : Nat} {s : State} (hS : s.Sound Q) :
    AnsSound Q (execBackInvalidateResponse line s) := by
  unfold execBackInvalidateResponse
  try dsimp only
  repeat' first
    | (with_reducible first
        | assumption | exact ansSound_fault | apply ansSound_next | apply State.ifB_sound | apply State.unseenVisible_sound
        | apply State.roceVisible_sound | apply State.endCopies_sound | apply State.snoopAnswered_sound)
    | split
    | with_reducible intro _

theorem State.sendTime_sound {s : State} {l : Nat} {step : Nat} {stamps : List Nat} (hS : s.Sound Q) :
    (State.sendTime s l step stamps).Sound Q := by
  unfold State.sendTime
  try dsimp only
  repeat' first
    | (with_reducible first
        | assumption | apply State.sendLink_sound)
    | split
    | with_reducible intro _

theorem execTimeTick_sound {link : Nat} {s : State} (hS : s.Sound Q) :
    AnsSound Q (execTimeTick link s) := by
  unfold execTimeTick
  try dsimp only
  repeat' first
    | (with_reducible first
        | assumption | exact ansSound_fault | apply ansSound_next | apply State.ifB_sound | apply State.sendTime_sound)
    | split
    | with_reducible intro _

theorem State.timeResult_sound {s : State} {l : Nat} {t4 : Nat} (hS : s.Sound Q) :
    (State.timeResult s l t4).Sound Q := by
  unfold State.timeResult
  try dsimp only
  repeat' first
    | (with_reducible first
        | assumption | apply State.linkOffset_sound | apply State.setFs_sound)
    | split
    | with_reducible intro _

theorem execTime_sound {link : Nat} {step : Nat} {stamps : List Nat} {hops : Nat} {lock : Nat} {root : Nat} {s : State} (hS : s.Sound Q) :
    AnsSound Q (execTime link step stamps hops lock root s) := by
  unfold execTime
  try dsimp only
  repeat' first
    | (with_reducible first
        | assumption | exact ansSound_fault | apply ansSound_next | apply State.ifB_sound | apply State.chooseParent_sound
        | apply State.updLink_sound | apply State.sendTime_sound | apply State.updTime_sound | apply State.timeResult_sound)
    | split
    | with_reducible intro _

end Sys2Proof.Machine
end

