-- ==== Sys2Proof/Laws/SoundHost.lean ====
section
/-! SUPPORT. The operations of boot, the register window and the cells keep the queue and the canonical form: one lemma per operation. -/

set_option Elab.async false

namespace Sys2Proof.Machine

set_option linter.unusedTactic false
set_option linter.unreachableTactic false

variable {Q : List Instr}

/-! ### Machine/Boot.lean -/

theorem State.updPw_sound {s : State} {f : PowerSt → PowerSt} (hS : s.Sound Q) :
    (State.updPw s f).Sound Q := by
  unfold State.updPw
  try dsimp only
  repeat' first
    | (with_reducible first
        | assumption)
    | split | fail_if_no_progress with_reducible refine State.Sound.rest ?_ rfl
    | with_reducible intro _

theorem State.funcReset_sound {s : State} (hS : s.Sound Q) :
    (State.funcReset s).Sound Q := by
  unfold State.funcReset
  have h1 : State.Sound Q (s.host.heldWrites.foldl State.landWrite s) :=
    State.Sound.foldl (fun _ _ h => State.landWrite_sound h) hS
  generalize s.host.heldWrites.foldl State.landWrite s = s1 at h1 ⊢
  dsimp only
  have h4 := State.resetRegs_sound (d := .func) (State.Sound.foldl (l := List.range 16) (fun _ c h => State.tearDown_sound (c := c) h) h1)
  generalize ((List.range 16).foldl (fun s c => s.tearDown c) s1).resetRegs .func = s4 at h4 ⊢
  exact ⟨h4.queue, h4.mem, h4.hostMem, h4.buf, h4.rise, h4.listed, rfl, h4.mb⟩

theorem State.saveRecord_sound {s : State} (hS : s.Sound Q) :
    (State.saveRecord s).Sound Q := by
  unfold State.saveRecord
  try dsimp only
  repeat' first
    | (with_reducible first
        | assumption)
    | split | fail_if_no_progress with_reducible refine State.Sound.rest ?_ rfl
    | with_reducible intro _

theorem State.hardReset_sound {s : State} {d : Domain} (hS : s.Sound Q) :
    (State.hardReset s d).Sound Q := by
  unfold State.hardReset
  have h1 : State.Sound Q (s.saveRecord.resetRegs d) := State.resetRegs_sound (State.saveRecord_sound hS)
  dsimp only
  generalize s.saveRecord.resetRegs d = s1 at h1 ⊢
  split
  · exact ⟨h1.queue, rfl, h1.hostMem, rfl, h1.rise, h1.listed, rfl, rfl⟩
  · split
    · exact State.setF_sound ⟨h1.queue, rfl, h1.hostMem, rfl, h1.rise, h1.listed, rfl, rfl⟩
    · exact ⟨h1.queue, rfl, h1.hostMem, rfl, h1.rise, h1.listed, rfl, rfl⟩

theorem execPwrGoodRise_sound {s : State} (hS : s.Sound Q) :
    AnsSound Q (execPwrGoodRise s) := by
  unfold execPwrGoodRise
  try dsimp only
  repeat' first
    | (with_reducible first
        | assumption | exact ansSound_fault | apply ansSound_next | apply State.ifB_sound | apply State.updPw_sound)
    | split
    | with_reducible intro _

theorem State.endAuths_sound {s : State} (hS : s.Sound Q) :
    (State.endAuths s).Sound Q := by
  unfold State.endAuths
  try dsimp only
  repeat' first
    | (with_reducible first
        | assumption | apply State.endAuth_sound)
    | split | with_reducible apply State.Sound.foldl | with_reducible apply State.Sound.foldl_fst
    | with_reducible intro _

theorem execPwrGoodLoss_sound {s : State} (hS : s.Sound Q) :
    AnsSound Q (execPwrGoodLoss s) := by
  unfold execPwrGoodLoss
  try dsimp only
  repeat' first
    | (with_reducible first
        | assumption | exact ansSound_fault | apply ansSound_next | apply State.ifB_sound | apply State.updPw_sound
        | apply State.hardReset_sound | apply State.endAuths_sound)
    | split
    | with_reducible intro _

theorem execClockLoss_sound {sysclk : Bool} {s : State} (hS : s.Sound Q) :
    AnsSound Q (execClockLoss sysclk s) := by
  unfold execClockLoss
  try dsimp only
  repeat' first
    | (with_reducible first
        | assumption | exact ansSound_fault | apply ansSound_next | apply State.ifB_sound | apply State.updPw_sound
        | apply State.hardReset_sound | apply State.endAuths_sound)
    | split
    | with_reducible intro _

theorem execClockReturn_sound {sysclk : Bool} {s : State} (hS : s.Sound Q) :
    AnsSound Q (execClockReturn sysclk s) := by
  unfold execClockReturn
  try dsimp only
  repeat' first
    | (with_reducible first
        | assumption | exact ansSound_fault | apply ansSound_next | apply State.updPw_sound)
    | split
    | with_reducible intro _

theorem execRefclk100mStop_sound {s : State} (hS : s.Sound Q) :
    AnsSound Q (execRefclk100mStop s) := by
  unfold execRefclk100mStop
  try dsimp only
  repeat' first
    | (with_reducible first
        | assumption | exact ansSound_fault | apply ansSound_next | apply State.updPw_sound)
    | split
    | with_reducible intro _

theorem execRefclk100mReturn_sound {s : State} (hS : s.Sound Q) :
    AnsSound Q (execRefclk100mReturn s) := by
  unfold execRefclk100mReturn
  try dsimp only
  repeat' first
    | (with_reducible first
        | assumption | exact ansSound_fault | apply ansSound_next | apply State.ifB_sound | apply State.updPw_sound
        | apply State.funcReset_sound)
    | split
    | with_reducible intro _

theorem execResetNAssert_sound {s : State} (hS : s.Sound Q) :
    AnsSound Q (execResetNAssert s) := by
  unfold execResetNAssert
  try dsimp only
  repeat' first
    | (with_reducible first
        | assumption | exact ansSound_fault | apply ansSound_next | apply State.updPw_sound | apply State.hardReset_sound
        | apply State.endAuths_sound)
    | split
    | with_reducible intro _

theorem execFunctionLevelReset_sound {s : State} (hS : s.Sound Q) :
    AnsSound Q (execFunctionLevelReset s) := by
  unfold execFunctionLevelReset
  try dsimp only
  repeat' first
    | (with_reducible first
        | assumption | exact ansSound_fault | apply ansSound_next | apply State.ifB_sound | apply State.funcReset_sound)
    | split
    | with_reducible intro _

theorem execD3hotReturn_sound {s : State} (hS : s.Sound Q) :
    AnsSound Q (execD3hotReturn s) := by
  unfold execD3hotReturn
  try dsimp only
  repeat' first
    | (with_reducible first
        | assumption | exact ansSound_fault | apply ansSound_next | apply State.ifB_sound | apply State.funcReset_sound)
    | split
    | with_reducible intro _

theorem execConfigRequest_sound {rid : Nat} {cxlMem : Option Bool} {cxlCache : Option Bool} {s : State} (hS : s.Sound Q) :
    AnsSound Q (execConfigRequest rid cxlMem cxlCache s) := by
  unfold execConfigRequest
  try dsimp only
  repeat' first
    | (with_reducible first
        | assumption | exact ansSound_fault | apply ansSound_next | apply State.ifB_sound | apply State.setFs_sound)
    | split | fail_if_no_progress with_reducible refine State.Sound.rest ?_ rfl
    | with_reducible intro _

theorem State.bootFail_sound {s : State} {step : Nat} (hS : s.Sound Q) :
    (State.bootFail s step).Sound Q := by
  unfold State.bootFail
  try dsimp only
  repeat' first
    | (with_reducible first
        | assumption | apply State.setF_sound)
    | split
    | with_reducible intro _

theorem State.bootHalt_sound {s : State} {step : Nat} {ms : Nat} (hS : s.Sound Q) :
    (State.bootHalt s step ms).Sound Q := by
  unfold State.bootHalt
  try dsimp only
  repeat' first
    | (with_reducible first
        | assumption | apply State.setFs_sound | apply State.bootFail_sound)
    | split
    | with_reducible intro _

theorem State.bootColophon_sound {s : State} {broken : Option Nat} (hS : s.Sound Q) :
    (State.bootColophon s broken).Sound Q := by
  unfold State.bootColophon
  try dsimp only
  repeat' first
    | (with_reducible first
        | assumption | apply State.wr_sound | apply State.setFs_sound | apply State.bump_sound | apply State.note_sound)
    | split | fail_if_no_progress with_reducible refine State.Sound.rest ?_ rfl
    | with_reducible intro _

theorem State.applyFences_sound {s : State} {f : Bytes} (hS : s.Sound Q) :
    (State.applyFences s f).Sound Q := by
  unfold State.applyFences
  try dsimp only
  repeat' first
    | (with_reducible first
        | assumption | apply State.setFs_sound | apply State.updSec_sound | apply State.setF_sound)
    | split | with_reducible apply State.Sound.foldl | with_reducible apply State.Sound.foldl_fst | fail_if_no_progress with_reducible refine State.Sound.rest ?_ rfl | with_reducible exact rfl
    | with_reducible intro _

theorem State.showSettings_sound {s : State} (hS : s.Sound Q) :
    (State.showSettings s).Sound Q := by
  unfold State.showSettings
  try dsimp only
  repeat' first
    | (with_reducible first
        | assumption | apply State.setFs_sound)
    | split | with_reducible apply State.Sound.foldl | with_reducible apply State.Sound.foldl_fst
    | with_reducible intro _

theorem State.bootRecords_sound {s : State} {f : BootFinds} (hS : s.Sound Q) :
    (State.bootRecords s f).Sound Q := by
  unfold State.bootRecords
  try dsimp only
  repeat' first
    | (with_reducible first
        | assumption | apply State.setFs_sound | apply State.updSec_sound | apply State.bootColophon_sound | apply State.note_sound
        | apply State.bootFail_sound | apply State.showSettings_sound | apply State.showCreds_sound | apply State.setF_sound
        | apply State.applyFences_sound)
    | split | with_reducible exact rfl
    | with_reducible intro _

theorem State.applyRecord_sound {s : State} (hS : s.Sound Q) :
    (State.applyRecord s).Sound Q := by
  unfold State.applyRecord
  try dsimp only
  repeat' first
    | (with_reducible first
        | assumption | apply State.wr_sound | apply State.setFs_sound)
    | split | with_reducible apply State.Sound.foldl | with_reducible apply State.Sound.foldl_fst
    | with_reducible intro _

theorem State.returnPcs_sound {s : State} (hS : s.Sound Q) :
    (State.returnPcs s).Sound Q := by
  unfold State.returnPcs
  try dsimp only
  repeat' first
    | (with_reducible first
        | assumption | apply State.setFs_sound | apply State.setF_sound)
    | split | with_reducible apply State.Sound.foldl | with_reducible apply State.Sound.foldl_fst | fail_if_no_progress with_reducible refine State.Sound.rest ?_ rfl
    | with_reducible intro _

theorem State.bringUp_sound {s : State} {f : BootFinds} (hS : s.Sound Q) :
    (State.bringUp s f).Sound Q := by
  unfold State.bringUp
  try dsimp only
  repeat' first
    | (with_reducible first
        | assumption | apply State.setF_sound | apply State.returnPcs_sound | apply State.applyRecord_sound | apply State.logErr_sound
        | apply State.offlineStack_sound | apply State.setFs_sound | apply State.spareBad_sound | apply State.updLink_sound
        | apply State.noteTime_sound | apply State.setEnvelope_sound | apply State.originate_sound | apply State.updTime_sound)
    | split | with_reducible apply State.Sound.foldl | with_reducible apply State.Sound.foldl_fst
    | with_reducible intro _

theorem State.bootStart_sound {s : State} {f : BootFinds} (hS : s.Sound Q) :
    (State.bootStart s f).Sound Q := by
  unfold State.bootStart
  try dsimp only
  repeat' first
    | (with_reducible first
        | assumption | apply State.updPw_sound | apply State.setFs_sound | apply State.bootHalt_sound | apply State.setF_sound
        | apply State.updSec_sound | apply State.bootRecords_sound | apply State.freshBytes_sound
        | (refine State.freshBytes_sound_eq (he := by assumption) ?_) | apply State.checkpoint_sound | apply State.note_sound
        | apply State.bringUp_sound)
    | split | with_reducible exact rfl
    | with_reducible intro _

theorem execBootStart_sound {f : BootFinds} {s : State} (hS : s.Sound Q) :
    AnsSound Q (execBootStart f s) := by
  unfold execBootStart
  try dsimp only
  repeat' first
    | (with_reducible first
        | assumption | exact ansSound_fault | apply ansSound_next | apply State.ifB_sound | apply State.bootStart_sound)
    | split
    | with_reducible intro _

theorem State.enterReady_sound {s : State} (hS : s.Sound Q) :
    (State.enterReady s).Sound Q := by
  unfold State.enterReady
  try dsimp only
  repeat' first
    | (with_reducible first
        | assumption | apply State.noteTime_sound | apply State.noteFabric_sound | apply State.setFs_sound | apply State.pump_sound)
    | split | with_reducible apply State.Sound.foldl | with_reducible apply State.Sound.foldl_fst
    | with_reducible intro _

theorem execReady_sound {late : Bool} {s : State} (hS : s.Sound Q) :
    AnsSound Q (execReady late s) := by
  unfold execReady
  try dsimp only
  repeat' first
    | (with_reducible first
        | assumption | exact ansSound_fault | apply ansSound_next | apply State.ifB_sound | apply State.enterReady_sound)
    | split
    | with_reducible intro _

/-! ### Machine/Dense.lean -/

theorem State.noteTileRead_sound {s : State} {c : Nat} {base : Nat} {t : TileRead} (hS : s.Sound Q) :
    (State.noteTileRead s c base t).Sound Q := by
  unfold State.noteTileRead
  try dsimp only
  repeat' first
    | (with_reducible first
        | assumption | apply State.noteTile_sound | apply State.noteRead_sound)
    | split | with_reducible apply State.Sound.foldl | with_reducible apply State.Sound.foldl_fst
    | with_reducible intro _

theorem State.productPlate_sound {s : State} {c : Nat} (hS : s.Sound Q) :
    (State.productPlate s c).Sound Q := by
  unfold State.productPlate
  try dsimp only
  repeat' first
    | (with_reducible first
        | assumption | apply State.noteRead_sound | apply State.recordFault_sound | apply State.noteTileRead_sound
        | apply State.metaFaults_sound | apply State.bump_sound | apply State.updWork_sound | apply State.updChase_sound
        | apply State.writeOutput_sound)
    | split | with_reducible apply State.Sound.foldl | with_reducible apply State.Sound.foldl_fst
    | with_reducible intro _

theorem execDense_sound {slot : Nat} {hw : List HwEvent} {s : State} (hS : s.Sound Q) :
    AnsSound Q (execDense slot hw s) := by
  unfold execDense
  try dsimp only
  repeat' first
    | (with_reducible first
        | assumption | exact ansSound_fault | apply ansSound_next | apply State.plateDo_sound | apply State.productPlate_sound)
    | split
    | with_reducible intro _

theorem execSparse_sound {slot : Nat} {hw : List HwEvent} {s : State} (hS : s.Sound Q) :
    AnsSound Q (execSparse slot hw s) := by
  unfold execSparse
  try dsimp only
  repeat' first
    | (with_reducible first
        | assumption | exact ansSound_fault | apply ansSound_next | apply State.plateDo_sound | apply State.productPlate_sound)
    | split
    | with_reducible intro _

/-! ### Machine/Groups.lean -/

theorem State.setGroup_sound {s : State} {cell : CellId} {g : Nat} {x : AccGroup} (hS : s.Sound Q) :
    (State.setGroup s cell g x).Sound Q := by
  unfold State.setGroup
  try dsimp only
  repeat' first
    | (with_reducible first
        | assumption)
    | split | fail_if_no_progress with_reducible refine State.Sound.rest ?_ rfl
    | with_reducible intro _

theorem State.openWith_sound {s : State} {cell : CellId} {g : Nat} {shape : GroupShape} {acc : List Int} {poison : Bool} (hS : s.Sound Q) :
    (State.openWith s cell g shape acc poison).Sound Q := by
  unfold State.openWith
  try dsimp only
  repeat' first
    | (with_reducible first
        | assumption | apply State.setGroup_sound)
    | split | fail_if_no_progress with_reducible refine State.Sound.rest ?_ rfl
    | with_reducible intro _

theorem State.openWaiting_sound {s : State} {cell : CellId} {g : Nat} (hS : s.Sound Q) :
    (State.openWaiting s cell g).Sound Q := by
  unfold State.openWaiting
  try dsimp only
  repeat' first
    | (with_reducible first
        | assumption | apply State.setGroup_sound)
    | split | fail_if_no_progress with_reducible refine State.Sound.rest ?_ rfl
    | with_reducible intro _

theorem execOpenZero_sound {cell : CellId} {g : Nat} {shape : GroupShape} {s : State} (hS : s.Sound Q) :
    AnsSound Q (execOpenZero cell g shape s) := by
  unfold execOpenZero
  try dsimp only
  repeat' first
    | (with_reducible first
        | assumption | exact ansSound_fault | apply ansSound_next | apply State.openWith_sound)
    | split
    | with_reducible intro _

theorem execOpenLoad_sound {cell : CellId} {g : Nat} {shape : GroupShape} {recs : List Bytes} {s : State} (hS : s.Sound Q) :
    AnsSound Q (execOpenLoad cell g shape recs s) := by
  unfold execOpenLoad
  try dsimp only
  repeat' first
    | (with_reducible first
        | assumption | exact ansSound_fault | apply ansSound_next | apply State.openWith_sound)
    | split
    | with_reducible intro _

theorem State.feed_sound {s : State} {cell : CellId} {g : Nat} {x : AccGroup} {f : FeedOp} (hS : s.Sound Q) :
    (State.feed s cell g x f).Sound Q := by
  unfold State.feed
  try dsimp only
  repeat' first
    | (with_reducible first
        | assumption | apply State.setGroup_sound | apply State.transient_sound | apply State.columnFails_sound)
    | split | with_reducible apply State.Sound.foldl | with_reducible apply State.Sound.foldl_fst
    | with_reducible intro _

theorem execFeed_sound {cell : CellId} {g : Nat} {f : FeedOp} {s : State} (hS : s.Sound Q) :
    AnsSound Q (execFeed cell g f s) := by
  unfold execFeed
  try dsimp only
  repeat' first
    | (with_reducible first
        | assumption | exact ansSound_fault | apply ansSound_next | apply State.feed_sound)
    | split
    | with_reducible intro _

theorem execAddWide_sound {cell : CellId} {g : Nat} {r_ : Nat} {n : Nat} {rec : Bytes} {s : State} (hS : s.Sound Q) :
    AnsSound Q (execAddWide cell g r_ n rec s) := by
  unfold execAddWide
  try dsimp only
  repeat' first
    | (with_reducible first
        | assumption | exact ansSound_fault | apply ansSound_next | apply State.setGroup_sound)
    | split
    | with_reducible intro _

theorem State.closeGroup_sound {s : State} {cell : CellId} {g : Nat} {x : AccGroup} {cw : CloseWord} (hS : s.Sound Q) :
    (State.closeGroup s cell g x cw).Sound Q := by
  unfold State.closeGroup
  try dsimp only
  repeat' first
    | (with_reducible first
        | assumption | apply State.countClose_sound | apply State.writeTile_sound | apply State.openWaiting_sound)
    | split | fail_if_no_progress with_reducible refine State.Sound.rest ?_ rfl
    | with_reducible intro _

theorem execClose_sound {cell : CellId} {g : Nat} {cw : Nat} {s : State} (hS : s.Sound Q) :
    AnsSound Q (execClose cell g cw s) := by
  unfold execClose
  try dsimp only
  repeat' first
    | (with_reducible first
        | assumption | exact ansSound_fault | apply ansSound_next | apply State.closeGroup_sound)
    | split
    | with_reducible intro _

/-! ### Machine/HostRegs.lean -/

theorem State.clearRc_sound {s : State} {r_ : RegName} {i : Nat} {off : Nat} {width : Nat} (hS : s.Sound Q) :
    (State.clearRc s r_ i off width).Sound Q := by
  unfold State.clearRc
  try dsimp only
  repeat' first
    | (with_reducible first
        | assumption | apply State.wr_sound)
    | split | with_reducible apply State.Sound.foldl | with_reducible apply State.Sound.foldl_fst
    | with_reducible intro _

theorem State.readReg_sound {s : State} {r_ : RegName} {i : Nat} {off : Nat} {width : Nat} (hS : s.Sound Q) :
    (State.readReg s r_ i off width).Sound Q := by
  unfold State.readReg
  try dsimp only
  repeat' first
    | (with_reducible first
        | assumption | apply State.readTimeNs_sound | apply State.drainAll_sound
        | (refine State.drainAll_sound_eq (he := by assumption) ?_) | apply State.setF_sound | apply State.emit_sound
        | apply State.updGalley_sound | apply State.clearRc_sound)
    | split
    | with_reducible intro _

theorem State.bar0Read_sound {s : State} {off : Nat} {width : Nat} (hS : s.Sound Q) :
    (State.bar0Read s off width).Sound Q := by
  unfold State.bar0Read
  try dsimp only
  repeat' first
    | (with_reducible first
        | assumption | apply State.emit_sound | apply State.bump_sound | apply State.freshBytes_sound
        | (refine State.freshBytes_sound_eq (he := by assumption) ?_) | apply State.readReg_sound)
    | split | with_reducible apply State.Sound.foldl | with_reducible apply State.Sound.foldl_fst
    | with_reducible intro _

theorem execRegisterRead_sound {rid : Nat} {off : Nat} {width : Nat} {s : State} (hS : s.Sound Q) :
    AnsSound Q (execRegisterRead rid off width s) := by
  unfold execRegisterRead
  try dsimp only
  repeat' first
    | (with_reducible first
        | assumption | exact ansSound_fault | apply ansSound_next | apply State.hostRead_sound | apply State.bar0Read_sound)
    | split
    | with_reducible intro _

theorem execTimeNs_sound {rid : Nat} {s : State} (hS : s.Sound Q) :
    AnsSound Q (execTimeNs rid s) := by
  unfold execTimeNs
  try dsimp only
  repeat' first
    | (with_reducible first
        | assumption | exact ansSound_fault | apply ansSound_next | apply State.regRead_sound | apply State.emit_sound
        | apply State.readTimeNs_sound)
    | split
    | with_reducible intro _

theorem State.plainWrite_sound {s : State} {r_ : RegName} {i : Nat} {off : Nat} {width : Nat} {value : Nat} (hS : s.Sound Q) :
    (State.plainWrite s r_ i off width value).Sound Q := by
  unfold State.plainWrite
  try dsimp only
  repeat' first
    | (with_reducible first
        | assumption | apply State.wr_sound)
    | split | with_reducible apply State.Sound.foldl | with_reducible apply State.Sound.foldl_fst
    | with_reducible intro _

theorem State.maintWrite_sound {s : State} {k : Nat} {value : Nat} (hS : s.Sound Q) :
    (State.maintWrite s k value).Sound Q := by
  unfold State.maintWrite
  try dsimp only
  repeat' first
    | (with_reducible first
        | assumption | apply State.maint_sound | apply State.readMap_sound | apply State.repairRow_sound | apply State.fresh_sound
        | (refine State.fresh_sound_eq (he := by assumption) ?_) | apply State.testPc_sound | apply State.returnPc_sound
        | apply State.setF_sound)
    | split
    | with_reducible intro _

theorem State.poolWrite_sound {s : State} {v : Nat} {clear : Bool} (hS : s.Sound Q) :
    (State.poolWrite s v clear).Sound Q := by
  unfold State.poolWrite
  try dsimp only
  repeat' first
    | (with_reducible first
        | assumption | apply State.setF_sound | apply State.setFs_sound)
    | split
    | with_reducible intro _

theorem State.pumpAll_sound {s : State} (hS : s.Sound Q) :
    (State.pumpAll s).Sound Q := by
  unfold State.pumpAll
  try dsimp only
  repeat' first
    | (with_reducible first
        | assumption | apply State.pump_sound)
    | split | with_reducible apply State.Sound.foldl | with_reducible apply State.Sound.foldl_fst
    | with_reducible intro _

theorem State.wideWrite_sound {s : State} {r_ : RegName} {i : Nat} {off : Nat} {width : Nat} {value : Nat} (hS : s.Sound Q) {u : State} (he : State.wideWrite s r_ i off width value = some u) :
    u.Sound Q := by
  unfold State.wideWrite at he
  dsimp only at he
  split at he
  all_goals first | cases he | skip
  · split
    · exact State.doorbell_sound hS
    · exact State.bump_sound hS
  · split
    · exact State.markOp_sound hS
    · exact State.bump_sound hS
  · split
    · exact State.xlate_sound hS
    · exact hS
  · split
    · exact State.handSet_sound hS
    · exact hS
  · split
    · exact State.maintWrite_sound hS
    · exact State.refuseRw2p_sound hS

theorem State.writeReg_sound {s : State} {r_ : RegName} {i : Nat} {off : Nat} {width : Nat} {value : Nat} (hS : s.Sound Q) :
    (State.writeReg s r_ i off width value).Sound Q := by
  unfold State.writeReg
  try dsimp only
  repeat' first
    | (with_reducible first
        | assumption | (refine State.wideWrite_sound (he := by assumption) ?_) | apply State.waysWrite_sound | apply State.setF_sound
        | apply State.rangeStart_sound | apply State.plainWrite_sound | apply State.query_sound | apply State.ringCtrl_sound
        | apply State.pump_sound | apply State.pumpAll_sound | apply State.poolWrite_sound | apply State.fresh_sound
        | (refine State.fresh_sound_eq (he := by assumption) ?_) | apply State.mbGo_sound
        | (refine State.mbGo_sound_eq (he := by assumption) ?_) | apply State.clearStuck_sound | apply State.chooseParent_sound)
    | split
    | with_reducible intro _

theorem State.msixWrite_sound {s : State} {off : Nat} {width : Nat} {value : Nat} (hS : s.Sound Q) :
    (State.msixWrite s off width value).Sound Q := by
  unfold State.msixWrite
  try dsimp only
  repeat' first
    | (with_reducible first
        | assumption | apply State.emit_sound)
    | split | fail_if_no_progress with_reducible refine State.Sound.rest ?_ rfl
    | with_reducible intro _

theorem State.bar0Write_sound {s : State} {off : Nat} {width : Nat} {value : Nat} (hS : s.Sound Q) :
    (State.bar0Write s off width value).Sound Q := by
  unfold State.bar0Write
  split
  · exact State.bump_sound hS
  split
  · exact hS
  split
  · split
    · exact State.updSec_wf hS (wf_memPutRun _ _ hS.buf)
    · exact hS
  split
  · exact State.msixWrite_sound hS
  split
  · exact hS
  split
  · exact State.writeReg_sound hS
  · exact hS

theorem execRegisterWrite_sound {rid : Nat} {off : Nat} {width : Nat} {value : Nat} {s : State} (hS : s.Sound Q) :
    AnsSound Q (execRegisterWrite rid off width value s) := by
  unfold execRegisterWrite
  try dsimp only
  repeat' first
    | (with_reducible first
        | assumption | exact ansSound_fault | apply ansSound_next | apply State.hostWrite_sound | apply State.bar0Write_sound)
    | split
    | with_reducible intro _

theorem execHifHostPool_sound {rid : Nat} {value : Nat} {s : State} (hS : s.Sound Q) :
    AnsSound Q (execHifHostPool rid value s) := by
  unfold execHifHostPool
  try dsimp only
  repeat' first
    | (with_reducible first
        | assumption | exact ansSound_fault | apply ansSound_next | apply State.regWrite_sound | apply State.poolWrite_sound)
    | split
    | with_reducible intro _

theorem execHifHostRid_sound {rid : Nat} {value : Nat} {s : State} (hS : s.Sound Q) :
    AnsSound Q (execHifHostRid rid value s) := by
  unfold execHifHostRid
  try dsimp only
  repeat' first
    | (with_reducible first
        | assumption | exact ansSound_fault | apply ansSound_next | apply State.regWrite_sound | apply State.setFs_sound)
    | split
    | with_reducible intro _

/-! ### Machine/Micro.lean -/

theorem State.micro_sound {s : State} {cell : CellId} {r_ : VecEngine × Nat} (hS : s.Sound Q) :
    (State.micro s cell r_).Sound Q := by
  unfold State.micro
  try dsimp only
  repeat' first
    | (with_reducible first
        | assumption | apply State.raiseFlags_sound)
    | split | fail_if_no_progress with_reducible refine State.Sound.rest ?_ rfl
    | with_reducible intro _

theorem State.microOp_sound {s : State} {cell : CellId} {f : VecEngine → VecEngine × Nat} (hS : s.Sound Q) :
    (State.microOp s cell f).Sound Q := by
  unfold State.microOp
  try dsimp only
  repeat' first
    | (with_reducible first
        | assumption | apply State.ifB_sound | apply State.micro_sound)
    | split
    | with_reducible intro _

theorem execTintNop_sound {cell : CellId} {u : MuFields} {s : State} (hS : s.Sound Q) :
    AnsSound Q (execTintNop cell u s) := by
  unfold execTintNop
  try dsimp only
  repeat' first
    | (with_reducible first
        | assumption | exact ansSound_fault | apply ansSound_next | apply State.microOp_sound)
    | split
    | with_reducible intro _

theorem execAdd_sound {cell : CellId} {u : MuFields} {s : State} (hS : s.Sound Q) :
    AnsSound Q (execAdd cell u s) := by
  unfold execAdd
  try dsimp only
  repeat' first
    | (with_reducible first
        | assumption | exact ansSound_fault | apply ansSound_next | apply State.microOp_sound)
    | split
    | with_reducible intro _

theorem execSub_sound {cell : CellId} {u : MuFields} {s : State} (hS : s.Sound Q) :
    AnsSound Q (execSub cell u s) := by
  unfold execSub
  try dsimp only
  repeat' first
    | (with_reducible first
        | assumption | exact ansSound_fault | apply ansSound_next | apply State.microOp_sound)
    | split
    | with_reducible intro _

theorem execMul_sound {cell : CellId} {u : MuFields} {s : State} (hS : s.Sound Q) :
    AnsSound Q (execMul cell u s) := by
  unfold execMul
  try dsimp only
  repeat' first
    | (with_reducible first
        | assumption | exact ansSound_fault | apply ansSound_next | apply State.microOp_sound)
    | split
    | with_reducible intro _

theorem execMulh_sound {cell : CellId} {u : MuFields} {s : State} (hS : s.Sound Q) :
    AnsSound Q (execMulh cell u s) := by
  unfold execMulh
  try dsimp only
  repeat' first
    | (with_reducible first
        | assumption | exact ansSound_fault | apply ansSound_next | apply State.microOp_sound)
    | split
    | with_reducible intro _

theorem execMulhu_sound {cell : CellId} {u : MuFields} {s : State} (hS : s.Sound Q) :
    AnsSound Q (execMulhu cell u s) := by
  unfold execMulhu
  try dsimp only
  repeat' first
    | (with_reducible first
        | assumption | exact ansSound_fault | apply ansSound_next | apply State.microOp_sound)
    | split
    | with_reducible intro _

theorem execShl_sound {cell : CellId} {u : MuFields} {s : State} (hS : s.Sound Q) :
    AnsSound Q (execShl cell u s) := by
  unfold execShl
  try dsimp only
  repeat' first
    | (with_reducible first
        | assumption | exact ansSound_fault | apply ansSound_next | apply State.microOp_sound)
    | split
    | with_reducible intro _

theorem execShr_sound {cell : CellId} {u : MuFields} {s : State} (hS : s.Sound Q) :
    AnsSound Q (execShr cell u s) := by
  unfold execShr
  try dsimp only
  repeat' first
    | (with_reducible first
        | assumption | exact ansSound_fault | apply ansSound_next | apply State.microOp_sound)
    | split
    | with_reducible intro _

theorem execSra_sound {cell : CellId} {u : MuFields} {s : State} (hS : s.Sound Q) :
    AnsSound Q (execSra cell u s) := by
  unfold execSra
  try dsimp only
  repeat' first
    | (with_reducible first
        | assumption | exact ansSound_fault | apply ansSound_next | apply State.microOp_sound)
    | split
    | with_reducible intro _

theorem execMin_sound {cell : CellId} {u : MuFields} {s : State} (hS : s.Sound Q) :
    AnsSound Q (execMin cell u s) := by
  unfold execMin
  try dsimp only
  repeat' first
    | (with_reducible first
        | assumption | exact ansSound_fault | apply ansSound_next | apply State.microOp_sound)
    | split
    | with_reducible intro _

theorem execMax_sound {cell : CellId} {u : MuFields} {s : State} (hS : s.Sound Q) :
    AnsSound Q (execMax cell u s) := by
  unfold execMax
  try dsimp only
  repeat' first
    | (with_reducible first
        | assumption | exact ansSound_fault | apply ansSound_next | apply State.microOp_sound)
    | split
    | with_reducible intro _

theorem execAbs_sound {cell : CellId} {u : MuFields} {s : State} (hS : s.Sound Q) :
    AnsSound Q (execAbs cell u s) := by
  unfold execAbs
  try dsimp only
  repeat' first
    | (with_reducible first
        | assumption | exact ansSound_fault | apply ansSound_next | apply State.microOp_sound)
    | split
    | with_reducible intro _

theorem execCmpeq_sound {cell : CellId} {u : MuFields} {s : State} (hS : s.Sound Q) :
    AnsSound Q (execCmpeq cell u s) := by
  unfold execCmpeq
  try dsimp only
  repeat' first
    | (with_reducible first
        | assumption | exact ansSound_fault | apply ansSound_next | apply State.microOp_sound)
    | split
    | with_reducible intro _

theorem execCmplt_sound {cell : CellId} {u : MuFields} {s : State} (hS : s.Sound Q) :
    AnsSound Q (execCmplt cell u s) := by
  unfold execCmplt
  try dsimp only
  repeat' first
    | (with_reducible first
        | assumption | exact ansSound_fault | apply ansSound_next | apply State.microOp_sound)
    | split
    | with_reducible intro _

theorem execCmpltu_sound {cell : CellId} {u : MuFields} {s : State} (hS : s.Sound Q) :
    AnsSound Q (execCmpltu cell u s) := by
  unfold execCmpltu
  try dsimp only
  repeat' first
    | (with_reducible first
        | assumption | exact ansSound_fault | apply ansSound_next | apply State.microOp_sound)
    | split
    | with_reducible intro _

theorem execCmple_sound {cell : CellId} {u : MuFields} {s : State} (hS : s.Sound Q) :
    AnsSound Q (execCmple cell u s) := by
  unfold execCmple
  try dsimp only
  repeat' first
    | (with_reducible first
        | assumption | exact ansSound_fault | apply ansSound_next | apply State.microOp_sound)
    | split
    | with_reducible intro _

theorem execSel_sound {cell : CellId} {u : MuFields} {s : State} (hS : s.Sound Q) :
    AnsSound Q (execSel cell u s) := by
  unfold execSel
  try dsimp only
  repeat' first
    | (with_reducible first
        | assumption | exact ansSound_fault | apply ansSound_next | apply State.microOp_sound)
    | split
    | with_reducible intro _

theorem execClamp_sound {cell : CellId} {u : MuFields} {s : State} (hS : s.Sound Q) :
    AnsSound Q (execClamp cell u s) := by
  unfold execClamp
  try dsimp only
  repeat' first
    | (with_reducible first
        | assumption | exact ansSound_fault | apply ansSound_next | apply State.microOp_sound)
    | split
    | with_reducible intro _

theorem execReq_sound {cell : CellId} {u : MuFields} {s : State} (hS : s.Sound Q) :
    AnsSound Q (execReq cell u s) := by
  unfold execReq
  try dsimp only
  repeat' first
    | (with_reducible first
        | assumption | exact ansSound_fault | apply ansSound_next | apply State.microOp_sound)
    | split
    | with_reducible intro _

theorem execLut_sound {cell : CellId} {u : MuFields} {s : State} (hS : s.Sound Q) :
    AnsSound Q (execLut cell u s) := by
  unfold execLut
  try dsimp only
  repeat' first
    | (with_reducible first
        | assumption | exact ansSound_fault | apply ansSound_next | apply State.microOp_sound)
    | split
    | with_reducible intro _

theorem execRcp_sound {cell : CellId} {u : MuFields} {s : State} (hS : s.Sound Q) :
    AnsSound Q (execRcp cell u s) := by
  unfold execRcp
  try dsimp only
  repeat' first
    | (with_reducible first
        | assumption | exact ansSound_fault | apply ansSound_next | apply State.microOp_sound)
    | split
    | with_reducible intro _

theorem execExp2_sound {cell : CellId} {u : MuFields} {s : State} (hS : s.Sound Q) :
    AnsSound Q (execExp2 cell u s) := by
  unfold execExp2
  try dsimp only
  repeat' first
    | (with_reducible first
        | assumption | exact ansSound_fault | apply ansSound_next | apply State.microOp_sound)
    | split
    | with_reducible intro _

theorem execPerm_sound {cell : CellId} {u : MuFields} {s : State} (hS : s.Sound Q) :
    AnsSound Q (execPerm cell u s) := by
  unfold execPerm
  try dsimp only
  repeat' first
    | (with_reducible first
        | assumption | exact ansSound_fault | apply ansSound_next | apply State.microOp_sound)
    | split
    | with_reducible intro _

theorem execAdd192_sound {cell : CellId} {u : MuFields} {s : State} (hS : s.Sound Q) :
    AnsSound Q (execAdd192 cell u s) := by
  unfold execAdd192
  try dsimp only
  repeat' first
    | (with_reducible first
        | assumption | exact ansSound_fault | apply ansSound_next | apply State.microOp_sound)
    | split
    | with_reducible intro _

theorem execMovi_sound {cell : CellId} {u : MuFields} {s : State} (hS : s.Sound Q) :
    AnsSound Q (execMovi cell u s) := by
  unfold execMovi
  try dsimp only
  repeat' first
    | (with_reducible first
        | assumption | exact ansSound_fault | apply ansSound_next | apply State.microOp_sound)
    | split
    | with_reducible intro _

/-! ### Machine/Tint.lean -/

theorem State.leaveEngines_sound {s : State} {c : Nat} {ts : List TintTile} (hS : s.Sound Q) :
    (State.leaveEngines s c ts).Sound Q := by
  unfold State.leaveEngines
  try dsimp only
  repeat' first
    | (with_reducible first
        | assumption)
    | split | with_reducible apply State.Sound.foldl | with_reducible apply State.Sound.foldl_fst | fail_if_no_progress with_reducible refine State.Sound.rest ?_ rfl
    | with_reducible intro _

theorem State.tintPlate_sound {s : State} {c : Nat} (hS : s.Sound Q) :
    (State.tintPlate s c).Sound Q := by
  unfold State.tintPlate
  try dsimp only
  repeat' first
    | (with_reducible first
        | assumption | apply State.noteRead_sound | apply State.plateWorked_sound | apply State.bump_sound | apply State.noteArray_sound
        | apply State.metaFaults_sound | apply State.raiseFlags_sound | apply State.leaveEngines_sound | apply State.storeArray_sound
        | (refine State.storeArray_sound_eq (he := by assumption) ?_))
    | split | with_reducible apply State.Sound.foldl | with_reducible apply State.Sound.foldl_fst
    | with_reducible intro _

theorem execTint_sound {slot : Nat} {hw : List HwEvent} {s : State} (hS : s.Sound Q) :
    AnsSound Q (execTint slot hw s) := by
  unfold execTint
  try dsimp only
  repeat' first
    | (with_reducible first
        | assumption | exact ansSound_fault | apply ansSound_next | apply State.plateDo_sound | apply State.tintPlate_sound)
    | split
    | with_reducible intro _

end Sys2Proof.Machine
end

