-- ==== Sys2Proof/Laws/State.lean ====
section
/-! SUPPORT. What each named update of the state leaves alone and what it sets: one lemma per field. -/

set_option Elab.async false

namespace Sys2Proof.Machine

variable (s : State)

/-! ### emit -/

@[simp] theorem State.emit_pending (o : Out) : (s.emit o).pending = s.pending := rfl
@[simp] theorem State.emit_freeIdx (o : Out) : (s.emit o).freeIdx = s.freeIdx := rfl
@[simp] theorem State.emit_upNs (o : Out) : (s.emit o).upNs = s.upNs := rfl
@[simp] theorem State.emit_pw (o : Out) : (s.emit o).pw = s.pw := rfl
@[simp] theorem State.emit_regs (o : Out) : (s.emit o).regs = s.regs := rfl
@[simp] theorem State.emit_msix (o : Out) : (s.emit o).msix = s.msix := rfl
@[simp] theorem State.emit_msixPend (o : Out) : (s.emit o).msixPend = s.msixPend := rfl
@[simp] theorem State.emit_host (o : Out) : (s.emit o).host = s.host := rfl
@[simp] theorem State.emit_hostMem (o : Out) : (s.emit o).hostMem = s.hostMem := rfl
@[simp] theorem State.emit_mem (o : Out) : (s.emit o).mem = s.mem := rfl
@[simp] theorem State.emit_poison (o : Out) : (s.emit o).poison = s.poison := rfl
@[simp] theorem State.emit_mb (o : Out) : (s.emit o).mb = s.mb := rfl
@[simp] theorem State.emit_rcTags (o : Out) : (s.emit o).rcTags = s.rcTags := rfl
@[simp] theorem State.emit_hbm (o : Out) : (s.emit o).hbm = s.hbm := rfl
@[simp] theorem State.emit_chases (o : Out) : (s.emit o).chases = s.chases := rfl
@[simp] theorem State.emit_samples (o : Out) : (s.emit o).samples = s.samples := rfl
@[simp] theorem State.emit_groups (o : Out) : (s.emit o).groups = s.groups := rfl
@[simp] theorem State.emit_openWaits (o : Out) : (s.emit o).openWaits = s.openWaits := rfl
@[simp] theorem State.emit_engines (o : Out) : (s.emit o).engines = s.engines := rfl
@[simp] theorem State.emit_stipple (o : Out) : (s.emit o).stipple = s.stipple := rfl
@[simp] theorem State.emit_marks (o : Out) : (s.emit o).marks = s.marks := rfl
@[simp] theorem State.emit_fab (o : Out) : (s.emit o).fab = s.fab := rfl
@[simp] theorem State.emit_eth (o : Out) : (s.emit o).eth = s.eth := rfl
@[simp] theorem State.emit_ink (o : Out) : (s.emit o).ink = s.ink := rfl
@[simp] theorem State.emit_time (o : Out) : (s.emit o).time = s.time := rfl
@[simp] theorem State.emit_sec (o : Out) : (s.emit o).sec = s.sec := rfl
@[simp] theorem State.emit_ras (o : Out) : (s.emit o).ras = s.ras := rfl

/-! ### setChase -/

@[simp] theorem State.setChase_pending (c : Nat) (x : ChaseSt) : (s.setChase c x).pending = s.pending := rfl
@[simp] theorem State.setChase_freeIdx (c : Nat) (x : ChaseSt) : (s.setChase c x).freeIdx = s.freeIdx := rfl
@[simp] theorem State.setChase_upNs (c : Nat) (x : ChaseSt) : (s.setChase c x).upNs = s.upNs := rfl
@[simp] theorem State.setChase_pw (c : Nat) (x : ChaseSt) : (s.setChase c x).pw = s.pw := rfl
@[simp] theorem State.setChase_regs (c : Nat) (x : ChaseSt) : (s.setChase c x).regs = s.regs := rfl
@[simp] theorem State.setChase_msix (c : Nat) (x : ChaseSt) : (s.setChase c x).msix = s.msix := rfl
@[simp] theorem State.setChase_msixPend (c : Nat) (x : ChaseSt) : (s.setChase c x).msixPend = s.msixPend := rfl
@[simp] theorem State.setChase_out (c : Nat) (x : ChaseSt) : (s.setChase c x).out = s.out := rfl
@[simp] theorem State.setChase_host (c : Nat) (x : ChaseSt) : (s.setChase c x).host = s.host := rfl
@[simp] theorem State.setChase_hostMem (c : Nat) (x : ChaseSt) : (s.setChase c x).hostMem = s.hostMem := rfl
@[simp] theorem State.setChase_mem (c : Nat) (x : ChaseSt) : (s.setChase c x).mem = s.mem := rfl
@[simp] theorem State.setChase_poison (c : Nat) (x : ChaseSt) : (s.setChase c x).poison = s.poison := rfl
@[simp] theorem State.setChase_mb (c : Nat) (x : ChaseSt) : (s.setChase c x).mb = s.mb := rfl
@[simp] theorem State.setChase_rcTags (c : Nat) (x : ChaseSt) : (s.setChase c x).rcTags = s.rcTags := rfl
@[simp] theorem State.setChase_hbm (c : Nat) (x : ChaseSt) : (s.setChase c x).hbm = s.hbm := rfl
@[simp] theorem State.setChase_samples (c : Nat) (x : ChaseSt) : (s.setChase c x).samples = s.samples := rfl
@[simp] theorem State.setChase_groups (c : Nat) (x : ChaseSt) : (s.setChase c x).groups = s.groups := rfl
@[simp] theorem State.setChase_openWaits (c : Nat) (x : ChaseSt) : (s.setChase c x).openWaits = s.openWaits := rfl
@[simp] theorem State.setChase_engines (c : Nat) (x : ChaseSt) : (s.setChase c x).engines = s.engines := rfl
@[simp] theorem State.setChase_stipple (c : Nat) (x : ChaseSt) : (s.setChase c x).stipple = s.stipple := rfl
@[simp] theorem State.setChase_marks (c : Nat) (x : ChaseSt) : (s.setChase c x).marks = s.marks := rfl
@[simp] theorem State.setChase_fab (c : Nat) (x : ChaseSt) : (s.setChase c x).fab = s.fab := rfl
@[simp] theorem State.setChase_eth (c : Nat) (x : ChaseSt) : (s.setChase c x).eth = s.eth := rfl
@[simp] theorem State.setChase_ink (c : Nat) (x : ChaseSt) : (s.setChase c x).ink = s.ink := rfl
@[simp] theorem State.setChase_time (c : Nat) (x : ChaseSt) : (s.setChase c x).time = s.time := rfl
@[simp] theorem State.setChase_sec (c : Nat) (x : ChaseSt) : (s.setChase c x).sec = s.sec := rfl
@[simp] theorem State.setChase_ras (c : Nat) (x : ChaseSt) : (s.setChase c x).ras = s.ras := rfl

/-! ### updChase -/

@[simp] theorem State.updChase_pending (c : Nat) (f : ChaseSt → ChaseSt) : (s.updChase c f).pending = s.pending := rfl
@[simp] theorem State.updChase_freeIdx (c : Nat) (f : ChaseSt → ChaseSt) : (s.updChase c f).freeIdx = s.freeIdx := rfl
@[simp] theorem State.updChase_upNs (c : Nat) (f : ChaseSt → ChaseSt) : (s.updChase c f).upNs = s.upNs := rfl
@[simp] theorem State.updChase_pw (c : Nat) (f : ChaseSt → ChaseSt) : (s.updChase c f).pw = s.pw := rfl
@[simp] theorem State.updChase_regs (c : Nat) (f : ChaseSt → ChaseSt) : (s.updChase c f).regs = s.regs := rfl
@[simp] theorem State.updChase_msix (c : Nat) (f : ChaseSt → ChaseSt) : (s.updChase c f).msix = s.msix := rfl
@[simp] theorem State.updChase_msixPend (c : Nat) (f : ChaseSt → ChaseSt) : (s.updChase c f).msixPend = s.msixPend := rfl
@[simp] theorem State.updChase_out (c : Nat) (f : ChaseSt → ChaseSt) : (s.updChase c f).out = s.out := rfl
@[simp] theorem State.updChase_host (c : Nat) (f : ChaseSt → ChaseSt) : (s.updChase c f).host = s.host := rfl
@[simp] theorem State.updChase_hostMem (c : Nat) (f : ChaseSt → ChaseSt) : (s.updChase c f).hostMem = s.hostMem := rfl
@[simp] theorem State.updChase_mem (c : Nat) (f : ChaseSt → ChaseSt) : (s.updChase c f).mem = s.mem := rfl
@[simp] theorem State.updChase_poison (c : Nat) (f : ChaseSt → ChaseSt) : (s.updChase c f).poison = s.poison := rfl
@[simp] theorem State.updChase_mb (c : Nat) (f : ChaseSt → ChaseSt) : (s.updChase c f).mb = s.mb := rfl
@[simp] theorem State.updChase_rcTags (c : Nat) (f : ChaseSt → ChaseSt) : (s.updChase c f).rcTags = s.rcTags := rfl
@[simp] theorem State.updChase_hbm (c : Nat) (f : ChaseSt → ChaseSt) : (s.updChase c f).hbm = s.hbm := rfl
@[simp] theorem State.updChase_samples (c : Nat) (f : ChaseSt → ChaseSt) : (s.updChase c f).samples = s.samples := rfl
@[simp] theorem State.updChase_groups (c : Nat) (f : ChaseSt → ChaseSt) : (s.updChase c f).groups = s.groups := rfl
@[simp] theorem State.updChase_openWaits (c : Nat) (f : ChaseSt → ChaseSt) : (s.updChase c f).openWaits = s.openWaits := rfl
@[simp] theorem State.updChase_engines (c : Nat) (f : ChaseSt → ChaseSt) : (s.updChase c f).engines = s.engines := rfl
@[simp] theorem State.updChase_stipple (c : Nat) (f : ChaseSt → ChaseSt) : (s.updChase c f).stipple = s.stipple := rfl
@[simp] theorem State.updChase_marks (c : Nat) (f : ChaseSt → ChaseSt) : (s.updChase c f).marks = s.marks := rfl
@[simp] theorem State.updChase_fab (c : Nat) (f : ChaseSt → ChaseSt) : (s.updChase c f).fab = s.fab := rfl
@[simp] theorem State.updChase_eth (c : Nat) (f : ChaseSt → ChaseSt) : (s.updChase c f).eth = s.eth := rfl
@[simp] theorem State.updChase_ink (c : Nat) (f : ChaseSt → ChaseSt) : (s.updChase c f).ink = s.ink := rfl
@[simp] theorem State.updChase_time (c : Nat) (f : ChaseSt → ChaseSt) : (s.updChase c f).time = s.time := rfl
@[simp] theorem State.updChase_sec (c : Nat) (f : ChaseSt → ChaseSt) : (s.updChase c f).sec = s.sec := rfl
@[simp] theorem State.updChase_ras (c : Nat) (f : ChaseSt → ChaseSt) : (s.updChase c f).ras = s.ras := rfl

/-! ### updTicket -/

@[simp] theorem State.updTicket_pending (r q : Nat) (f : Ticket → Ticket) : (s.updTicket r q f).pending = s.pending := rfl
@[simp] theorem State.updTicket_freeIdx (r q : Nat) (f : Ticket → Ticket) : (s.updTicket r q f).freeIdx = s.freeIdx := rfl
@[simp] theorem State.updTicket_upNs (r q : Nat) (f : Ticket → Ticket) : (s.updTicket r q f).upNs = s.upNs := rfl
@[simp] theorem State.updTicket_pw (r q : Nat) (f : Ticket → Ticket) : (s.updTicket r q f).pw = s.pw := rfl
@[simp] theorem State.updTicket_regs (r q : Nat) (f : Ticket → Ticket) : (s.updTicket r q f).regs = s.regs := rfl
@[simp] theorem State.updTicket_msix (r q : Nat) (f : Ticket → Ticket) : (s.updTicket r q f).msix = s.msix := rfl
@[simp] theorem State.updTicket_msixPend (r q : Nat) (f : Ticket → Ticket) : (s.updTicket r q f).msixPend = s.msixPend := rfl
@[simp] theorem State.updTicket_out (r q : Nat) (f : Ticket → Ticket) : (s.updTicket r q f).out = s.out := rfl
@[simp] theorem State.updTicket_hostMem (r q : Nat) (f : Ticket → Ticket) : (s.updTicket r q f).hostMem = s.hostMem := rfl
@[simp] theorem State.updTicket_mem (r q : Nat) (f : Ticket → Ticket) : (s.updTicket r q f).mem = s.mem := rfl
@[simp] theorem State.updTicket_poison (r q : Nat) (f : Ticket → Ticket) : (s.updTicket r q f).poison = s.poison := rfl
@[simp] theorem State.updTicket_mb (r q : Nat) (f : Ticket → Ticket) : (s.updTicket r q f).mb = s.mb := rfl
@[simp] theorem State.updTicket_rcTags (r q : Nat) (f : Ticket → Ticket) : (s.updTicket r q f).rcTags = s.rcTags := rfl
@[simp] theorem State.updTicket_hbm (r q : Nat) (f : Ticket → Ticket) : (s.updTicket r q f).hbm = s.hbm := rfl
@[simp] theorem State.updTicket_chases (r q : Nat) (f : Ticket → Ticket) : (s.updTicket r q f).chases = s.chases := rfl
@[simp] theorem State.updTicket_samples (r q : Nat) (f : Ticket → Ticket) : (s.updTicket r q f).samples = s.samples := rfl
@[simp] theorem State.updTicket_groups (r q : Nat) (f : Ticket → Ticket) : (s.updTicket r q f).groups = s.groups := rfl
@[simp] theorem State.updTicket_openWaits (r q : Nat) (f : Ticket → Ticket) : (s.updTicket r q f).openWaits = s.openWaits := rfl
@[simp] theorem State.updTicket_engines (r q : Nat) (f : Ticket → Ticket) : (s.updTicket r q f).engines = s.engines := rfl
@[simp] theorem State.updTicket_stipple (r q : Nat) (f : Ticket → Ticket) : (s.updTicket r q f).stipple = s.stipple := rfl
@[simp] theorem State.updTicket_marks (r q : Nat) (f : Ticket → Ticket) : (s.updTicket r q f).marks = s.marks := rfl
@[simp] theorem State.updTicket_fab (r q : Nat) (f : Ticket → Ticket) : (s.updTicket r q f).fab = s.fab := rfl
@[simp] theorem State.updTicket_eth (r q : Nat) (f : Ticket → Ticket) : (s.updTicket r q f).eth = s.eth := rfl
@[simp] theorem State.updTicket_ink (r q : Nat) (f : Ticket → Ticket) : (s.updTicket r q f).ink = s.ink := rfl
@[simp] theorem State.updTicket_time (r q : Nat) (f : Ticket → Ticket) : (s.updTicket r q f).time = s.time := rfl
@[simp] theorem State.updTicket_sec (r q : Nat) (f : Ticket → Ticket) : (s.updTicket r q f).sec = s.sec := rfl
@[simp] theorem State.updTicket_ras (r q : Nat) (f : Ticket → Ticket) : (s.updTicket r q f).ras = s.ras := rfl

/-! ### updRing -/

@[simp] theorem State.updRing_pending (r : Nat) (f : RingRt → RingRt) : (s.updRing r f).pending = s.pending := rfl
@[simp] theorem State.updRing_freeIdx (r : Nat) (f : RingRt → RingRt) : (s.updRing r f).freeIdx = s.freeIdx := rfl
@[simp] theorem State.updRing_upNs (r : Nat) (f : RingRt → RingRt) : (s.updRing r f).upNs = s.upNs := rfl
@[simp] theorem State.updRing_pw (r : Nat) (f : RingRt → RingRt) : (s.updRing r f).pw = s.pw := rfl
@[simp] theorem State.updRing_regs (r : Nat) (f : RingRt → RingRt) : (s.updRing r f).regs = s.regs := rfl
@[simp] theorem State.updRing_msix (r : Nat) (f : RingRt → RingRt) : (s.updRing r f).msix = s.msix := rfl
@[simp] theorem State.updRing_msixPend (r : Nat) (f : RingRt → RingRt) : (s.updRing r f).msixPend = s.msixPend := rfl
@[simp] theorem State.updRing_out (r : Nat) (f : RingRt → RingRt) : (s.updRing r f).out = s.out := rfl
@[simp] theorem State.updRing_hostMem (r : Nat) (f : RingRt → RingRt) : (s.updRing r f).hostMem = s.hostMem := rfl
@[simp] theorem State.updRing_mem (r : Nat) (f : RingRt → RingRt) : (s.updRing r f).mem = s.mem := rfl
@[simp] theorem State.updRing_poison (r : Nat) (f : RingRt → RingRt) : (s.updRing r f).poison = s.poison := rfl
@[simp] theorem State.updRing_mb (r : Nat) (f : RingRt → RingRt) : (s.updRing r f).mb = s.mb := rfl
@[simp] theorem State.updRing_rcTags (r : Nat) (f : RingRt → RingRt) : (s.updRing r f).rcTags = s.rcTags := rfl
@[simp] theorem State.updRing_hbm (r : Nat) (f : RingRt → RingRt) : (s.updRing r f).hbm = s.hbm := rfl
@[simp] theorem State.updRing_chases (r : Nat) (f : RingRt → RingRt) : (s.updRing r f).chases = s.chases := rfl
@[simp] theorem State.updRing_samples (r : Nat) (f : RingRt → RingRt) : (s.updRing r f).samples = s.samples := rfl
@[simp] theorem State.updRing_groups (r : Nat) (f : RingRt → RingRt) : (s.updRing r f).groups = s.groups := rfl
@[simp] theorem State.updRing_openWaits (r : Nat) (f : RingRt → RingRt) : (s.updRing r f).openWaits = s.openWaits := rfl
@[simp] theorem State.updRing_engines (r : Nat) (f : RingRt → RingRt) : (s.updRing r f).engines = s.engines := rfl
@[simp] theorem State.updRing_stipple (r : Nat) (f : RingRt → RingRt) : (s.updRing r f).stipple = s.stipple := rfl
@[simp] theorem State.updRing_marks (r : Nat) (f : RingRt → RingRt) : (s.updRing r f).marks = s.marks := rfl
@[simp] theorem State.updRing_fab (r : Nat) (f : RingRt → RingRt) : (s.updRing r f).fab = s.fab := rfl
@[simp] theorem State.updRing_eth (r : Nat) (f : RingRt → RingRt) : (s.updRing r f).eth = s.eth := rfl
@[simp] theorem State.updRing_ink (r : Nat) (f : RingRt → RingRt) : (s.updRing r f).ink = s.ink := rfl
@[simp] theorem State.updRing_time (r : Nat) (f : RingRt → RingRt) : (s.updRing r f).time = s.time := rfl
@[simp] theorem State.updRing_sec (r : Nat) (f : RingRt → RingRt) : (s.updRing r f).sec = s.sec := rfl
@[simp] theorem State.updRing_ras (r : Nat) (f : RingRt → RingRt) : (s.updRing r f).ras = s.ras := rfl

/-! ### updMark -/

@[simp] theorem State.updMark_pending (n : Nat) (f : MarkRt → MarkRt) : (s.updMark n f).pending = s.pending := rfl
@[simp] theorem State.updMark_freeIdx (n : Nat) (f : MarkRt → MarkRt) : (s.updMark n f).freeIdx = s.freeIdx := rfl
@[simp] theorem State.updMark_upNs (n : Nat) (f : MarkRt → MarkRt) : (s.updMark n f).upNs = s.upNs := rfl
@[simp] theorem State.updMark_pw (n : Nat) (f : MarkRt → MarkRt) : (s.updMark n f).pw = s.pw := rfl
@[simp] theorem State.updMark_regs (n : Nat) (f : MarkRt → MarkRt) : (s.updMark n f).regs = s.regs := rfl
@[simp] theorem State.updMark_msix (n : Nat) (f : MarkRt → MarkRt) : (s.updMark n f).msix = s.msix := rfl
@[simp] theorem State.updMark_msixPend (n : Nat) (f : MarkRt → MarkRt) : (s.updMark n f).msixPend = s.msixPend := rfl
@[simp] theorem State.updMark_out (n : Nat) (f : MarkRt → MarkRt) : (s.updMark n f).out = s.out := rfl
@[simp] theorem State.updMark_host (n : Nat) (f : MarkRt → MarkRt) : (s.updMark n f).host = s.host := rfl
@[simp] theorem State.updMark_hostMem (n : Nat) (f : MarkRt → MarkRt) : (s.updMark n f).hostMem = s.hostMem := rfl
@[simp] theorem State.updMark_mem (n : Nat) (f : MarkRt → MarkRt) : (s.updMark n f).mem = s.mem := rfl
@[simp] theorem State.updMark_poison (n : Nat) (f : MarkRt → MarkRt) : (s.updMark n f).poison = s.poison := rfl
@[simp] theorem State.updMark_mb (n : Nat) (f : MarkRt → MarkRt) : (s.updMark n f).mb = s.mb := rfl
@[simp] theorem State.updMark_rcTags (n : Nat) (f : MarkRt → MarkRt) : (s.updMark n f).rcTags = s.rcTags := rfl
@[simp] theorem State.updMark_hbm (n : Nat) (f : MarkRt → MarkRt) : (s.updMark n f).hbm = s.hbm := rfl
@[simp] theorem State.updMark_chases (n : Nat) (f : MarkRt → MarkRt) : (s.updMark n f).chases = s.chases := rfl
@[simp] theorem State.updMark_samples (n : Nat) (f : MarkRt → MarkRt) : (s.updMark n f).samples = s.samples := rfl
@[simp] theorem State.updMark_groups (n : Nat) (f : MarkRt → MarkRt) : (s.updMark n f).groups = s.groups := rfl
@[simp] theorem State.updMark_openWaits (n : Nat) (f : MarkRt → MarkRt) : (s.updMark n f).openWaits = s.openWaits := rfl
@[simp] theorem State.updMark_engines (n : Nat) (f : MarkRt → MarkRt) : (s.updMark n f).engines = s.engines := rfl
@[simp] theorem State.updMark_stipple (n : Nat) (f : MarkRt → MarkRt) : (s.updMark n f).stipple = s.stipple := rfl
@[simp] theorem State.updMark_fab (n : Nat) (f : MarkRt → MarkRt) : (s.updMark n f).fab = s.fab := rfl
@[simp] theorem State.updMark_eth (n : Nat) (f : MarkRt → MarkRt) : (s.updMark n f).eth = s.eth := rfl
@[simp] theorem State.updMark_ink (n : Nat) (f : MarkRt → MarkRt) : (s.updMark n f).ink = s.ink := rfl
@[simp] theorem State.updMark_time (n : Nat) (f : MarkRt → MarkRt) : (s.updMark n f).time = s.time := rfl
@[simp] theorem State.updMark_sec (n : Nat) (f : MarkRt → MarkRt) : (s.updMark n f).sec = s.sec := rfl
@[simp] theorem State.updMark_ras (n : Nat) (f : MarkRt → MarkRt) : (s.updMark n f).ras = s.ras := rfl

/-! ### updLink -/

@[simp] theorem State.updLink_pending (l : Nat) (f : LinkSt → LinkSt) : (s.updLink l f).pending = s.pending := rfl
@[simp] theorem State.updLink_freeIdx (l : Nat) (f : LinkSt → LinkSt) : (s.updLink l f).freeIdx = s.freeIdx := rfl
@[simp] theorem State.updLink_upNs (l : Nat) (f : LinkSt → LinkSt) : (s.updLink l f).upNs = s.upNs := rfl
@[simp] theorem State.updLink_pw (l : Nat) (f : LinkSt → LinkSt) : (s.updLink l f).pw = s.pw := rfl
@[simp] theorem State.updLink_regs (l : Nat) (f : LinkSt → LinkSt) : (s.updLink l f).regs = s.regs := rfl
@[simp] theorem State.updLink_msix (l : Nat) (f : LinkSt → LinkSt) : (s.updLink l f).msix = s.msix := rfl
@[simp] theorem State.updLink_msixPend (l : Nat) (f : LinkSt → LinkSt) : (s.updLink l f).msixPend = s.msixPend := rfl
@[simp] theorem State.updLink_out (l : Nat) (f : LinkSt → LinkSt) : (s.updLink l f).out = s.out := rfl
@[simp] theorem State.updLink_host (l : Nat) (f : LinkSt → LinkSt) : (s.updLink l f).host = s.host := rfl
@[simp] theorem State.updLink_hostMem (l : Nat) (f : LinkSt → LinkSt) : (s.updLink l f).hostMem = s.hostMem := rfl
@[simp] theorem State.updLink_mem (l : Nat) (f : LinkSt → LinkSt) : (s.updLink l f).mem = s.mem := rfl
@[simp] theorem State.updLink_poison (l : Nat) (f : LinkSt → LinkSt) : (s.updLink l f).poison = s.poison := rfl
@[simp] theorem State.updLink_mb (l : Nat) (f : LinkSt → LinkSt) : (s.updLink l f).mb = s.mb := rfl
@[simp] theorem State.updLink_rcTags (l : Nat) (f : LinkSt → LinkSt) : (s.updLink l f).rcTags = s.rcTags := rfl
@[simp] theorem State.updLink_hbm (l : Nat) (f : LinkSt → LinkSt) : (s.updLink l f).hbm = s.hbm := rfl
@[simp] theorem State.updLink_chases (l : Nat) (f : LinkSt → LinkSt) : (s.updLink l f).chases = s.chases := rfl
@[simp] theorem State.updLink_samples (l : Nat) (f : LinkSt → LinkSt) : (s.updLink l f).samples = s.samples := rfl
@[simp] theorem State.updLink_groups (l : Nat) (f : LinkSt → LinkSt) : (s.updLink l f).groups = s.groups := rfl
@[simp] theorem State.updLink_openWaits (l : Nat) (f : LinkSt → LinkSt) : (s.updLink l f).openWaits = s.openWaits := rfl
@[simp] theorem State.updLink_engines (l : Nat) (f : LinkSt → LinkSt) : (s.updLink l f).engines = s.engines := rfl
@[simp] theorem State.updLink_stipple (l : Nat) (f : LinkSt → LinkSt) : (s.updLink l f).stipple = s.stipple := rfl
@[simp] theorem State.updLink_marks (l : Nat) (f : LinkSt → LinkSt) : (s.updLink l f).marks = s.marks := rfl
@[simp] theorem State.updLink_eth (l : Nat) (f : LinkSt → LinkSt) : (s.updLink l f).eth = s.eth := rfl
@[simp] theorem State.updLink_ink (l : Nat) (f : LinkSt → LinkSt) : (s.updLink l f).ink = s.ink := rfl
@[simp] theorem State.updLink_time (l : Nat) (f : LinkSt → LinkSt) : (s.updLink l f).time = s.time := rfl
@[simp] theorem State.updLink_sec (l : Nat) (f : LinkSt → LinkSt) : (s.updLink l f).sec = s.sec := rfl
@[simp] theorem State.updLink_ras (l : Nat) (f : LinkSt → LinkSt) : (s.updLink l f).ras = s.ras := rfl

/-! ### updFab -/

@[simp] theorem State.updFab_pending (f : FabSt → FabSt) : (s.updFab f).pending = s.pending := rfl
@[simp] theorem State.updFab_freeIdx (f : FabSt → FabSt) : (s.updFab f).freeIdx = s.freeIdx := rfl
@[simp] theorem State.updFab_upNs (f : FabSt → FabSt) : (s.updFab f).upNs = s.upNs := rfl
@[simp] theorem State.updFab_pw (f : FabSt → FabSt) : (s.updFab f).pw = s.pw := rfl
@[simp] theorem State.updFab_regs (f : FabSt → FabSt) : (s.updFab f).regs = s.regs := rfl
@[simp] theorem State.updFab_msix (f : FabSt → FabSt) : (s.updFab f).msix = s.msix := rfl
@[simp] theorem State.updFab_msixPend (f : FabSt → FabSt) : (s.updFab f).msixPend = s.msixPend := rfl
@[simp] theorem State.updFab_out (f : FabSt → FabSt) : (s.updFab f).out = s.out := rfl
@[simp] theorem State.updFab_host (f : FabSt → FabSt) : (s.updFab f).host = s.host := rfl
@[simp] theorem State.updFab_hostMem (f : FabSt → FabSt) : (s.updFab f).hostMem = s.hostMem := rfl
@[simp] theorem State.updFab_mem (f : FabSt → FabSt) : (s.updFab f).mem = s.mem := rfl
@[simp] theorem State.updFab_poison (f : FabSt → FabSt) : (s.updFab f).poison = s.poison := rfl
@[simp] theorem State.updFab_mb (f : FabSt → FabSt) : (s.updFab f).mb = s.mb := rfl
@[simp] theorem State.updFab_rcTags (f : FabSt → FabSt) : (s.updFab f).rcTags = s.rcTags := rfl
@[simp] theorem State.updFab_hbm (f : FabSt → FabSt) : (s.updFab f).hbm = s.hbm := rfl
@[simp] theorem State.updFab_chases (f : FabSt → FabSt) : (s.updFab f).chases = s.chases := rfl
@[simp] theorem State.updFab_samples (f : FabSt → FabSt) : (s.updFab f).samples = s.samples := rfl
@[simp] theorem State.updFab_groups (f : FabSt → FabSt) : (s.updFab f).groups = s.groups := rfl
@[simp] theorem State.updFab_openWaits (f : FabSt → FabSt) : (s.updFab f).openWaits = s.openWaits := rfl
@[simp] theorem State.updFab_engines (f : FabSt → FabSt) : (s.updFab f).engines = s.engines := rfl
@[simp] theorem State.updFab_stipple (f : FabSt → FabSt) : (s.updFab f).stipple = s.stipple := rfl
@[simp] theorem State.updFab_marks (f : FabSt → FabSt) : (s.updFab f).marks = s.marks := rfl
@[simp] theorem State.updFab_eth (f : FabSt → FabSt) : (s.updFab f).eth = s.eth := rfl
@[simp] theorem State.updFab_ink (f : FabSt → FabSt) : (s.updFab f).ink = s.ink := rfl
@[simp] theorem State.updFab_time (f : FabSt → FabSt) : (s.updFab f).time = s.time := rfl
@[simp] theorem State.updFab_sec (f : FabSt → FabSt) : (s.updFab f).sec = s.sec := rfl
@[simp] theorem State.updFab_ras (f : FabSt → FabSt) : (s.updFab f).ras = s.ras := rfl

/-! ### updTime -/

@[simp] theorem State.updTime_pending (f : TimeSt → TimeSt) : (s.updTime f).pending = s.pending := rfl
@[simp] theorem State.updTime_freeIdx (f : TimeSt → TimeSt) : (s.updTime f).freeIdx = s.freeIdx := rfl
@[simp] theorem State.updTime_upNs (f : TimeSt → TimeSt) : (s.updTime f).upNs = s.upNs := rfl
@[simp] theorem State.updTime_pw (f : TimeSt → TimeSt) : (s.updTime f).pw = s.pw := rfl
@[simp] theorem State.updTime_regs (f : TimeSt → TimeSt) : (s.updTime f).regs = s.regs := rfl
@[simp] theorem State.updTime_msix (f : TimeSt → TimeSt) : (s.updTime f).msix = s.msix := rfl
@[simp] theorem State.updTime_msixPend (f : TimeSt → TimeSt) : (s.updTime f).msixPend = s.msixPend := rfl
@[simp] theorem State.updTime_out (f : TimeSt → TimeSt) : (s.updTime f).out = s.out := rfl
@[simp] theorem State.updTime_host (f : TimeSt → TimeSt) : (s.updTime f).host = s.host := rfl
@[simp] theorem State.updTime_hostMem (f : TimeSt → TimeSt) : (s.updTime f).hostMem = s.hostMem := rfl
@[simp] theorem State.updTime_mem (f : TimeSt → TimeSt) : (s.updTime f).mem = s.mem := rfl
@[simp] theorem State.updTime_poison (f : TimeSt → TimeSt) : (s.updTime f).poison = s.poison := rfl
@[simp] theorem State.updTime_mb (f : TimeSt → TimeSt) : (s.updTime f).mb = s.mb := rfl
@[simp] theorem State.updTime_rcTags (f : TimeSt → TimeSt) : (s.updTime f).rcTags = s.rcTags := rfl
@[simp] theorem State.updTime_hbm (f : TimeSt → TimeSt) : (s.updTime f).hbm = s.hbm := rfl
@[simp] theorem State.updTime_chases (f : TimeSt → TimeSt) : (s.updTime f).chases = s.chases := rfl
@[simp] theorem State.updTime_samples (f : TimeSt → TimeSt) : (s.updTime f).samples = s.samples := rfl
@[simp] theorem State.updTime_groups (f : TimeSt → TimeSt) : (s.updTime f).groups = s.groups := rfl
@[simp] theorem State.updTime_openWaits (f : TimeSt → TimeSt) : (s.updTime f).openWaits = s.openWaits := rfl
@[simp] theorem State.updTime_engines (f : TimeSt → TimeSt) : (s.updTime f).engines = s.engines := rfl
@[simp] theorem State.updTime_stipple (f : TimeSt → TimeSt) : (s.updTime f).stipple = s.stipple := rfl
@[simp] theorem State.updTime_marks (f : TimeSt → TimeSt) : (s.updTime f).marks = s.marks := rfl
@[simp] theorem State.updTime_fab (f : TimeSt → TimeSt) : (s.updTime f).fab = s.fab := rfl
@[simp] theorem State.updTime_eth (f : TimeSt → TimeSt) : (s.updTime f).eth = s.eth := rfl
@[simp] theorem State.updTime_ink (f : TimeSt → TimeSt) : (s.updTime f).ink = s.ink := rfl
@[simp] theorem State.updTime_sec (f : TimeSt → TimeSt) : (s.updTime f).sec = s.sec := rfl
@[simp] theorem State.updTime_ras (f : TimeSt → TimeSt) : (s.updTime f).ras = s.ras := rfl

/-! ### updSec -/

@[simp] theorem State.updSec_pending (f : SecSt → SecSt) : (s.updSec f).pending = s.pending := rfl
@[simp] theorem State.updSec_freeIdx (f : SecSt → SecSt) : (s.updSec f).freeIdx = s.freeIdx := rfl
@[simp] theorem State.updSec_upNs (f : SecSt → SecSt) : (s.updSec f).upNs = s.upNs := rfl
@[simp] theorem State.updSec_pw (f : SecSt → SecSt) : (s.updSec f).pw = s.pw := rfl
@[simp] theorem State.updSec_regs (f : SecSt → SecSt) : (s.updSec f).regs = s.regs := rfl
@[simp] theorem State.updSec_msix (f : SecSt → SecSt) : (s.updSec f).msix = s.msix := rfl
@[simp] theorem State.updSec_msixPend (f : SecSt → SecSt) : (s.updSec f).msixPend = s.msixPend := rfl
@[simp] theorem State.updSec_out (f : SecSt → SecSt) : (s.updSec f).out = s.out := rfl
@[simp] theorem State.updSec_host (f : SecSt → SecSt) : (s.updSec f).host = s.host := rfl
@[simp] theorem State.updSec_hostMem (f : SecSt → SecSt) : (s.updSec f).hostMem = s.hostMem := rfl
@[simp] theorem State.updSec_mem (f : SecSt → SecSt) : (s.updSec f).mem = s.mem := rfl
@[simp] theorem State.updSec_poison (f : SecSt → SecSt) : (s.updSec f).poison = s.poison := rfl
@[simp] theorem State.updSec_mb (f : SecSt → SecSt) : (s.updSec f).mb = s.mb := rfl
@[simp] theorem State.updSec_rcTags (f : SecSt → SecSt) : (s.updSec f).rcTags = s.rcTags := rfl
@[simp] theorem State.updSec_hbm (f : SecSt → SecSt) : (s.updSec f).hbm = s.hbm := rfl
@[simp] theorem State.updSec_chases (f : SecSt → SecSt) : (s.updSec f).chases = s.chases := rfl
@[simp] theorem State.updSec_samples (f : SecSt → SecSt) : (s.updSec f).samples = s.samples := rfl
@[simp] theorem State.updSec_groups (f : SecSt → SecSt) : (s.updSec f).groups = s.groups := rfl
@[simp] theorem State.updSec_openWaits (f : SecSt → SecSt) : (s.updSec f).openWaits = s.openWaits := rfl
@[simp] theorem State.updSec_engines (f : SecSt → SecSt) : (s.updSec f).engines = s.engines := rfl
@[simp] theorem State.updSec_stipple (f : SecSt → SecSt) : (s.updSec f).stipple = s.stipple := rfl
@[simp] theorem State.updSec_marks (f : SecSt → SecSt) : (s.updSec f).marks = s.marks := rfl
@[simp] theorem State.updSec_fab (f : SecSt → SecSt) : (s.updSec f).fab = s.fab := rfl
@[simp] theorem State.updSec_eth (f : SecSt → SecSt) : (s.updSec f).eth = s.eth := rfl
@[simp] theorem State.updSec_ink (f : SecSt → SecSt) : (s.updSec f).ink = s.ink := rfl
@[simp] theorem State.updSec_time (f : SecSt → SecSt) : (s.updSec f).time = s.time := rfl
@[simp] theorem State.updSec_ras (f : SecSt → SecSt) : (s.updSec f).ras = s.ras := rfl

/-! ### updInk -/

@[simp] theorem State.updInk_pending (f : InkSt → InkSt) : (s.updInk f).pending = s.pending := rfl
@[simp] theorem State.updInk_freeIdx (f : InkSt → InkSt) : (s.updInk f).freeIdx = s.freeIdx := rfl
@[simp] theorem State.updInk_upNs (f : InkSt → InkSt) : (s.updInk f).upNs = s.upNs := rfl
@[simp] theorem State.updInk_pw (f : InkSt → InkSt) : (s.updInk f).pw = s.pw := rfl
@[simp] theorem State.updInk_regs (f : InkSt → InkSt) : (s.updInk f).regs = s.regs := rfl
@[simp] theorem State.updInk_msix (f : InkSt → InkSt) : (s.updInk f).msix = s.msix := rfl
@[simp] theorem State.updInk_msixPend (f : InkSt → InkSt) : (s.updInk f).msixPend = s.msixPend := rfl
@[simp] theorem State.updInk_out (f : InkSt → InkSt) : (s.updInk f).out = s.out := rfl
@[simp] theorem State.updInk_host (f : InkSt → InkSt) : (s.updInk f).host = s.host := rfl
@[simp] theorem State.updInk_hostMem (f : InkSt → InkSt) : (s.updInk f).hostMem = s.hostMem := rfl
@[simp] theorem State.updInk_mem (f : InkSt → InkSt) : (s.updInk f).mem = s.mem := rfl
@[simp] theorem State.updInk_poison (f : InkSt → InkSt) : (s.updInk f).poison = s.poison := rfl
@[simp] theorem State.updInk_mb (f : InkSt → InkSt) : (s.updInk f).mb = s.mb := rfl
@[simp] theorem State.updInk_rcTags (f : InkSt → InkSt) : (s.updInk f).rcTags = s.rcTags := rfl
@[simp] theorem State.updInk_hbm (f : InkSt → InkSt) : (s.updInk f).hbm = s.hbm := rfl
@[simp] theorem State.updInk_chases (f : InkSt → InkSt) : (s.updInk f).chases = s.chases := rfl
@[simp] theorem State.updInk_samples (f : InkSt → InkSt) : (s.updInk f).samples = s.samples := rfl
@[simp] theorem State.updInk_groups (f : InkSt → InkSt) : (s.updInk f).groups = s.groups := rfl
@[simp] theorem State.updInk_openWaits (f : InkSt → InkSt) : (s.updInk f).openWaits = s.openWaits := rfl
@[simp] theorem State.updInk_engines (f : InkSt → InkSt) : (s.updInk f).engines = s.engines := rfl
@[simp] theorem State.updInk_stipple (f : InkSt → InkSt) : (s.updInk f).stipple = s.stipple := rfl
@[simp] theorem State.updInk_marks (f : InkSt → InkSt) : (s.updInk f).marks = s.marks := rfl
@[simp] theorem State.updInk_fab (f : InkSt → InkSt) : (s.updInk f).fab = s.fab := rfl
@[simp] theorem State.updInk_eth (f : InkSt → InkSt) : (s.updInk f).eth = s.eth := rfl
@[simp] theorem State.updInk_time (f : InkSt → InkSt) : (s.updInk f).time = s.time := rfl
@[simp] theorem State.updInk_sec (f : InkSt → InkSt) : (s.updInk f).sec = s.sec := rfl
@[simp] theorem State.updInk_ras (f : InkSt → InkSt) : (s.updInk f).ras = s.ras := rfl

/-! ### updPw -/

@[simp] theorem State.updPw_pending (f : PowerSt → PowerSt) : (s.updPw f).pending = s.pending := rfl
@[simp] theorem State.updPw_freeIdx (f : PowerSt → PowerSt) : (s.updPw f).freeIdx = s.freeIdx := rfl
@[simp] theorem State.updPw_upNs (f : PowerSt → PowerSt) : (s.updPw f).upNs = s.upNs := rfl
@[simp] theorem State.updPw_regs (f : PowerSt → PowerSt) : (s.updPw f).regs = s.regs := rfl
@[simp] theorem State.updPw_msix (f : PowerSt → PowerSt) : (s.updPw f).msix = s.msix := rfl
@[simp] theorem State.updPw_msixPend (f : PowerSt → PowerSt) : (s.updPw f).msixPend = s.msixPend := rfl
@[simp] theorem State.updPw_out (f : PowerSt → PowerSt) : (s.updPw f).out = s.out := rfl
@[simp] theorem State.updPw_host (f : PowerSt → PowerSt) : (s.updPw f).host = s.host := rfl
@[simp] theorem State.updPw_hostMem (f : PowerSt → PowerSt) : (s.updPw f).hostMem = s.hostMem := rfl
@[simp] theorem State.updPw_mem (f : PowerSt → PowerSt) : (s.updPw f).mem = s.mem := rfl
@[simp] theorem State.updPw_poison (f : PowerSt → PowerSt) : (s.updPw f).poison = s.poison := rfl
@[simp] theorem State.updPw_mb (f : PowerSt → PowerSt) : (s.updPw f).mb = s.mb := rfl
@[simp] theorem State.updPw_rcTags (f : PowerSt → PowerSt) : (s.updPw f).rcTags = s.rcTags := rfl
@[simp] theorem State.updPw_hbm (f : PowerSt → PowerSt) : (s.updPw f).hbm = s.hbm := rfl
@[simp] theorem State.updPw_chases (f : PowerSt → PowerSt) : (s.updPw f).chases = s.chases := rfl
@[simp] theorem State.updPw_samples (f : PowerSt → PowerSt) : (s.updPw f).samples = s.samples := rfl
@[simp] theorem State.updPw_groups (f : PowerSt → PowerSt) : (s.updPw f).groups = s.groups := rfl
@[simp] theorem State.updPw_openWaits (f : PowerSt → PowerSt) : (s.updPw f).openWaits = s.openWaits := rfl
@[simp] theorem State.updPw_engines (f : PowerSt → PowerSt) : (s.updPw f).engines = s.engines := rfl
@[simp] theorem State.updPw_stipple (f : PowerSt → PowerSt) : (s.updPw f).stipple = s.stipple := rfl
@[simp] theorem State.updPw_marks (f : PowerSt → PowerSt) : (s.updPw f).marks = s.marks := rfl
@[simp] theorem State.updPw_fab (f : PowerSt → PowerSt) : (s.updPw f).fab = s.fab := rfl
@[simp] theorem State.updPw_eth (f : PowerSt → PowerSt) : (s.updPw f).eth = s.eth := rfl
@[simp] theorem State.updPw_ink (f : PowerSt → PowerSt) : (s.updPw f).ink = s.ink := rfl
@[simp] theorem State.updPw_time (f : PowerSt → PowerSt) : (s.updPw f).time = s.time := rfl
@[simp] theorem State.updPw_sec (f : PowerSt → PowerSt) : (s.updPw f).sec = s.sec := rfl
@[simp] theorem State.updPw_ras (f : PowerSt → PowerSt) : (s.updPw f).ras = s.ras := rfl

@[simp] theorem State.emit_out (o : Out) : (s.emit o).out = o :: s.out := rfl
@[simp] theorem State.setChase_chases (c : Nat) (x : ChaseSt) : (s.setChase c x).chases = s.chases.set c x := rfl
@[simp] theorem State.updFab_fab (f : FabSt → FabSt) : (s.updFab f).fab = f s.fab := rfl
@[simp] theorem State.updTime_time (f : TimeSt → TimeSt) : (s.updTime f).time = f s.time := rfl
@[simp] theorem State.updSec_sec (f : SecSt → SecSt) : (s.updSec f).sec = f s.sec := rfl
@[simp] theorem State.updInk_ink (f : InkSt → InkSt) : (s.updInk f).ink = f s.ink := rfl
@[simp] theorem State.updPw_pw (f : PowerSt → PowerSt) : (s.updPw f).pw = f s.pw := rfl

/-! ### Registers -/

@[simp] theorem State.wr_pending (r : RegName) (i v : Nat) : (s.wr r i v).pending = s.pending := by unfold State.wr; split <;> rfl
@[simp] theorem State.wr_freeIdx (r : RegName) (i v : Nat) : (s.wr r i v).freeIdx = s.freeIdx := by unfold State.wr; split <;> rfl
@[simp] theorem State.wr_upNs (r : RegName) (i v : Nat) : (s.wr r i v).upNs = s.upNs := by unfold State.wr; split <;> rfl
@[simp] theorem State.wr_pw (r : RegName) (i v : Nat) : (s.wr r i v).pw = s.pw := by unfold State.wr; split <;> rfl
@[simp] theorem State.wr_msix (r : RegName) (i v : Nat) : (s.wr r i v).msix = s.msix := by unfold State.wr; split <;> rfl
@[simp] theorem State.wr_msixPend (r : RegName) (i v : Nat) : (s.wr r i v).msixPend = s.msixPend := by unfold State.wr; split <;> rfl
@[simp] theorem State.wr_out (r : RegName) (i v : Nat) : (s.wr r i v).out = s.out := by unfold State.wr; split <;> rfl
@[simp] theorem State.wr_host (r : RegName) (i v : Nat) : (s.wr r i v).host = s.host := by unfold State.wr; split <;> rfl
@[simp] theorem State.wr_hostMem (r : RegName) (i v : Nat) : (s.wr r i v).hostMem = s.hostMem := by unfold State.wr; split <;> rfl
@[simp] theorem State.wr_mem (r : RegName) (i v : Nat) : (s.wr r i v).mem = s.mem := by unfold State.wr; split <;> rfl
@[simp] theorem State.wr_poison (r : RegName) (i v : Nat) : (s.wr r i v).poison = s.poison := by unfold State.wr; split <;> rfl
@[simp] theorem State.wr_mb (r : RegName) (i v : Nat) : (s.wr r i v).mb = s.mb := by unfold State.wr; split <;> rfl
@[simp] theorem State.wr_rcTags (r : RegName) (i v : Nat) : (s.wr r i v).rcTags = s.rcTags := by unfold State.wr; split <;> rfl
@[simp] theorem State.wr_hbm (r : RegName) (i v : Nat) : (s.wr r i v).hbm = s.hbm := by unfold State.wr; split <;> rfl
@[simp] theorem State.wr_chases (r : RegName) (i v : Nat) : (s.wr r i v).chases = s.chases := by unfold State.wr; split <;> rfl
@[simp] theorem State.wr_samples (r : RegName) (i v : Nat) : (s.wr r i v).samples = s.samples := by unfold State.wr; split <;> rfl
@[simp] theorem State.wr_groups (r : RegName) (i v : Nat) : (s.wr r i v).groups = s.groups := by unfold State.wr; split <;> rfl
@[simp] theorem State.wr_openWaits (r : RegName) (i v : Nat) : (s.wr r i v).openWaits = s.openWaits := by unfold State.wr; split <;> rfl
@[simp] theorem State.wr_engines (r : RegName) (i v : Nat) : (s.wr r i v).engines = s.engines := by unfold State.wr; split <;> rfl
@[simp] theorem State.wr_stipple (r : RegName) (i v : Nat) : (s.wr r i v).stipple = s.stipple := by unfold State.wr; split <;> rfl
@[simp] theorem State.wr_marks (r : RegName) (i v : Nat) : (s.wr r i v).marks = s.marks := by unfold State.wr; split <;> rfl
@[simp] theorem State.wr_fab (r : RegName) (i v : Nat) : (s.wr r i v).fab = s.fab := by unfold State.wr; split <;> rfl
@[simp] theorem State.wr_eth (r : RegName) (i v : Nat) : (s.wr r i v).eth = s.eth := by unfold State.wr; split <;> rfl
@[simp] theorem State.wr_ink (r : RegName) (i v : Nat) : (s.wr r i v).ink = s.ink := by unfold State.wr; split <;> rfl
@[simp] theorem State.wr_time (r : RegName) (i v : Nat) : (s.wr r i v).time = s.time := by unfold State.wr; split <;> rfl
@[simp] theorem State.wr_sec (r : RegName) (i v : Nat) : (s.wr r i v).sec = s.sec := by unfold State.wr; split <;> rfl
@[simp] theorem State.wr_ras (r : RegName) (i v : Nat) : (s.wr r i v).ras = s.ras := by unfold State.wr; split <;> rfl

/-! ### setF -/

@[simp] theorem State.setF_pending (f : Field) (i v : Nat) : (s.setF f i v).pending = s.pending := by simp [State.setF]
@[simp] theorem State.setF_freeIdx (f : Field) (i v : Nat) : (s.setF f i v).freeIdx = s.freeIdx := by simp [State.setF]
@[simp] theorem State.setF_upNs (f : Field) (i v : Nat) : (s.setF f i v).upNs = s.upNs := by simp [State.setF]
@[simp] theorem State.setF_pw (f : Field) (i v : Nat) : (s.setF f i v).pw = s.pw := by simp [State.setF]
@[simp] theorem State.setF_msix (f : Field) (i v : Nat) : (s.setF f i v).msix = s.msix := by simp [State.setF]
@[simp] theorem State.setF_msixPend (f : Field) (i v : Nat) : (s.setF f i v).msixPend = s.msixPend := by simp [State.setF]
@[simp] theorem State.setF_out (f : Field) (i v : Nat) : (s.setF f i v).out = s.out := by simp [State.setF]
@[simp] theorem State.setF_host (f : Field) (i v : Nat) : (s.setF f i v).host = s.host := by simp [State.setF]
@[simp] theorem State.setF_hostMem (f : Field) (i v : Nat) : (s.setF f i v).hostMem = s.hostMem := by simp [State.setF]
@[simp] theorem State.setF_mem (f : Field) (i v : Nat) : (s.setF f i v).mem = s.mem := by simp [State.setF]
@[simp] theorem State.setF_poison (f : Field) (i v : Nat) : (s.setF f i v).poison = s.poison := by simp [State.setF]
@[simp] theorem State.setF_mb (f : Field) (i v : Nat) : (s.setF f i v).mb = s.mb := by simp [State.setF]
@[simp] theorem State.setF_rcTags (f : Field) (i v : Nat) : (s.setF f i v).rcTags = s.rcTags := by simp [State.setF]
@[simp] theorem State.setF_hbm (f : Field) (i v : Nat) : (s.setF f i v).hbm = s.hbm := by simp [State.setF]
@[simp] theorem State.setF_chases (f : Field) (i v : Nat) : (s.setF f i v).chases = s.chases := by simp [State.setF]
@[simp] theorem State.setF_samples (f : Field) (i v : Nat) : (s.setF f i v).samples = s.samples := by simp [State.setF]
@[simp] theorem State.setF_groups (f : Field) (i v : Nat) : (s.setF f i v).groups = s.groups := by simp [State.setF]
@[simp] theorem State.setF_openWaits (f : Field) (i v : Nat) : (s.setF f i v).openWaits = s.openWaits := by simp [State.setF]
@[simp] theorem State.setF_engines (f : Field) (i v : Nat) : (s.setF f i v).engines = s.engines := by simp [State.setF]
@[simp] theorem State.setF_stipple (f : Field) (i v : Nat) : (s.setF f i v).stipple = s.stipple := by simp [State.setF]
@[simp] theorem State.setF_marks (f : Field) (i v : Nat) : (s.setF f i v).marks = s.marks := by simp [State.setF]
@[simp] theorem State.setF_fab (f : Field) (i v : Nat) : (s.setF f i v).fab = s.fab := by simp [State.setF]
@[simp] theorem State.setF_eth (f : Field) (i v : Nat) : (s.setF f i v).eth = s.eth := by simp [State.setF]
@[simp] theorem State.setF_ink (f : Field) (i v : Nat) : (s.setF f i v).ink = s.ink := by simp [State.setF]
@[simp] theorem State.setF_time (f : Field) (i v : Nat) : (s.setF f i v).time = s.time := by simp [State.setF]
@[simp] theorem State.setF_sec (f : Field) (i v : Nat) : (s.setF f i v).sec = s.sec := by simp [State.setF]
@[simp] theorem State.setF_ras (f : Field) (i v : Nat) : (s.setF f i v).ras = s.ras := by simp [State.setF]

/-! ### bump -/

@[simp] theorem State.bump_pending (f : Field) (i v : Nat) : (s.bump f i v).pending = s.pending := by simp [State.bump]
@[simp] theorem State.bump_freeIdx (f : Field) (i v : Nat) : (s.bump f i v).freeIdx = s.freeIdx := by simp [State.bump]
@[simp] theorem State.bump_upNs (f : Field) (i v : Nat) : (s.bump f i v).upNs = s.upNs := by simp [State.bump]
@[simp] theorem State.bump_pw (f : Field) (i v : Nat) : (s.bump f i v).pw = s.pw := by simp [State.bump]
@[simp] theorem State.bump_msix (f : Field) (i v : Nat) : (s.bump f i v).msix = s.msix := by simp [State.bump]
@[simp] theorem State.bump_msixPend (f : Field) (i v : Nat) : (s.bump f i v).msixPend = s.msixPend := by simp [State.bump]
@[simp] theorem State.bump_out (f : Field) (i v : Nat) : (s.bump f i v).out = s.out := by simp [State.bump]
@[simp] theorem State.bump_host (f : Field) (i v : Nat) : (s.bump f i v).host = s.host := by simp [State.bump]
@[simp] theorem State.bump_hostMem (f : Field) (i v : Nat) : (s.bump f i v).hostMem = s.hostMem := by simp [State.bump]
@[simp] theorem State.bump_mem (f : Field) (i v : Nat) : (s.bump f i v).mem = s.mem := by simp [State.bump]
@[simp] theorem State.bump_poison (f : Field) (i v : Nat) : (s.bump f i v).poison = s.poison := by simp [State.bump]
@[simp] theorem State.bump_mb (f : Field) (i v : Nat) : (s.bump f i v).mb = s.mb := by simp [State.bump]
@[simp] theorem State.bump_rcTags (f : Field) (i v : Nat) : (s.bump f i v).rcTags = s.rcTags := by simp [State.bump]
@[simp] theorem State.bump_hbm (f : Field) (i v : Nat) : (s.bump f i v).hbm = s.hbm := by simp [State.bump]
@[simp] theorem State.bump_chases (f : Field) (i v : Nat) : (s.bump f i v).chases = s.chases := by simp [State.bump]
@[simp] theorem State.bump_samples (f : Field) (i v : Nat) : (s.bump f i v).samples = s.samples := by simp [State.bump]
@[simp] theorem State.bump_groups (f : Field) (i v : Nat) : (s.bump f i v).groups = s.groups := by simp [State.bump]
@[simp] theorem State.bump_openWaits (f : Field) (i v : Nat) : (s.bump f i v).openWaits = s.openWaits := by simp [State.bump]
@[simp] theorem State.bump_engines (f : Field) (i v : Nat) : (s.bump f i v).engines = s.engines := by simp [State.bump]
@[simp] theorem State.bump_stipple (f : Field) (i v : Nat) : (s.bump f i v).stipple = s.stipple := by simp [State.bump]
@[simp] theorem State.bump_marks (f : Field) (i v : Nat) : (s.bump f i v).marks = s.marks := by simp [State.bump]
@[simp] theorem State.bump_fab (f : Field) (i v : Nat) : (s.bump f i v).fab = s.fab := by simp [State.bump]
@[simp] theorem State.bump_eth (f : Field) (i v : Nat) : (s.bump f i v).eth = s.eth := by simp [State.bump]
@[simp] theorem State.bump_ink (f : Field) (i v : Nat) : (s.bump f i v).ink = s.ink := by simp [State.bump]
@[simp] theorem State.bump_time (f : Field) (i v : Nat) : (s.bump f i v).time = s.time := by simp [State.bump]
@[simp] theorem State.bump_sec (f : Field) (i v : Nat) : (s.bump f i v).sec = s.sec := by simp [State.bump]
@[simp] theorem State.bump_ras (f : Field) (i v : Nat) : (s.bump f i v).ras = s.ras := by simp [State.bump]

/-! ### bumpWrap -/

@[simp] theorem State.bumpWrap_pending (f : Field) (i v : Nat) : (s.bumpWrap f i v).pending = s.pending := by simp [State.bumpWrap]
@[simp] theorem State.bumpWrap_freeIdx (f : Field) (i v : Nat) : (s.bumpWrap f i v).freeIdx = s.freeIdx := by simp [State.bumpWrap]
@[simp] theorem State.bumpWrap_upNs (f : Field) (i v : Nat) : (s.bumpWrap f i v).upNs = s.upNs := by simp [State.bumpWrap]
@[simp] theorem State.bumpWrap_pw (f : Field) (i v : Nat) : (s.bumpWrap f i v).pw = s.pw := by simp [State.bumpWrap]
@[simp] theorem State.bumpWrap_msix (f : Field) (i v : Nat) : (s.bumpWrap f i v).msix = s.msix := by simp [State.bumpWrap]
@[simp] theorem State.bumpWrap_msixPend (f : Field) (i v : Nat) : (s.bumpWrap f i v).msixPend = s.msixPend := by simp [State.bumpWrap]
@[simp] theorem State.bumpWrap_out (f : Field) (i v : Nat) : (s.bumpWrap f i v).out = s.out := by simp [State.bumpWrap]
@[simp] theorem State.bumpWrap_host (f : Field) (i v : Nat) : (s.bumpWrap f i v).host = s.host := by simp [State.bumpWrap]
@[simp] theorem State.bumpWrap_hostMem (f : Field) (i v : Nat) : (s.bumpWrap f i v).hostMem = s.hostMem := by simp [State.bumpWrap]
@[simp] theorem State.bumpWrap_mem (f : Field) (i v : Nat) : (s.bumpWrap f i v).mem = s.mem := by simp [State.bumpWrap]
@[simp] theorem State.bumpWrap_poison (f : Field) (i v : Nat) : (s.bumpWrap f i v).poison = s.poison := by simp [State.bumpWrap]
@[simp] theorem State.bumpWrap_mb (f : Field) (i v : Nat) : (s.bumpWrap f i v).mb = s.mb := by simp [State.bumpWrap]
@[simp] theorem State.bumpWrap_rcTags (f : Field) (i v : Nat) : (s.bumpWrap f i v).rcTags = s.rcTags := by simp [State.bumpWrap]
@[simp] theorem State.bumpWrap_hbm (f : Field) (i v : Nat) : (s.bumpWrap f i v).hbm = s.hbm := by simp [State.bumpWrap]
@[simp] theorem State.bumpWrap_chases (f : Field) (i v : Nat) : (s.bumpWrap f i v).chases = s.chases := by simp [State.bumpWrap]
@[simp] theorem State.bumpWrap_samples (f : Field) (i v : Nat) : (s.bumpWrap f i v).samples = s.samples := by simp [State.bumpWrap]
@[simp] theorem State.bumpWrap_groups (f : Field) (i v : Nat) : (s.bumpWrap f i v).groups = s.groups := by simp [State.bumpWrap]
@[simp] theorem State.bumpWrap_openWaits (f : Field) (i v : Nat) : (s.bumpWrap f i v).openWaits = s.openWaits := by simp [State.bumpWrap]
@[simp] theorem State.bumpWrap_engines (f : Field) (i v : Nat) : (s.bumpWrap f i v).engines = s.engines := by simp [State.bumpWrap]
@[simp] theorem State.bumpWrap_stipple (f : Field) (i v : Nat) : (s.bumpWrap f i v).stipple = s.stipple := by simp [State.bumpWrap]
@[simp] theorem State.bumpWrap_marks (f : Field) (i v : Nat) : (s.bumpWrap f i v).marks = s.marks := by simp [State.bumpWrap]
@[simp] theorem State.bumpWrap_fab (f : Field) (i v : Nat) : (s.bumpWrap f i v).fab = s.fab := by simp [State.bumpWrap]
@[simp] theorem State.bumpWrap_eth (f : Field) (i v : Nat) : (s.bumpWrap f i v).eth = s.eth := by simp [State.bumpWrap]
@[simp] theorem State.bumpWrap_ink (f : Field) (i v : Nat) : (s.bumpWrap f i v).ink = s.ink := by simp [State.bumpWrap]
@[simp] theorem State.bumpWrap_time (f : Field) (i v : Nat) : (s.bumpWrap f i v).time = s.time := by simp [State.bumpWrap]
@[simp] theorem State.bumpWrap_sec (f : Field) (i v : Nat) : (s.bumpWrap f i v).sec = s.sec := by simp [State.bumpWrap]
@[simp] theorem State.bumpWrap_ras (f : Field) (i v : Nat) : (s.bumpWrap f i v).ras = s.ras := by simp [State.bumpWrap]

/-! ### raiseTo -/

@[simp] theorem State.raiseTo_pending (g : Field) (i v : Nat) : (s.raiseTo g i v).pending = s.pending := by unfold State.raiseTo; split <;> simp
@[simp] theorem State.raiseTo_freeIdx (g : Field) (i v : Nat) : (s.raiseTo g i v).freeIdx = s.freeIdx := by unfold State.raiseTo; split <;> simp
@[simp] theorem State.raiseTo_upNs (g : Field) (i v : Nat) : (s.raiseTo g i v).upNs = s.upNs := by unfold State.raiseTo; split <;> simp
@[simp] theorem State.raiseTo_pw (g : Field) (i v : Nat) : (s.raiseTo g i v).pw = s.pw := by unfold State.raiseTo; split <;> simp
@[simp] theorem State.raiseTo_msix (g : Field) (i v : Nat) : (s.raiseTo g i v).msix = s.msix := by unfold State.raiseTo; split <;> simp
@[simp] theorem State.raiseTo_msixPend (g : Field) (i v : Nat) : (s.raiseTo g i v).msixPend = s.msixPend := by unfold State.raiseTo; split <;> simp
@[simp] theorem State.raiseTo_out (g : Field) (i v : Nat) : (s.raiseTo g i v).out = s.out := by unfold State.raiseTo; split <;> simp
@[simp] theorem State.raiseTo_host (g : Field) (i v : Nat) : (s.raiseTo g i v).host = s.host := by unfold State.raiseTo; split <;> simp
@[simp] theorem State.raiseTo_hostMem (g : Field) (i v : Nat) : (s.raiseTo g i v).hostMem = s.hostMem := by unfold State.raiseTo; split <;> simp
@[simp] theorem State.raiseTo_mem (g : Field) (i v : Nat) : (s.raiseTo g i v).mem = s.mem := by unfold State.raiseTo; split <;> simp
@[simp] theorem State.raiseTo_poison (g : Field) (i v : Nat) : (s.raiseTo g i v).poison = s.poison := by unfold State.raiseTo; split <;> simp
@[simp] theorem State.raiseTo_mb (g : Field) (i v : Nat) : (s.raiseTo g i v).mb = s.mb := by unfold State.raiseTo; split <;> simp
@[simp] theorem State.raiseTo_rcTags (g : Field) (i v : Nat) : (s.raiseTo g i v).rcTags = s.rcTags := by unfold State.raiseTo; split <;> simp
@[simp] theorem State.raiseTo_hbm (g : Field) (i v : Nat) : (s.raiseTo g i v).hbm = s.hbm := by unfold State.raiseTo; split <;> simp
@[simp] theorem State.raiseTo_chases (g : Field) (i v : Nat) : (s.raiseTo g i v).chases = s.chases := by unfold State.raiseTo; split <;> simp
@[simp] theorem State.raiseTo_samples (g : Field) (i v : Nat) : (s.raiseTo g i v).samples = s.samples := by unfold State.raiseTo; split <;> simp
@[simp] theorem State.raiseTo_groups (g : Field) (i v : Nat) : (s.raiseTo g i v).groups = s.groups := by unfold State.raiseTo; split <;> simp
@[simp] theorem State.raiseTo_openWaits (g : Field) (i v : Nat) : (s.raiseTo g i v).openWaits = s.openWaits := by unfold State.raiseTo; split <;> simp
@[simp] theorem State.raiseTo_engines (g : Field) (i v : Nat) : (s.raiseTo g i v).engines = s.engines := by unfold State.raiseTo; split <;> simp
@[simp] theorem State.raiseTo_stipple (g : Field) (i v : Nat) : (s.raiseTo g i v).stipple = s.stipple := by unfold State.raiseTo; split <;> simp
@[simp] theorem State.raiseTo_marks (g : Field) (i v : Nat) : (s.raiseTo g i v).marks = s.marks := by unfold State.raiseTo; split <;> simp
@[simp] theorem State.raiseTo_fab (g : Field) (i v : Nat) : (s.raiseTo g i v).fab = s.fab := by unfold State.raiseTo; split <;> simp
@[simp] theorem State.raiseTo_eth (g : Field) (i v : Nat) : (s.raiseTo g i v).eth = s.eth := by unfold State.raiseTo; split <;> simp
@[simp] theorem State.raiseTo_ink (g : Field) (i v : Nat) : (s.raiseTo g i v).ink = s.ink := by unfold State.raiseTo; split <;> simp
@[simp] theorem State.raiseTo_time (g : Field) (i v : Nat) : (s.raiseTo g i v).time = s.time := by unfold State.raiseTo; split <;> simp
@[simp] theorem State.raiseTo_sec (g : Field) (i v : Nat) : (s.raiseTo g i v).sec = s.sec := by unfold State.raiseTo; split <;> simp
@[simp] theorem State.raiseTo_ras (g : Field) (i v : Nat) : (s.raiseTo g i v).ras = s.ras := by unfold State.raiseTo; split <;> simp

/-! ### setFs -/

@[simp] theorem State.setFs_pending (i : Nat) (l : List (Field × Nat)) : (s.setFs i l).pending = s.pending := by
  induction l generalizing s with
  | nil => rfl
  | cons a l ih => simp [State.setFs, ih]
@[simp] theorem State.setFs_freeIdx (i : Nat) (l : List (Field × Nat)) : (s.setFs i l).freeIdx = s.freeIdx := by
  induction l generalizing s with
  | nil => rfl
  | cons a l ih => simp [State.setFs, ih]
@[simp] theorem State.setFs_upNs (i : Nat) (l : List (Field × Nat)) : (s.setFs i l).upNs = s.upNs := by
  induction l generalizing s with
  | nil => rfl
  | cons a l ih => simp [State.setFs, ih]
@[simp] theorem State.setFs_pw (i : Nat) (l : List (Field × Nat)) : (s.setFs i l).pw = s.pw := by
  induction l generalizing s with
  | nil => rfl
  | cons a l ih => simp [State.setFs, ih]
@[simp] theorem State.setFs_msix (i : Nat) (l : List (Field × Nat)) : (s.setFs i l).msix = s.msix := by
  induction l generalizing s with
  | nil => rfl
  | cons a l ih => simp [State.setFs, ih]
@[simp] theorem State.setFs_msixPend (i : Nat) (l : List (Field × Nat)) : (s.setFs i l).msixPend = s.msixPend := by
  induction l generalizing s with
  | nil => rfl
  | cons a l ih => simp [State.setFs, ih]
@[simp] theorem State.setFs_out (i : Nat) (l : List (Field × Nat)) : (s.setFs i l).out = s.out := by
  induction l generalizing s with
  | nil => rfl
  | cons a l ih => simp [State.setFs, ih]
@[simp] theorem State.setFs_host (i : Nat) (l : List (Field × Nat)) : (s.setFs i l).host = s.host := by
  induction l generalizing s with
  | nil => rfl
  | cons a l ih => simp [State.setFs, ih]
@[simp] theorem State.setFs_hostMem (i : Nat) (l : List (Field × Nat)) : (s.setFs i l).hostMem = s.hostMem := by
  induction l generalizing s with
  | nil => rfl
  | cons a l ih => simp [State.setFs, ih]
@[simp] theorem State.setFs_mem (i : Nat) (l : List (Field × Nat)) : (s.setFs i l).mem = s.mem := by
  induction l generalizing s with
  | nil => rfl
  | cons a l ih => simp [State.setFs, ih]
@[simp] theorem State.setFs_poison (i : Nat) (l : List (Field × Nat)) : (s.setFs i l).poison = s.poison := by
  induction l generalizing s with
  | nil => rfl
  | cons a l ih => simp [State.setFs, ih]
@[simp] theorem State.setFs_mb (i : Nat) (l : List (Field × Nat)) : (s.setFs i l).mb = s.mb := by
  induction l generalizing s with
  | nil => rfl
  | cons a l ih => simp [State.setFs, ih]
@[simp] theorem State.setFs_rcTags (i : Nat) (l : List (Field × Nat)) : (s.setFs i l).rcTags = s.rcTags := by
  induction l generalizing s with
  | nil => rfl
  | cons a l ih => simp [State.setFs, ih]
@[simp] theorem State.setFs_hbm (i : Nat) (l : List (Field × Nat)) : (s.setFs i l).hbm = s.hbm := by
  induction l generalizing s with
  | nil => rfl
  | cons a l ih => simp [State.setFs, ih]
@[simp] theorem State.setFs_chases (i : Nat) (l : List (Field × Nat)) : (s.setFs i l).chases = s.chases := by
  induction l generalizing s with
  | nil => rfl
  | cons a l ih => simp [State.setFs, ih]
@[simp] theorem State.setFs_samples (i : Nat) (l : List (Field × Nat)) : (s.setFs i l).samples = s.samples := by
  induction l generalizing s with
  | nil => rfl
  | cons a l ih => simp [State.setFs, ih]
@[simp] theorem State.setFs_groups (i : Nat) (l : List (Field × Nat)) : (s.setFs i l).groups = s.groups := by
  induction l generalizing s with
  | nil => rfl
  | cons a l ih => simp [State.setFs, ih]
@[simp] theorem State.setFs_openWaits (i : Nat) (l : List (Field × Nat)) : (s.setFs i l).openWaits = s.openWaits := by
  induction l generalizing s with
  | nil => rfl
  | cons a l ih => simp [State.setFs, ih]
@[simp] theorem State.setFs_engines (i : Nat) (l : List (Field × Nat)) : (s.setFs i l).engines = s.engines := by
  induction l generalizing s with
  | nil => rfl
  | cons a l ih => simp [State.setFs, ih]
@[simp] theorem State.setFs_stipple (i : Nat) (l : List (Field × Nat)) : (s.setFs i l).stipple = s.stipple := by
  induction l generalizing s with
  | nil => rfl
  | cons a l ih => simp [State.setFs, ih]
@[simp] theorem State.setFs_marks (i : Nat) (l : List (Field × Nat)) : (s.setFs i l).marks = s.marks := by
  induction l generalizing s with
  | nil => rfl
  | cons a l ih => simp [State.setFs, ih]
@[simp] theorem State.setFs_fab (i : Nat) (l : List (Field × Nat)) : (s.setFs i l).fab = s.fab := by
  induction l generalizing s with
  | nil => rfl
  | cons a l ih => simp [State.setFs, ih]
@[simp] theorem State.setFs_eth (i : Nat) (l : List (Field × Nat)) : (s.setFs i l).eth = s.eth := by
  induction l generalizing s with
  | nil => rfl
  | cons a l ih => simp [State.setFs, ih]
@[simp] theorem State.setFs_ink (i : Nat) (l : List (Field × Nat)) : (s.setFs i l).ink = s.ink := by
  induction l generalizing s with
  | nil => rfl
  | cons a l ih => simp [State.setFs, ih]
@[simp] theorem State.setFs_time (i : Nat) (l : List (Field × Nat)) : (s.setFs i l).time = s.time := by
  induction l generalizing s with
  | nil => rfl
  | cons a l ih => simp [State.setFs, ih]
@[simp] theorem State.setFs_sec (i : Nat) (l : List (Field × Nat)) : (s.setFs i l).sec = s.sec := by
  induction l generalizing s with
  | nil => rfl
  | cons a l ih => simp [State.setFs, ih]
@[simp] theorem State.setFs_ras (i : Nat) (l : List (Field × Nat)) : (s.setFs i l).ras = s.ras := by
  induction l generalizing s with
  | nil => rfl
  | cons a l ih => simp [State.setFs, ih]

/-! ### updEth -/

@[simp] theorem State.updEth_eth (f : EthSt → EthSt) : (s.updEth f).eth = f s.eth := rfl
@[simp] theorem State.updEth_pending (f : EthSt → EthSt) : (s.updEth f).pending = s.pending := rfl
@[simp] theorem State.updEth_freeIdx (f : EthSt → EthSt) : (s.updEth f).freeIdx = s.freeIdx := rfl
@[simp] theorem State.updEth_upNs (f : EthSt → EthSt) : (s.updEth f).upNs = s.upNs := rfl
@[simp] theorem State.updEth_pw (f : EthSt → EthSt) : (s.updEth f).pw = s.pw := rfl
@[simp] theorem State.updEth_regs (f : EthSt → EthSt) : (s.updEth f).regs = s.regs := rfl
@[simp] theorem State.updEth_msix (f : EthSt → EthSt) : (s.updEth f).msix = s.msix := rfl
@[simp] theorem State.updEth_msixPend (f : EthSt → EthSt) : (s.updEth f).msixPend = s.msixPend := rfl
@[simp] theorem State.updEth_out (f : EthSt → EthSt) : (s.updEth f).out = s.out := rfl
@[simp] theorem State.updEth_host (f : EthSt → EthSt) : (s.updEth f).host = s.host := rfl
@[simp] theorem State.updEth_hostMem (f : EthSt → EthSt) : (s.updEth f).hostMem = s.hostMem := rfl
@[simp] theorem State.updEth_mem (f : EthSt → EthSt) : (s.updEth f).mem = s.mem := rfl
@[simp] theorem State.updEth_poison (f : EthSt → EthSt) : (s.updEth f).poison = s.poison := rfl
@[simp] theorem State.updEth_mb (f : EthSt → EthSt) : (s.updEth f).mb = s.mb := rfl
@[simp] theorem State.updEth_rcTags (f : EthSt → EthSt) : (s.updEth f).rcTags = s.rcTags := rfl
@[simp] theorem State.updEth_hbm (f : EthSt → EthSt) : (s.updEth f).hbm = s.hbm := rfl
@[simp] theorem State.updEth_chases (f : EthSt → EthSt) : (s.updEth f).chases = s.chases := rfl
@[simp] theorem State.updEth_samples (f : EthSt → EthSt) : (s.updEth f).samples = s.samples := rfl
@[simp] theorem State.updEth_groups (f : EthSt → EthSt) : (s.updEth f).groups = s.groups := rfl
@[simp] theorem State.updEth_openWaits (f : EthSt → EthSt) : (s.updEth f).openWaits = s.openWaits := rfl
@[simp] theorem State.updEth_engines (f : EthSt → EthSt) : (s.updEth f).engines = s.engines := rfl
@[simp] theorem State.updEth_stipple (f : EthSt → EthSt) : (s.updEth f).stipple = s.stipple := rfl
@[simp] theorem State.updEth_marks (f : EthSt → EthSt) : (s.updEth f).marks = s.marks := rfl
@[simp] theorem State.updEth_fab (f : EthSt → EthSt) : (s.updEth f).fab = s.fab := rfl
@[simp] theorem State.updEth_ink (f : EthSt → EthSt) : (s.updEth f).ink = s.ink := rfl
@[simp] theorem State.updEth_time (f : EthSt → EthSt) : (s.updEth f).time = s.time := rfl
@[simp] theorem State.updEth_sec (f : EthSt → EthSt) : (s.updEth f).sec = s.sec := rfl
@[simp] theorem State.updEth_ras (f : EthSt → EthSt) : (s.updEth f).ras = s.ras := rfl

/-! ### updSample -/

@[simp] theorem State.updSample_pending (k : Nat) (f : SampleSt → SampleSt) : (s.updSample k f).pending = s.pending := by
  unfold State.updSample; split <;> rfl
@[simp] theorem State.updSample_freeIdx (k : Nat) (f : SampleSt → SampleSt) : (s.updSample k f).freeIdx = s.freeIdx := by
  unfold State.updSample; split <;> rfl
@[simp] theorem State.updSample_upNs (k : Nat) (f : SampleSt → SampleSt) : (s.updSample k f).upNs = s.upNs := by
  unfold State.updSample; split <;> rfl
@[simp] theorem State.updSample_pw (k : Nat) (f : SampleSt → SampleSt) : (s.updSample k f).pw = s.pw := by
  unfold State.updSample; split <;> rfl
@[simp] theorem State.updSample_regs (k : Nat) (f : SampleSt → SampleSt) : (s.updSample k f).regs = s.regs := by
  unfold State.updSample; split <;> rfl
@[simp] theorem State.updSample_msix (k : Nat) (f : SampleSt → SampleSt) : (s.updSample k f).msix = s.msix := by
  unfold State.updSample; split <;> rfl
@[simp] theorem State.updSample_msixPend (k : Nat) (f : SampleSt → SampleSt) : (s.updSample k f).msixPend = s.msixPend := by
  unfold State.updSample; split <;> rfl
@[simp] theorem State.updSample_out (k : Nat) (f : SampleSt → SampleSt) : (s.updSample k f).out = s.out := by
  unfold State.updSample; split <;> rfl
@[simp] theorem State.updSample_host (k : Nat) (f : SampleSt → SampleSt) : (s.updSample k f).host = s.host := by
  unfold State.updSample; split <;> rfl
@[simp] theorem State.updSample_hostMem (k : Nat) (f : SampleSt → SampleSt) : (s.updSample k f).hostMem = s.hostMem := by
  unfold State.updSample; split <;> rfl
@[simp] theorem State.updSample_mem (k : Nat) (f : SampleSt → SampleSt) : (s.updSample k f).mem = s.mem := by
  unfold State.updSample; split <;> rfl
@[simp] theorem State.updSample_poison (k : Nat) (f : SampleSt → SampleSt) : (s.updSample k f).poison = s.poison := by
  unfold State.updSample; split <;> rfl
@[simp] theorem State.updSample_mb (k : Nat) (f : SampleSt → SampleSt) : (s.updSample k f).mb = s.mb := by
  unfold State.updSample; split <;> rfl
@[simp] theorem State.updSample_rcTags (k : Nat) (f : SampleSt → SampleSt) : (s.updSample k f).rcTags = s.rcTags := by
  unfold State.updSample; split <;> rfl
@[simp] theorem State.updSample_hbm (k : Nat) (f : SampleSt → SampleSt) : (s.updSample k f).hbm = s.hbm := by
  unfold State.updSample; split <;> rfl
@[simp] theorem State.updSample_chases (k : Nat) (f : SampleSt → SampleSt) : (s.updSample k f).chases = s.chases := by
  unfold State.updSample; split <;> rfl
@[simp] theorem State.updSample_groups (k : Nat) (f : SampleSt → SampleSt) : (s.updSample k f).groups = s.groups := by
  unfold State.updSample; split <;> rfl
@[simp] theorem State.updSample_openWaits (k : Nat) (f : SampleSt → SampleSt) : (s.updSample k f).openWaits = s.openWaits := by
  unfold State.updSample; split <;> rfl
@[simp] theorem State.updSample_engines (k : Nat) (f : SampleSt → SampleSt) : (s.updSample k f).engines = s.engines := by
  unfold State.updSample; split <;> rfl
@[simp] theorem State.updSample_stipple (k : Nat) (f : SampleSt → SampleSt) : (s.updSample k f).stipple = s.stipple := by
  unfold State.updSample; split <;> rfl
@[simp] theorem State.updSample_marks (k : Nat) (f : SampleSt → SampleSt) : (s.updSample k f).marks = s.marks := by
  unfold State.updSample; split <;> rfl
@[simp] theorem State.updSample_fab (k : Nat) (f : SampleSt → SampleSt) : (s.updSample k f).fab = s.fab := by
  unfold State.updSample; split <;> rfl
@[simp] theorem State.updSample_eth (k : Nat) (f : SampleSt → SampleSt) : (s.updSample k f).eth = s.eth := by
  unfold State.updSample; split <;> rfl
@[simp] theorem State.updSample_ink (k : Nat) (f : SampleSt → SampleSt) : (s.updSample k f).ink = s.ink := by
  unfold State.updSample; split <;> rfl
@[simp] theorem State.updSample_time (k : Nat) (f : SampleSt → SampleSt) : (s.updSample k f).time = s.time := by
  unfold State.updSample; split <;> rfl
@[simp] theorem State.updSample_sec (k : Nat) (f : SampleSt → SampleSt) : (s.updSample k f).sec = s.sec := by
  unfold State.updSample; split <;> rfl
@[simp] theorem State.updSample_ras (k : Nat) (f : SampleSt → SampleSt) : (s.updSample k f).ras = s.ras := by
  unfold State.updSample; split <;> rfl

end Sys2Proof.Machine
end

