-- ==== Sys2Proof/Laws/Effects.lean ====
section
/-! SUPPORT. Reading an effect off a composed state: fields after field writes, registers after resets, tickets after an
outcome. The side conditions are closed by `decide` on a concrete field. -/

set_option Elab.async false

namespace Sys2Proof.Machine

/-! ### The canonical form in the shape that the other laws take -/

theorem State.sound_of_canonical {s : State} (h : s.canonical = true) : s.Sound s.pending := State.sound_iff.2 ⟨rfl, h⟩

theorem State.rise_of_canonical {s : State} (h : s.canonical = true) : keysRise s.regs := (State.sound_of_canonical h).rise

variable {q : List Instr}

/-- A sound state is in its own frame. -/
theorem State.Sound.frame {s : State} {M : Nat} (h : s.Sound q) : State.Frame M s s := State.Frame.refl h.rise

/-! ### Fields -/

/-- Registers read the same in states with the same register file. -/
theorem State.rd_congr {s t : State} {r : RegName} {i : Nat} (h : t.regs = s.regs) : t.rd r i = s.rd r i := by
  unfold State.rd; rw [h]

theorem State.getF_congr {s t : State} {f : Field} {i : Nat} (h : t.regs = s.regs) : t.getF f i = s.getF f i := by
  unfold State.getF; rw [State.rd_congr h]

theorem State.getF_of_rd {s t : State} {f : Field} {i : Nat} (h : t.rd f.reg i = s.rd f.reg i) : t.getF f i = s.getF f i := by
  unfold State.getF; rw [h]

/-- A field is well laid out and instance `i` of its register exists. -/
abbrev Field.ok (f : Field) (i : Nat) : Prop := f.lo ≤ f.hi + 1 ∧ f.hi < 64 ∧ i < f.reg.info.count

/-- Two field places that do not overlap. -/
abbrev Field.apart (g : Field) (j : Nat) (f : Field) (i : Nat) : Prop := g.reg ≠ f.reg ∨ j ≠ i ∨ g.hi < f.lo ∨ f.hi < g.lo

theorem State.getF_setF {s : State} {f : Field} {i v : Nat} (hs : s.Sound q) (hf : f.ok i) :
    (s.setF f i v).getF f i = v % 2 ^ (f.hi + 1 - f.lo) :=
  State.getF_setF_same f i v hs.rise hf.2.2 hf.1 hf.2.1

theorem State.getF_setF_apart {s : State} {f g : Field} {i j v : Nat} (hs : s.Sound q) (hf : f.lo ≤ f.hi + 1 ∧ f.hi < 64)
    (hg : j < g.reg.info.count) (h : g.apart j f i) : (s.setF f i v).getF g j = s.getF g j :=
  State.getF_setF_ne v hs.rise hg hf.1 hf.2 h

theorem State.rd_setF_ne {s : State} {f : Field} {i v : Nat} {r : RegName} {j : Nat} (hs : s.Sound q) (hj : j < r.info.count)
    (h : r ≠ f.reg ∨ j ≠ i) : (s.setF f i v).rd r j = s.rd r j :=
  State.rd_wr_ne _ hs.rise hj h

theorem State.getF_bump {s : State} {f : Field} {i n : Nat} (hs : s.Sound q) (hf : f.ok i) :
    (s.bump f i n).getF f i = satNat (s.getF f i + n) f.max % 2 ^ (f.hi + 1 - f.lo) := State.getF_setF hs hf

theorem State.getF_bump_apart {s : State} {f g : Field} {i j n : Nat} (hs : s.Sound q) (hf : f.lo ≤ f.hi + 1 ∧ f.hi < 64)
    (hg : j < g.reg.info.count) (h : g.apart j f i) : (s.bump f i n).getF g j = s.getF g j :=
  State.getF_setF_apart hs hf hg h

/-! ### Updates that leave the register file alone -/

@[simp] theorem State.emit_rd (s : State) (o : Out) (g : RegName) (j : Nat) : (s.emit o).rd g j = s.rd g j := State.rd_congr rfl
@[simp] theorem State.emit_getF (s : State) (o : Out) (g : Field) (j : Nat) : (s.emit o).getF g j = s.getF g j := State.getF_congr rfl
@[simp] theorem State.setChase_rd (s : State) (c : Nat) (x : ChaseSt) (g : RegName) (j : Nat) : (s.setChase c x).rd g j = s.rd g j := State.rd_congr rfl
@[simp] theorem State.setChase_getF (s : State) (c : Nat) (x : ChaseSt) (g : Field) (j : Nat) : (s.setChase c x).getF g j = s.getF g j := State.getF_congr rfl
@[simp] theorem State.updChase_rd (s : State) (c : Nat) (f : ChaseSt → ChaseSt) (g : RegName) (j : Nat) : (s.updChase c f).rd g j = s.rd g j := State.rd_congr rfl
@[simp] theorem State.updChase_getF (s : State) (c : Nat) (f : ChaseSt → ChaseSt) (g : Field) (j : Nat) : (s.updChase c f).getF g j = s.getF g j := State.getF_congr rfl
@[simp] theorem State.updTicket_rd (s : State) (r q : Nat) (f : Ticket → Ticket) (g : RegName) (j : Nat) : (s.updTicket r q f).rd g j = s.rd g j := State.rd_congr rfl
@[simp] theorem State.updTicket_getF (s : State) (r q : Nat) (f : Ticket → Ticket) (g : Field) (j : Nat) : (s.updTicket r q f).getF g j = s.getF g j := State.getF_congr rfl
@[simp] theorem State.updRing_rd (s : State) (r : Nat) (f : RingRt → RingRt) (g : RegName) (j : Nat) : (s.updRing r f).rd g j = s.rd g j := State.rd_congr rfl
@[simp] theorem State.updRing_getF (s : State) (r : Nat) (f : RingRt → RingRt) (g : Field) (j : Nat) : (s.updRing r f).getF g j = s.getF g j := State.getF_congr rfl
@[simp] theorem State.updMark_rd (s : State) (n : Nat) (f : MarkRt → MarkRt) (g : RegName) (j : Nat) : (s.updMark n f).rd g j = s.rd g j := State.rd_congr rfl
@[simp] theorem State.updMark_getF (s : State) (n : Nat) (f : MarkRt → MarkRt) (g : Field) (j : Nat) : (s.updMark n f).getF g j = s.getF g j := State.getF_congr rfl
@[simp] theorem State.updLink_rd (s : State) (l : Nat) (f : LinkSt → LinkSt) (g : RegName) (j : Nat) : (s.updLink l f).rd g j = s.rd g j := State.rd_congr rfl
@[simp] theorem State.updLink_getF (s : State) (l : Nat) (f : LinkSt → LinkSt) (g : Field) (j : Nat) : (s.updLink l f).getF g j = s.getF g j := State.getF_congr rfl
@[simp] theorem State.updFab_rd (s : State) (f : FabSt → FabSt) (g : RegName) (j : Nat) : (s.updFab f).rd g j = s.rd g j := State.rd_congr rfl
@[simp] theorem State.updFab_getF (s : State) (f : FabSt → FabSt) (g : Field) (j : Nat) : (s.updFab f).getF g j = s.getF g j := State.getF_congr rfl
@[simp] theorem State.updTime_rd (s : State) (f : TimeSt → TimeSt) (g : RegName) (j : Nat) : (s.updTime f).rd g j = s.rd g j := State.rd_congr rfl
@[simp] theorem State.updTime_getF (s : State) (f : TimeSt → TimeSt) (g : Field) (j : Nat) : (s.updTime f).getF g j = s.getF g j := State.getF_congr rfl
@[simp] theorem State.updSec_rd (s : State) (f : SecSt → SecSt) (g : RegName) (j : Nat) : (s.updSec f).rd g j = s.rd g j := State.rd_congr rfl
@[simp] theorem State.updSec_getF (s : State) (f : SecSt → SecSt) (g : Field) (j : Nat) : (s.updSec f).getF g j = s.getF g j := State.getF_congr rfl
@[simp] theorem State.updInk_rd (s : State) (f : InkSt → InkSt) (g : RegName) (j : Nat) : (s.updInk f).rd g j = s.rd g j := State.rd_congr rfl
@[simp] theorem State.updInk_getF (s : State) (f : InkSt → InkSt) (g : Field) (j : Nat) : (s.updInk f).getF g j = s.getF g j := State.getF_congr rfl
@[simp] theorem State.updPw_rd (s : State) (f : PowerSt → PowerSt) (g : RegName) (j : Nat) : (s.updPw f).rd g j = s.rd g j := State.rd_congr rfl
@[simp] theorem State.updPw_getF (s : State) (f : PowerSt → PowerSt) (g : Field) (j : Nat) : (s.updPw f).getF g j = s.getF g j := State.getF_congr rfl
@[simp] theorem State.updEth_rd (s : State) (f : EthSt → EthSt) (g : RegName) (j : Nat) : (s.updEth f).rd g j = s.rd g j := State.rd_congr rfl
@[simp] theorem State.updEth_getF (s : State) (f : EthSt → EthSt) (g : Field) (j : Nat) : (s.updEth f).getF g j = s.getF g j := State.getF_congr rfl
@[simp] theorem State.setGalley_rd (s : State) (c id : Nat) (y : GalleySt) (g : RegName) (j : Nat) : (s.setGalley c id y).rd g j = s.rd g j := State.rd_congr rfl
@[simp] theorem State.setGalley_getF (s : State) (c id : Nat) (y : GalleySt) (g : Field) (j : Nat) : (s.setGalley c id y).getF g j = s.getF g j := State.getF_congr rfl
@[simp] theorem State.finishTicket_rd (s : State) (r k st : Nat) (d : Bytes) (g : RegName) (j : Nat) : (s.finishTicket r k st d).rd g j = s.rd g j := State.rd_congr rfl
@[simp] theorem State.finishTicket_getF (s : State) (r k st : Nat) (d : Bytes) (g : Field) (j : Nat) : (s.finishTicket r k st d).getF g j = s.getF g j := State.getF_congr rfl
@[simp] theorem State.done_rd (s : State) (x : Ticket) (st : Nat) (d : Bytes) (g : RegName) (j : Nat) : (s.done x st d).rd g j = s.rd g j := State.rd_congr rfl
@[simp] theorem State.done_getF (s : State) (x : Ticket) (st : Nat) (d : Bytes) (g : Field) (j : Nat) : (s.done x st d).getF g j = s.getF g j := State.getF_congr rfl
@[simp] theorem State.loadDone_rd (s : State) (x : Ticket) (st n m : Nat) (g : RegName) (j : Nat) : (s.loadDone x st n m).rd g j = s.rd g j := State.rd_congr rfl
@[simp] theorem State.loadDone_getF (s : State) (x : Ticket) (st n m : Nat) (g : Field) (j : Nat) : (s.loadDone x st n m).getF g j = s.getF g j := State.getF_congr rfl

/-! ### Registers after a reset -/

/-- A key that no entry has reads as unlisted. -/
theorem kvGet_none_of {α : Type} {l : List (Nat × α)} {k : Nat} (h : ∀ e ∈ l, e.1 ≠ k) : kvGet l k = none := by
  induction l with
  | nil => rfl
  | cons a t ih =>
    obtain ⟨k', v⟩ := a
    have h1 := h (k', v) (List.mem_cons_self ..)
    rw [kvGet, if_neg (by simpa using fun e => h1 e.symm)]
    split_ifs
    · rfl
    · exact ih fun e he => h e (List.mem_cons_of_mem _ he)

theorem State.rd_eq_of_kvGet {s t : State} {r : RegName} {i : Nat} (h : kvGet t.regs (r.addr i) = kvGet s.regs (r.addr i)) :
    t.rd r i = s.rd r i := by
  unfold State.rd; rw [h]

theorem State.rd_of_unlisted {s : State} {r : RegName} {i : Nat} (h : kvGet s.regs (r.addr i) = none) : s.rd r i = r.resetWord := by
  unfold State.rd; rw [h]

theorem State.rd_resetRegs {s : State} {d : Domain} {r : RegName} {i : Nat} (h : s.Sound q) (hi : i < r.info.count) :
    (s.resetRegs d).rd r i = if domainResets d r.info.dom then r.resetWord else s.rd r i := by
  split_ifs with hd
  · refine State.rd_of_unlisted (kvGet_none_of fun e he hk => ?_)
    have := List.of_mem_filter he
    rw [hk, findReg_addr hi] at this
    simp [hd] at this
  · exact State.rd_eq_of_kvGet (kvGet_filter _ h.rise fun v => by simp [findReg_addr hi, hd])

theorem State.rd_resetSlotRegs {s : State} {c : Nat} {r : RegName} {i : Nat} (h : s.Sound q) (hi : i < r.info.count) :
    (s.resetSlotRegs c).rd r i = if r.info.dom = .chase ∧ i = c then r.resetWord else s.rd r i := by
  split_ifs with hd
  · refine State.rd_of_unlisted (kvGet_none_of fun e he hk => ?_)
    have := List.of_mem_filter he
    rw [hk, findReg_addr hi] at this
    simp [hd] at this
  · refine State.rd_eq_of_kvGet (kvGet_filter _ h.rise fun v => ?_)
    rw [findReg_addr hi]
    simpa [-not_and, not_and_or] using hd

/-! ### The time counter -/

theorem State.rd_setCtr {s : State} {v : Nat} (h : s.Sound q) : (s.setCtr v).rd .timeNs 0 = v / 10 ^ 8 % 2 ^ 64 := by
  unfold State.setCtr
  generalize v / 10 ^ 8 = w
  exact State.rd_wr_same _ _ _ h.rise (by decide)

theorem State.ctr_eq (s : State) : s.ctr = s.rd .timeNs 0 * 10 ^ 8 + s.time.sub := by unfold State.ctr State.now; rfl

theorem State.setCtr_upNs (s : State) (v : Nat) : (s.setCtr v).upNs = s.upNs := by unfold State.setCtr; rw [State.wr_upNs]

theorem State.mbEnds_upNs (s : State) : s.mbEnds.upNs = s.upNs := by unfold State.mbEnds; split <;> simp

theorem State.adoptStep_upNs (s : State) (c : Nat) : (s.adoptStep c).upNs = s.upNs := by
  unfold State.adoptStep
  split
  · rfl
  · extract_lets x b past moved u
    split
    · rfl
    · split <;> simp [u]

/-- No adopted step changes the uptime. -/
theorem State.adoptSteps_upNs (s : State) : s.adoptSteps.upNs = s.upNs := by
  unfold State.adoptSteps
  split
  · have (l : List Nat) : ∀ u : State, (l.foldl State.adoptStep u).upNs = u.upNs := by
      induction l with
      | nil => exact fun _ => rfl
      | cons c l ih => exact fun u => (ih (u.adoptStep c)).trans (u.adoptStep_upNs c)
    exact this _ s
  · rfl

theorem State.tick_upNs (s : State) : s.tick.upNs = s.upNs + 1 := by
  unfold State.tick
  split
  · rw [State.adoptSteps_upNs, State.setCtr_upNs]
  · rfl

/-- A step of the clock leaves TIME_NS where the passed nanosecond took it. -/
theorem State.rd_tick {s : State} (h : s.Sound q) (h1 : s.pw.pwrGood = true) (h2 : s.pw.sysclk = true) :
    s.tick.rd .timeNs 0 = (s.ctr + s.gain) / 10 ^ 8 % 2 ^ 64 := by
  unfold State.tick
  generalize s.ctr + s.gain = v
  rw [if_pos (by simp [h1, h2])]
  have hm := State.mbEnds_sound h
  have hs : (({ s.mbEnds with upNs := s.upNs + 1 } : State)).Sound q :=
    ⟨hm.queue, hm.mem, hm.hostMem, hm.buf, hm.rise, hm.listed, hm.slots, hm.mb⟩
  rw [(State.adoptSteps_frame (M := 0x400000000000000000000000000000000000000300) (State.setCtr_sound hs).frame (by rfl)).regs .timeNs (by decide) 0 (by decide)]
  exact State.rd_setCtr hs

/-! ### Tickets -/

theorem State.ticket?_eq {s : State} {ring seq : Nat} {x : Ticket} (h : s.ticket? ring seq = some x) :
    x.ring = ring ∧ x.seq = seq := by
  have := List.find?_some h
  simpa using this

theorem State.ticket?_updTicket {s : State} {ring seq : Nat} {f : Ticket → Ticket}
    (hf : ∀ x, (f x).ring = x.ring ∧ (f x).seq = x.seq) :
    (s.updTicket ring seq f).ticket? ring seq = (s.ticket? ring seq).map f := by
  unfold State.ticket? State.updTicket
  simp only
  induction s.host.tickets with
  | nil => rfl
  | cons a l ih =>
    by_cases ha : a.ring == ring && a.seq == seq
    · simp only [mapFirst, ha, if_true, List.find?_cons]
      rw [show ((f a).ring == ring && (f a).seq == seq) = true by rw [(hf a).1, (hf a).2]; exact ha]
      rfl
    · simp only [Bool.not_eq_true] at ha
      simp only [mapFirst, ha, if_false, Bool.false_eq_true, List.find?_cons]
      exact ih

/-- The outcome of a ticket that has none yet. -/
theorem State.ticket?_finishTicket {s : State} {ring seq st : Nat} {d : Bytes} {x : Ticket} (h : s.ticket? ring seq = some x)
    (hx : x.done = false) : (s.finishTicket ring seq st d).ticket? ring seq =
      some { x with done := true, acted := true, status := st, detail := d, flags := x.flags ||| s.workFlags x } := by
  unfold State.finishTicket
  rw [State.ticket?_updTicket (fun x => by unfold State.outcome; split <;> simp), h]
  simp [State.outcome, hx]

end Sys2Proof.Machine
end

