-- ==== Sys2Proof/Laws/Slices.lean ====
section
/-! SUPPORT. Bytes of memory as the home slices show them: what a write through the merging buffers and a drain to DRAM leave
at every HBM location (R477, R489 to R491). -/

set_option Elab.async false

namespace Sys2Proof.Machine

variable {q : List Instr}

/-- A run of bytes written to a memory list reads as written, and every other byte as before. -/
theorem memGet_memPutRun {m : List Host.Cell} (l k : Nat) (bs : Bytes) (h : Memory.wf m = true) :
    memGet (memPutRun m l bs) k = if l ≤ k ∧ k < l + bs.length then bs.getD (k - l) 0 else memGet m k := by
  induction bs generalizing m l with
  | nil => rw [if_neg (by simp)]; rfl
  | cons b t ih =>
    simp only [memPutRun, ih (l + 1) (wf_memPut l b h), memGet_memPut l k b h, List.length_cons]
    by_cases hk : k = l
    · subst hk; simp
    · by_cases h1 : l + 1 ≤ k ∧ k < l + 1 + t.length
      · rw [if_pos h1, if_pos (by omega)]
        obtain ⟨d, rfl⟩ : ∃ d, k = l + 1 + d := ⟨k - (l + 1), by omega⟩
        rw [show l + 1 + d - (l + 1) = d by omega, show l + 1 + d - l = d + 1 by omega]
        rfl
      · rw [if_neg h1, if_neg hk, if_neg (by omega)]

/-- The bytes of an entry written to DRAM. -/
theorem memGet_foldl_put {bs : List (Nat × Byte)} {m : List Host.Cell} (base k : Nat) (hb : keysRise bs)
    (h : Memory.wf m = true) :
    memGet (bs.foldl (fun m ob => memPut m (base + ob.1) ob.2) m) k =
      if base ≤ k then (kvGet bs (k - base)).getD (memGet m k) else memGet m k := by
  induction bs generalizing m with
  | nil => simp [kvGet]
  | cons b t ih =>
    obtain ⟨o, b⟩ := b
    obtain ⟨h1, h2⟩ := keysRise_cons.1 hb
    rw [List.foldl_cons, ih h2 (wf_memPut _ _ h), memGet_memPut _ _ _ h, kvGet]
    split_ifs with hk h3 h4 h5 h6
    all_goals first | omega | rfl | skip
    · have : kvGet t (k - base) = none := kvGet_above h1 (by simp; omega)
      simp [this]
    · have : kvGet t (k - base) = none := kvGet_above h1 (by simp; omega)
      simp [this]

theorem State.mbFind_some {s : State} {line : Nat} {e : MbEntry} (h : s.mbFind line = some e) : e ∈ s.mb ∧ e.line = line :=
  ⟨List.mem_of_find?_eq_some h, by simpa using List.find?_some h⟩

theorem State.mbFind_of_mem {s : State} (h : s.Sound q) {e : MbEntry} (he : e ∈ s.mb) : s.mbFind e.line = some e := by
  have h1 := (mbFine_iff.1 h.mb).2
  unfold State.mbFind
  generalize s.mb = l at he h1
  induction l with
  | nil => simp at he
  | cons a t ih =>
    simp only [List.map_cons, List.nodup_cons] at h1
    rw [List.find?_cons]
    rcases List.mem_cons.1 he with rfl | he
    · simp
    · rw [show (a.line == e.line) = false by
        simp only [beq_eq_false_iff_ne]; exact fun hh => h1.1 (hh ▸ List.mem_map_of_mem he)]
      exact ih he h1.2

theorem mbEntry_keys {e : MbEntry} (h : mbEntryOk e = true) : keysRise e.bytes ∧ ∀ b ∈ e.bytes, b.1 < 64 := by
  have := h
  simp only [mbEntryOk, Bool.and_eq_true, keysRising_iff, List.all_eq_true, decide_eq_true_eq] at this
  exact ⟨this.1.2, this.2⟩

theorem mbEntry_line {e : MbEntry} (h : mbEntryOk e = true) : 64 * e.line < hbmTop := by
  simp only [mbEntryOk, Bool.and_eq_true, decide_eq_true_eq] at h
  exact h.1.1

theorem kvGet_none_of_bound {α : Type} {l : List (Nat × α)} {n k : Nat} (h : ∀ e ∈ l, e.1 < n) (hk : n ≤ k) : kvGet l k = none := by
  induction l with
  | nil => rfl
  | cons a t ih =>
    obtain ⟨j, v⟩ := a
    have h1 : j < n := h (j, v) (List.mem_cons_self ..)
    rw [kvGet, if_neg (by omega)]
    split
    · rfl
    · exact ih fun e he => h e (List.mem_cons_of_mem _ he)

/-- Draining an entry of the merging buffers changes no byte that the slices show. -/
theorem State.sliceByte_mbToDram {s : State} (h : s.Sound q) {e : MbEntry} (he : e ∈ s.mb) {k : Nat} (hk : k < hbmTop) :
    (s.mbToDram e).sliceByte k = s.sliceByte k := by
  obtain ⟨h1, h2⟩ := mbEntry_keys ((mbFine_iff.1 h.mb).1 e he)
  have h3 := State.mbFind_of_mem h he
  simp only [State.sliceByte, if_pos hk]
  have h4 : (s.mbToDram e).mbFind (k / 64) = if k / 64 = e.line then none else s.mbFind (k / 64) := by
    simp only [State.mbFind, State.mbToDram, List.find?_filter]
    split
    · rename_i hl
      rw [List.find?_eq_none]
      intro x _ hx
      simp [hl] at hx
    · rename_i hl
      congr 1; funext x
      by_cases hx : x.line = k / 64
      · simp [hx, hl]
      · simp [hx]
  have h5 : memGet (s.mbToDram e).mem k = if k / 64 = e.line then (kvGet e.bytes (k % 64)).getD (memGet s.mem k) else memGet s.mem k := by
    show memGet (e.bytes.foldl (fun m ob => memPut m (64 * e.line + ob.1) ob.2) s.mem) k = _
    rw [memGet_foldl_put _ _ h1 h.mem]
    split_ifs with ha hb hb
    · rw [show k - 64 * e.line = k % 64 by omega]
    · rw [kvGet_none_of_bound h2 (by omega)]; rfl
    · omega
    · rfl
  rw [h4, h5]
  split_ifs with hl
  · rw [hl, h3]
    simp only [Option.bind_none, Option.bind_some, mbByte]
    cases kvGet e.bytes (k % 64) <;> rfl
  · rfl

/-- Draining an entry leaves every byte above HBM. -/
theorem State.memGet_mbToDram_chip {s : State} (h : s.Sound q) {e : MbEntry} (he : mbEntryOk e = true) {k : Nat} (hk : hbmTop ≤ k) :
    memGet (s.mbToDram e).mem k = memGet s.mem k := by
  obtain ⟨h1, h2⟩ := mbEntry_keys he
  have h3 := mbEntry_line he
  show memGet (e.bytes.foldl (fun m ob => memPut m (64 * e.line + ob.1) ob.2) s.mem) k = _
  rw [memGet_foldl_put _ _ h1 h.mem]
  split
  · have : hbmTop = 64 * 0x300000000 := rfl
    rw [kvGet_none_of_bound h2 (by omega)]; rfl
  · rfl

theorem State.sliceByte_mbDrainOldest {s : State} (h : s.Sound q) {r k : Nat} (hk : k < hbmTop) :
    (s.mbDrainOldest r).sliceByte k = s.sliceByte k := by
  unfold State.mbDrainOldest
  split
  · rename_i e t he
    exact State.sliceByte_mbToDram h (List.mem_of_mem_filter (p := fun e => e.region == r) (by
      show e ∈ s.mbOf r; rw [he]; exact List.mem_cons_self ..)) hk
  · rfl

/-- The byte that the pieces of a write leave at an offset. -/
def putByte (bs : List (Nat × Byte)) (o : Nat) (old : Option Byte) : Option Byte :=
  bs.foldl (fun a ob => if o = ob.1 then some ob.2 else a) old

theorem kvGet_puts (bs : List (Nat × Byte)) (l : List (Nat × Byte)) (o : Nat) :
    kvGet (bs.foldl (fun acc ob => kvPut acc ob.1 ob.2) l) o = putByte bs o (kvGet l o) := by
  induction bs generalizing l with
  | nil => rfl
  | cons b t ih => rw [List.foldl_cons, ih, kvGet_kvPut]; rfl

theorem State.sliceByte_congr {s t : State} {k : Nat} (h1 : t.mem = s.mem) (h2 : t.mb = s.mb) : t.sliceByte k = s.sliceByte k := by
  unfold State.sliceByte State.mbFind; rw [h1, h2]

/-- A cache hit moves a line's tag and no byte. -/
theorem State.cacheTouch_mem (s : State) (line : Nat) : (s.cacheTouch line).mem = s.mem := by
  unfold State.cacheTouch; dsimp only; split <;> rfl

theorem State.cacheTouch_mb (s : State) (line : Nat) : (s.cacheTouch line).mb = s.mb := by
  unfold State.cacheTouch; dsimp only; split <;> rfl

theorem State.sliceByte_cacheTouch (s : State) (line k : Nat) : (s.cacheTouch line).sliceByte k = s.sliceByte k :=
  State.sliceByte_congr (s.cacheTouch_mem line) (s.cacheTouch_mb line)

theorem putByte_some (bs : List (Nat × Byte)) (o : Nat) (b : Byte) : ∃ c, putByte bs o (some b) = some c := by
  induction bs generalizing b with
  | nil => exact ⟨b, rfl⟩
  | cons a t ih => unfold putByte; rw [List.foldl_cons]; split <;> exact ih _

theorem putByte_getD (bs : List (Nat × Byte)) (o : Nat) (a : Option Byte) (b : Byte) :
    (putByte bs o a).getD b = (putByte bs o (some (a.getD b))).getD b := by
  induction bs generalizing a with
  | nil => cases a <;> rfl
  | cons c t ih =>
    unfold putByte; rw [List.foldl_cons, List.foldl_cons]
    split
    · rfl
    · exact ih a

theorem State.sliceByte_eq {s : State} {k : Nat} (hk : k < hbmTop) :
    s.sliceByte k = ((s.mbFind (k / 64)).bind fun e => kvGet e.bytes (k % 64)).getD (memGet s.mem k) := by
  simp only [State.sliceByte, if_pos hk, mbByte]
  cases (s.mbFind (k / 64)).bind fun e => kvGet e.bytes (k % 64) <;> rfl

/-- A write to one line shows its bytes there and changes no other byte. -/
theorem State.sliceByte_mbWrite {s : State} (h : s.Sound q) {line : Nat} {bs : List (Nat × Byte)} (hb : ∀ b ∈ bs, b.1 < 64)
    {k : Nat} (hk : k < hbmTop) :
    (s.mbWrite line bs).sliceByte k = if k / 64 = line then (putByte bs (k % 64) (some (s.sliceByte k))).getD 0 else s.sliceByte k := by
  have key : ∀ a b, (putByte bs (k % 64) a).getD b = (putByte bs (k % 64) (some (a.getD b))).getD 0 := fun a b => by
    rw [putByte_getD]; obtain ⟨c, hc⟩ := putByte_some bs (k % 64) (a.getD b); rw [hc]; rfl
  unfold State.mbWrite
  dsimp only
  by_cases hline : hbmTop ≤ 64 * line
  · rw [if_pos hline, if_neg (by omega)]
    simp only [State.sliceByte, if_pos hk, State.mbFind]
    have : memGet (bs.foldl (fun m ob => memPut m (64 * line + ob.1) ob.2) s.mem) k = memGet s.mem k := by
      have h1 := h.mem
      generalize s.mem = m at h1
      clear key
      induction bs generalizing m with
      | nil => rfl
      | cons b t ih =>
        rw [List.foldl_cons, ih (fun b hb' => hb b (List.mem_cons_of_mem _ hb')) _ (wf_memPut _ _ h1), memGet_memPut _ _ _ h1,
          if_neg (by omega)]
    rw [this]
  have hlt : 64 * line < hbmTop := Nat.not_le.1 hline
  rw [if_neg hline]
  split
  · rename_i e he
    obtain ⟨hm, hl⟩ := State.mbFind_some he
    obtain ⟨e', hE⟩ : ∃ e' : MbEntry, { e with bytes := bs.foldl (fun acc ob => kvPut acc ob.1 ob.2) e.bytes } = e' := ⟨_, rfl⟩
    have hl' : e'.line = line := by rw [← hE]; exact hl
    have h1 : State.Sound q { s with mb := s.mb.map fun x => if x.line == line then e' else x } :=
      h.withMb (mbFine_map h.mb (hE ▸ mbEntryOk_puts hb ((mbFine_iff.1 h.mb).1 e hm)) hl')
    have hme : e' ∈ s.mb.map fun x => if x.line == line then e' else x := List.mem_map.2 ⟨e, hm, by simp [hl]⟩
    have h2 : State.sliceByte { s with mb := s.mb.map fun x => if x.line == line then e' else x } k =
        if k / 64 = line then (putByte bs (k % 64) (some (s.sliceByte k))).getD 0 else s.sliceByte k := by
      rw [State.sliceByte_eq hk, State.sliceByte_eq hk (s := s)]
      split_ifs with hkl
      · have hf := State.mbFind_of_mem h1 hme
        rw [hl'] at hf
        rw [hkl, he, hf]
        simp only [Option.bind_some]
        rw [← hE, kvGet_puts, key]
      · have : State.mbFind { s with mb := s.mb.map fun x => if x.line == line then e' else x } (k / 64) = s.mbFind (k / 64) := by
          unfold State.mbFind
          simp only
          clear hme h1 hm he
          generalize s.mb = l
          induction l with
          | nil => rfl
          | cons a t ih =>
            rw [List.map_cons, List.find?_cons, List.find?_cons, ih]
            by_cases ha : a.line = line
            · have hq : (line == k / 64) = false := by simpa using Ne.symm hkl
              simp [ha, hl', hq]
            · simp [ha]
        rw [this]
    subst hE
    rw [← h2]
    split
    · exact State.sliceByte_mbToDram h1 hme hk
    · rfl
  · rename_i he
    have hn : ∀ x ∈ s.mb, x.line ≠ line := by simpa [State.mbFind] using he
    generalize hr : s.homeSlice (64 * line) = r
    have main : ∀ u : State, u.Sound q → (∀ x ∈ u.mb, x ∈ s.mb) → u.sliceByte k = s.sliceByte k → ∀ e : MbEntry,
        e = ⟨line, r, bs.foldl (fun acc ob => kvPut acc ob.1 ob.2) [], s.upNs⟩ →
        (if e.bytes.length = 64 then (State.mbPeak { u with mb := u.mb ++ [e] } r).mbToDram e
          else if 192 ≤ ((State.mbPeak { u with mb := u.mb ++ [e] } r).mbOf r).length then
            (State.mbPeak { u with mb := u.mb ++ [e] } r).mbDrainOldest r else State.mbPeak { u with mb := u.mb ++ [e] } r).sliceByte k =
        if k / 64 = line then (putByte bs (k % 64) (some (s.sliceByte k))).getD 0 else s.sliceByte k := by
      intro u hu hm hsame e hE
      have hl' : e.line = line := by rw [hE]
      have h1 : State.Sound q { u with mb := u.mb ++ [e] } := hu.withMb (mbFine_append hu.mb
        (hE ▸ mbEntryOk_puts (e := ⟨line, r, [], s.upNs⟩) hb (by simpa [mbEntryOk, keysRising] using hlt)) fun x hx => hl' ▸ hn x (hm x hx))
      have h1' := State.mbPeak_sound (region := r) h1
      have hmb : (State.mbPeak { u with mb := u.mb ++ [e] } r).mb = u.mb ++ [e] := by
        unfold State.mbPeak State.raiseTo; split <;> simp [State.setF]
      have hmem : (State.mbPeak { u with mb := u.mb ++ [e] } r).mem = u.mem := by
        unfold State.mbPeak State.raiseTo; split <;> simp [State.setF]
      have h2 : (State.mbPeak { u with mb := u.mb ++ [e] } r).sliceByte k =
          if k / 64 = line then (putByte bs (k % 64) (some (s.sliceByte k))).getD 0 else s.sliceByte k := by
        rw [State.sliceByte_congr (s := { u with mb := u.mb ++ [e] }) hmem hmb, ← hsame, State.sliceByte_eq hk, State.sliceByte_eq hk (s := u)]
        split_ifs with hkl
        · rw [hkl, ← hl', State.mbFind_of_mem h1 (List.mem_append_right _ (List.mem_singleton.2 rfl)), hl']
          have : u.mbFind line = none := by
            unfold State.mbFind; rw [List.find?_eq_none]; intro x hx; simpa using hn x (hm x hx)
          rw [this, hE]
          simp only [Option.bind_some, Option.bind_none]
          rw [kvGet_puts, key]; rfl
        · have : State.mbFind { u with mb := u.mb ++ [e] } (k / 64) = u.mbFind (k / 64) := by
            unfold State.mbFind
            simp only [List.find?_append]
            rw [show List.find? (fun e => e.line == k / 64) [e] = none by simp [hl', Ne.symm hkl]]
            simp
          rw [this]
      rw [← h2]
      split
      · exact State.sliceByte_mbToDram h1' (by rw [hmb]; simp) hk
      · split
        · exact State.sliceByte_mbDrainOldest h1' hk
        · rfl
    by_cases hp : 256 ≤ (s.mbOf r).length
    · simp only [if_pos hp]
      refine main _ (State.mbDrainOldest_sound (State.bump_sound h)) (fun x hx => ?_) ?_ _ rfl
      · simp only [State.mbDrainOldest] at hx
        split at hx
        · simp [State.mbToDram, State.bump, State.setF] at hx
          exact hx.1
        · simpa [State.bump, State.setF, State.wr_keepsMb] using hx
      · rw [State.sliceByte_mbDrainOldest (State.bump_sound h) hk]
        exact State.sliceByte_congr (by simp [State.bump, State.setF]) (by simp [State.bump, State.setF])
    · simp only [if_neg hp]
      exact main _ h (fun _ hx => hx) rfl _ rfl

/-- The byte that pieces of lines leave at a location. -/
def piecesByte (ps : List (Nat × List (Nat × Byte))) (k : Nat) (old : Byte) : Byte :=
  ps.foldl (fun a p => if k / 64 = p.1 then (putByte p.2 (k % 64) (some a)).getD 0 else a) old

theorem putByte_cons (a : Nat × Byte) (t : List (Nat × Byte)) (o : Nat) (old : Option Byte) :
    putByte (a :: t) o old = putByte t o (if o = a.1 then some a.2 else old) := rfl

theorem piecesByte_linePieces (l k : Nat) (bs : Bytes) (old : Byte) :
    piecesByte (linePieces l bs) k old = if l ≤ k ∧ k < l + bs.length then bs.getD (k - l) 0 else old := by
  have hcons : ∀ (p : Nat × List (Nat × Byte)) t o, piecesByte (p :: t) k o =
      piecesByte t k (if k / 64 = p.1 then (putByte p.2 (k % 64) (some o)).getD 0 else o) := fun _ _ _ => rfl
  induction bs generalizing l old with
  | nil => rw [if_neg (by simp)]; rfl
  | cons b t ih =>
    have step : piecesByte (linePieces l (b :: t)) k old = piecesByte (linePieces (l + 1) t) k (if k = l then b else old) := by
      rw [linePieces]
      split
      · rename_i j ps r he
        rw [he]
        split
        · rename_i hj
          rw [hcons, hcons, hj, putByte_cons]
          dsimp only
          congr 1
          split_ifs with h1 h2 h3 <;> first | rfl | omega
        · rw [hcons, putByte]
          dsimp only
          congr 1
          simp only [List.foldl_cons, List.foldl_nil]
          split_ifs with h1 h2 h3 <;> first | rfl | omega
      · rename_i he
        rw [he, hcons, putByte]
        dsimp only
        congr 1
        simp only [List.foldl_cons, List.foldl_nil]
        split_ifs with h1 h2 h3 <;> first | rfl | omega
    rw [step, ih, List.length_cons]
    by_cases hk : k = l
    · subst hk; simp
    · by_cases h1 : l + 1 ≤ k ∧ k < l + 1 + t.length
      · rw [if_pos h1, if_pos (by omega)]
        obtain ⟨d, rfl⟩ : ∃ d, k = l + 1 + d := ⟨k - (l + 1), by omega⟩
        rw [show l + 1 + d - (l + 1) = d by omega, show l + 1 + d - l = d + 1 by omega]
        rfl
      · rw [if_neg h1, if_neg hk, if_neg (by omega)]

/-- What a write through the home slices shows: its bytes, and every other HBM byte as before. -/
theorem State.sliceByte_sliceWrite {s : State} (h : s.Sound q) {l k : Nat} {bs : Bytes} (hl : l < hbmTop) (hk : k < hbmTop) :
    (s.sliceWrite l bs).sliceByte k = if l ≤ k ∧ k < l + bs.length then bs.getD (k - l) 0 else s.sliceByte k := by
  rw [State.sliceWrite, if_pos hl, ← piecesByte_linePieces l k bs (s.sliceByte k)]
  have := @linePieces_lt l bs
  generalize linePieces l bs = ps at this
  induction ps generalizing s with
  | nil => rfl
  | cons p t ih =>
    have hp := this p (List.mem_cons_self ..)
    rw [List.foldl_cons, ih (State.mbWrite_sound (State.cacheTouch_sound h) hp)
      (fun p hp => this p (List.mem_cons_of_mem _ hp)), State.sliceByte_mbWrite (State.cacheTouch_sound h) hp hk,
      State.sliceByte_cacheTouch]
    rfl

/-- Draining every entry empties the buffers and leaves DRAM with the bytes that the slices showed. -/
theorem State.sliceByte_foldl_mbToDram {s : State} (h : s.Sound q) {l : List MbEntry} (hl : ∀ e ∈ l, e ∈ s.mb)
    (hd : (l.map MbEntry.line).Nodup) {k : Nat} (hk : k < hbmTop) :
    (l.foldl State.mbToDram s).sliceByte k = s.sliceByte k := by
  induction l generalizing s with
  | nil => rfl
  | cons e t ih =>
    rw [List.map_cons, List.nodup_cons] at hd
    rw [List.foldl_cons, ih (State.mbToDram_sound h) ?_ hd.2, State.sliceByte_mbToDram h (hl e (List.mem_cons_self ..)) hk]
    intro x hx
    refine List.mem_filter.2 ⟨hl x (List.mem_cons_of_mem _ hx), ?_⟩
    simp only [bne_iff_ne]
    exact fun hh => hd.1 (hh ▸ List.mem_map_of_mem hx)

end Sys2Proof.Machine
end

