-- ==== Sys2Proof/Tests/Slice0.lean ====
section
/-! SUPPORT. Tests: ill-formed commands that the checks refuse, single steps whose results the spec states, and for every
statement of Obligations.lean that has hypotheses a concrete state and operands that meet them (`witness_<name>`). -/

namespace Sys2Proof.Tests

open Sys2Proof Sys2Proof.Machine

set_option Elab.async false

/-! ### Well-formed commands -/

def zeros (n : Nat) : Bytes := List.replicate n 0
def gCell : CellId := ⟨0, 0, 0⟩
def gMu : MuFields := ⟨false, false, 0, 0, 0, 0, 0, false, 0⟩
def gShape : GroupShape := ⟨1, 1, 0, 0, 0, 1, 1⟩
def gFeed : FeedOp := ⟨0, 0, 0, [], 0, [], [], false, [], []⟩
def gFlit : Flit := ⟨0, 0, 0, 0, 0, false, 0, 0, 0, 0, 0, 0, 0, false, 0, 0, 0, []⟩
def gHello : Hello := ⟨0, 0, 0, 0, 0, 0, 0, 0, 0⟩
def gLsr : Lsr := ⟨0, 0, 0, 0, 0, []⟩
def gRoce : RocePkt := ⟨0, 0, 0, false, false, false, false, 0, 0, 0, [], 64, 0⟩
def gAsk : AskFrame := ⟨0, 0, 0, 0, 64, 0⟩
def gFrame : EthFrame := ⟨0, 64, 0, false, none⟩
/-- A transfer that does not fail, and one that fails for good on its command. -/
def gFine : XferFail := ⟨0, false⟩
def gLost : XferFail := ⟨5, true⟩
def gXfer : HbmXfer := ⟨0, false, gFine, []⟩
/-- A ticket of a sequence number whose transfers all go through. -/
def tin (seq : Nat) : TicketIn := ⟨seq, []⟩
def gCred : Cred := ⟨0, 0, 0⟩
def gSlug : Slug := Slug.zero
def gSum : SummarySlot := ⟨0, 0, 0, 0, false, false, false⟩
def gGuest : GuestCopy := ⟨0, 0, 0, gSlug⟩
def gCore : CoreAsk := ⟨0, .send, 0, 0, 0, 0⟩
def gFind : RecordFind := ⟨true, 0⟩
def gBoot : BootFinds :=
  ⟨0, false, true, true, [], true, true, gFind, gFind, gFind, none, true, 0, true, 0, List.replicate 4 (zeros 32),
    List.replicate 4 (zeros 32), true, [], [], [], 0⟩

/-- A well-formed command, and commands that differ from it in one operand each, which the check refuses. -/
abbrev refuses (good : Instr) (bad : List Instr) : Prop := (good.wf && bad.all fun c => !c.wf) = true

theorem test_wf_cell : gCell.wf = true ∧
    [{ gCell with region := 16 }, { gCell with block := 16 }, { gCell with cell := 16 }].all (fun x => !x.wf) = true := by
  decide +kernel

theorem test_wf_micro_op : gMu.wf = true ∧
    [{ gMu with msk := 8 }, { gMu with dst := 32 }, { gMu with src1 := 32 }, { gMu with src2 := 32 }, { gMu with src3 :=
      32 }].all (fun x => !x.wf) = true := by
  decide +kernel

theorem test_wf_group_shape : gShape.wf = true ∧
    [{ gShape with rows := 33 }, { gShape with cols := 33 }, { gShape with slot := 16 }, { gShape with plate := 2 ^ 16 }, {
      gShape with dst := 2 ^ 44 }].all (fun x => !x.wf) = true := by
  decide +kernel

theorem test_wf_feed : gFeed.wf = true ∧
    [{ gFeed with row := 32 }, { gFeed with fmtA := 4 }, { gFeed with fmtB := 4 }, { gFeed with ea := 256 }, {
      gFeed with a := List.replicate 33 0 }, { gFeed with w := List.replicate 33 [] }, { gFeed with w := [List.replicate 33 0] }, {
      gFeed with eb := List.replicate 33 0 }].all (fun x => !x.wf) = true := by
  decide +kernel

theorem test_wf_flit : gFlit.wf = true ∧
    [{ gFlit with typ := 256 }, { gFlit with vc := 8 }, { gFlit with dim := 4 }, { gFlit with seq := 4096 }, { gFlit with
      ack := 4096 }, { gFlit with cr0 := 256 }, { gFlit with cr1 := 256 }, { gFlit with dst := 2 ^ 15 }, { gFlit with src
      := 2 ^ 15 }, { gFlit with hops := 256 }, { gFlit with plen := 221, payload := zeros 221 }, { gFlit with index :=
      1024 }, { gFlit with chase := 2 ^ 32 }, { gFlit with msg := 2 ^ 32 }, { gFlit with arg := 2 ^ 64 }, { gFlit with
      payload := [0] }].all (fun x => !x.wf) = true := by
  decide +kernel

theorem test_wf_hello : gHello.wf = true ∧
    [{ gHello with serial := 2 ^ 64 }, { gHello with name := 2 ^ 32 }, { gHello with node := 2 ^ 15 }, { gHello with
      ndState := 8 }, { gHello with link := 96 }, { gHello with die := 2 }, { gHello with hops := 256 }, { gHello with
      lock := 8 }, { gHello with root := 2 ^ 64 }].all (fun x => !x.wf) = true := by
  decide +kernel

theorem test_wf_lsr : gLsr.wf = true ∧
    [{ gLsr with serial := 2 ^ 64 }, { gLsr with name := 2 ^ 32 }, { gLsr with node := 2 ^ 15 }, { gLsr with ndState := 8
      }, { gLsr with gen := 2 ^ 32 }, { gLsr with bundles := List.replicate 97 ⟨0, 0, 0, 0⟩ }].all (fun x => !x.wf) = true := by
  decide +kernel

theorem test_wf_roce : gRoce.wf = true ∧
    [{ gRoce with port := 4 }, { gRoce with qpn := 2 ^ 24 }, { gRoce with psn := 2 ^ 24 }, { gRoce with rkey := 2 ^ 32 },
      { gRoce with addr := 2 ^ 64 }, { gRoce with len := 2 ^ 32 }, { gRoce with data := zeros 4097 },
      { gRoce with bytes := 2 ^ 16 }, { gRoce with tags := 256 }].all (fun x => !x.wf) = true := by
  decide +kernel

theorem test_wf_ask : gAsk.wf = true ∧
    [{ gAsk with port := 4 }, { gAsk with target := 2 ^ 128 }, { gAsk with srcMac := 2 ^ 48 }, { gAsk with srcIp := 2 ^
      128 }, { gAsk with bytes := 2 ^ 16 }, { gAsk with tags := 256 }].all (fun x => !x.wf) = true := by
  decide +kernel

theorem test_wf_frame : gFrame.wf = true ∧
    [{ gFrame with port := 4 }, { gFrame with bytes := 2 ^ 16 }, { gFrame with tags := 256 }, { gFrame with pfc := some 8 }].all
      (fun x => !x.wf) = true := by
  decide +kernel

theorem test_wf_transfers : gXfer.wf = true ∧ (tin 0).wf = true ∧ symErrsWf 1 [⟨18, 65535⟩] = true ∧ symErrsWf 2 [⟨37, 1⟩] = true ∧
    ([⟨12 * 2 ^ 36, false, gFine, []⟩, ⟨0, true, ⟨256, false⟩, []⟩, ⟨0, false, gFine, [⟨19, 1⟩]⟩, ⟨0, false, gFine, [⟨0, 0⟩]⟩,
      ⟨0, false, gFine, [⟨0, 2 ^ 16⟩]⟩, ⟨0, false, gFine, [⟨3, 1⟩, ⟨3, 2⟩]⟩] : List HbmXfer).all (fun x => !x.wf) = true ∧
    ([⟨2 ^ 32, []⟩, ⟨0, [{ gXfer with addr := 12 * 2 ^ 36 }]⟩] : List TicketIn).all (fun x => !x.wf) = true := by
  decide +kernel

theorem test_wf_boot : gBoot.wf = true ∧
    [{ gBoot with bootSel := 4 }, { gBoot with makers := List.replicate 9 gCred }, { gBoot with
      digests := [] }, { gBoot with digests2 := List.replicate 4 (zeros 31) }, { gBoot with version := 2 ^ 16 }, {
      gBoot with version2 := 2 ^ 16 }, { gBoot with badStacks := [12] }, { gBoot with badSpares := [(4, 0, 0, 0)] }, {
      gBoot with badSpares := [(0, 20, 0, 0)] }, { gBoot with signal := [96] }, { gBoot with ms := 2 ^ 32 }].all (fun x =>
      !x.wf) = true := by
  decide +kernel

theorem test_wf_summary : gSum.wf = true ∧
    [{ gSum with sum := -(2 ^ 191) - 1 }, { gSum with sum := 2 ^ 191 }, { gSum with max := -(2 ^ 63) - 1 }, { gSum with max
      := 2 ^ 63 }, { gSum with count := 2 ^ 64 }, { gSum with maxIdx := 2 ^ 64 }].all (fun x => !x.wf) = true := by
  decide +kernel

theorem test_wf_guest_copy : gGuest.wf = true ∧
    [{ gGuest with galley := 2 ^ 32 }, { gGuest with slug := 2 ^ 40 }, { gGuest with state := 2 ^ 32 }].all (fun x =>
      !x.wf) = true := by
  decide +kernel

theorem test_wf_core_ask : gCore.wf = true ∧
    [{ gCore with qpn := 2 ^ 24 }, { gCore with addr := 2 ^ 44 }, { gCore with len := 2 ^ 32 }, { gCore with raddr := 2 ^ 64 }, {
      gCore with rkey := 2 ^ 32 }].all (fun x => !x.wf) =
      true := by
  decide +kernel

theorem test_wf_hw_event : Machine.HwEvent.bridgeFails.wf = true ∧
    ([.sramCorrected 3 0 0 0, .sramCorrected 0 16 0 0, .sramCorrected 0 0 16 0, .sramCorrected 0 0 0 16, .sramEscalates 3
      0 0 0 0 true 0, .sramEscalates 0 16 0 0 0 true 0, .sramEscalates 0 0 16 0 0 true 0, .sramEscalates 0 0 0 16 0 true
      0, .sramEscalates 0 0 0 0 0 true (2 ^ 44), .transferRetried 3 0 0, .transferRetried 0 16 0, .transferRetried 0 0 16,
      .transferFails 3 0 0, .transferFails 0 16 0, .transferFails 0 0 16, .runFails 16 0 0, .runFails 0 16 0, .runFails 0
      0 16, .stippleLost 16 0, .stippleLost 0 16, .residue 16 0 0 0 true [], .residue 0 16 0 0 true [],
      .residue 0 0 16 0 true [], .residue 0 0 0 32 true [], .residue 0 0 0 0 true [2 ^ 64], .seqCorrected 16, .seqLost 16, .seqResidue 16,
      .hbm { gXfer with addr := 12 * 2 ^ 36 }, .hbm { gXfer with fail := ⟨256, false⟩ }] :
      List Machine.HwEvent).all (fun x => !x.wf) = true := by
  decide +kernel

theorem test_wf_commands_1 :
    refuses (.bootStart gBoot)
      [(.bootStart { gBoot with bootSel := 4 })] ∧
    refuses (.configRequest 0 none none)
      [(.configRequest (2 ^ 16) none none)] ∧
    refuses (.bar2Read 0 0 ⟨0, []⟩)
      [(.bar2Read (2 ^ 16) 0 ⟨0, []⟩), (.bar2Read 0 (2 ^ 36) ⟨1, []⟩), (.bar2Read 0 0 ⟨0, [{ gXfer with addr := 12 * 2 ^ 36 }]⟩)] ∧
    refuses (.bar2Write 0 0 ⟨[], []⟩)
      [(.bar2Write (2 ^ 16) 0 ⟨[], []⟩), (.bar2Write 0 (2 ^ 36) ⟨[0], []⟩), (.bar2Write 0 0 ⟨[], [{ gXfer with addr := 12 * 2 ^ 36 }]⟩)] ∧
    refuses (.cxlMemRead 0 0 [] gFine)
      [(.cxlMemRead (2 ^ 16) 0 [] gFine), (.cxlMemRead 0 0xC000000000 [] gFine), (.cxlMemRead 0 0 [⟨38, 1⟩] gFine), (.cxlMemRead 0 0 []
        ⟨256, false⟩)] ∧
    refuses (.cxlMemWrite 0 0 [] gFine)
      [(.cxlMemWrite (2 ^ 16) 0 [] gFine), (.cxlMemWrite 0 0xC000000000 [] gFine), (.cxlMemWrite 0 0 (zeros 65) gFine), (.cxlMemWrite
        0 0 [] ⟨256, false⟩)] ∧
    refuses (.registerWrite 0 0 4 0)
      [(.registerWrite (2 ^ 16) 0 4 0), (.registerWrite 0 (2 ^ 26) 4 0), (.registerWrite 0 0 0 0), (.registerWrite 0 0 9
        0), (.registerWrite 0 0 4 (2 ^ 64))] ∧
    refuses (.doorbell 0 0 0 [])
      [(.doorbell (2 ^ 16) 0 0 []), (.doorbell 0 256 0 []), (.doorbell 0 0 (2 ^ 64) []), (.doorbell 0 0 0 [(2 ^ 64, 0)])] ∧
    refuses (.ticketReread 0 [])
      [(.ticketReread 256 []), (.ticketReread 0 [(2 ^ 64, 0)])] ∧
    refuses (.hifRgEn 0 0 0)
      [(.hifRgEn (2 ^ 16) 0 0), (.hifRgEn 0 256 0), (.hifRgEn 0 0 (2 ^ 64))] ∧
    refuses (.ringDisable 0 0 0)
      [(.ringDisable (2 ^ 16) 0 0), (.ringDisable 0 256 0), (.ringDisable 0 0 (2 ^ 64))] ∧
    refuses (.hifRgResume 0 0 [])
      [(.hifRgResume (2 ^ 16) 0 []), (.hifRgResume 0 256 []), (.hifRgResume 0 0 [(2 ^ 64, 0)])] ∧
    refuses (.hifHostPool 0 0)
      [(.hifHostPool (2 ^ 16) 0), (.hifHostPool 0 (2 ^ 64))] ∧
    refuses (.hifHostRid 0 0)
      [(.hifHostRid (2 ^ 16) 0), (.hifHostRid 0 (2 ^ 64))] ∧
    refuses (.hifApertureSync 0)
      [(.hifApertureSync (2 ^ 16))] ∧
    refuses (.hifDmaFence 0)
      [(.hifDmaFence (2 ^ 16))] ∧
    refuses (.timeNs 0)
      [(.timeNs (2 ^ 16))] ∧
    refuses (.impQuery 0 0)
      [(.impQuery (2 ^ 16) 0), (.impQuery 0 (2 ^ 64))] ∧
    refuses (.mrkXlate 0 0)
      [(.mrkXlate (2 ^ 16) 0), (.mrkXlate 0 (2 ^ 64))] ∧
    refuses (.dbgMarkSet 0 0)
      [(.dbgMarkSet (2 ^ 16) 0), (.dbgMarkSet 0 (2 ^ 64))] ∧
    refuses (.rcWays 0 0 0)
      [(.rcWays (2 ^ 16) 0 0), (.rcWays 0 20 0), (.rcWays 0 0 (2 ^ 64))] ∧
    refuses (.rcWaysApply 0)
      [(.rcWaysApply 20)] ∧
    refuses (.clean 0 0 0 false)
      [(.clean (2 ^ 16) 0 0 false), (.clean 0 20 0 false), (.clean 0 0 16 false)] ∧
    refuses (.invalidate 0 0 0 false)
      [(.invalidate (2 ^ 16) 0 0 false), (.invalidate 0 20 0 false), (.invalidate 0 0 16 false)] := by
  decide +kernel

theorem test_wf_commands_2 :
    refuses (.cleanInvalidate 0 0 0 false)
      [(.cleanInvalidate (2 ^ 16) 0 0 false), (.cleanInvalidate 0 20 0 false), (.cleanInvalidate 0 0 16 false)] ∧
    refuses (.zero 0 0 0 false)
      [(.zero (2 ^ 16) 0 0 false), (.zero 0 20 0 false), (.zero 0 0 16 false)] ∧
    refuses (.rangeDone 0)
      [(.rangeDone 20)] ∧
    refuses (.readMap 0 0 0 0 0)
      [(.readMap (2 ^ 16) 0 0 0 0), (.readMap 0 12 0 0 0), (.readMap 0 0 64 0 0), (.readMap 0 0 0 32 0), (.readMap 0 0 0 0
        (2 ^ 15))] ∧
    refuses (.forceRepair 0 0 0 0 0)
      [(.forceRepair (2 ^ 16) 0 0 0 0), (.forceRepair 0 12 0 0 0), (.forceRepair 0 0 64 0 0), (.forceRepair 0 0 0 32 0),
        (.forceRepair 0 0 0 0 (2 ^ 15))] ∧
    refuses (.testPc 0 0 0 0 0 false)
      [(.testPc (2 ^ 16) 0 0 0 0 false), (.testPc 0 12 0 0 0 false), (.testPc 0 0 64 0 0 false), (.testPc 0 0 0 32 0
        false), (.testPc 0 0 0 0 (2 ^ 15) false)] ∧
    refuses (.returnPc 0 0 0 0 0)
      [(.returnPc (2 ^ 16) 0 0 0 0), (.returnPc 0 12 0 0 0), (.returnPc 0 0 64 0 0), (.returnPc 0 0 0 32 0), (.returnPc 0
        0 0 0 (2 ^ 15))] ∧
    refuses (.proof 0 0)
      [(.proof 272 0), (.proof 0 (2 ^ 32))] ∧
    refuses (.coalesceTimeout 0)
      [(.coalesceTimeout 256)] ∧
    refuses (.nop 0 0)
      [(.nop 272 0), (.nop 0 (2 ^ 32))] ∧
    refuses (.formeLoad 0 (tin 0))
      [(.formeLoad 272 (tin 0)), (.formeLoad 0 (tin (2 ^ 32)))] ∧
    refuses (.chaseStart 0 0)
      [(.chaseStart 272 0), (.chaseStart 0 (2 ^ 32))] ∧
    refuses (.chaseStop 0 0)
      [(.chaseStop 272 0), (.chaseStop 0 (2 ^ 32))] ∧
    refuses (.chaseTeardown 0 0)
      [(.chaseTeardown 272 0), (.chaseTeardown 0 (2 ^ 32))] ∧
    refuses (.load 0 (tin 0))
      [(.load 272 (tin 0)), (.load 0 (tin (2 ^ 32)))] ∧
    refuses (.setBlank 0 0)
      [(.setBlank 272 0), (.setBlank 0 (2 ^ 32))] ∧
    refuses (.seal 0 0)
      [(.seal 272 0), (.seal 0 (2 ^ 32))] ∧
    refuses (.abort 0 0)
      [(.abort 272 0), (.abort 0 (2 ^ 32))] ∧
    refuses (.galleySwitch 0 0)
      [(.galleySwitch 272 0), (.galleySwitch 0 (2 ^ 32))] ∧
    refuses (.switchCommit 0 0)
      [(.switchCommit 16 0), (.switchCommit 0 (2 ^ 32))] ∧
    refuses (.galleyRead 0 (tin 0))
      [(.galleyRead 272 (tin 0)), (.galleyRead 0 (tin (2 ^ 32)))] ∧
    refuses (.dataWrite 0 (tin 0))
      [(.dataWrite 272 (tin 0)), (.dataWrite 0 (tin (2 ^ 32)))] ∧
    refuses (.dataRead 0 (tin 0))
      [(.dataRead 272 (tin 0)), (.dataRead 0 (tin (2 ^ 32)))] ∧
    refuses (.sample 0 (tin 0))
      [(.sample 272 (tin 0)), (.sample 0 (tin (2 ^ 32)))] := by
  decide +kernel

theorem test_wf_commands_3 :
    refuses (.impHint 0 0)
      [(.impHint 272 0), (.impHint 0 (2 ^ 32))] ∧
    refuses (.markOp 0 0)
      [(.markOp 272 0), (.markOp 0 (2 ^ 32))] ∧
    refuses (.markWait 0 0)
      [(.markWait 272 0), (.markWait 0 (2 ^ 32))] ∧
    refuses (.qpCreate 0 0)
      [(.qpCreate 272 0), (.qpCreate 0 (2 ^ 32))] ∧
    refuses (.qpDestroy 0 0)
      [(.qpDestroy 272 0), (.qpDestroy 0 (2 ^ 32))] ∧
    refuses (.mrRegister 0 0)
      [(.mrRegister 272 0), (.mrRegister 0 (2 ^ 32))] ∧
    refuses (.mrDeregister 0 0)
      [(.mrDeregister 272 0), (.mrDeregister 0 (2 ^ 32))] ∧
    refuses (.coreJob 0 0 [] [])
      [(.coreJob 272 0 [] []), (.coreJob 0 (2 ^ 32) [] []), (.coreJob 0 0 [(2 ^ 32, zeros 512)] []), (.coreJob 0 0 [(0,
        [])] []), (.coreJob 0 0 [] [{ gCore with qpn := 2 ^ 24 }])] ∧
    refuses (.lockUp 0 0 [])
      [(.lockUp 16 0 []), (.lockUp 0 (2 ^ 40) []), (.lockUp 0 0 [⟨2 ^ 32, 0, 0, gSlug⟩])] ∧
    refuses (.lockupBudgetEnd 0)
      [(.lockupBudgetEnd 16)] ∧
    refuses (.lateRun 0)
      [(.lateRun 16)] ∧
    refuses (.done 0 0 0)
      [(.done 16 0 0), (.done 0 32768 0), (.done 0 0 (2 ^ 64))] ∧
    refuses (.slip 0)
      [(.slip 16)] ∧
    refuses (.verdict 0 0 false 0 [])
      [(.verdict 16 0 false 0 []), (.verdict 0 (2 ^ 64) false 0 []), (.verdict 0 0 false (2 ^ 64) []), (.verdict 0 0 false
        0 [(2 ^ 32, 0)]), (.verdict 0 0 false 0 [(0, 2 ^ 32)])] ∧
    refuses (.verdictTimeout 0)
      [(.verdictTimeout 16)] ∧
    refuses (.join 0 0 (zeros 32) 0)
      [(.join 16 0 (zeros 32) 0), (.join 0 32768 (zeros 32) 0), (.join 0 0 [] 0), (.join 0 0 (zeros 32) (2 ^ 32))] ∧
    refuses (.joinTimeout 0)
      [(.joinTimeout 16)] ∧
    refuses (.start 0 0 0 0)
      [(.start 16 0 0 0), (.start 0 (2 ^ 64) 0 0), (.start 0 0 (2 ^ 64) 0), (.start 0 0 0 (2 ^ 16))] ∧
    refuses (.stop 0 0 0)
      [(.stop 16 0 0), (.stop 0 32768 0), (.stop 0 0 (2 ^ 64))] ∧
    refuses (.fault 0 0)
      [(.fault 16 0), (.fault 0 32768)] ∧
    refuses (.switchReq 0 0 0 0)
      [(.switchReq 16 0 0 0), (.switchReq 0 32768 0 0), (.switchReq 0 0 (2 ^ 32) 0), (.switchReq 0 0 0 (2 ^ 32))] ∧
    refuses (.summary 0 0 0 gSum)
      [(.summary 16 0 0 gSum), (.summary 0 32768 0 gSum), (.summary 0 0 256 gSum), (.summary 0 0 0 { gSum with sum := 2 ^
        191 })] ∧
    refuses (.summaryResult 0 0 gSum)
      [(.summaryResult 16 0 gSum), (.summaryResult 0 256 gSum), (.summaryResult 0 0 { gSum with sum := 2 ^ 191 })] ∧
    refuses (.gather 0 [])
      [(.gather 16 []), (.gather 0 [.runFails 16 0 0])] := by
  decide +kernel

theorem test_wf_commands_4 :
    refuses (.split 0 [])
      [(.split 16 []), (.split 0 [.runFails 16 0 0])] ∧
    refuses (.serve 0 [])
      [(.serve 16 []), (.serve 0 [.runFails 16 0 0])] ∧
    refuses (.combine 0 [])
      [(.combine 16 []), (.combine 0 [.runFails 16 0 0])] ∧
    refuses (.scatter 0 [] [])
      [(.scatter 16 [] []), (.scatter 0 [.runFails 16 0 0] [])] ∧
    refuses (.dense 0 [])
      [(.dense 16 []), (.dense 0 [.runFails 16 0 0])] ∧
    refuses (.sparse 0 [])
      [(.sparse 16 []), (.sparse 0 [.runFails 16 0 0])] ∧
    refuses (.aggregate 0 [] [])
      [(.aggregate 16 [] []), (.aggregate 0 [.runFails 16 0 0] [])] ∧
    refuses (.frontier 0 [])
      [(.frontier 16 []), (.frontier 0 [.runFails 16 0 0])] ∧
    refuses (.tint 0 [])
      [(.tint 16 []), (.tint 0 [.runFails 16 0 0])] ∧
    refuses (.reduce 0 [])
      [(.reduce 16 []), (.reduce 0 [.runFails 16 0 0])] ∧
    refuses (.exchange 0 ⟨[], []⟩)
      [(.exchange 16 ⟨[], []⟩), (.exchange 0 ⟨[.runFails 16 0 0], []⟩), (.exchange 0 ⟨[], [(32768, 0)]⟩), (.exchange 0 ⟨[], [(0, 2 ^ 40)]⟩)] ∧
    refuses (.publish 0 [])
      [(.publish 16 []), (.publish 0 [.runFails 16 0 0])] ∧
    refuses (.switch 0 [])
      [(.switch 16 []), (.switch 0 [.runFails 16 0 0])] ∧
    refuses (.stateAbort 0 [])
      [(.stateAbort 16 []), (.stateAbort 0 [.runFails 16 0 0])] ∧
    refuses (.hold 0)
      [(.hold 16)] ∧
    refuses (.branch 0)
      [(.branch 16)] ∧
    refuses (.plateComplete 0 0)
      [(.plateComplete 16 0), (.plateComplete 0 16)] ∧
    refuses (.openZero gCell 0 gShape)
      [(.openZero { gCell with region := 16 } 0 gShape), (.openZero gCell 8 gShape), (.openZero gCell 0 { gShape with rows
        := 33 })] ∧
    refuses (.openLoad gCell 0 gShape [])
      [(.openLoad { gCell with region := 16 } 0 gShape []), (.openLoad gCell 8 gShape []), (.openLoad gCell 0 { gShape
        with rows := 33 } []), (.openLoad gCell 0 gShape [[]])] ∧
    refuses (.feed gCell 0 gFeed)
      [(.feed { gCell with region := 16 } 0 gFeed), (.feed gCell 8 gFeed), (.feed gCell 0 { gFeed with row := 32 })] ∧
    refuses (.addWide gCell 0 0 0 (zeros 32))
      [(.addWide { gCell with region := 16 } 0 0 0 (zeros 32)), (.addWide gCell 8 0 0 (zeros 32)), (.addWide gCell 0 32 0
        (zeros 32)), (.addWide gCell 0 0 32 (zeros 32)), (.addWide gCell 0 0 0 [])] ∧
    refuses (.close gCell 0 0)
      [(.close { gCell with region := 16 } 0 0), (.close gCell 8 0), (.close gCell 0 (2 ^ 32))] ∧
    refuses (.tintNop gCell gMu)
      [(.tintNop { gCell with region := 16 } gMu), (.tintNop gCell { gMu with dst := 32 })] ∧
    refuses (.add gCell gMu)
      [(.add { gCell with region := 16 } gMu), (.add gCell { gMu with dst := 32 })] := by
  decide +kernel

theorem test_wf_commands_5 :
    refuses (.sub gCell gMu)
      [(.sub { gCell with region := 16 } gMu), (.sub gCell { gMu with dst := 32 })] ∧
    refuses (.mul gCell gMu)
      [(.mul { gCell with region := 16 } gMu), (.mul gCell { gMu with dst := 32 })] ∧
    refuses (.mulh gCell gMu)
      [(.mulh { gCell with region := 16 } gMu), (.mulh gCell { gMu with dst := 32 })] ∧
    refuses (.mulhu gCell gMu)
      [(.mulhu { gCell with region := 16 } gMu), (.mulhu gCell { gMu with dst := 32 })] ∧
    refuses (.shl gCell gMu)
      [(.shl { gCell with region := 16 } gMu), (.shl gCell { gMu with dst := 32 })] ∧
    refuses (.shr gCell gMu)
      [(.shr { gCell with region := 16 } gMu), (.shr gCell { gMu with dst := 32 })] ∧
    refuses (.sra gCell gMu)
      [(.sra { gCell with region := 16 } gMu), (.sra gCell { gMu with dst := 32 })] ∧
    refuses (.min gCell gMu)
      [(.min { gCell with region := 16 } gMu), (.min gCell { gMu with dst := 32 })] ∧
    refuses (.max gCell gMu)
      [(.max { gCell with region := 16 } gMu), (.max gCell { gMu with dst := 32 })] ∧
    refuses (.abs gCell gMu)
      [(.abs { gCell with region := 16 } gMu), (.abs gCell { gMu with dst := 32 })] ∧
    refuses (.cmpeq gCell gMu)
      [(.cmpeq { gCell with region := 16 } gMu), (.cmpeq gCell { gMu with dst := 32 })] ∧
    refuses (.cmplt gCell gMu)
      [(.cmplt { gCell with region := 16 } gMu), (.cmplt gCell { gMu with dst := 32 })] ∧
    refuses (.cmpltu gCell gMu)
      [(.cmpltu { gCell with region := 16 } gMu), (.cmpltu gCell { gMu with dst := 32 })] ∧
    refuses (.cmple gCell gMu)
      [(.cmple { gCell with region := 16 } gMu), (.cmple gCell { gMu with dst := 32 })] ∧
    refuses (.sel gCell gMu)
      [(.sel { gCell with region := 16 } gMu), (.sel gCell { gMu with dst := 32 })] ∧
    refuses (.clamp gCell gMu)
      [(.clamp { gCell with region := 16 } gMu), (.clamp gCell { gMu with dst := 32 })] ∧
    refuses (.req gCell gMu)
      [(.req { gCell with region := 16 } gMu), (.req gCell { gMu with dst := 32 })] ∧
    refuses (.lut gCell gMu)
      [(.lut { gCell with region := 16 } gMu), (.lut gCell { gMu with dst := 32 })] ∧
    refuses (.rcp gCell gMu)
      [(.rcp { gCell with region := 16 } gMu), (.rcp gCell { gMu with dst := 32 })] ∧
    refuses (.exp2 gCell gMu)
      [(.exp2 { gCell with region := 16 } gMu), (.exp2 gCell { gMu with dst := 32 })] ∧
    refuses (.perm gCell gMu)
      [(.perm { gCell with region := 16 } gMu), (.perm gCell { gMu with dst := 32 })] ∧
    refuses (.add192 gCell gMu)
      [(.add192 { gCell with region := 16 } gMu), (.add192 gCell { gMu with dst := 32 })] ∧
    refuses (.movi gCell gMu)
      [(.movi { gCell with region := 16 } gMu), (.movi gCell { gMu with dst := 32 })] ∧
    refuses (.signal 0 0 0)
      [(.signal (2 ^ 16) 0 0), (.signal 0 16384 0), (.signal 0 0 (2 ^ 16))] := by
  decide +kernel

theorem test_wf_commands_6 :
    refuses (.take 0 0 0)
      [(.take (2 ^ 16) 0 0), (.take 0 16384 0), (.take 0 0 (2 ^ 16))] ∧
    refuses (.waitLend 0)
      [(.waitLend 16)] ∧
    refuses (.deadlockReport 0)
      [(.deadlockReport 16)] ∧
    refuses (.atomicAdd 0 0 0)
      [(.atomicAdd 16 0 0), (.atomicAdd 0 (2 ^ 44) 0), (.atomicAdd 0 0 (-(2 ^ 63) - 1)), (.atomicAdd 0 0 (2 ^ 63))] ∧
    refuses (.minIdx 0 0 0 0)
      [(.minIdx 16 0 0 0), (.minIdx 0 (2 ^ 44) 0 0), (.minIdx 0 0 (-(2 ^ 63) - 1) 0), (.minIdx 0 0 (2 ^ 63) 0), (.minIdx 0
        0 0 (2 ^ 40))] ∧
    refuses (.maxIdx 0 0 0 0)
      [(.maxIdx 16 0 0 0), (.maxIdx 0 (2 ^ 44) 0 0), (.maxIdx 0 0 (-(2 ^ 63) - 1) 0), (.maxIdx 0 0 (2 ^ 63) 0), (.maxIdx 0
        0 0 (2 ^ 40))] ∧
    refuses (.cas 0 0 0 0)
      [(.cas 16 0 0 0), (.cas 0 (2 ^ 44) 0 0), (.cas 0 0 (2 ^ 64) 0), (.cas 0 0 0 (2 ^ 64))] ∧
    refuses (.xchg 0 0 0)
      [(.xchg 16 0 0), (.xchg 0 (2 ^ 44) 0), (.xchg 0 0 (2 ^ 64))] ∧
    refuses (.mbDrain 0)
      [(.mbDrain 0x300000000)] ∧
    refuses (.hbmTemp 0 0)
      [(.hbmTemp 12 0), (.hbmTemp 0 256)] ∧
    refuses (.scrub 0 0 0 0 [] gFine)
      [(.scrub 12 0 0 0 [] gFine), (.scrub 0 64 0 0 [] gFine), (.scrub 0 0 (2 ^ 24) 0 [] gFine), (.scrub 0 0 0 2 [] gFine), (.scrub
        0 0 0 0 [⟨19, 1⟩] gFine), (.scrub 0 0 0 0 [] ⟨256, false⟩)] ∧
    refuses (.stackOffline 0)
      [(.stackOffline 12)] ∧
    refuses (.lossOfSignal 0)
      [(.lossOfSignal 96)] ∧
    refuses (.signalPresent 0)
      [(.signalPresent 96)] ∧
    refuses (.trainingComplete 0 false gHello)
      [(.trainingComplete 96 false gHello), (.trainingComplete 0 false { gHello with link := 96 })] ∧
    refuses (.trainingRetry 0)
      [(.trainingRetry 96)] ∧
    refuses (.hello 0 gHello)
      [(.hello 96 gHello), (.hello 0 { gHello with link := 96 })] ∧
    refuses (.helloTimeout 0)
      [(.helloTimeout 96)] ∧
    refuses (.lsr 0 gLsr)
      [(.lsr 96 gLsr), (.lsr 0 { gLsr with node := 2 ^ 15 })] ∧
    refuses (.lsrExpiry 0)
      [(.lsrExpiry (2 ^ 64))] ∧
    refuses (.flit 0 [] [] 0 gFlit)
      [(.flit 96 [] [] 0 gFlit), (.flit 0 [1024] [] 0 gFlit), (.flit 0 [] [64] 0 gFlit), (.flit 0 [] [] (2 ^ 32) gFlit),
       (.flit 0 [] [] 0 { gFlit with typ := 256 })] ∧
    refuses (.ackIdle 0)
      [(.ackIdle 96)] ∧
    refuses (.write gFlit)
      [(.write { gFlit with typ := 256 })] ∧
    refuses (.append gFlit)
      [(.append { gFlit with typ := 256 })] := by
  decide +kernel

theorem test_wf_commands_7 :
    refuses (.ack gFlit)
      [(.ack { gFlit with typ := 256 })] ∧
    refuses (.fabricSignal gFlit)
      [(.fabricSignal { gFlit with typ := 256 })] ∧
    refuses (.e2eTimeout 0 0)
      [(.e2eTimeout (2 ^ 15) 0), (.e2eTimeout 0 (2 ^ 32))] ∧
    refuses (.time 0 0 [] 0 0 0)
      [(.time 96 0 [] 0 0 0), (.time 0 4 [] 0 0 0), (.time 0 0 [2 ^ 80] 0 0 0), (.time 0 0 [] 256 0 0), (.time 0 0 [] 0 8
        0), (.time 0 0 [] 0 0 (2 ^ 64))] ∧
    refuses (.timeTick 0)
      [(.timeTick 96)] ∧
    refuses (.send gRoce)
      [(.send { gRoce with port := 4 })] ∧
    refuses (.rdmaWrite gRoce)
      [(.rdmaWrite { gRoce with port := 4 })] ∧
    refuses (.rdmaRead gRoce)
      [(.rdmaRead { gRoce with port := 4 })] ∧
    refuses (.arp gAsk)
      [(.arp { gAsk with port := 4 })] ∧
    refuses (.neighbourDiscovery gAsk)
      [(.neighbourDiscovery { gAsk with port := 4 })] ∧
    refuses (.otherFrame gFrame)
      [(.otherFrame { gFrame with port := 4 })] ∧
    refuses (.cnp gFrame 0)
      [(.cnp { gFrame with port := 4 } 0), (.cnp gFrame (2 ^ 24))] ∧
    refuses (.climbTick 0)
      [(.climbTick (2 ^ 24))] ∧
    refuses (.roceAckTimeout 0)
      [(.roceAckTimeout (2 ^ 24))] ∧
    refuses (.ethRetrain 0 false)
      [(.ethRetrain 4 false)] ∧
    refuses (.inkBaseSample 0)
      [(.inkBaseSample (2 ^ 16))] ∧
    refuses (.powerClamp 0)
      [(.powerClamp 65)] ∧
    refuses (.tempSample 0 0 0 0)
      [(.tempSample 256 0 0 0), (.tempSample 0 256 0 0), (.tempSample 0 0 256 0), (.tempSample 0 0 0 256)] ∧
    refuses (.ppsEdge 0)
      [(.ppsEdge (2 ^ 40))] ∧
    refuses (.seqWatchdog 0 0)
      [(.seqWatchdog 16 0), (.seqWatchdog 0 16)] ∧
    refuses (.coreRestart 0)
      [(.coreRestart 16)] ∧
    refuses (.spareTest [])
      [(.spareTest [(4, 0, 0, 0)]), (.spareTest [(0, 20, 0, 0)])] ∧
    refuses (.getChallenge none [] true)
      [(.getChallenge (some (2 ^ 16)) [] true), (.getChallenge none (zeros 16385) true)] ∧
    refuses (.challengeLapse 0)
      [(.challengeLapse (2 ^ 64))] := by
  decide +kernel

theorem test_wf_commands_8 :
    refuses (.readColophon none [] false)
      [(.readColophon (some (2 ^ 16)) [] false), (.readColophon none (zeros 16385) false)] ∧
    refuses (.getIdentity none [] false)
      [(.getIdentity (some (2 ^ 16)) [] false), (.getIdentity none (zeros 16385) false)] ∧
    refuses (.setEnvelope none [] false)
      [(.setEnvelope (some (2 ^ 16)) [] false), (.setEnvelope none (zeros 16385) false)] ∧
    refuses (.setNodeId none [] false)
      [(.setNodeId (some (2 ^ 16)) [] false), (.setNodeId none (zeros 16385) false)] ∧
    refuses (.setFabric none [] false)
      [(.setFabric (some (2 ^ 16)) [] false), (.setFabric none (zeros 16385) false)] ∧
    refuses (.fwStage none [] false)
      [(.fwStage (some (2 ^ 16)) [] false), (.fwStage none (zeros 16385) false)] ∧
    refuses (.setNetId none [] false)
      [(.setNetId (some (2 ^ 16)) [] false), (.setNetId none (zeros 16385) false)] ∧
    refuses (.debugSession none [] false)
      [(.debugSession (some (2 ^ 16)) [] false), (.debugSession none (zeros 16385) false)] ∧
    refuses (.fenceWrite none [] false)
      [(.fenceWrite (some (2 ^ 16)) [] false), (.fenceWrite none (zeros 16385) false)] ∧
    refuses (.enrol none [] false)
      [(.enrol (some (2 ^ 16)) [] false), (.enrol none (zeros 16385) false)] ∧
    refuses (.debugUnlock none [] false)
      [(.debugUnlock (some (2 ^ 16)) [] false), (.debugUnlock none (zeros 16385) false)] ∧
    refuses (.repairAccess none [] false)
      [(.repairAccess (some (2 ^ 16)) [] false), (.repairAccess none (zeros 16385) false)] ∧
    refuses (.zeroise none [] false)
      [(.zeroise (some (2 ^ 16)) [] false), (.zeroise none (zeros 16385) false)] ∧
    refuses (.authEnd 0)
      [(.authEnd 3)] ∧
    refuses (.getCertificate 0 0 0)
      [(.getCertificate 8 0 0), (.getCertificate 0 (2 ^ 16) 0), (.getCertificate 0 0 (2 ^ 16))] ∧
    refuses (.challenge 0 (zeros 32))
      [(.challenge 8 (zeros 32)), (.challenge 0 [])] ∧
    refuses (.getMeasurements 0 false)
      [(.getMeasurements 256 false)] ∧
    refuses (.registerRead 0 0 4)
      [(.registerRead (2 ^ 16) 0 4), (.registerRead 0 (2 ^ 26) 4), (.registerRead 0 0 0), (.registerRead 0 0 9)] ∧
    refuses (.idleRegionSubstitution 0)
      [(.idleRegionSubstitution 20)] ∧
    refuses (.setPointWrite 0 0 false)
      [(.setPointWrite 4 0 false), (.setPointWrite 0 (2 ^ 16) false)] ∧
    refuses (.backInvalidateResponse 0)
      [(.backInvalidateResponse 0x300000000)] ∧
    refuses (.cxlCacheSnoop 0)
      [(.cxlCacheSnoop (2 ^ 58))] ∧
    refuses (.roceAcknowledgement gFrame 0 0 0)
      [(.roceAcknowledgement { gFrame with port := 4 } 0 0 0), (.roceAcknowledgement gFrame (2 ^ 24) 0 0), (.roceAcknowledgement
        gFrame 0 (2 ^ 24) 0), (.roceAcknowledgement gFrame 0 0 5)] ∧
    refuses (.readResponse gFrame 0 0 [])
      [(.readResponse { gFrame with port := 4 } 0 0 []), (.readResponse gFrame (2 ^ 24) 0 []), (.readResponse gFrame 0 (2 ^ 24) []),
        (.readResponse gFrame 0 0 (zeros 4097))] := by
  decide +kernel

theorem test_wf_commands_9 :
    refuses (.boundaryScan 0)
      [(.boundaryScan 4)] := by
  decide +kernel

/-! ### States and operands that meet the hypotheses -/

/-- Fields of registers set: field, number of the register, value. -/
def put (s : State) (l : List (Field × Nat × Nat)) : State := l.foldl (fun s e => s.setF e.1 e.2.1 e.2.2) s

/-- The block out of reset in a boot stage, with the PCIe link up, requester 7 in the host set, every logical region
mapped to the physical one of its number, and every stack online. -/
def up (stage : Nat) : State :=
  put { State.reset with
      pw := { State.reset.pw with held := false, pcieUp := true }
      host := { State.reset.host with hostSet := [7] } }
    ([(Fld.sysBootStage, 0, stage), (Fld.inkInstallW, 0, 600), (Fld.inkClampW, 0, 600)] ++ (List.range 12).map (fun k => (Fld.hbmState, k, 1)) ++
      (List.range 16).flatMap fun k => [(Fld.sysMapValid (k % 8), k / 8, 1), (Fld.sysMapPhys (k % 8), k / 8, k)])

def rdy : State := up stageReady
def bup : State := up stageBringUp

/-- The fields of a ticket. -/
structure Tk where
  op : Nat
  slot : Nat := 0
  src : Nat := 0
  dst : Nat := 0
  len : Nat := 0
  srcSpace : Nat := 0
  dstSpace : Nat := 0
  sub : Nat := 0
  arg0 : Nat := 0
  args : Nat := 0
  inline : Bytes := []
  seq : Nat := 0
  crc : Nat := 0
  flags : Nat := 0

/-- The 512 bytes of a ticket (R671). -/
def Tk.raw (t : Tk) : Bytes :=
  natLe 2 t.op ++ natLe 2 t.flags ++ natLe 4 t.seq ++ zeros 8 ++ natLe 1 t.slot ++ zeros 1 ++ natLe 2 t.inline.length ++ natLe 4 t.crc ++
    zeros 8 ++ natLe 8 t.src ++ natLe 8 t.dst ++ natLe 8 t.len ++ natLe 1 t.srcSpace ++ natLe 1 t.dstSpace ++ natLe 2 t.sub ++
    natLe 4 t.arg0 ++ natLe 64 t.args ++ t.inline ++ zeros (384 - t.inline.length)

/-- The ticket, begun as number 5 of ring 0. -/
def Tk.tk (t : Tk) : Ticket := ⟨0, 5, t.raw, WorkCnt.zero, false, false, 0, [], 0, none, 0, 0, [], [], false⟩

/-- The state with the ticket begun. -/
def begin (s : State) (t : Tk) : State := { s with host := { s.host with tickets := [t.tk] } }

theorem kv_waits_nil : ∀ (l : List (Nat × MarkRt)) (n : Nat), (l.all fun m => m.2.waits.isEmpty) = true →
    ((kvGet l n).getD ⟨0, 0, none, []⟩).waits = []
  | [], _, _ => rfl
  | (k, v) :: t, n, h => by
    simp only [List.all_cons, Bool.and_eq_true, List.isEmpty_iff] at h
    unfold kvGet
    split
    · exact h.1
    · split
      · rfl
      · exact kv_waits_nil t n h.2

theorem mark_waits_nil {s : State} (h : (s.marks.all fun m => m.2.waits.isEmpty) = true) (n : Nat) : (s.mark n).waits = [] :=
  kv_waits_nil s.marks n h

/-- The checks of `State.atTurn` at once, for a state in which nothing waits on a mark. -/
theorem at_turn {s : State} {ring seq op : Nat} {x : Ticket}
    (h : (s.marks.all fun m => m.2.waits.isEmpty) = true ∧ s.isReady = true ∧ s.ticket? ring seq = some x ∧ x.acted = false ∧
      x.done = false ∧ tkOpcode x.raw = op ∧ (isChaseTicket op = true → s.chaseOrderOk x = true) ∧
      s.ticketCheck ring x.raw = none ∧ s.galleyWaits x = false) : s.atTurn ring seq op x :=
  ⟨h.2.1, h.2.2.1, ⟨h.2.2.2.1, h.2.2.2.2.1⟩, h.2.2.2.2.2.1, h.2.2.2.2.2.2.1, h.2.2.2.2.2.2.2.1, fun n f hc => by
    simp [mark_waits_nil h.1 n] at hc, h.2.2.2.2.2.2.2.2⟩

/-! A forme of its sections, laid out from the end of the directory on, with digests by `h` (R50 to R55). -/

def placed : Nat → List (Nat × Bytes) → List (Nat × Nat × Bytes)
  | _, [] => []
  | p, e :: t => (e.1, p, e.2) :: placed ((p + e.2.length + 63) / 64 * 64) t

def laidOut : Nat → List (Nat × Nat × Bytes) → Bytes
  | _, [] => []
  | p, e :: t => zeros (e.2.1 - p) ++ e.2.2 ++ laidOut (e.2.1 + e.2.2.length) t

def formeOf (h : Bytes → Bytes) (secs : List (Nat × Bytes)) : Bytes :=
  let es := placed ((128 + 48 * secs.length + 63) / 64 * 64) secs
  let dir := es.flatMap fun e => natLe 2 e.1 ++ natLe 2 1 ++ natLe 4 e.2.1 ++ natLe 4 e.2.2.length ++ zeros 4 ++ h e.2.2
  let body := laidOut (128 + 48 * secs.length) es
  let used := 128 + 48 * secs.length + body.length
  let total := max 1024 ((used + 63) / 64 * 64)
  let head := natLe 4 0x454D524F ++ [0, 1] ++ natLe 2 128 ++ natLe 4 total ++ natLe 2 secs.length ++ zeros 50 ++ h dir
  head ++ h head ++ dir ++ body ++ zeros (total - used)

/-- A plate: opcode, and the fields of its descriptor that are not as in a plate without tint, chain, galley, marks and
addresses. -/
structure Pl where
  op : Nat
  galley : Nat := 0xFFFFFFFF
  sig : Nat := 0xFFFF
  next : Nat := 0
  alt : Nat := 0
  src : Nat := 0
  dst : Nat := 0
  count : Nat := 0
  args : Nat := 0
  summary : Nat := 0
  tint : Nat := 0xFFFF

def Pl.raw (p : Pl) : Bytes :=
  natLe 1 p.op ++ [0, 0xFF, 0] ++ natLe 2 p.tint ++ natLe 2 0xFFFF ++ natLe 4 p.galley ++ natLe 2 0xFFFF ++ natLe 2 p.sig ++
    natLe 4 p.next ++ natLe 4 p.alt ++ natLe 8 p.src ++ natLe 8 p.dst ++ natLe 8 p.count ++ natLe 8 p.args ++ natLe 8 p.summary

/-- The sections of a forme: partition tag and members (node, regions), plates, galley declarations. -/
def chaseForme (h : Bytes → Bytes) (tag : Nat) (members : List (Nat × Nat)) (pl : List Pl) (gal : List Bytes) : Bytes :=
  formeOf h ([(1, natLe 4 tag ++ natLe 4 members.length ++ members.flatMap fun m => natLe 2 m.1 ++ natLe 6 m.2),
    (2, zeros 264), (3, zeros 32), (4, natLe 8 0x0101),
    (5, natLe 64 pl.length ++ pl.flatMap (·.raw))] ++
    (if gal.isEmpty then [] else [(7, natLe 64 gal.length ++ gal.flatMap id)]) ++ [(8, natLe 8 1 ++ natLe 8 (100 * 2 ^ 16))])

/-- A galley declaration: 4 elements of 8 bits, 8 slugs, trainable. -/
def decl (id placement : Nat) : Bytes := natLe 4 id ++ natLe 2 4 ++ natLe 1 0 ++ natLe 1 placement ++ natLe 8 8 ++ natLe 48 4

/-- The SHA-256 digests of the parts of `fLoad`, worked out outside the model; a part is named by its length plus its
byte 4. -/
def digestOf (b : Bytes) : Bytes :=
  match b.length + u8At b 4 with
  | 17 => natBe 32 0x64D270CB112F9C40C9AA51A04F31470D106F4691AB087415F1DFA4EF511C5175
  | 264 => natBe 32 0x44B8AA4D28701168922ACF61435EA4BB442F97B0B14AD7A2510ED68874EE2A72
  | 32 => natBe 32 0x66687AADF862BD776C8FC18B8E9F8E20089714856EE233B3902A591D0D5F2925
  | 8 => natBe 32 0x4ADEB4453CB2E0D4F186667F3052BF6C34B102CF0FA25910F6964F4F8A55AB84
  | 128 => natBe 32 0x4F6BECDD45D62F337D75542D3250DD09B3B267DDBD961B02B81C8295008842D4
  | 16 => natBe 32 0x3DF450B061217145C4F8A1E2AF92373C15A27F0520410B7409FE3DC09CB32EB8
  | 480 => natBe 32 0xDBCB9B5D373C42F60A7A9FBA6E421DD8CFC85CDB0DBDE749472401D08ED02987
  | 96 => natBe 32 0x877E5A4E94FDF192782874FCF7BE5B676BD749637E4D9A13587F0CF8FB8B1D99
  | _ => []

/-- The least forme that the validator accepts: one member on node 0 with region 0, one HOLD plate. -/
def fLoad : Bytes := chaseForme digestOf 1 [(0, 1)] [{ op := 11 }] []

/-! ### The block, power and reset -/

theorem witness_StepRunsFrontCommand : ({ rdy with pending := [.helloTick, .settlement] } : State).pending = .helloTick :: [.settlement] := rfl

/-- Without SYSCLK_25M, without REFCLK_100M, and without power. -/
def noSys : State := { rdy with pw := { rdy.pw with sysclk := false } }
def noRef : State := { rdy with pw := { rdy.pw with refclk100 := false } }
def noPower : State := { rdy with pw := { rdy.pw with pwrGood := false } }

theorem witness_EmptyQueueLetsNanosecondPass :
    (rdy.canonical = true ∧ rdy.pending = [] ∧ rdy.pw.pwrGood = true ∧ rdy.pw.sysclk = true ∧ ∀ x ∈ rdy.chases, x.pendingStep = none) ∧
    noSys.canonical = true ∧ noSys.pending = [] ∧ ¬(noSys.pw.pwrGood = true ∧ noSys.pw.sysclk = true) := by decide +kernel

/-- The invariant at a state with a listed byte, set registers, a merging-buffer entry and a waiting command. -/
def busy : State := { rdy with mem := [(5, 1)], mb := [⟨1, 0, [(3, 9)], 0⟩], pending := [.signalPresent 3] }

theorem witness_EveryStepKeepsInvariant : busy.Inv ∧ ∃ t, step busy = .next t := by
  refine ⟨?_, _, rfl⟩
  simp only [State.Inv]; decide +kernel

theorem witness_CommandsTouchOnlyTheirState : rdy.canonical = true ∧ ∃ t, exec (.signalPresent 3) rdy = .next t :=
  ⟨by decide +kernel, _, rfl⟩

/-- A chase in slot 0 with a forme, in a state. -/
def holds (s : State) (st : Nat) (x : ChaseSt) : State :=
  put { s with chases := x :: List.replicate 15 ChaseSt.empty } [(Fld.sysChaseState, 0, st), (Fld.sysChaseRegions, 0, 3)]

/-- A forme of two members, on nodes 0 and 1, that holds the regions 0 and 1 of this device, a sharded galley 1 and a
replicated galley 2, and a plate for each command of a plate; its digests are zeros. -/
def fRun : Bytes :=
  chaseForme (fun _ => zeros 32) 2 [(0, 3), (1, 1)]
    ([{ op := 1, galley := 2, src := 0x10000, dst := 0x20000, count := 1 }, { op := 1, galley := 1, src := 0x10000, count := 1, args := 1 * 2 ^ 35 },
      { op := 1, galley := 1, args := 2 * 2 ^ 35 }, { op := 1, galley := 1, dst := 0x20000, count := 1, args := 3 * 2 ^ 35 },
      { op := 2, galley := 2, src := 0x10080, count := 1 }, { op := 3, src := 0x10040, dst := 0x20000, count := 1 },
      { op := 4, src := 0x10040, dst := 0x20000, count := 1 }, { op := 5, src := 0x10080, dst := 0x20000, count := 1 },
      { op := 6, src := 0x10080, dst := 0x20000, count := 1 }, { op := 7, tint := 0, src := 0x10080, dst := 0x20000, count := 1 }] ++
    [{ op := 8, src := 0x10080, dst := 0x20000, count := 1 }, { op := 9, galley := 1 }, { op := 10, galley := 2, args := 1 },
      { op := 10, galley := 2, args := 2 }, { op := 10, galley := 2, args := 3 }, { op := 11, next := 3, args := 7 },
      { op := 12, next := 1, alt := 2 }, { op := 11, sig := 5 }, { op := 3, src := 0x10040, dst := 0x20000, count := 1, next := 4, summary := 0x80 },
      { op := 3, sig := 5 }])
    [decl 1 2, decl 2 1]

/-- Slot 0 holds `fRun`. -/
def ch : ChaseSt := { ChaseSt.empty with forme := fRun, slots := List.replicate 8 SummarySlot.empty }

/-- Slot 0 in a state of a chase. -/
def inSt (st : Nat) : State := holds rdy st ch

theorem witness_ResetDomainsReturnToResetValues :
    (rdy.canonical = true ∧ rdy.pw.pwrGood = true ∧ rdy.busUp = true ∧ rdy.live = true) ∧
    (noRef.canonical = true ∧ noRef.live = true ∧ noRef.pw.refclk100 = false) ∧
    ((begin (inSt csLoaded) { op := 4 }).canonical = true ∧ (begin (inSt csLoaded) { op := 4 }).cs 0 = csLoaded) ∧
    (begin (inSt csLoaded) { op := 4 }).atTurn 0 5 0x04 (Tk.tk { op := 4 }) :=
  ⟨by decide +kernel, by decide +kernel, by decide +kernel, at_turn (by decide +kernel)⟩

/-- With no authorisation in force, and with two of one kind. -/
theorem witness_HardResetEmptiesBlock :
    let s : State := { busy with sec := { busy.sec with auths := [⟨2, 0, 9, []⟩, ⟨2, 1, 9, []⟩] } };
    (busy.canonical = true ∧ busy.pw.pwrGood = true ∧ busy.sec.auths = []) ∧
    (s.canonical = true ∧ s.pw.pwrGood = true ∧ s.sec.colophon.length + 3 ≤ 2 ^ 20 ∧ s.sec.auths ≠ []) := by decide +kernel

theorem witness_PinsChangePowerStateAlone :
    (noPower.canonical = true ∧ noPower.pw.pwrGood = false) ∧
    (noRef.canonical = true ∧ noRef.pw.refclk100 = false ∧ noRef.live = true) ∧
    (let s : State := { noRef with pw := { noRef.pw with held := true } }; s.canonical = true ∧ s.pw.refclk100 = false ∧ s.live = false) := by
  decide +kernel

theorem witness_FunctionResetClosesHostSide : rdy.canonical = true ∧ rdy.busUp = true := by decide +kernel

/-- Every branch of the boot chain has findings that take it; a security version equal to the minimum is the boundary. -/
theorem witness_BootChainReachesStage :
    let s := State.reset;
    (s.canonical = true ∧ s.pw.pwrGood = true ∧ s.pw.sysclk = true ∧ s.pw.refclk156 = true ∧ s.pw.held = true ∧ s.pw.tripped = false ∧
      s.sec.bootSvn = 0) ∧
    s.sec.minSvn ≤ gBoot.version ∧ s.sec.minSvn ≤ gBoot.version2 ∧ gBoot.bootSel % 4 = 0 ∧ gBoot.primary = true ∧ gBoot.secondary = true := by
  decide +kernel

theorem witness_ReadyIsEnteredWithItsFlags :
    (bup.canonical = true ∧ bup.live = true ∧ bup.stage = stageBringUp) ∧ (true || (bup.fabricOk && bup.timeOk)) = true ∧
    (false || (bup.fabricOk && bup.timeOk)) = false := by decide +kernel

/-! ### The host interface -/

theorem witness_OutsideHostRequestsOnlyCount :
    rdy.canonical = true ∧ (Instr.bar2Read 8 0 ⟨4, []⟩).wf = true ∧ (Instr.bar2Read 8 0 ⟨4, []⟩).hostAccess = some (8, true) ∧
    (Instr.doorbell 8 0 1 [(0, 1)]).wf = true ∧ (Instr.doorbell 8 0 1 [(0, 1)]).hostAccess = some (8, false) ∧
    rdy.busUp = true ∧ rdy.inHostSet 8 = false := by decide +kernel

theorem witness_HostSetGrowsByConfigurationAndRegister : rdy.canonical = true ∧ rdy.busUp = true ∧ 2 ^ 16 - 1 < 2 ^ 16 ∧ rdy.serves 7 := by
  simp only [State.serves, State.hears]; decide +kernel

/-- A base of 0 with 768 GiB is the largest legal pool; one more is refused. -/
theorem witness_HostPoolTakesOnlyLegalRange :
    (rdy.canonical = true ∧ rdy.serves 7) ∧
    ((∀ c, c < 16 → rdy.cs c = csEmpty) ∧ 768 * 2 ^ 32 % 2 ^ 10 + 768 * 2 ^ 32 / 2 ^ 32 % 2 ^ 10 ≤ 768) ∧
    768 < (768 * 2 ^ 32 + 1) % 2 ^ 10 + (768 * 2 ^ 32 + 1) / 2 ^ 32 % 2 ^ 10 ∧
    ((inSt csLoaded).canonical = true ∧ (inSt csLoaded).serves 7 ∧ ∃ c, c < 16 ∧ (inSt csLoaded).cs c ≠ csEmpty) := by
  simp only [State.serves, State.hears]
  exact ⟨by decide +kernel, by decide +kernel, by decide +kernel, by decide +kernel, by decide +kernel, 0, by decide +kernel, by decide +kernel⟩

/-- The upper half of a 32-bit write, and a whole register. -/
theorem witness_RegisterWriteTakesFields :
    (rdy.canonical = true ∧ rdy.serves 7) ∧
    ((2 ^ 32 - 1 < 2 ^ (8 * 4)) ∧ (RegName.inkEnvelope.addr 0 + 4) % 4 = 0 ∧
      (RegName.inkEnvelope.addr 0 + 4) / 8 * 8 = RegName.inkEnvelope.addr 0 ∧ 0 < RegInfo.count RegName.inkEnvelope.info ∧
      RegName.inkEnvelope.acts = false) ∧
    (RegName.inkEnvelope.addr 0 % 8 = 0 ∧ RegName.inkEnvelope.addr 0 / 8 * 8 = RegName.inkEnvelope.addr 0) ∧
    (2 ≠ 4 ∧ 2 ≠ 8) ∧ (RegName.inkEnvelope.addr 0 + 4) % 8 ≠ 0 := by
  simp only [State.serves, State.hears]; decide +kernel

theorem witness_RegisterReadAnswersAndClears :
    (rdy.canonical = true ∧ rdy.serves 7 ∧ rdy.hears 7) ∧
    (RegName.hbmStatus.addr 11 % 8 = 0 ∧ RegName.hbmStatus.addr 11 / 8 * 8 = RegName.hbmStatus.addr 11 ∧ 11 < RegInfo.count RegName.hbmStatus.info ∧
      isGal .hbmStatus = false) ∧
    (0x3FFFFF8 < 0x4000000 ∧ 0x3FFFFF8 % 8 = 0 ∧ findReg (0x3FFFFF8 / 8 * 8) = none ∧ inBuffer 0x3FFFFF8 = false ∧ inMsix 0x3FFFFF8 = false ∧
      inPba 0x3FFFFF8 = false) := by
  simp only [State.serves, State.hears]; decide +kernel

theorem witness_ApertureSyncDrainsAllBuffers :
    (busy.canonical = true ∧ busy.serves 7) ∧ stackBytes - 1 < stackBytes ∧ stackBytes - 1 + 1 ≤ stackBytes ∧
    busy.getF Fld.hifApStack 0 < 12 ∧ busy.haOffline (busy.getF Fld.hifApStack 0 * stackBytes + (stackBytes - 1)) = false := by
  simp only [State.serves, State.hears]; decide +kernel

theorem witness_DmaFenceAnswersAtOnce : rdy.canonical = true ∧ rdy.serves 7 := by
  simp only [State.serves, State.hears]; decide +kernel

/-- The last bytes of the window and of a line, an offline stack, CXL.mem enabled and not, one and two symbols in error in the first
codeword of a line, and a transfer whose command fails for good. -/
theorem witness_ApertureAndCxlReachMemory :
    let on := put rdy [(Fld.hifCxlMem, 0, 1)];
    let off := put rdy [(Fld.hifCxlMem, 0, 1), (Fld.hbmState, 0, 3)];
    (rdy.canonical = true ∧ rdy.hears 7 ∧ (stackBytes - 4) + 4 ≤ stackBytes ∧ rdy.getF Fld.hifApStack 0 < 12 ∧
      ∀ k, k < 4 → (rdy.xfersStart []).haOffline (rdy.apertureAt (stackBytes - 4) k) = false) ∧
    (off.canonical = true ∧ off.hears 7 ∧ ∀ k, k < 4 → off.haOffline (off.apertureAt (stackBytes - 4) k) = true) ∧
    (on.canonical = true ∧ on.hears 7 ∧ on.isUp = true ∧ hbmTop - 1 < hbmTop ∧ (hbmTop - 64) % 64 + 64 ≤ 64 ∧ on.flag Fld.hifCxlMem 0 = true ∧
      on.haOffline ((hbmTop - 1) / 64 * 64) = false ∧ (hbmTop - 1) / 64 * 2 ∉ on.poison ∧ on.mbFind ((hbmTop - 1) / 64) = none) ∧
    (symbolsWrong 0 [⟨18, 1⟩] = 1 ∧ symbolsWrong 1 [⟨18, 1⟩] = 0 ∧ symbolsWrong 0 [⟨0, 1⟩, ⟨18, 1⟩] = 2 ∧ symbolsWrong 1 [⟨0, 1⟩, ⟨18, 1⟩] = 0) ∧
    (¬(gFine.command = true ∧ 4 < gFine.fails) ∧ gFine.fails ≤ 4 ∧ gLost.command = true ∧ 4 < gLost.fails) ∧
    (off.flag Fld.hifCxlMem 0 = true ∧ off.haOffline 0 = true) ∧ rdy.flag Fld.hifCxlMem 0 = false ∧
    stackBytes < stackBytes - 4 + 5 ∧ hbmTop ≤ hbmTop ∧ 64 < 1 % 64 + (zeros 64).length := by
  simp only [State.hears]; decide +kernel

/-! ### Rings, memory and marks -/

/-- A window over the first 2^20 pages of host memory, and rings enabled. -/
def win (s : State) : State :=
  put s [(Fld.hifWinLen, 0, 2 ^ 20), (Fld.hifWinW, 0, 1), (Fld.hifWinR, 0, 1), (Fld.hifRingsEn, 0, 1)]

/-- Ring 0 in a state: 16 tickets at page 16, proofs at page 32. -/
def ringIn (st : Nat) : State :=
  put (win rdy) [(Fld.hifRgEn, 0, 1), (Fld.hifRgState, 0, st), (Fld.hifRgLog2, 0, 4), (Fld.hifRgTbase, 0, 16), (Fld.hifRgPbase, 0, 32)]

theorem witness_RingEnabledAndDisabled :
    (((rdy.canonical = true ∧ rdy.serves 7) ∧ 255 < 256 ∧ (4 * 2 ^ 48 + 2 ^ 62).testBit 62 = true ∧ rdy.getF Fld.hifRgState 255 = 0) ∧
      rdy.rangeGranted false (4096 * rdy.getF Fld.hifRgTbase 255) (512 * 2 ^ 4) = false) ∧
    (((win rdy).canonical = true ∧ (win rdy).serves 7) ∧ (win rdy).getF Fld.hifRgState 255 = 0 ∧
      (win rdy).rangeGranted false (4096 * (win rdy).getF Fld.hifRgTbase 255) (512 * 2 ^ 4) = true ∧
      (win rdy).rangeGranted true (4096 * (win rdy).getF Fld.hifRgPbase 255) (32 * 2 ^ 4) = true) ∧
    (((ringIn 1).canonical = true ∧ (ringIn 1).serves 7) ∧ (ringIn 1).getF Fld.hifRgState 0 = 1 ∧ (2 ^ 62).testBit 63 = false) ∧
    ((0).testBit 62 = false ∧ (0).testBit 63 = false ∧ (ringIn 1).flag Fld.hifRgEn 0 = true) ∧
    (((ringIn 3).canonical = true ∧ (ringIn 3).serves 7) ∧ (ringIn 3).flag Fld.hifRgEn 0 = true ∧ (ringIn 3).getF Fld.hifRgState 0 = 3) ∧
    (((ringIn 2).canonical = true ∧ (ringIn 2).serves 7) ∧ (ringIn 2).getF Fld.hifRgState 0 = 2 ∧ ((ringIn 2).ringRt 0).hasDb = false) := by
  simp only [State.serves, State.hears]; decide +kernel

/-- Ring 0 runs with these bytes at its head in host memory; a doorbell covers one ticket, with `n` failed checks before. -/
def posted (b : Bytes) (n : Option Nat) : State :=
  { ringIn 1 with
    hostMem := memPutRun [] 0x10000 b
    host := { (ringIn 1).host with rings := [(0, ⟨1, tkCrc b, true, n, [], 0⟩)] } }

/-- A NOP with its check, and one without. -/
def nopTk : Bytes := Tk.raw { op := 0, crc := 821882304 }
def badTk : Bytes := Tk.raw { op := 0 }

/-- The CRC-32C of 512 zero bytes, in eighths. -/
def zeros512 : Bytes := zeros 64 ++ (zeros 64 ++ (zeros 64 ++ (zeros 64 ++ (zeros 64 ++ (zeros 64 ++ (zeros 64 ++ zeros 64))))))

theorem crc_of_zeros : crc32c zeros512 = 821882304 := by
  have h1 : (zeros 64).foldl crcByte 4294967295#32 = 4231468184#32 := by decide +kernel
  have h2 : (zeros 64).foldl crcByte 4231468184#32 = 4158167844#32 := by decide +kernel
  have h3 : (zeros 64).foldl crcByte 4158167844#32 = 2345306063#32 := by decide +kernel
  have h4 : (zeros 64).foldl crcByte 2345306063#32 = 1200442991#32 := by decide +kernel
  have h5 : (zeros 64).foldl crcByte 1200442991#32 = 64332339#32 := by decide +kernel
  have h6 : (zeros 64).foldl crcByte 64332339#32 = 1158271177#32 := by decide +kernel
  have h7 : (zeros 64).foldl crcByte 1158271177#32 = 3425213895#32 := by decide +kernel
  have h8 : (zeros 64).foldl crcByte 3425213895#32 = 3473084991#32 := by decide +kernel
  unfold crc32c zeros512
  simp only [List.foldl_append, h1, h2, h3, h4, h5, h6, h7, h8]
  decide

theorem nopTk_crc : ticketCrc nopTk = 821882304 ∧ ticketCrc badTk = 821882304 := by
  have h1 : patch nopTk 20 [0, 0, 0, 0] = zeros512 := by decide +kernel
  have h2 : patch badTk 20 [0, 0, 0, 0] = zeros512 := by decide +kernel
  exact ⟨by rw [ticketCrc, h1, crc_of_zeros], by rw [ticketCrc, h2, crc_of_zeros]⟩

theorem nopTk_check (h : Nat) : tkCrc nopTk = ticketCrc nopTk ∧ ((h + 1) % 2 ^ 32 = 1 → tkCrc nopTk = tkCrc nopTk) :=
  ⟨by rw [nopTk_crc.1]; decide +kernel, fun _ => rfl⟩

theorem posted_headReady : (posted nopTk none).headReady 0 1 (tkCrc nopTk) nopTk := by
  refine ⟨?_, ?_, ?_, ?_, ?_, ?_, ?_, nopTk_check _, ?_, ?_, ?_⟩ <;> decide +kernel

theorem posted_headReady_again : (posted nopTk (some 6)).headReady 0 1 (tkCrc nopTk) nopTk := by
  refine ⟨?_, ?_, ?_, ?_, ?_, ?_, ?_, nopTk_check _, ?_, ?_, ?_⟩ <;> decide +kernel

/-- Tails 0 and 17 past the head of 16 are ignored and 1 and 16 legal, in every state of the ring; six re-reads may fail, the
seventh pauses the ring. -/
theorem witness_DoorbellBeginsTickets :
    (∀ st ∈ [0, 1, 2, 3, 4], (ringIn st).canonical = true ∧ (ringIn st).serves 7 ∧ (ringIn st).getF Fld.hifRgState 0 = st ∧
      (0 + 2 ^ 32 - (ringIn st).getF Fld.hifRgHead 0) % 2 ^ 32 = 0 ∧
      2 ^ (ringIn st).getF Fld.hifRgLog2 0 < (17 + 2 ^ 32 - (ringIn st).getF Fld.hifRgHead 0) % 2 ^ 32 ∧
      ∀ v ∈ [1, 16], (v + 2 ^ 32 - (ringIn st).getF Fld.hifRgHead 0) % 2 ^ 32 ≠ 0 ∧
        (v + 2 ^ 32 - (ringIn st).getF Fld.hifRgHead 0) % 2 ^ 32 ≤ 2 ^ (ringIn st).getF Fld.hifRgLog2 0) ∧
    ((ringIn 1).ringRt 0).rereads = none ∧
    ((posted nopTk none).canonical = true ∧ (posted nopTk none).serves 7 ∧ ((posted nopTk none).ringRt 0).rereads = none ∧
      (posted nopTk none).headReady 0 1 (tkCrc nopTk) nopTk) ∧
    ((posted nopTk (some 6)).canonical = true ∧ (posted nopTk (some 6)).isReady = true ∧ (posted nopTk (some 6)).flag Fld.hifRingsEn 0 = true ∧
      (posted nopTk (some 6)).getF Fld.hifRgState 0 = 1 ∧ ((posted nopTk (some 6)).ringRt 0).rereads = some 6 ∧
      ((posted nopTk (some 6)).ringRt 0).hasDb = true ∧ (posted nopTk (some 6)).headReady 0 1 (tkCrc nopTk) nopTk) ∧
    tkCrc badTk ≠ ticketCrc badTk ∧ (∀ n ∈ [5, 6], ((posted badTk (some n)).ringRt 0).tail ≠ (posted badTk (some n)).getF Fld.hifRgHead 0 ∧
      badTk = memGetRun (posted badTk (some n)).hostMem (4096 * (posted badTk (some n)).getF Fld.hifRgTbase 0 +
        512 * ((posted badTk (some n)).getF Fld.hifRgHead 0 % 2 ^ (posted badTk (some n)).getF Fld.hifRgLog2 0)) 512) :=
  ⟨by simp only [State.serves, State.hears]; decide +kernel, by decide +kernel,
    ⟨by decide +kernel, by simp only [State.serves, State.hears]; decide +kernel, by decide +kernel, posted_headReady⟩,
    ⟨by decide +kernel, by decide +kernel, by decide +kernel, by decide +kernel, by decide +kernel, by decide +kernel,
      posted_headReady_again⟩, by rw [nopTk_crc.2]; decide +kernel, by decide +kernel⟩

/-- A done ticket of a running ring, one whose ring has been disabled since, and a ring with proofs not signalled, its vector unmasked and masked. -/
def doneTk (st : Nat) : State :=
  { ringIn st with host := { (ringIn st).host with tickets := [{ (Tk.tk { op := 0 }) with acted := true, done := true, status := 0 }] } }

def orphanTk : Ticket := { (Tk.tk { op := 0 }) with acted := true, done := true, status := 0, orphan := true }
def orphaned : State := { ringIn 0 with host := { (ringIn 0).host with tickets := [orphanTk] } }

def unsig : State :=
  { put (ringIn 1) [(Fld.hifRgCoalUs, 0, 5)] with host := { (ringIn 1).host with rings := [(0, ⟨0, 0, false, none, [], 3⟩)] } }

theorem witness_ProofWrittenIntoItsSlot :
    (∀ st ∈ [1, 4], (doneTk st).canonical = true ∧ (doneTk st).isReady = true ∧
      (doneTk st).ticket? 0 5 = some { (Tk.tk { op := 0 }) with acted := true, done := true, status := 0 } ∧
      (doneTk st).resultIn { (Tk.tk { op := 0 }) with acted := true, done := true, status := 0 } = true ∧
      (doneTk st).getF Fld.hifRgState 0 = st ∧ ((doneTk st).ringRt 0).waiting = [] ∧
      (doneTk st).pageGranted true ((doneTk st).getF Fld.hifRgPbase 0 +
        (doneTk st).getF Fld.hifRgPcount 0 % 2 ^ (doneTk st).getF Fld.hifRgLog2 0 / 128) = true) ∧
    (orphaned.canonical = true ∧ orphaned.isReady = true ∧ orphaned.ticket? 0 5 = some orphanTk ∧ orphanTk.done = true ∧
      orphaned.resultIn orphanTk = true ∧ orphanTk.orphan = true) ∧
    (unsig.canonical = true ∧ unsig.isReady = true ∧ unsig.getF Fld.hifRgCoalUs 0 ≠ 0 ∧ (unsig.ringRt 0).unsignalled ≠ 0) ∧
    unsig.msixMasked (unsig.getF Fld.hifRgVec 0) ≠ ({ unsig with msix := [(1, 0)] } : State).msixMasked (unsig.getF Fld.hifRgVec 0) := by
  decide +kernel

/-- Chase memory of slot 0: frame 16 on chip and frame 32 in HBM. -/
def onChip : FrameEnt := ⟨0, 0, 0, 1, 0, 0, 0, [], 0, 0, [], [], 0, 0, false, false, [], false, 0, true⟩
def inHbm : FrameEnt := { onChip with unit := 1, tier := 3 }
def chM : ChaseSt := { ch with frames := [(16, onChip), (32, inHbm)] }

/-- A galley state whose rows are the zeros of its own number, and a galley of these states. -/
def gst (num stage : Nat) : GalState := ⟨num, stage, num, []⟩
def gal (id : Nat) (states : List GalState) : GalleySt :=
  { newGalley (decl id (3 - id)) with em := 0, nextNum := 9, states := states }

theorem witness_QueriesAnswerPlacementAndMarks :
    let s := holds rdy csLoaded { chM with
      frames := chM.frames ++ [(48, { inHbm with unit := 2, shown := false })], galleys := [(1, gal 1 []), (2, gal 2 [gst 3 2])]
      guests := [⟨1, 1, 3, 0⟩] };
    let at1 := fun key : Nat => put s [(Fld.impQKey, 0, key)];
    (s.canonical = true ∧ s.serves 7) ∧
    (((0).testBit 15 = false ∧ (at1 0x10000).frame (0 / 2 ^ 16 % 16) (caFrame ((at1 0x10000).getF Fld.impQKey 0)) = some onChip ∧
      4096 ≤ (at1 0x10000).getF Fld.impQKey 0 ∧ (at1 0x10000).getF Fld.impQKey 0 < 2 ^ 43 ∧ onChip.shown = true) ∧
      (at1 0x30000).frame 0 (caFrame ((at1 0x30000).getF Fld.impQKey 0)) = some { inHbm with unit := 2, shown := false } ∧
      (at1 0x11000).frame 0 (caFrame ((at1 0x11000).getF Fld.impQKey 0)) = none ∧ 2 ^ 43 ≤ (at1 (2 ^ 43)).getF Fld.impQKey 0) ∧
    ((2 ^ 15).testBit 15 = true ∧ s.cs (2 ^ 15 / 2 ^ 16 % 16) ≠ csEmpty ∧ s.askedDecl (2 ^ 15 + 2) = none ∧
      s.askedDecl (2 ^ 15 + 1) = some (decl 2 1) ∧ gdSlugs (gal 2 []).decl = 8 ∧ gdSharded (gal 2 []).decl = false ∧
      s.askedDecl (2 ^ 15) = some (decl 1 2) ∧ gdSharded (gal 1 []).decl = true ∧ s.galley 0 (gdId (decl 1 2)) = some (gal 1 []) ∧
      s.galley 0 (gdId (decl 2 1)) = some (gal 2 [gst 3 2]) ∧ (gal 2 [gst 3 2]).serving ≠ none ∧ (gal 1 []).serving = none ∧
      (at1 (2 ^ 40 - 1)).getF Fld.impQKey 0 % 2 ^ 40 = 2 ^ 40 - 1 ∧ (at1 7).getF Fld.impQKey 0 % 2 ^ 40 < gdSlugs (gal 2 []).decl ∧
      slugOwner 0 (s.members 0) = s.ordinal 0 ∧ slugOwner 1 (s.members 0) ≠ s.ordinal 0 ∧ slugOwner 2 (s.members 0) ≠ s.ordinal 0 ∧
      (s.chase 0).guests.find? (fun g => g.galley == gdId (decl 1 2) && g.slug == 1) = some ⟨1, 1, 3, 0⟩ ∧
      (s.chase 0).guests.find? (fun g => g.galley == gdId (decl 1 2) && g.slug == 2) = none) ∧
    (let u := holds rdy csLoaded chM; u.askedDecl (2 ^ 15) = some (decl 1 2) ∧ u.galley 0 (gdId (decl 1 2)) = none) := by
  simp only [State.serves, State.hears]; decide +kernel

/-- Slot 0 is loaded, or runs, over the regions 0 and 1, with its frames. -/
def memSt (st : Nat) : State := holds rdy st chM

/-- 12 locked and engine ways and 14 in all are legal, 13 and 15 are not; locked ways need a holder. -/
theorem witness_CacheWaysChange :
    (((memSt csLoaded).canonical = true ∧ (memSt csLoaded).serves 7) ∧ (12 + 2 * 2 ^ 8) % 16 + (12 + 2 * 2 ^ 8) / 2 ^ 4 % 16 ≤ 12 ∧
      (12 + 2 * 2 ^ 8) % 16 + (12 + 2 * 2 ^ 8) / 2 ^ 4 % 16 + (12 + 2 * 2 ^ 8) / 2 ^ 8 % 16 ≤ 14 ∧
      (((memSt csLoaded).logicalOf 0).bind (memSt csLoaded).regionHolder).isSome = true) ∧
    (12 < (12 + 1 * 2 ^ 4) % 16 + (12 + 1 * 2 ^ 4) / 2 ^ 4 % 16 ∧ 14 < (12 + 3 * 2 ^ 8) % 16 + (12 + 3 * 2 ^ 8) / 2 ^ 4 % 16 + (12 + 3 * 2 ^ 8) / 2 ^ 8 % 16 ∧
      0 < 1 % 16 ∧ (((memSt csLoaded).logicalOf 19).bind (memSt csLoaded).regionHolder).isSome = false) ∧
    (let pend := fun st => put (memSt st) [(Fld.rcWaysPending, 0, 1), (Fld.rcLockWays, 0, 3)];
      ((pend csLoaded).canonical = true ∧ (pend csLoaded).isUp = true ∧ (pend csLoaded).flag Fld.rcWaysPending 0 = true ∧
        (pend csLoaded).heldRunning 0 = false) ∧
      ((pend csRunning).canonical = true ∧ (pend csRunning).isUp = true ∧ (pend csRunning).heldRunning 0 = true ∧
        (pend csRunning).flag Fld.rcWaysPending 0 = true ∧ (pend csRunning).getF Fld.rcLockWays 0 ≠ (pend csRunning).getF Fld.rcEffLock 0)) ∧
    (let pend := put (memSt csRunning) [(Fld.rcWaysPending, 0, 1), (Fld.rcOffWays, 0, 3)];
      pend.heldRunning 0 = true ∧ pend.getF Fld.rcLockWays 0 = pend.getF Fld.rcEffLock 0 ∧
        pend.getF Fld.rcEngineWays 0 = pend.getF Fld.rcEffEngine 0) := by
  simp only [State.serves, State.hears]; decide +kernel

/-- The last line of frame 32, in HBM, and the first of frame 16, on chip. -/
def rng (base len : Nat) : State := put (memSt csLoaded) [(Fld.rcRngBase, 3, base), (Fld.rcRngLen, 3, len)]

theorem witness_RangeOperationsActOnTheirLines :
    (((rng 0x20FC0 64).canonical = true ∧ (rng 0x20FC0 64).serves 7) ∧ (rng 0x20FC0 64).flag Fld.rcRngBusy 3 = false ∧
      (rng 0x20FC0 64).forme 0 ≠ []) ∧
    ((∃ l, (rng 0x20FC0 64).inRange 3 0 0x20FC0 l ∧ (l + 64 ≤ hbmTop ∨ hbmTop ≤ l) ∧ (rng 0x20FC0 64).snooped (l / 64) = false ∧
        (rng 0x20FC0 64).snooped ((l + 63) / 64) = false) ∧
      (rng 0x20FC0 64).frame 0 (caFrame 0x20FC0) = some inHbm ∧ 3 ≤ inHbm.tier) ∧
    (∃ l, (rng 0x10000 64).inRange 3 0 0x10000 l ∧ hbmTop ≤ l) ∧
    (let s := put (rng 0 64) [(Fld.rcRngBusy, 3, 1)]; s.canonical = true ∧ s.serves 7 ∧ s.isUp = true ∧ s.flag Fld.rcRngBusy 3 = true) ∧
    (rdy.serves 7 ∧ rdy.flag Fld.rcRngBusy 3 = false ∧ rdy.forme 0 = []) ∧ Instr.zero 7 3 0 true ≠ .clean 7 3 0 true := by
  simp only [State.serves, State.hears, State.inRange]
  refine ⟨by decide +kernel, ⟨⟨(rng 0x20FC0 64).entryHa inHbm 0xFC0, by decide +kernel⟩, by decide +kernel⟩,
    ⟨chipLoc 0 0x10000, by decide +kernel⟩, by decide +kernel, by decide +kernel, by decide +kernel⟩

/-- 8 and 16 bytes at the end of a frame in HBM and at the start of one on chip; an address off by one; one that nothing backs. -/
theorem witness_AtomicsCarriedOutInPlace :
    let s := put (memSt csRunning) [(Fld.sysChaseRegions, 0, 1)];
    (AtomicSays (.atomicAdd 0 0x20FF8 (-1)) 0 0x20FF8 8 (fun b => natLe 8 (((leNat b : Int) + -1) % 2 ^ 64).toNat) ∧
      ∃ f, AtomicSays (.maxIdx 0 0x10000 (-2 ^ 63) (2 ^ 40 - 1)) 0 0x10000 16 f) ∧
    (s.canonical = true ∧ s.isReady = true ∧ s.cs 0 ≠ csEmpty ∧ s.physOf (s.atomicRegion 0 0x20FF8) < 20 ∧
      s.physOf (s.atomicRegion 0 0x10000) < 20 ∧ s.physOf (s.atomicRegion 0 0x30000) < 20) ∧
    (∃ l, 0x20FF8 % 8 = 0 ∧ s.chaseLoc 0 0x20FF8 = some l ∧ l + 8 ≤ hbmTop ∧ s.snooped (l / 64) = false ∧ l % 8 = 0 ∧
      ∀ k, k < 8 → s.chaseLoc 0 (0x20FF8 + k) = some (l + k)) ∧
    (∃ l, 0x10000 % 16 = 0 ∧ s.chaseLoc 0 0x10000 = some l ∧ hbmTop ≤ l ∧ s.snooped (l / 64) = false ∧ l % 16 = 0 ∧
      ∀ k, k < 16 → s.chaseLoc 0 (0x10000 + k) = some (l + k)) ∧
    0x20FF9 % 8 ≠ 0 ∧ s.chaseLoc 0 0x30000 = none := by
  refine ⟨⟨.add .., _, .maxIdx _ _ _ _ (by decide) (by decide)⟩, by decide +kernel,
    ⟨rdy.entryHa inHbm 0xFF8, by decide +kernel⟩, ⟨chipLoc 0 0x10000, by decide +kernel⟩, by decide +kernel, by decide +kernel⟩

theorem witness_StacksReportScrubAndGoOffline :
    (rdy.canonical = true ∧ rdy.isUp = true ∧ 11 < 12 ∧ rdy.stackOnline 11 = true ∧ 255 < 256) ∧
    (63 < 64 ∧ 2 ^ 24 - 1 < 2 ^ 24 ∧ 1 < 2 ∧ rdy.pcOffline 11 63 = false ∧
      (11 * 2 ^ 36 + 63 * 2 ^ 30 + 64 * (2 ^ 24 - 1) + 32 * 1) / 32 ∉ rdy.poison ∧ (gLost.command = true ∧ 4 < gLost.fails) ∧
      ¬(gFine.command = true ∧ 4 < gFine.fails) ∧ symbolsWrong 0 [⟨18, 1⟩] = 1 ∧ symbolsWrong 0 [⟨0, 1⟩, ⟨18, 1⟩] = 2) ∧
    busy.canonical = true ∧ busy.isUp = true ∧ (busy.mbFind 1).isSome = true := by decide +kernel

/-- Repair access to stack 11, all of it online, or with pseudo-channel 63 offline, tested or not. -/
def repair (off : Nat) (tested : List Nat) : State :=
  { put rdy [(Fld.secRepair, 0, 1), (Fld.secRepairStacks, 0, 2 ^ 11), (Fld.hbmPcOff, 11, off)] with
    hbm := { rdy.hbm with tested := tested } }

theorem witness_MaintenanceNeedsRepairAccess :
    (rdy.canonical = true ∧ rdy.serves 7 ∧ rdy.repairOpen 11 = false) ∧
    ((repair 0 []).canonical = true ∧ (repair 0 []).serves 7 ∧ (repair 0 []).repairOpen 11 = true ∧ (repair 0 []).repairOpen 10 = false ∧
      (repair 0 []).pcOffline 11 63 = false ∧ ((repair 0 []).bank (bankKey 11 63 31)).next = some 0 ∧
      ∀ u ∈ ((repair 0 []).bank (bankKey 11 63 31)).used, u.2 ≠ 2 ^ 15 - 1) ∧
    ((repair (2 ^ 63) []).canonical = true ∧ (repair (2 ^ 63) []).serves 7 ∧ (repair (2 ^ 63) []).repairOpen 11 = true ∧
      (repair (2 ^ 63) []).pcOffline 11 63 = true ∧ 11 * 64 + 63 ∉ (repair (2 ^ 63) []).hbm.tested ∧
      11 * 64 + 63 ∈ (repair (2 ^ 63) [11 * 64 + 63]).hbm.tested) := by
  simp only [State.serves, State.hears]; decide +kernel

/-- Mark 16383 of slot 0, ME_ID 5 of context 0, a counting or barrier mark of target 4 with a count; mark 100 is a fabric mark. -/
def marked (s : State) (barrier count active : Nat) : State :=
  { put s [(Fld.mrkValid, 16383, 1), (Fld.mrkBarrier, 16383, barrier), (Fld.mrkTarget, 16383, 4), (Fld.mrkCount, 16383, count),
      (Fld.mrkId, 16383, 5), (Fld.mrkValid, 100, 1), (Fld.mrkFabric, 100, 1), (Fld.mrkTarget, 100, 4), (Fld.mrkId, 100, 6),
      (Fld.mrkActiveCtx, 0, active)] with
    marks := [(100, ⟨0, 0, none, []⟩), (16383, ⟨0, 0, none, []⟩)] }

/-- Of a counting mark of target 4 at 3, 4 more reach the limit 7 and 5 exceed it; 3 may be taken, 4 may not. Of a barrier
mark at 3, 1 flips and 5 exceed. -/
theorem witness_SignalAndTakeMoveCounts :
    (∀ b ∈ [0, 1], (marked rdy b 3 0).canonical = true ∧ (marked rdy b 3 0).isReady = true ∧ (marked rdy b 3 0).serves 7 ∧
      (marked rdy b 3 0).flag Fld.mrkValid 16383 = true ∧
      (marked rdy b 3 0).getF Fld.mrkCtx 16383 = (marked rdy b 3 0).getF Fld.mrkActiveCtx ((marked rdy b 3 0).getF Fld.mrkSlot 16383) ∧
      ((marked rdy b 3 0).mark 16383).waits = []) ∧
    ((marked rdy 0 3 0).flag Fld.mrkBarrier 16383 = false ∧ ¬(min (2 * 4 - 1) (2 ^ 32 - 1) < 3 + 4) ∧ min (2 * 4 - 1) (2 ^ 32 - 1) < 3 + 5 ∧
      (marked rdy 0 3 0).getF Fld.mrkCount 16383 = 3 ∧ (marked rdy 0 3 0).getF Fld.mrkTarget 16383 = 4) ∧
    ((marked rdy 1 3 0).flag Fld.mrkBarrier 16383 = true ∧ 4 ≤ 3 + 5 - 4 ∧ 4 ≤ 3 + 1 ∧ ¬(4 ≤ 3 + 1 - 4)) ∧
    ((marked rdy 0 3 0).flag Fld.mrkValid 16382 = false ∧
      ((marked rdy 0 3 1).canonical = true ∧ (marked rdy 0 3 1).serves 7 ∧ (marked rdy 0 3 1).flag Fld.mrkValid 16383 = true ∧
        (marked rdy 0 3 1).getF Fld.mrkCtx 16383 ≠ (marked rdy 0 3 1).getF Fld.mrkActiveCtx ((marked rdy 0 3 1).getF Fld.mrkSlot 16383))) := by
  simp only [State.serves, State.hears]; decide +kernel

/-- A debug session over slot 0. -/
def debugged (b : Nat) : State := put (marked rdy b 0 0) [(Fld.secSession, 0, 1), (Fld.secSessionSlots, 0, 1)]

/-- The plate of a running chase waits on a mark. -/
def waitingCh (f : Bytes) : ChaseSt := { ch with forme := f, plate := { PlateRt.none with waiting := true } }

/-- `fRun` with FH_COMPAT_7410. -/
def fCompat : Bytes := fRun.set 0xE 1

theorem witness_HandSetsLoansAndDeadlocks :
    let v := fun n : Nat => 16383 * 2 ^ 32 + n;
    (∀ b ∈ [0, 1], (debugged b).canonical = true ∧ (debugged b).serves 7 ∧ (debugged b).flag Fld.mrkValid (v 0 / 2 ^ 32 % 2 ^ 14) = true ∧
      (debugged b).debugReach ((debugged b).getF Fld.mrkSlot (v 0 / 2 ^ 32 % 2 ^ 14)) = true ∧
      (debugged b).getF Fld.mrkTarget (v 0 / 2 ^ 32 % 2 ^ 14) = 4 ∧ ((debugged b).mark (v 0 / 2 ^ 32 % 2 ^ 14)).waits = []) ∧
    ((debugged 1).flag Fld.mrkBarrier 16383 = true ∧ v 3 % 2 ^ 32 < 4 ∧ 4 ≤ v 4 % 2 ^ 32 ∧ (debugged 0).flag Fld.mrkBarrier 16383 = false ∧
      v 7 % 2 ^ 32 ≤ min (2 * 4 - 1) (2 ^ 32 - 1) ∧ min (2 * 4 - 1) (2 ^ 32 - 1) < v 8 % 2 ^ 32 ∧ (marked rdy 0 0 0).debugReach 0 = false) ∧
    (∀ e ∈ [(fRun, false), (fCompat, true)], let s := holds rdy csRunning (waitingCh e.1);
      s.canonical = true ∧ s.live = true ∧ s.csStriking 0 = true ∧ (s.chase 0).plate.waiting = true ∧ (s.chase 0).plate.lent = false ∧
      fhCompat (s.forme 0) = e.2) ∧
    (∀ ph ∈ [1, 2], let s := put (holds rdy csRunning (waitingCh fRun)) [(Fld.mrkDlTimeoutUs, 0, 1), (Fld.stkPhase, 0, ph)];
      s.canonical = true ∧ s.live = true ∧ s.csStriking 0 = true ∧ s.getF Fld.mrkDlTimeoutUs 0 ≠ 0 ∧ 0 ∈ s.heldRegions 0 ∧
        (ph = 1 → s.regionBlocked 0 0 = false) ∧ (ph = 2 → ∀ k ∈ s.heldRegions 0, s.regionBlocked 0 k = true)) := by
  simp only [State.serves, State.hears]; decide +kernel

/-! ### Tickets -/

theorem source_reads {s : State} {ring seq n : Nat} {x : Ticket} {b : Bytes} {bad : List (Nat × Nat)}
    (h : ((s.turnTaken ring seq).srcRead x (tpSrcSpace x.raw) (tpSrc x.raw) n).2 = some (b, bad)) :
    s.sourceReads ring seq x n b bad ((s.turnTaken ring seq).srcRead x (tpSrcSpace x.raw) (tpSrc x.raw) n).1 := Prod.ext rfl h

theorem src_reads {s : State} {x : Ticket} {sp a n : Nat} {b : Bytes} {bad : List (Nat × Nat)} (h : (s.srcRead x sp a n).2 = some (b, bad)) :
    s.srcRead x sp a n = ((s.srcRead x sp a n).1, some (b, bad)) := Prod.ext rfl h

theorem inline_reads {s : State} {ring seq n : Nat} {x : Ticket} (h : tpSrcSpace x.raw = 0) :
    s.sourceReads ring seq x n (slice (tkInline x.raw) (tpSrc x.raw) n) [] (s.turnTaken ring seq) := by
  simp [State.sourceReads, State.srcRead, h]

theorem rows_read {s1 : State} {x : Ticket} {b rows exps : Bytes} {r : Nat} {badR badE : List (Nat × Nat)}
    (h1 : s1.runOk (tkSlot x.raw) (tpSub x.raw) (glrRows b) (glrCount b * r) = true ∧
      s1.runOk (tkSlot x.raw) (tpSub x.raw) (glrExps b) (glrCount b) = true)
    (h2 : (s1.srcRead x (tpSub x.raw) (glrRows b) (glrCount b * r)).2 = some (rows, badR))
    (h3 : ((s1.srcRead x (tpSub x.raw) (glrRows b) (glrCount b * r)).1.srcRead x (tpSub x.raw) (glrExps b) (glrCount b)).2 =
      some (exps, badE)) :
    s1.rowsRead x b r rows exps badR badE
      ((s1.srcRead x (tpSub x.raw) (glrRows b) (glrCount b * r)).1.srcRead x (tpSub x.raw) (glrExps b) (glrCount b)).1 :=
  ⟨h1, _, Prod.ext rfl h2, Prod.ext rfl h3⟩

/-- Slot 16 does not exist: BAD_TICKET; 15 does. A second chase ticket behind a begun first one waits. -/
theorem witness_TicketsFailBeforeTheirWork :
    let s := begin rdy { op := 2, slot := 16 };
    let two : State := { rdy with host := { rdy.host with tickets := [{ (Tk.tk { op := 3 }) with seq := 4 }, Tk.tk { op := 4 }] } };
    TicketSays 0 5 (.chaseStart 0 5) [] 0x02 ∧ s.xfersStart [] = s ∧ TicketSays 0 5 (.dataRead 0 ⟨5, [gXfer]⟩) [gXfer] 0x21 ∧
    (s.canonical = true ∧ s.isReady = true ∧ s.ticket? 0 5 = some (Tk.tk { op := 2, slot := 16 }) ∧ tkOpcode (Tk.raw { op := 2, slot := 16 }) = 0x02 ∧
      s.chaseOrderOk (Tk.tk { op := 2, slot := 16 }) = true ∧ s.ticketCheck 0 (Tk.raw { op := 2, slot := 16 }) = some stBadTicket) ∧
    (rdy.ticketCheck 0 (Tk.raw { op := 2, slot := 15 }) = none ∧ bup.isReady = false ∧ s.ticket? 0 6 = none) ∧
    (two.ticket? 0 5 = some (Tk.tk { op := 4 }) ∧ two.chaseOrderOk (Tk.tk { op := 4 }) = false) ∧
    (let v := put rdy [(Fld.sysChaseState, 0, csValidating)];
      s.galleyWaits (Tk.tk { op := 2, slot := 16 }) = false ∧ v.galleyWaits (Tk.tk { op := 0x10 }) = true ∧
      v.galleyWaits (Tk.tk { op := 0x12 }) = true ∧ (begin v { op := 0x12 }).ticket? 0 5 = some (Tk.tk { op := 0x12 })) := by
  refine ⟨.chaseStart, rfl, .dataRead _, by decide +kernel, by decide +kernel, by decide +kernel, by decide +kernel⟩

/-- Host memory that holds these bytes at 2^20, in a state with windows. -/
def hosted (s : State) (b : Bytes) : State := { s with hostMem := memPutRun [] (2 ^ 20) b }

theorem hosted_canonical {s : State} (b : Bytes) (h : s.canonical = true) : (hosted s b).canonical = true := by
  simp only [State.canonical, Bool.and_eq_true] at h
  simp only [State.canonical, hosted, Bool.and_eq_true]
  exact ⟨⟨⟨⟨⟨⟨h.1.1.1.1.1.1, wf_memPutRun _ _ wf_nil⟩, h.1.1.1.1.2⟩, h.1.1.1.2⟩, h.1.1.2⟩, h.1.2⟩, h.2⟩

theorem hosted_get {s : State} (b : Bytes) (n : Nat) (hl : b.length = n) (hn : n ≠ 0) (hm : s.hostMem = memPutRun [] (2 ^ 20) b)
    (h : ((pagesOf (2 ^ 20) n).find? fun p => !s.pageGranted false p) = none) : (s.hostGet (2 ^ 20) n).2 = some b := by
  have : memGetRun (memPutRun [] (2 ^ 20) b) (2 ^ 20) n = b := by
    apply List.ext_getElem?
    intro i
    simp only [memGetRun, List.getElem?_map, memGet_memPutRun _ _ _ wf_nil]
    by_cases hi : i < n
    · rw [List.getElem?_range hi, Option.map_some, if_pos ⟨by omega, by omega⟩, Nat.add_sub_cancel_left, List.getD_eq_getElem?_getD,
        List.getElem?_eq_getElem (by omega)]
      rfl
    · rw [List.getElem?_eq_none (by simpa using hi), List.getElem?_eq_none (by omega)]
      rfl
  unfold State.hostGet
  rw [if_neg hn, h, hm, this]

def loadTk : Tk := { op := 1, src := 2 ^ 20, len := 1152, srcSpace := 1 }
def zeroTk : Tk := { op := 1, len := 64, inline := zeros 64 }

/-- A slot loaded, with these joined members, of which the prior state was LOADED. -/
def joinedBy (st : Nat) (j : List (Nat × Bytes)) : State := holds rdy st { ch with joined := j, priorIdle := csLoaded }

/-- The state in which FORME_LOAD reads its source: the slot in VALIDATING. -/
def loading (s : State) : State := (s.turnTaken 0 5).beginForme 0

/-- A forme that the validator accepts, and one that it rejects. -/
theorem witness_ChaseTicketsAct_source : ∃ s1, (loading (begin (hosted (win rdy) fLoad) loadTk)).srcRead loadTk.tk (tpSrcSpace loadTk.tk.raw)
    (tpSrc loadTk.tk.raw) (min 1152 (2 ^ 26)) = (s1, some (fLoad, [])) := by
  refine ⟨_, src_reads ?_⟩
  have h : ((loading (begin (hosted (win rdy) fLoad) loadTk)).hostGet (2 ^ 20) 1152).2 = some fLoad :=
    hosted_get fLoad 1152 (by decide +kernel) (by omega) (by simp only [loading, State.beginForme, State.setF_hostMem, State.updChase, State.setChase,
      State.turnTaken, State.updTicket, begin, hosted]) (by decide +kernel)
  have hs : tpSrcSpace loadTk.tk.raw = 1 := by decide +kernel
  have ha : tpSrc loadTk.tk.raw = 2 ^ 20 := by decide +kernel
  rw [hs, ha, show min 1152 (2 ^ 26) = 1152 by decide]
  unfold State.srcRead
  rw [if_neg (by decide), if_pos rfl]
  dsimp only
  rw [h, Option.map_some]

/-! The digests in `fLoad` are those that the validator asks for, part by part. -/

theorem fLoad_header_digest : sha256 (slice fLoad 0 0x60) = slice fLoad 0x60 32 := by decide +kernel
theorem fLoad_directory_digest : sha256 (slice fLoad 128 (48 * fhSections fLoad)) = slice fLoad 0x40 32 := by decide +kernel
theorem fLoad_digest_1 : sha256 ((fLoad.drop 448).take 16) = slice fLoad 144 32 := by decide +kernel
theorem fLoad_digest_2 : sha256 ((fLoad.drop 512).take 264) = slice fLoad 192 32 := by decide +kernel
theorem fLoad_digest_3 : sha256 ((fLoad.drop 832).take 32) = slice fLoad 240 32 := by decide +kernel
theorem fLoad_digest_4 : sha256 ((fLoad.drop 896).take 8) = slice fLoad 288 32 := by decide +kernel
theorem fLoad_digest_5 : sha256 ((fLoad.drop 960).take 128) = slice fLoad 336 32 := by decide +kernel
theorem fLoad_digest_8 : sha256 ((fLoad.drop 1088).take 16) = slice fLoad 384 32 := by decide +kernel

theorem fLoad_header : firstErr (headerChecks fLoad 1152) = none := by
  unfold headerChecks
  rw [fLoad_header_digest, fLoad_directory_digest]
  decide +kernel

theorem fLoad_digests : digestChecks fLoad = List.replicate 6 none := by
  have h : dirEntries fLoad =
      [⟨128, 1, 1, 448, 16⟩, ⟨176, 2, 1, 512, 264⟩, ⟨224, 3, 1, 832, 32⟩, ⟨272, 4, 1, 896, 8⟩, ⟨320, 5, 1, 960, 128⟩,
        ⟨368, 8, 1, 1088, 16⟩] := by decide +kernel
  unfold digestChecks
  rw [h]
  simp only [List.map_cons, List.map_nil, Nat.reduceAdd]
  rw [fLoad_digest_1, fLoad_digest_2, fLoad_digest_3, fLoad_digest_4, fLoad_digest_5, fLoad_digest_8]
  simp [chk]

theorem witness_ChaseTicketsAct_accepted :
    ((loading (begin (hosted (win rdy) fLoad) loadTk)).srcRead loadTk.tk (tpSrcSpace loadTk.tk.raw) (tpSrc loadTk.tk.raw)
      (min 1152 (2 ^ 26))).1.validate 0 fLoad 1152 = none := by
  unfold State.validate
  rw [fLoad_header, fLoad_digests]
  decide +kernel

theorem witness_ChaseTicketsAct_rejected :
    (∃ s1, (loading (begin rdy zeroTk)).srcRead zeroTk.tk (tpSrcSpace zeroTk.tk.raw) (tpSrc zeroTk.tk.raw) (min 64 (2 ^ 26)) =
        (s1, some (slice (tkInline zeroTk.tk.raw) (tpSrc zeroTk.tk.raw) (min 64 (2 ^ 26)), [])) ∧
      s1.validate 0 (slice (tkInline zeroTk.tk.raw) (tpSrc zeroTk.tk.raw) (min 64 (2 ^ 26))) 64 = some ⟨1, 0, 0⟩) :=
  ⟨_, by rw [State.srcRead, if_pos (by decide +kernel : tpSrcSpace zeroTk.tk.raw = 0)], by decide +kernel⟩

theorem witness_ChaseTicketsAct :
    ((begin rdy { op := 0 }).canonical = true ∧ (begin rdy { op := 0 }).atTurn 0 5 0x00 (Tk.tk { op := 0 })) ∧
    ((hosted (begin (win rdy) loadTk) fLoad).canonical = true ∧ (begin (win rdy) loadTk).cs 0 = csEmpty ∧ tpLen loadTk.raw = 1152) ∧
    (begin (hosted (win rdy) fLoad) loadTk).atTurn 0 5 0x01 loadTk.tk ∧
    (∀ j ∈ [[], [(1, [])]], (begin (joinedBy csLoaded j) { op := 2 }).canonical = true ∧ (begin (joinedBy csLoaded j) { op := 2 }).cs 0 = csLoaded ∧
      (begin (joinedBy csLoaded j) { op := 2 }).flag Fld.rasFatal 0 = false ∧ (begin (joinedBy csLoaded j) { op := 2 }).regionsGone 0 = false) ∧
    ((begin (joinedBy csLoaded [(1, [])]) { op := 2 }).atTurn 0 5 0x02 (Tk.tk { op := 2 }) ∧
      1 ≠ (joinedBy csLoaded []).ordinal 0 ∧ ([] : Bytes) ≠ fhHeaderDigest ((joinedBy csLoaded []).forme 0)) ∧
    (put (inSt csLoaded) [(Fld.sysMapValid 0, 0, 0)]).regionsGone 0 = true ∧
    (∀ st ∈ [csJoining, csRunning, csStopping, csLoaded, csFaulted], (begin (inSt st) { op := 3 }).canonical = true ∧ (begin (inSt st) { op := 3 }).cs 0 = st) ∧
    (begin (inSt csRunning) { op := 3 }).atTurn 0 5 0x03 (Tk.tk { op := 3 }) ∧
    (let s := fun v : Option (Nat × Nat) => begin (put (holds rdy csRunning { ch with verdict := v }) [(Fld.stkNumber, 0, 8)]) { op := 3 };
      (∀ v ∈ [none, some (9, 0), some (10, 0)], (s v).canonical = true ∧ (s v).cs 0 = csRunning ∧ (s v).stopStroke 0 = 10 ∧
        ((s v).chase 0).verdict = v) ∧
      (s (some (9, 0))).atTurn 0 5 0x03 (Tk.tk { op := 3 }) ∧ (s (some (10, 0))).atTurn 0 5 0x03 (Tk.tk { op := 3 })) := by
  refine ⟨⟨by decide +kernel, at_turn (by decide +kernel)⟩, ⟨hosted_canonical _ (by decide +kernel), by decide +kernel, by decide +kernel⟩,
    at_turn (by decide +kernel),
    by decide +kernel, ⟨at_turn (by decide +kernel), by decide +kernel, by decide +kernel⟩, by decide +kernel, by decide +kernel,
    at_turn (by decide +kernel), by decide +kernel, at_turn (by decide +kernel), at_turn (by decide +kernel)⟩

/-- A load record: galley, operation, flags, first slug, count, with rows at 2^20 and exponents at 2^21 of host memory. -/
def glr (g op flags first count : Nat) : Bytes :=
  natLe 4 g ++ natLe 1 op ++ natLe 3 flags ++ natLe 8 first ++ natLe 8 count ++
    (if op < 2 then natLe 8 (2 ^ 20) ++ natLe 8 (2 ^ 21) else zeros 16) ++ zeros 24

def glTk (r : Bytes) : Tk := { op := 0x10, len := 64, sub := 1, inline := r }

/-- Slot 0 with the galleys 1 and 2, of which 2 has these states. -/
def galSt (st : Nat) (states : List GalState) : State := win (holds rdy st { chM with galleys := [(1, gal 1 []), (2, gal 2 states)] })

/-- Incoming state 4 of galley 2 with frames of its own for the slots and tags of its first rows and for its blank slug: three
near-only units of band 0 over two pseudo-channels. -/
def gst4 : GalState := ⟨4, 0, 4, [(0, 2 ^ 32), (2 ^ 40, 2 ^ 32 + 1), (2 ^ 41, 2 ^ 32 + 2)]⟩
def galFrame (u : Nat) : FrameEnt := { onChip with unit := u, tier := 3 }
def galIn : State :=
  let s := win (holds rdy csLoaded { chM with
    galleys := [(1, gal 1 []), (2, gal 2 [gst 3 2, gst4])]
    frames := chM.frames ++ [(2 ^ 32, galFrame 0), (2 ^ 32 + 1, galFrame 1), (2 ^ 32 + 2, galFrame 2)] })
  { s with hbm := { s.hbm with bands := [⟨0, 0, [0, 1]⟩] } }

theorem entry_ha (s : State) (e : FrameEnt) (hl : e.layout ≠ 2) (off : Nat) (ho : off < 4096) : s.entryHa e off = s.entryHa e 0 + off := by
  simp only [State.entryHa, State.frameHa, if_neg hl, placeUnit]
  omega

theorem gal_ha {s : State} {c i off : Nat} {map : List (Nat × Nat)} {e : FrameEnt} (h : (kvGet map i).bind (s.frame c) = some e)
    (hl : e.layout ≠ 2) (ho : off < 4096) : s.galHa c map i off = some (s.entryHa e 0 + off) := by
  rw [State.galHa, h, Option.map_some, entry_ha s e hl off ho]

/-- A host that holds no line holds none of them. -/
theorem host_free {s : State} (h : s.host.snoop = [] ∧ s.host.snoopOut = [] ∧ s.host.heldWrites = []) (line : Nat) : s.hostFree line := by
  simp [State.hostFree, State.snooped, heldByte, h]

/-- The hypotheses of a place at once, for two frames whose first bytes lie a frame apart, or one frame. -/
theorem own_place {s : State} {c : Nat} {g : GalleySt} {x : GalState} {p : RowPlace} {e f : FrameEnt}
    (ho : g.mustCopy x p.slotF = false ∧ g.mustCopy x p.tagF = false)
    (hw : p.slotO + slotBytes g.r ≤ 4096 ∧ p.tagO + 2 ≤ 4096)
    (he : (kvGet x.map p.slotF).bind (s.frame c) = some e ∧ e.layout ≠ 2 ∧ s.entryHa e 0 + 4096 ≤ hbmTop)
    (hf : (kvGet x.map p.tagF).bind (s.frame c) = some f ∧ f.layout ≠ 2 ∧ s.entryHa f 0 + 4096 ≤ hbmTop)
    (ha : p.slotF = p.tagF ∨ s.entryHa e 0 + 4096 ≤ s.entryHa f 0 ∨ s.entryHa f 0 + 4096 ≤ s.entryHa e 0)
    (hs : p.slotF ≠ p.tagF ∨ p.slotO + slotBytes g.r ≤ p.tagO) (hn : s.host.snoop = [] ∧ s.host.snoopOut = [] ∧ s.host.heldWrites = []) : s.ownPlace c g x p := by
  refine ⟨ho, hw, ?_, ?_, hs⟩
  · rintro i off (rfl | rfl) h
    · exact ⟨_, gal_ha he.1 he.2.1 h, by omega, host_free hn _⟩
    · exact ⟨_, gal_ha hf.1 hf.2.1 h, by omega, host_free hn _⟩
  · rintro i j a b h (hi | hi) (hj | hj) hka hkb h1 h2 <;> subst hi <;> subst hj
    · rw [gal_ha he.1 he.2.1 hka] at h1; rw [gal_ha he.1 he.2.1 hkb] at h2
      simp only [Option.some.injEq] at h1 h2; omega
    · rcases ha with ha | ha
      · have := he.1.symm.trans (ha ▸ hf.1)
        rw [gal_ha he.1 he.2.1 hka] at h1; rw [gal_ha hf.1 hf.2.1 hkb] at h2
        simp only [Option.some.injEq] at this h1 h2; subst this; exact ⟨ha, by omega⟩
      · rw [gal_ha he.1 he.2.1 hka] at h1; rw [gal_ha hf.1 hf.2.1 hkb] at h2
        simp only [Option.some.injEq] at h1 h2; omega
    · rcases ha with ha | ha
      · have := he.1.symm.trans (ha ▸ hf.1)
        rw [gal_ha hf.1 hf.2.1 hka] at h1; rw [gal_ha he.1 he.2.1 hkb] at h2
        simp only [Option.some.injEq] at this h1 h2; subst this; exact ⟨ha.symm, by omega⟩
      · rw [gal_ha hf.1 hf.2.1 hka] at h1; rw [gal_ha he.1 he.2.1 hkb] at h2
        simp only [Option.some.injEq] at h1 h2; omega
    · rw [gal_ha hf.1 hf.2.1 hka] at h1; rw [gal_ha hf.1 hf.2.1 hkb] at h2
      simp only [Option.some.injEq] at h1 h2; omega

theorem glr_turn_1 : (begin galIn (glTk (glr 2 0 0 7 1))).atTurn 0 5 0x10 (glTk (glr 2 0 0 7 1)).tk :=
  at_turn (by decide +kernel)

/-- The last slug of galley 2 can be loaded; one more cannot; galley 3 is not declared. -/
theorem witness_GalleyLoadsReachIncomingState :
    (∀ r ∈ [glr 2 0 0 8 1, glr 3 0 0 0 1], ∃ st, ((begin (galSt csLoaded [gst 3 2]) (glTk r)).turnTaken 0 5).loadCheck 0
      (slice (tkInline (glTk r).raw) 0 64) = some st) ∧
    ((begin galIn (glTk (glr 2 0 0 7 1))).canonical = true ∧
      (begin galIn (glTk (glr 2 0 0 7 1))).atTurn 0 5 0x10 (glTk (glr 2 0 0 7 1)).tk ∧
      (begin galIn (glTk (glr 2 0 0 7 1))).sourceReads 0 5 (glTk (glr 2 0 0 7 1)).tk 64 (glr 2 0 0 7 1) []
        ((begin galIn (glTk (glr 2 0 0 7 1))).turnTaken 0 5) ∧
      ((begin galIn (glTk (glr 2 0 0 7 1))).turnTaken 0 5).loadCheck 0 (glr 2 0 0 7 1) = none ∧
      ((begin galIn (glTk (glr 2 0 0 7 1))).turnTaken 0 5).galley 0 2 = some (gal 2 [gst 3 2, gst4]) ∧
      (∃ s3, ((begin galIn (glTk (glr 2 0 0 7 1))).turnTaken 0 5).rowsRead (glTk (glr 2 0 0 7 1)).tk (glr 2 0 0 7 1) 4
        (zeros 4) (zeros 1) [] [] s3 ∧ s3.localRow 0 (gal 2 [gst 3 2, gst4]) 7 = some 7 ∧
        s3.ownPlace 0 (gal 2 [gst 3 2, gst4]) gst4 (rowPlace 4 7) ∧ s3.ownPlace 0 (gal 2 [gst 3 2, gst4]) gst4 (blankPlace 4)) ∧
      (gal 2 [gst 3 2, gst4]).incoming = some gst4 ∧ (gal 2 [gst 3 2]).serving.isSome = true ∧
      (gal 2 [gst 3 2]).r = 4 ∧ glrOp (glr 2 0 0 7 1) = 0 ∧ glrCount (glr 2 0 0 7 1) = 1 ∧ glrMaster (glr 2 0 0 7 1) = false) ∧
    (((begin galIn (glTk (glr 2 1 0 0 1))).turnTaken 0 5).loadCheck 0 (glr 2 1 0 0 1) = none ∧
      glrOp (glr 2 1 0 0 1) = 1 ∧ glrSeal (glr 2 1 (2 ^ 2) 0 1) = true) ∧
    (∀ op ∈ [2, 3], (begin (galSt csLoaded [gst 3 2, gst 4 0]) (glTk (glr 2 op 0 0 0))).canonical = true ∧
      ((begin (galSt csLoaded [gst 3 2, gst 4 0]) (glTk (glr 2 op 0 0 0))).turnTaken 0 5).loadCheck 0 (glr 2 op 0 0 0) = none ∧
      glrOp (glr 2 op 0 0 0) = op) ∧
    (begin (galSt csLoaded [gst 3 2, gst 4 0]) (glTk (glr 2 2 0 0 0))).atTurn 0 5 0x10 (glTk (glr 2 2 0 0 0)).tk := by
  refine ⟨?_, ⟨by decide +kernel, glr_turn_1, ?_, by decide +kernel, by decide +kernel,
    ⟨_, rows_read (by decide +kernel) (by decide +kernel) (by decide +kernel), by decide +kernel,
      own_place (e := galFrame 0) (f := galFrame 1) (by decide +kernel) (by decide +kernel) (by decide +kernel) (by decide +kernel) (by decide +kernel)
        (by decide +kernel) (by decide +kernel),
      own_place (e := galFrame 2) (f := galFrame 2) (by decide +kernel) (by decide +kernel) (by decide +kernel) (by decide +kernel) (by decide +kernel)
        (by decide +kernel) (by decide +kernel)⟩, by decide +kernel, by decide +kernel,
    by decide +kernel, by decide +kernel, by decide +kernel, by decide +kernel⟩, by decide +kernel, by decide +kernel, at_turn (by decide +kernel)⟩
  · simp only [List.forall_mem_cons, List.not_mem_nil, false_implies, implies_true, and_true]
    exact ⟨⟨lsRange, by decide +kernel⟩, ⟨lsNoGalley, by decide +kernel⟩⟩
  · exact (by decide +kernel : slice (tkInline (glTk (glr 2 0 0 7 1)).tk.raw) (tpSrc (glTk (glr 2 0 0 7 1)).tk.raw) 64 = glr 2 0 0 7 1) ▸
      inline_reads (by decide +kernel)

def swTk (g : Nat) : Tk := { op := 0x11, arg0 := g }

/-- One draining state is the most that lets a switch commit at once. -/
theorem witness_GalleySwitchesCommit :
    ((begin (galSt csLoaded []) (swTk 3)).canonical = true ∧ (begin (galSt csLoaded []) (swTk 3)).atTurn 0 5 0x11 (swTk 3).tk ∧
      (begin (galSt csLoaded []) (swTk 3)).galley 0 (tpArg0 (swTk 3).raw) = none) ∧
    ((galSt csLoaded []).galley 0 2 = some (gal 2 []) ∧ (gal 2 []).incoming = none) ∧
    (∀ st ∈ [csLoaded, csRunning], (galSt st [gst 2 3, gst 3 2, gst 4 0]).canonical = true ∧
      (galSt st [gst 2 3, gst 3 2, gst 4 0]).galley 0 2 = some (gal 2 [gst 2 3, gst 3 2, gst 4 0]) ∧
      (galSt st [gst 2 3, gst 3 2, gst 4 0]).csActive 0 = (st == csRunning)) ∧
    ((gal 2 [gst 2 3, gst 3 2, gst 4 0]).incoming = some (gst 4 0) ∧ (gal 2 [gst 2 3, gst 3 2, gst 4 0]).draining < 2) ∧
    (let g := { gal 2 [gst 3 2, gst 4 0] with pending := true, named := some 5 };
      let s := fun st ph => put (holds rdy st { ch with galleys := [(2, g)] }) [(Fld.stkPhase, 0, ph)];
      g.pending = true ∧ g.named.isSome = true ∧ g.incoming = some (gst 4 0) ∧ g.draining < 2 ∧
      (s csLoaded 0).canonical = true ∧ (s csLoaded 0).isReady = true ∧ (s csLoaded 0).csActive 0 = false ∧ (s csLoaded 0).galley 0 2 = some g ∧
      (s csRunning 1).csActive 0 = true ∧ (s csRunning 1).getF Fld.stkPhase 0 = 1 ∧ (s csRunning 2).getF Fld.stkPhase 0 ≠ 1) :=
  ⟨⟨by decide +kernel, at_turn (by decide +kernel), by decide +kernel⟩, by decide +kernel, by decide +kernel, by decide +kernel, by decide +kernel⟩

/-- Slot 0 runs over region 0 alone with its frames, with windows. -/
def dat : State := put (win (memSt csRunning)) [(Fld.sysChaseRegions, 0, 1)]

/-- One line of raw bytes that ends at the end of frame 16, and one tile of an array for the store compressor. -/
def dwTk : Tk := { op := 0x20, dst := 0x10FC0, len := 64, dstSpace := 2, inline := List.replicate 64 7 }
def dcTk : Tk := { op := 0x20, dst := 0x10000, len := 64, dstSpace := 2, sub := 1, inline := zeros 64 }
def drTk : Tk := { op := 0x21, src := 0x10000, len := 64, srcSpace := 2, dst := 2 ^ 20, dstSpace := 1 }

theorem witness_DataTicketsMoveChaseData_write :
    ((begin dat dwTk).canonical = true ∧ (begin dat dwTk).atTurn 0 5 0x20 dwTk.tk ∧
      (begin dat dwTk).sourceReads 0 5 dwTk.tk (tpLen dwTk.raw) (slice (tkInline dwTk.tk.raw) (tpSrc dwTk.tk.raw) (tpLen dwTk.raw)) []
        ((begin dat dwTk).turnTaken 0 5)) ∧
    (tpSub dwTk.raw % 4 = 0 ∧ tpDst dwTk.raw % 64 + (slice (tkInline dwTk.tk.raw) (tpSrc dwTk.tk.raw) (tpLen dwTk.raw)).length ≤ 64 ∧
      ∃ l, ((begin dat dwTk).turnTaken 0 5).chaseLoc 0 (tpDst dwTk.raw / 64 * 64) = some (64 * l) ∧ hbmTop ≤ 64 * l ∧
        ((begin dat dwTk).turnTaken 0 5).chaseLoc 0 (tpDst dwTk.raw) = some (64 * l + tpDst dwTk.raw % 64) ∧ (begin dat dwTk).snooped l = false) ∧
    (begin dat dcTk).atTurn 0 5 0x20 dcTk.tk :=
  ⟨⟨by decide +kernel, at_turn (by decide +kernel), inline_reads (by decide +kernel)⟩,
    ⟨by decide +kernel, by decide +kernel, (2 ^ 44 + 0x10FC0) / 64, by decide +kernel⟩, at_turn (by decide +kernel)⟩

theorem witness_DataTicketsMoveChaseData_compress :
    let p := storeTiles 1 0 (slice (tkInline dcTk.tk.raw) (tpSrc dcTk.tk.raw) (tpLen dcTk.raw)) [];
    let s2 := ((begin dat dcTk).turnTaken 0 5).bump Fld.rgnArrNmOverfull (((begin dat dcTk).turnTaken 0 5).dealPhys (tkSlot dcTk.raw) 0) p.2;
    tpSub dcTk.raw % 4 = 1 ∧ tpSub dcTk.raw / 4 % 4 = 0 ∧
    (s2.ticketWrite (tkSlot dcTk.raw) (framePiecesOf (p.1.length / 4096 + 2) (tpDst dcTk.raw) p.1)).2 = true := by decide +kernel

/-- GALLEY_READ of slugs 6 and 7, the last, of state 3; SAMPLE of 1 token of 4096 bytes at most, for this member alone. -/
def grTk (num len : Nat) : Tk := { op := 0x12, dst := 2 ^ 20, len := len, dstSpace := 1, arg0 := 2, args := num + 6 * 2 ^ 64 }
def smTk (n members : Nat) : Tk :=
  { op := 0x30, len := n, dst := 2 ^ 21, dstSpace := 1, arg0 := 1, args := members * 2 ^ 16 + n * 2 ^ 32 + 64 * 2 ^ 64, inline := zeros (min n 384) }

/-- A hint record for the frames 16 and 17; a base of 0 breaks its table. -/
def hint (base : Nat) : Bytes := natLe 8 base ++ natLe 8 0x2000 ++ zeros 16
def hintTk (base : Nat) : Tk := { op := 0x40, len := 32, inline := hint base }

/-- A row of a state that lists no frame is the zero form at exponent 0 (R316). -/
theorem unwritten_row {s : State} {dram : Bool} {c k num st root : Nat} {g : GalleySt} (hk : k < 2 ^ 40) :
    s.rowIn dram c g ⟨num, st, root, []⟩ k = slugOf 0xC0 [] false := by
  have hd : ∀ i off n, s.galRead dram c [] i off n = (List.range n).map fun j => galDefault i (off + j) := fun _ _ _ => rfl
  have hp : ∀ i off, s.galPoison dram c [] i off = false := fun _ _ => rfl
  have ht : (rowPlace g.r k).tagF ≠ blankFrame := by simp only [rowPlace, tagPlace, blankFrame]; omega
  have hb : (List.range 2).map (fun j => galDefault (rowPlace g.r k).tagF ((rowPlace g.r k).tagO + j)) = [0xC0, 0] := by
    have h1 : 2 ^ 40 ≤ (rowPlace g.r k).tagF ∧ (rowPlace g.r k).tagF < blankFrame ∧ ((rowPlace g.r k).tagO + 0) % 2 = 0 := by
      simp only [rowPlace, tagPlace, blankFrame]; omega
    have h2 : ¬(2 ^ 40 ≤ (rowPlace g.r k).tagF ∧ (rowPlace g.r k).tagF < blankFrame ∧ ((rowPlace g.r k).tagO + 1) % 2 = 0) := by
      simp only [rowPlace, tagPlace, blankFrame]; omega
    simp only [List.range_succ, List.range_zero, List.nil_append, List.map_cons, List.map_nil, galDefault, if_pos h1, if_neg h2,
      List.cons_append]
  simp only [State.rowIn, State.slugIn, ht, false_and, if_false, hd, hb, hp]
  rfl

theorem witness_DataTicketsMoveChaseData_read :
    ((begin dat drTk).canonical = true ∧ (begin dat drTk).atTurn 0 5 0x21 drTk.tk ∧
      (∃ b s1, (begin dat drTk).sourceReads 0 5 drTk.tk (tpLen drTk.raw) b [] s1 ∧ ∀ p ∈ pagesOf (tpDst drTk.raw) b.length, dat.pageGranted true p = true) ∧
      tkDelivery drTk.raw = 0) ∧
    (let s := begin (galSt csRunning [gst 3 2]) (grTk 3 2);
      s.canonical = true ∧ s.galley 0 2 = some (gal 2 [gst 3 2]) ∧
      (gal 2 [gst 3 2]).state (u32At (tpArgs (grTk 3 2).raw) 0) = some (gst 3 2) ∧ tpLen (grTk 3 2).raw ≠ 0 ∧
      u64At (tpArgs (grTk 3 2).raw) 8 + tpLen (grTk 3 2).raw ≤ (gal 2 []).slugs ∧ u64At (tpArgs (grTk 3 2).raw) 8 ≠ blankIndex ∧
      tkDelivery (grTk 3 2).raw = 0 ∧ (∀ p ∈ pagesOf (tpDst (grTk 3 2).raw) (tpLen (grTk 3 2).raw * ((gal 2 []).r + 1)), s.pageGranted true p = true) ∧
      (gal 2 []).state (u32At (tpArgs (grTk 4 2).raw) 0) = none ∧ tpLen (grTk 3 0).raw = 0) ∧
    (begin (galSt csRunning [gst 3 2]) (grTk 3 2)).atTurn 0 5 0x12 (grTk 3 2).tk ∧
    (∀ k q, State.localRow (galSt csRunning [gst 3 2]) 0 (gal 2 [gst 3 2]) k = some q → q < 2 ^ 40 →
      ((galSt csRunning [gst 3 2]).rowIn false 0 (gal 2 [gst 3 2]) (gst 3 2) q).poison = false ∧
      (((galSt csRunning [gst 3 2]).rowIn false 0 (gal 2 [gst 3 2]) (gst 3 2) q).row 0 4 4).length = 4) :=
  ⟨⟨by decide +kernel, at_turn (by decide +kernel), ⟨zeros 64, _, source_reads (by decide +kernel), by decide +kernel⟩, by decide +kernel⟩,
    by decide +kernel, at_turn (by decide +kernel), fun _ q _ hq => by rw [gst, unwritten_row hq]; exact ⟨rfl, by decide +kernel⟩⟩

theorem witness_DataTicketsMoveChaseData_sample :
    ((begin dat (smTk 64 1)).canonical = true ∧ (begin dat (smTk 64 1)).atTurn 0 5 0x30 (smTk 64 1).tk ∧
      ¬(smIn (smTk 64 1).raw = 0 ∨ 4096 < smIn (smTk 64 1).raw ∨ 2 ^ 27 < smOut (smTk 64 1).raw ∨
        tpLen (smTk 64 1).raw ≠ smTokens (smTk 64 1).raw * smIn (smTk 64 1).raw) ∧
      (begin dat (smTk 64 1)).sampleRefused 0 (smTk 64 1).raw = false ∧ (begin dat (smTk 64 1)).sampleRefused 0 (smTk 64 3).raw = true ∧
      (∃ b bad s1, ((begin dat (smTk 64 1)).turnTaken 0 5).srcRead (smTk 64 1).tk (tpSrcSpace (smTk 64 1).raw)
        (tpSrc (smTk 64 1).raw + (smRange (smTk 64 1).raw (0 - smFirst (smTk 64 1).raw)).1 * smIn (smTk 64 1).raw)
        ((smRange (smTk 64 1).raw (0 - smFirst (smTk 64 1).raw)).2 * smIn (smTk 64 1).raw) = (s1, some (b, bad)))) ∧
    (begin dat (smTk 0 1)).ticketCheck 0 (smTk 0 1).raw = none ∧ smIn (smTk 0 1).raw = 0 ∧
    (∀ base ∈ [0x10000, 0], (begin dat (hintTk base)).canonical = true ∧ (begin dat (hintTk base)).ticketCheck 0 (hintTk base).raw = none ∧
      (begin dat (hintTk base)).forme 0 ≠ [] ∧ (begin rdy (hintTk base)).forme 0 = [] ∧ (applyHints [] (pieces 32 (hint base))).isSome = (base != 0)) ∧
    (begin dat (hintTk 0)).atTurn 0 5 0x40 (hintTk 0).tk ∧
    (begin dat (hintTk 0)).sourceReads 0 5 (hintTk 0).tk 32 (slice (tkInline (hintTk 0).tk.raw) (tpSrc (hintTk 0).tk.raw) 32) []
      ((begin dat (hintTk 0)).turnTaken 0 5) :=
  ⟨⟨by decide +kernel, at_turn (by decide +kernel), by decide +kernel, by decide +kernel, by decide +kernel, _, _, _, Prod.ext rfl
    (by decide +kernel : (((begin dat (smTk 64 1)).turnTaken 0 5).srcRead (smTk 64 1).tk (tpSrcSpace (smTk 64 1).raw)
        (tpSrc (smTk 64 1).raw + (smRange (smTk 64 1).raw (0 - smFirst (smTk 64 1).raw)).1 * smIn (smTk 64 1).raw)
        ((smRange (smTk 64 1).raw (0 - smFirst (smTk 64 1).raw)).2 * smIn (smTk 64 1).raw)).2 = some (zeros 64, []))⟩,
    by decide +kernel, by decide +kernel, by decide +kernel, at_turn (by decide +kernel), inline_reads (by decide +kernel)⟩

def mkTk (op arg0 args : Nat) : Tk := { op := op, arg0 := arg0, args := args }

/-- A queue pair's record: port 3, IPv4, no VLAN, 127.0.0.1 as its source. -/
def qpRec : Bytes := natLe 8 (3 + 4 * 2 ^ 16 + 7 * 2 ^ 24 + 8 * 2 ^ 32 + 0xFFFF * 2 ^ 48) ++ zeros 36 ++ [1, 0, 0, 127] ++ zeros 16
def qpTk (r : Bytes) : Tk := { op := 0x60, len := 64, inline := r }
def net (s : State) : State := put s [(Fld.ethIp4, 3, 2130706433), (Fld.ethMac, 3, 1), (Fld.ethUp, 3, 1)]
def qp0 : Qp := ⟨0, qpRec, 5, 9, false, 0, false, none, none, none, [], []⟩
def mr0 : Mr := ⟨none, 0, 2 ^ 20, true, true, true⟩
def withQp (s : State) (q : Qp) : State := { net s with eth := { s.eth with qps := [(2 ^ 24 - 1, q)], mrs := [(7, mr0)] } }

/-- The count meets the target of a counting mark at 4. -/
theorem witness_MarkAndQueueTicketsAct_marks :
    (∀ e ∈ [(0, 3), (0, 4), (1, 3)], (begin (marked (inSt csRunning) e.1 e.2 0) (mkTk 0x50 5 1)).canonical = true ∧
      (begin (marked (inSt csRunning) e.1 e.2 0) (mkTk 0x50 5 1)).markOf 0 (tpSub (mkTk 0x50 5 1).raw % 2 ^ 6) (tpArg0 (mkTk 0x50 5 1).raw) = some 16383 ∧
      tpSub (mkTk 0x50 5 1).raw % 2 ^ 6 = (begin (marked (inSt csRunning) e.1 e.2 0) (mkTk 0x50 5 1)).activeCtx 0 ∧
      tpSub (mkTk 0x50 5 1).raw / 2 ^ 14 % 4 = 0 ∧ u16At (tpArgs (mkTk 0x50 5 1).raw) 0 ≠ 0) ∧
    (begin (marked (inSt csRunning) 0 3 0) (mkTk 0x50 5 1)).atTurn 0 5 0x50 (mkTk 0x50 5 1).tk ∧
    (begin (marked (inSt csRunning) 0 4 0) (mkTk 0x51 5 0)).atTurn 0 5 0x51 (mkTk 0x51 5 0).tk ∧
    ((marked (inSt csRunning) 0 4 0).flag Fld.mrkBarrier 16383 = false ∧ (marked (inSt csRunning) 0 4 0).getF Fld.mrkTarget 16383 ≤ 4 ∧
      (marked (inSt csRunning) 0 3 0).getF Fld.mrkCount 16383 < 4 ∧ (marked (inSt csRunning) 1 3 0).flag Fld.mrkBarrier 16383 = true) ∧
    (0 ≠ (marked (inSt csRunning) 0 3 1).activeCtx 0 ∧ (marked (inSt csRunning) 0 3 0).markOf 0 0 4 = none) :=
  ⟨by decide +kernel, at_turn (by decide +kernel), at_turn (by decide +kernel), by decide +kernel, by decide +kernel⟩

theorem witness_MarkAndQueueTicketsAct_queues :
    (∀ r ∈ [qpRec, zeros 64], (begin (net (inSt csLoaded)) (qpTk r)).canonical = true ∧ qpRecordOk r = (r == qpRec)) ∧
    ((begin (net (inSt csLoaded)) (qpTk qpRec)).atTurn 0 5 0x60 (qpTk qpRec).tk ∧
      (begin (net (inSt csLoaded)) (qpTk qpRec)).sourceReads 0 5 (qpTk qpRec).tk 64 (slice (tkInline (qpTk qpRec).tk.raw) (tpSrc (qpTk qpRec).tk.raw) 64) []
        ((begin (net (inSt csLoaded)) (qpTk qpRec)).turnTaken 0 5) ∧
      (net (inSt csLoaded)).sipOk qpRec = true ∧ (inSt csLoaded).sipOk qpRec = false ∧ (net (inSt csLoaded)).eth.qps.length < 16384) ∧
    (∀ e ∈ [(0x61, 2 ^ 24 - 1), (0x63, 7), (0x61, 6), (0x63, 6)], (begin (withQp rdy qp0) (mkTk e.1 e.2 0)).canonical = true ∧
      (begin (withQp rdy qp0) (mkTk e.1 e.2 0)).ticketCheck 0 (mkTk e.1 e.2 0).raw = none) ∧
    ((withQp rdy qp0).qp? (2 ^ 24 - 1) = some qp0 ∧ (withQp rdy qp0).qp? 6 = none ∧ kvGet (withQp rdy qp0).eth.mrs 7 = some mr0 ∧
      kvGet (withQp rdy qp0).eth.mrs 6 = none ∧ ((withQp rdy qp0).eth.qps.map (·.1)).Pairwise (· < ·) ∧
      ((withQp rdy qp0).eth.mrs.map (·.1)).Pairwise (· < ·)) ∧
    (begin (withQp rdy qp0) (mkTk 0x61 (2 ^ 24 - 1) 0)).atTurn 0 5 0x61 (mkTk 0x61 (2 ^ 24 - 1) 0).tk ∧
    (begin dat { op := 0x62, src := 0x10000, len := 64, srcSpace := 2, sub := 3 }).atTurn 0 5 0x62
      (Tk.tk { op := 0x62, src := 0x10000, len := 64, srcSpace := 2, sub := 3 }) ∧
    (begin rdy { op := 0x70, inline := [1, 2] }).atTurn 0 5 0x70 (Tk.tk { op := 0x70, inline := [1, 2] }) :=
  ⟨by decide +kernel, ⟨at_turn (by decide +kernel), inline_reads (by decide +kernel), by decide +kernel, by decide +kernel, by decide +kernel⟩,
    by decide +kernel, by decide +kernel, at_turn (by decide +kernel), at_turn (by decide +kernel), at_turn (by decide +kernel)⟩

/-! ### Strokes and members -/

/-- On the member of node 1, whose ordinal is 1. -/
def second (s : State) : State := put s [(Fld.hlkNdId, 0, 1)]

/-- Slot 0 runs, in a phase of stroke 8, at a plate of its program. -/
def atPhase (ph plate : Nat) (x : ChaseSt) : State := put (holds rdy csRunning x) [(Fld.stkNumber, 0, 8), (Fld.stkPhase, 0, ph), (Fld.stkPlate, 0, plate)]

/-- A start at the boundary is no hold, one after it is. -/
theorem witness_StrokesBeginAndReachPlates :
    (∀ start ∈ [0, 2 ^ 40], (atPhase 4 0 { ch with verdict := some (9, start) }).canonical = true ∧
      (atPhase 4 0 { ch with verdict := some (9, start) }).isReady = true ∧ (atPhase 4 0 { ch with verdict := some (9, start) }).csStriking 0 = true ∧
      decide ((((atPhase 4 0 { ch with verdict := some (9, start) }).boundary 0 9 : Nat) : Int) + ch.goShift < (start : Int)) = (start != 0) ∧
      ch.pendingStep = none ∧ ch.substituting = false ∧ ch.realign = false ∧
      (atPhase 4 0 { ch with verdict := some (9, start) }).flag Fld.mrkSwPending 0 = false) ∧
    (∀ v ∈ [0, 1], let s := put (holds rdy csJoining { ch with startStroke := some 4 }) [(Fld.sysMapValid 1, 0, v)];
      s.canonical = true ∧ s.isReady = true ∧ s.cs 0 = csJoining ∧ (s.chase 0).startStroke = some 4 ∧ s.regionsGone 0 = (v == 0) ∧
      s.flag Fld.mrkSwPending 0 = false) ∧
    (∀ p ∈ [5, 11], (atPhase 1 p ch).canonical = true ∧ (atPhase 1 p ch).isReady = true ∧ (atPhase 1 p ch).csStriking 0 = true ∧
      (atPhase 1 p ch).getF Fld.stkPhase 0 = 1 ∧ (atPhase 1 p ch).flag Fld.stkParked 0 = false ∧
      (plateAt ((atPhase 1 p ch).forme 0) ((atPhase 1 p ch).getF Fld.stkPlate 0)).wait = none16 ∧
      (plateAt ((atPhase 1 p ch).forme 0) ((atPhase 1 p ch).getF Fld.stkPlate 0)).ink = 0xFF ∧ ch.inDist = false ∧
      (plateAt ((atPhase 1 p ch).forme 0) ((atPhase 1 p ch).getF Fld.stkPlate 0)).isDist = (p == 11) ∧
      (plateAt ((atPhase 1 p ch).forme 0) ((atPhase 1 p ch).getF Fld.stkPlate 0)).runOnly = (p == 5)) ∧
    (put (atPhase 1 5 ch) [(Fld.stkParked, 0, 1)]).flag Fld.stkParked 0 = true ∧
    (∀ l ∈ [true, false], let s := atPhase 2 5 { ch with lateCounted := l };
      s.canonical = true ∧ s.isReady = true ∧ s.csStriking 0 = true ∧ s.getF Fld.stkPhase 0 = 2 ∧ (s.chase 0).inDist = false ∧
      (s.chase 0).finished = false ∧ (s.chase 0).lateCounted = l) := by decide +kernel

theorem witness_BoundariesAreJudged :
    (∀ d ∈ [[], [(0, 5)]], let s := atPhase 4 0 { ch with dones := d, judge := 9 };
      s.canonical = true ∧ s.isUp = true ∧ s.csStriking 0 = true ∧ s.ordinal 0 = 0 ∧ 1 < s.members 0 ∧ (∀ e ∈ (s.chase 0).dones, e.1 ≠ 1) ∧
      (s.chase 0).verdict = none ∧ (s.chase 0).stopAt = none) ∧
    ((∀ e ∈ ([] : List (Nat × Nat)), e.1 ≠ 0) ∧ ∀ k, k < 2 → k ≠ 1 → ∃ e ∈ [(0, 5)], e.1 = k) ∧
    (let s := second (atPhase 4 0 { ch with judge := 9 });
      s.canonical = true ∧ s.isUp = true ∧ s.csStriking 0 = true ∧ s.ordinal 0 ≠ 0 ∧ s.cs 0 = csRunning ∧ 8 < (s.chase 0).judge ∧ (s.chase 0).judge ≤ 9 ∧
      (s.chase 0).verdict = none) ∧
    (let s := second (holds rdy csStopping { ch with judge := 9, stopAt := some 9 });
      s.canonical = true ∧ s.cs 0 = csStopping ∧ (s.chase 0).stopAt = some 9 ∧ 9 ≤ 9 ∧ 8 < 9 ∧ s.ordinal 0 ≠ 0) ∧
    (∀ sub ∈ [true, false], ∀ n ∈ [1, 2], let s := put (atPhase 4 0 { ch with substituting := sub }) [(Fld.stkConsecSlips, 0, n)];
      s.canonical = true ∧ s.isUp = true ∧ s.csStriking 0 = true ∧ (s.chase 0).verdict = none ∧ (s.chase 0).substituting = sub ∧
      (s.chase 0).pendingStep = none ∧ s.getF Fld.stkConsecSlips 0 = n) ∧
    (let s := second (put (holds rdy csRunning { ch with judge := 9, galleys := [(1, gal 1 [gst 3 2])] }) [(Fld.stkNumber, 0, 8)]);
      s.canonical = true ∧ s.csStriking 0 = true ∧ s.ordinal 0 ≠ 0 ∧ 8 < (s.chase 0).judge ∧ s.galley 0 1 = some (gal 1 [gst 3 2])) := by
  decide +kernel

theorem witness_BoundariesAreJudged_slips : State.SlipSays (atPhase 4 0 ch) 0 (.slip 0) ∧
    State.SlipSays (second (atPhase 4 0 ch)) 0 (.verdict 0 0 false 0 []) ∧ State.SlipSays (second (atPhase 4 0 ch)) 0 (.verdictTimeout 0) :=
  ⟨.root (by decide +kernel), .told 0 0 [] (by decide +kernel) (by decide +kernel), .silent (by decide +kernel)⟩

def chJ : ChaseSt := { ch with priorIdle := csLoaded }

theorem witness_MembersTellEachOther :
    ((∀ st ∈ [csLoaded, csRunning, csJoining], (holds rdy st chJ).canonical = true ∧ (holds rdy st chJ).isReady = true ∧ (holds rdy st chJ).cs 0 = st ∧
        1 < (holds rdy st chJ).members 0 ∧ 1 ≠ (holds rdy st chJ).ordinal 0) ∧
      slice [1] 0 32 ≠ fhHeaderDigest chJ.forme ∧ slice (zeros 32) 0 32 = fhHeaderDigest chJ.forme ∧
      (∀ j ∈ [(0, zeros 32)], j.2 = fhHeaderDigest chJ.forme) ∧ chJ.startStroke = none) ∧
    ((holds rdy csJoining chJ).allJoined 0 = false ∧ ((holds rdy csJoining chJ).chase 0).priorIdle = csLoaded) ∧
    ((second (holds rdy csJoining chJ)).canonical = true ∧ (second (holds rdy csJoining chJ)).ordinal 0 ≠ 0) ∧
    ((holds rdy csRunning { ch with stopAt := some 4 }).canonical = true ∧ (holds rdy csRunning { ch with stopAt := some 4 }).csStriking 0 = true ∧
      (holds rdy csRunning ch).csActive 0 = true ∧ (holds rdy csLoaded ch).csActive 0 = false ∧ (holds rdy csLoaded ch).cs 0 ≠ csEmpty ∧
      (holds rdy csRunning ch).ordinal 0 = 0) ∧
    ((holds rdy csRunning { ch with sumParts := [(0, gSum)] }).canonical = true ∧ 7 < ch.slots.length ∧ 7 < chJ.slots.length ∧
      (∃ j, j < 2 ∧ kvGet (kvPut [] 1 gSum) j = none) ∧ ∀ j, j < 2 → (kvGet (kvPut [(0, gSum)] 1 gSum) j).isSome = true) :=
  ⟨by decide +kernel, by decide +kernel, by decide +kernel, by decide +kernel, by decide +kernel, by decide +kernel, by decide +kernel,
    ⟨0, by decide, rfl⟩, by decide +kernel⟩

/-! ### Plates -/

/-- A gather record: one bag of the one index 0; offsets at 0x10100, indices at 0x10200. -/
def gatherRec : Bytes := natLe 8 0x10100 ++ natLe 8 0x10200 ++ zeros 24 ++ natLe 4 1 ++ zeros 20

/-- A product record of one row and one column. -/
def productRec : Bytes := zeros 32 ++ natLe 4 1 ++ natLe 4 1 ++ [1, 1] ++ zeros 22

/-- Plate `p` of slot 0 is in hand, started, in the run phase, with its records in frame 16; galley 2 has these states. -/
def runs (p : Nat) (x : ChaseSt) : State :=
  { put (holds rdy csRunning { x with frames := [(16, onChip), (32, onChip)], plate := { x.plate with index := p, started := true } })
      [(Fld.stkPhase, 0, if p = 11 then 3 else 2)] with
    mem := memPutRun (memPutRun [] (chipLoc 0 0x10000) (gatherRec ++ productRec)) (chipLoc 0 0x10104) [1] }

def chG : ChaseSt := { ch with galleys := [(1, gal 1 [gst 3 2]), (2, gal 2 [gst 3 2])], begunCount := 5 }

/-- Each command of a plate has a plate that it acts on; a poisoned record, and a plate of another role. -/
theorem witness_RunningPlatesDoTheirWork :
    (∀ e ∈ [(0, 1, 0), (1, 1, 1), (2, 1, 2), (3, 1, 3), (4, 2, 0), (5, 3, 0), (6, 4, 0), (7, 5, 0), (8, 6, 0), (9, 7, 0), (10, 8, 0), (11, 9, 0),
        (12, 10, 0), (13, 10, 0), (14, 10, 0)],
      (runs e.1 chG).canonical = true ∧ (runs e.1 chG).plateRuns 0 e.2.1 = true ∧ (e.2.1 = 1 → ((runs e.1 chG).plate 0).gaRole = e.2.2) ∧
        (e.2.1 = 10 → ((runs e.1 chG).plate 0).stateOp = e.1 - 11)) ∧
    (({ runs 5 chG with poison := [chipLoc 0 0x10040 / 32] } : State).chaseRead 0 ((runs 5 chG).plate 0).src 64).2 = true := by
  decide +kernel

theorem witness_RunningPlatesDoTheirWork_says : PlateSays 0 [] (.gather 0 []) 1 (fun p => p.gaRole == 0) ∧ rdy.plateRuns 0 1 = false :=
  ⟨.gather, by decide +kernel⟩

theorem witness_LookupPlatesServeBags :
    (∀ e ∈ [(0, 2), (1, 1)], (runs e.1 chG).canonical = true ∧ (runs e.1 chG).plateRuns 0 1 = true ∧
      (runs e.1 chG).galley 0 ((runs e.1 chG).plate 0).galley = some (gal e.2 [gst 3 2]) ∧ (gal e.2 [gst 3 2]).serving = some (gst 3 2) ∧
      ((runs e.1 chG).bagsInHand 0 (gal e.2 [gst 3 2])).isSome = true ∧ ((runs e.1 chG).plate 0).gaRole = e.1) ∧
    (let g := { gal 1 [gst 3 2] with splits := [⟨3, 0, 0, [⟨[], 0, 0, 0, false⟩]⟩], reqIn := [⟨0, 1, 0, 1, 3⟩] };
      let s := fun p => runs p { chG with galleys := [(1, g)] };
      (s 2).canonical = true ∧ (s 2).plateRuns 0 1 = true ∧ (s 2).galley 0 ((s 2).plate 0).galley = some g ∧ ((s 2).plate 0).gaRole = 2 ∧
      (s 3).plateRuns 0 1 = true ∧ ((s 3).plate 0).gaRole = 3 ∧
      g.splits.find? (fun h => h.begunAt + 2 == ((s 3).chase 0).begunCount) = some ⟨3, 0, 0, [⟨[], 0, 0, 0, false⟩]⟩ ∧ ((s 3).plate 0).count = 1 ∧
      bitOf ((s 3).plate 0).args 37 = false) ∧
    ((gal 1 [gst 3 2]).splits.find? (fun h => h.begunAt + 2 == 5) = none ∧ (runs 0 ch).canonical = true ∧ (runs 0 ch).plateRuns 0 1 = true ∧
      (runs 0 ch).galley 0 ((runs 0 ch).plate 0).galley = none) := by decide +kernel

/-- Galley 2 with an incoming or sealed state, a dirty row and a value, a request and a name. -/
def pub (states : List GalState) (named : Option Nat) (at1 : Option Nat) : GalleySt :=
  { gal 2 states with dirty := [0, 1], named := named, scatterAt := at1, pending := true }

/-- PUBLISH of one dirty row, into frames that are the incoming state's own. -/
def galPub : GalleySt := { pub [gst 3 2, gst4] none none with dirty := [7] }
def pubIn : State :=
  let s := (runs 12 { chG with galleys := [(2, galPub)] }).updChase 0 fun x => { x with frames := x.frames ++
    [(2 ^ 32, galFrame 0), (2 ^ 32 + 1, galFrame 1), (2 ^ 32 + 2, galFrame 2)] }
  { s with hbm := { s.hbm with bands := [⟨0, 0, [0, 1]⟩] } }

theorem witness_WritingPlatesLeaveTheirMarks :
    (∀ p ∈ [5, 6], (runs p chG).canonical = true ∧ (runs p chG).plateRuns 0 (p - 2) = true ∧
      (productArgsOf ((runs p chG).plate 0).args).sampled = false) ∧
    ((runs 11 chG).canonical = true ∧ (runs 11 chG).plateRuns 0 9 = true ∧ ((runs 11 chG).plate 0).src = 0 ∧ ((runs 11 chG).plate 0).galley ≠ none32 ∧
      (runs 11 chG).galley 0 ((runs 11 chG).plate 0).galley = some (gal 1 [gst 3 2]) ∧
      1 ∈ (runs 11 chG).others 0 ∧ (runs 11 chG).queuesHold 0 ((runs 11 chG).plate 0) 1 = false ∧
      (let s := runs 11 { chG with galleys := [(1, { gal 1 [gst 3 2] with reqOut := [⟨1, 1, 0, 0, 3⟩] })] };
        s.canonical = true ∧ s.queuesHold 0 (s.plate 0) 1 = true)) ∧
    (let g := pub [gst 3 2, gst 4 0] none none;
      let s := fun p => runs p { chG with galleys := [(2, g)] };
      (∀ p ∈ [12, 13, 14], (s p).canonical = true ∧ (s p).plateRuns 0 10 = true ∧ (s p).galley 0 ((s p).plate 0).galley = some g ∧
        ((s p).plate 0).stateOp = p - 11) ∧
      g.incoming = some (gst 4 0) ∧ (gst 4 0).stage = 0 ∧ g.scatterAt ≠ some 5 ∧ g.dirty.Pairwise (· < ·) ∧
      g.named = none) ∧
    ((pub [gst 3 2, gst 4 1] none none).incoming = some (gst 4 1) ∧ (gst 4 1).stage = 1 ∧ (pub [gst 3 2] none (some 5)).scatterAt = some 5 ∧
      (pub [gst 3 2] none none).incoming = none ∧ (pub [gst 3 2, gst 4 0] (some 9) none).named.isSome = true) := by decide +kernel

theorem witness_WritingPlatesLeaveTheirMarks_place :
    (pubIn.canonical = true ∧ pubIn.plateRuns 0 10 = true ∧ (pubIn.plate 0).stateOp = 1 ∧ pubIn.galley 0 (pubIn.plate 0).galley = some galPub ∧
      galPub.dirty = [7] ∧ galPub.incoming = some gst4 ∧ gst4.stage = 0 ∧ galPub.scatterAt ≠ some (pubIn.chase 0).begunCount) ∧
    pubIn.ownPlace 0 galPub gst4 (rowPlace galPub.r 7) :=
  ⟨by decide +kernel, own_place (e := galFrame 0) (f := galFrame 1) (by decide +kernel) (by decide +kernel) (by decide +kernel) (by decide +kernel)
    (by decide +kernel) (by decide +kernel) (by decide +kernel)⟩

theorem witness_WritingPlatesLeaveTheirMarks_record : (runs 5 chG).productInHand 0
    (productRecOf ((runs 5 chG).chaseRead 0 ((runs 5 chG).plate 0).src 64).1) (productArgsOf ((runs 5 chG).plate 0).args) :=
  ⟨rfl, rfl, by decide +kernel, by decide +kernel, by decide +kernel, by decide +kernel⟩

/-- Summary slot 0 of a chase that is combined. -/
def chS : ChaseSt := { ch with slots := { SummarySlot.empty with chase := true } :: List.replicate 7 SummarySlot.empty }

/-- Plate `p` has done its work, with regions done. -/
def worked (p : Nat) (done : List Nat) : State :=
  runs p { ch with plate := { PlateRt.none with worked := true, regionsDone := done } }

theorem witness_PlatesFollowEachOther :
    ((runs 15 ch).canonical = true ∧ (runs 15 ch).plateRuns 0 opHold = true ∧ ((runs 15 ch).plate 0).sig = none16 ∧
      ((runs 15 ch).chase 0).stopAt = none ∧ ((runs 15 ch).plate 0).args.testBit 2 = true ∧ (runs 15 ch).plateSettled 0 = true ∧
      (runs 16 ch).plateSettled 0 = true ∧ (runs 16 chS).plateSettled 0 = true) ∧
    ((runs 16 chS).canonical = true ∧ (runs 16 chS).plateRuns 0 opBranch = true ∧ ((runs 16 chS).slotAt 0 ((runs 16 chS).plate 0).slot).chase = true ∧
      ((runs 16 chS).plate 0).sig = none16) ∧
    ((runs 16 ch).canonical = true ∧ (runs 16 ch).plateRuns 0 opBranch = true ∧ 1 < (runs 16 ch).members 0 ∧
      ((runs 16 ch).slotAt 0 ((runs 16 ch).plate 0).slot).chase = false) ∧
    (∀ p ∈ [18, 19], ∀ d ∈ [[], [1]], (worked p d).canonical = true ∧ (worked p d).isReady = true ∧ (worked p d).csStriking 0 = true ∧
      ((worked p d).chase 0).plate.worked = true ∧ 0 ∈ (worked p d).heldRegions 0 ∧ 0 ∉ ((worked p d).chase 0).plate.regionsDone ∧
      ((worked p d).chase 0).substituting = false ∧ ((worked p d).chase 0).finished = false ∧ (worked p d).plateSettled 0 = true ∧
      ((worked p d).chase 0).plate.flow.restsIn 0 = true ∧
      (((worked p d).plate 0).sig = none16 ↔ p = 18)) ∧
    ((1 ∈ (worked 18 []).heldRegions 0 ∧ 1 ∉ ((worked 18 []).chase 0).plate.regionsDone) ∧
      (∀ j ∈ (worked 18 [1]).heldRegions 0, j = 0 ∨ j ∈ ((worked 18 [1]).chase 0).plate.regionsDone) ∧
      ((worked 18 [1]).plate 0).sumEn = true ∧ ((worked 18 [1]).plate 0).op = opDense ∧ ((worked 18 [1]).plate 0).slot < 8) ∧
    ((worked 19 []).markOf 0 ((worked 19 []).activeCtx 0) ((worked 19 []).plate 0).sig = none ∧
      (marked (worked 19 []) 0 3 0).canonical = true ∧
      (marked (worked 19 []) 0 3 0).markOf 0 ((marked (worked 19 []) 0 3 0).activeCtx 0) ((marked (worked 19 []) 0 3 0).plate 0).sig = some 16383 ∧
      (marked (worked 19 []) 0 3 0).flag Fld.mrkFabric 16383 = false ∧ ((marked (worked 19 []) 0 3 0).mark 16383).waits = []) := by
  decide +kernel

/-! ### Groups and micro-operations -/

def shape2 : GroupShape := ⟨2, 2, 0, 0, 0, 1, 1⟩
def acc2 (poison : Bool) (l : List Int) : AccGroup := ⟨1, poison, l, shape2, false, [], false⟩
def grouped (x : AccGroup) : State := { rdy with groups := [(cellKey ⟨15, 15, 15⟩ * 8 + 7, x)] }
def feed2 : FeedOp := ⟨1, 0, 0, List.replicate 32 1, 0, [List.replicate 32 2, List.replicate 32 3], [0, 0], false, [(1, 4)], []⟩

/-- The last group of the last cell, free and open. -/
theorem witness_GroupsOpenAccumulateAndClose :
    (rdy.canonical = true ∧ rdy.canOpen ⟨15, 15, 15⟩ 7 = true ∧ rdy.openGroup ⟨15, 15, 15⟩ 7 = none) ∧
    (let s := put (grouped (acc2 false [1, 2, 3, 4])) [(Fld.rasTransLimit, 0, 3)];
      s.canonical = true ∧ s.openGroup ⟨15, 15, 15⟩ 7 = some (acc2 false [1, 2, 3, 4]) ∧ s.canOpen ⟨15, 15, 15⟩ 7 = false ∧
      1 < shape2.cols ∧ (4 : Int) % 3 ≠ 0 ∧ (s.transientsOf (s.columnOf ⟨15, 15, 15⟩ 1)).length + 1 < s.getF Fld.rasTransLimit 0 ∧
      1 * shape2.cols + 1 < (acc2 false [1, 2, 3, 4]).acc.length ∧ shape2.cols ≤ 2 ∧
      (acc2 false [1, 2, 3, 4]).acc.length ≤ 2 * shape2.cols + 0 ∧ (s.groups.map (·.1)).Pairwise (· < ·) ∧ s.physOf 15 < 20 ∧
      feed2.wf = true ∧ s.openWaits = []) ∧
    (let q : OpenWait := ⟨cellKey ⟨15, 15, 15⟩, 7, false, acc2 false [0, 0, 0, 0]⟩;
      let s : State := { grouped (acc2 false [1, 2, 3, 4]) with openWaits := [q] };
      s.openWaits.find? (fun q => q.cell == cellKey ⟨15, 15, 15⟩ && (q.any || q.g == 7)) = some q ∧ q.grp.st = 1 ∧
        s.openGroup ⟨15, 15, 15⟩ 7 = some (acc2 false [1, 2, 3, 4]) ∧ s.canonical = true) ∧
    (let big : GroupShape := ⟨32, 32, 0, 0, 0, 1, 1⟩; big.rows ≤ 32 ∧ big.cols ≤ 32 ∧ 32 < { big with cols := 33 }.cols ∧
      bup.cellWorks ⟨15, 15, 15⟩ = false ∧ rdy.cellWorks ⟨15, 15, 15⟩ = true ∧ 7 < 8 ∧ 8 ≤ 8) := by
  decide +kernel

/-- Close words for elements of 8 bits at exponent 0 with each CW_OVF: 127 fits, 128 does not but does at exponent 1, and a
large one fits at no exponent from -32 to 31. -/
theorem witness_GroupsOpenAccumulateAndClose_words :
    (∀ o ∈ [0, 1, 2], closeWordOk (512 + o * 2 ^ 13) = true ∧ (closeWordOf (512 + o * 2 ^ 13)).auto = false ∧
      (closeWordOf (512 + o * 2 ^ 13)).fmt = 2 ∧ (closeWordOf (512 + o * 2 ^ 13)).ovf = o ∧ (closeWordOf (512 + o * 2 ^ 13)).eo = 0) ∧
    (fitsFmt (rne (127 * 2 ^ 64) 0) 2 = true ∧ fitsFmt (rne (128 * 2 ^ 64) 0) 2 = false ∧ fitsFmt (rne (128 * 2 ^ 64) 1) 2 = true ∧
      loLim 2 = -32 ∧ hiLim 2 = 31 ∧ ∀ k : Nat, k < 64 → fitsFmt (rne (2 ^ 190) (Int.ofNat k - 32)) 2 = false) := by
  decide +kernel

/-- Words, register, lane: lane i of register r holds 3 × r + i − 4, with a poisoned lane. -/
def eng : VecEngine :=
  ⟨4, (List.range 32).map fun r => (List.range 64).map fun i => ⟨BitVec.ofInt 32 (3 * (r : Int) + (i : Int) - 4), r == 2 && i == 1⟩,
    (List.range 8).map fun r => (List.range 64).map fun i => (r + i) % 2 == 0, [7, 8]⟩
def vec : State := { rdy with engines := [(cellKey ⟨15, 15, 15⟩, eng)] }
def mu0 : MuFields := ⟨true, true, 1, 31, 1, 2, 3, false, 0⟩

theorem witness_MicroOpsWriteActiveLanes :
    (vec.canonical = true ∧ vec.cellWorks ⟨15, 15, 15⟩ = true ∧ vec.engine ⟨15, 15, 15⟩ = eng ∧ 31 < eng.v.length ∧ vec.physOf 15 < 20 ∧ 0 < eng.vl) ∧
    (∀ i, i < eng.vl → ∃ x fl, LaneSays ⟨15, 15, 15⟩ mu0 eng i (eng.lane 1 i) (secondOperand mu0 eng i) (.add ⟨15, 15, 15⟩ mu0) x fl) ∧
    (∃ x, LaneSays ⟨15, 15, 15⟩ mu0 eng 3 (eng.lane 1 3) (secondOperand mu0 eng 3) (.perm ⟨15, 15, 15⟩ mu0) x 1) ∧
    (∃ x, LaneSays ⟨15, 15, 15⟩ mu0 eng 1 (eng.lane 1 1) (secondOperand mu0 eng 1) (.rcp ⟨15, 15, 15⟩ mu0) x 8) ∧
    (∃ x, LaneSays ⟨15, 15, 15⟩ mu0 eng 0 (eng.lane 1 0) (secondOperand mu0 eng 0) (.rcp ⟨15, 15, 15⟩ mu0) x 0) ∧
    bup.cellWorks ⟨15, 15, 15⟩ = false :=
  ⟨by decide +kernel, fun _ _ => ⟨_, _, .add⟩, ⟨_, .permOut 5 (by decide +kernel) (by decide +kernel)⟩, ⟨_, .rcpZero (by decide +kernel)⟩,
    ⟨_, .rcp (-1) (by decide +kernel) (by unfold roundsTo; decide +kernel)⟩, by decide +kernel⟩

theorem witness_ComparesAndWideAdds :
    (vec.canonical = true ∧ vec.cellWorks ⟨15, 15, 15⟩ = true ∧ vec.engine ⟨15, 15, 15⟩ = eng ∧ 7 < 8 ∧ eng.m.length = 8 ∧ 26 + 6 ≤ eng.v.length ∧
      vec.physOf 15 < 20) ∧ CompareSays ⟨15, 15, 15⟩ { mu0 with dst := 7 } (.cmple ⟨15, 15, 15⟩ { mu0 with dst := 7 }) fun a b => a.toInt ≤ b.toInt :=
  ⟨by decide +kernel, .cmple⟩

/-! ### Links, messages and time -/

def lnk (st : LinkSt) (state : Nat) : State :=
  put { rdy with fab := { rdy.fab with links := [(95, st)] } } [(Fld.hlkLkState, 95, state), (Fld.hlkLkCap, 95, 4)]

/-- A link with signal, a credit of each channel, and failed attempts. -/
def good (n : Nat) : LinkSt := { LinkSt.empty with signal := true, failed := n, credits := List.replicate 8 1 }

theorem witness_LinksTrainAndGoDown :
    ((lnk (good 0) lkDown).canonical = true ∧ (lnk (good 0) lkDown).live = true ∧ (lnk (good 0) lkDown).isUp = true ∧
      (lnk (good 0) lkDown).getF Fld.hlkLkCap 95 ≠ 0 ∧ (lnk (good 0) lkDown).getF Fld.hlkLkState 95 = lkDown ∧ ((lnk (good 0) lkDown).link 95).signal = true) ∧
    (∀ n ∈ [0, 1], (lnk (good n) lkTraining).canonical = true ∧ (lnk (good n) lkTraining).isUp = true ∧
      (lnk (good n) lkTraining).getF Fld.hlkLkState 95 = lkTraining ∧ ((lnk (good n) lkTraining).link 95).failed = n) ∧
    (lnk (good 0) lkTraining).getF Fld.hlkLkState 95 ≠ lkDown ∧
    ((lnk (good 0) lkLinked).canonical = true ∧ (lnk (good 0) lkLinked).linkCarries 95 = true ∧ (lnk LinkSt.empty lkLinked).linkCarries 95 = true ∧
      ((lnk LinkSt.empty lkLinked).link 95).signal = false) ∧
    (let s := fun nd iso name : Nat => put (lnk (good 0) lkTraining) [(Fld.hlkNdState, 0, nd), (Fld.hlkLkIsolate, 95, iso), (Fld.hlkFbName, 0, name)];
      (s 0 0 1).getF Fld.hlkFbName 0 ≠ gHello.name ∧ gHello.name = (s 0 0 0).getF Fld.hlkFbName 0 ∧ (s 3 0 0).getF Fld.hlkNdState 0 = 3 ∧
      (s 4 0 0).getF Fld.hlkNdState 0 = 4 ∧ 4 ≤ { gHello with ndState := 4 }.ndState ∧ (s 2 4 0).getF Fld.hlkNdState 0 < 3 ∧
      { gHello with ndState := 2 }.ndState < 3 ∧ (s 2 4 0).getF Fld.hlkLkIsolate 95 = 4 ∧ (s 2 0 0).getF Fld.hlkLkIsolate 95 ≠ 4) := by
  decide +kernel

def lsr0 (gen state node : Nat) : Lsr := { gLsr with serial := 2 ^ 63, gen := gen, ndState := state, node := node }

/-- Link 95 runs, and the database holds these records; the node state and node ID. -/
def fabric (db : List Lsr) (nd : Nat) : State :=
  let s := lnk (good 0) lkLinked
  put { s with fab := { s.fab with lsdb := db.map fun r => (r, 0) } } [(Fld.hlkNdState, 0, nd), (Fld.hlkDsState, 0, 1)]

/-- The database has been quiet for these nanoseconds. -/
def quiet (s : State) (ns : Nat) : State := { s with upNs := ns, fab := { s.fab with nodes := [(2 ^ 63, 5)] } }

/-- A newer, an equally new and an unseen record; one nanosecond too early, and in time. -/
theorem witness_FabricIsDiscovered :
    ((fabric [] 1).canonical = true ∧ (fabric [] 1).isUp = true ∧ (fabric [] 1).linkCarries 95 = true ∧ (fabric [] 1).linkRuns 95 = true ∧
      ((fabric [] 1).link 95).waitOut = [] ∧ (fabric [] 1).credit 95 0 ≠ 0 ∧ (fabric [] 1).getF Fld.hlkNdState 0 = 1 ∧
      (fabric [] 1).getF Fld.hlkDsState 0 = 1) ∧
    ((fabric [lsr0 1 1 5] 0).canonical = true ∧ (∀ e ∈ (fabric [lsr0 1 1 5] 0).fab.lsdb, e.1.serial = (lsr0 2 1 5).serial → e.1.gen < (lsr0 2 1 5).gen) ∧
      (∃ e ∈ (fabric [lsr0 1 1 5] 0).fab.lsdb, e.1.serial = (lsr0 1 1 5).serial ∧ (lsr0 1 1 5).gen ≤ e.1.gen) ∧
      (∃ e ∈ (fabric [lsr0 1 1 5] 0).fab.lsdb, e.1.ndState = 1)) ∧
    (∀ e ∈ (fabric [lsr0 1 0 0] 0).fab.lsdb, e.1.ndState ≠ 1) ∧ (fabric [] 0).sec.settings.node = none ∧
    ((fabric [] 2).sec.settings.node = none ∧ (fabric [] 2).getF Fld.hlkNdState 0 = 2 ∧ ((fabric [] 2).fab.lsdb.length ≤ 256) ∧
      ({ fabric [lsr0 1 1 5] 1 with sec := { rdy.sec with settings := { rdy.sec.settings with node := some 5 } } } : State).sec.settings.node = some 5) ∧
    (∀ ns ∈ [999999999, 1000000000], let s := quiet (put (fabric [] 2) [(Fld.hlkSettleMs, 0, 1000)]) ns;
      s.canonical = true ∧ s.isUp = true ∧ s.getF Fld.hlkDsState 0 = 1 ∧ (s.upNs < s.fab.changedAt + s.getF Fld.hlkSettleMs 0 * 10 ^ 6 ↔ ns = 999999999)) ∧
    (∀ ns ∈ [49999999, 50000000], let s := quiet (fabric [lsr0 1 1 5] 2) ns;
      s.canonical = true ∧ s.getF Fld.hlkNdState 0 = 2 ∧ (s.upNs < s.fab.changedAt + 50 * 10 ^ 6 ↔ ns = 49999999) ∧
      s.fab.lsdb.all (fun e => kvGet s.fab.nodes e.1.serial == some 5) = true ∧ 5 ≠ s.getF Fld.hlkNdId 0 / 256 * 256 + 7) ∧
    (put (fabric [] 1) [(Fld.hlkDsState, 0, 2)]).getF Fld.hlkDsState 0 ≠ 1 ∧
    (∃ serial, serial ≠ ownSerial ∧ ∃ e ∈ (fabric [{ gLsr with serial := serial }] 0).fab.lsdb, e.1.serial = serial) :=
  ⟨by decide +kernel, ⟨by decide +kernel, by decide +kernel, ⟨(lsr0 1 1 5, 0), by decide +kernel⟩, ⟨(lsr0 1 1 5, 0), by decide +kernel⟩⟩,
    by decide +kernel, by decide +kernel, by decide +kernel, by decide +kernel, by decide +kernel, by decide +kernel, ownSerial + 1, by omega, ({ gLsr with serial := ownSerial + 1 }, 0), List.mem_singleton.2 rfl, rfl⟩

def dataFlit (typ seq hops : Nat) : Flit := { gFlit with typ := typ, vc := 1, seq := seq, hops := hops, last := true, src := 1 }

/-- 255 hops are the boundary; sequence 0 is expected. -/
theorem witness_FlitsArriveInSequence :
    ((fabric [] 1).canonical = true ∧ (fabric [] 1).isUp = true ∧ (fabric [] 1).linkCarries 95 = true ∧
      (dataFlit 0x10 1 0).seq ≠ ((fabric [] 1).link 95).rxSeq ∧ (dataFlit 0x10 1 0).nak = false) ∧
    ((dataFlit 0x10 0 255).hops = 255 ∧ (dataFlit 0x10 0 254).hops < 255 ∧ (dataFlit 0x10 0 254).seq = ((fabric [] 1).link 95).rxSeq ∧
      (dataFlit 0x10 0 254).dst = (fabric [] 1).getF Fld.hlkNdId 0 ∧ (fabric [] 1).msgDone 1 0 = false) ∧
    (({ fabric [] 1 with fab := { (fabric [] 1).fab with rx := [(1, 1, [])] } } : State).msgDone 1 0 = true) ∧
    (((lnk { good 0 with ackOwed := true } lkLinked).link 95).ackOwed = true ∧
      ((lnk { good 0 with ackOwed := true } lkLinked).link 95).txBlock.length < 4 ∧
      ((lnk { good 0 with nakOwed := true } lkLinked).link 95).nakOwed = true ∧ (fabric [] 1).linkRuns 95 = true ∧
      ((fabric [] 1).link 95).ackOwed = false ∧ ((fabric [] 1).link 95).nakOwed = false) ∧
    (let s := { holds (fabric [] 1) csRunning chM with fab := (fabric [] 1).fab };
      s.canonical = true ∧ s.slotOfTag 2 = some 0 ∧ s.takesMsgs 0 = true ∧ s.linkRuns 95 = true ∧
      ∀ sub ∈ [1, 9], { dataFlit 0x31 0 0 with chase := 2, arg := sub }.arg % 256 = sub) ∧
    ({ dataFlit 4 0 0 with vc := 0 }.vc = 0 ∧ 4 ≤ (dataFlit 4 0 0).typ) ∧
    ((fabric [] 1).fab.held = [] ∧ bitOf ((fabric [] 1).routeWord 7) 63 = false ∧ 7 ≠ (fabric [] 1).getF Fld.hlkNdId 0) ∧
    (∀ bad ∈ [true, false], let s := lnk { good 0 with rxPos := 1, rxBad := bad } lkLinked;
      s.canonical = true ∧ s.blockBad 95 [] = bad ∧ s.linkCarries 95 = true) := by decide +kernel

/-- Eight wrong symbols of one codeword are corrected, nine are not; symbols 0, 4, 8 … are those of codeword 0. -/
theorem witness_FlitsArriveInSequence_block : ((fabric [] 1).link 95).rxPos = 0 ∧
    (fabric [] 1).blockBad 95 ((List.range 8).map (4 * ·)) = false ∧ (fabric [] 1).blockBad 95 ((List.range 9).map (4 * ·)) = true := by
  decide +kernel

theorem witness_FlitsArriveInSequence_order : (fabric [] 1).inSequence 95 (dataFlit 0x10 0 254) := ⟨by decide, rfl, by decide +kernel⟩

/-- Slot 0 runs with the partition tag 2, and these flits stand in the inbox. -/
def mail (st : Nat) (x : ChaseSt) (l : List Flit) : State := { holds rdy st x with fab := { rdy.fab with inbox := l } }
def wFlit (typ arg : Nat) (last : Bool) : Flit := { gFlit with typ := typ, vc := 1, last := last, chase := 2, src := 1, arg := arg, plen := 1, payload := [7] }

theorem witness_MessagesDoTheirWork :
    (∀ l ∈ [true, false], let f := wFlit 0x10 (2 ^ 44 - 1) l; let s := mail csRunning chM [f];
      s.canonical = true ∧ s.hasIn f 0x10 = true ∧ s.slotOfTag f.chase = some 0 ∧ s.takesMsgs 0 = true ∧ 4096 ≤ f.arg + 220 * f.index ∧
      f.arg + 220 * f.index + f.plen ≤ 2 ^ 44 ∧ allParts (addPart (s.partsOf f.src f.msg) f) = l) ∧
    (let s := mail csFaulted chM [wFlit 0x10 4096 true]; s.canonical = true ∧ s.slotOfTag 2 = some 0 ∧ s.takesMsgs 0 = false) ∧
    (let f := { wFlit 0x11 (qkReduce * 2 ^ 44) true with plen := 0, payload := [] }; let g := { f with arg := qkRequest * 2 ^ 44 + 1 };
      let s := mail csRunning chG [f, g];
      s.canonical = true ∧ s.hasIn f 0x11 = true ∧ s.hasIn g 0x11 = true ∧ allParts (addPart (s.partsOf f.src f.msg) f) = true ∧ f.arg < 2 ^ 48 ∧
      f.arg / 2 ^ 44 = qkReduce ∧ g.arg / 2 ^ 44 = qkRequest ∧ (s.chase 0).deltaIn = [] ∧ s.galley 0 (g.arg % 2 ^ 44) = some (gal 1 [gst 3 2]) ∧
      (joinParts (addPart (s.partsOf g.src g.msg) g)).length % 16 = 0 ∧
      lookupReqsOk (joinParts (addPart (s.partsOf g.src g.msg) g)) = true) ∧
    (∀ n ∈ [1, 2], let f := { wFlit 0x20 9 true with plen := 0, payload := [] }; let m : MsgRec := ⟨1, 9, 0x10, 2, 0, [], n, 0, false⟩;
      let s : State := { mail csRunning ch [f] with fab := { rdy.fab with inbox := [f], sent := [m] } };
      s.canonical = true ∧ s.isUp = true ∧ s.hasIn f 0x20 = true ∧ s.fab.sent.find? (fun m => m.dst == f.src && m.msg == f.arg % 2 ^ 32) = some m ∧
      s.fab.queued = [] ∧ (s.chase m.slot).finished = false ∧ s.slotOfTag m.chase = some 0 ∧ s.csActive 0 = true ∧
      s.fab.sent.find? (fun m => m.dst == 1 && m.msg == 8) = none ∧
      s.msgDone f.src f.msg = false ∧ ({ s with fab := { s.fab with rx := [(1, 1, [])] } } : State).msgDone f.src f.msg = true) ∧
    (let f := { wFlit 0x30 6 true with plen := 0, payload := [] }; let s := marked (mail csRunning ch [f]) 0 3 0;
      s.canonical = true ∧ s.hasIn f 0x30 = true ∧ s.slotOfTag f.chase = some 0 ∧ f.arg < 2 ^ 22 ∧ s.csStriking 0 = true ∧
      (ptOrdinal (s.forme 0) f.src).isSome = true ∧ f.arg / 2 ^ 16 = s.activeCtx 0 ∧ s.markOf 0 (s.activeCtx 0) (f.arg % 2 ^ 16) = some 100 ∧
      s.flag Fld.mrkFabric 100 = true ∧ (s.mark 100).waits = [] ∧ s.markOf 0 (s.activeCtx 0) 5 = some 16383 ∧ s.flag Fld.mrkFabric 16383 = false) := by
  decide +kernel

/-- The clock in a state, with the last accepted edge, and the edges accepted; a neighbour with the time on link 95. -/
def clk (st : Nat) (last : Option Int) (n : Nat) : State :=
  let s := lnk { good 0 with peer := some gHello } lkLinked
  put { s with time := { s.time with lastEdge := last, good := n } }
    [(Fld.timeState, 0, st), (Fld.timePpsEn, 0, 1), (Fld.hlkTtMaxHops, 0, 16), (Fld.hlkTtHops, 0, 2)]

/-- At the stamps of 0.5 s less one unit, and of 1 s less 100 µs. -/
def later (s : State) (ns : Nat) : State := put s [(⟨.timeNs, 63, 0⟩, 0, ns)]

theorem witness_TimeIsKept :
    ((clk tsFree none 0).canonical = true ∧ (clk tsFree none 0).isUp = true ∧ (clk tsFree none 0).linkRuns 95 = true ∧
      (clk tsFree none 0).getF Fld.hlkTtHops 0 ≠ 255 ∧ ((clk tsFree none 0).link 95).waitOut = [] ∧ (clk tsFree none 0).credit 95 0 ≠ 0) ∧
    ((clk tsFree none 0).flag Fld.timePpsEn 0 = true ∧ (clk tsFree none 0).flag Fld.timeStorm 0 = false ∧ 999 < 1000 ∧ 1000 ≤ 1000 ∧
      (clk tsFree none 0).timeSt = tsFree ∧ (clk tsFree none 0).time.lastEdge = none) ∧
    (let stamp := fun s : State => (((s.nowFine : Nat) : Int) - sextNat 32 (s.getF Fld.timePpsComp 0) * 2 ^ 16 / 1000).toNat;
      let e := later (clk tsAcquiring (some 0) 1) 499999999; let g := later (clk tsAcquiring (some 0) 1) 999900000;
      e.canonical = true ∧ 2 * (stamp e - 0) < 10 ^ 9 * 2 ^ 16 ∧ g.canonical = true ∧ g.timeSt = tsAcquiring ∧ 1 ≤ g.time.good ∧
      0 + (10 ^ 9 - 10 ^ 5) * 2 ^ 16 ≤ stamp g ∧ stamp g ≤ 0 + (10 ^ 9 + 10 ^ 5) * 2 ^ 16) ∧
    ((put (clk tsPps none 2) [(Fld.timeStorm, 0, 1)]).canonical = true ∧ (put (clk tsPps none 2) [(Fld.timeStorm, 0, 1)]).flag Fld.timeStorm 0 = true ∧
      (clk tsPps none 2).timeSt = tsPps ∧ (clk tsPps none 2).parentCands ≠ [] ∧ (put (clk tsPps none 2) [(Fld.hlkTtMaxHops, 0, 0)]).parentCands = []) := by
  decide +kernel

theorem witness_TimeIsKept_parent : (clk tsFree none 0).onlyParent 95 gHello 15 :=
  ⟨by decide +kernel, by decide +kernel, by decide +kernel, by decide +kernel, by decide +kernel⟩

/-! ### Ethernet, RoCEv2 and the host's snoops -/

/-- The fence record's entry of port 3: one MAC address, frames without a VLAN, three types, a rate cap. -/
def fenced : Bytes := zeros 496 ++ [1, 1, 3, 0] ++ natLe 2 800 ++ zeros 2 ++ natLe 6 1 ++ zeros 18 ++ [0xFF, 0xFF] ++ zeros 30 ++ [0, 8, 6, 8, 0xDD, 0x86] ++ zeros 10

/-- A queue pair on port 3, its frames passing the filter: 1,024-byte packets, one retry of each kind, mark 5 of chase 0. -/
def qpRec2 : Bytes := natLe 8 (3 + 4 * 2 ^ 16 + 73 * 2 ^ 24 + 8 * 2 ^ 32 + 0xFFFF * 2 ^ 48) ++ zeros 6 ++ [5, 0] ++ zeros 28 ++ [1, 0, 0, 127] ++ zeros 16
def wr2 (read : Bool) (last : Nat) (retries rnr : Nat) : RoceReq := ⟨last, last, read, 0x10000, 0, 0, retries, rnr⟩
def qp2 (reqs : List RoceReq) : Qp := ⟨0, qpRec2, 5, 9, false, 63, true, none, none, some (7, 64, 1), reqs, []⟩
def ethOf (s : State) (q : Qp) : State := { withQp s q with sec := { s.sec with applied := fenced } }
def pk (psn key : Nat) : RocePkt := ⟨3, 2 ^ 24 - 1, psn, true, true, false, false, key, 2 ^ 20 - 4, 4, [1, 2, 3, 4], 9216, 1⟩

theorem lemma_allows {s : State} {w : Bool} {key a n : Nat} {m : Mr} (h : kvGet s.eth.mrs key = some m)
    (h1 : (m.valid && (if w then m.wr else m.rd) && decide (m.base ≤ a) && decide (a + n ≤ m.base + m.len)) = true) :
    s.regionAllows w key a n m := by
  simp only [Bool.and_eq_true, decide_eq_true_eq] at h1
  exact ⟨h, h1.1.1.1, h1.1.1.2, h1.1.2, h1.2⟩

theorem lemma_not_allows {s : State} {w : Bool} {key a n : Nat} (h : kvGet s.eth.mrs key = none) (m : Mr) :
    ¬s.regionAllows w key a n m := fun x => by
  have := x.found
  rw [h] at this
  cases this

/-- Port 3 carries the last queue pair; the region of key 7 ends with the packet's run, key 6 names none. -/
theorem witness_RoceRequestsAreServed :
    (let s := ethOf (marked rdy 0 3 0) (qp2 []);
      s.canonical = true ∧ s.portUp 3 = true ∧ s.qp? 5 = none ∧ s.eth.waits = [] ∧ (pk 9 7).ecn = false ∧ (pk 9 7).psn = (qp2 []).rxPsn ∧
      (pk 9 7).unsupported = false ∧ qrMarkEn qpRec2 = true ∧ s.markOf 0 (s.activeCtx 0) (qrMark qpRec2) = some 16383 ∧
      (s.mark 16383).waits = [] ∧ (s.mrRead mr0 (2 ^ 20 - 4) 4).2 = false ∧ (pk 9 7).len ≤ qrMtu qpRec2 ∧
      (s.mrWrite mr0 (2 ^ 20 - 4) [1, 2, 3, 4]).host.heldWrites = []) ∧
    (let s := { ethOf rdy (qp2 []) with poison := [2 ^ 15 - 1] }; s.canonical = true ∧ (s.mrRead mr0 (2 ^ 20 - 4) 4).2 = true) ∧
    (frameOk (pk 9 7).bytes (pk 9 7).tags = true ∧ frameOk 64 0 = true ∧ frameOk 63 0 = false ∧ frameOk 9217 1 = false ∧ frameOk 64 2 = false) ∧
    (let s := { ethOf rdy (qp2 []) with eth := { (ethOf rdy (qp2 [])).eth with done := [(2 ^ 24 - 1, 8)] } };
      s.canonical = true ∧ 2 ^ 23 ≤ psnDist 9 7 ∧ kvGet s.eth.done (pk 7 7).qpn = some 8 ∧ psnDist 7 8 < 2 ^ 23) ∧
    (psnDist 9 10 ≠ 0 ∧ psnDist 9 10 < 2 ^ 23 ∧ psnDist 9 (9 + 2 ^ 23 - 1) < 2 ^ 23 ∧ (qp2 []).cnpAt = none) := by decide +kernel

theorem witness_RoceRequestsAreServed_queue : (ethOf rdy (qp2 [])).qpHears 3 (2 ^ 24 - 1) (qp2 []) ∧ (ethOf rdy (qp2 [])).qpSends (qp2 []) :=
  ⟨⟨by decide +kernel, by decide +kernel, by decide +kernel, rfl⟩, by unfold State.qpSends State.portSends; decide +kernel⟩

theorem witness_RoceRequestsAreServed_region :
    (∀ w ∈ [true, false], (ethOf rdy (qp2 [])).regionAllows w 7 (2 ^ 20 - 4) 4 mr0) ∧ (∀ m, ¬(ethOf rdy (qp2 [])).regionAllows true 6 (2 ^ 20 - 4) 4 m) ∧
    (∀ m, ¬(ethOf rdy (qp2 [])).regionAllows false 6 (2 ^ 20 - 4) 4 m) :=
  ⟨fun w h => lemma_allows (by decide +kernel) (by revert w; decide), lemma_not_allows (by decide +kernel), lemma_not_allows (by decide +kernel)⟩

/-- A request with a retry left, and one with none; a READ whose next packet is its last. -/
theorem witness_RoceRequesterFollowsAnswers :
    (∀ k ∈ [0, 1], (ethOf rdy (qp2 [wr2 false 4 k k, wr2 true 5 0 0])).canonical = true ∧
      (ethOf rdy (qp2 [wr2 false 4 k k, wr2 true 5 0 0])).isUp = true ∧ (k < qrRetry qpRec2 ↔ k = 0) ∧ (k < qrRnr qpRec2 ↔ k = 0)) ∧
    ((qp2 [wr2 false 4 0 0, wr2 true 5 0 0]).reqs.find? fun r => r.read && (r.first + r.got / qrMtu qpRec2) % 2 ^ 24 == 5 % 2 ^ 24) =
      some (wr2 true 5 0 0) ∧
    (let q := { qp2 [wr2 true 5 0 0] with asks := [⟨2 ^ 24 - 1, .read, 0, 4, 0, 7⟩] };
      (ethOf rdy q).canonical = true ∧ (ethOf rdy q).qp? (2 ^ 24 - 1) = some q ∧ q.err = false ∧ (q.reqs.filter (·.read)).length ≤ 16 ∧
      q.reqs.find? (fun r => r.read && (r.first + r.got / qrMtu q.raw) % 2 ^ 24 == 5 % 2 ^ 24) = some (wr2 true 5 0 0)) ∧
    ((qp2 []).dropAt = none ∧ (let s := put (ethOf rdy { qp2 [] with dropAt := some 0 }) [(Fld.ethCcHoldUs, 0, 50)];
      s.canonical = true ∧ s.upNs / 1000 - 0 < s.getF Fld.ethCcHoldUs 0)) := by decide +kernel

theorem witness_RoceRequesterFollowsAnswers_queue :
    (ethOf rdy (qp2 [wr2 false 4 0 0, wr2 true 5 0 0])).qpHears 3 (2 ^ 24 - 1) (qp2 [wr2 false 4 0 0, wr2 true 5 0 0]) ∧
    (ethOf rdy (qp2 [wr2 false 4 0 0, wr2 true 5 0 0])).qpSends (qp2 [wr2 false 4 0 0, wr2 true 5 0 0]) :=
  ⟨⟨by decide +kernel, by decide +kernel, by decide +kernel, rfl⟩, by unfold State.qpSends State.portSends; decide +kernel⟩

theorem witness_PortsAnswerAndRetrain :
    (let s := ethOf (put rdy [(Fld.ethIp6Hi, 3, 2 ^ 63), (Fld.ethIp6Lo, 3, 1), (Fld.ethMode, 3, 1), (Fld.ethMode, 2, 0)]) (qp2 []);
      s.canonical = true ∧ s.isUp = true ∧ s.portUp 3 = true ∧ s.getF Fld.ethIp4 3 = 2130706433 ∧
      s.getF Fld.ethIp6Hi 3 * 2 ^ 64 + s.getF Fld.ethIp6Lo 3 = 2 ^ 127 + 1 ∧ s.getF Fld.ethMac 3 ≠ 0 ∧ linkLocal (s.getF Fld.ethMac 3) ≠ 1 ∧
      s.getF Fld.ethMode 3 ≠ 0 ∧ s.getF Fld.ethMode 2 = 0) ∧
    (let s := withQp rdy (qp2 []); s.canonical = true ∧ s.portUp 3 = true ∧ s.egressOk 3 0xFFFF 0x0806 = false) ∧
    (let s := put (ethOf rdy (qp2 [])) [(Fld.ethPfcEn, 3, 1), (Fld.ethPfcPrio, 3, 5)];
      s.canonical = true ∧ s.portUp 3 = true ∧ s.pfcTakes { gFrame with port := 3, pfc := some 5 } = true ∧
      s.pfcTakes { gFrame with port := 3, pfc := some 4 } = false) := by decide +kernel

theorem witness_PortsAnswerAndRetrain_send :
    (ethOf rdy (qp2 [])).portSends 3 0xFFFF 0x0806 ∧ (ethOf rdy (qp2 [])).portSends 3 0xFFFF 0x86DD := by
  unfold State.portSends; decide +kernel

theorem witness_HostSnoopsAndAnswers :
    (let s := { rdy with host := { rdy.host with snoop := [4096], heldWrites := [⟨4096, 4100, [1, 2], []⟩], hostLines := [64] } };
      s.canonical = true ∧ s.busUp = true ∧ s.host.heldWrites = [⟨4096, 4100, [1, 2], []⟩] ∧ s.samples = [] ∧ s.eth.waits = [] ∧ s.fab.unseen = [] ∧
      (∀ w ∈ s.host.heldWrites, w.line ≠ 64) ∧ s.host.hostLines.contains 64 = true) := by decide +kernel

/-! ### Ink, board, reliability -/

/-- The grants of slots 0 and 15, the order of grants, whether THROTTLE_N is low and asserted, and INK_THR_STUCK. -/
def inky (g : Nat) (low asserted : Bool) (stuck : Nat) : State :=
  put { rdy with ink := { rdy.ink with order := [15, 0], low := low, asserted := asserted } }
    [(Fld.inkCGranted, 0, 3), (Fld.inkCGranted, 15, g), (Fld.inkCDuty, 15, 256), (Fld.inkThrStuck, 0, stuck), (Fld.inkWarnC, 0, 85), (Fld.inkBase, 0, 5)]

/-- A sample that fits to the last unit of ink, and one that does not. -/
theorem witness_BoardEventsBoundInk_base :
    (inky 7 false false 0).canonical = true ∧ (inky 7 false false 0).live = true ∧
    (inky 7 false false 0).ledger - (((inky 7 false false 0).getF Fld.inkBase 0 : Nat) : Int) + ((min 1190 65535 : Nat) : Int) =
      (((inky 7 false false 0).envelope : Nat) : Int) := by decide +kernel

theorem witness_BoardEventsBoundInk_order : (inky 7 false false 0).grantsOrdered := by
  unfold State.grantsOrdered; decide +kernel

theorem witness_BoardEventsBoundInk :
    (∀ e ∈ [(true, false, 0), (true, true, 0), (false, true, 0), (false, true, 1)], (inky 7 e.1 e.2.1 e.2.2).canonical = true ∧
      (inky 7 e.1 e.2.1 e.2.2).live = true ∧ (inky 7 e.1 e.2.1 e.2.2).ink.low = e.1 ∧ (inky 7 e.1 e.2.1 e.2.2).ink.asserted = e.2.1 ∧
      (inky 7 e.1 e.2.1 e.2.2).flag Fld.inkThrStuck 0 = (e.2.2 == 1) ∧ (inky 7 e.1 e.2.1 e.2.2).flag Fld.inkThermFloor 0 = false) ∧
    (inky 7 false false 0).ink.order.Nodup ∧
    ((inky 7 false false 0).pw.pwrGood = true ∧ (inky 7 false false 0).pw.tripped = false ∧ (inky 7 false false 0).tripAt = 110 ∧
      (inky 7 false false 0).getF Fld.inkWarnC 0 = 85 ∧ (inky 7 false false 0).getF Fld.inkTL0 0 < 85) ∧
    ((inky 7 false false 0).isUp = true ∧ (inky 7 false false 0).ink.setPoints.length = 4 ∧ 600 % 5 = 0 ∧ 750 % 5 = 0) := by decide +kernel

/-- Plate 5 of slot 0 runs; the stroke is safe to replay or not, its retries, and the last fault of physical region 0. -/
def stuck (safe : Bool) (n : Nat) (last : List (Nat × Nat)) : State :=
  { runs 5 { chG with replaySafe := safe, retries := n } with upNs := 10 ^ 9, ras := { rdy.ras with seqFaults := last } }

theorem witness_FailuresAreContained_sequencer :
    (∀ e ∈ [(true, 1, []), (true, 2, []), (false, 0, [(0, 0)]), (true, 0, [(0, 1)])], (stuck e.1 e.2.1 e.2.2).canonical = true ∧
      ((stuck e.1 e.2.1 e.2.2).chase 0).replaySafe = e.1 ∧ ((stuck e.1 e.2.1 e.2.2).chase 0).retries = e.2.1 ∧
      kvGet (stuck e.1 e.2.1 e.2.2).ras.seqFaults ((stuck e.1 e.2.1 e.2.2).physOf 0) = kvGet e.2.2 0) ∧
    (0 + 10 ^ 9 ≤ (stuck true 0 []).upNs ∧ (stuck true 0 []).upNs < 1 + 10 ^ 9) ∧
    (let s := put (stuck true 0 [(16, 1)]) [(Fld.sysMapPhys 0, 0, 16)];
      s.canonical = true ∧ s.physOf 0 = 16 ∧ s.spareRegion 16 = some 17 ∧ kvGet s.ras.seqFaults 16 = some 1) := by decide +kernel

theorem witness_FailuresAreContained_stuck : (stuck true 1 []).seqStuck 0 0 :=
  ⟨by decide +kernel, by decide, by decide +kernel, by decide +kernel, by decide +kernel, by decide +kernel⟩

theorem witness_FailuresAreContained_core :
    (let s := { rdy with host := { rdy.host with tickets := [{ Tk.tk { op := 4 } with ring := 256 + 127 }] } };
      s.canonical = true ∧ s.isUp = true ∧ (s.ticket? (256 + 127) 5).isSome = true ∧ s.ticket? 0 5 = none) := by decide +kernel

theorem witness_FailuresAreContained_spare :
    (∃ u f, rdy.SpareSays (0, 19, 17, 16) u f) ∧ (∃ u f, rdy.SpareSays (1, 19, 17, 0) u f) ∧ (∃ u f, rdy.SpareSays (2, 19, 17, 0) u f) ∧
    (∃ u f, rdy.SpareSays (3, 19, 0, 0) u f) ∧ (∀ l ∈ [[], [⟨3, 19, 0, 0, 0⟩]], rdy.isUp = true ∧
      (({ rdy with ras := { rdy.ras with bad := l } } : State).isBad ⟨3, 19, 0, 0, 0⟩ = true ↔ l ≠ []) ∧ rdy.isFailed ⟨3, 19, 0, 0, 0⟩ = false) :=
  ⟨⟨_, _, .column 19 17 16 (by decide +kernel)⟩, ⟨_, _, .cell 19 17 0 (by decide +kernel)⟩, ⟨_, _, .block 19 1 0 (by decide) (by decide +kernel)⟩,
    ⟨_, _, .region 19 0 0 (by decide +kernel)⟩, by decide +kernel⟩

theorem witness_FailuresAreContained_substitution :
    ∀ q ∈ [(⟨1, 0, 15, 16, 0⟩ : Subst), ⟨3, 0, 0, 0, 19⟩], let s := { rdy with ras := { rdy.ras with prepared := [q] } };
      s.canonical = true ∧ s.isUp = true ∧ s.logicalOf 0 = some 0 ∧ (s.logicalOf 0).bind s.regionHolder = none ∧ q.region = 0 ∧
      (q.level = 1 ∨ q.level = 3 ∧ q.spare < 2 ^ 5) := by decide +kernel

theorem witness_FailuresAreContained_test :
    (rdy.canonical = true ∧ rdy.pw.pwrGood = true ∧ rdy.flag Fld.secUnlockMaker 0 = false) ∧
    (let s := put rdy [(Fld.secUnlockMaker, 0, 1)]; s.canonical = true ∧ s.flag Fld.secUnlockMaker 0 = true ∧ ∀ c, c < 16 → s.cs c = csEmpty) ∧
    (let s := put (holds rdy csLoaded ch) [(Fld.secUnlockMaker, 0, 1)]; s.canonical = true ∧ s.flag Fld.secUnlockMaker 0 = true ∧
      ∃ c, c < 16 ∧ s.cs c ≠ csEmpty) := by decide +kernel

/-! ### The security island

A signed command passes every check where its credentials have the public exponent 1, so that a signature is the encoded
message itself. The device's serial number is not known, so the lemmas below hold for every message. -/

theorem lemma_shaBlocks (l : List Bytes) (h : List (BitVec 32)) (hl : h.length = 8) : (l.foldl shaChain h).length = 8 := by
  induction l generalizing h with
  | nil => exact hl
  | cons a t ih => exact ih _ (by simp only [shaChain, List.length_map, List.length_range])

theorem lemma_natLe (k n : Nat) : (natLe k n).length = k := by
  induction k generalizing n with
  | zero => rfl
  | succ k ih => simp only [natLe, List.length_cons, ih]

theorem lemma_natLeVal (k n : Nat) (h : n < 256 ^ k) : leNat (natLe k n) = n := by
  induction k generalizing n with
  | zero => simp only [Nat.pow_zero] at h; simp only [natLe, leNat]; omega
  | succ k ih =>
    rw [natLe, leNat, ih _ (by rw [Nat.pow_succ] at h; omega), BitVec.toNat_ofNat]
    omega

theorem lemma_leNatOf (l : Bytes) : natLe l.length (leNat l) = l := by
  induction l with
  | nil => rfl
  | cons b t ih =>
    have hb := b.isLt
    have h1 : (b.toNat + 256 * leNat t) / 256 = leNat t := by omega
    rw [List.length_cons, leNat, natLe, h1, ih]
    congr 1
    apply BitVec.eq_of_toNat_eq
    rw [BitVec.toNat_ofNat]
    omega

theorem lemma_leNatLt (l : Bytes) : leNat l < 256 ^ l.length := by
  induction l with
  | nil => exact Nat.one_pos
  | cons b t ih =>
    have hb := b.isLt
    rw [leNat, List.length_cons, Nat.pow_succ]
    omega

theorem lemma_flatLength (l : List (BitVec 32)) : (l.flatMap fun w => natBe 4 w.toNat).length = 4 * l.length := by
  induction l with
  | nil => rfl
  | cons a t ih =>
    rw [List.flatMap_cons, List.length_append, ih, natBe, List.length_reverse, lemma_natLe, List.length_cons]
    omega

theorem lemma_leNatApp (a b : Bytes) : leNat (a ++ b) = leNat a + 256 ^ a.length * leNat b := by
  induction a with
  | nil => simp [leNat]
  | cons x t ih => rw [List.cons_append, leNat, leNat, ih, List.length_cons, Nat.pow_succ]; ring

theorem lemma_shaLength (m : Bytes) : (sha256 m).length = 32 := by
  unfold sha256
  rw [lemma_flatLength, lemma_shaBlocks _ _ (by decide +kernel)]

theorem lemma_mgfLength (h : Bytes) : (mgf1 h 351).length = 351 := by
  simp only [mgf1, List.length_take, List.length_flatten, List.map_map]
  have : (List.map (List.length ∘ fun k => sha256 (h ++ natBe 4 k)) (List.range ((351 + 31) / 32))) = List.replicate 11 32 := by
    rw [List.eq_replicate_iff]
    refine ⟨by simp, ?_⟩
    intro b hb
    obtain ⟨k, -, rfl⟩ := List.mem_map.1 hb
    exact lemma_shaLength _
  rw [this]
  rfl

/-- A salt of 32 zeros. -/
def salt : Bytes := List.replicate 32 0

/-- The encoded message of a hash with this salt: the mask over 318 zeros, a one and the salt, its top bit cleared; the hash;
0xBC. -/
def emOf (hash : Bytes) : Bytes :=
  let h := sha256 (List.replicate 8 0 ++ hash ++ salt)
  let m := mgf1 h 351
  natLe 1 (u8At m 0 % 128) ++ slice m 1 317 ++ [m.getD 318 0 ^^^ 1] ++ slice m 319 32 ++ h ++ [0xBC]

theorem lemma_emLength (hash : Bytes) : (emOf hash).length = 384 := by
  have h1 := lemma_mgfLength (sha256 (List.replicate 8 0 ++ hash ++ salt))
  have h2 := lemma_shaLength (List.replicate 8 0 ++ hash ++ salt)
  simp only [emOf, List.length_append, lemma_natLe, slice, List.length_take, List.length_drop, List.length_replicate, h1, h2, List.length_cons,
    List.length_nil]
  omega

theorem lemma_xorSelf (l : Bytes) : xorBytes l l = List.replicate l.length 0 := by
  induction l with
  | nil => rfl
  | cons b t ih =>
    show (b ^^^ b) :: xorBytes t t = _
    rw [ih, BitVec.xor_self]
    rfl

theorem lemma_parts (m : Bytes) (hm : m.length = 351) :
    ∃ x mid y tl, m = x :: (mid ++ y :: tl) ∧ mid.length = 317 ∧ tl.length = 32 := by
  match m, hm with
  | x :: t, hm =>
    have ht : t.length = 350 := by simpa using hm
    match hd : t.drop 317 with
    | [] => have := congrArg List.length hd; simp only [List.length_drop, ht, List.length_nil] at this; omega
    | y :: tl =>
      have := congrArg List.length hd
      simp only [List.length_drop, ht, List.length_cons] at this
      exact ⟨x, t.take 317, y, tl, by rw [← hd, List.take_append_drop], by simp [ht], by omega⟩

theorem lemma_topBit (x : Byte) : ((BitVec.ofNat 8 (x.toNat % 128) ^^^ x).toNat) % 128 = 0 ∧ x.toNat % 128 < 128 := by
  revert x; decide +kernel

theorem lemma_u8 (x : Byte) (l : Bytes) : u8At (x :: l) 0 = x.toNat := by simp [u8At, Machine.fieldLe, leNat]

/-- The encoded message of a hash verifies against it. -/
theorem lemma_emOk (hash : Bytes) : emsaPssOk hash (emOf hash) = true := by
  obtain ⟨x, mid, y, tl, hm, hmid, htl⟩ := lemma_parts _ (lemma_mgfLength (sha256 (List.replicate 8 0 ++ hash ++ salt)))
  have hh := lemma_shaLength (List.replicate 8 0 ++ hash ++ salt)
  unfold emOf
  simp only [hm]
  generalize hhe : sha256 (List.replicate 8 0 ++ hash ++ salt) = h at *
  have h0 : u8At (x :: (mid ++ y :: tl)) 0 = x.toNat := lemma_u8 _ _
  have h1 : slice (x :: (mid ++ y :: tl)) 1 317 = mid := by simp [slice, ← hmid]
  have h2 : (x :: (mid ++ y :: tl)).getD 318 0 = y := by simp [hmid]
  have h3 : slice (x :: (mid ++ y :: tl)) 319 32 = tl := by
    have : (x :: (mid ++ y :: tl)).drop 319 = tl := by
      rw [List.drop_succ_cons, show mid ++ y :: tl = (mid ++ [y]) ++ tl by simp, List.drop_left' (by simp [hmid])]
    simp only [slice, this]
    rw [List.take_of_length_le (by omega), htl]
    simp
  rw [h0, h1, h2, h3]
  have e1 : natLe 1 (x.toNat % 128) = [BitVec.ofNat 8 (x.toNat % 128)] := rfl
  rw [e1]
  have f1 : (([BitVec.ofNat 8 (x.toNat % 128)] ++ mid ++ [y ^^^ 1] ++ tl ++ h ++ [0xBC]) : Bytes).take 351 =
      BitVec.ofNat 8 (x.toNat % 128) :: (mid ++ (y ^^^ 1) :: tl) := by
    rw [List.append_assoc _ h, List.take_left' (by simp [hmid, htl])]
    simp
  have f2 : slice (([BitVec.ofNat 8 (x.toNat % 128)] ++ mid ++ [y ^^^ 1] ++ tl ++ h ++ [0xBC]) : Bytes) 351 32 = h := by
    simp only [slice]
    rw [List.append_assoc _ h, List.drop_left' (by simp [hmid, htl]), List.take_left' hh, hh]
    simp
  have f3 : u8At (([BitVec.ofNat 8 (x.toNat % 128)] ++ mid ++ [y ^^^ 1] ++ tl ++ h ++ [0xBC]) : Bytes) 383 = 0xBC := by
    unfold u8At Machine.fieldLe
    rw [List.drop_left' (by simp [hmid, htl, hh])]
    rfl
  have f4 : u8At (([BitVec.ofNat 8 (x.toNat % 128)] ++ mid ++ [y ^^^ 1] ++ tl ++ h ++ [0xBC]) : Bytes) 0 = x.toNat % 128 := by
    rw [List.append_assoc, List.append_assoc, List.append_assoc, List.append_assoc, List.singleton_append, lemma_u8, BitVec.toNat_ofNat]
    omega
  have f5 : xorBytes (BitVec.ofNat 8 (x.toNat % 128) :: (mid ++ (y ^^^ 1) :: tl)) (x :: (mid ++ y :: tl)) =
      (BitVec.ofNat 8 (x.toNat % 128) ^^^ x) :: (List.replicate 317 0 ++ 1 :: List.replicate 32 0) := by
    have hx : xorBytes mid mid = List.replicate 317 0 := hmid ▸ lemma_xorSelf mid
    have ht : xorBytes tl tl = List.replicate 32 0 := htl ▸ lemma_xorSelf tl
    show _ :: List.zipWith _ _ _ = _
    rw [List.zipWith_append rfl]
    show _ :: (xorBytes mid mid ++ ((y ^^^ 1) ^^^ y) :: xorBytes tl tl) = _
    rw [hx, ht, BitVec.xor_comm y 1, BitVec.xor_assoc, BitVec.xor_self]
    rfl
  have f6 : patch ((BitVec.ofNat 8 (x.toNat % 128) ^^^ x) :: (List.replicate 317 0 ++ 1 :: List.replicate 32 0)) 0
      (natLe 1 (u8At ((BitVec.ofNat 8 (x.toNat % 128) ^^^ x) :: (List.replicate 317 0 ++ 1 :: List.replicate 32 0)) 0 % 128)) =
      List.replicate 318 0 ++ 1 :: salt := by
    have : u8At ((BitVec.ofNat 8 (x.toNat % 128) ^^^ x) :: (List.replicate 317 0 ++ 1 :: List.replicate 32 0)) 0 % 128 = 0 := by
      rw [lemma_u8]
      exact (lemma_topBit x).1
    rw [this]
    rfl
  simp only [emsaPssOk]
  rw [f1, f2, f3, f4, hm, f5, f6]
  have f7 : List.dropWhile (fun b : Byte => b == 0) (List.replicate 318 0 ++ 1 :: salt) = 1 :: salt := by decide +kernel
  have f8 : salt.length = 32 := by decide
  rw [f7]
  simp only [(lemma_topBit x).2, hhe, lemma_u8, List.drop_succ_cons, List.drop_zero, f8]
  simp

theorem lemma_powZero (n k b : Nat) : powMod n k b 0 = 1 % n := by
  induction k generalizing b with
  | zero => rfl
  | succ k ih => simp [powMod, ih]

theorem lemma_powOne (n b : Nat) (h : b < n) (h1 : 1 < n) : powMod n 32 b 1 = b := by
  rw [powMod]
  simp [lemma_powZero, Nat.mod_eq_of_lt h1, Nat.mod_eq_of_lt h]

/-- With the largest modulus and the exponent 1 the encoded message is its own signature. -/
theorem lemma_verifies (msg : Bytes) : pssVerify (2 ^ 3072 - 1) 1 msg (emOf (sha256 msg)) = true := by
  have hl := lemma_emLength (sha256 msg)
  have h0 := lemma_leNatOf (emOf (sha256 msg)).reverse
  have hlt : beNat (emOf (sha256 msg)) < 2 ^ 3072 - 1 := by
    obtain ⟨b, t, hb, hem⟩ : ∃ b t, b.toNat < 128 ∧ emOf (sha256 msg) = b :: t := by
      refine ⟨_, _, ?_, rfl⟩
      rw [BitVec.toNat_ofNat]
      omega
    rw [hem] at hl ⊢
    have ht : t.reverse.length = 383 := by simpa using hl
    have := lemma_leNatLt t.reverse
    rw [beNat, List.reverse_cons, lemma_leNatApp, leNat, leNat]
    rw [ht] at this ⊢
    omega
  simp only [pssVerify]
  rw [lemma_powOne _ _ hlt (by decide +kernel)]
  have : natBe 384 (beNat (emOf (sha256 msg))) = emOf (sha256 msg) := by
    rw [List.length_reverse, hl] at h0
    unfold natBe beNat
    rw [h0, List.reverse_reverse]
  simp only [this, lemma_emOk, Bool.and_true, hlt, decide_true]
  decide +kernel

/-- A mailbox command: what is signed (header and body, padded), then a block per signature (R750, R751). -/
def mcHead (ser op chal n : Nat) (d : Bytes) : Bytes :=
  natLe 2 op ++ (natLe 2 d.length ++ (natLe 1 n ++ (List.replicate 3 0 ++ (natLe 8 ser ++ (natLe 8 chal ++ (List.replicate 40 0 ++
    (d ++ List.replicate (64 * ((d.length + 63) / 64) - d.length) 0)))))))
def mcSigned (p : Bytes) (id : Nat) : Bytes := natLe 2 id ++ (List.replicate 6 0 ++ emOf (sha256 p))
def mcMsg (ser op chal : Nat) (ids : List Nat) (d : Bytes) : Bytes :=
  mcHead ser op chal ids.length d ++ (ids.map (mcSigned (mcHead ser op chal ids.length d))).flatten

theorem lemma_field {b : Bytes} (a f r : Bytes) (o k : Nat) (h : b = a ++ (f ++ r)) (ha : a.length = o) (hf : f.length = k) :
    Machine.fieldLe b o k = leNat f := by
  rw [Machine.fieldLe, h, List.drop_left' ha, List.take_left' hf]

theorem lemma_slice {b : Bytes} (a f r : Bytes) (o k : Nat) (h : b = a ++ (f ++ r)) (ha : a.length = o) (hf : f.length = k) :
    slice b o k = f := by
  simp only [slice]
  rw [h, List.drop_left' ha, List.take_left' hf, hf]
  simp

/-- What a message of 1 to 2 signatures spells, whatever follows it. -/
structure Spells (b : Bytes) (ser op chal : Nat) (ids : List Nat) (d p : Bytes) : Prop where
  opcode : mcOpcode b = op
  len : mcLen b = d.length
  sigs : mcSigs b = ids.length
  res1 : slice b 5 3 = List.replicate 3 0
  serial : mcSerial b = ser
  chal : mcChallenge b = chal
  res2 : slice b 24 40 = List.replicate 40 0
  body : mcBody b = d
  signed : b.take (mcSigOff b) = p
  blocks : ∀ i, i < ids.length → mcBlock b i = mcSigned p (ids.getD i 0)

theorem lemma_headLength (ser op chal n : Nat) (d : Bytes) : (mcHead ser op chal n d).length = 64 + 64 * ((d.length + 63) / 64) := by
  simp only [mcHead, List.length_append, lemma_natLe, List.length_replicate]
  omega

theorem lemma_blockLength (p : Bytes) (id : Nat) : (mcSigned p id).length = 392 := by
  simp only [mcSigned, List.length_append, lemma_natLe, List.length_replicate, lemma_emLength]

theorem lemma_flattenLength (p : Bytes) (l : List Nat) : ((l.map (mcSigned p)).flatten).length = 392 * l.length := by
  induction l with
  | nil => rfl
  | cons a t ih => rw [List.map_cons, List.flatten_cons, List.length_append, ih, lemma_blockLength, List.length_cons]; omega

theorem lemma_spells {ser op chal : Nat} {ids : List Nat} {d : Bytes} (z : Bytes) (h1 : ser < 2 ^ 64) (h2 : op < 2 ^ 16) (h3 : chal < 2 ^ 64)
    (h4 : ids.length < 256) (h5 : d.length < 2 ^ 16) :
    Spells (mcMsg ser op chal ids d ++ z) ser op chal ids d (mcHead ser op chal ids.length d) := by
  obtain ⟨p, hp⟩ : ∃ p, p = mcHead ser op chal ids.length d := ⟨_, rfl⟩
  obtain ⟨r, hr⟩ : ∃ r, r = (ids.map (mcSigned p)).flatten ++ z := ⟨_, rfl⟩
  have hb : mcMsg ser op chal ids d ++ z = p ++ r := by rw [mcMsg, ← hp, List.append_assoc, ← hr]
  have hlen : mcLen (mcMsg ser op chal ids d ++ z) = d.length := by
    rw [mcLen, u16At, lemma_field (natLe 2 op) (natLe 2 d.length) _ 2 2 (by rw [hb, hp, mcHead]; simp only [List.append_assoc]; rfl)
      (lemma_natLe _ _) (lemma_natLe _ _), lemma_natLeVal _ _ h5]
  have hoff : mcSigOff (mcMsg ser op chal ids d ++ z) = p.length := by rw [mcSigOff, hlen, hp, lemma_headLength]
  refine ⟨?_, hlen, ?_, ?_, ?_, ?_, ?_, ?_, ?_, ?_⟩
  · rw [mcOpcode, u16At, lemma_field [] (natLe 2 op) _ 0 2 (by rw [hb, hp, mcHead]; simp only [List.append_assoc]; rfl) rfl (lemma_natLe _ _),
      lemma_natLeVal _ _ h2]
  · rw [mcSigs, u8At, lemma_field (natLe 2 op ++ natLe 2 d.length) (natLe 1 ids.length) _ 4 1
      (by rw [hb, hp, mcHead]; simp only [List.append_assoc]; rfl) (by simp only [List.length_append, lemma_natLe]) (lemma_natLe _ _),
      lemma_natLeVal _ _ h4]
  · exact lemma_slice (natLe 2 op ++ (natLe 2 d.length ++ natLe 1 ids.length)) (List.replicate 3 0) _ 5 3
      (by rw [hb, hp, mcHead]; simp only [List.append_assoc]; rfl) (by simp only [List.length_append, lemma_natLe]) (List.length_replicate ..)
  · rw [mcSerial, u64At, lemma_field (natLe 2 op ++ (natLe 2 d.length ++ (natLe 1 ids.length ++ List.replicate 3 0))) (natLe 8 ser) _ 8 8
      (by rw [hb, hp, mcHead]; simp only [List.append_assoc]; rfl) (by simp only [List.length_append, lemma_natLe, List.length_replicate])
      (lemma_natLe _ _), lemma_natLeVal _ _ h1]
  · rw [mcChallenge, u64At, lemma_field (natLe 2 op ++ (natLe 2 d.length ++ (natLe 1 ids.length ++ (List.replicate 3 0 ++ natLe 8 ser))))
      (natLe 8 chal) _ 16 8 (by rw [hb, hp, mcHead]; simp only [List.append_assoc]; rfl)
      (by simp only [List.length_append, lemma_natLe, List.length_replicate]) (lemma_natLe _ _), lemma_natLeVal _ _ h3]
  · exact lemma_slice (natLe 2 op ++ (natLe 2 d.length ++ (natLe 1 ids.length ++ (List.replicate 3 0 ++ (natLe 8 ser ++ natLe 8 chal)))))
      (List.replicate 40 0) _ 24 40 (by rw [hb, hp, mcHead]; simp only [List.append_assoc]; rfl)
      (by simp only [List.length_append, lemma_natLe, List.length_replicate]) (List.length_replicate ..)
  · rw [mcBody, hlen]
    exact lemma_slice (natLe 2 op ++ (natLe 2 d.length ++ (natLe 1 ids.length ++ (List.replicate 3 0 ++ (natLe 8 ser ++ (natLe 8 chal ++
      List.replicate 40 0)))))) d _ 64 d.length (by rw [hb, hp, mcHead]; simp only [List.append_assoc]; rfl)
      (by simp only [List.length_append, lemma_natLe, List.length_replicate]) rfl
  · rw [hoff, hb, List.take_left, hp]
  · intro i hi
    rw [mcBlock, hoff, ← hp]
    have hs : ids = ids.take i ++ (ids.getD i 0 :: ids.drop (i + 1)) := by
      rw [List.getD_eq_getElem?_getD, List.getElem?_eq_getElem hi, Option.getD_some, List.getElem_cons_drop, List.take_append_drop]
    refine lemma_slice (p ++ ((ids.take i).map (mcSigned p)).flatten) (mcSigned p (ids.getD i 0))
      (((ids.drop (i + 1)).map (mcSigned p)).flatten ++ z) _ _ ?_ ?_ (lemma_blockLength _ _)
    · rw [hb, hr]
      conv_lhs => rw [hs]
      simp only [List.map_append, List.map_cons, List.flatten_append, List.flatten_cons, List.append_assoc]
    · rw [List.length_append, lemma_flattenLength, List.length_take, Nat.min_eq_left (Nat.le_of_lt hi)]

/-- The signatures of a command are those that it takes, whatever the serial number. -/
def credsFit (s : State) (op : Nat) (ids : List Nat) (d : Bytes) : Prop :=
  ∀ b, mcOpcode b = op → mcBody b = d → mcCreds b = ids → mcSigs b = ids.length → s.credsOk b = true

/-- What a command needs beside its signatures. -/
def mailFits (s : State) (op chal : Nat) (ids : List Nat) (d : Bytes) : Bool :=
  decide (op < 2 ^ 16) && decide (chal < 2 ^ 64) && decide (ids.length ≤ 2) && (ids.all fun i => decide (i < 2 ^ 16)) &&
    decide (d.length < 2 ^ 16) && s.getF Fld.secIslandState 0 == islOperational && ((mbForm op).map (·.2) == some d.length) &&
    (decide (ids.length ≠ 0) || chal == 0) && (((mbForm op).map (·.1)).getD 0 == 0 || s.challengeOk chal) &&
    (ids.all fun i => s.cred? i == some ⟨i, 2 ^ 3072 - 1, 1⟩) && !s.bootstrap op d && s.mbRangeOk op d && s.mbStateOk op d

theorem lemma_layout {b : Bytes} {ser op chal : Nat} {ids : List Nat} {d p : Bytes} (h : Spells b ser op chal ids d p)
    (h2 : ids.length ≤ 2) (hf : (mbForm op).map (·.2) = some d.length) (hc : ids.length ≠ 0 ∨ chal = 0) : mbLayoutOk b = true := by
  obtain ⟨f, h1, hf2⟩ := Option.map_eq_some_iff.1 hf
  unfold mbLayoutOk
  rw [h.opcode, h1]
  simp only [h.len, hf2, h.sigs, h.res1, h.res2, h.chal, Bool.and_eq_true, beq_iff_eq, decide_eq_true_eq, Bool.or_eq_true, bne_iff_ne, ne_eq,
    List.all_eq_true, List.mem_range, beq_self_eq_true, true_and]
  refine ⟨⟨⟨⟨h2, rfl⟩, by decide +kernel⟩, hc⟩, fun i hi => ?_⟩
  rw [h.blocks i hi, mcSigned, lemma_slice (natLe 2 (ids.getD i 0)) (List.replicate 6 0) _ 2 6 rfl (lemma_natLe _ _) (List.length_replicate ..)]
  rfl

theorem lemma_creds {b : Bytes} {ser op chal : Nat} {ids : List Nat} {d p : Bytes} (h : Spells b ser op chal ids d p)
    (_h2 : ids.length ≤ 2) (h3 : ∀ i ∈ ids, i < 2 ^ 16) : ∀ i, i < ids.length → u16At (mcBlock b i) 0 = ids.getD i 0 ∧
      slice (mcBlock b i) 8 384 = emOf (sha256 p) := by
  intro i hi
  rw [h.blocks i hi]
  have hm : ids.getD i 0 ∈ ids := by
    rw [List.getD_eq_getElem?_getD, List.getElem?_eq_getElem hi]; exact List.getElem_mem hi
  constructor
  · have := lemma_field [] (natLe 2 (ids.getD i 0)) (List.replicate 6 0 ++ emOf (sha256 p)) 0 2 rfl rfl (lemma_natLe _ _)
    rw [lemma_natLeVal 2 _ (h3 _ hm)] at this
    exact this
  · exact lemma_slice (natLe 2 (ids.getD i 0) ++ List.replicate 6 0) (emOf (sha256 p)) [] 8 384
      (by rw [mcSigned, List.append_nil, List.append_assoc]) (by simp only [List.length_append, lemma_natLe, List.length_replicate]) (lemma_emLength _)

theorem lemma_credList {b : Bytes} {ser op chal : Nat} {ids : List Nat} {d p : Bytes} (h : Spells b ser op chal ids d p)
    (h2 : ids.length ≤ 2) (h3 : ∀ i ∈ ids, i < 2 ^ 16) : mcCreds b = ids := by
  unfold mcCreds
  rw [h.sigs, Nat.min_eq_left h2]
  apply List.ext_getElem?
  intro i
  rw [List.getElem?_map]
  by_cases hi : i < ids.length
  · rw [List.getElem?_range hi, Option.map_some, (lemma_creds h h2 h3 i hi).1, List.getD_eq_getElem?_getD, List.getElem?_eq_getElem hi]
    rfl
  · rw [List.getElem?_eq_none (by simpa using hi), List.getElem?_eq_none (by omega)]
    rfl

/-- A message with the device's serial number that fits passes every check. -/
theorem lemma_checked {s : State} {b : Bytes} {op chal : Nat} {ids : List Nat} {d p : Bytes}
    (h : Spells b Config.serial.toNat op chal ids d p) (hs : b.take (mcSigOff b) = p) (hg : mailFits s op chal ids d = true)
    (hc : credsFit s op ids d) : ∃ k, s.mbCheck b = (mrOk, k) := by
  simp only [mailFits, Bool.and_eq_true, decide_eq_true_eq, List.all_eq_true, beq_iff_eq, Bool.or_eq_true, Bool.not_eq_true'] at hg
  obtain ⟨⟨⟨⟨⟨⟨⟨⟨⟨⟨⟨⟨g1, g2⟩, g3⟩, g4⟩, g5⟩, g6⟩, g7⟩, g8⟩, g9⟩, g10⟩, g11⟩, g12⟩, g13⟩ := hg
  have hcl := lemma_credList h g3 g4
  have hsig : s.sigsOk b = true := by
    simp only [State.sigsOk, List.all_eq_true, List.mem_range, h.sigs, h.opcode, h.body, g11, Bool.false_and, Bool.false_eq_true, if_false]
    intro i hi
    obtain ⟨e1, e2⟩ := lemma_creds h g3 g4 i hi
    have hm : ids.getD i 0 ∈ ids := by
      rw [List.getD_eq_getElem?_getD, List.getElem?_eq_getElem hi]; exact List.getElem_mem hi
    rw [e1, g10 _ hm]
    simp only [e2, hs]
    exact lemma_verifies p
  have hcr := hc b h.opcode h.body hcl h.sigs
  have hlay := lemma_layout h g3 g7 g8
  unfold State.mbCheck
  simp only [g6, h.opcode, h.body, hlay, h.serial, h.chal, hcr, hsig, g12, g13, bne_self_eq_false, Bool.not_true, Bool.false_eq_true, if_false]
  rw [if_neg (by decide), if_neg (by rw [show (islOperational == islIdentityFail) = false by decide, Bool.and_false]; decide)]
  cases hf : (((mbForm op).map (·.1)).getD 0 != 0 && !s.challengeOk chal)
  · exact ⟨true, rfl⟩
  · simp at hf
    rcases g9 with g9 | g9
    · exact absurd g9 hf.1
    · rw [hf.2] at g9; cases g9

theorem lemma_buf (msg : Bytes) (h : msg.length ≤ 16384) :
    memGetRun (memPutRun [] 0 (msg.take 16384)) 0 16384 = msg ++ List.replicate (16384 - msg.length) 0 := by
  rw [List.take_of_length_le h]
  apply List.ext_getElem?
  intro i
  simp only [memGetRun, List.getElem?_map, memGet_memPutRun _ _ _ wf_nil]
  by_cases hi : i < 16384
  · rw [List.getElem?_range hi, Option.map_some, List.getElem?_append]
    by_cases h2 : i < msg.length
    · rw [if_pos ⟨by omega, by omega⟩, if_pos h2, List.getD_eq_getElem?_getD, Nat.zero_add, Nat.sub_zero, List.getElem?_eq_getElem h2]
      rfl
    · rw [if_neg (by omega), if_neg h2, List.getElem?_replicate, if_pos (by omega)]
      rfl
  · rw [List.getElem?_eq_none (by simpa using hi), List.getElem?_eq_none (by simp; omega)]
    rfl

/-- The 16 KiB on which a message runs. -/
def bufOf (msg : Bytes) : Bytes := msg ++ List.replicate (16384 - msg.length) 0
/-- A message for this device. -/
def toHere (op chal : Nat) (ids : List Nat) (d : Bytes) : Bytes := mcMsg Config.serial.toNat op chal ids d

theorem lemma_msgLength (ser op chal : Nat) (ids : List Nat) (d : Bytes) (h2 : ids.length ≤ 2) (h3 : d.length ≤ 1024) :
    (mcMsg ser op chal ids d).length ≤ 16384 := by
  rw [mcMsg, List.length_append, lemma_headLength, lemma_flattenLength]
  omega

/-- A message that fits reaches the island from MCTP and passes its checks. -/
theorem lemma_mailed {s : State} {op chal : Nat} {ids : List Nat} {d : Bytes} (hg : mailFits s op chal ids d = true)
    (hc : credsFit s op ids d) (hd : d.length ≤ 1024) (hs : (s.mbServed && s.stage != stageRom && !s.mbBusy) = true) :
    s.mailed op none (toHere op chal ids d) (bufOf (toHere op chal ids d)) ∧ ∃ k, s.mbCheck (bufOf (toHere op chal ids d)) = (mrOk, k) := by
  have hg1 := hg
  simp only [mailFits, Bool.and_eq_true, decide_eq_true_eq] at hg1
  obtain ⟨⟨⟨⟨⟨⟨⟨⟨⟨⟨⟨⟨g1, g2⟩, g3⟩, g4⟩, g5⟩, g6⟩, g7⟩, g8⟩, g9⟩, g10⟩, g11⟩, g12⟩, g13⟩ := hg1
  have hser : Config.serial.toNat < 2 ^ 64 := Config.serial.isLt
  have h1 : Spells (toHere op chal ids d ++ []) _ _ _ _ _ _ := lemma_spells [] hser g1 g2 (by omega) g5
  have h2 : Spells (bufOf (toHere op chal ids d)) _ _ _ _ _ _ := lemma_spells _ hser g1 g2 (by omega) g5
  rw [List.append_nil] at h1
  simp only [Bool.and_eq_true, bne_iff_ne, Bool.not_eq_true'] at hs
  exact ⟨⟨hs.1.1, hs.2, h2.opcode, fun _ h => absurd h (by simp), fun _ => ⟨hs.1.2, h1.opcode, (lemma_buf _ (lemma_msgLength _ _ _ _ _ g3 hd)).symm⟩⟩,
    lemma_checked h2 h2.signed hg hc⟩

/-- The island is operational, with two installers, an operator and a maker's credential, and the challenge 5. -/
def isl : State :=
  let c := fun i : Nat => (⟨i, 2 ^ 3072 - 1, 1⟩ : Cred);
  put { win rdy with sec := { rdy.sec with challenges := [(5, 0)], creds := [c 0x1000, c 0x2000, c 0x2001], makers := [c 0x3000] } }
    [(Fld.secIslandState, 0, islOperational)]

/-- A session is open. -/
def islS : State := put isl [(Fld.secSession, 0, 1)]

/-- A fence record within the table. -/
def gFence : Bytes := natLe 4 fcMagic ++ zeros 4 ++ natLe 2 300 ++ [115] ++ zeros 565

/-- A message that fits, for this device. -/
def Mails (s : State) (op : Nat) (ids : List Nat) (d : Bytes) : Prop :=
  let m := toHere op (if ids = [] then 0 else 5) ids d;
  s.canonical = true ∧ s.mailed op none m (bufOf m) ∧ ∃ k, s.mbCheck (bufOf m) = (mrOk, k)

theorem lemma_mails {s : State} {op : Nat} {ids : List Nat} {d : Bytes} (h : (s.canonical && mailFits s op (if ids = [] then 0 else 5) ids d &&
    decide (d.length ≤ 1024) && (s.mbServed && s.stage != stageRom && !s.mbBusy)) = true) (hc : credsFit s op ids d) : Mails s op ids d := by
  simp only [Bool.and_eq_true, decide_eq_true_eq] at h
  exact ⟨h.1.1.1, lemma_mailed h.1.1.2 hc h.1.2 (by simp only [Bool.and_eq_true]; exact h.2)⟩

theorem witness_MailboxCommandsAreCheckedAndApplied_unsigned :
    Mails isl 0x01 [] [] ∧ Mails isl 0x02 [] (natLe 8 3 ++ natLe 4 64) ∧ Mails isl 0x03 [] [] := by
  refine ⟨lemma_mails (by decide +kernel) ?_, lemma_mails (by decide +kernel) ?_, lemma_mails (by decide +kernel) ?_⟩ <;>
    (intro b h1 h2 h3 h4; simp only [State.credsOk, h1, h2, h3, h4]; decide +kernel)

theorem witness_MailboxCommandsAreCheckedAndApplied_settings :
    Mails isl 0x10 [0x2000] (natLe 2 300) ∧ Mails isl 0x11 [0x2000] (natLe 2 (2 ^ 15 + 5)) ∧ Mails isl 0x12 [0x2000] (zeros 11) ∧
    Mails isl 0x13 [0x2000] (natLe 8 0 ++ natLe 4 4096 ++ [1]) ∧ Mails isl 0x14 [0x2000] ([3] ++ natBe 26 1) := by
  refine ⟨lemma_mails (by decide +kernel) ?_, lemma_mails (by decide +kernel) ?_, lemma_mails (by decide +kernel) ?_,
    lemma_mails (by decide +kernel) ?_, lemma_mails (by decide +kernel) ?_⟩ <;>
    (intro b h1 h2 h3 h4; simp only [State.credsOk, h1, h2, h3, h4]; decide +kernel)

theorem witness_MailboxCommandsAreCheckedAndApplied_session :
    Mails isl 0x20 [0x1000] (natLe 2 1 ++ natLe 4 86400 ++ [0]) ∧ Mails islS 0x20 [0x1000] (zeros 6 ++ [1]) := by
  refine ⟨lemma_mails (by decide +kernel) ?_, lemma_mails (by decide +kernel) ?_⟩ <;>
    (intro b h1 h2 h3 h4; simp only [State.credsOk, h1, h2, h3, h4]; decide +kernel)

theorem witness_MailboxCommandsAreCheckedAndApplied_fence : Mails isl 0x30 [0x2000, 0x2001] gFence := by
  refine lemma_mails (by decide +kernel) ?_
  intro b h1 h2 h3 h4; simp only [State.credsOk, h1, h2, h3, h4]; decide +kernel

theorem witness_MailboxCommandsAreCheckedAndApplied_enrol :
    Mails isl 0x31 [0x2000, 0x2001] ([0] ++ natLe 2 0x1001 ++ zeros 388) ∧ Mails isl 0x31 [0x2000, 0x2001] ([1] ++ natLe 2 0x1000 ++ zeros 388) := by
  refine ⟨lemma_mails (by decide +kernel) ?_, lemma_mails (by decide +kernel) ?_⟩ <;>
    (intro b h1 h2 h3 h4; simp only [State.credsOk, h1, h2, h3, h4]; decide +kernel)

theorem witness_MailboxCommandsAreCheckedAndApplied_debug :
    Mails isl 0x32 [0x2000, 0x2001] (zeros 5) ∧ Mails isl 0x32 [0x1000, 0x2001] ([1] ++ natLe 4 1) ∧
    Mails isl 0x32 [0x2000, 0x3000] ([2] ++ natLe 4 1) := by
  refine ⟨lemma_mails (by decide +kernel) ?_, lemma_mails (by decide +kernel) ?_, lemma_mails (by decide +kernel) ?_⟩ <;>
    (intro b h1 h2 h3 h4; simp only [State.credsOk, h1, h2, h3, h4]; decide +kernel)

theorem witness_MailboxCommandsAreCheckedAndApplied_island :
    Mails isl 0x33 [0x3000, 0x2000] (natLe 2 4095 ++ natLe 4 1) ∧ Mails isl 0x34 [0x3000, 0x2000] (natLe 4 0x5A45524F) ∧
    isl.sec.colophon.length < 2 ^ 20 := by
  refine ⟨lemma_mails (by decide +kernel) ?_, lemma_mails (by decide +kernel) ?_, by decide +kernel⟩ <;>
    (intro b h1 h2 h3 h4; simp only [State.credsOk, h1, h2, h3, h4]; decide +kernel)

/-- Commands that fail the first four checks: a failed self-test, a body too long, another device's serial number, and a
challenge that was not given. -/
theorem witness_MailboxCommandsAreCheckedAndApplied_checks :
    (let s := put isl [(Fld.secIslandState, 0, islError)]; s.canonical = true ∧ s.mailed 0x10 none (natLe 2 0x10) (bufOf (natLe 2 0x10)) ∧
      s.getF Fld.secIslandState 0 = islError ∧ ∃ k, s.mbCheck (bufOf (natLe 2 0x10)) = (mrSelftest, k)) ∧
    (isl.mailed 0x10 none (natLe 2 0x10 ++ [9]) (bufOf (natLe 2 0x10 ++ [9])) ∧ isl.getF Fld.secIslandState 0 = islOperational ∧
      mbLayoutOk (bufOf (natLe 2 0x10 ++ [9])) = false) ∧
    (∃ b, mcOpcode b = 0x10 ∧ mbLayoutOk b = true ∧ mcSerial b ≠ Config.serial.toNat) ∧
    (∃ b, mcOpcode b = 0x10 ∧ mbLayoutOk b = true ∧ mcSerial b = Config.serial.toNat ∧ isl.challengeOk (mcChallenge b) = false) := by
  have hser : Config.serial.toNat < 2 ^ 64 := Config.serial.isLt
  have h1 : Spells (mcMsg ((Config.serial.toNat + 1) % 2 ^ 64) 0x10 5 [0x2000] (natLe 2 300) ++ []) _ _ _ _ _ _ := lemma_spells [] (by omega)
    (by decide) (by decide) (by decide) (by decide)
  have h2 : Spells (mcMsg Config.serial.toNat 0x10 6 [0x2000] (natLe 2 300) ++ []) _ _ _ _ _ _ := lemma_spells [] hser
    (by decide) (by decide) (by decide) (by decide)
  refine ⟨⟨by decide +kernel, ⟨by decide +kernel, by decide +kernel, by decide +kernel, fun _ h => absurd h (by simp), fun _ => ⟨by decide +kernel, by decide +kernel,
      (lemma_buf _ (by decide +kernel)).symm⟩⟩, by decide +kernel, false, by decide +kernel⟩,
    ⟨⟨by decide +kernel, by decide +kernel, by decide +kernel, fun _ h => absurd h (by simp), fun _ => ⟨by decide +kernel, by decide +kernel,
      (lemma_buf _ (by decide +kernel)).symm⟩⟩, by decide +kernel, by decide +kernel⟩,
    ⟨_, h1.opcode, lemma_layout h1 (by decide) (by decide) (by decide), ?_⟩, ⟨_, h2.opcode, lemma_layout h2 (by decide) (by decide) (by decide), h2.serial, ?_⟩⟩
  · rw [h1.serial]
    omega
  · rw [h2.chal]
    decide +kernel

/-- Another command runs: a host's GET_CHALLENGE, and one over MCTP. -/
theorem witness_MailboxCommandsAreCheckedAndApplied_busy :
    let s : State := let s := put isl [(Fld.secMbBusy, 0, 1)]; { s with sec := { s.sec with buf := memPutRun [] 0 [1, 0] } };
    s.canonical = true ∧ s.mbServed = true ∧ s.mbBusy = true ∧ s.busUp = true ∧ s.inHostSet 7 = true ∧ mcOpcode (memGetRun s.sec.buf 0 2) = 1 ∧
      s.stage ≠ stageRom ∧ mcOpcode [1, 0] = 1 := by decide +kernel

/-- The order of attestation, with no request made, and one after each; the blocks 8, 11 and 16 of a loaded slot. -/
def att (n : Nat) : State :=
  { put (holds rdy csLoaded ch) [(Fld.secIslandState, 0, islOperational)] with sec := { rdy.sec with
      spdm := n, challenges := [(5, 0)], auths := [⟨1, 1, 9, [0x1000]⟩, ⟨2, 0, 9, []⟩, ⟨3, 1, 9, [0x1000]⟩], colophon := [(7, zeros 64)] } }

theorem witness_AttestationAnswersInOrder :
    (∀ n ∈ [0, 1, 2, 3], (att n).canonical = true ∧ (att n).isUp = true ∧ (att n).getF Fld.secIslandState 0 = islOperational ∧
      (att n).sec.spdm = n) ∧
    ((att 3).live = true ∧ (∀ k ∈ [1, 2, 3], (∃ a ∈ (att 3).sec.auths, a.kind = k) ∧ ∀ a ∈ rdy.sec.auths, a.kind ≠ k) ∧
      (att 3).sec.colophon.length < 2 ^ 20 ∧ (att 3).sec.colophon.getLast? = some (7, zeros 64) ∧ (att 3).ckptSeq ≠ some 7) ∧
    ((att 3).cs 0 ≠ csEmpty ∧ (att 3).cs 0 ≠ csValidating) ∧
    (let s := { att 3 with sec := { (att 3).sec with ckpts := [⟨7, [], 0, 0, []⟩] } }; s.canonical = true ∧ s.ckptSeq = some 7) := by decide +kernel

theorem witness_AttestationAnswersInOrder_blocks : ∀ i ∈ [8, 11, 16], ((att 3).measurement i).isSome = true := by
  intro i hi
  simp only [List.mem_cons, List.not_mem_nil, or_false] at hi
  rcases hi with rfl | rfl | rfl <;> rfl

/-! ### Values that the spec states

Each expected value stands in the spec's own text (a table, a worked example) or in the standard that the spec names. -/

/-- One command, run as the only one in the queue. -/
def after (s : State) (c : Instr) : State :=
  match step { s with pending := [c] } with
  | .next t => t
  | _ => s

/-- The check value of CRC-32C: the nine characters 1 to 9. -/
theorem test_crc32c : crc32c [0x31, 0x32, 0x33, 0x34, 0x35, 0x36, 0x37, 0x38, 0x39] = 0xE3069283 := by decide +kernel

/-- FIPS 180-4: the digest of the three characters a, b, c. -/
theorem test_sha256 : beNat (sha256 [0x61, 0x62, 0x63]) = 0xBA7816BF8F01CFEA414140DE5DAE2223B00361A396177A9CB410FF61F20015AD := by
  decide +kernel

/-- The example after R303: slug 10 with D = 4 is owned by member 1. -/
theorem test_slug_owner : slugOwner 10 4 = 1 := by decide +kernel

/-- The example of chapter 5: key 0x0000_0012_3456 falls in set 218. -/
theorem test_stipple_set : stippleSet 0x123456 = 218 := by decide +kernel

/-- Contributions of the example of chapter 5, on the scale 2^-64. -/
def five : List Contribution :=
  [⟨0x123456, 5 * 2 ^ 54, false⟩, ⟨0x123456, 3 * 2 ^ 44, false⟩, ⟨0x123456, 3 * 2 ^ 124, false⟩, ⟨0x123456, 2 ^ 164, false⟩,
    ⟨0x123456, 7 * 2 ^ 54, false⟩]
def afterFive (n : Nat) : StippleSt := ((five.take n).foldl (fun b x => stippleInsert b.1 b.2 x) (StippleSt.empty, SpillCnt.zero)).1

/-- The example's table: the entry after each contribution, and the one record in the hellbox. -/
theorem test_stipple_entries :
    (afterFive 1).entries = [⟨0x123456, 5, -10, false⟩] ∧ (afterFive 2).entries = [⟨0x123456, 5123, -20, false⟩] ∧
    (afterFive 3).entries = [⟨0x123456, 3 * 2 ^ 80 + 5123, -20, false⟩] ∧ (afterFive 4).entries = [] ∧
    (afterFive 4).hell = [natLe 24 (2 ^ 164 + 3 * 2 ^ 124 + 5123 * 2 ^ 44) ++ natLe 6 0x123456 ++ natLe 2 2] ∧ (afterFive 5).entries = [⟨0x123456, 7, -10, false⟩] := by
  decide +kernel

/-- The merge delivers 2^100 + 3 × 2^60 + 12,291 × 2^-20, in the opposite order of arrival too. -/
theorem test_stipple_merge :
    (afterFive 5).merge = [⟨0x123456, 2 ^ 164 + 3 * 2 ^ 124 + 12291 * 2 ^ 44, false⟩] ∧
    ((five.reverse.foldl (fun b x => stippleInsert b.1 b.2 x) (StippleSt.empty, SpillCnt.zero)).1).merge =
      [⟨0x123456, 2 ^ 164 + 3 * 2 ^ 124 + 12291 * 2 ^ 44, false⟩] := by decide +kernel

/-- The permutation example after R283: VL = 6, v3 holds 10 to 15, lane i from lane i XOR 4; KEEP 0 or 1. -/
def permEng : VecEngine :=
  ⟨6, (List.range 32).map fun r => (List.range 64).map fun i => ⟨BitVec.ofNat 32 (if r == 3 && i < 6 then 10 + i else if r == 4 && i < 6 then 7 else 0), false⟩,
    List.replicate 8 (List.replicate 64 true), []⟩
def permed (keep : Bool) : State :=
  after { rdy with engines := [(cellKey ⟨0, 0, 0⟩, permEng)] } (.perm ⟨0, 0, 0⟩ ⟨keep, false, 0, 4, 3, 0, 0, true, 4⟩)

theorem test_perm :
    ((List.range 6).map fun i => (((permed false).engine ⟨0, 0, 0⟩).lane 4 i).bits) = [14, 15, 0, 0, 10, 11] ∧
    ((List.range 6).map fun i => (((permed true).engine ⟨0, 0, 0⟩).lane 4 i).bits) = [14, 15, 7, 7, 10, 11] := by decide +kernel

/-- R278: ADD wraps, MULH takes the high half, a shift of 32 leaves zero, RCP of 0 is the largest value. -/
def vecOf (a b : Int) : State :=
  { rdy with engines := [(cellKey ⟨0, 0, 0⟩, ⟨1, (List.range 32).map fun r => [⟨BitVec.ofInt 32 (if r == 1 then a else if r == 2 then b else 0), false⟩],
    List.replicate 8 [true], []⟩)] }
def mu (imm : Bool) (immv : Lane) : MuFields := ⟨false, false, 0, 3, 1, 2, 0, imm, immv⟩
def lane3 (s : State) : Lane := ((s.engine ⟨0, 0, 0⟩).lane 3 0).bits

theorem test_add_wraps : lane3 (after (vecOf 0x7FFFFFFF 1) (.add ⟨0, 0, 0⟩ (mu false 0))) = 0x80000000 := by decide +kernel
theorem test_mulh : lane3 (after (vecOf (-1) 1) (.mulh ⟨0, 0, 0⟩ (mu false 0))) = 0xFFFFFFFF ∧
    lane3 (after (vecOf (-1) 1) (.mulhu ⟨0, 0, 0⟩ (mu false 0))) = 0 := by decide +kernel
theorem test_shift_by_32 : lane3 (after (vecOf (-1) 32) (.shl ⟨0, 0, 0⟩ (mu false 0))) = 0 ∧
    lane3 (after (vecOf (-2) 32) (.sra ⟨0, 0, 0⟩ (mu false 0))) = 0xFFFFFFFF := by decide +kernel
theorem test_abs_least : lane3 (after (vecOf (-2147483648) 0) (.abs ⟨0, 0, 0⟩ (mu false 0))) = 2147483647 := by decide +kernel
theorem test_clamp : lane3 (after (vecOf 9 0) (.clamp ⟨0, 0, 0⟩ (mu true 0x0005FFFD))) = 5 ∧
    lane3 (after (vecOf (-9) 0) (.clamp ⟨0, 0, 0⟩ (mu true 0x0005FFFD))) = BitVec.ofInt 32 (-3) := by decide +kernel
theorem test_rcp : lane3 (after (vecOf 0 0) (.rcp ⟨0, 0, 0⟩ (mu false 16))) = 2147483647 ∧
    lane3 (after (vecOf 3 0) (.rcp ⟨0, 0, 0⟩ (mu false 4))) = 5 := by decide +kernel
/-- round_half_even(2^(1 + 1/2)) = 3; 2^30 with g = 30. -/
theorem test_exp2 : lane3 (after (vecOf 1 0) (.exp2 ⟨0, 0, 0⟩ (mu false 0x101))) = 3 ∧
    lane3 (after (vecOf 0 0) (.exp2 ⟨0, 0, 0⟩ (mu false 0x1E00))) = 0x40000000 := by decide +kernel
/-- 5 × 2^(0 − 1) = 2.5 rounds to the even 2. -/
theorem test_req : lane3 (after (vecOf 5 0) (.req ⟨0, 0, 0⟩ (mu true 0x100))) = 2 := by decide +kernel

/-- R172, R173: 32 products of 1 by 2 are the group partial 64, at exponents 0 at 64 × 2^64; R188: it closes to 64. -/
theorem test_feed : ((after (grouped (acc2 false [0, 0, 0, 0])) (.feed ⟨15, 15, 15⟩ 7 feed2)).openGroup ⟨15, 15, 15⟩ 7).map (·.acc) =
    some [0, 0, 64 * 2 ^ 64, 96 * 2 ^ 64] := by decide +kernel
theorem test_round_half_even : rne (5 * 2 ^ 63) 0 = 2 ∧ rne (7 * 2 ^ 63) 0 = 4 ∧ rne (-5 * 2 ^ 63) 0 = -2 := by decide +kernel

/-- The example after R624: the offset of 10 ns and the path delay of 210 ns. -/
def exchange3 : State := { rdy with time := { rdy.time with t1 := 500 * 2 ^ 16, t2 := 720 * 2 ^ 16, t3 := 900 * 2 ^ 16 } }
theorem test_time_offset : (exchange3.timeResult 0 (1100 * 2 ^ 16)).getF Fld.hlkTtDelay 0 = 210 ∧
    (exchange3.timeResult 0 (1100 * 2 ^ 16)).getF Fld.hlkTtOffset 0 = 10000 := by decide +kernel

/-- R576: a message with its check symbols is a multiple of the generator, so its syndromes vanish; with a symbol wrong they do not. -/
theorem test_fec : fecSyndromes ([5, 700, 1023] ++ fecChecks [5, 700, 1023]) = List.replicate 16 0 ∧
    fecSyndromes ([5, 701, 1023] ++ fecChecks [5, 700, 1023]) ≠ List.replicate 16 0 ∧ fecGenerator.length = 17 := by decide +kernel

/-! ### Single steps -/

/-- R501: the greater value wins, and of equal values the lower index. -/
def slotBytes (s : State) : Bytes := memGetRun s.mem (chipLoc 0 0x10000) 16
theorem test_max_idx :
    slotBytes (after (after (after (runs 15 ch) (.maxIdx 0 0x10000 12 7)) (.maxIdx 0 0x10000 12 3)) (.maxIdx 0 0x10000 11 1)) =
      natLe 8 12 ++ natLe 5 3 ++ [0, 0, 1] := by decide +kernel
theorem test_atomic_add : (after { runs 15 ch with mem := memPutRun [] (chipLoc 0 0x10000) (natLe 8 (2 ^ 64 - 1)) } (.atomicAdd 0 0x10000 3)).out =
    [.atomicOld (some (natLe 8 (2 ^ 64 - 1)))] ∧
    u64At (slotBytes (after { runs 15 ch with mem := memPutRun [] (chipLoc 0 0x10000) (natLe 8 (2 ^ 64 - 1)) } (.atomicAdd 0 0x10000 3))) 0 = 2 := by
  decide +kernel

/-- R531: SIGNAL adds its amount; R533: TAKE removes it. -/
theorem test_signal : (after (marked rdy 0 1 0) (.signal 7 16383 2)).getF Fld.mrkCount 16383 = 3 := by decide +kernel

/-- R834: without time or fabric the device waits in BRING_UP, and enters READY after 44 s. -/
theorem test_ready : (after bup (.ready false)).stage = stageBringUp ∧ (after bup (.ready true)).stage = stageReady := by decide +kernel

/-- R730: an empty queue lets a nanosecond pass. -/
theorem test_idle : (match step rdy with | .next t => t.upNs | _ => 0) = rdy.upNs + 1 := by decide +kernel

/-- R652, R655: a register read of a host outside the host set is answered as unsupported, one within it with data. -/
theorem test_unknown_host : (after rdy (.registerRead 8 0 8)).out = [.unsupported] ∧ (after rdy (.registerRead 7 0 8)).out ≠ [.unsupported] := by
  decide +kernel

/-- R657, R658: a BAR2 read returns what the merging buffer still holds only after the aperture was synchronised. -/
theorem test_bar2 : (after (after rdy (.bar2Write 7 64 ⟨[1, 2, 3], []⟩)) (.bar2Read 7 64 ⟨4, []⟩)).out = [.readData [0, 0, 0, 0] false] ∧
    (after (after (after rdy (.bar2Write 7 64 ⟨[1, 2, 3], []⟩)) (.hifApertureSync 7)) (.bar2Read 7 64 ⟨4, []⟩)).out.head? =
      some (.readData [1, 2, 3, 0] false) := by decide +kernel

/-- R648: a snoop of a line that is not held. -/
theorem test_snoop : (after rdy (.cxlCacheSnoop 64)).out = [.snoopAnswer 64 false] := by decide +kernel

/-- R851: a set point of die 0 goes to address 0x60; one off the 5 mV grid is not sent. -/
theorem test_set_point : (after rdy (.setPointWrite 0 700 true)).out = [.setPoint 0x60 700] ∧ (after rdy (.setPointWrite 0 701 true)).out = [] := by
  decide +kernel

/-- R727: the trip temperature is 110 °C where no fence has set one. -/
theorem test_trip : (after rdy (.tempSample 0 0 0 110)).pw.tripped = true ∧ (after rdy (.tempSample 0 0 0 109)).pw.tripped = false := by
  decide +kernel

/-- R630: port 3 answers an ARP request for its address, and drops one for another. -/
theorem test_arp : (after (ethOf rdy (qp2 [])) (.arp ⟨3, 2130706433, 9, 8, 64, 0⟩)).out = [.addrReply 3 2130706433 1 9] ∧
    (after (ethOf rdy (qp2 [])) (.arp ⟨3, 5, 9, 8, 64, 0⟩)).getF Fld.ethRxDrops 3 = 1 := by decide +kernel

/-- R632: the packet expected next is acknowledged. -/
theorem test_roce_send : (after (ethOf rdy (qp2 [])) (.send (pk 9 7))).out = [.roceAck 3 (2 ^ 24 - 1) 9 0] := by decide +kernel

/-- R834, R839: a failed self-test leads to HALTED with code 1. -/
theorem test_boot_halts : (after State.reset (.bootStart { gBoot with selfTest := false })).stage = stageHalted := by decide +kernel
theorem test_boot_code : (after State.reset (.bootStart { gBoot with selfTest := false })).getF Fld.secBootCode 0 = 1 := by decide +kernel

end Sys2Proof.Tests
end

section
/-! SUPPORT. What the proofs about resets and register accesses share: frames of single updates, the gate of a host access, the
turn of a ticket. -/

namespace Sys2Proof.Machine

variable {q : List Instr}

/-! ### Frames of single updates -/

theorem State.SameBut.trans {rs : List RegName} {ps : List Part} {a b c : State} (h1 : State.SameBut rs ps a b)
    (h2 : State.SameBut rs ps b c) : State.SameBut rs ps a c := by
  obtain ⟨hq1, hr1, hp1⟩ := h1
  obtain ⟨hq2, hr2, hp2⟩ := h2
  exact ⟨hq2.trans hq1, fun r hr i hi => (hr2 r hr i hi).trans (hr1 r hr i hi), fun p hp => samePart_trans (hp1 p hp) (hp2 p hp)⟩

theorem State.SameBut.mono {rs rs' : List RegName} {ps ps' : List Part} {a b : State} (h : State.SameBut rs ps a b)
    (hrs : rs ⊆ rs') (hps : ps ⊆ ps') : State.SameBut rs' ps' a b := by
  obtain ⟨hq, hr, hp⟩ := h
  exact ⟨hq, fun r hn => hr r fun h => hn (hrs h), fun p hn => hp p fun h => hn (hps h)⟩

theorem State.sameBut_refl (rs : List RegName) (ps : List Part) (s : State) : State.SameBut rs ps s s :=
  ⟨rfl, fun _ _ _ _ => rfl, fun p _ => by cases p <;> rfl⟩

/-- Storing a word changes its register alone. -/
theorem State.wr_sameBut {s : State} (h : keysRise s.regs) (r : RegName) (i v : Nat) : State.SameBut [r] [] s (s.wr r i v) :=
  (State.wr_frame (State.Frame.refl h) (Nat.or_self r.mask)).sameBut (by simp [regsMask, partsMask, RegName.mask])

theorem State.setF_sameBut {s : State} (h : keysRise s.regs) (f : Field) (i v : Nat) : State.SameBut [f.reg] [] s (s.setF f i v) :=
  State.wr_sameBut h _ _ _

/-- What the device puts on a port changes its outputs alone. -/
theorem State.emit_sameBut (s : State) (o : Out) : State.SameBut [] [.out] s (s.emit o) := by
  refine ⟨rfl, fun _ _ _ _ => rfl, fun p hp => ?_⟩
  cases p with
  | out => simp at hp
  | _ => rfl

/-- A counter of 32 bits counts one and holds at all ones. -/
theorem State.getF_bump_one {s : State} {f : Field} {i : Nat} (h : s.Sound q) (hf : f.ok i) (hw : f.hi + 1 - f.lo = 32) :
    (s.bump f i 1).getF f i = min (s.getF f i + 1) (2 ^ 32 - 1) := by
  obtain ⟨hlo, hhi, hi⟩ := hf
  have hmax : f.max = 2 ^ 32 - 1 := by
    rw [Field.max, Field.width, show f.hi - f.lo + 1 = 32 by omega]
  rw [State.getF_bump h ⟨hlo, hhi, hi⟩, hw, hmax, satNat]
  split <;> omega

/-! ### The gate of a host access -/

theorem State.hostWrite_of_hears {s : State} {rid : Nat} (h : s.hears rid) (f : State → State) : s.hostWrite rid f = f s := by
  simp [State.hostWrite, h.1, h.2]

theorem State.hostRead_of_hears {s : State} {rid : Nat} (h : s.hears rid) (f : State → State) : s.hostRead rid f = f s := by
  simp [State.hostRead, h.1, h.2]

theorem State.regRead_of_serves {s : State} {rid : Nat} (h : s.serves rid) (f : State → State) : s.regRead rid f = f s := by
  simp [State.regRead, State.hostRead_of_hears h.1, h.2]

theorem exec_registerWrite {s : State} {rid : Nat} (h : s.hears rid) (off width value : Nat) :
    exec (.registerWrite rid off width value) s = .next (s.bar0Write off width value) :=
  congrArg Host.Outcome.next (State.hostWrite_of_hears h _)

theorem exec_registerRead {s : State} {rid : Nat} (h : s.hears rid) (off width : Nat) :
    exec (.registerRead rid off width) s = .next (s.bar0Read off width) :=
  congrArg Host.Outcome.next (State.hostRead_of_hears h _)

/-- A register lies inside BAR0, apart from the MSI-X table, its pending bits and the mailbox buffer, at offsets divisible
by 8. -/
def RegInfo.placed (k : RegInfo) : Bool :=
  let last := k.base + k.stride * (k.count - 1)
  k.base % 8 == 0 && k.stride % 8 == 0 && decide (last + 8 ≤ 0x4000000) &&
    (decide (last < 0x1F0000) || decide (0x1F8100 ≤ k.base) && decide (last < 0x1810000) || decide (0x1814000 ≤ k.base))

theorem RegName.placed (r : RegName) : r.info.placed = true := by
  cases r <;> decide

/-- An access that names a register passes every range that is no register (R653, R750). -/
theorem RegName.access_placed {r : RegName} {i off width : Nat} (hw : width = 4 ∨ width = 8) (ha : off % width = 0)
    (ho : off / 8 * 8 = r.addr i) (hi : i < r.info.count) :
    accessOk off width = true ∧ inBuffer off = false ∧ inMsix off = false ∧ inPba off = false := by
  have hp := r.placed
  have hlast : r.info.stride * i ≤ r.info.stride * (r.info.count - 1) := Nat.mul_le_mul_left _ (by omega)
  simp only [RegInfo.placed, Bool.and_eq_true, Bool.or_eq_true, beq_iff_eq, decide_eq_true_eq] at hp
  obtain ⟨⟨⟨-, -⟩, htop⟩, hplace⟩ := hp
  simp only [RegName.addr] at ho
  simp only [accessOk, inBuffer, inMsix, inPba, Bool.and_eq_true, Bool.and_eq_false_iff, Bool.or_eq_true, beq_iff_eq,
    decide_eq_true_eq, decide_eq_false_iff_not]
  refine ⟨⟨⟨hw, ha⟩, ?_⟩, ?_, ?_, ?_⟩ <;> omega

theorem accessOk_eq_false {off width : Nat} (h : (width ≠ 4 ∧ width ≠ 8) ∨ off % width ≠ 0) : accessOk off width = false := by
  simp only [accessOk, Bool.and_eq_false_iff, Bool.or_eq_false_iff, beq_eq_false_iff_ne]
  tauto

theorem State.served_of_windowUp {s : State} (h : s.windowUp = true) (off : Nat) : s.served off = true := by
  simp [State.served, h]

section Access
variable {s : State} {r : RegName} {i off width : Nat} (hup : s.windowUp = true) (hw : width = 4 ∨ width = 8)
  (ha : off % width = 0) (ho : off / 8 * 8 = r.addr i) (hi : i < r.info.count)
include hup hw ha ho hi

theorem State.bar0Write_register (value : Nat) : s.bar0Write off width value = s.writeReg r i off width value := by
  obtain ⟨hacc, hbuf, hmsix, hpba⟩ := RegName.access_placed hw ha ho hi
  simp [State.bar0Write, hacc, hbuf, hmsix, hpba, State.served_of_windowUp hup, ho, findReg_addr hi]

theorem State.bar0Read_register : s.bar0Read off width = s.readReg r i off width := by
  obtain ⟨hacc, hbuf, hmsix, hpba⟩ := RegName.access_placed hw ha ho hi
  simp [State.bar0Read, hacc, hbuf, hmsix, hpba, State.served_of_windowUp hup, ho, findReg_addr hi]

end Access

/-! ### The turn of a ticket -/

/-- A ticket at its turn acts (R671, R675). -/
theorem State.ticketAct_of_atTurn {s : State} {ring seq op : Nat} {x : Ticket} (h : s.atTurn ring seq op x)
    (f : Ticket → State → State) :
    s.ticketAct ring seq op f = f x (s.updTicket ring seq fun t => { t with acted := true }) := by
  have hcheck := h.passes
  have horder : (isChaseTicket op && !s.chaseOrderOk x) = false := by
    cases hc : isChaseTicket op with
    | false => rfl
    | true => simp [h.order hc]
  simp [State.ticketAct, h.begun, h.up, h.fresh.1, h.fresh.2, h.opcode, horder, h.served, hcheck]

end Sys2Proof.Machine
end

section
/-! PROOF. Resets: each returns the registers of its domain, and of the domains that this one encloses, to their reset
values (R21). -/

namespace Sys2Proof.Machine

variable {q : List Instr}

theorem domainResets_cold (d : Domain) : domainResets .cold d = true := rfl

theorem domainResets_warm {d : Domain} (h : d ≠ .cold) : domainResets .warm d = true := by
  cases d with
  | cold => exact absurd rfl h
  | _ => rfl

/-- Only the COLD domain encloses the COLD domain. -/
theorem eq_cold_of_domainResets_cold {d : Domain} (h : domainResets d .cold = true) : d = .cold := by
  cases d with
  | cold => rfl
  | _ => cases h

theorem domainResets_func {d : Domain} (h : d = .func ∨ d = .chase) : domainResets .func d = true := by
  rcases h with rfl | rfl <;> rfl

/-- A reset of the COLD or WARM domain: after the registers have returned, only TIME_STATE is set, by a reset that leaves the
COLD domain alone. -/
theorem State.rd_hardReset {s : State} {d : Domain} {r : RegName} {i : Nat} (h : s.Sound q) (hi : i < r.info.count)
    (hd : domainResets d r.info.dom = true) : (s.hardReset d).rd r i = r.resetWord := by
  have hsaved := State.saveRecord_sound h
  have hreset : (s.saveRecord.resetRegs d).rd r i = r.resetWord := by rw [State.rd_resetRegs hsaved hi, if_pos hd]
  unfold State.hardReset
  extract_lets s1 h1 x r1 pw s2
  split
  · exact (State.rd_congr rfl).trans hreset
  · rename_i hcold
    have hs2 : s2.rd r i = r.resetWord := (State.rd_congr rfl).trans hreset
    have hrise : keysRise s2.regs := (State.resetRegs_sound hsaved).rise
    split
    · have hne : r ≠ .timeStatus := fun hr => hcold (eq_cold_of_domainResets_cold (by rwa [hr] at hd))
      exact (State.rd_wr_ne (s := s2) _ hrise hi (.inl hne)).trans hs2
    · exact hs2

/-- A FUNC reset: landed writes and teardowns come before the registers return, and nothing sets a register after it. -/
theorem State.rd_funcReset {s : State} {r : RegName} {i : Nat} (h : s.Sound q) (hi : i < r.info.count)
    (hd : r.info.dom = .func ∨ r.info.dom = .chase) : s.funcReset.rd r i = r.resetWord := by
  have hland : (s.host.heldWrites.foldl State.landWrite s).Sound q :=
    State.Sound.foldl (fun _ _ ht => State.landWrite_sound ht) h
  have htorn : ((List.range 16).foldl (fun s c => s.tearDown c) (s.host.heldWrites.foldl State.landWrite s)).Sound q :=
    State.Sound.foldl (fun _ _ ht => State.tearDown_sound ht) hland
  have hreset := State.rd_resetRegs (d := .func) htorn hi
  rw [if_pos (domainResets_func hd)] at hreset
  exact (State.rd_congr rfl).trans hreset

/-- The debug session that ends with a slot changes no CHASE-domain register. -/
theorem State.rd_slotEmptied {s : State} {r : RegName} {c i : Nat} (h : keysRise s.regs) (hd : r.info.dom = .chase)
    (hi : i < r.info.count) : (s.slotEmptied c).rd r i = s.rd r i := by
  refine (State.slotEmptied_frame (M := 0x200000003e80000000000000000000000000000000000) (State.Frame.refl h) rfl).regs r ?_ i hi
  revert hd
  cases r <;> decide

/-- A teardown: after the slot's registers have returned, only the end of a debug session sets registers. -/
theorem State.rd_tearDown {s : State} {r : RegName} {c : Nat} (h : s.Sound q) (hd : r.info.dom = .chase) (hc : c < r.info.count) :
    (s.tearDown c).rd r c = r.resetWord := by
  unfold State.tearDown
  extract_lets held work s1 s2 empty s3 s4 eth s5
  have hs1 : s1.Sound q := State.dropInk_sound (State.freeFrames_sound (State.releaseMarks_sound h))
  have hs2 : s2.Sound q := State.Sound.foldl (fun _ _ ht => State.setF_sound (State.setF_sound ht)) hs1
  have hs3 : s3.Sound q := State.setChase_sound (State.resetSlotRegs_sound hs2)
  have hs4 : s4.Sound q := State.dropGroups_sound (State.freeSamples_sound hs3)
  have hreset : (s2.resetSlotRegs c).rd r c = r.resetWord := by rw [State.rd_resetSlotRegs hs2 hc, if_pos ⟨hd, rfl⟩]
  calc _ = s5.rd r c := State.rd_slotEmptied (s := s5.updFab _) hs4.rise hd hc
    _ = (s2.resetSlotRegs c).rd r c := State.rd_congr rfl
    _ = r.resetWord := hreset

/-- Settles O7: each reset returns its domain's registers last, or sets none of that domain afterwards. -/
theorem resetDomainsReturnToResetValues : Obligations.ResetDomainsReturnToResetValues := by
  unfold Obligations.ResetDomainsReturnToResetValues
  refine ⟨fun s hs hpw => ?_, fun s hs hbus => ?_, fun s hs hlive href => ?_, fun s ring seq x hs hturn hcs => ?_⟩
  · have hend : s.endAuths.Sound s.pending := State.endAuths_sound (State.sound_of_canonical hs)
    refine ⟨⟨_, congrArg Host.Outcome.next (if_pos hpw), fun r i hi => ?_⟩,
      fun b => ⟨_, congrArg Host.Outcome.next (if_pos hpw), fun r i hi => ?_⟩,
      ⟨_, congrArg Host.Outcome.next (if_pos hpw), fun r i hi hd => ?_⟩⟩
    · exact (State.updPw_rd ..).trans (State.rd_hardReset hend hi (domainResets_cold _))
    · exact (State.updPw_rd ..).trans (State.rd_hardReset hend hi (domainResets_cold _))
    · exact (State.updPw_rd ..).trans (State.rd_hardReset hend hi (domainResets_warm hd))
  · have hsound := State.sound_of_canonical hs
    exact ⟨⟨_, congrArg Host.Outcome.next (if_pos hbus), fun r i hi hd => State.rd_funcReset hsound hi hd⟩,
      ⟨_, congrArg Host.Outcome.next (if_pos hbus), fun r i hi hd => State.rd_funcReset hsound hi hd⟩⟩
  · refine ⟨_, congrArg Host.Outcome.next ((if_pos (by simp [href])).trans (if_pos ?_)), fun r i hi hd => ?_⟩
    · exact hlive
    · exact (State.updPw_rd ..).trans (State.rd_funcReset (State.updPw_sound (State.sound_of_canonical hs)) hi hd)
  · refine ⟨_, congrArg Host.Outcome.next ((State.ticketAct_of_atTurn hturn _).trans (if_pos hcs)), fun r hd hc => ?_⟩
    exact (State.done_rd ..).trans (State.rd_tearDown (State.updTicket_sound (State.sound_of_canonical hs)) hd hc)

end Sys2Proof.Machine
end

section
/-! PROOF. Host accesses of registers: which fields a write takes and a read clears, and that nothing else changes (R11 to
R15, R652, R731, R871). -/

namespace Sys2Proof.Machine

variable {q : List Instr}

/-! ### Field tables -/

/-- A field lies in its word, and one that a written 1 clears or sets is a single bit. -/
def FieldSpec.fits (f : FieldSpec) : Bool :=
  decide (f.lo ≤ f.hi) && decide (f.hi < 64) && (!(f.acc == .w1c || f.acc == .w1s) || f.hi == f.lo)

/-- Two fields share no bit. -/
abbrev FieldSpec.apart (f g : FieldSpec) : Prop := f.hi < g.lo ∨ g.hi < f.lo

theorem FieldSpec.fits_iff {f : FieldSpec} :
    f.fits = true ↔ f.lo ≤ f.hi ∧ f.hi < 64 ∧ (f.acc = .w1c ∨ f.acc = .w1s → f.hi = f.lo) := by
  simp only [FieldSpec.fits, Bool.and_eq_true, Bool.or_eq_true, Bool.not_eq_true', Bool.or_eq_false_iff, decide_eq_true_eq,
    beq_iff_eq, beq_eq_false_iff_ne, and_assoc]
  tauto

theorem RegName.fields_fit (r : RegName) : ∀ f ∈ r.fields, f.fits = true := by
  cases r <;> decide

theorem RegName.fields_apart (r : RegName) : r.fields.Pairwise FieldSpec.apart := by
  cases r <;> decide

/-- A word with a field replaced, where there is a new value for it. -/
def putField (w : Nat) (f : FieldSpec) : Option Nat → Nat
  | some x => setBits w f.hi f.lo x
  | none => w

/-- What a field reads once a new value, if there is one, stands in it. -/
def FieldSpec.replaced (f : FieldSpec) (old : Nat) : Option Nat → Nat
  | some x => x % 2 ^ (f.hi + 1 - f.lo)
  | none => bitsOf old f.hi f.lo

theorem bitsOf_putField_same {f : FieldSpec} (hf : f.fits = true) (w : Nat) (x : Option Nat) :
    bitsOf (putField w f x) f.hi f.lo = f.replaced w x := by
  cases x with
  | none => rfl
  | some x => exact bitsOf_setBits _ _ _ _ (Nat.le_succ_of_le (FieldSpec.fits_iff.1 hf).1)

theorem bitsOf_putField_apart {f g : FieldSpec} (hf : f.fits = true) (h : f.apart g) (w : Nat) (x : Option Nat) :
    bitsOf (putField w f x) g.hi g.lo = bitsOf w g.hi g.lo := by
  cases x with
  | none => rfl
  | some x => exact bitsOf_setBits_ne _ _ _ _ _ _ (Nat.le_succ_of_le (FieldSpec.fits_iff.1 hf).1) h.symm

theorem putField_lt {f : FieldSpec} (hf : f.fits = true) {w : Nat} (hw : w < 2 ^ 64) (x : Option Nat) : putField w f x < 2 ^ 64 := by
  obtain ⟨hlo, hhi, -⟩ := FieldSpec.fits_iff.1 hf
  cases x with
  | none => exact hw
  | some x => exact setBits_lt _ _ _ _ (Nat.le_succ_of_le hlo) hhi hw

/-- The fields of a table, each put in turn: `k` says what new value a field has. -/
def putFields (k : FieldSpec → Option Nat) (fs : List FieldSpec) (w : Nat) : Nat := fs.foldl (fun w f => putField w f (k f)) w

section Fields
variable {k : FieldSpec → Option Nat} {fs : List FieldSpec} (hfit : ∀ f ∈ fs, f.fits = true)
include hfit

theorem putFields_lt {w : Nat} (hw : w < 2 ^ 64) : putFields k fs w < 2 ^ 64 := by
  induction fs generalizing w with
  | nil => exact hw
  | cons f fs ih =>
    exact ih (fun g hg => hfit g (List.mem_cons_of_mem _ hg)) (putField_lt (hfit f (List.mem_cons_self ..)) hw _)

/-- A field apart from every field of the table reads as before. -/
theorem bitsOf_putFields_apart {g : FieldSpec} (h : ∀ f ∈ fs, f.apart g) (w : Nat) :
    bitsOf (putFields k fs w) g.hi g.lo = bitsOf w g.hi g.lo := by
  induction fs generalizing w with
  | nil => rfl
  | cons f fs ih =>
    exact (ih (fun f hf => hfit f (List.mem_cons_of_mem _ hf)) (fun f hf => h f (List.mem_cons_of_mem _ hf)) _).trans
      (bitsOf_putField_apart (hfit f (List.mem_cons_self ..)) (h f (List.mem_cons_self ..)) _ _)

/-- A field of the table reads its new value, if it has one. -/
theorem bitsOf_putFields_mem (hapart : fs.Pairwise FieldSpec.apart) {g : FieldSpec} (hg : g ∈ fs) (w : Nat) :
    bitsOf (putFields k fs w) g.hi g.lo = g.replaced w (k g) := by
  induction fs generalizing w with
  | nil => cases hg
  | cons f fs ih =>
    obtain ⟨hf, hfs⟩ := List.pairwise_cons.1 hapart
    have hfit' : ∀ f ∈ fs, f.fits = true := fun f hf => hfit f (List.mem_cons_of_mem _ hf)
    have hfitf := hfit f (List.mem_cons_self ..)
    rcases List.mem_cons.1 hg with rfl | hg
    · exact (bitsOf_putFields_apart hfit' (fun f' hf' => (hf f' hf').symm) _).trans (bitsOf_putField_same hfitf w (k g))
    · refine (ih hfit' hfs hg (putField w f (k f))).trans ?_
      cases hk : k g with
      | some x => rfl
      | none => exact bitsOf_putField_apart hfitf (hf g hg) w (k f)

end Fields

/-! ### What a plain write leaves in a register -/

/-- The value that a write of the bits [a + n − 1 : a] gives a field, `v` being the merged word; none where the field stays
as it is. -/
def FieldSpec.taken (f : FieldSpec) (v a n : Nat) : Option Nat :=
  if f.hi < a ∨ a + n ≤ f.lo then none
  else match f.acc with
    | .rw => if f.vmin ≤ bitsOf v f.hi f.lo ∧ bitsOf v f.hi f.lo ≤ f.vmax then some (bitsOf v f.hi f.lo) else none
    | .w1c => if bitOf v f.hi then some 0 else none
    | .w1s => if bitOf v f.hi then some 1 else none
    | _ => none

theorem writeField_eq (w v a n : Nat) (f : FieldSpec) : writeField w v a n f = putField w f (f.taken v a n) := by
  unfold writeField FieldSpec.taken
  split
  · rfl
  · cases f.acc with
    | rw | w1c | w1s => dsimp only; split_ifs <;> rfl
    | _ => rfl

/-- A W1C field is one bit, so that a write covers it whole or not at all. -/
theorem FieldSpec.taken_of_uncovered {f : FieldSpec} (hf : f.fits = true) {v a n : Nat} (hacc : f.acc = .w1c)
    (h : ¬(a ≤ f.lo ∧ f.hi < a + n)) : f.taken v a n = none := by
  have := (FieldSpec.fits_iff.1 hf).2.2 (.inl hacc)
  exact if_pos (by omega)

theorem bitOf_eq_true_iff (v i : Nat) : bitOf v i = true ↔ bitsOf v i i = 1 := by
  simp [bitOf, bitsOf]

/-- The access codes of R15 say what the value taken leaves in the field. -/
theorem FieldSpec.after_eq {f : FieldSpec} (hf : f.fits = true) (old v a n : Nat) :
    f.after old (bitsOf v f.hi f.lo) a n = f.replaced old (f.taken v a n) := by
  have hbit := (FieldSpec.fits_iff.1 hf).2.2
  unfold FieldSpec.after FieldSpec.taken
  split
  · rfl
  · cases hacc : f.acc with
    | rw =>
      dsimp only
      split_ifs
      · simp [FieldSpec.replaced, bitsOf]
      · rfl
    | w1c =>
      simp only [bitOf_eq_true_iff, hbit (.inl hacc)]
      split_ifs
      · simp [FieldSpec.replaced]
      · simp [FieldSpec.replaced, hbit (.inl hacc)]
    | w1s =>
      simp only [bitOf_eq_true_iff, hbit (.inr hacc)]
      split_ifs
      · simp [FieldSpec.replaced, hbit (.inr hacc)]
      · simp [FieldSpec.replaced, hbit (.inr hacc)]
    | _ => rfl

section Plain
variable (s : State) (r : RegName) (i off width value : Nat)

/-- The word of a register with the written half replaced. -/
def State.merged : Nat := setBits (s.rd r i) (8 * (off % 8) + 8 * width - 1) (8 * (off % 8)) value

/-- The word that a plain write leaves: each field as its access code says. -/
def State.written : Nat :=
  putFields (fun f => f.taken (s.merged r i off width value) (8 * (off % 8)) (8 * width)) r.fields (s.rd r i)

theorem State.plainWrite_eq : s.plainWrite r i off width value =
    if s.written r i off width value = s.rd r i then s else s.wr r i (s.written r i off width value) := by
  have hfold : r.fields.foldl (fun w f => if f.acc == Access.w1c && !(decide (8 * (off % 8) ≤ f.lo) &&
      decide (f.hi < 8 * (off % 8) + 8 * width)) then w
      else writeField w (s.merged r i off width value) (8 * (off % 8)) (8 * width) f) (s.rd r i) = s.written r i off width value := by
    refine List.foldl_ext _ _ _ fun w f hf => ?_
    split
    · rename_i h
      simp only [Bool.and_eq_true, beq_iff_eq, Bool.not_eq_true', Bool.and_eq_false_iff, decide_eq_false_iff_not] at h
      exact congrArg (putField w f) (FieldSpec.taken_of_uncovered (r.fields_fit f hf) h.1 (by tauto)).symm
    · exact writeField_eq ..
  unfold State.plainWrite
  rw [← hfold]
  rfl

theorem State.written_lt : s.written r i off width value < 2 ^ 64 := putFields_lt r.fields_fit (s.rd_lt r i)

variable {s r i} (h : keysRise s.regs)
include h

theorem State.rd_plainWrite (hi : i < r.info.count) :
    (s.plainWrite r i off width value).rd r i = s.written r i off width value := by
  rw [State.plainWrite_eq]
  split
  · exact Eq.symm ‹_›
  · rw [State.rd_wr_same r i _ h hi, Nat.mod_eq_of_lt (s.written_lt ..)]

theorem State.rd_plainWrite_ne {j : Nat} (hj : j < r.info.count) (hne : j ≠ i) :
    (s.plainWrite r i off width value).rd r j = s.rd r j := by
  rw [State.plainWrite_eq]
  split
  · rfl
  · exact State.rd_wr_ne _ h hj (.inr hne)

theorem State.plainWrite_sameBut : State.SameBut [r] [] s (s.plainWrite r i off width value) := by
  rw [State.plainWrite_eq]
  split
  · exact State.sameBut_refl ..
  · exact State.wr_sameBut h ..

end Plain

/-- The registers that act in no other way only take their fields. -/
theorem State.writeReg_of_plain {r : RegName} (h : r.acts = false) (s : State) (i off width value : Nat) :
    s.writeReg r i off width value = s.plainWrite r i off width value := by
  cases r with
  | hifRingDb | mrkSignal | mrkXlate | dbgMarkSet | hbmMaint | rcWays | rcRangeCtrl | impQuery | hifRingCtrl | hifRingPhead
  | hifCtrl | hifHostPool | secMbCtrl | inkThrottle | inkThermal | mrkDlCfg | hlkTime => cases h
  | _ => rfl

/-- An access that is not naturally aligned or not 4 or 8 bytes wide is counted in HIF_UR_OTHER (R652). -/
theorem State.bar0Write_misaligned {s : State} {off width : Nat} (h : (width ≠ 4 ∧ width ≠ 8) ∨ off % width ≠ 0) (value : Nat) :
    s.bar0Write off width value = s.bump Fld.hifUrOther 0 1 := by
  simp [State.bar0Write, accessOk_eq_false h]

/-- Settles O16: a plain write stores the word whose fields are as `FieldSpec.after` says, and no other register. -/
theorem registerWriteTakesFields : Obligations.RegisterWriteTakesFields := by
  unfold Obligations.RegisterWriteTakesFields
  constructor
  · intro rid off width value s r i hs hserves _ hw ha ho hi hplain
    have hrise := State.rise_of_canonical hs
    refine ⟨s.plainWrite r i off width value, ?_, State.plainWrite_sameBut _ _ _ hrise,
      fun j hj hne => State.rd_plainWrite_ne _ _ _ hrise hj hne, fun f hf => ?_⟩
    · rw [exec_registerWrite hserves.1, State.bar0Write_register hserves.2 hw ha ho hi, State.writeReg_of_plain hplain]
    · rw [State.rd_plainWrite _ _ _ hrise hi, State.written, bitsOf_putFields_mem r.fields_fit r.fields_apart hf,
        FieldSpec.after_eq (r.fields_fit f hf)]
      rfl
  · intro rid off width value s hs hhears hbad
    have hsound := State.sound_of_canonical hs
    refine ⟨s.bump Fld.hifUrOther 0 1, ?_, State.setF_sameBut hsound.rise .., State.getF_bump_one hsound (by decide) rfl,
      State.getF_bump_apart hsound (by decide) (by decide) (by decide)⟩
    rw [exec_registerWrite hhears, State.bar0Write_misaligned hbad]

/-! ### Reads -/

/-- The bits that an access covers hold a whole RC field, which a read takes with it. -/
def FieldSpec.drained (f : FieldSpec) (a n : Nat) : Bool := f.acc == Access.rc && decide (a ≤ f.lo) && decide (f.hi < a + n)

theorem FieldSpec.drained_iff {f : FieldSpec} {a n : Nat} : f.drained a n = true ↔ f.acc = .rc ∧ a ≤ f.lo ∧ f.hi < a + n := by
  simp [FieldSpec.drained, and_assoc]

section Read
variable (s : State) (r : RegName) (i off width : Nat)

/-- The word that a read leaves: the RC fields that it covers whole are 0. -/
def State.cleared : Nat :=
  putFields (fun f => if f.drained (8 * (off % 8)) (8 * width) then some 0 else none) r.fields (s.rd r i)

theorem State.clearRc_eq : s.clearRc r i off width =
    if r.fields.any fun f => f.drained (8 * (off % 8)) (8 * width) then s.wr r i (s.cleared r i off width) else s := by
  have hfold : r.fields.foldl (fun w f => if f.drained (8 * (off % 8)) (8 * width) then setBits w f.hi f.lo 0 else w) (s.rd r i) =
      s.cleared r i off width := by
    refine List.foldl_ext _ _ _ fun w f _ => ?_
    dsimp only
    split <;> rfl
  rw [← hfold]
  rfl

variable {s r i} (h : keysRise s.regs)
include h

theorem State.bitsOf_clearRc (hi : i < r.info.count) {f : FieldSpec} (hf : f ∈ r.fields) :
    bitsOf ((s.clearRc r i off width).rd r i) f.hi f.lo =
      if f.drained (8 * (off % 8)) (8 * width) then 0 else bitsOf (s.rd r i) f.hi f.lo := by
  rw [State.clearRc_eq]
  split
  · have hlt : s.cleared r i off width < 2 ^ 64 := putFields_lt r.fields_fit (s.rd_lt r i)
    rw [State.rd_wr_same r i _ h hi, Nat.mod_eq_of_lt hlt, State.cleared, bitsOf_putFields_mem r.fields_fit r.fields_apart hf]
    split
    · exact Nat.zero_mod _
    · rfl
  · rename_i hnone
    rw [Bool.not_eq_true, List.any_eq_false] at hnone
    rw [if_neg (hnone f hf)]

theorem State.rd_clearRc_ne {j : Nat} (hj : j < r.info.count) (hne : j ≠ i) : (s.clearRc r i off width).rd r j = s.rd r j := by
  rw [State.clearRc_eq]
  split
  · exact State.rd_wr_ne _ h hj (.inr hne)
  · rfl

theorem State.clearRc_sameBut : State.SameBut [r] [] s (s.clearRc r i off width) := by
  rw [State.clearRc_eq]
  split
  · exact State.wr_sameBut h ..
  · exact State.sameBut_refl ..

end Read

/-- A register whose read does nothing else answers its word and gives up its RC fields (R15, R871). -/
theorem State.readReg_plain {r : RegName} (hsync : r ≠ .hifApertureSync) (hfence : r ≠ .hifDmaFence) (htime : r ≠ .timeNs)
    (hgal : isGal r = false) (s : State) (i off width : Nat) :
    s.readReg r i off width = (s.emit (.readData (halfOf (s.viewWord r i) off width) false)).clearRc r i off width := by
  unfold State.readReg
  split
  · exact absurd rfl htime
  · exact absurd rfl hsync
  · exact absurd rfl hfence
  · simp only [hgal]
    rfl

/-- A read of TIME_NS answers the counter and latches its fraction (R731). -/
theorem State.readReg_timeNs {s : State} (h : s.Sound q) (off width : Nat) :
    s.readReg .timeNs 0 off width = s.readTimeNs.emit (.readData (halfOf (s.rd .timeNs 0) off width) false) := by
  have hrd : s.readTimeNs.viewWord .timeNs 0 = s.rd .timeNs 0 := State.rd_setF_ne h (by decide) (.inl (by decide))
  have hnone : (RegName.fields .timeNs).any (fun f => f.drained (8 * (off % 8)) (8 * width)) = false := by
    simp [RegName.fields, Tab.timeNs, fieldRow, FieldSpec.drained]
  calc s.readReg .timeNs 0 off width
    _ = (s.readTimeNs.emit (.readData (halfOf (s.readTimeNs.viewWord .timeNs 0) off width) false)).clearRc .timeNs 0 off width := by
      unfold State.readReg
      exact if_neg Bool.false_ne_true
    _ = s.readTimeNs.emit (.readData (halfOf (s.readTimeNs.viewWord .timeNs 0) off width) false) := by
      rw [State.clearRc_eq, hnone, if_neg Bool.false_ne_true]
    _ = s.readTimeNs.emit (.readData (halfOf (s.rd .timeNs 0) off width) false) := by rw [hrd]

theorem natLe_length (k n : Nat) : (natLe k n).length = k := by
  induction k generalizing n with
  | zero => rfl
  | succ k ih => simp [natLe, ih]

/-- An access of a whole register covers all its bytes. -/
theorem halfOf_whole (w : Nat) {off : Nat} (h : off % 8 = 0) : halfOf w off 8 = natLe 8 w := by
  have hlen := natLe_length 8 w
  simp [halfOf, slice, h, hlen, List.take_of_length_le]

/-- What a read of TIME_NS leaves. -/
theorem State.readTimeNs_emit {s : State} (h : s.Sound q) (b : Bytes) :
    ((s.readTimeNs.emit (.readData b false)).answers s b) ∧
      (s.readTimeNs.emit (.readData b false)).getF Fld.timeFrac 0 = s.fracFine % 2 ^ 16 ∧
      State.SameBut [.timeFrac] [.out] s (s.readTimeNs.emit (.readData b false)) := by
  refine ⟨?_, ?_, ?_⟩
  · simp [State.answers, State.readTimeNs]
  · rw [State.emit_getF]
    exact State.getF_setF h (by decide)
  · exact ((State.setF_sameBut h.rise Fld.timeFrac 0 _).mono (by simp [Fld.timeFrac]) (by simp)).trans
      ((State.emit_sameBut _ _).mono (by simp) (by simp))

theorem State.bar0Read_misaligned {s : State} {off width : Nat} (h : (width ≠ 4 ∧ width ≠ 8) ∨ off % width ≠ 0) :
    s.bar0Read off width = (s.bump Fld.hifUrOther 0 1).emit .unsupported := by
  simp [State.bar0Read, accessOk_eq_false h]

/-- A reserved offset reads as zeros (R652). -/
theorem State.bar0Read_reserved {s : State} {off width : Nat} (hup : s.windowUp = true) (htop : off < 0x4000000)
    (hw : width = 4 ∨ width = 8) (ha : off % width = 0) (hnone : findReg (off / 8 * 8) = none) (hbuf : inBuffer off = false)
    (hmsix : inMsix off = false) (hpba : inPba off = false) :
    s.bar0Read off width = s.emit (.readData (List.replicate width 0) false) := by
  have hacc : accessOk off width = true := by simp [accessOk, hw, ha, htop]
  simp [State.bar0Read, hacc, hbuf, hmsix, hpba, State.served_of_windowUp hup, hnone]

/-- A read of TIME_NS, or of half of it, as a command. -/
theorem exec_registerRead_timeNs {s : State} {rid off width : Nat} (hs : s.canonical = true) (hserves : s.serves rid)
    (hw : width = 4 ∨ width = 8) (ha : off % width = 0) (ho : off / 8 * 8 = 0x0280000) :
    exec (.registerRead rid off width) s =
      .next (s.readTimeNs.emit (.readData (halfOf (s.rd .timeNs 0) off width) false)) := by
  rw [exec_registerRead hserves.1, State.bar0Read_register (r := .timeNs) (i := 0) hserves.2 hw ha ho (by decide),
    State.readReg_timeNs (State.sound_of_canonical hs)]

/-- Settles O17: a read answers the word shown; only its RC fields, TIME_FRAC and HIF_UR_OTHER change with it. -/
theorem registerReadAnswersAndClears : Obligations.RegisterReadAnswersAndClears := by
  unfold Obligations.RegisterReadAnswersAndClears
  refine ⟨?_, fun rid s hs hserves => ⟨?_, fun off hoff => ?_⟩, ?_, ?_⟩
  · intro rid off width s r i hs hserves hw ha ho hi hsync hfence htime hgal
    have hrise := State.rise_of_canonical hs
    let u := s.emit (.readData (halfOf (s.viewWord r i) off width) false)
    have hu : keysRise u.regs := hrise
    refine ⟨u.clearRc r i off width, ?_, ?_, ?_, fun j hj hne => State.rd_clearRc_ne _ _ hu hj hne, fun f hf => ?_⟩
    · rw [exec_registerRead hserves.1, State.bar0Read_register hserves.2 hw ha ho hi, State.readReg_plain hsync hfence htime hgal]
    · obtain ⟨-, -, hparts⟩ := State.clearRc_sameBut (r := r) (i := i) off width hu
      exact hparts .out (by simp)
    · exact ((State.emit_sameBut s _).mono (by simp) (by simp)).trans
        ((State.clearRc_sameBut off width hu).mono (by simp) (by simp))
    · rw [State.bitsOf_clearRc off width hu hi hf]
      exact if_congr FieldSpec.drained_iff rfl rfl
  · obtain ⟨hans, hfrac, hsame⟩ := State.readTimeNs_emit (State.sound_of_canonical hs) (natLe 8 (s.rd .timeNs 0))
    refine ⟨_, congrArg Host.Outcome.next (State.regRead_of_serves hserves _), hans, hfrac, hsame, ?_⟩
    rw [exec_registerRead_timeNs hs hserves (.inr rfl) rfl rfl, halfOf_whole _ rfl]
  · obtain ⟨hans, hfrac, hsame⟩ := State.readTimeNs_emit (State.sound_of_canonical hs) (halfOf (s.rd .timeNs 0) off 4)
    exact ⟨_, exec_registerRead_timeNs hs hserves (.inl rfl) (by omega) (by omega), hans, hfrac, hsame⟩
  · intro rid off width s _ hserves htop hw ha hnone hbuf hmsix hpba
    refine ⟨s.emit (.readData (List.replicate width 0) false), ?_, rfl, State.emit_sameBut ..⟩
    rw [exec_registerRead hserves.1, State.bar0Read_reserved hserves.2 htop hw ha hnone hbuf hmsix hpba]
  · intro rid off width s hs hhears hbad
    have hsound := State.sound_of_canonical hs
    refine ⟨(s.bump Fld.hifUrOther 0 1).emit .unsupported, ?_, by simp, ?_, ?_⟩
    · rw [exec_registerRead hhears, State.bar0Read_misaligned hbad]
    · exact ((State.setF_sameBut hsound.rise Fld.hifUrOther 0 _).mono (by simp [Fld.hifUrOther]) (by simp)).trans
        ((State.emit_sameBut _ _).mono (by simp) (by simp))
    · rw [State.emit_getF]
      exact State.getF_bump_one hsound (by decide) rfl

end Sys2Proof.Machine
end

section
/-! SUPPORT. What operations on memory, galleys, ink and the fabric leave alone: the core of each slot, and the begun tickets.
-/

namespace Sys2Proof.Machine

/-- What the memory, the galleys and the ink of a slot leave alone: its forme and the record of its strokes. -/
structure ChaseCore where
  forme : Bytes
  priorIdle : Nat
  joined : List (Nat × Bytes)
  startStroke : Option Nat
  begunCount : Nat
  finished : Bool
  substituting : Bool

@[simp] abbrev ChaseSt.core (x : ChaseSt) : ChaseCore :=
  ⟨x.forme, x.priorIdle, x.joined, x.startStroke, x.begunCount, x.finished, x.substituting⟩

/-- What operations on memory leave alone: the core of each slot, and the begun tickets. -/
def State.core (s : State) : List ChaseCore × List Ticket := (s.chases.map ChaseSt.core, s.host.tickets)

theorem State.core_congr {s t : State} (hc : t.chases = s.chases) (ht : t.host.tickets = s.host.tickets) : t.core = s.core := by
  unfold State.core; rw [hc, ht]

/-- A state built from the chases and the host's side of another has its core. -/
@[simp] theorem State.core_mk (s : State) {pending : List Instr} {freeIdx upNs : Nat} {pw : PowerSt} {regs msix : List (Nat × Word)}
    {msixPend : List Nat} {out : List Out} {hostMem mem : List Host.Cell} {poison : List Nat} {mb : List MbEntry}
    {rcTags : List (Nat × List (Nat × Nat))} {hbm : HbmSt} {samples : List (Nat × SampleSt)} {groups : List (Nat × AccGroup)}
    {openWaits : List OpenWait} {engines : List (Nat × VecEngine)} {stipple : List (Nat × StippleSt)} {marks : List (Nat × MarkRt)}
    {fab : FabSt} {eth : EthSt} {ink : InkSt} {time : TimeSt} {sec : SecSt} {ras : RasSt} :
    (State.mk pending freeIdx upNs pw regs msix msixPend out s.host hostMem mem poison mb rcTags hbm s.chases samples groups openWaits
      engines stipple marks fab eth ink time sec ras).core = s.core := rfl

@[simp] theorem State.core_ite (p : Prop) [Decidable p] (s t : State) :
    (if p then s else t).core = if p then s.core else t.core := apply_ite State.core p s t

theorem State.core_fst {α : Type} {p : State × α} {u : State} {z : α} (h : p = (u, z)) : u.core = p.1.core := by rw [h]
theorem State.core_snd {α : Type} {p : α × State} {u : State} {z : α} (h : p = (z, u)) : u.core = p.2.core := by rw [h]

@[simp] theorem State.foldl_core {α : Type} {f : State → α → State} (hf : ∀ s a, (f s a).core = s.core) (l : List α) (s : State) :
    (l.foldl f s).core = s.core := by
  induction l generalizing s with
  | nil => rfl
  | cons a l ih => exact (ih (f s a)).trans (hf s a)

@[simp] theorem State.foldl_fst_core {α β : Type} {f : State × β → α → State × β} (hf : ∀ p a, (f p a).1.core = p.1.core) (l : List α)
    (p : State × β) : (l.foldl f p).1.core = p.1.core := by
  induction l generalizing p with
  | nil => rfl
  | cons a l ih => exact (ih (f p a)).trans (hf p a)

@[simp] theorem State.updChase_core (s : State) (c : Nat) {f : ChaseSt → ChaseSt} (hf : ∀ x, (f x).core = x.core) :
    (s.updChase c f).core = s.core := by
  refine Prod.ext ?_ rfl
  show (s.chases.set c (f (s.chase c))).map ChaseSt.core = s.chases.map ChaseSt.core
  rw [List.map_set, hf]
  refine List.ext_getElem (by simp) fun i h1 h2 => ?_
  rw [List.getElem_set]
  split
  · subst i
    simp only [List.length_set, List.length_map] at h1
    rw [State.chase, List.getD_eq_getElem _ _ h1, List.getElem_map]
  · rfl

@[simp] theorem State.core_ite_fst {α : Type} (p : Prop) [Decidable p] (a b : State × α) :
    (if p then a else b).1.core = if p then a.1.core else b.1.core := apply_ite (fun x : State × α => x.1.core) p a b

@[simp] theorem State.decideEach_core {α : Type} {f : State → α → State × Bool} (hf : ∀ s a, (f s a).1.core = s.core) (l : List α)
    (p : State × Bool) : (State.decideEach f p l).1.core = p.1.core := by
  induction l generalizing p with
  | nil => rfl
  | cons a l ih =>
    obtain ⟨s, _ | _⟩ := p
    · rfl
    · exact (ih (f s a)).trans (hf s a)

@[simp] theorem pinEach_core {α : Type} {f : Bool → State → α → State × Bool} (hf : ∀ b s a, (f b s a).1.core = s.core) (l : List α)
    (p : State × Bool) : (pinEach f p l).1.core = p.1.core :=
  State.foldl_fst_core (f := fun a x => ((f a.2 a.1 x).1, a.2 && (f a.2 a.1 x).2)) (fun p a => hf p.2 p.1 a) l p

section
variable (s : State)

/-! ### Registers, events and the log -/

@[simp] theorem State.wr_core (r : RegName) (i v : Nat) : (s.wr r i v).core = s.core := by simp [State.wr]

@[simp] theorem State.setF_core (f : Field) (i v : Nat) : (s.setF f i v).core = s.core := by simp [State.setF]

@[simp] theorem State.bump_core (f : Field) (i n : Nat) : (s.bump f i n).core = s.core := by simp [State.bump]

@[simp] theorem State.bumpWrap_core (f : Field) (i n : Nat) : (s.bumpWrap f i n).core = s.core := by simp [State.bumpWrap]

@[simp] theorem State.raiseTo_core (f : Field) (i v : Nat) : (s.raiseTo f i v).core = s.core := by simp [State.raiseTo]

@[simp] theorem State.setFs_core (i : Nat) (l : List (Field × Nat)) : (s.setFs i l).core = s.core := by
  induction l generalizing s with
  | nil => rfl
  | cons a l ih => exact (ih _).trans (State.setF_core ..)

@[simp] theorem State.fresh_core : (s.fresh).2.core = s.core := by simp [State.fresh]

@[simp] theorem State.emit_core (o : Out) : (s.emit o).core = s.core := by simp [State.emit]

@[simp] theorem State.msix1_core (v : Nat) : (s.msix1 v).core = s.core := by simp [State.msix1]

@[simp] theorem State.event_core (f vec : Field) : (s.event f vec).core = s.core := by simp [State.event]

@[simp] theorem State.eventFault_core : s.eventFault.core = s.core := by simp [State.eventFault]

@[simp] theorem State.eventDma_core : s.eventDma.core = s.core := by simp [State.eventDma]

@[simp] theorem State.eventRas_core : s.eventRas.core = s.core := by simp [State.eventRas]

@[simp] theorem State.logRaw_core (e : ErrRec) : (s.logRaw e).core = s.core := by simp [State.logRaw]

@[simp] theorem State.logErr_core (e : ErrRec) : (s.logErr e).core = s.core := by simp [State.logErr]

/-! ### Caches, merging buffers and DRAM -/

@[simp] theorem State.cacheRead_core (line : Nat) : (s.cacheRead line).core = s.core := by
  unfold State.cacheRead
  dsimp only
  split <;> simp

@[simp] theorem State.cacheTouch_core (line : Nat) : (s.cacheTouch line).core = s.core := by
  unfold State.cacheTouch
  dsimp only
  split <;> simp

@[simp] theorem State.mbToDram_core (e : MbEntry) : (s.mbToDram e).core = s.core := by simp [State.mbToDram]

@[simp] theorem State.mbDrainOldest_core (region : Nat) : (s.mbDrainOldest region).core = s.core := by
  unfold State.mbDrainOldest
  split <;> simp

@[simp] theorem State.mbPeak_core (region : Nat) : (s.mbPeak region).core = s.core := by simp [State.mbPeak]

@[simp] theorem State.mbWrite_core (line : Nat) (bs : List (Nat × Byte)) : (s.mbWrite line bs).core = s.core := by
  unfold State.mbWrite
  dsimp only
  (repeat' split) <;> simp

@[simp] theorem State.sliceWrite_core (l : Nat) (bs : Bytes) : (s.sliceWrite l bs).core = s.core := by simp [State.sliceWrite]

@[simp] theorem State.rawWrite_core (l : Nat) (bs : Bytes) : (s.rawWrite l bs).core = s.core := by simp [State.rawWrite]

@[simp] theorem State.poisonRun_core (l n : Nat) : (s.poisonRun l n).core = s.core := by simp [State.poisonRun]

@[simp] theorem State.slicePoison_core (q : Nat) : (s.slicePoison q).core = s.core := by simp [State.slicePoison]

@[simp] theorem State.bufferPass_core (line : Nat) : (s.bufferPass line).core = s.core := by
  unfold State.bufferPass
  split <;> simp

@[simp] theorem State.holdWrite_core (w : HeldWrite) : (s.holdWrite w).core = s.core := by
  unfold State.holdWrite
  split <;> exact State.core_congr rfl rfl

@[simp] theorem State.devWrite_core (l : Nat) (bs : Bytes) : (s.devWrite l bs).core = s.core := by simp [State.devWrite]

@[simp] theorem State.lineWrite_core (l : Nat) (bs : Bytes) : (s.lineWrite l bs).core = s.core := by simp [State.lineWrite]

@[simp] theorem State.devPoison_core (l n : Nat) : (s.devPoison l n).core = s.core := by simp [State.devPoison]

/-! ### The frames of a chase -/

@[simp] theorem State.takeUnit_core (c r : Nat) (layouts : List Nat) : (s.takeUnit c r layouts).2.core = s.core := by
  unfold State.takeUnit
  split <;> simp

@[simp] theorem State.allocIn_core (c need : Nat) (layouts : Nat → List Nat) : (s.allocIn c need layouts).2.core = s.core := by
  unfold State.allocIn
  dsimp only
  split <;> simp

@[simp] theorem State.allocFrame_core (c : Nat) : (s.allocFrame c).2.core = s.core := by simp [State.allocFrame]

@[simp] theorem State.updFrame_core (c f : Nat) (g : FrameEnt → FrameEnt) : (s.updFrame c f g).core = s.core := by
  unfold State.updFrame
  split <;> simp

@[simp] theorem State.zeroPieces_core (ps : List Nat) : (s.zeroPieces ps).core = s.core := by simp [State.zeroPieces]

@[simp] theorem State.fillHoles_core (c f : Nat) (e : FrameEnt) : (s.fillHoles c f e).core = s.core := by simp [State.fillHoles]

@[simp] theorem State.backFrame_core (c a : Nat) : (s.backFrame c a).1.core = s.core := by
  unfold State.backFrame
  split
  · rfl
  · split
    · rfl
    · split
      · rfl
      · split <;> rename_i h <;> simp [State.core_snd h]

@[simp] theorem State.backRun_core (c : Nat) (l : List (Nat × Bytes)) : (s.backRun c l).1.core = s.core := by
  induction l generalizing s with
  | nil => rfl
  | cons p t ih =>
    unfold State.backRun
    split <;> rename_i h
    · simp [ih, State.core_fst h]
    · simp [State.core_fst h]

@[simp] theorem State.settleLost_core (c f : Nat) : (s.settleLost c f).core = s.core := by
  unfold State.settleLost
  split <;> simp

@[simp] theorem State.releaseBands_core : s.releaseBands.core = s.core := by simp [State.releaseBands]

@[simp] theorem State.abandon_core (c : Nat) (p : MigrationEnt → Bool) (back : Bool) : (s.abandon c p back).core = s.core := by
  simp [State.abandon]

@[simp] theorem State.dropStores_core (c : Nat) (p : Store → Bool) : (s.dropStores c p).core = s.core := by simp [State.dropStores]

@[simp] theorem State.noteWrite_core (plate : Bool) (c a n : Nat) : (s.noteWrite plate c a n).core = s.core := by
  simp [State.noteWrite]

@[simp] theorem State.writeBacked_core (plate : Bool) (c : Nat) (ps : List (Nat × Bytes)) :
    (s.writeBacked plate c ps).core = s.core := by
  refine State.foldl_core (fun s p => ?_) ps s
  split
  · refine (State.settleLost_core ..).trans ((State.foldl_core (fun s q => ?_) _ _).trans (State.noteWrite_core ..))
    split <;> simp
  · rfl

@[simp] theorem State.chaseWrite_core (c a : Nat) (bs : Bytes) : (s.chaseWrite c a bs).1.core = s.core := by
  unfold State.chaseWrite
  dsimp only
  split <;> rename_i h <;> simp [State.core_fst h]

@[simp] theorem State.cacheRun_core (c a n : Nat) : (s.cacheRun c a n).core = s.core := by
  refine State.foldl_core (fun s k => ?_) _ s
  split <;> simp

@[simp] theorem State.cacheHa_core (a n : Nat) : (s.cacheHa a n).core = s.core := by simp [State.cacheHa]

@[simp] theorem State.noteReadFrom_core (plate : Bool) (c a n : Nat) : (s.noteReadFrom plate c a n).core = s.core := by
  simp [State.noteReadFrom]

@[simp] theorem State.noteDma_core (c a n : Nat) : (s.noteDma c a n).core = s.core := by simp [State.noteDma]

@[simp] theorem State.chasePoisonRun_core (c a n : Nat) : (s.chasePoisonRun c a n).core = s.core := by
  refine State.foldl_core (fun s k => ?_) _ s
  split <;> simp

@[simp] theorem State.copyLine_core (src dst : Nat) : (s.copyLine src dst).core = s.core := by simp [State.copyLine]

@[simp] theorem State.copyFrame_core (c f : Nat) (e : FrameEnt) (toChip : Bool) : (s.copyFrame c f e toChip).core = s.core := by
  simp [State.copyFrame]

@[simp] theorem State.dropChip_core (c f : Nat) : (s.dropChip c f).core = s.core := by simp [State.dropChip]

@[simp] theorem State.demote_core (c f : Nat) (e : FrameEnt) : (s.demote c f e).core = s.core := by simp [State.demote]

/-! ### Galleys -/

@[simp] theorem State.setGalley_core (c id : Nat) (g : GalleySt) : (s.setGalley c id g).core = s.core := by simp [State.setGalley]

@[simp] theorem State.updGalley_core (c id : Nat) (f : GalleySt → GalleySt) : (s.updGalley c id f).core = s.core := by
  unfold State.updGalley
  split <;> simp

@[simp] theorem State.newGalFrame_core (c i need : Nat) : (s.newGalFrame c i need).1.core = s.core := by
  unfold State.newGalFrame
  split <;> rename_i h <;> simp [State.core_snd h]

@[simp] theorem State.sweepGal_core (c : Nat) : (s.sweepGal c).core = s.core := by simp [State.sweepGal]

@[simp] theorem State.cacheGal_core (c : Nat) (map : List (Nat × Nat)) (i off n : Nat) :
    (s.cacheGal c map i off n).core = s.core := by
  refine State.foldl_core (fun s k => ?_) _ s
  split <;> simp

@[simp] theorem State.noteGal_core (plate write : Bool) (c : Nat) (map : List (Nat × Nat)) (i off n : Nat) :
    (s.noteGal plate write c map i off n).core = s.core := by
  unfold State.noteGal
  split <;> simp

@[simp] theorem State.galWrite_core (plate : Bool) (c : Nat) (map : List (Nat × Nat)) (i off : Nat) (bs : Bytes) :
    (s.galWrite plate c map i off bs).core = s.core := by
  refine (State.foldl_core (fun s p => ?_) _ _).trans (State.noteGal_core ..)
  split <;> simp

@[simp] theorem State.drainGal_core (c : Nat) (map : List (Nat × Nat)) (i : Nat) : (s.drainGal c map i).core = s.core := by
  refine State.foldl_core (fun s k => ?_) _ s
  (repeat' split) <;> simp

@[simp] theorem State.slugWrite_core (c : Nat) (map : List (Nat × Nat)) (p : RowPlace) (r : Nat) (v : Slug) :
    (s.slugWrite c map p r v).core = s.core := by
  unfold State.slugWrite
  simp only [State.core_ite, State.galWrite_core]
  split
  · refine (State.foldl_core (fun s k => ?_) _ _).trans (by simp)
    split <;> simp
  · rfl

@[simp] theorem State.ownMaster_core (c id i : Nat) : (s.ownMaster c id i).core = s.core := by
  unfold State.ownMaster
  split
  · rfl
  · split
    · rfl
    · split <;> rename_i h <;> simp [State.core_fst h]

@[simp] theorem State.ownGuest_core (c id i : Nat) : (s.ownGuest c id i).core = s.core := by
  unfold State.ownGuest
  split
  · rfl
  · split
    · rfl
    · split <;> rename_i h <;> simp [State.core_fst h]

@[simp] theorem State.putGuest_core (c id pos : Nat) (v : Slug) : (s.putGuest c id pos v).core = s.core := by
  unfold State.putGuest
  dsimp only
  (repeat' split) <;> simp

@[simp] theorem State.switchCopies_core (c id : Nat) (g : GalleySt) (v x : GalState) (peers : List GuestCopy) :
    (s.switchCopies c id g v x peers).core = s.core := by
  simp [State.switchCopies]

@[simp] theorem State.commitSwitch_core (c id : Nat) (peers : List GuestCopy) : (s.commitSwitch c id peers).core = s.core := by
  unfold State.commitSwitch
  dsimp only
  (repeat' split) <;> simp

@[simp] theorem State.freeDraining_core (c id : Nat) : (s.freeDraining c id).core = s.core := by simp [State.freeDraining]

@[simp] theorem State.freeAllDraining_core (c : Nat) : (s.freeAllDraining c).core = s.core := by simp [State.freeAllDraining]

/-! ### Links and messages -/

@[simp] theorem State.updLink_core (l : Nat) (f : LinkSt → LinkSt) : (s.updLink l f).core = s.core := by simp [State.updLink]

@[simp] theorem State.updFab_core (f : FabSt → FabSt) : (s.updFab f).core = s.core := by simp [State.updFab]

@[simp] theorem State.putFlit_core (l : Nat) (f : Flit) : (s.putFlit l f).core = s.core := by simp [State.putFlit]

@[simp] theorem State.sendOn_core (l : Nat) (f : Flit) : (s.sendOn l f).core = s.core := by simp [State.sendOn]

@[simp] theorem State.freeBuf_core (l vc : Nat) : (s.freeBuf l vc).core = s.core := by simp [State.freeBuf]

@[simp] theorem State.noteTurn_core (o port vc : Nat) : (s.noteTurn o port vc).core = s.core := by simp [State.noteTurn]

@[simp] theorem State.routeFrom_core (f : Flit) (l vc : Nat) : (s.routeFrom f l vc).core = s.core := by
  unfold State.routeFrom
  split <;> simp

@[simp] theorem State.routeFlit_core (f : Flit) : (s.routeFlit f).core = s.core := by simp [State.routeFlit]

@[simp] theorem State.startMsg_core (m : MsgRec) : (s.startMsg m).core = s.core := by simp [State.startMsg]

@[simp] theorem State.sendMsg_core (m : MsgRec) : (s.sendMsg m).core = s.core := by simp [State.sendMsg]

@[simp] theorem State.sendAck_core (dst chase msg status : Nat) : (s.sendAck dst chase msg status).core = s.core := by
  simp [State.sendAck]

@[simp] theorem State.sendCtl_core (c ordinal sub : Nat) (payload : Bytes) : (s.sendCtl c ordinal sub payload).core = s.core := by
  simp [State.sendCtl]

@[simp] theorem State.sendAll_core (c sub : Nat) (payload : Bytes) : (s.sendAll c sub payload).core = s.core := by
  simp [State.sendAll]

/-! ### Plates and ink -/

@[simp] theorem State.dropGroups_core (c : Nat) : (s.dropGroups c).core = s.core := by simp [State.dropGroups]

@[simp] theorem State.dropPlateWaits_core (c : Nat) : (s.dropPlateWaits c).core = s.core := by simp [State.dropPlateWaits]

@[simp] theorem State.dropInk_core (c : Nat) : (s.dropInk c).core = s.core := by
  unfold State.dropInk
  extract_lets x s1 s2 s3
  refine Eq.trans (b := s3.core) (State.core_congr rfl rfl) ?_
  simp [s3, s2, s1]

@[simp] theorem State.clearSampleDir_core (c : Nat) : (s.clearSampleDir c).core = s.core := by simp [State.clearSampleDir]

@[simp] theorem State.plateStarts_core (c : Nat) : (s.plateStarts c).core = s.core := by simp [State.plateStarts]

@[simp] theorem State.startPlate_core (c : Nat) : (s.startPlate c).core = s.core := by simp [State.startPlate]

@[simp] theorem State.postLedger_core : s.postLedger.core = s.core := by simp [State.postLedger]

@[simp] theorem State.lowerGrant_core (c g : Nat) : (s.lowerGrant c g).core = s.core := by simp [State.lowerGrant]

@[simp] theorem State.revokeExcess_core (f : Option Nat) (c : Nat) : (s.revokeExcess f c).core = s.core := by
  simp [State.revokeExcess]

@[simp] theorem State.revokeAll_core (f : Option Nat) (slots : List Nat) : (s.revokeAll f slots).core = s.core := by
  simp [State.revokeAll]

@[simp] theorem State.proportion_core : s.proportion.core = s.core := by simp [State.proportion]

@[simp] theorem State.proportionUntil_core (n : Nat) (s : State) : (s.proportionUntil n).core = s.core := by
  induction n generalizing s with
  | zero => rfl
  | succ n ih =>
    unfold State.proportionUntil
    simp [ih]

@[simp] theorem State.fitLedger_core : s.fitLedger.core = s.core := by simp [State.fitLedger]

@[simp] theorem State.grantInk_core (c : Nat) : (s.grantInk c).core = s.core := by
  unfold State.grantInk
  extract_lets r l q m s0 i1 s1 s2 a share f s3 room firm x s4 i5 s5
  have h1 : s1.core = s.core := Eq.trans (b := s0.core) (State.core_congr rfl rfl) (by simp [s0])
  have h2 : s2.core = s.core := (State.setFs_core ..).trans h1
  split
  · rw [State.postLedger_core, State.revokeAll_core, State.setFs_core, h2]
  · have h4 : s4.core = s.core := (State.setFs_core ..).trans ((State.revokeAll_core ..).trans h2)
    have h5 : s5.core = s.core := Eq.trans (b := s4.core) (State.core_congr rfl rfl) h4
    rw [State.postLedger_core, State.core_ite, State.bump_core, h5, ite_self]

@[simp] theorem State.returnLoan_core (c : Nat) : (s.returnLoan c).core = s.core := by simp [State.returnLoan]

/-! ### Transfers, marks and acknowledgements -/

@[simp] theorem State.xfersEnd_core : s.xfersEnd.core = s.core := by
  unfold State.xfersEnd
  split
  · rfl
  · refine State.foldl_core (fun s q => ?_) _ s
    rw [State.poisonRun_core]
    split <;> simp

@[simp] theorem State.xfersStop_core (l : List HbmXfer) : (s.xfersStop l).core = s.core := by simp [State.xfersStop]

@[simp] theorem State.updMark_core (n : Nat) (f : MarkRt → MarkRt) : (s.updMark n f).core = s.core := by simp [State.updMark]

@[simp] theorem State.wakePlate_core (c : Nat) : (s.wakePlate c).core = s.core := by simp [State.wakePlate]

@[simp] theorem State.assignMarks_core (c : Nat) (plan : List (MarkEnt × Option Nat)) : (s.assignMarks c plan).core = s.core := by
  refine State.foldl_core (fun s e => ?_) _ s
  split <;> simp

@[simp] theorem State.markDone_core (src msg : Nat) : (s.markDone src msg).core = s.core := by simp [State.markDone]

@[simp] theorem State.finishMsg_core (f : Flit) (status : Nat) : (s.finishMsg f status).core = s.core := by simp [State.finishMsg]

@[simp] theorem State.ackCtl_core (c sub ordinal : Nat) : (s.ackCtl c sub ordinal).core = s.core := by
  unfold State.ackCtl
  split <;> simp

/-! ### Reliability -/

@[simp] theorem State.logCorrected_core (code level whereW action : Nat) (slot : Option Nat) :
    (s.logCorrected code level whereW action slot).core = s.core := by
  unfold State.logCorrected
  dsimp only
  split <;> simp

@[simp] theorem State.logUnit_core (code sev level whereW action : Nat) (slot : Option Nat) (detail : Nat) :
    (s.logUnit code sev level whereW action slot detail).core = s.core := by
  unfold State.logUnit
  split <;> simp

@[simp] theorem State.savePoint_core (c : Nat) : (s.savePoint c).core = s.core := by simp [State.savePoint]

@[simp] theorem State.dropStipple_core (c : Nat) : (s.dropStipple c).core = s.core := by simp [State.dropStipple]

@[simp] theorem State.spareIn_core (level p b c : Nat) (slot : Option Nat) : (s.spareIn level p b c slot).core = s.core := by
  simp [State.spareIn]

@[simp] theorem State.evacuateFrame_core (c f : Nat) (e : FrameEnt) : (s.evacuateFrame c f e).core = s.core := by
  simp [State.evacuateFrame]

@[simp] theorem State.evacuate_core (q : Subst) : (s.evacuate q).core = s.core := by simp [State.evacuate]

@[simp] theorem State.carryWays_core (k p q : Nat) : (s.carryWays k p q).core = s.core := by simp [State.carryWays]

@[simp] theorem State.commitSubst_core (q : Subst) : (s.commitSubst q).core = s.core := by
  unfold State.commitSubst
  dsimp only
  (repeat' split) <;> simp

@[simp] theorem State.commitSubsts_core (ps : List Nat) : (s.commitSubsts ps).core = s.core := by simp [State.commitSubsts]

/-! ### Imposition -/

@[simp] theorem State.enterSlug_core (c : Nat) (e : SlugEnt) : (s.enterSlug c e).core = s.core := by
  unfold State.enterSlug
  dsimp only
  (repeat' split) <;> simp

@[simp] theorem State.enterSlugs_core (c : Nat) : (s.enterSlugs c).core = s.core := by simp [State.enterSlugs]

@[simp] theorem State.updateHeat_core (c : Nat) : (s.updateHeat c).core = s.core := by simp [State.updateHeat]

@[simp] theorem State.clearSources_core (c : Nat) : (s.clearSources c).core = s.core := by simp [State.clearSources]

@[simp] theorem State.dropNever_core (c : Nat) : (s.dropNever c).core = s.core := by simp [State.dropNever]

@[simp] theorem State.takeCtrl_core (c : Nat) : (s.takeCtrl c).core = s.core := by simp [State.takeCtrl]

@[simp] theorem State.charge_core (c cost : Nat) : (s.charge c cost).1.core = s.core := by
  unfold State.charge
  dsimp only
  split <;> simp

@[simp] theorem State.spend_core (c : Nat) (ms : List MigrationEnt) : (s.spend c ms).1.core = s.core := by
  unfold State.spend
  split <;> rename_i h
  · simp [State.core_fst h]
  · rfl

@[simp] theorem State.bring_core (c : Nat) (t : Store) (n : Nat) (heat : Option Nat) (copy : Bool) (mk : Store → MigrationEnt) :
    (s.bring c t n heat copy mk).1.core = s.core := by
  unfold State.bring
  (repeat' split) <;> simp

@[simp] theorem State.promote_core (c f : Nat) (e : FrameEnt) (heat : Option Nat) (t : Store) :
    (s.promote c f e heat t).1.core = s.core := by
  unfold State.promote
  split <;> simp

@[simp] theorem State.moveDie_core (c f : Nat) (layout : Nat) : (s.moveDie c f layout).1.core = s.core := by
  unfold State.moveDie
  dsimp only
  split <;> rename_i h
  · simp [State.core_snd h]
  · split <;> rename_i h'
    · simp [State.core_fst h', State.core_snd h]
    · simp [State.core_snd h]

@[simp] theorem State.pinFlag_core (c f : Nat) (b : Bool) : (s.pinFlag c f b).core = s.core := by simp [State.pinFlag]

@[simp] theorem State.pinShort_core (c : Nat) : (s.pinShort c).core = s.core := by simp [State.pinShort]

@[simp] theorem State.pinFrame_core (on : Bool) (c f : Nat) (h : HintRange) : (s.pinFrame on c f h).1.core = s.core := by
  unfold State.pinFrame
  dsimp only
  (repeat' split) <;> simp

@[simp] theorem State.bringPinned_core (c galley i n : Nat) (t : Store) : (s.bringPinned c galley i n t).1.core = s.core := by
  unfold State.bringPinned
  dsimp only
  split <;> simp

@[simp] theorem State.pinRow_core (on : Bool) (c galley num i : Nat) : (s.pinRow on c galley num i).1.core = s.core := by
  unfold State.pinRow
  dsimp only
  (repeat' split) <;> simp

@[simp] theorem State.liftPins_core (c : Nat) : (s.liftPins c).core = s.core := by simp [State.liftPins]

@[simp] theorem State.pinAll_core (on : Bool) (c : Nat) : (s.pinAll on c).1.core = s.core := by
  unfold State.pinAll
  refine (pinEach_core (fun b s e => ?_) _ _).trans ((pinEach_core (fun b s e => ?_) _ _).trans (State.liftPins_core ..))
  · split <;> simp
  · split <;> simp

@[simp] theorem State.placeHub_core (c hop f : Nat) : (s.placeHub c hop f).1.core = s.core := by
  unfold State.placeHub
  dsimp only
  (repeat' split) <;> simp

@[simp] theorem State.planPlaced_core (c : Nat) (key : List Nat) (n : Nat) : (s.planPlaced c key n).core = s.core := by
  simp [State.planPlaced]

@[simp] theorem State.placeSegs_core (c : Nat) (key : List Nat) (l : List Nat) (l1 : List ((Nat × Nat × Nat) × Nat)) :
    (s.placeSegs c key l l1).1.core = s.core := by
  induction l1 generalizing s l with
  | nil => rfl
  | cons g t ih =>
    unfold State.placeSegs
    (repeat' split) <;> simp [ih]

@[simp] theorem State.placePlan_core (c : Nat) (p : SplitPlan) : (s.placePlan c p).1.core = s.core := by simp [State.placePlan]

@[simp] theorem State.nearMove_core (c key : Nat) (f : FrameEnt) : (s.nearMove c key f).1.core = s.core := by
  unfold State.nearMove
  (repeat' split) <;> simp

@[simp] theorem State.homeMove_core (c : Nat) (e : Candidate) (f : FrameEnt) (t : Store) :
    (s.homeMove c e f t).1.core = s.core := by
  unfold State.homeMove
  dsimp only
  split <;> simp

@[simp] theorem State.copyTo_core (c : Nat) (e : Candidate) (f : FrameEnt) (s : State) (k : Nat) :
    (State.copyTo c e f s k).1.core = s.core := by
  simp [State.copyTo]

@[simp] theorem State.copyAll_core (c : Nat) (e : Candidate) (f : FrameEnt) : (s.copyAll c e f).1.core = s.core := by
  unfold State.copyAll
  rw [State.decideEach_core fun s k => State.copyTo_core c e f s k]

@[simp] theorem State.copyMoves_core (c : Nat) (e : Candidate) (f : FrameEnt) : (s.copyMoves c e f).1.core = s.core := by
  unfold State.copyMoves
  dsimp only
  split <;> simp

@[simp] theorem State.decideFrame_core (c : Nat) (e : Candidate) : (s.decideFrame c e).1.core = s.core := by
  unfold State.decideFrame
  (repeat' split) <;> simp

@[simp] theorem State.decideSlug_core (c g : Nat) (e : Candidate) : (s.decideSlug c g e).1.core = s.core := by
  unfold State.decideSlug
  dsimp only
  split
  · rfl
  · split
    · split <;> simp
    · exact State.decideEach_core (fun s k => State.bring_core ..) _ _

@[simp] theorem State.decideOne_core (c : Nat) (e : Candidate) : (s.decideOne c e).1.core = s.core := by
  unfold State.decideOne
  (repeat' split) <;> simp

@[simp] theorem State.decideMoves_core (c : Nat) : (s.decideMoves c).core = s.core := by
  unfold State.decideMoves
  extract_lets on a b
  exact (State.decideEach_core (fun s e => State.decideOne_core ..) _ _).trans
    ((State.decideEach_core (fun s p => State.placePlan_core ..) _ _).trans (State.pinAll_core ..))

@[simp] theorem State.moveFrame_core (c f : Nat) (e n : FrameEnt) (how : Nat) (whole : Bool) :
    (s.moveFrame c f e n how whole).core = s.core := by
  simp [State.moveFrame]

@[simp] theorem State.commitCopy_core (c : Nat) (m : MigrationEnt) : (s.commitCopy c m).core = s.core := by
  unfold State.commitCopy
  dsimp only
  (repeat' split) <;> simp

@[simp] theorem State.commitFrame_core (c : Nat) (m : MigrationEnt) (e : FrameEnt) : (s.commitFrame c m e).core = s.core := by
  simp [State.commitFrame]

@[simp] theorem State.commitMove_core (c : Nat) (m : MigrationEnt) : (s.commitMove c m).core = s.core := by
  unfold State.commitMove
  dsimp only
  (repeat' split) <;> simp

@[simp] theorem State.commitEach_core (c : Nat) (rest : List MigrationEnt) (l : List MigrationEnt) :
    (s.commitEach c rest l).core = s.core := by
  induction l generalizing s with
  | nil => rfl
  | cons m t ih =>
    unfold State.commitEach
    simp [ih]

@[simp] theorem State.commitMoves_core (c left : Nat) : (s.commitMoves c left).core = s.core := by simp [State.commitMoves]

@[simp] theorem State.notePoisoned_core (c how : Nat) : (s.notePoisoned c how).core = s.core := by simp [State.notePoisoned]

@[simp] theorem State.restorePart_core (c : Nat) (map : List (Nat × Nat)) (r i k : Nat) (v : Slug) :
    (s.restorePart c map r i k v).core = s.core := by
  simp [State.restorePart]

@[simp] theorem State.restoreRows_core (c : Nat) (parts : List (RowPart × Option Slug)) :
    (s.restoreRows c parts).core = s.core := by
  refine State.foldl_core (fun s e => ?_) _ s
  split <;> simp

@[simp] theorem State.rehomeTo_core (c f : Nat) (e : FrameEnt) (peers : List GuestCopy) (l : Option FrameEnt) :
    (s.rehomeTo c f e peers l).1.core = s.core := by
  unfold State.rehomeTo
  split <;> simp

@[simp] theorem State.rehomeFrame_core (c f : Nat) (e : FrameEnt) (peers : List GuestCopy) :
    (s.rehomeFrame c f e peers).1.core = s.core := by
  simp [State.rehomeFrame]

@[simp] theorem State.rehomeAll_core (c : Nat) (peers : List GuestCopy) : (s.rehomeAll c peers).core = s.core := by
  simp [State.rehomeAll]

@[simp] theorem State.impose_core (c left : Nat) (peers : List GuestCopy) : (s.impose c left peers).core = s.core := by
  simp [State.impose]

@[simp] theorem State.trimGuests_core (c : Nat) : (s.trimGuests c).core = s.core := by simp [State.trimGuests]

@[simp] theorem State.reserveGuests_core (c : Nat) : (s.reserveGuests c).core = s.core := by simp [State.reserveGuests]

@[simp] theorem State.takeGuest_core (c : Nat) (e : GuestCopy) : (s.takeGuest c e).core = s.core := by simp [State.takeGuest]

@[simp] theorem State.takeGuests_core (c : Nat) : (s.takeGuests c).core = s.core := by simp [State.takeGuests]

/-! ### Ways -/

@[simp] theorem State.keepWays_core (k lo hi : Nat) : (s.keepWays k lo hi).core = s.core := by simp [State.keepWays]

@[simp] theorem State.dropScratch_core (c k b : Nat) : (s.dropScratch c k b).core = s.core := by simp [State.dropScratch]

@[simp] theorem State.fitEngine_core (c k : Nat) : (s.fitEngine c k).core = s.core := by simp [State.fitEngine]

@[simp] theorem State.applyWays_core (p : Nat) (all : Bool) : (s.applyWays p all).core = s.core := by
  unfold State.applyWays
  dsimp only
  (repeat' split) <;> simp

/-! ### The host and the tickets -/

@[simp] theorem State.blockedAccess_core (page : Nat) : (s.blockedAccess page).core = s.core := by simp [State.blockedAccess]

@[simp] theorem State.noteHostLines_core (a n : Nat) : (s.noteHostLines a n).core = s.core := State.core_congr rfl rfl

@[simp] theorem State.hostGet_core (a n : Nat) : (s.hostGet a n).1.core = s.core := by
  unfold State.hostGet
  (repeat' split) <;> simp

@[simp] theorem State.hostPutPieces_core (l : List (Nat × Bytes)) : (s.hostPutPieces l).1.core = s.core := by
  induction l generalizing s with
  | nil => rfl
  | cons p t ih =>
    unfold State.hostPutPieces
    split <;> simp [ih]

@[simp] theorem State.hostPut_core (a : Nat) (bs : Bytes) : (s.hostPut a bs).1.core = s.core := State.hostPutPieces_core ..

@[simp] theorem State.srcRead_core (t : Ticket) (space a n : Nat) : (s.srcRead t space a n).1.core = s.core := by
  unfold State.srcRead
  dsimp only
  (repeat' split) <;> simp

@[simp] theorem State.ticketWrite_core (c : Nat) (l : List (Nat × Bytes)) : (s.ticketWrite c l).1.core = s.core := by
  induction l generalizing s with
  | nil => rfl
  | cons p t ih =>
    unfold State.ticketWrite
    split <;> rename_i h <;> simp [ih, State.core_fst h]

@[simp] theorem State.drainResult_core (t : Ticket) : (s.drainResult t).core = s.core := by simp [State.drainResult]

/-! ### Switches -/

@[simp] theorem State.noteSwitch_core (c ordinal id num : Nat) : (s.noteSwitch c ordinal id num).core = s.core := by
  simp [State.noteSwitch]

@[simp] theorem State.tellRoot_core (c id num : Nat) : (s.tellRoot c id num).core = s.core := by simp [State.tellRoot]

@[simp] theorem State.offerSwitch_core (c id : Nat) : (s.offerSwitch c id).core = s.core := by
  unfold State.offerSwitch
  (repeat' split) <;> simp

/-! ### A new forme -/

@[simp] theorem State.copyPart_core (c : Nat) (map : List (Nat × Nat)) (src : Nat × Nat) (n : Nat) (dst : FrameEnt) (off : Nat) :
    (s.copyPart c map src n dst off).core = s.core := by
  simp [State.copyPart]

@[simp] theorem State.relayFrame_core (c r : Nat) (back : Nat → Option Nat) (x : GalState) (done : List (GalState × GalState))
    (i : Nat) :
    (s.relayFrame c r back x done i).1.core = s.core := by
  unfold State.relayFrame
  dsimp only
  split
  · rfl
  · split <;> rename_i h
    · simp [State.core_fst h]
    · split <;> simp [State.core_fst h]

@[simp] theorem State.relayState_core (c r rows : Nat) (back : Nat → Option Nat) (x : GalState) (done : List
    (GalState × GalState)) :
    (s.relayState c r rows back x done).1.core = s.core := by
  simp [State.relayState]

@[simp] theorem State.relayMaster_core (c id n rows : Nat) (back : Nat → Option Nat) (old : List (Nat × Nat)) :
    (s.relayMaster c id n rows back old).core = s.core := by
  refine State.foldl_core (fun s k => ?_) _ s
  split
  · refine State.foldl_core (fun s j => ?_) _ s
    dsimp only
    (repeat' split) <;> simp
  · rfl

@[simp] theorem State.keepGalley_core (c : Nat) (old : GalleySt) (d : Bytes) (m o m' o' : Nat) :
    (s.keepGalley c old d m o m' o').core = s.core := by
  simp [State.keepGalley]

@[simp] theorem State.mergeGalleys_core (c : Nat) (old : List (Nat × GalleySt)) (f : Bytes) (m o m' o' : Nat) :
    (s.mergeGalleys c old f m o m' o').core = s.core := by
  unfold State.mergeGalleys
  refine (State.sweepGal_core ..).trans ((State.foldl_core (fun s d => ?_) _ _).trans (State.updChase_core _ _ fun _ => rfl))
  split
  · simp
  · simp

@[simp] theorem State.leaveRegions_core (c mask : Nat) : (s.leaveRegions c mask).core = s.core := by simp [State.leaveRegions]

/-! ### Samples -/

@[simp] theorem State.sdWrite_core (c k off : Nat) (bs : Bytes) : (s.sdWrite c k off bs).core = s.core := by simp [State.sdWrite]

@[simp] theorem State.updSample_core (k : Nat) (f : SampleSt → SampleSt) : (s.updSample k f).core = s.core := by
  unfold State.updSample
  split <;> simp

@[simp] theorem State.freeSample_core (k c : Nat) : (s.freeSample k c).core = s.core := by simp [State.freeSample]

/-! ### Commits of a lock-up -/

@[simp] theorem State.switchCommits_core (c : Nat) (peers : List GuestCopy) : (s.switchCommits c peers).core = s.core := by
  refine (State.foldl_core (fun s id => by simp) _ _).trans (State.foldl_core (fun s id => ?_) _ _)
  split
  · simp
  · rfl

@[simp] theorem State.wayCommits_core (c left : Nat) : (s.wayCommits c left).core = s.core := by simp [State.wayCommits]

end

end Sys2Proof.Machine
end

section
/-! SUPPORT. What the proofs about chases share: reading through a frame, the record of a slot, the tickets that an operation
completes. -/

namespace Sys2Proof.Machine

variable {q : List Instr}

/-! ### Reading through a frame -/

/-- The mask of every register and part but these. -/
def maskBut (rs : List RegName) (ps : List Part) : Nat := 2 ^ 179 - 1 - (regsMask rs ||| partsMask ps)

theorem State.getF_of_frame {M : Nat} {s t : State} (h : State.Frame M s t) {f : Field} {i : Nat} (hi : i < f.reg.info.count)
    (hM : M.testBit f.reg.ctorIdx = false) : t.getF f i = s.getF f i :=
  State.getF_of_rd (h.regs _ hM _ hi)

theorem State.Frame.trans {M : Nat} {a b c : State} (h1 : State.Frame M a b) (h2 : State.Frame M b c) : State.Frame M a c :=
  ⟨h2.queue.trans h1.queue, h2.rise, fun n hn i hi => (h2.regs n hn i hi).trans (h1.regs n hn i hi),
    fun p hp => samePart_trans (h1.parts p hp) (h2.parts p hp)⟩

/-! ### Fields that are set together -/

/-- None of these fields overlaps a field, and each is well laid out. -/
def clearOf (g : Field) (l : List (Field × Nat)) : Bool :=
  l.all fun e => decide (e.1.lo ≤ e.1.hi + 1 ∧ e.1.hi < 64) && decide (g.reg ≠ e.1.reg ∨ g.hi < e.1.lo ∨ e.1.hi < g.lo)

theorem State.getF_setFs_of_clear {s : State} {g : Field} {i j : Nat} {l : List (Field × Nat)} (h : s.Sound q) (hg : j < g.reg.info.count)
    (hl : clearOf g l = true) : (s.setFs i l).getF g j = s.getF g j := by
  induction l generalizing s with
  | nil => rfl
  | cons e l ih =>
    rw [clearOf, List.all_cons, Bool.and_eq_true, Bool.and_eq_true, decide_eq_true_eq, decide_eq_true_eq] at hl
    obtain ⟨⟨hlaid, hapart⟩, hl⟩ := hl
    exact (ih (State.setF_sound h) hl).trans (State.getF_setF_apart h hlaid hg (by tauto))

/-- A field reads as it was set, where no field set after it overlaps it. -/
theorem State.getF_setFs {s : State} {f : Field} {i v : Nat} {l : List (Field × Nat)} (h : s.Sound q) (hf : f.ok i)
    (pre post : List (Field × Nat)) (hl : l = pre ++ (f, v) :: post) (hpost : clearOf f post = true) :
    (s.setFs i l).getF f i = v % 2 ^ (f.hi + 1 - f.lo) := by
  subst hl
  induction pre generalizing s with
  | nil => exact (State.getF_setFs_of_clear (State.setF_sound h) hf.2.2 hpost).trans (State.getF_setF h hf)
  | cons e pre ih => exact ih (State.setF_sound h)

/-! ### Slots -/

theorem State.chase_updChase {s : State} {c : Nat} (h : s.Sound q) (hc : c < 16) (f : ChaseSt → ChaseSt) :
    (s.updChase c f).chase c = f (s.chase c) := by
  simp [State.updChase, State.setChase, State.chase, h.slots, hc]

theorem State.chase_congr {s t : State} (h : t.chases = s.chases) (c : Nat) : t.chase c = s.chase c := by
  unfold State.chase; rw [h]

theorem State.chase_core {s t : State} (h : t.core = s.core) (c : Nat) : (t.chase c).core = (s.chase c).core := by
  have hmap (u : State) : (u.chase c).core = u.core.1.getD c ChaseSt.empty.core := (List.getD_map _ _ ChaseSt.core).symm
  rw [hmap, hmap, h]

theorem State.forme_core {s t : State} (h : t.core = s.core) (c : Nat) : (t.chase c).forme = (s.chase c).forme :=
  congrArg ChaseCore.forme (State.chase_core h c)
theorem State.priorIdle_core {s t : State} (h : t.core = s.core) (c : Nat) : (t.chase c).priorIdle = (s.chase c).priorIdle :=
  congrArg ChaseCore.priorIdle (State.chase_core h c)
theorem State.joined_core {s t : State} (h : t.core = s.core) (c : Nat) : (t.chase c).joined = (s.chase c).joined :=
  congrArg ChaseCore.joined (State.chase_core h c)
theorem State.startStroke_core {s t : State} (h : t.core = s.core) (c : Nat) : (t.chase c).startStroke = (s.chase c).startStroke :=
  congrArg ChaseCore.startStroke (State.chase_core h c)
theorem State.substituting_core {s t : State} (h : t.core = s.core) (c : Nat) : (t.chase c).substituting = (s.chase c).substituting :=
  congrArg ChaseCore.substituting (State.chase_core h c)

/-! ### Tickets -/

theorem State.tickets_core {s t : State} (h : t.core = s.core) : t.host.tickets = s.host.tickets := congrArg Prod.snd h

theorem State.ticket?_congr {s t : State} (h : t.host.tickets = s.host.tickets) (ring seq : Nat) :
    t.ticket? ring seq = s.ticket? ring seq := by
  unfold State.ticket?; rw [h]

@[simp] theorem State.outcome_ring (s : State) (st : Nat) (d : Bytes) (x : Ticket) : (s.outcome st d x).ring = x.ring := by
  unfold State.outcome; split <;> rfl
@[simp] theorem State.outcome_seq (s : State) (st : Nat) (d : Bytes) (x : Ticket) : (s.outcome st d x).seq = x.seq := by
  unfold State.outcome; split <;> rfl

theorem State.outcome_of_done (s : State) (st : Nat) (d : Bytes) {x : Ticket} (h : x.done = true) : s.outcome st d x = x := if_pos h

theorem State.ticket?_finishWhere (s : State) (p : Ticket → Bool) (st : Nat) (d : Bytes) (ring seq : Nat) :
    (s.finishWhere p st d).ticket? ring seq = (s.ticket? ring seq).map fun x => if p x then s.outcome st d x else x := by
  unfold State.ticket? State.finishWhere
  rw [List.find?_map]
  congr 2
  funext x
  simp only [Function.comp]
  split <;> simp

theorem State.ticketEnds_congr {s t : State} (h : t.host.tickets = s.host.tickets) {ring seq st : Nat} {d : Bytes} :
    t.ticketEnds ring seq st d ↔ s.ticketEnds ring seq st d := by
  unfold State.ticketEnds; rw [State.ticket?_congr h]

theorem State.ticketEnds_finishWhere {s : State} {p : Ticket → Bool} {ring seq st : Nat} {d : Bytes} {x : Ticket}
    (h : s.ticket? ring seq = some x) (hx : x.done = false) (hp : p x = true) :
    (s.finishWhere p st d).ticketEnds ring seq st d := by
  refine ⟨s.outcome st d x, ?_, ?_⟩
  · rw [State.ticket?_finishWhere, h, Option.map_some, if_pos hp]
  · simp [State.outcome, hx]

/-- What completes tickets leaves those that have completed. -/
theorem State.ticketEnds.finishWhere {s : State} {ring seq st : Nat} {d : Bytes} (h : s.ticketEnds ring seq st d)
    (p : Ticket → Bool) (st' : Nat) (d' : Bytes) : (s.finishWhere p st' d').ticketEnds ring seq st d := by
  obtain ⟨x, hx, hdone, hst⟩ := h
  refine ⟨x, ?_, hdone, hst⟩
  rw [State.ticket?_finishWhere, hx, Option.map_some, State.outcome_of_done s st' d' hdone, ite_self]

theorem State.ticketEnds_done {s : State} {ring seq st : Nat} {d : Bytes} {x y : Ticket} (h : s.ticket? ring seq = some x)
    (hx : x.done = false) (hy : y.ring = ring ∧ y.seq = seq) : (s.done y st d).ticketEnds ring seq st d := by
  unfold State.done
  rw [hy.1, hy.2]
  exact ⟨_, State.ticket?_finishTicket h hx, rfl, rfl, rfl⟩

theorem State.ticketEnds.freeSamples {s : State} {ring seq st : Nat} {d : Bytes} (h : s.ticketEnds ring seq st d) (c : Nat) :
    (s.freeSamples c).ticketEnds ring seq st d := h.finishWhere _ _ _

/-- The acted CHASE_START tickets of a slot report a start that fails (R88, R96, R99). -/
theorem State.ticketEnds_failStart {s : State} {ring seq : Nat} {x : Ticket} {c code ty off v : Nat} (h : s.ticket? ring seq = some x)
    (hact : x.acted = true) (hx : x.done = false) (hop : tkOpcode x.raw = 0x02) (hslot : tkSlot x.raw = c) :
    (s.failStart c code ty off v).ticketEnds ring seq stChase (dForme code ty off) := by
  unfold State.failStart
  extract_lets s1 s2
  have hends : (s1.endStart c stChase (dForme code ty off)).ticketEnds ring seq stChase (dForme code ty off) :=
    State.ticketEnds_finishWhere (x := x) ((State.ticket?_congr (by simp [s1, State.noteErr]) ..).trans h) hx
      (by simp [hop, hslot, hact, tkChaseStart])
  have h2 : s2.ticketEnds ring seq stChase (dForme code ty off) :=
    (State.ticketEnds_congr (State.tickets_core (State.freeAllDraining_core ..))).2 hends
  split
  · exact ((State.ticketEnds_congr (State.tickets_core (State.clearSampleDir_core ..))).2 h2).freeSamples c
  · exact h2

theorem State.endsTickets_congr {s u t : State} (h : u.host.tickets = s.host.tickets) {c op st : Nat} {d : Bytes}
    (ht : t.endsTickets u c op st d) : t.endsTickets s c op st d := by
  intro ring seq x hx
  rw [← State.ticket?_congr h] at hx
  exact ht ring seq x hx

theorem State.endsTickets_failStart (s : State) (c code ty off v : Nat) :
    (s.failStart c code ty off v).endsTickets s c 0x02 stChase (dForme code ty off) :=
  fun _ _ _ hx hact hdone hop hslot => State.ticketEnds_failStart hx hact hdone hop hslot

end Sys2Proof.Machine
end

section
/-! SUPPORT. Starts: what one that fails leaves, when members agree, and when the root fixes the start stroke (R96 to R100). -/

namespace Sys2Proof.Machine

variable {q : List Instr}

/-! ### Starts (R96 to R100) -/

/-- A start that fails leaves its slot in the state named. -/
theorem State.failStart_cs {s : State} {c code ty off v : Nat} (h : s.Sound q) (hc : c < 16) (hv : v < 16) :
    (s.failStart c code ty off v).cs c = v := by
  have hnote : (s.noteErr c code ty).Sound q := State.noteErr_sound h
  have hset : ((s.noteErr c code ty).setF Fld.sysChaseState c v).cs c = v := by
    rw [State.cs, State.getF_setF hnote ⟨by decide, by decide, hc⟩]
    exact Nat.mod_eq_of_lt hv
  have hframe : State.Frame (maskBut [.sysChaseStatus] []) ((s.noteErr c code ty).setF Fld.sysChaseState c v)
      (s.failStart c code ty off v) := by
    unfold State.failStart
    extract_lets s1 s2
    have h2 : State.Frame (maskBut [.sysChaseStatus] []) ((s.noteErr c code ty).setF Fld.sysChaseState c v) s2 :=
      State.freeAllDraining_frame (State.endStart_frame (State.updChase_frame (State.setF_sound hnote).frame rfl) rfl) rfl
    split
    · exact State.freeSamples_frame (State.clearSampleDir_frame h2 rfl) rfl
    · exact h2
  exact (State.getF_of_frame hframe hc rfl).trans hset

theorem State.checkJoin_of_idle {s : State} {c : Nat} (h : s.cs c ≠ csJoining) : s.checkJoin c = s := by
  unfold State.checkJoin
  rw [if_neg (by simpa using h)]

theorem State.checkJoin_of_mismatch {s : State} {c : Nat} (h : s.cs c = csJoining) (hm : s.mismatch c = true) :
    s.checkJoin c = s.failStart c vePeerMismatch 0 0 (s.chase c).priorIdle := by
  unfold State.checkJoin
  rw [if_pos (by simpa using h), if_pos hm]

theorem State.checkJoin_of_match {s : State} {c : Nat} (h : s.cs c = csJoining) (hm : s.mismatch c = false) :
    s.checkJoin c = s.fixStart c := by
  unfold State.checkJoin
  rw [if_pos (by simpa using h), if_neg (by simp [hm])]

theorem State.mismatch_iff {s : State} {c : Nat} :
    s.mismatch c = true ↔ ∃ j ∈ (s.chase c).joined, j.2 ≠ fhHeaderDigest (s.forme c) := by
  simp [State.mismatch]

theorem State.mismatch_eq_false {s : State} {c : Nat} :
    s.mismatch c = false ↔ ∀ j ∈ (s.chase c).joined, j.2 = fhHeaderDigest (s.forme c) := by
  simp [State.mismatch]

theorem State.allJoined_iff {s : State} {c : Nat} :
    s.allJoined c = true ↔ ∀ k, k < s.members c → ∃ j ∈ (s.chase c).joined, j.1 = k := by
  simp [State.allJoined]

/-- The root fixes the start stroke exactly when it has every join and none is fixed. -/
theorem State.fixStart_startStroke {s : State} {c : Nat} (h : s.Sound q) (hc : c < 16) (hj : s.cs c = csJoining)
    (hn : (s.chase c).startStroke = none) :
    ((s.fixStart c).chase c).startStroke.isSome = true ↔ s.ordinal c = 0 ∧ s.allJoined c = true := by
  unfold State.fixStart
  split
  · rename_i hcond
    simp only [Bool.and_eq_true, beq_iff_eq] at hcond
    obtain ⟨⟨⟨-, hroot⟩, hall⟩, -⟩ := hcond
    extract_lets at0 e n s1
    have hs1 : (s1.chase c).startStroke = some n := by
      rw [State.chase_updChase (State.setF_sound h) hc]
    exact ⟨fun _ => ⟨hroot, hall⟩, fun _ => by rw [State.startStroke_core (State.sendAll_core ..), hs1]; rfl⟩
  · rename_i hcond
    refine ⟨fun hs => by simp [hn] at hs, fun ⟨h1, h2⟩ => (hcond ?_).elim⟩
    simp [hj, h1, h2, hn]

theorem State.fixStart_cs {s : State} {c : Nat} (h : s.Sound q) (hc : c < 16) : (s.fixStart c).cs c = s.cs c :=
  State.getF_of_frame (State.fixStart_frame (M := maskBut [.sysChaseStatus] []) h.frame rfl) hc rfl

theorem mem_kvPut_self {α : Type} (l : List (Nat × α)) (k : Nat) (v : α) : (k, v) ∈ kvPut l k v := by
  induction l with
  | nil => simp [kvPut]
  | cons a t ih =>
    simp only [kvPut]
    split
    · simp
    · split <;> simp [ih]

theorem mem_kvPut_of_mem {α : Type} {l : List (Nat × α)} {k : Nat} {v : α} {e : Nat × α} (h : e ∈ l) (hne : e.1 ≠ k) :
    e ∈ kvPut l k v := by
  induction l with
  | nil => cases h
  | cons a t ih =>
    simp only [kvPut]
    split
    · exact List.mem_cons_of_mem _ h
    · rcases List.mem_cons.1 h with rfl | ht
      · rw [if_neg (Ne.symm hne)]
        exact List.mem_cons_self ..
      · split
        · exact List.mem_cons_of_mem _ ht
        · exact List.mem_cons_of_mem _ (ih ht)

/-- The keys of a list after a put. -/
theorem exists_key_kvPut {α : Type} {l : List (Nat × α)} {k : Nat} {v : α} {n : Nat} :
    (∃ e ∈ kvPut l k v, e.1 = n) ↔ n = k ∨ ∃ e ∈ l, e.1 = n := by
  constructor
  · rintro ⟨e, he, rfl⟩
    rcases mem_kvPut he with rfl | he
    · exact .inl rfl
    · exact .inr ⟨e, he, rfl⟩
  · rintro (rfl | ⟨e, he, rfl⟩)
    · exact ⟨_, mem_kvPut_self l n v, rfl⟩
    · by_cases hk : e.1 = k
      · exact ⟨_, mem_kvPut_self l k v, hk.symm⟩
      · exact ⟨e, mem_kvPut_of_mem he hk, rfl⟩

/-- Every entry of a list after a put has a property that the value put has and every entry had. -/
theorem forall_kvPut {α : Type} {l : List (Nat × α)} {k : Nat} {v : α} {P : α → Prop} (hv : P v) (h : ∀ e ∈ l, P e.2) :
    ∀ e ∈ kvPut l k v, P e.2 := by
  intro e he
  rcases mem_kvPut he with rfl | he
  · exact hv
  · exact h e he

/-! ### What stays -/

theorem State.SameBut.rd {rs : List RegName} {ps : List Part} {s t : State} (h : State.SameBut rs ps s t) {r : RegName} {i : Nat}
    (hi : i < r.info.count) (hr : r ∉ rs) : t.rd r i = s.rd r i := h.2.1 r hr i hi

theorem State.SameBut.getF {rs : List RegName} {ps : List Part} {s t : State} (h : State.SameBut rs ps s t) {f : Field} {i : Nat}
    (hi : i < f.reg.info.count) (hr : f.reg ∉ rs) : t.getF f i = s.getF f i := State.getF_of_rd (h.rd hi hr)

theorem State.SameBut.part {rs : List RegName} {ps : List Part} {s t : State} (h : State.SameBut rs ps s t) {p : Part} (hp : p ∉ ps) :
    samePart p s t := h.2.2 p hp

theorem State.ackCtl_sameBut {s : State} (h : keysRise s.regs) (c sub i : Nat) :
    State.SameBut [.hlkRtStatus] [.out, .fab] s (s.ackCtl c sub i) :=
  (State.ackCtl_frame (State.Frame.refl h) (Nat.or_self _)).sameBut (by rfl)

theorem State.sendAll_sameBut {s : State} (h : keysRise s.regs) (c sub : Nat) (b : Bytes) :
    State.SameBut [.hlkRtStatus] [.out, .fab] s (s.sendAll c sub b) :=
  (State.sendAll_frame (State.Frame.refl h) (Nat.or_self _)).sameBut (by rfl)

theorem State.ordinal_congr {s t : State} {c : Nat} (hf : t.forme c = s.forme c) (hn : t.nodeId = s.nodeId) :
    t.ordinal c = s.ordinal c := by
  unfold State.ordinal
  rw [hf, hn]

theorem State.members_congr {s t : State} {c : Nat} (hf : t.forme c = s.forme c) : t.members c = s.members c := by
  unfold State.members; rw [hf]

theorem State.ifB_true {s : State} {b : Bool} (h : b = true) (f : State → State) : s.ifB b f = f s := if_pos h

end Sys2Proof.Machine
end

section
/-! SUPPORT. Chases that halt, stop or fault, and what the passing of time leaves (R93, R131, R132, R742). -/

namespace Sys2Proof.Machine

variable {q : List Instr}

theorem State.ifB_false {s : State} {b : Bool} (h : b = false) (f : State → State) : s.ifB b f = s := if_neg (by simp [h])

/-! ### What the record of a chase keeps -/

theorem State.updChase_map {α : Type} (s : State) (c : Nat) {f : ChaseSt → ChaseSt} {p : ChaseSt → α}
    (hf : p (f (s.chase c)) = p (s.chase c)) : (s.updChase c f).chases.map p = s.chases.map p := by
  show (s.chases.set c (f (s.chase c))).map p = s.chases.map p
  rw [List.map_set, hf]
  refine List.ext_getElem (by simp) fun i h1 h2 => ?_
  rw [List.getElem_set]
  split
  · subst i
    simp only [List.length_set, List.length_map] at h1
    rw [State.chase, List.getD_eq_getElem _ _ h1, List.getElem_map]
  · rfl

theorem State.chase_map {α : Type} {s t : State} (p : ChaseSt → α) (h : t.chases.map p = s.chases.map p) (c : Nat) :
    p (t.chase c) = p (s.chase c) := by
  have hmap (u : State) : p (u.chase c) = (u.chases.map p).getD c (p ChaseSt.empty) := (List.getD_map _ _ p).symm
  rw [hmap, hmap, h]

@[simp] theorem State.haltChase_core (s : State) (c : Nat) : (s.haltChase c).core = s.core := by
  simp [State.haltChase]

/-! ### Time -/

/-- What a step of the counter leaves of a chase (R742): of a verdict that is held, the stroke that it names. -/
structure ChaseTimeless where
  forme : Bytes
  begunCount : Nat
  inDist : Bool
  substituting : Bool
  goStroke : Option Nat

abbrev ChaseSt.timeless (x : ChaseSt) : ChaseTimeless := ⟨x.forme, x.begunCount, x.inDist, x.substituting, x.verdict.map Prod.fst⟩

theorem State.adoptStep_timeless (s : State) (c : Nat) : (s.adoptStep c).chases.map ChaseSt.timeless = s.chases.map ChaseSt.timeless := by
  unfold State.adoptStep
  split
  · rfl
  · extract_lets x b past moved s1
    have h1 : s1.chases.map ChaseSt.timeless = s.chases.map ChaseSt.timeless :=
      State.updChase_map _ _ (by simp [ChaseSt.timeless, Function.comp_def])
    split
    · rfl
    · split
      · exact h1
      · simpa using h1

/-- What every adopting of a step keeps, adopting them all keeps. -/
theorem State.adoptSteps_induct {P : State → Prop} {s : State} (h : P s) (hstep : ∀ u k, P u → P (u.adoptStep k)) :
    P s.adoptSteps := by
  unfold State.adoptSteps
  split
  · exact List.foldlRecOn (List.range 16) State.adoptStep h fun u hu k _ => hstep u k hu
  · exact h

/-- Time passes with the counter alone, and then the chases adopt their steps. -/
theorem State.passTo_counts {s : State} (h : s.Sound q) (t : Nat) : ∃ u : State, s.passTo t = u.adoptSteps ∧ u.chases = s.chases ∧
    u.Sound q ∧ ∀ c, c < 16 → u.rd .stkStatus c = s.rd .stkStatus c := by
  refine ⟨_, rfl, ?_⟩
  split
  · have hmb : s.mbEnds.Sound q := State.mbEnds_sound h
    have hup : State.Sound q { s.mbEnds with upNs := s.upNs + (t - s.now) } := State.Sound.rest hmb rfl
    have hframe : State.Frame (maskBut [.stkStatus] []) s s.mbEnds := State.mbEnds_frame h.frame rfl
    refine ⟨by simp [State.setCtr, State.mbEnds, apply_ite State.chases], State.setCtr_sound hup, fun c hc => ?_⟩
    calc _ = State.rd { s.mbEnds with upNs := s.upNs + (t - s.now) } .stkStatus c :=
          (State.setCtr_frame (M := maskBut [.stkStatus] []) hup.frame rfl).regs .stkStatus rfl c hc
      _ = s.mbEnds.rd .stkStatus c := State.rd_congr rfl
      _ = s.rd .stkStatus c := hframe.regs .stkStatus rfl c hc
  · exact ⟨rfl, h, fun _ _ => rfl⟩

theorem State.passTo_timeless {s : State} (h : s.Sound q) (t : Nat) :
    (s.passTo t).chases.map ChaseSt.timeless = s.chases.map ChaseSt.timeless := by
  obtain ⟨u, hu, hchases, -⟩ := State.passTo_counts h t
  rw [hu, ← hchases]
  exact State.adoptSteps_induct (P := fun v => v.chases.map ChaseSt.timeless = u.chases.map ChaseSt.timeless) rfl fun v k hv =>
    (v.adoptStep_timeless k).trans hv

/-! ### What a chase that stops or faults leaves (R93, R131, R132) -/

section Ends
variable {s : State} {c : Nat} (h : s.Sound q) (hc : c < 16)
include h hc

theorem State.haltChase_getF {f : Field} (hf : f.reg = .stkStatus ∨ f.reg = .sysChaseStatus)
    (hclear : clearOf f [(Fld.stkPhase, 0), (Fld.stkSlipping, 0)] = true) : (s.haltChase c).getF f c = s.getF f c := by
  have hi : c < f.reg.info.count := by rcases hf with hf | hf <;> rw [hf] <;> exact hc
  have hframe : State.Frame (maskBut [.stkStatus, .sysChaseStatus] []) (s.setFs c [(Fld.stkPhase, 0), (Fld.stkSlipping, 0)])
      (s.haltChase c) :=
    State.updChase_frame (State.freeAllDraining_frame (State.dropInk_frame (State.dropGroups_frame (State.dropPlateWaits_frame
      (State.setFs_sound h).frame rfl) rfl) rfl) rfl) rfl
  exact (State.getF_of_frame hframe hi (by rcases hf with hf | hf <;> rw [hf] <;> rfl)).trans (State.getF_setFs_of_clear h hi hclear)

theorem State.haltChase_cs : (s.haltChase c).cs c = s.cs c := State.haltChase_getF h hc (.inr rfl) rfl

theorem State.haltChase_fault : (s.haltChase c).getF Fld.stkFault c = s.getF Fld.stkFault c :=
  State.haltChase_getF h hc (.inl rfl) rfl

theorem State.stopped_cs : (s.stopped c).cs c = csLoaded := by
  have hset : (s.setFs c [(Fld.sysChaseState, csLoaded), (Fld.stkParked, 0)]).Sound q := State.setFs_sound h
  have hframe : State.Frame (maskBut [.sysChaseStatus] [])
      ((s.setFs c [(Fld.sysChaseState, csLoaded), (Fld.stkParked, 0)]).haltChase c) (s.stopped c) :=
    State.finishWhere_frame (State.updChase_frame (State.haltChase_sound hset).frame rfl) rfl
  calc (s.stopped c).cs c = ((s.setFs c [(Fld.sysChaseState, csLoaded), (Fld.stkParked, 0)]).haltChase c).cs c :=
        State.getF_of_frame hframe hc rfl
    _ = (s.setFs c [(Fld.sysChaseState, csLoaded), (Fld.stkParked, 0)]).cs c := State.haltChase_cs hset hc
    _ = csLoaded := State.getF_setFs h ⟨by decide, by decide, hc⟩ [] _ rfl rfl

theorem State.stopped_chase : ((s.stopped c).chase c).stopAt = none ∧ ((s.stopped c).chase c).verdict = none := by
  have hs : ((s.setFs c [(Fld.sysChaseState, csLoaded), (Fld.stkParked, 0)]).haltChase c).Sound q :=
    State.haltChase_sound (State.setFs_sound h)
  unfold State.stopped
  extract_lets s1 s2
  have hchase : s2.chase c = { s1.chase c with verdict := none, dones := [], stopAt := none } := State.chase_updChase hs hc _
  show (s2.chase c).stopAt = none ∧ (s2.chase c).verdict = none
  rw [hchase]
  exact ⟨rfl, rfl⟩

omit hc in
/-- What a fault sets: the state and the code of a chase that was active stand until the end. -/
theorem State.faultLocal_frame_halted (hact : s.csActive c = true) (code : Nat) :
    State.Frame (maskBut [.sysChaseStatus, .stkStatus] [])
      ((s.setFs c [(Fld.sysChaseState, csFaulted), (Fld.stkFault, code)]).haltChase c) (s.faultLocal c code) := by
  unfold State.faultLocal
  rw [if_pos hact]
  exact State.eventFault_frame (State.freeSamples_frame (State.clearSampleDir_frame (State.finishWhere_frame (State.updChase_frame
    (State.haltChase_sound (State.setFs_sound h)).frame rfl) rfl) rfl) rfl) rfl

theorem State.faultLocal_cs (hact : s.csActive c = true) (code : Nat) : (s.faultLocal c code).cs c = csFaulted :=
  calc (s.faultLocal c code).cs c = ((s.setFs c [(Fld.sysChaseState, csFaulted), (Fld.stkFault, code)]).haltChase c).cs c :=
        State.getF_of_frame (State.faultLocal_frame_halted h hact code) hc rfl
    _ = (s.setFs c [(Fld.sysChaseState, csFaulted), (Fld.stkFault, code)]).cs c := State.haltChase_cs (State.setFs_sound h) hc
    _ = csFaulted := State.getF_setFs h ⟨by decide, by decide, hc⟩ [] _ rfl rfl

theorem State.faultLocal_fault (hact : s.csActive c = true) {code : Nat} (hcode : code < 2 ^ 8) :
    (s.faultLocal c code).getF Fld.stkFault c = code :=
  calc (s.faultLocal c code).getF Fld.stkFault c
      = ((s.setFs c [(Fld.sysChaseState, csFaulted), (Fld.stkFault, code)]).haltChase c).getF Fld.stkFault c :=
        State.getF_of_frame (State.faultLocal_frame_halted h hact code) hc rfl
    _ = (s.setFs c [(Fld.sysChaseState, csFaulted), (Fld.stkFault, code)]).getF Fld.stkFault c :=
        State.haltChase_fault (State.setFs_sound h) hc
    _ = code % 2 ^ 8 := State.getF_setFs h ⟨by decide, by decide, hc⟩ [_] [] rfl rfl
    _ = code := Nat.mod_eq_of_lt hcode

end Ends

/-- An event of a fault stands in HIF_EVT_STATUS. -/
theorem State.eventFault_flag {s : State} (h : s.Sound q) : s.eventFault.flag Fld.hifEvFault 0 = true := by
  have hset : (s.setF Fld.hifEvFault 0 1).getF Fld.hifEvFault 0 = 1 := State.getF_setF h ⟨by decide, by decide, by decide⟩
  have hframe : State.Frame (maskBut [.hifEvtStatus] []) (s.setF Fld.hifEvFault 0 1) s.eventFault :=
    State.msix1_frame (State.setF_sound h).frame rfl
  have hev : s.eventFault.getF Fld.hifEvFault 0 = 1 := (State.getF_of_frame hframe (by decide) rfl).trans hset
  simp [State.flag, hev]

theorem State.faultLocal_event {s : State} {c : Nat} (h : s.Sound q) (hact : s.csActive c = true) (code : Nat) :
    (s.faultLocal c code).flag Fld.hifEvFault 0 = true := by
  unfold State.faultLocal
  rw [if_pos hact]
  exact State.eventFault_flag (State.freeSamples_sound (State.clearSampleDir_sound (State.finishWhere_sound (State.updChase_sound
    (State.haltChase_sound (State.setFs_sound h))))))

/-- The acted CHASE_STOP tickets of a chase that stops report the stroke it stops at (R102, R132). -/
theorem State.endsTickets_stopped (s : State) (c : Nat) :
    (s.stopped c).endsTickets s c 0x03 stOk (dValue ((s.chase c).stopAt.getD 0) 0) := by
  intro ring seq x hx hact hdone hop hslot
  unfold State.stopped
  extract_lets s1 s2
  have htickets : s1.host.tickets = s.host.tickets := State.tickets_core (by simp [s1])
  exact State.ticketEnds_finishWhere (s := s2) (x := x) ((State.ticket?_congr htickets ..).trans hx) hdone
    (by simp [hop, hslot, hact, tkChaseStop])

end Sys2Proof.Machine
end

section
/-! PROOF. Members of a chase tell each other: joins, starts, stops, faults, switches and summaries (R98 to R102, R131, R132,
R151, R328). -/

namespace Sys2Proof.Machine

variable {q : List Instr}

/-! ### JOIN -/

/-- The slot after another member's digest is noted (R98). -/
def State.joinNoted (s : State) (c i : Nat) (digest : Bytes) (latency : Nat) : State :=
  ((s.ackCtl c ctlJoin i).addJoin c i (slice digest 0 32)).raiseTo Fld.stkAnnounce c (satNat (ceilDiv latency 64) 65535)

theorem exec_join {s : State} {c i latency : Nat} {d : Bytes} (hready : s.isReady = true) (htakes : s.takesMsgs c = true)
    (hi : i < s.members c) (hne : i ≠ s.ordinal c) :
    exec (.join c i d latency) s = .next ((s.joinNoted c i d latency).checkJoin c) :=
  congrArg Host.Outcome.next (State.ifB_true (by simp [hready, htakes, hi, hne]) _)

section Noted
variable {s : State} {c i latency : Nat} {d : Bytes} (h : s.Sound q)
include h

theorem State.joinNoted_sound : (s.joinNoted c i d latency).Sound q :=
  State.raiseTo_sound (State.updChase_sound (State.ackCtl_sound h))

theorem State.joinNoted_sameBut :
    State.SameBut [.hlkRtStatus, .stkStatus] [.out, .fab, .chases] s (s.joinNoted c i d latency) :=
  (State.raiseTo_frame (State.updChase_frame (State.ackCtl_frame h.frame rfl) rfl) rfl).sameBut
    (M := regsMask [.hlkRtStatus, .stkStatus] ||| partsMask [.out, .fab, .chases]) (by rfl)

theorem State.joinNoted_chase (hc : c < 16) : (s.joinNoted c i d latency).chase c =
    { s.chase c with joined := kvPut (s.chase c).joined i (slice d 0 32), joinedAt := s.now } := by
  have hack := State.ackCtl_sameBut h.rise c ctlJoin i
  have hchase : (s.ackCtl c ctlJoin i).chase c = s.chase c := State.chase_congr (hack.part (p := .chases) (by simp)) c
  have hnow : (s.ackCtl c ctlJoin i).now = s.now := hack.rd (by decide) (by simp)
  have hraise : (s.joinNoted c i d latency).chase c = ((s.ackCtl c ctlJoin i).addJoin c i (slice d 0 32)).chase c :=
    State.chase_congr (by simp [State.joinNoted]) c
  rw [hraise, State.addJoin, State.chase_updChase (State.ackCtl_sound h) hc, hchase, hnow]

theorem State.joinNoted_cs (hc : c < 16) : (s.joinNoted c i d latency).cs c = s.cs c :=
  (State.joinNoted_sameBut h).getF hc (by simp [Fld.sysChaseState])

theorem State.joinNoted_forme (hc : c < 16) : (s.joinNoted c i d latency).forme c = s.forme c := by
  rw [State.forme, State.joinNoted_chase h hc]; rfl

theorem State.joinNoted_ordinal (hc : c < 16) : (s.joinNoted c i d latency).ordinal c = s.ordinal c :=
  State.ordinal_congr (State.joinNoted_forme h hc) ((State.joinNoted_sameBut h).getF (by decide) (by simp [Fld.hlkNdId]))

theorem State.joinNoted_allJoined (hc : c < 16) : (s.joinNoted c i d latency).allJoined c = true ↔
    ∀ k, k < s.members c → k = i ∨ ∃ j ∈ (s.chase c).joined, j.1 = k := by
  rw [State.allJoined_iff, State.members_congr (State.joinNoted_forme h hc), State.joinNoted_chase h hc]
  simp only [exists_key_kvPut]

end Noted

/-- JOIN into a slot that is not starting: the join is noted. -/
theorem join_idle {s : State} {c i latency : Nat} {d : Bytes} (h : s.Sound q) (hready : s.isReady = true) (hc : c < 16)
    (hi : i < s.members c) (hne : i ≠ s.ordinal c) (hcs : s.cs c = csLoaded ∨ s.csStriking c = true) :
    ∃ t, exec (.join c i d latency) s = .next t ∧ (t.chase c).joined = kvPut (s.chase c).joined i (slice d 0 32) ∧
      (t.chase c).joinedAt = s.now ∧ t.cs c = s.cs c := by
  have htakes : s.takesMsgs c = true := by
    simp only [State.csStriking, Bool.or_eq_true, beq_iff_eq] at hcs
    simp only [State.takesMsgs, State.csActive, Bool.or_eq_true, beq_iff_eq]
    tauto
  have hidle : (s.joinNoted c i d latency).cs c ≠ csJoining := by
    rw [State.joinNoted_cs h hc]
    simp only [State.csStriking, Bool.or_eq_true, beq_iff_eq, csLoaded, csRunning, csStopping] at hcs
    simp only [csJoining]
    omega
  refine ⟨_, exec_join hready htakes hi hne, ?_⟩
  rw [State.checkJoin_of_idle hidle, State.joinNoted_chase h hc]
  exact ⟨rfl, rfl, State.joinNoted_cs h hc⟩

theorem State.takesMsgs_of_joining {s : State} {c : Nat} (h : s.cs c = csJoining) : s.takesMsgs c = true := by
  simp [State.takesMsgs, State.csActive, h]

/-- JOIN with another digest ends a start in its former state (R99). -/
theorem join_mismatch {s : State} {c i latency : Nat} {d : Bytes} (h : s.Sound q) (hready : s.isReady = true) (hc : c < 16)
    (hi : i < s.members c) (hne : i ≠ s.ordinal c) (hcs : s.cs c = csJoining) (hd : slice d 0 32 ≠ fhHeaderDigest (s.forme c))
    (hprior : (s.chase c).priorIdle = csLoaded ∨ (s.chase c).priorIdle = csFaulted) :
    ∃ t, exec (.join c i d latency) s = .next t ∧ t.cs c = (s.chase c).priorIdle ∧
      t.endsTickets s c 0x02 stChase (dForme vePeerMismatch 0 0) := by
  have hchase := State.joinNoted_chase (i := i) (latency := latency) (d := d) h hc
  have hm : (s.joinNoted c i d latency).mismatch c = true := by
    rw [State.mismatch_iff, State.joinNoted_forme h hc, hchase]
    exact ⟨_, mem_kvPut_self .., hd⟩
  have hformer : ((s.joinNoted c i d latency).chase c).priorIdle = (s.chase c).priorIdle := by rw [hchase]
  refine ⟨_, exec_join hready (State.takesMsgs_of_joining hcs) hi hne, ?_⟩
  rw [State.checkJoin_of_mismatch ((State.joinNoted_cs h hc).trans hcs) hm, hformer]
  refine ⟨State.failStart_cs (State.joinNoted_sound h) hc ?_, ?_⟩
  · rcases hprior with hp | hp <;> rw [hp] <;> decide
  · refine State.endsTickets_congr (u := s.joinNoted c i d latency) ?_ (State.endsTickets_failStart _ c _ _ _ _)
    exact congrArg HostSt.tickets ((State.joinNoted_sameBut h).part (p := .host) (by simp))

/-- JOIN with the forme's digest: the last one lets the root fix the start stroke (R100). -/
theorem join_match {s : State} {c i latency : Nat} {d : Bytes} (h : s.Sound q) (hready : s.isReady = true) (hc : c < 16)
    (hi : i < s.members c) (hne : i ≠ s.ordinal c) (hcs : s.cs c = csJoining) (hd : slice d 0 32 = fhHeaderDigest (s.forme c))
    (hall : ∀ j ∈ (s.chase c).joined, j.2 = fhHeaderDigest (s.forme c)) (hstart : (s.chase c).startStroke = none) :
    ∃ t, exec (.join c i d latency) s = .next t ∧ t.cs c = csJoining ∧ ((t.chase c).startStroke.isSome = true ↔
      s.ordinal c = 0 ∧ ∀ k, k < s.members c → k = i ∨ ∃ j ∈ (s.chase c).joined, j.1 = k) := by
  have hchase := State.joinNoted_chase (i := i) (latency := latency) (d := d) h hc
  have hu := State.joinNoted_sound (c := c) (i := i) (latency := latency) (d := d) h
  have hcsu := (State.joinNoted_cs (i := i) (latency := latency) (d := d) h hc).trans hcs
  have hm : (s.joinNoted c i d latency).mismatch c = false := by
    rw [State.mismatch_eq_false, State.joinNoted_forme h hc, hchase]
    exact forall_kvPut (P := (· = _)) hd hall
  refine ⟨_, exec_join hready (State.takesMsgs_of_joining hcs) hi hne, ?_⟩
  rw [State.checkJoin_of_match hcsu hm, ← State.joinNoted_allJoined h hc, ← State.joinNoted_ordinal h hc]
  exact ⟨(State.fixStart_cs hu hc).trans hcsu, State.fixStart_startStroke hu hc hcsu (by rw [hchase]; exact hstart)⟩

/-! ### JOIN_TIMEOUT and START -/

/-- JOIN_TIMEOUT ends a start in its former state (R99). -/
theorem joinTimeout_ends {s : State} {c : Nat} (h : s.Sound q) (hready : s.isReady = true) (hc : c < 16) (hcs : s.cs c = csJoining)
    (hstart : (s.chase c).startStroke = none) (hall : s.allJoined c = false)
    (hprior : (s.chase c).priorIdle = csLoaded ∨ (s.chase c).priorIdle = csFaulted) :
    ∃ t, exec (.joinTimeout c) s = .next t ∧ t.cs c = (s.chase c).priorIdle ∧
      t.endsTickets s c 0x02 stChase (dForme vePeerTimeout 0 0) := by
  have hhost : (s.passTo (s.chase c).joinBy).host = s.host :=
    (State.passTo_frame (M := maskBut [] [.host]) h.frame rfl).parts .host rfl
  refine ⟨(s.passTo (s.chase c).joinBy).failStart c vePeerTimeout 0 0 (s.chase c).priorIdle,
    congrArg Host.Outcome.next (State.ifB_true (by simp [hready, hcs, hstart, hall]) _), ?_, ?_⟩
  · refine State.failStart_cs (State.passTo_sound h) hc ?_
    rcases hprior with hp | hp <;> rw [hp] <;> decide
  · exact State.endsTickets_congr (congrArg HostSt.tickets hhost) (State.endsTickets_failStart _ c _ _ _ _)

/-- START: a member takes the start stroke, the epoch and L (R100). -/
theorem start_announced {s : State} {c n e l : Nat} (h : s.Sound q) (hready : s.isReady = true) (hc : c < 16) (hcs : s.cs c = csJoining)
    (hmember : s.ordinal c ≠ 0) (he : e < 2 ^ 64) (hl : l < 2 ^ 16) :
    ∃ t, exec (.start c n e l) s = .next t ∧ (t.chase c).startStroke = some n ∧ t.getF Fld.stkEpoch c = e ∧
      t.getF Fld.stkAnnounce c = l ∧ t.cs c = csJoining := by
  have hack : (s.ackCtl c ctlStart 0).Sound q := State.ackCtl_sound h
  refine ⟨_, congrArg Host.Outcome.next (State.ifB_true (by simp [hready, hcs, hmember]) _), ?_, ?_, ?_, ?_⟩
  · rw [State.chase_updChase (State.setFs_sound hack) hc]
  · rw [State.updChase_getF]
    exact (State.getF_setFs hack ⟨by decide, by decide, hc⟩ [] _ rfl rfl).trans (Nat.mod_eq_of_lt he)
  · rw [State.updChase_getF]
    exact (State.getF_setFs hack ⟨by decide, by decide, hc⟩ [_] _ rfl rfl).trans (Nat.mod_eq_of_lt hl)
  · rw [State.cs, State.updChase_getF]
    calc ((s.ackCtl c ctlStart 0).setFs c [(Fld.stkEpoch, e), (Fld.stkAnnounce, l)]).cs c = (s.ackCtl c ctlStart 0).cs c :=
          State.getF_setFs_of_clear hack hc rfl
      _ = s.cs c := (State.ackCtl_sameBut h.rise c ctlStart 0).getF hc (by simp [Fld.sysChaseState])
      _ = csJoining := hcs

/-! ### STOP -/

/-- The slot once a stop stroke is known: the lowest applies (R102). -/
def State.stopNoted (s : State) (c n : Nat) : State :=
  (s.setF Fld.sysChaseState c csStopping).updChase c fun x => { x with
    stopAt := some (match x.stopAt with | some m => min m n | none => n) }

theorem State.stopNoted_sound {s : State} {c n : Nat} (h : s.Sound q) : (s.stopNoted c n).Sound q :=
  State.updChase_sound (State.setF_sound h)

theorem State.stopNoted_cs {s : State} {c n : Nat} (h : s.Sound q) (hc : c < 16) : (s.stopNoted c n).cs c = csStopping :=
  State.getF_setF h ⟨by decide, by decide, hc⟩

theorem State.stopNoted_chase {s : State} {c n : Nat} (h : s.Sound q) (hc : c < 16) :
    (s.stopNoted c n).chase c = { s.chase c with stopAt := some (min n ((s.chase c).stopAt.getD n)) } := by
  have hset : (s.setF Fld.sysChaseState c csStopping).chase c = s.chase c := State.chase_congr (State.setF_chases ..) c
  rw [State.stopNoted, State.chase_updChase (State.setF_sound h) hc, hset]
  congr 2
  cases (s.chase c).stopAt with
  | none => exact (Nat.min_self n).symm
  | some m => exact Nat.min_comm m n

/-- Without a GO for the stop stroke or a later one, the chase goes on to its stop stroke. -/
theorem State.setStop_of_later {s : State} {c n : Nat} (h : s.Sound q) (hc : c < 16)
    (hgo : ∀ m b, (s.chase c).verdict = some (m, b) → m < min n ((s.chase c).stopAt.getD n)) : s.setStop c n = s.stopNoted c n := by
  have hchase := State.stopNoted_chase (n := n) h hc
  unfold State.setStop
  extract_lets s1
  have hs1 : s1 = s.stopNoted c n := rfl
  rw [hs1, hchase]
  cases hv : (s.chase c).verdict with
  | none => simp
  | some v =>
    obtain ⟨m, b⟩ := v
    simp [Nat.not_le.2 (hgo m b hv)]

/-- With a GO for the stop stroke or a later one, the chase stops at once. -/
theorem State.setStop_of_go {s : State} {c n m b : Nat} (h : s.Sound q) (hc : c < 16) (hv : (s.chase c).verdict = some (m, b))
    (hgo : min n ((s.chase c).stopAt.getD n) ≤ m) : s.setStop c n = (s.stopNoted c n).stopped c := by
  have hchase := State.stopNoted_chase (n := n) h hc
  unfold State.setStop
  extract_lets s1
  have hs1 : s1 = s.stopNoted c n := rfl
  rw [hs1, hchase]
  simp [hv, hgo]

/-- What a stop leaves of a chase that no GO lets stop at once. -/
theorem State.setStop_stopping {s : State} {c n : Nat} (h : s.Sound q) (hc : c < 16)
    (hgo : ∀ m b, (s.chase c).verdict = some (m, b) → m < min n ((s.chase c).stopAt.getD n)) :
    (s.setStop c n).cs c = csStopping ∧ ((s.setStop c n).chase c).stopAt = some (min n ((s.chase c).stopAt.getD n)) := by
  rw [State.setStop_of_later h hc hgo, State.stopNoted_chase h hc]
  exact ⟨State.stopNoted_cs h hc, rfl⟩

/-- What a stop leaves of a chase that a held GO lets stop at once (R132). -/
theorem State.setStop_loaded {s : State} {c n m b : Nat} (h : s.Sound q) (hc : c < 16) (hv : (s.chase c).verdict = some (m, b))
    (hgo : min n ((s.chase c).stopAt.getD n) ≤ m) :
    (s.setStop c n).cs c = csLoaded ∧ ((s.setStop c n).chase c).stopAt = none ∧ ((s.setStop c n).chase c).verdict = none ∧
      (s.setStop c n).endsTickets s c 0x03 stOk (dValue (min n ((s.chase c).stopAt.getD n)) 0) := by
  have hu := State.stopNoted_sound (c := c) (n := n) h
  obtain ⟨hstop, hverdict⟩ := State.stopped_chase hu hc
  rw [State.setStop_of_go h hc hv hgo]
  refine ⟨State.stopped_cs hu hc, hstop, hverdict, ?_⟩
  have hends := State.endsTickets_stopped (s.stopNoted c n) c
  rw [State.stopNoted_chase h hc] at hends
  exact State.endsTickets_congr (by simp [State.stopNoted]) hends

section Stop
variable {s : State} {c i n : Nat} (h : s.Sound q) (hready : s.isReady = true) (hc : c < 16) (hi : i < s.members c)
  (hcs : s.csStriking c = true)

include hready hi hcs in
theorem exec_stop : exec (.stop c i n) s = .next ((s.ackCtl c ctlStop i).setStop c n) :=
  congrArg Host.Outcome.next (State.ifB_true (by simp [hready, hi, hcs]) _)

include h in
theorem State.ackCtl_chase (sub : Nat) : (s.ackCtl c sub i).chase c = s.chase c :=
  State.chase_congr ((State.ackCtl_sameBut h.rise c sub i).part (p := .chases) (by simp)) c

include h hready hc hi hcs

theorem stop_stopping (hgo : ∀ m b, (s.chase c).verdict = some (m, b) → m < min n ((s.chase c).stopAt.getD n)) :
    ∃ t, exec (.stop c i n) s = .next t ∧ t.cs c = csStopping ∧ (t.chase c).stopAt = some (min n ((s.chase c).stopAt.getD n)) := by
  have hchase := State.ackCtl_chase (c := c) (i := i) h ctlStop
  have hends := State.setStop_stopping (n := n) (State.ackCtl_sound (c := c) (sub := ctlStop) (ordinal := i) h) hc
    (by rw [hchase]; exact hgo)
  rw [hchase] at hends
  exact ⟨_, exec_stop hready hi hcs, hends⟩

theorem stop_loaded {m b : Nat} (hv : (s.chase c).verdict = some (m, b)) (hgo : min n ((s.chase c).stopAt.getD n) ≤ m) :
    ∃ t, exec (.stop c i n) s = .next t ∧ t.cs c = csLoaded ∧ (t.chase c).stopAt = none ∧ (t.chase c).verdict = none ∧
      t.endsTickets s c 0x03 stOk (dValue (min n ((s.chase c).stopAt.getD n)) 0) := by
  have hchase := State.ackCtl_chase (c := c) (i := i) h ctlStop
  obtain ⟨hl, hstop, hverdict, hends⟩ := State.setStop_loaded (n := n) (State.ackCtl_sound (c := c) (sub := ctlStop) (ordinal := i) h) hc
    (by rw [hchase]; exact hv) (by rw [hchase]; exact hgo)
  rw [hchase] at hends
  exact ⟨_, exec_stop hready hi hcs, hl, hstop, hverdict, State.endsTickets_congr (State.tickets_core (State.ackCtl_core ..)) hends⟩

end Stop

/-! ### FAULT -/

/-- The slot after a member's fault is heard: the member has not joined (R131). -/
def State.faultHeard (s : State) (c i : Nat) : State :=
  (s.ackCtl c ctlFault i).updChase c fun x => { x with joined := x.joined.filter fun j => j.1 != i }

section Fault
variable {s : State} {c i : Nat} (h : s.Sound q) (hup : s.isUp = true) (hc : c < 16) (hi : i < s.members c) (hcs : s.cs c ≠ csEmpty)

include hup hi hcs in
theorem exec_fault : exec (.fault c i) s = .next ((s.faultHeard c i).faultLocal c fPeerFault) :=
  congrArg Host.Outcome.next (State.ifB_true (by simp [hup, hi, hcs]) _)

include h

theorem State.faultHeard_sound : (s.faultHeard c i).Sound q := State.updChase_sound (State.ackCtl_sound h)

include hc

theorem State.faultHeard_cs : (s.faultHeard c i).cs c = s.cs c :=
  (State.updChase_getF ..).trans ((State.ackCtl_sameBut h.rise c ctlFault i).getF hc (by simp [Fld.sysChaseState]))

theorem State.faultHeard_csActive : (s.faultHeard c i).csActive c = s.csActive c := by
  simp only [State.csActive, State.faultHeard_cs h hc]

include hup hi hcs

theorem fault_active (hact : s.csActive c = true) : ∃ t, exec (.fault c i) s = .next t ∧ t.cs c = csFaulted ∧
    t.getF Fld.stkFault c = fPeerFault ∧ t.flag Fld.hifEvFault 0 = true := by
  have hu := State.faultHeard_sound (c := c) (i := i) h
  have hactu := (State.faultHeard_csActive (i := i) h hc).trans hact
  exact ⟨_, exec_fault hup hi hcs, State.faultLocal_cs hu hc hactu _, State.faultLocal_fault hu hc hactu (by decide),
    State.faultLocal_event hu hactu _⟩

theorem fault_idle (hidle : s.csActive c = false) : ∃ t, exec (.fault c i) s = .next t ∧ t.cs c = s.cs c ∧
    t.chase c = { s.chase c with joined := (s.chase c).joined.filter fun j => j.1 != i } := by
  have hidleu := (State.faultHeard_csActive (i := i) h hc).trans hidle
  refine ⟨_, exec_fault hup hi hcs, ?_⟩
  rw [State.faultLocal, if_neg (by simp [hidleu]), State.faultHeard_cs h hc]
  refine ⟨rfl, ?_⟩
  rw [State.faultHeard, State.chase_updChase (State.ackCtl_sound h) hc, State.ackCtl_chase h]

end Fault

/-! ### SWITCH_REQ -/

theorem mem_noteSwitch {l : List (Nat × Nat × Nat)} {id i num g j n : Nat} :
    (g, j, n) ∈ (if num = 0 then l.filter fun r => !(r.1 == id && r.2.1 == i) else
      (l.filter fun r => !(r.1 == id && r.2.1 == i)) ++ [(id, i, num)]) ↔
      (num ≠ 0 ∧ (g, j, n) = (id, i, num)) ∨ ((g, j) ≠ (id, i) ∧ (g, j, n) ∈ l) := by
  have hfilter : (g, j, n) ∈ (l.filter fun r => !(r.1 == id && r.2.1 == i)) ↔ (g, j) ≠ (id, i) ∧ (g, j, n) ∈ l := by
    simp [List.mem_filter, and_comm, ← not_and_or]
  split
  · next hz => rw [hfilter]; simp [hz]
  · next hz => rw [List.mem_append, List.mem_singleton, hfilter]; simp [hz, or_comm]

/-- SWITCH_REQ: the root records a request, or cancels it (R328, R331). -/
theorem switchReq_noted {s : State} {c i id num : Nat} (h : s.Sound q) (hup : s.isUp = true) (hc : c < 16) (hi : i < s.members c)
    (hact : s.csActive c = true) (hroot : s.ordinal c = 0) :
    ∃ t, exec (.switchReq c i id num) s = .next t ∧ ∀ g j n, (g, j, n) ∈ (t.chase c).switchReqs ↔
      (num ≠ 0 ∧ (g, j, n) = (id, i, num)) ∨ ((g, j) ≠ (id, i) ∧ (g, j, n) ∈ (s.chase c).switchReqs) := by
  refine ⟨(s.ackCtl c ctlSwitchReq i).noteSwitch c i id num,
    congrArg Host.Outcome.next (State.ifB_true (by simp [hup, hact, hroot, hi]) _), fun g j n => ?_⟩
  rw [State.noteSwitch, State.chase_updChase (State.ackCtl_sound h) hc, State.ackCtl_chase h]
  exact mem_noteSwitch

/-! ### SUMMARY and SUMMARY_RESULT -/

theorem State.takeSummary_chase {s : State} {c k : Nat} {v : SummarySlot} (h : s.Sound q) (hc : c < 16) :
    (s.takeSummary c k v).chase c = { s.chase c with slots := (s.chase c).slots.set k { v with chase := true }, sumDone := true } := by
  rw [State.takeSummary, State.chase_updChase (State.setSlot_sound h) hc, State.setSlot, State.chase_updChase h hc]

theorem State.takeSummary_slotAt {s : State} {c k : Nat} {v : SummarySlot} (h : s.Sound q) (hc : c < 16)
    (hk : k < (s.chase c).slots.length) : (s.takeSummary c k v).slotAt c k = { v with chase := true } := by
  rw [State.slotAt, State.takeSummary_chase h hc]
  simp [hk]

/-- Sums and counts add up over the contributions combined (R148). -/
theorem foldl_add_sum (l : List (Nat × SummarySlot)) (z : SummarySlot) :
    (l.foldl (fun a e => a.add e.2) z).sum = z.sum + (l.map (·.2.sum)).sum := by
  induction l generalizing z with
  | nil => simp
  | cons e l ih => rw [List.foldl_cons, ih, List.map_cons, List.sum_cons, ← add_assoc]; rfl

theorem foldl_add_count (l : List (Nat × SummarySlot)) (z : SummarySlot) :
    (l.foldl (fun a e => a.add e.2) z).count = z.count + (l.map (·.2.count)).sum := by
  induction l generalizing z with
  | nil => simp
  | cons e l ih => rw [List.foldl_cons, ih, List.map_cons, List.sum_cons, ← add_assoc]; rfl

/-- The chase after a contribution is noted at the root. -/
def State.partNoted (s : State) (c i : Nat) (v : SummarySlot) : State :=
  s.updChase c fun x => { x with sumParts := kvPut x.sumParts i v }

section Summary
variable {s : State} {c i k : Nat} {v : SummarySlot} (h : s.Sound q) (hup : s.isUp = true) (hc : c < 16) (hcs : s.csStriking c = true)

include h hc

theorem State.partNoted_chase : (s.partNoted c i v).chase c = { s.chase c with sumParts := kvPut (s.chase c).sumParts i v } :=
  State.chase_updChase h hc _

theorem State.rootSummary_waits (hwait : ∃ j, j < s.members c ∧ kvGet (kvPut (s.chase c).sumParts i v) j = none) :
    s.rootSummary c i k v = s.partNoted c i v := by
  unfold State.rootSummary
  extract_lets s1 parts
  have hparts : parts = kvPut (s.chase c).sumParts i v := congrArg ChaseSt.sumParts (State.partNoted_chase (i := i) (v := v) h hc)
  rw [hparts]
  obtain ⟨j, hj, hnone⟩ := hwait
  refine if_neg fun hall => ?_
  have hsome := List.all_eq_true.1 hall j (List.mem_range.2 hj)
  simp [hnone] at hsome

theorem State.rootSummary_combines (hall : ∀ j, j < s.members c → (kvGet (kvPut (s.chase c).sumParts i v) j).isSome = true)
    (hk : k < (s.chase c).slots.length) :
    ((s.rootSummary c i k v).chase c).sumParts = [] ∧ ((s.rootSummary c i k v).chase c).sumDone = true ∧
      ((s.rootSummary c i k v).slotAt c k).chase = true ∧
      ((s.rootSummary c i k v).slotAt c k).sum = ((kvPut (s.chase c).sumParts i v).map (·.2.sum)).sum ∧
      ((s.rootSummary c i k v).slotAt c k).count = ((kvPut (s.chase c).sumParts i v).map (·.2.count)).sum := by
  unfold State.rootSummary
  extract_lets s1 parts total
  have hu : s1.Sound q := State.updChase_sound h
  have hpart : s1.chase c = { s.chase c with sumParts := kvPut (s.chase c).sumParts i v } := State.partNoted_chase h hc
  have hparts : parts = kvPut (s.chase c).sumParts i v := congrArg ChaseSt.sumParts hpart
  have hsum : total.sum = (parts.map (·.2.sum)).sum := by simp [total, foldl_add_sum, SummarySlot.empty]
  have hcount : total.count = (parts.map (·.2.count)).sum := by simp [total, foldl_add_count, SummarySlot.empty]
  rw [if_pos (List.all_eq_true.2 fun j hj => by rw [hparts]; exact hall j (List.mem_range.1 hj)), ← hparts, ← hsum, ← hcount]
  have hclear : (s1.updChase c fun x => { x with sumParts := [] }).Sound q := State.updChase_sound hu
  have hsent := State.sendAll_sameBut hclear.rise c ctlSummaryResult (words [k] ++ total.bytes)
  have hsends := State.sendAll_sound (c := c) (sub := ctlSummaryResult) (payload := words [k] ++ total.bytes) hclear
  have hchase := (State.chase_congr (hsent.part (p := .chases) (by simp)) c).trans (State.chase_updChase hu hc _)
  rw [State.takeSummary_slotAt hsends hc (by rw [hchase, hpart]; exact hk), State.takeSummary_chase hsends hc, hchase]
  exact ⟨rfl, rfl, rfl, rfl, rfl⟩

end Summary

section Summaries
variable {s : State} {c i k : Nat} {v : SummarySlot} (h : s.Sound q) (hup : s.isUp = true) (hc : c < 16) (hcs : s.csStriking c = true)
include h hup hc hcs

/-- SUMMARY: the root keeps a contribution until it has every member's (R599). -/
theorem summary_waits (hroot : s.ordinal c = 0) (hpos : 0 < i) (hi : i < s.members c)
    (hwait : ∃ j, j < s.members c ∧ kvGet (kvPut (s.chase c).sumParts i v) j = none) :
    ∃ t, exec (.summary c i k v) s = .next t ∧ (t.chase c).sumParts = kvPut (s.chase c).sumParts i v ∧
      t.slotAt c k = s.slotAt c k := by
  have hu := State.ackCtl_sound (c := c) (sub := ctlSummary) (ordinal := i) h
  have hchase := State.ackCtl_chase (c := c) (i := i) h ctlSummary
  have hmem : (s.ackCtl c ctlSummary i).members c = s.members c := State.members_congr (by rw [State.forme, hchase]; rfl)
  refine ⟨(s.ackCtl c ctlSummary i).rootSummary c i k v,
    congrArg Host.Outcome.next (State.ifB_true (by simp [hup, hcs, hroot, hpos, hi]) _), ?_⟩
  rw [State.rootSummary_waits hu hc (by rw [hmem, hchase]; exact hwait), State.slotAt, State.partNoted_chase hu hc, hchase]
  exact ⟨rfl, rfl⟩

/-- SUMMARY: with the last contribution the slot holds the combined summary (R151). -/
theorem summary_combines (hroot : s.ordinal c = 0) (hpos : 0 < i) (hi : i < s.members c)
    (hall : ∀ j, j < s.members c → (kvGet (kvPut (s.chase c).sumParts i v) j).isSome = true) (hk : k < (s.chase c).slots.length) :
    ∃ t, exec (.summary c i k v) s = .next t ∧ (t.chase c).sumParts = [] ∧ (t.chase c).sumDone = true ∧
      (t.slotAt c k).chase = true ∧ (t.slotAt c k).sum = ((kvPut (s.chase c).sumParts i v).map (·.2.sum)).sum ∧
      (t.slotAt c k).count = ((kvPut (s.chase c).sumParts i v).map (·.2.count)).sum := by
  have hu := State.ackCtl_sound (c := c) (sub := ctlSummary) (ordinal := i) h
  have hchase := State.ackCtl_chase (c := c) (i := i) h ctlSummary
  have hmem : (s.ackCtl c ctlSummary i).members c = s.members c := State.members_congr (by rw [State.forme, hchase]; rfl)
  have hcomb := State.rootSummary_combines (k := k) (v := v) (i := i) hu hc (by rw [hmem, hchase]; exact hall) (by rw [hchase]; exact hk)
  rw [hchase] at hcomb
  exact ⟨_, congrArg Host.Outcome.next (State.ifB_true (by simp [hup, hcs, hroot, hpos, hi]) _), hcomb⟩

/-- SUMMARY_RESULT: a member takes the combined summary (R151). -/
theorem summaryResult_taken (hmember : s.ordinal c ≠ 0) (hk : k < (s.chase c).slots.length) :
    ∃ t, exec (.summaryResult c k v) s = .next t ∧ t.slotAt c k = { v with chase := true } ∧ (t.chase c).sumDone = true := by
  have hu := State.ackCtl_sound (c := c) (sub := ctlSummaryResult) (ordinal := 0) h
  have hchase := State.ackCtl_chase (c := c) (i := 0) h ctlSummaryResult
  refine ⟨(s.ackCtl c ctlSummaryResult 0).takeSummary c k v,
    congrArg Host.Outcome.next (State.ifB_true (by simp [hup, hcs, hmember]) _), ?_⟩
  rw [State.takeSummary_slotAt hu hc (by rw [hchase]; exact hk), State.takeSummary_chase hu hc]
  exact ⟨rfl, rfl⟩

end Summaries

/-- Settles O40: what one member tells another about joining, starting, stopping, faults, switches and summaries. -/
theorem membersTellEachOther : Obligations.MembersTellEachOther := by
  unfold Obligations.MembersTellEachOther
  refine ⟨fun c i latency d s hs hready hc hi hne => ?_, fun c s hs hready hc hcs hstart hall hprior => ?_,
    fun c n e l s hs hready hc hcs hmember he hl => ?_, fun c i n s hs hready hc hi hcs => ?_, fun c i s hs hup hc hi hcs => ?_,
    fun c i id num s hs hup hc hi hact hroot => ?_, fun c i k v s hs hup hc hcs hk => ?_⟩
  all_goals have h := State.sound_of_canonical hs
  · exact ⟨join_idle h hready hc hi hne, join_mismatch h hready hc hi hne, join_match h hready hc hi hne⟩
  · exact joinTimeout_ends h hready hc hcs hstart hall hprior
  · exact start_announced h hready hc hcs hmember he hl
  · exact ⟨stop_stopping h hready hc hi hcs, fun m b hv hgo => stop_loaded h hready hc hi hcs hv hgo⟩
  · exact ⟨fault_active h hup hc hi hcs, fault_idle h hup hc hi hcs⟩
  · exact switchReq_noted h hup hc hi hact hroot
  · exact ⟨fun hroot hpos hi => ⟨summary_waits h hup hc hcs hroot hpos hi,
      fun hall => summary_combines h hup hc hcs hroot hpos hi hall hk⟩, fun hmember => summaryResult_taken h hup hc hcs hmember hk⟩

end Sys2Proof.Machine
end

section
/-! SUPPORT. Tickets of chases: their turn, what changes on the host's side alone, and the tickets that clearing marks ends
(R531, R560, R675). -/

namespace Sys2Proof.Machine

variable {q : List Instr}

/-! ### The turn of a ticket -/

/-- The tickets after one of them takes its turn. -/
theorem State.ticket?_turnTaken {s : State} {ring seq : Nat} {x : Ticket} (h : s.ticket? ring seq = some x) :
    (s.turnTaken ring seq).ticket? ring seq = some { x with acted := true } := by
  rw [State.turnTaken, State.ticket?_updTicket (by simp), h, Option.map_some]

/-- A ticket of a chase that passes its checks names one of the 16 slots (R671, R675). -/
theorem tkSlot_lt {s : State} {ring op : Nat} {b : Bytes} (hop : tkOpcode b = op) (hchase : isChaseTicket op = true)
    (h : s.ticketCheck ring b = none) : tkSlot b < 16 := by
  obtain ⟨f, hf, hslot⟩ : ∃ f, ticketForm (tkOpcode b) = some f ∧ f.slot = some true := by
    simp only [isChaseTicket, Bool.and_eq_true, decide_eq_true_eq] at hchase
    have hcases : op = 1 ∨ op = 2 ∨ op = 3 ∨ op = 4 := by omega
    rcases hcases with rfl | rfl | rfl | rfl <;> rw [hop] <;> exact ⟨_, rfl, rfl⟩
  by_contra hge
  have hbad : layoutBad f b = true := by
    simp [layoutBad, hslot, Nat.not_lt.1 hge]
  simp only [State.ticketCheck, hf, hbad, if_true] at h
  split at h <;> simp at h

section Turn
variable {s : State} {ring seq op : Nat} {x : Ticket} (h : s.atTurn ring seq op x)
include h

theorem State.atTurn.slot_lt (hchase : isChaseTicket op = true) : tkSlot x.raw < 16 := tkSlot_lt h.opcode hchase h.passes

/-- A ticket at its turn that is done at once. -/
theorem State.atTurn.done {t : State} (ht : t.ticket? ring seq = some { x with acted := true }) (st : Nat) (d : Bytes) :
    (t.done x st d).ticketEnds ring seq st d :=
  State.ticketEnds_done ht h.fresh.2 (State.ticket?_eq h.begun)

theorem State.atTurn.underWay {t : State} (ht : t.ticket? ring seq = some { x with acted := true }) : t.underWay ring seq :=
  ⟨_, ht, rfl, h.fresh.2⟩

end Turn

/-! ### What changes on the host's side alone -/

/-- A state with another record of the host's side. -/
def State.withHost (s : State) (h : HostSt) : State := { s with host := h }

theorem State.withHost_sameBut (s : State) (h : HostSt) : State.SameBut [] [.host] s (s.withHost h) := by
  refine ⟨rfl, fun _ _ _ _ => rfl, fun p hp => ?_⟩
  cases p with
  | host => simp at hp
  | _ => rfl

/-- A write of HBM that failed leaves its sector as poison (R511). -/
def State.writeFailed (s : State) (q : Nat) : State :=
  (match s.mbFind (q / 2) with | some e => s.mbToDram e | none => s).poisonRun (32 * q) 1

theorem State.xfersEnd_eq (s : State) : s.xfersEnd =
    if s.hbm.badReads.isEmpty && s.hbm.badWrites.isEmpty then s
    else { s.hbm.badWrites.foldl State.writeFailed s with
      hbm := { (s.hbm.badWrites.foldl State.writeFailed s).hbm with badReads := [], badWrites := [] } } := rfl

theorem State.writesFailed_withHost (l : List Nat) (s : State) (h : HostSt) :
    l.foldl State.writeFailed (s.withHost h) = (l.foldl State.writeFailed s).withHost h := by
  induction l generalizing s with
  | nil => rfl
  | cons q l ih =>
    have hq : (s.withHost h).writeFailed q = (s.writeFailed q).withHost h := by
      show (match s.mbFind (q / 2) with | some e => (s.withHost h).mbToDram e | none => s.withHost h).poisonRun (32 * q) 1 = _
      unfold State.writeFailed
      cases s.mbFind (q / 2) <;> rfl
    rw [List.foldl_cons, List.foldl_cons, hq, ih]

theorem State.xfersStop_withHost (s : State) (l : List HbmXfer) (h : HostSt) :
    (s.withHost h).xfersStop l = (s.xfersStop l).withHost h := by
  have hend : (s.withHost h).xfersEnd = s.xfersEnd.withHost h := by
    have hw := State.writesFailed_withHost s.hbm.badWrites s h
    rw [State.xfersEnd_eq, State.xfersEnd_eq, show (s.withHost h).hbm = s.hbm from rfl, hw]
    split <;> rfl
  unfold State.xfersStop
  rw [hend]
  split <;> rfl

/-- A ticket that ends as it takes its turn changes the host's side alone, beside its transfers. -/
theorem State.turnTaken_done_sameBut (s : State) (ring seq : Nat) (x : Ticket) (st : Nat) (d : Bytes) (l : List HbmXfer) :
    State.SameBut [] [.host] (s.xfersStop l) (((s.turnTaken ring seq).done x st d).xfersStop l) := by
  have hdone : (s.turnTaken ring seq).done x st d = s.withHost ((s.turnTaken ring seq).done x st d).host := rfl
  rw [hdone, State.xfersStop_withHost]
  exact State.withHost_sameBut _ _

theorem State.tickets_xfersStop (s : State) (l : List HbmXfer) : (s.xfersStop l).host.tickets = s.host.tickets :=
  State.tickets_core (State.xfersStop_core ..)

/-! ### Marks that are cleared (R531, R560) -/

/-- No mark holds a wait of a ticket. -/
def State.unmarked (s : State) (ring seq : Nat) : Prop := ∀ n f, MarkWait.ticket ring seq f ∉ (s.mark n).waits

theorem State.mark_congr {s t : State} (h : t.marks = s.marks) (n : Nat) : t.mark n = s.mark n := by
  unfold State.mark; rw [h]

theorem State.unmarked_congr {s t : State} (h : t.marks = s.marks) {ring seq : Nat} (hs : s.unmarked ring seq) :
    t.unmarked ring seq := fun n f => by rw [State.mark_congr h]; exact hs n f

theorem State.mark_updMark (s : State) (n : Nat) (f : MarkRt → MarkRt) (m : Nat) :
    (s.updMark n f).mark m = if m = n then f (s.mark n) else s.mark m := by
  simp only [State.mark, State.updMark, kvGet_kvPut]
  split <;> rfl

theorem mapFirst_find?_of_not {α : Type} {p r : α → Bool} {f : α → α} (l : List α)
    (hf : ∀ a, p a = true → r a = false ∧ r (f a) = false) : (mapFirst p f l).find? r = l.find? r := by
  induction l with
  | nil => rfl
  | cons a l ih =>
    simp only [mapFirst]
    split
    · next hp => simp [hf a hp]
    · rw [List.find?_cons, List.find?_cons, ih]

/-- What changes one ticket leaves another. -/
theorem State.ticket?_updTicket_ne {s : State} {ring seq ring' seq' : Nat} {f : Ticket → Ticket}
    (hf : ∀ x, (f x).ring = x.ring ∧ (f x).seq = x.seq) (h : (ring', seq') ≠ (ring, seq)) :
    (s.updTicket ring' seq' f).ticket? ring seq = s.ticket? ring seq := by
  refine mapFirst_find?_of_not _ fun a ha => ?_
  have hne : (a.ring == ring && a.seq == seq) = false := by
    simp only [Bool.and_eq_true, beq_iff_eq] at ha
    simp only [Bool.and_eq_false_iff, beq_eq_false_iff_ne]
    rw [ha.1, ha.2]
    simpa only [ne_eq, Prod.mk.injEq, not_and_or] using h
  rw [(hf a).1, (hf a).2]
  exact ⟨hne, hne⟩

theorem State.ticket?_finishTicket_ne {s : State} {ring seq ring' seq' st : Nat} {d : Bytes} (h : (ring', seq') ≠ (ring, seq)) :
    (s.finishTicket ring' seq' st d).ticket? ring seq = s.ticket? ring seq :=
  State.ticket?_updTicket_ne (fun _ => ⟨State.outcome_ring .., State.outcome_seq ..⟩) h

/-- What clearing a mark does to one of its waits: a ticket ends with CLEARED. -/
def State.waitCleared (n : Nat) (s : State) : MarkWait → State
  | .ticket ring seq _ => s.finishTicket ring seq stCleared (dValue (s.mark n).initial 0)
  | .plate .. => s

theorem State.clearMark_eq (s : State) (n : Nat) : s.clearMark n =
    (((s.mark n).waits.foldl (State.waitCleared n) (s.setFs n [(Fld.mrkCount, (s.mark n).initial), (Fld.mrkSense, 0),
      (Fld.mrkSatHi, 0), (Fld.mrkSatLo, 0)])).updMark n fun m => { m with flips := 0, arrivedAt := none, waits := [] }).postWaiters n :=
  rfl

theorem State.marks_waitsCleared (n : Nat) (l : List MarkWait) (s : State) : (l.foldl (State.waitCleared n) s).marks = s.marks := by
  induction l generalizing s with
  | nil => rfl
  | cons w l ih =>
    rw [List.foldl_cons, ih]
    cases w <;> rfl

theorem State.ticket?_waitsCleared {ring seq : Nat} (n : Nat) {l : List MarkWait} (h : ∀ f, MarkWait.ticket ring seq f ∉ l)
    (s : State) : (l.foldl (State.waitCleared n) s).ticket? ring seq = s.ticket? ring seq := by
  induction l generalizing s with
  | nil => rfl
  | cons w l ih =>
    rw [List.foldl_cons, ih fun f hf => h f (List.mem_cons_of_mem _ hf)]
    cases w with
    | plate slot f => rfl
    | ticket ring' seq' f =>
      refine State.ticket?_finishTicket_ne fun heq => h f ?_
      rw [← (Prod.mk.inj heq).1, ← (Prod.mk.inj heq).2]
      exact List.mem_cons_self ..

/-- Clearing a mark ends the tickets that wait for it, and no other. -/
theorem State.ticket?_clearMark {s : State} {n ring seq : Nat} (h : s.unmarked ring seq) :
    (s.clearMark n).ticket? ring seq = s.ticket? ring seq := by
  have hpost (u : State) (f : MarkRt → MarkRt) : ((u.updMark n f).postWaiters n).host.tickets = u.host.tickets := by
    simp [State.postWaiters]
  rw [State.clearMark_eq, State.ticket?_congr (hpost ..), State.ticket?_waitsCleared _ (h n)]
  exact State.ticket?_congr (congrArg HostSt.tickets (State.setFs_host ..)) ..

theorem State.unmarked_clearMark {s : State} {n ring seq : Nat} (h : s.unmarked ring seq) : (s.clearMark n).unmarked ring seq := by
  rw [State.clearMark_eq]
  refine State.unmarked_congr (State.setF_marks ..) fun m f => ?_
  rw [State.mark_updMark]
  split
  · exact List.not_mem_nil
  · rw [State.mark_congr ((State.marks_waitsCleared ..).trans (State.setFs_marks ..))]
    exact h m f

theorem State.ticket?_clearMarks {s : State} {c ring seq : Nat} (h : s.unmarked ring seq) :
    (s.clearMarks c).ticket? ring seq = s.ticket? ring seq := by
  have hfold (l : List Nat) (u : State) (hu : u.unmarked ring seq) :
      (l.foldl State.clearMark u).ticket? ring seq = u.ticket? ring seq := by
    induction l generalizing u with
    | nil => rfl
    | cons n l ih => exact (ih _ (State.unmarked_clearMark hu)).trans (State.ticket?_clearMark hu)
  exact (State.ticket?_congr (congrArg HostSt.tickets (State.setFs_host ..)) ..).trans (hfold _ _ h)

theorem State.ticket?_releaseMarks {s : State} {c ring seq : Nat} (h : s.unmarked ring seq) :
    (s.releaseMarks c).ticket? ring seq = s.ticket? ring seq := by
  have hfold (l : List Nat) (u : State) :
      (l.foldl (fun s n => (s.wr .mrkCount n 0).wr .mrkState n 0) u).host.tickets = u.host.tickets := by
    induction l generalizing u with
    | nil => rfl
    | cons n l ih => exact (ih _).trans (by simp)
  exact (State.ticket?_congr (hfold _ _) ..).trans (State.ticket?_clearMarks h)

end Sys2Proof.Machine
end

section
/-! PROOF. NOP and the chase tickets FORME_LOAD, CHASE_START and CHASE_STOP (R92 to R104, R132). -/

namespace Sys2Proof.Machine

variable {q : List Instr}

/-! ### NOP -/

theorem nop_ends {s : State} {ring seq : Nat} {x : Ticket} (h : s.atTurn ring seq 0x00 x) :
    ∃ t, exec (.nop ring seq) s = .next t ∧ t.ticketEnds ring seq stOk [] ∧ State.SameBut [] [.host] s t :=
  ⟨(s.turnTaken ring seq).done x stOk [], congrArg Host.Outcome.next (State.ticketAct_of_atTurn h _),
    h.done (State.ticket?_turnTaken h.begun) _ _, State.turnTaken_done_sameBut s ring seq x stOk [] []⟩

/-! ### FORME_LOAD -/

section Install
variable {s : State} {c : Nat} {f : Bytes}

theorem State.ticket?_installForme {ring seq : Nat} (h : s.unmarked ring seq) :
    (s.installForme c f).ticket? ring seq = s.ticket? ring seq := by
  unfold State.installForme
  extract_lets o' mask s1 old kept s2 s3
  have h1 : s1.host.tickets = (s.releaseMarks c).host.tickets := State.tickets_core (State.leaveRegions_core ..)
  have h2 : s2.host.tickets = s1.host.tickets := 
    (congrArg HostSt.tickets (State.updChase_host ..)).trans (State.tickets_core (State.mergeGalleys_core ..))
  have h3 : s3.host.tickets = s2.host.tickets := State.tickets_core (State.setFs_core ..)
  have h4 : (s3.assignMarks c (s3.markPlan c f mask)).host.tickets = s3.host.tickets := State.tickets_core (State.assignMarks_core ..)
  exact (State.ticket?_congr (h4.trans (h3.trans (h2.trans h1))) ..).trans (State.ticket?_releaseMarks h)

variable (h : s.Sound q) (hc : c < 16)
include h hc

/-- A forme that is put into a slot leaves it LOADED with that forme (R92). -/
theorem State.installForme_loaded : (s.installForme c f).cs c = csLoaded ∧ (s.installForme c f).forme c = f := by
  unfold State.installForme
  extract_lets o' mask s1 old kept s2 s3
  have hs1 : s1.Sound q := State.leaveRegions_sound (State.releaseMarks_sound h)
  have hm := State.mergeGalleys_sound (c := c) (old := old.galleys) (f := f) (m := s1.members c) (o := s1.ordinal c) (m' := ptCount f)
    (o' := o') hs1
  have hs2 : s2.Sound q := State.updChase_sound hm
  have hforme : (s2.chase c).forme = f := by rw [State.chase_updChase hm hc]
  constructor
  · have hset : s3.cs c = csLoaded := State.getF_setFs hs2 ⟨by decide, by decide, hc⟩ [_] _ rfl rfl
    exact (State.getF_of_frame (State.assignMarks_frame (M := maskBut [.sysChaseStatus] []) (State.setFs_sound hs2).frame rfl)
      hc rfl).trans hset
  · have hcore : (s3.assignMarks c (s3.markPlan c f mask)).core = s2.core := (State.assignMarks_core ..).trans (State.setFs_core ..)
    exact (State.forme_core hcore c).trans hforme

end Install

/-- The slot in VALIDATING, the source read. -/
structure State.FormeRead (u : State) (ring seq : Nat) (x : Ticket) (s1 : State) : Prop where
  ticket : s1.ticket? ring seq = some { x with acted := true }
  unmarked : s1.unmarked ring seq
  prior : (s1.chase (tkSlot x.raw)).priorIdle = u.cs (tkSlot x.raw)
  forme : s1.forme (tkSlot x.raw) = u.forme (tkSlot x.raw)

section FormeLoad
variable {u s1 : State} {ring seq : Nat} {x : Ticket} (h : u.Sound q) (hturn : u.atTurn ring seq 0x01 x)
include h hturn

theorem State.formeRead_of_srcRead {n : Nat} {r : Option (Bytes × List (Nat × Nat))}
    (hread : ((u.turnTaken ring seq).beginForme (tkSlot x.raw)).srcRead x (tpSrcSpace x.raw) (tpSrc x.raw) n = (s1, r)) :
    u.FormeRead ring seq x s1 := by
  have hc := hturn.slot_lt rfl
  have hturned : (u.turnTaken ring seq).Sound q := State.updTicket_sound h
  have hcore : s1.core = ((u.turnTaken ring seq).beginForme (tkSlot x.raw)).core := (State.core_fst hread).trans (State.srcRead_core ..)
  have hmarks : s1.marks = ((u.turnTaken ring seq).beginForme (tkSlot x.raw)).marks :=
    (State.srcRead_frame_eq (M := maskBut [] [.marks]) (State.beginForme_sound hturned).frame rfl hread).parts .marks rfl
  have hchase : ((u.turnTaken ring seq).beginForme (tkSlot x.raw)).chase (tkSlot x.raw) =
      { u.chase (tkSlot x.raw) with priorIdle := u.cs (tkSlot x.raw) } :=
    (State.chase_congr (State.setF_chases ..) _).trans (State.chase_updChase hturned hc _)
  refine ⟨?_, ?_, ?_, ?_⟩
  · rw [State.ticket?_congr (State.tickets_core hcore)]
    exact (State.ticket?_congr (by simp [State.beginForme]) ..).trans (State.ticket?_turnTaken hturn.begun)
  · refine State.unmarked_congr hmarks (State.unmarked_congr (s := u) ?_ hturn.unmarked)
    simp [State.beginForme, State.turnTaken]
  · rw [State.priorIdle_core hcore, hchase]
  · show (s1.chase _).forme = _
    rw [State.forme_core hcore, hchase]
    rfl

end FormeLoad

theorem State.cs_xfersStop {s : State} {c : Nat} (h : s.Sound q) (hc : c < 16) (l : List HbmXfer) : (s.xfersStop l).cs c = s.cs c :=
  State.getF_of_frame (State.xfersStop_frame (M := maskBut [.sysChaseStatus] []) h.frame rfl) hc rfl

theorem State.forme_xfersStop (s : State) (c : Nat) (l : List HbmXfer) : (s.xfersStop l).forme c = s.forme c :=
  State.forme_core (State.xfersStop_core ..) c

theorem State.ticketEnds_xfersStop {s : State} {l : List HbmXfer} {ring seq st : Nat} {d : Bytes} (h : s.ticketEnds ring seq st d) :
    (s.xfersStop l).ticketEnds ring seq st d := (State.ticketEnds_congr (State.tickets_xfersStop s l)).2 h

section FormeLoad
variable {s s1 : State} {ring seq bad : Nat} {x : Ticket} {hbm : List HbmXfer} {f : Bytes} {bad : List (Nat × Nat)}

theorem exec_formeLoad (h : (s.xfersStart hbm).atTurn ring seq 0x01 x) (hcs : (s.xfersStart hbm).cs (tkSlot x.raw) = csEmpty ∨
    (s.xfersStart hbm).cs (tkSlot x.raw) = csLoaded ∨ (s.xfersStart hbm).cs (tkSlot x.raw) = csFaulted) :
    exec (.formeLoad ring ⟨seq, hbm⟩) s =
      .next (((((s.xfersStart hbm).turnTaken ring seq).beginForme (tkSlot x.raw)).loadForme x).xfersStop hbm) :=
  congrArg (fun u => Host.Outcome.next (State.xfersStop u hbm)) ((State.ticketAct_of_atTurn h _).trans (if_pos hcs))

variable (hread : s.srcRead x (tpSrcSpace x.raw) (tpSrc x.raw) (min (tpLen x.raw) (2 ^ 26)) = (s1, some (f, bad)))
include hread

theorem State.loadForme_of_valid (hv : s1.validate (tkSlot x.raw) f (tpLen x.raw) = none) :
    s.loadForme x = ((s1.endForme (tkSlot x.raw)).installForme (tkSlot x.raw) f).done x stOk (dForme 0 0 0) := by
  simp only [State.loadForme, hread, hv]

theorem State.loadForme_of_error {e : FormeErr} (hv : s1.validate (tkSlot x.raw) f (tpLen x.raw) = some e) :
    s.loadForme x = ((s1.endForme (tkSlot x.raw)).noteErr (tkSlot x.raw) e.code e.ty).done x stChase (dForme e.code e.ty e.off) := by
  simp only [State.loadForme, hread, hv]

end FormeLoad

section FormeEnds
variable {u s1 : State} {ring seq : Nat} {x : Ticket} {hbm : List HbmXfer} {f : Bytes} (h : s1.Sound q)
  (hturn : u.atTurn ring seq 0x01 x) (hr : u.FormeRead ring seq x s1)
include h hturn hr

/-- A valid forme is loaded (R92). -/
theorem State.formeLoaded :
    let t := (((s1.endForme (tkSlot x.raw)).installForme (tkSlot x.raw) f).done x stOk (dForme 0 0 0)).xfersStop hbm
    t.ticketEnds ring seq stOk (dForme 0 0 0) ∧ t.cs (tkSlot x.raw) = csLoaded ∧ t.forme (tkSlot x.raw) = f := by
  intro t
  have hc := hturn.slot_lt rfl
  have hend : (s1.endForme (tkSlot x.raw)).Sound q := State.endForme_sound h
  have hin : ((s1.endForme (tkSlot x.raw)).installForme (tkSlot x.raw) f).Sound q := State.installForme_sound hend
  obtain ⟨hcs, hforme⟩ := State.installForme_loaded (f := f) hend hc
  have hticket : ((s1.endForme (tkSlot x.raw)).installForme (tkSlot x.raw) f).ticket? ring seq = some { x with acted := true } :=
    (State.ticket?_installForme (State.unmarked_congr (State.setF_marks ..) hr.unmarked)).trans
      ((State.ticket?_congr (congrArg HostSt.tickets (State.setF_host ..)) ..).trans hr.ticket)
  refine ⟨State.ticketEnds_xfersStop (hturn.done hticket _ _), ?_, ?_⟩
  · exact (State.cs_xfersStop (State.done_sound hin) hc hbm).trans hcs
  · exact (State.forme_xfersStop _ _ hbm).trans hforme

/-- A forme that fails a check leaves the slot and its forme (R92, R94). -/
theorem State.formeRefused {e : FormeErr} (hcs : u.cs (tkSlot x.raw) < 16) :
    let t := (((s1.endForme (tkSlot x.raw)).noteErr (tkSlot x.raw) e.code e.ty).done x stChase (dForme e.code e.ty e.off)).xfersStop hbm
    t.ticketEnds ring seq stChase (dForme e.code e.ty e.off) ∧ t.cs (tkSlot x.raw) = u.cs (tkSlot x.raw) ∧
      t.forme (tkSlot x.raw) = u.forme (tkSlot x.raw) := by
  intro t
  have hc := hturn.slot_lt rfl
  have hend : (s1.endForme (tkSlot x.raw)).Sound q := State.endForme_sound h
  have hnote : ((s1.endForme (tkSlot x.raw)).noteErr (tkSlot x.raw) e.code e.ty).Sound q := State.noteErr_sound hend
  have hcsEnd : (s1.endForme (tkSlot x.raw)).cs (tkSlot x.raw) = u.cs (tkSlot x.raw) := by
    rw [State.endForme, hr.prior]
    exact (State.getF_setF h ⟨by decide, by decide, hc⟩).trans (Nat.mod_eq_of_lt hcs)
  have hticket : ((s1.endForme (tkSlot x.raw)).noteErr (tkSlot x.raw) e.code e.ty).ticket? ring seq = some { x with acted := true } :=
    (State.ticket?_congr (by simp [State.endForme, State.noteErr]) ..).trans hr.ticket
  refine ⟨State.ticketEnds_xfersStop (hturn.done hticket _ _), ?_, ?_⟩
  · calc t.cs (tkSlot x.raw) = ((s1.endForme (tkSlot x.raw)).noteErr (tkSlot x.raw) e.code e.ty).cs (tkSlot x.raw) :=
          State.cs_xfersStop (State.done_sound hnote) hc hbm
      _ = (s1.endForme (tkSlot x.raw)).cs (tkSlot x.raw) := State.getF_setFs_of_clear hend hc rfl
      _ = u.cs (tkSlot x.raw) := hcsEnd
  · refine (State.forme_xfersStop _ _ hbm).trans (Eq.trans ?_ hr.forme)
    exact congrArg ChaseSt.forme (State.chase_congr (by simp [State.done, State.finishTicket, State.noteErr, State.endForme]) _)

end FormeEnds

/-- FORME_LOAD into an idle slot (R92, R94, R95). -/
theorem formeLoad_ends {s u s1 : State} {ring seq : Nat} {x : Ticket} {hbm : List HbmXfer} {f : Bytes} {bad : List (Nat × Nat)}
    (h : s.Sound q) (hu : u = s.xfersStart hbm) (hturn : u.atTurn ring seq 0x01 x)
    (hcs : u.cs (tkSlot x.raw) = csEmpty ∨ u.cs (tkSlot x.raw) = csLoaded ∨ u.cs (tkSlot x.raw) = csFaulted)
    (hread : ((u.turnTaken ring seq).beginForme (tkSlot x.raw)).srcRead x (tpSrcSpace x.raw) (tpSrc x.raw)
      (min (tpLen x.raw) (2 ^ 26)) = (s1, some (f, bad))) :
    (s1.validate (tkSlot x.raw) f (tpLen x.raw) = none →
      ∃ t, exec (.formeLoad ring ⟨seq, hbm⟩) s = .next t ∧ t.ticketEnds ring seq stOk (dForme 0 0 0) ∧
        t.cs (tkSlot x.raw) = csLoaded ∧ t.forme (tkSlot x.raw) = f) ∧
    (∀ e, s1.validate (tkSlot x.raw) f (tpLen x.raw) = some e →
      ∃ t, exec (.formeLoad ring ⟨seq, hbm⟩) s = .next t ∧ t.ticketEnds ring seq stChase (dForme e.code e.ty e.off) ∧
        t.cs (tkSlot x.raw) = u.cs (tkSlot x.raw) ∧ t.forme (tkSlot x.raw) = u.forme (tkSlot x.raw)) := by
  subst hu
  have hsu : (s.xfersStart hbm).Sound q := State.xfersStart_sound h
  have hbegun : (((s.xfersStart hbm).turnTaken ring seq).beginForme (tkSlot x.raw)).Sound q :=
    State.beginForme_sound (State.updTicket_sound hsu)
  have h1 : s1.Sound q := State.srcRead_sound_eq hbegun hread
  have hr := State.formeRead_of_srcRead hsu hturn hread
  have hlt : (s.xfersStart hbm).cs (tkSlot x.raw) < 16 := by rcases hcs with hcs | hcs | hcs <;> rw [hcs] <;> decide
  refine ⟨fun hv => ?_, fun e hv => ?_⟩
  · have ht := State.formeLoaded (f := f) (hbm := hbm) h1 hturn hr
    rw [← State.loadForme_of_valid hread hv] at ht
    exact ⟨_, exec_formeLoad hturn hcs, ht⟩
  · have ht := State.formeRefused (e := e) (hbm := hbm) h1 hturn hr hlt
    rw [← State.loadForme_of_error hread hv] at ht
    exact ⟨_, exec_formeLoad hturn hcs, ht⟩

/-! ### CHASE_START -/

/-- What a start does once its record is set up: the marks are cleared, guests are reserved, the member joins (R98, R452, R560). -/
def State.joinsOwn (s : State) (c : Nat) : State :=
  let s1 := (s.clearMarks c).reserveGuests c
  (s1.addJoin c (s1.ordinal c) (fhHeaderDigest (s1.forme c))).sendAll c ctlJoin (words [s1.ordinal c] ++ fhHeaderDigest (s1.forme c))

section JoinsOwn
variable {s : State} {c : Nat} (h : s.Sound q)
include h

theorem State.joinsOwn_sound : (s.joinsOwn c).Sound q :=
  State.sendAll_sound (State.updChase_sound (State.reserveGuests_sound (State.clearMarks_sound h)))

theorem State.joinsOwn_status : State.Frame (maskBut [.sysChaseStatus, .stkStatus] []) s (s.joinsOwn c) :=
  State.sendAll_frame (State.updChase_frame (State.reserveGuests_frame (State.clearMarks_frame h.frame rfl) rfl) rfl) rfl

/-- Context 0 is active once the marks are cleared (R560). -/
theorem State.joinsOwn_activeCtx (hc : c < 16) : (s.joinsOwn c).activeCtx c = 0 := by
  have hfold : ((s.slotMarks c).foldl State.clearMark s).Sound q := State.Sound.foldl (fun _ _ hu => State.clearMark_sound hu) h
  have hframe : State.Frame (maskBut [.mrkCtx] []) (s.clearMarks c) (s.joinsOwn c) :=
    State.sendAll_frame (State.updChase_frame (State.reserveGuests_frame (State.clearMarks_sound h).frame rfl) rfl) rfl
  exact (State.getF_of_frame hframe hc rfl).trans (State.getF_setFs hfold ⟨by decide, by decide, hc⟩ [] _ rfl rfl)

omit h in
theorem State.joinsOwn_ticket? {ring seq : Nat} (hmarks : s.unmarked ring seq) :
    (s.joinsOwn c).ticket? ring seq = s.ticket? ring seq := by
  have hreserve : ((s.clearMarks c).reserveGuests c).host.tickets = (s.clearMarks c).host.tickets :=
    State.tickets_core (State.reserveGuests_core ..)
  have hsend : (s.joinsOwn c).host.tickets = ((s.clearMarks c).reserveGuests c).host.tickets := by
    unfold State.joinsOwn
    extract_lets s1
    rw [State.tickets_core (State.sendAll_core ..), State.addJoin, State.updChase_host]
  rw [State.ticket?_congr (hsend.trans hreserve), State.ticket?_clearMarks hmarks]

/-- The record of the slot: the member's own join is in. -/
theorem State.joinsOwn_chase (hc : c < 16) : ((s.joinsOwn c).chase c).priorIdle = (s.chase c).priorIdle ∧
    ((s.joinsOwn c).chase c).forme = s.forme c ∧
    ((s.joinsOwn c).chase c).joined = kvPut (s.chase c).joined (s.ordinal c) (fhHeaderDigest (s.forme c)) := by
  have hclear : (s.clearMarks c).chase c = s.chase c :=
    State.chase_congr ((State.clearMarks_frame (M := maskBut [] [.chases]) h.frame rfl).parts .chases rfl) c
  have hcore1 : (((s.clearMarks c).reserveGuests c).chase c).core = (s.chase c).core :=
    (State.chase_core (State.reserveGuests_core ..) c).trans (congrArg ChaseSt.core hclear)
  have hforme : ((s.clearMarks c).reserveGuests c).forme c = s.forme c := congrArg ChaseCore.forme hcore1
  have hnode : ((s.clearMarks c).reserveGuests c).nodeId = s.nodeId :=
    State.getF_of_frame (State.reserveGuests_frame (M := maskBut [.hlkNode] []) (State.clearMarks_frame h.frame rfl) rfl) (by decide) rfl
  unfold State.joinsOwn
  extract_lets s1
  have hs1 : s1.Sound q := State.reserveGuests_sound (State.clearMarks_sound h)
  rw [show s1.forme c = s.forme c from hforme, show s1.ordinal c = s.ordinal c from State.ordinal_congr hforme hnode]
  have hadd : (s1.addJoin c (s.ordinal c) (fhHeaderDigest (s.forme c))).chase c = { s1.chase c with
      joined := kvPut (s1.chase c).joined (s.ordinal c) (fhHeaderDigest (s.forme c)), joinedAt := s1.now } := State.chase_updChase hs1 hc _
  have hjoined : (s1.chase c).joined = (s.chase c).joined := congrArg ChaseCore.joined hcore1
  have hprior : (s1.chase c).priorIdle = (s.chase c).priorIdle := congrArg ChaseCore.priorIdle hcore1
  rw [State.priorIdle_core (State.sendAll_core ..), State.forme_core (State.sendAll_core ..),
    State.joined_core (State.sendAll_core ..), hadd, ← hjoined, ← hprior]
  exact ⟨rfl, hforme, rfl⟩

end JoinsOwn

/-- A slot whose record a start has set up (R92, R96, R104). -/
structure State.StartSet (s : State) (c : Nat) (u : State) : Prop where
  cs : u.cs c = csJoining
  fault : u.getF Fld.stkFault c = 0
  slips : u.getF Fld.stkConsecSlips c = 0
  parked : u.getF Fld.stkParked c = 0
  prior : (u.chase c).priorIdle = s.cs c
  joined : (u.chase c).joined = (s.chase c).joined
  forme : u.forme c = s.forme c
  ordinal : u.ordinal c = s.ordinal c
  tickets : u.host.tickets = s.host.tickets
  marks : u.marks = s.marks

/-- A start with its regions valid sets its record up, joins, and checks the joins it has heard (R98). -/
theorem State.startChase_joins {s : State} {x : Ticket} (h : s.Sound q) (hc : tkSlot x.raw < 16)
    (hcs : s.cs (tkSlot x.raw) = csLoaded ∨ s.cs (tkSlot x.raw) = csFaulted) (hfatal : s.flag Fld.rasFatal 0 = false)
    (hgone : s.regionsGone (tkSlot x.raw) = false) :
    ∃ u, s.startChase x = (u.joinsOwn (tkSlot x.raw)).checkJoin (tkSlot x.raw) ∧ u.Sound q ∧ s.StartSet (tkSlot x.raw) u := by
  have hidle : ((s.cs (tkSlot x.raw) != csLoaded && s.cs (tkSlot x.raw) != csFaulted) || s.flag Fld.rasFatal 0) = false := by
    rcases hcs with hcs | hcs <;> simp [hcs, hfatal]
  unfold State.startChase
  extract_lets c s1 none s2 s3 digest s4
  rw [if_neg (by simp [hidle, c]), if_neg (by simp [hgone, c])]
  have hs1 : s1.Sound q := State.setFs_sound h
  have hkept : (s2.chase c).priorIdle = s.cs c ∧ (s2.chase c).joined = (s.chase c).joined ∧
      (s2.chase c).forme = (s.chase c).forme := by
    rw [State.chase_updChase hs1 hc, State.chase_congr (s := s) (State.setFs_chases ..)]
    exact ⟨rfl, rfl, rfl⟩
  obtain ⟨hprior, hjoined, hforme⟩ := hkept
  have hordinal : s2.ordinal c = s.ordinal c := State.ordinal_congr hforme (State.getF_setFs_of_clear h (by decide) rfl)
  have hget (f : Field) : s2.getF f c = s1.getF f c := State.updChase_getF ..
  have hjoins : s4 = s2.joinsOwn c := rfl
  refine ⟨s2, by rw [hjoins], State.updChase_sound hs1, ⟨?_, ?_, ?_, ?_, hprior, hjoined, hforme, hordinal, ?_, ?_⟩⟩
  · exact (hget _).trans (State.getF_setFs h ⟨by decide, by decide, hc⟩ [] _ rfl rfl)
  · exact (hget _).trans (State.getF_setFs h ⟨by decide, by decide, hc⟩ [_] _ rfl rfl)
  · exact (hget _).trans (State.getF_setFs h ⟨by decide, by decide, hc⟩ [_, _] _ rfl rfl)
  · exact (hget _).trans (State.getF_setFs h ⟨by decide, by decide, hc⟩ [_, _, _] _ rfl rfl)
  · rw [State.updChase_host, State.setFs_host]
  · rw [State.updChase_marks, State.setFs_marks]

/-- A slot whose member has joined (R98): its state, and what a start leaves of its record. -/
structure State.StartBegun (s : State) (c : Nat) (v : State) : Prop where
  cs : v.cs c = csJoining
  fault : v.getF Fld.stkFault c = 0
  slips : v.getF Fld.stkConsecSlips c = 0
  parked : v.getF Fld.stkParked c = 0
  ctx : v.activeCtx c = 0
  prior : (v.chase c).priorIdle = s.cs c
  forme : v.forme c = s.forme c
  joined : (v.chase c).joined = kvPut (s.chase c).joined (s.ordinal c) (fhHeaderDigest (s.forme c))

theorem State.StartSet.joinsOwn {s u : State} {c : Nat} (hu : s.StartSet c u) (h : u.Sound q) (hc : c < 16) :
    s.StartBegun c (u.joinsOwn c) := by
  have hframe := State.joinsOwn_status (c := c) h
  obtain ⟨hprior, hforme, hjoined⟩ := State.joinsOwn_chase h hc
  rw [hu.joined, hu.ordinal, hu.forme] at hjoined
  exact ⟨(State.getF_of_frame hframe hc rfl).trans hu.cs, (State.getF_of_frame hframe hc rfl).trans hu.fault,
    (State.getF_of_frame hframe hc rfl).trans hu.slips, (State.getF_of_frame hframe hc rfl).trans hu.parked,
    State.joinsOwn_activeCtx h hc, hprior.trans hu.prior, hforme.trans hu.forme, hjoined⟩

section Start
variable {s : State} {ring seq : Nat} {x : Ticket} (h : s.Sound q) (hturn : s.atTurn ring seq 0x02 x)

include hturn in
theorem exec_chaseStart : exec (.chaseStart ring seq) s = .next ((s.turnTaken ring seq).startChase x) :=
  congrArg Host.Outcome.next (State.ticketAct_of_atTurn hturn _)

include h hturn

/-- A start whose regions are gone leaves the slot FAULTED (R96). -/
theorem chaseStart_gone (hcs : s.cs (tkSlot x.raw) = csLoaded ∨ s.cs (tkSlot x.raw) = csFaulted) (hfatal : s.flag Fld.rasFatal 0 = false)
    (hgone : s.regionsGone (tkSlot x.raw) = true) :
    ∃ t, exec (.chaseStart ring seq) s = .next t ∧ t.cs (tkSlot x.raw) = csFaulted ∧
      t.ticketEnds ring seq stChase (dForme veRegionInvalid 1 (s.regionsOff (tkSlot x.raw))) := by
  have hidle : (((s.turnTaken ring seq).cs (tkSlot x.raw) != csLoaded && (s.turnTaken ring seq).cs (tkSlot x.raw) != csFaulted) ||
      (s.turnTaken ring seq).flag Fld.rasFatal 0) = false := by
    show ((s.cs (tkSlot x.raw) != csLoaded && s.cs (tkSlot x.raw) != csFaulted) || s.flag Fld.rasFatal 0) = false
    rcases hcs with hcs | hcs <;> simp [hcs, hfatal]
  have hgone' : (s.turnTaken ring seq).regionsGone (tkSlot x.raw) = true := hgone
  have hstart : (s.turnTaken ring seq).startChase x = (s.turnTaken ring seq).failStart (tkSlot x.raw) veRegionInvalid 1
      ((s.turnTaken ring seq).regionsOff (tkSlot x.raw)) csFaulted := by
    unfold State.startChase
    rw [if_neg (by simp [hidle]), if_pos hgone']
  refine ⟨_, exec_chaseStart hturn, ?_⟩
  rw [hstart]
  exact ⟨State.failStart_cs (State.updTicket_sound h) (hturn.slot_lt rfl) (by decide),
    State.ticketEnds_failStart (State.ticket?_turnTaken hturn.begun) rfl hturn.fresh.2 hturn.opcode rfl⟩

variable (hcs : s.cs (tkSlot x.raw) = csLoaded ∨ s.cs (tkSlot x.raw) = csFaulted) (hfatal : s.flag Fld.rasFatal 0 = false)
  (hgone : s.regionsGone (tkSlot x.raw) = false)
include hcs hfatal hgone

theorem State.turnTaken_joins :
    ∃ v, (s.turnTaken ring seq).startChase x = v.checkJoin (tkSlot x.raw) ∧ v.Sound q ∧ s.StartBegun (tkSlot x.raw) v ∧
      v.ticket? ring seq = some { x with acted := true } := by
  have hc := hturn.slot_lt rfl
  obtain ⟨u, hu, hs, hset⟩ := State.startChase_joins (x := x) (s := s.turnTaken ring seq) (State.updTicket_sound h) hc hcs hfatal hgone
  have hbegun := hset.joinsOwn hs hc
  refine ⟨_, hu, State.joinsOwn_sound hs, ⟨hbegun.cs, hbegun.fault, hbegun.slips, hbegun.parked, hbegun.ctx, hbegun.prior,
    hbegun.forme, hbegun.joined⟩, ?_⟩
  rw [State.joinsOwn_ticket? (State.unmarked_congr (s := s) hset.marks hturn.unmarked), State.ticket?_congr hset.tickets]
  exact State.ticket?_turnTaken hturn.begun

/-- A start with every join so far of its own digest goes on in JOINING (R98, R104). -/
theorem chaseStart_joining (hall : ∀ j ∈ (s.chase (tkSlot x.raw)).joined, j.2 = fhHeaderDigest (s.forme (tkSlot x.raw))) :
    ∃ t, exec (.chaseStart ring seq) s = .next t ∧ t.underWay ring seq ∧ t.cs (tkSlot x.raw) = csJoining ∧
      t.getF Fld.stkFault (tkSlot x.raw) = 0 ∧ t.getF Fld.stkConsecSlips (tkSlot x.raw) = 0 ∧
      t.flag Fld.stkParked (tkSlot x.raw) = false ∧ t.activeCtx (tkSlot x.raw) = 0 := by
  have hc := hturn.slot_lt rfl
  obtain ⟨v, hv, hs, hbegun, hticket⟩ := State.turnTaken_joins h hturn hcs hfatal hgone
  have hm : v.mismatch (tkSlot x.raw) = false := by
    rw [State.mismatch_eq_false, hbegun.forme, hbegun.joined]
    exact forall_kvPut (P := (· = _)) rfl hall
  have hframe : State.Frame (maskBut [.sysChaseStatus, .stkStatus, .mrkCtx] [.host]) v (v.fixStart (tkSlot x.raw)) :=
    State.fixStart_frame hs.frame rfl
  have hhost : (v.fixStart (tkSlot x.raw)).host = v.host := hframe.parts .host rfl
  refine ⟨_, exec_chaseStart hturn, ?_⟩
  rw [hv, State.checkJoin_of_match hbegun.cs hm]
  refine ⟨hturn.underWay ((State.ticket?_congr (congrArg HostSt.tickets hhost) ..).trans hticket), ?_, ?_, ?_, ?_, ?_⟩
  · exact (State.getF_of_frame hframe hc rfl).trans hbegun.cs
  · exact (State.getF_of_frame hframe hc rfl).trans hbegun.fault
  · exact (State.getF_of_frame hframe hc rfl).trans hbegun.slips
  · have hparked := (State.getF_of_frame (f := Fld.stkParked) hframe hc rfl).trans hbegun.parked
    simp [State.flag, hparked]
  · exact (State.getF_of_frame hframe hc rfl).trans hbegun.ctx

/-- A start that finds another digest among its joins ends in its former state (R99). -/
theorem chaseStart_mismatch (hother : ∃ j ∈ (s.chase (tkSlot x.raw)).joined, j.1 ≠ s.ordinal (tkSlot x.raw) ∧
      j.2 ≠ fhHeaderDigest (s.forme (tkSlot x.raw))) :
    ∃ t, exec (.chaseStart ring seq) s = .next t ∧ t.ticketEnds ring seq stChase (dForme vePeerMismatch 0 0) ∧
      t.cs (tkSlot x.raw) = s.cs (tkSlot x.raw) := by
  obtain ⟨v, hv, hs, hbegun, hticket⟩ := State.turnTaken_joins h hturn hcs hfatal hgone
  obtain ⟨j, hj, hmember, hdigest⟩ := hother
  have hm : v.mismatch (tkSlot x.raw) = true := by
    rw [State.mismatch_iff, hbegun.forme, hbegun.joined]
    exact ⟨j, mem_kvPut_of_mem hj hmember, hdigest⟩
  refine ⟨_, exec_chaseStart hturn, ?_⟩
  rw [hv, State.checkJoin_of_mismatch hbegun.cs hm, hbegun.prior]
  exact ⟨State.ticketEnds_failStart hticket rfl hturn.fresh.2 hturn.opcode rfl,
    State.failStart_cs hs (hturn.slot_lt rfl) (by rcases hcs with hcs | hcs <;> rw [hcs] <;> decide)⟩

end Start

/-! ### CHASE_STOP -/

theorem State.stopStroke_eq (s : State) (c : Nat) :
    s.stopStroke c = min (s.getF Fld.stkNumber c + 2) ((s.chase c).stopAt.getD (s.getF Fld.stkNumber c + 2)) := by
  unfold State.stopStroke
  cases (s.chase c).stopAt with
  | none => exact (Nat.min_self _).symm
  | some m => exact Nat.min_comm ..

section ChaseStop
variable {s : State} {ring seq : Nat} {x : Ticket} (h : s.Sound q) (hturn : s.atTurn ring seq 0x03 x)

include hturn in
theorem exec_chaseStop : exec (.chaseStop ring seq) s = .next ((s.turnTaken ring seq).stopChase x) :=
  congrArg Host.Outcome.next (State.ticketAct_of_atTurn hturn _)

include h hturn

/-- A JOINING chase that stops is LOADED (R101). -/
theorem chaseStop_joining (hcs : s.cs (tkSlot x.raw) = csJoining) :
    ∃ t, exec (.chaseStop ring seq) s = .next t ∧ t.ticketEnds ring seq stOk (dValue 0 0) ∧ t.cs (tkSlot x.raw) = csLoaded ∧
      (t.chase (tkSlot x.raw)).joined = [] ∧ (t.chase (tkSlot x.raw)).startStroke = none := by
  have hc := hturn.slot_lt rfl
  have hcs' : (s.turnTaken ring seq).cs (tkSlot x.raw) = csJoining := hcs
  have htaken : (s.turnTaken ring seq).Sound q := State.updTicket_sound h
  refine ⟨_, exec_chaseStop hturn, ?_⟩
  unfold State.stopChase
  extract_lets c s1 n
  rw [if_pos hcs']
  have hset : ((s.turnTaken ring seq).setF Fld.sysChaseState c csLoaded).Sound q := State.setF_sound htaken
  have hs1 : s1.Sound q := State.updChase_sound hset
  have hend : (s1.endStart c stChaseEnded (s1.dEnd c)).Sound q := State.endStart_sound hs1
  have hcore : ((s1.endStart c stChaseEnded (s1.dEnd c)).freeAllDraining c).core = (s1.endStart c stChaseEnded (s1.dEnd c)).core :=
    State.freeAllDraining_core ..
  have hcs1 : s1.cs c = csLoaded := State.getF_setF htaken ⟨by decide, by decide, hc⟩
  have hjoined : (s1.chase c).joined = [] ∧ (s1.chase c).startStroke = none := by
    rw [State.chase_updChase hset hc]
    exact ⟨rfl, rfl⟩
  have hticket1 : s1.ticket? ring seq = some { x with acted := true } :=
    (State.ticket?_congr (congrArg HostSt.tickets (State.setF_host ..)) ..).trans (State.ticket?_turnTaken hturn.begun)
  have hop : tkOpcode x.raw ≠ tkChaseStart := by rw [hturn.opcode]; decide
  have hticket : ((s1.endStart c stChaseEnded (s1.dEnd c)).freeAllDraining c).ticket? ring seq = some { x with acted := true } := by
    rw [State.ticket?_congr (State.tickets_core hcore), State.endStart, State.ticket?_finishWhere, hticket1]
    simp [hop]
  refine ⟨hturn.done hticket _ _, ?_, ?_, ?_⟩
  · exact (State.getF_of_frame (State.freeAllDraining_frame (M := maskBut [.sysChaseStatus] []) (State.endStart_frame hs1.frame rfl) rfl)
      hc rfl).trans hcs1
  · exact (State.joined_core hcore c).trans hjoined.1
  · exact (State.startStroke_core hcore c).trans hjoined.2

omit h hturn in
theorem State.stopChase_running (hcs : s.cs (tkSlot x.raw) = csRunning) :
    (s.turnTaken ring seq).stopChase x = ((s.turnTaken ring seq).sendAll (tkSlot x.raw) ctlStop
      (words [s.ordinal (tkSlot x.raw), s.getF Fld.stkNumber (tkSlot x.raw) + 2])).setStop (tkSlot x.raw)
      (s.getF Fld.stkNumber (tkSlot x.raw) + 2) := by
  have hcs' : (s.turnTaken ring seq).cs (tkSlot x.raw) = csRunning := hcs
  unfold State.stopChase
  extract_lets c s1 n
  rw [if_neg (by rw [hcs']; decide), if_pos hcs']
  rfl

/-- A RUNNING chase that stops tells the members, and takes its stop stroke (R101, R102, R132). -/
theorem chaseStop_running (hcs : s.cs (tkSlot x.raw) = csRunning) :
    ∃ u : State, exec (.chaseStop ring seq) s = .next (u.setStop (tkSlot x.raw) (s.getF Fld.stkNumber (tkSlot x.raw) + 2)) ∧
      u.Sound q ∧ u.chase (tkSlot x.raw) = s.chase (tkSlot x.raw) ∧ u.ticket? ring seq = some { x with acted := true } := by
  have htaken : (s.turnTaken ring seq).Sound q := State.updTicket_sound h
  have hsent := State.sendAll_sameBut htaken.rise (tkSlot x.raw) ctlStop
    (words [s.ordinal (tkSlot x.raw), s.getF Fld.stkNumber (tkSlot x.raw) + 2])
  refine ⟨_, (exec_chaseStop hturn).trans (congrArg Host.Outcome.next (State.stopChase_running hcs)),
    State.sendAll_sound htaken, ?_, ?_⟩
  · exact State.chase_congr (s := s) (hsent.part (p := .chases) (by simp)) _
  · exact (State.ticket?_congr (State.tickets_core (State.sendAll_core ..)) ..).trans (State.ticket?_turnTaken hturn.begun)

/-- A RUNNING chase that stops strikes on to its stop stroke (R101, R102). -/
theorem chaseStop_stopping (hcs : s.cs (tkSlot x.raw) = csRunning)
    (hgo : ∀ m b, (s.chase (tkSlot x.raw)).verdict = some (m, b) → m < s.stopStroke (tkSlot x.raw)) :
    ∃ t, exec (.chaseStop ring seq) s = .next t ∧ t.underWay ring seq ∧ t.cs (tkSlot x.raw) = csStopping ∧
      (t.chase (tkSlot x.raw)).stopAt = some (s.stopStroke (tkSlot x.raw)) := by
  have hc := hturn.slot_lt rfl
  obtain ⟨u, hexec, hu, hchase, hticket⟩ := chaseStop_running h hturn hcs
  rw [State.stopStroke_eq, ← hchase] at hgo
  obtain ⟨hstop, hat⟩ := State.setStop_stopping hu hc hgo
  refine ⟨_, hexec, hturn.underWay ?_, hstop, by rw [hat, hchase, State.stopStroke_eq]⟩
  rw [State.setStop_of_later hu hc hgo]
  exact (State.ticket?_congr (congrArg HostSt.tickets (State.setF_host ..)) ..).trans hticket

/-- A RUNNING chase that holds a GO for its stop stroke or a later one stops at once (R132). -/
theorem chaseStop_loaded {m b : Nat} (hcs : s.cs (tkSlot x.raw) = csRunning)
    (hv : (s.chase (tkSlot x.raw)).verdict = some (m, b)) (hgo : s.stopStroke (tkSlot x.raw) ≤ m) :
    ∃ t, exec (.chaseStop ring seq) s = .next t ∧ t.ticketEnds ring seq stOk (dValue (s.stopStroke (tkSlot x.raw)) 0) ∧
      t.cs (tkSlot x.raw) = csLoaded ∧ (t.chase (tkSlot x.raw)).stopAt = none ∧ (t.chase (tkSlot x.raw)).verdict = none := by
  have hc := hturn.slot_lt rfl
  obtain ⟨u, hexec, hu, hchase, hticket⟩ := chaseStop_running h hturn hcs
  rw [State.stopStroke_eq, ← hchase] at hgo
  obtain ⟨hl, hstop, hverdict, hends⟩ := State.setStop_loaded hu hc (hchase ▸ hv) hgo
  rw [State.stopStroke_eq, ← hchase]
  exact ⟨_, hexec, hends ring seq _ hticket rfl hturn.fresh.2 hturn.opcode rfl, hl, hstop, hverdict⟩

end ChaseStop

/-! ### Slots in any other state -/

/-- A ticket that the state of its slot does not allow completes with CHASE_BUSY and does nothing else (R93). -/
theorem busy_ends {s : State} {ring seq op : Nat} {x : Ticket} (h : s.atTurn ring seq op x) (l : List HbmXfer) :
    (((s.turnTaken ring seq).busy x).xfersStop l).ticketEnds ring seq stChase (dForme veChaseBusy 0 0) ∧
      State.SameBut [] [.host] (s.xfersStop l) (((s.turnTaken ring seq).busy x).xfersStop l) :=
  ⟨State.ticketEnds_xfersStop (h.done (State.ticket?_turnTaken h.begun) _ _), State.turnTaken_done_sameBut ..⟩

theorem chaseTicket_busy {s u : State} {ring seq op : Nat} {c : Instr} {x : Ticket} {hbm : List HbmXfer} (hu : u = s.xfersStart hbm)
    (hc : TicketSays ring seq c hbm op) (h : u.atTurn ring seq op x)
    (hcs : (op = 0x01 ∧ u.cs (tkSlot x.raw) ≠ csEmpty ∧ u.cs (tkSlot x.raw) ≠ csLoaded ∧ u.cs (tkSlot x.raw) ≠ csFaulted) ∨
      (op = 0x02 ∧ ((u.cs (tkSlot x.raw) ≠ csLoaded ∧ u.cs (tkSlot x.raw) ≠ csFaulted) ∨ u.flag Fld.rasFatal 0 = true)) ∨
      (op = 0x03 ∧ u.cs (tkSlot x.raw) ≠ csJoining ∧ u.cs (tkSlot x.raw) ≠ csRunning) ∨
      (op = 0x04 ∧ u.cs (tkSlot x.raw) ≠ csLoaded ∧ u.cs (tkSlot x.raw) ≠ csFaulted)) :
    exec c s = .next (((u.turnTaken ring seq).busy x).xfersStop hbm) := by
  subst hu
  rcases hcs with ⟨rfl, hempty, hload, hfault⟩ | ⟨rfl, hidle⟩ | ⟨rfl, hjoin, hrun⟩ | ⟨rfl, hload, hfault⟩ <;> cases hc
  · exact congrArg (fun t => Host.Outcome.next (State.xfersStop t hbm)) ((State.ticketAct_of_atTurn h _).trans
      (if_neg (not_or.2 ⟨hempty, not_or.2 ⟨hload, hfault⟩⟩)))
  · have hbusy : ((s.cs (tkSlot x.raw) != csLoaded && s.cs (tkSlot x.raw) != csFaulted) || s.flag Fld.rasFatal 0) = true := by
      simpa [State.xfersStart] using hidle
    exact congrArg Host.Outcome.next ((State.ticketAct_of_atTurn h _).trans (if_pos hbusy))
  · exact congrArg Host.Outcome.next ((State.ticketAct_of_atTurn h _).trans ((if_neg hjoin).trans (if_neg hrun)))
  · exact congrArg Host.Outcome.next ((State.ticketAct_of_atTurn h _).trans (if_neg (not_or.2 ⟨hload, hfault⟩)))

/-- Settles O33: what NOP and the chase tickets FORME_LOAD, CHASE_START and CHASE_STOP leave, by the state of the slot. -/
theorem chaseTicketsAct : Obligations.ChaseTicketsAct := by
  unfold Obligations.ChaseTicketsAct
  refine ⟨fun ring seq x s hs h => nop_ends h, fun ring seq x hbm s u hs hu h hcs f bad s1 hread => ?_,
    fun ring seq x s hs h hcs hfatal => ?_, fun ring seq x s hs h => ?_, fun ring seq op c x hbm s u hs hu hc h hcs => ?_⟩
  · exact formeLoad_ends (State.sound_of_canonical hs) hu h hcs hread
  · have hsound := State.sound_of_canonical hs
    exact ⟨chaseStart_joining hsound h hcs hfatal, chaseStart_mismatch hsound h hcs hfatal, chaseStart_gone hsound h hcs hfatal⟩
  · have hsound := State.sound_of_canonical hs
    exact ⟨chaseStop_joining hsound h, chaseStop_stopping hsound h, fun m b => chaseStop_loaded hsound h⟩
  · exact ⟨_, chaseTicket_busy hu hc h hcs, busy_ends h hbm⟩

end Sys2Proof.Machine
end

section
/-! SUPPORT. Strokes: time that passes for a chase, what marks and samples leave, the end of a member's work, the strokes begun
(R112, R120 to R124, R536, R694, R742). -/

namespace Sys2Proof.Machine

variable {q : List Instr}

/-! ### Time that passes for a chase (R112, R742) -/

theorem State.chase_updChase_ne {s : State} {c k : Nat} (h : k ≠ c) (f : ChaseSt → ChaseSt) :
    (s.updChase k f).chase c = s.chase c := by
  simp [State.updChase, State.setChase, State.chase, List.getD, h]

/-- A chase with no step of the counter to adopt is the same after time has passed. -/
theorem State.adoptStep_chase {s : State} {c : Nat} (h : (s.chase c).pendingStep = none) (k : Nat) :
    (s.adoptStep k).chase c = s.chase c := by
  unfold State.adoptStep
  split
  · rfl
  · next d hd =>
    have hne : k ≠ c := fun hk => by simp [hk, h] at hd
    extract_lets x b past moved s1
    have h1 : s1.chase c = s.chase c := State.chase_updChase_ne hne _
    split
    · rfl
    · split
      · exact h1
      · exact (State.chase_congr (by simp [State.bumpWrap]) c).trans h1

/-- Adopting a step changes of STK_STATUS its slip bit alone. -/
theorem State.adoptStep_status {s : State} (h : s.Sound q) {f : Field} {c : Nat} (hf : f.reg = .stkStatus) (hc : c < 16)
    (hclear : clearOf f [(Fld.stkSlipping, 1)] = true) (k : Nat) : (s.adoptStep k).getF f c = s.getF f c := by
  have hi : c < f.reg.info.count := by rw [hf]; exact hc
  unfold State.adoptStep
  split
  · rfl
  · extract_lets x b past moved s1
    have hs1 : s1.Sound q := State.updChase_sound h
    have hbump : (s1.bumpWrap Fld.stkSlipStep k past).Sound q := State.bumpWrap_sound hs1
    have hkept : (s1.bumpWrap Fld.stkSlipStep k past).getF f c = s1.getF f c :=
      State.getF_setF_apart hs1 (by decide) hi (.inl (by rw [hf]; decide))
    split
    · rfl
    · split
      · rfl
      · exact (State.getF_setFs_of_clear (l := [(Fld.stkSlipping, 1)]) hbump hi hclear).trans hkept

section PassTo
variable {s : State} (h : s.Sound q)
include h

theorem State.passTo_chase {c : Nat} (hnone : (s.chase c).pendingStep = none) (t : Nat) : (s.passTo t).chase c = s.chase c := by
  obtain ⟨u, hu, hchases, -⟩ := State.passTo_counts h t
  rw [hu, ← State.chase_congr hchases c]
  refine State.adoptSteps_induct (P := fun v => v.chase c = u.chase c) rfl fun v k hv => (State.adoptStep_chase ?_ k).trans hv
  rw [hv, State.chase_congr hchases c]
  exact hnone

theorem State.passTo_status {f : Field} {c : Nat} (hf : f.reg = .stkStatus) (hc : c < 16)
    (hclear : clearOf f [(Fld.stkSlipping, 1)] = true) (t : Nat) : (s.passTo t).getF f c = s.getF f c := by
  obtain ⟨u, hu, -, hs, hrd⟩ := State.passTo_counts h t
  have hget : u.getF f c = s.getF f c := State.getF_of_rd (by rw [hf]; exact hrd c hc)
  rw [hu, ← hget]
  exact (State.adoptSteps_induct (P := fun v => v.Sound q ∧ v.getF f c = u.getF f c) ⟨hs, rfl⟩ fun v k hv =>
    ⟨State.adoptStep_sound hv.1, (State.adoptStep_status hv.1 hf hc hclear k).trans hv.2⟩).2

variable (c : Nat) (due : State → Nat)

/-- Time passes once, or twice where a boundary comes before. -/
theorem State.chaseDue_passes : ∃ s1 : State, (s1 = s ∨ ∃ t, (s.chase c).pendingStep.isSome = true ∧ s1 = s.passTo t) ∧
    s1.Sound q ∧ ∃ t, s.chaseDue c due = s1.passTo t := by
  unfold State.chaseDue
  extract_lets b s1
  refine ⟨s1, ?_, ?_, _, rfl⟩ <;> simp only [s1] <;> split
  · next hb =>
    rw [Bool.and_eq_true] at hb
    exact .inr ⟨_, hb.1, rfl⟩
  · exact .inl rfl
  · exact State.passTo_sound h
  · exact h

theorem State.chaseDue_timeless : (s.chaseDue c due).chases.map ChaseSt.timeless = s.chases.map ChaseSt.timeless := by
  obtain ⟨s1, hs1, hsound, t, ht⟩ := State.chaseDue_passes h c due
  rw [ht, State.passTo_timeless hsound]
  rcases hs1 with rfl | ⟨t1, -, rfl⟩
  · rfl
  · exact State.passTo_timeless h t1

theorem State.chaseDue_chase (hnone : (s.chase c).pendingStep = none) : (s.chaseDue c due).chase c = s.chase c := by
  obtain ⟨s1, hs1, hsound, t, ht⟩ := State.chaseDue_passes h c due
  rcases hs1 with rfl | ⟨t1, hsome, -⟩
  · rw [ht]; exact State.passTo_chase hsound hnone t
  · simp [hnone] at hsome

theorem State.chaseDue_status {f : Field} (hf : f.reg = .stkStatus) (hc : c < 16) (hclear : clearOf f [(Fld.stkSlipping, 1)] = true) :
    (s.chaseDue c due).getF f c = s.getF f c := by
  obtain ⟨s1, hs1, hsound, t, ht⟩ := State.chaseDue_passes h c due
  rw [ht, State.passTo_status hsound hf hc hclear]
  rcases hs1 with rfl | ⟨t1, -, rfl⟩
  · rfl
  · exact State.passTo_status h hf hc hclear t1

/-- Time that passes leaves every register but those of status, slips, time and the mailbox. -/
theorem State.chaseDue_getF {f : Field} {i : Nat} (hi : i < f.reg.info.count)
    (hf : f.reg ∉ [RegName.stkStatus, .stkSlips, .timeNs, .secMbCtrl]) : (s.chaseDue c due).getF f i = s.getF f i :=
  have hsame : State.SameBut [.stkStatus, .stkSlips, .timeNs, .secMbCtrl] [.upNs, .chases, .time] s (s.chaseDue c due) :=
    (State.chaseDue_frame (State.Frame.refl h.rise) (Nat.or_self _)).sameBut rfl
  hsame.getF hi hf

end PassTo

/-! ### LATE_RUN -/

theorem lateRun_counted {s : State} {c : Nat} (h : s.Sound q) (hready : s.isReady = true) (hc : c < 16) (hcs : s.csStriking c = true)
    (hphase : s.getF Fld.stkPhase c = 2) (hdist : (s.chase c).inDist = false) (hfin : (s.chase c).finished = false)
    (hlate : (s.chase c).lateCounted = false) :
    ∃ t, exec (.lateRun c) s = .next t ∧ t.getF Fld.stkLateRun c = (s.getF Fld.stkLateRun c + 1) % 2 ^ 32 ∧
      (t.chase c).lateCounted = true := by
  have hdue : (s.chaseDue c fun s => s.distAt c + 1).Sound q := State.chaseDue_sound h
  have hbump : ((s.chaseDue c fun s => s.distAt c + 1).bumpWrap Fld.stkLateRun c 1).Sound q := State.bumpWrap_sound hdue
  refine ⟨_, congrArg Host.Outcome.next (State.ifB_true (by simp [hready, hcs, hphase, hdist, hfin, hlate]) _), ?_, ?_⟩
  · rw [State.updChase_getF]
    refine (State.getF_setF hdue ⟨by decide, by decide, hc⟩).trans ?_
    rw [State.chaseDue_getF h c _ hc (by simp [Fld.stkLateRun])]
    exact Nat.mod_mod _ _
  · rw [State.chase_updChase hbump hc]

theorem lateRun_counted_once {s : State} {c : Nat} (hlate : (s.chase c).lateCounted = true) : exec (.lateRun c) s = .next s :=
  congrArg Host.Outcome.next (State.ifB_false (by simp [hlate]) _)

/-! ### What marks and samples leave (R536, R694) -/

/-- An update that leaves the outcome of a ticket that is done leaves every outcome. -/
theorem State.ticketEnds.updTicket {s : State} {ring seq st : Nat} {d : Bytes} (h : s.ticketEnds ring seq st d) (ring' seq' : Nat)
    {f : Ticket → Ticket} (hf : ∀ x, (f x).ring = x.ring ∧ (f x).seq = x.seq)
    (hdone : ∀ x, x.done = true → (f x).done = true ∧ (f x).status = x.status ∧ (f x).detail = x.detail) :
    (s.updTicket ring' seq' f).ticketEnds ring seq st d := by
  obtain ⟨x, hx, hxd, hst, hdt⟩ := h
  by_cases hself : (ring', seq') = (ring, seq)
  · obtain ⟨rfl, rfl⟩ := Prod.mk.inj hself
    obtain ⟨hfd, hfst, hfdt⟩ := hdone x hxd
    exact ⟨f x, by rw [State.ticket?_updTicket hf, hx]; rfl, hfd, hfst.trans hst, hfdt.trans hdt⟩
  · exact ⟨x, (State.ticket?_updTicket_ne hf hself).trans hx, hxd, hst, hdt⟩

theorem State.ticketEnds.finishTicket {s : State} {ring seq st : Nat} {d : Bytes} (h : s.ticketEnds ring seq st d)
    (ring' seq' st' : Nat) (d' : Bytes) : (s.finishTicket ring' seq' st' d').ticketEnds ring seq st d :=
  h.updTicket ring' seq' (fun x => ⟨State.outcome_ring .., State.outcome_seq ..⟩) fun x hx => by
    rw [State.outcome_of_done s st' d' hx]
    exact ⟨hx, rfl, rfl⟩

/-- A later state of a stroke: the cores of the slots are the same, and what ended has ended. -/
structure State.Later (s t : State) : Prop where
  cores : t.chases.map ChaseSt.core = s.chases.map ChaseSt.core
  ends : ∀ {ring seq st : Nat} {d : Bytes}, s.ticketEnds ring seq st d → t.ticketEnds ring seq st d

theorem State.Later.refl (s : State) : State.Later s s := ⟨rfl, id⟩

theorem State.Later.trans {a b c : State} (h1 : State.Later a b) (h2 : State.Later b c) : State.Later a c :=
  ⟨h2.cores.trans h1.cores, fun h => h2.ends (h1.ends h)⟩

theorem State.Later.of_core {s t : State} (h : t.core = s.core) : State.Later s t :=
  ⟨congrArg Prod.fst h, (State.ticketEnds_congr (State.tickets_core h)).2⟩

/-- What has the core of a later state is later. -/
theorem State.Later.then_core {s t u : State} (h : State.Later s t) (hu : u.core = t.core) : State.Later s u := h.trans (.of_core hu)

theorem State.Later.foldl {α : Type} {f : State → α → State} (hf : ∀ s a, State.Later s (f s a)) (l : List α) (s : State) :
    State.Later s (l.foldl f s) := by
  induction l generalizing s with
  | nil => exact .refl s
  | cons a l ih => exact (hf s a).trans (ih (f s a))

theorem State.finishTicket_later (s : State) (ring seq st : Nat) (d : Bytes) : State.Later s (s.finishTicket ring seq st d) :=
  ⟨rfl, fun h => h.finishTicket ..⟩

theorem State.serveWait_later (s : State) (n : Nat) (w : MarkWait) : State.Later s (s.serveWait n w) := by
  cases w with
  | plate c f => exact .of_core (State.wakePlate_core ..)
  | ticket ring seq f => exact State.finishTicket_later ..

theorem State.consume_core (s : State) (n : Nat) (l : List MarkWait) : (s.consume n l).core = s.core := by
  induction l generalizing s with
  | nil => rfl
  | cons w l ih =>
    cases w with
    | plate c f =>
      unfold State.consume
      split
      · rw [ih]; simp
      · rfl
    | ticket ring seq f => exact ih s

theorem State.serveMark_later (s : State) (n : Nat) : State.Later s (s.serveMark n) := by
  unfold State.serveMark
  extract_lets b p now s1 s2
  have h1 : State.Later s s1 := .of_core rfl
  have h2 : State.Later s s2 := h1.trans (.foldl (fun s w => s.serveWait_later n w) now s1)
  refine h2.then_core ?_
  rw [State.postWaiters, State.setF_core]
  split
  · rfl
  · exact State.consume_core ..

theorem State.clearMark_later (s : State) (n : Nat) : State.Later s (s.clearMark n) := by
  have hwait (u : State) (w : MarkWait) : State.Later u (u.waitCleared n w) := by
    cases w with
    | plate c f => exact .refl u
    | ticket ring seq f => exact State.finishTicket_later ..
  rw [State.clearMark_eq]
  exact (((State.Later.of_core (State.setFs_core ..)).trans (.foldl hwait _ _)).then_core (State.updMark_core ..)).then_core
    (State.setF_core ..)

theorem State.realign_later (s : State) (c : Nat) : State.Later s (s.realign c) := by
  refine (State.Later.of_core (by simp : (s.bump Fld.mrkRaPoints c 1).core = s.core)).trans (.foldl (fun u n => ?_) _ _)
  extract_lets v
  split
  · exact .refl u
  · exact (State.Later.of_core (by simp)).trans (State.serveMark_later ..)

theorem State.switchCtx_later (s : State) (c ctx : Nat) : State.Later s (s.switchCtx c ctx) :=
  (State.Later.foldl State.clearMark_later _ s).then_core ((State.setFs_core ..).trans (State.bump_core ..))

theorem State.markCommits_later (s : State) (c : Nat) : State.Later s (s.markCommits c) := by
  unfold State.markCommits
  extract_lets s1
  have h1 : State.Later s s1 := by
    simp only [s1]
    split
    · exact (State.realign_later s c).then_core (State.updChase_core _ _ fun _ => rfl)
    · exact .refl s
  split
  · exact h1.trans (State.switchCtx_later ..)
  · exact h1

/-! ### Samples at a lock-up (R157, R694) -/

theorem State.deliver_later (s : State) (t : Ticket) (dst : Nat) (bs : Bytes) (bad : List (Nat × Nat)) :
    State.Later s (s.deliver t dst bs bad).1 := by
  unfold State.deliver
  extract_lets s1 s2
  have h1 : State.Later s s1 := by
    simp only [s1]
    split
    · exact .refl s
    · exact ⟨rfl, fun h => h.updTicket _ _ (by simp) (by simp)⟩
  split
  · exact h1.then_core (State.hostPut_core ..)
  · refine h1.trans (State.Later.trans (b := s2) (.of_core (by simp [s2])) ⟨rfl, fun h => h.updTicket _ _ (by simp) (by simp)⟩)

theorem State.sampleDone_later (s : State) (c k : Nat) (x : SampleSt) (t : Ticket) : State.Later s (s.sampleDone c k x t) :=
  (State.Later.of_core (by simp)).trans (State.finishTicket_later ..)

theorem State.endCopies_later (s : State) : State.Later s s.endCopies := by
  refine .foldl (fun u e => ?_) _ _
  split
  · split
    · split
      · refine State.Later.trans ?_ (State.sampleDone_later ..)
        split
        · exact .of_core (State.drainResult_core ..)
        · exact .refl u
      · exact .refl u
    · exact .refl u
  · exact .refl u

theorem State.copyResult_later (s : State) (c k : Nat) (x : SampleSt) : State.Later s (s.copyResult c k x) := by
  unfold State.copyResult
  split
  · exact .of_core (by simp)
  · next t ht =>
    extract_lets o bs bad
    have hd := (State.Later.of_core (State.noteDma_core s c (sampleOut k) o)).trans
      (State.deliver_later (s.noteDma c (sampleOut k) o) t (s.resultRun t.raw).1 bs bad)
    split
    · next s1 hs1 =>
      rw [hs1] at hd
      exact hd.then_core (by simp)
    · next s1 hs1 =>
      rw [hs1] at hd
      exact (hd.then_core (by simp)).trans (State.finishTicket_later ..)

theorem State.bindSample_later (s : State) (c : Nat) (t : Ticket) : State.Later s (s.bindSample c t) := by
  unfold State.bindSample
  split
  next r s1 hfresh =>
  have h1 : State.Later s s1 := .of_core (by rw [← show (s.fresh).2 = s1 from congrArg Prod.snd hfresh]; rfl)
  split
  · exact h1
  · next k hk =>
    extract_lets i g
    have hw := h1.then_core (State.ticketWrite_core s1 c (framePiecesOf (t.input.length / 4096 + 2) (sampleIn k) t.input))
    split
    · next s2 hs2 =>
      rw [hs2] at hw
      exact hw.trans (State.finishTicket_later ..)
    · next s2 hs2 =>
      rw [hs2] at hw
      extract_lets s3 s4
      exact hw.then_core (by simp [s4, s3])

theorem State.sampleLockup_later (s : State) (c : Nat) : State.Later s (s.sampleLockup c) := by
  unfold State.sampleLockup
  extract_lets mine s1
  have h1 : State.Later s s1 := by
    refine .foldl (fun u e => ?_) _ _
    split
    · exact .of_core (by simp)
    · split
      · exact .of_core (by simp)
      · split
        · exact State.copyResult_later ..
        · exact .refl u
  exact (h1.trans (State.endCopies_later s1)).trans (.foldl (fun u t => State.bindSample_later u c t) _ _)

/-! ### The commits of a lock-up after the substitutions (R42, R115 to R118) -/

/-- The commits of a lock-up that follow the substitutions. -/
def State.commitsRest (s : State) (c left : Nat) (peers : List GuestCopy) : State :=
  let s1 := ((s.markCommits c).savePoint c).grantInk c
  let s2 := ((s1.switchCommits c peers).wayCommits c left).impose c left peers
  (s2.takeGuests c).sampleLockup c

theorem State.commitsRest_later (s : State) (c left : Nat) (peers : List GuestCopy) : State.Later s (s.commitsRest c left peers) := by
  unfold State.commitsRest
  extract_lets s1 s2
  have h1 : State.Later s s1 := (State.markCommits_later s c).then_core (by simp [s1])
  exact (h1.then_core (by simp [s2])).trans (State.sampleLockup_later ..)

theorem State.lockupCommits_of_resumed {s : State} {c left : Nat} {peers : List GuestCopy} {s1 : State}
    (h1 : (s.commitSubsts ((s.heldRegions c).map s.physOf)).resumeStroke c = s1) : s.lockupCommits c left peers =
      if !s1.csStriking c then s1 else (s1.updChase c fun x => { x with finished := false }).commitsRest c left peers := by
  subst h1; rfl

/-! ### The end of a member's work in a stroke (R120 to R124) -/

/-- The strokes begun, and whether the one in hand is finished, of each slot. -/
def State.tally (s : State) : List (Nat × Bool) := s.chases.map fun x => (x.begunCount, x.finished)

theorem State.tally_core {s t : State} (h : t.core = s.core) : t.tally = s.tally := by
  have hmap (u : State) : u.tally = u.core.1.map fun x => (x.begunCount, x.finished) := by
    simp [State.tally, State.core, Function.comp_def]
  rw [hmap, hmap, h]

theorem State.tally_updChase (s : State) (c : Nat) {f : ChaseSt → ChaseSt}
    (hf : ∀ x, (f x).begunCount = x.begunCount ∧ (f x).finished = x.finished) : (s.updChase c f).tally = s.tally :=
  State.updChase_map s c (p := fun x => (x.begunCount, x.finished)) (Prod.ext (hf _).1 (hf _).2)

theorem State.stopped_tally (s : State) (c : Nat) : (s.stopped c).tally = s.tally := by
  unfold State.stopped
  extract_lets s1 s2
  calc s2.tally = s1.tally := State.tally_updChase _ _ fun _ => by exact ⟨rfl, rfl⟩
    _ = s.tally := State.tally_core (by simp [s1])

theorem State.takeGo_tally (s : State) (c m start : Nat) (named : List (Nat × Nat)) : (s.takeGo c m start named).tally = s.tally := by
  unfold State.takeGo
  split_ifs
  · exact State.stopped_tally s c
  · exact (State.tally_updChase _ _ fun _ => by exact ⟨rfl, rfl⟩).trans (State.tally_updChase _ _ fun _ => by exact ⟨rfl, rfl⟩)

theorem State.issueGo_tally (s : State) (c m start : Nat) : (s.issueGo c m start).tally = s.tally := by
  unfold State.issueGo
  extract_lets named s1
  calc _ = (s1.sendAll c ctlVerdict _).tally := State.takeGo_tally ..
    _ = s1.tally := State.tally_core (State.sendAll_core ..)
    _ = s.tally := State.tally_updChase _ _ fun _ => by exact ⟨rfl, rfl⟩

theorem State.rootJudge_tally (s : State) (c : Nat) : (s.rootJudge c).tally = s.tally := by
  unfold State.rootJudge
  extract_lets m b l t
  split
  · split
    · exact State.issueGo_tally ..
    · split
      · exact State.issueGo_tally ..
      · rfl
  · rfl

theorem State.rootDone_tally (s : State) (c ordinal stamp : Nat) : (s.rootDone c ordinal stamp).tally = s.tally := by
  unfold State.rootDone
  split
  · exact (State.rootJudge_tally ..).trans (State.tally_updChase _ _ fun _ => by exact ⟨rfl, rfl⟩)
  · rfl

theorem State.checkFinish_tally (s : State) (c : Nat) : (s.checkFinish c).tally = s.tally := by
  unfold State.checkFinish
  extract_lets x s1
  have h1 : s1.tally = s.tally := State.tally_updChase _ _ fun _ => by exact ⟨rfl, rfl⟩
  split
  · split
    · exact (State.rootDone_tally ..).trans h1
    · exact (State.tally_core (State.sendCtl_core ..)).trans h1
  · rfl

theorem State.chase_tally {s t : State} (h : t.tally = s.tally) (c : Nat) :
    (t.chase c).begunCount = (s.chase c).begunCount ∧ (t.chase c).finished = (s.chase c).finished :=
  Prod.mk.inj (State.chase_map (fun x => (x.begunCount, x.finished)) h c)

/-- A member at the end of its work is finished with the stroke. -/
theorem State.endWork_finished {s : State} {c : Nat} (h : s.Sound q) (hc : c < 16) : ((s.endWork c).chase c).finished = true := by
  rw [State.endWork, (State.chase_tally (State.checkFinish_tally ..) c).2, State.chase_updChase h hc]

/-! ### The strokes begun -/

/-- The strokes begun of each slot. -/
def State.begunCounts (s : State) : List Nat := s.chases.map (·.begunCount)

theorem State.begunCounts_tally {s t : State} (h : t.tally = s.tally) : t.begunCounts = s.begunCounts := by
  have hmap (u : State) : u.begunCounts = u.tally.map Prod.fst := by simp [State.tally, State.begunCounts, Function.comp_def]
  rw [hmap, hmap, h]

theorem State.begunCounts_core {s t : State} (h : t.core = s.core) : t.begunCounts = s.begunCounts :=
  State.begunCounts_tally (State.tally_core h)

theorem State.Later.begunCounts {s t : State} (h : State.Later s t) : t.begunCounts = s.begunCounts := by
  have hmap (u : State) : u.begunCounts = (u.chases.map ChaseSt.core).map ChaseCore.begunCount := by
    simp [State.begunCounts, Function.comp_def]
  rw [hmap, hmap, h.cores]

theorem State.begunCounts_updChase (s : State) (c : Nat) {f : ChaseSt → ChaseSt} (hf : ∀ x, (f x).begunCount = x.begunCount) :
    (s.updChase c f).begunCounts = s.begunCounts := State.updChase_map s c (hf _)

theorem State.chase_begunCounts {s t : State} (h : t.begunCounts = s.begunCounts) (c : Nat) :
    (t.chase c).begunCount = (s.chase c).begunCount := State.chase_map (·.begunCount) h c

theorem State.faultLocal_begunCounts (s : State) (c code : Nat) : (s.faultLocal c code).begunCounts = s.begunCounts := by
  unfold State.faultLocal
  split
  · extract_lets s1 s2 s3
    calc _ = ((s3.clearSampleDir c).freeSamples c).begunCounts := State.begunCounts_core (State.eventFault_core ..)
      _ = (s3.clearSampleDir c).begunCounts := rfl
      _ = s3.begunCounts := State.begunCounts_core (State.clearSampleDir_core ..)
      _ = s2.begunCounts := rfl
      _ = (s1.haltChase c).begunCounts := State.begunCounts_updChase _ _ fun _ => by rfl
      _ = s.begunCounts := State.begunCounts_core (by simp [s1])
  · rfl

theorem State.faultChase_begunCounts (s : State) (c code : Nat) : (s.faultChase c code).begunCounts = s.begunCounts := by
  unfold State.faultChase
  split
  · exact (State.begunCounts_core (State.sendAll_core ..)).trans (State.faultLocal_begunCounts ..)
  · rfl

theorem State.endWork_begunCounts (s : State) (c : Nat) : (s.endWork c).begunCounts = s.begunCounts :=
  (State.begunCounts_tally (State.checkFinish_tally ..)).trans (State.begunCounts_updChase _ _ fun _ => by rfl)

theorem State.beginWait_begunCounts (s : State) (c n : Nat) : (s.beginWait c n).begunCounts = s.begunCounts :=
  (State.serveMark_later ..).begunCounts.trans (State.begunCounts_core
    ((State.updMark_core ..).trans (State.updChase_core _ _ fun _ => by rfl)))

theorem State.reachPlate_begunCounts (s : State) (c index : Nat) : (s.reachPlate c index).begunCounts = s.begunCounts := by
  unfold State.reachPlate
  extract_lets p none s1 dist s2
  have h1 : s1.begunCounts = s.begunCounts :=
    (State.begunCounts_updChase _ _ fun _ => by rfl).trans (State.begunCounts_core (State.setF_core ..))
  have h2 : s2.begunCounts = s.begunCounts := by
    simp only [s2]
    split
    · exact (State.begunCounts_core (State.setF_core ..)).trans ((State.begunCounts_updChase _ _ fun _ => by rfl).trans h1)
    · exact h1
  split
  · exact (State.endWork_begunCounts ..).trans ((State.begunCounts_core (State.bump_core ..)).trans h1)
  · split
    · exact (State.faultChase_begunCounts ..).trans h2
    · split
      · exact (State.begunCounts_core (State.startPlate_core ..)).trans h2
      · split
        · exact (State.beginWait_begunCounts ..).trans h2
        · exact (State.faultChase_begunCounts ..).trans ((State.begunCounts_core (State.setFs_core ..)).trans h2)

theorem State.beginRun_begunCounts (s : State) (c : Nat) : (s.beginRun c).begunCounts = s.begunCounts := by
  unfold State.beginRun
  extract_lets s1
  have h1 : s1.begunCounts = s.begunCounts := State.begunCounts_core (State.setF_core ..)
  split
  · exact (State.endWork_begunCounts ..).trans h1
  · exact (State.reachPlate_begunCounts ..).trans h1

theorem State.restorePoint_begunCounts (s : State) (c : Nat) : (s.restorePoint c).begunCounts = s.begunCounts := by
  have hcore : ((((s.returnLoan c).dropPlateWaits c).dropGroups c).dropStipple c).core = s.core := by simp
  exact (State.begunCounts_updChase _ _ fun _ => by rfl).trans (State.begunCounts_core hcore)

theorem State.resumeStroke_begunCounts (s : State) (c : Nat) : (s.resumeStroke c).begunCounts = s.begunCounts := by
  unfold State.resumeStroke
  extract_lets x s1
  split
  · rfl
  · split
    · calc _ = s1.begunCounts := State.begunCounts_core (by simp)
        _ = (s.restorePoint c).begunCounts := State.begunCounts_updChase _ _ fun _ => by rfl
        _ = s.begunCounts := State.restorePoint_begunCounts ..
    · exact (State.faultChase_begunCounts ..).trans (State.begunCounts_updChase _ _ fun _ => by rfl)

theorem State.lockupCommits_begunCounts (s : State) (c left : Nat) (peers : List GuestCopy) :
    (s.lockupCommits c left peers).begunCounts = s.begunCounts := by
  have hsubst : (s.commitSubsts ((s.heldRegions c).map s.physOf)).begunCounts = s.begunCounts :=
    State.begunCounts_core (State.commitSubsts_core ..)
  generalize hs1 : (s.commitSubsts ((s.heldRegions c).map s.physOf)).resumeStroke c = s1
  have h1 : s1.begunCounts = s.begunCounts := by rw [← hs1, State.resumeStroke_begunCounts, hsubst]
  rw [State.lockupCommits_of_resumed hs1]
  split
  · exact h1
  · calc _ = (s1.updChase c fun x => { x with finished := false }).begunCounts := (State.commitsRest_later ..).begunCounts
      _ = s1.begunCounts := State.begunCounts_updChase _ _ fun _ => by rfl
      _ = s.begunCounts := h1

end Sys2Proof.Machine
end

section
/-! PROOF. Strokes begin at lock-ups and reach their plates (R93, R96, R100, R109, R115 to R121, R124, R140). -/

namespace Sys2Proof.Machine

variable {q : List Instr}

theorem State.getF_lt (s : State) (f : Field) (i : Nat) : s.getF f i < 2 ^ (f.hi + 1 - f.lo) := by
  unfold State.getF bitsOf
  exact Nat.mod_lt _ (Nat.two_pow_pos _)

/-! ### The lock-up that begins a stroke (R109, R115, R124) -/

/-- The stroke begins after its boundary, as the counter now shows it (R129). -/
def State.heldStart (s : State) (c n start : Nat) : Bool := decide (((s.boundary c n : Nat) : Int) + (s.chase c).goShift < start)

/-- The status that a stroke begins with. -/
def State.strokeFields (s : State) (c n start : Nat) : List (Field × Nat) :=
  [(Fld.stkNumber, n), (Fld.stkSlipping, natOfBool ((s.chase c).judgeFrom (n + 1) != n + 1)), (Fld.stkConsecSlips, 0),
    (Fld.stkHeld, natOfBool (s.heldStart c n start)), (Fld.stkPhase, 1)]

section Begin
variable {s : State} {c n start : Nat} (h : s.Sound q)
include h

theorem State.beginStroke_getF {f : Field} (hi : c < f.reg.info.count) (hhold : f.reg ≠ .stkHolds) :
    (s.beginStroke c n start).getF f c = (s.setFs c (s.strokeFields c n start)).getF f c := by
  unfold State.beginStroke
  extract_lets held s1 s2
  rw [State.updChase_getF]
  simp only [s2]
  split
  · exact State.getF_setF_apart (State.setFs_sound h) (by decide) hi (.inl hhold)
  · rfl

variable (hc : c < 16)
include hc

theorem State.beginStroke_number (hn : n < 2 ^ 64) : (s.beginStroke c n start).getF Fld.stkNumber c = n :=
  calc _ = (s.setFs c (s.strokeFields c n start)).getF Fld.stkNumber c := State.beginStroke_getF h hc (by decide)
    _ = n % 2 ^ 64 := State.getF_setFs h ⟨by decide, by decide, hc⟩ [] _ rfl rfl
    _ = n := Nat.mod_eq_of_lt hn

theorem State.beginStroke_phase : (s.beginStroke c n start).getF Fld.stkPhase c = 1 :=
  (State.beginStroke_getF h hc (by decide)).trans (State.getF_setFs h ⟨by decide, by decide, hc⟩ [_, _, _, _] _ rfl rfl)

theorem State.beginStroke_cs : (s.beginStroke c n start).cs c = s.cs c :=
  (State.beginStroke_getF h hc (by decide)).trans (State.getF_setFs_of_clear h hc rfl)

theorem State.beginStroke_holdTotal : (s.beginStroke c n start).getF Fld.stkHoldTotal c =
    (s.getF Fld.stkHoldTotal c + if ((s.boundary c n : Nat) : Int) + (s.chase c).goShift < start then 1 else 0) % 2 ^ 32 := by
  have hkept : (s.setFs c (s.strokeFields c n start)).getF Fld.stkHoldTotal c = s.getF Fld.stkHoldTotal c :=
    State.getF_setFs_of_clear h hc rfl
  unfold State.beginStroke
  extract_lets held s1 s2
  rw [State.updChase_getF, show s2 = if held then s1.bumpWrap Fld.stkHoldTotal c 1 else s1 from rfl]
  by_cases hheld : ((s.boundary c n : Nat) : Int) + (s.chase c).goShift < start
  · rw [if_pos (by simpa [held] using hheld), if_pos hheld, ← hkept]
    exact (State.getF_setF (State.setFs_sound h) ⟨by decide, by decide, hc⟩).trans (Nat.mod_mod _ _)
  · rw [if_neg (by simpa [held] using hheld), if_neg hheld, ← hkept]
    exact (Nat.mod_eq_of_lt (State.getF_lt _ Fld.stkHoldTotal c)).symm

theorem State.beginStroke_chase : ((s.beginStroke c n start).chase c).begunCount = (s.chase c).begunCount + 1 ∧
    ((s.beginStroke c n start).chase c).substituting = (s.chase c).substituting := by
  have hset : (s.setFs c (s.strokeFields c n start)).Sound q := State.setFs_sound h
  have hbump : ((s.setFs c (s.strokeFields c n start)).bumpWrap Fld.stkHoldTotal c 1).Sound q := State.bumpWrap_sound hset
  have hchase : (s.setFs c (s.strokeFields c n start)).chase c = s.chase c := State.chase_congr (State.setFs_chases ..) c
  unfold State.beginStroke
  extract_lets held s1 s2
  have hs2 : s2.Sound q ∧ s2.chase c = s.chase c := by
    simp only [s2]
    split
    · exact ⟨hbump, (State.chase_congr (State.setF_chases ..) c).trans hchase⟩
    · exact ⟨hset, hchase⟩
  rw [State.chase_updChase hs2.1 hc, hs2.2]
  exact ⟨rfl, rfl⟩

omit h hc in
theorem State.beginStroke_tickets : (s.beginStroke c n start).host.tickets = s.host.tickets := by
  unfold State.beginStroke
  extract_lets held s1 s2
  rw [State.updChase_host]
  simp only [s2]
  split <;> simp [s1, State.bumpWrap]

end Begin

/-! ### The commits of a lock-up -/

section LockUp
variable {s : State} {c n start left : Nat} {peers : List GuestCopy} (h : s.Sound q)
include h

theorem State.lockUp_frame_begun :
    State.Frame (maskBut [.stkNumber, .stkHolds] []) (s.beginStroke c n start) (s.lockUp c n start left peers) := by
  have hcommits : State.Frame (maskBut [.stkNumber, .stkHolds] []) (s.beginStroke c n start)
      ((s.beginStroke c n start).lockupCommits c left peers) := State.lockupCommits_frame (State.beginStroke_sound h).frame rfl
  unfold State.lockUp
  extract_lets s1
  split
  · exact State.beginRun_frame hcommits rfl
  · exact hcommits

theorem State.commitsRest_frame : State.Frame (maskBut [.sysChaseStatus, .stkStatus] []) s (s.commitsRest c left peers) :=
  State.sampleLockup_frame (State.takeGuests_frame (State.impose_frame (State.wayCommits_frame (State.switchCommits_frame
    (State.grantInk_frame (State.updChase_frame (State.markCommits_frame h.frame rfl) rfl) rfl) rfl) rfl) rfl) rfl) rfl

variable (hc : c < 16)
include hc

theorem State.lockUp_number (hn : n < 2 ^ 64) : (s.lockUp c n start left peers).getF Fld.stkNumber c = n :=
  (State.getF_of_frame (State.lockUp_frame_begun h) hc rfl).trans (State.beginStroke_number h hc hn)

theorem State.lockUp_holdTotal : (s.lockUp c n start left peers).getF Fld.stkHoldTotal c =
    (s.getF Fld.stkHoldTotal c + if ((s.boundary c n : Nat) : Int) + (s.chase c).goShift < start then 1 else 0) % 2 ^ 32 :=
  (State.getF_of_frame (State.lockUp_frame_begun h) hc rfl).trans (State.beginStroke_holdTotal h hc)

/-- One more stroke has begun, whatever the commits and the first plate do. -/
theorem State.lockUp_begunCount : ((s.lockUp c n start left peers).chase c).begunCount = (s.chase c).begunCount + 1 := by
  have hcounts : (s.lockUp c n start left peers).begunCounts = (s.beginStroke c n start).begunCounts := by
    unfold State.lockUp
    extract_lets s1
    have h1 : s1.begunCounts = (s.beginStroke c n start).begunCounts := State.lockupCommits_begunCounts ..
    split
    · exact (State.beginRun_begunCounts ..).trans h1
    · exact h1
  exact (State.chase_begunCounts hcounts c).trans (State.beginStroke_chase h hc).1

variable (hcs : s.csStriking c = true) (hsub : (s.chase c).substituting = false)
include hcs hsub

/-- With no substitution prepared the commits follow at once (R42). -/
theorem State.lockupCommits_of_unsubstituted : s.lockupCommits c left peers =
    ((s.commitSubsts ((s.heldRegions c).map s.physOf)).updChase c fun x => { x with finished := false }).commitsRest c left peers := by
  have hframe : State.Frame (maskBut [.sysChaseStatus] []) s (s.commitSubsts ((s.heldRegions c).map s.physOf)) :=
    State.commitSubsts_frame h.frame rfl
  have hkept : ((s.commitSubsts ((s.heldRegions c).map s.physOf)).chase c).substituting = false :=
    (State.substituting_core (State.commitSubsts_core ..) c).trans hsub
  have hresume : (s.commitSubsts ((s.heldRegions c).map s.physOf)).resumeStroke c = s.commitSubsts ((s.heldRegions c).map s.physOf) :=
    if_pos (by simp [hkept])
  have hstrikes : (s.commitSubsts ((s.heldRegions c).map s.physOf)).csStriking c = true := by
    rw [State.csStriking, State.cs, State.getF_of_frame hframe hc rfl]
    exact hcs
  rw [State.lockupCommits_of_resumed hresume, if_neg (by simp [hstrikes])]

variable (hleft : left ≠ 0)
include hleft

/-- With migrations left and no substitution prepared, a lock-up commits and stays in its phase 1 (R117). -/
theorem State.lockUp_left : (s.lockUp c n start left peers).getF Fld.stkPhase c = 1 ∧
    (s.lockUp c n start left peers).cs c = s.cs c ∧
    ∀ {ring seq st : Nat} {d : Bytes}, s.ticketEnds ring seq st d → (s.lockUp c n start left peers).ticketEnds ring seq st d := by
  have hb : (s.beginStroke c n start).Sound q := State.beginStroke_sound h
  have hbcs := State.beginStroke_cs (n := n) (start := start) h hc
  have hbsub := ((State.beginStroke_chase (n := n) (start := start) h hc).2).trans hsub
  have hstrikes : (s.beginStroke c n start).csStriking c = true := by rw [State.csStriking, hbcs]; exact hcs
  have hlock : s.lockUp c n start left peers = (s.beginStroke c n start).lockupCommits c left peers := by
    unfold State.lockUp
    extract_lets s1
    rw [if_neg (by simp [hleft])]
  rw [hlock, State.lockupCommits_of_unsubstituted hb hc hstrikes hbsub]
  generalize hw : (s.beginStroke c n start).commitSubsts _ = w
  have hws : w.Sound q := by rw [← hw]; exact State.commitSubsts_sound hb
  have hframe : State.Frame (maskBut [.sysChaseStatus, .stkStatus] []) (s.beginStroke c n start) w := by
    rw [← hw]; exact State.commitSubsts_frame hb.frame rfl
  have htickets : w.host.tickets = s.host.tickets := by
    rw [← hw, State.tickets_core (State.commitSubsts_core ..), State.beginStroke_tickets]
  have hu : (w.updChase c fun x => { x with finished := false }).Sound q := State.updChase_sound hws
  have hrest := (State.updChase_frame (c := c) (f := fun x => { x with finished := false }) hframe rfl).trans
    (State.commitsRest_frame (c := c) (left := left) (peers := peers) hu)
  refine ⟨(State.getF_of_frame hrest hc rfl).trans (State.beginStroke_phase h hc), (State.getF_of_frame hrest hc rfl).trans hbcs,
    fun hends => (State.commitsRest_later ..).ends ?_⟩
  exact (State.ticketEnds_congr ((congrArg HostSt.tickets (State.updChase_host ..)).trans htickets)).2 hends

end LockUp

/-! ### LOCK_UP of a GO verdict -/

/-- The start of the stroke of the verdict that is held. -/
def State.verdictStart (c : Nat) (s : State) : Nat := ((s.chase c).verdict.map (·.2)).getD 0

/-- The stroke of the verdict that is held begins, at its start as the counter then shows it (R124, R742). -/
theorem exec_lockUp_striking {s : State} {c n start left : Nat} {peers : List GuestCopy} (h : s.Sound q) (hready : s.isReady = true)
    (hcs : s.csStriking c = true) (hv : (s.chase c).verdict = some (n, start)) :
    ∃ start', exec (.lockUp c left peers) s = .next ((s.chaseDue c (State.verdictStart c)).lockUp c n start' left peers) ∧
      ((s.chase c).pendingStep = none → start' = start) := by
  have hjoin : s.cs c ≠ csJoining := fun hj => by
    rw [State.csStriking, hj] at hcs
    exact absurd hcs (by decide)
  have hfirst : ((s.chaseDue c (State.verdictStart c)).chase c).verdict.map Prod.fst = some n := by
    have hmap := State.chase_map ChaseSt.timeless (State.chaseDue_timeless h c (State.verdictStart c)) c
    exact (congrArg ChaseTimeless.goStroke hmap).trans (congrArg (Option.map Prod.fst) hv)
  obtain ⟨⟨m, start'⟩, hd, hm⟩ := Option.map_eq_some_iff.1 hfirst
  obtain rfl : m = n := hm
  have hexec : exec (.lockUp c left peers) s = .next _ :=
    congrArg Host.Outcome.next ((State.ifB_true hready _).trans ((if_neg hjoin).trans (if_pos hcs)))
  refine ⟨start', hexec.trans (congrArg Host.Outcome.next ?_), fun hnone => ?_⟩
  · show (match ((s.chaseDue c (State.verdictStart c)).chase c).verdict with
      | some (n, start) => (s.chaseDue c (State.verdictStart c)).lockUp c n start left peers
      | none => s) = _
    rw [hd]
  · rw [State.chaseDue_chase h c _ hnone, hv] at hd
    exact (Prod.mk.inj (Option.some.inj hd)).2.symm

/-- LOCK_UP of a GO verdict begins the stroke that it names (R109, R115, R117, R124). -/
theorem lockUp_striking {s : State} {c n start left : Nat} {peers : List GuestCopy} (h : s.Sound q) (hready : s.isReady = true)
    (hc : c < 16) (hcs : s.csStriking c = true) (hv : (s.chase c).verdict = some (n, start)) (hn : n < 2 ^ 64) :
    ∃ t, exec (.lockUp c left peers) s = .next t ∧ t.getF Fld.stkNumber c = n ∧
      (t.chase c).begunCount = (s.chase c).begunCount + 1 ∧
      ((s.chase c).pendingStep = none → t.getF Fld.stkHoldTotal c =
        (s.getF Fld.stkHoldTotal c + if ((s.boundary c n : Nat) : Int) + (s.chase c).goShift < start then 1 else 0) % 2 ^ 32) ∧
      (left ≠ 0 → (s.chase c).substituting = false → t.getF Fld.stkPhase c = 1 ∧ t.cs c = s.cs c) := by
  obtain ⟨start', hexec, hstart⟩ := exec_lockUp_striking (left := left) (peers := peers) h hready hcs hv
  have hs1 : (s.chaseDue c (State.verdictStart c)).Sound q := State.chaseDue_sound h
  have hmap := State.chase_map ChaseSt.timeless (State.chaseDue_timeless h c (State.verdictStart c)) c
  have hbegun : ((s.chaseDue c (State.verdictStart c)).chase c).begunCount = (s.chase c).begunCount :=
    congrArg ChaseTimeless.begunCount hmap
  have hsub : ((s.chaseDue c (State.verdictStart c)).chase c).substituting = (s.chase c).substituting :=
    congrArg ChaseTimeless.substituting hmap
  have hkept (f : Field) (hi : c < f.reg.info.count) (hf : f.reg ∉ [RegName.stkStatus, .stkSlips, .timeNs, .secMbCtrl]) :
      (s.chaseDue c (State.verdictStart c)).getF f c = s.getF f c := State.chaseDue_getF h c _ hi hf
  have hcsd : (s.chaseDue c (State.verdictStart c)).cs c = s.cs c := hkept _ hc (by decide)
  refine ⟨_, hexec, State.lockUp_number hs1 hc hn, (State.lockUp_begunCount hs1 hc).trans (by rw [hbegun]), fun hnone => ?_,
    fun hleft hs => ?_⟩
  · have hbound : (s.chaseDue c (State.verdictStart c)).boundary c n = s.boundary c n := by
      unfold State.boundary State.periodNs
      rw [hkept Fld.stkEpoch hc (by decide), hkept Fld.stkPeriodNs hc (by decide)]
    rw [State.lockUp_holdTotal hs1 hc, hkept Fld.stkHoldTotal hc (by decide), hbound, State.chaseDue_chase h c _ hnone, hstart hnone]
  · have hstrikes : (s.chaseDue c (State.verdictStart c)).csStriking c = true := by rw [State.csStriking, hcsd]; exact hcs
    obtain ⟨hphase, hstate, -⟩ := State.lockUp_left (n := n) (start := start') (peers := peers) hs1 hc hstrikes (hsub.trans hs) hleft
    exact ⟨hphase, hstate.trans hcsd⟩

/-! ### LOCK_UP of a joined chase -/

theorem State.regionsGone_congr {s t : State} {c : Nat} (hheld : t.getF Fld.sysChaseRegions c = s.getF Fld.sysChaseRegions c)
    (hmap : ∀ i, i < 2 → t.rd .sysRegionMap i = s.rd .sysRegionMap i) : t.regionsGone c = s.regionsGone c := by
  unfold State.regionsGone State.heldRegions
  rw [hheld]
  refine Bool.eq_iff_iff.2 ?_
  simp only [List.any_eq_true, List.mem_filter, List.mem_range]
  have hvalid (k : Nat) (hk : k < 16) : t.regionValid k = s.regionValid k := by
    unfold State.regionValid State.flag
    rw [State.getF_of_rd (f := Fld.sysMapValid (k % 8)) (hmap (k / 8) (by omega))]
  constructor <;> rintro ⟨k, hk, hv⟩ <;> refine ⟨k, hk, ?_⟩ <;> simpa [hvalid k hk.1] using hv

section First
variable {s : State} {c n left : Nat} {peers : List GuestCopy} (h : s.Sound q) (hready : s.isReady = true) (hc : c < 16)
  (hcs : s.cs c = csJoining) (hstart : (s.chase c).startStroke = some n)

include hready hcs hstart in
theorem exec_lockUp_joined : exec (.lockUp c left peers) s = .next (s.firstStroke c n left peers) := by
  refine congrArg Host.Outcome.next ((State.ifB_true hready _).trans ((if_pos hcs).trans ?_))
  rw [hstart]

include h hc

theorem State.passTo_regionsGone (t : Nat) : (s.passTo t).regionsGone c = s.regionsGone c := by
  have hframe : State.Frame (maskBut [.sysChaseStatus, .sysRegionMap] []) s (s.passTo t) := State.passTo_frame h.frame rfl
  exact State.regionsGone_congr (State.getF_of_frame hframe hc rfl) fun i hi => hframe.regs .sysRegionMap rfl i hi

omit hc in
theorem State.passTo_regionsOff (t : Nat) : (s.passTo t).regionsOff c = s.regionsOff c := by
  have hforme : (s.passTo t).forme c = s.forme c :=
    congrArg ChaseTimeless.forme (State.chase_map ChaseSt.timeless (State.passTo_timeless h t) c)
  have hnode : (s.passTo t).nodeId = s.nodeId :=
    State.getF_of_frame (State.passTo_frame (M := maskBut [.hlkNode] []) h.frame rfl) (by decide) rfl
  unfold State.regionsOff
  rw [hforme, State.ordinal_congr hforme hnode]

omit hc in
theorem State.passTo_tickets (t : Nat) : (s.passTo t).host.tickets = s.host.tickets :=
  congrArg HostSt.tickets ((State.passTo_frame (M := maskBut [] [.host]) h.frame rfl).parts .host rfl)

include hready hcs hstart

/-- A joined chase whose regions are gone faults at its start (R96). -/
theorem lockUp_gone (hgone : s.regionsGone c = true) : ∃ t, exec (.lockUp c left peers) s = .next t ∧ t.cs c = csFaulted ∧
    t.endsTickets s c 0x02 stChase (dForme veRegionInvalid 1 (s.regionsOff c)) := by
  refine ⟨_, exec_lockUp_joined hready hcs hstart, ?_⟩
  unfold State.firstStroke
  extract_lets s1 s2
  rw [if_pos ((State.passTo_regionsGone h hc _).trans hgone), State.passTo_regionsOff h]
  exact ⟨State.failStart_cs (State.passTo_sound h) hc (by decide),
    State.endsTickets_congr (State.passTo_tickets h _) (State.endsTickets_failStart _ c _ _ _ _)⟩

/-- A joined chase whose regions are valid begins its start stroke (R93, R100). -/
theorem lockUp_joined (hn : n < 2 ^ 64) (hgone : s.regionsGone c = false) (hleft : left ≠ 0)
    (hsub : (s.chase c).substituting = false) :
    ∃ t, exec (.lockUp c left peers) s = .next t ∧ t.cs c = csRunning ∧ t.getF Fld.stkNumber c = n ∧ t.getF Fld.stkPhase c = 1 ∧
      t.endsTickets s c 0x02 stOk [] := by
  refine ⟨_, exec_lockUp_joined hready hcs hstart, ?_⟩
  unfold State.firstStroke
  extract_lets s1 s2
  have hs1 : s1.Sound q := State.passTo_sound h
  have hset : (s1.setF Fld.sysChaseState c csRunning).Sound q := State.setF_sound hs1
  have hs2 : s2.Sound q := State.endStart_sound hset
  have hcs2 : s2.cs c = csRunning := State.getF_setF hs1 ⟨by decide, by decide, hc⟩
  have hsub1 : (s1.chase c).substituting = false :=
    (congrArg ChaseTimeless.substituting (State.chase_map ChaseSt.timeless (State.passTo_timeless h _) c)).trans hsub
  have hsub2 : (s2.chase c).substituting = false := by
    rw [← hsub1]
    exact congrArg ChaseSt.substituting (State.chase_congr (State.setF_chases ..) c)
  have htickets : (s1.setF Fld.sysChaseState c csRunning).host.tickets = s.host.tickets := by
    rw [State.setF_host, State.passTo_tickets h]
  rw [if_neg (by rw [State.passTo_regionsGone h hc, hgone]; decide)]
  obtain ⟨hphase, hstate, hends⟩ := State.lockUp_left (n := n) (start := s2.boundary c n) (peers := peers) hs2 hc
    (by simp [State.csStriking, hcs2]) hsub2 hleft
  refine ⟨hstate.trans hcs2, State.lockUp_number hs2 hc hn, hphase, fun ring seq x hx hact hdone hop hslot => hends ?_⟩
  exact State.ticketEnds_finishWhere (x := x) ((State.ticket?_congr htickets ..).trans hx) hdone (by simp [hop, hslot, hact, tkChaseStart])

end First

/-! ### LOCKUP_BUDGET_END -/

/-- A plate that needs no ink starts at once (R119, R712). -/
theorem State.startPlate_starts {s : State} {c : Nat} (h : s.Sound q) (hc : c < 16) (hink : (s.plate c).ink = 0xFF) :
    ((s.startPlate c).chase c).plate.index = (s.chase c).plate.index ∧ ((s.startPlate c).chase c).plate.started = true ∧
      ((s.startPlate c).chase c).plate.worked = (s.chase c).plate.worked ∧
      (s.startPlate c).getF Fld.stkPhase c = s.getF Fld.stkPhase c := by
  have hstarts : s.startPlate c = s.plateStarts c := if_neg fun hcond => hcond.1 hink
  rw [hstarts]
  unfold State.plateStarts
  extract_lets p unsafePlate s1
  rw [if_neg fun hcond => hcond hink, State.chase_updChase h hc, State.updChase_getF]
  exact ⟨rfl, rfl, rfl, rfl⟩

section Reach
variable {s : State} {c index : Nat} (h : s.Sound q) (hc : c < 16) (hwait : (plateAt (s.forme c) index).wait = none16)
  (hink : (plateAt (s.forme c) index).ink = 0xFF)
  (hrun : (s.chase c).inDist = true ∨ (plateAt (s.forme c) index).isDist = true → (plateAt (s.forme c) index).runOnly = false)
include h hc hwait hink hrun

/-- The sequencers reach a plate that waits for no mark and no ink: it starts, in distribution or in the run phase (R119, R138). -/
theorem State.reachPlate_starts : ((s.reachPlate c index).chase c).plate.index = index ∧
    ((s.reachPlate c index).chase c).plate.started = true ∧ ((s.reachPlate c index).chase c).plate.worked = false ∧
    (s.reachPlate c index).getF Fld.stkPhase c =
      if (s.chase c).inDist || (plateAt (s.forme c) index).isDist then 3 else s.getF Fld.stkPhase c := by
  unfold State.reachPlate
  extract_lets p none s1 dist s2
  have hset : (s.setF Fld.stkPlate c index).Sound q := State.setF_sound h
  have hs1 : s1.Sound q := State.updChase_sound hset
  have hchase1 : s1.chase c = { s.chase c with plate := { PlateRt.none with index := index } } :=
    (State.chase_updChase hset hc _).trans (by rw [State.chase_congr (State.setF_chases ..) c])
  have hdist : dist = ((s.chase c).inDist || (plateAt (s.forme c) index).isDist) := by rw [← congrArg ChaseSt.inDist hchase1]
  have hphase1 : s1.getF Fld.stkPhase c = s.getF Fld.stkPhase c :=
    State.getF_setF_apart h (by decide) hc (.inr (.inr (by decide)))
  have hs2 : s2.Sound q ∧ (s2.chase c).plate = { PlateRt.none with index := index } ∧ s2.forme c = s.forme c ∧
      s2.getF Fld.stkPhase c = if dist then 3 else s.getF Fld.stkPhase c := by
    rw [hdist]
    simp only [s2, hdist]
    split
    · have hupd : (s1.updChase c fun x => { x with inDist := true }).Sound q := State.updChase_sound hs1
      have hchase2 : ((s1.updChase c fun x => { x with inDist := true }).setF Fld.stkPhase c 3).chase c =
          { s1.chase c with inDist := true } :=
        (State.chase_congr (State.setF_chases ..) c).trans (State.chase_updChase hs1 hc _)
      rw [State.forme, hchase2, hchase1]
      exact ⟨State.setF_sound hupd, rfl, rfl, State.getF_setF hupd ⟨by decide, by decide, hc⟩⟩
    · rw [State.forme, hchase1]
      exact ⟨hs1, rfl, rfl, hphase1⟩
  obtain ⟨hsound2, hplate2, hforme2, hphase2⟩ := hs2
  have hplate : s2.plate c = p := by rw [State.plate, hforme2, hplate2]
  have hlevel : s1.aboveLevel c p = false := by simp [State.aboveLevel, p, hink]
  have hfault : (dist && p.runOnly) = false := by
    rw [hdist, Bool.and_eq_false_imp, Bool.or_eq_true]
    exact hrun
  obtain ⟨hindex, hstarted, hworked, hphase⟩ := State.startPlate_starts hsound2 hc (by rw [hplate]; exact hink)
  rw [if_neg (by simp [hlevel]), if_neg (by simp [hfault]), if_pos hwait, hindex, hworked, hphase, hphase2, hplate2, hdist]
  exact ⟨rfl, hstarted, rfl, rfl⟩

end Reach

section Budget
variable {s : State} {c : Nat} (h : s.Sound q) (hready : s.isReady = true) (hc : c < 16) (hcs : s.csStriking c = true)
  (hphase : s.getF Fld.stkPhase c = 1)

include hready hcs hphase in
theorem exec_lockupBudgetEnd : exec (.lockupBudgetEnd c) s =
    .next ((s.chaseDue c fun s => (s.chase c).strokeStart + s.lockupNs c).beginRun c) :=
  congrArg Host.Outcome.next (State.ifB_true (by simp [hready, hcs, hphase]) _)

include h hc

/-- The run phase begins: what of the chase's record and status it finds (R118). -/
theorem State.runPhase (due : State → Nat) : ∃ u : State, u = (s.chaseDue c due).setF Fld.stkPhase c 2 ∧ u.Sound q ∧
    u.forme c = s.forme c ∧ (u.chase c).inDist = (s.chase c).inDist ∧ u.flag Fld.stkParked c = s.flag Fld.stkParked c ∧
    u.getF Fld.stkPlate c = s.getF Fld.stkPlate c ∧ u.getF Fld.stkPhase c = 2 := by
  have hd : (s.chaseDue c due).Sound q := State.chaseDue_sound h
  have hmap := State.chase_map ChaseSt.timeless (State.chaseDue_timeless h c due) c
  have hchase : ((s.chaseDue c due).setF Fld.stkPhase c 2).chase c = (s.chaseDue c due).chase c :=
    State.chase_congr (State.setF_chases ..) c
  refine ⟨_, rfl, State.setF_sound hd, ?_, ?_, ?_, ?_, State.getF_setF hd ⟨by decide, by decide, hc⟩⟩
  · rw [State.forme, hchase]
    exact congrArg ChaseTimeless.forme hmap
  · rw [hchase]
    exact congrArg ChaseTimeless.inDist hmap
  · rw [State.flag, State.getF_setF_apart hd (by decide) hc (.inr (.inr (by decide))), State.chaseDue_status h c due rfl hc rfl]
    rfl
  · rw [State.getF_setF_apart hd (by decide) hc (.inr (.inr (by decide))), State.chaseDue_status h c due rfl hc rfl]

include hready hcs hphase

/-- At the end of the budget a parked chase finishes its stroke (R140). -/
theorem budgetEnd_parked (hparked : s.flag Fld.stkParked c = true) :
    ∃ t, exec (.lockupBudgetEnd c) s = .next t ∧ (t.chase c).finished = true := by
  obtain ⟨u, hu, hs, -, -, hpark, -, -⟩ := State.runPhase h hc fun s => (s.chase c).strokeStart + s.lockupNs c
  refine ⟨_, exec_lockupBudgetEnd hready hcs hphase, ?_⟩
  rw [State.beginRun, ← hu, if_pos (hpark.trans hparked)]
  exact State.endWork_finished hs hc

/-- At the end of the budget another chase reaches the plate of STK_PLATE (R118, R119). -/
theorem budgetEnd_reaches (hparked : s.flag Fld.stkParked c = false)
    (hwait : (plateAt (s.forme c) (s.getF Fld.stkPlate c)).wait = none16) (hink : (plateAt (s.forme c) (s.getF Fld.stkPlate c)).ink = 0xFF)
    (hrun : (s.chase c).inDist = true ∨ (plateAt (s.forme c) (s.getF Fld.stkPlate c)).isDist = true →
      (plateAt (s.forme c) (s.getF Fld.stkPlate c)).runOnly = false) :
    ∃ t, exec (.lockupBudgetEnd c) s = .next t ∧ (t.chase c).plate.index = s.getF Fld.stkPlate c ∧
      (t.chase c).plate.started = true ∧ (t.chase c).plate.worked = false ∧ t.getF Fld.stkPhase c =
        (if (s.chase c).inDist || (plateAt (s.forme c) (s.getF Fld.stkPlate c)).isDist then 3 else 2) := by
  obtain ⟨u, hu, hs, hforme, hdist, hpark, hplate, hrunning⟩ := State.runPhase h hc fun s => (s.chase c).strokeStart + s.lockupNs c
  refine ⟨_, exec_lockupBudgetEnd hready hcs hphase, ?_⟩
  rw [State.beginRun, ← hu, if_neg (by rw [hpark, hparked]; decide), hplate]
  have hreach := State.reachPlate_starts (index := s.getF Fld.stkPlate c) hs hc (by rw [hforme]; exact hwait) (by rw [hforme]; exact hink)
    (by rw [hforme, hdist]; exact hrun)
  rwa [hforme, hdist, hrunning] at hreach

end Budget

/-- Settles O38: how a lock-up begins a stroke, how the end of its budget reaches the plate, and when a late run counts. -/
theorem strokesBeginAndReachPlates : Obligations.StrokesBeginAndReachPlates := by
  unfold Obligations.StrokesBeginAndReachPlates
  refine ⟨fun c n start left peers s hs hready hc hcs hv hn => ?_, fun c n left peers s hs hready hc hcs hstart hn => ?_,
    fun c s hs hready hc hcs hphase => ?_, fun c s hs hready hc hcs hphase hdist hfin => ?_⟩
  all_goals have h := State.sound_of_canonical hs
  · obtain ⟨t, hexec, hnumber, hbegun, hhold, hstays⟩ := lockUp_striking (left := left) (peers := peers) h hready hc hcs hv hn
    exact ⟨t, hexec, hnumber, hbegun, hhold, fun hleft hsub _ _ => hstays hleft hsub⟩
  · exact ⟨fun hgone hleft hsub _ _ => lockUp_joined h hready hc hcs hstart hn hgone hleft hsub, lockUp_gone h hready hc hcs hstart⟩
  · exact ⟨budgetEnd_parked h hready hc hcs hphase, budgetEnd_reaches h hready hc hcs hphase⟩
  · exact ⟨lateRun_counted h hready hc hcs hphase hdist hfin, lateRun_counted_once⟩

end Sys2Proof.Machine
end

section
/-! SUPPORT. What the work of a plate, a fault, and the operations under them leave of a slot: its course, the forme, the plate in
hand and the summary slots. -/

namespace Sys2Proof.Machine

/-- The course of a slot: its forme, the index of the plate in hand, and its summary slots. -/
structure ChaseCourse where
  forme : Bytes
  index : Nat
  slots : List SummarySlot

@[simp] abbrev ChaseSt.course (x : ChaseSt) : ChaseCourse := ⟨x.forme, x.plate.index, x.slots⟩

/-- The courses of all slots. -/
def State.course (s : State) : List ChaseCourse := s.chases.map ChaseSt.course

theorem State.course_congr {s t : State} (hc : t.chases = s.chases) : t.course = s.course := congrArg (List.map ChaseSt.course) hc

/-- A state built from the chases of another has its courses. -/
@[simp] theorem State.course_mk (s : State) {pending : List Instr} {freeIdx upNs : Nat} {pw : PowerSt} {regs msix : List (Nat × Word)}
    {msixPend : List Nat} {out : List Out} {host : HostSt} {hostMem mem : List Host.Cell} {poison : List Nat} {mb : List MbEntry}
    {rcTags : List (Nat × List (Nat × Nat))} {hbm : HbmSt} {samples : List (Nat × SampleSt)} {groups : List (Nat × AccGroup)}
    {openWaits : List OpenWait} {engines : List (Nat × VecEngine)} {stipple : List (Nat × StippleSt)} {marks : List (Nat × MarkRt)}
    {fab : FabSt} {eth : EthSt} {ink : InkSt} {time : TimeSt} {sec : SecSt} {ras : RasSt} :
    (State.mk pending freeIdx upNs pw regs msix msixPend out host hostMem mem poison mb rcTags hbm s.chases samples groups openWaits
      engines stipple marks fab eth ink time sec ras).course = s.course := rfl

@[simp] theorem State.course_ite (p : Prop) [Decidable p] (s t : State) :
    (if p then s else t).course = if p then s.course else t.course := apply_ite State.course p s t

@[simp] theorem State.course_ite_fst {α : Type} (p : Prop) [Decidable p] (a b : State × α) :
    (if p then a else b).1.course = if p then a.1.course else b.1.course := apply_ite (fun x : State × α => x.1.course) p a b

theorem State.course_fst {α : Type} {p : State × α} {u : State} {z : α} (h : p = (u, z)) : u.course = p.1.course := by rw [h]
theorem State.course_snd {α : Type} {p : α × State} {u : State} {z : α} (h : p = (z, u)) : u.course = p.2.course := by rw [h]

@[simp] theorem State.foldl_course {α : Type} {f : State → α → State} (hf : ∀ s a, (f s a).course = s.course) (l : List α)
    (s : State) : (l.foldl f s).course = s.course := by
  induction l generalizing s with
  | nil => rfl
  | cons a l ih => exact (ih (f s a)).trans (hf s a)

@[simp] theorem State.foldl_fst_course {α β : Type} {f : State × β → α → State × β} (hf : ∀ p a, (f p a).1.course = p.1.course)
    (l : List α) (p : State × β) : (l.foldl f p).1.course = p.1.course := by
  induction l generalizing p with
  | nil => rfl
  | cons a l ih => exact (ih (f p a)).trans (hf p a)

@[simp] theorem State.updChase_course (s : State) (c : Nat) {f : ChaseSt → ChaseSt} (hf : ∀ x, (f x).course = x.course) :
    (s.updChase c f).course = s.course := State.updChase_map s c (hf _)

theorem State.chase_course {s t : State} (h : t.course = s.course) (c : Nat) : (t.chase c).course = (s.chase c).course :=
  State.chase_map ChaseSt.course h c

section
variable (s : State)

/-! ### Registers, events and the log -/

@[simp] theorem State.wr_course (r : RegName) (i v : Nat) : (s.wr r i v).course = s.course := by simp [State.wr]

@[simp] theorem State.setF_course (f : Field) (i v : Nat) : (s.setF f i v).course = s.course := by simp [State.setF]

@[simp] theorem State.bump_course (f : Field) (i n : Nat) : (s.bump f i n).course = s.course := by simp [State.bump]

@[simp] theorem State.raiseTo_course (f : Field) (i v : Nat) : (s.raiseTo f i v).course = s.course := by simp [State.raiseTo]

@[simp] theorem State.setFs_course (i : Nat) (l : List (Field × Nat)) : (s.setFs i l).course = s.course := by
  induction l generalizing s with
  | nil => rfl
  | cons a l ih => exact (ih _).trans (State.setF_course ..)

@[simp] theorem State.fresh_course : (s.fresh).2.course = s.course := by simp [State.fresh]

@[simp] theorem State.emit_course (o : Out) : (s.emit o).course = s.course := by simp [State.emit]

@[simp] theorem State.msix1_course (v : Nat) : (s.msix1 v).course = s.course := by simp [State.msix1]

@[simp] theorem State.event_course (f vec : Field) : (s.event f vec).course = s.course := by simp [State.event]

@[simp] theorem State.eventFault_course : s.eventFault.course = s.course := by simp [State.eventFault]

/-! ### Caches, merging buffers and DRAM -/

@[simp] theorem State.cacheRead_course (line : Nat) : (s.cacheRead line).course = s.course := by
  unfold State.cacheRead
  dsimp only
  split <;> simp

@[simp] theorem State.cacheTouch_course (line : Nat) : (s.cacheTouch line).course = s.course := by
  unfold State.cacheTouch
  dsimp only
  split <;> simp

@[simp] theorem State.mbToDram_course (e : MbEntry) : (s.mbToDram e).course = s.course := by simp [State.mbToDram]

@[simp] theorem State.mbDrainOldest_course (region : Nat) : (s.mbDrainOldest region).course = s.course := by
  unfold State.mbDrainOldest
  split <;> simp

@[simp] theorem State.mbPeak_course (region : Nat) : (s.mbPeak region).course = s.course := by simp [State.mbPeak]

@[simp] theorem State.mbWrite_course (line : Nat) (bs : List (Nat × Byte)) : (s.mbWrite line bs).course = s.course := by
  unfold State.mbWrite
  dsimp only
  (repeat' split) <;> simp

@[simp] theorem State.sliceWrite_course (l : Nat) (bs : Bytes) : (s.sliceWrite l bs).course = s.course := by simp [State.sliceWrite]

@[simp] theorem State.rawWrite_course (l : Nat) (bs : Bytes) : (s.rawWrite l bs).course = s.course := by simp [State.rawWrite]

@[simp] theorem State.poisonRun_course (l n : Nat) : (s.poisonRun l n).course = s.course := by simp [State.poisonRun]

@[simp] theorem State.slicePoison_course (q : Nat) : (s.slicePoison q).course = s.course := by simp [State.slicePoison]

@[simp] theorem State.bufferPass_course (line : Nat) : (s.bufferPass line).course = s.course := by
  unfold State.bufferPass
  split <;> simp

@[simp] theorem State.holdWrite_course (w : HeldWrite) : (s.holdWrite w).course = s.course := by
  unfold State.holdWrite
  split <;> exact State.course_congr rfl

@[simp] theorem State.devWrite_course (l : Nat) (bs : Bytes) : (s.devWrite l bs).course = s.course := by simp [State.devWrite]

@[simp] theorem State.lineWrite_course (l : Nat) (bs : Bytes) : (s.lineWrite l bs).course = s.course := by simp [State.lineWrite]

@[simp] theorem State.devPoison_course (l n : Nat) : (s.devPoison l n).course = s.course := by simp [State.devPoison]

/-! ### The frames of a chase -/

@[simp] theorem State.takeUnit_course (c r : Nat) (layouts : List Nat) : (s.takeUnit c r layouts).2.course = s.course := by
  unfold State.takeUnit
  split <;> simp

@[simp] theorem State.allocIn_course (c need : Nat) (layouts : Nat → List Nat) : (s.allocIn c need layouts).2.course = s.course := by
  unfold State.allocIn
  dsimp only
  split <;> simp

@[simp] theorem State.allocFrame_course (c : Nat) : (s.allocFrame c).2.course = s.course := by simp [State.allocFrame]

@[simp] theorem State.updFrame_course (c f : Nat) (g : FrameEnt → FrameEnt) : (s.updFrame c f g).course = s.course := by
  unfold State.updFrame
  split <;> simp

@[simp] theorem State.zeroPieces_course (ps : List Nat) : (s.zeroPieces ps).course = s.course := by simp [State.zeroPieces]

@[simp] theorem State.fillHoles_course (c f : Nat) (e : FrameEnt) : (s.fillHoles c f e).course = s.course := by simp [State.fillHoles]

@[simp] theorem State.backFrame_course (c a : Nat) : (s.backFrame c a).1.course = s.course := by
  unfold State.backFrame
  split
  · rfl
  · split
    · rfl
    · split
      · rfl
      · split <;> rename_i h <;> simp [State.course_snd h]

@[simp] theorem State.backRun_course (c : Nat) (l : List (Nat × Bytes)) : (s.backRun c l).1.course = s.course := by
  induction l generalizing s with
  | nil => rfl
  | cons p t ih =>
    unfold State.backRun
    split <;> rename_i h
    · simp [ih, State.course_fst h]
    · simp [State.course_fst h]

@[simp] theorem State.settleLost_course (c f : Nat) : (s.settleLost c f).course = s.course := by
  unfold State.settleLost
  split <;> simp

@[simp] theorem State.releaseBands_course : s.releaseBands.course = s.course := by simp [State.releaseBands]

@[simp] theorem State.abandon_course (c : Nat) (p : MigrationEnt → Bool) (back : Bool) : (s.abandon c p back).course = s.course := by
  simp [State.abandon]

@[simp] theorem State.noteWrite_course (plate : Bool) (c a n : Nat) : (s.noteWrite plate c a n).course = s.course := by
  simp [State.noteWrite]

@[simp] theorem State.writeBacked_course (plate : Bool) (c : Nat) (ps : List (Nat × Bytes)) :
    (s.writeBacked plate c ps).course = s.course := by
  refine State.foldl_course (fun s p => ?_) ps s
  split
  · refine (State.settleLost_course ..).trans ((State.foldl_course (fun s q => ?_) _ _).trans (State.noteWrite_course ..))
    split <;> simp
  · rfl

@[simp] theorem State.chaseWrite_course (c a : Nat) (bs : Bytes) : (s.chaseWrite c a bs).1.course = s.course := by
  unfold State.chaseWrite
  dsimp only
  split <;> rename_i h <;> simp [State.course_fst h]

@[simp] theorem State.cacheRun_course (c a n : Nat) : (s.cacheRun c a n).course = s.course := by
  refine State.foldl_course (fun s k => ?_) _ s
  split <;> simp

@[simp] theorem State.noteReadFrom_course (plate : Bool) (c a n : Nat) : (s.noteReadFrom plate c a n).course = s.course := by
  simp [State.noteReadFrom]

@[simp] theorem State.chasePoisonRun_course (c a n : Nat) : (s.chasePoisonRun c a n).course = s.course := by
  refine State.foldl_course (fun s k => ?_) _ s
  split <;> simp

@[simp] theorem State.copyLine_course (src dst : Nat) : (s.copyLine src dst).course = s.course := by simp [State.copyLine]

/-! ### Galleys -/

@[simp] theorem State.setGalley_course (c id : Nat) (g : GalleySt) : (s.setGalley c id g).course = s.course := by simp [State.setGalley]

@[simp] theorem State.updGalley_course (c id : Nat) (f : GalleySt → GalleySt) : (s.updGalley c id f).course = s.course := by
  unfold State.updGalley
  split <;> simp

@[simp] theorem State.newGalFrame_course (c i need : Nat) : (s.newGalFrame c i need).1.course = s.course := by
  unfold State.newGalFrame
  split <;> rename_i h <;> simp [State.course_snd h]

@[simp] theorem State.sweepGal_course (c : Nat) : (s.sweepGal c).course = s.course := by simp [State.sweepGal]

@[simp] theorem State.cacheGal_course (c : Nat) (map : List (Nat × Nat)) (i off n : Nat) :
    (s.cacheGal c map i off n).course = s.course := by
  refine State.foldl_course (fun s k => ?_) _ s
  split <;> simp

@[simp] theorem State.noteGal_course (plate write : Bool) (c : Nat) (map : List (Nat × Nat)) (i off n : Nat) :
    (s.noteGal plate write c map i off n).course = s.course := by
  unfold State.noteGal
  split <;> simp

@[simp] theorem State.galWrite_course (plate : Bool) (c : Nat) (map : List (Nat × Nat)) (i off : Nat) (bs : Bytes) :
    (s.galWrite plate c map i off bs).course = s.course := by
  refine (State.foldl_course (fun s p => ?_) _ _).trans (State.noteGal_course ..)
  split <;> simp

@[simp] theorem State.drainGal_course (c : Nat) (map : List (Nat × Nat)) (i : Nat) : (s.drainGal c map i).course = s.course := by
  refine State.foldl_course (fun s k => ?_) _ s
  (repeat' split) <;> simp

@[simp] theorem State.slugWrite_course (c : Nat) (map : List (Nat × Nat)) (p : RowPlace) (r : Nat) (v : Slug) :
    (s.slugWrite c map p r v).course = s.course := by
  unfold State.slugWrite
  simp only [State.course_ite, State.galWrite_course]
  split
  · refine (State.foldl_course (fun s k => ?_) _ _).trans (by simp)
    split <;> simp
  · rfl

@[simp] theorem State.ownMaster_course (c id i : Nat) : (s.ownMaster c id i).course = s.course := by
  unfold State.ownMaster
  split
  · rfl
  · split
    · rfl
    · split <;> rename_i h <;> simp [State.course_fst h]

@[simp] theorem State.switchCopies_course (c id : Nat) (g : GalleySt) (v x : GalState) (peers : List GuestCopy) :
    (s.switchCopies c id g v x peers).course = s.course := by
  simp [State.switchCopies]

@[simp] theorem State.commitSwitch_course (c id : Nat) (peers : List GuestCopy) : (s.commitSwitch c id peers).course = s.course := by
  unfold State.commitSwitch
  dsimp only
  (repeat' split) <;> simp

@[simp] theorem State.freeDraining_course (c id : Nat) : (s.freeDraining c id).course = s.course := by simp [State.freeDraining]

@[simp] theorem State.freeAllDraining_course (c : Nat) : (s.freeAllDraining c).course = s.course := by simp [State.freeAllDraining]

/-! ### Links and messages -/

@[simp] theorem State.updLink_course (l : Nat) (f : LinkSt → LinkSt) : (s.updLink l f).course = s.course := by simp [State.updLink]

@[simp] theorem State.updFab_course (f : FabSt → FabSt) : (s.updFab f).course = s.course := by simp [State.updFab]

@[simp] theorem State.putFlit_course (l : Nat) (f : Flit) : (s.putFlit l f).course = s.course := by simp [State.putFlit]

@[simp] theorem State.sendOn_course (l : Nat) (f : Flit) : (s.sendOn l f).course = s.course := by simp [State.sendOn]

@[simp] theorem State.freeBuf_course (l vc : Nat) : (s.freeBuf l vc).course = s.course := by simp [State.freeBuf]

@[simp] theorem State.noteTurn_course (o port vc : Nat) : (s.noteTurn o port vc).course = s.course := by simp [State.noteTurn]

@[simp] theorem State.routeFrom_course (f : Flit) (l vc : Nat) : (s.routeFrom f l vc).course = s.course := by
  unfold State.routeFrom
  split <;> simp

@[simp] theorem State.routeFlit_course (f : Flit) : (s.routeFlit f).course = s.course := by simp [State.routeFlit]

@[simp] theorem State.startMsg_course (m : MsgRec) : (s.startMsg m).course = s.course := by simp [State.startMsg]

@[simp] theorem State.sendMsg_course (m : MsgRec) : (s.sendMsg m).course = s.course := by simp [State.sendMsg]

@[simp] theorem State.sendAck_course (dst chase msg status : Nat) : (s.sendAck dst chase msg status).course = s.course := by
  simp [State.sendAck]

@[simp] theorem State.sendCtl_course (c ordinal sub : Nat) (payload : Bytes) : (s.sendCtl c ordinal sub payload).course = s.course := by
  simp [State.sendCtl]

@[simp] theorem State.sendAll_course (c sub : Nat) (payload : Bytes) : (s.sendAll c sub payload).course = s.course := by
  simp [State.sendAll]

/-! ### Plates and ink -/

@[simp] theorem State.dropGroups_course (c : Nat) : (s.dropGroups c).course = s.course := by simp [State.dropGroups]

@[simp] theorem State.dropPlateWaits_course (c : Nat) : (s.dropPlateWaits c).course = s.course := by simp [State.dropPlateWaits]

@[simp] theorem State.dropInk_course (c : Nat) : (s.dropInk c).course = s.course := by
  unfold State.dropInk
  extract_lets x s1 s2 s3
  refine Eq.trans (b := s3.course) (State.course_congr rfl) ?_
  simp [s3, s2, s1]

@[simp] theorem State.clearSampleDir_course (c : Nat) : (s.clearSampleDir c).course = s.course := by simp [State.clearSampleDir]

@[simp] theorem State.plateStarts_course (c : Nat) : (s.plateStarts c).course = s.course := by simp [State.plateStarts]

@[simp] theorem State.startPlate_course (c : Nat) : (s.startPlate c).course = s.course := by simp [State.startPlate]

@[simp] theorem State.postLedger_course : s.postLedger.course = s.course := by simp [State.postLedger]

@[simp] theorem State.lowerGrant_course (c g : Nat) : (s.lowerGrant c g).course = s.course := by simp [State.lowerGrant]

@[simp] theorem State.revokeExcess_course (f : Option Nat) (c : Nat) : (s.revokeExcess f c).course = s.course := by
  simp [State.revokeExcess]

@[simp] theorem State.revokeAll_course (f : Option Nat) (slots : List Nat) : (s.revokeAll f slots).course = s.course := by
  simp [State.revokeAll]

@[simp] theorem State.proportion_course : s.proportion.course = s.course := by simp [State.proportion]

@[simp] theorem State.proportionUntil_course (n : Nat) (s : State) : (s.proportionUntil n).course = s.course := by
  induction n generalizing s with
  | zero => rfl
  | succ n ih =>
    unfold State.proportionUntil
    simp [ih]

@[simp] theorem State.fitLedger_course : s.fitLedger.course = s.course := by simp [State.fitLedger]

@[simp] theorem State.returnLoan_course (c : Nat) : (s.returnLoan c).course = s.course := by simp [State.returnLoan]

/-! ### Marks, budgets and switches -/

@[simp] theorem State.updMark_course (n : Nat) (f : MarkRt → MarkRt) : (s.updMark n f).course = s.course := by simp [State.updMark]

@[simp] theorem State.wakePlate_course (c : Nat) : (s.wakePlate c).course = s.course := by simp [State.wakePlate]

@[simp] theorem State.markDone_course (src msg : Nat) : (s.markDone src msg).course = s.course := by simp [State.markDone]

@[simp] theorem State.charge_course (c cost : Nat) : (s.charge c cost).1.course = s.course := by
  unfold State.charge
  dsimp only
  split <;> simp

@[simp] theorem State.noteSwitch_course (c ordinal id num : Nat) : (s.noteSwitch c ordinal id num).course = s.course := by
  simp [State.noteSwitch]

@[simp] theorem State.tellRoot_course (c id num : Nat) : (s.tellRoot c id num).course = s.course := by simp [State.tellRoot]

@[simp] theorem State.offerSwitch_course (c id : Nat) : (s.offerSwitch c id).course = s.course := by
  unfold State.offerSwitch
  (repeat' split) <;> simp

/-! ### Reads, writes and counts of a plate -/

@[simp] theorem State.noteRead_course (c a n : Nat) : (s.noteRead c a n).course = s.course := State.noteReadFrom_course ..

@[simp] theorem State.addHoles_course (c a n : Nat) : (s.addHoles c a n).course = s.course := by simp [State.addHoles]

@[simp] theorem State.plateWrite_course (c a : Nat) (bs : Bytes) : (s.plateWrite c a bs).1.course = s.course := by
  unfold State.plateWrite
  split <;> rename_i h <;> simp [State.course_fst h]

@[simp] theorem State.plateStore_course (c a : Nat) (bs : Bytes) : (s.plateStore c a bs).course = s.course := by
  simp [State.plateStore]

@[simp] theorem State.updWork_course (c : Nat) (f : WorkCnt → WorkCnt) : (s.updWork c f).course = s.course := by
  simp [State.updWork]

@[simp] theorem State.countClose_course (c p plate : Nat) (cw : CloseWord) (r : CloseResult) :
    (s.countClose c p plate cw r).course = s.course := by
  unfold State.countClose
  split
  · rfl
  · dsimp only
    split <;> simp

@[simp] theorem State.closeOut_course (c : Nat) (o : OutSpec) (t : TileIn) : (s.closeOut c o t).1.course = s.course := by
  simp [State.closeOut]

@[simp] theorem State.closeAll_course (c : Nat) (o : OutSpec) (ts : List TileIn) : (s.closeAll c o ts).1.course = s.course :=
  State.foldl_fst_course (f := fun a t => ((a.1.closeOut c o t).1, a.2 ++ [(a.1.closeOut c o t).2]))
    (fun p t => p.1.closeOut_course c o t) ts (s, [])

@[simp] theorem State.writeTile_course (c a : Nat) (bs : Bytes) : (s.writeTile c a bs).course = s.course := by
  simp [State.writeTile]

@[simp] theorem State.storeArray_course (c base : Nat) (tiles : List Bytes) : (s.storeArray c base tiles).1.course = s.course := by
  unfold State.storeArray
  refine (State.foldl_course (fun s e => ?_) _ _).trans (s.plateStore_course ..)
  split <;> simp

@[simp] theorem State.metaFault_course (c item code : Nat) : (s.metaFault c item code).course = s.course := by
  simp [State.metaFault]

@[simp] theorem State.metaFaults_course (c : Nat) (ts : List OpTile) : (s.metaFaults c ts).course = s.course :=
  State.foldl_course (fun s e => by split <;> simp) _ s

@[simp] theorem State.noteTile_course (c base t : Nat) : (s.noteTile c base t).course = s.course := by simp [State.noteTile]

@[simp] theorem State.noteArray_course (c base n : Nat) : (s.noteArray c base n).course = s.course := by simp [State.noteArray]

@[simp] theorem State.raiseFlags_course (p flags slot plate : Nat) : (s.raiseFlags p flags slot plate).course = s.course := by
  unfold State.raiseFlags
  split
  · rfl
  · simp

/-! ### Stipple buffers, graphs and products -/

@[simp] theorem State.countSpills_course (c k : Nat) (n : SpillCnt) : (s.countSpills c k n).course = s.course := by
  simp [State.countSpills]

@[simp] theorem State.stippleTake_course (c : Nat) (xs : List Contribution) : (s.stippleTake c xs).course = s.course := by
  simp [State.stippleTake]

@[simp] theorem State.stippleMerge_course (c : Nat) : (s.stippleMerge c).1.course = s.course := rfl

@[simp] theorem State.graphFault_course (c code : Nat) (vertex : Option Nat) : (s.graphFault c code vertex).course = s.course := by
  simp [State.graphFault]

@[simp] theorem State.useSplit_course (c graph agSplit : Nat) (g : GraphRec) (os : List Nat) :
    (s.useSplit c graph agSplit g os).1.course = s.course := by
  unfold State.useSplit
  dsimp only
  (repeat' split) <;> simp

@[simp] theorem State.rowFaults_course (c : Nat) (rs : List GraphRow) : (s.rowFaults c rs).course = s.course :=
  State.foldl_course (fun s r => by split <;> simp) rs s

@[simp] theorem State.readSources_course (c : Nat) (j : AggJob) (us : List Nat) : (s.readSources c j us).course = s.course := by
  simp [State.readSources]

@[simp] theorem State.readEdges_course (c : Nat) (g : GraphRec) (lo hi : Nat) : (s.readEdges c g lo hi).course = s.course := by
  simp [State.readEdges]

@[simp] theorem State.sharedWrite_course (c : Nat) (j : AggJob) (ts : List TileIn) : (s.sharedWrite c j ts).course = s.course := by
  simp [State.sharedWrite]

@[simp] theorem State.accumulate_course (c : Nat) (p : FrontPiece) (vs : List Nat) : (s.accumulate c p vs).course = s.course := by
  simp [State.accumulate]

@[simp] theorem State.leaveEngines_course (c : Nat) (ts : List TintTile) : (s.leaveEngines c ts).course = s.course :=
  State.foldl_course (fun s e => by split <;> simp) _ s

@[simp] theorem State.noteTileRead_course (c base : Nat) (t : TileRead) : (s.noteTileRead c base t).course = s.course := by
  simp [State.noteTileRead]

/-! ### Lookups and gradients -/

@[simp] theorem State.noteBags_course (c count : Nat) (g : GatherRec) (wsum : Bool) : (s.noteBags c count g wsum).course = s.course := by
  simp [State.noteBags]

@[simp] theorem State.countGal_course (c id : Nat) (f : GalCnt → GalCnt) : (s.countGal c id f).course = s.course :=
  State.updGalley_course ..

@[simp] theorem State.countBags_course (c id : Nat) (bags : List Bag) : (s.countBags c id bags).course = s.course :=
  State.countGal_course ..

@[simp] theorem State.countUnpooled_course (c id n : Nat) : (s.countUnpooled c id n).course = s.course := State.countGal_course ..

@[simp] theorem State.refetch_course (c id : Nat) (bags : List (List PoolEnt)) : (s.refetch c id bags).course = s.course :=
  State.foldl_course (fun s k => by dsimp only; split <;> simp) _ s

@[simp] theorem State.countSlug_course (c galley slug n : Nat) (place : Nat × Nat × Nat) :
    (s.countSlug c galley slug n place).course = s.course := by simp [State.countSlug]

@[simp] theorem State.countEntries_course (c id : Nat) (bags : List Bag) : (s.countEntries c id bags).course = s.course :=
  State.foldl_course (fun s b => State.foldl_course (fun s e => by split <;> simp) _ s) _ s

@[simp] theorem State.noteRow_course (plate : Bool) (c : Nat) (g : GalleySt) (x : GalState) (k : Nat) :
    (s.noteRow plate c g x k).course = s.course := by simp [State.noteRow]

@[simp] theorem State.noteLookup_course (c : Nat) (g : GalleySt) (x : GalState) (i : Nat) :
    (s.noteLookup c g x i).course = s.course := by
  unfold State.noteLookup
  split <;> simp

@[simp] theorem State.noteRows_course (c : Nat) (g : GalleySt) (x : GalState) (bags : List (List PoolEnt)) :
    (s.noteRows c g x bags).course = s.course := by simp [State.noteRows]

@[simp] theorem State.masterSet_course (plate : Bool) (c id k j : Nat) (v : Int) :
    (s.masterSet plate c id k j v).course = s.course := by
  unfold State.masterSet
  dsimp only
  (repeat' split) <;> simp

@[simp] theorem State.addTotal_course (c id k j : Nat) (q : Int) : (s.addTotal c id k j q).course = s.course := by
  unfold State.addTotal
  split <;> simp

@[simp] theorem State.applyTotal_course (c id : Nat) (t : Total) : (s.applyTotal c id t).1.course = s.course := by
  unfold State.applyTotal
  split
  · rfl
  · dsimp only
    (repeat' split) <;> simp

@[simp] theorem State.atomic_course (c a n : Nat) (f : Bytes → Bytes) : (s.atomic c a n f).1.course = s.course := by
  unfold State.atomic
  dsimp only
  split <;> simp

@[simp] theorem State.arrayAdd_course (c base elements i j q : Nat) : (s.arrayAdd c base elements i j q).1.course = s.course := by
  simp [State.arrayAdd]

@[simp] theorem State.noteArrayDrops_course (c n : Nat) : (s.noteArrayDrops c n).course = s.course := State.updWork_course ..

@[simp] theorem State.applyArray_course (c base elements : Nat) (t : Total) : (s.applyArray c base elements t).1.course = s.course := by
  unfold State.applyArray
  dsimp only
  (repeat' split) <;> simp

theorem State.applyTotals_course {f : State → Total → State × Bool} (hf : ∀ s t, (f s t).1.course = s.course) (ts : List Total) :
    (s.applyTotals f ts).1.course = s.course :=
  State.foldl_fst_course (f := fun a t => ((f a.1 t).1, a.2 || (f a.1 t).2)) (fun p t => hf p.1 t) ts (s, false)

/-! ### Publishing and switching -/

@[simp] theorem State.copyGalFrame_course (e n : FrameEnt) : (s.copyGalFrame e n).course = s.course := by simp [State.copyGalFrame]

@[simp] theorem State.ownFrame_course (c id i need : Nat) : (s.ownFrame c id i need).1.course = s.course := by
  unfold State.ownFrame
  split
  · rfl
  · split
    · rfl
    · split
      · rfl
      · split
        · next h => simp [State.course_fst h]
        · next h =>
          dsimp only
          split <;> simp [State.course_fst h]

@[simp] theorem State.putRow_course (c id k : Nat) (v : Slug) : (s.putRow c id k v).1.course = s.course := by
  unfold State.putRow
  split
  · rfl
  · dsimp only
    split
    · next h => simp [State.course_fst h]
    · next h =>
      split
      · next h' => simp [State.course_fst h', State.course_fst h]
      · next h' =>
        split <;> simp [State.course_fst h', State.course_fst h]

@[simp] theorem State.noteMaster_course (c : Nat) (g : GalleySt) (k : Nat) : (s.noteMaster c g k).course = s.course := by
  simp [State.noteMaster]

@[simp] theorem State.publishRows_course (c id : Nat) (ks : List Nat) : (s.publishRows c id ks).1.course = s.course := by
  induction ks generalizing s with
  | nil => rfl
  | cons k ks ih =>
    unfold State.publishRows
    split
    · rfl
    · dsimp only
      split <;> rename_i h
      · simp [State.course_fst h]
      · simp [ih, State.course_fst h]

@[simp] theorem State.commitIdle_course (c id : Nat) : (s.commitIdle c id).course = s.course := by
  unfold State.commitIdle
  split <;> simp

@[simp] theorem State.requestSwitch_course (c id : Nat) : (s.requestSwitch c id).course = s.course := by
  unfold State.requestSwitch
  split <;> simp

@[simp] theorem State.dropIncoming_course (c id : Nat) : (s.dropIncoming c id).course = s.course := by simp [State.dropIncoming]

@[simp] theorem State.abortGalley_course (c id : Nat) : (s.abortGalley c id).course = s.course := by
  unfold State.abortGalley
  split <;> simp

/-! ### What members send each other -/

@[simp] theorem State.sendEntry_course (c : Nat) (e : XlEnt) : (s.sendEntry c e).course = s.course := by simp [State.sendEntry]

@[simp] theorem State.sendRecords_course (c i kind target : Nat) (recs : List Bytes) :
    (s.sendRecords c i kind target recs).course = s.course := by simp [State.sendRecords]

@[simp] theorem State.sendGuests_course (c id : Nat) (asks : List (Nat × Nat)) : (s.sendGuests c id asks).1.course = s.course := by
  unfold State.sendGuests
  split
  · rfl
  · split
    · rfl
    · split
      · rfl
      · refine State.foldl_fst_course (fun a e => ?_) asks (s, [])
        split
        · rfl
        · dsimp only
          split
          · rfl
          · split
            · next h => simp [State.course_fst h]
            · rfl

@[simp] theorem State.drainGalley_course (c id : Nat) : (s.drainGalley c id).course = s.course := by
  unfold State.drainGalley
  split <;> simp

@[simp] theorem State.drainArray_course (c base : Nat) : (s.drainArray c base).course = s.course := by simp [State.drainArray]

@[simp] theorem State.takeGalDelta_course (c id : Nat) (d : DeltaRec) : (s.takeGalDelta c id d).course = s.course := by
  unfold State.takeGalDelta
  (repeat' split) <;> simp

@[simp] theorem State.applyDeltas_course (c kind target : Nat) (ds : List DeltaRec) :
    (s.applyDeltas c kind target ds).course = s.course := by
  unfold State.applyDeltas
  (repeat' split) <;> simp

@[simp] theorem State.applyWaiting_course (c kind target : Nat) : (s.applyWaiting c kind target).course = s.course := by
  simp [State.applyWaiting]

@[simp] theorem State.reduceSend_course (c : Nat) (recs : List WideRec) : (s.reduceSend c recs).course = s.course := by
  simp [State.reduceSend]

@[simp] theorem State.putTile_course (c base n t : Nat) (b : Bytes) : (s.putTile c base n t b).1.course = s.course := by
  simp [State.putTile]

end

end Sys2Proof.Machine
end

section
/-! PROOF. The commands of plates do the work of the plate in hand (R136, R144, R233, R393). -/

namespace Sys2Proof.Machine

variable {q : List Instr}

/-! ### Work done -/

/-- Where every slot stands: its forme and the index of the plate in hand. -/
def State.place (s : State) : List (Bytes × Nat) := s.chases.map fun x => (x.forme, x.plate.index)

theorem State.place_course {s t : State} (h : t.course = s.course) : t.place = s.place := by
  have hplace (u : State) : u.place = u.course.map fun x => (x.forme, x.index) := by simp [State.place, State.course]
  rw [hplace, hplace, h]

@[simp] theorem State.updChase_place (s : State) (c : Nat) {f : ChaseSt → ChaseSt}
    (hf : ∀ x, ((f x).forme, (f x).plate.index) = (x.forme, x.plate.index)) : (s.updChase c f).place = s.place :=
  State.updChase_map s c (hf _)

/-- In `t` the plate in hand of slot `c` has done its work from `s` on, and stays in hand. -/
def State.WorksTo (c : Nat) (s t : State) : Prop := ∃ (u : State) (k : SummarySlot), t = u.plateWorked c k ∧ u.place = s.place

/-- In `t` the plate has contributed nothing but poison, and no byte has changed. -/
def State.BlanksTo (c : Nat) (s t : State) : Prop := ∃ u : State, t = u.plateWorked c SummarySlot.fault ∧ u.mem = s.mem ∧ u.mb = s.mb

theorem State.WorksTo.after {c : Nat} {s s1 t : State} (h : State.WorksTo c s1 t) (hs : s1.course = s.course) : State.WorksTo c s t := by
  obtain ⟨u, k, ht, hu⟩ := h
  exact ⟨u, k, ht, hu.trans (State.place_course hs)⟩

theorem State.BlanksTo.after {c : Nat} {s s1 t : State} (h : State.BlanksTo c s1 t) (hs : s1.mem = s.mem ∧ s1.mb = s.mb) :
    State.BlanksTo c s t := by
  obtain ⟨u, ht, hmem, hmb⟩ := h
  exact ⟨u, ht, hmem.trans hs.1, hmb.trans hs.2⟩

theorem State.place_chase {s t : State} (h : t.place = s.place) (c : Nat) :
    (t.chase c).plate.index = (s.chase c).plate.index ∧ t.forme c = s.forme c := by
  have hc : ((t.chase c).forme, (t.chase c).plate.index) = ((s.chase c).forme, (s.chase c).plate.index) :=
    State.chase_map (fun x => (x.forme, x.plate.index)) h c
  rw [Prod.mk.injEq] at hc
  exact ⟨hc.2, hc.1⟩

theorem State.chases_length_place {s t : State} (h : t.place = s.place) : t.chases.length = s.chases.length := by
  simpa [State.place] using congrArg List.length h

theorem State.plateWorked_chase {u : State} {c : Nat} {k : SummarySlot} (hc : c < u.chases.length) :
    (u.plateWorked c k).chase c =
      { u.chase c with plate := { (u.chase c).plate with worked := true, contrib := k, flow := u.ranPorts c } } := by
  simp [State.plateWorked, State.updChase, State.setChase, State.chase, hc]

theorem State.WorksTo.place {c : Nat} {s t : State} (h : State.WorksTo c s t) : t.place = s.place := by
  obtain ⟨u, k, rfl, hu⟩ := h
  exact (State.updChase_place u c (by simp)).trans hu

theorem State.WorksTo.worked {c : Nat} {s t : State} (h : State.WorksTo c s t) (hc : c < s.chases.length) :
    (t.chase c).plate.worked = true := by
  obtain ⟨u, k, rfl, hu⟩ := h
  rw [State.plateWorked_chase (by rw [State.chases_length_place hu]; exact hc)]

theorem State.BlanksTo.contrib {c : Nat} {s t : State} (h : State.BlanksTo c s t) (hc : c < t.chases.length) :
    (t.chase c).plate.contrib = SummarySlot.fault ∧ t.mem = s.mem ∧ t.mb = s.mb := by
  obtain ⟨u, rfl, hmem, hmb⟩ := h
  rw [State.plateWorked_chase (by simpa [State.plateWorked, State.updChase, State.setChase] using hc)]
  exact ⟨rfl, hmem, hmb⟩

theorem State.BlanksTo.worked {c : Nat} {s t : State} (h : State.BlanksTo c s t) (hc : c < t.chases.length) :
    (t.chase c).plate.worked = true := by
  obtain ⟨u, rfl, -⟩ := h
  rw [State.plateWorked_chase (by simpa [State.plateWorked, State.updChase, State.setChase] using hc)]

/-! ### Faults of records, and outputs -/

theorem State.recordFault_works (s : State) (c : Nat) : State.WorksTo c s (s.recordFault c) :=
  ⟨_, _, rfl, State.place_course (by simp)⟩

theorem State.recordFault_blanks (s : State) (c : Nat) : State.BlanksTo c s (s.recordFault c) := ⟨_, rfl, by simp, by simp⟩

theorem State.graphRecordFault_works (s : State) (c code : Nat) : State.WorksTo c s (s.graphRecordFault c code) :=
  ⟨_, _, rfl, State.place_course (by simp)⟩

theorem State.graphRecordFault_blanks (s : State) (c code : Nat) : State.BlanksTo c s (s.graphRecordFault c code) :=
  ⟨_, rfl, by simp [State.graphFault], by simp [State.graphFault]⟩

/-- Reading moves lines through the caches and changes no byte. -/
theorem State.noteRead_bytes {s : State} (h : s.Sound q) (c a n : Nat) :
    (s.noteRead c a n).mem = s.mem ∧ (s.noteRead c a n).mb = s.mb := by
  have hframe : State.Frame (maskBut [] [.mem, .mb]) s (s.noteRead c a n) := State.noteRead_frame h.frame rfl
  exact ⟨hframe.parts .mem rfl, hframe.parts .mb rfl⟩

theorem State.writeOutput_works (s : State) (c base : Nat) (o : OutSpec) (ts : List TileIn) :
    State.WorksTo c s (s.writeOutput c base o ts) :=
  ⟨_, _, rfl, State.place_course (by simp)⟩

theorem State.writeBags_works (s : State) (c n : Nat) (p : Plate) (winners : Nat) (bags : List PooledBag) :
    State.WorksTo c s (s.writeBags c n p winners bags) :=
  ⟨_, _, rfl, State.place_course (by simp)⟩

/-! ### GATHER, SPLIT, SERVE and COMBINE -/

/-- A lookup on a record that is poisoned has no bags. -/
theorem readBags_of_poison {rd : Reader} {raw : Bytes × Bool} (h : raw.2 = true) (wsum winners : Bool) (limit count : Nat) :
    readBags rd raw wsum winners limit count = none := if_pos (by simp [h])

section Plates
variable (s : State) (c : Nat)

theorem State.gatherPlate_works : State.WorksTo c s (s.gatherPlate c) := by
  unfold State.gatherPlate
  extract_lets p pool win rd raw s0 rec1
  have h0 : s0.course = s.course := State.noteRead_course ..
  split
  · exact (State.recordFault_works ..).after h0
  · split
    · extract_lets ents runs s1 s2
      exact (State.writeBags_works ..).after (by simp [s2, s1, h0])
    · exact (State.recordFault_works ..).after h0

theorem State.splitPlate_works : State.WorksTo c s (s.splitPlate c) := by
  unfold State.splitPlate
  extract_lets p pool win rd raw s0 rec1 now
  have h0 : s0.course = s.course := State.noteRead_course ..
  split
  · exact (State.recordFault_works ..).after h0
  · split
    · extract_lets row ents reqs q runs held s1 s2 s3
      exact ⟨s3, _, rfl, State.place_course (by simp [s3, s2, s1, h0])⟩
    · exact (State.recordFault_works ..).after h0

theorem State.servePlate_works : State.WorksTo c s (s.servePlate c) := by
  unfold State.servePlate
  extract_lets p mx
  split
  · exact ⟨s, _, rfl, rfl⟩
  · extract_lets keys bagReqs ents parts q s1 of s1' s2 s3
    have h1 : s1'.course = s.course := by
      refine (State.foldl_course (fun s tag => ?_) _ _).trans (State.foldl_course (fun s r => s.countSlug_course ..) _ _)
      split <;> simp
    exact ⟨s3, _, rfl, State.place_course (by simp [s3, s2, h1])⟩

theorem State.combinePlate_works : State.WorksTo c s (s.combinePlate c) := by
  unfold State.combinePlate
  extract_lets p pool win
  split
  · exact State.recordFault_works ..
  · split
    · exact State.recordFault_works ..
    · split
      · exact State.recordFault_works ..
      · exact (State.writeBags_works ..).after (State.updGalley_course ..)

/-! ### SCATTER -/

theorem State.scatterRun_works (job : ScatterJob) (em : Int) (arrival : List Nat) {f : State → Total → State × Bool}
    {cnt : (GalCnt → GalCnt) → State → State} (hf : ∀ s t, (f s t).1.course = s.course)
    (hcnt : ∀ g s, (cnt g s).course = s.course) :
    State.WorksTo c s (s.scatterRun c job em arrival f cnt) := by
  unfold State.scatterRun
  extract_lets idx rounded xs s1 s2 m totals s3 a
  refine ⟨a.1, _, rfl, State.place_course ?_⟩
  simp [a, s3, m, s2, s1, hcnt, State.applyTotals_course _ hf]

theorem State.scatterPlate_works (arrival : List Nat) : State.WorksTo c s (s.scatterPlate c arrival) := by
  unfold State.scatterPlate
  extract_lets p mode gal rd raw r s0 g n limit em braw s0' grec
  have h0 : s0.course = s.course := State.noteRead_course ..
  split
  · exact (State.recordFault_works ..).after h0
  · have h0' : s0'.course = s.course := by simp [s0', h0]
    split
    · exact (State.recordFault_works ..).after h0'
    · extract_lets job s1 s2
      have h1 : s1.course = s.course := by simp [s1, h0']
      split
      · exact (State.scatterRun_works _ _ _ _ _ (fun s t => s.applyTotal_course ..) fun g s => s.countGal_course ..).after
          (by simp [s2, h1])
      · exact (State.scatterRun_works _ _ _ _ _ (fun s t => s.applyArray_course ..) fun _ _ => rfl).after h1

/-! ### DENSE, SPARSE and TINT -/

theorem State.productPlate_works : State.WorksTo c s (s.productPlate c) := by
  unfold State.productPlate
  extract_lets p args rd raw r t tr ok s0 shape job rows read base s2 s3 q s4 s5 s6
  have h0 : s0.course = s.course := State.noteRead_course ..
  split
  · exact (State.recordFault_works ..).after h0
  · have h5 : s5.course = s.course := by simp [s5, s4, s3, s2, h0]
    have h6 : s6.course = s.course := (State.foldl_course (fun s e => by split <;> simp) _ _).trans h5
    exact (State.writeOutput_works ..).after h6

theorem State.tintPlate_works : State.WorksTo c s (s.tintPlate c) := by
  unfold State.tintPlate
  extract_lets p rd raw t s0 prog words lut tiles s1 s2 s3 w sum
  have h0 : s0.course = s.course := State.noteRead_course ..
  split
  · exact ⟨_, _, rfl, State.place_course (by simp [h0])⟩
  · exact ⟨w.1, _, rfl, State.place_course (by simp [w, s3, s2, s1, h0])⟩

/-! ### AGGREGATE and FRONTIER -/

theorem State.aggWrite_works (j : AggJob) (p : Plate) (ts : List TileIn) (winners : Bytes) :
    State.WorksTo c s (s.aggWrite c j p ts winners) :=
  (State.writeOutput_works ..).after (by simp)

theorem State.aggPull_works (j : AggJob) (p : Plate) (os : List Nat) (allBad : Bool) (t : Nat) (cut : List Nat) :
    State.WorksTo c s (s.aggPull c j p os allBad t cut) :=
  (State.aggWrite_works ..).after (by simp)

theorem State.aggPush_works (j : AggJob) (p : Plate) (os : List Nat) (allBad : Bool) (arrival : List Nat) :
    State.WorksTo c s (s.aggPush c j p os allBad arrival) :=
  (State.aggWrite_works ..).after (by simp)

theorem State.aggregatePlate_works (arrival : List Nat) : State.WorksTo c s (s.aggregatePlate c arrival) := by
  unfold State.aggregatePlate
  extract_lets p combine rd raw a graw g s0 os front j lts s2 s3 s4 allBad s5
  have h0 : s0.course = s.course := State.noteRead_course ..
  clear_value allBad j lts front os
  split
  · exact (State.graphRecordFault_works ..).after h0
  · split
    · exact (State.graphRecordFault_works ..).after (by simp [h0])
    · have h3 : s3.course = s.course := by simp [s3, s2, h0]
      have h4 : s4.course = s.course := by
        simp only [s4]
        split <;> simp [h3]
      split
      · have h5 : s5.1.course = s.course := (State.useSplit_course ..).trans h4
        split
        · exact (State.aggPull_works ..).after h5
        · exact (State.aggPush_works ..).after h5
      · exact (State.graphRecordFault_works ..).after h4

theorem State.frontierPlate_works : State.WorksTo c s (s.frontierPlate c) := by
  unfold State.frontierPlate
  extract_lets p mode x rd raw r s0 ex na oa lts len s1 s2 s3 nts ots out exBad next vs list s4 s5 s6
  have h0 : s0.course = s.course := State.noteRead_course ..
  clear_value list vs next ots nts exBad out ex
  split
  · exact (State.graphRecordFault_works ..).after h0
  · split
    · exact (State.graphRecordFault_works ..).after h0
    · have h5 : s5.course = s.course := by simp [s5, s4, s3, s2, s1, h0]
      have h6 : s6.course = s.course := by
        simp only [s6]
        split <;> simp [h5]
      exact ⟨s6, _, rfl, State.place_course h6⟩

/-! ### REDUCE -/

theorem State.reduceNew_works (op : Nat) (r : ReduceRec) (p : Plate) (got : ReduceLines) :
    State.WorksTo c s (s.reduceNew c op r p got) :=
  (State.writeOutput_works ..).after (by simp)

theorem State.reduceMerge_works (op : Nat) (r : ReduceRec) (p : Plate) (got : ReduceLines) :
    State.WorksTo c s (s.reduceMerge c op r p got) := by
  unfold State.reduceMerge
  extract_lets cw kts lts rd hit olds ts s1 s2 cl w
  have h1 : s1.course = s.course := by simp [s1]
  have h2 : s2.course = s.course := by simp [s2, h1]
  have hw : w.1.course = s.course :=
    List.foldlRecOn (motive := fun a : State × List (Int × Bool) => a.1.course = s.course) _ _ (by simp [cl, h2]) fun a ha e _ =>
      (State.putTile_course ..).trans ha
  exact ⟨w.1, _, rfl, State.place_course hw⟩

theorem State.reduceWrite_works (op : Nat) (r : ReduceRec) (p : Plate) (recs : List WideRec) :
    State.WorksTo c s (s.reduceWrite c op r p recs) := by
  unfold State.reduceWrite
  extract_lets rd rows got
  split
  · exact State.reduceMerge_works ..
  · exact State.reduceNew_works ..

theorem State.cacheRead_chases (line : Nat) : (s.cacheRead line).chases = s.chases := by
  unfold State.cacheRead
  dsimp only
  split <;> simp

/-- A chase whose records of the REDUCE in hand are sent has sent them after a read as well. -/
theorem State.noteRead_redSent (a n : Nat) :
    (s.noteRead c a n).chases.map ChaseSt.redSent = s.chases.map ChaseSt.redSent := by
  have hcache : (s.cacheRun c a n).chases = s.chases :=
    List.foldlRecOn (motive := fun u : State => u.chases = s.chases) _ _ rfl fun u hu k _ => by
      split
      · split
        · exact (State.cacheRead_chases u _).trans hu
        · exact hu
      · exact hu
  unfold State.noteRead State.noteReadFrom
  extract_lets lines s1
  refine (State.updChase_map _ _ rfl).trans ?_
  refine List.foldlRecOn (motive := fun u : State => u.chases.map ChaseSt.redSent = s.chases.map ChaseSt.redSent) _ _
    (congrArg _ hcache) fun u hu p _ => ?_
  dsimp only
  unfold State.updFrame
  split
  · exact (State.updChase_map _ _ rfl).trans hu
  · exact hu

theorem State.reduceSend_redSent (recs : List WideRec) (hc : c < s.chases.length) :
    ((s.reduceSend c recs).chase c).redSent = true := by
  unfold State.reduceSend
  extract_lets bs others s1
  have h1 : s1.course = s.course := by simp [s1]
  have hlen : c < s1.chases.length := by rw [State.chases_length_place (State.place_course h1)]; exact hc
  simp [State.updChase, State.setChase, State.chase, hlen]

/-- A REDUCE works, or one of chase scope has sent its records and waits (R205, R211). -/
theorem State.reducePlate_works (hc : c < s.chases.length) : State.WorksTo c s (s.reducePlate c) ∨
    ((s.plate c).chaseScope = true ∧ ((s.reducePlate c).chase c).redSent = true ∧ (s.reducePlate c).place = s.place) := by
  unfold State.reducePlate
  extract_lets p op rd raw r s0 ts hops own flags s1 read s2 others all leaves done
  have h0 : s0.course = s.course := State.noteRead_course ..
  split
  · exact .inl ((State.recordFault_works ..).after h0)
  · have hflags (u : State) (on : Bool) : (flags u on).course = u.course := by simp [flags]
    have hread (u : State) : (read u).course = u.course := by simp [read, hflags]
    have h1 : s1.course = s.course := by simp [s1, h0]
    split
    · next hscope =>
      have h2 : s2.course = s.course := by simp [s2, hread, h1]
      split
      · exact .inl ((State.reduceWrite_works ..).after (by simp [hflags, done, h2]))
      · refine .inr ⟨hscope, ?_, State.place_course h2⟩
        have hr1 : s1.chases.map ChaseSt.redSent = s.chases.map ChaseSt.redSent := by
          simp only [s1]
          split
          · exact State.noteRead_redSent ..
          · exact (State.noteRead_redSent ..).trans (State.noteRead_redSent ..)
        simp only [s2]
        split
        · next hsent => exact (State.chase_map ChaseSt.redSent hr1 c).trans hsent
        · exact State.reduceSend_redSent _ _ own (by rw [State.chases_length_place (State.place_course ((hread s1).trans h1))]; exact hc)
    · exact .inl ((State.reduceWrite_works ..).after ((hread _).trans h1))

/-! ### EXCHANGE -/

theorem State.takeSummary_place (k : Nat) (v : SummarySlot) : (s.takeSummary c k v).place = s.place := by
  simp [State.takeSummary, State.setSlot]

theorem State.rootSummary_place (i k : Nat) (v : SummarySlot) : (s.rootSummary c i k v).place = s.place := by
  unfold State.rootSummary
  extract_lets s1 parts total
  have h1 : s1.place = s.place := State.updChase_place _ _ fun _ => rfl
  split
  · exact (State.takeSummary_place ..).trans ((State.place_course (State.sendAll_course ..)).trans
      ((State.updChase_place _ _ (by simp)).trans h1))
  · exact h1

theorem State.giveSummary_place (k : Nat) (v : SummarySlot) : (s.giveSummary c k v).place = s.place := by
  unfold State.giveSummary
  split
  · exact State.rootSummary_place ..
  · exact State.place_course (State.sendCtl_course ..)

theorem State.exchangeSummary_place (fault : Bool) : (s.exchangeSummary c fault).place = s.place := by
  unfold State.exchangeSummary
  extract_lets p v
  split
  · rfl
  · exact State.giveSummary_place ..

theorem State.exchangeTake_place (fault : Bool) : (s.exchangeTake c fault).place = s.place := by
  unfold State.exchangeTake
  extract_lets p s1 mine lost s2
  exact (State.exchangeSummary_place ..).trans (State.place_course (by simp [s2, s1]))

theorem State.exchangePlate_works (asks : List (Nat × Nat)) : State.WorksTo c s (s.exchangePlate c asks) := by
  unfold State.exchangePlate
  extract_lets p raw es bad list s1 s2 g s4 to_ s5
  split
  · obtain ⟨u, k, hu, hplace⟩ := State.recordFault_works (s.exchangeTake c true) c
    exact ⟨u, k, hu, hplace.trans (State.exchangeTake_place ..)⟩
  · have h1 : s1.course = s.course := by simp [s1]
    have hg : g.1.course = s.course := by simp [g, s2, h1]
    exact ⟨_, _, rfl, (State.exchangeTake_place ..).trans (State.place_course (by simp [s5, s4, hg]))⟩

/-! ### STATE plates -/

theorem State.publishPlate_works : State.WorksTo c s (s.publishPlate c) := by
  unfold State.publishPlate
  extract_lets id
  split
  · exact State.recordFault_works ..
  · extract_lets sealed r
    split
    · exact State.recordFault_works ..
    · exact ⟨_, _, rfl, State.place_course (by simp [r])⟩

end Plates

/-! ### Poisoned records -/

section Poisoned
variable {s : State} {c : Nat} (h : s.Sound q) (hp : (s.chaseRead c (s.plate c).src 64).2 = true)
include h hp

theorem State.gatherPlate_blanks : State.BlanksTo c s (s.gatherPlate c) := by
  have h0 := State.noteRead_bytes h c (s.plate c).src 64
  unfold State.gatherPlate
  extract_lets p pool win rd raw s0 rec1
  split
  · exact (State.recordFault_blanks ..).after h0
  · split
    · next hbags => rw [readBags_of_poison hp] at hbags; cases hbags
    · exact (State.recordFault_blanks ..).after h0

theorem State.splitPlate_blanks : State.BlanksTo c s (s.splitPlate c) := by
  have h0 := State.noteRead_bytes h c (s.plate c).src 64
  unfold State.splitPlate
  extract_lets p pool win rd raw s0 rec1 now
  split
  · exact (State.recordFault_blanks ..).after h0
  · split
    · next hbags => rw [readBags_of_poison hp] at hbags; cases hbags
    · exact (State.recordFault_blanks ..).after h0

theorem State.scatterPlate_blanks (arrival : List Nat) : State.BlanksTo c s (s.scatterPlate c arrival) := by
  have hfault : s.scatterPlate c arrival = (s.noteRead c (s.plate c).src 64).recordFault c := if_pos (by simp [hp])
  exact hfault ▸ (State.recordFault_blanks ..).after (State.noteRead_bytes h ..)

theorem State.productPlate_blanks : State.BlanksTo c s (s.productPlate c) := by
  have hfault : s.productPlate c = (s.noteRead c (s.plate c).src 64).recordFault c := if_pos (by simp [hp])
  exact hfault ▸ (State.recordFault_blanks ..).after (State.noteRead_bytes h ..)

theorem State.tintPlate_blanks : State.BlanksTo c s (s.tintPlate c) := by
  have h0 := State.noteRead_bytes h c (s.plate c).src 64
  exact ⟨_, if_pos (by simp [hp]), by simp [h0], by simp [h0]⟩

theorem State.aggregatePlate_blanks (arrival : List Nat) : State.BlanksTo c s (s.aggregatePlate c arrival) := by
  have hfault : s.aggregatePlate c arrival = (s.noteRead c (s.plate c).src 64).graphRecordFault c gfRecord := if_pos (by simp [hp])
  exact hfault ▸ (State.graphRecordFault_blanks ..).after (State.noteRead_bytes h ..)

theorem State.frontierPlate_blanks : State.BlanksTo c s (s.frontierPlate c) := by
  have hfault : s.frontierPlate c = (s.noteRead c (s.plate c).src 64).graphRecordFault c gfRecord := if_pos (by simp [hp])
  exact hfault ▸ (State.graphRecordFault_blanks ..).after (State.noteRead_bytes h ..)

theorem State.reducePlate_blanks : State.BlanksTo c s (s.reducePlate c) := by
  have hfault : s.reducePlate c = (s.noteRead c (s.plate c).src 64).recordFault c := if_pos (by simp [hp])
  exact hfault ▸ (State.recordFault_blanks ..).after (State.noteRead_bytes h ..)

end Poisoned

/-! ### The commands -/

theorem State.plateDo_of_idle {s : State} {c op : Nat} {hw : List HwEvent} {f : State → State} (h : s.plateRuns c op = false) :
    s.plateDo c op hw f = s := if_neg (by simp [h])

theorem State.plateDo_of_runs {s : State} {c op : Nat} {f : State → State} (h : s.plateRuns c op = true) :
    s.plateDo c op [] f = f s := if_pos h

/-- The plates that read a 64-byte record at PD_SRC (R134). -/
def readsRecord (op : Nat) (p : Plate) : Prop :=
  op = 2 ∨ op = 3 ∨ op = 4 ∨ op = 5 ∨ op = 6 ∨ op = 7 ∨ op = 8 ∨ (op = 1 ∧ p.gaRole < 2)

/-- What the work `w` of a plate of opcode `op` does: it works, but a REDUCE of chase scope may have sent its records and wait; a
poisoned record leaves nothing but poison. -/
structure PlateWork (c op : Nat) (f : Plate → Bool) (w : State → State) : Prop where
  works : ∀ s : State, c < s.chases.length → State.WorksTo c s (w s) ∨
    (op = 8 ∧ (s.plate c).chaseScope = true ∧ ((w s).chase c).redSent = true ∧ (w s).place = s.place)
  blanks : ∀ (q : List Instr) (s : State), s.Sound q → f (s.plate c) = true → (s.chaseRead c (s.plate c).src 64).2 = true →
    readsRecord op (s.plate c) → State.BlanksTo c s (w s)

/-- A plate that always works. -/
theorem PlateWork.of_works {c op : Nat} {f : Plate → Bool} {w : State → State} (hw : ∀ s, State.WorksTo c s (w s))
    (hb : ∀ (q : List Instr) (s : State), s.Sound q → f (s.plate c) = true → (s.chaseRead c (s.plate c).src 64).2 = true →
      readsRecord op (s.plate c) → State.BlanksTo c s (w s)) : PlateWork c op f w := ⟨fun s _ => .inl (hw s), hb⟩

/-- The work of the STATE plate of SO_OP 2: a switch request where an incoming state is held. -/
def State.switchPlate (s : State) (c : Nat) : State :=
  let id := (s.plate c).galley
  let on := match s.galley c id with | some g => g.incoming.isSome | none => false
  (if on then s.requestSwitch c id else s).plateWorked c SummarySlot.empty

/-- The work of the STATE plate of SO_OP 3: an abort where the root has named no switch. -/
def State.stateAbortPlate (s : State) (c : Nat) : State :=
  let id := (s.plate c).galley
  let on := match s.galley c id with | some g => g.named.isNone | none => false
  (if on then s.abortGalley c id else s).plateWorked c SummarySlot.empty

theorem State.switchPlate_works (s : State) (c : Nat) : State.WorksTo c s (s.switchPlate c) := by
  unfold State.switchPlate
  exact ⟨_, _, rfl, State.place_course (by split <;> simp)⟩

theorem State.stateAbortPlate_works (s : State) (c : Nat) : State.WorksTo c s (s.stateAbortPlate c) := by
  unfold State.stateAbortPlate
  exact ⟨_, _, rfl, State.place_course (by split <;> simp)⟩

/-- Each command of a plate runs the work of that plate. -/
theorem PlateSays.exec_work {c op : Nat} {hw : List HwEvent} {i : Instr} {f : Plate → Bool} (h : PlateSays c hw i op f) :
    ∃ w : State → State, PlateWork c op f w ∧
      ∀ s : State, exec i s = .next (if f (s.plate c) = true then s.plateDo c op hw w else s) := by
  cases h with
  | gather => exact ⟨_, .of_works (·.gatherPlate_works c) fun q s h _ hp _ => State.gatherPlate_blanks h hp,
      fun s => by simp only [beq_iff_eq]; rfl⟩
  | split => exact ⟨_, .of_works (·.splitPlate_works c) fun q s h _ hp _ => State.splitPlate_blanks h hp,
      fun s => by simp only [beq_iff_eq]; rfl⟩
  | serve => exact ⟨_, .of_works (·.servePlate_works c) fun q s _ hf _ hr => by simp at hf; simp [readsRecord, hf] at hr,
      fun s => by simp only [beq_iff_eq]; rfl⟩
  | combine => exact ⟨_, .of_works (·.combinePlate_works c) fun q s _ hf _ hr => by simp at hf; simp [readsRecord, hf] at hr,
      fun s => by simp only [beq_iff_eq]; rfl⟩
  | scatter arrival => exact ⟨_, .of_works (·.scatterPlate_works c arrival) fun q s h _ hp _ => State.scatterPlate_blanks h hp arrival,
      fun s => rfl⟩
  | dense => exact ⟨_, .of_works (·.productPlate_works c) fun q s h _ hp _ => State.productPlate_blanks h hp, fun s => rfl⟩
  | sparse => exact ⟨_, .of_works (·.productPlate_works c) fun q s h _ hp _ => State.productPlate_blanks h hp, fun s => rfl⟩
  | aggregate arrival => exact ⟨_, .of_works (·.aggregatePlate_works c arrival) fun q s h _ hp _ =>
      State.aggregatePlate_blanks h hp arrival, fun s => rfl⟩
  | frontier => exact ⟨_, .of_works (·.frontierPlate_works c) fun q s h _ hp _ => State.frontierPlate_blanks h hp, fun s => rfl⟩
  | tint => exact ⟨_, .of_works (·.tintPlate_works c) fun q s h _ hp _ => State.tintPlate_blanks h hp, fun s => rfl⟩
  | reduce => exact ⟨_, ⟨fun s hc => (s.reducePlate_works c hc).imp_right fun hr => ⟨rfl, hr⟩,
      fun q s h _ hp _ => State.reducePlate_blanks h hp⟩, fun s => rfl⟩
  | exchange asks => exact ⟨_, .of_works (·.exchangePlate_works c asks) fun q s _ _ _ hr => by simp [readsRecord] at hr, fun s => rfl⟩
  | publish => exact ⟨_, .of_works (·.publishPlate_works c) fun q s _ _ _ hr => by simp [readsRecord] at hr,
      fun s => by simp only [beq_iff_eq]; rfl⟩
  | switch => exact ⟨_, .of_works (·.switchPlate_works c) fun q s _ _ _ hr => by simp [readsRecord] at hr,
      fun s => by simp only [beq_iff_eq]; rfl⟩
  | stateAbort => exact ⟨_, .of_works (·.stateAbortPlate_works c) fun q s _ _ _ hr => by simp [readsRecord] at hr,
      fun s => by simp only [beq_iff_eq]; rfl⟩

/-- Settles O41: every plate command runs the work of its plate, and each work ends with the plate worked. -/
theorem runningPlatesDoTheirWork : Obligations.RunningPlatesDoTheirWork := by
  unfold Obligations.RunningPlatesDoTheirWork
  intro c op hw i f s hs hsays
  have h := State.sound_of_canonical hs
  obtain ⟨w, hwork, hexec⟩ := hsays.exec_work
  refine ⟨fun hidle => ?_, fun hruns hf hc hhw => ?_⟩
  · rw [hexec]
    rcases hidle with hidle | hidle
    · rw [State.plateDo_of_idle hidle, ite_self]
    · rw [if_neg (by simp [hidle])]
  · subst hhw
    have hlen : c < s.chases.length := by rw [h.slots]; exact hc
    have hplace : (w s).place = s.place := (hwork.works s hlen).elim State.WorksTo.place fun hr => hr.2.2.2
    refine ⟨w s, by rw [hexec, if_pos hf, State.plateDo_of_runs hruns], (State.place_chase hplace c).1, (State.place_chase hplace c).2,
      (hwork.works s hlen).imp (·.worked hlen) fun ⟨h8, hscope, hsent, _⟩ => ⟨h8, hscope, hsent⟩, fun hp hr => ?_⟩
    have hb := hwork.blanks _ s h hf hp hr
    have hlen' : c < (w s).chases.length := by rw [State.chases_length_place hplace]; exact hlen
    exact ⟨hb.worked hlen', hb.contrib hlen'⟩

end Sys2Proof.Machine
end

section
/-! SUPPORT. What the judging of a boundary leaves of a chase and of the registers: a done message, a GO, the end of a member's work
(R120 to R132). -/

namespace Sys2Proof.Machine

variable {q : List Instr}

theorem State.csActive_of_striking {s : State} {c : Nat} (h : s.csStriking c = true) : s.csActive c = true := by
  rw [State.csStriking, Bool.or_eq_true] at h
  rw [State.csActive, Bool.or_assoc, Bool.or_eq_true, Bool.or_eq_true]
  exact .inr h

/-! ### A chase that the judging leaves going -/

/-- What judging writes besides the chases: messages, and the status of the links that carry them. -/
def judgeMask : Nat := regsMask [.hlkRtStatus] ||| partsMask [.out, .fab, .chases]

/-- A chase without what judging writes: the done messages, the verdict held, the switches reported and named. -/
def ChaseSt.unjudged (x : ChaseSt) : ChaseSt := { x with dones := [], verdict := none, switchReqs := [], galleys := [], doneSent := false }

/-- `t` comes of `s` by judging slot `c`, and the chase goes on. -/
structure State.Judged (c : Nat) (s t : State) : Prop where
  frame : State.Frame judgeMask s t
  chase : (t.chase c).unjudged = (s.chase c).unjudged

theorem State.Judged.refl {s : State} {c : Nat} (h : s.Sound q) : State.Judged c s s := ⟨h.frame, rfl⟩

theorem State.Judged.trans {s t u : State} {c : Nat} (h1 : State.Judged c s t) (h2 : State.Judged c t u) : State.Judged c s u :=
  ⟨h1.frame.trans h2.frame, h2.chase.trans h1.chase⟩

theorem State.Judged.getF {s t : State} {c : Nat} (h : State.Judged c s t) {f : Field} {i : Nat} (hi : i < f.reg.info.count)
    (hf : judgeMask.testBit f.reg.ctorIdx = false) : t.getF f i = s.getF f i := State.getF_of_frame h.frame hi hf

theorem State.Judged.stopAt {s t : State} {c : Nat} (h : State.Judged c s t) : (t.chase c).stopAt = (s.chase c).stopAt :=
  congrArg (·.stopAt) h.chase

theorem State.Judged.realign {s t : State} {c : Nat} (h : State.Judged c s t) : (t.chase c).realign = (s.chase c).realign :=
  congrArg (·.realign) h.chase

section Going
variable {s : State} {c : Nat} (h : s.Sound q) (hc : c < 16)
include h

theorem State.sendAll_judged (sub : Nat) (b : Bytes) : State.Judged c s (s.sendAll c sub b) := by
  have hframe : State.Frame judgeMask s (s.sendAll c sub b) := State.sendAll_frame h.frame rfl
  have hchases : (s.sendAll c sub b).chases = s.chases := (State.sendAll_sameBut h.rise c sub b).part (p := .chases) (by simp)
  exact ⟨hframe, by rw [State.chase_congr hchases]⟩

theorem State.sendCtl_judged (i sub : Nat) (b : Bytes) : State.Judged c s (s.sendCtl c i sub b) := by
  have hframe : State.Frame judgeMask s (s.sendCtl c i sub b) := State.sendCtl_frame h.frame rfl
  have hsent : State.Frame (maskBut [] [.chases]) s (s.sendCtl c i sub b) := State.sendCtl_frame h.frame rfl
  exact ⟨hframe, by rw [State.chase_congr (hsent.parts .chases rfl)]⟩

include hc

theorem State.updChase_judged {f : ChaseSt → ChaseSt} (hf : ∀ x, (f x).unjudged = x.unjudged) :
    State.Judged c s (s.updChase c f) :=
  ⟨State.updChase_frame h.frame rfl, by rw [State.chase_updChase h hc]; exact hf _⟩

/-- No stop stroke in force has come at boundary `m` (R132). -/
def State.goesOn (s : State) (c m : Nat) : Prop := s.cs c = csRunning ∨ ∀ n, (s.chase c).stopAt = some n → m < n

omit h hc in
theorem State.goesOn_of_none (hstop : (s.chase c).stopAt = none) (m : Nat) : s.goesOn c m :=
  .inr fun n hn => by rw [hstop] at hn; cases hn

omit h hc in
theorem State.takeGo_of_goesOn {m : Nat} (hgo : s.goesOn c m) (start : Nat) (named : List (Nat × Nat)) :
    s.takeGo c m start named = (s.noteNamed c m named).updChase c fun x => { x with verdict := some (m, start) } := by
  unfold State.takeGo
  rcases hgo with hrun | hstop
  · exact if_neg (by simp [hrun, csRunning, csStopping])
  · split
    · next n hn => exact if_neg (by simp [Nat.not_le.2 (hstop n hn)])
    · exact if_neg (by simp)

theorem State.takeGo_judged {m : Nat} (hgo : s.goesOn c m) (start : Nat) (named : List (Nat × Nat)) :
    State.Judged c s (s.takeGo c m start named) := by
  have hnamed : (s.noteNamed c m named).Sound q := State.noteNamed_sound h
  rw [State.takeGo_of_goesOn hgo]
  have h1 : State.Judged c s (s.noteNamed c m named) := State.updChase_judged h hc fun _ => rfl
  exact h1.trans (State.updChase_judged hnamed hc fun _ => rfl)

theorem State.takeGo_verdict {m : Nat} (hgo : s.goesOn c m) (start : Nat) (named : List (Nat × Nat)) :
    ((s.takeGo c m start named).chase c).verdict = some (m, start) := by
  have hnamed : (s.noteNamed c m named).Sound q := State.noteNamed_sound h
  rw [State.takeGo_of_goesOn hgo, State.chase_updChase hnamed hc]

/-- GO that the root issues to a chase with no stop stroke in force. -/
theorem State.issueGo_going (hstop : (s.chase c).stopAt = none) (m start : Nat) :
    State.Judged c s (s.issueGo c m start) ∧ ((s.issueGo c m start).chase c).verdict = some (m, start) := by
  unfold State.issueGo
  extract_lets named s1
  have hs1 : s1.Sound q := State.updChase_sound h
  have h1 : State.Judged c s s1 := State.updChase_judged h hc fun _ => rfl
  generalize words ([m, 1, start] ++ named.flatMap fun e => [e.1, e.2]) = b
  have h2 : State.Judged c s (s1.sendAll c ctlVerdict b) := h1.trans (State.sendAll_judged hs1 _ _)
  have hsent : (s1.sendAll c ctlVerdict b).Sound q := State.sendAll_sound hs1
  have hgo : (s1.sendAll c ctlVerdict b).goesOn c m := State.goesOn_of_none (h2.stopAt.trans hstop) m
  exact ⟨h2.trans (State.takeGo_judged hsent hc hgo ..), State.takeGo_verdict hsent hc hgo ..⟩

theorem State.rootJudge_judged (hstop : (s.chase c).stopAt = none) : State.Judged c s (s.rootJudge c) := by
  unfold State.rootJudge
  extract_lets m b l t
  split
  · split
    · exact (State.issueGo_going h hc hstop ..).1
    · split
      · exact (State.issueGo_going h hc hstop ..).1
      · exact .refl h
  · exact .refl h

theorem State.rootDone_judged (hstop : (s.chase c).stopAt = none) (i stamp : Nat) : State.Judged c s (s.rootDone c i stamp) := by
  unfold State.rootDone
  split
  · have hnoted : State.Judged c s (s.updChase c fun x => { x with dones := x.dones ++ [(i, stamp)] }) :=
      State.updChase_judged h hc fun _ => rfl
    exact hnoted.trans (State.rootJudge_judged (State.updChase_sound h) hc (hnoted.stopAt.trans hstop))
  · exact .refl h

theorem State.checkFinish_judged (hstop : (s.chase c).stopAt = none) : State.Judged c s (s.checkFinish c) := by
  unfold State.checkFinish
  extract_lets x s1
  have hs1 : s1.Sound q := State.updChase_sound h
  have h1 : State.Judged c s s1 := State.updChase_judged h hc fun _ => rfl
  split
  · split
    · exact h1.trans (State.rootDone_judged hs1 hc (h1.stopAt.trans hstop) ..)
    · exact h1.trans (State.sendCtl_judged hs1 ..)
  · exact .refl h

/-- A chase with no stop stroke in force goes on from the end of a member's work. -/
theorem State.endWork_judged (hstop : (s.chase c).stopAt = none) :
    State.Judged c (s.updChase c fun x => { x with finished := true }) (s.endWork c) :=
  State.checkFinish_judged (State.updChase_sound h) hc (by rw [State.chase_updChase h hc]; exact hstop)

end Going

/-! ### A chase that faults tells the others -/

section Faults
variable {s : State} {c : Nat} (h : s.Sound q) (hact : s.csActive c = true)
include h hact

theorem State.faultChase_getF {f : Field} {i : Nat} (hi : i < f.reg.info.count) (hf : judgeMask.testBit f.reg.ctorIdx = false)
    (code : Nat) : (s.faultChase c code).getF f i = (s.faultLocal c code).getF f i := by
  rw [State.faultChase, if_pos hact]
  exact (State.sendAll_judged (c := c) (State.faultLocal_sound h) _ _).getF hi hf

variable (hc : c < 16)
include hc

theorem State.faultChase_cs (code : Nat) : (s.faultChase c code).cs c = csFaulted :=
  (State.faultChase_getF h hact hc rfl code).trans (State.faultLocal_cs h hc hact code)

theorem State.faultChase_fault {code : Nat} (hcode : code < 2 ^ 8) : (s.faultChase c code).getF Fld.stkFault c = code :=
  (State.faultChase_getF h hact hc rfl code).trans (State.faultLocal_fault h hc hact hcode)

end Faults

end Sys2Proof.Machine
end

section
/-! PROOF. Boundaries are judged: done messages, verdicts and slips (R122 to R132, R329). -/

namespace Sys2Proof.Machine

variable {q : List Instr}

/-! ### What judging depends on -/

section Same
variable {s t : State} {c : Nat} (h : State.Judged c s t) (hc : c < 16)
include h

theorem State.Judged.ordinal : t.ordinal c = s.ordinal c :=
  State.ordinal_congr (congrArg (·.forme) h.chase) (h.getF (by decide) rfl)

theorem State.Judged.members : t.members c = s.members c := State.members_congr (congrArg (·.forme) h.chase)

theorem State.Judged.judge : (t.chase c).judge = (s.chase c).judge := congrArg (·.judge) h.chase

theorem State.Judged.chaseNow : t.chaseNow c = s.chaseNow c := by
  have hpend : (t.chase c).pendingStep = (s.chase c).pendingStep := congrArg (·.pendingStep) h.chase
  have hnow : t.now = s.now := h.frame.regs .timeNs rfl 0 (by decide)
  unfold State.chaseNow
  rw [hpend, hnow]

include hc

theorem State.Judged.cs : t.cs c = s.cs c := h.getF hc rfl

theorem State.Judged.csStriking : t.csStriking c = s.csStriking c := by rw [State.csStriking, h.cs hc, State.csStriking]

theorem State.Judged.boundary (n : Nat) : t.boundary c n = s.boundary c n := by
  unfold State.boundary State.periodNs
  rw [h.getF (f := Fld.stkEpoch) hc rfl, h.getF (f := Fld.stkPeriodNs) hc rfl]

theorem State.Judged.announceNs : t.announceNs c = s.announceNs c := by
  unfold State.announceNs
  rw [h.getF (f := Fld.stkAnnounce) hc rfl]

theorem State.Judged.holdNs : t.holdNs c = s.holdNs c := by
  unfold State.holdNs State.periodNs
  rw [h.getF (f := Fld.stkHoldPm) hc rfl, h.getF (f := Fld.stkPeriodNs) hc rfl]

end Same

theorem State.ackCtl_judged {s : State} (h : s.Sound q) (c sub i : Nat) : State.Judged c s (s.ackCtl c sub i) := by
  have hframe : State.Frame judgeMask s (s.ackCtl c sub i) := State.ackCtl_frame h.frame rfl
  exact ⟨hframe, by rw [State.ackCtl_chase h]⟩

/-! ### DONE -/

/-- The verdict of a root that holds every done message at time `now` (R123). -/
def State.goAt (s : State) (c : Nat) : Option (Nat × Nat) :=
  let m := (s.chase c).judge
  if s.chaseNow c + s.announceNs c ≤ s.boundary c m then some (m, s.boundary c m)
  else if s.chaseNow c + s.announceNs c ≤ s.boundary c m + s.holdNs c then some (m, s.chaseNow c + s.announceNs c) else none

theorem State.Judged.goAt {s t : State} {c : Nat} (h : State.Judged c s t) (hc : c < 16) : t.goAt c = s.goAt c := by
  simp only [State.goAt]
  rw [h.judge, h.chaseNow, h.announceNs hc, h.boundary hc, h.holdNs hc]

theorem State.rootJudge_idle {s : State} {c : Nat} (hall : s.allDone c = false) : s.rootJudge c = s := by
  unfold State.rootJudge
  extract_lets m b l t
  rw [if_neg (by simp [hall])]

section Root
variable {s : State} {c : Nat} (h : s.Sound q) (hc : c < 16) (hcs : s.csStriking c = true) (hroot : s.ordinal c = 0)
include h hc hcs hroot

theorem State.rootJudge_verdict (hall : s.allDone c = true) (hverdict : (s.chase c).verdict = none)
    (hstop : (s.chase c).stopAt = none) : ((s.rootJudge c).chase c).verdict = s.goAt c := by
  unfold State.rootJudge State.goAt
  extract_lets m b l t
  rw [if_pos (by simp [hroot, hcs, hall, hverdict])]
  split_ifs
  · exact (State.issueGo_going h hc hstop ..).2
  · exact (State.issueGo_going h hc hstop ..).2
  · exact hverdict

omit h hc in
theorem State.rootDone_notes {i : Nat} (hi : i < s.members c) (hnew : ∀ d ∈ (s.chase c).dones, d.1 ≠ i) (stamp : Nat) :
    s.rootDone c i stamp = (s.updChase c fun x => { x with dones := x.dones ++ [(i, stamp)] }).rootJudge c := by
  have hfresh : ((s.chase c).dones.any fun d => d.1 == i) = false := by simpa using fun a b hd => hnew (a, b) hd
  exact if_pos (by simp [hroot, hcs, hi, hfresh])

end Root

/-- A root holds every done message once each member has sent one. -/
theorem State.allDone_iff {s : State} {c : Nat} :
    s.allDone c = true ↔ ∀ k, k < s.members c → ∃ d ∈ (s.chase c).dones, d.1 = k := by
  simp [State.allDone]

section Done
variable {s : State} {c i : Nat} (stamp : Nat) (h : s.Sound q) (hup : s.isUp = true) (hc : c < 16) (hcs : s.csStriking c = true)
  (hroot : s.ordinal c = 0) (hi : 0 < i) (hmem : i < s.members c) (hnew : ∀ d ∈ (s.chase c).dones, d.1 ≠ i)
include h hup hc hcs hroot hi hmem hnew

/-- A done message of another member is kept, and the boundary judged. -/
theorem exec_done : ∃ u : State, exec (.done c i stamp) s = .next (u.rootJudge c) ∧ u.Sound q ∧ State.Judged c s u ∧
    (u.chase c).dones = (s.chase c).dones ++ [(i, stamp)] ∧ (u.chase c).verdict = (s.chase c).verdict := by
  have hack : (s.ackCtl c ctlDone i).Sound q := State.ackCtl_sound h
  have hj : State.Judged c s (s.ackCtl c ctlDone i) := State.ackCtl_judged h ..
  have hchase : (s.ackCtl c ctlDone i).chase c = s.chase c := State.ackCtl_chase h _
  have hexec : exec (.done c i stamp) s = .next ((s.ackCtl c ctlDone i).rootDone c i stamp) :=
    congrArg Host.Outcome.next (State.ifB_true (by simp [hup, hcs, Nat.ne_of_gt hi]) _)
  rw [State.rootDone_notes ((hj.csStriking hc).trans hcs) (hj.ordinal.trans hroot) (hj.members ▸ hmem)
    (by rw [hchase]; exact hnew)] at hexec
  refine ⟨_, hexec, State.updChase_sound hack, hj.trans (State.updChase_judged hack hc fun _ => rfl), ?_⟩
  rw [State.chase_updChase hack hc, hchase]
  exact ⟨rfl, rfl⟩

/-- While a member's message is missing the root gives no verdict. -/
theorem done_missing (hmiss : ∃ k, k < s.members c ∧ k ≠ i ∧ ∀ d ∈ (s.chase c).dones, d.1 ≠ k) :
    ∃ t, exec (.done c i stamp) s = .next t ∧ (t.chase c).dones = (s.chase c).dones ++ [(i, stamp)] ∧
      (t.chase c).verdict = (s.chase c).verdict := by
  obtain ⟨u, hexec, -, hj, hdones, hverdict⟩ := exec_done stamp h hup hc hcs hroot hi hmem hnew
  obtain ⟨k, hk, hki, hnone⟩ := hmiss
  have hidle : u.allDone c = false := by
    rw [Bool.eq_false_iff, Ne, State.allDone_iff, hdones, hj.members]
    intro hall
    obtain ⟨d, hd, rfl⟩ := hall k hk
    rcases List.mem_append.1 hd with hd | hd
    · exact hnone d hd rfl
    · exact hki (by rw [List.mem_singleton.1 hd])
  rw [State.rootJudge_idle hidle] at hexec
  exact ⟨u, hexec, hdones, hverdict⟩

/-- With the last done message the root judges its boundary. -/
theorem done_last (hall : ∀ k, k < s.members c → k ≠ i → ∃ d ∈ (s.chase c).dones, d.1 = k) (hv : (s.chase c).verdict = none)
    (hstop : (s.chase c).stopAt = none) : ∃ t, exec (.done c i stamp) s = .next t ∧ (t.chase c).verdict = s.goAt c := by
  obtain ⟨u, hexec, hs, hj, hdones, hverdict⟩ := exec_done stamp h hup hc hcs hroot hi hmem hnew
  have hdone : u.allDone c = true := by
    rw [State.allDone_iff, hdones, hj.members]
    intro k hk
    by_cases hki : k = i
    · exact ⟨(i, stamp), by simp, hki.symm⟩
    · obtain ⟨d, hd, hdk⟩ := hall k hk hki
      exact ⟨d, List.mem_append_left _ hd, hdk⟩
  refine ⟨_, hexec, (State.rootJudge_verdict hs hc ((hj.csStriking hc).trans hcs) (hj.ordinal.trans hroot) hdone (hverdict.trans hv)
    (hj.stopAt.trans hstop)).trans (hj.goAt hc)⟩

end Done

/-! ### VERDICT -/

/-- The switches that a GO names are due at its boundary; nothing else of the galleys changes. -/
theorem kvGet_named {l : List (Nat × GalleySt)} {named : List (Nat × Nat)} {id num m : Nat} {g : GalleySt} (hid : (id, num) ∈ named)
    (hg : kvGet l id = some g) :
    kvGet (l.map fun g => if named.any (fun e => e.1 == g.1) then (g.1, { g.2 with named := some m }) else g) id =
      some { g with named := some m } := by
  induction l with
  | nil => cases hg
  | cons a l ih =>
    obtain ⟨k, x⟩ := a
    have hkey : ((if named.any (fun e => e.1 == k) then (k, { x with named := some m }) else (k, x)) : Nat × GalleySt) =
        (k, if named.any (fun e => e.1 == k) then { x with named := some m } else x) := by split <;> rfl
    rw [kvGet] at hg
    rw [List.map_cons, hkey, kvGet]
    split_ifs at hg with heq hlt
    · subst heq
      have hany : named.any (fun e => e.1 == id) = true := List.any_eq_true.2 ⟨_, hid, by simp⟩
      cases hg
      rw [if_pos rfl, if_pos hany]
    · rw [if_neg heq, if_neg hlt]
      exact ih hg

/-- A chase that stops runs no phase (R132). -/
theorem State.stopped_phase {s : State} {c : Nat} (h : s.Sound q) (hc : c < 16) : (s.stopped c).getF Fld.stkPhase c = 0 := by
  have hset : (s.setFs c [(Fld.sysChaseState, csLoaded), (Fld.stkParked, 0)]).Sound q := State.setFs_sound h
  have hframe : State.Frame (maskBut [.stkStatus] [])
      ((s.setFs c [(Fld.sysChaseState, csLoaded), (Fld.stkParked, 0)]).setFs c [(Fld.stkPhase, 0), (Fld.stkSlipping, 0)])
      (s.stopped c) :=
    State.finishWhere_frame (State.updChase_frame (State.updChase_frame (State.freeAllDraining_frame (State.dropInk_frame
      (State.dropGroups_frame (State.dropPlateWaits_frame (State.setFs_sound hset).frame rfl) rfl) rfl) rfl) rfl) rfl) rfl
  calc (s.stopped c).getF Fld.stkPhase c = _ := State.getF_of_frame hframe hc rfl
    _ = 0 := State.getF_setFs hset ⟨by decide, by decide, hc⟩ [] _ rfl rfl

section Verdict
variable {s : State} {c m start : Nat} {named : List (Nat × Nat)} (h : s.Sound q) (hup : s.isUp = true) (hc : c < 16)
  (hcs : s.csStriking c = true) (hord : s.ordinal c ≠ 0)
include h hup hcs hord

theorem exec_verdict (go : Bool) : exec (.verdict c m go start named) s = .next
    (if m < (s.chase c).judge then (if go then (s.ackCtl c ctlVerdict 0).noteNamed c m named else s.ackCtl c ctlVerdict 0)
    else if (s.chase c).verdict.isSome then s.ackCtl c ctlVerdict 0
    else if go then (s.ackCtl c ctlVerdict 0).takeGo c m start named else (s.ackCtl c ctlVerdict 0).slip c m) := by
  refine congrArg Host.Outcome.next ((State.ifB_true (by simp [hup, hcs, hord]) _).trans ?_)
  simp only [State.ackCtl_chase h]

include hc

/-- A verdict on a boundary already judged begins nothing: of the chase only the switches that a GO names become due. -/
theorem verdict_judged (go : Bool) (hj : m < (s.chase c).judge ∨ (s.chase c).verdict.isSome = true) :
    ∃ t, exec (.verdict c m go start named) s = .next t ∧ t.cs c = s.cs c ∧ (t.chase c).verdict = (s.chase c).verdict ∧
      (t.chase c).judge = (s.chase c).judge ∧ (go = false ∨ (s.chase c).judge ≤ m → t.chase c = s.chase c) ∧
      (go = true → m < (s.chase c).judge → ∀ id num g, (id, num) ∈ named → s.galley c id = some g →
        t.galley c id = some { g with named := some m }) := by
  have hack : (s.ackCtl c ctlVerdict 0).Sound q := State.ackCtl_sound h
  have hacs : (s.ackCtl c ctlVerdict 0).cs c = s.cs c := (State.ackCtl_judged h ..).cs hc
  have hchase : (s.ackCtl c ctlVerdict 0).chase c = s.chase c := State.ackCtl_chase h _
  refine ⟨_, exec_verdict h hup hcs hord go, ?_⟩
  by_cases hm : m < (s.chase c).judge
  · rw [if_pos hm]
    by_cases hgo : go = true
    · have hnamed : ((s.ackCtl c ctlVerdict 0).noteNamed c m named).chase c = { s.chase c with
          galleys := (s.chase c).galleys.map fun g =>
            if named.any (fun e => e.1 == g.1) then (g.1, { g.2 with named := some m }) else g } :=
        (State.chase_updChase hack hc _).trans (by rw [hchase])
      rw [if_pos hgo, hnamed]
      refine ⟨hacs, rfl, rfl, fun hno => hno.elim (fun hno => by simp [hgo] at hno) fun hno => absurd hm (Nat.not_lt.2 hno),
        fun _ _ id num g hid hg => ?_⟩
      rw [State.galley, hnamed]
      exact kvGet_named hid hg
    · rw [if_neg hgo, hchase]
      exact ⟨hacs, rfl, rfl, fun _ => rfl, fun hyes => absurd hyes hgo⟩
  · rw [if_neg hm, if_pos (hj.resolve_left hm), hchase]
    exact ⟨hacs, rfl, rfl, fun _ => rfl, fun _ hyes => absurd hyes hm⟩

variable (hm : (s.chase c).judge ≤ m) (hv : (s.chase c).verdict = none)
include hm hv

omit hc in
theorem exec_verdict_go : exec (.verdict c m true start named) s = .next ((s.ackCtl c ctlVerdict 0).takeGo c m start named) := by
  rw [exec_verdict h hup hcs hord, if_neg (Nat.not_lt.2 hm), if_neg (by simp [hv]), if_pos rfl]

/-- A member holds a GO verdict until its stroke begins (R124). -/
theorem verdict_held (hgo : s.goesOn c m) : ∃ t, exec (.verdict c m true start named) s = .next t ∧
    (t.chase c).verdict = some (m, start) ∧ t.cs c = s.cs c := by
  have hack : (s.ackCtl c ctlVerdict 0).Sound q := State.ackCtl_sound h
  have hj : State.Judged c s (s.ackCtl c ctlVerdict 0) := State.ackCtl_judged h ..
  have hgo' : (s.ackCtl c ctlVerdict 0).goesOn c m := by rw [State.goesOn, hj.cs hc, hj.stopAt]; exact hgo
  exact ⟨_, exec_verdict_go h hup hcs hord hm hv, State.takeGo_verdict hack hc hgo' ..,
    ((State.takeGo_judged hack hc hgo' ..).cs hc).trans (hj.cs hc)⟩

/-- A stopping chase whose stop stroke has come goes to LOADED (R132). -/
theorem verdict_stops {n : Nat} (hstopping : s.cs c = csStopping) (hstop : (s.chase c).stopAt = some n) (hn : n ≤ m) :
    ∃ t, exec (.verdict c m true start named) s = .next t ∧ t.cs c = csLoaded ∧ (t.chase c).stopAt = none ∧
      t.getF Fld.stkPhase c = 0 ∧ t.endsTickets s c 0x03 stOk (dValue n 0) := by
  have hack : (s.ackCtl c ctlVerdict 0).Sound q := State.ackCtl_sound h
  have hchase : (s.ackCtl c ctlVerdict 0).chase c = s.chase c := State.ackCtl_chase h _
  have hstopped : (s.ackCtl c ctlVerdict 0).takeGo c m start named = (s.ackCtl c ctlVerdict 0).stopped c := by
    have hacs : (s.ackCtl c ctlVerdict 0).cs c = csStopping := ((State.ackCtl_judged h ..).cs hc).trans hstopping
    exact if_pos (by simp [hchase, hstop, hn, hacs])
  have hends := State.endsTickets_stopped (s.ackCtl c ctlVerdict 0) c
  rw [hchase, hstop] at hends
  refine ⟨_, exec_verdict_go h hup hcs hord hm hv, ?_⟩
  rw [hstopped]
  exact ⟨State.stopped_cs hack hc, (State.stopped_chase hack hc).1, State.stopped_phase hack hc,
    State.endsTickets_congr (State.tickets_core (State.ackCtl_core ..)) hends⟩

end Verdict

end Sys2Proof.Machine
end

section
/-! PROOF. Slips of boundaries (R126, R127, R129, R130, R807). -/

namespace Sys2Proof.Machine

variable {q : List Instr}

/-! ### Slips as time passes -/

/-- A chase that adopts a step counts the boundaries it skips apart from the slips (R742). -/
theorem State.adoptStep_slipTotal {s : State} {c : Nat} (h : s.Sound q) (hc : c < 16) (k : Nat) :
    (s.adoptStep k).getF Fld.stkSlipTotal c = s.getF Fld.stkSlipTotal c := by
  unfold State.adoptStep
  split
  · rfl
  · extract_lets x b past moved s1
    have hs1 : s1.Sound q := State.updChase_sound h
    have hbump : (s1.bumpWrap Fld.stkSlipStep k past).Sound q := State.bumpWrap_sound hs1
    split
    · rfl
    · split
      · rfl
      · calc _ = (s1.bumpWrap Fld.stkSlipStep k past).getF Fld.stkSlipTotal c :=
              State.getF_setF_apart hbump (by decide) hc (.inl (by decide))
          _ = s1.getF Fld.stkSlipTotal c := State.getF_setF_apart hs1 (by decide) hc (.inr (.inr (by decide)))

theorem State.passTo_slipTotal {s : State} {c : Nat} (h : s.Sound q) (hc : c < 16) (t : Nat) :
    (s.passTo t).getF Fld.stkSlipTotal c = s.getF Fld.stkSlipTotal c := by
  have hcount : ∃ u : State, s.passTo t = u.adoptSteps ∧ u.Sound q ∧ u.getF Fld.stkSlipTotal c = s.getF Fld.stkSlipTotal c := by
    refine ⟨_, rfl, ?_⟩
    split
    · have hmb : s.mbEnds.Sound q := State.mbEnds_sound h
      have hup : State.Sound q { s.mbEnds with upNs := s.upNs + (t - s.now) } := State.Sound.rest hmb rfl
      have hframe : State.Frame (maskBut [.stkSlips] []) s s.mbEnds := State.mbEnds_frame h.frame rfl
      refine ⟨State.setCtr_sound hup, ?_⟩
      calc _ = State.getF { s.mbEnds with upNs := s.upNs + (t - s.now) } Fld.stkSlipTotal c :=
            State.getF_of_frame (State.setCtr_frame (M := maskBut [.stkSlips] []) hup.frame rfl) hc rfl
        _ = s.mbEnds.getF Fld.stkSlipTotal c := State.getF_congr rfl
        _ = s.getF Fld.stkSlipTotal c := State.getF_of_frame hframe hc rfl
    · exact ⟨h, rfl⟩
  obtain ⟨u, hu, hs, hget⟩ := hcount
  rw [hu, ← hget]
  exact (State.adoptSteps_induct (P := fun v => v.Sound q ∧ v.getF Fld.stkSlipTotal c = u.getF Fld.stkSlipTotal c) ⟨hs, rfl⟩
    fun v k hv => ⟨State.adoptStep_sound hv.1, (State.adoptStep_slipTotal hv.1 hc k).trans hv.2⟩).2

theorem State.chaseDue_slipTotal {s : State} {c : Nat} (h : s.Sound q) (hc : c < 16) (due : State → Nat) :
    (s.chaseDue c due).getF Fld.stkSlipTotal c = s.getF Fld.stkSlipTotal c := by
  obtain ⟨s1, hs1, hsound, t, ht⟩ := State.chaseDue_passes h c due
  rw [ht, State.passTo_slipTotal hsound hc]
  rcases hs1 with rfl | ⟨t1, -, rfl⟩
  · rfl
  · exact State.passTo_slipTotal h hc t1

/-! ### A slip counts -/

/-- `u` is as `s` in what a slip of slot `c` depends on and in what it counts. -/
structure State.SlipFrom (c : Nat) (s u : State) : Prop where
  sound : ∃ q, u.Sound q
  chase : u.chase c = s.chase c
  cs : u.cs c = s.cs c
  total : u.getF Fld.stkSlipTotal c = s.getF Fld.stkSlipTotal c
  consec : u.getF Fld.stkConsecSlips c = s.getF Fld.stkConsecSlips c
  repairs : u.getF Fld.rasRepairSlips 0 = s.getF Fld.rasRepairSlips 0

/-- What a slip of slot `c` leaves: its counters, and the fault of the third in a row (R126, R129, R130, R807). -/
def State.Slipped (c : Nat) (s t : State) : Prop :=
  t.getF Fld.stkSlipTotal c = (s.getF Fld.stkSlipTotal c + 1) % 2 ^ 32 ∧
  ((s.chase c).substituting = false → s.getF Fld.stkConsecSlips c < 2 →
    t.getF Fld.stkConsecSlips c = s.getF Fld.stkConsecSlips c + 1 ∧ ((s.chase c).stopAt = none → t.cs c = s.cs c)) ∧
  ((s.chase c).substituting = false → s.getF Fld.stkConsecSlips c = 2 → t.cs c = csFaulted ∧ t.getF Fld.stkFault c = fSlipLimit) ∧
  ((s.chase c).substituting = true → s.getF Fld.stkConsecSlips c < 3 →
    t.getF Fld.stkConsecSlips c = s.getF Fld.stkConsecSlips c ∧
    t.getF Fld.rasRepairSlips 0 = min (s.getF Fld.rasRepairSlips 0 + 1) (2 ^ 16 - 1))

theorem State.SlipFrom.slipped {c : Nat} {s u t : State} (h : State.SlipFrom c s u) (ht : State.Slipped c u t) : State.Slipped c s t := by
  unfold State.Slipped at ht ⊢
  rwa [h.total, h.consec, h.chase, h.cs, h.repairs] at ht

/-- A slip of boundary `m` counted, before it is asked whether it is the third in a row. -/
def State.slipCounted (s : State) (c m : Nat) : State :=
  let s1 := (s.bumpWrap Fld.stkSlipTotal c 1).setF Fld.stkSlipping c 1
  let s2 := if (s.chase c).substituting then s1.bump Fld.rasRepairSlips 0 1
    else s1.setF Fld.stkConsecSlips c (s1.getF Fld.stkConsecSlips c + 1)
  s2.updChase c fun x => { x with judge := x.judgeFrom (m + 1) }

theorem State.slip_of_striking {s : State} {c : Nat} (hcs : s.csStriking c = true) (m : Nat) :
    s.slip c m = if 3 ≤ (s.slipCounted c m).getF Fld.stkConsecSlips c then (s.slipCounted c m).faultChase c fSlipLimit
      else s.slipCounted c m := if_pos hcs

section Counted
variable {s : State} {c : Nat} (h : s.Sound q) (hc : c < 16) (m : Nat)
include h

theorem State.slipCounted_sound : (s.slipCounted c m).Sound q := by
  unfold State.slipCounted
  extract_lets s1 s2
  have hs1 : s1.Sound q := State.setF_sound (State.bumpWrap_sound h)
  refine State.updChase_sound ?_
  simp only [s2]
  split
  · exact State.bump_sound hs1
  · exact State.setF_sound hs1

include hc

/-- The count of slips, the state of the chase, and its counters of consecutive slips and of slips of a substitution. -/
theorem State.slipCounted_counts : (s.slipCounted c m).getF Fld.stkSlipTotal c = (s.getF Fld.stkSlipTotal c + 1) % 2 ^ 32 ∧
    (s.slipCounted c m).cs c = s.cs c ∧ ((s.slipCounted c m).chase c).stopAt = (s.chase c).stopAt ∧
    ((s.chase c).substituting = false →
      (s.slipCounted c m).getF Fld.stkConsecSlips c = (s.getF Fld.stkConsecSlips c + 1) % 2 ^ 2) ∧
    ((s.chase c).substituting = true → (s.slipCounted c m).getF Fld.stkConsecSlips c = s.getF Fld.stkConsecSlips c ∧
      (s.slipCounted c m).getF Fld.rasRepairSlips 0 = min (s.getF Fld.rasRepairSlips 0 + 1) (2 ^ 16 - 1)) := by
  unfold State.slipCounted
  extract_lets s1 s2
  have hbump : (s.bumpWrap Fld.stkSlipTotal c 1).Sound q := State.bumpWrap_sound h
  have hs1 : s1.Sound q := State.setF_sound hbump
  have hchase1 : s1.chase c = s.chase c := State.chase_congr (by simp [s1]) c
  have htotal1 : s1.getF Fld.stkSlipTotal c = (s.getF Fld.stkSlipTotal c + 1) % 2 ^ 32 :=
    (State.getF_setF_apart hbump (by decide) hc (.inl (by decide))).trans
      ((State.getF_setF h ⟨by decide, by decide, hc⟩).trans (Nat.mod_mod _ _))
  have hconsec1 : s1.getF Fld.stkConsecSlips c = s.getF Fld.stkConsecSlips c :=
    (State.getF_setF_apart hbump (by decide) hc (.inr (.inr (by decide)))).trans
      (State.getF_setF_apart h (by decide) hc (.inl (by decide)))
  have hkept1 (f : Field) (i : Nat) (hi : i < f.reg.info.count) (hf : f.reg ∉ [RegName.stkStatus, .stkSlips]) :
      s1.getF f i = s.getF f i := by
    rw [List.mem_cons, List.mem_singleton, not_or] at hf
    exact (State.getF_setF_apart hbump (by decide) hi (.inl hf.1)).trans (State.getF_setF_apart h (by decide) hi (.inl hf.2))
  have hs2 : s2.Sound q := by
    simp only [s2]
    split
    · exact State.bump_sound hs1
    · exact State.setF_sound hs1
  rw [State.updChase_getF, State.updChase_getF, State.updChase_getF, State.cs, State.updChase_getF, State.chase_updChase hs2 hc]
  simp only [s2]
  split
  · next hsub =>
    refine ⟨(State.getF_bump_apart hs1 (by decide) hc (.inl (by decide))).trans htotal1,
      (State.getF_bump_apart hs1 (by decide) hc (.inl (by decide))).trans (hkept1 _ _ hc (by decide)),
      congrArg ChaseSt.stopAt ((State.chase_congr (State.bump_chases ..) c).trans hchase1), fun hno => by simp [hsub] at hno,
      fun _ => ⟨(State.getF_bump_apart hs1 (by decide) hc (.inl (by decide))).trans hconsec1, ?_⟩⟩
    rw [State.getF_bump hs1 ⟨by decide, by decide, by decide⟩, hkept1 _ _ (by decide) (by decide)]
    exact Nat.mod_eq_of_lt (Nat.lt_of_le_of_lt (Nat.min_le_right ..) (by decide))
  · next hsub =>
    refine ⟨(State.getF_setF_apart hs1 (by decide) hc (.inl (by decide))).trans htotal1,
      (State.getF_setF_apart hs1 (by decide) hc (.inl (by decide))).trans (hkept1 _ _ hc (by decide)),
      congrArg ChaseSt.stopAt ((State.chase_congr (State.setF_chases ..) c).trans hchase1), fun _ => ?_, fun hyes => absurd hyes hsub⟩
    rw [State.getF_setF hs1 ⟨by decide, by decide, hc⟩, hconsec1]
    rfl

/-- A slip counts, and the third in a row faults the chase. -/
theorem State.slip_slipped (hcs : s.csStriking c = true) : State.Slipped c s (s.slip c m) ∧
    (((s.chase c).stopAt = none → ((s.slip c m).chase c).stopAt = none) ∨ (s.slip c m).cs c = csFaulted) := by
  have hs : (s.slipCounted c m).Sound q := State.slipCounted_sound h m
  obtain ⟨htotal, hstate, hstop, hrow, hsub⟩ := State.slipCounted_counts h hc m
  rw [State.slip_of_striking hcs]
  split
  · next hthird =>
    have hact : (s.slipCounted c m).csActive c = true := State.csActive_of_striking (by rw [State.csStriking, hstate]; exact hcs)
    have hfaulted := State.faultChase_cs hs hact hc fSlipLimit
    have hkept : ((s.slipCounted c m).faultChase c fSlipLimit).getF Fld.stkSlipTotal c = (s.slipCounted c m).getF Fld.stkSlipTotal c :=
      State.getF_of_frame (State.faultChase_frame (M := maskBut [.stkSlips] []) hs.frame rfl) hc rfl
    refine ⟨⟨hkept.trans htotal, fun hno hlt => ?_, fun hno htwo => ⟨hfaulted, State.faultChase_fault hs hact hc (by decide)⟩,
      fun hyes hlt => ?_⟩, .inr hfaulted⟩
    · rw [hrow hno] at hthird
      omega
    · rw [(hsub hyes).1] at hthird
      omega
  · next hfirst =>
    refine ⟨⟨htotal, fun hno hlt => ⟨(hrow hno).trans (Nat.mod_eq_of_lt (by omega)), fun _ => hstate⟩, fun hno htwo => ?_,
      fun hyes _ => hsub hyes⟩, .inl fun hnone => hstop.trans hnone⟩
    rw [hrow hno, htwo] at hfirst
    exact absurd (by decide) hfirst

end Counted

/-! ### The root judges the next boundary after a slip -/

theorem State.rootJudge_still {s : State} {c : Nat} (hcs : s.csStriking c = false) : s.rootJudge c = s := by
  unfold State.rootJudge
  extract_lets m b l t
  rw [if_neg (by simp [hcs])]

section Judges
variable {s : State} {c : Nat} (h : s.Sound q) (hc : c < 16)
include h hc

theorem State.stopped_consec : (s.stopped c).getF Fld.stkConsecSlips c = s.getF Fld.stkConsecSlips c := by
  have hset : (s.setFs c [(Fld.sysChaseState, csLoaded), (Fld.stkParked, 0)]).Sound q := State.setFs_sound h
  have hframe : State.Frame (maskBut [.stkStatus] [])
      ((s.setFs c [(Fld.sysChaseState, csLoaded), (Fld.stkParked, 0)]).haltChase c) (s.stopped c) :=
    State.finishWhere_frame (State.updChase_frame (State.haltChase_sound hset).frame rfl) rfl
  calc (s.stopped c).getF Fld.stkConsecSlips c
      = ((s.setFs c [(Fld.sysChaseState, csLoaded), (Fld.stkParked, 0)]).haltChase c).getF Fld.stkConsecSlips c :=
        State.getF_of_frame hframe hc rfl
    _ = (s.setFs c [(Fld.sysChaseState, csLoaded), (Fld.stkParked, 0)]).getF Fld.stkConsecSlips c :=
        State.haltChase_getF hset hc (.inl rfl) rfl
    _ = s.getF Fld.stkConsecSlips c := State.getF_setFs_of_clear h hc rfl

theorem State.takeGo_consec (m start : Nat) (named : List (Nat × Nat)) :
    (s.takeGo c m start named).getF Fld.stkConsecSlips c = s.getF Fld.stkConsecSlips c := by
  unfold State.takeGo
  split_ifs
  · exact State.stopped_consec h hc
  · rfl

theorem State.issueGo_consec (m start : Nat) : (s.issueGo c m start).getF Fld.stkConsecSlips c = s.getF Fld.stkConsecSlips c := by
  unfold State.issueGo
  extract_lets named s1
  have hs1 : s1.Sound q := State.updChase_sound h
  generalize words ([m, 1, start] ++ named.flatMap fun e => [e.1, e.2]) = b
  exact (State.takeGo_consec (State.sendAll_sound hs1) hc ..).trans ((State.sendAll_judged (c := c) hs1 _ b).getF hc rfl)

theorem State.rootJudge_consec : (s.rootJudge c).getF Fld.stkConsecSlips c = s.getF Fld.stkConsecSlips c := by
  unfold State.rootJudge
  extract_lets m b l t
  split
  · split
    · exact State.issueGo_consec h hc ..
    · split
      · exact State.issueGo_consec h hc ..
      · rfl
  · rfl

/-- The root judges on after a slip, and the slip stands. -/
theorem State.slipRootJudge_slipped (m : Nat) (hcs : s.csStriking c = true) : State.Slipped c s ((s.slip c m).rootJudge c) := by
  have hs : (s.slip c m).Sound q := State.slip_sound h
  obtain ⟨⟨htotal, hrow, hthird, hsub⟩, hgoing⟩ := State.slip_slipped h hc m hcs
  by_cases hstrikes : (s.slip c m).csStriking c = true
  · have hnotf : (s.slip c m).cs c ≠ csFaulted := by
      intro hf
      rw [State.csStriking, hf] at hstrikes
      exact absurd hstrikes (by decide)
    have hframe : State.Frame (maskBut [.stkSlips, .rasStatus] []) (s.slip c m) ((s.slip c m).rootJudge c) :=
      State.rootJudge_frame hs.frame rfl
    have hkept : ((s.slip c m).rootJudge c).getF Fld.stkSlipTotal c = (s.slip c m).getF Fld.stkSlipTotal c :=
      State.getF_of_frame hframe hc rfl
    have hconsec := State.rootJudge_consec hs hc
    refine ⟨hkept.trans htotal, fun hno hlt => ?_, fun hno htwo => absurd (hthird hno htwo).1 hnotf,
      fun hyes hlt => ?_⟩
    · obtain ⟨hone, hstate⟩ := hrow hno hlt
      refine ⟨hconsec.trans hone, fun hnone => ?_⟩
      exact ((State.rootJudge_judged hs hc ((hgoing.resolve_right hnotf) hnone)).cs hc).trans (hstate hnone)
    · obtain ⟨hsame, hrepairs⟩ := hsub hyes hlt
      exact ⟨hconsec.trans hsame, (State.getF_of_frame hframe (by decide) rfl).trans hrepairs⟩
  · rw [State.rootJudge_still (Bool.eq_false_iff.2 hstrikes)]
    exact ⟨htotal, hrow, hthird, hsub⟩

end Judges

/-! ### SLIP, VERDICT and VERDICT_TIMEOUT -/

section Says
variable {s : State} {c : Nat} (h : s.Sound q) (hc : c < 16)
include h hc

theorem State.slipFrom_chaseDue (hnone : (s.chase c).pendingStep = none) (due : State → Nat) :
    State.SlipFrom c s (s.chaseDue c due) :=
  ⟨⟨q, State.chaseDue_sound h⟩, State.chaseDue_chase h c due hnone, State.chaseDue_getF h c due hc (by decide),
    State.chaseDue_slipTotal h hc due, State.chaseDue_status h c due rfl hc rfl, State.chaseDue_getF h c due (by decide) (by decide)⟩

theorem State.slipFrom_ackCtl (sub i : Nat) : State.SlipFrom c s (s.ackCtl c sub i) := by
  have hj := State.ackCtl_judged h c sub i
  exact ⟨⟨q, State.ackCtl_sound h⟩, State.ackCtl_chase h sub, hj.cs hc, hj.getF hc rfl, hj.getF hc rfl, hj.getF (by decide) rfl⟩

theorem State.slipFrom_sendAll (sub : Nat) (b : Bytes) : State.SlipFrom c s (s.sendAll c sub b) := by
  have hj := State.sendAll_judged (c := c) h sub b
  have hchases := (State.sendAll_sameBut h.rise c sub b).part (p := .chases) (by simp)
  exact ⟨⟨q, State.sendAll_sound h⟩, State.chase_congr hchases c, hj.cs hc, hj.getF hc rfl, hj.getF hc rfl, hj.getF (by decide) rfl⟩

end Says

theorem State.SlipFrom.trans {c : Nat} {s u v : State} (h1 : State.SlipFrom c s u) (h2 : State.SlipFrom c u v) : State.SlipFrom c s v :=
  ⟨h2.sound, h2.chase.trans h1.chase, h2.cs.trans h1.cs, h2.total.trans h1.total, h2.consec.trans h1.consec,
    h2.repairs.trans h1.repairs⟩

theorem State.SlipFrom.striking {c : Nat} {s u : State} (h : State.SlipFrom c s u) (hcs : s.csStriking c = true) :
    u.csStriking c = true := by rw [State.csStriking, h.cs]; exact hcs

/-- The root slips the boundary that it would judge next (R123, R126). -/
theorem execSlip_eq {s : State} {c : Nat} (h : s.Sound q) (hup : s.isUp = true) (hcs : s.csStriking c = true) (hroot : s.ordinal c = 0)
    (hv : (s.chase c).verdict = none) (hnone : (s.chase c).pendingStep = none) :
    execSlip c s = .next ((((s.chaseDue c fun u => u.boundary c (s.chase c).judge + u.holdNs c - u.announceNs c).sendAll c ctlVerdict
      (words [(s.chase c).judge, 0, 0])).slip c (s.chase c).judge).rootJudge c) := by
  unfold execSlip
  rw [State.ifB_true (by simp [hup, hcs, hroot, hv])]
  extract_lets m s1
  rw [State.ifB_true (by simp only [s1, m, State.chaseDue_chase h c _ hnone, beq_self_eq_true])]

/-- A member that receives no verdict slips the boundary (R127). -/
theorem execVerdictTimeout_eq {s : State} {c : Nat} (h : s.Sound q) (hup : s.isUp = true) (hcs : s.csStriking c = true)
    (hord : s.ordinal c ≠ 0) (hv : (s.chase c).verdict = none) (hnone : (s.chase c).pendingStep = none) :
    execVerdictTimeout c s = .next ((s.chaseDue c fun u => u.boundary c (s.chase c).judge + u.holdNs c + u.announceNs c).slip c
      (s.chase c).judge) := by
  unfold execVerdictTimeout
  rw [State.ifB_true (by simp [hup, hcs, hord, hv])]
  extract_lets m s1
  rw [State.ifB_true (by simp only [s1, m, State.chaseDue_chase h c _ hnone, beq_self_eq_true])]

/-- Each way in which a boundary is slipped counts it, with no step of the counter to adopt. -/
theorem slipSays_slipped {s : State} {c : Nat} {i : Instr} (h : s.Sound q) (hup : s.isUp = true) (hc : c < 16)
    (hcs : s.csStriking c = true) (hsays : s.SlipSays c i) (hv : (s.chase c).verdict = none) (hnone : (s.chase c).pendingStep = none) :
    ∃ t, exec i s = .next t ∧ State.Slipped c s t := by
  cases hsays with
  | root hroot =>
    have hdue := State.slipFrom_chaseDue h hc hnone fun u => u.boundary c (s.chase c).judge + u.holdNs c - u.announceNs c
    obtain ⟨q1, hs1⟩ := hdue.sound
    have hsent := hdue.trans (State.slipFrom_sendAll hs1 hc ctlVerdict (words [(s.chase c).judge, 0, 0]))
    obtain ⟨q2, hs2⟩ := hsent.sound
    exact ⟨_, execSlip_eq h hup hcs hroot hv hnone, hsent.slipped (State.slipRootJudge_slipped hs2 hc _ (hsent.striking hcs))⟩
  | told m start named hord hm =>
    have hack := State.slipFrom_ackCtl h hc ctlVerdict 0
    obtain ⟨q1, hs1⟩ := hack.sound
    refine ⟨_, (exec_verdict h hup hcs hord false).trans ?_, hack.slipped (State.slip_slipped hs1 hc m (hack.striking hcs)).1⟩
    rw [if_neg (Nat.not_lt.2 hm), if_neg (by simp [hv]), if_neg Bool.false_ne_true]
  | silent hord =>
    have hdue := State.slipFrom_chaseDue h hc hnone fun u => u.boundary c (s.chase c).judge + u.holdNs c + u.announceNs c
    obtain ⟨q1, hs1⟩ := hdue.sound
    exact ⟨_, execVerdictTimeout_eq h hup hcs hord hv hnone, hdue.slipped (State.slip_slipped hs1 hc _ (hdue.striking hcs)).1⟩

/-- Settles O39: the root judges with the last done message, a member takes or keeps verdicts, and a slip counts. -/
theorem boundariesAreJudged : Obligations.BoundariesAreJudged := by
  unfold Obligations.BoundariesAreJudged
  refine ⟨fun c i stamp s hs hup hc hcs hroot hi hmem hnew => ?_, fun c m start named s hs hup hc hcs hord => ?_,
    fun c i s hs hup hc hcs hsays hv hnone => slipSays_slipped (State.sound_of_canonical hs) hup hc hcs hsays hv hnone⟩
  all_goals have h := State.sound_of_canonical hs
  · exact ⟨done_missing stamp h hup hc hcs hroot hi hmem hnew, done_last stamp h hup hc hcs hroot hi hmem hnew⟩
  · exact ⟨fun go hj => verdict_judged h hup hc hcs hord go hj, fun hm hv => ⟨verdict_held h hup hc hcs hord hm hv,
      fun n hstopping hstop hn => verdict_stops h hup hc hcs hord hm hv hstopping hstop hn⟩⟩

end Sys2Proof.Machine
end

section
/-! SUPPORT. What faults, the end of a member's work, marks and the plates reached leave of the courses of the slots. -/

namespace Sys2Proof.Machine

section
variable (s : State)

/-! ### Tickets, samples and faults -/

@[simp] theorem State.finishWhere_course (p : Ticket → Bool) (status : Nat) (detail : Bytes) :
    (s.finishWhere p status detail).course = s.course := by simp [State.finishWhere]

@[simp] theorem State.updTicket_course (ring seq : Nat) (f : Ticket → Ticket) : (s.updTicket ring seq f).course = s.course := by
  simp [State.updTicket]

@[simp] theorem State.finishTicket_course (ring seq status : Nat) (detail : Bytes) :
    (s.finishTicket ring seq status detail).course = s.course := by simp [State.finishTicket]

@[simp] theorem State.freeSamples_course (c : Nat) : (s.freeSamples c).course = s.course := by simp [State.freeSamples]

@[simp] theorem State.haltChase_course (c : Nat) : (s.haltChase c).course = s.course := by simp [State.haltChase]

@[simp] theorem State.faultLocal_course (c code : Nat) : (s.faultLocal c code).course = s.course := by
  unfold State.faultLocal
  dsimp only
  split <;> simp

@[simp] theorem State.faultChase_course (c code : Nat) : (s.faultChase c code).course = s.course := by
  unfold State.faultChase
  split <;> simp

/-! ### Verdicts and the end of a member's work -/

@[simp] theorem State.stopped_course (c : Nat) : (s.stopped c).course = s.course := by simp [State.stopped]

@[simp] theorem State.noteNamed_course (c m : Nat) (named : List (Nat × Nat)) : (s.noteNamed c m named).course = s.course := by
  simp [State.noteNamed]

@[simp] theorem State.takeGo_course (c m start : Nat) (named : List (Nat × Nat)) : (s.takeGo c m start named).course = s.course := by
  unfold State.takeGo
  split_ifs <;> simp

@[simp] theorem State.issueGo_course (c m start : Nat) : (s.issueGo c m start).course = s.course := by simp [State.issueGo]

@[simp] theorem State.rootJudge_course (c : Nat) : (s.rootJudge c).course = s.course := by
  unfold State.rootJudge
  dsimp only
  split_ifs <;> simp

@[simp] theorem State.rootDone_course (c i stamp : Nat) : (s.rootDone c i stamp).course = s.course := by
  unfold State.rootDone
  split <;> simp

@[simp] theorem State.checkFinish_course (c : Nat) : (s.checkFinish c).course = s.course := by
  unfold State.checkFinish
  dsimp only
  split_ifs <;> simp

@[simp] theorem State.endWork_course (c : Nat) : (s.endWork c).course = s.course := by simp [State.endWork]

/-! ### Marks -/

@[simp] theorem State.postWaiters_course (n : Nat) : (s.postWaiters n).course = s.course := by simp [State.postWaiters]

@[simp] theorem State.serveWait_course (n : Nat) (w : MarkWait) : (s.serveWait n w).course = s.course := by
  cases w <;> simp [State.serveWait]

@[simp] theorem State.consume_course (n : Nat) (ws : List MarkWait) : (s.consume n ws).course = s.course := by
  induction ws generalizing s with
  | nil => rfl
  | cons w ws ih =>
    cases w with
    | plate c f =>
      unfold State.consume
      split <;> simp [ih]
    | ticket ring seq f => exact ih s

@[simp] theorem State.serveMark_course (n : Nat) : (s.serveMark n).course = s.course := by
  unfold State.serveMark
  dsimp only
  split <;> simp

@[simp] theorem State.markFault_course (c code mark count : Nat) : (s.markFault c code mark count).course = s.course := by
  simp [State.markFault]

@[simp] theorem State.beginWait_course (c n : Nat) : (s.beginWait c n).course = s.course := by simp [State.beginWait]

/-! ### The plate reached -/

/-- The plate reached is in hand, whatever follows; the forme and the summary slots stay (R119, R136). -/
theorem State.reachPlate_place (c index : Nat) :
    (s.reachPlate c index).course = (s.updChase c fun x => { x with plate := { PlateRt.none with index := index } }).course := by
  unfold State.reachPlate
  extract_lets p blank s1 dist s2
  have h1 : s1.course = (s.updChase c fun x => { x with plate := { PlateRt.none with index := index } }).course :=
    State.course_congr (by simp [s1, blank, State.updChase, State.chase_congr (State.setF_chases ..)])
  have h2 : s2.course = s1.course := by
    simp only [s2]
    split <;> simp
  rw [← h1]
  split
  · simp
  · rw [← h2]
    split
    · simp
    · split
      · simp
      · split <;> simp

end

end Sys2Proof.Machine
end

section
/-! PROOF. A signal to a mark without waits (R531, R532, R534, R535). -/

namespace Sys2Proof.Machine

variable {q : List Instr}

/-- Looking up in a list whose values are mapped. -/
theorem kvGet_mapSnd {α β : Type} (g : α → β) (l : List (Nat × α)) (k : Nat) :
    kvGet (l.map fun e => (e.1, g e.2)) k = (kvGet l k).map g := by
  induction l with
  | nil => rfl
  | cons a l ih =>
    obtain ⟨k', v⟩ := a
    simp only [List.map_cons, kvGet, ih]
    split_ifs <;> rfl

/-! ### What stays of a mark -/

/-- `t` has of mark `n` the count, the sense and the flips of `s`; where `s` holds no wait on it, so does `t`. -/
structure State.MarkStays (n : Nat) (s t : State) : Prop where
  sound : ∃ q, t.Sound q
  count : t.getF Fld.mrkCount n = s.getF Fld.mrkCount n
  sense : t.getF Fld.mrkSense n = s.getF Fld.mrkSense n
  flips : (t.mark n).flips = (s.mark n).flips
  quiet : (s.mark n).waits = [] → (t.mark n).waits = []

theorem State.MarkStays.trans {n : Nat} {s t u : State} (h1 : State.MarkStays n s t) (h2 : State.MarkStays n t u) :
    State.MarkStays n s u :=
  ⟨h2.sound, h2.count.trans h1.count, h2.sense.trans h1.sense, h2.flips.trans h1.flips, fun h => h2.quiet (h1.quiet h)⟩

/-- The waits of a slot's plates leave a mark, and nothing else of it changes. -/
theorem State.mark_dropPlateWaits (s : State) (c n : Nat) : ((s.dropPlateWaits c).mark n).flips = (s.mark n).flips ∧
    ((s.mark n).waits = [] → ((s.dropPlateWaits c).mark n).waits = []) := by
  unfold State.dropPlateWaits State.mark
  extract_lets keep
  simp only [kvGet_mapSnd fun m : MarkRt => { m with waits := m.waits.filter keep }]
  cases kvGet s.marks n with
  | none => exact ⟨rfl, id⟩
  | some m => exact ⟨rfl, fun h => by simpa using congrArg (List.filter keep) h⟩

section
variable {s : State} (h : s.Sound q)
include h

/-- A fault of a chase leaves of the marks all but the waits of its plates (R159). -/
theorem State.faultLocal_marks (c code n : Nat) : ((s.faultLocal c code).mark n).flips = (s.mark n).flips ∧
    ((s.mark n).waits = [] → ((s.faultLocal c code).mark n).waits = []) := by
  unfold State.faultLocal
  split
  · extract_lets s1 s2 s3
    have hs1 : s1.Sound q := State.setFs_sound h
    have hhalt : (s1.setFs c [(Fld.stkPhase, 0), (Fld.stkSlipping, 0)]).Sound q := State.setFs_sound hs1
    have hframe : State.Frame (maskBut [] [.marks]) ((s1.setFs c [(Fld.stkPhase, 0), (Fld.stkSlipping, 0)]).dropPlateWaits c)
        (((s3.clearSampleDir c).freeSamples c).eventFault) :=
      State.eventFault_frame (State.freeSamples_frame (State.clearSampleDir_frame (State.finishWhere_frame (State.updChase_frame
        (State.updChase_frame (State.freeAllDraining_frame (State.dropInk_frame (State.dropGroups_frame
          (State.dropPlateWaits_sound hhalt).frame rfl) rfl) rfl) rfl) rfl) rfl) rfl) rfl) rfl
    have hmark : (s1.setFs c [(Fld.stkPhase, 0), (Fld.stkSlipping, 0)]).mark n = s.mark n :=
      State.mark_congr ((State.setFs_marks ..).trans (State.setFs_marks ..)) n
    rw [State.mark_congr (hframe.parts .marks rfl) n, ← hmark]
    exact State.mark_dropPlateWaits ..
  · exact ⟨rfl, id⟩

theorem State.faultChase_marks (c code n : Nat) : ((s.faultChase c code).mark n).flips = (s.mark n).flips ∧
    ((s.mark n).waits = [] → ((s.faultChase c code).mark n).waits = []) := by
  unfold State.faultChase
  split
  · have hsent := (State.sendAll_sameBut (State.faultLocal_sound (c := c) (code := code) h).rise c ctlFault (words [code])).part
      (p := .marks) (by simp)
    rw [State.mark_congr hsent n]
    exact State.faultLocal_marks h c code n
  · exact ⟨rfl, id⟩

variable {n : Nat} (hn : n < 2 ^ 14)
include hn

/-- A mark fault leaves count and sense of every mark (R535). -/
theorem State.markFault_stays (c code mark count : Nat) : State.MarkStays n s (s.markFault c code mark count) := by
  have hset : (s.setFs c [(Fld.mrkFCode, code), (Fld.mrkFMark, mark), (Fld.mrkFCount, count)]).Sound q := State.setFs_sound h
  have hframe : State.Frame (maskBut [.mrkCount, .mrkState] []) s (s.markFault c code mark count) := State.markFault_frame h.frame rfl
  have hmarks := State.faultChase_marks hset c code n
  rw [State.mark_congr (State.setFs_marks ..) n] at hmarks
  exact ⟨⟨q, State.markFault_sound h⟩, State.getF_of_frame hframe hn rfl, State.getF_of_frame hframe hn rfl, hmarks.1, hmarks.2⟩

/-- A write to a field of MRK_STATE besides the sense. -/
theorem State.setF_stays {f : Field} (hreg : f.reg = .mrkState) (hf : f.lo ≤ f.hi + 1 ∧ f.hi < 64)
    (hsense : f.hi < Fld.mrkSense.lo ∨ Fld.mrkSense.hi < f.lo) (v : Nat) : State.MarkStays n s (s.setF f n v) := by
  refine ⟨⟨q, State.setF_sound h⟩, State.getF_setF_apart h hf hn (.inl (by rw [hreg]; decide)),
    State.getF_setF_apart h hf hn (.inr (.inr ?_)), ?_, ?_⟩
  · exact hsense.symm
  · rw [State.mark_congr (State.setF_marks ..) n]
  · rw [State.mark_congr (State.setF_marks ..) n]
    exact id

/-- Serving a mark without waits leaves it (R536). -/
theorem State.serveMark_stays (hquiet : (s.mark n).waits = []) : State.MarkStays n s (s.serveMark n) := by
  unfold State.serveMark
  extract_lets b p now s1 s2
  have hs1 : s1.Sound q := State.updMark_sound h
  have hmark1 : s1.mark n = { s.mark n with waits := [] } := by
    simp only [s1, State.mark_updMark, if_true, hquiet, List.filter_nil]
  have h1 : State.MarkStays n s s1 := ⟨⟨q, hs1⟩, rfl, rfl, by rw [hmark1], fun _ => by rw [hmark1]⟩
  have h2 : s2 = s1 := by simp only [s2, now, hquiet, List.filter_nil, List.foldl_nil]
  have h3 : (if b = true then s2 else s2.consume n (s2.mark n).waits) = s1 := by
    rw [h2, hmark1]
    exact ite_self s1
  rw [h3]
  exact h1.trans (State.setF_stays hs1 hn rfl (by decide) (.inl (by decide)) _)

end

/-! ### SIGNAL -/

/-- A signal beyond the limit of a mark: MRK_SAT_HI, and a mark fault with the count before (R532, R534, R535). -/
theorem State.overflow_stays {s : State} (h : s.Sound q) {n : Nat} (hn : n < 2 ^ 14) (c v : Nat) :
    State.MarkStays n s ((s.setF Fld.mrkSatHi n 1).markFault c fMarkOverflow n v) :=
  (State.setF_stays h hn rfl (by decide) (.inl (by decide)) 1).trans (State.markFault_stays (State.setF_sound h) hn ..)

section
variable {s : State} (h : s.Sound q) {n : Nat} (hn : n < 2 ^ 14)
include h hn

/-- The count written, and the rest of the mark. -/
theorem State.setCount_mark {v : Nat} (hv : v < 2 ^ 32) : (s.setF Fld.mrkCount n v).getF Fld.mrkCount n = v ∧
    (s.setF Fld.mrkCount n v).getF Fld.mrkSense n = s.getF Fld.mrkSense n ∧ (s.setF Fld.mrkCount n v).mark n = s.mark n :=
  ⟨(State.getF_setF h ⟨by decide, by decide, hn⟩).trans (Nat.mod_eq_of_lt hv),
    State.getF_setF_apart h (by decide) hn (.inl (by decide)), State.mark_congr (State.setF_marks ..) n⟩

/-- The count of a mark written and its waits served. -/
theorem State.countServed (hquiet : (s.mark n).waits = []) {v : Nat} (hv : v < 2 ^ 32) :
    ((s.setF Fld.mrkCount n v).serveMark n).getF Fld.mrkCount n = v ∧
    ((s.setF Fld.mrkCount n v).serveMark n).getF Fld.mrkSense n = s.getF Fld.mrkSense n ∧
    (((s.setF Fld.mrkCount n v).serveMark n).mark n).flips = (s.mark n).flips := by
  obtain ⟨hcount, hsense, hmark⟩ := State.setCount_mark h hn hv
  have hserved := State.serveMark_stays (State.setF_sound (f := Fld.mrkCount) (i := n) (v := v) h) hn (by rw [hmark]; exact hquiet)
  exact ⟨hserved.count.trans hcount, hserved.sense.trans hsense, by rw [hserved.flips, hmark]⟩

/-- The count of a mark written at its limit, the overflow reported, and its waits served. -/
theorem State.overflowServed (hquiet : (s.mark n).waits = []) {v : Nat} (hv : v < 2 ^ 32) (c k : Nat) :
    ((((s.setF Fld.mrkCount n v).setF Fld.mrkSatHi n 1).markFault c fMarkOverflow n k).serveMark n).getF Fld.mrkCount n = v ∧
    ((((s.setF Fld.mrkCount n v).setF Fld.mrkSatHi n 1).markFault c fMarkOverflow n k).serveMark n).getF Fld.mrkSense n =
      s.getF Fld.mrkSense n ∧
    (((((s.setF Fld.mrkCount n v).setF Fld.mrkSatHi n 1).markFault c fMarkOverflow n k).serveMark n).mark n).flips =
      (s.mark n).flips := by
  obtain ⟨hcount, hsense, hmark⟩ := State.setCount_mark h hn hv
  have hover := State.overflow_stays (State.setF_sound (f := Fld.mrkCount) (i := n) (v := v) h) hn c k
  obtain ⟨q', hs'⟩ := hover.sound
  have hserved := hover.trans (State.serveMark_stays hs' hn (hover.quiet (by rw [hmark]; exact hquiet)))
  exact ⟨hserved.count.trans hcount, hserved.sense.trans hsense, by rw [hserved.flips, hmark]⟩

/-- A barrier mark that flips (R534). -/
theorem State.flipped_mark : ((s.setF Fld.mrkSense n (1 - s.getF Fld.mrkSense n)).updMark n fun m =>
      { m with flips := m.flips + 1 }).Sound q ∧
    ((s.setF Fld.mrkSense n (1 - s.getF Fld.mrkSense n)).updMark n fun m => { m with flips := m.flips + 1 }).getF Fld.mrkSense n =
      1 - s.getF Fld.mrkSense n ∧
    ((s.setF Fld.mrkSense n (1 - s.getF Fld.mrkSense n)).updMark n fun m => { m with flips := m.flips + 1 }).mark n =
      { s.mark n with flips := (s.mark n).flips + 1 } := by
  refine ⟨State.updMark_sound (State.setF_sound h), ?_, ?_⟩
  · rw [State.updMark_getF, State.getF_setF h ⟨by decide, by decide, hn⟩]
    exact Nat.mod_eq_of_lt (Nat.lt_of_le_of_lt (Nat.sub_le ..) (by decide))
  · rw [State.mark_updMark, if_pos rfl, State.mark_congr (State.setF_marks ..) n]

/-- SIGNAL moves the count of a mark without waits, and flips a barrier whose target is reached (R531, R532, R534). -/
theorem State.signalMark_signalled (hquiet : (s.mark n).waits = []) (a : Nat) : (s.signalMark n a).signalled s n a := by
  have hcount : s.markCount n < 2 ^ 32 := State.getF_lt ..
  have htarget : s.markTarget n < 2 ^ 32 := State.getF_lt ..
  unfold State.signalMark
  extract_lets t v c beyond s1
  split
  · next hbar =>
    have hyes : s.flag Fld.mrkBarrier n = true := hbar
    refine ⟨fun hno => by simp [hyes] at hno, fun _ hlt => ?_, fun _ hge => ?_⟩
    · rw [if_pos (show v + a < t from hlt)]
      exact State.countServed h hn hquiet (Nat.lt_trans hlt htarget)
    · obtain ⟨hs1, hsense1, hmark1⟩ := State.flipped_mark h hn
      have hquiet1 : (s1.mark n).waits = [] := by rw [hmark1]; exact hquiet
      have hflips1 : (s1.mark n).flips = (s.mark n).flips + 1 := by rw [hmark1]
      rw [if_neg (show ¬ v + a < t from Nat.not_lt.2 hge)]
      split
      · next hfits =>
        obtain ⟨hset, hsense, hflips⟩ := State.countServed hs1 hn hquiet1 (Nat.lt_trans hfits htarget)
        exact ⟨hset.trans (Nat.min_eq_left (Nat.le_sub_one_of_lt hfits)).symm, hsense.trans hsense1, hflips.trans hflips1⟩
      · next hover =>
        obtain ⟨hset, hsense, hflips⟩ := State.overflowServed hs1 hn hquiet1 (Nat.lt_of_le_of_lt (Nat.sub_le t 1) htarget) c v
        exact ⟨hset.trans (Nat.min_eq_right (Nat.le_trans (Nat.sub_le t 1) (Nat.le_of_not_lt hover))).symm, hsense.trans hsense1,
          hflips.trans hflips1⟩
  · next hcnt =>
    have hno : s.flag Fld.mrkBarrier n = false := Bool.eq_false_iff.2 hcnt
    have hlimit : markLimit t < 2 ^ 32 := Nat.lt_of_le_of_lt (Nat.min_le_right ..) (by decide)
    refine ⟨fun _ => ?_, fun hyes => by simp [hno] at hyes, fun hyes => by simp [hno] at hyes⟩
    split
    · next hle =>
      obtain ⟨hset, hsense, -⟩ := State.countServed h hn hquiet (Nat.lt_of_le_of_lt hle hlimit)
      exact ⟨hset.trans (Nat.min_eq_left hle).symm, hsense⟩
    · next hgt =>
      obtain ⟨hset, hsense, -⟩ := State.overflowServed h hn hquiet hlimit c v
      exact ⟨hset.trans (Nat.min_eq_right (Nat.le_of_not_le hgt)).symm, hsense⟩

/-- The arrival of a plate signals its mark with amount 1 (R539). -/
theorem State.plateSignal_signalled (hquiet : (s.mark n).waits = []) : (s.plateSignal n).signalled s n 1 := by
  unfold State.plateSignal
  have hmark : ((s.updMark n fun m => { m with arrivedAt := some m.flips }).mark n) =
      { s.mark n with arrivedAt := some (s.mark n).flips } := by rw [State.mark_updMark, if_pos rfl]
  have hsig := State.signalMark_signalled (State.updMark_sound (n := n) (f := fun m => { m with arrivedAt := some m.flips }) h) hn
    (by rw [hmark]; exact hquiet) 1
  rw [State.signalled, hmark] at hsig
  exact hsig

end

end Sys2Proof.Machine
end

section
/-! PROOF. Plates follow each other: HOLD, BRANCH and PLATE_COMPLETE (R136, R140, R144, R147, R152 to R156, R530). -/

namespace Sys2Proof.Machine

variable {q : List Instr}

/-! ### Signals of a plate -/

section
variable {s : State} {c : Nat}

theorem State.csStriking_of_runs {op : Nat} (h : s.plateRuns c op = true) : s.csStriking c = true := by
  simp only [State.plateRuns, Bool.and_eq_true] at h
  tauto

/-- A plate without a signal mark signals nothing (R530). -/
theorem State.signalDone_of_none (h : (s.plate c).sig = none16) (last : Bool) : s.signalDone c last = s := if_pos h

theorem State.signalAll_of_none (h : (s.plate c).sig = none16) : s.signalAll c = s := by
  unfold State.signalAll
  extract_lets held
  refine List.foldlRecOn (motive := fun u => u = s) held _ rfl fun u hu k _ => ?_
  rw [hu, State.signalDone_of_none h, ite_self]

/-- A signal mark that the active context does not hold is a mark fault (R530). -/
theorem State.signalDone_of_absent (h : (s.plate c).sig ≠ none16) (hm : s.markOf c (s.activeCtx c) (s.plate c).sig = none) (last : Bool) :
    s.signalDone c last = s.markFault c fMarkAbsent (s.plate c).sig 0 := by
  unfold State.signalDone
  extract_lets p
  rw [if_neg h, hm]

/-- A signal arrives on a mark of this device (R530, R539). -/
theorem State.signalDone_of_native (h : (s.plate c).sig ≠ none16) {n : Nat} (hm : s.markOf c (s.activeCtx c) (s.plate c).sig = some n)
    (hfab : s.flag Fld.mrkFabric n = false) (last : Bool) :
    s.signalDone c last = (s.updChase c fun x => { x with replaySafe := false }).plateSignal n := by
  unfold State.signalDone
  extract_lets p
  rw [if_neg h, hm]
  exact if_neg (by simp [hfab])

end

/-- A mark fault faults a striking chase at once (R530, R535). -/
theorem State.markFault_faults {s : State} {c : Nat} (h : s.Sound q) (hc : c < 16) (hcs : s.csStriking c = true) (code : Nat)
    (hcode : code < 2 ^ 8) (mark count : Nat) : (s.markFault c code mark count).cs c = csFaulted ∧
      (s.markFault c code mark count).getF Fld.stkFault c = code := by
  have hset : (s.setFs c [(Fld.mrkFCode, code), (Fld.mrkFMark, mark), (Fld.mrkFCount, count)]).Sound q := State.setFs_sound h
  have hstate : (s.setFs c [(Fld.mrkFCode, code), (Fld.mrkFMark, mark), (Fld.mrkFCount, count)]).cs c = s.cs c :=
    State.getF_setFs_of_clear h hc rfl
  have hact : (s.setFs c [(Fld.mrkFCode, code), (Fld.mrkFMark, mark), (Fld.mrkFCount, count)]).csActive c = true :=
    State.csActive_of_striking (by rw [State.csStriking, hstate]; exact hcs)
  exact ⟨State.faultChase_cs hset hact hc code, State.faultChase_fault hset hact hc hcode⟩

/-! ### The plate barrier -/

/-- The sequencers go on to the next plate; the summary slot of a plate with a summary stands (R136, R147). -/
theorem State.plateBarrier_reached {s : State} {c : Nat} (h : s.Sound q) (hc : c < 16) (next : Nat) :
    ((s.plateBarrier c next).chase c).plate.index = next ∧
    ((s.plate c).sumEn = true → (s.plate c).op ≠ opBranch → (s.plate c).op ≠ opExchange →
      (s.plate c).slot < (s.chase c).slots.length →
      (s.plateBarrier c next).slotAt c (s.plate c).slot = (s.chase c).plate.contrib) := by
  unfold State.plateBarrier
  extract_lets p s1
  have hs1 : s1.Sound q := by
    simp only [s1]
    split
    · exact State.setSlot_sound h
    · exact h
  have hcourse := State.chase_course (State.reachPlate_place s1 c next) c
  rw [State.chase_updChase hs1 hc] at hcourse
  refine ⟨congrArg ChaseCourse.index hcourse, fun hsum hbranch hexch hslot => ?_⟩
  have hslots : (s1.chase c).slots = (s.chase c).slots.set (s.plate c).slot (s.chase c).plate.contrib := by
    simp only [s1]
    rw [if_pos (by simp [p, hsum, hbranch, hexch]), State.setSlot, State.chase_updChase h hc]
  rw [State.slotAt, show ((s1.reachPlate c next).chase c).slots = (s1.chase c).slots from congrArg ChaseCourse.slots hcourse, hslots]
  simp [hslot]

/-! ### HOLD -/

theorem bitOf_eq_testBit (n i : Nat) : bitOf n i = n.testBit i := by
  rw [Nat.testBit_eq_decide_div_mod_eq, bitOf, Nat.shiftRight_eq_div_pow]
  rfl

/-- The registers that a HOLD plate writes: a parked chase, a context switch that waits (R140, R557). -/
def State.holdArgs (s : State) (c : Nat) : State :=
  let p := s.plate c
  let s2 := if hdPark p then s.setF Fld.stkParked c 1 else s
  if hdSwitch p then s2.setFs c [(Fld.mrkSwPending, 1), (Fld.mrkSwTo, hdContext p)] else s2

/-- What a HOLD plate writes before the member's work ends (R140, R553). -/
def State.holdNotes (s : State) (c : Nat) : State :=
  let p := s.plate c
  ((s.holdArgs c).updChase c fun x => { x with
    realign := x.realign || hdRealign p, plate := { PlateRt.none with index := p.next } }).setF Fld.stkPlate c p.next

theorem State.holdPlate_silent {s : State} {c : Nat} (hsig : (s.plate c).sig = none16) (hcs : s.csStriking c = true) :
    s.holdPlate c = (s.holdNotes c).endWork c := by
  unfold State.holdPlate
  rw [State.signalAll_of_none hsig]
  exact if_neg (by simp [hcs])

section Hold
variable {s : State} {c : Nat} (h : s.Sound q) (hc : c < 16)
include h

theorem State.holdArgs_sound : (s.holdArgs c).Sound q := by
  unfold State.holdArgs
  extract_lets p s2
  have hs2 : s2.Sound q := by
    simp only [s2]
    split
    · exact State.setF_sound h
    · exact h
  split
  · exact State.setFs_sound hs2
  · exact hs2

omit h in
theorem State.holdArgs_chases : (s.holdArgs c).chases = s.chases := by simp [State.holdArgs, apply_ite State.chases]

include hc

/-- HOLD parks the chase where it asks to (R140), and makes a context switch pending (R557). -/
theorem State.holdArgs_getF : (s.holdArgs c).flag Fld.stkParked c = (s.flag Fld.stkParked c || hdPark (s.plate c)) ∧
    (hdSwitch (s.plate c) = true → (s.holdArgs c).getF Fld.mrkSwPending c = 1 ∧
      (s.holdArgs c).getF Fld.mrkSwTo c = hdContext (s.plate c)) := by
  unfold State.holdArgs
  extract_lets p s2
  have hs2 : s2.Sound q ∧ s2.flag Fld.stkParked c = (s.flag Fld.stkParked c || hdPark p) := by
    simp only [s2]
    split
    · next hpark =>
      have hset : (s.setF Fld.stkParked c 1).getF Fld.stkParked c = 1 := State.getF_setF h ⟨by decide, by decide, hc⟩
      exact ⟨State.setF_sound h, by rw [State.flag, hset, hpark, Bool.or_true]; rfl⟩
    · next hpark => exact ⟨h, by rw [Bool.eq_false_iff.2 hpark, Bool.or_false]⟩
  split
  · next hsw =>
    refine ⟨?_, fun _ => ⟨State.getF_setFs hs2.1 ⟨by decide, by decide, hc⟩ [] _ rfl rfl, ?_⟩⟩
    · rw [← hs2.2, State.flag, State.getF_setFs_of_clear hs2.1 hc rfl, State.flag]
    · refine (State.getF_setFs hs2.1 ⟨by decide, by decide, hc⟩ [_] [] rfl rfl).trans ?_
      exact Nat.mod_eq_of_lt (Nat.mod_lt _ (by decide))
  · next hsw => exact ⟨hs2.2, fun hyes => absurd hyes hsw⟩

theorem State.holdNotes_chase : (s.holdNotes c).chase c = { s.chase c with
    realign := (s.chase c).realign || hdRealign (s.plate c), plate := { PlateRt.none with index := (s.plate c).next } } := by
  have hargs : (s.holdArgs c).chase c = s.chase c := State.chase_congr State.holdArgs_chases c
  unfold State.holdNotes
  extract_lets p blank
  rw [State.chase_congr (State.setF_chases ..) c, State.chase_updChase (State.holdArgs_sound h) hc, hargs]

/-- A HOLD plate without a signal, no stop stroke in force: what the member's work in the stroke ends with (R140, R553, R557). -/
theorem hold_ends (hruns : s.plateRuns c opHold = true) (hsig : (s.plate c).sig = none16) (hsettled : s.plateSettled c = true)
    (hstop : (s.chase c).stopAt = none) :
    ∃ t, exec (.hold c) s = .next t ∧ (t.chase c).finished = true ∧ t.getF Fld.stkPlate c = (s.plate c).next % 2 ^ 16 ∧
      t.flag Fld.stkParked c = (s.flag Fld.stkParked c || (s.plate c).args.testBit 0) ∧
      (t.chase c).realign = ((s.chase c).realign || (s.plate c).args.testBit 1) ∧
      ((s.plate c).args.testBit 2 = true → t.flag Fld.mrkSwPending c = true ∧
        t.getF Fld.mrkSwTo c = (s.plate c).args / 2 ^ 3 % 2 ^ 6) := by
  have hargs : (s.holdArgs c).Sound q := State.holdArgs_sound h
  have hbefore : ((s.holdArgs c).updChase c fun x => { x with
      realign := x.realign || hdRealign (s.plate c), plate := { PlateRt.none with index := (s.plate c).next } }).Sound q :=
    State.updChase_sound hargs
  have hnotes : (s.holdNotes c).Sound q := State.setF_sound hbefore
  have hchase := State.holdNotes_chase h hc
  obtain ⟨hparked, hswitch⟩ := State.holdArgs_getF h hc
  have hend := State.endWork_judged hnotes hc (by rw [hchase]; exact hstop)
  have hreg (f : Field) (hi : c < f.reg.info.count) (hf : judgeMask.testBit f.reg.ctorIdx = false) :
      ((s.holdNotes c).endWork c).getF f c = (s.holdNotes c).getF f c := hend.getF hi hf
  have hkept (f : Field) (hi : c < f.reg.info.count) (hf : judgeMask.testBit f.reg.ctorIdx = false)
      (hapart : f.apart c Fld.stkPlate c) : ((s.holdNotes c).endWork c).getF f c = (s.holdArgs c).getF f c :=
    (hreg f hi hf).trans (State.getF_setF_apart hbefore (by decide) hi hapart)
  have hexec : exec (.hold c) s = .next (s.holdPlate c) := congrArg Host.Outcome.next (State.ifB_true (by simp [hruns, hsettled]) _)
  rw [State.holdPlate_silent hsig (State.csStriking_of_runs hruns)] at hexec
  refine ⟨_, hexec, State.endWork_finished hnotes hc,
    (hreg Fld.stkPlate hc rfl).trans (State.getF_setF hbefore ⟨by decide, by decide, hc⟩), ?_, ?_, fun hsw => ?_⟩
  · rw [State.flag, hkept Fld.stkParked hc rfl (.inr (.inr (by decide))), ← bitOf_eq_testBit]
    exact hparked
  · rw [hend.realign, State.chase_updChase hnotes hc, hchase, ← bitOf_eq_testBit]
    rfl
  · rw [← bitOf_eq_testBit] at hsw
    obtain ⟨hpending, hto⟩ := hswitch hsw
    rw [State.flag, hkept Fld.mrkSwPending hc rfl (.inl (by decide)), hkept Fld.mrkSwTo hc rfl (.inl (by decide)), hpending, hto]
    exact ⟨rfl, by rw [hdContext, bitsOf, Nat.shiftRight_eq_div_pow]⟩

end Hold

/-! ### BRANCH -/

section Branch
variable {s : State} {c : Nat} (h : s.Sound q) (hc : c < 16) (hruns : s.plateRuns c opBranch = true)
  (hsettled : s.plateSettled c = true)
include hruns hsettled

theorem exec_branch : exec (.branch c) s = .next (s.branchPlate c) :=
  congrArg Host.Outcome.next (State.ifB_true (by simp [hruns, hsettled]) _)

include h hc

/-- BRANCH goes on to PD_NEXT or PD_ALT (R152, R154, R155). -/
theorem branch_goes (hscope : s.members c ≤ 1 ∨ (s.slotAt c (s.plate c).slot).chase = true) (hsig : (s.plate c).sig = none16) :
    ∃ t, exec (.branch c) s = .next t ∧ (t.chase c).plate.index =
      if branchHolds (s.plate c).cond (s.plate c).count (s.slotAt c (s.plate c).slot) then (s.plate c).next else (s.plate c).alt := by
  refine ⟨_, exec_branch hruns hsettled, ?_⟩
  unfold State.branchPlate
  extract_lets p v s1
  have hs1 : s1 = s := State.signalAll_of_none hsig
  have hcombined : (decide (1 < s.members c) && !v.chase) = false := by
    rw [Bool.and_eq_false_iff, decide_eq_false_iff_not, Bool.not_eq_false']
    exact hscope.imp_left Nat.not_lt.2
  rw [if_neg (by simpa using hcombined), hs1, if_pos (State.csStriking_of_runs hruns)]
  exact (State.plateBarrier_reached h hc _).1

/-- In a chase of several members a BRANCH on a slot that is not combined is a fault (R153, R156). -/
theorem branch_faults (hmany : 1 < s.members c) (hslot : (s.slotAt c (s.plate c).slot).chase = false) :
    ∃ t, exec (.branch c) s = .next t ∧ t.cs c = csFaulted ∧ t.getF Fld.stkFault c = fBranchScope := by
  have hact := State.csActive_of_striking (State.csStriking_of_runs hruns)
  have hfault : s.branchPlate c = s.faultChase c fBranchScope := if_pos (by simp [hmany, hslot])
  exact ⟨_, (exec_branch hruns hsettled).trans (by rw [hfault]), State.faultChase_cs h hact hc _,
    State.faultChase_fault h hact hc (by decide)⟩

end Branch

/-! ### PLATE_COMPLETE -/

theorem mem_setIns {l : List Nat} {k j : Nat} : j ∈ setIns l k ↔ j = k ∨ j ∈ l := by
  induction l with
  | nil => simp [setIns]
  | cons a l ih =>
    rw [setIns]
    split_ifs with hlt heq
    · simp
    · simp [heq]
    · rw [List.mem_cons, ih, List.mem_cons]
      tauto

section Complete
variable {s : State} {c k : Nat}

/-- Region `k` is recorded as done. -/
def State.regionNoted (s : State) (c k : Nat) : State :=
  s.updChase c fun x => { x with plate := { x.plate with regionsDone := setIns x.plate.regionsDone k } }

/-- Every held region is done once `k` is. -/
def State.lastRegion (s : State) (c k : Nat) : Bool :=
  ((s.regionNoted c k).heldRegions c).all fun r => ((s.regionNoted c k).chase c).plate.regionsDone.contains r

theorem State.completeIn_eq (next : Nat) : s.completeIn c k next =
    if s.lastRegion c k && ((s.regionNoted c k).signalDone c (s.lastRegion c k)).csStriking c then
      ((s.regionNoted c k).signalDone c (s.lastRegion c k)).plateBarrier c next
    else (s.regionNoted c k).signalDone c (s.lastRegion c k) := rfl

variable (h : s.Sound q) (hc : c < 16)
include h hc

theorem State.regionNoted_chase : (s.regionNoted c k).chase c =
    { s.chase c with plate := { (s.chase c).plate with regionsDone := setIns (s.chase c).plate.regionsDone k } } :=
  State.chase_updChase h hc _

theorem State.regionNoted_plate : (s.regionNoted c k).plate c = s.plate c := by
  rw [State.plate, State.forme, State.regionNoted_chase h hc]
  rfl

theorem State.lastRegion_iff :
    s.lastRegion c k = true ↔ ∀ j ∈ s.heldRegions c, j = k ∨ j ∈ (s.chase c).plate.regionsDone := by
  have hheld : (s.regionNoted c k).heldRegions c = s.heldRegions c := rfl
  simp only [State.lastRegion, hheld, State.regionNoted_chase h hc, List.all_eq_true, List.contains_iff_mem, mem_setIns]

theorem State.lastRegion_false (hleft : ∃ j ∈ s.heldRegions c, j ≠ k ∧ j ∉ (s.chase c).plate.regionsDone) :
    s.lastRegion c k = false := by
  rw [Bool.eq_false_iff, Ne, State.lastRegion_iff h hc]
  intro hall
  obtain ⟨j, hj, hjk, hjd⟩ := hleft
  exact (hall j hj).elim hjk hjd

variable (hready : s.isReady = true) (hcs : s.csStriking c = true) (hworked : (s.chase c).plate.worked = true)
  (hrests : (s.chase c).plate.flow.restsIn k = true) (hheld : k ∈ s.heldRegions c) (hnew : k ∉ (s.chase c).plate.regionsDone)
  (hsub : (s.chase c).substituting = false) (hfin : (s.chase c).finished = false) (hsettled : s.plateSettled c = true)
include hready hcs hworked hrests hheld hnew hsub hfin hsettled

omit h hc in
theorem exec_plateComplete : exec (.plateComplete c k) s = .next (s.completeIn c k (s.plate c).next) :=
  congrArg Host.Outcome.next (State.ifB_true (by simp [hready, hcs, hworked, hrests, hheld, hnew, hsub, hfin, hsettled]) _)

/-- One more region is done (R136). -/
theorem plateComplete_records (hsig : (s.plate c).sig = none16)
    (hleft : ∃ j ∈ s.heldRegions c, j ≠ k ∧ j ∉ (s.chase c).plate.regionsDone) :
    ∃ t, exec (.plateComplete c k) s = .next t ∧ (t.chase c).plate.index = (s.chase c).plate.index ∧
      ∀ j, j ∈ (t.chase c).plate.regionsDone ↔ j = k ∨ j ∈ (s.chase c).plate.regionsDone := by
  have hexec := exec_plateComplete hready hcs hworked hrests hheld hnew hsub hfin hsettled
  rw [State.completeIn_eq, State.lastRegion_false h hc hleft, State.signalDone_of_none (by rw [State.regionNoted_plate h hc]; exact hsig)]
    at hexec
  refine ⟨_, hexec, ?_, fun j => ?_⟩
  · rw [Bool.false_and, if_neg Bool.false_ne_true, State.regionNoted_chase h hc]
  · rw [Bool.false_and, if_neg Bool.false_ne_true, State.regionNoted_chase h hc]
    exact mem_setIns

/-- The last region completes the plate (R136, R147). -/
theorem plateComplete_last (hsig : (s.plate c).sig = none16)
    (hall : ∀ j ∈ s.heldRegions c, j = k ∨ j ∈ (s.chase c).plate.regionsDone) :
    ∃ t, exec (.plateComplete c k) s = .next t ∧ (t.chase c).plate.index = (s.plate c).next ∧
      ((s.plate c).sumEn = true → (s.plate c).op ≠ opBranch → (s.plate c).op ≠ opExchange →
        (s.plate c).slot < (s.chase c).slots.length → t.slotAt c (s.plate c).slot = (s.chase c).plate.contrib) := by
  have hexec := exec_plateComplete hready hcs hworked hrests hheld hnew hsub hfin hsettled
  have hplate : (s.regionNoted c k).plate c = s.plate c := State.regionNoted_plate h hc
  have hstrikes : (s.regionNoted c k).csStriking c = true := hcs
  rw [State.completeIn_eq, (State.lastRegion_iff h hc).2 hall, State.signalDone_of_none (by rw [hplate]; exact hsig), hstrikes,
    Bool.true_and, if_pos rfl] at hexec
  have hnoted : (s.regionNoted c k).Sound q := State.updChase_sound h
  have hreached := State.plateBarrier_reached hnoted hc (s.plate c).next
  rw [hplate, State.regionNoted_chase h hc] at hreached
  exact ⟨_, hexec, hreached⟩

/-- A signal mark that the active context does not hold faults the chase (R530). -/
theorem plateComplete_absent (hsig : (s.plate c).sig ≠ none16) (hm : s.markOf c (s.activeCtx c) (s.plate c).sig = none) :
    ∃ t, exec (.plateComplete c k) s = .next t ∧ t.cs c = csFaulted ∧ t.getF Fld.stkFault c = fMarkAbsent := by
  have hexec := exec_plateComplete hready hcs hworked hrests hheld hnew hsub hfin hsettled
  have hplate : (s.regionNoted c k).plate c = s.plate c := State.regionNoted_plate h hc
  have hmissing : (s.regionNoted c k).markOf c ((s.regionNoted c k).activeCtx c) (s.plate c).sig = none := hm
  have hnoted : (s.regionNoted c k).Sound q := State.updChase_sound h
  obtain ⟨hfaulted, hcode⟩ := State.markFault_faults hnoted hc hcs fMarkAbsent (by decide) (s.plate c).sig 0
  rw [State.completeIn_eq, State.signalDone_of_absent (by rw [hplate]; exact hsig) (by rw [hplate]; exact hmissing), hplate,
    show ((s.regionNoted c k).markFault c fMarkAbsent (s.plate c).sig 0).csStriking c = false by rw [State.csStriking, hfaulted]; rfl,
    Bool.and_false, if_neg Bool.false_ne_true] at hexec
  exact ⟨_, hexec, hfaulted, hcode⟩

/-- A signal before the last region arrives on the mark (R530, R539). -/
theorem plateComplete_signals (hsig : (s.plate c).sig ≠ none16) {n : Nat}
    (hm : s.markOf c (s.activeCtx c) (s.plate c).sig = some n) (hn : n < 2 ^ 14) (hfab : s.flag Fld.mrkFabric n = false)
    (hquiet : (s.mark n).waits = []) (hleft : ∃ j ∈ s.heldRegions c, j ≠ k ∧ j ∉ (s.chase c).plate.regionsDone) :
    ∃ t, exec (.plateComplete c k) s = .next t ∧ t.signalled s n 1 := by
  have hexec := exec_plateComplete hready hcs hworked hrests hheld hnew hsub hfin hsettled
  have hplate : (s.regionNoted c k).plate c = s.plate c := State.regionNoted_plate h hc
  have hmark : (s.regionNoted c k).markOf c ((s.regionNoted c k).activeCtx c) (s.plate c).sig = some n := hm
  have hnative : (s.regionNoted c k).flag Fld.mrkFabric n = false := hfab
  have hnoted : (s.regionNoted c k).Sound q := State.updChase_sound h
  rw [State.completeIn_eq, State.lastRegion_false h hc hleft, State.signalDone_of_native (by rw [hplate]; exact hsig)
    (by rw [hplate]; exact hmark) hnative, Bool.false_and, if_neg Bool.false_ne_true] at hexec
  exact ⟨_, hexec, State.plateSignal_signalled (State.updChase_sound hnoted) hn hquiet⟩

end Complete

/-- Settles O44: HOLD ends the member's work, BRANCH chooses the next plate, and PLATE_COMPLETE follows the regions. -/
theorem platesFollowEachOther : Obligations.PlatesFollowEachOther := by
  unfold Obligations.PlatesFollowEachOther
  refine ⟨fun c s _ hsettled => ?_,
    fun c s hs hc hruns hsig hsettled hstop => hold_ends (State.sound_of_canonical hs) hc hruns hsig hsettled hstop,
    fun c s hs hc hruns hsettled => ?_,
    fun c k s hs hready hc hcs hworked hrests hheld hnew hsub hfin hsettled => ⟨fun hsig => ⟨?_, ?_⟩, fun hsig => ⟨?_, ?_⟩⟩⟩
  · exact ⟨congrArg Host.Outcome.next (State.ifB_false (by simp [hsettled]) _),
      congrArg Host.Outcome.next (State.ifB_false (by simp [hsettled]) _)⟩
  · have h := State.sound_of_canonical hs
    exact ⟨branch_goes h hc hruns hsettled, branch_faults h hc hruns hsettled⟩
  all_goals have h := State.sound_of_canonical hs
  · exact plateComplete_records h hc hready hcs hworked hrests hheld hnew hsub hfin hsettled hsig
  · exact plateComplete_last h hc hready hcs hworked hrests hheld hnew hsub hfin hsettled hsig
  · exact plateComplete_absent h hc hready hcs hworked hrests hheld hnew hsub hfin hsettled hsig
  · exact fun n hm hn hfab hquiet hleft =>
      plateComplete_signals h hc hready hcs hworked hrests hheld hnew hsub hfin hsettled hsig hm hn hfab hquiet hleft

end Sys2Proof.Machine
end

section
/-! PROOF. Accumulation groups: what OPEN_ZERO, OPEN_LOAD, FEED, ADD_WIDE and CLOSE leave of a group, of the tiles that wait for
one and of the counters of the closes (R172, R173, R176, R180, R182, R184, R190, R790, R794). -/

namespace Sys2Proof.Machine

variable {q : List Instr} {s t : State} {cell : CellId} {g : Nat} {x : AccGroup}

/-! ### Groups of a working cell -/

theorem State.cellWorks_region (h : s.cellWorks cell = true) : cell.region < 16 := by
  simp only [State.cellWorks, Bool.and_eq_true, decide_eq_true_eq] at h
  tauto

/-- A cell works by the power, the boot stage and the region map alone. -/
theorem State.cellWorks_congr (hpw : t.pw = s.pw) (hboot : t.rd .sysBoot 0 = s.rd .sysBoot 0)
    (hmap : ∀ i, i < 2 → t.rd .sysRegionMap i = s.rd .sysRegionMap i) (hc : cell.region < 16) :
    t.cellWorks cell = s.cellWorks cell := by
  have hready : t.isReady = s.isReady := by
    unfold State.isReady State.live State.stage
    rw [hpw, State.getF_of_rd (f := Fld.sysBootStage) hboot]
  have hvalid : t.regionValid cell.region = s.regionValid cell.region := by
    unfold State.regionValid State.flag
    rw [State.getF_of_rd (f := Fld.sysMapValid (cell.region % 8)) (hmap (cell.region / 8) (by omega))]
  unfold State.cellWorks
  rw [hready, hvalid]

/-- What touches neither the power, the boot stage nor the region map leaves a working cell working. -/
theorem State.Frame.cellWorks {M : Nat} (h : State.Frame M s t) (hpw : M.testBit (153 + Part.pw.ctorIdx) = false)
    (hboot : M.testBit RegName.sysBoot.ctorIdx = false) (hmap : M.testBit RegName.sysRegionMap.ctorIdx = false)
    (hw : s.cellWorks cell = true) : t.cellWorks cell = true :=
  (State.cellWorks_congr (h.parts .pw hpw) (h.regs .sysBoot hboot 0 (by decide)) (fun i hi => h.regs .sysRegionMap hmap i hi)
    (State.cellWorks_region hw)).trans hw

theorem State.openGroup_eq_some_iff : s.openGroup cell g = some x ↔
    s.cellWorks cell = true ∧ g < 8 ∧ kvGet s.groups (groupKey cell g) = some x ∧ x.st = 1 := by
  unfold State.openGroup
  split
  · rename_i h
    rw [Bool.and_eq_true, decide_eq_true_eq] at h
    simp [Option.filter_eq_some_iff, h]
  · rename_i h
    rw [Bool.and_eq_true, decide_eq_true_eq] at h
    simp only [reduceCtorEq, false_iff]
    tauto

theorem State.canOpen_iff : s.canOpen cell g = true ↔
    s.cellWorks cell = true ∧ g < 8 ∧ kvGet s.groups (groupKey cell g) = none := by
  simp [State.canOpen, and_assoc]

/-- An OPEN group just stored is the group of its number. -/
theorem State.openGroup_setGroup (hw : s.cellWorks cell = true) (hg : g < 8) (hx : x.st = 1) :
    (s.setGroup cell g x).openGroup cell g = some x :=
  State.openGroup_eq_some_iff.2 ⟨hw, hg, (kvGet_kvPut ..).trans (if_pos rfl), hx⟩

/-- An OPEN group that changes in its contents alone. -/
theorem State.openGroup_update {y : AccGroup} (h : s.openGroup cell g = some x) (hy : y.st = x.st) :
    (s.setGroup cell g y).openGroup cell g = some y := by
  obtain ⟨hw, hg, -, hx⟩ := State.openGroup_eq_some_iff.1 h
  exact State.openGroup_setGroup hw hg (hy.trans hx)

/-- What leaves the groups and the working of the cell alone leaves its OPEN groups. -/
theorem State.openGroup_of_same (hgroups : t.groups = s.groups) (hw : t.cellWorks cell = true) (h : s.openGroup cell g = some x) :
    t.openGroup cell g = some x := by
  obtain ⟨-, hg, hget, hx⟩ := State.openGroup_eq_some_iff.1 h
  exact State.openGroup_eq_some_iff.2 ⟨hw, hg, hgroups ▸ hget, hx⟩

/-! ### OPEN_ZERO and OPEN_LOAD -/

section Open
variable {shape : GroupShape} {acc : List Int} {poison : Bool}

/-- The group that an opening tile gets. -/
def openedGroup (shape : GroupShape) (acc : List Int) (poison : Bool) : AccGroup := ⟨1, poison, acc, shape, false, acc, poison⟩

/-- A tile whose group is not FREE, as it waits. -/
def State.waitFor (s : State) (cell : CellId) (g : Nat) (x : AccGroup) : OpenWait := ⟨cellKey cell, g, s.cellFull cell, x⟩

theorem State.openWith_unfit (h : s.cellWorks cell = false ∨ 8 ≤ g ∨ 32 < shape.rows ∨ 32 < shape.cols) :
    s.openWith cell g shape acc poison = s := by
  refine if_pos ?_
  simp only [tileFits, Bool.or_eq_true, Bool.not_eq_true', decide_eq_true_eq, Bool.and_eq_false_iff, decide_eq_false_iff_not,
    not_le]
  tauto

/-- A tile within the limits, on a cell that works, is opened or waits (R182). -/
theorem State.openWith_fit (hw : s.cellWorks cell = true) (hg : g < 8) (hr : shape.rows ≤ 32) (hc : shape.cols ≤ 32) :
    s.openWith cell g shape acc poison =
      if s.canOpen cell g then s.setGroup cell g (openedGroup shape acc poison)
      else { s with openWaits := s.openWaits ++ [s.waitFor cell g (openedGroup shape acc poison)] } :=
  if_neg (by simp [tileFits, hw, hg, hr, hc])

theorem State.openWith_opens (h : s.canOpen cell g = true) (hr : shape.rows ≤ 32) (hc : shape.cols ≤ 32) :
    (s.openWith cell g shape acc poison).openGroup cell g = some (openedGroup shape acc poison) := by
  obtain ⟨hw, hg, -⟩ := State.canOpen_iff.1 h
  rw [State.openWith_fit hw hg hr hc, if_pos h]
  exact State.openGroup_setGroup hw hg rfl

theorem State.openWith_waits (hw : s.cellWorks cell = true) (hg : g < 8) (hr : shape.rows ≤ 32) (hc : shape.cols ≤ 32)
    (h : s.canOpen cell g = false) : s.openWith cell g shape acc poison =
      { s with openWaits := s.openWaits ++ [s.waitFor cell g (openedGroup shape acc poison)] } := by
  rw [State.openWith_fit hw hg hr hc, h, if_neg Bool.false_ne_true]

/-- The records of an OPEN_LOAD poison the group where one of them is poisoned. -/
theorem any_loaded_poison (recs : List Bytes) (n : Nat) :
    (((List.range n).map fun i => wideOf (recs.getD i [])).any (·.poison)) = true ↔
      ∃ i, i < n ∧ (wideOf (recs.getD i [])).poison = true := by
  simp

end Open

/-! ### FEED: the columns -/

theorem groupPartial_emod (as bs : List Int) :
    groupPartial (as.map (Int.emod · 3)) (bs.map (Int.emod · 3)) % 3 = groupPartial as bs % 3 := by
  induction as generalizing bs with
  | nil => rfl
  | cons a as ih =>
    cases bs with
    | nil => rfl
    | cons b bs =>
      simp only [List.map_cons, groupPartial]
      rw [Int.add_emod, ih bs, ← Int.add_emod]
      exact Int.ModEq.add_right _ ((Int.mod_modEq a 3).mul (Int.mod_modEq b 3))

/-- A partial passes the residue check exactly where its error is a multiple of 3 (R176). -/
theorem residueOk_add_iff (as bs : List Int) (d : Int) : residueOk (groupPartial as bs + d) as bs = true ↔ d % 3 = 0 := by
  rw [residueOk, predictedResidue, groupPartial_emod, beq_iff_eq]
  omega

/-- The exact partial of column `n` of a FEED. -/
def columnPartial (f : FeedOp) (n : Nat) : Int :=
  groupPartial (f.a.map (decodeElem f.fmtA)) ((f.w.getD n []).map (decodeElem f.fmtB))

/-- That partial at its place in the accumulator. -/
def placedPartial (f : FeedOp) (n : Nat) : Int :=
  placePartial (columnPartial f n) (groupExp f.ea) (groupExp (f.eb.getD n 0))

/-- What fault adds to column `n`. -/
def columnError (errs : List (Nat × Int)) (n : Nat) : Int := ((errs.find? fun e => e.1 == n).map (·.2)).getD 0

theorem columnError_single (m : Nat) (d : Int) (n : Nat) : columnError [(m, d)] n = if n = m then d else 0 := by
  by_cases h : n = m
  · simp [columnError, h]
  · simp [columnError, h, Ne.symm h]

section Column
variable {f : FeedOp} {n : Nat} {acc : Int}

theorem feedOp_lengths (h : f.wf = true) : f.a.length ≤ 32 ∧ ∀ n, (f.w.getD n []).length ≤ 32 := by
  simp only [FeedOp.wf, Bool.and_eq_true, decide_eq_true_eq, List.all_eq_true, and_assoc] at h
  obtain ⟨-, -, -, -, ha, -, hw, -⟩ := h
  refine ⟨ha, fun n => ?_⟩
  by_cases hn : n < f.w.length
  · rw [List.getD_eq_getElem _ _ hn]
    exact hw _ (List.getElem_mem hn)
  · rw [List.getD_eq_default _ _ (Nat.le_of_not_lt hn)]
    exact Nat.zero_le _

/-- A column that the first issue or the reissue gets right adds its exact partial (R172, R173, R176, R790). -/
theorem feedColumn_exact (hf : f.wf = true) (h : columnError f.err1 n % 3 = 0 → columnError f.err1 n = 0)
    (h2 : columnError f.err1 n ≠ 0 → columnError f.err2 n = 0) :
    feedColumn f n acc = (accAdd acc (placedPartial f n), if columnError f.err1 n = 0 then 0 else 1) := by
  obtain ⟨ha, hw⟩ := feedOp_lengths hf
  unfold feedColumn placedPartial
  rw [List.take_of_length_le ha, List.take_of_length_le (hw n)]
  change (if residueOk (columnPartial f n + columnError f.err1 n) _ _ then
      (accAdd acc (placePartial (columnPartial f n + columnError f.err1 n) _ _), 0)
    else if residueOk (columnPartial f n + columnError f.err2 n) _ _ then
      (accAdd acc (placePartial (columnPartial f n + columnError f.err2 n) _ _), 1) else (acc, 2)) = _
  simp only [columnPartial, residueOk_add_iff]
  by_cases h1 : columnError f.err1 n = 0
  · simp only [h1, Int.zero_emod, Int.add_zero, if_true]
  · simp only [if_neg h1, if_neg (fun h3 => h1 (h h3)), h2 h1, Int.zero_emod, Int.add_zero, if_true]

end Column

/-! ### FEED: the row -/

/-- Accumulators `b` to `b + m - 1` set, each to a value of its own. -/
def setRun (b m : Nat) (v : Nat → Int) (acc : List Int) : List Int := (List.range m).foldl (fun acc n => acc.set (b + n) (v n)) acc

section Run
variable {b m k : Nat} {v : Nat → Int} {acc : List Int}

theorem setRun_succ : setRun b (m + 1) v acc = (setRun b m v acc).set (b + m) (v m) := by
  simp [setRun, List.range_succ]

theorem setRun_length : (setRun b m v acc).length = acc.length := by
  induction m with
  | zero => rfl
  | succ m ih => rw [setRun_succ, List.length_set, ih]

theorem setRun_outside (h : k < b ∨ b + m ≤ k) : (setRun b m v acc).getD k 0 = acc.getD k 0 := by
  induction m with
  | zero => rfl
  | succ m ih =>
    rw [setRun_succ, List.getD_eq_getElem?_getD, List.getElem?_set_ne (by omega), ← List.getD_eq_getElem?_getD, ih (by omega)]

theorem setRun_inside (hk : k < m) (hb : b + k < acc.length) : (setRun b m v acc).getD (b + k) 0 = v k := by
  induction m with
  | zero => omega
  | succ m ih =>
    rw [setRun_succ, List.getD_eq_getElem?_getD]
    by_cases h : k = m
    · subst h
      rw [List.getElem?_set_self (by rwa [setRun_length])]
      rfl
    · rw [List.getElem?_set_ne (by omega), ← List.getD_eq_getElem?_getD, ih (by omega)]

end Run

section Feed
variable {f : FeedOp}

/-- Column `n` of a FEED of a group. -/
abbrev AccGroup.column (x : AccGroup) (f : FeedOp) (n : Nat) : Int × Nat :=
  feedColumn f n (x.acc.getD (f.row * x.shape.cols + n) 0)

theorem feedRow_zipIdx (x : AccGroup) (f : FeedOp) :
    (feedRow x f).zipIdx = (List.range x.shape.cols).map fun n => (x.column f n, n) := by
  refine List.ext_getElem (by simp [feedRow]) fun i hi hj => ?_
  simp [feedRow, AccGroup.column]

theorem feedAcc_eq (x : AccGroup) (f : FeedOp) :
    feedAcc x f = setRun (f.row * x.shape.cols) x.shape.cols (fun n => (x.column f n).1) x.acc := by
  rw [feedAcc, feedRow_zipIdx, List.foldl_map]
  rfl

/-- The columns of a FEED that end with a code. -/
def AccGroup.columnsWith (x : AccGroup) (f : FeedOp) (code : Nat) : List Nat :=
  (List.range x.shape.cols).filter fun n => (x.column f n).2 == code

/-- The group after a FEED without a hard mismatch. -/
def AccGroup.fed (x : AccGroup) (f : FeedOp) : AccGroup := { x with acc := feedAcc x f, poison := x.poison || f.poison }

theorem feedRow_columnsWith (x : AccGroup) (f : FeedOp) (code : Nat) :
    (((feedRow x f).zipIdx.filter fun e => e.1.2 == code).map (·.2)) = x.columnsWith f code := by
  rw [feedRow_zipIdx, List.filter_map, List.map_map]
  exact List.map_id _

/-- A FEED in which no column fails for good. -/
theorem State.feed_of_soft (h : x.columnsWith f 2 = []) :
    s.feed cell g x f = (x.columnsWith f 1).foldl (fun s n => s.transient cell n x.shape.slot) (s.setGroup cell g (x.fed f)) := by
  unfold State.feed
  dsimp only
  rw [feedRow_columnsWith, feedRow_columnsWith, h]
  rfl

/-- A FEED that every column gets right, at the first issue or at the reissue. -/
abbrev AccGroup.soft (x : AccGroup) (f : FeedOp) : Prop :=
  f.err1 = [] ∨ ∃ n d, f.err1 = [(n, d)] ∧ n < x.shape.cols ∧ d % 3 ≠ 0 ∧ f.err2 = []

section Soft
variable (hf : f.wf = true) (hsoft : x.soft f)
include hf hsoft

/-- Every column of such a FEED adds its exact partial. -/
theorem AccGroup.column_of_soft (n : Nat) : x.column f n =
    (accAdd (x.acc.getD (f.row * x.shape.cols + n) 0) (placedPartial f n), if columnError f.err1 n = 0 then 0 else 1) := by
  rcases hsoft with h1 | ⟨m, d, h1, -, hd, h2⟩
  · exact feedColumn_exact hf (fun _ => by rw [h1]; rfl) (fun h => absurd (by rw [h1]; rfl) h)
  · refine feedColumn_exact hf (fun h => ?_) (fun _ => by rw [h2]; rfl)
    rw [h1, columnError_single] at h ⊢
    split_ifs at h ⊢
    · exact absurd h hd
    · rfl

theorem AccGroup.columnsWith_hard : x.columnsWith f 2 = [] := by
  refine List.filter_eq_nil_iff.2 fun n _ => ?_
  rw [AccGroup.column_of_soft hf hsoft]
  dsimp only
  split <;> decide

theorem AccGroup.columnsWith_once : x.columnsWith f 1 = f.err1.map (·.1) := by
  have hcode (n : Nat) : ((x.column f n).2 == 1) = decide (columnError f.err1 n ≠ 0) := by
    rw [AccGroup.column_of_soft hf hsoft]
    by_cases h : columnError f.err1 n = 0 <;> simp [h]
  simp only [AccGroup.columnsWith, hcode]
  rcases hsoft with h1 | ⟨m, d, h1, hm, hd, -⟩
  · simp [h1, columnError]
  · have herr (n : Nat) : decide (columnError f.err1 n ≠ 0) = (n == m) := by
      have hd0 : d ≠ 0 := fun h => hd (by rw [h]; rfl)
      rw [h1, columnError_single]
      by_cases h : n = m <;> simp [h, hd0]
    rw [funext herr, h1, List.filter_beq, List.count_eq_one_of_mem List.nodup_range (List.mem_range.2 hm)]
    rfl

/-- Such a FEED sets the accumulators of its row. -/
theorem AccGroup.fed_row {n : Nat} (hn : n < x.shape.cols) (hlen : f.row * x.shape.cols + n < x.acc.length) :
    (x.fed f).acc.getD (f.row * x.shape.cols + n) 0 =
      accAdd (x.acc.getD (f.row * x.shape.cols + n) 0) (placedPartial f n) := by
  rw [AccGroup.fed, feedAcc_eq, setRun_inside hn hlen, AccGroup.column_of_soft hf hsoft]

end Soft

theorem AccGroup.fed_length : (x.fed f).acc.length = x.acc.length := by
  rw [AccGroup.fed, feedAcc_eq, setRun_length]

/-- A FEED leaves the other rows. -/
theorem AccGroup.fed_other_row {k : Nat} (h : k < f.row * x.shape.cols ∨ (f.row + 1) * x.shape.cols ≤ k) :
    (x.fed f).acc.getD k 0 = x.acc.getD k 0 := by
  rw [Nat.succ_mul] at h
  rw [AccGroup.fed, feedAcc_eq, setRun_outside h]

end Feed

/-! ### FEED: a transient of a column -/

/-- A CORRECTED record is written and raises nothing else (R816, R818). -/
theorem State.logErr_corrected (s : State) {e : ErrRec} (h : e.severity = sevCorrected) : s.logErr e = s.logRaw e := by
  simp [State.logErr, h, sevCorrected, sevContained, sevDegraded]

/-- A record that is written leaves the counts of events. -/
theorem State.logRaw_rd_rasCounts (h : keysRise s.regs) (e : ErrRec) : (s.logRaw e).rd .rasCounts 0 = s.rd .rasCounts 0 :=
  (State.logRaw_frame (M := 0xc0000000000000000000000000000000000000) (State.Frame.refl h) rfl).regs .rasCounts rfl 0 (by decide)

/-- A CORRECTED event changes the log and what is kept of recent events. -/
theorem State.logCorrected_rd_rasCounts (h : s.Sound q) (code level whereW action : Nat) (slot : Option Nat) :
    (s.logCorrected code level whereW action slot).rd .rasCounts 0 = s.rd .rasCounts 0 := by
  have hwrite (u : State) (e : ErrRec) (hu : u.regs = s.regs) (he : e.severity = sevCorrected) :
      (u.logErr e).rd .rasCounts 0 = s.rd .rasCounts 0 := by
    rw [State.logErr_corrected u he, State.logRaw_rd_rasCounts (hu ▸ h.rise)]
    exact State.rd_congr hu
  unfold State.logCorrected
  dsimp only
  split
  · split
    · exact State.rd_congr rfl
    · exact hwrite _ _ rfl rfl
  · exact hwrite _ _ rfl rfl

/-- The state that has noted a transient of a column. -/
def State.noteTransient (s : State) (u : PhysUnit) : State :=
  { s with ras := { s.ras with
      transients := kvPut s.ras.transients (cellKeyP u.region u.block u.cell * 33 + u.col) (s.transientsOf u ++ [s.upNs]) } }

/-- The state that has noted, counted and logged it. -/
def State.logTransient (s : State) (u : PhysUnit) (slot : Nat) : State :=
  ((s.noteTransient u).bump Fld.rasTransients 0 1).logCorrected 0x01 0 u.whereW 1 (some slot)

theorem State.transient_eq (s : State) (cell : CellId) (n slot : Nat) : s.transient cell n slot =
    if (s.logTransient (s.columnOf cell n) slot).getF Fld.rasTransLimit 0 ≤
        (s.transientsOf (s.columnOf cell n) ++ [s.upNs]).length then
      (s.logTransient (s.columnOf cell n) slot).columnFails cell n slot
    else s.logTransient (s.columnOf cell n) slot := rfl

section Transient
variable {u : PhysUnit} {n slot : Nat} (h : s.Sound q)
include h

theorem State.noteTransient_sound : (s.noteTransient u).Sound q := State.Sound.rest h rfl

theorem State.logTransient_frame : State.Frame 0x4000060d4000000030000000000000000000000000000 s (s.logTransient u slot) := by
  refine State.logCorrected_frame (State.bump_frame (State.Frame.rest h.frame fun p hp => ?_) rfl) rfl
  cases p with
  | ras => cases hp
  | _ => rfl

/-- A transient is counted (R790). -/
theorem State.logTransient_counts :
    (s.logTransient u slot).getF Fld.rasTransients 0 = min (s.getF Fld.rasTransients 0 + 1) (2 ^ 32 - 1) := by
  have hnoted : (s.noteTransient u).Sound q := State.noteTransient_sound h
  calc (s.logTransient u slot).getF Fld.rasTransients 0
    _ = ((s.noteTransient u).bump Fld.rasTransients 0 1).getF Fld.rasTransients 0 :=
      State.getF_of_rd (State.logCorrected_rd_rasCounts (State.bump_sound hnoted) ..)
    _ = min (s.getF Fld.rasTransients 0 + 1) (2 ^ 32 - 1) := State.getF_bump_one hnoted (by decide) rfl

/-- A transient within the hour's limit escalates nothing (R790). -/
theorem State.transient_of_below (hlimit : (s.transientsOf (s.columnOf cell n)).length + 1 < s.getF Fld.rasTransLimit 0) :
    s.transient cell n slot = s.logTransient (s.columnOf cell n) slot := by
  rw [State.transient_eq, State.getF_of_frame (State.logTransient_frame h) (by decide) (by rfl), List.length_append,
    List.length_singleton, if_neg (Nat.not_le.2 hlimit)]

end Transient

/-! ### FEED: the command -/

theorem exec_feed (f : FeedOp) (hopen : s.openGroup cell g = some x) : exec (.feed cell g f) s = .next (s.feed cell g x f) := by
  change execFeed cell g f s = _
  rw [execFeed, hopen]

section Feeds
variable {f : FeedOp} (hf : f.wf = true) (hopen : s.openGroup cell g = some x)
include hf hopen

theorem feed_without_error (h1 : f.err1 = []) :
    ∃ t, exec (.feed cell g f) s = .next t ∧ t.openGroup cell g = some (x.fed f) ∧
      t.getF Fld.rasTransients 0 = s.getF Fld.rasTransients 0 := by
  refine ⟨_, exec_feed f hopen, ?_⟩
  rw [State.feed_of_soft (AccGroup.columnsWith_hard hf (.inl h1)), AccGroup.columnsWith_once hf (.inl h1), h1]
  exact ⟨State.openGroup_update hopen rfl, State.getF_congr rfl⟩

theorem feed_with_transient (h : s.Sound q) {n : Nat} {d : Int} (h1 : f.err1 = [(n, d)]) (hn : n < x.shape.cols) (hd : d % 3 ≠ 0)
    (h2 : f.err2 = []) (hlimit : (s.transientsOf (s.columnOf cell n)).length + 1 < s.getF Fld.rasTransLimit 0) :
    ∃ t, exec (.feed cell g f) s = .next t ∧ t.openGroup cell g = some (x.fed f) ∧
      t.getF Fld.rasTransients 0 = min (s.getF Fld.rasTransients 0 + 1) (2 ^ 32 - 1) := by
  have hsoft : x.soft f := .inr ⟨n, d, h1, hn, hd, h2⟩
  have hset : (s.setGroup cell g (x.fed f)).Sound q := State.setGroup_sound h
  have hframe := State.logTransient_frame (u := s.columnOf cell n) (slot := x.shape.slot) hset
  obtain ⟨hw, -, -, -⟩ := State.openGroup_eq_some_iff.1 hopen
  refine ⟨_, exec_feed f hopen, ?_⟩
  rw [State.feed_of_soft (AccGroup.columnsWith_hard hf hsoft), AccGroup.columnsWith_once hf hsoft, h1]
  change ((s.setGroup cell g (x.fed f)).transient cell n x.shape.slot).openGroup cell g = _ ∧
    ((s.setGroup cell g (x.fed f)).transient cell n x.shape.slot).getF Fld.rasTransients 0 = _
  rw [State.transient_of_below hset hlimit]
  exact ⟨State.openGroup_of_same (hframe.parts .groups rfl) (hframe.cellWorks rfl rfl rfl hw) (State.openGroup_update hopen rfl),
    State.logTransient_counts hset⟩

end Feeds

/-! ### ADD_WIDE -/

theorem exec_addWide (r n : Nat) (b : Bytes) (hopen : s.openGroup cell g = some x) :
    exec (.addWide cell g r n b) s = .next (s.setGroup cell g (x.addRec r n (wideOf b))) := by
  change execAddWide cell g r n b s = _
  rw [execAddWide, hopen]

section AddRec
variable {r n : Nat} {w : WideRec}

theorem AccGroup.addRec_inside (hn : n < x.shape.cols) :
    (x.addRec r n w).acc = x.acc.set (r * x.shape.cols + n) (accAdd (x.acc.getD (r * x.shape.cols + n) 0) w.value) :=
  if_pos hn

theorem AccGroup.addRec_same (hn : n < x.shape.cols) (hlen : r * x.shape.cols + n < x.acc.length) :
    (x.addRec r n w).acc.getD (r * x.shape.cols + n) 0 = accAdd (x.acc.getD (r * x.shape.cols + n) 0) w.value := by
  rw [AccGroup.addRec_inside hn, List.getD_eq_getElem?_getD, List.getElem?_set_self hlen]
  rfl

theorem AccGroup.addRec_other (hn : n < x.shape.cols) {k : Nat} (hk : k ≠ r * x.shape.cols + n) :
    (x.addRec r n w).acc.getD k 0 = x.acc.getD k 0 := by
  rw [AccGroup.addRec_inside hn, List.getD_eq_getElem?_getD, List.getElem?_set_ne hk.symm, ← List.getD_eq_getElem?_getD]

/-- A place past the tile's extent is none of its accumulators (log 139). -/
theorem AccGroup.addRec_outside (h : x.shape.cols ≤ n ∨ x.acc.length ≤ r * x.shape.cols + n) : (x.addRec r n w).acc = x.acc := by
  by_cases hn : n < x.shape.cols
  · rw [AccGroup.addRec_inside hn]
    exact List.set_eq_of_length_le (h.resolve_left (Nat.not_le.2 hn))
  · exact if_neg hn

end AddRec

/-! ### CLOSE: what the tile comes to -/

theorem needFrom_le_iff (v : Val) (fmt : Nat) {k : Int} (fuel : Nat) {e : Int} (hk : k < e + fuel) :
    needFrom v fmt fuel e ≤ k ↔ ∃ i, e ≤ i ∧ i ≤ k ∧ fitsFmt (v.rne i) fmt = true := by
  induction fuel generalizing e with
  | zero =>
    refine ⟨fun h => ?_, fun ⟨i, h1, h2, _⟩ => ?_⟩
    · rw [needFrom] at h; omega
    · omega
  | succ fuel ih =>
    rw [needFrom]
    split
    · rename_i hfit
      exact ⟨fun h => ⟨e, le_rfl, h, hfit⟩, fun ⟨i, h1, h2, _⟩ => h1.trans h2⟩
    · rename_i hfit
      rw [ih (by omega)]
      refine exists_congr fun i => and_congr_left fun ⟨_, hi⟩ => ⟨fun h => by omega, fun h => ?_⟩
      exact Int.add_one_le_iff.2 (lt_of_le_of_ne h fun he => hfit (he ▸ hi))

/-- need() lies within the format's exponents exactly where the value fits at one of them (R188). -/
theorem need_le_hiLim_iff (v : Val) (fmt : Nat) :
    need v fmt ≤ hiLim fmt ↔ ∃ e, loLim fmt ≤ e ∧ e ≤ hiLim fmt ∧ fitsFmt (v.rne e) fmt = true := by
  refine needFrom_le_iff v fmt 320 ?_
  unfold loLim hiLim
  split <;> decide

theorem loLim_le_hiLim (fmt : Nat) : loLim fmt ≤ hiLim fmt := by
  unfold loLim hiLim
  split <;> decide

/-- The accumulators of a group as the values of its tile. -/
def tileOf (acc : List Int) : List (Option Val) := acc.map fun a => some (.int a)

theorem tileNeed_tileOf (fmt : Nat) (acc : List Int) :
    tileNeed fmt (tileOf acc) = acc.foldl (fun n a => max n (need (.int a) fmt)) (loLim fmt) := by
  rw [tileNeed, tileOf, List.foldl_map]

theorem foldl_max_le_iff (f : Int → Int) (acc : List Int) (n k : Int) :
    acc.foldl (fun n a => max n (f a)) n ≤ k ↔ n ≤ k ∧ ∀ a ∈ acc, f a ≤ k := by
  induction acc generalizing n with
  | nil => simp
  | cons a acc ih => rw [List.foldl_cons, ih, max_le_iff, List.forall_mem_cons, and_assoc]

/-- N of a tile lies within the format's exponents exactly where each accumulator fits at one of them (R190). -/
theorem tileNeed_le_hiLim_iff (fmt : Nat) (acc : List Int) : tileNeed fmt (tileOf acc) ≤ hiLim fmt ↔
    ∀ a ∈ acc, ∃ e, loLim fmt ≤ e ∧ e ≤ hiLim fmt ∧ fitsFmt (rne a e) fmt = true := by
  simp only [tileNeed_tileOf, foldl_max_le_iff, loLim_le_hiLim, true_and, need_le_hiLim_iff]
  rfl

theorem overflowCount_tileOf (fmt : Nat) (e : Int) (acc : List Int) :
    overflowCount fmt e (tileOf acc) = (acc.filter fun v => !fitsFmt (rne v e) fmt).length := by
  rw [overflowCount, tileOf, List.filter_map, List.length_map]
  rfl

theorem overflowCount_tileOf_eq_zero_iff (fmt : Nat) (e : Int) (acc : List Int) :
    overflowCount fmt e (tileOf acc) = 0 ↔ ∀ v ∈ acc, fitsFmt (rne v e) fmt = true := by
  simp [overflowCount_tileOf, List.length_eq_zero_iff, List.filter_eq_nil_iff]

/-- What the close of a group comes to. -/
def AccGroup.closed (x : AccGroup) (cw : CloseWord) : CloseResult := closeTile cw (zeroElem cw.fmt) x.poison (tileOf x.acc)

section Closed
variable {cw : CloseWord} (hfmt : cw.fmt ≤ 4) (hauto : cw.auto = false)
include hfmt

theorem AccGroup.closed_rounds : x.closed cw = closeRounded cw (zeroElem cw.fmt) x.poison (tileOf x.acc) := if_neg (by omega)

include hauto

/-- A poisoned group, and one whose elements all fit, raises no event (R190, R193). -/
theorem AccGroup.closed_quiet (h : x.poison = true ∨ ∀ v ∈ x.acc, fitsFmt (rne v cw.eo) cw.fmt = true) :
    (x.closed cw).event = none := by
  rw [AccGroup.closed_rounds hfmt]
  unfold closeRounded
  by_cases hp : x.poison = true
  · rw [if_pos hp]
  · rw [if_neg hp, hauto, if_neg Bool.false_ne_true,
      if_pos ((overflowCount_tileOf_eq_zero_iff ..).2 (h.resolve_left hp))]

section Unfit
variable (hp : x.poison = false) (hunfit : ∃ v ∈ x.acc, fitsFmt (rne v cw.eo) cw.fmt = false)
include hp hunfit

/-- The table of close outcomes where an element does not fit (R190). -/
theorem AccGroup.closed_of_unfit : x.closed cw =
    if cw.ovf = 0 then
      if tileNeed cw.fmt (tileOf x.acc) ≤ hiLim cw.fmt then
        ⟨tileNeed cw.fmt (tileOf x.acc), convertTile cw.fmt (zeroElem cw.fmt) false (tileNeed cw.fmt (tileOf x.acc)) (tileOf x.acc),
          false, some .accRetry, (tileNeed cw.fmt (tileOf x.acc) - cw.eo).toNat, 0⟩
      else ⟨cw.eo, zeroTile cw.fmt (tileOf x.acc), true, some .accExpLimit, 0, 0⟩
    else if cw.ovf = 1 then
      ⟨cw.eo, convertTile cw.fmt (zeroElem cw.fmt) true cw.eo (tileOf x.acc), false, some .accSaturate, 0,
        overflowCount cw.fmt cw.eo (tileOf x.acc)⟩
    else ⟨cw.eo, zeroTile cw.fmt (tileOf x.acc), true, some .accOverflow, 0, 0⟩ := by
  have hcount : ¬overflowCount cw.fmt cw.eo (tileOf x.acc) = 0 := fun h => by
    obtain ⟨v, hv, hbad⟩ := hunfit
    rw [(overflowCount_tileOf_eq_zero_iff ..).1 h v hv] at hbad
    cases hbad
  rw [AccGroup.closed_rounds hfmt]
  unfold closeRounded
  rw [hp, if_neg Bool.false_ne_true, hauto, if_neg Bool.false_ne_true, if_neg hcount]

theorem AccGroup.closed_retries (hovf : cw.ovf = 0)
    (hall : ∀ v ∈ x.acc, ∃ e, loLim cw.fmt ≤ e ∧ e ≤ hiLim cw.fmt ∧ fitsFmt (rne v e) cw.fmt = true) :
    (x.closed cw).event = some .accRetry := by
  rw [AccGroup.closed_of_unfit hfmt hauto hp hunfit, if_pos hovf, if_pos ((tileNeed_le_hiLim_iff ..).2 hall)]

theorem AccGroup.closed_exceeds (hovf : cw.ovf = 0)
    (hnone : ∃ v ∈ x.acc, ∀ e, loLim cw.fmt ≤ e → e ≤ hiLim cw.fmt → fitsFmt (rne v e) cw.fmt = false) :
    (x.closed cw).event = some .accExpLimit := by
  have hneed : ¬tileNeed cw.fmt (tileOf x.acc) ≤ hiLim cw.fmt := fun h => by
    obtain ⟨v, hv, hbad⟩ := hnone
    obtain ⟨e, hlo, hhi, hfit⟩ := (tileNeed_le_hiLim_iff ..).1 h v hv
    rw [hbad e hlo hhi] at hfit
    cases hfit
  rw [AccGroup.closed_of_unfit hfmt hauto hp hunfit, if_pos hovf, if_neg hneed]

theorem AccGroup.closed_saturates (hovf : cw.ovf = 1) : (x.closed cw).event = some .accSaturate ∧
    (x.closed cw).satElems = (x.acc.filter fun v => !fitsFmt (rne v cw.eo) cw.fmt).length := by
  rw [AccGroup.closed_of_unfit hfmt hauto hp hunfit, if_neg (by omega), if_pos hovf]
  exact ⟨rfl, overflowCount_tileOf ..⟩

theorem AccGroup.closed_faults (hovf : cw.ovf = 2) : (x.closed cw).event = some .accOverflow := by
  rw [AccGroup.closed_of_unfit hfmt hauto hp hunfit, if_neg (by omega), if_neg (by omega)]

end Unfit
end Closed

/-! ### CLOSE: the counters -/

/-- A counter that holds at all ones. -/
theorem State.getF_bump_saturates {f : Field} {i n : Nat} (h : s.Sound q) (hf : f.ok i) (hle : f.lo ≤ f.hi) :
    (s.bump f i n).getF f i = min (s.getF f i + n) (2 ^ (f.hi + 1 - f.lo) - 1) := by
  have hmax : f.max = 2 ^ (f.hi + 1 - f.lo) - 1 := by
    rw [Field.max, Field.width, show f.hi - f.lo + 1 = f.hi + 1 - f.lo by omega]
  have hpos : 0 < 2 ^ (f.hi + 1 - f.lo) := Nat.two_pow_pos _
  rw [State.getF_bump h hf, hmax, satNat]
  split
  · rw [Nat.mod_eq_of_lt (by omega)]; omega
  · rw [Nat.mod_eq_of_lt (by omega)]; omega

theorem State.getF_raiseTo_apart {f k : Field} {i j v : Nat} (h : s.Sound q) (hf : f.lo ≤ f.hi + 1 ∧ f.hi < 64)
    (hk : j < k.reg.info.count) (ha : k.apart j f i) : (s.raiseTo f i v).getF k j = s.getF k j := by
  unfold State.raiseTo
  split
  · exact State.getF_setF_apart h hf hk ha
  · rfl

section Count
variable {c p plate : Nat} {cw : CloseWord} {r : CloseResult}

theorem State.countClose_none (he : r.event = none) : s.countClose c p plate cw r = s := by
  unfold State.countClose
  rw [he]

/-- What RGN_ARI_LAST says of the last event of a close (R195). -/
def State.closeNoted (s : State) (c p plate : Nat) (cw : CloseWord) (r : CloseResult) (e : CloseEvent) : State :=
  s.setFs p [(Fld.rgnAriLastCode, closeEventCode e), (Fld.rgnAriLastEo, patOf 8 r.exp), (Fld.rgnAriLastEoReq, patOf 8 cw.eo),
    (Fld.rgnAriLastSlot, c), (Fld.rgnAriLastFormat, cw.fmt), (Fld.rgnAriLastPlate, plate)]

variable (h : s.Sound q) (hp : p < 20)
include h

theorem State.closeNoted_sound (e : CloseEvent) : (s.closeNoted c p plate cw r e).Sound q := State.setFs_sound h

include hp

theorem State.closeNoted_code (e : CloseEvent) :
    (s.closeNoted c p plate cw r e).getF Fld.rgnAriLastCode p = closeEventCode e := by
  refine (State.getF_setFs h ⟨by decide, by decide, hp⟩ [] _ rfl rfl).trans ?_
  cases e <;> rfl

/-- The counters of closes stand beside RGN_ARI_LAST. -/
theorem State.closeNoted_getF (e : CloseEvent) {f : Field} (hf : f.reg = .rgnAriRetry ∨ f.reg = .rgnAriOvf) :
    (s.closeNoted c p plate cw r e).getF f p = s.getF f p := by
  refine State.getF_setFs_of_clear h ?_ ?_
  · rcases hf with hf | hf <;> rw [hf] <;> exact hp
  · rcases hf with hf | hf <;> simp [clearOf, hf, Fld.rgnAriLastCode, Fld.rgnAriLastEo, Fld.rgnAriLastEoReq, Fld.rgnAriLastSlot,
      Fld.rgnAriLastFormat, Fld.rgnAriLastPlate]

theorem State.countClose_retry (he : r.event = some .accRetry) :
    (s.countClose c p plate cw r).getF Fld.rgnAriRetries p = min (s.getF Fld.rgnAriRetries p + 1) (2 ^ 48 - 1) ∧
      (s.countClose c p plate cw r).getF Fld.rgnAriLastCode p = 1 := by
  have hnoted : (s.closeNoted c p plate cw r .accRetry).Sound q := State.closeNoted_sound h _
  have hbump : ((s.closeNoted c p plate cw r .accRetry).bump Fld.rgnAriRetries p 1).Sound q := State.bump_sound hnoted
  unfold State.countClose
  rw [he]
  refine ⟨?_, ?_⟩
  · refine (State.updChase_getF ..).trans ((State.getF_raiseTo_apart hbump (by decide) hp (.inr (.inr (.inl (by decide))))).trans
      ((State.getF_bump_saturates hnoted ⟨by decide, by decide, hp⟩ (by decide)).trans ?_))
    rw [State.closeNoted_getF h hp .accRetry (f := Fld.rgnAriRetries) (.inl rfl)]
    rfl
  · exact (State.updChase_getF ..).trans ((State.getF_raiseTo_apart hbump (by decide) hp (.inl (by decide))).trans
      ((State.getF_bump_apart hnoted (by decide) hp (.inl (by decide))).trans (State.closeNoted_code h hp _)))

theorem State.countClose_saturate (he : r.event = some .accSaturate) :
    (s.countClose c p plate cw r).getF Fld.rgnAriSatElems p = min (s.getF Fld.rgnAriSatElems p + r.satElems) (2 ^ 32 - 1) ∧
      (s.countClose c p plate cw r).getF Fld.rgnAriLastCode p = 2 := by
  have hnoted : (s.closeNoted c p plate cw r .accSaturate).Sound q := State.closeNoted_sound h _
  unfold State.countClose
  rw [he]
  refine ⟨?_, ?_⟩
  · refine (State.updChase_getF ..).trans ((State.getF_bump_saturates hnoted ⟨by decide, by decide, hp⟩ (by decide)).trans ?_)
    rw [State.closeNoted_getF h hp .accSaturate (f := Fld.rgnAriSatElems) (.inr rfl)]
    rfl
  · exact (State.updChase_getF ..).trans ((State.getF_bump_apart hnoted (by decide) hp (.inl (by decide))).trans
      (State.closeNoted_code h hp _))

theorem State.countClose_fault {e : CloseEvent} (he : r.event = some e) (hfault : e = .accOverflow ∨ e = .accExpLimit) :
    (s.countClose c p plate cw r).getF Fld.rgnAriFaultTiles p = min (s.getF Fld.rgnAriFaultTiles p + 1) (2 ^ 32 - 1) ∧
      (s.countClose c p plate cw r).getF Fld.rgnAriLastCode p = closeEventCode e := by
  have hnoted : (s.closeNoted c p plate cw r e).Sound q := State.closeNoted_sound h _
  have hcount : (s.countClose c p plate cw r) = ((s.closeNoted c p plate cw r e).bump Fld.rgnAriFaultTiles p 1).updWork c
      fun w => { w with faulted := w.faulted + 1 } := by
    unfold State.countClose
    rw [he]
    rcases hfault with rfl | rfl <;> rfl
  rw [hcount]
  refine ⟨?_, ?_⟩
  · refine (State.updChase_getF ..).trans ((State.getF_bump_saturates hnoted ⟨by decide, by decide, hp⟩ (by decide)).trans ?_)
    rw [State.closeNoted_getF h hp e (f := Fld.rgnAriFaultTiles) (.inr rfl)]
    rfl
  · exact (State.updChase_getF ..).trans ((State.getF_bump_apart hnoted (by decide) hp (.inl (by decide))).trans
      (State.closeNoted_code h hp _))

end Count

/-! ### CLOSE: the group, and the tile that takes it -/

theorem keysRise_of_pairwise {α : Type} {l : List (Nat × α)} (h : (l.map (·.1)).Pairwise (· < ·)) : keysRise l := by
  induction l with
  | nil => trivial
  | cons a l ih =>
    obtain ⟨habove, hl⟩ := List.pairwise_cons.1 h
    exact keysRise_cons.2 ⟨fun e he => habove e.1 (List.mem_map_of_mem he), ih hl⟩

/-- The oldest tile that waits for a group. -/
def State.nextTile (s : State) (cell : CellId) (g : Nat) : Option OpenWait :=
  s.openWaits.find? fun w => w.cell == cellKey cell && (w.any || w.g == g)

/-- A group is FREE again. -/
def State.dropGroup (s : State) (cell : CellId) (g : Nat) : State := { s with groups := kvDel s.groups (groupKey cell g) }

theorem State.openWaiting_of_none (h : s.nextTile cell g = none) : s.openWaiting cell g = s := by
  change s.openWaits.find? _ = _ at h
  unfold State.openWaiting
  rw [h]

theorem State.openWaiting_of_some {w : OpenWait} (h : s.nextTile cell g = some w) :
    s.openWaiting cell g = ({ s with openWaits := s.openWaits.erase w } : State).setGroup cell g w.grp := by
  change s.openWaits.find? _ = _ at h
  unfold State.openWaiting
  rw [h]

theorem State.openWaiting_regs : (s.openWaiting cell g).regs = s.regs := by
  unfold State.openWaiting
  split <;> rfl

/-- With no tile that waits for it the group can be opened. -/
theorem State.dropGroup_canOpen (hw : s.cellWorks cell = true) (hg : g < 8) (hrise : keysRise s.groups) :
    (s.dropGroup cell g).canOpen cell g = true :=
  State.canOpen_iff.2 ⟨hw, hg, (kvGet_kvDel _ _ _ hrise).trans (if_pos rfl)⟩

section Close
variable {cw : CloseWord}

/-- The state of a CLOSE whose event is counted and whose tile is written. -/
def State.closeStored (s : State) (cell : CellId) (x : AccGroup) (cw : CloseWord) (bs : Bytes) : State :=
  (s.countClose x.shape.slot (s.physOf cell.region) x.shape.plate cw (x.closed cw)).writeTile x.shape.slot x.shape.dst bs

theorem State.closeGroup_eq (s : State) (cell : CellId) (g : Nat) (x : AccGroup) (cw : CloseWord) :
    ∃ bs, s.closeGroup cell g x cw = ((s.closeStored cell x cw bs).dropGroup cell g).openWaiting cell g := ⟨_, rfl⟩

theorem exec_close {w : Nat} (hopen : s.openGroup cell g = some x) (hok : closeWordOk w = true) :
    exec (.close cell g w) s = .next (s.closeGroup cell g x (closeWordOf w)) := by
  change execClose cell g w s = _
  rw [execClose, hopen]
  exact congrArg Host.Outcome.next (if_pos hok)

variable (h : s.Sound q) (bs : Bytes)
include h

theorem State.closeStored_frame :
    State.Frame 0x7ec2000000000000000000000004001c0000003800 s (s.closeStored cell x cw bs) :=
  State.writeTile_frame (State.countClose_frame h.frame rfl) rfl

/-- The write of the tile leaves the counters of closes. -/
theorem State.closeStored_getF {f : Field} {p : Nat} (hp : p < f.reg.info.count)
    (hf : f.reg = .rgnAriRetry ∨ f.reg = .rgnAriOvf ∨ f.reg = .rgnAriLast) :
    (s.closeStored cell x cw bs).getF f p =
      (s.countClose x.shape.slot (s.physOf cell.region) x.shape.plate cw (x.closed cw)).getF f p := by
  refine State.getF_of_frame (State.writeTile_frame (M := 0x7ec2000000000000000000000004001c0000000000)
    (State.countClose_sound h).frame rfl) hp ?_
  rcases hf with hf | hf | hf <;> rw [hf] <;> rfl

theorem State.closeGroup_getF {f : Field} {p : Nat} (hp : p < f.reg.info.count)
    (hf : f.reg = .rgnAriRetry ∨ f.reg = .rgnAriOvf ∨ f.reg = .rgnAriLast) :
    (s.closeGroup cell g x cw).getF f p =
      (s.countClose x.shape.slot (s.physOf cell.region) x.shape.plate cw (x.closed cw)).getF f p := by
  obtain ⟨bs, heq⟩ := State.closeGroup_eq s cell g x cw
  rw [heq]
  exact (State.getF_congr State.openWaiting_regs).trans (State.closeStored_getF h bs hp hf)

/-- CLOSE frees the group, and the tile that has waited longest for it takes it (R180, R182, R190). -/
theorem State.closeGroup_frees (hopen : s.openGroup cell g = some x) (hrise : keysRise s.groups) :
    (s.nextTile cell g = none →
      (s.closeGroup cell g x cw).canOpen cell g = true ∧ (s.closeGroup cell g x cw).openWaits = s.openWaits) ∧
    (∀ w, s.nextTile cell g = some w → w.grp.st = 1 → (s.closeGroup cell g x cw).openGroup cell g = some w.grp ∧
      (s.closeGroup cell g x cw).openWaits = s.openWaits.erase w) := by
  obtain ⟨bs, heq⟩ := State.closeGroup_eq s cell g x cw
  obtain ⟨hw, hg, -, -⟩ := State.openGroup_eq_some_iff.1 hopen
  have hframe := State.closeStored_frame (cell := cell) (x := x) (cw := cw) h bs
  have hworks := hframe.cellWorks rfl rfl rfl hw
  have hgroups : (s.closeStored cell x cw bs).groups = s.groups := hframe.parts .groups rfl
  have hwaits : ((s.closeStored cell x cw bs).dropGroup cell g).openWaits = s.openWaits := hframe.parts .openWaits rfl
  have hnext : ((s.closeStored cell x cw bs).dropGroup cell g).nextTile cell g = s.nextTile cell g := by
    unfold State.nextTile
    rw [hwaits]
  rw [heq]
  refine ⟨fun hnone => ?_, fun w hsome hst => ?_⟩
  · rw [State.openWaiting_of_none (hnext.trans hnone)]
    exact ⟨State.dropGroup_canOpen hworks hg (hgroups ▸ hrise), hwaits⟩
  · rw [State.openWaiting_of_some (hnext.trans hsome)]
    exact ⟨State.openGroup_setGroup hworks hg hst, congrArg (List.erase · w) hwaits⟩

end Close

section Outcome
variable {p : Nat} {cw : CloseWord} (h : s.Sound q) (hp20 : p < 20) (hauto : cw.auto = false) (hfmt : cw.fmt ≤ 4)
include h hp20 hauto hfmt

/-- A close that raises no event counts nothing (R190, R193). -/
theorem State.closeGroup_quiet (hq : x.poison = true ∨ ∀ v ∈ x.acc, fitsFmt (rne v cw.eo) cw.fmt = true) :
    (s.closeGroup cell g x cw).getF Fld.rgnAriRetries p = s.getF Fld.rgnAriRetries p ∧
      (s.closeGroup cell g x cw).getF Fld.rgnAriSatElems p = s.getF Fld.rgnAriSatElems p ∧
      (s.closeGroup cell g x cw).getF Fld.rgnAriFaultTiles p = s.getF Fld.rgnAriFaultTiles p := by
  rw [State.closeGroup_getF h hp20 (.inl rfl), State.closeGroup_getF h hp20 (.inr (.inl rfl)),
    State.closeGroup_getF h hp20 (.inr (.inl rfl)), State.countClose_none (AccGroup.closed_quiet hfmt hauto hq)]
  exact ⟨rfl, rfl, rfl⟩

variable (hp : p = s.physOf cell.region) (hpoison : x.poison = false)
  (hunfit : ∃ v ∈ x.acc, fitsFmt (rne v cw.eo) cw.fmt = false)
include hp hpoison hunfit

theorem State.closeGroup_retries (hovf : cw.ovf = 0)
    (hall : ∀ v ∈ x.acc, ∃ e, loLim cw.fmt ≤ e ∧ e ≤ hiLim cw.fmt ∧ fitsFmt (rne v e) cw.fmt = true) :
    (s.closeGroup cell g x cw).getF Fld.rgnAriRetries p = min (s.getF Fld.rgnAriRetries p + 1) (2 ^ 48 - 1) ∧
      (s.closeGroup cell g x cw).getF Fld.rgnAriLastCode p = 1 := by
  rw [State.closeGroup_getF h hp20 (.inl rfl), State.closeGroup_getF h hp20 (.inr (.inr rfl)), ← hp]
  exact State.countClose_retry h hp20 (AccGroup.closed_retries hfmt hauto hpoison hunfit hovf hall)

theorem State.closeGroup_exceeds (hovf : cw.ovf = 0)
    (hnone : ∃ v ∈ x.acc, ∀ e, loLim cw.fmt ≤ e → e ≤ hiLim cw.fmt → fitsFmt (rne v e) cw.fmt = false) :
    (s.closeGroup cell g x cw).getF Fld.rgnAriFaultTiles p = min (s.getF Fld.rgnAriFaultTiles p + 1) (2 ^ 32 - 1) ∧
      (s.closeGroup cell g x cw).getF Fld.rgnAriLastCode p = 4 := by
  rw [State.closeGroup_getF h hp20 (.inr (.inl rfl)), State.closeGroup_getF h hp20 (.inr (.inr rfl)), ← hp]
  exact State.countClose_fault h hp20 (AccGroup.closed_exceeds hfmt hauto hpoison hunfit hovf hnone) (.inr rfl)

theorem State.closeGroup_saturates (hovf : cw.ovf = 1) :
    (s.closeGroup cell g x cw).getF Fld.rgnAriSatElems p = min (s.getF Fld.rgnAriSatElems p +
        (x.acc.filter fun v => !fitsFmt (rne v cw.eo) cw.fmt).length) (2 ^ 32 - 1) ∧
      (s.closeGroup cell g x cw).getF Fld.rgnAriLastCode p = 2 := by
  obtain ⟨hevent, hcount⟩ := AccGroup.closed_saturates hfmt hauto hpoison hunfit hovf
  rw [State.closeGroup_getF h hp20 (.inr (.inl rfl)), State.closeGroup_getF h hp20 (.inr (.inr rfl)), ← hp, ← hcount]
  exact State.countClose_saturate h hp20 hevent

theorem State.closeGroup_faults (hovf : cw.ovf = 2) :
    (s.closeGroup cell g x cw).getF Fld.rgnAriFaultTiles p = min (s.getF Fld.rgnAriFaultTiles p + 1) (2 ^ 32 - 1) ∧
      (s.closeGroup cell g x cw).getF Fld.rgnAriLastCode p = 3 := by
  rw [State.closeGroup_getF h hp20 (.inr (.inl rfl)), State.closeGroup_getF h hp20 (.inr (.inr rfl)), ← hp]
  exact State.countClose_fault h hp20 (AccGroup.closed_faults hfmt hauto hpoison hunfit hovf) (.inl rfl)

end Outcome

/-! ### A group that is not OPEN -/

/-- FEED, ADD_WIDE and CLOSE of a group that is not OPEN do nothing (log 120). -/
theorem exec_of_not_open (r n w : Nat) (f : FeedOp) (b : Bytes) (h : s.openGroup cell g = none) :
    exec (.feed cell g f) s = .next s ∧ exec (.addWide cell g r n b) s = .next s ∧ exec (.close cell g w) s = .next s := by
  change execFeed cell g f s = _ ∧ execAddWide cell g r n b s = _ ∧ execClose cell g w s = _
  rw [execFeed, execAddWide, execClose, h]
  exact ⟨rfl, rfl, rfl⟩

/-- Settles O45: opening, feeding, adding and closing are each one update of the group of that number; a close frees the group
after its event is counted and its tile is written. -/
theorem groupsOpenAccumulateAndClose : Obligations.GroupsOpenAccumulateAndClose := by
  unfold Obligations.GroupsOpenAccumulateAndClose
  refine ⟨fun cell g shape recs s _ hfree hr hc => ⟨⟨_, _, rfl, State.openWith_opens hfree hr hc, rfl, rfl, rfl⟩,
      ⟨_, _, rfl, State.openWith_opens hfree hr hc, rfl, ?_, any_loaded_poison recs _⟩⟩,
    fun cell g x f s hs hf hopen herr => ?_, fun cell g r n b x s _ hopen => ?_,
    fun cell g w p x c s hs hopen hok hc hrise hp hp20 => ?_, fun cell g r n w shape recs f b s => ⟨fun hunfit => ?_,
      fun hw hg hr hc hused => ?_, exec_of_not_open r n w f b⟩⟩
  · exact List.map_map
  · have hsoft : x.soft f := herr.imp id fun ⟨n, d, h1, hn, hd, h2, _⟩ => ⟨n, d, h1, hn, hd, h2⟩
    have hfed : ∃ t, exec (.feed cell g f) s = .next t ∧ t.openGroup cell g = some (x.fed f) ∧ t.getF Fld.rasTransients 0 =
        if f.err1 = [] then s.getF Fld.rasTransients 0 else min (s.getF Fld.rasTransients 0 + 1) (2 ^ 32 - 1) := by
      rcases herr with h1 | ⟨n, d, h1, hn, hd, h2, hlimit⟩
      · rw [if_pos h1]
        exact feed_without_error hf hopen h1
      · rw [if_neg (by simp [h1])]
        exact feed_with_transient hf hopen (State.sound_of_canonical hs) h1 hn hd h2 hlimit
    obtain ⟨t, hexec, hgroup, hcount⟩ := hfed
    exact ⟨t, x.fed f, hexec, hgroup, rfl, AccGroup.fed_length, fun n hn hlen => AccGroup.fed_row hf hsoft hn hlen,
      fun k hk => AccGroup.fed_other_row hk, hcount⟩
  · exact ⟨_, _, exec_addWide r n b hopen, State.openGroup_update hopen rfl, rfl,
      fun hn hlen => ⟨AccGroup.addRec_same hn hlen, fun k hk => AccGroup.addRec_other hn hk⟩, AccGroup.addRec_outside⟩
  · have h := State.sound_of_canonical hs
    subst hc
    obtain ⟨hnone, hsome⟩ := State.closeGroup_frees (cw := closeWordOf w) h hopen (keysRise_of_pairwise hrise)
    refine ⟨_, exec_close hopen hok, hnone, hsome, fun hauto hfmt =>
      ⟨State.closeGroup_quiet h hp20 hauto hfmt, fun hpoison hunfit => ⟨?_, ?_, ?_, ?_⟩⟩⟩
    · exact State.closeGroup_retries h hp20 hauto hfmt hp hpoison hunfit
    · exact State.closeGroup_exceeds h hp20 hauto hfmt hp hpoison hunfit
    · exact State.closeGroup_saturates h hp20 hauto hfmt hp hpoison hunfit
    · exact State.closeGroup_faults h hp20 hauto hfmt hp hpoison hunfit
  · exact ⟨congrArg Host.Outcome.next (State.openWith_unfit hunfit), congrArg Host.Outcome.next (State.openWith_unfit hunfit)⟩
  · exact ⟨⟨_, _, congrArg Host.Outcome.next (State.openWith_waits hw hg hr hc hused), rfl, rfl, rfl, rfl, rfl, rfl⟩,
      ⟨_, _, congrArg Host.Outcome.next (State.openWith_waits hw hg hr hc hused), rfl, rfl, rfl, rfl, rfl, rfl⟩⟩

end Sys2Proof.Machine
end

section
/-! PROOF. PUBLISH of a row whose master is poisoned: the bytes that it stores in the slot leave the merging buffers with the
sectors that it poisons (R367, R511), so that the slot does not show them. -/

namespace Sys2Proof.Machine

/-! ### A PUBLISH over a poisoned master -/

/-- A forme of one section, a plate program of one plate: STATE with SO_OP 1 of galley 2 (R54, R55, R76, R133). -/
def publishForme : Bytes :=
  natLe 12 0 ++ natLe 116 1 ++ (natLe 2 5 ++ natLe 2 1 ++ natLe 4 176 ++ natLe 40 128) ++ natLe 64 1 ++
    (natLe 4 opState ++ natLe 4 (2 ^ 32 - 1) ++ natLe 4 2 ++ natLe 4 (2 ^ 32 - 1) ++ natLe 32 0 ++ natLe 16 1)

/-- A declaration of galley 2: eight slugs of four s8 elements, replicated and trainable (R79). -/
def trainableDecl : Bytes := natLe 4 2 ++ natLe 2 4 ++ natLe 1 0 ++ natLe 1 1 ++ natLe 8 8 ++ natLe 48 4

/-- Unit `u` of the near-only band 0. -/
def nearFrame (u : Nat) : FrameEnt := ⟨0, 0, u, 3, 0, 0, 0, [], 0, 0, [], [], 0, 0, false, false, [], false, 0, true⟩

/-- An incoming state with frames of its own for the slots and the tags of its first rows. -/
def ownIncoming : GalState := ⟨1, 0, 1, [(0, galKey), (2 ^ 40, galKey + 1)]⟩

/-- The galley with that state, a frame of master rows, and row 0 dirty. -/
def dirtyGalley : GalleySt :=
  { newGalley trainableDecl with
    nextNum := 2, states := [⟨0, 2, 0, []⟩, ownIncoming], masterMap := [(0, galKey + 2)], dirty := [0] }

/-- Slot 0 in its PUBLISH over that galley. -/
def publishChase : ChaseSt :=
  { ChaseSt.empty with
    forme := publishForme, plate := { PlateRt.none with started := true }, galleys := [(2, dirtyGalley)]
    frames := [(galKey, nearFrame 0), (galKey + 1, nearFrame 1), (galKey + 2, nearFrame 2)] }

/-- The block in READY with slot 0 in the run phase of its PUBLISH. The first element of master row 0 is 3, and its sector is
poisoned. -/
def poisonedMaster : State :=
  State.setFs { State.reset with
      pw := { State.reset.pw with held := false }, mem := [(8192, 3)], poison := [256]
      hbm := { State.reset.hbm with bands := [⟨0, 0, [0]⟩] }, chases := publishChase :: List.replicate 15 ChaseSt.empty }
    0 [(Fld.sysBootStage, stageReady), (Fld.sysChaseState, csRunning), (Fld.stkPhase, 2)]

/-- The units of the band stand one behind another from HBM address 0 on. -/
theorem poisonedMaster_entryHa (u off : Nat) : poisonedMaster.entryHa (nearFrame u) off = 4096 * u + off := by
  have hband : poisonedMaster.band 0 0 = some ⟨0, 0, [0]⟩ := by decide +kernel
  have hlayout : ¬ (nearFrame u).layout = 2 := by simp [nearFrame]
  rw [State.entryHa, State.frameHa, if_neg hlayout]
  simp only [nearFrame, hband, placeUnit, List.length_singleton, Nat.mod_one, List.getD_cons_zero]
  omega

/-- A byte of the incoming state's frames is a byte of unit 0 for the slots, and of unit 1 for the tags. -/
theorem poisonedMaster_galHa {i u : Nat} (hi : (i = 0 ∧ u = 0) ∨ (i = 2 ^ 40 ∧ u = 1)) (off : Nat) :
    poisonedMaster.galHa 0 ownIncoming.map i off = some (4096 * u + off) := by
  have hframe : (kvGet ownIncoming.map i).bind (poisonedMaster.frame 0) = some (nearFrame u) := by
    rcases hi with ⟨rfl, rfl⟩ | ⟨rfl, rfl⟩ <;> decide +kernel
  rw [State.galHa, hframe, Option.map_some, poisonedMaster_entryHa]

theorem poisonedMaster_hostFree (line : Nat) : poisonedMaster.hostFree line := by
  have hsnoop : poisonedMaster.host.snoop = [] ∧ poisonedMaster.host.snoopOut = [] ∧ poisonedMaster.host.heldWrites = [] := by
    decide +kernel
  simp [State.hostFree, State.snooped, heldByte, hsnoop]

/-- Row 0 stands in frames that are the incoming state's own. -/
theorem poisonedMaster_ownPlace : poisonedMaster.ownPlace 0 dirtyGalley ownIncoming (rowPlace dirtyGalley.r 0) := by
  have hplace : rowPlace dirtyGalley.r 0 = ⟨0, 0, 2 ^ 40, 0⟩ := by decide +kernel
  have hunit {i : Nat} (hi : i = 0 ∨ i = 2 ^ 40) : ∃ u, (i = 0 ∧ u = 0) ∨ (i = 2 ^ 40 ∧ u = 1) := by
    rcases hi with rfl | rfl <;> simp
  rw [hplace]
  refine ⟨by decide +kernel, by decide +kernel, fun i off hi hoff => ?_, fun i j a b h hi hj ha hb hia hjb => ?_, .inl (by decide)⟩
  · obtain ⟨u, hu⟩ := hunit hi
    exact ⟨_, poisonedMaster_galHa hu off, by unfold hbmTop; omega, poisonedMaster_hostFree _⟩
  · obtain ⟨u, hu⟩ := hunit hi
    obtain ⟨v, hv⟩ := hunit hj
    rw [poisonedMaster_galHa hu, Option.some.injEq] at hia
    rw [poisonedMaster_galHa hv, Option.some.injEq] at hjb
    omega

/-- The published row begins with the element 3; its slot shows zeros alone. -/
theorem poisonedMaster_publish :
    (publishSlug dirtyGalley (poisonedMaster.masterRow 0 dirtyGalley 0).1 (poisonedMaster.masterRow 0 dirtyGalley 0).2).1 =
        ⟨-32, 0, [3, 0, 0, 0], true⟩ ∧
      (poisonedMaster.publishPlate 0).galRead false 0 ownIncoming.map (rowPlace dirtyGalley.r 0).slotF (rowPlace dirtyGalley.r 0).slotO
        (slotBytes dirtyGalley.r) = List.replicate 32 0 := by
  decide +kernel

/-- PUBLISH in hand is the work of its plate. -/
theorem exec_publish {s : State} {c : Nat} (hop : (s.plate c).stateOp = 1) (hruns : s.plateRuns c opState = true) :
    exec (.publish c []) s = .next (s.publishPlate c) :=
  congrArg Host.Outcome.next ((if_pos hop).trans (State.plateDo_of_runs hruns))

/-- Refutes O43: a PUBLISH over a poisoned master row writes the row into its slot and then poisons the slot's sectors, which
takes the row's bytes out of the merging buffers; the slot shows what DRAM held before. -/
theorem not_writingPlatesLeaveTheirMarks : ¬ Obligations.WritingPlatesLeaveTheirMarks := by
  unfold Obligations.WritingPlatesLeaveTheirMarks
  rintro ⟨-, -, hstate⟩
  obtain ⟨hpublish, -⟩ := hstate 0 dirtyGalley poisonedMaster (by decide +kernel) (by decide) (by decide +kernel) (by decide +kernel)
  have hop : (poisonedMaster.plate 0).stateOp = 1 := by decide +kernel
  have hopen : ∀ v, dirtyGalley.incoming = some v → v.stage = 0 := by
    intro v hv
    cases hv
    rfl
  obtain ⟨-, hrow⟩ := (hpublish hop).1 hopen (.inl rfl) (by decide) (List.pairwise_singleton _ _)
  obtain ⟨t, g1, v, hexec, -, -, -, -, hmap, hslot, -⟩ := hrow 0 ownIncoming rfl rfl poisonedMaster_ownPlace
  obtain rfl : poisonedMaster.publishPlate 0 = t := by
    rw [exec_publish hop (by decide +kernel)] at hexec
    cases hexec
    rfl
  obtain ⟨hrow3, hzeros⟩ := poisonedMaster_publish
  rw [hmap, hrow3, hzeros] at hslot
  exact absurd hslot (by decide +kernel)

end Sys2Proof.Machine
end

section
/-! SUPPORT. The words and roundings of the vector engine's micro-operations (R188, R278, R279): what the model computes is the
exact integer that the table names. -/

namespace Sys2Proof.Machine

/-! ### Lane words as integers -/

theorem floorShift_eq (x : Int) (k : Nat) : floorShift x k = x / 2 ^ k := by
  rw [floorShift, Int.fdiv_eq_ediv_of_nonneg _ (Int.natCast_nonneg _)]
  norm_cast

/-- SHL by the whole second operand: nothing is left from 32 on (R278). -/
theorem ofNat_shl (a b : Lane) :
    BitVec.ofNat 32 (a.toNat * 2 ^ b.toNat) = if b.toNat < 32 then a <<< b.toNat else 0 := by
  apply BitVec.eq_of_toNat_eq
  split
  · rw [BitVec.toNat_ofNat, BitVec.toNat_shiftLeft, Nat.shiftLeft_eq]
  · next h =>
    rw [BitVec.toNat_ofNat]
    exact Nat.mod_eq_zero_of_dvd ((Nat.pow_dvd_pow 2 (Nat.le_of_not_lt h)).mul_left _)

/-- SHR by the whole second operand (R278). -/
theorem ofNat_shr (a b : Lane) :
    BitVec.ofNat 32 (a.toNat / 2 ^ b.toNat) = if b.toNat < 32 then a >>> b.toNat else 0 := by
  have hlt : a.toNat / 2 ^ b.toNat < 2 ^ 32 := Nat.lt_of_le_of_lt (Nat.div_le_self _ _) a.isLt
  apply BitVec.eq_of_toNat_eq
  rw [BitVec.toNat_ofNat, Nat.mod_eq_of_lt hlt]
  split
  · rw [BitVec.toNat_ushiftRight, Nat.shiftRight_eq_div_pow]
  · next h =>
    exact Nat.div_eq_of_lt (Nat.lt_of_lt_of_le a.isLt (Nat.pow_le_pow_right (by decide) (Nat.le_of_not_lt h)))

/-- From 31 places on, an arithmetic shift of an s32 leaves its sign bits. -/
theorem ediv_pow_of_s32 {x : Int} (hlo : -2 ^ 31 ≤ x) (hhi : x < 2 ^ 31) {k : Nat} (hk : 31 ≤ k) :
    x / 2 ^ k = if x < 0 then -1 else 0 := by
  have hpow : (2 : Int) ^ 31 ≤ 2 ^ k := pow_le_pow_right₀ (by decide) hk
  split
  · exact Int.ediv_eq_iff_of_pos (by omega) |>.2 (by omega)
  · exact Int.ediv_eq_zero_of_lt (by omega) (by omega)

/-- SRA by the whole second operand: all sign bits from 32 on (R278). -/
theorem ofInt_sra (a b : Lane) : BitVec.ofInt 32 (a.toInt / 2 ^ b.toNat) =
    if b.toNat < 32 then a.sshiftRight b.toNat else a.sshiftRight 31 := by
  have hshift (k : Nat) : a.sshiftRight k = BitVec.ofInt 32 (a.toInt / 2 ^ k) := by
    rw [← BitVec.ofInt_toInt (x := a.sshiftRight k), BitVec.toInt_sshiftRight, Int.shiftRight_eq_div_pow]
    norm_cast
  have hlo : -2 ^ 31 ≤ a.toInt := BitVec.le_toInt a
  have hhi : a.toInt < 2 ^ 31 := BitVec.toInt_lt (x := a)
  split
  · exact (hshift _).symm
  · next h => rw [hshift, ediv_pow_of_s32 hlo hhi (by omega), ediv_pow_of_s32 hlo hhi (le_refl 31)]

theorem ofInt_min (a b : Lane) : BitVec.ofInt 32 (min a.toInt b.toInt) = if b.toInt < a.toInt then b else a := by
  split
  · next h => rw [min_eq_right (le_of_lt h), BitVec.ofInt_toInt]
  · next h => rw [min_eq_left (le_of_not_gt h), BitVec.ofInt_toInt]

theorem ofInt_max (a b : Lane) : BitVec.ofInt 32 (max a.toInt b.toInt) = if a.toInt < b.toInt then b else a := by
  split
  · next h => rw [max_eq_right (le_of_lt h), BitVec.ofInt_toInt]
  · next h => rw [max_eq_left (le_of_not_gt h), BitVec.ofInt_toInt]

theorem toInt_eq_least_iff (a : Lane) : a.toInt = -2147483648 ↔ a = 0x80000000#32 :=
  BitVec.toInt_inj (y := 0x80000000#32)

/-- ABS of a value above the least s32 (R278). -/
theorem ofInt_natAbs {a : Lane} (h : a.toInt ≠ -2147483648) :
    BitVec.ofInt 32 (min a.toInt.natAbs 2147483647 : Nat) = if a.toInt < 0 then -a else a := by
  have hlo : -2 ^ 31 ≤ a.toInt := BitVec.le_toInt a
  have hhi : a.toInt < 2 ^ 31 := BitVec.toInt_lt (x := a)
  rw [Nat.min_eq_left (by omega)]
  split
  · rw [show (a.toInt.natAbs : Int) = -a.toInt by omega, BitVec.ofInt_neg, BitVec.ofInt_toInt]
  · rw [show (a.toInt.natAbs : Int) = a.toInt by omega, BitVec.ofInt_toInt]

/-! ### Clamps -/

theorem clampInt_eq {lo hi : Int} (h : lo ≤ hi) (q : Int) : clampInt q lo hi = max lo (min q hi) := by
  unfold clampInt
  split_ifs <;> omega

theorem clampInt_eq_self_iff {lo hi : Int} (h : lo ≤ hi) (q : Int) : clampInt q lo hi = q ↔ lo ≤ q ∧ q ≤ hi := by
  rw [clampInt_eq h]
  omega

/-! ### Rounding to the nearest, ties to even (R188) -/

theorem roundHalfEvenDiv_roundsTo (a : Int) {b : Nat} (hb : 0 < b) : roundsTo a b (roundHalfEvenDiv a b) := by
  have hb' : (0 : Int) < b := by exact_mod_cast hb
  have hdiv : (b : Int) * Int.fdiv a b + Int.fmod a b = a := Int.mul_fdiv_add_fmod a b
  have hmod0 : 0 ≤ Int.fmod a b := Int.fmod_nonneg_of_pos a hb'
  have hmodlt : Int.fmod a b < b := Int.fmod_lt_of_pos a hb'
  unfold roundHalfEvenDiv roundsTo
  dsimp only
  generalize Int.fdiv a b = d at *
  generalize Int.fmod a b = r at *
  have hnext : (d + 1) * (b : Int) = b * d + b := by ring
  have hsame : d * (b : Int) = b * d := by ring
  split_ifs <;> simp only [hnext, hsame] <;> generalize (b : Int) * d = m at * <;> omega

theorem roundsTo_unique {num : Int} {den : Nat} {p q : Int} (hden : 0 < den) (hp : roundsTo num den p) (hq : roundsTo num den q) :
    p = q := by
  have hden' : (0 : Int) < den := by exact_mod_cast hden
  obtain ⟨hp1, hp2, hp3⟩ := hp
  obtain ⟨hq1, hq2, hq3⟩ := hq
  have hnear : -1 ≤ p - q ∧ p - q ≤ 1 := by constructor <;> nlinarith
  obtain h | h | h : p = q ∨ p = q + 1 ∨ q = p + 1 := by omega
  · exact h
  all_goals
    subst h
    rw [Int.add_mul, Int.one_mul] at *
    omega

/-- The scaling of REQ (R279). -/
theorem roundScale_roundsTo (x d : Int) : roundsTo (x * 2 ^ d.toNat) (2 ^ (-d).toNat) (roundScale x d) := by
  unfold roundScale
  split
  · next h =>
    rw [show (-d).toNat = 0 by omega]
    unfold roundsTo
    push_cast
    omega
  · next h =>
    rw [show d.toNat = 0 by omega, Int.pow_zero, Int.mul_one]
    exact roundHalfEvenDiv_roundsTo x (by positivity)

/-- The quotient of RCP (R278). -/
theorem rcpRound_roundsTo {x : Int} (hx : x ≠ 0) (k : Nat) : roundsTo (2 ^ k * x.sign) x.natAbs (rcpRound k x) := by
  have hpos : 0 < x.natAbs := Int.natAbs_pos.2 hx
  unfold rcpRound
  split
  · next h =>
    rw [Int.sign_eq_neg_one_of_neg h, show (2 : Int) ^ k * -1 = -((2 ^ k : Nat) : Int) by push_cast; ring]
    exact roundHalfEvenDiv_roundsTo _ hpos
  · next h =>
    rw [Int.sign_eq_one_of_pos (by omega), Int.mul_one, show (2 : Int) ^ k = ((2 ^ k : Nat) : Int) by push_cast; rfl]
    exact roundHalfEvenDiv_roundsTo _ hpos

/-- EXP2 never gives a negative number. -/
theorem exp2Round_nonneg (n : Int) (f : Nat) : 0 ≤ exp2Round n f := by
  unfold exp2Round
  dsimp only
  split_ifs <;> omega

end Sys2Proof.Machine
end

section
/-! SUPPORT. A micro-operation on the engine of a working cell (R273 to R275, R284): the lanes of the registers, the engine that
the cell holds afterwards, and the sticky flags of its region. -/

namespace Sys2Proof.Machine

variable {q : List Instr} {s : State} {cell : CellId} {u : MuFields} {e : VecEngine} {f : Nat → LaneOut}

/-! ### Lanes -/

/-- The model's second operand is the statement's. -/
theorem VecEngine.opB_eq (e : VecEngine) (u : MuFields) (i : Nat) : e.opB u i = secondOperand u e i := rfl

theorem VecEngine.active_iff {i : Nat} : e.active u i = true ↔ laneActive u e i := by
  simp [VecEngine.active, laneActive]

/-- What stands at a place of a list of lanes: VL of them, and the default beyond (R273). -/
theorem getD_map_range {α : Type} (n i : Nat) (g : Nat → α) (d : α) :
    ((List.range n).map g).getD i d = if i < n then g i else d := by
  by_cases h : i < n <;> simp [List.getD_eq_getElem?_getD, h]

section Lane
variable {dst i : Nat}

/-- An active lane in range takes its result (R275, R282). -/
theorem laneAfter_active (ha : laneActive u e i) (hr : (f i).outOfRange = false) : laneAfter e u dst i f = (f i).elem :=
  if_pos (by rw [VecEngine.active_iff.2 ha, hr]; rfl)

/-- Every other lane is left to MU_KEEP (R275, R282). -/
theorem laneAfter_idle (h : ¬laneActive u e i ∨ (f i).outOfRange = true) :
    laneAfter e u dst i f = if u.keep then e.lane dst i else ⟨0, false⟩ := by
  refine if_neg ?_
  rw [← VecEngine.active_iff] at h
  rcases h with h | h <;> simp [h]

end Lane

/-- The active lanes below VL raise the flags, each its own (R284). -/
theorem laneFlags_testBit (k : Nat) : (laneFlags e u f).testBit k = true ↔
    ∃ i, i < e.vl ∧ laneActive u e i ∧ (f i).flags.testBit k = true := by
  unfold laneFlags
  generalize e.vl = n
  induction n with
  | zero => simp
  | succ n ih =>
    rw [List.range_succ, List.foldl_append, List.foldl_cons, List.foldl_nil]
    simp only [Nat.lt_succ_iff_lt_or_eq, or_and_right, exists_or, exists_eq_left]
    by_cases ha : e.active u n = true
    · rw [if_pos ha, Nat.testBit_or, Bool.or_eq_true, ih]
      simp [VecEngine.active_iff.1 ha]
    · rw [if_neg ha, ih]
      simp [mt VecEngine.active_iff.2 ha]

/-! ### One register written -/

theorem vecWrite_lane_of_ne {r : Nat} (hr : r ≠ u.dst) (i : Nat) : (vecWrite e u f).1.lane r i = e.lane r i := by
  simp [vecWrite, VecEngine.lane, List.getD_eq_getElem?_getD, List.getElem?_set_ne hr.symm]

theorem vecWrite_lane_dst (hdst : u.dst < e.v.length) (i : Nat) :
    (vecWrite e u f).1.lane u.dst i = if i < e.vl then laneAfter e u u.dst i f else ⟨0, false⟩ := by
  have hreg : (vecWrite e u f).1.v.getD u.dst [] = (List.range e.vl).map fun i => laneAfter e u u.dst i f := by
    simp [vecWrite, hdst]
  rw [VecEngine.lane, hreg, getD_map_range]
  rfl

/-! ### Flags of a region -/

/-- Bit `k` of RGN_VEC_FLAGS. -/
def vecFlag (k : Nat) : Field := ⟨.rgnVecFlags, k, k⟩

/-- Set bit `k` of RGN_VEC_FLAGS where `b` says so. -/
def State.stickBit (s : State) (b : Bool) (k p : Nat) : State := if b then s.setF (vecFlag k) p 1 else s

theorem State.raiseFlags_zero (s : State) (p slot plate : Nat) : s.raiseFlags p 0 slot plate = s := if_pos rfl

theorem State.raiseFlags_eq {fl : Nat} (h : fl ≠ 0) (s : State) (p slot plate : Nat) : s.raiseFlags p fl slot plate =
    ((((s.stickBit (bitOf fl 0) 0 p).stickBit (bitOf fl 1) 1 p).stickBit (bitOf fl 2) 2 p).stickBit (bitOf fl 3) 3 p).setFs p
      [(Fld.rgnVecLastSlot, slot), (Fld.rgnVecLastPlate, plate)] := if_neg h

section Flags
variable {p k : Nat} (h : s.Sound q) (hp : p < 20)
include h

theorem State.stickBit_sound (b : Bool) : (s.stickBit b k p).Sound q := by
  unfold State.stickBit
  split
  · exact State.setF_sound h
  · exact h

include hp

theorem State.flag_stickBit {j : Nat} (hj : j < 64) (hk : k < 64) (b : Bool) :
    (s.stickBit b j p).flag (vecFlag k) p = (s.flag (vecFlag k) p || (b && j == k)) := by
  cases b with
  | false => simp [State.stickBit]
  | true =>
    rw [State.stickBit, if_pos rfl, State.flag, State.flag]
    by_cases hjk : j = k
    · subst hjk
      rw [State.getF_setF h ⟨Nat.le_succ j, hj, hp⟩]
      simp [vecFlag]
    · rw [State.getF_setF_apart h ⟨Nat.le_succ j, hj⟩ hp (.inr (.inr (by simp only [vecFlag]; omega)))]
      simp [hjk]

/-- The flags of a region stick: each stands where it stood or is raised (R284). -/
theorem State.flag_raiseFlags (hk : k < 4) (fl slot plate : Nat) :
    (s.raiseFlags p fl slot plate).flag (vecFlag k) p = (s.flag (vecFlag k) p || fl.testBit k) := by
  by_cases hfl : fl = 0
  · subst hfl
    rw [State.raiseFlags_zero, Nat.zero_testBit, Bool.or_false]
  · have h0 := State.stickBit_sound (k := 0) (p := p) h (bitOf fl 0)
    have h1 := State.stickBit_sound (k := 1) (p := p) h0 (bitOf fl 1)
    have h2 := State.stickBit_sound (k := 2) (p := p) h1 (bitOf fl 2)
    have h3 := State.stickBit_sound (k := 3) (p := p) h2 (bitOf fl 3)
    have hclear : clearOf (vecFlag k) [(Fld.rgnVecLastSlot, slot), (Fld.rgnVecLastPlate, plate)] = true := by
      interval_cases k <;> rfl
    rw [State.raiseFlags_eq hfl, State.flag, State.getF_setFs_of_clear h3 hp hclear, ← State.flag,
      State.flag_stickBit h2 hp (by decide) (by omega), State.flag_stickBit h1 hp (by decide) (by omega),
      State.flag_stickBit h0 hp (by decide) (by omega), State.flag_stickBit h hp (by decide) (by omega)]
    simp only [bitOf_eq_testBit]
    interval_cases k <;> simp

end Flags

/-! ### The cell's engine and its region's flags after a micro-operation -/

theorem State.raiseFlags_engines (s : State) (p fl slot plate : Nat) : (s.raiseFlags p fl slot plate).engines = s.engines := by
  by_cases hfl : fl = 0
  · rw [hfl, State.raiseFlags_zero]
  · rw [State.raiseFlags_eq hfl]
    simp [State.stickBit, apply_ite State.engines]

/-- The cell holds the engine that the micro-operation gives. -/
theorem State.engine_micro (s : State) (cell : CellId) (r : VecEngine × Nat) : (s.micro cell r).engine cell = r.1 := by
  rw [State.engine, State.micro, State.raiseFlags_engines, kvGet_kvPut, if_pos rfl]
  rfl

theorem State.flag_micro (h : s.Sound q) (hp : s.physOf cell.region < 20) {k : Nat} (hk : k < 4) (r : VecEngine × Nat) :
    (s.micro cell r).flag (vecFlag k) (s.physOf cell.region) = (s.flag (vecFlag k) (s.physOf cell.region) || r.2.testBit k) := by
  have hset : ({ s with engines := kvPut s.engines (cellKey cell) r.1 } : State).Sound q := State.Sound.rest h rfl
  exact State.flag_raiseFlags hset hp hk _ _ _

/-- A micro-operation without flags changes the engines alone. -/
theorem State.micro_sameBut (s : State) (cell : CellId) (e : VecEngine) : State.SameBut [] [.engines] s (s.micro cell (e, 0)) := by
  rw [State.micro, State.raiseFlags_zero]
  refine ⟨rfl, fun _ _ _ _ => rfl, fun p hp => ?_⟩
  cases p with
  | engines => simp at hp
  | _ => rfl

/-- `c` is the micro-operation `g` of the cell. -/
def RunsMicro (cell : CellId) (c : Instr) (g : VecEngine → VecEngine × Nat) : Prop := ∀ s, exec c s = .next (s.microOp cell g)

theorem RunsMicro.works {c : Instr} {g : VecEngine → VecEngine × Nat} (hc : RunsMicro cell c g) (hw : s.cellWorks cell = true) :
    exec c s = .next (s.micro cell (g (s.engine cell))) :=
  (hc s).trans (congrArg Host.Outcome.next (State.ifB_true hw _))

theorem RunsMicro.idle {c : Instr} {g : VecEngine → VecEngine × Nat} (hc : RunsMicro cell c g) (hw : s.cellWorks cell = false) :
    exec c s = .next s :=
  (hc s).trans (congrArg Host.Outcome.next (State.ifB_false hw _))

end Sys2Proof.Machine
end

section
/-! PROOF. The micro-operations that write one vector register, and NOP: the model's lane function of each is what R278 says
(R273 to R276, R278, R279, R282 to R284). -/

namespace Sys2Proof.Machine

variable {cell : CellId} {u : MuFields} {e : VecEngine} {c : Instr}

/-! ### Lane outputs that are what R278 says -/

/-- A lane output is the element `x` (none: out of range) with the flags `fl`; where `whole` fails, its bits alone are compared. -/
structure LaneOut.Gives (o : LaneOut) (whole : Prop) (x : Option VElem) (fl : Nat) : Prop where
  flags : o.flags = fl
  range : o.outOfRange = x.isNone
  bits : ∀ y, x = some y → o.elem.bits = y.bits
  elem : whole → ∀ y, x = some y → o.elem = y

theorem LaneOut.gives_some {o : LaneOut} {whole : Prop} {y : VElem} {fl : Nat} (h : o = ⟨y, fl, false⟩) :
    o.Gives whole (some y) fl := by
  subst h
  refine ⟨rfl, rfl, fun z hz => ?_, fun _ z hz => ?_⟩ <;> cases hz <;> rfl

theorem LaneOut.gives_none {whole : Prop} {z : VElem} {fl : Nat} : (⟨z, fl, true⟩ : LaneOut).Gives whole none fl :=
  ⟨rfl, rfl, nofun, nofun⟩

/-- `c` is a micro-operation of the cell that writes one register, with lanes that are what R278 says. -/
def WritesLanes (cell : CellId) (u : MuFields) (e : VecEngine) (c : Instr) : Prop :=
  ∃ g f, RunsMicro cell c g ∧ g e = vecWrite e u f ∧ ∀ i x fl,
    LaneSays cell u e i (e.lane u.src1 i) (secondOperand u e i) c x fl → (f i).Gives (c ≠ .sel cell u) x fl

/-! ### Two operands: ADD to MAX -/

/-- A micro-operation on two words, whose poison is the OR of the operands' (R276). -/
theorem writesLanes_of_bin {op : Lane → Lane → Lane} {ovf : Lane → Lane → Bool} (hc : RunsMicro cell c fun e => vecBin e u op ovf)
    (hsays : ∀ i a b x fl, LaneSays cell u e i a b c x fl →
      x = some ⟨op a.bits b.bits, a.poison || b.poison⟩ ∧ fl = if ovf a.bits b.bits then 2 else 0) : WritesLanes cell u e c := by
  refine ⟨_, _, hc, rfl, fun i x fl h => ?_⟩
  obtain ⟨rfl, rfl⟩ := hsays i _ _ x fl h
  exact LaneOut.gives_some rfl

theorem writesLanes_add : WritesLanes cell u e (.add cell u) :=
  writesLanes_of_bin (fun _ => rfl) fun i a b x fl h => by
    cases h
    exact ⟨by rw [BitVec.ofInt_add, BitVec.ofInt_toInt, BitVec.ofInt_toInt], rfl⟩

theorem writesLanes_sub : WritesLanes cell u e (.sub cell u) :=
  writesLanes_of_bin (fun _ => rfl) fun i a b x fl h => by
    cases h
    exact ⟨by rw [Int.sub_eq_add_neg, BitVec.ofInt_add, BitVec.ofInt_neg, BitVec.ofInt_toInt, BitVec.ofInt_toInt, BitVec.sub_eq_add_neg], rfl⟩

theorem writesLanes_mul : WritesLanes cell u e (.mul cell u) :=
  writesLanes_of_bin (fun _ => rfl) fun i a b x fl h => by
    cases h
    exact ⟨by rw [BitVec.ofInt_mul, BitVec.ofInt_toInt, BitVec.ofInt_toInt], rfl⟩

theorem writesLanes_mulh : WritesLanes cell u e (.mulh cell u) :=
  writesLanes_of_bin (fun _ => rfl) fun i a b x fl h => by
    cases h
    exact ⟨by rw [floorShift_eq], rfl⟩

theorem writesLanes_mulhu : WritesLanes cell u e (.mulhu cell u) :=
  writesLanes_of_bin (fun _ => rfl) fun i a b x fl h => by
    cases h
    exact ⟨by rw [Nat.shiftRight_eq_div_pow], rfl⟩

theorem writesLanes_shl : WritesLanes cell u e (.shl cell u) :=
  writesLanes_of_bin (fun _ => rfl) fun i a b x fl h => by
    cases h
    exact ⟨by rw [ofNat_shl], rfl⟩

theorem writesLanes_shr : WritesLanes cell u e (.shr cell u) :=
  writesLanes_of_bin (fun _ => rfl) fun i a b x fl h => by
    cases h
    exact ⟨by rw [ofNat_shr], rfl⟩

theorem writesLanes_sra : WritesLanes cell u e (.sra cell u) :=
  writesLanes_of_bin (fun _ => rfl) fun i a b x fl h => by
    cases h
    exact ⟨by rw [ofInt_sra], rfl⟩

theorem writesLanes_min : WritesLanes cell u e (.min cell u) :=
  writesLanes_of_bin (fun _ => rfl) fun i a b x fl h => by
    cases h
    exact ⟨by rw [ofInt_min], rfl⟩

theorem writesLanes_max : WritesLanes cell u e (.max cell u) :=
  writesLanes_of_bin (fun _ => rfl) fun i a b x fl h => by
    cases h
    exact ⟨by rw [ofInt_max], rfl⟩

/-! ### The operations with lanes of their own -/

theorem writesLanes_abs : WritesLanes cell u e (.abs cell u) := by
  refine ⟨muAbs u, _, fun _ => rfl, rfl, fun i x fl h => ?_⟩
  cases h
  refine LaneOut.gives_some ?_
  simp only [toInt_eq_least_iff]
  split
  · next h => simp only [h]; rfl
  · next h => rw [ofInt_natAbs (mt (toInt_eq_least_iff _).1 h)]

/-- SEL gives the bits of the selected source. -/
theorem writesLanes_sel : WritesLanes cell u e (.sel cell u) := by
  refine ⟨muSel u, _, fun _ => rfl, rfl, fun i x fl h => ?_⟩
  cases h
  refine ⟨rfl, rfl, fun y hy => ?_, fun h => absurd rfl h⟩
  cases hy
  exact apply_ite VElem.bits _ _ _

theorem writesLanes_clamp : WritesLanes cell u e (.clamp cell u) := by
  refine ⟨muClamp u, _, fun _ => rfl, rfl, fun i x fl h => ?_⟩
  cases h with
  | clamp h => exact LaneOut.gives_some (by simp [h, secondOperand])
  | clampImm h => exact LaneOut.gives_some (by simp [h, Nat.shiftRight_eq_div_pow])

/-- The output of an operation that clamps `q` and says so in SAT (R278). -/
def clampedOut (q lo hi : Int) (poison : Bool) : LaneOut :=
  ⟨⟨BitVec.ofInt 32 (clampInt q lo hi), poison⟩, if clampInt q lo hi = q then 0 else flagSat, false⟩

theorem clampedOut_eq {lo hi : Int} (h : lo ≤ hi) (q : Int) (poison : Bool) : clampedOut q lo hi poison =
    ⟨⟨BitVec.ofInt 32 (max lo (min q hi)), poison⟩, if lo ≤ q ∧ q ≤ hi then 0 else 4, false⟩ := by
  rw [← clampInt_eq h]
  simp only [clampedOut, clampInt_eq_self_iff h, flagSat]

/-- The ranges of the six target formats (R279). -/
theorem reqRange {fmt : Nat} {lo hi : Int} (h : (fmt, lo, hi) ∈ [(0, -2147483648, 2147483647), (1, -32768, 32767), (2, -128, 127),
    (3, -8, 7), (4, 0, 255), (5, 0, 15)]) : reqMin fmt = lo ∧ reqMax fmt = hi ∧ lo ≤ hi := by
  simp only [List.mem_cons, Prod.mk.injEq, List.not_mem_nil, or_false] at h
  obtain ⟨rfl, rfl, rfl⟩ | ⟨rfl, rfl, rfl⟩ | ⟨rfl, rfl, rfl⟩ | ⟨rfl, rfl, rfl⟩ | ⟨rfl, rfl, rfl⟩ | ⟨rfl, rfl, rfl⟩ := h <;> decide

/-- REQ takes its exponent from the low byte of the second operand, and its poison (R279). -/
theorem reqOperand (u : MuFields) (e : VecEngine) (i : Nat) :
    (if u.imm then sextNat 8 u.immv.toNat else sextNat 8 (e.lane u.src2 i).bits.toNat) = sextNat 8 (secondOperand u e i).bits.toNat ∧
      (!u.imm && (e.lane u.src2 i).poison) = (secondOperand u e i).poison := by
  unfold secondOperand
  cases u.imm <;> exact ⟨rfl, rfl⟩

theorem writesLanes_req : WritesLanes cell u e (.req cell u) := by
  refine ⟨muReq u, _, fun _ => rfl, rfl, fun i x fl h => ?_⟩
  cases h with
  | req q d lo hi hd hq hf =>
    obtain ⟨hexp, hpoison⟩ := reqOperand u e i
    obtain ⟨hmin, hmax, hle⟩ := reqRange hf
    have hround : roundScale (e.lane u.src1 i).bits.toInt d = q :=
      roundsTo_unique (by positivity) (roundScale_roundsTo _ _) hq
    refine LaneOut.gives_some (Eq.trans ?_ (clampedOut_eq hle q _))
    rw [← hround, ← hmin, ← hmax, ← hpoison, hd, ← hexp, ← Nat.shiftRight_eq_div_pow, ← Nat.shiftRight_eq_div_pow]
    rfl

theorem writesLanes_lut : WritesLanes cell u e (.lut cell u) := by
  refine ⟨muLut u, _, fun _ => rfl, rfl, fun i x fl h => ?_⟩
  cases h
  exact LaneOut.gives_some (by simp only [clampInt_eq (show (0 : Int) ≤ 255 by decide)])

theorem writesLanes_rcp : WritesLanes cell u e (.rcp cell u) := by
  refine ⟨muRcp u, _, fun _ => rfl, rfl, fun i x fl h => ?_⟩
  cases h with
  | rcpZero h => exact LaneOut.gives_some (if_pos h)
  | rcp q h hq =>
    have hx : (e.lane u.src1 i).bits.toInt ≠ 0 := fun h0 => h (BitVec.toInt_inj.1 h0)
    have hround : rcpRound (u.immv.toNat % 64) (e.lane u.src1 i).bits.toInt = q :=
      roundsTo_unique (Int.natAbs_pos.2 hx) (rcpRound_roundsTo hx _) hq
    refine LaneOut.gives_some ((if_neg h).trans (Eq.trans ?_ (clampedOut_eq (by decide) q _)))
    rw [← hround]
    rfl

theorem writesLanes_exp2 : WritesLanes cell u e (.exp2 cell u) := by
  refine ⟨muExp2 u, _, fun _ => rfl, rfl, fun i x fl h => ?_⟩
  cases h with
  | exp2 q hq =>
    have hq0 : 0 ≤ q := hq ▸ exp2Round_nonneg _ _
    have hclamped := clampedOut_eq (lo := -2147483648) (hi := 2147483647) (by decide) q (e.lane u.src1 i).poison
    rw [max_eq_right (by omega), if_congr (and_iff_right (by omega)) rfl rfl] at hclamped
    refine LaneOut.gives_some (Eq.trans ?_ hclamped)
    rw [hq, ← Nat.shiftRight_eq_div_pow]
    rfl

theorem writesLanes_perm : WritesLanes cell u e (.perm cell u) := by
  refine ⟨muPerm u, _, fun _ => rfl, rfl, fun i x fl h => ?_⟩
  have hindex : (if u.imm then i ^^^ (u.immv.toNat % 256) else (secondOperand u e i).bits.toNat) =
      if u.imm then i ^^^ (u.immv.toNat % 256) else (e.lane u.src2 i).bits.toNat := by
    unfold secondOperand
    cases u.imm <;> rfl
  cases h with
  | perm x hx h =>
    rw [hindex] at hx
    subst hx
    exact LaneOut.gives_some (if_pos h)
  | permOut x hx h =>
    rw [hindex] at hx
    subst hx
    simp only [if_neg (Nat.not_lt.2 h)]
    exact LaneOut.gives_none

theorem writesLanes_movi : WritesLanes cell u e (.movi cell u) := by
  refine ⟨muMovi u, _, fun _ => rfl, rfl, fun i x fl h => ?_⟩
  cases h
  exact LaneOut.gives_some rfl

/-- Every operation of the table that says what a lane gives writes such lanes. -/
theorem LaneSays.writesLanes {i fl : Nat} {a b : VElem} {x : Option VElem} (h : LaneSays cell u e i a b c x fl) :
    WritesLanes cell u e c := by
  cases h with
  | add => exact writesLanes_add
  | sub => exact writesLanes_sub
  | mul => exact writesLanes_mul
  | mulh => exact writesLanes_mulh
  | mulhu => exact writesLanes_mulhu
  | shl => exact writesLanes_shl
  | shr => exact writesLanes_shr
  | sra => exact writesLanes_sra
  | min => exact writesLanes_min
  | max => exact writesLanes_max
  | abs => exact writesLanes_abs
  | sel => exact writesLanes_sel
  | clamp | clampImm => exact writesLanes_clamp
  | req => exact writesLanes_req
  | lut => exact writesLanes_lut
  | rcpZero | rcp => exact writesLanes_rcp
  | exp2 => exact writesLanes_exp2
  | perm | permOut => exact writesLanes_perm
  | movi => exact writesLanes_movi

/-! ### NOP -/

theorem runsMicro_tintNop : RunsMicro cell (.tintNop cell u) (muNop u) := fun _ => rfl

/-! ### The engine and the flags afterwards -/

/-- The four flags are the low bits of RGN_VEC_FLAGS (R284). -/
theorem vecFlag_of_mem {k : Nat} {f : Field} (h : (k, f) ∈ [(0, Fld.rgnVecPermRange), (1, Fld.rgnVecOvf), (2, Fld.rgnVecSat),
    (3, Fld.rgnVecDiv0)]) : k < 4 ∧ f = vecFlag k := by
  simp only [List.mem_cons, Prod.mk.injEq, List.not_mem_nil, or_false] at h
  obtain ⟨rfl, rfl⟩ | ⟨rfl, rfl⟩ | ⟨rfl, rfl⟩ | ⟨rfl, rfl⟩ := h <;> exact ⟨by decide, rfl⟩

/-- Settles O46: each operation's lane function gives what R278 says of a lane; a lane that is not active or out of range is left
to MU_KEEP, and the flags of the active lanes stick. -/
theorem microOpsWriteActiveLanes : Obligations.MicroOpsWriteActiveLanes := by
  unfold Obligations.MicroOpsWriteActiveLanes
  refine ⟨fun cell u e c s hs hw he hdst hp hsays hvl => ?_,
    fun cell u s _ hw => ⟨_, runsMicro_tintNop.works hw, State.engine_micro .., State.micro_sameBut ..⟩,
    fun cell u e i fl a b x c s hc hw => ?_⟩
  · obtain ⟨x0, fl0, h0⟩ := hsays 0 hvl
    obtain ⟨g, f, hrun, hwrite, hgives⟩ := h0.writesLanes
    have hexec := hrun.works hw
    rw [he, hwrite] at hexec
    refine ⟨_, _, hexec, State.engine_micro .., rfl, rfl, rfl, fun r i hr => vecWrite_lane_of_ne hr i, fun i hi => ?_,
      fun i x fl hi ha hx => ?_, fun i fl hi hidle => ?_, fun k fld hk => ?_⟩
    · rw [vecWrite_lane_dst hdst, if_neg (Nat.not_lt.2 hi)]
    · have hg := hgives i _ _ hx
      rw [vecWrite_lane_dst hdst, if_pos hi, laneAfter_active ha hg.range]
      exact ⟨hg.bits x rfl, fun hne => hg.elem hne x rfl⟩
    · rw [vecWrite_lane_dst hdst, if_pos hi, laneAfter_idle (hidle.imp_right fun hx => (hgives i _ _ hx).range)]
    · obtain ⟨hk4, rfl⟩ := vecFlag_of_mem hk
      rw [State.flag_micro (State.sound_of_canonical hs) hp hk4, Bool.or_eq_true]
      refine or_congr_right ((laneFlags_testBit k).trans ⟨fun ⟨i, hi, ha, hbit⟩ => ?_, fun ⟨i, x, fl, hi, ha, hx, hbit⟩ => ?_⟩)
      · obtain ⟨x, fl, hx⟩ := hsays i hi
        exact ⟨i, x, fl, hi, ha, hx, (hgives i _ _ hx).flags ▸ hbit⟩
      · exact ⟨i, hi, ha, (hgives i _ _ hx).flags.symm ▸ hbit⟩
  · rcases hc with hc | rfl
    · obtain ⟨g, f, hrun, -, -⟩ := hc.writesLanes
      exact hrun.idle hw
    · exact runsMicro_tintNop.idle hw

end Sys2Proof.Machine
end

section
/-! PROOF. The compares and ADD192: bits of a mask register, and sums of sextets word by word (R274 to R276, R278, R284). -/

namespace Sys2Proof.Machine

variable {cell : CellId} {u : MuFields} {e : VecEngine} {c : Instr}

/-! ### Compares -/

/-- A compare of the table tests its relation in each lane. -/
theorem CompareSays.runsMicro {p : Lane → Lane → Prop} (h : CompareSays cell u c p) :
    ∃ r : Lane → Lane → Bool, (∀ a b, r a b = true ↔ p a b) ∧ RunsMicro cell c fun e => vecCmp e u r := by
  cases h with
  | cmpeq => exact ⟨_, fun _ _ => beq_iff_eq, fun _ => rfl⟩
  | cmplt => exact ⟨_, fun _ _ => decide_eq_true_iff, fun _ => rfl⟩
  | cmpltu => exact ⟨_, fun _ _ => decide_eq_true_iff, fun _ => rfl⟩
  | cmple => exact ⟨_, fun _ _ => decide_eq_true_iff, fun _ => rfl⟩

section Mask
variable {r : Lane → Lane → Bool} (hdst : u.dst < 8)
include hdst

theorem vecCmp_mask_of_ne {m : Nat} (hm : m ≠ u.dst) (i : Nat) : (vecCmp e u r).1.mask m i = e.mask m i := by
  simp [vecCmp, vecCompare, VecEngine.mask, List.getD_eq_getElem?_getD, Nat.mod_eq_of_lt hdst, List.getElem?_set_ne hm.symm]

/-- A lane below VL of the destination mask: the relation where it is active, else its old bit or none (R275). -/
theorem vecCmp_mask_dst (hlen : e.m.length = 8) {i : Nat} (hi : i < e.vl) : (vecCmp e u r).1.mask u.dst i =
    if e.active u i then r (e.lane u.src1 i).bits (secondOperand u e i).bits else u.keep && e.mask u.dst i := by
  have hreg : (vecCmp e u r).1.m.getD u.dst [] = (List.range e.vl).map fun i =>
      if e.active u i then r (e.lane u.src1 i).bits (secondOperand u e i).bits else u.keep && e.mask u.dst i := by
    simp [vecCmp, vecCompare, VecEngine.opB_eq, Nat.mod_eq_of_lt hdst, hlen, hdst]
  rw [VecEngine.mask, hreg, getD_map_range, if_pos hi]

end Mask

/-! ### Sextets as numbers -/

theorem VecEngine.sextet_eq (e : VecEngine) (r i : Nat) : e.sextet r i = sextNat 192 (sextetNat e r i) := by
  rw [VecEngine.sextet, sextetNat, List.sum_eq_foldl, List.foldl_map]

theorem VecEngine.sextetPoison_iff {r i : Nat} : e.sextetPoison r i = true ↔ ∃ j, j < 6 ∧ (e.lane (r + j) i).poison = true := by
  simp [VecEngine.sextetPoison]

/-- The 192-bit pattern of a sum of signed values is the sum of the patterns. -/
theorem patOf_sextNat_add (w a b : Nat) : patOf w (sextNat w a + sextNat w b) = (a + b) % 2 ^ w := by
  have hcong (n : Nat) : sextNat w n ≡ n [ZMOD ((2 ^ w : Nat) : Int)] := by
    have hmod : ((n % 2 ^ w : Nat) : Int) ≡ n [ZMOD ((2 ^ w : Nat) : Int)] := by
      rw [Int.natCast_mod]
      exact Int.mod_modEq _ _
    unfold sextNat
    dsimp only
    split
    · exact hmod
    · exact (Int.sub_modulus_modEq_iff).2 hmod
  have hsum : (sextNat w a + sextNat w b) % ((2 ^ w : Nat) : Int) = (((a + b) % 2 ^ w : Nat) : Int) := by
    rw [Int.natCast_mod, Nat.cast_add]
    exact (hcong a).add (hcong b)
  rw [patOf, hsum, Int.toNat_natCast]

/-- A number is the sum of its 32-bit words at their places. -/
theorem sum_words (p n : Nat) : ((List.range n).map fun k => p / 2 ^ (32 * k) % 2 ^ 32 * 2 ^ (32 * k)).sum = p % 2 ^ (32 * n) := by
  induction n with
  | zero => simp [Nat.mod_one]
  | succ n ih =>
    rw [List.range_succ, List.map_append, List.sum_append, ih, List.map_singleton, List.sum_singleton, Nat.mul_succ, Nat.pow_add,
      Nat.mod_mul, Nat.mul_comm (p / _ % _)]

theorem outS192_iff (x : Int) : outS192 x = true ↔ x < -2 ^ 191 ∨ 2 ^ 191 ≤ x := by
  simp [outS192]

/-! ### The sextet that ADD192 writes -/

/-- Registers `d` to `d + n - 1` set, each to a value of its own. -/
theorem getD_set_range (v : List (List VElem)) (d n : Nat) (g : Nat → List VElem) (r : Nat) (hlen : d + n ≤ v.length) :
    ((List.range n).foldl (fun v k => v.set (d + k) (g k)) v).getD r [] =
      if d ≤ r ∧ r < d + n then g (r - d) else v.getD r [] := by
  have hlength (m : Nat) : ((List.range m).foldl (fun v k => v.set (d + k) (g k)) v).length = v.length := by
    induction m with
    | zero => rfl
    | succ m ih => rw [List.range_succ, List.foldl_append, List.foldl_cons, List.foldl_nil, List.length_set, ih]
  induction n with
  | zero => rw [if_neg (by omega)]; rfl
  | succ n ih =>
    rw [List.range_succ, List.foldl_append, List.foldl_cons, List.foldl_nil, List.getD_eq_getElem?_getD]
    by_cases hr : r = d + n
    · subst hr
      rw [List.getElem?_set_self (by rw [hlength]; omega), if_pos (by omega), Nat.add_sub_cancel_left]
      rfl
    · rw [List.getElem?_set_ne (Ne.symm hr), ← List.getD_eq_getElem?_getD, ih (by omega)]
      exact if_congr (by omega) rfl rfl

section Sextet
variable (hdst : u.dst + 6 ≤ e.v.length)
include hdst

/-- The registers after ADD192: six of them are set. -/
theorem muAdd192_reg (r : Nat) : (muAdd192 u e).1.v.getD r [] = if u.dst ≤ r ∧ r < u.dst + 6
    then (List.range e.vl).map fun i => laneAfter e u (u.dst + (r - u.dst)) i (addSextet e u (r - u.dst)) else e.v.getD r [] :=
  getD_set_range e.v u.dst 6 (fun k => (List.range e.vl).map fun i => laneAfter e u (u.dst + k) i (addSextet e u k)) r hdst

theorem muAdd192_lane_of_outside {r : Nat} (hr : r < u.dst ∨ u.dst + 6 ≤ r) (i : Nat) :
    (muAdd192 u e).1.lane r i = e.lane r i := by
  rw [VecEngine.lane, muAdd192_reg hdst, if_neg (by omega), ← VecEngine.lane]

theorem muAdd192_lane {k i : Nat} (hk : k < 6) (hi : i < e.vl) :
    (muAdd192 u e).1.lane (u.dst + k) i = laneAfter e u (u.dst + k) i (addSextet e u k) := by
  rw [VecEngine.lane, muAdd192_reg hdst, if_pos (by omega), Nat.add_sub_cancel_left, getD_map_range, if_pos hi]

section Active
variable {i : Nat} (hi : i < e.vl) (ha : laneActive u e i)
include hi ha

/-- An active lane takes each word of the sum modulo 2^192 (R278). -/
theorem muAdd192_word {k : Nat} (hk : k < 6) : ((muAdd192 u e).1.lane (u.dst + k) i).bits.toNat =
    (sextetNat e u.src1 i + sextetNat e u.src2 i) % 2 ^ 192 / 2 ^ (32 * k) % 2 ^ 32 := by
  rw [muAdd192_lane hdst hk hi, laneAfter_active ha rfl]
  simp only [addSextet, VecEngine.sextet_eq, patOf_sextNat_add, Nat.shiftRight_eq_div_pow, BitVec.toNat_ofNat]

theorem muAdd192_sextet :
    sextetNat (muAdd192 u e).1 u.dst i = (sextetNat e u.src1 i + sextetNat e u.src2 i) % 2 ^ 192 := by
  have hwords : ((List.range 6).map fun k => ((muAdd192 u e).1.lane (u.dst + k) i).bits.toNat * 2 ^ (32 * k)) =
      (List.range 6).map fun k =>
        (sextetNat e u.src1 i + sextetNat e u.src2 i) % 2 ^ 192 / 2 ^ (32 * k) % 2 ^ 32 * 2 ^ (32 * k) :=
    List.map_congr_left fun k hk => by rw [muAdd192_word hdst hi ha (List.mem_range.1 hk)]
  rw [sextetNat, hwords, sum_words, Nat.mod_mod]

/-- Each word takes the poison of both sources (R276). -/
theorem muAdd192_poison {k : Nat} (hk : k < 6) : ((muAdd192 u e).1.lane (u.dst + k) i).poison = true ↔
    ∃ j, j < 6 ∧ ((e.lane (u.src1 + j) i).poison = true ∨ (e.lane (u.src2 + j) i).poison = true) := by
  rw [muAdd192_lane hdst hk hi, laneAfter_active ha rfl, addSextet, Bool.or_eq_true, VecEngine.sextetPoison_iff,
    VecEngine.sextetPoison_iff]
  simp only [and_or_left, exists_or]

end Active
end Sextet

/-- ADD192 raises OVF where the exact sum of an active lane leaves s192 (R278). -/
theorem muAdd192_ovf : (muAdd192 u e).2.testBit 1 = true ↔ ∃ i, i < e.vl ∧ laneActive u e i ∧
    (sextNat 192 (sextetNat e u.src1 i) + sextNat 192 (sextetNat e u.src2 i) < -2 ^ 191 ∨
      2 ^ 191 ≤ sextNat 192 (sextetNat e u.src1 i) + sextNat 192 (sextetNat e u.src2 i)) := by
  have hbit (b : Bool) : (if b then flagOvf else 0).testBit 1 = b := by cases b <;> rfl
  refine (laneFlags_testBit 1).trans (exists_congr fun i => and_congr_right fun _ => and_congr_right fun _ => ?_)
  rw [addSextet, hbit, outS192_iff, VecEngine.sextet_eq, VecEngine.sextet_eq]

theorem runsMicro_add192 : RunsMicro cell (.add192 cell u) (muAdd192 u) := fun _ => rfl

/-- Settles O47: a compare writes its relation into one mask register and raises nothing; ADD192 writes the six words of the sum
modulo 2^192 from the engine as it stood. -/
theorem comparesAndWideAdds : Obligations.ComparesAndWideAdds := by
  unfold Obligations.ComparesAndWideAdds
  refine ⟨fun cell u e c p s _ hc hw he hdst hlen => ?_, fun cell u e s hs hw he hdst hp => ?_⟩
  · obtain ⟨r, hr, hrun⟩ := hc.runsMicro
    have hexec := hrun.works hw
    rw [he] at hexec
    refine ⟨_, _, hexec, State.engine_micro .., rfl, rfl, State.micro_sameBut .., fun m i hm => vecCmp_mask_of_ne hdst hm i,
      fun i hi ha => ?_, fun i hi ha => ?_⟩
    · rw [vecCmp_mask_dst hdst hlen hi, if_pos (VecEngine.active_iff.2 ha), hr]
    · rw [vecCmp_mask_dst hdst hlen hi, if_neg (mt VecEngine.active_iff.1 ha)]
  · have hexec := (runsMicro_add192 (cell := cell) (u := u)).works hw
    rw [he] at hexec
    refine ⟨_, _, hexec, State.engine_micro .., rfl, rfl, fun r i hr => muAdd192_lane_of_outside hdst hr i,
      fun i hi ha => ⟨muAdd192_sextet hdst hi ha, fun k hk => muAdd192_poison hdst hi ha hk⟩, fun i k hi ha hk => ?_, ?_⟩
    · rw [muAdd192_lane hdst hk hi, laneAfter_idle (.inl ha)]
    · have hflag := State.flag_micro (State.sound_of_canonical hs) hp (k := 1) (by decide) (muAdd192 u e)
      exact (Bool.eq_iff_iff.1 hflag).trans (Bool.or_eq_true_iff.trans (or_congr_right muAdd192_ovf))

end Sys2Proof.Machine
end

section
/-! SUPPORT. What operations on memory, and the reads, writes and counts of a plate, leave of a slot: all but the records of its
memory, and so its galleys. -/

namespace Sys2Proof.Machine

/-- A slot apart from the records of its memory: its frames, their migrations, what is counted of its slugs and reads, and its work. -/
@[simp] abbrev ChaseSt.sansMemory (x : ChaseSt) : ChaseSt :=
  { x with frames := [], migrations := [], holes := [], slugs := [], readLines := [], replaySafe := true, work := WorkCnt.zero }

/-- Every slot apart from the records of its memory. -/
def State.sansMemory (s : State) : List ChaseSt := s.chases.map ChaseSt.sansMemory

theorem State.sansMemory_congr {s t : State} (hc : t.chases = s.chases) : t.sansMemory = s.sansMemory :=
  congrArg (List.map ChaseSt.sansMemory) hc

/-- A state built from the chases of another has its slots. -/
@[simp] theorem State.sansMemory_mk (s : State) {pending : List Instr} {freeIdx upNs : Nat} {pw : PowerSt} {regs msix : List (Nat × Word)}
    {msixPend : List Nat} {out : List Out} {host : HostSt} {hostMem mem : List Host.Cell} {poison : List Nat} {mb : List MbEntry}
    {rcTags : List (Nat × List (Nat × Nat))} {hbm : HbmSt} {samples : List (Nat × SampleSt)} {groups : List (Nat × AccGroup)}
    {openWaits : List OpenWait} {engines : List (Nat × VecEngine)} {stipple : List (Nat × StippleSt)} {marks : List (Nat × MarkRt)}
    {fab : FabSt} {eth : EthSt} {ink : InkSt} {time : TimeSt} {sec : SecSt} {ras : RasSt} :
    (State.mk pending freeIdx upNs pw regs msix msixPend out host hostMem mem poison mb rcTags hbm s.chases samples groups openWaits
      engines stipple marks fab eth ink time sec ras).sansMemory = s.sansMemory := rfl

@[simp] theorem State.sansMemory_ite (p : Prop) [Decidable p] (s t : State) :
    (if p then s else t).sansMemory = if p then s.sansMemory else t.sansMemory := apply_ite State.sansMemory p s t

theorem State.sansMemory_fst {α : Type} {p : State × α} {u : State} {z : α} (h : p = (u, z)) : u.sansMemory = p.1.sansMemory := by
  rw [h]
theorem State.sansMemory_snd {α : Type} {p : α × State} {u : State} {z : α} (h : p = (z, u)) : u.sansMemory = p.2.sansMemory := by
  rw [h]

@[simp] theorem State.foldl_sansMemory {α : Type} {f : State → α → State} (hf : ∀ s a, (f s a).sansMemory = s.sansMemory)
    (l : List α) (s : State) : (l.foldl f s).sansMemory = s.sansMemory := by
  induction l generalizing s with
  | nil => rfl
  | cons a l ih => exact (ih (f s a)).trans (hf s a)

@[simp] theorem State.updChase_sansMemory (s : State) (c : Nat) {f : ChaseSt → ChaseSt} (hf : ∀ x, (f x).sansMemory = x.sansMemory) :
    (s.updChase c f).sansMemory = s.sansMemory := State.updChase_map s c (hf _)

theorem State.chase_sansMemory {s t : State} (h : t.sansMemory = s.sansMemory) (c : Nat) :
    (t.chase c).sansMemory = (s.chase c).sansMemory := State.chase_map ChaseSt.sansMemory h c

section
variable (s : State)

/-! ### Registers -/

@[simp] theorem State.wr_sansMemory (r : RegName) (i v : Nat) : (s.wr r i v).sansMemory = s.sansMemory :=
  State.sansMemory_congr (State.wr_chases ..)

@[simp] theorem State.setF_sansMemory (f : Field) (i v : Nat) : (s.setF f i v).sansMemory = s.sansMemory :=
  State.sansMemory_congr (State.setF_chases ..)

@[simp] theorem State.bump_sansMemory (f : Field) (i n : Nat) : (s.bump f i n).sansMemory = s.sansMemory :=
  State.sansMemory_congr (State.bump_chases ..)

@[simp] theorem State.raiseTo_sansMemory (f : Field) (i v : Nat) : (s.raiseTo f i v).sansMemory = s.sansMemory :=
  State.sansMemory_congr (State.raiseTo_chases ..)

@[simp] theorem State.setFs_sansMemory (i : Nat) (l : List (Field × Nat)) : (s.setFs i l).sansMemory = s.sansMemory :=
  State.sansMemory_congr (State.setFs_chases ..)

@[simp] theorem State.fresh_sansMemory : (s.fresh).2.sansMemory = s.sansMemory := rfl

/-! ### Caches, merging buffers and DRAM -/

@[simp] theorem State.cacheRead_sansMemory (line : Nat) : (s.cacheRead line).sansMemory = s.sansMemory :=
  State.sansMemory_congr (State.cacheRead_chases ..)

@[simp] theorem State.cacheTouch_sansMemory (line : Nat) : (s.cacheTouch line).sansMemory = s.sansMemory := by
  unfold State.cacheTouch
  dsimp only
  split <;> simp

@[simp] theorem State.mbToDram_sansMemory (e : MbEntry) : (s.mbToDram e).sansMemory = s.sansMemory := rfl

@[simp] theorem State.mbDrainOldest_sansMemory (region : Nat) : (s.mbDrainOldest region).sansMemory = s.sansMemory := by
  unfold State.mbDrainOldest
  split <;> simp

@[simp] theorem State.mbWrite_sansMemory (line : Nat) (bs : List (Nat × Byte)) : (s.mbWrite line bs).sansMemory = s.sansMemory := by
  unfold State.mbWrite State.mbPeak
  dsimp only
  (repeat' split) <;> simp

@[simp] theorem State.sliceWrite_sansMemory (l : Nat) (bs : Bytes) : (s.sliceWrite l bs).sansMemory = s.sansMemory := by
  simp [State.sliceWrite]

@[simp] theorem State.bufferPass_sansMemory (line : Nat) : (s.bufferPass line).sansMemory = s.sansMemory := by
  unfold State.bufferPass
  split <;> simp

@[simp] theorem State.holdWrite_sansMemory (w : HeldWrite) : (s.holdWrite w).sansMemory = s.sansMemory := by
  unfold State.holdWrite
  split <;> exact State.sansMemory_congr rfl

@[simp] theorem State.devWrite_sansMemory (l : Nat) (bs : Bytes) : (s.devWrite l bs).sansMemory = s.sansMemory := by
  simp [State.devWrite]

@[simp] theorem State.lineWrite_sansMemory (l : Nat) (bs : Bytes) : (s.lineWrite l bs).sansMemory = s.sansMemory := by
  simp [State.lineWrite, State.rawWrite]

@[simp] theorem State.devPoison_sansMemory (l n : Nat) : (s.devPoison l n).sansMemory = s.sansMemory := by
  simp [State.devPoison, State.poisonRun, State.slicePoison]

/-! ### The frames of a chase -/

@[simp] theorem State.allocFrame_sansMemory (c : Nat) : (s.allocFrame c).2.sansMemory = s.sansMemory := by
  unfold State.allocFrame State.allocIn State.takeUnit
  dsimp only
  (repeat' split) <;> simp

@[simp] theorem State.updFrame_sansMemory (c f : Nat) (g : FrameEnt → FrameEnt) : (s.updFrame c f g).sansMemory = s.sansMemory := by
  unfold State.updFrame
  split <;> simp

@[simp] theorem State.zeroPieces_sansMemory (ps : List Nat) : (s.zeroPieces ps).sansMemory = s.sansMemory := by simp [State.zeroPieces]

@[simp] theorem State.fillHoles_sansMemory (c f : Nat) (e : FrameEnt) : (s.fillHoles c f e).sansMemory = s.sansMemory := by
  simp [State.fillHoles]

@[simp] theorem State.backFrame_sansMemory (c a : Nat) : (s.backFrame c a).1.sansMemory = s.sansMemory := by
  unfold State.backFrame
  split
  · rfl
  · split
    · rfl
    · split
      · rfl
      · split <;> rename_i h <;> simp [State.sansMemory_snd h]

@[simp] theorem State.settleLost_sansMemory (c f : Nat) : (s.settleLost c f).sansMemory = s.sansMemory := by
  unfold State.settleLost
  split <;> simp

@[simp] theorem State.releaseBands_sansMemory : s.releaseBands.sansMemory = s.sansMemory := rfl

@[simp] theorem State.abandon_sansMemory (c : Nat) (p : MigrationEnt → Bool) (back : Bool) :
    (s.abandon c p back).sansMemory = s.sansMemory := by simp [State.abandon]

@[simp] theorem State.noteWrite_sansMemory (plate : Bool) (c a n : Nat) : (s.noteWrite plate c a n).sansMemory = s.sansMemory := by
  simp [State.noteWrite]

@[simp] theorem State.writeBacked_sansMemory (plate : Bool) (c : Nat) (ps : List (Nat × Bytes)) :
    (s.writeBacked plate c ps).sansMemory = s.sansMemory := by
  refine State.foldl_sansMemory (fun s p => ?_) ps s
  split
  · refine (State.settleLost_sansMemory ..).trans
      ((State.foldl_sansMemory (fun s q => ?_) _ _).trans (State.noteWrite_sansMemory ..))
    split <;> simp
  · rfl

@[simp] theorem State.noteReadFrom_sansMemory (plate : Bool) (c a n : Nat) :
    (s.noteReadFrom plate c a n).sansMemory = s.sansMemory := by
  have hrun : (s.cacheRun c a n).sansMemory = s.sansMemory := State.foldl_sansMemory (fun s k => by split <;> simp) _ s
  simp [State.noteReadFrom, hrun]

@[simp] theorem State.chasePoisonRun_sansMemory (c a n : Nat) : (s.chasePoisonRun c a n).sansMemory = s.sansMemory :=
  State.foldl_sansMemory (fun s k => by split <;> simp) _ s

/-! ### The frames of a galley -/

@[simp] theorem State.sweepGal_sansMemory (c : Nat) : (s.sweepGal c).sansMemory = s.sansMemory := by simp [State.sweepGal]

@[simp] theorem State.cacheGal_sansMemory (c : Nat) (map : List (Nat × Nat)) (i off n : Nat) :
    (s.cacheGal c map i off n).sansMemory = s.sansMemory := State.foldl_sansMemory (fun s k => by split <;> simp) _ s

@[simp] theorem State.noteGal_sansMemory (plate write : Bool) (c : Nat) (map : List (Nat × Nat)) (i off n : Nat) :
    (s.noteGal plate write c map i off n).sansMemory = s.sansMemory := by
  unfold State.noteGal
  split <;> simp

@[simp] theorem State.drainGal_sansMemory (c : Nat) (map : List (Nat × Nat)) (i : Nat) :
    (s.drainGal c map i).sansMemory = s.sansMemory :=
  State.foldl_sansMemory (fun s k => by (repeat' split) <;> simp) _ s

/-! ### Reads, writes and counts of a plate -/

@[simp] theorem State.noteRead_sansMemory (c a n : Nat) : (s.noteRead c a n).sansMemory = s.sansMemory :=
  State.noteReadFrom_sansMemory ..

@[simp] theorem State.plateWrite_sansMemory (c a : Nat) (bs : Bytes) : (s.plateWrite c a bs).1.sansMemory = s.sansMemory := by
  unfold State.plateWrite State.addHoles
  split <;> rename_i h <;> simp [State.sansMemory_fst h]

@[simp] theorem State.plateStore_sansMemory (c a : Nat) (bs : Bytes) : (s.plateStore c a bs).sansMemory = s.sansMemory := by
  simp [State.plateStore]

@[simp] theorem State.closeOut_sansMemory (c : Nat) (o : OutSpec) (t : TileIn) : (s.closeOut c o t).1.sansMemory = s.sansMemory := by
  have hcount (u : State) (p plate : Nat) (cw : CloseWord) (r : CloseResult) :
      (u.countClose c p plate cw r).sansMemory = u.sansMemory := by
    unfold State.countClose State.updWork
    split
    · rfl
    · dsimp only
      split <;> simp
  simp [State.closeOut, hcount]

@[simp] theorem State.closeAll_sansMemory (c : Nat) (o : OutSpec) (ts : List TileIn) :
    (s.closeAll c o ts).1.sansMemory = s.sansMemory :=
  List.foldlRecOn (motive := fun a : State × List ClosedTile => a.1.sansMemory = s.sansMemory) ts _ rfl
    fun _ ha _ _ => (State.closeOut_sansMemory ..).trans ha

@[simp] theorem State.storeArray_sansMemory (c base : Nat) (tiles : List Bytes) :
    (s.storeArray c base tiles).1.sansMemory = s.sansMemory := by
  unfold State.storeArray
  refine (State.foldl_sansMemory (fun s e => ?_) _ _).trans (s.plateStore_sansMemory ..)
  split <;> simp

/-! ### Lookups -/

@[simp] theorem State.noteBags_sansMemory (c count : Nat) (g : GatherRec) (wsum : Bool) :
    (s.noteBags c count g wsum).sansMemory = s.sansMemory := by simp [State.noteBags]

@[simp] theorem State.countSlug_sansMemory (c galley slug n : Nat) (place : Nat × Nat × Nat) :
    (s.countSlug c galley slug n place).sansMemory = s.sansMemory := by simp [State.countSlug]

@[simp] theorem State.countEntries_sansMemory (c id : Nat) (bags : List Bag) :
    (s.countEntries c id bags).sansMemory = s.sansMemory :=
  State.foldl_sansMemory (fun s b => State.foldl_sansMemory (fun s e => by split <;> simp) _ s) _ s

@[simp] theorem State.noteRows_sansMemory (c : Nat) (g : GalleySt) (x : GalState) (bags : List (List PoolEnt)) :
    (s.noteRows c g x bags).sansMemory = s.sansMemory :=
  State.foldl_sansMemory (fun s i => by
    unfold State.noteLookup State.noteRow
    split <;> simp) _ s

end

/-! ### Galleys -/

theorem State.galley_sansMemory {s t : State} (h : t.sansMemory = s.sansMemory) (c id : Nat) : t.galley c id = s.galley c id := by
  have hgalleys : (t.chase c).galleys = (s.chase c).galleys := (congrArg ChaseSt.galleys (State.chase_sansMemory h c) :)
  rw [State.galley, State.galley, hgalleys]

theorem State.chases_length_sansMemory {s t : State} (h : t.sansMemory = s.sansMemory) : t.chases.length = s.chases.length := by
  simpa [State.sansMemory] using congrArg List.length h

end Sys2Proof.Machine
end

section
/-! SUPPORT. The galleys of a slot and the states of a galley: what an update, a seal, a commit and the freeing of draining states leave
(R318, R328, R329, R334). -/

namespace Sys2Proof.Machine

variable {q : List Instr}

/-! ### The galleys of a slot -/

theorem State.galley_congr {s t : State} (h : t.chases = s.chases) (c id : Nat) : t.galley c id = s.galley c id := by
  rw [State.galley, State.galley, State.chase_congr h]

theorem State.lt_length_of_galley {s : State} {c id : Nat} {g : GalleySt} (h : s.galley c id = some g) : c < s.chases.length := by
  by_contra hge
  rw [State.galley, State.chase, List.getD_eq_default _ _ (Nat.not_lt.1 hge)] at h
  cases h

theorem State.chases_length_core {s t : State} (h : t.core = s.core) : t.chases.length = s.chases.length := by
  simpa [State.core] using congrArg (fun x : List ChaseCore × List Ticket => x.1.length) h

theorem State.galley_setGalley {s : State} {c : Nat} (hc : c < s.chases.length) (id : Nat) (g : GalleySt) :
    (s.setGalley c id g).galley c id = some g := by
  have hchase : (s.setGalley c id g).chase c = { s.chase c with galleys := kvPut (s.chase c).galleys id g } := by
    simp [State.setGalley, State.updChase, State.setChase, State.chase, hc]
  rw [State.galley, hchase, kvGet_kvPut, if_pos rfl]

theorem State.galley_updGalley {s : State} {c id : Nat} {g : GalleySt} (h : s.galley c id = some g) (f : GalleySt → GalleySt) :
    (s.updGalley c id f).galley c id = some (f g) := by
  rw [State.updGalley, h]
  exact State.galley_setGalley (State.lt_length_of_galley h) id (f g)

/-! ### The states of a galley -/

theorem GalleySt.incoming_stage {g : GalleySt} {v : GalState} (h : g.incoming = some v) : v.stage < 2 := by
  simpa using List.find?_some h

/-- A sealed incoming state. -/
theorem GalleySt.seal_incoming {g : GalleySt} {v : GalState} (h : g.incoming = some v) : g.seal.incoming = some { v with stage := 1 } := by
  have hstage := GalleySt.incoming_stage h
  have hkeep : ((fun x : GalState => decide (x.stage < 2)) ∘ fun x => if x.stage = 0 then { x with stage := 1 } else x) =
      fun x => decide (x.stage < 2) := by
    funext x
    simp only [Function.comp]
    split <;> simp_all
  rw [GalleySt.incoming] at h
  rw [GalleySt.incoming, GalleySt.seal, List.find?_map, hkeep, h, Option.map_some]
  obtain ⟨num, stage, root, map⟩ := v
  have : stage = 0 ∨ stage = 1 := by simp only at hstage; omega
  rcases this with rfl | rfl <;> rfl

theorem GalleySt.seal_draining (g : GalleySt) : g.seal.draining = g.draining := by
  have hkeep : ((fun x : GalState => x.stage == 3) ∘ fun x => if x.stage = 0 then { x with stage := 1 } else x) =
      fun x => x.stage == 3 := by
    funext x
    simp only [Function.comp]
    split <;> simp_all
  simp only [GalleySt.draining, GalleySt.seal, List.filter_map, hkeep, List.length_map]

section Commit
variable {g : GalleySt} {v : GalState} (h : g.incoming = some v)
include h

theorem GalleySt.commit_of_incoming : g.commit = { g with
    pending := false, named := none
    states := g.states.map fun x => if x.stage = 2 then { x with stage := 3 } else if x.stage < 2 then { x with stage := 2 } else x } :=
  if_neg (by simp [h])

/-- The incoming state serves once its switch has committed (R329). -/
theorem GalleySt.commit_serving : g.commit.serving = some { v with stage := 2 } := by
  have hstage := GalleySt.incoming_stage h
  have hkeep : ((fun x : GalState => x.stage == 2) ∘
      fun x => if x.stage = 2 then { x with stage := 3 } else if x.stage < 2 then { x with stage := 2 } else x) =
      fun x => decide (x.stage < 2) := by
    funext x
    simp only [Function.comp]
    split
    · next h2 => simp [h2]
    · next h2 => split <;> simp [*]
  rw [GalleySt.commit_of_incoming h, GalleySt.serving]
  rw [GalleySt.incoming] at h
  rw [List.find?_map, hkeep, h, Option.map_some, if_neg (by omega), if_pos hstage]

theorem GalleySt.commit_incoming : g.commit.incoming = none := by
  rw [GalleySt.commit_of_incoming h, GalleySt.incoming, List.find?_eq_none]
  simp only [List.mem_map, forall_exists_index, and_imp, forall_apply_eq_imp_iff₂, decide_eq_true_eq]
  intro x _
  (repeat' split) <;> simp_all

/-- The state that served drains (R329). -/
theorem GalleySt.commit_drains {u : GalState} (hu : g.serving = some u) : ∃ d ∈ g.commit.states, d.num = u.num ∧ d.stage = 3 := by
  rw [GalleySt.commit_of_incoming h]
  have hstage : u.stage = 2 := by simpa using List.find?_some hu
  exact ⟨{ u with stage := 3 }, List.mem_map.2 ⟨u, List.mem_of_find?_eq_some hu, if_pos hstage⟩, rfl, rfl⟩

end Commit

/-- A galley whose draining states that nothing references are gone (R334). -/
def GalleySt.freed (g : GalleySt) (p : GalState → Bool) : GalleySt :=
  { g with states := g.states.filter fun x => !(x.stage == 3 && p x) }

theorem GalleySt.freed_serving (g : GalleySt) (p : GalState → Bool) : (g.freed p).serving = g.serving := by
  simp only [GalleySt.serving, GalleySt.freed, List.find?_filter]
  congr 1
  funext x
  by_cases hx : x.stage = 2 <;> simp [hx]

theorem GalleySt.freed_incoming (g : GalleySt) (p : GalState → Bool) : (g.freed p).incoming = g.incoming := by
  simp only [GalleySt.incoming, GalleySt.freed, List.find?_filter]
  congr 1
  funext x
  by_cases hx : x.stage < 2
  · have hne : x.stage ≠ 3 := by omega
    simp [hx, hne]
  · simp [hx]

theorem GalleySt.freed_draining_le (g : GalleySt) (p : GalState → Bool) : (g.freed p).draining ≤ g.draining :=
  (List.Sublist.filter _ List.filter_sublist).length_le

/-! ### Commits -/

section Galley
variable {s : State} {c id : Nat} {g : GalleySt} (h : s.galley c id = some g)
include h

theorem State.galley_freeDraining : ∃ p, (s.freeDraining c id).galley c id = some (g.freed p) :=
  ⟨fun x => !s.refState c id g x.num,
    (State.galley_sansMemory (State.sweepGal_sansMemory ..) ..).trans (State.galley_updGalley h _)⟩

theorem State.galley_commitSwitch (peers : List GuestCopy) : (s.commitSwitch c id peers).galley c id = some g.commit := by
  have hc := State.lt_length_of_galley h
  unfold State.commitSwitch
  rw [h]
  dsimp only
  split
  · refine State.galley_setGalley ?_ ..
    rw [State.chases_length_core (s := s) (by simp)]
    exact hc
  · exact State.galley_setGalley hc ..

/-- A switch that is due in an idle chase commits; draining states that nothing references go (R332, R334). -/
theorem State.galley_commitIdle {v : GalState} (hv : g.incoming = some v) (hpend : g.pending = true) (hdrain : g.draining < 2) :
    ∃ g1, (s.commitIdle c id).galley c id = some g1 ∧ g1.pending = false ∧ g1.incoming = none ∧
      g1.serving = some { v with stage := 2 } := by
  obtain ⟨p, hp⟩ := State.galley_freeDraining (State.galley_commitSwitch h (s.idlePeers c id))
  refine ⟨g.commit.freed p, ?_, ?_, ?_, ?_⟩
  · rw [State.commitIdle, h]
    dsimp only
    rw [if_pos (by simp [hpend, hdrain]), hp]
  · rw [GalleySt.commit_of_incoming hv]; rfl
  · rw [GalleySt.freed_incoming, GalleySt.commit_incoming hv]
  · rw [GalleySt.freed_serving, GalleySt.commit_serving hv]

end Galley

/-! ### Requests -/

/-- A member that tells the root of a switch changes no galley (R328). -/
theorem State.galley_tellRoot {s : State} (h : s.Sound q) (c id num k j : Nat) : (s.tellRoot c id num).galley k j = s.galley k j := by
  unfold State.tellRoot
  split
  · have hmap : ((s.noteSwitch c 0 id num).chases.map ChaseSt.galleys) = s.chases.map ChaseSt.galleys := State.updChase_map s c rfl
    rw [State.galley, State.chase_map ChaseSt.galleys hmap k, State.galley]
  · have hframe : State.Frame (maskBut [] [.chases]) s (s.sendCtl c 0 ctlSwitchReq (words [s.ordinal c, id, num])) :=
      State.sendCtl_frame h.frame rfl
    exact State.galley_congr (hframe.parts .chases rfl) k j

theorem State.galley_offerSwitch {s : State} (h : s.Sound q) (c id k j : Nat) : (s.offerSwitch c id).galley k j = s.galley k j := by
  unfold State.offerSwitch
  split
  · split
    · split
      · exact State.galley_tellRoot h ..
      · rfl
    · rfl
  · rfl

end Sys2Proof.Machine
end

section
/-! PROOF. GALLEY_SWITCH and SWITCH_COMMIT (R328, R329, R332, R334, R878). -/

namespace Sys2Proof.Machine

variable {q : List Instr}

/-! ### GALLEY_SWITCH -/

theorem State.galley_turnTaken (s : State) (ring seq c id : Nat) : (s.turnTaken ring seq).galley c id = s.galley c id := rfl

theorem State.galley_loadDone (s : State) (x : Ticket) (st n m c id : Nat) : (s.loadDone x st n m).galley c id = s.galley c id := rfl

@[simp] theorem State.commitIdle_core (s : State) (c id : Nat) : (s.commitIdle c id).core = s.core := by
  unfold State.commitIdle
  split <;> simp

@[simp] theorem State.requestSwitch_core (s : State) (c id : Nat) : (s.requestSwitch c id).core = s.core := by
  unfold State.requestSwitch
  split <;> simp

/-- A galley whose switch is requested (R328). -/
def GalleySt.requested (g : GalleySt) : GalleySt := { g.seal with pending := true }

section Request
variable {s : State} {c id : Nat} {g : GalleySt} (h : s.galley c id = some g)
include h

theorem State.requestSwitch_of_galley : s.requestSwitch c id =
    if s.csActive c then (s.setGalley c id g.requested).offerSwitch c id else (s.setGalley c id g.requested).commitIdle c id := by
  rw [State.requestSwitch, h]
  rfl

/-- A request in an active chase leaves its switch pending for the sealed state (R328). -/
theorem State.galley_requestSwitch_active (hs : s.Sound q) (hact : s.csActive c = true) :
    (s.requestSwitch c id).galley c id = some g.requested := by
  rw [State.requestSwitch_of_galley h, if_pos hact, State.galley_offerSwitch (State.setGalley_sound hs)]
  exact State.galley_setGalley (State.lt_length_of_galley h) ..

/-- A request in an idle chase commits at once (R332). -/
theorem State.galley_requestSwitch_idle {v : GalState} (hv : g.incoming = some v) (hidle : s.csActive c = false)
    (hdrain : g.draining < 2) : ∃ g1, (s.requestSwitch c id).galley c id = some g1 ∧ g1.pending = false ∧ g1.incoming = none ∧
      g1.serving = some { v with stage := 2 } := by
  rw [State.requestSwitch_of_galley h, if_neg (by simp [hidle])]
  exact State.galley_commitIdle (State.galley_setGalley (State.lt_length_of_galley h) id g.requested)
    (v := { v with stage := 1 }) (GalleySt.seal_incoming hv) rfl ((GalleySt.seal_draining g).trans_lt hdrain)

end Request

/-- A galley ticket whose work leaves the tickets alone ends as it says. -/
theorem State.atTurn.loadDone {s t : State} {ring seq op : Nat} {x : Ticket} (h : s.atTurn ring seq op x)
    (ht : t.core = (s.turnTaken ring seq).core) (st n m : Nat) :
    (t.loadDone x st n m).ticketEnds ring seq (if st = lsOk then stOk else stGalley) (dLoad st n m) :=
  h.done ((State.ticket?_congr (State.tickets_core ht) ..).trans (State.ticket?_turnTaken h.begun)) _ _

section Switch
variable {s : State} {ring seq : Nat} {x : Ticket} (h : s.atTurn ring seq 0x11 x)
include h

theorem exec_galleySwitch_none (hg : s.galley (tkSlot x.raw) (tpArg0 x.raw) = none) :
    exec (.galleySwitch ring seq) s = .next ((s.turnTaken ring seq).loadDone x lsNoGalley 0 0) := by
  rw [← State.galley_turnTaken s ring seq] at hg
  refine congrArg Host.Outcome.next ((State.ticketAct_of_atTurn h _).trans ?_)
  rw [← State.turnTaken]
  dsimp only
  rw [hg]

theorem exec_galleySwitch_some {g : GalleySt} (hg : s.galley (tkSlot x.raw) (tpArg0 x.raw) = some g) :
    exec (.galleySwitch ring seq) s = .next (if g.incoming.isNone then (s.turnTaken ring seq).loadDone x lsNoIncoming 0 0
      else ((s.turnTaken ring seq).requestSwitch (tkSlot x.raw) (tpArg0 x.raw)).loadDone x lsOk 0 0) := by
  rw [← State.galley_turnTaken s ring seq] at hg
  refine congrArg Host.Outcome.next ((State.ticketAct_of_atTurn h _).trans ?_)
  rw [← State.turnTaken]
  dsimp only
  rw [hg]

end Switch

/-- A galley ticket that fails before its request changes the host's side alone. -/
theorem State.loadDone_sameBut (s : State) (ring seq : Nat) (x : Ticket) (st : Nat) :
    State.SameBut [] [.host] s ((s.turnTaken ring seq).loadDone x st 0 0) :=
  State.turnTaken_done_sameBut s ring seq x _ _ []

/-! ### SWITCH_COMMIT -/

section Commit
variable {s : State} {c id : Nat} {g : GalleySt} (hup : s.isReady = true) (h : s.galley c id = some g)
include hup h

theorem exec_switchCommit : exec (.switchCommit c id) s = .next (if s.csActive c then
      if s.getF Fld.stkPhase c = 1 ∧ g.named.isSome then s.commitSwitch c id (s.idlePeers c id) else s
    else (s.freeDraining c id).commitIdle c id) := by
  refine congrArg Host.Outcome.next ((if_pos hup).trans ?_)
  dsimp only
  rw [h]

/-- A pending switch of an idle chase commits (R332). -/
theorem switchCommit_idle {v : GalState} (hv : g.incoming = some v) (hidle : s.csActive c = false) (hpend : g.pending = true)
    (hdrain : g.draining < 2) : ∃ t g1, exec (.switchCommit c id) s = .next t ∧ t.galley c id = some g1 ∧ g1.pending = false ∧
      g1.incoming = none ∧ g1.serving = some { v with stage := 2 } := by
  obtain ⟨p, hp⟩ := State.galley_freeDraining h
  obtain ⟨g1, hg1, hrest⟩ := State.galley_commitIdle hp ((GalleySt.freed_incoming g p).trans hv) hpend
    ((GalleySt.freed_draining_le g p).trans_lt hdrain)
  refine ⟨_, g1, ?_, hg1, hrest⟩
  rw [exec_switchCommit hup h, if_neg (by simp [hidle])]

end Commit

/-- Settles O35: a request seals and, in an idle chase, commits at once; a commit takes the incoming state into service and lets
the one before it drain. -/
theorem galleySwitchesCommit : Obligations.GalleySwitchesCommit := by
  unfold Obligations.GalleySwitchesCommit
  refine ⟨fun ring seq x s hs h => ⟨fun hg => ?_, fun g hg hv => ?_, fun g v hg hv => ⟨fun hidle hdrain => ?_, fun hact => ?_⟩⟩,
    fun c id g v s hs hup hc hg hv => ⟨fun hidle hpend hdrain => ?_, fun hact hphase hnamed => ?_, fun hact hnot => ?_⟩⟩
  · exact ⟨_, exec_galleySwitch_none h hg, h.loadDone rfl lsNoGalley 0 0, s.loadDone_sameBut ring seq x lsNoGalley⟩
  · exact ⟨_, (exec_galleySwitch_some h hg).trans (by rw [hv]; rfl), h.loadDone rfl lsNoIncoming 0 0,
      s.loadDone_sameBut ring seq x lsNoIncoming⟩
  · obtain ⟨g1, hg1, hpend, hinc, hserv⟩ := State.galley_requestSwitch_idle
      ((State.galley_turnTaken s ring seq ..).trans hg) hv hidle hdrain
    exact ⟨_, g1, _, (exec_galleySwitch_some h hg).trans (by rw [hv]; rfl), h.loadDone (State.requestSwitch_core ..) lsOk 0 0, hg1, hinc,
      hserv, rfl, rfl, rfl, hpend⟩
  · have hg1 := State.galley_requestSwitch_active ((State.galley_turnTaken s ring seq ..).trans hg)
      (State.updTicket_sound (State.sound_of_canonical hs)) hact
    exact ⟨_, _, _, (exec_galleySwitch_some h hg).trans (by rw [hv]; rfl),
      (State.galley_loadDone ..).trans hg1, rfl, GalleySt.seal_incoming hv, rfl, rfl, rfl, rfl⟩
  · obtain ⟨t, g1, hexec, hg1, hpend', hinc, hserv⟩ := switchCommit_idle hup hg hv hidle hpend hdrain
    exact ⟨t, g1, _, hexec, hg1, hpend', hinc, hserv, rfl, rfl, rfl⟩
  · refine ⟨_, g.commit, _, (exec_switchCommit hup hg).trans (by rw [if_pos hact, if_pos ⟨hphase, hnamed⟩]),
      State.galley_commitSwitch hg _, ?_, ?_, GalleySt.commit_incoming hv, GalleySt.commit_serving hv, rfl, rfl, rfl,
      fun u hu => GalleySt.commit_drains hv hu⟩ <;> rw [GalleySt.commit_of_incoming hv]
  · rw [exec_switchCommit hup hg, if_pos hact, if_neg]
    rintro ⟨hphase, hnamed⟩
    exact hnot.elim (· hphase) fun hnone => by simp [hnone] at hnamed

end Sys2Proof.Machine
end

section
/-! PROOF. A GALLEY_READ that fails a check lets a draining state go, and with its last frame the band of HBM that held it (R334, R469). -/

namespace Sys2Proof.Machine

/-- A begun ticket that breaks a check completes as it takes its turn (R675). -/
theorem State.ticketAct_of_check {s : State} {ring seq op st : Nat} {x : Ticket} (hup : s.isReady = true)
    (hbegun : s.ticket? ring seq = some x) (hfresh : x.acted = false ∧ x.done = false) (hop : tkOpcode x.raw = op)
    (horder : isChaseTicket op = true → s.chaseOrderOk x = true) (hserved : s.galleyWaits x = false)
    (hcheck : s.ticketCheck ring x.raw = some st) (f : Ticket → State → State) :
    s.ticketAct ring seq op f = s.finishTicket ring seq st [] := by
  have hturn : (isChaseTicket op && !s.chaseOrderOk x) = false := by
    cases hc : isChaseTicket op with
    | false => rfl
    | true => simp [horder hc]
  simp [State.ticketAct, hbegun, hup, hfresh.1, hfresh.2, hop, hturn, hserved, hcheck]

/-- A GALLEY_READ that breaks a check completes, and the draining states that nothing reads any more go (R334). -/
theorem exec_galleyRead_of_check {s : State} {ring seq st : Nat} {x : Ticket} (hup : s.isReady = true)
    (hbegun : s.ticket? ring seq = some x) (hfresh : x.acted = false ∧ x.done = false) (hop : tkOpcode x.raw = 0x12)
    (hserved : s.galleyWaits x = false) (hcheck : s.ticketCheck ring x.raw = some st) :
    exec (.galleyRead ring ⟨seq, []⟩) s = .next ((s.finishTicket ring seq st []).readsEnded x) := by
  have hact := State.ticketAct_of_check hup hbegun hfresh hop (by simp [isChaseTicket]) hserved hcheck fun t s => s.readGalley t
  refine congrArg Host.Outcome.next ?_
  show (match s.ticket? ring seq with
    | some t => (s.ticketAct ring seq 0x12 fun t s => s.readGalley t).ifB
        (s.isReady && !t.acted && !t.done && tkOpcode t.raw == 0x12) fun s => s.readsEnded t
    | none => s) = _
  rw [hbegun]
  dsimp only
  rw [hact, hup, hfresh.1, hfresh.2, hop]
  rfl

/-- Galley 2 with a draining state that holds one frame of its own. -/
def drainingGalley : GalleySt :=
  { newGalley trainableDecl with nextNum := 3, states := [⟨1, 3, 1, [(0, galKey)]⟩, ⟨2, 2, 2, []⟩] }

/-- A GALLEY_READ of slot 0 and galley 2 whose TP_DST_SPACE is not the space that its TK_DELIVERY asks for (R675, R678). -/
def misdirectedRead : Ticket :=
  ⟨0, 0, natLe 60 0x12 ++ natLe 452 2, WorkCnt.zero, false, false, 0, [], 0, none, 0, 0, [], [], false⟩

/-- The block in READY with that ticket begun, and slot 0 LOADED: the frame of the draining state is the only one of its band. -/
def drainingSlot : State :=
  State.setFs { State.reset with
      pw := { State.reset.pw with held := false }
      host := { State.reset.host with tickets := [misdirectedRead] }
      hbm := { State.reset.hbm with bands := [⟨0, 0, [0]⟩] }
      chases := { ChaseSt.empty with galleys := [(2, drainingGalley)], frames := [(galKey, nearFrame 0)] } ::
        List.replicate 15 ChaseSt.empty }
    0 [(Fld.sysBootStage, stageReady), (Fld.sysChaseState, csLoaded)]

theorem drainingSlot_bands : drainingSlot.hbm.bands = [⟨0, 0, [0]⟩] ∧
    ((drainingSlot.finishTicket 0 0 stBadTicket []).readsEnded misdirectedRead).hbm.bands = [] := by
  decide +kernel

/-- Refutes O32: a GALLEY_READ that fails its layout check frees the draining state that nothing reads any more, and the release of
its last frame takes the band from HBM, which is neither the host's side nor a slot. -/
theorem not_ticketsFailBeforeTheirWork : ¬ Obligations.TicketsFailBeforeTheirWork := by
  unfold Obligations.TicketsFailBeforeTheirWork
  intro h
  have hup : drainingSlot.isReady = true := by decide +kernel
  have hbegun : drainingSlot.ticket? 0 0 = some misdirectedRead := by decide +kernel
  have hop : tkOpcode misdirectedRead.raw = 0x12 := by decide +kernel
  have hserved : drainingSlot.galleyWaits misdirectedRead = false := by decide +kernel
  have hcheck : drainingSlot.ticketCheck 0 misdirectedRead.raw = some stBadTicket := by decide +kernel
  obtain ⟨hfail, -⟩ := h 0 0 0x12 (.galleyRead 0 ⟨0, []⟩) [] drainingSlot drainingSlot (by decide +kernel) (.galleyRead []) rfl
  obtain ⟨t, hexec, -, ⟨-, -, hparts⟩, -⟩ := hfail misdirectedRead stBadTicket hup hbegun rfl rfl hop (by decide) hserved hcheck
  rw [exec_galleyRead_of_check hup hbegun ⟨rfl, rfl⟩ hop hserved hcheck, Host.Outcome.next.injEq] at hexec
  obtain ⟨hbefore, hafter⟩ := drainingSlot_bands
  have hhbm : t.hbm = drainingSlot.hbm := hparts .hbm (by decide)
  rw [hexec, hhbm, hbefore] at hafter
  cases hafter

end Sys2Proof.Machine
end

section
/-! PROOF. GATHER, SPLIT, SERVE and COMBINE: what they count, contribute and queue (R336 to R355). -/

namespace Sys2Proof.Machine

variable {q : List Instr}

/-! ### Contributions -/

theorem holdAdd_eq_min (w a n : Nat) : holdAdd w a n = min (a + n) (2 ^ w - 1) := by
  rw [holdAdd, satNat]
  split <;> omega

/-- A lookup contributes one element for each bag (R347). -/
theorem gatherContrib_count (bags : List PooledBag) (bad : Nat → Bool) : (gatherContrib bags bad).count = bags.length := by
  have hfold (l : List (PooledBag × Nat)) (a : SummarySlot) :
      (l.foldl (fun a e => if bad (e.2 / 32) || e.1.vals.isNone then a.poisonElem e.2 else a.elem e.1.blanks e.2) a).count =
        a.count + l.length := by
    induction l generalizing a with
    | nil => rfl
    | cons e l ih =>
      rw [List.foldl_cons, ih, List.length_cons]
      split <;> simp only [SummarySlot.poisonElem, SummarySlot.elem, SummarySlot.add] <;> omega
  rw [gatherContrib, hfold, List.length_zipIdx]
  exact Nat.zero_add _

theorem State.galley_plateWorked (s : State) (c : Nat) (k : SummarySlot) (j id : Nat) :
    (s.plateWorked c k).galley j id = s.galley j id := by
  have hmap : (s.plateWorked c k).chases.map ChaseSt.galleys = s.chases.map ChaseSt.galleys := State.updChase_map s c rfl
  rw [State.galley, State.chase_map ChaseSt.galleys hmap, State.galley]

theorem State.contrib_plateWorked {s : State} {c : Nat} (hc : c < s.chases.length) (k : SummarySlot) :
    ((s.plateWorked c k).chase c).plate.contrib = k := by
  rw [State.plateWorked_chase hc]

/-- Writing the bags of a lookup leaves the galleys, and contributes one element for each bag. -/
theorem State.writeBags_leaves {s : State} {c : Nat} (hc : c < s.chases.length) (n : Nat) (p : Plate) (winners : Nat)
    (bags : List PooledBag) : (∀ id, (s.writeBags c n p winners bags).galley c id = s.galley c id) ∧
      ((s.writeBags c n p winners bags).chase c).plate.contrib.count = bags.length := by
  unfold State.writeBags
  extract_lets cw kts ts r w bad s1
  have h1 : s1.sansMemory = s.sansMemory := by simp [s1, w, r]
  refine ⟨fun id => (State.galley_plateWorked ..).trans (State.galley_sansMemory h1 c id), ?_⟩
  rw [State.contrib_plateWorked (by rw [State.chases_length_sansMemory h1]; exact hc), gatherContrib_count]

/-! ### What a lookup counts -/

theorem readBags_length {rd : Reader} {raw : Bytes × Bool} {wsum winners : Bool} {limit count : Nat} {bags : List Bag}
    (h : readBags rd raw wsum winners limit count = some bags) : bags.length = count := by
  unfold readBags at h
  extract_lets g at h
  split at h
  · cases h
  · split at h
    · cases h
    · cases h
      simp

/-- A galley apart from what it counts of its gather units. -/
def GalleySt.sansUnits (g : GalleySt) : GalleySt := { g with cnt := { g.cnt with refetch := 0, unpooled := 0 } }

/-- A galley whose counters have taken what bags held (R314, R338). -/
def GalleySt.withBags (g : GalleySt) (bags : List Bag) : GalleySt :=
  { g with cnt := { g.cnt with
      missing := holdAdd 32 g.cnt.missing (bags.map (·.missing)).sum
      invalid := holdAdd 32 g.cnt.invalid (bags.map (·.invalid)).sum
      bagFaults := holdAdd 32 g.cnt.bagFaults (bags.filter (·.fault)).length } }

/-- A slot shows a galley, apart from what that counts of its gather units. -/
def State.shows (s : State) (c id : Nat) (g : GalleySt) : Prop := ∃ g1, s.galley c id = some g1 ∧ g1.sansUnits = g.sansUnits

theorem State.shows_of_galley {s : State} {c id : Nat} {g : GalleySt} (h : s.galley c id = some g) : s.shows c id g := ⟨g, h, rfl⟩

section Shows
variable {s : State} {c id : Nat} {g : GalleySt} (h : s.shows c id g)
include h

theorem State.shows.sansMemory {t : State} (ht : t.sansMemory = s.sansMemory) : t.shows c id g := by
  obtain ⟨g1, hg1, hview⟩ := h
  exact ⟨g1, (State.galley_sansMemory ht c id).trans hg1, hview⟩

theorem State.shows.countGal {f : GalCnt → GalCnt}
    (hf : ∀ k, { f k with refetch := 0, unpooled := 0 } = { k with refetch := 0, unpooled := 0 }) : (s.countGal c id f).shows c id g := by
  obtain ⟨g1, hg1, hview⟩ := h
  refine ⟨_, State.galley_updGalley hg1 _, Eq.trans ?_ hview⟩
  simp only [GalleySt.sansUnits, hf]

theorem State.shows.countUnpooled (n : Nat) : (s.countUnpooled c id n).shows c id g := h.countGal fun _ => rfl

theorem State.shows.refetch (bags : List (List PoolEnt)) : (s.refetch c id bags).shows c id g :=
  List.foldlRecOn (motive := fun s : State => s.shows c id g) _ _ h fun s hs k _ => by
    dsimp only
    split
    · exact hs
    · exact (hs.sansMemory (State.fresh_sansMemory s)).countGal fun _ => rfl

end Shows

section Counts
variable {s : State} {c id : Nat} {g : GalleySt} (h : s.galley c id = some g)
include h

theorem State.galley_countBags (bags : List Bag) : (s.countBags c id bags).galley c id = some (g.withBags bags) :=
  State.galley_updGalley h _

/-- What a GATHER or a SPLIT counts of its bags before it pools them. -/
theorem State.shows_counted (count : Nat) (r : GatherRec) (wsum : Bool) (bags : List Bag) (x : GalState) (ents : List (List PoolEnt))
    (n : Nat) : ((((((s.noteBags c count r wsum).countBags c id bags).countEntries c id bags).noteRows c g x ents).refetch c id
      ents).countUnpooled c id n).shows c id (g.withBags bags) := by
  have hbags := State.galley_countBags ((State.galley_sansMemory (State.noteBags_sansMemory s c count r wsum) c id).trans h) bags
  exact (((State.shows_of_galley hbags).sansMemory
    ((State.noteRows_sansMemory ..).trans (State.countEntries_sansMemory ..))).refetch ents).countUnpooled n

end Counts

/-- The counters that a lookup leaves (R338, R341). -/
theorem GalleySt.counts_of_sansUnits {g g1 : GalleySt} {bags : List Bag} (h : g1.sansUnits = (g.withBags bags).sansUnits) :
    g1.cnt.missing = min (g.cnt.missing + (bags.map (·.missing)).sum) (2 ^ 32 - 1) ∧
      g1.cnt.invalid = min (g.cnt.invalid + (bags.map (·.invalid)).sum) (2 ^ 32 - 1) ∧
      g1.cnt.bagFaults = min (g.cnt.bagFaults + (bags.filter (·.fault)).length) (2 ^ 32 - 1) := by
  have hcnt : g1.sansUnits.cnt = (g.withBags bags).sansUnits.cnt := by rw [h]
  rw [← holdAdd_eq_min, ← holdAdd_eq_min, ← holdAdd_eq_min]
  exact ⟨(congrArg GalCnt.missing hcnt :), (congrArg GalCnt.invalid hcnt :), (congrArg GalCnt.bagFaults hcnt :)⟩

/-! ### GATHER -/

section Lookup
variable {s : State} {c : Nat} {g : GalleySt} {x : GalState} {bags : List Bag} (hg : s.galley c (s.plate c).galley = some g)
  (hx : g.serving = some x) (hbags : s.bagsInHand c g = some bags)
include hg hx hbags

/-- A GATHER counts its bags, and then writes as many. -/
theorem State.gatherPlate_writes : ∃ (u : State) (n winners : Nat) (pooled : List PooledBag),
    s.gatherPlate c = u.writeBags c n (s.plate c) winners pooled ∧ pooled.length = (s.plate c).count ∧
      u.shows c (s.plate c).galley (g.withBags bags) := by
  unfold State.gatherPlate
  extract_lets p pool win rd raw s0 rec1
  have h0 : s0.sansMemory = s.sansMemory := State.noteRead_sansMemory ..
  have hbags' : readBags rd raw (pool == poolWsum) win g.slugs p.count = some bags := hbags
  split
  · next hnone => cases hnone.symm.trans hg
  · next g' hg' =>
    obtain rfl : g = g' := Option.some.inj (hg.symm.trans hg')
    split
    · next x' bags' hx' hread =>
      obtain rfl : bags = bags' := Option.some.inj (hbags'.symm.trans hread)
      extract_lets ents runs s1 s2
      exact ⟨s2, _, _, _, rfl, by simp [runs, ents, readBags_length hbags', p],
        State.shows_counted ((State.galley_sansMemory h0 ..).trans hg) ..⟩
    · next hbad => exact absurd hbags' (hbad x bags hx)

theorem State.gatherPlate_serves : ∃ g1, (s.gatherPlate c).galley c (s.plate c).galley = some g1 ∧
    ((s.gatherPlate c).chase c).plate.contrib.count = (s.plate c).count ∧ g1.sansUnits = (g.withBags bags).sansUnits := by
  obtain ⟨u, n, winners, pooled, hplate, hlen, g1, hg1, hview⟩ := State.gatherPlate_writes hg hx hbags
  obtain ⟨hgal, hcount⟩ := State.writeBags_leaves (State.lt_length_of_galley hg1) n (s.plate c) winners pooled
  rw [hplate]
  exact ⟨g1, (hgal _).trans hg1, hcount.trans hlen, hview⟩

end Lookup

/-! ### SPLIT -/

/-- A request that finds room with all the others is queued (R355). -/
theorem mem_queueReqs {queue rs : List LookupReq} {r : LookupReq} (hr : r ∈ rs) (hroom : queue.length + rs.length ≤ reqOutMax) :
    r ∈ (queueReqs queue rs).1 := by
  rw [queueReqs, List.take_of_length_le (by omega)]
  exact List.mem_append_right _ hr

/-- A lookup asks for no more rows than its bags name. -/
theorem length_requests_le (bags : List Bag) (p : Nat × Int → Bool) (f : Nat → Nat × Int → LookupReq) :
    (bags.zipIdx.flatMap fun b => (b.1.ents.filter p).map (f b.2)).length ≤ (bags.map fun b => b.ents.length).sum := by
  have hzip : bags.map (fun b => b.ents.length) = bags.zipIdx.map fun b => b.1.ents.length := by
    conv_lhs => rw [← List.zipIdx_map_fst 0 bags, List.map_map]
    rfl
  rw [List.length_flatMap, hzip]
  refine List.sum_le_sum fun b _ => ?_
  rw [List.length_map]
  exact List.length_filter_le ..

/-- The request of entry `e` of bag `b` for a row of state `x` (R353). -/
def State.requestOf (s : State) (c : Nat) (x : GalState) (b : Nat) (e : Nat × Int) : LookupReq :=
  ⟨e.1, if bitsOf (s.plate c).args 34 32 = poolMax then 1 else e.2, b, s.ordinal c, x.num % 256⟩

/-- What a SPLIT leaves of its galley `g`: missing indices are counted, its bags held, and its requests queued (R352, R353). -/
structure State.SplitLeaves (s : State) (c : Nat) (g : GalleySt) (x : GalState) (bags : List Bag) (g1 : GalleySt) : Prop where
  missing : g1.cnt.missing = min (g.cnt.missing + (bags.map (·.missing)).sum) (2 ^ 32 - 1)
  held : ∃ h ∈ g1.splits, h.begunAt = (s.chase c).begunCount ∧ h.bags.length = (s.plate c).count
  queued : g.reqOut.length + (bags.map fun b => b.ents.length).sum ≤ reqOutMax →
    ∀ b bag e, bags[b]? = some bag → e ∈ bag.ents → s.rowAt c (s.plate c).galley g x e.1 = none →
      s.guestAt c (s.plate c).galley g x e.1 = none → s.requestOf c x b e ∈ g1.reqOut

section Lookup
variable {s : State} {c : Nat} {g : GalleySt} {x : GalState} {bags : List Bag} (hg : s.galley c (s.plate c).galley = some g)
  (hx : g.serving = some x) (hbags : s.bagsInHand c g = some bags)
include hg hx hbags

theorem State.splitPlate_writes : ∃ (u : State) (held : List PooledBag) (g1 : GalleySt),
    s.splitPlate c = u.plateWorked c (gatherContrib held fun _ => false) ∧ held.length = (s.plate c).count ∧
      u.galley c (s.plate c).galley = some g1 ∧ s.SplitLeaves c g x bags g1 := by
  unfold State.splitPlate
  extract_lets p pool win rd raw s0 rec1 now
  have h0 : s0.sansMemory = s.sansMemory := State.noteRead_sansMemory ..
  have hbags' : readBags rd raw (pool == poolWsum) win g.slugs p.count = some bags := hbags
  split
  · next hnone => cases hnone.symm.trans hg
  · next g' hg' =>
    obtain rfl : g = g' := Option.some.inj (hg.symm.trans hg')
    split
    · next x' bags' hx' hread =>
      obtain rfl : bags = bags' := Option.some.inj (hbags'.symm.trans hread)
      obtain rfl : x = x' := Option.some.inj (hx.symm.trans hx')
      extract_lets row ents reqs q runs held s1 s2 s3
      have hlen : held.length = p.count := by simp [held, runs, ents, readBags_length hbags']
      obtain ⟨g2, hg2, hview⟩ : s2.shows c p.galley (g.withBags bags) :=
        State.shows_counted ((State.galley_sansMemory h0 ..).trans hg) ..
      obtain ⟨hmissing, -⟩ := GalleySt.counts_of_sansUnits hview
      have hreqs : reqs.length ≤ (bags.map fun b => b.ents.length).sum :=
        length_requests_le bags (fun e => (row e.1).isNone) (s.requestOf c x)
      refine ⟨s3, held.map (pooledBag pool), _, rfl, by rw [List.length_map, hlen], State.galley_updGalley hg2 _,
        hmissing, ⟨_, List.mem_append_right _ (List.mem_singleton_self _), rfl, hlen⟩,
        fun hroom b bag e hbag he hrow hguest => ?_⟩
      refine mem_queueReqs ?_ ((Nat.add_le_add_left hreqs _).trans hroom)
      refine List.mem_flatMap.2 ⟨(bag, b), List.mem_zipIdx_iff_getElem?.2 hbag, List.mem_map.2 ⟨e, List.mem_filter.2 ⟨he, ?_⟩, rfl⟩⟩
      have hnone : row e.1 = none := by
        simp only [row]
        rw [hrow]
        exact hguest
      rw [hnone, Option.isNone_none]
    · next hbad => exact absurd hbags' (hbad x bags hx)

theorem State.splitPlate_serves : ∃ g1, (s.splitPlate c).galley c (s.plate c).galley = some g1 ∧
    ((s.splitPlate c).chase c).plate.contrib.count = (s.plate c).count ∧ s.SplitLeaves c g x bags g1 := by
  obtain ⟨u, held, g1, hplate, hlen, hg1, hleaves⟩ := State.splitPlate_writes hg hx hbags
  rw [hplate, State.galley_plateWorked, State.contrib_plateWorked (State.lt_length_of_galley hg1), gatherContrib_count]
  exact ⟨g1, hg1, hlen, hleaves⟩

end Lookup

/-! ### SERVE -/

/-- Every partial is queued, or leaves the notice that its bag is lost (R355). -/
theorem queueParts_length (queue rs : List LookupPartial) : (queueParts queue rs).1.length = queue.length + rs.length := by
  unfold queueParts
  extract_lets bytes put z
  have hput (a : List LookupPartial × Nat × Nat) (r : LookupPartial) : (put a r).1.length = a.1.length + 1 := by
    simp only [put]
    split <;> simp
  have hfold (a : List LookupPartial × Nat × Nat) : (rs.foldl put a).1.length = a.1.length + rs.length := by
    induction rs generalizing a with
    | nil => rfl
    | cons r rs ih => rw [List.foldl_cons, ih, hput, List.length_cons]; omega
  exact hfold _

theorem State.servePlate_serves {s : State} {c : Nat} {g : GalleySt} (hg : s.galley c (s.plate c).galley = some g) :
    ∃ g1, (s.servePlate c).galley c (s.plate c).galley = some g1 ∧ g1.reqIn = [] ∧
      g1.partOut.length = g.partOut.length + ((g.reqIn.map fun r => (r.origin, r.bag, r.state)).eraseDups).length := by
  unfold State.servePlate
  extract_lets p mx
  split
  · next hnone => cases hnone.symm.trans hg
  · next g' hg' =>
    obtain rfl : g = g' := Option.some.inj (hg.symm.trans hg')
    extract_lets keys bagReqs ents parts q s1 of s1' s2 s3
    have h1 : s1'.sansMemory = s.sansMemory := by
      refine (State.foldl_sansMemory (fun s tag => ?_) _ _).trans (State.foldl_sansMemory (fun s r => s.countSlug_sansMemory ..) _ _)
      split <;> simp
    obtain ⟨g2, hg2, -⟩ : s2.shows c p.galley g :=
      (((State.shows_of_galley hg).sansMemory h1).refetch ents).countUnpooled _
    refine ⟨_, (State.galley_plateWorked ..).trans (State.galley_updGalley hg2 _), rfl, ?_⟩
    refine (queueParts_length ..).trans ?_
    simp [parts, ents, keys]

/-! ### COMBINE -/

theorem State.combinePlate_serves {s : State} {c : Nat} {g : GalleySt} {h : SplitHeld}
    (hg : s.galley c (s.plate c).galley = some g) (hsplit : splitOf g (s.chase c).begunCount = some h)
    (hlen : h.bags.length = (s.plate c).count) (hwin : bitOf (s.plate c).args 37 = true → h.winners ≠ 0) :
    ∃ g1, (s.combinePlate c).galley c (s.plate c).galley = some g1 ∧ g1.splits = g.splits.erase h ∧
      ((s.combinePlate c).chase c).plate.contrib.count = (s.plate c).count := by
  have hok : ¬ (h.bags.length != (s.plate c).count || (bitOf (s.plate c).args 37 && h.winners == 0)) = true := by
    simpa [hlen] using hwin
  unfold State.combinePlate
  simp only [hg, hsplit, if_neg hok]
  have hupd := State.galley_updGalley hg fun g => { g with splits := g.splits.erase h }
  obtain ⟨hgal, hcount⟩ := State.writeBags_leaves (State.lt_length_of_galley hupd) g.n (s.plate c)
    (if bitOf (s.plate c).args 37 then h.winners else 0) (h.bags.map (pooledBag (bitsOf (s.plate c).args 34 32)))
  exact ⟨_, (hgal _).trans hupd, rfl, hcount.trans (by rw [List.length_map, hlen])⟩

theorem State.combinePlate_of_no_split {s : State} {c : Nat} {g : GalleySt} (hg : s.galley c (s.plate c).galley = some g)
    (hsplit : splitOf g (s.chase c).begunCount = none) : s.combinePlate c = s.recordFault c := by
  simp only [State.combinePlate, hg, hsplit]

/-! ### The commands -/

section Exec
variable {s : State} {c : Nat} (hruns : s.plateRuns c 1 = true)
include hruns

theorem exec_gather (hrole : (s.plate c).gaRole = 0) : exec (.gather c []) s = .next (s.gatherPlate c) :=
  congrArg Host.Outcome.next ((if_pos hrole).trans (State.plateDo_of_runs hruns))

theorem exec_split (hrole : (s.plate c).gaRole = 1) : exec (.split c []) s = .next (s.splitPlate c) :=
  congrArg Host.Outcome.next ((if_pos hrole).trans (State.plateDo_of_runs hruns))

theorem exec_serve (hrole : (s.plate c).gaRole = 2) : exec (.serve c []) s = .next (s.servePlate c) :=
  congrArg Host.Outcome.next ((if_pos hrole).trans (State.plateDo_of_runs hruns))

theorem exec_combine (hrole : (s.plate c).gaRole = 3) : exec (.combine c []) s = .next (s.combinePlate c) :=
  congrArg Host.Outcome.next ((if_pos hrole).trans (State.plateDo_of_runs hruns))

end Exec

/-- A record fault contributes nothing but poison and changes no byte (R233). -/
theorem State.recordFault_leaves {s : State} {c : Nat} (hc : c < s.chases.length) :
    ((s.recordFault c).chase c).plate.contrib = SummarySlot.fault ∧ (s.recordFault c).mem = s.mem := by
  obtain ⟨hcontrib, hmem, -⟩ := (State.recordFault_blanks s c).contrib
    (by rw [State.chases_length_place (State.recordFault_works s c).place]; exact hc)
  exact ⟨hcontrib, hmem⟩

/-- A lookup on a galley that the slot does not hold is a record fault, after its record has been read. -/
theorem State.recordFault_leaves_of_read {s : State} {c a n : Nat} (h : s.Sound q) (hc : c < 16) :
    (((s.noteRead c a n).recordFault c).chase c).plate.contrib = SummarySlot.fault ∧
      ((s.noteRead c a n).recordFault c).mem = s.mem := by
  obtain ⟨hcontrib, hmem⟩ := State.recordFault_leaves (s := s.noteRead c a n) (c := c)
    (by rw [State.chases_length_sansMemory (State.noteRead_sansMemory s c a n), h.slots]; exact hc)
  exact ⟨hcontrib, hmem.trans (State.noteRead_bytes h c a n).1⟩

/-- Settles O42: each role of a lookup works on the bags of its record, on the queue of requests, or on the bags of its SPLIT. -/
theorem lookupPlatesServeBags : Obligations.LookupPlatesServeBags := by
  unfold Obligations.LookupPlatesServeBags
  refine ⟨fun c g x bags s hs hc hruns hg hx hbags => ⟨fun hrole => ?_, fun hrole => ?_⟩,
    fun c g s hs hc hruns hg => ⟨fun hrole => ?_, fun hrole => ⟨fun h hsplit hlen hwin => ?_, fun hsplit => ?_⟩⟩,
    fun c i f s hs hc hruns hsays hf hrole hg => ?_⟩
  · obtain ⟨g1, hg1, hcount, hview⟩ := State.gatherPlate_serves hg hx hbags
    exact ⟨_, g1, exec_gather hruns hrole, hg1, hcount, GalleySt.counts_of_sansUnits hview⟩
  · obtain ⟨g1, hg1, hcount, hmissing, ⟨h, hmem, hat, hlen⟩, hqueued⟩ := State.splitPlate_serves hg hx hbags
    exact ⟨_, g1, h, exec_split hruns hrole, hg1, hcount, hmissing, hmem, hat, hlen, hqueued⟩
  · obtain ⟨g1, hg1, hrest⟩ := State.servePlate_serves hg
    exact ⟨_, g1, exec_serve hruns hrole, hg1, hrest⟩
  · obtain ⟨g1, hg1, hrest⟩ := State.combinePlate_serves hg hsplit hlen hwin
    exact ⟨_, g1, exec_combine hruns hrole, hg1, hrest⟩
  · refine ⟨_, exec_combine hruns hrole, ?_⟩
    rw [State.combinePlate_of_no_split hg hsplit]
    exact State.recordFault_leaves (State.lt_length_of_galley hg)
  · have h := State.sound_of_canonical hs
    cases hsays with
    | gather =>
      refine ⟨_, exec_gather hruns (by simpa using hf), ?_⟩
      simp only [State.gatherPlate, hg]
      exact State.recordFault_leaves_of_read h hc
    | split =>
      refine ⟨_, exec_split hruns (by simpa using hf), ?_⟩
      simp only [State.splitPlate, hg]
      exact State.recordFault_leaves_of_read h hc
    | serve => exact absurd (by simpa using hf) hrole
    | combine =>
      refine ⟨_, exec_combine hruns (by simpa using hf), ?_⟩
      simp only [State.combinePlate, hg]
      exact State.recordFault_leaves (by rw [h.slots]; exact hc)

end Sys2Proof.Machine
end

section
/-! PROOF. LOAD of a poisoned row: the bytes that it stores in the slot leave the merging buffers with the sectors that it poisons
(R324, R346, R511), so that the slot does not show them. -/

namespace Sys2Proof.Machine

/-! ### Places in the units of one band -/

section NearBand
variable {s : State} (hband : s.band 0 0 = some ⟨0, 0, [0]⟩)
include hband

/-- The units of a band of one pseudo-channel stand one behind another from HBM address 0 on. -/
theorem State.entryHa_nearFrame (u off : Nat) : s.entryHa (nearFrame u) off = 4096 * u + off := by
  have hlayout : ¬ (nearFrame u).layout = 2 := by simp [nearFrame]
  rw [State.entryHa, State.frameHa, if_neg hlayout]
  simp only [nearFrame, hband, placeUnit, List.length_singleton, Nat.mod_one, List.getD_cons_zero]
  omega

theorem State.galHa_nearFrame {c i u : Nat} {map : List (Nat × Nat)} (hframe : (kvGet map i).bind (s.frame c) = some (nearFrame u))
    (off : Nat) : s.galHa c map i off = some (4096 * u + off) := by
  rw [State.galHa, hframe, Option.map_some, State.entryHa_nearFrame hband]

/-- A row whose slot stands in unit 0 and whose tag in unit 1 has a place of its own. -/
theorem State.ownPlace_nearFrames {c : Nat} {g : GalleySt} {x : GalState} {p : RowPlace}
    (hown : g.mustCopy x p.slotF = false ∧ g.mustCopy x p.tagF = false)
    (hwithin : p.slotO + slotBytes g.r ≤ 4096 ∧ p.tagO + 2 ≤ 4096) (hapart : p.slotF ≠ p.tagF)
    (hslot : (kvGet x.map p.slotF).bind (s.frame c) = some (nearFrame 0))
    (htag : (kvGet x.map p.tagF).bind (s.frame c) = some (nearFrame 1))
    (hhost : s.host.snoop = [] ∧ s.host.snoopOut = [] ∧ s.host.heldWrites = []) : s.ownPlace c g x p := by
  have hunit {i : Nat} (hi : i = p.slotF ∨ i = p.tagF) :
      ∃ u, ((i = p.slotF ∧ u = 0) ∨ (i = p.tagF ∧ u = 1)) ∧ ∀ off, s.galHa c x.map i off = some (4096 * u + off) := by
    rcases hi with rfl | rfl
    · exact ⟨0, .inl ⟨rfl, rfl⟩, State.galHa_nearFrame hband hslot⟩
    · exact ⟨1, .inr ⟨rfl, rfl⟩, State.galHa_nearFrame hband htag⟩
  refine ⟨hown, hwithin, fun i off hi hoff => ?_, fun i j a b h hi hj ha hb hia hjb => ?_, .inl hapart⟩
  · obtain ⟨u, hu, hha⟩ := hunit hi
    exact ⟨_, hha off, by unfold hbmTop; omega, by simp [State.hostFree, State.snooped, heldByte, hhost]⟩
  · obtain ⟨u, hu, hhau⟩ := hunit hi
    obtain ⟨v, hv, hhav⟩ := hunit hj
    rw [hhau, Option.some.injEq] at hia
    rw [hhav, Option.some.injEq] at hjb
    omega

end NearBand

/-! ### LOAD -/

/-- A ticket at its turn whose record asks for a LOAD loads (R322, R323). -/
theorem exec_load {s s1 : State} {ring seq : Nat} {x : Ticket} {b : Bytes} {bad : List (Nat × Nat)} (h : s.atTurn ring seq 0x10 x)
    (hsrc : s.sourceReads ring seq x 64 b bad s1) (hop : glrOp b = 0) :
    exec (.load ring ⟨seq, []⟩) s = .next (s1.loadGalley x b) := by
  have hact : s.galleyAct ring seq (fun o => o == 0 || decide (3 < o)) State.loadGalley = s1.loadGalley x b := by
    rw [State.galleyAct, State.ticketAct_of_atTurn h, ← State.turnTaken, State.withSource, hsrc]
    exact if_pos (by simp [hop])
  exact congrArg Host.Outcome.next hact

/-- Galley 2 with an incoming state that has frames of its own for the slots and the tags of its first rows. -/
def loadingGalley : GalleySt := { newGalley trainableDecl with nextNum := 2, states := [⟨0, 2, 0, []⟩, ownIncoming] }

/-- A load record: LOAD of slug 0 of galley 2, its row at chase address 4096 and its exponent at 4128 (R322). -/
def loadRecord : Bytes := natLe 16 2 ++ natLe 8 1 ++ natLe 8 4096 ++ natLe 32 4128

/-- A GALLEY_LOAD of slot 0 with that record inline, its rows in chase data (R675, R678). -/
def loadTicket : Ticket :=
  ⟨0, 0, natLe 18 0x10 ++ natLe 40 64 ++ natLe 70 2 ++ loadRecord ++ natLe 320 0, WorkCnt.zero, false, false, 0, [], 0, none, 0, 0, [], [],
    false⟩

/-- Slot 0 LOADED with that galley; its chase data at 4096 stand in unit 2. -/
def loadingChase : ChaseSt :=
  { ChaseSt.empty with
    forme := publishForme, galleys := [(2, loadingGalley)]
    frames := [(1, nearFrame 2), (galKey, nearFrame 0), (galKey + 1, nearFrame 1)] }

/-- The block in READY with the ticket begun. The first byte of the row is 3, and its sector is poisoned. -/
def poisonedRow : State :=
  State.setFs { State.reset with
      pw := { State.reset.pw with held := false }, mem := [(8192, 3)], poison := [256]
      host := { State.reset.host with tickets := [loadTicket] }
      hbm := { State.reset.hbm with bands := [⟨0, 0, [0]⟩] }, chases := loadingChase :: List.replicate 15 ChaseSt.empty }
    0 [(Fld.sysBootStage, stageReady), (Fld.sysChaseState, csLoaded)]

/-- The state in which the ticket has read its record, and the one in which it has read its row and exponent too. -/
def poisonedRowRecord : State := poisonedRow.turnTaken 0 0
def poisonedRowSource : State := (poisonedRowRecord.noteDma 0 4096 4).noteDma 0 4128 1

theorem poisonedRow_atTurn : poisonedRow.atTurn 0 0 0x10 loadTicket where
  up := by decide +kernel
  begun := by decide +kernel
  fresh := ⟨rfl, rfl⟩
  opcode := by decide +kernel
  order := by decide
  passes := by decide +kernel
  unmarked n f := by
    have hmarks : poisonedRow.marks = [] := by decide +kernel
    simp [State.mark, hmarks, kvGet]
  served := by decide +kernel

theorem poisonedRow_source : poisonedRow.sourceReads 0 0 loadTicket 64 loadRecord [] poisonedRowRecord := by
  have hspace : tpSrcSpace loadTicket.raw = 0 := by decide +kernel
  have hrecord : slice (tkInline loadTicket.raw) (tpSrc loadTicket.raw) 64 = loadRecord := by decide +kernel
  rw [State.sourceReads, State.srcRead, if_pos hspace, hrecord]
  rfl

/-- The row is poisoned, its exponent is not. -/
theorem poisonedRow_rows :
    poisonedRowRecord.rowsRead loadTicket loadRecord loadingGalley.r [3, 0, 0, 0] [0] [(0, 4)] [] poisonedRowSource where
  inRange := by decide +kernel
  read := ⟨poisonedRowRecord.noteDma 0 4096 4, Prod.ext rfl (by decide +kernel), Prod.ext rfl (by decide +kernel)⟩

theorem poisonedRow_place : poisonedRowSource.ownPlace 0 loadingGalley ownIncoming (rowPlace loadingGalley.r 0) :=
  State.ownPlace_nearFrames (by decide +kernel) (by decide +kernel) (by decide +kernel) (by decide +kernel) (by decide +kernel)
    (by decide +kernel) (by decide +kernel)

/-- The loaded slug begins with the element 3; its slot shows zeros alone. -/
theorem poisonedRow_load :
    (loadedSlug loadingGalley [3, 0, 0, 0] [0] [(0, 4)] []).1 = ⟨0, 0, [3, 0, 0, 0], true⟩ ∧
      (poisonedRowRecord.loadGalley loadTicket loadRecord).galRead false 0 ownIncoming.map (rowPlace loadingGalley.r 0).slotF
        (rowPlace loadingGalley.r 0).slotO (slotBytes loadingGalley.r) = List.replicate 32 0 := by
  decide +kernel

/-- Refutes O34: a LOAD of a poisoned row writes the row into its slot and then poisons the slot's sectors, which takes the
row's bytes out of the merging buffers; the slot shows what DRAM held before. -/
theorem not_galleyLoadsReachIncomingState : ¬ Obligations.GalleyLoadsReachIncomingState := by
  unfold Obligations.GalleyLoadsReachIncomingState
  rintro ⟨-, hloads, -⟩
  obtain ⟨hload, -⟩ := hloads 0 0 loadTicket loadRecord [] [(0, 4)] [] [3, 0, 0, 0] [0] loadingGalley [] poisonedRow poisonedRow
    poisonedRowRecord poisonedRowSource (by decide +kernel) rfl poisonedRow_atTurn poisonedRow_source (by decide +kernel)
    (by decide +kernel) poisonedRow_rows (by decide +kernel)
  have hop : glrOp loadRecord = 0 := by decide +kernel
  obtain ⟨-, hrow⟩ := hload hop
  obtain ⟨t, g1, v, hexec, -, -, hmap, ⟨hslot, -⟩, -⟩ := hrow 0 ownIncoming (by decide +kernel) (by decide +kernel) (by decide +kernel)
    (by decide +kernel) poisonedRow_place
  obtain rfl : poisonedRowRecord.loadGalley loadTicket loadRecord = t := by
    rw [exec_load poisonedRow_atTurn poisonedRow_source hop] at hexec
    cases hexec
    rfl
  obtain ⟨hslug, hzeros⟩ := poisonedRow_load
  have hchase : tkSlot loadTicket.raw = 0 := by decide +kernel
  rw [hchase, hmap, hslug, hzeros] at hslot
  exact absurd hslot (by decide +kernel)

end Sys2Proof.Machine
end

section
/-! PROOF. IMP_QUERY finds the rows of a galley by the mark `sharded` that the galley itself keeps; `State.canonical` does not tie
that mark to the galley's declaration (R302, R303, R463). -/

namespace Sys2Proof.Machine

/-! ### The answer to a query of a galley -/

/-- A slug that this member neither owns nor holds as a guest answers zero (R463). -/
theorem State.query_of_elsewhere {s : State} {c n key : Nat} {d : Bytes} {g : GalleySt} (hdecl : (galDecls (s.forme c))[n]? = some d)
    (hgalley : s.galley c (gdId d) = some g) (hrow : s.localRow c g (key % 2 ^ 40) = none)
    (hguest : (s.chase c).guests.find? (fun u => u.galley == gdId d && u.slug == key % 2 ^ 40) = none) :
    s.query c 1 n key = s.wr .impQueryResult 0 0 := by
  unfold State.query
  rw [if_neg Nat.one_ne_zero, hdecl, Option.bind_some, hgalley, Option.map_some]
  dsimp only
  split
  · rfl
  · rw [hrow, hguest]

/-- A galley's rows lie where its record, the members and the node ID say (R303). -/
theorem State.localRow_congr {s t : State} {c : Nat} (hchases : t.chases = s.chases) (hnode : t.nodeId = s.nodeId) (g : GalleySt)
    (i : Nat) : t.localRow c g i = s.localRow c g i := by
  have hforme : t.forme c = s.forme c := congrArg ChaseSt.forme (State.chase_congr hchases c)
  rw [State.localRow, State.localRow, State.members_congr hforme, State.ordinal_congr hforme hnode]

/-! ### IMP_QUERY as a command -/

/-- The state with the slot, kind and galley of a query stored. -/
def State.withQuery (s : State) (value : Nat) : State :=
  s.setFs 0 [(Fld.impQSlot, bitsOf value 19 16), (Fld.impQKind, bitsOf value 15 15), (Fld.impQGalley, bitsOf value 9 0)]

theorem exec_impQuery {s : State} {rid : Nat} (h : s.serves rid) (value : Nat) :
    exec (.impQuery rid value) s =
      .next ((s.withQuery value).query (bitsOf value 19 16) (bitsOf value 15 15) (bitsOf value 9 0) (s.getF Fld.impQKey 0)) := by
  obtain ⟨hhears, hup⟩ := h
  exact congrArg Host.Outcome.next ((State.hostWrite_of_hears hhears _).trans (if_pos hup))

/-- What a query stores of itself changes no slot and not the node ID. -/
theorem State.withQuery_chases (s : State) (value : Nat) : (s.withQuery value).chases = s.chases := State.setFs_chases ..

theorem State.withQuery_nodeId {s : State} {q : List Instr} (h : s.Sound q) (value : Nat) : (s.withQuery value).nodeId = s.nodeId :=
  State.getF_setFs_of_clear h (by decide) (by rfl)

/-- A query of a slug that this member neither owns nor holds as a guest leaves IMP_QUERY_RESULT zero. -/
theorem exec_impQuery_of_elsewhere {s : State} {rid value : Nat} {d : Bytes} {g : GalleySt} (hs : s.canonical = true)
    (hserves : s.serves rid) (hkind : bitsOf value 15 15 = 1)
    (hdecl : (galDecls (s.forme (bitsOf value 19 16)))[bitsOf value 9 0]? = some d)
    (hgalley : s.galley (bitsOf value 19 16) (gdId d) = some g)
    (hrow : s.localRow (bitsOf value 19 16) g (s.getF Fld.impQKey 0 % 2 ^ 40) = none)
    (hguest : (s.chase (bitsOf value 19 16)).guests.find?
      (fun u => u.galley == gdId d && u.slug == s.getF Fld.impQKey 0 % 2 ^ 40) = none) :
    ∃ t, exec (.impQuery rid value) s = .next t ∧ t.rd .impQueryResult 0 = 0 := by
  have hsound := State.sound_of_canonical hs
  have hchases := s.withQuery_chases value
  have hchase := State.chase_congr hchases (bitsOf value 19 16)
  have hforme := congrArg ChaseSt.forme hchase
  rw [← State.forme, ← State.forme] at hforme
  rw [← hforme] at hdecl
  rw [← State.galley_congr hchases] at hgalley
  rw [← State.localRow_congr hchases (State.withQuery_nodeId hsound value)] at hrow
  rw [← hchase] at hguest
  refine ⟨_, exec_impQuery hserves value, ?_⟩
  rw [hkind, State.query_of_elsewhere hdecl hgalley hrow hguest]
  exact State.rd_wr_same _ 0 0 (State.setFs_sound hsound).rise (by decide)

/-! ### A galley that is declared replicated and held as a sharded one -/

/-- A forme of two members, on nodes 0 and 1, that declares the replicated galley 2 (R58, R79). -/
def replicatedForme : Bytes :=
  natLe 12 0 ++ natLe 116 2 ++ (natLe 2 1 ++ natLe 2 1 ++ natLe 4 224 ++ natLe 40 24) ++
    (natLe 2 7 ++ natLe 2 1 ++ natLe 4 248 ++ natLe 40 128) ++
    (natLe 4 1 ++ natLe 4 2 ++ (natLe 2 0 ++ natLe 6 1) ++ (natLe 2 1 ++ natLe 6 1)) ++ (natLe 64 1 ++ trainableDecl)

/-- Galley 2 as FORME_LOAD makes it, but with the mark of a sharded galley. -/
def mismarkedGalley : GalleySt := { newGalley trainableDecl with sharded := true }

/-- The block in READY with requester 7 in the host set; slot 0, LOADED, holds that galley, and IMP_QUERY_KEY names slug 1, which
the member on node 1 would own. -/
def mismarkedSlot : State :=
  State.setFs { State.reset with
      pw := { State.reset.pw with held := false, pcieUp := true }
      host := { State.reset.host with hostSet := [7] }
      chases := { ChaseSt.empty with forme := replicatedForme, galleys := [(2, mismarkedGalley)] } ::
        List.replicate 15 ChaseSt.empty }
    0 [(Fld.sysBootStage, stageReady), (Fld.sysChaseState, csLoaded), (Fld.impQKey, 1)]

theorem mismarkedSlot_serves : mismarkedSlot.serves 7 := ⟨⟨by decide +kernel, by decide +kernel⟩, by decide +kernel⟩

theorem mismarkedSlot_asked : mismarkedSlot.askedDecl (2 ^ 15) = some trainableDecl := by decide +kernel

theorem mismarkedSlot_galley : mismarkedSlot.galley 0 (gdId trainableDecl) = some mismarkedGalley := by decide +kernel

/-- The query of slug 1 finds no row on this member and no guest copy. -/
theorem mismarkedSlot_answer : ∃ t, exec (.impQuery 7 (2 ^ 15)) mismarkedSlot = .next t ∧ t.rd .impQueryResult 0 = 0 :=
  exec_impQuery_of_elsewhere (by decide +kernel) mismarkedSlot_serves (by decide) mismarkedSlot_asked mismarkedSlot_galley
    (by decide +kernel) (by decide +kernel)

/-- Refutes O24: a canonical state may hold a galley as sharded whose declaration is replicated. IMP_QUERY goes by the galley's own
mark and answers zero for another member's slug, where the statement goes by the declaration and asks for a valid answer. -/
theorem not_queriesAnswerPlacementAndMarks : ¬ Obligations.QueriesAnswerPlacementAndMarks := by
  unfold Obligations.QueriesAnswerPlacementAndMarks
  rintro ⟨hquery, -⟩
  obtain ⟨t, hexec, -, -, -, -, -, -, -, -, -, hslug⟩ := hquery 7 (2 ^ 15) mismarkedSlot (by decide +kernel) mismarkedSlot_serves
  obtain ⟨-, hinside⟩ := hslug (by decide) (by decide +kernel) trainableDecl mismarkedGalley mismarkedSlot_asked mismarkedSlot_galley
  obtain ⟨hlocal, -⟩ := hinside (by decide +kernel)
  obtain ⟨hserved, -⟩ := hlocal (.inl (by decide))
  obtain ⟨hvalid, -⟩ := hserved (by decide)
  obtain ⟨u, hu, hzero⟩ := mismarkedSlot_answer
  obtain rfl : t = u := Host.Outcome.next.inj (hexec.symm.trans hu)
  have hnot : t.getF Fld.impRValid 0 = 0 := congrArg (bitsOf · 62 62) hzero
  omega

end Sys2Proof.Machine
end

section
/-! PROOF. SIGNAL and TAKE through MRK_SIGNAL: what they leave of the mark, of MRK_FAULT and of every other mark's count, and
the operations that are refused or stale (R531 to R535, R559, R567). -/

namespace Sys2Proof.Machine

variable {q : List Instr}

/-! ### Serving a mark without waits, and recording a mark fault -/

/-- Serving a mark without waits stores MRK_WAITERS and wakes nothing (R536). -/
theorem State.serveMark_of_quiet {s : State} {n : Nat} (hquiet : (s.mark n).waits = []) :
    s.serveMark n = (s.updMark n fun m => { m with waits := [] }).postWaiters n := by
  unfold State.serveMark
  extract_lets b p now s1 s2
  have hs1 : s1 = s.updMark n fun m => { m with waits := [] } := by simp only [s1, State.updMark, hquiet, List.filter_nil]
  have hs2 : s2 = s1 := by simp only [s2, now, hquiet, List.filter_nil, List.foldl_nil]
  have hwaits : (s2.mark n).waits = [] := by rw [hs2, hs1, State.mark_updMark, if_pos rfl]
  rw [hwaits, hs2, hs1]
  exact congrArg (fun u : State => u.postWaiters n) (ite_self _)

/-- Serving a mark without waits leaves every field but MRK_WAITERS of that mark. -/
theorem State.getF_serveMark_of_quiet {s : State} (h : s.Sound q) {n : Nat} (hquiet : (s.mark n).waits = []) {f : Field} {j : Nat}
    (hj : j < f.reg.info.count) (hf : f.apart j Fld.mrkWaiters n) : (s.serveMark n).getF f j = s.getF f j := by
  rw [State.serveMark_of_quiet hquiet]
  exact (State.getF_setF_apart (State.updMark_sound h) (by decide) hj hf).trans (State.updMark_getF ..)

/-- A mark fault leaves the counts and the states of the marks (R535). -/
theorem State.getF_markFault {s : State} (h : s.Sound q) {f : Field} (hf : f.reg = .mrkCount ∨ f.reg = .mrkState) {j : Nat}
    (hj : j < f.reg.info.count) (c code mark count : Nat) : (s.markFault c code mark count).getF f j = s.getF f j := by
  have hframe : State.Frame (maskBut [.mrkCount, .mrkState] []) s (s.markFault c code mark count) := State.markFault_frame h.frame rfl
  refine State.getF_of_frame hframe hj ?_
  rcases hf with hf | hf
  · rw [hf]; rfl
  · rw [hf]; rfl

/-- A mark fault records its code, the mark and the count in MRK_FAULT; that the chase then faults changes none of them (R535). -/
theorem State.markFault_records {s : State} (h : s.Sound q) {c code mark count : Nat} (hc : c < 16) (hcode : code < 2 ^ 8)
    (hmark : mark < 2 ^ 14) (hcount : count < 2 ^ 32) :
    (s.markFault c code mark count).getF Fld.mrkFCode c = code ∧ (s.markFault c code mark count).getF Fld.mrkFMark c = mark ∧
      (s.markFault c code mark count).getF Fld.mrkFCount c = count := by
  unfold State.markFault
  generalize hl : [(Fld.mrkFCode, code), (Fld.mrkFMark, mark), (Fld.mrkFCount, count)] = l
  have hframe : State.Frame (maskBut [.mrkFault] []) (s.setFs c l) ((s.setFs c l).faultChase c code) :=
    State.faultChase_frame (State.setFs_sound h).frame rfl
  refine ⟨(State.getF_of_frame hframe hc rfl).trans ?_, (State.getF_of_frame hframe hc rfl).trans ?_,
    (State.getF_of_frame hframe hc rfl).trans ?_⟩
  · exact (State.getF_setFs h ⟨by decide, by decide, hc⟩ [] _ hl.symm rfl).trans (Nat.mod_eq_of_lt hcode)
  · exact (State.getF_setFs h ⟨by decide, by decide, hc⟩ [_] _ hl.symm rfl).trans (Nat.mod_eq_of_lt hmark)
  · exact (State.getF_setFs h ⟨by decide, by decide, hc⟩ [_, _] _ hl.symm rfl).trans (Nat.mod_eq_of_lt hcount)

/-! ### A count that is stored, and one that saturates -/

/-- `t` has the count that `s` has of every mark but `n`. -/
def State.CountsElsewhere (n : Nat) (s t : State) : Prop :=
  ∀ k, k < 2 ^ 14 → k ≠ n → t.getF Fld.mrkCount k = s.getF Fld.mrkCount k

theorem State.CountsElsewhere.trans {n : Nat} {s t u : State} (h1 : State.CountsElsewhere n s t) (h2 : State.CountsElsewhere n t u) :
    State.CountsElsewhere n s u :=
  fun k hk hne => (h2 k hk hne).trans (h1 k hk hne)

/-- One bit of MRK_STATE above MRK_WAITERS. -/
structure Field.MarkBit (f : Field) : Prop where
  reg : f.reg = .mrkState
  laid : f.lo ≤ f.hi + 1 ∧ f.hi < 64
  single : f.hi + 1 - f.lo = 1
  above : Fld.mrkWaiters.hi < f.lo

theorem mrkSatHi_markBit : Fld.mrkSatHi.MarkBit := ⟨rfl, by decide, rfl, by decide⟩
theorem mrkSatLo_markBit : Fld.mrkSatLo.MarkBit := ⟨rfl, by decide, rfl, by decide⟩

/-- The count of a mark set to its limit or to 0, and the bit that says so (R532 to R534). -/
def State.limited (s : State) (sat : Field) (n v : Nat) : State := (s.setF Fld.mrkCount n v).setF sat n 1

/-- A mark that is limited, with the fault of its slot and its waits served (R535, R536). -/
def State.saturated (s : State) (sat : Field) (code n v : Nat) : State :=
  ((s.limited sat n v).markFault (s.getF Fld.mrkSlot n) code n (s.getF Fld.mrkCount n)).serveMark n

section
variable {s : State} (h : s.Sound q) {n : Nat}
include h

theorem State.setCount_elsewhere (v : Nat) : State.CountsElsewhere n s (s.setF Fld.mrkCount n v) :=
  fun _ hk hne => State.getF_setF_apart h (by decide) hk (.inr (.inl hne))

theorem State.countServed_elsewhere (hquiet : (s.mark n).waits = []) (v : Nat) :
    State.CountsElsewhere n s ((s.setF Fld.mrkCount n v).serveMark n) := by
  have hstill : ((s.setF Fld.mrkCount n v).mark n).waits = [] := by rw [State.mark_congr (State.setF_marks ..) n]; exact hquiet
  refine (State.setCount_elsewhere h v).trans fun k hk _ => ?_
  exact State.getF_serveMark_of_quiet (State.setF_sound h) hstill hk (.inl (by decide))

theorem State.limited_sound {sat : Field} {v : Nat} : (s.limited sat n v).Sound q := State.setF_sound (State.setF_sound h)

/-- Serving the waits of a limited mark, of which there are none, leaves every field but MRK_WAITERS. -/
theorem State.getF_saturated (hn : n < 2 ^ 14) (hquiet : (s.mark n).waits = []) (sat : Field) (code v : Nat) {f : Field} {j : Nat}
    (hj : j < f.reg.info.count) (hf : f.apart j Fld.mrkWaiters n) :
    (s.saturated sat code n v).getF f j =
      ((s.limited sat n v).markFault (s.getF Fld.mrkSlot n) code n (s.getF Fld.mrkCount n)).getF f j := by
  have hlimited : (s.limited sat n v).Sound q := State.limited_sound h
  have hmark : (s.limited sat n v).mark n = s.mark n := State.mark_congr ((State.setF_marks ..).trans (State.setF_marks ..)) n
  have hstays := State.markFault_stays hlimited hn (s.getF Fld.mrkSlot n) code n (s.getF Fld.mrkCount n)
  exact State.getF_serveMark_of_quiet (State.markFault_sound hlimited) (hstays.quiet (by rw [hmark]; exact hquiet)) hj hf

/-- MRK_FAULT of a saturated mark: its code, the mark and the count before (R535). -/
theorem State.saturated_faults (hn : n < 2 ^ 14) (hquiet : (s.mark n).waits = []) (sat : Field) {code : Nat} (v : Nat)
    (hcode : code < 2 ^ 8) : (s.saturated sat code n v).markFaulted s n code := by
  have hslot : s.getF Fld.mrkSlot n < 16 := State.getF_lt ..
  obtain ⟨hfcode, hfmark, hfcount⟩ := State.markFault_records (s := s.limited sat n v) (State.limited_sound h) hslot
    hcode hn (State.getF_lt s Fld.mrkCount n)
  exact ⟨(State.getF_saturated h hn hquiet sat code v hslot (.inl (by decide))).trans hfcode,
    (State.getF_saturated h hn hquiet sat code v hslot (.inl (by decide))).trans hfmark,
    (State.getF_saturated h hn hquiet sat code v hslot (.inl (by decide))).trans hfcount⟩

variable {sat : Field} (hsat : sat.MarkBit)
include hsat

theorem State.getF_limited_count {v k : Nat} (hk : k < 2 ^ 14) :
    (s.limited sat n v).getF Fld.mrkCount k = (s.setF Fld.mrkCount n v).getF Fld.mrkCount k :=
  State.getF_setF_apart (State.setF_sound h) hsat.laid hk (.inl (by rw [hsat.reg]; decide))

variable (hn : n < 2 ^ 14) (hquiet : (s.mark n).waits = []) (code v : Nat)
include hn hquiet

/-- The counts that saturation leaves are those that limiting leaves. -/
theorem State.saturated_counts {k : Nat} (hk : k < 2 ^ 14) :
    (s.saturated sat code n v).getF Fld.mrkCount k = (s.setF Fld.mrkCount n v).getF Fld.mrkCount k := by
  rw [State.getF_saturated h hn hquiet sat code v hk (.inl (by decide)),
    State.getF_markFault (State.limited_sound h) (.inl rfl) hk, State.getF_limited_count h hsat hk]

theorem State.saturated_elsewhere : State.CountsElsewhere n s (s.saturated sat code n v) :=
  fun k hk hne => (State.saturated_counts h hsat hn hquiet code v hk).trans (State.setCount_elsewhere h v k hk hne)

theorem State.saturated_flag : (s.saturated sat code n v).flag sat n = true := by
  have hplace : n < sat.reg.info.count := by rw [hsat.reg]; exact hn
  have hone : (s.limited sat n v).getF sat n = 1 := by
    rw [State.limited, State.getF_setF (State.setF_sound h) ⟨hsat.laid.1, hsat.laid.2, hplace⟩, hsat.single, Nat.pow_one]
  rw [State.flag, State.getF_saturated h hn hquiet sat code v hplace (.inr (.inr (.inr hsat.above))),
    State.getF_markFault (State.limited_sound h) (.inr hsat.reg) hplace, hone]
  rfl

end

/-! ### A barrier mark whose target is reached -/

/-- A barrier mark whose sense flips (R534). -/
def State.flipped (s : State) (n : Nat) : State :=
  (s.setF Fld.mrkSense n (1 - s.getF Fld.mrkSense n)).updMark n fun m => { m with flips := m.flips + 1 }

section
variable {s : State} (h : s.Sound q) (n : Nat)
include h

theorem State.getF_flipped {f : Field} {j : Nat} (hj : j < f.reg.info.count) (hf : f.apart j Fld.mrkSense n) :
    (s.flipped n).getF f j = s.getF f j := by
  rw [State.flipped, State.updMark_getF, State.getF_setF_apart h (by decide) hj hf]

theorem State.flipped_elsewhere : State.CountsElsewhere n s (s.flipped n) :=
  fun _ hk _ => State.getF_flipped h n hk (.inl (by decide))

theorem State.flipped_quiet (hn : n < 2 ^ 14) (hquiet : (s.mark n).waits = []) :
    (s.flipped n).Sound q ∧ ((s.flipped n).mark n).waits = [] := by
  obtain ⟨hsound, -, hmark⟩ := State.flipped_mark h hn
  exact ⟨hsound, by rw [State.flipped, hmark]; exact hquiet⟩

end

/-! ### SIGNAL and TAKE by the case of the mark -/

section
variable {s : State} {n a : Nat}

/-- A counting mark takes a signal up to its limit (R532). -/
theorem State.signalMark_of_counting (hbar : s.flag Fld.mrkBarrier n = false)
    (hle : s.getF Fld.mrkCount n + a ≤ markLimit (s.getF Fld.mrkTarget n)) :
    s.signalMark n a = (s.setF Fld.mrkCount n (s.getF Fld.mrkCount n + a)).serveMark n := by
  simp [State.signalMark, State.markBarrier, State.markCount, State.markTarget, hbar, hle]

theorem State.signalMark_of_counting_beyond (hbar : s.flag Fld.mrkBarrier n = false)
    (hgt : markLimit (s.getF Fld.mrkTarget n) < s.getF Fld.mrkCount n + a) :
    s.signalMark n a = s.saturated Fld.mrkSatHi fMarkOverflow n (markLimit (s.getF Fld.mrkTarget n)) := by
  simp [State.signalMark, State.markBarrier, State.markCount, State.markTarget, State.saturated, State.limited, hbar, Nat.not_le.2 hgt]

/-- An arrival short of the target of a barrier mark (R534). -/
theorem State.signalMark_of_barrier (hbar : s.flag Fld.mrkBarrier n = true)
    (hlt : s.getF Fld.mrkCount n + a < s.getF Fld.mrkTarget n) :
    s.signalMark n a = (s.setF Fld.mrkCount n (s.getF Fld.mrkCount n + a)).serveMark n := by
  simp [State.signalMark, State.markBarrier, State.markCount, State.markTarget, hbar, hlt]

theorem State.signalMark_of_reached (hbar : s.flag Fld.mrkBarrier n = true)
    (hge : s.getF Fld.mrkTarget n ≤ s.getF Fld.mrkCount n + a)
    (hlt : s.getF Fld.mrkCount n + a - s.getF Fld.mrkTarget n < s.getF Fld.mrkTarget n) :
    s.signalMark n a =
      ((s.flipped n).setF Fld.mrkCount n (s.getF Fld.mrkCount n + a - s.getF Fld.mrkTarget n)).serveMark n := by
  simp [State.signalMark, State.markBarrier, State.markCount, State.markTarget, State.flipped, hbar, Nat.not_lt.2 hge, hlt]

/-- An arrival that leaves a target or more beyond the flip: the count stays one below the target (R534). -/
theorem State.signalMark_of_reached_beyond (h : s.Sound q) (hn : n < 2 ^ 14) (hbar : s.flag Fld.mrkBarrier n = true)
    (hge : s.getF Fld.mrkTarget n ≤ s.getF Fld.mrkCount n + a)
    (hgt : s.getF Fld.mrkTarget n ≤ s.getF Fld.mrkCount n + a - s.getF Fld.mrkTarget n) :
    s.signalMark n a = (s.flipped n).saturated Fld.mrkSatHi fMarkOverflow n (s.getF Fld.mrkTarget n - 1) := by
  rw [State.saturated, State.getF_flipped h n (f := Fld.mrkSlot) hn (.inr (.inr (.inl (by decide)))),
    State.getF_flipped h n (f := Fld.mrkCount) hn (.inl (by decide))]
  simp [State.signalMark, State.markBarrier, State.markCount, State.markTarget, State.flipped, State.limited, hbar, Nat.not_lt.2 hge,
    Nat.not_lt.2 hgt]

theorem State.takeMark_of_le (hle : a ≤ s.getF Fld.mrkCount n) :
    s.takeMark n a = (s.setF Fld.mrkCount n (s.getF Fld.mrkCount n - a)).serveMark n := by
  simp [State.takeMark, State.markCount, hle]

theorem State.takeMark_of_lt (hlt : s.getF Fld.mrkCount n < a) :
    s.takeMark n a = s.saturated Fld.mrkSatLo fMarkUnderflow n 0 := by
  simp [State.takeMark, State.markCount, State.saturated, State.limited, Nat.not_le.2 hlt]

end

section
variable {s : State} (h : s.Sound q) {n : Nat} (hn : n < 2 ^ 14) (hquiet : (s.mark n).waits = [])
include h hn hquiet

/-- A counting mark beyond its limit (R532, R535). -/
theorem State.signalMark_overflows {a : Nat} (hbar : s.flag Fld.mrkBarrier n = false)
    (hgt : markLimit (s.getF Fld.mrkTarget n) < s.getF Fld.mrkCount n + a) :
    (s.signalMark n a).flag Fld.mrkSatHi n = true ∧ (s.signalMark n a).markFaulted s n fMarkOverflow ∧
      State.CountsElsewhere n s (s.signalMark n a) := by
  rw [State.signalMark_of_counting_beyond hbar hgt]
  exact ⟨State.saturated_flag h mrkSatHi_markBit hn hquiet .., State.saturated_faults h hn hquiet _ _ (by decide),
    State.saturated_elsewhere h mrkSatHi_markBit hn hquiet _ _⟩

/-- A barrier mark that keeps a target or more after its flip (R534, R535). -/
theorem State.signalMark_overflows_flipped {a : Nat} (hbar : s.flag Fld.mrkBarrier n = true)
    (hge : s.getF Fld.mrkTarget n ≤ s.getF Fld.mrkCount n + a)
    (hgt : s.getF Fld.mrkTarget n ≤ s.getF Fld.mrkCount n + a - s.getF Fld.mrkTarget n) :
    (s.signalMark n a).flag Fld.mrkSatHi n = true ∧ (s.signalMark n a).markFaulted s n fMarkOverflow ∧
      State.CountsElsewhere n s (s.signalMark n a) := by
  obtain ⟨hsound, hstill⟩ := State.flipped_quiet h n hn hquiet
  have hfault := State.saturated_faults hsound hn hstill Fld.mrkSatHi (code := fMarkOverflow) (s.getF Fld.mrkTarget n - 1) (by decide)
  rw [State.markFaulted, State.getF_flipped h n (f := Fld.mrkSlot) hn (.inr (.inr (.inl (by decide)))),
    State.getF_flipped h n (f := Fld.mrkCount) hn (.inl (by decide))] at hfault
  rw [State.signalMark_of_reached_beyond h hn hbar hge hgt]
  exact ⟨State.saturated_flag hsound mrkSatHi_markBit hn hstill .., hfault,
    (State.flipped_elsewhere h n).trans (State.saturated_elsewhere hsound mrkSatHi_markBit hn hstill _ _)⟩

/-- A signal moves no other mark's count. -/
theorem State.signalMark_elsewhere (a : Nat) : State.CountsElsewhere n s (s.signalMark n a) := by
  cases hbar : s.flag Fld.mrkBarrier n with
  | false =>
    rcases Nat.lt_or_ge (markLimit (s.getF Fld.mrkTarget n)) (s.getF Fld.mrkCount n + a) with hgt | hle
    · obtain ⟨-, -, helse⟩ := State.signalMark_overflows h hn hquiet hbar hgt
      exact helse
    · rw [State.signalMark_of_counting hbar hle]
      exact State.countServed_elsewhere h hquiet _
  | true =>
    rcases Nat.lt_or_ge (s.getF Fld.mrkCount n + a) (s.getF Fld.mrkTarget n) with hlt | hge
    · rw [State.signalMark_of_barrier hbar hlt]
      exact State.countServed_elsewhere h hquiet _
    · rcases Nat.lt_or_ge (s.getF Fld.mrkCount n + a - s.getF Fld.mrkTarget n) (s.getF Fld.mrkTarget n) with hfits | hgt
      · obtain ⟨hsound, hstill⟩ := State.flipped_quiet h n hn hquiet
        rw [State.signalMark_of_reached hbar hge hfits]
        exact (State.flipped_elsewhere h n).trans (State.countServed_elsewhere hsound hstill _)
      · obtain ⟨-, -, helse⟩ := State.signalMark_overflows_flipped h hn hquiet hbar hge hgt
        exact helse

/-- TAKE subtracts down to 0; a larger amount is reported (R533, R535). -/
theorem State.takeMark_takes (a : Nat) : (s.takeMark n a).getF Fld.mrkCount n = s.getF Fld.mrkCount n - a ∧
    State.CountsElsewhere n s (s.takeMark n a) ∧
    (s.getF Fld.mrkCount n < a → (s.takeMark n a).flag Fld.mrkSatLo n = true ∧ (s.takeMark n a).markFaulted s n fMarkUnderflow) := by
  rcases Nat.lt_or_ge (s.getF Fld.mrkCount n) a with hlt | hle
  · rw [State.takeMark_of_lt hlt, State.saturated_counts h mrkSatLo_markBit hn hquiet _ _ hn, Nat.sub_eq_zero_of_le (Nat.le_of_lt hlt)]
    exact ⟨(State.setCount_mark h hn (by decide)).1, State.saturated_elsewhere h mrkSatLo_markBit hn hquiet _ _, fun _ =>
      ⟨State.saturated_flag h mrkSatLo_markBit hn hquiet .., State.saturated_faults h hn hquiet _ _ (by decide)⟩⟩
  · have hfits : s.getF Fld.mrkCount n - a < 2 ^ 32 := Nat.lt_of_le_of_lt (Nat.sub_le ..) (State.getF_lt ..)
    rw [State.takeMark_of_le hle]
    exact ⟨(State.countServed h hn hquiet hfits).1, State.countServed_elsewhere h hquiet _, fun hlt => absurd hlt (Nat.not_lt.2 hle)⟩

end

/-! ### An operation through MRK_SIGNAL -/

theorem exec_signal {s : State} {rid : Nat} (h : s.serves rid) (n a : Nat) : exec (.signal rid n a) s = .next (s.markOp 0 n a) :=
  congrArg Host.Outcome.next ((State.hostWrite_of_hears h.1 _).trans (if_pos h.2))

theorem exec_take {s : State} {rid : Nat} (h : s.serves rid) (n a : Nat) : exec (.take rid n a) s = .next (s.markOp 1 n a) :=
  congrArg Host.Outcome.next ((State.hostWrite_of_hears h.1 _).trans (if_pos h.2))

section
variable {s : State} {op n a : Nat}

/-- What R567 refuses: no valid mark, no amount, or a TAKE of a barrier mark. -/
theorem State.markOp_of_refused
    (hbad : s.flag Fld.mrkValid n = false ∨ a = 0 ∨ (op = 1 ∧ s.flag Fld.mrkBarrier n = true)) :
    s.markOp op n a = s.bump Fld.mrkSigRefused 0 1 := by
  refine if_pos ?_
  rcases hbad with hvalid | rfl | ⟨rfl, hbar⟩
  · simp [State.markValid, hvalid]
  · simp
  · simp [State.markBarrier, hbar]

/-- An operation that is not refused acts where the context of its mark is active, and else is stale (R559). -/
theorem State.markOp_of_accepted (hvalid : s.flag Fld.mrkValid n = true) (ha : a ≠ 0) (hop : op < 2)
    (hbar : ¬ (op = 1 ∧ s.flag Fld.mrkBarrier n = true)) :
    s.markOp op n a =
      if s.getF Fld.mrkCtx n = s.getF Fld.mrkActiveCtx (s.getF Fld.mrkSlot n) then
        if op = 0 then s.signalMark n a else s.takeMark n a
      else s.bump Fld.mrkStale (s.getF Fld.mrkSlot n) 1 := by
  have hgood : ¬ (!s.markValid n || a == 0 || decide (2 ≤ op) || (op == 1 && s.markBarrier n)) = true := by
    simpa [State.markValid, State.markBarrier, hvalid, ha, hop] using hbar
  rw [State.markOp, if_neg hgood]
  simp only [bne_iff_ne, ne_eq, ite_not]
  rfl

end

/-- Settles O30: by the case of the mark, each operation stores the count or saturates it; what R567 refuses and what is stale only
counts. -/
theorem signalAndTakeMoveCounts : Obligations.SignalAndTakeMoveCounts := by
  unfold Obligations.SignalAndTakeMoveCounts
  refine ⟨fun rid n a s hs hserves hn ha hvalid hctx hquiet => ⟨?_, fun hcounting => ?_⟩, fun rid n a c s hs hserves hn hc => ?_⟩
  · have hsound := State.sound_of_canonical hs
    have hop : s.markOp 0 n a = s.signalMark n a :=
      (State.markOp_of_accepted hvalid ha (by decide) (by simp)).trans ((if_pos hctx).trans (if_pos rfl))
    refine ⟨s.signalMark n a, by rw [exec_signal hserves, hop], State.signalMark_signalled hsound hn hquiet a,
      State.signalMark_elsewhere hsound hn hquiet a, fun hbar hgt => ?_, fun hbar hgt hge => ?_⟩
    · obtain ⟨hbit, hfault, -⟩ := State.signalMark_overflows hsound hn hquiet hbar hgt
      exact ⟨hbit, hfault⟩
    · obtain ⟨hbit, hfault, -⟩ := State.signalMark_overflows_flipped hsound hn hquiet hbar hge hgt
      exact ⟨hbit, hfault⟩
  · have hop : s.markOp 1 n a = s.takeMark n a :=
      (State.markOp_of_accepted hvalid ha (by decide) (by simp [hcounting])).trans ((if_pos hctx).trans (if_neg Nat.one_ne_zero))
    exact ⟨s.takeMark n a, by rw [exec_take hserves, hop], State.takeMark_takes (State.sound_of_canonical hs) hn hquiet a⟩
  · have hsound := State.sound_of_canonical hs
    have hslot : s.getF Fld.mrkSlot n < 16 := State.getF_lt ..
    obtain ⟨op, hop, hexec, htake⟩ : ∃ op, op < 2 ∧ exec c s = .next (s.markOp op n a) ∧ (op = 1 ↔ c = .take rid n a) := by
      rcases hc with rfl | rfl
      · exact ⟨0, by decide, exec_signal hserves n a, by simp⟩
      · exact ⟨1, by decide, exec_take hserves n a, by simp⟩
    rw [hexec, ← htake]
    refine ⟨fun hbad => ⟨_, congrArg Host.Outcome.next (State.markOp_of_refused hbad), State.setF_sameBut hsound.rise .., ?_⟩,
      fun hvalid ha hbar hctx => ⟨_, congrArg Host.Outcome.next
        ((State.markOp_of_accepted hvalid ha hop hbar).trans (if_neg hctx)), State.setF_sameBut hsound.rise .., ?_⟩⟩
    · exact State.getF_bump_one hsound ⟨by decide, by decide, by decide⟩ rfl
    · exact State.getF_bump_saturates hsound ⟨by decide, by decide, hslot⟩ (by decide)

end Sys2Proof.Machine
end

section
/-! PROOF. A refused DBG_MARK_SET answers in DBG_MARK_STATUS (R565). -/

namespace Sys2Proof.Machine

theorem exec_dbgMarkSet {s : State} {rid : Nat} (h : s.serves rid) (value : Nat) :
    exec (.dbgMarkSet rid value) s = .next (s.handSet value) :=
  congrArg Host.Outcome.next ((State.hostWrite_of_hears h.1 _).trans (if_pos h.2))

/-- A SET by hand of a mark that is not valid shows REFUSED and stores nothing else (R565). -/
theorem State.handSet_of_invalid {s : State} {value : Nat} (h : s.flag Fld.mrkValid (bitsOf value 45 32) = false) :
    s.handSet value = s.setF Fld.dbgMsStatus 0 1 := by
  simp [State.handSet, State.markValid, h]

/-- The block in READY with requester 7 in the host set, and no mark valid. -/
def unmarkedReady : State :=
  State.setFs { State.reset with
      pw := { State.reset.pw with held := false, pcieUp := true }
      host := { State.reset.host with hostSet := [7] } } 0 [(Fld.sysBootStage, stageReady)]

theorem unmarkedReady_serves : unmarkedReady.serves 7 := ⟨⟨by decide +kernel, by decide +kernel⟩, by decide +kernel⟩

/-- The block refuses a SET of mark 0. -/
theorem unmarkedReady_refuses : exec (.dbgMarkSet 7 0) unmarkedReady = .next (unmarkedReady.setF Fld.dbgMsStatus 0 1) := by
  rw [exec_dbgMarkSet unmarkedReady_serves, State.handSet_of_invalid (by decide +kernel)]

/-- The refusal takes DBG_MARK_STATUS from 0 to REFUSED. -/
theorem unmarkedReady_status : unmarkedReady.rd .dbgMarkStatus 0 = 0 ∧
    (unmarkedReady.setF Fld.dbgMsStatus 0 1).rd .dbgMarkStatus 0 = 2 ^ 62 := by decide +kernel

/-- Refutes O31: a refused DBG_MARK_SET shows REFUSED in DBG_MARK_STATUS, a register of its own. The statement lets only the register
DBG_MARK_SET change, so that DBG_MARK_STATUS would have to keep its word of 0. -/
theorem not_handSetsLoansAndDeadlocks : ¬ Obligations.HandSetsLoansAndDeadlocks := by
  unfold Obligations.HandSetsLoansAndDeadlocks
  rintro ⟨hset, -⟩
  obtain ⟨-, hrefused⟩ := hset 7 0 unmarkedReady (by decide +kernel) unmarkedReady_serves
  obtain ⟨t, hexec, -, hsame⟩ := hrefused (.inl (by decide +kernel))
  obtain rfl : t = unmarkedReady.setF Fld.dbgMsStatus 0 1 := Host.Outcome.next.inj (hexec.symm.trans unmarkedReady_refuses)
  obtain ⟨-, hregs, -⟩ := hsame
  obtain ⟨hbefore, hafter⟩ := unmarkedReady_status
  have hkept := hregs .dbgMarkStatus (by simp) 0 (by decide)
  rw [hbefore, hafter] at hkept
  exact absurd hkept (by decide)

end Sys2Proof.Machine
end

section
/-! PROOF. The Ethernet ports: what a port answers, drops and takes up (R627 to R631). -/

namespace Sys2Proof.Machine

variable {q : List Instr}

/-! ### A frame on its way out -/

section
variable {s : State} {p vlan etype : Nat}

/-- A frame that its port sends goes out as it is. -/
theorem State.transmit_of_sends (h : s.portSends p vlan etype) (o : Out) : s.transmit p vlan etype o = s.emit o := by
  obtain ⟨hup, hmac, hok, hcap⟩ := h
  simp [State.transmit, hup, hmac, hok, hcap]

/-- A frame that the egress filter stops is counted and does not go out (R631). -/
theorem State.transmit_of_stopped (hup : s.portUp p = true) (hmac : s.portMac p ≠ 0) (hstop : s.egressOk p vlan etype = false)
    (o : Out) : s.transmit p vlan etype o = s.bump Fld.ethFltDrops p 1 := by
  simp [State.transmit, hup, hmac, hstop]

theorem State.transmit_sameBut (h : keysRise s.regs) (o : Out) :
    State.SameBut [.ethPortDrops] [.out] s (s.transmit p vlan etype o) :=
  (State.transmit_frame (State.Frame.refl h) (Nat.or_self _)).sameBut (by rfl)

theorem State.lt_of_portUp (hup : s.portUp p = true) : p < 4 := by
  simp only [State.portUp, Bool.and_eq_true, decide_eq_true_eq] at hup
  exact hup.1.2

theorem State.isUp_of_portUp (hup : s.portUp p = true) : s.isUp = true := by
  simp only [State.portUp, Bool.and_eq_true] at hup
  exact hup.1.1

/-- A received frame that is dropped is counted, and nothing else changes (R629). -/
theorem State.rxDrop_drops (h : s.Sound q) (hp : p < 4) : State.SameBut [.ethPortDrops] [] s (s.rxDrop p) ∧
    (s.rxDrop p).getF Fld.ethRxDrops p = min (s.getF Fld.ethRxDrops p + 1) (2 ^ 32 - 1) ∧
    (s.rxDrop p).getF Fld.ethFltDrops p = s.getF Fld.ethFltDrops p :=
  ⟨State.setF_sameBut h.rise .., State.getF_bump_one h ⟨by decide, by decide, hp⟩ rfl,
    State.getF_bump_apart h (by decide) hp (.inr (.inr (.inl (by decide))))⟩

end

/-! ### ARP, NEIGHBOUR_DISCOVERY and OTHER_FRAME -/

section
variable {s : State} {f : AskFrame}

theorem exec_arp (hup : s.portUp f.port = true) : exec (.arp f) s = .next
    (if frameOk f.bytes f.tags = true ∧ f.target ≠ 0 ∧ f.target = s.getF Fld.ethIp4 f.port then
      s.transmit f.port 0xFFFF 0x0806 (.addrReply f.port f.target (s.getF Fld.ethMac f.port) f.srcMac)
    else s.rxDrop f.port) := by
  refine congrArg Host.Outcome.next ((State.ifB_true hup _).trans ?_)
  simp only [Bool.and_eq_true, bne_iff_ne, beq_iff_eq, and_assoc, eq_comm (a := f.target) (b := s.getF Fld.ethIp4 f.port)]
  rfl

/-- The IPv6 addresses of a port: its own, and the link-local one of its MAC address (R630). -/
def State.hasIp6 (s : State) (p target : Nat) : Prop :=
  target = s.getF Fld.ethIp6Hi p * 2 ^ 64 + s.getF Fld.ethIp6Lo p ∨ (s.getF Fld.ethMac p ≠ 0 ∧ target = linkLocal (s.getF Fld.ethMac p))

theorem exec_neighbourDiscovery_of_mine (hup : s.portUp f.port = true) (hok : frameOk f.bytes f.tags = true) (hset : f.target ≠ 0)
    (hmine : s.hasIp6 f.port f.target) : exec (.neighbourDiscovery f) s = .next
      (s.transmit f.port 0xFFFF 0x86DD (.addrReply f.port f.target (s.getF Fld.ethMac f.port) f.srcMac)) := by
  refine congrArg Host.Outcome.next ((State.ifB_true hup _).trans (if_pos ?_))
  simp only [State.portIp6, State.portMac, Bool.and_eq_true, Bool.or_eq_true, bne_iff_ne, beq_iff_eq]
  exact ⟨⟨hok, hset⟩, hmine.imp Eq.symm (And.imp_right Eq.symm)⟩

theorem exec_neighbourDiscovery_of_other (hup : s.portUp f.port = true)
    (hnot : ¬ (frameOk f.bytes f.tags = true ∧ f.target ≠ 0 ∧ s.hasIp6 f.port f.target)) :
    exec (.neighbourDiscovery f) s = .next (s.rxDrop f.port) := by
  refine congrArg Host.Outcome.next ((State.ifB_true hup _).trans (if_neg ?_))
  simp only [State.portIp6, State.portMac, Bool.and_eq_true, Bool.or_eq_true, bne_iff_ne, beq_iff_eq]
  rintro ⟨⟨hok, hset⟩, hmine⟩
  exact hnot ⟨hok, hset, hmine.imp Eq.symm (And.imp_right Eq.symm)⟩

theorem exec_otherFrame {e : EthFrame} (hup : s.portUp e.port = true) :
    exec (.otherFrame e) s = .next (if s.pfcTakes e = true then s else s.rxDrop e.port) := by
  cases htakes : s.pfcTakes e with
  | true => exact congrArg Host.Outcome.next (State.ifB_false (by simp [htakes]) _)
  | false => exact congrArg Host.Outcome.next (State.ifB_true (by simp [htakes, hup]) _)

/-- A request for an address that is not the port's, and a frame that is no flow control frame, are dropped (R629, R630). -/
theorem exec_dropped {c : Instr} (hup : s.portUp f.port = true)
    (hc : (c = .arp f ∧ (frameOk f.bytes f.tags = false ∨ f.target = 0 ∨ f.target ≠ s.getF Fld.ethIp4 f.port)) ∨
      (c = .neighbourDiscovery f ∧ (frameOk f.bytes f.tags = false ∨ f.target = 0 ∨
        (f.target ≠ s.getF Fld.ethIp6Hi f.port * 2 ^ 64 + s.getF Fld.ethIp6Lo f.port ∧
          (s.getF Fld.ethMac f.port = 0 ∨ f.target ≠ linkLocal (s.getF Fld.ethMac f.port))))) ∨
      (∃ e, c = .otherFrame e ∧ e.port = f.port ∧ s.pfcTakes e = false)) :
    exec c s = .next (s.rxDrop f.port) := by
  rcases hc with ⟨rfl, hno⟩ | ⟨rfl, hno⟩ | ⟨e, rfl, hport, hno⟩
  · rw [exec_arp hup, if_neg]
    rintro ⟨hok, hset, hmine⟩
    exact hno.elim (by simp [hok]) fun hno => hno.elim hset fun hne => hne hmine
  · refine exec_neighbourDiscovery_of_other hup ?_
    rintro ⟨hok, hset, hmine⟩
    simp only [hok, hset, Bool.true_eq_false, false_or] at hno
    rcases hmine with hmine | ⟨hmac, hmine⟩
    · exact hno.1 hmine
    · exact hno.2.elim hmac fun hne => hne hmine
  · rw [exec_otherFrame (by rw [hport]; exact hup), if_neg (by simp [hno]), hport]

end

/-! ### ETH_RETRAIN -/

/-- A port that retrains: the mode in effect is ETH_MODE, and it is up if the link comes up in a mode other than 0 (R627). -/
theorem exec_ethRetrain {s : State} {port : Nat} (hup : s.isUp = true) (hp : port < 4) (up : Bool) :
    exec (.ethRetrain port up) s = .next ((s.setF Fld.ethEffMode port (s.getF Fld.ethMode port)).setF Fld.ethUp port
      (natOfBool (up && decide (s.getF Fld.ethMode port ≠ 0)))) := by
  have hne : (s.getF Fld.ethMode port != 0) = decide (s.getF Fld.ethMode port ≠ 0) := by rw [Bool.eq_iff_iff]; simp
  rw [← hne]
  exact congrArg Host.Outcome.next (State.ifB_true (by simp [hup, hp]) _)

/-- A one-bit field reads as the Boolean that it was set to. -/
theorem State.flag_setF {s : State} {f : Field} {i : Nat} (h : s.Sound q) (hf : f.ok i) (hw : f.hi = f.lo) (b : Bool) :
    (s.setF f i (natOfBool b)).flag f i = b := by
  rw [State.flag, State.getF_setF h hf, hw, Nat.add_sub_cancel_left]
  cases b <;> rfl

theorem State.retrained_fields {s : State} {port : Nat} (h : s.Sound q) (hp : port < 4) (m : Nat) (b : Bool) :
    State.SameBut [.ethPortStatus] [] s ((s.setF Fld.ethEffMode port m).setF Fld.ethUp port (natOfBool b)) ∧
    ((s.setF Fld.ethEffMode port m).setF Fld.ethUp port (natOfBool b)).getF Fld.ethEffMode port = m % 2 ^ 2 ∧
    ((s.setF Fld.ethEffMode port m).setF Fld.ethUp port (natOfBool b)).flag Fld.ethUp port = b ∧
    ((s.setF Fld.ethEffMode port m).setF Fld.ethUp port (natOfBool b)).getF Fld.ethFltRate port = s.getF Fld.ethFltRate port := by
  have hset : (s.setF Fld.ethEffMode port m).Sound q := State.setF_sound h
  refine ⟨(State.setF_sameBut h.rise Fld.ethEffMode port m).trans (State.setF_sameBut hset.rise Fld.ethUp port _), ?_, State.flag_setF hset ⟨by decide, by decide, hp⟩ rfl b, ?_⟩
  · exact (State.getF_setF_apart hset (by decide) hp (.inr (.inr (.inl (by decide))))).trans
      (State.getF_setF h ⟨by decide, by decide, hp⟩)
  · rw [State.getF_setF_apart hset (by decide) hp (.inr (.inr (.inl (by decide)))),
      State.getF_setF_apart h (by decide) hp (.inr (.inr (.inl (by decide))))]

/-- Settles O55: a request for an address of the port is answered through the egress filter, every other frame is dropped and counted, and
a port that retrains takes up its mode. -/
theorem portsAnswerAndRetrain : Obligations.PortsAnswerAndRetrain := by
  unfold Obligations.PortsAnswerAndRetrain
  refine ⟨fun e s _ hup htakes => by rw [exec_otherFrame hup, if_pos htakes], fun f s hs hup => ⟨fun hok hset hmine => ?_,
    fun hok hset hmine => ?_, fun c hc => ?_⟩, fun port up s hs hup hp => ?_⟩
  · have h := State.sound_of_canonical hs
    refine ⟨_, by rw [exec_arp hup, if_pos ⟨hok, hset, hmine⟩], State.transmit_sameBut h.rise _, fun hsends => ?_, fun hmac hstop => ?_⟩
    · rw [State.transmit_of_sends hsends]
      rfl
    · rw [State.transmit_of_stopped hup hmac hstop]
      exact ⟨State.bump_out .., State.getF_bump_one h ⟨by decide, by decide, State.lt_of_portUp hup⟩ rfl⟩
  · refine ⟨_, exec_neighbourDiscovery_of_mine hup hok hset (.inl hmine),
      State.transmit_sameBut (State.sound_of_canonical hs).rise _, fun hsends => ?_⟩
    rw [State.transmit_of_sends hsends]
    rfl
  · exact ⟨_, exec_dropped hup hc, State.rxDrop_drops (State.sound_of_canonical hs) (State.lt_of_portUp hup)⟩
  · have h := State.sound_of_canonical hs
    obtain ⟨hsame, hmode, hflag, hrate⟩ := State.retrained_fields h hp (s.getF Fld.ethMode port) (up && decide (s.getF Fld.ethMode port ≠ 0))
    have hlt : s.getF Fld.ethMode port < 2 ^ 2 := State.getF_lt ..
    exact ⟨_, exec_ethRetrain hup hp up, hmode.trans (Nat.mod_eq_of_lt hlt), hflag, hrate, hsame⟩

end Sys2Proof.Machine
end

section
/-! SUPPORT. Queue pairs: which one a frame reaches, what is sent for it, and what an error or a congestion mark leaves of it (R629, R632,
R637, R638). -/

namespace Sys2Proof.Machine

variable {q : List Instr}

/-! ### Looking up a queue pair -/

theorem State.qp?_congr {s t : State} (h : t.eth = s.eth) (n : Nat) : t.qp? n = s.qp? n := by
  unfold State.qp?; rw [h]

theorem State.qp?_setQp (s : State) (n : Nat) (x : Qp) : (s.setQp n x).qp? n = some x := by
  simp [State.qp?, State.setQp, kvGet_kvPut]

@[simp] theorem State.transmit_eth (s : State) (p v e : Nat) (o : Out) : (s.transmit p v e o).eth = s.eth := by
  unfold State.transmit
  split_ifs <;> simp

@[simp] theorem State.sendFrame_eth (s : State) (x : Qp) (o : Out) : (s.sendFrame x o).eth = s.eth := State.transmit_eth ..

@[simp] theorem State.answer_eth (s : State) (n : Nat) (x : Qp) (psn nak : Nat) : (s.answer n x psn nak).eth = s.eth :=
  State.sendFrame_eth ..

theorem State.validQp_of_hears {s : State} {port n : Nat} {x : Qp} (h : s.qpHears port n x) : s.validQp port n = some x := by
  obtain ⟨-, hfound, hhere, hworking⟩ := h
  simp [State.validQp, hfound, hhere, hworking]

theorem State.validQp_eq_none {s : State} {port n : Nat} (h : ∀ x, s.qp? n = some x → qrPort x.raw ≠ port ∨ x.err = true) :
    s.validQp port n = none := by
  unfold State.validQp
  split
  · next x hx =>
    refine if_neg ?_
    rintro ⟨hport, herr⟩
    exact (h x hx).elim (· hport) fun herr' => by simp [herr] at herr'
  · rfl

/-! ### Frames of a queue pair -/

/-- What decides whether a frame of a port goes out, and at which rate, does not change outside this mask. -/
def portMask : Nat := maskBut [.sysBoot, .ethPortStatus, .ethPortMac, .ethCc] [.pw, .sec]

theorem State.portUp_frame {s t : State} (h : State.Frame portMask s t) {p : Nat} (hp : p < 4) : t.portUp p = s.portUp p := by
  have hpw : t.pw = s.pw := h.parts .pw rfl
  have hstage : t.stage = s.stage := State.getF_of_frame h (by decide) rfl
  have hflag : t.flag Fld.ethUp p = s.flag Fld.ethUp p := by rw [State.flag, State.getF_of_frame h hp rfl]; rfl
  simp only [State.portUp, State.isUp, State.live, hpw, hstage, hflag]

theorem State.portSends_frame {s t : State} (h : State.Frame portMask s t) {p v e : Nat} (hs : s.portSends p v e) :
    t.portSends p v e := by
  obtain ⟨hup, hmac, hok, hcap⟩ := hs
  have hp : p < 4 := State.lt_of_portUp hup
  have hmac' : t.portMac p = s.portMac p := State.getF_of_frame h hp rfl
  have hfence : t.portFence p = s.portFence p := by rw [State.portFence, h.parts .sec rfl]; rfl
  refine ⟨(State.portUp_frame h hp).trans hup, by rwa [hmac'], ?_, by rwa [hfence]⟩
  rwa [State.egressOk, hmac', hfence]

theorem State.qpSends_frame {s t : State} (h : State.Frame portMask s t) {x y : Qp} (hraw : y.raw = x.raw) (hs : s.qpSends x) :
    t.qpSends y := by
  rw [State.qpSends, hraw]
  exact State.portSends_frame h hs

theorem State.qpRate_frame {s t : State} (h : State.Frame portMask s t) {x y : Qp} (hp : qrPort x.raw < 4) (hraw : y.raw = x.raw)
    (hlv : y.lv = x.lv) : t.qpRate y = s.qpRate x := by
  have hmode : t.getF Fld.ethEffMode (qrPort x.raw) = s.getF Fld.ethEffMode (qrPort x.raw) := State.getF_of_frame h hp rfl
  have hmin : t.getF Fld.ethCcMin 0 = s.getF Fld.ethCcMin 0 := State.getF_of_frame h (by decide) rfl
  rw [State.qpRate, State.qpRate, hraw, hlv, hmode, State.roceRate, State.roceRate, hmin]

theorem State.sendFrame_of_sends {s : State} {x : Qp} (h : s.qpSends x) (o : Out) : s.sendFrame x o = s.emit o :=
  State.transmit_of_sends h o

/-- An answer for a queue pair whose frames go out is on its port. -/
theorem State.answer_out {s : State} {x : Qp} (h : s.qpSends x) (n psn nak : Nat) :
    .roceAck (qrPort x.raw) n psn nak ∈ (s.answer n x psn nak).out := by
  rw [State.answer, State.sendFrame_of_sends h]
  exact List.mem_cons_self ..

/-- What a port sends comes before what it has sent. -/
theorem State.transmit_out (s : State) (p v e : Nat) (o : Out) : s.out <:+ (s.transmit p v e o).out := by
  unfold State.transmit
  split_ifs
  · exact List.suffix_refl _
  · rw [State.bump_out]
  · exact List.suffix_refl _
  · exact List.suffix_cons ..

theorem State.answer_sameBut {s : State} (h : keysRise s.regs) (n : Nat) (x : Qp) (psn nak : Nat) :
    State.SameBut [.ethPortDrops] [.out] s (s.answer n x psn nak) := State.transmit_sameBut h _

/-- A counter of `w` bits holds at all ones. -/
theorem State.getF_bump_width {s : State} {f : Field} {i n w : Nat} (h : s.Sound q) (hf : f.ok i) (hle : f.lo ≤ f.hi)
    (hw : f.hi + 1 - f.lo = w) : (s.bump f i n).getF f i = min (s.getF f i + n) (2 ^ w - 1) :=
  hw ▸ State.getF_bump_saturates h hf hle

/-- A frame given to its port changes no field but those that count frames lost. -/
theorem State.sendFrame_getF {s : State} {f : Field} {i : Nat} (h : s.Sound q) (hi : i < f.reg.info.count)
    (hf : f.reg ∉ [RegName.ethPortDrops])
    (x : Qp) (o : Out) : (s.sendFrame x o).getF f i = s.getF f i :=
  (State.transmit_sameBut h.rise o).getF hi hf

/-! ### A queue pair in the error state -/

/-- A queue pair that fails has no request left, and is counted. -/
theorem State.qpError_fails {s : State} (h : s.Sound q) (n : Nat) (x : Qp) :
    (s.qpError n x).qp? n = some { x with err := true, reqs := [], asks := [], writeAt := none } ∧
    (s.qpError n x).getF Fld.ethRcQpErr 0 = min (s.getF Fld.ethRcQpErr 0 + 1) (2 ^ 16 - 1) := by
  refine ⟨(State.qp?_congr (State.bump_eth ..) n).trans (State.qp?_setQp ..), ?_⟩
  exact State.getF_bump_width (State.setQp_sound h) ⟨by decide, by decide, by decide⟩ (by decide) rfl

/-! ### Congestion marks (R638) -/

theorem State.notifyEcn_unmarked (s : State) (port n : Nat) (x : Qp) : s.notifyEcn port n false x = s := by
  simp [State.notifyEcn]

/-- What a marked packet leaves where no notification has been sent yet: the queue pair notes the time, and a notification that goes out
is counted. -/
theorem State.notifyEcn_first {s : State} (h : s.Sound q) {n : Nat} {x : Qp} (hnew : x.cnpAt = none) :
    (s.notifyEcn (qrPort x.raw) n true x).qp? n = some { x with cnpAt := some s.upNs } ∧
    (s.qpSends x → .cnp (qrPort x.raw) n ∈ (s.notifyEcn (qrPort x.raw) n true x).out ∧
      (s.notifyEcn (qrPort x.raw) n true x).getF Fld.ethRcCnpTx 0 = min (s.getF Fld.ethRcCnpTx 0 + 1) (2 ^ 16 - 1)) ∧
    (¬ s.qpSends x → (s.notifyEcn (qrPort x.raw) n true x).getF Fld.ethRcCnpTx 0 = s.getF Fld.ethRcCnpTx 0) := by
  have hmay : s.mayTransmit (qrPort x.raw) (qrVlan x.raw) (etypeOfIp (qrIpv x.raw)) = true ↔ s.qpSends x := by
    simp [State.mayTransmit, State.qpSends, State.portSends, and_assoc]
  simp only [State.notifyEcn, hnew, Bool.and_self, if_true]
  generalize hu : s.setQp n { x with cnpAt := some s.upNs } = u
  have hset : u.Sound q := hu ▸ State.setQp_sound h
  have hsent : (u.sendFrame x (.cnp (qrPort x.raw) n)).Sound q := State.sendFrame_sound hset
  have hframe : State.Frame portMask s u := hu ▸ State.setQp_frame h.frame rfl
  have hregs : (u.sendFrame x (.cnp (qrPort x.raw) n)).getF Fld.ethRcCnpTx 0 = s.getF Fld.ethRcCnpTx 0 :=
    ((State.transmit_sameBut hset.rise _).getF (by decide) (by simp [Fld.ethRcCnpTx])).trans (by rw [← hu]; exact State.updEth_getF ..)
  have hcount := State.getF_bump_width (w := 16) (f := Fld.ethRcCnpTx) (i := 0)
    (n := natOfBool (s.mayTransmit (qrPort x.raw) (qrVlan x.raw) (etypeOfIp (qrIpv x.raw)))) hsent ⟨by decide, by decide, by decide⟩ (by decide) rfl
  rw [hregs] at hcount
  refine ⟨?_, fun hsends => ⟨?_, ?_⟩, fun hno => ?_⟩
  · rw [State.qp?_congr (State.bump_eth ..), State.qp?_congr (State.sendFrame_eth ..), ← hu, State.qp?_setQp]
  · rw [State.bump_out, State.sendFrame_of_sends (State.qpSends_frame hframe rfl hsends)]
    exact List.mem_cons_self ..
  · rw [hmay.2 hsends] at hcount ⊢
    exact hcount
  · rw [Bool.eq_false_iff.2 (mt hmay.1 hno)] at hcount ⊢
    have hlt : s.getF Fld.ethRcCnpTx 0 < 2 ^ 16 := State.getF_lt ..
    exact hcount.trans (Nat.min_eq_left (Nat.le_sub_one_of_lt hlt))

/-! ### A frame for a requester -/

section
variable {s : State} {e : EthFrame} {n : Nat} {x : Qp}

/-- A frame that the MAC does not accept is dropped (R628). -/
theorem State.roceBack_of_refused (hup : s.portUp e.port = true) (hbad : frameOk e.bytes e.tags = false) (f : Qp → State → State) :
    s.roceBack e n f = s.rxDrop e.port := by
  simp [State.roceBack, hup, hbad]

theorem State.roceBack_of_hears (h : s.qpHears e.port n x) (hok : frameOk e.bytes e.tags = true) (hecn : e.ecn = false)
    (f : Qp → State → State) : s.roceBack e n f = f x s := by
  simp [State.roceBack, h.up, hok, State.validQp_of_hears h, hecn, State.notifyEcn_unmarked, h.found]

theorem State.roceBack_of_marked (h : s.qpHears e.port n x) (hok : frameOk e.bytes e.tags = true) (hecn : e.ecn = true)
    {y : Qp} (hy : (s.notifyEcn e.port n true x).qp? n = some y) (f : Qp → State → State) :
    s.roceBack e n f = f y (s.notifyEcn e.port n true x) := by
  simp [State.roceBack, h.up, hok, State.validQp_of_hears h, hecn, hy]

end

end Sys2Proof.Machine
end

section
/-! PROOF. The requester: acknowledgements, READ responses, timeouts, congestion notifications and CLIMB_TICK (R632, R637, R638). -/

namespace Sys2Proof.Machine

variable {q : List Instr}

theorem exec_roceAcknowledgement (f : EthFrame) (qpn psn nak : Nat) (s : State) : exec (.roceAcknowledgement f qpn psn nak) s =
    .next (s.roceBack f qpn fun x s =>
      if nak = 0 then s.setQp qpn { x with reqs := x.reqs.filter fun r => r.read || decide (2 ^ 23 ≤ psnDist r.last psn) }
      else if nak = 3 ∨ nak = 4 then s.roceRetry qpn x (nak == 4)
      else s.qpError qpn x) := rfl

/-- The frames for a requester: each goes to its queue pair. -/
theorem exec_requester {f : EthFrame} {qpn psn nak : Nat} {data : Bytes} {c : Instr}
    (hc : c = .roceAcknowledgement f qpn psn nak ∨ c = .readResponse f qpn psn data ∨ c = .cnp f qpn) (s : State) :
    ∃ g, exec c s = .next (s.roceBack f qpn g) := by
  rcases hc with rfl | rfl | rfl
  · exact ⟨_, rfl⟩
  · exact ⟨_, rfl⟩
  · exact ⟨_, rfl⟩

/-! ### Acknowledgements and NAKs -/

section
variable {s : State} {f : EthFrame} {qpn psn : Nat} {x : Qp} (h : s.qpHears f.port qpn x) (hok : frameOk f.bytes f.tags = true)
  (hecn : f.ecn = false)
include h hok hecn

theorem exec_acknowledged : exec (.roceAcknowledgement f qpn psn 0) s =
    .next (s.setQp qpn { x with reqs := x.reqs.filter fun r => r.read || decide (2 ^ 23 ≤ psnDist r.last psn) }) := by
  rw [exec_roceAcknowledgement, State.roceBack_of_hears h hok hecn]
  rfl

theorem exec_refusedRequest {nak : Nat} (h0 : nak ≠ 0) (h3 : nak ≠ 3) (h4 : nak ≠ 4) :
    exec (.roceAcknowledgement f qpn psn nak) s = .next (s.qpError qpn x) := by
  rw [exec_roceAcknowledgement, State.roceBack_of_hears h hok hecn, if_neg h0, if_neg (by omega)]

theorem exec_sequenceNak : exec (.roceAcknowledgement f qpn psn 3) s = .next (s.roceRetry qpn x false) := by
  rw [exec_roceAcknowledgement, State.roceBack_of_hears h hok hecn]
  rfl

theorem exec_receiverNotReady : exec (.roceAcknowledgement f qpn psn 4) s = .next (s.roceRetry qpn x true) := by
  rw [exec_roceAcknowledgement, State.roceBack_of_hears h hok hecn]
  rfl

end

theorem exec_roceAckTimeout {s : State} {qpn : Nat} {x : Qp} (hup : s.isUp = true) (hfound : s.qp? qpn = some x) (herr : x.err = false) :
    exec (.roceAckTimeout qpn) s = .next (s.roceRetry qpn x false) := by
  refine congrArg Host.Outcome.next ((State.ifB_true hup _).trans ?_)
  simp [hfound, herr]

/-! ### Sending again -/

/-- A request after one more retry: as many as its kind allows, `rnr` for a receiver that was not ready. -/
def RoceReq.retried (r : RoceReq) (rnr : Bool) : RoceReq :=
  if rnr then { r with rnr := r.rnr + 1 } else { r with retries := r.retries + 1 }

/-- Requests that are sent again, each from its start. -/
def sentAgain (l : List RoceReq) : List RoceReq := l.map fun y => { y with got := 0 }

section
variable {s : State} {n : Nat} {x : Qp} {r : RoceReq} {l : List RoceReq} {rnr : Bool} (hreqs : x.reqs = r :: l)
include hreqs

/-- With the retries used up the queue pair fails (R632). -/
theorem State.roceRetry_spent (hspent : (if rnr then qrRnr x.raw else qrRetry x.raw) ≤ if rnr then r.rnr else r.retries) :
    s.roceRetry n x rnr = s.qpError n x := by
  rw [State.roceRetry, hreqs]
  exact if_pos hspent

theorem State.roceRetry_of_left (hleft : (if rnr then r.rnr else r.retries) < if rnr then qrRnr x.raw else qrRetry x.raw) :
    s.roceRetry n x rnr = ((s.setQp n { x with reqs := sentAgain (r.retried rnr :: l) }).bump Fld.ethRcRetx 0 1).sendFrame x
      (.roceResend n r.first ((sentAgain (r.retried rnr :: l)).getLastD (r.retried rnr)).last (s.qpRate x)) := by
  rw [State.roceRetry, hreqs]
  exact if_neg (Nat.not_le.2 hleft)

/-- While retries are left the outstanding requests go again, each from its start, and the sending is counted (R632). -/
theorem State.roceRetry_again (h : s.Sound q)
    (hleft : (if rnr then r.rnr else r.retries) < if rnr then qrRnr x.raw else qrRetry x.raw) :
    (s.roceRetry n x rnr).qp? n = some { x with reqs := sentAgain (r.retried rnr :: l) } ∧
    (s.roceRetry n x rnr).getF Fld.ethRcRetx 0 = min (s.getF Fld.ethRcRetx 0 + 1) (2 ^ 16 - 1) ∧
    (s.qpSends x → ∃ last, .roceResend n r.first last (s.qpRate x) ∈ (s.roceRetry n x rnr).out) := by
  rw [State.roceRetry_of_left hreqs hleft]
  generalize hu : s.setQp n { x with reqs := sentAgain (r.retried rnr :: l) } = u
  have hset : u.Sound q := hu ▸ State.setQp_sound h
  have hframe : State.Frame portMask s u := hu ▸ State.setQp_frame h.frame rfl
  have hregs : u.getF Fld.ethRcRetx 0 = s.getF Fld.ethRcRetx 0 := hu ▸ State.updEth_getF ..
  refine ⟨?_, ?_, fun hsends => ?_⟩
  · rw [State.qp?_congr (State.sendFrame_eth ..), State.qp?_congr (State.bump_eth ..), ← hu, State.qp?_setQp]
  · rw [← hregs, State.sendFrame_getF (State.bump_sound hset) (by decide) (by decide)]
    exact State.getF_bump_width hset ⟨by decide, by decide, by decide⟩ (by decide) rfl
  · rw [State.sendFrame_of_sends (State.qpSends_frame (State.bump_frame hframe rfl) rfl hsends)]
    exact ⟨_, List.mem_cons_self ..⟩

end

/-! ### READ responses -/

/-- A queue pair after a packet of a READ's response: the READ ends with its last packet (R632). -/
def Qp.filled (x : Qp) (r : RoceReq) (psn n : Nat) : Qp :=
  { x with reqs := if psn % 2 ^ 24 == r.last then x.reqs.erase r else x.reqs.map fun y => if y == r then { r with got := r.got + n } else y }

theorem exec_readResponse {s : State} {f : EthFrame} {qpn psn : Nat} {data : Bytes} {x : Qp} {r : RoceReq}
    (h : s.qpHears f.port qpn x) (hok : frameOk f.bytes f.tags = true) (hecn : f.ecn = false)
    (hr : x.reqs.find? (fun r => r.read && (r.first + r.got / qrMtu x.raw) % 2 ^ 24 == psn % 2 ^ 24) = some r) :
    exec (.readResponse f qpn psn data) s =
      .next (((s.plateStore r.slot (r.addr + r.got) data).setQp qpn (x.filled r psn data.length)).nextAsks qpn x.asks.length) := by
  refine congrArg Host.Outcome.next ((State.roceBack_of_hears h hok hecn _).trans ?_)
  rw [hr]
  rfl

/-- The request that a READ's end lets go, behind at most 15 others: it is sent at once (R632). -/
theorem State.nextAsks_read {s : State} {qpn : Nat} {x : Qp} {a : CoreAsk} (hfound : s.qp? qpn = some x) (hasks : x.asks = [a])
    (herr : x.err = false) (hop : a.op = .read) (hroom : x.readsFull = false) :
    s.nextAsks qpn 1 = (s.setQp qpn { x with asks := [] }).startAsk a { x with asks := [] } := by
  simp [State.nextAsks, hfound, hasks, herr, hop, hroom]

/-- A READ is sent as one packet (R632). -/
theorem State.startAsk_read {s : State} (h : s.Sound q) {a : CoreAsk} {x : Qp} (hop : a.op = .read) (hsends : s.qpSends x) :
    ∃ last, .roceRequest (qrPort x.raw) a.qpn x.txPsn last .read a.raddr a.rkey a.len [] (s.qpRate x) ∈ (s.startAsk a x).out := by
  unfold State.startAsk
  extract_lets mtu k last s1
  refine ⟨last, ?_⟩
  rw [if_pos hop, hop]
  rw [State.sendFrame_of_sends (State.qpSends_frame (State.setQp_frame h.frame rfl) rfl hsends)]
  exact List.mem_cons_self ..

theorem readsFull_erase {l : List RoceReq} {r : RoceReq} (hr : r ∈ l) (hread : r.read = true) (hlen : (l.filter (·.read)).length ≤ 16) :
    ((l.erase r).filter (·.read)).length < 16 := by
  have hpos : 0 < l.countP (·.read) := List.countP_pos_iff.2 ⟨r, hr, hread⟩
  rw [← List.countP_eq_length_filter] at hlen ⊢
  rw [List.countP_erase, if_pos ⟨hr, hread⟩]
  omega

/-! ### CNP and CLIMB_TICK -/

/-- Whether the hold time of the last drop is over (R637). -/
def State.holdOver (s : State) (x : Qp) : Prop := ∀ t0, x.dropAt = some t0 → s.getF Fld.ethCcHoldUs 0 ≤ s.upNs / 1000 - t0

/-- A queue pair after a congestion notification: the level rises where the hold time is over. -/
def State.notified (s : State) (x : Qp) (past : Bool) : Qp :=
  { (if past then { x with lv := min 63 (x.lv + s.getF Fld.ethCcDrop 0), dropAt := some (s.upNs / 1000) } else x) with heard := true }

theorem exec_cnp {s : State} {f : EthFrame} {qpn : Nat} {x : Qp} (h : s.qpHears f.port qpn x) (hok : frameOk f.bytes f.tags = true)
    (hecn : f.ecn = false) : ∃ past : Bool, (past = true ↔ s.holdOver x) ∧
      exec (.cnp f qpn) s = .next ((s.setQp qpn (s.notified x past)).bump Fld.ethRcCnpRx 0 1) := by
  refine ⟨match x.dropAt with
    | some t => decide (s.getF Fld.ethCcHoldUs 0 ≤ s.upNs / 1000 - t)
    | none => true, ?_, ?_⟩
  · unfold State.holdOver
    cases x.dropAt with
    | none => simp
    | some t => simp
  · exact congrArg Host.Outcome.next (State.roceBack_of_hears h hok hecn _)

theorem exec_climbTick {s : State} {qpn : Nat} {x : Qp} (hup : s.isUp = true) (hfound : s.qp? qpn = some x) :
    exec (.climbTick qpn) s = .next (s.setQp qpn { x with lv := if x.heard then x.lv else x.lv - 1, heard := false }) := by
  refine congrArg Host.Outcome.next ((State.ifB_true hup _).trans ?_)
  simp [hfound]

theorem State.setQp_sameBut {s : State} (h : keysRise s.regs) (n : Nat) (x : Qp) : State.SameBut [] [.eth] s (s.setQp n x) :=
  (State.setQp_frame (State.Frame.refl h) (Nat.or_self _)).sameBut (by rfl)

/-! ### What the queue pair is then -/

/-- Where a request is sent again, or given up, by what is left of its retries (R632). -/
theorem State.roceRetry_outcome {s : State} (h : s.Sound q) {n : Nat} {x : Qp} {r : RoceReq} {l : List RoceReq} (hreqs : x.reqs = r :: l)
    (herr : x.err = false) :
    (r.retries < qrRetry x.raw →
      ∃ q1, (s.roceRetry n x false).qp? n = some q1 ∧ q1.err = false ∧
        q1.reqs = { r with retries := r.retries + 1, got := 0 } :: l.map (fun x => { x with got := 0 }) ∧
        (s.roceRetry n x false).getF Fld.ethRcRetx 0 = min (s.getF Fld.ethRcRetx 0 + 1) (2 ^ 16 - 1) ∧
        (s.qpSends x → ∃ last, .roceResend n r.first last (s.qpRate x) ∈ (s.roceRetry n x false).out)) ∧
    (qrRetry x.raw ≤ r.retries →
      ∃ q1, (s.roceRetry n x false).qp? n = some q1 ∧ q1.err = true ∧ q1.reqs = [] ∧ q1.asks = [] ∧
        (s.roceRetry n x false).getF Fld.ethRcQpErr 0 = min (s.getF Fld.ethRcQpErr 0 + 1) (2 ^ 16 - 1)) := by
  refine ⟨fun hleft => ?_, fun hspent => ?_⟩
  · obtain ⟨hqp, hretx, hout⟩ := State.roceRetry_again (rnr := false) (n := n) hreqs h hleft
    exact ⟨_, hqp, herr, rfl, hretx, hout⟩
  · obtain ⟨hqp, hcount⟩ := State.qpError_fails h n x
    rw [State.roceRetry_spent (rnr := false) hreqs hspent]
    exact ⟨_, hqp, rfl, rfl, rfl, hcount⟩

section
variable {s : State} (h : s.Sound q) {f : EthFrame} {qpn psn : Nat} {x : Qp} (hears : s.qpHears f.port qpn x)
  (hok : frameOk f.bytes f.tags = true) (hecn : f.ecn = false)
include h hears hok hecn

theorem readResponse_stores {r : RoceReq} {data : Bytes}
    (hr : x.reqs.find? (fun r => r.read && (r.first + r.got / qrMtu x.raw) % 2 ^ 24 == psn % 2 ^ 24) = some r) (hasks : x.asks = []) :
    ∃ t q1, exec (.readResponse f qpn psn data) s = .next t ∧ t.qp? qpn = some q1 ∧
      (∀ p, p ≠ Part.eth → samePart p (s.plateStore r.slot (r.addr + r.got) data) t) ∧
      (psn % 2 ^ 24 = r.last → q1.reqs = x.reqs.erase r) ∧
      (psn % 2 ^ 24 ≠ r.last → { r with got := r.got + data.length } ∈ q1.reqs) := by
  have hexec := exec_readResponse (data := data) hears hok hecn hr
  rw [hasks] at hexec
  have hstored := State.setQp_sameBut (State.plateStore_sound (c := r.slot) (a := r.addr + r.got) (bs := data) h).rise qpn
    (x.filled r psn data.length)
  refine ⟨_, x.filled r psn data.length, hexec, State.qp?_setQp .., fun p hp => hstored.part (by simpa using hp), fun hlast => ?_,
    fun hmore => ?_⟩
  · exact if_pos (by simpa using hlast)
  · rw [Qp.filled, if_neg (by simpa using hmore)]
    exact List.mem_map.2 ⟨r, List.mem_of_find?_eq_some hr, by simp⟩

theorem readResponse_lets_go {r : RoceReq} {data : Bytes} {a : CoreAsk}
    (hr : x.reqs.find? (fun r => r.read && (r.first + r.got / qrMtu x.raw) % 2 ^ 24 == psn % 2 ^ 24) = some r)
    (hlast : psn % 2 ^ 24 = r.last) (hasks : x.asks = [a]) (hqpn : a.qpn = qpn) (hop : a.op = .read)
    (hfull : (x.reqs.filter (·.read)).length ≤ 16) :
    ∃ t last, exec (.readResponse f qpn psn data) s = .next t ∧ (s.qpSends x →
      .roceRequest (qrPort x.raw) qpn x.txPsn last .read a.raddr a.rkey a.len [] (s.qpRate x) ∈ t.out) := by
  have hexec := exec_readResponse (data := data) hears hok hecn hr
  have hread : r.read = true := by
    have := List.find?_some hr
    simp only [Bool.and_eq_true] at this
    exact this.1
  have hroom : (x.filled r psn data.length).readsFull = false := by
    rw [Qp.readsFull, Qp.filled, if_pos (by simpa using hlast)]
    exact decide_eq_false (Nat.not_le.2 (readsFull_erase (List.mem_of_find?_eq_some hr) hread hfull))
  generalize hu : (s.plateStore r.slot (r.addr + r.got) data).setQp qpn (x.filled r psn data.length) = u at hexec
  have hstored : (s.plateStore r.slot (r.addr + r.got) data).Sound q := State.plateStore_sound h
  have hfound : u.qp? qpn = some (x.filled r psn data.length) := hu ▸ State.qp?_setQp ..
  have hframe : State.Frame portMask s (u.setQp qpn { x.filled r psn data.length with asks := [] }) :=
    hu ▸ State.setQp_frame (State.setQp_frame (State.plateStore_frame h.frame rfl) rfl) rfl
  have husound : (u.setQp qpn { x.filled r psn data.length with asks := [] }).Sound q :=
    hu ▸ State.setQp_sound (State.setQp_sound hstored)
  rw [hasks, List.length_singleton, State.nextAsks_read hfound hasks hears.working hop hroom] at hexec
  have hport : qrPort x.raw < 4 := by rw [hears.here]; exact State.lt_of_portUp hears.up
  by_cases hsends : s.qpSends x
  · obtain ⟨last, hout⟩ := State.startAsk_read husound hop
      (State.qpSends_frame (y := { x.filled r psn data.length with asks := [] }) hframe rfl hsends)
    rw [State.qpRate_frame hframe hport (y := { x.filled r psn data.length with asks := [] }) rfl rfl, hqpn] at hout
    exact ⟨_, last, hexec, fun _ => hout⟩
  · exact ⟨_, 0, hexec, fun hyes => absurd hyes hsends⟩

theorem cnp_heard : ∃ t q1, exec (.cnp f qpn) s = .next t ∧ t.qp? qpn = some q1 ∧ q1.heard = true ∧
    t.getF Fld.ethRcCnpRx 0 = min (s.getF Fld.ethRcCnpRx 0 + 1) (2 ^ 16 - 1) ∧
    ((∀ t0, x.dropAt = some t0 → s.getF Fld.ethCcHoldUs 0 ≤ s.upNs / 1000 - t0) →
      q1.lv = min 63 (x.lv + s.getF Fld.ethCcDrop 0) ∧ q1.dropAt = some (s.upNs / 1000)) ∧
    ((∃ t0, x.dropAt = some t0 ∧ s.upNs / 1000 - t0 < s.getF Fld.ethCcHoldUs 0) → q1.lv = x.lv ∧ q1.dropAt = x.dropAt) := by
  obtain ⟨past, hpast, hexec⟩ := exec_cnp hears hok hecn
  refine ⟨_, s.notified x past, hexec, ?_, rfl, ?_, fun hover => ?_, fun ⟨t0, ht0, hlt⟩ => ?_⟩
  · rw [State.qp?_congr (State.bump_eth ..), State.qp?_setQp]
  · exact State.getF_bump_width (State.setQp_sound h) ⟨by decide, by decide, by decide⟩ (by decide) rfl
  · rw [hpast.2 hover]
    exact ⟨rfl, rfl⟩
  · have hnot : past = false := Bool.eq_false_iff.2 fun hp => Nat.not_le.2 hlt (hpast.1 hp t0 ht0)
    rw [hnot]
    exact ⟨rfl, rfl⟩

end

/-- A marked acknowledgement is answered by a notification, which goes out before its effect (R638). -/
theorem acknowledgement_notified {s : State} (h : s.Sound q) {f : EthFrame} {qpn psn : Nat} {x : Qp} (hears : s.qpHears f.port qpn x)
    (hok : frameOk f.bytes f.tags = true) (hecn : f.ecn = true) (hnew : x.cnpAt = none) (hsends : s.qpSends x) :
    ∃ t, exec (.roceAcknowledgement f qpn psn 0) s = .next t ∧ .cnp f.port qpn ∈ t.out ∧
      t.getF Fld.ethRcCnpTx 0 = min (s.getF Fld.ethRcCnpTx 0 + 1) (2 ^ 16 - 1) := by
  obtain ⟨hqp, hsent, -⟩ := State.notifyEcn_first (n := qpn) h hnew
  obtain ⟨hout, hcount⟩ := hsent hsends
  rw [hears.here] at hqp hout hcount
  refine ⟨(s.notifyEcn f.port qpn true x).setQp qpn { x with
    cnpAt := some s.upNs, reqs := x.reqs.filter fun r => r.read || decide (2 ^ 23 ≤ psnDist r.last psn) }, ?_, hout,
    (State.updEth_getF ..).trans hcount⟩
  rw [exec_roceAcknowledgement, State.roceBack_of_marked hears hok hecn hqp]
  rfl

/-- Settles O54: by the kind of the answer, the requests of the queue pair end, go again or fail, and its level follows the congestion
notifications. -/
theorem roceRequesterFollowsAnswers : Obligations.RoceRequesterFollowsAnswers := by
  unfold Obligations.RoceRequesterFollowsAnswers
  refine ⟨fun f qpn psn nak data c s hs hup hbad hc => ?_, fun f qpn psn x s hs hears hok hecn hnew hsends => ?_,
    fun f qpn psn x s hs hears hok hecn => ?_, fun qpn x s hs hup hfound => ?_⟩
  · obtain ⟨g, hexec⟩ := exec_requester hc s
    obtain ⟨hsame, hcount, -⟩ := State.rxDrop_drops (State.sound_of_canonical hs) (State.lt_of_portUp hup)
    exact ⟨_, by rw [hexec, State.roceBack_of_refused hup hbad], hsame, hcount⟩
  · exact acknowledgement_notified (State.sound_of_canonical hs) hears hok hecn hnew hsends
  · have h := State.sound_of_canonical hs
    refine ⟨⟨_, _, exec_acknowledged hears hok hecn, State.qp?_setQp .., hears.working, fun r => by simp, State.setQp_sameBut h.rise ..⟩,
      fun nak h0 h3 h4 => ?_, fun r l c hreqs hc => ?_, fun r l hreqs hleft => ?_,
      fun r data hr hasks => readResponse_stores h hears hok hecn hr hasks,
      fun r data a hr hlast hasks hqpn hop hfull => readResponse_lets_go h hears hok hecn hr hlast hasks hqpn hop hfull,
      cnp_heard h hears hok hecn⟩
    · obtain ⟨hqp, hcount⟩ := State.qpError_fails h qpn x
      exact ⟨_, _, exec_refusedRequest hears hok hecn h0 h3 h4, hqp, rfl, rfl, rfl, hcount⟩
    · have hexec : exec c s = .next (s.roceRetry qpn x false) := by
        rcases hc with rfl | rfl
        · exact exec_roceAckTimeout (State.isUp_of_portUp hears.up) hears.found hears.working
        · exact exec_sequenceNak hears hok hecn
      obtain ⟨hagain, hspent⟩ := State.roceRetry_outcome (n := qpn) h hreqs hears.working
      refine ⟨fun hleft => ?_, fun hused => ?_⟩
      · obtain ⟨q1, hq1⟩ := hagain hleft
        exact ⟨_, q1, hexec, hq1⟩
      · obtain ⟨q1, hq1⟩ := hspent hused
        exact ⟨_, q1, hexec, hq1⟩
    · obtain ⟨hqp, -⟩ := State.roceRetry_again (rnr := true) (n := qpn) hreqs h hleft
      exact ⟨_, _, exec_receiverNotReady hears hok hecn, hqp, hears.working, rfl⟩
  · exact ⟨_, _, exec_climbTick hup hfound, State.qp?_setQp .., rfl, rfl, State.setQp_sameBut (State.rise_of_canonical hs) ..⟩

end Sys2Proof.Machine
end

section
/-! PROOF. HELLO_TICK sends on a link what waits there first, and a TIME exchange that goes out stamps its t3 (R601, R621). -/

namespace Sys2Proof.Machine

/-- The block in READY with link 0 isolated. Step 2 of a TIME exchange has waited there for a credit that has come since, and the t3 of
the last exchange is 1. -/
def delayedReady : State :=
  { State.setFs State.reset 0 [(Fld.sysBootStage, stageReady), (Fld.hlkLkState, lkIsolated)] with
    pw := { State.reset.pw with held := false }
    fab := { State.reset.fab with
      links := [(0, { LinkSt.empty with credits := [8, 0, 0, 0, 0, 0, 0, 0], waitOut := [(3, 2, .timeMsg 0 2 [0, 0, 0] 0 0 0)] })] }
    time := { State.reset.time with t3 := 1 } }

/-- What HELLO_TICK leaves of it: the step has gone out ahead of the HELLO. -/
def delayedSent : State :=
  ((List.range 96).filter delayedReady.linkCarries).foldl (fun s l => s.sendLink l 0x01 0 (.hello l (s.helloOf l))) delayedReady

theorem exec_helloTick {s : State} (hup : s.isUp = true) :
    exec .helloTick s =
      .next (((List.range 96).filter s.linkCarries).foldl (fun s l => s.sendLink l 0x01 0 (.hello l (s.helloOf l))) s) :=
  congrArg Host.Outcome.next (if_pos hup)

/-- The step that goes out with the tick takes t3 from 1 to the counter's 0. -/
theorem delayedSent_stamped : delayedReady.time.t3 = 1 ∧ delayedSent.time.t3 = 0 := ⟨rfl, by decide +kernel⟩

/-- Refutes O49: a step 2 of a TIME exchange that waits on a link goes out before the HELLO of the tick and takes a new t3. The statement
lets HELLO_TICK change nothing but the fabric's state and what goes out. -/
theorem not_fabricIsDiscovered : ¬ Obligations.FabricIsDiscovered := by
  unfold Obligations.FabricIsDiscovered
  rintro ⟨-, htick, -⟩
  have hup : delayedReady.isUp = true := by decide +kernel
  obtain ⟨t, hexec, hsame, -⟩ := htick delayedReady (by decide +kernel) hup
  obtain rfl : t = delayedSent := Host.Outcome.next.inj (hexec.symm.trans (exec_helloTick hup))
  have hkept : delayedSent.time = delayedReady.time := hsame.part (p := .time) (by decide)
  obtain ⟨hbefore, hafter⟩ := delayedSent_stamped
  exact absurd ((hafter.symm.trans (congrArg TimeSt.t3 hkept)).trans hbefore) (by decide)

end Sys2Proof.Machine
end

section
/-! PROOF. A SEND whose acknowledgement the egress filter stops signals another mark than the bound one where a mark's number lies past the
last mark (R631, R635). -/

namespace Sys2Proof.Machine

/-- Queue pair 5 on port 0 with mark 1 of slot 0 bound. -/
def markedPair : Qp := ⟨0, [0, 0, 4, 0x40, 1, 0, 0, 0, 0, 0, 0, 0, 0, 0, 1, 0], 0, 0, false, 0, false, none, none, none, [], []⟩

/-- The number whose MRK_STATE would stand where ETH_PORT_DROPS of port 0 stands: it lies past the 16,384 marks. -/
def strayMark : Nat := 0x1FC002

/-- The block in READY with port 0 up and nothing allowed through its filter. Mark 0 carries ID 1 in slot 0. A mark of a stray number is
listed before it; its state is the drop counters, which name ID 0 until one more frame is stopped, and then ID 1. -/
def strayReady : State :=
  { State.setFs State.reset 0 [(Fld.sysBootStage, stageReady), (Fld.ethUp, 1), (Fld.ethMac, 1), (Fld.ethRxDrops, 2 ^ 31),
      (Fld.ethFltDrops, 2 ^ 26 - 1), (Fld.mrkValid, 1), (Fld.mrkId, 1), (Fld.mrkTarget, 5)] with
    pw := { State.reset.pw with held := false }
    marks := [(strayMark, ⟨0, 0, none, []⟩), (0, ⟨0, 0, none, []⟩)]
    eth := { State.reset.eth with qps := [(5, markedPair)] } }

/-- A SEND of one packet for the queue pair. -/
def strayPkt : RocePkt := ⟨0, 5, 0, true, true, false, false, 0, 0, 0, [], 64, 0⟩

theorem strayReady_hears : strayReady.qpHears 0 5 markedPair :=
  ⟨by decide +kernel, rfl, rfl, rfl⟩

/-- Before the SEND the bound mark is mark 0, which counts to 5 and stands at 0. -/
theorem strayReady_bound : strayReady.markOf 0 (strayReady.activeCtx 0) 1 = some 0 ∧ strayReady.flag Fld.mrkBarrier 0 = false ∧
    strayReady.getF Fld.mrkTarget 0 = 5 ∧ strayReady.getF Fld.mrkCount 0 = 0 := by decide +kernel

/-- The count of a mark in the state that a command leaves. -/
def countAfter (a : Ans) (n : Nat) : Option Nat :=
  match a with
  | .next t => some (t.getF Fld.mrkCount n)
  | _ => none

/-- The SEND leaves mark 0 at 0. -/
theorem straySend_misses : countAfter (exec (.send strayPkt) strayReady) 0 = some 0 := by decide +kernel

/-- Refutes O53: the acknowledgement of the SEND is stopped and counted before the bound mark is looked up, and the counter makes a mark
of a stray number the one that carries the ID. Mark 0, bound when the packet came, keeps its count; the statement, which holds the list of
marks to no range, wants it to rise. -/
theorem not_roceRequestsAreServed : ¬ Obligations.RoceRequestsAreServed := by
  unfold Obligations.RoceRequestsAreServed
  rintro ⟨-, hserved, -⟩
  obtain ⟨⟨t, hexec, -, -, hmark⟩, -⟩ := hserved strayPkt markedPair strayReady (by decide +kernel) strayReady_hears rfl rfl rfl rfl rfl
  obtain ⟨hbound, hcounting, htarget, hcount⟩ := strayReady_bound
  obtain ⟨hplain, -⟩ := hmark 0 rfl rfl hbound (by decide) (by decide)
  obtain ⟨hrises, -⟩ := hplain hcounting
  rw [htarget, hcount] at hrises
  have hstays : t.getF Fld.mrkCount 0 = 0 := by
    have hafter := straySend_misses
    rw [hexec] at hafter
    exact Option.some.inj hafter
  exact absurd (hrises.symm.trans hstays) (by decide)

end Sys2Proof.Machine
end

section
/-! SUPPORT. The links' own state and the fabric's: what sending and routing flits leaves of them (R579 to R586, R608 to R612). -/

namespace Sys2Proof.Machine

/-! ### One link and another -/

theorem State.link_updLink (s : State) (l : Nat) (f : LinkSt → LinkSt) (k : Nat) :
    (s.updLink l f).link k = if k = l then f (s.link l) else s.link k := by
  simp only [State.updLink, State.link, kvGet_kvPut]
  split <;> rfl

theorem State.link_updLink_same (s : State) (l : Nat) (f : LinkSt → LinkSt) : (s.updLink l f).link l = f (s.link l) := by
  rw [State.link_updLink, if_pos rfl]

theorem State.link_congr {s t : State} (h : t.fab.links = s.fab.links) (l : Nat) : t.link l = s.link l := by
  unfold State.link; rw [h]

/-! ### What sending keeps -/

/-- A link but for what its sending side changes: the retry buffer, what it owes, credits, what waits and the block that goes out. -/
def LinkSt.port (k : LinkSt) : LinkSt :=
  { LinkSt.empty with
    signal := k.signal, failed := k.failed, tried := k.tried, rxSeq := k.rxSeq, naks := k.naks, rxPos := k.rxPos, rxBad := k.rxBad, peer := k.peer }

/-- The fabric's state but for the flits on their way out and the numbers of the next messages. -/
def State.seen (s : State) : FabSt × (Nat → LinkSt) :=
  ({ s.fab with links := [], held := [], nextMsg := [] }, fun l => (s.link l).port)

theorem State.seen_congr {s t : State} (h : t.fab = s.fab) : t.seen = s.seen := by
  unfold State.seen State.link; rw [h]

section
variable {s t : State} (h : t.seen = s.seen)
include h

theorem State.seen_port (l : Nat) : (t.link l).port = (s.link l).port := congrFun (congrArg Prod.snd h) l

theorem State.seen_rxSeq (l : Nat) : (t.link l).rxSeq = (s.link l).rxSeq :=
  show (t.link l).port.rxSeq = (s.link l).port.rxSeq from congrArg LinkSt.rxSeq (State.seen_port h l)

theorem State.seen_inbox : t.fab.inbox = s.fab.inbox := congrArg (fun x => x.1.inbox) h
theorem State.seen_rx : t.fab.rx = s.fab.rx := congrArg (fun x => x.1.rx) h
theorem State.seen_parts : t.fab.parts = s.fab.parts := congrArg (fun x => x.1.parts) h
theorem State.seen_sent : t.fab.sent = s.fab.sent := congrArg (fun x => x.1.sent) h

end

section
variable (s : State)

theorem State.updLink_seen (l : Nat) {f : LinkSt → LinkSt} (hf : ∀ k, (f k).port = k.port) : (s.updLink l f).seen = s.seen := by
  refine Prod.ext rfl (funext fun k => ?_)
  show ((s.updLink l f).link k).port = (s.link k).port
  rw [State.link_updLink]
  split
  · next hk => rw [hf, hk]
  · rfl

@[simp] theorem State.emit_seen (o : Out) : (s.emit o).seen = s.seen := rfl

@[simp] theorem State.bump_seen (f : Field) (i n : Nat) : (s.bump f i n).seen = s.seen := State.seen_congr (State.bump_fab ..)

@[simp] theorem State.putFlit_seen (l : Nat) (f : Flit) : (s.putFlit l f).seen = s.seen := by
  unfold State.putFlit
  extract_lets b s1
  split
  · exact State.updLink_seen s1 l fun _ => rfl
  · exact State.updLink_seen _ l fun _ => rfl

@[simp] theorem State.sendOn_seen (l : Nat) (f : Flit) : (s.sendOn l f).seen = s.seen :=
  (State.putFlit_seen ..).trans (State.updLink_seen s l fun _ => rfl)

@[simp] theorem State.freeBuf_seen (l vc : Nat) : (s.freeBuf l vc).seen = s.seen := by
  unfold State.freeBuf
  split
  · exact State.updLink_seen s l fun _ => rfl
  · rfl

@[simp] theorem State.noteTurn_seen (o port vc : Nat) : (s.noteTurn o port vc).seen = s.seen := State.updLink_seen s o fun _ => rfl

@[simp] theorem State.routeFrom_seen (f : Flit) (l vc : Nat) : (s.routeFrom f l vc).seen = s.seen := by
  unfold State.routeFrom
  split
  · simp
  · rfl
  · simp

@[simp] theorem State.releaseHeld_seen (e : Flit × Nat × Nat) : (s.releaseHeld e).seen = s.seen := (State.routeFrom_seen ..).trans rfl

@[simp] theorem State.noteStamp_seen (o : Out) : (s.noteStamp o).seen = s.seen := by
  unfold State.noteStamp
  split <;> rfl

end

@[simp] theorem State.releaseAll_seen (n : Nat) : ∀ s : State, (s.releaseAll n).seen = s.seen := by
  induction n with
  | zero => exact fun s => rfl
  | succ n ih =>
    intro s
    rw [State.releaseAll]
    split
    · rw [ih, State.releaseHeld_seen]
    · rfl

@[simp] theorem State.retryHeld_seen (s : State) : s.retryHeld.seen = s.seen := State.releaseAll_seen ..

@[simp] theorem State.flushLink_seen (l n : Nat) : ∀ s : State, (s.flushLink l n).seen = s.seen := by
  induction n with
  | zero => exact fun s => rfl
  | succ n ih =>
    intro s
    rw [State.flushLink]
    split
    · split
      · rfl
      · rw [ih, State.noteStamp_seen, State.emit_seen, State.sendOn_seen]
        exact State.updLink_seen s l fun _ => rfl
    · rfl

theorem State.foldl_seen {α : Type} {f : State → α → State} (hf : ∀ s x, (f s x).seen = s.seen) (l : List α) :
    ∀ s : State, (l.foldl f s).seen = s.seen := by
  induction l with
  | nil => exact fun s => rfl
  | cons x l ih => exact fun s => (ih _).trans (hf s x)

@[simp] theorem State.resendFrom_seen (s : State) (l : Nat) (paid : Bool) (fs : List Flit) : (s.resendFrom l paid fs).seen = s.seen := by
  refine State.foldl_seen (fun u f => ?_) fs s
  exact (State.putFlit_seen ..).trans (State.updLink_seen u l fun _ => rfl)

@[simp] theorem State.sendAck_seen (s : State) (dst chase msg status : Nat) : (s.sendAck dst chase msg status).seen = s.seen :=
  (State.foldl_seen (fun u f => State.routeFrom_seen u f 255 0) _ _).trans rfl

/-! ### Flits that wait for a credit -/

section
variable (s : State)

@[simp] theorem State.putFlit_held (l : Nat) (f : Flit) : (s.putFlit l f).fab.held = s.fab.held := by
  unfold State.putFlit
  extract_lets b s1
  split <;> rfl

@[simp] theorem State.sendOn_held (l : Nat) (f : Flit) : (s.sendOn l f).fab.held = s.fab.held := (State.putFlit_held ..).trans rfl

@[simp] theorem State.freeBuf_held (l vc : Nat) : (s.freeBuf l vc).fab.held = s.fab.held := by
  unfold State.freeBuf
  split <;> rfl

@[simp] theorem State.noteStamp_held (o : Out) : (s.noteStamp o).fab.held = s.fab.held := by
  unfold State.noteStamp
  split <;> rfl

end

@[simp] theorem State.flushLink_held (l n : Nat) : ∀ s : State, (s.flushLink l n).fab.held = s.fab.held := by
  induction n with
  | zero => exact fun s => rfl
  | succ n ih =>
    intro s
    rw [State.flushLink]
    split
    · split
      · rfl
      · rw [ih, State.noteStamp_held, State.emit_fab, State.sendOn_held]
        rfl
    · rfl

/-- With no flit held there is none to let go. -/
theorem State.retryHeld_of_none {s : State} (h : s.fab.held = []) : s.retryHeld = s := by
  rw [State.retryHeld, h]
  rfl

end Sys2Proof.Machine
end

section
/-! PROOF. FLIT and ACK_IDLE: a block is decoded, a flit is refused or taken, and what is owed goes out (R575 to R581, R588, R591, R594,
R608, R612). -/

namespace Sys2Proof.Machine

variable {q : List Instr}

/-! ### Words at other addresses -/

/-- A counter changes no word at another address. -/
theorem State.rd_bump_of_addr {s : State} {f : Field} {r : RegName} {i j : Nat} (h : keysRise s.regs) (hne : r.addr j ≠ f.reg.addr i)
    (n : Nat) : (s.bump f i n).rd r j = s.rd r j := by
  unfold State.bump State.setF State.wr
  split
  · simp only [State.rd, kvGet_kvSet _ _ _ _ _ h, if_neg hne]
  · rfl

/-! ### The block of a flit (R577) -/

/-- The counters of a link after the first flit of a block. -/
def State.fecCounted (s : State) (l : Nat) (errs : List Nat) : State :=
  if fecFails errs then s.bump Fld.hlkLkFecUncorr l 1
  else if errs.eraseDups.length = 0 then s
  else s.bump Fld.hlkLkFecSyms l errs.eraseDups.length

section
variable {s : State} {l : Nat} {errs : List Nat}

theorem State.fecDecode_first (hpos : (s.link l).rxPos = 0) : s.fecDecode l errs =
    ((s.fecCounted l errs).updLink l fun k => { k with rxBad := fecFails errs }).updLink l fun k =>
      { k with rxPos := (k.rxPos + 1) % 5 } := by
  unfold State.fecDecode State.fecCounted fecCorrected
  simp only [hpos, bne_self_eq_false, Bool.false_eq_true, if_false]
  cases fecFails errs <;> rfl

theorem State.fecDecode_later (hpos : (s.link l).rxPos ≠ 0) : s.fecDecode l errs =
    s.updLink l fun k => { k with rxPos := (k.rxPos + 1) % 5 } := by
  unfold State.fecDecode
  extract_lets k s2 s1
  rw [show s1 = s from if_pos (by simpa [k] using hpos)]

@[simp] theorem State.fecCounted_fab : (s.fecCounted l errs).fab = s.fab := by
  unfold State.fecCounted
  split_ifs <;> simp

@[simp] theorem State.fecCounted_out : (s.fecCounted l errs).out = s.out := by
  unfold State.fecCounted
  split_ifs <;> simp

/-- Its block moves on by one flit, and is known to be correctable or not. -/
theorem State.fecDecode_link : (s.fecDecode l errs).link l =
    { s.link l with rxPos := ((s.link l).rxPos + 1) % 5, rxBad := s.blockBad l errs } := by
  have hcounted : (s.fecCounted l errs).link l = s.link l := State.link_congr (by rw [State.fecCounted_fab]) l
  by_cases hpos : (s.link l).rxPos = 0
  · simp [State.fecDecode_first hpos, State.link_updLink_same, hcounted, State.blockBad, hpos]
  · simp [State.fecDecode_later hpos, State.link_updLink_same, State.blockBad, hpos]

theorem State.fecDecode_fab : (s.fecDecode l errs).fab.inbox = s.fab.inbox ∧ (s.fecDecode l errs).fab.held = s.fab.held ∧
    (s.fecDecode l errs).fab.rx = s.fab.rx ∧ (s.fecDecode l errs).out = s.out := by
  by_cases hpos : (s.link l).rxPos = 0
  · simp [State.fecDecode_first hpos, State.updLink]
  · simp [State.fecDecode_later hpos, State.updLink]

variable (h : s.Sound q)
include h

theorem State.fecDecode_rd {r : RegName} {j : Nat} (hne : r.addr j ≠ RegName.hlkLinkErr.addr l) :
    (s.fecDecode l errs).rd r j = s.rd r j := by
  by_cases hpos : (s.link l).rxPos = 0
  · rw [State.fecDecode_first hpos, State.updLink_rd, State.updLink_rd]
    unfold State.fecCounted
    split_ifs
    · exact State.rd_bump_of_addr h.rise hne 1
    · rfl
    · exact State.rd_bump_of_addr h.rise hne _
  · rw [State.fecDecode_later hpos, State.updLink_rd]

variable (hl : l < 96)
include hl

theorem State.fecDecode_uncorr : (s.fecDecode l errs).getF Fld.hlkLkFecUncorr l =
    if (s.link l).rxPos = 0 ∧ fecFails errs = true then min (s.getF Fld.hlkLkFecUncorr l + 1) (2 ^ 12 - 1)
    else s.getF Fld.hlkLkFecUncorr l := by
  by_cases hpos : (s.link l).rxPos = 0
  · rw [State.fecDecode_first hpos, State.updLink_getF, State.updLink_getF]
    unfold State.fecCounted
    cases hfails : fecFails errs
    · simp only [hpos, Bool.false_eq_true, and_false, if_false]
      split_ifs
      · rfl
      · exact State.getF_bump_apart h (by decide) hl (.inr (.inr (by decide)))
    · simp only [hpos, and_self, if_true]
      exact State.getF_bump_width h ⟨by decide, by decide, hl⟩ (by decide) rfl
  · rw [State.fecDecode_later hpos, State.updLink_getF, if_neg fun hpass => hpos hpass.1]

theorem State.fecDecode_syms : (s.fecDecode l errs).getF Fld.hlkLkFecSyms l =
    if (s.link l).rxPos = 0 ∧ fecFails errs = false then min (s.getF Fld.hlkLkFecSyms l + errs.eraseDups.length) (2 ^ 32 - 1)
    else s.getF Fld.hlkLkFecSyms l := by
  by_cases hpos : (s.link l).rxPos = 0
  · rw [State.fecDecode_first hpos, State.updLink_getF, State.updLink_getF]
    unfold State.fecCounted
    have hlt : s.getF Fld.hlkLkFecSyms l < 2 ^ 32 := State.getF_lt ..
    cases hfails : fecFails errs
    · simp only [hpos, Bool.false_eq_true, and_self, if_true, if_false]
      split_ifs with hnone
      · rw [hnone, Nat.add_zero, Nat.min_eq_left (Nat.le_sub_one_of_lt hlt)]
      · exact State.getF_bump_width h ⟨by decide, by decide, hl⟩ (by decide) rfl
    · simp only [if_true, Bool.true_eq_false, and_false, if_false]
      exact State.getF_bump_apart h (by decide) hl (.inr (.inr (by decide)))
  · rw [State.fecDecode_later hpos, State.updLink_getF, if_neg fun hpass => hpos hpass.1]

end

/-! ### A flit that is refused (R578 to R581) -/

/-- The flits that a flit acknowledges leave the retry buffer (R580). -/
def State.ackedBy (s : State) (l : Nat) (f : Flit) : State := s.updLink l fun k => { k with unacked := ackedTo k.unacked f.ack }

/-- A NAK is owed on a link (R580). -/
def State.owesNak (s : State) (l : Nat) : State := s.updLink l fun k => { k with nakOwed := true }

section
variable {s : State} {link crc : Nat} {data checks : List Nat} {f : Flit} (hup : s.isUp = true) (hl : link < 96)
  (hcarries : s.linkCarries link = true)
include hup hl hcarries

theorem exec_flit : exec (.flit link data checks crc f) s = .next
    (let s1 := s.fecDecode link (blockErrs data checks)
    if (s1.link link).rxBad then s1.owesNak link
    else if f.crc != crc then s1.owesNak link
    else
      let s3 := if f.nak then (s1.ackedBy link f).takeNak link else s1.ackedBy link f
      if f.typ = 0 then
        let s4 := s3.takeCredits link f
        (s4.flushLink link (s4.link link).waitOut.length).retryHeld
      else if f.seq != (s3.link link).rxSeq then s3.owesNak link
      else
        let s4 := (s3.takeCredits link f).takeFlit link f
        (s4.flushLink link (s4.link link).waitOut.length).retryHeld) :=
  congrArg Host.Outcome.next (State.ifB_true (by simp [hup, hl, hcarries]) _)

theorem exec_flit_refused
    (hbad : s.blockBad link (blockErrs data checks) = true ∨ f.crc ≠ crc ∨ (f.typ ≠ 0 ∧ f.nak = false ∧ f.seq ≠ (s.link link).rxSeq)) :
    exec (.flit link data checks crc f) s = .next ((s.fecDecode link (blockErrs data checks)).owesNak link) ∨
    exec (.flit link data checks crc f) s = .next (((s.fecDecode link (blockErrs data checks)).ackedBy link f).owesNak link) := by
  have hlink := State.fecDecode_link (s := s) (l := link) (errs := blockErrs data checks)
  rw [exec_flit hup hl hcarries]
  extract_lets s1 s3 s4 s5
  by_cases hblock : (s1.link link).rxBad = true
  · exact .inl (by rw [if_pos hblock])
  by_cases hcrc : f.crc = crc
  · obtain hbad | hbad | ⟨htyp, hnak, hseq⟩ := hbad
    · exact absurd (by simp only [s1, hlink, hbad]) hblock
    · exact absurd hcrc hbad
    · have hs3 : s3 = s1.ackedBy link f := if_neg (by simp [hnak])
      have hwrong : f.seq ≠ (s3.link link).rxSeq := by
        rw [hs3, State.ackedBy, State.link_updLink_same]
        simpa only [s1, hlink] using hseq
      exact .inr (by rw [if_neg hblock, if_neg (by simpa using hcrc), if_neg htyp, if_pos (by simpa using hwrong), hs3])
  · exact .inl (by rw [if_neg hblock, if_pos (by simpa using hcrc)])

end

/-- What a refused flit leaves: a NAK is owed, the block has moved on and is counted, and nothing is taken. -/
theorem State.owesNak_refuses {s u : State} {link : Nat} {errs : List Nat} (h : s.Sound q) (hl : link < 96) {f : Flit}
    (hu : u = s.fecDecode link errs ∨ u = (s.fecDecode link errs).ackedBy link f) :
    ((u.owesNak link).link link).nakOwed = true ∧ ((u.owesNak link).link link).rxSeq = (s.link link).rxSeq ∧
    (u.owesNak link).fab.inbox = s.fab.inbox ∧ (u.owesNak link).fab.held = s.fab.held ∧ (u.owesNak link).out = s.out ∧
    ((u.owesNak link).link link).rxPos = ((s.link link).rxPos + 1) % 5 ∧
    (u.owesNak link).getF Fld.hlkLkFecUncorr link = (if (s.link link).rxPos = 0 ∧ fecFails errs = true then
      min (s.getF Fld.hlkLkFecUncorr link + 1) (2 ^ 12 - 1) else s.getF Fld.hlkLkFecUncorr link) ∧
    (u.owesNak link).getF Fld.hlkLkFecSyms link = (if (s.link link).rxPos = 0 ∧ fecFails errs = false then
      min (s.getF Fld.hlkLkFecSyms link + errs.eraseDups.length) (2 ^ 32 - 1) else s.getF Fld.hlkLkFecSyms link) := by
  obtain ⟨hinbox, hheld, -, hout⟩ := State.fecDecode_fab (s := s) (l := link) (errs := errs)
  have hlink := State.fecDecode_link (s := s) (l := link) (errs := errs)
  rw [← State.fecDecode_uncorr h hl, ← State.fecDecode_syms h hl]
  simp only [State.owesNak, State.link_updLink_same, State.updLink_getF, State.updLink_out]
  rcases hu with rfl | rfl
  · exact ⟨trivial, by rw [hlink], hinbox, hheld, hout, by rw [hlink], rfl, rfl⟩
  · simp only [State.ackedBy, State.link_updLink_same, State.updLink_getF, State.updLink_out]
    exact ⟨trivial, by rw [hlink], hinbox, hheld, hout, by rw [hlink], trivial, trivial⟩

/-! ### A flit that is taken -/

/-- In `v` a link has received a whole flit: what the device holds is as in `s` but for the counters of the link and its sending side. -/
structure State.Received (link : Nat) (s v : State) : Prop where
  inbox : v.fab.inbox = s.fab.inbox
  held : v.fab.held = s.fab.held
  rx : v.fab.rx = s.fab.rx
  words : ∀ r j, r.addr j ≠ RegName.hlkLinkErr.addr link → v.rd r j = s.rd r j
  chases : v.chases = s.chases

/-- The state in which a flit in sequence is looked at. -/
def State.received (s : State) (link : Nat) (errs : List Nat) (f : Flit) : State :=
  ((s.fecDecode link errs).ackedBy link f).takeCredits link f

section
variable {s : State} {link crc : Nat} {data checks : List Nat} {f : Flit}

theorem State.received_spec (h : s.Sound q) (errs : List Nat) : State.Received link s (s.received link errs f) := by
  obtain ⟨hinbox, hheld, hrx, -⟩ := State.fecDecode_fab (s := s) (l := link) (errs := errs)
  refine ⟨hinbox, hheld, hrx, fun r j hne => ?_, ?_⟩
  · unfold State.received State.takeCredits State.ackedBy
    simp only [State.updLink_rd, State.fecDecode_rd h hne]
  · have hframe : State.Frame (maskBut [] [.chases]) s (s.fecDecode link errs) := State.fecDecode_frame h.frame rfl
    exact hframe.parts .chases rfl

theorem State.received_rxSeq (errs : List Nat) : ((s.received link errs f).link link).rxSeq = (s.link link).rxSeq := by
  unfold State.received State.takeCredits State.ackedBy
  simp only [State.link_updLink_same, State.fecDecode_link]

theorem State.received_sound (h : s.Sound q) (errs : List Nat) : (s.received link errs f).Sound q :=
  State.takeCredits_sound (State.updLink_sound (State.fecDecode_sound h))

theorem exec_flit_taken (hup : s.isUp = true) (hl : link < 96) (hcarries : s.linkCarries link = true)
    (hgood : s.blockBad link (blockErrs data checks) = false) (hcrc : f.crc = crc) (hseq : s.inSequence link f) :
    ∃ n, exec (.flit link data checks crc f) s =
      .next ((((s.received link (blockErrs data checks) f).takeFlit link f).flushLink link n).retryHeld) := by
  obtain ⟨htyp, hnak, hnext⟩ := hseq
  have hlink := State.fecDecode_link (s := s) (l := link) (errs := blockErrs data checks)
  rw [exec_flit hup hl hcarries]
  extract_lets s1 s3 s4 s5
  have hs3 : s3 = s1.ackedBy link f := if_neg (by simp [hnak])
  have hright : f.seq = (s3.link link).rxSeq := by
    rw [hs3, State.ackedBy, State.link_updLink_same]
    simpa only [s1, hlink] using hnext
  have hblock : ¬ (s1.link link).rxBad = true := by simp [s1, hlink, hgood]
  rw [if_neg hblock, if_neg (by simpa using hcrc), if_neg htyp, if_neg (by simpa using hright)]
  exact ⟨(s5.link link).waitOut.length, by simp only [s5, hs3]; rfl⟩

end

/-! ### Delivery -/

theorem State.markDone_ports (s : State) (src msg : Nat) : (s.markDone src msg).seen.2 = s.seen.2 := by
  unfold State.markDone
  split <;> rfl

theorem State.finishMsg_ports (s : State) (f : Flit) (status : Nat) : (s.finishMsg f status).seen.2 = s.seen.2 :=
  (congrArg Prod.snd (State.sendAck_seen ..)).trans (State.markDone_ports s f.src f.msg)

theorem State.closeMsg_ports (s : State) (f : Flit) (status : Nat) : (s.closeMsg f status).seen.2 = s.seen.2 := by
  unfold State.closeMsg
  extract_lets s1
  split
  · exact State.finishMsg_ports ..
  · rfl

theorem State.deliverFlit_ports (s : State) (f : Flit) : (s.deliverFlit f).seen.2 = s.seen.2 := by
  unfold State.deliverFlit
  extract_lets s1
  have hs1 : s1.seen.2 = s.seen.2 := congrArg Prod.snd (State.bump_seen ..)
  split_ifs
  · exact congrArg Prod.snd (State.bump_seen ..)
  · exact hs1
  · exact (State.closeMsg_ports ..).trans hs1
  · exact State.closeMsg_ports ..
  · exact State.closeMsg_ports ..
  · rfl

section
variable {s : State} {f : Flit}

/-- A flit of a message that is not complete waits for its command. -/
theorem State.deliverFlit_new (hnew : s.msgDone f.src f.msg = false)
    (htyp : f.typ = 0x10 ∨ f.typ = 0x11 ∨ f.typ = 0x20 ∨ f.typ = 0x30 ∨
      (f.typ = 0x31 ∧ 1 ≤ f.arg % 256 ∧ f.arg % 256 ≤ 9 ∧ ∃ c, s.slotOfTag f.chase = some c ∧ s.takesMsgs c = true)) :
    s.deliverFlit f = s.updFab fun x => { x with inbox := x.inbox ++ [f] } := by
  unfold State.deliverFlit
  obtain htyp | htyp | htyp | htyp | ⟨htyp, hlo, hhi, c, hslot, htakes⟩ := htyp
  · simp [htyp, hnew]
  · simp [htyp, hnew]
  · simp [htyp, hnew]
  · simp [htyp, hnew]
  · simp [htyp, hnew, hslot, htakes, Nat.not_lt.2 hhi, Nat.one_le_iff_ne_zero.1 hlo]

theorem State.deliverFlit_again (hdone : s.msgDone f.src f.msg = true)
    (htyp : f.typ = 0x10 ∨ f.typ = 0x11 ∨ f.typ = 0x20 ∨ f.typ = 0x30 ∨ f.typ = 0x31) :
    s.deliverFlit f = if f.typ = 0x20 then s.bump Fld.hlkE2eDups 0 1
      else (s.bump Fld.hlkE2eDups 0 1).closeMsg { f with payload := [] } ackDuplicate := by
  have hknown : ([0x10, 0x11, 0x20, 0x30, 0x31] : List Nat).contains f.typ = true := by simp [htyp]
  rw [State.deliverFlit, if_neg (by rw [hknown]; decide), if_pos hdone]

/-- Closing a message none of whose flits wait leaves the inbox. -/
theorem State.closeMsg_inbox (hnone : ∀ g ∈ s.fab.inbox, g.src = f.src → g.msg ≠ f.msg) (status : Nat) :
    (s.closeMsg f status).fab.inbox = s.fab.inbox := by
  have hkept : (s.keepPart f).fab.inbox = s.fab.inbox := List.erase_of_not_mem fun hf => hnone f hf rfl rfl
  have hdone (u : State) : (u.markDone f.src f.msg).fab.inbox = u.fab.inbox := by
    unfold State.markDone
    split <;> rfl
  unfold State.closeMsg
  extract_lets s1
  split
  · refine (State.seen_inbox (State.sendAck_seen ..)).trans ?_
    show List.filter _ (s1.markDone f.src f.msg).fab.inbox = _
    rw [hdone, hkept]
    exact List.filter_eq_self.2 fun g hg => by simpa [not_and_or, imp_iff_not_or] using hnone g hg
  · exact hkept

theorem State.closeMsg_getF {g : Field} {j : Nat} (h : s.Sound q) (hj : j < g.reg.info.count) (hg : g.reg ∉ [RegName.hlkRtStatus])
    (status : Nat) : (s.closeMsg f status).getF g j = s.getF g j :=
  State.SameBut.getF (ps := [.out, .fab]) ((State.closeMsg_frame (State.Frame.refl h.rise) (Nat.or_self _)).sameBut (by rfl)) hj hg

end

/-! ### Taking a flit -/

@[simp] theorem State.freeBuf_getF (s : State) (l vc : Nat) (g : Field) (j : Nat) : (s.freeBuf l vc).getF g j = s.getF g j := by
  unfold State.freeBuf
  split
  · exact State.updLink_getF ..
  · rfl

/-- The link expects the next sequence, and owes an acknowledgement. -/
def State.advanced (s : State) (l : Nat) : State := s.updLink l fun k => { k with rxSeq := (k.rxSeq + 1) % 4096, ackOwed := true }

section
variable {s : State} {l : Nat} {f : Flit}

theorem State.takeFlit_link (hvc : f.vc = 0) :
    s.takeFlit l f = (if f.typ ≤ 3 then s.advanced l else (s.advanced l).bump Fld.hlkRtUnroutable 0 1).freeBuf l 0 := if_pos hvc

theorem State.takeFlit_vc0_inbox (hvc : f.vc = 0) : (s.takeFlit l f).fab.inbox = s.fab.inbox := by
  rw [State.takeFlit_link hvc, State.seen_inbox (State.freeBuf_seen ..)]
  split
  · rfl
  · rw [State.bump_fab]
    rfl

theorem State.takeFlit_spent (hvc : f.vc ≠ 0) (hhops : f.hops = 255) :
    s.takeFlit l f = ((s.advanced l).bump Fld.hlkTtlDrops 0 1).freeBuf l f.vc := (if_neg hvc).trans (if_pos hhops)

variable (hvc : f.vc ≠ 0) (hhops : f.hops < 255) (hnode : s.hasNode = true) (hruns : s.linkRuns l = true)
include hvc hhops hnode hruns

theorem State.takeFlit_own (hdst : f.dst = s.nodeId) : s.takeFlit l f = ((s.advanced l).freeBuf l f.vc).deliverFlit f :=
  (if_neg hvc).trans <| (if_neg (Nat.ne_of_lt hhops)).trans <| (if_neg (by simp [hnode, hruns])).trans (if_pos hdst)

theorem State.takeFlit_other (hdst : f.dst ≠ s.nodeId) :
    s.takeFlit l f = (s.advanced l).routeFrom { f with hops := f.hops + 1 } l f.vc :=
  (if_neg hvc).trans <| (if_neg (Nat.ne_of_lt hhops)).trans <| (if_neg (by simp [hnode, hruns])).trans (if_neg hdst)

end

/-- A flit that is taken advances the sequence expected on its link. -/
theorem State.takeFlit_rxSeq (s : State) (l : Nat) (f : Flit) :
    ((s.takeFlit l f).link l).rxSeq = ((s.link l).rxSeq + 1) % 4096 := by
  have hports : (s.takeFlit l f).seen.2 = (s.advanced l).seen.2 := by
    unfold State.takeFlit
    extract_lets s1
    split_ifs
    · exact congrArg Prod.snd (State.freeBuf_seen ..)
    · exact congrArg Prod.snd ((State.freeBuf_seen ..).trans (State.bump_seen ..))
    · exact congrArg Prod.snd ((State.freeBuf_seen ..).trans (State.bump_seen ..))
    · exact congrArg Prod.snd (State.freeBuf_seen ..)
    · exact (State.deliverFlit_ports ..).trans (congrArg Prod.snd (State.freeBuf_seen ..))
    · exact congrArg Prod.snd (State.routeFrom_seen ..)
  have hseq : ((s.takeFlit l f).link l).rxSeq = ((s.advanced l).link l).rxSeq := by
    show ((s.takeFlit l f).seen.2 l).rxSeq = ((s.advanced l).seen.2 l).rxSeq
    rw [hports]
  rw [hseq, State.advanced, State.link_updLink_same]

/-- Without a route a flit is discarded (R608). -/
theorem State.way_of_none {s : State} {f : Flit} (h : bitOf (s.routeWord f.dst) 63 = false) : s.way f = .drop := by
  unfold State.way
  extract_lets w
  rw [show bitOf w 63 = false from h]
  rfl

theorem State.routeFrom_drop {s : State} {f : Flit} (h : s.way f = .drop) (l vc : Nat) :
    s.routeFrom f l vc = (s.bump Fld.hlkRtUnroutable 0 1).freeBuf l vc := by
  rw [State.routeFrom, h]

/-! ### What the device was in `s` -/

section
variable {s v : State} {link : Nat} (hv : State.Received link s v)
include hv

theorem State.Received.getF {g : Field} {j : Nat} (hne : g.reg.addr j ≠ RegName.hlkLinkErr.addr link) : v.getF g j = s.getF g j :=
  State.getF_of_rd (hv.words _ _ hne)

theorem State.Received.msgDone (src msg : Nat) : v.msgDone src msg = s.msgDone src msg := by
  unfold State.msgDone State.rxOf
  rw [hv.rx]

theorem State.Received.linkRuns : v.linkRuns link = s.linkRuns link := by
  have hstate : v.getF Fld.hlkLkState link = s.getF Fld.hlkLkState link :=
    hv.getF (by simp only [Fld.hlkLkState, RegName.addr, RegName.info]; omega)
  unfold State.linkRuns
  rw [hstate]

theorem State.Received.cs {c : Nat} (hc : c < 16) : v.cs c = s.cs c :=
  hv.getF (by simp only [Fld.sysChaseState, RegName.addr, RegName.info]; omega)

theorem State.Received.slotOfTag (tag : Nat) : v.slotOfTag tag = s.slotOfTag tag := by
  refine List.find?_congr fun c hc => ?_
  rw [hv.cs (List.mem_range.1 hc), State.forme, State.forme, State.chase_congr hv.chases]

theorem State.Received.takesMsgs {c : Nat} (hc : c < 16) : v.takesMsgs c = s.takesMsgs c := by
  unfold State.takesMsgs State.csActive
  rw [hv.cs hc]

variable (hl : link < 96)
include hl

theorem State.Received.fabric {g : Field} {j : Nat} (hg : 0x1080000 ≤ g.reg.addr j) : v.getF g j = s.getF g j := by
  refine hv.getF fun heq => ?_
  rw [heq] at hg
  simp only [RegName.addr, RegName.info] at hg
  omega

theorem State.Received.hasNode_of (hnode : s.getF Fld.hlkNdState 0 = 1 ∨ s.getF Fld.hlkNdState 0 = 2) : v.hasNode = true := by
  unfold State.hasNode
  rw [hv.fabric hl (g := Fld.hlkNdState) (by decide)]
  simpa using hnode

theorem State.Received.nodeId : v.nodeId = s.nodeId := hv.fabric hl (by decide)

theorem State.Received.routeWord (dst : Nat) : v.routeWord dst = s.routeWord dst := by
  unfold State.routeWord
  rw [hv.nodeId hl, hv.words .hlkRtMember _ (by simp only [RegName.addr, RegName.info]; omega),
    hv.words .hlkRtGroup _ (by simp only [RegName.addr, RegName.info]; omega)]

end

theorem State.slotOfTag_lt {s : State} {tag c : Nat} (h : s.slotOfTag tag = some c) : c < 16 :=
  List.mem_range.1 (List.mem_of_find?_eq_some h)

/-! ### What a flit that is taken leaves -/

section
variable {s v : State} {link : Nat} {f : Flit} (hv : State.Received link s v) (hl : link < 96) (h : v.Sound q) (n : Nat)

theorem State.takeFlit_sequence (hnext : (v.link link).rxSeq = (s.link link).rxSeq) : ((((v.takeFlit link f).flushLink link n).retryHeld).link link).rxSeq = ((s.link link).rxSeq + 1) % 2 ^ 12 := by
  show _ = ((s.link link).rxSeq + 1) % 4096
  rw [State.seen_rxSeq (State.retryHeld_seen _), State.seen_rxSeq (State.flushLink_seen ..), State.takeFlit_rxSeq, hnext]

theorem State.sent_inbox (u : State) : ((u.flushLink link n).retryHeld).fab.inbox = u.fab.inbox := by
  rw [State.seen_inbox (State.retryHeld_seen _), State.seen_inbox (State.flushLink_seen ..)]

theorem State.sent_getF {u : State} (hu : u.Sound q) {g : Field} {j : Nat} (hj : j < g.reg.info.count) (hg : g.reg ∉ [RegName.hlkRtStatus]) :
    ((u.flushLink link n).retryHeld).getF g j = u.getF g j := by
  have hflush : State.SameBut [] [.out, .fab, .time] u (u.flushLink link n) :=
    (State.flushLink_frame (State.Frame.refl hu.rise) (Nat.or_self _)).sameBut (by rfl)
  have hretry : State.SameBut [.hlkRtStatus] [.out, .fab] (u.flushLink link n) (u.flushLink link n).retryHeld :=
    (State.retryHeld_frame (State.Frame.refl (State.flushLink_sound hu).rise) (Nat.or_self _)).sameBut (by rfl)
  exact (hretry.getF hj hg).trans (hflush.getF hj (by simp))

/-- With no flit held, what waits on the link goes out and nothing else. -/
theorem State.sent_alone {u : State} (hu : u.Sound q) (hheld : u.fab.held = []) :
    ((u.flushLink link n).retryHeld).fab.held = [] ∧
    ((u.flushLink link n).retryHeld).getF Fld.hlkRtUnroutable 0 = u.getF Fld.hlkRtUnroutable 0 := by
  have hflushed : (u.flushLink link n).fab.held = [] := (State.flushLink_held ..).trans hheld
  have hframe : State.Frame (maskBut [.hlkRtStatus] []) u (u.flushLink link n) := State.flushLink_frame (State.Frame.refl hu.rise) rfl
  rw [State.retryHeld_of_none hflushed]
  exact ⟨hflushed, State.getF_of_frame hframe (by decide) rfl⟩

include hv hl h

theorem State.unroutable_counts (hheld : s.fab.held = []) (vc : Nat) {u : State}
    (hu : u = (((v.advanced link).bump Fld.hlkRtUnroutable 0 1).freeBuf link vc)) :
    ((u.flushLink link n).retryHeld).fab.held = [] ∧
    ((u.flushLink link n).retryHeld).getF Fld.hlkRtUnroutable 0 = min (s.getF Fld.hlkRtUnroutable 0 + 1) (2 ^ 16 - 1) := by
  have hadv : (v.advanced link).Sound q := State.updLink_sound h
  have hnone : u.fab.held = [] := by
    rw [hu, State.freeBuf_held, State.bump_fab]
    exact hv.held.trans hheld
  have hsound : u.Sound q := hu ▸ State.freeBuf_sound (State.bump_sound hadv)
  obtain ⟨hempty, hkept⟩ := State.sent_alone (link := link) n hsound hnone
  have hcount := State.getF_bump_width (f := Fld.hlkRtUnroutable) (i := 0) (w := 16) (n := 1) hadv ⟨by decide, by decide, by decide⟩ (by decide) rfl
  have hbefore : (v.advanced link).getF Fld.hlkRtUnroutable 0 = s.getF Fld.hlkRtUnroutable 0 :=
    (State.updLink_getF ..).trans (hv.fabric hl (by decide))
  refine ⟨hempty, hkept.trans ?_⟩
  rw [hu, State.freeBuf_getF, ← hbefore]
  exact hcount

theorem State.ttl_counts {u : State} (vc : Nat) (hu : u = (((v.advanced link).bump Fld.hlkTtlDrops 0 1).freeBuf link vc)) :
    ((u.flushLink link n).retryHeld).fab.inbox = s.fab.inbox ∧
    ((u.flushLink link n).retryHeld).getF Fld.hlkTtlDrops 0 = min (s.getF Fld.hlkTtlDrops 0 + 1) (2 ^ 16 - 1) := by
  have hadv : (v.advanced link).Sound q := State.updLink_sound h
  have hsound : u.Sound q := hu ▸ State.freeBuf_sound (State.bump_sound hadv)
  have hcount := State.getF_bump_width (f := Fld.hlkTtlDrops) (i := 0) (w := 16) (n := 1) hadv ⟨by decide, by decide, by decide⟩ (by decide) rfl
  have hbefore : (v.advanced link).getF Fld.hlkTtlDrops 0 = s.getF Fld.hlkTtlDrops 0 :=
    (State.updLink_getF ..).trans (hv.fabric hl (by decide))
  refine ⟨?_, (State.sent_getF n hsound (by decide) (by decide)).trans ?_⟩
  · rw [State.sent_inbox, hu, State.seen_inbox (State.freeBuf_seen ..), State.bump_fab]
    exact hv.inbox
  · rw [hu, State.freeBuf_getF, ← hbefore]
    exact hcount

end

section
variable {s v : State} {link : Nat} {f : Flit} (hv : State.Received link s v) (n : Nat)
include hv

/-- Its place in the buffer of its link is free again. -/
theorem State.Received.freed (vc : Nat) : State.Received link s ((v.advanced link).freeBuf link vc) := by
  have hseen := State.freeBuf_seen (v.advanced link) link vc
  refine ⟨(State.seen_inbox hseen).trans hv.inbox, (State.freeBuf_held ..).trans hv.held, (State.seen_rx hseen).trans hv.rx,
    fun r j hne => Eq.trans ?_ (hv.words r j hne), Eq.trans ?_ hv.chases⟩
  · unfold State.freeBuf State.advanced
    split <;> simp
  · unfold State.freeBuf State.advanced
    split <;> simp

/-- A flit for this device of a message that is not complete joins the inbox. -/
theorem State.new_waits (hnew : s.msgDone f.src f.msg = false)
    (htyp : f.typ = 0x10 ∨ f.typ = 0x11 ∨ f.typ = 0x20 ∨ f.typ = 0x30 ∨
      (f.typ = 0x31 ∧ 1 ≤ f.arg % 256 ∧ f.arg % 256 ≤ 9 ∧ ∃ c, s.slotOfTag f.chase = some c ∧ s.takesMsgs c = true)) :
    (((v.deliverFlit f).flushLink link n).retryHeld).fab.inbox = s.fab.inbox ++ [f] := by
  have htyp' : f.typ = 0x10 ∨ f.typ = 0x11 ∨ f.typ = 0x20 ∨ f.typ = 0x30 ∨
      (f.typ = 0x31 ∧ 1 ≤ f.arg % 256 ∧ f.arg % 256 ≤ 9 ∧ ∃ c, v.slotOfTag f.chase = some c ∧ v.takesMsgs c = true) := by
    refine htyp.imp_right (Or.imp_right (Or.imp_right (Or.imp_right ?_)))
    rintro ⟨htyp, hlo, hhi, c, hslot, htakes⟩
    exact ⟨htyp, hlo, hhi, c, by rw [hv.slotOfTag, hslot], by rw [hv.takesMsgs (State.slotOfTag_lt hslot), htakes]⟩
  rw [State.sent_inbox, State.deliverFlit_new (by rw [hv.msgDone, hnew]) htyp', ← hv.inbox]
  rfl

/-- One of a complete message is counted, and what waits in the inbox stays. -/
theorem State.duplicate_counts (hl : link < 96) (h : v.Sound q) (hdone : s.msgDone f.src f.msg = true)
    (htyp : f.typ = 0x10 ∨ f.typ = 0x11 ∨ f.typ = 0x20 ∨ f.typ = 0x30 ∨ f.typ = 0x31) :
    ((∀ g ∈ s.fab.inbox, g.src = f.src → g.msg ≠ f.msg) →
      (((v.deliverFlit f).flushLink link n).retryHeld).fab.inbox = s.fab.inbox) ∧
    (((v.deliverFlit f).flushLink link n).retryHeld).getF Fld.hlkE2eDups 0 = min (s.getF Fld.hlkE2eDups 0 + 1) (2 ^ 16 - 1) := by
  have hsound : (v.bump Fld.hlkE2eDups 0 1).Sound q := State.bump_sound h
  have hcount := State.getF_bump_width (f := Fld.hlkE2eDups) (i := 0) (w := 16) (n := 1) h ⟨by decide, by decide, by decide⟩ (by decide) rfl
  rw [hv.fabric hl (by decide)] at hcount
  rw [State.sent_inbox, State.sent_getF n (State.deliverFlit_sound h) (by decide) (by decide),
    State.deliverFlit_again (by rw [hv.msgDone, hdone]) htyp, ← hcount, ← hv.inbox, ← State.bump_fab v Fld.hlkE2eDups 0 1]
  split
  · exact ⟨fun _ => rfl, rfl⟩
  · exact ⟨fun hnone => State.closeMsg_inbox (f := { f with payload := [] }) hnone _,
      State.closeMsg_getF hsound (by decide) (by decide) _⟩

end

theorem exec_ackIdle {s : State} {link : Nat} (hup : s.isUp = true) (hl : link < 96) (hcarries : s.linkCarries link = true)
    (howed : (s.link link).ackOwed = true ∨ (s.link link).nakOwed = true) : ∃ r0 r1 left, exec (.ackIdle link) s =
    .next ((s.updLink link fun k => { k with ackOwed := false, nakOwed := false, toReturn := left }).putFlit link
      { linkFlit 0 0 with ack := ((s.link link).rxSeq + 4095) % 4096, nak := (s.link link).nakOwed, cr0 := r0, cr1 := r1 }) :=
  ⟨_, _, _, congrArg Host.Outcome.next (State.ifB_true (by simpa [hup, hl, hcarries] using howed) _)⟩

/-- A flit goes out; with the last of a block its check symbols follow. -/
theorem State.putFlit_out (s : State) (l : Nat) (f : Flit) : .flit l f ∈ (s.putFlit l f).out ∧
    ((s.link l).txBlock.length < 4 → (s.putFlit l f).out = .flit l f :: s.out) := by
  unfold State.putFlit
  extract_lets b s1
  have hlength : b.length = (s.link l).txBlock.length + 1 := by simp [b]
  split
  · exact ⟨List.mem_cons_self .., fun _ => rfl⟩
  · next hfull => exact ⟨List.mem_cons_of_mem _ (List.mem_cons_self ..), fun hroom => absurd hroom (by omega)⟩

theorem State.putFlit_link (s : State) (l : Nat) (f : Flit) : ∃ b, (s.putFlit l f).link l = { s.link l with txBlock := b } := by
  unfold State.putFlit
  extract_lets b s1
  split
  · exact ⟨_, State.link_updLink_same ..⟩
  · exact ⟨_, State.link_updLink_same ..⟩

/-- Settles O50: a block is decoded and counted first; a refused flit changes nothing but what its link owes, and a taken one goes on by
its channel, its hops and its destination. -/
theorem flitsArriveInSequence : Obligations.FlitsArriveInSequence := by
  unfold Obligations.FlitsArriveInSequence
  refine ⟨fun link data checks crc f s hs hup hl hcarries => ⟨fun hbad => ?_, fun hgood hcrc hseq => ?_⟩,
    fun link s hs hup hl hcarries => ⟨fun howed => ?_, fun hack hnak => ?_⟩⟩
  · have h := State.sound_of_canonical hs
    rcases exec_flit_refused hup hl hcarries hbad with hexec | hexec
    · exact ⟨_, hexec, State.owesNak_refuses (f := f) h hl (.inl rfl)⟩
    · exact ⟨_, hexec, State.owesNak_refuses h hl (.inr rfl)⟩
  · have h := State.sound_of_canonical hs
    obtain ⟨n, hexec⟩ := exec_flit_taken hup hl hcarries hgood hcrc hseq
    have hv := State.received_spec (link := link) (f := f) h (blockErrs data checks)
    have hsound := State.received_sound (link := link) (f := f) h (blockErrs data checks)
    have hnext := State.received_rxSeq (s := s) (link := link) (f := f) (blockErrs data checks)
    generalize s.received link (blockErrs data checks) f = v at hexec hv hsound hnext
    refine ⟨_, hexec, State.takeFlit_sequence n hnext, fun hvc => ⟨?_, fun htyp hheld => ?_⟩, fun hvc hhops => ?_,
      fun hvc hhops hnode hruns => ⟨fun hdst => ?_, fun hdst hnew htyp => ?_, fun hdst hdone htyp => ?_⟩⟩
    · rw [State.sent_inbox, State.takeFlit_vc0_inbox hvc, hv.inbox]
    · refine (State.unroutable_counts hv hl hsound n hheld 0 ((State.takeFlit_link hvc).trans ?_)).2
      rw [if_neg (by omega)]
    · exact State.ttl_counts hv hl hsound n f.vc (State.takeFlit_spent hvc hhops)
    · have hother := State.takeFlit_other hvc hhops (hv.hasNode_of hl hnode) ((hv.linkRuns).trans hruns)
        (fun heq => hdst (heq.trans (hv.nodeId hl)))
      rw [hother]
      refine ⟨?_, fun hheld hroute => ?_⟩
      · rw [State.sent_inbox, State.seen_inbox (State.routeFrom_seen ..)]
        exact hv.inbox
      · refine State.unroutable_counts hv hl hsound n hheld f.vc (State.routeFrom_drop (State.way_of_none ?_) ..)
        exact (congrArg (bitOf · 63) (hv.routeWord hl f.dst)).trans hroute
    · rw [State.takeFlit_own hvc hhops (hv.hasNode_of hl hnode) ((hv.linkRuns).trans hruns) (hdst.trans (hv.nodeId hl).symm)]
      exact State.new_waits (hv.freed f.vc) n hnew htyp
    · rw [State.takeFlit_own hvc hhops (hv.hasNode_of hl hnode) ((hv.linkRuns).trans hruns) (hdst.trans (hv.nodeId hl).symm)]
      exact State.duplicate_counts (hv.freed f.vc) n hl (State.freeBuf_sound (State.updLink_sound hsound)) hdone htyp
  · obtain ⟨r0, r1, left, hexec⟩ := exec_ackIdle hup hl hcarries howed
    have hrise := (State.sound_of_canonical hs).rise
    obtain ⟨hsent, halone⟩ := State.putFlit_out (s.updLink link fun k => { k with ackOwed := false, nakOwed := false, toReturn := left }) link
      { linkFlit 0 0 with ack := ((s.link link).rxSeq + 4095) % 4096, nak := (s.link link).nakOwed, cr0 := r0, cr1 := r1 }
    obtain ⟨b, hlink⟩ := State.putFlit_link (s.updLink link fun k => { k with ackOwed := false, nakOwed := false, toReturn := left }) link
      { linkFlit 0 0 with ack := ((s.link link).rxSeq + 4095) % 4096, nak := (s.link link).nakOwed, cr0 := r0, cr1 := r1 }
    rw [State.link_updLink_same] at hlink halone
    refine ⟨_, _, hexec, hsent, rfl, halone, rfl, rfl, ?_, ?_, ?_, ?_⟩
    · rw [hlink]
    · rw [hlink]
    · rw [hlink]
    · exact (State.putFlit_frame (State.updLink_frame (State.Frame.refl hrise) rfl) (Nat.or_self _)).sameBut (by rfl)
  · exact congrArg Host.Outcome.next (State.ifB_false (by simp [hack, hnak]) _)

end Sys2Proof.Machine
end

section
/-! SUPPORT. Messages at their destination: the flits that have come, and the window of complete messages (R588, R591, R592). -/

namespace Sys2Proof.Machine

variable {q : List Instr}

/-! ### The window of a source (R591) -/

/-- What is complete stays complete as the watermark rises over it. -/
theorem raiseMark_keeps {m : Nat} (n : Nat) : ∀ (w : Nat) (l : List Nat), m < w ∨ m ∈ l →
    m < (raiseMark n w l).1 ∨ m ∈ (raiseMark n w l).2 := by
  induction n with
  | zero => exact fun w l h => h
  | succ n ih =>
    intro w l h
    rw [raiseMark]
    split
    · refine ih (w + 1) _ ?_
      by_cases hw : m < w + 1
      · exact .inl hw
      · exact .inr (List.mem_filter.2 ⟨h.resolve_left (by omega), by simpa using (show m ≠ w by omega)⟩)
    · exact h

theorem State.msgDone_iff (s : State) (src msg : Nat) : s.msgDone src msg = true ↔ msg < (s.rxOf src).1 ∨ msg ∈ (s.rxOf src).2 := by
  simp [State.msgDone]

theorem State.msgDone_congr {s t : State} (h : t.fab.rx = s.fab.rx) (src msg : Nat) : t.msgDone src msg = s.msgDone src msg := by
  unfold State.msgDone State.rxOf; rw [h]

theorem State.msgDone_markDone (s : State) (src msg : Nat) : (s.markDone src msg).msgDone src msg = true := by
  unfold State.markDone
  split
  · next hdone => exact hdone
  · next hnew =>
    rw [State.msgDone_iff] at hnew
    generalize s.rxOf src = e at hnew
    obtain ⟨w, l⟩ := e
    have hw : w ≤ msg := Nat.le_of_not_lt fun hlt => hnew (.inl hlt)
    dsimp only
    generalize hw0 : (if w + 64 ≤ msg then msg - 63 else w) = w0
    have hle : w0 ≤ msg := by
      rw [← hw0]
      split
      · exact Nat.sub_le ..
      · exact hw
    have hkept := raiseMark_keeps (m := msg) 65 w0 ((msg :: l).filter fun m => decide (w0 ≤ m)) (.inr (by simp [hle]))
    generalize raiseMark 65 w0 ((msg :: l).filter fun m => decide (w0 ≤ m)) = e at hkept
    rw [State.msgDone_iff]
    simpa [State.rxOf, State.updFab] using hkept

/-! ### The flits of a message -/

theorem addPart_index (l : List Flit) (f : Flit) : ∃ g ∈ addPart l f, g.index = f.index := by
  unfold addPart
  split
  · next hany => simpa using hany
  · exact ⟨f, by simp, rfl⟩

theorem State.partsOf_keepPart (s : State) (f : Flit) : (s.keepPart f).partsOf f.src f.msg = addPart (s.partsOf f.src f.msg) f := by
  simp [State.keepPart, State.partsOf, State.updFab]

/-! ### Finishing a message -/

theorem State.finishMsg_msgDone (s : State) (f : Flit) (status : Nat) : (s.finishMsg f status).msgDone f.src f.msg = true :=
  (State.msgDone_congr (State.seen_rx (State.sendAck_seen ..)) _ _).trans (State.msgDone_markDone s f.src f.msg)

/-- A message that is finished has no flit left in the inbox. -/
theorem State.finishMsg_inbox (s : State) (f : Flit) (status : Nat) : ∀ g ∈ (s.finishMsg f status).fab.inbox, g.src = f.src → g.msg ≠ f.msg := by
  intro g hg hsrc hmsg
  rw [State.finishMsg, State.seen_inbox (State.sendAck_seen ..)] at hg
  have hkept := (List.mem_filter.1 hg).2
  simp [hsrc, hmsg] at hkept

/-- Nothing that came before it waiting for the host, the message that has come whole is finished with those that waited. -/
theorem State.unseenVisible_finishes {s : State} (hnone : s.host.heldWrites = []) {l : List (Flit × List Nat)} {f : Flit} {lines : List Nat}
    (hunseen : s.fab.unseen = l ++ [(f, lines)]) : ∃ u : State, s.unseenVisible = u.finishMsg f ackOk := by
  have hlines : s.waitingLines = [] := by
    unfold State.waitingLines
    rw [hnone]
    rfl
  unfold State.unseenVisible
  extract_lets held ok
  have hok : ∀ e ∈ s.fab.unseen, ok e = true := fun e _ => by simp [ok, held, hlines]
  rw [List.filter_eq_self.2 hok, hunseen, List.foldl_append]
  exact ⟨_, rfl⟩

end Sys2Proof.Machine
end

section
/-! PROOF. Messages do their work: WRITE, APPEND, ACK, FABRIC_SIGNAL and the end-to-end timeout (R543, R588 to R593, R598). -/

namespace Sys2Proof.Machine

variable {q : List Instr}

section
variable {s : State} (h : s.Sound q)
include h

theorem State.keepPart_sameBut (f : Flit) : State.SameBut [] [.fab] s (s.keepPart f) :=
  (State.keepPart_frame (State.Frame.refl h.rise) (Nat.or_self _)).sameBut (by rfl)

theorem State.finishMsg_sameBut (f : Flit) (status : Nat) : State.SameBut [.hlkRtStatus] [.fab, .out] s (s.finishMsg f status) :=
  (State.finishMsg_frame (State.Frame.refl h.rise) (Nat.or_self _)).sameBut (by rfl)

theorem State.plateStore_fab (c a : Nat) (bs : Bytes) : (s.plateStore c a bs).fab = s.fab := by
  have hframe : State.Frame (maskBut [] [.fab]) s (s.plateStore c a bs) := State.plateStore_frame (State.Frame.refl h.rise) rfl
  exact hframe.parts .fab rfl

end

theorem State.partsOf_congr {s t : State} (h : t.fab = s.fab) (src msg : Nat) : t.partsOf src msg = s.partsOf src msg := by
  unfold State.partsOf; rw [h]

/-! ### WRITE (R588, R589) -/

section
variable {s : State} {f : Flit} (hin : s.hasIn f 0x10 = true)
include hin

theorem exec_write {c : Nat} (hslot : s.slotOfTag f.chase = some c) (htakes : s.takesMsgs c = true) (hlo : 4096 ≤ f.arg + 220 * f.index)
    (hhi : f.arg + 220 * f.index + f.plen ≤ 2 ^ 44) : exec (.write f) s = .next
    (let s1 := (s.plateStore c (f.arg + 220 * f.index) (f.payload.take f.plen)).keepPart f
    if allParts (s1.partsOf f.src f.msg) then (s1.updFab fun x => { x with unseen := x.unseen ++ [(f, s1.waitingLines)] }).unseenVisible
    else s1) := by
  refine congrArg Host.Outcome.next ((State.ifB_true hin _).trans ?_)
  dsimp only
  rw [hslot]
  dsimp only
  rw [if_neg (by simp [htakes]), if_neg (by omega)]

theorem exec_write_refused (hno : ∀ c, s.slotOfTag f.chase = some c → s.takesMsgs c = false) : exec (.write f) s = .next
    (if allParts ((s.keepPart f).partsOf f.src f.msg) then (s.keepPart f).finishMsg f ackRefused else s.keepPart f) := by
  refine congrArg Host.Outcome.next ((State.ifB_true hin _).trans ?_)
  dsimp only
  split
  · next c hc => exact if_pos (by simp [hno c hc])
  · rfl

/-- A flit of a WRITE is stored as it comes; with the last of them the message is complete, unless data of it waits for the host. -/
theorem write_stores (h : s.Sound q) {c : Nat} (hslot : s.slotOfTag f.chase = some c) (htakes : s.takesMsgs c = true)
    (hlo : 4096 ≤ f.arg + 220 * f.index) (hhi : f.arg + 220 * f.index + f.plen ≤ 2 ^ 44) :
    ∃ t, exec (.write f) s = .next t ∧ (∀ p, p ∉ [Part.fab, Part.out] →
        samePart p (s.plateStore c (f.arg + 220 * f.index) (f.payload.take f.plen)) t) ∧
      (allParts (addPart (s.partsOf f.src f.msg) f) = false → t.fab.rx = s.fab.rx ∧ t.fab.inbox = s.fab.inbox.erase f ∧
        ∃ g ∈ t.partsOf f.src f.msg, g.index = f.index) ∧
      (allParts (addPart (s.partsOf f.src f.msg) f) = true →
        (s.plateStore c (f.arg + 220 * f.index) (f.payload.take f.plen)).host.heldWrites = [] →
        t.msgDone f.src f.msg = true ∧ ∀ g ∈ t.fab.inbox, g.src = f.src → g.msg ≠ f.msg) := by
  rw [exec_write hin hslot htakes hlo hhi]
  have hfab := State.plateStore_fab h c (f.arg + 220 * f.index) (f.payload.take f.plen)
  have hstored : (s.plateStore c (f.arg + 220 * f.index) (f.payload.take f.plen)).Sound q := State.plateStore_sound h
  generalize s.plateStore c (f.arg + 220 * f.index) (f.payload.take f.plen) = u at hfab hstored
  extract_lets s1
  have hsame : State.SameBut [] [.fab] u s1 := State.keepPart_sameBut hstored f
  have hparts : s1.partsOf f.src f.msg = addPart (s.partsOf f.src f.msg) f :=
    (State.partsOf_keepPart u f).trans (by rw [State.partsOf_congr hfab])
  rw [hparts]
  by_cases hall : allParts (addPart (s.partsOf f.src f.msg) f) = true
  · rw [if_pos hall]
    let s2 := s1.updFab fun x => { x with unseen := x.unseen ++ [(f, s1.waitingLines)] }
    have hseen : State.SameBut [.hlkRtStatus] [.fab, .out] u s2.unseenVisible :=
      (State.unseenVisible_frame (State.updFab_frame (State.keepPart_frame (State.Frame.refl hstored.rise) rfl) rfl) (Nat.or_self _)).sameBut (by rfl)
    refine ⟨_, rfl, fun p hp => hseen.part hp, fun hmore => ?_, fun _ hnone => ?_⟩
    · simp [hall] at hmore
    · obtain ⟨v, hv⟩ := State.unseenVisible_finishes (s := s2) hnone rfl
      rw [hv]
      exact ⟨State.finishMsg_msgDone .., State.finishMsg_inbox v f ackOk⟩
  · rw [if_neg hall]
    refine ⟨_, rfl, fun p hp => hsame.part (by simp_all), fun _ => ⟨?_, ?_, ?_⟩, fun hwhole => absurd hwhole hall⟩
    · exact show u.fab.rx = s.fab.rx from congrArg FabSt.rx hfab
    · exact show u.fab.inbox.erase f = s.fab.inbox.erase f from congrArg (fun x => x.inbox.erase f) hfab
    · rw [hparts]
      exact addPart_index ..

/-- A WRITE for a chase that takes no message stores nothing. -/
theorem write_refused (h : s.Sound q) (hno : ∀ c, s.slotOfTag f.chase = some c → s.takesMsgs c = false) :
    ∃ t, exec (.write f) s = .next t ∧ (∀ p, p ∉ [Part.fab, Part.out] → samePart p s t) ∧
      (allParts (addPart (s.partsOf f.src f.msg) f) = true → t.msgDone f.src f.msg = true) := by
  rw [exec_write_refused hin hno, State.partsOf_keepPart]
  split
  · have hsame : State.SameBut [.hlkRtStatus] [.fab, .out] s ((s.keepPart f).finishMsg f ackRefused) :=
      (State.finishMsg_frame (State.keepPart_frame (State.Frame.refl h.rise) rfl) (Nat.or_self _)).sameBut (by rfl)
    exact ⟨_, rfl, fun p hp => hsame.part hp, fun _ => State.finishMsg_msgDone ..⟩
  · next hmore => exact ⟨_, rfl, fun p hp => (State.keepPart_sameBut h f).part (by simp_all), fun hwhole => absurd hwhole hmore⟩

end

/-! ### APPEND (R589, R598) -/

theorem bitsOf_queue (n : Nat) (hn : n < 2 ^ 48) : bitsOf n 63 48 = 0 ∧ bitsOf n 47 44 = n / 2 ^ 44 ∧ bitsOf n 43 0 = n % 2 ^ 44 := by
  simp only [bitsOf, Nat.shiftRight_eq_div_pow]
  omega

section
variable {s : State} {f : Flit} (hin : s.hasIn f 0x11 = true)
include hin

theorem exec_append_part (hmore : allParts (addPart (s.partsOf f.src f.msg) f) = false) : exec (.append f) s = .next (s.keepPart f) := by
  refine congrArg Host.Outcome.next ((State.ifB_true hin _).trans ?_)
  dsimp only
  rw [State.partsOf_keepPart, if_pos (by rw [hmore]; rfl)]

theorem exec_append_whole {c : Nat} (hall : allParts (addPart (s.partsOf f.src f.msg) f) = true) (hslot : s.slotOfTag f.chase = some c)
    (htakes : s.takesMsgs c = true) (harg : f.arg < 2 ^ 48) (hdelta : ∀ e ∈ (s.chase c).deltaIn, e.2.2.1 ≠ f.src ∨ e.2.2.2.1 ≠ f.msg)
    {u : State} {st : Nat} (htaken : (s.keepPart f).takeAppend c (f.arg / 2 ^ 44) (f.arg % 2 ^ 44) f.src f.msg
      (joinParts (addPart (s.partsOf f.src f.msg) f)) = (u, some st)) :
    exec (.append f) s = .next (u.finishMsg f st) := by
  obtain ⟨hnone, hkind, htarget⟩ := bitsOf_queue f.arg harg
  have hslot' : (s.keepPart f).slotOfTag f.chase = some c := hslot
  have htakes' : (s.keepPart f).takesMsgs c = true := htakes
  have hdelta' : ((s.keepPart f).chase c).deltaIn.any (fun e => e.2.2.1 == f.src && e.2.2.2.1 == f.msg) = false := by
    rw [List.any_eq_false]
    intro e he
    simpa [not_and_or, imp_iff_not_or] using hdelta e he
  refine congrArg Host.Outcome.next ((State.ifB_true hin _).trans ?_)
  dsimp only
  rw [State.partsOf_keepPart, if_neg (by rw [hall]; decide), hslot']
  dsimp only
  rw [if_neg (by rw [htakes']; decide), if_neg (by rw [hnone]; decide), if_neg (by rw [hdelta']; decide), hkind, htarget, htaken]

end

section
variable {s : State} {c target src msg : Nat} {data : Bytes}

theorem State.takeAppend_reduce : s.takeAppend c qkReduce target src msg data = (s.updChase c fun x =>
    { x with redIn := x.redIn ++ [(target % 2 ^ 16, (ptOrdinal (s.forme c) src).getD 0, target / 2 ^ 16, data)] }, some ackOk) := by
  rw [State.takeAppend, if_pos rfl]

theorem State.takeAppend_request {g : GalleySt} (hg : s.galley c target = some g) (hok : lookupReqsOk data = true) (hlen : data.length % 16 = 0)
    (hroom : g.reqIn.length + ((pieces 16 data).map lookupReqOf).length ≤ reqInMax) : s.takeAppend c qkRequest target src msg data =
    (s.setGalley c target { g with reqIn := g.reqIn ++ (pieces 16 data).map lookupReqOf }, some ackOk) := by
  have hkinds : qkRequest ≠ qkReduce ∧ qkRequest ≠ qkGuest := by decide
  unfold State.takeAppend
  extract_lets x g' count from_ rs held
  have hheld : held = g.reqIn.length := by simp only [held, g', hg]
  have hgood : ((g'.isNone && qkRequest != qkArrDelta) || decide (4 < qkRequest) || (qkRequest != qkPartial && data.length % 16 != 0) ||
      (qkRequest == qkRequest && !lookupReqsOk data) || ((qkRequest == qkGalDelta || qkRequest == qkArrDelta) && !deltaRecsOk data)) = false := by
    simp [g', hg, hok, hlen, qkRequest, qkArrDelta, qkGalDelta]
  rw [if_neg hkinds.1, if_neg hkinds.2, if_neg (by rw [hgood]; decide), if_pos rfl, if_pos (by rw [hheld]; exact hroom), State.updGalley, hg]

theorem State.finishMsg_chase (h : s.Sound q) (f : Flit) (status : Nat) (k : Nat) : (s.finishMsg f status).chase k = s.chase k :=
  State.chase_congr ((State.finishMsg_sameBut h f status).part (p := .chases) (by decide)) k

end

section
variable {s : State} {f : Flit} (h : s.Sound q) (hin : s.hasIn f 0x11 = true)
include h hin

theorem append_keeps (hmore : allParts (addPart (s.partsOf f.src f.msg) f) = false) :
    ∃ t, exec (.append f) s = .next t ∧ State.SameBut [] [.fab] s t ∧ t.fab.inbox = s.fab.inbox.erase f ∧
      t.fab.rx = s.fab.rx ∧ ∃ g ∈ t.partsOf f.src f.msg, g.index = f.index := by
  refine ⟨_, exec_append_part hin hmore, State.keepPart_sameBut h f, rfl, rfl, ?_⟩
  rw [State.partsOf_keepPart]
  exact addPart_index ..

variable {c : Nat} (hall : allParts (addPart (s.partsOf f.src f.msg) f) = true) (hslot : s.slotOfTag f.chase = some c)
  (htakes : s.takesMsgs c = true) (harg : f.arg < 2 ^ 48) (hdelta : ∀ e ∈ (s.chase c).deltaIn, e.2.2.1 ≠ f.src ∨ e.2.2.2.1 ≠ f.msg)
include hall hslot htakes harg hdelta

/-- What a message says for an accumulator joins the slot's queue of them. -/
theorem append_reduce (hkind : f.arg / 2 ^ 44 = qkReduce) :
    ∃ t, exec (.append f) s = .next t ∧ t.msgDone f.src f.msg = true ∧ (t.chase c).redIn = (s.chase c).redIn ++
      [(f.arg % 2 ^ 16, (ptOrdinal (s.forme c) f.src).getD 0, f.arg % 2 ^ 44 / 2 ^ 16, joinParts (addPart (s.partsOf f.src f.msg) f))] := by
  have hkept : (s.keepPart f).Sound q := State.keepPart_sound h
  refine ⟨_, exec_append_whole hin hall hslot htakes harg hdelta (hkind ▸ State.takeAppend_reduce), State.finishMsg_msgDone .., ?_⟩
  rw [State.finishMsg_chase (State.updChase_sound hkept), State.chase_updChase hkept (State.slotOfTag_lt hslot),
    Nat.mod_mod_of_dvd _ (by decide)]
  rfl

/-- The requests of a message join the queue of the galley that it names. -/
theorem append_request (hkind : f.arg / 2 ^ 44 = qkRequest) {g : GalleySt} (hg : s.galley c (f.arg % 2 ^ 44) = some g)
    (hok : lookupReqsOk (joinParts (addPart (s.partsOf f.src f.msg) f)) = true)
    (hlen : (joinParts (addPart (s.partsOf f.src f.msg) f)).length % 16 = 0)
    (hroom : g.reqIn.length + ((pieces 16 (joinParts (addPart (s.partsOf f.src f.msg) f))).map lookupReqOf).length ≤ reqInMax) :
    ∃ t g1, exec (.append f) s = .next t ∧ t.msgDone f.src f.msg = true ∧ t.galley c (f.arg % 2 ^ 44) = some g1 ∧
      g1.reqIn = g.reqIn ++ (pieces 16 (joinParts (addPart (s.partsOf f.src f.msg) f))).map lookupReqOf := by
  have hkept : (s.keepPart f).Sound q := State.keepPart_sound h
  refine ⟨_, { g with reqIn := g.reqIn ++ _ }, exec_append_whole hin hall hslot htakes harg hdelta (hkind ▸ State.takeAppend_request (s := s.keepPart f) hg hok hlen hroom),
    State.finishMsg_msgDone .., ?_, rfl⟩
  rw [State.galley, State.finishMsg_chase (State.setGalley_sound hkept)]
  exact State.galley_setGalley (hkept.slots ▸ State.slotOfTag_lt hslot) ..

end

/-! ### ACK (R590 to R592) -/

section
variable {s : State} {f : Flit} (hin : s.hasIn f 0x20 = true)
include hin

theorem exec_ack_again (hdone : s.msgDone f.src f.msg = true) : exec (.ack f) s =
    .next ((s.updFab fun x => { x with inbox := x.inbox.erase f }).bump Fld.hlkE2eDups 0 1) :=
  congrArg Host.Outcome.next ((State.ifB_true hin _).trans (if_pos hdone))

/-- The state once an ACK that has not come before is taken: it is complete, as a message of its own. -/
def State.ackTaken (s : State) (f : Flit) : State := (s.updFab fun x => { x with inbox := x.inbox.erase f }).markDone f.src f.msg

theorem exec_ack_new (hnew : s.msgDone f.src f.msg = false) : exec (.ack f) s = .next
    (match (s.ackTaken f).fab.sent.find? fun m => m.dst == f.src && m.msg == f.arg % 2 ^ 32 with
    | none => s.ackTaken f
    | some m =>
      let s2 := (s.ackTaken f).updFab fun x => { x with sent := x.sent.erase m }
      let lost := m.typ == 0x11 && bitsOf f.arg 39 32 == ackFull && bitsOf m.arg 47 44 == qkRequest
      let s3 := if lost then s2.requestsLost m.slot (bitsOf m.arg 43 0) m.data else s2
      (s3.drainQueued m.dst).checkFinish m.slot) :=
  congrArg Host.Outcome.next ((State.ifB_true hin _).trans (if_neg (by rw [hnew]; decide)))

end

section
variable (s : State)

theorem State.markDone_fab (src msg : Nat) : (s.markDone src msg).fab.sent = s.fab.sent ∧ (s.markDone src msg).fab.queued = s.fab.queued ∧
    (s.markDone src msg).fab.inbox = s.fab.inbox ∧ (s.markDone src msg).chases = s.chases := by
  unfold State.markDone
  split
  · exact ⟨rfl, rfl, rfl, rfl⟩
  · exact ⟨rfl, rfl, rfl, rfl⟩

theorem State.ackTaken_fab (f : Flit) : (s.ackTaken f).fab.sent = s.fab.sent ∧ (s.ackTaken f).fab.queued = s.fab.queued ∧
    (s.ackTaken f).fab.inbox = s.fab.inbox.erase f ∧ (s.ackTaken f).chases = s.chases := State.markDone_fab ..

@[simp] theorem State.requestsLost_fab (c id : Nat) (data : Bytes) : (s.requestsLost c id data).fab = s.fab := by
  unfold State.requestsLost State.updSplit State.updGalley
  extract_lets bags
  split <;> rfl

/-- Poisoning bags of a SPLIT does not end or resume the work of a stroke. -/
theorem State.requestsLost_finished (c id : Nat) (data : Bytes) (k : Nat) :
    ((s.requestsLost c id data).chase k).finished = (s.chase k).finished := by
  unfold State.requestsLost State.updSplit State.updGalley
  extract_lets bags
  split
  · exact State.chase_map ChaseSt.finished (State.updChase_map s c rfl) k
  · rfl

variable {s}

theorem State.drainQueued_of_none {dst : Nat} (h : ∀ m ∈ s.fab.queued, m.dst ≠ dst) : s.drainQueued dst = s := by
  have hnone : s.fab.queued.find? (fun m => m.dst == dst) = none := List.find?_eq_none.2 fun m hm => by simpa using h m hm
  rw [State.drainQueued, hnone]

theorem State.checkFinish_of_working {c : Nat} (h : (s.chase c).finished = false) : s.checkFinish c = s := by
  unfold State.checkFinish
  extract_lets x
  exact if_neg (by simp [x, h])

end

section
variable {s : State} {f : Flit} (hin : s.hasIn f 0x20 = true)
include hin

theorem ack_again (h : s.Sound q) (hdone : s.msgDone f.src f.msg = true) :
    ∃ t, exec (.ack f) s = .next t ∧ t.fab.sent = s.fab.sent ∧ t.fab.inbox = s.fab.inbox.erase f ∧
      t.getF Fld.hlkE2eDups 0 = min (s.getF Fld.hlkE2eDups 0 + 1) (2 ^ 16 - 1) := by
  refine ⟨_, exec_ack_again hin hdone, ?_, ?_, ?_⟩
  · rw [State.bump_fab]
    rfl
  · rw [State.bump_fab]
    rfl
  · rw [← State.updFab_getF s (fun x => { x with inbox := x.inbox.erase f }) Fld.hlkE2eDups 0]
    exact State.getF_bump_width (w := 16) (State.updFab_sound h) ⟨by decide, by decide, by decide⟩ (by decide) rfl

variable (hnew : s.msgDone f.src f.msg = false)
include hnew

theorem exec_ack_known {m : MsgRec} (hm : (s.ackTaken f).fab.sent.find? (fun m => m.dst == f.src && m.msg == f.arg % 2 ^ 32) = some m) :
    exec (.ack f) s = .next
      (let s2 := (s.ackTaken f).updFab fun x => { x with sent := x.sent.erase m }
      let lost := m.typ == 0x11 && bitsOf f.arg 39 32 == ackFull && bitsOf m.arg 47 44 == qkRequest
      let s3 := if lost then s2.requestsLost m.slot (bitsOf m.arg 43 0) m.data else s2
      (s3.drainQueued m.dst).checkFinish m.slot) := by
  rw [exec_ack_new hin hnew, hm]

/-- The message that an ACK names has been delivered. -/
theorem ack_ends {m : MsgRec} (hm : s.fab.sent.find? (fun m => m.dst == f.src && m.msg == f.arg % 2 ^ 32) = some m)
    (hqueued : ∀ q ∈ s.fab.queued, q.dst ≠ m.dst) (hworking : (s.chase m.slot).finished = false) :
    ∃ t, exec (.ack f) s = .next t ∧ t.fab.sent = s.fab.sent.erase m ∧ t.fab.inbox = s.fab.inbox.erase f ∧
      t.msgDone f.src f.msg = true := by
  obtain ⟨hsent, hkept, hinbox, hchases⟩ := State.ackTaken_fab s f
  have hdone : (s.ackTaken f).msgDone f.src f.msg = true := State.msgDone_markDone ..
  rw [exec_ack_known hin hnew (hsent ▸ hm)]
  extract_lets s2 lost s3
  have hs3 : s3.fab = s2.fab ∧ (s3.chase m.slot).finished = (s.chase m.slot).finished := by
    have hs2 : (s2.chase m.slot).finished = (s.chase m.slot).finished := congrArg ChaseSt.finished (State.chase_congr hchases _)
    simp only [s3]
    split
    · exact ⟨State.requestsLost_fab .., (State.requestsLost_finished ..).trans hs2⟩
    · exact ⟨rfl, hs2⟩
  obtain ⟨hfab, hfinished⟩ := hs3
  have hs2 : s2.fab = { (s.ackTaken f).fab with sent := (s.ackTaken f).fab.sent.erase m } := rfl
  rw [State.drainQueued_of_none (by rw [hfab, hs2]; exact hkept ▸ hqueued), State.checkFinish_of_working (hfinished.trans hworking)]
  refine ⟨s3, rfl, ?_, ?_, (State.msgDone_congr ?_ ..).trans hdone⟩
  · rw [hfab, hs2, hsent]
  · rw [hfab, hs2]
    exact hinbox
  · exact show s3.fab.rx = s2.fab.rx from congrArg FabSt.rx hfab

theorem ack_unknown (h : s.Sound q) (hnone : s.fab.sent.find? (fun m => m.dst == f.src && m.msg == f.arg % 2 ^ 32) = none) :
    ∃ t, exec (.ack f) s = .next t ∧ t.fab.sent = s.fab.sent ∧ t.fab.inbox = s.fab.inbox.erase f ∧
      t.msgDone f.src f.msg = true ∧ State.SameBut [] [.fab] s t := by
  obtain ⟨hsent, -, hinbox, -⟩ := State.ackTaken_fab s f
  rw [exec_ack_new hin hnew, hsent, hnone]
  exact ⟨_, rfl, hsent, hinbox, State.msgDone_markDone .., (State.markDone_frame (State.updFab_frame (State.Frame.refl h.rise) rfl)
    (Nat.or_self _)).sameBut (by rfl)⟩

end

/-! ### FABRIC_SIGNAL (R543) -/

section
variable {s : State} {f : Flit} {c : Nat} (hin : s.hasIn f 0x30 = true) (hslot : s.slotOfTag f.chase = some c) (harg : f.arg < 2 ^ 22)
include hin hslot harg

theorem exec_fabricSignal : exec (.fabricSignal f) s = .next
    (if !s.csStriking c || (ptOrdinal (s.forme c) f.src).isNone || f.arg / 2 ^ 16 != s.activeCtx c then s.staleSignal c f
    else match s.markOf c (f.arg / 2 ^ 16) (f.arg % 2 ^ 16) with
      | none => s.staleSignal c f
      | some n => if s.flag Fld.mrkFabric n then (s.signalMark n 1).finishMsg f ackOk else s.staleSignal c f) := by
  have hctx : bitsOf f.arg 21 16 = f.arg / 2 ^ 16 := by
    simp only [bitsOf, Nat.shiftRight_eq_div_pow]
    omega
  refine congrArg Host.Outcome.next ((State.ifB_true hin _).trans ?_)
  dsimp only
  rw [hslot]
  dsimp only
  rw [hctx, if_neg (by simpa using Nat.div_eq_of_lt harg)] <;> rfl

theorem exec_fabricSignal_stale (hstale : s.csStriking c = false ∨ (ptOrdinal (s.forme c) f.src).isSome = false ∨
      f.arg / 2 ^ 16 ≠ s.activeCtx c ∨ s.markOf c (s.activeCtx c) (f.arg % 2 ^ 16) = none ∨
      (∃ n, s.markOf c (s.activeCtx c) (f.arg % 2 ^ 16) = some n ∧ s.flag Fld.mrkFabric n = false)) :
    exec (.fabricSignal f) s = .next (s.staleSignal c f) := by
  rw [exec_fabricSignal hin hslot harg]
  split
  · rfl
  · next hpass =>
    simp only [Bool.or_eq_true, Bool.not_eq_true', bne_iff_ne, ne_eq, not_or, Bool.not_eq_false, not_not] at hpass
    obtain ⟨⟨hstriking, hmember⟩, hctx⟩ := hpass
    rw [hctx]
    obtain hstale | hstale | hstale | hstale | ⟨n, hmark, hlocal⟩ := hstale
    · simp [hstriking] at hstale
    · simp [Option.isNone_iff_eq_none, ← Option.not_isSome_iff_eq_none, hstale] at hmember
    · exact absurd hctx hstale
    · rw [hstale]
    · rw [hmark]
      exact congrArg Host.Outcome.next (if_neg (by simp [hlocal]))

theorem exec_fabricSignal_fresh {n : Nat} (hstriking : s.csStriking c = true) (hmember : (ptOrdinal (s.forme c) f.src).isSome = true)
    (hctx : f.arg / 2 ^ 16 = s.activeCtx c) (hmark : s.markOf c (s.activeCtx c) (f.arg % 2 ^ 16) = some n)
    (hfab : s.flag Fld.mrkFabric n = true) : exec (.fabricSignal f) s = .next ((s.signalMark n 1).finishMsg f ackOk) := by
  rw [exec_fabricSignal hin hslot harg, if_neg ?_, hctx, hmark]
  · exact congrArg Host.Outcome.next (if_pos hfab)
  · obtain ⟨k, hk⟩ := Option.isSome_iff_exists.1 hmember
    simp only [hstriking, hk, hctx, Bool.not_true, Option.isNone_some, bne_self_eq_false, Bool.or_self, Bool.false_eq_true, not_false_iff]

end

/-- A stale signal is counted, and its message is complete. -/
theorem State.staleSignal_counts {s : State} (h : s.Sound q) {c : Nat} (hc : c < 16) (f : Flit) :
    (s.staleSignal c f).msgDone f.src f.msg = true ∧ State.SameBut [.mrkEvents, .hlkRtStatus] [.fab, .out] s (s.staleSignal c f) ∧
    (s.staleSignal c f).getF Fld.mrkStale c = min (s.getF Fld.mrkStale c + 1) (2 ^ 16 - 1) := by
  refine ⟨State.finishMsg_msgDone .., (State.staleSignal_frame (State.Frame.refl h.rise) (Nat.or_self _)).sameBut (by rfl), ?_⟩
  have hbumped : (s.bump Fld.mrkStale c 1).Sound q := State.bump_sound h
  have hcount := State.getF_bump_width (f := Fld.mrkStale) (i := c) (w := 16) (n := 1) h ⟨by decide, by decide, hc⟩ (by decide) rfl
  rw [← hcount]
  exact (State.finishMsg_sameBut hbumped f ackRefused).getF hc (by decide)

/-- What finishing a message leaves of the marks. -/
theorem State.finishMsg_signalled {s u : State} {n : Nat} (hu : u.Sound q) (hn : n < 2 ^ 14) (f : Flit) (status : Nat) {a : Nat}
    (h : u.signalled s n a) : (u.finishMsg f status).signalled s n a := by
  have hsame := State.finishMsg_sameBut hu f status
  have hcount : (u.finishMsg f status).getF Fld.mrkCount n = u.getF Fld.mrkCount n := hsame.getF hn (by decide)
  have hsense : (u.finishMsg f status).getF Fld.mrkSense n = u.getF Fld.mrkSense n := hsame.getF hn (by decide)
  have hmark : (u.finishMsg f status).mark n = u.mark n := State.mark_congr (hsame.part (p := .marks) (by decide)) n
  unfold State.signalled at h ⊢
  rwa [hcount, hsense, hmark]

/-! ### End-to-end timeouts (R593) -/

section
variable {s : State} {dst msg : Nat} {m : MsgRec} (hup : s.isUp = true)
  (hm : s.fab.sent.find? (fun m => m.dst == dst && m.msg == msg) = some m)
include hup hm

theorem exec_e2eTimeout : exec (.e2eTimeout dst msg) s = .next
    (if m.resends < 2 then
      let again (x : MsgRec) : MsgRec := if x == m then { m with resends := m.resends + 1 } else x
      (msgFlits s.nodeId m).foldl State.routeFlit
        ((s.bump Fld.hlkE2eResends 0 1).updFab fun x => { x with sent := x.sent.map again })
    else
      let s1 := ((s.bump Fld.hlkE2eLost 0 1).updFab fun x => { x with sent := x.sent.erase m }).drainQueued dst
      match s1.slotOfTag m.chase with
      | some c => s1.faultChase c fFabricLoss
      | none => s1) := by
  refine congrArg Host.Outcome.next ((State.ifB_true hup _).trans ?_)
  dsimp only
  rw [hm] <;> rfl

theorem e2eTimeout_resends (h : s.Sound q) (hleft : m.resends < 2) : ∃ t, exec (.e2eTimeout dst msg) s = .next t ∧
    t.getF Fld.hlkE2eResends 0 = min (s.getF Fld.hlkE2eResends 0 + 1) (2 ^ 16 - 1) ∧
    { m with resends := m.resends + 1 } ∈ t.fab.sent := by
  rw [exec_e2eTimeout hup hm, if_pos hleft]
  extract_lets again
  have hcount := State.getF_bump_width (f := Fld.hlkE2eResends) (i := 0) (w := 16) (n := 1) h ⟨by decide, by decide, by decide⟩ (by decide) rfl
  let u := (s.bump Fld.hlkE2eResends 0 1).updFab fun x => { x with sent := x.sent.map again }
  have hu : u.Sound q := State.updFab_sound (State.bump_sound h)
  have hframe : State.Frame (maskBut [.hlkE2e] []) u ((msgFlits s.nodeId m).foldl State.routeFlit u) :=
    State.Frame.foldl (fun v g hv => State.routeFlit_frame hv rfl) (hu.frame)
  refine ⟨_, rfl, ?_, ?_⟩
  · have hstored : u.getF Fld.hlkE2eResends 0 = (s.bump Fld.hlkE2eResends 0 1).getF Fld.hlkE2eResends 0 := State.updFab_getF ..
    rw [← hcount, ← hstored]
    exact State.getF_of_frame hframe (by decide) rfl
  · have hsent : ((msgFlits s.nodeId m).foldl State.routeFlit u).fab.sent = u.fab.sent :=
      State.seen_sent (State.foldl_seen (fun v f => State.routeFrom_seen v f 255 0) _ u)
    show _ ∈ ((msgFlits s.nodeId m).foldl State.routeFlit u).fab.sent
    rw [hsent]
    show _ ∈ (s.bump Fld.hlkE2eResends 0 1).fab.sent.map again
    rw [State.bump_fab]
    exact List.mem_map.2 ⟨m, List.mem_of_find?_eq_some hm, if_pos (beq_self_eq_true m)⟩

/-- A message sent three times is lost, and its active chase faults. -/
theorem e2eTimeout_loses (h : s.Sound q) (hspent : 2 ≤ m.resends) : ∃ t, exec (.e2eTimeout dst msg) s = .next t ∧
    t.getF Fld.hlkE2eLost 0 = min (s.getF Fld.hlkE2eLost 0 + 1) (2 ^ 16 - 1) ∧
    ∀ c, s.slotOfTag m.chase = some c → s.csActive c = true → t.cs c = csFaulted ∧ t.getF Fld.stkFault c = fFabricLoss := by
  rw [exec_e2eTimeout hup hm, if_neg (Nat.not_lt.2 hspent)]
  extract_lets s1
  have hcount := State.getF_bump_width (f := Fld.hlkE2eLost) (i := 0) (w := 16) (n := 1) h ⟨by decide, by decide, by decide⟩ (by decide) rfl
  let u := (s.bump Fld.hlkE2eLost 0 1).updFab fun x => { x with sent := x.sent.erase m }
  have hu : u.Sound q := State.updFab_sound (State.bump_sound h)
  have hs1 : s1.Sound q := State.drainQueued_sound hu
  have hfrom : State.Frame (maskBut [.sysChaseStatus] [.chases]) s s1 :=
    State.drainQueued_frame (State.updFab_frame (State.bump_frame (State.Frame.refl h.rise) rfl) rfl) rfl
  have hlost : s1.getF Fld.hlkE2eLost 0 = min (s.getF Fld.hlkE2eLost 0 + 1) (2 ^ 16 - 1) := by
    have hdrained : State.Frame (maskBut [.hlkE2e] []) u s1 := State.drainQueued_frame (hu.frame) rfl
    have hstored : u.getF Fld.hlkE2eLost 0 = (s.bump Fld.hlkE2eLost 0 1).getF Fld.hlkE2eLost 0 := State.updFab_getF ..
    rw [← hcount, ← hstored]
    exact State.getF_of_frame hdrained (by decide) rfl
  have hcs {c : Nat} (hc : c < 16) : s1.cs c = s.cs c := State.getF_of_frame hfrom hc rfl
  have hslot : s1.slotOfTag m.chase = s.slotOfTag m.chase := by
    refine List.find?_congr fun c hc => ?_
    rw [hcs (List.mem_range.1 hc), State.forme, State.forme, State.chase_congr (hfrom.parts .chases rfl)]
  obtain hnone | ⟨c, hc⟩ := Option.eq_none_or_eq_some (s.slotOfTag m.chase)
  · rw [hslot, hnone]
    exact ⟨s1, rfl, hlost, fun c hc => by simp at hc⟩
  · have hlt := State.slotOfTag_lt hc
    have hfault : State.Frame (maskBut [.hlkE2e] []) s1 (s1.faultChase c fFabricLoss) := State.faultChase_frame (hs1.frame) rfl
    rw [hslot, hc]
    refine ⟨_, rfl, (State.getF_of_frame hfault (by decide) rfl).trans hlost, fun k hk hactive => ?_⟩
    obtain rfl : c = k := Option.some.inj hk
    have hact : s1.csActive c = true := by rwa [State.csActive, hcs hlt]
    exact ⟨State.faultChase_cs hs1 hact hlt fFabricLoss, State.faultChase_fault hs1 hact hlt (by decide)⟩

end

/-- Settles O51: a message is worked on flit by flit or whole, and is complete with its acknowledgement; one that is not acknowledged is
sent again or lost. -/
theorem messagesDoTheirWork : Obligations.MessagesDoTheirWork := by
  unfold Obligations.MessagesDoTheirWork
  refine ⟨fun f s hs hin => ⟨fun c hslot htakes hlo hhi => ?_, fun hno => ?_⟩,
    fun f s hs hin => ⟨fun hmore => ?_, fun c hall hslot htakes harg hdelta => ⟨fun hkind => ?_, fun hkind g hg hok hlen hroom => ?_⟩⟩,
    fun f s hs hin => ⟨fun hdone => ?_, fun m hnew hm hqueued hworking => ?_, fun hnew hnone => ?_⟩,
    fun f c s hs hin hslot harg => ⟨fun n hstriking hmember hctx hmark hn hfab hquiet => ?_, fun hstale => ?_⟩,
    fun dst msg m s hs hup hm => ⟨fun hleft => ?_, fun hspent => ?_⟩⟩
  all_goals have h := State.sound_of_canonical hs
  · exact write_stores hin h hslot htakes hlo hhi
  · exact write_refused hin h hno
  · exact append_keeps h hin hmore
  · exact append_reduce h hin hall hslot htakes harg hdelta hkind
  · exact append_request h hin hall hslot htakes harg hdelta hkind hg hok hlen hroom
  · exact ack_again hin h hdone
  · exact ack_ends hin hnew hm hqueued hworking
  · exact ack_unknown hin hnew h hnone
  · exact ⟨_, exec_fabricSignal_fresh hin hslot harg hstriking hmember hctx hmark hfab,
      State.finishMsg_signalled (State.signalMark_sound h) hn f ackOk (State.signalMark_signalled h hn hquiet 1), State.finishMsg_msgDone ..⟩
  · exact ⟨_, exec_fabricSignal_stale hin hslot harg hstale, State.staleSignal_counts h (State.slotOfTag_lt hslot) f⟩
  · exact e2eTimeout_resends hup hm h hleft
  · exact e2eTimeout_loses hup hm h hspent

end Sys2Proof.Machine
end

section
/-! SUPPORT. Working the bundles out again: what it leaves of a link (R571 to R573, R603). -/

namespace Sys2Proof.Machine

variable {q : List Instr} {n l : Nat} {r s t : State}

theorem State.ports_of_links (h : t.fab.links = s.fab.links) : t.seen.2 = s.seen.2 :=
  funext fun k => congrArg LinkSt.port (State.link_congr h k)

@[simp] theorem State.setF_link (s : State) (f : Field) (i v l : Nat) : (s.setF f i v).link l = s.link l :=
  State.link_congr (by rw [State.setF_fab]) l

@[simp] theorem State.bump_link (s : State) (f : Field) (i n l : Nat) : (s.bump f i n).link l = s.link l := State.setF_link ..

@[simp] theorem State.setFs_link (s : State) (i : Nat) (fs : List (Field × Nat)) (l : Nat) : (s.setFs i fs).link l = s.link l :=
  State.link_congr (by rw [State.setFs_fab]) l

@[simp] theorem State.setF_seen (s : State) (f : Field) (i v : Nat) : (s.setF f i v).seen = s.seen := State.seen_congr (State.setF_fab ..)

theorem State.foldl_ports {α : Type} {f : State → α → State} (hf : ∀ s x, (f s x).seen.2 = s.seen.2) (xs : List α) :
    ∀ s : State, (xs.foldl f s).seen.2 = s.seen.2 := by
  induction xs with
  | nil => exact fun s => rfl
  | cons x xs ih => exact fun s => (ih _).trans (hf s x)

/-! ### The links of a bundle -/

theorem mem_of_mem_piecesAux {α : Type} {b : List α} {x : α} (k n : Nat) (hx : x ∈ b) : ∀ l : List α, b ∈ piecesAux k n l → x ∈ l := by
  induction n with
  | zero => intro l hb; simp [piecesAux] at hb
  | succ n ih =>
    intro l hb
    cases l with
    | nil => simp [piecesAux] at hb
    | cons a l =>
      rw [piecesAux.eq_3 _ _ _ (List.cons_ne_nil a l), List.mem_cons] at hb
      rcases hb with rfl | hb
      · exact List.mem_of_mem_take hx
      · exact List.mem_of_mem_drop (ih _ hb)

theorem mem_of_mem_bundlesOf {ls b : List (Nat × Nat × Hello)} {e : Nat × Nat × Hello} (hb : b ∈ bundlesOf ls) (he : e ∈ b) : e ∈ ls := by
  obtain ⟨k, -, hb⟩ := List.mem_flatMap.1 hb
  exact (List.mem_filter.1 (mem_of_mem_piecesAux _ _ he _ hb)).1

theorem State.linkRuns_of_bundleable {e : Nat × Nat × Hello} (he : e ∈ s.bundleable) : s.linkRuns e.1 = true := by
  obtain ⟨x, -, hx⟩ := List.mem_filterMap.1 he
  split at hx
  · split at hx
    · next hruns => rwa [← Option.some.inj hx]
    · cases hx
  · cases hx

/-- The bundle that a link is to have; 127: none. -/
def State.bundleOf (s : State) (l : Nat) : Nat :=
  (((bundlesOf s.bundleable).find? fun b => b.any fun e => e.1 == l).map bundleId).getD 127

/-- A link that does not run is in no bundle. -/
theorem State.bundleOf_idle (hidle : s.linkRuns l = false) : s.bundleOf l = 127 := by
  have hnone : ((bundlesOf s.bundleable).find? fun b => b.any fun e => e.1 == l) = none := by
    refine List.find?_eq_none.2 fun b hb hany => ?_
    obtain ⟨e, he, hel⟩ := List.any_eq_true.1 hany
    have hruns := State.linkRuns_of_bundleable (mem_of_mem_bundlesOf hb he)
    rw [eq_of_beq hel, hidle] at hruns
    cases hruns
  rw [State.bundleOf, hnone]
  rfl

/-! ### A link whose bundle is worked out -/

/-- From `r` to `s` a link has kept its port and the fields of its status register below bit `n`; it has at most gone from LINKED to
ACTIVE. -/
structure State.Relinked (q : List Instr) (n l : Nat) (r s : State) : Prop where
  sound : s.Sound q
  ports : s.seen.2 = r.seen.2
  kept : ∀ f : Field, f.reg = .hlkLinkStatus → f.hi < n → s.getF f l = r.getF f l
  state : s.getF Fld.hlkLkState l = r.getF Fld.hlkLkState l ∨
    r.getF Fld.hlkLkState l = lkLinked ∧ s.getF Fld.hlkLkState l = lkActive

theorem State.Relinked.refl (h : s.Sound q) : State.Relinked q n l s s := ⟨h, rfl, fun _ _ _ => rfl, .inl rfl⟩

theorem State.Relinked.trans (h1 : State.Relinked q n l r s) (h2 : State.Relinked q n l s t) : State.Relinked q n l r t := by
  refine ⟨h2.sound, h2.ports.trans h1.ports, fun f hf hn => (h2.kept f hf hn).trans (h1.kept f hf hn), ?_⟩
  obtain hsame | ⟨hlinked, hactive⟩ := h2.state
  · rw [hsame]
    exact h1.state
  · obtain hsame | ⟨-, hwas⟩ := h1.state
    · exact .inr ⟨hsame.symm.trans hlinked, hactive⟩
    · cases hwas.symm.trans hlinked

theorem State.Relinked.mono {m : Nat} (hle : m ≤ n) (h : State.Relinked q n l r s) : State.Relinked q m l r s :=
  ⟨h.sound, h.ports, fun f hf hm => h.kept f hf (Nat.lt_of_lt_of_le hm hle), h.state⟩

theorem State.Relinked.foldl {α : Type} {f : State → α → State} (hf : ∀ s x, s.Sound q → State.Relinked q n l s (f s x)) (xs : List α) :
    ∀ {s : State}, s.Sound q → State.Relinked q n l s (xs.foldl f s) := by
  induction xs with
  | nil => exact fun h => .refl h
  | cons x xs ih => exact fun h => (hf _ x h).trans (ih (hf _ x h).sound)

theorem State.Relinked.idle (h : State.Relinked q n l r s) (hne : r.getF Fld.hlkLkState l ≠ lkLinked) :
    s.getF Fld.hlkLkState l = r.getF Fld.hlkLkState l :=
  h.state.resolve_right fun hlinked => hne hlinked.1

section
variable (hl : l < 96)
include hl

/-- Without a write to a link's status register its fields read the same. -/
theorem State.Relinked.of_frame (hframe : State.Frame (maskBut [.hlkLinkStatus] []) r s) (h : s.Sound q) (hports : s.seen.2 = r.seen.2) :
    State.Relinked q n l r s := by
  have hkept {f : Field} (hf : f.reg = .hlkLinkStatus) : s.getF f l = r.getF f l :=
    State.getF_of_frame hframe (by rw [hf]; exact hl) (by rw [hf]; rfl)
  exact ⟨h, hports, fun f hf _ => hkept hf, .inl (hkept rfl)⟩

theorem State.Relinked.of_regs (hframe : State.Frame (maskBut [.hlkLinkStatus] [.fab]) r s) (h : s.Sound q) : State.Relinked q n l r s := by
  have hfab : s.fab = r.fab := hframe.parts .fab rfl
  have hkept {f : Field} (hf : f.reg = .hlkLinkStatus) : s.getF f l = r.getF f l :=
    State.getF_of_frame hframe (by rw [hf]; exact hl) (by rw [hf]; rfl)
  exact ⟨h, State.ports_of_links (by rw [hfab]), fun f hf _ => hkept hf, .inl (hkept rfl)⟩

/-! ### Bundle IDs -/

omit hl in
/-- A link takes the bundle ID that is worked out for it. -/
def State.nameBundle (g : Nat → Nat) (s : State) (k : Nat) : State :=
  if s.getF Fld.hlkLkBundle k = g k then s else s.setF Fld.hlkLkBundle k (g k)

variable (g : Nat → Nat)

theorem State.nameBundle_relinked (h : s.Sound q) (k : Nat) : State.Relinked q 54 l s (s.nameBundle g k) := by
  unfold State.nameBundle
  split
  · exact .refl h
  · exact ⟨State.setF_sound h, by rw [State.setF_seen],
      fun f hf hlow => State.getF_setF_apart h (by decide) (by rw [hf]; exact hl) (.inr (.inr (.inl hlow))),
      .inl (State.getF_setF_apart h (by decide) hl (.inr (.inr (by decide))))⟩

theorem State.nameBundle_bundle (h : s.Sound q) (k : Nat) (hg : g l < 2 ^ 7) :
    (s.nameBundle g k).getF Fld.hlkLkBundle l = if l = k then g l else s.getF Fld.hlkLkBundle l := by
  unfold State.nameBundle
  split
  · next hsame =>
    split
    · next hlk => rw [hlk, hsame]
    · rfl
  · split
    · next hlk =>
      subst hlk
      exact (State.getF_setF h ⟨by decide, by decide, hl⟩).trans (Nat.mod_eq_of_lt hg)
    · next hlk => exact State.getF_setF_apart h (by decide) hl (.inr (.inl hlk))

/-- Each link of a range takes its bundle ID. -/
theorem State.nameBundles_bundle (h : s.Sound q) (hg : g l < 2 ^ 7) (n : Nat) :
    ((List.range n).foldl (State.nameBundle g) s).getF Fld.hlkLkBundle l = if l < n then g l else s.getF Fld.hlkLkBundle l := by
  induction n with
  | zero => rfl
  | succ n ih =>
    have hfold : State.Relinked q 54 l s ((List.range n).foldl (State.nameBundle g) s) :=
      .foldl (fun u k hu => State.nameBundle_relinked hl g hu k) _ h
    rw [List.range_succ, List.foldl_append, List.foldl_cons, List.foldl_nil, State.nameBundle_bundle hl g hfold.sound n hg, ih]
    split_ifs <;> omega

/-! ### A link becomes ACTIVE -/

omit g in
theorem State.activate_relinked (h : s.Sound q) {k : Nat} (hk : s.getF Fld.hlkLkState k = lkLinked) :
    State.Relinked q 61 l s (s.activate k) := by
  let u := (s.setF Fld.hlkLkState k lkActive).updLink k fun x => { x with
    credits := initialCredits.set 0 (x.credits.getD 0 0), again := false }
  have hu : u.Sound q := State.updLink_sound (State.setF_sound h)
  have hset : State.Relinked q 61 l s u := by
    refine ⟨hu, ?_, fun f hf hlow => ?_, ?_⟩
    · have hports : u.seen = (s.setF Fld.hlkLkState k lkActive).seen := State.updLink_seen _ k fun _ => rfl
      rw [hports, State.setF_seen]
    · rw [State.updLink_getF]
      exact State.getF_setF_apart h (by decide) (by rw [hf]; exact hl) (.inr (.inr (.inl hlow)))
    · rw [State.updLink_getF]
      by_cases hlk : l = k
      · subst hlk
        exact .inr ⟨hk, State.getF_setF h ⟨by decide, by decide, hl⟩⟩
      · exact .inl (State.getF_setF_apart h (by decide) hl (.inr (.inl hlk)))
  unfold State.activate
  extract_lets x s1
  split
  · exact hset.trans (.of_frame hl (State.resendFrom_frame hu.frame rfl) (State.resendFrom_sound hu) (congrArg Prod.snd (State.resendFrom_seen ..)))
  · exact hset

/-- The links of the bundles in force become ACTIVE. -/
def State.activateBundle (s : State) (b : List (Nat × Nat × Hello)) : State :=
  if s.inTables (bundleId b) then b.foldl (fun s e => if s.getF Fld.hlkLkState e.1 = lkLinked then s.activate e.1 else s) s else s

omit g in
theorem State.activateBundle_relinked (h : s.Sound q) (b : List (Nat × Nat × Hello)) : State.Relinked q 61 l s (s.activateBundle b) := by
  unfold State.activateBundle
  split
  · refine .foldl (fun u e hu => ?_) b h
    split
    · next hk => exact State.activate_relinked hl hu hk
    · exact .refl hu
  · exact .refl h

end

/-! ### The record of this device -/

@[simp] theorem State.sendLink_seen (s : State) (l typ arg : Nat) (o : Out) : (s.sendLink l typ arg o).seen = s.seen :=
  (State.flushLink_seen ..).trans (State.updLink_seen s l fun _ => rfl)

theorem State.keepLsr_links (s : State) (x : Lsr) : (s.keepLsr x).fab.links = s.fab.links := by
  unfold State.keepLsr
  extract_lets old s1
  split
  · rfl
  · show ((State.bump _ _ _ _).setFs _ _).fab.links = _
    rw [State.setFs_fab, State.bump_fab]
    rfl

theorem State.originate_ports (s : State) : s.originate.seen.2 = s.seen.2 := by
  unfold State.originate State.flood
  exact (congrArg Prod.snd (State.foldl_seen (fun u k => State.sendLink_seen ..) _ _)).trans
    (State.ports_of_links ((State.keepLsr_links ..).trans rfl))

/-! ### All of it -/

theorem State.rebundle_relinked (h : s.Sound q) (hl : l < 96) : State.Relinked q 54 l s s.rebundle ∧
    (s.linkRuns l = false → s.rebundle.getF Fld.hlkLkBundle l = 127) := by
  unfold State.rebundle
  extract_lets bs old m s1 up s2 s3 s4
  have hnamed0 : (s.renameTables m).Sound q := State.renameTables_sound h
  have hrenamed : State.Relinked q 54 l s (s.renameTables m) := .of_regs hl (State.renameTables_frame h.frame rfl) hnamed0
  have hnamed : State.Relinked q 54 l (s.renameTables m) s1 :=
    .foldl (fun u k hu => State.nameBundle_relinked hl s.bundleOf hu k) _ hnamed0
  have hup : State.Relinked q 61 l s1 up := .foldl (fun u b hu => State.activateBundle_relinked hl hu b) bs hnamed.sound
  have hs2 : State.Relinked q 61 l up s2 := by
    refine .foldl (fun u i hu => ?_) _ hup.sound
    split
    · exact .of_regs hl (State.setFs_frame hu.frame (fieldsMask_cons rfl (fieldsMask_cons rfl (fieldsMask_cons rfl fieldsMask_nil))))
        (State.setFs_sound hu)
    · exact .of_regs hl (State.wr_frame hu.frame rfl) (State.wr_sound hu ..)
  have hs3 : State.Relinked q 61 l s2 s3 := by
    refine .foldl (fun u e hu => ?_) _ hs2.sound
    exact .of_regs hl (State.setFs_frame hu.frame (fieldsMask_cons rfl (fieldsMask_cons rfl fieldsMask_nil))) (State.setFs_sound hu)
  have hs4 : State.Relinked q 61 l s3 s4 := by
    unfold s4
    split
    · exact .refl hs3.sound
    · exact .of_frame hl (State.originate_frame hs3.sound.frame rfl) (State.originate_sound hs3.sound) (State.originate_ports s3)
  have hparent : State.Relinked q 61 l s4 s4.chooseParent :=
    .of_regs hl (State.chooseParent_frame hs4.sound.frame rfl) (State.chooseParent_sound hs4.sound)
  have hheld : State.Relinked q 61 l s4.chooseParent s4.chooseParent.retryHeld :=
    .of_frame hl (State.retryHeld_frame hparent.sound.frame rfl) (State.retryHeld_sound hparent.sound)
      (congrArg Prod.snd (State.retryHeld_seen _))
  have hlater : State.Relinked q 61 l s1 s4.chooseParent.retryHeld :=
    hup.trans (hs2.trans (hs3.trans (hs4.trans (hparent.trans hheld))))
  refine ⟨hrenamed.trans (hnamed.trans (hlater.mono (by decide))), fun hidle => ?_⟩
  have hnone := State.bundleOf_idle hidle
  have hbundle : s1.getF Fld.hlkLkBundle l = if l < 96 then s.bundleOf l else (s.renameTables m).getF Fld.hlkLkBundle l :=
    State.nameBundles_bundle hl s.bundleOf hnamed0 (by rw [hnone]; decide) 96
  rw [hlater.kept Fld.hlkLkBundle rfl (by decide), hbundle, if_pos hl, hnone]

end Sys2Proof.Machine
end

section
/-! SUPPORT. A link that goes down or retrains, and what a HELLO leaves on it (R573, R582, R583, R601, R602). -/

namespace Sys2Proof.Machine

variable {q : List Instr} {l : Nat} {r s t : State}

/-! ### Ports and flits on their way -/

theorem State.port_of_ports (h : t.seen.2 = s.seen.2) (l : Nat) : (t.link l).port = (s.link l).port := congrFun h l

section
variable (h : (t.link l).port = (s.link l).port)
include h

theorem State.port_peer : (t.link l).peer = (s.link l).peer := (congrArg LinkSt.peer h :)
theorem State.port_signal : (t.link l).signal = (s.link l).signal := (congrArg LinkSt.signal h :)
theorem State.port_tried : (t.link l).tried = (s.link l).tried := (congrArg LinkSt.tried h :)
theorem State.port_failed : (t.link l).failed = (s.link l).failed := (congrArg LinkSt.failed h :)

end

theorem State.reroute_ports (s : State) (fs : List Flit) : (s.reroute fs).seen.2 = s.seen.2 := by
  unfold State.reroute
  split
  · rfl
  · refine State.foldl_ports (fun u f => ?_) _ s
    split
    · exact State.deliverFlit_ports u f
    · exact congrArg Prod.snd (State.routeFrom_seen u f 255 0)

@[simp] theorem State.resendOn_seen (s : State) (links : List Nat) (fs : List Flit) : (s.resendOn links fs).seen = s.seen := by
  refine State.foldl_seen (fun u f => ?_) fs s
  dsimp only
  split
  · exact State.sendOn_seen ..
  · split <;> rfl

/-! ### A link leaves the states that carry traffic -/

/-- A link in state `st` that shows nothing of a neighbour. -/
structure State.Unlinked (l st : Nat) (r s : State) : Prop where
  state : s.getF Fld.hlkLkState l = st
  bundle : s.getF Fld.hlkLkBundle l = 127
  valid : s.getF Fld.hlkLkPeerValid l = 0
  serial : s.getF Fld.hlkLkPeerSerial l = 0
  cap : s.getF Fld.hlkLkCap l = r.getF Fld.hlkLkCap l
  peer : (s.link l).peer = none

theorem State.unlink_link (s : State) (l st : Nat) : (s.unlink l st).link l = { s.link l with peer := none, waitOut := [] } := by
  rw [State.unlink, State.link_updLink_same, State.setF_link, State.setFs_link]

section
variable (hl : l < 96)
include hl

theorem State.unlink_spec (h : s.Sound q) {st : Nat} (hst : st < 2 ^ 3) : State.Unlinked l st s (s.unlink l st) := by
  unfold State.unlink
  generalize hu : s.setFs l _ = u
  have hsound : u.Sound q := hu ▸ State.setFs_sound h
  have hset (f : Field) (hf : f.reg = .hlkLinkStatus) (v : LinkSt → LinkSt) :
      ((u.setF Fld.hlkLkPeerSerial l 0).updLink l v).getF f l = u.getF f l := by
    rw [State.updLink_getF]
    exact State.getF_setF_apart hsound (by decide) (by rw [hf]; exact hl) (.inl (by rw [hf]; decide))
  refine ⟨?_, ?_, ?_, ?_, ?_, by rw [State.link_updLink_same]⟩
  · rw [hset _ rfl, ← hu]
    exact Eq.trans (b := st % 2 ^ 3) (State.getF_setFs h ⟨by decide, by decide, hl⟩ [] _ rfl rfl) (Nat.mod_eq_of_lt hst)
  · rw [hset _ rfl, ← hu]
    exact State.getF_setFs h ⟨by decide, by decide, hl⟩ [_] _ rfl rfl
  · rw [hset _ rfl, ← hu]
    exact State.getF_setFs h ⟨by decide, by decide, hl⟩ [_, _, _, _] _ rfl rfl
  · rw [State.updLink_getF, State.getF_setF hsound ⟨by decide, by decide, hl⟩]
    rfl
  · rw [hset _ rfl, ← hu, State.getF_setFs_of_clear h hl rfl]

/-- The bundles worked out again leave an idle link as it is. -/
theorem State.Unlinked.relinked {st : Nat} (hu : State.Unlinked l st r s) (hidle : st = lkDown ∨ st = lkTraining)
    (hst : State.Relinked q 54 l s t) (hbundle : s.linkRuns l = false → t.getF Fld.hlkLkBundle l = 127)
    (hframe : State.Frame (maskBut [.hlkLinkPeer] []) s t) : State.Unlinked l st r t := by
  have hne : s.getF Fld.hlkLkState l ≠ lkLinked := by rcases hidle with rfl | rfl <;> rw [hu.state] <;> decide
  have hquiet : s.linkRuns l = false := by
    unfold State.linkRuns
    rcases hidle with rfl | rfl <;> rw [hu.state] <;> rfl
  exact ⟨(hst.idle hne).trans hu.state, hbundle hquiet, (hst.kept Fld.hlkLkPeerValid rfl (by decide)).trans hu.valid,
    (State.getF_of_frame hframe hl rfl).trans hu.serial, (hst.kept Fld.hlkLkCap rfl (by decide)).trans hu.cap,
    (State.port_peer (State.port_of_ports hst.ports l)).trans hu.peer⟩

/-! ### Going down (R573, R583) -/

theorem State.linkDown_spec (h : s.Sound q) : State.Unlinked l lkDown s (s.linkDown l) ∧
    ((s.linkDown l).link l).signal = (s.link l).signal ∧ ((s.linkDown l).link l).tried = (s.link l).tried := by
  unfold State.linkDown
  extract_lets fs was s0 k s1
  have hs0 : s0.Sound q := by
    unfold s0
    split
    · exact State.logErr_sound h
    · exact h
  have hlogged : State.Frame (maskBut [.hlkLinkStatus] [.fab]) s s0 := by
    unfold s0
    split
    · exact State.logErr_frame h.frame rfl
    · exact h.frame
  have hlink : s0.link l = s.link l := State.link_congr (by rw [(hlogged.parts .fab rfl : s0.fab = s.fab)]) l
  have hs1 : s1.Sound q := State.updLink_sound (State.unlink_sound hs0)
  have hu := State.unlink_spec hl hs0 (st := lkDown) (by decide)
  have hdown : State.Unlinked l lkDown s s1 :=
    ⟨hu.state, hu.bundle, hu.valid, hu.serial, hu.cap.trans (State.getF_of_frame hlogged hl rfl), by rw [State.link_updLink_same]; rfl⟩
  have hnew : s1.link l = { LinkSt.empty with signal := (s.link l).signal, tried := (s.link l).tried } := by
    rw [← hlink]
    exact (State.link_updLink_same ..).trans (by rw [State.unlink_link])
  obtain ⟨hbundled, hbundle⟩ := State.rebundle_relinked hs1 hl
  have hrerouted : State.Relinked q 61 l s1.rebundle (s1.rebundle.reroute fs) :=
    .of_frame hl (State.reroute_frame hbundled.sound.frame rfl) (State.reroute_sound hbundled.sound) (State.reroute_ports ..)
  have hall := hbundled.trans (hrerouted.mono (m := 54) (by decide))
  have hport := State.port_of_ports hall.ports l
  refine ⟨hdown.relinked hl (.inl rfl) hall (fun hidle => ?_) ?_, ?_, ?_⟩
  · rw [hrerouted.kept Fld.hlkLkBundle rfl (by decide), hbundle hidle]
  · exact State.reroute_frame (State.rebundle_frame hs1.frame rfl) rfl
  · rw [State.port_signal hport, hnew]
  · rw [State.port_tried hport, hnew]

/-! ### Retraining (R582) -/

theorem State.retrain_spec (h : s.Sound q) (n : Nat) : (s.retrain l n).getF Fld.hlkLkState l = lkTraining ∧
    ((s.retrain l n).link l).failed = n ∧
    (s.retrain l n).getF Fld.hlkLkRetrains l = min (s.getF Fld.hlkLkRetrains l + 1) (2 ^ 8 - 1) := by
  unfold State.retrain
  extract_lets b others fs s1
  have hunlinked : (s.unlink l lkTraining).Sound q := State.unlink_sound h
  have hs1 : s1.Sound q := State.updLink_sound (State.bump_sound hunlinked)
  have hstate : s1.getF Fld.hlkLkState l = lkTraining := by
    rw [State.updLink_getF, State.getF_bump_apart hunlinked (by decide) hl (.inl (by decide))]
    exact (State.unlink_spec hl h (by decide)).state
  have hcount : s1.getF Fld.hlkLkRetrains l = min (s.getF Fld.hlkLkRetrains l + 1) (2 ^ 8 - 1) := by
    have hframe : State.Frame (maskBut [.hlkLinkErr] []) s (s.unlink l lkTraining) := State.unlink_frame h.frame rfl
    have hbumped := State.getF_bump_width (f := Fld.hlkLkRetrains) (i := l) (w := 8) (n := 1) hunlinked ⟨by decide, by decide, hl⟩ (by decide) rfl
    rw [← State.getF_of_frame hframe hl rfl, ← hbumped]
    exact State.updLink_getF ..
  have hfailed : (s1.link l).failed = n := by rw [State.link_updLink_same]
  obtain ⟨hbundled, -⟩ := State.rebundle_relinked hs1 hl
  have hsent : State.Relinked q 54 l s1.rebundle (s1.rebundle.resendOn others fs) :=
    .of_frame hl (State.resendOn_frame hbundled.sound.frame rfl) (State.resendOn_sound hbundled.sound) (congrArg Prod.snd (State.resendOn_seen ..))
  have hall := hbundled.trans hsent
  have hframe : State.Frame (maskBut [.hlkLinkErr] []) s1 (s1.rebundle.resendOn others fs) :=
    State.resendOn_frame (State.rebundle_frame hs1.frame rfl) rfl
  refine ⟨(hall.idle (by rw [hstate]; decide)).trans hstate, (State.port_failed (State.port_of_ports hall.ports l)).trans hfailed, ?_⟩
  rw [State.getF_of_frame hframe hl rfl, hcount]

/-! ### A HELLO (R601, R602) -/

omit hl in
@[simp] theorem State.enterLinked_seen (s : State) (l : Nat) : (s.enterLinked l).seen = s.seen := by
  rw [← State.setF_seen s Fld.hlkLkState l lkLinked]
  exact State.updLink_seen _ l fun _ => rfl

omit hl in
@[simp] theorem State.placeLink_seen (s : State) (l : Nat) : (s.placeLink l).seen = s.seen := by
  unfold State.placeLink
  split
  · rfl
  · next x _ =>
    split
    · rfl
    · extract_lets i s1
      have hs1 : s1.seen = s.seen := by
        unfold s1
        split <;> simp
      split_ifs <;> simp [hs1]

/-- A link with a known neighbour takes the state that the two devices call for, with the reason where it is isolated. -/
theorem State.placeLink_spec (h : s.Sound q) {x : Hello} (hpeer : (s.link l).peer = some x) (hcarries : s.linkCarries l = true) :
    (s.placeLink l).getF Fld.hlkLkIsolate l = s.isolation l x ∧
    (s.isolation l x ≠ 0 → (s.placeLink l).getF Fld.hlkLkState l = lkIsolated) ∧
    (s.isolation l x = 0 → (s.placeLink l).getF Fld.hlkLkState l = lkLinked ∨ (s.placeLink l).getF Fld.hlkLkState l = lkActive) ∧
    ∀ f : Field, f.reg = .hlkLinkStatus → 30 < f.lo → f.hi < 61 → (s.placeLink l).getF f l = s.getF f l := by
  have hlt : s.isolation l x < 2 ^ 3 := by
    unfold State.isolation
    extract_lets st
    split_ifs <;> decide
  unfold State.placeLink
  rw [hpeer]
  dsimp only
  rw [if_neg (by simp [hcarries])]
  generalize s.isolation l x = i at hlt
  generalize hs1 : (if s.getF Fld.hlkLkIsolate l = i then s else s.setF Fld.hlkLkIsolate l i) = s1
  have hsound : s1.Sound q := by
    rw [← hs1]
    split
    · exact h
    · exact State.setF_sound h
  have hiso : s1.getF Fld.hlkLkIsolate l = i := by
    rw [← hs1]
    split
    · next hsame => exact hsame
    · exact (State.getF_setF h ⟨by decide, by decide, hl⟩).trans (Nat.mod_eq_of_lt hlt)
  have hkept {f : Field} (hf : f.reg = .hlkLinkStatus) (hlo : 30 < f.lo) : s1.getF f l = s.getF f l := by
    rw [← hs1]
    split
    · rfl
    · exact State.getF_setF_apart h (by decide) (by rw [hf]; exact hl) (.inr (.inr (.inr hlo)))
  have hset {f : Field} (v : Nat) (hf : f.reg = .hlkLinkStatus) (hhi : f.hi < 61) :
      (s1.setF Fld.hlkLkState l v).getF f l = s1.getF f l :=
    State.getF_setF_apart hsound (by decide) (by rw [hf]; exact hl) (.inr (.inr (.inl hhi)))
  split
  · next hne =>
    have hne : i ≠ 0 := by simpa using hne
    exact ⟨(hset _ rfl (by decide)).trans hiso, fun _ => State.getF_setF hsound ⟨by decide, by decide, hl⟩, fun hzero => absurd hzero hne,
      fun f hf hlo hhi => (hset _ hf hhi).trans (hkept hf hlo)⟩
  · next hzero =>
    have hzero : i = 0 := by simpa using hzero
    split
    · refine ⟨(State.updLink_getF ..).trans ((hset _ rfl (by decide)).trans hiso), fun hne => absurd hzero hne,
        fun _ => .inl ((State.updLink_getF ..).trans (State.getF_setF hsound ⟨by decide, by decide, hl⟩)),
        fun f hf hlo hhi => (State.updLink_getF ..).trans ((hset _ hf hhi).trans (hkept hf hlo))⟩
    · next hnot =>
      refine ⟨hiso, fun hne => absurd hzero hne, fun _ => ?_, fun f hf hlo _ => hkept hf hlo⟩
      rw [hkept rfl (by decide)]
      simpa [State.linkCarries, State.linkRuns, hnot] using hcarries

omit hl in
/-- The reason to isolate a link reads three registers. -/
theorem State.isolation_congr (hname : t.getF Fld.hlkFbName 0 = s.getF Fld.hlkFbName 0) (hnode : t.getF Fld.hlkNdState 0 = s.getF Fld.hlkNdState 0)
    (hiso : t.getF Fld.hlkLkIsolate l = s.getF Fld.hlkLkIsolate l) (x : Hello) : t.isolation l x = s.isolation l x := by
  unfold State.isolation
  rw [hname, hnode, hiso]

omit hl in
/-- A HELLO is heard where the link's registers show the neighbour and the link is in the state that isolation calls for. -/
theorem State.hasHeard_of_isolation {x : Hello} (hpeer : (t.link l).peer = some x) (hlink : t.getF Fld.hlkLkPeerLink l = x.link % 2 ^ 7)
    (hserial : t.getF Fld.hlkLkPeerSerial l = x.serial % 2 ^ 64)
    (hvalid : t.getF Fld.hlkLkPeerValid l = if x.ndState = 1 ∨ x.ndState = 2 then 1 else 0)
    (hnode : t.getF Fld.hlkLkPeerNode l = if x.ndState = 1 ∨ x.ndState = 2 then x.node % 2 ^ 15 else 0)
    (hiso : t.getF Fld.hlkLkIsolate l = s.isolation l x) (hout : s.isolation l x ≠ 0 → t.getF Fld.hlkLkState l = lkIsolated)
    (hin : s.isolation l x = 0 → t.getF Fld.hlkLkState l = lkLinked ∨ t.getF Fld.hlkLkState l = lkActive) : t.hasHeard s l x := by
  have hisolated {k : Nat} (hk : s.isolation l x = k) (hne : k ≠ 0) : t.getF Fld.hlkLkState l = lkIsolated ∧ t.getF Fld.hlkLkIsolate l = k :=
    ⟨hout (by rwa [hk]), hiso.trans hk⟩
  refine ⟨hpeer, hlink, hserial, fun hv => ⟨by rw [hvalid, if_pos hv], by rw [hnode, if_pos hv]⟩, fun h1 h2 => ?_, fun hname => ?_,
    fun hname hst => ?_, fun hname hs3 hx3 h4 => ?_, fun hname hs3 hx3 h4 => ?_, fun hname hs3 hx3 h4 => ?_⟩
  · have hv : ¬(x.ndState = 1 ∨ x.ndState = 2) := by tauto
    exact ⟨by rw [hvalid, if_neg hv], by rw [hnode, if_neg hv]⟩
  · exact hisolated (by simp [State.isolation, hname]) (by decide)
  · exact hisolated (by simp [State.isolation, hname, hst]) (by decide)
  · exact hisolated (by simp [State.isolation, hname, hs3, hx3, h4]) (by decide)
  · have hs4 : ¬4 ≤ s.getF Fld.hlkNdState 0 := by omega
    have hx4 : ¬4 ≤ x.ndState := by omega
    exact hisolated (by simp [State.isolation, hname, hs3.ne, hx3.ne, hs4, hx4, h4]) (by decide)
  · have hs4 : ¬4 ≤ s.getF Fld.hlkNdState 0 := by omega
    have hx4 : ¬4 ≤ x.ndState := by omega
    have hzero : s.isolation l x = 0 := by simp [State.isolation, hname, hs3.ne, hx3.ne, hs4, hx4, h4]
    exact ⟨hin hzero, hiso.trans hzero⟩

/-- A HELLO is heard whole once what the device showed of the neighbour stands and the bundles are worked out again. -/
theorem State.takeHello_hasHeard (h : s.Sound q) (hcarries : s.linkCarries l = true) (x : Hello) : (s.takeHello l x).hasHeard s l x := by
  unfold State.takeHello
  extract_lets valid s1
  generalize hu : (s1.setF Fld.hlkLkPeerSerial l x.serial).updLink l _ = u
  have hs1 : s1.Sound q := State.setFs_sound h
  have hsound : u.Sound q := hu ▸ State.updLink_sound (State.setF_sound hs1)
  have hpeer : (u.link l).peer = some x := by rw [← hu, State.link_updLink_same]
  have hserial : u.getF Fld.hlkLkPeerSerial l = x.serial % 2 ^ 64 := by
    rw [← hu, State.updLink_getF]
    exact State.getF_setF hs1 ⟨by decide, by decide, hl⟩
  have hset {f : Field} (hf : f.reg = .hlkLinkStatus) : u.getF f l = s1.getF f l := by
    rw [← hu, State.updLink_getF]
    exact State.getF_setF_apart hs1 (by decide) (by rw [hf]; exact hl) (.inl (by rw [hf]; decide))
  have hregs : State.Frame (maskBut [.hlkFabric, .hlkNode] []) s u := by
    rw [← hu]
    exact State.updLink_frame (State.setF_frame (State.setFs_frame h.frame
      (fieldsMask_cons rfl (fieldsMask_cons rfl (fieldsMask_cons rfl fieldsMask_nil)))) rfl) rfl
  have hlink : u.getF Fld.hlkLkPeerLink l = x.link % 2 ^ 7 := by
    rw [hset rfl]
    exact State.getF_setFs h ⟨by decide, by decide, hl⟩ [] _ rfl rfl
  have hnode : u.getF Fld.hlkLkPeerNode l = (if valid then x.node else 0) % 2 ^ 15 := by
    rw [hset rfl]
    exact State.getF_setFs h ⟨by decide, by decide, hl⟩ [_] _ rfl rfl
  have hvalid : u.getF Fld.hlkLkPeerValid l = (if valid then 1 else 0) % 2 ^ 1 := by
    rw [hset rfl]
    exact State.getF_setFs h ⟨by decide, by decide, hl⟩ [_, _] _ rfl rfl
  have hstate : u.getF Fld.hlkLkState l = s.getF Fld.hlkLkState l := (hset rfl).trans (State.getF_setFs_of_clear h hl rfl)
  have hiso : u.getF Fld.hlkLkIsolate l = s.getF Fld.hlkLkIsolate l := (hset rfl).trans (State.getF_setFs_of_clear h hl rfl)
  have hcalls : u.isolation l x = s.isolation l x :=
    State.isolation_congr (State.getF_of_frame hregs (by decide) rfl) (State.getF_of_frame hregs (by decide) rfl) hiso x
  have hruns : u.linkCarries l = true := by
    rw [State.linkCarries, State.linkRuns, hstate]
    exact hcarries
  obtain ⟨hplaced, hout, hin, hkept⟩ := State.placeLink_spec hl hsound hpeer hruns
  obtain ⟨hbundled, -⟩ := State.rebundle_relinked (State.placeLink_sound (l := l) hsound) hl
  have hframe : State.Frame (maskBut [.hlkLinkPeer] []) u (u.placeLink l).rebundle :=
    State.rebundle_frame (State.placeLink_frame hsound.frame rfl) rfl
  have hshown {f : Field} (hf : f.reg = .hlkLinkStatus) (hlo : 30 < f.lo) (hhi : f.hi < 54) :
      (u.placeLink l).rebundle.getF f l = u.getF f l :=
    (hbundled.kept f hf hhi).trans (hkept f hf hlo (Nat.lt_trans hhi (by decide)))
  rw [hcalls] at hplaced hout hin
  refine State.hasHeard_of_isolation ?_ ((hshown rfl (by decide) (by decide)).trans hlink)
    ((State.getF_of_frame hframe hl rfl).trans hserial) ?_ ?_
    ((hbundled.kept Fld.hlkLkIsolate rfl (by decide)).trans hplaced) (fun hne => ?_) fun hzero => ?_
  · rw [State.port_peer (State.port_of_ports hbundled.ports l), State.port_peer (State.seen_port (State.placeLink_seen ..) l), hpeer]
  · rw [hshown rfl (by decide) (by decide), hvalid]
    split <;> rfl
  · rw [hshown rfl (by decide) (by decide), hnode]
    split <;> rfl
  · exact (hbundled.idle (by rw [hout hne]; decide)).trans (hout hne)
  · obtain hsame | ⟨-, hactive⟩ := hbundled.state
    · rw [hsame]
      exact hin hzero
    · exact .inr hactive

/-- A HELLO changes nothing of a link's port but the neighbour. -/
theorem State.takeHello_port (h : s.Sound q) (x : Hello) :
    ((s.takeHello l x).link l).port = { (s.link l).port with peer := some x } := by
  unfold State.takeHello
  extract_lets valid s1
  have hsound : ((s1.setF Fld.hlkLkPeerSerial l x.serial).updLink l fun k => { k with peer := some x }).Sound q :=
    State.updLink_sound (State.setF_sound (State.setFs_sound h))
  obtain ⟨hbundled, -⟩ := State.rebundle_relinked (State.placeLink_sound (l := l) hsound) hl
  rw [State.port_of_ports hbundled.ports l, State.seen_port (State.placeLink_seen ..) l, State.link_updLink_same, State.setF_link,
    State.setFs_link]
  rfl

/-- What is heard stays heard where the link's registers and its port stay. -/
theorem State.hasHeard_of_frame {x : Hello} (hheard : s.hasHeard r l x) (hports : t.seen.2 = s.seen.2)
    (hframe : State.Frame (maskBut [.hlkLinkStatus, .hlkLinkPeer] []) s t) : t.hasHeard r l x := by
  have hpeer : (t.link l).peer = (s.link l).peer := State.port_peer (State.port_of_ports hports l)
  have hstatus {f : Field} (hf : f.reg = .hlkLinkStatus) : t.getF f l = s.getF f l :=
    State.getF_of_frame hframe (by rw [hf]; exact hl) (by rw [hf]; rfl)
  have hserial : t.getF Fld.hlkLkPeerSerial l = s.getF Fld.hlkLkPeerSerial l := State.getF_of_frame hframe hl rfl
  unfold State.hasHeard at hheard ⊢
  rw [hpeer, hserial, hstatus (f := Fld.hlkLkPeerLink) rfl, hstatus (f := Fld.hlkLkPeerValid) rfl, hstatus (f := Fld.hlkLkPeerNode) rfl,
    hstatus (f := Fld.hlkLkState) rfl, hstatus (f := Fld.hlkLkIsolate) rfl]
  exact hheard

omit hl in
/-- A HELLO is heard against the fabric name, the node state and the link's reason of isolation. -/
theorem State.hasHeard_congr {x : Hello} (hheard : t.hasHeard s l x) (hname : s.getF Fld.hlkFbName 0 = r.getF Fld.hlkFbName 0)
    (hnode : s.getF Fld.hlkNdState 0 = r.getF Fld.hlkNdState 0) (hiso : s.getF Fld.hlkLkIsolate l = r.getF Fld.hlkLkIsolate l) :
    t.hasHeard r l x := by
  unfold State.hasHeard at hheard ⊢
  rwa [← hname, ← hnode, ← hiso]

end

end Sys2Proof.Machine
end

section
/-! PROOF. Signal, training, retraining and loss of a link (R573, R582, R583, R601, R626, R836). -/

namespace Sys2Proof.Machine

variable {q : List Instr} {l : Nat} {s : State} {x : Hello}

/-! ### Frames -/

@[simp] theorem State.noteFabric_seen (s : State) : s.noteFabric.seen = s.seen := by
  unfold State.noteFabric
  split
  · exact State.seen_congr (State.setFs_fab ..)
  · rfl

/-- A device is up as its stage and its power say. -/
theorem State.isUp_of_frame {t : State} (h : State.Frame (maskBut [.sysBoot] [.pw]) s t) : t.isUp = s.isUp := by
  have hpw : t.pw = s.pw := h.parts .pw rfl
  have hstage : t.stage = s.stage := State.getF_of_frame h (by decide) rfl
  unfold State.isUp State.live
  rw [hpw, hstage]

section
variable (hl : l < 96)
include hl

theorem State.mayTrain_eq : s.mayTrain l = (s.isUp && s.getF Fld.hlkLkCap l != 0 && (s.link l).signal) := by
  simp [State.mayTrain, hl]

/-! ### Signal (R836) -/

theorem exec_signalPresent (hlive : s.live = true) : exec (.signalPresent l) s = .next
    (let s1 := s.updLink l fun k => { k with signal := true, tried := k.tried || s.isUp }
    if s1.mayTrain l && s1.getF Fld.hlkLkState l == lkDown then s1.setF Fld.hlkLkState l lkTraining else s1) :=
  congrArg Host.Outcome.next (State.ifB_true (by simp [hlive, hl]) _)

theorem signalPresent_trains (h : s.Sound q) (hlive : s.live = true) : ∃ t, exec (.signalPresent l) s = .next t ∧
    (t.link l).signal = true ∧
    (s.isUp = true → s.getF Fld.hlkLkCap l ≠ 0 → s.getF Fld.hlkLkState l = lkDown →
      t.getF Fld.hlkLkState l = lkTraining ∧ (t.link l).tried = true) ∧
    (s.isUp = false ∨ s.getF Fld.hlkLkCap l = 0 ∨ s.getF Fld.hlkLkState l ≠ lkDown → State.SameBut [] [.fab] s t) := by
  rw [exec_signalPresent hl hlive]
  extract_lets s1
  have hs1 : s1.Sound q := State.updLink_sound h
  have hlink : s1.link l = { s.link l with signal := true, tried := (s.link l).tried || s.isUp } := State.link_updLink_same ..
  have hcond : (s1.mayTrain l && s1.getF Fld.hlkLkState l == lkDown) = true ↔
      s.isUp = true ∧ s.getF Fld.hlkLkCap l ≠ 0 ∧ s.getF Fld.hlkLkState l = lkDown := by
    have hup : s1.isUp = s.isUp := rfl
    rw [State.mayTrain_eq hl, hlink, hup, State.updLink_getF, State.updLink_getF]
    simp [and_assoc]
  refine ⟨_, rfl, ?_⟩
  split
  · next htrains =>
    obtain ⟨hup, hcap, hdown⟩ := hcond.1 htrains
    rw [State.setF_link, hlink]
    exact ⟨rfl, fun hup _ _ => ⟨State.getF_setF hs1 ⟨by decide, by decide, hl⟩, by simp [hup]⟩, fun hno => by simp [hup, hcap, hdown] at hno⟩
  · next hstays =>
    rw [hlink]
    exact ⟨rfl, fun hup hcap hdown => absurd (hcond.2 ⟨hup, hcap, hdown⟩) hstays,
      fun _ => (State.updLink_frame (State.Frame.refl h.rise) (Nat.or_self _)).sameBut (by rfl)⟩

theorem trainingRetry_trains (h : s.Sound q) (hup : s.isUp = true) (hcap : s.getF Fld.hlkLkCap l ≠ 0) (hsignal : (s.link l).signal = true)
    (hdown : s.getF Fld.hlkLkState l = lkDown) :
    ∃ t, exec (.trainingRetry l) s = .next t ∧ t.getF Fld.hlkLkState l = lkTraining ∧ (t.link l).failed = 0 := by
  have hexec : exec (.trainingRetry l) s = .next ((s.updLink l fun k => { k with failed := 0 }).setF Fld.hlkLkState l lkTraining) :=
    congrArg Host.Outcome.next (State.ifB_true (by simp [State.mayTrain_eq hl, hup, hcap, hsignal, hdown]) _)
  refine ⟨_, hexec, State.getF_setF (State.updLink_sound h) ⟨by decide, by decide, hl⟩, ?_⟩
  rw [State.setF_link, State.link_updLink_same]

/-- A link that has gone down, with the fabric condition looked at again. -/
theorem State.lost_spec (h : s.Sound q) : State.Unlinked l lkDown s (s.linkDown l).noteFabric ∧
    ((s.linkDown l).noteFabric.link l).signal = (s.link l).signal ∧ ((s.linkDown l).noteFabric.link l).tried = (s.link l).tried := by
  obtain ⟨⟨hstate, hbundle, hvalid, hserial, hcap, hpeer⟩, hsignal, htried⟩ := State.linkDown_spec hl h
  have hdown : (s.linkDown l).Sound q := State.linkDown_sound h
  generalize s.linkDown l = u at *
  have hframe : State.Frame (maskBut [.hlkLinkStatus, .hlkLinkPeer] []) u u.noteFabric := State.noteFabric_frame hdown.frame rfl
  have hport := State.port_of_ports (congrArg Prod.snd (State.noteFabric_seen u)) l
  exact ⟨⟨(State.getF_of_frame hframe hl rfl).trans hstate, (State.getF_of_frame hframe hl rfl).trans hbundle,
    (State.getF_of_frame hframe hl rfl).trans hvalid, (State.getF_of_frame hframe hl rfl).trans hserial,
    (State.getF_of_frame hframe hl rfl).trans hcap, (State.port_peer hport).trans hpeer⟩,
    (State.port_signal hport).trans hsignal, (State.port_tried hport).trans htried⟩

theorem lossOfSignal_downs (h : s.Sound q) (hlive : s.live = true) (hne : s.getF Fld.hlkLkState l ≠ lkDown) :
    ∃ t, exec (.lossOfSignal l) s = .next t ∧ t.getF Fld.hlkLkState l = lkDown ∧ (t.link l).signal = false ∧
      (t.link l).peer = none ∧ t.getF Fld.hlkLkBundle l = 127 ∧ t.getF Fld.hlkLkPeerValid l = 0 ∧ t.getF Fld.hlkLkPeerSerial l = 0 := by
  have hexec : exec (.lossOfSignal l) s = .next ((s.updLink l fun k => { k with signal := false }).linkDown l).noteFabric :=
    congrArg Host.Outcome.next ((State.ifB_true (by simp [hlive, hl]) _).trans (if_neg (by simpa using hne)))
  obtain ⟨hdown, hsignal, -⟩ := State.lost_spec hl (s := s.updLink l fun k => { k with signal := false }) (State.updLink_sound h)
  rw [State.link_updLink_same] at hsignal
  exact ⟨_, hexec, hdown.state, hsignal, hdown.peer, hdown.bundle, hdown.valid, hdown.serial⟩

/-! ### The end of a training (R582, R836) -/

section
variable (hup : s.isUp = true) (htraining : s.getF Fld.hlkLkState l = lkTraining)
include hup htraining

theorem exec_trainingComplete (ok : Bool) : exec (.trainingComplete l ok x) s = .next
    (if ok then
      let s1 := (s.enterLinked l).updLink l fun k => { k with
        tried := true, failed := 0, txBlock := [], rxPos := 0, rxBad := false, again := k.unacked.any fun e => e.1.vc != 0 }
      let s2 := (s1.resendFrom l true (s1.link l).sendable).takeHello l x
      (s2.sendLink l 0x01 0 (.hello l (s2.helloOf l))).noteFabric
    else if (s.link l).failed = 1 then s.retrain l 2
    else ((s.updLink l fun k => { k with tried := true }).linkDown l).noteFabric) :=
  congrArg Host.Outcome.next (State.ifB_true (by simp [hup, hl, htraining]) _)

theorem trainingComplete_hears (h : s.Sound q) : ∃ t, exec (.trainingComplete l true x) s = .next t ∧ t.hasHeard s l x ∧
    (t.link l).tried = true ∧ (t.link l).failed = 0 := by
  rw [exec_trainingComplete hl hup htraining, if_pos rfl]
  extract_lets s1 s2
  have hentered : (s.enterLinked l).Sound q := State.enterLinked_sound h
  have hs1 : s1.Sound q := State.updLink_sound hentered
  have hnew : (s1.link l).tried = true ∧ (s1.link l).failed = 0 := by
    rw [State.link_updLink_same]
    exact ⟨rfl, rfl⟩
  have hlinked : s1.getF Fld.hlkLkState l = lkLinked := State.getF_setF h ⟨by decide, by decide, hl⟩
  have hiso : s1.getF Fld.hlkLkIsolate l = s.getF Fld.hlkLkIsolate l :=
    State.getF_setF_apart h (by decide) hl (.inr (.inr (by decide)))
  have hregs : State.Frame (maskBut [.hlkFabric, .hlkNode] []) s s1 := State.updLink_frame (State.enterLinked_frame h.frame rfl) rfl
  let u := s1.resendFrom l true (s1.link l).sendable
  have hu : u.Sound q := State.resendFrom_sound hs1
  have hresent : State.Frame (maskBut [.hlkFabric, .hlkNode, .hlkLinkStatus] []) s1 u := State.resendFrom_frame hs1.frame rfl
  have hcarries : u.linkCarries l = true := by
    rw [State.linkCarries, State.linkRuns, State.getF_of_frame hresent hl rfl, hlinked]
    rfl
  have hs2 : s2.Sound q := State.takeHello_sound hu
  have hheard : s2.hasHeard u l x := State.takeHello_hasHeard hl hu hcarries x
  have hport : (s2.link l).port = { (s1.link l).port with peer := some x } := by
    rw [State.takeHello_port hl hu x, State.seen_port (State.resendFrom_seen ..)]
  let o : Out := .hello l (s2.helloOf l)
  have hsent : (s2.sendLink l 0x01 0 o).noteFabric.seen = s2.seen := (State.noteFabric_seen ..).trans (State.sendLink_seen ..)
  have hframe : State.Frame (maskBut [.hlkLinkStatus, .hlkLinkPeer] []) s2 (s2.sendLink l 0x01 0 o).noteFabric :=
    State.noteFabric_frame (State.sendLink_frame hs2.frame rfl) rfl
  have hend := (State.seen_port hsent l).trans hport
  refine ⟨_, rfl, State.hasHeard_congr (State.hasHeard_of_frame hl hheard (congrArg Prod.snd hsent) hframe) ?_ ?_ ?_, ?_, ?_⟩
  · exact (State.getF_of_frame hresent (by decide) rfl).trans (State.getF_of_frame hregs (by decide) rfl)
  · exact (State.getF_of_frame hresent (by decide) rfl).trans (State.getF_of_frame hregs (by decide) rfl)
  · exact (State.getF_of_frame hresent hl rfl).trans hiso
  · exact (congrArg LinkSt.tried hend).trans hnew.1
  · exact (congrArg LinkSt.failed hend).trans hnew.2

theorem trainingComplete_fails (h : s.Sound q) (hfirst : (s.link l).failed ≠ 1) :
    ∃ t, exec (.trainingComplete l false x) s = .next t ∧ t.getF Fld.hlkLkState l = lkDown ∧ (t.link l).tried = true := by
  obtain ⟨hdown, -, htried⟩ := State.lost_spec hl (s := s.updLink l fun k => { k with tried := true }) (State.updLink_sound h)
  rw [State.link_updLink_same] at htried
  rw [exec_trainingComplete hl hup htraining, if_neg Bool.false_ne_true, if_neg hfirst]
  exact ⟨_, rfl, hdown.state, htried⟩

theorem trainingComplete_retrains (h : s.Sound q) (hfirst : (s.link l).failed = 1) :
    ∃ t, exec (.trainingComplete l false x) s = .next t ∧ t.getF Fld.hlkLkState l = lkTraining ∧ (t.link l).failed = 2 ∧
      t.getF Fld.hlkLkRetrains l = min (s.getF Fld.hlkLkRetrains l + 1) (2 ^ 8 - 1) := by
  rw [exec_trainingComplete hl hup htraining, if_neg Bool.false_ne_true, if_pos hfirst]
  exact ⟨_, rfl, State.retrain_spec hl h 2⟩

end

/-! ### No HELLO (R601) -/

theorem exec_helloTimeout (hup : s.isUp = true) (hcarries : s.linkCarries l = true) : exec (.helloTimeout l) s = .next
    (let s1 := s.linkDown l
    if s1.mayTrain l then
      ((s1.bump Fld.hlkLkRetrains l 1).updLink l fun k => { k with failed := 1 }).setF Fld.hlkLkState l lkTraining
    else s1) :=
  congrArg Host.Outcome.next (State.ifB_true (by simp [hup, hl, hcarries]) _)

theorem helloTimeout_retrains (h : s.Sound q) (hup : s.isUp = true) (hcarries : s.linkCarries l = true) :
    ∃ t, exec (.helloTimeout l) s = .next t ∧ (t.link l).peer = none ∧
      ((s.link l).signal = true → s.getF Fld.hlkLkCap l ≠ 0 → t.getF Fld.hlkLkState l = lkTraining ∧
        (t.link l).failed = 1 ∧ t.getF Fld.hlkLkRetrains l = min (s.getF Fld.hlkLkRetrains l + 1) (2 ^ 8 - 1)) ∧
      ((s.link l).signal = false ∨ s.getF Fld.hlkLkCap l = 0 → t.getF Fld.hlkLkState l = lkDown) := by
  obtain ⟨hdown, hsignal, -⟩ := State.linkDown_spec hl h
  have hsound : (s.linkDown l).Sound q := State.linkDown_sound h
  have hretrains : (s.linkDown l).getF Fld.hlkLkRetrains l = s.getF Fld.hlkLkRetrains l :=
    State.getF_of_frame (M := maskBut [.hlkLinkErr] []) (State.linkDown_frame h.frame rfl) hl rfl
  have hmay : (s.linkDown l).mayTrain l = (s.getF Fld.hlkLkCap l != 0 && (s.link l).signal) := by
    rw [State.mayTrain_eq hl, State.isUp_of_frame (State.linkDown_frame h.frame rfl), hdown.cap, hsignal, hup, Bool.true_and]
  rw [exec_helloTimeout hl hup hcarries]
  generalize s.linkDown l = u at *
  refine ⟨_, rfl, ?_⟩
  dsimp only
  split
  · next htrains =>
    rw [hmay] at htrains
    have hbumped : (u.bump Fld.hlkLkRetrains l 1).Sound q := State.bump_sound hsound
    have hcount := State.getF_bump_width (f := Fld.hlkLkRetrains) (i := l) (w := 8) (n := 1) hsound ⟨by decide, by decide, hl⟩ (by decide) rfl
    have hlinks (v : State) : ((v.updLink l fun k => { k with failed := 1 }).setF Fld.hlkLkState l lkTraining).link l =
        { v.link l with failed := 1 } := by
      rw [State.setF_link, State.link_updLink_same]
    rw [hlinks, State.bump_link]
    refine ⟨hdown.peer, fun _ _ => ⟨State.getF_setF (State.updLink_sound hbumped) ⟨by decide, by decide, hl⟩, rfl, ?_⟩, fun hno => ?_⟩
    · rw [State.getF_setF_apart (State.updLink_sound hbumped) (by decide) hl (.inl (by decide)), State.updLink_getF, hcount, hretrains]
    · rcases hno with hno | hno <;> simp [hno] at htrains
  · next hstays =>
    rw [hmay] at hstays
    exact ⟨hdown.peer, fun hsig hcap => absurd (by simp [hsig, hcap]) hstays, fun _ => hdown.state⟩

end

/-- Settles O48: what happens to a link is one update of its port and status, followed by the bundles worked out again, which leave a link
that does not run as it is. -/
theorem linksTrainAndGoDown : Obligations.LinksTrainAndGoDown := by
  unfold Obligations.LinksTrainAndGoDown
  refine ⟨fun l s hs hlive hl => ?_, fun l s hs hup hl hcap hsignal hdown => ?_,
    fun l x s hs hup hl htraining => ⟨?_, fun hlater => ?_, fun hfirst => ?_⟩,
    fun l s hs hlive hl hne => ?_, fun l s hs hup hl hcarries => ?_⟩
  all_goals have h := State.sound_of_canonical hs
  · exact signalPresent_trains hl h hlive
  · exact trainingRetry_trains hl h hup hcap hsignal hdown
  · exact trainingComplete_hears hl hup htraining h
  · exact trainingComplete_fails hl hup htraining h hlater
  · exact trainingComplete_retrains hl hup htraining h hfirst
  · exact lossOfSignal_downs hl h hlive hne
  · exact helloTimeout_retrains hl h hup hcarries

end Sys2Proof.Machine
end
